-- ==== Sys2Proof/Word.lean ====
section
/-!
DEFINITION. The words of the device: bytes, register words, and times. Every multi-byte field is little-endian (R6).
-/
namespace Sys2Proof

/-- One byte. -/
abbrev Byte := BitVec 8

/-- A 32-bit register word. -/
abbrev W32 := BitVec 32

/-- A register of up to 64 bits; a 32-bit register has its high half zero. -/
abbrev W64 := BitVec 64

/-- A search key of up to 640 bits, kept in the low bits. -/
abbrev Key := BitVec 640

end Sys2Proof
end

