-- ==== Sys2Proof/Syntax.lean ====
section
/-!
DEFINITION. The commands of the block: what its links, pins and hosts send it, and the events of its own units, one
constructor per row of the opcode table.
-/
namespace Sys2Proof

/-- Who makes a register access (R347, R424, R473): the two PCIe functions, SPI, the bench core in machine or user mode,
the far-side bridge, the image loader, the device itself. -/
inductive Requester where
  | pcie0 | pcie1 | spi | benchM | benchU | bridge | loader | internal
  deriving DecidableEq, Repr

/-- Master index or requester code (R347, R424). -/
def Requester.code (r : Requester) : Nat :=
  match r with
  | .pcie0 => 34
  | .pcie1 => 35
  | .spi => 36
  | .benchM => 37
  | .benchU => 37
  | .bridge => 47
  | .loader => 49
  | .internal => 50

/-- The status of a PCIe completion for a device request (R458). -/
inductive CplStatus where
  | ok | ur | ca | poisoned
  deriving DecidableEq, Repr

/-- What resets an endpoint (R459). -/
inductive ResetKind where
  | flr | hot | perst
  deriving DecidableEq, Repr

/-- The registers of PCI Express configuration space that the device acts on or whose value the spec gives (R454, R455). -/
inductive CfgReg where
  | vendorDevice | command | classRev | bar0Lo | bar0Hi | subsystem | devCtl | devCtl2 | msixCtl
  | other (offset : Fin 1024)
  deriving DecidableEq, Repr

/-- What an endpoint answers with an error or counts (R457, R458). -/
inductive BadReq where
  | unsupported | badRead | badWrite | poisonedWrite | linkError
  deriving DecidableEq, Repr

/-- How an attempt to send a CAN frame ends (R480): success, arbitration lost, or an error with its LEC code and whether a
dominant bit followed the passive error flag (ISO 11898-1). -/
inductive CanEnd where
  | success | lost
  | error (lec : Fin 8) (dominant : Bool)
  deriving DecidableEq, Repr

/-- A CAN frame (R478). -/
structure CanFrame where
  ide : Bool
  id : Nat
  rtr : Bool
  fdf : Bool
  brs : Bool
  esi : Bool
  dlc : Nat
  data : List Byte
  deriving DecidableEq, Repr

/-- The commands of the block: what reaches it from outside, and its own events. One constructor per row of
`spec/opcode_table.json`. `ago` is how long before the present cycle an edge passed the ball, in units of 125 ps; `openAgo`
the same for the start block of a descriptor still open on a tap port. -/
inductive Instr where
  /-- DSC_RECEIVE (R130): A tap port captures the last data block of a base or extended descriptor that arrived on the
  Tchiric link. -/
  | dscReceive (p : Fin 32) (bytes : List Byte) (ctl : Nat) (ago : Nat)
  /-- DESCRIPTOR_ACCEPT (R15): Twelve cycles after the last-block capture, the port accepts the descriptor if its
  CRC-32C is good and binds its head reserve tag. -/
  | descriptorAccept (p : Fin 32)
  /-- TAG_GRANT (R18): In a cycle where every grant condition of R137 holds, the port moves a fresh tag from the pool
  into its reserve as a granted credit. -/
  | tagGrant (p : Fin 32) (tag : Fin 1024)
  /-- FC_SEND (R138): The port sends an FC block carrying up to 4 granted tags and its URG, when it has tags to grant,
  URG changed, or 2 µs have passed. -/
  | fcSend (p : Fin 32)
  /-- PROFILE_SELECT (R159): The profile selector takes an accepted descriptor, matches its 80-bit key against 512
  entries and gives its profile 3 cycles later. -/
  | profileSelect
  /-- COBBLER_START (R166): The lowest free cobbler takes the next waiting descriptor and runs its profile's program
  at 2 steps per cycle. -/
  | cobblerStart
  /-- SLOT_GRANT (R352): The regulator grants a free search slot to the first-ranked waiting request. -/
  | slotGrant
  /-- GRANULE_GRANT (R352): The regulator grants a free DRAM granule to the first-ranked waiting request, with a
  started round keeping precedence. -/
  | granuleGrant
  /-- LATENCY_MISS (R360): A request presented under guarantee reaches LAT_TARGET cycles of wait and a LATENCY miss is
  recorded. -/
  | latencyMiss
  /-- MEASUREMENT_WINDOW_START (R349): At each 800-cycle boundary every class receives its slot and granule accounts
  at coverage, and CEILING holds release. -/
  | measurementWindowStart
  /-- TERNARY_ANSWER (R191): A ternary or window search's answer reaches the composer 20 cycles after its slot grant.
  -/
  | ternaryAnswer (matchIn : Bool)
  /-- GRANULE_READ_DONE (R441): The data of a granted DRAM granule read reaches its requester 180 cycles after the
  grant. -/
  | granuleReadDone
  /-- WRITE_ACK (R441): The DRAM controller acknowledges a write 200 cycles after its grant or hold end, and ledgers
  and completions take it into account. -/
  | writeAck
  /-- HELD_WRITE_SERVE (R323): A write held behind earlier search reads of its granule is served once those reads are
  resolved. -/
  | heldWriteServe
  /-- REFRESH (R442): A channel pair's refresh interval expires and it refreshes for 94 cycles, unless postponed. -/
  | refresh (pair : Fin 4) (postpone : Bool)
  /-- REFRESH_RATE_CHANGE (R442): The DRAM temperature crosses 85 °C up or 82 °C down and the refresh interval halves
  or restores. -/
  | refreshRateChange (temp : BitVec 8)
  /-- COMPOSE_START (R25): Composition starts at the last answer or at A + D − 8 and merges results, toll gates,
  freshness and the waymark insert in 8 cycles. -/
  | composeStart
  /-- VERDICT_RELEASE (R30): The deadline buffer releases a verdict at A + D and its tag returns to the pool. -/
  | verdictRelease
  /-- VERDICT_TRANSMIT (R147): A verdict at the head of the transmit queue is sent as three blocks at the next free
  block boundary. -/
  | verdictTransmit (p : Fin 32)
  /-- VRD_TAG_RECLAIM (R48): A keyed write returns to the pool every held tag with no verdict in the deadline buffer
  and records a ledger break. -/
  | vrdTagReclaim (m : Requester) (v : BitVec 32)
  /-- LEDGER_FAULT_CLEAR (R42): A W1C write to TOP_LEDGER_STAT.FAULT clears fault bits and thaws the snapshot when the
  last is cleared. -/
  | ledgerFaultClear (m : Requester) (v : BitVec 32)
  /-- VAON_APPLY (R487): VAON reaches regulation, the always-on domain starts and releases PARK_REQ_N for a cold
  start. -/
  | vaonApply
  /-- VAON_LOSS (R487): VAON is lost and the device goes OFF. -/
  | vaonLoss
  /-- PGOOD_RISE (R495): PGOOD rises, the core power-on reset ends and clocks and fuse read begin. -/
  | pgoodRise
  /-- PGOOD_FALL (R487): PGOOD falls; after a PARK request it completes PARK, otherwise it is a brownout. -/
  | pgoodFall
  /-- BROWNOUT (R526): VDD or VDDM below its threshold for 2 µs is treated as a PGOOD fall. -/
  | brownout
  /-- RESET_PIN (R533): RESET_N held low for 1 µs or more resets the device, with a cold start at release. -/
  | resetPin
  /-- WOKEN (R495): The fuses have been read, the device enters WOKEN and its start steps begin. -/
  | woken (straps : Fin 8)
  /-- DRAM_TRAINING (R443): Cold start trains every DRAM channel, or a warm start verifies stored parameters and
  retrains on failure. -/
  | dramTraining (testOk : Bool)
  /-- ILT_READ (R51): The loader finishes reading both ILT copies and picks the valid one with the higher SEQ. -/
  | iltRead (a : List Byte) (b : List Byte)
  /-- READ_FAIL (R73): A flash read that does not complete within 1 ms fails the copy. -/
  | readFail
  /-- IMAGE_FETCH_DONE (R66): The fetch and digest of an image copy end and the loader authenticates and admits it in
  order. -/
  | imageFetchDone (bytes : List Byte)
  /-- IMAGE_APPLY_END (R76): Apply ends: IMG_LOCK is set unless held, staging memory cleared, the bench core released
  and STAGED entered. -/
  | imageApplyEnd
  /-- DRAM_CLEAR_END (R444): The DRAM clear of all granules ends and granule grants may begin. -/
  | dramClearEnd
  /-- READY (R489): The device enters READY when the DRAM clear has ended and, in a cold start, time locked or 5 ms
  passed. -/
  | ready
  /-- CHECKPOINT_WRITE_DONE (R504): A checkpoint-store write completes with its CRC written last. -/
  | checkpointWriteDone
  /-- RELOAD_NEXT (R80): Writing RELOAD_NEXT invalidates the configuration copy so the next start is cold. -/
  | reloadNext (m : Requester)
  /-- HOST_LOAD (R82): Writing HOST_LOAD loads and checks an image from the scratchpad. -/
  | hostLoad (m : Requester)
  /-- LOCK (R85): Writing 1 to IMG_LOCK.LOCK locks every RWL field. -/
  | lock (m : Requester)
  /-- FLASH_COMMAND (R81): A GO on IMG_FCMD runs a 1S flash command, or is refused. -/
  | flashCommand (m : Requester) (v : BitVec 32) (data : List Byte)
  /-- FLASH_STATUS_POLL (R81): Every 10 µs the loader reads the flash status until ready, ending the command. -/
  | flashStatusPoll (busy : Bool)
  /-- FLASH_TIMEOUT (R81): After 4 s of busy status the loader ends the command and sets FAILED. -/
  | flashTimeout
  /-- PPS_EDGE (R93): A rising edge on PPS_IN is captured and accepted or rejected, driving the servo. -/
  | ppsEdge (k : Fin 2) (ago : Nat) (high : Nat)
  /-- REF_MEASURE_END (R94): A 1 ms REF_IN measurement ends and updates the frequency term. -/
  | refMeasureEnd (ppt : Int) (inRange : Bool)
  /-- SOURCE_LOSS (R92): The source in use exceeds its loss time and the servo switches to the backup or HOLDOVER. -/
  | sourceLoss (c : Fin 6)
  /-- MIL_CTRL_WRITE (R90): A write to MIL_CTRL selects primary and backup sources and moves the servo state. -/
  | milCtrlWrite (m : Requester) (v : BitVec 32)
  /-- MIL_RATE_WRITE (R98): A write to MIL_RATE sets the rate under HOST source, or is ignored. -/
  | milRateWrite (m : Requester) (v : BitVec 32)
  /-- MIL_OFFSET_WRITE (R95): A write to MIL_OFFSET issues a signed correction. -/
  | milOffsetWrite (m : Requester) (v : BitVec 64)
  /-- MIL_SET_WRITE (R95): A write to MIL_SET issues a correction to an absolute road time. -/
  | milSetWrite (m : Requester) (v : BitVec 64)
  /-- STEP_BOUNDARY (R96): A pending step takes effect at its boundary, seen by every unit together. -/
  | stepBoundary
  /-- SLEW_END (R96): The slew remainder reaches zero and SLEWING clears. -/
  | slewEnd
  /-- MIL_TIME_READ (R88): A read of MIL_TIME's low word latches its high word and MIL_TIME_AUX for the master. -/
  | milTimeRead (m : Requester)
  /-- DREQ_SEND (R102): Once per PERIOD a port with link up sends a delay request stamped as t1. -/
  | dreqSend (port : Fin 34) (ago : Nat)
  /-- DRSP_RECEIVE (R145): A delay response arrives, is stamped t4 and its rtt accepted or not. With no `turn`
  the block is the neighbour's own request on a welt port, which is answered (R389). -/
  | drspReceive (port : Fin 34) (seq : BitVec 16) (turn : Option (BitVec 32)) (ago : Nat)
  /-- DRSP_LOST (R145): No usable DRSP arrives within 100 µs of t1 and the exchange is counted lost. -/
  | drspLost (port : Fin 34)
  /-- DLY_FAIL (R103): Sixteen periods pass with no accepted exchange and the port's delay loses validity. -/
  | dlyFail (port : Fin 34)
  /-- TIME_MARK_SEND (R104): At each 1,000 ns multiple a port sends a time mark with stamp, dly_out, VALID and BASE.
  -/
  | timeMarkSend (port : Fin 34) (ago : Nat)
  /-- TIME_MARK_RECEIVE (R106): A slave receives a welt time mark and follows the upstream road time. -/
  | timeMarkReceive (egress : BitVec 72) (dly : BitVec 23) (valid : Bool) (base : BitVec 8) (ago : Nat) (ann : Option (Int × Nat × Bool))
  /-- TRIGGER_RISE (R108): A trigger output's pulse rises at its grid time and is recorded and counted. -/
  | triggerRise (n : Fin 8)
  /-- TRIGGER_FALL (R108): A trigger output's pulse falls after its WIDTH. -/
  | triggerFall (n : Fin 8)
  /-- TRIG_ENABLE (R109): A write to MIL_TRIG_CTRL enables or disables a trigger, refused on invalid settings. -/
  | trigEnable (m : Requester) (n : Fin 8) (v : BitVec 32)
  /-- TRIG_PHASE_WRITE (R109): A PHASE write takes effect at the first pulse on the new grid at least 1 µs later. -/
  | trigPhaseWrite (m : Requester) (n : Fin 8) (v : BitVec 32)
  /-- PPS_OUT_RISE (R110): A PPS output rises at k × 10⁹ + OFFSET ns. -/
  | ppsOutRise (k : Fin 2)
  /-- PPS_OUT_FALL (R110): A PPS output falls after WIDTH µs. -/
  | ppsOutFall (k : Fin 2)
  /-- AON_CALIBRATION_END (R111): A calibration window of the 32.768 kHz clock ends and its period is kept. -/
  | aonCalibrationEnd (period : BitVec 32)
  /-- BLOCK_LOCK_GAIN (R119): A tap port gains block lock after 64 valid sync headers and moves to LOCK. -/
  | blockLockGain (p : Fin 32)
  /-- BLOCK_LOCK_LOSS (R125): A tap port loses block lock and returns to SEEK, discarding an open descriptor. -/
  | blockLockLoss (p : Fin 32) (openAgo : Option Nat)
  /-- TRAIN_RECEIVE (R127): A tap port receives a valid TRAIN block, advancing to TRAIN and setting ACK. -/
  | trainReceive (p : Fin 32) (ver : BitVec 8) (role : BitVec 1) (vspace : BitVec 16) (ack : Bool) (openAgo : Option Nat)
  /-- TAP_UP (R127): After the ACK handshake and 16 more TRAIN blocks the port enters UP and replays its reserve. -/
  | tapUp (p : Fin 32)
  /-- TRAIN_FAIL (R125): A port in LOCK or TRAIN for 1 ms without UP returns to SEEK. -/
  | trainFail (p : Fin 32)
  /-- TAP_RESTART (R152): Writing RESTART returns a tap link to SEEK with its reserve kept. -/
  | tapRestart (m : Requester) (p : Fin 32) (v : BitVec 32) (openAgo : Option Nat)
  /-- TAP_ENABLE (R125): A change of TAP_CTRL.EN moves a port between OFF and SEEK. -/
  | tapEnable (m : Requester) (p : Fin 32) (v : BitVec 32) (openAgo : Option Nat)
  /-- TAP_DEPTH_WRITE (R141): A DEPTH write changes the port's credit depth subject to the 512 sum. -/
  | tapDepthWrite (m : Requester) (p : Fin 32) (v : BitVec 32)
  /-- FC_RECEIVE (R135): A partner FC block in UP updates VCONS and urgency and may request a replay. -/
  | fcReceive (p : Fin 32) (vcons : BitVec 16) (urg : BitVec 2) (req : BitVec 2)
  /-- TIMEOUT (R128): No valid FC block for 64 µs returns the port to SEEK. -/
  | timeout (p : Fin 32) (openAgo : Option Nat)
  /-- ERR_RECEIVE (R149): An ERR block from the partner is recorded and counted. -/
  | errReceive (p : Fin 32) (code : BitVec 8) (detail : BitVec 16)
  /-- ERR_SEND (R149): The port sends an ERR block for OVERRUN, TRUNC, SPAN or CHK. -/
  | errSend (p : Fin 32)
  /-- BLOCK_ERROR (R148): A SYNC, TYPE, CHK or STRAY block error is classified and counted. -/
  | blockError (p : Fin 32) (kind : Fin 6) (octet : BitVec 8) (openAgo : Option Nat)
  /-- TAP_FORCE_CRED (R142): A keyed write returns a down port's reserve to the pool and re-bases its CREDIT ledger.
  -/
  | tapForceCred (m : Requester) (v : BitVec 32)
  /-- PROFILE_COMMIT (R169): A write to word 7 of CBL_PROF commits the profile record after the admission checks. -/
  | profileCommit (m : Requester) (n : Fin 64) (v : BitVec 32)
  /-- PROFILE_ENABLE (R169): A write to CBL_PROF_EN enables or disables profiles for later descriptors. -/
  | profileEnable (m : Requester) (v : BitVec 64)
  /-- SELECTOR_COMMIT (R184): A write to word 7 of CBL_SEL commits a selector entry. -/
  | selectorCommit (m : Requester) (n : Fin 512) (v : BitVec 32)
  /-- TOLL_READ (R177): TOL_CMD READ copies a bucket into TOL_DATA without refill. -/
  | tollRead (m : Requester) (v : BitVec 32)
  /-- TOLL_WRITE (R177): TOL_CMD WRITE configures a bucket and sets its levels. -/
  | tollWrite (m : Requester) (v : BitVec 32)
  /-- FRESH_READ (R179): VRD_FRESH_CMD READ reads a stream's counter and map. -/
  | freshRead (m : Requester) (v : BitVec 32)
  /-- FRESH_WRITE (R179): VRD_FRESH_CMD WRITE sets a stream's counter and map. -/
  | freshWrite (m : Requester) (v : BitVec 32)
  /-- THERMAL_SAMPLE (R200): Every 10 µs the array samples temperature and sets its throttle level. -/
  | thermalSample (temp : BitVec 8)
  /-- UPDATE_WINDOW_START (R199): At each 800-cycle boundary the row-access cap restarts. -/
  | updateWindowStart
  /-- ROW_ACCESS (R198): A table command's row write or read takes a slot when its cap, level and rank allow. -/
  | rowAccess
  /-- TABLE_COMMAND_FETCH (R332): The device fetches one command slot from a ring and checks it for refusal. -/
  | tableCommandFetch
  /-- COMPLETION_POST (R334): A command completion is written to the completion ring and CHEAD advances. -/
  | completionPost
  /-- TCR_DOORBELL (R329): A write of HST_TCR_TAIL posts commands, or is ignored if it would overflow. -/
  | tcrDoorbell (m : Requester) (r : Fin 4) (v : BitVec 32)
  /-- TCR_ENABLE (R329): A write of HST_TCR_CTRL.EN starts or stops a ring, zeroing indices on enable. -/
  | tcrEnable (m : Requester) (r : Fin 4) (v : BitVec 32)
  /-- TCA_SEARCH (R213): SEARCH on a ternary table searches it with the key at ADDR. -/
  | tcaSearch
  /-- TCA_NEXT (R213): NEXT on a ternary table returns the next valid entry image. -/
  | tcaNext
  /-- TCA_INSERT (R208): INSERT on a ternary table places an entry, relocating entries in an ordered table. -/
  | tcaInsert
  /-- TCA_DELETE (R213): DELETE on a ternary table clears an entry's VALID. -/
  | tcaDelete
  /-- TCA_MOVE (R209): MOVE relocates a ternary entry to a free destination. -/
  | tcaMove
  /-- TCA_WRITE (R213): WRITE places an entry image into a chosen free slot of a placed table. -/
  | tcaWrite
  /-- TCA_READ (R213): READ returns the entry image of a ternary slot. -/
  | tcaRead
  /-- TCA_UPDATE (R213): UPDATE replaces a valid ternary entry's result word. -/
  | tcaUpdate
  /-- TCA_WIPE (R219): WIPE clears VALID of every slot of a ternary table block by block and re-bases its ledger. -/
  | tcaWipe
  /-- REBUILD_START (R220): A START write begins counting a MOVE series as a rebuild. -/
  | rebuildStart (m : Requester) (table : Fin 64)
  /-- REBUILD_STOP (R220): A STOP write ends the rebuild. -/
  | rebuildStop (m : Requester) (table : Fin 64)
  /-- SIGNATURE_LAP_START (R223): A signature lap starts no sooner than LAP_MIN after the previous one. -/
  | signatureLapStart
  /-- SIGNATURE_REGION_DONE (R222): The engine finishes reading a region and computes its CRC-32C signature. -/
  | signatureRegionDone
  /-- SIGNATURE_POST (R225): A signature is posted to the ring when there is room. -/
  | signaturePost
  /-- SIG_REQ (R226): A GO on TCA_SIG_REQ requests an on-demand signature of a region. -/
  | sigReq (m : Requester) (v : BitVec 32)
  /-- HSH_SEARCH (R263): SEARCH on a DRAM table looks up the key without stamp write or learning. -/
  | hshSearch
  /-- HSH_NEXT (R269): NEXT on a DRAM table returns the next valid entry image. -/
  | hshNext
  /-- HSH_INSERT (R257): INSERT on a DRAM table places an entry, relocating along a cuckoo path or into the stash. -/
  | hshInsert
  /-- HSH_DELETE (R261): DELETE invalidates a DRAM entry by a conditional stamp write. -/
  | hshDelete
  /-- HSH_READ (R263): READ returns a DRAM entry image named by handle or key. -/
  | hshRead
  /-- HSH_UPDATE (R262): UPDATE replaces a DRAM entry's result in one slot write. -/
  | hshUpdate
  /-- HSH_WIPE (R270): WIPE empties a DRAM table by zeroing its region and re-bases its ledger. -/
  | hshWipe
  /-- HSH_PFX_SHARE_WRITE (R245): A weight write recomputes the prefix split of an empty table. -/
  | hshPfxShareWrite (m : Requester) (v : BitVec 32)
  /-- SETTLE_RELEASE (R285): An insert leaves the settle queue S cycles after acceptance and joins its stream's open
  group. -/
  | settleRelease
  /-- GROUP_WRITE (R286): The writer writes an open group's new records when full, timed out, closing or under space
  pressure. -/
  | groupWrite
  /-- COMBINE_TIMEOUT (R286): A group's oldest record has waited COMBINE_US since release. -/
  | combineTimeout
  /-- PRESSURE_FREE (R292): While the free pool is below LOW, the writer frees one victim page per 4 cycles. -/
  | pressureFree
  /-- AGE_VISIT (R293): In an idle cycle the writer visits a stream and frees its head if aged out. -/
  | ageVisit
  /-- QUERY (R295): QUERY finds the first waymark of a stream at or after t in two rounds. -/
  | query
  /-- WNEXT (R298): WNEXT returns the waymark following a handle in one round. -/
  | wnext
  /-- FLUSH_STREAM (R303): A GO on WAY_FLUSH discards a stream's pending inserts and starts scanning to free its
  pages. -/
  | flushStream (m : Requester) (v : BitVec 32)
  /-- FLUSH_STREAM_END (R303): The flush scan of the milestone table ends. -/
  | flushStreamEnd
  /-- WAY_STREAM_CFG_WRITE (R290): A write of a stream's configuration sets its quota, refused on overcommit. -/
  | wayStreamCfgWrite (m : Requester) (v : BitVec 64)
  /-- LEARN_CHECK (R314): A learn notification passes or fails the dedup, rate and room checks and enters the learn
  queue. -/
  | learnCheck
  /-- LEARN_RING_WRITE (R317): A queued notification is written to the learn ring and LRN_HEAD advances. -/
  | learnRingWrite
  /-- LEARN_RING_DISABLE (R317): Writing LRN_RING_SIZE.LOG2 to 0 drops the queued notifications. -/
  | learnRingDisable (m : Requester)
  /-- TICK_ADVANCE (R320): An aging table's tick counter advances when road time passes b + TICK. -/
  | tickAdvance
  /-- AGE_LIMIT_WRITE (R322): A write to AGE_LIMIT changes the tick length from the current base. -/
  | ageLimitWrite (m : Requester) (table : Fin 64) (v : BitVec 32)
  /-- AGING_LAP_START (R324): A sweeper lap starts over aging tables no sooner than LAP_MIN after the last. -/
  | agingLapStart
  /-- AGING_LAP_END (R327): A sweeper lap ends, updates AGE_LAP and triggers the ledger check. -/
  | agingLapEnd
  /-- AGING_ENABLE (R327): A write of AGE_CTRL.EN starts the sweeper or ends its lap at the next granule. -/
  | agingEnable (m : Requester) (v : BitVec 32)
  /-- FLUSH_PORT (R338): FLUSH_PORT walks a standard table and removes entries owned by a port. -/
  | flushPort
  /-- RGL_CLASS_COMMIT (R359): A commit of RGL_CLASS is checked and refused or applied from the next window. -/
  | rglClassCommit (m : Requester) (c : Fin 8) (v : BitVec 64)
  /-- WELT_LOCK_GAIN (R385): A welt port gains block lock on all four lanes and enters DESKEW. -/
  | weltLockGain (k : Fin 2) (lanes : BitVec 4)
  /-- DESKEW_DONE (R385): Lane skew is removed and the welt port enters TRAIN. -/
  | deskewDone (k : Fin 2)
  /-- WELT_TRAIN_RECEIVE (R386): A welt TRAIN block is received and its identity checked. -/
  | weltTrainReceive (k : Fin 2) (ver : BitVec 8) (ack : Bool) (part : Fin 3) (v : BitVec 32)
  /-- WELT_UP (R387): The TRAIN handshake completes with the match lines trained and the port enters UP. -/
  | weltUp (k : Fin 2) (mlDelay : BitVec 4) (ago : Nat)
  /-- WELT_TRAIN_FAIL (R385): A welt port in DESKEW or TRAIN for 2 ms returns to SEEK. -/
  | weltTrainFail (k : Fin 2)
  /-- WELT_LOCK_LOSS (R385): Lock lost on any lane, or no CREDIT block for 16 µs, returns the welt port to SEEK. -/
  | weltLockLoss (k : Fin 2) (lanes : BitVec 4)
  /-- WELT_RESTART (R404): Writing RESTART returns a welt port to SEEK. -/
  | weltRestart (m : Requester) (k : Fin 2) (v : BitVec 32)
  /-- RECOVER_TIMEOUT (R385): No RESUME within 10 µs of RECOVER returns the port to SEEK. -/
  | recoverTimeout (k : Fin 2)
  /-- CREDIT (R383): A CREDIT block updates cumulative credits and bridge ACK, and a NAK triggers RESUME. -/
  | credit (k : Fin 2) (key : BitVec 7) (ans : BitVec 7) (posted : BitVec 5) (np : BitVec 4) (cpl : BitVec 4) (ack : BitVec 12) (nak : Bool)
  /-- RESUME (R388): A RESUME ends recovery and lost keys and answers free their credits. -/
  | resume (k : Fin 2) (keySent : BitVec 7) (ansSent : BitVec 7)
  /-- KEY_RECEIVE (R390): A KEY frame is passed on or searched by a member of a welt table. -/
  | keyReceive (k : Fin 2) (h : BitVec 64) (payload : List Byte)
  /-- ANS_RECEIVE (R394): An ANS frame is forwarded or consumed by the origin, completing a welt search on CLOSE. -/
  | ansReceive (k : Fin 2) (h : BitVec 64) (payload : List Byte)
  /-- BPW (R397): A bridge posted write frame is forwarded or executed at its target. -/
  | bpw (k : Fin 2) (h : BitVec 64) (payload : List Byte)
  /-- BRD (R399): A bridge read frame is forwarded or served at its target. -/
  | brd (k : Fin 2) (h : BitVec 64) (payload : List Byte)
  /-- BCPL (R398): A bridge completion loads the read set's data or fails it. -/
  | bcpl (k : Fin 2) (h : BitVec 64) (payload : List Byte)
  /-- BNOTE (R397): A bridge failure note is logged at the initiator. -/
  | bnote (k : Fin 2) (h : BitVec 64) (payload : List Byte)
  /-- BRIDGE_RESEND (R400): No ACK advance for 16 µs resends bridge frames from ACK + 1. -/
  | bridgeResend (k : Fin 2)
  /-- SLAVE_WINDOW_WRITE (R396): A write to the slave window becomes a bridge posted write. -/
  | slaveWindowWrite (m : Requester) (pos : Fin 8) (off : BitVec 21) (data : List Byte)
  /-- SLAVE_WINDOW_READ (R396): A direct read of the slave window returns zero and sets DIRECT_RD. -/
  | slaveWindowRead (m : Requester) (pos : Fin 8) (off : BitVec 21) (len : Nat)
  /-- BRG_RRD_ADDR_WRITE (R398): The owner's write of BRG_RRD_ADDR issues a bridge read and sets RETRY. -/
  | brgRrdAddrWrite (m : Requester) (ix : Fin 4) (v : BitVec 32)
  /-- BRIDGE_READ_TIMEOUT (R398): No completion within RD_TIMEOUT fails the read set. -/
  | bridgeReadTimeout
  /-- BRIDGE_POLL (R401): Every POLL_US the master reads each slave's BRG_POLL. -/
  | bridgePoll
  /-- SCRATCHPAD_SERVE (R415): The scratchpad port serves the first-ranked waiting access. -/
  | scratchpadServe
  /-- SET_WINDOW_WRITE (R416): A write through the set window ORs bytes into the scratchpad atomically. -/
  | setWindowWrite (m : Requester) (off : BitVec 19) (data : List Byte)
  /-- CLEAR_WINDOW_WRITE (R416): A write through the clear window clears bytes atomically. -/
  | clearWindowWrite (m : Requester) (off : BitVec 19) (data : List Byte)
  /-- ROTATE_ACCESS (R417): An unaligned rotate-view access is served atomically or denied. -/
  | rotateAccess (m : Requester) (write : Bool) (off : BitVec 19) (data : List Byte) (len : Nat)
  /-- SRAM_SCRUB_VISIT (R427): A macro's scrub walker reads a word in an idle cycle and writes back a correction. -/
  | sramScrubVisit (mem : Fin 64) (cell : Nat)
  /-- RETIRE_ENT_WRITE (R430): A write of INT_RETIRE_ENT retires a DRAM page and starts its copy to a spare. -/
  | retireEntWrite (m : Requester) (v : BitVec 64)
  /-- RETIRE_DONE (R430): A page-retire copy ends and accesses are redirected. -/
  | retireDone
  /-- TCA_BLOCK_RETIRE (R432): A write to INT_TCA_RETIRE retires an empty ternary block. -/
  | tcaBlockRetire (m : Requester) (v : BitVec 32)
  /-- INTEGRITY_RECORD_WRITE (R434): After a spare or retirement change the integrity record is written as a
  checkpoint write. -/
  | integrityRecordWrite
  /-- RECORD_CLR (R434): A keyed write empties the integrity record at the next start, or is refused. -/
  | recordClr (m : Requester) (v : BitVec 32)
  /-- FLIP_ARM (R435): A write arming INT_FLIP_CTRL corrupts the next matching memory write. -/
  | flipArm (m : Requester) (v : BitVec 32)
  /-- MARCH_GO (R436): A GO on INT_MARCH_CTRL starts a destructive or preserving march, or is refused. -/
  | marchGo (m : Requester) (v : BitVec 32)
  /-- MARCH_DONE (R439): A march ends with PASS or FAIL. -/
  | marchDone (fails : List Nat)
  /-- ENDPOINT_RESET (R459): FLR, hot reset or PERST resets one PCIe endpoint and its ring, DMA and read set. -/
  | endpointReset (f : Fin 2) (kind : ResetKind)
  /-- UNSUPPORTED_REQUEST (R458): A PCIe request the endpoint does not support is answered with an error. -/
  | unsupportedRequest (f : Fin 2) (kind : BadReq)
  /-- MSIX_UNMASK (R461): Unmasking a pending, still active vector sends its message. -/
  | msixUnmask (f : Fin 2) (vec : Fin 32)
  /-- INT_REARM (R461): A write of HST_INT_REARM resends active vectors. -/
  | intRearm (m : Requester) (f : Fin 2) (v : BitVec 32)
  /-- DMA_DOORBELL (R465): A write of HST_DMA_TAIL posts DMA descriptors. -/
  | dmaDoorbell (m : Requester) (n : Fin 8) (v : BitVec 32)
  /-- DMA_ENABLE (R465): A write of HST_DMA_CTRL.EN starts a channel, zeroing HEAD and TAIL. -/
  | dmaEnable (m : Requester) (n : Fin 8) (v : BitVec 32)
  /-- DMA_DESCRIPTOR_DONE (R466): A DMA descriptor completes when all its writes are acknowledged and its status is
  written back. -/
  | dmaDescriptorDone (n : Fin 8)
  /-- DMA_RESUME (R467): RESUME restarts the halted descriptor from its beginning. -/
  | dmaResume (m : Requester) (n : Fin 8) (v : BitVec 32)
  /-- DMA_SKIP (R467): SKIP marks the halted descriptor done and moves on. -/
  | dmaSkip (m : Requester) (n : Fin 8) (v : BitVec 32)
  /-- SPI_CS_FALL (R470): At SPI_CS_N fall the port latches the pending response or BUSY onto MISO. -/
  | spiCsFall
  /-- SPI_TRANSACTION (R468): At SPI_CS_N rise a 64-bit transaction is executed or refused. -/
  | spiTransaction (bits : Nat) (mosi : BitVec 64)
  /-- WDOG_KICK (R474): A keyed write to SEQ_WDOG_KICK restarts the watchdog count. -/
  | wdogKick (m : Requester) (v : BitVec 32)
  /-- WDOG (R474): The watchdog expires and resets the bench core to its entry address. -/
  | wdog
  /-- SECURE_CLEAR (R473): Firmware clears SEQ_CTRL.SECURE until the next start. -/
  | secureClear (m : Requester)
  /-- VERSION (R475): The VERSION mailbox command returns firmware version and build. -/
  | version (box : Fin 3)
  /-- CHECKPOINT (R475): The CHECKPOINT mailbox command writes a time-state record now. -/
  | checkpoint (box : Fin 3)
  /-- MGMT_RELOAD (R484): The MGMT_RELOAD mailbox command reapplies SEQ_CANM. -/
  | mgmtReload (box : Fin 3)
  /-- MAILBOX_ANSWER (R475): The firmware writes STATUS and sets DONE on a mailbox. -/
  | mailboxAnswer (box : Fin 3) (status : BitVec 8) (words : List (BitVec 32))
  /-- CAN_JOIN (R476): After INIT clears, the controller joins the bus after 11 recessive bits. -/
  | canJoin
  /-- CAN_FRAME_RECEIVE (R479): A received CAN frame is stored in the lowest matching receive object. -/
  | canFrameReceive (frame : CanFrame) (lec : Fin 8) (heavy : Bool) (ago : Nat)
  /-- TXREQ (R480): Setting TXREQ makes an object pending for transmission. -/
  | txreq (m : Requester) (n : Fin 128)
  /-- CAN_TRANSMIT_END (R480): A CAN frame attempt ends in success, loss or error, with retry or TXFAIL. -/
  | canTransmitEnd (e : CanEnd) (ago : Nat)
  /-- ABORT (R480): ABORT cancels a pending transmission. -/
  | abort (m : Requester) (n : Fin 128)
  /-- RECOVER (R482): Writing RECOVER starts bus-off recovery. -/
  | recover (m : Requester) (v : BitVec 32)
  /-- RECOVERED (R482): After 128 recessive sequences the controller returns to error active. -/
  | recovered (n : Nat)
  /-- PING (R483): The CAN PING management command returns TOP_ID. -/
  | ping
  /-- STATUS (R483): The CAN STATUS command returns power state, throttle and flags. -/
  | status
  /-- TIME (R483): The CAN TIME command returns road time. -/
  | time
  /-- READ (R483): The CAN READ command returns a TOP, PWR, MIL or LCS register. -/
  | read
  /-- STAY_AWAKE (R490): The CAN STAY_AWAKE command raises PWR_HOLD_MS. -/
  | stayAwake
  /-- PARK_VOTE (R490): The CAN PARK_VOTE command clears the hold time and may request PARK. -/
  | parkVote
  /-- PARK_REQUEST (R490): A keyed PWR_CTRL PARK write enters PARKING with a grace period, or is refused. -/
  | parkRequest (m : Requester) (key : BitVec 16)
  /-- GRACE_END (R491): At the end of grace the device commits PARK or aborts. -/
  | graceEnd (wake : Fin 16) (tamper : Fin 4)
  /-- PARK_FAIL (R493): PGOOD still high 10 ms after PARK_REQ_N fell triggers a warm start. -/
  | parkFail
  /-- WAKE_EVENT (R494): A qualified wake input, CAN, alarm or tamper source in PARK releases PARK_REQ_N. -/
  | wakeEvent (n : Fin 6)
  /-- WAKE_DWELL_END (R493): A wake latched before PGOOD fell is served 1 ms after the fall. -/
  | wakeDwellEnd
  /-- COLD (R496): A keyed PWR_CTRL COLD write forces a cold start as RESET_N does. -/
  | cold (m : Requester) (key : BitVec 16)
  /-- TIME_STATE_RECORD (R505): Every PERIOD_S seconds a time-state record is written. -/
  | timeStateRecord
  /-- CKPT_GO (R505): A GO on NVC_CKPT_CTRL writes a time-state record now. -/
  | ckptGo (m : Requester) (v : BitVec 32)
  /-- NVC_ACC_READ (R507): NVC_ACC_CMD READ reads a word of the sealed or general area, or is denied. -/
  | nvcAccRead (m : Requester)
  /-- NVC_ACC_WRITE (R507): NVC_ACC_CMD WRITE writes a word of the sealed or general area, or is denied. -/
  | nvcAccWrite (m : Requester)
  /-- KEY_SET (R508): KEY_SET programs a key slot with a hash. -/
  | keySet (m : Requester) (slot : Fin 4)
  /-- KEY_REVOKE (R508): KEY_REVOKE blows a slot's revoke bit. -/
  | keyRevoke (m : Requester) (slot : Fin 4)
  /-- SEC_VER (R508): SEC_VER advances the security-version thermometer. -/
  | secVer (m : Requester) (arg : Fin 128)
  /-- TO_DEVELOP (R508): TO_DEVELOP moves BLANK to DEVELOP at the next start. -/
  | toDevelop (m : Requester)
  /-- TO_PRODUCE (R508): TO_PRODUCE moves DEVELOP to PRODUCE at the next start. -/
  | toProduce (m : Requester)
  /-- TO_RETURN (R508): TO_RETURN moves PRODUCE to RETURN with a token at the next start. -/
  | toReturn (m : Requester)
  /-- FUSE_PROGRAM_DONE (R510): Programming of a fuse word ends and the operation completes. -/
  | fuseProgramDone (ok : Bool)
  /-- TAMPER (R511): A qualified tamper input latches an event and wipes the vault and sealed area when awake. -/
  | tamper (k : Fin 2)
  /-- TAMPER_WIPE_END (R511): The 2.05 ms tamper wipe ends and LATCHED clears. -/
  | tamperWipeEnd
  /-- REGISTER_WRITE (R8): A write to any register without a row of its own updates its fields subject to reserved-
  code and lock checks. -/
  | registerWrite (m : Requester) (off : BitVec 25) (data : List Byte)
  /-- REGISTER_READ (R9): A register read that clears RC fields, restarts peak fields from their current value, or
  latches a high word for the reading master. -/
  | registerRead (m : Requester) (off : BitVec 25) (len : Nat)
  /-- CONFIGURATION_REQUEST (R455): A PCIe configuration request is answered with Retry Status before image apply, or
  else served, including the setting of Bus Master Enable. -/
  | configurationRequest (f : Fin 2) (write : Bool) (reg : CfgReg) (v : BitVec 32)
  /-- PERST_RELEASE (R485): The release of PERSTf_N lets endpoint f train its link and begin answering requests. -/
  | perstRelease (f : Fin 2)
  /-- HOST_COMPLETION (R458): A PCIe completion for a device request toward host memory arrives, delivering data or a
  UR, CA or poisoned failure to its requester. -/
  | hostCompletion (id : Nat) (st : CplStatus) (data : List Byte)
  /-- COMPLETION_TIMEOUT (R458): A device request toward host memory reaches the Completion Timeout set in Device
  Control 2 and its requester fails. -/
  | completionTimeout (id : Nat)
  /-- WELT_FRAMING_ERROR (R388): A welt receiver meets an invalid sync header, a reserved control or frame type, or a
  frame CRC failure, sends NAK and enters RECOVER. -/
  | weltFramingError (k : Fin 2)
  /-- CREDIT_SEND (R383): A welt port sends a CREDIT block when a count has changed, and in any case at least every 2
  µs. -/
  | creditSend (k : Fin 2)
  deriving DecidableEq, Repr

end Sys2Proof
end

