-- ==== Sys2Proof/Decode.lean ====
section
/-!
DEFINITION. Commands as words. The opcode table gives no row any bits: the commands of this block are events and register
accesses with operands, not encoded words.
-/
namespace Sys2Proof

/-- The command that a word spells by the table's bits: none, because no row of the table has bits. -/
def decodeTableWord (_nbits _w : Nat) : Option Instr := none

end Sys2Proof
end

