-- ==== Sys2Proof/Config.lean ====
section
/-!
DEFINITION. What an implementation fixes and the spec leaves open: every constant here is opaque, so no proof can
lean on a value. Each is applied to the operands it depends on, or to the free-value counter of the state.
-/
namespace Sys2Proof.Config

/-- The syndrome a (72,64) word shows for an error pattern (R411 names the kind of the code, not its matrix). -/
opaque syndrome72 : Nat → Nat

/-- The syndrome a scratchpad byte's (13,8) code shows for an error pattern of its 13 bits (R411). -/
opaque syndrome13 : Nat → Nat

/-- For three or more wrong bits the code may name one bit (a miscorrection) or none (R412): the spec does not say. -/
opaque named72 : Nat → Option Nat

/-- The same for a scratchpad byte's code. -/
opaque named13 : Nat → Option Nat

/-- The CRC posted with a DIRTY signature: it describes no single state of its region (R224). -/
opaque dirtyCrc : Nat → BitVec 32

/-- The value of a random nonce (R509 names it random): one value per draw. -/
opaque nonce : Nat → BitVec 64

/-- The version words of the firmware that the bench core runs (R475): the image carries them, the spec gives no field. -/
opaque firmwareVersion : Nat → BitVec 32

/-- HANDLE of a completion whose command names no handle and whose outcome has none (R216, R267): unstated. -/
opaque openHandle : Nat → BitVec 48

/-- The Craolaell firmware key, fixed in metal (R63): its coordinates X and Y. The spec gives no value. -/
opaque firmwareKeyX : Nat
opaque firmwareKeyY : Nat

/-- The key bytes of a KEY frame of a widened table (R379): a member's declaration gives its own slice only. -/
opaque weltKeyBytes : Nat → Nat

/-- Bytes of a CAN object past the data of the frame stored in it, and of a management response past its data (R479,
R483): unstated. -/
opaque canPad : Nat → Nat → BitVec 8

/-- Where between 119 and 127 REC goes when an error-passive receiver receives well (ISO 11898-1, R481). -/
opaque canRecBack : Nat → Nat

/-- A register of PCI Express configuration space that the spec does not describe (R454). -/
opaque pcieOther : Nat → BitVec 32

/-- ADMIT_SECT when the failure is that a section is absent, so that it has no index in the table (R69): unstated. -/
opaque absentSect : Nat → BitVec 8

/-- Whether a descriptor is open on a tap port when a command that carries no such operand takes its link down, and how long
ago its first block came, in 125 ps (R140): the partner decides. -/
opaque openDsc : Nat → Option Nat

/-- How many cycles short of 16 a command that ends "within 16 cycles" takes (R177, R179, R217): the spec gives the bound
alone. -/
opaque early : Nat → Fin 16

/-- How many cycles short of 32 an INSERT takes to locate its place in an ordered table (R217, "up to 32 cycles"). -/
opaque locate : Nat → Fin 33

/-- What the flash returns to a command whose data no operand gives (R81): the flash is outside the device. -/
opaque flashByte : Nat → Nat → BitVec 8

end Sys2Proof.Config
end

