-- ==== Sys2Proof/Machine/Bytes.lean ====
section
/-!
DEFINITION. Byte order, bit fields and the check codes of the device's formats: little-endian fields (R6),
bit ranges [high:low], CRC-32C, CRC-8 and CRC-16 over bytes.
-/
namespace Sys2Proof.Machine

/-- Bits [hi:lo] of a number. -/
def bitsOf (v hi lo : Nat) : Nat := (v >>> lo) % 2 ^ (hi + 1 - lo)

/-- Bit `i` of a number. -/
def bitOf (v i : Nat) : Bool := (v >>> i) % 2 = 1

/-- `v` with bits [hi:lo] replaced by `x`. -/
def putBits (v hi lo x : Nat) : Nat :=
  (v >>> (hi + 1)) <<< (hi + 1) + (x % 2 ^ (hi + 1 - lo)) <<< lo + v % 2 ^ lo

/-- 1 for true. -/
def b2n (b : Bool) : Nat := if b then 1 else 0

/-- `n` little-endian bytes of a number (R6). -/
def leBytes (n v : Nat) : List Byte :=
  match n with
  | 0 => []
  | k + 1 => BitVec.ofNat 8 v :: leBytes k (v / 256)

/-- The number that little-endian bytes spell (R6). -/
def ofLe (bs : List Byte) : Nat :=
  match bs with
  | [] => 0
  | b :: t => b.toNat + 256 * ofLe t

/-- `n` bytes from offset `o`; bytes past the end read zero. -/
def slice (bs : List Byte) (o n : Nat) : List Byte :=
  let t := (bs.drop o).take n
  t ++ List.replicate (n - t.length) 0

/-- The little-endian field of `n` bytes at offset `o`. -/
def fieldAt (bs : List Byte) (o n : Nat) : Nat := ofLe (slice bs o n)

/-- A list of bytes with `new` written over it from offset `o`. -/
def overlay (bs : List Byte) (o : Nat) (new : List Byte) : List Byte :=
  bs.take o ++ new ++ bs.drop (o + new.length)

/-- A list padded with zero bytes to length `n`, or cut to it. -/
def padTo (bs : List Byte) (n : Nat) : List Byte := slice bs 0 n

/-- One reflected CRC shift of an n-bit register. -/
def crcShift (poly c : Nat) : Nat := if c % 2 = 1 then (c / 2) ^^^ poly else c / 2

/-- `k` reflected CRC shifts. -/
def crcShifts (poly : Nat) (k c : Nat) : Nat :=
  match k with
  | 0 => c
  | j + 1 => crcShifts poly j (crcShift poly c)

/-- CRC-32C (Castagnoli, reflected, initial value and final inversion of all ones). -/
def crc32c (bs : List Byte) : Nat :=
  (bs.foldl (fun c b => crcShifts 0x82F63B78 8 (c ^^^ b.toNat)) 0xFFFFFFFF) ^^^ 0xFFFFFFFF

/-- The same CRC started from another value (R241). -/
def crc32cFrom (init : Nat) (bs : List Byte) : Nat :=
  (bs.foldl (fun c b => crcShifts 0x82F63B78 8 (c ^^^ b.toNat)) init) ^^^ 0xFFFFFFFF

/-- `k` shifts of a most-significant-bit-first CRC register of `w` bits. -/
def crcMsb (w poly : Nat) (k c : Nat) : Nat :=
  match k with
  | 0 => c
  | j + 1 =>
    crcMsb w poly j
      (if (c >>> (w - 1)) % 2 = 1 then ((c * 2) % 2 ^ w) ^^^ poly else (c * 2) % 2 ^ w)

/-- A CRC over bytes, most significant bit first, with the given initial value. -/
def crcBytes (w poly init : Nat) (bs : List Byte) : Nat :=
  bs.foldl (fun c b => crcMsb w poly 8 (c ^^^ (b.toNat <<< (w - 8)))) init

/-- Ceiling division. -/
def cdiv (a b : Nat) : Nat := (a + b - 1) / b

/-- Population count of the low `n` bits. -/
def popcount (n v : Nat) : Nat :=
  match n with
  | 0 => 0
  | k + 1 => v % 2 + popcount k (v / 2)

/-- The lowest `i < n` with `p i`, if there is one. -/
def firstBelow (n : Nat) (p : Nat → Bool) : Option Nat := (List.range n).find? p

/-- Saturate at the largest value of `w` bits. -/
def satW (w v : Nat) : Nat := if v < 2 ^ w then v else 2 ^ w - 1

/-- A list with element `i` replaced by its image. -/
def updAt {α : Type} (l : List α) (i : Nat) (f : α → α) : List α :=
  match l, i with
  | [], _ => []
  | a :: t, 0 => f a :: t
  | a :: t, k + 1 => a :: updAt t k f

/-- The first element that a key ranks lowest. -/
def minByKey {α : Type} (key : α → Nat) (l : List α) : Option α :=
  match l with
  | [] => none
  | a :: t =>
    match minByKey key t with
    | none => some a
    | some b => if key b < key a then some b else some a

end Sys2Proof.Machine
end

