-- ==== Sys2Proof/Machine/KMap.lean ====
section
/-!
DEFINITION. Sparse stores in one canonical form: a list of (key, value) pairs with rising keys, holding no entry
equal to what an unlisted key reads as. `d` is that default, a function of the key. Memories, register files and
every large table of the device are kept this way, so equal contents are equal data.
-/
namespace Sys2Proof.Machine

/-- A sparse store from natural keys. -/
abbrev KMap (α : Type) := List (Nat × α)

/-- Read key `k`; `d k` where nothing is listed. -/
def KMap.get {α : Type} (d : Nat → α) (m : KMap α) (k : Nat) : α :=
  match m with
  | [] => d k
  | e :: t => if e.1 = k then e.2 else KMap.get d t k

/-- Insert a pair in front of the first larger key. -/
def KMap.ins {α : Type} (m : KMap α) (k : Nat) (v : α) : KMap α :=
  match m with
  | [] => [(k, v)]
  | e :: t => if k < e.1 then (k, v) :: e :: t else e :: KMap.ins t k v

/-- Drop every entry of key `k`. -/
def KMap.del {α : Type} (m : KMap α) (k : Nat) : KMap α :=
  match m with
  | [] => []
  | e :: t => if e.1 = k then KMap.del t k else e :: KMap.del t k

/-- Write key `k`; writing the default removes the entry. -/
def KMap.set {α : Type} [DecidableEq α] (d : Nat → α) (m : KMap α) (k : Nat) (v : α) : KMap α :=
  if v = d k then m.del k else (m.del k).ins k v

/-- Keys strictly rising from above `lo`, and no entry equal to its default. -/
def KMap.okFrom {α : Type} [DecidableEq α] (d : Nat → α) (m : KMap α) : Bool :=
  match m with
  | [] => true
  | e :: t =>
    (match t with
     | [] => true
     | f :: _ => e.1 < f.1) && !decide (e.2 = d e.1) && KMap.okFrom d t

/-- The canonical form of a sparse store. -/
abbrev KMap.wf {α : Type} [DecidableEq α] (d : Nat → α) (m : KMap α) : Prop := KMap.okFrom d m = true

/-- Read of an optional value: nothing listed reads `none`. -/
abbrev KMap.find {α : Type} (m : KMap (Option α)) (k : Nat) : Option α := KMap.get (fun _ => none) m k

/-- Write of an optional value; `none` removes. -/
abbrev KMap.put {α : Type} [DecidableEq α] (m : KMap (Option α)) (k : Nat) (v : Option α) : KMap (Option α) :=
  KMap.set (fun _ => none) m k v

/-- Read of a store of numbers that reads zero where nothing is listed. -/
abbrev KMap.nat (m : KMap Nat) (k : Nat) : Nat := KMap.get (fun _ => 0) m k

/-- Write of a store of numbers. -/
abbrev KMap.setNat (m : KMap Nat) (k v : Nat) : KMap Nat := KMap.set (fun _ => 0) m k v

end Sys2Proof.Machine
end

