-- ==== Sys2Proof/Machine/Units.lean ====
section
/-!
DEFINITION. The units of the device as plain data: one structure per thing the spec names (a request at the regulator,
a flight of a descriptor, a row of the ternary array, a page of the waymark index, …). No meaning stands here.
-/
namespace Sys2Proof.Machine

/-- A milepost stamp: whole ns, fraction in 1/256 ns, uncertainty in 125 ps units (R16, R100). -/
structure Stamp where
  ns : Nat
  frac : Nat
  unc : Nat
  deriving DecidableEq, Repr

/-- Who asked for a search: a descriptor's search n (R22), a host table command in flight, or a KEY frame of the
welt (R390). -/
inductive Asker where
  | desc (tag epoch n : Nat)
  | cmd (id : Nat)
  | welt (id : Nat)
  deriving DecidableEq, Repr

/-- A search answer (R28, R190, R248). `handle` is the winner's handle for a host SEARCH. -/
structure Ans where
  hit : Bool
  multi : Bool
  straddle : Bool
  part : Bool
  result : Nat
  handle : Nat
  deriving DecidableEq, Repr

/-- The answer of a search that finds nothing. -/
def Ans.miss : Ans := ⟨false, false, false, false, 0, 0⟩

/-- An answer on its way to the composer or to its asker. -/
structure PendAns where
  due : Nat
  who : Asker
  ternary : Bool
  ans : Ans
  deriving DecidableEq, Repr

/-- One granule access of a request: a read, or a byte-masked write of `bytes` (offset in the granule, byte), made
only if the granule still holds every pair of `cond` (R323, R325). `held`: the write falls under R323.
`rmw`: an atomic read-modify-write, charged 2 granules (R325, R426). -/
structure Gran where
  g : Nat
  write : Bool
  bytes : List (Nat × Byte)
  cond : List (Nat × Byte)
  /-- and only if one of these bytes is not zero (a live STAMP), when any is listed -/
  nz : List Nat
  /-- 4-bit counters to step up (true) or down: a counter at 15 never changes (R251, R252) -/
  nib : List (Nat × Bool)
  held : Bool
  rmw : Bool
  /-- 64-bit words of the granule whose data is known to be uncorrectable: they are stored poisoned (R304, R413) -/
  bad : List Nat
  deriving DecidableEq, Repr

/-- A read of granule `g`. -/
def Gran.rd (g : Nat) : Gran := ⟨g, false, [], [], [], [], false, false, []⟩

/-- A plain write of bytes into granule `g`. -/
def Gran.wr (g : Nat) (bytes : List (Nat × Byte)) : Gran := ⟨g, true, bytes, [], [], [], false, false, []⟩

/-- What leaves the device: the model's record of its outputs. -/
inductive Out where
  /-- a posted write to host memory of a PCIe function -/
  | hostWrite (f addr : Nat) (data : List Byte)
  /-- a read request to host memory -/
  | hostRead (f id addr len : Nat)
  /-- a control block of a tap port: type octet and payload with its CHK (R120) -/
  | tapCtl (p typ payload : Nat)
  /-- a data block of a tap port -/
  | tapData (p octets : Nat)
  /-- a control block of a welt port -/
  | weltCtl (k typ payload : Nat)
  /-- a frame of a welt port: its header with CRC-16 and its payload (R379) -/
  | weltFrame (k header : Nat) (payload : List Byte)
  /-- a match-line bit: the line, the slot number, the level (R391) -/
  | matchLine (line slot : Nat) (level : Bool)
  /-- what SPI_MISO carries in a transaction (R468) -/
  | spiMiso (v : BitVec 64)
  /-- a configuration request answered: Configuration Request Retry Status, or a register's value (R455) -/
  | cfgRetry (f : Nat)
  | cfgData (f v : Nat)
  /-- a request answered with an error: 1 Unsupported Request, 2 Completer Abort, 3 poisoned data (R458) -/
  | pcieError (f kind : Nat)
  /-- XSPI_RESET_N is driven low, or released (R52) -/
  | xspiReset (low : Bool)
  /-- an image read in 8D-8D-8D: command, flash offset, bytes, FREQ and DUMMY (R51, R52) -/
  | flashOctal (opcode addr read freq dummy : Nat)
  /-- a CAN frame on CAN_TX: object, identifier, IDE, FDF, BRS, RTR, DLC, data (R476, R480) -/
  | canFrame (k id : Nat) (ide fdf brs rtr : Bool) (dlc : Nat) (data : List Byte)
  /-- a flash command as sent: opcode, address when sent, data written, bytes to read (R81) -/
  | flash (opcode : Nat) (addr : Option Nat) (data : List Byte) (read : Nat)
  /-- the bench core takes a trap: mcause (R425, R474) -/
  | benchTrap (cause : Nat)
  /-- what a register read returned to its requester: master code, own-space offset, bytes, value -/
  | regData (m off len value : Nat)
  deriving DecidableEq, Repr

/-- What an outstanding read of host memory is for. -/
inductive HostUse where
  | slotFetch (ring : Nat)
  | cmdInput (id : Nat)
  | dmaDesc (ch : Nat)
  | dmaData (ch seq : Nat)
  deriving DecidableEq, Repr

/-- A host memory read the device has sent and that has not completed (R458). -/
structure HostReq where
  id : Nat
  f : Nat
  addr : Nat
  len : Nat
  use : HostUse
  since : Nat
  deriving DecidableEq, Repr

/-- What a request at the regulator is for; its continuation is chosen by this when data or acknowledgements return. -/
inductive Purpose where
  /-- a ternary or window search taking a slot (R197); the stamp when key bits [63:0] are a stamp segment (R196) -/
  | slotSearch (who : Asker) (table : Nat) (key : Key) (stamp : Option Stamp)
  /-- a row access of the write lane (false) or read lane (true) (R198) -/
  | row (read : Bool)
  /-- an exact-match or prefix search (R243, R248) -/
  | hashSearch (who : Asker) (table : Nat) (key : Key) (stamp : Bool)
  /-- a stamp write (R254) that resolves the search reads `rids` (R323) -/
  | stampWrite (table : Nat) (rids : List Nat)
  /-- a round or write of a DRAM table command -/
  | hashCmd (id : Nat)
  /-- a counter or drain write made after an aging, flush or DELETE removal (R251, R260) -/
  | upkeep (id : Nat)
  /-- round of a waymark query, profile search or WNEXT -/
  | wayQuery (id : Nat)
  /-- a group write or held-header write of the waymark writer -/
  | wayWrite (page group upto : Nat)
  | wayHeader (page : Nat)
  /-- a bucket visit of the sweeper and its compare-and-delete, of the lap that started in cycle `lap` -/
  | sweep (lap table lenix bucket : Nat)
  | sweepDelete (lap table lenix bucket slot : Nat) (entry : List Byte)
  /-- FLUSH_PORT's walk and removals -/
  | flushRead (bucket : Nat)
  | flushDelete (bucket slot : Nat) (entry : List Byte)
  /-- the DRAM scrub walker's visit and write-back -/
  | scrub (g : Nat)
  | scrubBack (g : Nat)
  /-- a DMA channel's granule -/
  | dma (ch : Nat) (seq : Nat)
  /-- a WIPE's zero write -/
  | wipe (table : Nat)
  /-- an access of the march engine (R436) -/
  | march
  deriving DecidableEq, Repr

/-- A request presented to the regulator (R346–R353). -/
structure Req where
  id : Nat
  master : Nat
  slot : Bool
  purpose : Purpose
  /-- the cycle in which it is presented; it does not wait before that cycle -/
  since : Nat
  /-- its class was under guarantee for the resource when it was presented (R360) -/
  under : Bool
  missed : Bool
  /-- a round has received its first granule (R353) -/
  started : Bool
  grans : List Gran
  deriving DecidableEq, Repr

/-- A DRAM read in flight: its data was captured when it was served (R441). `bad`: a word read uncorrectable. -/
structure ReadFl where
  due : Nat
  rid : Nat
  reqId : Nat
  g : Nat
  data : List Byte
  bad : Bool
  /-- corrupted words met: word in the granule, error pattern -/
  errs : List (Nat × Nat × Bool)
  deriving DecidableEq, Repr

/-- A posted write in flight (R441): `ackAt` is set once it has been served; `waits` are the search reads a held
write still waits for (R323); `blocked` are reads of its granule granted after it. -/
structure WriteFl where
  wid : Nat
  reqId : Nat
  master : Nat
  purpose : Purpose
  gran : Gran
  ackAt : Option Nat
  waits : List Nat
  blocked : List (Nat × Nat)
  /-- whether its condition held when it was served -/
  done : Bool
  deriving DecidableEq, Repr

/-- A round of reads: the request's purpose, how many reads are still to return, and what returned. -/
structure Round where
  reqId : Nat
  master : Nat
  purpose : Purpose
  left : Nat
  got : List (Nat × List Byte × Bool)
  rids : List Nat
  deriving DecidableEq, Repr

/-- One ternary row (R185). -/
structure TRow where
  data : BitVec 80
  mask : BitVec 80
  valid : Bool
  deriving DecidableEq, Repr

/-- A cleared row (R227). -/
def TRow.zero : TRow := ⟨0, 0, false⟩

/-- A relocation-log entry (R210, R269): table, the generation it produced, source and destination. -/
structure Reloc where
  table : Nat
  gen : Nat
  src : Nat
  dst : Nat
  deriving DecidableEq, Repr

/-- One row access of a ternary command (R206, R207, R217). -/
inductive RowOp where
  /-- write one row of a new entry; `store` carries result word and PRIO, written before the head row -/
  | write (row : Nat) (r : TRow) (store : Option (Nat × Nat))
  /-- copy one row of a relocating entry; on the head row the result word and PRIO go first and the move pair is set -/
  | copy (src dst : Nat) (head : Bool)
  /-- clear the source's VALID and the move pair, advance the generation -/
  | clearSrc (src dst : Nat)
  | clearValid (row : Nat)
  | wipeBlock (b : Nat)
  | read (row : Nat)
  deriving DecidableEq, Repr

/-- A ternary command at the head of its lane, with the row accesses it still makes. -/
structure TcaOp where
  id : Nat
  opcode : Nat
  table : Nat
  ready : Nat
  script : List RowOp
  rows : Nat
  handle : Nat
  /-- a MOVE counting toward a rebuild (R220) -/
  series : Bool
  /-- rows read so far by READ or NEXT -/
  buf : List TRow
  deriving DecidableEq, Repr

/-- A table declaration (R60), as applied from the image. -/
structure TblDecl where
  kind : Nat
  sig : Bool
  ordered : Bool
  age : Bool
  learn : Bool
  width : Nat
  layby : Nat
  blocks : Nat
  first : Nat
  base : Nat
  size : Nat
  keyBits : Nat
  bloom : Nat
  ageLimit : Nat
  lengths : List Nat
  deriving DecidableEq, Repr

/-- A stash entry: its length index and the entry in the table's format (R243, R246). -/
structure StashEnt where
  lenix : Nat
  entry : List Byte
  deriving DecidableEq, Repr

/-- A node of INSERT's search for a path (R257): an entry in a slot, and the node of the level before whose move it frees. -/
structure HNode where
  bucket : Nat
  slot : Nat
  entry : List Byte
  parent : Nat
  deriving DecidableEq, Repr

/-- Where a DRAM table command stands. -/
inductive HPhase where
  | read0 | ctrRead | ctrWrite | writeEntry | readLevel (depth : Nat) | path | waitEarlier | readNamed
  | clearEntry | update | scan | wiping
  /-- the counters of the prefix are up, or the filter has been asked -/
  | counted | filtered
  deriving DecidableEq, Repr

/-- A DRAM table command being carried out (R256–R270). -/
structure HashOp where
  id : Nat
  opcode : Nat
  table : Nat
  lenix : Nat
  phase : HPhase
  order : Nat
  entry : List Byte
  keyv : Nat
  buckets : List Nat
  levels : List (List HNode)
  seen : Nat
  depth : Nat
  /-- writes of a path still to make: granule bucket, slot, bytes, and the source handle a step empties -/
  steps : List (Nat × Nat × List Byte × Option (Nat × Nat))
  handle : Nat
  byKey : Bool
  /-- INSERT: the counters of the prefix are up -/
  counted : Bool
  left : Nat
  place : Option (Nat × Nat)
  stashIx : Option Nat
  relocating : Bool
  cursor : Nat
  scanned : Nat
  deriving DecidableEq, Repr

/-- Counter upkeep and stash drain after a removal (R251, R260). -/
structure Upkeep where
  id : Nat
  master : Nat
  table : Nat
  lenix : Nat
  bucket : Nat
  slot : Nat
  entry : List Byte
  phase : Nat
  left : Nat
  stash : Nat
  /-- the DELETE that waits for it, if one does -/
  cmd : Option Nat
  deriving DecidableEq, Repr

/-- A waymark insert handed to the writer (R181, R279). -/
structure Insert where
  stream : Nat
  port : Nat
  acc : Nat
  stamp : Stamp
  store : Nat
  len : Nat
  flags : Nat
  digest : Nat
  seq : Nat
  /-- its place in the combine space (R289) -/
  place : Nat
  deriving DecidableEq, Repr

/-- A milestone-table entry (R283). -/
structure Page where
  milestone : Nat
  lastOfs : Nat
  fill : Nat
  owned : Bool
  stream : Nat
  nextPage : Nat
  use : Nat
  alloc : Nat
  deriving DecidableEq, Repr

/-- A page never allocated since the start (R305). -/
def Page.free : Page := ⟨0, 0, 0, false, 0, 0, 0, 0⟩

/-- A stream's configuration and on-die record (R283, R290). `seg`: the segment start (R301). -/
structure Stream where
  min : Nat
  max : Nat
  ageMs : Nat
  dis : Bool
  head : Nat
  openPage : Nat
  owned : Nat
  seg : Option Nat
  /-- the next release opens a new page (R288, R301) -/
  closed : Bool
  flushing : Bool
  /-- inserts placed in the open page, visible or not -/
  placed : Nat
  bad : Bool
  deriving DecidableEq, Repr

/-- A stream at all zeros (R290, R305). -/
def Stream.zero : Stream := ⟨0, 0, 0, false, 0, 0, 0, none, false, false, 0, false⟩

/-- A record of an open group still in the combine space: its page and index, when it was released, its bytes, and
whether its write has been issued. -/
structure OpenRec where
  stream : Nat
  page : Nat
  index : Nat
  since : Nat
  ofs : Nat
  bytes : List Byte
  written : Bool
  /-- its place in the combine space, and whether its writes are acknowledged, which frees the place (R289) -/
  place : Nat
  acked : Bool
  deriving DecidableEq, Repr

/-- A waymark query, profile search or WNEXT in progress (R295, R298). -/
structure WayQ where
  id : Nat
  who : Asker
  stream : Nat
  time : Nat
  page : Nat
  use : Nat
  group : Nat
  index : Nat
  round : Nat
  fromPage : Nat
  fromUse : Nat
  fill : Nat
  milestone : Nat
  master : Nat
  /-- the page is the first of the segment (R297) -/
  edge : Bool
  deriving DecidableEq, Repr

/-- What a query that ends tells its asker (R300, R302). -/
structure WayRes where
  status : Nat
  handle : Nat
  image : List Byte
  straddle : Bool
  edge : Bool
  deriving DecidableEq, Repr

/-- A learn notification (R313, R318). -/
structure Notif where
  raisedAt : Nat
  acc : Nat
  port : Nat
  search : Nat
  table : Nat
  selPort : Nat
  profile : Nat
  ns : Nat
  key : Nat
  lost : Nat
  deriving DecidableEq, Repr

/-- A host table command in flight (R328–R335). -/
structure TCmd where
  id : Nat
  ring : Nat
  slot : Nat
  opcode : Nat
  table : Nat
  flags : Nat
  cmdId : Nat
  arg0 : Nat
  arg1 : Nat
  addr : Nat
  /-- none: input not here yet; some none: its read failed -/
  input : Option (Option (List Byte))
  started : Bool
  /-- its scratchpad input was uncorrectable: check 11 ends it (R425, R554) -/
  ue : Bool
  deriving DecidableEq, Repr

/-- A completion ready to be posted (R334). -/
structure Compl where
  ring : Nat
  slot : Nat
  cmdId : Nat
  opcode : Nat
  notify : Bool
  status : Nat
  edge : Bool
  straddle : Bool
  restart : Bool
  multi : Bool
  handle : Nat
  gen : Nat
  count : Nat
  result : Nat
  /-- it occupies an in-flight place (false for BUSY, R333) -/
  counted : Bool
  deriving DecidableEq, Repr

/-- A descriptor captured whole, or ended by an error, and not yet accepted or discarded (R15, R19, R148). -/
structure Captured where
  at_ : Nat
  bytes : List Byte
  stamp : Stamp
  bad : Bool
  deriving DecidableEq, Repr

/-- A released verdict on its way out of a port (R32, R147). -/
structure TxVerdict where
  release : Nat
  acc : Nat
  verdict : Nat
  deriving DecidableEq, Repr

/-- A tap port (R125–R150): link state, training, credits, reserve, replay and its queues. -/
structure TapPort where
  state : Nat
  lockAt : Nat
  upAt : Nat
  lastFc : Nat
  trains : Nat
  acks : Nat
  /-- 8 consecutive valid TRAIN blocks with ACK have been received (R127) -/
  acked : Bool
  peerVer : Nat
  vspace : Nat
  sent : Nat
  vcons : Nat
  urgIn : Nat
  urgOut : Nat
  fcSentAt : Nat
  reserve : List Nat
  toGrant : List Nat
  replay : Option (List Nat)
  captured : List Captured
  txq : List TxVerdict
  txFreeAt : Nat
  errs : List (Nat × Nat)
  granted : Nat
  received : Nat
  /-- depth(p) while DEPTH has been lowered below the reserve (R141) -/
  depthOver : Option Nat
  /-- the cycle after the last grant (R137: one tag in a cycle) -/
  grantAt : Nat
  /-- the port has left UP since the start, so the next UP replays its reserve (R140) -/
  wasUp : Bool
  /-- VSPACE of the last valid TRAIN block, taken into `vspace` at UP (R127) -/
  vspaceRx : Nat
  /-- the next transmit block boundary, in 1/50 of a CCLK cycle: a block lasts 256 of them (R119, R147) -/
  txAt : Nat
  /-- the last block sent was IDLE: a run of IDLE blocks is recorded once -/
  idle : Bool
  /-- the block before was not a TRAIN block: TRAIN and IDLE go in turn (R125) -/
  trainTurn : Bool
  /-- TRAIN blocks with ACK sent since the eighth one with ACK was received (R127) -/
  trainTx : Nat
  /-- data blocks of the verdict in progress, still to send (R132, R146) -/
  txData : List Nat
  /-- invalid sync headers in the present window of 64 blocks: its number since block lock, and how many (R119) -/
  hdrWin : Nat
  hdrBad : Nat
  /-- a RESYNC request whose snapshot waits for the descriptors captured before it: its cycle (R139) -/
  resync : Option Nat
  deriving DecidableEq, Repr

/-- A port that has never been up (R125, R129). -/
def TapPort.off : TapPort :=
  ⟨0, 0, 0, 0, 0, 0, false, 0, 0, 0, 0, 0, 0, 0, [], [], none, [], [], 0, [], 0, 0, none, 0, false, 0, 0, false, true, 0, [], 0, 0, none⟩

/-- State of one search of a flight. -/
structure Srch where
  table : Nat
  /-- the answer and the cycle it reached the composer -/
  ans : Option (Nat × Ans)
  refused : Bool
  key : Nat
  deriving DecidableEq, Repr

/-- A descriptor between acceptance and release (R15–R36). -/
structure Flight where
  tag : Nat
  epoch : Nat
  port : Nat
  selPort : Nat
  acc : Nat
  deadline : Nat
  profile : Nat
  selected : Bool
  /-- the cycle of the selector's result -/
  selAt : Nat
  notReady : Bool
  /-- the cobbler's start cycle, once it has started -/
  started : Option Nat
  stamp : Stamp
  bytes : List Byte
  level : Nat
  /-- the profile record in force at acceptance (R169) -/
  recw : List Nat
  /-- records replaced since acceptance, and the enable bits at acceptance (R169) -/
  oldRecs : List (Nat × List Nat)
  enabled : Nat
  searches : List Srch
  keysDone : Nat
  composed : Option Nat
  verdict : Nat
  deriving DecidableEq, Repr

/-- A tracker state (R423). -/
inductive TrackSt where
  | pending | watch | retire | poison
  deriving DecidableEq, Repr

/-- A tracker entry. -/
structure Track where
  mem : Nat
  addr : Nat
  st : TrackSt
  count : Nat
  deriving DecidableEq, Repr

/-- A corrupted codeword: the error pattern, and whether the flip mask made it (R424, R435). -/
structure Flip where
  mask : Nat
  injected : Bool
  deriving DecidableEq, Repr

/-- A page-retire map entry (R430). -/
structure Retire where
  page : Nat
  spare : Nat
  busyTo : Option Nat
  inForce : Bool
  deriving DecidableEq, Repr

/-- A march in progress (R436). -/
structure March where
  mem : Nat
  start : Nat
  len : Nat
  preserving : Bool
  deriving DecidableEq, Repr

/-- The kinds of scratchpad access (R416, R417). -/
inductive SpmKind where
  | read | write | set | clear
  deriving DecidableEq, Repr

/-- What a scratchpad access is for: an outside requester's own, or the step of an engine of the device that the port's
service lets go on (R328, R414). -/
inductive SpmUse where
  | outside
  /-- the slot at HEAD of a ring, a command's input, its output data, and the completion at CHEAD (R331–R334) -/
  | slot (ring : Nat)
  | input (id : Nat)
  | put (ring : Option Nat)
  | compl (ring : Nat)
  /-- the oldest queued notification, and the waiting signature (R225, R317) -/
  | learn
  | sig
  /-- a DMA channel's descriptor or data, and the status of a descriptor that ends (R465, R466) -/
  | dma (ch : Nat)
  | dmaBack (ch status : Nat) (irq : Bool)
  /-- an access of the march engine (R436) -/
  | march
  deriving DecidableEq, Repr

/-- A scratchpad access waiting at the port (R415): its requester index, who made it, what it does, where, the bytes of a
write, and what it is for. -/
structure SpmAcc where
  q : Nat
  who : Requester
  since : Nat
  kind : SpmKind
  rotate : Bool
  off : Nat
  len : Nat
  data : List Byte
  use : SpmUse
  deriving DecidableEq, Repr

end Sys2Proof.Machine
end

