-- ==== Sys2Proof/Machine/Links.lean ====
section
/-!
DEFINITION. The state of the time unit, the welt and bridge, the host side, the CAN controller and the power, image,
checkpoint-store and life-cycle units: what their registers do not hold.
-/
namespace Sys2Proof.Machine

/-- What the time unit keeps of a source it watches (R92, R93): when it was selected, its last accepted edge or valid
mark, the edge before, how far it is on the way to lock, and the `MIL_TOD_NEXT` value its last accepted edge used. -/
structure SrcWatch where
  since : Nat
  lastOk : Option Nat
  prev : Option Nat
  streak : Nat
  lost : Bool
  todSeen : Nat
  todUsed : Nat
  deriving DecidableEq, Repr

/-- A source nobody has selected. -/
def SrcWatch.zero : SrcWatch := ⟨0, none, none, 0, false, 0, 0⟩

/-- The delay exchange of a port (R102, R103, R145): the request outstanding, and the last 8 round trips (1/256 ns). -/
structure Dly where
  seq : Nat
  sentAt : Nat
  t1 : Option (Nat × Nat)
  all : List Int
  good : List Int
  valid : Bool
  goodN : Nat
  lastGood : Nat
  /-- the last exchange has been counted as lost (R145, R156) -/
  counted : Bool
  deriving DecidableEq, Repr

/-- A link that has run no exchange. -/
def Dly.zero : Dly := ⟨0, 0, none, [], [], false, 0, 0, false⟩

/-- A pulse generator: trigger outputs 0–7 and PPS outputs 8, 9 (R108–R110). START, PHASE, PERIOD and WIDTH in force,
the next rising edge, and the pulse in progress: its rising edge, the cycle of its rise, and whether a step has passed
since (R97). -/
structure Pulse where
  on : Bool
  start : Int
  phase : Nat
  period : Nat
  width : Nat
  next : Option Nat
  newPhase : Option (Nat × Nat)
  high : Option (Nat × Nat × Bool)
  fallNs : Nat
  deriving DecidableEq, Repr

/-- A generator that has not been enabled. -/
def Pulse.off : Pulse := ⟨false, 0, 0, 1, 0, none, none, none, 0⟩

/-- State of the time unit (R87–R118). `road` and `rem` are in units of 2⁻⁴⁰ ns, `freq` and `rate` in ppt. -/
structure MilSt where
  road : Nat
  state : Nat
  src : Nat
  onBackup : Bool
  freq : Int
  rate : Int
  /-- slew remainder (R96) -/
  rem : Int
  /-- pending step: amount and boundary (ns) -/
  step : Option (Int × Nat)
  /-- a MIL_SET correction is part of the pending step -/
  setStep : Bool
  valid : Bool
  /-- a warm start has not locked yet (R99) -/
  warm : Bool
  holdBase : Nat
  holdNs : Nat
  err : Int
  todWrites : Nat
  watch : KMap SrcWatch
  marks : Nat
  markBase : Nat
  /-- a slave's announced step: amount, boundary, road time of its first announcement (R107) -/
  announce : Option (Int × Nat × Nat)
  dly : KMap Dly
  lastMark : KMap Nat
  pulse : KMap Pulse
  /-- profiles whose enable waits for the step boundary (R96) -/
  deferEn : Option Nat
  /-- start of the running calibration window (R111) -/
  aonFrom : Nat
  /-- MIL_TIME_AUX latched per master (R88) -/
  auxLatch : KMap (Option Nat)
  /-- the last part of a slew, taken by the next edge (R96) -/
  slewTail : Int
  /-- road time (ns) at the last rising edge of the always-on clock (R505) -/
  edgeNs : Nat
  deriving DecidableEq, Repr

/-- Where the image loader stands (R53, R66, R76): before the ILT, fetching a copy, admitted and waiting for apply,
applied, or failed. -/
inductive ImgPhase where
  | before | fetching | admitted | applied | failed
  deriving DecidableEq, Repr

/-- State of the image unit (R50–R86). Copies: 0 A, 1 B, 2 host, 3 the configuration copy. -/
structure ImgSt where
  tables : KMap (Option TblDecl)
  searchId : Option Nat
  fwLen : Nat
  weltPos : Nat
  weltCount : Nat
  role : Nat
  /-- image apply has ended in this start (R76) -/
  applied : Bool
  phase : ImgPhase
  /-- the ILT copy in use, and its flash offset (R51) -/
  ilt : List Byte
  iltAt : Nat
  copy : Nat
  /-- the other copy has been tried, or cannot be -/
  last : Bool
  /-- the image in the staging memory (R498), and the applied image -/
  staged : List Byte
  image : List Byte
  /-- profiles with AUTO_EN (R75) -/
  autoEn : Nat
  /-- a flash command that polls status: the cycle of its GO (R81) -/
  poll : Option Nat
  /-- WPOS[2:0] as sampled at this start (R374) -/
  straps : Nat
  /-- XSPI_RESET_N has been low since this cycle (R52) -/
  xspiLow : Option Nat
  /-- when the fetch of the present copy began (R71) -/
  fetchAt : Nat
  /-- the last status poll of the running flash command (R81) -/
  pollAt : Nat
  deriving DecidableEq, Repr

/-- The states of the device (R487), with the passage between them: the rails are requested, or RESET_N has just been released. -/
inductive PwrState where
  | off | park | starting | woken | staged | ready | parking
  deriving DecidableEq, Repr

/-- State of the power unit (R487–R513). -/
structure PwrSt where
  st : PwrState
  /-- the state before PARKING -/
  prev : PwrState
  /-- grants have stopped for a PARK commit (R492), since the cycle kept here -/
  stopGrants : Bool
  commitAt : Nat
  graceEnd : Nat
  /-- PARK_REQ_N is high (R487), and since when it has been low -/
  reqHigh : Bool
  lowAt : Nat
  pgood : Bool
  /-- the 1 ms dwell after PGOOD fell is over (R493) -/
  dwellOver : Bool
  /-- a wake event is latched (R493, R494) -/
  wake : Bool
  /-- cause codes that apply to the next start (R496) -/
  causes : List Nat
  /-- cold step 9 began (R489) -/
  step9At : Nat
  warmStart : Bool
  /-- fraction of the always-on clock (R111), in 1/3125000 of an edge -/
  aonAcc : Nat
  /-- levels of the wake and tamper inputs (R491, R494, R511) -/
  wakeLevel : Nat
  tamperLevel : Nat
  /-- SEQ of the last commit record, in the always-on domain (R488, R501) -/
  commitSeq : Nat
  /-- MIL_HOLD_TICKS counts edges of the always-on clock: from the commit until road time resumes (R111, R501) -/
  counting : Bool
  /-- road time resumes at the next such edge: the record's TIME, AON_PERIOD and TIME_VALID (R501) -/
  resume : Option (Nat × Nat × Bool)
  /-- the time-state record of the commit is under way or written (R492) -/
  recorded : Bool
  deriving DecidableEq, Repr

/-- A checkpoint write in progress (R504): its kind (0 configuration copy, 1 integrity record, 2 time-state record), the
bytes it writes and where, and the words still to write. -/
structure CkptOp where
  kind : Nat
  addr : Nat
  bytes : List Byte
  total : Nat
  since : Nat
  deriving DecidableEq, Repr

/-- A word access to the store: of `NVC_ACC_CMD` or of the device itself, a write or a read, its offset and data (R504,
R507). -/
structure NvcAcc where
  host : Bool
  write : Bool
  addr : Nat
  data : Nat
  deriving DecidableEq, Repr

/-- State of the checkpoint store (R503–R507). -/
structure NvcSt where
  /-- the integrity record in force in the store (R434): spares in use, page-retire map, ternary blocks retired, and
  whether DRAM training parameters are held; none: no valid copy -/
  record : Option (KMap Nat × KMap (Option Retire) × Nat × Bool)
  mem : List Host.Cell
  ops : List CkptOp
  seq : Nat
  /-- road time (ns) of the last time-state record -/
  lastRec : Nat
  /-- sealed-area and vault wipe in progress: since when (R511) -/
  wipeAt : Option Nat
  /-- the next start empties the integrity record (R434) -/
  recClr : Bool
  /-- INVALID_WHY of a configuration copy made from now on until the next start (R80, R503) -/
  why : Nat
  /-- word accesses in progress, and since when the first of them (R504, R514) -/
  acc : List NvcAcc
  accAt : Nat
  deriving DecidableEq, Repr

/-- A key slot of the fuses (R67, R508). -/
structure KeySlot where
  prog : Bool
  partly : Bool
  hash : List Byte
  revoked : Bool
  deriving DecidableEq, Repr

/-- A life-cycle operation programming fuses (R508): OP, SLOT, ARG, hash, words left, when the next word is done. -/
structure LcsOp where
  op : Nat
  slot : Nat
  arg : Nat
  hash : List Byte
  token : Bool
  left : Nat
  since : Nat
  deriving DecidableEq, Repr

/-- Fuses and life-cycle state (R2, R67, R508–R511, R549). -/
structure LcsSt where
  lcState : Nat
  pend : Option Nat
  keys : List KeySlot
  secVer : Nat
  uid : Nat
  grade : Nat
  rev : Nat
  pcieId : Nat
  nonce : Nat
  op : Option LcsOp
  result : Nat
  deriving DecidableEq, Repr

/-- A bridge frame (R379, R380): TYPE 3 BPW, 4 BRD, 5 BCPL, 6 BNOTE, its header fields, address and data. -/
structure BFrame where
  typ : Nat
  dst : Nat
  src : Nat
  wsn : Nat
  size : Bool
  set : Nat
  status : Nat
  addr : Nat
  data : Nat
  deriving DecidableEq, Repr

/-- An outbound bridge entry (R400): the frame, its place in the order of arrival, and its LSEQ and send cycle once it
has been sent. -/
structure OutEnt where
  f : BFrame
  order : Nat
  lseq : Option Nat
  sentAt : Nat
  deriving DecidableEq, Repr

/-- A KEY frame (R380): `frees` is the port whose KEY entry it occupies until it has gone, if any (R382). -/
structure WKey where
  table : Nat
  tag : Nat
  epoch : Nat
  search : Nat
  origin : Nat
  leg : Bool
  segx : Bool
  sigma : Nat
  frac : Nat
  unc : Nat
  key : Nat
  frees : Option Nat
  deriving DecidableEq, Repr

/-- An ANS frame (R380). -/
structure WAns where
  kind : Nat
  tag : Nat
  epoch : Nat
  search : Nat
  origin : Nat
  pos : Nat
  hit : Bool
  multi : Bool
  part : Bool
  straddle : Bool
  res : Bool
  result : Nat
  frees : Option Nat
  deriving DecidableEq, Repr

/-- A welt port (R382–R388, R400): link state and training; frames sent, received and freed per credit class
(0 KEY, 1 ANS, 2 posted, 3 non-posted, 4 completion), counted since UP; its queues, entries and reservations. -/
structure WPort where
  state : Nat
  since : Nat
  lanes : Nat
  parts : Nat
  acks : Nat
  /-- valid TRAIN blocks in a row; 8 in a row with ACK have come; TRAIN blocks with ACK sent since (R127, R385) -/
  trains : Nat
  acked : Bool
  trainTx : Nat
  nPos : Nat
  nCount : Nat
  nRole : Nat
  cause : Nat
  cntHi : Nat
  mlDelay : Nat
  sent : KMap Nat
  peerFreed : KMap Nat
  rcvd : KMap Nat
  freed : KMap Nat
  /-- the counts and ACK that the last CREDIT block carried -/
  told : KMap Nat
  keyq : List WKey
  ansq : List WAns
  waitq : List BFrame
  out : List OutEnt
  inq : List BFrame
  rsv : Nat
  orders : Nat
  nextSeq : Nat
  expSeq : Nat
  ackAt : Nat
  lastCredit : Nat
  creditAt : Nat
  inRow : Nat
  /-- the next port-block boundary, in 1/125 of a CCLK cycle, a block lasting 64; blocks sent; the last one was IDLE
  (R378, R386) -/
  txAt : Nat
  txN : Nat
  idle : Bool
  deriving DecidableEq, Repr

/-- A port that has never been up. -/
def WPort.off : WPort :=
  ⟨0, 0, 0, 0, 0, 0, false, 0, 0, 0, 0, 0, 0, 0, [], [], [], [], [], [], [], [], [], [], 0, 0, 0, 0, 0, 0, 0, 0, 0, 0, false⟩

/-- A key this device searches as a member (R390): its frame, the port it came by (2: this device is the origin), the
slot number its SIGMA names, and its own slot number once granted. -/
structure WMem where
  id : Nat
  k : WKey
  port : Nat
  sigmaAt : Option Nat
  sigma : Option Nat
  refused : Bool
  deriving DecidableEq, Repr

/-- What an origin has gathered of a welt search (R394). -/
structure WAgg where
  tag : Nat
  epoch : Nat
  n : Nat
  table : Nat
  count : Nat
  hits : Nat
  best : Nat
  result : Nat
  multi : Bool
  part : Bool
  straddle : Bool
  /-- an answer was REFUSED (level 3 at a member), or ABORT (too late for its slot) -/
  refused : Bool
  aborted : Bool
  deriving DecidableEq, Repr

/-- State of the welt (R374–R395): both ports, the slot counter, members' keys, origins' searches. -/
structure WltSt where
  ports : KMap WPort
  slot : Nat
  slotOn : Bool
  nextId : Nat
  mem : List WMem
  agg : List WAgg
  /-- keys of this device that are not yet issued: the cycle, the port, the key (R390) -/
  keys : List (Nat × Nat × WKey)
  deriving DecidableEq, Repr

/-- A bridge read outstanding (R398): its set (4: a poll), target, WSN and cycle. -/
structure BRead where
  set : Nat
  pos : Nat
  size : Bool
  wsn : Nat
  since : Nat
  deriving DecidableEq, Repr

/-- State of the far-side bridge as initiator (R396–R401). -/
structure BrgSt where
  wsn : Nat
  reads : List BRead
  pollAt : Nat
  /-- the inbound frame whose scratchpad access is being served: port, frame, bytes read so far (R415) -/
  cur : Option (Nat × BFrame × List Byte)
  deriving DecidableEq, Repr

/-- A PCIe endpoint (R454–R461): link, the configuration registers the device acts on, the MSI-X table (word 4v + w) and
pending bits, the vectors active at the last look, and requests held while Bus Master Enable is 0 (R459). -/
structure Pcie where
  up : Bool
  command : Nat
  devCtl : Nat
  devCtl2 : Nat
  bar0 : Nat
  msixCtl : Nat
  table : KMap Nat
  pba : Nat
  active : Nat
  held : List Out
  deriving DecidableEq, Repr

/-- An endpoint after reset: PCIe's reset values of Device Control (Max Read Request Size 512) and the rest zero. -/
def Pcie.zero : Pcie := ⟨false, 0, 0x2810, 0, 0, 0, [], 0, 0, []⟩

/-- A DMA descriptor being run (R465, R466): addresses, length, how far its source has been read and its destination
written, bytes read and not yet written, reads and writes outstanding, and the first error met. -/
structure DmaOp where
  src : Nat
  dst : Nat
  len : Nat
  zero : Bool
  irq : Bool
  got : Nat
  put : Nat
  buf : List Byte
  reading : Option (Nat × Nat)
  writes : Nat
  deriving DecidableEq, Repr

/-- A DMA channel: a descriptor fetch in progress, the descriptor being run, and the number of its latest run. -/
structure DmaCh where
  fetching : Bool
  op : Option DmaOp
  seq : Nat
  deriving DecidableEq, Repr

/-- An idle channel. -/
def DmaCh.zero : DmaCh := ⟨false, none, 0⟩

/-- The response of an SPI transaction (R469, R470). -/
structure SpiResp where
  done : Bool
  frame : Bool
  ue : Bool
  denied : Bool
  waddr : Nat
  data : Nat
  deriving DecidableEq, Repr

/-- The SPI port: the pending response, transactions executed, and whether the transaction now shifted is refused. -/
structure SpiSt where
  pend : Option SpiResp
  seq : Nat
  refusing : Bool
  deriving DecidableEq, Repr

/-- The bench core as the rest of the device sees it (R472–R475): released, the entry address of its last start or
watchdog reset, when its watchdog was last kicked, and mailboxes whose CHECKPOINT waits for the write's end. -/
structure SeqSt where
  running : Bool
  entry : Nat
  wdogAt : Nat
  ckptBox : List Nat
  deriving DecidableEq, Repr

/-- The CAN controller (R476–R482): on the bus, the object being sent with its frame and whether an ABORT waits, error
counters, bus-off and recovery. -/
structure CanSt where
  joined : Bool
  tx : Option (Nat × CanFrame × Bool)
  tec : Nat
  rec_ : Nat
  busOff : Bool
  recovering : Bool
  recov : Nat
  /-- failed attempts of each object since its TXREQ (R480) -/
  fails : KMap Nat
  deriving DecidableEq, Repr

end Sys2Proof.Machine
end

