-- ==== Sys2Proof/Machine/RegTable.lean ====
section
/-!
DEFINITION. The register map of chapter 16 (R542, R544, R545): for every register its own-space byte offset,
its array dimensions, whether it is 64 bits wide, and its fields with the access codes of R9, their reset values
and their allowed codes (R8), each field as the register table of its defining chapter gives it.
Reserved fields are not listed: they read as zero and ignore writes (R7).
-/
namespace Sys2Proof.Machine

/-- The access codes of R9. -/
inductive Access where
  | ro | rw | rwl | wo | w1c | w1s | rc
  deriving DecidableEq, Repr

/-- One field of a register table: bits [hi:lo], its access code, its reset value, the ranges of values that are not
reserved (none listed: every value), and the alignment its meaning requires. -/
structure Field where
  hi : Nat
  lo : Nat
  acc : Access
  reset : Nat
  ok : List (Nat × Nat)
  align : Nat
  deriving DecidableEq, Repr

/-- A field every value of which is allowed. -/
def fld (hi lo : Nat) (acc : Access) (reset : Nat) : Field := ⟨hi, lo, acc, reset, [], 1⟩

/-- A field with reserved values (R8) or an alignment. -/
def fldR (hi lo : Nat) (acc : Access) (reset : Nat) (ok : List (Nat × Nat)) (align : Nat) : Field :=
  ⟨hi, lo, acc, reset, ok, align⟩

/-- One row of R545: a register, or an array of registers with one or two indices (count and byte stride of each). -/
structure RegRow where
  name : String
  base : Nat
  n1 : Nat
  s1 : Nat
  n2 : Nat
  s2 : Nat
  wide : Bool
  fields : List Field
  deriving DecidableEq, Repr

namespace Reg

/-- `TOP_ID` (R2). -/
def topId : Nat := 0x0
/-- `TOP_ERR` (R546). -/
def topErr : Nat := 0x4
/-- `TOP_ERR_ADDR` (R547). -/
def topErrAddr : Nat := 0x8
/-- `TOP_LEDGER_STAT` (R41). -/
def topLedgerStat : Nat := 0x10
/-- `TOP_LEDGER_BREAK` (R47). -/
def topLedgerBreak : Nat := 0x14
/-- `TOP_LEDGER_TIME` (R43). -/
def topLedgerTime : Nat := 0x18
/-- `TOP_LEDGER_SNAP[i]` (R43). -/
def topLedgerSnap (i : Nat) : Nat := 0x20 + 0x8 * i
/-- `PWR_CTRL` (R512). -/
def pwrCtrl : Nat := 0x10000
/-- `PWR_CFG` (R512). -/
def pwrCfg : Nat := 0x10004
/-- `PWR_HOLD` (R512). -/
def pwrHold : Nat := 0x10008
/-- `PWR_HOLD_MS` (R512). -/
def pwrHoldMs : Nat := 0x1000C
/-- `PWR_STAT` (R512). -/
def pwrStat : Nat := 0x10010
/-- `PWR_START_CAUSE` (R502). -/
def pwrStartCause : Nat := 0x10014
/-- `PWR_EVT` (R512). -/
def pwrEvt : Nat := 0x10018
/-- `PWR_EVT_EN` (R512). -/
def pwrEvtEn : Nat := 0x1001C
/-- `PWR_WAKE_CFG[i]` (R513). -/
def pwrWakeCfg (i : Nat) : Nat := 0x10020 + 0x4 * i
/-- `PWR_WAKE_CAN` (R513). -/
def pwrWakeCan : Nat := 0x10030
/-- `PWR_WAKE_SRC` (R513). -/
def pwrWakeSrc : Nat := 0x10034
/-- `PWR_ALARM` (R513). -/
def pwrAlarm : Nat := 0x10038
/-- `IMG_CTRL` (R84). -/
def imgCtrl : Nat := 0x20000
/-- `IMG_LOCK` (R85). -/
def imgLock : Nat := 0x20004
/-- `IMG_STAT` (R83). -/
def imgStat : Nat := 0x20008
/-- `IMG_HOST_ADDR` (R86). -/
def imgHostAddr : Nat := 0x2000C
/-- `IMG_FCMD` (R81). -/
def imgFcmd : Nat := 0x20010
/-- `IMG_FADDR` (R81). -/
def imgFaddr : Nat := 0x20014
/-- `IMG_FBUF` (R81). -/
def imgFbuf : Nat := 0x20018
/-- `IMG_TOTAL` (R86). -/
def imgTotal : Nat := 0x2001C
/-- `IMG_ID` (R86). -/
def imgId : Nat := 0x20020
/-- `IMG_REPORT_ID` (R86). -/
def imgReportId : Nat := 0x20028
/-- `IMG_PROG` (R14). -/
def imgProg : Nat := 0x20030
/-- `MIL_CTRL` (R90). -/
def milCtrl : Nat := 0x30000
/-- `MIL_SERVO` (R94). -/
def milServo : Nat := 0x30004
/-- `MIL_UNC_CFG` (R100). -/
def milUncCfg : Nat := 0x30008
/-- `MIL_HOLD` (R112). -/
def milHold : Nat := 0x3000C
/-- `MIL_DLY_CTRL` (R105). -/
def milDlyCtrl : Nat := 0x30010
/-- `MIL_STAT` (R100). -/
def milStat : Nat := 0x30014
/-- `MIL_EVT` (R114). -/
def milEvt : Nat := 0x30018
/-- `MIL_EVT_EN` (R114). -/
def milEvtEn : Nat := 0x3001C
/-- `MIL_RATE` (R98). -/
def milRate : Nat := 0x30020
/-- `MIL_TIME_AUX` (R88). -/
def milTimeAux : Nat := 0x30024
/-- `MIL_AON_PERIOD` (R112). -/
def milAonPeriod : Nat := 0x30028
/-- `MIL_PPS_ERR[i]` (R98). -/
def milPpsErr (i : Nat) : Nat := 0x30030 + 0x4 * i
/-- `MIL_TIME` (R88). -/
def milTime : Nat := 0x30040
/-- `MIL_OFFSET` (R98). -/
def milOffset : Nat := 0x30048
/-- `MIL_OFFSET_REM` (R98). -/
def milOffsetRem : Nat := 0x30050
/-- `MIL_SET` (R98). -/
def milSet : Nat := 0x30058
/-- `MIL_TOD_NEXT` (R98). -/
def milTodNext : Nat := 0x30060
/-- `MIL_HOLD_TICKS` (R112). -/
def milHoldTicks : Nat := 0x30068
/-- `MIL_AON_CNT` (R112). -/
def milAonCnt : Nat := 0x30070
/-- `MIL_PPS_OUT[i]` (R110). -/
def milPpsOut (i : Nat) : Nat := 0x30080 + 0x4 * i
/-- `MIL_PPS_OFS[i]` (R110). -/
def milPpsOfs (i : Nat) : Nat := 0x30088 + 0x4 * i
/-- `MIL_PORT_ASYM[i]` (R105). -/
def milPortAsym (i : Nat) : Nat := 0x30100 + 0x4 * i
/-- `MIL_PORT_DLY[i]` (R105). -/
def milPortDly (i : Nat) : Nat := 0x30200 + 0x8 * i
/-- `MIL_TRIG_CTRL[i]` (R109). -/
def milTrigCtrl (i : Nat) : Nat := 0x30400 + 0x40 * i
/-- `MIL_TRIG_START[i]` (R109). -/
def milTrigStart (i : Nat) : Nat := 0x30408 + 0x40 * i
/-- `MIL_TRIG_PERIOD[i]` (R109). -/
def milTrigPeriod (i : Nat) : Nat := 0x30410 + 0x40 * i
/-- `MIL_TRIG_PHASE[i]` (R109). -/
def milTrigPhase (i : Nat) : Nat := 0x30414 + 0x40 * i
/-- `MIL_TRIG_WIDTH[i]` (R109). -/
def milTrigWidth (i : Nat) : Nat := 0x30418 + 0x40 * i
/-- `MIL_TRIG_LAST[i]` (R109). -/
def milTrigLast (i : Nat) : Nat := 0x30420 + 0x40 * i
/-- `MIL_TRIG_CNT[i]` (R109). -/
def milTrigCnt (i : Nat) : Nat := 0x30428 + 0x40 * i
/-- `TAP_CTRL[i]` (R152). -/
def tapCtrl (i : Nat) : Nat := 0x40000 + 0x100 * i
/-- `TAP_STAT[i]` (R153). -/
def tapStat (i : Nat) : Nat := 0x40004 + 0x100 * i
/-- `TAP_EVT[i]` (R155). -/
def tapEvt (i : Nat) : Nat := 0x40008 + 0x100 * i
/-- `TAP_EVT_EN[i]` (R155). -/
def tapEvtEn (i : Nat) : Nat := 0x4000C + 0x100 * i
/-- `TAP_LAST_ERR[i]` (R155). -/
def tapLastErr (i : Nat) : Nat := 0x40010 + 0x100 * i
/-- `TAP_CRED[i]` (R154). -/
def tapCred (i : Nat) : Nat := 0x40018 + 0x100 * i
/-- `TAP_CNT[i][j]` (R156). -/
def tapCnt (i j : Nat) : Nat := 0x40080 + 0x100 * i + 0x8 * j
/-- `TAP_FORCE_CRED` (R142). -/
def tapForceCred : Nat := 0x43000
/-- `CBL_STAT` (R183). -/
def cblStat : Nat := 0x50000
/-- `CBL_SEL_DEF` (R184). -/
def cblSelDef : Nat := 0x50004
/-- `CBL_PROF_EN` (R169). -/
def cblProfEn : Nat := 0x50008
/-- `CBL_CNT[i]` (R182). -/
def cblCnt (i : Nat) : Nat := 0x50100 + 0x8 * i
/-- `CBL_PROF[i][j]` (R169). -/
def cblProf (i j : Nat) : Nat := 0x50400 + 0x20 * i + 0x4 * j
/-- `CBL_PROG_LEN[i]` (R184). -/
def cblProgLen (i : Nat) : Nat := 0x50C00 + 0x4 * i
/-- `CBL_SEL[i][j]` (R184). -/
def cblSel (i j : Nat) : Nat := 0x51000 + 0x20 * i + 0x4 * j
/-- `CBL_PROG[i][j]` (R184). -/
def cblProg (i j : Nat) : Nat := 0x55000 + 0x100 * i + 0x4 * j
/-- `VRD_TAG_STAT` (R23). -/
def vrdTagStat : Nat := 0x60000
/-- `VRD_TAG_RECLAIM` (R48). -/
def vrdTagReclaim : Nat := 0x60008
/-- `VRD_FRESH_IDX` (R179). -/
def vrdFreshIdx : Nat := 0x60010
/-- `VRD_FRESH_CMD` (R179). -/
def vrdFreshCmd : Nat := 0x60014
/-- `VRD_FRESH_CTR` (R179). -/
def vrdFreshCtr : Nat := 0x60018
/-- `VRD_FRESH_MAP` (R179). -/
def vrdFreshMap : Nat := 0x60020
/-- `VRD_EVT_CNT[i]` (R37). -/
def vrdEvtCnt (i : Nat) : Nat := 0x60040 + 0x8 * i
/-- `VRD_CMP_CNT[i]` (R182). -/
def vrdCmpCnt (i : Nat) : Nat := 0x60080 + 0x8 * i
/-- `TOL_IDX` (R177). -/
def tolIdx : Nat := 0x70000
/-- `TOL_CMD` (R177). -/
def tolCmd : Nat := 0x70004
/-- `TOL_DATA[i]` (R177). -/
def tolData (i : Nat) : Nat := 0x70010 + 0x4 * i
/-- `TCA_CTRL` (R228). -/
def tcaCtrl : Nat := 0x80000
/-- `TCA_UPD_RATE` (R229). -/
def tcaUpdRate : Nat := 0x80004
/-- `TCA_THERM` (R230). -/
def tcaTherm : Nat := 0x80008
/-- `TCA_EVT` (R234). -/
def tcaEvt : Nat := 0x8000C
/-- `TCA_EVT_EN` (R234). -/
def tcaEvtEn : Nat := 0x80010
/-- `TCA_SIG_BASE` (R235). -/
def tcaSigBase : Nat := 0x80014
/-- `TCA_SIG_SIZE` (R235). -/
def tcaSigSize : Nat := 0x80018
/-- `TCA_SIG_HEAD` (R235). -/
def tcaSigHead : Nat := 0x8001C
/-- `TCA_SIG_TAIL` (R235). -/
def tcaSigTail : Nat := 0x80020
/-- `TCA_SIG_STAT` (R235). -/
def tcaSigStat : Nat := 0x80024
/-- `TCA_SIG_REQ` (R235). -/
def tcaSigReq : Nat := 0x80028
/-- `TCA_REBUILD_CTRL` (R235). -/
def tcaRebuildCtrl : Nat := 0x8002C
/-- `TCA_REBUILD_TOTAL` (R235). -/
def tcaRebuildTotal : Nat := 0x80030
/-- `TCA_SIG_LAP` (R235). -/
def tcaSigLap : Nat := 0x80038
/-- `TCA_REBUILD_PROG` (R14). -/
def tcaRebuildProg : Nat := 0x80040
/-- `TCA_CNT[i]` (R233). -/
def tcaCnt (i : Nat) : Nat := 0x80080 + 0x8 * i
/-- `TCA_BLK[i]` (R231). -/
def tcaBlk (i : Nat) : Nat := 0x80100 + 0x4 * i
/-- `TCA_TBL_STAT[i]` (R232). -/
def tcaTblStat (i : Nat) : Nat := 0x80200 + 0x8 * i
/-- `HSH_PFX_SEL` (R276). -/
def hshPfxSel : Nat := 0x90000
/-- `HSH_PFX_SHARE` (R276). -/
def hshPfxShare : Nat := 0x90004
/-- `HSH_PFX_CNT` (R276). -/
def hshPfxCnt : Nat := 0x90008
/-- `HSH_STASH_THR` (R277). -/
def hshStashThr : Nat := 0x9000C
/-- `HSH_EVT` (R277). -/
def hshEvt : Nat := 0x90010
/-- `HSH_EVT_EN` (R277). -/
def hshEvtEn : Nat := 0x90014
/-- `HSH_PFX_SUB` (R276). -/
def hshPfxSub : Nat := 0x90018
/-- `HSH_CNT[i]` (R278). -/
def hshCnt (i : Nat) : Nat := 0x90080 + 0x8 * i
/-- `HSH_SEED[i]` (R275). -/
def hshSeed (i : Nat) : Nat := 0x90100 + 0x4 * i
/-- `HSH_TBL_STAT[i]` (R274). -/
def hshTblStat (i : Nat) : Nat := 0x90200 + 0x8 * i
/-- `WAY_CTRL` (R307). -/
def wayCtrl : Nat := 0xA0000
/-- `WAY_PRESS` (R307). -/
def wayPress : Nat := 0xA0004
/-- `WAY_SETTLE` (R307). -/
def waySettle : Nat := 0xA0008
/-- `WAY_COMBINE` (R308). -/
def wayCombine : Nat := 0xA000C
/-- `WAY_STREAM_IDX` (R309). -/
def wayStreamIdx : Nat := 0xA0010
/-- `WAY_PAGE_IDX` (R309). -/
def wayPageIdx : Nat := 0xA0014
/-- `WAY_FLUSH` (R310). -/
def wayFlush : Nat := 0xA0018
/-- `WAY_FLUSH_TOTAL` (R310). -/
def wayFlushTotal : Nat := 0xA001C
/-- `WAY_ERR` (R310). -/
def wayErr : Nat := 0xA0020
/-- `WAY_EVT` (R311). -/
def wayEvt : Nat := 0xA0024
/-- `WAY_EVT_EN` (R311). -/
def wayEvtEn : Nat := 0xA0028
/-- `WAY_PAGE_LAST` (R309). -/
def wayPageLast : Nat := 0xA002C
/-- `WAY_MAP` (R307). -/
def wayMap : Nat := 0xA0030
/-- `WAY_POOL` (R308). -/
def wayPool : Nat := 0xA0038
/-- `WAY_RESV` (R308). -/
def wayResv : Nat := 0xA0040
/-- `WAY_STREAM_CFG` (R309). -/
def wayStreamCfg : Nat := 0xA0048
/-- `WAY_STREAM_STAT` (R309). -/
def wayStreamStat : Nat := 0xA0050
/-- `WAY_PAGE_MS` (R309). -/
def wayPageMs : Nat := 0xA0058
/-- `WAY_PAGE_INFO` (R309). -/
def wayPageInfo : Nat := 0xA0060
/-- `WAY_FLUSH_PROG` (R14). -/
def wayFlushProg : Nat := 0xA0068
/-- `WAY_CNT[i]` (R312). -/
def wayCnt (i : Nat) : Nat := 0xA0080 + 0x8 * i
/-- `LRN_CTRL` (R341). -/
def lrnCtrl : Nat := 0xB0000
/-- `LRN_RING_BASE` (R341). -/
def lrnRingBase : Nat := 0xB0004
/-- `LRN_RING_SIZE` (R341). -/
def lrnRingSize : Nat := 0xB0008
/-- `LRN_HEAD` (R341). -/
def lrnHead : Nat := 0xB000C
/-- `LRN_TAIL` (R341). -/
def lrnTail : Nat := 0xB0010
/-- `LRN_DEDUP` (R341). -/
def lrnDedup : Nat := 0xB0014
/-- `LRN_RATE` (R341). -/
def lrnRate : Nat := 0xB0018
/-- `LRN_STAT` (R341). -/
def lrnStat : Nat := 0xB001C
/-- `LRN_EVT` (R342). -/
def lrnEvt : Nat := 0xB0020
/-- `LRN_EVT_EN` (R342). -/
def lrnEvtEn : Nat := 0xB0024
/-- `LRN_CNT[i]` (R341). -/
def lrnCnt (i : Nat) : Nat := 0xB0040 + 0x8 * i
/-- `AGE_CTRL` (R343). -/
def ageCtrl : Nat := 0xC0000
/-- `AGE_LAP_TOTAL` (R343). -/
def ageLapTotal : Nat := 0xC0004
/-- `AGE_FLUSH_TOTAL` (R343). -/
def ageFlushTotal : Nat := 0xC0008
/-- `AGE_EVT` (R344). -/
def ageEvt : Nat := 0xC000C
/-- `AGE_EVT_EN` (R344). -/
def ageEvtEn : Nat := 0xC0010
/-- `AGE_LAP` (R343). -/
def ageLap : Nat := 0xC0018
/-- `AGE_LAP_PROG` (R14). -/
def ageLapProg : Nat := 0xC0020
/-- `AGE_FLUSH_PROG` (R14). -/
def ageFlushProg : Nat := 0xC0028
/-- `AGE_CNT[i]` (R343). -/
def ageCnt (i : Nat) : Nat := 0xC0040 + 0x8 * i
/-- `AGE_LIMIT[i]` (R343). -/
def ageLimit (i : Nat) : Nat := 0xC0100 + 0x4 * i
/-- `AGE_STAMP[i]` (R343). -/
def ageStamp (i : Nat) : Nat := 0xC0200 + 0x4 * i
/-- `RGL_BUDGET` (R364). -/
def rglBudget : Nat := 0xD0000
/-- `RGL_HOST_URG[i]` (R367). -/
def rglHostUrg (i : Nat) : Nat := 0xD0004 + 0x4 * i
/-- `RGL_EVT` (R371). -/
def rglEvt : Nat := 0xD000C
/-- `RGL_EVT_EN` (R371). -/
def rglEvtEn : Nat := 0xD0010
/-- `RGL_MISS_HEAD` (R372). -/
def rglMissHead : Nat := 0xD0014
/-- `RGL_MISS_TAIL` (R372). -/
def rglMissTail : Nat := 0xD0018
/-- `RGL_MISS_OVF` (R372). -/
def rglMissOvf : Nat := 0xD001C
/-- `RGL_NOW` (R368). -/
def rglNow : Nat := 0xD0020
/-- `RGL_ADMIT` (R370). -/
def rglAdmit : Nat := 0xD0028
/-- `RGL_CLASS[i]` (R365). -/
def rglClass (i : Nat) : Nat := 0xD0040 + 0x8 * i
/-- `RGL_CEIL[i]` (R366). -/
def rglCeil (i : Nat) : Nat := 0xD0080 + 0x4 * i
/-- `RGL_CLS_STAT[i]` (R369). -/
def rglClsStat (i : Nat) : Nat := 0xD00C0 + 0x8 * i
/-- `RGL_MAP[i]` (R363). -/
def rglMap (i : Nat) : Nat := 0xD0100 + 0x4 * i
/-- `RGL_MST_STAT[i]` (R369). -/
def rglMstStat (i : Nat) : Nat := 0xD0200 + 0x4 * i
/-- `RGL_MISS[i][j]` (R372). -/
def rglMiss (i j : Nat) : Nat := 0xD0400 + 0x10 * i + 0x8 * j
/-- `RGL_CNT[i][j]` (R373). -/
def rglCnt (i j : Nat) : Nat := 0xD0600 + 0x40 * i + 0x8 * j
/-- `WLT_CTRL[i]` (R404). -/
def wltCtrl (i : Nat) : Nat := 0xE0000 + 0x100 * i
/-- `WLT_STAT[i]` (R404). -/
def wltStat (i : Nat) : Nat := 0xE0004 + 0x100 * i
/-- `WLT_CRED[i]` (R404). -/
def wltCred (i : Nat) : Nat := 0xE0008 + 0x100 * i
/-- `WLT_EVT[i]` (R406). -/
def wltEvt (i : Nat) : Nat := 0xE000C + 0x100 * i
/-- `WLT_EVT_EN[i]` (R406). -/
def wltEvtEn (i : Nat) : Nat := 0xE0010 + 0x100 * i
/-- `WLT_CNT[i][j]` (R406). -/
def wltCnt (i j : Nat) : Nat := 0xE0040 + 0x100 * i + 0x8 * j
/-- `WLT_SLOT` (R404). -/
def wltSlot : Nat := 0xE0200
/-- `WLT_TBL[i]` (R405). -/
def wltTbl (i : Nat) : Nat := 0xE0300 + 0x4 * i
/-- `BRG_CTRL` (R407). -/
def brgCtrl : Nat := 0xF0000
/-- `BRG_SIDE` (R407). -/
def brgSide : Nat := 0xF0004
/-- `BRG_EVT` (R409). -/
def brgEvt : Nat := 0xF0008
/-- `BRG_EVT_EN` (R409). -/
def brgEvtEn : Nat := 0xF000C
/-- `BRG_FAIL_HEAD` (R408). -/
def brgFailHead : Nat := 0xF0010
/-- `BRG_FAIL_TAIL` (R408). -/
def brgFailTail : Nat := 0xF0014
/-- `BRG_FAIL_OVF` (R408). -/
def brgFailOvf : Nat := 0xF0018
/-- `BRG_BUF[i]` (R407). -/
def brgBuf (i : Nat) : Nat := 0xF0020 + 0x4 * i
/-- `BRG_POLL` (R548). -/
def brgPoll : Nat := 0xF0028
/-- `BRG_RRD_ADDR[i]` (R407). -/
def brgRrdAddr (i : Nat) : Nat := 0xF0040 + 0x4 * i
/-- `BRG_RRD_STAT[i]` (R407). -/
def brgRrdStat (i : Nat) : Nat := 0xF0050 + 0x4 * i
/-- `BRG_RRD_DATA[i]` (R407). -/
def brgRrdData (i : Nat) : Nat := 0xF0060 + 0x8 * i
/-- `BRG_CNT[i]` (R409). -/
def brgCnt (i : Nat) : Nat := 0xF0080 + 0x8 * i
/-- `BRG_SLV_STAT[i]` (R407). -/
def brgSlvStat (i : Nat) : Nat := 0xF00C8 + 0x8 * i
/-- `BRG_FAIL[i][j]` (R408). -/
def brgFail (i j : Nat) : Nat := 0xF0100 + 0x10 * i + 0x8 * j
/-- `INT_SCRUB_CTRL` (R447). -/
def intScrubCtrl : Nat := 0x100000
/-- `INT_SCRUB_TOTAL` (R447). -/
def intScrubTotal : Nat := 0x100004
/-- `INT_LOG_HEAD` (R448). -/
def intLogHead : Nat := 0x100008
/-- `INT_LOG_TAIL` (R448). -/
def intLogTail : Nat := 0x10000C
/-- `INT_LOG_OVF` (R448). -/
def intLogOvf : Nat := 0x100010
/-- `INT_TRACK_STAT` (R448). -/
def intTrackStat : Nat := 0x100014
/-- `INT_REMAP_IDX` (R449). -/
def intRemapIdx : Nat := 0x100018
/-- `INT_REMAP_STAT` (R449). -/
def intRemapStat : Nat := 0x10001C
/-- `INT_RETIRE_IDX` (R449). -/
def intRetireIdx : Nat := 0x100020
/-- `INT_TCA_RETIRE` (R449). -/
def intTcaRetire : Nat := 0x100024
/-- `INT_RECORD_CLR` (R449). -/
def intRecordClr : Nat := 0x100028
/-- `INT_STAT` (R449). -/
def intStat : Nat := 0x10002C
/-- `INT_FLIP_CTRL` (R450). -/
def intFlipCtrl : Nat := 0x100030
/-- `INT_MARCH_CTRL` (R450). -/
def intMarchCtrl : Nat := 0x100034
/-- `INT_MARCH_LEN` (R450). -/
def intMarchLen : Nat := 0x100038
/-- `INT_MARCH_TOTAL` (R450). -/
def intMarchTotal : Nat := 0x10003C
/-- `INT_MARCH_STAT` (R450). -/
def intMarchStat : Nat := 0x100040
/-- `INT_EVT` (R451). -/
def intEvt : Nat := 0x100044
/-- `INT_EVT_EN` (R451). -/
def intEvtEn : Nat := 0x100048
/-- `INT_FLIP_MASK[i]` (R450). -/
def intFlipMask (i : Nat) : Nat := 0x100050 + 0x4 * i
/-- `INT_SCRUB_LAP` (R447). -/
def intScrubLap : Nat := 0x100060
/-- `INT_SRAM_LAP` (R447). -/
def intSramLap : Nat := 0x100068
/-- `INT_SCRUB_PROG` (R14). -/
def intScrubProg : Nat := 0x100070
/-- `INT_RETIRE_ENT` (R449). -/
def intRetireEnt : Nat := 0x100078
/-- `INT_FLIP_ADDR` (R450). -/
def intFlipAddr : Nat := 0x100080
/-- `INT_MARCH_START` (R450). -/
def intMarchStart : Nat := 0x100088
/-- `INT_MARCH_FAIL` (R450). -/
def intMarchFail : Nat := 0x100090
/-- `INT_MARCH_PROG` (R14). -/
def intMarchProg : Nat := 0x100098
/-- `INT_LOG[i][j]` (R448). -/
def intLog (i j : Nat) : Nat := 0x100400 + 0x10 * i + 0x8 * j
/-- `INT_CNT[i][j]` (R448). -/
def intCnt (i j : Nat) : Nat := 0x100800 + 0x20 * i + 0x8 * j
/-- `SPM_FAULT` (R452). -/
def spmFault : Nat := 0x110000
/-- `SPM_EVT` (R452). -/
def spmEvt : Nat := 0x110008
/-- `SPM_EVT_EN` (R452). -/
def spmEvtEn : Nat := 0x11000C
/-- `SPM_EN[i]` (R452). -/
def spmEn (i : Nat) : Nat := 0x110040 + 0x4 * i
/-- `SPM_CONFLICT[i]` (R452). -/
def spmConflict (i : Nat) : Nat := 0x110100 + 0x8 * i
/-- `DRC_STAT` (R453). -/
def drcStat : Nat := 0x120000
/-- `DRC_CLR_TOTAL` (R453). -/
def drcClrTotal : Nat := 0x120004
/-- `DRC_CLR_PROG` (R14). -/
def drcClrProg : Nat := 0x120008
/-- `DRC_CNT[i]` (R453). -/
def drcCnt (i : Nat) : Nat := 0x120040 + 0x8 * i
/-- `HST_INT_SUM` (R462). -/
def hstIntSum : Nat := 0x130000
/-- `HST_SPI_IRQ_EN` (R462). -/
def hstSpiIrqEn : Nat := 0x130004
/-- `HST_SPI_WMASK` (R471). -/
def hstSpiWmask : Nat := 0x130008
/-- `HST_SPI_EVT` (R471). -/
def hstSpiEvt : Nat := 0x13000C
/-- `HST_SPI_EVT_EN` (R471). -/
def hstSpiEvtEn : Nat := 0x130010
/-- `HST_PCIE_ID` (R549). -/
def hstPcieId : Nat := 0x130014
/-- `HST_INT_REARM[i]` (R462). -/
def hstIntRearm (i : Nat) : Nat := 0x130018 + 0x4 * i
/-- `HST_TCR_STAT` (R345). -/
def hstTcrStat : Nat := 0x130020
/-- `HST_SPI_CNT[i]` (R471). -/
def hstSpiCnt (i : Nat) : Nat := 0x130040 + 0x8 * i
/-- `HST_PCIE_EVT[i]` (R550). -/
def hstPcieEvt (i : Nat) : Nat := 0x130080 + 0x4 * i
/-- `HST_PCIE_EVT_EN[i]` (R550). -/
def hstPcieEvtEn (i : Nat) : Nat := 0x130088 + 0x4 * i
/-- `HST_PCIE_CNT[i][j]` (R551). -/
def hstPcieCnt (i j : Nat) : Nat := 0x1300C0 + 0x20 * i + 0x8 * j
/-- `HST_MSIX_MAP[i][j]` (R462). -/
def hstMsixMap (i j : Nat) : Nat := 0x130100 + 0x80 * i + 0x4 * j
/-- `HST_TCR_CTRL[i]` (R345). -/
def hstTcrCtrl (i : Nat) : Nat := 0x130400 + 0x80 * i
/-- `HST_TCR_HEAD[i]` (R345). -/
def hstTcrHead (i : Nat) : Nat := 0x130404 + 0x80 * i
/-- `HST_TCR_TAIL[i]` (R345). -/
def hstTcrTail (i : Nat) : Nat := 0x130408 + 0x80 * i
/-- `HST_TCR_CHEAD[i]` (R345). -/
def hstTcrChead (i : Nat) : Nat := 0x13040C + 0x80 * i
/-- `HST_TCR_CTAIL[i]` (R345). -/
def hstTcrCtail (i : Nat) : Nat := 0x130410 + 0x80 * i
/-- `HST_TCR_EVT[i]` (R345). -/
def hstTcrEvt (i : Nat) : Nat := 0x130414 + 0x80 * i
/-- `HST_TCR_EVT_EN[i]` (R345). -/
def hstTcrEvtEn (i : Nat) : Nat := 0x130418 + 0x80 * i
/-- `HST_TCR_BASE[i]` (R345). -/
def hstTcrBase (i : Nat) : Nat := 0x130420 + 0x80 * i
/-- `HST_TCR_CBASE[i]` (R345). -/
def hstTcrCbase (i : Nat) : Nat := 0x130428 + 0x80 * i
/-- `HST_TCR_CNT[i][j]` (R345). -/
def hstTcrCnt (i j : Nat) : Nat := 0x130440 + 0x80 * i + 0x8 * j
/-- `HST_DMA_CFG[i]` (R467). -/
def hstDmaCfg (i : Nat) : Nat := 0x130800 + 0x80 * i
/-- `HST_DMA_CTRL[i]` (R467). -/
def hstDmaCtrl (i : Nat) : Nat := 0x130804 + 0x80 * i
/-- `HST_DMA_HEAD[i]` (R467). -/
def hstDmaHead (i : Nat) : Nat := 0x130808 + 0x80 * i
/-- `HST_DMA_TAIL[i]` (R467). -/
def hstDmaTail (i : Nat) : Nat := 0x13080C + 0x80 * i
/-- `HST_DMA_STAT[i]` (R467). -/
def hstDmaStat (i : Nat) : Nat := 0x130810 + 0x80 * i
/-- `HST_DMA_EVT[i]` (R467). -/
def hstDmaEvt (i : Nat) : Nat := 0x130814 + 0x80 * i
/-- `HST_DMA_EVT_EN[i]` (R467). -/
def hstDmaEvtEn (i : Nat) : Nat := 0x130818 + 0x80 * i
/-- `HST_DMA_BASE[i]` (R467). -/
def hstDmaBase (i : Nat) : Nat := 0x130820 + 0x80 * i
/-- `HST_DMA_ERRADDR[i]` (R467). -/
def hstDmaErraddr (i : Nat) : Nat := 0x130828 + 0x80 * i
/-- `CAN_CTRL` (R482). -/
def canCtrl : Nat := 0x140000
/-- `CAN_STAT` (R482). -/
def canStat : Nat := 0x140004
/-- `CAN_NBT` (R477). -/
def canNbt : Nat := 0x140008
/-- `CAN_DBT` (R477). -/
def canDbt : Nat := 0x14000C
/-- `CAN_TDC` (R477). -/
def canTdc : Nat := 0x140010
/-- `CAN_EVT` (R482). -/
def canEvt : Nat := 0x140014
/-- `CAN_EVT_EN` (R482). -/
def canEvtEn : Nat := 0x140018
/-- `CAN_CNT[i]` (R482). -/
def canCnt (i : Nat) : Nat := 0x140040 + 0x8 * i
/-- `CAN_OBJ_ID[i]` (R478). -/
def canObjId (i : Nat) : Nat := 0x144000 + 0x80 * i
/-- `CAN_OBJ_FMT[i]` (R478). -/
def canObjFmt (i : Nat) : Nat := 0x144004 + 0x80 * i
/-- `CAN_OBJ_MASK[i]` (R478). -/
def canObjMask (i : Nat) : Nat := 0x144008 + 0x80 * i
/-- `CAN_OBJ_STAT[i]` (R478). -/
def canObjStat (i : Nat) : Nat := 0x14400C + 0x80 * i
/-- `CAN_OBJ_TIME[i]` (R478). -/
def canObjTime (i : Nat) : Nat := 0x144010 + 0x80 * i
/-- `CAN_OBJ_RSV6[i][j]` (R478). -/
def canObjRsv6 (i j : Nat) : Nat := 0x144018 + 0x80 * i + 0x4 * j
/-- `CAN_OBJ_DATA[i][j]` (R478). -/
def canObjData (i j : Nat) : Nat := 0x144020 + 0x80 * i + 0x4 * j
/-- `CAN_OBJ_RSV24[i][j]` (R478). -/
def canObjRsv24 (i j : Nat) : Nat := 0x144060 + 0x80 * i + 0x4 * j
/-- `NVC_CKPT_CTRL` (R514). -/
def nvcCkptCtrl : Nat := 0x150000
/-- `NVC_CKPT_TOTAL` (R514). -/
def nvcCkptTotal : Nat := 0x150004
/-- `NVC_ACC_ADDR` (R514). -/
def nvcAccAddr : Nat := 0x150008
/-- `NVC_ACC_CMD` (R514). -/
def nvcAccCmd : Nat := 0x15000C
/-- `NVC_EVT` (R514). -/
def nvcEvt : Nat := 0x150010
/-- `NVC_EVT_EN` (R514). -/
def nvcEvtEn : Nat := 0x150014
/-- `NVC_CKPT_PROG` (R14). -/
def nvcCkptProg : Nat := 0x150018
/-- `NVC_LAST_TIME` (R514). -/
def nvcLastTime : Nat := 0x150020
/-- `NVC_LAST_STAT` (R514). -/
def nvcLastStat : Nat := 0x150028
/-- `NVC_ACC_DATA` (R514). -/
def nvcAccData : Nat := 0x150030
/-- `LCS_STAT` (R515). -/
def lcsStat : Nat := 0x160000
/-- `LCS_CMD` (R515). -/
def lcsCmd : Nat := 0x160004
/-- `LCS_TOKEN_ADDR` (R515). -/
def lcsTokenAddr : Nat := 0x160008
/-- `LCS_TAMPER` (R515). -/
def lcsTamper : Nat := 0x16000C
/-- `LCS_EVT` (R515). -/
def lcsEvt : Nat := 0x160010
/-- `LCS_EVT_EN` (R515). -/
def lcsEvtEn : Nat := 0x160014
/-- `LCS_TAMPER_CFG[i]` (R515). -/
def lcsTamperCfg (i : Nat) : Nat := 0x160018 + 0x4 * i
/-- `LCS_UID` (R515). -/
def lcsUid : Nat := 0x160020
/-- `LCS_NONCE` (R515). -/
def lcsNonce : Nat := 0x160028
/-- `SEQ_CTRL` (R475). -/
def seqCtrl : Nat := 0x170000
/-- `SEQ_IRQ_EN` (R475). -/
def seqIrqEn : Nat := 0x170004
/-- `SEQ_WDOG` (R475). -/
def seqWdog : Nat := 0x170008
/-- `SEQ_WDOG_KICK` (R475). -/
def seqWdogKick : Nat := 0x17000C
/-- `SEQ_EVT` (R475). -/
def seqEvt : Nat := 0x170010
/-- `SEQ_EVT_EN` (R475). -/
def seqEvtEn : Nat := 0x170014
/-- `SEQ_CANM[i]` (R484). -/
def seqCanm (i : Nat) : Nat := 0x170018 + 0x4 * i
/-- `SEQ_MBOX_CMD[i]` (R475). -/
def seqMboxCmd (i : Nat) : Nat := 0x170040 + 0x4 * i
/-- `SEQ_MBOX_IN[i][j]` (R475). -/
def seqMboxIn (i j : Nat) : Nat := 0x170080 + 0x10 * i + 0x4 * j
/-- `SEQ_MBOX_OUT[i][j]` (R475). -/
def seqMboxOut (i j : Nat) : Nat := 0x1700C0 + 0x10 * i + 0x4 * j

end Reg

/-- Registers of block TOP (R545). -/
def rowsTop : List RegRow := [
  ⟨"TOP_ID", 0x0, 1, 8, 1, 8, false,
    [fld 24 24 .ro 0, fld 23 20 .ro 0, fld 19 16 .ro 0, fld 15 0 .ro 0x8032]⟩,
  ⟨"TOP_ERR", 0x4, 1, 8, 1, 8, false,
    [fld 1 1 .w1c 0, fld 0 0 .w1c 0]⟩,
  ⟨"TOP_ERR_ADDR", 0x8, 1, 8, 1, 8, false,
    [fld 31 26 .ro 0, fld 20 0 .ro 0]⟩,
  ⟨"TOP_LEDGER_STAT", 0x10, 1, 8, 1, 8, false,
    [fld 23 16 .ro 0, fld 11 8 .ro 0, fld 7 7 .ro 0, fld 6 0 .w1c 0]⟩,
  ⟨"TOP_LEDGER_BREAK", 0x14, 1, 8, 1, 8, false,
    [fld 31 24 .ro 0, fld 19 16 .ro 0, fld 15 0 .ro 0]⟩,
  ⟨"TOP_LEDGER_TIME", 0x18, 1, 8, 1, 8, true,
    [fld 63 0 .ro 0]⟩,
  ⟨"TOP_LEDGER_SNAP", 0x20, 4, 8, 1, 8, true,
    [fld 63 48 .ro 0, fld 47 0 .ro 0]⟩]

/-- Registers of block PWR (R545). -/
def rowsPwr : List RegRow := [
  ⟨"PWR_CTRL", 0x10000, 1, 8, 1, 8, false,
    [fld 31 16 .wo 0, fld 1 1 .wo 0, fld 0 0 .wo 0]⟩,
  ⟨"PWR_CFG", 0x10004, 1, 8, 1, 8, false,
    [fld 15 8 .rw 0xA, fld 0 0 .rw 0]⟩,
  ⟨"PWR_HOLD", 0x10008, 1, 8, 1, 8, false,
    [fld 3 0 .rw 0]⟩,
  ⟨"PWR_HOLD_MS", 0x1000C, 1, 8, 1, 8, false,
    [fld 15 0 .rw 0]⟩,
  ⟨"PWR_STAT", 0x10010, 1, 8, 1, 8, false,
    [fld 31 29 .ro 1, fld 28 28 .ro 0, fld 27 24 .ro 0]⟩,
  ⟨"PWR_START_CAUSE", 0x10014, 1, 8, 1, 8, false,
    [fld 31 30 .ro 1, fld 29 24 .ro 1, fld 22 16 .ro 0, fld 15 15 .ro 0, fld 14 14 .ro 0, fld 13 13 .ro 0, fld 12 12 .ro 0]⟩,
  ⟨"PWR_EVT", 0x10018, 1, 8, 1, 8, false,
    [fld 5 5 .w1c 0, fld 4 4 .w1c 0, fld 3 3 .w1c 0, fld 2 2 .w1c 0, fld 1 1 .w1c 0, fld 0 0 .w1c 0]⟩,
  ⟨"PWR_EVT_EN", 0x1001C, 1, 8, 1, 8, false,
    [fld 5 5 .rw 0, fld 4 4 .rw 0, fld 3 3 .rw 0, fld 2 2 .rw 0, fld 1 1 .rw 0, fld 0 0 .rw 0]⟩,
  ⟨"PWR_WAKE_CFG", 0x10020, 4, 4, 1, 4, false,
    [fld 7 4 .rw 0, fldR 2 0 .rw 0 [(0, 4)] 1]⟩,
  ⟨"PWR_WAKE_CAN", 0x10030, 1, 8, 1, 8, false,
    [fld 7 4 .rw 3, fld 0 0 .rw 0]⟩,
  ⟨"PWR_WAKE_SRC", 0x10034, 1, 8, 1, 8, false,
    [fld 6 0 .w1c 0]⟩,
  ⟨"PWR_ALARM", 0x10038, 1, 8, 1, 8, true,
    [fld 48 48 .rw 0, fld 47 0 .rw 0]⟩]

/-- Registers of block IMG (R545). -/
def rowsImg : List RegRow := [
  ⟨"IMG_CTRL", 0x20000, 1, 8, 1, 8, false,
    [fld 1 1 .wo 0, fld 0 0 .wo 0]⟩,
  ⟨"IMG_LOCK", 0x20004, 1, 8, 1, 8, false,
    [fld 0 0 .w1s 0]⟩,
  ⟨"IMG_STAT", 0x20008, 1, 8, 1, 8, false,
    [fld 31 31 .ro 0, fld 30 30 .ro 0, fld 29 29 .ro 0, fld 28 28 .ro 0, fld 27 27 .ro 0, fld 26 26 .ro 0, fld 25 25 .ro 0, fld 24 24 .ro 0, fld 23 20 .ro 0xF, fld 19 16 .ro 0xF, fld 15 8 .ro 0, fld 7 0 .ro 0]⟩,
  ⟨"IMG_HOST_ADDR", 0x2000C, 1, 8, 1, 8, false,
    [fldR 20 0 .rw 0 [] 16]⟩,
  ⟨"IMG_FCMD", 0x20010, 1, 8, 1, 8, false,
    [fld 31 31 .wo 0, fld 30 30 .ro 0, fld 29 29 .w1c 0, fld 28 28 .w1c 0, fld 19 19 .rw 0, fld 18 18 .rw 0, fld 17 17 .rw 0, fldR 16 8 .rw 0 [(0, 0x100)] 1, fld 7 0 .rw 0]⟩,
  ⟨"IMG_FADDR", 0x20014, 1, 8, 1, 8, false,
    [fld 31 0 .rw 0]⟩,
  ⟨"IMG_FBUF", 0x20018, 1, 8, 1, 8, false,
    [fldR 18 0 .rw 0 [] 8]⟩,
  ⟨"IMG_TOTAL", 0x2001C, 1, 8, 1, 8, false,
    [fld 31 0 .ro 0]⟩,
  ⟨"IMG_ID", 0x20020, 1, 8, 1, 8, true,
    [fld 63 0 .ro 0]⟩,
  ⟨"IMG_REPORT_ID", 0x20028, 1, 8, 1, 8, true,
    [fld 63 0 .ro 0]⟩,
  ⟨"IMG_PROG", 0x20030, 1, 8, 1, 8, true,
    [fld 46 46 .ro 0, fld 45 32 .ro 0, fld 31 0 .ro 0]⟩]

/-- Registers of block MIL (R545). -/
def rowsMil0 : List RegRow := [
  ⟨"MIL_CTRL", 0x30000, 1, 8, 1, 8, false,
    [fldR 10 9 .rw 0 [(0, 2)] 1, fld 8 8 .rw 1, fldR 6 4 .rw 0 [(0, 4)] 1, fldR 2 0 .rw 0 [(0, 4)] 1]⟩,
  ⟨"MIL_SERVO", 0x30004, 1, 8, 1, 8, false,
    [fld 27 24 .rw 3, fld 23 20 .rw 1, fldR 19 16 .rw 3 [(1, 0xF)] 1, fldR 15 8 .rw 0xA [(1, 0xC8)] 1, fldR 7 0 .rw 1 [(1, 0xFF)] 1]⟩,
  ⟨"MIL_UNC_CFG", 0x30008, 1, 8, 1, 8, false,
    [fld 31 16 .rw 0x7D0, fld 15 8 .rw 0xFF, fld 7 0 .rw 0x50]⟩,
  ⟨"MIL_HOLD", 0x3000C, 1, 8, 1, 8, false,
    [fldR 7 0 .rw 0x7D [(0x20, 0xFF)] 1]⟩,
  ⟨"MIL_DLY_CTRL", 0x30010, 1, 8, 1, 8, false,
    [fldR 3 0 .rw 3 [(0, 9)] 1]⟩,
  ⟨"MIL_STAT", 0x30014, 1, 8, 1, 8, false,
    [fld 31 31 .ro 0, fld 30 30 .ro 0, fld 29 27 .ro 0, fld 26 25 .ro 0, fld 24 24 .ro 0, fld 23 16 .ro 0xFF]⟩,
  ⟨"MIL_EVT", 0x30018, 1, 8, 1, 8, false,
    [fld 10 10 .w1c 0, fld 9 9 .w1c 0, fld 8 8 .w1c 0, fld 7 7 .w1c 0, fld 6 6 .w1c 0, fld 5 5 .w1c 0, fld 4 4 .w1c 0, fld 3 3 .w1c 0, fld 2 2 .w1c 0, fld 1 1 .w1c 0, fld 0 0 .w1c 0]⟩,
  ⟨"MIL_EVT_EN", 0x3001C, 1, 8, 1, 8, false,
    [fld 10 10 .rw 0, fld 9 9 .rw 0, fld 8 8 .rw 0, fld 7 7 .rw 0, fld 6 6 .rw 0, fld 5 5 .rw 0, fld 4 4 .rw 0, fld 3 3 .rw 0, fld 2 2 .rw 0, fld 1 1 .rw 0, fld 0 0 .rw 0]⟩,
  ⟨"MIL_RATE", 0x30020, 1, 8, 1, 8, false,
    [fld 31 0 .rw 0]⟩,
  ⟨"MIL_TIME_AUX", 0x30024, 1, 8, 1, 8, false,
    [fld 15 8 .ro 0xFF, fld 7 0 .ro 0]⟩,
  ⟨"MIL_AON_PERIOD", 0x30028, 1, 8, 1, 8, false,
    [fld 31 0 .ro 0x77359400]⟩,
  ⟨"MIL_PPS_ERR", 0x30030, 2, 4, 1, 4, false,
    [fld 31 0 .ro 0]⟩]

/-- Registers of block MIL (R545). -/
def rowsMil1 : List RegRow := [
  ⟨"MIL_TIME", 0x30040, 1, 8, 1, 8, true,
    [fld 63 0 .ro 0]⟩,
  ⟨"MIL_OFFSET", 0x30048, 1, 8, 1, 8, true,
    [fld 47 0 .wo 0]⟩,
  ⟨"MIL_OFFSET_REM", 0x30050, 1, 8, 1, 8, true,
    [fld 47 0 .ro 0]⟩,
  ⟨"MIL_SET", 0x30058, 1, 8, 1, 8, true,
    [fld 63 0 .wo 0]⟩,
  ⟨"MIL_TOD_NEXT", 0x30060, 1, 8, 1, 8, true,
    [fld 63 0 .rw 0]⟩,
  ⟨"MIL_HOLD_TICKS", 0x30068, 1, 8, 1, 8, true,
    [fld 47 0 .ro 0]⟩,
  ⟨"MIL_AON_CNT", 0x30070, 1, 8, 1, 8, true,
    [fld 47 0 .ro 0]⟩,
  ⟨"MIL_PPS_OUT", 0x30080, 2, 4, 1, 4, false,
    [fld 22 22 .rw 0, fld 21 21 .rw 0, fld 20 20 .rw 0, fldR 19 0 .rw 0x186A0 [(1, 0xF423F)] 1]⟩,
  ⟨"MIL_PPS_OFS", 0x30088, 2, 4, 1, 4, false,
    [fldR 31 0 .rw 0 [(0, 0x1DCD64FF), (0xE2329B00, 0xFFFFFFFF)] 1]⟩,
  ⟨"MIL_PORT_ASYM", 0x30100, 34, 4, 1, 4, false,
    [fld 15 0 .rw 0]⟩,
  ⟨"MIL_PORT_DLY", 0x30200, 34, 8, 1, 8, true,
    [fld 63 63 .ro 0, fld 55 32 .ro 0, fld 23 0 .ro 0]⟩,
  ⟨"MIL_TRIG_CTRL", 0x30400, 8, 64, 1, 64, false,
    [fld 2 2 .rw 0, fld 1 1 .rw 0, fld 0 0 .rw 0]⟩]

/-- Registers of block MIL (R545). -/
def rowsMil2 : List RegRow := [
  ⟨"MIL_TRIG_START", 0x30408, 8, 64, 1, 64, true,
    [fld 63 0 .rw 0]⟩,
  ⟨"MIL_TRIG_PERIOD", 0x30410, 8, 64, 1, 64, false,
    [fld 31 0 .rw 0]⟩,
  ⟨"MIL_TRIG_PHASE", 0x30414, 8, 64, 1, 64, false,
    [fld 31 0 .rw 0]⟩,
  ⟨"MIL_TRIG_WIDTH", 0x30418, 8, 64, 1, 64, false,
    [fld 31 0 .rw 0]⟩,
  ⟨"MIL_TRIG_LAST", 0x30420, 8, 64, 1, 64, true,
    [fld 63 0 .ro 0]⟩,
  ⟨"MIL_TRIG_CNT", 0x30428, 8, 64, 1, 64, true,
    [fld 63 48 .ro 0, fld 47 0 .ro 0]⟩]

/-- Registers of block MIL (R545). -/
def rowsMil : List RegRow := rowsMil0 ++ rowsMil1 ++ rowsMil2

/-- Registers of block TAP (R545). -/
def rowsTap : List RegRow := [
  ⟨"TAP_CTRL", 0x40000, 32, 256, 1, 256, false,
    [fld 31 31 .wo 0, fldR 23 16 .rw 0 [(0, 0x40)] 1, fld 8 8 .rwl 0, fld 0 0 .rwl 0]⟩,
  ⟨"TAP_STAT", 0x40004, 32, 256, 1, 256, false,
    [fld 31 29 .ro 0, fld 28 27 .ro 0, fld 26 25 .ro 0, fld 24 24 .ro 0, fld 23 16 .ro 0, fld 15 0 .ro 0]⟩,
  ⟨"TAP_EVT", 0x40008, 32, 256, 1, 256, false,
    [fld 7 7 .w1c 0, fld 6 6 .w1c 0, fld 5 5 .w1c 0, fld 4 4 .w1c 0, fld 3 3 .w1c 0, fld 2 2 .w1c 0, fld 1 1 .w1c 0, fld 0 0 .w1c 0]⟩,
  ⟨"TAP_EVT_EN", 0x4000C, 32, 256, 1, 256, false,
    [fld 7 7 .rw 0, fld 6 6 .rw 0, fld 5 5 .rw 0, fld 4 4 .rw 0, fld 3 3 .rw 0, fld 2 2 .rw 0, fld 1 1 .rw 0, fld 0 0 .rw 0]⟩,
  ⟨"TAP_LAST_ERR", 0x40010, 32, 256, 1, 256, false,
    [fld 31 24 .ro 0, fld 23 16 .ro 0, fld 15 0 .ro 0]⟩,
  ⟨"TAP_CRED", 0x40018, 32, 256, 1, 256, true,
    [fld 63 48 .ro 0, fld 42 32 .ro 0, fld 6 0 .ro 0]⟩,
  ⟨"TAP_CNT", 0x40080, 32, 256, 16, 8, true,
    [fld 47 0 .ro 0]⟩,
  ⟨"TAP_FORCE_CRED", 0x43000, 1, 8, 1, 8, false,
    [fld 31 16 .wo 0, fld 4 0 .wo 0]⟩]

/-- Registers of block CBL (R545). -/
def rowsCbl : List RegRow := [
  ⟨"CBL_STAT", 0x50000, 1, 8, 1, 8, false,
    [fld 26 16 .ro 0, fld 15 0 .rc 0]⟩,
  ⟨"CBL_SEL_DEF", 0x50004, 1, 8, 1, 8, false,
    [fld 7 7 .rwl 0, fld 5 0 .rwl 0]⟩,
  ⟨"CBL_PROF_EN", 0x50008, 1, 8, 1, 8, true,
    [fld 63 0 .rw 0]⟩,
  ⟨"CBL_CNT", 0x50100, 66, 8, 1, 8, true,
    [fld 47 0 .ro 0]⟩,
  ⟨"CBL_PROF", 0x50400, 64, 32, 8, 4, false,
    [fld 31 0 .rwl 0]⟩,
  ⟨"CBL_PROG_LEN", 0x50C00, 64, 4, 1, 4, false,
    [fldR 5 0 .rwl 0 [(0, 0x30)] 1]⟩,
  ⟨"CBL_SEL", 0x51000, 512, 32, 8, 4, false,
    [fld 31 0 .rwl 0]⟩,
  ⟨"CBL_PROG", 0x55000, 64, 256, 48, 4, false,
    [fld 31 0 .rwl 0]⟩]

/-- Registers of block VRD (R545). -/
def rowsVrd : List RegRow := [
  ⟨"VRD_TAG_STAT", 0x60000, 1, 8, 1, 8, true,
    [fld 58 48 .rc 0, fld 42 32 .ro 0, fld 26 16 .ro 0, fld 10 0 .ro 0x400]⟩,
  ⟨"VRD_TAG_RECLAIM", 0x60008, 1, 8, 1, 8, false,
    [fld 15 0 .wo 0]⟩,
  ⟨"VRD_FRESH_IDX", 0x60010, 1, 8, 1, 8, false,
    [fld 15 0 .rw 0]⟩,
  ⟨"VRD_FRESH_CMD", 0x60014, 1, 8, 1, 8, false,
    [fld 31 31 .ro 0, fld 1 1 .wo 0, fld 0 0 .wo 0]⟩,
  ⟨"VRD_FRESH_CTR", 0x60018, 1, 8, 1, 8, true,
    [fld 63 0 .rw 0]⟩,
  ⟨"VRD_FRESH_MAP", 0x60020, 1, 8, 1, 8, true,
    [fld 63 0 .rw 0]⟩,
  ⟨"VRD_EVT_CNT", 0x60040, 8, 8, 1, 8, true,
    [fld 47 0 .ro 0]⟩,
  ⟨"VRD_CMP_CNT", 0x60080, 8, 8, 1, 8, true,
    [fld 47 0 .ro 0]⟩]

/-- Registers of block TOL (R545). -/
def rowsTol : List RegRow := [
  ⟨"TOL_IDX", 0x70000, 1, 8, 1, 8, false,
    [fld 15 0 .rw 0]⟩,
  ⟨"TOL_CMD", 0x70004, 1, 8, 1, 8, false,
    [fld 31 31 .ro 0, fld 2 2 .wo 0, fld 1 1 .wo 0, fld 0 0 .wo 0]⟩,
  ⟨"TOL_DATA", 0x70010, 10, 4, 1, 4, false,
    [fld 31 0 .rw 0]⟩]

/-- Registers of block TCA (R545). -/
def rowsTca0 : List RegRow := [
  ⟨"TCA_CTRL", 0x80000, 1, 8, 1, 8, false,
    [fld 31 24 .rw 0xA, fld 0 0 .rw 0]⟩,
  ⟨"TCA_UPD_RATE", 0x80004, 1, 8, 1, 8, false,
    [fldR 9 0 .rw 0x32 [(1, 0x320)] 1]⟩,
  ⟨"TCA_THERM", 0x80008, 1, 8, 1, 8, false,
    [fld 31 30 .ro 0, fld 29 28 .rc 0, fld 23 16 .ro 0]⟩,
  ⟨"TCA_EVT", 0x8000C, 1, 8, 1, 8, false,
    [fld 5 5 .w1c 0, fld 4 4 .w1c 0, fld 3 3 .w1c 0, fld 2 2 .w1c 0, fld 1 1 .w1c 0, fld 0 0 .w1c 0]⟩,
  ⟨"TCA_EVT_EN", 0x80010, 1, 8, 1, 8, false,
    [fld 5 5 .rw 0, fld 4 4 .rw 0, fld 3 3 .rw 0, fld 2 2 .rw 0, fld 1 1 .rw 0, fld 0 0 .rw 0]⟩,
  ⟨"TCA_SIG_BASE", 0x80014, 1, 8, 1, 8, false,
    [fld 18 4 .rw 0]⟩,
  ⟨"TCA_SIG_SIZE", 0x80018, 1, 8, 1, 8, false,
    [fldR 3 0 .rw 0 [(0, 0), (4, 0xC)] 1]⟩,
  ⟨"TCA_SIG_HEAD", 0x8001C, 1, 8, 1, 8, false,
    [fld 15 0 .ro 0]⟩,
  ⟨"TCA_SIG_TAIL", 0x80020, 1, 8, 1, 8, false,
    [fld 15 0 .rw 0]⟩,
  ⟨"TCA_SIG_STAT", 0x80024, 1, 8, 1, 8, false,
    [fld 31 31 .ro 0, fld 30 30 .ro 0, fld 5 0 .ro 0]⟩,
  ⟨"TCA_SIG_REQ", 0x80028, 1, 8, 1, 8, false,
    [fld 31 31 .wo 0, fld 5 0 .wo 0]⟩,
  ⟨"TCA_REBUILD_CTRL", 0x8002C, 1, 8, 1, 8, false,
    [fld 31 31 .wo 0, fld 30 30 .wo 0, fld 5 0 .rw 0]⟩]

/-- Registers of block TCA (R545). -/
def rowsTca1 : List RegRow := [
  ⟨"TCA_REBUILD_TOTAL", 0x80030, 1, 8, 1, 8, false,
    [fld 31 0 .rw 0]⟩,
  ⟨"TCA_SIG_LAP", 0x80038, 1, 8, 1, 8, true,
    [fld 63 32 .ro 0, fld 31 0 .ro 0]⟩,
  ⟨"TCA_REBUILD_PROG", 0x80040, 1, 8, 1, 8, true,
    [fld 46 46 .ro 0, fld 45 32 .ro 0, fld 31 0 .ro 0]⟩,
  ⟨"TCA_CNT", 0x80080, 12, 8, 1, 8, true,
    [fld 47 0 .ro 0]⟩,
  ⟨"TCA_BLK", 0x80100, 32, 4, 1, 4, false,
    [fld 8 8 .ro 0, fld 7 7 .ro 0, fld 5 0 .ro 0]⟩,
  ⟨"TCA_TBL_STAT", 0x80200, 64, 8, 1, 8, true,
    [fld 63 48 .ro 0, fld 47 47 .ro 0, fld 44 26 .ro 0, fld 18 0 .ro 0]⟩]

/-- Registers of block TCA (R545). -/
def rowsTca : List RegRow := rowsTca0 ++ rowsTca1

/-- Registers of block HSH (R545). -/
def rowsHsh : List RegRow := [
  ⟨"HSH_PFX_SEL", 0x90000, 1, 8, 1, 8, false,
    [fld 9 4 .rw 0, fld 3 0 .rw 0]⟩,
  ⟨"HSH_PFX_SHARE", 0x90004, 1, 8, 1, 8, false,
    [fldR 7 0 .rwl 1 [(1, 0xFF)] 1]⟩,
  ⟨"HSH_PFX_CNT", 0x90008, 1, 8, 1, 8, false,
    [fld 31 0 .ro 0]⟩,
  ⟨"HSH_STASH_THR", 0x9000C, 1, 8, 1, 8, false,
    [fldR 6 0 .rw 0x30 [(1, 0x40)] 1]⟩,
  ⟨"HSH_EVT", 0x90010, 1, 8, 1, 8, false,
    [fld 4 4 .w1c 0, fld 3 3 .w1c 0, fld 2 2 .w1c 0, fld 1 1 .w1c 0, fld 0 0 .w1c 0]⟩,
  ⟨"HSH_EVT_EN", 0x90014, 1, 8, 1, 8, false,
    [fld 4 4 .rw 0, fld 3 3 .rw 0, fld 2 2 .rw 0, fld 1 1 .rw 0, fld 0 0 .rw 0]⟩,
  ⟨"HSH_PFX_SUB", 0x90018, 1, 8, 1, 8, true,
    [fld 63 32 .ro 0, fld 31 0 .ro 0]⟩,
  ⟨"HSH_CNT", 0x90080, 16, 8, 1, 8, true,
    [fld 47 0 .ro 0]⟩,
  ⟨"HSH_SEED", 0x90100, 64, 4, 1, 4, false,
    [fld 31 0 .rwl 0x3C6EF372]⟩,
  ⟨"HSH_TBL_STAT", 0x90200, 64, 8, 1, 8, true,
    [fld 63 48 .ro 0, fld 47 47 .ro 0, fld 46 46 .ro 0, fld 44 38 .ro 0, fld 31 0 .ro 0]⟩]

/-- Registers of block WAY (R545). -/
def rowsWay0 : List RegRow := [
  ⟨"WAY_CTRL", 0xA0000, 1, 8, 1, 8, false,
    [fldR 25 16 .rw 0x32 [(1, 0x3E8)] 1]⟩,
  ⟨"WAY_PRESS", 0xA0004, 1, 8, 1, 8, false,
    [fld 31 16 .rw 0x40, fld 15 0 .rw 0x20]⟩,
  ⟨"WAY_SETTLE", 0xA0008, 1, 8, 1, 8, false,
    [fld 15 0 .ro 0]⟩,
  ⟨"WAY_COMBINE", 0xA000C, 1, 8, 1, 8, false,
    [fld 29 15 .rc 0, fld 14 0 .ro 0]⟩,
  ⟨"WAY_STREAM_IDX", 0xA0010, 1, 8, 1, 8, false,
    [fld 15 0 .rw 0]⟩,
  ⟨"WAY_PAGE_IDX", 0xA0014, 1, 8, 1, 8, false,
    [fld 15 0 .rw 0]⟩,
  ⟨"WAY_FLUSH", 0xA0018, 1, 8, 1, 8, false,
    [fld 31 31 .wo 0, fld 15 0 .rw 0]⟩,
  ⟨"WAY_FLUSH_TOTAL", 0xA001C, 1, 8, 1, 8, false,
    [fld 31 0 .ro 0]⟩,
  ⟨"WAY_ERR", 0xA0020, 1, 8, 1, 8, false,
    [fld 31 16 .ro 0, fld 15 0 .ro 0]⟩,
  ⟨"WAY_EVT", 0xA0024, 1, 8, 1, 8, false,
    [fld 5 5 .w1c 0, fld 4 4 .w1c 0, fld 3 3 .w1c 0, fld 2 2 .w1c 0, fld 1 1 .w1c 0, fld 0 0 .w1c 0]⟩,
  ⟨"WAY_EVT_EN", 0xA0028, 1, 8, 1, 8, false,
    [fld 5 5 .rw 0, fld 4 4 .rw 0, fld 3 3 .rw 0, fld 2 2 .rw 0, fld 1 1 .rw 0, fld 0 0 .rw 0]⟩,
  ⟨"WAY_PAGE_LAST", 0xA002C, 1, 8, 1, 8, false,
    [fld 31 0 .ro 0]⟩]

/-- Registers of block WAY (R545). -/
def rowsWay1 : List RegRow := [
  ⟨"WAY_MAP", 0xA0030, 1, 8, 1, 8, true,
    [fld 48 32 .ro 0, fld 31 0 .ro 0]⟩,
  ⟨"WAY_POOL", 0xA0038, 1, 8, 1, 8, true,
    [fld 48 32 .ro 0, fld 16 0 .ro 0]⟩,
  ⟨"WAY_RESV", 0xA0040, 1, 8, 1, 8, true,
    [fld 48 32 .ro 0, fld 16 0 .ro 0]⟩,
  ⟨"WAY_STREAM_CFG", 0xA0048, 1, 8, 1, 8, true,
    [fld 63 32 .rw 0, fld 31 31 .rw 0, fld 30 16 .rw 0, fld 15 0 .rw 0]⟩,
  ⟨"WAY_STREAM_STAT", 0xA0050, 1, 8, 1, 8, true,
    [fld 63 48 .ro 0, fld 47 32 .ro 0, fld 31 31 .ro 0, fld 16 0 .ro 0]⟩,
  ⟨"WAY_PAGE_MS", 0xA0058, 1, 8, 1, 8, true,
    [fld 63 0 .ro 0]⟩,
  ⟨"WAY_PAGE_INFO", 0xA0060, 1, 8, 1, 8, true,
    [fld 63 48 .ro 0, fld 47 32 .ro 0, fld 31 16 .ro 0, fld 15 15 .ro 0, fld 9 0 .ro 0]⟩,
  ⟨"WAY_FLUSH_PROG", 0xA0068, 1, 8, 1, 8, true,
    [fld 46 46 .ro 0, fld 45 32 .ro 0, fld 31 0 .ro 0]⟩,
  ⟨"WAY_CNT", 0xA0080, 16, 8, 1, 8, true,
    [fld 47 0 .ro 0]⟩]

/-- Registers of block WAY (R545). -/
def rowsWay : List RegRow := rowsWay0 ++ rowsWay1

/-- Registers of block LRN (R545). -/
def rowsLrn : List RegRow := [
  ⟨"LRN_CTRL", 0xB0000, 1, 8, 1, 8, false,
    [fld 0 0 .rw 0]⟩,
  ⟨"LRN_RING_BASE", 0xB0004, 1, 8, 1, 8, false,
    [fld 18 6 .rw 0]⟩,
  ⟨"LRN_RING_SIZE", 0xB0008, 1, 8, 1, 8, false,
    [fldR 3 0 .rw 0 [(0, 0), (4, 0xC)] 1]⟩,
  ⟨"LRN_HEAD", 0xB000C, 1, 8, 1, 8, false,
    [fld 15 0 .ro 0]⟩,
  ⟨"LRN_TAIL", 0xB0010, 1, 8, 1, 8, false,
    [fld 15 0 .rw 0]⟩,
  ⟨"LRN_DEDUP", 0xB0014, 1, 8, 1, 8, false,
    [fld 19 0 .rw 0x3E8]⟩,
  ⟨"LRN_RATE", 0xB0018, 1, 8, 1, 8, false,
    [fldR 31 16 .rw 0x40 [(1, 0xFFFF)] 1, fld 15 0 .rw 0x3E8]⟩,
  ⟨"LRN_STAT", 0xB001C, 1, 8, 1, 8, false,
    [fld 22 16 .ro 0, fld 11 0 .ro 0]⟩,
  ⟨"LRN_EVT", 0xB0020, 1, 8, 1, 8, false,
    [fld 2 2 .w1c 0, fld 1 1 .w1c 0, fld 0 0 .w1c 0]⟩,
  ⟨"LRN_EVT_EN", 0xB0024, 1, 8, 1, 8, false,
    [fld 2 2 .rw 0, fld 1 1 .rw 0, fld 0 0 .rw 0]⟩,
  ⟨"LRN_CNT", 0xB0040, 5, 8, 1, 8, true,
    [fld 47 0 .ro 0]⟩]

/-- Registers of block AGE (R545). -/
def rowsAge : List RegRow := [
  ⟨"AGE_CTRL", 0xC0000, 1, 8, 1, 8, false,
    [fld 31 24 .rw 0, fldR 23 13 .rw 0x3C [(1, 0x5A0)] 1, fldR 12 2 .rw 0x3C [(1, 0x5A0)] 1, fld 0 0 .rw 0]⟩,
  ⟨"AGE_LAP_TOTAL", 0xC0004, 1, 8, 1, 8, false,
    [fld 31 0 .ro 0]⟩,
  ⟨"AGE_FLUSH_TOTAL", 0xC0008, 1, 8, 1, 8, false,
    [fld 31 0 .ro 0]⟩,
  ⟨"AGE_EVT", 0xC000C, 1, 8, 1, 8, false,
    [fld 2 2 .w1c 0, fld 1 1 .w1c 0, fld 0 0 .w1c 0]⟩,
  ⟨"AGE_EVT_EN", 0xC0010, 1, 8, 1, 8, false,
    [fld 2 2 .rw 0, fld 1 1 .rw 0, fld 0 0 .rw 0]⟩,
  ⟨"AGE_LAP", 0xC0018, 1, 8, 1, 8, true,
    [fld 63 32 .ro 0, fld 31 0 .ro 0]⟩,
  ⟨"AGE_LAP_PROG", 0xC0020, 1, 8, 1, 8, true,
    [fld 46 46 .ro 0, fld 45 32 .ro 0, fld 31 0 .ro 0]⟩,
  ⟨"AGE_FLUSH_PROG", 0xC0028, 1, 8, 1, 8, true,
    [fld 46 46 .ro 0, fld 45 32 .ro 0, fld 31 0 .ro 0]⟩,
  ⟨"AGE_CNT", 0xC0040, 4, 8, 1, 8, true,
    [fld 47 0 .ro 0]⟩,
  ⟨"AGE_LIMIT", 0xC0100, 64, 4, 1, 4, false,
    [fldR 31 0 .rw 0 [(1, 0xFFFFFFFF)] 1]⟩,
  ⟨"AGE_STAMP", 0xC0200, 64, 4, 1, 4, false,
    [fld 31 0 .ro 1]⟩]

/-- Registers of block RGL (R545). -/
def rowsRgl0 : List RegRow := [
  ⟨"RGL_BUDGET", 0xD0000, 1, 8, 1, 8, false,
    [fldR 26 16 .rwl 0 [(1, 0x5A0)] 1, fldR 10 0 .rwl 0 [(1, 0x640)] 1]⟩,
  ⟨"RGL_HOST_URG", 0xD0004, 2, 4, 1, 4, false,
    [fld 1 0 .rw 0]⟩,
  ⟨"RGL_EVT", 0xD000C, 1, 8, 1, 8, false,
    [fld 4 4 .w1c 0, fld 3 3 .w1c 0, fld 2 2 .w1c 0, fld 1 1 .w1c 0, fld 0 0 .w1c 0]⟩,
  ⟨"RGL_EVT_EN", 0xD0010, 1, 8, 1, 8, false,
    [fld 4 4 .rw 0, fld 3 3 .rw 0, fld 2 2 .rw 0, fld 1 1 .rw 0, fld 0 0 .rw 0]⟩,
  ⟨"RGL_MISS_HEAD", 0xD0014, 1, 8, 1, 8, false,
    [fld 15 0 .ro 0]⟩,
  ⟨"RGL_MISS_TAIL", 0xD0018, 1, 8, 1, 8, false,
    [fld 15 0 .rw 0]⟩,
  ⟨"RGL_MISS_OVF", 0xD001C, 1, 8, 1, 8, false,
    [fld 31 0 .rc 0]⟩,
  ⟨"RGL_NOW", 0xD0020, 1, 8, 1, 8, true,
    [fld 63 56 .ro 0, fld 55 54 .ro 0, fld 53 53 .ro 0, fld 42 32 .ro 0, fld 10 0 .ro 0]⟩,
  ⟨"RGL_ADMIT", 0xD0028, 1, 8, 1, 8, true,
    [fld 50 48 .ro 0, fld 45 32 .ro 0, fld 13 0 .ro 0]⟩,
  ⟨"RGL_CLASS", 0xD0040, 8, 8, 1, 8, true,
    [fldR 63 48 .rw 0 [(0x10, 0xFFFF)] 1, fldR 42 32 .rw 0 [(0, 0x5A0)] 1, fldR 10 0 .rw 0 [(0, 0x640)] 1]⟩,
  ⟨"RGL_CEIL", 0xD0080, 8, 4, 1, 4, false,
    [fldR 26 16 .rw 0 [(0, 0x5A0)] 1, fldR 10 0 .rw 0 [(0, 0x640)] 1]⟩,
  ⟨"RGL_CLS_STAT", 0xD00C0, 8, 8, 1, 8, true,
    [fld 63 48 .rc 0, fld 47 32 .ro 0, fld 31 30 .ro 0, fld 29 29 .ro 0, fld 26 16 .ro 0, fld 10 0 .ro 0]⟩]

/-- Registers of block RGL (R545). -/
def rowsRgl1 : List RegRow := [
  ⟨"RGL_MAP", 0xD0100, 48, 4, 1, 4, false,
    [fld 2 0 .rwl 0]⟩,
  ⟨"RGL_MST_STAT", 0xD0200, 48, 4, 1, 4, false,
    [fld 31 30 .ro 0, fld 29 29 .ro 0, fld 28 26 .ro 0, fld 6 0 .ro 0]⟩,
  ⟨"RGL_MISS", 0xD0400, 32, 16, 2, 8, true,
    [fld 63 0 .ro 0]⟩,
  ⟨"RGL_CNT", 0xD0600, 8, 64, 8, 8, true,
    [fld 47 0 .ro 0]⟩]

/-- Registers of block RGL (R545). -/
def rowsRgl : List RegRow := rowsRgl0 ++ rowsRgl1

/-- Registers of block WLT (R545). -/
def rowsWlt : List RegRow := [
  ⟨"WLT_CTRL", 0xE0000, 2, 256, 1, 256, false,
    [fld 31 31 .wo 0, fld 0 0 .rwl 0]⟩,
  ⟨"WLT_STAT", 0xE0004, 2, 256, 1, 256, false,
    [fld 31 29 .ro 0, fld 28 25 .ro 0, fld 24 22 .ro 0, fld 21 19 .ro 0, fld 18 16 .ro 0, fld 15 12 .ro 0, fld 11 8 .ro 0]⟩,
  ⟨"WLT_CRED", 0xE0008, 2, 256, 1, 256, false,
    [fld 31 25 .ro 0, fld 24 18 .ro 0, fld 17 13 .ro 0, fld 12 9 .ro 0, fld 8 5 .ro 0]⟩,
  ⟨"WLT_EVT", 0xE000C, 2, 256, 1, 256, false,
    [fld 4 4 .w1c 0, fld 3 3 .w1c 0, fld 2 2 .w1c 0, fld 1 1 .w1c 0, fld 0 0 .w1c 0]⟩,
  ⟨"WLT_EVT_EN", 0xE0010, 2, 256, 1, 256, false,
    [fld 4 4 .rw 0, fld 3 3 .rw 0, fld 2 2 .rw 0, fld 1 1 .rw 0, fld 0 0 .rw 0]⟩,
  ⟨"WLT_CNT", 0xE0040, 2, 256, 12, 8, true,
    [fld 47 0 .ro 0]⟩,
  ⟨"WLT_SLOT", 0xE0200, 1, 8, 1, 8, false,
    [fld 31 0 .ro 0]⟩,
  ⟨"WLT_TBL", 0xE0300, 64, 4, 1, 4, false,
    [fldR 22 16 .rwl 0 [(0, 0x4F)] 1, fld 10 8 .rwl 0, fld 6 4 .rwl 0, fldR 1 0 .rwl 0 [(0, 2)] 1]⟩]

/-- Registers of block BRG (R545). -/
def rowsBrg0 : List RegRow := [
  ⟨"BRG_CTRL", 0xF0000, 1, 8, 1, 8, false,
    [fldR 31 16 .rw 0x64 [(1, 0xFFFF)] 1, fldR 9 0 .rw 0x64 [(1, 0x3E8)] 1]⟩,
  ⟨"BRG_SIDE", 0xF0004, 1, 8, 1, 8, false,
    [fld 31 31 .ro 0, fld 30 30 .ro 0, fld 29 28 .ro 0, fld 27 26 .ro 0, fld 25 25 .ro 0, fld 24 24 .ro 0, fld 23 16 .ro 0]⟩,
  ⟨"BRG_EVT", 0xF0008, 1, 8, 1, 8, false,
    [fld 15 9 .w1c 0, fld 3 3 .w1c 0, fld 2 2 .w1c 0, fld 1 1 .w1c 0, fld 0 0 .w1c 0]⟩,
  ⟨"BRG_EVT_EN", 0xF000C, 1, 8, 1, 8, false,
    [fld 15 9 .rw 0, fld 3 3 .rw 0, fld 2 2 .rw 0, fld 1 1 .rw 0, fld 0 0 .rw 0]⟩,
  ⟨"BRG_FAIL_HEAD", 0xF0010, 1, 8, 1, 8, false,
    [fld 15 0 .ro 0]⟩,
  ⟨"BRG_FAIL_TAIL", 0xF0014, 1, 8, 1, 8, false,
    [fld 15 0 .rw 0]⟩,
  ⟨"BRG_FAIL_OVF", 0xF0018, 1, 8, 1, 8, false,
    [fld 31 0 .rc 0]⟩,
  ⟨"BRG_BUF", 0xF0020, 2, 4, 1, 4, false,
    [fld 31 27 .ro 0, fld 26 23 .ro 0, fld 22 19 .ro 0, fld 18 14 .ro 0, fld 13 10 .ro 0, fld 9 6 .ro 0, fld 5 2 .ro 0]⟩,
  ⟨"BRG_POLL", 0xF0028, 1, 8, 1, 8, true,
    [fld 63 32 .ro 0, fld 31 0 .ro 0]⟩,
  ⟨"BRG_RRD_ADDR", 0xF0040, 4, 4, 1, 4, false,
    [fld 24 24 .rw 0, fld 23 21 .rw 0, fld 20 0 .rw 0]⟩,
  ⟨"BRG_RRD_STAT", 0xF0050, 4, 4, 1, 4, false,
    [fld 31 30 .ro 0, fld 19 16 .ro 0, fld 15 0 .ro 0]⟩,
  ⟨"BRG_RRD_DATA", 0xF0060, 4, 8, 1, 8, true,
    [fld 63 0 .ro 0]⟩]

/-- Registers of block BRG (R545). -/
def rowsBrg1 : List RegRow := [
  ⟨"BRG_CNT", 0xF0080, 8, 8, 1, 8, true,
    [fld 47 0 .ro 0]⟩,
  ⟨"BRG_SLV_STAT", 0xF00C8, 7, 8, 1, 8, true,
    [fld 63 32 .ro 0, fld 31 0 .ro 0]⟩,
  ⟨"BRG_FAIL", 0xF0100, 16, 16, 2, 8, true,
    [fld 63 0 .ro 0]⟩]

/-- Registers of block BRG (R545). -/
def rowsBrg : List RegRow := rowsBrg0 ++ rowsBrg1

/-- Registers of block INT (R545). -/
def rowsInt0 : List RegRow := [
  ⟨"INT_SCRUB_CTRL", 0x100000, 1, 8, 1, 8, false,
    [fld 31 31 .rw 1, fldR 25 16 .rw 0x10 [(1, 0x3E8)] 1, fldR 7 0 .rw 0x40 [(1, 0xFF)] 1]⟩,
  ⟨"INT_SCRUB_TOTAL", 0x100004, 1, 8, 1, 8, false,
    [fld 31 0 .ro 0]⟩,
  ⟨"INT_LOG_HEAD", 0x100008, 1, 8, 1, 8, false,
    [fld 15 0 .ro 0]⟩,
  ⟨"INT_LOG_TAIL", 0x10000C, 1, 8, 1, 8, false,
    [fld 15 0 .rw 0]⟩,
  ⟨"INT_LOG_OVF", 0x100010, 1, 8, 1, 8, false,
    [fld 31 0 .rc 0]⟩,
  ⟨"INT_TRACK_STAT", 0x100014, 1, 8, 1, 8, false,
    [fld 22 16 .ro 0, fld 15 0 .rc 0]⟩,
  ⟨"INT_REMAP_IDX", 0x100018, 1, 8, 1, 8, false,
    [fldR 13 8 .rw 0 [(0, 0x11)] 1, fld 7 0 .rw 0]⟩,
  ⟨"INT_REMAP_STAT", 0x10001C, 1, 8, 1, 8, false,
    [fld 31 28 .ro 0, fld 11 0 .ro 0]⟩,
  ⟨"INT_RETIRE_IDX", 0x100020, 1, 8, 1, 8, false,
    [fld 9 0 .rw 0]⟩,
  ⟨"INT_TCA_RETIRE", 0x100024, 1, 8, 1, 8, false,
    [fld 31 0 .w1s 0]⟩,
  ⟨"INT_RECORD_CLR", 0x100028, 1, 8, 1, 8, false,
    [fld 15 0 .wo 0]⟩,
  ⟨"INT_STAT", 0x10002C, 1, 8, 1, 8, false,
    [fld 0 0 .ro 0]⟩]

/-- Registers of block INT (R545). -/
def rowsInt1 : List RegRow := [
  ⟨"INT_FLIP_CTRL", 0x100030, 1, 8, 1, 8, false,
    [fld 31 31 .rw 0, fld 30 30 .rw 0, fldR 21 16 .rw 0 [(0, 0x11)] 1]⟩,
  ⟨"INT_MARCH_CTRL", 0x100034, 1, 8, 1, 8, false,
    [fld 31 31 .wo 0, fld 30 30 .rw 0, fldR 5 0 .rw 0 [(0, 0x11)] 1]⟩,
  ⟨"INT_MARCH_LEN", 0x100038, 1, 8, 1, 8, false,
    [fld 31 0 .rw 0]⟩,
  ⟨"INT_MARCH_TOTAL", 0x10003C, 1, 8, 1, 8, false,
    [fld 31 0 .ro 0]⟩,
  ⟨"INT_MARCH_STAT", 0x100040, 1, 8, 1, 8, false,
    [fld 31 30 .ro 0, fld 29 25 .ro 0]⟩,
  ⟨"INT_EVT", 0x100044, 1, 8, 1, 8, false,
    [fld 12 12 .w1c 0, fld 11 11 .w1c 0, fld 10 10 .w1c 0, fld 9 9 .w1c 0, fld 8 8 .w1c 0, fld 7 7 .w1c 0, fld 6 6 .w1c 0, fld 5 5 .w1c 0, fld 4 4 .w1c 0, fld 3 3 .w1c 0, fld 2 2 .w1c 0, fld 1 1 .w1c 0, fld 0 0 .w1c 0]⟩,
  ⟨"INT_EVT_EN", 0x100048, 1, 8, 1, 8, false,
    [fld 12 12 .rw 0, fld 11 11 .rw 0, fld 10 10 .rw 0, fld 9 9 .rw 0, fld 8 8 .rw 0, fld 7 7 .rw 0, fld 6 6 .rw 0, fld 5 5 .rw 0, fld 4 4 .rw 0, fld 3 3 .rw 0, fld 2 2 .rw 0, fld 1 1 .rw 0, fld 0 0 .rw 0]⟩,
  ⟨"INT_FLIP_MASK", 0x100050, 4, 4, 1, 4, false,
    [fld 31 0 .rw 0]⟩,
  ⟨"INT_SCRUB_LAP", 0x100060, 1, 8, 1, 8, true,
    [fld 63 32 .ro 0, fld 31 0 .ro 0]⟩,
  ⟨"INT_SRAM_LAP", 0x100068, 1, 8, 1, 8, true,
    [fld 63 32 .ro 0, fld 31 0 .ro 0]⟩,
  ⟨"INT_SCRUB_PROG", 0x100070, 1, 8, 1, 8, true,
    [fld 46 46 .ro 0, fld 45 32 .ro 0, fld 31 0 .ro 0]⟩,
  ⟨"INT_RETIRE_ENT", 0x100078, 1, 8, 1, 8, true,
    [fld 63 63 .rw 0, fld 62 62 .ro 0, fld 51 32 .rw 0, fld 19 0 .rw 0]⟩]

/-- Registers of block INT (R545). -/
def rowsInt2 : List RegRow := [
  ⟨"INT_FLIP_ADDR", 0x100080, 1, 8, 1, 8, true,
    [fld 35 0 .rw 0]⟩,
  ⟨"INT_MARCH_START", 0x100088, 1, 8, 1, 8, true,
    [fld 35 0 .rw 0]⟩,
  ⟨"INT_MARCH_FAIL", 0x100090, 1, 8, 1, 8, true,
    [fld 35 0 .ro 0]⟩,
  ⟨"INT_MARCH_PROG", 0x100098, 1, 8, 1, 8, true,
    [fld 46 46 .ro 0, fld 45 32 .ro 0, fld 31 0 .ro 0]⟩,
  ⟨"INT_LOG", 0x100400, 64, 16, 2, 8, true,
    [fld 63 0 .ro 0]⟩,
  ⟨"INT_CNT", 0x100800, 18, 32, 4, 8, true,
    [fld 47 0 .ro 0]⟩]

/-- Registers of block INT (R545). -/
def rowsInt : List RegRow := rowsInt0 ++ rowsInt1 ++ rowsInt2

/-- Registers of block SPM (R545). -/
def rowsSpm : List RegRow := [
  ⟨"SPM_FAULT", 0x110000, 1, 8, 1, 8, true,
    [fld 52 48 .ro 0, fld 47 45 .ro 0, fld 18 0 .ro 0]⟩,
  ⟨"SPM_EVT", 0x110008, 1, 8, 1, 8, false,
    [fld 4 4 .w1c 0, fld 3 3 .w1c 0, fld 2 2 .w1c 0, fld 1 1 .w1c 0, fld 0 0 .w1c 0]⟩,
  ⟨"SPM_EVT_EN", 0x11000C, 1, 8, 1, 8, false,
    [fld 4 4 .rw 0, fld 3 3 .rw 0, fld 2 2 .rw 0, fld 1 1 .rw 0, fld 0 0 .rw 0]⟩,
  ⟨"SPM_EN", 0x110040, 19, 4, 1, 4, false,
    [fld 15 0 .rw 0x7FFF]⟩,
  ⟨"SPM_CONFLICT", 0x110100, 19, 8, 1, 8, true,
    [fld 47 0 .ro 0]⟩]

/-- Registers of block DRC (R545). -/
def rowsDrc : List RegRow := [
  ⟨"DRC_STAT", 0x120000, 1, 8, 1, 8, false,
    [fld 31 31 .ro 0, fld 30 30 .ro 0, fld 29 29 .ro 0, fld 28 28 .ro 0, fld 23 16 .ro 0, fld 8 0 .ro 0]⟩,
  ⟨"DRC_CLR_TOTAL", 0x120004, 1, 8, 1, 8, false,
    [fld 31 0 .ro 0]⟩,
  ⟨"DRC_CLR_PROG", 0x120008, 1, 8, 1, 8, true,
    [fld 46 46 .ro 0, fld 45 32 .ro 0, fld 31 0 .ro 0]⟩,
  ⟨"DRC_CNT", 0x120040, 6, 8, 1, 8, true,
    [fld 47 0 .ro 0]⟩]

/-- Registers of block HST (R545). -/
def rowsHst0 : List RegRow := [
  ⟨"HST_INT_SUM", 0x130000, 1, 8, 1, 8, false,
    [fld 31 0 .ro 0]⟩,
  ⟨"HST_SPI_IRQ_EN", 0x130004, 1, 8, 1, 8, false,
    [fld 31 0 .rw 0]⟩,
  ⟨"HST_SPI_WMASK", 0x130008, 1, 8, 1, 8, false,
    [fld 24 0 .rwl 0x199A00B]⟩,
  ⟨"HST_SPI_EVT", 0x13000C, 1, 8, 1, 8, false,
    [fld 2 2 .w1c 0, fld 1 1 .w1c 0, fld 0 0 .w1c 0]⟩,
  ⟨"HST_SPI_EVT_EN", 0x130010, 1, 8, 1, 8, false,
    [fld 2 2 .rw 0, fld 1 1 .rw 0, fld 0 0 .rw 0]⟩,
  ⟨"HST_PCIE_ID", 0x130014, 1, 8, 1, 8, false,
    [fld 31 16 .ro 0, fld 15 0 .ro 0]⟩,
  ⟨"HST_INT_REARM", 0x130018, 2, 4, 1, 4, false,
    [fld 31 0 .wo 0]⟩,
  ⟨"HST_TCR_STAT", 0x130020, 1, 8, 1, 8, false,
    [fld 14 8 .rc 0, fld 6 0 .ro 0]⟩,
  ⟨"HST_SPI_CNT", 0x130040, 4, 8, 1, 8, true,
    [fld 47 0 .ro 0]⟩,
  ⟨"HST_PCIE_EVT", 0x130080, 2, 4, 1, 4, false,
    [fld 5 5 .w1c 0, fld 4 4 .w1c 0, fld 3 3 .w1c 0, fld 2 2 .w1c 0, fld 1 1 .w1c 0, fld 0 0 .w1c 0]⟩,
  ⟨"HST_PCIE_EVT_EN", 0x130088, 2, 4, 1, 4, false,
    [fld 5 5 .rw 0, fld 4 4 .rw 0, fld 3 3 .rw 0, fld 2 2 .rw 0, fld 1 1 .rw 0, fld 0 0 .rw 0]⟩,
  ⟨"HST_PCIE_CNT", 0x1300C0, 2, 32, 4, 8, true,
    [fld 47 0 .ro 0]⟩]

/-- Registers of block HST (R545). -/
def rowsHst1 : List RegRow := [
  ⟨"HST_MSIX_MAP", 0x130100, 2, 128, 26, 4, false,
    [fld 7 7 .rw 0, fld 4 0 .rw 0]⟩,
  ⟨"HST_TCR_CTRL", 0x130400, 4, 128, 1, 128, false,
    [fld 4 4 .rw 0, fldR 3 0 .rw 0 [(4, 0xC)] 1]⟩,
  ⟨"HST_TCR_HEAD", 0x130404, 4, 128, 1, 128, false,
    [fld 15 0 .ro 0]⟩,
  ⟨"HST_TCR_TAIL", 0x130408, 4, 128, 1, 128, false,
    [fld 15 0 .rw 0]⟩,
  ⟨"HST_TCR_CHEAD", 0x13040C, 4, 128, 1, 128, false,
    [fld 15 0 .ro 0]⟩,
  ⟨"HST_TCR_CTAIL", 0x130410, 4, 128, 1, 128, false,
    [fld 15 0 .rw 0]⟩,
  ⟨"HST_TCR_EVT", 0x130414, 4, 128, 1, 128, false,
    [fld 2 2 .w1c 0, fld 1 1 .w1c 0, fld 0 0 .w1c 0]⟩,
  ⟨"HST_TCR_EVT_EN", 0x130418, 4, 128, 1, 128, false,
    [fld 2 2 .rw 0, fld 1 1 .rw 0, fld 0 0 .rw 0]⟩,
  ⟨"HST_TCR_BASE", 0x130420, 4, 128, 1, 128, true,
    [fld 63 0 .rw 0]⟩,
  ⟨"HST_TCR_CBASE", 0x130428, 4, 128, 1, 128, true,
    [fld 63 0 .rw 0]⟩,
  ⟨"HST_TCR_CNT", 0x130440, 4, 128, 3, 8, true,
    [fld 47 0 .ro 0]⟩,
  ⟨"HST_DMA_CFG", 0x130800, 8, 128, 1, 128, false,
    [fldR 1 0 .rwl 0 [(0, 2)] 1]⟩]

/-- Registers of block HST (R545). -/
def rowsHst2 : List RegRow := [
  ⟨"HST_DMA_CTRL", 0x130804, 8, 128, 1, 128, false,
    [fld 31 31 .wo 0, fld 30 30 .wo 0, fld 4 4 .rw 0, fldR 3 0 .rw 0 [(4, 0xC)] 1]⟩,
  ⟨"HST_DMA_HEAD", 0x130808, 8, 128, 1, 128, false,
    [fld 15 0 .ro 0]⟩,
  ⟨"HST_DMA_TAIL", 0x13080C, 8, 128, 1, 128, false,
    [fld 15 0 .rw 0]⟩,
  ⟨"HST_DMA_STAT", 0x130810, 8, 128, 1, 128, false,
    [fld 31 30 .ro 0, fld 19 16 .ro 0, fld 15 0 .ro 0]⟩,
  ⟨"HST_DMA_EVT", 0x130814, 8, 128, 1, 128, false,
    [fld 1 1 .w1c 0, fld 0 0 .w1c 0]⟩,
  ⟨"HST_DMA_EVT_EN", 0x130818, 8, 128, 1, 128, false,
    [fld 1 1 .rw 0, fld 0 0 .rw 0]⟩,
  ⟨"HST_DMA_BASE", 0x130820, 8, 128, 1, 128, true,
    [fldR 63 0 .rw 0 [] 32]⟩,
  ⟨"HST_DMA_ERRADDR", 0x130828, 8, 128, 1, 128, true,
    [fld 63 0 .ro 0]⟩]

/-- Registers of block HST (R545). -/
def rowsHst : List RegRow := rowsHst0 ++ rowsHst1 ++ rowsHst2

/-- Registers of block CAN (R545). -/
def rowsCan0 : List RegRow := [
  ⟨"CAN_CTRL", 0x140000, 1, 8, 1, 8, false,
    [fld 31 31 .wo 0, fld 30 23 .rw 0, fld 22 22 .rw 0, fld 21 21 .rw 0, fld 20 20 .rw 0, fld 19 19 .rw 0, fldR 18 16 .rw 0 [(0, 3)] 1, fld 0 0 .rw 1]⟩,
  ⟨"CAN_STAT", 0x140004, 1, 8, 1, 8, false,
    [fld 31 29 .rc 0, fld 28 27 .ro 3, fld 26 26 .ro 0, fld 24 16 .ro 0, fld 15 8 .ro 0, fld 7 0 .ro 0]⟩,
  ⟨"CAN_NBT", 0x140008, 1, 8, 1, 8, false,
    [fld 31 25 .rw 0xF, fld 24 16 .rw 1, fldR 15 8 .rw 0x3E [(1, 0xFF)] 1, fld 6 0 .rw 0xF]⟩,
  ⟨"CAN_DBT", 0x14000C, 1, 8, 1, 8, false,
    [fld 19 16 .rw 7, fld 15 11 .rw 0, fld 10 6 .rw 0x1E, fld 3 0 .rw 7]⟩,
  ⟨"CAN_TDC", 0x140010, 1, 8, 1, 8, false,
    [fld 15 15 .rw 1, fld 6 0 .rw 0x20]⟩,
  ⟨"CAN_EVT", 0x140014, 1, 8, 1, 8, false,
    [fld 8 8 .w1c 0, fld 7 7 .w1c 0, fld 6 6 .w1c 0, fld 5 5 .w1c 0, fld 4 4 .w1c 0, fld 3 3 .w1c 0, fld 2 2 .w1c 0, fld 1 1 .w1c 0, fld 0 0 .w1c 0]⟩,
  ⟨"CAN_EVT_EN", 0x140018, 1, 8, 1, 8, false,
    [fld 8 8 .rw 0, fld 7 7 .rw 0, fld 6 6 .rw 0, fld 5 5 .rw 0, fld 4 4 .rw 0, fld 3 3 .rw 0, fld 2 2 .rw 0, fld 1 1 .rw 0, fld 0 0 .rw 0]⟩,
  ⟨"CAN_CNT", 0x140040, 6, 8, 1, 8, true,
    [fld 47 0 .ro 0]⟩,
  ⟨"CAN_OBJ_ID", 0x144000, 128, 128, 1, 128, false,
    [fld 31 31 .rw 0, fld 30 30 .rw 0, fld 29 29 .rw 0, fld 28 0 .rw 0]⟩,
  ⟨"CAN_OBJ_FMT", 0x144004, 128, 128, 1, 128, false,
    [fld 31 31 .rw 0, fld 30 30 .rw 0, fld 29 29 .rw 0, fld 28 28 .rw 0, fld 27 27 .rw 0, fld 26 26 .ro 0, fld 3 0 .rw 0]⟩,
  ⟨"CAN_OBJ_MASK", 0x144008, 128, 128, 1, 128, false,
    [fld 28 0 .rw 0]⟩,
  ⟨"CAN_OBJ_STAT", 0x14400C, 128, 128, 1, 128, false,
    [fld 31 31 .w1s 0, fld 30 30 .w1c 0, fld 29 29 .w1c 0, fld 28 28 .w1c 0, fld 27 27 .w1c 0, fld 26 26 .w1c 0, fld 25 25 .w1s 0, fld 23 16 .ro 0]⟩]

/-- Registers of block CAN (R545). -/
def rowsCan1 : List RegRow := [
  ⟨"CAN_OBJ_TIME", 0x144010, 128, 128, 1, 128, true,
    [fld 63 0 .ro 0]⟩,
  ⟨"CAN_OBJ_RSV6", 0x144018, 128, 128, 2, 4, false,
    []⟩,
  ⟨"CAN_OBJ_DATA", 0x144020, 128, 128, 16, 4, false,
    [fld 31 0 .rw 0]⟩,
  ⟨"CAN_OBJ_RSV24", 0x144060, 128, 128, 8, 4, false,
    []⟩]

/-- Registers of block CAN (R545). -/
def rowsCan : List RegRow := rowsCan0 ++ rowsCan1

/-- Registers of block NVC (R545). -/
def rowsNvc : List RegRow := [
  ⟨"NVC_CKPT_CTRL", 0x150000, 1, 8, 1, 8, false,
    [fld 31 31 .wo 0, fldR 11 0 .rw 0xA [(0, 0xE10)] 1]⟩,
  ⟨"NVC_CKPT_TOTAL", 0x150004, 1, 8, 1, 8, false,
    [fld 31 0 .ro 0]⟩,
  ⟨"NVC_ACC_ADDR", 0x150008, 1, 8, 1, 8, false,
    [fld 21 3 .rw 0]⟩,
  ⟨"NVC_ACC_CMD", 0x15000C, 1, 8, 1, 8, false,
    [fld 31 31 .wo 0, fld 30 30 .wo 0, fld 29 29 .ro 0]⟩,
  ⟨"NVC_EVT", 0x150010, 1, 8, 1, 8, false,
    [fld 3 3 .w1c 0, fld 2 2 .w1c 0, fld 1 1 .w1c 0, fld 0 0 .w1c 0]⟩,
  ⟨"NVC_EVT_EN", 0x150014, 1, 8, 1, 8, false,
    [fld 3 3 .rw 0, fld 2 2 .rw 0, fld 1 1 .rw 0, fld 0 0 .rw 0]⟩,
  ⟨"NVC_CKPT_PROG", 0x150018, 1, 8, 1, 8, true,
    [fld 46 46 .ro 0, fld 45 32 .ro 0, fld 31 0 .ro 0]⟩,
  ⟨"NVC_LAST_TIME", 0x150020, 1, 8, 1, 8, true,
    [fld 63 0 .ro 0]⟩,
  ⟨"NVC_LAST_STAT", 0x150028, 1, 8, 1, 8, true,
    [fld 63 32 .ro 0, fld 2 2 .ro 0, fld 1 1 .ro 0, fld 0 0 .ro 0]⟩,
  ⟨"NVC_ACC_DATA", 0x150030, 1, 8, 1, 8, true,
    [fld 63 0 .rw 0]⟩]

/-- Registers of block LCS (R545). -/
def rowsLcs : List RegRow := [
  ⟨"LCS_STAT", 0x160000, 1, 8, 1, 8, false,
    [fld 31 30 .ro 0, fld 29 28 .ro 0, fld 27 27 .ro 0, fld 26 26 .ro 0, fld 25 22 .ro 0, fld 21 18 .ro 0, fld 17 14 .ro 0, fld 6 0 .ro 0]⟩,
  ⟨"LCS_CMD", 0x160004, 1, 8, 1, 8, false,
    [fld 31 16 .wo 0, fld 15 12 .wo 0, fld 11 10 .wo 0, fld 6 0 .wo 0]⟩,
  ⟨"LCS_TOKEN_ADDR", 0x160008, 1, 8, 1, 8, false,
    [fldR 18 0 .rw 0 [] 8]⟩,
  ⟨"LCS_TAMPER", 0x16000C, 1, 8, 1, 8, false,
    [fld 15 8 .ro 0, fld 1 0 .ro 0]⟩,
  ⟨"LCS_EVT", 0x160010, 1, 8, 1, 8, false,
    [fld 2 2 .w1c 0, fld 1 1 .w1c 0, fld 0 0 .w1c 0]⟩,
  ⟨"LCS_EVT_EN", 0x160014, 1, 8, 1, 8, false,
    [fld 2 2 .rw 0, fld 1 1 .rw 0, fld 0 0 .rw 0]⟩,
  ⟨"LCS_TAMPER_CFG", 0x160018, 2, 4, 1, 4, false,
    [fld 7 4 .rw 3, fld 2 2 .rw 0, fld 1 1 .rw 0, fld 0 0 .rw 0]⟩,
  ⟨"LCS_UID", 0x160020, 1, 8, 1, 8, true,
    [fld 63 0 .ro 0]⟩,
  ⟨"LCS_NONCE", 0x160028, 1, 8, 1, 8, true,
    [fld 63 0 .ro 0]⟩]

/-- Registers of block SEQ (R545). -/
def rowsSeq : List RegRow := [
  ⟨"SEQ_CTRL", 0x170000, 1, 8, 1, 8, false,
    [fld 0 0 .w1c 0]⟩,
  ⟨"SEQ_IRQ_EN", 0x170004, 1, 8, 1, 8, false,
    [fld 31 0 .rw 0]⟩,
  ⟨"SEQ_WDOG", 0x170008, 1, 8, 1, 8, false,
    [fld 31 31 .rw 0, fldR 23 0 .rw 0x186A0 [(1, 0xFFFFFF)] 1]⟩,
  ⟨"SEQ_WDOG_KICK", 0x17000C, 1, 8, 1, 8, false,
    [fld 15 0 .wo 0]⟩,
  ⟨"SEQ_EVT", 0x170010, 1, 8, 1, 8, false,
    [fld 3 3 .w1c 0, fld 2 0 .w1c 0]⟩,
  ⟨"SEQ_EVT_EN", 0x170014, 1, 8, 1, 8, false,
    [fld 3 3 .rw 0, fld 2 0 .rw 0]⟩,
  ⟨"SEQ_CANM", 0x170018, 2, 4, 1, 4, false,
    [fld 31 31 .rwl 0, fld 29 29 .rwl 0, fld 28 0 .rwl 0]⟩,
  ⟨"SEQ_MBOX_CMD", 0x170040, 3, 4, 1, 4, false,
    [fld 31 31 .w1s 0, fld 30 30 .ro 0, fld 15 8 .ro 0, fld 7 0 .rw 0]⟩,
  ⟨"SEQ_MBOX_IN", 0x170080, 3, 16, 4, 4, false,
    [fld 31 0 .rw 0]⟩,
  ⟨"SEQ_MBOX_OUT", 0x1700C0, 3, 16, 4, 4, false,
    [fld 31 0 .ro 0]⟩]

/-- The rows of the block with index b (R471, R542). -/
def blockRows (b : Nat) : List RegRow :=
  match b with
  | 0 => rowsTop
  | 1 => rowsPwr
  | 2 => rowsImg
  | 3 => rowsMil
  | 4 => rowsTap
  | 5 => rowsCbl
  | 6 => rowsVrd
  | 7 => rowsTol
  | 8 => rowsTca
  | 9 => rowsHsh
  | 10 => rowsWay
  | 11 => rowsLrn
  | 12 => rowsAge
  | 13 => rowsRgl
  | 14 => rowsWlt
  | 15 => rowsBrg
  | 16 => rowsInt
  | 17 => rowsSpm
  | 18 => rowsDrc
  | 19 => rowsHst
  | 20 => rowsCan
  | 21 => rowsNvc
  | 22 => rowsLcs
  | 23 => rowsSeq
  | _ => []

/-- Does own-space byte offset `off` name a register of the row? Its two indices, if so. -/
def RegRow.hit (r : RegRow) (off : Nat) : Option (Nat × Nat) :=
  if off < r.base then none
  else
    let d := off - r.base
    let i := d / r.s1
    let q := d % r.s1
    let j := q / r.s2
    if q % r.s2 = 0 ∧ i < r.n1 ∧ j < r.n2 then some (i, j) else none

/-- The row that lists own-space offset `off` as the (low word of the) register's place (R545); none: reserved (R543). -/
def regRow (off : Nat) : Option RegRow :=
  (blockRows (off / 0x10000)).find? (fun r => (r.hit off).isSome)

/-- The reset value the register tables give for the register at `off`, before fused values. -/
def RegRow.resetVal (r : RegRow) : BitVec 64 :=
  r.fields.foldl (fun a f => a ||| BitVec.ofNat 64 (f.reset <<< f.lo)) 0

end Sys2Proof.Machine
end

