-- ==== Sys2Proof/Machine/Stores.lean ====
section
/-!
DEFINITION. The state of the search side of the device, unit by unit: regulator and DRAM controller, memory
integrity, scratchpad port, ternary array, hash engine, waymark index, learning, aging, table command rings, verdicts,
cobblers, toll gates. Each unit's registers live in the register file; here stands what the registers do not hold.
-/
namespace Sys2Proof.Machine

/-- What has happened in the present cycle, for the rules that say who wins within one cycle; it holds for cycle `at_`
alone. -/
structure NowSt where
  at_ : Nat
  /-- event bits that hardware has set: register and bit (R11) -/
  evts : List (Nat × Nat)
  /-- read-clear fields that hardware has changed: the value before, and what the events since amount to (R11) -/
  rc : KMap (Option (Nat × Nat))
  /-- registers and levels that act from the next cycle on: their value at the start of this one (R169, R200, R351) -/
  was : KMap (Option Nat)
  /-- the ternary rows and the move pair as they were before this cycle's row accesses (R198) -/
  array : Option (KMap TRow × Option (Nat × Nat × Nat))
  /-- requests granted (R350) -/
  took : List Req
  deriving DecidableEq, Repr

/-- A cycle in which nothing has happened. -/
def NowSt.none : NowSt := ⟨0, [], [], [], Option.none, []⟩

/-- Road time, its advance per CCLK edge in 2⁻⁴⁰ ns and the uncertainty of a stamp, as they were at the end of a cycle
after which one of them changed out of turn (R101): for stamps of earlier events. -/
structure PastTime where
  cycle : Nat
  road : Nat
  inc : Int
  unc : Nat
  deriving DecidableEq, Repr

/-- Regulator state (R349–R362): accounts, grants in the window, targets and ceilings in force, coverage, class waits. -/
structure RglSt where
  nextId : Nat
  reqs : List Req
  windowAt : Nat
  slotLeft : KMap Nat
  granLeft : KMap Nat
  slotGot : KMap Nat
  granGot : KMap Nat
  /-- RGL_CLASS and RGL_CEIL values in force since the last window start -/
  clsNow : KMap Nat
  ceilNow : KMap Nat
  /-- coverage of each class (R358), and whether a class write waits for the window start -/
  coverS : KMap Nat
  coverG : KMap Nat
  dirty : Bool
  waitMax : KMap Nat
  /-- (class, kind, resource) already logged in this window (R360) -/
  logged : List Nat
  /-- urgency of each tap port's partner (R143, R351) -/
  urg : KMap Nat
  slotCycle : Nat
  slot0 : Bool
  slot1 : Bool
  granCycle : Nat
  granUsed : Nat
  /-- the budget in force, once computed (R356, R362) -/
  budgetOn : Bool
  /-- which DMA channel of each DMA master goes first (R347) -/
  dmaTurn : KMap Nat
  /-- work of the sweeper, the scrubber and the march engine that is not yet presented: its time has not come, or its master
  is held (R354, R355) -/
  parked : List Req
  deriving DecidableEq, Repr

/-- One channel pair (R441, R442): when it next accepts a granule, its refresh schedule and postponed refreshes, and whose
granule keeps it busy. -/
structure PairSt where
  freeAt : Nat
  lastRefresh : Nat
  nextRefresh : Nat
  postponed : Nat
  /-- the class of the last granule granted to it; none: it refreshes -/
  cls : Option Nat
  deriving DecidableEq, Repr

/-- DRAM controller state (R441–R444). -/
structure DrcSt where
  mem : List Host.Cell
  pairs : List PairSt
  nextRid : Nat
  reads : List ReadFl
  writes : List WriteFl
  rounds : List Round
  /-- descriptor search reads granted and not yet resolved (R323): read id, granule -/
  openReads : List (Nat × Nat)
  temp : Nat
  double : Bool
  trained : Bool
  clearDone : Bool
  clearFrom : Option Nat
  deriving DecidableEq, Repr

/-- Granules a walker has asked for in its window of 800 cycles (R324, R338, R428). -/
structure Pace where
  win : Nat
  used : Nat
  deriving DecidableEq, Repr

/-- Memory integrity state (R410–R446). -/
structure IntSt where
  flips : KMap (Option Flip)
  track : List Track
  /-- spares in use per (memory, macro) -/
  spares : KMap Nat
  retire : KMap (Option Retire)
  tcaHeld : Nat
  march : Option March
  /-- accesses the march has made (R436) -/
  marchStep : Nat
  scrubPos : Nat
  scrubLap : Option Nat
  scrubPace : Pace
  sramPos : KMap Nat
  sramLap : KMap Nat
  sramLaps : KMap Nat
  sramLast : KMap Nat
  sramUs : KMap Nat
  recordDirty : Bool
  deriving DecidableEq, Repr

/-- Scratchpad state (R414–R421). -/
structure SpmSt where
  mem : List Host.Cell
  waiting : List SpmAcc
  portCycle : Nat
  deriving DecidableEq, Repr

/-- Ternary array state (R185–R227). -/
structure TcaSt where
  rows : KMap TRow
  result : KMap Nat
  order : KMap Nat
  gen : KMap Nat
  log : List Reloc
  movePair : Option (Nat × Nat × Nat)
  wiping : KMap Bool
  wop : Option TcaOp
  rop : Option TcaOp
  level : Nat
  temp : Nat
  peak : Nat
  windowAt : Nat
  windowUsed : Nat
  sigRegion : Option Nat
  sigLast : Nat
  sigDirty : Bool
  /-- rows of the region read so far, and the road time at the last of them with the signature (R222, R223, R225) -/
  sigRows : Nat
  sigRead : Option (Nat × Nat)
  sigOnDemand : Bool
  sigReq : Option Nat
  lapStart : Option Nat
  lapOpen : Bool
  /-- signatures finished and not yet posted: region, CRC, dirty, on demand, time -/
  sigWait : List (Nat × Nat × Bool × Bool × Nat)
  rebuild : Option Nat
  /-- the region at which the lap goes on (R223) -/
  sigNext : Nat
  deriving DecidableEq, Repr

/-- Hash and prefix engine state (R236–R273). -/
structure HshSt where
  stash : KMap (Option StashEnt)
  filter : KMap Bool
  gen : KMap Nat
  log : List Reloc
  wiping : KMap Bool
  /-- the relocation in progress of a table, as acknowledged: source handle, destination handle (R271, R274) -/
  moving : List (Nat × Nat × Nat)
  /-- the two copies of an entry that is being relocated or drained, as they stand in memory: table, source handle, destination
  handle (R254, R259, R262) -/
  twin : List (Nat × Nat × Nat)
  ops : List HashOp
  /-- keys that the engine has not yet taken, by cycle: when the key is there, master, asker, table, key, stamp (R244) -/
  keys : List (Nat × Nat × Asker × Nat × Key × Bool)
  /-- how many keys the engine has taken in which cycle (R244) -/
  keyCycle : Nat
  keyCount : Nat
  /-- prefix searches waiting for hash and filter: ready cycle, master, asker, table, key, stamp -/
  waiting : List (Nat × Nat × Asker × Nat × Key × Bool)
  upkeep : List Upkeep
  share : KMap Nat
  /-- entries held per (table, LENIX), stash included, as acknowledged; one in relocation counts once (R274) -/
  entries : KMap Nat
  /-- rounds of DRAM commands and removals whose data is here, with the cycle at which its compare ends (R268) -/
  compared : List (Nat × Round)
  deriving DecidableEq, Repr

/-- Waymark index state (R279–R305). -/
structure WaySt where
  pages : KMap Page
  streams : KMap Stream
  settle : List Insert
  recs : List OpenRec
  /-- held headers: REACH of each group of an open page, keyed by page * 64 + group -/
  held : KMap (Option Nat)
  /-- held headers in order of age: page * 4 + quarter -/
  heldOrder : List Nat
  queries : List WayQ
  allocs : Nat
  settleS : Nat
  used : Nat
  peak : Nat
  visit : Nat
  pressing : Bool
  nextFree : Nat
  flush : Option (Nat × Nat × Nat)
  low : Bool
  /-- the combine space is being drained (R286): from 2048 free places down until more than 4096 are free -/
  drain : Bool
  /-- where each held header lies in its store of 2,048: page * 4 + quarter, and its place (R286) -/
  heldAt : List (Nat × Nat)
  /-- the cycle after the last AGE_VISIT (R293) -/
  visitAt : Nat
  /-- queries whose result is there and whose answer is not yet due (R296); true: a WNEXT -/
  ended : List (Nat × WayQ × WayRes × Bool)
  deriving DecidableEq, Repr

/-- Learning engine state (R313–R319). -/
structure LrnSt where
  raised : List Notif
  queue : List Notif
  dedup : KMap (Option (Nat × Nat))
  level : Nat
  rem : Nat
  last : Nat
  lost : Nat
  raisedN : Nat
  dropped : Nat
  delivered : Nat
  checkAt : Nat
  checkN : Nat
  deriving DecidableEq, Repr

/-- A lap of the sweeper: when it started, the tables it visits, and where it stands. -/
structure Lap where
  start : Nat
  tables : List Nat
  table : Nat
  lenix : Nat
  bucket : Nat
  /-- the shortest aging limit of the tables visited so far; 0: none yet (R326) -/
  shortest : Nat
  walked : Bool
  deriving DecidableEq, Repr

/-- A FLUSH_PORT in progress (R338). -/
structure FlushP where
  id : Nat
  table : Nat
  port : Nat
  master : Nat
  bucket : Nat
  removed : Nat
  outstanding : Nat
  aborted : Bool
  deriving DecidableEq, Repr

/-- Aging state (R320–R327, R338). -/
structure AgeSt where
  tick : KMap Nat
  base : KMap Nat
  lap : Option Lap
  lastStart : Option Nat
  flush : Option FlushP
  outstanding : Nat
  pace : Pace
  flushPace : Pace
  deriving DecidableEq, Repr

/-- Table command ring state (R328–R337). -/
structure TcrSt where
  nextId : Nat
  cmds : List TCmd
  compl : List Compl
  rr : Nat
  peak : Nat
  fetching : KMap Bool
  fetchCycle : Nat
  postCycle : Nat
  /-- commands whose completions an endpoint reset discards (R459) -/
  gone : List Nat
  deriving DecidableEq, Repr

/-- A toll-gate bucket (R173). -/
structure Bucket where
  cir : Nat
  pir : Nat
  two : Bool
  cbs : Nat
  pbs : Nat
  tc : Nat
  tp : Nat
  last : Nat
  remC : Nat
  remP : Nat
  deriving DecidableEq, Repr

/-- A bucket that reads zero (R177). -/
def Bucket.zero : Bucket := ⟨0, 0, false, 0, 0, 0, 0, 0, 0, 0⟩

/-- Verdict, tag and ledger state (R17–R49, R178). -/
structure VrdSt where
  /-- tags not in the pool: reserved or held (R21) -/
  taken : List Nat
  epoch : KMap Nat
  flights : List Flight
  answers : List PendAns
  peak : Nat
  fresh : KMap (Nat × Nat)
  /-- tags counted held whose verdict is lost to the buffer (R48) -/
  orphans : List Nat
  /-- TABLE ledger terms per table: inserted, deleted, aged, flushed -/
  tblIns : KMap Nat
  tblDel : KMap Nat
  tblAged : KMap Nat
  tblFlushed : KMap Nat
  /-- host commands on buckets and counters in progress, by their command register: when their data arrives, and the data
  (R177, R179) -/
  ports : KMap (Option (Nat × List Nat))
  /-- buckets read uncorrectable, whose TOKEN ledger waits for the host to configure them (R425) -/
  unaudited : List Nat
  deriving DecidableEq, Repr

/-- Selector and cobbler state (R158–R169, R183). -/
structure CblSt where
  freeAt : KMap Nat
  waitMax : Nat
  /-- profiles with a record (R169) -/
  hasRec : KMap Bool
  staged : KMap (Option Nat)
  /-- the last cycle in which the selector gave results, and how many (R160) -/
  selCycle : Nat
  selCount : Nat
  deriving DecidableEq, Repr

end Sys2Proof.Machine
end

