-- ==== Sys2Proof/Machine/State.lean ====
section
/-!
DEFINITION. The state of the device, and the state right after reset.
-/
namespace Sys2Proof.Machine

structure State where
  cycle : Nat
  regs : KMap W64
  /-- free values drawn so far (the model's own field; see the assumption log) -/
  draws : Nat
  rgl : RglSt
  drc : DrcSt
  intg : IntSt
  spm : SpmSt
  tca : TcaSt
  hsh : HshSt
  way : WaySt
  lrn : LrnSt
  age : AgeSt
  tcr : TcrSt
  vrd : VrdSt
  cbl : CblSt
  tol : KMap Bucket
  taps : KMap TapPort
  mil : MilSt
  host : List HostReq
  img : ImgSt
  pwr : PwrSt
  nvc : NvcSt
  lcs : LcsSt
  wlt : WltSt
  brg : BrgSt
  pcie : KMap Pcie
  dma : KMap DmaCh
  spi : SpiSt
  seq : SeqSt
  can : CanSt
  /-- high words latched by low-word reads, and high words staged by writes, per master and register (R12) -/
  latch : KMap (Option Nat)
  stage : KMap (Option Nat)
  /-- what the device has sent out of its pins and links, oldest first (the model's own field) -/
  out : List Out
  /-- what has happened in the present cycle, and the time base at its latest changes out of turn (the model's own fields) -/
  now : NowSt
  past : List PastTime
  pending : List Instr
  deriving DecidableEq, Repr

/-- Zero bytes everywhere, nothing pending, nothing running: each unit as a start leaves it (R45, R115, R362, R446). -/
def RglSt.zero : RglSt :=
  ⟨0, [], 0, [], [], [], [], [], [], [], [], false, [], [], [], 0, false, false, 0, 0, false, [], []⟩
def PairSt.zero : PairSt := ⟨0, 0, 3120, 0, none⟩
def DrcSt.zero : DrcSt :=
  ⟨[], List.replicate 4 PairSt.zero, 0, [], [], [], [], 0, false, false, false, none⟩
def IntSt.zero : IntSt := ⟨[], [], [], [], 0, none, 0, 0, none, ⟨0, 0⟩, [], [], [], [], [], false⟩
def SpmSt.zero : SpmSt := ⟨[], [], 0⟩
def TcaSt.zero : TcaSt :=
  ⟨[], [], [], [], [], none, [], none, none, 0, 0, 0, 0, 0, none, 0, false, 0, none, false, none, none, false, [], none, 0⟩
def HshSt.zero : HshSt := ⟨[], [], [], [], [], [], [], [], [], 0, 0, [], [], [], [], []⟩
def WaySt.zero : WaySt := ⟨[], [], [], [], [], [], [], 0, 0, 0, 0, 0, false, 0, none, false, false, [], 0, []⟩
def LrnSt.zero : LrnSt := ⟨[], [], [], 64, 0, 0, 0, 0, 0, 0, 0, 0⟩
def AgeSt.zero : AgeSt := ⟨[], [], none, none, none, 0, ⟨0, 0⟩, ⟨0, 0⟩⟩
def TcrSt.zero : TcrSt := ⟨0, [], [], 0, 0, [], 0, 0, []⟩
def VrdSt.zero : VrdSt := ⟨[], [], [], [], 0, [], [], [], [], [], [], [], []⟩
def CblSt.zero : CblSt := ⟨[], 0, [], [], 0, 0⟩
def MilSt.zero : MilSt :=
  ⟨0, 0, 0, false, 0, 0, 0, none, false, false, false, 255, 0, 0, 0, [], 0, 0, none, [], [], [], none, 0, [], 0, 0⟩
def ImgSt.zero : ImgSt := ⟨[], none, 0, 0, 0, 0, false, .before, [], 0, 0, false, [], [], 0, none, 0, some 0, 0, 0⟩
def PwrSt.zero : PwrSt := ⟨.woken, .woken, false, 0, 0, true, 0, true, true, false, [], 0, false, 0, 0, 0, 0, false, none, false⟩
def NvcSt.zero : NvcSt := ⟨some ([], [], 0, false), [], [], 0, 0, none, false, 0, [], 0⟩
def KeySlot.zero : KeySlot := ⟨false, false, [], false⟩
def LcsSt.zero : LcsSt := ⟨0, none, List.replicate 4 KeySlot.zero, 0, 0, 0, 0xA1, 0, (Config.nonce 0).toNat, none, 0⟩
def WltSt.zero : WltSt := ⟨[], 0, false, 0, [], [], []⟩
def BrgSt.zero : BrgSt := ⟨0, [], 0, none⟩
def SpiSt.zero : SpiSt := ⟨none, 0, false⟩
def SeqSt.zero : SeqSt := ⟨false, 0, 0, []⟩
def CanSt.zero : CanSt := ⟨false, none, 0, 0, false, false, 0, []⟩

/-- The device at WOKEN of its first cold start (cause POWER_ON): every register at its reset value, every memory cleared
(R446), fuses as the assumption log names them, no command waiting. -/
def State.reset : State where
  cycle := 0
  regs := []
  draws := 1
  rgl := RglSt.zero
  drc := DrcSt.zero
  intg := IntSt.zero
  spm := SpmSt.zero
  tca := TcaSt.zero
  hsh := HshSt.zero
  way := WaySt.zero
  lrn := LrnSt.zero
  age := AgeSt.zero
  tcr := TcrSt.zero
  vrd := VrdSt.zero
  cbl := CblSt.zero
  tol := []
  taps := []
  mil := MilSt.zero
  host := []
  img := ImgSt.zero
  pwr := PwrSt.zero
  nvc := NvcSt.zero
  lcs := LcsSt.zero
  wlt := WltSt.zero
  brg := BrgSt.zero
  pcie := []
  dma := []
  spi := SpiSt.zero
  seq := SeqSt.zero
  can := CanSt.zero
  latch := []
  stage := []
  out := []
  now := NowSt.none
  past := []
  pending := []

/-- Why a step stops with a fault. No command of this block faults: the spec gives every command an effect, and what it
leaves open are values. The one constructor stands for a command whose effect the spec calls undefined; nothing raises it
(safe: it allows no claim about a run). -/
inductive Fault where
  | undefined (mnemonic : String)
  deriving DecidableEq, Repr

/-- Why a step is refused. `notModelled` is the answer of an arm of `exec` that has no meaning yet; no arm is without one
(safe: a refusal allows no claim about what the device does). -/
inductive Refusal where
  | notModelled (mnemonic : String)
  deriving DecidableEq, Repr
end Sys2Proof.Machine
end

