-- ==== Sys2Proof/Machine/Ops.lean ====
section
/-!
DEFINITION. The named operations over the register file and the clock that every unit uses: reading and writing a
register by its own-space offset, fields, event latches, counters (R13, R37), progress registers (R14), refused
writes (R8, R10, R546, R547), and the two-word logs (R361, R408, R424).
-/
namespace Sys2Proof.Machine

/-- The reset value of the register at an own-space offset; a place with no register reads zero (R543). -/
def regDefault (off : Nat) : W64 :=
  match regRow off with
  | some r => r.resetVal
  | none => 0

/-- The register at an own-space offset, as a number. -/
def rd (s : State) (off : Nat) : Nat := (s.regs.get regDefault off).toNat

/-- The state with the register at an own-space offset set. -/
def wr (s : State) (off v : Nat) : State := { s with regs := s.regs.set regDefault off (BitVec.ofNat 64 v) }

/-- Bits [hi:lo] of a register. -/
def fget (s : State) (off hi lo : Nat) : Nat := bitsOf (rd s off) hi lo

/-- Bit `b` of a register. -/
def flag (s : State) (off b : Nat) : Bool := bitOf (rd s off) b

/-- A register with bits [hi:lo] set to `v`. -/
def fput (s : State) (off hi lo v : Nat) : State := wr s off (putBits (rd s off) hi lo v)

/-- Add to a 48-bit wrapping counter (R13, R37). -/
def bump (s : State) (off n : Nat) : State := wr s off ((rd s off + n) % 2 ^ 48)

/-- When a walker limited to `rate` granules per µs may ask for `n` more, and its count after that (R324, R338, R428): a
µs is a window of 800 cycles that starts at a multiple of 800, as the update windows of R199 and the measurement
windows do. What one request asks for beyond a window's rate is taken from the next. -/
def paced (cycle rate n : Nat) (p : Pace) : Nat × Pace :=
  let w := max p.win (cycle / 800)
  let u := p.used - rate * (w - p.win)
  let k := min (cdiv (u + n) rate - 1) (cdiv u rate)
  (max cycle (800 * (w + k)), ⟨w + k, u - rate * k + n⟩)

/-- Add to a saturating field [hi:lo]. -/
def satBump (s : State) (off hi lo n : Nat) : State :=
  fput s off hi lo (satW (hi + 1 - lo) (fget s off hi lo + n))

/-- What has happened in the present cycle. -/
def nowSt (s : State) : NowSt := if s.now.at_ = s.cycle then s.now else { NowSt.none with at_ := s.cycle }

/-- Latch bit `b` of an event register; a clear by software in the same cycle does not take it away (R11). -/
def setEvt (s : State) (off b : Nat) : State :=
  { fput s off b b 1 with now := { nowSt s with evts := (off, b) :: (nowSt s).evts } }

/-- The bits of a register that hardware has set in this cycle, as a mask (R11). -/
def evtMask (s : State) (off : Nat) : Nat :=
  ((nowSt s).evts.filter (fun (e : Nat × Nat) => decide (e.1 = off))).foldl (fun a (e : Nat × Nat) => a ||| 2 ^ e.2) 0

/-- Hardware changes a read-clear field, kept under `key`: `before` is its value, `ev` what the event alone would leave, `f`
how two events add up (R11). -/
def rcEvent (s : State) (key before ev : Nat) (f : Nat → Nat → Nat) : State :=
  let e := match KMap.find (nowSt s).rc key with
    | some x => (x.1, f x.2 ev)
    | none => (before, ev)
  { s with now := { nowSt s with rc := KMap.put (nowSt s).rc key (some e) } }

/-- A read-clear field as a read sees it: before the events of this cycle (R11). -/
def rcSeen (s : State) (key v : Nat) : Nat :=
  match KMap.find (nowSt s).rc key with
  | some x => x.1
  | none => v

/-- What a read leaves of a read-clear field that restarts from `rest`: the events of this cycle (R11). -/
def rcLeft (s : State) (key rest : Nat) : Nat :=
  match KMap.find (nowSt s).rc key with
  | some x => x.2
  | none => rest

/-- A read has taken what the field held before this cycle. -/
def rcTaken (s : State) (key : Nat) : State :=
  match KMap.find (nowSt s).rc key with
  | some x => { s with now := { nowSt s with rc := KMap.put (nowSt s).rc key (some (0, x.2)) } }
  | none => s

/-- A peak restarts at a read: the events of this cycle are in what it restarts from (R553). -/
def rcDrop (s : State) (key : Nat) : State :=
  match KMap.find (nowSt s).rc key with
  | some _ => { s with now := { nowSt s with rc := KMap.put (nowSt s).rc key none } }
  | none => s

/-- A value kept under `key` acts from the next cycle on: `old` is what it was (R169, R200, R351). -/
def actLater (s : State) (key old : Nat) : State :=
  match KMap.find (nowSt s).was key with
  | some _ => s
  | none => { s with now := { nowSt s with was := KMap.put (nowSt s).was key (some old) } }

/-- Such a value as it acts in this cycle. -/
def acting (s : State) (key cur : Nat) : Nat :=
  match KMap.find (nowSt s).was key with
  | some v => v
  | none => cur

/-- The throttle level that governs slots in this cycle (R200). -/
def actLevel (s : State) : Nat := acting s Reg.tcaTherm s.tca.level

/-- The cycle in which a command that ends within 16 cycles ends; the free value is the state's next draw. -/
def within16 (s : State) : Nat := s.cycle + 16 - (Config.early s.draws).val

/-- A write refused under R8 or under a rule that names RSVD_CODE (R546), recorded with its master and offset (R547). -/
def rsvd (s : State) (m off : Nat) : State :=
  wr (setEvt s Reg.topErr 0) Reg.topErrAddr (m * 2 ^ 26 + off % 2 ^ 21)

/-- A write that would have changed an RWL field after IMG_LOCK (R10, R546). -/
def lockedWr (s : State) (m off : Nat) : State :=
  wr (setEvt s Reg.topErr 1) Reg.topErrAddr (m * 2 ^ 26 + off % 2 ^ 21)

/-- IMG_LOCK is set (R10, R85). -/
def locked (s : State) : Bool := flag s Reg.imgLock 0

/-- Road time is kept in units of 2⁻⁴⁰ ns: the 40 fraction bits of R87. -/
def roadUnit : Nat := 2 ^ 40

/-- Road-time whole nanoseconds now. -/
def nowNs (s : State) : Nat := s.mil.road / roadUnit

/-- Road time now, in 1/256 ns. -/
def now256 (s : State) : Nat := s.mil.road * 256 / roadUnit

/-- A progress register: POSITION, PERCENT from the total, ACTIVE (R14). -/
def progValue (total pos : Nat) (active : Bool) : Nat :=
  pos % 2 ^ 32 + (if total = 0 then 10000 else 10000 * pos / total) % 2 ^ 14 * 2 ^ 32 + b2n active * 2 ^ 46

/-- Set a progress register and its total (R14). -/
def progSet (s : State) (prog totalOff total pos : Nat) (active : Bool) : State :=
  wr (wr s totalOff total) prog (progValue total pos active)

/-- Add to POSITION of a running long operation (R14). -/
def progAdd (s : State) (prog totalOff n : Nat) : State :=
  wr s prog (progValue (rd s totalOff) (fget s prog 31 0 + n) (flag s prog 46))

/-- Is the long operation active (R14)? -/
def progOn (s : State) (prog : Nat) : Bool := flag s prog 46

/-- Two-word log with head, tail, overflow count and a LOG_FULL event (R361, R408, R424). -/
def logPut (s : State) (head tail ovf size : Nat) (entry : Nat → Nat → Nat) (evt bit : Nat) (w0 w1 : Nat) : State :=
  let h := fget s head 15 0
  let used := (h + 65536 - fget s tail 15 0) % 65536
  if used ≥ size then satBump (rcEvent s ovf (fget s ovf 31 0) 1 (fun a b => a + b)) ovf 31 0 1
  else
    let s1 := wr (wr s (entry (h % size) 0) w0) (entry (h % size) 1) w1
    let s2 := wr s1 head ((h + 1) % 65536)
    if used + 1 = size then setEvt s2 evt bit else s2

/-- Consume a log up to a new tail; a tail past the head is ignored under R8 (R361). -/
def tailWrite (s : State) (m head tail : Nat) (v : Nat) : State :=
  let t := fget s tail 15 0
  let used := (fget s head 15 0 + 65536 - t) % 65536
  if (v % 65536 + 65536 - t) % 65536 ≤ used then wr s tail (v % 65536) else rsvd s m tail

/-- A free value: the next draw of the state's counter. -/
def draw (s : State) : State := { s with draws := s.draws + 1 }

/-- Byte `a` of a memory that reads zero where nothing is listed (R446). -/
def memByte (m : List Host.Cell) (a : Nat) : Byte := KMap.get (fun _ => 0) m a

/-- `n` bytes of a memory from `a`. -/
def memBytes (m : List Host.Cell) (a n : Nat) : List Byte := (List.range n).map (fun i => memByte m (a + i))

/-- A memory with byte `a` set. -/
def memPut (m : List Host.Cell) (a : Nat) (b : Byte) : List Host.Cell := KMap.set (fun _ => (0 : Byte)) m a b

/-- The canonical form of a byte memory: addresses strictly rising, no byte listed that an unlisted address reads as. -/
abbrev Memory.wf (m : List Host.Cell) : Prop := KMap.wf (fun _ => (0 : Byte)) m

/-- A memory with bytes written from `a`. -/
def memPuts (m : List Host.Cell) (a : Nat) (bs : List Byte) : List Host.Cell :=
  match bs with
  | [] => m
  | b :: t => memPuts (memPut m a b) (a + 1) t

/-- The device sends something. -/
def emit (s : State) (o : Out) : State := { s with out := s.out ++ [o] }

/-- A PCIe endpoint. -/
def pcie (s : State) (f : Nat) : Pcie := s.pcie.get (fun _ => Pcie.zero) f
def setPcie (s : State) (f : Nat) (x : Pcie) : State := { s with pcie := s.pcie.set (fun _ => Pcie.zero) f x }

/-- A request toward host memory of function f: sent and counted, or held while Bus Master Enable is 0 (R459, R551). -/
def hostSend (s : State) (f : Nat) (o : Out) : State :=
  let x := pcie s f
  if bitOf x.command 2 then bump { s with out := s.out ++ [o] } (Reg.hstPcieCnt f 3) 1
  else setPcie s f { x with held := x.held ++ [o] }

end Sys2Proof.Machine
end

