-- ==== Sys2Proof/Machine/RegWrite.lean ====
section
/-!
DEFINITION. What a register write does to the fields of a register (R7–R12): reserved fields ignore it, a reserved code
leaves its field and is flagged, a locked field keeps its value, and each access code has its own effect. What a write
triggers beyond its fields stands with the unit concerned.
-/
namespace Sys2Proof.Machine

/-- Is `x` a value that the field's register table allows (R8)? -/
def Field.allows (f : Field) (x : Nat) : Bool :=
  (f.ok = [] || f.ok.any (fun r => decide (r.1 ≤ x) && decide (x ≤ r.2))) && x % f.align = 0

/-- What a write of `v` makes of one field of a register that holds `old`: the register, whether the value was
reserved (R8), whether a lock refused it (R10). `keep`: event bits that hardware has set in this cycle (R11). -/
def Field.write (f : Field) (lock : Bool) (keep old v : Nat) : Nat × Bool × Bool :=
  let x := bitsOf v f.hi f.lo
  let o := bitsOf old f.hi f.lo
  let put := if f.allows x then (putBits old f.hi f.lo x, false, false) else (old, true, false)
  match f.acc with
  | .ro => (old, false, false)
  | .rc => (old, false, false)
  | .rw => put
  | .wo => put
  | .rwl => if lock then (old, false, decide (x ≠ o)) else put
  | .w1c => (putBits old f.hi f.lo ((o - (o &&& x)) ||| (o &&& bitsOf keep f.hi f.lo)), false, false)
  | .w1s => (putBits old f.hi f.lo (o ||| x), false, false)

/-- All fields of a register. -/
def fieldsWrite (lock : Bool) (keep v : Nat) (fs : List Field) (acc : Nat × Bool × Bool) : Nat × Bool × Bool :=
  match fs with
  | [] => acc
  | f :: t =>
    let r := f.write lock keep acc.1 v
    fieldsWrite lock keep v t (r.1, acc.2.1 || r.2.1, acc.2.2 || r.2.2)

/-- Commit a write of the whole register (R8, R10, R546, R547). -/
def commitFields (s : State) (m off v : Nat) : State :=
  match regRow off with
  | none => s
  | some r =>
    let w := fieldsWrite (locked s) (evtMask s off) v r.fields (rd s off, false, false)
    let s1 := wr s off w.1
    let s2 := if w.2.1 then rsvd s1 m off else s1
    if w.2.2 then lockedWr s2 m off else s2

/-- The bits of a register that a read returns as zero: write-only fields (R9). -/
def woMask (fs : List Field) (v : Nat) : Nat :=
  match fs with
  | [] => v
  | f :: t => woMask t (if f.acc = .wo then putBits v f.hi f.lo 0 else v)

/-- The fields that a read clears, cleared (R9) to the events of this cycle, `rest` (R11); those that lie in the words
[hi:lo] read. -/
def rcClear (fs : List Field) (lo hi rest v : Nat) : Nat :=
  match fs with
  | [] => v
  | f :: t => rcClear t lo hi rest (if f.acc = .rc ∧ lo ≤ f.lo ∧ f.hi ≤ hi then putBits v f.hi f.lo rest else v)

end Sys2Proof.Machine
end

