-- ==== Sys2Proof/Machine/Entry.lean ====
section
/-!
DEFINITION. DRAM tables as they lie in memory (R236–R240, R245, R265): entry formats, slots and their fields, sub-tables, and
handles.
-/
namespace Sys2Proof.Machine

/-- A table declared by the image (R60). -/
def tblOf (s : State) (t : Nat) : Option TblDecl := KMap.find s.img.tables t

/-- Is the table ternary or a window table? -/
def TblDecl.isTern (d : TblDecl) : Bool := d.kind ≤ 1

/-- Does the table live in DRAM? -/
def TblDecl.isDram (d : TblDecl) : Bool := 2 ≤ d.kind && d.kind ≤ 5

/-- The entry formats of R238. -/
inductive Fmt where
  | compact | standard | wide
  deriving DecidableEq, Repr

/-- The format of a table (R238). -/
def fmtOf (d : TblDecl) : Fmt :=
  if d.kind = 2 then .compact
  else if d.kind = 3 then .standard
  else if d.kind = 4 then .wide
  else
    let l := d.lengths.headD 0
    if l ≤ 64 then .compact else if l ≤ 128 then .standard else .wide

/-- Entry size, slots per bucket, and the places of KEY, RESULT and STAMP (R238). -/
def Fmt.size (f : Fmt) : Nat := match f with
  | .compact => 16
  | .standard => 32
  | .wide => 64
def Fmt.slots (f : Fmt) : Nat := 64 / f.size
def Fmt.keyLen (f : Fmt) : Nat := match f with
  | .compact => 8
  | .standard => 16
  | .wide => 56
def Fmt.resLen (f : Fmt) : Nat := match f with
  | .compact => 6
  | .standard => 8
  | .wide => 6
def Fmt.stampOff (f : Fmt) : Nat := match f with
  | .compact => 14
  | .standard => 24
  | .wide => 62
def Fmt.stampLen (f : Fmt) : Nat := match f with
  | .compact => 2
  | .standard => 4
  | .wide => 2

/-- The fields of an entry's bytes. -/
def entKey (f : Fmt) (e : List Byte) : Nat := fieldAt e 0 f.keyLen
def entRes (f : Fmt) (e : List Byte) : Nat := fieldAt e f.keyLen f.resLen
def entStamp (f : Fmt) (e : List Byte) : Nat := fieldAt e f.stampOff f.stampLen
def entMeta (e : List Byte) : Nat := fieldAt e 28 4

/-- An entry with its STAMP replaced. -/
def withStamp (f : Fmt) (e : List Byte) (v : Nat) : List Byte := overlay e f.stampOff (leBytes f.stampLen v)

/-- The slots of a bucket's 64 bytes. -/
def slotsOf (f : Fmt) (data : List Byte) : List (List Byte) :=
  (List.range f.slots).map (fun i => slice data (i * f.size) f.size)

/-- Number of sub-tables: one for an exact-match table, one per declared length otherwise (R245). -/
def subCount (d : TblDecl) : Nat := if d.kind = 5 then d.lengths.length else 1

/-- The weight of a length (R245, R276): 1 unless written. -/
def weight (s : State) (t j : Nat) : Nat := KMap.get (fun _ => 1) s.hsh.share (t * 16 + j)

/-- Granules of sub-table j (R245). -/
def subSize (s : State) (t : Nat) (d : TblDecl) (j : Nat) : Nat :=
  if d.kind ≠ 5 then d.size
  else
    let sz := d.size - 8 * d.bloom
    let q := sz / 4
    let n := d.lengths.length
    let ws := (List.range n).map (weight s t)
    let part := fun i => 4 * (q * weight s t i / ws.foldl (fun a b => a + b) 0)
    if j + 1 < n then part j else sz - ((List.range (n - 1)).map part).foldl (fun a b => a + b) 0

/-- First granule of sub-table j (R245). -/
def subBase (s : State) (t : Nat) (d : TblDecl) (j : Nat) : Nat :=
  if d.kind ≠ 5 then d.base
  else d.base + 8 * d.bloom + ((List.range j).map (subSize s t d)).foldl (fun a b => a + b) 0

/-- A DRAM handle (R265). -/
def mkHandle (stash : Bool) (lenix bucket slot : Nat) : Nat :=
  b2n stash * 2 ^ 33 + lenix * 2 ^ 29 + (if stash then slot else bucket * 4 + slot)

/-- The parts of a DRAM handle (R265). -/
def hStash (h : Nat) : Bool := bitOf h 33
def hLenix (h : Nat) : Nat := bitsOf h 32 29
def hBucket (h : Nat) : Nat := bitsOf h 28 2
def hSlot (h : Nat) : Nat := bitsOf h 1 0
def hIndex (h : Nat) : Nat := bitsOf h 5 0

/-- The bytes that write an entry into a slot. -/
def slotBytes (f : Fmt) (slot : Nat) (e : List Byte) : List (Nat × Byte) :=
  (List.range f.size).map (fun i => (slot * f.size + i, e.getD i 0))

/-- The bytes of a slot's STAMP with a value. -/
def stampBytes (f : Fmt) (slot v : Nat) : List (Nat × Byte) :=
  (List.range f.stampLen).map (fun i => (slot * f.size + f.stampOff + i, (leBytes f.stampLen v).getD i 0))

/-- The key bytes a slot must still hold. -/
def keyCond (f : Fmt) (slot : Nat) (e : List Byte) : List (Nat × Byte) :=
  (List.range f.keyLen).map (fun i => (slot * f.size + i, e.getD i 0))

/-- The STAMP byte places of a slot. -/
def stampPlaces (f : Fmt) (slot : Nat) : List Nat := (List.range f.stampLen).map (fun i => slot * f.size + f.stampOff + i)

end Sys2Proof.Machine
end

