-- ==== Sys2Proof/Machine/Integrity.lean ====
section
/-!
DEFINITION. Memory integrity: what a corrupted codeword reads as (R411–R413), the tracker and the error log (R423,
R424), spares and retirement (R429, R430), and the one-shot fault of the flip mask (R435).
-/
namespace Sys2Proof.Machine

/-- Key of a word in the store of corrupted codewords: memory ID and address in the format of R424. -/
def wordKey (mem addr : Nat) : Nat := mem * 2 ^ 36 + addr

/-- How a codeword decodes (R412). -/
inductive Ecc where
  | clean | corrected | uncorrectable
  deriving DecidableEq, Repr

/-- The decoding of a (72,64) word with the given error pattern, and the error left in its data (R412): one wrong bit
is corrected, two are detected, more are free (the spec gives no matrix). -/
def ecc72 (mask : Nat) : Ecc × Nat :=
  match popcount 72 mask with
  | 0 => (.clean, 0)
  | 1 => (.corrected, 0)
  | 2 => (.uncorrectable, mask % 2 ^ 64)
  | _ =>
    match Config.named72 mask with
    | some i => (.corrected, (mask ^^^ 2 ^ i) % 2 ^ 64)
    | none => (.uncorrectable, mask % 2 ^ 64)

/-- The 13-bit error pattern of scratchpad byte `b` of a word (R411): data bits 8b…8b+7, check bits 64+5b…68+5b. -/
def byteMask (mask b : Nat) : Nat := bitsOf mask (8 * b + 7) (8 * b) + bitsOf mask (68 + 5 * b) (64 + 5 * b) * 256

/-- The decoding of one scratchpad byte's (13,8) code. -/
def ecc13 (m : Nat) : Ecc × Nat :=
  match popcount 13 m with
  | 0 => (.clean, 0)
  | 1 => (.corrected, 0)
  | 2 => (.uncorrectable, m % 256)
  | _ =>
    match Config.named13 m with
    | some i => (.corrected, (m ^^^ 2 ^ i) % 256)
    | none => (.uncorrectable, m % 256)

/-- The pattern that poisons a (72,64) word: check bits XOR 0x03 (R413). -/
def poison72 : Nat := 3 * 2 ^ 64

/-- The error pattern of a word, if it is corrupted. -/
def flipAt (s : State) (mem addr : Nat) : Option Flip := KMap.find s.intg.flips (wordKey mem addr)

/-- Set or clear the error pattern of a word. -/
def setFlip (s : State) (mem addr : Nat) (f : Option Flip) : State :=
  { s with intg := { s.intg with flips := KMap.put s.intg.flips (wordKey mem addr) f } }

/-- One entry of the error log (R424); every event is counted in INT_CNT by its caller. -/
def intLog (s : State) (synd kind mem master : Nat) (injected : Bool) (addr : Nat) : State :=
  logPut s Reg.intLogHead Reg.intLogTail Reg.intLogOvf 64 Reg.intLog Reg.intEvt 2 (nowNs s)
    (synd % 256 * 2 ^ 56 + kind * 2 ^ 52 + mem * 2 ^ 46 + master * 2 ^ 40 + b2n injected * 2 ^ 39 + addr % 2 ^ 36)

/-- The tracker entry of a word (R423). -/
def trackOf (s : State) (mem addr : Nat) : Option Track :=
  s.intg.track.find? (fun t => t.mem = mem ∧ t.addr = addr)

/-- Drop a word's tracker entry. -/
def trackFree (s : State) (mem addr : Nat) : State :=
  { s with intg := { s.intg with track := s.intg.track.filter (fun t => ¬(t.mem = mem ∧ t.addr = addr)) } }

/-- Change a word's tracker entry in place. -/
def trackSet (s : State) (mem addr : Nat) (st : TrackSt) (count : Nat) : State :=
  { s with intg := { s.intg with track := s.intg.track.map (fun t =>
      if t.mem = mem ∧ t.addr = addr then { t with st := st, count := count } else t) } }

/-- Add an entry; a full tracker gives up its oldest PENDING entry, or else its oldest WATCH entry (R423). -/
def trackAdd (s : State) (mem addr : Nat) (st : TrackSt) : State :=
  let new : Track := ⟨mem, addr, st, 0⟩
  if s.intg.track.length < 64 then
    { s with intg := { s.intg with track := s.intg.track ++ [new] } }
  else
    let victim :=
      match s.intg.track.find? (fun t => t.st = .pending) with
      | some t => some t
      | none => s.intg.track.find? (fun t => t.st = .watch)
    match victim with
    | none => s
    | some v =>
      let s1 := { s with intg := { s.intg with track := s.intg.track.erase v ++ [new] } }
      satBump (rcEvent s1 Reg.intTrackStat (fget s1 Reg.intTrackStat 15 0) 1 (fun a b => a + b)) Reg.intTrackStat 15 0 1

/-- The macro of an on-die word's address (R410, R424): macro in [19:12], word in [11:0]. -/
def macroOf (addr : Nat) : Nat := addr / 4096

/-- A word classed sticky (R429): it takes a spare of its macro, or raises RETIRE_REQ. `found`: it has an entry. -/
def sticky (s : State) (mem addr master : Nat) (injected : Bool) (synd : Nat) : State :=
  let s1 := intLog (bump s (Reg.intCnt mem 2) 1) synd 3 mem master injected addr
  let k := mem * 256 + macroOf addr
  if mem ≠ 1 ∧ s.intg.spares.nat k < 8 then
    let s2 := { s1 with intg := { s1.intg with
                  spares := s1.intg.spares.setNat k (s1.intg.spares.nat k + 1), recordDirty := true } }
    let s3 := setFlip (trackFree s2 mem addr) mem addr none
    setEvt (intLog s3 synd 4 mem master injected addr) Reg.intEvt 7
  else
    let s2 := if (trackOf s1 mem addr).isSome then trackSet s1 mem addr .retire 0 else trackAdd s1 mem addr .retire
    setEvt (intLog s2 synd 5 mem master injected addr) Reg.intEvt 8

/-- A corrected read that the scrubber did not make (R423). -/
def trackCorrected (s : State) (mem addr master : Nat) (f : Flip) (synd : Nat) : State :=
  let s1 := bump s (Reg.intCnt mem 0) 1
  match trackOf s mem addr with
  | none =>
    trackAdd (setEvt (intLog s1 synd 1 mem master f.injected addr) Reg.intEvt 0) mem addr .pending
  | some t =>
    match t.st with
    | .watch =>
      if t.count + 1 ≥ 3 then sticky s1 mem addr master f.injected synd
      else trackSet s1 mem addr .watch (t.count + 1)
    | .pending => s1
    | .retire => s1
    | .poison => s1

/-- An uncorrectable read (R423). -/
def trackUncorrectable (s : State) (mem addr master : Nat) (f : Flip) (synd : Nat) : State :=
  let s1 := bump s (Reg.intCnt mem 1) 1
  match trackOf s mem addr with
  | some t =>
    if t.st = .poison then s1
    else trackSet (setEvt (intLog s1 synd 2 mem master f.injected addr) Reg.intEvt 1) mem addr .poison 0
  | none => trackAdd (setEvt (intLog s1 synd 2 mem master f.injected addr) Reg.intEvt 1) mem addr .poison

/-- How the scrubber finds a word: the worst of its codes, and its syndrome (R411, R412). -/
def scrubClass (mem mask : Nat) : Ecc × Nat :=
  if mem ≠ 0 then ((ecc72 mask).1, Config.syndrome72 mask)
  else
    let find := fun (e : Ecc) => (List.range 8).find? (fun b => (ecc13 (byteMask mask b)).1 = e)
    let synd := fun (b : Nat) => b * 32 + Config.syndrome13 (byteMask mask b) % 32
    match find .uncorrectable with
    | some b => (.uncorrectable, synd b)
    | none =>
      match find .corrected with
      | some b => (.corrected, synd b)
      | none => (.clean, 0)

/-- A scrubber visit of a word (R423, R426): what it logs and tracks, and whether the corrected word is to be written
back: at once on die, by a conditional write in DRAM. -/
def trackVisit (s : State) (mem addr master : Nat) (hit : Option Flip) : State × Bool :=
  match hit with
  | none =>
    match trackOf s mem addr with
    | some t =>
      match t.st with
      | .pending => (trackFree s mem addr, false)
      | .watch => (trackFree s mem addr, false)
      | .retire => (s, false)
      | .poison => (s, false)
    | none => (s, false)
  | some f =>
    let e := scrubClass mem f.mask
    match e.1 with
    | .clean => (s, false)
    | .uncorrectable => (trackUncorrectable s mem addr master f e.2, false)
    | .corrected =>
      let s1 := bump s (Reg.intCnt mem 0) 1
      match trackOf s mem addr with
      | none => (trackAdd (setEvt (intLog s1 e.2 1 mem master f.injected addr) Reg.intEvt 0) mem addr .watch, true)
      | some t =>
        match t.st with
        | .pending => (trackSet s1 mem addr .watch 0, true)
        | .watch =>
          if t.count + 1 ≥ 3 then (sticky s1 mem addr master f.injected e.2, true)
          else (trackSet s1 mem addr .watch 0, true)
        | .retire => (s1, true)
        | .poison => (s1, false)

/-- A scrub visit of an on-die word: the corrected word is written back at once (R426). -/
def trackScrub (s : State) (mem addr master : Nat) : State :=
  let r := trackVisit s mem addr master (flipAt s mem addr)
  if r.2 then setFlip r.1 mem addr none else r.1

/-- A read of a corrupted word by a master: log and track it (R423). -/
def trackRead (s : State) (mem addr master : Nat) (f : Flip) : State :=
  match (ecc72 f.mask).1 with
  | .clean => s
  | .corrected => trackCorrected s mem addr master f (Config.syndrome72 f.mask)
  | .uncorrectable => trackUncorrectable s mem addr master f (Config.syndrome72 f.mask)

/-- A whole-word write: the word is good again, and a POISON entry is freed (R413, R423). -/
def wordCleaned (s : State) (mem addr : Nat) : State :=
  let s1 := if (flipAt s mem addr).isSome then setFlip s mem addr none else s
  match trackOf s1 mem addr with
  | some t => if t.st = .poison then trackFree s1 mem addr else s1
  | none => s1

/-- The flip mask, armed and aimed at this word (R435)? -/
def flipHits (s : State) (mem addr : Nat) : Bool :=
  flag s Reg.intFlipCtrl 31 && decide (fget s Reg.intFlipCtrl 21 16 = mem) &&
    (flag s Reg.intFlipCtrl 30 || decide (fget s Reg.intFlipAddr 35 0 = addr))

/-- The flip mask's 128 bits. -/
def flipMask (s : State) : Nat :=
  fget s (Reg.intFlipMask 0) 31 0 + fget s (Reg.intFlipMask 1) 31 0 * 2 ^ 32 +
    fget s (Reg.intFlipMask 2) 31 0 * 2 ^ 64 + fget s (Reg.intFlipMask 3) 31 0 * 2 ^ 96

/-- The armed fault is applied to a write of this word, with the mask bits the write can carry (R435). -/
def flipApply (s : State) (mem addr mask : Nat) : State :=
  let s1 := if mask = 0 then s else setFlip s mem addr (some ⟨mask, true⟩)
  let s2 := fput s1 Reg.intFlipCtrl 31 31 0
  let s3 := if flag s Reg.intFlipCtrl 30 then wr s2 Reg.intFlipAddr addr else s2
  setEvt s3 Reg.intEvt 4

/-- A whole-word write of an on-die (72,64) memory or of DRAM: the word is cleaned, then an armed fault may hit it. -/
def wordWritten (s : State) (mem addr : Nat) : State :=
  let s1 := wordCleaned s mem addr
  if flipHits s1 mem addr then flipApply s1 mem addr (flipMask s1 % 2 ^ 72) else s1

/-- A read of one word of an on-die memory by a unit: how it decodes, the error left in the data, and the tracking. -/
def wordRead (s : State) (mem addr master : Nat) : State × Ecc × Nat :=
  match flipAt s mem addr with
  | none => (s, .clean, 0)
  | some f => (trackRead s mem addr master f, ecc72 f.mask)

/-- The error that a read of word `addr` of an on-die memory leaves in its data (R412). -/
def residual (s : State) (mem addr : Nat) : Nat :=
  match flipAt s mem addr with
  | none => 0
  | some f => (ecc72 f.mask).2

/-- Part of a word of an on-die memory is written: the word is good again when its old data could be corrected, and is stored
poisoned when it could not (R413); an armed fault may hit the write (R435). -/
def wordMerged (s : State) (mem addr : Nat) : State :=
  let s1 := match flipAt s mem addr with
    | none => s
    | some f => setFlip s mem addr (if (ecc72 f.mask).1 = .uncorrectable then some ⟨poison72, f.injected⟩ else none)
  let left := match flipAt s1 mem addr with
    | none => 0
    | some f => f.mask
  if flipHits s1 mem addr then flipApply s1 mem addr (left ^^^ flipMask s1 % 2 ^ 72) else s1

/-- `n` words from `lo` of an on-die memory are written whole at once (R413, R423); an armed fault hits one of them, the first
with ANY (R435). -/
def rangeWritten (s : State) (mem lo n : Nat) : State :=
  let inR := fun a => decide (lo ≤ a) && decide (a < lo + n)
  let s1 := { s with intg := { s.intg with
    flips := s.intg.flips.filter (fun (e : Nat × Option Flip) => !(decide (e.1 / 2 ^ 36 = mem) && inR (e.1 % 2 ^ 36)))
    track := s.intg.track.filter (fun t => !(decide (t.mem = mem) && inR t.addr && decide (t.st = .poison))) } }
  let a := if flag s1 Reg.intFlipCtrl 30 then lo else fget s1 Reg.intFlipAddr 35 0
  if n ≠ 0 && inR a && flipHits s1 mem a then flipApply s1 mem a (flipMask s1 % (if mem = 0 then 2 ^ 104 else 2 ^ 72)) else s1

/-- Some of `n` words from `lo` of an on-die memory reads uncorrectable (R412). -/
def badWords (s : State) (mem lo n : Nat) : Bool :=
  (List.range n).any (fun k => match flipAt s mem (lo + k) with
    | none => false
    | some f => decide ((ecc72 f.mask).1 = .uncorrectable))

/-- A master reads words of an on-die memory: they are logged and tracked (R423). -/
def readWords (s : State) (mem master : Nat) (ws : List Nat) : State :=
  ws.foldl (fun st w => (wordRead st mem w master).1) s

/-- Parts of `n` words from `lo` of an on-die memory are written (R413). -/
def mergeWords (s : State) (mem lo n : Nat) : State :=
  (List.range n).foldl (fun st k => wordMerged st mem (lo + k)) s

/-- Uncorrectable control state (R425): memories 0x0B–0x10. -/
def ctrlUe (s : State) : State := setEvt s Reg.intEvt 10

/-- A unit reads words of its control state and uses them as read (R423, R425). -/
def ctrlRead (s : State) (mem master : Nat) (ws : List Nat) : State :=
  let s1 := readWords s mem master ws
  if ws.any (fun w => badWords s mem w 1) then ctrlUe s1 else s1

/-- The page-retire entry in force for a page, if there is one (R430). -/
def retireOf (s : State) (page : Nat) : Option Retire :=
  ((s.intg.retire.map (fun e => e.2)).filterMap id).find? (fun r => r.page = page ∧ r.inForce)

/-- Where a page's accesses go: to its spare, and on if that page has been retired in its turn (R430). -/
def physPage (s : State) (fuel page : Nat) : Nat :=
  match fuel with
  | 0 => page
  | k + 1 =>
    match retireOf s page with
    | some r => physPage s k r.spare
    | none => page

/-- Where a granule lies: a retired page's accesses go to its spare (R430). -/
def physGran (s : State) (g : Nat) : Nat := physPage s s.intg.retire.length (g / 64) * 64 + g % 64

/-- The copy of a retirement still holds accesses to the page (R430). -/
def retireBusy (s : State) (g : Nat) : Bool :=
  match retireOf s (g / 64) with
  | some r => r.busyTo.isSome
  | none => false

/-- The words or granules that a march takes together: a window, or the region of a destructive march (R437, R438). -/
def marchWin (m : March) : Nat := if m.preserving then (if m.mem = 1 then 4 else 32) else m.len

/-- The accesses a march makes on each word or granule: the 10 of March C− between the copies of a preserving march, or
before the zero write of a destructive one (R436–R438). -/
def marchEach (m : March) : Nat := if m.preserving then 12 else 11

/-- Every access of a march. -/
def marchTotal (m : March) : Nat := marchEach m * m.len

/-- Access k of March C− on u words or granules: which, and whether it writes (R436). -/
def marchElement (u k : Nat) : Nat × Bool :=
  if k < u then (k, true)
  else if k < 9 * u then
    let e := (k - u) / (2 * u)
    let i := (k - u) % (2 * u) / 2
    (if e < 2 then i else u - 1 - i, decide ((k - u) % 2 = 1))
  else (k - 9 * u, false)

/-- Access k of a march: the word or granule of its memory, and whether it writes (R436–R438). -/
def marchAccess (m : March) (k : Nat) : Nat × Bool :=
  let u := marchWin m
  let lo := m.start + k / (marchEach m * u) * u
  let j := k % (marchEach m * u)
  let head := if m.preserving then u else 0
  if j < head then (lo + j, false)
  else if j < head + 10 * u then
    let e := marchElement u (j - head)
    (lo + e.1, e.2)
  else (lo + (j - head - 10 * u), true)

/-- The words or granules that k accesses of a march have finished. -/
def marchFinished (m : March) (k : Nat) : Nat :=
  let u := marchWin m
  let per := marchEach m * u
  k / per * u + (k % per - (per - u))

/-- A word or granule of a memory stands in the march's holding buffer: copied there and not yet copied back (R438). -/
def inBuffer (s : State) (mem a : Nat) : Bool :=
  match s.intg.march with
  | none => false
  | some m =>
    let u := marchWin m
    let lo := m.start + s.intg.marchStep / (12 * u) * u
    let j := s.intg.marchStep % (12 * u)
    m.preserving && decide (m.mem = mem) && decide (s.intg.marchStep < marchTotal m) && decide (lo + (j - 11 * u) ≤ a) &&
      decide (a < lo + min j u)

end Sys2Proof.Machine
end

