-- ==== Sys2Proof/Machine/Regulator.lean ====
section
/-!
DEFINITION. The regulator (R346–R373) and the DRAM controller beneath it (R441, R442): presenting requests, ranking
them, granting slots and granules, charging classes, budgets and coverage, misses, and serving granted granules.
-/
namespace Sys2Proof.Machine

/-- The class of a master (R348). -/
def clsOf (s : State) (m : Nat) : Nat := fget s (Reg.rglMap m) 2 0

/-- The LAT_TARGET in force of a class (R359: a write counts from the next window start). -/
def latOf (s : State) (c : Nat) : Nat := bitsOf (s.rgl.clsNow.nat c) 63 48

/-- The account of a class for slots (true) or granules (R349). -/
def account (s : State) (slot : Bool) (c : Nat) : Nat := if slot then s.rgl.slotLeft.nat c else s.rgl.granLeft.nat c

/-- The ceiling in force of a class for a resource; 0 = none (R354, R366). -/
def ceilOf (s : State) (slot : Bool) (c : Nat) : Nat :=
  if slot then bitsOf (s.rgl.ceilNow.nat c) 10 0 else bitsOf (s.rgl.ceilNow.nat c) 26 16

/-- The class has reached its ceiling for a resource in this window (R354). -/
def atCeil (s : State) (slot : Bool) (c : Nat) : Bool :=
  let k := ceilOf s slot c
  k ≠ 0 && decide ((if slot then s.rgl.slotGot.nat c else s.rgl.granGot.nat c) ≥ k)

/-- A request that is presented by now. -/
def waitingNow (s : State) (r : Req) : Bool := r.since ≤ s.cycle

/-- A request's wait (R350). -/
def waitOf (s : State) (r : Req) : Nat := s.cycle - r.since

/-- The wait of the oldest waiting request of a class, as the cycle began: requests granted in this cycle count (R350). -/
def oldestWait (s : State) (c : Nat) : Option Nat :=
  ((s.rgl.reqs ++ (nowSt s).took).filter (fun r => waitingNow s r && decide (clsOf s r.master = c))).foldl
    (fun a r => match a with
      | none => some (waitOf s r)
      | some w => some (max w (waitOf s r))) none

/-- A class's step (R350). -/
def classStep (s : State) (c : Nat) : Nat :=
  match oldestWait s c with
  | none => 0
  | some w =>
    let t := latOf s c
    if w < cdiv t 2 then 0
    else if w < cdiv (3 * t) 4 then 1
    else if w < cdiv (9 * t) 10 then 2
    else 3

/-- A master's urgency (R351): the partner's, the host's, or CALM. -/
def urgOf (s : State) (m : Nat) : Nat :=
  if m < 32 then s.rgl.urg.nat m
  else if m = 34 then acting s (Reg.rglHostUrg 0) (rd s (Reg.rglHostUrg 0)) % 4
  else if m = 35 then acting s (Reg.rglHostUrg 1) (rd s (Reg.rglHostUrg 1)) % 4
  else 0

/-- The rank of a request, smallest first: the five keys of R352. -/
def rankOf (s : State) (slot : Bool) (m : Nat) (wait : Nat) : Nat :=
  let c := clsOf s m
  let k1 := if account s slot c > 0 then 0 else 1
  let step := max (classStep s c) (urgOf s m)
  (((k1 * 4 + (3 - step)) * 2 ^ 16 + latOf s c) * 2 ^ 48 + (2 ^ 48 - 1 - wait % 2 ^ 48)) * 64 + m

/-- The rank of a request for its resource. -/
def reqRank (s : State) (r : Req) : Nat := rankOf s r.slot r.master (waitOf s r)

/-- Requests of a master presented and not yet granted (R354). -/
def waitingOf (s : State) (m : Nat) : Nat :=
  (s.rgl.reqs.filter (fun r => waitingNow s r && decide (r.master = m))).length

/-- Posted DRAM writes in flight (R354, R441). -/
def postedN (s : State) : Nat := s.drc.writes.length

/-- A posted write of the master waits for its grant. -/
def writeWaits (s : State) (m : Nat) : Bool :=
  s.rgl.reqs.any (fun r => decide (r.master = m) && waitingNow s r && r.grans.any (fun g => g.write))

/-- Why a master is held: 0 not, 1 CEILING, 2 QUEUE, 3 POSTED when its next request is a posted write (R354);
`nextIsWrite`: its unit has one to present. -/
def holdCause (s : State) (m : Nat) (nextIsWrite : Bool) : Nat :=
  let c := clsOf s m
  if atCeil s true c || atCeil s false c then 1
  else if waitingOf s m ≥ 64 then 2
  else if (nextIsWrite || writeWaits s m) && decide (postedN s ≥ 256) then 3
  else 0

/-- The master presents no new work (R354, R355). -/
def heldM (s : State) (m : Nat) (nextIsWrite : Bool) : Bool := holdCause s m nextIsWrite ≠ 0

/-- Present a request to the regulator from cycle `since`. -/
def present (s : State) (m : Nat) (slot : Bool) (p : Purpose) (since : Nat) (gs : List Gran) : State :=
  let r : Req := ⟨s.rgl.nextId, m, slot, p, since, decide (account s slot (clsOf s m) > 0), false, false, gs⟩
  { s with rgl := { s.rgl with nextId := s.rgl.nextId + 1, reqs := s.rgl.reqs ++ [r] } }

/-- Requests presented in this cycle are under guarantee or not by the accounts of this cycle (R349, R360). -/
def judgeUnder (s : State) : State :=
  { s with rgl := { s.rgl with reqs := s.rgl.reqs.map (fun r =>
    if r.since = s.cycle then { r with under := decide (account s r.slot (clsOf s r.master) > 0) } else r) } }

/-- The first piece of parked work of master m is presented, up to n times, while its time has come and the master is not held
(R354). -/
def offerGo (m n : Nat) (s : State) : State :=
  match n with
  | 0 => s
  | k + 1 =>
    match s.rgl.parked.find? (fun r => r.master = m) with
    | none => s
    | some r =>
      if r.since ≤ s.cycle && !heldM s m (r.grans.any (fun g => g.write)) then
        offerGo m k (present { s with rgl := { s.rgl with parked := s.rgl.parked.erase r } } m false r.purpose s.cycle r.grans)
      else s

/-- The sweeper, the scrubber and the march engine present what they can (R355). -/
def offerAll (s : State) : State := [43, 44, 45].foldl (fun st m => offerGo m st.rgl.parked.length st) s

/-- One of them has work for the regulator, from cycle `since` on and when it is not held (R354, R355). -/
def offer (s : State) (m : Nat) (p : Purpose) (since : Nat) (gs : List Gran) : State :=
  offerAll { s with rgl := { s.rgl with parked := s.rgl.parked ++ [⟨0, m, false, p, since, false, false, false, gs⟩] } }

/-- A master asks for granules from cycle `since` on: the three that pause between granules park their work. -/
def ask (s : State) (m : Nat) (p : Purpose) (since : Nat) (gs : List Gran) : State :=
  if 43 ≤ m ∧ m ≤ 45 then offer s m p since gs else present s m false p since gs

/-- Withdraw the requests a unit gives up (a reset of its work, R202, R270). -/
def withdraw (s : State) (p : Req → Bool) : State :=
  { s with rgl := { s.rgl with
    reqs := s.rgl.reqs.filter (fun r => !p r)
    parked := s.rgl.parked.filter (fun r => !p r) } }

/-- Record one miss: counted and latched always, logged once per class, kind and resource in each window (R360, R361). -/
def recordMiss (s : State) (c kind res m wait detail : Nat) : State :=
  let s1 := setEvt (bump s (Reg.rglCnt c 5) 1) Reg.rglEvt 0
  let k := c * 64 + kind * 4 + res
  if s.rgl.logged.contains k then s1
  else
    let s2 := { s1 with rgl := { s1.rgl with logged := s1.rgl.logged ++ [k] } }
    logPut s2 Reg.rglMissHead Reg.rglMissTail Reg.rglMissOvf 32 Reg.rglMiss Reg.rglEvt 1 (nowNs s)
      (wait % 65536 * 2 ^ 48 + detail % 65536 * 2 ^ 32 + kind * 2 ^ 28 + res * 2 ^ 26 + classStep s c * 2 ^ 24 +
        c * 2 ^ 16 + m)

/-- Charge a grant of `n` units to a master's class (R349, R373). -/
def charge (s : State) (slot : Bool) (m n : Nat) : State :=
  let c := clsOf s m
  let s1 := bump s (Reg.rglCnt c (if slot then 0 else 1)) n
  if slot then
    { s1 with rgl := { s1.rgl with
        slotLeft := s1.rgl.slotLeft.setNat c (s1.rgl.slotLeft.nat c - n)
        slotGot := s1.rgl.slotGot.setNat c (s1.rgl.slotGot.nat c + n) } }
  else
    { s1 with rgl := { s1.rgl with
        granLeft := s1.rgl.granLeft.setNat c (s1.rgl.granLeft.nat c - n)
        granGot := s1.rgl.granGot.setNat c (s1.rgl.granGot.nat c + n) } }

/-- A request's wait ends: the class's longest wait is kept (R369). -/
def noteWait (s : State) (m w : Nat) : State :=
  let c := clsOf s m
  { rcEvent s (Reg.rglClsStat c) (s.rgl.waitMax.nat c) (satW 16 w) max with rgl := { s.rgl with waitMax := s.rgl.waitMax.setNat c (max (s.rgl.waitMax.nat c) (satW 16 w)) } }

/-- Take a request out of the waiting list. -/
def dropReq (s : State) (id : Nat) : State :=
  { s with
    rgl := { s.rgl with reqs := s.rgl.reqs.filter (fun r => r.id ≠ id) }
    now := { nowSt s with took := (nowSt s).took ++ s.rgl.reqs.filter (fun r => r.id = id) } }

/-- Slots per µs of a throttle level (R201). -/
def levelSlots (l : Nat) : Nat := if l = 0 then 1600 else if l = 1 then 800 else if l = 2 then 400 else 0

/-- The slots already used in this cycle. -/
def slotsUsed (s : State) : Bool × Bool := if s.rgl.slotCycle = s.cycle then (s.rgl.slot0, s.rgl.slot1) else (false, false)

/-- Is slot 0 offered in this cycle (R201)? -/
def slot0Offered (s : State) : Bool :=
  actLevel s = 0 || actLevel s = 1 || (actLevel s = 2 && s.cycle % 2 = 0)

/-- Is slot 1 offered in this cycle (R201)? -/
def slot1Offered (s : State) : Bool := actLevel s = 0

/-- Mark a slot used in this cycle. -/
def takeSlot (s : State) (one : Bool) : State :=
  let u := slotsUsed s
  { s with rgl := { s.rgl with slotCycle := s.cycle, slot0 := u.1 || !one, slot1 := u.2 || one } }

/-- Is the request a row access (R198)? -/
def isRow (r : Req) : Bool :=
  match r.purpose with
  | .row _ => true
  | _ => false

/-- Slot requests that wait and whose class is not at its ceiling. -/
def slotWaiting (s : State) : List Req :=
  s.rgl.reqs.filter (fun r => r.slot && waitingNow s r && !atCeil s true (clsOf s r.master))

/-- The first-ranked search for a slot. -/
def bestSearch (s : State) : Option Req := minByKey (reqRank s) ((slotWaiting s).filter (fun r => !isRow r))

/-- Classes in latency-target order (R358). -/
def coverOrder (s : State) : List Nat :=
  (List.range 8).mergeSort (fun a b => latOf s a * 8 + a ≤ latOf s b * 8 + b)

/-- Coverage of one resource: (class, guarantee, cover) in latency-target order (R358). -/
def coverWalk (left : Nat) (l : List (Nat × Nat)) : List (Nat × Nat × Nat) :=
  match l with
  | [] => []
  | (c, g) :: t => (c, g, min g left) :: coverWalk (left - min g left) t

/-- The guarantees in force of one resource, in latency-target order. -/
def guarList (s : State) (slot : Bool) : List (Nat × Nat) :=
  (coverOrder s).map (fun c => (c, if slot then bitsOf (s.rgl.clsNow.nat c) 10 0 else bitsOf (s.rgl.clsNow.nat c) 42 32))

/-- Recompute coverage from the budget in force, flag and log the uncovered classes (R358, R360). -/
def recover (s : State) : State :=
  let ws := coverWalk (fget s Reg.rglNow 10 0) (guarList s true)
  let wg := coverWalk (fget s Reg.rglNow 42 32) (guarList s false)
  let mark := fun (st : State × Nat) (res : Nat) (w : Nat × Nat × Nat) =>
    if w.2.2 < w.2.1 then
      (setEvt (recordMiss st.1 w.1 3 res 63 0 w.2.2) Reg.rglEvt 4, st.2 ||| 2 ^ w.1)
    else st
  let r1 := ws.foldl (fun st w => mark st 0 w) (s, 0)
  let r2 := wg.foldl (fun st w => mark st 1 w) r1
  let s1 := fput r2.1 Reg.rglNow 63 56 r2.2
  { s1 with rgl := { s1.rgl with
      coverS := ws.foldl (fun m w => m.setNat w.1 w.2.2) []
      coverG := wg.foldl (fun m w => m.setNat w.1 w.2.2) [] } }

/-- The budget in force (R356). -/
def budgetNow (s : State) : Nat × Nat :=
  let g := fget s Reg.rglBudget 26 16
  (min (fget s Reg.rglBudget 10 0) (levelSlots s.tca.level), if s.drc.double then g * 97 / 100 else g)

/-- Write the budget in force, the throttle level and the refresh state into RGL_NOW; a change of either value is a
derating or restoration (R357). `initial`: the first computation, at the end of apply (R362). -/
def rebudget (s : State) (initial : Bool) : State :=
  let b := budgetNow s
  let old := (fget s Reg.rglNow 10 0, fget s Reg.rglNow 42 32)
  let s1 := fput (fput (fput (fput s Reg.rglNow 55 54 s.tca.level) Reg.rglNow 53 53 (b2n s.drc.double))
    Reg.rglNow 42 32 b.2) Reg.rglNow 10 0 b.1
  if initial then
    let declared := (fget s Reg.rglBudget 10 0, fget s Reg.rglBudget 26 16)
    let s2 := { s1 with rgl := { s1.rgl with budgetOn := true } }
    recover (if b ≠ declared then setEvt s2 Reg.rglEvt 2 else s2)
  else if s.rgl.budgetOn && decide (b ≠ old) then recover (setEvt s1 Reg.rglEvt 2)
  else if s.rgl.budgetOn then s1
  else s

/-- The first misses of requests presented under guarantee that have waited LAT_TARGET cycles (R360). -/
def latencyMissOf (s : State) : Option Req :=
  s.rgl.reqs.find? (fun r => r.under && !r.missed && waitingNow s r && decide (waitOf s r ≥ latOf s (clsOf s r.master)))

/-- The channel pair of a granule (R237, R441). -/
def pairOf (s : State) (g : Nat) : Nat := physGran s g % 4

/-- The pair with a given index; absent pairs never accept. -/
def pairAt (s : State) (p : Nat) : PairSt :=
  match s.drc.pairs[p]? with
  | some x => x
  | none => ⟨0, 0, 0, 0, none⟩

/-- Change one pair. -/
def setPair (s : State) (p : Nat) (f : PairSt → PairSt) : State :=
  { s with drc := { s.drc with pairs := updAt s.drc.pairs p f } }

/-- The pair of a granule can accept it now (R353, R441): not busy, no retirement copy holds its page, and for a write fewer
than 256 posted writes are in flight (R38). -/
def granFree (s : State) (g : Gran) : Bool :=
  decide ((pairAt s (pairOf s g.g)).freeAt ≤ s.cycle) && !retireBusy s g.g && (!g.write || decide (postedN s < 256))

/-- The first granule of a request that a pair can accept. -/
def nextGran (s : State) (r : Req) : Option Gran := r.grans.find? (granFree s)

/-- Granule requests that can take a granule now: waiting, not barred by a ceiling unless their round has started (R353). -/
def granWaiting (s : State) : List Req :=
  s.rgl.reqs.filter (fun r =>
    !r.slot && waitingNow s r && (r.started || !atCeil s false (clsOf s r.master)) && (nextGran s r).isSome)

/-- The first-ranked granule request: started rounds come before every other (R353). -/
def bestGran (s : State) : Option Req :=
  minByKey (fun r => (if r.started then 0 else 2 ^ 96) + reqRank s r) (granWaiting s)

/-- Granules already granted in this cycle. -/
def gransUsed (s : State) : Nat := if s.rgl.granCycle = s.cycle then s.rgl.granUsed else 0

/-- The 64 bytes a granule holds. -/
def granBytes (s : State) (g : Nat) : List Byte := memBytes s.drc.mem (physGran s g * 64) 64

/-- Corrupted words of a granule: word, error pattern, injected. -/
def granErrs (s : State) (g : Nat) : List (Nat × Nat × Bool) :=
  (List.range 8).filterMap (fun w =>
    match flipAt s 1 (physGran s g * 8 + w) with
    | some f => some (w, f.mask, f.injected)
    | none => none)

/-- The data a read returns: corrected words corrected, uncorrectable words as they stand (R412). -/
def readThrough (data : List Byte) (errs : List (Nat × Nat × Bool)) : List Byte :=
  errs.foldl (fun d e =>
    overlay d (8 * e.1) (leBytes 8 (fieldAt d (8 * e.1) 8 ^^^ (ecc72 e.2.1).2))) data

/-- Some word of the granule reads uncorrectable. -/
def anyBad (errs : List (Nat × Nat × Bool)) : Bool :=
  errs.any (fun e => (ecc72 e.2.1).1 = .uncorrectable)

/-- Log and track the corrupted words a read met (R422, R423), at the arrival of its data. -/
def trackErrs (s : State) (master g : Nat) (errs : List (Nat × Nat × Bool)) : State :=
  errs.foldl (fun st e => trackRead st 1 (physGran s g * 8 + e.1) master ⟨e.2.1, e.2.2⟩) s

/-- Serve a read: its data is what the granule holds now (R441). -/
def serveRead (s : State) (rid reqId g : Nat) : State :=
  let errs := granErrs s g
  let r : ReadFl := ⟨s.cycle + 180, rid, reqId, g, readThrough (granBytes s g) errs, anyBad errs, errs⟩
  { s with drc := { s.drc with reads := s.drc.reads ++ [r] } }

/-- One 64-bit word of a granule after a byte-masked write: written whole it is good again; written in part it is
merged, and an uncorrectable word is stored poisoned (R413, R441). -/
def mergeWord (s : State) (g w : Nat) (covered : Nat) : State :=
  let a := physGran s g * 8 + w
  if covered = 0 then s
  else if covered ≥ 8 then wordWritten s 1 a
  else
    let s1 := bump s (Reg.drcCnt 2) 1
    match flipAt s1 1 a with
    | none => s1
    | some f =>
      let e := ecc72 f.mask
      let old := memBytes s1.drc.mem (a * 8) 8
      let fixed := leBytes 8 (ofLe old ^^^ e.2)
      let s2 := { s1 with drc := { s1.drc with mem := memPuts s1.drc.mem (a * 8) fixed } }
      match e.1 with
      | .clean => s2
      | .corrected => setFlip s2 1 a none
      | .uncorrectable => setFlip s2 1 a (some ⟨poison72, f.injected⟩)

/-- Bytes of a write that fall in word `w`. -/
def covers (bytes : List (Nat × Byte)) (w : Nat) : Nat := (bytes.filter (fun b => b.1 / 8 = w)).length

/-- Does a write cover part of some word (R441)? -/
def isMerge (gr : Gran) : Bool :=
  gr.write && (gr.nib ≠ []) || gr.write && (List.range 8).any (fun w => decide (covers gr.bytes w ≠ 0) && decide (covers gr.bytes w < 8))

/-- Put a write's bytes into the granule. -/
def storeBytes (s : State) (g : Nat) (bytes : List (Nat × Byte)) : State :=
  { s with drc := { s.drc with
      mem := bytes.foldl (fun m b => memPut m (physGran s g * 64 + b.1) b.2) s.drc.mem } }

/-- One 4-bit counter of a granule's bytes (R251). -/
def nibble (data : List Byte) (n : Nat) : Nat :=
  let b := fieldAt data (n / 2) 1
  if n % 2 = 0 then b % 16 else b / 16

/-- Bytes after stepping counters; a counter at 15 stays (R251, R252). -/
def nibBytes (data : List Byte) (l : List (Nat × Bool)) : List (Nat × Byte) :=
  match l with
  | [] => []
  | (n, up) :: t =>
    let v := nibble data n
    let v1 := if v = 15 then 15 else if up then v + 1 else v - 1
    let b := fieldAt data (n / 2) 1
    let b1 := if n % 2 = 0 then b / 16 * 16 + v1 else v1 * 16 + b % 16
    let data1 := overlay data (n / 2) [BitVec.ofNat 8 b1]
    (n / 2, BitVec.ofNat 8 b1) :: nibBytes data1 t

/-- Serve a write: made if its condition holds (R325), with merges and an armed fault (R435, R441). -/
def storeGran (s : State) (gr : Gran) : State × Bool :=
  let data := readThrough (granBytes s gr.g) (granErrs s gr.g)
  let ok := gr.cond.all (fun b => decide (data[b.1]? = some b.2)) &&
    (gr.nz = [] || gr.nz.any (fun i => decide (data[i]? ≠ some 0)))
  if ok then
    let bytes := gr.bytes ++ nibBytes data gr.nib
    let s1 := (List.range 8).foldl (fun st w => mergeWord st gr.g w (covers bytes w)) s
    (gr.bad.foldl (fun st w => setFlip st 1 (physGran s gr.g * 8 + w) (some ⟨poison72, false⟩)) (storeBytes s1 gr.g bytes), true)
  else (s, false)

/-- A drain's write is made only while its stash entry is still valid and unchanged (R260). -/
def drainAlive (s : State) (p : Purpose) : Bool :=
  match p with
  | .upkeep id =>
    (match s.hsh.upkeep.find? (fun u => u.id = id) with
     | some u => u.phase ≠ 2 ||
        decide (KMap.find s.hsh.stash (u.table * 64 + u.stash) = some ⟨u.lenix, u.entry⟩)
     | none => false)
  | _ => true

/-- A slot's bytes as they stand (R237). -/
def entryNow (s : State) (t : Nat) (d : TblDecl) (h : Nat) : List Byte :=
  slice (granBytes s (subBase s t d (hLenix h) + hBucket h)) (hSlot h * (fmtOf d).size) (fmtOf d).size

/-- A moving entry as its slot holds it now, refreshed stamp and result included (R254, R258); `e`: as it was read. An
entry that was removed meanwhile moves as an empty slot. -/
def liveAt (s : State) (t : Nat) (d : TblDecl) (src : Nat) (e : List Byte) : List Byte :=
  let x := entryNow s t d src
  if entKey (fmtOf d) x = entKey (fmtOf d) e ∧ entStamp (fmtOf d) x ≠ 0 then x else withStamp (fmtOf d) e 0

/-- The step of an INSERT's path that a write makes (R258): its table and the step. -/
def pathStep (s : State) (p : Purpose) : Option (Nat × TblDecl × Nat × Nat × List Byte × Option (Nat × Nat)) :=
  match p with
  | .hashCmd id =>
    (match s.hsh.ops.find? (fun o => decide (o.id = id) && decide (o.phase = .path)) with
     | some o => (match o.steps, tblOf s o.table with
       | x :: _, some d => some (o.table, d, x)
       | _, _ => none)
     | none => none)
  | _ => none

/-- The handle of the other copy of an entry in a slot or stash place that is being relocated (R254, R259, R262). -/
def twinOf (s : State) (t h : Nat) : Option Nat :=
  s.hsh.twin.findSome? (fun m =>
    if m.1 = t then (if m.2.1 = h then some m.2.2 else if m.2.2 = h then some m.2.1 else none) else none)

/-- A path's write is made only while its slot is free, or still holds the old copy of the entry moved just before: a drain
can have filled a slot whose entry was removed meanwhile (R258, R260). -/
def pathAlive (s : State) (p : Purpose) : Bool :=
  match pathStep s p with
  | none => true
  | some (t, d, g, slot, _, _) =>
    let e := slice (granBytes s g) (slot * (fmtOf d).size) (fmtOf d).size
    entStamp (fmtOf d) e = 0 || s.hsh.twin.any (fun m => decide (m.1 = t) && !hStash m.2.1 &&
      decide (subBase s t d (hLenix m.2.1) + hBucket m.2.1 = g) && decide (hSlot m.2.1 = slot))

/-- The write as it is served: a path step copies its entry as it stands now (R258). -/
def liveGran (s : State) (w : WriteFl) : Gran :=
  match pathStep s w.purpose with
  | some (t, d, _, slot, e, some m) => { w.gran with bytes := slotBytes (fmtOf d) slot (liveAt s t d m.1 e) }
  | _ => w.gran

/-- A served write makes or ends two copies of an entry (R258, R260): a path's move, its last write, a drain. -/
def noteTwin (s : State) (p : Purpose) : State :=
  let drop := fun (t : Nat) => s.hsh.twin.filter (fun m => decide (m.1 ≠ t) || hStash m.2.1)
  match pathStep s p with
  | some (t, d, _, _, e, some m) =>
    { s with hsh := { s.hsh with
      twin := drop t ++ (if entStamp (fmtOf d) (liveAt s t d m.1 e) ≠ 0 then [(t, m.1, m.2)] else []) } }
  | some (t, _, _, _, _, none) => { s with hsh := { s.hsh with twin := drop t } }
  | none =>
    match p with
    | .upkeep id =>
      (match s.hsh.upkeep.find? (fun u => decide (u.id = id) && decide (u.phase = 2)) with
       | some u => { s with hsh := { s.hsh with
           twin := s.hsh.twin ++ [(u.table, mkHandle true u.lenix 0 u.stash, mkHandle false u.lenix u.bucket u.slot)] } }
       | none => s)
    | _ => s

/-- The handle of a slot of a table's region. -/
def slotHandle (s : State) (t : Nat) (d : TblDecl) (g slot : Nat) : Nat :=
  match (List.range (subCount d)).find? (fun j =>
      decide (subBase s t d j ≤ g) && decide (g < subBase s t d j + subSize s t d j)) with
  | some j => mkHandle false j (g - subBase s t d j) slot
  | none => 0

/-- A stamp write has been served on one copy of an entry that has two by now: the other copy is written too (R254), unless
the same search has asked for that already. -/
def stampTwin (s : State) (w : WriteFl) (t : Nat) (rids : List Nat) : State :=
  match tblOf s t with
  | none => s
  | some d =>
    let f := fmtOf d
    let slot := (w.gran.bytes.headD (0, 0)).1 / f.size
    match twinOf s t (slotHandle s t d w.gran.g slot) with
    | none => s
    | some h =>
      let g := subBase s t d (hLenix h) + hBucket h
      if rids = [] || hStash h || s.drc.writes.any (fun x => decide (x.purpose = w.purpose) && decide (x.gran.g = g)) ||
          s.rgl.reqs.any (fun r => decide (r.purpose = w.purpose) && r.grans.any (fun x => decide (x.g = g))) then s
      else present s w.master false (.stampWrite t []) s.cycle
        [Gran.wr g (stampBytes f (hSlot h) (ofLe (w.gran.bytes.map (fun b => b.2))))]

/-- Serve a granted write now: its effect, its acknowledgement 200 cycles later, and the reads it held up (R323, R441). -/
def serveWrite (s : State) (w : WriteFl) : State :=
  let gr := liveGran s w
  let r := if drainAlive s w.purpose && pathAlive s w.purpose then storeGran s gr else (s, false)
  let s0 := if r.2 then { r.1 with hsh := (noteTwin s w.purpose).hsh } else r.1
  let c := clsOf s w.master
  let n := (if w.gran.rmw then 64 else 0) +
    (if r.2 then gr.bytes.length + (gr.nib.map (fun (x : Nat × Bool) => x.1 / 2)).eraseDups.length else 0)
  let s1 := bump s0 (Reg.rglCnt c 2) n
  let w1 := { w with ackAt := some (s.cycle + 200), done := r.2, blocked := [] }
  let s2 := { s1 with drc := { s1.drc with writes := s1.drc.writes.map (fun x => if x.wid = w.wid then w1 else x) } }
  let s3 := w.blocked.foldl (fun st b => serveRead st b.1 b.2 w.gran.g) s2
  match w.purpose with
  | .stampWrite t rids =>
    stampTwin { s3 with drc := { s3.drc with
      openReads := s3.drc.openReads.filter (fun o => !(rids.contains o.1 && decide (o.2 = w.gran.g))) } } w t rids
  | _ => s3

/-- Is this a descriptor's search read (R323), in this device or as a member of a welt (R390)? -/
def isDescRead (p : Purpose) : Bool :=
  match p with
  | .hashSearch (.desc _ _ _) _ _ _ => true
  | .hashSearch (.welt _) _ _ _ => true
  | _ => false

/-- The last held write still waiting for its granule (R323): later reads are served after it, and so after every one
granted before it. -/
def heldOn (s : State) (g : Nat) : Option WriteFl :=
  s.drc.writes.reverse.find? (fun w => w.ackAt.isNone && decide (w.gran.g = g))

/-- The round record of a request, opened at its first granule. -/
def openRound (s : State) (r : Req) : State :=
  let n := (r.grans.filter (fun g => !g.write)).length
  if n = 0 || s.drc.rounds.any (fun x => x.reqId = r.id) then s
  else
    let x : Round := ⟨r.id, r.master, r.purpose, n, [], []⟩
    { s with drc := { s.drc with rounds := s.drc.rounds ++ [x] } }

/-- What a grant takes: the class's account, the pair's time, and one of the cycle's two grants (R349, R353, R441). -/
def takeGrant (s : State) (r : Req) (gr : Gran) : State :=
  let s1 := charge s false r.master (if gr.rmw then 2 else 1)
  let s2 := setPair s1 (pairOf s gr.g) (fun x => { x with
    freeAt := s.cycle + (if gr.rmw || isMerge gr then 4 else 2)
    cls := some (clsOf s r.master) })
  { s2 with rgl := { s2.rgl with
    granCycle := s.cycle
    granUsed := gransUsed s + 1 } }

/-- A granule another requester wants stands in the march's holding buffer, where no grant is needed (R438). -/
def redirected (s : State) (r : Req) (gr : Gran) : Bool := decide (r.purpose ≠ .march) && inBuffer s 1 gr.g

/-- Grant one granule of a request (R352, R353, R441). -/
def grantGran (s : State) (r : Req) (gr : Gran) : State :=
  let s3 := if redirected s r gr then s else takeGrant s r gr
  let s4 := if physGran s gr.g ≠ gr.g then bump s3 (Reg.drcCnt 5) 1 else s3
  let rest := r.grans.erase gr
  let s5 := openRound s4 r
  let s6 := if rest = [] then dropReq s5 r.id
    else { s5 with rgl := { s5.rgl with
      reqs := s5.rgl.reqs.map (fun x => if x.id = r.id then { x with started := true, grans := rest } else x) } }
  let s7 := if rest = [] then noteWait s6 r.master (waitOf s r) else s6
  let rid := s7.drc.nextRid
  let s8 := { s7 with drc := { s7.drc with nextRid := rid + 1 } }
  if gr.write then
    let waits := if gr.held then (s8.drc.openReads.filter (fun o => o.2 = gr.g)).map (fun o => o.1) else []
    let w : WriteFl := ⟨rid, r.id, r.master, r.purpose, gr, none, waits, [], false⟩
    let s9 := bump { s8 with drc := { s8.drc with writes := s8.drc.writes ++ [w] } } (Reg.drcCnt 4) 1
    if waits = [] then serveWrite s9 w else s9
  else
    let s9 := bump (bump s8 (Reg.drcCnt 3) 1) (Reg.rglCnt (clsOf s r.master) 2) 64
    let s10 := { s9 with drc := { s9.drc with
      rounds := s9.drc.rounds.map (fun x => if x.reqId = r.id then { x with rids := x.rids ++ [rid] } else x)
      openReads := if isDescRead r.purpose then s9.drc.openReads ++ [(rid, gr.g)] else s9.drc.openReads } }
    match heldOn s10 gr.g with
    | some w =>
      { s10 with drc := { s10.drc with writes := s10.drc.writes.map (fun x =>
          if x.wid = w.wid then { x with blocked := x.blocked ++ [(rid, r.id)] } else x) } }
    | none => serveRead s10 rid r.id gr.g

/-- A held write whose search reads are all resolved (R323). -/
def servable (s : State) : Option WriteFl :=
  s.drc.writes.find? (fun w => w.ackAt.isNone && w.waits.all (fun i => s.drc.openReads.all (fun o => o.1 ≠ i)))

/-- Search reads resolved without a stamp write (R323): those of granules that get none. -/
def resolveReads (s : State) (rids stamped : List Nat) : State :=
  { s with drc := { s.drc with
    openReads := s.drc.openReads.filter (fun o => !(rids.contains o.1 && !stamped.contains o.2)) } }

/-- The first read whose data is due (R441). -/
def dueRead (s : State) : Option ReadFl := s.drc.reads.find? (fun r => r.due ≤ s.cycle)

/-- The first write whose acknowledgement is due (R441). -/
def dueAck (s : State) : Option WriteFl :=
  s.drc.writes.find? (fun w => match w.ackAt with
    | some t => decide (t ≤ s.cycle)
    | none => false)

/-- Deliver one read to its round: the tracking of its errors, and the round when it is complete. -/
def takeRead (s : State) (r : ReadFl) : State × Option Round :=
  let master := match s.drc.rounds.find? (fun x => x.reqId = r.reqId) with
    | some x => x.master
    | none => 50
  let s0 := { s with drc := { s.drc with reads := s.drc.reads.filter (fun x => x.rid ≠ r.rid) } }
  let scrubs := s.drc.rounds.any (fun x => decide (x.reqId = r.reqId) && (match x.purpose with
    | .scrub _ => true
    | .march => true
    | _ => false))
  let s1 := if scrubs then s0 else trackErrs s0 master r.g r.errs
  match s1.drc.rounds.find? (fun x => x.reqId = r.reqId) with
  | none => (s1, none)
  | some x =>
    let x1 := { x with left := x.left - 1, got := x.got ++ [(r.g, r.data, r.bad)] }
    if x1.left = 0 then
      ({ s1 with drc := { s1.drc with rounds := s1.drc.rounds.filter (fun y => y.reqId ≠ r.reqId) } }, some x1)
    else
      ({ s1 with drc := { s1.drc with rounds := s1.drc.rounds.map (fun y => if y.reqId = r.reqId then x1 else y) } }, none)

/-- Retire an acknowledged write from the posted writes in flight. -/
def takeAck (s : State) (w : WriteFl) : State :=
  { s with drc := { s.drc with writes := s.drc.writes.filter (fun x => x.wid ≠ w.wid) } }

/-- The granule data a round returned for granule `g`. -/
def gotData (x : Round) (g : Nat) : List Byte :=
  match x.got.find? (fun e => e.1 = g) with
  | some e => e.2.1
  | none => []

/-- Some granule of the round read uncorrectable. -/
def roundBad (x : Round) : Bool := x.got.any (fun e => e.2.2)

end Sys2Proof.Machine
end

