-- ==== Sys2Proof/Machine/Scratch.lean ====
section
/-!
DEFINITION. The scratchpad's bytes: reading them through their byte codes (R411, R412), writing them (R413, R435),
its protected ranges (R418, R420), who may reach what (R414, R417), and the accesses of the device's own engines.
-/
namespace Sys2Proof.Machine

/-- The size of the scratchpad: 512 KiB. -/
def spmSize : Nat := 0x80000

/-- The start of the vault (R418). -/
def vaultBase : Nat := 0x78000

/-- The end of the firmware code range (R420). -/
def fwRange (s : State) : Nat := cdiv s.img.fwLen 4096 * 4096

/-- The end of the firmware code range while it is protected; else 0 (R420). -/
def fwEnd (s : State) : Nat := if locked s then fwRange s else 0

/-- One byte as it reads, and whether it is uncorrectable; a corrupted byte is logged and tracked (R412, R423). -/
def spmReadByte (s : State) (master a : Nat) : State × Byte × Bool :=
  let b := memByte s.spm.mem a
  match flipAt s 0 (a / 8) with
  | none => (s, b, false)
  | some f =>
    let m := byteMask f.mask (a % 8)
    let e := ecc13 m
    let synd := a % 8 * 32 + Config.syndrome13 m % 32
    match e.1 with
    | .clean => (s, b, false)
    | .corrected => (trackCorrected s 0 (a / 8) master f synd, b ^^^ BitVec.ofNat 8 e.2, false)
    | .uncorrectable => (trackUncorrectable s 0 (a / 8) master f synd, b ^^^ BitVec.ofNat 8 e.2, true)

/-- `n` bytes from `a`, as they read (R412: judged only on the bytes returned). -/
def spmRead (s : State) (master a n : Nat) : State × List Byte × Bool :=
  match n with
  | 0 => (s, [], false)
  | k + 1 =>
    let r := spmReadByte s master a
    let t := spmRead r.1 master (a + 1) k
    (t.1, r.2.1 :: t.2.1, r.2.2 || t.2.2)

/-- The bits of a scratchpad flip mask that the byte lanes of a write cover (R435). -/
def laneMask (mask : Nat) (lanes : List Nat) : Nat :=
  lanes.foldl (fun a b =>
    a + bitsOf mask (8 * b + 7) (8 * b) * 2 ^ (8 * b) + bitsOf mask (68 + 5 * b) (64 + 5 * b) * 2 ^ (64 + 5 * b)) 0

/-- A word's error pattern once the byte lanes of a write are good again (R413). -/
def wordAfter (mask : Nat) (lanes : List Nat) : Nat := mask - laneMask mask lanes

/-- The codes of one word after a write of some of its byte lanes. -/
def spmWordWritten (s : State) (w : Nat) (lanes : List Nat) : State :=
  let s1 :=
    match flipAt s 0 w with
    | none => s
    | some f =>
      let m := wordAfter f.mask lanes
      setFlip s 0 w (if m = 0 then none else some ⟨m, f.injected⟩)
  let s2 :=
    if lanes.length = 8 then
      match trackOf s1 0 w with
      | some t => if t.st = .poison then trackFree s1 0 w else s1
      | none => s1
    else s1
  let left := match flipAt s2 0 w with
    | none => 0
    | some f => f.mask
  let new := laneMask (flipMask s2) lanes
  if lanes ≠ [] && flipHits s2 0 w then flipApply s2 0 w (if new = 0 then 0 else left ^^^ new) else s2

/-- Write bytes from `a`. -/
def spmWrite (s : State) (a : Nat) (bs : List Byte) : State :=
  let words := (List.range (bs.length / 8 + 2)).map (fun i => a / 8 + i)
  let s1 := words.foldl (fun st w =>
    let lanes := (List.range 8).filter (fun b => decide (a ≤ w * 8 + b) && decide (w * 8 + b < a + bs.length))
    if lanes = [] then st else spmWordWritten st w lanes) s
  { s1 with spm := { s1.spm with mem := memPuts s1.spm.mem a bs } }

/-- The regulator master a requester index ranks as; 48: after every master (R414). -/
def spmMaster (q : Nat) : Nat :=
  match q with
  | 0 => 34
  | 1 => 35
  | 2 => 36
  | 3 => 37
  | 4 => 37
  | 13 => 42
  | 14 => 44
  | 15 => 45
  | 16 => 47
  | 17 => 48
  | 18 => 48
  | _ => 38 + (q - 5) / 2

/-- The requester may reach the vault (R418). -/
def vaultOpen (s : State) (m : Requester) : Bool :=
  match m with
  | .benchM => flag s Reg.seqCtrl 0
  | .benchU => false
  | .pcie0 => decide (s.lcs.lcState ≤ 1)
  | .spi => decide (s.lcs.lcState ≤ 1)
  | .bridge => decide (s.lcs.lcState ≤ 1)
  | .pcie1 => decide (s.lcs.lcState = 0)
  | .loader => false
  | .internal => true

/-- The rotate view is open to the bench core and PCIe function 0 (R417). -/
def rotOpen (m : Requester) : Bool := m = .benchM || m = .benchU || m = .pcie0

/-- Does an access write? -/
def SpmAcc.writes (a : SpmAcc) : Bool := a.kind ≠ .read

/-- A destructive march of the scratchpad covers some byte of the access (R437). -/
def marchHit (s : State) (a : SpmAcc) : Bool :=
  match s.intg.march with
  | some m => decide (m.mem = 0) && !m.preserving && decide (m.start * 8 < a.off + a.len) && decide (a.off < (m.start + m.len) * 8)
  | none => false

/-- Why an access is denied: the KIND of SPM_FAULT, or 0 (R417, R418, R420, R437, R452). -/
def spmDenied (s : State) (a : SpmAcc) : Nat :=
  if a.rotate && (!rotOpen a.who || decide (a.len > 8) || decide (a.off + a.len > spmSize)) then 2
  else if vaultBase < a.off + a.len ∧ (a.use ≠ .outside ∨ vaultOpen s a.who = false) then 1
  else if a.writes ∧ a.off < fwEnd s then 4
  else if marchHit s a then 3
  else 0

/-- The event bit of a denial (R452). -/
def denyEvt (kind : Nat) : Nat := if kind = 1 then 0 else if kind = 2 then 1 else if kind = 3 then 2 else 4

/-- Record a denied access (R417, R452). -/
def spmFault (s : State) (a : SpmAcc) (kind : Nat) : State :=
  setEvt (wr s Reg.spmFault (a.q * 2 ^ 48 + kind * 2 ^ 45 + a.off % spmSize)) Reg.spmEvt (denyEvt kind)

/-- The access goes to the march's holding buffer, and so waits for no port cycle (R438). -/
def SpmAcc.redirected (s : State) (a : SpmAcc) : Bool := decide (a.use ≠ .march) && inBuffer s 0 (a.off / 8)

/-- The port is idle: no access is being served, none waits (R427). -/
def portIdle (s : State) : Bool :=
  decide (s.spm.portCycle ≤ s.cycle) && s.spm.waiting.all (fun a => decide (s.cycle < a.since))

/-- An engine of the device has an access for this use waiting at the port. -/
def asks (s : State) (u : SpmUse) : Bool := s.spm.waiting.any (fun a => decide (a.use = u))

/-- An engine's access joins the port's queue as requester q: one access of consecutive words (R414, R415). -/
def askPort (s : State) (q : Nat) (kind : SpmKind) (off len : Nat) (data : List Byte) (u : SpmUse) : State :=
  { s with spm := { s.spm with waiting := s.spm.waiting ++ [⟨q, .internal, s.cycle, kind, false, off, len, data, u⟩] } }

/-- An engine's waiting accesses of these uses are given up. -/
def dropAsks (s : State) (p : SpmUse → Bool) : State :=
  { s with spm := { s.spm with waiting := s.spm.waiting.filter (fun a => !p a.use) } }

end Sys2Proof.Machine
end

