-- ==== Sys2Proof/Machine/Rings.lean ====
section
/-!
DEFINITION. The table command rings' shared operations (R328–R337, R554, R555): owners, addresses, in-flight
commands, lanes, and completions.
-/
namespace Sys2Proof.Machine

/-- The owner of a ring as a regulator master (R328, R347). -/
def ringMaster (r : Nat) : Nat := if r = 0 then 34 else if r = 1 then 35 else if r = 2 then 37 else 36

/-- The owner of a ring as a scratchpad requester (R414). -/
def ringQ (r : Nat) : Nat := if r = 0 then 0 else if r = 1 then 1 else if r = 2 then 4 else 2

/-- The ring's size (R345). -/
def ringSize (s : State) (r : Nat) : Nat := 2 ^ fget s (Reg.hstTcrCtrl r) 3 0

/-- Commands in flight across all rings (R333). -/
def inflight (s : State) : Nat := s.tcr.cmds.length + (s.tcr.compl.filter (fun c => c.counted)).length

/-- The in-flight peak is kept (R345, R553). -/
def notePeak (s : State) : State := { rcEvent s Reg.hstTcrStat s.tcr.peak 0 max with tcr := { s.tcr with peak := max s.tcr.peak (inflight s) } }

/-- The command in flight with a given id. -/
def cmdOf (s : State) (id : Nat) : Option TCmd := s.tcr.cmds.find? (fun c => c.id = id)

/-- Mark a command started in its lane. -/
def startCmd (s : State) (id : Nat) : State :=
  { s with tcr := { s.tcr with cmds := s.tcr.cmds.map (fun c => if c.id = id then { c with started := true } else c) } }

/-- What a completion reports beside its command's own fields. -/
structure Report where
  status : Nat
  handle : Nat
  gen : Nat
  count : Nat
  result : Nat
  multi : Bool
  restart : Bool
  straddle : Bool
  edge : Bool
  deriving DecidableEq, Repr

/-- A report with a status and nothing else. -/
def Report.plain (status handle gen : Nat) : Report := ⟨status, handle, gen, 0, 0, false, false, false, false⟩

/-- A discarded completion of ring r advances CHEAD without being written (R459). -/
def skipChead (s : State) (r : Nat) : State :=
  let k := fget s (Reg.hstTcrChead r) 15 0
  if k = fget s (Reg.hstTcrHead r) 15 0 then s else wr s (Reg.hstTcrChead r) ((k + 1) % 65536)

/-- A command ends: its completion waits to be posted, and it holds its in-flight place until then (R332, R333). -/
def complete (s : State) (id : Nat) (r : Report) : State :=
  match cmdOf s id with
  | none => s
  | some c =>
    if s.tcr.gone.contains id then
      skipChead { s with tcr := { s.tcr with
        cmds := s.tcr.cmds.filter (fun x => x.id ≠ id)
        gone := s.tcr.gone.erase id } } c.ring
    else
    let k : Compl := ⟨c.ring, c.slot, c.cmdId, c.opcode, bitOf c.flags 3, r.status, r.edge, r.straddle, r.restart,
      r.multi, r.handle, r.gen, r.count, r.result, true⟩
    { s with tcr := { s.tcr with cmds := s.tcr.cmds.filter (fun x => x.id ≠ id), compl := s.tcr.compl ++ [k] } }

/-- HANDLE of ARG0 (R330). -/
def TCmd.handle (c : TCmd) : Nat := bitsOf c.arg0 47 0

/-- GEN of ARG0 (R330). -/
def TCmd.gen (c : TCmd) : Nat := bitsOf c.arg0 63 48

/-- START, SERIES, BYKEY (R330). -/
def TCmd.start (c : TCmd) : Bool := bitOf c.flags 0
def TCmd.series (c : TCmd) : Bool := bitOf c.flags 1
def TCmd.byKey (c : TCmd) : Bool := bitOf c.flags 2

/-- A completion whose HANDLE the spec does not state: a free value. -/
def completeOpen (s : State) (id : Nat) (status gen : Nat) : State :=
  complete (draw s) id (Report.plain status (Config.openHandle s.draws).toNat gen)

/-- Does the command take a HANDLE (R214, R264, R302)? -/
def takesHandle (op : Nat) : Bool := [2, 4, 5, 0x10, 0x11, 0x12, 0x21].contains op

/-- A refusal at checks 1–10 of R554: nothing changed; HANDLE as the slot gave it (R555). -/
def refuse (s : State) (c : TCmd) (status gen : Nat) : State :=
  complete s c.id (Report.plain status (if takesHandle c.opcode then c.handle else 0) gen)

/-- The named table's current generation, or 0 (R555). -/
def genOf (s : State) (t : Nat) : Nat :=
  match tblOf s t with
  | none => 0
  | some d => if d.isTern then s.tca.gen.nat t else s.hsh.gen.nat t

/-- A table command ended with UNCORR: on a ternary table the array's event (R234). -/
def uncorrEvt (s : State) (t : Nat) : State :=
  match tblOf s t with
  | none => s
  | some d => if d.isTern then setEvt s Reg.tcaEvt 5 else s

/-- A command that has passed checks 1 to 10 with an uncorrectable input ends with UNCORR, which is check 11 (R425,
R554). -/
def inputLost (s : State) (c : TCmd) : State :=
  complete (uncorrEvt s c.table) c.id (Report.plain 0x0A (if takesHandle c.opcode then c.handle else 0) (genOf s c.table))

/-- The lanes of R332: ternary read and write, a DRAM table's read and write, and the waymark lane. -/
inductive Lane where
  | ternRead | ternWrite | dramRead (t : Nat) | dramWrite (t : Nat) | way
  deriving DecidableEq, Repr

/-- The lane of a command (R212, R332). -/
def laneOf (s : State) (c : TCmd) : Lane :=
  if c.opcode = 0x20 || c.opcode = 0x21 then .way
  else
    let rd := c.opcode = 1 || c.opcode = 2 || c.opcode = 0x11
    match tblOf s c.table with
    | some d =>
      if d.isTern then (if rd then .ternRead else .ternWrite)
      else (if rd then .dramRead c.table else .dramWrite c.table)
    | none => .ternRead

/-- The first command of a lane that has not started, in acceptance order. -/
def laneHead (s : State) (l : Lane) : Option TCmd := s.tcr.cmds.find? (fun c => !c.started && decide (laneOf s c = l))

/-- The first command in acceptance order that stands at the head of its lane with this opcode and passes `p`. -/
def headWith (s : State) (op : Nat) (p : TCmd → Bool) : Option TCmd :=
  s.tcr.cmds.find? (fun c =>
    !c.started && decide (c.opcode = op) && decide (laneHead s (laneOf s c) = some c) && p c)

/-- Does ADDR keep the rules of R331 for `len` bytes, written (`out`) or read? -/
def addrOk (s : State) (ring addr len : Nat) (out : Bool) : Bool :=
  addr % 8 = 0 &&
    (if bitOf addr 63 then
      let o := bitsOf addr 18 0
      bitsOf addr 62 19 = 0 && decide (o + len ≤ vaultBase) && (!out || decide (fwEnd s ≤ o))
     else decide (ring ≤ 1))

/-- Write a command's output data at ADDR as the ring's owner (R328, R331): at the scratchpad's port, or posted to the
host. -/
def putData (s : State) (ring addr : Nat) (bs : List Byte) : State :=
  if bitOf addr 63 then askPort s (ringQ ring) .write (bitsOf addr 18 0) bs.length bs (.put (some ring))
  else hostSend s ring (.hostWrite ring (bitsOf addr 62 0) bs)

/-- Advance a table's relocation log, keeping the last 256 (R210, R269). -/
def logReloc (l : List Reloc) (r : Reloc) : List Reloc :=
  let n := l ++ [r]
  n.drop (n.length - 256)

/-- Is generation g covered (R210): does every generation after it stand in the log as a relocation of the table? -/
def covered (l : List Reloc) (t g cur : Nat) : Bool :=
  let d := (cur + 65536 - g) % 65536
  decide (d ≤ 256) &&
    (List.range d).all (fun i => l.any (fun r => decide (r.table = t) && decide (r.gen = (g + i + 1) % 65536)))

/-- The log entries of a table with generation after g, oldest first. -/
def relocsAfter (l : List Reloc) (t g cur : Nat) : List Reloc :=
  let d := (cur + 65536 - g) % 65536
  l.filter (fun r =>
    decide (r.table = t) && decide ((r.gen + 65536 - g) % 65536 ≥ 1) && decide ((r.gen + 65536 - g) % 65536 ≤ d))

/-- Resolve a handle by generation (R211): the handle now, and RESTART. -/
def resolve (l : List Reloc) (t g cur h first : Nat) : Nat × Bool :=
  if g = cur then (h, false)
  else if covered l t g cur then
    ((relocsAfter l t g cur).foldl (fun h2 r => if r.src = h2 then r.dst else h2) h, false)
  else (first, true)

/-- Record a ledger-breaking write (R46, R47). -/
def ledgerBreak (s : State) (kind obj : Nat) : State :=
  let c := (fget s Reg.topLedgerBreak 31 24 + 1) % 256
  wr s Reg.topLedgerBreak (c * 2 ^ 24 + kind * 2 ^ 16 + obj % 65536)

/-- A failing ledger: the snapshot freezes on the first fault (R42). -/
def ledgerFault (s : State) (id inst a b c d : Nat) : State :=
  if flag s Reg.topLedgerStat 7 then
    satBump (setEvt s Reg.topLedgerStat id) Reg.topLedgerStat 23 16 1
  else
    let s1 := wr (wr (wr (wr s (Reg.topLedgerSnap 0) (inst % 65536 * 2 ^ 48 + a % 2 ^ 48))
      (Reg.topLedgerSnap 1) (b % 2 ^ 48)) (Reg.topLedgerSnap 2) (c % 2 ^ 48)) (Reg.topLedgerSnap 3) (d % 2 ^ 48)
    let s2 := wr s1 Reg.topLedgerTime (nowNs s)
    setEvt (fput (fput s2 Reg.topLedgerStat 7 7 1) Reg.topLedgerStat 11 8 id) Reg.topLedgerStat id

end Sys2Proof.Machine
end

