-- ==== Sys2Proof/Machine/Ternary.lean ====
section
/-!
DEFINITION. The ternary array (R185–R235): matching and priority, window blocks, entry images, row accesses,
relocation, the ternary command set, throttling by temperature, signatures and rebuilds.
-/
namespace Sys2Proof.Machine

/-- Rows per entry (R186): 1, 2, 4 or 8. -/
def entryRows (d : TblDecl) : Nat := 2 ^ d.width

/-- A table's first row, and the row after its last (R186). -/
def firstRow (d : TblDecl) : Nat := d.first * 8192
def endRow (d : TblDecl) : Nat := (d.first + d.blocks) * 8192

/-- Is the table ordered (R203)? -/
def isOrdered (d : TblDecl) : Bool := d.ordered && d.layby ≠ 0

/-- Lay-by group size in rows: the smallest multiple of w that is at least max(LAYBY, 2w) (R204). -/
def groupRows (d : TblDecl) : Nat := cdiv (max d.layby (2 * entryRows d)) (entryRows d) * entryRows d

/-- Block b is retired and in force (R432). -/
def blockRetired (s : State) (b : Nat) : Bool := flag s Reg.intTcaRetire b && !bitOf s.intg.tcaHeld b

/-- A table's slots that are not in a retired block. -/
def tableSlots (s : State) (d : TblDecl) : Nat :=
  ((List.range d.blocks).filter (fun b => !blockRetired s (d.first + b))).length * (8192 / entryRows d)

/-- A table's capacity (R204, R432). -/
def capacity (s : State) (d : TblDecl) : Nat :=
  tableSlots s d - (if isOrdered d then cdiv (d.blocks * 8192) (groupRows d) else 0)

/-- A ternary row (R185). -/
def trow (s : State) (r : Nat) : TRow := s.tca.rows.get (fun _ => TRow.zero) r

/-- The array as a search of this cycle compares it: before any row access of the cycle takes effect (R198, R219). -/
def arrayWas (s : State) : State :=
  match (nowSt s).array with
  | none => s
  | some a => { s with tca := { s.tca with
      rows := a.1
      movePair := a.2 } }

/-- A row access is about to take effect: the array as it is so far is kept for the searches of this cycle. -/
def keepArray (s : State) : State :=
  match (nowSt s).array with
  | none => { s with now := { nowSt s with array := some (s.tca.rows, s.tca.movePair) } }
  | some _ => s

/-- The result word of a slot, and its PRIO, as reads of their stores return them (R187, R412): PRIO is 16 bits of word
row / 4 of memory 0x03. -/
def resultOf (s : State) (h : Nat) : Nat := s.tca.result.nat h ^^^ residual s 2 h
def prioOf (s : State) (h : Nat) : Nat :=
  s.tca.order.nat h ^^^ bitsOf (residual s 3 (h / 4)) (16 * (h % 4) + 15) (16 * (h % 4))

/-- Set a ternary row. -/
def setRow (s : State) (r : Nat) (x : TRow) : State :=
  { s with tca := { s.tca with rows := s.tca.rows.set (fun _ => TRow.zero) r x } }

/-- The valid head rows of a table, lowest first, outside retired blocks. -/
def validHeads (s : State) (d : TblDecl) : List Nat :=
  (s.tca.rows.filterMap (fun e =>
    if e.2.valid && decide (firstRow d ≤ e.1) && decide (e.1 < endRow d) && !blockRetired s (e.1 / 8192)
    then some e.1 else none))

/-- Entries held: valid head rows less MOVING (R232). -/
def tcaMoving (s : State) (t : Nat) : Nat :=
  match s.tca.movePair with
  | some (t', _, _) => if t' = t then 1 else 0
  | none => 0

/-- Entries of a ternary table (R232). -/
def tcaEntries (s : State) (t : Nat) (d : TblDecl) : Nat := (validHeads s d).length - tcaMoving s t

/-- Bits [79:0] of key row i. -/
def keyRow (k : Key) (i : Nat) : BitVec 80 := k.extractLsb' (80 * i) 80

/-- An ordinary entry matches (R189). -/
def matchOrdinary (s : State) (d : TblDecl) (h : Nat) (k : Key) : Bool :=
  (List.range (entryRows d)).all (fun i =>
    let r := trow s (h + i)
    decide ((keyRow k i ^^^ r.data) &&& r.mask = 0))

/-- The fields of a window entry (R193, R194): L, U, R_VALUE, R_CARE, UNBOUNDED. -/
structure Win where
  lower : Nat
  upper : Nat
  rValue : Nat
  rCare : Nat
  unbounded : Bool
  deriving DecidableEq, Repr

/-- The window entry at head row h (R194). -/
def winAt (s : State) (h : Nat) : Win :=
  let a := trow s h
  let b := trow s (h + 1)
  ⟨bitsOf a.data.toNat 63 0, bitsOf b.data.toNat 63 0,
    bitsOf a.data.toNat 79 64 + bitsOf b.data.toNat 79 64 * 65536,
    bitsOf a.mask.toNat 79 64 + bitsOf b.mask.toNat 79 64 * 65536, bitOf a.mask.toNat 0⟩

/-- The remainder condition of a window entry (R195). -/
def winRemainder (w : Win) (k : Key) : Bool := (bitsOf k.toNat 95 64 ^^^ w.rValue) &&& w.rCare = 0

/-- A window entry matches (R195). -/
def matchWindow (w : Win) (k : Key) : Bool :=
  let x := bitsOf k.toNat 63 0
  winRemainder w k && decide (w.lower ≤ x) && (w.unbounded || decide (x < w.upper))

/-- A bound b crosses the stamp's uncertainty: t − u < 256 b ≤ t + u, all in 1/256 ns (R113, R196). -/
def crosses (t u b : Nat) : Bool := decide (t < 256 * b + u) && decide (256 * b ≤ t + u)

/-- A stamp in 1/256 ns, and its uncertainty in 1/256 ns: UNC counts 125 ps, which is 32 of them (R196, R297). -/
def stamp256 (st : Stamp) : Nat := 256 * st.ns + st.frac
def unc256 (st : Stamp) : Nat := 32 * st.unc

/-- Some valid entry of a window table crosses the stamp (R196). -/
def straddles (s : State) (d : TblDecl) (k : Key) (st : Stamp) : Bool :=
  (validHeads s d).any (fun h =>
    let w := winAt s h
    winRemainder w k &&
      (crosses (stamp256 st) (unc256 st) w.lower || (!w.unbounded && crosses (stamp256 st) (unc256 st) w.upper)))

/-- The matching head rows of a table, the two copies of a move pair counted as one (R190, R207). -/
def matches_ (s : State) (d : TblDecl) (k : Key) : List Nat :=
  let ms := (validHeads s d).filter (fun h => if d.kind = 1 then matchWindow (winAt s h) k else matchOrdinary s d h k)
  match s.tca.movePair with
  | some (_, src, dst) => if ms.contains src && ms.contains dst then ms.filter (fun h => h ≠ max src dst) else ms
  | none => ms

/-- The lowest of a list of rows (R190). -/
def lowest (l : List Nat) : Option Nat := minByKey id l

/-- A ternary or window search, as it compares in this cycle (R190, R191, R196): the answer, with the result word read
from the result store. `master` reads it. -/
def tcaSearch (s : State) (t : Nat) (k : Key) (st : Option Stamp) (master : Nat) : State × Ans :=
  match tblOf s t with
  | none => (s, Ans.miss)
  | some d =>
    let was := arrayWas s
    let ms := matches_ was d k
    let strad := match st with
      | some x => decide (d.kind = 1) && straddles was d k x
      | none => false
    let s1 := bump s (Reg.tcaCnt 0) 1
    let s2 := if strad then bump s1 (Reg.tcaCnt 3) 1 else s1
    match lowest ms with
    | none => (s2, { Ans.miss with straddle := strad })
    | some h =>
      let multi := decide (ms.length ≥ 2)
      let s3 := bump s2 (Reg.tcaCnt 1) 1
      let s4 := if multi then bump s3 (Reg.tcaCnt 2) 1 else s3
      let r := wordRead s4 2 h master
      let bad := decide (r.2.1 = .uncorrectable)
      let s5 := if bad then setEvt r.1 Reg.tcaEvt 5 else r.1
      (s5, ⟨true, multi, strad, bad, resultOf s h, h⟩)

/-- Bytes of row i's record in an entry image (R215). -/
def rowRecord (r : TRow) : List Byte :=
  leBytes 10 r.data.toNat ++ leBytes 10 r.mask.toNat ++ leBytes 4 (b2n r.valid)

/-- The entry image of slot h, its rows as read (R215). -/
def entryImage (result prio : Nat) (rows : List TRow) : List Byte :=
  leBytes 8 result ++ leBytes 2 prio ++ leBytes 6 0 ++ (rows.map rowRecord).flatten

/-- Row i of an image as the array stores it (R188, R194). -/
def imageRow (d : TblDecl) (img : List Byte) (i : Nat) : TRow :=
  let data := BitVec.ofNat 80 (fieldAt img (16 + 24 * i) 10)
  let mask := BitVec.ofNat 80 (fieldAt img (26 + 24 * i) 10)
  let stored :=
    if d.kind = 1 then (data &&& mask &&& BitVec.ofNat 80 (0xFFFF * 2 ^ 64)) ||| (data &&& BitVec.ofNat 80 (2 ^ 64 - 1))
    else data &&& mask
  ⟨stored, mask, false⟩

/-- An input image keeps R215 and R194: reserved fields zero, VALID clear, fixed mask bits clear. -/
def imageOk (d : TblDecl) (img : List Byte) : Bool :=
  fieldAt img 10 6 = 0 &&
    (List.range (entryRows d)).all (fun i =>
      fieldAt img (36 + 24 * i) 4 = 0 &&
        (if d.kind = 1 then
          let m := fieldAt img (26 + 24 * i) 10
          if i = 0 then decide (bitsOf m 63 1 = 0) else decide (bitsOf m 63 0 = 0)
        else true))

/-- Length of a ternary command's data at ADDR (R215). -/
def ternLen (d : TblDecl) (op : Nat) : Nat :=
  if op = 1 then 10 * entryRows d else if op = 0x12 then 8 else 16 + 24 * entryRows d

/-- The row accesses that write an entry into slot h (R206). -/
def writeScript (d : TblDecl) (h : Nat) (img : List Byte) : List RowOp :=
  let w := entryRows d
  ((List.range (w - 1)).reverse.map (fun i => RowOp.write (h + i + 1) (imageRow d img (i + 1)) none)) ++
    [RowOp.write h { imageRow d img 0 with valid := true } (some (fieldAt img 0 8, fieldAt img 8 2))]

/-- The row accesses of a relocation (R207). -/
def relocScript (d : TblDecl) (src dst : Nat) : List RowOp :=
  let w := entryRows d
  ((List.range (w - 1)).reverse.map (fun i => RowOp.copy (src + i + 1) (dst + i + 1) false)) ++
    [RowOp.copy src dst true, RowOp.clearSrc src dst]

/-- Some head row's order word reads uncorrectable while INSERT locates its place (R218); word row/4 of memory 0x03. -/
def orderBad (s : State) (hs : List Nat) (master : Nat) : State × Bool :=
  hs.foldl (fun st h =>
    let r := wordRead st.1 3 (h / 4) master
    (r.1, st.2 || decide (r.2.1 = .uncorrectable))) (s, false)

/-- Free slots of a table, lowest first, between two rows. -/
def freeSlots (s : State) (d : TblDecl) (lo hi : Nat) : List Nat :=
  let w := entryRows d
  let vs := validHeads s d
  ((List.range ((hi - lo) / w)).map (fun i => lo + i * w)).filter (fun h =>
    !vs.contains h && !blockRetired s (h / 8192))

/-- INSERT's plan on an ordered table (R208): relocations in order, then the slot for the new entry. -/
def insertPlan (s : State) (d : TblDecl) (p : Nat) : List (Nat × Nat) × Option Nat :=
  let w := entryRows d
  let vs := validHeads s d
  let a := (vs.filter (fun h => prioOf s h ≤ p)).foldl (fun x h => match x with
    | none => some h
    | some y => some (max y h)) none
  let b := lowest (vs.filter (fun h => match a with
    | none => true
    | some x => decide (x < h)))
  let lo := match a with
    | none => firstRow d
    | some x => x + w
  let hi := match b with
    | none => endRow d
    | some x => x
  match (freeSlots s d lo hi).head? with
  | some h => ([], some h)
  | none =>
    let up := match b with
      | none => none
      | some y => (freeSlots s d (y + w) (endRow d)).head?
    let down := match a with
      | none => none
      | some x => (freeSlots s d (firstRow d) x).getLast?
    match down, up with
    | some hu, none =>
      let x := lo - w
      ((List.range ((x - hu) / w)).map (fun i => (hu + (i + 1) * w, hu + i * w)), some x)
    | some hu, some hd =>
      let x := lo - w
      if (x - hu) / w < (hd - hi) / w then
        ((List.range ((x - hu) / w)).map (fun i => (hu + (i + 1) * w, hu + i * w)), some x)
      else
        ((List.range ((hd - hi) / w)).map (fun i => (hd - (i + 1) * w, hd - i * w)), some hi)
    | none, some hd => ((List.range ((hd - hi) / w)).map (fun i => (hd - (i + 1) * w, hd - i * w)), some hi)
    | none, none => ([], none)

/-- Present the next row access of a lane's command (R198). -/
def presentRow (s : State) (read : Bool) (since : Nat) : State :=
  let op := if read then s.tca.rop else s.tca.wop
  match op with
  | none => s
  | some o =>
    if o.script = [] then s
    else
      let m := match cmdOf s o.id with
        | some c => ringMaster c.ring
        | none => 34
      present s m true (.row read) since []

/-- Put a ternary command to work in its lane. -/
def startTern (s : State) (c : TCmd) (script : List RowOp) (delay handle : Nat) (read : Bool) : State :=
  let o : TcaOp := ⟨c.id, c.opcode, c.table, s.cycle + delay, script, 0, handle, c.series, []⟩
  let s1 := startCmd s c.id
  let s2 := if read then { s1 with tca := { s1.tca with rop := some o } } else { s1 with tca := { s1.tca with wop := some o } }
  presentRow s2 read (s.cycle + delay)

/-- Audit of a TABLE ledger of a ternary table (R40). -/
def auditTern (s : State) (t : Nat) : State :=
  match tblOf s t with
  | none => s
  | some d =>
    let v := (validHeads s d).length
    let mv := tcaMoving s t
    let ins := s.vrd.tblIns.nat t
    let out := s.vrd.tblDel.nat t + s.vrd.tblAged.nat t + s.vrd.tblFlushed.nat t
    if s.tca.wiping.get (fun _ => false) t || decide (v + out = ins + mv) then s
    else ledgerFault s 2 t ins out v mv

/-- The report of a ternary command that ends (R216). -/
def ternReport (s : State) (o : TcaOp) (status : Nat) : Report :=
  { Report.plain status o.handle (s.tca.gen.nat o.table) with count := satW 20 o.rows }

/-- A ternary command ends: its lane is free and its completion waits (R212, R216). -/
def endTern (s : State) (read : Bool) (o : TcaOp) (status : Nat) : State :=
  let s1 := if read then { s with tca := { s.tca with rop := none } } else { s with tca := { s.tca with wop := none } }
  let s2 := if status = 0x0A then setEvt s1 Reg.tcaEvt 5 else s1
  complete s2 o.id (ternReport s o status)

/-- Head row of the slot that holds a row. -/
def headOf (d : TblDecl) (r : Nat) : Nat := r / entryRows d * entryRows d

/-- A row access to a region under signature marks it DIRTY (R224). -/
def touchRegion (s : State) (r : Nat) : State :=
  if s.tca.sigRegion = some (r / 4096) ∧ s.tca.sigRows < 4096 then { s with tca := { s.tca with sigDirty := true } } else s

/-- Write the result word and PRIO of a slot to their stores (R187, R206): a result word is written whole, PRIO is a quarter
of its word, whose other three are written back as they read (R413). -/
def storeEntry (s : State) (h result prio : Nat) : State :=
  let order := (List.range 4).foldl (fun m i => m.setNat (h / 4 * 4 + i) (prioOf s (h / 4 * 4 + i))) s.tca.order
  let s1 := wordMerged (wordWritten s 2 h) 3 (h / 4)
  { s1 with tca := { s1.tca with
      result := s1.tca.result.setNat h result
      order := order.setNat h prio } }

/-- The result word or PRIO of an entry to be relocated is uncorrectable (R218). -/
def relocBad (s : State) (h master : Nat) : State × Bool :=
  let a := wordRead s 2 h master
  let b := wordRead a.1 3 (h / 4) master
  (b.1, decide (a.2.1 = .uncorrectable) || decide (b.2.1 = .uncorrectable))

/-- The relocation that this row access would begin reads its entry's result word and PRIO (R207): is one of them
uncorrectable (R218)? -/
def relocStart (s : State) (master : Nat) (d : TblDecl) (o : RowOp) : State × Bool :=
  match o with
  | .copy src _ _ => if src % entryRows d = entryRows d - 1 then relocBad s (headOf d src) master else (s, false)
  | .write _ _ _ => (s, false)
  | .clearSrc _ _ => (s, false)
  | .clearValid _ => (s, false)
  | .wipeBlock _ => (s, false)
  | .read _ => (s, false)

/-- One row access takes effect (R206, R207, R219); `read` is the state in which the entry to relocate was read. -/
def rowEffect (s read : State) (t : Nat) (d : TblDecl) (o : RowOp) : State :=
  match o with
  | .write row r st =>
    let s1 := match st with
      | some (result, prio) => storeEntry s row result prio
      | none => s
    touchRegion (setRow s1 row r) row
  | .copy src dst head =>
    let s1 := if src % entryRows d = entryRows d - 1 then
        storeEntry s (headOf d dst) (resultOf read (headOf d src)) (prioOf read (headOf d src))
      else s
    let s2 := setRow s1 dst { trow s1 src with valid := head }
    touchRegion (if head then { s2 with tca := { s2.tca with movePair := some (t, src, dst) } } else s2) dst
  | .clearSrc src dst =>
    let g := (s.tca.gen.nat t + 1) % 65536
    let s1 := setRow s src { trow s src with valid := false }
    let s2 := { s1 with tca := { s1.tca with
      movePair := none, gen := s1.tca.gen.setNat t g, log := logReloc s1.tca.log ⟨t, g, src, dst⟩ } }
    touchRegion (bump s2 (Reg.tcaCnt 5) 1) src
  | .clearValid row => touchRegion (setRow s row { trow s row with valid := false }) row
  | .wipeBlock b =>
    let s1 := { s with tca := { s.tca with
      rows := s.tca.rows.map (fun (e : Nat × TRow) => if e.1 / 8192 = b then (e.1, { e.2 with valid := false }) else e) } }
    let s2 := { s1 with tca := { s1.tca with rows := s1.tca.rows.filter (fun (e : Nat × TRow) => e.2 ≠ TRow.zero) } }
    touchRegion (touchRegion s2 (b * 8192)) (b * 8192 + 4096)
  | .read row => touchRegion s row

/-- What a ternary command does once its last row access is made (R209, R213, R219, R220). -/
def finishTern (s : State) (read : Bool) (o : TcaOp) : State :=
  match cmdOf s o.id with
  | none => endTern s read o 0
  | some c =>
    if o.opcode = 3 || o.opcode = 0x10 then
      let s1 := { s with vrd := { s.vrd with tblIns := s.vrd.tblIns.setNat o.table (s.vrd.tblIns.nat o.table + 1) } }
      auditTern (endTern s1 read o 0) o.table
    else if o.opcode = 4 then
      let s1 := { s with vrd := { s.vrd with tblDel := s.vrd.tblDel.setNat o.table (s.vrd.tblDel.nat o.table + 1) } }
      auditTern (endTern s1 read o 0) o.table
    else if o.opcode = 5 then
      let s1 := if o.series && decide (s.tca.rebuild = some o.table) then
          let p := progAdd s Reg.tcaRebuildProg Reg.tcaRebuildTotal 1
          if fget p Reg.tcaRebuildProg 31 0 ≥ rd p Reg.tcaRebuildTotal then
            { fput p Reg.tcaRebuildProg 46 46 0 with tca := { p.tca with rebuild := none } }
          else p
        else s
      auditTern (endTern s1 read o 0) o.table
    else if o.opcode = 0x13 then
      let s1 := { s with
        vrd := { s.vrd with tblIns := s.vrd.tblIns.setNat o.table 0, tblDel := s.vrd.tblDel.setNat o.table 0 }
        tca := { s.tca with wiping := s.tca.wiping.set (fun _ => false) o.table false } }
      endTern s1 read o 0
    else
      let m := ringMaster c.ring
      let b := relocBad s o.handle m
      if b.2 then endTern b.1 read o 0x0A
      else
        let img := entryImage (resultOf s o.handle) (prioOf s o.handle) o.buf
        endTern (putData b.1 c.ring c.addr img) read o 0

/-- Row accesses made in the present update window (R199). -/
def rowsInWindow (s : State) : Nat := if s.tca.windowAt = s.cycle / 800 then s.tca.windowUsed else 0

/-- The cap of R199 leaves room for a row access. -/
def capOpen (s : State) : Bool := rowsInWindow s < fget s Reg.tcaUpdRate 9 0

/-- The first-ranked row access among the requests that can use the slot open to it (R198, R201, R352). -/
def bestRow (s : State) : Option Req :=
  let u := slotsUsed s
  let open_ := if actLevel s = 0 then !u.2 else slot0Offered s && !u.1
  if !open_ || !capOpen s then none
  else
    let ws := slotWaiting s
    let ahead := if actLevel s = 0 && !u.1 then
        (match bestSearch s with
         | some b => ws.filter (fun r => r.id ≠ b.id)
         | none => ws)
      else ws
    match minByKey (reqRank s) ahead with
    | some r => if isRow r then some r else none
    | none => none

/-- Make one row access: its slot, its charge, its effect, and the lane's next (R198, R199, R207). A relocation whose entry
cannot be read ends instead, before the access (R218). -/
def rowAccess (s : State) (r : Req) (read : Bool) : State :=
  let op := if read then s.tca.rop else s.tca.wop
  match op with
  | none => dropReq s r.id
  | some o =>
    match o.script, tblOf s o.table with
    | x :: rest, some d =>
      let b := relocStart s r.master d x
      if b.2 then endTern (dropReq b.1 r.id) read o 0x0A
      else
        let s1 := noteWait (charge (dropReq b.1 r.id) true r.master 1) r.master (waitOf s r)
        let s2 := takeSlot (bump s1 (Reg.tcaCnt 4) 1) (actLevel s = 0)
        let s3 := keepArray { s2 with tca := { s2.tca with windowAt := s.cycle / 800, windowUsed := rowsInWindow s + 1 } }
        let e := rowEffect s3 s o.table d x
        let buf := match x with
          | .read row => o.buf ++ [trow s row]
          | _ => o.buf
        let o1 := { o with script := rest, rows := o.rows + 1, buf := buf }
        let s4 := if read then { e with tca := { e.tca with rop := some o1 } }
          else { e with tca := { e.tca with wop := some o1 } }
        if rest = [] then finishTern s4 read o1 else auditTern (presentRow s4 read (s.cycle + 1)) o.table
    | _, _ => dropReq s r.id

/-- A DRAM or ternary command's input bytes, if they are here (R331). -/
def inputOf (c : TCmd) : Option (Option (List Byte)) := c.input

/-- Checks 6 and 8 of R554 on a ternary handle: does it lie in the table, aligned, and not in a retired block? -/
def ternHandleOk (s : State) (d : TblDecl) (h : Nat) : Bool :=
  decide (firstRow d ≤ h) && decide (h < endRow d) && decide (h % entryRows d = 0) && !blockRetired s (h / 8192)

/-- MOVED for a ternary command that names a handle (R211): the completion, or none when the handle stands. -/
def ternMoved (s : State) (c : TCmd) (d : TblDecl) : Option Report :=
  let cur := s.tca.gen.nat c.table
  let r := resolve s.tca.log c.table c.gen cur c.handle (firstRow d)
  if r.2 || decide (r.1 ≠ c.handle) || (decide (c.opcode = 2) && decide (c.gen ≠ cur)) then
    some { Report.plain 2 r.1 cur with restart := r.2 }
  else none

/-- The head of a ternary lane with this opcode, its lane free and its input here (R212). -/
def ternHead (s : State) (op : Nat) (read : Bool) (needs : Bool) : Option TCmd :=
  if (if read then s.tca.rop.isSome else s.tca.wop.isSome) then none
  else headWith s op (fun c =>
    (match tblOf s c.table with
     | some d => d.isTern
     | none => false) && (!needs || c.input.isSome))

/-- Refuse with the table's generation. -/
def refuseT (s : State) (c : TCmd) (status : Nat) : State := refuse s c status (s.tca.gen.nat c.table)

/-- SEARCH on a ternary table (R213): presented for a slot as the ring's owner; it holds the read lane to its answer. -/
def doTcaSearch (s : State) : State :=
  match ternHead s 1 true true with
  | none => s
  | some c =>
    match tblOf s c.table, c.input with
    | some d, some (some bs) =>
      if !addrOk s c.ring c.addr (ternLen d 1) false then refuseT s c 0x11
      else if c.ue then inputLost s c
      else
        present (startTern s c [] 0 c.handle true) (ringMaster c.ring) true
          (.slotSearch (.cmd c.id) c.table (BitVec.ofNat 640 (fieldAt bs 0 (ternLen d 1))) none) s.cycle []
    | some _, some none => refuseT s c 0x11
    | _, _ => s

/-- The ternary read lane is free of a SEARCH that has its answer (R212). -/
def laneFree (s : State) (id : Nat) : State :=
  match s.tca.rop with
  | some o => if o.id = id then { s with tca := { s.tca with rop := none } } else s
  | none => s

/-- The entry NEXT finds as the array stands (R207, R211): the first valid one above HANDLE, or of all when START is 1, not
a move pair's destination. -/
def nextEntry (s : State) (c : TCmd) (d : TblDecl) : Option Nat :=
  let dst := match s.tca.movePair with
    | some (t, _, x) => if t = c.table then some x else none
    | none => none
  lowest ((validHeads s d).filter (fun h => (c.start || decide (c.handle < h)) && some h ≠ dst))

/-- NEXT has looked for its entry (R211, R217): it reads the entry it finds, or ends with MOVED or END. -/
def nextFound (s : State) : State :=
  match s.tca.rop with
  | none => s
  | some o =>
    if o.opcode = 2 && o.script = [] && decide (o.ready ≤ s.cycle) then
      match cmdOf s o.id, tblOf s o.table with
      | some c, some d =>
        match (if c.start then none else ternMoved s c d) with
        | some r => complete { s with tca := { s.tca with rop := none } } c.id r
        | none =>
          match nextEntry s c d with
          | none => endTern s true o 0x0C
          | some h =>
            presentRow { s with tca := { s.tca with rop := some { o with
              script := (List.range (entryRows d)).map (fun i => RowOp.read (h + i))
              handle := h } } } true s.cycle
      | _, _ => endTern s true o 0x0C
    else s

/-- NEXT on a ternary table takes the read lane while it finds its entry, within 16 cycles (R211, R213, R217). -/
def doTcaNext (s : State) : State :=
  match ternHead s 2 true false with
  | none => s
  | some c =>
    match tblOf s c.table with
    | none => s
    | some d =>
      match (if c.start then none else ternMoved s c d) with
      | some r => complete s c.id r
      | none =>
        if !addrOk s c.ring c.addr (ternLen d 2) true then refuseT s c 0x11
        else startTern (draw s) c [] (16 - (Config.early s.draws).val) c.handle true

/-- READ on a ternary table (R213). -/
def doTcaRead (s : State) : State :=
  match ternHead s 0x11 true false with
  | none => s
  | some c =>
    match tblOf s c.table with
    | none => s
    | some d =>
      match ternMoved s c d with
      | some r => complete s c.id r
      | none =>
        if !addrOk s c.ring c.addr (ternLen d 0x11) true then refuseT s c 0x11
        else startTern s c ((List.range (entryRows d)).map (fun i => RowOp.read (c.handle + i))) 2 c.handle true

/-- INSERT on a ternary table (R208, R213). -/
def doTcaInsert (s : State) : State :=
  match ternHead s 3 false true with
  | none => s
  | some c =>
    match tblOf s c.table, c.input with
    | some d, some (some img) =>
      if !addrOk s c.ring c.addr (ternLen d 3) false then refuseT s c 0x11
      else if !imageOk d img then refuseT s c 9
      else if c.ue then inputLost s c
      else if tcaEntries s c.table d ≥ capacity s d then
        completeOpen s c.id 4 (s.tca.gen.nat c.table)
      else if isOrdered d then
        let b := orderBad s (validHeads s d) (ringMaster c.ring)
        if b.2 then setEvt (completeOpen b.1 c.id 0x0A (s.tca.gen.nat c.table)) Reg.tcaEvt 5
        else
          let p := insertPlan s d (fieldAt img 8 2)
          match p.2 with
          | none => completeOpen s c.id 4 (s.tca.gen.nat c.table)
          | some h =>
            startTern (draw b.1) c ((p.1.map (fun m => relocScript d m.1 m.2)).flatten ++ writeScript d h img)
              (32 - (Config.locate s.draws).val) h false
      else
        match (freeSlots s d (firstRow d) (endRow d)).head? with
        | none => completeOpen s c.id 4 (s.tca.gen.nat c.table)
        | some h => startTern s c (writeScript d h img) 8 h false
    | some _, some none => refuseT s c 0x11
    | _, _ => s

/-- DELETE on a ternary table (R213). -/
def doTcaDelete (s : State) : State :=
  match ternHead s 4 false false with
  | none => s
  | some c =>
    match tblOf s c.table with
    | none => s
    | some d =>
      match ternMoved s c d with
      | some r => complete s c.id r
      | none =>
        if !(trow s c.handle).valid then complete s c.id (Report.plain 6 c.handle (s.tca.gen.nat c.table))
        else startTern s c [.clearValid c.handle] 2 c.handle false

/-- DST of a MOVE (R330). -/
def TCmd.dst (c : TCmd) : Nat := bitsOf c.arg1 17 0

/-- MOVE (R209). -/
def doTcaMove (s : State) : State :=
  match ternHead s 5 false false with
  | none => s
  | some c =>
    match tblOf s c.table with
    | none => s
    | some d =>
      match ternMoved s c d with
      | some r => complete s c.id r
      | none =>
        let g := s.tca.gen.nat c.table
        if !(trow s c.handle).valid then complete s c.id (Report.plain 6 c.handle g)
        else if (trow s c.dst).valid then complete s c.id (Report.plain 5 c.handle g)
        else if isOrdered d && (validHeads s d).any (fun h =>
            decide (min c.handle c.dst < h) && decide (h < max c.handle c.dst)) then
          complete s c.id (Report.plain 8 c.handle g)
        else startTern s c (relocScript d c.handle c.dst) 2 c.dst false

/-- WRITE into a free slot of a placed table (R213). -/
def doTcaWrite (s : State) : State :=
  match ternHead s 0x10 false true with
  | none => s
  | some c =>
    match tblOf s c.table, c.input with
    | some d, some (some img) =>
      if !addrOk s c.ring c.addr (ternLen d 0x10) false then refuseT s c 0x11
      else if !imageOk d img then refuseT s c 9
      else if c.ue then inputLost s c
      else if (trow s c.handle).valid then complete s c.id (Report.plain 5 c.handle (s.tca.gen.nat c.table))
      else startTern s c (writeScript d c.handle img) 2 c.handle false
    | some _, some none => refuseT s c 0x11
    | _, _ => s

/-- An UPDATE's two cycles at the array are over: one store write replaces the result word (R213, R217). -/
def updateDone (s : State) : State :=
  match s.tca.wop with
  | none => s
  | some o =>
    if o.opcode = 0x12 && decide (o.ready ≤ s.cycle) then
      match cmdOf s o.id with
      | none => endTern s false o 0
      | some c =>
        match c.input with
        | some (some bs) =>
          let s1 := wordWritten s 2 o.handle
          endTern { s1 with tca := { s1.tca with result := s1.tca.result.setNat o.handle (fieldAt bs 0 8) } } false o 0
        | _ => endTern s false o 0
    else s

/-- UPDATE takes the write lane for two cycles, and no slot (R213, R217). -/
def doTcaUpdate (s : State) : State :=
  match ternHead s 0x12 false true with
  | none => s
  | some c =>
    match tblOf s c.table, c.input with
    | some d, some (some _) =>
      match ternMoved s c d with
      | some r => complete s c.id r
      | none =>
        if !addrOk s c.ring c.addr 8 false then refuseT s c 0x11
        else if c.ue then inputLost s c
        else if !(trow s c.handle).valid then complete s c.id (Report.plain 6 c.handle (s.tca.gen.nat c.table))
        else startTern s c [] 2 c.handle false
    | some d, some none =>
      match ternMoved s c d with
      | some r => complete s c.id r
      | none => refuseT s c 0x11
    | _, _ => s

/-- WIPE starts (R219): generation, ledger break, then one block per row access. -/
def doTcaWipe (s : State) : State :=
  match ternHead s 0x13 false false with
  | none => s
  | some c =>
    match tblOf s c.table with
    | none => s
    | some d =>
      let s1 := ledgerBreak s 3 c.table
      let s2 := { s1 with tca := { s1.tca with
        gen := s1.tca.gen.setNat c.table ((s1.tca.gen.nat c.table + 1) % 65536)
        wiping := s1.tca.wiping.set (fun _ => false) c.table true } }
      startTern s2 c ((List.range d.blocks).map (fun b => RowOp.wipeBlock (d.first + b))) 0 0 false

/-- The throttle level a temperature sample gives (R200). -/
def levelFor (level temp : Nat) : Nat :=
  let up := if temp ≥ 125 then 3 else if temp > 118 then 2 else if temp > 112 then 1 else 0
  let down := if temp > 122 then 3 else if temp > 115 then 2 else if temp > 109 then 1 else 0
  if up > level then up else if down < level then down else level

/-- Row records of a signature region (R222). -/
def regionBytes (s : State) (n : Nat) : List Byte :=
  ((List.range 4096).map (fun i => rowRecord (trow s (n * 4096 + i)))).flatten

/-- The table that owns a block (R231). -/
def blockOwner (s : State) (b : Nat) : Option Nat :=
  (s.img.tables.find? (fun e => match e.2 with
    | some d => d.isTern && decide (d.first ≤ b) && decide (b < d.first + d.blocks)
    | none => false)).map (fun e => e.1)

/-- Is region n signed (R221), and not in a retired block (R432)? -/
def regionSigned (s : State) (n : Nat) : Bool :=
  match blockOwner s (n / 2) with
  | some t => (match tblOf s t with
    | some d => d.sig && !blockRetired s (n / 2)
    | none => false)
  | none => false

/-- The signature engine can run (R223): below level 3, its ring enabled. -/
def sigRuns (s : State) : Bool := decide (actLevel s < 3) && decide (fget s Reg.tcaSigSize 3 0 ≠ 0)

/-- The next signed region above n in this lap. -/
def nextSigned (s : State) (from_ : Nat) : Option Nat :=
  (List.range 64).find? (fun n => decide (from_ ≤ n) && regionSigned s n)

/-- Begin reading a region (R223, R226). -/
def startRegion (s : State) (n : Nat) (od : Bool) : State :=
  { s with tca := { s.tca with
    sigRegion := some n
    sigLast := n
    sigDirty := false
    sigRows := 0
    sigRead := none
    sigOnDemand := od
    sigNext := if od then s.tca.sigNext else n + 1 } }

/-- The lap ends: its duration and number (R223). -/
def endSigLap (s : State) : State :=
  let us := match s.tca.lapStart with
    | some t => (s.cycle - t) / 800
    | none => 0
  let s1 := fput (fput s Reg.tcaSigLap 31 0 (fget s Reg.tcaSigLap 31 0 + 1)) Reg.tcaSigLap 63 32 (satW 32 us)
  { s1 with tca := { s1.tca with lapOpen := false } }

/-- At a region boundary: a pending on-demand region first, else the lap's next region, else the lap ends (R223, R226). -/
def sigBoundary (s : State) : State :=
  if !sigRuns s || s.tca.sigRegion.isSome || s.tca.sigWait ≠ [] then s
  else
    match s.tca.sigReq with
    | some n => startRegion { s with tca := { s.tca with sigReq := none } } n true
    | none =>
      if !s.tca.lapOpen then s
      else if !flag s Reg.tcaCtrl 0 then { s with tca := { s.tca with lapOpen := false } }
      else
        match nextSigned s s.tca.sigNext with
        | some n => startRegion s n false
        | none => endSigLap s

/-- SIGNATURE_LAP_START (R223): no sooner than LAP_MIN ms after the previous lap started. -/
def sigLapStart (s : State) : State :=
  let due := match s.tca.lapStart with
    | some t => decide (t + fget s Reg.tcaCtrl 31 24 * 800000 ≤ s.cycle)
    | none => true
  if flag s Reg.tcaCtrl 0 && sigRuns s && !s.tca.lapOpen && due then
    sigBoundary { s with tca := { s.tca with
      lapOpen := true
      lapStart := some s.cycle
      sigNext := 0 } }
  else s

/-- The signature ring has no room (R225). -/
def sigFull (s : State) : Bool :=
  fget s Reg.tcaSigSize 3 0 ≠ 0 &&
    decide ((fget s Reg.tcaSigHead 15 0 + 65536 - fget s Reg.tcaSigTail 15 0) % 65536 = 2 ^ fget s Reg.tcaSigSize 3 0)

/-- The last slot that the throttle level offers in this cycle is free, or the level offers none (R223). -/
def lastSlotFree (s : State) : Bool :=
  if slot1Offered s then !(slotsUsed s).2 else if slot0Offered s then !(slotsUsed s).1 else true

/-- At the end of a cycle the engine has read one more row of its region, if the last slot stayed free (R223). With SIG_EN at
0 it reads on only for an on-demand signature (R226). The region's signature is that of its rows as they are when the last
one is read (R222). -/
def sigTick (s : State) : State :=
  match s.tca.sigRegion with
  | none => s
  | some n =>
    if sigRuns s && lastSlotFree s && (flag s Reg.tcaCtrl 0 || s.tca.sigOnDemand || s.tca.sigReq.isSome) &&
        decide (s.tca.sigRows < 4096) then
      { s with tca := { s.tca with
        sigRows := s.tca.sigRows + 1
        sigRead := if s.tca.sigRows = 4095 then some (nowNs s, if s.tca.sigDirty then 0 else crc32c (regionBytes s n)) else none } }
    else s

/-- SIGNATURE_REGION_DONE (R222–R224): the region's 4,096 rows have been read; a DIRTY signature is a free value. -/
def sigRegionDone (s : State) : State :=
  match s.tca.sigRegion with
  | none => s
  | some n =>
    match s.tca.sigRead with
    | none => s
    | some (ns, good) =>
      let dirty := s.tca.sigDirty
      let s1 := if dirty then draw s else s
      let crc := if dirty then (Config.dirtyCrc s.draws).toNat else good
      let s2 := { s1 with tca := { s1.tca with
        sigRegion := none
        sigRead := none
        sigWait := [(n, crc, dirty, s.tca.sigOnDemand, ns)] } }
      if sigFull s2 then setEvt s2 Reg.tcaEvt 4 else s2

/-- The ring entry of a finished signature (R224, R225). -/
def sigEntry (s : State) (n crc ns : Nat) (dirty od : Bool) : List Byte :=
  let lap := if od then 0xFFFF else fget s Reg.tcaSigLap 31 0 % 65536
  let tbl := match blockOwner s (n / 2) with
    | some t => t
    | none => 0
  leBytes 4 crc ++ leBytes 4 (lap * 2 ^ 16 + tbl * 2 ^ 8 + b2n dirty * 2 ^ 7 + b2n od * 2 ^ 6 + n) ++ leBytes 8 ns

/-- Ask for the write of the waiting signature into the ring, when there is room (R225, R414). -/
def sigPost (s : State) : State :=
  match s.tca.sigWait with
  | [] => s
  | (n, crc, dirty, od, ns) :: _ =>
    if fget s Reg.tcaSigSize 3 0 = 0 || sigFull s || asks s .sig then s
    else
      let h := fget s Reg.tcaSigHead 15 0
      askPort s 17 .write (fget s Reg.tcaSigBase 18 0 + 16 * (h % 2 ^ fget s Reg.tcaSigSize 3 0)) 16 (sigEntry s n crc ns dirty od) .sig

/-- The waiting signature is in the ring, and the engine goes on (R225). -/
def sigPosted (s : State) : State :=
  match s.tca.sigWait with
  | [] => s
  | (_, _, dirty, _, _) :: _ =>
    let s1 := { s with tca := { s.tca with sigWait := [] } }
    let s2 := setEvt (bump (wr s1 Reg.tcaSigHead ((fget s Reg.tcaSigHead 15 0 + 1) % 65536)) (Reg.tcaCnt 10) 1) Reg.tcaEvt 2
    sigBoundary (if dirty then setEvt s2 Reg.tcaEvt 3 else s2)

/-- SIG_REQ: a GO on TCA_SIG_REQ; a second request replaces a pending one (R226). -/
def sigRequest (s : State) (v : Nat) : State :=
  if bitOf v 31 then sigBoundary { s with tca := { s.tca with sigReq := some (v % 64) } } else s

/-- `TCA_SIG_STAT` as it reads (R235). -/
def sigStatView (s : State) : Nat :=
  b2n s.tca.sigRegion.isSome * 2 ^ 31 + b2n (decide (s.tca.sigWait ≠ []) && sigFull s) * 2 ^ 30 + s.tca.sigLast % 64

/-- A write of `TCA_REBUILD_CTRL` (R220): START and STOP. -/
def rebuildWrite (s : State) (m v : Nat) : State :=
  let s1 := fput (commitFields s m Reg.tcaRebuildCtrl v) Reg.tcaRebuildCtrl 31 30 0
  if bitOf v 31 && bitOf v 30 then rsvd s1 m Reg.tcaRebuildCtrl
  else if bitOf v 31 then
    if progOn s Reg.tcaRebuildProg then rsvd s1 m Reg.tcaRebuildCtrl
    else
      let total := rd s Reg.tcaRebuildTotal
      let s2 := wr s1 Reg.tcaRebuildProg (progValue total 0 (decide (total ≠ 0)))
      { s2 with tca := { s2.tca with rebuild := if total = 0 then none else some (fget s1 Reg.tcaRebuildCtrl 5 0) } }
  else if bitOf v 30 then
    { fput s1 Reg.tcaRebuildProg 46 46 0 with tca := { s1.tca with rebuild := none } }
  else s1

end Sys2Proof.Machine
end

