-- ==== Sys2Proof/Machine/Hash.lean ====
section
/-!
DEFINITION. The hash and prefix engine (R236–R278): entry formats, hashing, the length filter, exact-match and
longest-prefix searches with their stamp writes, and the command set on DRAM tables.
-/
namespace Sys2Proof.Machine

/-- The current stamp of a table (R321). -/
def curStamp (s : State) (t : Nat) (d : TblDecl) : Nat :=
  if !d.age then 1
  else s.age.tick.nat t % (if fmtOf d = .standard then 4294967295 else 65535) + 1

/-- The prefix length of a length index. -/
def lenOf (d : TblDecl) (j : Nat) : Nat := d.lengths.getD j 0

/-- The value stored in KEY for a key at length index j (R240, R246). -/
def keyAt (d : TblDecl) (k : Nat) (j : Nat) : Nat := if d.kind = 5 then k >>> (d.keyBits - lenOf d j) else k

/-- The hash input of a stored key value at length index j (R241). -/
def hashInput (d : TblDecl) (v j : Nat) : List Byte :=
  if d.kind = 5 then leBytes (cdiv (lenOf d j) 8) v ++ [BitVec.ofNat 8 (lenOf d j)] else leBytes (cdiv d.keyBits 8) v

/-- x0 and x1 (R241). -/
def hashes (s : State) (t : Nat) (d : TblDecl) (v j : Nat) : Nat × Nat :=
  let i := hashInput d v j
  (crc32c i, crc32cFrom (rd s (Reg.hshSeed t)) i)

/-- The two candidate buckets of a key value, within its sub-table (R242). -/
def candidates (s : State) (t : Nat) (d : TblDecl) (v j : Nat) : Nat × Nat :=
  let n := subSize s t d j
  let x := hashes s t d v j
  let b0 := x.1 * n / 2 ^ 32
  let b1 := x.2 * n / 2 ^ 32
  (b0, if b1 % 4 = b0 % 4 then b1 ^^^ 1 else b1)

/-- The seven filter positions of (P_L, L) (R250). -/
def filterPos (s : State) (t : Nat) (d : TblDecl) (v j : Nat) : List Nat :=
  let x := hashes s t d v j
  let y := x.2 ||| 1
  (List.range 7).map (fun i => (x.1 + i * y) % 2 ^ 32 * (1024 * d.bloom) / 2 ^ 32)

/-- The first word of a table's bits in the filter SRAM, memory 0x04: the prefix tables' bits lie there in the order of table
ID (R250, R410; the order is the model's). -/
def bloomBase (s : State) (t : Nat) : Nat :=
  (s.img.tables.map (fun (e : Nat × Option TblDecl) => match e.2 with
    | some d => if e.1 < t ∧ d.kind = 5 then 16 * d.bloom else 0
    | none => 0)).foldl (fun a b => a + b) 0

/-- The word that holds a filter bit. -/
def filterWord (s : State) (t p : Nat) : Nat := bloomBase s t + p / 64

/-- A filter bit of a table as a read returns it: every bit of an uncorrectable word counts as 1 (R252, R412). -/
def filterBit (s : State) (t p : Nat) : Bool :=
  let b := s.hsh.filter.get (fun _ => false) (t * 2 ^ 24 + p)
  match flipAt s 4 (filterWord s t p) with
  | none => b
  | some f => (ecc72 f.mask).1 = .uncorrectable || (b != bitOf (ecc72 f.mask).2 (p % 64))

/-- Set a filter bit: the rest of its word is written back (R413). -/
def setFilter (s : State) (t p : Nat) (b : Bool) : State :=
  let w := filterWord s t p
  let x := residual s 4 w
  let near := if x = 0 then [] else (List.range 64).filter (fun i => bitOf x i)
  let f := near.foldl (fun m i => m.set (fun _ => false) (t * 2 ^ 24 + p / 64 * 64 + i)
    (!(m.get (fun _ => false) (t * 2 ^ 24 + p / 64 * 64 + i)))) s.hsh.filter
  wordMerged { s with hsh := { s.hsh with filter := f.set (fun _ => false) (t * 2 ^ 24 + p) b } } 4 w

/-- Is a length flagged for a prefix value: all seven bits set (R247)? -/
def flaggedAt (s : State) (t : Nat) (d : TblDecl) (v j : Nat) : Bool := (filterPos s t d v j).all (filterBit s t)

/-- The length indices a prefix search probes (R247). -/
def flagged (s : State) (t : Nat) (d : TblDecl) (k : Nat) : List Nat :=
  (List.range (subCount d)).filter (fun j => flaggedAt s t d (keyAt d k j) j)

/-- The first of the nine words of stash entry i of a table in memory 0x05: eight of its bytes and one that holds LENIX and
whether it is valid (R410; the use of the nine words is the model's). -/
def stashWord (t i : Nat) : Nat := (t * 64 + i) * 9

/-- The words of a stash entry that a table's format uses. -/
def stashWords (d : TblDecl) (t i : Nat) : List Nat :=
  (List.range ((fmtOf d).size / 8)).map (fun k => stashWord t i + k) ++ [stashWord t i + 8]

/-- An entry's bytes with what the reads of its words leave wrong in them (R412). -/
def stashBytes (s : State) (t i : Nat) (e : List Byte) : List Byte :=
  (List.range (e.length / 8)).foldl (fun b k =>
    let x := residual s 5 (stashWord t i + k)
    if x = 0 then b else overlay b (8 * k) (leBytes 8 (fieldAt b (8 * k) 8 ^^^ x))) e

/-- Stash entry i of a table as it reads (R243). -/
def stashAt (s : State) (t i : Nat) : Option StashEnt :=
  (KMap.find s.hsh.stash (t * 64 + i)).map (fun e => ⟨e.lenix, stashBytes s t i e.entry⟩)

/-- Some word of a stash entry reads uncorrectable (R272). -/
def stashBadAt (s : State) (t i : Nat) : Bool := badWords s 5 (stashWord t i) 9

/-- A master compares the valid stash entries of a table: those it reads are tracked, and whether one is uncorrectable (R272,
R423). -/
def readStash (s : State) (t master : Nat) (is : List Nat) : State × Bool :=
  match tblOf s t with
  | none => (s, false)
  | some d =>
    let held := is.filter (fun i => (KMap.find s.hsh.stash (t * 64 + i)).isSome)
    (readWords s 5 master ((held.map (stashWords d t)).flatten), held.any (stashBadAt s t))

/-- Set or clear a stash entry: its words are written whole, or only the one that says that it is valid. -/
def setStash (s : State) (t i : Nat) (e : Option StashEnt) : State :=
  let s1 := { s with hsh := { s.hsh with stash := KMap.put s.hsh.stash (t * 64 + i) e } }
  match e with
  | none => rangeWritten s1 5 (stashWord t i + 8) 1
  | some x => rangeWritten (rangeWritten s1 5 (stashWord t i) (x.entry.length / 8)) 5 (stashWord t i + 8) 1

/-- Change bytes of a stash entry in place: words covered in part are merged (R413). -/
def patchStash (s : State) (t i : Nat) (off : Nat) (bs : List Byte) : State :=
  match KMap.find s.hsh.stash (t * 64 + i) with
  | none => s
  | some e =>
    let w := stashWord t i + off / 8
    let x := residual s 5 w
    let old := if x = 0 then e.entry else overlay e.entry (off / 8 * 8) (leBytes 8 (fieldAt e.entry (off / 8 * 8) 8 ^^^ x))
    let s1 := { s with hsh := { s.hsh with stash := KMap.put s.hsh.stash (t * 64 + i) (some ⟨e.lenix, overlay old off bs⟩) } }
    if bs.length = 8 then wordWritten s1 5 w else wordMerged s1 5 w

/-- Valid stash entries of a table (R274). -/
def stashCount (s : State) (t : Nat) : Nat := ((List.range 64).filter (fun i => (stashAt s t i).isSome)).length

/-- The stash entry of a table that holds a key value at a length index. -/
def stashFind (s : State) (t : Nat) (f : Fmt) (j v : Nat) : Option (Nat × List Byte) :=
  (List.range 64).findSome? (fun i =>
    match stashAt s t i with
    | some e => if e.lenix = j ∧ entKey f e.entry = v ∧ stashBadAt s t i = false then some (i, e.entry) else none
    | none => none)

/-- The valid slot of a bucket that holds a key value. -/
def slotFind (f : Fmt) (data : List Byte) (v : Nat) : Option (Nat × List Byte) :=
  (List.range f.slots).findSome? (fun i =>
    let e := slice data (i * f.size) f.size
    if entStamp f e ≠ 0 ∧ entKey f e = v then some (i, e) else none)

/-- The first free slot of a bucket. -/
def slotFree (f : Fmt) (data : List Byte) : Option Nat :=
  (List.range f.slots).find? (fun i => entStamp f (slice data (i * f.size) f.size) = 0)

/-- One table's wiping flag (R270). -/
def hshWiping (s : State) (t : Nat) : Bool := s.hsh.wiping.get (fun _ => false) t

/-- Count an event in the engine's counters. -/
def hcnt (s : State) (i n : Nat) : State := bump s (Reg.hshCnt i) n

/-- An answer on its way. -/
def answerAt (s : State) (due : Nat) (who : Asker) (tern : Bool) (a : Ans) : State :=
  { s with vrd := { s.vrd with answers := s.vrd.answers ++ [⟨due, who, tern, a⟩] } }

/-- Is the asker a descriptor's search? -/
def isDesc (w : Asker) : Bool := match w with
  | .desc _ _ _ => true
  | .cmd _ => false
  | .welt _ => false

/-- A key is taken (R244, R247): an exact-match search asks for its granules after 2 cycles, a prefix search goes through the
filter, and a search of a table under WIPE answers MISS as one with no flagged length does (R270). -/
def takeKey (s : State) (w : Nat × Nat × Asker × Nat × Key × Bool) : State :=
  match w with
  | (_, m, who, t, key, stamp) =>
    match tblOf s t with
    | none => s
    | some d =>
      if hshWiping s t then answerAt (if isDesc who then hcnt s 0 1 else s) (s.cycle + 6) who false Ans.miss
      else if d.kind = 5 then
        { s with hsh := { s.hsh with waiting := s.hsh.waiting ++ [(s.cycle + 6, m, who, t, key, stamp)] } }
      else
        let c := candidates s t d key.toNat 0
        present s m false (.hashSearch who t key stamp) (s.cycle + 2)
          [Gran.rd (d.base + c.1), Gran.rd (d.base + c.2)]

/-- Keys the engine can still take in this cycle: 4 in all (R244). -/
def keysLeft (s : State) : Nat := if s.hsh.keyCycle = s.cycle then 4 - s.hsh.keyCount else 4

/-- The engine takes the keys that are there, up to 4 in a cycle; the others wait for the next (R244). -/
def takeKeys (s : State) : State :=
  let due := (s.hsh.keys.takeWhile (fun w => decide (w.1 ≤ s.cycle))).take (keysLeft s)
  if due = [] then s
  else
    due.foldl takeKey { s with hsh := { s.hsh with
      keys := s.hsh.keys.drop due.length
      keyCycle := s.cycle
      keyCount := (4 - keysLeft s) + due.length } }

/-- A key joins those that wait, in the order in which they are there. -/
def insertKey (w : Nat × Nat × Asker × Nat × Key × Bool) (l : List (Nat × Nat × Asker × Nat × Key × Bool)) :
    List (Nat × Nat × Asker × Nat × Key × Bool) :=
  match l with
  | [] => [w]
  | x :: r => if w.1 < x.1 then w :: x :: r else x :: insertKey w r

/-- Issue a search of an exact-match or prefix table whose key is there at cycle k (R244, R247, R270). -/
def issueHash (s : State) (m t : Nat) (who : Asker) (key : Key) (stamp : Bool) (k : Nat) : State :=
  takeKeys { s with hsh := { s.hsh with keys := insertKey (k, m, who, t, key, stamp) s.hsh.keys } }

/-- The granules a prefix search probes (R248). -/
def probeGrans (s : State) (t : Nat) (d : TblDecl) (k : Nat) (js : List Nat) : List Gran :=
  (js.map (fun j =>
    let c := candidates s t d (keyAt d k j) j
    let b := subBase s t d j
    [Gran.rd (b + c.1), Gran.rd (b + c.2)])).flatten

/-- Where a hit lies: length index, stash or bucket granule, slot, entry. -/
structure HHit where
  lenix : Nat
  stash : Bool
  gran : Nat
  slot : Nat
  entry : List Byte
  deriving DecidableEq, Repr

/-- The hits of a search's round, longest length first (R243, R248). -/
def hitsOf (s : State) (t : Nat) (d : TblDecl) (key : Nat) (x : Round) : List HHit :=
  let f := fmtOf d
  (List.range (subCount d)).filterMap (fun j =>
    let v := keyAt d key j
    let c := candidates s t d v j
    let b := subBase s t d j
    let inB := fun (g : Nat) =>
      match x.got.find? (fun e => e.1 = g) with
      | some e => if e.2.2 then none else (slotFind f e.2.1 v).map (fun (r : Nat × List Byte) => (⟨j, false, g, r.1, r.2⟩ : HHit))
      | none => none
    match inB (b + c.1) with
    | some h => some h
    | none =>
      match inB (b + c.2) with
      | some h => some h
      | none => (stashFind s t f j v).map (fun (r : Nat × List Byte) => (⟨j, true, 0, r.1, r.2⟩ : HHit)))

/-- The handle of a hit (R265). -/
def hitHandle (s : State) (t : Nat) (d : TblDecl) (h : HHit) : Nat :=
  if h.stash then mkHandle true h.lenix 0 h.slot else mkHandle false h.lenix (h.gran - subBase s t d h.lenix) h.slot

/-- The other copy of an entry that is being relocated or drained, as granule and slot; none when it is in the stash (R254). -/
def otherCopy (s : State) (t : Nat) (d : TblDecl) (h : Nat) : Option (Nat × Nat) :=
  match twinOf s t h with
  | some x => if hStash x then none else some (subBase s t d (hLenix x) + hBucket x, hSlot x)
  | none => none

/-- Refresh the stamps of the entries a descriptor's search hit (R254): posted stamp writes once the four cycles of compare
are over (R244), stash entries on die. -/
def refreshHits (s : State) (m t : Nat) (d : TblDecl) (hits : List HHit) (rids : List Nat) : State :=
  let f := fmtOf d
  let cur := curStamp s t d
  let stale := hits.filter (fun h => entStamp f h.entry ≠ cur)
  let s1 := (stale.filter (fun h => h.stash)).foldl (fun st h =>
    patchStash st t h.slot f.stampOff (leBytes f.stampLen cur)) s
  let places := (stale.map (fun h =>
    (if h.stash then [] else [(h.gran, h.slot)]) ++ (match otherCopy s t d (hitHandle s t d h) with
      | some p => [p]
      | none => []))).flatten
  let s2 := resolveReads s1 rids (places.map (fun p => p.1))
  if places = [] then s2
  else
    present (hcnt s2 8 places.length) m false (.stampWrite t rids) (s.cycle + 4)
      (places.map (fun p => Gran.wr p.1 (stampBytes f p.2 cur)))

/-- The probed lengths of a round that did not hit (R278). -/
def probesMissed (s : State) (t : Nat) (d : TblDecl) (key : Nat) (x : Round) (hs : List HHit) : Nat :=
  ((List.range (subCount d)).filter (fun j =>
    x.got.any (fun e => decide (e.1 = subBase s t d j + (candidates s t d (keyAt d key j) j).1)) &&
      hs.all (fun h => decide (h.lenix ≠ j)))).length

/-- A search's round is complete: its answer, its counters, its stamp writes (R243, R248, R254, R272). -/
def finishHashSearch (s : State) (x : Round) (who : Asker) (t : Nat) (key : Key) (stamp : Bool) (due : Nat) : State :=
  match tblOf s t with
  | none => resolveReads s x.rids []
  | some d =>
    let f := fmtOf d
    let hs := hitsOf s t d key.toNat x
    let stash := readStash s t x.master (List.range 64)
    let bad := roundBad x || stash.2
    let multi := decide (hs.length ≥ 2) && decide (d.kind = 5)
    let a : Ans := match hs with
      | [] => { Ans.miss with part := bad }
      | h :: _ => ⟨true, multi, false, bad, entRes f h.entry, hitHandle s t d h⟩
    let s1 := if isDesc who then
        let c0 := hcnt stash.1 0 1
        let c1 := if a.hit && !bad then hcnt c0 1 1 else c0
        let c2 := if bad then hcnt c1 4 1 else c1
        c2
      else stash.1
    let s2 := if multi then hcnt s1 2 1 else s1
    let s3 := if hs.any (fun h => h.stash) then hcnt s2 3 1 else s2
    let s4 := if d.kind = 5 then hcnt s3 6 (probesMissed s t d key.toNat x hs) else s3
    let s5 := if bad then setEvt s4 Reg.hshEvt 2 else s4
    let s6 := if stamp && d.age && !bad then refreshHits s5 x.master t d hs x.rids else resolveReads s5 x.rids []
    answerAt s6 (due + 4) who false a

/-- The filter words that a search of these lengths reads (R247, R252). -/
def filterReads (s : State) (t : Nat) (d : TblDecl) (ps : List (Nat × Nat)) : List Nat :=
  ((ps.map (fun p => (filterPos s t d p.1 p.2).map (filterWord s t))).flatten).eraseDups

/-- A search reads the filter: its words are tracked, and each that is uncorrectable counts (R252, R272, R278). -/
def askFilter (s : State) (t master : Nat) (d : TblDecl) (ps : List (Nat × Nat)) : State :=
  (filterReads s t d ps).foldl (fun st w =>
    let r := wordRead st 4 w master
    if r.2.1 = .uncorrectable then setEvt (hcnt r.1 14 1) Reg.hshEvt 2 else r.1) s

/-- One prefix search passes the length filter: its probes are requested, or it answers without a round (R247, R248, R270). -/
def filterOne (s : State) (w : Nat × Nat × Asker × Nat × Key × Bool) : State :=
  match w with
  | (due, m, who, t, key, stamp) =>
    match tblOf s t with
    | none => s
    | some d =>
      if hshWiping s t then answerAt (if isDesc who then hcnt s 0 1 else s) due who false Ans.miss
      else
        let s1 := askFilter s t m d ((List.range (subCount d)).map (fun j => (keyAt d key.toNat j, j)))
        let js := flagged s t d key.toNat
        if js = [] then
          finishHashSearch (hcnt s1 7 1) ⟨0, m, .hashSearch who t key stamp, 0, [], []⟩ who t key stamp (due - 4)
        else present (hcnt s1 5 js.length) m false (.hashSearch who t key stamp) due (probeGrans s t d key.toNat js)

/-- The engine takes the keys that are there, and every search whose hash and filter are done by now is filtered (R244, R247). -/
def runFilters (s0 : State) : State :=
  let s := takeKeys s0
  let ready := s.hsh.waiting.filter (fun w => decide (w.1 ≤ s.cycle))
  let s1 := { s with hsh := { s.hsh with waiting := s.hsh.waiting.filter (fun w => !decide (w.1 ≤ s.cycle)) } }
  ready.foldl filterOne s1

/-- Entries held at a length, as acknowledged (R274, R276). -/
def entAdd (s : State) (t j : Nat) : State :=
  { s with hsh := { s.hsh with entries := s.hsh.entries.setNat (t * 16 + j) (s.hsh.entries.nat (t * 16 + j) + 1) } }
def entSub (s : State) (t j : Nat) : State :=
  { s with hsh := { s.hsh with entries := s.hsh.entries.setNat (t * 16 + j) (s.hsh.entries.nat (t * 16 + j) - 1) } }

/-- Entries of a DRAM table (R274). -/
def hshEntries (s : State) (t : Nat) : Nat := ((List.range 16).map (fun j => s.hsh.entries.nat (t * 16 + j))).foldl (· + ·) 0

/-- A relocation of the table is in progress: moving is 1 (R271). -/
def hshMoving (s : State) (t : Nat) : Nat := if s.hsh.moving.any (fun m => m.1 = t) then 1 else 0

/-- Audit of a DRAM table's ledger (R40, R271). -/
def auditDram (s : State) (t : Nat) : State :=
  let v := hshEntries s t + hshMoving s t
  let ins := s.vrd.tblIns.nat t
  let out := s.vrd.tblDel.nat t + s.vrd.tblAged.nat t + s.vrd.tblFlushed.nat t
  if hshWiping s t || decide (v + out = ins + hshMoving s t) then s else ledgerFault s 2 t ins out v (hshMoving s t)

/-- One relocation or drain of a table: generation, log, count (R258, R260, R269). -/
def relocated (s : State) (t src dst : Nat) : State :=
  let g := (s.hsh.gen.nat t + 1) % 65536
  hcnt { s with hsh := { s.hsh with gen := s.hsh.gen.setNat t g, log := logReloc s.hsh.log ⟨t, g, src, dst⟩ } } 9 1

/-- A DRAM command ends. -/
def endHash (s : State) (o : HashOp) (r : Report) : State :=
  let s1 := { s with hsh := { s.hsh with ops := s.hsh.ops.filter (fun x => x.id ≠ o.id) } }
  let s2 := if r.status = 0x0A then setEvt s1 Reg.hshEvt 2 else s1
  complete s2 o.id r

/-- A round whose compare ends at a cycle (R244, R268). -/
def compareAt (s : State) (due : Nat) (x : Round) : State :=
  { s with hsh := { s.hsh with compared := s.hsh.compared ++ [(due, x)] } }

/-- Replace an operation in progress. -/
def setHop (s : State) (o : HashOp) : State :=
  { s with hsh := { s.hsh with ops := s.hsh.ops.map (fun x => if x.id = o.id then o else x) } }

/-- The master a command is charged to (R348). -/
def cmdMaster (s : State) (id : Nat) : Nat := match cmdOf s id with
  | some c => ringMaster c.ring
  | none => 34

/-- The report of a DRAM command (R267); DEPTH is the length of the path that was moved. -/
def hashReport (s : State) (o : HashOp) (status handle : Nat) : Report :=
  { Report.plain status handle (s.hsh.gen.nat o.table) with count := if o.phase = .path then o.depth else 0 }

/-- A DRAM command ends with a handle. -/
def endHandle (s : State) (o : HashOp) (status handle : Nat) : State := endHash s o (hashReport s o status handle)

/-- A DRAM command ends with no handle of its own: a free value where it names none (R267). -/
def endOpen (s : State) (o : HashOp) (status : Nat) : State :=
  endHash (draw s) o (hashReport s o status (Config.openHandle s.draws).toNat)

/-- Counter granules and nibbles of a prefix (R251). -/
def ctrPlaces (s : State) (t : Nat) (d : TblDecl) (v j : Nat) : List (Nat × Nat) :=
  (filterPos s t d v j).map (fun p => (d.base + p / 128, p % 128))

/-- Saturate every counter of an uncorrectable counter granule and set its filter bits (R252). -/
def satGran (s : State) (t : Nat) (d : TblDecl) (g : Nat) : State :=
  let s1 := (storeGran s (Gran.wr g ((List.range 64).map (fun i => (i, 0xFF))))).1
  let s2 := (List.range 128).foldl (fun st i => setFilter st t ((g - d.base) * 128 + i) true) s1
  setEvt (setEvt (hcnt s2 13 128) Reg.hshEvt 2) Reg.hshEvt 3

/-- A round of counter reads returned: uncorrectable granules saturate, and a counter about to reach 15 counts (R252). -/
def ctrRound (s : State) (t : Nat) (d : TblDecl) (x : Round) (v j : Nat) (up : Bool) : State :=
  let s1 := (x.got.filter (fun e => e.2.2)).foldl (fun st e => satGran st t d e.1) s
  (ctrPlaces s1 t d v j).foldl (fun st p =>
    if up && decide (nibble (granBytes st p.1) p.2 = 14) then setEvt (hcnt st 13 1) Reg.hshEvt 3 else st) s1

/-- Counter writes of a prefix (R251). -/
def ctrWrites (s : State) (t : Nat) (d : TblDecl) (v j : Nat) (up : Bool) : List Gran :=
  (ctrPlaces s t d v j).map (fun p => { Gran.wr p.1 [] with nib := [(p.2, up)] })

/-- Filter bits follow their counters (R251). -/
def syncFilter (s : State) (t : Nat) (d : TblDecl) (v j : Nat) : State :=
  (filterPos s t d v j).foldl (fun st p =>
    setFilter st t p (decide (nibble (granBytes st (d.base + p / 128)) (p % 128) ≠ 0))) s

/-- The held mark of writes that fill or empty a slot of an aging table (R323). -/
def holdIf (d : TblDecl) (g : Gran) : Gran := { g with held := d.age }

/-- A stash entry that bucket b could take (R260): the lowest of the same length index with b as a candidate. -/
def drainFor (s : State) (t : Nat) (d : TblDecl) (j b : Nat) : Option (Nat × StashEnt) :=
  (List.range 64).findSome? (fun i =>
    match stashAt s t i with
    | some e =>
      let c := candidates s t d (entKey (fmtOf d) e.entry) j
      if e.lenix = j ∧ (c.1 = b ∨ c.2 = b) ∧ stashBadAt s t i = false then some (i, e) else none
    | none => none)

/-- Finish the upkeep of a removal; a DELETE that waited for it completes (R261). -/
def endUpkeep (s : State) (u : Upkeep) : State :=
  let s1 := { s with hsh := { s.hsh with upkeep := s.hsh.upkeep.filter (fun x => x.id ≠ u.id) } }
  match u.cmd with
  | none => s1
  | some id =>
    match s1.hsh.ops.find? (fun o => o.id = id) with
    | some o => endHandle s1 o 0 o.handle
    | none => s1

/-- Replace an upkeep record. -/
def setUpkeep (s : State) (u : Upkeep) : State :=
  { s with hsh := { s.hsh with upkeep := s.hsh.upkeep.map (fun x => if x.id = u.id then u else x) } }

/-- The drain of R260 after a removal, or the end of its upkeep. -/
def tryDrain (s : State) (u : Upkeep) : State :=
  match tblOf s u.table with
  | none => endUpkeep s u
  | some d =>
    if u.slot ≥ 64 then endUpkeep s u
    else
      match drainFor s u.table d u.lenix u.bucket with
      | none => endUpkeep s u
      | some (i, e) =>
        let f := fmtOf d
        let g := holdIf d { Gran.wr (subBase s u.table d u.lenix + u.bucket) (slotBytes f u.slot e.entry) with
          cond := stampBytes f u.slot 0 }
        ask (setUpkeep s { u with phase := 2, stash := i, entry := e.entry }) u.master (.upkeep u.id) s.cycle [g]

/-- An entry has left a slot or the stash (R251, R260): counters first, then a drain. `slot` 64: it was in the stash. -/
def startUpkeep (s : State) (m t j bucket slot : Nat) (entry : List Byte) (cmd : Option Nat) : State :=
  match tblOf s t with
  | none => s
  | some d =>
    let id := s.rgl.nextId
    let u : Upkeep := ⟨id, m, t, j, bucket, slot, entry, 0, 0, 0, cmd⟩
    let s1 := { s with rgl := { s.rgl with nextId := id + 1 }, hsh := { s.hsh with upkeep := s.hsh.upkeep ++ [u] } }
    if d.kind = 5 then
      ask s1 m (.upkeep id) s.cycle
        ((ctrPlaces s t d (entKey (fmtOf d) entry) j).map (fun p => Gran.rd p.1))
    else tryDrain s1 u

/-- A counter-read round of a removal's upkeep returned. -/
def upkeepRound (s : State) (x : Round) (id : Nat) : State :=
  match s.hsh.upkeep.find? (fun u => u.id = id) with
  | none => s
  | some u =>
    match tblOf s u.table with
    | none => s
    | some d =>
      let v := entKey (fmtOf d) u.entry
      let s1 := ctrRound s u.table d x v u.lenix false
      let gs := ctrWrites s1 u.table d v u.lenix false
      ask (setUpkeep s1 { u with phase := 1, left := gs.length }) u.master (.upkeep id) s.cycle gs

/-- A write of a removal's upkeep is acknowledged: the last counter, or the drain (R251, R260). -/
def upkeepAck (s : State) (w : WriteFl) (id : Nat) : State :=
  match s.hsh.upkeep.find? (fun u => u.id = id) with
  | none => s
  | some u =>
    match tblOf s u.table with
    | none => endUpkeep s u
    | some d =>
      if u.phase = 1 then
        if u.left ≤ 1 then
          let s1 := syncFilter s u.table d (entKey (fmtOf d) u.entry) u.lenix
          tryDrain s1 { u with left := 0 }
        else setUpkeep s { u with left := u.left - 1 }
      else
        let src := mkHandle true u.lenix 0 u.stash
        let s1 := if w.done then
            relocated (setStash { s with hsh := { s.hsh with
              twin := s.hsh.twin.filter (fun m => !(decide (m.1 = u.table) && decide (m.2.1 = src))) } } u.table u.stash none)
              u.table src (mkHandle false u.lenix u.bucket u.slot)
          else s
        endUpkeep s1 u

/-- Length of an entry image (R266). -/
def imageLen (d : TblDecl) : Nat := 16 + (fmtOf d).size

/-- The key an image names, as stored at its length index. -/
def imageKey (d : TblDecl) (img : List Byte) : Nat := entKey (fmtOf d) (img.drop 16)

/-- LENIX of an image. -/
def imageLenix (img : List Byte) : Nat := fieldAt img 0 1 % 16

/-- An input image keeps R266: reserved fields zero, LENIX declared, STAMP 0 on INSERT, KEY bits above the width zero.
`byKey`: only the bits above KEY_BITS must be zero; else, on a prefix table, the bits at and above L. -/
def imageFormatOk (d : TblDecl) (img : List Byte) (insert : Bool) : Bool :=
  let f := fmtOf d
  let e := img.drop 16
  let j := imageLenix img
  let width := if d.kind = 5 then (if insert then lenOf d j else d.keyBits) else d.keyBits
  decide (fieldAt img 0 1 / 16 = 0) && decide (fieldAt img 1 1 = 0) && decide (fieldAt img 2 14 = 0) &&
    decide (j < subCount d) && decide (entKey f e < 2 ^ width) &&
    (!insert || decide (entStamp f e = 0)) &&
    (f ≠ .standard || decide (bitsOf (entMeta e) 6 5 = 0))

/-- An UPDATE by handle's image keeps R266: reserved fields zero, LEN zero, LENIX declared, META [6:5] zero. -/
def imageHeaderOk (d : TblDecl) (img : List Byte) : Bool :=
  decide (fieldAt img 0 1 / 16 = 0) && decide (fieldAt img 1 1 = 0) && decide (fieldAt img 2 14 = 0) &&
    decide (imageLenix img < subCount d) && (fmtOf d ≠ .standard || decide (bitsOf (entMeta (img.drop 16)) 6 5 = 0))

/-- NEXT and READ's output image (R266). -/
def outImage (d : TblDecl) (j : Nat) (e : List Byte) : List Byte :=
  leBytes 1 (if d.kind = 5 then j else 0) ++ leBytes 1 (if d.kind = 5 then lenOf d j else 0) ++ leBytes 14 0 ++ e

/-- Does a handle name a slot or stash entry (R265, R269)? -/
def namesSlot (s : State) (t : Nat) (d : TblDecl) (h : Nat) : Bool :=
  decide (hLenix h < subCount d) &&
    (if hStash h then decide (bitsOf h 28 6 = 0)
     else decide (hBucket h < subSize s t d (hLenix h)) && decide (hSlot h < (fmtOf d).slots))

/-- Does a handle lie within the table's handle range (R265, R269), whether or not a slot exists there? -/
def inRange (s : State) (t : Nat) (d : TblDecl) (h : Nat) : Bool :=
  decide (hLenix h < subCount d) &&
    (if hStash h then decide (bitsOf h 28 6 = 0)
     else decide (h ≤ mkHandle false (subCount d - 1) (subSize s t d (subCount d - 1) - 1) 3))

/-- MOVED for DELETE, READ and UPDATE by handle (R211, R269). -/
def dramMoved (s : State) (c : TCmd) : Option Report :=
  let cur := s.hsh.gen.nat c.table
  let r := resolve s.hsh.log c.table c.gen cur c.handle 0
  if r.2 || decide (r.1 ≠ c.handle) then some { Report.plain 2 r.1 cur with restart := r.2 } else none

/-- MOVED for NEXT (R269): one below the lowest destination that a move brought from above HANDLE to at or below it. -/
def nextMoved (s : State) (c : TCmd) : Option Report :=
  let cur := s.hsh.gen.nat c.table
  if c.gen = cur then none
  else if covered s.hsh.log c.table c.gen cur then
    let ds := ((relocsAfter s.hsh.log c.table c.gen cur).filter (fun r =>
      decide (r.src > c.handle) && decide (r.dst ≤ c.handle))).map (fun r => r.dst)
    match lowest ds with
    | none => some (Report.plain 2 c.handle cur)
    | some 0 => some { Report.plain 2 0 cur with restart := true }
    | some (d + 1) => some (Report.plain 2 d cur)
  else some { Report.plain 2 0 cur with restart := true }

/-- A fresh operation record for a command. -/
def newHop (s : State) (c : TCmd) (j : Nat) (phase : HPhase) (entry : List Byte) (v : Nat) (bs : List Nat) : HashOp :=
  ⟨c.id, c.opcode, c.table, j, phase, s.rgl.nextId, entry, v, bs, [], 2, 0, [], c.handle, c.byKey, false, 0, none, none,
    false, 0, 0⟩

/-- Start a command's operation with a first round of reads (R268). -/
def beginHop (s : State) (c : TCmd) (o : HashOp) (gs : List Gran) : State :=
  let s1 := startCmd s c.id
  let s2 := { s1 with hsh := { s1.hsh with ops := s1.hsh.ops ++ [o] } }
  if gs = [] then s2 else present s2 (ringMaster c.ring) false (.hashCmd c.id) (s.cycle + 2) gs

/-- Is the opcode one of the table's write lane (R256)? -/
def isWriteOp (op : Nat) : Bool := [3, 4, 6, 0x12, 0x13].contains op

/-- The write lane lets a command start (R256): fewer than 16 in flight, none relocating or wiping, no earlier command
on one of its buckets (granules). -/
def laneOpen (s : State) (t : Nat) (gs : List Nat) : Bool :=
  let ops := s.hsh.ops.filter (fun o => decide (o.table = t) && isWriteOp o.opcode)
  decide (ops.length < 16) && ops.all (fun o =>
    !o.relocating && decide (o.phase ≠ .wiping) && o.buckets.all (fun g => !gs.contains g))

/-- The head of a DRAM lane with this opcode, its input here when it needs one (R256, R332). -/
def dramHead (s : State) (op : Nat) (needs : TCmd → Bool) : Option TCmd :=
  headWith s op (fun c =>
    (match tblOf s c.table with
     | some d => d.isDram
     | none => false) && (!needs c || c.input.isSome))

/-- Checks 7 to 10 of R554 shared by DRAM commands: WIPING, then what `moved` says, then ADDR, then the input. -/
def dramChecks (s : State) (c : TCmd) (moved : Option Report) (len : Nat) (out : Bool)
    (bad : List Byte → Bool) : Option State :=
  let g := s.hsh.gen.nat c.table
  if hshWiping s c.table then some (refuse s c 0x0E g)
  else
    match moved with
    | some r => some (complete s c.id r)
    | none =>
      if len ≠ 0 && !addrOk s c.ring c.addr len out then some (refuse s c 0x11 g)
      else
        match c.input with
        | some none => some (refuse s c 0x11 g)
        | some (some bs) => if bad bs then some (refuse s c 9 g) else if c.ue then some (inputLost s c) else none
        | none => none

/-- SEARCH on a DRAM table (R263). -/
def doHshSearch (s : State) : State :=
  match dramHead s 1 (fun _ => true) with
  | none => s
  | some c =>
    match tblOf s c.table with
    | none => s
    | some d =>
      match dramChecks s c none (cdiv d.keyBits 8) false (fun bs => decide (fieldAt bs 0 (cdiv d.keyBits 8) ≥ 2 ^ d.keyBits)) with
      | some r => r
      | none =>
        match c.input with
        | some (some bs) =>
          issueHash (startCmd s c.id) (ringMaster c.ring) c.table (.cmd c.id)
            (BitVec.ofNat 640 (fieldAt bs 0 (cdiv d.keyBits 8))) false s.cycle
        | _ => s

/-- The granules a command by key or by handle reads. -/
def namedGrans (s : State) (c : TCmd) (d : TblDecl) : Nat × Nat × List Nat :=
  if c.byKey then
    match c.input with
    | some (some img) =>
      let j := imageLenix img
      let v := imageKey d img
      let k := candidates s c.table d v j
      let b := subBase s c.table d j
      (j, v, [b + k.1, b + k.2])
    | _ => (0, 0, [])
  else
    let h := c.handle
    (hLenix h, 0, if hStash h then [] else [subBase s c.table d (hLenix h) + hBucket h])

/-- INSERT starts by reading its two candidates (R257). -/
def doHshInsert (s : State) : State :=
  match dramHead s 3 (fun _ => true) with
  | none => s
  | some c =>
    match tblOf s c.table with
    | none => s
    | some d =>
      match dramChecks s c none (imageLen d) false (fun img => !imageFormatOk d img true) with
      | some r => r
      | none =>
        match c.input with
        | some (some img) =>
          let j := imageLenix img
          let v := imageKey d img
          let k := candidates s c.table d v j
          let b := subBase s c.table d j
          let gs := [b + k.1, b + k.2]
          if laneOpen s c.table gs then
            beginHop s c (newHop s c j .read0 (img.drop 16) v gs) (gs.map Gran.rd)
          else s
        | _ => s

/-- The bucket at position n in NEXT's order: LENIX and bucket (R265). -/
def scanAt (s : State) (t : Nat) (d : TblDecl) (n : Nat) : Option (Nat × Nat) :=
  let rec go (js : List Nat) (n : Nat) : Option (Nat × Nat) :=
    match js with
    | [] => none
    | j :: r => if n < subSize s t d j then some (j, n) else go r (n - subSize s t d j)
  go (List.range (subCount d)) n

/-- The position in NEXT's order of a handle's bucket. -/
def scanPos (s : State) (t : Nat) (d : TblDecl) (h : Nat) : Nat :=
  if hStash h then ((List.range (subCount d)).map (subSize s t d)).foldl (· + ·) 0
  else ((List.range (hLenix h)).map (subSize s t d)).foldl (· + ·) 0 +
    min (hBucket h) (subSize s t d (hLenix h))

/-- The granules of the next 16 buckets from a position. -/
def scanGrans (s : State) (t : Nat) (d : TblDecl) (n : Nat) : List Nat :=
  (List.range 16).filterMap (fun i => (scanAt s t d (n + i)).map (fun p => subBase s t d p.1 + p.2))

/-- NEXT ends in the stash: its lowest valid entry above the handle, or END (R263, R265). -/
def scanStash (s : State) (o : HashOp) (d : TblDecl) (start : Bool) : State :=
  let found := minByKey (fun (x : Nat × Nat × StashEnt) => x.1) ((List.range 64).filterMap (fun i =>
    match stashAt s o.table i with
    | some e =>
      let h := mkHandle true e.lenix 0 i
      if start || decide (o.handle < h) then some (h, i, e) else none
    | none => none))
  match found, cmdOf s o.id with
  | some (h, i, e), some c =>
    let r := readStash s o.table (ringMaster c.ring) [i]
    if r.2 then endHandle r.1 o 0x0A h
    else endHandle (putData r.1 c.ring c.addr (outImage d e.lenix e.entry)) o 0 h
  | _, _ => endHandle s o 0x0C o.handle

/-- NEXT on a DRAM table (R263, R269). -/
def doHshNext (s : State) : State :=
  match dramHead s 2 (fun _ => false) with
  | none => s
  | some c =>
    match tblOf s c.table with
    | none => s
    | some d =>
      match dramChecks s c (if c.start then none else nextMoved s c) (imageLen d) true (fun _ => false) with
      | some r => r
      | none =>
        let pos := if c.start then 0 else scanPos s c.table d c.handle
        let gs := scanGrans s c.table d pos
        let o := { newHop s c 0 .scan [] 0 [] with cursor := pos, byKey := c.start }
        let s1 := beginHop s c o (gs.map Gran.rd)
        if gs = [] then compareAt s1 (s.cycle + 2) ⟨0, ringMaster c.ring, .hashCmd c.id, 0, [], []⟩ else s1

/-- A round of NEXT returned (R263, R267): the first valid entry above the handle, an error, SCANNED, or go on. A bucket that
reads uncorrectable is passed by a NEXT from its first slot, which is what UNCORR has returned (R272). -/
def nextRound (s : State) (o : HashOp) (d : TblDecl) (x : Round) : State :=
  let f := fmtOf d
  let place := fun i => match scanAt s o.table d (o.cursor + i) with
    | some p => p
    | none => (0, 0)
  let hit := (List.range x.got.length).findSome? (fun i =>
    let p := place i
    let g := subBase s o.table d p.1 + p.2
    match x.got.find? (fun e => e.1 = g) with
    | none => none
    | some e =>
      if e.2.2 then
        if o.byKey = false ∧ o.handle = mkHandle false p.1 p.2 0 then none
        else some (0x0A, mkHandle false p.1 p.2 0, ([] : List Byte), p.1)
      else (List.range f.slots).findSome? (fun k =>
        let ent := slice e.2.1 (k * f.size) f.size
        let h := mkHandle false p.1 p.2 k
        if entStamp f ent ≠ 0 ∧ (o.byKey = true ∨ o.handle < h) then some (0, h, ent, p.1) else none))
  match hit, cmdOf s o.id with
  | some (0x0A, h, _, _), _ => endHandle s o 0x0A h
  | some (_, h, e, j), some c => endHandle (putData s c.ring c.addr (outImage d j e)) o 0 h
  | _, _ =>
    let o1 := { o with cursor := o.cursor + x.got.length, scanned := o.scanned + x.got.length }
    if o1.scanned ≥ 65536 then
      let p := place (x.got.length - 1)
      endHandle s o 0x0F (mkHandle false p.1 p.2 (f.slots - 1))
    else
      let gs := scanGrans s o.table d o1.cursor
      if gs = [] then scanStash (setHop s o1) o1 d o.byKey
      else present (setHop s o1) (cmdMaster s o.id) false (.hashCmd o.id) (s.cycle + 2) (gs.map Gran.rd)

/-- Write an entry into a slot (R257, R258, R323); `free`: only if the slot is still empty, which a drain can have filled
since it was read (R260). A path's writes carry their own condition (pathAlive). -/
def writePlace (s : State) (o : HashOp) (d : TblDecl) (g slot : Nat) (e : List Byte) (free : Bool) : State :=
  present s (cmdMaster s o.id) false (.hashCmd o.id) s.cycle
    [holdIf d { Gran.wr g (slotBytes (fmtOf d) slot e) with cond := if free then stampBytes (fmtOf d) slot 0 else [] }]

/-- The new entry with the current stamp. -/
def stamped (s : State) (o : HashOp) (d : TblDecl) : List Byte := withStamp (fmtOf d) o.entry (curStamp s o.table d)

/-- INSERT counted: inserted, ENTRIES (R271, R274). -/
def countInsert (s : State) (o : HashOp) : State :=
  entAdd { s with vrd := { s.vrd with tblIns := s.vrd.tblIns.setNat o.table (s.vrd.tblIns.nat o.table + 1) } } o.table o.lenix

/-- The place is found and any counters are up: make the writes (R257, R258). -/
def insertWrites (s : State) (o : HashOp) (d : TblDecl) : State :=
  match o.steps, o.place, o.stashIx with
  | (g, slot, e, some m) :: _, _, _ => writePlace (setHop s { o with phase := .path }) o d g slot (liveAt s o.table d m.1 e) false
  | (g, slot, _, none) :: _, _, _ => writePlace (setHop s { o with phase := .path }) o d g slot (stamped s o d) false
  | [], some (g, slot), _ => writePlace (setHop s { o with phase := .writeEntry }) o d g slot (stamped s o d) true
  | [], none, some i =>
    let s1 := countInsert (setStash s o.table i (some ⟨o.lenix, stamped s o d⟩)) o
    let s2 := hcnt s1 10 1
    let s3 := if stashCount s2 o.table ≥ fget s2 Reg.hshStashThr 6 0 then setEvt s2 Reg.hshEvt 1 else s2
    auditDram (endHandle s3 o 0 (mkHandle true o.lenix 0 i)) o.table
  | [], none, none => endOpen s o 4

/-- The place is found: a prefix table first increments its counters, once (R251). -/
def insertPlaced (s : State) (o : HashOp) (d : TblDecl) : State :=
  if d.kind = 5 ∧ o.counted = false then
    present (setHop s { o with phase := .ctrRead }) (cmdMaster s o.id) false (.hashCmd o.id) s.cycle
      ((ctrPlaces s o.table d o.keyv o.lenix).map (fun p => Gran.rd p.1))
  else insertWrites s o d

/-- No path within the limits: the stash, or FULL (R257). -/
def insertStash (s : State) (o : HashOp) (d : TblDecl) : State :=
  match (List.range 64).find? (fun i => (stashAt s o.table i).isNone) with
  | some i => insertPlaced s { o with stashIx := some i } d
  | none => setEvt (hcnt (endOpen s o 4) 12 1) Reg.hshEvt 0

/-- The other candidate granule of an entry in granule g (R257). -/
def otherGran (s : State) (o : HashOp) (d : TblDecl) (g : Nat) (e : List Byte) : Nat :=
  let c := candidates s o.table d (entKey (fmtOf d) e) o.lenix
  let b := subBase s o.table d o.lenix
  if b + c.1 = g then b + c.2 else b + c.1

/-- Read the next level of relocation candidates, or give up (R257). -/
def readNextLevel (s : State) (o : HashOp) (d : TblDecl) (prev : List HNode) : State :=
  if o.depth + 1 > 4 || o.seen + prev.length > 64 then insertStash s o d
  else
    let gs := prev.map (fun n => otherGran s o d n.bucket n.entry)
    present (setHop s { o with depth := o.depth + 1, seen := o.seen + prev.length, phase := .readLevel (o.depth + 1), relocating := true })
      (cmdMaster s o.id) false (.hashCmd o.id) s.cycle (gs.map Gran.rd)

/-- The nodes of a bucket. -/
def nodesOf (f : Fmt) (g : Nat) (data : List Byte) (parent : Nat) : List HNode :=
  (List.range f.slots).map (fun i => ⟨g, i, slice data (i * f.size) f.size, parent⟩)

/-- Some earlier command of the table is still in flight (R256). -/
def earlierInFlight (s : State) (o : HashOp) : Bool :=
  s.hsh.ops.any (fun x => decide (x.table = o.table) && isWriteOp x.opcode && decide (x.order < o.order))

/-- An earlier INSERT of the table is relocating: a later command of its write lane waits until it completes (R256). -/
def laterHeld (s : State) (o : HashOp) : Bool :=
  isWriteOp o.opcode && s.hsh.ops.any (fun x =>
    decide (x.table = o.table) && isWriteOp x.opcode && x.relocating && decide (x.order < o.order))

/-- A round of such a command waits. -/
def roundHeld (s : State) (x : Round) : Bool :=
  match x.purpose with
  | .hashCmd id => s.hsh.ops.any (fun o => decide (o.id = id) && laterHeld s o)
  | _ => false

/-- Level 0 and the stash are read (R257). -/
def insertRound0 (s0 : State) (o : HashOp) (d : TblDecl) (x : Round) (second : Bool) : State :=
  let r := readStash s0 o.table (cmdMaster s0 o.id) (List.range 64)
  let s := r.1
  let f := fmtOf d
  let g0 := o.buckets.headD 0
  let g1 := o.buckets.getD 1 0
  let d0 := gotData x g0
  let d1 := gotData x g1
  if roundBad x || r.2 then endOpen s o 0x0A
  else if (slotFind f d0 o.keyv).isSome || (slotFind f d1 o.keyv).isSome || (stashFind s o.table f o.lenix o.keyv).isSome then
    endOpen s o 0x0D
  else
    match slotFree f d0, slotFree f d1 with
    | some i, _ => insertPlaced s { o with place := some (g0, i), handle := mkHandle false o.lenix (g0 - subBase s o.table d o.lenix) i } d
    | none, some i => insertPlaced s { o with place := some (g1, i), handle := mkHandle false o.lenix (g1 - subBase s o.table d o.lenix) i } d
    | none, none =>
      let lvl := nodesOf f g0 d0 0 ++ nodesOf f g1 d1 0
      let o1 := { o with relocating := true, levels := [lvl], depth := 0, seen := 2 }
      if !second && earlierInFlight s o then setHop s { o1 with phase := .waitEarlier }
      else readNextLevel (setHop s o1) o1 d lvl

/-- The writes of a path, from the free slot back to the new entry (R258). `dep`: levels left below. -/
def pathSteps (o : HashOp) (base : Nat) (levels : List (List HNode)) (ix : Nat) (dst : Nat × Nat) :
    List (Nat × Nat × List Byte × Option (Nat × Nat)) × (Nat × Nat) :=
  match levels with
  | [] => ([], dst)
  | lv :: rest =>
    match lv[ix]? with
    | none => ([], dst)
    | some n =>
      let r := pathSteps o base rest n.parent (n.bucket, n.slot)
      ((dst.1, dst.2, n.entry, some (mkHandle false o.lenix (n.bucket - base) n.slot, mkHandle false o.lenix (dst.1 - base) dst.2)) :: r.1, r.2)

/-- A level of candidates is read (R257): the first free slot in level order, or one level deeper. -/
def insertLevel (s : State) (o : HashOp) (d : TblDecl) (x : Round) : State :=
  let f := fmtOf d
  if roundBad x then endOpen s o 0x0A
  else
    let prev := o.levels.headD []
    let gran := fun (n : HNode) => otherGran s o d n.bucket n.entry
    let found := (List.range prev.length).findSome? (fun i =>
      match prev[i]? with
      | some n => (slotFree f (gotData x (gran n))).map (fun k => (i, gran n, k))
      | none => none)
    match found with
    | some (i, g, k) =>
      let base := subBase s o.table d o.lenix
      let p := pathSteps o base o.levels i (g, k)
      insertPlaced s { o with steps := p.1 ++ [(p.2.1, p.2.2, [], none)], handle := mkHandle false o.lenix (p.2.1 - base) p.2.2 } d
    | none =>
      let lvl := ((List.range prev.length).map (fun i =>
        match prev[i]? with
        | some n => nodesOf f (gran n) (gotData x (gran n)) i
        | none => [])).flatten
      let o1 := { o with levels := lvl :: o.levels }
      readNextLevel (setHop s o1) o1 d lvl

/-- A write of INSERT's path is acknowledged (R258): the copy is live, the one before it is replaced. -/
def pathAck (s : State) (o : HashOp) (d : TblDecl) : State :=
  match o.steps with
  | [] => s
  | (_, _, _, mv) :: rest =>
    let dropT := s.hsh.moving.filter (fun m => m.1 ≠ o.table)
    match mv with
    | some (src, dst) =>
      let moved := s.hsh.twin.contains (o.table, src, dst)
      let s1 := if moved then relocated s o.table src dst else s
      let s2 := auditDram { s1 with hsh := { s1.hsh with
        moving := dropT ++ (if moved then [(o.table, src, dst)] else []) } } o.table
      let o1 := { o with steps := rest }
      match rest with
      | (g, slot, e, some m) :: _ => writePlace (setHop s2 o1) o1 d g slot (liveAt s2 o.table d m.1 e) false
      | (g, slot, _, none) :: _ => writePlace (setHop s2 o1) o1 d g slot (stamped s2 o d) false
      | [] => setHop s2 o1
    | none =>
      let s1 := countInsert { s with hsh := { s.hsh with moving := dropT } } o
      auditDram (endHandle s1 o 0 o.handle) o.table

/-- DELETE's named entry is read (R261). -/
def deleteRound (s : State) (o : HashOp) (d : TblDecl) (hit : Option HHit) : State :=
  let f := fmtOf d
  match hit with
  | none => endHandle s o (if o.byKey then 3 else 6) o.handle
  | some h =>
    let hd := hitHandle s o.table d h
    let o1 := { o with handle := hd, phase := .clearEntry, entry := h.entry, place := some (h.gran, h.slot) }
    if h.stash then
      let s1 := entSub (setStash s o.table h.slot none) o.table h.lenix
      let s2 := { s1 with vrd := { s1.vrd with tblDel := s1.vrd.tblDel.setNat o.table (s1.vrd.tblDel.nat o.table + 1) } }
      auditDram (startUpkeep (setHop s2 o1) (cmdMaster s o.id) o.table h.lenix 0 64 h.entry (some o.id)) o.table
    else
      present (setHop s o1) (cmdMaster s o.id) false (.hashCmd o.id) s.cycle
        [holdIf d { Gran.wr h.gran (stampBytes f h.slot 0) with
          cond := keyCond f h.slot h.entry, nz := stampPlaces f h.slot }]

/-- UPDATE's named entry is read: one write of RESULT to each of its copies (R262), made while the slot still holds the entry. -/
def updateRound (s : State) (o : HashOp) (d : TblDecl) (hit : Option HHit) : State :=
  let f := fmtOf d
  match hit with
  | none => endHandle s o (if o.byKey then 3 else 6) o.handle
  | some h =>
    let o1 := { o with handle := hitHandle s o.table d h, phase := .update }
    let res := slice o.entry f.keyLen f.resLen
    let s1 := if h.stash then patchStash s o.table h.slot f.keyLen res
      else match twinOf s o.table o1.handle with
        | some x => if hStash x then patchStash s o.table (hIndex x) f.keyLen res else s
        | none => s
    let places := (if h.stash then [] else [(h.gran, h.slot)]) ++ (match otherCopy s o.table d o1.handle with
      | some p => [p]
      | none => [])
    if places = [] then endHandle s1 o1 0 o1.handle
    else
      present (setHop s1 { o1 with left := places.length }) (cmdMaster s o.id) false (.hashCmd o.id) s.cycle
        (places.map (fun p => { Gran.wr p.1 ((List.range f.resLen).map (fun i => (p.2 * f.size + f.keyLen + i, res.getD i 0))) with
          cond := keyCond f p.2 h.entry
          nz := stampPlaces f p.2 }))

/-- The entry a command names is read, by key or by handle (R261–R263). A stash entry whose drain has been served is found in
its slot. -/
def namedHit (s : State) (o : HashOp) (d : TblDecl) (x : Round) : Option HHit :=
  let f := fmtOf d
  if o.byKey then
    match o.buckets.findSome? (fun g => (slotFind f (gotData x g) o.keyv).map (fun r => (⟨o.lenix, false, g, r.1, r.2⟩ : HHit))) with
    | some h => some h
    | none => (stashFind s o.table f o.lenix o.keyv).map (fun r => (⟨o.lenix, true, 0, r.1, r.2⟩ : HHit))
  else if hStash o.handle then
    match stashAt s o.table (hIndex o.handle), otherCopy s o.table d o.handle with
    | some e, none => if e.lenix = hLenix o.handle then some ⟨e.lenix, true, 0, hIndex o.handle, e.entry⟩ else none
    | some e, some p => if e.lenix = hLenix o.handle then some ⟨e.lenix, false, p.1, p.2, e.entry⟩ else none
    | none, _ => none
  else
    let g := o.buckets.headD 0
    let e := slice (gotData x g) (hSlot o.handle * f.size) f.size
    if entStamp f e ≠ 0 then some ⟨o.lenix, false, g, hSlot o.handle, e⟩ else none

/-- READ's named entry is read (R263). -/
def readRound (s : State) (o : HashOp) (d : TblDecl) (hit : Option HHit) : State :=
  match hit, cmdOf s o.id with
  | some h, some c => endHandle (putData s c.ring c.addr (outImage d h.lenix h.entry)) o 0 (hitHandle s o.table d h)
  | _, _ => endHandle s o (if o.byKey then 3 else 6) o.handle

/-- What a command by name does with its round (none for a stash handle). -/
def namedRound (s : State) (o : HashOp) (d : TblDecl) (x : Round) : State :=
  let r := readStash s o.table (cmdMaster s o.id)
    (if o.byKey then List.range 64 else if hStash o.handle then [hIndex o.handle] else [])
  if roundBad x || r.2 then endHandle r.1 o 0x0A o.handle
  else
    let h := namedHit s o d x
    if o.opcode = 4 then deleteRound r.1 o d h else if o.opcode = 0x12 then updateRound r.1 o d h else readRound r.1 o d h

/-- READ, DELETE and UPDATE start by reading what they name (R256, R261–R263). -/
def doNamed (s : State) (op : Nat) (out : Bool) : State :=
  match dramHead s op (fun c => c.byKey || op = 0x12) with
  | none => s
  | some c =>
    match tblOf s c.table with
    | none => s
    | some d =>
      let len := if op = 4 && !c.byKey then 0 else imageLen d
      match dramChecks s c (if c.byKey then none else dramMoved s c) len out
          (fun img => if c.byKey then !imageFormatOk d img false else !imageHeaderOk d img) with
      | some r => r
      | none =>
        let n := namedGrans s c d
        let entry := match c.input with
          | some (some img) => img.drop 16
          | _ => []
        if out || laneOpen s c.table n.2.2 then
          let filter := decide (d.kind = 5) && c.byKey && decide (op ≠ 4)
          let o := newHop s c n.1 (if filter then .filtered else .readNamed) entry n.2.1 n.2.2
          let s1 := beginHop s c o (if filter then [] else n.2.2.map Gran.rd)
          if filter then compareAt s1 (s.cycle + 6) ⟨0, ringMaster c.ring, .hashCmd c.id, 0, [], []⟩
          else if n.2.2 = [] then compareAt s1 (s.cycle + 186) ⟨0, ringMaster c.ring, .hashCmd c.id, 0, [], []⟩ else s1
        else s

/-- A DRAM command's round of reads is complete. -/
def hashCmdRound (s : State) (x : Round) (id : Nat) : State :=
  match s.hsh.ops.find? (fun o => o.id = id) with
  | none => s
  | some o =>
    match tblOf s o.table with
    | none => s
    | some d =>
      match o.phase with
      | .read0 => insertRound0 s o d x o.relocating
      | .readLevel _ => insertLevel s o d x
      | .ctrRead =>
        let s1 := ctrRound s o.table d x o.keyv o.lenix true
        let gs := ctrWrites s1 o.table d o.keyv o.lenix true
        present (setHop s1 { o with phase := .ctrWrite, left := gs.length }) (cmdMaster s id) false (.hashCmd id) s.cycle gs
      | .counted => insertWrites s o d
      | .filtered =>
        let s1 := setHop (askFilter s o.table (cmdMaster s id) d [(o.keyv, o.lenix)]) { o with phase := .readNamed }
        if flaggedAt s o.table d o.keyv o.lenix then
          present s1 (cmdMaster s id) false (.hashCmd id) s.cycle (o.buckets.map Gran.rd)
        else namedRound s1 o d x
      | .readNamed => namedRound s o d x
      | .scan => nextRound s o d x
      | _ => s

/-- INSERT reads level 0 and the stash once more, its search for a place begun afresh (R256, R257). -/
def reread (s : State) (o : HashOp) : State :=
  present (setHop { s with hsh := { s.hsh with moving := s.hsh.moving.filter (fun m => decide (m.1 ≠ o.table)) } } { o with
    phase := .read0
    place := none
    stashIx := none
    steps := []
    levels := []
    depth := 0 }) (cmdMaster s o.id) false (.hashCmd o.id) s.cycle (o.buckets.map Gran.rd)

/-- A DRAM command's write is acknowledged. -/
def hashCmdAck (s : State) (w : WriteFl) (id : Nat) : State :=
  match s.hsh.ops.find? (fun o => o.id = id) with
  | none => s
  | some o =>
    match tblOf s o.table with
    | none => s
    | some d =>
      match o.phase with
      | .ctrWrite =>
        if o.left ≤ 1 then
          let o1 := { o with
            left := 0
            counted := true }
          let s1 := syncFilter s o.table d o.keyv o.lenix
          if laterHeld s1 o then
            compareAt (setHop s1 { o1 with phase := .counted }) s.cycle ⟨0, cmdMaster s id, .hashCmd id, 0, [], []⟩
          else insertWrites s1 o1 d
        else setHop s { o with left := o.left - 1 }
      | .writeEntry =>
        if w.done then auditDram (endHandle (countInsert s o) o 0 o.handle) o.table else reread s o
      | .path => if w.done then pathAck s o d else reread s o
      | .clearEntry =>
        if w.done then
          let s1 := entSub s o.table o.lenix
          let s2 := { s1 with vrd := { s1.vrd with tblDel := s1.vrd.tblDel.setNat o.table (s1.vrd.tblDel.nat o.table + 1) } }
          let slot := match o.place with
            | some p => p.2
            | none => 0
          auditDram (startUpkeep s2 (cmdMaster s id) o.table o.lenix (w.gran.g - subBase s o.table d o.lenix) slot o.entry (some id)) o.table
        else endHandle s o (if o.byKey then 3 else 6) o.handle
      | .update =>
        let o1 := { o with counted := o.counted || w.done }
        if o.left ≤ 1 then
          endHandle s o1 (if o1.counted then 0 else if o.byKey then 3 else 6) o.handle
        else setHop s { o1 with left := o.left - 1 }
      | _ => s

/-- Relocating INSERTs that waited for earlier commands reread level 0 once those have completed (R256). -/
def wakeWaiting (s : State) : State :=
  match s.hsh.ops.find? (fun o => decide (o.phase = .waitEarlier) && !earlierInFlight s o) with
  | none => s
  | some o =>
    reread s o

/-- The length index and the valid slots of a granule that a wipe is about to clear (R274). -/
def wipeCount (s : State) (t : Nat) (d : TblDecl) (g : Nat) : Nat × Nat :=
  match (List.range (subCount d)).find? (fun j => decide (subBase s t d j ≤ g) && decide (g < subBase s t d j + subSize s t d j)) with
  | some j => (j, ((slotsOf (fmtOf d) (granBytes s g)).filter (fun e => entStamp (fmtOf d) e ≠ 0)).length)
  | none => (0, 0)

/-- Ask for the write of zero to a granule of a wipe; what it clears is kept for its acknowledgement. -/
def wipeGran (s : State) (o : HashOp) (d : TblDecl) (g : Nat) : State :=
  let c := wipeCount s o.table d g
  present (setHop s { o with
    cursor := g
    steps := o.steps ++ [(c.1, c.2, [], none)] }) (cmdMaster s o.id) false (.wipe o.table) s.cycle
    [holdIf d (Gran.wr g ((List.range 64).map (fun i => (i, 0))))]

/-- The stash entries of a table leave its ENTRIES (R270, R274). -/
def stashLeaves (s : State) (t : Nat) : State :=
  (List.range 64).foldl (fun st i => match stashAt s t i with
    | some e => entSub st t e.lenix
    | none => st) s

/-- WIPE of a DRAM table starts (R270). -/
def doHshWipe (s : State) : State :=
  match dramHead s 0x13 (fun _ => false) with
  | none => s
  | some c =>
    match tblOf s c.table with
    | none => s
    | some d =>
      if s.hsh.ops.any (fun o => decide (o.table = c.table) && isWriteOp o.opcode) then s
      else
        let s0 := rangeWritten (rangeWritten s 5 (stashWord c.table 0) 576) 4 (bloomBase s c.table)
          (if d.kind = 5 then 16 * d.bloom else 0)
        let s1 := ledgerBreak (stashLeaves s0 c.table) 3 c.table
        let s2 := { s1 with hsh := { s1.hsh with
          wiping := s1.hsh.wiping.set (fun _ => false) c.table true
          stash := s1.hsh.stash.filter (fun (e : Nat × Option StashEnt) => e.1 / 64 ≠ c.table)
          filter := s1.hsh.filter.filter (fun (e : Nat × Bool) => e.1 / 2 ^ 24 ≠ c.table)
          gen := s1.hsh.gen.setNat c.table ((s1.hsh.gen.nat c.table + 1) % 65536) } }
        let o := { newHop s c 0 .wiping [] 0 [] with cursor := d.base, left := d.size }
        wipeGran (beginHop s2 c o []) o d d.base

/-- A wipe's granule was granted: the next one is requested (R270). -/
def wipeNext (s : State) (t : Nat) : State :=
  match s.hsh.ops.find? (fun o => decide (o.table = t) && decide (o.phase = .wiping)), tblOf s t with
  | some o, some d =>
    let n := o.cursor + 1
    if n < d.base + d.size then
      wipeGran s o d n
    else setHop s { o with cursor := n }
  | _, _ => s

/-- A wipe's write is acknowledged; after the last the table is empty and its ledger re-based (R270). -/
def wipeAck (s : State) (t : Nat) : State :=
  match s.hsh.ops.find? (fun o => decide (o.table = t) && decide (o.phase = .wiping)) with
  | none => s
  | some o =>
    if o.left ≤ 1 then
      let s1 := { s with
        vrd := { s.vrd with
          tblIns := s.vrd.tblIns.setNat t 0
          tblDel := s.vrd.tblDel.setNat t 0
          tblAged := s.vrd.tblAged.setNat t 0
          tblFlushed := s.vrd.tblFlushed.setNat t 0 }
        hsh := { s.hsh with
          wiping := s.hsh.wiping.set (fun _ => false) t false
          entries := s.hsh.entries.filter (fun (e : Nat × Nat) => e.1 / 16 ≠ t) } }
      setEvt (endOpen s1 o 0) Reg.hshEvt 4
    else
      match o.steps with
      | (j, n, _, _) :: rest =>
        setHop { s with hsh := { s.hsh with
          entries := s.hsh.entries.setNat (t * 16 + j) (s.hsh.entries.nat (t * 16 + j) - n) } }
          { o with
            left := o.left - 1
            steps := rest }
      | [] => setHop s { o with left := o.left - 1 }

/-- A host SEARCH's answer is there: its completion (R216, R267). -/
def cmdAnswer (s : State) (id : Nat) (a : Ans) : State :=
  match cmdOf s id with
  | none => s
  | some c =>
    let g := genOf s c.table
    if a.part then
      if a.hit then complete s id { Report.plain 0x0A a.handle g with multi := a.multi }
      else completeOpen s id 0x0A g
    else if a.hit then complete s id { Report.plain 0 a.handle g with result := a.result, multi := a.multi }
    else completeOpen s id 3 g

end Sys2Proof.Machine
end

