-- ==== Sys2Proof/Machine/Waymark.lean ====
section
/-!
DEFINITION. The waymark index (R279–R312): pages, stream order and settling, group and header writes, quotas and
recycling, look-back, FLUSH_STREAM.
-/
namespace Sys2Proof.Machine

/-- First granule and pages of the index (R306, R307). -/
def wayBase (s : State) : Nat := fget s Reg.wayMap 31 0
def wayPages (s : State) : Nat := fget s Reg.wayMap 48 32

/-- A page's milestone-table entry (R283): three words of memory 0x06 from 3n (the order is the model's). A change of some of
its fields is a write of part of them; an allocation writes them whole. -/
def pageOf (s : State) (n : Nat) : Page := s.way.pages.get (fun _ => Page.free) n
def setPage (s : State) (n : Nat) (p : Page) : State :=
  mergeWords { s with way := { s.way with pages := s.way.pages.set (fun _ => Page.free) n p } } 6 (3 * n) 3
def setPageWhole (s : State) (n : Nat) (p : Page) : State :=
  rangeWritten { s with way := { s.way with pages := s.way.pages.set (fun _ => Page.free) n p } } 6 (3 * n) 3

/-- A stream's record and configuration (R283, R290): two words of memory 0x07 from 2n. -/
def streamOf (s : State) (n : Nat) : Stream := s.way.streams.get (fun _ => Stream.zero) n
def setStream (s : State) (n : Nat) (x : Stream) : State :=
  mergeWords { s with way := { s.way with streams := s.way.streams.set (fun _ => Stream.zero) n x } } 7 (2 * n) 2

/-- Count an event of the index. -/
def wcnt (s : State) (i n : Nat) : State := bump s (Reg.wayCnt i) n

/-- A page's entry, or a stream's record, reads uncorrectable (R304). -/
def pageBad (s : State) (p : Nat) : Bool := badWords s 6 (3 * p) 3
def streamBad (s : State) (n : Nat) : Bool := badWords s 7 (2 * n) 2

/-- An uncorrectable error of the index is counted and recorded (R304). -/
def wayUncorr (s : State) (n p : Nat) : State :=
  wr (setEvt (wcnt s 13 1) Reg.wayEvt 2) Reg.wayErr (n * 65536 + p)

/-- A stream's inserts are skipped from now on, until a FLUSH_STREAM of it ends (R304). -/
def wayLost (s : State) (n : Nat) : State :=
  { s with way := { s.way with streams := s.way.streams.set (fun _ => Stream.zero) n { streamOf s n with bad := true } } }

/-- A master reads a stream's record and some page entries: they are tracked; true when a word is uncorrectable, and then the
stream takes no inserts (R304). The page is the first bad one. -/
def readEntries (s : State) (n : Nat) (ps : List Nat) (master : Nat) : State × Option Nat :=
  let s1 := readWords (readWords s 7 master [2 * n, 2 * n + 1]) 6 master
    ((ps.map (fun p => [3 * p, 3 * p + 1, 3 * p + 2])).flatten)
  match ps.find? (pageBad s) with
  | some p => (wayLost s1 n, some p)
  | none => if streamBad s n then (wayLost s1 n, some 0) else (s1, none)

/-- Audit of the PAGE ledger (R40), on each move of a page (R294). -/
def auditPage (s : State) : State :=
  let owned := (s.way.pages.filter (fun e => e.2.owned)).length
  let total := fget s Reg.wayMap 48 32
  if total - owned + owned = total then s
  else ledgerFault s 4 0 (total - owned) owned total (s.way.streams.filter (fun e => e.2.owned > 0)).length

/-- Owned and free pages (R294, R308). -/
def ownedPages (s : State) : Nat := (s.way.pages.filter (fun e => e.2.owned)).length
def freePages (s : State) : Nat := wayPages s - ownedPages s

/-- unmet (R290). -/
def unmetPages (s : State) : Nat := (s.way.streams.map (fun e => e.2.min - e.2.owned)).foldl (· + ·) 0

/-- Places free in the combine space (R289). -/
def combineFree (s : State) : Nat := 16384 - s.way.used

/-- Take or free combine places; the peak and COMBINE_LOW follow (R289, R308). -/
def usePlaces (s : State) (used : Nat) : State :=
  let low := decide (16384 - used ≤ 1024)
  let drain := decide (16384 - used ≤ 2048) || (s.way.drain && decide (16384 - used ≤ 4096))
  let s1 := { rcEvent s Reg.wayCombine s.way.peak 0 max with way := { s.way with used := used, peak := max s.way.peak used, low := low, drain := drain } }
  if low && !s.way.low then setEvt s1 Reg.wayEvt 4 else s1

/-- The pages of a stream's ring from its head, in ring order (R283). -/
def ringPages (s : State) (n : Nat) : List Nat :=
  let x := streamOf s n
  let rec go (k p : Nat) : List Nat :=
    match k with
    | 0 => []
    | j + 1 => p :: go j (pageOf s p).nextPage
  go x.owned x.head

/-- The pages of the stream's current segment (R301). -/
def segPages (s : State) (n : Nat) : List Nat :=
  match (streamOf s n).seg with
  | none => ringPages s n
  | some p => (ringPages s n).dropWhile (fun q => q ≠ p)

/-- Remove a stream's head from its ring; its segment start moves on with it. -/
def dropHead (s : State) (n : Nat) : State :=
  let x := streamOf s n
  let p := pageOf s x.head
  setStream s n { x with
    head := p.nextPage
    owned := x.owned - 1
    seg := if x.seg = some x.head then none else x.seg
    placed := if x.owned = 1 then 0 else x.placed }

/-- Held headers that hold nothing any more leave their store. -/
def pruneHeld (s : State) : State :=
  { s with way := { s.way with heldAt := s.way.heldAt.filter (fun a =>
      s.way.held.any (fun (e : Nat × Option Nat) => decide (e.1 / 16 = a.1))) } }

/-- The place of a held header in its store, and the word of memory 0x08 that holds the REACH of one of its 16 groups (R286,
R410: 65,536 words of combine places, then eight of each held header; the order is the model's). -/
def heldWord (s : State) (k g : Nat) : Nat :=
  match s.way.heldAt.find? (fun a => a.1 = k) with
  | some a => 65536 + 8 * a.2 + g % 16 / 2
  | none => 65536 + g % 16 / 2

/-- The four words of memory 0x08 of a combine place: the places of the settle queue and the open groups (R289). -/
def placeWord (p : Nat) : Nat := 4 * p

/-- The lowest free combine place. -/
def freePlace (s : State) : Nat :=
  let inUse := s.way.settle.map (fun i => i.place) ++ (s.way.recs.filter (fun r => !r.acked)).map (fun r => r.place)
  match (List.range 16384).find? (fun p => !inUse.contains p) with
  | some p => p
  | none => 0

/-- A page changes hands: its waymarks that are not visible yet leave the combine space with its held headers
(DEDUCED; R289 and R291 name no other fate). -/
def dropRecs (s : State) (p : Nat) : State :=
  let gone := (s.way.recs.filter (fun r => decide (r.page = p) && !r.acked)).length
  let s1 := pruneHeld { s with way := { s.way with
    recs := s.way.recs.filter (fun r => r.page ≠ p)
    held := s.way.held.filter (fun (e : Nat × Option Nat) => e.1 / 64 ≠ p)
    heldOrder := s.way.heldOrder.filter (fun k => k / 4 ≠ p) } }
  if gone = 0 then s1 else usePlaces s1 (s1.way.used - gone)

/-- Make a page the new open page of a stream (R291). -/
def openPageFor (st : State) (n p : Nat) : State :=
  let s := dropRecs st p
  let x := streamOf s n
  let old := pageOf s p
  let s0 := if x.owned = 0 then s else setPage s x.openPage { pageOf s x.openPage with nextPage := p }
  let s1 := setPageWhole s0 p ⟨0, 0, 0, true, n, 0, (old.use + 1) % 65536, s.way.allocs % 2 ^ 32⟩
  let s2 := { s1 with way := { s1.way with allocs := s1.way.allocs + 1 } }
  auditPage <| setStream s2 n { x with
    head := if x.owned = 0 then p else x.head
    openPage := p
    owned := x.owned + 1
    placed := 0
    closed := false
    seg := match x.seg with
      | some q => if q = 65536 then some p else some q
      | none => none }

/-- Free a stream's head page (R292–R294): the page keeps its counts of use. -/
def freeHead (s : State) (n : Nat) : State :=
  let h := (streamOf s n).head
  let s1 := dropHead s n
  auditPage (dropRecs (setPage s1 h { pageOf s1 h with
    owned := false
    fill := 0 }) h)

/-- The victim of R291 and R292: the head page with the lowest ALLOC among streams owning more than max(MIN, 1) pages. -/
def victim (s : State) : Option Nat :=
  let cs := s.way.streams.filterMap (fun e => if e.2.owned > max e.2.min 1 ∧ e.2.bad = false ∧ pageBad s e.2.head = false
    then some e.1 else none)
  minByKey (fun n => (pageOf s (streamOf s n).head).alloc) cs

/-- The lowest-numbered free page. -/
def lowestFree (s : State) : Option Nat := (List.range (wayPages s)).find? (fun p => !(pageOf s p).owned)

/-- A stream obtains a page (R291); `false`: no page. -/
def obtainPage (s : State) (n : Nat) : State × Bool :=
  let x := streamOf s n
  let free := freePages s
  let under := x.max = 0 || decide (x.owned < x.max)
  if x.dis || x.bad then (s, false)
  else if under && free ≠ 0 && (decide (x.owned < x.min) || decide (free > unmetPages s)) then
    match lowestFree s with
    | some p => (wcnt (openPageFor s n p) 3 1, true)
    | none => (s, false)
  else if x.owned ≥ 1 then
    let h := x.head
    let e := readEntries s n [h] 46
    match e.2 with
    | some p => (wayUncorr e.1 n p, false)
    | none =>
    let s1 := dropHead e.1 n
    (wcnt (openPageFor s1 n h) 4 1, true)
  else
    match victim s with
    | some v =>
      let h := (streamOf s v).head
      let s1 := dropHead s v
      (wcnt (openPageFor s1 n h) 5 1, true)
    | none => (s, false)

/-- A due insert is handed to the writer, or skipped for want of a page (R181, R289, R291). `true`: skipped. -/
def handOff (s : State) (i : Insert) : State × Bool :=
  let x := streamOf s i.stream
  let e := if x.dis || x.bad then (s, none) else readEntries s i.stream (if x.owned = 0 then [] else [x.openPage]) 46
  let r := match e.2 with
    | some p => (wayUncorr e.1 i.stream p, false)
    | none => if x.dis || x.bad then (e.1, false) else if x.owned = 0 then obtainPage e.1 i.stream else (e.1, true)
  if r.2 then
    let s1 := wcnt r.1 0 1
    let s2 := usePlaces s1 (s1.way.used + 1)
    let p := freePlace s2
    (rangeWritten { s2 with way := { s2.way with settle := s2.way.settle ++ [{ i with place := p }] } } 8 (placeWord p) 4, false)
  else (setEvt (wcnt r.1 2 1) Reg.wayEvt 1, true)

/-- Stream order: TIME:FRAC, then acceptance cycle, then port (R284). -/
def streamKey (i : Insert) : Nat := ((i.stamp.ns * 256 + i.stamp.frac) * 2 ^ 64 + i.acc) * 32 + i.port

/-- A stored record (R281). -/
def recordBytes (ofs : Nat) (i : Insert) : List Byte :=
  leBytes 4 ofs ++ leBytes 6 i.store ++ leBytes 3 i.len ++ leBytes 2 i.flags ++ leBytes 4 i.digest ++ leBytes 4 i.seq ++
    leBytes 1 i.stamp.frac ++ leBytes 1 i.stamp.unc ++ leBytes 3 i.stream

/-- The release needs a new page (R288): full, out of span, or closed by a backward step. -/
def mustClose (s : State) (i : Insert) : Bool :=
  let x := streamOf s i.stream
  let p := pageOf s x.openPage
  x.closed || decide (x.placed ≥ 512) ||
    (x.placed ≠ 0 && decide (i.stamp.ns > p.milestone + 0xFFFFFFFF))

/-- The release's span, not its count, closes the page (R312 SPAN_CLOSE). -/
def spanClose (s : State) (i : Insert) : Bool :=
  let x := streamOf s i.stream
  !x.closed && decide (x.placed < 512) && x.placed ≠ 0 &&
    decide (i.stamp.ns > (pageOf s x.openPage).milestone + 0xFFFFFFFF)

/-- A record's or a header's error goes with it into DRAM (R304, R413): the words of memory 0x08 from `lo` that are bad. -/
def badOf (s : State) (lo n : Nat) : List Nat := (List.range n).filter (fun k => badWords s 8 (lo + k) 1)

/-- Held REACH of a group of an open page. -/
def heldReach (s : State) (p g : Nat) : Option Nat := KMap.find s.way.held (p * 64 + g)

/-- Write a held header and let it go (R286). -/
def writeHeader (s : State) (k : Nat) : State :=
  let p := k / 4
  let q := k % 4
  let gs := (List.range 16).filterMap (fun i => (heldReach s p (q * 16 + i)).map (fun v => (i, v)))
  let bytes := (gs.map (fun e => (List.range 4).map (fun i => (e.1 * 4 + i, (leBytes 4 e.2).getD i 0)))).flatten
  let bad := (badOf s (heldWord s k 0) 8).filter (fun w => gs.any (fun e => decide (e.1 / 2 = w)))
  let s0 := readWords s 8 46 ((List.range 8).map (fun w => heldWord s k 0 + w))
  let s1 := { s0 with way := { s0.way with heldOrder := s0.way.heldOrder.filter (fun x => x ≠ k) } }
  let s2 := if bad = [] then s1 else wayUncorr s1 (pageOf s p).stream p
  present (wcnt s2 12 1) 46 false (.wayHeader k) s.cycle [{ Gran.wr (wayBase s + 256 * p + q) bytes with bad := bad }]

/-- Make room in the store of 2,048 held headers for a new one: the oldest is written when it is full (R286). -/
def headerRoom (s : State) (k : Nat) : State :=
  if s.way.heldAt.any (fun a => decide (a.1 = k)) then s
  else
    let s1 := if s.way.heldOrder.length ≥ 2048 then
        (match s.way.heldOrder.head? with
         | some o => writeHeader s o
         | none => s)
      else s
    let at_ := match (List.range 2048).find? (fun i => s1.way.heldAt.all (fun a => decide (a.2 ≠ i))) with
      | some i => i
      | none => 0
    rangeWritten { s1 with way := { s1.way with heldAt := s1.way.heldAt ++ [(k, at_)] } } 8 (65536 + 8 * at_) 8

/-- Place a released insert in its stream's open group (R286). -/
def placeInsert (s0 : State) (i : Insert) : State :=
  let x0 := streamOf s0 i.stream
  let s := headerRoom s0 ((x0.openPage * 64 + x0.placed / 8) / 16)
  let x := streamOf s i.stream
  let p := pageOf s x.openPage
  let p1 := if x.placed = 0 then { p with milestone := i.stamp.ns, fill := 0, lastOfs := 0 } else p
  let ofs := i.stamp.ns - p1.milestone
  let r : OpenRec := ⟨i.stream, x.openPage, x.placed, s.cycle, ofs, recordBytes ofs i, false, i.place, false⟩
  let s1 := setStream (setPage s x.openPage p1) i.stream { x with placed := x.placed + 1 }
  let k := x.openPage * 64 + x.placed / 8
  wordMerged { s1 with way := { s1.way with
      recs := s1.way.recs ++ [r]
      held := KMap.put s1.way.held k (some ofs)
      heldOrder := if s1.way.heldOrder.contains (k / 16) then s1.way.heldOrder else s1.way.heldOrder ++ [k / 16] } }
    8 (heldWord s1 (k / 16) (x.placed / 8))

/-- Release one insert from the settle queue (R285, R288, R291). -/
def releaseInsert (s : State) (i : Insert) : State :=
  let s0 := { s with way := { s.way with settle := s.way.settle.erase i } }
  let x := streamOf s0 i.stream
  let e := if x.bad || x.owned = 0 then (s0, none) else readEntries s0 i.stream [x.openPage] 46
  if x.bad || e.2.isSome then
    let s1 := match e.2 with
      | some p => wayUncorr e.1 i.stream p
      | none => e.1
    usePlaces (setEvt (wcnt s1 2 1) Reg.wayEvt 1) (s1.way.used - 1)
  else if x.owned = 0 || mustClose s0 i then
    let s1 := if x.owned ≠ 0 && spanClose s0 i then wcnt s0 15 1 else s0
    let r := obtainPage s1 i.stream
    if r.2 then placeInsert r.1 i
    else usePlaces (setEvt (wcnt r.1 2 1) Reg.wayEvt 1) (r.1.way.used - 1)
  else placeInsert s0 i

/-- The insert that may be released now: first in its stream's order, S cycles after its acceptance (R285). -/
def dueRelease (s : State) : Option Insert :=
  s.way.settle.find? (fun i =>
    decide (i.acc + s.way.settleS ≤ s.cycle) &&
      s.way.settle.all (fun j => decide (j.stream ≠ i.stream) || decide (streamKey i ≤ streamKey j)))

/-- Release everything, in stream order (R301). -/
def releaseAll (s : State) : State :=
  (s.way.settle.mergeSort (fun a b => streamKey a ≤ streamKey b)).foldl releaseInsert s

/-- A backward step: every open page closes, and each stream's segment starts at its next page (R288, R301). -/
def backwardStep (s : State) : State :=
  let s1 := releaseAll s
  { s1 with way := { s1.way with
      streams := s1.way.streams.map (fun (e : Nat × Stream) =>
        (e.1, if e.2.owned = 0 then e.2 else { e.2 with closed := true, seg := some 65536 })) } }

/-- Unwritten records of a group. -/
def groupRecs (s : State) (p g : Nat) : List OpenRec :=
  s.way.recs.filter (fun r => decide (r.page = p) && decide (r.index / 8 = g) && !r.written)

/-- Byte offset of a record in the index (R280), and the granules of the index that hold it. -/
def recAt (r : OpenRec) : Nat := r.page * 16384 + 256 + 224 * (r.index / 8) + 28 * (r.index % 8)
def recCovers (r : OpenRec) (g : Nat) : Bool := decide (recAt r / 64 ≤ g) && decide (g ≤ (recAt r + 27) / 64)

/-- The granule writes of a set of records (R280); words that take bytes of an uncorrectable place are poisoned (R304). -/
def recGrans (s : State) (rs : List OpenRec) : List Gran :=
  let bytes := (rs.map (fun r => (List.range 28).map (fun i => (recAt r + i, r.bytes.getD i 0)))).flatten
  let bad := (rs.map (fun r => ((List.range 28).filter (fun i => badWords s 8 (placeWord r.place + i / 8) 1)).map (fun i =>
    recAt r + i))).flatten
  let gs := (bytes.map (fun b => b.1 / 64)).eraseDups
  gs.map (fun g => { Gran.wr (wayBase s + g) ((bytes.filter (fun b => b.1 / 64 = g)).map (fun b => (b.1 % 64, b.2))) with
    bad := ((bad.filter (fun a => a / 64 = g)).map (fun a => a % 64 / 8)).eraseDups })

/-- Write a group's new records as the waymark writer, master 46 (R286). -/
def writeGroup (s : State) (p g : Nat) : State :=
  let rs := groupRecs s p g
  let upto := rs.foldl (fun a r => max a (r.index + 1)) 0
  let s1 := { s with way := { s.way with recs := s.way.recs.map (fun r =>
    if r.page = p ∧ r.index / 8 = g then { r with written := true } else r) } }
  let s2 := readWords s1 8 46 ((rs.map (fun r => (List.range 4).map (fun k => placeWord r.place + k))).flatten)
  let s3 := if rs.any (fun r => badWords s 8 (placeWord r.place) 4) then wayUncorr s2 (pageOf s p).stream p else s2
  present (wcnt s3 11 1) 46 false (.wayWrite p g upto) s.cycle (recGrans s rs)

/-- Has the page closed, so that its groups and headers are due (R286)? -/
def pageClosed (s : State) (p : Nat) : Bool :=
  let q := pageOf s p
  let x := streamOf s q.stream
  !q.owned || decide (x.openPage ≠ p) || x.closed || decide (x.owned = 0)

/-- Groups with unwritten records, oldest first: page and group. -/
def openGroups (s : State) : List (Nat × Nat) :=
  ((s.way.recs.filter (fun r => !r.written)).map (fun r => (r.page, r.index / 8))).eraseDups

/-- The group a write is due for (R286): full, its page closed, or places running low. -/
def dueGroup (s : State) : Option (Nat × Nat) :=
  match (openGroups s).find? (fun k =>
    (groupRecs s k.1 k.2).any (fun r => decide (r.index % 8 = 7)) || pageClosed s k.1) with
  | some k => some k
  | none => if s.way.drain then (openGroups s).head? else none

/-- The group whose oldest record has waited COMBINE_US (R286). -/
def timedGroup (s : State) : Option (Nat × Nat) :=
  (openGroups s).find? (fun k =>
    (groupRecs s k.1 k.2).any (fun r => decide (r.since + fget s Reg.wayCtrl 25 16 * 800 ≤ s.cycle)))

/-- The held header (page, quarter) whose write is due (R286): its 16 groups complete, its page closed, or the store full. -/
def dueHeader (s : State) : Option Nat :=
  let complete := fun (k : Nat) =>
    let p := k / 4
    let x := streamOf s (pageOf s p).stream
    pageClosed s p || decide (x.placed ≥ (k % 4 + 1) * 128)
  match s.way.heldOrder.find? complete with
  | some k => some k
  | none => if s.way.heldOrder.length ≥ 2048 then s.way.heldOrder.head? else none

/-- A header write is acknowledged: its held copy goes, unless it has been held again since. -/
def headerAck (s : State) (k : Nat) : State :=
  if s.way.heldOrder.contains k then s
  else pruneHeld { s with way := { s.way with held := s.way.held.filter (fun (e : Nat × Option Nat) => e.1 / 16 ≠ k) } }

/-- A write of a group to granule g' of the index is still to be granted or acknowledged. -/
def groupWaits (s : State) (p g gran : Nat) : Bool :=
  let ours := fun (x : Purpose) => match x with
    | .wayWrite a b _ => decide (a = p) && decide (b = g)
    | _ => false
  s.drc.writes.any (fun w => ours w.purpose && decide (w.gran.g = gran)) ||
    s.rgl.reqs.any (fun r => ours r.purpose && r.grans.any (fun x => decide (x.g = gran)))

/-- A write of a group is acknowledged: each record whose writes are all acknowledged frees its place (R289), and the waymarks
that have none before them still to come are visible (R287). -/
def groupAck (s : State) (p g upto : Nat) : State :=
  let done := fun (r : OpenRec) => decide (r.page = p) && decide (r.index / 8 = g) && r.written && !r.acked &&
    decide (r.index < upto) && (List.range 2).all (fun i =>
      !recCovers r (recAt r / 64 + i) || !groupWaits s p g (wayBase s + recAt r / 64 + i))
  let n := (s.way.recs.filter done).length
  if n = 0 then s
  else
    let rs := s.way.recs.map (fun r => if done r then { r with acked := true } else r)
    let q := pageOf s p
    let fill := match lowest ((rs.filter (fun r => decide (r.page = p) && !r.acked)).map (fun r => r.index)) with
      | some i => max q.fill i
      | none => (rs.filter (fun r => r.page = p)).foldl (fun a r => max a (r.index + 1)) q.fill
    let seen := rs.filter (fun r => decide (r.page = p) && r.acked && decide (r.index < fill))
    let s1 := { s with way := { s.way with recs := rs.filter (fun r => !seen.contains r) } }
    let s2 := usePlaces (wcnt s1 1 seen.length) (s1.way.used - n)
    if q.owned = false ∨ seen = [] then s2
    else setPage s2 p { q with
      fill := fill
      lastOfs := seen.foldl (fun a r => max a r.ofs) q.lastOfs }

/-- The waymark image of a stored record (R279, R281). -/
def wayImage (milestone : Nat) (r : List Byte) : List Byte :=
  leBytes 4 (fieldAt r 19 4) ++ slice r 15 4 ++ slice r 25 3 ++ slice r 13 2 ++ slice r 10 3 ++ slice r 4 6 ++
    slice r 24 1 ++ slice r 23 1 ++ leBytes 8 (milestone + fieldAt r 0 4)

/-- Granules of a page's header, and of a group (R280). -/
def headerGrans (s : State) (p : Nat) : List Gran := (List.range 4).map (fun i => Gran.rd (wayBase s + 256 * p + i))
def groupGrans (s : State) (p g : Nat) : List Gran :=
  (List.range 4).map (fun i => Gran.rd (wayBase s + 256 * p + (256 + 224 * g) / 64 + i))

/-- A record from a group's round: granules of the page laid end to end. -/
def recordFrom (s : State) (x : Round) (p g j : Nat) : List Byte :=
  let first := (256 + 224 * g) / 64
  let data := ((List.range 4).map (fun i => gotData x (wayBase s + 256 * p + first + i))).flatten
  slice data ((256 + 224 * g) % 64 + 28 * j) 28

/-- A waymark handle (R299). -/
def wayHandle (use page index : Nat) : Nat := use * 2 ^ 32 + page * 65536 + index

/-- The handle of index 0 of a stream's head, from which a caller can resume (R299). -/
def resumeHandle (s : State) (n : Nat) : Nat :=
  let h := (streamOf s n).head
  wayHandle (pageOf s h).use h 0

/-- The answer of a profile search (R300): SEQ, FLAGS. -/
def wayAns (r : WayRes) : Ans :=
  if r.status = 0 then ⟨true, false, false, false, fieldAt r.image 0 4 + fieldAt r.image 11 2 * 2 ^ 32, 0⟩
  else { Ans.miss with part := decide (r.status = 0x0A) }

/-- A query's answer leaves, or its command completes (R297, R300, R302). -/
def finishQuery (s1 : State) (q : WayQ) (r : WayRes) (due : Nat) (isNext : Bool) : State :=
  let s2 := if r.status = 0 && !isNext then wcnt s1 8 1 else s1
  let s3 := if r.status = 0x10 then wcnt s2 10 1 else s2
  let s4 := if r.status = 0x0A then wayUncorr s3 q.stream q.page else s3
  match q.who with
  | .cmd id =>
    (match cmdOf s4 id with
     | some c =>
       let s5 := if r.status = 0 then putData s4 c.ring c.addr r.image else s4
       complete s5 id { Report.plain r.status r.handle 0 with straddle := r.straddle, edge := r.edge }
     | none => s4)
  | w => answerAt s4 due w false (wayAns r)

/-- A query's result is there: a search's answer is on its way, a command completes when its answer is due (R296). -/
def endQuery (s : State) (q : WayQ) (r : WayRes) (due : Nat) (isNext : Bool) : State :=
  let s1 := { s with way := { s.way with queries := s.way.queries.filter (fun x => x.id ≠ q.id) } }
  match q.who with
  | .cmd _ =>
    if due ≤ s.cycle then finishQuery s1 q r due isNext
    else { s1 with way := { s1.way with ended := s1.way.ended ++ [(due, q, r, isNext)] } }
  | _ => finishQuery s1 q r due isNext

/-- Commands on the index whose answer is due by now complete (R296). -/
def wayDue (s : State) : State :=
  let now := s.way.ended.filter (fun (e : Nat × WayQ × WayRes × Bool) => decide (e.1 ≤ s.cycle))
  if now = [] then s
  else
    now.foldl (fun st e => finishQuery st e.2.1 e.2.2.1 e.1 e.2.2.2) { s with way := { s.way with
      ended := s.way.ended.filter (fun (e : Nat × WayQ × WayRes × Bool) => !decide (e.1 ≤ s.cycle)) } }

/-- Begin a query: select its page, request the header (R295, R296). -/
def beginQuery (s : State) (m : Nat) (who : Asker) (n t k : Nat) : State :=
  let s0 := wcnt s 7 1
  let seg := segPages s n
  let found := seg.find? (fun p => let q := pageOf s p
    decide (q.fill > 0) && decide (q.milestone + q.lastOfs ≥ t))
  let id := s.rgl.nextId
  let looked := match found with
    | none => seg
    | some p => seg.takeWhile (fun q => q ≠ p) ++ [p]
  let e := readEntries s0 n looked m
  match e.2, found with
  | some p, _ =>
    let q : WayQ := ⟨id, who, n, t, p, (pageOf s p).use, 0, 0, 0, 0, 0, 0, 0, m, false⟩
    endQuery e.1 q ⟨0x0A, wayHandle (pageOf s p).use p 0, [], false, false⟩ (k + 40) false
  | none, none =>
    let q : WayQ := ⟨id, who, n, t, 0, 0, 0, 0, 0, 0, 0, 0, 0, m, false⟩
    endQuery e.1 q ⟨3, resumeHandle s n, [], false, false⟩ (k + 40) false
  | none, some p =>
    let pg := pageOf s p
    let q : WayQ := ⟨id, who, n, t, p, pg.use, 0, 0, 1, p, pg.use, pg.fill, pg.milestone, m, decide (seg.head? = some p)⟩
    let s1 := { e.1 with
      rgl := { e.1.rgl with nextId := id + 1 }
      way := { e.1.way with queries := e.1.way.queries ++ [q] } }
    present s1 m false (.wayQuery id) (k + 40) (headerGrans s p)

/-- The final check of R295: the page is still the same allocation, owned by the stream. -/
def stillThere (s : State) (q : WayQ) (p use : Nat) : Bool :=
  let pg := pageOf s p
  pg.owned && decide (pg.stream = q.stream) && decide (pg.use = use)

/-- A round of a query returned (R295–R298, R304). -/
def queryRound (s0 : State) (x : Round) (id due : Nat) : State :=
  match s0.way.queries.find? (fun q => q.id = id) with
  | none => s0
  | some q =>
    let isNext := decide (q.round = 3)
    let held := if q.round = 1 then (List.range (cdiv q.fill 8)).filter (fun g => (heldReach s0 q.page g).isSome) else []
    let words := (held.map (fun g => heldWord s0 (q.page * 4 + g / 16) g)).eraseDups
    let e := readEntries s0 q.stream [q.page, q.fromPage] q.master
    let s := readWords e.1 8 q.master words
    if roundBad x || e.2.isSome || words.any (fun w => badWords s0 8 w 1) then
      endQuery s q ⟨0x0A, wayHandle q.use q.page (q.group * 8), [], false, false⟩ (due + 4) isNext
    else if q.round = 1 then
      let reach := fun (g : Nat) =>
        match heldReach s q.page g with
        | some v => v
        | none => fieldAt (gotData x (wayBase s + 256 * q.page + g / 16)) (g % 16 * 4) 4
      match (List.range (cdiv q.fill 8)).find? (fun g => decide (q.milestone + reach g ≥ q.time)) with
      | none =>
        if stillThere s q q.page q.use then endQuery s q ⟨3, resumeHandle s q.stream, [], false, false⟩ (due + 4) false
        else endQuery s q ⟨0x10, resumeHandle s q.stream, [], false, false⟩ (due + 4) false
      | some g =>
        let q1 := { q with round := 2, group := g }
        let s1 := { s with way := { s.way with queries := s.way.queries.map (fun y => if y.id = id then q1 else y) } }
        present s1 q.master false (.wayQuery id) (due + 4) (groupGrans s q.page g)
    else if !(stillThere s q q.page q.use && stillThere s q q.fromPage q.fromUse) then
      endQuery s q ⟨0x10, resumeHandle s q.stream, [], false, false⟩ (due + 4) isNext
    else
      let pick := if isNext then some q.index
        else (List.range 8).findSome? (fun j =>
          let i := 8 * q.group + j
          if i < q.fill ∧ q.milestone + fieldAt (recordFrom s x q.page q.group j) 0 4 ≥ q.time then some i else none)
      match pick with
      | none => endQuery s q ⟨3, resumeHandle s q.stream, [], false, false⟩ (due + 4) isNext
      | some i =>
        let r := recordFrom s x q.page q.group (i % 8)
        let time := q.milestone + fieldAt r 0 4
        let strad := decide (256 * q.time + 32 * fieldAt r 24 1 > 256 * time + fieldAt r 23 1)
        let edge := q.edge && decide (i = 0) && decide (q.time < q.milestone)
        endQuery s q ⟨0, wayHandle q.use q.page i, wayImage q.milestone r, strad && !isNext, edge && !isNext⟩ (due + 4) isNext

/-- QUERY as a host command (R302). -/
def doQuery (s : State) : State :=
  match headWith s 0x20 (fun _ => true) with
  | none => s
  | some c =>
    if !addrOk s c.ring c.addr 32 true then refuse s c 0x11 0
    else beginQuery (startCmd s c.id) (ringMaster c.ring) (.cmd c.id) (bitsOf c.arg0 15 0) c.arg1 s.cycle

/-- WNEXT as a host command (R298, R299, R302). -/
def doWnext (s : State) : State :=
  match headWith s 0x21 (fun _ => true) with
  | none => s
  | some c =>
    let h := c.handle
    let p := bitsOf h 31 16
    let i := bitsOf h 8 0
    let pg := pageOf s p
    let e := readEntries s pg.stream [p] (ringMaster c.ring)
    if e.2.isSome then complete (wcnt (wayUncorr e.1 pg.stream p) 9 1) c.id (Report.plain 0x0A (wayHandle pg.use p (i / 8 * 8)) 0)
    else if !pg.owned || decide (pg.use ≠ bitsOf h 47 32) then
      complete (wcnt e.1 9 1) c.id (Report.plain 0x10 (resumeHandle s pg.stream) 0)
    else if !addrOk s c.ring c.addr 32 true then refuse s c 0x11 0
    else
      let s0 := wcnt e.1 9 1
      let last := decide ((streamOf s pg.stream).openPage = p)
      let target := if i + 1 < pg.fill then some (p, i + 1)
        else if last then none
        else if (pageOf s pg.nextPage).fill > 0 then some (pg.nextPage, 0) else none
      match target with
      | none => complete s0 c.id (Report.plain 0x0C h 0)
      | some (np, ni) =>
        let npg := pageOf s np
        let id := s.rgl.nextId
        let q : WayQ := ⟨id, .cmd c.id, pg.stream, 0, np, npg.use, ni / 8, ni, 3, p, pg.use, npg.fill, npg.milestone,
          ringMaster c.ring, false⟩
        let s1 := { startCmd s0 c.id with
          rgl := { s0.rgl with nextId := id + 1 }
          way := { s0.way with queries := s0.way.queries ++ [q] } }
        present s1 q.master false (.wayQuery id) s.cycle (groupGrans s np (ni / 8))

/-- One page freed under pressure (R292). -/
def pressureFree (s : State) : State :=
  match victim s with
  | some v =>
    let s1 := if s.way.pressing then s else setEvt s Reg.wayEvt 0
    let s2 := wcnt (freeHead s1 v) 5 1
    let more := decide (freePages s2 < fget s2 Reg.wayPress 31 16)
    { s2 with way := { s2.way with pressing := more, nextFree := s.cycle + 4 } }
  | none => s

/-- Pressure freeing is on (R292): below LOW, or between LOW and HIGH once started. -/
def pressureOn (s : State) : Bool :=
  decide (freePages s < fget s Reg.wayPress 15 0) || (s.way.pressing && decide (freePages s < fget s Reg.wayPress 31 16))

/-- The visited stream's head is past its age limit, and may go (R293). -/
def agedOut (s : State) (n : Nat) : Bool :=
  let x := streamOf s n
  let p := pageOf s x.head
  !x.bad && !streamBad s n && !pageBad s x.head && decide (x.owned > 0) && decide (x.ageMs ≠ 0) && decide (p.fill > 0) &&
    decide (p.milestone + p.lastOfs + x.ageMs * 1000000 ≤ nowNs s) &&
    (decide (x.head ≠ x.openPage) ||
      (s.way.settle.all (fun i => decide (i.stream ≠ n)) && s.way.recs.all (fun r => decide (r.stream ≠ n))))

/-- A flush starts (R303): the stream's inserts and held headers go, and its ring begins anew. -/
def startFlush (s : State) (n : Nat) : State :=
  let a := s.way.settle.filter (fun i => i.stream = n)
  let b := s.way.recs.filter (fun r => decide (r.stream = n) && !r.written)
  let x := streamOf s n
  let s1 := progSet s Reg.wayFlushProg Reg.wayFlushTotal (wayPages s) 0 true
  let s2 := usePlaces (wcnt s1 14 (a.length + b.length)) (s1.way.used - (a.length + b.length))
  let s3 := setStream s2 n { x with head := 0, openPage := 0, owned := 0, seg := none, closed := false, placed := 0, flushing := true }
  pruneHeld { s3 with way := { s3.way with
      settle := s3.way.settle.filter (fun i => i.stream ≠ n)
      recs := s3.way.recs.filter (fun r => r.stream ≠ n || r.written)
      held := s3.way.held.filter (fun (e : Nat × Option Nat) => (pageOf s (e.1 / 64)).stream ≠ n)
      heldOrder := s3.way.heldOrder.filter (fun k => (pageOf s (k / 4)).stream ≠ n)
      flush := some (n, s.cycle, s.way.allocs) } }

/-- A page was allocated before the flush started, when the allocation counter stood at `since` (R303): the counter is 32 bits
wide. -/
def olderThan (s : State) (alloc since : Nat) : Bool :=
  decide ((alloc + 2 ^ 32 - since % 2 ^ 32) % 2 ^ 32 ≥ s.way.allocs - since)

/-- The flush's scan ends (R303): every page the stream owned before it is free. -/
def endFlush (s : State) (n since : Nat) : State :=
  let s1 := { s with way := { s.way with
    flush := none
    pages := s.way.pages.map (fun (e : Nat × Page) =>
      if e.2.owned ∧ e.2.stream = n ∧ olderThan s e.2.alloc since then (e.1, { e.2 with owned := false, fill := 0 }) else e) } }
  let s2 := setStream (rangeWritten s1 7 (2 * n) 2) n { streamOf s1 n with
    flushing := false
    bad := false }
  setEvt (wr (auditPage s2) Reg.wayFlushProg (progValue (rd s2 Reg.wayFlushTotal) (rd s2 Reg.wayFlushTotal) false)) Reg.wayEvt 3

/-- Entry e of the milestone table is scanned for the flush of stream n (R303): an older page of the stream is freed, and so is
an entry that reads uncorrectable, whose owner then takes no inserts (R304). -/
def flushScan (s : State) (n e since : Nat) : State :=
  let p := pageOf s e
  if wayPages s ≤ e then s
  else if pageBad s e then
    let s1 := wayUncorr (readWords s 6 46 [3 * e, 3 * e + 1, 3 * e + 2]) p.stream e
    let s2 := if p.owned && decide (p.stream ≠ n) then wayLost s1 p.stream else s1
    auditPage (dropRecs (setPageWhole s2 e { p with
      owned := false
      fill := 0 }) e)
  else if p.owned && decide (p.stream = n) && olderThan s p.alloc since then
    auditPage (dropRecs (setPage s e { p with
      owned := false
      fill := 0 }) e)
  else s

/-- The flush's scan in this cycle: one entry per cycle from the first (R303). -/
def flushStep (s : State) : State :=
  match s.way.flush with
  | some f => flushScan s f.1 (s.cycle - f.2.1 - 1) f.2.2
  | none => s

/-- `WAY_FLUSH_PROG` (R14, R303): POSITION counts the entries scanned. -/
def flushProgView (s : State) : Nat :=
  match s.way.flush with
  | some f => progValue (rd s Reg.wayFlushTotal) (min (s.cycle - f.2.1) (rd s Reg.wayFlushTotal)) true
  | none => rd s Reg.wayFlushProg

end Sys2Proof.Machine
end

