-- ==== Sys2Proof/Machine/Mil.lean ====
section
/-!
DEFINITION. The milepost time unit (R87–R118): the time base, sources and the servo, corrections, steps and slews,
uncertainty and stamps, trigger and PPS outputs, holdover.
-/
namespace Sys2Proof.Machine

/-- Advance of road time on one CCLK edge from RATE alone, in 2⁻⁴⁰ ns: 1.25 ns × (1 + RATE × 10⁻¹²) (R87). Bits below
the 40th are dropped. -/
def rateShare (rate : Int) : Int := 5 * 2 ^ 38 * (10 ^ 12 + rate) / 10 ^ 12

/-- What SLEW_MAX removes of the slew remainder on one edge (R96). -/
def slewShare (s : State) : Int := 5 * 2 ^ 38 * (fget s Reg.milServo 15 8 * 10 ^ 7 : Nat) / 10 ^ 12

/-- The part of the slew remainder that the next edge takes: a whole share, or nothing when less is left. -/
def slewNow (s : State) : Int :=
  if s.mil.rem ≥ slewShare s then slewShare s else if s.mil.rem ≤ -slewShare s then -slewShare s else 0

/-- Road time modulo its 64 ns bits and 40 fraction bits. -/
def roadWrap (x : Int) : Nat := (x % 2 ^ 104).toNat

/-- What the next edge adds to road time (R87, R96): RATE's share, the slew's, and the last part of a slew that has ended. -/
def edgeInc (s : State) : Int :=
  rateShare s.mil.rate + (if s.mil.rem = 0 then 0 else slewNow s) + s.mil.slewTail

/-- One CCLK edge of road time (R87, R89, R96). -/
def roadEdge (s : State) : State :=
  { s with mil := { s.mil with
    road := roadWrap (s.mil.road + edgeInc s)
    rem := if s.mil.rem = 0 then 0 else s.mil.rem - slewNow s
    slewTail := 0 } }

/-- |x|. -/
def absI (x : Int) : Nat := x.natAbs

/-- x held to [−lim, lim]. -/
def clampI (lim : Nat) (x : Int) : Int := max (-(lim : Int)) (min lim x)

/-- A signed field of `w` bits. -/
def sextI (w v : Nat) : Int := if bitOf v (w - 1) then (v % 2 ^ w : Nat) - (2 ^ w : Nat) else ((v % 2 ^ w : Nat) : Int)

/-- The two's complement of `w` bits of a signed number. -/
def toField (w : Nat) (x : Int) : Nat := (x % (2 ^ w : Nat)).toNat

/-- Any profile is enabled (R89, R96). -/
def anyProfile (s : State) : Bool := rd s Reg.cblProfEn ≠ 0

/-- The time base's uncertainty BASE (R99). -/
def baseUnc (s : State) : Nat :=
  if !s.mil.valid || s.mil.state ≤ 1 || s.mil.warm then 255
  else if s.mil.state = 3 then
    min 255 (s.mil.holdBase + cdiv (fget s Reg.milUncCfg 31 16 * (nowNs s - s.mil.holdNs)) 125000000)
  else if s.mil.src = 2 ∨ s.mil.src = 3 then min 255 (fget s Reg.milUncCfg 7 0 + cdiv (absI s.mil.err) 32)
  else if s.mil.src = 5 then min 255 (s.mil.markBase + 24)
  else fget s Reg.milUncCfg 15 8

/-- The uncertainty of a stamp taken now (R100). -/
def stampUnc (s : State) : Nat := min 255 (baseUnc s + 1)

/-- The time base now, as a record for stamps of earlier events. -/
def timeBase (s : State) : PastTime := ⟨s.cycle, s.mil.road, edgeInc s, stampUnc s⟩

/-- The time base that was in force `ago` × 125 ps ago: the oldest record of a later cycle, or the present one (R101). -/
def baseAgo (s : State) (ago : Nat) : PastTime :=
  match (s.past.filter (fun (p : PastTime) => decide (10 * s.cycle < 10 * p.cycle + ago))).getLast? with
  | some p => p
  | none => timeBase s

/-- Road time `ago` × 125 ps before the present edge, in 2⁻⁴⁰ ns. -/
def roadAgo (s : State) (ago : Nat) : Nat :=
  let p := baseAgo s ago
  roadWrap (p.road - ((10 * p.cycle + ago - 10 * s.cycle : Nat) : Int) * p.inc / 10)

/-- A milepost stamp of an event `ago` × 125 ps ago, on the 125 ps grid, with the uncertainty of that cycle (R16, R101). -/
def stampAgo (s : State) (ago : Nat) : Stamp :=
  let r := roadAgo s ago
  ⟨r / 2 ^ 40, r / 2 ^ 32 % 256 / 32 * 32, (baseAgo s ago).unc⟩

/-- Between `s` and `t` the time base changed out of turn, by a step, a new rate or slew, or a new uncertainty: what it was
in `s` is kept for 256 cycles (R16, R101). `inc`: what road time gained in its turn. -/
def notePast (s t : State) (inc : Int) : State :=
  if t.mil.road = roadWrap (s.mil.road + inc) ∧ edgeInc t = edgeInc s ∧ stampUnc t = stampUnc s then t
  else { t with past := timeBase s :: s.past.filter (fun (p : PastTime) => decide (s.cycle < p.cycle + 256)) }

/-- The same instant in 1/256 ns. -/
def stampAgo256 (s : State) (ago : Nat) : Nat := (stampAgo s ago).ns * 256 + (stampAgo s ago).frac

/-- A source's watch. -/
def watchOf (s : State) (c : Nat) : SrcWatch := s.mil.watch.get (fun _ => SrcWatch.zero) c
def setWatch (s : State) (c : Nat) (w : SrcWatch) : State :=
  { s with mil := { s.mil with watch := s.mil.watch.set (fun _ => SrcWatch.zero) c w } }

/-- The servo changes state; entering LOCKED or HOLDOVER latches its event (R92, R114). -/
def servoState (s : State) (st : Nat) : State :=
  if s.mil.state = st then s
  else
    let s1 := { s with mil := { s.mil with
      state := st
      warm := if st = 2 then false else s.mil.warm
      aonFrom := if s.mil.state = 0 ∨ s.mil.state = 3 then s.cycle else s.mil.aonFrom } }
    if st = 2 then setEvt s1 Reg.milEvt 0 else if st = 3 then setEvt s1 Reg.milEvt 2 else s1

/-- A port's delay exchange. -/
def dlyOf (s : State) (p : Nat) : Dly := s.mil.dly.get (fun _ => Dly.zero) p
def setDly (s : State) (p : Nat) (d : Dly) : State :=
  { s with mil := { s.mil with dly := s.mil.dly.set (fun _ => Dly.zero) p d } }

/-- The interval of delay exchanges in CCLK cycles: 2^PERIOD × 125 µs (R105). -/
def dlyPeriod (s : State) : Nat := 2 ^ fget s Reg.milDlyCtrl 3 0 * 100000

/-- On a link that is up, the next request is due: the first, or a PERIOD after the last (R102). -/
def dreqTime (s : State) (p : Nat) : Bool :=
  decide ((dlyOf s p).seq = 0) || decide ((dlyOf s p).sentAt + dlyPeriod s ≤ s.cycle)

/-- On a link that is up, road time has passed a multiple of 1,000 ns since the last mark or the link's start (R104). -/
def markDue (s : State) (p : Nat) : Bool := s.mil.lastMark.nat p ≠ nowNs s / 1000 + 1

/-- A link comes up: its first mark is due at the next multiple of 1,000 ns. -/
def markFrom (s : State) (p : Nat) : State :=
  { s with mil := { s.mil with lastMark := s.mil.lastMark.setNat p (nowNs s / 1000 + 1) } }

/-- A pulse generator. -/
def pulseOf (s : State) (n : Nat) : Pulse := s.mil.pulse.get (fun _ => Pulse.off) n
def setPulse (s : State) (n : Nat) (x : Pulse) : State :=
  { s with mil := { s.mil with pulse := s.mil.pulse.set (fun _ => Pulse.off) n x } }

/-- The first grid time anchor + k × period, k ≥ 0, that is not below `bound` (R108). -/
def nextGrid (anchor : Int) (period bound : Nat) : Nat :=
  if anchor ≥ bound then anchor.toNat else (anchor + (cdiv ((bound : Int) - anchor).toNat period * period : Nat)).toNat

/-- Now, rounded up to a whole ns. -/
def ceilNs (s : State) : Nat := cdiv s.mil.road roadUnit

/-- Arm a generator: its first rising edge is at least 1 µs ahead (R108). -/
def armPulse (s : State) (n : Nat) : State :=
  let x := pulseOf s n
  if x.on ∧ s.mil.valid ∧ x.next = none then
    setPulse s n { x with next := some (nextGrid (x.start + x.phase) x.period (ceilNs s + 1000)) }
  else s

/-- VALID becomes 1: every enabled generator is armed (R96, R108). -/
def setValid (s : State) : State :=
  if s.mil.valid then s
  else (List.range 10).foldl armPulse { s with mil := { s.mil with valid := true } }

/-- Add an amount to the slew remainder (R96). -/
def addSlew (s : State) (c : Int) (setting : Bool) : State :=
  let s1 := { s with mil := { s.mil with rem := s.mil.rem + c } }
  if setting then setValid s1 else s1

/-- STEP_LIM in 2⁻⁴⁰ ns. -/
def stepLim (s : State) : Nat := fget s Reg.milServo 7 0 * 1000 * roadUnit

/-- The step boundary of a correction issued now (R96). -/
def boundaryFrom (s : State) : Nat := cdiv (s.mil.road + 10000 * roadUnit) (10000 * roadUnit) * 10000

/-- Apply a correction c, in 2⁻⁴⁰ ns (R95, R96): slewed when small, or when negative with a profile enabled; else it
joins the pending step. -/
def correct (s : State) (c : Int) (setting : Bool) : State :=
  if absI c ≤ stepLim s ∨ (c < 0 ∧ anyProfile s) then
    addSlew (if absI c > stepLim s then setEvt s Reg.milEvt 4 else s) c setting
  else
    let old := match s.mil.step with
      | some p => p.1
      | none => 0
    { s with mil := { s.mil with
      step := some (old + c, boundaryFrom s)
      setStep := s.mil.setStep || setting } }

/-- A pending step is withdrawn into slew (R96). -/
def withdrawStep (s : State) : State :=
  match s.mil.step with
  | none => s
  | some p =>
    addSlew (setEvt { s with mil := { s.mil with
      step := none
      setStep := false } } Reg.milEvt 4) p.1 s.mil.setStep

/-- The profile enables as last written: those of a deferred enable while one waits (R96). -/
def enWritten (s : State) : Nat :=
  match s.mil.deferEn with
  | some en => en
  | none => rd s Reg.cblProfEn

/-- The enables change: descriptors accepted in this cycle still see the old ones (R34, R169), and no enable waits any
longer. -/
def setEnables (s : State) (en : Nat) : State :=
  let s1 := actLater s Reg.cblProfEn (rd s Reg.cblProfEn)
  wr { s1 with mil := { s1.mil with deferEn := none } } Reg.cblProfEn en

/-- A write of the profile enables takes effect: withdrawn or deferred around a pending backward step (R96). -/
def enableProfiles (s : State) (en : Nat) : State :=
  match s.mil.step with
  | some p =>
    if p.1 < 0 ∧ en ≠ 0 ∧ anyProfile s = false then
      if p.2 * roadUnit < s.mil.road + 2000 * roadUnit then { s with mil := { s.mil with deferEn := some en } }
      else setEnables (withdrawStep s) en
    else setEnables s en
  | none => setEnables s en

/-- The first pulse of the grid of a written PHASE: at least 1 µs after the write and after the fall of the current pulse
(R109). -/
def newGridAt (x : Pulse) (p : Nat × Nat) : Nat := nextGrid (x.start + p.1) x.period (max (p.2 + 1000) (x.fallNs + 1))

/-- A generator whose next edge was at t after road time has jumped to `now` ns: its edges on the old grid, and on the grid
of a written PHASE from where that takes over, are skipped and counted (R97, R109). -/
def skipPulses (x : Pulse) (t now : Nat) : Pulse × Nat :=
  match x.newPhase with
  | none =>
    let k := cdiv (now - t) x.period
    ({ x with next := some (t + k * x.period) }, k)
  | some p =>
    let c := newGridAt x p
    let k := cdiv (min c now - t) x.period
    if now ≤ c then ({ x with next := some (t + k * x.period) }, k)
    else
      let j := cdiv (now - c) x.period
      ({ x with
        next := some (c + j * x.period)
        phase := p.1
        newPhase := none }, k + j)

/-- A generator sees a step from `old` ns to the present (R97): pulses whose rising edge was jumped over are counted;
a high pulse keeps its width in cycles; after a backward step the grid is entered again. -/
def stepPulse (old : Nat) (s : State) (n : Nat) : State :=
  let x := pulseOf s n
  let x1 := { x with high := x.high.map (fun (h : Nat × Nat × Bool) => (h.1, h.2.1, true)) }
  match x1.next with
  | none => setPulse s n x1
  | some t =>
    let now := ceilNs s
    if now ≤ old then setPulse s n { x1 with next := some (nextGrid (x.start + x.phase) x.period now) }
    else
      let sk := skipPulses x1 t now
      let s1 := setPulse s n sk.1
      if sk.2 = 0 then s1
      else
        let s2 := setEvt s1 Reg.milEvt 8
        if n < 8 then satBump s2 (Reg.milTrigCnt n) 63 48 sk.2 else s2

/-- A step takes effect: every unit sees the new time together (R96, R97, R301). -/
def takeStep (s : State) (c : Int) (setting : Bool) : State :=
  let old := ceilNs s
  let s1 := { s with mil := { s.mil with
    road := roadWrap (s.mil.road + c)
    step := none
    setStep := false
    announce := none } }
  let s2 := setEvt ((List.range 10).foldl (stepPulse old) s1) Reg.milEvt 3
  let s3 := if setting then setValid s2 else s2
  if c < 0 then backwardStep s3 else s3

/-- The step boundary (R96, R107): a negative sum is never applied with a profile enabled; a slave applies an announced
step it has known for 1 µs. -/
def stepBoundary (s : State) : State :=
  match s.mil.step with
  | some p =>
    if s.mil.road < p.2 * roadUnit then s
    else if p.1 < 0 ∧ anyProfile s then withdrawStep s
    else takeStep s p.1 s.mil.setStep
  | none =>
    match s.mil.announce with
    | some a =>
      if s.mil.road < a.2.1 * roadUnit then s
      else if a.2.2 + 1000 ≤ a.2.1 ∧ (a.1 ≥ 0 ∨ anyProfile s = false) then takeStep s a.1 false
      else { s with mil := { s.mil with announce := none } }
    | none => s

/-- The last part of a slew, less than one edge's share, goes with the next edge (R89, R96). -/
def slewEnd (s : State) : State :=
  if s.mil.rem ≠ 0 ∧ slewNow s = 0 then
    { s with mil := { s.mil with
      slewTail := s.mil.slewTail + s.mil.rem
      rem := 0 } }
  else s

/-- The primary and backup source codes. -/
def srcPri (s : State) : Nat := fget s Reg.milCtrl 2 0
def srcBak (s : State) : Nat := fget s Reg.milCtrl 6 4

/-- A source taken into use: FREE stops steering, any other is acquired (R90–R92). -/
def useSource (s : State) (c : Nat) (bak : Bool) : State :=
  let s1 := if c ≠ s.mil.src then setEvt s Reg.milEvt 9 else s
  let s2 := { s1 with mil := { s1.mil with
    src := c
    onBackup := bak
    marks := 0 } }
  if c = 0 then servoState { s2 with mil := { s2.mil with
    freq := 0
    rate := 0 } } 0
  else
    let w := watchOf s2 c
    servoState (setWatch s2 c (if bak then { w with streak := 0 } else
      { SrcWatch.zero with
        since := s.cycle
        todSeen := w.todSeen
        todUsed := w.todUsed })) 1

/-- May the unit, running on the backup, return to its primary (R92, REVERT)? In HOLDOVER it runs on neither. -/
def mayRevert (s : State) : Bool :=
  s.mil.onBackup && (s.mil.state = 1 || s.mil.state = 2) && flag s Reg.milCtrl 8

/-- The unit returns to its primary in LOCKED (R92, REVERT), with the phase error of the primary's edge (R99). -/
def lockPrimary (s : State) (e : Int) : State :=
  let s1 := setEvt { s with mil := { s.mil with
    src := srcPri s
    onBackup := false
    err := e } } Reg.milEvt 9
  servoState s1 2

/-- Is the source lost by its own clockwork (R92)? PPS: 1.5 s without an accepted edge; WELT: 16 µs without a mark;
REF: reported by its range detector; HOST: never. -/
def timedOut (s : State) (c : Nat) : Bool :=
  let w := watchOf s c
  let since := match w.lastOk with
    | some t => max t w.since
    | none => w.since
  match c with
  | 2 => decide (since + 1200000000 ≤ s.cycle)
  | 3 => decide (since + 1200000000 ≤ s.cycle)
  | 5 => decide (since + 12800 ≤ s.cycle)
  | 1 => decide ((match w.lastOk with
      | some t => t
      | none => w.since) + 8000 ≤ s.cycle) || w.lost
  | _ => false

/-- The backup can be used (R92). -/
def backupUsable (s : State) : Bool :=
  srcBak s ≠ 0 && !s.mil.onBackup && !(watchOf s (srcBak s)).lost &&
    (srcBak s = 1 || !timedOut s (srcBak s)) && decide (s.img.weltPos = 0)

/-- The source in use is lost (R92, R94). -/
def sourceLost (s : State) : State :=
  let w := watchOf s s.mil.src
  let s1 := setEvt (setWatch s s.mil.src { w with
    lost := true
    streak := 0 }) Reg.milEvt 1
  if backupUsable s1 then useSource s1 (srcBak s1) true
  else
    servoState { s1 with mil := { s1.mil with
      holdBase := baseUnc s
      holdNs := nowNs s
      rate := clampI 2000000000 s.mil.freq
      marks := 0 } } 3

/-- SOURCE_LOSS of source c (R92): the source in use goes to backup or HOLDOVER; a watched one is marked. -/
def sourceLoss (s : State) (c : Nat) : State :=
  if timedOut s c = false then s
  else if c = s.mil.src ∧ (s.mil.state = 1 ∨ s.mil.state = 2) then sourceLost s
  else if c ≠ s.mil.src ∧ (c = srcPri s ∨ c = srcBak s) then
    setWatch s c { watchOf s c with
      lost := true
      streak := 0 }
  else s

/-- The servo on an accepted edge with phase error e, in 1/256 ns (R94): a step, or freq and RATE. -/
def servoEdge (s : State) (e : Int) : State :=
  if absI e > fget s Reg.milServo 7 0 * 1000 * 256 then
    let s1 := correct s (-e * 2 ^ 32) false
    if s1.mil.state = 2 then servoState s1 1 else s1
  else
    let ppt : Int := e * 1000 / 256
    let f := s.mil.freq - ppt / (2 ^ fget s Reg.milServo 27 24 : Nat)
    let r := f - ppt / (2 ^ fget s Reg.milServo 23 20 : Nat)
    { s with mil := { s.mil with
      err := e
      freq := f
      rate := clampI 2000000000 (clampI (fget s Reg.milServo 15 8 * 10000000) r) } }

/-- The road time an accepted PPS edge stands for (R93), and whether `MIL_TOD_NEXT` was missed. -/
def todFor (s : State) (w : SrcWatch) : Nat × Bool :=
  if w.todSeen = s.mil.todWrites then (w.todUsed + 1000000000, true) else (rd s Reg.milTodNext, false)

/-- An accepted edge of PPS input k with capture `cap` (R92–R94). -/
def ppsAccepted (s : State) (k cap : Nat) (w : SrcWatch) : State :=
  let t := todFor s w
  let e : Int := (cap : Int) - (t.1 * 256 : Nat)
  let near := decide (absI e ≤ fget s Reg.milServo 19 16 * 8 * 256)
  let w1 := { w with
    prev := some cap
    lastOk := some s.cycle
    lost := false
    streak := if near then w.streak + 1 else 0
    todSeen := s.mil.todWrites
    todUsed := t.1 }
  let s1 := setWatch (if t.2 then setEvt s Reg.milEvt 6 else s) (2 + k) w1
  let s2 := wr s1 (Reg.milPpsErr k) (toField 32 (max (-(2 ^ 31)) (min (2 ^ 31 - 1) e)))
  if s.mil.src = 2 + k then
    if s.mil.state = 3 then servoState s2 1
    else
      let s3 := servoEdge s2 e
      if s3.mil.state = 1 ∧ w1.streak ≥ 4 then setValid (servoState s3 2) else s3
  else if srcPri s = 2 + k ∧ mayRevert s ∧ w1.streak ≥ 4 then setValid (lockPrimary s2 e)
  else s2

/-- A rising edge on PPS_IN k, `ago` × 125 ps ago, that stayed high for `high` ns (R93). -/
def ppsEdge (s : State) (k ago high : Nat) : State :=
  let c := 2 + k
  if s.mil.src ≠ c ∧ (s.img.weltPos ≠ 0 ∨ (srcPri s ≠ c ∧ srcBak s ≠ c)) then s
  else
    let cap := stampAgo256 s ago
    let w := watchOf s c
    let inTime : Bool := match w.prev with
      | some p => decide (absI ((cap : Int) - p - (256 * 1000000000 : Nat)) ≤ 256 * 100000)
      | none => false
    if inTime ∧ high ≥ 100 then ppsAccepted s k cap w
    else setEvt (setWatch s c { w with prev := some cap }) Reg.milEvt 5

/-- The end of a 1 ms measurement of REF_IN: its deviation in ppt, and whether it stayed in range throughout (R92, R94). -/
def refMeasured (s : State) (ppt : Int) (inRange : Bool) : State :=
  let w := watchOf s 1
  let from_ := match w.prev with
    | some t => t
    | none => w.since
  if (s.mil.src ≠ 1 ∧ srcPri s ≠ 1 ∧ srcBak s ≠ 1) ∨ s.cycle < from_ + 800000 then s
  else if !inRange then setWatch s 1 { w with prev := some s.cycle }
  else
    let s1 := setWatch s 1 { w with
      prev := some s.cycle
      lastOk := some s.cycle
      lost := false }
    if s.mil.src = 1 then
      let s2 := if s.mil.state = 3 then servoState s1 1 else s1
      servoState { s2 with mil := { s2.mil with
        freq := clampI 2000000000 ppt
        rate := clampI 2000000000 ppt } } 2
    else if srcPri s = 1 ∧ mayRevert s then lockPrimary s1 s.mil.err
    else s1

/-- A write of MIL_CTRL has changed the selection (R90–R92): a new primary is taken into use; a new backup is watched
afresh, and taken into use when the unit runs on the backup. A slave ignores both fields. -/
def milSelect (s : State) (oldPri oldBak : Nat) : State :=
  if s.img.weltPos ≠ 0 then s
  else
    let s1 := if srcBak s ≠ oldBak then setWatch s (srcBak s) { SrcWatch.zero with since := s.cycle } else s
    if srcPri s ≠ oldPri then useSource s1 (srcPri s) false
    else if s.mil.onBackup ∧ srcBak s ≠ oldBak then useSource s1 (srcBak s) true
    else s1

/-- A write of MIL_CTRL (R90). -/
def milCtrlWrite (s : State) (m v : Nat) : State :=
  milSelect (commitFields s m Reg.milCtrl v) (srcPri s) (srcBak s)

/-- A write of MIL_RATE (R89, R92, R98). -/
def milRateWrite (s : State) (v : Nat) : State :=
  if s.mil.src ≠ 4 then setEvt s Reg.milEvt 10
  else
    let s1 := { s with mil := { s.mil with rate := clampI 2000000000 (sextI 32 v) } }
    if s1.mil.state = 1 then servoState s1 2 else s1

/-- A committed write of MIL_OFFSET (R95, R98, R107). -/
def milOffsetWrite (s : State) (v : Nat) : State :=
  if s.img.weltPos ≠ 0 then setEvt s Reg.milEvt 10 else correct s (sextI 48 v * 2 ^ 32) false

/-- A committed write of MIL_SET (R95, R96, R107). -/
def milSetWrite (s : State) (v : Nat) : State :=
  if s.img.weltPos ≠ 0 then setEvt s Reg.milEvt 10
  else correct s ((v % 2 ^ 64 * roadUnit : Nat) - (s.mil.road : Int)) true

/-- The checks of an enable write of trigger n (R109). -/
def trigOk (s : State) (n : Nat) : Bool :=
  let p := rd s (Reg.milTrigPeriod n)
  let w := rd s (Reg.milTrigWidth n)
  decide (1000 ≤ p) && decide (rd s (Reg.milTrigPhase n) < p) && decide (8 ≤ w) && decide (w + 8 ≤ p)

/-- START, PHASE, PERIOD and WIDTH taken into force at an enable (R109, R110). -/
def loadPulse (s : State) (n : Nat) : State :=
  let x := pulseOf s n
  let y := if n < 8 then
      { x with
        start := (rd s (Reg.milTrigStart n) : Int)
        phase := rd s (Reg.milTrigPhase n)
        period := max 1 (rd s (Reg.milTrigPeriod n))
        width := rd s (Reg.milTrigWidth n) }
    else
      { x with
        start := sextI 32 (rd s (Reg.milPpsOfs (n - 8)))
        phase := 0
        period := 1000000000
        width := fget s (Reg.milPpsOut (n - 8)) 19 0 * 1000 }
  armPulse (setPulse s n { y with
    on := true
    next := none
    newPhase := none }) n

/-- A generator is disabled: a trigger finishes the pulse in progress, a PPS output ends it (R109, R110). -/
def stopPulse (s : State) (n : Nat) : State :=
  let x := pulseOf s n
  setPulse s n { x with
    on := false
    next := none
    newPhase := none
    high := if n < 8 then x.high else none }

/-- A write of MIL_TRIG_CTRL[n] (R109). -/
def trigCtrlWrite (s : State) (m n v : Nat) : State :=
  let off := Reg.milTrigCtrl n
  let was := flag s off 1
  let s1 := commitFields s m off v
  if flag s1 off 1 ∧ was = false then
    if trigOk s1 n then loadPulse s1 n else rsvd (fput s1 off 1 1 0) m off
  else if was ∧ flag s1 off 1 = false then stopPulse s1 n
  else s1

/-- A write of MIL_PPS_OUT[k] (R110). -/
def ppsOutWrite (s : State) (m k v : Nat) : State :=
  let off := Reg.milPpsOut k
  let was := flag s off 21
  let s1 := commitFields s m off v
  if flag s1 off 21 ∧ was = false then loadPulse s1 (8 + k)
  else if was ∧ flag s1 off 21 = false then stopPulse s1 (8 + k)
  else s1

/-- A write of MIL_TRIG_PERIOD[n]: a PERIOD below 1,000 ns is reserved (R8, R109). -/
def trigPeriodWrite (s : State) (m n v : Nat) : State :=
  if v < 1000 then rsvd s m (Reg.milTrigPeriod n) else wr s (Reg.milTrigPeriod n) v

/-- A write of MIL_TRIG_WIDTH[n]: a WIDTH outside 8 ns to PERIOD − 8 ns is reserved (R8, R109). -/
def trigWidthWrite (s : State) (m n v : Nat) : State :=
  if v < 8 ∨ rd s (Reg.milTrigPeriod n) < v + 8 then rsvd s m (Reg.milTrigWidth n) else wr s (Reg.milTrigWidth n) v

/-- A write of MIL_TRIG_PHASE[n]: a PHASE that is not below PERIOD is reserved (R8, R109). -/
def trigPhaseWrite (s : State) (m n v : Nat) : State :=
  if rd s (Reg.milTrigPeriod n) ≤ v then rsvd s m (Reg.milTrigPhase n)
  else
  let s1 := wr s (Reg.milTrigPhase n) v
  let x := pulseOf s1 n
  if x.on then setPulse s1 n { x with newPhase := some (rd s1 (Reg.milTrigPhase n), ceilNs s) } else s1

/-- The next rising edge of a generator, and the PHASE it is on: a written PHASE takes over at the first pulse of the new
grid at least 1 µs after the write and after the fall of the current pulse (R109). -/
def pulseDue (x : Pulse) : Option (Nat × Option Nat) :=
  match x.next with
  | none => none
  | some t =>
    match x.newPhase with
    | none => some (t, none)
    | some p =>
      let c := newGridAt x p
      if t < c then some (t, none) else some (c, some p.1)

/-- A rising edge of a generator falls due (R108, R110). -/
def pulseRise (s : State) (n : Nat) : State :=
  let x := pulseOf s n
  match pulseDue x with
  | none => s
  | some d =>
    if s.mil.valid ∧ x.on ∧ x.high = none ∧ d.1 * roadUnit ≤ s.mil.road then
      let s1 := setPulse s n { x with
        phase := match d.2 with
          | some p => p
          | none => x.phase
        newPhase := match d.2 with
          | some _ => none
          | none => x.newPhase
        next := some (d.1 + x.period)
        high := some (d.1, s.cycle, false)
        fallNs := d.1 + x.width }
      if n < 8 then
        fput (wr s1 (Reg.milTrigLast n) d.1) (Reg.milTrigCnt n) 47 0 (fget s1 (Reg.milTrigCnt n) 47 0 + 1)
      else s1
    else s

/-- The end of the pulse in progress (R97, R108). -/
def pulseFall (s : State) (n : Nat) : State :=
  let x := pulseOf s n
  match x.high with
  | none => s
  | some h =>
    let due := if h.2.2 then decide (h.2.1 + cdiv ((x.fallNs - h.1) * 4) 5 ≤ s.cycle)
      else decide (x.fallNs * roadUnit ≤ s.mil.road)
    if due then setPulse s n { x with high := none } else s

/-- The outputs are driven: after apply, and until a PARK commit lets PARK_REQ_N fall (R117, R492). -/
def pinsLive (s : State) : Bool :=
  s.img.applied && s.pwr.reqHigh && (s.pwr.st = .staged || s.pwr.st = .ready || s.pwr.st = .parking)

/-- The level a pin drives: none when high-impedance (R109, R117). -/
def pinLevel (s : State) (n : Nat) : Option Bool :=
  let off := if n < 8 then Reg.milTrigCtrl n else Reg.milPpsOut (n - 8)
  let oe := if n < 8 then flag s off 0 else flag s off 20
  let pol := if n < 8 then flag s off 2 else flag s off 22
  if oe && pinsLive s then some ((pulseOf s n).high.isSome != pol) else none

/-- A calibration window of the always-on clock ends with the measured period (R111). -/
def aonCalibrated (s : State) (period : Nat) : State :=
  if (s.mil.state = 1 ∨ s.mil.state = 2) ∧ s.mil.aonFrom + fget s Reg.milHold 7 0 * 6400000 ≤ s.cycle then
    wr { s with mil := { s.mil with aonFrom := s.cycle } } Reg.milAonPeriod (period % 2 ^ 32)
  else s

/-- MIL_STAT as it reads now (R100). -/
def milStatView (s : State) : Nat :=
  b2n s.mil.valid * 2 ^ 31 + b2n (decide (s.mil.rem ≠ 0)) * 2 ^ 30 + s.mil.src % 8 * 2 ^ 27 + s.mil.state % 4 * 2 ^ 25 +
    b2n s.mil.onBackup * 2 ^ 24 + baseUnc s * 2 ^ 16

/-- MIL_TIME_AUX as it reads now (R88). -/
def milAuxView (s : State) : Nat := stampUnc s * 256 + s.mil.road / 2 ^ 32 % 256

/-- MIL_OFFSET_REM as it reads now (R98). -/
def milRemView (s : State) : Nat := toField 48 (s.mil.rem.tdiv (2 ^ 32))

end Sys2Proof.Machine
end

