-- ==== Sys2Proof/Machine/Aging.lean ====
section
/-!
DEFINITION. Learning and aging (R313–R327, R338–R344): notifications, their three checks, the learn ring; ticks and
stamps, the aging sweeper with its compare-and-delete, and FLUSH_PORT.
-/
namespace Sys2Proof.Machine

/-- Count an event of the learning engine. -/
def lcnt (s : State) (i n : Nat) : State := bump s (Reg.lrnCnt i) n

/-- Audit of the LEARN ledger (R40, R319). -/
def auditLearn (s : State) : State :=
  let p := s.lrn.raised.length + s.lrn.queue.length
  if s.lrn.raisedN = s.lrn.delivered + s.lrn.dropped + p then s
  else ledgerFault s 3 0 s.lrn.raisedN s.lrn.delivered s.lrn.dropped p

/-- Raise a learn notification (R313, R319). -/
def raiseLearn (s : State) (n : Notif) : State :=
  let s1 := lcnt s 0 1
  auditLearn { s1 with lrn := { s1.lrn with raised := s1.lrn.raised ++ [n], raisedN := s1.lrn.raisedN + 1 } }

/-- The order notifications are taken in (R314). -/
def notifKey (n : Notif) : Nat := (((n.raisedAt * 2 ^ 64 + n.acc) * 32 + n.port) * 4 + n.search)

/-- A key's fingerprint (R315). -/
def fingerprint (t : Nat) (d : TblDecl) (key : Nat) : Nat := crc32c (BitVec.ofNat 8 t :: hashInput d key 0)

/-- The dedup filter drops the notification (R315). -/
def isDuplicate (s : State) (f ns : Nat) : Bool :=
  let w := fget s Reg.lrnDedup 19 0 * 1000
  w ≠ 0 &&
    (match KMap.find s.lrn.dedup (f % 4096) with
     | some (tag, r) => decide (tag = f / 4096) && decide (r ≤ ns) && decide (ns < r + w)
     | none => false)

/-- Refill the rate bucket over [LAST, now) (R316). -/
def refillLearn (s : State) : State :=
  let now := nowNs s
  if now > s.lrn.last then
    let burst := fget s Reg.lrnRate 31 16
    let acc := s.lrn.rem + (now - s.lrn.last) * fget s Reg.lrnRate 15 0
    let lv := s.lrn.level + acc / 1000000
    if lv ≥ burst then { s with lrn := { s.lrn with level := burst, rem := 0, last := now } }
    else { s with lrn := { s.lrn with level := lv, rem := acc % 1000000, last := now } }
  else s

/-- Entries of the learn ring, and its free entries (R317, R318). -/
def lrnSize (s : State) : Nat := 2 ^ fget s Reg.lrnRingSize 3 0
def lrnFree (s : State) : Nat := lrnSize s - (fget s Reg.lrnHead 15 0 + 65536 - fget s Reg.lrnTail 15 0) % 65536

/-- The learn queue has room (R317). -/
def lrnRoom (s : State) : Bool :=
  decide (s.lrn.queue.length < 64) && decide (fget s Reg.lrnRingSize 3 0 ≠ 0) && decide (lrnFree s > s.lrn.queue.length)

/-- A dropped notification (R314, R318, R319): `cnt` is its counter, `evt` its event if it has one. -/
def dropNotif (s : State) (cnt : Nat) (evt : Option Nat) : State :=
  let s1 := lcnt s cnt 1
  let s2 := { s1 with lrn := { s1.lrn with dropped := s1.lrn.dropped + 1, lost := satW 12 (s1.lrn.lost + 1) } }
  match evt with
  | some b => setEvt s2 Reg.lrnEvt b
  | none => s2

/-- Where the k-th queued notification lies in memory 0x0D: a ring of 64 entries of eight words. -/
def queueWord (s : State) (k : Nat) : Nat := 8 * ((s.lrn.delivered + k) % 64)

/-- The three checks of one notification (R314–R317). -/
def checkNotif (s : State) (n : Notif) : State :=
  let s0 := { s with lrn := { s.lrn with raised := s.lrn.raised.erase n } }
  match tblOf s0 n.table with
  | none => auditLearn (dropNotif s0 4 (some 2))
  | some d =>
    let f := fingerprint n.table d n.key
    let out :=
      if isDuplicate s0 f n.ns then dropNotif s0 2 none
      else
        let s1 := refillLearn s0
        let limited := decide (fget s1 Reg.lrnRate 15 0 ≠ 0)
        if limited && decide (s1.lrn.level = 0) then dropNotif s1 3 (some 1)
        else if !lrnRoom s1 then dropNotif s1 4 (some 2)
        else
          let dd := if fget s1 Reg.lrnDedup 19 0 = 0 then s1.lrn.dedup
            else KMap.put s1.lrn.dedup (f % 4096) (some (f / 4096, n.ns))
          let s2 := rangeWritten s1 0xD (queueWord s1 s1.lrn.queue.length) 8
          { s2 with lrn := { s2.lrn with
              level := if limited then s1.lrn.level - 1 else s1.lrn.level
              dedup := dd
              queue := s1.lrn.queue ++ [{ n with lost := s1.lrn.lost }]
              lost := 0 } }
    auditLearn out

/-- A learn-ring entry (R318). -/
def learnEntry (d : TblDecl) (n : Notif) : List Byte :=
  leBytes 8 (n.lost % 4096 + n.search * 2 ^ 13 + n.profile * 2 ^ 15 + n.selPort * 2 ^ 21 + n.table * 2 ^ 26 +
    n.ns % 2 ^ 32 * 2 ^ 32) ++ padTo (leBytes (cdiv d.keyBits 8) n.key) 56

/-- Ask for the write of the oldest queued notification into the ring (R317, R318, R414). -/
def deliverNotif (s : State) (n : Notif) : State :=
  match tblOf s n.table with
  | none => s
  | some d =>
    if asks s .learn then s
    else
      let e := learnEntry d n
      let s := ctrlRead s 0xD 42 ((List.range 8).map (fun k => queueWord s 0 + k))
      askPort s 13 .write (fget s Reg.lrnRingBase 18 0 + 64 * (fget s Reg.lrnHead 15 0 % lrnSize s)) e.length e .learn

/-- The oldest queued notification is in the ring: LRN_HEAD advances (R317–R319). -/
def learnPosted (s : State) : State :=
  match s.lrn.queue with
  | [] => s
  | _ :: rest =>
    let s2 := wr s Reg.lrnHead ((fget s Reg.lrnHead 15 0 + 1) % 65536)
    let s3 := { s2 with lrn := { s2.lrn with queue := rest, delivered := s2.lrn.delivered + 1 } }
    auditLearn (setEvt (lcnt s3 1 1) Reg.lrnEvt 0)

/-- LOG2 written 0: everything queued is dropped for lack of room (R317). -/
def disableRing (s : State) : State :=
  let n := s.lrn.queue.length
  if n = 0 then s
  else
    let s1 := setEvt (lcnt s 4 n) Reg.lrnEvt 2
    auditLearn { s1 with lrn := { s1.lrn with queue := [], dropped := s1.lrn.dropped + n, lost := satW 12 (s1.lrn.lost + n) } }

/-- A table's TICK in ns (R320): AGE_LIMIT × 15,625. -/
def tickNs (s : State) (t : Nat) : Nat := rd s (Reg.ageLimit t) * 15625

/-- Advance a table's tick counter to the present road time, by every tick passed (R320). -/
def advanceTick (s : State) (t : Nat) : State :=
  let k := tickNs s t
  let b := s.age.base.nat t
  if k = 0 || nowNs s < b + k then s
  else
    let n := (nowNs s - b) / k
    { s with age := { s.age with tick := s.age.tick.setNat t (s.age.tick.nat t + n), base := s.age.base.setNat t (b + n * k) } }

/-- The tables that age (R320). -/
def agingTables (s : State) : List Nat :=
  s.img.tables.filterMap (fun e => match e.2 with
    | some d => if d.age ∧ d.isDram then some e.1 else none
    | none => none)

/-- Is an entry with this stamp expired (R321)? -/
def expired (s : State) (t : Nat) (d : TblDecl) (stamp : Nat) : Bool :=
  let m := if fmtOf d = .standard then 4294967295 else 65535
  decide (stamp ≠ 0) && decide ((curStamp s t d + m - stamp % m) % m ≥ 64)

/-- Count an event of the sweeper. -/
def acnt (s : State) (i n : Nat) : State := bump s (Reg.ageCnt i) n

/-- The two copies of a relocation or drain in progress are skipped (R259, R260). -/
def isMoving (s : State) (t h : Nat) : Bool := (twinOf s t h).isSome

/-- Tables a lap visits (R324). -/
def lapTables (s : State) : List Nat := (agingTables s).filter (fun t => !hshWiping s t)

/-- Bucket granules of a table (R327). -/
def bucketGrans (s : State) (t : Nat) : Nat :=
  match tblOf s t with
  | some d => ((List.range (subCount d)).map (subSize s t d)).foldl (· + ·) 0
  | none => 0

/-- The next bucket of a lap, after a table's stash has been visited when its buckets are done (R324). -/
def expireStash (s : State) (t : Nat) : State :=
  match tblOf s t with
  | none => s
  | some d =>
    (List.range 64).foldl (fun st i =>
      match stashAt st t i with
      | none => st
      | some e =>
        let r := readStash st t 43 [i]
        if r.2 || !expired st t d (entStamp (fmtOf d) e.entry) then r.1
        else if isMoving st t (mkHandle true e.lenix 0 i) then hcnt r.1 11 1
        else
          let s1 := acnt (entSub (setStash r.1 t i none) t e.lenix) 1 1
          let s2 := { s1 with vrd := { s1.vrd with tblAged := s1.vrd.tblAged.setNat t (s1.vrd.tblAged.nat t + 1) } }
          auditDram (startUpkeep s2 43 t e.lenix 0 64 e.entry none) t) s

/-- The lap visits a table: its aging limit counts for the shortest (R326). -/
def visits (s : State) (l : Lap) (t : Nat) : Lap :=
  let v := rd s (Reg.ageLimit t)
  { l with shortest := if l.shortest = 0 then v else min l.shortest v }

/-- The sweeper presents its next bucket read, or finishes a table (R324, R327). One bucket a call. With EN cleared the lap ends
where its next granule would be asked for. -/
def sweepPump (s : State) : State :=
  match s.age.lap with
  | none => s
  | some l =>
    if l.walked || s.pwr.stopGrants || (s.rgl.reqs ++ s.rgl.parked).any (fun r => r.master = 43 && (match r.purpose with
        | .sweep _ _ _ _ => true
        | _ => false)) then s
    else if !flag s Reg.ageCtrl 0 then
      { fput s Reg.ageLapProg 46 46 0 with age := { s.age with
        lap := none
        outstanding := 0 } }
    else
      match l.tables with
      | [] => { s with age := { s.age with lap := some { l with walked := true } } }
      | t :: rest =>
        match tblOf s t with
        | none => { s with age := { s.age with lap := some { l with tables := rest, lenix := 0, bucket := 0 } } }
        | some d =>
          if hshWiping s t then
            let done := ((List.range l.lenix).map (subSize s t d)).foldl (· + ·) 0 + l.bucket
            let s1 := progAdd s Reg.ageLapProg Reg.ageLapTotal (bucketGrans s t - done)
            { s1 with age := { s1.age with lap := some { l with tables := rest, lenix := 0, bucket := 0 } } }
          else if l.lenix < subCount d then
            if l.bucket < subSize s t d l.lenix then
              let p := paced s.cycle (fget s Reg.ageCtrl 23 13) 1 s.age.pace
              let s1 := { s with age := { s.age with
                lap := some { visits s l t with bucket := l.bucket + 1 }
                outstanding := s.age.outstanding + 1
                pace := p.2 } }
              offer s1 43 (.sweep l.start t l.lenix l.bucket) p.1 [Gran.rd (subBase s t d l.lenix + l.bucket)]
            else { s with age := { s.age with lap := some { l with lenix := l.lenix + 1, bucket := 0 } } }
          else
            let s1 := expireStash s t
            { s1 with age := { s1.age with lap := some { l with tables := rest, lenix := 0, bucket := 0 } } }

/-- The lap of a visit is still the one in progress. -/
def inLap (s : State) (lap : Nat) : Bool :=
  match s.age.lap with
  | some l => decide (l.start = lap)
  | none => false

/-- A bucket visit returned: an expired slot gets a compare-and-delete (R325, R259), unless the lap has ended meanwhile (R327). -/
def sweepRound (s : State) (x : Round) (lap t j b : Nat) : State :=
  match tblOf s t with
  | none => s
  | some d =>
    let f := fmtOf d
    let g := subBase s t d j + b
    let s0 := acnt s 0 1
    if !inLap s lap then s0
    else
    let s1 := { progAdd s0 Reg.ageLapProg Reg.ageLapTotal 1 with age := { s0.age with outstanding := s0.age.outstanding - 1 } }
    if roundBad x then s1
    else
      (List.range f.slots).foldl (fun st i =>
        let e := slice (gotData x g) (i * f.size) f.size
        let v := entStamp f e
        if !expired st t d v then st
        else if isMoving st t (mkHandle false j b i) then hcnt st 11 1
        else
          let p := paced st.cycle (fget st Reg.ageCtrl 23 13) 2 st.age.pace
          let s2 := { st with age := { st.age with
            outstanding := st.age.outstanding + 1
            pace := p.2 } }
          offer s2 43 (.sweepDelete lap t j b i e) p.1
            [{ Gran.wr g (stampBytes f i 0) with cond := stampBytes f i v, held := true, rmw := true }]) s1

/-- A compare-and-delete is acknowledged (R325, R271). -/
def sweepAck (s : State) (w : WriteFl) (lap t j b i : Nat) (e : List Byte) : State :=
  let s0 := if inLap s lap then { s with age := { s.age with outstanding := s.age.outstanding - 1 } } else s
  if w.done then
    let s1 := acnt (entSub s0 t j) 1 1
    let s2 := { s1 with vrd := { s1.vrd with tblAged := s1.vrd.tblAged.setNat t (s1.vrd.tblAged.nat t + 1) } }
    auditDram (startUpkeep s2 43 t j b i e none) t
  else acnt s0 2 1

/-- A sweeper's compare-and-delete may be served the moment it is granted; a failed compare is the survival of R325. -/
def lapOver (s : State) : Bool :=
  match s.age.lap with
  | some l => l.walked && decide (s.age.outstanding = 0)
  | none => false

/-- Start a lap (R324, R327). -/
def startLap (s : State) : State :=
  let ts := lapTables s
  let total := (ts.map (bucketGrans s)).foldl (· + ·) 0
  let s1 := progSet s Reg.ageLapProg Reg.ageLapTotal total 0 true
  sweepPump { s1 with age := { s1.age with lap := some ⟨s.cycle, ts, 0, 0, 0, 0, false⟩, lastStart := some s.cycle } }

/-- May a lap start (R324)? -/
def lapMayStart (s : State) : Bool :=
  flag s Reg.ageCtrl 0 && !s.pwr.stopGrants && s.age.lap.isNone && decide (lapTables s ≠ []) &&
    (match s.age.lastStart with
     | some t => decide (t + fget s Reg.ageCtrl 31 24 * 800000 ≤ s.cycle)
     | none => true)

/-- Audits made at the end of a lap: every TABLE ledger, LEARN (R40, R327); the rest of the ledgers are in Verdict. -/
def auditTables (s : State) : State :=
  let ts := s.img.tables.filterMap (fun e => e.2.map (fun d => (e.1, d)))
  auditLearn (ts.foldl (fun st e => if e.2.isTern then auditTern st e.1 else auditDram st e.1) s)

/-- FLUSH_PORT presents its next bucket read (R338). -/
def flushPump (s : State) : State :=
  match s.age.flush with
  | none => s
  | some f =>
    if f.aborted || f.bucket ≥ bucketGrans s f.table || s.rgl.reqs.any (fun r => match r.purpose with
        | .flushRead _ => true
        | _ => false) then s
    else
      match tblOf s f.table with
      | none => s
      | some d =>
        match scanAt s f.table d f.bucket with
        | none => s
        | some p =>
          let q := paced s.cycle (fget s Reg.ageCtrl 12 2) 1 s.age.flushPace
          let s1 := { s with age := { s.age with
            flush := some { f with bucket := f.bucket + 1, outstanding := f.outstanding + 1 }
            flushPace := q.2 } }
          present s1 f.master false (.flushRead f.bucket) q.1 [Gran.rd (subBase s f.table d p.1 + p.2)]

/-- Does an entry belong to the port (R240, R338)? -/
def ownedBy (e : List Byte) (port : Nat) : Bool :=
  bitOf (entMeta e) 7 && decide (bitsOf (entMeta e) 4 0 = port)

/-- Count one removal of the flush (R271, R338). -/
def countFlushed (s : State) (t j : Nat) : State :=
  let s1 := acnt (entSub s t j) 3 1
  let s2 := { s1 with vrd := { s1.vrd with tblFlushed := s1.vrd.tblFlushed.setNat t (s1.vrd.tblFlushed.nat t + 1) } }
  match s2.age.flush with
  | some f => { s2 with age := { s2.age with flush := some { f with removed := f.removed + 1 } } }
  | none => s2

/-- FLUSH_PORT ends: the stash is read, the completion posted (R338, R339). -/
def flushEnd (s : State) (f : FlushP) : State :=
  match tblOf s f.table with
  | none => s
  | some d =>
    let s1 := if f.aborted then s
      else (List.range 64).foldl (fun st i =>
        match stashAt st f.table i with
        | some e =>
          let r := readStash st f.table f.master [i]
          if r.2 = true ∨ ownedBy e.entry f.port = false ∨ entStamp (fmtOf d) e.entry = 0 then r.1
          else if isMoving st f.table (mkHandle true e.lenix 0 i) then hcnt r.1 11 1
          else
            auditDram (startUpkeep (countFlushed (setStash r.1 f.table i none) f.table e.lenix) f.master f.table e.lenix 0 64 e.entry none) f.table
        | none => st) s
    let n := match s1.age.flush with
      | some x => x.removed
      | none => f.removed
    let s2 := { s1 with age := { s1.age with flush := none } }
    let s3 := wr s2 Reg.ageFlushProg (progValue (rd s2 Reg.ageFlushTotal) (fget s2 Reg.ageFlushProg 31 0) false)
    setEvt (complete s3 f.id { Report.plain (if f.aborted then 0x0E else 0) 0 (s3.hsh.gen.nat f.table) with count := satW 20 n })
      Reg.ageEvt 2

/-- The walk is over and nothing of it is in flight: end; a WIPE that started ends it early (R339). -/
def flushCheck (s : State) : State :=
  match s.age.flush with
  | none => s
  | some f =>
    let f1 := if hshWiping s f.table then { f with aborted := true } else f
    let s1 := { s with age := { s.age with flush := some f1 } }
    if f1.outstanding = 0 && (f1.aborted || decide (f1.bucket ≥ bucketGrans s f.table)) then flushEnd s1 f1
    else if f1.outstanding = 0 || !f1.aborted then flushPump s1 else s1

/-- A bucket of the walk returned (R338, R259). -/
def flushRound (s : State) (x : Round) (n : Nat) : State :=
  match s.age.flush with
  | none => s
  | some f =>
    match tblOf s f.table with
    | none => s
    | some d =>
      let fm := fmtOf d
      let p := match scanAt s f.table d n with
        | some q => q
        | none => (0, 0)
      let g := subBase s f.table d p.1 + p.2
      let s0 := progAdd s Reg.ageFlushProg Reg.ageFlushTotal 1
      let s1 := { s0 with age := { s0.age with flush := some { f with outstanding := f.outstanding - 1 } } }
      if roundBad x then flushCheck s1
      else
        flushCheck ((List.range fm.slots).foldl (fun st i =>
          let e := slice (gotData x g) (i * fm.size) fm.size
          if entStamp fm e = 0 || !ownedBy e f.port then st
          else if isMoving st f.table (mkHandle false p.1 p.2 i) then hcnt st 11 1
          else
            let s2 := match st.age.flush with
              | some y => { st with age := { st.age with flush := some { y with outstanding := y.outstanding + 1 } } }
              | none => st
            present s2 f.master false (.flushDelete n i e) st.cycle
              [holdIf d { Gran.wr g (stampBytes fm i 0) with cond := keyCond fm i e, nz := stampPlaces fm i }]) s1)

/-- A removal of the flush is acknowledged (R338, R339). -/
def flushAck (s : State) (w : WriteFl) (n i : Nat) (e : List Byte) : State :=
  match s.age.flush with
  | none => s
  | some f =>
    match tblOf s f.table with
    | none => s
    | some d =>
      let p := match scanAt s f.table d n with
        | some q => q
        | none => (0, 0)
      let s1 := { s with age := { s.age with flush := some { f with outstanding := f.outstanding - 1 } } }
      if w.done then
        flushCheck (auditDram (startUpkeep (countFlushed s1 f.table p.1) f.master f.table p.1 p.2 i e none) f.table)
      else flushCheck s1

/-- FLUSH_PORT starts (R338). -/
def doFlushPort (s : State) : State :=
  match dramHead s 6 (fun _ => false) with
  | none => s
  | some c =>
    if hshWiping s c.table then refuse s c 0x0E (s.hsh.gen.nat c.table)
    else if s.age.flush.isSome then refuse s c 0x12 (s.hsh.gen.nat c.table)
    else
      let s1 := progSet (startCmd s c.id) Reg.ageFlushProg Reg.ageFlushTotal (bucketGrans s c.table) 0 true
      flushCheck { s1 with age := { s1.age with
        flush := some ⟨c.id, c.table, bitsOf c.arg0 4 0, ringMaster c.ring, 0, 0, 0, false⟩ } }

end Sys2Proof.Machine
end

