-- ==== Sys2Proof/Machine/Fetch.lean ====
section
/-!
DEFINITION. Fetching table commands and posting completions (R329–R337, R345, R554, R555).
-/
namespace Sys2Proof.Machine

/-- Send a read of host memory (R331, R332). -/
def hostRead (s : State) (f addr len : Nat) (u : HostUse) : State :=
  let id := s.rgl.nextId
  hostSend { s with
    rgl := { s.rgl with nextId := id + 1 }
    host := s.host ++ [⟨id, f, addr, len, u, s.cycle⟩] } f (.hostRead f id addr len)

/-- A slot of a ring is fetchable (R332, R355); none is once a PARK commit has begun (R492). -/
def fetchable (s : State) (r : Nat) : Bool :=
  let h := fget s (Reg.hstTcrHead r) 15 0
  flag s (Reg.hstTcrCtrl r) 4 && decide (fget s (Reg.hstTcrTail r) 15 0 ≠ h) &&
    decide ((h + 65536 - fget s (Reg.hstTcrCtail r) 15 0) % 65536 < ringSize s r) &&
    !(s.tcr.fetching.get (fun _ => false) r) && !heldM s (ringMaster r) false && !s.pwr.stopGrants

/-- A slot fetch fails: the ring stops, HEAD stays (R337). -/
def fetchFailed (s : State) (r : Nat) : State :=
  setEvt (fput { s with tcr := { s.tcr with fetching := s.tcr.fetching.set (fun _ => false) r false } }
    (Reg.hstTcrCtrl r) 4 4 0) (Reg.hstTcrEvt r) 2

/-- The opcodes of the command set (R335). -/
def knownOp (op : Nat) : Bool := [1, 2, 3, 4, 5, 6, 0x10, 0x11, 0x12, 0x13, 0x20, 0x21].contains op

/-- Does the command apply to the table's kind (R213, R263, R338)? -/
def applies (d : TblDecl) (op : Nat) : Bool :=
  if d.isTern then [1, 2, 3, 4, 5, 0x10, 0x11, 0x12, 0x13].contains op
  else [1, 2, 3, 4, 0x11, 0x12, 0x13].contains op || (op = 6 && fmtOf d = .standard)

/-- Check 5 of R554 on a ternary command: argument bits outside the fields it uses (R214, R330); with START, HANDLE and
GEN are ignored whatever they hold. -/
def ternArgsOk (c : TCmd) : Bool :=
  let op := c.opcode
  let usesH := [2, 4, 5, 0x10, 0x11, 0x12].contains op
  let usesG := [2, 4, 5, 0x11, 0x12].contains op
  let usesA := [1, 2, 3, 0x10, 0x11, 0x12].contains op
  (c.start || (if usesH then decide (bitsOf c.arg0 47 18 = 0) else decide (bitsOf c.arg0 47 0 = 0))) &&
    (usesG || decide (c.gen = 0)) &&
    (if op = 5 then decide (c.arg1 / 2 ^ 18 = 0) else decide (c.arg1 = 0)) &&
    (usesA || decide (c.addr = 0)) && (op = 2 || !c.start) && (op = 5 || !c.series) && !c.byKey

/-- Check 5 of R554 on a DRAM command (R264, R330, R338); with START or BYKEY, HANDLE and GEN are ignored whatever they
hold. -/
def dramArgsOk (c : TCmd) : Bool :=
  let op := c.opcode
  let usesH := [2, 4, 0x11, 0x12].contains op
  (c.start || c.byKey || if usesH then decide (bitsOf c.arg0 47 34 = 0)
   else if op = 6 then decide (c.arg0 / 32 = 0) else decide (c.arg0 = 0)) &&
    decide (c.arg1 = 0) && ((op ≠ 0x13 && op ≠ 6) || decide (c.addr = 0)) &&
    (op = 2 || !c.start) && !c.series && ([4, 0x11, 0x12].contains op || !c.byKey)

/-- Check 5 of R554 on QUERY and WNEXT (R302). -/
def wayArgsOk (c : TCmd) : Bool :=
  decide (c.table = 0) && !c.start && !c.series && !c.byKey &&
    (if c.opcode = 0x20 then decide (c.arg0 / 65536 = 0)
     else decide (c.gen = 0) && decide (bitsOf c.arg0 15 9 = 0) && decide (c.arg1 = 0))

/-- Checks 3 to 6 of R554: the status of the first that fails. -/
def staticChecks (s : State) (c : TCmd) : Option Nat :=
  if c.opcode = 0x20 || c.opcode = 0x21 then
    if !wayArgsOk c then some 9
    else if c.opcode = 0x21 && bitsOf c.arg0 31 16 ≥ wayPages s then some 7
    else none
  else
    match tblOf s c.table with
    | none => some 0x13
    | some d =>
      if !applies d c.opcode then some 0x0B
      else if c.opcode = 0x10 && isOrdered d then some 8
      else if d.isTern then
        if !ternArgsOk c then some 9
        else if takesHandle c.opcode && !(c.opcode = 2 && c.start) && !ternHandleOk s d c.handle then some 7
        else if c.opcode = 5 && !ternHandleOk s d c.dst then some 7
        else none
      else
        if !dramArgsOk c then some 9
        else if c.opcode = 2 && !c.start && !inRange s c.table d c.handle then some 7
        else if [4, 0x11, 0x12].contains c.opcode && !c.byKey && !namesSlot s c.table d c.handle then some 7
        else none

/-- How many bytes of input a command reads at ADDR (R215, R266); 0: none. -/
def inputLen (s : State) (c : TCmd) : Nat :=
  match tblOf s c.table with
  | none => 0
  | some d =>
    if c.opcode = 0x20 || c.opcode = 0x21 then 0
    else if d.isTern then (if [1, 3, 0x10, 0x12].contains c.opcode then ternLen d c.opcode else 0)
    else if c.opcode = 1 then cdiv d.keyBits 8
    else if c.opcode = 3 || c.opcode = 0x12 || (c.byKey && [4, 0x11].contains c.opcode) then imageLen d
    else 0

/-- Give a command its input. -/
def setInput (s : State) (id : Nat) (i : Option (List Byte)) (ue : Bool) : State :=
  { s with tcr := { s.tcr with cmds := s.tcr.cmds.map (fun c => if c.id = id then { c with
    input := some i
    ue := ue } else c) } }

/-- Ask for an accepted command's input: at the scratchpad's port, or of the host (R328, R331). -/
def readInput (s : State) (c : TCmd) : State :=
  let n := inputLen s c
  if n = 0 then s
  else if !addrOk s c.ring c.addr n false then setInput s c.id (some []) false
  else if bitOf c.addr 63 then askPort s (ringQ c.ring) .read (bitsOf c.addr 18 0) n [] (.input c.id)
  else hostRead s c.ring (bitsOf c.addr 62 0) n (.cmdInput c.id)

/-- A slot's 32 bytes are here: the checks of R554 that need no lane, and the command's place in its lane (R332, R333). -/
def acceptSlot (s : State) (r : Nat) (bs : List Byte) : State :=
  let h := fget s (Reg.hstTcrHead r) 15 0
  let s1 := bump (wr s (Reg.hstTcrHead r) ((h + 1) % 65536)) (Reg.hstTcrCnt r 0) 1
  let id := s1.tcr.nextId
  let op := fieldAt bs 0 1
  let c : TCmd := ⟨id, r, h, op, fieldAt bs 1 1 % 64, fieldAt bs 2 1 % 16, fieldAt bs 4 4, fieldAt bs 8 8, fieldAt bs 16 8,
    fieldAt bs 24 8, none, false, false⟩
  if inflight s ≥ 64 then
    let k : Compl := ⟨r, h, c.cmdId, op, bitOf c.flags 3, 1, false, false, false, false,
      if takesHandle op then c.handle else 0, if op = 0x20 || op = 0x21 then 0 else genOf s c.table, 0, 0, false⟩
    bump (setEvt { s1 with tcr := { s1.tcr with compl := s1.tcr.compl ++ [k] } } (Reg.hstTcrEvt r) 1) (Reg.hstTcrCnt r 2) 1
  else
    let s2 := notePeak { s1 with tcr := { s1.tcr with nextId := id + 1, cmds := s1.tcr.cmds ++ [c] } }
    let g := if op = 0x20 || op = 0x21 then 0 else genOf s c.table
    if !knownOp op || fieldAt bs 1 1 ≥ 64 || fieldAt bs 2 1 ≥ 16 || fieldAt bs 3 1 ≠ 0 then refuse s2 c 9 g
    else
      match staticChecks s c with
      | some st => refuse s2 c st g
      | none => readInput s2 c

/-- The ring whose slot is fetched next: round robin of ring index (R332). -/
def nextRing (s : State) : Option Nat :=
  ((List.range 4).map (fun i => (s.tcr.rr + i) % 4)).find? (fetchable s)

/-- Fetch one slot (R332): an access at the scratchpad's port, or a read of host memory. -/
def fetchSlot (s : State) (r : Nat) : State :=
  let a := rd s (Reg.hstTcrBase r)
  let k := 32 * (fget s (Reg.hstTcrHead r) 15 0 % ringSize s r)
  let s1 := { s with tcr := { s.tcr with
    rr := (r + 1) % 4
    fetchCycle := s.cycle + 1
    fetching := s.tcr.fetching.set (fun _ => false) r true } }
  if bitOf a 63 then askPort s1 (ringQ r) .read (bitsOf a 18 0 + k) 32 [] (.slot r)
  else hostRead s1 r (bitsOf a 62 0 + k) 32 (.slotFetch r)

/-- The slot of ring r that was asked for is here (`none`: its read failed); of a ring disabled meanwhile nothing is
executed (R332, R337). -/
def slotHere (s : State) (r : Nat) (bs : Option (List Byte)) : State :=
  let s1 := { s with tcr := { s.tcr with fetching := s.tcr.fetching.set (fun _ => false) r false } }
  match bs with
  | none => fetchFailed s1 r
  | some b => if flag s (Reg.hstTcrCtrl r) 4 then acceptSlot s1 r b else s1

/-- The bytes of a completion slot (R334). -/
def complBytes (c : Compl) (phase : Nat) : List Byte :=
  leBytes 4 c.cmdId ++ leBytes 1 c.status ++ leBytes 1 c.opcode ++
    leBytes 1 (phase * 128 + b2n c.edge * 8 + b2n c.straddle * 4 + b2n c.restart * 2 + b2n c.multi) ++ leBytes 1 0 ++
    leBytes 8 (c.handle % 2 ^ 48 + c.gen * 2 ^ 48) ++ leBytes 4 (c.count % 2 ^ 20) ++ leBytes 2 c.slot ++ leBytes 2 0 ++
    leBytes 8 (if c.opcode = 1 ∧ c.status = 0 then c.result else 0)

/-- A completion of its ring is written: CHEAD advances (R332, R336). -/
def posted (s : State) (c : Compl) (rest : List Compl) : State :=
  let r := c.ring
  let s1 := { s with tcr := { s.tcr with compl := rest, postCycle := s.cycle + 1 } }
  let s2 := bump (wr s1 (Reg.hstTcrChead r) ((fget s (Reg.hstTcrChead r) 15 0 + 1) % 65536)) (Reg.hstTcrCnt r 1) 1
  if c.notify then setEvt s2 (Reg.hstTcrEvt r) 0 else s2

/-- The completion at the port is written, if it is still the oldest (R459). -/
def postedAt (s : State) (r : Nat) : State :=
  match s.tcr.compl with
  | c :: rest => if c.ring = r then posted s c rest else s
  | [] => s

/-- Write one completion (R332, R334, R336): at the scratchpad's port, where CHEAD waits for it, or posted to the host. -/
def postCompl (s : State) (c : Compl) (rest : List Compl) : State :=
  let r := c.ring
  let k := fget s (Reg.hstTcrChead r) 15 0
  let n := ringSize s r
  let bs := complBytes c (1 - k / n % 2)
  let a := rd s (Reg.hstTcrCbase r)
  let o := 32 * (k % n)
  if bitOf a 63 then askPort s (ringQ r) .write (bitsOf a 18 0 + o) 32 bs (.compl r)
  else posted (hostSend s r (.hostWrite r (bitsOf a 62 0 + o) bs)) c rest

end Sys2Proof.Machine
end

