-- ==== Sys2Proof/Machine/Verdict.lean ====
section
/-!
DEFINITION. From an accepted descriptor to its verdict (R15–R49, R158–R184): profile selection, cobbler programs,
issuing searches, answers, composition with toll gates, freshness and the waymark insert, release and the ledgers.
-/
namespace Sys2Proof.Machine

/-- A register whose reset value is zero, read without the register table. -/
def rd0 (s : State) (off : Nat) : Nat := (s.regs.get (fun _ => 0) off).toNat

/-- A tap port. -/
def tap (s : State) (p : Nat) : TapPort := s.taps.get (fun _ => TapPort.off) p
def setTap (s : State) (p : Nat) (x : TapPort) : State := { s with taps := s.taps.set (fun _ => TapPort.off) p x }

/-- Count an event of a tap port, of the verdicts, of the composer (R37, R156, R182). -/
def tcnt (s : State) (p i n : Nat) : State := bump s (Reg.tapCnt p i) n
def vcnt (s : State) (i : Nat) : State := bump s (Reg.vrdEvtCnt i) 1
def mcnt (s : State) (i : Nat) : State := bump s (Reg.vrdCmpCnt i) 1

/-- Tags in all reserves, tags held, free tags (R21, R23). -/
def reservedTags (s : State) : Nat := (s.taps.map (fun e => e.2.reserve.length)).foldl (· + ·) 0
def heldTags (s : State) : Nat := s.vrd.flights.length + s.vrd.orphans.length
def freeTags (s : State) : Nat := 1024 - s.vrd.taken.length

/-- Audit of the TAG ledger (R40). -/
def auditTag (s : State) : State :=
  if freeTags s + reservedTags s + heldTags s = 1024 ∧ s.vrd.orphans = [] then s
  else ledgerFault s 1 0 (freeTags s) (reservedTags s) (heldTags s) s.vrd.flights.length

/-- depth(p) of the CREDIT ledger (R40, R141). -/
def depthOf (s : State) (p : Nat) : Nat :=
  match (tap s p).depthOver with
  | some d => d
  | none => fget s (Reg.tapCtrl p) 23 16

/-- Audit of a port's CREDIT ledger (R40). -/
def auditCredit (s : State) (p : Nat) : State :=
  let x := tap s p
  if x.granted = x.received + x.reserve.length ∧ x.reserve.length ≤ depthOf s p then s
  else ledgerFault s 0 p x.granted x.received x.reserve.length (depthOf s p)

/-- The port a descriptor is presented with: the lowest member of its bond group (R151). -/
def selectorPort (s : State) (p : Nat) : Nat :=
  if flag s (Reg.tapCtrl p) 8 then
    let q := p / 4 * 4
    match (List.range 4).find? (fun i => flag s (Reg.tapCtrl (q + i)) 8) with
    | some i => q + i
    | none => p
  else p

/-- The selector key (R158). -/
def selectorKey (port : Nat) (bs : List Byte) : Nat :=
  port * 2 ^ 75 + fieldAt bs 1 1 / 16 * 2 ^ 71 + b2n (fieldAt bs 0 1 = 0xD9) * 2 ^ 70 + fieldAt bs 32 8

/-- A word of selector entry i (R161, R184). -/
def selWord (s : State) (i w : Nat) : Nat := rd0 s (Reg.cblSel i w)

/-- Selector entry i matches (R159): byte 26 of the entry lies in word 6. -/
def selMatch (s : State) (k i : Nat) : Bool :=
  let w6 := selWord s i 6
  bitOf w6 23 &&
    (let value := selWord s i 0 + selWord s i 1 * 2 ^ 32 + selWord s i 2 % 65536 * 2 ^ 64
     let care := selWord s i 4 + selWord s i 5 * 2 ^ 32 + w6 % 65536 * 2 ^ 64
     decide ((k ^^^ value) &&& care = 0))

/-- The profile the selector gives (R159): none when nothing matches and there is no default. `true`: no entry matched. -/
def selectProfile (s : State) (k : Nat) : Option Nat × Bool :=
  match (List.range 512).find? (selMatch s k) with
  | some i => (some (bitsOf (selWord s i 6) 21 16), false)
  | none => (if flag s Reg.cblSelDef 7 then some (fget s Reg.cblSelDef 5 0) else none, true)

/-- The record in force of profile n (R169). -/
def profRecord (s : State) (n : Nat) : List Nat := (List.range 8).map (fun w => rd0 s (Reg.cblProf n w))

/-- A word of a flight's record. -/
def recWord (f : Flight) (w : Nat) : Nat := f.recw.getD w 0

/-- The table of search n in a record; 255 = none (R61). -/
def recSearch (r : List Nat) (n : Nat) : Nat := bitsOf (r.getD 1 0) (8 * n + 7) (8 * n)

/-- A profile, by its record in the registers, touches DRAM (R61, R168). -/
def profDram (s : State) (n : Nat) : Bool :=
  let r := profRecord s n
  bitOf (r.getD 6 0) 28 || (List.range 4).any (fun k =>
    let t := recSearch r k
    decide (t ≠ 255) && (decide (s.img.searchId = some t) || (match tblOf s t with
      | some d => d.isDram
      | none => false)))

/-- The enables that a descriptor accepted now meets: a DRAM profile's bit takes effect at READY (R34, R489). -/
def enabledNow (s : State) : Nat :=
  let en := acting s Reg.cblProfEn (rd s Reg.cblProfEn)
  if s.pwr.st = .ready ∨ (s.pwr.st = .parking ∧ s.pwr.prev = .ready) then en
  else (List.range 64).foldl (fun a n => if bitOf en n && !profDram s n then a + 2 ^ n else a) 0

/-- Change one flight. -/
def setFlight (s : State) (f : Flight) : State :=
  { s with vrd := { s.vrd with flights := s.vrd.flights.map (fun x => if x.tag = f.tag then f else x) } }

/-- Results the selector has given in this cycle. -/
def selUsed (s : State) : Nat := if s.cbl.selCycle = s.cycle then s.cbl.selCount else 0

/-- The descriptor whose result the selector gives next: acceptance order, then arrival port, at most four in a cycle
(R160). -/
def nextSelect (s : State) : Option Flight :=
  if 4 ≤ selUsed s then none
  else minByKey (fun f => f.acc * 32 + f.port) (s.vrd.flights.filter (fun f => !f.selected && decide (f.acc + 3 ≤ s.cycle)))

/-- The selector gives a descriptor its profile (R34, R159, R169, R182). -/
def selectFlight (s : State) (f : Flight) : State :=
  let r := selectProfile s (selectorKey f.selPort f.bytes)
  let s0 := { s with cbl := { s.cbl with
    selCycle := s.cycle
    selCount := selUsed s + 1 } }
  let s1 := bump s0 (Reg.cblCnt 0) 1
  let s2 := if r.2 then bump s1 (Reg.cblCnt 1) 1 else s1
  match r.1 with
  | none => setFlight s2 { f with selected := true, selAt := s.cycle, notReady := true, profile := 0, deadline := 48 }
  | some p =>
    let s3 := ctrlRead (bump s2 (Reg.cblCnt (2 + p)) 1) 0xC 50 ((List.range 4).map (fun k => 4 * p + k))
    let rec_ := match f.oldRecs.find? (fun e => e.1 = p) with
      | some e => e.2
      | none => profRecord s p
    if bitOf f.enabled p then
      let ts := ((List.range 4).map (recSearch rec_)).filter (fun t => t ≠ 255)
      setFlight s3 { f with
        selected := true
        selAt := s.cycle
        profile := p
        recw := rec_
        deadline := bitsOf (rec_.getD 0 0) 14 0
        searches := ts.map (fun t => ⟨t, none, false, 0⟩) }
    else setFlight s3 { f with selected := true, selAt := s.cycle, notReady := true, profile := p, deadline := 48 }

/-- Source bit b of a descriptor (R162): bytes 1–59, or 1–123 of an extended one. -/
def sourceBits (bs : List Byte) (b n : Nat) : Nat :=
  let last := if fieldAt bs 0 1 = 0xD9 then 123 else 59
  let v := ofLe (0 :: (bs.drop 1).take last)
  (v >>> b) % 2 ^ n

/-- A key buffer while its program runs: its bits, and whether bits [63:0] are a stamp segment (R164). -/
structure KeyBuf where
  bits : Nat
  seg : Bool
  deriving DecidableEq, Repr

/-- Write n bits of v at DST of a key (R163); `st`: they are the stamp nanoseconds. -/
def keyWrite (k : KeyBuf) (dst n v : Nat) (st : Bool) : KeyBuf :=
  ⟨putBits k.bits (dst + n - 1) dst v % 2 ^ 640,
    if dst ≥ 64 then k.seg else st && decide (dst = 0)⟩

/-- The item a META step writes: width, value, and whether it is the stamp (R164). -/
def metaItem (s : State) (f : Flight) (sel : Nat) : Nat × Nat × Bool :=
  match sel with
  | 0 => (5, f.selPort, false)
  | 1 => (4, fieldAt f.bytes 1 1 / 16, false)
  | 2 => (6, f.profile, false)
  | 3 => (64, f.stamp.ns, true)
  | 4 => (8, f.stamp.frac, false)
  | 5 => (8, f.stamp.unc, false)
  | 6 => (3, s.img.weltPos, false)
  | _ => (0, 0, false)

/-- Run a program over four key buffers: the keys it emits, with the step that emits each (R163, R166). -/
def runProgram (s : State) (f : Flight) (steps : List Nat) (i : Nat) (ks : List KeyBuf) : List (Nat × Nat × KeyBuf) :=
  match steps with
  | [] => []
  | w :: rest =>
    let op := bitsOf w 31 28
    let k := bitsOf w 27 26
    let dst := bitsOf w 25 16
    let buf := ks.getD k ⟨0, false⟩
    if op = 4 then (k, i, buf) :: runProgram s f rest (i + 1) ks
    else
      let buf1 :=
        if op = 1 then
          let n := bitsOf w 5 0 + 1
          keyWrite buf dst n (sourceBits f.bytes (bitsOf w 15 6) n) false
        else if op = 2 then keyWrite buf dst 16 (bitsOf w 15 0) false
        else if op = 3 then
          let m := metaItem s f (bitsOf w 15 8)
          if m.1 = 0 then buf else keyWrite buf dst m.1 m.2.1 m.2.2
        else buf
      runProgram s f rest (i + 1) (updAt ks k (fun _ => buf1))

/-- The program of a record, as its steps (R166, R184). -/
def programOf (s : State) (g : Nat) : List Nat :=
  (List.range (rd0 s (Reg.cblProgLen g) % 64)).map (fun i => rd0 s (Reg.cblProg g i))

/-- Search n of a flight is refused at throttle level 3 (R29, R202). -/
def refuseSearch (s : State) (f : Flight) (n : Nat) : State :=
  setFlight s { f with searches := updAt f.searches n (fun x => { x with refused := true }) }

/-- The flight that holds a tag, with its present epoch. -/
def flightOf (s : State) (tag : Nat) : Option Flight := s.vrd.flights.find? (fun f => f.tag = tag)

/-- The descriptor waiting longest for a cobbler, in selection order (R166). -/
def nextCobbler (s : State) : Option Flight :=
  minByKey (fun f => f.acc * 32 + f.port)
    (s.vrd.flights.filter (fun f => f.selected && !f.notReady && f.started.isNone && decide (f.selAt < s.cycle)))

/-- The lowest-numbered free cobbler (R166). -/
def freeCobbler (s : State) : Option Nat := (List.range 16).find? (fun c => s.cbl.freeAt.nat c ≤ s.cycle)

/-- Answers that have reached the composer by now are given to their searches; an answer whose tag epoch has moved on,
or whose tag is free, is discarded and counted (R22). -/
def giveAnswer (s : State) (a : PendAns) : State :=
  match a.who with
  | .desc tag epoch n =>
    (match flightOf s tag with
     | some f =>
       if f.epoch = epoch then
         setFlight s { f with searches := updAt f.searches n (fun x => { x with ans := some (a.due, a.ans) }) }
       else vcnt s 6
     | none => vcnt s 6)
  | .cmd id => cmdAnswer s id a.ans
  | .welt _ => { s with vrd := { s.vrd with answers := s.vrd.answers ++ [a] } }

/-- Deliver every answer of DRAM searches that is due, except those bound for the welt (R22, R24, R393). -/
def deliverDue (s : State) : State :=
  let isW := fun (a : PendAns) => match a.who with
    | .welt _ => true
    | .desc _ _ _ => false
    | .cmd _ => false
  let ready := s.vrd.answers.filter (fun a => !a.ternary && !isW a && decide (a.due ≤ s.cycle))
  let s1 := { s with vrd := { s.vrd with answers := s.vrd.answers.filter (fun a => a.ternary || isW a || !decide (a.due ≤ s.cycle)) } }
  ready.foldl giveAnswer s1

/-- The cycle in which a flight's composition starts, once it is known (R25). -/
def composeAt (f : Flight) : Nat :=
  let limit := f.acc + f.deadline - 8
  match f.started with
  | none => limit
  | some _ =>
    if f.searches = [] then min limit f.keysDone
    else if f.searches.all (fun x => x.ans.isSome) then
      min limit (f.searches.foldl (fun a x => match x.ans with
        | some e => max a e.1
        | none => a) 0)
    else limit

/-- The flight whose composition starts next (R176): by start cycle, acceptance cycle, port. -/
def nextCompose (s : State) : Option Flight :=
  minByKey (fun f => (composeAt f * 2 ^ 64 + f.acc) * 32 + f.port)
    (s.vrd.flights.filter (fun f => f.selected && !f.notReady && f.composed.isNone && decide (composeAt f ≤ s.cycle)))

/-- Rank and lanes of search n (R168). -/
def rankOfSearch (f : Flight) (n : Nat) : Nat := bitsOf (recWord f 2) (17 + 2 * n) (16 + 2 * n)
def lanesOf (f : Flight) (n : Nat) : Nat := bitsOf (recWord f 2) (4 * n + 3) (4 * n)

/-- The answer of search n, if it came before composition started at cycle c. -/
def answerIn (f : Flight) (c n : Nat) : Option Ans :=
  match f.searches[n]? with
  | some x => (match x.ans with
    | some e => if e.1 ≤ c then some e.2 else none
    | none => none)
  | none => none

/-- The contributing searches in order of rank, then number, with their result words (R170). -/
def contributing (f : Flight) (c : Nat) : List (Nat × Nat) :=
  let l := (List.range f.searches.length).filterMap (fun n =>
    match answerIn f c n with
    | some a => if a.hit ∧ a.part = false then some (n, a.result) else none
    | none => none)
  l.mergeSort (fun a b => rankOfSearch f a.1 * 4 + a.1 ≤ rankOfSearch f b.1 * 4 + b.1)

/-- The result word of a contributing search. -/
def contribOf (cs : List (Nat × Nat)) (n : Nat) : Option Nat := (cs.find? (fun e => e.1 = n)).map (fun e => e.2)

/-- ACTION: byte lanes from the first contributing search that covers each, else MISS_ACTION (R171). -/
def actionOf (f : Flight) (cs : List (Nat × Nat)) : Nat :=
  (List.range 4).foldl (fun a j =>
    let b := match cs.find? (fun e => bitOf (lanesOf f e.1) j) with
      | some e => bitsOf e.2 (39 + 8 * j) (32 + 8 * j)
      | none => bitsOf (recWord f 3) (8 * j + 7) (8 * j)
    a + b * 2 ^ (8 * j)) 0

/-- The stream number of a flight (R172); none: unavailable. -/
def streamNo (f : Flight) (cs : List (Nat × Nat)) : Option Nat :=
  let w := recWord f 6
  let src := bitsOf w 31 29
  let base := bitsOf w 15 0
  match src with
  | 0 => some base
  | 1 => some ((base + f.selPort) % 65536)
  | 6 => some ((base + fieldAt f.bytes 2 2) % 65536)
  | 7 => none
  | k => (contribOf cs (k - 2)).map (fun r => (base + bitsOf r 31 16) % 65536)

/-- The bucket index of a gate word (R172); none: the gate is not applied. -/
def gateIndex (f : Flight) (cs : List (Nat × Nat)) (w : Nat) : Option Nat :=
  let base := bitsOf w 15 0
  match bitsOf w 30 28 with
  | 0 => some base
  | 1 => some ((base + f.selPort) % 65536)
  | 6 => (streamNo f cs).map (fun n => (base + n) % 65536)
  | 7 => none
  | k => (contribOf cs (k - 2)).map (fun r => (base + bitsOf r 15 0) % 65536)

/-- A toll-gate bucket (R173). -/
def bucket (s : State) (i : Nat) : Bucket := s.tol.get (fun _ => Bucket.zero) i
def setBucket (s : State) (i : Nat) (b : Bucket) : State := { s with tol := s.tol.set (fun _ => Bucket.zero) i b }

/-- Refill of one rate: level and remainder after `delta` ns (R174). -/
def refill (level rem burst rate delta : Nat) : Nat × Nat :=
  let acc := rem + delta * rate
  let l := level + acc / 1000000000
  if l ≥ burst then (burst, 0) else (l, acc % 1000000000)

/-- Refill a bucket over [LAST, now) (R174). -/
def refillBucket (b : Bucket) (now : Nat) : Bucket :=
  if now > b.last then
    let c := refill b.tc b.remC b.cbs b.cir (now - b.last)
    let p := if b.two then refill b.tp b.remP b.pbs b.pir (now - b.last) else (b.tp, b.remP)
    { b with tc := c.1, remC := c.2, tp := p.1, remP := p.2, last := now }
  else b

/-- Colour a descriptor of b tokens (R175): 0 green, 1 yellow, 2 red. -/
def colour (k : Bucket) (pre b : Nat) : Nat × Bucket :=
  if k.cbs = 0 then (2, k)
  else if k.two then
    if pre = 2 || k.tp < b then (2, k)
    else if pre = 1 || k.tc < b then (1, { k with tp := k.tp - b })
    else (0, { k with tp := k.tp - b, tc := k.tc - b })
  else if pre = 2 || k.tc < b then (2, k)
  else (pre, { k with tc := k.tc - b })

/-- Audit of a bucket's TOKEN ledger on an access (R40): level ≤ burst, gain ≤ floor((elapsed × rate + remainder) ÷ 10⁹). -/
def auditToken (s : State) (i : Nat) (b0 b1 : Bucket) (now : Nat) : State :=
  let d := now - b0.last
  let gain := b1.tc - b0.tc
  let allowed := (d * b0.cir + b0.remC) / 1000000000
  let gainP := b1.tp - b0.tp
  let allowedP := (d * b0.pir + b0.remP) / 1000000000
  if b1.tc > b1.cbs ∨ gain > allowed then ledgerFault s 6 i b1.tc b1.cbs gain allowed
  else if b1.two ∧ (b1.tp > b1.pbs ∨ gainP > allowedP) then ledgerFault s 6 i b1.tp b1.pbs gainP allowedP
  else s

/-- One toll-gate access (R174–R176, R425): an uncorrectable bucket colours red, takes nothing, and is not audited until the
host configures it. Bucket i lies in the
five words 5i…5i+4 of memory 0x09. -/
def gateAccess (s : State) (f : Flight) (i pre : Nat) (frameLen unit : Bool) : State × Nat :=
  let r := (List.range 5).foldl (fun (st : State × Bool) w =>
    let e := wordRead st.1 9 (5 * i + w) f.port
    (e.1, st.2 || decide (e.2.1 = .uncorrectable))) (s, false)
  if r.2 then
    (mcnt { r.1 with vrd := { r.1.vrd with
      unaudited := if i ∈ s.vrd.unaudited then s.vrd.unaudited else s.vrd.unaudited ++ [i] } } 2, 2)
  else
    let now := nowNs s
    let b0 := bucket s i
    let b1 := refillBucket b0 now
    let b := if frameLen && unit then fieldAt f.bytes 4 3 else 1
    let c := colour b1 pre b
    let taken := setBucket r.1 i c.2
    let s1 := if i ∈ s.vrd.unaudited then taken else auditToken taken i b0 b1 now
    let s2 := (List.range 5).foldl (fun st w => wordWritten st 9 (5 * i + w)) s1
    (mcnt s2 c.1, c.1)

/-- One gate of a flight, if its record enables it (R26, R168, R172, R182): its colour when applied. -/
def gate (s : State) (f : Flight) (cs : List (Nat × Nat)) (w : Nat) (pre : Option Nat) : State × Option Nat :=
  if bitOf w 31 then
    match gateIndex f cs w with
    | none => (mcnt s 3, none)
    | some i =>
      let p := if bitOf w 26 then (match pre with
        | some c => c
        | none => 0) else 0
      let r := gateAccess s f i p true (bitOf w 27)
      (r.1, some r.2)
  else (s, none)

/-- The freshness check of value v against counter and map (R178): the new pair, or none when it fails. -/
def freshCheck (c m v win : Nat) : Option (Nat × Nat) :=
  if v = 0 then none
  else if v > c then
    if v - c > 2 ^ win then none
    else some (v, (if v - c ≥ 64 then 0 else m * 2 ^ (v - c) % 2 ^ 64) ||| 1)
  else if c - v < 64 ∧ bitOf m (c - v) = false then some (c, m ||| 2 ^ (c - v))
  else none

/-- Freshness counter and map of a stream (R178). -/
def freshOf (s : State) (n : Nat) : Nat × Nat := s.vrd.fresh.get (fun _ => (0, 0)) n
def setFresh (s : State) (n : Nat) (v : Nat × Nat) : State :=
  { s with vrd := { s.vrd with fresh := s.vrd.fresh.set (fun _ => (0, 0)) n v } }

/-- The freshness step of composition (R178, R425): `true` when it fails. Stream n lies in words 2n, 2n+1 of memory 0x0A. -/
def freshStep (s : State) (f : Flight) (cs : List (Nat × Nat)) (col : Option Nat) : State × Bool :=
  if bitOf (recWord f 6) 25 then
    match streamNo f cs with
    | none => (mcnt s 4, true)
    | some n =>
      let e0 := wordRead s 0xA (2 * n) f.port
      let e1 := wordRead e0.1 0xA (2 * n + 1) f.port
      if e0.2.1 = .uncorrectable ∨ e1.2.1 = .uncorrectable then (mcnt e1.1 4, true)
      else
        let cm := freshOf s n
        match freshCheck cm.1 cm.2 (fieldAt f.bytes 24 8) (bitsOf (recWord f 6) 24 20) with
        | none => (mcnt e1.1 4, true)
        | some v =>
          if col = some 2 then (e1.1, false)
          else (wordWritten (wordWritten (setFresh e1.1 n v) 0xA (2 * n)) 0xA (2 * n + 1), false)
  else (s, false)

/-- The insert a flight hands over (R181). -/
def insertOf (f : Flight) (n : Nat) : Insert :=
  ⟨n, f.port, f.acc, f.stamp, fieldAt f.bytes 16 6, fieldAt f.bytes 4 3, fieldAt f.bytes 22 2, fieldAt f.bytes 8 4,
    fieldAt f.bytes 12 4, 0⟩

/-- The waymark step of composition (R180, R181): `true` when WAY_SKIP is set. -/
def wayStep (s : State) (f : Flight) (cs : List (Nat × Nat)) (col : Option Nat) (freshFail : Bool) : State × Bool :=
  let w := recWord f 6
  if !bitOf w 28 then (s, false)
  else
    let due := match bitsOf w 27 26 with
      | 0 => true
      | 1 => decide (cs ≠ [])
      | 2 => decide (cs = [])
      | _ => decide (col ≠ some 2) && !freshFail
    if !due then (s, false)
    else
      match streamNo f cs with
      | none => (s, true)
      | some n =>
        let r := handOff s (insertOf f n)
        if r.2 then (r.1, true) else (mcnt r.1 5, false)

/-- Learn notifications a flight raises as composition starts (R255, R313). -/
def learnStep (s : State) (f : Flight) (c : Nat) : State :=
  if !flag s Reg.lrnCtrl 0 then s
  else
    (List.range f.searches.length).foldl (fun st n =>
      match f.searches[n]?, answerIn f c n with
      | some x, some a =>
        (match tblOf st x.table with
         | some d =>
           if d.learn ∧ d.isDram ∧ a.hit = false ∧ a.part = false ∧ hshWiping st x.table = false then
             raiseLearn st ⟨st.cycle, f.acc, f.port, n, x.table, f.selPort, f.profile, f.stamp.ns, x.key, 0⟩
           else st
         | none => st)
      | _, _ => st) s

/-- A mask over the searches of a flight. -/
def searchMask (f : Flight) (p : Nat → Bool) : Nat :=
  (List.range f.searches.length).foldl (fun a n => if p n then a + 2 ^ n else a) 0

/-- The worse of two colours; 3: no gate applied (R35). -/
def worse (a b : Option Nat) : Nat :=
  match a, b with
  | some x, some y => max x y
  | some x, none => x
  | none, some y => y
  | none, none => 3

/-- The 128 bits of a verdict (R35). -/
structure VFields where
  action : Nat
  result : Nat
  stamp : Nat
  part : Nat
  colour : Nat
  multi : Bool
  straddle : Bool
  tag : Nat
  profile : Nat
  status : Nat
  hit : Nat
  late : Nat
  freshFail : Bool
  waySkip : Bool
  throttled : Bool
  deriving DecidableEq, Repr

/-- A verdict's number (R35). -/
def VFields.bits (v : VFields) : Nat :=
  v.action % 2 ^ 32 * 2 ^ 96 + v.result % 2 ^ 32 * 2 ^ 64 + v.stamp % 2 ^ 24 * 2 ^ 40 + v.part % 16 * 2 ^ 36 +
    v.colour % 4 * 2 ^ 34 + b2n v.multi * 2 ^ 33 + b2n v.straddle * 2 ^ 32 + v.tag % 1024 * 2 ^ 22 +
    v.profile % 64 * 2 ^ 16 + v.status % 16 * 2 ^ 12 + v.hit % 16 * 2 ^ 8 + v.late % 16 * 2 ^ 4 +
    b2n v.freshFail * 8 + b2n v.waySkip * 4 + b2n v.throttled * 2

/-- STATUS: the first that applies of THERMAL, LATE, PARTIAL, OK (R36). -/
def statusOf (f : Flight) (late part : Nat) : Nat :=
  if f.searches.any (fun x => x.refused) then 4 else if late ≠ 0 then 1 else if part ≠ 0 then 2 else 0

/-- Composition of a flight starting in cycle c (R25, R26, R28, R170–R181). -/
def compose (s : State) (f : Flight) (c : Nat) : State :=
  let cs := contributing f c
  let late := searchMask f (fun n => (answerIn f c n).isNone)
  let hit := searchMask f (fun n => match answerIn f c n with
    | some a => a.hit
    | none => false)
  let part := searchMask f (fun n => match answerIn f c n with
    | some a => a.part
    | none => false)
  let multi := (List.range f.searches.length).any (fun n => match answerIn f c n with
    | some a => a.multi
    | none => false)
  let strad := (List.range f.searches.length).any (fun n => match answerIn f c n with
    | some a => a.straddle
    | none => false)
  let s0 := learnStep s f c
  let g0 := gate s0 f cs (recWord f 4) none
  let g1 := gate g0.1 f cs (recWord f 5) g0.2
  let col := match worse g0.2 g1.2 with
    | 3 => none
    | x => some x
  let fr := freshStep g1.1 f cs col
  let wy := wayStep fr.1 f cs col fr.2
  let s1 := if wy.2 then mcnt wy.1 6 else wy.1
  let v : VFields := ⟨actionOf f cs, match cs with
      | [] => 0
      | e :: _ => e.2 % 2 ^ 32, f.stamp.ns, part, worse g0.2 g1.2, multi, strad, f.tag, f.profile,
    statusOf f late part, hit, late, fr.2, wy.2, decide (f.level = 1) || decide (f.level = 2)⟩
  rangeWritten (setFlight s1 { f with composed := some c, verdict := v.bits }) 0xB (2 * f.tag) 2

/-- A NOTREADY verdict (R34, R35, R171). -/
def notReadyVerdict (f : Flight) : Nat :=
  VFields.bits ⟨0, 0, f.stamp.ns, 0, 3, false, false, f.tag, f.profile, 5, 0, 0, false, false,
    decide (f.level = 1) || decide (f.level = 2)⟩

/-- A DISCARD verdict (R19): STATUS, STAMP and the synthetic TAG; every other field zero. -/
def discardVerdict (stamp : Stamp) (count : Nat) : Nat :=
  VFields.bits ⟨0, 0, stamp.ns, 0, 0, false, false, count % 1024, 0, 3, 0, 0, false, false, false⟩

/-- Hand a released verdict to its port: queued when UP, else dropped and counted (R32, R140). -/
def toPort (s : State) (p : Nat) (v : TxVerdict) : State :=
  let x := tap s p
  if x.state = 4 then setTap s p { x with txq := x.txq ++ [v] } else tcnt s p 4 1

/-- The flight due for release: by release cycle, acceptance, port (R30, R33). -/
def nextRelease (s : State) : Option Flight :=
  minByKey (fun f => ((f.acc + f.deadline) * 2 ^ 64 + f.acc) * 32 + f.port)
    (s.vrd.flights.filter (fun f => f.selected && decide (f.acc + f.deadline ≤ s.cycle)))

/-- A verdict as the deadline buffer gives it, and whether it was uncorrectable (R412, R425): the entry of a tag is the words
2·tag and 2·tag + 1 of memory 0x0B. -/
def fromBuffer (s : State) (tag v : Nat) : Nat × Bool :=
  (v ^^^ (residual s 0xB (2 * tag) + residual s 0xB (2 * tag + 1) * 2 ^ 64), badWords s 0xB (2 * tag) 2)

/-- Release a verdict in its cycle (R30–R33, R36, R37, R360, R425): the tag returns to the pool. -/
def release (s : State) (f0 : Flight) : State :=
  let s0 := deliverDue s
  let s1 := match flightOf s0 f0.tag with
    | some f => if f.composed.isNone ∧ f.notReady = false then compose s0 f (f.acc + f.deadline - 8) else s0
    | none => s0
  match flightOf s1 f0.tag with
  | none => s1
  | some f =>
    let e := fromBuffer s1 f.tag f.verdict
    let v := if f.notReady then notReadyVerdict f else e.1
    let v2 := if !f.notReady && e.2 then putBits (putBits v 15 12 2) 39 36 15 else v
    let sr := ctrlRead (if f.notReady then s1 else readWords s1 0xB 50 [2 * f.tag, 2 * f.tag + 1]) 0xB 50 [2048 + f.tag]
    let late := bitsOf v2 7 4
    let status := bitsOf v2 15 12
    let s2 := vcnt sr 0
    let s3 := if late ≠ 0 then vcnt s2 1 else s2
    let s4 := if bitsOf v2 39 36 ≠ 0 then vcnt s3 2 else s3
    let s5 := if status = 4 then vcnt s4 3 else s4
    let s6 := if status = 5 then vcnt s5 4 else s5
    let s7 := if late ≠ 0 then recordMiss s6 (clsOf s f.port) 2 2 f.port f.deadline f.tag else s6
    let s8 := { s7 with vrd := { s7.vrd with
      flights := s7.vrd.flights.filter (fun x => x.tag ≠ f.tag)
      taken := s7.vrd.taken.filter (fun t => t ≠ f.tag) } }
    auditTag (toPort s8 f.port ⟨f.acc + f.deadline, f.acc, v2⟩)

/-- The ledgers checked at a lap's end but BRIDGE, which stands with the welt (R40, R327). -/
def auditAll (s : State) : State :=
  let s1 := (List.range 32).foldl auditCredit (auditPage (auditTag (auditTables s)))
  s1.tol.foldl (fun st (e : Nat × Bucket) => if e.1 ∈ s1.vrd.unaudited then st else auditToken st e.1 e.2 e.2 e.2.last) s1

/-- A host command on buckets or counters is in progress until its data arrives (R177, R179). -/
def portStart (s : State) (off : Nat) (data : List Nat) : State :=
  draw { fput s off 31 31 1 with vrd := { s.vrd with ports := KMap.put s.vrd.ports off (some (within16 s, data)) } }

/-- Its end: BUSY falls, and data read stands in the registers. -/
def portEnd (s : State) (off : Nat) (data : List Nat) : State :=
  let s1 := fput { s with vrd := { s.vrd with ports := KMap.put s.vrd.ports off none } } off 31 31 0
  if off = Reg.tolCmd then (data.zip (List.range 10)).foldl (fun st e => wr st (Reg.tolData e.2) e.1) s1
  else
    match data with
    | [c, m] => wr (wr s1 Reg.vrdFreshCtr c) Reg.vrdFreshMap m
    | _ => s1

/-- Both command ports move on with the clock. -/
def portsDone (s : State) : State :=
  [Reg.tolCmd, Reg.vrdFreshCmd].foldl (fun st off =>
    match KMap.find st.vrd.ports off with
    | some e => if e.1 ≤ st.cycle then portEnd st off e.2 else st
    | none => st) s

end Sys2Proof.Machine
end

