-- ==== Sys2Proof/Machine/Tap.lean ====
section
/-!
DEFINITION. Tap ports (R119–R157, R15–R22): link states and training, credits, replay, urgency, receive errors,
descriptors from capture to acceptance, and the blocks a port sends.
-/
namespace Sys2Proof.Machine

/-- A payload with its CHK in bits [7:0] (R123): CRC-8 over the type octet and P2–P7. -/
def withChk (typ payload : Nat) : Nat :=
  putBits payload 7 0
    ((crcBytes 8 0x2F 0xFF (BitVec.ofNat 8 typ :: (leBytes 7 payload).drop 1)) ^^^ 0xFF)

/-- Send a control block whose payload carries CHK. -/
def sendCtl (s : State) (p typ payload : Nat) : State := { s with out := s.out ++ [.tapCtl p typ (withChk typ payload)] }

/-- Latch an event of a port; record a receive error's code (R148, R155). -/
def tevt (s : State) (p b : Nat) : State := setEvt s (Reg.tapEvt p) b
def lastErr (s : State) (p code : Nat) : State := fput s (Reg.tapLastErr p) 31 24 code

/-- Queue an ERR report (R149). -/
def queueErr (s : State) (p code detail : Nat) : State :=
  let x := tap s p
  setTap s p { x with errs := x.errs ++ [(code, detail % 65536)] }

/-- The members of a port's bond group, itself when it is not bonded (R151). -/
def bondGroup (s : State) (p : Nat) : List Nat :=
  if flag s (Reg.tapCtrl p) 8 then ((List.range 4).map (fun i => p / 4 * 4 + i)).filter (fun q => flag s (Reg.tapCtrl q) 8)
  else [p]

/-- The urgency passed to the regulator for a port: the highest of its group's members that are UP, and CALM while the
port itself is not UP (R143, R151, R351). -/
def groupUrg (s : State) (p : Nat) : Nat :=
  if (tap s p).state ≠ 4 then 0
  else (bondGroup s p).foldl (fun a q => if (tap s q).state = 4 then max a (tap s q).urgIn else a) 0

/-- Pass the urgency of a port's group to the regulator. -/
def passUrg (s : State) (p : Nat) : State :=
  (bondGroup s p).foldl (fun st q => { st with rgl := { st.rgl with urg := st.rgl.urg.setNat q (groupUrg st p) } }) s

/-- Pass the urgency of every port of a quad, after a write of its bond group. -/
def passQuad (s : State) (p : Nat) : State := ((List.range 4).map (fun i => p / 4 * 4 + i)).foldl passUrg s

/-- The port's next block boundary has come and no block has been sent in it (R146, R147). -/
def atBoundary (s : State) (p : Nat) : Bool :=
  decide (2 ≤ (tap s p).state) && decide ((tap s p).txAt < 50 * s.cycle + 50)

/-- The port has sent n blocks from its present boundary on. -/
def tookBlock (s : State) (p n : Nat) : State :=
  let x := tap s p
  setTap s p { x with
    txAt := max x.txAt (50 * s.cycle) + 256 * n
    idle := false }

/-- The port has sent a block in its boundary of an earlier cycle. -/
def tookBack (s : State) (p : Nat) : State :=
  let x := tap s p
  setTap s p { x with
    txAt := x.txAt + 256
    idle := false }

/-- The port has sent a time mark whose first bit left `ago` × 125 ps ago: its boundaries follow the mark (R147). -/
def tookMark (s : State) (p ago : Nat) : State :=
  let x := tap s p
  setTap s p { x with
    txAt := 50 * s.cycle + 512 - 5 * ago
    idle := false }

/-- A verdict stands at the head of the port's transmit queue (R32, R147). -/
def verdictReady (s : State) (p : Nat) : Bool :=
  let x := tap s p
  x.txq.any (fun v => decide (v.release + 10 ≤ s.cycle))

/-- The port's boundary is free for a block that ranks below time marks and verdicts (R146). -/
def turnFor (s : State) (p : Nat) : Bool :=
  let x := tap s p
  atBoundary s p && (decide (x.state ≠ 4) || !markDue s p) && x.txData.isEmpty && !verdictReady s p

/-- Verdicts sent and not yet consumed (R137). -/
def voutOf (x : TapPort) : Nat := (x.sent + 65536 - x.vcons % 65536) % 65536

/-- This port's descriptors awaiting release (R137). -/
def heldOf (s : State) (p : Nat) : Nat := (s.vrd.flights.filter (fun f => f.port = p)).length

/-- The delay exchange of a port starts afresh (R103). -/
def dlyReset (s : State) (p : Nat) : State :=
  { s with mil := { s.mil with dly := s.mil.dly.set (fun _ => Dly.zero) p { Dly.zero with
    sentAt := s.cycle
    lastGood := s.cycle } } }

/-- depth(p) follows the reserve down to DEPTH after a lowering write (R141). -/
def followDepth (s : State) (p : Nat) : State :=
  let x := tap s p
  match x.depthOver with
  | none => s
  | some _ =>
    if x.reserve.length ≤ fget s (Reg.tapCtrl p) 23 16 then setTap s p { x with depthOver := none }
    else setTap s p { x with depthOver := some x.reserve.length }

/-- A port leaves UP (R140, R155, R156): its reserve stays, verdicts queued or partly sent are dropped and counted, its
partner's urgency reads CALM, its delay loses validity. -/
def leaveUp (s : State) (p next : Nat) : State :=
  let x := tap s p
  let part := if x.txData = [] then 0 else 1
  let s1 := setTap s p { x with
    state := next
    urgIn := 0
    toGrant := []
    replay := none
    txq := []
    txData := []
    txFreeAt := 0
    errs := []
    resync := none
    wasUp := true }
  passUrg (dlyReset (tevt (tcnt (tcnt s1 p 4 (x.txq.length + part)) p 9 1) p 1) p) p

/-- A descriptor arrives without a credit (R148, R150). -/
def overrun (s : State) (p : Nat) : State :=
  let s1 := tevt (tcnt (lastErr s p 7) p 2 1) p 4
  queueErr s1 p 7 (rd s1 (Reg.tapCnt p 2))

/-- A descriptor open on the port is ended by an error `ago` × 125 ps after its start block: it is discarded 12 cycles
later (R19, R140, R148); one that has no tag to take is an overrun, which is checked before the CRC (R150). -/
def endOpenDsc (s : State) (p : Nat) (open_ : Option Nat) : State :=
  match open_ with
  | none => s
  | some ago =>
    let x := tap s p
    if x.reserve.drop x.captured.length = [] then overrun s p
    else setTap s p { x with captured := x.captured ++ [⟨s.cycle, [], stampAgo s ago, true⟩] }

/-- Whether a descriptor is open on a port that a command without that operand takes down (R140): the partner's doing, so
a free value. -/
def openOn (s : State) : Option Nat := Config.openDsc s.draws

/-- The port goes to SEEK or OFF from any state (R125). -/
def linkDown (s : State) (p next : Nat) (open_ : Option Nat) : State :=
  if (tap s p).state = 4 then leaveUp (endOpenDsc s p open_) p next
  else setTap s p { tap s p with
    state := next
    errs := [] }

/-- The port starts or stops sending: from OFF its boundaries run from now (R125). -/
def laneOn (s : State) (p : Nat) : State :=
  setTap s p { tap s p with
    state := 1
    txAt := 50 * s.cycle
    idle := false
    trainTurn := true }

/-- BLOCK_LOCK_GAIN (R119, R125). -/
def lockGain (s : State) (p : Nat) : State :=
  let x := tap s p
  if x.state = 1 then setTap s p { x with
    state := 2
    lockAt := s.cycle
    trains := 0
    acks := 0
    acked := false
    trainTx := 0
    trainTurn := true
    hdrWin := 0
    hdrBad := 0 }
  else s

/-- BLOCK_LOCK_LOSS (R125, R148). -/
def lockLoss (s : State) (p : Nat) (open_ : Option Nat) : State :=
  if 2 ≤ (tap s p).state ∧ (tap s p).state ≤ 4 then lastErr (linkDown s p 1 open_) p 9 else s

/-- A TRAIN block arrives (R125–R127): its VER, ROLE, ACK and VSPACE. -/
def trainReceive (s : State) (p ver role vspace : Nat) (ack : Bool) (open_ : Option Nat) : State :=
  let x := tap s p
  let ok := decide (ver = 1) && decide (role = 1)
  if !ok then (if x.state = 2 ∨ x.state = 3 then setTap s p { x with
    trains := 0
    acks := 0 } else s)
  else if x.state = 2 ∨ x.state = 3 then
    let n := x.trains + 1
    let a := if ack then x.acks + 1 else 0
    setTap s p { x with
      trains := n
      acks := a
      acked := x.acked || decide (8 ≤ a)
      vspaceRx := vspace
      state := if n ≥ 3 then 3 else x.state }
  else if x.state = 4 then linkDown s p 1 open_
  else s

/-- The TRAIN block that the port sends (R126): ACK once it has received three valid ones in a row. -/
def trainPayload (s : State) (p : Nat) : Nat :=
  2 ^ 48 + b2n (decide ((tap s p).state = 3)) * 2 ^ 46 + p * 2 ^ 40 +
    (if flag s (Reg.tapCtrl p) 8 then 1 + p / 4 else 0) * 2 ^ 32 + fget s (Reg.tapCtrl p) 23 16 * 2 ^ 8

/-- The ACK handshake completes: 8 TRAIN blocks with ACK received and 16 more with ACK sent (R127). -/
def tapUp (s : State) (p : Nat) : State :=
  let x := tap s p
  if x.state = 3 ∧ x.acked ∧ 16 ≤ x.trainTx ∧ x.vspaceRx ≠ 0 then
    tevt (markFrom (dlyReset (setTap s p { x with
      state := 4
      upAt := s.cycle
      lastFc := s.cycle
      fcSentAt := s.cycle
      peerVer := 1
      vspace := x.vspaceRx
      sent := 0
      vcons := 0
      urgIn := 0
      toGrant := []
      txq := []
      txData := []
      resync := none
      replay := if x.wasUp then some x.reserve else none }) p) p) p 0
  else s

/-- 1 ms since block lock without reaching UP (R125, R155, R156). -/
def trainFail (s : State) (p : Nat) : State :=
  let x := tap s p
  if (x.state = 2 ∨ x.state = 3) ∧ x.lockAt + 800000 ≤ s.cycle then
    tevt (tcnt (linkDown s p 1 none) p 10 1) p 5
  else s

/-- `TAP_CTRL.RESTART` (R125, R152). -/
def tapRestart (s : State) (p : Nat) (open_ : Option Nat) : State :=
  if 2 ≤ (tap s p).state ∧ (tap s p).state ≤ 4 then linkDown s p 1 open_ else s

/-- EN takes effect on the port's state (R125). -/
def tapEnApply (s : State) (p : Nat) (open_ : Option Nat) : State :=
  if flag s (Reg.tapCtrl p) 0 then
    (if (tap s p).state = 0 ∧ s.img.applied ∧ s.pwr.reqHigh then laneOn s p else s)
  else if (tap s p).state = 0 then s
  else linkDown s p 0 open_

/-- The sum of the credit depths of the enabled ports, and of disabled ports whose reserve is not empty (R20, R141);
port p at the depth and enable it would have. -/
def depthSum (s : State) (p depth : Nat) (en : Bool) : Nat :=
  ((List.range 32).map (fun q =>
    let e := if q = p then en else flag s (Reg.tapCtrl q) 0
    let d := if q = p then depth else fget s (Reg.tapCtrl q) 23 16
    if e || decide ((tap s q).reserve ≠ []) then d else 0)).foldl (· + ·) 0

/-- A write of TAP_CTRL[p] (R8, R10, R20, R141, R151, R152): DEPTH, BOND, EN and RESTART. -/
def tapCtrlWrite (s : State) (m p v : Nat) (open_ : Option Nat) : State :=
  let off := Reg.tapCtrl p
  let d0 := fget s off 23 16
  let s1 := commitFields s m off v
  let d1 := fget s1 off 23 16
  let en := flag s1 off 0
  let s2 := if 512 < depthSum s1 p d1 en ∧ (d1 ≠ d0 ∨ en ≠ flag s off 0) then
      (let r := rsvd (fput s1 off 23 16 d0) m off
       if 512 < depthSum s1 p d0 en ∧ en ≠ flag s off 0 then fput r off 0 0 (b2n (flag s off 0)) else r)
    else s1
  let d2 := fget s2 off 23 16
  let x := tap s2 p
  let s3 := if d2 ≠ d0 then setTap s2 p { x with
      depthOver := if d2 < x.reserve.length then some x.reserve.length else none } else s2
  let s4 := tapEnApply (fput s3 off 31 31 0) p open_
  let s5 := if bitOf v 31 then tapRestart s4 p open_ else s4
  auditCredit (if flag s5 off 8 = flag s off 8 then s5 else passQuad s5 p) p

/-- Does every grant condition of R137 hold for port p? -/
def grantOk (s : State) (p : Nat) : Bool :=
  let x := tap s p
  x.state = 4 && x.replay.isNone && x.resync.isNone && decide (x.reserve.length < fget s (Reg.tapCtrl p) 23 16) &&
    decide (x.reserve.length + heldOf s p + voutOf x < x.vspace) && decide (freeTags s > 0) &&
    decide (combineFree s > 1024) && !heldM s p false && !s.pwr.stopGrants && decide (x.grantAt ≤ s.cycle)

/-- The port takes tag t from the pool into its reserve (R17, R18, R136, R137). -/
def tagGrant (s : State) (p t : Nat) : State :=
  if grantOk s p ∧ t < 1024 ∧ s.vrd.taken.contains t = false then
    let x := tap s p
    let s1 := setTap s p { x with
      reserve := x.reserve ++ [t]
      toGrant := x.toGrant ++ [t]
      granted := x.granted + 1
      grantAt := s.cycle + 1 }
    auditCredit (auditTag { s1 with vrd := { s1.vrd with taken := t :: s1.vrd.taken } }) p
  else s

/-- The device's URG for a port (R143). -/
def urgOutOf (s : State) (p : Nat) : Nat :=
  let x := tap s p
  let wants := decide (x.reserve.length < fget s (Reg.tapCtrl p) 23 16)
  if heldM s p false then 3
  else if s.pwr.stopGrants || (wants && (decide (freeTags s = 0) || decide (combineFree s ≤ 1024))) then 2
  else if freeTags s < 64 then 1
  else 0

/-- Up to four tags in the payload of an FC block (R134). -/
def fcPayload (mode : Nat) (ts : List Nat) (urg : Nat) : Nat :=
  mode % 4 * 2 ^ 54 + ts.length * 2 ^ 51 + ts.getD 0 0 * 2 ^ 41 + ts.getD 1 0 * 2 ^ 31 + ts.getD 2 0 * 2 ^ 21 +
    ts.getD 3 0 * 2 ^ 11 + urg % 4 * 2 ^ 9

/-- An FC block falls due (R138, R139): tags to grant, a replay, a change of URG, or 2 µs; while a RESYNC waits for its
snapshot, nothing to grant goes out. -/
def fcDue (s : State) (p : Nat) : Bool :=
  let x := tap s p
  x.state = 4 && (x.replay.isSome || (x.resync.isNone && decide (x.toGrant ≠ [])) || decide (urgOutOf s p ≠ x.urgOut) ||
    decide (x.fcSentAt + 1600 ≤ s.cycle))

/-- Send one FC block (R134, R138, R139, R146): a piece of the replay, or the tags waiting to be granted. -/
def fcSend (s0 : State) (p : Nat) : State :=
  if (fcDue s0 p && turnFor s0 p) = false then s0
  else
    let s := tookBlock s0 p 1
    let x := tap s p
    let u := urgOutOf s0 p
    match x.replay with
    | some l =>
      let last := decide (l.length ≤ 4)
      let s1 := setTap s p { x with
        replay := if last then none else some (l.drop 4)
        urgOut := u
        fcSentAt := s.cycle }
      let s2 := sendCtl s1 p 0x33 (fcPayload (if last then 2 else 1) (l.take 4) u)
      if last then tevt (tcnt s2 p 13 1) p 6 else s2
    | none =>
      let ts := if x.resync.isNone then x.toGrant.take 4 else []
      let s1 := setTap s p { x with
        toGrant := if x.resync.isNone then x.toGrant.drop 4 else x.toGrant
        urgOut := u
        fcSentAt := s.cycle }
      tcnt (sendCtl s1 p 0x33 (fcPayload 0 ts u)) p 8 ts.length

/-- The snapshot of a RESYNC is taken once the descriptors captured before the request have been handled (R139). -/
def snapshot (s : State) (p : Nat) : State :=
  let x := tap s p
  match x.resync with
  | none => s
  | some c =>
    if x.captured.any (fun d => decide (d.at_ ≤ c)) then s
    else setTap s p { x with
      resync := none
      replay := some x.reserve
      toGrant := [] }

/-- A partner FC block with good CHK (R135, R139, R143): used in UP only. -/
def fcReceive (s : State) (p vcons urg req : Nat) : State :=
  let x := tap s p
  if x.state ≠ 4 then s
  else
    let s1 := setTap s p { x with
      lastFc := s.cycle
      vcons := vcons
      urgIn := urg
      replay := if req = 1 then none else x.replay
      resync := if req = 1 then some s.cycle else x.resync }
    passUrg (snapshot (tcnt s1 p 7 1) p) p

/-- No valid FC block for 64 µs in UP (R128, R148). -/
def tapTimeout (s : State) (p : Nat) (open_ : Option Nat) : State :=
  let x := tap s p
  if x.state = 4 ∧ max x.upAt x.lastFc + 51200 ≤ s.cycle then lastErr (linkDown s p 1 open_) p 8 else s

/-- An ERR block from the partner (R149, R155, R156). -/
def errReceive (s : State) (p code detail : Nat) : State :=
  if 2 ≤ (tap s p).state then
    tevt (tcnt (fput s (Reg.tapLastErr p) 23 0 (code * 65536 + detail)) p 12 1) p 7
  else s

/-- Send the oldest queued ERR report (R146, R149), at a boundary that no block before it takes. -/
def errSend (s0 : State) (p : Nat) : State :=
  if (turnFor s0 p && !fcDue s0 p && !(decide ((tap s0 p).state = 4) && dreqTime s0 p)) = false then s0
  else
    match (tap s0 p).errs with
    | [] => s0
    | e :: t =>
      let s := tookBlock s0 p 1
      sendCtl (setTap s p { tap s p with errs := t }) p 0x78 (e.1 * 2 ^ 48 + e.2 * 2 ^ 32)

/-- The type octets that a partner's blocks may carry (R121): every code but those of blocks that only the device sends. -/
def inboundType (typ : Nat) : Bool := [0x1E, 0x2D, 0x33, 0x66, 0x78, 0xD8, 0xD9].contains typ

/-- An invalid sync header is counted in its window of 64 blocks since block lock; the sixteenth of a window loses block
lock (R119). -/
def badHeader (s : State) (p : Nat) (open_ : Option Nat) : State :=
  let x := tap s p
  let w := 25 * (s.cycle - x.lockAt) / 8192
  let n := (if w = x.hdrWin then x.hdrBad else 0) + 1
  let s1 := setTap s p { x with
    hdrWin := w
    hdrBad := n }
  if n < 16 then s1 else linkDown (lastErr s1 p 9) p 1 open_

/-- A receive error (R148): 1 SYNC, 2 TYPE, 3 CHK, 4 STRAY, 5 TRUNC; `typ` is the failed block's type octet. The first, second
and last end an open descriptor, before the error itself is recorded (DESIGN CHOICE where both leave a code). -/
def blockError (s : State) (p kind typ : Nat) (open_ : Option Nat) : State :=
  if (tap s p).state < 2 ∨ (kind = 2 ∧ inboundType typ) then s
  else
    let s0 := if kind = 3 ∨ kind = 4 then s else endOpenDsc s p open_
    let s1 := lastErr s0 p kind
    if kind = 3 then queueErr (tevt (tcnt s1 p 6 1) p 2) p 3 typ
    else
      let s2 := tcnt s1 p 5 1
      let s3 := if kind = 5 then queueErr s2 p 5 (rd s2 (Reg.tapCnt p 5)) else tevt s2 p 2
      if kind = 1 then badHeader s3 p none else s3

/-- Byte 0, the start block's type octet, gives the length (R130). -/
def kindOk (bytes : List Byte) : Bool :=
  (fieldAt bytes 0 1 = 0xD8 && decide (bytes.length = 64)) || (fieldAt bytes 0 1 = 0xD9 && decide (bytes.length = 128))

/-- A whole descriptor is captured (R15, R16, R148, R150): with an empty reserve it is an OVERRUN; with more than 4
control blocks within it, a SPAN error. -/
def dscReceive (s : State) (p : Nat) (bytes : List Byte) (ctl ago : Nat) : State :=
  let x := tap s p
  if x.state ≠ 4 ∨ kindOk bytes = false then s
  else
    if x.reserve.drop x.captured.length = [] then overrun s p
    else
      let s1 := setTap s p { x with captured := x.captured ++ [⟨s.cycle, bytes, stampAgo s ago, decide (4 < ctl)⟩] }
      if 4 < ctl then
        let s2 := tcnt (lastErr s1 p 0xA) p 5 1
        queueErr s2 p 0xA (rd s2 (Reg.tapCnt p 5))
      else s1

/-- The CRC-32C over all but the last four bytes stands in the last four (R124, R131). -/
def dscCrcOk (bs : List Byte) : Bool :=
  let n := if fieldAt bs 0 1 = 0xD9 then 124 else 60
  fieldAt bs n 4 = crc32c (slice bs 0 n)

/-- The head descriptor is discarded (R19, R136, R148): its tag goes to the tail and is granted again; a DISCARD verdict
is released at once. -/
def discardDsc (s : State) (p : Nat) (c : Captured) (rest : List Captured) : State :=
  let x := tap s p
  let s0 := if c.bad then s else lastErr s p 6
  let s1 := setTap s0 p { x with
    captured := rest
    reserve := match x.reserve with
      | [] => []
      | t :: l => l ++ [t]
    toGrant := match x.reserve with
      | [] => x.toGrant
      | t :: _ => if x.state = 4 then x.toGrant ++ [t] else x.toGrant
    granted := x.granted + 1
    received := x.received + 1 }
  let s2 := tevt (vcnt (tcnt s1 p 1 1) 5) p 3
  let v := discardVerdict c.stamp (rd s2 (Reg.tapCnt p 1))
  auditCredit (toPort s2 p ⟨c.at_ + 12, c.at_ + 12, v⟩) p

/-- The head descriptor is accepted on tag t (R15, R18, R21, R22, R169). -/
def bindDsc (s : State) (p t : Nat) (l : List Nat) (c : Captured) (rest : List Captured) : State :=
  let x := tap s p
  let e := (s.vrd.epoch.nat t + 1) % 64
  let s1 := setTap s p { x with
    captured := rest
    reserve := l
    received := x.received + 1 }
  let f : Flight := ⟨t, e, p, selectorPort s p, c.at_ + 12, 0, 0, false, 0, false, none, c.stamp, c.bytes, actLevel s, [], [],
    enabledNow s, [], 0, none, 0⟩
  let s2 := { rcEvent s1 Reg.vrdTagStat s1.vrd.peak 0 max with vrd := { s1.vrd with
    epoch := s1.vrd.epoch.setNat t e
    flights := s1.vrd.flights ++ [f]
    peak := max s1.vrd.peak (s1.vrd.flights.length + s1.vrd.orphans.length + 1) } }
  auditCredit (auditTag (followDepth (tcnt (rangeWritten s2 0xB (2048 + t) 1) p 0 1) p)) p

/-- DESCRIPTOR_ACCEPT: twelve cycles after the capture the port accepts or discards (R15, R18, R19). -/
def dscAccept (s : State) (p : Nat) : State :=
  let x := tap s p
  match x.captured with
  | [] => s
  | c :: rest =>
    if s.cycle < c.at_ + 12 then s
    else
      match x.reserve with
      | [] => snapshot (overrun (setTap s p { x with captured := rest }) p) p
      | t :: l => snapshot (if c.bad || !dscCrcOk c.bytes then discardDsc s p c rest else bindDsc s p t l c rest) p

/-- The start block of a verdict: its first 7 bytes (R132). -/
def verdictStart (v : Nat) : Nat := fieldAt (leBytes 16 v) 0 7

/-- Its two data blocks: bytes 7–14; byte 15 with the CRC-32C (R124, R132). -/
def verdictData (v : Nat) : List Nat :=
  let bs := leBytes 16 v
  [fieldAt bs 7 8, fieldAt bs 15 1 + crc32c bs * 256]

/-- VERDICT_TRANSMIT (R32, R132, R146, R147): the head verdict reaches the serialiser 10 cycles after release, or when
the one ahead has gone; its start block goes out at the first boundary that no time mark takes. -/
def verdictTransmit (s : State) (p : Nat) : State :=
  let x := tap s p
  if x.state ≠ 4 ∨ atBoundary s p = false ∨ markDue s p ∨ x.txData ≠ [] then s
  else
    match minByKey (fun (v : TxVerdict) => v.release * 2 ^ 64 + v.acc) x.txq with
    | none => s
    | some v =>
      let at_ := max (v.release + 10) x.txFreeAt
      if s.cycle < at_ then s
      else
        let s0 := tookBlock s p 1
        let s1 := setTap s0 p { tap s0 p with
          txq := x.txq.erase v
          txData := verdictData v.verdict }
        let s2 := { s1 with out := s1.out ++ [.tapCtl p 0x87 (verdictStart v.verdict)] }
        if at_ > v.release + 10 then vcnt s2 7 else s2

/-- A boundary that no command has used: the next data block of a verdict in progress, which a due time mark holds up; in
LOCK and TRAIN, TRAIN and IDLE blocks in turn; else IDLE (R125, R126, R146). The last data block ends the verdict. -/
def fillBlock (s : State) (p : Nat) : State :=
  let x := tap s p
  if x.state = 0 ∨ 50 * s.cycle ≤ x.txAt then s
  else
    match x.txData with
    | d :: rest =>
      if markDue s p then s
      else
        let s0 := tookBack s p
        let s1 := { s0 with out := s0.out ++ [.tapData p d] }
        if rest = [] then
          tcnt (setTap s1 p { tap s1 p with
            txData := []
            txFreeAt := cdiv (x.txAt + 256) 50
            sent := (x.sent + 1) % 65536 }) p 3 1
        else setTap s1 p { tap s1 p with txData := rest }
    | [] =>
      if (x.state = 2 ∨ x.state = 3) ∧ x.trainTurn then
        let s0 := tookBack s p
        sendCtl (setTap s0 p { tap s0 p with
          trainTurn := false
          trainTx := if x.acked then x.trainTx + 1 else 0 }) p 0x2D (trainPayload s p)
      else
        let s0 := tookBack s p
        let s1 := if x.idle then s0 else { s0 with out := s0.out ++ [.tapCtl p 0x1E 0] }
        setTap s1 p { tap s1 p with
          idle := true
          trainTurn := true }

/-- TAP_FORCE_CRED: the forced credit reset (R46, R142). -/
def forceCred (s : State) (m v : Nat) : State :=
  let p := bitsOf v 4 0
  let x := tap s p
  if bitsOf v 31 16 = 0x6372 ∧ x.state ≤ 2 then
    let s1 := setTap s p { x with
      reserve := []
      toGrant := []
      granted := x.received
      depthOver := none }
    ledgerBreak { s1 with vrd := { s1.vrd with taken := s1.vrd.taken.filter (fun t => !x.reserve.contains t) } } 1 p
  else rsvd s m Reg.tapForceCred

/-- TAP_STAT[p] as it reads now (R153). -/
def tapStatView (s : State) (p : Nat) : Nat :=
  let x := tap s p
  x.state * 2 ^ 29 + x.urgIn * 2 ^ 27 + x.urgOut * 2 ^ 25 + b2n (x.replay.isSome || x.resync.isSome) * 2 ^ 24 + x.peerVer * 2 ^ 16 + x.vspace

/-- TAP_CRED[p] as it reads now (R154). -/
def tapCredView (s : State) (p : Nat) : Nat :=
  let x := tap s p
  voutOf x * 2 ^ 48 + heldOf s p * 2 ^ 32 + x.reserve.length

/-- VRD_TAG_RECLAIM (R46–R48): tags counted held without a verdict in the deadline buffer return to the pool. -/
def tagReclaim (s : State) (m v : Nat) : State :=
  if v % 65536 = 0x7A61 then
    let n := s.vrd.orphans.length
    ledgerBreak { s with vrd := { s.vrd with
      taken := s.vrd.taken.filter (fun t => !s.vrd.orphans.contains t)
      orphans := [] } } 2 n
  else rsvd s m Reg.vrdTagReclaim

end Sys2Proof.Machine
end

