-- ==== Sys2Proof/Machine/Welt.lean ====
section
/-!
DEFINITION. The welt link (R374–R395, R400–R406): port states and training, credits, frames and their transmit order,
recovery, searches on cascaded tables at their members and at their origin. A frame leaves as soon as its class has a
credit and R384's order allows it; transmission time is not modelled.
-/
namespace Sys2Proof.Machine

/-- A welt port: 0 upstream, 1 downstream. -/
def wport (s : State) (k : Nat) : WPort := s.wlt.ports.get (fun _ => WPort.off) k
def setWport (s : State) (k : Nat) (x : WPort) : State :=
  { s with wlt := { s.wlt with ports := s.wlt.ports.set (fun _ => WPort.off) k x } }

/-- Latch an event and count on a welt port (R406). -/
def wevt (s : State) (k b : Nat) : State := setEvt s (Reg.wltEvt k) b
def wlcnt (s : State) (k i n : Nat) : State := bump s (Reg.wltCnt k i) n

/-- Entries and count modulus of a credit class (R382): 0 KEY, 1 ANS, 2 posted, 3 non-posted, 4 completion. -/
def classSize (c : Nat) : Nat := if c ≤ 1 then 64 else if c = 2 then 16 else 8
def classMod (c : Nat) : Nat := 2 * classSize c

/-- Credits of a class held toward the neighbour (R382, R383). -/
def creditsOf (x : WPort) (c : Nat) : Nat :=
  classSize c - (x.sent.nat c + classMod c - x.peerFreed.nat c % classMod c) % classMod c

/-- The credit class of a bridge frame (R379). -/
def BFrame.cls (f : BFrame) : Nat := if f.typ = 4 then 3 else if f.typ = 5 then 4 else 2

/-- The sending direction of a port runs (R385: RECOVER stops only the receiving direction). -/
def WPort.sends (x : WPort) : Bool := x.state = 4 || x.state = 5

/-- This device's welt position and the position of the last device. -/
def myPos (s : State) : Nat := s.img.weltPos

/-- The port toward a position (R374). -/
def portTo (s : State) (p : Nat) : Nat := if p < myPos s then 0 else 1

/-- MODE, FIRST, LAST and SLICE of a table (R405). -/
def wtMode (s : State) (t : Nat) : Nat := fget s (Reg.wltTbl t) 1 0
def wtFirst (s : State) (t : Nat) : Nat := fget s (Reg.wltTbl t) 6 4
def wtLast (s : State) (t : Nat) : Nat := fget s (Reg.wltTbl t) 10 8
def wtSlice (s : State) (t : Nat) : Nat := fget s (Reg.wltTbl t) 22 16

/-- A write of `WLT_TBL[t]` as R377 restricts it, beyond its register table, which alone judges the reserved MODE 3 (R8). -/
def wltTblOk (s : State) (t v : Nat) : Bool :=
  let mode := bitsOf v 1 0
  let first := bitsOf v 6 4
  let last := bitsOf v 10 8
  let kindOk : Bool := match tblOf s t with
    | some d => if mode = 1 then decide (d.kind ≤ 4) else decide (d.kind ≤ 1)
    | none => false
  mode = 0 || mode = 3 || (kindOk && bitOf s.img.role mode && decide (first < last) && decide (last ≤ s.img.weltCount) &&
    decide (first ≤ myPos s) && decide (myPos s ≤ last))

/-- A write of `WLT_TBL[t]` (R377, R405). -/
def wltTblWrite (s : State) (m t v : Nat) : State :=
  if wltTblOk s t v then commitFields s m (Reg.wltTbl t) v
  else if locked s then commitFields s m (Reg.wltTbl t) v
  else rsvd s m (Reg.wltTbl t)

/-- A frame's header and payload with its CRC-16 (R379). -/
def sendFrame (s : State) (k hdr : Nat) (payload : List Byte) : State :=
  let h := hdr / 65536 * 65536
  let crc := crcBytes 16 0x1021 0xFFFF ((leBytes 8 h).drop 2 ++ payload)
  { s with out := s.out ++ [.weltFrame k (h + crc) payload] }

/-- Header and payload of a KEY frame (R379, R380). -/
def keyHeader (k : WKey) : Nat :=
  2 ^ 60 + k.table * 2 ^ 54 + k.tag * 2 ^ 44 + k.epoch * 2 ^ 38 + k.search * 2 ^ 36 + k.origin * 2 ^ 33 +
    b2n k.leg * 2 ^ 32 + b2n k.segx * 2 ^ 31 + k.sigma % 2048 * 2 ^ 20
def keyPayload (s : State) (k : WKey) : List Byte :=
  let n := match tblOf s k.table with
    | some d => if wtMode s k.table = 2 then Config.weltKeyBytes k.table else cdiv (if d.isTern then 80 * 2 ^ d.width else d.keyBits) 8
    | none => 0
  (if k.segx then leBytes 1 k.frac ++ leBytes 1 k.unc else []) ++ leBytes n k.key

/-- Header and payload of an ANS frame. -/
def ansHeader (a : WAns) : Nat :=
  2 * 2 ^ 60 + a.kind * 2 ^ 57 + (a.tag * 64 + a.epoch) * 2 ^ 41 + a.search * 2 ^ 39 + a.origin * 2 ^ 36 +
    a.pos * 2 ^ 33 + b2n a.hit * 2 ^ 32 + b2n a.multi * 2 ^ 31 + b2n a.part * 2 ^ 30 + b2n a.straddle * 2 ^ 29 +
    b2n a.res * 2 ^ 28
def ansPayload (a : WAns) : List Byte := if a.res then leBytes 8 a.result else []

/-- Header and payload of a bridge frame. -/
def brgHeader (f : BFrame) (lseq : Nat) : Nat :=
  f.typ * 2 ^ 60 + lseq % 4096 * 2 ^ 48 + f.dst * 2 ^ 45 + f.src * 2 ^ 42 + f.wsn * 2 ^ 26 + b2n f.size * 2 ^ 25 +
    f.set * 2 ^ 22 + f.status * 2 ^ 18
def brgPayload (f : BFrame) : List Byte :=
  if f.typ = 3 then leBytes 4 f.addr ++ leBytes (if f.size then 8 else 4) f.data
  else if f.typ = 4 then leBytes 4 f.addr
  else if f.typ = 5 then (if f.status = 0 then leBytes (if f.size then 8 else 4) f.data else [])
  else leBytes 4 f.addr ++ leBytes 4 0

/-- Entries of a class are freed, to be returned as credit (R382). -/
def freeEntry (s : State) (k c n : Nat) : State :=
  let x := wport s k
  setWport s k { x with freed := x.freed.setNat c (x.freed.nat c + n) }

/-- The BRIDGE ledger of one class and direction of a port (R402): bits [3] port, [2:1] class, [0] direction. -/
def auditBridgeOne (s : State) (k c : Nat) (inbound : Bool) : State :=
  let x := wport s k
  let size := classSize c
  let t : Nat × Nat × Nat :=
    if inbound then
      let held := (x.inq.filter (fun f => f.cls = c)).length
      let atPeer := size - (x.rcvd.nat c - x.told.nat c)
      (size - held - atPeer, atPeer, held)
    else
      let sent := (x.out.filter (fun e => e.f.cls = c && e.lseq.isSome)).length
      let queued := (x.out.filter (fun e => e.f.cls = c && e.lseq.isNone)).length
      (size - sent - queued, sent, queued)
  if t.1 + t.2.1 + t.2.2 = size then s
  else ledgerFault s 5 (k * 8 + (c - 2) * 2 + b2n inbound) t.1 t.2.1 t.2.2 size
def auditBridge (s : State) (k : Nat) : State :=
  [2, 3, 4].foldl (fun st c => auditBridgeOne (auditBridgeOne st k c false) k c true) s

/-- A frame of class c has left a port. -/
def noteSent (x : WPort) (c : Nat) : WPort := { x with sent := x.sent.setNat c (x.sent.nat c + 1) }

/-- A key's entry is freed once the key has gone (R382). -/
def keyGone (s : State) (k : WKey) : State :=
  match k.frees with
  | some p => freeEntry s p 0 1
  | none => s

/-- The next bridge entry that may start on a port (R384, R399): completions before posted before non-posted, no
completion or non-posted frame ahead of an earlier posted one, each with a credit. -/
def nextBridge (x : WPort) : Option OutEnt :=
  let q := x.out.filter (fun e => e.lseq.isNone)
  let ahead := fun (e : OutEnt) => q.any (fun p => p.f.cls = 2 && decide (p.order < e.order))
  let ok := fun (c : Nat) (e : OutEnt) =>
    e.f.cls = c && decide (creditsOf x c > 0) && !(c ≠ 2 && ahead e)
  let first := fun (c : Nat) =>
    match q.find? (fun e => e.f.cls = c) with
    | some e => if ok c e then some e else none
    | none => none
  match first 4 with
  | some e => some e
  | none =>
    match first 2 with
    | some e => some e
    | none => first 3

/-- Send one bridge entry for the first time (R400). -/
def sendBridge (s : State) (k : Nat) (e : OutEnt) : State :=
  let x := wport s k
  let n := x.nextSeq
  let s1 := setWport s k { noteSent x e.f.cls with
    nextSeq := (n + 1) % 4096
    inRow := 0
    ackAt := if x.out.any (fun o => o.lseq.isSome) then x.ackAt else s.cycle
    out := x.out.map (fun o => if o.order = e.order then { o with
      lseq := some n
      sentAt := s.cycle } else o) }
  wlcnt (sendFrame s1 k (brgHeader e.f n) (brgPayload e.f)) k 4 1

/-- An answer or a key starts on a port: the run of them ahead of a waiting bridge frame grows (R384). -/
def rowNext (x : WPort) : Nat := if x.out.any (fun e => e.lseq.isNone) || !x.waitq.isEmpty then x.inRow + 1 else 0

/-- Send one frame if the order of R384 and the credits allow one. -/
def sendOne (s : State) (k : Nat) : Option State :=
  let x := wport s k
  if x.sends = false then none
  else
    let b := nextBridge x
    let now := decide (x.inRow ≥ 15) && b.isSome
    match x.ansq, x.keyq, b, now with
    | _, _, some e, true => some (sendBridge s k e)
    | a :: t, ks, b, _ =>
      if creditsOf x 1 > 0 then
        let s1 := setWport s k { noteSent x 1 with
          ansq := t
          inRow := rowNext x }
        let s2 := wlcnt (sendFrame s1 k (ansHeader a) (ansPayload a)) k 2 1
        some (match a.frees with
          | some p => freeEntry s2 p 1 1
          | none => s2)
      else
        (match ks, b with
         | y :: u, _ =>
           if creditsOf x 0 > 0 then
             let s1 := setWport s k { noteSent x 0 with
               keyq := u
               inRow := rowNext x }
             some (keyGone (wlcnt (sendFrame s1 k (keyHeader y) (keyPayload s y)) k 0 1) y)
           else b.map (sendBridge s k)
         | [], _ => b.map (sendBridge s k))
    | [], y :: u, b, _ =>
      if creditsOf x 0 > 0 then
        let s1 := setWport s k { noteSent x 0 with
          keyq := u
          inRow := rowNext x }
        some (keyGone (wlcnt (sendFrame s1 k (keyHeader y) (keyPayload s y)) k 0 1) y)
      else b.map (sendBridge s k)
    | [], [], b, _ => b.map (sendBridge s k)

/-- Inbound completion entries of a port that are occupied or reserved (R399). -/
def cplTaken (x : WPort) : Nat := x.rsv + (x.inq.filter (fun f => f.cls = 4)).length

/-- Outbound entries of a class in use. -/
def outUsed (x : WPort) (c : Nat) : Nat := (x.out.filter (fun e => e.f.cls = c)).length

/-- Can a port take one more outbound frame of this kind (R397, R399)? A non-posted frame also reserves a completion entry. -/
def canQueue (x : WPort) (f : BFrame) : Bool :=
  decide (outUsed x f.cls < classSize f.cls) && (f.cls ≠ 3 || decide (cplTaken x < 8))

/-- Put a frame into an outbound entry. -/
def enqueue (x : WPort) (f : BFrame) : WPort :=
  { x with
    out := x.out ++ [⟨f, x.orders, none, 0⟩]
    orders := x.orders + 1
    rsv := if f.cls = 3 then x.rsv + 1 else x.rsv }

/-- Frames that wait for an outbound entry take one, in order within their class; `shut`: classes already held up. -/
def admitWaiting (x : WPort) (shut : List Nat) (l : List BFrame) : WPort × List BFrame :=
  match l with
  | [] => (x, [])
  | f :: t =>
    if !shut.contains f.cls && canQueue x f then admitWaiting (enqueue x f) shut t
    else
      let r := admitWaiting x (f.cls :: shut) t
      (r.1, f :: r.2)

/-- Send until nothing more may start. -/
def sendAll (s : State) (k fuel : Nat) : State :=
  match fuel with
  | 0 => s
  | n + 1 =>
    match sendOne s k with
    | some t => sendAll t k n
    | none => s

/-- A port moves what it can: waiting frames take entries, entries and searches are sent. -/
def portPump (s : State) (k : Nat) : State :=
  let x := wport s k
  let r := admitWaiting { x with waitq := [] } [] x.waitq
  let s1 := if x.waitq = [] then s else setWport s k { r.1 with waitq := r.2 }
  let y := wport s1 k
  sendAll s1 k (y.keyq.length + y.ansq.length + y.out.length)

/-- Log a failed posted write at its initiator (R397, R408, R409). -/
def logWrFail (s : State) (f : BFrame) (code reporter : Nat) : State :=
  let s1 := bump s (Reg.brgCnt 5) 1
  setEvt (logPut s1 Reg.brgFailHead Reg.brgFailTail Reg.brgFailOvf 16 Reg.brgFail Reg.brgEvt 2 (nowNs s)
    (f.wsn * 2 ^ 48 + code * 2 ^ 44 + reporter * 2 ^ 37 + bitsOf f.addr 23 0)) Reg.brgEvt 0

/-- A read set ends FAILED (R398, R409). -/
def failRead (s : State) (r : BRead) (code : Nat) : State :=
  let s1 := { s with brg := { s.brg with reads := s.brg.reads.filter (fun x => x.wsn ≠ r.wsn) } }
  let s2 := setEvt (bump s1 (Reg.brgCnt 6) 1) Reg.brgEvt 1
  if r.set < 4 then wr s2 (Reg.brgRrdStat r.set) (3 * 2 ^ 30 + code * 2 ^ 16 + r.wsn) else s2

/-- A completion with a failure code for a read frame. -/
def failCpl (s : State) (f : BFrame) (code : Nat) : BFrame :=
  { f with
    typ := 5
    dst := f.src
    src := myPos s
    status := code
    data := 0 }

/-- A failure note for a posted write: reporter in SRC, code in STATUS. -/
def failNote (s : State) (f : BFrame) (code : Nat) : BFrame :=
  { f with
    typ := 6
    dst := f.src
    src := myPos s
    status := code
    data := 0 }

/-- Hand a locally made frame to the port toward its DST. -/
def queueTo (s : State) (f : BFrame) : State :=
  let k := portTo s f.dst
  let x := wport s k
  setWport s k { x with waitq := x.waitq ++ [f] }

/-- Is the port that a frame would take up? -/
def pathUp (s : State) (f : BFrame) : Bool := (wport s (portTo s f.dst)).sends

/-- A bridge frame fails at this device with a code (R397, R400): at its initiator it ends, elsewhere its failure is
sent back when the way back is up. -/
def bridgeFail (s : State) (f : BFrame) (code : Nat) : State :=
  if f.typ = 3 then
    if f.src = myPos s then logWrFail s f code (myPos s)
    else if pathUp s (failNote s f code) then queueTo s (failNote s f code) else s
  else if f.typ = 4 then
    if f.src = myPos s then
      (match s.brg.reads.find? (fun r => r.wsn = f.wsn) with
       | some r => failRead s r code
       | none => s)
    else if pathUp s (failCpl s f code) then queueTo s (failCpl s f code) else s
  else s

/-- A port leaves UP or RECOVER (R388, R400, R403, R406): bridge frames unacknowledged or queued fail with LINK, queued
keys and answers are lost, reservations end, the delay exchange restarts, and a slave's upstream loss is WELT lost. -/
def weltLeave (s : State) (k next : Nat) : State :=
  let x := wport s k
  let lost := x.out.map (fun e => e.f) ++ x.waitq
  let s1 := setWport s k { x with
    state := next
    since := s.cycle
    keyq := []
    ansq := []
    waitq := []
    out := []
    rsv := 0 }
  let s2 := dlyReset (wlcnt (wevt s1 k 1) k 9 1) (32 + k)
  let s3 := lost.foldl (fun st f => bridgeFail st f 5) s2
  if k = 0 ∧ s3.mil.src = 5 ∧ (s3.mil.state = 1 ∨ s3.mil.state = 2) then sourceLost s3 else s3

/-- A port goes to SEEK or OFF from any state (R385). -/
def weltDown (s : State) (k next : Nat) : State :=
  let s1 := if (wport s k).sends then weltLeave s k next else s
  let x := wport s1 k
  setWport s1 k { x with
    state := next
    since := s.cycle
    lanes := if next = 0 then 0 else x.lanes }

/-- Lanes hold block lock (R376, R378, R385): with all four, SEEK goes on to DESKEW. -/
def weltLockGain (s : State) (k lanes : Nat) : State :=
  let x := wport s k
  if x.state = 0 then s
  else
    let y := { x with lanes := x.lanes ||| lanes }
    if x.state = 1 ∧ y.lanes = 15 then setWport s k { y with
      state := 2
      since := s.cycle
      parts := 0
      acks := 0
      trains := 0
      acked := false
      trainTx := 0
      cause := 0 }
    else setWport s k y

/-- Lanes lose block lock, or no valid CREDIT block for 16 µs (R385). -/
def weltLockLoss (s : State) (k lost : Nat) : State :=
  let x := wport s k
  let lanes := x.lanes - (x.lanes &&& lost)
  let s1 := setWport s k { x with lanes := lanes }
  let quiet := decide (max x.since x.lastCredit + 12800 ≤ s.cycle)
  if x.sends ∧ (lanes ≠ 15 ∨ quiet) then weltDown s1 k 1 else s1

/-- Lane skew is removed (R385). -/
def deskewDone (s : State) (k : Nat) : State :=
  let x := wport s k
  if x.state = 2 then setWport s k { x with state := 3 } else s

/-- A valid TRAIN block (R386): `v` holds payload bits [42:11]; an identity check that fails ends in MISMATCH. -/
def weltTrain (s : State) (k ver : Nat) (ack : Bool) (part v : Nat) : State :=
  let x := wport s k
  if x.state ≠ 3 then s
  else
    let acks := if ack then x.acks + 1 else 0
    let y := { x with
      acks := acks
      trains := x.trains + 1
      acked := x.acked || decide (8 ≤ acks)
      parts := x.parts ||| 2 ^ part
      nPos := if part = 0 then bitsOf v 31 29 else x.nPos
      nCount := if part = 0 then bitsOf v 28 26 else x.nCount
      nRole := if part = 0 then bitsOf v 25 23 else x.nRole
      cntHi := if part = 2 then bitsOf v 31 11 else x.cntHi }
    let want : Int := if k = 0 then (myPos s : Int) - 1 else (myPos s : Int) + 1
    let cause :=
      if part = 0 then
        b2n (decide ((y.nPos : Int) ≠ want)) + 2 * b2n (decide (y.nCount ≠ s.img.weltCount)) +
          4 * b2n (decide (y.nRole ≠ s.img.role))
      else if part = 1 then 8 * b2n (decide (v ≠ rd s Reg.imgId / 2 ^ 32))
      else 0
    if ver = 1 ∧ cause = 0 then setWport s k y
    else wevt (setWport s k { y with
      state := 6
      since := s.cycle
      cause := cause }) k 2

/-- The slot counter with its 32 bits (R387). It counts search slots, two in a CCLK cycle. -/
def slotNow (s : State) : Nat := s.wlt.slot % 2 ^ 32

/-- The TRAIN block that port k sends now (R386): ACK once it has received three valid ones in a row (R127), the sending lane,
PART in turn; CNT_HI only toward the downstream neighbour. -/
def weltTrainPayload (s : State) (k : Nat) : Nat :=
  let x := wport s k
  let part := x.txN % 3
  2 ^ 48 + b2n (decide (x.state = 3) && decide (3 ≤ x.trains)) * 2 ^ 47 + x.txN % 4 * 2 ^ 45 + part * 2 ^ 43 +
    (if part = 0 then myPos s * 2 ^ 40 + s.img.weltCount * 2 ^ 37 + s.img.role * 2 ^ 34
     else if part = 1 then rd s Reg.imgId / 2 ^ 32 * 2 ^ 11
     else if k = 1 then slotNow s / 2048 * 2 ^ 22 else 0)

/-- A port-block boundary of this cycle on a port that does not carry frames (R385): TRAIN in TRAIN and MISMATCH, IDLE before
them, a run of which is recorded once. -/
def weltFill (s : State) (k : Nat) : State :=
  let x := wport s k
  if x.state = 0 ∨ x.sends = true ∨ 125 * s.cycle + 125 ≤ x.txAt then s
  else
    let train := decide (x.state = 3) || decide (x.state = 6)
    let s1 := setWport s k { x with
      txAt := max x.txAt (125 * s.cycle) + 64
      txN := x.txN + 1
      trainTx := if x.state = 3 ∧ x.acked then x.trainTx + 1 else x.trainTx
      idle := !train }
    if train then { s1 with out := s1.out ++ [.weltCtl k 0x2D (withChk 0x2D (weltTrainPayload s k))] }
    else if x.idle then s1
    else { s1 with out := s1.out ++ [.weltCtl k 0x1E 0] }

/-- In TRAIN both match lines toward the downstream neighbour drive 1 while the slot counter's low 11 bits are 0 (R387). -/
def weltMarker (s : State) : State :=
  if (wport s 1).state = 3 ∧ s.wlt.slotOn ∧ s.wlt.slot % 2048 = 0 then
    { s with out := s.out ++ [.matchLine 0 s.wlt.slot true, .matchLine 1 s.wlt.slot true] }
  else s

/-- The TRAIN handshake completes: 8 TRAIN blocks with ACK received and 16 more sent (R127, R385); on the upstream port
the match lines are trained, `ml` cycles of raw delay, the last marker sampled `ago` cycles ago (R387). -/
def weltUp (s : State) (k ml ago : Nat) : State :=
  let x := wport s k
  if x.state = 3 ∧ x.parts = 7 ∧ x.acked ∧ 16 ≤ x.trainTx then
    if k = 0 ∧ ml > 8 then
      wevt (setWport s k { x with
        state := 1
        since := s.cycle
        mlDelay := ml }) k 4
    else
      let y := { WPort.off with
        state := 4
        since := s.cycle
        lanes := x.lanes
        nPos := x.nPos
        nCount := x.nCount
        nRole := x.nRole
        cntHi := x.cntHi
        mlDelay := if k = 0 then ml else 0
        lastCredit := s.cycle
        creditAt := s.cycle }
      let s1 := if k = 0 then { s with wlt := { s.wlt with
        slot := (x.cntHi * 2048 + 16 + 2 * ago) % 2 ^ 32
        slotOn := true } } else s
      auditBridge (wevt (markFrom (dlyReset (setWport s1 k y) (32 + k)) (32 + k)) k 0) k
  else s

/-- DESKEW or TRAIN for 2 ms (R385). -/
def weltTrainFail (s : State) (k : Nat) : State :=
  let x := wport s k
  if (x.state = 2 ∨ x.state = 3) ∧ x.since + 1600000 ≤ s.cycle then
    wevt (setWport s k { x with
      state := 1
      since := s.cycle }) k 4
  else s

/-- RESTART returns the port to SEEK (R385, R404). -/
def weltRestart (s : State) (k : Nat) : State :=
  if (wport s k).state = 0 then s else weltDown s k 1

/-- EN takes effect on the port's state (R385). -/
def weltEnApply (s : State) (k : Nat) : State :=
  if flag s (Reg.wltCtrl k) 0 then
    (if (wport s k).state = 0 ∧ s.img.applied then setWport s k { wport s k with
      state := 1
      since := s.cycle } else s)
  else if (wport s k).state = 0 then s
  else weltDown s k 0

/-- A write of WLT_CTRL[k] (R404). -/
def weltCtrlWrite (s : State) (m k v : Nat) : State :=
  let s1 := weltEnApply (fput (commitFields s m (Reg.wltCtrl k) v) (Reg.wltCtrl k) 31 31 0) k
  if bitOf v 31 then weltRestart s1 k else s1

/-- The payload of a CREDIT block (R383). -/
def creditPayload (x : WPort) (nak : Bool) : Nat :=
  x.freed.nat 0 % 128 * 2 ^ 49 + x.freed.nat 1 % 128 * 2 ^ 42 + x.freed.nat 2 % 32 * 2 ^ 37 + x.freed.nat 3 % 16 * 2 ^ 33 +
    x.freed.nat 4 % 16 * 2 ^ 29 + (x.expSeq + 4095) % 4096 * 2 ^ 17 + b2n nak * 2 ^ 16

/-- A port with the counts it returns now: a held welt port withholds its KEY and ANS credit, a held bridge that of its
classes, at the last counts told (R355). -/
def toTell (s : State) (k : Nat) : WPort :=
  let x := wport s k
  { x with freed := (List.range 5).foldl (fun m c => m.setNat c
      (if heldM s (if c ≤ 1 then 32 + k else 47) false then x.told.nat c else x.freed.nat c)) x.freed }

/-- Send a CREDIT block now. -/
def creditOut (s : State) (k : Nat) (nak : Bool) : State :=
  let x := wport s k
  let y := toTell s k
  let s1 := setWport s k { x with
    told := (List.range 5).foldl (fun m c => m.setNat c (y.freed.nat c)) (x.told.setNat 5 x.expSeq)
    creditAt := s.cycle }
  { s1 with out := s1.out ++ [.weltCtl k 0x33 (withChk 0x33 (creditPayload y nak))] }

/-- A count to return has changed since the last CREDIT block. -/
def creditChanged (x : WPort) : Bool :=
  (List.range 5).any (fun c => decide (x.freed.nat c ≠ x.told.nat c)) || decide (x.told.nat 5 ≠ x.expSeq)

/-- CREDIT_SEND (R383): on a change, at most once per 64 port blocks (33 cycles), and at least every 2 µs. -/
def creditSend (s : State) (k : Nat) : State :=
  let x := wport s k
  if x.sends ∧ ((creditChanged (toTell s k) ∧ x.creditAt + 33 ≤ s.cycle) ∨ x.creditAt + 1600 ≤ s.cycle) then creditOut s k false else s

/-- Resend every unacknowledged bridge frame (R388, R400). -/
def resendAll (s : State) (k : Nat) : State :=
  let x := wport s k
  let l := x.out.filter (fun e => e.lseq.isSome)
  let s1 := setWport s k { x with ackAt := s.cycle }
  l.foldl (fun st e => wlcnt (wlcnt (sendFrame st k (brgHeader e.f (e.lseq.getD 0)) (brgPayload e.f)) k 4 1) k 5 1) s1

/-- Is LSEQ n covered by ACK a, seen from the next LSEQ to be sent? -/
def ackCovers (next a n : Nat) : Bool := (next + 4096 - n) % 4096 > (next + 4096 - (a + 1) % 4096) % 4096

/-- A valid CREDIT block (R383, R388, R400): credits, bridge acknowledgement, and RESUME in answer to a NAK. -/
def creditReceive (s : State) (k key ans p np cpl ack : Nat) (nak : Bool) : State :=
  let x := wport s k
  if x.sends = false then s
  else
    let keep := x.out.filter (fun e => match e.lseq with
      | some n => !ackCovers x.nextSeq ack n
      | none => true)
    let s1 := setWport s k { x with
      lastCredit := s.cycle
      peerFreed := ((((x.peerFreed.setNat 0 key).setNat 1 ans).setNat 2 p).setNat 3 np).setNat 4 cpl
      out := keep
      ackAt := if keep.length < x.out.length then s.cycle else x.ackAt }
    let s2 := if nak then
        let y := wport s1 k
        resendAll { s1 with out := s1.out ++
          [.weltCtl k 0x99 (withChk 0x99 (y.sent.nat 0 % 128 * 2 ^ 49 + y.sent.nat 1 % 128 * 2 ^ 42))] } k
      else s1
    portPump (auditBridge s2 k) k

/-- BRIDGE_RESEND: frames outstanding and no ACK advance for 16 µs (R400). -/
def bridgeResend (s : State) (k : Nat) : State :=
  let x := wport s k
  if x.sends ∧ x.out.any (fun e => e.lseq.isSome) ∧ x.ackAt + 12800 ≤ s.cycle then resendAll s k else s

/-- A framing error (R388): NAK, and the receiving direction is in recovery. -/
def framingError (s : State) (k : Nat) : State :=
  let x := wport s k
  if x.state ≠ 4 then s
  else wlcnt (wevt (creditOut (setWport s k { x with
    state := 5
    since := s.cycle }) k true) k 3) k 6 1

/-- RESUME ends the recovery; what was lost frees its entries (R388). -/
def resumeReceive (s : State) (k keySent ansSent : Nat) : State :=
  let x := wport s k
  if x.state ≠ 5 then s
  else
    let lk := (keySent + 128 - x.rcvd.nat 0 % 128) % 128
    let la := (ansSent + 128 - x.rcvd.nat 1 % 128) % 128
    let y := { x with
      state := 4
      rcvd := (x.rcvd.setNat 0 (x.rcvd.nat 0 + lk)).setNat 1 (x.rcvd.nat 1 + la)
      freed := (x.freed.setNat 0 (x.freed.nat 0 + lk)).setNat 1 (x.freed.nat 1 + la) }
    wlcnt (wlcnt (setWport s k y) k 7 lk) k 8 la

/-- No RESUME within 10 µs of RECOVER (R385). -/
def recoverTimeout (s : State) (k : Nat) : State :=
  let x := wport s k
  if x.state = 5 ∧ x.since + 8000 ≤ s.cycle then weltDown s k 1 else s

/-- The ports a welt search needs at this device are UP (R390). -/
def weltPathUp (s : State) (t : Nat) : Bool :=
  (myPos s = wtFirst s t || (wport s 0).state = 4) && (myPos s = wtLast s t || (wport s 1).state = 4)

/-- Queue a key or an answer on a port. -/
def queueKey (s : State) (p : Nat) (k : WKey) : State :=
  portPump (setWport s p { wport s p with keyq := (wport s p).keyq ++ [k] }) p
def queueAns (s : State) (p : Nat) (a : WAns) : State :=
  portPump (setWport s p { wport s p with ansq := (wport s p).ansq ++ [a] }) p

/-- The stamp of a key that carries one, where STRADDLE is evaluated (R392). -/
def weltStamp (s : State) (k : WKey) : Option Stamp :=
  if k.segx ∧ ¬(wtMode s k.table = 2 ∧ wtSlice s k.table ≠ 0) then some ⟨k.key % 2 ^ 64, k.frac, k.unc⟩ else none

/-- The part of the key this member compares (R392). -/
def weltKey (s : State) (k : WKey) : Key :=
  BitVec.ofNat 640 (if wtMode s k.table = 2 then k.key >>> (8 * wtSlice s k.table) else k.key)

/-- Change a member's record. -/
def setMem (s : State) (r : WMem) : State :=
  { s with wlt := { s.wlt with mem := s.wlt.mem.map (fun x => if x.id = r.id then r else x) } }

/-- A member's search has its slot or granule: it forwards the key downstream with its own slot number, unless it is
LAST, and the key's entry is freed once that has gone (R382, R390). -/
def weltGranted (s : State) (id slot : Nat) : State :=
  match s.wlt.mem.find? (fun r => r.id = id) with
  | none => s
  | some r =>
    if r.sigma.isSome then s
    else
      let s1 := setMem s { r with sigma := some slot }
      if myPos s = wtLast s r.k.table then keyGone s1 r.k
      else queueKey s1 1 { r.k with
        leg := true
        sigma := slot % 2048 }

/-- A member starts on a LEG 1 key (R390, R392): it asks for a slot or a granule, charged to `m`; at throttle level 3 a
ternary member does not search. `sigmaAt` is the full number of the received SIGMA's slot. -/
def weltMember (s : State) (m : Nat) (k : WKey) (port : Nat) (sigmaAt : Option Nat) (at_ : Nat) : State :=
  match tblOf s k.table with
  | none => s
  | some d =>
    let id := s.wlt.nextId
    let refused := d.isTern && decide (actLevel s = 3) && decide (at_ ≤ s.cycle)
    let r : WMem := ⟨id, k, port, sigmaAt, none, refused⟩
    let s1 := { s with wlt := { s.wlt with
      nextId := id + 1
      mem := s.wlt.mem ++ [r] } }
    if refused then answerAt (weltGranted s1 id (slotNow s)) (s.cycle + 20) (.welt id) true Ans.miss
    else if d.isTern then
      present s1 m true (.slotSearch (.welt id) k.table (weltKey s k) (weltStamp s k)) at_ []
    else issueHash s1 m k.table (.welt id) (weltKey s k) true at_

/-- The origin issues a welt search (R390): unmet, and nothing sent, when a port on its path is not UP. -/
def weltIssue (s : State) (m tag epoch n t : Nat) (key : Nat) (seg : Bool) (st : Stamp) (at_ : Nat) : State :=
  if weltPathUp s t = false then s
  else
    let live := s.wlt.agg.filter (fun a => match flightOf s a.tag with
      | some f => decide (f.epoch = a.epoch)
      | none => false)
    let s1 := { s with wlt := { s.wlt with
      agg := live ++ [⟨tag, epoch, n, t, 0, 0, 8, 0, false, false, false, false, false⟩] } }
    let k : WKey := ⟨t, tag, epoch, n, myPos s, decide (myPos s = wtFirst s t), seg, 0, st.frac, st.unc, key, none⟩
    if myPos s = wtFirst s t then weltMember s1 m k 2 none at_
    else if at_ ≤ s.cycle then queueKey s1 0 k
    else { s1 with wlt := { s1.wlt with keys := s1.wlt.keys ++ [(at_, 0, k)] } }

/-- Keys of this device whose cycle has come are queued; on a port that is no longer UP none is (R390). -/
def weltKeysDue (s : State) : State :=
  let due := s.wlt.keys.filter (fun (e : Nat × Nat × WKey) => decide (e.1 ≤ s.cycle))
  if due = [] then s
  else
    due.foldl (fun st e => if (wport st e.2.1).state = 4 then queueKey st e.2.1 e.2.2 else st) { s with wlt := { s.wlt with
      keys := s.wlt.keys.filter (fun (e : Nat × Nat × WKey) => !decide (e.1 ≤ s.cycle)) } }

/-- What the welt ports do in a cycle by themselves: keys due, up to two blocks each, the marker. -/
def weltTick (s : State) : State :=
  weltMarker (weltFill (weltFill (weltFill (weltFill (weltKeysDue s) 0) 0) 1) 1)

/-- A key of this device still unsent when composition starts is not sent (R390). -/
def weltDropKeys (s0 : State) (tag epoch : Nat) : State :=
  let s := { s0 with wlt := { s0.wlt with
    keys := s0.wlt.keys.filter (fun (e : Nat × Nat × WKey) => !(decide (e.2.2.tag = tag) && decide (e.2.2.epoch = epoch))) } }
  (List.range 2).foldl (fun st p =>
    let x := wport st p
    let keep := x.keyq.filter (fun k =>
      !(decide (k.origin = myPos s) && decide (k.tag = tag) && decide (k.epoch = epoch) && k.frees.isNone && !k.leg))
    if keep.length < x.keyq.length then setWport st p { x with keyq := keep } else st) s

/-- The origin completes a welt search (R394): with a REFUSED or ABORT answer it does not contribute. A REFUSED one is a
ternary search refused at level 3 (R29, R202), an ABORT leaves the search unmet (R36). -/
def weltDone (s : State) (a : WAgg) (hit : Bool) : State :=
  let s1 := { s with wlt := { s.wlt with
    agg := s.wlt.agg.filter (fun x => !(decide (x.tag = a.tag) && decide (x.epoch = a.epoch) && decide (x.n = a.n))) } }
  if a.refused then
    (match flightOf s1 a.tag with
     | some f => refuseSearch s1 f a.n
     | none => s1)
  else if a.aborted then s1
  else
    giveAnswer s1 ⟨s.cycle, .desc a.tag a.epoch a.n, true,
      ⟨hit, hit && a.multi, a.straddle, a.part, if hit then a.result else 0, 0⟩⟩

/-- An answer reaches the origin (R392–R394). -/
def weltCollect (s : State) (w : WAns) : State :=
  match flightOf s w.tag, s.wlt.agg.find? (fun x => x.tag = w.tag ∧ x.epoch = w.epoch ∧ x.n = w.search) with
  | some f, some a =>
    if f.epoch ≠ w.epoch then vcnt s 6
    else
      let b := { a with
        count := a.count + 1
        hits := a.hits + b2n (w.kind = 3 && w.hit)
        multi := a.multi || w.multi || (w.kind = 3 && w.hit && decide (a.hits ≥ 1))
        part := a.part || w.part
        straddle := a.straddle || w.straddle
        best := if w.kind = 3 ∧ w.hit ∧ w.pos < a.best then w.pos else a.best
        result := if w.kind = 3 then (if w.hit ∧ w.pos < a.best then w.result else a.result)
          else if w.res then w.result else a.result
        refused := a.refused || decide (w.kind = 4)
        aborted := a.aborted || decide (w.kind = 5) }
      let s1 := { s with wlt := { s.wlt with
        agg := s.wlt.agg.map (fun x => if x.tag = a.tag ∧ x.epoch = a.epoch ∧ x.n = a.n then b else x) } }
      if w.kind = 2 then weltDone s1 b w.hit
      else if w.kind = 3 ∧ b.count = wtLast s a.table - wtFirst s a.table + 1 then weltDone s1 b (decide (b.hits > 0))
      else s1
  | _, _ => vcnt s 6

/-- A member's answer goes to the origin: internal there, a frame otherwise (R392). -/
def weltSay (s : State) (w : WAns) : State :=
  if w.origin = myPos s then weltCollect s w else queueAns s (portTo s w.origin) w

/-- A blank answer of a member about a key. -/
def ansOf (s : State) (k : WKey) (kind : Nat) : WAns :=
  ⟨kind, k.tag, k.epoch, k.search, k.origin, myPos s, false, false, false, false, false, 0, none⟩

/-- A member's own answer is there (R391–R393). `mi` is the match-line level its upstream neighbour drove for the
received SIGMA. -/
def weltAnswer (s0 : State) (id : Nat) (a : Ans) (mi : Bool) : State :=
  match s0.wlt.mem.find? (fun r => r.id = id) with
  | none => s0
  | some r0 =>
    let s := if r0.sigma.isNone then weltGranted s0 id (slotNow s0) else s0
    let k := r0.k
    let sigma := r0.sigma.getD (slotNow s0)
    let s1 := { s with wlt := { s.wlt with mem := s.wlt.mem.filter (fun x => x.id ≠ id) } }
    let isTern : Bool := match tblOf s k.table with
      | some d => d.isTern
      | none => true
    if isTern = false then
      weltSay s1 { ansOf s k 3 with
        hit := a.hit
        multi := a.multi
        part := a.part
        res := a.hit
        result := a.result }
    else
      let widen := decide (wtMode s k.table = 2)
      let last := decide (myPos s = wtLast s k.table)
      let m := if myPos s = wtFirst s k.table then widen else mi
      let late : Bool := match r0.sigmaAt with
        | some x => decide ((slotNow s + 2 ^ 32 - x % 2 ^ 32) % 2 ^ 32 ≥ 2000)
        | none => false
      let h := a.hit && !r0.refused
      let mo := if late then (if widen then false else h) else if widen then h && m else h || m
      let s2 := { s1 with out := s1.out ++ [.matchLine (sigma % 2) sigma mo] }
      let s3 := if late then wlcnt s2 0 10 1 else s2
      let s4 := if r0.refused && !late then wlcnt s3 (min r0.port 1) 11 1 else s3
      let stop := late || r0.refused
      let s5 := if stop then weltSay s4 (ansOf s k (if late then 5 else 4)) else s4
      let wins := !stop && !widen && h && !m
      let multi := !stop && (a.multi || (!widen && h && m))
      let base := { ansOf s k 0 with
        hit := h
        multi := multi
        part := a.part && !stop
        straddle := a.straddle && !stop }
      if last then
        let res := (wins || (widen && mo)) && !stop
        weltSay s5 { base with
          kind := 2
          hit := mo
          res := res
          result := if res then a.result else 0 }
      else if wins then weltSay s5 { base with
        res := true
        result := a.result }
      else if multi || base.part || base.straddle then weltSay s5 { base with kind := 1 }
      else s5

/-- The first answer of a member's search that is due. -/
def dueWelt (s : State) (tern : Bool) : Option PendAns :=
  s.vrd.answers.find? (fun a => decide (a.ternary = tern) && decide (a.due ≤ s.cycle) && (match a.who with
    | .welt _ => true
    | .desc _ _ _ => false
    | .cmd _ => false))

/-- Deliver the member answers of DRAM tables that are due (R393). -/
def deliverWelt (s : State) (fuel : Nat) : State :=
  match fuel with
  | 0 => s
  | n + 1 =>
    match dueWelt s false with
    | none => s
    | some a =>
      let s1 := { s with vrd := { s.vrd with answers := s.vrd.answers.erase a } }
      (match a.who with
       | .welt id => deliverWelt (weltAnswer s1 id a.ans false) n
       | .desc _ _ _ => deliverWelt s1 n
       | .cmd _ => deliverWelt s1 n)

/-- The fields of a received KEY frame (R379, R380). -/
def keyOf (k h : Nat) (payload : List Byte) : WKey :=
  let segx := bitOf h 31
  let p := if segx then payload.drop 2 else payload
  ⟨bitsOf h 59 54, bitsOf h 53 44, bitsOf h 43 38, bitsOf h 37 36, bitsOf h 35 33, bitOf h 32, segx, bitsOf h 30 20,
    if segx then fieldAt payload 0 1 else 0, if segx then fieldAt payload 1 1 else 0, ofLe p, some k⟩

/-- Whom a member's search is charged to (R348, R390): at the origin its tap port, elsewhere the receiving welt port. -/
def keyMaster (s : State) (y : WKey) (k : Nat) : Nat :=
  if y.origin = myPos s then (match flightOf s y.tag with
    | some f => f.port
    | none => 32 + k)
  else 32 + k

/-- A KEY frame arrives (R388, R390): passed on until FIRST, searched from there; a table not cascaded here is a framing
error. -/
def keyReceive (s : State) (k h : Nat) (payload : List Byte) : State :=
  let x := wport s k
  if x.state ≠ 4 then s
  else
    let y := keyOf k h payload
    if wtMode s y.table = 0 then framingError s k
    else
      let s1 := wlcnt (setWport s k { x with rcvd := x.rcvd.setNat 0 (x.rcvd.nat 0 + 1) }) k 1 1
      if y.leg = false ∧ myPos s ≠ wtFirst s y.table then queueKey s1 0 y
      else
        let now := slotNow s
        let full := now - (now + 2048 - y.sigma) % 2048
        weltMember s1 (keyMaster s y k) { y with leg := true } k (if y.leg then some full else none) s.cycle

/-- The fields of a received ANS frame. -/
def ansFrom (k h : Nat) (payload : List Byte) : WAns :=
  ⟨bitsOf h 59 57, bitsOf h 56 47, bitsOf h 46 41, bitsOf h 40 39, bitsOf h 38 36, bitsOf h 35 33, bitOf h 32, bitOf h 31,
    bitOf h 30, bitOf h 29, bitOf h 28, if bitOf h 28 then ofLe (payload.take 8) else 0, some k⟩

/-- An ANS frame arrives (R392–R394): forwarded toward its origin, or consumed there. -/
def ansReceive (s : State) (k h : Nat) (payload : List Byte) : State :=
  let x := wport s k
  if x.state ≠ 4 then s
  else
    let a := ansFrom k h payload
    let s1 := wlcnt (setWport s k { x with rcvd := x.rcvd.setNat 1 (x.rcvd.nat 1 + 1) }) k 3 1
    if a.origin = myPos s then freeEntry (weltCollect s1 a) k 1 1
    else queueAns s1 (portTo s a.origin) a

/-- Every ternary answer of a descriptor that has arrived by now reaches its search. -/
def deliverTern (s : State) : State :=
  let mine := fun (a : PendAns) => a.ternary && decide (a.due ≤ s.cycle) && match a.who with
    | .desc _ _ _ => true
    | .cmd _ => false
    | .welt _ => false
  (s.vrd.answers.filter mine).foldl giveAnswer
    { s with vrd := { s.vrd with answers := s.vrd.answers.filter (fun a => !mine a) } }

/-- A composition starts (R25); a key of a welt search still unsent is not sent any more (R390). -/
def composeOne (s : State) (f : Flight) : State := weltDropKeys (compose s f (composeAt f)) f.tag f.epoch

/-- Up to n compositions that are due, in order (R176). -/
def composeDue (n : Nat) (s : State) : State :=
  match n with
  | 0 => s
  | k + 1 =>
    match nextCompose s with
    | some f => composeDue k (composeOne s f)
    | none => s

/-- The accesses of this cycle to buckets and counters act before a host command does (R176, R179). -/
def accessesFirst (s : State) : State :=
  let t := deliverTern (deliverDue s)
  composeDue t.vrd.flights.length t

/-- WLT_STAT[k] as it reads now (R404). -/
def wltStatView (s : State) (k : Nat) : Nat :=
  let x := wport s k
  x.state * 2 ^ 29 + x.lanes * 2 ^ 25 + x.nPos * 2 ^ 22 + x.nCount * 2 ^ 19 + x.nRole * 2 ^ 16 + x.cause * 2 ^ 12 +
    x.mlDelay * 2 ^ 8

/-- WLT_CRED[k] as it reads now: no credits are held on a port that is not up (R404). -/
def wltCredView (s : State) (k : Nat) : Nat :=
  let x := wport s k
  if x.sends then
    creditsOf x 0 * 2 ^ 25 + creditsOf x 1 * 2 ^ 18 + creditsOf x 2 * 2 ^ 13 + creditsOf x 3 * 2 ^ 9 + creditsOf x 4 * 2 ^ 5
  else 0

/-- BRG_BUF[k] as it reads now (R407). -/
def brgBufView (s : State) (k : Nat) : Nat :=
  let x := wport s k
  let inUse := fun (c : Nat) => (x.inq.filter (fun f => f.cls = c)).length
  outUsed x 2 * 2 ^ 27 + outUsed x 3 * 2 ^ 23 + outUsed x 4 * 2 ^ 19 + inUse 2 * 2 ^ 14 + inUse 3 * 2 ^ 10 + inUse 4 * 2 ^ 6 +
    x.rsv * 2 ^ 2

end Sys2Proof.Machine
end

