-- ==== Sys2Proof/Machine/Exchange.lean ====
section
/-!
DEFINITION. Time on the links (R102–R107, R144, R145, R389): the delay exchange and the time marks of the tap ports
(0–31) and the welt ports (32 upstream, 33 downstream), and a slave that follows its upstream neighbour's marks.
-/
namespace Sys2Proof.Machine

/-- Is the link of a time port up? -/
def linkUp (s : State) (p : Nat) : Bool := if p < 32 then (tap s p).state = 4 else (wport s (p - 32)).sends

/-- Send a control block whose CHK is already there, or is added, on a time port. -/
def timeCtl (s : State) (p typ payload : Nat) : State :=
  { s with out := s.out ++ [if p < 32 then .tapCtl p typ payload else .weltCtl (p - 32) typ payload] }

/-- The sum of a list of integers. -/
def sumInt (l : List Int) : Int := l.foldl (fun a b => a + b) 0

/-- The mean round trip of the last 8 accepted exchanges, in 1/256 ns, rounded down (R102); 0 when there is none. -/
def meanRtt (d : Dly) : Int := if d.good = [] then 0 else sumInt d.good / (d.good.length : Int)

/-- dly_out: half the mean round trip plus the asymmetry (R102). -/
def dlyOut (s : State) (p : Nat) : Int :=
  let d := dlyOf s p
  if d.good = [] then 0 else sumInt d.good / (2 * (d.good.length : Int)) + sextI 16 (rd s (Reg.milPortAsym p))

/-- MIL_PORT_DLY[p] as it reads now (R105). -/
def portDlyView (s : State) (p : Nat) : Nat :=
  b2n (dlyOf s p).valid * 2 ^ 63 + toField 24 (meanRtt (dlyOf s p)) * 2 ^ 32 + toField 24 (dlyOut s p)

/-- A delay request is due: the first of a link, or a PERIOD after the last (R102). -/
def dreqDue (s : State) (p : Nat) : Bool :=
  linkUp s p && dreqTime s p

/-- DREQ_SEND (R102, R145, R146): once per PERIOD a port with its link up sends a request, on a tap port at a block boundary
that nothing before it takes; its egress `ago` × 125 ps ago is t1. -/
def dreqSend (s : State) (p ago : Nat) : State :=
  let d := dlyOf s p
  if dreqDue s p && (decide (32 ≤ p) || (turnFor s p && !fcDue s p)) then
    timeCtl (setDly (if p < 32 then tookBlock s p 1 else s) p { d with
      seq := d.seq + 1
      sentAt := s.cycle
      counted := false
      t1 := some (stampAgo256 s ago, s.cycle) }) p 0x55 (withChk 0x55 (d.seq % 65536 * 2 ^ 40))
  else s

/-- A response that is not used, or an exchange with none: counted on a tap port (R145, R156). -/
def dlyUnused (s : State) (p : Nat) : State := if p < 32 then tcnt s p 11 1 else s

/-- The same within the last exchange, which is counted once. -/
def dlyLost (s : State) (p : Nat) : State :=
  if (dlyOf s p).counted then s else dlyUnused (setDly s p { dlyOf s p with counted := true }) p

/-- A response carries the SEQ of the last request (R145). -/
def seqLast (d : Dly) (seq : Nat) : Bool := d.seq ≠ 0 && decide (seq = (d.seq + 65535) % 65536)

/-- The smallest of a list of integers, or `x`. -/
def minInt (x : Int) (l : List Int) : Int := l.foldl (fun a b => min a b) x

/-- DRSP_RECEIVE (R102, R103, R145): a response with the SEQ of the last request within 100 µs completes the exchange; it
is accepted unless its round trip exceeds the smallest of the last 8 by more than 2 ns. -/
def drspReceive (s : State) (p seq turn ago : Nat) : State :=
  let d := dlyOf s p
  if linkUp s p = false then s
  else
    match d.t1 with
    | none =>
      if seqLast d seq = false then dlyUnused s p
      else if d.sentAt + 80000 < s.cycle then dlyLost s p
      else s
    | some t1 =>
      if seqLast d seq = false ∨ t1.2 + 80000 < s.cycle then dlyLost s p
      else
        let rtt : Int := (stampAgo256 s ago : Int) - t1.1 - turn
        let all := (rtt :: d.all).take 8
        let d1 := { d with
          t1 := none
          all := all }
        if rtt ≤ minInt rtt all + 512 then
          let n := d.goodN + 1
          setDly s p { d1 with
            good := (rtt :: d.good).take 8
            goodN := n
            valid := d.valid || decide (n ≥ 8)
            lastGood := s.cycle }
        else setDly s p d1

/-- A neighbour's DREQ on a welt port, whose first bit came `ago` × 125 ps ago, is answered with a DRSP that carries its SEQ
and the turnaround (R145, R389; DESIGN CHOICE: the response leaves in the cycle of the request's arrival). -/
def dreqAnswer (s : State) (p seq ago : Nat) : State :=
  if linkUp s p && decide (32 ≤ p) then
    timeCtl s p 0x66 (withChk 0x66 (seq % 65536 * 2 ^ 40 + (stampAgo256 s 0 - stampAgo256 s ago) % 2 ^ 32 * 2 ^ 8))
  else s

/-- DRSP_LOST (R145): 100 µs after t1 without a usable response. -/
def drspLost (s : State) (p : Nat) : State :=
  let d := dlyOf s p
  match d.t1 with
  | none => s
  | some t1 => if linkUp s p ∧ t1.2 + 80000 < s.cycle then dlyLost (setDly s p { d with t1 := none }) p else s

/-- DLY_FAIL (R103): 16 periods with no accepted exchange. -/
def dlyFail (s : State) (p : Nat) : State :=
  let d := dlyOf s p
  if d.valid ∧ d.lastGood + 16 * dlyPeriod s ≤ s.cycle then
    setEvt (setDly s p { d with
      valid := false
      goodN := 0 }) Reg.milEvt 7
  else s

/-- The step a port announces with its marks: the master's pending step, or the one a slave has heard of (R107, R389). -/
def announced (s : State) : Option (Int × Nat) :=
  match s.mil.step with
  | some p => some p
  | none => s.mil.announce.map (fun (a : Int × Nat × Nat) => (a.1, a.2.1))

/-- Does a step exceed ±2⁴⁷ ns (R389)? -/
def bigStep (c : Int) : Bool := decide (absI c ≥ 2 ^ 87)

/-- TIME_MARK_SEND (R104, R106, R144, R389): at each multiple of 1,000 ns every tap port with its link up, and the
downstream welt port, sends TM0 and TM1 at a block boundary, and while a step is announced TS0 and TS1. -/
def timeMarkSend (s : State) (p ago : Nat) : State :=
  let ix := nowNs s / 1000
  if linkUp s p && decide (p ≠ 32) && markDue s p && (decide (32 ≤ p) || atBoundary s p) then
    let st := stampAgo256 s ago
    let out := dlyOut s p
    let ok := (dlyOf s p).valid && decide (0 ≤ out) && decide (out ≤ 0x7FFFFF)
    let tm0 := st / 256 % 2 ^ 56
    let tm1 := st / 256 / 2 ^ 56 % 256 * 2 ^ 48 + st % 256 * 2 ^ 40 + (if ok then toField 23 out else 0) * 2 ^ 17 +
      b2n ok * 2 ^ 16 + baseUnc s * 2 ^ 8
    let chk := (crcBytes 8 0x2F 0xFF (BitVec.ofNat 8 0x4B :: leBytes 7 tm0 ++ BitVec.ofNat 8 0x4C :: (leBytes 7 tm1).drop 1))
      ^^^ 0xFF
    let s0 := if p < 32 then tookMark s p ago else s
    let s1 := { s0 with mil := { s0.mil with lastMark := s0.mil.lastMark.setNat p (ix + 1) } }
    let s2 := timeCtl (timeCtl s1 p 0x4B tm0) p 0x4C (tm1 + chk)
    match (if p = 33 then announced s else none) with
    | none => s2
    | some a =>
      let ts1 := toField 8 (a.1 / 2 ^ 32) * 2 ^ 48 + (a.2 - st / 256) % 2 ^ 24 * 2 ^ 24 + b2n (bigStep a.1) * 2 ^ 23
      timeCtl (timeCtl s2 p 0x4D (withChk 0x4D (toField 48 (a.1 / 2 ^ 40) * 2 ^ 8))) p 0x4E (withChk 0x4E ts1)
  else s

/-- A slave's clock is set by a mark (R104, R107): at first at once, a backward correction with a profile enabled by
slew; once locked a small difference becomes the slew remainder, and a larger one loses WELT. -/
def followMark (s : State) (c : Int) : State :=
  if s.mil.state = 2 then
    (if absI c ≤ stepLim s then { s with mil := { s.mil with rem := c } } else sourceLost s)
  else if absI c ≤ stepLim s ∨ (c < 0 ∧ anyProfile s) then { s with mil := { s.mil with rem := c } }
  else takeStep { s with mil := { s.mil with rem := 0 } } c false

/-- TIME_MARK_RECEIVE (R92, R99, R104, R106, R107, R389): a mark on the upstream welt port of a slave. `ann` is the
announcement that came with it: the step in 2⁻⁴⁰ ns, the boundary minus the egress stamp in ns, BIG. -/
def timeMarkReceive (s : State) (egress dly : Nat) (valid : Bool) (base ago : Nat) (ann : Option (Int × Nat × Bool)) : State :=
  if linkUp s 32 = false ∨ s.img.weltPos = 0 ∨ s.mil.src ≠ 5 then s
  else
    let w := watchOf s 5
    let s1 := setWatch s 5 { w with
      lastOk := some s.cycle
      lost := false }
    let s2 := if s1.mil.state = 3 then servoState s1 1 else s1
    let heard := nowNs s
    let a := ann.map (fun (x : Int × Nat × Bool) =>
      let amount : Int := if x.2.2 then 2 ^ 87 else x.1
      let at_ := egress / 256 + x.2.1
      match s.mil.announce with
      | some old => if old.1 = amount ∧ old.2.1 = at_ then old else (amount, at_, heard)
      | none => (amount, at_, heard))
    let s3 := { s2 with mil := { s2.mil with
      announce := a
      marks := if valid then s2.mil.marks + 1 else 0
      markBase := base } }
    if valid = false then s3
    else
      let own := stampAgo256 s ago
      let c : Int := (((egress + dly : Nat) : Int) - own) * 2 ^ 32
      let s4 := followMark s3 c
      if s4.mil.state = 1 ∧ s4.mil.marks ≥ 8 then setValid (servoState s4 2) else s4

/-- STEP_BOUNDARY on any device (R96, R107, R389): a BIG step loses WELT at its boundary. -/
def boundaryReached (s : State) : State :=
  match s.mil.announce with
  | some a =>
    if s.mil.step.isNone ∧ bigStep a.1 ∧ a.2.1 * roadUnit ≤ s.mil.road then
      sourceLost { s with mil := { s.mil with announce := none } }
    else stepBoundary s
  | none => stepBoundary s

end Sys2Proof.Machine
end

