-- ==== Sys2Proof/Machine/Crypto.lean ====
section
/-!
DEFINITION. SHA-256 (FIPS 180-4) and ECDSA P-256 verification (FIPS 186-4), as the image loader and the life-cycle unit
use them (R57, R63, R66, R67, R509). The spec names the standards; their constants and steps are the standards' own.
-/
namespace Sys2Proof.Machine

/-- Round constants 0–7 of SHA-256. -/
def shaK0 : List Nat := [0x428A2F98, 0x71374491, 0xB5C0FBCF, 0xE9B5DBA5, 0x3956C25B, 0x59F111F1, 0x923F82A4, 0xAB1C5ED5]

/-- Round constants 8–15 of SHA-256. -/
def shaK1 : List Nat := [0xD807AA98, 0x12835B01, 0x243185BE, 0x550C7DC3, 0x72BE5D74, 0x80DEB1FE, 0x9BDC06A7, 0xC19BF174]

/-- Round constants 16–23 of SHA-256. -/
def shaK2 : List Nat := [0xE49B69C1, 0xEFBE4786, 0x0FC19DC6, 0x240CA1CC, 0x2DE92C6F, 0x4A7484AA, 0x5CB0A9DC, 0x76F988DA]

/-- Round constants 24–31 of SHA-256. -/
def shaK3 : List Nat := [0x983E5152, 0xA831C66D, 0xB00327C8, 0xBF597FC7, 0xC6E00BF3, 0xD5A79147, 0x06CA6351, 0x14292967]

/-- Round constants 32–39 of SHA-256. -/
def shaK4 : List Nat := [0x27B70A85, 0x2E1B2138, 0x4D2C6DFC, 0x53380D13, 0x650A7354, 0x766A0ABB, 0x81C2C92E, 0x92722C85]

/-- Round constants 40–47 of SHA-256. -/
def shaK5 : List Nat := [0xA2BFE8A1, 0xA81A664B, 0xC24B8B70, 0xC76C51A3, 0xD192E819, 0xD6990624, 0xF40E3585, 0x106AA070]

/-- Round constants 48–55 of SHA-256. -/
def shaK6 : List Nat := [0x19A4C116, 0x1E376C08, 0x2748774C, 0x34B0BCB5, 0x391C0CB3, 0x4ED8AA4A, 0x5B9CCA4F, 0x682E6FF3]

/-- Round constants 56–63 of SHA-256. -/
def shaK7 : List Nat := [0x748F82EE, 0x78A5636F, 0x84C87814, 0x8CC70208, 0x90BEFFFA, 0xA4506CEB, 0xBEF9A3F7, 0xC67178F2]

/-- The 64 round constants of SHA-256. -/
def shaK : List Nat := shaK0 ++ shaK1 ++ shaK2 ++ shaK3 ++ shaK4 ++ shaK5 ++ shaK6 ++ shaK7

/-- The initial hash value of SHA-256. -/
def shaH0 : List Nat := [0x6A09E667, 0xBB67AE85, 0x3C6EF372, 0xA54FF53A, 0x510E527F, 0x9B05688C, 0x1F83D9AB, 0x5BE0CD19]

/-- Rotate a 32-bit word right. -/
def rotr (x n : Nat) : Nat := (x >>> n) ||| (x <<< (32 - n)) % 2 ^ 32

/-- σ0, σ1, Σ0, Σ1 of SHA-256. -/
def shaS0 (x : Nat) : Nat := rotr x 7 ^^^ rotr x 18 ^^^ (x >>> 3)
def shaS1 (x : Nat) : Nat := rotr x 17 ^^^ rotr x 19 ^^^ (x >>> 10)
def shaB0 (x : Nat) : Nat := rotr x 2 ^^^ rotr x 13 ^^^ rotr x 22
def shaB1 (x : Nat) : Nat := rotr x 6 ^^^ rotr x 11 ^^^ rotr x 25

/-- Extend a schedule, held with its newest word first, by `k` words. -/
def shaExtend (k : Nat) (w : List Nat) : List Nat :=
  match k with
  | 0 => w
  | j + 1 =>
    shaExtend j (((shaS1 (w.getD 1 0) + w.getD 6 0 + shaS0 (w.getD 14 0) + w.getD 15 0) % 2 ^ 32) :: w)

/-- One round on the working variables a…h. -/
def shaRound (v : List Nat) (kw : Nat × Nat) : List Nat :=
  let a := v.getD 0 0
  let b := v.getD 1 0
  let c := v.getD 2 0
  let e := v.getD 4 0
  let f := v.getD 5 0
  let g := v.getD 6 0
  let ch := (e &&& f) ^^^ ((e ^^^ (2 ^ 32 - 1)) &&& g)
  let maj := (a &&& b) ^^^ (a &&& c) ^^^ (b &&& c)
  let t1 := v.getD 7 0 + shaB1 e + ch + kw.1 + kw.2
  let t2 := shaB0 a + maj
  [(t1 + t2) % 2 ^ 32, a, b, c, (v.getD 3 0 + t1) % 2 ^ 32, e, f, g]

/-- The big-endian number of some bytes. -/
def ofBe (bs : List Byte) : Nat := bs.foldl (fun a b => a * 256 + b.toNat) 0

/-- `n` big-endian bytes of a number. -/
def beBytes (n v : Nat) : List Byte := (leBytes n v).reverse

/-- One 64-byte block. -/
def shaBlock (h : List Nat) (blk : List Byte) : List Nat :=
  let w0 := (List.range 16).map (fun i => ofBe (slice blk (4 * i) 4))
  let w := (shaExtend 48 w0.reverse).reverse
  let v := (shaK.zip w).foldl shaRound h
  (h.zip v).map (fun p => (p.1 + p.2) % 2 ^ 32)

/-- `n` blocks in turn. -/
def shaBlocks (n : Nat) (h : List Nat) (bs : List Byte) : List Nat :=
  match n with
  | 0 => h
  | k + 1 => shaBlocks k (shaBlock h (bs.take 64)) (bs.drop 64)

/-- SHA-256 of some bytes, as its 32 digest bytes. -/
def sha256 (bs : List Byte) : List Byte :=
  let z := (119 - bs.length % 64) % 64
  let m := bs ++ (0x80 : Byte) :: List.replicate z 0 ++ beBytes 8 (8 * bs.length)
  (shaBlocks (m.length / 64) shaH0 m).flatMap (beBytes 4)

/-- The prime, the order and the base point of P-256. -/
def p256P : Nat := 2 ^ 256 - 2 ^ 224 + 2 ^ 192 + 2 ^ 96 - 1
def p256N : Nat := 0xFFFFFFFF00000000FFFFFFFFFFFFFFFFBCE6FAADA7179E84F3B9CAC2FC632551
def p256B : Nat := 0x5AC635D8AA3A93E7B3EBBD55769886BC651D06B0CC53B0F63BCE3C3E27D2604B
def p256G : Nat × Nat :=
  (0x6B17D1F2E12C4247F8BCE6E563A440F277037D812DEB33A0F4A13945D898C296,
   0x4FE342E2FE1A7F9B8EE7EB4A7C0F9E162BCE33576B315ECECBB6406837BF51F5)

/-- b ^ e mod m over the low `k` bits of e. -/
def powMod (k b e m : Nat) : Nat :=
  match k with
  | 0 => 1 % m
  | j + 1 =>
    let r := powMod j (b * b % m) (e / 2) m
    if e % 2 = 1 then b * r % m else r

/-- The inverse modulo a prime of 256 bits. -/
def invMod (a m : Nat) : Nat := powMod 256 (a % m) (m - 2) m

/-- a − b modulo m. -/
def subMod (a b m : Nat) : Nat := (a % m + m - b % m) % m

/-- Point addition on P-256; none is the point at infinity. -/
def ecAdd (a b : Option (Nat × Nat)) : Option (Nat × Nat) :=
  match a, b with
  | none, x => x
  | x, none => x
  | some p, some q =>
    let dbl := decide (p.1 = q.1) && decide (p.2 = q.2) && decide (p.2 ≠ 0)
    if p.1 = q.1 ∧ dbl = false then none
    else
      let l := if dbl then (3 * p.1 * p.1 + (p256P - 3)) * invMod (2 * p.2) p256P % p256P
        else subMod q.2 p.2 p256P * invMod (subMod q.1 p.1 p256P) p256P % p256P
      let x := subMod (l * l) (p.1 + q.1) p256P
      some (x, subMod (l * subMod p.1 x p256P) p.2 p256P)

/-- k × a over the low `n` bits of k. -/
def ecMul (n k : Nat) (a : Option (Nat × Nat)) : Option (Nat × Nat) :=
  match n with
  | 0 => none
  | j + 1 =>
    let r := ecMul j (k / 2) (ecAdd a a)
    if k % 2 = 1 then ecAdd a r else r

/-- Is (x, y) a point of P-256? -/
def onCurve (x y : Nat) : Bool :=
  decide (x < p256P) && decide (y < p256P) &&
    decide (y * y % p256P = (x * x * x + (p256P - 3) * x + p256B) % p256P)

/-- ECDSA P-256 verification of signature (r, s) over a digest (FIPS 186-4). -/
def ecdsaOk (x y r s : Nat) (digest : List Byte) : Bool :=
  onCurve x y && decide (0 < r) && decide (r < p256N) && decide (0 < s) && decide (s < p256N) &&
    (let w := invMod s p256N
     let e := ofBe digest
     match ecAdd (ecMul 256 (e * w % p256N) (some p256G)) (ecMul 256 (r * w % p256N) (some (x, y))) with
     | none => false
     | some q => decide (q.1 % p256N = r))

end Sys2Proof.Machine
end

