-- ==== Sys2Proof/Machine/Image.lean ====
section
/-!
DEFINITION. The last image (R50–R82, R118, R157, R161–R168, R236, R306, R375): its parts, authentication and admission.
What apply writes stands in Apply.lean.
-/
namespace Sys2Proof.Machine

/-- An entry of the section table (R55), with its index. -/
structure Sect where
  idx : Nat
  typ : Nat
  off : Nat
  len : Nat
  crc : Nat
  rsv : Nat
  deriving DecidableEq, Repr

/-- Header fields (R54). -/
def imgLength (b : List Byte) : Nat := fieldAt b 12 4
def imgSects (b : List Byte) : Nat := fieldAt b 16 2
def imgFlags (b : List Byte) : Nat := fieldAt b 18 2
def imgIdOf (b : List Byte) : Nat := fieldAt b 24 8

/-- The section table. -/
def sects (b : List Byte) : List Sect :=
  (List.range (imgSects b)).map (fun i =>
    let o := 64 + 16 * i
    ⟨i, fieldAt b o 2, fieldAt b (o + 4) 4, fieldAt b (o + 8) 4, fieldAt b (o + 12) 4, fieldAt b (o + 2) 2⟩)

/-- The section of a type. -/
def sectOf (b : List Byte) (t : Nat) : Option Sect := (sects b).find? (fun x => x.typ = t)

/-- Its bytes; none when absent. -/
def sectBytes (b : List Byte) (t : Nat) : List Byte :=
  match sectOf b t with
  | some x => slice b x.off x.len
  | none => []

/-- The index of the section of a type, for ADMIT_SECT (R69); a section the image does not have has none: a free value. -/
def sectIdx (b : List Byte) (t : Nat) : Nat :=
  match sectOf b t with
  | some x => x.idx
  | none => (Config.absentSect t).toNat

/-- A 32-bit word of a record. -/
def word (bs : List Byte) (i : Nat) : Nat := fieldAt bs (4 * i) 4

/-- Records of `n` bytes. -/
def records (bs : List Byte) (n : Nat) : List (List Byte) :=
  (List.range (bs.length / n)).map (fun i => slice bs (n * i) n)

/-- A table declaration and its ID (R60). -/
def tblRecord (r : List Byte) : Nat × TblDecl :=
  (bitsOf (word r 0) 7 0,
   ⟨bitsOf (word r 0) 23 16, bitOf (word r 0) 11, bitOf (word r 0) 10, bitOf (word r 0) 9, bitOf (word r 0) 8,
    bitsOf (word r 1) 26 25, bitsOf (word r 1) 24 16, bitsOf (word r 1) 15 8, bitsOf (word r 1) 7 0, word r 2, word r 3,
    bitsOf (word r 4) 25 16, bitsOf (word r 4) 15 0, word r 5,
    (((slice r 32 16).map (fun x => x.toNat)).filter (fun l => l ≠ 0))⟩)

/-- All table declarations. -/
def imgTables (b : List Byte) : List (Nat × TblDecl) := (records (sectBytes b 4) 64).map tblRecord

/-- Ternary kinds; entries that fit (R204). -/
def declTern (d : TblDecl) : Bool := d.kind ≤ 1
def declEntries (d : TblDecl) : Nat := d.blocks * 8192 / 2 ^ d.width

/-- The key width of a table, for the KEY_WIDTH check (R60, R165). -/
def keyWidth (d : TblDecl) : Nat := if declTern d then 80 * 2 ^ d.width else d.keyBits

/-- WAYMARK section: BASE, PAGES, SEARCH_ID (R306). -/
def wayBaseOf (b : List Byte) : Nat := fieldAt (sectBytes b 9) 0 4
def wayPagesOf (b : List Byte) : Nat := bitsOf (fieldAt (sectBytes b 9) 4 4) 16 0
def waySearchOf (b : List Byte) : Option Nat :=
  let w := fieldAt (sectBytes b 9) 12 4
  if bitOf w 7 then some (bitsOf w 5 0) else none

/-- Profile records (R61), 32 bytes each. -/
def imgProfiles (b : List Byte) : List (List Byte) := records (sectBytes b 7) 32
def profNo (r : List Byte) : Nat := bitsOf (word r 0) 29 24
def profSearches (r : List Byte) : List Nat := (List.range 4).map (fun n => bitsOf (word r 1) (8 * n + 7) (8 * n))
def profWayEn (r : List Byte) : Bool := bitOf (word r 6) 28

/-- A profile touches DRAM (R61, R168): a search names a DRAM table or SEARCH_ID, or it inserts waymarks. -/
def touchesDram (ts : List (Nat × TblDecl)) (search : Option Nat) (r : List Byte) : Bool :=
  profWayEn r || (profSearches r).any (fun t => t ≠ 255 &&
    (decide (search = some t) || ts.any (fun e => e.1 = t && !declTern e.2)))

/-- Cobbler programs (R167): PROGRAM, STEPS and the step words; `n` bounds the number of records read. -/
def imgPrograms (n : Nat) (bs : List Byte) : List (Nat × Nat × List Nat) :=
  match n with
  | 0 => []
  | k + 1 =>
    if bs.length < 8 then []
    else
      let st := fieldAt bs 1 1
      (fieldAt bs 0 1, st, (List.range st).map (fun i => fieldAt bs (8 + 4 * i) 4)) ::
        imgPrograms k (bs.drop (8 + cdiv (4 * st) 8 * 8))

/-- The programs of an image. -/
def programsOf (b : List Byte) : List (Nat × Nat × List Nat) := imgPrograms 65 (sectBytes b 6)

/-- The reserved bytes and the padding of every program record are zero (R167). -/
def programsClean (n : Nat) (bs : List Byte) : Bool :=
  match n with
  | 0 => true
  | k + 1 =>
    if bs.length < 8 then true
    else
      let st := fieldAt bs 1 1
      decide (fieldAt bs 2 6 = 0) && (decide (st % 2 = 0) || decide (fieldAt bs (8 + 4 * st) 4 = 0)) &&
        programsClean k (bs.drop (8 + cdiv (4 * st) 8 * 8))

/-- How many key bits a step writes; 0: none (R163, R164). -/
def stepWidth (w : Nat) : Nat :=
  match bitsOf w 31 28 with
  | 1 => bitsOf w 5 0 + 1
  | 2 => 16
  | 3 =>
    (match bitsOf w 15 8 with
     | 0 => 5
     | 1 => 4
     | 2 => 6
     | 3 => 64
     | 4 => 8
     | 5 => 8
     | 6 => 3
     | _ => 0)
  | _ => 0

/-- A step is well coded (R163, R164): no reserved code, no non-zero reserved bit. -/
def stepOk (w : Nat) : Bool :=
  match bitsOf w 31 28 with
  | 0 => decide (w = 0)
  | 1 => true
  | 2 => true
  | 3 => decide (bitsOf w 15 8 ≤ 6) && decide (bitsOf w 7 0 = 0)
  | 4 => decide (bitsOf w 25 0 = 0)
  | _ => false

/-- A program writes a key after emitting it, or emits a key twice (R165). -/
def emitsTwice (steps : List Nat) (done : List Nat) : Bool :=
  match steps with
  | [] => false
  | w :: t =>
    let k := bitsOf w 27 26
    if bitsOf w 31 28 = 4 then done.contains k || emitsTwice t (k :: done)
    else if stepWidth w > 0 ∧ done.contains k then true
    else emitsTwice t done

/-- The KEY_WIDTH check of a program against the widths of a profile's searches; none: no such search (R165). -/
def programFits (steps : List Nat) (widths : List (Option Nat)) : Bool :=
  let emits := fun (k : Nat) => steps.any (fun w => decide (bitsOf w 31 28 = 4) && decide (bitsOf w 27 26 = k))
  (List.range 4).all (fun k =>
    match widths.getD k none with
    | none => !emits k
    | some n => emits k && steps.all (fun w =>
        decide (bitsOf w 27 26 ≠ k) || decide (stepWidth w = 0) || decide (bitsOf w 25 16 + stepWidth w ≤ n)))

/-- A register value as an image holds it: every written field allowed, every other bit zero (R118, R157). -/
def valueOk (off v : Nat) : Bool :=
  match regRow off with
  | none => false
  | some r =>
    r.fields.all (fun f => (f.acc = .rw || f.acc = .rwl) && f.allows (bitsOf v f.hi f.lo) || decide (bitsOf v f.hi f.lo = 0)
      && (f.acc ≠ .rw && f.acc ≠ .rwl)) &&
    decide (r.fields.foldl (fun a f => putBits a f.hi f.lo 0) v = 0)

/-- The registers of the TIME section, by word (R118). -/
def timeRegs : List Nat :=
  [Reg.milCtrl, Reg.milServo, Reg.milUncCfg, Reg.milHold, Reg.milDlyCtrl] ++
    (List.range 34).map Reg.milPortAsym ++
    (List.range 8).flatMap (fun n => [Reg.milTrigCtrl n, Reg.milTrigStart n, Reg.milTrigPeriod n, Reg.milTrigPhase n,
      Reg.milTrigWidth n]) ++
    [Reg.milPpsOut 0, Reg.milPpsOfs 0, Reg.milPpsOut 1, Reg.milPpsOfs 1]

/-- All bytes from a to b are zero. -/
def zeros (bs : List Byte) (a n : Nat) : Bool := decide (fieldAt bs a n = 0)

/-- Every pair of a list satisfies `p`. -/
def pairwise {α : Type} (p : α → α → Bool) (l : List α) : Bool :=
  match l with
  | [] => true
  | a :: t => t.all (p a) && pairwise p t

/-- Two half-open ranges do not meet. -/
def apart (a n b m : Nat) : Bool := n = 0 || m = 0 || decide (a + n ≤ b) || decide (b + m ≤ a)

/-- FIELD of DEVICE (R58, R59, R375). -/
def deviceOk (b : List Byte) : Bool :=
  let d := sectBytes b 1
  let w := fieldAt d 4 4
  let pos := bitsOf w 2 0
  let cnt := bitsOf w 5 3
  let en := bitsOf w 10 9
  decide (d.length = 16) && decide (w / 2 ^ 11 = 0) && zeros d 8 8 && decide (pos ≤ cnt) &&
    (if cnt = 0 then decide (en = 0)
     else decide (bitOf en 0 = decide (pos ≠ 0)) && decide (bitOf en 1 = decide (pos ≠ cnt)))

/-- FIELD of PORTS (R157). -/
def portsOk (b : List Byte) : Bool :=
  let p := sectBytes b 2
  decide (p.length = 512) && (List.range 32).all (fun i =>
    let r := slice p (16 * i) 16
    valueOk (Reg.tapCtrl i) (word r 0) && valueOk (Reg.tapEvtEn i) (word r 1) && zeros r 8 8 &&
      decide (bitOf (word r 0) 0 = bitOf (fieldAt (sectBytes b 1) 0 4) i))

/-- FIELD of CLASSES (R62). -/
def classesOk (b : List Byte) : Bool :=
  let c := sectBytes b 3
  decide (c.length = 192) && zeros c 2 2 && zeros c 6 10 && decide (1 ≤ fieldAt c 0 2) && decide (1 ≤ fieldAt c 4 2) &&
    (List.range 8).all (fun i => zeros c (16 + 16 * i + 2) 2 && zeros c (16 + 16 * i + 6) 2 && zeros c (16 + 16 * i + 10) 6) &&
    (List.range 48).all (fun m => decide (fieldAt c (144 + m) 1 < 8))

/-- Prefix lengths strictly decrease, from the first byte on (R60). -/
def lengthsOk (bs : List Nat) : Bool :=
  match bs with
  | [] => true
  | a :: t =>
    match t with
    | [] => true
    | c :: _ => (decide (c = 0) || decide (c < a)) && lengthsOk t

/-- FIELD of one table record (R60, R236, R313). -/
def tableOk (r : List Byte) : Bool :=
  let d := (tblRecord r).2
  let ls := (slice r 32 16).map (fun x => x.toNat)
  decide (d.kind ≤ 5) && decide (bitsOf (word r 0) 31 24 = 0) && decide (bitsOf (word r 0) 15 12 = 0) &&
    decide (word r 1 / 2 ^ 27 = 0) && decide (word r 4 / 2 ^ 26 = 0) && zeros r 24 8 && zeros r 48 16 &&
    (if declTern d then
      decide (1 ≤ d.blocks) && decide (d.blocks ≤ 32) && decide (d.first ≤ 31) && !d.age && !d.learn && zeros r 8 16 &&
        zeros r 32 16
     else
      decide (word r 1 = 0) && !d.sig && !d.ordered && decide (d.base % 4 = 0) && decide (d.size % 4 = 0) &&
        decide (8 ≤ d.size) && (if d.age then decide (1 ≤ d.ageLimit) else decide (d.ageLimit = 0)) &&
        (if d.kind = 5 then
          !d.learn && decide (1 ≤ d.bloom) && decide (d.bloom ≤ 8192) && decide (1 ≤ d.keyBits) && decide (d.keyBits ≤ 640) &&
            lengthsOk ls && decide (d.lengths ≠ []) && d.lengths.all (fun l => decide (l ≤ d.keyBits)) &&
            decide (8 * d.bloom + 8 * d.lengths.length ≤ d.size)
         else
          decide (d.bloom = 0) && zeros r 32 16 &&
            decide (if d.kind = 2 then d.keyBits = 64 else if d.kind = 3 then d.keyBits = 128
              else 1 ≤ d.keyBits ∧ d.keyBits ≤ 448)))

/-- FIELD of SELECTOR (R161). -/
def selectorOk (b : List Byte) : Bool :=
  let s := sectBytes b 5
  let declared := fun (n : Nat) => (imgProfiles b).any (fun r => profNo r = n)
  decide (s = []) || (decide (s.length = 16400) && !bitOf (fieldAt s 0 1) 6 && zeros s 1 15 &&
    (List.range 512).all (fun i =>
      let e := slice s (16 + 32 * i) 32
      let value := fieldAt e 0 10
      let care := fieldAt e 16 10
      let v := fieldAt e 26 1
      zeros e 10 6 && !bitOf v 6 && zeros e 27 5 && decide (value &&& care = value) &&
        (!bitOf v 7 || declared (bitsOf v 5 0))))

/-- FIELD of COBBLER (R163–R167). -/
def cobblerOk (b : List Byte) : Bool :=
  let ps := programsOf b
  programsClean 65 (sectBytes b 6) && decide (ps.length ≤ 64) && pairwise (fun p q => decide (p.1 ≠ q.1)) ps &&
    ps.all (fun p => decide (p.1 ≤ 63) && p.2.2.all stepOk && !emitsTwice p.2.2 [])

/-- FIELD of one profile record (R61, R168). -/
def profileOk (r : List Byte) : Bool :=
  let none_ := fun (n : Nat) => decide ((profSearches r).getD n 255 = 255)
  let src := fun (c : Nat) => decide (c ≤ 6)
  !bitOf (word r 0) 30 && !bitOf (word r 0) 15 && decide (bitsOf (word r 2) 31 24 = 0) &&
    (List.range 4).all (fun n => !none_ n ||
      (decide (bitsOf (word r 2) (17 + 2 * n) (16 + 2 * n) = 0) && decide (bitsOf (word r 2) (4 * n + 3) (4 * n) = 0))) &&
    [4, 5].all (fun w => decide (bitsOf (word r w) 25 16 = 0) && src (bitsOf (word r w) 30 28)) && !bitOf (word r 4) 26 &&
    decide (bitsOf (word r 6) 19 16 = 0) && src (bitsOf (word r 6) 31 29) && decide (word r 7 = 0)

/-- FIELD of TIME (R109, R110, R118). -/
def timeOk (b : List Byte) : Bool :=
  let t := sectBytes b 8
  decide (t = []) || (decide (t.length = 664) &&
    (timeRegs.zip (List.range 83)).all (fun e => valueOk e.1 (fieldAt t (8 * e.2) 8)) &&
    (List.range 8).all (fun n =>
      let c := fieldAt t (8 * (39 + 5 * n)) 4
      let p := fieldAt t (8 * (41 + 5 * n)) 4
      let w := fieldAt t (8 * (43 + 5 * n)) 4
      !bitOf c 1 || (decide (1000 ≤ p) && decide (fieldAt t (8 * (42 + 5 * n)) 4 < p) && decide (8 ≤ w) &&
        decide (w + 8 ≤ p))))

/-- FIELD of WAYMARK (R306). -/
def waymarkOk (b : List Byte) : Bool :=
  let w := sectBytes b 9
  let uses := (imgProfiles b).any (fun r => profWayEn r || (match waySearchOf b with
    | some t => (profSearches r).contains t
    | none => false))
  if w = [] then !uses
  else
    let press := fieldAt w 8 4
    let c := fieldAt w 12 4
    decide (w.length = 32) && decide (fieldAt w 0 4 % 256 = 0) && decide (fieldAt w 4 4 ≤ 65536) && zeros w 16 16 &&
      decide (bitsOf c 31 26 = 0) && decide (bitsOf c 15 8 = 0) && !bitOf c 6 && decide (1 ≤ bitsOf c 25 16) &&
      decide (bitsOf c 25 16 ≤ 1000) && decide (press % 65536 < press / 65536) && decide (press / 65536 ≤ wayPagesOf b) &&
      !(decide (wayPagesOf b = 0) && uses)

/-- An entry of REGWRITES addresses only RW or RWL fields outside IMG, LCS, NVC and PWR (R64). -/
def regwriteOk (off v : Nat) : Bool :=
  let base := if (regRow off).isSome then off else off - 4
  match regRow base with
  | none => false
  | some r =>
    decide (off % 4 = 0) && !([1, 2, 21, 22].contains (off / 0x10000)) && (decide (off = base) || r.wide) &&
      r.fields.any (fun f => f.acc = .rw || f.acc = .rwl) &&
      r.fields.all (fun f => f.acc = .rw || f.acc = .rwl ||
        decide (bitsOf (v * 2 ^ (8 * (off - base))) f.hi f.lo = 0))

/-- The register writes of an image. -/
def regwrites (b : List Byte) : List (Nat × Nat) := (records (sectBytes b 0xA) 8).map (fun r => (word r 0, word r 1))

/-- The sum of a list of numbers. -/
def sumNat (l : List Nat) : Nat := l.foldl (fun a b => a + b) 0

/-- Report a failure in the section of a type. -/
def failIn (b : List Byte) (bad : Bool) (code t : Nat) : Option (Nat × Nat) :=
  if bad then some (code, sectIdx b t) else none

/-- Admission, checks 0x01 to 0x08 (R69). -/
def admitTables (b : List Byte) : List (Option (Nat × Nat)) :=
  let ss := sects b
  let ts := imgTables b
  let tern := ts.filter (fun e => declTern e.2)
  let dram := ts.filter (fun e => !declTern e.2)
  let badType := ss.find? (fun x => decide (x.typ = 0) || decide (0xD ≤ x.typ) ||
    decide (1 < (ss.filter (fun y => y.typ = x.typ)).length) || decide (x.off % 16 ≠ 0) ||
    decide (x.off < 64 + 16 * ss.length) || decide (imgLength b < x.off + x.len + 128) ||
    ss.any (fun y => decide (y.idx < x.idx) && !apart x.off x.len y.off y.len))
  [failIn b ([1, 2, 3, 0xB].any (fun t => (sectOf b t).isNone)) 1
     (([1, 2, 3, 0xB].find? (fun t => (sectOf b t).isNone)).getD 0),
   match badType with
   | some x => some (2, x.idx)
   | none => none,
   failIn b (ts.any (fun e => decide (63 < e.1) || decide (1 < (ts.filter (fun f => f.1 = e.1)).length)) ||
     (match waySearchOf b with
      | some t => ts.any (fun e => e.1 = t)
      | none => false)) 3 4,
   failIn b (tern.any (fun e => decide (32 < e.2.first + e.2.blocks)) ||
     !pairwise (fun e f => apart e.2.first e.2.blocks f.2.first f.2.blocks) tern) 4 4,
   failIn b (decide (8 < sumNat ((tern.filter (fun e => e.2.kind = 1)).map (fun (e : Nat × TblDecl) => e.2.blocks))) ||
     tern.any (fun e => decide (e.2.kind = 1) && decide (e.2.width ≠ 1))) 5 4,
   failIn b (tern.any (fun e => decide (e.2.layby ≠ 0) &&
     (decide (e.2.layby < 8) || decide (256 < e.2.layby) || decide (8192 < declEntries e.2)))) 6 4,
   failIn b (dram.any (fun e => decide (67108864 < e.2.base + e.2.size) ||
       !apart e.2.base e.2.size (wayBaseOf b) (256 * wayPagesOf b)) ||
     !pairwise (fun e f => apart e.2.base e.2.size f.2.base f.2.size) dram ||
     decide (67108864 < wayBaseOf b + 256 * wayPagesOf b)) 7
     (if decide (67108864 < wayBaseOf b + 256 * wayPagesOf b) then 9 else 4),
   failIn b (decide (8192 < sumNat (dram.map (fun (e : Nat × TblDecl) => e.2.bloom)))) 8 4]

/-- The key width a profile's search needs; none when there is no search. -/
def searchWidth (b : List Byte) (t : Nat) : Option Nat :=
  if t = 255 then none
  else if waySearchOf b = some t then some 80
  else some (match (imgTables b).find? (fun e => e.1 = t) with
    | some e => keyWidth e.2
    | none => 0)

/-- Admission, checks 0x09 to 0x0D (R61, R69, R165, R167). -/
def admitProfiles (b : List Byte) : List (Option (Nat × Nat)) :=
  let ps := imgProfiles b
  let ts := imgTables b
  let progs := programsOf b
  let progNo := fun (r : List Byte) => bitsOf (word r 0) 23 16
  [failIn b (ps.any (fun r =>
     let l := profSearches r
     let used := l.filter (fun t => t ≠ 255)
     !pairwise (fun x y => decide (x ≠ y)) used || decide (l.take used.length ≠ used))) 9 7,
   failIn b (ps.any (fun r => (profSearches r).any (fun t =>
     decide (t ≠ 255) && decide (waySearchOf b ≠ some t) && !ts.any (fun e => e.1 = t)))) 0xA 7,
   failIn b (ps.any (fun r =>
     let d := bitsOf (word r 0) 14 0
     decide (d < if touchesDram ts (waySearchOf b) r then 512 else 48))) 0xB 7,
   failIn b (ps.any (fun r => match progs.find? (fun p => p.1 = progNo r) with
     | some p => !programFits p.2.2 ((profSearches r).map (searchWidth b))
     | none => false)) 0xC 6,
   failIn b (progs.any (fun p => decide (p.2.1 < 1) || decide (48 < p.2.1)) ||
     ps.any (fun r => !progs.any (fun p => p.1 = progNo r))) 0xD
     (if progs.any (fun p => decide (p.2.1 < 1) || decide (48 < p.2.1)) then 6 else 7)]

/-- Admission, checks 0x0E to 0x15 (R20, R62–R64, R69, R157). -/
def admitRest (b : List Byte) : List (Option (Nat × Nat)) :=
  let ports := (records (sectBytes b 2) 16).map (fun r => word r 0)
  let on := ports.filter (fun v => bitOf v 0)
  let c := sectBytes b 3
  let guar := fun (o : Nat) => sumNat ((List.range 8).map (fun i => fieldAt c (16 + 16 * i + o) 2))
  let fw := sectBytes b 0xB
  let code := fieldAt fw 0 4
  let quadBad := (List.range 8).any (fun q =>
    let m := ((List.range 4).map (fun i => ports.getD (4 * q + i) 0)).filter (fun v => bitOf v 8)
    decide (m.length = 1) || m.any (fun v => !bitOf v 0))
  [failIn b (decide (512 < sumNat (on.map (fun v => bitsOf v 23 16)))) 0xE 2,
   failIn b quadBad 0xF 2,
   failIn b (decide (1600 < fieldAt c 0 2) || decide (1440 < fieldAt c 4 2)) 0x10 3,
   failIn b (decide (fieldAt c 0 2 < guar 0) || decide (fieldAt c 4 2 < guar 4)) 0x11 3,
   failIn b ((List.range 8).any (fun i => decide (fieldAt c (16 + 16 * i + 8) 2 < 16))) 0x12 3,
   failIn b (decide (262144 < code) || decide (code ≤ fieldAt fw 4 4) || decide (fw.length < 256 + code)) 0x13 0xB,
   failIn b (decide (4096 < (regwrites b).length) || (regwrites b).any (fun e => !regwriteOk e.1 e.2)) 0x14 0xA,
   failIn b (!deviceOk b) 0x15 1, failIn b (!portsOk b) 0x15 2, failIn b (!classesOk b) 0x15 3,
   failIn b ((records (sectBytes b 4) 64).any (fun r => !tableOk r)) 0x15 4, failIn b (!selectorOk b) 0x15 5,
   failIn b (!cobblerOk b) 0x15 6,
   failIn b ((imgProfiles b).any (fun r => !profileOk r) ||
     !pairwise (fun x y => decide (profNo x ≠ profNo y)) (imgProfiles b)) 0x15 7,
   failIn b (!timeOk b) 0x15 8, failIn b (!waymarkOk b) 0x15 9]

/-- Admission (R69): the first failure in table order. -/
def admitImage (b : List Byte) : Option (Nat × Nat) :=
  (admitTables b ++ admitProfiles b ++ admitRest b).findSome? id

/-- Step 1 of R66. -/
def hdrOk (s : State) (b : List Byte) : Bool :=
  decide (fieldAt b 0 4 = 0x49564C53) && decide (fieldAt b 4 2 = 1) && decide (fieldAt b 6 2 = 0x8032) &&
    decide (fieldAt b 8 1 ≤ s.lcs.rev) && decide (fieldAt b 60 4 = crc32c (slice b 0 60)) &&
    decide (1 ≤ imgSects b) && decide (imgSects b ≤ 32)

/-- Step 2 of R66 against the length `want`, which a host image only must not exceed (R54, R79, R86). -/
def lengthOk (b : List Byte) (want : Nat) (host : Bool) : Bool :=
  let l := imgLength b
  decide (4096 ≤ l) && decide (l ≤ 2097152) && decide (l % 16 = 0) && (if host then decide (l ≤ want) else decide (l = want))

/-- The SHA-256 digest of the trailer key (R67). -/
def keyHash (b : List Byte) (at_ : Nat) : List Byte := sha256 (slice b at_ 64)

/-- A key hash matches slot k (R67): programmed, not partly blown, not revoked. -/
def slotMatches (s : State) (k : Nat) (h : List Byte) : Bool :=
  match s.lcs.keys[k]? with
  | some x => x.prog && !x.partly && !x.revoked && decide (x.hash = h)
  | none => false

/-- No key slot is programmed (R68). -/
def unfused (s : State) : Bool := s.lcs.keys.all (fun k => !k.prog)

/-- Step 5 of R66 under R68. -/
def keyOk (s : State) (b : List Byte) : Bool :=
  (decide (s.lcs.lcState = 0) && unfused s) ||
    slotMatches s (fieldAt b 10 1) (keyHash b (imgLength b - 128))

/-- Step 6 of R66 (R57). -/
def sigOk (b : List Byte) : Bool :=
  let n := imgLength b - 128
  ecdsaOk (fieldAt b n 32) (fieldAt b (n + 32) 32) (fieldAt b (n + 64) 32) (fieldAt b (n + 96) 32) (sha256 (slice b 0 n))

/-- Step 7 of R66: every SCRC. -/
def sectsOk (b : List Byte) : Bool :=
  (sects b).all (fun x => decide (x.off + x.len + 128 ≤ imgLength b) && decide (crc32c (slice b x.off x.len) = x.crc))

/-- The firmware signature holds (R63). -/
def fwSigned (b : List Byte) : Bool :=
  let f := sectBytes b 0xB
  ecdsaOk Config.firmwareKeyX Config.firmwareKeyY (fieldAt f 64 32) (fieldAt f 96 32) (sha256 (slice f 256 (fieldAt f 0 4)))

/-- Step 8 of R66 under R68: customer firmware only in BLANK and DEVELOP. -/
def fwOk (s : State) (b : List Byte) : Bool := decide (s.lcs.lcState ≤ 1) || fwSigned b

/-- WELT_POS of the DEVICE section (R58). -/
def weltPosOf (b : List Byte) : Nat := bitsOf (fieldAt (sectBytes b 1) 4 4) 2 0

/-- Steps 1–5 and 9 of R66, as a warm start repeats them (R79). -/
def recheck (s : State) (b : List Byte) (want : Nat) : Bool :=
  hdrOk s b && lengthOk b want false && bitOf (fieldAt b 11 1) s.lcs.lcState && decide (s.lcs.secVer ≤ fieldAt b 9 1) &&
    keyOk s b && decide (weltPosOf b = s.img.straps)

/-- Authentication of a copy in the order of R66: 0 OK, or the first failing result; with the admission failure. -/
def authenticate (s : State) (b : List Byte) (want : Nat) (host : Bool) : Nat × Nat × Nat :=
  if !hdrOk s b then (3, 0, 0)
  else if !lengthOk b want host then (4, 0, 0)
  else if !bitOf (fieldAt b 11 1) s.lcs.lcState then (5, 0, 0)
  else if !decide (s.lcs.secVer ≤ fieldAt b 9 1) then (6, 0, 0)
  else if !keyOk s b then (7, 0, 0)
  else if !sigOk b then (8, 0, 0)
  else if !sectsOk b then (9, 0, 0)
  else if !fwOk s b then (10, 0, 0)
  else if weltPosOf b ≠ s.img.straps then (12, 0, 0)
  else
    match admitImage b with
    | some e => (11, e.1, e.2)
    | none => (0, 0, 0)

/-- An ILT copy is valid (R51). -/
def iltOk (t : List Byte) : Bool := decide (fieldAt t 0 4 = 0x544C4953) && decide (fieldAt t 60 4 = crc32c (slice t 0 60))

/-- LENGTH of a copy in the ILT in use (R51). -/
def iltLen (s : State) (c : Nat) : Nat := fieldAt s.img.ilt (12 + 8 * c) 4

/-- Set the image unit's phase. -/
def imgPhase (s : State) (p : ImgPhase) : State := { s with img := { s.img with phase := p } }

/-- Record a copy's result in IMG_STAT (R83). -/
def imgResult (s : State) (c r : Nat) : State :=
  if c = 1 then fput s Reg.imgStat 23 20 r else fput s Reg.imgStat 19 16 r

/-- No image passes (R82): FAIL is set and the device stays in WOKEN. -/
def imgFail (s : State) : State :=
  imgPhase (fput (wr s Reg.imgProg (progValue (rd s Reg.imgTotal) (fget s Reg.imgProg 31 0) false)) Reg.imgStat 30 30 1) .failed

/-- READ_MODE of the ILT in use is 8D-8D-8D (R51). -/
def octal (s : State) : Bool := bitOf (fieldAt s.img.ilt 24 4) 1

/-- Before the first octal read, Write Enable and the entry command go out in 1S-1S-1S, if there is an entry command (R52). -/
def flashEntry (s : State) : State :=
  let w := fieldAt s.img.ilt 28 4
  if octal s && decide (bitsOf w 15 8 ≠ 0) then
    emit (emit s (.flash 0x06 none [] 0)) (.flash (bitsOf w 15 8) (some (fieldAt s.img.ilt 32 4))
      [BitVec.ofNat 8 (bitsOf w 7 0)] 0)
  else s

/-- The read of copy c (R51, R52): 0x13 in 1S-1S-1S, or READ_OPCODE in 8D-8D-8D at FREQ with DUMMY cycles. -/
def flashFetch (s : State) (c len : Nat) : State :=
  let o := fieldAt s.img.ilt (8 + 8 * c) 4
  if octal s then
    let w := fieldAt s.img.ilt 24 4
    emit s (.flashOctal (fieldAt s.img.ilt 28 4 / 65536) o len (bitsOf w 10 8) (bitsOf w 15 11))
  else emit s (.flash 0x13 (some o) [] len)

/-- XSPI_RESET_N is released (R52). -/
def xspiRelease (s : State) : State :=
  match s.img.xspiLow with
  | none => s
  | some _ => emit { s with img := { s.img with xspiLow := none } } (.xspiReset false)

/-- Both ILT copies are read with 0x03 (R51). -/
def flashIlt (s : State) : State :=
  emit (emit (xspiRelease s) (.flash 0x03 (some 0) [] 64)) (.flash 0x03 (some 0x1000) [] 64)

/-- FREQ in MHz (R51). -/
def octalMhz (s : State) : Nat :=
  match bitsOf (fieldAt s.img.ilt 24 4) 10 8 with
  | 0 => 50
  | 1 => 100
  | 2 => 133
  | 3 => 166
  | _ => 200

/-- Bytes of the present copy fetched by now, at the rate of its data (R51, R71, R504): two bytes per octal clock, a byte per
eight clocks of 25 MHz, or 400 MB/s from the store (DESIGN CHOICE: commands and dummy cycles are not counted). -/
def fetchPos (s : State) : Nat :=
  let d := s.cycle - s.img.fetchAt
  min (rd s Reg.imgTotal / 2)
    (if s.pwr.warmStart then d / 2 else if octal s then d * octalMhz s / 400 else d / 256)

/-- `IMG_PROG` as it reads (R14, R71). -/
def imgProgView (s : State) : Nat :=
  if s.img.phase = .fetching ∧ s.img.copy ≤ 1 ∨ s.pwr.warmStart ∧ s.img.phase = .before ∧ progOn s Reg.imgProg then
    progValue (rd s Reg.imgTotal) (fetchPos s) true
  else rd s Reg.imgProg

/-- The loader turns to copy c (R53, R71). -/
def tryCopy (s : State) (c len : Nat) (last : Bool) : State :=
  let s1 := imgPhase { flashFetch s c len with img := { s.img with
    copy := c
    last := last
    fetchAt := s.cycle } } .fetching
  progSet s1 Reg.imgProg Reg.imgTotal (2 * len) 0 true

/-- The wipe of a tamper event latched before this start runs before any other start step (R511). -/
def wipeFirst (s : State) : Bool := flag s Reg.pwrStartCause 15 && s.nvc.wipeAt.isSome

/-- ILT_READ (R51–R53): both ILT copies have been read; the copy that PREFER names is tried first. -/
def iltRead (s0 : State) (a b : List Byte) : State :=
  if s0.pwr.st ≠ .woken ∨ s0.pwr.warmStart ∨ s0.img.phase ≠ .before ∨ wipeFirst s0 then s0
  else
    let s := flashIlt s0
    let t := if iltOk a ∧ (iltOk b = false ∨ fieldAt b 4 4 ≤ fieldAt a 4 4) then some (a, 0)
      else if iltOk b then some (b, 0x1000) else none
    match t with
    | none => imgFail (imgResult (imgResult s 0 1) 1 1)
    | some e =>
      let s1 := flashEntry { s with img := { s.img with
        ilt := padTo e.1 64
        iltAt := e.2 } }
      let p := if bitOf (fieldAt e.1 24 4) 0 then 1 else 0
      if iltLen s1 p ≠ 0 then tryCopy s1 p (iltLen s1 p) (decide (iltLen s1 (1 - p) = 0))
      else if iltLen s1 (1 - p) ≠ 0 then tryCopy s1 (1 - p) (iltLen s1 (1 - p)) true
      else imgFail s1

/-- A copy fails with a result: the other copy is tried, if there is one (R53, R82). -/
def copyFails (s : State) (r code sect : Nat) : State :=
  let s1 := imgResult s s.img.copy r
  let s2 := if r = 11 then fput (fput s1 Reg.imgStat 15 8 code) Reg.imgStat 7 0 sect else s1
  if s.img.last then imgFail s2
  else tryCopy s2 (1 - s.img.copy) (iltLen s2 (1 - s.img.copy)) true

/-- POSITION counts what has been fetched so far (R71). -/
def fetchStop (s : State) (pos : Nat) : State := wr s Reg.imgProg (progValue (rd s Reg.imgTotal) pos true)

/-- READ_FAIL: a flash read failed (R53, R73). Before the ILT is read, no ILT is valid. -/
def readFail (s : State) : State :=
  if s.pwr.st ≠ .woken ∨ s.pwr.warmStart then s
  else if s.img.phase = .before then imgFail (imgResult (imgResult s 0 1) 1 1)
  else if s.img.phase = .fetching then copyFails (fetchStop s (fetchPos s)) 2 0 0
  else s

/-- A copy has passed every check: it waits for apply (R66, R68, R71). -/
def copyPasses (s : State) (b : List Byte) : State :=
  let s1 := if s.img.copy ≤ 1 then fput (imgResult s s.img.copy 0) Reg.imgStat 28 28 s.img.copy
    else if s.img.copy = 2 then fput (imgResult s 0 0) Reg.imgStat 29 29 1
    else fput s Reg.imgStat 27 27 1
  let s2 := fput (fput s1 Reg.imgStat 26 26 (b2n (decide (s.lcs.lcState = 0) && unfused s))) Reg.imgStat 25 25
    (b2n (!fwSigned b))
  let s3 := progSet s2 Reg.imgProg Reg.imgTotal (2 * imgLength b) (imgLength b) true
  imgPhase { s3 with img := { s3.img with staged := slice b 0 (imgLength b) } } .admitted

/-- The bytes of the configuration copy and its header's LENGTH (R503). -/
def cfgCopy (s : State) : List Byte := memBytes s.nvc.mem 0 (ofLe (memBytes s.nvc.mem 0x200008 4))
def cfgLength (s : State) : Nat := ofLe (memBytes s.nvc.mem 0x200008 4)

/-- IMAGE_FETCH_DONE (R66, R79): the fetched copy is authenticated and admitted; a warm start takes the configuration
copy, which was rechecked when the start was chosen. -/
def imageFetched (s : State) (bytes : List Byte) : State :=
  if s.pwr.st ≠ .woken ∨ wipeFirst s then s
  else if s.pwr.warmStart ∧ s.img.phase = .before then copyPasses { s with img := { s.img with copy := 3 } } (cfgCopy s)
  else if s.img.phase ≠ .fetching then s
  else
    let s1 := fetchStop s (rd s Reg.imgTotal / 2)
    let r := authenticate s1 bytes (iltLen s1 s1.img.copy) false
    if r.1 = 0 then copyPasses s1 bytes else copyFails s1 r.1 r.2.1 r.2.2

end Sys2Proof.Machine
end

