-- ==== Sys2Proof/Machine/Power.lean ====
section
/-!
DEFINITION. Power states, PARK, wake and starts (R486–R502, R511–R513), and the checkpoint store (R78–R80, R434,
R503–R507, R514).
-/
namespace Sys2Proof.Machine

/-- The fast clocks run and registers can be reached: WOKEN or ACTIVE (R487). -/
def PwrState.awake (p : PwrState) : Bool :=
  match p with
  | .woken => true
  | .staged => true
  | .ready => true
  | .parking => true
  | .off => false
  | .park => false
  | .starting => false

/-- ACTIVE: STAGED, READY or PARKING (R487). -/
def PwrState.active (p : PwrState) : Bool := p.awake && p ≠ .woken

def awake (s : State) : Bool := s.pwr.st.awake

/-- The code PWR_STAT.STATE reports (R487). -/
def PwrState.code (p : PwrState) : Nat :=
  match p with
  | .woken => 1
  | .staged => 2
  | .ready => 3
  | .parking => 4
  | .off => 0
  | .park => 0
  | .starting => 0

/-- PWR_STAT as it reads now (R512). -/
def pwrStatView (s : State) : Nat :=
  s.pwr.st.code * 2 ^ 29 + b2n s.pwr.stopGrants * 2 ^ 28 + fget s Reg.pwrStat 27 24 * 2 ^ 24

/-- The registers of the always-on domain (R488). -/
def aonRegs : List Nat :=
  (List.range 4).map Reg.pwrWakeCfg ++ [Reg.pwrWakeCan, Reg.pwrAlarm, Reg.pwrWakeSrc, Reg.lcsTamperCfg 0,
    Reg.lcsTamperCfg 1, Reg.lcsTamper, Reg.milAonPeriod, Reg.milHoldTicks, Reg.milAonCnt]

/-- A fuse operation that fails or is cut short (R508): a key slot is partly blown; of two words of the thermometer the first is
whole; every other bit counts as unblown. -/
def fuseCut (l : LcsSt) : LcsSt :=
  match l.op with
  | none => l
  | some o =>
    if o.op = 1 then { l with keys := updAt l.keys o.slot (fun k => { k with
      prog := true
      partly := true }) }
    else if o.op = 3 ∧ l.secVer < 32 ∧ 32 < o.arg ∧ o.left ≤ 1 then { l with secVer := 32 }
    else l

/-- Everything outside the always-on domain, the fuses and the checkpoint store at its initial state (R45, R115, R362,
R445, R446, R488); a pending life-cycle transition is in force (R510). -/
def freshStart (s : State) : State :=
  { State.reset with
    cycle := s.cycle
    regs := s.regs.filter (fun e => aonRegs.contains e.1)
    draws := s.draws + 1
    out := s.out
    pending := s.pending
    nvc := { s.nvc with
      ops := []
      wipeAt := none
      why := 0
      acc := [] }
    lcs := { fuseCut s.lcs with
      lcState := match s.lcs.pend with
        | some p => p
        | none => s.lcs.lcState
      pend := none
      nonce := (Config.nonce s.draws).toNat
      op := none
      result := 0 }
    pwr := { PwrSt.zero with
      causes := s.pwr.causes
      reqHigh := s.pwr.reqHigh
      pgood := s.pwr.pgood
      wake := s.pwr.wake
      aonAcc := s.pwr.aonAcc
      wakeLevel := s.pwr.wakeLevel
      tamperLevel := s.pwr.tamperLevel
      commitSeq := s.pwr.commitSeq
      counting := s.pwr.counting } }

/-- Write of bytes into the store (R503). -/
def nvcPut (s : State) (a : Nat) (bs : List Byte) : State := { s with nvc := { s.nvc with mem := memPuts s.nvc.mem a bs } }

/-- A 32-bit word of the store. -/
def nvcWord (s : State) (a : Nat) : Nat := ofLe (memBytes s.nvc.mem a 4)

/-- The configuration header: IMAGE_ID at 0, LENGTH at 8, INVALID_WHY at 12, CRC-32C of the copy at 16 (R503). -/
def cfgWhy (s : State) : Nat := nvcWord s 0x20000C
def cfgCrcOk (s : State) : Bool := decide (cfgLength s ≠ 0) && decide (crc32c (cfgCopy s) = nvcWord s 0x200010)

/-- A word access to the store starts, after those in progress; a write counts as a checkpoint write of one word (R504). -/
def nvcStart (s : State) (a : NvcAcc) : State :=
  let s1 := if a.write && s.nvc.ops.isEmpty && s.nvc.acc.isEmpty && s.nvc.wipeAt.isNone then
    progSet s Reg.nvcCkptProg Reg.nvcCkptTotal 1 0 true else s
  let s2 := if a.host then fput s1 Reg.nvcAccCmd 29 29 1 else s1
  { s2 with nvc := { s2.nvc with
    acc := s2.nvc.acc ++ [a]
    accAt := if s2.nvc.acc = [] then s2.cycle else s2.nvc.accAt } }

/-- The stored copy is invalidated at once (R80, R503, R510); a copy made before the next start stays invalid. -/
def cfgInvalidate (s : State) (why : Nat) : State :=
  let s1 := fput (nvcPut s 0x20000C (leBytes 4 why)) Reg.imgStat 24 24 0
  nvcStart { s1 with nvc := { s1.nvc with why := why } } ⟨false, true, 0x200008, nvcWord s1 0x200008 + why * 2 ^ 32⟩

/-- The stored copy is valid and holds the applied image, byte for byte (R78). -/
def copyMatches (s : State) : Bool :=
  s.img.applied && decide (cfgWhy s = 0) && cfgCrcOk s && decide (cfgCopy s = s.img.image)

/-- A checkpoint write starts (R14, R504); `words` 64-bit words. -/
def ckptStart (s : State) (kind addr words : Nat) (bs : List Byte) : State :=
  let s1 := if s.nvc.ops = [] then progSet s Reg.nvcCkptProg Reg.nvcCkptTotal words 0 true else s
  { s1 with nvc := { s1.nvc with ops := s1.nvc.ops ++ [⟨kind, addr, bs, words, s.cycle⟩] } }

/-- A write cut short (R504): its CRC stays unwritten, so its target holds no valid content. -/
def ckptAbandon (s : State) : State :=
  if s.nvc.ops = [] then s
  else
    let s1 := s.nvc.ops.foldl (fun (st : State) (o : CkptOp) =>
      if o.kind = 0 then nvcPut st 0x200008 (leBytes 4 0)
      else if o.kind = 2 then nvcPut st (o.addr + 252) (leBytes 4 (crc32c (o.bytes.take 252) ^^^ 1)) else st) s
    setEvt (wr { s1 with nvc := { s1.nvc with ops := [] } } Reg.nvcCkptProg
      (progValue (rd s Reg.nvcCkptTotal) (fget s Reg.nvcCkptProg 31 0) false)) Reg.nvcEvt 1

/-- The record of the time state at the last edge of the always-on clock (R505). -/
def timeRecord (s : State) (park origin : Bool) : List Byte :=
  let b := leBytes 4 s.nvc.seq ++ leBytes 4 (b2n park + 2 * b2n origin + 4 * b2n s.mil.valid) ++ leBytes 8 s.mil.edgeNs ++
    leBytes 8 (rd s Reg.milAonCnt) ++ leBytes 4 (rd s Reg.milAonPeriod) ++ leBytes 4 (toField 32 s.mil.freq) ++
    [BitVec.ofNat 8 (baseUnc s)]
  let p := padTo b 252
  p ++ leBytes 4 (crc32c p)

/-- Where record n of the ring lies (R503, R505). -/
def ringSlot (n : Nat) : Nat := 0x220000 + 256 * (n % 16)

/-- A time-state record is written (R505). -/
def recordTime (s : State) (origin : Bool) : State :=
  let s1 := ckptStart s 2 (ringSlot s.nvc.seq) 32 (timeRecord s false origin)
  { s1 with nvc := { s1.nvc with
    seq := (s1.nvc.seq + 1) % 2 ^ 32
    lastRec := nowNs s } }

/-- A slot of the ring holds a valid record. -/
def slotValid (s : State) (i : Nat) : Bool :=
  let b := memBytes s.nvc.mem (0x220000 + 256 * i) 256
  decide (fieldAt b 252 4 = crc32c (b.take 252)) && decide (b ≠ List.replicate 256 0)

/-- SEQ of slot i. -/
def slotSeq (s : State) (i : Nat) : Nat := nvcWord s (0x220000 + 256 * i)

/-- The newest valid slot, in serial-number order (R505). -/
def newestSlot (s : State) : Option Nat :=
  (List.range 16).foldl (fun a i =>
    if slotValid s i then
      match a with
      | none => some i
      | some j => if (slotSeq s i + 2 ^ 32 - slotSeq s j) % 2 ^ 32 < 2 ^ 31 then some i else some j
    else a) none

/-- The time-state ring is read at a start (R497, R505, R514). -/
def readRing (s : State) : State :=
  match newestSlot s with
  | none => { s with nvc := { s.nvc with seq := 0 } }
  | some i =>
    let b := memBytes s.nvc.mem (0x220000 + 256 * i) 256
    let f := fieldAt b 4 4
    let s1 := wr (wr s Reg.nvcLastTime (fieldAt b 8 8)) Reg.nvcLastStat
      (slotSeq s i * 2 ^ 32 + 4 + bitsOf f 0 0 * 2 + bitsOf f 2 2)
    { s1 with nvc := { s1.nvc with seq := (slotSeq s i + 1) % 2 ^ 32 } }

/-- The integrity record is loaded at a start (R434, R446), after a pending RECORD_CLR has emptied it. -/
def loadRecord (s0 : State) : State :=
  let s := if s0.nvc.recClr then { s0 with nvc := { s0.nvc with
      record := some ([], [], 0, false)
      recClr := false } } else s0
  match s.nvc.record with
  | none => setEvt (fput s Reg.pwrStartCause 12 12 1) Reg.intEvt 11
  | some r =>
    wr { s with intg := { s.intg with
      spares := r.1
      retire := r.2.1 } } Reg.intTcaRetire r.2.2.1

/-- The cause code of the start that begins now (R496). -/
def startCode (s : State) (pend : Bool) : Nat :=
  let c := s.pwr.causes
  if c.contains 1 then 1
  else if c.contains 2 then 2
  else if c.contains 3 then 3
  else if c.contains 4 then 4
  else if cfgWhy s = 1 then 5
  else if pend ∨ cfgWhy s = 2 then 6
  else if !cfgCrcOk s then 7
  else if !recheck s (cfgCopy s) (cfgLength s) then 8
  else if c.contains 0x11 then 0x11
  else 0x10

/-- The wipe of vault and sealed area starts, or starts over: 8,192 words of the store (R504, R511). -/
def wipeStart (s : State) : State :=
  progSet { s with nvc := { s.nvc with wipeAt := some s.cycle } } Reg.nvcCkptProg Reg.nvcCkptTotal 8192 0 true

/-- WOKEN (R495–R502, R511): PGOOD is high, the clocks run and the fuses are read; the start is chosen, the tamper latch
is served, record and ring are read, and the start steps begin. `wpos`: the WPOS straps (R374). -/
def wokenStep (s : State) (wpos : Nat) : State :=
  if s.pwr.st ≠ .starting ∨ s.pwr.pgood = false then s
  else
    let s1 := freshStart s
    let s2 := { s1 with img := { s1.img with straps := wpos } }
    let code := startCode s2 s.lcs.pend.isSome
    let warm := decide (0x10 ≤ code)
    let s3 := { s2 with pwr := { s2.pwr with
      st := .woken
      causes := []
      wake := false
      counting := warm && s2.pwr.counting
      warmStart := warm } }
    let s3i := if warm then progSet { s3 with img := { s3.img with
        xspiLow := none
        fetchAt := s.cycle } } Reg.imgProg Reg.imgTotal (2 * cfgLength s3) 0 true
      else emit { s3 with img := { s3.img with xspiLow := some s.cycle } } (.xspiReset true)
    let s4 := wr s3i Reg.pwrStartCause ((if warm then 2 else 1) * 2 ^ 30 + code * 2 ^ 24 + fget s3i Reg.pwrWakeSrc 6 0 * 2 ^ 16)
    let s5 := if s.pwr.causes.contains 0x11 then setEvt s4 Reg.pwrEvt 2 else s4
    let s6 := readRing (loadRecord s5)
    if fget s6 Reg.lcsTamper 1 0 ≠ 0 then
      fput (wipeStart s6) Reg.pwrStartCause 15 15 1
    else s6

/-- The rails are requested and a start follows once they are good (R487, R493, R495); its ports are OFF (R129). -/
def beginStart (s : State) (cause : Nat) : State :=
  { s with
    taps := []
    wlt := { s.wlt with ports := [] }
    pwr := { s.pwr with
    st := .starting
    reqHigh := true
    wake := false
    causes := cause :: s.pwr.causes } }

/-- VAON_APPLY (R487, R488): the always-on domain takes its reset values and requests the rails. -/
def vaonApply (s : State) : State :=
  if s.pwr.st ≠ .off then s
  else
    let s1 := { freshStart s with regs := [] }
    beginStart { s1 with pwr := { PwrSt.zero with
      pgood := false
      wakeLevel := s.pwr.wakeLevel
      tamperLevel := s.pwr.tamperLevel } } 1

/-- VAON_LOSS (R487): OFF; nothing but fuses and the store keeps its content. -/
def vaonLoss (s : State) : State :=
  let s1 := ckptAbandon s
  { freshStart s1 with
    regs := []
    pwr := { PwrSt.zero with
      st := .off
      reqHigh := false
      pgood := false } }

/-- PGOOD_RISE (R487, R495). -/
def pgoodRise (s : State) : State := { s with pwr := { s.pwr with pgood := true } }

/-- The supplies fail while PARK_REQ_N is high: a brownout (R487, R526). -/
def brownout (s : State) : State :=
  if awake s ∧ s.pwr.reqHigh then
    let s1 := ckptAbandon s
    beginStart { s1 with pwr := { s1.pwr with causes := [] } } 3
  else s

/-- PGOOD_FALL (R487, R493, R533): the PMIC's acknowledgement of PARK, whose dwell is counted in edges of the always-on clock,
or a brownout. -/
def pgoodFall (s : State) : State :=
  let s1 := { s with pwr := { s.pwr with pgood := false } }
  if s.pwr.st = .parking ∧ s.pwr.reqHigh = false then
    { s1 with pwr := { s1.pwr with
      st := .park
      dwellOver := false
      lowAt := rd s Reg.milAonCnt } }
  else brownout s1

/-- RESET_PIN (R487, R533): RESET_N low for 1 µs and released; in PARK it is latched for the next start. -/
def resetPin (s : State) : State :=
  if s.pwr.st = .off then s
  else if s.pwr.st = .park ∨ (s.pwr.st = .starting ∧ s.pwr.pgood = false) then
    { s with pwr := { s.pwr with causes := 2 :: s.pwr.causes } }
  else if s.pwr.pgood then
    let s1 := ckptAbandon s
    beginStart { s1 with pwr := { s1.pwr with causes := if s.pwr.st = .starting then s.pwr.causes else [] } } 2
  else s

/-- COLD (R496): SW_COLD from PCIe function 0, SPI or the bench core in secure mode acts as RESET_N does. -/
def benchSecure (s : State) (m : Requester) : Bool := m = .benchM && flag s Reg.seqCtrl 0

def coldRequest (s : State) (m : Requester) (key : Nat) : State :=
  if !awake s then s
  else if key ≠ 0x434F then rsvd s m.code Reg.pwrCtrl
  else if m = .pcie0 ∨ m = .spi ∨ benchSecure s m then
    let s1 := ckptAbandon s
    beginStart { s1 with pwr := { s1.pwr with causes := [] } } 4
  else s

/-- PARK_REQUEST (R490, R491). -/
def parkRequest (s : State) (m : Requester) (key : Nat) : State :=
  if !awake s then s
  else if key ≠ 0x5041 then rsvd s m.code Reg.pwrCtrl
  else if s.pwr.st = .parking then s
  else if s.pwr.st = .staged ∨ s.pwr.st = .ready ∨ (s.pwr.st = .woken ∧ flag s Reg.imgStat 30) then
    setEvt { s with pwr := { s.pwr with
      st := .parking
      prev := s.pwr.st
      stopGrants := false
      graceEnd := s.cycle + fget s Reg.pwrCfg 15 8 * 800000 } } Reg.pwrEvt 0
  else setEvt s Reg.pwrEvt 5

/-- A wake input in level mode is at its active level (R491, R494). -/
def wakeActive (s : State) : Bool :=
  (List.range 4).any (fun n =>
    let m := fget s (Reg.pwrWakeCfg n) 2 0
    (decide (m = 3) && bitOf s.pwr.wakeLevel n) || (decide (m = 4) && !bitOf s.pwr.wakeLevel n))

/-- An enabled tamper input is at its active level (R491, R511). -/
def tamperActive (s : State) : Bool :=
  (List.range 2).any (fun k => flag s (Reg.lcsTamperCfg k) 0 && (bitOf s.pwr.tamperLevel k != flag s (Reg.lcsTamperCfg k) 1))

/-- Why a PARK aborts at the end of grace; 0: it commits (R491). -/
def abortWhy (s : State) : Nat :=
  if rd s Reg.pwrHold ≠ 0 ∨ rd s Reg.pwrHoldMs ≠ 0 then 1
  else if wakeActive s then 2
  else if tamperActive s then 3
  else 0

/-- The bytes and header a finished checkpoint write leaves (R78, R504, R505). -/
def ckptCommit (s : State) (o : CkptOp) : State :=
  if o.kind = 0 then
    let h := leBytes 8 (imgIdOf o.bytes) ++ leBytes 4 o.bytes.length ++ leBytes 4 s.nvc.why ++ leBytes 4 (crc32c o.bytes)
    let s1 := nvcPut (nvcPut s 0 o.bytes) 0x200000 h
    fput s1 Reg.imgStat 24 24 (b2n (copyMatches s1))
  else if o.kind = 1 then
    { s with nvc := { s.nvc with
      record := some (s.intg.spares, s.intg.retire, rd s Reg.intTcaRetire, s.drc.trained) } }
  else nvcPut s o.addr o.bytes

/-- A commit abandons a configuration-copy write and lets other checkpoint writes go on (R78, R492). -/
def ckptPark (s : State) : State :=
  let kept := s.nvc.ops.filter (fun o => o.kind ≠ 0)
  let s1 := ckptAbandon { s with nvc := { s.nvc with ops := s.nvc.ops.filter (fun o => o.kind = 0) } }
  match s.nvc.ops, kept with
  | o :: _, x :: _ =>
    if o.kind = 0 then
      { progSet s1 Reg.nvcCkptProg Reg.nvcCkptTotal x.total 0 true with nvc := { s1.nvc with
        ops := kept.map (fun (y : CkptOp) => { y with since := s.cycle }) } }
    else { s1 with nvc := { s1.nvc with ops := kept } }
  | _, _ => { s1 with nvc := { s1.nvc with ops := kept } }

/-- Steps 3 and 4 of a commit, at the first edge of the always-on clock at which every verdict has been released (R492): road
time is recorded with PARK at 1. -/
def parkRecord (s : State) : State :=
  if s.pwr.st ≠ .parking ∨ s.pwr.stopGrants = false ∨ s.pwr.recorded ∨ s.vrd.flights ≠ [] then s
  else
    let s1 := ckptPark s
    let s2 := ckptStart s1 2 (ringSlot s1.nvc.seq) 32 (timeRecord s1 true false)
    wr { s2 with
      nvc := { s2.nvc with seq := (s2.nvc.seq + 1) % 2 ^ 32 }
      pwr := { s2.pwr with
        recorded := true
        commitSeq := s2.nvc.seq
        counting := true } } Reg.milHoldTicks 0

/-- The last steps of a commit, once the writes and the fuse word in progress have ended (R492): lanes idle, ports OFF, outputs
high-impedance, PARK_REQ_N low. -/
def parkFinish (s : State) : State :=
  if s.pwr.st ≠ .parking ∨ s.pwr.recorded = false ∨ s.pwr.reqHigh = false ∨ s.nvc.ops ≠ [] ∨ s.lcs.op.isSome then s
  else
    let s3 := { s with
      can := { s.can with
        joined := false
        tx := none }
      pwr := { s.pwr with
        reqHigh := false
        lowAt := s.cycle } }
    let s4 := [0, 1].foldl (fun (st : State) f => setPcie st f { pcie st f with up := false }) s3
    (List.range 32).foldl (fun st p => linkDown (draw st) p 0 (openOn st)) s4

/-- GRACE_END (R491, R492): abort, or commit; the commit's last steps follow with the clock. -/
def graceEnd (s : State) : State :=
  if s.pwr.st ≠ .parking then s
  else if s.pwr.stopGrants then s
  else if s.cycle < s.pwr.graceEnd then s
  else if abortWhy s ≠ 0 then
    setEvt (fput { s with pwr := { s.pwr with st := s.pwr.prev } } Reg.pwrStat 27 24 (abortWhy s)) Reg.pwrEvt 1
  else { s with pwr := { s.pwr with
    stopGrants := true
    recorded := false
    commitAt := s.cycle } }

/-- PARK_FAIL (R493): PGOOD is still high 10 ms after PARK_REQ_N went low. -/
def parkFail (s : State) : State :=
  if s.pwr.st = .parking ∧ s.pwr.reqHigh = false ∧ s.pwr.pgood ∧ s.pwr.lowAt + 8000000 ≤ s.cycle then
    beginStart { s with pwr := { s.pwr with causes := [] } } 0x11
  else s

/-- A wake source is enabled (R494, R513): 0–3 WAKE inputs, 4 CAN, 5 ALARM. -/
def wakeEnabled (s : State) (n : Nat) : Bool :=
  if n < 4 then fget s (Reg.pwrWakeCfg n) 2 0 ≠ 0
  else if n = 4 then flag s Reg.pwrWakeCan 0
  else if n = 5 then flag s Reg.pwrAlarm 48 && decide (fget s Reg.pwrAlarm 47 0 ≤ rd s Reg.milAonCnt)
  else false

/-- A qualified wake source sets its bit and starts the wake, or waits for the dwell (R493, R494). -/
def wakeBy (s : State) (n : Nat) : State :=
  let s1 := setEvt s Reg.pwrWakeSrc n
  if s.pwr.st = .park ∧ s.pwr.dwellOver then beginStart s1 0x10
  else if s.pwr.st = .starting then s1
  else { s1 with pwr := { s1.pwr with wake := true } }

/-- Wake inputs are watched: in PARK, between the fall of PARK_REQ_N and the fall of PGOOD, and until the rails are good
again (R493, R494). -/
def wakeWatched (s : State) : Bool :=
  s.pwr.st = .park || (s.pwr.st = .parking && !s.pwr.reqHigh) || (s.pwr.st = .starting && !s.pwr.pgood)

/-- WAKE_EVENT on source n (R494). -/
def wakeEvent (s : State) (n : Nat) : State := if wakeWatched s && wakeEnabled s n then wakeBy s n else s

/-- WAKE_DWELL_END: 1 ms after PGOOD fell (R493), 33 edges of the always-on clock. -/
def dwellEnd (s : State) : State :=
  if s.pwr.st = .park ∧ s.pwr.dwellOver = false ∧ s.pwr.lowAt + 33 ≤ rd s Reg.milAonCnt then
    let s1 := { s with pwr := { s.pwr with dwellOver := true } }
    if s.pwr.wake then beginStart s1 0x10 else s1
  else s

/-- The cold start's march and clear are over when WOKEN is entered here; DRAM_TRAINING ends (R443, R497, R499):
`testOk`: the stored parameters passed the test reads. -/
def dramTraining (s : State) (testOk : Bool) : State :=
  if s.pwr.st.awake = false ∨ s.drc.trained ∨ wipeFirst s then s
  else
    let stored := match s.nvc.record with
      | some r => r.2.2.2
      | none => false
    let keep := s.pwr.warmStart && stored && testOk
    let s1 := { s with drc := { s.drc with
      trained := true
      pairs := List.replicate 4 { PairSt.zero with
        freeAt := s.cycle
        lastRefresh := s.cycle
        nextRefresh := s.cycle + 3120 } } }
    let s2 := fput s1 Reg.drcStat 31 31 1
    if keep then s2
    else
      let s3 := { s2 with intg := { s2.intg with recordDirty := true } }
      if s.pwr.warmStart then fput (fput s3 Reg.drcStat 30 30 1) Reg.pwrStartCause 13 13 1 else s3

/-- `DRC_CLR_PROG` as it reads (R14, R444): the clear's 45 ms spread evenly over its granules (DESIGN CHOICE). -/
def clrProgView (s : State) : Nat :=
  match s.drc.clearFrom with
  | some t =>
    if s.drc.clearDone then rd s Reg.drcClrProg
    else progValue 67108864 (min 67108863 ((s.cycle - t) * 67108864 / 36000000)) true
  | none => rd s Reg.drcClrProg

/-- AUTO_EN profiles enabled at STAGED (ternary-only, warm) or at READY (R75). -/
def autoEnable (s : State) (dram tern : Bool) : State :=
  let m := (List.range 64).foldl (fun a n =>
    if bitOf s.img.autoEn n && (if profDram s n then dram else tern) then a + 2 ^ n else a) 0
  if m = 0 then s else enableProfiles s (enWritten s ||| m)

/-- The configuration copy is written after READY unless it is current or the host loaded the image (R78, R82). -/
def startCopy (s : State) : State :=
  let cur := decide (ofLe (memBytes s.nvc.mem 0x200000 8) = imgIdOf s.img.image) && cfgCrcOk s && decide (cfgWhy s = 0)
  if flag s Reg.imgStat 29 then s
  else if cur then fput s Reg.imgStat 24 24 (b2n (copyMatches s))
  else ckptStart s 0 0 262152 s.img.image

/-- The conditions of READY (R115, R489): in a cold start REF or HOST, where one is the source, has locked or 5 ms have passed;
the other sources are not waited for. -/
def readyOk (s : State) : Bool :=
  s.pwr.st = .staged && s.drc.clearDone &&
    (s.pwr.warmStart || s.mil.state = 2 || !(s.mil.src = 1 || s.mil.src = 4) || decide (s.pwr.step9At + 4000000 ≤ s.cycle))

/-- READY (R44, R75, R78, R489). -/
def becomeReady (s : State) : State :=
  if readyOk s then
    let s1 := setEvt { s with pwr := { s.pwr with st := .ready } } Reg.pwrEvt 4
    startCopy (recordTime (autoEnable s1 true (!s.pwr.warmStart)) true)
  else s

/-- `NVC_CKPT_PROG` as it reads (R14, R504): a word every 250 ns. -/
def ckptProgView (s : State) : Nat :=
  match s.nvc.wipeAt, s.nvc.ops with
  | some t, _ => progValue 8192 (min 8192 ((s.cycle - t) / 200)) true
  | none, o :: _ => progValue o.total (min o.total ((s.cycle - o.since) / 200)) true
  | none, [] => rd s Reg.nvcCkptProg

/-- CHECKPOINT_WRITE_DONE (R78, R504): one word every 250 ns. -/
def ckptDone (s : State) : State :=
  match s.nvc.ops with
  | [] => s
  | o :: rest =>
    if s.cycle < o.since + 200 * o.total then s
    else
      let s1 := ckptCommit s o
      let s2 := setEvt { s1 with nvc := { s1.nvc with ops := rest.map (fun (x : CkptOp) => { x with since := s.cycle }) } }
        Reg.nvcEvt 0
      if s.nvc.wipeAt.isSome then s2
      else match rest with
      | [] => wr s2 Reg.nvcCkptProg (progValue o.total o.total false)
      | x :: _ => progSet s2 Reg.nvcCkptProg Reg.nvcCkptTotal x.total 0 true

/-- INTEGRITY_RECORD_WRITE (R434): the record is written after a change, as a checkpoint write of 4,096 words. -/
def writeRecord (s : State) : State :=
  if s.intg.recordDirty ∧ awake s then
    ckptStart { s with intg := { s.intg with recordDirty := false } } 1 0x210000 4096 []
  else s

/-- TIME_STATE_RECORD (R505): the periodic record. -/
def periodicRecord (s : State) : State :=
  let p := fget s Reg.nvcCkptCtrl 11 0
  if s.pwr.st.active ∧ p ≠ 0 ∧ s.nvc.lastRec + p * 1000000000 ≤ nowNs s then recordTime s false else s

/-- CKPT_GO: a write of NVC_CKPT_CTRL with GO (R505, R514). -/
def ckptGo (s : State) (m v : Nat) : State :=
  let s1 := fput (commitFields s m Reg.nvcCkptCtrl v) Reg.nvcCkptCtrl 31 31 0
  if bitOf v 31 then recordTime s1 false else s1

/-- RELOAD_NEXT (R80). -/
def reloadNext (s : State) : State := cfgInvalidate s 1

/-- The area a store offset lies in is open to a requester (R507). -/
def nvcOpen (s : State) (m : Requester) (a : Nat) : Bool :=
  if 0x230000 ≤ a ∧ a < 0x240000 then benchSecure s m
  else if 0x240000 ≤ a ∧ a < 0x400000 then
    m = .benchM || m = .benchU || ((m = .pcie0 || m = .spi) && decide (s.lcs.lcState ≤ 1))
  else false

/-- NVC_ACC_READ and NVC_ACC_WRITE: one 64-bit word (R507, R514). -/
def nvcAccess (s : State) (m : Requester) (write : Bool) : State :=
  let a := fget s Reg.nvcAccAddr 21 3 * 8
  if nvcOpen s m a = false then setEvt (if write then s else wr s Reg.nvcAccData 0) Reg.nvcEvt 3
  else nvcStart s ⟨true, write, a, rd s Reg.nvcAccData⟩

/-- The first word access ends (R504, R511): a read after 20 ns, a write after 250 ns, a sealed one not before a wipe has
ended. -/
def nvcAccDone (s : State) : State :=
  match s.nvc.acc with
  | [] => s
  | a :: rest =>
    if s.cycle < s.nvc.accAt + (if a.write then 200 else 16) ∨
      (s.nvc.wipeAt.isSome ∧ 0x230000 ≤ a.addr ∧ a.addr < 0x240000) then s
    else
      let s1 := { s with nvc := { s.nvc with
        acc := rest
        accAt := s.cycle } }
      let s2 := if rest.any (fun x => x.host) then s1 else fput s1 Reg.nvcAccCmd 29 29 0
      if a.write then
        let s3 := setEvt (nvcPut s2 a.addr (leBytes 8 a.data)) Reg.nvcEvt 0
        if s.nvc.ops.isEmpty && s.nvc.wipeAt.isNone then progSet s3 Reg.nvcCkptProg Reg.nvcCkptTotal 1 1 false else s3
      else wr s2 Reg.nvcAccData (ofLe (memBytes s.nvc.mem a.addr 8))

/-- A range of a memory reads zero. -/
def memCut (m : List Host.Cell) (lo hi : Nat) : List Host.Cell :=
  m.filter (fun (e : Nat × Byte) => decide (e.1 < lo) || decide (hi ≤ e.1))

/-- The vault is written to zero with good check bits in 4,096 cycles, the first of a wipe (R419). -/
def vaultTick (s : State) : State :=
  match s.nvc.wipeAt with
  | none => s
  | some t =>
    if s.cycle = t + 4096 then
      setEvt (rangeWritten { s with spm := { s.spm with mem := memCut s.spm.mem vaultBase spmSize } } 0 (vaultBase / 8) 4096)
        Reg.spmEvt 3
    else s

/-- TAMPER on input k, seen active (R511): latched and counted; awake, the wipe starts, once a fuse word in progress has
finished; after PARK_REQ_N has fallen it is left to the wake, which it may cause. -/
def tamperEvent (s : State) (k : Nat) : State :=
  if s.pwr.st = .off ∨ flag s (Reg.lcsTamperCfg k) 0 = false then s
  else
    let s1 := satBump (setEvt s Reg.lcsTamper k) Reg.lcsTamper 15 8 1
    let s2 := if awake s then setEvt s1 Reg.lcsEvt 0 else s1
    if awake s && s.pwr.reqHigh then (if s.lcs.op.isSome then s2 else wipeStart s2)
    else if wakeWatched s ∧ flag s (Reg.lcsTamperCfg k) 2 then wakeBy s2 6
    else s2

/-- TAMPER_WIPE_END: 2.05 ms after the wipe's start (R510, R511). -/
def tamperWipeEnd (s : State) : State :=
  match s.nvc.wipeAt with
  | none => s
  | some t =>
    if s.cycle < t + 1640000 then s
    else
      let s1 := { s with nvc := { s.nvc with
        wipeAt := none
        mem := memCut s.nvc.mem 0x230000 0x240000 } }
      let s2 := match s.nvc.ops with
        | [] => progSet s1 Reg.nvcCkptProg Reg.nvcCkptTotal 8192 8192 false
        | o :: _ => progSet s1 Reg.nvcCkptProg Reg.nvcCkptTotal o.total 0 true
      let s3 := if fget s Reg.lcsTamper 1 0 = 0 then s2 else setEvt (fput s2 Reg.lcsTamper 1 0 0) Reg.lcsEvt 2
      setEvt s3 Reg.nvcEvt 0

end Sys2Proof.Machine
end

