-- ==== Sys2Proof/Machine/Spm.lean ====
section
/-!
DEFINITION. The scratchpad port (R414–R421, R437): accesses of the outside requesters wait at the port and are served
one at a time in rank order; views, the vault, the firmware code range, denials, and where the data goes.
-/
namespace Sys2Proof.Machine

/-- The scratchpad requester index of a register-space requester (R414). -/
def spmQ (m : Requester) : Nat :=
  match m with
  | .pcie0 => 0
  | .pcie1 => 1
  | .spi => 2
  | .benchM => 4
  | .benchU => 4
  | .bridge => 16
  | .loader => 18
  | .internal => 14

/-- The rank of a waiting access, smallest first: keys 2–5 of R352, then q (R414). -/
def spmRank (s : State) (a : SpmAcc) : Nat :=
  let m := spmMaster a.q
  (if m = 48 then 2 ^ 80 else rankOf s true m (s.cycle - a.since) % 2 ^ 72) * 32 + a.q

/-- Byte-wise OR, and AND NOT, of stored bytes with written ones (R416). -/
def orBytes (old new : List Byte) : List Byte := List.zipWith (fun a b => a ||| b) old new
def clrBytes (old new : List Byte) : List Byte := List.zipWith (fun a b => a &&& ~~~b) old new

/-- Vault and sealed area are being wiped: accesses to the vault wait (R419, R511). -/
def vaultBusy (s : State) (a : SpmAcc) : Bool := s.nvc.wipeAt.isSome && decide (vaultBase < a.off + a.len)

/-- The first-ranked access that the port can serve (R415). -/
def nextSpm (s : State) : Option SpmAcc :=
  minByKey (spmRank s) (s.spm.waiting.filter (fun a => decide (a.since ≤ s.cycle) && !vaultBusy s a))

/-- The port cycles an access takes (R416, R417). -/
def spmCycles (a : SpmAcc) : Nat :=
  if a.kind = .set ∨ a.kind = .clear then 2 else (a.off + a.len - 1) / 8 - a.off / 8 + 1

/-- The requester of a poisoned read is told (R425, R458, R550). -/
def pcieUe (s : State) (f : Nat) : State :=
  let s1 := bump (setEvt s (Reg.hstPcieEvt f) 3) (Reg.hstPcieCnt f 2) 1
  { s1 with out := s1.out ++ [.pcieError f 3] }

/-- The data of a read leaves for its requester; a write is done (R415, R425). -/
def spmReply (s : State) (a : SpmAcc) (bytes : List Byte) (bad : Bool) (denied : Nat) : State :=
  let data := Out.regData a.who.code (0x180000 + a.off) a.len (ofLe bytes)
  match a.who with
  | .spi =>
    (match s.spi.pend with
     | some p => if a.writes ∨ p.done then s else { s with spi := { s.spi with pend := some { p with
         done := true
         ue := bad
         denied := decide (denied ≠ 0)
         data := ofLe bytes } } }
     | none => s)
  | .bridge =>
    (match s.brg.cur with
     | none => s
     | some (k, f, got) =>
       let more := got ++ bytes
       let code := if denied ≠ 0 then 2 else if bad then 6 else 0
       if code = 0 ∧ more.length < (if f.size then 8 else 4) then
         { s with brg := { s.brg with cur := some (k, f, more) } }
       else
         let s1 := { s with brg := { s.brg with cur := none } }
         if f.typ = 3 then
           (if code = 0 then bump s1 (Reg.brgCnt 2) 1 else bridgeFail s1 f code)
         else
           let s2 := queueTo s1 { failCpl s1 f code with data := if code = 0 then ofLe more else 0 }
           if code = 0 then bump s2 (Reg.brgCnt 3) 1 else s2)
  | .pcie0 =>
    let s1 := if bad then pcieUe s 0 else s
    if a.writes then s else { s1 with out := s1.out ++ [data] }
  | .pcie1 =>
    let s1 := if bad then pcieUe s 1 else s
    if a.writes then s else { s1 with out := s1.out ++ [data] }
  | .benchM => if a.writes then s else { s with out := s.out ++ [if bad then .benchTrap 5 else data] }
  | .benchU => if a.writes then s else { s with out := s.out ++ [if bad then .benchTrap 5 else data] }
  | .loader => s
  | .internal => s

/-- A set or clear write: the bytes as read are combined and stored, and one that read uncorrectable is stored poisoned (R413,
R416). -/
def spmCombine (s : State) (a : SpmAcc) (f : List Byte → List Byte → List Byte) : State :=
  let r := spmRead s (spmMaster a.q) a.off a.len
  let bad := (List.range a.len).filter (fun k => (spmReadByte s 0 (a.off + k)).2.2)
  bad.foldl (fun st k =>
    let at_ := a.off + k
    let old := match flipAt st 0 (at_ / 8) with
      | none => 0
      | some x => x.mask
    let inj := match flipAt s 0 (at_ / 8) with
      | none => false
      | some x => x.injected
    setFlip st 0 (at_ / 8) (some ⟨old ^^^ (3 * 2 ^ (64 + 5 * (at_ % 8))), inj⟩)) (spmWrite r.1 a.off (f r.2.1 a.data))

/-- What serving one access does at the memory (R412–R418, R420): the state, the bytes read or written, whether one read
was uncorrectable, and the KIND of a denial. -/
def spmAccess (s : State) (a : SpmAcc) : State × List Byte × Bool × Nat :=
  let d := spmDenied s a
  if a.use = .march then (s, [], false, 0)
  else if d ≠ 0 then (spmFault s a d, List.replicate a.len 0, false, d)
  else
    match a.kind with
    | .read =>
      let r := spmRead s (spmMaster a.q) a.off a.len
      (r.1, r.2.1, r.2.2, 0)
    | .write => (spmWrite s a.off a.data, a.data, false, 0)
    | .set => (spmCombine s a orBytes, a.data, false, 0)
    | .clear => (spmCombine s a clrBytes, a.data, false, 0)

/-- Split an access into pieces that stay within one 64-bit word: lengths of the pieces. -/
def wordPieces (off n fuel : Nat) : List (Nat × Nat) :=
  match fuel with
  | 0 => []
  | k + 1 =>
    if n = 0 then []
    else
      let l := min n (8 - off % 8)
      (off, l) :: wordPieces (off + l) (n - l) k

/-- An outside requester's access joins the port's queue: word by word, a rotate access whole (R415–R417). -/
def spmPost (s : State) (m : Requester) (kind : SpmKind) (rotate : Bool) (off : Nat) (len : Nat) (data : List Byte) : State :=
  let mk := fun (o l : Nat) => (⟨spmQ m, m, s.cycle, kind, rotate, o, l, slice data (o - off) l, .outside⟩ : SpmAcc)
  let new := if rotate then [mk off len] else (wordPieces off len (len / 8 + 2)).map (fun p => mk p.1 p.2)
  { s with spm := { s.spm with waiting := s.spm.waiting ++ (if len = 0 then [] else new) } }

/-- Requesters with an access waiting and not served in a cycle are counted (R415). -/
def spmConflicts (s : State) : State :=
  (List.range 19).foldl (fun st q =>
    if s.spm.waiting.any (fun a => decide (a.q = q) && decide (a.since ≤ s.cycle)) then bump st (Reg.spmConflict q) 1 else st) s

end Sys2Proof.Machine
end

