-- ==== Sys2Proof/Machine/Causes.lean ====
section
/-!
DEFINITION. Interrupt causes (R460–R462), MSI-X (R461), the PCIe endpoints' own state (R454–R459, R549–R551), and host
memory requests held for Bus Master Enable (R459).
-/
namespace Sys2Proof.Machine

/-- Some bit of an event register is set together with its enable (R460). Event registers reset to zero. -/
def evtOn (s : State) (evt en : Nat) : Bool := (rd0 s evt &&& rd0 s en) ≠ 0

/-- Is cause c active (R460)? -/
def causeOn (s : State) (c : Nat) : Bool :=
  match c with
  | 0 => bitsOf (rd0 s Reg.topLedgerStat) 6 0 ≠ 0 || rd0 s Reg.topErr ≠ 0
  | 1 => bitOf (rd0 s Reg.imgStat) 30
  | 2 => evtOn s Reg.pwrEvt Reg.pwrEvtEn
  | 3 => evtOn s Reg.lcsEvt Reg.lcsEvtEn
  | 4 => evtOn s Reg.nvcEvt Reg.nvcEvtEn
  | 5 => evtOn s Reg.milEvt Reg.milEvtEn
  | 6 => (List.range 32).any (fun p => evtOn s (Reg.tapEvt p) (Reg.tapEvtEn p))
  | 7 => evtOn s Reg.tcaEvt Reg.tcaEvtEn
  | 8 => evtOn s Reg.hshEvt Reg.hshEvtEn
  | 9 => evtOn s Reg.wayEvt Reg.wayEvtEn
  | 10 => evtOn s Reg.lrnEvt Reg.lrnEvtEn
  | 11 => evtOn s Reg.ageEvt Reg.ageEvtEn
  | 12 => evtOn s (Reg.hstTcrEvt 0) (Reg.hstTcrEvtEn 0)
  | 13 => evtOn s (Reg.hstTcrEvt 1) (Reg.hstTcrEvtEn 1)
  | 14 => evtOn s (Reg.hstTcrEvt 2) (Reg.hstTcrEvtEn 2)
  | 15 => evtOn s (Reg.hstTcrEvt 3) (Reg.hstTcrEvtEn 3)
  | 16 => evtOn s Reg.rglEvt Reg.rglEvtEn
  | 17 => evtOn s (Reg.wltEvt 0) (Reg.wltEvtEn 0) || evtOn s (Reg.wltEvt 1) (Reg.wltEvtEn 1)
  | 18 => evtOn s Reg.brgEvt Reg.brgEvtEn
  | 19 => evtOn s Reg.intEvt Reg.intEvtEn
  | 20 => evtOn s Reg.spmEvt Reg.spmEvtEn
  | 21 => (List.range 8).any (fun n => evtOn s (Reg.hstDmaEvt n) (Reg.hstDmaEvtEn n))
  | 22 => evtOn s Reg.hstSpiEvt Reg.hstSpiEvtEn
  | 23 => evtOn s Reg.canEvt Reg.canEvtEn
  | 24 => evtOn s Reg.seqEvt Reg.seqEvtEn
  | 25 => evtOn s (Reg.hstPcieEvt 0) (Reg.hstPcieEvtEn 0) || evtOn s (Reg.hstPcieEvt 1) (Reg.hstPcieEvtEn 1)
  | _ => false

/-- `HST_INT_SUM` as it reads now (R460). -/
def intSum (s : State) : Nat := (List.range 26).foldl (fun a c => if causeOn s c then a + 2 ^ c else a) 0

/-- IRQ_N is driven low (R462). -/
def irqLow (s : State) : Bool := awake s && s.pwr.reqHigh && intSum s &&& rd s Reg.hstSpiIrqEn ≠ 0

/-- The active vectors of function f (R461), given the active causes. -/
def vectorsOf (s : State) (f sum : Nat) : Nat :=
  (List.range 26).foldl (fun a c =>
    let m := rd0 s (Reg.hstMsixMap f c)
    if bitOf sum c && bitOf m 7 then a ||| 2 ^ bitsOf m 4 0 else a) 0

/-- A word of function f's MSI-X table: vector control resets to masked (R461; PCI Express). -/
def msixWord (x : Pcie) (i : Nat) : Nat := x.table.get (fun j => if j % 4 = 3 then 1 else 0) i
def msixSet (x : Pcie) (i v : Nat) : Pcie :=
  { x with table := x.table.set (fun j => if j % 4 = 3 then 1 else 0) i (v % 2 ^ 32) }

/-- MSI-X is enabled; the function mask is set. -/
def msixOn (x : Pcie) : Bool := bitOf x.msixCtl 15
def vecMasked (x : Pcie) (v : Nat) : Bool := bitOf x.msixCtl 14 || bitOf (msixWord x (4 * v + 3)) 0

/-- Send vector v's message: a posted write of its data to its address (R461). -/
def sendMsix (s : State) (f v : Nat) : State :=
  let x := pcie s f
  hostSend s f (.hostWrite f (msixWord x (4 * v) + msixWord x (4 * v + 1) * 2 ^ 32) (leBytes 4 (msixWord x (4 * v + 2))))

/-- A vector's message is wanted: sent, or kept pending while masked; only position 0 sends messages (R461). -/
def wantMsix (s : State) (f v : Nat) : State :=
  let x := pcie s f
  if msixOn x = false ∨ s.img.weltPos ≠ 0 then s
  else if vecMasked x v then setPcie s f { x with pba := x.pba ||| 2 ^ v }
  else sendMsix s f v

/-- Vectors of a mask, lowest first. -/
def bitsList (m : Nat) : List Nat := (List.range 32).filter (fun v => bitOf m v)

/-- Function f's vectors are compared with their last state; one that turned active wants its message (R461). -/
def msixLook (s : State) (f sum : Nat) : State :=
  let x := pcie s f
  let now := vectorsOf s f sum
  if now = x.active then s
  else
    let s1 := setPcie s f { x with active := now }
    (bitsList (now - (now &&& x.active))).foldl (fun st v => wantMsix st f v) s1

/-- The state at the end of a command: causes are looked at and messages go out (R461). -/
def settle (s : State) : State :=
  let sum := intSum s
  msixLook (msixLook s 0 sum) 1 sum

/-- Masked pending vectors that are unmasked and still active send their message; the pending bit clears (R461). -/
def msixRelease (s : State) (f : Nat) : State :=
  let x := pcie s f
  (bitsList x.pba).foldl (fun st v =>
    let y := pcie st f
    if msixOn y && !vecMasked y v then
      let s1 := setPcie st f { y with pba := y.pba - 2 ^ v }
      if bitOf (vectorsOf st f (intSum st)) v then sendMsix s1 f v else s1
    else st) s

/-- Writing 1 to bit v of HST_INT_REARM[f] sends the message again if vector v is still active (R461). -/
def intRearm (s : State) (f v : Nat) : State :=
  let now := vectorsOf s f (intSum s)
  (bitsList (v &&& now)).foldl (fun st i => wantMsix st f i) s

/-- A write into function f's MSI-X table, dword i (R456, R461). -/
def msixTableWrite (s : State) (f i v : Nat) : State :=
  if i < 128 then msixRelease (setPcie s f (msixSet (pcie s f) i v)) f else s

/-- Requests held for Bus Master Enable leave once it is 1 (R459). -/
def releaseHeld (s : State) (f : Nat) : State :=
  let x := pcie s f
  if bitOf x.command 2 then
    let ids := x.held.filterMap (fun o => match o with
      | .hostRead _ id _ _ => some id
      | _ => none)
    let s1 := setPcie s f { x with held := [] }
    bump { s1 with
      out := s1.out ++ x.held
      host := s1.host.map (fun r => if ids.contains r.id then { r with since := s.cycle } else r) }
      (Reg.hstPcieCnt f 3) x.held.length
  else s

/-- `HST_PCIE_ID` as fused (R549). -/
def pcieIdView (s : State) : Nat := s.lcs.pcieId

/-- `BRG_SIDE` as it reads now (R407). -/
def brgSideView (s : State) : Nat :=
  b2n (flag s Reg.imgStat 30) * 2 ^ 31 + b2n (flag s Reg.topLedgerStat 7) * 2 ^ 30 + s.tca.level * 2 ^ 28 +
    s.mil.state * 2 ^ 26 + b2n s.mil.valid * 2 ^ 25 + b2n s.drc.double * 2 ^ 24 + s.tca.temp % 256 * 2 ^ 16

/-- `BRG_POLL` as it reads now (R548). -/
def brgPollView (s : State) : Nat := intSum s * 2 ^ 32 + brgSideView s

end Sys2Proof.Machine
end

