-- ==== Sys2Proof/Machine/Can.lean ====
section
/-!
DEFINITION. The CAN FD controller (R476–R482) and the message memory (R478), the objects that carry management over CAN
(R483, R484).
-/
namespace Sys2Proof.Machine

/-- Count and latch (R482). -/
def ccnt (s : State) (i : Nat) : State := bump s (Reg.canCnt i) 1
def cevt (s : State) (b : Nat) : State := setEvt s Reg.canEvt b

/-- The controller is off the bus by INIT (R476). -/
def canInit (s : State) : Bool := flag s Reg.canCtrl 0

/-- CAN_CTRL.MODE (R476). -/
def canMode (s : State) : Nat := fget s Reg.canCtrl 18 16

/-- A word of an object (R478). -/
def objOff (k w : Nat) : Nat := 0x144000 + 0x80 * k + 4 * w

/-- Object k has TXREQ at 1. -/
def txReq (s : State) (k : Nat) : Bool := flag s (Reg.canObjStat k) 31

/-- The object reads as uncorrectable; its words are read, and what they show is tracked (R423, R478). -/
def objRead (s : State) (k : Nat) : State × Bool :=
  (List.range 16).foldl (fun (a : State × Bool) w =>
    let r := wordRead a.1 0x11 (16 * k + w) 50
    (r.1, a.2 || decide (r.2.1 = .uncorrectable))) (s, false)

/-- A 32-bit word of an object has been written, half of its codeword (R411, R413, R435). -/
def objWritten (s : State) (k w : Nat) : State := wordMerged s 0x11 (16 * k + w / 2)

/-- An offset in the message memory, and the codeword it lies in (R411, R478). -/
def inObjs (off : Nat) : Bool := decide (0x144000 ≤ off) && decide (off < 0x148000)
def objWord (off : Nat) : Nat := (off - 0x144000) / 8

/-- A read of n bytes at an offset: in the message memory it is tracked, and carries the error left in its word (R412, R423). -/
def objSeen (s : State) (off n v : Nat) : State × Nat :=
  if inObjs off then
    (readWords s 0x11 50 [objWord off], v ^^^ (residual s 0x11 (objWord off) / 2 ^ (8 * (off % 8)) % 2 ^ (8 * n)))
  else (s, v)

/-- A read at an offset is of an uncorrectable word of the message memory (R425). -/
def objBad (s : State) (off : Nat) : Bool := inObjs off && badWords s 0x11 (objWord off) 1

/-- A bit of an object's status is set (R11, R478). -/
def objEvt (s : State) (k b : Nat) : State := setEvt s (Reg.canObjStat k) b

/-- The bytes a DLC stands for (ISO 11898-1). -/
def dlcLen (fdf : Bool) (dlc : Nat) : Nat :=
  if dlc ≤ 8 then dlc
  else if fdf = false then 8
  else [12, 16, 20, 24, 32, 48, 64].getD (dlc - 9) 64

/-- The smallest DLC that holds n bytes. -/
def dlcFor (n : Nat) : Nat :=
  match (List.range 16).find? (fun d => decide (n ≤ dlcLen true d)) with
  | some d => d
  | none => 15

/-- Data bytes of an object. -/
def objData (s : State) (k n : Nat) : List Byte :=
  ((List.range 16).map (fun i => leBytes 4 (rd s (Reg.canObjData k i)))).flatten.take n

/-- Store data bytes into an object; places past them hold unstated bytes. -/
def putObjData (s : State) (k : Nat) (bs : List Byte) : State :=
  let all := bs ++ (List.range (64 - bs.length)).map (fun i => Config.canPad s.draws i)
  (List.range 16).foldl (fun st i => wr st (Reg.canObjData k i) (fieldAt all (4 * i) 4)) (draw s)

/-- The frame a transmit object sends (R478, R480): FD format and bit-rate switch only where they are enabled. -/
def objFrame (s : State) (k : Nat) : CanFrame :=
  let w0 := rd s (Reg.canObjId k)
  let w1 := rd s (Reg.canObjFmt k)
  let fdf := bitOf w1 28 && flag s Reg.canCtrl 20
  let rtr := bitOf w1 29 && !fdf
  ⟨bitOf w0 29, bitsOf w0 28 0, rtr, fdf, fdf && bitOf w1 27 && flag s Reg.canCtrl 19, decide (127 < s.can.tec), bitsOf w1 3 0,
    if rtr then [] else objData s k (dlcLen fdf (bitsOf w1 3 0))⟩

/-- The arbitration field as a number: lower wins (ISO 11898-1). -/
def arbField (f : CanFrame) : Nat :=
  let base := bitsOf f.id 28 18
  if f.ide then base * 2 ^ 21 + 3 * 2 ^ 19 + bitsOf f.id 17 0 * 2 + b2n f.rtr
  else base * 2 ^ 21 + b2n f.rtr * 2 ^ 20

/-- The pending object sent next (R480). -/
def nextTx (s : State) : Option Nat :=
  minByKey (fun k => arbField (objFrame s k) * 128 + k) ((List.range 128).filter (fun k =>
    txReq s k && flag s (Reg.canObjId k) 31 && flag s (Reg.canObjId k) 30))

/-- An object's transmission ends: TXREQ clears, and TXOK or TXFAIL is set (R478, R480). -/
def endObj (s : State) (k : Nat) (ok : Bool) : State :=
  let off := Reg.canObjStat k
  let s1 := objEvt (fput (fput s off 31 31 0) off 25 25 0) k (if ok then 28 else 27)
  if flag s1 (Reg.canObjFmt k) 31 then cevt s1 1 else s1

/-- Start of frame: the bus is taken to be idle, and the first pending frame is copied and sent; an object that reads as
uncorrectable ends at once (R478, R480). -/
def canStart (s : State) (fuel : Nat) : State :=
  match fuel with
  | 0 => s
  | n + 1 =>
    if canInit s || !s.can.joined || s.can.busOff || s.can.tx.isSome || decide (canMode s = 3) then s
    else
      match nextTx s with
      | none => s
      | some k =>
        let r := objRead s k
        if r.2 then canStart (cevt (objEvt (endObj r.1 k false) k 26) 3) n
        else
          let f := objFrame s k
          let s1 := { r.1 with can := { r.1.can with tx := some (k, f, false) } }
          if canMode s = 1 then s1
          else { s1 with out := s1.out ++ [.canFrame k f.id f.ide f.fdf f.brs f.rtr f.dlc f.data] }

/-- The error counters take new values: WARN, PASSIVE and bus-off as they are reached (R481, R482). -/
def canErrors (s : State) (tec rec_ : Nat) : State :=
  let c := s.can
  let s1 := { s with can := { c with
    tec := tec
    rec_ := rec_ } }
  let s2 := if (96 ≤ tec ∧ c.tec < 96) ∨ (96 ≤ rec_ ∧ c.rec_ < 96) then cevt s1 4 else s1
  let s3 := if max c.tec c.rec_ ≤ 127 ∧ 127 < max tec rec_ then cevt s2 5 else s2
  if 255 < tec ∧ c.busOff = false then
    let s4 := ccnt (cevt s3 6) 5
    let s5 := (List.range 128).foldl (fun st k => if txReq st k then fput st (Reg.canObjStat k) 23 16 0 else st) s4
    { s5 with can := { s5.can with
      busOff := true
      recovering := flag s Reg.canCtrl 21
      recov := 0
      tx := none
      fails := [] } }
  else s3

/-- A protocol error with its code (R482). -/
def protoErr (s : State) (lec : Nat) : State :=
  ccnt (cevt (fput (rcEvent s Reg.canStat (fget s Reg.canStat 31 29) lec (fun _ b => b)) Reg.canStat 31 29 lec) 8) 3

/-- Store a frame into the lowest matching receive object (R479). `ns`: road time of its start-of-frame bit. -/
def storeFrame (s : State) (f : CanFrame) (ns : Nat) : State :=
  let hit := fun (k : Nat) =>
    let w0 := rd s (Reg.canObjId k)
    bitOf w0 31 && !bitOf w0 30 && decide ((f.id ^^^ bitsOf w0 28 0) &&& rd s (Reg.canObjMask k) = 0) &&
      (!flag s (Reg.canObjFmt k) 30 || bitOf w0 29 == f.ide)
  match (List.range 128).find? hit with
  | none => ccnt s 2
  | some k =>
    let r := objRead s k
    if r.2 then cevt (objEvt r.1 k 26) 3
    else
      let lost := flag s (Reg.canObjStat k) 30
      let s1 := fput (fput r.1 (Reg.canObjId k) 29 29 (b2n f.ide)) (Reg.canObjId k) 28 0 f.id
      let fmt := putBits (putBits (rd s1 (Reg.canObjFmt k)) 29 26
        (b2n f.rtr * 8 + b2n f.fdf * 4 + b2n f.brs * 2 + b2n f.esi)) 3 0 f.dlc
      let s2 := wr (putObjData (wr s1 (Reg.canObjFmt k) fmt) k f.data) (Reg.canObjTime k) ns
      let s4 := objEvt (rangeWritten s2 0x11 (16 * k) 16) k 30
      let s5 := if lost then cevt (objEvt s4 k 29) 2 else s4
      if flag s5 (Reg.canObjFmt k) 31 then cevt s5 0 else s5

/-- A frame is received well: the receive error counter falls (R481). -/
def recDown (s : State) : State :=
  let c := s.can.rec_
  if c = 0 then s
  else if c ≤ 127 then canErrors s s.can.tec (c - 1)
  else canErrors (draw s) s.can.tec (119 + Config.canRecBack s.draws % 9)

/-- CAN_FRAME_RECEIVE (R479, R481): a good frame (lec 0) is stored or counted; an error of code `lec` raises REC by 1, or
by 8 when a dominant bit follows the error flag. -/
def canReceive (s : State) (f : CanFrame) (lec : Nat) (heavy : Bool) (ago : Nat) : State :=
  if canInit s || !s.can.joined || s.can.busOff then s
  else if lec = 0 then storeFrame (recDown (ccnt s 0)) f (roadAgo s ago / roadUnit)
  else canErrors (protoErr s lec) s.can.tec (min 255 (s.can.rec_ + (if heavy then 8 else 1)))

/-- A failed attempt: the object stops at its limit or after an ABORT, or stays pending (R480). -/
def txFailed (s : State) (k : Nat) (abort : Bool) : State :=
  let n := s.can.fails.nat k + 1
  let s1 := { s with can := { s.can with fails := s.can.fails.setNat k n } }
  let retry := fget s Reg.canCtrl 30 23
  if abort ∨ flag s Reg.canCtrl 22 ∨ (retry ≠ 0 ∧ n ≥ 1 + retry) then endObj s1 k false else s1

/-- CAN_TRANSMIT_END (R476, R480, R481, R482): `ago` × 125 ps since the start-of-frame bit's sample point. -/
def canTxEnd (s0 : State) (e : CanEnd) (ago : Nat) : State :=
  let s := canStart s0 129
  match s.can.tx with
  | none => s
  | some (k, f, abort) =>
    let off := Reg.canObjStat k
    let s1 := satBump { s with can := { s.can with tx := none } } off 23 16 1
    let ns := roadAgo s ago / roadUnit
    match e with
    | .success =>
      let s2 := ccnt (wr (endObj s1 k true) (Reg.canObjTime k) ns) 1
      let s3 := canErrors s2 (s2.can.tec - 1) s2.can.rec_
      if canMode s = 1 ∨ canMode s = 2 then storeFrame (ccnt s3 0) f ns else s3
    | .lost => txFailed (ccnt s1 4) k abort
    | .error lec dom =>
      let free := decide (lec.val = 3) && decide (127 < s.can.tec) && !dom
      let s2 := canErrors (protoErr s1 lec.val) (if free then s1.can.tec else s1.can.tec + 8) s1.can.rec_
      if s2.can.busOff then s2 else txFailed s2 k abort

/-- TXREQ of object k is set (R480). -/
def setTxReq (s : State) (k : Nat) : State :=
  let off := Reg.canObjStat k
  if txReq s k then s
  else
    let s1 := fput (fput s off 31 31 1) off 23 16 0
    { s1 with can := { s1.can with fails := s1.can.fails.setNat k 0 } }

/-- ABORT of object k (R480): at once when it is not on the bus; otherwise its frame finishes. -/
def abortTx (s : State) (k : Nat) : State :=
  if txReq s k = false then s
  else
    match s.can.tx with
    | some (j, f, _) =>
      if j = k then { fput s (Reg.canObjStat k) 25 25 1 with can := { s.can with tx := some (j, f, true) } } else endObj s k false
    | none => endObj s k false

/-- Management holds objects 126 and 127 for the bench core (R484). -/
def objHeld (s : State) (m : Requester) (k : Nat) : Bool :=
  decide (126 ≤ k) && flag s (Reg.seqCanm 0) 31 && m ≠ .benchM && m ≠ .benchU && m ≠ .internal

/-- A write of word w of object k (R478, R480, R484). -/
def objWrite (s : State) (m : Requester) (k w v : Nat) : State :=
  let off := objOff k w
  if objHeld s m k then rsvd s m.code off
  else if w = 3 then
    let s1 := commitFields s m.code off (v % 2 ^ 31 - bitsOf v 25 25 * 2 ^ 25)
    let s2 := if bitOf v 31 then setTxReq s1 k else s1
    objWritten (if bitOf v 25 then abortTx s2 k else s2) k w
  else if (w ≤ 2 ∨ (8 ≤ w ∧ w ≤ 23)) then
    if txReq s k then rsvd s m.code off else objWritten (commitFields s m.code off v) k w
  else s

/-- A write of CAN_CTRL (R476, R482): MODE, FDOE and BRSE change only while INIT is 1; clearing INIT leaves the controller
to join; setting it takes it off the bus; RECOVER starts recovery in bus-off. -/
def canCtrlWrite (s : State) (m v : Nat) : State :=
  let old := rd s Reg.canCtrl
  let keep := bitsOf old 20 16
  let shut := !bitOf old 0 && decide (bitsOf v 20 16 ≠ keep)
  let s1 := fput (commitFields s m Reg.canCtrl (if shut then putBits v 20 16 keep else v)) Reg.canCtrl 31 31 0
  let s2 := if shut then rsvd s1 m Reg.canCtrl else s1
  let s3 := if bitOf v 0 || bitOf old 0 then { s2 with can := { s2.can with
      joined := false
      tx := none } } else s2
  if bitOf v 31 ∧ s3.can.busOff then { s3 with can := { s3.can with recovering := true } } else s3

/-- The bit timing a register pair gives is allowed (R477). -/
def timingOk (nbt dbt : Nat) : Bool :=
  let n := (bitsOf nbt 24 16 + 1) * (1 + (bitsOf nbt 15 8 + 1) + (bitsOf nbt 6 0 + 1))
  let d := (bitsOf dbt 15 11 + 1) * (1 + (bitsOf dbt 10 6 + 1) + (bitsOf dbt 3 0 + 1))
  decide (80 ≤ n) && decide (10 ≤ d) && decide (bitsOf nbt 31 25 ≤ bitsOf nbt 15 8) && decide (bitsOf nbt 31 25 ≤ bitsOf nbt 6 0) &&
    decide (bitsOf dbt 19 16 ≤ bitsOf dbt 10 6) && decide (bitsOf dbt 19 16 ≤ bitsOf dbt 3 0)

/-- A write of CAN_NBT, CAN_DBT or CAN_TDC (R476, R477). -/
def canTimingWrite (s : State) (m off v : Nat) : State :=
  if canInit s = false then rsvd s m off
  else
    let s1 := commitFields s m off v
    if timingOk (rd s1 Reg.canNbt) (rd s1 Reg.canDbt) then s1 else rsvd s m off

/-- CAN_JOIN: 11 recessive bits after INIT was cleared (R476). -/
def canJoin (s : State) : State := if canInit s || !s.pwr.reqHigh then s else { s with can := { s.can with joined := true } }

/-- RECOVERED: `n` more recessive sequences were counted; with 128 the controller is error active again (R482). -/
def canRecovered (s : State) (n : Nat) : State :=
  if canInit s || !s.can.busOff || !s.can.recovering then s
  else
    let r := min 128 (s.can.recov + n)
    if r < 128 then { s with can := { s.can with recov := r } }
    else cevt { s with can := { s.can with
      tec := 0
      rec_ := 0
      busOff := false
      recovering := false
      recov := 128 } } 7

/-- CAN_STAT as it reads now (R482). -/
def canStatView (s : State) : Nat :=
  let c := s.can
  let st := if canInit s then 3 else if c.busOff then 2 else if 127 < max c.tec c.rec_ then 1 else 0
  fget s Reg.canStat 31 29 * 2 ^ 29 + st * 2 ^ 27 + b2n (decide (96 ≤ max c.tec c.rec_)) * 2 ^ 26 + c.tec % 512 * 2 ^ 16 +
    c.rec_ * 2 ^ 8 + c.recov

/-- The firmware applies SEQ_CANM to objects 126 and 127 (R483, R484). -/
def canmApply (s : State) : State :=
  let a := rd s (Reg.seqCanm 0)
  let b := rd s (Reg.seqCanm 1)
  if bitOf a 31 then
    let s1 := wr (wr (wr s (Reg.canObjId 126) (2 ^ 31 + bitsOf a 29 29 * 2 ^ 29 + bitsOf a 28 0)) (Reg.canObjFmt 126) (2 ^ 30))
      (Reg.canObjMask 126) (2 ^ 29 - 1)
    let s2 := wr s1 (Reg.canObjId 127) (3 * 2 ^ 30 + bitsOf b 29 29 * 2 ^ 29 + bitsOf b 28 0)
    objWritten (objWritten (rangeWritten s2 0x11 (16 * 126) 1) 126 2) 127 0
  else s

/-- The response to a management request (R483): OP + 0x80, SEQ, STATUS, zero, data; format as the request's. -/
def mgmtRespond (s : State) (status : Nat) (data : List Byte) : State :=
  let req := objData s 126 64
  let w1 := rd s (Reg.canObjFmt 126)
  let fdf := bitOf w1 28
  let bs := [BitVec.ofNat 8 (fieldAt req 0 1 + 0x80)] ++ leBytes 1 (fieldAt req 1 1) ++ leBytes 1 status ++ leBytes 1 0 ++ data
  let s1 := wr s (Reg.canObjFmt 127) (b2n fdf * 2 ^ 28 + bitsOf w1 27 27 * 2 ^ 27 + dlcFor bs.length)
  let s2 := putObjData (fput s1 (Reg.canObjStat 126) 30 30 0) 127 bs
  setTxReq (rangeWritten (objWritten s2 127 1) 0x11 (16 * 127 + 4) 8) 127

/-- A management request waits for its answer, and the response object is free (R483). -/
def mgmtReady (s : State) : Bool :=
  flag s (Reg.seqCanm 0) 31 && s.seq.running && flag s (Reg.canObjStat 126) 30 && !txReq s 127

/-- The request's OP, its length, and its argument bytes. -/
def mgmtOp (s : State) : Nat := bitsOf (rd s (Reg.canObjData 126 0)) 7 0
def mgmtLen (s : State) : Nat :=
  dlcLen (flag s (Reg.canObjFmt 126) 28) (fget s (Reg.canObjFmt 126) 3 0)
def mgmtArg (s : State) (n : Nat) : Nat := fieldAt (objData s 126 64) 4 n

/-- The firmware answers the request `op`, which has `args` argument bytes, with `answer`; a malformed request gets FORMAT
(R483). -/
def mgmtAnswer (s : State) (op args : Nat) (answer : State → State) : State :=
  if mgmtReady s = false ∨ mgmtOp s ≠ op then s
  else if mgmtLen s < 4 + args ∨ bitsOf (rd s (Reg.canObjData 126 0)) 31 16 ≠ 0 then mgmtRespond s 3 []
  else answer s

/-- A request with any other OP is answered UNKNOWN (R483). -/
def mgmtUnknown (s : State) : State :=
  if mgmtReady s ∧ (mgmtOp s = 0 ∨ 6 < mgmtOp s) then mgmtRespond s 1 [] else s

/-- PING (R483). -/
def mgmtPing (s : State) (topId : Nat) : State := mgmtAnswer s 1 0 (fun t => mgmtRespond t 0 (leBytes 4 topId))

/-- STATUS (R483). -/
def mgmtStatus (s : State) : State :=
  mgmtAnswer s 2 0 (fun t => mgmtRespond t 0 (leBytes 1 t.pwr.st.code ++ leBytes 1 t.tca.level ++ leBytes 1 t.tca.temp ++
    leBytes 1 (b2n t.mil.valid + 2 * b2n (flag t Reg.topLedgerStat 7) + 4 * b2n (flag t Reg.imgStat 30) +
      8 * b2n t.pwr.warmStart)))

/-- TIME (R483): road time in the form of the request's frame. -/
def mgmtTime (s : State) : State :=
  mgmtAnswer s 3 0 (fun t =>
    if flag t (Reg.canObjFmt 126) 28 then mgmtRespond t 0 (leBytes 8 (nowNs t) ++ leBytes 1 (baseUnc t))
    else mgmtRespond t 0 (leBytes 4 (nowNs t)))

/-- STAY_AWAKE (R483, R490): PWR_HOLD_MS becomes max(current, argument). -/
def mgmtStayAwake (s : State) : State :=
  mgmtAnswer s 5 2 (fun t => mgmtRespond (wr t Reg.pwrHoldMs (max (rd t Reg.pwrHoldMs) (mgmtArg t 2))) 0 [])

/-- PARK_VOTE (R483, R490): the hold time clears; with CAN_VOTE the firmware writes a PARK request. -/
def mgmtParkVote (s : State) : State :=
  mgmtAnswer s 6 0 (fun t =>
    let s1 := mgmtRespond (wr t Reg.pwrHoldMs 0) 0 []
    if flag t Reg.pwrCfg 0 then parkRequest s1 .benchM 0x5041 else s1)

end Sys2Proof.Machine
end

