-- ==== Sys2Proof/Machine/Dma.lean ====
section
/-!
DEFINITION. The DMA channels (R463–R467): owners, addresses, the descriptor ring, running a descriptor piece by piece,
halting, RESUME and SKIP. A channel runs one descriptor at a time.
-/
namespace Sys2Proof.Machine

/-- OWNER of a channel: 0 and 1 the PCIe functions, 2 the bench core (R463). -/
def dmaOwner (s : State) (n : Nat) : Nat := fget s (Reg.hstDmaCfg n) 1 0

/-- Only the owner and the bench core can write a channel's registers (R463); the image loader's writes are the image's. -/
def dmaMay (s : State) (m : Requester) (n : Nat) : Bool :=
  match m with
  | .pcie0 => decide (dmaOwner s n = 0)
  | .pcie1 => decide (dmaOwner s n = 1)
  | .benchM => true
  | .benchU => true
  | .loader => true
  | .internal => true
  | .spi => false
  | .bridge => false

/-- A channel, and the regulator master it belongs to (R347). -/
def dmaCh (s : State) (n : Nat) : DmaCh := s.dma.get (fun _ => DmaCh.zero) n
def setDma (s : State) (n : Nat) (x : DmaCh) : State := { s with dma := s.dma.set (fun _ => DmaCh.zero) n x }
def dmaMaster (n : Nat) : Nat := 38 + n / 2

/-- Ring size, STATE and enable of a channel. -/
def dmaSize (s : State) (n : Nat) : Nat := 2 ^ fget s (Reg.hstDmaCtrl n) 3 0
def dmaState (s : State) (n : Nat) : Nat := fget s (Reg.hstDmaStat n) 31 30
def dmaEn (s : State) (n : Nat) : Bool := flag s (Reg.hstDmaCtrl n) 4

/-- Descriptors posted and not completed. -/
def dmaPosted (s : State) (n : Nat) : Nat :=
  (fget s (Reg.hstDmaTail n) 15 0 + 65536 - fget s (Reg.hstDmaHead n) 15 0) % 65536

/-- The address of the descriptor at HEAD. -/
def dmaDescAddr (s : State) (n : Nat) : Nat :=
  rd s (Reg.hstDmaBase n) + 32 * (fget s (Reg.hstDmaHead n) 15 0 % dmaSize s n)

/-- STATE follows the ring: RUN while there is work, IDLE otherwise; HALT stays. -/
def dmaFollow (s : State) (n : Nat) : State :=
  if dmaState s n = 2 then s
  else fput s (Reg.hstDmaStat n) 31 30 (if dmaEn s n && dmaPosted s n ≠ 0 then 1 else 0)

/-- The granules of a DRAM range. -/
def granFrom (a : Nat) : Nat := a / 64
def granCount (a n : Nat) : Nat := (a + n + 63) / 64 - a / 64

/-- A run of granules lies outside every DRAM table region and the waymark index. -/
def outsideTables (s : State) (g n : Nat) : Bool :=
  s.img.tables.all (fun e =>
    match e.2 with
    | some d => !d.isDram || apart d.base d.size g n
    | none => true) && apart (wayBase s) (256 * wayPages s) g n

/-- A granule lies in a spare page in use (R430). -/
def inSpare (s : State) (g : Nat) : Bool :=
  s.intg.retire.any (fun e =>
    match e.2 with
    | some r => r.inForce && decide (r.spare = g / 64)
    | none => false)

/-- A run of granules lies outside every spare page in use (R464). -/
def outsideSpares (s : State) (g n : Nat) : Bool :=
  s.intg.retire.all (fun e =>
    match e.2 with
    | some r => !r.inForce || apart (64 * r.spare) 64 g n
    | none => true)

/-- A march runs over a DRAM granule. -/
def marchGran (s : State) (g : Nat) : Bool :=
  match s.intg.march with
  | some m => decide (m.mem = 1) && decide (m.start ≤ g) && decide (g < m.start + m.len)
  | none => false

/-- A destructive march runs over a DRAM granule: reads return zero and writes change nothing (R437). -/
def marchEats (s : State) (g : Nat) : Bool :=
  match s.intg.march with
  | some m => !m.preserving && marchGran s g
  | none => false

/-- An address range keeps R464 (with R430), R418 and R420. -/
def dmaAddrOk (s : State) (n addr len : Nat) (write : Bool) : Bool :=
  if addr / 2 ^ 62 ≤ 1 then decide (dmaOwner s n ≤ 1)
  else if addr / 2 ^ 62 = 2 then
    decide (bitsOf addr 61 19 = 0) && decide (bitsOf addr 18 0 + len ≤ vaultBase) &&
      (!write || decide (fwEnd s ≤ bitsOf addr 18 0))
  else
    decide (bitsOf addr 61 32 = 0) && decide (bitsOf addr 31 0 + len ≤ 2 ^ 32) &&
      outsideTables s (granFrom (bitsOf addr 31 0)) (granCount (bitsOf addr 31 0) len) &&
      outsideSpares s (granFrom (bitsOf addr 31 0)) (granCount (bitsOf addr 31 0) len)

/-- A channel as a scratchpad requester (R414). -/
def dmaQ (n : Nat) : Nat := 5 + n

/-- Where DONE and STATUS of the descriptor at HEAD stand, if the ring is reachable (R465, R467). -/
def dmaBackAddr (s : State) (n : Nat) : Option Nat :=
  let a := dmaDescAddr s n + 28
  if !dmaAddrOk s n a 4 true || a / 2 ^ 62 = 3 then none else some a

/-- Write DONE and STATUS into the descriptor at HEAD (R465, R467): at the scratchpad's port, for the use `u`, or posted to
the host. -/
def dmaWriteBack (s : State) (n : Nat) (done : Bool) (status : Nat) (u : SpmUse) : State :=
  let bs := leBytes 4 (b2n done * 2 ^ 31 + status * 2 ^ 24)
  match dmaBackAddr s n with
  | none => s
  | some a =>
    if a / 2 ^ 62 = 2 then askPort s (dmaQ n) .write (bitsOf a 18 0) 4 bs u
    else hostSend s (dmaOwner s n) (.hostWrite (dmaOwner s n) (bitsOf a 62 0) bs)

/-- A status write of channel n at the port, and any of its accesses there but a halted descriptor's. -/
def backOf (n : Nat) (u : SpmUse) : Bool :=
  match u with
  | .dmaBack c _ _ => decide (c = n)
  | _ => false
def dmaUse (n : Nat) (u : SpmUse) : Bool := decide (u = .dma n) || backOf n u

/-- The channel gives up its run: what returns later is not its own. -/
def dmaDrop (s0 : State) (n : Nat) : State :=
  let s := dropAsks s0 (dmaUse n)
  let x := dmaCh s n
  withdraw (setDma s n ⟨false, none, x.seq + 1⟩) (fun r =>
    match r.purpose with
    | .dma c _ => decide (c = n)
    | _ => false)

/-- The channel halts on an error (R467). -/
def dmaHalt (s : State) (n code addr : Nat) : State :=
  let s1 := dmaDrop s n
  let s2 := if code = 5 then s1 else dmaWriteBack s1 n false code (.put none)
  let s3 := wr (wr s2 (Reg.hstDmaErraddr n) addr) (Reg.hstDmaStat n)
    (2 * 2 ^ 30 + code * 2 ^ 16 + fget s (Reg.hstDmaHead n) 15 0 % dmaSize s n)
  setEvt s3 (Reg.hstDmaEvt n) 1

/-- The ended descriptor's status is written back: HEAD advances (R465–R467). -/
def dmaAdvance (s : State) (n : Nat) (irq : Bool) : State :=
  let s1 := if dmaState s n = 2 then wr s (Reg.hstDmaStat n) 0 else s
  let s2 := wr s1 (Reg.hstDmaHead n) ((fget s1 (Reg.hstDmaHead n) 15 0 + 1) % 65536)
  let s3 := dmaFollow (setDma s2 n ⟨false, none, (dmaCh s2 n).seq + 1⟩) n
  if irq then setEvt s3 (Reg.hstDmaEvt n) 0 else s3

/-- A descriptor has ended (R465, R466): its status is written back, in the scratchpad at the port, and HEAD advances. -/
def dmaNext (s : State) (n : Nat) (status : Nat) (irq : Bool) : State :=
  let u := SpmUse.dmaBack n status irq
  let wb := dmaWriteBack s n true status u
  match dmaBackAddr s n with
  | some a => if a / 2 ^ 62 = 2 then (if asks s u then s else wb) else dmaAdvance wb n irq
  | none => dmaAdvance wb n irq

/-- The descriptor's format (R465). -/
def dmaFormatOk (d : List Byte) : Bool :=
  let len := fieldAt d 16 3
  let zero := bitOf (fieldAt d 20 4) 1
  decide (fieldAt d 19 1 = 0) && decide (fieldAt d 20 4 / 8 = 0) && decide (8 ≤ len) && decide (len ≤ 16777208) &&
    decide (len % 8 = 0) && (zero || decide (fieldAt d 0 8 % 8 = 0)) && decide (fieldAt d 8 8 % 8 = 0)

/-- A descriptor is here: its checks, and the start of its run. -/
def dmaBegin (s : State) (n : Nat) (d : List Byte) : State :=
  let src := fieldAt d 0 8
  let dst := fieldAt d 8 8
  let len := fieldAt d 16 3
  let fl := fieldAt d 20 4
  if !dmaFormatOk d then dmaHalt s n 1 (dmaDescAddr s n)
  else if !bitOf fl 1 && !dmaAddrOk s n src len false then dmaHalt s n 2 src
  else if !dmaAddrOk s n dst len true then dmaHalt s n 2 dst
  else
    let x := dmaCh s n
    setDma s n { x with
      fetching := false
      op := some ⟨src, dst, len, bitOf fl 1, bitOf fl 0, 0, 0, [], none, 0⟩ }

/-- Read the descriptor at HEAD: at the scratchpad's port, or asked of the owner's host memory (R465). -/
def dmaFetch (s : State) (n : Nat) : State :=
  let a := dmaDescAddr s n
  if !dmaAddrOk s n a 32 false || a / 2 ^ 62 = 3 then dmaHalt s n 5 a
  else if a / 2 ^ 62 = 2 then askPort s (dmaQ n) .read (bitsOf a 18 0) 32 [] (.dma n)
  else
    hostRead (setDma s n { dmaCh s n with fetching := true }) (dmaOwner s n) (bitsOf a 62 0) 32 (.dmaDesc n)

/-- The longest piece a read of host memory may ask for: Max Read Request Size, and no crossing of 4 KiB (PCIe). -/
def dmaPiece (s : State) (n addr left : Nat) : Nat :=
  min left (min (128 * 2 ^ min 2 (bitsOf (pcie s (dmaOwner s n)).devCtl 14 12)) (4096 - addr % 4096))

/-- Read the next piece of the source (R466). -/
def dmaReadMore (s : State) (n : Nat) (o : DmaOp) : State :=
  let a := o.src + o.got
  let left := o.len - o.got
  let x := dmaCh s n
  if a / 2 ^ 62 ≤ 1 then
    let k := dmaPiece s n a left
    hostRead (setDma s n { x with op := some { o with reading := some (a, k) } }) (dmaOwner s n) (bitsOf a 62 0) k
      (.dmaData n x.seq)
  else if a / 2 ^ 62 = 2 then askPort s (dmaQ n) .read (bitsOf a 18 0) 8 [] (.dma n)
  else
    let b := bitsOf a 31 0
    if inSpare s (b / 64) then dmaHalt s n 4 a
    else if marchEats s (b / 64) then
      setEvt (setDma s n { x with op := some { o with
        got := o.got + min left (64 - b % 64)
        buf := o.buf ++ List.replicate (min left (64 - b % 64)) 0 } }) Reg.spmEvt 2
    else if heldM s (dmaMaster n) false then s
    else
      present (setDma s n { x with op := some { o with reading := some (a, min left (64 - b % 64)) } }) (dmaMaster n) false
        (.dma n x.seq) s.cycle [Gran.rd (b / 64)]

/-- How many bytes the next write of the destination takes; 0: not enough read yet. -/
def dmaWant (s : State) (n : Nat) (o : DmaOp) : Nat :=
  let a := o.dst + o.put
  let left := o.len - o.put
  let have_ := if o.zero then left else o.buf.length
  let full :=
    if a / 2 ^ 62 = 3 then min left (64 - bitsOf a 31 0 % 64)
    else if a / 2 ^ 62 = 2 then 8
    else min left (min (128 * 2 ^ min 1 (bitsOf (pcie s (dmaOwner s n)).devCtl 7 5)) (4096 - a % 4096))
  if full ≤ have_ || have_ = left then min full have_ else 0

/-- Write the next piece of the destination (R466). -/
def dmaWriteMore (s : State) (n : Nat) (o : DmaOp) (k : Nat) : State :=
  let a := o.dst + o.put
  let bs := if o.zero then List.replicate k 0 else o.buf.take k
  let o1 := { o with
    put := o.put + k
    buf := o.buf.drop k }
  let x := dmaCh s n
  if a / 2 ^ 62 ≤ 1 then
    hostSend (setDma s n { x with op := some o1 }) (dmaOwner s n) (.hostWrite (dmaOwner s n) (bitsOf a 62 0) bs)
  else if a / 2 ^ 62 = 2 then askPort s (dmaQ n) .write (bitsOf a 18 0) k bs (.dma n)
  else
    let b := bitsOf a 31 0
    if inSpare s (b / 64) then dmaHalt s n 4 a
    else if marchEats s (b / 64) then setEvt (setDma s n { x with op := some o1 }) Reg.spmEvt 2
    else if heldM s (dmaMaster n) true then s
    else
      present (setDma s n { x with op := some { o1 with writes := o1.writes + 1 } }) (dmaMaster n) false (.dma n x.seq) s.cycle
        [Gran.wr (b / 64) ((List.range k).zip bs |>.map (fun e => (b % 64 + e.1, e.2)))]

/-- One move of a channel that runs: fetch, write what is ready, read more, or end the descriptor. -/
def dmaMove (s : State) (n : Nat) : State :=
  let x := dmaCh s n
  if dmaState s n ≠ 1 || x.fetching || asks s (.dma n) then s
  else
    match x.op with
    | none => if s.pwr.stopGrants then s else dmaFetch s n
    | some o =>
      let k := dmaWant s n o
      if o.put < o.len ∧ k ≠ 0 then dmaWriteMore s n o k
      else if o.put = o.len then s
      else if o.reading.isNone && !o.zero && decide (o.got < o.len) then dmaReadMore s n o
      else s

/-- A channel's access at the scratchpad's port is served (R465, R466): the descriptor, a word of the source, or one of the
destination. -/
def dmaServed (s : State) (n : Nat) (a : SpmAcc) (bytes : List Byte) (bad : Bool) : State :=
  let x := dmaCh s n
  match x.op with
  | none => if bad then dmaHalt s n 5 (dmaDescAddr s n) else dmaBegin s n bytes
  | some o =>
    if a.kind = .write then
      dmaMove (setDma s n { x with op := some { o with
        put := o.put + a.len
        buf := o.buf.drop a.len } }) n
    else if bad then dmaHalt s n 4 (o.src + o.got)
    else
      dmaMove (setDma s n { x with op := some { o with
        got := o.got + 8
        buf := o.buf ++ bytes } }) n

/-- DMA_DESCRIPTOR_DONE (R466): every byte is written and acknowledged. -/
def dmaEnd (s : State) (n : Nat) : State :=
  match (dmaCh s n).op with
  | none => s
  | some o => if dmaState s n = 1 ∧ o.put = o.len ∧ o.writes = 0 then dmaNext s n 0 o.irq else s

/-- Every channel moves once; of two channels of one master, the one whose turn it is goes first (R347). -/
def dmaAll (s : State) : State :=
  (List.range 4).foldl (fun st k =>
    let first := s.rgl.dmaTurn.nat k % 2
    dmaMove (dmaMove st (2 * k + first)) (2 * k + 1 - first)) s

/-- Source data is here for the run `seq` of a channel. -/
def dmaData (s : State) (n seq : Nat) (data : List Byte) : State :=
  let x := dmaCh s n
  if x.seq ≠ seq then s
  else
    match x.op with
    | none => s
    | some o =>
      match o.reading with
      | none => s
      | some r =>
        dmaMove (setDma s n { x with op := some { o with
          got := o.got + r.2
          buf := o.buf ++ slice data 0 r.2
          reading := none } }) n

/-- A granule of the source has returned (R466, R425). -/
def dmaGran (s : State) (n seq : Nat) (data : List Byte) (bad : Bool) : State :=
  let x := dmaCh s n
  match x.op with
  | none => s
  | some o =>
    if x.seq ≠ seq then s
    else
      let a := o.src + o.got
      if bad then dmaHalt s n 4 a else dmaData s n seq (data.drop (bitsOf a 31 0 % 64))

/-- A write of a channel is acknowledged; the descriptor may be complete (R466). -/
def dmaAck (s : State) (n seq : Nat) : State :=
  let x := dmaCh s n
  match x.op with
  | none => s
  | some o => if x.seq ≠ seq then s else dmaMove (setDma s n { x with op := some { o with writes := o.writes - 1 } }) n

/-- A host read of a channel failed (R458, R467). -/
def dmaHostFail (s : State) (n seq : Nat) : State :=
  let x := dmaCh s n
  match x.op with
  | none => s
  | some o => if x.seq ≠ seq then s else dmaHalt s n 3 (o.src + o.got)

/-- Refuse a channel write from another requester (R463). -/
def dmaGuard (s : State) (m : Requester) (n off : Nat) (go : State) : State := if dmaMay s m n then go else rsvd s m.code off

/-- DMA_DOORBELL: a write of HST_DMA_TAIL (R465, R329). -/
def dmaDoorbell (s : State) (m : Requester) (n v : Nat) : State :=
  dmaGuard s m n (Reg.hstDmaTail n)
    (if dmaEn s n && decide ((v % 65536 + 65536 - fget s (Reg.hstDmaHead n) 15 0) % 65536 > dmaSize s n) then
      rsvd s m.code (Reg.hstDmaTail n)
    else dmaMove (dmaFollow (wr s (Reg.hstDmaTail n) (v % 65536)) n) n)

/-- RESUME restarts the halted descriptor from its beginning (R467). -/
def dmaResume (s : State) (n : Nat) : State :=
  if dmaState s n ≠ 2 then s else dmaMove (dmaFollow (wr (dropAsks s (backOf n)) (Reg.hstDmaStat n) 0) n) n

/-- SKIP marks the halted descriptor done with its status and goes on (R467). -/
def dmaSkip (s : State) (n : Nat) : State :=
  if dmaState s n ≠ 2 then s
  else
    let code := fget s (Reg.hstDmaStat n) 19 16
    dmaMove (dmaNext s n code false) n

/-- The channel stops and is IDLE (R459; EN written 0). -/
def dmaStop (s : State) (n : Nat) : State := wr (dmaDrop s n) (Reg.hstDmaStat n) 0

/-- A write of HST_DMA_CTRL: EN starts or stops the channel; RESUME and SKIP act on a halted descriptor (R465, R467). -/
def dmaCtrlWrite (s : State) (m : Requester) (n v : Nat) : State :=
  dmaGuard s m n (Reg.hstDmaCtrl n)
    (let was := dmaEn s n
     let s1 := fput (commitFields s m.code (Reg.hstDmaCtrl n) v) (Reg.hstDmaCtrl n) 31 30 0
     if !was && dmaEn s1 n then
       dmaFollow (wr (wr (wr (dmaDrop s1 n) (Reg.hstDmaStat n) 0) (Reg.hstDmaHead n) 0) (Reg.hstDmaTail n) 0) n
     else if was && !dmaEn s1 n then dmaStop s1 n
     else if dmaEn s1 n && bitOf v 31 then dmaResume s1 n
     else if dmaEn s1 n && bitOf v 30 then dmaSkip s1 n
     else s1)

end Sys2Proof.Machine
end

