-- ==== Sys2Proof/Machine/Host.lean ====
section
/-!
DEFINITION. The PCIe endpoints as commands meet them (R454–R461, R485): completions and timeouts of the device's own
requests, resets, configuration space, errors; and the bench core's watchdog and mailboxes (R472–R475).
-/
namespace Sys2Proof.Machine

/-- Count and latch an error that the endpoint reports as uncorrectable (R458, R550, R551). -/
def pcieErr (s : State) (f kind : Nat) (evt : Option Nat) : State :=
  let s1 := bump { s with out := s.out ++ [.pcieError f kind] } (Reg.hstPcieCnt f 2) 1
  match evt with
  | some b => setEvt s1 (Reg.hstPcieEvt f) b
  | none => s1

/-- The requester of a failed device request fails (R331, R337, R458, R467). -/
def hostFails (s : State) (r : HostReq) : State :=
  match r.use with
  | .slotFetch ring => slotHere s ring none
  | .cmdInput id => setInput s id none false
  | .dmaDesc n => if (dmaCh s n).fetching then dmaHalt s n 5 (dmaDescAddr s n) else s
  | .dmaData n seq => dmaHostFail s n seq

/-- The data of a device request is here. -/
def hostGives (s : State) (r : HostReq) (data : List Byte) : State :=
  match r.use with
  | .slotFetch ring => slotHere s ring (some data)
  | .cmdInput id => setInput s id (some data) false
  | .dmaDesc n => if (dmaCh s n).fetching && dmaState s n = 1 then dmaBegin s n data else s
  | .dmaData n seq => dmaData s n seq data

/-- A request is held back while Bus Master Enable is 0 (R459). -/
def hostHeld (s : State) (r : HostReq) : Bool :=
  (pcie s r.f).held.any (fun o => match o with
    | .hostRead _ id _ _ => decide (id = r.id)
    | _ => false)

/-- HOST_COMPLETION (R458): data, or UR, CA or poisoned data, for the outstanding request `id`. -/
def hostCompletion (s : State) (id : Nat) (st : CplStatus) (data : List Byte) : State :=
  match s.host.find? (fun r => r.id = id) with
  | none => s
  | some r =>
    if hostHeld s r then s
    else
      let s1 := { s with host := s.host.filter (fun x => x.id ≠ id) }
      match st with
      | .ok => hostGives s1 r (slice data 0 r.len)
      | .poisoned => hostFails (setEvt (bump s1 (Reg.hstPcieCnt r.f 2) 1) (Reg.hstPcieEvt r.f) 4) r
      | .ur => hostFails (setEvt s1 (Reg.hstPcieEvt r.f) 4) r
      | .ca => hostFails (setEvt s1 (Reg.hstPcieEvt r.f) 4) r

/-- The shortest time, in cycles, after which a value of Completion Timeout Value allows a timeout (PCI Express, ranges
A–D). -/
def timeoutCycles (v : Nat) : Nat :=
  match v with
  | 1 => 40000
  | 2 => 800000
  | 5 => 12800000
  | 6 => 52000000
  | 9 => 208000000
  | 10 => 800000000
  | 13 => 3200000000
  | 14 => 13600000000
  | _ => 40000

/-- COMPLETION_TIMEOUT (R458): request `id` has waited the Completion Timeout of Device Control 2. -/
def completionTimeout (s : State) (id : Nat) : State :=
  match s.host.find? (fun r => r.id = id) with
  | none => s
  | some r =>
    let c2 := (pcie s r.f).devCtl2
    if hostHeld s r || bitOf c2 4 || decide (s.cycle < r.since + timeoutCycles (bitsOf c2 3 0)) then s
    else
      let s1 := { s with host := s.host.filter (fun x => x.id ≠ id) }
      hostFails (setEvt (bump s1 (Reg.hstPcieCnt r.f 2) 1) (Reg.hstPcieEvt r.f) 4) r

/-- A ring's commands in flight lose their completions (R459). -/
def discardRing (s : State) (f : Nat) : State :=
  let dead := s.tcr.compl.filter (fun c => c.ring = f)
  let s0 := dropAsks s (fun u => decide (u = .slot f) || decide (u = .compl f))
  let s1 := { s0 with tcr := { s0.tcr with
    compl := s.tcr.compl.filter (fun c => c.ring ≠ f)
    gone := s.tcr.gone ++ (s.tcr.cmds.filter (fun c => decide (c.ring = f) && !s.tcr.gone.contains c.id)).map (fun (c : TCmd) => c.id)
    fetching := s.tcr.fetching.set (fun _ => false) f false } }
  dead.foldl (fun st _ => skipChead st f) (fput s1 (Reg.hstTcrCtrl f) 4 4 0)

/-- ENDPOINT_RESET (R459): endpoint f only. -/
def endpointReset (s : State) (f : Nat) (k : ResetKind) : State :=
  let x := pcie s f
  let lost := s.host.filter (fun r => r.f = f)
  let s1 := { s with host := s.host.filter (fun r => r.f ≠ f) }
  let s2 := discardRing s1 f
  let s3 := lost.foldl (fun st r => match r.use with
    | .cmdInput id => setInput st id none false
    | _ => st) s2
  let s4 := (List.range 8).foldl (fun st n =>
    if dmaOwner st n = f then fput (dmaStop st n) (Reg.hstDmaCtrl n) 4 4 0 else st) s3
  let s5 := { s4 with brg := { s4.brg with reads := s4.brg.reads.filter (fun r => r.set ≠ f) } }
  let s6 := wr s5 (Reg.brgRrdStat f) 0
  let s7 := wr s6 (Reg.rglHostUrg f) 0
  let s8 := setPcie s7 f { Pcie.zero with up := decide (k ≠ .perst) && x.up }
  let s9 := (List.range 4).foldl (fun st i => wr st (Reg.hstPcieCnt f i) 0) s8
  setEvt s9 (Reg.hstPcieEvt f) 5

/-- PERST_RELEASE (R485): the endpoint trains its link. -/
def perstRelease (s : State) (f : Nat) : State :=
  if awake s then setPcie s f { pcie s f with up := true } else s

/-- Configuration requests are answered with Retry Status until apply ends or every image has failed (R455). -/
def cfgReady (s : State) : Bool := s.img.applied || flag s Reg.imgStat 30

/-- A register of configuration space as it reads (R454, R455; the layout is PCI Express's). -/
def cfgRead (s : State) (f : Nat) (r : CfgReg) : Nat :=
  let x := pcie s f
  match r with
  | .vendorDevice => 0x8032 * 2 ^ 16 + bitsOf s.lcs.pcieId 15 0
  | .command => (Config.pcieOther 1).toNat / 2 ^ 16 * 2 ^ 16 + x.command
  | .classRev => 0x0B4000 * 2 ^ 8 + s.lcs.rev % 256
  | .bar0Lo => x.bar0 % 2 ^ 32 + 4
  | .bar0Hi => x.bar0 / 2 ^ 32
  | .subsystem => (Config.pcieOther 11).toNat / 2 ^ 16 * 2 ^ 16 + bitsOf s.lcs.pcieId 31 16
  | .devCtl => (Config.pcieOther 2).toNat / 2 ^ 16 * 2 ^ 16 + x.devCtl
  | .devCtl2 => (Config.pcieOther 3).toNat / 2 ^ 16 * 2 ^ 16 + x.devCtl2
  | .msixCtl => (x.msixCtl + 31) * 2 ^ 16 + (Config.pcieOther 4).toNat % 2 ^ 16
  | .other o => (Config.pcieOther (4096 + o.val)).toNat

/-- A configuration write (R454, R459): Bus Master Enable releases what it held back, the BAR keeps its alignment, and
Initiate Function Level Reset resets the endpoint. -/
def cfgWrite (s : State) (f : Nat) (r : CfgReg) (v : Nat) : State :=
  let x := pcie s f
  match r with
  | .vendorDevice => s
  | .command => releaseHeld (setPcie s f { x with command := v &&& 0x0546 }) f
  | .classRev => s
  | .bar0Lo => setPcie s f { x with bar0 := putBits x.bar0 31 0 (v &&& 0xFE000000) }
  | .bar0Hi => setPcie s f { x with bar0 := putBits x.bar0 63 32 v }
  | .subsystem => s
  | .devCtl => if bitOf v 15 then endpointReset s f .flr else setPcie s f { x with devCtl := v % 2 ^ 15 }
  | .devCtl2 => setPcie s f { x with devCtl2 := v % 2 ^ 16 }
  | .msixCtl => msixRelease (setPcie s f { x with msixCtl := v / 2 ^ 16 &&& 0xC000 }) f
  | .other _ => s

/-- CONFIGURATION_REQUEST (R455): a read, or a write of `v`. -/
def configRequest (s : State) (f : Nat) (write : Bool) (r : CfgReg) (v : Nat) : State :=
  if !awake s || !(pcie s f).up then s
  else if !cfgReady s then { s with out := s.out ++ [.cfgRetry f] }
  else if write then cfgWrite s f r v
  else { s with out := s.out ++ [.cfgData f (cfgRead s f r)] }

/-- UNSUPPORTED_REQUEST (R457, R458): a request the endpoint answers with an error, and link errors. -/
def unsupportedRequest (s : State) (f : Nat) (k : BadReq) : State :=
  if !awake s || !(pcie s f).up then s
  else
    match k with
    | .unsupported => pcieErr s f 1 none
    | .badRead => pcieErr s f 2 (some 0)
    | .badWrite => pcieErr s f 2 (some 0)
    | .poisonedWrite => pcieErr s f 3 (some 2)
    | .linkError => bump s (Reg.hstPcieCnt f 1) 1

/-- The mailbox's owner (R475). -/
def mboxOwner (m : Nat) : Requester := if m = 0 then .pcie0 else if m = 1 then .pcie1 else .spi

/-- A requester may write mailbox m (R475). -/
def mboxMay (r : Requester) (m : Nat) : Bool := r = mboxOwner m || r = .benchM || r = .benchU || r = .loader

/-- A write of SEQ_MBOX_CMD[m] (R475): GO posts a request and clears DONE. -/
def mboxCmdWrite (s : State) (r : Requester) (m v : Nat) : State :=
  let off := Reg.seqMboxCmd m
  if !mboxMay r m then s
  else if bitOf v 31 && flag s off 31 && !flag s off 30 then rsvd s r.code off
  else
    let s1 := commitFields s r.code off v
    if bitOf v 31 then fput s1 off 30 30 0 else s1

/-- A write of SEQ_MBOX_IN[m][i] (R475). -/
def mboxInWrite (s : State) (r : Requester) (m i v : Nat) : State :=
  if mboxMay r m then commitFields s r.code (Reg.seqMboxIn m i) v else s

/-- A request is posted in mailbox m and the firmware runs. -/
def mboxPosted (s : State) (m : Nat) : Bool :=
  awake s && s.seq.running && flag s (Reg.seqMboxCmd m) 31 && !flag s (Reg.seqMboxCmd m) 30

/-- The firmware answers (R475): STATUS, DONE and SEQ_EVT.MBOX[m]. -/
def mboxAnswer (s : State) (m status : Nat) : State :=
  setEvt (fput (fput s (Reg.seqMboxCmd m) 15 8 status) (Reg.seqMboxCmd m) 30 30 1) Reg.seqEvt m

/-- OP of the request in mailbox m. -/
def mboxOp (s : State) (m : Nat) : Nat := fget s (Reg.seqMboxCmd m) 7 0

/-- VERSION (R475): the version words of the firmware, which the spec does not state. -/
def mboxVersion (s : State) (m : Nat) : State :=
  if mboxPosted s m && mboxOp s m = 1 then
    mboxAnswer (wr (wr s (Reg.seqMboxOut m 0) (Config.firmwareVersion 0).toNat) (Reg.seqMboxOut m 1)
      (Config.firmwareVersion 1).toNat) m 0
  else s

/-- A mailbox whose CHECKPOINT waits for its write to end. -/
def mboxWaits (s : State) (m : Nat) : Bool := s.seq.ckptBox.any (fun b => b % 4 = m)

/-- CHECKPOINT (R475, R505): a time-state record is written now; the answer comes when the write ends. -/
def mboxCheckpoint (s : State) (m : Nat) : State :=
  if mboxPosted s m && mboxOp s m = 2 && !mboxWaits s m then
    let a := ringSlot s.nvc.seq
    let s1 := recordTime s false
    { s1 with seq := { s1.seq with ckptBox := s1.seq.ckptBox ++ [4 * a + m] } }
  else s

/-- CHECKPOINT_WRITE_DONE with the answers it releases (R475, R504). -/
def ckptEnds (s : State) : State :=
  let s1 := ckptDone s
  let over_ := s1.seq.ckptBox.filter (fun b => s1.nvc.ops.all (fun o => o.kind ≠ 2 || o.addr ≠ b / 4))
  let s2 := { s1 with seq := { s1.seq with ckptBox := s1.seq.ckptBox.filter (fun b => !over_.contains b) } }
  over_.foldl (fun st b => if mboxPosted st (b % 4) then mboxAnswer st (b % 4) 0 else st) s2

/-- MGMT_RELOAD (R475, R484). -/
def mboxReload (s : State) (m : Nat) : State :=
  if mboxPosted s m && mboxOp s m = 3 then mboxAnswer (canmApply s) m 0 else s

/-- MAILBOX_ANSWER (R475): the firmware writes OUT and STATUS and sets DONE. The Craolaell firmware answers an operation it
does not know with UNKNOWN. -/
def mailboxAnswer (s : State) (m status : Nat) (out : List (BitVec 32)) : State :=
  if !mboxPosted s m || mboxWaits s m then s
  else if !flag s Reg.imgStat 25 && (mboxOp s m = 0 || decide (3 < mboxOp s m)) then mboxAnswer s m 1
  else
    mboxAnswer ((List.range 4).foldl (fun st i =>
      match out[i]? with
      | some v => wr st (Reg.seqMboxOut m i) v.toNat
      | none => st) s) m status

/-- WDOG_KICK (R474). -/
def wdogKick (s : State) (key : Nat) : State :=
  if key % 65536 = 0x4B1C then { s with seq := { s.seq with wdogAt := s.cycle } } else s

/-- A write of SEQ_WDOG: the count starts when EN is set (R474). -/
def wdogWrite (s : State) (m v : Nat) : State :=
  let was := flag s Reg.seqWdog 31
  let s1 := commitFields s m Reg.seqWdog v
  if !was && flag s1 Reg.seqWdog 31 then { s1 with seq := { s1.seq with wdogAt := s.cycle } } else s1

/-- WDOG (R474): PERIOD µs have passed without a kick; the core is reset to its entry address. -/
def wdogExpire (s : State) : State :=
  if s.seq.running && flag s Reg.seqWdog 31 && decide (s.seq.wdogAt + 800 * fget s Reg.seqWdog 23 0 ≤ s.cycle) then
    setEvt { s with seq := { s.seq with wdogAt := s.cycle } } Reg.seqEvt 3
  else s

end Sys2Proof.Machine
end

