-- ==== Sys2Proof/Machine/Repair.lean ====
section
/-!
DEFINITION. Retirement of DRAM pages and ternary blocks (R430–R434), the scrub walkers (R426–R428), and the march engine
(R436–R439, R450).
-/
namespace Sys2Proof.Machine

/-- Entry i of the page-retire map. -/
def retireAt (s : State) (i : Nat) : Option Retire := KMap.find s.intg.retire i
def setRetire (s : State) (i : Nat) (r : Option Retire) : State :=
  { s with intg := { s.intg with
    retire := KMap.put s.intg.retire i r
    recordDirty := true } }

/-- The recorded retirements. -/
def retirements (s : State) : List Retire := s.intg.retire.filterMap (fun e => e.2)

/-- A page lies in a table region or the waymark index. -/
def pageInTables (s : State) (page : Nat) : Bool := !outsideTables s (64 * page) 64

/-- A write of `INT_RETIRE_ENT` retiring P onto S is refused (R430). -/
def retireBad (s : State) (p sp : Nat) : Bool :=
  (retirements s).any (fun r => decide (r.page = p) || decide (r.page = sp) || decide (r.spare = sp)) || decide (sp = p) ||
    pageInTables s sp

/-- Copy a page's 64 granules to its spare: corrected words corrected, uncorrectable words poisoned (R413, R430). -/
def copyPage (s : State) (p sp : Nat) : State :=
  let lo := p * 4096
  let to_ := sp * 4096
  let src := s.drc.mem.filter (fun e => decide (lo ≤ e.1) && decide (e.1 < lo + 4096))
  let rest := s.drc.mem.filter (fun e => decide (e.1 < to_) || decide (to_ + 4096 ≤ e.1))
  let s1 := { s with drc := { s.drc with mem := src.foldl (fun m e => memPut m (e.1 - lo + to_) e.2) rest } }
  (List.range 512).foldl (fun st w =>
    let a := p * 512 + w
    let b := sp * 512 + w
    match flipAt st 1 a with
    | none => setFlip st 1 b none
    | some f =>
      let e := ecc72 f.mask
      let old := memBytes st.drc.mem (b * 8) 8
      let st1 := { st with drc := { st.drc with mem := memPuts st.drc.mem (b * 8) (leBytes 8 (ofLe old ^^^ e.2)) } }
      setFlip st1 1 b (if e.1 = .uncorrectable then some ⟨poison72, f.injected⟩ else none)) s1

/-- RETIRE_ENT_WRITE (R430, R434): the page's content moves to its spare, and accesses wait until the copy ends. -/
def retireWrite (s : State) (m v : Nat) : State :=
  let i := fget s Reg.intRetireIdx 9 0
  let p := bitsOf v 19 0
  let sp := bitsOf v 51 32
  if !bitOf v 63 then (if (retireAt s i).isSome then rsvd s m Reg.intRetireEnt else s)
  else if (retireAt s i).isSome || retireBad s p sp then rsvd s m Reg.intRetireEnt
  else
    let s1 := copyPage s p sp
    charge (setRetire s1 i (some ⟨p, sp, some (s.cycle + 16000), true⟩)) false 44 128

/-- RETIRE_DONE: the copy of a retirement ends, within 20 µs (R430). -/
def retireDone (s : State) : State :=
  match s.intg.retire.find? (fun e => match e.2 with
    | some r => r.busyTo.isSome
    | none => false) with
  | none => s
  | some e =>
    match e.2 with
    | none => s
    | some r =>
      setEvt { s with intg := { s.intg with retire := KMap.put s.intg.retire e.1 (some { r with busyTo := none }) } }
        Reg.intEvt 9

/-- `INT_RETIRE_ENT` as it reads for the selected entry (R449). -/
def retireView (s : State) : Nat :=
  match retireAt s (fget s Reg.intRetireIdx 9 0) with
  | none => 0
  | some r => b2n r.inForce * 2 ^ 63 + b2n r.busyTo.isSome * 2 ^ 62 + r.spare * 2 ^ 32 + r.page

/-- A block can be retired: not of an ordered table, and no valid head row in it (R432). -/
def blockEmpty (s : State) (b : Nat) : Bool :=
  match blockOwner s b with
  | none => true
  | some t =>
    match tblOf s t with
    | none => true
    | some d => !isOrdered d && (validHeads s d).all (fun h => h / 8192 ≠ b)

/-- TCA_BLOCK_RETIRE: a write of `INT_TCA_RETIRE` (R432, R434). -/
def tcaRetireWrite (s : State) (m v : Nat) : State :=
  let new := (bitsList (v % 2 ^ 32)).filter (fun b => !flag s Reg.intTcaRetire b)
  if new.any (fun b => !blockEmpty s b) then rsvd s m Reg.intTcaRetire
  else if new = [] then s
  else
    let s1 := wr s Reg.intTcaRetire (rd s Reg.intTcaRetire ||| v % 2 ^ 32)
    { s1 with intg := { s1.intg with recordDirty := true } }

/-- RECORD_CLR (R434): BLANK and DEVELOP only. -/
def recordClr (s : State) (m key : Nat) : State :=
  if key % 65536 ≠ 0x5C1E then s
  else if s.lcs.lcState ≤ 1 then { s with nvc := { s.nvc with recClr := true } }
  else rsvd s m Reg.intRecordClr

/-- `INT_REMAP_STAT` as it reads (R449). -/
def remapView (s : State) : Nat :=
  let k := fget s Reg.intRemapIdx 13 8 * 256 + fget s Reg.intRemapIdx 7 0
  s.intg.spares.nat k * 2 ^ 28 + (s.intg.spares.foldl (fun a e => a + e.2) 0) % 4096

/-- The 64-bit words of an on-die memory (R410); 0: no such memory. -/
def memWords (mem : Nat) : Nat :=
  [65536, 0, 262144, 65536, 131072, 36864, 196608, 131072, 81920, 327680, 131072, 4096, 4096, 12288, 1024, 49152, 16384,
    2048].getD mem 0

/-- The scrub walkers of a memory, and the words each visits: one per macro, one for the whole scratchpad (R427). -/
def walkers (mem : Nat) : Nat := if mem = 0 then 1 else cdiv (memWords mem) 4096
def walkerWords (mem macro_ : Nat) : Nat :=
  if mem = 0 then 65536 else min 4096 (memWords mem - 4096 * macro_)

/-- Every walker, as a key of the walkers' stores. -/
def allWalkers : List Nat :=
  ((List.range 18).map (fun mem => (List.range (walkers mem)).map (fun k => mem * 256 + k))).flatten

/-- A macro's lap ends: `INT_SRAM_LAP` follows the slowest (R427, R447). -/
def sramLapEnd (s : State) (k : Nat) : State :=
  let us := (s.cycle - s.intg.sramLap.nat k) / 800
  let s1 := { s with intg := { s.intg with
    sramLap := s.intg.sramLap.setNat k s.cycle
    sramLaps := s.intg.sramLaps.setNat k (s.intg.sramLaps.nat k + 1)
    sramUs := s.intg.sramUs.setNat k us } }
  let least := allWalkers.foldl (fun a j => min a (s1.intg.sramLaps.nat j)) (2 ^ 32 - 1)
  let slow := s1.intg.sramUs.foldl (fun a e => max a e.2) 0
  wr s1 Reg.intSramLap (satW 32 slow * 2 ^ 32 + least)

/-- The march engine is at work on this macro, whose cycles it takes (R427, R436). -/
def marchBusy (s : State) (mem macro_ : Nat) : Bool :=
  match s.intg.march with
  | none => false
  | some m => decide (m.mem = mem) && decide (s.intg.marchStep < marchTotal m) &&
      decide (macroOf (marchAccess m s.intg.marchStep).1 = macro_)

/-- SRAM_SCRUB_VISIT (R426, R427): the walker of a macro reads its next word in an idle cycle. -/
def sramVisit (s : State) (mem macro_ : Nat) : State :=
  let k := mem * 256 + macro_
  let gap := fget s Reg.intScrubCtrl 7 0
  if !awake s || s.pwr.stopGrants || !flag s Reg.intScrubCtrl 31 || decide (walkers mem ≤ macro_) ||
    (if mem = 0 then !portIdle s else marchBusy s mem macro_) || (decide (s.intg.sramLast.nat k ≠ 0) && decide (s.cycle < s.intg.sramLast.nat k - 1 + gap)) then s
  else
    let w := s.intg.sramPos.nat k
    let s1 := trackScrub s mem (if mem = 0 then w else 4096 * macro_ + w) 44
    let last := decide (w + 1 = walkerWords mem macro_)
    let s2 := { s1 with intg := { s1.intg with
      sramLast := s1.intg.sramLast.setNat k (s.cycle + 1)
      sramPos := s1.intg.sramPos.setNat k (if last then 0 else w + 1)
      sramLap := if w = 0 then s1.intg.sramLap.setNat k s.cycle else s1.intg.sramLap } }
    if last then sramLapEnd s2 k else s2

/-- The DRAM walker asks for its next granule (R428): a spare page or a granule under march is skipped. -/
def scrubPump (s : State) : State :=
  if !awake s || s.pwr.stopGrants || !flag s Reg.intScrubCtrl 31 || !s.drc.clearDone ||
      (s.rgl.reqs ++ s.rgl.parked).any (fun r => match r.purpose with
        | .scrub _ => true
        | _ => false) then s
  else
    let s0 := match s.intg.scrubLap with
      | some _ => s
      | none => progSet { s with intg := { s.intg with
          scrubLap := some s.cycle
          scrubPos := 0 } } Reg.intScrubProg Reg.intScrubTotal 67108864 0 true
    let g := s0.intg.scrubPos
    if 67108864 ≤ g then s0
    else
      let s1 := { s0 with intg := { s0.intg with scrubPos := g + 1 } }
      if inSpare s g || marchGran s g then progAdd s1 Reg.intScrubProg Reg.intScrubTotal 1
      else
        let p := paced s.cycle (fget s Reg.intScrubCtrl 25 16) 1 s.intg.scrubPace
        offer { s1 with intg := { s1.intg with scrubPace := p.2 } } 44 (.scrub g) p.1 [Gran.rd g]

/-- The lap ends once every granule has been visited (R428). -/
def scrubLapEnd (s : State) : State :=
  match s.intg.scrubLap with
  | none => s
  | some t =>
    if fget s Reg.intScrubProg 31 0 < 67108864 then s
    else
      let s1 := wr { s with intg := { s.intg with scrubLap := none } } Reg.intScrubProg (progValue 67108864 67108864 false)
      let laps := fget s1 Reg.intScrubLap 31 0 + 1
      setEvt (wr s1 Reg.intScrubLap (satW 32 ((s.cycle - t) / 800) * 2 ^ 32 + laps % 2 ^ 32)) Reg.intEvt 3

/-- A granule the walker asked for is here (R423, R426): its words are tracked, and corrected words are written back by an
atomic conditional write. -/
def scrubRound (s : State) (g : Nat) (data : List Byte) (errs : List (Nat × Nat × Bool)) : State :=
  let r := (List.range 8).foldl (fun (st : State × List Nat) w =>
    let hit := (errs.find? (fun e => e.1 = w)).map (fun e => (⟨e.2.1, e.2.2⟩ : Flip))
    let v := trackVisit st.1 1 (physGran s g * 8 + w) 44 hit
    (v.1, if v.2 then st.2 ++ [w] else st.2)) (s, [])
  let pairs := r.2.flatMap (fun w => (List.range 8).map (fun i => (8 * w + i, data.getD (8 * w + i) 0)))
  let p := paced s.cycle (fget s Reg.intScrubCtrl 25 16) 2 s.intg.scrubPace
  let s1 := if r.2 = [] then r.1
    else offer { r.1 with intg := { r.1.intg with scrubPace := p.2 } } 44 (.scrubBack g) p.1 [{ Gran.wr g pairs with
      cond := pairs
      rmw := true }]
  scrubLapEnd (progAdd s1 Reg.intScrubProg Reg.intScrubTotal 1)

/-- The march region a command names is whole, inside its memory and aligned (R438, R450). -/
def marchShape (mem start len : Nat) (preserving : Bool) : Bool :=
  let size := if mem = 1 then 67108864 else memWords mem
  let win := if mem = 1 then 4 else 32
  decide (0 < len) && decide (start + len ≤ size) &&
    (if preserving then decide (start % win = 0) && decide (len % win = 0) else decide (mem ≤ 1))

/-- The scratchpad structures of requester q that are switched on, as byte ranges (R421). -/
def spmStructs (s : State) (q : Nat) : List (Nat × Nat) :=
  let ring := fun (r : Nat) =>
    if flag s (Reg.hstTcrCtrl r) 4 then
      (if flag s (Reg.hstTcrBase r) 63 then [(fget s (Reg.hstTcrBase r) 18 0, 32 * ringSize s r)] else []) ++
      (if flag s (Reg.hstTcrCbase r) 63 then [(fget s (Reg.hstTcrCbase r) 18 0, 32 * ringSize s r)] else [])
    else []
  match q with
  | 0 => ring 0
  | 1 => ring 1
  | 2 => ring 3
  | 3 => if s.seq.running then [(0, s.img.fwLen)] else []
  | 4 => ring 2
  | 13 => if fget s Reg.lrnRingSize 3 0 ≠ 0 then [(fget s Reg.lrnRingBase 18 0, 64 * lrnSize s)] else []
  | 17 => if fget s Reg.tcaSigSize 3 0 ≠ 0 then [(fget s Reg.tcaSigBase 18 0, 16 * 2 ^ fget s Reg.tcaSigSize 3 0)] else []
  | 18 => if flag s Reg.imgFcmd 30 then [(fget s Reg.imgFbuf 18 0, fget s Reg.imgFcmd 16 8)] else []
  | _ => []

/-- Region r of the scratchpad is enabled for requester q (R421). -/
def regionOn (s : State) (q r : Nat) : Bool :=
  (decide (q ≠ 14) && decide (q ≠ 15)) &&
    (flag s (Reg.spmEn q) r || (spmStructs s q).any (fun e => !apart e.1 e.2 (0x8000 * r) 0x8000))

/-- Who keeps a destructive march off the scratchpad: the first requester found (R437). -/
def spmBlocker (s : State) (start len : Nat) : Option Nat :=
  (List.range 19).find? (fun q =>
    (List.range 16).any (fun r => !apart (8 * start) (8 * len) (0x8000 * r) 0x8000 && regionOn s q r))

/-- A DMA channel addresses a page of the range (R437). -/
def dmaIn (s : State) (start len : Nat) : Bool :=
  (List.range 8).any (fun n => match (dmaCh s n).op with
    | none => false
    | some o =>
      let hits := fun (a : Nat) => decide (a / 2 ^ 62 = 3) &&
        !apart (bitsOf a 31 0 / 4096) ((bitsOf a 31 0 + o.len + 4095) / 4096 - bitsOf a 31 0 / 4096) (start / 64)
          ((start + len + 63) / 64 - start / 64)
      (!o.zero && hits o.src) || hits o.dst)

/-- What keeps a destructive march away (R437): the BLOCKER. -/
def marchBlocker (s : State) (mem start len : Nat) : Option Nat :=
  if mem = 0 then spmBlocker s start len
  else if !outsideTables s start len || (retirements s).any (fun r => r.inForce && !apart (64 * r.spare) 64 start len) ||
    dmaIn s start len then some 31
  else none

/-- The march has made one more access: POSITION counts what it has finished (R436). -/
def marchAdvance (s : State) : State :=
  match s.intg.march with
  | none => s
  | some m =>
    let k := s.intg.marchStep + 1
    wr { s with intg := { s.intg with marchStep := k } } Reg.intMarchProg (progValue m.len (marchFinished m k) true)

/-- The march engine makes its next access (R414, R436): at the scratchpad's port as requester 15, of DRAM as master 45, of
another memory at once. -/
def marchPump (s : State) : State :=
  match s.intg.march with
  | none => s
  | some m =>
    let a := marchAccess m s.intg.marchStep
    if s.pwr.stopGrants || decide (marchTotal m ≤ s.intg.marchStep) then s
    else if m.mem = 0 then
      (if asks s .march then s else askPort s 15 (if a.2 then .write else .read) (8 * a.1) 8 [] .march)
    else if m.mem = 1 then
      (if (s.rgl.reqs ++ s.rgl.parked).any (fun r => decide (r.purpose = .march)) then s
       else offer s 45 .march s.cycle [if a.2 then Gran.wr a.1 [] else Gran.rd a.1])
    else marchAdvance s

/-- MARCH_GO: a write of `INT_MARCH_CTRL` (R436–R438, R450). -/
def marchGo (s : State) (m v : Nat) : State :=
  if !bitOf v 31 || s.pwr.stopGrants then commitFields s m Reg.intMarchCtrl (v % 2 ^ 31)
  else if progOn s Reg.intMarchProg then rsvd s m Reg.intMarchCtrl
  else
    let s1 := fput (commitFields s m Reg.intMarchCtrl v) Reg.intMarchCtrl 31 31 0
    let mem := fget s1 Reg.intMarchCtrl 5 0
    let pres := flag s1 Reg.intMarchCtrl 30
    let start := fget s1 Reg.intMarchStart 35 0
    let len := fget s1 Reg.intMarchLen 31 0
    if !marchShape mem start len pres then rsvd s1 m Reg.intMarchCtrl
    else
      match (if pres then none else marchBlocker s1 mem start len) with
      | some q => wr s1 Reg.intMarchStat (3 * 2 ^ 30 + q * 2 ^ 25)
      | none =>
        progSet (wr { s1 with intg := { s1.intg with
          march := some ⟨mem, start, len, pres⟩
          marchStep := 0 } } Reg.intMarchStat 0)
          Reg.intMarchProg Reg.intMarchTotal len 0 true

/-- The words a march covers, in the address format of R424, that are corrupted now. -/
def marchFlips (s : State) (m : March) : List (Nat × Flip) :=
  let lo := if m.mem = 1 then 8 * m.start else m.start
  let n := if m.mem = 1 then 8 * m.len else m.len
  s.intg.flips.filterMap (fun e => match e.2 with
    | some f => if wordKey m.mem lo ≤ e.1 ∧ e.1 < wordKey m.mem (lo + n) then some (e.1 - wordKey m.mem 0, f) else none
    | none => none)

/-- A corrupted word copied out of the holding buffer (R413, R425): each of its codes that is uncorrectable is stored poisoned,
with its data as read, and the others are good again. -/
def restoreWord (s : State) (mem a : Nat) (f : Flip) : State :=
  if mem = 0 then
    let old := memBytes s.spm.mem (8 * a) 8
    let new := (old.zip (List.range 8)).map (fun e => e.1 ^^^ BitVec.ofNat 8 (ecc13 (byteMask f.mask e.2)).2)
    let bad := (List.range 8).filter (fun b => decide ((ecc13 (byteMask f.mask b)).1 = .uncorrectable))
    setFlip { s with spm := { s.spm with mem := memPuts s.spm.mem (8 * a) new } } 0 a
      (if bad = [] then none else some ⟨bad.foldl (fun x b => x + 3 * 2 ^ (64 + 5 * b)) 0, f.injected⟩)
  else
    let e := ecc72 f.mask
    let s1 := if mem = 1 then
        { s with drc := { s.drc with
          mem := memPuts s.drc.mem (8 * a) (leBytes 8 (ofLe (memBytes s.drc.mem (8 * a) 8) ^^^ e.2)) } }
      else s
    setFlip s1 mem a (if e.1 = .uncorrectable then some ⟨poison72, f.injected⟩ else none)

/-- The march engine reads a corrupted word: it judges all its codes (R412, R423). -/
def marchRead (s : State) (mem a : Nat) (f : Flip) : State :=
  let e := scrubClass mem f.mask
  match e.1 with
  | .clean => s
  | .corrected => trackCorrected s mem a 45 f e.2
  | .uncorrectable => trackUncorrectable s mem a 45 f e.2

/-- What a march leaves in its region (R437, R438): zeros with good check bits; or the words as they were, corrected, an
uncorrectable one poisoned (R425). -/
def marchRestore (s : State) (m : March) : State :=
  if m.preserving then
    (marchFlips s m).foldl (fun st e => restoreWord (marchRead st m.mem e.1 e.2) m.mem e.1 e.2) s
  else
    let s1 := (marchFlips s m).foldl (fun st e => wordCleaned st m.mem e.1) s
    let unit_ := if m.mem = 1 then 64 else 8
    let cut := fun (l : List Host.Cell) =>
      l.filter (fun (e : Nat × Byte) => decide (e.1 < unit_ * m.start) || decide (unit_ * (m.start + m.len) ≤ e.1))
    if m.mem = 1 then { s1 with drc := { s1.drc with mem := cut s1.drc.mem } }
    else { s1 with spm := { s1.spm with mem := cut s1.spm.mem } }

/-- A failing word: logged and treated as sticky (R439). -/
def marchFailed (s : State) (mem a : Nat) : State :=
  let s1 := bump (setEvt (intLog s 0 6 mem 45 false a) Reg.intEvt 6) (Reg.intCnt mem 3) 1
  sticky s1 mem a 45 false 0

/-- MARCH_DONE (R436, R439): every access made, the march has reached the end of its region; `fails`: the words that failed, in order. -/
def marchDone (s : State) (fails : List Nat) : State :=
  match s.intg.march with
  | none => s
  | some m =>
    if s.intg.marchStep < marchTotal m then s
    else
    let lo := if m.mem = 1 then 8 * m.start else m.start
    let n := if m.mem = 1 then 8 * m.len else m.len
    let bad := fails.filter (fun a => decide (lo ≤ a) && decide (a < lo + n))
    let s1 := marchRestore { s with intg := { s.intg with march := none } } m
    let s2 := bad.foldl (fun st a => marchFailed st m.mem a) s1
    let s3 := wr s2 Reg.intMarchProg (progValue m.len m.len false)
    let s4 := match bad with
      | [] => wr s3 Reg.intMarchStat (1 * 2 ^ 30)
      | a :: _ => wr (wr s3 Reg.intMarchStat (2 * 2 ^ 30)) Reg.intMarchFail a
    setEvt s4 Reg.intEvt 5

end Sys2Proof.Machine
end

