-- ==== Sys2Proof/Machine/Journey.lean ====
section
/-!
DEFINITION. The passage of searches and granules (R166, R190–R202, R323, R346–R362, R441, R442): issuing searches from a
cobbler, granting slots and granules, returning data and acknowledgements to what asked for them, windows, refresh and
throttling.
-/
namespace Sys2Proof.Machine

/-- Issue search n of a flight with its key at cycle `at_` (R28, R29, R196, R202, R243, R248, R295, R390). -/
def issueSearch (s : State) (f : Flight) (n at_ : Nat) (key : KeyBuf) : State :=
  match f.searches[n]? with
  | none => s
  | some x =>
    let s1 := setFlight s { f with searches := updAt f.searches n (fun y => { y with key := key.bits }) }
    let f1 := match flightOf s1 f.tag with
      | some y => y
      | none => f
    let k : Key := BitVec.ofNat 640 key.bits
    let who : Asker := .desc f.tag f.epoch n
    if s.img.searchId = some x.table then
      beginQuery s1 f.port who (bitsOf key.bits 79 64) (bitsOf key.bits 63 0) at_
    else if fget s (Reg.wltTbl x.table) 1 0 ≠ 0 then
      weltIssue s1 f.port f.tag f.epoch n x.table key.bits key.seg f.stamp at_
    else
      match tblOf s x.table with
      | none => s1
      | some d =>
        if d.isTern then
          if actLevel s = 3 ∧ at_ ≤ s.cycle then refuseSearch s1 f1 n
          else present s1 f.port true (.slotSearch who x.table k (if key.seg then some f.stamp else none)) at_ []
        else issueHash s1 f.port x.table who k true at_

/-- COBBLER_START (R166): the lowest free cobbler takes the next descriptor, runs its program and issues its searches. -/
def cobblerStart (s : State) : State :=
  match nextCobbler s, freeCobbler s with
  | some f, some c =>
    let steps := programOf s (bitsOf (recWord f 0) 23 16)
    let n := steps.length
    let f1 := { f with
      started := some s.cycle
      keysDone := s.cycle + (n - 1) / 2 + 1 }
    let s1 := setFlight { rcEvent s Reg.cblStat s.cbl.waitMax (s.cycle - (f.acc + 4)) max with cbl := { s.cbl with
      freeAt := s.cbl.freeAt.setNat c (s.cycle + cdiv n 2)
      waitMax := max s.cbl.waitMax (s.cycle - (f.acc + 4)) } } f1
    (runProgram s f1 steps 1 (List.replicate 4 ⟨0, false⟩)).foldl (fun st e =>
      match flightOf st f.tag with
      | some g => issueSearch st g e.1 (s.cycle + (e.2.1 - 1) / 2 + 1) e.2.2
      | none => st) s1
  | _, _ => s

/-- A search takes a slot: charged, compared, and its answer due 20 cycles later (R190, R191, R349). -/
def grantSearch (s : State) (r : Req) (one : Bool) : State :=
  let s1 := noteWait (charge (takeSlot (dropReq s r.id) one) true r.master 1) r.master (waitOf s r)
  match r.purpose with
  | .slotSearch who t key stamp =>
    let a := tcaSearch s1 t key stamp r.master
    let s2 := answerAt a.1 (s.cycle + 20) who true a.2
    (match who with
     | .welt id => weltGranted s2 id (slotNow s + b2n one)
     | .desc _ _ _ => s2
     | .cmd _ => s2)
  | _ => s1

/-- SLOT_GRANT (R198, R201, R352): the first-ranked search takes slot 0, or slot 1 when slot 0 is taken and no row access
ranks ahead of it. -/
def slotGrant (s : State) : State :=
  let u := slotsUsed s
  match bestSearch s with
  | none => s
  | some r =>
    let rowFirst : Bool := match bestRow s with
      | some x => decide (reqRank s x < reqRank s r)
      | none => false
    if slot0Offered s && !u.1 && (decide (actLevel s = 0) || !rowFirst) then grantSearch s r false
    else if slot1Offered s && u.1 && !u.2 && !rowFirst then grantSearch s r true
    else s

/-- A waiting granule that stands in the march's holding buffer (R438). -/
def nextRedirected (s : State) : Option (Req × Gran) :=
  s.rgl.reqs.findSome? (fun r => if !r.slot && waitingNow s r then (r.grans.find? (redirected s r)).map (fun g => (r, g)) else none)

/-- The channel and run of a DMA request. -/
def dmaOf (p : Purpose) : Option Nat :=
  match p with
  | .dma n _ => some n
  | _ => none

/-- The two channels of a DMA master take turns when both have a request waiting (R347). -/
def dmaPick (s : State) (r : Req) : Req :=
  match dmaOf r.purpose with
  | none => r
  | some n =>
    let turn := s.rgl.dmaTurn.nat (n / 2) % 2
    if n % 2 = turn then r
    else
      match (granWaiting s).find? (fun x => dmaOf x.purpose = some (2 * (n / 2) + turn)) with
      | some x => x
      | none => r

/-- What a granule's grant brings with it beyond the access: a wipe's next granule, a welt member's slot number, a DMA
master's turn. -/
def afterGran (s : State) (r : Req) : State :=
  match r.purpose with
  | .wipe t => wipeNext s t
  | .hashSearch (.welt id) _ _ _ => if r.started then s else weltGranted s id (slotNow s)
  | .dma n _ => { s with rgl := { s.rgl with dmaTurn := s.rgl.dmaTurn.setNat (n / 2) (1 - n % 2) } }
  | .march => marchAdvance s
  | _ => s

/-- GRANULE_GRANT (R352, R353, R441, R444): up to 2 granules in a cycle, none before the DRAM clear has ended. -/
def granuleGrant (s0 : State) : State :=
  let s := runFilters s0
  match nextRedirected s with
  | some x => afterGran (grantGran s x.1 x.2) x.1
  | none =>
    if !s.drc.clearDone || decide (gransUsed s ≥ 2) then s
    else
      match bestGran s with
      | none => s
      | some b =>
        let r := dmaPick s b
        match nextGran s r with
        | none => s
        | some g => afterGran (grantGran s r g) r

/-- A round of reads is complete: it goes to what asked for it. -/
def roundDone (s : State) (x : Round) (r : ReadFl) : State :=
  match x.purpose with
  | .hashSearch who t key stamp => finishHashSearch s x who t key stamp r.due
  | .hashCmd _ => compareAt s (r.due + 4) x
  | .upkeep _ => compareAt s (r.due + 4) x
  | .wayQuery id => queryRound s x id r.due
  | .sweep l t j b => sweepRound s x l t j b
  | .flushRead n => flushRound s x n
  | .scrub g => scrubRound s g r.data r.errs
  | .dma n seq => dmaGran s n seq r.data r.bad
  | .slotSearch _ _ _ _ => s
  | .row _ => s
  | .stampWrite _ _ => s
  | .wayWrite _ _ _ => s
  | .wayHeader _ => s
  | .sweepDelete _ _ _ _ _ _ => s
  | .flushDelete _ _ _ => s
  | .scrubBack _ => s
  | .wipe _ => s
  | .march => s

/-- A compared round goes to the command or the removal it is of. -/
def roundCompared (s : State) (x : Round) : State :=
  match x.purpose with
  | .hashCmd id => hashCmdRound s x id
  | .upkeep id => upkeepRound s x id
  | _ => s

/-- The rounds whose compare has ended go on (R244, R268). -/
def compareDone (s : State) : State :=
  let due := s.hsh.compared.filter (fun (c : Nat × Round) => decide (c.1 ≤ s.cycle))
  let s1 := { s with hsh := { s.hsh with
    compared := s.hsh.compared.filter (fun (c : Nat × Round) => !decide (c.1 ≤ s.cycle)) } }
  wakeWaiting (due.foldl (fun st c =>
    if roundHeld st c.2 then { st with hsh := { st.hsh with compared := st.hsh.compared ++ [c] } } else roundCompared st c.2) s1)

/-- GRANULE_READ_DONE (R441): the first granule whose data is due reaches its requester. -/
def readDone (s : State) : State :=
  match dueRead s with
  | none => s
  | some r =>
    let t := takeRead s r
    let s1 := match t.2 with
      | some x => roundDone t.1 x r
      | none => t.1
    deliverWelt (deliverDue (compareDone s1)) 16

/-- An acknowledged write goes to what made it. -/
def ackDone (s : State) (w : WriteFl) : State :=
  match w.purpose with
  | .hashCmd id => hashCmdAck s w id
  | .upkeep id => upkeepAck s w id
  | .wayWrite p g upto => groupAck s p g upto
  | .wayHeader k => headerAck s k
  | .sweepDelete l t j b i e => sweepAck s w l t j b i e
  | .flushDelete n i e => flushAck s w n i e
  | .wipe t => wipeAck s t
  | .dma n seq => dmaAck s n seq
  | .slotSearch _ _ _ _ => s
  | .row _ => s
  | .hashSearch _ _ _ _ => s
  | .stampWrite _ _ => s
  | .wayQuery _ => s
  | .sweep _ _ _ _ => s
  | .flushRead _ => s
  | .scrub _ => s
  | .scrubBack _ => s
  | .march => s

/-- WRITE_ACK (R441): the first write whose acknowledgement is due. -/
def writeAck (s : State) : State :=
  match dueAck s with
  | none => s
  | some w => wakeWaiting (ackDone (takeAck s w) w)

/-- HELD_WRITE_SERVE (R323): a held write whose earlier search reads are all resolved. -/
def heldServe (s : State) : State :=
  match servable s with
  | none => s
  | some w => serveWrite s w

/-- TERNARY_ANSWER (R191, R392): the first ternary answer that is due; `mi`: the bit that came in on the match line. -/
def ternaryAnswer (s : State) (mi : Bool) : State :=
  match s.vrd.answers.find? (fun a => a.ternary && decide (a.due ≤ s.cycle)) with
  | none => s
  | some a =>
    let s1 := { s with vrd := { s.vrd with answers := s.vrd.answers.erase a } }
    match a.who with
    | .welt id => weltAnswer s1 id a.ans mi
    | .desc _ _ _ => giveAnswer s1 a
    | .cmd id => giveAnswer (laneFree s1 id) a

/-- LATENCY_MISS (R360): a request presented under guarantee has waited LAT_TARGET cycles. -/
def latencyMiss (s : State) : State :=
  match latencyMissOf s with
  | none => s
  | some r =>
    let c := clsOf s r.master
    recordMiss { s with rgl := { s.rgl with reqs := s.rgl.reqs.map (fun x => if x.id = r.id then { x with missed := true } else x) } }
      c 1 (if r.slot then 0 else 1) r.master (latOf s c) 0

/-- The class registers take effect (R359, R366): targets, guarantees and ceilings in force. -/
def loadClasses (s : State) : State :=
  { s with rgl := { s.rgl with
    clsNow := (List.range 8).foldl (fun m c => m.setNat c (rd0 s (Reg.rglClass c))) []
    ceilNow := (List.range 8).foldl (fun m c => m.setNat c (rd0 s (Reg.rglCeil c))) []
    dirty := false } }

/-- MEASUREMENT_WINDOW_START (R349, R354, R358, R359): accounts at coverage, ceilings released, committed class values in
force. -/
def windowStart (s : State) : State :=
  if s.cycle / 800 ≤ s.rgl.windowAt ∨ !s.rgl.budgetOn then s
  else
    let s1 := { s with rgl := { s.rgl with
      windowAt := s.cycle / 800
      logged := []
      slotGot := []
      granGot := [] } }
    let s2 := if s.rgl.dirty then recover (loadClasses s1) else s1
    judgeUnder { s2 with rgl := { s2.rgl with
      slotLeft := s2.rgl.coverS
      granLeft := s2.rgl.coverG } }

/-- A ceiling is 0 or at least the guarantee (R359, R366). -/
def ceilingOk (ceil guar : Nat) : Bool := ceil = 0 || decide (guar ≤ ceil)

/-- RGL_CLASS_COMMIT (R359): the checks in order, then the new value, in force from the next window start. -/
def classCommit (s : State) (m c v : Nat) : State :=
  let off := Reg.rglClass c
  let gs := bitsOf v 10 0
  let gg := bitsOf v 42 32
  let k := rd0 s (Reg.rglCeil c)
  if decide (bitsOf v 63 48 < 16) || decide (1600 < gs) || decide (1440 < gg) || !ceilingOk (bitsOf k 10 0) gs ||
    !ceilingOk (bitsOf k 26 16) gg then rsvd s m off
  else
    let sum := fun (hi lo new : Nat) =>
      (List.range 8).foldl (fun a i => a + if i = c then new else bitsOf (rd0 s (Reg.rglClass i)) hi lo) 0
    let ss := sum 10 0 gs
    let sg := sum 42 32 gg
    if decide (fget s Reg.rglBudget 10 0 < ss) || decide (fget s Reg.rglBudget 26 16 < sg) then
      setEvt (wr s Reg.rglAdmit (c * 2 ^ 48 + sg % 2 ^ 14 * 2 ^ 32 + ss % 2 ^ 14)) Reg.rglEvt 3
    else
      let s1 := commitFields s m off v
      { s1 with rgl := { s1.rgl with dirty := true } }

/-- A write of `RGL_CEIL[c]` (R366): a non-zero ceiling below the guarantee is refused. -/
def ceilWrite (s : State) (m c v : Nat) : State :=
  let k := rd0 s (Reg.rglClass c)
  if !ceilingOk (bitsOf v 10 0) (bitsOf k 10 0) || !ceilingOk (bitsOf v 26 16) (bitsOf k 42 32) then rsvd s m (Reg.rglCeil c)
  else
    let s1 := commitFields s m (Reg.rglCeil c) v
    { s1 with rgl := { s1.rgl with dirty := true } }

/-- `RGL_CLS_STAT[c]` and `RGL_MST_STAT[m]` as they read (R369). -/
def clsStatView (s : State) (c : Nat) : Nat :=
  satW 16 (s.rgl.waitMax.nat c) * 2 ^ 48 +
    (match oldestWait s c with
     | some w => satW 16 w * 2 ^ 32
     | none => 0) + classStep s c * 2 ^ 30 + b2n (atCeil s true c || atCeil s false c) * 2 ^ 29 +
    s.rgl.granLeft.nat c % 2 ^ 11 * 2 ^ 16 + s.rgl.slotLeft.nat c % 2 ^ 11
def mstStatView (s : State) (m : Nat) (nextIsWrite : Bool) : Nat :=
  let h := holdCause s m nextIsWrite
  urgOf s m * 2 ^ 30 + b2n (h ≠ 0) * 2 ^ 29 + h * 2 ^ 26 + min 64 (waitingOf s m)

/-- The interval between refreshes of a pair (R442). -/
def refreshEvery (s : State) : Nat := if s.drc.double then 1560 else 3120

/-- REFRESH of pair p (R442): at its interval the pair refreshes, a postponed refresh back to back with it; while the pair
is busy and some class is at step 2 or 3, it may postpone, up to 8 deep; between intervals, postponed refreshes are
issued. -/
def refreshPair (s : State) (p : Nat) (postpone : Bool) : State :=
  let x := pairAt s p
  let due := decide (x.nextRefresh ≤ s.cycle)
  let pressed := decide (s.cycle < x.freeAt) && match x.cls with
    | some c => decide (2 ≤ classStep s c)
    | none => false
  if s.pwr.st.awake = false ∨ !s.drc.trained then s
  else if due && postpone && pressed && decide (x.postponed < 8) then
    bump (setPair s p (fun y => { y with
      postponed := y.postponed + 1
      nextRefresh := y.nextRefresh + refreshEvery s })) (Reg.drcCnt 1) 1
  else if due then
    let n := if x.postponed = 0 then 1 else 2
    bump (setPair s p (fun y => { y with
      freeAt := max s.cycle y.freeAt + 94 * n
      cls := none
      lastRefresh := max s.cycle y.freeAt
      nextRefresh := y.nextRefresh + refreshEvery s
      postponed := y.postponed + 1 - n })) (Reg.drcCnt 0) n
  else if x.postponed ≠ 0 then
    let n := min 2 x.postponed
    bump (setPair s p (fun y => { y with
      freeAt := max s.cycle y.freeAt + 94 * n
      cls := none
      lastRefresh := max s.cycle y.freeAt
      postponed := y.postponed - n })) (Reg.drcCnt 0) n
  else s

/-- REFRESH_RATE_CHANGE (R356, R442): the DRAM die's temperature, °C + 64. -/
def refreshRate (s : State) (temp : Nat) : State :=
  let s1 := { s with drc := { s.drc with temp := temp } }
  let double := if s.drc.double then decide (146 < temp) else decide (149 < temp)
  if double = s.drc.double then s1
  else
    let s2 := { s1 with drc := { s1.drc with double := double } }
    let s3 := (List.range 4).foldl (fun st p =>
      setPair st p (fun y => { y with nextRefresh := max s.cycle (y.lastRefresh + refreshEvery s2) })) s2
    rebudget s3 false

/-- `DRC_STAT` as it reads (R453). -/
def drcStatView (s : State) : Nat :=
  b2n s.drc.trained * 2 ^ 31 + rd0 s Reg.drcStat / 2 ^ 30 % 2 * 2 ^ 30 + b2n s.drc.double * 2 ^ 29 + b2n s.drc.clearDone * 2 ^ 28 +
    s.drc.temp % 256 * 2 ^ 16 + min 256 (postedN s)

/-- Ternary searches of descriptors and welt members that wait, or whose key is issued in this cycle, are refused at level 3
(R29, R202). -/
def refuseWaiting (s : State) : State :=
  let waiting := s.rgl.reqs.filter (fun r => decide (r.since ≤ s.cycle) && match r.purpose with
    | .slotSearch (.desc _ _ _) _ _ _ => true
    | .slotSearch (.welt _) _ _ _ => true
    | _ => false)
  waiting.foldl (fun st r =>
    let st1 := dropReq st r.id
    match r.purpose with
    | .slotSearch (.desc tag epoch n) _ _ _ =>
      (match flightOf st1 tag with
       | some f => if f.epoch = epoch then refuseSearch st1 f n else st1
       | none => st1)
    | .slotSearch (.welt id) _ _ _ =>
      let st2 := { st1 with wlt := { st1.wlt with mem := st1.wlt.mem.map (fun m => if m.id = id then { m with refused := true } else m) } }
      answerAt (weltGranted st2 id (slotNow st2)) (st.cycle + 20) (.welt id) true Ans.miss
    | _ => st1) s

/-- THERMAL_SAMPLE (R200–R202, R230): the array's temperature, °C + 64. A new level governs from the next cycle. -/
def thermalSample (s : State) (temp : Nat) : State :=
  let l := levelFor s.tca.level (temp - 64)
  let s1 := { actLater (rcEvent s Reg.tcaTherm s.tca.peak 0 max) Reg.tcaTherm s.tca.level with tca := { s.tca with
    temp := temp
    level := l
    peak := max s.tca.peak l } }
  let s2 := if s.tca.level < l then setEvt s1 Reg.tcaEvt 0 else if l < s.tca.level then setEvt s1 Reg.tcaEvt 1 else s1
  if l = s.tca.level then s2 else rebudget s2 false

/-- `TCA_THERM` as it reads (R230). -/
def thermView (s : State) : Nat := s.tca.level * 2 ^ 30 + s.tca.peak * 2 ^ 28 + s.tca.temp % 256 * 2 ^ 16

/-- UPDATE_WINDOW_START (R199): the cap on row accesses restarts. -/
def updateWindow (s : State) : State :=
  if s.tca.windowAt = s.cycle / 800 then s
  else { s with tca := { s.tca with
    windowAt := s.cycle / 800
    windowUsed := 0 } }

/-- ROW_ACCESS (R198, R199, R352): the first-ranked row access takes the slot open to it. -/
def rowAccessStep (s : State) : State :=
  match bestRow s with
  | none => s
  | some r =>
    match r.purpose with
    | .row read => rowAccess s r read
    | _ => s

end Sys2Proof.Machine
end

