-- ==== Sys2Proof/Machine/Lcs.lean ====
section
/-!
DEFINITION. Life-cycle operations and fuses (R67, R508–R510, R515).
-/
namespace Sys2Proof.Machine

/-- The result codes of R515. -/
def lcOk : Nat := 0
def lcDenied : Nat := 1
def lcState : Nat := 2
def lcFormat : Nat := 3
def lcToken : Nat := 4
def lcLastSlot : Nat := 5
def lcFuse : Nat := 6
def lcBusy : Nat := 7

/-- How a state treats an operation (R508): 0 refused, 1 allowed, 2 with a token. -/
def lcAllowed (op st : Nat) : Nat :=
  match op, st with
  | 1, 0 => 1
  | 1, 1 => 1
  | 2, 1 => 1
  | 2, 2 => 2
  | 3, 1 => 1
  | 3, 2 => 2
  | 4, 0 => 1
  | 5, 1 => 1
  | 6, 2 => 2
  | _, _ => 0

/-- Answer an operation (R515). -/
def lcAnswer (s : State) (r : Nat) : State :=
  setEvt { s with lcs := { s.lcs with
    result := r
    op := none } } Reg.lcsEvt 1

/-- A fresh random nonce (R509). -/
def newNonce (s : State) : State :=
  { s with
    draws := s.draws + 1
    lcs := { s.lcs with nonce := (Config.nonce s.draws).toNat } }

/-- The token at LCS_TOKEN_ADDR verifies for an operation (R509). -/
def tokenOk (s : State) (op slot arg : Nat) (t : List Byte) : Bool :=
  let msg := leBytes 8 s.lcs.uid ++ leBytes 8 s.lcs.nonce ++
    [BitVec.ofNat 8 op, BitVec.ofNat 8 slot, BitVec.ofNat 8 arg, 0, 0, 0, 0, 0]
  (List.range 4).any (fun k => slotMatches s k (sha256 (slice t 0 64))) &&
    ecdsaOk (fieldAt t 0 32) (fieldAt t 32 32) (fieldAt t 64 32) (fieldAt t 96 32) (sha256 msg)

/-- Key slot k. -/
def keySlot (s : State) (k : Nat) : KeySlot := s.lcs.keys.getD k KeySlot.zero
def setKeySlot (s : State) (k : Nat) (x : KeySlot) : State :=
  { s with lcs := { s.lcs with keys := updAt s.lcs.keys k (fun _ => x) } }

/-- A slot is programmed and unrevoked (R508). -/
def slotGood (s : State) (k : Nat) : Bool := (keySlot s k).prog && !(keySlot s k).revoked

/-- The conditions of an operation beyond the state table (R508, R515); 0: none fails. -/
def lcFault (s : State) (op slot arg : Nat) : Nat :=
  if op = 1 then (if (keySlot s slot).prog then lcFormat else lcOk)
  else if op = 2 then
    (if ((List.range 4).filter (fun k => k ≠ slot && slotGood s k)) = [] then lcLastSlot else lcOk)
  else if op = 3 then (if arg < 1 ∨ 64 < arg ∨ arg ≤ s.lcs.secVer then lcFormat else lcOk)
  else if op = 4 then (if s.lcs.keys.any (fun k => k.prog) then lcOk else lcState)
  else if op = 5 then (if (List.range 4).any (slotGood s) then lcOk else lcState)
  else lcOk

/-- Fuse words an operation programs (R508): a key slot's hash takes 8, every other operation's bits lie in one word,
or in the two words of the thermometer. -/
def lcWords (s : State) (op arg : Nat) : Nat :=
  if op = 1 then 8
  else if op = 3 then (if s.lcs.secVer < 32 ∧ 32 < arg then 2 else 1)
  else 1

/-- A write of LCS_CMD that issues an operation (R508–R510, R515). -/
def lcIssue (s : State) (m : Requester) (op slot arg : Nat) : State :=
  if s.lcs.op.isSome then { s with lcs := { s.lcs with result := lcBusy } }
  else if s.pwr.st = .parking then lcAnswer s lcState
  else if (m = .pcie0 ∨ m = .spi ∨ benchSecure s m) = False then lcAnswer s lcDenied
  else if op = 0 ∨ 6 < op then lcAnswer s lcFormat
  else
    let a := lcAllowed op s.lcs.lcState
    let addr := fget s Reg.lcsTokenAddr 18 0
    let need := if op = 1 then 32 else if a = 2 then 128 else 0
    if a = 0 then lcAnswer s lcState
    else if need ≠ 0 ∧ !benchSecure s m ∧ vaultBase < addr + need then lcAnswer s lcFormat
    else
      let r := spmRead s 50 addr need
      let tokenBad := decide (a = 2) && !tokenOk r.1 op slot arg r.2.1
      let f := if tokenBad then lcToken else lcFault r.1 op slot arg
      let s1 := if a = 2 then newNonce r.1 else r.1
      if f ≠ 0 then lcAnswer s1 f
      else { s1 with lcs := { s1.lcs with op := some ⟨op, slot, arg, r.2.1, decide (a = 2), lcWords s op arg, s.cycle⟩ } }

/-- A transition that completes (R419, R510): the wipe of vault and sealed area starts, the copy is invalidated, the new state
is pending. -/
def lcTransition (s : State) (st : Nat) : State :=
  let s1 := cfgInvalidate (wipeStart s) 2
  lcAnswer { s1 with lcs := { s1.lcs with pend := some st } } lcOk

/-- The effect of an operation whose last word is programmed (R508, R510). -/
def lcDone (s : State) (o : LcsOp) : State :=
  if o.op = 1 then lcAnswer (setKeySlot s o.slot ⟨true, false, o.hash, (keySlot s o.slot).revoked⟩) lcOk
  else if o.op = 2 then lcAnswer (setKeySlot s o.slot { keySlot s o.slot with revoked := true }) lcOk
  else if o.op = 3 then lcAnswer { s with lcs := { s.lcs with secVer := o.arg } } lcOk
  else if o.op = 4 then lcTransition s 1
  else if o.op = 5 then lcTransition s 2
  else lcTransition s 3

/-- A wipe that has waited for a fuse word starts (R511). -/
def wipeWaiting (s : State) : State :=
  if fget s Reg.lcsTamper 1 0 ≠ 0 ∧ s.nvc.wipeAt.isNone ∧ s.pwr.reqHigh then wipeStart s else s

/-- FUSE_PROGRAM_DONE: a fuse word has had its 1 ms; `ok`: it reads programmed (R508). -/
def fuseDone (s : State) (ok : Bool) : State :=
  match s.lcs.op with
  | none => s
  | some o =>
    if s.cycle < o.since + 800000 then s
    else wipeWaiting
      (if !ok then lcAnswer { s with lcs := fuseCut s.lcs } lcFuse
       else if o.left ≤ 1 then lcDone s o
       else { s with lcs := { s.lcs with op := some { o with
         left := o.left - 1
         since := s.cycle } } })

/-- LCS_STAT as it reads now (R515). -/
def lcsStatView (s : State) : Nat :=
  let bit := fun (p : KeySlot → Bool) => (List.range 4).foldl (fun a k => if p (keySlot s k) then a + 2 ^ k else a) 0
  s.lcs.lcState * 2 ^ 30 + (match s.lcs.pend with
    | some p => p * 2 ^ 28 + 2 ^ 27
    | none => 0) + b2n s.lcs.op.isSome * 2 ^ 26 + s.lcs.result * 2 ^ 22 + bit (fun k => k.prog) * 2 ^ 18 +
    bit (fun k => k.revoked) * 2 ^ 14 + s.lcs.secVer

/-- A write of LCS_CMD (R508, R515); another KEY changes nothing, and a reserved field is as a reserved OP. -/
def lcsCmdWrite (s : State) (m : Requester) (v : Nat) : State :=
  if bitsOf v 31 16 ≠ 0x4C43 then rsvd s m.code Reg.lcsCmd
  else lcIssue s m (if bitsOf v 9 7 = 0 then bitsOf v 15 12 else 0) (bitsOf v 11 10) (bitsOf v 6 0)

end Sys2Proof.Machine
end

