-- ==== Sys2Proof/Machine/RegView.lean ====
section
/-!
DEFINITION. What a register reads as (R9, R12): the live registers, which show a unit's state in the cycle of the read,
beside those that the register file holds; and what a read clears (R9, R11, R553).
-/
namespace Sys2Proof.Machine

/-- `TOP_ID` (R2): the part number with the fused revision and grade. -/
def topIdView (s : State) : Nat := 0x8032 + s.lcs.rev % 256 * 2 ^ 16 + s.lcs.grade % 2 * 2 ^ 24

/-- `CBL_STAT` (R183): descriptors waiting for a cobbler, and the longest wait. -/
def cblStatView (s : State) : Nat :=
  (s.vrd.flights.filter (fun f => f.selected && !f.notReady && f.started.isNone)).length % 2 ^ 11 * 2 ^ 16 +
    satW 16 s.cbl.waitMax

/-- `VRD_TAG_STAT` (R23). -/
def tagStatView (s : State) : Nat :=
  s.vrd.peak * 2 ^ 48 + heldTags s * 2 ^ 32 + reservedTags s * 2 ^ 16 + freeTags s

/-- `TCA_TBL_STAT[t]` (R232). -/
def tcaTblView (s : State) (t : Nat) : Nat :=
  match tblOf s t with
  | none => 0
  | some d =>
    if d.isTern then
      s.tca.gen.nat t % 2 ^ 16 * 2 ^ 48 + tcaMoving s t % 2 * 2 ^ 47 + capacity s d % 2 ^ 19 * 2 ^ 26 + tcaEntries s t d % 2 ^ 19
    else 0

/-- `HSH_TBL_STAT[t]` (R274). -/
def hshTblView (s : State) (t : Nat) : Nat :=
  match tblOf s t with
  | none => 0
  | some d =>
    if d.isDram then
      s.hsh.gen.nat t % 2 ^ 16 * 2 ^ 48 + hshMoving s t * 2 ^ 47 + b2n (hshWiping s t) * 2 ^ 46 + stashCount s t * 2 ^ 38 +
        hshEntries s t % 2 ^ 32
    else 0

/-- The table and length that `HSH_PFX_SEL` selects (R276). -/
def pfxTable (s : State) : Nat := fget s Reg.hshPfxSel 9 4
def pfxLenix (s : State) : Nat := fget s Reg.hshPfxSel 3 0

/-- `HSH_PFX_SUB` (R276): size and base of the selected sub-table. -/
def pfxSubView (s : State) : Nat :=
  match tblOf s (pfxTable s) with
  | none => 0
  | some d =>
    if d.kind = 5 ∧ pfxLenix s < d.lengths.length then
      subSize s (pfxTable s) d (pfxLenix s) % 2 ^ 32 * 2 ^ 32 + subBase s (pfxTable s) d (pfxLenix s) % 2 ^ 32
    else 0

/-- `HSH_PFX_CNT` (R276): valid entries at the selected length, stash included. -/
def pfxCntView (s : State) : Nat :=
  let t := pfxTable s
  let j := pfxLenix s
  s.hsh.entries.nat (t * 16 + j) % 2 ^ 32

/-- `WAY_POOL`, `WAY_RESV`, `WAY_COMBINE` (R308). -/
def wayPoolView (s : State) : Nat := ownedPages s % 2 ^ 17 * 2 ^ 32 + freePages s % 2 ^ 17
def wayResvView (s : State) : Nat :=
  unmetPages s % 2 ^ 17 * 2 ^ 32 + (s.way.streams.filter (fun e => decide (0 < e.2.owned))).length % 2 ^ 17
def wayCombineView (s : State) : Nat := s.way.peak % 2 ^ 15 * 2 ^ 15 + s.way.used % 2 ^ 15

/-- The stream and page that the index registers select (R309). -/
def selStream (s : State) : Nat := fget s Reg.wayStreamIdx 15 0
def selPage (s : State) : Nat := fget s Reg.wayPageIdx 15 0

/-- `WAY_STREAM_CFG` of the selected stream (R290, R309). -/
def streamCfgView (s : State) : Nat :=
  let x := streamOf s (selStream s)
  x.ageMs % 2 ^ 32 * 2 ^ 32 + b2n x.dis * 2 ^ 31 + x.min % 2 ^ 15 * 2 ^ 16 + x.max % 2 ^ 16

/-- `WAY_STREAM_STAT` of the selected stream (R309). -/
def streamStatView (s : State) : Nat :=
  let x := streamOf s (selStream s)
  x.head % 2 ^ 16 * 2 ^ 48 + x.openPage % 2 ^ 16 * 2 ^ 32 + b2n x.flushing * 2 ^ 31 + x.owned % 2 ^ 17

/-- `WAY_PAGE_INFO` of the selected page (R309). -/
def pageInfoView (s : State) : Nat :=
  let p := pageOf s (selPage s)
  p.use % 2 ^ 16 * 2 ^ 48 + p.stream % 2 ^ 16 * 2 ^ 32 + p.nextPage % 2 ^ 16 * 2 ^ 16 + b2n p.owned * 2 ^ 15 + p.fill % 2 ^ 10

/-- `LRN_STAT` (R341). -/
def lrnStatView (s : State) : Nat := s.lrn.queue.length * 2 ^ 16 + satW 12 s.lrn.lost

/-- `AGE_STAMP[t]` (R321, R343): the current stamp; 1 for a table that does not age. -/
def ageStampView (s : State) (t : Nat) : Nat :=
  match tblOf s t with
  | some d => curStamp s t d
  | none => 1

/-- `HST_TCR_STAT` (R345). -/
def tcrStatView (s : State) : Nat := s.tcr.peak * 2 ^ 8 + inflight s

/-- `INT_TRACK_STAT` (R448): entries in use beside the stored overflow count. -/
def trackStatView (s : State) : Nat := s.intg.track.length * 2 ^ 16 + fget s Reg.intTrackStat 15 0

/-- A step of a program (R184): steps beyond STEPS read 0. -/
def progView (s : State) (g n : Nat) : Nat := if n < fget s (Reg.cblProgLen g) 5 0 then rd s (Reg.cblProg g n) else 0

/-- The live view of the register at `base` (its row's first offset), indices i and j, of blocks 0 to 8; `none`: the
register file holds it. -/
def viewLow (s : State) (base i j : Nat) : Option Nat :=
  if base = Reg.topId then some (topIdView s)
  else if base = Reg.pwrStat then some (pwrStatView s)
  else if base = Reg.imgProg then some (imgProgView s)
  else if base = Reg.milStat then some (milStatView s)
  else if base = Reg.milRate then some (toField 32 s.mil.rate)
  else if base = Reg.milTimeAux then some (milAuxView s)
  else if base = Reg.milTime then some (nowNs s)
  else if base = Reg.milOffsetRem then some (milRemView s)
  else if base = Reg.milPortDly 0 then some (portDlyView s i)
  else if base = Reg.tapStat 0 then some (tapStatView s i)
  else if base = Reg.tapCred 0 then some (tapCredView s i)
  else if base = Reg.cblStat then some (cblStatView s)
  else if base = Reg.cblProg 0 0 then some (progView s i j)
  else if base = Reg.vrdTagStat then some (tagStatView s)
  else if base = Reg.tcaTherm then some (thermView s)
  else if base = Reg.tcaSigStat then some (sigStatView s)
  else if base = Reg.tcaTblStat 0 then some (tcaTblView s i)
  else none

/-- A master's unit has a posted write to present next (R354): a DMA channel with a granule to write, the waymark writer with
a group or header due. -/
def writesNext (s : State) (m : Nat) : Bool :=
  if 38 ≤ m ∧ m ≤ 41 then
    [2 * (m - 38), 2 * (m - 38) + 1].any (fun n => decide (dmaState s n = 1) && match (dmaCh s n).op with
      | some o => decide ((o.dst + o.put) / 2 ^ 62 = 3) && decide (o.put < o.len) && decide (dmaWant s n o ≠ 0)
      | none => false)
  else m = 46 && ((dueGroup s).isSome || (dueHeader s).isSome || (timedGroup s).isSome)

/-- The same for blocks 9 to 13. -/
def viewMid (s : State) (base i : Nat) : Option Nat :=
  if base = Reg.hshPfxShare then some (weight s (pfxTable s) (pfxLenix s))
  else if base = Reg.hshPfxSub then some (pfxSubView s)
  else if base = Reg.hshPfxCnt then some (pfxCntView s)
  else if base = Reg.hshTblStat 0 then some (hshTblView s i)
  else if base = Reg.waySettle then some (satW 16 s.way.settleS)
  else if base = Reg.wayCombine then some (wayCombineView s)
  else if base = Reg.wayFlushProg then some (flushProgView s)
  else if base = Reg.wayPool then some (wayPoolView s)
  else if base = Reg.wayResv then some (wayResvView s)
  else if base = Reg.wayStreamCfg then some (streamCfgView s)
  else if base = Reg.wayStreamStat then some (streamStatView s)
  else if base = Reg.wayPageMs then some (pageOf s (selPage s)).milestone
  else if base = Reg.wayPageInfo then some (pageInfoView s)
  else if base = Reg.wayPageLast then some (pageOf s (selPage s)).lastOfs
  else if base = Reg.lrnStat then some (lrnStatView s)
  else if base = Reg.ageStamp 0 then some (ageStampView s i)
  else if base = Reg.rglClsStat 0 then some (clsStatView s i)
  else if base = Reg.rglMstStat 0 then some (mstStatView s i (writesNext s i))
  else none

/-- The same for blocks 14 to 23. -/
def viewHigh (s : State) (base i : Nat) : Option Nat :=
  if base = Reg.wltStat 0 then some (wltStatView s i)
  else if base = Reg.wltCred 0 then some (wltCredView s i)
  else if base = Reg.wltSlot then some (slotNow s)
  else if base = Reg.brgSide then some (brgSideView s)
  else if base = Reg.brgBuf 0 then some (brgBufView s i)
  else if base = Reg.brgPoll then some (brgPollView s)
  else if base = Reg.intTrackStat then some (trackStatView s)
  else if base = Reg.intRemapStat then some (remapView s)
  else if base = Reg.intRetireEnt then some (retireView s)
  else if base = Reg.drcStat then some (drcStatView s)
  else if base = Reg.drcClrProg then some (clrProgView s)
  else if base = Reg.nvcCkptProg then some (ckptProgView s)
  else if base = Reg.hstIntSum then some (intSum s)
  else if base = Reg.hstPcieId then some (pcieIdView s)
  else if base = Reg.hstTcrStat then some (tcrStatView s)
  else if base = Reg.canStat then some (canStatView s)
  else if base = Reg.lcsStat then some (lcsStatView s)
  else if base = Reg.lcsUid then some s.lcs.uid
  else if base = Reg.lcsNonce then some s.lcs.nonce
  else none

/-- The whole register of a row at indices i and j, before write-only fields read as zero. -/
def regFull (s : State) (r : RegRow) (i j : Nat) : Nat :=
  let off := r.base + i * r.s1 + j * r.s2
  let live := if r.base < 0x90000 then viewLow s r.base i j
    else if r.base < 0xE0000 then viewMid s r.base i
    else viewHigh s r.base i
  match live with
  | some v => v % 2 ^ 64
  | none => rd s off

/-- What a read that samples bits [hi:lo] of a register clears or restarts (R9, R12, R553). -/
def readClears (s : State) (r : RegRow) (i j lo hi : Nat) : State :=
  let in_ := fun (fh fl : Nat) => decide (lo ≤ fl) && decide (fh ≤ hi)
  let b := r.base
  if b = Reg.vrdTagStat then
    (if in_ 58 48 then rcDrop { s with vrd := { s.vrd with peak := heldTags s } } Reg.vrdTagStat else s)
  else if b = Reg.tcaTherm then
    (if in_ 29 28 then rcDrop { s with tca := { s.tca with peak := s.tca.level } } Reg.tcaTherm else s)
  else if b = Reg.wayCombine then
    (if in_ 29 15 then rcDrop { s with way := { s.way with peak := s.way.used } } Reg.wayCombine else s)
  else if b = Reg.hstTcrStat then
    (if in_ 14 8 then rcDrop { s with tcr := { s.tcr with peak := inflight s } } Reg.hstTcrStat else s)
  else if b = Reg.cblStat then
    (if in_ 15 0 then rcTaken { s with cbl := { s.cbl with waitMax := rcLeft s Reg.cblStat 0 } } Reg.cblStat else s)
  else if b = Reg.rglClsStat 0 then
    (if in_ 63 48 then rcTaken { s with rgl := { s.rgl with waitMax := s.rgl.waitMax.setNat i (rcLeft s (Reg.rglClsStat i) 0) } } (Reg.rglClsStat i) else s)
  else
    let off := b + i * r.s1 + j * r.s2
    if r.fields.any (fun f => decide (f.acc = .rc) && in_ f.hi f.lo) then
      rcTaken (wr s off (rcClear r.fields lo hi (rcLeft s off 0) (rd s off))) off
    else s

/-- A register as a read in this cycle returns it: a read-clear field shows its value before the events of the cycle
(R11). -/
def regSeen (s : State) (r : RegRow) (i j : Nat) : Nat :=
  let v := regFull s r i j
  match r.fields.find? (fun f => decide (f.acc = .rc)) with
  | none => v
  | some f =>
    putBits v f.hi f.lo (satW (f.hi + 1 - f.lo) (rcSeen s (r.base + i * r.s1 + j * r.s2) (bitsOf v f.hi f.lo)))

end Sys2Proof.Machine
end

