-- ==== Sys2Proof/Machine/Commit.lean ====
section
/-!
DEFINITION. What a write of a register does beyond its fields, in the search side of the device: ledger clear, profile and
selector commits (R169, R184), toll-gate and freshness commands (R177, R179), ring placement (R225, R318), prefix weights
(R245), waymark settings (R290, R303, R307), aging (R322, R327).
-/
namespace Sys2Proof.Machine

/-- LEDGER_FAULT_CLEAR: a write of `TOP_LEDGER_STAT`; the snapshot thaws with the last FAULT bit (R42). -/
def ledgerClear (s : State) (m v : Nat) : State :=
  let s1 := commitFields s m Reg.topLedgerStat v
  if fget s1 Reg.topLedgerStat 6 0 = 0 then wr s1 Reg.topLedgerStat 0 else s1

/-- The bytes of eight record words. -/
def wordsBytes (ws : List Nat) : List Byte := ws.flatMap (leBytes 4)

/-- The key width of table t as it is in force (R165); the waymark search takes 80 bits. -/
def widthOf (s : State) (t : Nat) : Option Nat :=
  if t = 255 then none
  else if s.img.searchId = some t then some 80
  else some (match tblOf s t with
    | some d => keyWidth d
    | none => 0)

/-- Does a record touch DRAM, against the tables in force (R61, R168)? -/
def recDram (s : State) (r : List Byte) : Bool :=
  profWayEn r || (profSearches r).any (fun t => t ≠ 255 &&
    (decide (s.img.searchId = some t) || (match tblOf s t with
      | some d => d.isDram
      | none => false)))

/-- A record passes the checks of R169 against the tables and programs in force. -/
def recordOk (s : State) (n : Nat) (r : List Byte) : Bool :=
  let l := profSearches r
  let used := l.filter (fun t => t ≠ 255)
  let g := bitsOf (word r 0) 23 16
  let steps := fget s (Reg.cblProgLen g) 5 0
  let prog := (List.range steps).map (fun k => rd s (Reg.cblProg g k))
  decide (profNo r = n) && profileOk r && pairwise (fun x y => decide (x ≠ y)) used && decide (l.take used.length = used) &&
    used.all (fun t => decide (s.img.searchId = some t) || (tblOf s t).isSome) &&
    decide ((if recDram s r then 512 else 48) ≤ bitsOf (word r 0) 14 0) &&
    decide (g < 64) && decide (1 ≤ steps) && decide (steps ≤ 48) && programFits prog (l.map (widthOf s)) && !emitsTwice prog []

/-- The eight words that a commit with word 7 = v would put in force: staged words, else the words in force. -/
def stagedWords (s : State) (at_ : Nat → Nat) (v : Nat) : List Nat :=
  (List.range 7).map (fun w => match KMap.find s.cbl.staged (at_ w) with
    | some x => x
    | none => rd s (at_ w)) ++ [v]

/-- Stage word w < 7 of a record (R169); after IMG_LOCK a write that would change it is refused (R10). -/
def stageWord (s : State) (m off v : Nat) : State :=
  if locked s then (if rd s off = v then s else lockedWr s m off)
  else { s with cbl := { s.cbl with staged := KMap.put s.cbl.staged off (some v) } }

/-- The staging of a record, emptied. -/
def unstage (s : State) (at_ : Nat → Nat) : State :=
  { s with cbl := { s.cbl with staged := (List.range 7).foldl (fun k w => KMap.put k (at_ w) none) s.cbl.staged } }

/-- Put eight words in force. -/
def putWords (s : State) (at_ : Nat → Nat) (ws : List Nat) : State :=
  (ws.zip (List.range 8)).foldl (fun st e => wr st (at_ e.2) e.1) s

/-- PROFILE_COMMIT (R169, R285): word 7 of profile n. Descriptors accepted before this cycle keep the old record. -/
def profileCommit (s : State) (m n v : Nat) : State :=
  let at_ := fun w => Reg.cblProf n w
  let ws := stagedWords s at_ v
  let old := (List.range 8).map (fun w => rd s (at_ w))
  let r := wordsBytes ws
  let s1 := unstage s at_
  if locked s then (if ws = old then s1 else lockedWr s1 m (at_ 7))
  else if !recordOk s n r then rsvd s1 m (at_ 7)
  else
    let s2 := putWords s1 at_ ws
    let keep := fun (f : Flight) =>
      if f.selected || decide (s.cycle ≤ f.acc) || f.oldRecs.any (fun e => e.1 = n) then f else { f with oldRecs := f.oldRecs ++ [(n, old)] }
    let s2 := rangeWritten s2 0xC (4 * n) 4
    { s2 with
      vrd := { s2.vrd with flights := s2.vrd.flights.map keep }
      cbl := { s2.cbl with hasRec := s2.cbl.hasRec.set (fun _ => false) n true }
      way := { s2.way with
        settleS := if profWayEn r then max s2.way.settleS (bitsOf (word r 0) 14 0 + 64) else s2.way.settleS } }

/-- A write of word w of `CBL_PROF[n]` (R169). -/
def profWrite (s : State) (m n w v : Nat) : State :=
  if w < 7 then stageWord s m (Reg.cblProf n w) v else profileCommit s m n v

/-- PROFILE_ENABLE: a write of `CBL_PROF_EN`, refused whole when it enables a profile with no record (R169). -/
def profEnWrite (s : State) (m v : Nat) : State :=
  if (List.range 64).any (fun n => bitOf v n && !(s.cbl.hasRec.get (fun _ => false) n)) then rsvd s m Reg.cblProfEn
  else enableProfiles s v

/-- The bits of word w of a selector entry that are not reserved (R161). -/
def selKeep (w v : Nat) : Nat :=
  if w = 2 then v % 2 ^ 16
  else if w = 6 then bitsOf v 23 23 * 2 ^ 23 + bitsOf v 21 0
  else if w = 3 ∨ w = 7 then 0
  else v

/-- SELECTOR_COMMIT: a write of word w of `CBL_SEL[i]`; word 7 commits the entry (R184). -/
def selWrite (s : State) (m i w v0 : Nat) : State :=
  let at_ := fun k => Reg.cblSel i k
  let v := selKeep w v0
  if w < 7 then stageWord s m (at_ w) v
  else
    let ws := stagedWords s at_ v
    let s1 := unstage s at_
    if locked s then (if ws = (List.range 8).map (fun k => rd s (at_ k)) then s1 else lockedWr s1 m (at_ 7))
    else putWords s1 at_ ws

/-- The ten words of a bucket (R173). -/
def bucketWords (b : Bucket) : List Nat :=
  [b.cir, b.pir, b2n b.two * 2 ^ 31 + b.cbs % 2 ^ 28, b.pbs % 2 ^ 28, b.tc, b.tp, b.last % 2 ^ 32, b.last / 2 ^ 32 % 2 ^ 32,
    b.remC, b.remP]

/-- Words that the host reads of an on-die memory: 32-bit halves, each with the error that the read leaves in it (R412). -/
def halvesRead (s : State) (mem at_ : Nat) (ws : List Nat) : List Nat :=
  (ws.zip (List.range ws.length)).map (fun e => e.1 ^^^ bitsOf (residual s mem (at_ + e.2 / 2)) (32 * (e.2 % 2) + 31) (32 * (e.2 % 2)))

/-- TOLL_READ: the selected bucket as stored, on its way into `TOL_DATA` (R177); its words are read as any others (R423). -/
def tollRead (s : State) : State × List Nat :=
  let i := fget s Reg.tolIdx 15 0
  (readWords s 9 50 ((List.range 5).map (fun k => 5 * i + k)), halvesRead s 9 (5 * i) (bucketWords (bucket s i)))

/-- TOLL_WRITE: the selected bucket configured from `TOL_DATA[0–3]` (R177). -/
def tollWrite (s : State) (m : Nat) (fill : Bool) : State :=
  let i := fget s Reg.tolIdx 15 0
  let two := flag s (Reg.tolData 2) 31
  let cir := rd s (Reg.tolData 0)
  let pir := rd s (Reg.tolData 1)
  let cbs := fget s (Reg.tolData 2) 27 0
  let pbs := fget s (Reg.tolData 3) 27 0
  let b := bucket s i
  if two ∧ (pir < cir ∨ pbs < cbs) then rsvd s m Reg.tolCmd
  else
    let s1 := rangeWritten (setBucket s i ⟨cir, pir, two, cbs, pbs, if fill then cbs else min b.tc cbs,
      if fill then pbs else min b.tp pbs, nowNs s, 0, 0⟩) 9 (5 * i) 5
    { s1 with vrd := { s1.vrd with unaudited := s1.vrd.unaudited.filter (fun j => j ≠ i) } }

/-- A write of `TOL_CMD`: WRITE and then READ, after the accesses of this cycle; ignored while BUSY (R177). -/
def tolCmdWrite (s : State) (m v : Nat) : State :=
  if flag s Reg.tolCmd 31 ∨ v % 4 = 0 then s
  else
    let s0 := accessesFirst s
    let s1 := if bitOf v 1 then tollWrite s0 m (bitOf v 2) else s0
    let r := if bitOf v 0 then tollRead s1 else (s1, [])
    portStart r.1 Reg.tolCmd r.2

/-- FRESH_READ and FRESH_WRITE: the selected stream's counter and map (R179). -/
def freshRead (s : State) : State × List Nat :=
  let n := fget s Reg.vrdFreshIdx 15 0
  let x := freshOf s n
  (readWords s 0xA 50 [2 * n, 2 * n + 1], [x.1 ^^^ residual s 0xA (2 * n), x.2 ^^^ residual s 0xA (2 * n + 1)])
def freshWrite (s : State) : State :=
  let n := fget s Reg.vrdFreshIdx 15 0
  rangeWritten (setFresh s n (rd s Reg.vrdFreshCtr, rd s Reg.vrdFreshMap)) 0xA (2 * n) 2

/-- A write of `VRD_FRESH_CMD`: WRITE and then READ, after the accesses of this cycle; ignored while BUSY (R179). -/
def freshCmdWrite (s : State) (v : Nat) : State :=
  if flag s Reg.vrdFreshCmd 31 ∨ v % 4 = 0 then s
  else
    let s0 := accessesFirst s
    let s1 := if bitOf v 1 then freshWrite s0 else s0
    let r := if bitOf v 0 then freshRead s1 else (s1, [])
    portStart r.1 Reg.vrdFreshCmd r.2

/-- A ring of 2^log2 entries of `size` bytes at `base` lies below the vault and outside the firmware code range (R225,
R318). -/
def ringPlaced (s : State) (base log2 size : Nat) : Bool :=
  log2 = 0 || (decide (base + 2 ^ log2 * size ≤ vaultBase) && decide (fwRange s ≤ base))

/-- A write of a scratchpad ring's base or size register (R225, R318): refused when it would place an enabled ring where
it must not lie. `al`: the alignment whose low bits are ignored. -/
def ringWrite (s : State) (m off v base size al entry : Nat) : State :=
  let w := if off = base then v % 2 ^ 19 / al * al else v
  let s1 := commitFields s m off w
  if ringPlaced s1 (fget s1 base 18 0) (fget s1 size 3 0) entry then
    dropAsks s1 (fun u => decide (u = (if size = Reg.tcaSigSize then .sig else .learn)))
  else rsvd s m off

/-- A write of `LRN_RING_SIZE`: LOG2 written 0 drops the queued notifications (R317). -/
def lrnSizeWrite (s : State) (m v : Nat) : State :=
  let s1 := ringWrite s m Reg.lrnRingSize v Reg.lrnRingBase Reg.lrnRingSize 64 64
  if v % 16 = 0 then disableRing s1 else s1

/-- HSH_PFX_SHARE_WRITE: a weight of the selected table and length (R245, R276). -/
def shareWrite (s : State) (m v : Nat) : State :=
  let t := pfxTable s
  let w := v % 256
  if w = 0 then rsvd s m Reg.hshPfxShare
  else if locked s then (if weight s t (pfxLenix s) = w then s else lockedWr s m Reg.hshPfxShare)
  else if hshEntries s t ≠ 0 then rsvd s m Reg.hshPfxShare
  else { s with hsh := { s.hsh with share := s.hsh.share.set (fun _ => 1) (t * 16 + pfxLenix s) w } }

/-- A write of `WAY_PRESS`: HIGH must stay above LOW (R307). -/
def wayPressWrite (s : State) (m v : Nat) : State :=
  if bitsOf v 31 16 ≤ bitsOf v 15 0 then rsvd s m Reg.wayPress else commitFields s m Reg.wayPress v

/-- WAY_STREAM_CFG_WRITE: the selected stream's configuration, refused on overcommit (R290). -/
def streamCfgWrite (s : State) (m v : Nat) : State :=
  let n := selStream s
  let x := streamOf s n
  let mn := bitsOf v 30 16
  let mx := bitsOf v 15 0
  let sum := (s.way.streams.map (fun e => e.2.min)).foldl (· + ·) 0 - x.min + mn
  if wayPages s < sum ∨ (mx ≠ 0 ∧ mx < mn) then rsvd s m Reg.wayStreamCfg
  else setStream s n { x with
    min := mn
    max := mx
    ageMs := bitsOf v 63 32
    dis := bitOf v 31 }

/-- FLUSH_STREAM: a write of `WAY_FLUSH` (R303, R310); an index of no pages is scanned at once (R14). -/
def wayFlushWrite (s : State) (m v : Nat) : State :=
  if bitOf v 31 then
    if progOn s Reg.wayFlushProg then rsvd s m Reg.wayFlush
    else
      let s1 := startFlush (wr s Reg.wayFlush (v % 65536)) (v % 65536)
      if wayPages s = 0 then endFlush s1 (v % 65536) s.way.allocs else s1
  else commitFields s m Reg.wayFlush v

/-- AGE_LIMIT_WRITE (R322). -/
def ageLimitWrite (s : State) (m t v : Nat) : State :=
  let ages := match tblOf s t with
    | some d => d.age
    | none => false
  if v % 2 ^ 32 = 0 || !ages then rsvd s m (Reg.ageLimit t) else wr s (Reg.ageLimit t) (v % 2 ^ 32)

/-- AGING_ENABLE: a write of `AGE_CTRL`; with EN cleared the sweeper ends the current lap where it would ask for its next
granule (R327). -/
def ageCtrlWrite (s : State) (m v : Nat) : State := commitFields s m Reg.ageCtrl v

/-- A write of `TCA_REBUILD_TOTAL`, ignored while a rebuild is active (R235). -/
def rebuildTotalWrite (s : State) (m v : Nat) : State :=
  if progOn s Reg.tcaRebuildProg then s else commitFields s m Reg.tcaRebuildTotal v

/-- The commands in flight of ring r keep its base, CBASE and LOG2 (R337). -/
def ringBusy (s : State) (r : Nat) : Bool :=
  flag s (Reg.hstTcrCtrl r) 4 || decide (fget s (Reg.hstTcrChead r) 15 0 ≠ fget s (Reg.hstTcrHead r) 15 0)

/-- A ring's bases lie where its requester's data may lie (R331). -/
def ringBasesOk (s : State) (r : Nat) : Bool :=
  let n := 32 * ringSize s r
  let b := rd s (Reg.hstTcrBase r)
  let c := rd s (Reg.hstTcrCbase r)
  decide (b % 32 = 0) && decide (c % 32 = 0) && addrOk s r b n false && addrOk s r c n true

/-- TCR_ENABLE: a write of `HST_TCR_CTRL[r]` (R329, R337, R345): EN from 0 to 1 zeroes the four indices. -/
def tcrCtrlWrite (s : State) (m r v : Nat) : State :=
  let off := Reg.hstTcrCtrl r
  let was := flag s off 4
  let s1 := if bitsOf v 3 0 ≠ fget s off 3 0 && ringBusy s r
    then rsvd (commitFields s m off (putBits v 3 0 (fget s off 3 0))) m off
    else commitFields s m off v
  if !was && flag s1 off 4 then
    if ringBasesOk s1 r && decide (4 ≤ fget s1 off 3 0) then
      let s2 := wr (wr (wr (wr (dropAsks s1 (fun u => decide (u = .slot r))) (Reg.hstTcrHead r) 0) (Reg.hstTcrTail r) 0) (Reg.hstTcrChead r) 0) (Reg.hstTcrCtail r) 0
      { s2 with
        host := s2.host.filter (fun q => q.use ≠ .slotFetch r)
        tcr := { s2.tcr with fetching := s2.tcr.fetching.set (fun _ => false) r false } }
    else rsvd (fput s1 off 4 4 0) m off
  else s1

/-- TCR_DOORBELL: a write of `HST_TCR_TAIL[r]` (R329). -/
def tcrDoorbell (s : State) (m r v : Nat) : State :=
  let t := v % 65536
  if flag s (Reg.hstTcrCtrl r) 4 && decide (ringSize s r < (t + 65536 - fget s (Reg.hstTcrHead r) 15 0) % 65536) then
    rsvd s m (Reg.hstTcrTail r)
  else wr s (Reg.hstTcrTail r) t

/-- A write of a ring's base or completion base (R337). -/
def tcrBaseWrite (s : State) (m r off v : Nat) : State := if ringBusy s r then rsvd s m off else wr s off v

end Sys2Proof.Machine
end

