-- ==== Sys2Proof/Machine/Flash.lean ====
section
/-!
DEFINITION. The loader's commands of run time (R80–R84): flash access through `IMG_FCMD`, and a host load.
-/
namespace Sys2Proof.Machine

/-- The copy that the current image came from: its place and length in the flash (R51, R81). -/
def imageExtent (s : State) : Nat × Nat :=
  if s.img.applied ∧ s.img.copy ≤ 1 then
    (fieldAt s.img.ilt (8 + 8 * s.img.copy) 4, iltLen s s.img.copy)
  else (0, 0)

/-- The flash bytes that a program or erase touches (R81). -/
def flashExtent (op addr len : Nat) : Nat × Nat :=
  if op = 0x12 then (addr, len)
  else if op = 0x21 then (addr / 4096 * 4096, 4096)
  else if op = 0xDC then (addr / 65536 * 65536, 65536)
  else (0, 0)

/-- In PRODUCE only the listed commands are sent, and none that touches the current image's copy or the ILT copy in use
(R81). -/
def flashAllowed (s : State) (v addr : Nat) : Bool :=
  let op := bitsOf v 7 0
  let len := bitsOf v 16 8
  let a := bitOf v 19
  let r := bitOf v 18
  let w := bitOf v 17
  let known := if op = 0x13 then a && r && !w
    else if op = 0x05 || op = 0x9F then !a && r && !w
    else if op = 0x12 then a && !r && w
    else if op = 0x21 || op = 0xDC then a && w && decide (len = 0)
    else false
  let e := flashExtent op addr len
  let i := imageExtent s
  s.lcs.lcState ≠ 2 || (known && apart e.1 e.2 i.1 i.2 && (s.img.ilt = [] || apart e.1 e.2 s.img.iltAt 64))

/-- A scratchpad access of the loader, denied or made at once (R414, R418, R420). -/
def loaderAcc (kind : SpmKind) (since off len : Nat) (data : List Byte) : SpmAcc :=
  ⟨spmQ .loader, .loader, since, kind, false, off, len, data, .outside⟩
def loaderRead (s : State) (off len : Nat) : State × List Byte :=
  let a := loaderAcc .read s.cycle off len []
  let d := spmDenied s a
  if d ≠ 0 then (spmFault s a d, List.replicate len 0)
  else
    let r := spmRead s 49 off len
    (r.1, r.2.1)
def loaderWrite (s : State) (off : Nat) (data : List Byte) : State :=
  let a := loaderAcc .write s.cycle off data.length data
  let d := spmDenied s a
  if data = [] then s else if d ≠ 0 then spmFault s a d else spmWrite s off data

/-- An accepted flash command (R81): what it sends, what it reads into IMG_FBUF, and, with WAIT, its status polling.
`ext`: the bytes that the flash returns. -/
def flashRun (s : State) (v : Nat) (ext : List Byte) : State :=
  let len := bitsOf v 16 8
  let addr := if bitOf v 19 then some (rd s Reg.imgFaddr) else none
  let buf := fget s Reg.imgFbuf 18 0
  let s1 := if bitOf v 17 then { s with out := s.out ++ [.flash 0x06 none [] 0] } else s
  let s2 :=
    if bitOf v 18 then loaderWrite { s1 with out := s1.out ++ [.flash (bitsOf v 7 0) addr [] len] } buf (slice ext 0 len)
    else
      let r := loaderRead s1 buf len
      { r.1 with out := r.1.out ++ [.flash (bitsOf v 7 0) addr r.2 0] }
  if bitOf v 17 then { fput s2 Reg.imgFcmd 30 30 1 with img := { s2.img with poll := some s.cycle } } else s2

/-- FLASH_COMMAND: a write of `IMG_FCMD` (R81). -/
def fcmdWrite (s : State) (m v : Nat) (ext : List Byte) : State :=
  if !bitOf v 31 then commitFields s m Reg.imgFcmd v
  else if progOn s Reg.imgProg || flag s Reg.imgFcmd 30 then rsvd s m Reg.imgFcmd
  else
    let s1 := fput (commitFields s m Reg.imgFcmd v) Reg.imgFcmd 31 31 0
    let w := rd s1 Reg.imgFcmd
    if flashAllowed s w (rd s Reg.imgFaddr) then flashRun s1 w ext else fput s1 Reg.imgFcmd 29 29 1

/-- What a flash returns when no operand says: free bytes. -/
def flashFree (s : State) (n : Nat) : List Byte := (List.range n).map (fun i => Config.flashByte s.draws i)

/-- FLASH_STATUS_POLL (R81): every 10 µs the status is read; bit 0 at 0 ends the command. -/
def flashPoll (s : State) (busy : Bool) : State :=
  match s.img.poll with
  | none => s
  | some t =>
    if s.cycle < max t s.img.pollAt + 8000 then s
    else
      let s1 := emit { s with img := { s.img with pollAt := s.cycle } } (.flash 0x05 none [] 1)
      if busy then s1 else { fput s1 Reg.imgFcmd 30 30 0 with img := { s1.img with poll := none } }

/-- FLASH_TIMEOUT (R81): after 4 s of busy status the command ends with FAILED. -/
def flashTimeout (s : State) : State :=
  match s.img.poll with
  | none => s
  | some t =>
    if s.cycle < t + 3200000000 then s
    else { fput (fput s Reg.imgFcmd 30 30 0) Reg.imgFcmd 28 28 1 with img := { s.img with poll := none } }

/-- The bytes of the scratchpad from `IMG_HOST_ADDR` up to the vault: no host image is longer (R86). -/
def hostSpace (s : State) : Nat := vaultBase - fget s Reg.imgHostAddr 20 0

/-- The image at `IMG_HOST_ADDR` as the loader reads it: LENGTH bytes, and its header in any case (R54, R86). -/
def hostImage (s : State) : State × List Byte :=
  let o := fget s Reg.imgHostAddr 20 0
  let h := min 64 (hostSpace s)
  let r := spmRead s 49 o (max (min (fieldAt (spmRead s 49 o h).2.1 12 4) (hostSpace s)) h)
  (r.1, r.2.1)

/-- HOST_LOAD (R68, R82, R84, R86): the image at `IMG_HOST_ADDR` goes through every check of R66. -/
def hostLoad (s : State) : State :=
  if s.lcs.lcState = 2 || progOn s Reg.imgProg || flag s Reg.imgStat 31 then s
  else
    let r := hostImage s
    let n := min (imgLength r.2) (hostSpace s)
    let s1 := fput (fput (fput r.1 Reg.imgStat 30 29 0) Reg.imgStat 28 28 0) Reg.imgStat 15 0 0
    let s2 := progSet { s1 with img := { s1.img with
      copy := 2
      last := true
      phase := .fetching } } Reg.imgProg Reg.imgTotal (2 * n) n true
    let a := authenticate s r.2 (hostSpace s) true
    if a.1 = 0 then copyPasses s2 r.2 else copyFails s2 a.1 a.2.1 a.2.2

/-- A write of `IMG_CTRL`: RELOAD_NEXT (R80), then HOST_LOAD (R84). -/
def imgCtrlWrite (s : State) (v : Nat) : State :=
  let s1 := if bitOf v 1 then reloadNext s else s
  if bitOf v 0 then hostLoad s1 else s1

end Sys2Proof.Machine
end

