-- ==== Sys2Proof/Machine/BridgeOut.lean ====
section
/-!
DEFINITION. The far-side bridge as initiator (R396–R398, R401): posted writes through the slave window, read sets, polls
and read timeouts.
-/
namespace Sys2Proof.Machine

/-- A position that a bridge frame of this device may name (R397, code NOPOS). -/
def posOk (s : State) (p : Nat) : Bool := decide (p ≤ s.img.weltCount) && decide (p ≠ myPos s)

/-- Hand a new frame to its port; with the port down it fails with LINK at once (R397). -/
def bridgeIssue (s : State) (f : BFrame) : State :=
  if pathUp s f then portPump (queueTo s f) (portTo s f.dst) else bridgeFail s f 5

/-- The next welt sequence number (R380). -/
def nextWsn (s : State) : State := { s with brg := { s.brg with wsn := (s.brg.wsn + 1) % 65536 } }

/-- SLAVE_WINDOW_WRITE: a write of 4 or 8 bytes to offset `off` of position p (R396, R397). -/
def slaveWrite (s : State) (p off : Nat) (data : List Byte) : State :=
  let f : BFrame := ⟨3, p, myPos s, s.brg.wsn, decide (data.length = 8), 0, 0, p * 2 ^ 21 + off % 2 ^ 21, ofLe data⟩
  let s1 := bump (nextWsn s) (Reg.brgCnt 0) 1
  if posOk s p then bridgeIssue s1 f else logWrFail s1 f 4 (myPos s)

/-- SLAVE_WINDOW_READ: a direct read sends nothing (R396). -/
def slaveRead (s : State) : State := setEvt s Reg.brgEvt 3

/-- Issue a bridge read for a set (R398, R401). -/
def issueRead (s : State) (set_ p off : Nat) (wide : Bool) : State :=
  let w := s.brg.wsn
  let f : BFrame := ⟨4, p, myPos s, w, wide, set_, 0, p * 2 ^ 21 + off % 2 ^ 21, 0⟩
  let r : BRead := ⟨set_, p, wide, w, s.cycle⟩
  let s1 := bump (nextWsn s) (Reg.brgCnt 1) 1
  let s2 := { s1 with brg := { s1.brg with reads := s1.brg.reads ++ [r] } }
  let s3 := if set_ < 4 then wr s2 (Reg.brgRrdStat set_) (2 ^ 30 + w) else s2
  if posOk s p then bridgeIssue s3 f else failRead s3 r 4

/-- The owner of read set i (R398). -/
def rrdOwner (m : Requester) (i : Nat) : Bool :=
  match m with
  | .pcie0 => i = 0
  | .pcie1 => i = 1
  | .spi => i = 2
  | .benchM => i = 3
  | .benchU => i = 3
  | .bridge => false
  | .loader => false
  | .internal => false

/-- BRG_RRD_ADDR_WRITE (R398, R407). -/
def rrdWrite (s : State) (m : Requester) (i v : Nat) : State :=
  let off := Reg.brgRrdAddr i
  if !rrdOwner m i then s
  else if fget s (Reg.brgRrdStat i) 31 30 = 1 then rsvd s m.code off
  else if bitsOf v 20 0 % (if bitOf v 24 then 8 else 4) ≠ 0 then rsvd s m.code off
  else issueRead (commitFields s m.code off v) i (bitsOf v 23 21) (bitsOf v 20 0) (bitOf v 24)

/-- BRIDGE_READ_TIMEOUT: the oldest read past RD_TIMEOUT fails (R398). -/
def bridgeTimeout (s : State) : State :=
  match s.brg.reads.find? (fun r => decide (r.since + fget s Reg.brgCtrl 31 16 * 800 ≤ s.cycle)) with
  | some r => failRead s r 7
  | none => s

/-- BRIDGE_POLL: the master reads each slave's BRG_POLL (R401, R548). -/
def bridgePoll (s : State) : State :=
  if !s.img.applied || myPos s ≠ 0 || decide (s.cycle < s.brg.pollAt + fget s Reg.brgCtrl 9 0 * 800) then s
  else
    ((List.range (s.img.weltCount + 1)).filter (fun p => decide (p ≠ 0) && s.brg.reads.all (fun r =>
        r.set ≠ 4 || decide (r.pos ≠ p)))).foldl
      (fun st p => issueRead st 4 p Reg.brgPoll true) { s with brg := { s.brg with pollAt := s.cycle } }

end Sys2Proof.Machine
end

