-- ==== Sys2Proof/Machine/Effect.lean ====
section
/-!
DEFINITION. A committed write of one whole register (R8–R10): its fields, and what it triggers in the unit that owns it.
-/
namespace Sys2Proof.Machine

/-- `PWR_HOLD`: each owner's bit; other bits of the write are ignored (R512). -/
def holdWrite (s : State) (m : Requester) (v : Nat) : State :=
  let put := fun (b : Nat) => fput s Reg.pwrHold b b (b2n (bitOf v b))
  match m with
  | .pcie0 => put 0
  | .pcie1 => put 1
  | .spi => put 2
  | .benchM => put 3
  | .benchU => put 3
  | .bridge => s
  | .loader => s
  | .internal => s

/-- `PWR_CTRL` (R490, R496, R512). -/
def pwrCtrlWrite (s : State) (m : Requester) (v : Nat) : State :=
  let key := bitsOf v 31 16
  if bitsOf v 1 0 = 1 then parkRequest s m key
  else if bitsOf v 1 0 = 2 then coldRequest s m key
  else rsvd s m.code Reg.pwrCtrl

/-- Blocks TOP, PWR, IMG, MIL and TAP. -/
def effectLow (s : State) (m : Requester) (base off i v : Nat) : Option State :=
  let c := m.code
  if base = Reg.topLedgerStat then some (ledgerClear s c v)
  else if base = Reg.pwrCtrl then some (pwrCtrlWrite s m v)
  else if base = Reg.pwrHold then some (holdWrite s m v)
  else if base = Reg.imgCtrl then some (imgCtrlWrite s v)
  else if base = Reg.imgFcmd then some (fcmdWrite (draw s) c v (flashFree s 256))
  else if base = Reg.milCtrl then some (milCtrlWrite s c v)
  else if base = Reg.milRate then some (milRateWrite s v)
  else if base = Reg.milOffset then some (milOffsetWrite (wr s off (v % 2 ^ 48)) (v % 2 ^ 48))
  else if base = Reg.milSet then some (milSetWrite (wr s off v) v)
  else if base = Reg.milTodNext then some { wr s off v with mil := { s.mil with todWrites := s.mil.todWrites + 1 } }
  else if base = Reg.milPpsOut 0 then some (ppsOutWrite s c i v)
  else if base = Reg.milTrigCtrl 0 then some (trigCtrlWrite s c i v)
  else if base = Reg.milTrigPhase 0 then some (trigPhaseWrite s c i v)
  else if base = Reg.milTrigPeriod 0 then some (trigPeriodWrite s c i v)
  else if base = Reg.milTrigWidth 0 then some (trigWidthWrite s c i v)
  else if base = Reg.tapCtrl 0 then some (tapCtrlWrite (draw s) c i v (openOn s))
  else if base = Reg.tapForceCred then some (forceCred s c v)
  else none

/-- Blocks CBL to WAY. -/
def effectSearch (s : State) (c base i j v : Nat) : Option State :=
  if base = Reg.cblProf 0 0 then some (profWrite s c i j v)
  else if base = Reg.cblSel 0 0 then some (selWrite s c i j v)
  else if base = Reg.cblProfEn then some (profEnWrite s c v)
  else if base = Reg.vrdTagReclaim then some (tagReclaim s c v)
  else if base = Reg.vrdFreshCmd then some (freshCmdWrite s v)
  else if base = Reg.tolCmd then some (tolCmdWrite s c v)
  else if base = Reg.tcaSigBase then some (ringWrite s c base v Reg.tcaSigBase Reg.tcaSigSize 16 16)
  else if base = Reg.tcaSigSize then some (ringWrite s c base v Reg.tcaSigBase Reg.tcaSigSize 16 16)
  else if base = Reg.tcaSigReq then some (sigRequest s v)
  else if base = Reg.tcaRebuildCtrl then some (rebuildWrite s c v)
  else if base = Reg.tcaRebuildTotal then some (rebuildTotalWrite s c v)
  else if base = Reg.hshPfxShare then some (shareWrite s c v)
  else if base = Reg.wayPress then some (wayPressWrite s c v)
  else if base = Reg.wayFlush then some (wayFlushWrite s c v)
  else if base = Reg.wayStreamCfg then some (streamCfgWrite s c v)
  else none

/-- Blocks LRN to INT. -/
def effectMid (s : State) (m : Requester) (base i v : Nat) : Option State :=
  let c := m.code
  if base = Reg.lrnRingBase then some (ringWrite s c base v Reg.lrnRingBase Reg.lrnRingSize 64 64)
  else if base = Reg.lrnRingSize then some (lrnSizeWrite s c v)
  else if base = Reg.ageCtrl then some (ageCtrlWrite s c v)
  else if base = Reg.ageLimit 0 then some (ageLimitWrite s c i v)
  else if base = Reg.rglBudget then some (let s1 := commitFields s c base v
      if s1.rgl.budgetOn then rebudget s1 false else s1)
  else if base = Reg.rglClass 0 then some (classCommit s c i v)
  else if base = Reg.rglCeil 0 then some (ceilWrite s c i v)
  else if base = Reg.rglHostUrg 0 then some (actLater (commitFields s c (Reg.rglHostUrg i) v) (Reg.rglHostUrg i)
      (rd s (Reg.rglHostUrg i)))
  else if base = Reg.rglMissTail then some (tailWrite s c Reg.rglMissHead Reg.rglMissTail v)
  else if base = Reg.wltCtrl 0 then some (weltCtrlWrite s c i v)
  else if base = Reg.wltTbl 0 then some (wltTblWrite s c i v)
  else if base = Reg.brgFailTail then some (tailWrite s c Reg.brgFailHead Reg.brgFailTail v)
  else if base = Reg.brgRrdAddr 0 then some (rrdWrite s m i v)
  else if base = Reg.intLogTail then some (tailWrite s c Reg.intLogHead Reg.intLogTail v)
  else if base = Reg.intTcaRetire then some (tcaRetireWrite s c v)
  else if base = Reg.intRecordClr then some (recordClr s c v)
  else if base = Reg.intMarchCtrl then some (marchGo s c v)
  else if base = Reg.intRetireEnt then some (retireWrite s c v)
  else none

/-- Block HST. -/
def effectHst (s : State) (m : Requester) (base off i v : Nat) : Option State :=
  let c := m.code
  if base = Reg.hstIntRearm 0 then some (intRearm s i v)
  else if base = Reg.hstTcrCtrl 0 then some (tcrCtrlWrite s c i v)
  else if base = Reg.hstTcrTail 0 then some (tcrDoorbell s c i v)
  else if base = Reg.hstTcrBase 0 then some (tcrBaseWrite s c i off v)
  else if base = Reg.hstTcrCbase 0 then some (tcrBaseWrite s c i off v)
  else if base = Reg.hstDmaCtrl 0 then some (dmaCtrlWrite s m i v)
  else if base = Reg.hstDmaTail 0 then some (dmaDoorbell s m i v)
  else if 0x130800 ≤ base ∧ base < 0x130C00 then some (dmaGuard s m i off (commitFields s c off v))
  else none

/-- Blocks CAN to SEQ. -/
def effectHigh (s : State) (m : Requester) (base off i j v : Nat) : Option State :=
  let c := m.code
  if base = Reg.canCtrl then some (canCtrlWrite s c v)
  else if base = Reg.canNbt ∨ base = Reg.canDbt ∨ base = Reg.canTdc then some (canTimingWrite s c base v)
  else if 0x144000 ≤ base ∧ base < 0x148000 then some (objWrite s m i (off / 4 % 32) v)
  else if base = Reg.nvcCkptCtrl then some (ckptGo s c v)
  else if base = Reg.nvcAccCmd then
    some (let s1 := if bitOf v 30 then nvcAccess s m true else s
          if bitOf v 31 then nvcAccess s1 m false else s1)
  else if base = Reg.lcsCmd then some (lcsCmdWrite s m v)
  else if base = Reg.seqWdog then some (wdogWrite s c v)
  else if base = Reg.seqWdogKick then some (wdogKick s (v % 65536))
  else if base = Reg.seqMboxCmd 0 then some (mboxCmdWrite s m i v)
  else if base = Reg.seqMboxIn 0 0 then some (mboxInWrite s m i j v)
  else none

/-- A committed write of the register of row `r` at indices i and j. -/
def regEffect (s : State) (m : Requester) (r : RegRow) (i j v : Nat) : State :=
  let off := r.base + i * r.s1 + j * r.s2
  let special :=
    if off < 0x50000 then effectLow s m r.base off i v
    else if off < 0xB0000 then effectSearch s m.code r.base i j v
    else if off < 0x130000 then effectMid s m r.base i v
    else if off < 0x140000 then effectHst s m r.base off i v
    else effectHigh s m r.base off i j v
  match special with
  | some t => t
  | none => commitFields s m.code off v

end Sys2Proof.Machine
end

