-- ==== Sys2Proof/Machine/Bus.lean ====
section
/-!
DEFINITION. Register accesses by words (R12, R542–R544), what each requester reaches (R82, R396, R456–R458, R471, R472), and
the accesses themselves.
-/
namespace Sys2Proof.Machine

/-- The register that a 32-bit word of the own space belongs to: its row, indices, and whether it is the high word (R544). -/
def wordAt (off : Nat) : Option (RegRow × Nat × Nat × Bool) :=
  match regRow off with
  | some r => (r.hit off).map (fun p => (r, p.1, p.2, false))
  | none =>
    if off < 4 then none
    else
      match regRow (off - 4) with
      | some r => if r.wide then (r.hit (off - 4)).map (fun p => (r, p.1, p.2, true)) else none
      | none => none

/-- The own-space offset of a row's register. -/
def RegRow.at (r : RegRow) (i j : Nat) : Nat := r.base + i * r.s1 + j * r.s2

/-- The key of a master's latch or staging for a register (R12). -/
def latchKey (m : Requester) (off : Nat) : Nat := m.code * 2 ^ 21 + off

/-- The high word as it stands; for a write-only register, the value last committed (R12). -/
def highNow (s : State) (r : RegRow) (i j : Nat) : Nat := regFull s r i j / 2 ^ 32

/-- A read of `MIL_TIME` latches `MIL_TIME_AUX` for the master (R88). -/
def latchAux (s : State) (m : Requester) : State :=
  { s with mil := { s.mil with auxLatch := KMap.put s.mil.auxLatch m.code (some (milAuxView s)) } }

/-- A 32-bit read of a register's word (R9, R12, R88). -/
def readWord (s : State) (m : Requester) (r : RegRow) (i j : Nat) (high : Bool) : State × Nat :=
  let k := latchKey m (r.at i j)
  let v := woMask r.fields (regSeen s r i j)
  if high then
    match KMap.find s.latch k with
    | some x => ({ s with latch := KMap.put s.latch k none }, x)
    | none => (readClears s r i j 32 63, v / 2 ^ 32)
  else if r.wide then
    let s1 := if r.base = Reg.milTime then latchAux s m else s
    ({ readClears s1 r i j 0 63 with latch := KMap.put s1.latch k (some (v / 2 ^ 32)) }, v % 2 ^ 32)
  else if r.base = Reg.milTimeAux then
    match KMap.find s.mil.auxLatch m.code with
    | some x => ({ s with mil := { s.mil with auxLatch := KMap.put s.mil.auxLatch m.code none } }, x)
    | none => (s, v)
  else (readClears s r i j 0 31, v % 2 ^ 32)

/-- MIL_TIME_READ: a read of the low word of `MIL_TIME` (R88). -/
def timeRead (s : State) (m : Requester) (off : Nat) : State × Nat :=
  match wordAt off with
  | some (r, i, j, h) => readWord s m r i j h
  | none => (s, 0)

/-- A 32-bit write of a register's word: a high word is staged, a low word commits (R12). -/
def writeWord (s : State) (m : Requester) (r : RegRow) (i j : Nat) (high : Bool) (x : Nat) : State :=
  let k := latchKey m (r.at i j)
  if high then { s with stage := KMap.put s.stage k (some x) }
  else if r.wide then
    let h := match KMap.find s.stage k with
      | some y => y
      | none => highNow s r i j
    regEffect { s with stage := KMap.put s.stage k none } m r i j (h * 2 ^ 32 + x)
  else regEffect s m r i j x

/-- A 4-byte read of own-space offset `off`; the flag says that a register lies there (R543). -/
def read4 (s : State) (m : Requester) (off : Nat) : State × Nat × Bool :=
  match wordAt off with
  | some (r, i, j, h) =>
    let t := readWord s m r i j h
    let v := objSeen t.1 off 4 t.2
    (v.1, v.2, true)
  | none => (s, 0, false)

/-- A 4-byte write. -/
def write4 (s : State) (m : Requester) (off x : Nat) : State × Bool :=
  match wordAt off with
  | some (r, i, j, h) => (writeWord s m r i j h x, true)
  | none => (s, false)

/-- An 8-byte read: a 64-bit register in one cycle, or two 32-bit ones, the lower first (R12, R544). -/
def read8 (s : State) (m : Requester) (off : Nat) : State × Nat × Bool :=
  match wordAt off with
  | some (r, i, j, false) =>
    if r.wide then
      let s1 := if r.base = Reg.milTime then latchAux s m else s
      let v := objSeen (readClears s1 r i j 0 63) off 8 (woMask r.fields (regSeen s r i j))
      (v.1, v.2, true)
    else
      let a := read4 s m off
      let b := read4 a.1 m (off + 4)
      (b.1, b.2.1 * 2 ^ 32 + a.2.1, b.2.2)
  | _ =>
    let b := read4 s m (off + 4)
    (b.1, b.2.1 * 2 ^ 32, false)

/-- An 8-byte write: of two words of the message memory, one whole codeword (R413). -/
def write8 (s : State) (m : Requester) (off x : Nat) : State × Bool :=
  match wordAt off with
  | some (r, i, j, false) =>
    if r.wide then (regEffect s m r i j x, true)
    else
      let s0 := if inObjs off && !objHeld s m ((off - 0x144000) / 128) && !txReq s ((off - 0x144000) / 128) then
          wordCleaned s 0x11 (objWord off)
        else s
      let a := write4 s0 m off (x % 2 ^ 32)
      let b := write4 a.1 m (off + 4) (x / 2 ^ 32)
      (b.1, b.2)
  | _ => ((write4 s m (off + 4) (x / 2 ^ 32)).1, false)

/-- A register access of 4 or 8 bytes. -/
def regRead (s : State) (m : Requester) (off len : Nat) : State × Nat × Bool :=
  if len = 8 then read8 s m off else read4 s m off
def regWrite (s : State) (m : Requester) (off len x : Nat) : State × Bool :=
  if len = 8 then write8 s m off x else write4 s m off x

/-- The shape that a register access must have (R457). -/
def shapeOk (off len : Nat) : Bool := (len = 4 && off % 4 = 0) || (len = 8 && off % 8 = 0)

/-- Where the scratchpad's direct view starts and ends in the own space (R542). -/
def spmBase : Nat := 0x180000
def ownEnd : Nat := 0x200000

/-- Host ports reach everything (R82, R471): the image is applied and no load has failed. -/
def fullReach (s : State) : Bool := s.img.applied && !flag s Reg.imgStat 30

/-- The own-space bytes that a host port reaches before that: TOP, PWR, IMG and LCS, and below the vault while FAIL is 1
in a state that allows a host load (R82, R471). -/
def hostReach (s : State) (off len : Nat) : Bool :=
  fullReach s ||
    (if off < spmBase then [0, 1, 2, 22].contains (off / 0x10000)
     else flag s Reg.imgStat 30 && s.lcs.lcState ≠ 2 && decide (off + len ≤ spmBase + vaultBase))

/-- What a register read gives its requester. -/
def giveData (s : State) (m : Requester) (off len v : Nat) : State := { s with out := s.out ++ [.regData m.code off len v] }

/-- The alias windows of the scratchpad (R416): kind of access and whether it is the rotate view. -/
def aliasOf (off : Nat) : Option (SpmKind × Bool × Nat) :=
  if 0x800000 ≤ off ∧ off < 0x880000 then some (.set, false, off - 0x800000)
  else if 0x880000 ≤ off ∧ off < 0x900000 then some (.clear, false, off - 0x880000)
  else if 0x900000 ≤ off ∧ off < 0x980000 then some (.write, true, off - 0x900000)
  else none

/-- The port number of a PCIe function. -/
def fnOf (m : Requester) : Option Nat :=
  match m with
  | .pcie0 => some 0
  | .pcie1 => some 1
  | .spi => none
  | .benchM => none
  | .benchU => none
  | .bridge => none
  | .loader => none
  | .internal => none

/-- A PCIe access to reserved space completes and is reported (R457, R543); from elsewhere nothing is reported. -/
def unmapped (s : State) (m : Requester) : State :=
  match fnOf m with
  | some f => setEvt s (Reg.hstPcieEvt f) 1
  | none => s

/-- A PCIe access of the wrong shape is aborted (R457); from the bench core it does nothing. -/
def badShape (s : State) (m : Requester) : State :=
  match fnOf m with
  | some f => pcieErr s f 2 (some 0)
  | none => s

/-- A register read's data leaves; uncorrectable words of the message memory are reported as R425 says. -/
def giveRead (s : State) (m : Requester) (off len v : Nat) (bad : Bool) : State :=
  if !bad then giveData s m off len v
  else
    match m with
    | .pcie0 => giveData (pcieUe s 0) m off len v
    | .pcie1 => giveData (pcieUe s 1) m off len v
    | .benchM => { s with out := s.out ++ [.benchTrap 5] }
    | .benchU => { s with out := s.out ++ [.benchTrap 5] }
    | .spi => giveData s m off len v
    | .bridge => giveData s m off len v
    | .loader => giveData s m off len v
    | .internal => giveData s m off len v

/-- Does a BAR0 access lie in the register space, the direct view, an alias window or a slave window? -/
def isAlias (off : Nat) : Bool := (aliasOf off).isSome
def isSlave (off : Nat) : Bool := decide (0x1000000 ≤ off) && decide (off < 0x2000000)

/-- A write of the register space or of the scratchpad's direct view. -/
def ownWrite (s : State) (m : Requester) (off : Nat) (data : List Byte) : State :=
  if spmBase ≤ off then
    spmPost s m .write false (off - spmBase) (min data.length (ownEnd - off)) data
  else if !shapeOk off data.length then badShape s m
  else
    let r := regWrite s m off data.length (ofLe data)
    if r.2 then r.1 else unmapped r.1 m

/-- A read of the register space or of the direct view. -/
def ownRead (s : State) (m : Requester) (off len : Nat) : State :=
  if spmBase ≤ off then spmPost s m .read false (off - spmBase) (min len (ownEnd - off)) []
  else if !shapeOk off len then badShape s m
  else
    let r := regRead s m off len
    giveRead (if r.2.2 then r.1 else unmapped r.1 m) m off len r.2.1 (objBad s off)

/-- A write at a BAR0 offset (R416, R456, R472): the own space, an alias window, or the slave window. -/
def barWrite (s : State) (m : Requester) (off : Nat) (data : List Byte) : State :=
  if off < ownEnd then ownWrite s m off data
  else if isSlave off then
    if shapeOk off data.length then slaveWrite s ((off - 0x1000000) / 2 ^ 21) (off % 2 ^ 21) data else badShape s m
  else
    match aliasOf off with
    | some (k, rot, o) =>
      spmPost s m k rot o (if rot then data.length else min data.length (spmSize - o)) data
    | none => unmapped s m

/-- A read at a BAR0 offset. -/
def barRead (s : State) (m : Requester) (off len : Nat) : State :=
  if off < ownEnd then ownRead s m off len
  else if isSlave off then giveData (slaveRead s) m off len 0
  else
    match aliasOf off with
    | some (_, rot, o) => spmPost s m .read rot o (if rot then len else min len (spmSize - o)) []
    | none => giveData (unmapped s m) m off len 0

/-- The MSI-X table and pending-bit array (R456). -/
def isMsix (off : Nat) : Bool := decide (0xC00000 ≤ off) && decide (off < 0xC00200)
def isPba (off : Nat) : Bool := decide (0xC01000 ≤ off) && decide (off < 0xC01008)

/-- Write an endpoint's MSI-X table by dwords. -/
def msixBytes (s : State) (f off : Nat) (data : List Byte) : State :=
  let i := (off - 0xC00000) / 4
  let s1 := msixTableWrite s f i (fieldAt data 0 4)
  if data.length = 8 then msixTableWrite s1 f (i + 1) (fieldAt data 4 4) else s1

/-- A memory write that endpoint f receives (R456, R457, R551). -/
def pcieWrite (s : State) (m : Requester) (f off : Nat) (data : List Byte) : State :=
  if !awake s || !(pcie s f).up || decide (data = []) then s
  else
    let s1 := bump s (Reg.hstPcieCnt f 0) 1
    if isMsix off then (if shapeOk off data.length then msixBytes s1 f off data else badShape s1 m)
    else if isPba off then s1
    else if fullReach s || (decide (off < ownEnd) && hostReach s off data.length) then barWrite s1 m off data
    else s1

/-- A memory read that endpoint f receives. -/
def pcieRead (s : State) (m : Requester) (f off len : Nat) : State :=
  if !awake s || !(pcie s f).up || decide (len = 0) then s
  else
    let s1 := bump s (Reg.hstPcieCnt f 0) 1
    let x := pcie s f
    if isMsix off then
      (if shapeOk off len then
        let i := (off - 0xC00000) / 4
        giveData s1 m off len (msixWord x i + if len = 8 then msixWord x (i + 1) * 2 ^ 32 else 0)
       else badShape s1 m)
    else if isPba off then giveData s1 m off len (x.pba >>> (8 * (off - 0xC01000)) % 2 ^ (8 * len))
    else if fullReach s || (decide (off < ownEnd) && hostReach s off len) then barRead s1 m off len
    else giveData s1 m off len 0

/-- The bench core reaches BAR0 but for the MSI-X table and pending bits, once it runs (R472). -/
def benchWrite (s : State) (m : Requester) (off : Nat) (data : List Byte) : State :=
  if !s.seq.running then s
  else if isMsix off || isPba off then { s with out := s.out ++ [.benchTrap 7] }
  else barWrite s m off data
def benchRead (s : State) (m : Requester) (off len : Nat) : State :=
  if !s.seq.running then s
  else if isMsix off || isPba off then { s with out := s.out ++ [.benchTrap 5] }
  else barRead s m off len

/-- SPI may write this own-space offset (R471). -/
def spiMayWrite (s : State) (off : Nat) : Bool :=
  hostReach s off 4 && (!fullReach s || flag s Reg.hstSpiWmask (if spmBase ≤ off then 24 else off / 0x10000))

/-- A refused SPI request (R471). -/
def spiDenied (s : State) : State := bump (setEvt s Reg.hstSpiEvt 1) (Reg.hstSpiCnt 2) 1

/-- REGISTER_WRITE: a write by requester m at a BAR0 offset (bridge and loader: an own-space offset; SPI: that, or the slave
window, R470). -/
def busWrite (s : State) (m : Requester) (off : Nat) (data : List Byte) : State :=
  match m with
  | .pcie0 => pcieWrite s m 0 off data
  | .pcie1 => pcieWrite s m 1 off data
  | .spi =>
    if !awake s then s
    else if isSlave off && fullReach s then barWrite s m off data
    else if decide (off < ownEnd) && spiMayWrite s off then ownWrite s m off data
    else spiDenied s
  | .benchM => benchWrite s m off data
  | .benchU => benchWrite s m off data
  | .bridge => if awake s && decide (off < ownEnd) then ownWrite s m off data else s
  | .loader => if awake s && decide (off < ownEnd) then ownWrite s m off data else s
  | .internal => if awake s && decide (off < ownEnd) then ownWrite s m off data else s

/-- REGISTER_READ: a read by requester m. -/
def busRead (s : State) (m : Requester) (off len : Nat) : State :=
  match m with
  | .pcie0 => pcieRead s m 0 off len
  | .pcie1 => pcieRead s m 1 off len
  | .spi =>
    if !awake s then s
    else if isSlave off && fullReach s then barRead s m off len
    else if decide (off < ownEnd) && hostReach s off len then ownRead s m off len
    else spiDenied s
  | .benchM => benchRead s m off len
  | .benchU => benchRead s m off len
  | .bridge => if awake s && decide (off < ownEnd) then ownRead s m off len else s
  | .loader => if awake s && decide (off < ownEnd) then ownRead s m off len else s
  | .internal => if awake s && decide (off < ownEnd) then ownRead s m off len else s

/-- A 4-byte or 8-byte register write, as the rows of single registers make it. -/
def busWrite4 (s : State) (m : Requester) (off : Nat) (v : BitVec 32) : State := busWrite s m off (leBytes 4 v.toNat)
def busWrite8 (s : State) (m : Requester) (off : Nat) (v : BitVec 64) : State := busWrite s m off (leBytes 8 v.toNat)

/-- A PCIe access is counted by its endpoint (R458). -/
def portCount (s : State) (m : Requester) : State :=
  match fnOf m with
  | some f => bump s (Reg.hstPcieCnt f 0) 1
  | none => s

/-- A write of len bytes at own-space offset off by requester m takes effect: the device is awake and the requester reaches
the register (R82, R471, R472). -/
def mayWrite (s : State) (m : Requester) (off len : Nat) : Bool :=
  awake s && (match m with
    | .pcie0 => (pcie s 0).up && hostReach s off len
    | .pcie1 => (pcie s 1).up && hostReach s off len
    | .spi => spiMayWrite s off
    | .benchM => s.seq.running
    | .benchU => s.seq.running
    | .bridge => true
    | .loader => true
    | .internal => true)

/-- A write of one register whose row carries more than the written value: act is what the committed write does. -/
def regCommand (s : State) (m : Requester) (off : Nat) (v : BitVec 32) (act : State → State) : State :=
  if mayWrite s m off 4 then act (portCount s m) else busWrite4 s m off v

end Sys2Proof.Machine
end

