-- ==== Sys2Proof/Machine/Port.lean ====
section
/-!
DEFINITION. The scratchpad port's service (R414, R415): the access ranked first is made, and what it is for goes on.
-/
namespace Sys2Proof.Machine

/-- An access served at the port goes on to what it is for (R328, R414): `bytes` read or written, `bad`: one read was
uncorrectable, `denied`: the KIND of a denial. -/
def spmGoesOn (s : State) (a : SpmAcc) (bytes : List Byte) (bad : Bool) (denied : Nat) : State :=
  match a.use with
  | .outside => spmReply s a bytes bad denied
  | .slot r => slotHere s r (if bad then none else some bytes)
  | .input id => setInput s id (some bytes) bad
  | .put _ => s
  | .compl r => postedAt s r
  | .learn => learnPosted s
  | .sig => sigPosted s
  | .dma n => if denied = 4 then dmaHalt s n 2 (2 * 2 ^ 62 + a.off) else dmaServed s n a bytes bad
  | .dmaBack n _ irq => if denied = 4 then dmaHalt s n 2 (2 * 2 ^ 62 + a.off) else dmaAdvance s n irq
  | .march => marchAdvance s

/-- Serve one access, which holds the port until cycle `until_`. -/
def serveAcc (s : State) (a : SpmAcc) (until_ : Nat) : State :=
  let r := spmAccess { s with spm := { s.spm with
    waiting := s.spm.waiting.erase a
    portCycle := until_ } } a
  spmGoesOn r.1 a r.2.1 r.2.2.1 r.2.2.2

/-- SCRATCHPAD_SERVE: the port serves the first-ranked waiting access (R415); an access that goes to the march's holding
buffer does not wait for the port (R438). -/
def spmServe (s : State) : State :=
  match s.spm.waiting.find? (fun a => decide (a.since ≤ s.cycle) && a.redirected s) with
  | some a => serveAcc s a s.spm.portCycle
  | none =>
    if s.cycle < s.spm.portCycle then s
    else
      match nextSpm s with
      | none => s
      | some a => serveAcc s a (s.cycle + spmCycles a)

/-- Serve at once the access that an engine has just asked for, if it is the one ranked first (R415). -/
def serveNow (s : State) (u : SpmUse) : State :=
  match nextSpm s with
  | some a => if a.use = u then spmServe s else s
  | none => s

end Sys2Proof.Machine
end

