-- ==== Sys2Proof/Machine/Bridge.lean ====
section
/-!
DEFINITION. The far-side bridge as receiver (R396–R401): frames taken in LSEQ order, forwarded, executed at their target, or
matched with what this device started.
-/
namespace Sys2Proof.Machine

/-- The fields of a received bridge frame (R379, R380). -/
def frameOf (h : Nat) (payload : List Byte) : BFrame :=
  let t := bitsOf h 63 60
  let a := if t = 5 then 0 else fieldAt payload 0 4
  let d := if t = 5 then ofLe (payload.take 8) else if t = 3 then ofLe ((payload.drop 4).take 8) else 0
  ⟨t, bitsOf h 47 45, bitsOf h 44 42, bitsOf h 41 26, bitOf h 25, bitsOf h 24 22, bitsOf h 21 18, a, d⟩

/-- The offset in the target's own space. -/
def BFrame.off (f : BFrame) : Nat := bitsOf f.addr 20 0

/-- The frame's data length. -/
def BFrame.len (f : BFrame) : Nat := if f.size then 8 else 4

/-- A register write at the target, and why it failed: NOADDR or LOCKED (R397). -/
def bridgeRegWrite (s : State) (f : BFrame) : State × Nat :=
  if !shapeOk f.off f.len then (s, 1)
  else if f.off / 4 = Reg.topErr / 4 then ((regWrite s .bridge f.off f.len f.data).1, 0)
  else
    let was := flag s Reg.topErr 1
    let r := regWrite (fput s Reg.topErr 1 1 0) .bridge f.off f.len f.data
    let bad := flag r.1 Reg.topErr 1
    let s1 := if was then setEvt r.1 Reg.topErr 1 else r.1
    (s1, if !r.2 then 1 else if bad then 3 else 0)

/-- Hand a frame to its port and let the port move. -/
def sendBack (s : State) (f : BFrame) : State :=
  if pathUp s f then portPump (queueTo s f) (portTo s f.dst) else s

/-- Take a frame for the scratchpad: its access joins the port's queue (R415). -/
def bridgeSpm (s : State) (k : Nat) (f : BFrame) : State :=
  spmPost { s with brg := { s.brg with cur := some (k, f, []) } } .bridge (if f.typ = 3 then .write else .read) false
    (f.off - spmBase) f.len (leBytes f.len f.data)

/-- Execute a posted write at this device (R396, R397). -/
def bridgePosted (s : State) (k : Nat) (f : BFrame) : State :=
  if spmBase ≤ f.off then bridgeSpm s k f
  else
    let r := bridgeRegWrite s f
    if r.2 = 0 then bump r.1 (Reg.brgCnt 2) 1
    else
      let s1 := bridgeFail r.1 f r.2
      portPump s1 (portTo s1 f.src)

/-- Serve a read at this device (R398, R399). -/
def bridgeRead (s : State) (k : Nat) (f : BFrame) : State :=
  if spmBase ≤ f.off then bridgeSpm s k f
  else if !shapeOk f.off f.len then sendBack s (failCpl s f 1)
  else
    let r := regRead s .bridge f.off f.len
    if objBad s f.off then sendBack r.1 (failCpl s f 6)
    else if r.2.2 then bump (sendBack r.1 { failCpl s f 0 with data := r.2.1 }) (Reg.brgCnt 3) 1
    else sendBack r.1 (failCpl s f 1)

/-- A poll's result lands in `BRG_SLV_STAT[p]` (R401). -/
def pollResult (s : State) (p v : Nat) : State :=
  let off := Reg.brgSlvStat (p - 1)
  let s1 := wr s off v
  if v ≠ rd s off ∧ v ≠ 0 then setEvt s1 Reg.brgEvt (8 + p) else s1

/-- A completion reaches its initiator (R398). -/
def takeCpl (s : State) (f : BFrame) : State :=
  match s.brg.reads.find? (fun r => r.wsn = f.wsn) with
  | none => bump s (Reg.brgCnt 7) 1
  | some r =>
    if f.status ≠ 0 then failRead s r f.status
    else
      let v := if r.size then f.data else f.data % 2 ^ 32
      let s1 := { s with brg := { s.brg with reads := s.brg.reads.filter (fun x => x.wsn ≠ r.wsn) } }
      if r.set = 4 then pollResult s1 r.pos v
      else wr (wr s1 (Reg.brgRrdData r.set) v) (Reg.brgRrdStat r.set) (2 * 2 ^ 30 + r.wsn)

/-- A frame for this device is acted on. -/
def actFrame (s : State) (k : Nat) (f : BFrame) : State :=
  match f.typ with
  | 3 => bridgePosted s k f
  | 4 => bridgeRead s k f
  | 5 => takeCpl s f
  | 6 => logWrFail s f f.status f.src
  | _ => s

/-- The scratchpad read in progress for a frame of port k keeps its outbound completion entry (R399). -/
def cplKept (s : State) (k : Nat) : Nat :=
  match s.brg.cur with
  | some (p, f, _) => b2n (decide (p = k) && decide (f.typ = 4))
  | none => 0

/-- Can the frame at port k be consumed now (R399, R415)? At its target one scratchpad access runs at a time, and a read
needs an outbound completion entry; in passing it needs an entry of the other port. -/
def canTake (s : State) (k : Nat) (f : BFrame) : Bool :=
  if f.dst = myPos s then
    ((f.typ ≠ 3 && f.typ ≠ 4) || decide (f.off < spmBase) || s.brg.cur.isNone) &&
      (f.typ ≠ 4 || decide (outUsed (wport s k) 4 + cplKept s k < 8))
  else !(wport s (1 - k)).sends || decide (s.img.weltCount < f.dst) || canQueue (wport s (1 - k)) f

/-- Consume one frame: its entry is freed; it is acted on, or passed on (R397, R399, R409). -/
def takeFrame (s : State) (k : Nat) (f : BFrame) : State :=
  let x := wport s k
  let s1 := freeEntry (setWport s k { x with inq := x.inq.erase f }) k f.cls 1
  if f.dst = myPos s then actFrame s1 k f
  else if s.img.weltCount < f.dst then
    let s2 := bridgeFail s1 f 4
    portPump s2 k
  else if !(wport s1 (1 - k)).sends then
    let s2 := bridgeFail s1 f 5
    portPump s2 k
  else
    let s2 := setWport s1 (1 - k) (enqueue (wport s1 (1 - k)) f)
    portPump (bump s2 (Reg.brgCnt 4) 1) (1 - k)

/-- The first frame of a port that may be consumed: within a class in order, none ahead of an earlier posted frame (R399). -/
def nextFrame (s : State) (k : Nat) (shut : List Nat) (l : List BFrame) : Option BFrame :=
  match l with
  | [] => none
  | f :: t =>
    if shut.contains f.cls || shut.contains 2 then nextFrame s k (f.cls :: shut) t
    else if canTake s k f then some f
    else nextFrame s k (f.cls :: shut) t

/-- Consume what can be consumed at a port. -/
def drainPort (s : State) (k fuel : Nat) : State :=
  match fuel with
  | 0 => s
  | n + 1 =>
    match nextFrame s k [] (wport s k).inq with
    | some f => drainPort (takeFrame s k f) k n
    | none => s

/-- Both ports consume what they can. -/
def drainBridge (s : State) : State :=
  let s1 := drainPort s 0 (wport s 0).inq.length
  drainPort s1 1 (wport s1 1).inq.length

/-- BPW, BRD, BCPL, BNOTE: a bridge frame of type `typ` arrives on port k; only the next LSEQ is taken (R400). -/
def bridgeReceive (s : State) (k typ h : Nat) (payload : List Byte) : State :=
  let x := wport s k
  if x.state ≠ 4 || decide (bitsOf h 63 60 ≠ typ) || decide (bitsOf h 59 48 ≠ x.expSeq) then s
  else
    let f := frameOf h payload
    let s1 := setWport s k { x with
      expSeq := (x.expSeq + 1) % 4096
      rcvd := x.rcvd.setNat f.cls (x.rcvd.nat f.cls + 1)
      rsv := if typ = 5 then x.rsv - 1 else x.rsv
      inq := x.inq ++ [f] }
    auditBridge (drainBridge s1) k

/-- SCRATCHPAD_SERVE: the port serves an access; a bridge access that ends lets the next frame be taken (R415). -/
def serveSpm (s : State) : State :=
  let s1 := drainBridge (spmServe s)
  portPump (portPump s1 0) 1

end Sys2Proof.Machine
end

