-- ==== Sys2Proof/Machine/Spi.lean ====
section
/-!
DEFINITION. The SPI port of the safety microcontroller (R468–R471), and the CAN READ command of the firmware (R483).
-/
namespace Sys2Proof.Machine

/-- The CRC-8 of R123 over the upper seven bytes of a 64-bit transaction, most significant bit first (R468). -/
def spiCrc (v : Nat) : Nat := crcBytes 8 0x2F 0xFF ((leBytes 8 v).reverse.take 7) ^^^ 0xFF

/-- A MISO word: STATUS, ECHO, DATA and CRC (R468). -/
def misoWord (status echo data : Nat) : Nat :=
  let v := status % 256 * 2 ^ 56 + echo % 65536 * 2 ^ 40 + data % 2 ^ 32 * 2 ^ 8
  v + spiCrc v

/-- STATUS (R469) apart from SEQ and IRQ: the flags of a reported transaction. -/
def spiFlags (p : SpiResp) : Nat := b2n p.frame * 128 + b2n p.ue * 64 + b2n p.denied * 32

/-- SPI_CS_FALL (R470): the response that MISO carries is latched; a pending access not yet complete answers BUSY. -/
def spiFall (s : State) : State :=
  if !awake s then s
  else
    let base := b2n (irqLow s) * 8 + s.spi.seq % 8
    let give := fun (st : State) (status echo data : Nat) =>
      { st with out := st.out ++ [.spiMiso (BitVec.ofNat 64 (misoWord status echo data))] }
    match s.spi.pend with
    | none => give { s with spi := { s.spi with refusing := false } } base 0 0
    | some p =>
      if p.done then give { s with spi := { s.spi with refusing := false } } (base + spiFlags p) p.waddr p.data
      else give (bump { s with spi := { s.spi with refusing := true } } (Reg.hstSpiCnt 3) 1) (base + 16) p.waddr 0

/-- The pending response of a transaction. -/
def spiPend (s : State) (p : SpiResp) : State := { s with spi := { s.spi with pend := some p } }

/-- A transaction is executed: counted and numbered (R469, R471). -/
def spiDone (s : State) : State :=
  bump { s with spi := { s.spi with seq := (s.spi.seq + 1) % 8 } } (Reg.hstSpiCnt 0) 1

/-- A refused transaction's response is complete at once (R470, R471). -/
def spiRefuse (s : State) (w : Nat) : State := spiPend (spiDenied s) ⟨true, false, false, true, w, 0⟩

/-- A READ of this device's own space (R470). -/
def spiRead (s : State) (w : Nat) : State :=
  let off := 4 * w
  if !hostReach s off 4 then spiRefuse s w
  else if spmBase ≤ off then
    spmPost (spiPend (spiDone s) ⟨false, false, false, false, w, 0⟩) .spi .read false (off - spmBase) 4 []
  else
    let r := read4 s .spi off
    spiPend (spiDone r.1) ⟨true, false, objBad s off, false, w, r.2.1⟩

/-- A WRITE of this device's own space (R470, R471). -/
def spiWrite (s : State) (w v : Nat) : State :=
  if !spiMayWrite s (4 * w) then spiRefuse s w
  else spiPend (ownWrite (spiDone s) .spi (4 * w) (leBytes 4 v)) ⟨true, false, false, false, w, 0⟩

/-- A request for another position's own space (R470): a slave-window access. -/
def spiFar (s : State) (p w v : Nat) (write : Bool) : State :=
  if !fullReach s then spiRefuse s w
  else
    let s1 := spiPend (spiDone s) ⟨true, false, false, false, w, 0⟩
    if write then slaveWrite s1 p (4 * w) (leBytes 4 v) else slaveRead s1

/-- SPI_TRANSACTION (R468, R470): `bits` clocked with SPI_CS_N low, then its rise. -/
def spiTransaction (s : State) (bits mosi : Nat) : State :=
  let w := bitsOf mosi 61 43
  let op := bitsOf mosi 63 62
  let p := bitsOf mosi 42 40
  if !awake s then s
  else if s.spi.refusing then setEvt { s with spi := { s.spi with refusing := false } } Reg.hstSpiEvt 2
  else if bits ≠ 64 ∨ bitsOf mosi 7 0 ≠ spiCrc mosi ∨ op = 3 then
    spiPend (bump (setEvt s Reg.hstSpiEvt 0) (Reg.hstSpiCnt 1) 1) ⟨true, true, false, false, w, 0⟩
  else if op = 0 then spiPend (spiDone s) ⟨true, false, false, false, w, 0⟩
  else if p ≠ myPos s then spiFar s p w (bitsOf mosi 39 8) (decide (op = 2))
  else if op = 1 then spiRead s w
  else spiWrite s w (bitsOf mosi 39 8)

/-- READ over CAN (R483): a TOP, PWR, MIL or LCS register. -/
def mgmtRead (s : State) : State :=
  mgmtAnswer s 4 4 (fun t =>
    let off := mgmtArg t 4
    if !([0, 1, 3, 22].contains (off / 0x10000)) then mgmtRespond t 2 []
    else if off % 4 ≠ 0 then mgmtRespond t 3 []
    else
      let r := read4 t .benchM off
      mgmtRespond r.1 0 (leBytes 4 r.2.1))

end Sys2Proof.Machine
end

