-- ==== Sys2Proof/Machine/Apply.lean ====
section
/-!
DEFINITION. Image apply (R74–R77, R118, R157, R161, R167, R306, R431, R432, R472, R497–R501), the DRAM clear (R444), and
the resumption of road time (R501).
-/
namespace Sys2Proof.Machine

/-- DEVICE (R58): welt position, size and role, and the welt ports' enables. -/
def applyDevice (s : State) (b : List Byte) : State :=
  let w := fieldAt (sectBytes b 1) 4 4
  let s1 := { s with img := { s.img with
    weltPos := bitsOf w 2 0
    weltCount := bitsOf w 5 3
    role := bitsOf w 8 6 } }
  fput (fput s1 (Reg.wltCtrl 0) 0 0 (bitsOf w 9 9)) (Reg.wltCtrl 1) 0 0 (bitsOf w 10 10)

/-- PORTS (R157). -/
def applyPorts (s : State) (b : List Byte) : State :=
  let p := sectBytes b 2
  (List.range 32).foldl (fun st i =>
    let r := slice p (16 * i) 16
    wr (wr st (Reg.tapCtrl i) (word r 0)) (Reg.tapEvtEn i) (word r 1)) s

/-- CLASSES (R62): budget, class records, master-to-class map. -/
def applyClasses (s : State) (b : List Byte) : State :=
  let c := sectBytes b 3
  let s1 := fput (fput s Reg.rglBudget 10 0 (fieldAt c 0 2)) Reg.rglBudget 26 16 (fieldAt c 4 2)
  let s2 := (List.range 8).foldl (fun st i =>
    let o := 16 + 16 * i
    wr st (Reg.rglClass i) (fieldAt c o 2 % 2 ^ 11 + fieldAt c (o + 4) 2 % 2 ^ 11 * 2 ^ 32 + fieldAt c (o + 8) 2 * 2 ^ 48)) s1
  (List.range 48).foldl (fun st m => wr st (Reg.rglMap m) (fieldAt c (144 + m) 1 % 8)) s2

/-- One table declaration (R60, R231, R320): its block map or aging limit. -/
def applyTable (s : State) (e : Nat × TblDecl) : State :=
  let d := e.2
  let s1 := { s with img := { s.img with tables := KMap.put s.img.tables e.1 (some d) } }
  if declTern d then
    (List.range d.blocks).foldl (fun st k =>
      wr st (Reg.tcaBlk (d.first + k)) (b2n (decide (d.kind = 1)) * 2 ^ 8 + 2 ^ 7 + e.1 % 64)) s1
  else if d.age then wr s1 (Reg.ageLimit e.1) d.ageLimit
  else s1

/-- SELECTOR (R161). -/
def applySelector (s : State) (b : List Byte) : State :=
  let c := sectBytes b 5
  if c = [] then s
  else
    let s1 := wr s Reg.cblSelDef (fieldAt c 0 1)
    (List.range 512).foldl (fun st i =>
      let r := slice c (16 + 32 * i) 32
      (List.range 8).foldl (fun st2 k => wr st2 (Reg.cblSel i k) (word r k)) st) s1

/-- One cobbler program (R167). -/
def applyProgram (s : State) (g : Nat × Nat × List Nat) : State :=
  (g.2.2.zip (List.range g.2.1)).foldl (fun st e => wr st (Reg.cblProg g.1 e.2) e.1) (wr s (Reg.cblProgLen g.1) g.2.1)

/-- One profile record (R61, R75, R169). -/
def applyProfile (s : State) (r : List Byte) : State :=
  let n := profNo r
  let s1 := (List.range 8).foldl (fun st w => wr st (Reg.cblProf n w) (word r w)) s
  { s1 with
    cbl := { s1.cbl with hasRec := s1.cbl.hasRec.set (fun _ => false) n true }
    img := { s1.img with autoEn := if bitOf (word r 0) 31 then s1.img.autoEn ||| 2 ^ n else s1.img.autoEn } }

/-- TIME (R118). -/
def applyTime (s : State) (b : List Byte) : State :=
  let c := sectBytes b 8
  if c = [] then s
  else (timeRegs.zip (List.range 83)).foldl (fun st e => wr st e.1 (fieldAt c (8 * e.2) 8)) s

/-- WAYMARK (R306, R307). -/
def applyWaymark (s : State) (b : List Byte) : State :=
  let c := sectBytes b 9
  if c = [] then s
  else
    let s1 := wr s Reg.wayMap (wayBaseOf b + wayPagesOf b * 2 ^ 32)
    let s2 := fput (wr s1 Reg.wayPress (fieldAt c 8 4)) Reg.wayCtrl 25 16 (bitsOf (fieldAt c 12 4) 25 16)
    { s2 with img := { s2.img with searchId := waySearchOf b } }

/-- FIRMWARE (R63): the code goes to scratchpad offset 0. -/
def applyFirmware (s : State) (b : List Byte) : State :=
  let c := sectBytes b 0xB
  let n := fieldAt c 0 4
  { s with
    spm := { s.spm with mem := memPuts s.spm.mem 0 (slice c 256 n) }
    img := { s.img with fwLen := n }
    seq := { s.seq with entry := fieldAt c 4 4 } }

/-- D_max + 64: the settle time that apply computes (R285); 64 when no record has WAY_EN. -/
def settleTime (b : List Byte) : Nat :=
  64 + (((imgProfiles b).filter profWayEn).map (fun r => bitsOf (word r 0) 14 0)).foldl max 0

/-- Every section in the order of R74; REGWRITES go to the registers as the loader's writes (R64). -/
def applySections (s : State) (b : List Byte) : State :=
  let s1 := applyClasses (applyPorts (applyDevice s b) b) b
  let s2 := (imgTables b).foldl applyTable s1
  let s3 := (programsOf b).foldl applyProgram (applySelector s2 b)
  let s4 := (imgProfiles b).foldl applyProfile s3
  let s5w := applyWaymark (applyTime s4 b) b
  let s5 := { s5w with way := { s5w.way with settleS := settleTime b } }
  let s6 := (regwrites b).foldl (fun st e => (write4 st .loader e.1 e.2).1) s5
  applyFirmware s6 b

/-- The lowest page from `p` on that is outside every used region and neither retired nor a spare (R431). -/
def freePage (s : State) (fuel p : Nat) : Option Nat :=
  match fuel with
  | 0 => none
  | k + 1 =>
    if pageInTables s p || (retirements s).any (fun r => decide (r.page = p) || decide (r.spare = p)) then freePage s k (p + 1)
    else some p

/-- The retirements are checked against the applied image (R431): an entry is re-homed, or stays recorded but not in
force. -/
def rehome (s : State) (i : Nat) : State :=
  match retireAt s i with
  | none => s
  | some r =>
    if pageInTables s r.spare then
      match freePage s (2 ^ 20) 0 with
      | some p => setEvt (setRetire s i (some { r with
          spare := p
          inForce := true })) Reg.intEvt 12
      | none => wr (setRetire s i (some { r with inForce := false })) Reg.intStat 1
    else if r.inForce then s
    else setRetire s i (some { r with inForce := true })

/-- Retired ternary blocks of an ordered table, or of none, are not in force (R432). -/
def holdBlocks (s : State) : State :=
  let held := (List.range 32).filter (fun k => flag s Reg.intTcaRetire k &&
    (match blockOwner s k with
     | none => true
     | some t =>
       match tblOf s t with
       | none => true
       | some d => isOrdered d))
  let s1 := { s with intg := { s.intg with tcaHeld := held.foldl (fun a k => a + 2 ^ k) 0 } }
  if held = [] then s1 else wr s1 Reg.intStat 1

/-- The DRAM clear starts once the channels are trained and the retirements are settled (R431, R444, R497). -/
def startClear (s : State) : State :=
  if s.drc.trained ∧ s.img.applied ∧ s.drc.clearFrom = none then
    progSet { s with drc := { s.drc with clearFrom := some s.cycle } } Reg.drcClrProg Reg.drcClrTotal 67108864 0 true
  else s

/-- The road-time source is selected (R91, R92, R115, R116): a slave follows the welt. -/
def startSource (s : State) : State :=
  let s1 := setWatch s (srcBak s) { SrcWatch.zero with since := s.cycle }
  let s2 := useSource { s1 with mil := { s1.mil with warm := s.pwr.warmStart } }
    (if s.img.weltPos = 0 then srcPri s else 5) false
  (List.range 10).foldl (fun st n =>
    if (if n < 8 then flag st (Reg.milTrigCtrl n) 1 else flag st (Reg.milPpsOut (n - 8)) 21) then loadPulse st n else st) s2

/-- A warm start resumes road time at the next edge of the always-on clock, if the newest record is the commit's (R501). -/
def planResume (s : State) : State :=
  let ok := match newestSlot s with
    | none => none
    | some i =>
      let b := memBytes s.nvc.mem (0x220000 + 256 * i) 256
      if bitOf (fieldAt b 4 4) 0 ∧ fieldAt b 0 4 = s.pwr.commitSeq then
        some (fieldAt b 8 8, fieldAt b 24 4, bitOf (fieldAt b 4 4) 2)
      else none
  { s with pwr := { s.pwr with
    resume := if s.pwr.warmStart then ok else none
    counting := s.pwr.warmStart && ok.isSome } }

/-- Road time resumes in holdover (R111, R501). -/
def resumeTime (s : State) : State :=
  match s.pwr.resume with
  | none => s
  | some r =>
    let s1 := { s with
      pwr := { s.pwr with
        resume := none
        counting := false }
      mil := { s.mil with
        road := roadWrap (r.1 * roadUnit + rd s Reg.milHoldTicks * r.2.1 * roadUnit / 65536 : Nat)
        warm := true } }
    let s2 := fput (servoState s1 3) Reg.pwrStartCause 14 14 1
    if r.2.2 then setValid s2 else s2

/-- IMG_LOCK is set unless HOLD_UNLOCKED is honoured (R68, R76). -/
def lockAfter (s : State) (b : List Byte) : Bool := !bitOf (imgFlags b) 0 || decide (s.lcs.lcState = 2)

/-- The rate bucket of the learn queue starts full: LV is BURST (R316, R340). -/
def fillLearn (s : State) : State := { s with lrn := { s.lrn with level := fget s Reg.lrnRate 31 16 } }

/-- IMAGE_APPLY_END (R74–R76, R362, R375, R431, R432, R472, R473, R484, R497, R498): the admitted image takes effect, the staging
memory is cleared, the ports leave OFF, the bench core is released and STAGED is entered. -/
def applyEnd (s : State) : State :=
  if s.pwr.st ≠ .woken ∧ ¬ (s.pwr.st = .parking ∧ s.pwr.prev = .woken) ∨ s.img.phase ≠ .admitted ∨ s.nvc.wipeAt.isSome then s
  else
    let b := s.img.staged
    let s1 := fillLearn (applySections s b)
    let s2 := { s1 with img := { s1.img with
      applied := true
      image := b
      staged := []
      phase := .applied } }
    let s3 := wr (wr s2 Reg.imgId (imgIdOf b)) Reg.imgReportId (fieldAt (sectBytes b 0xC) 0 8)
    let s4 := wr (fput (fput s3 Reg.imgStat 31 31 1) Reg.imgStat 24 24 (b2n (copyMatches s3))) Reg.imgLock
      (b2n (locked s3 || lockAfter s b))
    let s5 := wr s4 Reg.imgProg (progValue (rd s4 Reg.imgTotal) (rd s4 Reg.imgTotal) false)
    let s6 := holdBlocks ((s5.intg.retire.map (fun e => e.1)).foldl rehome s5)
    let s7 := rebudget (loadClasses s6) true
    let s8 := { s7 with
      rgl := { s7.rgl with windowAt := s.cycle / 800 }
      age := { s7.age with base := (agingTables s7).foldl (fun m t => m.setNat t (nowNs s7)) s7.age.base }
      wlt := { s7.wlt with slotOn := decide (s7.img.weltPos = 0) }
      seq := { s7.seq with
        running := true
        wdogAt := s.cycle }
      pwr := { s7.pwr with
        st := if s.pwr.st = .parking then .parking else .staged
        prev := if s.pwr.st = .parking then .staged else s7.pwr.prev
        step9At := s.cycle } }
    let s9 := canmApply (fput s8 Reg.seqCtrl 0 0 (b2n (!flag s8 Reg.imgStat 25)))
    let s10 := (List.range 32).foldl (fun st p => tapEnApply st p none) s9
    let s11 := weltEnApply (weltEnApply s10 0) 1
    let s12 := setEvt (planResume (startSource s11)) Reg.pwrEvt 3
    startClear (if s.pwr.warmStart then autoEnable s12 false true else s12)

/-- DRAM_CLEAR_END (R444): every granule reads zero with good check bits. -/
def clearEnd (s : State) : State :=
  match s.drc.clearFrom with
  | none => s
  | some _ =>
    if s.drc.clearDone then s
    else wr { s with drc := { s.drc with
      clearDone := true
      mem := [] } } Reg.drcClrProg (progValue 67108864 67108864 false)

/-- DRAM_TRAINING (R443), after which the clear can start. -/
def trainingEnd (s : State) (testOk : Bool) : State := startClear (dramTraining s testOk)

end Sys2Proof.Machine
end

