-- ==== Sys2Proof/Machine/Tick.lean ====
section
/-!
DEFINITION. What one cycle of the clock does when no command is waiting: time, counters of time, and the engines that
move by themselves. Everything that has a row of its own in the opcode table is left to its command.
-/
namespace Sys2Proof.Machine

/-- One edge of the 32.768 kHz clock: its counter, the count of a PARK, and the resumption of road time (R111, R501). -/
def aonEdge (s : State) : State :=
  let s1 := bump s Reg.milAonCnt 1
  let s2 := resumeTime (if s.pwr.counting then bump s1 Reg.milHoldTicks 1 else s1)
  { s2 with mil := { s2.mil with edgeNs := nowNs s2 } }

/-- The fast clock's share of an edge: 16 edges in 390,625 cycles of 1.25 ns. -/
def aonStep (s : State) : State × Bool :=
  let a := s.pwr.aonAcc + 128
  if 3125000 ≤ a then (aonEdge { s with pwr := { s.pwr with aonAcc := a - 3125000 } }, true)
  else ({ s with pwr := { s.pwr with aonAcc := a } }, false)

/-- A class's masters with work waiting are held (R354, R373). -/
def classHeld (s : State) (c : Nat) : Bool :=
  atCeil s true c || atCeil s false c || (s.rgl.reqs ++ s.rgl.parked).any (fun r => decide (clsOf s r.master = c) &&
    heldM s r.master (match r.grans.head? with
      | some g => g.write && !r.slot
      | none => false))

/-- HOLD_CYCLES and STEP3_CYCLES of a class (R373). -/
def classTick (s : State) (c : Nat) : State :=
  let s1 := if classHeld s c then bump s (Reg.rglCnt c 3) 1 else s
  if classStep s c = 3 then bump s1 (Reg.rglCnt c 4) 1 else s1

/-- A row access waits for the cap alone (R199, R233). -/
def capWaits (s : State) : Bool := !capOpen s && (slotWaiting s).any isRow

/-- Counters of time: PWR_HOLD_MS each ms (R490), the throttle levels each µs (R233), the classes' hold and
step counters (R373). -/
def timeCounters (s : State) : State :=
  let ms := rd s Reg.pwrHoldMs
  let s1 := if s.cycle % 800000 = 0 ∧ ms ≠ 0 then wr s Reg.pwrHoldMs (ms - 1) else s
  let s2 := if s.cycle % 800 = 0 ∧ s.tca.level ≠ 0 then bump s1 (Reg.tcaCnt (6 + s.tca.level)) 1 else s1
  if s.rgl.reqs = [] ∧ s.rgl.parked = [] ∧ s.rgl.ceilNow = [] then s2 else (List.range 8).foldl classTick s2

/-- The cycle that ends now counts for a row access that has waited for the cap alone in it (R199, R233). -/
def capTick (s : State) : State := if capWaits s then bump s (Reg.tcaCnt 6) 1 else s

/-- A deferred enable takes effect once the step has been applied (R96). -/
def deferredEnable (s : State) : State :=
  match s.mil.deferEn, s.mil.step with
  | some en, none => wr { s with mil := { s.mil with deferEn := none } } Reg.cblProfEn en
  | _, _ => s

/-- XSPI_RESET_N is released after 10 µs (R52). -/
def xspiTick (s : State) : State :=
  match s.img.xspiLow with
  | some t => if t + 8000 ≤ s.cycle then xspiRelease s else s
  | none => s

/-- At level 3, which now governs, waiting searches are refused (R200, R202). -/
def refuseTick (s : State) : State := if s.tca.level = 3 then refuseWaiting s else s

/-- Every tap port that is sending fills its next block boundary (R119, R125, R146). -/
def tapFill (s : State) : State := (s.taps.map (fun e => e.1)).foldl fillBlock s

/-- The engines that move by themselves in a cycle. -/
def engines (s0 : State) : State :=
  let s := offerAll (weltTick (tapFill (portsDone (nvcAccDone (xspiTick (refuseTick s0))))))
  let s1 := deliverWelt (deliverDue (compareDone (runFilters s))) 64
  let s2 := updateDone (nextFound (wayDue (dmaAll (canStart (spmConflicts s1) 129))))
  sigBoundary (flushStep (flushPump (sweepPump (marchPump (scrubPump s2)))))

/-- A commit's last steps, with the welt ports OFF (R492). -/
def parkEnd (s : State) : State :=
  let s1 := parkFinish s
  if s.pwr.reqHigh && !s1.pwr.reqHigh then weltDown (weltDown s1 0 0) 1 0 else s1

/-- A cycle of the fast clocks. -/
def fastTick (s0 : State) : State :=
  let s := sigTick (capTick s0)
  let s1 := { s with
    cycle := s.cycle + 1
    wlt := { s.wlt with slot := if s.wlt.slotOn then (s.wlt.slot + 2) % 2 ^ 32 else s.wlt.slot } }
  let e := aonStep (roadEdge (deferredEnable (judgeUnder s1)))
  let s2 := engines (timeCounters (vaultTick e.1))
  notePast s (settle (parkEnd (if e.2 then parkRecord s2 else s2))) (edgeInc s)

/-- What an idle step does: a cycle of the fast clocks, an edge of the always-on clock while only that runs, nothing
when the device has no power (R485, R487). -/
def tick (s : State) : State :=
  match s.pwr.st with
  | .off => s
  | .park => settle (aonEdge s)
  | .starting => settle (aonEdge s)
  | .woken => fastTick s
  | .staged => fastTick s
  | .ready => fastTick s
  | .parking => fastTick s

end Sys2Proof.Machine
end

