-- ==== Sys2Proof/Machine/Events.lean ====
section
/-!
DEFINITION. The device's own events, each as one step with the conditions under which its unit takes it: a unit that is not
due leaves the state as it is.
-/
namespace Sys2Proof.Machine

/-- PROFILE_SELECT (R159): the next accepted descriptor, three cycles after acceptance. -/
def selectNext (s : State) : State :=
  match nextSelect s with
  | some f => selectFlight s f
  | none => s

/-- COMPOSE_START (R25, R176): the composition that is due first. -/
def composeNext (s : State) : State :=
  let s1 := deliverDue s
  match nextCompose s1 with
  | some f => composeOne s1 f
  | none => s1

/-- VERDICT_RELEASE (R30): the verdict whose A + D has come. -/
def releaseNext (s : State) : State :=
  match nextRelease s with
  | some f => weltDropKeys (release s f) f.tag f.epoch
  | none => s

/-- TABLE_COMMAND_FETCH (R332): one slot per cycle, from the rings in turn. -/
def fetchNext (s : State) : State :=
  match nextRing s with
  | some r => if s.tcr.fetchCycle ≤ s.cycle then serveNow (fetchSlot s r) (.slot r) else s
  | none => s

/-- COMPLETION_POST (R332, R334): one completion per cycle, oldest first, after the output data of its ring. -/
def postNext (s : State) : State :=
  match s.tcr.compl with
  | [] => s
  | c :: rest =>
    if s.cycle < s.tcr.postCycle || asks s (.put (some c.ring)) then s
    else serveNow (if asks s (.compl c.ring) then s else postCompl s c rest) (.compl c.ring)

/-- LEARN_CHECK (R314): the first raised notification, at most four per cycle, from the cycle after it was raised. -/
def learnCheck (s : State) : State :=
  let used := if s.lrn.checkAt = s.cycle then s.lrn.checkN else 0
  match minByKey notifKey s.lrn.raised with
  | none => s
  | some n =>
    if n.raisedAt < s.cycle ∧ used < 4 ∧ s.pwr.stopGrants = false then
      checkNotif { s with lrn := { s.lrn with
        checkAt := s.cycle
        checkN := used + 1 } } n
    else s

/-- LEARN_RING_WRITE (R317, R318): the head of the learn queue goes to the ring, unless the regulator holds the engine (R355). -/
def learnWrite (s : State) : State :=
  match s.lrn.queue with
  | [] => s
  | n :: _ => if s.pwr.stopGrants || heldM s 42 false then s else serveNow (deliverNotif s n) .learn

/-- SIGNATURE_POST (R225): the waiting signature goes to the ring. -/
def signaturePost (s : State) : State := serveNow (sigPost s) .sig

/-- DMA_DESCRIPTOR_DONE (R466): the status of a finished descriptor is written back. -/
def dmaDone (s : State) (n : Nat) : State :=
  match (dmaCh s n).op with
  | none => s
  | some o => serveNow (dmaEnd s n) (.dmaBack n 0 o.irq)

/-- TICK_ADVANCE (R320): every table that ages. -/
def tickAdvance (s : State) : State := (agingTables s).foldl advanceTick s

/-- AGING_LAP_START (R324). -/
def lapStart (s : State) : State := if lapMayStart s then startLap s else s

/-- A lap of d cycles over tables whose shortest limit is ms (0: it visited none) is too long (R326). -/
def lapTooLong (d ms : Nat) : Bool := decide (ms ≠ 0) && decide (512 * ms * 800000 < d)

/-- AGING_LAP_END (R326, R327): the lap is recorded and the ledgers are checked. -/
def lapEnd (s : State) : State :=
  match s.age.lap with
  | none => s
  | some l =>
    if lapOver s then
      let d := s.cycle - l.start
      let total := rd s Reg.ageLapTotal
      let s1 := wr s Reg.ageLapProg (progValue total total false)
      let s2 := wr s1 Reg.ageLap (satW 32 (d / 800) * 2 ^ 32 + (fget s1 Reg.ageLap 31 0 + 1) % 2 ^ 32)
      let s3 := setEvt s2 Reg.ageEvt 0
      let s4 := if lapTooLong d l.shortest then setEvt s3 Reg.ageEvt 1 else s3
      [0, 1].foldl auditBridge (auditAll { s4 with age := { s4.age with lap := none } })
    else s

/-- SETTLE_RELEASE (R285): the first insert whose S cycles have passed. -/
def settleRelease (s : State) : State :=
  match dueRelease s with
  | some i => releaseInsert s i
  | none => s

/-- GROUP_WRITE (R286): a group's records, or a held header, unless the regulator holds the writer (R355). -/
def groupWrite (s : State) : State :=
  if heldM s 46 true then s
  else
    match dueGroup s with
    | some k => writeGroup s k.1 k.2
    | none =>
      match dueHeader s with
      | some k => writeHeader s k
      | none => s

/-- COMBINE_TIMEOUT (R286): the group whose oldest record has waited COMBINE_US, unless the writer is held (R355). -/
def combineTimeout (s : State) : State :=
  if heldM s 46 true then s
  else
    match timedGroup s with
    | some k => writeGroup s k.1 k.2
    | none => s

/-- PRESSURE_FREE (R292): at most one page per four cycles. -/
def pressureStep (s : State) : State := if pressureOn s ∧ s.way.nextFree ≤ s.cycle then pressureFree s else s

/-- The waymark writer has nothing else to do (R293). -/
def writerIdle (s : State) : Bool := (dueRelease s).isNone && (dueGroup s).isNone && (dueHeader s).isNone

/-- AGE_VISIT (R293): one stream visited in an idle cycle, at most one in a cycle; an aged head page is freed. -/
def ageVisit (s : State) : State :=
  if writerIdle s && decide (s.way.visitAt ≤ s.cycle) then
    let n := s.way.visit
    let s1 := { s with way := { s.way with
      visit := (n + 1) % 65536
      visitAt := s.cycle + 1 } }
    if agedOut s1 n then setEvt (wcnt (freeHead s1 n) 6 1) Reg.wayEvt 5 else s1
  else s

/-- FLUSH_STREAM_END (R303): the scan has reached the last entry. -/
def flushStreamEnd (s : State) : State :=
  match s.way.flush with
  | some f => if f.2.1 + wayPages s ≤ s.cycle then endFlush s f.1 f.2.2 else s
  | none => s

/-- CAN_FRAME_RECEIVE (R479, R483): a frame that fills a management command object is answered when its command is unknown. -/
def canFrame (s : State) (f : CanFrame) (lec : Nat) (heavy : Bool) (ago : Nat) : State :=
  mgmtUnknown (canReceive s f lec heavy ago)

/-- GRACE_END (R491): the levels of the wake and tamper inputs at the decision. -/
def graceOver (s : State) (wake tamper : Nat) : State :=
  graceEnd { s with pwr := { s.pwr with
    wakeLevel := wake
    tamperLevel := tamper } }

end Sys2Proof.Machine
end

