-- ==== Sys2Proof/Machine/Run.lean ====
section
/-!
DEFINITION. How a command's effect becomes the machine's answer: commands take no time, leave the queue alone, and end with
a look at the interrupt causes.
-/
namespace Sys2Proof.Machine

/-- The end of a command that began in `s` and made `t`: the queue and the clock are as they were, and causes that turned
active send their messages (R461); a time base that the command changed is kept for stamps of earlier events (R101). -/
def finish (s t : State) : State :=
  notePast s (settle { t with
    pending := s.pending
    cycle := s.cycle }) 0

/-- A command of the clocked core: without the fast clocks nothing happens (R487). -/
def onCore (s : State) (f : State → State) : Host.Outcome State Fault Refusal :=
  .next (finish s (if awake s then f s else s))

/-- A command of the power pins and the always-on domain, which its unit looks at in every state (R487, R488). -/
def onDevice (s : State) (f : State → State) : Host.Outcome State Fault Refusal := .next (finish s (f s))

/-- A word of `LCS_CMD` with its KEY (R508, R515). -/
def lcsWord (op slot arg : Nat) : BitVec 32 := BitVec.ofNat 32 (0x4C43 * 2 ^ 16 + op * 2 ^ 12 + slot * 2 ^ 10 + arg)

/-- A word of `PWR_CTRL` (R512). -/
def pwrWord (key : BitVec 16) (what : Nat) : BitVec 32 := BitVec.ofNat 32 (key.toNat * 2 ^ 16 + what)

end Sys2Proof.Machine
end

