-- ==== Sys2Proof/Machine/ExecAging.lean ====
section
/-!
DEFINITION. The meanings of the commands of learning, aging and the regulator classes (chapters 9 and 10).
-/
namespace Sys2Proof.Machine

/-- LEARN_CHECK (R314): A learn notification passes or fails the dedup, rate and room checks and enters the learn
queue. -/
def execLearnCheck (s : State) : Host.Outcome State Fault Refusal :=
  onCore s (fun t => learnCheck t)

/-- LEARN_RING_WRITE (R317): A queued notification is written to the learn ring and LRN_HEAD advances. -/
def execLearnRingWrite (s : State) : Host.Outcome State Fault Refusal :=
  onCore s (fun t => learnWrite t)

/-- LEARN_RING_DISABLE (R317): Writing LRN_RING_SIZE.LOG2 to 0 drops the queued notifications. -/
def execLearnRingDisable (m : Requester) (s : State) : Host.Outcome State Fault Refusal :=
  onCore s (fun t => busWrite4 t m Reg.lrnRingSize 0#32)

/-- TICK_ADVANCE (R320): An aging table's tick counter advances when road time passes b + TICK. -/
def execTickAdvance (s : State) : Host.Outcome State Fault Refusal :=
  onCore s (fun t => tickAdvance t)

/-- AGE_LIMIT_WRITE (R322): A write to AGE_LIMIT changes the tick length from the current base. -/
def execAgeLimitWrite (m : Requester) (table : Fin 64) (v : BitVec 32) (s : State) : Host.Outcome State Fault Refusal
    :=
  onCore s (fun t => busWrite4 t m (Reg.ageLimit table.val) v)

/-- AGING_LAP_START (R324): A sweeper lap starts over aging tables no sooner than LAP_MIN after the last. -/
def execAgingLapStart (s : State) : Host.Outcome State Fault Refusal :=
  onCore s (fun t => lapStart t)

/-- AGING_LAP_END (R327): A sweeper lap ends, updates AGE_LAP and triggers the ledger check. -/
def execAgingLapEnd (s : State) : Host.Outcome State Fault Refusal :=
  onCore s (fun t => lapEnd t)

/-- AGING_ENABLE (R327): A write of AGE_CTRL.EN starts the sweeper or ends its lap at the next granule. -/
def execAgingEnable (m : Requester) (v : BitVec 32) (s : State) : Host.Outcome State Fault Refusal :=
  onCore s (fun t => busWrite4 t m Reg.ageCtrl v)

/-- FLUSH_PORT (R338): FLUSH_PORT walks a standard table and removes entries owned by a port. -/
def execFlushPort (s : State) : Host.Outcome State Fault Refusal :=
  onCore s (fun t => doFlushPort t)

/-- RGL_CLASS_COMMIT (R359): A commit of RGL_CLASS is checked and refused or applied from the next window. -/
def execRglClassCommit (m : Requester) (c : Fin 8) (v : BitVec 64) (s : State) : Host.Outcome State Fault Refusal :=
  onCore s (fun t => busWrite8 t m (Reg.rglClass c.val) v)

end Sys2Proof.Machine
end

