-- ==== Sys2Proof/Machine/ExecCan.lean ====
section
/-!
DEFINITION. The meanings of the commands of the CAN controller and the management protocol (chapter 13).
-/
namespace Sys2Proof.Machine

/-- CAN_JOIN (R476): After INIT clears, the controller joins the bus after 11 recessive bits. -/
def execCanJoin (s : State) : Host.Outcome State Fault Refusal :=
  onCore s (fun t => canJoin t)

/-- CAN_FRAME_RECEIVE (R479): A received CAN frame is stored in the lowest matching receive object. -/
def execCanFrameReceive (frame : CanFrame) (lec : Fin 8) (heavy : Bool) (ago : Nat) (s : State) : Host.Outcome State
    Fault Refusal :=
  onCore s (fun t => canFrame t frame lec.val heavy ago)

/-- TXREQ (R480): Setting TXREQ makes an object pending for transmission. -/
def execTxreq (m : Requester) (n : Fin 128) (s : State) : Host.Outcome State Fault Refusal :=
  onCore s (fun t => busWrite4 t m (objOff n.val 3) 0x80000000#32)

/-- CAN_TRANSMIT_END (R480): A CAN frame attempt ends in success, loss or error, with retry or TXFAIL. -/
def execCanTransmitEnd (e : CanEnd) (ago : Nat) (s : State) : Host.Outcome State Fault Refusal :=
  onCore s (fun t => canTxEnd t e ago)

/-- ABORT (R480): ABORT cancels a pending transmission. -/
def execAbort (m : Requester) (n : Fin 128) (s : State) : Host.Outcome State Fault Refusal :=
  onCore s (fun t => busWrite4 t m (objOff n.val 3) 0x02000000#32)

/-- RECOVER (R482): Writing RECOVER starts bus-off recovery. -/
def execRecover (m : Requester) (v : BitVec 32) (s : State) : Host.Outcome State Fault Refusal :=
  onCore s (fun t => busWrite4 t m Reg.canCtrl v)

/-- RECOVERED (R482): After 128 recessive sequences the controller returns to error active. -/
def execRecovered (n : Nat) (s : State) : Host.Outcome State Fault Refusal :=
  onCore s (fun t => canRecovered t n)

/-- PING (R483): The CAN PING management command returns TOP_ID. -/
def execPing (s : State) : Host.Outcome State Fault Refusal :=
  onCore s (fun t => mgmtPing t (topIdView t))

/-- STATUS (R483): The CAN STATUS command returns power state, throttle and flags. -/
def execStatus (s : State) : Host.Outcome State Fault Refusal :=
  onCore s (fun t => mgmtStatus t)

/-- TIME (R483): The CAN TIME command returns road time. -/
def execTime (s : State) : Host.Outcome State Fault Refusal :=
  onCore s (fun t => mgmtTime t)

/-- READ (R483): The CAN READ command returns a TOP, PWR, MIL or LCS register. -/
def execRead (s : State) : Host.Outcome State Fault Refusal :=
  onCore s (fun t => mgmtRead t)

/-- STAY_AWAKE (R490): The CAN STAY_AWAKE command raises PWR_HOLD_MS. -/
def execStayAwake (s : State) : Host.Outcome State Fault Refusal :=
  onCore s (fun t => mgmtStayAwake t)

/-- PARK_VOTE (R490): The CAN PARK_VOTE command clears the hold time and may request PARK. -/
def execParkVote (s : State) : Host.Outcome State Fault Refusal :=
  onCore s (fun t => mgmtParkVote t)

end Sys2Proof.Machine
end

