-- ==== Sys2Proof/Machine/ExecHash.lean ====
section
/-!
DEFINITION. The meanings of the commands of the hash and prefix tables (chapter 7).
-/
namespace Sys2Proof.Machine

/-- HSH_SEARCH (R263): SEARCH on a DRAM table looks up the key without stamp write or learning. -/
def execHshSearch (s : State) : Host.Outcome State Fault Refusal :=
  onCore s (fun t => doHshSearch t)

/-- HSH_NEXT (R269): NEXT on a DRAM table returns the next valid entry image. -/
def execHshNext (s : State) : Host.Outcome State Fault Refusal :=
  onCore s (fun t => doHshNext t)

/-- HSH_INSERT (R257): INSERT on a DRAM table places an entry, relocating along a cuckoo path or into the stash. -/
def execHshInsert (s : State) : Host.Outcome State Fault Refusal :=
  onCore s (fun t => doHshInsert t)

/-- HSH_DELETE (R261): DELETE invalidates a DRAM entry by a conditional stamp write. -/
def execHshDelete (s : State) : Host.Outcome State Fault Refusal :=
  onCore s (fun t => doNamed t 4 false)

/-- HSH_READ (R263): READ returns a DRAM entry image named by handle or key. -/
def execHshRead (s : State) : Host.Outcome State Fault Refusal :=
  onCore s (fun t => doNamed t 0x11 true)

/-- HSH_UPDATE (R262): UPDATE replaces a DRAM entry's result in one slot write. -/
def execHshUpdate (s : State) : Host.Outcome State Fault Refusal :=
  onCore s (fun t => doNamed t 0x12 false)

/-- HSH_WIPE (R270): WIPE empties a DRAM table by zeroing its region and re-bases its ledger. -/
def execHshWipe (s : State) : Host.Outcome State Fault Refusal :=
  onCore s (fun t => doHshWipe t)

/-- HSH_PFX_SHARE_WRITE (R245): A weight write recomputes the prefix split of an empty table. -/
def execHshPfxShareWrite (m : Requester) (v : BitVec 32) (s : State) : Host.Outcome State Fault Refusal :=
  onCore s (fun t => busWrite4 t m Reg.hshPfxShare v)

end Sys2Proof.Machine
end

