-- ==== Sys2Proof/Machine/ExecHost.lean ====
section
/-!
DEFINITION. The meanings of the commands of the host interface: PCI Express, DMA, SPI, the bench core and plain registers (chapter 13).
-/
namespace Sys2Proof.Machine

/-- ENDPOINT_RESET (R459): FLR, hot reset or PERST resets one PCIe endpoint and its ring, DMA and read set. -/
def execEndpointReset (f : Fin 2) (kind : ResetKind) (s : State) : Host.Outcome State Fault Refusal :=
  onCore s (fun t => endpointReset t f.val kind)

/-- UNSUPPORTED_REQUEST (R458): A PCIe request the endpoint does not support is answered with an error. -/
def execUnsupportedRequest (f : Fin 2) (kind : BadReq) (s : State) : Host.Outcome State Fault Refusal :=
  onCore s (fun t => unsupportedRequest t f.val kind)

/-- MSIX_UNMASK (R461): Unmasking a pending, still active vector sends its message. -/
def execMsixUnmask (f : Fin 2) (vec : Fin 32) (s : State) : Host.Outcome State Fault Refusal :=
  onCore s (fun t => busWrite4 t (if f.val = 0 then .pcie0 else .pcie1) (0xC00000 + 16 * vec.val + 12) 0#32)

/-- INT_REARM (R461): A write of HST_INT_REARM resends active vectors. -/
def execIntRearm (m : Requester) (f : Fin 2) (v : BitVec 32) (s : State) : Host.Outcome State Fault Refusal :=
  onCore s (fun t => busWrite4 t m (Reg.hstIntRearm f.val) v)

/-- DMA_DOORBELL (R465): A write of HST_DMA_TAIL posts DMA descriptors. -/
def execDmaDoorbell (m : Requester) (n : Fin 8) (v : BitVec 32) (s : State) : Host.Outcome State Fault Refusal :=
  onCore s (fun t => busWrite4 t m (Reg.hstDmaTail n.val) v)

/-- DMA_ENABLE (R465): A write of HST_DMA_CTRL.EN starts a channel, zeroing HEAD and TAIL. -/
def execDmaEnable (m : Requester) (n : Fin 8) (v : BitVec 32) (s : State) : Host.Outcome State Fault Refusal :=
  onCore s (fun t => busWrite4 t m (Reg.hstDmaCtrl n.val) v)

/-- DMA_DESCRIPTOR_DONE (R466): A DMA descriptor completes when all its writes are acknowledged and its status is
written back. -/
def execDmaDescriptorDone (n : Fin 8) (s : State) : Host.Outcome State Fault Refusal :=
  onCore s (fun t => dmaDone t n.val)

/-- DMA_RESUME (R467): RESUME restarts the halted descriptor from its beginning. -/
def execDmaResume (m : Requester) (n : Fin 8) (v : BitVec 32) (s : State) : Host.Outcome State Fault Refusal :=
  onCore s (fun t => busWrite4 t m (Reg.hstDmaCtrl n.val) v)

/-- DMA_SKIP (R467): SKIP marks the halted descriptor done and moves on. -/
def execDmaSkip (m : Requester) (n : Fin 8) (v : BitVec 32) (s : State) : Host.Outcome State Fault Refusal :=
  onCore s (fun t => busWrite4 t m (Reg.hstDmaCtrl n.val) v)

/-- SPI_CS_FALL (R470): At SPI_CS_N fall the port latches the pending response or BUSY onto MISO. -/
def execSpiCsFall (s : State) : Host.Outcome State Fault Refusal :=
  onCore s (fun t => spiFall t)

/-- SPI_TRANSACTION (R468): At SPI_CS_N rise a 64-bit transaction is executed or refused. -/
def execSpiTransaction (bits : Nat) (mosi : BitVec 64) (s : State) : Host.Outcome State Fault Refusal :=
  onCore s (fun t => spiTransaction t bits mosi.toNat)

/-- WDOG_KICK (R474): A keyed write to SEQ_WDOG_KICK restarts the watchdog count. -/
def execWdogKick (m : Requester) (v : BitVec 32) (s : State) : Host.Outcome State Fault Refusal :=
  onCore s (fun t => busWrite4 t m Reg.seqWdogKick v)

/-- WDOG (R474): The watchdog expires and resets the bench core to its entry address. -/
def execWdog (s : State) : Host.Outcome State Fault Refusal :=
  onCore s (fun t => wdogExpire t)

/-- SECURE_CLEAR (R473): Firmware clears SEQ_CTRL.SECURE until the next start. -/
def execSecureClear (m : Requester) (s : State) : Host.Outcome State Fault Refusal :=
  onCore s (fun t => busWrite4 t m Reg.seqCtrl 1#32)

/-- VERSION (R475): The VERSION mailbox command returns firmware version and build. -/
def execVersion (box : Fin 3) (s : State) : Host.Outcome State Fault Refusal :=
  onCore s (fun t => mboxVersion t box.val)

/-- CHECKPOINT (R475): The CHECKPOINT mailbox command writes a time-state record now. -/
def execCheckpoint (box : Fin 3) (s : State) : Host.Outcome State Fault Refusal :=
  onCore s (fun t => mboxCheckpoint t box.val)

/-- MGMT_RELOAD (R484): The MGMT_RELOAD mailbox command reapplies SEQ_CANM. -/
def execMgmtReload (box : Fin 3) (s : State) : Host.Outcome State Fault Refusal :=
  onCore s (fun t => mboxReload t box.val)

/-- MAILBOX_ANSWER (R475): The firmware writes STATUS and sets DONE on a mailbox. -/
def execMailboxAnswer (box : Fin 3) (status : BitVec 8) (words : List (BitVec 32)) (s : State) : Host.Outcome State
    Fault Refusal :=
  onCore s (fun t => mailboxAnswer t box.val status.toNat words)

/-- REGISTER_WRITE (R8): A write to any register without a row of its own updates its fields subject to reserved-code
and lock checks. -/
def execRegisterWrite (m : Requester) (off : BitVec 25) (data : List Byte) (s : State) : Host.Outcome State Fault
    Refusal :=
  onCore s (fun t => busWrite t m off.toNat data)

/-- REGISTER_READ (R9): A register read that clears RC fields, restarts peak fields from their current value, or
latches a high word for the reading master. -/
def execRegisterRead (m : Requester) (off : BitVec 25) (len : Nat) (s : State) : Host.Outcome State Fault Refusal :=
  onCore s (fun t => busRead t m off.toNat len)

/-- CONFIGURATION_REQUEST (R455): A PCIe configuration request is answered with Retry Status before image apply, or
else served, including the setting of Bus Master Enable. -/
def execConfigurationRequest (f : Fin 2) (write : Bool) (reg : CfgReg) (v : BitVec 32) (s : State) : Host.Outcome
    State Fault Refusal :=
  onCore s (fun t => configRequest t f.val write reg v.toNat)

/-- PERST_RELEASE (R485): The release of PERSTf_N lets endpoint f train its link and begin answering requests. -/
def execPerstRelease (f : Fin 2) (s : State) : Host.Outcome State Fault Refusal :=
  onCore s (fun t => perstRelease t f.val)

/-- HOST_COMPLETION (R458): A PCIe completion for a device request toward host memory arrives, delivering data or a
UR, CA or poisoned failure to its requester. -/
def execHostCompletion (id : Nat) (st : CplStatus) (data : List Byte) (s : State) : Host.Outcome State Fault Refusal
    :=
  onCore s (fun t => hostCompletion t id st data)

/-- COMPLETION_TIMEOUT (R458): A device request toward host memory reaches the Completion Timeout set in Device
Control 2 and its requester fails. -/
def execCompletionTimeout (id : Nat) (s : State) : Host.Outcome State Fault Refusal :=
  onCore s (fun t => completionTimeout t id)

end Sys2Proof.Machine
end

