-- ==== Sys2Proof/Machine/ExecImage.lean ====
section
/-!
DEFINITION. The meanings of the commands of the last image, the flash and the loader (chapter 2).
-/
namespace Sys2Proof.Machine

/-- ILT_READ (R51): The loader finishes reading both ILT copies and picks the valid one with the higher SEQ. -/
def execIltRead (a : List Byte) (b : List Byte) (s : State) : Host.Outcome State Fault Refusal :=
  onCore s (fun t => iltRead t a b)

/-- READ_FAIL (R73): A flash read that does not complete within 1 ms fails the copy. -/
def execReadFail (s : State) : Host.Outcome State Fault Refusal :=
  onCore s (fun t => readFail t)

/-- IMAGE_FETCH_DONE (R66): The fetch and digest of an image copy end and the loader authenticates and admits it in
order. -/
def execImageFetchDone (bytes : List Byte) (s : State) : Host.Outcome State Fault Refusal :=
  onCore s (fun t => imageFetched t bytes)

/-- IMAGE_APPLY_END (R76): Apply ends: IMG_LOCK is set unless held, staging memory cleared, the bench core released
and STAGED entered. -/
def execImageApplyEnd (s : State) : Host.Outcome State Fault Refusal :=
  onCore s (fun t => applyEnd t)

/-- DRAM_CLEAR_END (R444): The DRAM clear of all granules ends and granule grants may begin. -/
def execDramClearEnd (s : State) : Host.Outcome State Fault Refusal :=
  onCore s (fun t => clearEnd t)

/-- READY (R489): The device enters READY when the DRAM clear has ended and, in a cold start, time locked or 5 ms
passed. -/
def execReady (s : State) : Host.Outcome State Fault Refusal :=
  onCore s (fun t => becomeReady t)

/-- CHECKPOINT_WRITE_DONE (R504): A checkpoint-store write completes with its CRC written last. -/
def execCheckpointWriteDone (s : State) : Host.Outcome State Fault Refusal :=
  onCore s (fun t => ckptEnds t)

/-- RELOAD_NEXT (R80): Writing RELOAD_NEXT invalidates the configuration copy so the next start is cold. -/
def execReloadNext (m : Requester) (s : State) : Host.Outcome State Fault Refusal :=
  onCore s (fun t => busWrite4 t m Reg.imgCtrl 2#32)

/-- HOST_LOAD (R82): Writing HOST_LOAD loads and checks an image from the scratchpad. -/
def execHostLoad (m : Requester) (s : State) : Host.Outcome State Fault Refusal :=
  onCore s (fun t => busWrite4 t m Reg.imgCtrl 1#32)

/-- LOCK (R85): Writing 1 to IMG_LOCK.LOCK locks every RWL field. -/
def execLock (m : Requester) (s : State) : Host.Outcome State Fault Refusal :=
  onCore s (fun t => busWrite4 t m Reg.imgLock 1#32)

/-- FLASH_COMMAND (R81): A GO on IMG_FCMD runs a 1S flash command, or is refused. -/
def execFlashCommand (m : Requester) (v : BitVec 32) (data : List Byte) (s : State) : Host.Outcome State Fault Refusal
    :=
  onCore s (fun t => regCommand t m Reg.imgFcmd v (fun u => fcmdWrite u m.code v.toNat data))

/-- FLASH_STATUS_POLL (R81): Every 10 µs the loader reads the flash status until ready, ending the command. -/
def execFlashStatusPoll (busy : Bool) (s : State) : Host.Outcome State Fault Refusal :=
  onCore s (fun t => flashPoll t busy)

/-- FLASH_TIMEOUT (R81): After 4 s of busy status the loader ends the command and sets FAILED. -/
def execFlashTimeout (s : State) : Host.Outcome State Fault Refusal :=
  onCore s (fun t => flashTimeout t)

end Sys2Proof.Machine
end

