-- ==== Sys2Proof/Machine/ExecJourney.lean ====
section
/-!
DEFINITION. The meanings of the commands of the life of a descriptor (chapters 1, 4 to 6, 10).
-/
namespace Sys2Proof.Machine

/-- DSC_RECEIVE (R130): A tap port captures the last data block of a base or extended descriptor that arrived on the
Tchiric link. -/
def execDscReceive (p : Fin 32) (bytes : List Byte) (ctl : Nat) (ago : Nat) (s : State) : Host.Outcome State Fault
    Refusal :=
  onCore s (fun t => dscReceive t p.val bytes ctl ago)

/-- DESCRIPTOR_ACCEPT (R15): Twelve cycles after the last-block capture, the port accepts the descriptor if its
CRC-32C is good and binds its head reserve tag. -/
def execDescriptorAccept (p : Fin 32) (s : State) : Host.Outcome State Fault Refusal :=
  onCore s (fun t => dscAccept t p.val)

/-- TAG_GRANT (R18): In a cycle where every grant condition of R137 holds, the port moves a fresh tag from the pool
into its reserve as a granted credit. -/
def execTagGrant (p : Fin 32) (tag : Fin 1024) (s : State) : Host.Outcome State Fault Refusal :=
  onCore s (fun t => tagGrant t p.val tag.val)

/-- FC_SEND (R138): The port sends an FC block carrying up to 4 granted tags and its URG, when it has tags to grant,
URG changed, or 2 µs have passed. -/
def execFcSend (p : Fin 32) (s : State) : Host.Outcome State Fault Refusal :=
  onCore s (fun t => fcSend t p.val)

/-- PROFILE_SELECT (R159): The profile selector takes an accepted descriptor, matches its 80-bit key against 512
entries and gives its profile 3 cycles later. -/
def execProfileSelect (s : State) : Host.Outcome State Fault Refusal :=
  onCore s (fun t => selectNext t)

/-- COBBLER_START (R166): The lowest free cobbler takes the next waiting descriptor and runs its profile's program at
2 steps per cycle. -/
def execCobblerStart (s : State) : Host.Outcome State Fault Refusal :=
  onCore s (fun t => cobblerStart t)

/-- SLOT_GRANT (R352): The regulator grants a free search slot to the first-ranked waiting request. -/
def execSlotGrant (s : State) : Host.Outcome State Fault Refusal :=
  onCore s (fun t => slotGrant t)

/-- GRANULE_GRANT (R352): The regulator grants a free DRAM granule to the first-ranked waiting request, with a started
round keeping precedence. -/
def execGranuleGrant (s : State) : Host.Outcome State Fault Refusal :=
  onCore s (fun t => granuleGrant t)

/-- LATENCY_MISS (R360): A request presented under guarantee reaches LAT_TARGET cycles of wait and a LATENCY miss is
recorded. -/
def execLatencyMiss (s : State) : Host.Outcome State Fault Refusal :=
  onCore s (fun t => latencyMiss t)

/-- MEASUREMENT_WINDOW_START (R349): At each 800-cycle boundary every class receives its slot and granule accounts at
coverage, and CEILING holds release. -/
def execMeasurementWindowStart (s : State) : Host.Outcome State Fault Refusal :=
  onCore s (fun t => windowStart t)

/-- TERNARY_ANSWER (R191): A ternary or window search's answer reaches the composer 20 cycles after its slot grant. -/
def execTernaryAnswer (matchIn : Bool) (s : State) : Host.Outcome State Fault Refusal :=
  onCore s (fun t => ternaryAnswer t matchIn)

/-- GRANULE_READ_DONE (R441): The data of a granted DRAM granule read reaches its requester 180 cycles after the
grant. -/
def execGranuleReadDone (s : State) : Host.Outcome State Fault Refusal :=
  onCore s (fun t => readDone t)

/-- WRITE_ACK (R441): The DRAM controller acknowledges a write 200 cycles after its grant or hold end, and ledgers and
completions take it into account. -/
def execWriteAck (s : State) : Host.Outcome State Fault Refusal :=
  onCore s (fun t => writeAck t)

/-- HELD_WRITE_SERVE (R323): A write held behind earlier search reads of its granule is served once those reads are
resolved. -/
def execHeldWriteServe (s : State) : Host.Outcome State Fault Refusal :=
  onCore s (fun t => heldServe t)

/-- REFRESH (R442): A channel pair's refresh interval expires and it refreshes for 94 cycles, unless postponed. -/
def execRefresh (pair : Fin 4) (postpone : Bool) (s : State) : Host.Outcome State Fault Refusal :=
  onCore s (fun t => refreshPair t pair.val postpone)

/-- REFRESH_RATE_CHANGE (R442): The DRAM temperature crosses 85 °C up or 82 °C down and the refresh interval halves or
restores. -/
def execRefreshRateChange (temp : BitVec 8) (s : State) : Host.Outcome State Fault Refusal :=
  onCore s (fun t => refreshRate t temp.toNat)

/-- COMPOSE_START (R25): Composition starts at the last answer or at A + D − 8 and merges results, toll gates,
freshness and the waymark insert in 8 cycles. -/
def execComposeStart (s : State) : Host.Outcome State Fault Refusal :=
  onCore s (fun t => composeNext t)

/-- VERDICT_RELEASE (R30): The deadline buffer releases a verdict at A + D and its tag returns to the pool. -/
def execVerdictRelease (s : State) : Host.Outcome State Fault Refusal :=
  onCore s (fun t => releaseNext t)

/-- VERDICT_TRANSMIT (R147): A verdict at the head of the transmit queue is sent as three blocks at the next free
block boundary. -/
def execVerdictTransmit (p : Fin 32) (s : State) : Host.Outcome State Fault Refusal :=
  onCore s (fun t => verdictTransmit t p.val)

/-- VRD_TAG_RECLAIM (R48): A keyed write returns to the pool every held tag with no verdict in the deadline buffer and
records a ledger break. -/
def execVrdTagReclaim (m : Requester) (v : BitVec 32) (s : State) : Host.Outcome State Fault Refusal :=
  onCore s (fun t => busWrite4 t m Reg.vrdTagReclaim v)

/-- LEDGER_FAULT_CLEAR (R42): A W1C write to TOP_LEDGER_STAT.FAULT clears fault bits and thaws the snapshot when the
last is cleared. -/
def execLedgerFaultClear (m : Requester) (v : BitVec 32) (s : State) : Host.Outcome State Fault Refusal :=
  onCore s (fun t => busWrite4 t m Reg.topLedgerStat v)

end Sys2Proof.Machine
end

