-- ==== Sys2Proof/Machine/ExecMemory.lean ====
section
/-!
DEFINITION. The meanings of the commands of the memories, their protection and repair (chapter 12).
-/
namespace Sys2Proof.Machine

/-- SCRATCHPAD_SERVE (R415): The scratchpad port serves the first-ranked waiting access. -/
def execScratchpadServe (s : State) : Host.Outcome State Fault Refusal :=
  onCore s (fun t => serveSpm t)

/-- SET_WINDOW_WRITE (R416): A write through the set window ORs bytes into the scratchpad atomically. -/
def execSetWindowWrite (m : Requester) (off : BitVec 19) (data : List Byte) (s : State) : Host.Outcome State Fault
    Refusal :=
  onCore s (fun t => busWrite t m (0x800000 + off.toNat) data)

/-- CLEAR_WINDOW_WRITE (R416): A write through the clear window clears bytes atomically. -/
def execClearWindowWrite (m : Requester) (off : BitVec 19) (data : List Byte) (s : State) : Host.Outcome State Fault
    Refusal :=
  onCore s (fun t => busWrite t m (0x880000 + off.toNat) data)

/-- ROTATE_ACCESS (R417): An unaligned rotate-view access is served atomically or denied. -/
def execRotateAccess (m : Requester) (write : Bool) (off : BitVec 19) (data : List Byte) (len : Nat) (s : State) :
    Host.Outcome State Fault Refusal :=
  onCore s (fun t =>
    if write then busWrite t m (0x900000 + off.toNat) data else busRead t m (0x900000 + off.toNat) len)

/-- SRAM_SCRUB_VISIT (R427): A macro's scrub walker reads a word in an idle cycle and writes back a correction. -/
def execSramScrubVisit (mem : Fin 64) (cell : Nat) (s : State) : Host.Outcome State Fault Refusal :=
  onCore s (fun t => sramVisit t mem.val cell)

/-- RETIRE_ENT_WRITE (R430): A write of INT_RETIRE_ENT retires a DRAM page and starts its copy to a spare. -/
def execRetireEntWrite (m : Requester) (v : BitVec 64) (s : State) : Host.Outcome State Fault Refusal :=
  onCore s (fun t => busWrite8 t m Reg.intRetireEnt v)

/-- RETIRE_DONE (R430): A page-retire copy ends and accesses are redirected. -/
def execRetireDone (s : State) : Host.Outcome State Fault Refusal :=
  onCore s (fun t => retireDone t)

/-- TCA_BLOCK_RETIRE (R432): A write to INT_TCA_RETIRE retires an empty ternary block. -/
def execTcaBlockRetire (m : Requester) (v : BitVec 32) (s : State) : Host.Outcome State Fault Refusal :=
  onCore s (fun t => busWrite4 t m Reg.intTcaRetire v)

/-- INTEGRITY_RECORD_WRITE (R434): After a spare or retirement change the integrity record is written as a checkpoint
write. -/
def execIntegrityRecordWrite (s : State) : Host.Outcome State Fault Refusal :=
  onCore s (fun t => writeRecord t)

/-- RECORD_CLR (R434): A keyed write empties the integrity record at the next start, or is refused. -/
def execRecordClr (m : Requester) (v : BitVec 32) (s : State) : Host.Outcome State Fault Refusal :=
  onCore s (fun t => busWrite4 t m Reg.intRecordClr v)

/-- FLIP_ARM (R435): A write arming INT_FLIP_CTRL corrupts the next matching memory write. -/
def execFlipArm (m : Requester) (v : BitVec 32) (s : State) : Host.Outcome State Fault Refusal :=
  onCore s (fun t => busWrite4 t m Reg.intFlipCtrl v)

/-- MARCH_GO (R436): A GO on INT_MARCH_CTRL starts a destructive or preserving march, or is refused. -/
def execMarchGo (m : Requester) (v : BitVec 32) (s : State) : Host.Outcome State Fault Refusal :=
  onCore s (fun t => busWrite4 t m Reg.intMarchCtrl v)

/-- MARCH_DONE (R439): A march ends with PASS or FAIL. -/
def execMarchDone (fails : List Nat) (s : State) : Host.Outcome State Fault Refusal :=
  onCore s (fun t => marchDone t fails)

end Sys2Proof.Machine
end

