-- ==== Sys2Proof/Machine/ExecPark.lean ====
section
/-!
DEFINITION. The meanings of the commands of PARK, wake, the checkpoint store and the life cycle (chapter 14).
-/
namespace Sys2Proof.Machine

/-- PARK_REQUEST (R490): A keyed PWR_CTRL PARK write enters PARKING with a grace period, or is refused. -/
def execParkRequest (m : Requester) (key : BitVec 16) (s : State) : Host.Outcome State Fault Refusal :=
  onCore s (fun t => busWrite4 t m Reg.pwrCtrl (pwrWord key 1))

/-- GRACE_END (R491): At the end of grace the device commits PARK or aborts. -/
def execGraceEnd (wake : Fin 16) (tamper : Fin 4) (s : State) : Host.Outcome State Fault Refusal :=
  onCore s (fun t => graceOver t wake.val tamper.val)

/-- PARK_FAIL (R493): PGOOD still high 10 ms after PARK_REQ_N fell triggers a warm start. -/
def execParkFail (s : State) : Host.Outcome State Fault Refusal :=
  onCore s (fun t => parkFail t)

/-- WAKE_EVENT (R494): A qualified wake input, CAN, alarm or tamper source in PARK releases PARK_REQ_N. -/
def execWakeEvent (n : Fin 6) (s : State) : Host.Outcome State Fault Refusal :=
  onDevice s (fun t => wakeEvent t n.val)

/-- WAKE_DWELL_END (R493): A wake latched before PGOOD fell is served 1 ms after the fall. -/
def execWakeDwellEnd (s : State) : Host.Outcome State Fault Refusal :=
  onDevice s (fun t => dwellEnd t)

/-- COLD (R496): A keyed PWR_CTRL COLD write forces a cold start as RESET_N does. -/
def execCold (m : Requester) (key : BitVec 16) (s : State) : Host.Outcome State Fault Refusal :=
  onCore s (fun t => busWrite4 t m Reg.pwrCtrl (pwrWord key 2))

/-- TIME_STATE_RECORD (R505): Every PERIOD_S seconds a time-state record is written. -/
def execTimeStateRecord (s : State) : Host.Outcome State Fault Refusal :=
  onCore s (fun t => periodicRecord t)

/-- CKPT_GO (R505): A GO on NVC_CKPT_CTRL writes a time-state record now. -/
def execCkptGo (m : Requester) (v : BitVec 32) (s : State) : Host.Outcome State Fault Refusal :=
  onCore s (fun t => busWrite4 t m Reg.nvcCkptCtrl v)

/-- NVC_ACC_READ (R507): NVC_ACC_CMD READ reads a word of the sealed or general area, or is denied. -/
def execNvcAccRead (m : Requester) (s : State) : Host.Outcome State Fault Refusal :=
  onCore s (fun t => busWrite4 t m Reg.nvcAccCmd 0x80000000#32)

/-- NVC_ACC_WRITE (R507): NVC_ACC_CMD WRITE writes a word of the sealed or general area, or is denied. -/
def execNvcAccWrite (m : Requester) (s : State) : Host.Outcome State Fault Refusal :=
  onCore s (fun t => busWrite4 t m Reg.nvcAccCmd 0x40000000#32)

/-- KEY_SET (R508): KEY_SET programs a key slot with a hash. -/
def execKeySet (m : Requester) (slot : Fin 4) (s : State) : Host.Outcome State Fault Refusal :=
  onCore s (fun t => busWrite4 t m Reg.lcsCmd (lcsWord 1 slot.val 0))

/-- KEY_REVOKE (R508): KEY_REVOKE blows a slot's revoke bit. -/
def execKeyRevoke (m : Requester) (slot : Fin 4) (s : State) : Host.Outcome State Fault Refusal :=
  onCore s (fun t => busWrite4 t m Reg.lcsCmd (lcsWord 2 slot.val 0))

/-- SEC_VER (R508): SEC_VER advances the security-version thermometer. -/
def execSecVer (m : Requester) (arg : Fin 128) (s : State) : Host.Outcome State Fault Refusal :=
  onCore s (fun t => busWrite4 t m Reg.lcsCmd (lcsWord 3 0 arg.val))

/-- TO_DEVELOP (R508): TO_DEVELOP moves BLANK to DEVELOP at the next start. -/
def execToDevelop (m : Requester) (s : State) : Host.Outcome State Fault Refusal :=
  onCore s (fun t => busWrite4 t m Reg.lcsCmd (lcsWord 4 0 0))

/-- TO_PRODUCE (R508): TO_PRODUCE moves DEVELOP to PRODUCE at the next start. -/
def execToProduce (m : Requester) (s : State) : Host.Outcome State Fault Refusal :=
  onCore s (fun t => busWrite4 t m Reg.lcsCmd (lcsWord 5 0 0))

/-- TO_RETURN (R508): TO_RETURN moves PRODUCE to RETURN with a token at the next start. -/
def execToReturn (m : Requester) (s : State) : Host.Outcome State Fault Refusal :=
  onCore s (fun t => busWrite4 t m Reg.lcsCmd (lcsWord 6 0 0))

/-- FUSE_PROGRAM_DONE (R510): Programming of a fuse word ends and the operation completes. -/
def execFuseProgramDone (ok : Bool) (s : State) : Host.Outcome State Fault Refusal :=
  onCore s (fun t => fuseDone t ok)

/-- TAMPER (R511): A qualified tamper input latches an event and wipes the vault and sealed area when awake. -/
def execTamper (k : Fin 2) (s : State) : Host.Outcome State Fault Refusal :=
  onDevice s (fun t => tamperEvent t k.val)

/-- TAMPER_WIPE_END (R511): The 2.05 ms tamper wipe ends and LATCHED clears. -/
def execTamperWipeEnd (s : State) : Host.Outcome State Fault Refusal :=
  onCore s (fun t => tamperWipeEnd t)

end Sys2Proof.Machine
end

