-- ==== Sys2Proof/Machine/ExecProfile.lean ====
section
/-!
DEFINITION. The meanings of the commands of profiles, selector, toll gates and freshness (chapter 5).
-/
namespace Sys2Proof.Machine

/-- PROFILE_COMMIT (R169): A write to word 7 of CBL_PROF commits the profile record after the admission checks. -/
def execProfileCommit (m : Requester) (n : Fin 64) (v : BitVec 32) (s : State) : Host.Outcome State Fault Refusal :=
  onCore s (fun t => busWrite4 t m (Reg.cblProf n.val 7) v)

/-- PROFILE_ENABLE (R169): A write to CBL_PROF_EN enables or disables profiles for later descriptors. -/
def execProfileEnable (m : Requester) (v : BitVec 64) (s : State) : Host.Outcome State Fault Refusal :=
  onCore s (fun t => busWrite8 t m Reg.cblProfEn v)

/-- SELECTOR_COMMIT (R184): A write to word 7 of CBL_SEL commits a selector entry. -/
def execSelectorCommit (m : Requester) (n : Fin 512) (v : BitVec 32) (s : State) : Host.Outcome State Fault Refusal :=
  onCore s (fun t => busWrite4 t m (Reg.cblSel n.val 7) v)

/-- TOLL_READ (R177): TOL_CMD READ copies a bucket into TOL_DATA without refill. -/
def execTollRead (m : Requester) (v : BitVec 32) (s : State) : Host.Outcome State Fault Refusal :=
  onCore s (fun t => busWrite4 t m Reg.tolCmd v)

/-- TOLL_WRITE (R177): TOL_CMD WRITE configures a bucket and sets its levels. -/
def execTollWrite (m : Requester) (v : BitVec 32) (s : State) : Host.Outcome State Fault Refusal :=
  onCore s (fun t => busWrite4 t m Reg.tolCmd v)

/-- FRESH_READ (R179): VRD_FRESH_CMD READ reads a stream's counter and map. -/
def execFreshRead (m : Requester) (v : BitVec 32) (s : State) : Host.Outcome State Fault Refusal :=
  onCore s (fun t => busWrite4 t m Reg.vrdFreshCmd v)

/-- FRESH_WRITE (R179): VRD_FRESH_CMD WRITE sets a stream's counter and map. -/
def execFreshWrite (m : Requester) (v : BitVec 32) (s : State) : Host.Outcome State Fault Refusal :=
  onCore s (fun t => busWrite4 t m Reg.vrdFreshCmd v)

end Sys2Proof.Machine
end

