-- ==== Sys2Proof/Machine/ExecStart.lean ====
section
/-!
DEFINITION. The meanings of the commands of power and the start (chapter 14).
-/
namespace Sys2Proof.Machine

/-- VAON_APPLY (R487): VAON reaches regulation, the always-on domain starts and releases PARK_REQ_N for a cold start.
-/
def execVaonApply (s : State) : Host.Outcome State Fault Refusal :=
  onDevice s (fun t => vaonApply t)

/-- VAON_LOSS (R487): VAON is lost and the device goes OFF. -/
def execVaonLoss (s : State) : Host.Outcome State Fault Refusal :=
  onDevice s (fun t => vaonLoss t)

/-- PGOOD_RISE (R495): PGOOD rises, the core power-on reset ends and clocks and fuse read begin. -/
def execPgoodRise (s : State) : Host.Outcome State Fault Refusal :=
  onDevice s (fun t => pgoodRise t)

/-- PGOOD_FALL (R487): PGOOD falls; after a PARK request it completes PARK, otherwise it is a brownout. -/
def execPgoodFall (s : State) : Host.Outcome State Fault Refusal :=
  onDevice s (fun t => pgoodFall t)

/-- BROWNOUT (R526): VDD or VDDM below its threshold for 2 µs is treated as a PGOOD fall. -/
def execBrownout (s : State) : Host.Outcome State Fault Refusal :=
  onDevice s (fun t => brownout t)

/-- RESET_PIN (R533): RESET_N held low for 1 µs or more resets the device, with a cold start at release. -/
def execResetPin (s : State) : Host.Outcome State Fault Refusal :=
  onDevice s (fun t => resetPin t)

/-- WOKEN (R495): The fuses have been read, the device enters WOKEN and its start steps begin. -/
def execWoken (straps : Fin 8) (s : State) : Host.Outcome State Fault Refusal :=
  onDevice s (fun t => wokenStep t straps.val)

/-- DRAM_TRAINING (R443): Cold start trains every DRAM channel, or a warm start verifies stored parameters and
retrains on failure. -/
def execDramTraining (testOk : Bool) (s : State) : Host.Outcome State Fault Refusal :=
  onCore s (fun t => trainingEnd t testOk)

end Sys2Proof.Machine
end

