-- ==== Sys2Proof/Machine/ExecTap.lean ====
section
/-!
DEFINITION. The meanings of the commands of the tap ports (chapter 4).
-/
namespace Sys2Proof.Machine

/-- BLOCK_LOCK_GAIN (R119): A tap port gains block lock after 64 valid sync headers and moves to LOCK. -/
def execBlockLockGain (p : Fin 32) (s : State) : Host.Outcome State Fault Refusal :=
  onCore s (fun t => lockGain t p.val)

/-- BLOCK_LOCK_LOSS (R125): A tap port loses block lock and returns to SEEK, discarding an open descriptor. -/
def execBlockLockLoss (p : Fin 32) (openAgo : Option Nat) (s : State) : Host.Outcome State Fault Refusal :=
  onCore s (fun t => lockLoss t p.val openAgo)

/-- TRAIN_RECEIVE (R127): A tap port receives a valid TRAIN block, advancing to TRAIN and setting ACK. -/
def execTrainReceive (p : Fin 32) (ver : BitVec 8) (role : BitVec 1) (vspace : BitVec 16) (ack : Bool) (openAgo :
    Option Nat) (s : State) : Host.Outcome State Fault Refusal :=
  onCore s (fun t => trainReceive t p.val ver.toNat role.toNat vspace.toNat ack openAgo)

/-- TAP_UP (R127): After the ACK handshake and 16 more TRAIN blocks the port enters UP and replays its reserve. -/
def execTapUp (p : Fin 32) (s : State) : Host.Outcome State Fault Refusal :=
  onCore s (fun t => tapUp t p.val)

/-- TRAIN_FAIL (R125): A port in LOCK or TRAIN for 1 ms without UP returns to SEEK. -/
def execTrainFail (p : Fin 32) (s : State) : Host.Outcome State Fault Refusal :=
  onCore s (fun t => trainFail t p.val)

/-- TAP_RESTART (R152): Writing RESTART returns a tap link to SEEK with its reserve kept. -/
def execTapRestart (m : Requester) (p : Fin 32) (v : BitVec 32) (openAgo : Option Nat) (s : State) : Host.Outcome
    State Fault Refusal :=
  onCore s (fun t => regCommand t m (Reg.tapCtrl p.val) v (fun u => tapCtrlWrite u m.code p.val (v).toNat openAgo))

/-- TAP_ENABLE (R125): A change of TAP_CTRL.EN moves a port between OFF and SEEK. -/
def execTapEnable (m : Requester) (p : Fin 32) (v : BitVec 32) (openAgo : Option Nat) (s : State) : Host.Outcome State
    Fault Refusal :=
  onCore s (fun t => regCommand t m (Reg.tapCtrl p.val) v (fun u => tapCtrlWrite u m.code p.val (v).toNat openAgo))

/-- TAP_DEPTH_WRITE (R141): A DEPTH write changes the port's credit depth subject to the 512 sum. -/
def execTapDepthWrite (m : Requester) (p : Fin 32) (v : BitVec 32) (s : State) : Host.Outcome State Fault Refusal :=
  onCore s (fun t => regCommand t m (Reg.tapCtrl p.val) v (fun u => tapCtrlWrite u m.code p.val (v).toNat none))

/-- FC_RECEIVE (R135): A partner FC block in UP updates VCONS and urgency and may request a replay. -/
def execFcReceive (p : Fin 32) (vcons : BitVec 16) (urg : BitVec 2) (req : BitVec 2) (s : State) : Host.Outcome State
    Fault Refusal :=
  onCore s (fun t => fcReceive t p.val vcons.toNat urg.toNat req.toNat)

/-- TIMEOUT (R128): No valid FC block for 64 µs returns the port to SEEK. -/
def execTimeout (p : Fin 32) (openAgo : Option Nat) (s : State) : Host.Outcome State Fault Refusal :=
  onCore s (fun t => tapTimeout t p.val openAgo)

/-- ERR_RECEIVE (R149): An ERR block from the partner is recorded and counted. -/
def execErrReceive (p : Fin 32) (code : BitVec 8) (detail : BitVec 16) (s : State) : Host.Outcome State Fault Refusal
    :=
  onCore s (fun t => errReceive t p.val code.toNat detail.toNat)

/-- ERR_SEND (R149): The port sends an ERR block for OVERRUN, TRUNC, SPAN or CHK. -/
def execErrSend (p : Fin 32) (s : State) : Host.Outcome State Fault Refusal :=
  onCore s (fun t => errSend t p.val)

/-- BLOCK_ERROR (R148): A SYNC, TYPE, CHK or STRAY block error is classified and counted. -/
def execBlockError (p : Fin 32) (kind : Fin 6) (octet : BitVec 8) (openAgo : Option Nat) (s : State) : Host.Outcome
    State Fault Refusal :=
  onCore s (fun t => blockError t p.val kind.val octet.toNat openAgo)

/-- TAP_FORCE_CRED (R142): A keyed write returns a down port's reserve to the pool and re-bases its CREDIT ledger. -/
def execTapForceCred (m : Requester) (v : BitVec 32) (s : State) : Host.Outcome State Fault Refusal :=
  onCore s (fun t => busWrite4 t m Reg.tapForceCred v)

end Sys2Proof.Machine
end

