-- ==== Sys2Proof/Machine/ExecTernary.lean ====
section
/-!
DEFINITION. The meanings of the commands of the ternary array, its signature, and the command rings (chapters 6 and 9).
-/
namespace Sys2Proof.Machine

/-- THERMAL_SAMPLE (R200): Every 10 µs the array samples temperature and sets its throttle level. -/
def execThermalSample (temp : BitVec 8) (s : State) : Host.Outcome State Fault Refusal :=
  onCore s (fun t => thermalSample t temp.toNat)

/-- UPDATE_WINDOW_START (R199): At each 800-cycle boundary the row-access cap restarts. -/
def execUpdateWindowStart (s : State) : Host.Outcome State Fault Refusal :=
  onCore s (fun t => updateWindow t)

/-- ROW_ACCESS (R198): A table command's row write or read takes a slot when its cap, level and rank allow. -/
def execRowAccess (s : State) : Host.Outcome State Fault Refusal :=
  onCore s (fun t => rowAccessStep t)

/-- TABLE_COMMAND_FETCH (R332): The device fetches one command slot from a ring and checks it for refusal. -/
def execTableCommandFetch (s : State) : Host.Outcome State Fault Refusal :=
  onCore s (fun t => fetchNext t)

/-- COMPLETION_POST (R334): A command completion is written to the completion ring and CHEAD advances. -/
def execCompletionPost (s : State) : Host.Outcome State Fault Refusal :=
  onCore s (fun t => postNext t)

/-- TCR_DOORBELL (R329): A write of HST_TCR_TAIL posts commands, or is ignored if it would overflow. -/
def execTcrDoorbell (m : Requester) (r : Fin 4) (v : BitVec 32) (s : State) : Host.Outcome State Fault Refusal :=
  onCore s (fun t => busWrite4 t m (Reg.hstTcrTail r.val) v)

/-- TCR_ENABLE (R329): A write of HST_TCR_CTRL.EN starts or stops a ring, zeroing indices on enable. -/
def execTcrEnable (m : Requester) (r : Fin 4) (v : BitVec 32) (s : State) : Host.Outcome State Fault Refusal :=
  onCore s (fun t => busWrite4 t m (Reg.hstTcrCtrl r.val) v)

/-- TCA_SEARCH (R213): SEARCH on a ternary table searches it with the key at ADDR. -/
def execTcaSearch (s : State) : Host.Outcome State Fault Refusal :=
  onCore s (fun t => doTcaSearch t)

/-- TCA_NEXT (R213): NEXT on a ternary table returns the next valid entry image. -/
def execTcaNext (s : State) : Host.Outcome State Fault Refusal :=
  onCore s (fun t => doTcaNext t)

/-- TCA_INSERT (R208): INSERT on a ternary table places an entry, relocating entries in an ordered table. -/
def execTcaInsert (s : State) : Host.Outcome State Fault Refusal :=
  onCore s (fun t => doTcaInsert t)

/-- TCA_DELETE (R213): DELETE on a ternary table clears an entry's VALID. -/
def execTcaDelete (s : State) : Host.Outcome State Fault Refusal :=
  onCore s (fun t => doTcaDelete t)

/-- TCA_MOVE (R209): MOVE relocates a ternary entry to a free destination. -/
def execTcaMove (s : State) : Host.Outcome State Fault Refusal :=
  onCore s (fun t => doTcaMove t)

/-- TCA_WRITE (R213): WRITE places an entry image into a chosen free slot of a placed table. -/
def execTcaWrite (s : State) : Host.Outcome State Fault Refusal :=
  onCore s (fun t => doTcaWrite t)

/-- TCA_READ (R213): READ returns the entry image of a ternary slot. -/
def execTcaRead (s : State) : Host.Outcome State Fault Refusal :=
  onCore s (fun t => doTcaRead t)

/-- TCA_UPDATE (R213): UPDATE replaces a valid ternary entry's result word. -/
def execTcaUpdate (s : State) : Host.Outcome State Fault Refusal :=
  onCore s (fun t => doTcaUpdate t)

/-- TCA_WIPE (R219): WIPE clears VALID of every slot of a ternary table block by block and re-bases its ledger. -/
def execTcaWipe (s : State) : Host.Outcome State Fault Refusal :=
  onCore s (fun t => doTcaWipe t)

/-- REBUILD_START (R220): A START write begins counting a MOVE series as a rebuild. -/
def execRebuildStart (m : Requester) (table : Fin 64) (s : State) : Host.Outcome State Fault Refusal :=
  onCore s (fun t => busWrite4 t m Reg.tcaRebuildCtrl (BitVec.ofNat 32 (2 ^ 31 + table.val)))

/-- REBUILD_STOP (R220): A STOP write ends the rebuild. -/
def execRebuildStop (m : Requester) (table : Fin 64) (s : State) : Host.Outcome State Fault Refusal :=
  onCore s (fun t => busWrite4 t m Reg.tcaRebuildCtrl (BitVec.ofNat 32 (2 ^ 30 + table.val)))

/-- SIGNATURE_LAP_START (R223): A signature lap starts no sooner than LAP_MIN after the previous one. -/
def execSignatureLapStart (s : State) : Host.Outcome State Fault Refusal :=
  onCore s (fun t => sigLapStart t)

/-- SIGNATURE_REGION_DONE (R222): The engine finishes reading a region and computes its CRC-32C signature. -/
def execSignatureRegionDone (s : State) : Host.Outcome State Fault Refusal :=
  onCore s (fun t => sigRegionDone t)

/-- SIGNATURE_POST (R225): A signature is posted to the ring when there is room. -/
def execSignaturePost (s : State) : Host.Outcome State Fault Refusal :=
  onCore s (fun t => signaturePost t)

/-- SIG_REQ (R226): A GO on TCA_SIG_REQ requests an on-demand signature of a region. -/
def execSigReq (m : Requester) (v : BitVec 32) (s : State) : Host.Outcome State Fault Refusal :=
  onCore s (fun t => busWrite4 t m Reg.tcaSigReq v)

end Sys2Proof.Machine
end

