-- ==== Sys2Proof/Machine/ExecTime.lean ====
section
/-!
DEFINITION. The meanings of the commands of road time, trigger and PPS outputs (chapter 3).
-/
namespace Sys2Proof.Machine

/-- PPS_EDGE (R93): A rising edge on PPS_IN is captured and accepted or rejected, driving the servo. -/
def execPpsEdge (k : Fin 2) (ago : Nat) (high : Nat) (s : State) : Host.Outcome State Fault Refusal :=
  onCore s (fun t => ppsEdge t k.val ago high)

/-- REF_MEASURE_END (R94): A 1 ms REF_IN measurement ends and updates the frequency term. -/
def execRefMeasureEnd (ppt : Int) (inRange : Bool) (s : State) : Host.Outcome State Fault Refusal :=
  onCore s (fun t => refMeasured t ppt inRange)

/-- SOURCE_LOSS (R92): The source in use exceeds its loss time and the servo switches to the backup or HOLDOVER. -/
def execSourceLoss (c : Fin 6) (s : State) : Host.Outcome State Fault Refusal :=
  onCore s (fun t => sourceLoss t c.val)

/-- MIL_CTRL_WRITE (R90): A write to MIL_CTRL selects primary and backup sources and moves the servo state. -/
def execMilCtrlWrite (m : Requester) (v : BitVec 32) (s : State) : Host.Outcome State Fault Refusal :=
  onCore s (fun t => busWrite4 t m Reg.milCtrl v)

/-- MIL_RATE_WRITE (R98): A write to MIL_RATE sets the rate under HOST source, or is ignored. -/
def execMilRateWrite (m : Requester) (v : BitVec 32) (s : State) : Host.Outcome State Fault Refusal :=
  onCore s (fun t => busWrite4 t m Reg.milRate v)

/-- MIL_OFFSET_WRITE (R95): A write to MIL_OFFSET issues a signed correction. -/
def execMilOffsetWrite (m : Requester) (v : BitVec 64) (s : State) : Host.Outcome State Fault Refusal :=
  onCore s (fun t => busWrite8 t m Reg.milOffset v)

/-- MIL_SET_WRITE (R95): A write to MIL_SET issues a correction to an absolute road time. -/
def execMilSetWrite (m : Requester) (v : BitVec 64) (s : State) : Host.Outcome State Fault Refusal :=
  onCore s (fun t => busWrite8 t m Reg.milSet v)

/-- STEP_BOUNDARY (R96): A pending step takes effect at its boundary, seen by every unit together. -/
def execStepBoundary (s : State) : Host.Outcome State Fault Refusal :=
  onCore s (fun t => boundaryReached t)

/-- SLEW_END (R96): The slew remainder reaches zero and SLEWING clears. -/
def execSlewEnd (s : State) : Host.Outcome State Fault Refusal :=
  onCore s (fun t => slewEnd t)

/-- MIL_TIME_READ (R88): A read of MIL_TIME's low word latches its high word and MIL_TIME_AUX for the master. -/
def execMilTimeRead (m : Requester) (s : State) : Host.Outcome State Fault Refusal :=
  onCore s (fun t => busRead t m Reg.milTime 4)

/-- DREQ_SEND (R102): Once per PERIOD a port with link up sends a delay request stamped as t1. -/
def execDreqSend (port : Fin 34) (ago : Nat) (s : State) : Host.Outcome State Fault Refusal :=
  onCore s (fun t => dreqSend t port.val ago)

/-- DRSP_RECEIVE (R145, R389): A delay response arrives, is stamped t4 and its rtt accepted or not; a neighbour's own
request on a welt port is answered. -/
def execDrspReceive (port : Fin 34) (seq : BitVec 16) (turn : Option (BitVec 32)) (ago : Nat) (s : State) :
    Host.Outcome State Fault Refusal :=
  onCore s (fun t => match turn with
    | none => dreqAnswer t port.val seq.toNat ago
    | some w => drspReceive t port.val seq.toNat w.toNat ago)

/-- DRSP_LOST (R145): No usable DRSP arrives within 100 µs of t1 and the exchange is counted lost. -/
def execDrspLost (port : Fin 34) (s : State) : Host.Outcome State Fault Refusal :=
  onCore s (fun t => drspLost t port.val)

/-- DLY_FAIL (R103): Sixteen periods pass with no accepted exchange and the port's delay loses validity. -/
def execDlyFail (port : Fin 34) (s : State) : Host.Outcome State Fault Refusal :=
  onCore s (fun t => dlyFail t port.val)

/-- TIME_MARK_SEND (R104): At each 1,000 ns multiple a port sends a time mark with stamp, dly_out, VALID and BASE. -/
def execTimeMarkSend (port : Fin 34) (ago : Nat) (s : State) : Host.Outcome State Fault Refusal :=
  onCore s (fun t => timeMarkSend t port.val ago)

/-- TIME_MARK_RECEIVE (R106): A slave receives a welt time mark and follows the upstream road time. -/
def execTimeMarkReceive (egress : BitVec 72) (dly : BitVec 23) (valid : Bool) (base : BitVec 8) (ago : Nat) (ann :
    Option (Int × Nat × Bool)) (s : State) : Host.Outcome State Fault Refusal :=
  onCore s (fun t => timeMarkReceive t egress.toNat dly.toNat valid base.toNat ago ann)

/-- TRIGGER_RISE (R108): A trigger output's pulse rises at its grid time and is recorded and counted. -/
def execTriggerRise (n : Fin 8) (s : State) : Host.Outcome State Fault Refusal :=
  onCore s (fun t => pulseRise t n.val)

/-- TRIGGER_FALL (R108): A trigger output's pulse falls after its WIDTH. -/
def execTriggerFall (n : Fin 8) (s : State) : Host.Outcome State Fault Refusal :=
  onCore s (fun t => pulseFall t n.val)

/-- TRIG_ENABLE (R109): A write to MIL_TRIG_CTRL enables or disables a trigger, refused on invalid settings. -/
def execTrigEnable (m : Requester) (n : Fin 8) (v : BitVec 32) (s : State) : Host.Outcome State Fault Refusal :=
  onCore s (fun t => busWrite4 t m (Reg.milTrigCtrl n.val) v)

/-- TRIG_PHASE_WRITE (R109): A PHASE write takes effect at the first pulse on the new grid at least 1 µs later. -/
def execTrigPhaseWrite (m : Requester) (n : Fin 8) (v : BitVec 32) (s : State) : Host.Outcome State Fault Refusal :=
  onCore s (fun t => busWrite4 t m (Reg.milTrigPhase n.val) v)

/-- PPS_OUT_RISE (R110): A PPS output rises at k × 10⁹ + OFFSET ns. -/
def execPpsOutRise (k : Fin 2) (s : State) : Host.Outcome State Fault Refusal :=
  onCore s (fun t => pulseRise t (8 + k.val))

/-- PPS_OUT_FALL (R110): A PPS output falls after WIDTH µs. -/
def execPpsOutFall (k : Fin 2) (s : State) : Host.Outcome State Fault Refusal :=
  onCore s (fun t => pulseFall t (8 + k.val))

/-- AON_CALIBRATION_END (R111): A calibration window of the 32.768 kHz clock ends and its period is kept. -/
def execAonCalibrationEnd (period : BitVec 32) (s : State) : Host.Outcome State Fault Refusal :=
  onCore s (fun t => aonCalibrated t period.toNat)

end Sys2Proof.Machine
end

