-- ==== Sys2Proof/Machine/ExecWaymark.lean ====
section
/-!
DEFINITION. The meanings of the commands of the waymark index (chapter 8).
-/
namespace Sys2Proof.Machine

/-- SETTLE_RELEASE (R285): An insert leaves the settle queue S cycles after acceptance and joins its stream's open
group. -/
def execSettleRelease (s : State) : Host.Outcome State Fault Refusal :=
  onCore s (fun t => settleRelease t)

/-- GROUP_WRITE (R286): The writer writes an open group's new records when full, timed out, closing or under space
pressure. -/
def execGroupWrite (s : State) : Host.Outcome State Fault Refusal :=
  onCore s (fun t => groupWrite t)

/-- COMBINE_TIMEOUT (R286): A group's oldest record has waited COMBINE_US since release. -/
def execCombineTimeout (s : State) : Host.Outcome State Fault Refusal :=
  onCore s (fun t => combineTimeout t)

/-- PRESSURE_FREE (R292): While the free pool is below LOW, the writer frees one victim page per 4 cycles. -/
def execPressureFree (s : State) : Host.Outcome State Fault Refusal :=
  onCore s (fun t => pressureStep t)

/-- AGE_VISIT (R293): In an idle cycle the writer visits a stream and frees its head if aged out. -/
def execAgeVisit (s : State) : Host.Outcome State Fault Refusal :=
  onCore s (fun t => ageVisit t)

/-- QUERY (R295): QUERY finds the first waymark of a stream at or after t in two rounds. -/
def execQuery (s : State) : Host.Outcome State Fault Refusal :=
  onCore s (fun t => doQuery t)

/-- WNEXT (R298): WNEXT returns the waymark following a handle in one round. -/
def execWnext (s : State) : Host.Outcome State Fault Refusal :=
  onCore s (fun t => doWnext t)

/-- FLUSH_STREAM (R303): A GO on WAY_FLUSH discards a stream's pending inserts and starts scanning to free its pages.
-/
def execFlushStream (m : Requester) (v : BitVec 32) (s : State) : Host.Outcome State Fault Refusal :=
  onCore s (fun t => busWrite4 t m Reg.wayFlush v)

/-- FLUSH_STREAM_END (R303): The flush scan of the milestone table ends. -/
def execFlushStreamEnd (s : State) : Host.Outcome State Fault Refusal :=
  onCore s (fun t => flushStreamEnd t)

/-- WAY_STREAM_CFG_WRITE (R290): A write of a stream's configuration sets its quota, refused on overcommit. -/
def execWayStreamCfgWrite (m : Requester) (v : BitVec 64) (s : State) : Host.Outcome State Fault Refusal :=
  onCore s (fun t => busWrite8 t m Reg.wayStreamCfg v)

end Sys2Proof.Machine
end

