-- ==== Sys2Proof/Machine/ExecWelt.lean ====
section
/-!
DEFINITION. The meanings of the commands of the welt cascade and the far-side bridge (chapter 11).
-/
namespace Sys2Proof.Machine

/-- WELT_LOCK_GAIN (R385): A welt port gains block lock on all four lanes and enters DESKEW. -/
def execWeltLockGain (k : Fin 2) (lanes : BitVec 4) (s : State) : Host.Outcome State Fault Refusal :=
  onCore s (fun t => weltLockGain t k.val lanes.toNat)

/-- DESKEW_DONE (R385): Lane skew is removed and the welt port enters TRAIN. -/
def execDeskewDone (k : Fin 2) (s : State) : Host.Outcome State Fault Refusal :=
  onCore s (fun t => deskewDone t k.val)

/-- WELT_TRAIN_RECEIVE (R386): A welt TRAIN block is received and its identity checked. -/
def execWeltTrainReceive (k : Fin 2) (ver : BitVec 8) (ack : Bool) (part : Fin 3) (v : BitVec 32) (s : State) :
    Host.Outcome State Fault Refusal :=
  onCore s (fun t => weltTrain t k.val ver.toNat ack part.val v.toNat)

/-- WELT_UP (R387): The TRAIN handshake completes with the match lines trained and the port enters UP. -/
def execWeltUp (k : Fin 2) (mlDelay : BitVec 4) (ago : Nat) (s : State) : Host.Outcome State Fault Refusal :=
  onCore s (fun t => weltUp t k.val mlDelay.toNat ago)

/-- WELT_TRAIN_FAIL (R385): A welt port in DESKEW or TRAIN for 2 ms returns to SEEK. -/
def execWeltTrainFail (k : Fin 2) (s : State) : Host.Outcome State Fault Refusal :=
  onCore s (fun t => weltTrainFail t k.val)

/-- WELT_LOCK_LOSS (R385): Lock lost on any lane, or no CREDIT block for 16 µs, returns the welt port to SEEK. -/
def execWeltLockLoss (k : Fin 2) (lanes : BitVec 4) (s : State) : Host.Outcome State Fault Refusal :=
  onCore s (fun t => weltLockLoss t k.val lanes.toNat)

/-- WELT_RESTART (R404): Writing RESTART returns a welt port to SEEK. -/
def execWeltRestart (m : Requester) (k : Fin 2) (v : BitVec 32) (s : State) : Host.Outcome State Fault Refusal :=
  onCore s (fun t => busWrite4 t m (Reg.wltCtrl k.val) v)

/-- RECOVER_TIMEOUT (R385): No RESUME within 10 µs of RECOVER returns the port to SEEK. -/
def execRecoverTimeout (k : Fin 2) (s : State) : Host.Outcome State Fault Refusal :=
  onCore s (fun t => recoverTimeout t k.val)

/-- CREDIT (R383): A CREDIT block updates cumulative credits and bridge ACK, and a NAK triggers RESUME. -/
def execCredit (k : Fin 2) (key : BitVec 7) (ans : BitVec 7) (posted : BitVec 5) (np : BitVec 4) (cpl : BitVec 4) (ack
    : BitVec 12) (nak : Bool) (s : State) : Host.Outcome State Fault Refusal :=
  onCore s (fun t => creditReceive t k.val key.toNat ans.toNat posted.toNat np.toNat cpl.toNat ack.toNat nak)

/-- RESUME (R388): A RESUME ends recovery and lost keys and answers free their credits. -/
def execResume (k : Fin 2) (keySent : BitVec 7) (ansSent : BitVec 7) (s : State) : Host.Outcome State Fault Refusal :=
  onCore s (fun t => resumeReceive t k.val keySent.toNat ansSent.toNat)

/-- KEY_RECEIVE (R390): A KEY frame is passed on or searched by a member of a welt table. -/
def execKeyReceive (k : Fin 2) (h : BitVec 64) (payload : List Byte) (s : State) : Host.Outcome State Fault Refusal :=
  onCore s (fun t => keyReceive t k.val h.toNat payload)

/-- ANS_RECEIVE (R394): An ANS frame is forwarded or consumed by the origin, completing a welt search on CLOSE. -/
def execAnsReceive (k : Fin 2) (h : BitVec 64) (payload : List Byte) (s : State) : Host.Outcome State Fault Refusal :=
  onCore s (fun t => ansReceive t k.val h.toNat payload)

/-- BPW (R397): A bridge posted write frame is forwarded or executed at its target. -/
def execBpw (k : Fin 2) (h : BitVec 64) (payload : List Byte) (s : State) : Host.Outcome State Fault Refusal :=
  onCore s (fun t => bridgeReceive t k.val 3 h.toNat payload)

/-- BRD (R399): A bridge read frame is forwarded or served at its target. -/
def execBrd (k : Fin 2) (h : BitVec 64) (payload : List Byte) (s : State) : Host.Outcome State Fault Refusal :=
  onCore s (fun t => bridgeReceive t k.val 4 h.toNat payload)

/-- BCPL (R398): A bridge completion loads the read set's data or fails it. -/
def execBcpl (k : Fin 2) (h : BitVec 64) (payload : List Byte) (s : State) : Host.Outcome State Fault Refusal :=
  onCore s (fun t => bridgeReceive t k.val 5 h.toNat payload)

/-- BNOTE (R397): A bridge failure note is logged at the initiator. -/
def execBnote (k : Fin 2) (h : BitVec 64) (payload : List Byte) (s : State) : Host.Outcome State Fault Refusal :=
  onCore s (fun t => bridgeReceive t k.val 6 h.toNat payload)

/-- BRIDGE_RESEND (R400): No ACK advance for 16 µs resends bridge frames from ACK + 1. -/
def execBridgeResend (k : Fin 2) (s : State) : Host.Outcome State Fault Refusal :=
  onCore s (fun t => bridgeResend t k.val)

/-- SLAVE_WINDOW_WRITE (R396): A write to the slave window becomes a bridge posted write. -/
def execSlaveWindowWrite (m : Requester) (pos : Fin 8) (off : BitVec 21) (data : List Byte) (s : State) : Host.Outcome
    State Fault Refusal :=
  onCore s (fun t => busWrite t m (0x1000000 + pos.val * 2 ^ 21 + off.toNat) data)

/-- SLAVE_WINDOW_READ (R396): A direct read of the slave window returns zero and sets DIRECT_RD. -/
def execSlaveWindowRead (m : Requester) (pos : Fin 8) (off : BitVec 21) (len : Nat) (s : State) : Host.Outcome State
    Fault Refusal :=
  onCore s (fun t => busRead t m (0x1000000 + pos.val * 2 ^ 21 + off.toNat) len)

/-- BRG_RRD_ADDR_WRITE (R398): The owner's write of BRG_RRD_ADDR issues a bridge read and sets RETRY. -/
def execBrgRrdAddrWrite (m : Requester) (ix : Fin 4) (v : BitVec 32) (s : State) : Host.Outcome State Fault Refusal :=
  onCore s (fun t => busWrite4 t m (Reg.brgRrdAddr ix.val) v)

/-- BRIDGE_READ_TIMEOUT (R398): No completion within RD_TIMEOUT fails the read set. -/
def execBridgeReadTimeout (s : State) : Host.Outcome State Fault Refusal :=
  onCore s (fun t => bridgeTimeout t)

/-- BRIDGE_POLL (R401): Every POLL_US the master reads each slave's BRG_POLL. -/
def execBridgePoll (s : State) : Host.Outcome State Fault Refusal :=
  onCore s (fun t => bridgePoll t)

/-- WELT_FRAMING_ERROR (R388): A welt receiver meets an invalid sync header, a reserved control or frame type, or a
frame CRC failure, sends NAK and enters RECOVER. -/
def execWeltFramingError (k : Fin 2) (s : State) : Host.Outcome State Fault Refusal :=
  onCore s (fun t => framingError t k.val)

/-- CREDIT_SEND (R383): A welt port sends a CREDIT block when a count has changed, and in any case at least every 2
µs. -/
def execCreditSend (k : Fin 2) (s : State) : Host.Outcome State Fault Refusal :=
  onCore s (fun t => creditSend t k.val)

end Sys2Proof.Machine
end

