-- ==== Sys2Proof/Machine/Dispatch.lean ====
section
/-!
DEFINITION. Which meaning each command has.
-/
namespace Sys2Proof.Machine

/-- The effect of a command on everything but the queue. -/
def exec (i : Instr) (s : State) : Host.Outcome State Fault Refusal :=
  match i with
  | .dscReceive p bytes ctl ago => Sys2Proof.Machine.execDscReceive p bytes ctl ago s
  | .descriptorAccept p => Sys2Proof.Machine.execDescriptorAccept p s
  | .tagGrant p tag => Sys2Proof.Machine.execTagGrant p tag s
  | .fcSend p => Sys2Proof.Machine.execFcSend p s
  | .profileSelect => Sys2Proof.Machine.execProfileSelect s
  | .cobblerStart => Sys2Proof.Machine.execCobblerStart s
  | .slotGrant => Sys2Proof.Machine.execSlotGrant s
  | .granuleGrant => Sys2Proof.Machine.execGranuleGrant s
  | .latencyMiss => Sys2Proof.Machine.execLatencyMiss s
  | .measurementWindowStart => Sys2Proof.Machine.execMeasurementWindowStart s
  | .ternaryAnswer matchIn => Sys2Proof.Machine.execTernaryAnswer matchIn s
  | .granuleReadDone => Sys2Proof.Machine.execGranuleReadDone s
  | .writeAck => Sys2Proof.Machine.execWriteAck s
  | .heldWriteServe => Sys2Proof.Machine.execHeldWriteServe s
  | .refresh pair postpone => Sys2Proof.Machine.execRefresh pair postpone s
  | .refreshRateChange temp => Sys2Proof.Machine.execRefreshRateChange temp s
  | .composeStart => Sys2Proof.Machine.execComposeStart s
  | .verdictRelease => Sys2Proof.Machine.execVerdictRelease s
  | .verdictTransmit p => Sys2Proof.Machine.execVerdictTransmit p s
  | .vrdTagReclaim m v => Sys2Proof.Machine.execVrdTagReclaim m v s
  | .ledgerFaultClear m v => Sys2Proof.Machine.execLedgerFaultClear m v s
  | .vaonApply => Sys2Proof.Machine.execVaonApply s
  | .vaonLoss => Sys2Proof.Machine.execVaonLoss s
  | .pgoodRise => Sys2Proof.Machine.execPgoodRise s
  | .pgoodFall => Sys2Proof.Machine.execPgoodFall s
  | .brownout => Sys2Proof.Machine.execBrownout s
  | .resetPin => Sys2Proof.Machine.execResetPin s
  | .woken straps => Sys2Proof.Machine.execWoken straps s
  | .dramTraining testOk => Sys2Proof.Machine.execDramTraining testOk s
  | .iltRead a b => Sys2Proof.Machine.execIltRead a b s
  | .readFail => Sys2Proof.Machine.execReadFail s
  | .imageFetchDone bytes => Sys2Proof.Machine.execImageFetchDone bytes s
  | .imageApplyEnd => Sys2Proof.Machine.execImageApplyEnd s
  | .dramClearEnd => Sys2Proof.Machine.execDramClearEnd s
  | .ready => Sys2Proof.Machine.execReady s
  | .checkpointWriteDone => Sys2Proof.Machine.execCheckpointWriteDone s
  | .reloadNext m => Sys2Proof.Machine.execReloadNext m s
  | .hostLoad m => Sys2Proof.Machine.execHostLoad m s
  | .lock m => Sys2Proof.Machine.execLock m s
  | .flashCommand m v data => Sys2Proof.Machine.execFlashCommand m v data s
  | .flashStatusPoll busy => Sys2Proof.Machine.execFlashStatusPoll busy s
  | .flashTimeout => Sys2Proof.Machine.execFlashTimeout s
  | .ppsEdge k ago high => Sys2Proof.Machine.execPpsEdge k ago high s
  | .refMeasureEnd ppt inRange => Sys2Proof.Machine.execRefMeasureEnd ppt inRange s
  | .sourceLoss c => Sys2Proof.Machine.execSourceLoss c s
  | .milCtrlWrite m v => Sys2Proof.Machine.execMilCtrlWrite m v s
  | .milRateWrite m v => Sys2Proof.Machine.execMilRateWrite m v s
  | .milOffsetWrite m v => Sys2Proof.Machine.execMilOffsetWrite m v s
  | .milSetWrite m v => Sys2Proof.Machine.execMilSetWrite m v s
  | .stepBoundary => Sys2Proof.Machine.execStepBoundary s
  | .slewEnd => Sys2Proof.Machine.execSlewEnd s
  | .milTimeRead m => Sys2Proof.Machine.execMilTimeRead m s
  | .dreqSend port ago => Sys2Proof.Machine.execDreqSend port ago s
  | .drspReceive port seq turn ago => Sys2Proof.Machine.execDrspReceive port seq turn ago s
  | .drspLost port => Sys2Proof.Machine.execDrspLost port s
  | .dlyFail port => Sys2Proof.Machine.execDlyFail port s
  | .timeMarkSend port ago => Sys2Proof.Machine.execTimeMarkSend port ago s
  | .timeMarkReceive egress dly valid base ago ann => Sys2Proof.Machine.execTimeMarkReceive egress dly valid base ago ann s
  | .triggerRise n => Sys2Proof.Machine.execTriggerRise n s
  | .triggerFall n => Sys2Proof.Machine.execTriggerFall n s
  | .trigEnable m n v => Sys2Proof.Machine.execTrigEnable m n v s
  | .trigPhaseWrite m n v => Sys2Proof.Machine.execTrigPhaseWrite m n v s
  | .ppsOutRise k => Sys2Proof.Machine.execPpsOutRise k s
  | .ppsOutFall k => Sys2Proof.Machine.execPpsOutFall k s
  | .aonCalibrationEnd period => Sys2Proof.Machine.execAonCalibrationEnd period s
  | .blockLockGain p => Sys2Proof.Machine.execBlockLockGain p s
  | .blockLockLoss p openAgo => Sys2Proof.Machine.execBlockLockLoss p openAgo s
  | .trainReceive p ver role vspace ack openAgo => Sys2Proof.Machine.execTrainReceive p ver role vspace ack openAgo s
  | .tapUp p => Sys2Proof.Machine.execTapUp p s
  | .trainFail p => Sys2Proof.Machine.execTrainFail p s
  | .tapRestart m p v openAgo => Sys2Proof.Machine.execTapRestart m p v openAgo s
  | .tapEnable m p v openAgo => Sys2Proof.Machine.execTapEnable m p v openAgo s
  | .tapDepthWrite m p v => Sys2Proof.Machine.execTapDepthWrite m p v s
  | .fcReceive p vcons urg req => Sys2Proof.Machine.execFcReceive p vcons urg req s
  | .timeout p openAgo => Sys2Proof.Machine.execTimeout p openAgo s
  | .errReceive p code detail => Sys2Proof.Machine.execErrReceive p code detail s
  | .errSend p => Sys2Proof.Machine.execErrSend p s
  | .blockError p kind octet openAgo => Sys2Proof.Machine.execBlockError p kind octet openAgo s
  | .tapForceCred m v => Sys2Proof.Machine.execTapForceCred m v s
  | .profileCommit m n v => Sys2Proof.Machine.execProfileCommit m n v s
  | .profileEnable m v => Sys2Proof.Machine.execProfileEnable m v s
  | .selectorCommit m n v => Sys2Proof.Machine.execSelectorCommit m n v s
  | .tollRead m v => Sys2Proof.Machine.execTollRead m v s
  | .tollWrite m v => Sys2Proof.Machine.execTollWrite m v s
  | .freshRead m v => Sys2Proof.Machine.execFreshRead m v s
  | .freshWrite m v => Sys2Proof.Machine.execFreshWrite m v s
  | .thermalSample temp => Sys2Proof.Machine.execThermalSample temp s
  | .updateWindowStart => Sys2Proof.Machine.execUpdateWindowStart s
  | .rowAccess => Sys2Proof.Machine.execRowAccess s
  | .tableCommandFetch => Sys2Proof.Machine.execTableCommandFetch s
  | .completionPost => Sys2Proof.Machine.execCompletionPost s
  | .tcrDoorbell m r v => Sys2Proof.Machine.execTcrDoorbell m r v s
  | .tcrEnable m r v => Sys2Proof.Machine.execTcrEnable m r v s
  | .tcaSearch => Sys2Proof.Machine.execTcaSearch s
  | .tcaNext => Sys2Proof.Machine.execTcaNext s
  | .tcaInsert => Sys2Proof.Machine.execTcaInsert s
  | .tcaDelete => Sys2Proof.Machine.execTcaDelete s
  | .tcaMove => Sys2Proof.Machine.execTcaMove s
  | .tcaWrite => Sys2Proof.Machine.execTcaWrite s
  | .tcaRead => Sys2Proof.Machine.execTcaRead s
  | .tcaUpdate => Sys2Proof.Machine.execTcaUpdate s
  | .tcaWipe => Sys2Proof.Machine.execTcaWipe s
  | .rebuildStart m table => Sys2Proof.Machine.execRebuildStart m table s
  | .rebuildStop m table => Sys2Proof.Machine.execRebuildStop m table s
  | .signatureLapStart => Sys2Proof.Machine.execSignatureLapStart s
  | .signatureRegionDone => Sys2Proof.Machine.execSignatureRegionDone s
  | .signaturePost => Sys2Proof.Machine.execSignaturePost s
  | .sigReq m v => Sys2Proof.Machine.execSigReq m v s
  | .hshSearch => Sys2Proof.Machine.execHshSearch s
  | .hshNext => Sys2Proof.Machine.execHshNext s
  | .hshInsert => Sys2Proof.Machine.execHshInsert s
  | .hshDelete => Sys2Proof.Machine.execHshDelete s
  | .hshRead => Sys2Proof.Machine.execHshRead s
  | .hshUpdate => Sys2Proof.Machine.execHshUpdate s
  | .hshWipe => Sys2Proof.Machine.execHshWipe s
  | .hshPfxShareWrite m v => Sys2Proof.Machine.execHshPfxShareWrite m v s
  | .settleRelease => Sys2Proof.Machine.execSettleRelease s
  | .groupWrite => Sys2Proof.Machine.execGroupWrite s
  | .combineTimeout => Sys2Proof.Machine.execCombineTimeout s
  | .pressureFree => Sys2Proof.Machine.execPressureFree s
  | .ageVisit => Sys2Proof.Machine.execAgeVisit s
  | .query => Sys2Proof.Machine.execQuery s
  | .wnext => Sys2Proof.Machine.execWnext s
  | .flushStream m v => Sys2Proof.Machine.execFlushStream m v s
  | .flushStreamEnd => Sys2Proof.Machine.execFlushStreamEnd s
  | .wayStreamCfgWrite m v => Sys2Proof.Machine.execWayStreamCfgWrite m v s
  | .learnCheck => Sys2Proof.Machine.execLearnCheck s
  | .learnRingWrite => Sys2Proof.Machine.execLearnRingWrite s
  | .learnRingDisable m => Sys2Proof.Machine.execLearnRingDisable m s
  | .tickAdvance => Sys2Proof.Machine.execTickAdvance s
  | .ageLimitWrite m table v => Sys2Proof.Machine.execAgeLimitWrite m table v s
  | .agingLapStart => Sys2Proof.Machine.execAgingLapStart s
  | .agingLapEnd => Sys2Proof.Machine.execAgingLapEnd s
  | .agingEnable m v => Sys2Proof.Machine.execAgingEnable m v s
  | .flushPort => Sys2Proof.Machine.execFlushPort s
  | .rglClassCommit m c v => Sys2Proof.Machine.execRglClassCommit m c v s
  | .weltLockGain k lanes => Sys2Proof.Machine.execWeltLockGain k lanes s
  | .deskewDone k => Sys2Proof.Machine.execDeskewDone k s
  | .weltTrainReceive k ver ack part v => Sys2Proof.Machine.execWeltTrainReceive k ver ack part v s
  | .weltUp k mlDelay ago => Sys2Proof.Machine.execWeltUp k mlDelay ago s
  | .weltTrainFail k => Sys2Proof.Machine.execWeltTrainFail k s
  | .weltLockLoss k lanes => Sys2Proof.Machine.execWeltLockLoss k lanes s
  | .weltRestart m k v => Sys2Proof.Machine.execWeltRestart m k v s
  | .recoverTimeout k => Sys2Proof.Machine.execRecoverTimeout k s
  | .credit k key ans posted np cpl ack nak => Sys2Proof.Machine.execCredit k key ans posted np cpl ack nak s
  | .resume k keySent ansSent => Sys2Proof.Machine.execResume k keySent ansSent s
  | .keyReceive k h payload => Sys2Proof.Machine.execKeyReceive k h payload s
  | .ansReceive k h payload => Sys2Proof.Machine.execAnsReceive k h payload s
  | .bpw k h payload => Sys2Proof.Machine.execBpw k h payload s
  | .brd k h payload => Sys2Proof.Machine.execBrd k h payload s
  | .bcpl k h payload => Sys2Proof.Machine.execBcpl k h payload s
  | .bnote k h payload => Sys2Proof.Machine.execBnote k h payload s
  | .bridgeResend k => Sys2Proof.Machine.execBridgeResend k s
  | .slaveWindowWrite m pos off data => Sys2Proof.Machine.execSlaveWindowWrite m pos off data s
  | .slaveWindowRead m pos off len => Sys2Proof.Machine.execSlaveWindowRead m pos off len s
  | .brgRrdAddrWrite m ix v => Sys2Proof.Machine.execBrgRrdAddrWrite m ix v s
  | .bridgeReadTimeout => Sys2Proof.Machine.execBridgeReadTimeout s
  | .bridgePoll => Sys2Proof.Machine.execBridgePoll s
  | .scratchpadServe => Sys2Proof.Machine.execScratchpadServe s
  | .setWindowWrite m off data => Sys2Proof.Machine.execSetWindowWrite m off data s
  | .clearWindowWrite m off data => Sys2Proof.Machine.execClearWindowWrite m off data s
  | .rotateAccess m write off data len => Sys2Proof.Machine.execRotateAccess m write off data len s
  | .sramScrubVisit mem cell => Sys2Proof.Machine.execSramScrubVisit mem cell s
  | .retireEntWrite m v => Sys2Proof.Machine.execRetireEntWrite m v s
  | .retireDone => Sys2Proof.Machine.execRetireDone s
  | .tcaBlockRetire m v => Sys2Proof.Machine.execTcaBlockRetire m v s
  | .integrityRecordWrite => Sys2Proof.Machine.execIntegrityRecordWrite s
  | .recordClr m v => Sys2Proof.Machine.execRecordClr m v s
  | .flipArm m v => Sys2Proof.Machine.execFlipArm m v s
  | .marchGo m v => Sys2Proof.Machine.execMarchGo m v s
  | .marchDone fails => Sys2Proof.Machine.execMarchDone fails s
  | .endpointReset f kind => Sys2Proof.Machine.execEndpointReset f kind s
  | .unsupportedRequest f kind => Sys2Proof.Machine.execUnsupportedRequest f kind s
  | .msixUnmask f vec => Sys2Proof.Machine.execMsixUnmask f vec s
  | .intRearm m f v => Sys2Proof.Machine.execIntRearm m f v s
  | .dmaDoorbell m n v => Sys2Proof.Machine.execDmaDoorbell m n v s
  | .dmaEnable m n v => Sys2Proof.Machine.execDmaEnable m n v s
  | .dmaDescriptorDone n => Sys2Proof.Machine.execDmaDescriptorDone n s
  | .dmaResume m n v => Sys2Proof.Machine.execDmaResume m n v s
  | .dmaSkip m n v => Sys2Proof.Machine.execDmaSkip m n v s
  | .spiCsFall => Sys2Proof.Machine.execSpiCsFall s
  | .spiTransaction bits mosi => Sys2Proof.Machine.execSpiTransaction bits mosi s
  | .wdogKick m v => Sys2Proof.Machine.execWdogKick m v s
  | .wdog => Sys2Proof.Machine.execWdog s
  | .secureClear m => Sys2Proof.Machine.execSecureClear m s
  | .version box => Sys2Proof.Machine.execVersion box s
  | .checkpoint box => Sys2Proof.Machine.execCheckpoint box s
  | .mgmtReload box => Sys2Proof.Machine.execMgmtReload box s
  | .mailboxAnswer box status words => Sys2Proof.Machine.execMailboxAnswer box status words s
  | .canJoin => Sys2Proof.Machine.execCanJoin s
  | .canFrameReceive frame lec heavy ago => Sys2Proof.Machine.execCanFrameReceive frame lec heavy ago s
  | .txreq m n => Sys2Proof.Machine.execTxreq m n s
  | .canTransmitEnd e ago => Sys2Proof.Machine.execCanTransmitEnd e ago s
  | .abort m n => Sys2Proof.Machine.execAbort m n s
  | .recover m v => Sys2Proof.Machine.execRecover m v s
  | .recovered n => Sys2Proof.Machine.execRecovered n s
  | .ping => Sys2Proof.Machine.execPing s
  | .status => Sys2Proof.Machine.execStatus s
  | .time => Sys2Proof.Machine.execTime s
  | .read => Sys2Proof.Machine.execRead s
  | .stayAwake => Sys2Proof.Machine.execStayAwake s
  | .parkVote => Sys2Proof.Machine.execParkVote s
  | .parkRequest m key => Sys2Proof.Machine.execParkRequest m key s
  | .graceEnd wake tamper => Sys2Proof.Machine.execGraceEnd wake tamper s
  | .parkFail => Sys2Proof.Machine.execParkFail s
  | .wakeEvent n => Sys2Proof.Machine.execWakeEvent n s
  | .wakeDwellEnd => Sys2Proof.Machine.execWakeDwellEnd s
  | .cold m key => Sys2Proof.Machine.execCold m key s
  | .timeStateRecord => Sys2Proof.Machine.execTimeStateRecord s
  | .ckptGo m v => Sys2Proof.Machine.execCkptGo m v s
  | .nvcAccRead m => Sys2Proof.Machine.execNvcAccRead m s
  | .nvcAccWrite m => Sys2Proof.Machine.execNvcAccWrite m s
  | .keySet m slot => Sys2Proof.Machine.execKeySet m slot s
  | .keyRevoke m slot => Sys2Proof.Machine.execKeyRevoke m slot s
  | .secVer m arg => Sys2Proof.Machine.execSecVer m arg s
  | .toDevelop m => Sys2Proof.Machine.execToDevelop m s
  | .toProduce m => Sys2Proof.Machine.execToProduce m s
  | .toReturn m => Sys2Proof.Machine.execToReturn m s
  | .fuseProgramDone ok => Sys2Proof.Machine.execFuseProgramDone ok s
  | .tamper k => Sys2Proof.Machine.execTamper k s
  | .tamperWipeEnd => Sys2Proof.Machine.execTamperWipeEnd s
  | .registerWrite m off data => Sys2Proof.Machine.execRegisterWrite m off data s
  | .registerRead m off len => Sys2Proof.Machine.execRegisterRead m off len s
  | .configurationRequest f write reg v => Sys2Proof.Machine.execConfigurationRequest f write reg v s
  | .perstRelease f => Sys2Proof.Machine.execPerstRelease f s
  | .hostCompletion id st data => Sys2Proof.Machine.execHostCompletion id st data s
  | .completionTimeout id => Sys2Proof.Machine.execCompletionTimeout id s
  | .weltFramingError k => Sys2Proof.Machine.execWeltFramingError k s
  | .creditSend k => Sys2Proof.Machine.execCreditSend k s

end Sys2Proof.Machine
end

