-- ==== Sys2Proof/Safety.lean ====
section
/-!
DEFINITION. What the claims mean by a state in order: interrupt vectors that agree with their causes, memories in their one
canonical form, ledgers that balance.
-/
namespace Sys2Proof.Machine

/-- The active MSI-X vectors of both endpoints agree with the active causes and the vector maps (R461). -/
def State.msixInv (s : State) : Prop := ∀ f : Fin 2, (Sys2Proof.Machine.pcie s f.val).active = vectorsOf s f.val (intSum s)

/-- The three byte memories hold their canonical form. -/
def State.memWf (s : State) : Prop := Memory.wf s.spm.mem ∧ Memory.wf s.drc.mem ∧ Memory.wf s.nvc.mem

/-- The registers hold their canonical form. -/
def State.regsWf (s : State) : Prop := KMap.wf regDefault s.regs

/-- No ledger has failed its check (R42). -/
def State.ledgersHold (s : State) : Bool := decide (fget s Reg.topLedgerStat 6 0 = 0)

/-- A state from which claims about a healthy device start: the fast clocks run, and the parts above are in order. -/
def State.sound (s : State) : Prop := awake s = true ∧ s.memWf ∧ s.regsWf ∧ s.msixInv

/-- The parts of the state beside the register file, the PCI Express ports, the outputs, the clock, the queue, and the model's
record of the present cycle and of earlier time bases. -/
inductive UnitName where
  | draws | rgl | drc | intg | spm | tca | hsh | way | lrn | age | tcr | vrd | cbl | tol | taps | mil | host | img | pwr | nvc | lcs | wlt | brg | dma | spi | seq | can | latch | stage
  deriving DecidableEq, Repr

/-- A part of the state is the same in `s` and `t`. -/
def UnitName.same (u : UnitName) (s t : State) : Prop :=
  match u with
  | .draws => t.draws = s.draws
  | .rgl => t.rgl = s.rgl
  | .drc => t.drc = s.drc
  | .intg => t.intg = s.intg
  | .spm => t.spm = s.spm
  | .tca => t.tca = s.tca
  | .hsh => t.hsh = s.hsh
  | .way => t.way = s.way
  | .lrn => t.lrn = s.lrn
  | .age => t.age = s.age
  | .tcr => t.tcr = s.tcr
  | .vrd => t.vrd = s.vrd
  | .cbl => t.cbl = s.cbl
  | .tol => t.tol = s.tol
  | .taps => t.taps = s.taps
  | .mil => t.mil = s.mil
  | .host => t.host = s.host
  | .img => t.img = s.img
  | .pwr => t.pwr = s.pwr
  | .nvc => t.nvc = s.nvc
  | .lcs => t.lcs = s.lcs
  | .wlt => t.wlt = s.wlt
  | .brg => t.brg = s.brg
  | .dma => t.dma = s.dma
  | .spi => t.spi = s.spi
  | .seq => t.seq = s.seq
  | .can => t.can = s.can
  | .latch => t.latch = s.latch
  | .stage => t.stage = s.stage

/-- Every part but those named is unchanged. -/
def keepsUnits (ch : List UnitName) (s t : State) : Prop := ∀ u, u ∉ ch → u.same s t

/-- The counters of the requests the device sends to host memory (R551): any command can make an interrupt cause active,
and the message that follows is such a request (R461). -/
def msgRegs : List Nat := [Reg.hstPcieCnt 0 3, Reg.hstPcieCnt 1 3]

/-- Every register but those named is unchanged; the counters of sent messages may move. -/
def keepsRegs (ch : List Nat) (s t : State) : Prop := ∀ off, off ∉ msgRegs → off ∉ ch → rd t off = rd s off

/-- What an interrupt message cannot touch of the PCI Express ports: link, configuration registers, MSI-X table. -/
def keepsPorts (s t : State) : Prop :=
  ∀ f, (pcie t f).up = (pcie s f).up ∧ (pcie t f).command = (pcie s f).command ∧ (pcie t f).devCtl = (pcie s f).devCtl ∧
    (pcie t f).devCtl2 = (pcie s f).devCtl2 ∧ (pcie t f).bar0 = (pcie s f).bar0 ∧
    (pcie t f).msixCtl = (pcie s f).msixCtl ∧ (pcie t f).table = (pcie s f).table

/-- A frame: beside the named parts and registers nothing differs but the interrupt messages that follow, which are
outputs, pending bits and counts. -/
def Only (units : List UnitName) (regs : List Nat) (s t : State) : Prop :=
  keepsUnits units s t ∧ keepsRegs regs s t ∧ keepsPorts s t

/-- Command `c` in state `s` completes, in a next state of which `P` holds. -/
def Ends (c : Instr) (s : State) (P : State → Prop) : Prop := ∃ t, exec c s = .next t ∧ P t

/-- Every tap port but `p` is unchanged. -/
def tapsBut (p : Nat) (s t : State) : Prop := ∀ q, q ≠ p → tap t q = tap s q

/-- The registers a failing ledger writes (R42, R43). -/
def ledgerRegs : List Nat :=
  [Reg.topLedgerStat, Reg.topLedgerTime, Reg.topLedgerSnap 0, Reg.topLedgerSnap 1, Reg.topLedgerSnap 2, Reg.topLedgerSnap 3]

/-- The registers that an armed fault writes when it strikes a write of a word (R435). -/
def flipRegs : List Nat := [Reg.intFlipCtrl, Reg.intFlipAddr, Reg.intEvt]

/-- The registers that the read of an on-die memory by a master can write: its errors are counted, logged and tracked (R423,
R424), uncorrectable control state is reported (R425). -/
def readRegs (mem : Nat) : List Nat :=
  [Reg.intEvt, Reg.intLogHead, Reg.intLogOvf, Reg.intTrackStat, Reg.intCnt mem 0, Reg.intCnt mem 1, Reg.intCnt mem 2] ++
    (List.range 128).map (fun k => Reg.intLog (k / 2) (k % 2))

/-- The registers a refused write is recorded in (R546, R547). -/
def errRegs : List Nat := [Reg.topErr, Reg.topErrAddr]

/-- The requester reaches all of BAR0, the slave window included (R82, R396, R470–R472). -/
def farReach (s : State) (m : Requester) : Bool :=
  match m with
  | .pcie0 => (pcie s 0).up && fullReach s
  | .pcie1 => (pcie s 1).up && fullReach s
  | .spi => fullReach s
  | .benchM => s.seq.running
  | .benchU => s.seq.running
  | .bridge => false
  | .loader => false
  | .internal => false

/-- The counter of requests a PCI Express port has completed (R551), for a requester that is one. -/
def portRegs (m : Requester) : List Nat :=
  match fnOf m with
  | some f => [Reg.hstPcieCnt f 0]
  | none => []

/-- The commands that the always-on domain and the supplies see in every power state (R487, R488, R494, R511); every other
command needs the fast clocks. -/
def alwaysOn (c : Instr) : Bool :=
  match c with
  | .vaonApply => true
  | .vaonLoss => true
  | .pgoodRise => true
  | .pgoodFall => true
  | .brownout => true
  | .resetPin => true
  | .woken _ => true
  | .wakeEvent _ => true
  | .wakeDwellEnd => true
  | .tamper _ => true
  | _ => false

/-- In `t` the management request that waited in `s` is taken, and the response to operation `op` waits in object 127 (R483). -/
def mgmtAnswered (s : State) (op status : Nat) (t : State) : Prop :=
  txReq t 127 = true ∧ flag t (Reg.canObjStat 126) 30 = false ∧
    rd t (Reg.canObjData 127 0) = op + 0x80 + bitsOf (fget s (Reg.canObjData 126 0) 31 0) 15 8 * 2 ^ 8 + status * 2 ^ 16

end Sys2Proof.Machine
end

