-- ==== Sys2Proof/Certificates/Slice0/Obligations.lean ====
section
/-!
DEFINITION. Statements for the provers: what the spec's rules say the device does, command by command and of the whole machine.
-/
open Sys2Proof Sys2Proof.Machine

/-- A tap port climbs SEEK, LOCK, TRAIN, UP as block lock, TRAIN blocks and the ACK handshake arrive (R125, R126, R127, R139, R140). -/
def Obligations.TapLinkClimbsFromSeekToUp : Prop :=
  ∀ (s : State) (p : Fin 32), awake s = true →
    ((tap s p).state = 1 → Ends (.blockLockGain p) s fun t =>
      tap t p = { tap s p with
        state := 2
        lockAt := s.cycle
        trains := 0
        acks := 0
        acked := false
        trainTx := 0
        trainTurn := true
        hdrWin := 0
        hdrBad := 0 } ∧ tapsBut p s t ∧ Only [.taps] [] s t) ∧
    (∀ (vspace : BitVec 16) (ack : Bool) (o : Option Nat), (tap s p).state = 2 ∨ (tap s p).state = 3 →
      Ends (.trainReceive p 1 1 vspace ack o) s fun t =>
        (tap t p).trains = (tap s p).trains + 1 ∧
        (tap t p).acks = (if ack then (tap s p).acks + 1 else 0) ∧
        (tap t p).acked = ((tap s p).acked || decide (8 ≤ if ack then (tap s p).acks + 1 else 0)) ∧
        (tap t p).vspaceRx = vspace.toNat ∧
        (tap t p).state = (if (tap s p).trains + 1 ≥ 3 then 3 else (tap s p).state) ∧
        (tap t p).reserve = (tap s p).reserve ∧ tapsBut p s t ∧ Only [.taps] [] s t) ∧
    (∀ (vspace : BitVec 16) (ack : Bool) (o : Option Nat), (tap s p).state = 4 →
      Ends (.trainReceive p 1 1 vspace ack o) s fun t =>
        (tap t p).state = 1 ∧ (tap t p).reserve = (tap s p).reserve ∧ tapsBut p s t) ∧
    ((tap s p).state = 2 ∨ (tap s p).state = 3 → (tap s p).txData = [] → (tap s p).txAt < 50 * s.cycle →
      ((tap s p).trainTurn = true →
        (tap (fillBlock s p) p).trainTurn = false ∧ (tap (fillBlock s p) p).txAt = (tap s p).txAt + 256 ∧
        (tap (fillBlock s p) p).trainTx = (if (tap s p).acked then (tap s p).trainTx + 1 else 0) ∧
        ∃ w, (fillBlock s p).out = s.out ++ [.tapCtl p 0x2D (withChk 0x2D w)] ∧ bitsOf w 55 48 = 1 ∧ bitOf w 47 = false ∧
          bitOf w 46 = decide ((tap s p).state = 3) ∧ bitsOf w 45 40 = p.val) ∧
      ((tap s p).trainTurn = false → (tap s p).idle = false →
        (tap (fillBlock s p) p).trainTurn = true ∧ (fillBlock s p).out = s.out ++ [.tapCtl p 0x1E 0])) ∧
    ((tap s p).state = 3 ∧ (tap s p).acked = true ∧ 16 ≤ (tap s p).trainTx ∧ (tap s p).vspaceRx ≠ 0 →
      Ends (.tapUp p) s fun t =>
        (tap t p).state = 4 ∧ (tap t p).vspace = (tap s p).vspaceRx ∧ (tap t p).peerVer = 1 ∧ voutOf (tap t p) = 0 ∧
        (tap t p).reserve = (tap s p).reserve ∧
        (tap t p).replay = (if (tap s p).wasUp then some (tap s p).reserve else none) ∧
        flag t (Reg.tapEvt p) 0 = true ∧ tapsBut p s t ∧ Only [.taps, .mil] [Reg.tapEvt p] s t)

/-- Lock loss, a failed training and a silent partner return a tap port to SEEK with its reserve kept (R125, R128, R140, R148, R155, R156). -/
def Obligations.TapLinkFallsBackToSeek : Prop :=
  ∀ (s : State) (p : Fin 32), awake s = true →
    (∀ o : Option Nat, (tap s p).state = 2 ∨ (tap s p).state = 3 → Ends (.blockLockLoss p o) s fun t =>
      (tap t p).state = 1 ∧ (tap t p).reserve = (tap s p).reserve ∧ fget t (Reg.tapLastErr p) 31 24 = 9 ∧
      tapsBut p s t ∧ Only [.taps] [Reg.tapLastErr p] s t) ∧
    ((tap s p).state = 4 → Ends (.blockLockLoss p none) s fun t =>
      (tap t p).state = 1 ∧ (tap t p).reserve = (tap s p).reserve ∧ (tap t p).urgIn = 0 ∧ (tap t p).txq = [] ∧
      fget t (Reg.tapLastErr p) 31 24 = 9 ∧
      rd t (Reg.tapCnt p 4) = (rd s (Reg.tapCnt p 4) + ((tap s p).txq.length + if (tap s p).txData = [] then 0 else 1)) % 2 ^ 48 ∧
      rd t (Reg.tapCnt p 9) = (rd s (Reg.tapCnt p 9) + 1) % 2 ^ 48 ∧ flag t (Reg.tapEvt p) 1 = true ∧
      tapsBut p s t ∧
      Only [.taps, .mil, .rgl] [Reg.tapLastErr p, Reg.tapCnt p 4, Reg.tapCnt p 9, Reg.tapEvt p] s t) ∧
    (((tap s p).state = 2 ∨ (tap s p).state = 3) ∧ (tap s p).lockAt + 800000 ≤ s.cycle → Ends (.trainFail p) s fun t =>
      (tap t p).state = 1 ∧ (tap t p).reserve = (tap s p).reserve ∧
      rd t (Reg.tapCnt p 10) = (rd s (Reg.tapCnt p 10) + 1) % 2 ^ 48 ∧ flag t (Reg.tapEvt p) 5 = true ∧
      tapsBut p s t ∧ Only [.taps] [Reg.tapCnt p 10, Reg.tapEvt p] s t) ∧
    (∀ o : Option Nat, (tap s p).state = 4 ∧ max (tap s p).upAt (tap s p).lastFc + 51200 ≤ s.cycle →
      Ends (.timeout p o) s fun t =>
        (tap t p).state = 1 ∧ (tap t p).reserve = (tap s p).reserve ∧ fget t (Reg.tapLastErr p) 31 24 = 8 ∧
        rd t (Reg.tapCnt p 9) = (rd s (Reg.tapCnt p 9) + 1) % 2 ^ 48 ∧ tapsBut p s t)

/-- EN, RESTART and DEPTH of TAP_CTRL: ports start and stop, links restart, depths stay within 512 in sum (R20, R125, R141, R152). -/
def Obligations.TapControlWritesTakeEffect : Prop :=
  ∀ (s : State) (m : Requester) (p : Fin 32) (v : BitVec 32) (o : Option Nat),
    mayWrite s m (Reg.tapCtrl p) 4 = true → locked s = false → bitsOf v.toNat 23 16 ≤ 64 →
    (bitOf v.toNat 0 = true ∧ bitOf v.toNat 31 = false ∧ (tap s p).state = 0 ∧ s.img.applied = true ∧ s.pwr.reqHigh = true ∧
        depthSum s p (bitsOf v.toNat 23 16) true ≤ 512 → Ends (.tapEnable m p v o) s fun t =>
      (tap t p).state = 1 ∧ flag t (Reg.tapCtrl p) 0 = true ∧ (tap t p).reserve = (tap s p).reserve ∧ tapsBut p s t) ∧
    (bitOf v.toNat 0 = false ∧ depthSum s p (bitsOf v.toNat 23 16) false ≤ 512 → Ends (.tapEnable m p v o) s fun t =>
      (tap t p).state = 0 ∧ flag t (Reg.tapCtrl p) 0 = false ∧ (tap t p).reserve = (tap s p).reserve ∧ tapsBut p s t) ∧
    (bitOf v.toNat 31 = true ∧ bitOf v.toNat 0 = true ∧ 2 ≤ (tap s p).state ∧ (tap s p).state ≤ 4 ∧
        depthSum s p (bitsOf v.toNat 23 16) true ≤ 512 → Ends (.tapRestart m p v o) s fun t =>
      (tap t p).state = 1 ∧ (tap t p).reserve = (tap s p).reserve ∧ tapsBut p s t) ∧
    (depthSum s p (bitsOf v.toNat 23 16) (bitOf v.toNat 0) ≤ 512 → Ends (.tapDepthWrite m p v) s fun t =>
      fget t (Reg.tapCtrl p) 23 16 = bitsOf v.toNat 23 16 ∧ t.spm = s.spm ∧ t.drc = s.drc ∧ tapsBut p s t) ∧
    (512 < depthSum s p (bitsOf v.toNat 23 16) (bitOf v.toNat 0) ∧
        bitsOf v.toNat 23 16 ≠ fget s (Reg.tapCtrl p) 23 16 → Ends (.tapDepthWrite m p v) s fun t =>
      fget t (Reg.tapCtrl p) 23 16 = fget s (Reg.tapCtrl p) 23 16 ∧ flag t Reg.topErr 0 = true ∧ tapsBut p s t)

/-- A grant moves one tag from pool to reserve, FC blocks carry it, and partner FC blocks update the port (R18, R134, R135, R136, R137, R138, R139, R143). -/
def Obligations.CreditsMoveOneTagAtATime : Prop :=
  ∀ (s : State) (p : Fin 32), awake s = true →
    (∀ tag : Fin 1024, grantOk s p = true ∧ s.vrd.taken.contains tag.val = false → Ends (.tagGrant p tag) s fun t =>
      t.vrd.taken = tag.val :: s.vrd.taken ∧
      (tap t p).reserve = (tap s p).reserve ++ [tag.val] ∧ (tap t p).toGrant = (tap s p).toGrant ++ [tag.val] ∧
      (tap t p).granted = (tap s p).granted + 1 ∧ tapsBut p s t ∧ Only [.taps, .vrd] ledgerRegs s t) ∧
    (fcDue s p = true ∧ turnFor s p = true ∧ (tap s p).replay = none ∧ (tap s p).resync = none → Ends (.fcSend p) s fun t =>
      (tap t p).toGrant = (tap s p).toGrant.drop 4 ∧ (tap t p).urgOut = urgOutOf s p ∧
      (tap t p).fcSentAt = s.cycle ∧ (tap t p).reserve = (tap s p).reserve ∧
      .tapCtl p 0x33 (withChk 0x33 (fcPayload 0 ((tap s p).toGrant.take 4) (urgOutOf s p))) ∈ t.out ∧
      rd t (Reg.tapCnt p 8) = (rd s (Reg.tapCnt p 8) + ((tap s p).toGrant.take 4).length) % 2 ^ 48 ∧
      tapsBut p s t ∧ Only [.taps] [Reg.tapCnt p 8] s t) ∧
    (∀ (vcons : BitVec 16) (urg : BitVec 2) (req : BitVec 2), (tap s p).state = 4 →
      Ends (.fcReceive p vcons urg req) s fun t =>
        (tap t p).vcons = vcons.toNat ∧ (tap t p).urgIn = urg.toNat ∧ (tap t p).lastFc = s.cycle ∧
        (tap t p).reserve = (tap s p).reserve ∧
        (req = 1 → (tap s p).captured = [] → (tap t p).replay = some (tap s p).reserve ∧ (tap t p).toGrant = []) ∧
        (req = 1 → (∃ d ∈ (tap s p).captured, d.at_ ≤ s.cycle) →
          (tap t p).replay = none ∧ (tap t p).resync = some s.cycle) ∧
        (req ≠ 1 → (tap s p).resync = none → (tap t p).replay = (tap s p).replay) ∧
        rd t (Reg.tapCnt p 7) = (rd s (Reg.tapCnt p 7) + 1) % 2 ^ 48 ∧
        tapsBut p s t ∧ Only [.taps, .rgl] [Reg.tapCnt p 7] s t)

/-- A forced credit reset and a forced tag reclaim return tags to the pool and record a ledger break (R46, R47, R48, R142). -/
def Obligations.RecoveryWritesReturnTagsAndRebase : Prop :=
  ∀ (s : State) (m : Requester) (v : BitVec 32),
    (mayWrite s m Reg.tapForceCred 4 = true →
      (bitsOf v.toNat 31 16 = 0x6372 ∧ (tap s (bitsOf v.toNat 4 0)).state ≤ 2 → Ends (.tapForceCred m v) s fun t =>
        (tap t (bitsOf v.toNat 4 0)).reserve = [] ∧
        (tap t (bitsOf v.toNat 4 0)).granted = (tap s (bitsOf v.toNat 4 0)).received ∧
        (∀ x, x ∈ t.vrd.taken ↔ x ∈ s.vrd.taken ∧ x ∉ (tap s (bitsOf v.toNat 4 0)).reserve) ∧
        fget t Reg.topLedgerBreak 23 16 = 1 ∧ fget t Reg.topLedgerBreak 15 0 = bitsOf v.toNat 4 0 ∧
        tapsBut (bitsOf v.toNat 4 0) s t ∧ Only [.taps, .vrd] (Reg.topLedgerBreak :: portRegs m) s t) ∧
      (bitsOf v.toNat 31 16 ≠ 0x6372 ∨ 2 < (tap s (bitsOf v.toNat 4 0)).state → Ends (.tapForceCred m v) s fun t =>
        flag t Reg.topErr 0 = true ∧ Only [] (errRegs ++ portRegs m) s t)) ∧
    (mayWrite s m Reg.vrdTagReclaim 4 = true ∧ v.toNat % 65536 = 0x7A61 → Ends (.vrdTagReclaim m v) s fun t =>
      t.vrd.orphans = [] ∧ (∀ x, x ∈ t.vrd.taken ↔ x ∈ s.vrd.taken ∧ x ∉ s.vrd.orphans) ∧
      t.vrd.flights = s.vrd.flights ∧ fget t Reg.topLedgerBreak 23 16 = 2 ∧
      Only [.vrd] (Reg.topLedgerBreak :: portRegs m) s t)

/-- ERR blocks in and out, and receive errors by kind: what each records, counts and latches (R148, R149, R155, R156). -/
def Obligations.TapErrorsAreRecordedAndReported : Prop :=
  ∀ (s : State) (p : Fin 32), awake s = true →
    (∀ (code : BitVec 8) (detail : BitVec 16), 2 ≤ (tap s p).state → Ends (.errReceive p code detail) s fun t =>
      fget t (Reg.tapLastErr p) 23 16 = code.toNat ∧ fget t (Reg.tapLastErr p) 15 0 = detail.toNat ∧
      rd t (Reg.tapCnt p 12) = (rd s (Reg.tapCnt p 12) + 1) % 2 ^ 48 ∧ flag t (Reg.tapEvt p) 7 = true ∧
      Only [] [Reg.tapLastErr p, Reg.tapCnt p 12, Reg.tapEvt p] s t) ∧
    (∀ code detail rest, (tap s p).errs = (code, detail) :: rest → turnFor s p = true → fcDue s p = false →
        ((tap s p).state = 4 → dreqTime s p = false) → Ends (.errSend p) s fun t =>
      (tap t p).errs = rest ∧ .tapCtl p 0x78 (withChk 0x78 (code * 2 ^ 48 + detail * 2 ^ 32)) ∈ t.out ∧
      tapsBut p s t ∧ Only [.taps] [] s t) ∧
    (∀ (octet : BitVec 8) (o : Option Nat), 2 ≤ (tap s p).state → Ends (.blockError p 3 octet o) s fun t =>
      fget t (Reg.tapLastErr p) 31 24 = 3 ∧ rd t (Reg.tapCnt p 6) = (rd s (Reg.tapCnt p 6) + 1) % 2 ^ 48 ∧
      (tap t p).errs = (tap s p).errs ++ [(3, octet.toNat)] ∧ (tap t p).state = (tap s p).state ∧
      tapsBut p s t ∧ Only [.taps] [Reg.tapLastErr p, Reg.tapCnt p 6, Reg.tapEvt p] s t) ∧
    (∀ (kind : Fin 6) (octet : BitVec 8) (o : Option Nat), 2 ≤ (tap s p).state ∧ kind.val ≠ 0 ∧ kind.val ≠ 3 →
      (kind.val = 2 → inboundType octet.toNat = false) →
      (kind.val ≠ 1 ∨ (if 25 * (s.cycle - (tap s p).lockAt) / 8192 = (tap s p).hdrWin then (tap s p).hdrBad else 0) < 15 →
        (o = none ∨ kind.val = 4 ∨ (tap s p).captured.length < (tap s p).reserve.length →
          Ends (.blockError p kind octet o) s fun t =>
            fget t (Reg.tapLastErr p) 31 24 = kind.val ∧ rd t (Reg.tapCnt p 5) = (rd s (Reg.tapCnt p 5) + 1) % 2 ^ 48 ∧
            (tap t p).state = (tap s p).state ∧ (tap t p).reserve = (tap s p).reserve ∧
            tapsBut p s t ∧ Only [.taps] [Reg.tapLastErr p, Reg.tapCnt p 5, Reg.tapEvt p] s t) ∧
        (o ≠ none → kind.val ≠ 4 → (tap s p).reserve.length ≤ (tap s p).captured.length →
          Ends (.blockError p kind octet o) s fun t =>
            fget t (Reg.tapLastErr p) 31 24 = kind.val ∧ rd t (Reg.tapCnt p 5) = (rd s (Reg.tapCnt p 5) + 1) % 2 ^ 48 ∧
            rd t (Reg.tapCnt p 2) = (rd s (Reg.tapCnt p 2) + 1) % 2 ^ 48 ∧ flag t (Reg.tapEvt p) 4 = true ∧
            (tap t p).state = (tap s p).state ∧ (tap t p).reserve = (tap s p).reserve ∧
            tapsBut p s t ∧ Only [.taps] [Reg.tapLastErr p, Reg.tapCnt p 5, Reg.tapCnt p 2, Reg.tapEvt p] s t)) ∧
      (kind.val = 1 → 15 ≤ (if 25 * (s.cycle - (tap s p).lockAt) / 8192 = (tap s p).hdrWin then (tap s p).hdrBad else 0) →
        Ends (.blockError p kind octet o) s fun t =>
          (tap t p).state = 1 ∧ fget t (Reg.tapLastErr p) 31 24 = 9 ∧ (tap t p).reserve = (tap s p).reserve ∧
          tapsBut p s t ∧ keepsUnits [.taps, .mil, .rgl] s t))

/-- A captured descriptor is accepted 12 cycles after its last block on the head tag; a verdict leaves in three blocks (R15, R18, R19, R22, R32, R132, R136, R147). -/
def Obligations.DescriptorIsCapturedThenAcceptedTwelveCyclesLater : Prop :=
  ∀ (s : State) (p : Fin 32), awake s = true →
    (∀ (bytes : List Byte) (ctl ago : Nat), (tap s p).state = 4 ∧
        (tap s p).captured.length < (tap s p).reserve.length ∧ kindOk bytes = true ∧ ctl ≤ 4 → Ends (.dscReceive p bytes ctl ago) s fun t =>
      (tap t p).captured = (tap s p).captured ++ [⟨s.cycle, bytes, stampAgo s ago, false⟩] ∧
      (tap t p).reserve = (tap s p).reserve ∧ tapsBut p s t ∧ Only [.taps] [] s t) ∧
    (∀ c rest tag l, (tap s p).captured = c :: rest ∧ c.at_ + 12 ≤ s.cycle ∧ c.bad = false ∧ dscCrcOk c.bytes = true ∧
        (tap s p).reserve = tag :: l → Ends (.descriptorAccept p) s fun t =>
      (tap t p).captured = rest ∧ (tap t p).reserve = l ∧ (tap t p).received = (tap s p).received + 1 ∧
      t.vrd.epoch.nat tag = (s.vrd.epoch.nat tag + 1) % 64 ∧
      (∃ f ∈ t.vrd.flights, f.tag = tag ∧ f.port = p ∧ f.acc = c.at_ + 12 ∧ f.stamp = c.stamp ∧ f.bytes = c.bytes ∧
        f.selected = false) ∧
      rd t (Reg.tapCnt p 0) = (rd s (Reg.tapCnt p 0) + 1) % 2 ^ 48 ∧
      tapsBut p s t ∧ Only [.taps, .vrd, .intg] (Reg.tapCnt p 0 :: flipRegs ++ ledgerRegs) s t) ∧
    (∀ c rest tag l, (tap s p).captured = c :: rest ∧ c.at_ + 12 ≤ s.cycle ∧ c.bad = false ∧ dscCrcOk c.bytes = false ∧
        (tap s p).reserve = tag :: l ∧ (tap s p).state = 4 → Ends (.descriptorAccept p) s fun t =>
      (tap t p).captured = rest ∧ (tap t p).reserve = l ++ [tag] ∧ t.vrd = s.vrd ∧
      fget t (Reg.tapLastErr p) 31 24 = 6 ∧
      rd t (Reg.tapCnt p 1) = (rd s (Reg.tapCnt p 1) + 1) % 2 ^ 48 ∧
      rd t (Reg.vrdEvtCnt 5) = (rd s (Reg.vrdEvtCnt 5) + 1) % 2 ^ 48 ∧
      tapsBut p s t ∧ Only [.taps] ([Reg.tapLastErr p, Reg.tapCnt p 1, Reg.vrdEvtCnt 5, Reg.tapEvt p] ++ ledgerRegs) s t) ∧
    (∀ v, (tap s p).state = 4 ∧ atBoundary s p = true ∧ markDue s p = false ∧ (tap s p).txData = [] ∧
        minByKey (fun (x : TxVerdict) => x.release * 2 ^ 64 + x.acc) (tap s p).txq = some v ∧
        max (v.release + 10) (tap s p).txFreeAt ≤ s.cycle →
      Ends (.verdictTransmit p) s fun t =>
        (tap t p).txq = (tap s p).txq.erase v ∧ (tap t p).txData = verdictData v.verdict ∧
        .tapCtl p 0x87 (verdictStart v.verdict) ∈ t.out ∧ (tap t p).sent = (tap s p).sent ∧
        tapsBut p s t ∧ Only [.taps] [Reg.vrdEvtCnt 7] s t) ∧
    (∀ d rest, (tap s p).state = 4 ∧ (tap s p).txData = d :: rest ∧ (tap s p).txAt < 50 * s.cycle ∧ markDue s p = false →
      (tap (fillBlock s p) p).txData = rest ∧ (fillBlock s p).out = s.out ++ [.tapData p d] ∧
      (rest = [] → (tap (fillBlock s p) p).sent = ((tap s p).sent + 1) % 65536 ∧
        rd (fillBlock s p) (Reg.tapCnt p 3) = (rd s (Reg.tapCnt p 3) + 1) % 2 ^ 48) ∧
      tapsBut p s (fillBlock s p) ∧ Only [.taps] [Reg.tapCnt p 3] s (fillBlock s p))

/-- The profile selector takes descriptors in acceptance order, then by port, and gives each its profile or NOTREADY (R34, R159, R160, R166, R169, R182). -/
def Obligations.SelectorServesInAcceptanceOrderAndGivesTheProfile : Prop :=
  ∀ (s : State) (f : Flight), awake s = true →
    (nextSelect s = some f → f.oldRecs = [] →
      (f ∈ s.vrd.flights ∧ f.selected = false ∧ f.acc + 3 ≤ s.cycle ∧
        (∀ g ∈ s.vrd.flights, g.selected = false → g.acc + 3 ≤ s.cycle →
          f.acc * 32 + f.port ≤ g.acc * 32 + g.port) ∧ selUsed s < 4) ∧
      (∀ n d, selectProfile s (selectorKey f.selPort f.bytes) = (some n, d) → Ends .profileSelect s fun t =>
        (∃ g ∈ t.vrd.flights, g.tag = f.tag ∧ g.selected = true ∧ g.selAt = s.cycle ∧ g.profile = n ∧ g.acc = f.acc ∧
          g.notReady = (f.notReady || !bitOf f.enabled n) ∧
          (bitOf f.enabled n = true → g.recw = profRecord s n ∧ g.deadline = bitsOf ((profRecord s n).getD 0 0) 14 0)) ∧
        rd t (Reg.cblCnt 0) = (rd s (Reg.cblCnt 0) + 1) % 2 ^ 48 ∧
        rd t (Reg.cblCnt (2 + n)) = (rd s (Reg.cblCnt (2 + n)) + 1) % 2 ^ 48 ∧
        selUsed t = selUsed s + 1 ∧ t.cbl.freeAt = s.cbl.freeAt ∧
        Only [.vrd, .cbl, .intg] ([Reg.cblCnt 0, Reg.cblCnt 1, Reg.cblCnt (2 + n)] ++ readRegs 0xC) s t) ∧
      (∀ d, selectProfile s (selectorKey f.selPort f.bytes) = (none, d) → Ends .profileSelect s fun t =>
        (∃ g ∈ t.vrd.flights, g.tag = f.tag ∧ g.selected = true ∧ g.notReady = true ∧ g.deadline = 48) ∧
        selUsed t = selUsed s + 1 ∧ t.cbl.freeAt = s.cbl.freeAt ∧ Only [.vrd, .cbl] [Reg.cblCnt 0, Reg.cblCnt 1] s t)) ∧
    (4 ≤ selUsed s → Ends .profileSelect s fun t => Only [] [] s t) ∧
    (∀ c, nextCobbler s = some f → freeCobbler s = some c → Ends .cobblerStart s fun t =>
      f.selAt < s.cycle ∧ (∀ b, b < c → s.cycle < s.cbl.freeAt.nat b) ∧ s.cbl.freeAt.nat c ≤ s.cycle ∧
      t.cbl.waitMax = max s.cbl.waitMax (s.cycle - (f.acc + 4)) ∧
      t.cbl.freeAt.nat c = s.cycle + cdiv (programOf s (bitsOf (recWord f 0) 23 16)).length 2 ∧
      (∀ b, b ≠ c → t.cbl.freeAt.nat b = s.cbl.freeAt.nat b) ∧
      keepsUnits [.cbl, .hsh, .intg, .rgl, .spm, .tcr, .vrd, .way, .wlt] s t)

/-- Slot and granule grants: what a grant takes, charges and starts (R191, R198, R201, R346, R349, R352, R353, R441, R444). -/
def Obligations.RegulatorGrantsTheFirstRankedRequest : Prop :=
  ∀ (s : State), awake s = true →
    (∀ r tag epoch n table key stamp, bestSearch s = some r →
      r.purpose = .slotSearch (.desc tag epoch n) table key stamp →
      slotsUsed s = (false, false) → actLevel s = 0 → Ends .slotGrant s fun t =>
        (∀ x ∈ t.rgl.reqs, x.id ≠ r.id) ∧ slotsUsed t = (true, false) ∧
        t.rgl.slotGot.nat (clsOf s r.master) = s.rgl.slotGot.nat (clsOf s r.master) + 1 ∧
        (∃ a ∈ t.vrd.answers, a.due = s.cycle + 20 ∧ a.who = .desc tag epoch n ∧ a.ternary = true) ∧
        keepsUnits [.rgl, .vrd, .intg] s t) ∧
    (∀ b g, nextRedirected (runFilters s) = none → (runFilters s).drc.clearDone = true → gransUsed (runFilters s) < 2 → bestGran (runFilters s) = some b →
      nextGran (runFilters s) (dmaPick (runFilters s) b) = some g → Ends .granuleGrant s fun t =>
        gransUsed t = gransUsed (runFilters s) + 1 ∧
        (g.write = false → heldOn (runFilters s) g.g = none → ∃ x ∈ t.drc.reads, x.g = g.g ∧ x.due = s.cycle + 180) ∧
        (g.write = true → g.held = false → ∃ w ∈ t.drc.writes, w.gran = g ∧ w.ackAt = some (s.cycle + 200)) ∧
        keepsUnits [.drc, .hsh, .intg, .rgl, .vrd, .wlt] s t)

/-- Reads, acknowledgements and held writes: each due event is taken once and reaches its requester (R323, R354, R441). -/
def Obligations.MemoryTrafficReturnsToItsRequester : Prop :=
  ∀ (s : State), awake s = true →
    (∀ r, dueRead s = some r → Ends .granuleReadDone s fun t =>
      (∀ x ∈ t.drc.reads, x ∈ s.drc.reads ∧ x.rid ≠ r.rid) ∧
      keepsUnits [.age, .dma, .draws, .drc, .host, .hsh, .intg, .rgl, .spm, .tcr, .vrd, .way, .wlt] s t) ∧
    (∀ w, dueAck s = some w → Ends .writeAck s fun t =>
      t.drc.writes = s.drc.writes.filter (fun x => x.wid ≠ w.wid) ∧ t.drc.reads = s.drc.reads ∧ t.drc.mem = s.drc.mem ∧
      keepsUnits [.age, .dma, .draws, .drc, .host, .hsh, .intg, .rgl, .spm, .tcr, .vrd, .way] s t) ∧
    (∀ w, servable s = some w → Ends .heldWriteServe s fun t =>
      (∃ x ∈ t.drc.writes, x.wid = w.wid ∧ x.ackAt = some (s.cycle + 200)) ∧
      keepsUnits [.drc, .hsh, .intg, .rgl] s t)

/-- Measurement windows, latency misses, refresh and its rate: what each changes and what it leaves alone (R349, R356, R358, R360, R442). -/
def Obligations.WindowsMissesAndRefreshKeepTheirAccounts : Prop :=
  ∀ (s : State), awake s = true →
    (s.rgl.windowAt < s.cycle / 800 → s.rgl.budgetOn = true → s.rgl.dirty = false →
      Ends .measurementWindowStart s fun t =>
        t.rgl.windowAt = s.cycle / 800 ∧ t.rgl.slotLeft = s.rgl.coverS ∧ t.rgl.granLeft = s.rgl.coverG ∧
        t.rgl.slotGot = [] ∧ t.rgl.granGot = [] ∧
        t.rgl.reqs = s.rgl.reqs.map (fun r => if r.since = s.cycle then
          { r with under := decide (account t r.slot (clsOf s r.master) > 0) } else r) ∧ Only [.rgl] [] s t) ∧
    (∀ r, latencyMissOf s = some r → Ends .latencyMiss s fun t =>
      (∀ x ∈ t.rgl.reqs, x.id = r.id → x.missed = true) ∧ flag t Reg.rglEvt 0 = true ∧
      rd t (Reg.rglCnt (clsOf s r.master) 5) = (rd s (Reg.rglCnt (clsOf s r.master) 5) + 1) % 2 ^ 48 ∧
      keepsUnits [.rgl] s t) ∧
    (∀ pair : Fin 4, s.drc.trained = true → s.drc.pairs.length = 4 → (pairAt s pair).nextRefresh ≤ s.cycle →
      (pairAt s pair).postponed = 0 → Ends (.refresh pair false) s fun t =>
        (pairAt t pair).freeAt = max s.cycle (pairAt s pair).freeAt + 94 ∧
        (pairAt t pair).nextRefresh = (pairAt s pair).nextRefresh + refreshEvery s ∧
        (∀ q, q ≠ pair.val → pairAt t q = pairAt s q) ∧ t.drc.mem = s.drc.mem ∧
        rd t (Reg.drcCnt 0) = (rd s (Reg.drcCnt 0) + 1) % 2 ^ 48 ∧ Only [.drc] [Reg.drcCnt 0] s t) ∧
    (∀ temp : BitVec 8, Ends (.refreshRateChange temp) s fun t =>
      t.drc.temp = temp.toNat ∧ t.drc.double = (if s.drc.double then decide (146 < temp.toNat) else decide (149 < temp.toNat)) ∧
      t.drc.mem = s.drc.mem ∧ keepsUnits [.drc, .rgl] s t)

/-- Answers reach the search of their tag and epoch or are counted late; composition and release serve the descriptor due (R22, R25, R30, R33, R37, R41, R42, R176, R191). -/
def Obligations.AnswersCompositionAndReleaseFollowTheTag : Prop :=
  ∀ (s : State), awake s = true →
    (∀ (b : Bool) a tag epoch n f, s.vrd.answers.find? (fun x => x.ternary && decide (x.due ≤ s.cycle)) = some a →
      a.who = .desc tag epoch n → flightOf s tag = some f →
      Ends (.ternaryAnswer b) s fun t =>
        t.vrd.answers = s.vrd.answers.erase a ∧
        (f.epoch = epoch → ∃ g ∈ t.vrd.flights, g.tag = tag ∧ ∀ x, f.searches[n]? = some x →
          g.searches[n]? = some { x with ans := some (a.due, a.ans) }) ∧
        (f.epoch ≠ epoch → t.vrd.flights = s.vrd.flights ∧
          rd t (Reg.vrdEvtCnt 6) = (rd s (Reg.vrdEvtCnt 6) + 1) % 2 ^ 48) ∧
        Only [.vrd] [Reg.vrdEvtCnt 6] s t) ∧
    (∀ f, nextCompose (deliverDue s) = some f → Ends .composeStart s fun t =>
      (∃ g ∈ t.vrd.flights, g.tag = f.tag ∧ g.composed = some (composeAt f)) ∧
      keepsUnits [.draws, .intg, .lrn, .tcr, .tol, .vrd, .way, .wlt] s t) ∧
    (∀ f, nextRelease s = some f → Ends .verdictRelease s fun t =>
      f.acc + f.deadline ≤ s.cycle ∧ f.tag ∉ t.vrd.taken ∧ (∀ g ∈ t.vrd.flights, g.tag ≠ f.tag) ∧
      rd t (Reg.vrdEvtCnt 0) = (rd s (Reg.vrdEvtCnt 0) + 1) % 2 ^ 48 ∧
      keepsUnits [.draws, .intg, .lrn, .rgl, .taps, .tcr, .tol, .vrd, .way, .wlt] s t) ∧
    (∀ (m : Requester) (v : BitVec 32), mayWrite s m Reg.topLedgerStat 4 = true → Ends (.ledgerFaultClear m v) s fun t =>
      fget t Reg.topLedgerStat 6 0 =
        (fget s Reg.topLedgerStat 6 0 - (fget s Reg.topLedgerStat 6 0 &&& bitsOf v.toNat 6 0)) |||
          (fget s Reg.topLedgerStat 6 0 &&& bitsOf (evtMask s Reg.topLedgerStat) 6 0) ∧
      (fget t Reg.topLedgerStat 6 0 = 0 → rd t Reg.topLedgerStat = 0) ∧
      (fget t Reg.topLedgerStat 6 0 ≠ 0 → flag t Reg.topLedgerStat 7 = flag s Reg.topLedgerStat 7) ∧
      Only [] (Reg.topLedgerStat :: portRegs m) s t)

/-- VAON, PGOOD, brownout and RESET_N: where each takes the device and what it keeps (R487, R488, R495, R496, R526, R533). -/
def Obligations.SuppliesAndResetPinMoveThePowerState : Prop :=
  ∀ (s : State),
    (s.pwr.st = .off → Ends .vaonApply s fun t =>
      t.pwr.st = .starting ∧ t.pwr.reqHigh = true ∧ t.pwr.causes = [1] ∧ t.spm = State.reset.spm ∧ t.drc = State.reset.drc ∧
      t.nvc.mem = s.nvc.mem ∧ ∀ o, o ∉ msgRegs → rd t o = (regDefault o).toNat) ∧
    (Ends .vaonLoss s fun t => t.pwr.st = .off ∧ t.pwr.reqHigh = false ∧ ∀ o, o ∉ msgRegs → rd t o = (regDefault o).toNat) ∧
    (Ends .pgoodRise s fun t => t.pwr = { s.pwr with pgood := true } ∧ Only [.pwr] [] s t) ∧
    (s.pwr.st = .parking → s.pwr.reqHigh = false → Ends .pgoodFall s fun t =>
      t.pwr.st = .park ∧ t.pwr.pgood = false ∧ t.pwr.dwellOver = false ∧ t.pwr.lowAt = rd s Reg.milAonCnt ∧
      Only [.pwr] [] s t) ∧
    (awake s = true → s.pwr.reqHigh = true → Ends .pgoodFall s fun t =>
      t.pwr.st = .starting ∧ t.pwr.causes = [3] ∧ t.pwr.pgood = false ∧ t.nvc.ops = [] ∧ t.taps = [] ∧
      keepsUnits [.pwr, .nvc, .taps, .wlt] s t) ∧
    (awake s = true → s.pwr.reqHigh = true → Ends .brownout s fun t =>
      t.pwr.st = .starting ∧ t.pwr.causes = [3] ∧ t.pwr.pgood = s.pwr.pgood ∧ t.nvc.ops = [] ∧ t.taps = [] ∧
      keepsUnits [.pwr, .nvc, .taps, .wlt] s t) ∧
    (s.pwr.pgood = true → s.pwr.st ≠ .off → s.pwr.st ≠ .park → Ends .resetPin s fun t =>
      t.pwr.st = .starting ∧ 2 ∈ t.pwr.causes ∧ t.nvc.ops = [] ∧ t.taps = [] ∧ keepsUnits [.pwr, .nvc, .taps, .wlt] s t) ∧
    (s.pwr.st = .park → Ends .resetPin s fun t =>
      t.pwr = { s.pwr with causes := 2 :: s.pwr.causes } ∧ Only [.pwr] [] s t)

/-- Entering WOKEN: memories and registers at reset, the always-on registers kept, a pending life-cycle state in force (R445, R446, R488, R495, R496, R510). -/
def Obligations.EveryStartResetsAllButTheAlwaysOnDomain : Prop :=
  ∀ (s : State) (straps : Fin 8), s.pwr.st = .starting → s.pwr.pgood = true → Ends (.woken straps) s fun t =>
    t.pwr.st = .woken ∧ t.img.straps = straps.val ∧ t.spm = State.reset.spm ∧ t.drc = State.reset.drc ∧
    t.tca = State.reset.tca ∧ t.hsh = State.reset.hsh ∧ t.way = State.reset.way ∧ t.vrd = State.reset.vrd ∧ t.taps = [] ∧
    t.nvc.mem = s.nvc.mem ∧ (s.lcs.op = none → t.lcs.keys = s.lcs.keys ∧ t.lcs.secVer = s.lcs.secVer) ∧
    (∀ o, s.lcs.op = some o → o.op = 1 → t.lcs.secVer = s.lcs.secVer ∧ t.lcs.keys = updAt s.lcs.keys o.slot fun k => { k with
      prog := true
      partly := true }) ∧ t.lcs.op = none ∧
    t.lcs.lcState = (match s.lcs.pend with
      | some p => p
      | none => s.lcs.lcState) ∧ t.lcs.pend = none ∧
    (∀ o ∈ aonRegs, rd t o = rd s o) ∧
    (∀ o, o ∉ aonRegs → o ∉ msgRegs → o ∉ [Reg.pwrStartCause, Reg.pwrEvt, Reg.intEvt, Reg.intTcaRetire, Reg.nvcLastTime,
      Reg.nvcLastStat, Reg.imgProg, Reg.imgTotal, Reg.nvcCkptProg, Reg.nvcCkptTotal] → rd t o = (regDefault o).toNat) ∧
    (s.pwr.causes = [1] → fget t Reg.pwrStartCause 31 30 = 1 ∧ fget t Reg.pwrStartCause 29 24 = 1 ∧ t.pwr.warmStart = false)

/-- DRAM training, the clear and READY, and the end of a checkpoint write (R443, R444, R489, R504, R505). -/
def Obligations.StartStepsEndInReady : Prop :=
  ∀ (s : State), awake s = true →
    (∀ b : Bool, s.drc.trained = false → wipeFirst s = false → Ends (.dramTraining b) s fun t =>
      t.drc.trained = true ∧ (∀ p : Fin 4, (pairAt t p).nextRefresh = s.cycle + 3120) ∧ t.drc.mem = s.drc.mem ∧
      (s.pwr.warmStart = false → t.intg.recordDirty = true) ∧ keepsUnits [.drc, .intg] s t) ∧
    (∀ c, s.drc.clearFrom = some c → s.drc.clearDone = false → Ends .dramClearEnd s fun t =>
      t.drc.clearDone = true ∧ (∀ a, memByte t.drc.mem a = 0) ∧ progOn t Reg.drcClrProg = false ∧
      Only [.drc] [Reg.drcClrProg] s t) ∧
    (readyOk s = true → Ends .ready s fun t =>
      t.pwr.st = .ready ∧ flag t Reg.pwrEvt 4 = true ∧ t.nvc.seq = (s.nvc.seq + 1) % 2 ^ 32 ∧
      (∃ o ∈ t.nvc.ops, o.kind = 2 ∧ o.addr = ringSlot s.nvc.seq) ∧ keepsUnits [.pwr, .nvc, .mil] s t) ∧
    (∀ o rest, s.nvc.ops = o :: rest → o.since + 200 * o.total ≤ s.cycle → Ends .checkpointWriteDone s fun t =>
      t.nvc.ops.length = rest.length ∧ flag t Reg.nvcEvt 0 = true ∧ keepsUnits [.nvc, .seq] s t)

/-- PARK requests, the end of grace, a PARK that fails, wakes and forced cold starts (R490, R491, R493, R494, R496, R512). -/
def Obligations.ParkIsRequestedGrantedOrRefused : Prop :=
  ∀ (s : State),
    (∀ m, mayWrite s m Reg.pwrCtrl 4 = true → s.pwr.st = .staged ∨ s.pwr.st = .ready ∨ (s.pwr.st = .woken ∧ flag s Reg.imgStat 30 = true) →
      Ends (.parkRequest m 0x5041) s fun t =>
        t.pwr.st = .parking ∧ t.pwr.prev = s.pwr.st ∧ t.pwr.stopGrants = false ∧ flag t Reg.pwrEvt 0 = true ∧
        Only [.pwr] (Reg.pwrEvt :: portRegs m) s t) ∧
    (∀ m key, mayWrite s m Reg.pwrCtrl 4 = true → key ≠ 0x5041 → Ends (.parkRequest m key) s fun t =>
        flag t Reg.topErr 0 = true ∧ Only [] (errRegs ++ portRegs m) s t) ∧
    (∀ (wake : Fin 16) (tamper : Fin 4), s.pwr.st = .parking → s.pwr.stopGrants = false → s.pwr.graceEnd ≤ s.cycle →
      (rd s Reg.pwrHold ≠ 0 ∨ rd s Reg.pwrHoldMs ≠ 0 → Ends (.graceEnd wake tamper) s fun t =>
        t.pwr.st = s.pwr.prev ∧ fget t Reg.pwrStat 27 24 = 1 ∧ flag t Reg.pwrEvt 1 = true ∧
        Only [.pwr] [Reg.pwrStat, Reg.pwrEvt] s t) ∧
      (abortWhy { s with pwr := { s.pwr with
          wakeLevel := wake.val
          tamperLevel := tamper.val } } = 0 → Ends (.graceEnd wake tamper) s fun t =>
        t.pwr.st = .parking ∧ t.pwr.stopGrants = true ∧ t.pwr.commitAt = s.cycle ∧ Only [.pwr] [] s t)) ∧
    (s.pwr.st = .parking → s.pwr.reqHigh = false → s.pwr.pgood = true → s.pwr.lowAt + 8000000 ≤ s.cycle →
      Ends .parkFail s fun t => t.pwr.st = .starting ∧ t.pwr.causes = [0x11] ∧ t.pwr.reqHigh = true ∧ t.taps = [] ∧
        Only [.pwr, .taps, .wlt] [] s t) ∧
    (∀ n : Fin 6, s.pwr.st = .park → wakeEnabled s n = true → Ends (.wakeEvent n) s fun t =>
      flag t Reg.pwrWakeSrc n = true ∧ t.pwr.st = (if s.pwr.dwellOver then .starting else .park) ∧
      t.pwr.wake = !s.pwr.dwellOver ∧ Only [.pwr, .taps, .wlt] [Reg.pwrWakeSrc] s t) ∧
    (∀ n : Fin 6, s.pwr.st = .starting → s.pwr.pgood = false → wakeEnabled s n = true → Ends (.wakeEvent n) s fun t =>
      flag t Reg.pwrWakeSrc n = true ∧ Only [] [Reg.pwrWakeSrc] s t) ∧
    (s.pwr.st = .park → s.pwr.dwellOver = false → s.pwr.lowAt + 33 ≤ rd s Reg.milAonCnt → Ends .wakeDwellEnd s fun t =>
      t.pwr.dwellOver = true ∧ t.pwr.st = (if s.pwr.wake then .starting else .park) ∧ Only [.pwr, .taps, .wlt] [] s t) ∧
    (∀ m, mayWrite s m Reg.pwrCtrl 4 = true → m = .spi ∨ m = .pcie0 → Ends (.cold m 0x434F) s fun t =>
      t.pwr.st = .starting ∧ t.pwr.causes = [4] ∧ t.nvc.ops = [] ∧ t.taps = [] ∧
      keepsUnits [.pwr, .nvc, .taps, .wlt] s t)

/-- Time-state records, the integrity record, RELOAD_NEXT and word access of the checkpoint store (R80, R434, R503, R504, R505, R507, R514). -/
def Obligations.CheckpointStoreRecordsAndAccess : Prop :=
  ∀ (s : State), awake s = true →
    (s.pwr.st.active = true → fget s Reg.nvcCkptCtrl 11 0 ≠ 0 →
      s.nvc.lastRec + fget s Reg.nvcCkptCtrl 11 0 * 1000000000 ≤ nowNs s → Ends .timeStateRecord s fun t =>
        t.nvc.seq = (s.nvc.seq + 1) % 2 ^ 32 ∧ t.nvc.lastRec = nowNs s ∧ t.nvc.mem = s.nvc.mem ∧
        (∃ o, t.nvc.ops = s.nvc.ops ++ [o] ∧ o.kind = 2 ∧ o.addr = ringSlot s.nvc.seq ∧ o.total = 32) ∧
        Only [.nvc] [Reg.nvcCkptProg, Reg.nvcCkptTotal] s t) ∧
    (∀ m v, mayWrite s m Reg.nvcCkptCtrl 4 = true → bitOf v.toNat 31 = true → Ends (.ckptGo m v) s fun t =>
        t.nvc.seq = (s.nvc.seq + 1) % 2 ^ 32 ∧ t.nvc.mem = s.nvc.mem ∧
        (∃ o, t.nvc.ops = s.nvc.ops ++ [o] ∧ o.kind = 2 ∧ o.addr = ringSlot s.nvc.seq) ∧
        Only [.nvc] ([Reg.nvcCkptCtrl, Reg.nvcCkptProg, Reg.nvcCkptTotal] ++ errRegs ++ portRegs m) s t) ∧
    (s.intg.recordDirty = true → Ends .integrityRecordWrite s fun t =>
        t.intg.recordDirty = false ∧ (∃ o, t.nvc.ops = s.nvc.ops ++ [o] ∧ o.kind = 1) ∧ t.nvc.mem = s.nvc.mem ∧
        Only [.nvc, .intg] [Reg.nvcCkptProg, Reg.nvcCkptTotal] s t) ∧
    (∀ m, mayWrite s m Reg.imgCtrl 4 = true → Ends (.reloadNext m) s fun t =>
        cfgWhy t = 1 ∧ flag t Reg.imgStat 24 = false ∧
        (∀ a, a < 0x20000C ∨ 0x200010 ≤ a → memByte t.nvc.mem a = memByte s.nvc.mem a) ∧
        Only [.nvc] ([Reg.imgStat, Reg.nvcCkptProg, Reg.nvcCkptTotal] ++ portRegs m) s t) ∧
    (∀ a rest, s.nvc.acc = a :: rest → s.nvc.accAt + (if a.write then 200 else 16) ≤ s.cycle → s.nvc.wipeAt = none →
      (nvcAccDone s).nvc.acc = rest ∧
      (a.write = false → rd (nvcAccDone s) Reg.nvcAccData = ofLe (memBytes s.nvc.mem a.addr 8) ∧
        (nvcAccDone s).nvc.mem = s.nvc.mem) ∧
      (a.write = true → memBytes (nvcAccDone s).nvc.mem a.addr 8 = leBytes 8 a.data ∧
        (∀ b, b < a.addr ∨ a.addr + 8 ≤ b → memByte (nvcAccDone s).nvc.mem b = memByte s.nvc.mem b) ∧
        flag (nvcAccDone s) Reg.nvcEvt 0 = true) ∧
      Only [.nvc] [Reg.nvcAccCmd, Reg.nvcAccData, Reg.nvcEvt, Reg.nvcCkptProg, Reg.nvcCkptTotal] s (nvcAccDone s)) ∧
    (∀ m, mayWrite s m Reg.nvcAccCmd 4 = true →
      (nvcOpen s m (fget s Reg.nvcAccAddr 21 3 * 8) = true → ∀ write : Bool,
        Ends (if write then .nvcAccWrite m else .nvcAccRead m) s fun t =>
          t.nvc.acc = s.nvc.acc ++ [⟨true, write, fget s Reg.nvcAccAddr 21 3 * 8, rd s Reg.nvcAccData⟩] ∧
          flag t Reg.nvcAccCmd 29 = true ∧ t.nvc.mem = s.nvc.mem ∧
          Only [.nvc] ([Reg.nvcAccCmd, Reg.nvcCkptProg, Reg.nvcCkptTotal] ++ portRegs m) s t) ∧
      (nvcOpen s m (fget s Reg.nvcAccAddr 21 3 * 8) = false →
        (Ends (.nvcAccRead m) s fun t =>
          flag t Reg.nvcEvt 3 = true ∧ Only [] ([Reg.nvcAccData, Reg.nvcEvt] ++ portRegs m) s t) ∧
        (Ends (.nvcAccWrite m) s fun t => flag t Reg.nvcEvt 3 = true ∧ Only [] (Reg.nvcEvt :: portRegs m) s t)))

/-- Life-cycle operations are issued under their conditions and take effect when their last fuse word is programmed (R67, R508, R509, R510, R515). -/
def Obligations.LifeCycleOperationsProgramFuses : Prop :=
  ∀ (s : State) (m : Requester),
    (mayWrite s m Reg.lcsCmd 4 = true → m = .pcie0 ∨ m = .spi ∨ benchSecure s m = true → s.lcs.op = none →
      s.pwr.st ≠ .parking →
      (∀ slot : Fin 4, s.lcs.lcState ≤ 1 → (keySlot s slot).prog = false → fget s Reg.lcsTokenAddr 18 0 + 32 ≤ vaultBase →
        Ends (.keySet m slot) s fun t =>
          ∃ o, t.lcs.op = some o ∧ o.op = 1 ∧ o.slot = slot.val ∧ o.left = 8 ∧ o.since = s.cycle ∧ t.lcs.keys = s.lcs.keys) ∧
      (∀ slot : Fin 4, s.lcs.lcState = 1 → (∃ k : Fin 4, k ≠ slot ∧ slotGood s k = true) → Ends (.keyRevoke m slot) s fun t =>
          (∃ o, t.lcs.op = some o ∧ o.op = 2 ∧ o.slot = slot.val) ∧ Only [.lcs] (portRegs m) s t) ∧
      (∀ arg : Fin 128, s.lcs.lcState = 1 → s.lcs.secVer < arg.val → arg.val ≤ 64 → Ends (.secVer m arg) s fun t =>
          (∃ o, t.lcs.op = some o ∧ o.op = 3 ∧ o.arg = arg.val) ∧ t.lcs.secVer = s.lcs.secVer ∧ Only [.lcs] (portRegs m) s t) ∧
      (s.lcs.lcState = 0 → (∃ k ∈ s.lcs.keys, k.prog = true) → Ends (.toDevelop m) s fun t =>
          (∃ o, t.lcs.op = some o ∧ o.op = 4) ∧ t.lcs.lcState = 0 ∧ Only [.lcs] (portRegs m) s t) ∧
      (s.lcs.lcState = 1 → (∃ k : Fin 4, slotGood s k = true) → Ends (.toProduce m) s fun t =>
          (∃ o, t.lcs.op = some o ∧ o.op = 5) ∧ t.lcs.lcState = 1 ∧ Only [.lcs] (portRegs m) s t) ∧
      (s.lcs.lcState = 2 → fget s Reg.lcsTokenAddr 18 0 + 128 ≤ vaultBase →
        tokenOk s 6 0 0 (spmRead s 50 (fget s Reg.lcsTokenAddr 18 0) 128).2.1 = true → Ends (.toReturn m) s fun t =>
          (∃ o, t.lcs.op = some o ∧ o.op = 6) ∧ t.lcs.lcState = 2)) ∧
    (awake s = true → ∀ o, s.lcs.op = some o → o.since + 800000 ≤ s.cycle →
      (1 < o.left → Ends (.fuseProgramDone true) s fun t =>
        t.lcs.op = some { o with
          left := o.left - 1
          since := s.cycle } ∧
        t.nvc.wipeAt = (if fget s Reg.lcsTamper 1 0 ≠ 0 ∧ s.nvc.wipeAt.isNone ∧ s.pwr.reqHigh then some s.cycle
          else s.nvc.wipeAt) ∧
        Only [.lcs, .nvc] [Reg.nvcCkptProg, Reg.nvcCkptTotal] s t) ∧
      (o.left ≤ 1 → o.op = 3 → Ends (.fuseProgramDone true) s fun t =>
        t.lcs.secVer = o.arg ∧ t.lcs.op = none ∧ t.lcs.result = 0 ∧ flag t Reg.lcsEvt 1 = true ∧
        t.nvc.mem = s.nvc.mem ∧ Only [.lcs, .nvc] [Reg.lcsEvt, Reg.nvcCkptProg, Reg.nvcCkptTotal] s t) ∧
      (o.left ≤ 1 → o.op = 5 → Ends (.fuseProgramDone true) s fun t =>
        t.lcs.pend = some 2 ∧ t.lcs.lcState = s.lcs.lcState ∧ t.lcs.op = none ∧ t.lcs.result = 0 ∧ cfgWhy t = 2 ∧
        t.nvc.wipeAt = some s.cycle ∧ flag t Reg.lcsEvt 1 = true ∧ flag t Reg.imgStat 24 = false ∧
        Only [.lcs, .nvc] [Reg.lcsEvt, Reg.imgStat, Reg.nvcCkptProg, Reg.nvcCkptTotal] s t))

/-- A tamper event on an enabled input is latched and starts the wipe; its end leaves vault and sealed area zero and nothing else (R419, R507, R511). -/
def Obligations.TamperWipesVaultAndSealedArea : Prop :=
  ∀ (s : State), awake s = true →
    (∀ k : Fin 2, flag s (Reg.lcsTamperCfg k) 0 = true → s.pwr.reqHigh = true → Ends (.tamper k) s fun t =>
      flag t Reg.lcsTamper k = true ∧ t.nvc.wipeAt = (if s.lcs.op.isSome then s.nvc.wipeAt else some s.cycle) ∧
      flag t Reg.lcsEvt 0 = true ∧ t.nvc.mem = s.nvc.mem ∧
      Only [.nvc] [Reg.lcsTamper, Reg.lcsEvt, Reg.nvcCkptProg, Reg.nvcCkptTotal] s t) ∧
    (∀ c, s.nvc.wipeAt = some c → s.cycle = c + 4096 →
      (∀ a, memByte (vaultTick s).spm.mem a = if vaultBase ≤ a ∧ a < spmSize then 0 else memByte s.spm.mem a) ∧
      flag (vaultTick s) Reg.spmEvt 3 = true ∧ keepsUnits [.spm, .intg] s (vaultTick s) ∧
      keepsRegs (Reg.spmEvt :: flipRegs) s (vaultTick s)) ∧
    (∀ c, s.nvc.wipeAt = some c → c + 1640000 ≤ s.cycle → Ends .tamperWipeEnd s fun t =>
      (∀ a, memByte t.nvc.mem a = if 0x230000 ≤ a ∧ a < 0x240000 then 0 else memByte s.nvc.mem a) ∧
      fget t Reg.lcsTamper 1 0 = 0 ∧ (fget s Reg.lcsTamper 1 0 ≠ 0 → flag t Reg.lcsEvt 2 = true) ∧
      flag t Reg.nvcEvt 0 = true ∧ t.nvc.wipeAt = none ∧
      Only [.nvc] [Reg.lcsTamper, Reg.lcsEvt, Reg.nvcEvt, Reg.nvcCkptProg, Reg.nvcCkptTotal] s t)

/-- The loader from the ILT to STAGED, host loads, the lock and the flash commands (R51, R53, R66, R68, R73, R76, R81, R82, R84, R85). -/
def Obligations.LoaderReadsAdmitsAndAppliesAnImage : Prop :=
  ∀ (s : State), awake s = true →
    (∀ a b : List Byte, s.pwr.st = .woken → s.pwr.warmStart = false → s.img.phase = .before → wipeFirst s = false → iltOk a = true →
      a.length = 64 → iltOk b = false ∨ fieldAt b 4 4 ≤ fieldAt a 4 4 → fieldAt a 12 4 ≠ 0 → bitOf (fieldAt a 24 4) 0 = false →
      Ends (.iltRead a b) s fun t =>
        t.img.ilt = a ∧ t.img.phase = .fetching ∧ t.img.copy = 0 ∧ progOn t Reg.imgProg = true ∧
        Only [.img] [Reg.imgProg, Reg.imgTotal] s t) ∧
    (s.pwr.st = .woken → s.pwr.warmStart = false → s.img.phase = .fetching → s.img.copy ≤ 1 → Ends .readFail s fun t =>
        fget t Reg.imgStat (if s.img.copy = 1 then 23 else 19) (if s.img.copy = 1 then 20 else 16) = 2 ∧
        (if s.img.last then t.img.phase = .failed ∧ flag t Reg.imgStat 30 = true
          else t.img.phase = .fetching ∧ t.img.copy = 1 - s.img.copy ∧ t.img.last = true) ∧
        Only [.img] [Reg.imgStat, Reg.imgProg, Reg.imgTotal] s t) ∧
    (∀ bytes, s.pwr.st = .woken → s.pwr.warmStart = false → s.img.phase = .fetching → wipeFirst s = false →
      authenticate s bytes (iltLen s s.img.copy) false = (0, 0, 0) → Ends (.imageFetchDone bytes) s fun t =>
        t.img.phase = .admitted ∧ t.img.staged = slice bytes 0 (imgLength bytes) ∧
        Only [.img] [Reg.imgStat, Reg.imgProg, Reg.imgTotal] s t) ∧
    (s.pwr.st = .woken → s.img.phase = .admitted → s.nvc.wipeAt = none → Ends .imageApplyEnd s fun t =>
        t.pwr.st = .staged ∧ t.img.applied = true ∧ t.img.image = s.img.staged ∧ t.img.staged = [] ∧
        t.img.phase = .applied ∧ t.seq.running = true ∧ (lockAfter s s.img.staged = true → locked t = true)) ∧
    (∀ m, mayWrite s m Reg.imgCtrl 4 = true → s.lcs.lcState ≠ 2 → progOn s Reg.imgProg = false → flag s Reg.imgStat 31 = false →
      ∃ t, exec (.hostLoad m) s = .next t ∧ t.img.copy = 2 ∧ keepsUnits [.img, .intg] s t ∧
      (authenticate s (hostImage s).2 (hostSpace s) true = (0, 0, 0) →
        t.img.phase = .admitted ∧ t.img.staged = slice (hostImage s).2 0 (imgLength (hostImage s).2) ∧
        flag t Reg.imgStat 29 = true ∧ flag t Reg.imgStat 30 = false ∧ fget t Reg.imgStat 19 16 = 0 ∧
        progOn t Reg.imgProg = true) ∧
      (∀ (r : Nat) (e : Nat × Nat), 0 < r → r < 16 → authenticate s (hostImage s).2 (hostSpace s) true = (r, e) →
          t.img.phase = .failed ∧ flag t Reg.imgStat 30 = true ∧ flag t Reg.imgStat 29 = false ∧
          fget t Reg.imgStat 19 16 = r)) ∧
    (∀ m, mayWrite s m Reg.imgLock 4 = true → Ends (.lock m) s fun t =>
        locked t = true ∧ Only [] (Reg.imgLock :: portRegs m) s t) ∧
    (∀ (m : Requester) (v : BitVec 32) (data : List Byte), mayWrite s m Reg.imgFcmd 4 = true → bitOf v.toNat 31 = true →
      bitOf v.toNat 18 = true → bitOf v.toNat 17 = true → s.lcs.lcState ≠ 2 → progOn s Reg.imgProg = false →
      flag s Reg.imgFcmd 30 = false → bitsOf v.toNat 16 8 ≤ 256 → Ends (.flashCommand m v data) s fun t =>
        flag t Reg.imgFcmd 30 = true ∧ t.img.poll = some s.cycle ∧
        (∃ addr, .flash (bitsOf v.toNat 7 0) addr [] (bitsOf v.toNat 16 8) ∈ t.out)) ∧
    (∀ (c : Nat) (busy : Bool), s.img.poll = some c → max c s.img.pollAt + 8000 ≤ s.cycle →
      Ends (.flashStatusPoll busy) s fun t =>
        (if busy then t.img.poll = some c ∧ rd t Reg.imgFcmd = rd s Reg.imgFcmd
          else t.img.poll = none ∧ flag t Reg.imgFcmd 30 = false) ∧ .flash 0x05 none [] 1 ∈ t.out ∧
        t.img.pollAt = s.cycle ∧ Only [.img] [Reg.imgFcmd] s t) ∧
    (∀ c, s.img.poll = some c → c + 3200000000 ≤ s.cycle → Ends .flashTimeout s fun t =>
        t.img.poll = none ∧ flag t Reg.imgFcmd 30 = false ∧ flag t Reg.imgFcmd 28 = true ∧ Only [.img] [Reg.imgFcmd] s t)

/-- Corrections: small ones slew, large ones step at their boundary; a backward step never passes an enabled profile (R89, R95, R96, R98, R107). -/
def Obligations.CorrectionsSlewOrStepRoadTime : Prop :=
  ∀ (s : State),
    (∀ (m : Requester) (v : BitVec 64), mayWrite s m Reg.milOffset 8 = true → s.img.weltPos = 0 →
      Ends (.milOffsetWrite m v) s fun t =>
        let c : Int := sextI 48 v.toNat * 2 ^ 32
        t.mil = (if absI c ≤ stepLim s ∨ (c < 0 ∧ anyProfile s = true) then { s.mil with rem := s.mil.rem + c }
          else { s.mil with step := some ((match s.mil.step with
            | some p => p.1
            | none => 0) + c, boundaryFrom s) }) ∧
        flag t Reg.milEvt 4 = (flag s Reg.milEvt 4 || (decide (c < 0) && anyProfile s && decide (stepLim s < absI c))) ∧
        rd t Reg.milOffset = v.toNat % 2 ^ 48 ∧ Only [.mil] ([Reg.milOffset, Reg.milEvt] ++ portRegs m) s t) ∧
    (∀ (m : Requester) (v : BitVec 64), mayWrite s m Reg.milSet 8 = true → s.img.weltPos = 0 →
      Ends (.milSetWrite m v) s fun t =>
        let c : Int := (v.toNat * roadUnit : Nat) - (s.mil.road : Int)
        t.mil.road = s.mil.road ∧
        (absI c ≤ stepLim s ∨ (c < 0 ∧ anyProfile s = true) →
          t.mil.rem = s.mil.rem + c ∧ t.mil.valid = true ∧ t.mil.step = s.mil.step) ∧
        (¬(absI c ≤ stepLim s ∨ (c < 0 ∧ anyProfile s = true)) →
          t.mil.rem = s.mil.rem ∧ t.mil.setStep = true ∧ t.mil.step.map (fun p => p.2) = some (boundaryFrom s)) ∧
        Only [.mil] ([Reg.milSet, Reg.milEvt] ++ portRegs m) s t) ∧
    (∀ (m : Requester) (v : BitVec 64), mayWrite s m Reg.milSet 8 = true → s.img.weltPos ≠ 0 →
      Ends (.milSetWrite m v) s fun t =>
        flag t Reg.milEvt 10 = true ∧ Only [] ([Reg.milSet, Reg.milEvt] ++ portRegs m) s t) ∧
    (∀ p : Int × Nat, awake s = true → s.mil.step = some p → Ends .stepBoundary s fun t =>
      (s.mil.road < p.2 * roadUnit → Only [] [] s t) ∧
      (p.2 * roadUnit ≤ s.mil.road → ¬(p.1 < 0 ∧ anyProfile s = true) →
        t.mil.road = roadWrap (s.mil.road + p.1) ∧ t.mil.rem = s.mil.rem ∧ t.mil.step = none ∧ flag t Reg.milEvt 3 = true ∧
        (0 ≤ p.1 → Only [.mil] (Reg.milEvt :: (List.range 8).map Reg.milTrigCnt) s t)) ∧
      (p.2 * roadUnit ≤ s.mil.road → p.1 < 0 → anyProfile s = true →
        t.mil.road = s.mil.road ∧ t.mil.rem = s.mil.rem + p.1 ∧ t.mil.step = none ∧ flag t Reg.milEvt 4 = true ∧
        Only [.mil] [Reg.milEvt] s t)) ∧
    (awake s = true → s.mil.rem ≠ 0 → slewNow s = 0 → Ends .slewEnd s fun t =>
      t.mil = { s.mil with
        slewTail := s.mil.slewTail + s.mil.rem
        rem := 0 } ∧
      (roadEdge t).mil.road = roadWrap (s.mil.road + (rateShare s.mil.rate + s.mil.slewTail + s.mil.rem)) ∧
      Only [.mil] [] s t)

/-- Source selection, loss, backup and holdover, and the HOST rate (R89, R90, R91, R92, R98, R99). -/
def Obligations.SourcesAreTakenLostAndReplaced : Prop :=
  ∀ (s : State),
    (∀ (m : Requester) (v : BitVec 32), mayWrite s m Reg.milCtrl 4 = true → s.img.weltPos = 0 →
      bitsOf v.toNat 2 0 ≠ srcPri s → bitsOf v.toNat 2 0 ≤ 4 → bitsOf v.toNat 6 4 = srcBak s → srcBak s ≤ 4 →
      Ends (.milCtrlWrite m v) s fun t =>
        srcPri t = bitsOf v.toNat 2 0 ∧ srcBak t = srcBak s ∧ flag t Reg.milCtrl 8 = v.toNat.testBit 8 ∧
        t.mil.src = bitsOf v.toNat 2 0 ∧ t.mil.onBackup = false ∧ t.mil.road = s.mil.road ∧ t.mil.rem = s.mil.rem ∧
        t.mil.valid = s.mil.valid ∧
        (bitsOf v.toNat 2 0 = 0 → t.mil.state = 0 ∧ t.mil.rate = 0 ∧ t.mil.freq = 0) ∧
        (bitsOf v.toNat 2 0 ≠ 0 → t.mil.state = 1 ∧ t.mil.rate = s.mil.rate ∧ t.mil.freq = s.mil.freq) ∧
        Only [.mil] ([Reg.milCtrl, Reg.milEvt] ++ errRegs ++ portRegs m) s t) ∧
    (∀ c : Fin 6, awake s = true → timedOut s c.val = true → c.val = s.mil.src → s.mil.state = 2 →
      Ends (.sourceLoss c) s fun t =>
        flag t Reg.milEvt 1 = true ∧ t.mil.road = s.mil.road ∧ t.mil.valid = s.mil.valid ∧
        (srcBak s = 0 ∨ s.mil.onBackup = true → t.mil.state = 3 ∧ t.mil.rate = clampI 2000000000 s.mil.freq ∧
          t.mil.holdBase = baseUnc s ∧ t.mil.holdNs = nowNs s ∧ t.mil.src = s.mil.src ∧ flag t Reg.milEvt 2 = true) ∧
        (srcBak s ≠ 0 → srcBak s ≠ s.mil.src → s.mil.onBackup = false → (watchOf s (srcBak s)).lost = false →
          timedOut s (srcBak s) = false → s.img.weltPos = 0 →
          t.mil.state = 1 ∧ t.mil.src = srcBak s ∧ t.mil.onBackup = true ∧ t.mil.rate = s.mil.rate ∧
          (watchOf t (srcBak s)).streak = 0 ∧ flag t Reg.milEvt 9 = true) ∧
        (watchOf t s.mil.src).lost = true ∧ Only [.mil] [Reg.milEvt] s t) ∧
    (∀ c : Fin 6, awake s = true → timedOut s c.val = true → c.val ≠ s.mil.src → c.val = srcBak s →
      Ends (.sourceLoss c) s fun t =>
        (watchOf t c.val).lost = true ∧ t.mil.state = s.mil.state ∧ t.mil.src = s.mil.src ∧ t.mil.rate = s.mil.rate ∧
        Only [.mil] [] s t) ∧
    (∀ (m : Requester) (v : BitVec 32), mayWrite s m Reg.milRate 4 = true → Ends (.milRateWrite m v) s fun t =>
      (s.mil.src = 4 → t.mil.rate = clampI 2000000000 (sextI 32 v.toNat) ∧
        t.mil.state = (if s.mil.state = 1 then 2 else s.mil.state) ∧ t.mil.road = s.mil.road ∧
        (s.mil.state = 1 → flag t Reg.milEvt 0 = true)) ∧
      (s.mil.src ≠ 4 → t.mil = s.mil ∧ flag t Reg.milEvt 10 = true) ∧
      Only [.mil] (Reg.milEvt :: portRegs m) s t)

/-- Accepted PPS edges and REF_IN measurements set the frequency; rejected ones leave it alone (R92, R93, R94). -/
def Obligations.PpsEdgesAndReferenceSteerTheRate : Prop :=
  ∀ (s : State), awake s = true →
    (∀ (k : Fin 2) (ago high : Nat), s.mil.src = 2 + k.val →
      (∀ p, (watchOf s (2 + k.val)).prev = some p →
        high < 100 ∨ 25600000 < absI ((stampAgo256 s ago : Int) - p - 256000000000)) →
      Ends (.ppsEdge k ago high) s fun t =>
        watchOf t (2 + k.val) = { watchOf s (2 + k.val) with prev := some (stampAgo256 s ago) } ∧
        flag t Reg.milEvt 5 = true ∧ t.mil.rate = s.mil.rate ∧ t.mil.freq = s.mil.freq ∧ t.mil.state = s.mil.state ∧
        Only [.mil] [Reg.milEvt] s t) ∧
    (∀ (k : Fin 2) (ago high p : Nat) (e : Int), s.mil.src = 2 + k.val → s.mil.state = 2 → 100 ≤ high →
      (watchOf s (2 + k.val)).prev = some p → absI ((stampAgo256 s ago : Int) - p - 256000000000) ≤ 25600000 →
      e = (stampAgo256 s ago : Int) - ((todFor s (watchOf s (2 + k.val))).1 * 256 : Nat) →
      absI e ≤ fget s Reg.milServo 7 0 * 1000 * 256 → Ends (.ppsEdge k ago high) s fun t =>
        t.mil.err = e ∧ t.mil.freq = s.mil.freq - e * 1000 / 256 / (2 ^ fget s Reg.milServo 27 24 : Nat) ∧
        t.mil.rate = clampI 2000000000 (clampI (fget s Reg.milServo 15 8 * 10000000)
          (t.mil.freq - e * 1000 / 256 / (2 ^ fget s Reg.milServo 23 20 : Nat))) ∧
        t.mil.state = 2 ∧ t.mil.road = s.mil.road ∧ (watchOf t (2 + k.val)).lastOk = some s.cycle ∧
        rd t (Reg.milPpsErr k.val) = toField 32 (max (-(2 ^ 31)) (min (2 ^ 31 - 1) e)) ∧
        Only [.mil] [Reg.milEvt, Reg.milPpsErr k.val] s t) ∧
    (∀ (ppt : Int), s.mil.src = 1 → (∀ q, (watchOf s 1).prev = some q → q + 800000 ≤ s.cycle) →
      ((watchOf s 1).prev = none → (watchOf s 1).since + 800000 ≤ s.cycle) → Ends (.refMeasureEnd ppt true) s fun t =>
        t.mil.freq = clampI 2000000000 ppt ∧ t.mil.rate = clampI 2000000000 ppt ∧ t.mil.state = 2 ∧
        t.mil.road = s.mil.road ∧ (watchOf t 1).lastOk = some s.cycle ∧ (watchOf t 1).lost = false ∧
        Only [.mil] [Reg.milEvt] s t)

/-- Trigger and PPS outputs rise on their grid, fall after their width, and are enabled only with valid settings (R108, R109, R110). -/
def Obligations.TriggersAndPpsPulsesFollowTheGrid : Prop :=
  ∀ (s : State),
    (∀ (n : Fin 8) (d : Nat), awake s = true → s.mil.valid = true → (pulseOf s n.val).on = true →
      (pulseOf s n.val).high = none → (pulseOf s n.val).newPhase = none → (pulseOf s n.val).next = some d →
      d * roadUnit ≤ s.mil.road → Ends (.triggerRise n) s fun t =>
        pulseOf t n.val = { pulseOf s n.val with
          next := some (d + (pulseOf s n.val).period)
          high := some (d, s.cycle, false)
          fallNs := d + (pulseOf s n.val).width } ∧
        rd t (Reg.milTrigLast n.val) = d % 2 ^ 64 ∧
        fget t (Reg.milTrigCnt n.val) 47 0 = (fget s (Reg.milTrigCnt n.val) 47 0 + 1) % 2 ^ 48 ∧
        (∀ k, k ≠ n.val → pulseOf t k = pulseOf s k) ∧
        Only [.mil] [Reg.milTrigLast n.val, Reg.milTrigCnt n.val] s t) ∧
    (∀ (k : Fin 2) (d : Nat), awake s = true → s.mil.valid = true → (pulseOf s (8 + k.val)).on = true →
      (pulseOf s (8 + k.val)).high = none → (pulseOf s (8 + k.val)).newPhase = none →
      (pulseOf s (8 + k.val)).next = some d → d * roadUnit ≤ s.mil.road → Ends (.ppsOutRise k) s fun t =>
        (pulseOf t (8 + k.val)).high = some (d, s.cycle, false) ∧
        (pulseOf t (8 + k.val)).fallNs = d + (pulseOf s (8 + k.val)).width ∧
        (pulseOf t (8 + k.val)).next = some (d + (pulseOf s (8 + k.val)).period) ∧
        (∀ j, j ≠ 8 + k.val → pulseOf t j = pulseOf s j) ∧ Only [.mil] [] s t) ∧
    (∀ (n : Fin 8) (h c : Nat), awake s = true → (pulseOf s n.val).high = some (h, c, false) →
      (pulseOf s n.val).fallNs * roadUnit ≤ s.mil.road → Ends (.triggerFall n) s fun t =>
        pulseOf t n.val = { pulseOf s n.val with high := none } ∧ (∀ k, k ≠ n.val → pulseOf t k = pulseOf s k) ∧
        Only [.mil] [] s t) ∧
    (∀ (k : Fin 2) (h c : Nat), awake s = true → (pulseOf s (8 + k.val)).high = some (h, c, false) →
      (pulseOf s (8 + k.val)).fallNs * roadUnit ≤ s.mil.road → Ends (.ppsOutFall k) s fun t =>
        pulseOf t (8 + k.val) = { pulseOf s (8 + k.val) with high := none } ∧
        (∀ j, j ≠ 8 + k.val → pulseOf t j = pulseOf s j) ∧ Only [.mil] [] s t) ∧
    (∀ (m : Requester) (n : Fin 8) (v : BitVec 32), mayWrite s m (Reg.milTrigCtrl n.val) 4 = true →
      flag s (Reg.milTrigCtrl n.val) 1 = false → v.toNat.testBit 1 = true → Ends (.trigEnable m n v) s fun t =>
        flag t (Reg.milTrigCtrl n.val) 1 = trigOk s n.val ∧ flag t (Reg.milTrigCtrl n.val) 0 = v.toNat.testBit 0 ∧
        (trigOk s n.val = true → (pulseOf t n.val).on = true ∧ (pulseOf t n.val).phase = rd s (Reg.milTrigPhase n.val) ∧
          (pulseOf t n.val).period = rd s (Reg.milTrigPeriod n.val) ∧
          (pulseOf t n.val).width = rd s (Reg.milTrigWidth n.val) ∧
          (s.mil.valid = true → ∃ d, (pulseOf t n.val).next = some d ∧ ceilNs s + 1000 ≤ d)) ∧
        (trigOk s n.val = false → t.mil = s.mil ∧ flag t Reg.topErr 0 = true) ∧
        (∀ k, k ≠ n.val → pulseOf t k = pulseOf s k) ∧
        Only [.mil] ([Reg.milTrigCtrl n.val] ++ errRegs ++ portRegs m) s t) ∧
    (∀ (m : Requester) (n : Fin 8) (v : BitVec 32), mayWrite s m (Reg.milTrigPhase n.val) 4 = true →
      Ends (.trigPhaseWrite m n v) s fun t =>
        (v.toNat < rd s (Reg.milTrigPeriod n.val) → fget t (Reg.milTrigPhase n.val) 31 0 = v.toNat ∧
          pulseOf t n.val = (if (pulseOf s n.val).on then { pulseOf s n.val with newPhase := some (v.toNat, ceilNs s) }
            else pulseOf s n.val) ∧
          (∀ k, k ≠ n.val → pulseOf t k = pulseOf s k) ∧ Only [.mil] (Reg.milTrigPhase n.val :: portRegs m) s t) ∧
        (rd s (Reg.milTrigPeriod n.val) ≤ v.toNat → flag t Reg.topErr 0 = true ∧ Only [] (errRegs ++ portRegs m) s t))

/-- The delay exchange of a link: request, accepted response, loss, and loss of validity (R102, R103, R145). -/
def Obligations.DelayExchangesMeasureTheRoundTrip : Prop :=
  ∀ (s : State) (p : Fin 34), awake s = true →
    (∀ ago : Nat, linkUp s p.val = true → (dlyOf s p.val).seq = 0 ∨ (dlyOf s p.val).sentAt + dlyPeriod s ≤ s.cycle →
      (p.val < 32 → turnFor s p.val = true ∧ fcDue s p.val = false) → Ends (.dreqSend p ago) s fun t =>
        dlyOf t p.val = { dlyOf s p.val with
          seq := (dlyOf s p.val).seq + 1
          sentAt := s.cycle
          counted := false
          t1 := some (stampAgo256 s ago, s.cycle) } ∧
        (∀ q, q ≠ p.val → dlyOf t q = dlyOf s q) ∧
        (if p.val < 32 then Out.tapCtl p.val 0x55 (withChk 0x55 ((dlyOf s p.val).seq % 65536 * 2 ^ 40))
          else Out.weltCtl (p.val - 32) 0x55 (withChk 0x55 ((dlyOf s p.val).seq % 65536 * 2 ^ 40))) ∈ t.out ∧
        (p.val < 32 → tap t p.val = { tap s p.val with
          txAt := max (tap s p.val).txAt (50 * s.cycle) + 256
          idle := false }) ∧ (32 ≤ p.val → t.taps = s.taps) ∧ tapsBut p.val s t ∧ Only [.mil, .taps] [] s t) ∧
    (∀ (seq : BitVec 16) (turn : BitVec 32) (ago : Nat) (t1 : Nat × Nat), linkUp s p.val = true →
      (dlyOf s p.val).t1 = some t1 → (dlyOf s p.val).seq ≠ 0 → seq.toNat = ((dlyOf s p.val).seq + 65535) % 65536 → s.cycle ≤ t1.2 + 80000 →
      Ends (.drspReceive p seq (some turn) ago) s fun t =>
        let rtt : Int := (stampAgo256 s ago : Int) - t1.1 - turn.toNat
        (dlyOf t p.val).t1 = none ∧ (dlyOf t p.val).all = (rtt :: (dlyOf s p.val).all).take 8 ∧
        ((∀ x ∈ (dlyOf t p.val).all, rtt ≤ x + 512) →
          (dlyOf t p.val).good = (rtt :: (dlyOf s p.val).good).take 8 ∧ (dlyOf t p.val).lastGood = s.cycle ∧
          (dlyOf t p.val).valid = ((dlyOf s p.val).valid || decide (8 ≤ (dlyOf s p.val).goodN + 1))) ∧
        ((∃ x ∈ (dlyOf t p.val).all, x + 512 < rtt) →
          (dlyOf t p.val).good = (dlyOf s p.val).good ∧ (dlyOf t p.val).valid = (dlyOf s p.val).valid) ∧
        (∀ q, q ≠ p.val → dlyOf t q = dlyOf s q) ∧ Only [.mil] [] s t) ∧
    (∀ (seq : BitVec 16) (turn : BitVec 32) (ago : Nat) (t1 : Nat × Nat), linkUp s p.val = true →
      (dlyOf s p.val).t1 = some t1 → seqLast (dlyOf s p.val) seq.toNat = false → (dlyOf s p.val).counted = false →
      Ends (.drspReceive p seq (some turn) ago) s fun t =>
        dlyOf t p.val = { dlyOf s p.val with counted := true } ∧ (∀ q, q ≠ p.val → dlyOf t q = dlyOf s q) ∧
        (p.val < 32 → rd t (Reg.tapCnt p.val 11) = (rd s (Reg.tapCnt p.val 11) + 1) % 2 ^ 48) ∧
        Only [.mil] (if p.val < 32 then [Reg.tapCnt p.val 11] else []) s t) ∧
    (∀ (seq : BitVec 16) (ago : Nat), linkUp s p.val = true → 32 ≤ p.val →
      Ends (.drspReceive p seq none ago) s fun t =>
        Out.weltCtl (p.val - 32) 0x66 (withChk 0x66 (seq.toNat % 65536 * 2 ^ 40 +
          (stampAgo256 s 0 - stampAgo256 s ago) % 2 ^ 32 * 2 ^ 8)) ∈ t.out ∧ Only [] [] s t) ∧
    (∀ t1 : Nat × Nat, linkUp s p.val = true → (dlyOf s p.val).t1 = some t1 → t1.2 + 80000 < s.cycle →
      Ends (.drspLost p) s fun t =>
        dlyOf t p.val = { dlyOf s p.val with
          t1 := none
          counted := true } ∧ (∀ q, q ≠ p.val → dlyOf t q = dlyOf s q) ∧
        (p.val < 32 → rd t (Reg.tapCnt p.val 11) = if (dlyOf s p.val).counted then rd s (Reg.tapCnt p.val 11)
          else (rd s (Reg.tapCnt p.val 11) + 1) % 2 ^ 48) ∧
        Only [.mil] (if p.val < 32 then [Reg.tapCnt p.val 11] else []) s t) ∧
    ((dlyOf s p.val).valid = true → (dlyOf s p.val).lastGood + 16 * dlyPeriod s ≤ s.cycle → Ends (.dlyFail p) s fun t =>
      dlyOf t p.val = { dlyOf s p.val with
        valid := false
        goodN := 0 } ∧ flag t Reg.milEvt 7 = true ∧ (∀ q, q ≠ p.val → dlyOf t q = dlyOf s q) ∧
      Only [.mil] [Reg.milEvt] s t)

/-- Time marks out and in, the latched read of road time, and the calibration of the always-on clock (R88, R104, R106, R107, R111). -/
def Obligations.MarksReadsAndCalibrationCarryTime : Prop :=
  ∀ (s : State), awake s = true →
    (∀ (p : Fin 34) (ago : Nat), p.val < 32 → linkUp s p.val = true → s.mil.lastMark.nat p.val ≠ nowNs s / 1000 + 1 →
      atBoundary s p.val = true → Ends (.timeMarkSend p ago) s fun t =>
        t.mil.lastMark.nat p.val = nowNs s / 1000 + 1 ∧
        (∀ q, q ≠ p.val → t.mil.lastMark.nat q = s.mil.lastMark.nat q) ∧
        Out.tapCtl p.val 0x4B (stampAgo256 s ago / 256 % 2 ^ 56) ∈ t.out ∧ (∃ w, Out.tapCtl p.val 0x4C w ∈ t.out) ∧
        t.mil.road = s.mil.road ∧ tapsBut p.val s t ∧ tap t p.val = { tap s p.val with
          txAt := 50 * s.cycle + 512 - 5 * ago
          idle := false } ∧ Only [.mil, .taps] [] s t) ∧
    (∀ (egress : BitVec 72) (dly : BitVec 23) (base : BitVec 8) (ago : Nat) (c : Int), linkUp s 32 = true →
      s.img.weltPos ≠ 0 → s.mil.src = 5 → s.mil.state = 1 →
      c = (((egress.toNat + dly.toNat : Nat) : Int) - stampAgo256 s ago) * 2 ^ 32 → absI c ≤ stepLim s →
      Ends (.timeMarkReceive egress dly true base ago none) s fun t =>
        t.mil.rem = c ∧ t.mil.road = s.mil.road ∧ t.mil.marks = s.mil.marks + 1 ∧ t.mil.markBase = base.toNat ∧
        t.mil.announce = none ∧ (watchOf t 5).lastOk = some s.cycle ∧
        t.mil.state = (if 7 ≤ s.mil.marks then 2 else 1) ∧ (7 ≤ s.mil.marks → t.mil.valid = true) ∧
        Only [.mil] [Reg.milEvt] s t) ∧
    (∀ (egress : BitVec 72) (dly : BitVec 23) (base : BitVec 8) (ago : Nat), linkUp s 32 = true → s.img.weltPos ≠ 0 →
      s.mil.src = 5 → s.mil.state = 1 → Ends (.timeMarkReceive egress dly false base ago none) s fun t =>
        t.mil.marks = 0 ∧ t.mil.rem = s.mil.rem ∧ t.mil.road = s.mil.road ∧ t.mil.state = 1 ∧ Only [.mil] [] s t) ∧
    (∀ m : Requester, mayWrite s m Reg.milTime 4 = true → Ends (.milTimeRead m) s fun t =>
      t.mil.road = s.mil.road ∧ t.mil.auxLatch.find m.code = some (milAuxView s) ∧
      t.latch.find (latchKey m Reg.milTime) = some (nowNs s % 2 ^ 64 / 2 ^ 32) ∧
      Out.regData m.code Reg.milTime 4 (nowNs s % 2 ^ 32) ∈ t.out ∧ Only [.mil, .latch] (portRegs m) s t) ∧
    (∀ period : BitVec 32, s.mil.state = 1 ∨ s.mil.state = 2 → s.mil.aonFrom + fget s Reg.milHold 7 0 * 6400000 ≤ s.cycle →
      Ends (.aonCalibrationEnd period) s fun t =>
        rd t Reg.milAonPeriod = period.toNat ∧ t.mil = { s.mil with aonFrom := s.cycle } ∧
        Only [.mil] [Reg.milAonPeriod] s t)

/-- Profile and selector commits put eight words in force together; enables need a record and wait for a backward step (R10, R34, R96, R169, R184). -/
def Obligations.CommitsTakeEightWordsTogether : Prop :=
  ∀ (s : State) (m : Requester),
    (∀ (n : Fin 64) (v : BitVec 32), mayWrite s m (Reg.cblProf n.val 7) 4 = true → locked s = false →
      recordOk s n.val (wordsBytes (stagedWords s (Reg.cblProf n.val) v.toNat)) = true →
      Ends (.profileCommit m n v) s fun t =>
        (∀ w, w < 8 → rd t (Reg.cblProf n.val w) = (stagedWords s (Reg.cblProf n.val) v.toNat).getD w 0 % 2 ^ 64) ∧
        t.cbl.hasRec.get (fun _ => false) n.val = true ∧
        (∀ f ∈ s.vrd.flights, f.selected = false → f.acc < s.cycle → (∀ e ∈ f.oldRecs, e.1 ≠ n.val) →
          { f with oldRecs := f.oldRecs ++ [(n.val, (List.range 8).map (fun w => rd s (Reg.cblProf n.val w)))] } ∈ t.vrd.flights) ∧
        (∀ f ∈ s.vrd.flights, f.selected = true → f ∈ t.vrd.flights) ∧
        Only [.cbl, .vrd, .way, .intg] ((List.range 8).map (Reg.cblProf n.val) ++ flipRegs ++ portRegs m) s t) ∧
    (∀ (n : Fin 64) (v : BitVec 32), mayWrite s m (Reg.cblProf n.val 7) 4 = true → locked s = false →
      recordOk s n.val (wordsBytes (stagedWords s (Reg.cblProf n.val) v.toNat)) = false →
      Ends (.profileCommit m n v) s fun t =>
        flag t Reg.topErr 0 = true ∧ t.cbl.hasRec = s.cbl.hasRec ∧ Only [.cbl] (errRegs ++ portRegs m) s t) ∧
    (∀ (n : Fin 64) (v : BitVec 32), mayWrite s m (Reg.cblProf n.val 7) 4 = true → locked s = true →
      Ends (.profileCommit m n v) s fun t =>
        (v.toNat ≠ rd s (Reg.cblProf n.val 7) → flag t Reg.topErr 1 = true) ∧ t.cbl.hasRec = s.cbl.hasRec ∧
        Only [.cbl] (errRegs ++ portRegs m) s t) ∧
    (∀ (n : Fin 512) (v : BitVec 32), mayWrite s m (Reg.cblSel n.val 7) 4 = true → Ends (.selectorCommit m n v) s fun t =>
      (locked s = false → (∀ w, w < 8 →
          rd t (Reg.cblSel n.val w) = (stagedWords s (Reg.cblSel n.val) 0).getD w 0 % 2 ^ 64) ∧
        Only [.cbl] ((List.range 8).map (Reg.cblSel n.val) ++ portRegs m) s t) ∧
      (locked s = true →
        (stagedWords s (Reg.cblSel n.val) 0 ≠ (List.range 8).map (fun k => rd s (Reg.cblSel n.val k)) →
          flag t Reg.topErr 1 = true) ∧
        Only [.cbl] (errRegs ++ portRegs m) s t)) ∧
    (∀ v : BitVec 64, mayWrite s m Reg.cblProfEn 8 = true → Ends (.profileEnable m v) s fun t =>
      ((∃ n, n < 64 ∧ bitOf v.toNat n = true ∧ s.cbl.hasRec.get (fun _ => false) n = false) →
        flag t Reg.topErr 0 = true ∧ Only [] (errRegs ++ portRegs m) s t) ∧
      ((∀ n, n < 64 → bitOf v.toNat n = true → s.cbl.hasRec.get (fun _ => false) n = true) →
        ((∀ p, s.mil.step = some p → 0 ≤ p.1 ∨ v.toNat = 0 ∨ anyProfile s = true) →
          rd t Reg.cblProfEn = v.toNat ∧ t.mil = { s.mil with deferEn := none } ∧
          Only [.mil] (Reg.cblProfEn :: portRegs m) s t) ∧
        (∀ p, s.mil.step = some p → p.1 < 0 → v.toNat ≠ 0 → anyProfile s = false →
          (s.mil.road + 2000 * roadUnit ≤ p.2 * roadUnit → rd t Reg.cblProfEn = v.toNat ∧ t.mil.step = none ∧
            t.mil.rem = s.mil.rem + p.1 ∧ t.mil.road = s.mil.road ∧ flag t Reg.milEvt 4 = true) ∧
          (p.2 * roadUnit < s.mil.road + 2000 * roadUnit → rd t Reg.cblProfEn = rd s Reg.cblProfEn ∧
            t.mil = { s.mil with deferEn := some v.toNat }))))

/-- TOL_CMD and VRD_FRESH_CMD: a WRITE configures the selected bucket or stream, a READ shows it as stored, within 16 cycles (R173, R176, R177, R179). -/
def Obligations.TollAndFreshnessCommandsMoveOneBucketOrStream : Prop :=
  ∀ (s : State) (m : Requester) (v : BitVec 32) (s0 : State) (i : Nat), s0 = accessesFirst (portCount s m) →
    (mayWrite s m Reg.tolCmd 4 = true → flag s Reg.tolCmd 31 = true →
      (Ends (.tollRead m v) s fun t => Only [] (portRegs m) s t) ∧ (Ends (.tollWrite m v) s fun t => Only [] (portRegs m) s t)) ∧
    (mayWrite s m Reg.tolCmd 4 = true → flag s Reg.tolCmd 31 = false → i = fget s0 Reg.tolIdx 15 0 → bitOf v.toNat 0 = true →
      bitOf v.toNat 1 = false → Ends (.tollRead m v) s fun t =>
        (∃ c, s0.cycle < c ∧ c ≤ s0.cycle + 16 ∧
          KMap.find t.vrd.ports Reg.tolCmd = some (c, halvesRead s0 9 (5 * i) (bucketWords (bucket s0 i)))) ∧
        flag t Reg.tolCmd 31 = true ∧ Only [.draws, .vrd, .intg] (Reg.tolCmd :: readRegs 9) s0 t) ∧
    (mayWrite s m Reg.tolCmd 4 = true → flag s Reg.tolCmd 31 = false → bitOf v.toNat 1 = true →
      flag s0 (Reg.tolData 2) 31 = true →
      rd s0 (Reg.tolData 1) < rd s0 (Reg.tolData 0) ∨ fget s0 (Reg.tolData 3) 27 0 < fget s0 (Reg.tolData 2) 27 0 →
      bitOf v.toNat 0 = false → Ends (.tollWrite m v) s fun t =>
        flag t Reg.topErr 0 = true ∧ Only [.draws, .vrd] (Reg.tolCmd :: errRegs) s0 t) ∧
    (mayWrite s m Reg.tolCmd 4 = true → flag s Reg.tolCmd 31 = false → i = fget s0 Reg.tolIdx 15 0 → bitOf v.toNat 1 = true →
      (flag s0 (Reg.tolData 2) 31 = true → rd s0 (Reg.tolData 0) ≤ rd s0 (Reg.tolData 1) ∧
        fget s0 (Reg.tolData 2) 27 0 ≤ fget s0 (Reg.tolData 3) 27 0) →
      Ends (.tollWrite m v) s fun t =>
        bucket t i = ⟨rd s0 (Reg.tolData 0), rd s0 (Reg.tolData 1), flag s0 (Reg.tolData 2) 31,
          fget s0 (Reg.tolData 2) 27 0, fget s0 (Reg.tolData 3) 27 0,
          if bitOf v.toNat 2 then fget s0 (Reg.tolData 2) 27 0 else min (bucket s0 i).tc (fget s0 (Reg.tolData 2) 27 0),
          if bitOf v.toNat 2 then fget s0 (Reg.tolData 3) 27 0 else min (bucket s0 i).tp (fget s0 (Reg.tolData 3) 27 0),
          nowNs s0, 0, 0⟩ ∧
        (∀ j, j ≠ i → bucket t j = bucket s0 j) ∧
        (∃ c, s0.cycle < c ∧ c ≤ s0.cycle + 16 ∧ KMap.find t.vrd.ports Reg.tolCmd = some (c, if bitOf v.toNat 0 then
          halvesRead (tollWrite s0 m.code (bitOf v.toNat 2)) 9 (5 * i) (bucketWords (bucket t i)) else [])) ∧
        Only [.draws, .vrd, .intg, .tol] (Reg.tolCmd :: flipRegs ++ readRegs 9) s0 t) ∧
    (mayWrite s m Reg.vrdFreshCmd 4 = true → flag s Reg.vrdFreshCmd 31 = false → i = fget s0 Reg.vrdFreshIdx 15 0 →
      bitOf v.toNat 0 = true → bitOf v.toNat 1 = false → Ends (.freshRead m v) s fun t =>
        (∃ c, s0.cycle < c ∧ c ≤ s0.cycle + 16 ∧ KMap.find t.vrd.ports Reg.vrdFreshCmd =
          some (c, [(freshOf s0 i).1 ^^^ residual s0 0xA (2 * i), (freshOf s0 i).2 ^^^ residual s0 0xA (2 * i + 1)])) ∧
        (∀ j, freshOf t j = freshOf s0 j) ∧ Only [.draws, .vrd, .intg] (Reg.vrdFreshCmd :: readRegs 0xA) s0 t) ∧
    (mayWrite s m Reg.vrdFreshCmd 4 = true → flag s Reg.vrdFreshCmd 31 = false → i = fget s0 Reg.vrdFreshIdx 15 0 →
      bitOf v.toNat 1 = true → Ends (.freshWrite m v) s fun t =>
        freshOf t i = (rd s0 Reg.vrdFreshCtr, rd s0 Reg.vrdFreshMap) ∧ (∀ j, j ≠ i → freshOf t j = freshOf s0 j) ∧
        Only [.draws, .vrd, .intg] (Reg.vrdFreshCmd :: flipRegs ++ readRegs 0xA) s0 t) ∧
    (∀ (c : Nat) (data : List Nat), KMap.find s.vrd.ports Reg.tolCmd = some (c, data) →
      KMap.find s.vrd.ports Reg.vrdFreshCmd = none → c ≤ s.cycle →
      flag (portsDone s) Reg.tolCmd 31 = false ∧
        (∀ k, k < 10 → k < data.length → rd (portsDone s) (Reg.tolData k) = data.getD k 0 % 2 ^ 64) ∧
        Only [.vrd] (Reg.tolCmd :: (List.range 10).map Reg.tolData) s (portsDone s)) ∧
    (∀ c x y : Nat, KMap.find s.vrd.ports Reg.vrdFreshCmd = some (c, [x, y]) → KMap.find s.vrd.ports Reg.tolCmd = none →
      c ≤ s.cycle →
      flag (portsDone s) Reg.vrdFreshCmd 31 = false ∧ rd (portsDone s) Reg.vrdFreshCtr = x % 2 ^ 64 ∧
        rd (portsDone s) Reg.vrdFreshMap = y % 2 ^ 64 ∧
        Only [.vrd] [Reg.vrdFreshCmd, Reg.vrdFreshCtr, Reg.vrdFreshMap] s (portsDone s))

/-- An ordinary entry matches under its masks in every row; a window entry matches its remainder and its half-open window (R189, R195). -/
def Obligations.OrdinaryAndWindowEntriesMatchAsTheSpecSays : Prop :=
  ∀ (s : State) (d : TblDecl) (k : Key) (h : Nat), s.tca.movePair = none →
    (d.kind ≠ 1 → (h ∈ matches_ s d k ↔ h ∈ validHeads s d ∧
      ∀ i, i < entryRows d → ((k.extractLsb' (80 * i) 80) ^^^ (trow s (h + i)).data) &&& (trow s (h + i)).mask = 0)) ∧
    (d.kind = 1 → (h ∈ matches_ s d k ↔ h ∈ validHeads s d ∧
      (bitsOf k.toNat 95 64 ^^^ (winAt s h).rValue) &&& (winAt s h).rCare = 0 ∧
      (winAt s h).lower ≤ bitsOf k.toNat 63 0 ∧
      ((winAt s h).unbounded = true ∨ bitsOf k.toNat 63 0 < (winAt s h).upper)))

/-- Table commands on a ternary table: SEARCH asks for a slot, READ and NEXT read the entry row by row, or end with a status (R207, R211, R212, R213, R216, R332). -/
def Obligations.TernaryCommandsSearchReadAndWalk : Prop :=
  ∀ (s : State) (c : TCmd) (d : TblDecl), awake s = true → tblOf s c.table = some d → cmdOf s c.id = some c →
    s.tcr.gone.contains c.id = false →
    (ternHead s 1 true true = some c → (∃ bs, c.input = some (some bs)) → c.ue = true → d.isTern = true →
      addrOk s c.ring c.addr (ternLen d 1) false = true → Ends .tcaSearch s fun t =>
        (∃ k ∈ t.tcr.compl, k.cmdId = c.cmdId ∧ k.status = 0x0A) ∧ flag t Reg.tcaEvt 5 = true ∧ cmdOf t c.id = none ∧
        Only [.tcr] [Reg.tcaEvt] s t) ∧
    (∀ bs, ternHead s 1 true true = some c → c.input = some (some bs) → c.ue = false →
      addrOk s c.ring c.addr (ternLen d 1) false = true → Ends .tcaSearch s fun t =>
        (∃ r ∈ t.rgl.reqs, r.id = s.rgl.nextId ∧ r.slot = true ∧ r.master = ringMaster c.ring ∧
          r.purpose = .slotSearch (.cmd c.id) c.table (BitVec.ofNat 640 (fieldAt bs 0 (ternLen d 1))) none) ∧
        t.tca.rop = some ⟨c.id, c.opcode, c.table, s.cycle, [], 0, c.handle, c.series, []⟩ ∧
        { c with started := true } ∈ t.tcr.cmds ∧ t.tca.rows = s.tca.rows ∧ Only [.rgl, .tca, .tcr] [] s t) ∧
    (ternHead s 0x11 true false = some c → ternMoved s c d = none → addrOk s c.ring c.addr (ternLen d 0x11) true = true →
      Ends .tcaRead s fun t =>
        t.tca.rop = some ⟨c.id, c.opcode, c.table, s.cycle + 2,
          (List.range (entryRows d)).map (fun i => RowOp.read (c.handle + i)), 0, c.handle, c.series, []⟩ ∧
        { c with started := true } ∈ t.tcr.cmds ∧ t.tca.rows = s.tca.rows ∧ Only [.tca, .rgl, .tcr] [] s t) ∧
    (∀ r, ternHead s 0x11 true false = some c → ternMoved s c d = some r → Ends .tcaRead s fun t =>
      (∃ k ∈ t.tcr.compl, k.cmdId = c.cmdId ∧ k.status = 2 ∧ k.handle = r.handle ∧ k.restart = r.restart) ∧
      cmdOf t c.id = none ∧ Only [.tcr] [] s t) ∧
    (ternHead s 2 true false = some c → c.start = true ∨ ternMoved s c d = none →
      addrOk s c.ring c.addr (ternLen d 2) true = true → Ends .tcaNext s fun t =>
        (∃ n, 1 ≤ n ∧ n ≤ 16 ∧
          t.tca.rop = some ⟨c.id, c.opcode, c.table, s.cycle + n, [], 0, c.handle, c.series, []⟩) ∧
        { c with started := true } ∈ t.tcr.cmds ∧ t.tca.rows = s.tca.rows ∧ Only [.tca, .tcr, .draws] [] s t) ∧
    (∀ o, s.tca.rop = some o → o.id = c.id → o.opcode = 2 → o.table = c.table → o.handle = c.handle → o.script = [] →
      c.start = true ∨ ternMoved s c d = none →
      (s.cycle < o.ready → nextFound s = s) ∧
      (∀ h, o.ready ≤ s.cycle → s.tca.movePair = none → h ∈ validHeads s d → (c.start = true ∨ c.handle < h) →
        (∀ x ∈ validHeads s d, c.start = true ∨ c.handle < x → h ≤ x) →
        (nextFound s).tca.rop = some { o with
          script := (List.range (entryRows d)).map (fun i => RowOp.read (h + i))
          handle := h } ∧ (nextFound s).tca.rows = s.tca.rows ∧ Only [.tca, .rgl] [] s (nextFound s)) ∧
      (o.ready ≤ s.cycle → (∀ x ∈ validHeads s d, ¬(c.start = true ∨ c.handle < x)) →
        (∃ k ∈ (nextFound s).tcr.compl, k.cmdId = c.cmdId ∧ k.status = 0x0C ∧ k.handle = c.handle ∧
          k.gen = s.tca.gen.nat c.table) ∧
        cmdOf (nextFound s) c.id = none ∧ (nextFound s).tca.rop = none ∧ Only [.tca, .tcr] [] s (nextFound s)))

/-- INSERT, WRITE, DELETE, MOVE, UPDATE and WIPE on a ternary table: what each starts, and where it ends with a status (R206, R207, R208, R209, R213, R219, R554). -/
def Obligations.TernaryCommandsWriteEntries : Prop :=
  ∀ (s : State) (c : TCmd) (d : TblDecl), awake s = true → tblOf s c.table = some d → cmdOf s c.id = some c →
    s.tcr.gone.contains c.id = false →
    (∀ img h, ternHead s 3 false true = some c → c.input = some (some img) → c.ue = false → isOrdered d = false →
      addrOk s c.ring c.addr (ternLen d 3) false = true → imageOk d img = true →
      tcaEntries s c.table d < capacity s d → (freeSlots s d (firstRow d) (endRow d)).head? = some h →
      Ends .tcaInsert s fun t =>
        t.tca.wop = some ⟨c.id, c.opcode, c.table, s.cycle + 8, writeScript d h img, 0, h, c.series, []⟩ ∧
        { c with started := true } ∈ t.tcr.cmds ∧ t.tca.rows = s.tca.rows ∧ Only [.tca, .rgl, .tcr] [] s t) ∧
    (∀ img, ternHead s 3 false true = some c → c.input = some (some img) → c.ue = false →
      addrOk s c.ring c.addr (ternLen d 3) false = true → imageOk d img = true →
      capacity s d ≤ tcaEntries s c.table d → Ends .tcaInsert s fun t =>
        (∃ k ∈ t.tcr.compl, k.cmdId = c.cmdId ∧ k.status = 4) ∧ cmdOf t c.id = none ∧ Only [.tcr, .draws] [] s t) ∧
    (∀ img, ternHead s 0x10 false true = some c → c.input = some (some img) → c.ue = false →
      addrOk s c.ring c.addr (ternLen d 0x10) false = true → imageOk d img = true → Ends .tcaWrite s fun t =>
        ((trow s c.handle).valid = false →
          t.tca.wop = some ⟨c.id, c.opcode, c.table, s.cycle + 2, writeScript d c.handle img, 0, c.handle, c.series, []⟩ ∧
          t.tca.rows = s.tca.rows ∧ Only [.tca, .rgl, .tcr] [] s t) ∧
        ((trow s c.handle).valid = true →
          (∃ k ∈ t.tcr.compl, k.cmdId = c.cmdId ∧ k.status = 5 ∧ k.handle = c.handle) ∧ Only [.tcr] [] s t)) ∧
    (ternHead s 4 false false = some c → ternMoved s c d = none → Ends .tcaDelete s fun t =>
      ((trow s c.handle).valid = true →
        t.tca.wop = some ⟨c.id, c.opcode, c.table, s.cycle + 2, [.clearValid c.handle], 0, c.handle, c.series, []⟩ ∧
        t.tca.rows = s.tca.rows ∧ Only [.tca, .rgl, .tcr] [] s t) ∧
      ((trow s c.handle).valid = false →
        (∃ k ∈ t.tcr.compl, k.cmdId = c.cmdId ∧ k.status = 6 ∧ k.handle = c.handle) ∧ Only [.tcr] [] s t)) ∧
    (ternHead s 5 false false = some c → ternMoved s c d = none → (trow s c.handle).valid = true →
      (trow s c.dst).valid = false → isOrdered d = false → Ends .tcaMove s fun t =>
        t.tca.wop = some ⟨c.id, c.opcode, c.table, s.cycle + 2, relocScript d c.handle c.dst, 0, c.dst, c.series, []⟩ ∧
        t.tca.rows = s.tca.rows ∧ Only [.tca, .rgl, .tcr] [] s t) ∧
    (∀ bs, ternHead s 0x12 false true = some c → c.input = some (some bs) → c.ue = false → ternMoved s c d = none →
      addrOk s c.ring c.addr 8 false = true → (trow s c.handle).valid = true → Ends .tcaUpdate s fun t =>
        t.tca.wop = some ⟨c.id, c.opcode, c.table, s.cycle + 2, [], 0, c.handle, c.series, []⟩ ∧
        { c with started := true } ∈ t.tcr.cmds ∧ t.tca.result = s.tca.result ∧ t.tca.rows = s.tca.rows ∧
        Only [.tca, .tcr] [] s t) ∧
    (∀ o bs, s.tca.wop = some o → o.id = c.id → o.opcode = 0x12 → c.input = some (some bs) →
      (s.cycle < o.ready → updateDone s = s) ∧
      (o.ready ≤ s.cycle → (updateDone s).tca.result.nat o.handle = fieldAt bs 0 8 ∧
        (∀ h, h ≠ o.handle → (updateDone s).tca.result.nat h = s.tca.result.nat h) ∧
        (updateDone s).tca.rows = s.tca.rows ∧ (updateDone s).tca.wop = none ∧
        (∃ k ∈ (updateDone s).tcr.compl, k.cmdId = c.cmdId ∧ k.status = 0 ∧ k.handle = o.handle) ∧
        cmdOf (updateDone s) c.id = none ∧ keepsUnits [.tca, .tcr, .intg] s (updateDone s))) ∧
    (ternHead s 0x13 false false = some c → Ends .tcaWipe s fun t =>
      t.tca.gen.nat c.table = (s.tca.gen.nat c.table + 1) % 65536 ∧ t.tca.wiping.get (fun _ => false) c.table = true ∧
      t.tca.wop = some ⟨c.id, c.opcode, c.table, s.cycle,
        (List.range d.blocks).map (fun b => RowOp.wipeBlock (d.first + b)), 0, 0, c.series, []⟩ ∧
      t.tca.rows = s.tca.rows ∧ Only [.tca, .rgl, .tcr] [Reg.topLedgerBreak] s t)

/-- Row accesses take the slot and the cap open to them; the cap restarts each window; temperature sets the throttle level (R198, R199, R200, R201, R206). -/
def Obligations.RowAccessesAndThrottleFollowTheirRules : Prop :=
  ∀ (s : State), awake s = true →
    (s.tca.windowAt ≠ s.cycle / 800 → Ends .updateWindowStart s fun t =>
      rowsInWindow t = 0 ∧ t.tca = { s.tca with
        windowAt := s.cycle / 800
        windowUsed := 0 } ∧ Only [.tca] [] s t) ∧
    (∀ (r : Req) (o : TcaOp) (d : TblDecl) (row : Nat) (x : TRow) (y : RowOp) (rest : List RowOp), bestRow s = some r →
      r.purpose = .row false → s.tca.wop = some o → tblOf s o.table = some d →
      o.script = .write row x none :: y :: rest → Ends .rowAccess s fun t =>
        trow t row = x ∧ (∀ i, i ≠ row → trow t i = trow s i) ∧ rowsInWindow t = rowsInWindow s + 1 ∧
        (actLevel s = 0 → (slotsUsed t).2 = true) ∧ (actLevel s ≠ 0 → (slotsUsed t).1 = true) ∧
        t.tca.wop = some { o with
          script := y :: rest
          rows := o.rows + 1 } ∧
        (∀ q ∈ t.rgl.reqs, q.id = r.id → q.id = s.rgl.nextId) ∧ t.tca.result = s.tca.result ∧
        keepsUnits [.rgl, .tca] s t) ∧
    (∀ temp : BitVec 8, Ends (.thermalSample temp) s fun t =>
      t.tca.temp = temp.toNat ∧ t.tca.level = levelFor s.tca.level (temp.toNat - 64) ∧ t.tca.rows = s.tca.rows ∧
      (t.tca.level = s.tca.level → Only [.tca] [] s t) ∧
      (s.tca.level < t.tca.level → flag t Reg.tcaEvt 0 = true) ∧
      (t.tca.level < s.tca.level → flag t Reg.tcaEvt 1 = true))

/-- Command rings: doorbells, enable, one fetch per cycle from the rings in turn, one completion per cycle, oldest first (R329, R332, R334, R336, R337, R345). -/
def Obligations.RingsFetchAcceptAndPostInOrder : Prop :=
  ∀ (s : State),
    (∀ (m : Requester) (r : Fin 4) (v : BitVec 32), mayWrite s m (Reg.hstTcrTail r.val) 4 = true →
      Ends (.tcrDoorbell m r v) s fun t =>
        (flag s (Reg.hstTcrCtrl r.val) 4 = false ∨
            (v.toNat % 65536 + 65536 - fget s (Reg.hstTcrHead r.val) 15 0) % 65536 ≤ ringSize s r.val →
          rd t (Reg.hstTcrTail r.val) = v.toNat % 65536 ∧ Only [] (Reg.hstTcrTail r.val :: portRegs m) s t) ∧
        (flag s (Reg.hstTcrCtrl r.val) 4 = true →
            ringSize s r.val < (v.toNat % 65536 + 65536 - fget s (Reg.hstTcrHead r.val) 15 0) % 65536 →
          flag t Reg.topErr 0 = true ∧ Only [] (errRegs ++ portRegs m) s t)) ∧
    (∀ (m : Requester) (r : Fin 4) (v : BitVec 32), mayWrite s m (Reg.hstTcrCtrl r.val) 4 = true →
      flag s (Reg.hstTcrCtrl r.val) 4 = false → bitOf v.toNat 4 = true → bitsOf v.toNat 3 0 = fget s (Reg.hstTcrCtrl r.val) 3 0 →
      4 ≤ bitsOf v.toNat 3 0 → bitsOf v.toNat 3 0 ≤ 12 → ringBasesOk s r.val = true → Ends (.tcrEnable m r v) s fun t =>
        flag t (Reg.hstTcrCtrl r.val) 4 = true ∧ rd t (Reg.hstTcrHead r.val) = 0 ∧ rd t (Reg.hstTcrTail r.val) = 0 ∧
        rd t (Reg.hstTcrChead r.val) = 0 ∧ rd t (Reg.hstTcrCtail r.val) = 0 ∧
        (∀ q ∈ t.host, q.use ≠ .slotFetch r.val) ∧ t.spm = (dropAsks s fun u => decide (u = .slot r.val)).spm ∧
        Only [.tcr, .host, .spm] ([Reg.hstTcrCtrl r.val, Reg.hstTcrHead r.val, Reg.hstTcrTail r.val, Reg.hstTcrChead r.val,
          Reg.hstTcrCtail r.val] ++ errRegs ++ portRegs m) s t) ∧
    (∀ r, awake s = true → nextRing s = some r → s.tcr.fetchCycle ≤ s.cycle → bitOf (rd s (Reg.hstTcrBase r)) 63 = false →
      asks s (.slot r) = false → Ends .tableCommandFetch s fun t =>
        (∃ q ∈ t.host, q.use = .slotFetch r ∧ q.len = 32 ∧
          q.addr = bitsOf (rd s (Reg.hstTcrBase r)) 62 0 + 32 * (fget s (Reg.hstTcrHead r) 15 0 % ringSize s r)) ∧
        t.tcr = { s.tcr with
          rr := (r + 1) % 4
          fetchCycle := s.cycle + 1
          fetching := s.tcr.fetching.set (fun _ => false) r true } ∧
        Only [.tcr, .rgl, .host] [Reg.hstPcieCnt r 3] s t) ∧
    (∀ r : Fin 4, bitOf (rd s (Reg.hstTcrBase r.val)) 63 = true →
      (fetchSlot s r.val).spm.waiting = s.spm.waiting ++ [⟨ringQ r.val, .internal, s.cycle, .read, false,
        bitsOf (rd s (Reg.hstTcrBase r.val)) 18 0 + 32 * (fget s (Reg.hstTcrHead r.val) 15 0 % ringSize s r.val), 32, [],
        .slot r.val⟩] ∧
      (fetchSlot s r.val).tcr.rr = (r.val + 1) % 4 ∧ Only [.tcr, .spm] [] s (fetchSlot s r.val)) ∧
    (∀ c rest, awake s = true → s.tcr.compl = c :: rest → s.tcr.postCycle ≤ s.cycle → c.ring < 4 →
      (bitOf (rd s (Reg.hstTcrCbase c.ring)) 63 = true →
        s.spm.waiting = [] ∧ s.spm.portCycle ≤ s.cycle ∧ s.nvc.wipeAt = none) →
      asks s (.put (some c.ring)) = false → asks s (.compl c.ring) = false → Ends .completionPost s fun t =>
        t.tcr.compl = rest ∧ t.tcr.postCycle = s.cycle + 1 ∧
        rd t (Reg.hstTcrChead c.ring) = (fget s (Reg.hstTcrChead c.ring) 15 0 + 1) % 65536 ∧
        rd t (Reg.hstTcrCnt c.ring 1) = (rd s (Reg.hstTcrCnt c.ring 1) + 1) % 2 ^ 48 ∧
        (c.notify = true → flag t (Reg.hstTcrEvt c.ring) 0 = true) ∧ keepsUnits [.tcr, .spm, .intg] s t) ∧
    (awake s = true → s.tcr.compl = [] → Ends .completionPost s fun t => Only [] [] s t) ∧
    (awake s = true → nextRing s = none → Ends .tableCommandFetch s fun t => Only [] [] s t)

/-- Signature laps, regions, posts and requests, and the start and stop of a counted rebuild (R14, R220, R222, R223, R224, R225, R226). -/
def Obligations.SignaturesAndRebuildsKeepTheirPlace : Prop :=
  ∀ (s : State),
    (awake s = true → Ends .signatureLapStart s fun t =>
      (flag s Reg.tcaCtrl 0 = true → sigRuns s = true → s.tca.lapOpen = false →
        (∀ x, s.tca.lapStart = some x → x + fget s Reg.tcaCtrl 31 24 * 800000 ≤ s.cycle) →
        t.tca.lapStart = some s.cycle ∧ t.tca.rows = s.tca.rows ∧ Only [.tca] [Reg.tcaSigLap] s t) ∧
      ((∃ x, s.tca.lapStart = some x ∧ s.cycle < x + fget s Reg.tcaCtrl 31 24 * 800000) → Only [] [] s t)) ∧
    (∀ n, s.tca.sigRegion = some n → s.tca.sigRows < 4096 →
      flag s Reg.tcaCtrl 0 = true ∨ s.tca.sigOnDemand = true ∨ s.tca.sigReq.isSome = true →
      (sigRuns s = true → lastSlotFree s = true → (sigTick s).tca.sigRows = s.tca.sigRows + 1 ∧
        (s.tca.sigRows = 4095 → s.tca.sigDirty = false →
          (sigTick s).tca.sigRead = some (nowNs s, crc32c (regionBytes s n))) ∧ Only [.tca] [] s (sigTick s)) ∧
      (sigRuns s = false ∨ lastSlotFree s = false → sigTick s = s)) ∧
    (∀ n ns good, awake s = true → s.tca.sigRegion = some n → s.tca.sigRead = some (ns, good) →
      Ends .signatureRegionDone s fun t =>
        t.tca.sigRegion = none ∧ (s.tca.sigDirty = false → t.tca.sigWait = [(n, good, false, s.tca.sigOnDemand, ns)]) ∧
        (s.tca.sigDirty = true → ∃ crc : BitVec 32, t.tca.sigWait = [(n, crc.toNat, true, s.tca.sigOnDemand, ns)]) ∧
        t.tca.rows = s.tca.rows ∧ Only [.tca, .draws] [Reg.tcaEvt] s t) ∧
    (∀ x rest, awake s = true → s.tca.sigWait = x :: rest → fget s Reg.tcaSigSize 3 0 ≠ 0 → sigFull s = false →
      s.spm.waiting = [] → s.spm.portCycle ≤ s.cycle → s.nvc.wipeAt = none → Ends .signaturePost s fun t =>
        t.tca.sigWait = [] ∧ rd t Reg.tcaSigHead = (fget s Reg.tcaSigHead 15 0 + 1) % 65536 ∧
        rd t (Reg.tcaCnt 10) = (rd s (Reg.tcaCnt 10) + 1) % 2 ^ 48 ∧ flag t Reg.tcaEvt 2 = true ∧
        t.tca.rows = s.tca.rows ∧ keepsUnits [.tca, .spm, .intg] s t) ∧
    (∀ (m : Requester) (v : BitVec 32), mayWrite s m Reg.tcaSigReq 4 = true → Ends (.sigReq m v) s fun t =>
      (bitOf v.toNat 31 = true → sigRuns s = false → t.tca = { s.tca with sigReq := some (v.toNat % 64) }) ∧
      (bitOf v.toNat 31 = true → sigRuns s = true → s.tca.sigRegion = none → s.tca.sigWait = [] →
        t.tca.sigRegion = some (v.toNat % 64) ∧ t.tca.sigOnDemand = true ∧ t.tca.sigReq = none ∧
        t.tca.sigRows = 0 ∧ t.tca.sigDirty = false) ∧
      t.tca.rows = s.tca.rows ∧ Only [.tca] (portRegs m) s t) ∧
    (∀ (m : Requester) (n : Fin 64), mayWrite s m Reg.tcaRebuildCtrl 4 = true →
      Ends (.rebuildStart m n) s fun t =>
        (progOn s Reg.tcaRebuildProg = false → rd s Reg.tcaRebuildTotal ≠ 0 →
          t.tca.rebuild = some n.val ∧ progOn t Reg.tcaRebuildProg = true ∧ fget t Reg.tcaRebuildProg 31 0 = 0) ∧
        (progOn s Reg.tcaRebuildProg = true → t.tca = s.tca ∧ flag t Reg.topErr 0 = true) ∧
        t.tca.rows = s.tca.rows ∧
        Only [.tca] ([Reg.tcaRebuildCtrl, Reg.tcaRebuildProg] ++ errRegs ++ portRegs m) s t) ∧
    (∀ (m : Requester) (n : Fin 64), mayWrite s m Reg.tcaRebuildCtrl 4 = true →
      Ends (.rebuildStop m n) s fun t =>
        progOn t Reg.tcaRebuildProg = false ∧ t.tca = { s.tca with rebuild := none } ∧
        Only [.tca] ([Reg.tcaRebuildCtrl, Reg.tcaRebuildProg] ++ errRegs ++ portRegs m) s t)

/-- SEARCH, INSERT, READ, DELETE and UPDATE on a DRAM table begin with the granule reads of the buckets they name (R242, R244, R247, R256, R257, R261, R262, R263, R268, R269, R554). -/
def Obligations.DramTableCommandsBeginWithTheirReads : Prop :=
  ∀ (s : State) (c : TCmd) (d : TblDecl), awake s = true → tblOf s c.table = some d → cmdOf s c.id = some c →
    s.tcr.gone.contains c.id = false →
    (∀ bs, dramHead s 1 (fun _ => true) = some c → hshWiping s c.table = false → c.input = some (some bs) → c.ue = false →
      s.hsh.keys = [] → addrOk s c.ring c.addr (cdiv d.keyBits 8) false = true → fieldAt bs 0 (cdiv d.keyBits 8) < 2 ^ d.keyBits →
      Ends .hshSearch s fun t =>
        let key : Key := BitVec.ofNat 640 (fieldAt bs 0 (cdiv d.keyBits 8))
        let k := candidates s c.table d key.toNat 0
        (keysLeft s = 0 → t.hsh = { s.hsh with keys := [(s.cycle, ringMaster c.ring, .cmd c.id, c.table, key, false)] } ∧
          t.rgl = s.rgl) ∧
        (0 < keysLeft s → t.hsh.keys = [] ∧ keysLeft t = keysLeft s - 1) ∧
        (0 < keysLeft s → d.kind ≠ 5 → k.1 % 4 ≠ k.2 % 4 ∧ ∃ r ∈ t.rgl.reqs, r.id = s.rgl.nextId ∧ r.master = ringMaster c.ring ∧
          r.since = s.cycle + 2 ∧ r.purpose = .hashSearch (.cmd c.id) c.table key false ∧
          r.grans = [Gran.rd (d.base + k.1), Gran.rd (d.base + k.2)]) ∧
        (0 < keysLeft s → d.kind = 5 → t.hsh.waiting =
          s.hsh.waiting ++ [(s.cycle + 6, ringMaster c.ring, .cmd c.id, c.table, key, false)] ∧ t.rgl = s.rgl) ∧
        { c with started := true } ∈ t.tcr.cmds ∧ Only [.hsh, .rgl, .tcr] [] s t) ∧
    (∀ img, dramHead s 3 (fun _ => true) = some c → hshWiping s c.table = false → c.input = some (some img) →
      c.ue = false → addrOk s c.ring c.addr (imageLen d) false = true → imageFormatOk d img true = true → Ends .hshInsert s fun t =>
        let j := imageLenix img
        let k := candidates s c.table d (imageKey d img) j
        let gs := [subBase s c.table d j + k.1, subBase s c.table d j + k.2]
        (laneOpen s c.table gs = true →
          t.hsh = { s.hsh with ops := s.hsh.ops ++ [newHop s c j .read0 (img.drop 16) (imageKey d img) gs] } ∧
          (∃ r ∈ t.rgl.reqs, r.id = s.rgl.nextId ∧ r.purpose = .hashCmd c.id ∧ r.since = s.cycle + 2 ∧
            r.grans = gs.map Gran.rd) ∧ Only [.hsh, .rgl, .tcr] [] s t) ∧
        (laneOpen s c.table gs = false → Only [] [] s t)) ∧
    (∀ g, c.byKey = false → hStash c.handle = false → hshWiping s c.table = false → dramMoved s c = none →
      g = subBase s c.table d (hLenix c.handle) + hBucket c.handle →
      (dramHead s 0x11 (fun x => x.byKey) = some c → c.input = none → addrOk s c.ring c.addr (imageLen d) true = true →
        Ends .hshRead s fun t =>
          t.hsh = { s.hsh with ops := s.hsh.ops ++ [newHop s c (hLenix c.handle) .readNamed [] 0 [g]] } ∧
          (∃ r ∈ t.rgl.reqs, r.id = s.rgl.nextId ∧ r.purpose = .hashCmd c.id ∧ r.grans = [Gran.rd g]) ∧
          Only [.hsh, .rgl, .tcr] [] s t) ∧
      (dramHead s 4 (fun x => x.byKey) = some c → c.input = none → laneOpen s c.table [g] = true →
        Ends .hshDelete s fun t =>
          t.hsh = { s.hsh with ops := s.hsh.ops ++ [newHop s c (hLenix c.handle) .readNamed [] 0 [g]] } ∧
          (∃ r ∈ t.rgl.reqs, r.id = s.rgl.nextId ∧ r.purpose = .hashCmd c.id ∧ r.grans = [Gran.rd g]) ∧
          Only [.hsh, .rgl, .tcr] [] s t) ∧
      (∀ img, dramHead s 0x12 (fun _ => true) = some c → c.input = some (some img) → c.ue = false →
        addrOk s c.ring c.addr (imageLen d) false = true → imageHeaderOk d img = true → laneOpen s c.table [g] = true →
        Ends .hshUpdate s fun t =>
          t.hsh = { s.hsh with ops := s.hsh.ops ++ [newHop s c (hLenix c.handle) .readNamed (img.drop 16) 0 [g]] } ∧
          (∃ r ∈ t.rgl.reqs, r.id = s.rgl.nextId ∧ r.purpose = .hashCmd c.id ∧ r.grans = [Gran.rd g]) ∧
          Only [.hsh, .rgl, .tcr] [] s t)) ∧
    (∀ r, dramHead s 4 (fun x => x.byKey) = some c → c.byKey = false → hshWiping s c.table = false →
      dramMoved s c = some r → Ends .hshDelete s fun t =>
        (∃ k ∈ t.tcr.compl, k.cmdId = c.cmdId ∧ k.status = 2 ∧ k.handle = r.handle ∧ k.restart = r.restart) ∧
        cmdOf t c.id = none ∧ Only [.tcr] [] s t) ∧
    (dramHead s 3 (fun _ => true) = some c → hshWiping s c.table = true → Ends .hshInsert s fun t =>
      (∃ k ∈ t.tcr.compl, k.cmdId = c.cmdId ∧ k.status = 0x0E) ∧ cmdOf t c.id = none ∧ Only [.tcr] [] s t)

/-- NEXT, WIPE and FLUSH_PORT on a DRAM table, and the weights of its prefix lengths (R245, R263, R265, R270, R276, R338, R339). -/
def Obligations.DramTablesAreWalkedWipedFlushedAndWeighted : Prop :=
  ∀ (s : State),
    (∀ (c : TCmd) (d : TblDecl) (pos : Nat), awake s = true → tblOf s c.table = some d →
      dramHead s 2 (fun _ => false) = some c → hshWiping s c.table = false → c.input = none →
      (c.start = true ∧ pos = 0 ∨ c.start = false ∧ nextMoved s c = none ∧ pos = scanPos s c.table d c.handle) →
      addrOk s c.ring c.addr (imageLen d) true = true → scanGrans s c.table d pos ≠ [] → Ends .hshNext s fun t =>
        (∃ r ∈ t.rgl.reqs, r.id = s.rgl.nextId ∧ r.purpose = .hashCmd c.id ∧ r.since = s.cycle + 2 ∧
          r.grans = (scanGrans s c.table d pos).map Gran.rd) ∧
        (∃ o ∈ t.hsh.ops, o.id = c.id ∧ o.phase = .scan ∧ o.cursor = pos) ∧ Only [.hsh, .rgl, .tcr] [] s t) ∧
    (∀ (c : TCmd) (d : TblDecl), awake s = true → tblOf s c.table = some d → dramHead s 0x13 (fun _ => false) = some c →
      (∀ o ∈ s.hsh.ops, o.table = c.table → isWriteOp o.opcode = false) → Ends .hshWipe s fun t =>
        hshWiping t c.table = true ∧ t.hsh.gen.nat c.table = (s.hsh.gen.nat c.table + 1) % 65536 ∧
        (∀ i, i < 64 → stashAt t c.table i = none) ∧
        ((∀ i, i < 64 → stashAt s c.table i = none) → t.hsh.entries = s.hsh.entries) ∧
        (∀ p, p < 2 ^ 24 → t.hsh.filter.get (fun _ => false) (c.table * 2 ^ 24 + p) = false) ∧
        (flag s Reg.intFlipCtrl 31 = false → bloomBase s c.table + 16 * d.bloom ≤ 2 ^ 36 → ∀ p, p < 1024 * d.bloom → d.kind = 5 → filterBit t c.table p = false) ∧
        (∀ u, u ≠ c.table → t.hsh.gen.nat u = s.hsh.gen.nat u ∧ hshWiping t u = hshWiping s u) ∧
        (∃ r ∈ t.rgl.reqs, r.purpose = .wipe c.table ∧ r.grans = [holdIf d (Gran.wr d.base ((List.range 64).map (fun i => (i, 0))))]) ∧
        Only [.hsh, .rgl, .tcr, .intg] (Reg.topLedgerBreak :: flipRegs) s t) ∧
    (∀ c : TCmd, awake s = true → dramHead s 6 (fun _ => false) = some c → cmdOf s c.id = some c →
      s.tcr.gone.contains c.id = false → hshWiping s c.table = false → s.age.flush.isSome = true →
      Ends .flushPort s fun t =>
        (∃ k ∈ t.tcr.compl, k.cmdId = c.cmdId ∧ k.status = 0x12) ∧ cmdOf t c.id = none ∧ Only [.tcr] [] s t) ∧
    (∀ (c : TCmd) (d : TblDecl), awake s = true → dramHead s 6 (fun _ => false) = some c → tblOf s c.table = some d →
      hshWiping s c.table = false → s.age.flush = none → 0 < bucketGrans s c.table →
      Ends .flushPort s fun t =>
        (∃ f, t.age.flush = some f ∧ f.id = c.id ∧ f.table = c.table ∧ f.port = bitsOf c.arg0 4 0 ∧ f.removed = 0) ∧
        fget t Reg.ageFlushTotal 31 0 = bucketGrans s c.table % 2 ^ 32 ∧ progOn t Reg.ageFlushProg = true ∧
        { c with started := true } ∈ t.tcr.cmds ∧
        Only [.age, .rgl, .tcr] [Reg.ageFlushProg, Reg.ageFlushTotal] s t) ∧
    (∀ (m : Requester) (v : BitVec 32), mayWrite s m Reg.hshPfxShare 4 = true → Ends (.hshPfxShareWrite m v) s fun t =>
      (v.toNat % 256 ≠ 0 → locked s = false → hshEntries s (pfxTable s) = 0 →
        weight t (pfxTable s) (pfxLenix s) = v.toNat % 256 ∧
        (∀ u j, u * 16 + j ≠ pfxTable s * 16 + pfxLenix s → weight t u j = weight s u j) ∧
        Only [.hsh] (portRegs m) s t) ∧
      (v.toNat % 256 = 0 ∨ locked s = false ∧ hshEntries s (pfxTable s) ≠ 0 →
        flag t Reg.topErr 0 = true ∧ Only [] (errRegs ++ portRegs m) s t))

/-- The waymark writer: release in stream order, group and header writes, pressure freeing and age visits (R284, R285, R286, R288, R292, R293). -/
def Obligations.WaymarksSettleGroupAndGiveWayToNewOnes : Prop :=
  ∀ (s : State), awake s = true →
    (∀ i x, dueRelease s = some i → x = streamOf s i.stream → x.owned ≠ 0 → mustClose s i = false →
      x.bad = false → streamBad s i.stream = false → pageBad s x.openPage = false →
      Ends .settleRelease s fun t =>
        i ∈ s.way.settle ∧ i.acc + s.way.settleS ≤ s.cycle ∧
        (∀ j ∈ s.way.settle, j.stream = i.stream → streamKey i ≤ streamKey j) ∧
        t.way.settle = s.way.settle.erase i ∧ (streamOf t i.stream).placed = x.placed + 1 ∧
        t.way.recs = s.way.recs ++ [⟨i.stream, x.openPage, x.placed, s.cycle,
          i.stamp.ns - (if x.placed = 0 then i.stamp.ns else (pageOf s x.openPage).milestone),
          recordBytes (i.stamp.ns - (if x.placed = 0 then i.stamp.ns else (pageOf s x.openPage).milestone)) i, false,
          i.place, false⟩] ∧
        t.way.used = s.way.used ∧ (∀ n, n ≠ i.stream → streamOf t n = streamOf s n) ∧
        (s.way.heldOrder.length < 2048 → Only [.way, .intg] flipRegs s t) ∧
        Only [.way, .intg, .rgl] (flipRegs ++ readRegs 8 ++ [Reg.wayCnt 12, Reg.wayCnt 13, Reg.wayEvt, Reg.wayErr]) s t) ∧
    (∀ k, heldM s 46 true = false → dueGroup s = some k → Ends .groupWrite s fun t =>
      (∀ r ∈ t.way.recs, r.page = k.1 → r.index / 8 = k.2 → r.written = true) ∧
      (∃ r ∈ t.rgl.reqs, r.id = s.rgl.nextId ∧ r.master = 46 ∧ r.grans = recGrans s (groupRecs s k.1 k.2)) ∧
      t.way.pages = s.way.pages ∧ rd t (Reg.wayCnt 11) = (rd s (Reg.wayCnt 11) + 1) % 2 ^ 48 ∧
      ((groupRecs s k.1 k.2).any (fun r => badWords s 8 (placeWord r.place) 4) = true → flag t Reg.wayEvt 2 = true ∧
        Only [.way, .rgl, .intg] ([Reg.wayCnt 11, Reg.wayCnt 13, Reg.wayEvt, Reg.wayErr] ++ readRegs 8) s t) ∧
      ((groupRecs s k.1 k.2).any (fun r => badWords s 8 (placeWord r.place) 4) = false →
        Only [.way, .rgl, .intg] (Reg.wayCnt 11 :: readRegs 8) s t)) ∧
    (∀ k, heldM s 46 true = false → dueGroup s = none → dueHeader s = some k → Ends .groupWrite s fun t =>
      t.way = { s.way with heldOrder := s.way.heldOrder.filter (fun x => x ≠ k) } ∧
      (∃ r ∈ t.rgl.reqs, r.id = s.rgl.nextId ∧ r.master = 46 ∧ r.purpose = .wayHeader k) ∧
      rd t (Reg.wayCnt 12) = (rd s (Reg.wayCnt 12) + 1) % 2 ^ 48 ∧
      Only [.way, .rgl, .intg] ([Reg.wayCnt 12, Reg.wayCnt 13, Reg.wayEvt, Reg.wayErr] ++ readRegs 8) s t) ∧
    (heldM s 46 true = true → (Ends .groupWrite s fun t => Only [] [] s t) ∧ (Ends .combineTimeout s fun t => Only [] [] s t)) ∧
    (∀ k, heldM s 46 true = false → timedGroup s = some k → Ends .combineTimeout s fun t =>
      (∃ r ∈ s.way.recs, r.page = k.1 ∧ r.index / 8 = k.2 ∧ r.since + fget s Reg.wayCtrl 25 16 * 800 ≤ s.cycle) ∧
      (∀ r ∈ t.way.recs, r.page = k.1 → r.index / 8 = k.2 → r.written = true) ∧
      (∃ r ∈ t.rgl.reqs, r.id = s.rgl.nextId ∧ r.master = 46 ∧ r.grans = recGrans s (groupRecs s k.1 k.2)) ∧
      t.way.pages = s.way.pages ∧
      Only [.way, .rgl, .intg] ([Reg.wayCnt 11, Reg.wayCnt 13, Reg.wayEvt, Reg.wayErr] ++ readRegs 8) s t) ∧
    (∀ v, pressureOn s = true → s.way.nextFree ≤ s.cycle → victim s = some v → Ends .pressureFree s fun t =>
      (pageOf t (streamOf s v).head).owned = false ∧ (streamOf t v).owned = (streamOf s v).owned - 1 ∧
      (∀ n, n ≠ v → streamOf t n = streamOf s n) ∧ (∀ p, p ≠ (streamOf s v).head → pageOf t p = pageOf s p) ∧
      t.way.nextFree = s.cycle + 4 ∧ rd t (Reg.wayCnt 5) = (rd s (Reg.wayCnt 5) + 1) % 2 ^ 48 ∧
      Only [.way, .intg] ([Reg.wayCnt 5, Reg.wayEvt] ++ flipRegs ++ ledgerRegs) s t) ∧
    (pressureOn s = false → Ends .pressureFree s fun t => Only [] [] s t) ∧
    (s.cycle < s.way.visitAt → Ends .ageVisit s fun t => Only [] [] s t) ∧
    (writerIdle s = true → s.way.visitAt ≤ s.cycle → Ends .ageVisit s fun t =>
      t.way.visit = (s.way.visit + 1) % 65536 ∧
      (agedOut s s.way.visit = true → (pageOf t (streamOf s s.way.visit).head).owned = false ∧
        (streamOf t s.way.visit).owned = (streamOf s s.way.visit).owned - 1 ∧ flag t Reg.wayEvt 5 = true ∧
        rd t (Reg.wayCnt 6) = (rd s (Reg.wayCnt 6) + 1) % 2 ^ 48 ∧
        Only [.way, .intg] ([Reg.wayCnt 6, Reg.wayEvt] ++ flipRegs ++ ledgerRegs) s t) ∧
      (agedOut s s.way.visit = false → t.way = { s.way with
          visit := (s.way.visit + 1) % 65536
          visitAt := s.cycle + 1 } ∧ Only [.way] [] s t))

/-- QUERY and WNEXT begin their rounds or end with a status; FLUSH_STREAM empties a stream; quotas cannot be overcommitted (R14, R290, R295, R296, R298, R299, R302, R303, R310). -/
def Obligations.LookBackFlushAndQuotasOfStreams : Prop :=
  ∀ (s : State),
    (∀ c p, awake s = true → headWith s 0x20 (fun _ => true) = some c → addrOk s c.ring c.addr 32 true = true →
      streamBad s (bitsOf c.arg0 15 0) = false → (∀ q ∈ segPages s (bitsOf c.arg0 15 0), pageBad s q = false) →
      (segPages s (bitsOf c.arg0 15 0)).find? (fun q =>
        decide ((pageOf s q).fill > 0) && decide ((pageOf s q).milestone + (pageOf s q).lastOfs ≥ c.arg1)) = some p →
      Ends .query s fun t =>
        (∃ q ∈ t.way.queries, q.id = s.rgl.nextId ∧ q.who = .cmd c.id ∧ q.stream = bitsOf c.arg0 15 0 ∧
          q.time = c.arg1 ∧ q.page = p ∧ q.round = 1) ∧
        (∃ r ∈ t.rgl.reqs, r.purpose = .wayQuery s.rgl.nextId ∧ r.since = s.cycle + 40 ∧ r.grans = headerGrans s p) ∧
        { c with started := true } ∈ t.tcr.cmds ∧ t.way.pages = s.way.pages ∧
        rd t (Reg.wayCnt 7) = (rd s (Reg.wayCnt 7) + 1) % 2 ^ 48 ∧
        Only [.way, .rgl, .tcr, .intg] (Reg.wayCnt 7 :: readRegs 6 ++ readRegs 7) s t) ∧
    (∀ c, awake s = true → headWith s 0x20 (fun _ => true) = some c → addrOk s c.ring c.addr 32 true = true →
      streamBad s (bitsOf c.arg0 15 0) = false → (∀ q ∈ segPages s (bitsOf c.arg0 15 0), pageBad s q = false) →
      (∀ q ∈ segPages s (bitsOf c.arg0 15 0), (pageOf s q).fill = 0 ∨ (pageOf s q).milestone + (pageOf s q).lastOfs < c.arg1) →
      Ends .query s fun t =>
        (∃ q r, t.way.ended = s.way.ended ++ [(s.cycle + 40, q, r, false)] ∧ q.who = .cmd c.id ∧ r.status = 3 ∧
          r.handle = resumeHandle s (bitsOf c.arg0 15 0)) ∧
        t.way.pages = s.way.pages ∧ Only [.way, .tcr, .intg] (Reg.wayCnt 7 :: readRegs 6 ++ readRegs 7) s t) ∧
    (∀ (due : Nat) (q : WayQ) (r : WayRes) (c : TCmd), s.way.ended = [(due, q, r, false)] → due ≤ s.cycle →
      q.who = .cmd c.id → r.status = 3 → cmdOf s c.id = some c → s.tcr.gone.contains c.id = false →
      let t := wayDue s
      (∃ k ∈ t.tcr.compl, k.cmdId = c.cmdId ∧ k.status = 3 ∧ k.handle = r.handle) ∧ cmdOf t c.id = none ∧
        t.way = { s.way with ended := [] } ∧ Only [.way, .tcr] [] s t) ∧
    (∀ c, awake s = true → headWith s 0x21 (fun _ => true) = some c → cmdOf s c.id = some c →
      s.tcr.gone.contains c.id = false → Ends .wnext s fun t =>
        let p := bitsOf c.handle 31 16
        let i := bitsOf c.handle 8 0
        (pageBad s p = true → (∃ k ∈ t.tcr.compl, k.cmdId = c.cmdId ∧ k.status = 0x0A) ∧ cmdOf t c.id = none ∧
          (streamOf t (pageOf s p).stream).bad = true ∧ flag t Reg.wayEvt 2 = true ∧ t.way.pages = s.way.pages ∧
          Only [.way, .tcr, .intg] ([Reg.wayCnt 9, Reg.wayCnt 13, Reg.wayEvt, Reg.wayErr] ++ readRegs 6 ++ readRegs 7) s t) ∧
        (pageBad s p = false → streamBad s (pageOf s p).stream = false →
          (pageOf s p).owned = false ∨ (pageOf s p).use ≠ bitsOf c.handle 47 32 →
          (∃ k ∈ t.tcr.compl, k.cmdId = c.cmdId ∧ k.status = 0x10) ∧ cmdOf t c.id = none ∧
          rd t (Reg.wayCnt 9) = (rd s (Reg.wayCnt 9) + 1) % 2 ^ 48 ∧ Only [.tcr, .intg] (Reg.wayCnt 9 :: readRegs 6 ++ readRegs 7) s t) ∧
        (pageBad s p = false → streamBad s (pageOf s p).stream = false →
          (pageOf s p).owned = true → (pageOf s p).use = bitsOf c.handle 47 32 → addrOk s c.ring c.addr 32 true = true →
          (i + 1 < (pageOf s p).fill →
            (∃ r ∈ t.rgl.reqs, r.purpose = .wayQuery s.rgl.nextId ∧ r.grans = groupGrans s p ((i + 1) / 8)) ∧
            { c with started := true } ∈ t.tcr.cmds ∧
            Only [.way, .rgl, .tcr, .intg] (Reg.wayCnt 9 :: readRegs 6 ++ readRegs 7) s t) ∧
          ((pageOf s p).fill ≤ i + 1 → (streamOf s (pageOf s p).stream).openPage = p →
            (∃ k ∈ t.tcr.compl, k.cmdId = c.cmdId ∧ k.status = 0x0C ∧ k.handle = c.handle) ∧ cmdOf t c.id = none ∧
            Only [.tcr, .intg] (Reg.wayCnt 9 :: readRegs 6 ++ readRegs 7) s t))) ∧
    (∀ (m : Requester) (v : BitVec 32), mayWrite s m Reg.wayFlush 4 = true → bitOf v.toNat 31 = true →
      Ends (.flushStream m v) s fun t =>
        (progOn s Reg.wayFlushProg = true → flag t Reg.topErr 0 = true ∧ Only [] (errRegs ++ portRegs m) s t) ∧
        (progOn s Reg.wayFlushProg = false → wayPages s ≠ 0 →
          t.way.flush = some (v.toNat % 65536, s.cycle, s.way.allocs) ∧ progOn t Reg.wayFlushProg = true ∧
          (streamOf t (v.toNat % 65536)).owned = 0 ∧ (streamOf t (v.toNat % 65536)).flushing = true ∧
          t.way.settle = s.way.settle.filter (fun i => i.stream ≠ v.toNat % 65536) ∧
          (∀ n, n ≠ v.toNat % 65536 → streamOf t n = streamOf s n) ∧
          Only [.way, .intg] ([Reg.wayFlush, Reg.wayFlushProg, Reg.wayFlushTotal, Reg.wayCnt 14, Reg.wayEvt] ++ flipRegs ++
            portRegs m) s t)) ∧
    (∀ n since a, awake s = true → s.way.flush = some (n, since, a) → since + wayPages s ≤ s.cycle →
      Ends .flushStreamEnd s fun t =>
        t.way.flush = none ∧ (streamOf t n).flushing = false ∧ progOn t Reg.wayFlushProg = false ∧
        (∀ e ∈ t.way.pages, e.2.owned = true → e.2.stream = n →
          ∃ j, j < s.way.allocs - a ∧ e.2.alloc % 2 ^ 32 = (a + j) % 2 ^ 32) ∧
        (∀ u, u ≠ n → streamOf t u = streamOf s u) ∧ flag t Reg.wayEvt 3 = true ∧
        Only [.way, .intg] ([Reg.wayFlushProg, Reg.wayEvt] ++ flipRegs ++ ledgerRegs) s t) ∧
    (∀ (m : Requester) (v : BitVec 64) (sum : Nat), mayWrite s m Reg.wayStreamCfg 8 = true →
      sum = (s.way.streams.map (fun e => e.2.min)).foldl (· + ·) 0 - (streamOf s (selStream s)).min + bitsOf v.toNat 30 16 →
      Ends (.wayStreamCfgWrite m v) s fun t =>
        (wayPages s < sum ∨ bitsOf v.toNat 15 0 ≠ 0 ∧ bitsOf v.toNat 15 0 < bitsOf v.toNat 30 16 →
          flag t Reg.topErr 0 = true ∧ Only [] (errRegs ++ portRegs m) s t) ∧
        (sum ≤ wayPages s → bitsOf v.toNat 15 0 = 0 ∨ bitsOf v.toNat 30 16 ≤ bitsOf v.toNat 15 0 →
          streamOf t (selStream s) = { streamOf s (selStream s) with
            min := bitsOf v.toNat 30 16
            max := bitsOf v.toNat 15 0
            ageMs := bitsOf v.toNat 63 32
            dis := bitOf v.toNat 31 } ∧
          (∀ n, n ≠ selStream s → streamOf t n = streamOf s n) ∧ Only [.way, .intg] (flipRegs ++ portRegs m) s t))

/-- A write of AGE_LIMIT changes TICK from the present base on and nothing else; zero or a table that does not age is refused (R322). -/
def Obligations.AgeLimitWriteRescalesWithoutTouchingTicks : Prop :=
  ∀ (s : State) (m : Requester) (n : Fin 64) (v : BitVec 32), mayWrite s m (Reg.ageLimit n.val) 4 = true →
    (∀ d, tblOf s n.val = some d → d.age = true → v.toNat ≠ 0 → Ends (.ageLimitWrite m n v) s fun t =>
      rd t (Reg.ageLimit n.val) = v.toNat ∧ tickNs t n.val = v.toNat * 15625 ∧ t.age.tick = s.age.tick ∧
      t.age.base = s.age.base ∧ t.drc.mem = s.drc.mem ∧ t.hsh.stash = s.hsh.stash ∧
      Only [] (Reg.ageLimit n.val :: portRegs m) s t) ∧
    ((v.toNat = 0 ∨ ∀ d, tblOf s n.val = some d → d.age = false) → Ends (.ageLimitWrite m n v) s fun t =>
      flag t Reg.topErr 0 = true ∧ Only [] (errRegs ++ portRegs m) s t)

/-- Tick counters advance by every tick passed; laps start, end and stop with their registers (R320, R324, R326, R327, R40). -/
def Obligations.TicksAndLapsKeepTheirCounts : Prop :=
  ∀ (s : State),
    (awake s = true → Ends .tickAdvance s fun t =>
      (∀ n ∈ agingTables s, tickNs s n ≠ 0 →
        t.age.tick.nat n = s.age.tick.nat n + (nowNs s - s.age.base.nat n) / tickNs s n ∧
        t.age.base.nat n = s.age.base.nat n + (nowNs s - s.age.base.nat n) / tickNs s n * tickNs s n) ∧
      (∀ n, n ∉ agingTables s → t.age.tick.nat n = s.age.tick.nat n ∧ t.age.base.nat n = s.age.base.nat n) ∧
      t.age.lap = s.age.lap ∧ Only [.age] [] s t) ∧
    (awake s = true → Ends .agingLapStart s fun t =>
      (lapMayStart s = true → (∃ l, t.age.lap = some l ∧ l.start = s.cycle) ∧ t.age.lastStart = some s.cycle ∧
        rd t Reg.ageLapTotal = ((lapTables s).map (bucketGrans s)).foldl (· + ·) 0 % 2 ^ 64 ∧
        t.age.tick = s.age.tick ∧ t.drc.mem = s.drc.mem) ∧
      (lapMayStart s = false → Only [] [] s t)) ∧
    (∀ l, awake s = true → s.age.lap = some l → lapOver s = true → Ends .agingLapEnd s fun t =>
      t.age = { s.age with lap := none } ∧
      fget t Reg.ageLap 31 0 = (fget s Reg.ageLap 31 0 + 1) % 2 ^ 32 ∧
      fget t Reg.ageLap 63 32 = satW 32 ((s.cycle - l.start) / 800) ∧ flag t Reg.ageEvt 0 = true ∧
      (l.shortest ≠ 0 → 512 * l.shortest * 800000 < s.cycle - l.start → flag t Reg.ageEvt 1 = true) ∧ progOn t Reg.ageLapProg = false ∧
      Only [.age] ([Reg.ageLapProg, Reg.ageLap, Reg.ageEvt] ++ ledgerRegs) s t) ∧
    (∀ (m : Requester) (v : BitVec 32), mayWrite s m Reg.ageCtrl 4 = true → Ends (.agingEnable m v) s fun t =>
      flag t Reg.ageCtrl 0 = bitOf v.toNat 0 ∧ t.age = s.age ∧ Only [] (Reg.ageCtrl :: errRegs ++ portRegs m) s t) ∧
    (∀ l, s.age.lap = some l → l.walked = false → s.pwr.stopGrants = false → s.rgl.reqs = [] → s.rgl.parked = [] →
      flag s Reg.ageCtrl 0 = false →
      let t := sweepPump s
      t.age = { s.age with
          lap := none
          outstanding := 0 } ∧ progOn t Reg.ageLapProg = false ∧ Only [.age] [Reg.ageLapProg] s t)

/-- A learn notification is dropped as a duplicate or for want of room, or queued with the losses before it, then written to the ring (R314, R315, R316, R317, R318, R319). -/
def Obligations.LearnNotificationsAreCheckedQueuedAndWritten : Prop :=
  ∀ (s : State),
    (∀ n d, awake s = true → minByKey notifKey s.lrn.raised = some n → n.raisedAt < s.cycle →
      s.lrn.checkAt ≠ s.cycle ∨ s.lrn.checkN < 4 → s.pwr.stopGrants = false → tblOf s n.table = some d →
      Ends .learnCheck s fun t =>
        t.lrn.raised = s.lrn.raised.erase n ∧ t.lrn.raisedN = s.lrn.raisedN ∧ t.lrn.delivered = s.lrn.delivered ∧
        (isDuplicate s (fingerprint n.table d n.key) n.ns = true →
          t.lrn.queue = s.lrn.queue ∧ t.lrn.dropped = s.lrn.dropped + 1 ∧
          rd t (Reg.lrnCnt 2) = (rd s (Reg.lrnCnt 2) + 1) % 2 ^ 48 ∧ Only [.lrn] (Reg.lrnCnt 2 :: ledgerRegs) s t) ∧
        (isDuplicate s (fingerprint n.table d n.key) n.ns = false → fget s Reg.lrnRate 15 0 = 0 → lrnRoom s = false →
          t.lrn.queue = s.lrn.queue ∧ t.lrn.dropped = s.lrn.dropped + 1 ∧ flag t Reg.lrnEvt 2 = true ∧
          rd t (Reg.lrnCnt 4) = (rd s (Reg.lrnCnt 4) + 1) % 2 ^ 48 ∧
          Only [.lrn] (Reg.lrnCnt 4 :: Reg.lrnEvt :: ledgerRegs) s t) ∧
        (isDuplicate s (fingerprint n.table d n.key) n.ns = false → fget s Reg.lrnRate 15 0 = 0 → lrnRoom s = true →
          t.lrn.queue = s.lrn.queue ++ [{ n with lost := s.lrn.lost }] ∧ t.lrn.lost = 0 ∧
          t.lrn.dropped = s.lrn.dropped ∧ Only [.lrn, .intg] (flipRegs ++ ledgerRegs) s t)) ∧
    (awake s = true → s.lrn.checkAt = s.cycle → 4 ≤ s.lrn.checkN → Ends .learnCheck s fun t => Only [] [] s t) ∧
    (awake s = true → heldM s 42 false = true → Ends .learnRingWrite s fun t => Only [] [] s t) ∧
    (∀ n rest d, awake s = true → s.lrn.queue = n :: rest → s.pwr.stopGrants = false → heldM s 42 false = false →
      tblOf s n.table = some d → s.spm.waiting = [] → s.spm.portCycle ≤ s.cycle → s.nvc.wipeAt = none →
      Ends .learnRingWrite s fun t =>
        t.lrn = { s.lrn with
          queue := rest
          delivered := s.lrn.delivered + 1 } ∧
        fget t Reg.lrnHead 15 0 = (fget s Reg.lrnHead 15 0 + 1) % 65536 ∧
        rd t (Reg.lrnCnt 1) = (rd s (Reg.lrnCnt 1) + 1) % 2 ^ 48 ∧ flag t Reg.lrnEvt 0 = true ∧
        keepsUnits [.lrn, .spm, .intg] s t) ∧
    (∀ m : Requester, mayWrite s m Reg.lrnRingSize 4 = true → Ends (.learnRingDisable m) s fun t =>
      fget t Reg.lrnRingSize 3 0 = 0 ∧ t.lrn.queue = [] ∧ t.lrn.raised = s.lrn.raised ∧
      t.lrn.dropped = s.lrn.dropped + s.lrn.queue.length ∧
      rd t (Reg.lrnCnt 4) % 2 ^ 48 = (rd s (Reg.lrnCnt 4) + s.lrn.queue.length) % 2 ^ 48 ∧
      Only [.lrn, .spm] ([Reg.lrnRingSize, Reg.lrnCnt 4, Reg.lrnEvt] ++ ledgerRegs ++ portRegs m) s t)

/-- A commit of RGL_CLASS is refused under R8, refused with OVERCOMMIT, or accepted for the next window (R359, R366, R371). -/
def Obligations.ClassCommitsAreAdmittedOrRefused : Prop :=
  ∀ (s : State) (m : Requester) (c : Fin 8) (v : BitVec 64) (gs gg ss sg : Nat),
    mayWrite s m (Reg.rglClass c.val) 8 = true → gs = bitsOf v.toNat 10 0 → gg = bitsOf v.toNat 42 32 →
    ss = (List.range 8).foldl (fun a i => a + if i = c.val then gs else bitsOf (rd0 s (Reg.rglClass i)) 10 0) 0 →
    sg = (List.range 8).foldl (fun a i => a + if i = c.val then gg else bitsOf (rd0 s (Reg.rglClass i)) 42 32) 0 →
    Ends (.rglClassCommit m c v) s fun t =>
      (bitsOf v.toNat 63 48 < 16 ∨ 1600 < gs ∨ 1440 < gg ∨
          (bitsOf (rd0 s (Reg.rglCeil c.val)) 10 0 ≠ 0 ∧ bitsOf (rd0 s (Reg.rglCeil c.val)) 10 0 < gs) ∨
          (bitsOf (rd0 s (Reg.rglCeil c.val)) 26 16 ≠ 0 ∧ bitsOf (rd0 s (Reg.rglCeil c.val)) 26 16 < gg) →
        flag t Reg.topErr 0 = true ∧ Only [] (errRegs ++ portRegs m) s t) ∧
      (16 ≤ bitsOf v.toNat 63 48 → gs ≤ 1600 → gg ≤ 1440 →
        ceilingOk (bitsOf (rd0 s (Reg.rglCeil c.val)) 10 0) gs = true →
        ceilingOk (bitsOf (rd0 s (Reg.rglCeil c.val)) 26 16) gg = true →
        (fget s Reg.rglBudget 10 0 < ss ∨ fget s Reg.rglBudget 26 16 < sg →
          flag t Reg.rglEvt 3 = true ∧ fget t Reg.rglAdmit 55 48 = c.val ∧ fget t Reg.rglAdmit 45 32 = sg % 2 ^ 14 ∧
          fget t Reg.rglAdmit 13 0 = ss % 2 ^ 14 ∧ Only [] ([Reg.rglAdmit, Reg.rglEvt] ++ portRegs m) s t) ∧
        (ss ≤ fget s Reg.rglBudget 10 0 → sg ≤ fget s Reg.rglBudget 26 16 →
          fget t (Reg.rglClass c.val) 10 0 = gs ∧ fget t (Reg.rglClass c.val) 42 32 = gg ∧
          fget t (Reg.rglClass c.val) 63 48 = bitsOf v.toNat 63 48 ∧ t.rgl = { s.rgl with dirty := true } ∧
          Only [.rgl] (Reg.rglClass c.val :: portRegs m) s t))

/-- A welt port climbs SEEK, DESKEW, TRAIN, UP with its identity checked, and falls back to SEEK or MISMATCH (R376, R378, R385, R386, R387, R404, R406). -/
def Obligations.WeltLinkTrainsAndFallsBack : Prop :=
  ∀ (s : State) (k : Fin 2) (x : WPort), x = wport s k.val →
    (∀ lanes : BitVec 4, awake s = true → x.state = 1 → x.lanes ||| lanes.toNat = 15 → Ends (.weltLockGain k lanes) s fun t =>
      wport t k.val = { x with
        lanes := 15
        state := 2
        since := s.cycle
        parts := 0
        acks := 0
        trains := 0
        acked := false
        trainTx := 0
        cause := 0 } ∧ (∀ j, j ≠ k.val → wport t j = wport s j) ∧ Only [.wlt] [] s t) ∧
    (awake s = true → x.state = 2 → Ends (.deskewDone k) s fun t =>
      wport t k.val = { x with state := 3 } ∧ (∀ j, j ≠ k.val → wport t j = wport s j) ∧ Only [.wlt] [] s t) ∧
    (∀ (ack : Bool) (v : BitVec 32), awake s = true → x.state = 3 → Ends (.weltTrainReceive k 1 ack 1 v) s fun t =>
      (wport t k.val).acks = (if ack then x.acks + 1 else 0) ∧ (wport t k.val).parts = x.parts ||| 2 ∧
      (wport t k.val).trains = x.trains + 1 ∧
      (wport t k.val).acked = (x.acked || decide (8 ≤ (wport t k.val).acks)) ∧
      (v.toNat = rd s Reg.imgId / 2 ^ 32 → (wport t k.val).state = 3 ∧ Only [.wlt] [] s t) ∧
      (v.toNat ≠ rd s Reg.imgId / 2 ^ 32 → (wport t k.val).state = 6 ∧ (wport t k.val).cause = 8 ∧
        flag t (Reg.wltEvt k.val) 2 = true ∧ Only [.wlt] [Reg.wltEvt k.val] s t) ∧
      (∀ j, j ≠ k.val → wport t j = wport s j)) ∧
    (∀ (ml : BitVec 4) (ago : Nat), awake s = true → k.val = 1 → x.state = 3 → x.parts = 7 → x.acked = true →
      16 ≤ x.trainTx → Ends (.weltUp k ml ago) s fun t =>
        wport t 1 = { WPort.off with
          state := 4
          since := s.cycle
          lanes := x.lanes
          nPos := x.nPos
          nCount := x.nCount
          nRole := x.nRole
          cntHi := x.cntHi
          lastCredit := s.cycle
          creditAt := s.cycle } ∧ flag t (Reg.wltEvt 1) 0 = true ∧ t.wlt.slot = s.wlt.slot ∧
        Only [.wlt, .mil] (Reg.wltEvt 1 :: ledgerRegs) s t) ∧
    (∀ (ml : BitVec 4) (ago : Nat), awake s = true → k.val = 0 → x.state = 3 → x.parts = 7 → x.acked = true →
      16 ≤ x.trainTx → Ends (.weltUp k ml ago) s fun t =>
        (ml.toNat ≤ 8 → (wport t 0).state = 4 ∧ (wport t 0).mlDelay = ml.toNat ∧ t.wlt.slotOn = true ∧
          t.wlt.slot = (x.cntHi * 2048 + 16 + 2 * ago) % 2 ^ 32 ∧ flag t (Reg.wltEvt 0) 0 = true) ∧
        (8 < ml.toNat → (wport t 0).state = 1 ∧ flag t (Reg.wltEvt 0) 4 = true) ∧
        Only [.wlt, .mil] (Reg.wltEvt 0 :: ledgerRegs) s t) ∧
    (awake s = true → x.state = 2 ∨ x.state = 3 → x.since + 1600000 ≤ s.cycle → Ends (.weltTrainFail k) s fun t =>
      wport t k.val = { x with
        state := 1
        since := s.cycle } ∧ flag t (Reg.wltEvt k.val) 4 = true ∧ Only [.wlt] [Reg.wltEvt k.val] s t) ∧
    (∀ lanes : BitVec 4, awake s = true → x.sends = true → x.lanes = 15 → lanes.toNat ≠ 0 →
      Ends (.weltLockLoss k lanes) s fun t =>
        (wport t k.val).state = 1 ∧ (wport t k.val).out = [] ∧ (wport t k.val).keyq = [] ∧ (wport t k.val).ansq = [] ∧
        flag t (Reg.wltEvt k.val) 1 = true ∧
        rd t (Reg.wltCnt k.val 9) = (rd s (Reg.wltCnt k.val 9) + 1) % 2 ^ 48 ∧
        (wport t (1 - k.val)).state = (wport s (1 - k.val)).state ∧ keepsUnits [.wlt, .mil, .brg] s t) ∧
    (∀ (m : Requester) (v : BitVec 32), mayWrite s m (Reg.wltCtrl k.val) 4 = true → flag s (Reg.wltCtrl k.val) 0 = true →
      bitOf v.toNat 0 = true → bitOf v.toNat 31 = true → Ends (.weltRestart m k v) s fun t =>
        (x.state = 0 ∧ s.img.applied = false → wport t k.val = x) ∧
        (x.state ≠ 0 → (wport t k.val).state = 1 ∧ (wport t k.val).since = s.cycle ∧
          (wport t k.val).lanes = x.lanes) ∧
        (wport t (1 - k.val)).state = (wport s (1 - k.val)).state ∧ keepsUnits [.wlt, .mil, .brg] s t) ∧
    (awake s = true → x.state = 5 → x.since + 8000 ≤ s.cycle → Ends (.recoverTimeout k) s fun t =>
      (wport t k.val).state = 1 ∧ (wport t k.val).out = [] ∧
      (wport t (1 - k.val)).state = (wport s (1 - k.val)).state ∧ keepsUnits [.wlt, .mil, .brg] s t)

/-- CREDIT blocks, framing errors and RESUME, resends, and what a KEY or ANS frame does at a device (R379, R382, R383, R388, R390, R392, R394, R400). -/
def Obligations.WeltCreditsFramesAndRecovery : Prop :=
  ∀ (s : State) (k : Fin 2) (x : WPort), awake s = true → x = wport s k.val →
    (∀ (key ans : BitVec 7) (p : BitVec 5) (np cpl : BitVec 4) (ack : BitVec 12) (nak : Bool), x.sends = true →
      Ends (.credit k key ans p np cpl ack nak) s fun t =>
        (wport t k.val).lastCredit = s.cycle ∧ (wport t k.val).peerFreed.nat 0 = key.toNat ∧
        (wport t k.val).peerFreed.nat 1 = ans.toNat ∧ (wport t k.val).peerFreed.nat 2 = p.toNat ∧
        (wport t k.val).peerFreed.nat 3 = np.toNat ∧ (wport t k.val).peerFreed.nat 4 = cpl.toNat ∧
        (nak = true → Out.weltCtl k.val 0x99 (withChk 0x99 (x.sent.nat 0 % 128 * 2 ^ 49 + x.sent.nat 1 % 128 * 2 ^ 42)) ∈ t.out) ∧
        (x.keyq = [] → x.ansq = [] → x.waitq = [] → (∀ e ∈ x.out, e.lseq.isSome = true) → nak = false →
          (wport t k.val).out = x.out.filter (fun e => match e.lseq with
            | some n => !ackCovers x.nextSeq ack.toNat n
            | none => true) ∧ Only [.wlt] ledgerRegs s t) ∧
        keepsUnits [.wlt] s t) ∧
    (Ends (.creditSend k) s fun t =>
      (x.sends = true → x.creditAt + 1600 ≤ s.cycle →
        (wport t k.val).creditAt = s.cycle ∧ Out.weltCtl k.val 0x33 (withChk 0x33 (creditPayload (toTell s k.val) false)) ∈ t.out ∧
        (∀ c, c < 5 → (wport t k.val).told.nat c =
          if heldM s (if c ≤ 1 then 32 + k.val else 47) false then x.told.nat c else x.freed.nat c) ∧
        (wport t k.val).freed = x.freed) ∧
      (x.sends = false → wport t k.val = x) ∧ Only [.wlt] [] s t) ∧
    (x.state = 4 → Ends (.weltFramingError k) s fun t =>
      (wport t k.val).state = 5 ∧ (wport t k.val).since = s.cycle ∧ flag t (Reg.wltEvt k.val) 3 = true ∧
      rd t (Reg.wltCnt k.val 6) = (rd s (Reg.wltCnt k.val 6) + 1) % 2 ^ 48 ∧ (wport t k.val).out = x.out ∧
      Out.weltCtl k.val 0x33 (withChk 0x33 (creditPayload (toTell s k.val) true)) ∈ t.out ∧
      Only [.wlt] [Reg.wltEvt k.val, Reg.wltCnt k.val 6] s t) ∧
    (∀ ks an : BitVec 7, x.state = 5 → Ends (.resume k ks an) s fun t =>
      (wport t k.val).state = 4 ∧
      (wport t k.val).freed.nat 0 = x.freed.nat 0 + (ks.toNat + 128 - x.rcvd.nat 0 % 128) % 128 ∧
      (wport t k.val).freed.nat 1 = x.freed.nat 1 + (an.toNat + 128 - x.rcvd.nat 1 % 128) % 128 ∧
      (wport t k.val).out = x.out ∧ Only [.wlt] [Reg.wltCnt k.val 7, Reg.wltCnt k.val 8] s t) ∧
    (x.sends = true → (∃ e ∈ x.out, e.lseq.isSome = true) → x.ackAt + 12800 ≤ s.cycle → Ends (.bridgeResend k) s fun t =>
      (∀ e ∈ x.out, e.lseq.isSome = true → ∃ h, Out.weltFrame k.val h (brgPayload e.f) ∈ t.out) ∧
      wport t k.val = { x with ackAt := s.cycle } ∧ Only [.wlt] [Reg.wltCnt k.val 4, Reg.wltCnt k.val 5] s t) ∧
    (∀ (h : BitVec 64) (payload : List Byte) (y : WKey) (d : TblDecl), x.state = 4 → y = keyOf k.val h.toNat payload →
      Ends (.keyReceive k h payload) s fun t =>
        (wtMode s y.table = 0 → (wport t k.val).state = 5 ∧ t.rgl = s.rgl) ∧
        (wtMode s y.table ≠ 0 → (wport t k.val).rcvd.nat 0 = x.rcvd.nat 0 + 1 ∧
          rd t (Reg.wltCnt k.val 1) = (rd s (Reg.wltCnt k.val 1) + 1) % 2 ^ 48) ∧
        (wtMode s y.table ≠ 0 → y.leg = true → tblOf s y.table = some d → d.isTern = true → actLevel s ≠ 3 →
          (∃ r ∈ t.rgl.reqs, r.id = s.rgl.nextId ∧ r.master = keyMaster s y k.val ∧ r.slot = true ∧
            r.purpose = .slotSearch (.welt s.wlt.nextId) y.table (weltKey s y) (weltStamp s y)) ∧
          Only [.wlt, .rgl] [Reg.wltCnt k.val 1] s t)) ∧
    (∀ (h : BitVec 64) (payload : List Byte) (a : WAns), x.state = 4 → a = ansFrom k.val h.toNat payload →
      Ends (.ansReceive k h payload) s fun t =>
        (wport t k.val).rcvd.nat 1 = x.rcvd.nat 1 + 1 ∧
        rd t (Reg.wltCnt k.val 3) = (rd s (Reg.wltCnt k.val 3) + 1) % 2 ^ 48 ∧
        (a.origin = myPos s → flightOf s a.tag = none →
          (wport t k.val).freed.nat 1 = x.freed.nat 1 + 1 ∧
          rd t (Reg.vrdEvtCnt 6) = (rd s (Reg.vrdEvtCnt 6) + 1) % 2 ^ 48 ∧
          Only [.wlt] [Reg.wltCnt k.val 3, Reg.vrdEvtCnt 6] s t) ∧
        (a.origin ≠ myPos s → portTo s a.origin ≠ k.val → (wport s (portTo s a.origin)).sends = false →
          (wport t (portTo s a.origin)).ansq = (wport s (portTo s a.origin)).ansq ++ [a] ∧
          keepsUnits [.wlt] s t))

/-- The far-side bridge: slave window, read sets, polls, timeouts, and frames executed or matched at this device (R396, R397, R398, R399, R400, R401, R407, R409). -/
def Obligations.BridgeWritesReadsAndFailuresAreAccounted : Prop :=
  ∀ (s : State), awake s = true →
    (∀ (m : Requester) (pos : Fin 8) (off : BitVec 21) (data : List Byte), farReach s m = true →
      (data.length = 4 ∧ off.toNat % 4 = 0 ∨ data.length = 8 ∧ off.toNat % 8 = 0) →
      Ends (.slaveWindowWrite m pos off data) s fun t =>
        t.brg.wsn = (s.brg.wsn + 1) % 65536 ∧ rd t (Reg.brgCnt 0) = (rd s (Reg.brgCnt 0) + 1) % 2 ^ 48 ∧
        (posOk s pos.val = false ∨ (wport s (portTo s pos.val)).sends = false →
          flag t Reg.brgEvt 0 = true ∧ rd t (Reg.brgCnt 5) = (rd s (Reg.brgCnt 5) + 1) % 2 ^ 48 ∧ t.wlt = s.wlt) ∧
        (posOk s pos.val = true → (wport s (portTo s pos.val)).sends = true →
          rd t (Reg.brgCnt 5) = rd s (Reg.brgCnt 5)) ∧ keepsUnits [.brg, .wlt] s t) ∧
    (∀ (m : Requester) (pos : Fin 8) (off : BitVec 21) (len : Nat), farReach s m = true → 0 < len →
      Ends (.slaveWindowRead m pos off len) s fun t =>
        flag t Reg.brgEvt 3 = true ∧ Only [] (Reg.brgEvt :: portRegs m) s t) ∧
    (∀ (m : Requester) (i : Fin 4) (v : BitVec 32), mayWrite s m (Reg.brgRrdAddr i.val) 4 = true →
      Ends (.brgRrdAddrWrite m i v) s fun t =>
        (rrdOwner m i.val = false → Only [] (portRegs m) s t) ∧
        (rrdOwner m i.val = true → fget s (Reg.brgRrdStat i.val) 31 30 = 1 →
          flag t Reg.topErr 0 = true ∧ Only [] (errRegs ++ portRegs m) s t) ∧
        (rrdOwner m i.val = true → fget s (Reg.brgRrdStat i.val) 31 30 ≠ 1 →
          bitsOf v.toNat 20 0 % (if bitOf v.toNat 24 then 8 else 4) = 0 →
          t.brg.wsn = (s.brg.wsn + 1) % 65536 ∧ rd t (Reg.brgCnt 1) = (rd s (Reg.brgCnt 1) + 1) % 2 ^ 48 ∧
          (posOk s (bitsOf v.toNat 23 21) = true → (wport s (portTo s (bitsOf v.toNat 23 21))).sends = true →
            rd t (Reg.brgRrdStat i.val) = (2 ^ 30 + s.brg.wsn) % 2 ^ 64 ∧
            t.brg.reads = s.brg.reads ++ [⟨i.val, bitsOf v.toNat 23 21, bitOf v.toNat 24, s.brg.wsn, s.cycle⟩]) ∧
          (posOk s (bitsOf v.toNat 23 21) = false →
            rd t (Reg.brgRrdStat i.val) = (3 * 2 ^ 30 + 4 * 2 ^ 16 + s.brg.wsn) % 2 ^ 64 ∧ t.wlt = s.wlt) ∧
          keepsUnits [.brg, .wlt] s t)) ∧
    (∀ r, s.brg.reads.find? (fun r => decide (r.since + fget s Reg.brgCtrl 31 16 * 800 ≤ s.cycle)) = some r → r.set < 4 →
      Ends .bridgeReadTimeout s fun t =>
        t.brg.reads = s.brg.reads.filter (fun x => x.wsn ≠ r.wsn) ∧ flag t Reg.brgEvt 1 = true ∧
        rd t (Reg.brgRrdStat r.set) = (3 * 2 ^ 30 + 7 * 2 ^ 16 + r.wsn) % 2 ^ 64 ∧
        Only [.brg] [Reg.brgCnt 6, Reg.brgEvt, Reg.brgRrdStat r.set] s t) ∧
    (s.img.applied = true → myPos s = 0 → s.brg.pollAt + fget s Reg.brgCtrl 9 0 * 800 ≤ s.cycle →
      Ends .bridgePoll s fun t =>
        t.brg.pollAt = s.cycle ∧ rd t (Reg.brgCnt 1) % 2 ^ 48 = (rd s (Reg.brgCnt 1) + ((List.range (s.img.weltCount + 1)).filter
          (fun p => decide (p ≠ 0) && s.brg.reads.all (fun r => r.set ≠ 4 || decide (r.pos ≠ p)))).length) % 2 ^ 48 ∧
        keepsUnits [.brg, .wlt] s t) ∧
    (myPos s ≠ 0 → Ends .bridgePoll s fun t => Only [] [] s t) ∧
    (∀ (k : Fin 2) (h : BitVec 64) (payload : List Byte) (f : BFrame), f = frameOf h.toNat payload →
      (wport s 0).inq = [] → (wport s 1).inq = [] → (wport s k.val).state = 4 →
      bitsOf h.toNat 59 48 = (wport s k.val).expSeq → f.dst = myPos s →
      (∀ r, f.typ = 5 → s.brg.reads.find? (fun r => r.wsn = f.wsn) = some r → r.set < 4 → f.status = 0 →
        Ends (.bcpl k h payload) s fun t =>
          rd t (Reg.brgRrdData r.set) = (if r.size then f.data else f.data % 2 ^ 32) % 2 ^ 64 ∧
          rd t (Reg.brgRrdStat r.set) = (2 * 2 ^ 30 + r.wsn) % 2 ^ 64 ∧
          t.brg.reads = s.brg.reads.filter (fun x => x.wsn ≠ r.wsn) ∧
          (wport t k.val).expSeq = ((wport s k.val).expSeq + 1) % 4096 ∧ (wport t k.val).inq = [] ∧
          Only [.brg, .wlt] ([Reg.brgRrdData r.set, Reg.brgRrdStat r.set] ++ ledgerRegs) s t) ∧
      (f.typ = 6 → Ends (.bnote k h payload) s fun t =>
        rd t (Reg.brgCnt 5) = (rd s (Reg.brgCnt 5) + 1) % 2 ^ 48 ∧ flag t Reg.brgEvt 0 = true ∧
        (wport t k.val).expSeq = ((wport s k.val).expSeq + 1) % 4096 ∧ keepsUnits [.wlt] s t) ∧
      (f.typ = 3 → f.size = false → f.off = Reg.rglHostUrg 0 → Ends (.bpw k h payload) s fun t =>
        fget t (Reg.rglHostUrg 0) 1 0 = f.data % 4 ∧ rd t (Reg.brgCnt 2) = (rd s (Reg.brgCnt 2) + 1) % 2 ^ 48 ∧
        (wport t k.val).expSeq = ((wport s k.val).expSeq + 1) % 4096 ∧
        Only [.wlt] ([Reg.rglHostUrg 0, Reg.brgCnt 2, Reg.topErr] ++ ledgerRegs) s t) ∧
      (f.typ = 4 → f.off < spmBase → shapeOk f.off f.len = true → (regRead s .bridge f.off f.len).2.2 = true →
        outUsed (wport s k.val) 4 < 8 → Ends (.brd k h payload) s fun t =>
          rd t (Reg.brgCnt 3) = (rd s (Reg.brgCnt 3) + 1) % 2 ^ 48 ∧
          (wport t k.val).expSeq = ((wport s k.val).expSeq + 1) % 4096)) ∧
    (∀ (k : Fin 2) (h : BitVec 64) (payload : List Byte), bitsOf h.toNat 59 48 ≠ (wport s k.val).expSeq →
      Ends (.bpw k h payload) s fun t => Only [] [] s t)

/-- Page and block retirement, the integrity record, scrub visits, the armed flip and the march engine (R423, R426, R427, R430, R432, R434, R435, R436, R437, R438, R439, R450). -/
def Obligations.RepairMarchAndFlipCommandsActAsTold : Prop :=
  ∀ (s : State), awake s = true →
    (∀ (m : Requester) (v : BitVec 64), mayWrite s m Reg.intRetireEnt 8 = true → bitOf v.toNat 63 = true →
      (retireAt s (fget s Reg.intRetireIdx 9 0) = none → retireBad s (bitsOf v.toNat 19 0) (bitsOf v.toNat 51 32) = false →
        Ends (.retireEntWrite m v) s fun t =>
          retireAt t (fget s Reg.intRetireIdx 9 0) =
            some ⟨bitsOf v.toNat 19 0, bitsOf v.toNat 51 32, some (s.cycle + 16000), true⟩ ∧ t.intg.recordDirty = true ∧
          (Memory.wf s.drc.mem → (∀ w, w < 512 → flipAt s 1 (bitsOf v.toNat 19 0 * 512 + w) = none) → ∀ o, o < 4096 →
            memByte t.drc.mem (bitsOf v.toNat 51 32 * 4096 + o) = memByte s.drc.mem (bitsOf v.toNat 19 0 * 4096 + o)) ∧
          (∀ a, a / 4096 ≠ bitsOf v.toNat 51 32 → memByte t.drc.mem a = memByte s.drc.mem a) ∧
          keepsUnits [.intg, .drc, .rgl] s t) ∧
      ((retireAt s (fget s Reg.intRetireIdx 9 0)).isSome = true ∨
          retireBad s (bitsOf v.toNat 19 0) (bitsOf v.toNat 51 32) = true →
        Ends (.retireEntWrite m v) s fun t => flag t Reg.topErr 0 = true ∧ Only [] (errRegs ++ portRegs m) s t)) ∧
    (∀ e r, s.intg.retire.find? (fun e => match e.2 with
        | some r => r.busyTo.isSome
        | none => false) = some e → e.2 = some r → Ends .retireDone s fun t =>
      retireAt t e.1 = some { r with busyTo := none } ∧ (∀ i, i ≠ e.1 → retireAt t i = retireAt s i) ∧
      flag t Reg.intEvt 9 = true ∧ Only [.intg] [Reg.intEvt] s t) ∧
    (∀ (m : Requester) (v : BitVec 32), mayWrite s m Reg.intTcaRetire 4 = true →
      ((∀ b, b < 32 → bitOf v.toNat b = true → flag s Reg.intTcaRetire b = true ∨ blockEmpty s b = true) →
        Ends (.tcaBlockRetire m v) s fun t =>
          rd t Reg.intTcaRetire = rd s Reg.intTcaRetire ||| v.toNat ∧
          Only [.intg] (Reg.intTcaRetire :: portRegs m) s t) ∧
      ((∃ b, b < 32 ∧ bitOf v.toNat b = true ∧ flag s Reg.intTcaRetire b = false ∧ blockEmpty s b = false) →
        Ends (.tcaBlockRetire m v) s fun t => flag t Reg.topErr 0 = true ∧ Only [] (errRegs ++ portRegs m) s t)) ∧
    (∀ (m : Requester) (v : BitVec 32), mayWrite s m Reg.intRecordClr 4 = true → Ends (.recordClr m v) s fun t =>
      (v.toNat % 65536 = 0x5C1E → s.lcs.lcState ≤ 1 →
        t.nvc = { s.nvc with recClr := true } ∧ Only [.nvc] (portRegs m) s t) ∧
      (v.toNat % 65536 = 0x5C1E → 1 < s.lcs.lcState → flag t Reg.topErr 0 = true ∧ Only [] (errRegs ++ portRegs m) s t) ∧
      (v.toNat % 65536 ≠ 0x5C1E → Only [] (portRegs m) s t)) ∧
    (∀ (m : Requester) (v : BitVec 32), mayWrite s m Reg.intFlipCtrl 4 = true → Ends (.flipArm m v) s fun t =>
      flag t Reg.intFlipCtrl 31 = bitOf v.toNat 31 ∧ flag t Reg.intFlipCtrl 30 = bitOf v.toNat 30 ∧
      (bitsOf v.toNat 21 16 ≤ 17 → fget t Reg.intFlipCtrl 21 16 = bitsOf v.toNat 21 16) ∧
      Only [] (Reg.intFlipCtrl :: errRegs ++ portRegs m) s t) ∧
    (∀ (mem : Fin 64) (cell k a : Nat), k = mem.val * 256 + cell →
      a = (if mem.val = 0 then s.intg.sramPos.nat k else 4096 * cell + s.intg.sramPos.nat k) →
      (flag s Reg.intScrubCtrl 31 = false → Ends (.sramScrubVisit mem cell) s fun t => Only [] [] s t) ∧
      (flag s Reg.intScrubCtrl 31 = true → s.pwr.stopGrants = false → cell < walkers mem.val →
        (if mem.val = 0 then portIdle s = true else marchBusy s mem.val cell = false) →
        s.intg.sramLast.nat k + fget s Reg.intScrubCtrl 7 0 ≤ s.cycle + 1 ∨ s.intg.sramLast.nat k = 0 →
        Ends (.sramScrubVisit mem cell) s fun t =>
          t.intg.sramPos.nat k = (if s.intg.sramPos.nat k + 1 = walkerWords mem.val cell then 0 else s.intg.sramPos.nat k + 1) ∧
          (flipAt s mem.val a = none → t.intg.flips = s.intg.flips ∧ Only [.intg] [Reg.intSramLap] s t) ∧
          (∀ f, flipAt s mem.val a = some f → (scrubClass mem.val f.mask).1 = .corrected → trackOf s mem.val a = none →
            s.intg.track.length < 64 → flipAt t mem.val a = none ∧
              trackOf t mem.val a = some ⟨mem.val, a, .watch, 0⟩ ∧
              rd t (Reg.intCnt mem.val 0) = (rd s (Reg.intCnt mem.val 0) + 1) % 2 ^ 48) ∧
          keepsUnits [.intg] s t)) ∧
    (∀ (m : Requester) (v : BitVec 32) (w : March), mayWrite s m Reg.intMarchCtrl 4 = true → bitOf v.toNat 31 = true →
      s.pwr.stopGrants = false →
      w = ⟨bitsOf v.toNat 5 0, fget s Reg.intMarchStart 35 0, fget s Reg.intMarchLen 31 0, bitOf v.toNat 30⟩ →
      (progOn s Reg.intMarchProg = true → Ends (.marchGo m v) s fun t =>
        flag t Reg.topErr 0 = true ∧ Only [] (errRegs ++ portRegs m) s t) ∧
      (progOn s Reg.intMarchProg = false → w.mem ≤ 17 → marchShape w.mem w.start w.len w.preserving = true →
        Ends (.marchGo m v) s fun t =>
          (w.preserving = true ∨ marchBlocker s w.mem w.start w.len = none →
            t.intg.march = some w ∧ t.intg.marchStep = 0 ∧ progOn t Reg.intMarchProg = true ∧ rd t Reg.intMarchTotal = w.len ∧
            rd t Reg.intMarchStat = 0) ∧
          (∀ q, w.preserving = false → marchBlocker s w.mem w.start w.len = some q →
            t.intg = s.intg ∧ rd t Reg.intMarchStat = (3 * 2 ^ 30 + q * 2 ^ 25) % 2 ^ 64) ∧
          t.spm = s.spm ∧ t.drc = s.drc ∧
          Only [.intg] ([Reg.intMarchCtrl, Reg.intMarchStat, Reg.intMarchProg, Reg.intMarchTotal] ++ portRegs m) s t)) ∧
    (∀ (fails : List Nat) (w : March), s.intg.march = some w → s.intg.marchStep < marchTotal w →
      Ends (.marchDone fails) s fun t => Only [] [] s t) ∧
    (∀ (fails : List Nat) (w : March), s.intg.march = some w → marchTotal w ≤ s.intg.marchStep → Ends (.marchDone fails) s fun t =>
      t.intg.march = none ∧ flag t Reg.intEvt 5 = true ∧ progOn t Reg.intMarchProg = false ∧
      (fails = [] → rd t Reg.intMarchStat = 1 * 2 ^ 30) ∧
      (∀ a rest, fails = a :: rest → (if w.mem = 1 then 8 * w.start else w.start) ≤ a →
        a < (if w.mem = 1 then 8 * (w.start + w.len) else w.start + w.len) →
        rd t Reg.intMarchStat = 2 * 2 ^ 30 ∧ rd t Reg.intMarchFail = a % 2 ^ 64) ∧
      (w.preserving = true → marchFlips s w = [] → t.drc.mem = s.drc.mem ∧ t.spm.mem = s.spm.mem) ∧
      (w.preserving = true → (∀ a, w.mem ≠ 1 ∨ a < 64 * w.start ∨ 64 * (w.start + w.len) ≤ a →
          memByte t.drc.mem a = memByte s.drc.mem a) ∧
        (∀ a, w.mem ≠ 0 ∨ a < 8 * w.start ∨ 8 * (w.start + w.len) ≤ a → memByte t.spm.mem a = memByte s.spm.mem a)) ∧
      (w.preserving = false → w.mem = 1 → t.spm.mem = s.spm.mem ∧ ∀ a, memByte t.drc.mem a =
        if 64 * w.start ≤ a ∧ a < 64 * (w.start + w.len) then 0 else memByte s.drc.mem a) ∧
      (w.preserving = false → w.mem = 0 → t.drc.mem = s.drc.mem ∧ ∀ a, memByte t.spm.mem a =
        if 8 * w.start ≤ a ∧ a < 8 * (w.start + w.len) then 0 else memByte s.spm.mem a) ∧
      keepsUnits [.intg, .drc, .spm] s t)

/-- The scratchpad views and its port: accesses join the queue, and the served one reads, writes, sets or clears its bytes (R414, R415, R416, R417, R418, R420, R452). -/
def Obligations.ScratchpadAccessesAreQueuedServedAndDenied : Prop :=
  ∀ (s : State), awake s = true →
    (∀ (m : Requester) (off : BitVec 19) (data : List Byte), m ≠ .spi → farReach s m = true → data ≠ [] →
      (off.toNat % 8 + data.length ≤ 8 →
        (Ends (.setWindowWrite m off data) s fun t =>
          t.spm = { s.spm with waiting := s.spm.waiting ++
            [⟨spmQ m, m, s.cycle, .set, false, off.toNat, data.length, data, .outside⟩] } ∧ Only [.spm] (portRegs m) s t) ∧
        (Ends (.clearWindowWrite m off data) s fun t =>
          t.spm = { s.spm with waiting := s.spm.waiting ++
            [⟨spmQ m, m, s.cycle, .clear, false, off.toNat, data.length, data, .outside⟩] } ∧ Only [.spm] (portRegs m) s t)) ∧
      (∀ len : Nat, Ends (.rotateAccess m true off data len) s fun t =>
        t.spm = { s.spm with waiting := s.spm.waiting ++
          [⟨spmQ m, m, s.cycle, .write, true, off.toNat, data.length, data, .outside⟩] } ∧ Only [.spm] (portRegs m) s t) ∧
      (∀ len : Nat, 0 < len → Ends (.rotateAccess m false off data len) s fun t =>
        t.spm = { s.spm with waiting := s.spm.waiting ++
          [⟨spmQ m, m, s.cycle, .read, true, off.toNat, len, List.replicate len 0, .outside⟩] } ∧ Only [.spm] (portRegs m) s t)) ∧
    (s.cycle < s.spm.portCycle ∨ nextSpm s = none → (∀ a ∈ s.spm.waiting, a.since ≤ s.cycle → a.redirected s = false) →
      (wport s 0).inq = [] → (wport s 1).inq = [] → Ends .scratchpadServe s fun t => keepsUnits [.wlt] s t) ∧
    (∀ a busy, s.spm.waiting.find? (fun x => decide (x.since ≤ s.cycle) && x.redirected s) = some a ∧ busy = s.spm.portCycle ∨
        (∀ x ∈ s.spm.waiting, x.since ≤ s.cycle → x.redirected s = false) ∧ s.spm.portCycle ≤ s.cycle ∧
          nextSpm s = some a ∧ busy = s.cycle + spmCycles a →
      a.use = .outside → (wport s 0).inq = [] → (wport s 1).inq = [] →
      Ends .scratchpadServe s fun t =>
        t.spm.waiting = s.spm.waiting.erase a ∧ t.spm.portCycle = busy ∧
        (spmDenied s a ≠ 0 → t.spm.mem = s.spm.mem ∧ flag t Reg.spmEvt (denyEvt (spmDenied s a)) = true ∧
          rd t Reg.spmFault = (a.q * 2 ^ 48 + spmDenied s a * 2 ^ 45 + a.off % spmSize) % 2 ^ 64) ∧
        (spmDenied s a = 0 → a.kind = .write → ∀ x, memByte t.spm.mem x =
          if a.off ≤ x ∧ x < a.off + a.data.length then a.data.getD (x - a.off) 0 else memByte s.spm.mem x) ∧
        (spmDenied s a = 0 → a.kind = .set → a.data.length = a.len →
          (∀ x, a.off ≤ x → x < a.off + a.len → flipAt s 0 (x / 8) = none) → ∀ x, memByte t.spm.mem x =
            if a.off ≤ x ∧ x < a.off + a.len then memByte s.spm.mem x ||| a.data.getD (x - a.off) 0
            else memByte s.spm.mem x) ∧
        (spmDenied s a = 0 → a.kind = .clear → a.data.length = a.len →
          (∀ x, a.off ≤ x → x < a.off + a.len → flipAt s 0 (x / 8) = none) → ∀ x, memByte t.spm.mem x =
            if a.off ≤ x ∧ x < a.off + a.len then memByte s.spm.mem x &&& ~~~(a.data.getD (x - a.off) 0)
            else memByte s.spm.mem x) ∧
        (spmDenied s a = 0 → a.kind = .read → t.spm.mem = s.spm.mem ∧
          (a.who = .benchM ∨ a.who = .benchU ∨ a.who = .pcie0 →
            (∀ x, a.off ≤ x → x < a.off + a.len → flipAt s 0 (x / 8) = none) →
            Out.regData a.who.code (0x180000 + a.off) a.len (ofLe (memBytes s.spm.mem a.off a.len)) ∈ t.out)) ∧
        keepsUnits [.spm, .intg, .wlt, .brg, .spi] s t)

/-- Field access codes, reserved codes, the lock, the two words of a wide register, and misshapen accesses (R8, R9, R10, R11, R12, R457, R544, R546, R547, R551). -/
def Obligations.RegisterAccessCodesAndWideWordsHold : Prop :=
  ∀ (s : State) (m : Requester) (off : BitVec 25) (v : BitVec 32), awake s = true →
    (mayWrite s m Reg.hstSpiIrqEn 4 = true → off.toNat = Reg.hstSpiIrqEn →
      Ends (.registerWrite m off (leBytes 4 v.toNat)) s fun t =>
        fget t Reg.hstSpiIrqEn 31 0 = v.toNat ∧ Only [] (Reg.hstSpiIrqEn :: portRegs m) s t) ∧
    (mayWrite s m Reg.lrnEvt 4 = true → off.toNat = Reg.lrnEvt →
      Ends (.registerWrite m off (leBytes 4 v.toNat)) s fun t =>
        (∀ i, i < 3 → flag t Reg.lrnEvt i = (flag s Reg.lrnEvt i && (!bitOf v.toNat i || bitOf (evtMask s Reg.lrnEvt) i))) ∧
        Only [] (Reg.lrnEvt :: portRegs m) s t) ∧
    (mayWrite s m Reg.intFlipCtrl 4 = true → off.toNat = Reg.intFlipCtrl → 17 < bitsOf v.toNat 21 16 →
      Ends (.registerWrite m off (leBytes 4 v.toNat)) s fun t =>
        fget t Reg.intFlipCtrl 21 16 = fget s Reg.intFlipCtrl 21 16 ∧ flag t Reg.intFlipCtrl 31 = bitOf v.toNat 31 ∧
        flag t Reg.intFlipCtrl 30 = bitOf v.toNat 30 ∧ flag t Reg.topErr 0 = true ∧
        rd t Reg.topErrAddr = m.code * 2 ^ 26 + Reg.intFlipCtrl ∧
        Only [] (Reg.intFlipCtrl :: errRegs ++ portRegs m) s t) ∧
    (∀ k : Fin 48, mayWrite s m (Reg.rglMap k) 4 = true → off.toNat = Reg.rglMap k →
      Ends (.registerWrite m off (leBytes 4 v.toNat)) s fun t =>
        (locked s = false → fget t (Reg.rglMap k) 2 0 = v.toNat % 8 ∧ Only [] (Reg.rglMap k :: portRegs m) s t) ∧
        (locked s = true → v.toNat % 8 = fget s (Reg.rglMap k) 2 0 → Only [] (portRegs m) s t) ∧
        (locked s = true → v.toNat % 8 ≠ fget s (Reg.rglMap k) 2 0 →
          flag t Reg.topErr 1 = true ∧ rd t Reg.topErrAddr = m.code * 2 ^ 26 + Reg.rglMap k ∧
          Only [] (errRegs ++ portRegs m) s t)) ∧
    (mayWrite s m (Reg.intFlipAddr + 4) 4 = true → off.toNat = Reg.intFlipAddr + 4 →
      Ends (.registerWrite m off (leBytes 4 v.toNat)) s fun t =>
        KMap.find t.stage (latchKey m Reg.intFlipAddr) = some v.toNat ∧ Only [.stage] (portRegs m) s t) ∧
    (∀ h, mayWrite s m Reg.intFlipAddr 4 = true → off.toNat = Reg.intFlipAddr →
      h = (match KMap.find s.stage (latchKey m Reg.intFlipAddr) with
        | some x => x
        | none => fget s Reg.intFlipAddr 35 32) →
      Ends (.registerWrite m off (leBytes 4 v.toNat)) s fun t =>
        fget t Reg.intFlipAddr 35 0 = h % 16 * 2 ^ 32 + v.toNat ∧
        KMap.find t.stage (latchKey m Reg.intFlipAddr) = none ∧ Only [.stage] (Reg.intFlipAddr :: portRegs m) s t) ∧
    (∀ w : BitVec 64, mayWrite s m Reg.intFlipAddr 8 = true → off.toNat = Reg.intFlipAddr →
      Ends (.registerWrite m off (leBytes 8 w.toNat)) s fun t =>
        fget t Reg.intFlipAddr 35 0 = w.toNat % 2 ^ 36 ∧ Only [] (Reg.intFlipAddr :: portRegs m) s t) ∧
    (s.seq.running = true → off.toNat = Reg.hstSpiIrqEn → Ends (.registerRead .benchM off 4) s fun t =>
      Out.regData (Requester.benchM).code Reg.hstSpiIrqEn 4 (fget s Reg.hstSpiIrqEn 31 0) ∈ t.out ∧ Only [] [] s t) ∧
    (s.seq.running = true → off.toNat = Reg.intFlipAddr → Ends (.registerRead .benchM off 4) s fun t =>
      Out.regData (Requester.benchM).code Reg.intFlipAddr 4 (fget s Reg.intFlipAddr 31 0) ∈ t.out ∧
      KMap.find t.latch (latchKey .benchM Reg.intFlipAddr) = some (rd s Reg.intFlipAddr / 2 ^ 32) ∧ Only [.latch] [] s t) ∧
    (∀ x, s.seq.running = true → off.toNat = Reg.intFlipAddr + 4 →
      KMap.find s.latch (latchKey .benchM Reg.intFlipAddr) = some x → Ends (.registerRead .benchM off 4) s fun t =>
        Out.regData (Requester.benchM).code (Reg.intFlipAddr + 4) 4 x ∈ t.out ∧
        KMap.find t.latch (latchKey .benchM Reg.intFlipAddr) = none ∧ Only [.latch] [] s t) ∧
    (s.seq.running = true → off.toNat = Reg.intLogOvf → Ends (.registerRead .benchM off 4) s fun t =>
      (KMap.find (nowSt s).rc Reg.intLogOvf = none →
        Out.regData (Requester.benchM).code Reg.intLogOvf 4 (fget s Reg.intLogOvf 31 0) ∈ t.out ∧
        fget t Reg.intLogOvf 31 0 = 0) ∧
      (∀ before ev, KMap.find (nowSt s).rc Reg.intLogOvf = some (before, ev) → before < 2 ^ 32 →
        Out.regData (Requester.benchM).code Reg.intLogOvf 4 before ∈ t.out ∧ fget t Reg.intLogOvf 31 0 = ev % 2 ^ 32) ∧
      Only [] [Reg.intLogOvf] s t) ∧
    (s.seq.running = true → off.toNat = Reg.seqWdogKick → Ends (.registerRead .benchM off 4) s fun t =>
      (rd s Reg.seqWdogKick < 2 ^ 16 → Out.regData (Requester.benchM).code Reg.seqWdogKick 4 0 ∈ t.out) ∧ Only [] [] s t) ∧
    (∀ (f : Fin 2) (data : List Byte), off.toNat < spmBase → fnOf m = some f.val → data ≠ [] →
      mayWrite s m off.toNat data.length = true → shapeOk off.toNat data.length = false →
      Ends (.registerWrite m off data) s fun t =>
        flag t (Reg.hstPcieEvt f) 0 = true ∧
        rd t (Reg.hstPcieCnt f 0) = (rd s (Reg.hstPcieCnt f 0) + 1) % 2 ^ 48 ∧
        Only [] [Reg.hstPcieEvt f, Reg.hstPcieCnt f 0, Reg.hstPcieCnt f 2] s t)

/-- Configuration requests, request errors, MSI-X, endpoint reset and release, and the ends of device requests (R454, R455, R456, R457, R458, R459, R461, R485, R549, R550, R551). -/
def Obligations.EndpointRequestsInterruptsAndResets : Prop :=
  ∀ (s : State) (f : Fin 2) (x : Pcie), awake s = true → x = pcie s f.val →
    (∀ (write : Bool) (reg : CfgReg) (v : BitVec 32), x.up = true →
      (cfgReady s = false → Ends (.configurationRequest f write reg v) s fun t =>
        Out.cfgRetry f.val ∈ t.out ∧ Only [] [] s t) ∧
      (cfgReady s = true →
        (Ends (.configurationRequest f false reg v) s fun t =>
          Out.cfgData f.val (cfgRead s f.val reg) ∈ t.out ∧ Only [] [] s t) ∧
        (Ends (.configurationRequest f false .vendorDevice v) s fun t =>
          Out.cfgData f.val (0x8032 * 2 ^ 16 + s.lcs.pcieId % 2 ^ 16) ∈ t.out) ∧
        (Ends (.configurationRequest f true .command v) s fun t =>
          (pcie t f.val).command = v.toNat &&& 0x0546 ∧
          (bitOf v.toNat 2 = true → (pcie t f.val).held = [] ∧ ∀ o ∈ x.held, o ∈ t.out) ∧
          keepsUnits [.host] s t ∧ keepsRegs [] s t) ∧
        (Ends (.configurationRequest f true .bar0Lo v) s fun t =>
          bitsOf (pcie t f.val).bar0 31 0 = v.toNat &&& 0xFE000000 ∧
          bitsOf (pcie t f.val).bar0 63 32 = bitsOf x.bar0 63 32 ∧ keepsUnits [] s t ∧ keepsRegs [] s t) ∧
        (bitOf v.toNat 15 = true →
          exec (.configurationRequest f true .devCtl v) s = exec (.endpointReset f .flr) s))) ∧
    (x.up = true →
      (Ends (.unsupportedRequest f .unsupported) s fun t =>
        rd t (Reg.hstPcieCnt f 2) = (rd s (Reg.hstPcieCnt f 2) + 1) % 2 ^ 48 ∧ Out.pcieError f.val 1 ∈ t.out ∧
        Only [] [Reg.hstPcieCnt f 2] s t) ∧
      (Ends (.unsupportedRequest f .badRead) s fun t =>
        rd t (Reg.hstPcieCnt f 2) = (rd s (Reg.hstPcieCnt f 2) + 1) % 2 ^ 48 ∧ flag t (Reg.hstPcieEvt f) 0 = true ∧
        Only [] [Reg.hstPcieCnt f 2, Reg.hstPcieEvt f] s t) ∧
      (Ends (.unsupportedRequest f .poisonedWrite) s fun t =>
        rd t (Reg.hstPcieCnt f 2) = (rd s (Reg.hstPcieCnt f 2) + 1) % 2 ^ 48 ∧ flag t (Reg.hstPcieEvt f) 2 = true ∧
        Only [] [Reg.hstPcieCnt f 2, Reg.hstPcieEvt f] s t) ∧
      (Ends (.unsupportedRequest f .linkError) s fun t =>
        rd t (Reg.hstPcieCnt f 1) = (rd s (Reg.hstPcieCnt f 1) + 1) % 2 ^ 48 ∧ Only [] [Reg.hstPcieCnt f 1] s t)) ∧
    (∀ vec : Fin 32, x.up = true → Ends (.msixUnmask f vec) s fun t =>
      msixWord (pcie t f.val) (4 * vec.val + 3) = 0 ∧
      (bitOf x.pba vec.val = true → msixOn x = true → bitOf x.msixCtl 14 = false →
        bitOf (pcie t f.val).pba vec.val = false ∧
        (bitOf (vectorsOf s f.val (intSum s)) vec.val = true → bitOf x.command 2 = true →
          Out.hostWrite f.val (msixWord x (4 * vec.val) + msixWord x (4 * vec.val + 1) * 2 ^ 32)
            (leBytes 4 (msixWord x (4 * vec.val + 2))) ∈ t.out)) ∧
      keepsUnits [] s t ∧ keepsRegs [Reg.hstPcieCnt f 0] s t) ∧
    (∀ (m : Requester) (v : BitVec 32) (k : Fin 32), mayWrite s m (Reg.hstIntRearm f) 4 = true → bitOf v.toNat k = true →
      bitOf (vectorsOf s f.val (intSum s)) k = true → msixOn x = true → s.img.weltPos = 0 →
      Ends (.intRearm m f v) s fun t =>
        (vecMasked x k = true → bitOf (pcie t f.val).pba k = true) ∧
        (vecMasked x k = false → bitOf x.command 2 = true →
          Out.hostWrite f.val (msixWord x (4 * k.val) + msixWord x (4 * k.val + 1) * 2 ^ 32)
            (leBytes 4 (msixWord x (4 * k.val + 2))) ∈ t.out) ∧ Only [] (portRegs m) s t) ∧
    (∀ kind : ResetKind, Ends (.endpointReset f kind) s fun t =>
      (pcie t f.val).up = (decide (kind ≠ .perst) && x.up) ∧ (pcie t f.val).command = 0 ∧ (pcie t f.val).bar0 = 0 ∧
      (pcie t f.val).msixCtl = 0 ∧ (pcie t f.val).held = [] ∧ t.host = s.host.filter (fun r => r.f ≠ f.val) ∧
      flag t (Reg.hstTcrCtrl f) 4 = false ∧ (∀ n, n < 8 → dmaOwner s n = f.val → flag t (Reg.hstDmaCtrl n) 4 = false) ∧
      rd t (Reg.brgRrdStat f) = 0 ∧ rd t (Reg.rglHostUrg f) = 0 ∧
      (∀ i, i < 3 → rd t (Reg.hstPcieCnt f i) = 0) ∧ flag t (Reg.hstPcieEvt f) 5 = true ∧
      (∀ j, j < 2 → j ≠ f.val → (pcie t j).up = (pcie s j).up ∧ (pcie t j).command = (pcie s j).command ∧
        (pcie t j).bar0 = (pcie s j).bar0 ∧ (pcie t j).table = (pcie s j).table) ∧
      keepsUnits [.host, .tcr, .dma, .rgl, .brg, .spm] s t) ∧
    (Ends (.perstRelease f) s fun t => (pcie t f.val).up = true ∧ (pcie t f.val).command = x.command ∧
      (∀ j, j < 2 → j ≠ f.val → (pcie t j).up = (pcie s j).up) ∧ keepsUnits [] s t ∧ keepsRegs [] s t) ∧
    (∀ (id : Nat) (st : CplStatus) (data : List Byte), s.host.find? (fun r => r.id = id) = none →
      (Ends (.hostCompletion id st data) s fun t => Only [] [] s t) ∧
      (Ends (.completionTimeout id) s fun t => Only [] [] s t)) ∧
    (∀ (id cid : Nat) (r : HostReq) (data : List Byte), s.host.find? (fun r => r.id = id) = some r →
      r.f = f.val → r.use = .cmdInput cid → hostHeld s r = false →
      (Ends (.hostCompletion id .ok data) s fun t =>
        t.host = s.host.filter (fun y => y.id ≠ id) ∧
        t.tcr = { s.tcr with cmds := s.tcr.cmds.map (fun c =>
          if c.id = cid then { c with
            input := some (some (slice data 0 r.len))
            ue := false } else c) } ∧ Only [.host, .tcr] [] s t) ∧
      (Ends (.hostCompletion id .ca data) s fun t =>
        t.host = s.host.filter (fun y => y.id ≠ id) ∧ flag t (Reg.hstPcieEvt f) 4 = true ∧
        t.tcr = { s.tcr with cmds := s.tcr.cmds.map (fun c => if c.id = cid then { c with
          input := some none
          ue := false } else c) } ∧
        Only [.host, .tcr] [Reg.hstPcieEvt f] s t) ∧
      (Ends (.completionTimeout id) s fun t =>
        (bitOf x.devCtl2 4 = false → r.since + timeoutCycles (bitsOf x.devCtl2 3 0) ≤ s.cycle →
          t.host = s.host.filter (fun y => y.id ≠ id) ∧ flag t (Reg.hstPcieEvt f) 4 = true ∧
          rd t (Reg.hstPcieCnt f 2) = (rd s (Reg.hstPcieCnt f 2) + 1) % 2 ^ 48 ∧
          t.tcr = { s.tcr with cmds := s.tcr.cmds.map (fun c => if c.id = cid then { c with
            input := some none
            ue := false } else c) } ∧
          Only [.host, .tcr] [Reg.hstPcieEvt f, Reg.hstPcieCnt f 2] s t) ∧
        (s.cycle < r.since + timeoutCycles (bitsOf x.devCtl2 3 0) → Only [] [] s t)))

/-- DMA channels: enable, doorbell, descriptor end, RESUME and SKIP, and who may write them (R459, R463, R464, R465, R466, R467). -/
def Obligations.DmaChannelsRunHaltAndGoOn : Prop :=
  ∀ (s : State) (m : Requester) (n : Fin 8) (v : BitVec 32) (head size : Nat), awake s = true →
    head = fget s (Reg.hstDmaHead n) 15 0 → size = dmaSize s n →
    (mayWrite s m (Reg.hstDmaCtrl n) 4 = true → dmaMay s m n = true → dmaEn s n = false → bitOf v.toNat 4 = true →
      ∃ t, exec (.dmaEnable m n v) s = .next t ∧
        dmaEn t n = true ∧ rd t (Reg.hstDmaHead n) = 0 ∧ rd t (Reg.hstDmaTail n) = 0 ∧ dmaState t n = 0 ∧
        (dmaCh t n).op = none ∧ (dmaCh t n).fetching = false ∧
        Only [.dma, .rgl, .spm] ([Reg.hstDmaCtrl n, Reg.hstDmaStat n, Reg.hstDmaHead n, Reg.hstDmaTail n] ++ errRegs ++ portRegs m) s t) ∧
    (mayWrite s m (Reg.hstDmaCtrl n) 4 = true → dmaMay s m n = false → Ends (.dmaEnable m n v) s fun t =>
      flag t Reg.topErr 0 = true ∧ Only [] (errRegs ++ portRegs m) s t) ∧
    (mayWrite s m (Reg.hstDmaTail n) 4 = true → dmaMay s m n = false ∨
        (dmaEn s n = true ∧ size < (v.toNat % 65536 + 65536 - head) % 65536) →
      Ends (.dmaDoorbell m n v) s fun t => flag t Reg.topErr 0 = true ∧ Only [] (errRegs ++ portRegs m) s t) ∧
    (mayWrite s m (Reg.hstDmaTail n) 4 = true → dmaMay s m n = true → dmaEn s n = true → dmaState s n ≠ 2 →
      (dmaCh s n).op = none → (dmaCh s n).fetching = false → asks s (.dma n) = false → s.pwr.stopGrants = false →
      dmaOwner s n ≤ 1 →
      rd s (Reg.hstDmaBase n) + 32 * size ≤ 2 ^ 63 → 0 < (v.toNat % 65536 + 65536 - head) % 65536 →
      (v.toNat % 65536 + 65536 - head) % 65536 ≤ size → ∃ t, exec (.dmaDoorbell m n v) s = .next t ∧
        rd t (Reg.hstDmaTail n) = v.toNat % 65536 ∧ dmaState t n = 1 ∧ (dmaCh t n).fetching = true ∧
        (∃ r ∈ t.host, r.use = .dmaDesc n ∧ r.len = 32 ∧ r.f = dmaOwner s n ∧
          r.addr = rd s (Reg.hstDmaBase n) + 32 * (head % size)) ∧
        Only [.dma, .host, .rgl] ([Reg.hstDmaTail n, Reg.hstDmaStat n] ++ portRegs m) s t) ∧
    (∀ o, (dmaCh s n).op = some o → dmaState s n = 1 → o.put = o.len → o.writes = 0 → s.spm.waiting = [] →
      s.spm.portCycle ≤ s.cycle → s.nvc.wipeAt = none → ∃ t, exec (.dmaDescriptorDone n) s = .next t ∧
      rd t (Reg.hstDmaHead n) = (head + 1) % 65536 ∧ (dmaCh t n).op = none ∧
      (o.irq = true → flag t (Reg.hstDmaEvt n) 0 = true) ∧
      dmaState t n = (if dmaEn s n && decide ((fget s (Reg.hstDmaTail n) 15 0 + 65536 - (head + 1) % 65536) % 65536 ≠ 0) then 1
        else 0) ∧
      (∀ b, rd s (Reg.hstDmaBase n) = 2 ^ 63 + b → b + 32 * size ≤ vaultBase → fwEnd s ≤ b → s.intg.march = none →
        memBytes t.spm.mem (b + 32 * (head % size) + 28) 4 = leBytes 4 (2 ^ 31) ∧
        ∀ a, a < b + 32 * (head % size) + 28 ∨ b + 32 * (head % size) + 32 ≤ a → memByte t.spm.mem a = memByte s.spm.mem a) ∧
      keepsUnits [.dma, .spm, .intg] s t) ∧
    ((dmaCh s n).op = none → Ends (.dmaDescriptorDone n) s fun t => Only [] [] s t) ∧
    (mayWrite s m (Reg.hstDmaCtrl n) 4 = true → dmaMay s m n = true → dmaEn s n = true → dmaState s n = 2 →
      bitOf v.toNat 4 = true → bitsOf v.toNat 3 0 = fget s (Reg.hstDmaCtrl n) 3 0 → (dmaCh s n).op = none →
      (dmaCh s n).fetching = false → asks s (.dma n) = false →
      (bitOf v.toNat 31 = true → s.pwr.stopGrants = false → dmaPosted s n ≠ 0 → dmaOwner s n ≤ 1 →
        rd s (Reg.hstDmaBase n) + 32 * size ≤ 2 ^ 63 → ∃ t, exec (.dmaResume m n v) s = .next t ∧
          dmaState t n = 1 ∧ rd t (Reg.hstDmaHead n) = rd s (Reg.hstDmaHead n) ∧ (dmaCh t n).fetching = true ∧
          (∃ r ∈ t.host, r.use = .dmaDesc n ∧ r.addr = rd s (Reg.hstDmaBase n) + 32 * (head % size)) ∧
          Only [.dma, .host, .rgl, .spm] ([Reg.hstDmaCtrl n, Reg.hstDmaStat n] ++ errRegs ++ portRegs m) s t) ∧
      (bitOf v.toNat 31 = false → bitOf v.toNat 30 = true → s.pwr.stopGrants = false → dmaOwner s n ≤ 1 →
        rd s (Reg.hstDmaBase n) + 32 * size ≤ 2 ^ 63 → ∃ t, exec (.dmaSkip m n v) s = .next t ∧
          rd t (Reg.hstDmaHead n) = (head + 1) % 65536 ∧
          (bitOf (pcie s (dmaOwner s n)).command 2 = true →
            Out.hostWrite (dmaOwner s n) (rd s (Reg.hstDmaBase n) + 32 * (head % size) + 28)
              (leBytes 4 (2 ^ 31 + fget s (Reg.hstDmaStat n) 19 16 * 2 ^ 24)) ∈ t.out) ∧
          ((fget s (Reg.hstDmaTail n) 15 0 + 65536 - (head + 1) % 65536) % 65536 = 0 → dmaState t n = 0) ∧
          ((fget s (Reg.hstDmaTail n) 15 0 + 65536 - (head + 1) % 65536) % 65536 ≠ 0 →
            dmaState t n = 1 ∧ (dmaCh t n).fetching = true ∧ ∃ r ∈ t.host, r.use = .dmaDesc n ∧
              r.addr = rd s (Reg.hstDmaBase n) + 32 * ((head + 1) % 65536 % size)) ∧
          rd t (Reg.hstDmaEvt n) = rd s (Reg.hstDmaEvt n) ∧ keepsUnits [.dma, .host, .rgl, .spm] s t) ∧
      (∀ b code, code = fget s (Reg.hstDmaStat n) 19 16 → bitOf v.toNat 31 = false → bitOf v.toNat 30 = true →
        rd s (Reg.hstDmaBase n) = 2 ^ 63 + b → b + 32 * size ≤ vaultBase → fwEnd s ≤ b → s.spm.waiting = [] →
        ∃ t, exec (.dmaSkip m n v) s = .next t ∧ dmaState t n = 2 ∧ rd t (Reg.hstDmaHead n) = rd s (Reg.hstDmaHead n) ∧
          t.spm.waiting = [⟨dmaQ n, .internal, s.cycle, .write, false, b + 32 * (head % size) + 28, 4,
            leBytes 4 (2 ^ 31 + code * 2 ^ 24), .dmaBack n code false⟩] ∧ keepsUnits [.spm] s t)) ∧
    (∀ (a : SpmAcc) (code : Nat) (irq : Bool), a.use = .dmaBack n code irq → spmDenied s a ≠ 4 →
      let t := spmGoesOn s a a.data false (spmDenied s a)
      rd t (Reg.hstDmaHead n) = (head + 1) % 65536 ∧ dmaState t n ≠ 2 ∧ (dmaCh t n).op = none ∧
        (irq = true → flag t (Reg.hstDmaEvt n) 0 = true) ∧ keepsUnits [.dma] s t)

/-- SPI transactions and their responses; the watchdog, the secure bit and the mailbox commands of the bench core (R468, R469, R470, R471, R473, R474, R475, R484). -/
def Obligations.SpiTransactionsWatchdogAndMailboxesAnswer : Prop :=
  ∀ (s : State), awake s = true →
    (s.spi.pend = none → Ends .spiCsFall s fun t =>
      Out.spiMiso (BitVec.ofNat 64 (misoWord (b2n (irqLow s) * 8 + s.spi.seq % 8) 0 0)) ∈ t.out ∧ Only [.spi] [] s t) ∧
    (∀ p, s.spi.pend = some p →
      (p.done = true → Ends .spiCsFall s fun t =>
        Out.spiMiso (BitVec.ofNat 64 (misoWord (b2n (irqLow s) * 8 + s.spi.seq % 8 + (b2n p.frame * 128 + b2n p.ue * 64 +
          b2n p.denied * 32)) p.waddr p.data)) ∈ t.out ∧ t.spi = { s.spi with refusing := false } ∧ Only [.spi] [] s t) ∧
      (p.done = false → Ends .spiCsFall s fun t =>
        Out.spiMiso (BitVec.ofNat 64 (misoWord (b2n (irqLow s) * 8 + s.spi.seq % 8 + 16) p.waddr 0)) ∈ t.out ∧
        t.spi = { s.spi with refusing := true } ∧
        rd t (Reg.hstSpiCnt 3) = (rd s (Reg.hstSpiCnt 3) + 1) % 2 ^ 48 ∧ Only [.spi] [Reg.hstSpiCnt 3] s t)) ∧
    (∀ (bits : Nat) (x : BitVec 64), s.spi.refusing = true → Ends (.spiTransaction bits x) s fun t =>
      t.spi = { s.spi with refusing := false } ∧ flag t Reg.hstSpiEvt 2 = true ∧ Only [.spi] [Reg.hstSpiEvt] s t) ∧
    (∀ (bits : Nat) (x : BitVec 64), s.spi.refusing = false →
      bits ≠ 64 ∨ bitsOf x.toNat 7 0 ≠ spiCrc x.toNat ∨ bitsOf x.toNat 63 62 = 3 → Ends (.spiTransaction bits x) s fun t =>
        t.spi = { s.spi with pend := some ⟨true, true, false, false, bitsOf x.toNat 61 43, 0⟩ } ∧ flag t Reg.hstSpiEvt 0 = true ∧
        rd t (Reg.hstSpiCnt 1) = (rd s (Reg.hstSpiCnt 1) + 1) % 2 ^ 48 ∧ Only [.spi] [Reg.hstSpiEvt, Reg.hstSpiCnt 1] s t) ∧
    (∀ (x : BitVec 64) (w : Nat), s.spi.refusing = false → bitsOf x.toNat 7 0 = spiCrc x.toNat → w = bitsOf x.toNat 61 43 →
      (bitsOf x.toNat 63 62 = 0 → Ends (.spiTransaction 64 x) s fun t =>
        t.spi = { s.spi with
          pend := some ⟨true, false, false, false, w, 0⟩
          seq := (s.spi.seq + 1) % 8 } ∧
        rd t (Reg.hstSpiCnt 0) = (rd s (Reg.hstSpiCnt 0) + 1) % 2 ^ 48 ∧ Only [.spi] [Reg.hstSpiCnt 0] s t) ∧
      (bitsOf x.toNat 63 62 = 2 → bitsOf x.toNat 42 40 = myPos s → 4 * w = Reg.hstSpiIrqEn →
        spiMayWrite s Reg.hstSpiIrqEn = true → Ends (.spiTransaction 64 x) s fun t =>
          fget t Reg.hstSpiIrqEn 31 0 = bitsOf x.toNat 39 8 ∧
          t.spi.pend = some ⟨true, false, false, false, w, 0⟩ ∧ t.spi.seq = (s.spi.seq + 1) % 8 ∧
          Only [.spi] [Reg.hstSpiIrqEn, Reg.hstSpiCnt 0] s t) ∧
      (bitsOf x.toNat 63 62 = 2 → bitsOf x.toNat 42 40 = myPos s → spiMayWrite s (4 * w) = false →
        Ends (.spiTransaction 64 x) s fun t =>
          t.spi = { s.spi with pend := some ⟨true, false, false, true, w, 0⟩ } ∧ flag t Reg.hstSpiEvt 1 = true ∧
          rd t (Reg.hstSpiCnt 2) = (rd s (Reg.hstSpiCnt 2) + 1) % 2 ^ 48 ∧ Only [.spi] [Reg.hstSpiEvt, Reg.hstSpiCnt 2] s t) ∧
      (bitsOf x.toNat 63 62 = 1 → bitsOf x.toNat 42 40 = myPos s → hostReach s (4 * w) 4 = true → 4 * w < spmBase →
        wordAt (4 * w) = none → Ends (.spiTransaction 64 x) s fun t =>
          t.spi.pend = some ⟨true, false, objBad s (4 * w), false, w, 0⟩ ∧ Only [.spi] [Reg.hstSpiCnt 0] s t) ∧
      (bitsOf x.toNat 63 62 = 1 → bitsOf x.toNat 42 40 = myPos s → hostReach s (4 * w) 4 = true → spmBase ≤ 4 * w →
        4 * w < ownEnd → Ends (.spiTransaction 64 x) s fun t =>
          t.spi.pend = some ⟨false, false, false, false, w, 0⟩ ∧
          (∃ a, t.spm = { s.spm with waiting := s.spm.waiting ++ [a] } ∧ a.who = .spi ∧ a.kind = .read ∧ a.len = 4 ∧
            a.off = 4 * w - spmBase) ∧ Only [.spi, .spm] [Reg.hstSpiCnt 0] s t)) ∧
    (∀ (m : Requester) (v : BitVec 32), mayWrite s m Reg.seqWdogKick 4 = true → Ends (.wdogKick m v) s fun t =>
      t.seq = (if v.toNat % 65536 = 0x4B1C then { s.seq with wdogAt := s.cycle } else s.seq) ∧
      Only [.seq] (portRegs m) s t) ∧
    (Ends .wdog s fun t =>
      (s.seq.running = true → flag s Reg.seqWdog 31 = true → s.seq.wdogAt + 800 * fget s Reg.seqWdog 23 0 ≤ s.cycle →
        t.seq = { s.seq with wdogAt := s.cycle } ∧ flag t Reg.seqEvt 3 = true ∧ Only [.seq] [Reg.seqEvt] s t) ∧
      (flag s Reg.seqWdog 31 = false ∨ s.cycle < s.seq.wdogAt + 800 * fget s Reg.seqWdog 23 0 → Only [] [] s t)) ∧
    (∀ m : Requester, mayWrite s m Reg.seqCtrl 4 = true → Ends (.secureClear m) s fun t =>
      flag t Reg.seqCtrl 0 = false ∧ Only [] (Reg.seqCtrl :: portRegs m) s t) ∧
    (∀ box : Fin 3, mboxPosted s box = true →
      (mboxOp s box = 1 → Ends (.version box) s fun t =>
        flag t (Reg.seqMboxCmd box) 30 = true ∧ fget t (Reg.seqMboxCmd box) 15 8 = 0 ∧ flag t Reg.seqEvt box = true ∧
        rd t (Reg.seqMboxOut box 0) = (Config.firmwareVersion 0).toNat ∧
        Only [] [Reg.seqMboxCmd box, Reg.seqEvt, Reg.seqMboxOut box 0, Reg.seqMboxOut box 1] s t) ∧
      (mboxOp s box = 2 → mboxWaits s box = false → Ends (.checkpoint box) s fun t =>
        t.nvc.seq = (s.nvc.seq + 1) % 2 ^ 32 ∧
        (∃ o, t.nvc.ops = s.nvc.ops ++ [o] ∧ o.kind = 2 ∧ o.addr = ringSlot s.nvc.seq) ∧
        t.seq = { s.seq with ckptBox := s.seq.ckptBox ++ [4 * ringSlot s.nvc.seq + box] } ∧
        Only [.nvc, .seq] [Reg.nvcCkptProg, Reg.nvcCkptTotal] s t) ∧
      (mboxOp s box = 3 → Ends (.mgmtReload box) s fun t =>
        flag t (Reg.seqMboxCmd box) 30 = true ∧ fget t (Reg.seqMboxCmd box) 15 8 = 0 ∧ flag t Reg.seqEvt box = true ∧
        (flag s (Reg.seqCanm 0) 31 = true →
          rd t (Reg.canObjId 126) = 2 ^ 31 + fget s (Reg.seqCanm 0) 29 29 * 2 ^ 29 + fget s (Reg.seqCanm 0) 28 0 ∧
          rd t (Reg.canObjId 127) = 3 * 2 ^ 30 + fget s (Reg.seqCanm 1) 29 29 * 2 ^ 29 + fget s (Reg.seqCanm 1) 28 0) ∧
        Only [.intg] ([Reg.seqMboxCmd box, Reg.seqEvt, Reg.canObjId 126, Reg.canObjFmt 126, Reg.canObjMask 126,
          Reg.canObjId 127] ++ flipRegs) s t) ∧
      (∀ (status : BitVec 8) (words : List (BitVec 32)), mboxWaits s box = false →
        Ends (.mailboxAnswer box status words) s fun t =>
          flag t (Reg.seqMboxCmd box) 30 = true ∧ flag t Reg.seqEvt box = true ∧
          (flag s Reg.imgStat 25 = false → mboxOp s box = 0 ∨ 3 < mboxOp s box →
            fget t (Reg.seqMboxCmd box) 15 8 = 1 ∧ Only [] [Reg.seqMboxCmd box, Reg.seqEvt] s t) ∧
          (flag s Reg.imgStat 25 = true → fget t (Reg.seqMboxCmd box) 15 8 = status.toNat ∧
            (∀ i w, i < 4 → words[i]? = some w → rd t (Reg.seqMboxOut box i) = w.toNat) ∧
            Only [] ([Reg.seqMboxCmd box, Reg.seqEvt] ++ (List.range 4).map (Reg.seqMboxOut box)) s t)))

/-- The CAN controller joins, receives into the lowest matching object, sends, aborts, counts errors and recovers (R476, R478, R479, R480, R481, R482, R484). -/
def Obligations.CanControllerSendsReceivesAndRecovers : Prop :=
  ∀ (s : State), awake s = true →
    (Ends .canJoin s fun t =>
      t.can = (if flag s Reg.canCtrl 0 || !s.pwr.reqHigh then s.can else { s.can with joined := true }) ∧ Only [.can] [] s t) ∧
    (∀ (f : CanFrame) (heavy : Bool) (ago : Nat), flag s Reg.canCtrl 0 = false → s.can.joined = true → s.can.busOff = false →
      s.can.rec_ = 0 → mgmtReady s = false →
      ((∀ k, k < 128 → flag s (Reg.canObjId k) 31 = true → flag s (Reg.canObjId k) 30 = true) →
        Ends (.canFrameReceive f 0 heavy ago) s fun t =>
          rd t (Reg.canCnt 0) = (rd s (Reg.canCnt 0) + 1) % 2 ^ 48 ∧
          rd t (Reg.canCnt 2) = (rd s (Reg.canCnt 2) + 1) % 2 ^ 48 ∧ Only [] [Reg.canCnt 0, Reg.canCnt 2] s t) ∧
      (∀ k, k < 126 → flag s (Reg.canObjId k) 31 = true → flag s (Reg.canObjId k) 30 = false →
        (f.id ^^^ fget s (Reg.canObjId k) 28 0) &&& rd s (Reg.canObjMask k) = 0 → flag s (Reg.canObjFmt k) 30 = false →
        (∀ j, j < k → flag s (Reg.canObjId j) 31 = false) → (∀ w, w < 16 → flipAt s 0x11 (16 * k + w) = none) →
        Ends (.canFrameReceive f 0 heavy ago) s fun t =>
          fget t (Reg.canObjId k) 28 0 = f.id % 2 ^ 29 ∧ flag t (Reg.canObjStat k) 30 = true ∧
          rd t (Reg.canObjTime k) = roadAgo s ago / roadUnit % 2 ^ 64 ∧
          (4 ≤ f.data.length → rd t (Reg.canObjData k 0) = fieldAt f.data 0 4) ∧
          (flag s (Reg.canObjStat k) 30 = true → flag t (Reg.canObjStat k) 29 = true ∧ flag t Reg.canEvt 2 = true) ∧
          keepsUnits [.draws, .intg] s t)) ∧
    (∀ (f : CanFrame) (lec : Fin 8) (heavy : Bool) (ago : Nat), flag s Reg.canCtrl 0 = false → s.can.joined = true →
      s.can.busOff = false → mgmtReady s = false → lec.val ≠ 0 → Ends (.canFrameReceive f lec heavy ago) s fun t =>
        fget t Reg.canStat 31 29 = lec.val ∧ rd t (Reg.canCnt 3) = (rd s (Reg.canCnt 3) + 1) % 2 ^ 48 ∧
        flag t Reg.canEvt 8 = true ∧ t.can.rec_ = min 255 (s.can.rec_ + (if heavy then 8 else 1)) ∧
        t.can.tec = s.can.tec ∧ keepsUnits [.can] s t) ∧
    (∀ (m : Requester) (n : Fin 128), mayWrite s m (Reg.canObjStat n) 4 = true →
      (objHeld s m n = true →
        (Ends (.txreq m n) s fun t => flag t Reg.topErr 0 = true ∧ Only [] (errRegs ++ portRegs m) s t) ∧
        (Ends (.abort m n) s fun t => flag t Reg.topErr 0 = true ∧ Only [] (errRegs ++ portRegs m) s t)) ∧
      (objHeld s m n = false → txReq s n = false → Ends (.txreq m n) s fun t =>
        txReq t n = true ∧ fget t (Reg.canObjStat n) 23 16 = 0 ∧ t.can.fails.nat n = 0 ∧ keepsUnits [.can, .intg] s t) ∧
      (objHeld s m n = false → txReq s n = true →
        (s.can.tx = none → Ends (.abort m n) s fun t =>
          txReq t n = false ∧ flag t (Reg.canObjStat n) 27 = true ∧ keepsUnits [.intg] s t) ∧
        (∀ f b, s.can.tx = some (n.val, f, b) → Ends (.abort m n) s fun t =>
          txReq t n = true ∧ flag t (Reg.canObjStat n) 25 = true ∧ t.can.tx = some (n.val, f, true) ∧
          keepsUnits [.can, .intg] s t))) ∧
    (∀ (k : Nat) (f : CanFrame) (ab : Bool) (ago : Nat), s.can.tx = some (k, f, ab) → k < 128 → txReq s k = true →
      (canMode s = 0 → s.can.tec ≤ 255 → Ends (.canTransmitEnd .success ago) s fun t =>
        txReq t k = false ∧ flag t (Reg.canObjStat k) 28 = true ∧ t.can.tx = none ∧ t.can.tec = s.can.tec - 1 ∧
        rd t (Reg.canObjTime k) = roadAgo s ago / roadUnit % 2 ^ 64 ∧
        rd t (Reg.canCnt 1) = (rd s (Reg.canCnt 1) + 1) % 2 ^ 48 ∧ keepsUnits [.can] s t) ∧
      (Ends (.canTransmitEnd .lost ago) s fun t =>
        t.can.tx = none ∧ t.can.tec = s.can.tec ∧ rd t (Reg.canCnt 4) = (rd s (Reg.canCnt 4) + 1) % 2 ^ 48 ∧
        (ab = true ∨ flag s Reg.canCtrl 22 = true → txReq t k = false ∧ flag t (Reg.canObjStat k) 27 = true) ∧
        (ab = false → flag s Reg.canCtrl 22 = false → fget s Reg.canCtrl 30 23 = 0 → txReq t k = true) ∧
        keepsUnits [.can] s t) ∧
      (∀ lec : Fin 8, lec.val ≠ 3 → s.can.tec ≤ 247 → Ends (.canTransmitEnd (.error lec true) ago) s fun t =>
        t.can.tx = none ∧ t.can.tec = s.can.tec + 8 ∧ fget t Reg.canStat 31 29 = lec.val ∧
        rd t (Reg.canCnt 3) = (rd s (Reg.canCnt 3) + 1) % 2 ^ 48 ∧ keepsUnits [.can] s t)) ∧
    (∀ (m : Requester) (v : BitVec 32), mayWrite s m Reg.canCtrl 4 = true → bitOf v.toNat 31 = true →
      Ends (.recover m v) s fun t =>
        t.can.recovering = (s.can.busOff || s.can.recovering) ∧ t.can.busOff = s.can.busOff ∧
        Only [.can] ([Reg.canCtrl] ++ errRegs ++ portRegs m) s t) ∧
    (∀ n : Nat, flag s Reg.canCtrl 0 = true → Ends (.recovered n) s fun t => Only [] [] s t) ∧
    (∀ n : Nat, flag s Reg.canCtrl 0 = false → s.can.busOff = true → s.can.recovering = true →
      (s.can.recov + n < 128 → Ends (.recovered n) s fun t =>
        t.can = { s.can with recov := s.can.recov + n } ∧ Only [.can] [] s t) ∧
      (128 ≤ s.can.recov + n → Ends (.recovered n) s fun t =>
        t.can.busOff = false ∧ t.can.recovering = false ∧ t.can.tec = 0 ∧ t.can.rec_ = 0 ∧ flag t Reg.canEvt 7 = true ∧
        Only [.can] [Reg.canEvt] s t))

/-- The management commands over CAN: each waiting request is taken and its response is queued in object 127 (R483, R490). -/
def Obligations.ManagementRequestsAreAnsweredOverCan : Prop :=
  ∀ (s : State) (w0 : Nat), awake s = true → w0 = fget s (Reg.canObjData 126 0) 31 0 →
    (mgmtReady s = false →
      (Ends .ping s fun t => Only [] [] s t) ∧ (Ends .status s fun t => Only [] [] s t) ∧
      (Ends .time s fun t => Only [] [] s t) ∧ (Ends .read s fun t => Only [] [] s t) ∧
      (Ends .stayAwake s fun t => Only [] [] s t) ∧ (Ends .parkVote s fun t => Only [] [] s t)) ∧
    (mgmtReady s = true → bitsOf w0 31 16 = 0 →
      (bitsOf w0 7 0 = 1 → 4 ≤ mgmtLen s → Ends .ping s fun t =>
        mgmtAnswered s 1 0 t ∧ rd t (Reg.canObjData 127 1) = topIdView s % 2 ^ 32 ∧ keepsUnits [.can, .draws, .intg] s t) ∧
      (bitsOf w0 7 0 = 2 → 4 ≤ mgmtLen s → Ends .status s fun t =>
        mgmtAnswered s 2 0 t ∧ rd t (Reg.canObjData 127 1) = s.pwr.st.code + s.tca.level % 2 ^ 8 * 2 ^ 8 +
          s.tca.temp % 2 ^ 8 * 2 ^ 16 + (b2n s.mil.valid + 2 * b2n (flag s Reg.topLedgerStat 7) +
            4 * b2n (flag s Reg.imgStat 30) + 8 * b2n s.pwr.warmStart) * 2 ^ 24 ∧ keepsUnits [.can, .draws, .intg] s t) ∧
      (bitsOf w0 7 0 = 3 → 4 ≤ mgmtLen s → Ends .time s fun t =>
        mgmtAnswered s 3 0 t ∧ rd t (Reg.canObjData 127 1) = nowNs s % 2 ^ 32 ∧
        (flag s (Reg.canObjFmt 126) 28 = true → rd t (Reg.canObjData 127 2) = nowNs s / 2 ^ 32 % 2 ^ 32) ∧
        keepsUnits [.can, .draws, .intg] s t) ∧
      (bitsOf w0 7 0 = 4 → 8 ≤ mgmtLen s →
        ([0, 1, 3, 22].contains (mgmtArg s 4 / 0x10000) = false → Ends .read s fun t =>
          mgmtAnswered s 4 2 t ∧ keepsUnits [.can, .draws, .intg] s t) ∧
        ([0, 1, 3, 22].contains (mgmtArg s 4 / 0x10000) = true → mgmtArg s 4 % 4 ≠ 0 → Ends .read s fun t => mgmtAnswered s 4 3 t) ∧
        (mgmtArg s 4 = Reg.topErr → Ends .read s fun t =>
          mgmtAnswered s 4 0 t ∧ rd t (Reg.canObjData 127 1) = fget s Reg.topErr 31 0)) ∧
      (bitsOf w0 7 0 = 5 → 6 ≤ mgmtLen s → Ends .stayAwake s fun t =>
        mgmtAnswered s 5 0 t ∧ rd t Reg.pwrHoldMs = max (rd s Reg.pwrHoldMs) (fget s (Reg.canObjData 126 1) 15 0) ∧
        keepsUnits [.can, .draws, .intg] s t) ∧
      (bitsOf w0 7 0 = 6 → 4 ≤ mgmtLen s → Ends .parkVote s fun t =>
        mgmtAnswered s 6 0 t ∧ rd t Reg.pwrHoldMs = 0 ∧
        (flag s Reg.pwrCfg 0 = true → s.pwr.st = .staged ∨ s.pwr.st = .ready →
          t.pwr.st = .parking ∧ flag t Reg.pwrEvt 0 = true) ∧
        (flag s Reg.pwrCfg 0 = false → t.pwr = s.pwr) ∧ keepsUnits [.can, .draws, .intg, .pwr] s t)) ∧
    (mgmtReady s = true → (bitsOf w0 7 0 = 1 ∧ mgmtLen s < 4) ∨ (bitsOf w0 7 0 = 1 ∧ bitsOf w0 31 16 ≠ 0) →
      Ends .ping s fun t => mgmtAnswered s 1 3 t)

/-- Reserved own-space offsets: reads return zero, writes change nothing, and each requester learns what the rule says (R543). -/
def Obligations.ReservedOffsetsReadZeroAndKeepEverything : Prop :=
  ∀ (s : State) (off : BitVec 25) (v : BitVec 32), awake s = true → wordAt off.toNat = none → off.toNat % 4 = 0 →
    off.toNat < spmBase →
    (∀ (m : Requester) (f : Fin 2), fnOf m = some f.val → mayWrite s m off.toNat 4 = true →
      (Ends (.registerWrite m off (leBytes 4 v.toNat)) s fun t =>
        flag t (Reg.hstPcieEvt f) 1 = true ∧ Only [] [Reg.hstPcieEvt f, Reg.hstPcieCnt f 0] s t) ∧
      (Ends (.registerRead m off 4) s fun t =>
        Out.regData m.code off.toNat 4 0 ∈ t.out ∧ flag t (Reg.hstPcieEvt f) 1 = true ∧
        Only [] [Reg.hstPcieEvt f, Reg.hstPcieCnt f 0] s t)) ∧
    (∀ x : BitVec 64, s.spi.refusing = false → bitsOf x.toNat 7 0 = spiCrc x.toNat → 4 * bitsOf x.toNat 61 43 = off.toNat →
      bitsOf x.toNat 42 40 = myPos s →
      (bitsOf x.toNat 63 62 = 1 → hostReach s off.toNat 4 = true → Ends (.spiTransaction 64 x) s fun t =>
        t.spi.pend = some ⟨true, false, false, false, bitsOf x.toNat 61 43, 0⟩ ∧ Only [.spi] [Reg.hstSpiCnt 0] s t) ∧
      (bitsOf x.toNat 63 62 = 2 → spiMayWrite s off.toNat = true → Ends (.spiTransaction 64 x) s fun t =>
        t.spi.pend = some ⟨true, false, false, false, bitsOf x.toNat 61 43, 0⟩ ∧ Only [.spi] [Reg.hstSpiCnt 0] s t)) ∧
    (∀ m : Requester, m = .benchM ∨ m = .benchU → s.seq.running = true →
      (Ends (.registerWrite m off (leBytes 4 v.toNat)) s fun t => Only [] [] s t) ∧
      (Ends (.registerRead m off 4) s fun t => Out.regData m.code off.toNat 4 0 ∈ t.out ∧ Only [] [] s t)) ∧
    (∀ (k : Fin 2) (h : BitVec 64) (payload : List Byte) (f : BFrame), f = frameOf h.toNat payload → f.typ = 3 →
      f.size = false → f.off = off.toNat → f.dst = myPos s → f.src ≠ myPos s → (wport s 0).inq = [] → (wport s 1).inq = [] →
      (wport s k.val).state = 4 → bitsOf h.toNat 59 48 = (wport s k.val).expSeq →
      (wport s (portTo s f.src)).sends = true → (wport s (portTo s f.src)).waitq = [] →
      (wport s (portTo s f.src)).out = [] → Ends (.bpw k h payload) s fun t =>
        (∃ e ∈ (wport t (portTo s f.src)).out, e.f.typ = 6 ∧ e.f.status = 1 ∧ e.f.dst = f.src ∧ e.f.wsn = f.wsn) ∧
        rd t (Reg.brgCnt 2) = rd s (Reg.brgCnt 2) ∧ keepsUnits [.wlt] s t)

/-- A step runs the command at the front of the queue with the rest of the queue, and ticks when none waits (00_scope, 01_journey). -/
def Obligations.StepRunsTheFrontCommandOrTicks : Prop :=
  (∀ (c : Instr) (rest : List Instr) (s : State), step { s with pending := c :: rest } = exec c { s with pending := rest }) ∧
  (∀ s : State, s.pending = [] → step s = .next (tick s))

/-- Every command answers a next state and leaves the queue and the clock as they are (01_journey, 95_steps). -/
def Obligations.EveryCommandCompletesInNoTime : Prop :=
  ∀ (c : Instr) (s : State), Ends c s fun t => t.pending = s.pending ∧ t.cycle = s.cycle

/-- With the fast clocks off, core commands change nothing and idle steps only count the always-on clock (R111, R485, R487, R488, R501). -/
def Obligations.WithoutFastClocksOnlyTheAlwaysOnDomainMoves : Prop :=
  (∀ (c : Instr) (s : State), awake s = false → s.msixInv → alwaysOn c = false → exec c s = .next s) ∧
  (∀ s : State, s.pending = [] → s.pwr.st = .off → step s = .next s) ∧
  (∀ s : State, s.pending = [] → s.pwr.st = .park → s.pwr.resume = none → ∃ t, step s = .next t ∧
    rd t Reg.milAonCnt = (rd s Reg.milAonCnt + 1) % 2 ^ 48 ∧
    rd t Reg.milHoldTicks = (if s.pwr.counting then (rd s Reg.milHoldTicks + 1) % 2 ^ 48 else rd s Reg.milHoldTicks) ∧
    t.mil = { s.mil with edgeNs := nowNs s } ∧ t.cycle = s.cycle ∧ t.pending = [] ∧
    Only [.mil] [Reg.milAonCnt, Reg.milHoldTicks] s t)

/-- The state after reset: registers at their reset values, memories and queues empty, vectors agreed, canonical forms (R362, R419, R427, R446, R476, R474). -/
def Obligations.ResetStateHoldsTheTablesResetValues : Prop :=
  State.reset.pending = [] ∧ State.reset.cycle = 0 ∧ (∀ a, memByte State.reset.spm.mem a = 0) ∧
  (∀ a, memByte State.reset.drc.mem a = 0) ∧ (∀ o, rd State.reset o = (regDefault o).toNat) ∧
  rd State.reset Reg.intScrubCtrl = 2 ^ 31 + 16 * 2 ^ 16 + 64 ∧ rd State.reset Reg.canCtrl = 1 ∧
  rd State.reset (Reg.spmEn 18) = 0x7FFF ∧ rd State.reset Reg.lrnRate = 64 * 2 ^ 16 + 1000 ∧
  fget State.reset Reg.seqWdog 23 0 = 100000 ∧ locked State.reset = false ∧ State.reset.seq.running = false ∧
  State.reset.vrd.flights = [] ∧ State.reset.tcr.cmds = [] ∧ State.reset.host = [] ∧ State.reset.rgl.reqs = [] ∧
  State.reset.msixInv ∧ State.reset.memWf ∧ State.reset.regsWf

/-- Commands that write scratchpad, DRAM or the checkpoint store keep each memory in its one canonical form (R415, R419, R430, R437, R444, R503, R504, R507). -/
def Obligations.MemoryCommandsKeepTheCanonicalForm : Prop :=
  ∀ (s : State), awake s = true → s.memWf →
    ((wport s 0).inq = [] → (wport s 1).inq = [] → Ends .scratchpadServe s fun t => t.memWf) ∧
    (∀ m : Requester, mayWrite s m Reg.nvcAccCmd 4 = true → Ends (.nvcAccWrite m) s fun t => t.memWf) ∧
    (Ends .checkpointWriteDone s fun t => t.memWf) ∧ (Ends .tamperWipeEnd s fun t => t.memWf) ∧
    (Ends .dramClearEnd s fun t => t.memWf) ∧ (∀ fails : List Nat, Ends (.marchDone fails) s fun t => t.memWf) ∧
    (∀ (m : Requester) (v : BitVec 64), mayWrite s m Reg.intRetireEnt 8 = true → Ends (.retireEntWrite m v) s fun t => t.memWf)

/-- Every step, command or tick, keeps the active interrupt vectors in agreement with the active causes and the vector maps (R460, R461). -/
def Obligations.EveryStepKeepsVectorsAgreed : Prop :=
  ∀ (s t : State), step s = .next t → s.msixInv → t.msixInv
end

