-- ==== Sys2Proof/Laws/KMap.lean ====
section
/-!
SUPPORT. Sparse stores: a read after a write, and that every write keeps the canonical form.
-/
namespace Sys2Proof.Machine

variable {α : Type} [DecidableEq α] (d : Nat → α)

omit [DecidableEq α] in
theorem KMap.get_del_same (m : KMap α) (k : Nat) : KMap.get d (KMap.del m k) k = d k := by
  induction m with
  | nil => rfl
  | cons e t ih =>
    by_cases h : e.1 = k
    · simpa [KMap.del, h] using ih
    · simpa [KMap.del, KMap.get, h] using ih

omit [DecidableEq α] in
theorem KMap.get_del_ne (m : KMap α) {k j : Nat} (h : j ≠ k) : KMap.get d (KMap.del m k) j = KMap.get d m j := by
  induction m with
  | nil => rfl
  | cons e t ih =>
    by_cases hk : e.1 = k
    · have : e.1 ≠ j := by omega
      simp [KMap.del, KMap.get, hk, ih]
      intro hj
      omega
    · by_cases hj : e.1 = j
      · simp only [KMap.del, hk, if_false]
        simp [KMap.get, hj]
      · simp only [KMap.del, hk, if_false]
        simp [KMap.get, hj, ih]

omit [DecidableEq α] in
theorem KMap.get_ins_same (m : KMap α) (k : Nat) (v : α) (h : ∀ e ∈ m, e.1 ≠ k) : KMap.get d (KMap.ins m k v) k = v := by
  induction m with
  | nil => simp [KMap.ins, KMap.get]
  | cons e t ih =>
    have he : e.1 ≠ k := h e (by simp)
    by_cases hk : k < e.1
    · simp [KMap.ins, KMap.get, hk]
    · simp [KMap.ins, KMap.get, hk, he]
      exact ih (fun e' he' => h e' (by simp [he']))

omit [DecidableEq α] in
theorem KMap.get_ins_ne (m : KMap α) {k j : Nat} (v : α) (h : j ≠ k) : KMap.get d (KMap.ins m k v) j = KMap.get d m j := by
  induction m with
  | nil => simp [KMap.ins, KMap.get]; omega
  | cons e t ih =>
    by_cases hk : k < e.1
    · simp [KMap.ins, KMap.get, hk]
      intro hj
      omega
    · by_cases hj : e.1 = j
      · simp only [KMap.ins, hk, if_false]
        simp [KMap.get, hj]
      · simp only [KMap.ins, hk, if_false]
        simp [KMap.get, hj, ih]

omit [DecidableEq α] in
theorem KMap.mem_del {m : KMap α} {k : Nat} {e : Nat × α} (h : e ∈ KMap.del m k) : e ∈ m ∧ e.1 ≠ k := by
  induction m with
  | nil => simp [KMap.del] at h
  | cons f t ih =>
    by_cases hk : f.1 = k
    · simp [KMap.del, hk] at h
      exact ⟨by simp [(ih h).1], (ih h).2⟩
    · simp [KMap.del, hk] at h
      rcases h with rfl | h
      · exact ⟨by simp, hk⟩
      · exact ⟨by simp [(ih h).1], (ih h).2⟩

/-- A read of the key just written gives the value. -/
@[simp] theorem KMap.get_set_same (m : KMap α) (k : Nat) (v : α) : KMap.get d (KMap.set d m k v) k = v := by
  unfold KMap.set
  split
  · rename_i h
    rw [KMap.get_del_same, h]
  · exact KMap.get_ins_same d _ k v (fun e he => (KMap.mem_del he).2)

/-- A write leaves every other key alone. -/
theorem KMap.get_set_ne (m : KMap α) {k j : Nat} (v : α) (h : j ≠ k) :
    KMap.get d (KMap.set d m k v) j = KMap.get d m j := by
  unfold KMap.set
  split
  · exact KMap.get_del_ne d m h
  · rw [KMap.get_ins_ne d _ v h, KMap.get_del_ne d m h]

/-- Both cases of a read after a write. -/
theorem KMap.get_set (m : KMap α) (k j : Nat) (v : α) :
    KMap.get d (KMap.set d m k v) j = if j = k then v else KMap.get d m j := by
  split
  · rename_i h
    rw [h, KMap.get_set_same]
  · rename_i h
    exact KMap.get_set_ne d m v h

/-- A store read with another default, for a key whose default is the same in both. -/
theorem KMap.get_set_ne' {d' : Nat → α} (m : KMap α) {k j : Nat} (v : α) (h : j ≠ k) :
    KMap.get d' (KMap.set d m k v) j = KMap.get d' m j := by
  unfold KMap.set
  split
  · exact KMap.get_del_ne d' m h
  · rw [KMap.get_ins_ne d' _ v h, KMap.get_del_ne d' m h]

/-- The canonical form as a list property: keys strictly rising, and no entry equal to its default. -/
theorem KMap.wf_iff (m : KMap α) :
    KMap.wf d m ↔ m.Pairwise (fun e f => e.1 < f.1) ∧ ∀ e ∈ m, e.2 ≠ d e.1 := by
  induction m with
  | nil => simp [KMap.wf, KMap.okFrom]
  | cons e t ih =>
    cases t with
    | nil => simp [KMap.wf, KMap.okFrom]
    | cons f u =>
      rw [KMap.wf] at ih ⊢
      rw [KMap.okFrom]
      simp only [ Bool.and_eq_true, decide_eq_true_eq, List.pairwise_cons, List.mem_cons, forall_eq_or_imp,
        Bool.not_eq_true', decide_eq_false_iff_not] at ih ⊢
      constructor
      · rintro ⟨⟨h1, h2⟩, h3⟩
        obtain ⟨⟨h4, h5⟩, h6, h7⟩ := ih.1 h3
        exact ⟨⟨⟨h1, fun a ha => lt_trans h1 (h4 a ha)⟩, h4, h5⟩, h2, h6, h7⟩
      · rintro ⟨⟨⟨h1, _⟩, h4, h5⟩, h2, h6, h7⟩
        exact ⟨⟨h1, h2⟩, ih.2 ⟨⟨h4, h5⟩, h6, h7⟩⟩

omit [DecidableEq α] in
theorem KMap.del_sublist (m : KMap α) (k : Nat) : (KMap.del m k).Sublist m := by
  induction m with
  | nil => simp [KMap.del]
  | cons e t ih =>
    by_cases hk : e.1 = k
    · simpa [KMap.del, hk] using ih.cons e
    · simpa [KMap.del, hk] using ih.cons_cons e

theorem KMap.wf_sublist {m n : KMap α} (h : m.Sublist n) (hn : KMap.wf d n) : KMap.wf d m := by
  rw [KMap.wf_iff] at hn ⊢
  exact ⟨hn.1.sublist h, fun e he => hn.2 e (h.subset he)⟩

/-- Dropping entries keeps the canonical form. -/
theorem KMap.wf_filter {m : KMap α} (p : Nat × α → Bool) (h : KMap.wf d m) : KMap.wf d (m.filter p) :=
  KMap.wf_sublist d List.filter_sublist h

omit [DecidableEq α] in
theorem KMap.mem_ins {m : KMap α} {k : Nat} {v : α} {e : Nat × α} (h : e ∈ KMap.ins m k v) : e = (k, v) ∨ e ∈ m := by
  induction m with
  | nil => simpa [KMap.ins] using h
  | cons f t ih =>
    by_cases hk : k < f.1
    · simpa [KMap.ins, hk] using h
    · simp [KMap.ins, hk] at h
      rcases h with rfl | h
      · simp
      · rcases ih h with h | h
        · exact Or.inl h
        · exact Or.inr (by simp [h])

omit [DecidableEq α] in
theorem KMap.pairwise_ins {m : KMap α} {k : Nat} (v : α) (hp : m.Pairwise (fun e f => e.1 < f.1))
    (hk : ∀ e ∈ m, e.1 ≠ k) : (KMap.ins m k v).Pairwise (fun e f => e.1 < f.1) := by
  induction m with
  | nil => simp [KMap.ins]
  | cons f t ih =>
    rw [List.pairwise_cons] at hp
    by_cases h : k < f.1
    · simp only [KMap.ins, h, if_true]
      rw [List.pairwise_cons, List.pairwise_cons]
      refine ⟨?_, hp⟩
      intro e he
      rcases List.mem_cons.1 he with rfl | he
      · exact h
      · exact lt_trans h (hp.1 e he)
    · have hf : f.1 < k := by
        have := hk f (by simp)
        omega
      simp only [KMap.ins, h, if_false]
      rw [List.pairwise_cons]
      refine ⟨?_, ih hp.2 (fun e he => hk e (by simp [he]))⟩
      intro e he
      rcases KMap.mem_ins he with rfl | he
      · exact hf
      · exact hp.1 e he

/-- A write keeps the canonical form. -/
theorem KMap.wf_set {m : KMap α} (k : Nat) (v : α) (h : KMap.wf d m) : KMap.wf d (KMap.set d m k v) := by
  have hd : KMap.wf d (KMap.del m k) := KMap.wf_sublist d (KMap.del_sublist m k) h
  unfold KMap.set
  split
  · exact hd
  · rename_i hv
    rw [KMap.wf_iff] at hd ⊢
    refine ⟨KMap.pairwise_ins v hd.1 (fun e he => (KMap.mem_del he).2), ?_⟩
    intro e he
    rcases KMap.mem_ins he with rfl | he
    · exact hv
    · exact hd.2 e he

end Sys2Proof.Machine
end

