-- ==== Sys2Proof/Laws/State.lean ====
section
/-!
SUPPORT. What each named update leaves alone, field by field, so that no proof unfolds a record update.
-/
namespace Sys2Proof.Machine

variable (s : State)

/-- What every step of a fold leaves alone, the fold leaves alone. -/
theorem foldl_same {α β : Type} (g : State → α → State) (f : State → β) (h : ∀ t a, f (g t a) = f t) (l : List α) :
    f (l.foldl g s) = f s := by
  induction l generalizing s with
  | nil => rfl
  | cons a l ih => exact (ih _).trans (h s a)

@[simp] theorem wr_cycle (o v : Nat) : (wr s o v).cycle = s.cycle := by rw [wr]
@[simp] theorem wr_draws (o v : Nat) : (wr s o v).draws = s.draws := by rw [wr]
@[simp] theorem wr_rgl (o v : Nat) : (wr s o v).rgl = s.rgl := by rw [wr]
@[simp] theorem wr_drc (o v : Nat) : (wr s o v).drc = s.drc := by rw [wr]
@[simp] theorem wr_intg (o v : Nat) : (wr s o v).intg = s.intg := by rw [wr]
@[simp] theorem wr_spm (o v : Nat) : (wr s o v).spm = s.spm := by rw [wr]
@[simp] theorem wr_tca (o v : Nat) : (wr s o v).tca = s.tca := by rw [wr]
@[simp] theorem wr_hsh (o v : Nat) : (wr s o v).hsh = s.hsh := by rw [wr]
@[simp] theorem wr_way (o v : Nat) : (wr s o v).way = s.way := by rw [wr]
@[simp] theorem wr_lrn (o v : Nat) : (wr s o v).lrn = s.lrn := by rw [wr]
@[simp] theorem wr_age (o v : Nat) : (wr s o v).age = s.age := by rw [wr]
@[simp] theorem wr_tcr (o v : Nat) : (wr s o v).tcr = s.tcr := by rw [wr]
@[simp] theorem wr_vrd (o v : Nat) : (wr s o v).vrd = s.vrd := by rw [wr]
@[simp] theorem wr_cbl (o v : Nat) : (wr s o v).cbl = s.cbl := by rw [wr]
@[simp] theorem wr_tol (o v : Nat) : (wr s o v).tol = s.tol := by rw [wr]
@[simp] theorem wr_taps (o v : Nat) : (wr s o v).taps = s.taps := by rw [wr]
@[simp] theorem wr_mil (o v : Nat) : (wr s o v).mil = s.mil := by rw [wr]
@[simp] theorem wr_host (o v : Nat) : (wr s o v).host = s.host := by rw [wr]
@[simp] theorem wr_img (o v : Nat) : (wr s o v).img = s.img := by rw [wr]
@[simp] theorem wr_pwr (o v : Nat) : (wr s o v).pwr = s.pwr := by rw [wr]
@[simp] theorem wr_nvc (o v : Nat) : (wr s o v).nvc = s.nvc := by rw [wr]
@[simp] theorem wr_lcs (o v : Nat) : (wr s o v).lcs = s.lcs := by rw [wr]
@[simp] theorem wr_wlt (o v : Nat) : (wr s o v).wlt = s.wlt := by rw [wr]
@[simp] theorem wr_brg (o v : Nat) : (wr s o v).brg = s.brg := by rw [wr]
@[simp] theorem wr_pcie (o v : Nat) : (wr s o v).pcie = s.pcie := by rw [wr]
@[simp] theorem wr_dma (o v : Nat) : (wr s o v).dma = s.dma := by rw [wr]
@[simp] theorem wr_spi (o v : Nat) : (wr s o v).spi = s.spi := by rw [wr]
@[simp] theorem wr_seq (o v : Nat) : (wr s o v).seq = s.seq := by rw [wr]
@[simp] theorem wr_can (o v : Nat) : (wr s o v).can = s.can := by rw [wr]
@[simp] theorem wr_latch (o v : Nat) : (wr s o v).latch = s.latch := by rw [wr]
@[simp] theorem wr_stage (o v : Nat) : (wr s o v).stage = s.stage := by rw [wr]
@[simp] theorem wr_out (o v : Nat) : (wr s o v).out = s.out := by rw [wr]
@[simp] theorem wr_now (o v : Nat) : (wr s o v).now = s.now := by rw [wr]
@[simp] theorem wr_past (o v : Nat) : (wr s o v).past = s.past := by rw [wr]
@[simp] theorem wr_pending (o v : Nat) : (wr s o v).pending = s.pending := by rw [wr]

@[simp] theorem fput_cycle (o hi lo v : Nat) : (fput s o hi lo v).cycle = s.cycle := by rw [fput, wr_cycle]
@[simp] theorem fput_draws (o hi lo v : Nat) : (fput s o hi lo v).draws = s.draws := by rw [fput, wr_draws]
@[simp] theorem fput_rgl (o hi lo v : Nat) : (fput s o hi lo v).rgl = s.rgl := by rw [fput, wr_rgl]
@[simp] theorem fput_drc (o hi lo v : Nat) : (fput s o hi lo v).drc = s.drc := by rw [fput, wr_drc]
@[simp] theorem fput_intg (o hi lo v : Nat) : (fput s o hi lo v).intg = s.intg := by rw [fput, wr_intg]
@[simp] theorem fput_spm (o hi lo v : Nat) : (fput s o hi lo v).spm = s.spm := by rw [fput, wr_spm]
@[simp] theorem fput_tca (o hi lo v : Nat) : (fput s o hi lo v).tca = s.tca := by rw [fput, wr_tca]
@[simp] theorem fput_hsh (o hi lo v : Nat) : (fput s o hi lo v).hsh = s.hsh := by rw [fput, wr_hsh]
@[simp] theorem fput_way (o hi lo v : Nat) : (fput s o hi lo v).way = s.way := by rw [fput, wr_way]
@[simp] theorem fput_lrn (o hi lo v : Nat) : (fput s o hi lo v).lrn = s.lrn := by rw [fput, wr_lrn]
@[simp] theorem fput_age (o hi lo v : Nat) : (fput s o hi lo v).age = s.age := by rw [fput, wr_age]
@[simp] theorem fput_tcr (o hi lo v : Nat) : (fput s o hi lo v).tcr = s.tcr := by rw [fput, wr_tcr]
@[simp] theorem fput_vrd (o hi lo v : Nat) : (fput s o hi lo v).vrd = s.vrd := by rw [fput, wr_vrd]
@[simp] theorem fput_cbl (o hi lo v : Nat) : (fput s o hi lo v).cbl = s.cbl := by rw [fput, wr_cbl]
@[simp] theorem fput_tol (o hi lo v : Nat) : (fput s o hi lo v).tol = s.tol := by rw [fput, wr_tol]
@[simp] theorem fput_taps (o hi lo v : Nat) : (fput s o hi lo v).taps = s.taps := by rw [fput, wr_taps]
@[simp] theorem fput_mil (o hi lo v : Nat) : (fput s o hi lo v).mil = s.mil := by rw [fput, wr_mil]
@[simp] theorem fput_host (o hi lo v : Nat) : (fput s o hi lo v).host = s.host := by rw [fput, wr_host]
@[simp] theorem fput_img (o hi lo v : Nat) : (fput s o hi lo v).img = s.img := by rw [fput, wr_img]
@[simp] theorem fput_pwr (o hi lo v : Nat) : (fput s o hi lo v).pwr = s.pwr := by rw [fput, wr_pwr]
@[simp] theorem fput_nvc (o hi lo v : Nat) : (fput s o hi lo v).nvc = s.nvc := by rw [fput, wr_nvc]
@[simp] theorem fput_lcs (o hi lo v : Nat) : (fput s o hi lo v).lcs = s.lcs := by rw [fput, wr_lcs]
@[simp] theorem fput_wlt (o hi lo v : Nat) : (fput s o hi lo v).wlt = s.wlt := by rw [fput, wr_wlt]
@[simp] theorem fput_brg (o hi lo v : Nat) : (fput s o hi lo v).brg = s.brg := by rw [fput, wr_brg]
@[simp] theorem fput_pcie (o hi lo v : Nat) : (fput s o hi lo v).pcie = s.pcie := by rw [fput, wr_pcie]
@[simp] theorem fput_dma (o hi lo v : Nat) : (fput s o hi lo v).dma = s.dma := by rw [fput, wr_dma]
@[simp] theorem fput_spi (o hi lo v : Nat) : (fput s o hi lo v).spi = s.spi := by rw [fput, wr_spi]
@[simp] theorem fput_seq (o hi lo v : Nat) : (fput s o hi lo v).seq = s.seq := by rw [fput, wr_seq]
@[simp] theorem fput_can (o hi lo v : Nat) : (fput s o hi lo v).can = s.can := by rw [fput, wr_can]
@[simp] theorem fput_latch (o hi lo v : Nat) : (fput s o hi lo v).latch = s.latch := by rw [fput, wr_latch]
@[simp] theorem fput_stage (o hi lo v : Nat) : (fput s o hi lo v).stage = s.stage := by rw [fput, wr_stage]
@[simp] theorem fput_out (o hi lo v : Nat) : (fput s o hi lo v).out = s.out := by rw [fput, wr_out]
@[simp] theorem fput_now (o hi lo v : Nat) : (fput s o hi lo v).now = s.now := by rw [fput, wr_now]
@[simp] theorem fput_past (o hi lo v : Nat) : (fput s o hi lo v).past = s.past := by rw [fput, wr_past]
@[simp] theorem fput_pending (o hi lo v : Nat) : (fput s o hi lo v).pending = s.pending := by rw [fput, wr_pending]

@[simp] theorem setEvt_cycle (o b : Nat) : (setEvt s o b).cycle = s.cycle := by rw [setEvt]; exact fput_cycle s o b b 1
@[simp] theorem setEvt_draws (o b : Nat) : (setEvt s o b).draws = s.draws := by rw [setEvt]; exact fput_draws s o b b 1
@[simp] theorem setEvt_rgl (o b : Nat) : (setEvt s o b).rgl = s.rgl := by rw [setEvt]; exact fput_rgl s o b b 1
@[simp] theorem setEvt_drc (o b : Nat) : (setEvt s o b).drc = s.drc := by rw [setEvt]; exact fput_drc s o b b 1
@[simp] theorem setEvt_intg (o b : Nat) : (setEvt s o b).intg = s.intg := by rw [setEvt]; exact fput_intg s o b b 1
@[simp] theorem setEvt_spm (o b : Nat) : (setEvt s o b).spm = s.spm := by rw [setEvt]; exact fput_spm s o b b 1
@[simp] theorem setEvt_tca (o b : Nat) : (setEvt s o b).tca = s.tca := by rw [setEvt]; exact fput_tca s o b b 1
@[simp] theorem setEvt_hsh (o b : Nat) : (setEvt s o b).hsh = s.hsh := by rw [setEvt]; exact fput_hsh s o b b 1
@[simp] theorem setEvt_way (o b : Nat) : (setEvt s o b).way = s.way := by rw [setEvt]; exact fput_way s o b b 1
@[simp] theorem setEvt_lrn (o b : Nat) : (setEvt s o b).lrn = s.lrn := by rw [setEvt]; exact fput_lrn s o b b 1
@[simp] theorem setEvt_age (o b : Nat) : (setEvt s o b).age = s.age := by rw [setEvt]; exact fput_age s o b b 1
@[simp] theorem setEvt_tcr (o b : Nat) : (setEvt s o b).tcr = s.tcr := by rw [setEvt]; exact fput_tcr s o b b 1
@[simp] theorem setEvt_vrd (o b : Nat) : (setEvt s o b).vrd = s.vrd := by rw [setEvt]; exact fput_vrd s o b b 1
@[simp] theorem setEvt_cbl (o b : Nat) : (setEvt s o b).cbl = s.cbl := by rw [setEvt]; exact fput_cbl s o b b 1
@[simp] theorem setEvt_tol (o b : Nat) : (setEvt s o b).tol = s.tol := by rw [setEvt]; exact fput_tol s o b b 1
@[simp] theorem setEvt_taps (o b : Nat) : (setEvt s o b).taps = s.taps := by rw [setEvt]; exact fput_taps s o b b 1
@[simp] theorem setEvt_mil (o b : Nat) : (setEvt s o b).mil = s.mil := by rw [setEvt]; exact fput_mil s o b b 1
@[simp] theorem setEvt_host (o b : Nat) : (setEvt s o b).host = s.host := by rw [setEvt]; exact fput_host s o b b 1
@[simp] theorem setEvt_img (o b : Nat) : (setEvt s o b).img = s.img := by rw [setEvt]; exact fput_img s o b b 1
@[simp] theorem setEvt_pwr (o b : Nat) : (setEvt s o b).pwr = s.pwr := by rw [setEvt]; exact fput_pwr s o b b 1
@[simp] theorem setEvt_nvc (o b : Nat) : (setEvt s o b).nvc = s.nvc := by rw [setEvt]; exact fput_nvc s o b b 1
@[simp] theorem setEvt_lcs (o b : Nat) : (setEvt s o b).lcs = s.lcs := by rw [setEvt]; exact fput_lcs s o b b 1
@[simp] theorem setEvt_wlt (o b : Nat) : (setEvt s o b).wlt = s.wlt := by rw [setEvt]; exact fput_wlt s o b b 1
@[simp] theorem setEvt_brg (o b : Nat) : (setEvt s o b).brg = s.brg := by rw [setEvt]; exact fput_brg s o b b 1
@[simp] theorem setEvt_pcie (o b : Nat) : (setEvt s o b).pcie = s.pcie := by rw [setEvt]; exact fput_pcie s o b b 1
@[simp] theorem setEvt_dma (o b : Nat) : (setEvt s o b).dma = s.dma := by rw [setEvt]; exact fput_dma s o b b 1
@[simp] theorem setEvt_spi (o b : Nat) : (setEvt s o b).spi = s.spi := by rw [setEvt]; exact fput_spi s o b b 1
@[simp] theorem setEvt_seq (o b : Nat) : (setEvt s o b).seq = s.seq := by rw [setEvt]; exact fput_seq s o b b 1
@[simp] theorem setEvt_can (o b : Nat) : (setEvt s o b).can = s.can := by rw [setEvt]; exact fput_can s o b b 1
@[simp] theorem setEvt_latch (o b : Nat) : (setEvt s o b).latch = s.latch := by rw [setEvt]; exact fput_latch s o b b 1
@[simp] theorem setEvt_stage (o b : Nat) : (setEvt s o b).stage = s.stage := by rw [setEvt]; exact fput_stage s o b b 1
@[simp] theorem setEvt_out (o b : Nat) : (setEvt s o b).out = s.out := by rw [setEvt]; exact fput_out s o b b 1
@[simp] theorem setEvt_past (o b : Nat) : (setEvt s o b).past = s.past := by rw [setEvt]; exact fput_past s o b b 1
@[simp] theorem setEvt_pending (o b : Nat) : (setEvt s o b).pending = s.pending := by rw [setEvt]; exact fput_pending s o b b 1

@[simp] theorem bump_cycle (o n : Nat) : (bump s o n).cycle = s.cycle := by rw [bump, wr_cycle]
@[simp] theorem bump_draws (o n : Nat) : (bump s o n).draws = s.draws := by rw [bump, wr_draws]
@[simp] theorem bump_rgl (o n : Nat) : (bump s o n).rgl = s.rgl := by rw [bump, wr_rgl]
@[simp] theorem bump_drc (o n : Nat) : (bump s o n).drc = s.drc := by rw [bump, wr_drc]
@[simp] theorem bump_intg (o n : Nat) : (bump s o n).intg = s.intg := by rw [bump, wr_intg]
@[simp] theorem bump_spm (o n : Nat) : (bump s o n).spm = s.spm := by rw [bump, wr_spm]
@[simp] theorem bump_tca (o n : Nat) : (bump s o n).tca = s.tca := by rw [bump, wr_tca]
@[simp] theorem bump_hsh (o n : Nat) : (bump s o n).hsh = s.hsh := by rw [bump, wr_hsh]
@[simp] theorem bump_way (o n : Nat) : (bump s o n).way = s.way := by rw [bump, wr_way]
@[simp] theorem bump_lrn (o n : Nat) : (bump s o n).lrn = s.lrn := by rw [bump, wr_lrn]
@[simp] theorem bump_age (o n : Nat) : (bump s o n).age = s.age := by rw [bump, wr_age]
@[simp] theorem bump_tcr (o n : Nat) : (bump s o n).tcr = s.tcr := by rw [bump, wr_tcr]
@[simp] theorem bump_vrd (o n : Nat) : (bump s o n).vrd = s.vrd := by rw [bump, wr_vrd]
@[simp] theorem bump_cbl (o n : Nat) : (bump s o n).cbl = s.cbl := by rw [bump, wr_cbl]
@[simp] theorem bump_tol (o n : Nat) : (bump s o n).tol = s.tol := by rw [bump, wr_tol]
@[simp] theorem bump_taps (o n : Nat) : (bump s o n).taps = s.taps := by rw [bump, wr_taps]
@[simp] theorem bump_mil (o n : Nat) : (bump s o n).mil = s.mil := by rw [bump, wr_mil]
@[simp] theorem bump_host (o n : Nat) : (bump s o n).host = s.host := by rw [bump, wr_host]
@[simp] theorem bump_img (o n : Nat) : (bump s o n).img = s.img := by rw [bump, wr_img]
@[simp] theorem bump_pwr (o n : Nat) : (bump s o n).pwr = s.pwr := by rw [bump, wr_pwr]
@[simp] theorem bump_nvc (o n : Nat) : (bump s o n).nvc = s.nvc := by rw [bump, wr_nvc]
@[simp] theorem bump_lcs (o n : Nat) : (bump s o n).lcs = s.lcs := by rw [bump, wr_lcs]
@[simp] theorem bump_wlt (o n : Nat) : (bump s o n).wlt = s.wlt := by rw [bump, wr_wlt]
@[simp] theorem bump_brg (o n : Nat) : (bump s o n).brg = s.brg := by rw [bump, wr_brg]
@[simp] theorem bump_pcie (o n : Nat) : (bump s o n).pcie = s.pcie := by rw [bump, wr_pcie]
@[simp] theorem bump_dma (o n : Nat) : (bump s o n).dma = s.dma := by rw [bump, wr_dma]
@[simp] theorem bump_spi (o n : Nat) : (bump s o n).spi = s.spi := by rw [bump, wr_spi]
@[simp] theorem bump_seq (o n : Nat) : (bump s o n).seq = s.seq := by rw [bump, wr_seq]
@[simp] theorem bump_can (o n : Nat) : (bump s o n).can = s.can := by rw [bump, wr_can]
@[simp] theorem bump_latch (o n : Nat) : (bump s o n).latch = s.latch := by rw [bump, wr_latch]
@[simp] theorem bump_stage (o n : Nat) : (bump s o n).stage = s.stage := by rw [bump, wr_stage]
@[simp] theorem bump_out (o n : Nat) : (bump s o n).out = s.out := by rw [bump, wr_out]
@[simp] theorem bump_now (o n : Nat) : (bump s o n).now = s.now := by rw [bump, wr_now]
@[simp] theorem bump_past (o n : Nat) : (bump s o n).past = s.past := by rw [bump, wr_past]
@[simp] theorem bump_pending (o n : Nat) : (bump s o n).pending = s.pending := by rw [bump, wr_pending]

@[simp] theorem satBump_cycle (o hi lo n : Nat) : (satBump s o hi lo n).cycle = s.cycle := by rw [satBump, fput_cycle]
@[simp] theorem satBump_draws (o hi lo n : Nat) : (satBump s o hi lo n).draws = s.draws := by rw [satBump, fput_draws]
@[simp] theorem satBump_rgl (o hi lo n : Nat) : (satBump s o hi lo n).rgl = s.rgl := by rw [satBump, fput_rgl]
@[simp] theorem satBump_drc (o hi lo n : Nat) : (satBump s o hi lo n).drc = s.drc := by rw [satBump, fput_drc]
@[simp] theorem satBump_intg (o hi lo n : Nat) : (satBump s o hi lo n).intg = s.intg := by rw [satBump, fput_intg]
@[simp] theorem satBump_spm (o hi lo n : Nat) : (satBump s o hi lo n).spm = s.spm := by rw [satBump, fput_spm]
@[simp] theorem satBump_tca (o hi lo n : Nat) : (satBump s o hi lo n).tca = s.tca := by rw [satBump, fput_tca]
@[simp] theorem satBump_hsh (o hi lo n : Nat) : (satBump s o hi lo n).hsh = s.hsh := by rw [satBump, fput_hsh]
@[simp] theorem satBump_way (o hi lo n : Nat) : (satBump s o hi lo n).way = s.way := by rw [satBump, fput_way]
@[simp] theorem satBump_lrn (o hi lo n : Nat) : (satBump s o hi lo n).lrn = s.lrn := by rw [satBump, fput_lrn]
@[simp] theorem satBump_age (o hi lo n : Nat) : (satBump s o hi lo n).age = s.age := by rw [satBump, fput_age]
@[simp] theorem satBump_tcr (o hi lo n : Nat) : (satBump s o hi lo n).tcr = s.tcr := by rw [satBump, fput_tcr]
@[simp] theorem satBump_vrd (o hi lo n : Nat) : (satBump s o hi lo n).vrd = s.vrd := by rw [satBump, fput_vrd]
@[simp] theorem satBump_cbl (o hi lo n : Nat) : (satBump s o hi lo n).cbl = s.cbl := by rw [satBump, fput_cbl]
@[simp] theorem satBump_tol (o hi lo n : Nat) : (satBump s o hi lo n).tol = s.tol := by rw [satBump, fput_tol]
@[simp] theorem satBump_taps (o hi lo n : Nat) : (satBump s o hi lo n).taps = s.taps := by rw [satBump, fput_taps]
@[simp] theorem satBump_mil (o hi lo n : Nat) : (satBump s o hi lo n).mil = s.mil := by rw [satBump, fput_mil]
@[simp] theorem satBump_host (o hi lo n : Nat) : (satBump s o hi lo n).host = s.host := by rw [satBump, fput_host]
@[simp] theorem satBump_img (o hi lo n : Nat) : (satBump s o hi lo n).img = s.img := by rw [satBump, fput_img]
@[simp] theorem satBump_pwr (o hi lo n : Nat) : (satBump s o hi lo n).pwr = s.pwr := by rw [satBump, fput_pwr]
@[simp] theorem satBump_nvc (o hi lo n : Nat) : (satBump s o hi lo n).nvc = s.nvc := by rw [satBump, fput_nvc]
@[simp] theorem satBump_lcs (o hi lo n : Nat) : (satBump s o hi lo n).lcs = s.lcs := by rw [satBump, fput_lcs]
@[simp] theorem satBump_wlt (o hi lo n : Nat) : (satBump s o hi lo n).wlt = s.wlt := by rw [satBump, fput_wlt]
@[simp] theorem satBump_brg (o hi lo n : Nat) : (satBump s o hi lo n).brg = s.brg := by rw [satBump, fput_brg]
@[simp] theorem satBump_pcie (o hi lo n : Nat) : (satBump s o hi lo n).pcie = s.pcie := by rw [satBump, fput_pcie]
@[simp] theorem satBump_dma (o hi lo n : Nat) : (satBump s o hi lo n).dma = s.dma := by rw [satBump, fput_dma]
@[simp] theorem satBump_spi (o hi lo n : Nat) : (satBump s o hi lo n).spi = s.spi := by rw [satBump, fput_spi]
@[simp] theorem satBump_seq (o hi lo n : Nat) : (satBump s o hi lo n).seq = s.seq := by rw [satBump, fput_seq]
@[simp] theorem satBump_can (o hi lo n : Nat) : (satBump s o hi lo n).can = s.can := by rw [satBump, fput_can]
@[simp] theorem satBump_latch (o hi lo n : Nat) : (satBump s o hi lo n).latch = s.latch := by rw [satBump, fput_latch]
@[simp] theorem satBump_stage (o hi lo n : Nat) : (satBump s o hi lo n).stage = s.stage := by rw [satBump, fput_stage]
@[simp] theorem satBump_out (o hi lo n : Nat) : (satBump s o hi lo n).out = s.out := by rw [satBump, fput_out]
@[simp] theorem satBump_now (o hi lo n : Nat) : (satBump s o hi lo n).now = s.now := by rw [satBump, fput_now]
@[simp] theorem satBump_past (o hi lo n : Nat) : (satBump s o hi lo n).past = s.past := by rw [satBump, fput_past]
@[simp] theorem satBump_pending (o hi lo n : Nat) : (satBump s o hi lo n).pending = s.pending := by rw [satBump, fput_pending]

@[simp] theorem rsvd_cycle (m o : Nat) : (rsvd s m o).cycle = s.cycle := by rw [rsvd, wr_cycle, setEvt_cycle]
@[simp] theorem rsvd_draws (m o : Nat) : (rsvd s m o).draws = s.draws := by rw [rsvd, wr_draws, setEvt_draws]
@[simp] theorem rsvd_rgl (m o : Nat) : (rsvd s m o).rgl = s.rgl := by rw [rsvd, wr_rgl, setEvt_rgl]
@[simp] theorem rsvd_drc (m o : Nat) : (rsvd s m o).drc = s.drc := by rw [rsvd, wr_drc, setEvt_drc]
@[simp] theorem rsvd_intg (m o : Nat) : (rsvd s m o).intg = s.intg := by rw [rsvd, wr_intg, setEvt_intg]
@[simp] theorem rsvd_spm (m o : Nat) : (rsvd s m o).spm = s.spm := by rw [rsvd, wr_spm, setEvt_spm]
@[simp] theorem rsvd_tca (m o : Nat) : (rsvd s m o).tca = s.tca := by rw [rsvd, wr_tca, setEvt_tca]
@[simp] theorem rsvd_hsh (m o : Nat) : (rsvd s m o).hsh = s.hsh := by rw [rsvd, wr_hsh, setEvt_hsh]
@[simp] theorem rsvd_way (m o : Nat) : (rsvd s m o).way = s.way := by rw [rsvd, wr_way, setEvt_way]
@[simp] theorem rsvd_lrn (m o : Nat) : (rsvd s m o).lrn = s.lrn := by rw [rsvd, wr_lrn, setEvt_lrn]
@[simp] theorem rsvd_age (m o : Nat) : (rsvd s m o).age = s.age := by rw [rsvd, wr_age, setEvt_age]
@[simp] theorem rsvd_tcr (m o : Nat) : (rsvd s m o).tcr = s.tcr := by rw [rsvd, wr_tcr, setEvt_tcr]
@[simp] theorem rsvd_vrd (m o : Nat) : (rsvd s m o).vrd = s.vrd := by rw [rsvd, wr_vrd, setEvt_vrd]
@[simp] theorem rsvd_cbl (m o : Nat) : (rsvd s m o).cbl = s.cbl := by rw [rsvd, wr_cbl, setEvt_cbl]
@[simp] theorem rsvd_tol (m o : Nat) : (rsvd s m o).tol = s.tol := by rw [rsvd, wr_tol, setEvt_tol]
@[simp] theorem rsvd_taps (m o : Nat) : (rsvd s m o).taps = s.taps := by rw [rsvd, wr_taps, setEvt_taps]
@[simp] theorem rsvd_mil (m o : Nat) : (rsvd s m o).mil = s.mil := by rw [rsvd, wr_mil, setEvt_mil]
@[simp] theorem rsvd_host (m o : Nat) : (rsvd s m o).host = s.host := by rw [rsvd, wr_host, setEvt_host]
@[simp] theorem rsvd_img (m o : Nat) : (rsvd s m o).img = s.img := by rw [rsvd, wr_img, setEvt_img]
@[simp] theorem rsvd_pwr (m o : Nat) : (rsvd s m o).pwr = s.pwr := by rw [rsvd, wr_pwr, setEvt_pwr]
@[simp] theorem rsvd_nvc (m o : Nat) : (rsvd s m o).nvc = s.nvc := by rw [rsvd, wr_nvc, setEvt_nvc]
@[simp] theorem rsvd_lcs (m o : Nat) : (rsvd s m o).lcs = s.lcs := by rw [rsvd, wr_lcs, setEvt_lcs]
@[simp] theorem rsvd_wlt (m o : Nat) : (rsvd s m o).wlt = s.wlt := by rw [rsvd, wr_wlt, setEvt_wlt]
@[simp] theorem rsvd_brg (m o : Nat) : (rsvd s m o).brg = s.brg := by rw [rsvd, wr_brg, setEvt_brg]
@[simp] theorem rsvd_pcie (m o : Nat) : (rsvd s m o).pcie = s.pcie := by rw [rsvd, wr_pcie, setEvt_pcie]
@[simp] theorem rsvd_dma (m o : Nat) : (rsvd s m o).dma = s.dma := by rw [rsvd, wr_dma, setEvt_dma]
@[simp] theorem rsvd_spi (m o : Nat) : (rsvd s m o).spi = s.spi := by rw [rsvd, wr_spi, setEvt_spi]
@[simp] theorem rsvd_seq (m o : Nat) : (rsvd s m o).seq = s.seq := by rw [rsvd, wr_seq, setEvt_seq]
@[simp] theorem rsvd_can (m o : Nat) : (rsvd s m o).can = s.can := by rw [rsvd, wr_can, setEvt_can]
@[simp] theorem rsvd_latch (m o : Nat) : (rsvd s m o).latch = s.latch := by rw [rsvd, wr_latch, setEvt_latch]
@[simp] theorem rsvd_stage (m o : Nat) : (rsvd s m o).stage = s.stage := by rw [rsvd, wr_stage, setEvt_stage]
@[simp] theorem rsvd_out (m o : Nat) : (rsvd s m o).out = s.out := by rw [rsvd, wr_out, setEvt_out]
@[simp] theorem rsvd_past (m o : Nat) : (rsvd s m o).past = s.past := by rw [rsvd, wr_past, setEvt_past]
@[simp] theorem rsvd_pending (m o : Nat) : (rsvd s m o).pending = s.pending := by rw [rsvd, wr_pending, setEvt_pending]

@[simp] theorem lockedWr_cycle (m o : Nat) : (lockedWr s m o).cycle = s.cycle := by rw [lockedWr, wr_cycle, setEvt_cycle]
@[simp] theorem lockedWr_draws (m o : Nat) : (lockedWr s m o).draws = s.draws := by rw [lockedWr, wr_draws, setEvt_draws]
@[simp] theorem lockedWr_rgl (m o : Nat) : (lockedWr s m o).rgl = s.rgl := by rw [lockedWr, wr_rgl, setEvt_rgl]
@[simp] theorem lockedWr_drc (m o : Nat) : (lockedWr s m o).drc = s.drc := by rw [lockedWr, wr_drc, setEvt_drc]
@[simp] theorem lockedWr_intg (m o : Nat) : (lockedWr s m o).intg = s.intg := by rw [lockedWr, wr_intg, setEvt_intg]
@[simp] theorem lockedWr_spm (m o : Nat) : (lockedWr s m o).spm = s.spm := by rw [lockedWr, wr_spm, setEvt_spm]
@[simp] theorem lockedWr_tca (m o : Nat) : (lockedWr s m o).tca = s.tca := by rw [lockedWr, wr_tca, setEvt_tca]
@[simp] theorem lockedWr_hsh (m o : Nat) : (lockedWr s m o).hsh = s.hsh := by rw [lockedWr, wr_hsh, setEvt_hsh]
@[simp] theorem lockedWr_way (m o : Nat) : (lockedWr s m o).way = s.way := by rw [lockedWr, wr_way, setEvt_way]
@[simp] theorem lockedWr_lrn (m o : Nat) : (lockedWr s m o).lrn = s.lrn := by rw [lockedWr, wr_lrn, setEvt_lrn]
@[simp] theorem lockedWr_age (m o : Nat) : (lockedWr s m o).age = s.age := by rw [lockedWr, wr_age, setEvt_age]
@[simp] theorem lockedWr_tcr (m o : Nat) : (lockedWr s m o).tcr = s.tcr := by rw [lockedWr, wr_tcr, setEvt_tcr]
@[simp] theorem lockedWr_vrd (m o : Nat) : (lockedWr s m o).vrd = s.vrd := by rw [lockedWr, wr_vrd, setEvt_vrd]
@[simp] theorem lockedWr_cbl (m o : Nat) : (lockedWr s m o).cbl = s.cbl := by rw [lockedWr, wr_cbl, setEvt_cbl]
@[simp] theorem lockedWr_tol (m o : Nat) : (lockedWr s m o).tol = s.tol := by rw [lockedWr, wr_tol, setEvt_tol]
@[simp] theorem lockedWr_taps (m o : Nat) : (lockedWr s m o).taps = s.taps := by rw [lockedWr, wr_taps, setEvt_taps]
@[simp] theorem lockedWr_mil (m o : Nat) : (lockedWr s m o).mil = s.mil := by rw [lockedWr, wr_mil, setEvt_mil]
@[simp] theorem lockedWr_host (m o : Nat) : (lockedWr s m o).host = s.host := by rw [lockedWr, wr_host, setEvt_host]
@[simp] theorem lockedWr_img (m o : Nat) : (lockedWr s m o).img = s.img := by rw [lockedWr, wr_img, setEvt_img]
@[simp] theorem lockedWr_pwr (m o : Nat) : (lockedWr s m o).pwr = s.pwr := by rw [lockedWr, wr_pwr, setEvt_pwr]
@[simp] theorem lockedWr_nvc (m o : Nat) : (lockedWr s m o).nvc = s.nvc := by rw [lockedWr, wr_nvc, setEvt_nvc]
@[simp] theorem lockedWr_lcs (m o : Nat) : (lockedWr s m o).lcs = s.lcs := by rw [lockedWr, wr_lcs, setEvt_lcs]
@[simp] theorem lockedWr_wlt (m o : Nat) : (lockedWr s m o).wlt = s.wlt := by rw [lockedWr, wr_wlt, setEvt_wlt]
@[simp] theorem lockedWr_brg (m o : Nat) : (lockedWr s m o).brg = s.brg := by rw [lockedWr, wr_brg, setEvt_brg]
@[simp] theorem lockedWr_pcie (m o : Nat) : (lockedWr s m o).pcie = s.pcie := by rw [lockedWr, wr_pcie, setEvt_pcie]
@[simp] theorem lockedWr_dma (m o : Nat) : (lockedWr s m o).dma = s.dma := by rw [lockedWr, wr_dma, setEvt_dma]
@[simp] theorem lockedWr_spi (m o : Nat) : (lockedWr s m o).spi = s.spi := by rw [lockedWr, wr_spi, setEvt_spi]
@[simp] theorem lockedWr_seq (m o : Nat) : (lockedWr s m o).seq = s.seq := by rw [lockedWr, wr_seq, setEvt_seq]
@[simp] theorem lockedWr_can (m o : Nat) : (lockedWr s m o).can = s.can := by rw [lockedWr, wr_can, setEvt_can]
@[simp] theorem lockedWr_latch (m o : Nat) : (lockedWr s m o).latch = s.latch := by rw [lockedWr, wr_latch, setEvt_latch]
@[simp] theorem lockedWr_stage (m o : Nat) : (lockedWr s m o).stage = s.stage := by rw [lockedWr, wr_stage, setEvt_stage]
@[simp] theorem lockedWr_out (m o : Nat) : (lockedWr s m o).out = s.out := by rw [lockedWr, wr_out, setEvt_out]
@[simp] theorem lockedWr_past (m o : Nat) : (lockedWr s m o).past = s.past := by rw [lockedWr, wr_past, setEvt_past]
@[simp] theorem lockedWr_pending (m o : Nat) : (lockedWr s m o).pending = s.pending := by rw [lockedWr, wr_pending, setEvt_pending]

@[simp] theorem draw_cycle : (draw s).cycle = s.cycle := by rw [draw]
@[simp] theorem draw_regs : (draw s).regs = s.regs := by rw [draw]
@[simp] theorem draw_rgl : (draw s).rgl = s.rgl := by rw [draw]
@[simp] theorem draw_drc : (draw s).drc = s.drc := by rw [draw]
@[simp] theorem draw_intg : (draw s).intg = s.intg := by rw [draw]
@[simp] theorem draw_spm : (draw s).spm = s.spm := by rw [draw]
@[simp] theorem draw_tca : (draw s).tca = s.tca := by rw [draw]
@[simp] theorem draw_hsh : (draw s).hsh = s.hsh := by rw [draw]
@[simp] theorem draw_way : (draw s).way = s.way := by rw [draw]
@[simp] theorem draw_lrn : (draw s).lrn = s.lrn := by rw [draw]
@[simp] theorem draw_age : (draw s).age = s.age := by rw [draw]
@[simp] theorem draw_tcr : (draw s).tcr = s.tcr := by rw [draw]
@[simp] theorem draw_vrd : (draw s).vrd = s.vrd := by rw [draw]
@[simp] theorem draw_cbl : (draw s).cbl = s.cbl := by rw [draw]
@[simp] theorem draw_tol : (draw s).tol = s.tol := by rw [draw]
@[simp] theorem draw_taps : (draw s).taps = s.taps := by rw [draw]
@[simp] theorem draw_mil : (draw s).mil = s.mil := by rw [draw]
@[simp] theorem draw_host : (draw s).host = s.host := by rw [draw]
@[simp] theorem draw_img : (draw s).img = s.img := by rw [draw]
@[simp] theorem draw_pwr : (draw s).pwr = s.pwr := by rw [draw]
@[simp] theorem draw_nvc : (draw s).nvc = s.nvc := by rw [draw]
@[simp] theorem draw_lcs : (draw s).lcs = s.lcs := by rw [draw]
@[simp] theorem draw_wlt : (draw s).wlt = s.wlt := by rw [draw]
@[simp] theorem draw_brg : (draw s).brg = s.brg := by rw [draw]
@[simp] theorem draw_pcie : (draw s).pcie = s.pcie := by rw [draw]
@[simp] theorem draw_dma : (draw s).dma = s.dma := by rw [draw]
@[simp] theorem draw_spi : (draw s).spi = s.spi := by rw [draw]
@[simp] theorem draw_seq : (draw s).seq = s.seq := by rw [draw]
@[simp] theorem draw_can : (draw s).can = s.can := by rw [draw]
@[simp] theorem draw_latch : (draw s).latch = s.latch := by rw [draw]
@[simp] theorem draw_stage : (draw s).stage = s.stage := by rw [draw]
@[simp] theorem draw_out : (draw s).out = s.out := by rw [draw]
@[simp] theorem draw_now : (draw s).now = s.now := by rw [draw]
@[simp] theorem draw_past : (draw s).past = s.past := by rw [draw]
@[simp] theorem draw_pending : (draw s).pending = s.pending := by rw [draw]

@[simp] theorem rcEvent_cycle (k b e : Nat) (f : Nat → Nat → Nat) : (rcEvent s k b e f).cycle = s.cycle := by rw [rcEvent]
@[simp] theorem rcEvent_regs (k b e : Nat) (f : Nat → Nat → Nat) : (rcEvent s k b e f).regs = s.regs := by rw [rcEvent]
@[simp] theorem rcEvent_draws (k b e : Nat) (f : Nat → Nat → Nat) : (rcEvent s k b e f).draws = s.draws := by rw [rcEvent]
@[simp] theorem rcEvent_rgl (k b e : Nat) (f : Nat → Nat → Nat) : (rcEvent s k b e f).rgl = s.rgl := by rw [rcEvent]
@[simp] theorem rcEvent_drc (k b e : Nat) (f : Nat → Nat → Nat) : (rcEvent s k b e f).drc = s.drc := by rw [rcEvent]
@[simp] theorem rcEvent_intg (k b e : Nat) (f : Nat → Nat → Nat) : (rcEvent s k b e f).intg = s.intg := by rw [rcEvent]
@[simp] theorem rcEvent_spm (k b e : Nat) (f : Nat → Nat → Nat) : (rcEvent s k b e f).spm = s.spm := by rw [rcEvent]
@[simp] theorem rcEvent_tca (k b e : Nat) (f : Nat → Nat → Nat) : (rcEvent s k b e f).tca = s.tca := by rw [rcEvent]
@[simp] theorem rcEvent_hsh (k b e : Nat) (f : Nat → Nat → Nat) : (rcEvent s k b e f).hsh = s.hsh := by rw [rcEvent]
@[simp] theorem rcEvent_way (k b e : Nat) (f : Nat → Nat → Nat) : (rcEvent s k b e f).way = s.way := by rw [rcEvent]
@[simp] theorem rcEvent_lrn (k b e : Nat) (f : Nat → Nat → Nat) : (rcEvent s k b e f).lrn = s.lrn := by rw [rcEvent]
@[simp] theorem rcEvent_age (k b e : Nat) (f : Nat → Nat → Nat) : (rcEvent s k b e f).age = s.age := by rw [rcEvent]
@[simp] theorem rcEvent_tcr (k b e : Nat) (f : Nat → Nat → Nat) : (rcEvent s k b e f).tcr = s.tcr := by rw [rcEvent]
@[simp] theorem rcEvent_vrd (k b e : Nat) (f : Nat → Nat → Nat) : (rcEvent s k b e f).vrd = s.vrd := by rw [rcEvent]
@[simp] theorem rcEvent_cbl (k b e : Nat) (f : Nat → Nat → Nat) : (rcEvent s k b e f).cbl = s.cbl := by rw [rcEvent]
@[simp] theorem rcEvent_tol (k b e : Nat) (f : Nat → Nat → Nat) : (rcEvent s k b e f).tol = s.tol := by rw [rcEvent]
@[simp] theorem rcEvent_taps (k b e : Nat) (f : Nat → Nat → Nat) : (rcEvent s k b e f).taps = s.taps := by rw [rcEvent]
@[simp] theorem rcEvent_mil (k b e : Nat) (f : Nat → Nat → Nat) : (rcEvent s k b e f).mil = s.mil := by rw [rcEvent]
@[simp] theorem rcEvent_host (k b e : Nat) (f : Nat → Nat → Nat) : (rcEvent s k b e f).host = s.host := by rw [rcEvent]
@[simp] theorem rcEvent_img (k b e : Nat) (f : Nat → Nat → Nat) : (rcEvent s k b e f).img = s.img := by rw [rcEvent]
@[simp] theorem rcEvent_pwr (k b e : Nat) (f : Nat → Nat → Nat) : (rcEvent s k b e f).pwr = s.pwr := by rw [rcEvent]
@[simp] theorem rcEvent_nvc (k b e : Nat) (f : Nat → Nat → Nat) : (rcEvent s k b e f).nvc = s.nvc := by rw [rcEvent]
@[simp] theorem rcEvent_lcs (k b e : Nat) (f : Nat → Nat → Nat) : (rcEvent s k b e f).lcs = s.lcs := by rw [rcEvent]
@[simp] theorem rcEvent_wlt (k b e : Nat) (f : Nat → Nat → Nat) : (rcEvent s k b e f).wlt = s.wlt := by rw [rcEvent]
@[simp] theorem rcEvent_brg (k b e : Nat) (f : Nat → Nat → Nat) : (rcEvent s k b e f).brg = s.brg := by rw [rcEvent]
@[simp] theorem rcEvent_pcie (k b e : Nat) (f : Nat → Nat → Nat) : (rcEvent s k b e f).pcie = s.pcie := by rw [rcEvent]
@[simp] theorem rcEvent_dma (k b e : Nat) (f : Nat → Nat → Nat) : (rcEvent s k b e f).dma = s.dma := by rw [rcEvent]
@[simp] theorem rcEvent_spi (k b e : Nat) (f : Nat → Nat → Nat) : (rcEvent s k b e f).spi = s.spi := by rw [rcEvent]
@[simp] theorem rcEvent_seq (k b e : Nat) (f : Nat → Nat → Nat) : (rcEvent s k b e f).seq = s.seq := by rw [rcEvent]
@[simp] theorem rcEvent_can (k b e : Nat) (f : Nat → Nat → Nat) : (rcEvent s k b e f).can = s.can := by rw [rcEvent]
@[simp] theorem rcEvent_latch (k b e : Nat) (f : Nat → Nat → Nat) : (rcEvent s k b e f).latch = s.latch := by rw [rcEvent]
@[simp] theorem rcEvent_stage (k b e : Nat) (f : Nat → Nat → Nat) : (rcEvent s k b e f).stage = s.stage := by rw [rcEvent]
@[simp] theorem rcEvent_out (k b e : Nat) (f : Nat → Nat → Nat) : (rcEvent s k b e f).out = s.out := by rw [rcEvent]
@[simp] theorem rcEvent_past (k b e : Nat) (f : Nat → Nat → Nat) : (rcEvent s k b e f).past = s.past := by rw [rcEvent]
@[simp] theorem rcEvent_pending (k b e : Nat) (f : Nat → Nat → Nat) : (rcEvent s k b e f).pending = s.pending := by rw [rcEvent]

@[simp] theorem rcTaken_cycle (k : Nat) : (rcTaken s k).cycle = s.cycle := by rw [rcTaken]; split <;> rfl
@[simp] theorem rcTaken_regs (k : Nat) : (rcTaken s k).regs = s.regs := by rw [rcTaken]; split <;> rfl
@[simp] theorem rcTaken_draws (k : Nat) : (rcTaken s k).draws = s.draws := by rw [rcTaken]; split <;> rfl
@[simp] theorem rcTaken_rgl (k : Nat) : (rcTaken s k).rgl = s.rgl := by rw [rcTaken]; split <;> rfl
@[simp] theorem rcTaken_drc (k : Nat) : (rcTaken s k).drc = s.drc := by rw [rcTaken]; split <;> rfl
@[simp] theorem rcTaken_intg (k : Nat) : (rcTaken s k).intg = s.intg := by rw [rcTaken]; split <;> rfl
@[simp] theorem rcTaken_spm (k : Nat) : (rcTaken s k).spm = s.spm := by rw [rcTaken]; split <;> rfl
@[simp] theorem rcTaken_tca (k : Nat) : (rcTaken s k).tca = s.tca := by rw [rcTaken]; split <;> rfl
@[simp] theorem rcTaken_hsh (k : Nat) : (rcTaken s k).hsh = s.hsh := by rw [rcTaken]; split <;> rfl
@[simp] theorem rcTaken_way (k : Nat) : (rcTaken s k).way = s.way := by rw [rcTaken]; split <;> rfl
@[simp] theorem rcTaken_lrn (k : Nat) : (rcTaken s k).lrn = s.lrn := by rw [rcTaken]; split <;> rfl
@[simp] theorem rcTaken_age (k : Nat) : (rcTaken s k).age = s.age := by rw [rcTaken]; split <;> rfl
@[simp] theorem rcTaken_tcr (k : Nat) : (rcTaken s k).tcr = s.tcr := by rw [rcTaken]; split <;> rfl
@[simp] theorem rcTaken_vrd (k : Nat) : (rcTaken s k).vrd = s.vrd := by rw [rcTaken]; split <;> rfl
@[simp] theorem rcTaken_cbl (k : Nat) : (rcTaken s k).cbl = s.cbl := by rw [rcTaken]; split <;> rfl
@[simp] theorem rcTaken_tol (k : Nat) : (rcTaken s k).tol = s.tol := by rw [rcTaken]; split <;> rfl
@[simp] theorem rcTaken_taps (k : Nat) : (rcTaken s k).taps = s.taps := by rw [rcTaken]; split <;> rfl
@[simp] theorem rcTaken_mil (k : Nat) : (rcTaken s k).mil = s.mil := by rw [rcTaken]; split <;> rfl
@[simp] theorem rcTaken_host (k : Nat) : (rcTaken s k).host = s.host := by rw [rcTaken]; split <;> rfl
@[simp] theorem rcTaken_img (k : Nat) : (rcTaken s k).img = s.img := by rw [rcTaken]; split <;> rfl
@[simp] theorem rcTaken_pwr (k : Nat) : (rcTaken s k).pwr = s.pwr := by rw [rcTaken]; split <;> rfl
@[simp] theorem rcTaken_nvc (k : Nat) : (rcTaken s k).nvc = s.nvc := by rw [rcTaken]; split <;> rfl
@[simp] theorem rcTaken_lcs (k : Nat) : (rcTaken s k).lcs = s.lcs := by rw [rcTaken]; split <;> rfl
@[simp] theorem rcTaken_wlt (k : Nat) : (rcTaken s k).wlt = s.wlt := by rw [rcTaken]; split <;> rfl
@[simp] theorem rcTaken_brg (k : Nat) : (rcTaken s k).brg = s.brg := by rw [rcTaken]; split <;> rfl
@[simp] theorem rcTaken_pcie (k : Nat) : (rcTaken s k).pcie = s.pcie := by rw [rcTaken]; split <;> rfl
@[simp] theorem rcTaken_dma (k : Nat) : (rcTaken s k).dma = s.dma := by rw [rcTaken]; split <;> rfl
@[simp] theorem rcTaken_spi (k : Nat) : (rcTaken s k).spi = s.spi := by rw [rcTaken]; split <;> rfl
@[simp] theorem rcTaken_seq (k : Nat) : (rcTaken s k).seq = s.seq := by rw [rcTaken]; split <;> rfl
@[simp] theorem rcTaken_can (k : Nat) : (rcTaken s k).can = s.can := by rw [rcTaken]; split <;> rfl
@[simp] theorem rcTaken_latch (k : Nat) : (rcTaken s k).latch = s.latch := by rw [rcTaken]; split <;> rfl
@[simp] theorem rcTaken_stage (k : Nat) : (rcTaken s k).stage = s.stage := by rw [rcTaken]; split <;> rfl
@[simp] theorem rcTaken_out (k : Nat) : (rcTaken s k).out = s.out := by rw [rcTaken]; split <;> rfl
@[simp] theorem rcTaken_past (k : Nat) : (rcTaken s k).past = s.past := by rw [rcTaken]; split <;> rfl
@[simp] theorem rcTaken_pending (k : Nat) : (rcTaken s k).pending = s.pending := by rw [rcTaken]; split <;> rfl

@[simp] theorem rcDrop_cycle (k : Nat) : (rcDrop s k).cycle = s.cycle := by rw [rcDrop]; split <;> rfl
@[simp] theorem rcDrop_regs (k : Nat) : (rcDrop s k).regs = s.regs := by rw [rcDrop]; split <;> rfl
@[simp] theorem rcDrop_draws (k : Nat) : (rcDrop s k).draws = s.draws := by rw [rcDrop]; split <;> rfl
@[simp] theorem rcDrop_rgl (k : Nat) : (rcDrop s k).rgl = s.rgl := by rw [rcDrop]; split <;> rfl
@[simp] theorem rcDrop_drc (k : Nat) : (rcDrop s k).drc = s.drc := by rw [rcDrop]; split <;> rfl
@[simp] theorem rcDrop_intg (k : Nat) : (rcDrop s k).intg = s.intg := by rw [rcDrop]; split <;> rfl
@[simp] theorem rcDrop_spm (k : Nat) : (rcDrop s k).spm = s.spm := by rw [rcDrop]; split <;> rfl
@[simp] theorem rcDrop_tca (k : Nat) : (rcDrop s k).tca = s.tca := by rw [rcDrop]; split <;> rfl
@[simp] theorem rcDrop_hsh (k : Nat) : (rcDrop s k).hsh = s.hsh := by rw [rcDrop]; split <;> rfl
@[simp] theorem rcDrop_way (k : Nat) : (rcDrop s k).way = s.way := by rw [rcDrop]; split <;> rfl
@[simp] theorem rcDrop_lrn (k : Nat) : (rcDrop s k).lrn = s.lrn := by rw [rcDrop]; split <;> rfl
@[simp] theorem rcDrop_age (k : Nat) : (rcDrop s k).age = s.age := by rw [rcDrop]; split <;> rfl
@[simp] theorem rcDrop_tcr (k : Nat) : (rcDrop s k).tcr = s.tcr := by rw [rcDrop]; split <;> rfl
@[simp] theorem rcDrop_vrd (k : Nat) : (rcDrop s k).vrd = s.vrd := by rw [rcDrop]; split <;> rfl
@[simp] theorem rcDrop_cbl (k : Nat) : (rcDrop s k).cbl = s.cbl := by rw [rcDrop]; split <;> rfl
@[simp] theorem rcDrop_tol (k : Nat) : (rcDrop s k).tol = s.tol := by rw [rcDrop]; split <;> rfl
@[simp] theorem rcDrop_taps (k : Nat) : (rcDrop s k).taps = s.taps := by rw [rcDrop]; split <;> rfl
@[simp] theorem rcDrop_mil (k : Nat) : (rcDrop s k).mil = s.mil := by rw [rcDrop]; split <;> rfl
@[simp] theorem rcDrop_host (k : Nat) : (rcDrop s k).host = s.host := by rw [rcDrop]; split <;> rfl
@[simp] theorem rcDrop_img (k : Nat) : (rcDrop s k).img = s.img := by rw [rcDrop]; split <;> rfl
@[simp] theorem rcDrop_pwr (k : Nat) : (rcDrop s k).pwr = s.pwr := by rw [rcDrop]; split <;> rfl
@[simp] theorem rcDrop_nvc (k : Nat) : (rcDrop s k).nvc = s.nvc := by rw [rcDrop]; split <;> rfl
@[simp] theorem rcDrop_lcs (k : Nat) : (rcDrop s k).lcs = s.lcs := by rw [rcDrop]; split <;> rfl
@[simp] theorem rcDrop_wlt (k : Nat) : (rcDrop s k).wlt = s.wlt := by rw [rcDrop]; split <;> rfl
@[simp] theorem rcDrop_brg (k : Nat) : (rcDrop s k).brg = s.brg := by rw [rcDrop]; split <;> rfl
@[simp] theorem rcDrop_pcie (k : Nat) : (rcDrop s k).pcie = s.pcie := by rw [rcDrop]; split <;> rfl
@[simp] theorem rcDrop_dma (k : Nat) : (rcDrop s k).dma = s.dma := by rw [rcDrop]; split <;> rfl
@[simp] theorem rcDrop_spi (k : Nat) : (rcDrop s k).spi = s.spi := by rw [rcDrop]; split <;> rfl
@[simp] theorem rcDrop_seq (k : Nat) : (rcDrop s k).seq = s.seq := by rw [rcDrop]; split <;> rfl
@[simp] theorem rcDrop_can (k : Nat) : (rcDrop s k).can = s.can := by rw [rcDrop]; split <;> rfl
@[simp] theorem rcDrop_latch (k : Nat) : (rcDrop s k).latch = s.latch := by rw [rcDrop]; split <;> rfl
@[simp] theorem rcDrop_stage (k : Nat) : (rcDrop s k).stage = s.stage := by rw [rcDrop]; split <;> rfl
@[simp] theorem rcDrop_out (k : Nat) : (rcDrop s k).out = s.out := by rw [rcDrop]; split <;> rfl
@[simp] theorem rcDrop_past (k : Nat) : (rcDrop s k).past = s.past := by rw [rcDrop]; split <;> rfl
@[simp] theorem rcDrop_pending (k : Nat) : (rcDrop s k).pending = s.pending := by rw [rcDrop]; split <;> rfl

@[simp] theorem actLater_cycle (k o : Nat) : (actLater s k o).cycle = s.cycle := by rw [actLater]; split <;> rfl
@[simp] theorem actLater_regs (k o : Nat) : (actLater s k o).regs = s.regs := by rw [actLater]; split <;> rfl
@[simp] theorem actLater_draws (k o : Nat) : (actLater s k o).draws = s.draws := by rw [actLater]; split <;> rfl
@[simp] theorem actLater_rgl (k o : Nat) : (actLater s k o).rgl = s.rgl := by rw [actLater]; split <;> rfl
@[simp] theorem actLater_drc (k o : Nat) : (actLater s k o).drc = s.drc := by rw [actLater]; split <;> rfl
@[simp] theorem actLater_intg (k o : Nat) : (actLater s k o).intg = s.intg := by rw [actLater]; split <;> rfl
@[simp] theorem actLater_spm (k o : Nat) : (actLater s k o).spm = s.spm := by rw [actLater]; split <;> rfl
@[simp] theorem actLater_tca (k o : Nat) : (actLater s k o).tca = s.tca := by rw [actLater]; split <;> rfl
@[simp] theorem actLater_hsh (k o : Nat) : (actLater s k o).hsh = s.hsh := by rw [actLater]; split <;> rfl
@[simp] theorem actLater_way (k o : Nat) : (actLater s k o).way = s.way := by rw [actLater]; split <;> rfl
@[simp] theorem actLater_lrn (k o : Nat) : (actLater s k o).lrn = s.lrn := by rw [actLater]; split <;> rfl
@[simp] theorem actLater_age (k o : Nat) : (actLater s k o).age = s.age := by rw [actLater]; split <;> rfl
@[simp] theorem actLater_tcr (k o : Nat) : (actLater s k o).tcr = s.tcr := by rw [actLater]; split <;> rfl
@[simp] theorem actLater_vrd (k o : Nat) : (actLater s k o).vrd = s.vrd := by rw [actLater]; split <;> rfl
@[simp] theorem actLater_cbl (k o : Nat) : (actLater s k o).cbl = s.cbl := by rw [actLater]; split <;> rfl
@[simp] theorem actLater_tol (k o : Nat) : (actLater s k o).tol = s.tol := by rw [actLater]; split <;> rfl
@[simp] theorem actLater_taps (k o : Nat) : (actLater s k o).taps = s.taps := by rw [actLater]; split <;> rfl
@[simp] theorem actLater_mil (k o : Nat) : (actLater s k o).mil = s.mil := by rw [actLater]; split <;> rfl
@[simp] theorem actLater_host (k o : Nat) : (actLater s k o).host = s.host := by rw [actLater]; split <;> rfl
@[simp] theorem actLater_img (k o : Nat) : (actLater s k o).img = s.img := by rw [actLater]; split <;> rfl
@[simp] theorem actLater_pwr (k o : Nat) : (actLater s k o).pwr = s.pwr := by rw [actLater]; split <;> rfl
@[simp] theorem actLater_nvc (k o : Nat) : (actLater s k o).nvc = s.nvc := by rw [actLater]; split <;> rfl
@[simp] theorem actLater_lcs (k o : Nat) : (actLater s k o).lcs = s.lcs := by rw [actLater]; split <;> rfl
@[simp] theorem actLater_wlt (k o : Nat) : (actLater s k o).wlt = s.wlt := by rw [actLater]; split <;> rfl
@[simp] theorem actLater_brg (k o : Nat) : (actLater s k o).brg = s.brg := by rw [actLater]; split <;> rfl
@[simp] theorem actLater_pcie (k o : Nat) : (actLater s k o).pcie = s.pcie := by rw [actLater]; split <;> rfl
@[simp] theorem actLater_dma (k o : Nat) : (actLater s k o).dma = s.dma := by rw [actLater]; split <;> rfl
@[simp] theorem actLater_spi (k o : Nat) : (actLater s k o).spi = s.spi := by rw [actLater]; split <;> rfl
@[simp] theorem actLater_seq (k o : Nat) : (actLater s k o).seq = s.seq := by rw [actLater]; split <;> rfl
@[simp] theorem actLater_can (k o : Nat) : (actLater s k o).can = s.can := by rw [actLater]; split <;> rfl
@[simp] theorem actLater_latch (k o : Nat) : (actLater s k o).latch = s.latch := by rw [actLater]; split <;> rfl
@[simp] theorem actLater_stage (k o : Nat) : (actLater s k o).stage = s.stage := by rw [actLater]; split <;> rfl
@[simp] theorem actLater_out (k o : Nat) : (actLater s k o).out = s.out := by rw [actLater]; split <;> rfl
@[simp] theorem actLater_past (k o : Nat) : (actLater s k o).past = s.past := by rw [actLater]; split <;> rfl
@[simp] theorem actLater_pending (k o : Nat) : (actLater s k o).pending = s.pending := by rw [actLater]; split <;> rfl

@[simp] theorem setPcie_cycle (f : Nat) (x : Pcie) : (setPcie s f x).cycle = s.cycle := by rw [setPcie]
@[simp] theorem setPcie_regs (f : Nat) (x : Pcie) : (setPcie s f x).regs = s.regs := by rw [setPcie]
@[simp] theorem setPcie_draws (f : Nat) (x : Pcie) : (setPcie s f x).draws = s.draws := by rw [setPcie]
@[simp] theorem setPcie_rgl (f : Nat) (x : Pcie) : (setPcie s f x).rgl = s.rgl := by rw [setPcie]
@[simp] theorem setPcie_drc (f : Nat) (x : Pcie) : (setPcie s f x).drc = s.drc := by rw [setPcie]
@[simp] theorem setPcie_intg (f : Nat) (x : Pcie) : (setPcie s f x).intg = s.intg := by rw [setPcie]
@[simp] theorem setPcie_spm (f : Nat) (x : Pcie) : (setPcie s f x).spm = s.spm := by rw [setPcie]
@[simp] theorem setPcie_tca (f : Nat) (x : Pcie) : (setPcie s f x).tca = s.tca := by rw [setPcie]
@[simp] theorem setPcie_hsh (f : Nat) (x : Pcie) : (setPcie s f x).hsh = s.hsh := by rw [setPcie]
@[simp] theorem setPcie_way (f : Nat) (x : Pcie) : (setPcie s f x).way = s.way := by rw [setPcie]
@[simp] theorem setPcie_lrn (f : Nat) (x : Pcie) : (setPcie s f x).lrn = s.lrn := by rw [setPcie]
@[simp] theorem setPcie_age (f : Nat) (x : Pcie) : (setPcie s f x).age = s.age := by rw [setPcie]
@[simp] theorem setPcie_tcr (f : Nat) (x : Pcie) : (setPcie s f x).tcr = s.tcr := by rw [setPcie]
@[simp] theorem setPcie_vrd (f : Nat) (x : Pcie) : (setPcie s f x).vrd = s.vrd := by rw [setPcie]
@[simp] theorem setPcie_cbl (f : Nat) (x : Pcie) : (setPcie s f x).cbl = s.cbl := by rw [setPcie]
@[simp] theorem setPcie_tol (f : Nat) (x : Pcie) : (setPcie s f x).tol = s.tol := by rw [setPcie]
@[simp] theorem setPcie_taps (f : Nat) (x : Pcie) : (setPcie s f x).taps = s.taps := by rw [setPcie]
@[simp] theorem setPcie_mil (f : Nat) (x : Pcie) : (setPcie s f x).mil = s.mil := by rw [setPcie]
@[simp] theorem setPcie_host (f : Nat) (x : Pcie) : (setPcie s f x).host = s.host := by rw [setPcie]
@[simp] theorem setPcie_img (f : Nat) (x : Pcie) : (setPcie s f x).img = s.img := by rw [setPcie]
@[simp] theorem setPcie_pwr (f : Nat) (x : Pcie) : (setPcie s f x).pwr = s.pwr := by rw [setPcie]
@[simp] theorem setPcie_nvc (f : Nat) (x : Pcie) : (setPcie s f x).nvc = s.nvc := by rw [setPcie]
@[simp] theorem setPcie_lcs (f : Nat) (x : Pcie) : (setPcie s f x).lcs = s.lcs := by rw [setPcie]
@[simp] theorem setPcie_wlt (f : Nat) (x : Pcie) : (setPcie s f x).wlt = s.wlt := by rw [setPcie]
@[simp] theorem setPcie_brg (f : Nat) (x : Pcie) : (setPcie s f x).brg = s.brg := by rw [setPcie]
@[simp] theorem setPcie_dma (f : Nat) (x : Pcie) : (setPcie s f x).dma = s.dma := by rw [setPcie]
@[simp] theorem setPcie_spi (f : Nat) (x : Pcie) : (setPcie s f x).spi = s.spi := by rw [setPcie]
@[simp] theorem setPcie_seq (f : Nat) (x : Pcie) : (setPcie s f x).seq = s.seq := by rw [setPcie]
@[simp] theorem setPcie_can (f : Nat) (x : Pcie) : (setPcie s f x).can = s.can := by rw [setPcie]
@[simp] theorem setPcie_latch (f : Nat) (x : Pcie) : (setPcie s f x).latch = s.latch := by rw [setPcie]
@[simp] theorem setPcie_stage (f : Nat) (x : Pcie) : (setPcie s f x).stage = s.stage := by rw [setPcie]
@[simp] theorem setPcie_out (f : Nat) (x : Pcie) : (setPcie s f x).out = s.out := by rw [setPcie]
@[simp] theorem setPcie_now (f : Nat) (x : Pcie) : (setPcie s f x).now = s.now := by rw [setPcie]
@[simp] theorem setPcie_past (f : Nat) (x : Pcie) : (setPcie s f x).past = s.past := by rw [setPcie]
@[simp] theorem setPcie_pending (f : Nat) (x : Pcie) : (setPcie s f x).pending = s.pending := by rw [setPcie]

@[simp] theorem setTap_cycle (p : Nat) (x : TapPort) : (setTap s p x).cycle = s.cycle := by rw [setTap]
@[simp] theorem setTap_regs (p : Nat) (x : TapPort) : (setTap s p x).regs = s.regs := by rw [setTap]
@[simp] theorem setTap_draws (p : Nat) (x : TapPort) : (setTap s p x).draws = s.draws := by rw [setTap]
@[simp] theorem setTap_rgl (p : Nat) (x : TapPort) : (setTap s p x).rgl = s.rgl := by rw [setTap]
@[simp] theorem setTap_drc (p : Nat) (x : TapPort) : (setTap s p x).drc = s.drc := by rw [setTap]
@[simp] theorem setTap_intg (p : Nat) (x : TapPort) : (setTap s p x).intg = s.intg := by rw [setTap]
@[simp] theorem setTap_spm (p : Nat) (x : TapPort) : (setTap s p x).spm = s.spm := by rw [setTap]
@[simp] theorem setTap_tca (p : Nat) (x : TapPort) : (setTap s p x).tca = s.tca := by rw [setTap]
@[simp] theorem setTap_hsh (p : Nat) (x : TapPort) : (setTap s p x).hsh = s.hsh := by rw [setTap]
@[simp] theorem setTap_way (p : Nat) (x : TapPort) : (setTap s p x).way = s.way := by rw [setTap]
@[simp] theorem setTap_lrn (p : Nat) (x : TapPort) : (setTap s p x).lrn = s.lrn := by rw [setTap]
@[simp] theorem setTap_age (p : Nat) (x : TapPort) : (setTap s p x).age = s.age := by rw [setTap]
@[simp] theorem setTap_tcr (p : Nat) (x : TapPort) : (setTap s p x).tcr = s.tcr := by rw [setTap]
@[simp] theorem setTap_vrd (p : Nat) (x : TapPort) : (setTap s p x).vrd = s.vrd := by rw [setTap]
@[simp] theorem setTap_cbl (p : Nat) (x : TapPort) : (setTap s p x).cbl = s.cbl := by rw [setTap]
@[simp] theorem setTap_tol (p : Nat) (x : TapPort) : (setTap s p x).tol = s.tol := by rw [setTap]
@[simp] theorem setTap_mil (p : Nat) (x : TapPort) : (setTap s p x).mil = s.mil := by rw [setTap]
@[simp] theorem setTap_host (p : Nat) (x : TapPort) : (setTap s p x).host = s.host := by rw [setTap]
@[simp] theorem setTap_img (p : Nat) (x : TapPort) : (setTap s p x).img = s.img := by rw [setTap]
@[simp] theorem setTap_pwr (p : Nat) (x : TapPort) : (setTap s p x).pwr = s.pwr := by rw [setTap]
@[simp] theorem setTap_nvc (p : Nat) (x : TapPort) : (setTap s p x).nvc = s.nvc := by rw [setTap]
@[simp] theorem setTap_lcs (p : Nat) (x : TapPort) : (setTap s p x).lcs = s.lcs := by rw [setTap]
@[simp] theorem setTap_wlt (p : Nat) (x : TapPort) : (setTap s p x).wlt = s.wlt := by rw [setTap]
@[simp] theorem setTap_brg (p : Nat) (x : TapPort) : (setTap s p x).brg = s.brg := by rw [setTap]
@[simp] theorem setTap_pcie (p : Nat) (x : TapPort) : (setTap s p x).pcie = s.pcie := by rw [setTap]
@[simp] theorem setTap_dma (p : Nat) (x : TapPort) : (setTap s p x).dma = s.dma := by rw [setTap]
@[simp] theorem setTap_spi (p : Nat) (x : TapPort) : (setTap s p x).spi = s.spi := by rw [setTap]
@[simp] theorem setTap_seq (p : Nat) (x : TapPort) : (setTap s p x).seq = s.seq := by rw [setTap]
@[simp] theorem setTap_can (p : Nat) (x : TapPort) : (setTap s p x).can = s.can := by rw [setTap]
@[simp] theorem setTap_latch (p : Nat) (x : TapPort) : (setTap s p x).latch = s.latch := by rw [setTap]
@[simp] theorem setTap_stage (p : Nat) (x : TapPort) : (setTap s p x).stage = s.stage := by rw [setTap]
@[simp] theorem setTap_out (p : Nat) (x : TapPort) : (setTap s p x).out = s.out := by rw [setTap]
@[simp] theorem setTap_now (p : Nat) (x : TapPort) : (setTap s p x).now = s.now := by rw [setTap]
@[simp] theorem setTap_past (p : Nat) (x : TapPort) : (setTap s p x).past = s.past := by rw [setTap]
@[simp] theorem setTap_pending (p : Nat) (x : TapPort) : (setTap s p x).pending = s.pending := by rw [setTap]

@[simp] theorem setDly_cycle (p : Nat) (x : Dly) : (setDly s p x).cycle = s.cycle := by rw [setDly]
@[simp] theorem setDly_regs (p : Nat) (x : Dly) : (setDly s p x).regs = s.regs := by rw [setDly]
@[simp] theorem setDly_draws (p : Nat) (x : Dly) : (setDly s p x).draws = s.draws := by rw [setDly]
@[simp] theorem setDly_rgl (p : Nat) (x : Dly) : (setDly s p x).rgl = s.rgl := by rw [setDly]
@[simp] theorem setDly_drc (p : Nat) (x : Dly) : (setDly s p x).drc = s.drc := by rw [setDly]
@[simp] theorem setDly_intg (p : Nat) (x : Dly) : (setDly s p x).intg = s.intg := by rw [setDly]
@[simp] theorem setDly_spm (p : Nat) (x : Dly) : (setDly s p x).spm = s.spm := by rw [setDly]
@[simp] theorem setDly_tca (p : Nat) (x : Dly) : (setDly s p x).tca = s.tca := by rw [setDly]
@[simp] theorem setDly_hsh (p : Nat) (x : Dly) : (setDly s p x).hsh = s.hsh := by rw [setDly]
@[simp] theorem setDly_way (p : Nat) (x : Dly) : (setDly s p x).way = s.way := by rw [setDly]
@[simp] theorem setDly_lrn (p : Nat) (x : Dly) : (setDly s p x).lrn = s.lrn := by rw [setDly]
@[simp] theorem setDly_age (p : Nat) (x : Dly) : (setDly s p x).age = s.age := by rw [setDly]
@[simp] theorem setDly_tcr (p : Nat) (x : Dly) : (setDly s p x).tcr = s.tcr := by rw [setDly]
@[simp] theorem setDly_vrd (p : Nat) (x : Dly) : (setDly s p x).vrd = s.vrd := by rw [setDly]
@[simp] theorem setDly_cbl (p : Nat) (x : Dly) : (setDly s p x).cbl = s.cbl := by rw [setDly]
@[simp] theorem setDly_tol (p : Nat) (x : Dly) : (setDly s p x).tol = s.tol := by rw [setDly]
@[simp] theorem setDly_taps (p : Nat) (x : Dly) : (setDly s p x).taps = s.taps := by rw [setDly]
@[simp] theorem setDly_host (p : Nat) (x : Dly) : (setDly s p x).host = s.host := by rw [setDly]
@[simp] theorem setDly_img (p : Nat) (x : Dly) : (setDly s p x).img = s.img := by rw [setDly]
@[simp] theorem setDly_pwr (p : Nat) (x : Dly) : (setDly s p x).pwr = s.pwr := by rw [setDly]
@[simp] theorem setDly_nvc (p : Nat) (x : Dly) : (setDly s p x).nvc = s.nvc := by rw [setDly]
@[simp] theorem setDly_lcs (p : Nat) (x : Dly) : (setDly s p x).lcs = s.lcs := by rw [setDly]
@[simp] theorem setDly_wlt (p : Nat) (x : Dly) : (setDly s p x).wlt = s.wlt := by rw [setDly]
@[simp] theorem setDly_brg (p : Nat) (x : Dly) : (setDly s p x).brg = s.brg := by rw [setDly]
@[simp] theorem setDly_pcie (p : Nat) (x : Dly) : (setDly s p x).pcie = s.pcie := by rw [setDly]
@[simp] theorem setDly_dma (p : Nat) (x : Dly) : (setDly s p x).dma = s.dma := by rw [setDly]
@[simp] theorem setDly_spi (p : Nat) (x : Dly) : (setDly s p x).spi = s.spi := by rw [setDly]
@[simp] theorem setDly_seq (p : Nat) (x : Dly) : (setDly s p x).seq = s.seq := by rw [setDly]
@[simp] theorem setDly_can (p : Nat) (x : Dly) : (setDly s p x).can = s.can := by rw [setDly]
@[simp] theorem setDly_latch (p : Nat) (x : Dly) : (setDly s p x).latch = s.latch := by rw [setDly]
@[simp] theorem setDly_stage (p : Nat) (x : Dly) : (setDly s p x).stage = s.stage := by rw [setDly]
@[simp] theorem setDly_out (p : Nat) (x : Dly) : (setDly s p x).out = s.out := by rw [setDly]
@[simp] theorem setDly_now (p : Nat) (x : Dly) : (setDly s p x).now = s.now := by rw [setDly]
@[simp] theorem setDly_past (p : Nat) (x : Dly) : (setDly s p x).past = s.past := by rw [setDly]
@[simp] theorem setDly_pending (p : Nat) (x : Dly) : (setDly s p x).pending = s.pending := by rw [setDly]

@[simp] theorem setWatch_cycle (c : Nat) (x : SrcWatch) : (setWatch s c x).cycle = s.cycle := by rw [setWatch]
@[simp] theorem setWatch_regs (c : Nat) (x : SrcWatch) : (setWatch s c x).regs = s.regs := by rw [setWatch]
@[simp] theorem setWatch_draws (c : Nat) (x : SrcWatch) : (setWatch s c x).draws = s.draws := by rw [setWatch]
@[simp] theorem setWatch_rgl (c : Nat) (x : SrcWatch) : (setWatch s c x).rgl = s.rgl := by rw [setWatch]
@[simp] theorem setWatch_drc (c : Nat) (x : SrcWatch) : (setWatch s c x).drc = s.drc := by rw [setWatch]
@[simp] theorem setWatch_intg (c : Nat) (x : SrcWatch) : (setWatch s c x).intg = s.intg := by rw [setWatch]
@[simp] theorem setWatch_spm (c : Nat) (x : SrcWatch) : (setWatch s c x).spm = s.spm := by rw [setWatch]
@[simp] theorem setWatch_tca (c : Nat) (x : SrcWatch) : (setWatch s c x).tca = s.tca := by rw [setWatch]
@[simp] theorem setWatch_hsh (c : Nat) (x : SrcWatch) : (setWatch s c x).hsh = s.hsh := by rw [setWatch]
@[simp] theorem setWatch_way (c : Nat) (x : SrcWatch) : (setWatch s c x).way = s.way := by rw [setWatch]
@[simp] theorem setWatch_lrn (c : Nat) (x : SrcWatch) : (setWatch s c x).lrn = s.lrn := by rw [setWatch]
@[simp] theorem setWatch_age (c : Nat) (x : SrcWatch) : (setWatch s c x).age = s.age := by rw [setWatch]
@[simp] theorem setWatch_tcr (c : Nat) (x : SrcWatch) : (setWatch s c x).tcr = s.tcr := by rw [setWatch]
@[simp] theorem setWatch_vrd (c : Nat) (x : SrcWatch) : (setWatch s c x).vrd = s.vrd := by rw [setWatch]
@[simp] theorem setWatch_cbl (c : Nat) (x : SrcWatch) : (setWatch s c x).cbl = s.cbl := by rw [setWatch]
@[simp] theorem setWatch_tol (c : Nat) (x : SrcWatch) : (setWatch s c x).tol = s.tol := by rw [setWatch]
@[simp] theorem setWatch_taps (c : Nat) (x : SrcWatch) : (setWatch s c x).taps = s.taps := by rw [setWatch]
@[simp] theorem setWatch_host (c : Nat) (x : SrcWatch) : (setWatch s c x).host = s.host := by rw [setWatch]
@[simp] theorem setWatch_img (c : Nat) (x : SrcWatch) : (setWatch s c x).img = s.img := by rw [setWatch]
@[simp] theorem setWatch_pwr (c : Nat) (x : SrcWatch) : (setWatch s c x).pwr = s.pwr := by rw [setWatch]
@[simp] theorem setWatch_nvc (c : Nat) (x : SrcWatch) : (setWatch s c x).nvc = s.nvc := by rw [setWatch]
@[simp] theorem setWatch_lcs (c : Nat) (x : SrcWatch) : (setWatch s c x).lcs = s.lcs := by rw [setWatch]
@[simp] theorem setWatch_wlt (c : Nat) (x : SrcWatch) : (setWatch s c x).wlt = s.wlt := by rw [setWatch]
@[simp] theorem setWatch_brg (c : Nat) (x : SrcWatch) : (setWatch s c x).brg = s.brg := by rw [setWatch]
@[simp] theorem setWatch_pcie (c : Nat) (x : SrcWatch) : (setWatch s c x).pcie = s.pcie := by rw [setWatch]
@[simp] theorem setWatch_dma (c : Nat) (x : SrcWatch) : (setWatch s c x).dma = s.dma := by rw [setWatch]
@[simp] theorem setWatch_spi (c : Nat) (x : SrcWatch) : (setWatch s c x).spi = s.spi := by rw [setWatch]
@[simp] theorem setWatch_seq (c : Nat) (x : SrcWatch) : (setWatch s c x).seq = s.seq := by rw [setWatch]
@[simp] theorem setWatch_can (c : Nat) (x : SrcWatch) : (setWatch s c x).can = s.can := by rw [setWatch]
@[simp] theorem setWatch_latch (c : Nat) (x : SrcWatch) : (setWatch s c x).latch = s.latch := by rw [setWatch]
@[simp] theorem setWatch_stage (c : Nat) (x : SrcWatch) : (setWatch s c x).stage = s.stage := by rw [setWatch]
@[simp] theorem setWatch_out (c : Nat) (x : SrcWatch) : (setWatch s c x).out = s.out := by rw [setWatch]
@[simp] theorem setWatch_now (c : Nat) (x : SrcWatch) : (setWatch s c x).now = s.now := by rw [setWatch]
@[simp] theorem setWatch_past (c : Nat) (x : SrcWatch) : (setWatch s c x).past = s.past := by rw [setWatch]
@[simp] theorem setWatch_pending (c : Nat) (x : SrcWatch) : (setWatch s c x).pending = s.pending := by rw [setWatch]

@[simp] theorem setPulse_cycle (n : Nat) (x : Pulse) : (setPulse s n x).cycle = s.cycle := by rw [setPulse]
@[simp] theorem setPulse_regs (n : Nat) (x : Pulse) : (setPulse s n x).regs = s.regs := by rw [setPulse]
@[simp] theorem setPulse_draws (n : Nat) (x : Pulse) : (setPulse s n x).draws = s.draws := by rw [setPulse]
@[simp] theorem setPulse_rgl (n : Nat) (x : Pulse) : (setPulse s n x).rgl = s.rgl := by rw [setPulse]
@[simp] theorem setPulse_drc (n : Nat) (x : Pulse) : (setPulse s n x).drc = s.drc := by rw [setPulse]
@[simp] theorem setPulse_intg (n : Nat) (x : Pulse) : (setPulse s n x).intg = s.intg := by rw [setPulse]
@[simp] theorem setPulse_spm (n : Nat) (x : Pulse) : (setPulse s n x).spm = s.spm := by rw [setPulse]
@[simp] theorem setPulse_tca (n : Nat) (x : Pulse) : (setPulse s n x).tca = s.tca := by rw [setPulse]
@[simp] theorem setPulse_hsh (n : Nat) (x : Pulse) : (setPulse s n x).hsh = s.hsh := by rw [setPulse]
@[simp] theorem setPulse_way (n : Nat) (x : Pulse) : (setPulse s n x).way = s.way := by rw [setPulse]
@[simp] theorem setPulse_lrn (n : Nat) (x : Pulse) : (setPulse s n x).lrn = s.lrn := by rw [setPulse]
@[simp] theorem setPulse_age (n : Nat) (x : Pulse) : (setPulse s n x).age = s.age := by rw [setPulse]
@[simp] theorem setPulse_tcr (n : Nat) (x : Pulse) : (setPulse s n x).tcr = s.tcr := by rw [setPulse]
@[simp] theorem setPulse_vrd (n : Nat) (x : Pulse) : (setPulse s n x).vrd = s.vrd := by rw [setPulse]
@[simp] theorem setPulse_cbl (n : Nat) (x : Pulse) : (setPulse s n x).cbl = s.cbl := by rw [setPulse]
@[simp] theorem setPulse_tol (n : Nat) (x : Pulse) : (setPulse s n x).tol = s.tol := by rw [setPulse]
@[simp] theorem setPulse_taps (n : Nat) (x : Pulse) : (setPulse s n x).taps = s.taps := by rw [setPulse]
@[simp] theorem setPulse_host (n : Nat) (x : Pulse) : (setPulse s n x).host = s.host := by rw [setPulse]
@[simp] theorem setPulse_img (n : Nat) (x : Pulse) : (setPulse s n x).img = s.img := by rw [setPulse]
@[simp] theorem setPulse_pwr (n : Nat) (x : Pulse) : (setPulse s n x).pwr = s.pwr := by rw [setPulse]
@[simp] theorem setPulse_nvc (n : Nat) (x : Pulse) : (setPulse s n x).nvc = s.nvc := by rw [setPulse]
@[simp] theorem setPulse_lcs (n : Nat) (x : Pulse) : (setPulse s n x).lcs = s.lcs := by rw [setPulse]
@[simp] theorem setPulse_wlt (n : Nat) (x : Pulse) : (setPulse s n x).wlt = s.wlt := by rw [setPulse]
@[simp] theorem setPulse_brg (n : Nat) (x : Pulse) : (setPulse s n x).brg = s.brg := by rw [setPulse]
@[simp] theorem setPulse_pcie (n : Nat) (x : Pulse) : (setPulse s n x).pcie = s.pcie := by rw [setPulse]
@[simp] theorem setPulse_dma (n : Nat) (x : Pulse) : (setPulse s n x).dma = s.dma := by rw [setPulse]
@[simp] theorem setPulse_spi (n : Nat) (x : Pulse) : (setPulse s n x).spi = s.spi := by rw [setPulse]
@[simp] theorem setPulse_seq (n : Nat) (x : Pulse) : (setPulse s n x).seq = s.seq := by rw [setPulse]
@[simp] theorem setPulse_can (n : Nat) (x : Pulse) : (setPulse s n x).can = s.can := by rw [setPulse]
@[simp] theorem setPulse_latch (n : Nat) (x : Pulse) : (setPulse s n x).latch = s.latch := by rw [setPulse]
@[simp] theorem setPulse_stage (n : Nat) (x : Pulse) : (setPulse s n x).stage = s.stage := by rw [setPulse]
@[simp] theorem setPulse_out (n : Nat) (x : Pulse) : (setPulse s n x).out = s.out := by rw [setPulse]
@[simp] theorem setPulse_now (n : Nat) (x : Pulse) : (setPulse s n x).now = s.now := by rw [setPulse]
@[simp] theorem setPulse_past (n : Nat) (x : Pulse) : (setPulse s n x).past = s.past := by rw [setPulse]
@[simp] theorem setPulse_pending (n : Nat) (x : Pulse) : (setPulse s n x).pending = s.pending := by rw [setPulse]

@[simp] theorem setPair_cycle (p : Nat) (f : PairSt → PairSt) : (setPair s p f).cycle = s.cycle := by rw [setPair]
@[simp] theorem setPair_regs (p : Nat) (f : PairSt → PairSt) : (setPair s p f).regs = s.regs := by rw [setPair]
@[simp] theorem setPair_draws (p : Nat) (f : PairSt → PairSt) : (setPair s p f).draws = s.draws := by rw [setPair]
@[simp] theorem setPair_rgl (p : Nat) (f : PairSt → PairSt) : (setPair s p f).rgl = s.rgl := by rw [setPair]
@[simp] theorem setPair_intg (p : Nat) (f : PairSt → PairSt) : (setPair s p f).intg = s.intg := by rw [setPair]
@[simp] theorem setPair_spm (p : Nat) (f : PairSt → PairSt) : (setPair s p f).spm = s.spm := by rw [setPair]
@[simp] theorem setPair_tca (p : Nat) (f : PairSt → PairSt) : (setPair s p f).tca = s.tca := by rw [setPair]
@[simp] theorem setPair_hsh (p : Nat) (f : PairSt → PairSt) : (setPair s p f).hsh = s.hsh := by rw [setPair]
@[simp] theorem setPair_way (p : Nat) (f : PairSt → PairSt) : (setPair s p f).way = s.way := by rw [setPair]
@[simp] theorem setPair_lrn (p : Nat) (f : PairSt → PairSt) : (setPair s p f).lrn = s.lrn := by rw [setPair]
@[simp] theorem setPair_age (p : Nat) (f : PairSt → PairSt) : (setPair s p f).age = s.age := by rw [setPair]
@[simp] theorem setPair_tcr (p : Nat) (f : PairSt → PairSt) : (setPair s p f).tcr = s.tcr := by rw [setPair]
@[simp] theorem setPair_vrd (p : Nat) (f : PairSt → PairSt) : (setPair s p f).vrd = s.vrd := by rw [setPair]
@[simp] theorem setPair_cbl (p : Nat) (f : PairSt → PairSt) : (setPair s p f).cbl = s.cbl := by rw [setPair]
@[simp] theorem setPair_tol (p : Nat) (f : PairSt → PairSt) : (setPair s p f).tol = s.tol := by rw [setPair]
@[simp] theorem setPair_taps (p : Nat) (f : PairSt → PairSt) : (setPair s p f).taps = s.taps := by rw [setPair]
@[simp] theorem setPair_mil (p : Nat) (f : PairSt → PairSt) : (setPair s p f).mil = s.mil := by rw [setPair]
@[simp] theorem setPair_host (p : Nat) (f : PairSt → PairSt) : (setPair s p f).host = s.host := by rw [setPair]
@[simp] theorem setPair_img (p : Nat) (f : PairSt → PairSt) : (setPair s p f).img = s.img := by rw [setPair]
@[simp] theorem setPair_pwr (p : Nat) (f : PairSt → PairSt) : (setPair s p f).pwr = s.pwr := by rw [setPair]
@[simp] theorem setPair_nvc (p : Nat) (f : PairSt → PairSt) : (setPair s p f).nvc = s.nvc := by rw [setPair]
@[simp] theorem setPair_lcs (p : Nat) (f : PairSt → PairSt) : (setPair s p f).lcs = s.lcs := by rw [setPair]
@[simp] theorem setPair_wlt (p : Nat) (f : PairSt → PairSt) : (setPair s p f).wlt = s.wlt := by rw [setPair]
@[simp] theorem setPair_brg (p : Nat) (f : PairSt → PairSt) : (setPair s p f).brg = s.brg := by rw [setPair]
@[simp] theorem setPair_pcie (p : Nat) (f : PairSt → PairSt) : (setPair s p f).pcie = s.pcie := by rw [setPair]
@[simp] theorem setPair_dma (p : Nat) (f : PairSt → PairSt) : (setPair s p f).dma = s.dma := by rw [setPair]
@[simp] theorem setPair_spi (p : Nat) (f : PairSt → PairSt) : (setPair s p f).spi = s.spi := by rw [setPair]
@[simp] theorem setPair_seq (p : Nat) (f : PairSt → PairSt) : (setPair s p f).seq = s.seq := by rw [setPair]
@[simp] theorem setPair_can (p : Nat) (f : PairSt → PairSt) : (setPair s p f).can = s.can := by rw [setPair]
@[simp] theorem setPair_latch (p : Nat) (f : PairSt → PairSt) : (setPair s p f).latch = s.latch := by rw [setPair]
@[simp] theorem setPair_stage (p : Nat) (f : PairSt → PairSt) : (setPair s p f).stage = s.stage := by rw [setPair]
@[simp] theorem setPair_out (p : Nat) (f : PairSt → PairSt) : (setPair s p f).out = s.out := by rw [setPair]
@[simp] theorem setPair_now (p : Nat) (f : PairSt → PairSt) : (setPair s p f).now = s.now := by rw [setPair]
@[simp] theorem setPair_past (p : Nat) (f : PairSt → PairSt) : (setPair s p f).past = s.past := by rw [setPair]
@[simp] theorem setPair_pending (p : Nat) (f : PairSt → PairSt) : (setPair s p f).pending = s.pending := by rw [setPair]

@[simp] theorem dropReq_cycle (id : Nat) : (dropReq s id).cycle = s.cycle := by rw [dropReq]
@[simp] theorem dropReq_regs (id : Nat) : (dropReq s id).regs = s.regs := by rw [dropReq]
@[simp] theorem dropReq_draws (id : Nat) : (dropReq s id).draws = s.draws := by rw [dropReq]
@[simp] theorem dropReq_drc (id : Nat) : (dropReq s id).drc = s.drc := by rw [dropReq]
@[simp] theorem dropReq_intg (id : Nat) : (dropReq s id).intg = s.intg := by rw [dropReq]
@[simp] theorem dropReq_spm (id : Nat) : (dropReq s id).spm = s.spm := by rw [dropReq]
@[simp] theorem dropReq_tca (id : Nat) : (dropReq s id).tca = s.tca := by rw [dropReq]
@[simp] theorem dropReq_hsh (id : Nat) : (dropReq s id).hsh = s.hsh := by rw [dropReq]
@[simp] theorem dropReq_way (id : Nat) : (dropReq s id).way = s.way := by rw [dropReq]
@[simp] theorem dropReq_lrn (id : Nat) : (dropReq s id).lrn = s.lrn := by rw [dropReq]
@[simp] theorem dropReq_age (id : Nat) : (dropReq s id).age = s.age := by rw [dropReq]
@[simp] theorem dropReq_tcr (id : Nat) : (dropReq s id).tcr = s.tcr := by rw [dropReq]
@[simp] theorem dropReq_vrd (id : Nat) : (dropReq s id).vrd = s.vrd := by rw [dropReq]
@[simp] theorem dropReq_cbl (id : Nat) : (dropReq s id).cbl = s.cbl := by rw [dropReq]
@[simp] theorem dropReq_tol (id : Nat) : (dropReq s id).tol = s.tol := by rw [dropReq]
@[simp] theorem dropReq_taps (id : Nat) : (dropReq s id).taps = s.taps := by rw [dropReq]
@[simp] theorem dropReq_mil (id : Nat) : (dropReq s id).mil = s.mil := by rw [dropReq]
@[simp] theorem dropReq_host (id : Nat) : (dropReq s id).host = s.host := by rw [dropReq]
@[simp] theorem dropReq_img (id : Nat) : (dropReq s id).img = s.img := by rw [dropReq]
@[simp] theorem dropReq_pwr (id : Nat) : (dropReq s id).pwr = s.pwr := by rw [dropReq]
@[simp] theorem dropReq_nvc (id : Nat) : (dropReq s id).nvc = s.nvc := by rw [dropReq]
@[simp] theorem dropReq_lcs (id : Nat) : (dropReq s id).lcs = s.lcs := by rw [dropReq]
@[simp] theorem dropReq_wlt (id : Nat) : (dropReq s id).wlt = s.wlt := by rw [dropReq]
@[simp] theorem dropReq_brg (id : Nat) : (dropReq s id).brg = s.brg := by rw [dropReq]
@[simp] theorem dropReq_pcie (id : Nat) : (dropReq s id).pcie = s.pcie := by rw [dropReq]
@[simp] theorem dropReq_dma (id : Nat) : (dropReq s id).dma = s.dma := by rw [dropReq]
@[simp] theorem dropReq_spi (id : Nat) : (dropReq s id).spi = s.spi := by rw [dropReq]
@[simp] theorem dropReq_seq (id : Nat) : (dropReq s id).seq = s.seq := by rw [dropReq]
@[simp] theorem dropReq_can (id : Nat) : (dropReq s id).can = s.can := by rw [dropReq]
@[simp] theorem dropReq_latch (id : Nat) : (dropReq s id).latch = s.latch := by rw [dropReq]
@[simp] theorem dropReq_stage (id : Nat) : (dropReq s id).stage = s.stage := by rw [dropReq]
@[simp] theorem dropReq_out (id : Nat) : (dropReq s id).out = s.out := by rw [dropReq]
@[simp] theorem dropReq_past (id : Nat) : (dropReq s id).past = s.past := by rw [dropReq]
@[simp] theorem dropReq_pending (id : Nat) : (dropReq s id).pending = s.pending := by rw [dropReq]

@[simp] theorem setFlip_cycle (mem a : Nat) (f : Option Flip) : (setFlip s mem a f).cycle = s.cycle := by rw [setFlip]
@[simp] theorem setFlip_regs (mem a : Nat) (f : Option Flip) : (setFlip s mem a f).regs = s.regs := by rw [setFlip]
@[simp] theorem setFlip_draws (mem a : Nat) (f : Option Flip) : (setFlip s mem a f).draws = s.draws := by rw [setFlip]
@[simp] theorem setFlip_rgl (mem a : Nat) (f : Option Flip) : (setFlip s mem a f).rgl = s.rgl := by rw [setFlip]
@[simp] theorem setFlip_drc (mem a : Nat) (f : Option Flip) : (setFlip s mem a f).drc = s.drc := by rw [setFlip]
@[simp] theorem setFlip_spm (mem a : Nat) (f : Option Flip) : (setFlip s mem a f).spm = s.spm := by rw [setFlip]
@[simp] theorem setFlip_tca (mem a : Nat) (f : Option Flip) : (setFlip s mem a f).tca = s.tca := by rw [setFlip]
@[simp] theorem setFlip_hsh (mem a : Nat) (f : Option Flip) : (setFlip s mem a f).hsh = s.hsh := by rw [setFlip]
@[simp] theorem setFlip_way (mem a : Nat) (f : Option Flip) : (setFlip s mem a f).way = s.way := by rw [setFlip]
@[simp] theorem setFlip_lrn (mem a : Nat) (f : Option Flip) : (setFlip s mem a f).lrn = s.lrn := by rw [setFlip]
@[simp] theorem setFlip_age (mem a : Nat) (f : Option Flip) : (setFlip s mem a f).age = s.age := by rw [setFlip]
@[simp] theorem setFlip_tcr (mem a : Nat) (f : Option Flip) : (setFlip s mem a f).tcr = s.tcr := by rw [setFlip]
@[simp] theorem setFlip_vrd (mem a : Nat) (f : Option Flip) : (setFlip s mem a f).vrd = s.vrd := by rw [setFlip]
@[simp] theorem setFlip_cbl (mem a : Nat) (f : Option Flip) : (setFlip s mem a f).cbl = s.cbl := by rw [setFlip]
@[simp] theorem setFlip_tol (mem a : Nat) (f : Option Flip) : (setFlip s mem a f).tol = s.tol := by rw [setFlip]
@[simp] theorem setFlip_taps (mem a : Nat) (f : Option Flip) : (setFlip s mem a f).taps = s.taps := by rw [setFlip]
@[simp] theorem setFlip_mil (mem a : Nat) (f : Option Flip) : (setFlip s mem a f).mil = s.mil := by rw [setFlip]
@[simp] theorem setFlip_host (mem a : Nat) (f : Option Flip) : (setFlip s mem a f).host = s.host := by rw [setFlip]
@[simp] theorem setFlip_img (mem a : Nat) (f : Option Flip) : (setFlip s mem a f).img = s.img := by rw [setFlip]
@[simp] theorem setFlip_pwr (mem a : Nat) (f : Option Flip) : (setFlip s mem a f).pwr = s.pwr := by rw [setFlip]
@[simp] theorem setFlip_nvc (mem a : Nat) (f : Option Flip) : (setFlip s mem a f).nvc = s.nvc := by rw [setFlip]
@[simp] theorem setFlip_lcs (mem a : Nat) (f : Option Flip) : (setFlip s mem a f).lcs = s.lcs := by rw [setFlip]
@[simp] theorem setFlip_wlt (mem a : Nat) (f : Option Flip) : (setFlip s mem a f).wlt = s.wlt := by rw [setFlip]
@[simp] theorem setFlip_brg (mem a : Nat) (f : Option Flip) : (setFlip s mem a f).brg = s.brg := by rw [setFlip]
@[simp] theorem setFlip_pcie (mem a : Nat) (f : Option Flip) : (setFlip s mem a f).pcie = s.pcie := by rw [setFlip]
@[simp] theorem setFlip_dma (mem a : Nat) (f : Option Flip) : (setFlip s mem a f).dma = s.dma := by rw [setFlip]
@[simp] theorem setFlip_spi (mem a : Nat) (f : Option Flip) : (setFlip s mem a f).spi = s.spi := by rw [setFlip]
@[simp] theorem setFlip_seq (mem a : Nat) (f : Option Flip) : (setFlip s mem a f).seq = s.seq := by rw [setFlip]
@[simp] theorem setFlip_can (mem a : Nat) (f : Option Flip) : (setFlip s mem a f).can = s.can := by rw [setFlip]
@[simp] theorem setFlip_latch (mem a : Nat) (f : Option Flip) : (setFlip s mem a f).latch = s.latch := by rw [setFlip]
@[simp] theorem setFlip_stage (mem a : Nat) (f : Option Flip) : (setFlip s mem a f).stage = s.stage := by rw [setFlip]
@[simp] theorem setFlip_out (mem a : Nat) (f : Option Flip) : (setFlip s mem a f).out = s.out := by rw [setFlip]
@[simp] theorem setFlip_now (mem a : Nat) (f : Option Flip) : (setFlip s mem a f).now = s.now := by rw [setFlip]
@[simp] theorem setFlip_past (mem a : Nat) (f : Option Flip) : (setFlip s mem a f).past = s.past := by rw [setFlip]
@[simp] theorem setFlip_pending (mem a : Nat) (f : Option Flip) : (setFlip s mem a f).pending = s.pending := by rw [setFlip]

@[simp] theorem flipApply_cycle (mem a k : Nat) : (flipApply s mem a k).cycle = s.cycle := by rw [flipApply, setEvt_cycle]; split <;> split <;> simp
@[simp] theorem flipApply_draws (mem a k : Nat) : (flipApply s mem a k).draws = s.draws := by rw [flipApply, setEvt_draws]; split <;> split <;> simp
@[simp] theorem flipApply_rgl (mem a k : Nat) : (flipApply s mem a k).rgl = s.rgl := by rw [flipApply, setEvt_rgl]; split <;> split <;> simp
@[simp] theorem flipApply_drc (mem a k : Nat) : (flipApply s mem a k).drc = s.drc := by rw [flipApply, setEvt_drc]; split <;> split <;> simp
@[simp] theorem flipApply_spm (mem a k : Nat) : (flipApply s mem a k).spm = s.spm := by rw [flipApply, setEvt_spm]; split <;> split <;> simp
@[simp] theorem flipApply_tca (mem a k : Nat) : (flipApply s mem a k).tca = s.tca := by rw [flipApply, setEvt_tca]; split <;> split <;> simp
@[simp] theorem flipApply_hsh (mem a k : Nat) : (flipApply s mem a k).hsh = s.hsh := by rw [flipApply, setEvt_hsh]; split <;> split <;> simp
@[simp] theorem flipApply_way (mem a k : Nat) : (flipApply s mem a k).way = s.way := by rw [flipApply, setEvt_way]; split <;> split <;> simp
@[simp] theorem flipApply_lrn (mem a k : Nat) : (flipApply s mem a k).lrn = s.lrn := by rw [flipApply, setEvt_lrn]; split <;> split <;> simp
@[simp] theorem flipApply_age (mem a k : Nat) : (flipApply s mem a k).age = s.age := by rw [flipApply, setEvt_age]; split <;> split <;> simp
@[simp] theorem flipApply_tcr (mem a k : Nat) : (flipApply s mem a k).tcr = s.tcr := by rw [flipApply, setEvt_tcr]; split <;> split <;> simp
@[simp] theorem flipApply_vrd (mem a k : Nat) : (flipApply s mem a k).vrd = s.vrd := by rw [flipApply, setEvt_vrd]; split <;> split <;> simp
@[simp] theorem flipApply_cbl (mem a k : Nat) : (flipApply s mem a k).cbl = s.cbl := by rw [flipApply, setEvt_cbl]; split <;> split <;> simp
@[simp] theorem flipApply_tol (mem a k : Nat) : (flipApply s mem a k).tol = s.tol := by rw [flipApply, setEvt_tol]; split <;> split <;> simp
@[simp] theorem flipApply_taps (mem a k : Nat) : (flipApply s mem a k).taps = s.taps := by rw [flipApply, setEvt_taps]; split <;> split <;> simp
@[simp] theorem flipApply_mil (mem a k : Nat) : (flipApply s mem a k).mil = s.mil := by rw [flipApply, setEvt_mil]; split <;> split <;> simp
@[simp] theorem flipApply_host (mem a k : Nat) : (flipApply s mem a k).host = s.host := by rw [flipApply, setEvt_host]; split <;> split <;> simp
@[simp] theorem flipApply_img (mem a k : Nat) : (flipApply s mem a k).img = s.img := by rw [flipApply, setEvt_img]; split <;> split <;> simp
@[simp] theorem flipApply_pwr (mem a k : Nat) : (flipApply s mem a k).pwr = s.pwr := by rw [flipApply, setEvt_pwr]; split <;> split <;> simp
@[simp] theorem flipApply_nvc (mem a k : Nat) : (flipApply s mem a k).nvc = s.nvc := by rw [flipApply, setEvt_nvc]; split <;> split <;> simp
@[simp] theorem flipApply_lcs (mem a k : Nat) : (flipApply s mem a k).lcs = s.lcs := by rw [flipApply, setEvt_lcs]; split <;> split <;> simp
@[simp] theorem flipApply_wlt (mem a k : Nat) : (flipApply s mem a k).wlt = s.wlt := by rw [flipApply, setEvt_wlt]; split <;> split <;> simp
@[simp] theorem flipApply_brg (mem a k : Nat) : (flipApply s mem a k).brg = s.brg := by rw [flipApply, setEvt_brg]; split <;> split <;> simp
@[simp] theorem flipApply_pcie (mem a k : Nat) : (flipApply s mem a k).pcie = s.pcie := by rw [flipApply, setEvt_pcie]; split <;> split <;> simp
@[simp] theorem flipApply_dma (mem a k : Nat) : (flipApply s mem a k).dma = s.dma := by rw [flipApply, setEvt_dma]; split <;> split <;> simp
@[simp] theorem flipApply_spi (mem a k : Nat) : (flipApply s mem a k).spi = s.spi := by rw [flipApply, setEvt_spi]; split <;> split <;> simp
@[simp] theorem flipApply_seq (mem a k : Nat) : (flipApply s mem a k).seq = s.seq := by rw [flipApply, setEvt_seq]; split <;> split <;> simp
@[simp] theorem flipApply_can (mem a k : Nat) : (flipApply s mem a k).can = s.can := by rw [flipApply, setEvt_can]; split <;> split <;> simp
@[simp] theorem flipApply_latch (mem a k : Nat) : (flipApply s mem a k).latch = s.latch := by rw [flipApply, setEvt_latch]; split <;> split <;> simp
@[simp] theorem flipApply_stage (mem a k : Nat) : (flipApply s mem a k).stage = s.stage := by rw [flipApply, setEvt_stage]; split <;> split <;> simp
@[simp] theorem flipApply_out (mem a k : Nat) : (flipApply s mem a k).out = s.out := by rw [flipApply, setEvt_out]; split <;> split <;> simp
@[simp] theorem flipApply_past (mem a k : Nat) : (flipApply s mem a k).past = s.past := by rw [flipApply, setEvt_past]; split <;> split <;> simp
@[simp] theorem flipApply_pending (mem a k : Nat) : (flipApply s mem a k).pending = s.pending := by rw [flipApply, setEvt_pending]; split <;> split <;> simp

@[simp] theorem wordMerged_cycle (mem a : Nat) : (wordMerged s mem a).cycle = s.cycle := by rw [wordMerged]; split <;> split <;> (try split) <;> simp
@[simp] theorem wordMerged_draws (mem a : Nat) : (wordMerged s mem a).draws = s.draws := by rw [wordMerged]; split <;> split <;> (try split) <;> simp
@[simp] theorem wordMerged_rgl (mem a : Nat) : (wordMerged s mem a).rgl = s.rgl := by rw [wordMerged]; split <;> split <;> (try split) <;> simp
@[simp] theorem wordMerged_drc (mem a : Nat) : (wordMerged s mem a).drc = s.drc := by rw [wordMerged]; split <;> split <;> (try split) <;> simp
@[simp] theorem wordMerged_spm (mem a : Nat) : (wordMerged s mem a).spm = s.spm := by rw [wordMerged]; split <;> split <;> (try split) <;> simp
@[simp] theorem wordMerged_tca (mem a : Nat) : (wordMerged s mem a).tca = s.tca := by rw [wordMerged]; split <;> split <;> (try split) <;> simp
@[simp] theorem wordMerged_hsh (mem a : Nat) : (wordMerged s mem a).hsh = s.hsh := by rw [wordMerged]; split <;> split <;> (try split) <;> simp
@[simp] theorem wordMerged_way (mem a : Nat) : (wordMerged s mem a).way = s.way := by rw [wordMerged]; split <;> split <;> (try split) <;> simp
@[simp] theorem wordMerged_lrn (mem a : Nat) : (wordMerged s mem a).lrn = s.lrn := by rw [wordMerged]; split <;> split <;> (try split) <;> simp
@[simp] theorem wordMerged_age (mem a : Nat) : (wordMerged s mem a).age = s.age := by rw [wordMerged]; split <;> split <;> (try split) <;> simp
@[simp] theorem wordMerged_tcr (mem a : Nat) : (wordMerged s mem a).tcr = s.tcr := by rw [wordMerged]; split <;> split <;> (try split) <;> simp
@[simp] theorem wordMerged_vrd (mem a : Nat) : (wordMerged s mem a).vrd = s.vrd := by rw [wordMerged]; split <;> split <;> (try split) <;> simp
@[simp] theorem wordMerged_cbl (mem a : Nat) : (wordMerged s mem a).cbl = s.cbl := by rw [wordMerged]; split <;> split <;> (try split) <;> simp
@[simp] theorem wordMerged_tol (mem a : Nat) : (wordMerged s mem a).tol = s.tol := by rw [wordMerged]; split <;> split <;> (try split) <;> simp
@[simp] theorem wordMerged_taps (mem a : Nat) : (wordMerged s mem a).taps = s.taps := by rw [wordMerged]; split <;> split <;> (try split) <;> simp
@[simp] theorem wordMerged_mil (mem a : Nat) : (wordMerged s mem a).mil = s.mil := by rw [wordMerged]; split <;> split <;> (try split) <;> simp
@[simp] theorem wordMerged_host (mem a : Nat) : (wordMerged s mem a).host = s.host := by rw [wordMerged]; split <;> split <;> (try split) <;> simp
@[simp] theorem wordMerged_img (mem a : Nat) : (wordMerged s mem a).img = s.img := by rw [wordMerged]; split <;> split <;> (try split) <;> simp
@[simp] theorem wordMerged_pwr (mem a : Nat) : (wordMerged s mem a).pwr = s.pwr := by rw [wordMerged]; split <;> split <;> (try split) <;> simp
@[simp] theorem wordMerged_nvc (mem a : Nat) : (wordMerged s mem a).nvc = s.nvc := by rw [wordMerged]; split <;> split <;> (try split) <;> simp
@[simp] theorem wordMerged_lcs (mem a : Nat) : (wordMerged s mem a).lcs = s.lcs := by rw [wordMerged]; split <;> split <;> (try split) <;> simp
@[simp] theorem wordMerged_wlt (mem a : Nat) : (wordMerged s mem a).wlt = s.wlt := by rw [wordMerged]; split <;> split <;> (try split) <;> simp
@[simp] theorem wordMerged_brg (mem a : Nat) : (wordMerged s mem a).brg = s.brg := by rw [wordMerged]; split <;> split <;> (try split) <;> simp
@[simp] theorem wordMerged_pcie (mem a : Nat) : (wordMerged s mem a).pcie = s.pcie := by rw [wordMerged]; split <;> split <;> (try split) <;> simp
@[simp] theorem wordMerged_dma (mem a : Nat) : (wordMerged s mem a).dma = s.dma := by rw [wordMerged]; split <;> split <;> (try split) <;> simp
@[simp] theorem wordMerged_spi (mem a : Nat) : (wordMerged s mem a).spi = s.spi := by rw [wordMerged]; split <;> split <;> (try split) <;> simp
@[simp] theorem wordMerged_seq (mem a : Nat) : (wordMerged s mem a).seq = s.seq := by rw [wordMerged]; split <;> split <;> (try split) <;> simp
@[simp] theorem wordMerged_can (mem a : Nat) : (wordMerged s mem a).can = s.can := by rw [wordMerged]; split <;> split <;> (try split) <;> simp
@[simp] theorem wordMerged_latch (mem a : Nat) : (wordMerged s mem a).latch = s.latch := by rw [wordMerged]; split <;> split <;> (try split) <;> simp
@[simp] theorem wordMerged_stage (mem a : Nat) : (wordMerged s mem a).stage = s.stage := by rw [wordMerged]; split <;> split <;> (try split) <;> simp
@[simp] theorem wordMerged_out (mem a : Nat) : (wordMerged s mem a).out = s.out := by rw [wordMerged]; split <;> split <;> (try split) <;> simp
@[simp] theorem wordMerged_past (mem a : Nat) : (wordMerged s mem a).past = s.past := by rw [wordMerged]; split <;> split <;> (try split) <;> simp
@[simp] theorem wordMerged_pending (mem a : Nat) : (wordMerged s mem a).pending = s.pending := by rw [wordMerged]; split <;> split <;> (try split) <;> simp

@[simp] theorem mergeWords_cycle (mem a n : Nat) : (mergeWords s mem a n).cycle = s.cycle :=
  foldl_same s _ (fun t => t.cycle) (fun t _ => wordMerged_cycle t _ _) _
@[simp] theorem mergeWords_draws (mem a n : Nat) : (mergeWords s mem a n).draws = s.draws :=
  foldl_same s _ (fun t => t.draws) (fun t _ => wordMerged_draws t _ _) _
@[simp] theorem mergeWords_rgl (mem a n : Nat) : (mergeWords s mem a n).rgl = s.rgl :=
  foldl_same s _ (fun t => t.rgl) (fun t _ => wordMerged_rgl t _ _) _
@[simp] theorem mergeWords_drc (mem a n : Nat) : (mergeWords s mem a n).drc = s.drc :=
  foldl_same s _ (fun t => t.drc) (fun t _ => wordMerged_drc t _ _) _
@[simp] theorem mergeWords_spm (mem a n : Nat) : (mergeWords s mem a n).spm = s.spm :=
  foldl_same s _ (fun t => t.spm) (fun t _ => wordMerged_spm t _ _) _
@[simp] theorem mergeWords_tca (mem a n : Nat) : (mergeWords s mem a n).tca = s.tca :=
  foldl_same s _ (fun t => t.tca) (fun t _ => wordMerged_tca t _ _) _
@[simp] theorem mergeWords_hsh (mem a n : Nat) : (mergeWords s mem a n).hsh = s.hsh :=
  foldl_same s _ (fun t => t.hsh) (fun t _ => wordMerged_hsh t _ _) _
@[simp] theorem mergeWords_way (mem a n : Nat) : (mergeWords s mem a n).way = s.way :=
  foldl_same s _ (fun t => t.way) (fun t _ => wordMerged_way t _ _) _
@[simp] theorem mergeWords_lrn (mem a n : Nat) : (mergeWords s mem a n).lrn = s.lrn :=
  foldl_same s _ (fun t => t.lrn) (fun t _ => wordMerged_lrn t _ _) _
@[simp] theorem mergeWords_age (mem a n : Nat) : (mergeWords s mem a n).age = s.age :=
  foldl_same s _ (fun t => t.age) (fun t _ => wordMerged_age t _ _) _
@[simp] theorem mergeWords_tcr (mem a n : Nat) : (mergeWords s mem a n).tcr = s.tcr :=
  foldl_same s _ (fun t => t.tcr) (fun t _ => wordMerged_tcr t _ _) _
@[simp] theorem mergeWords_vrd (mem a n : Nat) : (mergeWords s mem a n).vrd = s.vrd :=
  foldl_same s _ (fun t => t.vrd) (fun t _ => wordMerged_vrd t _ _) _
@[simp] theorem mergeWords_cbl (mem a n : Nat) : (mergeWords s mem a n).cbl = s.cbl :=
  foldl_same s _ (fun t => t.cbl) (fun t _ => wordMerged_cbl t _ _) _
@[simp] theorem mergeWords_tol (mem a n : Nat) : (mergeWords s mem a n).tol = s.tol :=
  foldl_same s _ (fun t => t.tol) (fun t _ => wordMerged_tol t _ _) _
@[simp] theorem mergeWords_taps (mem a n : Nat) : (mergeWords s mem a n).taps = s.taps :=
  foldl_same s _ (fun t => t.taps) (fun t _ => wordMerged_taps t _ _) _
@[simp] theorem mergeWords_mil (mem a n : Nat) : (mergeWords s mem a n).mil = s.mil :=
  foldl_same s _ (fun t => t.mil) (fun t _ => wordMerged_mil t _ _) _
@[simp] theorem mergeWords_host (mem a n : Nat) : (mergeWords s mem a n).host = s.host :=
  foldl_same s _ (fun t => t.host) (fun t _ => wordMerged_host t _ _) _
@[simp] theorem mergeWords_img (mem a n : Nat) : (mergeWords s mem a n).img = s.img :=
  foldl_same s _ (fun t => t.img) (fun t _ => wordMerged_img t _ _) _
@[simp] theorem mergeWords_pwr (mem a n : Nat) : (mergeWords s mem a n).pwr = s.pwr :=
  foldl_same s _ (fun t => t.pwr) (fun t _ => wordMerged_pwr t _ _) _
@[simp] theorem mergeWords_nvc (mem a n : Nat) : (mergeWords s mem a n).nvc = s.nvc :=
  foldl_same s _ (fun t => t.nvc) (fun t _ => wordMerged_nvc t _ _) _
@[simp] theorem mergeWords_lcs (mem a n : Nat) : (mergeWords s mem a n).lcs = s.lcs :=
  foldl_same s _ (fun t => t.lcs) (fun t _ => wordMerged_lcs t _ _) _
@[simp] theorem mergeWords_wlt (mem a n : Nat) : (mergeWords s mem a n).wlt = s.wlt :=
  foldl_same s _ (fun t => t.wlt) (fun t _ => wordMerged_wlt t _ _) _
@[simp] theorem mergeWords_brg (mem a n : Nat) : (mergeWords s mem a n).brg = s.brg :=
  foldl_same s _ (fun t => t.brg) (fun t _ => wordMerged_brg t _ _) _
@[simp] theorem mergeWords_pcie (mem a n : Nat) : (mergeWords s mem a n).pcie = s.pcie :=
  foldl_same s _ (fun t => t.pcie) (fun t _ => wordMerged_pcie t _ _) _
@[simp] theorem mergeWords_dma (mem a n : Nat) : (mergeWords s mem a n).dma = s.dma :=
  foldl_same s _ (fun t => t.dma) (fun t _ => wordMerged_dma t _ _) _
@[simp] theorem mergeWords_spi (mem a n : Nat) : (mergeWords s mem a n).spi = s.spi :=
  foldl_same s _ (fun t => t.spi) (fun t _ => wordMerged_spi t _ _) _
@[simp] theorem mergeWords_seq (mem a n : Nat) : (mergeWords s mem a n).seq = s.seq :=
  foldl_same s _ (fun t => t.seq) (fun t _ => wordMerged_seq t _ _) _
@[simp] theorem mergeWords_can (mem a n : Nat) : (mergeWords s mem a n).can = s.can :=
  foldl_same s _ (fun t => t.can) (fun t _ => wordMerged_can t _ _) _
@[simp] theorem mergeWords_latch (mem a n : Nat) : (mergeWords s mem a n).latch = s.latch :=
  foldl_same s _ (fun t => t.latch) (fun t _ => wordMerged_latch t _ _) _
@[simp] theorem mergeWords_stage (mem a n : Nat) : (mergeWords s mem a n).stage = s.stage :=
  foldl_same s _ (fun t => t.stage) (fun t _ => wordMerged_stage t _ _) _
@[simp] theorem mergeWords_out (mem a n : Nat) : (mergeWords s mem a n).out = s.out :=
  foldl_same s _ (fun t => t.out) (fun t _ => wordMerged_out t _ _) _
@[simp] theorem mergeWords_past (mem a n : Nat) : (mergeWords s mem a n).past = s.past :=
  foldl_same s _ (fun t => t.past) (fun t _ => wordMerged_past t _ _) _
@[simp] theorem mergeWords_pending (mem a n : Nat) : (mergeWords s mem a n).pending = s.pending :=
  foldl_same s _ (fun t => t.pending) (fun t _ => wordMerged_pending t _ _) _

@[simp] theorem rangeWritten_cycle (mem a n : Nat) : (rangeWritten s mem a n).cycle = s.cycle := by simp only [rangeWritten, apply_ite State.cycle, flipApply_cycle, ite_self]
@[simp] theorem rangeWritten_draws (mem a n : Nat) : (rangeWritten s mem a n).draws = s.draws := by simp only [rangeWritten, apply_ite State.draws, flipApply_draws, ite_self]
@[simp] theorem rangeWritten_rgl (mem a n : Nat) : (rangeWritten s mem a n).rgl = s.rgl := by simp only [rangeWritten, apply_ite State.rgl, flipApply_rgl, ite_self]
@[simp] theorem rangeWritten_drc (mem a n : Nat) : (rangeWritten s mem a n).drc = s.drc := by simp only [rangeWritten, apply_ite State.drc, flipApply_drc, ite_self]
@[simp] theorem rangeWritten_spm (mem a n : Nat) : (rangeWritten s mem a n).spm = s.spm := by simp only [rangeWritten, apply_ite State.spm, flipApply_spm, ite_self]
@[simp] theorem rangeWritten_tca (mem a n : Nat) : (rangeWritten s mem a n).tca = s.tca := by simp only [rangeWritten, apply_ite State.tca, flipApply_tca, ite_self]
@[simp] theorem rangeWritten_hsh (mem a n : Nat) : (rangeWritten s mem a n).hsh = s.hsh := by simp only [rangeWritten, apply_ite State.hsh, flipApply_hsh, ite_self]
@[simp] theorem rangeWritten_way (mem a n : Nat) : (rangeWritten s mem a n).way = s.way := by simp only [rangeWritten, apply_ite State.way, flipApply_way, ite_self]
@[simp] theorem rangeWritten_lrn (mem a n : Nat) : (rangeWritten s mem a n).lrn = s.lrn := by simp only [rangeWritten, apply_ite State.lrn, flipApply_lrn, ite_self]
@[simp] theorem rangeWritten_age (mem a n : Nat) : (rangeWritten s mem a n).age = s.age := by simp only [rangeWritten, apply_ite State.age, flipApply_age, ite_self]
@[simp] theorem rangeWritten_tcr (mem a n : Nat) : (rangeWritten s mem a n).tcr = s.tcr := by simp only [rangeWritten, apply_ite State.tcr, flipApply_tcr, ite_self]
@[simp] theorem rangeWritten_vrd (mem a n : Nat) : (rangeWritten s mem a n).vrd = s.vrd := by simp only [rangeWritten, apply_ite State.vrd, flipApply_vrd, ite_self]
@[simp] theorem rangeWritten_cbl (mem a n : Nat) : (rangeWritten s mem a n).cbl = s.cbl := by simp only [rangeWritten, apply_ite State.cbl, flipApply_cbl, ite_self]
@[simp] theorem rangeWritten_tol (mem a n : Nat) : (rangeWritten s mem a n).tol = s.tol := by simp only [rangeWritten, apply_ite State.tol, flipApply_tol, ite_self]
@[simp] theorem rangeWritten_taps (mem a n : Nat) : (rangeWritten s mem a n).taps = s.taps := by simp only [rangeWritten, apply_ite State.taps, flipApply_taps, ite_self]
@[simp] theorem rangeWritten_mil (mem a n : Nat) : (rangeWritten s mem a n).mil = s.mil := by simp only [rangeWritten, apply_ite State.mil, flipApply_mil, ite_self]
@[simp] theorem rangeWritten_host (mem a n : Nat) : (rangeWritten s mem a n).host = s.host := by simp only [rangeWritten, apply_ite State.host, flipApply_host, ite_self]
@[simp] theorem rangeWritten_img (mem a n : Nat) : (rangeWritten s mem a n).img = s.img := by simp only [rangeWritten, apply_ite State.img, flipApply_img, ite_self]
@[simp] theorem rangeWritten_pwr (mem a n : Nat) : (rangeWritten s mem a n).pwr = s.pwr := by simp only [rangeWritten, apply_ite State.pwr, flipApply_pwr, ite_self]
@[simp] theorem rangeWritten_nvc (mem a n : Nat) : (rangeWritten s mem a n).nvc = s.nvc := by simp only [rangeWritten, apply_ite State.nvc, flipApply_nvc, ite_self]
@[simp] theorem rangeWritten_lcs (mem a n : Nat) : (rangeWritten s mem a n).lcs = s.lcs := by simp only [rangeWritten, apply_ite State.lcs, flipApply_lcs, ite_self]
@[simp] theorem rangeWritten_wlt (mem a n : Nat) : (rangeWritten s mem a n).wlt = s.wlt := by simp only [rangeWritten, apply_ite State.wlt, flipApply_wlt, ite_self]
@[simp] theorem rangeWritten_brg (mem a n : Nat) : (rangeWritten s mem a n).brg = s.brg := by simp only [rangeWritten, apply_ite State.brg, flipApply_brg, ite_self]
@[simp] theorem rangeWritten_pcie (mem a n : Nat) : (rangeWritten s mem a n).pcie = s.pcie := by simp only [rangeWritten, apply_ite State.pcie, flipApply_pcie, ite_self]
@[simp] theorem rangeWritten_dma (mem a n : Nat) : (rangeWritten s mem a n).dma = s.dma := by simp only [rangeWritten, apply_ite State.dma, flipApply_dma, ite_self]
@[simp] theorem rangeWritten_spi (mem a n : Nat) : (rangeWritten s mem a n).spi = s.spi := by simp only [rangeWritten, apply_ite State.spi, flipApply_spi, ite_self]
@[simp] theorem rangeWritten_seq (mem a n : Nat) : (rangeWritten s mem a n).seq = s.seq := by simp only [rangeWritten, apply_ite State.seq, flipApply_seq, ite_self]
@[simp] theorem rangeWritten_can (mem a n : Nat) : (rangeWritten s mem a n).can = s.can := by simp only [rangeWritten, apply_ite State.can, flipApply_can, ite_self]
@[simp] theorem rangeWritten_latch (mem a n : Nat) : (rangeWritten s mem a n).latch = s.latch := by simp only [rangeWritten, apply_ite State.latch, flipApply_latch, ite_self]
@[simp] theorem rangeWritten_stage (mem a n : Nat) : (rangeWritten s mem a n).stage = s.stage := by simp only [rangeWritten, apply_ite State.stage, flipApply_stage, ite_self]
@[simp] theorem rangeWritten_out (mem a n : Nat) : (rangeWritten s mem a n).out = s.out := by simp only [rangeWritten, apply_ite State.out, flipApply_out, ite_self]
@[simp] theorem rangeWritten_past (mem a n : Nat) : (rangeWritten s mem a n).past = s.past := by simp only [rangeWritten, apply_ite State.past, flipApply_past, ite_self]
@[simp] theorem rangeWritten_pending (mem a n : Nat) : (rangeWritten s mem a n).pending = s.pending := by simp only [rangeWritten, apply_ite State.pending, flipApply_pending, ite_self]

@[simp] theorem setPage_cycle (n : Nat) (x : Page) : (setPage s n x).cycle = s.cycle := by rw [setPage, mergeWords_cycle]
@[simp] theorem setPage_draws (n : Nat) (x : Page) : (setPage s n x).draws = s.draws := by rw [setPage, mergeWords_draws]
@[simp] theorem setPage_rgl (n : Nat) (x : Page) : (setPage s n x).rgl = s.rgl := by rw [setPage, mergeWords_rgl]
@[simp] theorem setPage_drc (n : Nat) (x : Page) : (setPage s n x).drc = s.drc := by rw [setPage, mergeWords_drc]
@[simp] theorem setPage_spm (n : Nat) (x : Page) : (setPage s n x).spm = s.spm := by rw [setPage, mergeWords_spm]
@[simp] theorem setPage_tca (n : Nat) (x : Page) : (setPage s n x).tca = s.tca := by rw [setPage, mergeWords_tca]
@[simp] theorem setPage_hsh (n : Nat) (x : Page) : (setPage s n x).hsh = s.hsh := by rw [setPage, mergeWords_hsh]
@[simp] theorem setPage_lrn (n : Nat) (x : Page) : (setPage s n x).lrn = s.lrn := by rw [setPage, mergeWords_lrn]
@[simp] theorem setPage_age (n : Nat) (x : Page) : (setPage s n x).age = s.age := by rw [setPage, mergeWords_age]
@[simp] theorem setPage_tcr (n : Nat) (x : Page) : (setPage s n x).tcr = s.tcr := by rw [setPage, mergeWords_tcr]
@[simp] theorem setPage_vrd (n : Nat) (x : Page) : (setPage s n x).vrd = s.vrd := by rw [setPage, mergeWords_vrd]
@[simp] theorem setPage_cbl (n : Nat) (x : Page) : (setPage s n x).cbl = s.cbl := by rw [setPage, mergeWords_cbl]
@[simp] theorem setPage_tol (n : Nat) (x : Page) : (setPage s n x).tol = s.tol := by rw [setPage, mergeWords_tol]
@[simp] theorem setPage_taps (n : Nat) (x : Page) : (setPage s n x).taps = s.taps := by rw [setPage, mergeWords_taps]
@[simp] theorem setPage_mil (n : Nat) (x : Page) : (setPage s n x).mil = s.mil := by rw [setPage, mergeWords_mil]
@[simp] theorem setPage_host (n : Nat) (x : Page) : (setPage s n x).host = s.host := by rw [setPage, mergeWords_host]
@[simp] theorem setPage_img (n : Nat) (x : Page) : (setPage s n x).img = s.img := by rw [setPage, mergeWords_img]
@[simp] theorem setPage_pwr (n : Nat) (x : Page) : (setPage s n x).pwr = s.pwr := by rw [setPage, mergeWords_pwr]
@[simp] theorem setPage_nvc (n : Nat) (x : Page) : (setPage s n x).nvc = s.nvc := by rw [setPage, mergeWords_nvc]
@[simp] theorem setPage_lcs (n : Nat) (x : Page) : (setPage s n x).lcs = s.lcs := by rw [setPage, mergeWords_lcs]
@[simp] theorem setPage_wlt (n : Nat) (x : Page) : (setPage s n x).wlt = s.wlt := by rw [setPage, mergeWords_wlt]
@[simp] theorem setPage_brg (n : Nat) (x : Page) : (setPage s n x).brg = s.brg := by rw [setPage, mergeWords_brg]
@[simp] theorem setPage_pcie (n : Nat) (x : Page) : (setPage s n x).pcie = s.pcie := by rw [setPage, mergeWords_pcie]
@[simp] theorem setPage_dma (n : Nat) (x : Page) : (setPage s n x).dma = s.dma := by rw [setPage, mergeWords_dma]
@[simp] theorem setPage_spi (n : Nat) (x : Page) : (setPage s n x).spi = s.spi := by rw [setPage, mergeWords_spi]
@[simp] theorem setPage_seq (n : Nat) (x : Page) : (setPage s n x).seq = s.seq := by rw [setPage, mergeWords_seq]
@[simp] theorem setPage_can (n : Nat) (x : Page) : (setPage s n x).can = s.can := by rw [setPage, mergeWords_can]
@[simp] theorem setPage_latch (n : Nat) (x : Page) : (setPage s n x).latch = s.latch := by rw [setPage, mergeWords_latch]
@[simp] theorem setPage_stage (n : Nat) (x : Page) : (setPage s n x).stage = s.stage := by rw [setPage, mergeWords_stage]
@[simp] theorem setPage_out (n : Nat) (x : Page) : (setPage s n x).out = s.out := by rw [setPage, mergeWords_out]
@[simp] theorem setPage_past (n : Nat) (x : Page) : (setPage s n x).past = s.past := by rw [setPage, mergeWords_past]
@[simp] theorem setPage_pending (n : Nat) (x : Page) : (setPage s n x).pending = s.pending := by rw [setPage, mergeWords_pending]

@[simp] theorem setPageWhole_cycle (n : Nat) (x : Page) : (setPageWhole s n x).cycle = s.cycle := by rw [setPageWhole, rangeWritten_cycle]
@[simp] theorem setPageWhole_draws (n : Nat) (x : Page) : (setPageWhole s n x).draws = s.draws := by rw [setPageWhole, rangeWritten_draws]
@[simp] theorem setPageWhole_rgl (n : Nat) (x : Page) : (setPageWhole s n x).rgl = s.rgl := by rw [setPageWhole, rangeWritten_rgl]
@[simp] theorem setPageWhole_drc (n : Nat) (x : Page) : (setPageWhole s n x).drc = s.drc := by rw [setPageWhole, rangeWritten_drc]
@[simp] theorem setPageWhole_spm (n : Nat) (x : Page) : (setPageWhole s n x).spm = s.spm := by rw [setPageWhole, rangeWritten_spm]
@[simp] theorem setPageWhole_tca (n : Nat) (x : Page) : (setPageWhole s n x).tca = s.tca := by rw [setPageWhole, rangeWritten_tca]
@[simp] theorem setPageWhole_hsh (n : Nat) (x : Page) : (setPageWhole s n x).hsh = s.hsh := by rw [setPageWhole, rangeWritten_hsh]
@[simp] theorem setPageWhole_lrn (n : Nat) (x : Page) : (setPageWhole s n x).lrn = s.lrn := by rw [setPageWhole, rangeWritten_lrn]
@[simp] theorem setPageWhole_age (n : Nat) (x : Page) : (setPageWhole s n x).age = s.age := by rw [setPageWhole, rangeWritten_age]
@[simp] theorem setPageWhole_tcr (n : Nat) (x : Page) : (setPageWhole s n x).tcr = s.tcr := by rw [setPageWhole, rangeWritten_tcr]
@[simp] theorem setPageWhole_vrd (n : Nat) (x : Page) : (setPageWhole s n x).vrd = s.vrd := by rw [setPageWhole, rangeWritten_vrd]
@[simp] theorem setPageWhole_cbl (n : Nat) (x : Page) : (setPageWhole s n x).cbl = s.cbl := by rw [setPageWhole, rangeWritten_cbl]
@[simp] theorem setPageWhole_tol (n : Nat) (x : Page) : (setPageWhole s n x).tol = s.tol := by rw [setPageWhole, rangeWritten_tol]
@[simp] theorem setPageWhole_taps (n : Nat) (x : Page) : (setPageWhole s n x).taps = s.taps := by rw [setPageWhole, rangeWritten_taps]
@[simp] theorem setPageWhole_mil (n : Nat) (x : Page) : (setPageWhole s n x).mil = s.mil := by rw [setPageWhole, rangeWritten_mil]
@[simp] theorem setPageWhole_host (n : Nat) (x : Page) : (setPageWhole s n x).host = s.host := by rw [setPageWhole, rangeWritten_host]
@[simp] theorem setPageWhole_img (n : Nat) (x : Page) : (setPageWhole s n x).img = s.img := by rw [setPageWhole, rangeWritten_img]
@[simp] theorem setPageWhole_pwr (n : Nat) (x : Page) : (setPageWhole s n x).pwr = s.pwr := by rw [setPageWhole, rangeWritten_pwr]
@[simp] theorem setPageWhole_nvc (n : Nat) (x : Page) : (setPageWhole s n x).nvc = s.nvc := by rw [setPageWhole, rangeWritten_nvc]
@[simp] theorem setPageWhole_lcs (n : Nat) (x : Page) : (setPageWhole s n x).lcs = s.lcs := by rw [setPageWhole, rangeWritten_lcs]
@[simp] theorem setPageWhole_wlt (n : Nat) (x : Page) : (setPageWhole s n x).wlt = s.wlt := by rw [setPageWhole, rangeWritten_wlt]
@[simp] theorem setPageWhole_brg (n : Nat) (x : Page) : (setPageWhole s n x).brg = s.brg := by rw [setPageWhole, rangeWritten_brg]
@[simp] theorem setPageWhole_pcie (n : Nat) (x : Page) : (setPageWhole s n x).pcie = s.pcie := by rw [setPageWhole, rangeWritten_pcie]
@[simp] theorem setPageWhole_dma (n : Nat) (x : Page) : (setPageWhole s n x).dma = s.dma := by rw [setPageWhole, rangeWritten_dma]
@[simp] theorem setPageWhole_spi (n : Nat) (x : Page) : (setPageWhole s n x).spi = s.spi := by rw [setPageWhole, rangeWritten_spi]
@[simp] theorem setPageWhole_seq (n : Nat) (x : Page) : (setPageWhole s n x).seq = s.seq := by rw [setPageWhole, rangeWritten_seq]
@[simp] theorem setPageWhole_can (n : Nat) (x : Page) : (setPageWhole s n x).can = s.can := by rw [setPageWhole, rangeWritten_can]
@[simp] theorem setPageWhole_latch (n : Nat) (x : Page) : (setPageWhole s n x).latch = s.latch := by rw [setPageWhole, rangeWritten_latch]
@[simp] theorem setPageWhole_stage (n : Nat) (x : Page) : (setPageWhole s n x).stage = s.stage := by rw [setPageWhole, rangeWritten_stage]
@[simp] theorem setPageWhole_out (n : Nat) (x : Page) : (setPageWhole s n x).out = s.out := by rw [setPageWhole, rangeWritten_out]
@[simp] theorem setPageWhole_past (n : Nat) (x : Page) : (setPageWhole s n x).past = s.past := by rw [setPageWhole, rangeWritten_past]
@[simp] theorem setPageWhole_pending (n : Nat) (x : Page) : (setPageWhole s n x).pending = s.pending := by rw [setPageWhole, rangeWritten_pending]

@[simp] theorem setStream_cycle (n : Nat) (x : Stream) : (setStream s n x).cycle = s.cycle := by rw [setStream, mergeWords_cycle]
@[simp] theorem setStream_draws (n : Nat) (x : Stream) : (setStream s n x).draws = s.draws := by rw [setStream, mergeWords_draws]
@[simp] theorem setStream_rgl (n : Nat) (x : Stream) : (setStream s n x).rgl = s.rgl := by rw [setStream, mergeWords_rgl]
@[simp] theorem setStream_drc (n : Nat) (x : Stream) : (setStream s n x).drc = s.drc := by rw [setStream, mergeWords_drc]
@[simp] theorem setStream_spm (n : Nat) (x : Stream) : (setStream s n x).spm = s.spm := by rw [setStream, mergeWords_spm]
@[simp] theorem setStream_tca (n : Nat) (x : Stream) : (setStream s n x).tca = s.tca := by rw [setStream, mergeWords_tca]
@[simp] theorem setStream_hsh (n : Nat) (x : Stream) : (setStream s n x).hsh = s.hsh := by rw [setStream, mergeWords_hsh]
@[simp] theorem setStream_lrn (n : Nat) (x : Stream) : (setStream s n x).lrn = s.lrn := by rw [setStream, mergeWords_lrn]
@[simp] theorem setStream_age (n : Nat) (x : Stream) : (setStream s n x).age = s.age := by rw [setStream, mergeWords_age]
@[simp] theorem setStream_tcr (n : Nat) (x : Stream) : (setStream s n x).tcr = s.tcr := by rw [setStream, mergeWords_tcr]
@[simp] theorem setStream_vrd (n : Nat) (x : Stream) : (setStream s n x).vrd = s.vrd := by rw [setStream, mergeWords_vrd]
@[simp] theorem setStream_cbl (n : Nat) (x : Stream) : (setStream s n x).cbl = s.cbl := by rw [setStream, mergeWords_cbl]
@[simp] theorem setStream_tol (n : Nat) (x : Stream) : (setStream s n x).tol = s.tol := by rw [setStream, mergeWords_tol]
@[simp] theorem setStream_taps (n : Nat) (x : Stream) : (setStream s n x).taps = s.taps := by rw [setStream, mergeWords_taps]
@[simp] theorem setStream_mil (n : Nat) (x : Stream) : (setStream s n x).mil = s.mil := by rw [setStream, mergeWords_mil]
@[simp] theorem setStream_host (n : Nat) (x : Stream) : (setStream s n x).host = s.host := by rw [setStream, mergeWords_host]
@[simp] theorem setStream_img (n : Nat) (x : Stream) : (setStream s n x).img = s.img := by rw [setStream, mergeWords_img]
@[simp] theorem setStream_pwr (n : Nat) (x : Stream) : (setStream s n x).pwr = s.pwr := by rw [setStream, mergeWords_pwr]
@[simp] theorem setStream_nvc (n : Nat) (x : Stream) : (setStream s n x).nvc = s.nvc := by rw [setStream, mergeWords_nvc]
@[simp] theorem setStream_lcs (n : Nat) (x : Stream) : (setStream s n x).lcs = s.lcs := by rw [setStream, mergeWords_lcs]
@[simp] theorem setStream_wlt (n : Nat) (x : Stream) : (setStream s n x).wlt = s.wlt := by rw [setStream, mergeWords_wlt]
@[simp] theorem setStream_brg (n : Nat) (x : Stream) : (setStream s n x).brg = s.brg := by rw [setStream, mergeWords_brg]
@[simp] theorem setStream_pcie (n : Nat) (x : Stream) : (setStream s n x).pcie = s.pcie := by rw [setStream, mergeWords_pcie]
@[simp] theorem setStream_dma (n : Nat) (x : Stream) : (setStream s n x).dma = s.dma := by rw [setStream, mergeWords_dma]
@[simp] theorem setStream_spi (n : Nat) (x : Stream) : (setStream s n x).spi = s.spi := by rw [setStream, mergeWords_spi]
@[simp] theorem setStream_seq (n : Nat) (x : Stream) : (setStream s n x).seq = s.seq := by rw [setStream, mergeWords_seq]
@[simp] theorem setStream_can (n : Nat) (x : Stream) : (setStream s n x).can = s.can := by rw [setStream, mergeWords_can]
@[simp] theorem setStream_latch (n : Nat) (x : Stream) : (setStream s n x).latch = s.latch := by rw [setStream, mergeWords_latch]
@[simp] theorem setStream_stage (n : Nat) (x : Stream) : (setStream s n x).stage = s.stage := by rw [setStream, mergeWords_stage]
@[simp] theorem setStream_out (n : Nat) (x : Stream) : (setStream s n x).out = s.out := by rw [setStream, mergeWords_out]
@[simp] theorem setStream_past (n : Nat) (x : Stream) : (setStream s n x).past = s.past := by rw [setStream, mergeWords_past]
@[simp] theorem setStream_pending (n : Nat) (x : Stream) : (setStream s n x).pending = s.pending := by rw [setStream, mergeWords_pending]

@[simp] theorem setWport_cycle (k : Nat) (x : WPort) : (setWport s k x).cycle = s.cycle := by rw [setWport]
@[simp] theorem setWport_regs (k : Nat) (x : WPort) : (setWport s k x).regs = s.regs := by rw [setWport]
@[simp] theorem setWport_draws (k : Nat) (x : WPort) : (setWport s k x).draws = s.draws := by rw [setWport]
@[simp] theorem setWport_rgl (k : Nat) (x : WPort) : (setWport s k x).rgl = s.rgl := by rw [setWport]
@[simp] theorem setWport_drc (k : Nat) (x : WPort) : (setWport s k x).drc = s.drc := by rw [setWport]
@[simp] theorem setWport_intg (k : Nat) (x : WPort) : (setWport s k x).intg = s.intg := by rw [setWport]
@[simp] theorem setWport_spm (k : Nat) (x : WPort) : (setWport s k x).spm = s.spm := by rw [setWport]
@[simp] theorem setWport_tca (k : Nat) (x : WPort) : (setWport s k x).tca = s.tca := by rw [setWport]
@[simp] theorem setWport_hsh (k : Nat) (x : WPort) : (setWport s k x).hsh = s.hsh := by rw [setWport]
@[simp] theorem setWport_way (k : Nat) (x : WPort) : (setWport s k x).way = s.way := by rw [setWport]
@[simp] theorem setWport_lrn (k : Nat) (x : WPort) : (setWport s k x).lrn = s.lrn := by rw [setWport]
@[simp] theorem setWport_age (k : Nat) (x : WPort) : (setWport s k x).age = s.age := by rw [setWport]
@[simp] theorem setWport_tcr (k : Nat) (x : WPort) : (setWport s k x).tcr = s.tcr := by rw [setWport]
@[simp] theorem setWport_vrd (k : Nat) (x : WPort) : (setWport s k x).vrd = s.vrd := by rw [setWport]
@[simp] theorem setWport_cbl (k : Nat) (x : WPort) : (setWport s k x).cbl = s.cbl := by rw [setWport]
@[simp] theorem setWport_tol (k : Nat) (x : WPort) : (setWport s k x).tol = s.tol := by rw [setWport]
@[simp] theorem setWport_taps (k : Nat) (x : WPort) : (setWport s k x).taps = s.taps := by rw [setWport]
@[simp] theorem setWport_mil (k : Nat) (x : WPort) : (setWport s k x).mil = s.mil := by rw [setWport]
@[simp] theorem setWport_host (k : Nat) (x : WPort) : (setWport s k x).host = s.host := by rw [setWport]
@[simp] theorem setWport_img (k : Nat) (x : WPort) : (setWport s k x).img = s.img := by rw [setWport]
@[simp] theorem setWport_pwr (k : Nat) (x : WPort) : (setWport s k x).pwr = s.pwr := by rw [setWport]
@[simp] theorem setWport_nvc (k : Nat) (x : WPort) : (setWport s k x).nvc = s.nvc := by rw [setWport]
@[simp] theorem setWport_lcs (k : Nat) (x : WPort) : (setWport s k x).lcs = s.lcs := by rw [setWport]
@[simp] theorem setWport_brg (k : Nat) (x : WPort) : (setWport s k x).brg = s.brg := by rw [setWport]
@[simp] theorem setWport_pcie (k : Nat) (x : WPort) : (setWport s k x).pcie = s.pcie := by rw [setWport]
@[simp] theorem setWport_dma (k : Nat) (x : WPort) : (setWport s k x).dma = s.dma := by rw [setWport]
@[simp] theorem setWport_spi (k : Nat) (x : WPort) : (setWport s k x).spi = s.spi := by rw [setWport]
@[simp] theorem setWport_seq (k : Nat) (x : WPort) : (setWport s k x).seq = s.seq := by rw [setWport]
@[simp] theorem setWport_can (k : Nat) (x : WPort) : (setWport s k x).can = s.can := by rw [setWport]
@[simp] theorem setWport_latch (k : Nat) (x : WPort) : (setWport s k x).latch = s.latch := by rw [setWport]
@[simp] theorem setWport_stage (k : Nat) (x : WPort) : (setWport s k x).stage = s.stage := by rw [setWport]
@[simp] theorem setWport_out (k : Nat) (x : WPort) : (setWport s k x).out = s.out := by rw [setWport]
@[simp] theorem setWport_now (k : Nat) (x : WPort) : (setWport s k x).now = s.now := by rw [setWport]
@[simp] theorem setWport_past (k : Nat) (x : WPort) : (setWport s k x).past = s.past := by rw [setWport]
@[simp] theorem setWport_pending (k : Nat) (x : WPort) : (setWport s k x).pending = s.pending := by rw [setWport]

@[simp] theorem setDma_cycle (n : Nat) (x : DmaCh) : (setDma s n x).cycle = s.cycle := by rw [setDma]
@[simp] theorem setDma_regs (n : Nat) (x : DmaCh) : (setDma s n x).regs = s.regs := by rw [setDma]
@[simp] theorem setDma_draws (n : Nat) (x : DmaCh) : (setDma s n x).draws = s.draws := by rw [setDma]
@[simp] theorem setDma_rgl (n : Nat) (x : DmaCh) : (setDma s n x).rgl = s.rgl := by rw [setDma]
@[simp] theorem setDma_drc (n : Nat) (x : DmaCh) : (setDma s n x).drc = s.drc := by rw [setDma]
@[simp] theorem setDma_intg (n : Nat) (x : DmaCh) : (setDma s n x).intg = s.intg := by rw [setDma]
@[simp] theorem setDma_spm (n : Nat) (x : DmaCh) : (setDma s n x).spm = s.spm := by rw [setDma]
@[simp] theorem setDma_tca (n : Nat) (x : DmaCh) : (setDma s n x).tca = s.tca := by rw [setDma]
@[simp] theorem setDma_hsh (n : Nat) (x : DmaCh) : (setDma s n x).hsh = s.hsh := by rw [setDma]
@[simp] theorem setDma_way (n : Nat) (x : DmaCh) : (setDma s n x).way = s.way := by rw [setDma]
@[simp] theorem setDma_lrn (n : Nat) (x : DmaCh) : (setDma s n x).lrn = s.lrn := by rw [setDma]
@[simp] theorem setDma_age (n : Nat) (x : DmaCh) : (setDma s n x).age = s.age := by rw [setDma]
@[simp] theorem setDma_tcr (n : Nat) (x : DmaCh) : (setDma s n x).tcr = s.tcr := by rw [setDma]
@[simp] theorem setDma_vrd (n : Nat) (x : DmaCh) : (setDma s n x).vrd = s.vrd := by rw [setDma]
@[simp] theorem setDma_cbl (n : Nat) (x : DmaCh) : (setDma s n x).cbl = s.cbl := by rw [setDma]
@[simp] theorem setDma_tol (n : Nat) (x : DmaCh) : (setDma s n x).tol = s.tol := by rw [setDma]
@[simp] theorem setDma_taps (n : Nat) (x : DmaCh) : (setDma s n x).taps = s.taps := by rw [setDma]
@[simp] theorem setDma_mil (n : Nat) (x : DmaCh) : (setDma s n x).mil = s.mil := by rw [setDma]
@[simp] theorem setDma_host (n : Nat) (x : DmaCh) : (setDma s n x).host = s.host := by rw [setDma]
@[simp] theorem setDma_img (n : Nat) (x : DmaCh) : (setDma s n x).img = s.img := by rw [setDma]
@[simp] theorem setDma_pwr (n : Nat) (x : DmaCh) : (setDma s n x).pwr = s.pwr := by rw [setDma]
@[simp] theorem setDma_nvc (n : Nat) (x : DmaCh) : (setDma s n x).nvc = s.nvc := by rw [setDma]
@[simp] theorem setDma_lcs (n : Nat) (x : DmaCh) : (setDma s n x).lcs = s.lcs := by rw [setDma]
@[simp] theorem setDma_wlt (n : Nat) (x : DmaCh) : (setDma s n x).wlt = s.wlt := by rw [setDma]
@[simp] theorem setDma_brg (n : Nat) (x : DmaCh) : (setDma s n x).brg = s.brg := by rw [setDma]
@[simp] theorem setDma_pcie (n : Nat) (x : DmaCh) : (setDma s n x).pcie = s.pcie := by rw [setDma]
@[simp] theorem setDma_spi (n : Nat) (x : DmaCh) : (setDma s n x).spi = s.spi := by rw [setDma]
@[simp] theorem setDma_seq (n : Nat) (x : DmaCh) : (setDma s n x).seq = s.seq := by rw [setDma]
@[simp] theorem setDma_can (n : Nat) (x : DmaCh) : (setDma s n x).can = s.can := by rw [setDma]
@[simp] theorem setDma_latch (n : Nat) (x : DmaCh) : (setDma s n x).latch = s.latch := by rw [setDma]
@[simp] theorem setDma_stage (n : Nat) (x : DmaCh) : (setDma s n x).stage = s.stage := by rw [setDma]
@[simp] theorem setDma_out (n : Nat) (x : DmaCh) : (setDma s n x).out = s.out := by rw [setDma]
@[simp] theorem setDma_now (n : Nat) (x : DmaCh) : (setDma s n x).now = s.now := by rw [setDma]
@[simp] theorem setDma_past (n : Nat) (x : DmaCh) : (setDma s n x).past = s.past := by rw [setDma]
@[simp] theorem setDma_pending (n : Nat) (x : DmaCh) : (setDma s n x).pending = s.pending := by rw [setDma]

@[simp] theorem setFlight_cycle (f : Flight) : (setFlight s f).cycle = s.cycle := by rw [setFlight]
@[simp] theorem setFlight_regs (f : Flight) : (setFlight s f).regs = s.regs := by rw [setFlight]
@[simp] theorem setFlight_draws (f : Flight) : (setFlight s f).draws = s.draws := by rw [setFlight]
@[simp] theorem setFlight_rgl (f : Flight) : (setFlight s f).rgl = s.rgl := by rw [setFlight]
@[simp] theorem setFlight_drc (f : Flight) : (setFlight s f).drc = s.drc := by rw [setFlight]
@[simp] theorem setFlight_intg (f : Flight) : (setFlight s f).intg = s.intg := by rw [setFlight]
@[simp] theorem setFlight_spm (f : Flight) : (setFlight s f).spm = s.spm := by rw [setFlight]
@[simp] theorem setFlight_tca (f : Flight) : (setFlight s f).tca = s.tca := by rw [setFlight]
@[simp] theorem setFlight_hsh (f : Flight) : (setFlight s f).hsh = s.hsh := by rw [setFlight]
@[simp] theorem setFlight_way (f : Flight) : (setFlight s f).way = s.way := by rw [setFlight]
@[simp] theorem setFlight_lrn (f : Flight) : (setFlight s f).lrn = s.lrn := by rw [setFlight]
@[simp] theorem setFlight_age (f : Flight) : (setFlight s f).age = s.age := by rw [setFlight]
@[simp] theorem setFlight_tcr (f : Flight) : (setFlight s f).tcr = s.tcr := by rw [setFlight]
@[simp] theorem setFlight_cbl (f : Flight) : (setFlight s f).cbl = s.cbl := by rw [setFlight]
@[simp] theorem setFlight_tol (f : Flight) : (setFlight s f).tol = s.tol := by rw [setFlight]
@[simp] theorem setFlight_taps (f : Flight) : (setFlight s f).taps = s.taps := by rw [setFlight]
@[simp] theorem setFlight_mil (f : Flight) : (setFlight s f).mil = s.mil := by rw [setFlight]
@[simp] theorem setFlight_host (f : Flight) : (setFlight s f).host = s.host := by rw [setFlight]
@[simp] theorem setFlight_img (f : Flight) : (setFlight s f).img = s.img := by rw [setFlight]
@[simp] theorem setFlight_pwr (f : Flight) : (setFlight s f).pwr = s.pwr := by rw [setFlight]
@[simp] theorem setFlight_nvc (f : Flight) : (setFlight s f).nvc = s.nvc := by rw [setFlight]
@[simp] theorem setFlight_lcs (f : Flight) : (setFlight s f).lcs = s.lcs := by rw [setFlight]
@[simp] theorem setFlight_wlt (f : Flight) : (setFlight s f).wlt = s.wlt := by rw [setFlight]
@[simp] theorem setFlight_brg (f : Flight) : (setFlight s f).brg = s.brg := by rw [setFlight]
@[simp] theorem setFlight_pcie (f : Flight) : (setFlight s f).pcie = s.pcie := by rw [setFlight]
@[simp] theorem setFlight_dma (f : Flight) : (setFlight s f).dma = s.dma := by rw [setFlight]
@[simp] theorem setFlight_spi (f : Flight) : (setFlight s f).spi = s.spi := by rw [setFlight]
@[simp] theorem setFlight_seq (f : Flight) : (setFlight s f).seq = s.seq := by rw [setFlight]
@[simp] theorem setFlight_can (f : Flight) : (setFlight s f).can = s.can := by rw [setFlight]
@[simp] theorem setFlight_latch (f : Flight) : (setFlight s f).latch = s.latch := by rw [setFlight]
@[simp] theorem setFlight_stage (f : Flight) : (setFlight s f).stage = s.stage := by rw [setFlight]
@[simp] theorem setFlight_out (f : Flight) : (setFlight s f).out = s.out := by rw [setFlight]
@[simp] theorem setFlight_now (f : Flight) : (setFlight s f).now = s.now := by rw [setFlight]
@[simp] theorem setFlight_past (f : Flight) : (setFlight s f).past = s.past := by rw [setFlight]
@[simp] theorem setFlight_pending (f : Flight) : (setFlight s f).pending = s.pending := by rw [setFlight]

@[simp] theorem setBucket_cycle (i : Nat) (b : Bucket) : (setBucket s i b).cycle = s.cycle := by rw [setBucket]
@[simp] theorem setBucket_regs (i : Nat) (b : Bucket) : (setBucket s i b).regs = s.regs := by rw [setBucket]
@[simp] theorem setBucket_draws (i : Nat) (b : Bucket) : (setBucket s i b).draws = s.draws := by rw [setBucket]
@[simp] theorem setBucket_rgl (i : Nat) (b : Bucket) : (setBucket s i b).rgl = s.rgl := by rw [setBucket]
@[simp] theorem setBucket_drc (i : Nat) (b : Bucket) : (setBucket s i b).drc = s.drc := by rw [setBucket]
@[simp] theorem setBucket_intg (i : Nat) (b : Bucket) : (setBucket s i b).intg = s.intg := by rw [setBucket]
@[simp] theorem setBucket_spm (i : Nat) (b : Bucket) : (setBucket s i b).spm = s.spm := by rw [setBucket]
@[simp] theorem setBucket_tca (i : Nat) (b : Bucket) : (setBucket s i b).tca = s.tca := by rw [setBucket]
@[simp] theorem setBucket_hsh (i : Nat) (b : Bucket) : (setBucket s i b).hsh = s.hsh := by rw [setBucket]
@[simp] theorem setBucket_way (i : Nat) (b : Bucket) : (setBucket s i b).way = s.way := by rw [setBucket]
@[simp] theorem setBucket_lrn (i : Nat) (b : Bucket) : (setBucket s i b).lrn = s.lrn := by rw [setBucket]
@[simp] theorem setBucket_age (i : Nat) (b : Bucket) : (setBucket s i b).age = s.age := by rw [setBucket]
@[simp] theorem setBucket_tcr (i : Nat) (b : Bucket) : (setBucket s i b).tcr = s.tcr := by rw [setBucket]
@[simp] theorem setBucket_vrd (i : Nat) (b : Bucket) : (setBucket s i b).vrd = s.vrd := by rw [setBucket]
@[simp] theorem setBucket_cbl (i : Nat) (b : Bucket) : (setBucket s i b).cbl = s.cbl := by rw [setBucket]
@[simp] theorem setBucket_taps (i : Nat) (b : Bucket) : (setBucket s i b).taps = s.taps := by rw [setBucket]
@[simp] theorem setBucket_mil (i : Nat) (b : Bucket) : (setBucket s i b).mil = s.mil := by rw [setBucket]
@[simp] theorem setBucket_host (i : Nat) (b : Bucket) : (setBucket s i b).host = s.host := by rw [setBucket]
@[simp] theorem setBucket_img (i : Nat) (b : Bucket) : (setBucket s i b).img = s.img := by rw [setBucket]
@[simp] theorem setBucket_pwr (i : Nat) (b : Bucket) : (setBucket s i b).pwr = s.pwr := by rw [setBucket]
@[simp] theorem setBucket_nvc (i : Nat) (b : Bucket) : (setBucket s i b).nvc = s.nvc := by rw [setBucket]
@[simp] theorem setBucket_lcs (i : Nat) (b : Bucket) : (setBucket s i b).lcs = s.lcs := by rw [setBucket]
@[simp] theorem setBucket_wlt (i : Nat) (b : Bucket) : (setBucket s i b).wlt = s.wlt := by rw [setBucket]
@[simp] theorem setBucket_brg (i : Nat) (b : Bucket) : (setBucket s i b).brg = s.brg := by rw [setBucket]
@[simp] theorem setBucket_pcie (i : Nat) (b : Bucket) : (setBucket s i b).pcie = s.pcie := by rw [setBucket]
@[simp] theorem setBucket_dma (i : Nat) (b : Bucket) : (setBucket s i b).dma = s.dma := by rw [setBucket]
@[simp] theorem setBucket_spi (i : Nat) (b : Bucket) : (setBucket s i b).spi = s.spi := by rw [setBucket]
@[simp] theorem setBucket_seq (i : Nat) (b : Bucket) : (setBucket s i b).seq = s.seq := by rw [setBucket]
@[simp] theorem setBucket_can (i : Nat) (b : Bucket) : (setBucket s i b).can = s.can := by rw [setBucket]
@[simp] theorem setBucket_latch (i : Nat) (b : Bucket) : (setBucket s i b).latch = s.latch := by rw [setBucket]
@[simp] theorem setBucket_stage (i : Nat) (b : Bucket) : (setBucket s i b).stage = s.stage := by rw [setBucket]
@[simp] theorem setBucket_out (i : Nat) (b : Bucket) : (setBucket s i b).out = s.out := by rw [setBucket]
@[simp] theorem setBucket_now (i : Nat) (b : Bucket) : (setBucket s i b).now = s.now := by rw [setBucket]
@[simp] theorem setBucket_past (i : Nat) (b : Bucket) : (setBucket s i b).past = s.past := by rw [setBucket]
@[simp] theorem setBucket_pending (i : Nat) (b : Bucket) : (setBucket s i b).pending = s.pending := by rw [setBucket]

@[simp] theorem setFresh_cycle (n : Nat) (v : Nat × Nat) : (setFresh s n v).cycle = s.cycle := by rw [setFresh]
@[simp] theorem setFresh_regs (n : Nat) (v : Nat × Nat) : (setFresh s n v).regs = s.regs := by rw [setFresh]
@[simp] theorem setFresh_draws (n : Nat) (v : Nat × Nat) : (setFresh s n v).draws = s.draws := by rw [setFresh]
@[simp] theorem setFresh_rgl (n : Nat) (v : Nat × Nat) : (setFresh s n v).rgl = s.rgl := by rw [setFresh]
@[simp] theorem setFresh_drc (n : Nat) (v : Nat × Nat) : (setFresh s n v).drc = s.drc := by rw [setFresh]
@[simp] theorem setFresh_intg (n : Nat) (v : Nat × Nat) : (setFresh s n v).intg = s.intg := by rw [setFresh]
@[simp] theorem setFresh_spm (n : Nat) (v : Nat × Nat) : (setFresh s n v).spm = s.spm := by rw [setFresh]
@[simp] theorem setFresh_tca (n : Nat) (v : Nat × Nat) : (setFresh s n v).tca = s.tca := by rw [setFresh]
@[simp] theorem setFresh_hsh (n : Nat) (v : Nat × Nat) : (setFresh s n v).hsh = s.hsh := by rw [setFresh]
@[simp] theorem setFresh_way (n : Nat) (v : Nat × Nat) : (setFresh s n v).way = s.way := by rw [setFresh]
@[simp] theorem setFresh_lrn (n : Nat) (v : Nat × Nat) : (setFresh s n v).lrn = s.lrn := by rw [setFresh]
@[simp] theorem setFresh_age (n : Nat) (v : Nat × Nat) : (setFresh s n v).age = s.age := by rw [setFresh]
@[simp] theorem setFresh_tcr (n : Nat) (v : Nat × Nat) : (setFresh s n v).tcr = s.tcr := by rw [setFresh]
@[simp] theorem setFresh_cbl (n : Nat) (v : Nat × Nat) : (setFresh s n v).cbl = s.cbl := by rw [setFresh]
@[simp] theorem setFresh_tol (n : Nat) (v : Nat × Nat) : (setFresh s n v).tol = s.tol := by rw [setFresh]
@[simp] theorem setFresh_taps (n : Nat) (v : Nat × Nat) : (setFresh s n v).taps = s.taps := by rw [setFresh]
@[simp] theorem setFresh_mil (n : Nat) (v : Nat × Nat) : (setFresh s n v).mil = s.mil := by rw [setFresh]
@[simp] theorem setFresh_host (n : Nat) (v : Nat × Nat) : (setFresh s n v).host = s.host := by rw [setFresh]
@[simp] theorem setFresh_img (n : Nat) (v : Nat × Nat) : (setFresh s n v).img = s.img := by rw [setFresh]
@[simp] theorem setFresh_pwr (n : Nat) (v : Nat × Nat) : (setFresh s n v).pwr = s.pwr := by rw [setFresh]
@[simp] theorem setFresh_nvc (n : Nat) (v : Nat × Nat) : (setFresh s n v).nvc = s.nvc := by rw [setFresh]
@[simp] theorem setFresh_lcs (n : Nat) (v : Nat × Nat) : (setFresh s n v).lcs = s.lcs := by rw [setFresh]
@[simp] theorem setFresh_wlt (n : Nat) (v : Nat × Nat) : (setFresh s n v).wlt = s.wlt := by rw [setFresh]
@[simp] theorem setFresh_brg (n : Nat) (v : Nat × Nat) : (setFresh s n v).brg = s.brg := by rw [setFresh]
@[simp] theorem setFresh_pcie (n : Nat) (v : Nat × Nat) : (setFresh s n v).pcie = s.pcie := by rw [setFresh]
@[simp] theorem setFresh_dma (n : Nat) (v : Nat × Nat) : (setFresh s n v).dma = s.dma := by rw [setFresh]
@[simp] theorem setFresh_spi (n : Nat) (v : Nat × Nat) : (setFresh s n v).spi = s.spi := by rw [setFresh]
@[simp] theorem setFresh_seq (n : Nat) (v : Nat × Nat) : (setFresh s n v).seq = s.seq := by rw [setFresh]
@[simp] theorem setFresh_can (n : Nat) (v : Nat × Nat) : (setFresh s n v).can = s.can := by rw [setFresh]
@[simp] theorem setFresh_latch (n : Nat) (v : Nat × Nat) : (setFresh s n v).latch = s.latch := by rw [setFresh]
@[simp] theorem setFresh_stage (n : Nat) (v : Nat × Nat) : (setFresh s n v).stage = s.stage := by rw [setFresh]
@[simp] theorem setFresh_out (n : Nat) (v : Nat × Nat) : (setFresh s n v).out = s.out := by rw [setFresh]
@[simp] theorem setFresh_now (n : Nat) (v : Nat × Nat) : (setFresh s n v).now = s.now := by rw [setFresh]
@[simp] theorem setFresh_past (n : Nat) (v : Nat × Nat) : (setFresh s n v).past = s.past := by rw [setFresh]
@[simp] theorem setFresh_pending (n : Nat) (v : Nat × Nat) : (setFresh s n v).pending = s.pending := by rw [setFresh]

@[simp] theorem setRow_cycle (r : Nat) (x : TRow) : (setRow s r x).cycle = s.cycle := by rw [setRow]
@[simp] theorem setRow_regs (r : Nat) (x : TRow) : (setRow s r x).regs = s.regs := by rw [setRow]
@[simp] theorem setRow_draws (r : Nat) (x : TRow) : (setRow s r x).draws = s.draws := by rw [setRow]
@[simp] theorem setRow_rgl (r : Nat) (x : TRow) : (setRow s r x).rgl = s.rgl := by rw [setRow]
@[simp] theorem setRow_drc (r : Nat) (x : TRow) : (setRow s r x).drc = s.drc := by rw [setRow]
@[simp] theorem setRow_intg (r : Nat) (x : TRow) : (setRow s r x).intg = s.intg := by rw [setRow]
@[simp] theorem setRow_spm (r : Nat) (x : TRow) : (setRow s r x).spm = s.spm := by rw [setRow]
@[simp] theorem setRow_hsh (r : Nat) (x : TRow) : (setRow s r x).hsh = s.hsh := by rw [setRow]
@[simp] theorem setRow_way (r : Nat) (x : TRow) : (setRow s r x).way = s.way := by rw [setRow]
@[simp] theorem setRow_lrn (r : Nat) (x : TRow) : (setRow s r x).lrn = s.lrn := by rw [setRow]
@[simp] theorem setRow_age (r : Nat) (x : TRow) : (setRow s r x).age = s.age := by rw [setRow]
@[simp] theorem setRow_tcr (r : Nat) (x : TRow) : (setRow s r x).tcr = s.tcr := by rw [setRow]
@[simp] theorem setRow_vrd (r : Nat) (x : TRow) : (setRow s r x).vrd = s.vrd := by rw [setRow]
@[simp] theorem setRow_cbl (r : Nat) (x : TRow) : (setRow s r x).cbl = s.cbl := by rw [setRow]
@[simp] theorem setRow_tol (r : Nat) (x : TRow) : (setRow s r x).tol = s.tol := by rw [setRow]
@[simp] theorem setRow_taps (r : Nat) (x : TRow) : (setRow s r x).taps = s.taps := by rw [setRow]
@[simp] theorem setRow_mil (r : Nat) (x : TRow) : (setRow s r x).mil = s.mil := by rw [setRow]
@[simp] theorem setRow_host (r : Nat) (x : TRow) : (setRow s r x).host = s.host := by rw [setRow]
@[simp] theorem setRow_img (r : Nat) (x : TRow) : (setRow s r x).img = s.img := by rw [setRow]
@[simp] theorem setRow_pwr (r : Nat) (x : TRow) : (setRow s r x).pwr = s.pwr := by rw [setRow]
@[simp] theorem setRow_nvc (r : Nat) (x : TRow) : (setRow s r x).nvc = s.nvc := by rw [setRow]
@[simp] theorem setRow_lcs (r : Nat) (x : TRow) : (setRow s r x).lcs = s.lcs := by rw [setRow]
@[simp] theorem setRow_wlt (r : Nat) (x : TRow) : (setRow s r x).wlt = s.wlt := by rw [setRow]
@[simp] theorem setRow_brg (r : Nat) (x : TRow) : (setRow s r x).brg = s.brg := by rw [setRow]
@[simp] theorem setRow_pcie (r : Nat) (x : TRow) : (setRow s r x).pcie = s.pcie := by rw [setRow]
@[simp] theorem setRow_dma (r : Nat) (x : TRow) : (setRow s r x).dma = s.dma := by rw [setRow]
@[simp] theorem setRow_spi (r : Nat) (x : TRow) : (setRow s r x).spi = s.spi := by rw [setRow]
@[simp] theorem setRow_seq (r : Nat) (x : TRow) : (setRow s r x).seq = s.seq := by rw [setRow]
@[simp] theorem setRow_can (r : Nat) (x : TRow) : (setRow s r x).can = s.can := by rw [setRow]
@[simp] theorem setRow_latch (r : Nat) (x : TRow) : (setRow s r x).latch = s.latch := by rw [setRow]
@[simp] theorem setRow_stage (r : Nat) (x : TRow) : (setRow s r x).stage = s.stage := by rw [setRow]
@[simp] theorem setRow_out (r : Nat) (x : TRow) : (setRow s r x).out = s.out := by rw [setRow]
@[simp] theorem setRow_now (r : Nat) (x : TRow) : (setRow s r x).now = s.now := by rw [setRow]
@[simp] theorem setRow_past (r : Nat) (x : TRow) : (setRow s r x).past = s.past := by rw [setRow]
@[simp] theorem setRow_pending (r : Nat) (x : TRow) : (setRow s r x).pending = s.pending := by rw [setRow]

@[simp] theorem setKeySlot_cycle (k : Nat) (x : KeySlot) : (setKeySlot s k x).cycle = s.cycle := by rw [setKeySlot]
@[simp] theorem setKeySlot_regs (k : Nat) (x : KeySlot) : (setKeySlot s k x).regs = s.regs := by rw [setKeySlot]
@[simp] theorem setKeySlot_draws (k : Nat) (x : KeySlot) : (setKeySlot s k x).draws = s.draws := by rw [setKeySlot]
@[simp] theorem setKeySlot_rgl (k : Nat) (x : KeySlot) : (setKeySlot s k x).rgl = s.rgl := by rw [setKeySlot]
@[simp] theorem setKeySlot_drc (k : Nat) (x : KeySlot) : (setKeySlot s k x).drc = s.drc := by rw [setKeySlot]
@[simp] theorem setKeySlot_intg (k : Nat) (x : KeySlot) : (setKeySlot s k x).intg = s.intg := by rw [setKeySlot]
@[simp] theorem setKeySlot_spm (k : Nat) (x : KeySlot) : (setKeySlot s k x).spm = s.spm := by rw [setKeySlot]
@[simp] theorem setKeySlot_tca (k : Nat) (x : KeySlot) : (setKeySlot s k x).tca = s.tca := by rw [setKeySlot]
@[simp] theorem setKeySlot_hsh (k : Nat) (x : KeySlot) : (setKeySlot s k x).hsh = s.hsh := by rw [setKeySlot]
@[simp] theorem setKeySlot_way (k : Nat) (x : KeySlot) : (setKeySlot s k x).way = s.way := by rw [setKeySlot]
@[simp] theorem setKeySlot_lrn (k : Nat) (x : KeySlot) : (setKeySlot s k x).lrn = s.lrn := by rw [setKeySlot]
@[simp] theorem setKeySlot_age (k : Nat) (x : KeySlot) : (setKeySlot s k x).age = s.age := by rw [setKeySlot]
@[simp] theorem setKeySlot_tcr (k : Nat) (x : KeySlot) : (setKeySlot s k x).tcr = s.tcr := by rw [setKeySlot]
@[simp] theorem setKeySlot_vrd (k : Nat) (x : KeySlot) : (setKeySlot s k x).vrd = s.vrd := by rw [setKeySlot]
@[simp] theorem setKeySlot_cbl (k : Nat) (x : KeySlot) : (setKeySlot s k x).cbl = s.cbl := by rw [setKeySlot]
@[simp] theorem setKeySlot_tol (k : Nat) (x : KeySlot) : (setKeySlot s k x).tol = s.tol := by rw [setKeySlot]
@[simp] theorem setKeySlot_taps (k : Nat) (x : KeySlot) : (setKeySlot s k x).taps = s.taps := by rw [setKeySlot]
@[simp] theorem setKeySlot_mil (k : Nat) (x : KeySlot) : (setKeySlot s k x).mil = s.mil := by rw [setKeySlot]
@[simp] theorem setKeySlot_host (k : Nat) (x : KeySlot) : (setKeySlot s k x).host = s.host := by rw [setKeySlot]
@[simp] theorem setKeySlot_img (k : Nat) (x : KeySlot) : (setKeySlot s k x).img = s.img := by rw [setKeySlot]
@[simp] theorem setKeySlot_pwr (k : Nat) (x : KeySlot) : (setKeySlot s k x).pwr = s.pwr := by rw [setKeySlot]
@[simp] theorem setKeySlot_nvc (k : Nat) (x : KeySlot) : (setKeySlot s k x).nvc = s.nvc := by rw [setKeySlot]
@[simp] theorem setKeySlot_wlt (k : Nat) (x : KeySlot) : (setKeySlot s k x).wlt = s.wlt := by rw [setKeySlot]
@[simp] theorem setKeySlot_brg (k : Nat) (x : KeySlot) : (setKeySlot s k x).brg = s.brg := by rw [setKeySlot]
@[simp] theorem setKeySlot_pcie (k : Nat) (x : KeySlot) : (setKeySlot s k x).pcie = s.pcie := by rw [setKeySlot]
@[simp] theorem setKeySlot_dma (k : Nat) (x : KeySlot) : (setKeySlot s k x).dma = s.dma := by rw [setKeySlot]
@[simp] theorem setKeySlot_spi (k : Nat) (x : KeySlot) : (setKeySlot s k x).spi = s.spi := by rw [setKeySlot]
@[simp] theorem setKeySlot_seq (k : Nat) (x : KeySlot) : (setKeySlot s k x).seq = s.seq := by rw [setKeySlot]
@[simp] theorem setKeySlot_can (k : Nat) (x : KeySlot) : (setKeySlot s k x).can = s.can := by rw [setKeySlot]
@[simp] theorem setKeySlot_latch (k : Nat) (x : KeySlot) : (setKeySlot s k x).latch = s.latch := by rw [setKeySlot]
@[simp] theorem setKeySlot_stage (k : Nat) (x : KeySlot) : (setKeySlot s k x).stage = s.stage := by rw [setKeySlot]
@[simp] theorem setKeySlot_out (k : Nat) (x : KeySlot) : (setKeySlot s k x).out = s.out := by rw [setKeySlot]
@[simp] theorem setKeySlot_now (k : Nat) (x : KeySlot) : (setKeySlot s k x).now = s.now := by rw [setKeySlot]
@[simp] theorem setKeySlot_past (k : Nat) (x : KeySlot) : (setKeySlot s k x).past = s.past := by rw [setKeySlot]
@[simp] theorem setKeySlot_pending (k : Nat) (x : KeySlot) : (setKeySlot s k x).pending = s.pending := by rw [setKeySlot]

@[simp] theorem setRetire_cycle (i : Nat) (r : Option Retire) : (setRetire s i r).cycle = s.cycle := by rw [setRetire]
@[simp] theorem setRetire_regs (i : Nat) (r : Option Retire) : (setRetire s i r).regs = s.regs := by rw [setRetire]
@[simp] theorem setRetire_draws (i : Nat) (r : Option Retire) : (setRetire s i r).draws = s.draws := by rw [setRetire]
@[simp] theorem setRetire_rgl (i : Nat) (r : Option Retire) : (setRetire s i r).rgl = s.rgl := by rw [setRetire]
@[simp] theorem setRetire_drc (i : Nat) (r : Option Retire) : (setRetire s i r).drc = s.drc := by rw [setRetire]
@[simp] theorem setRetire_spm (i : Nat) (r : Option Retire) : (setRetire s i r).spm = s.spm := by rw [setRetire]
@[simp] theorem setRetire_tca (i : Nat) (r : Option Retire) : (setRetire s i r).tca = s.tca := by rw [setRetire]
@[simp] theorem setRetire_hsh (i : Nat) (r : Option Retire) : (setRetire s i r).hsh = s.hsh := by rw [setRetire]
@[simp] theorem setRetire_way (i : Nat) (r : Option Retire) : (setRetire s i r).way = s.way := by rw [setRetire]
@[simp] theorem setRetire_lrn (i : Nat) (r : Option Retire) : (setRetire s i r).lrn = s.lrn := by rw [setRetire]
@[simp] theorem setRetire_age (i : Nat) (r : Option Retire) : (setRetire s i r).age = s.age := by rw [setRetire]
@[simp] theorem setRetire_tcr (i : Nat) (r : Option Retire) : (setRetire s i r).tcr = s.tcr := by rw [setRetire]
@[simp] theorem setRetire_vrd (i : Nat) (r : Option Retire) : (setRetire s i r).vrd = s.vrd := by rw [setRetire]
@[simp] theorem setRetire_cbl (i : Nat) (r : Option Retire) : (setRetire s i r).cbl = s.cbl := by rw [setRetire]
@[simp] theorem setRetire_tol (i : Nat) (r : Option Retire) : (setRetire s i r).tol = s.tol := by rw [setRetire]
@[simp] theorem setRetire_taps (i : Nat) (r : Option Retire) : (setRetire s i r).taps = s.taps := by rw [setRetire]
@[simp] theorem setRetire_mil (i : Nat) (r : Option Retire) : (setRetire s i r).mil = s.mil := by rw [setRetire]
@[simp] theorem setRetire_host (i : Nat) (r : Option Retire) : (setRetire s i r).host = s.host := by rw [setRetire]
@[simp] theorem setRetire_img (i : Nat) (r : Option Retire) : (setRetire s i r).img = s.img := by rw [setRetire]
@[simp] theorem setRetire_pwr (i : Nat) (r : Option Retire) : (setRetire s i r).pwr = s.pwr := by rw [setRetire]
@[simp] theorem setRetire_nvc (i : Nat) (r : Option Retire) : (setRetire s i r).nvc = s.nvc := by rw [setRetire]
@[simp] theorem setRetire_lcs (i : Nat) (r : Option Retire) : (setRetire s i r).lcs = s.lcs := by rw [setRetire]
@[simp] theorem setRetire_wlt (i : Nat) (r : Option Retire) : (setRetire s i r).wlt = s.wlt := by rw [setRetire]
@[simp] theorem setRetire_brg (i : Nat) (r : Option Retire) : (setRetire s i r).brg = s.brg := by rw [setRetire]
@[simp] theorem setRetire_pcie (i : Nat) (r : Option Retire) : (setRetire s i r).pcie = s.pcie := by rw [setRetire]
@[simp] theorem setRetire_dma (i : Nat) (r : Option Retire) : (setRetire s i r).dma = s.dma := by rw [setRetire]
@[simp] theorem setRetire_spi (i : Nat) (r : Option Retire) : (setRetire s i r).spi = s.spi := by rw [setRetire]
@[simp] theorem setRetire_seq (i : Nat) (r : Option Retire) : (setRetire s i r).seq = s.seq := by rw [setRetire]
@[simp] theorem setRetire_can (i : Nat) (r : Option Retire) : (setRetire s i r).can = s.can := by rw [setRetire]
@[simp] theorem setRetire_latch (i : Nat) (r : Option Retire) : (setRetire s i r).latch = s.latch := by rw [setRetire]
@[simp] theorem setRetire_stage (i : Nat) (r : Option Retire) : (setRetire s i r).stage = s.stage := by rw [setRetire]
@[simp] theorem setRetire_out (i : Nat) (r : Option Retire) : (setRetire s i r).out = s.out := by rw [setRetire]
@[simp] theorem setRetire_now (i : Nat) (r : Option Retire) : (setRetire s i r).now = s.now := by rw [setRetire]
@[simp] theorem setRetire_past (i : Nat) (r : Option Retire) : (setRetire s i r).past = s.past := by rw [setRetire]
@[simp] theorem setRetire_pending (i : Nat) (r : Option Retire) : (setRetire s i r).pending = s.pending := by rw [setRetire]

@[simp] theorem setInput_cycle (id : Nat) (i : Option (List Byte)) (u : Bool) : (setInput s id i u).cycle = s.cycle := by rw [setInput]
@[simp] theorem setInput_regs (id : Nat) (i : Option (List Byte)) (u : Bool) : (setInput s id i u).regs = s.regs := by rw [setInput]
@[simp] theorem setInput_draws (id : Nat) (i : Option (List Byte)) (u : Bool) : (setInput s id i u).draws = s.draws := by rw [setInput]
@[simp] theorem setInput_rgl (id : Nat) (i : Option (List Byte)) (u : Bool) : (setInput s id i u).rgl = s.rgl := by rw [setInput]
@[simp] theorem setInput_drc (id : Nat) (i : Option (List Byte)) (u : Bool) : (setInput s id i u).drc = s.drc := by rw [setInput]
@[simp] theorem setInput_intg (id : Nat) (i : Option (List Byte)) (u : Bool) : (setInput s id i u).intg = s.intg := by rw [setInput]
@[simp] theorem setInput_spm (id : Nat) (i : Option (List Byte)) (u : Bool) : (setInput s id i u).spm = s.spm := by rw [setInput]
@[simp] theorem setInput_tca (id : Nat) (i : Option (List Byte)) (u : Bool) : (setInput s id i u).tca = s.tca := by rw [setInput]
@[simp] theorem setInput_hsh (id : Nat) (i : Option (List Byte)) (u : Bool) : (setInput s id i u).hsh = s.hsh := by rw [setInput]
@[simp] theorem setInput_way (id : Nat) (i : Option (List Byte)) (u : Bool) : (setInput s id i u).way = s.way := by rw [setInput]
@[simp] theorem setInput_lrn (id : Nat) (i : Option (List Byte)) (u : Bool) : (setInput s id i u).lrn = s.lrn := by rw [setInput]
@[simp] theorem setInput_age (id : Nat) (i : Option (List Byte)) (u : Bool) : (setInput s id i u).age = s.age := by rw [setInput]
@[simp] theorem setInput_vrd (id : Nat) (i : Option (List Byte)) (u : Bool) : (setInput s id i u).vrd = s.vrd := by rw [setInput]
@[simp] theorem setInput_cbl (id : Nat) (i : Option (List Byte)) (u : Bool) : (setInput s id i u).cbl = s.cbl := by rw [setInput]
@[simp] theorem setInput_tol (id : Nat) (i : Option (List Byte)) (u : Bool) : (setInput s id i u).tol = s.tol := by rw [setInput]
@[simp] theorem setInput_taps (id : Nat) (i : Option (List Byte)) (u : Bool) : (setInput s id i u).taps = s.taps := by rw [setInput]
@[simp] theorem setInput_mil (id : Nat) (i : Option (List Byte)) (u : Bool) : (setInput s id i u).mil = s.mil := by rw [setInput]
@[simp] theorem setInput_host (id : Nat) (i : Option (List Byte)) (u : Bool) : (setInput s id i u).host = s.host := by rw [setInput]
@[simp] theorem setInput_img (id : Nat) (i : Option (List Byte)) (u : Bool) : (setInput s id i u).img = s.img := by rw [setInput]
@[simp] theorem setInput_pwr (id : Nat) (i : Option (List Byte)) (u : Bool) : (setInput s id i u).pwr = s.pwr := by rw [setInput]
@[simp] theorem setInput_nvc (id : Nat) (i : Option (List Byte)) (u : Bool) : (setInput s id i u).nvc = s.nvc := by rw [setInput]
@[simp] theorem setInput_lcs (id : Nat) (i : Option (List Byte)) (u : Bool) : (setInput s id i u).lcs = s.lcs := by rw [setInput]
@[simp] theorem setInput_wlt (id : Nat) (i : Option (List Byte)) (u : Bool) : (setInput s id i u).wlt = s.wlt := by rw [setInput]
@[simp] theorem setInput_brg (id : Nat) (i : Option (List Byte)) (u : Bool) : (setInput s id i u).brg = s.brg := by rw [setInput]
@[simp] theorem setInput_pcie (id : Nat) (i : Option (List Byte)) (u : Bool) : (setInput s id i u).pcie = s.pcie := by rw [setInput]
@[simp] theorem setInput_dma (id : Nat) (i : Option (List Byte)) (u : Bool) : (setInput s id i u).dma = s.dma := by rw [setInput]
@[simp] theorem setInput_spi (id : Nat) (i : Option (List Byte)) (u : Bool) : (setInput s id i u).spi = s.spi := by rw [setInput]
@[simp] theorem setInput_seq (id : Nat) (i : Option (List Byte)) (u : Bool) : (setInput s id i u).seq = s.seq := by rw [setInput]
@[simp] theorem setInput_can (id : Nat) (i : Option (List Byte)) (u : Bool) : (setInput s id i u).can = s.can := by rw [setInput]
@[simp] theorem setInput_latch (id : Nat) (i : Option (List Byte)) (u : Bool) : (setInput s id i u).latch = s.latch := by rw [setInput]
@[simp] theorem setInput_stage (id : Nat) (i : Option (List Byte)) (u : Bool) : (setInput s id i u).stage = s.stage := by rw [setInput]
@[simp] theorem setInput_out (id : Nat) (i : Option (List Byte)) (u : Bool) : (setInput s id i u).out = s.out := by rw [setInput]
@[simp] theorem setInput_now (id : Nat) (i : Option (List Byte)) (u : Bool) : (setInput s id i u).now = s.now := by rw [setInput]
@[simp] theorem setInput_past (id : Nat) (i : Option (List Byte)) (u : Bool) : (setInput s id i u).past = s.past := by rw [setInput]
@[simp] theorem setInput_pending (id : Nat) (i : Option (List Byte)) (u : Bool) : (setInput s id i u).pending = s.pending := by rw [setInput]

end Sys2Proof.Machine
end

