-- ==== Sys2Proof/Laws/Ops.lean ====
section
/-!
SUPPORT. The register file and the byte memories: reads after writes, and the canonical form that every operation keeps.
-/
namespace Sys2Proof.Machine

variable (s : State)

/-- A register just written reads its value, modulo the register's 64 bits. -/
@[simp] theorem rd_wr_same (o v : Nat) : rd (wr s o v) o = v % 2 ^ 64 := by
  rw [rd, wr]
  simp

/-- A write leaves every other register alone. -/
theorem rd_wr_ne {o p : Nat} (v : Nat) (h : p ≠ o) : rd (wr s o v) p = rd s p := by
  rw [rd, rd, wr]
  dsimp only
  rw [KMap.get_set_ne _ _ _ h]

/-- The same for a read whose default is zero. -/
theorem rd0_wr_ne {o p : Nat} (v : Nat) (h : p ≠ o) : rd0 (wr s o v) p = rd0 s p := by
  rw [rd0, rd0, wr]
  dsimp only
  rw [KMap.get_set_ne' _ _ _ h]

/-- A register whose value is the same in two states reads the same. -/
theorem rd_congr {s t : State} (h : t.regs = s.regs) (o : Nat) : rd t o = rd s o := by rw [rd, rd, h]

theorem rd0_congr {s t : State} (h : t.regs = s.regs) (o : Nat) : rd0 t o = rd0 s o := by rw [rd0, rd0, h]

/-- A register holds at most 64 bits. -/
theorem rd_lt (o : Nat) : rd s o < 2 ^ 64 := by
  rw [rd]
  exact BitVec.isLt _

theorem rd_fput_ne {o p : Nat} (hi lo v : Nat) (h : p ≠ o) : rd (fput s o hi lo v) p = rd s p := by
  rw [fput, rd_wr_ne _ _ h]

/-- An event latched is its bit set. -/
theorem rd_setEvt (o b p : Nat) : rd (setEvt s o b) p = rd (fput s o b b 1) p := rfl

theorem rd_setEvt_ne {o p : Nat} (b : Nat) (h : p ≠ o) : rd (setEvt s o b) p = rd s p := by
  rw [rd_setEvt, rd_fput_ne _ _ _ _ h]

theorem rd_bump_ne {o p : Nat} (n : Nat) (h : p ≠ o) : rd (bump s o n) p = rd s p := by
  rw [bump, rd_wr_ne _ _ h]

/-- A counter just raised reads the sum modulo 2⁴⁸ (R13). -/
@[simp] theorem rd_bump_same (o n : Nat) : rd (bump s o n) o = (rd s o + n) % 2 ^ 48 := by
  rw [bump, rd_wr_same]
  omega

theorem rd0_bump_ne {o p : Nat} (n : Nat) (h : p ≠ o) : rd0 (bump s o n) p = rd0 s p := by
  rw [bump, rd0_wr_ne _ _ h]

/-- The field a `fput` wrote, for a value that fits. -/
theorem rd_fput_same (o hi lo v : Nat) : rd (fput s o hi lo v) o = putBits (rd s o) hi lo v % 2 ^ 64 := by
  rw [fput, rd_wr_same]

/-- A write of the register file keeps its canonical form. -/
theorem regsWf_wr {s : State} (o v : Nat) (h : KMap.wf regDefault s.regs) : KMap.wf regDefault (wr s o v).regs := by
  rw [wr]
  exact KMap.wf_set _ _ _ h

/-- A byte just written reads back. -/
@[simp] theorem memByte_memPut_same (m : List Host.Cell) (a : Nat) (b : Byte) : memByte (memPut m a b) a = b := by
  rw [memByte, memPut]
  simp

/-- A byte write leaves every other address alone. -/
theorem memByte_memPut_ne (m : List Host.Cell) {a c : Nat} (b : Byte) (h : c ≠ a) : memByte (memPut m a b) c = memByte m c := by
  rw [memByte, memByte, memPut, KMap.get_set_ne _ _ _ h]

/-- A byte write keeps the canonical form. -/
theorem memory_wf_memPut {m : List Host.Cell} (a : Nat) (b : Byte) (h : Memory.wf m) : Memory.wf (memPut m a b) :=
  KMap.wf_set _ _ _ h

/-- A write of bytes keeps the canonical form. -/
theorem memory_wf_memPuts {m : List Host.Cell} (a : Nat) (bs : List Byte) (h : Memory.wf m) : Memory.wf (memPuts m a bs) := by
  induction bs generalizing m a with
  | nil => exact h
  | cons b t ih => exact ih (a + 1) (memory_wf_memPut a b h)

/-- Clearing a range keeps the canonical form. -/
theorem memory_wf_filter {m : List Host.Cell} (p : Host.Cell → Bool) (h : Memory.wf m) : Memory.wf (m.filter p) :=
  KMap.wf_filter _ p h

/-- A write of bytes leaves every address outside them alone. -/
theorem memByte_memPuts_out (m : List Host.Cell) (a : Nat) (bs : List Byte) {c : Nat} (h : c < a ∨ a + bs.length ≤ c) :
    memByte (memPuts m a bs) c = memByte m c := by
  induction bs generalizing m a with
  | nil => rfl
  | cons b t ih =>
    rw [memPuts, ih]
    · exact memByte_memPut_ne m b (by simp at h; omega)
    · simp at h
      omega

/-- Bytes written read back. -/
theorem memByte_memPuts_in (m : List Host.Cell) (a : Nat) (bs : List Byte) {i : Nat} (h : i < bs.length) :
    memByte (memPuts m a bs) (a + i) = bs[i] := by
  induction bs generalizing m a i with
  | nil => simp at h
  | cons b t ih =>
    cases i with
    | zero =>
      rw [memPuts, memByte_memPuts_out _ _ _ (by left; omega)]
      simp
    | succ j =>
      have hj : j < t.length := by simpa using h
      have := ih (memPut m a b) (a + 1) hj
      rw [memPuts]
      simpa [Nat.add_assoc, Nat.add_comm 1 j] using this

theorem memBytes_succ (m : List Host.Cell) (a n : Nat) : memBytes m a (n + 1) = memByte m a :: memBytes m (a + 1) n := by
  simp [memBytes, List.range_succ_eq_map, Function.comp_def, Nat.add_assoc, Nat.add_comm 1]

/-- Bytes just written read back, as many as are asked for. -/
theorem memBytes_memPuts (m : List Host.Cell) (a : Nat) (bs : List Byte) {n : Nat} (h : n ≤ bs.length) :
    memBytes (memPuts m a bs) a n = bs.take n := by
  apply List.ext_getElem
  · simp [memBytes, h]
  · intro i h1 h2
    simp only [memBytes, List.length_map, List.length_range] at h1
    simp [memBytes, memByte_memPuts_in m a bs (show i < bs.length by omega)]

/-- The reset memories are in the canonical form. -/
theorem reset_memories_wf : Memory.wf State.reset.spm.mem ∧ Memory.wf State.reset.drc.mem ∧ Memory.wf State.reset.nvc.mem := by
  decide

end Sys2Proof.Machine
end

