-- ==== Sys2Proof/Laws/Bits.lean ====
section
/-!
SUPPORT. Bit fields: what a field reads after it, or another, was put; and the same for the fields of registers.
-/
namespace Sys2Proof.Machine

theorem bitOf_eq_testBit (v i : Nat) : bitOf v i = v.testBit i := by
  rw [bitOf, Nat.testBit_eq_decide_div_mod_eq, Nat.shiftRight_eq_div_pow]

theorem bitsOf_eq (v hi lo : Nat) : bitsOf v hi lo = v / 2 ^ lo % 2 ^ (hi + 1 - lo) := by
  rw [bitsOf, Nat.shiftRight_eq_div_pow]

/-- The three parts of a number whose bits [hi:lo] were put. -/
theorem putBits_eq (v hi lo x : Nat) (h : lo ≤ hi) :
    putBits v hi lo x = 2 ^ lo * (2 ^ (hi + 1 - lo) * (v / 2 ^ (hi + 1)) + x % 2 ^ (hi + 1 - lo)) + v % 2 ^ lo := by
  have e : 2 ^ (hi + 1) = 2 ^ lo * 2 ^ (hi + 1 - lo) := by
    rw [← pow_add]
    congr 1
    omega
  rw [putBits, Nat.shiftRight_eq_div_pow, Nat.shiftLeft_eq, Nat.shiftLeft_eq]
  conv_lhs => rw [e]
  conv_rhs => rw [e]
  ring

/-- Each bit of a number whose bits [hi:lo] were put. -/
theorem testBit_putBits (v hi lo x i : Nat) (h : lo ≤ hi) :
    (putBits v hi lo x).testBit i = if lo ≤ i ∧ i ≤ hi then x.testBit (i - lo) else v.testBit i := by
  have hm : v % 2 ^ lo < 2 ^ lo := Nat.mod_lt _ (by positivity)
  have hx : x % 2 ^ (hi + 1 - lo) < 2 ^ (hi + 1 - lo) := Nat.mod_lt _ (by positivity)
  rw [putBits_eq v hi lo x h, Nat.testBit_two_pow_mul_add _ hm]
  by_cases h1 : i < lo
  · rw [if_pos h1, if_neg (by omega), Nat.testBit_mod_two_pow]
    simp [h1]
  · rw [if_neg h1, Nat.testBit_two_pow_mul_add _ hx]
    by_cases h2 : i ≤ hi
    · rw [if_pos (by omega), if_pos (by omega), Nat.testBit_mod_two_pow]
      have : i - lo < hi + 1 - lo := by omega
      simp [this]
    · rw [if_neg (by omega), if_neg (by omega), Nat.testBit_div_two_pow]
      congr 1
      omega

/-- A field just put reads its value, modulo the field's width. -/
@[simp] theorem bitsOf_putBits_same (v hi lo x : Nat) (h : lo ≤ hi) :
    bitsOf (putBits v hi lo x) hi lo = x % 2 ^ (hi + 1 - lo) := by
  have hm : v % 2 ^ lo < 2 ^ lo := Nat.mod_lt _ (by positivity)
  rw [bitsOf_eq, putBits_eq v hi lo x h, Nat.mul_add_div (by positivity), Nat.div_eq_of_lt hm, Nat.add_zero,
    Nat.mul_add_mod, Nat.mod_mod]

/-- A field that shares no bit with the one put is unchanged. -/
theorem bitsOf_putBits_apart (v hi lo x hi' lo' : Nat) (h : lo ≤ hi) (ha : hi' < lo ∨ hi < lo') :
    bitsOf (putBits v hi lo x) hi' lo' = bitsOf v hi' lo' := by
  apply Nat.eq_of_testBit_eq
  intro i
  rw [bitsOf_eq, bitsOf_eq, Nat.testBit_mod_two_pow, Nat.testBit_mod_two_pow, Nat.testBit_div_two_pow,
    Nat.testBit_div_two_pow, testBit_putBits _ _ _ _ _ h]
  by_cases hi1 : i < hi' + 1 - lo'
  · rw [if_neg (by omega)]
  · simp [hi1]

theorem bitOf_putBits (v hi lo x i : Nat) (h : lo ≤ hi) :
    bitOf (putBits v hi lo x) i = if lo ≤ i ∧ i ≤ hi then bitOf x (i - lo) else bitOf v i := by
  rw [bitOf_eq_testBit, bitOf_eq_testBit, bitOf_eq_testBit, testBit_putBits _ _ _ _ _ h]

/-- A number of n bits keeps them when a field below n is put. -/
theorem putBits_lt {v hi lo x n : Nat} (h : lo ≤ hi) (hn : hi < n) (hv : v < 2 ^ n) : putBits v hi lo x < 2 ^ n := by
  apply Nat.lt_pow_two_of_testBit
  intro i hi1
  rw [testBit_putBits _ _ _ _ _ h, if_neg (by omega)]
  exact Nat.testBit_eq_false_of_lt (lt_of_lt_of_le hv (Nat.pow_le_pow_right (by omega) hi1))

variable (s : State)

/-- A register after one of its fields was put. -/
theorem rd_fput (o hi lo v : Nat) (h : lo ≤ hi) (hn : hi < 64) : rd (fput s o hi lo v) o = putBits (rd s o) hi lo v := by
  rw [rd_fput_same, Nat.mod_eq_of_lt (putBits_lt h hn (rd_lt s o))]

/-- The field just put. -/
theorem fget_fput_same (o hi lo v : Nat) (h : lo ≤ hi) (hn : hi < 64) :
    fget (fput s o hi lo v) o hi lo = v % 2 ^ (hi + 1 - lo) := by
  rw [fget, rd_fput _ _ _ _ _ h hn, bitsOf_putBits_same _ _ _ _ h]

/-- Another field of the same register. -/
theorem fget_fput_apart (o hi lo v hi' lo' : Nat) (h : lo ≤ hi) (hn : hi < 64) (ha : hi' < lo ∨ hi < lo') :
    fget (fput s o hi lo v) o hi' lo' = fget s o hi' lo' := by
  rw [fget, fget, rd_fput _ _ _ _ _ h hn, bitsOf_putBits_apart _ _ _ _ _ _ h ha]

/-- A latched event bit reads 1 (R11). -/
theorem flag_setEvt_same (o b : Nat) (hb : b < 64) : flag (setEvt s o b) o b = true := by
  rw [flag, rd_setEvt, rd_fput _ _ _ _ _ (le_refl b) hb, bitOf_putBits _ _ _ _ _ (le_refl b)]
  simp [bitOf]

/-- Latching one event leaves the other bits of the register alone. -/
theorem flag_setEvt_ne (o : Nat) {b c : Nat} (hb : b < 64) (h : c ≠ b) : flag (setEvt s o b) o c = flag s o c := by
  rw [flag, flag, rd_setEvt, rd_fput _ _ _ _ _ (le_refl b) hb, bitOf_putBits _ _ _ _ _ (le_refl b), if_neg (by omega)]

end Sys2Proof.Machine
end

