-- ==== Sys2Proof/Laws/Frame.lean ====
section
/-!
SUPPORT. Frames: how they chain, and what the end of a command can touch: the look at the interrupt causes sends messages
and nothing else (R461).
-/
namespace Sys2Proof.Machine

variable {s t u : State}

theorem Only.refl (us : List UnitName) (rs : List Nat) (s : State) : Only us rs s s :=
  ⟨fun x _ => by cases x <;> rfl, fun _ _ _ => rfl, fun _ => ⟨rfl, rfl, rfl, rfl, rfl, rfl, rfl⟩⟩

theorem UnitName.same_trans (x : UnitName) (h : x.same s t) (k : x.same t u) : x.same s u := by
  cases x <;> exact Eq.trans k h

theorem Only.trans {us vs : List UnitName} {rs qs : List Nat} (h : Only us rs s t) (k : Only vs qs t u) :
    Only (us ++ vs) (rs ++ qs) s u := by
  refine ⟨fun x hx => ?_, fun o ho hn => ?_, fun f => ?_⟩
  · rw [List.mem_append, not_or] at hx
    exact x.same_trans (h.1 x hx.1) (k.1 x hx.2)
  · rw [List.mem_append, not_or] at hn
    rw [k.2.1 o ho hn.2, h.2.1 o ho hn.1]
  · obtain ⟨a1, a2, a3, a4, a5, a6, a7⟩ := h.2.2 f
    obtain ⟨b1, b2, b3, b4, b5, b6, b7⟩ := k.2.2 f
    exact ⟨b1.trans a1, b2.trans a2, b3.trans a3, b4.trans a4, b5.trans a5, b6.trans a6, b7.trans a7⟩

theorem Only.mono {us vs : List UnitName} {rs qs : List Nat} (h : Only us rs s t) (hu : us ⊆ vs) (hr : rs ⊆ qs) :
    Only vs qs s t :=
  ⟨fun x hx => h.1 x (fun e => hx (hu e)), fun o ho hn => h.2.1 o ho (fun e => hn (hr e)), h.2.2⟩

/-- Setting a port's pending bits, active vectors or held requests is no more than a message may do. -/
theorem only_setPcie (f : Nat) (x : Pcie) (h1 : x.up = (pcie s f).up) (h2 : x.command = (pcie s f).command)
    (h3 : x.devCtl = (pcie s f).devCtl) (h4 : x.devCtl2 = (pcie s f).devCtl2) (h5 : x.bar0 = (pcie s f).bar0)
    (h6 : x.msixCtl = (pcie s f).msixCtl) (h7 : x.table = (pcie s f).table) : Only [] [] s (setPcie s f x) := by
  refine ⟨fun y _ => by cases y <;> simp [UnitName.same], fun o _ _ => rd_congr (by simp) o, fun g => ?_⟩
  by_cases hg : g = f
  · subst hg; simp [pcie, setPcie] at *; simp [*]
  · simp [pcie, setPcie, KMap.get_set_ne _ _ _ hg]

/-- Sending a message touches nothing but ports, outputs and the counters of sent requests. -/
def Quiet (s t : State) : Prop := Only [] [] s t ∧ t.cycle = s.cycle ∧ t.pending = s.pending

theorem Quiet.refl (s : State) : Quiet s s := ⟨Only.refl _ _ s, rfl, rfl⟩

theorem Quiet.trans (h : Quiet s t) (k : Quiet t u) : Quiet s u :=
  ⟨h.1.trans k.1, k.2.1.trans h.2.1, k.2.2.trans h.2.2⟩

theorem quiet_foldl {α : Type} (g : State → α → State) (h : ∀ t a, Quiet t (g t a)) (l : List α) (s : State) :
    Quiet s (l.foldl g s) := by
  induction l generalizing s with
  | nil => exact Quiet.refl s
  | cons a l ih => exact (h s a).trans (ih _)

theorem quiet_hostSend (s : State) (f : Nat) (hf : f < 2) (o : Out) : Quiet s (hostSend s f o) := by
  unfold hostSend
  simp only
  split
  · refine ⟨⟨fun y _ => by cases y <;> simp [UnitName.same], fun p hp _ => ?_, fun g => by simp [pcie]⟩, by simp, by simp⟩
    rw [rd_bump_ne _ _]
    · exact rd_congr rfl p
    · intro e
      apply hp
      have : f = 0 ∨ f = 1 := by omega
      rcases this with rfl | rfl <;> simp [msgRegs, e]
  · exact ⟨only_setPcie f _ rfl rfl rfl rfl rfl rfl rfl, by simp, by simp⟩

theorem quiet_wantMsix (s : State) (f : Nat) (hf : f < 2) (v : Nat) : Quiet s (wantMsix s f v) := by
  unfold wantMsix
  simp only
  split
  · exact Quiet.refl s
  · split
    · exact ⟨only_setPcie f _ rfl rfl rfl rfl rfl rfl rfl, by simp, by simp⟩
    · exact quiet_hostSend s f hf _

theorem quiet_msixLook (s : State) (f : Nat) (hf : f < 2) (sum : Nat) : Quiet s (msixLook s f sum) := by
  unfold msixLook
  simp only
  split
  · exact Quiet.refl s
  · refine Quiet.trans ?_ (quiet_foldl _ (fun t v => quiet_wantMsix t f hf v) _ _)
    exact ⟨only_setPcie f _ rfl rfl rfl rfl rfl rfl rfl, by simp, by simp⟩

/-- The look at the interrupt causes at the end of a command sends messages and nothing else (R461). -/
theorem quiet_settle (s : State) : Quiet s (settle s) :=
  (quiet_msixLook s 0 (by decide) _).trans (quiet_msixLook _ 1 (by decide) _)

/-- Keeping a time base touches nothing but what is kept. -/
theorem quiet_notePast (s t : State) (i : Int) : Quiet t (notePast s t i) := by
  unfold notePast
  split
  · exact Quiet.refl t
  · exact ⟨⟨fun y _ => by cases y <;> rfl, fun _ _ _ => rfl, fun _ => ⟨rfl, rfl, rfl, rfl, rfl, rfl, rfl⟩⟩, rfl, rfl⟩

/-- The end of a command keeps the queue and the clock. -/
theorem finish_pending (s t : State) : (finish s t).pending = s.pending := by
  rw [finish, (quiet_notePast _ _ _).2.2, (quiet_settle _).2.2]

theorem finish_cycle (s t : State) : (finish s t).cycle = s.cycle := by
  rw [finish, (quiet_notePast _ _ _).2.1, (quiet_settle _).2.1]

/-- The end of a command changes nothing else of what the command made. -/
theorem only_finish (s t : State) : Only [] [] t (finish s t) := by
  have h := ((quiet_settle { t with
    pending := s.pending
    cycle := s.cycle }).trans (quiet_notePast s _ 0)).1
  refine ⟨fun y hy => ?_, fun o ho hn => ?_, h.2.2⟩
  · have := h.1 y hy
    cases y <;> exact this
  · exact h.2.1 o ho hn

@[simp] theorem finish_draws (s t : State) : (finish s t).draws = t.draws := (only_finish s t).1 .draws (by simp)
@[simp] theorem finish_rgl (s t : State) : (finish s t).rgl = t.rgl := (only_finish s t).1 .rgl (by simp)
@[simp] theorem finish_drc (s t : State) : (finish s t).drc = t.drc := (only_finish s t).1 .drc (by simp)
@[simp] theorem finish_intg (s t : State) : (finish s t).intg = t.intg := (only_finish s t).1 .intg (by simp)
@[simp] theorem finish_spm (s t : State) : (finish s t).spm = t.spm := (only_finish s t).1 .spm (by simp)
@[simp] theorem finish_tca (s t : State) : (finish s t).tca = t.tca := (only_finish s t).1 .tca (by simp)
@[simp] theorem finish_hsh (s t : State) : (finish s t).hsh = t.hsh := (only_finish s t).1 .hsh (by simp)
@[simp] theorem finish_way (s t : State) : (finish s t).way = t.way := (only_finish s t).1 .way (by simp)
@[simp] theorem finish_lrn (s t : State) : (finish s t).lrn = t.lrn := (only_finish s t).1 .lrn (by simp)
@[simp] theorem finish_age (s t : State) : (finish s t).age = t.age := (only_finish s t).1 .age (by simp)
@[simp] theorem finish_tcr (s t : State) : (finish s t).tcr = t.tcr := (only_finish s t).1 .tcr (by simp)
@[simp] theorem finish_vrd (s t : State) : (finish s t).vrd = t.vrd := (only_finish s t).1 .vrd (by simp)
@[simp] theorem finish_cbl (s t : State) : (finish s t).cbl = t.cbl := (only_finish s t).1 .cbl (by simp)
@[simp] theorem finish_tol (s t : State) : (finish s t).tol = t.tol := (only_finish s t).1 .tol (by simp)
@[simp] theorem finish_taps (s t : State) : (finish s t).taps = t.taps := (only_finish s t).1 .taps (by simp)
@[simp] theorem finish_mil (s t : State) : (finish s t).mil = t.mil := (only_finish s t).1 .mil (by simp)
@[simp] theorem finish_host (s t : State) : (finish s t).host = t.host := (only_finish s t).1 .host (by simp)
@[simp] theorem finish_img (s t : State) : (finish s t).img = t.img := (only_finish s t).1 .img (by simp)
@[simp] theorem finish_pwr (s t : State) : (finish s t).pwr = t.pwr := (only_finish s t).1 .pwr (by simp)
@[simp] theorem finish_nvc (s t : State) : (finish s t).nvc = t.nvc := (only_finish s t).1 .nvc (by simp)
@[simp] theorem finish_lcs (s t : State) : (finish s t).lcs = t.lcs := (only_finish s t).1 .lcs (by simp)
@[simp] theorem finish_wlt (s t : State) : (finish s t).wlt = t.wlt := (only_finish s t).1 .wlt (by simp)
@[simp] theorem finish_brg (s t : State) : (finish s t).brg = t.brg := (only_finish s t).1 .brg (by simp)
@[simp] theorem finish_dma (s t : State) : (finish s t).dma = t.dma := (only_finish s t).1 .dma (by simp)
@[simp] theorem finish_spi (s t : State) : (finish s t).spi = t.spi := (only_finish s t).1 .spi (by simp)
@[simp] theorem finish_seq (s t : State) : (finish s t).seq = t.seq := (only_finish s t).1 .seq (by simp)
@[simp] theorem finish_can (s t : State) : (finish s t).can = t.can := (only_finish s t).1 .can (by simp)
@[simp] theorem finish_latch (s t : State) : (finish s t).latch = t.latch := (only_finish s t).1 .latch (by simp)
@[simp] theorem finish_stage (s t : State) : (finish s t).stage = t.stage := (only_finish s t).1 .stage (by simp)

theorem rd_finish {o : Nat} (s t : State) (h : o ∉ msgRegs) : rd (finish s t) o = rd t o :=
  (only_finish s t).2.1 o h (by simp)

/-- What a named operation can touch, as a frame. -/
theorem only_wr (s : State) (o v : Nat) : Only [] [o] s (wr s o v) :=
  ⟨fun u hu => by cases u <;> simp [UnitName.same] at *, fun q _ h => rd_wr_ne s v (by simpa using h), fun f => by simp [pcie]⟩

theorem only_fput (s : State) (o hi lo v : Nat) : Only [] [o] s (fput s o hi lo v) := only_wr s o _

theorem only_setEvt (s : State) (o b : Nat) : Only [] [o] s (setEvt s o b) :=
  ⟨fun u hu => by cases u <;> simp [UnitName.same] at *, fun q _ h => rd_setEvt_ne s b (by simpa using h),
    fun f => by simp [pcie]⟩

theorem only_bump (s : State) (o n : Nat) : Only [] [o] s (bump s o n) := only_wr s o _

theorem only_satBump (s : State) (o hi lo n : Nat) : Only [] [o] s (satBump s o hi lo n) := only_wr s o _

theorem only_rsvd (s : State) (m o : Nat) : Only [] errRegs s (rsvd s m o) := (only_setEvt s _ _).trans (only_wr _ _ _)

theorem only_lockedWr (s : State) (m o : Nat) : Only [] errRegs s (lockedWr s m o) :=
  (only_setEvt s _ _).trans (only_wr _ _ _)

theorem only_ledgerBreak (s : State) (k o : Nat) : Only [] [Reg.topLedgerBreak] s (ledgerBreak s k o) := only_wr s _ _

/-- A frame grows by one named operation whose register or part is listed. -/
theorem Only.wr {us : List UnitName} {rs : List Nat} (h : Only us rs s t) {o : Nat} (v : Nat) (ho : o ∈ rs) :
    Only us rs s (Machine.wr t o v) := by
  refine (h.trans (only_wr t o v)).mono (by simp) ?_
  intro x hx
  rw [List.mem_append, List.mem_singleton] at hx
  rcases hx with hx | rfl <;> assumption

theorem Only.fput {us : List UnitName} {rs : List Nat} (h : Only us rs s t) {o : Nat} (hi lo v : Nat) (ho : o ∈ rs) :
    Only us rs s (Machine.fput t o hi lo v) := h.wr _ ho

theorem Only.setEvt {us : List UnitName} {rs : List Nat} (h : Only us rs s t) {o : Nat} (b : Nat) (ho : o ∈ rs) :
    Only us rs s (Machine.setEvt t o b) := by
  refine (h.trans (only_setEvt t o b)).mono (by simp) ?_
  intro x hx
  rw [List.mem_append, List.mem_singleton] at hx
  rcases hx with hx | rfl <;> assumption

theorem Only.bump {us : List UnitName} {rs : List Nat} (h : Only us rs s t) {o : Nat} (n : Nat) (ho : o ∈ rs) :
    Only us rs s (Machine.bump t o n) := h.wr _ ho

theorem Only.satBump {us : List UnitName} {rs : List Nat} (h : Only us rs s t) {o : Nat} (hi lo n : Nat) (ho : o ∈ rs) :
    Only us rs s (Machine.satBump t o hi lo n) := h.wr _ ho

/-- A frame grows by any operation whose own frame is listed. -/
theorem Only.more {us vs : List UnitName} {rs qs : List Nat} (h : Only us rs s t) (k : Only vs qs t u) (hu : vs ⊆ us)
    (hr : qs ⊆ rs) : Only us rs s u :=
  (h.trans k).mono (by simp [hu]) (by simp [hr])

theorem only_ledgerFault (s : State) (i j a b c d : Nat) : Only [] ledgerRegs s (ledgerFault s i j a b c d) := by
  unfold ledgerFault
  simp only
  split
  · exact ((Only.refl _ _ s).setEvt _ (by simp [ledgerRegs])).satBump _ _ _ (by simp [ledgerRegs])
  · refine Only.setEvt (Only.fput (Only.fput (Only.wr (Only.wr (Only.wr (Only.wr (Only.wr (Only.refl _ _ s) _ ?_) _ ?_) _ ?_)
      _ ?_) _ ?_) _ _ _ ?_) _ _ _ ?_) _ ?_ <;> simp [ledgerRegs]

theorem only_commitFields (s : State) (m o v : Nat) : Only [] (o :: errRegs) s (commitFields s m o v) := by
  unfold commitFields
  split
  · exact Only.refl _ _ s
  · rename_i r e
    simp only
    have h1 : Only [] (o :: errRegs) s (Machine.wr s o (fieldsWrite (locked s) (evtMask s o) v r.fields (rd s o, false, false)).1) :=
      (Only.refl _ _ s).wr _ (by simp)
    have h2 : ∀ x, Only [] (o :: errRegs) s x → Only [] (o :: errRegs) s (rsvd x m o) := fun x h =>
      h.more (only_rsvd x m o) (by simp) (by simp)
    have h3 : ∀ x, Only [] (o :: errRegs) s x → Only [] (o :: errRegs) s (lockedWr x m o) := fun x h =>
      h.more (only_lockedWr x m o) (by simp) (by simp)
    split <;> split
    · exact h3 _ (h2 _ h1)
    · exact h3 _ h1
    · exact h2 _ h1
    · exact h1

theorem only_portCount (s : State) (m : Requester) : Only [] (portRegs m) s (portCount s m) := by
  cases m <;> simp only [portCount, portRegs, fnOf] <;> first
    | exact only_bump s _ _
    | exact Only.refl _ _ s

theorem only_setTap (s : State) (p : Nat) (x : TapPort) : Only [.taps] [] s (setTap s p x) :=
  ⟨fun u hu => by cases u <;> simp [UnitName.same] at *, fun o _ _ => rd_congr (by simp) o, fun f => by simp [pcie]⟩

theorem only_setDly (s : State) (p : Nat) (x : Dly) : Only [.mil] [] s (setDly s p x) :=
  ⟨fun u hu => by cases u <;> simp [UnitName.same] at *, fun o _ _ => rd_congr (by simp) o, fun f => by simp [pcie]⟩

theorem only_setWatch (s : State) (c : Nat) (w : SrcWatch) : Only [.mil] [] s (setWatch s c w) :=
  ⟨fun u hu => by cases u <;> simp [UnitName.same] at *, fun o _ _ => rd_congr (by simp) o, fun f => by simp [pcie]⟩

theorem only_setPulse (s : State) (n : Nat) (x : Pulse) : Only [.mil] [] s (setPulse s n x) :=
  ⟨fun u hu => by cases u <;> simp [UnitName.same] at *, fun o _ _ => rd_congr (by simp) o, fun f => by simp [pcie]⟩

theorem only_setPair (s : State) (p : Nat) (g : PairSt → PairSt) : Only [.drc] [] s (setPair s p g) :=
  ⟨fun u hu => by cases u <;> simp [UnitName.same] at *, fun o _ _ => rd_congr (by simp) o, fun f => by simp [pcie]⟩

/-- A part of the state that a record update alone changes. -/
theorem only_setFlip (s : State) (mem a : Nat) (f : Option Flip) : Only [.intg] [] s (setFlip s mem a f) :=
  ⟨fun u hu => by cases u <;> simp [UnitName.same] at *, fun o _ _ => rd_congr (by simp) o, fun f => by simp [pcie]⟩

/-- A frame of several steps, each within the same parts and registers. -/
theorem only_foldl {α : Type} {us : List UnitName} {rs : List Nat} (g : State → α → State)
    (h : ∀ t a, Only us rs t (g t a)) (l : List α) (s : State) : Only us rs s (l.foldl g s) := by
  induction l generalizing s with
  | nil => exact Only.refl _ _ s
  | cons a l ih => exact ((h s a).trans (ih _)).mono (by simp) (by simp)

/-- An armed fault that strikes a write (R435) touches the words' errors and the flip's own registers. -/
theorem only_flipApply (s : State) (mem a k : Nat) : Only [.intg] flipRegs s (flipApply s mem a k) := by
  unfold flipApply
  have h1 : Only [.intg] flipRegs s (if k = 0 then s else setFlip s mem a (some ⟨k, true⟩)) := by
    split
    · exact Only.refl _ _ s
    · exact (only_setFlip s mem a _).mono (by simp) (by simp)
  have h2 := h1.fput (o := Reg.intFlipCtrl) 31 31 0 (by simp [flipRegs])
  refine Only.setEvt ?_ 4 (by simp [flipRegs])
  split
  · exact h2.wr a (by simp [flipRegs])
  · exact h2

theorem only_wordMerged (s : State) (mem a : Nat) : Only [.intg] flipRegs s (wordMerged s mem a) := by
  have h : ∀ t, Only [.intg] flipRegs s t → ∀ k, Only [.intg] flipRegs s
      (if flipHits t mem a then flipApply t mem a k else t) := by
    intro t ht k
    split
    · exact ht.more (only_flipApply t mem a k) (by simp) (by simp)
    · exact ht
  unfold wordMerged
  simp only
  split
  · exact h s (Only.refl _ _ s) _
  · exact h _ ((only_setFlip s mem a _).mono (by simp) (by simp)) _

theorem only_mergeWords (s : State) (mem lo n : Nat) : Only [.intg] flipRegs s (mergeWords s mem lo n) :=
  only_foldl _ (fun t _ => only_wordMerged t mem _) _ s

theorem only_rangeWritten (s : State) (mem lo n : Nat) : Only [.intg] flipRegs s (rangeWritten s mem lo n) := by
  unfold rangeWritten
  have h : ∀ i : IntSt, Only [.intg] flipRegs s { s with intg := i } := fun i =>
    ⟨fun u hu => by cases u <;> simp [UnitName.same] at *, fun o _ _ => rd_congr rfl o, fun f => by simp [pcie]⟩
  have key : ∀ (t : State) (a k : Nat) (c : Bool), Only [.intg] flipRegs s t →
      Only [.intg] flipRegs s (if c = true then flipApply t mem a k else t) := by
    intro t a k c ht
    split
    · exact ht.more (only_flipApply t mem a k) (by simp) (by simp)
    · exact ht
  exact key _ _ _ _ (h _)

theorem only_setPage (s : State) (n : Nat) (x : Page) : Only [.way, .intg] flipRegs s (setPage s n x) := by
  have h : ∀ w : WaySt, Only [.way, .intg] flipRegs s { s with way := w } := fun w =>
    ⟨fun u hu => by cases u <;> simp [UnitName.same] at *, fun o _ _ => rd_congr rfl o, fun f => by simp [pcie]⟩
  exact (h _).more (only_mergeWords _ 6 _ 3) (by simp) (by simp)

theorem only_setStream (s : State) (n : Nat) (x : Stream) : Only [.way, .intg] flipRegs s (setStream s n x) := by
  have h : ∀ w : WaySt, Only [.way, .intg] flipRegs s { s with way := w } := fun w =>
    ⟨fun u hu => by cases u <;> simp [UnitName.same] at *, fun o _ _ => rd_congr rfl o, fun f => by simp [pcie]⟩
  exact (h _).more (only_mergeWords _ 7 _ 2) (by simp) (by simp)

theorem only_setWport (s : State) (k : Nat) (x : WPort) : Only [.wlt] [] s (setWport s k x) :=
  ⟨fun u hu => by cases u <;> simp [UnitName.same] at *, fun o _ _ => rd_congr (by simp) o, fun f => by simp [pcie]⟩

theorem only_setDma (s : State) (n : Nat) (x : DmaCh) : Only [.dma] [] s (setDma s n x) :=
  ⟨fun u hu => by cases u <;> simp [UnitName.same] at *, fun o _ _ => rd_congr (by simp) o, fun f => by simp [pcie]⟩

theorem only_setFlight (s : State) (f : Flight) : Only [.vrd] [] s (setFlight s f) :=
  ⟨fun u hu => by cases u <;> simp [UnitName.same] at *, fun o _ _ => rd_congr (by simp) o, fun f => by simp [pcie]⟩

theorem only_setBucket (s : State) (i : Nat) (b : Bucket) : Only [.tol] [] s (setBucket s i b) :=
  ⟨fun u hu => by cases u <;> simp [UnitName.same] at *, fun o _ _ => rd_congr (by simp) o, fun f => by simp [pcie]⟩

theorem only_setFresh (s : State) (n : Nat) (v : Nat × Nat) : Only [.vrd] [] s (setFresh s n v) :=
  ⟨fun u hu => by cases u <;> simp [UnitName.same] at *, fun o _ _ => rd_congr (by simp) o, fun f => by simp [pcie]⟩

/-- A command's frame is that of its effect. -/
theorem Only.finished {us : List UnitName} {rs : List Nat} (h : Only us rs s t) : Only us rs s (finish s t) := by
  simpa using h.trans (only_finish s t)

@[simp] theorem tap_setTap (s : State) (p : Nat) (x : TapPort) : tap (setTap s p x) p = x := by simp [tap, setTap]

theorem tap_setTap_ne (s : State) {p q : Nat} (x : TapPort) (h : q ≠ p) : tap (setTap s p x) q = tap s q := by
  simp [tap, setTap, KMap.get_set_ne _ _ _ h]

theorem tap_congr {s t : State} (h : t.taps = s.taps) (p : Nat) : tap t p = tap s p := by rw [tap, tap, h]

@[simp] theorem tap_finish (s t : State) (p : Nat) : tap (finish s t) p = tap t p := tap_congr (by simp) p

end Sys2Proof.Machine
end

