-- ==== Sys2Proof/Laws/Route.lean ====
section
/-!
SUPPORT. How a register write of a requester that reaches the register comes to the register's own effect (R12, R82, R456,
R457, R471, R472): the rows of single registers then are their units' operations.
-/
namespace Sys2Proof.Machine

variable {s : State} {m : Requester} {off : Nat}

theorem ofLe_leBytes (n v : Nat) : ofLe (leBytes n v) = v % 256 ^ n := by
  induction n generalizing v with
  | zero => simp [leBytes, ofLe, Nat.mod_one]
  | succ k ih =>
    rw [leBytes, ofLe, ih, Nat.pow_succ, BitVec.toNat_ofNat, Nat.mul_comm (256 ^ k) 256]
    have := Nat.mod_mul (a := 256) (b := 256 ^ k) (x := v)
    omega

@[simp] theorem length_leBytes (n v : Nat) : (leBytes n v).length = n := by
  induction n generalizing v with
  | zero => rfl
  | succ k ih => rw [leBytes, List.length_cons, ih]

theorem leBytes_ne_nil (n v : Nat) : leBytes (n + 1) v ≠ [] := by rw [leBytes]; exact List.cons_ne_nil _ _

theorem awake_of_mayWrite {len : Nat} (h : mayWrite s m off len = true) : awake s = true := by
  unfold mayWrite at h
  rw [Bool.and_eq_true] at h
  exact h.1

/-- A write of whole words by a requester that reaches them is a write of the register space. -/
theorem busWrite_own {k : Nat} (data : List Byte) (hd : data.length = k + 1) (h : mayWrite s m off (k + 1) = true)
    (ho : off < spmBase) :
    busWrite s m off data = ownWrite (portCount s m) m off data := by
  have ho2 : off < ownEnd := Nat.lt_of_lt_of_le ho (by decide)
  have h1 : isMsix off = false := by
    have : ¬ 0xC00000 ≤ off := by have : spmBase = 0x180000 := rfl; omega
    simp [isMsix, this]
  have h2 : isPba off = false := by
    have : ¬ 0xC01000 ≤ off := by have : spmBase = 0x180000 := rfl; omega
    simp [isPba, this]
  have h3 : isSlave off = false := by
    have : ¬ 0x1000000 ≤ off := by have : spmBase = 0x180000 := rfl; omega
    simp [isSlave, this]
  have hne : data ≠ [] := by intro e; rw [e] at hd; simp at hd
  unfold mayWrite at h
  rw [Bool.and_eq_true] at h
  obtain ⟨ha, hb⟩ := h
  cases m <;> simp only [Bool.and_eq_true] at hb <;>
    simp [busWrite, pcieWrite, benchWrite, barWrite, portCount, fnOf, ha, hb, h1, h2, h3, ho2, hne, hd]

/-- Where a register lies: its row, its indices, its width. -/
structure Route (off base i j : Nat) (wide : Bool) : Prop where
  row : ∃ r, wordAt off = some (r, i, j, false) ∧ r.base = base ∧ base + i * r.s1 + j * r.s2 = off ∧ r.wide = wide

/-- The same as a check that the kernel evaluates. -/
def routeOk (off base i j : Nat) (wide : Bool) : Bool :=
  match wordAt off with
  | some (r, a, b, h) => decide (r.base = base ∧ a = i ∧ b = j ∧ h = false ∧ base + i * r.s1 + j * r.s2 = off ∧ r.wide = wide)
  | none => false

theorem route_of {base i j : Nat} {wide : Bool} (h : routeOk off base i j wide = true) : Route off base i j wide := by
  unfold routeOk at h
  split at h
  · rename_i r a b hh e
    obtain ⟨h1, h2, h3, h4, h5, h6⟩ := of_decide_eq_true h
    exact ⟨r, by rw [e, h2, h3, h4], h1, h5, h6⟩
  · cases h

/-- What a committed write does, by the register's place alone. -/
def effectAt (s : State) (m : Requester) (base off i j v : Nat) : State :=
  match (if off < 0x50000 then effectLow s m base off i v
    else if off < 0xB0000 then effectSearch s m.code base i j v
    else if off < 0x130000 then effectMid s m base i v
    else if off < 0x140000 then effectHst s m base off i v
    else effectHigh s m base off i j v) with
  | some t => t
  | none => commitFields s m.code off v

theorem regEffect_at {r : RegRow} {base i j v : Nat} (hb : r.base = base) (ho : base + i * r.s1 + j * r.s2 = off) :
    regEffect s m r i j v = effectAt s m base off i j v := by
  subst hb ho
  rfl

theorem busWrite4_route {base i j : Nat} (r : Route off base i j false) (v : BitVec 32) (ho : off < spmBase) (ha : off % 4 = 0)
    (h : mayWrite s m off 4 = true) : busWrite4 s m off v = effectAt (portCount s m) m base off i j v.toNat := by
  obtain ⟨row, hw, hb, hoff, hwide⟩ := r
  rw [busWrite4, busWrite_own _ (length_leBytes 4 _) h ho, ownWrite, if_neg (by omega)]
  have hs : shapeOk off 4 = true := by simp [shapeOk, ha]
  simp only [length_leBytes, hs, regWrite, write4, hw, writeWord, hwide, ofLe_leBytes]
  rw [Nat.mod_eq_of_lt (by have := v.isLt; omega), ← regEffect_at hb hoff]
  simp

theorem busWrite8_route {base i j : Nat} (r : Route off base i j true) (v : BitVec 64) (ho : off < spmBase) (ha : off % 8 = 0)
    (h : mayWrite s m off 8 = true) : busWrite8 s m off v = effectAt (portCount s m) m base off i j v.toNat := by
  obtain ⟨row, hw, hb, hoff, hwide⟩ := r
  rw [busWrite8, busWrite_own _ (length_leBytes 8 _) h ho, ownWrite, if_neg (by omega)]
  have hs : shapeOk off 8 = true := by simp [shapeOk, ha]
  simp only [length_leBytes, hs, regWrite, write8, hw, hwide, ofLe_leBytes]
  rw [Nat.mod_eq_of_lt (by have := v.isLt; omega), ← regEffect_at hb hoff]
  simp

end Sys2Proof.Machine
end

