-- ==== Sys2Proof/Laws/Rows.lean ====
section
/-!
SUPPORT. What each row of a single register comes to, for a requester that reaches the register: its unit's operation, after
the count of the access.
-/
namespace Sys2Proof.Machine

set_option linter.unusedSimpArgs false
set_option Elab.async false

variable {s : State} {m : Requester}

theorem effectAt_low {off base i j v : Nat} {t : State} (h : off < 0x50000) (e : effectLow s m base off i v = some t) :
    effectAt s m base off i j v = t := by
  rw [effectAt, if_pos h, e]

theorem effectAt_search {off base i j v : Nat} {t : State} (h : 0x50000 ≤ off) (h2 : off < 0xB0000)
    (e : effectSearch s m.code base i j v = some t) : effectAt s m base off i j v = t := by
  rw [effectAt, if_neg (by omega), if_pos h2, e]

theorem effectAt_mid {off base i j v : Nat} {t : State} (h : 0xB0000 ≤ off) (h2 : off < 0x130000)
    (e : effectMid s m base i v = some t) : effectAt s m base off i j v = t := by
  rw [effectAt, if_neg (by omega), if_neg (by omega), if_pos h2, e]

theorem effectAt_hst {off base i j v : Nat} {t : State} (h : 0x130000 ≤ off) (h2 : off < 0x140000)
    (e : effectHst s m base off i v = some t) : effectAt s m base off i j v = t := by
  rw [effectAt, if_neg (by omega), if_neg (by omega), if_neg (by omega), if_pos h2, e]

theorem effectAt_high {off base i j v : Nat} {t : State} (h : 0x140000 ≤ off)
    (e : effectHigh s m base off i j v = some t) : effectAt s m base off i j v = t := by
  rw [effectAt, if_neg (by omega), if_neg (by omega), if_neg (by omega), if_neg (by omega), e]

theorem exec_onCore {f : State → State} (h : awake s = true) : onCore s f = .next (finish s (f s)) := by
  rw [onCore, if_pos h]

theorem route_vrdTagReclaim : Route (Reg.vrdTagReclaim) Reg.vrdTagReclaim 0 0 false :=
  route_of (by decide +kernel)

theorem exec_vrdTagReclaim (v : BitVec 32) (h : mayWrite s m Reg.vrdTagReclaim 4 = true) :
    exec (.vrdTagReclaim m v) s = .next (finish s (tagReclaim (portCount s m) m.code v.toNat)) := by
  have e : exec (.vrdTagReclaim m v) s = onCore s (fun t => busWrite4 t m Reg.vrdTagReclaim v) := rfl
  rw [e, exec_onCore (awake_of_mayWrite h), busWrite4_route route_vrdTagReclaim v (by decide) (by decide) h]
  have k : effectAt (portCount s m) m (Reg.vrdTagReclaim) Reg.vrdTagReclaim 0 0 (v).toNat = tagReclaim (portCount s m) m.code v.toNat := 
    (effectAt_search (by simp only [Reg.vrdTagReclaim]; omega) (by simp only [Reg.vrdTagReclaim]; omega) (by simp [effectSearch, Reg.cblProf, Reg.cblProfEn, Reg.cblSel, Reg.hshPfxShare, Reg.tcaRebuildCtrl, Reg.tcaRebuildTotal, Reg.tcaSigBase, Reg.tcaSigReq, Reg.tcaSigSize, Reg.tolCmd, Reg.vrdFreshCmd, Reg.vrdTagReclaim, Reg.wayFlush, Reg.wayPress, Reg.wayStreamCfg]))
  rw [k]

theorem route_topLedgerStat : Route (Reg.topLedgerStat) Reg.topLedgerStat 0 0 false :=
  route_of (by decide +kernel)

theorem exec_ledgerFaultClear (v : BitVec 32) (h : mayWrite s m Reg.topLedgerStat 4 = true) :
    exec (.ledgerFaultClear m v) s = .next (finish s (ledgerClear (portCount s m) m.code v.toNat)) := by
  have e : exec (.ledgerFaultClear m v) s = onCore s (fun t => busWrite4 t m Reg.topLedgerStat v) := rfl
  rw [e, exec_onCore (awake_of_mayWrite h), busWrite4_route route_topLedgerStat v (by decide) (by decide) h]
  have k : effectAt (portCount s m) m (Reg.topLedgerStat) Reg.topLedgerStat 0 0 (v).toNat = ledgerClear (portCount s m) m.code v.toNat := 
    (effectAt_low (by simp only [Reg.topLedgerStat]; omega) (by simp [effectLow, Reg.imgCtrl, Reg.imgFcmd, Reg.milCtrl, Reg.milOffset, Reg.milPpsOut, Reg.milRate, Reg.milSet, Reg.milTodNext, Reg.milTrigCtrl, Reg.milTrigPeriod, Reg.milTrigPhase, Reg.milTrigWidth, Reg.pwrCtrl, Reg.pwrHold, Reg.tapCtrl, Reg.tapForceCred, Reg.topLedgerStat]))
  rw [k]

theorem route_imgCtrl : Route (Reg.imgCtrl) Reg.imgCtrl 0 0 false :=
  route_of (by decide +kernel)

theorem exec_reloadNext (h : mayWrite s m Reg.imgCtrl 4 = true) :
    exec (.reloadNext m) s = .next (finish s (imgCtrlWrite (portCount s m) 2)) := by
  have e : exec (.reloadNext m) s = onCore s (fun t => busWrite4 t m Reg.imgCtrl 2#32) := rfl
  rw [e, exec_onCore (awake_of_mayWrite h), busWrite4_route route_imgCtrl 2#32 (by decide) (by decide) h]
  have k : effectAt (portCount s m) m (Reg.imgCtrl) Reg.imgCtrl 0 0 (2#32).toNat = imgCtrlWrite (portCount s m) 2 := 
    (effectAt_low (by simp only [Reg.imgCtrl]; omega) (by simp [effectLow, Reg.imgCtrl, Reg.imgFcmd, Reg.milCtrl, Reg.milOffset, Reg.milPpsOut, Reg.milRate, Reg.milSet, Reg.milTodNext, Reg.milTrigCtrl, Reg.milTrigPeriod, Reg.milTrigPhase, Reg.milTrigWidth, Reg.pwrCtrl, Reg.pwrHold, Reg.tapCtrl, Reg.tapForceCred, Reg.topLedgerStat]))
  rw [k]

theorem exec_hostLoad (h : mayWrite s m Reg.imgCtrl 4 = true) :
    exec (.hostLoad m) s = .next (finish s (imgCtrlWrite (portCount s m) 1)) := by
  have e : exec (.hostLoad m) s = onCore s (fun t => busWrite4 t m Reg.imgCtrl 1#32) := rfl
  rw [e, exec_onCore (awake_of_mayWrite h), busWrite4_route route_imgCtrl 1#32 (by decide) (by decide) h]
  have k : effectAt (portCount s m) m (Reg.imgCtrl) Reg.imgCtrl 0 0 (1#32).toNat = imgCtrlWrite (portCount s m) 1 := 
    (effectAt_low (by simp only [Reg.imgCtrl]; omega) (by simp [effectLow, Reg.imgCtrl, Reg.imgFcmd, Reg.milCtrl, Reg.milOffset, Reg.milPpsOut, Reg.milRate, Reg.milSet, Reg.milTodNext, Reg.milTrigCtrl, Reg.milTrigPeriod, Reg.milTrigPhase, Reg.milTrigWidth, Reg.pwrCtrl, Reg.pwrHold, Reg.tapCtrl, Reg.tapForceCred, Reg.topLedgerStat]))
  rw [k]

theorem route_imgLock : Route (Reg.imgLock) Reg.imgLock 0 0 false :=
  route_of (by decide +kernel)

theorem exec_lock (h : mayWrite s m Reg.imgLock 4 = true) :
    exec (.lock m) s = .next (finish s (commitFields (portCount s m) m.code Reg.imgLock 1)) := by
  have e : exec (.lock m) s = onCore s (fun t => busWrite4 t m Reg.imgLock 1#32) := rfl
  rw [e, exec_onCore (awake_of_mayWrite h), busWrite4_route route_imgLock 1#32 (by decide) (by decide) h]
  have k : effectAt (portCount s m) m (Reg.imgLock) Reg.imgLock 0 0 (1#32).toNat = commitFields (portCount s m) m.code Reg.imgLock 1 := 
    (by rw [effectAt]; simp [effectLow, Reg.imgCtrl, Reg.imgFcmd, Reg.milCtrl, Reg.milOffset, Reg.milPpsOut, Reg.milRate, Reg.milSet, Reg.milTodNext, Reg.milTrigCtrl, Reg.milTrigPeriod, Reg.milTrigPhase, Reg.milTrigWidth, Reg.pwrCtrl, Reg.pwrHold, Reg.tapCtrl, Reg.tapForceCred, Reg.topLedgerStat, Reg.imgLock])
  rw [k]

theorem route_milCtrl : Route (Reg.milCtrl) Reg.milCtrl 0 0 false :=
  route_of (by decide +kernel)

theorem exec_milCtrlWrite (v : BitVec 32) (h : mayWrite s m Reg.milCtrl 4 = true) :
    exec (.milCtrlWrite m v) s = .next (finish s (Sys2Proof.Machine.milCtrlWrite (portCount s m) m.code v.toNat)) := by
  have e : exec (.milCtrlWrite m v) s = onCore s (fun t => busWrite4 t m Reg.milCtrl v) := rfl
  rw [e, exec_onCore (awake_of_mayWrite h), busWrite4_route route_milCtrl v (by decide) (by decide) h]
  have k : effectAt (portCount s m) m (Reg.milCtrl) Reg.milCtrl 0 0 (v).toNat = Sys2Proof.Machine.milCtrlWrite (portCount s m) m.code v.toNat := 
    (effectAt_low (by simp only [Reg.milCtrl]; omega) (by simp [effectLow, Reg.imgCtrl, Reg.imgFcmd, Reg.milCtrl, Reg.milOffset, Reg.milPpsOut, Reg.milRate, Reg.milSet, Reg.milTodNext, Reg.milTrigCtrl, Reg.milTrigPeriod, Reg.milTrigPhase, Reg.milTrigWidth, Reg.pwrCtrl, Reg.pwrHold, Reg.tapCtrl, Reg.tapForceCred, Reg.topLedgerStat]))
  rw [k]

theorem route_milRate : Route (Reg.milRate) Reg.milRate 0 0 false :=
  route_of (by decide +kernel)

theorem exec_milRateWrite (v : BitVec 32) (h : mayWrite s m Reg.milRate 4 = true) :
    exec (.milRateWrite m v) s = .next (finish s (Sys2Proof.Machine.milRateWrite (portCount s m) v.toNat)) := by
  have e : exec (.milRateWrite m v) s = onCore s (fun t => busWrite4 t m Reg.milRate v) := rfl
  rw [e, exec_onCore (awake_of_mayWrite h), busWrite4_route route_milRate v (by decide) (by decide) h]
  have k : effectAt (portCount s m) m (Reg.milRate) Reg.milRate 0 0 (v).toNat = Sys2Proof.Machine.milRateWrite (portCount s m) v.toNat := 
    (effectAt_low (by simp only [Reg.milRate]; omega) (by simp [effectLow, Reg.imgCtrl, Reg.imgFcmd, Reg.milCtrl, Reg.milOffset, Reg.milPpsOut, Reg.milRate, Reg.milSet, Reg.milTodNext, Reg.milTrigCtrl, Reg.milTrigPeriod, Reg.milTrigPhase, Reg.milTrigWidth, Reg.pwrCtrl, Reg.pwrHold, Reg.tapCtrl, Reg.tapForceCred, Reg.topLedgerStat]))
  rw [k]

theorem route_milOffset : Route (Reg.milOffset) Reg.milOffset 0 0 true :=
  route_of (by decide +kernel)

theorem exec_milOffsetWrite (v : BitVec 64) (h : mayWrite s m Reg.milOffset 8 = true) :
    exec (.milOffsetWrite m v) s = .next (finish s (Sys2Proof.Machine.milOffsetWrite (wr (portCount s m) Reg.milOffset (v.toNat % 2 ^ 48)) (v.toNat % 2 ^ 48))) := by
  have e : exec (.milOffsetWrite m v) s = onCore s (fun t => busWrite8 t m Reg.milOffset v) := rfl
  rw [e, exec_onCore (awake_of_mayWrite h), busWrite8_route route_milOffset v (by decide) (by decide) h]
  have k : effectAt (portCount s m) m (Reg.milOffset) Reg.milOffset 0 0 (v).toNat = Sys2Proof.Machine.milOffsetWrite (wr (portCount s m) Reg.milOffset (v.toNat % 2 ^ 48)) (v.toNat % 2 ^ 48) := 
    (effectAt_low (by simp only [Reg.milOffset]; omega) (by simp [effectLow, Reg.imgCtrl, Reg.imgFcmd, Reg.milCtrl, Reg.milOffset, Reg.milPpsOut, Reg.milRate, Reg.milSet, Reg.milTodNext, Reg.milTrigCtrl, Reg.milTrigPeriod, Reg.milTrigPhase, Reg.milTrigWidth, Reg.pwrCtrl, Reg.pwrHold, Reg.tapCtrl, Reg.tapForceCred, Reg.topLedgerStat]))
  rw [k]

theorem route_milSet : Route (Reg.milSet) Reg.milSet 0 0 true :=
  route_of (by decide +kernel)

theorem exec_milSetWrite (v : BitVec 64) (h : mayWrite s m Reg.milSet 8 = true) :
    exec (.milSetWrite m v) s = .next (finish s (Sys2Proof.Machine.milSetWrite (wr (portCount s m) Reg.milSet v.toNat) v.toNat)) := by
  have e : exec (.milSetWrite m v) s = onCore s (fun t => busWrite8 t m Reg.milSet v) := rfl
  rw [e, exec_onCore (awake_of_mayWrite h), busWrite8_route route_milSet v (by decide) (by decide) h]
  have k : effectAt (portCount s m) m (Reg.milSet) Reg.milSet 0 0 (v).toNat = Sys2Proof.Machine.milSetWrite (wr (portCount s m) Reg.milSet v.toNat) v.toNat := 
    (effectAt_low (by simp only [Reg.milSet]; omega) (by simp [effectLow, Reg.imgCtrl, Reg.imgFcmd, Reg.milCtrl, Reg.milOffset, Reg.milPpsOut, Reg.milRate, Reg.milSet, Reg.milTodNext, Reg.milTrigCtrl, Reg.milTrigPeriod, Reg.milTrigPhase, Reg.milTrigWidth, Reg.pwrCtrl, Reg.pwrHold, Reg.tapCtrl, Reg.tapForceCred, Reg.topLedgerStat]))
  rw [k]

theorem route_milTrigCtrl_n (x : Fin 8) : Route (Reg.milTrigCtrl x.val) (Reg.milTrigCtrl 0) x.val 0 false ∧ Reg.milTrigCtrl x.val < spmBase ∧ (Reg.milTrigCtrl x.val) % 4 = 0 := by
  have h : ∀ x : Fin 8, routeOk (Reg.milTrigCtrl x.val) (Reg.milTrigCtrl 0) x.val 0 false = true := by decide +kernel
  refine ⟨route_of (h x), ?_, ?_⟩ <;> simp only [Reg.milTrigCtrl, spmBase] <;> omega

theorem exec_trigEnable (n : Fin 8) (v : BitVec 32) (h : mayWrite s m (Reg.milTrigCtrl n.val) 4 = true) :
    exec (.trigEnable m n v) s = .next (finish s (trigCtrlWrite (portCount s m) m.code n.val v.toNat)) := by
  have e : exec (.trigEnable m n v) s = onCore s (fun t => busWrite4 t m (Reg.milTrigCtrl n.val) v) := rfl
  rw [e, exec_onCore (awake_of_mayWrite h), busWrite4_route (route_milTrigCtrl_n n).1 v (route_milTrigCtrl_n n).2.1 (route_milTrigCtrl_n n).2.2 h]
  have k : effectAt (portCount s m) m (Reg.milTrigCtrl 0) (Reg.milTrigCtrl n.val) n.val 0 (v).toNat = trigCtrlWrite (portCount s m) m.code n.val v.toNat := 
    (effectAt_low (by have := n.isLt; simp only [Reg.milTrigCtrl]; omega) (by simp [effectLow, Reg.imgCtrl, Reg.imgFcmd, Reg.milCtrl, Reg.milOffset, Reg.milPpsOut, Reg.milRate, Reg.milSet, Reg.milTodNext, Reg.milTrigCtrl, Reg.milTrigPeriod, Reg.milTrigPhase, Reg.milTrigWidth, Reg.pwrCtrl, Reg.pwrHold, Reg.tapCtrl, Reg.tapForceCred, Reg.topLedgerStat]))
  rw [k]

theorem route_milTrigPhase_n (x : Fin 8) : Route (Reg.milTrigPhase x.val) (Reg.milTrigPhase 0) x.val 0 false ∧ Reg.milTrigPhase x.val < spmBase ∧ (Reg.milTrigPhase x.val) % 4 = 0 := by
  have h : ∀ x : Fin 8, routeOk (Reg.milTrigPhase x.val) (Reg.milTrigPhase 0) x.val 0 false = true := by decide +kernel
  refine ⟨route_of (h x), ?_, ?_⟩ <;> simp only [Reg.milTrigPhase, spmBase] <;> omega

theorem exec_trigPhaseWrite (n : Fin 8) (v : BitVec 32) (h : mayWrite s m (Reg.milTrigPhase n.val) 4 = true) :
    exec (.trigPhaseWrite m n v) s = .next (finish s (Sys2Proof.Machine.trigPhaseWrite (portCount s m) m.code n.val v.toNat)) := by
  have e : exec (.trigPhaseWrite m n v) s = onCore s (fun t => busWrite4 t m (Reg.milTrigPhase n.val) v) := rfl
  rw [e, exec_onCore (awake_of_mayWrite h), busWrite4_route (route_milTrigPhase_n n).1 v (route_milTrigPhase_n n).2.1 (route_milTrigPhase_n n).2.2 h]
  have k : effectAt (portCount s m) m (Reg.milTrigPhase 0) (Reg.milTrigPhase n.val) n.val 0 (v).toNat = Sys2Proof.Machine.trigPhaseWrite (portCount s m) m.code n.val v.toNat := 
    (effectAt_low (by have := n.isLt; simp only [Reg.milTrigPhase]; omega) (by simp [effectLow, Reg.imgCtrl, Reg.imgFcmd, Reg.milCtrl, Reg.milOffset, Reg.milPpsOut, Reg.milRate, Reg.milSet, Reg.milTodNext, Reg.milTrigCtrl, Reg.milTrigPeriod, Reg.milTrigPhase, Reg.milTrigWidth, Reg.pwrCtrl, Reg.pwrHold, Reg.tapCtrl, Reg.tapForceCred, Reg.topLedgerStat]))
  rw [k]

theorem route_tapForceCred : Route (Reg.tapForceCred) Reg.tapForceCred 0 0 false :=
  route_of (by decide +kernel)

theorem exec_tapForceCred (v : BitVec 32) (h : mayWrite s m Reg.tapForceCred 4 = true) :
    exec (.tapForceCred m v) s = .next (finish s (forceCred (portCount s m) m.code v.toNat)) := by
  have e : exec (.tapForceCred m v) s = onCore s (fun t => busWrite4 t m Reg.tapForceCred v) := rfl
  rw [e, exec_onCore (awake_of_mayWrite h), busWrite4_route route_tapForceCred v (by decide) (by decide) h]
  have k : effectAt (portCount s m) m (Reg.tapForceCred) Reg.tapForceCred 0 0 (v).toNat = forceCred (portCount s m) m.code v.toNat := 
    (effectAt_low (by simp only [Reg.tapForceCred]; omega) (by simp [effectLow, Reg.imgCtrl, Reg.imgFcmd, Reg.milCtrl, Reg.milOffset, Reg.milPpsOut, Reg.milRate, Reg.milSet, Reg.milTodNext, Reg.milTrigCtrl, Reg.milTrigPeriod, Reg.milTrigPhase, Reg.milTrigWidth, Reg.pwrCtrl, Reg.pwrHold, Reg.tapCtrl, Reg.tapForceCred, Reg.topLedgerStat]))
  rw [k]

theorem route_cblProf_n_7 (x : Fin 64) : Route (Reg.cblProf x.val 7) (Reg.cblProf 0 0) x.val 7 false ∧ Reg.cblProf x.val 7 < spmBase ∧ (Reg.cblProf x.val 7) % 4 = 0 := by
  have h : ∀ x : Fin 64, routeOk (Reg.cblProf x.val 7) (Reg.cblProf 0 0) x.val 7 false = true := by decide +kernel
  refine ⟨route_of (h x), ?_, ?_⟩ <;> simp only [Reg.cblProf, spmBase] <;> omega

theorem exec_profileCommit (n : Fin 64) (v : BitVec 32) (h : mayWrite s m (Reg.cblProf n.val 7) 4 = true) :
    exec (.profileCommit m n v) s = .next (finish s (profWrite (portCount s m) m.code n.val 7 v.toNat)) := by
  have e : exec (.profileCommit m n v) s = onCore s (fun t => busWrite4 t m (Reg.cblProf n.val 7) v) := rfl
  rw [e, exec_onCore (awake_of_mayWrite h), busWrite4_route (route_cblProf_n_7 n).1 v (route_cblProf_n_7 n).2.1 (route_cblProf_n_7 n).2.2 h]
  have k : effectAt (portCount s m) m (Reg.cblProf 0 0) (Reg.cblProf n.val 7) n.val 7 (v).toNat = profWrite (portCount s m) m.code n.val 7 v.toNat := 
    (effectAt_search (by have := n.isLt; simp only [Reg.cblProf]; omega) (by have := n.isLt; simp only [Reg.cblProf]; omega) (by simp [effectSearch, Reg.cblProf, Reg.cblProfEn, Reg.cblSel, Reg.hshPfxShare, Reg.tcaRebuildCtrl, Reg.tcaRebuildTotal, Reg.tcaSigBase, Reg.tcaSigReq, Reg.tcaSigSize, Reg.tolCmd, Reg.vrdFreshCmd, Reg.vrdTagReclaim, Reg.wayFlush, Reg.wayPress, Reg.wayStreamCfg]))
  rw [k]

theorem route_cblProfEn : Route (Reg.cblProfEn) Reg.cblProfEn 0 0 true :=
  route_of (by decide +kernel)

theorem exec_profileEnable (v : BitVec 64) (h : mayWrite s m Reg.cblProfEn 8 = true) :
    exec (.profileEnable m v) s = .next (finish s (profEnWrite (portCount s m) m.code v.toNat)) := by
  have e : exec (.profileEnable m v) s = onCore s (fun t => busWrite8 t m Reg.cblProfEn v) := rfl
  rw [e, exec_onCore (awake_of_mayWrite h), busWrite8_route route_cblProfEn v (by decide) (by decide) h]
  have k : effectAt (portCount s m) m (Reg.cblProfEn) Reg.cblProfEn 0 0 (v).toNat = profEnWrite (portCount s m) m.code v.toNat := 
    (effectAt_search (by simp only [Reg.cblProfEn]; omega) (by simp only [Reg.cblProfEn]; omega) (by simp [effectSearch, Reg.cblProf, Reg.cblProfEn, Reg.cblSel, Reg.hshPfxShare, Reg.tcaRebuildCtrl, Reg.tcaRebuildTotal, Reg.tcaSigBase, Reg.tcaSigReq, Reg.tcaSigSize, Reg.tolCmd, Reg.vrdFreshCmd, Reg.vrdTagReclaim, Reg.wayFlush, Reg.wayPress, Reg.wayStreamCfg]))
  rw [k]

theorem route_cblSel_n_7 (x : Fin 512) : Route (Reg.cblSel x.val 7) (Reg.cblSel 0 0) x.val 7 false ∧ Reg.cblSel x.val 7 < spmBase ∧ (Reg.cblSel x.val 7) % 4 = 0 := by
  have h : ∀ x : Fin 512, routeOk (Reg.cblSel x.val 7) (Reg.cblSel 0 0) x.val 7 false = true := by decide +kernel
  refine ⟨route_of (h x), ?_, ?_⟩ <;> simp only [Reg.cblSel, spmBase] <;> omega

theorem exec_selectorCommit (n : Fin 512) (v : BitVec 32) (h : mayWrite s m (Reg.cblSel n.val 7) 4 = true) :
    exec (.selectorCommit m n v) s = .next (finish s (selWrite (portCount s m) m.code n.val 7 v.toNat)) := by
  have e : exec (.selectorCommit m n v) s = onCore s (fun t => busWrite4 t m (Reg.cblSel n.val 7) v) := rfl
  rw [e, exec_onCore (awake_of_mayWrite h), busWrite4_route (route_cblSel_n_7 n).1 v (route_cblSel_n_7 n).2.1 (route_cblSel_n_7 n).2.2 h]
  have k : effectAt (portCount s m) m (Reg.cblSel 0 0) (Reg.cblSel n.val 7) n.val 7 (v).toNat = selWrite (portCount s m) m.code n.val 7 v.toNat := 
    (effectAt_search (by have := n.isLt; simp only [Reg.cblSel]; omega) (by have := n.isLt; simp only [Reg.cblSel]; omega) (by simp [effectSearch, Reg.cblProf, Reg.cblProfEn, Reg.cblSel, Reg.hshPfxShare, Reg.tcaRebuildCtrl, Reg.tcaRebuildTotal, Reg.tcaSigBase, Reg.tcaSigReq, Reg.tcaSigSize, Reg.tolCmd, Reg.vrdFreshCmd, Reg.vrdTagReclaim, Reg.wayFlush, Reg.wayPress, Reg.wayStreamCfg]))
  rw [k]

theorem route_tolCmd : Route (Reg.tolCmd) Reg.tolCmd 0 0 false :=
  route_of (by decide +kernel)

theorem exec_tollRead (v : BitVec 32) (h : mayWrite s m Reg.tolCmd 4 = true) :
    exec (.tollRead m v) s = .next (finish s (tolCmdWrite (portCount s m) m.code v.toNat)) := by
  have e : exec (.tollRead m v) s = onCore s (fun t => busWrite4 t m Reg.tolCmd v) := rfl
  rw [e, exec_onCore (awake_of_mayWrite h), busWrite4_route route_tolCmd v (by decide) (by decide) h]
  have k : effectAt (portCount s m) m (Reg.tolCmd) Reg.tolCmd 0 0 (v).toNat = tolCmdWrite (portCount s m) m.code v.toNat := 
    (effectAt_search (by simp only [Reg.tolCmd]; omega) (by simp only [Reg.tolCmd]; omega) (by simp [effectSearch, Reg.cblProf, Reg.cblProfEn, Reg.cblSel, Reg.hshPfxShare, Reg.tcaRebuildCtrl, Reg.tcaRebuildTotal, Reg.tcaSigBase, Reg.tcaSigReq, Reg.tcaSigSize, Reg.tolCmd, Reg.vrdFreshCmd, Reg.vrdTagReclaim, Reg.wayFlush, Reg.wayPress, Reg.wayStreamCfg]))
  rw [k]

theorem exec_tollWrite (v : BitVec 32) (h : mayWrite s m Reg.tolCmd 4 = true) :
    exec (.tollWrite m v) s = .next (finish s (tolCmdWrite (portCount s m) m.code v.toNat)) := by
  have e : exec (.tollWrite m v) s = onCore s (fun t => busWrite4 t m Reg.tolCmd v) := rfl
  rw [e, exec_onCore (awake_of_mayWrite h), busWrite4_route route_tolCmd v (by decide) (by decide) h]
  have k : effectAt (portCount s m) m (Reg.tolCmd) Reg.tolCmd 0 0 (v).toNat = tolCmdWrite (portCount s m) m.code v.toNat := 
    (effectAt_search (by simp only [Reg.tolCmd]; omega) (by simp only [Reg.tolCmd]; omega) (by simp [effectSearch, Reg.cblProf, Reg.cblProfEn, Reg.cblSel, Reg.hshPfxShare, Reg.tcaRebuildCtrl, Reg.tcaRebuildTotal, Reg.tcaSigBase, Reg.tcaSigReq, Reg.tcaSigSize, Reg.tolCmd, Reg.vrdFreshCmd, Reg.vrdTagReclaim, Reg.wayFlush, Reg.wayPress, Reg.wayStreamCfg]))
  rw [k]

theorem route_vrdFreshCmd : Route (Reg.vrdFreshCmd) Reg.vrdFreshCmd 0 0 false :=
  route_of (by decide +kernel)

theorem exec_freshRead (v : BitVec 32) (h : mayWrite s m Reg.vrdFreshCmd 4 = true) :
    exec (.freshRead m v) s = .next (finish s (freshCmdWrite (portCount s m) v.toNat)) := by
  have e : exec (.freshRead m v) s = onCore s (fun t => busWrite4 t m Reg.vrdFreshCmd v) := rfl
  rw [e, exec_onCore (awake_of_mayWrite h), busWrite4_route route_vrdFreshCmd v (by decide) (by decide) h]
  have k : effectAt (portCount s m) m (Reg.vrdFreshCmd) Reg.vrdFreshCmd 0 0 (v).toNat = freshCmdWrite (portCount s m) v.toNat := 
    (effectAt_search (by simp only [Reg.vrdFreshCmd]; omega) (by simp only [Reg.vrdFreshCmd]; omega) (by simp [effectSearch, Reg.cblProf, Reg.cblProfEn, Reg.cblSel, Reg.hshPfxShare, Reg.tcaRebuildCtrl, Reg.tcaRebuildTotal, Reg.tcaSigBase, Reg.tcaSigReq, Reg.tcaSigSize, Reg.tolCmd, Reg.vrdFreshCmd, Reg.vrdTagReclaim, Reg.wayFlush, Reg.wayPress, Reg.wayStreamCfg]))
  rw [k]

theorem exec_freshWrite (v : BitVec 32) (h : mayWrite s m Reg.vrdFreshCmd 4 = true) :
    exec (.freshWrite m v) s = .next (finish s (freshCmdWrite (portCount s m) v.toNat)) := by
  have e : exec (.freshWrite m v) s = onCore s (fun t => busWrite4 t m Reg.vrdFreshCmd v) := rfl
  rw [e, exec_onCore (awake_of_mayWrite h), busWrite4_route route_vrdFreshCmd v (by decide) (by decide) h]
  have k : effectAt (portCount s m) m (Reg.vrdFreshCmd) Reg.vrdFreshCmd 0 0 (v).toNat = freshCmdWrite (portCount s m) v.toNat := 
    (effectAt_search (by simp only [Reg.vrdFreshCmd]; omega) (by simp only [Reg.vrdFreshCmd]; omega) (by simp [effectSearch, Reg.cblProf, Reg.cblProfEn, Reg.cblSel, Reg.hshPfxShare, Reg.tcaRebuildCtrl, Reg.tcaRebuildTotal, Reg.tcaSigBase, Reg.tcaSigReq, Reg.tcaSigSize, Reg.tolCmd, Reg.vrdFreshCmd, Reg.vrdTagReclaim, Reg.wayFlush, Reg.wayPress, Reg.wayStreamCfg]))
  rw [k]

theorem route_hstTcrTail_r (x : Fin 4) : Route (Reg.hstTcrTail x.val) (Reg.hstTcrTail 0) x.val 0 false ∧ Reg.hstTcrTail x.val < spmBase ∧ (Reg.hstTcrTail x.val) % 4 = 0 := by
  have h : ∀ x : Fin 4, routeOk (Reg.hstTcrTail x.val) (Reg.hstTcrTail 0) x.val 0 false = true := by decide +kernel
  refine ⟨route_of (h x), ?_, ?_⟩ <;> simp only [Reg.hstTcrTail, spmBase] <;> omega

theorem exec_tcrDoorbell (r : Fin 4) (v : BitVec 32) (h : mayWrite s m (Reg.hstTcrTail r.val) 4 = true) :
    exec (.tcrDoorbell m r v) s = .next (finish s (Sys2Proof.Machine.tcrDoorbell (portCount s m) m.code r.val v.toNat)) := by
  have e : exec (.tcrDoorbell m r v) s = onCore s (fun t => busWrite4 t m (Reg.hstTcrTail r.val) v) := rfl
  rw [e, exec_onCore (awake_of_mayWrite h), busWrite4_route (route_hstTcrTail_r r).1 v (route_hstTcrTail_r r).2.1 (route_hstTcrTail_r r).2.2 h]
  have k : effectAt (portCount s m) m (Reg.hstTcrTail 0) (Reg.hstTcrTail r.val) r.val 0 (v).toNat = Sys2Proof.Machine.tcrDoorbell (portCount s m) m.code r.val v.toNat := 
    (effectAt_hst (by have := r.isLt; simp only [Reg.hstTcrTail]; omega) (by have := r.isLt; simp only [Reg.hstTcrTail]; omega) (by simp [effectHst, Reg.hstDmaCtrl, Reg.hstDmaTail, Reg.hstIntRearm, Reg.hstTcrBase, Reg.hstTcrCbase, Reg.hstTcrCtrl, Reg.hstTcrTail]))
  rw [k]

theorem route_hstTcrCtrl_r (x : Fin 4) : Route (Reg.hstTcrCtrl x.val) (Reg.hstTcrCtrl 0) x.val 0 false ∧ Reg.hstTcrCtrl x.val < spmBase ∧ (Reg.hstTcrCtrl x.val) % 4 = 0 := by
  have h : ∀ x : Fin 4, routeOk (Reg.hstTcrCtrl x.val) (Reg.hstTcrCtrl 0) x.val 0 false = true := by decide +kernel
  refine ⟨route_of (h x), ?_, ?_⟩ <;> simp only [Reg.hstTcrCtrl, spmBase] <;> omega

theorem exec_tcrEnable (r : Fin 4) (v : BitVec 32) (h : mayWrite s m (Reg.hstTcrCtrl r.val) 4 = true) :
    exec (.tcrEnable m r v) s = .next (finish s (tcrCtrlWrite (portCount s m) m.code r.val v.toNat)) := by
  have e : exec (.tcrEnable m r v) s = onCore s (fun t => busWrite4 t m (Reg.hstTcrCtrl r.val) v) := rfl
  rw [e, exec_onCore (awake_of_mayWrite h), busWrite4_route (route_hstTcrCtrl_r r).1 v (route_hstTcrCtrl_r r).2.1 (route_hstTcrCtrl_r r).2.2 h]
  have k : effectAt (portCount s m) m (Reg.hstTcrCtrl 0) (Reg.hstTcrCtrl r.val) r.val 0 (v).toNat = tcrCtrlWrite (portCount s m) m.code r.val v.toNat := 
    (effectAt_hst (by have := r.isLt; simp only [Reg.hstTcrCtrl]; omega) (by have := r.isLt; simp only [Reg.hstTcrCtrl]; omega) (by simp [effectHst, Reg.hstDmaCtrl, Reg.hstDmaTail, Reg.hstIntRearm, Reg.hstTcrBase, Reg.hstTcrCbase, Reg.hstTcrCtrl, Reg.hstTcrTail]))
  rw [k]

theorem route_tcaRebuildCtrl : Route (Reg.tcaRebuildCtrl) Reg.tcaRebuildCtrl 0 0 false :=
  route_of (by decide +kernel)

theorem exec_rebuildStart (table : Fin 64) (h : mayWrite s m Reg.tcaRebuildCtrl 4 = true) :
    exec (.rebuildStart m table) s = .next (finish s (rebuildWrite (portCount s m) m.code (BitVec.ofNat 32 (2 ^ 31 + table.val)).toNat)) := by
  have e : exec (.rebuildStart m table) s = onCore s (fun t => busWrite4 t m Reg.tcaRebuildCtrl (BitVec.ofNat 32 (2 ^ 31 + table.val))) := rfl
  rw [e, exec_onCore (awake_of_mayWrite h), busWrite4_route route_tcaRebuildCtrl (BitVec.ofNat 32 (2 ^ 31 + table.val)) (by decide) (by decide) h]
  have k : effectAt (portCount s m) m (Reg.tcaRebuildCtrl) Reg.tcaRebuildCtrl 0 0 ((BitVec.ofNat 32 (2 ^ 31 + table.val))).toNat = rebuildWrite (portCount s m) m.code (BitVec.ofNat 32 (2 ^ 31 + table.val)).toNat := 
    (effectAt_search (by simp only [Reg.tcaRebuildCtrl]; omega) (by simp only [Reg.tcaRebuildCtrl]; omega) (by simp [effectSearch, Reg.cblProf, Reg.cblProfEn, Reg.cblSel, Reg.hshPfxShare, Reg.tcaRebuildCtrl, Reg.tcaRebuildTotal, Reg.tcaSigBase, Reg.tcaSigReq, Reg.tcaSigSize, Reg.tolCmd, Reg.vrdFreshCmd, Reg.vrdTagReclaim, Reg.wayFlush, Reg.wayPress, Reg.wayStreamCfg]))
  rw [k]

theorem exec_rebuildStop (table : Fin 64) (h : mayWrite s m Reg.tcaRebuildCtrl 4 = true) :
    exec (.rebuildStop m table) s = .next (finish s (rebuildWrite (portCount s m) m.code (BitVec.ofNat 32 (2 ^ 30 + table.val)).toNat)) := by
  have e : exec (.rebuildStop m table) s = onCore s (fun t => busWrite4 t m Reg.tcaRebuildCtrl (BitVec.ofNat 32 (2 ^ 30 + table.val))) := rfl
  rw [e, exec_onCore (awake_of_mayWrite h), busWrite4_route route_tcaRebuildCtrl (BitVec.ofNat 32 (2 ^ 30 + table.val)) (by decide) (by decide) h]
  have k : effectAt (portCount s m) m (Reg.tcaRebuildCtrl) Reg.tcaRebuildCtrl 0 0 ((BitVec.ofNat 32 (2 ^ 30 + table.val))).toNat = rebuildWrite (portCount s m) m.code (BitVec.ofNat 32 (2 ^ 30 + table.val)).toNat := 
    (effectAt_search (by simp only [Reg.tcaRebuildCtrl]; omega) (by simp only [Reg.tcaRebuildCtrl]; omega) (by simp [effectSearch, Reg.cblProf, Reg.cblProfEn, Reg.cblSel, Reg.hshPfxShare, Reg.tcaRebuildCtrl, Reg.tcaRebuildTotal, Reg.tcaSigBase, Reg.tcaSigReq, Reg.tcaSigSize, Reg.tolCmd, Reg.vrdFreshCmd, Reg.vrdTagReclaim, Reg.wayFlush, Reg.wayPress, Reg.wayStreamCfg]))
  rw [k]

theorem route_tcaSigReq : Route (Reg.tcaSigReq) Reg.tcaSigReq 0 0 false :=
  route_of (by decide +kernel)

theorem exec_sigReq (v : BitVec 32) (h : mayWrite s m Reg.tcaSigReq 4 = true) :
    exec (.sigReq m v) s = .next (finish s (sigRequest (portCount s m) v.toNat)) := by
  have e : exec (.sigReq m v) s = onCore s (fun t => busWrite4 t m Reg.tcaSigReq v) := rfl
  rw [e, exec_onCore (awake_of_mayWrite h), busWrite4_route route_tcaSigReq v (by decide) (by decide) h]
  have k : effectAt (portCount s m) m (Reg.tcaSigReq) Reg.tcaSigReq 0 0 (v).toNat = sigRequest (portCount s m) v.toNat := 
    (effectAt_search (by simp only [Reg.tcaSigReq]; omega) (by simp only [Reg.tcaSigReq]; omega) (by simp [effectSearch, Reg.cblProf, Reg.cblProfEn, Reg.cblSel, Reg.hshPfxShare, Reg.tcaRebuildCtrl, Reg.tcaRebuildTotal, Reg.tcaSigBase, Reg.tcaSigReq, Reg.tcaSigSize, Reg.tolCmd, Reg.vrdFreshCmd, Reg.vrdTagReclaim, Reg.wayFlush, Reg.wayPress, Reg.wayStreamCfg]))
  rw [k]

theorem route_hshPfxShare : Route (Reg.hshPfxShare) Reg.hshPfxShare 0 0 false :=
  route_of (by decide +kernel)

theorem exec_hshPfxShareWrite (v : BitVec 32) (h : mayWrite s m Reg.hshPfxShare 4 = true) :
    exec (.hshPfxShareWrite m v) s = .next (finish s (shareWrite (portCount s m) m.code v.toNat)) := by
  have e : exec (.hshPfxShareWrite m v) s = onCore s (fun t => busWrite4 t m Reg.hshPfxShare v) := rfl
  rw [e, exec_onCore (awake_of_mayWrite h), busWrite4_route route_hshPfxShare v (by decide) (by decide) h]
  have k : effectAt (portCount s m) m (Reg.hshPfxShare) Reg.hshPfxShare 0 0 (v).toNat = shareWrite (portCount s m) m.code v.toNat := 
    (effectAt_search (by simp only [Reg.hshPfxShare]; omega) (by simp only [Reg.hshPfxShare]; omega) (by simp [effectSearch, Reg.cblProf, Reg.cblProfEn, Reg.cblSel, Reg.hshPfxShare, Reg.tcaRebuildCtrl, Reg.tcaRebuildTotal, Reg.tcaSigBase, Reg.tcaSigReq, Reg.tcaSigSize, Reg.tolCmd, Reg.vrdFreshCmd, Reg.vrdTagReclaim, Reg.wayFlush, Reg.wayPress, Reg.wayStreamCfg]))
  rw [k]

theorem route_wayFlush : Route (Reg.wayFlush) Reg.wayFlush 0 0 false :=
  route_of (by decide +kernel)

theorem exec_flushStream (v : BitVec 32) (h : mayWrite s m Reg.wayFlush 4 = true) :
    exec (.flushStream m v) s = .next (finish s (wayFlushWrite (portCount s m) m.code v.toNat)) := by
  have e : exec (.flushStream m v) s = onCore s (fun t => busWrite4 t m Reg.wayFlush v) := rfl
  rw [e, exec_onCore (awake_of_mayWrite h), busWrite4_route route_wayFlush v (by decide) (by decide) h]
  have k : effectAt (portCount s m) m (Reg.wayFlush) Reg.wayFlush 0 0 (v).toNat = wayFlushWrite (portCount s m) m.code v.toNat := 
    (effectAt_search (by simp only [Reg.wayFlush]; omega) (by simp only [Reg.wayFlush]; omega) (by simp [effectSearch, Reg.cblProf, Reg.cblProfEn, Reg.cblSel, Reg.hshPfxShare, Reg.tcaRebuildCtrl, Reg.tcaRebuildTotal, Reg.tcaSigBase, Reg.tcaSigReq, Reg.tcaSigSize, Reg.tolCmd, Reg.vrdFreshCmd, Reg.vrdTagReclaim, Reg.wayFlush, Reg.wayPress, Reg.wayStreamCfg]))
  rw [k]

theorem route_wayStreamCfg : Route (Reg.wayStreamCfg) Reg.wayStreamCfg 0 0 true :=
  route_of (by decide +kernel)

theorem exec_wayStreamCfgWrite (v : BitVec 64) (h : mayWrite s m Reg.wayStreamCfg 8 = true) :
    exec (.wayStreamCfgWrite m v) s = .next (finish s (streamCfgWrite (portCount s m) m.code v.toNat)) := by
  have e : exec (.wayStreamCfgWrite m v) s = onCore s (fun t => busWrite8 t m Reg.wayStreamCfg v) := rfl
  rw [e, exec_onCore (awake_of_mayWrite h), busWrite8_route route_wayStreamCfg v (by decide) (by decide) h]
  have k : effectAt (portCount s m) m (Reg.wayStreamCfg) Reg.wayStreamCfg 0 0 (v).toNat = streamCfgWrite (portCount s m) m.code v.toNat := 
    (effectAt_search (by simp only [Reg.wayStreamCfg]; omega) (by simp only [Reg.wayStreamCfg]; omega) (by simp [effectSearch, Reg.cblProf, Reg.cblProfEn, Reg.cblSel, Reg.hshPfxShare, Reg.tcaRebuildCtrl, Reg.tcaRebuildTotal, Reg.tcaSigBase, Reg.tcaSigReq, Reg.tcaSigSize, Reg.tolCmd, Reg.vrdFreshCmd, Reg.vrdTagReclaim, Reg.wayFlush, Reg.wayPress, Reg.wayStreamCfg]))
  rw [k]

theorem route_lrnRingSize : Route (Reg.lrnRingSize) Reg.lrnRingSize 0 0 false :=
  route_of (by decide +kernel)

theorem exec_learnRingDisable (h : mayWrite s m Reg.lrnRingSize 4 = true) :
    exec (.learnRingDisable m) s = .next (finish s (lrnSizeWrite (portCount s m) m.code 0)) := by
  have e : exec (.learnRingDisable m) s = onCore s (fun t => busWrite4 t m Reg.lrnRingSize 0#32) := rfl
  rw [e, exec_onCore (awake_of_mayWrite h), busWrite4_route route_lrnRingSize 0#32 (by decide) (by decide) h]
  have k : effectAt (portCount s m) m (Reg.lrnRingSize) Reg.lrnRingSize 0 0 (0#32).toNat = lrnSizeWrite (portCount s m) m.code 0 := 
    (effectAt_mid (by simp only [Reg.lrnRingSize]; omega) (by simp only [Reg.lrnRingSize]; omega) (by simp [effectMid, Reg.ageCtrl, Reg.ageLimit, Reg.brgFailTail, Reg.brgRrdAddr, Reg.intLogTail, Reg.intMarchCtrl, Reg.intRecordClr, Reg.intRetireEnt, Reg.intTcaRetire, Reg.lrnRingBase, Reg.lrnRingSize, Reg.rglBudget, Reg.rglCeil, Reg.rglClass, Reg.rglHostUrg, Reg.rglMissTail, Reg.wltCtrl, Reg.wltTbl]))
  rw [k]

theorem route_ageLimit_table (x : Fin 64) : Route (Reg.ageLimit x.val) (Reg.ageLimit 0) x.val 0 false ∧ Reg.ageLimit x.val < spmBase ∧ (Reg.ageLimit x.val) % 4 = 0 := by
  have h : ∀ x : Fin 64, routeOk (Reg.ageLimit x.val) (Reg.ageLimit 0) x.val 0 false = true := by decide +kernel
  refine ⟨route_of (h x), ?_, ?_⟩ <;> simp only [Reg.ageLimit, spmBase] <;> omega

theorem exec_ageLimitWrite (table : Fin 64) (v : BitVec 32) (h : mayWrite s m (Reg.ageLimit table.val) 4 = true) :
    exec (.ageLimitWrite m table v) s = .next (finish s (Sys2Proof.Machine.ageLimitWrite (portCount s m) m.code table.val v.toNat)) := by
  have e : exec (.ageLimitWrite m table v) s = onCore s (fun t => busWrite4 t m (Reg.ageLimit table.val) v) := rfl
  rw [e, exec_onCore (awake_of_mayWrite h), busWrite4_route (route_ageLimit_table table).1 v (route_ageLimit_table table).2.1 (route_ageLimit_table table).2.2 h]
  have k : effectAt (portCount s m) m (Reg.ageLimit 0) (Reg.ageLimit table.val) table.val 0 (v).toNat = Sys2Proof.Machine.ageLimitWrite (portCount s m) m.code table.val v.toNat := 
    (effectAt_mid (by have := table.isLt; simp only [Reg.ageLimit]; omega) (by have := table.isLt; simp only [Reg.ageLimit]; omega) (by simp [effectMid, Reg.ageCtrl, Reg.ageLimit, Reg.brgFailTail, Reg.brgRrdAddr, Reg.intLogTail, Reg.intMarchCtrl, Reg.intRecordClr, Reg.intRetireEnt, Reg.intTcaRetire, Reg.lrnRingBase, Reg.lrnRingSize, Reg.rglBudget, Reg.rglCeil, Reg.rglClass, Reg.rglHostUrg, Reg.rglMissTail, Reg.wltCtrl, Reg.wltTbl]))
  rw [k]

theorem route_ageCtrl : Route (Reg.ageCtrl) Reg.ageCtrl 0 0 false :=
  route_of (by decide +kernel)

theorem exec_agingEnable (v : BitVec 32) (h : mayWrite s m Reg.ageCtrl 4 = true) :
    exec (.agingEnable m v) s = .next (finish s (ageCtrlWrite (portCount s m) m.code v.toNat)) := by
  have e : exec (.agingEnable m v) s = onCore s (fun t => busWrite4 t m Reg.ageCtrl v) := rfl
  rw [e, exec_onCore (awake_of_mayWrite h), busWrite4_route route_ageCtrl v (by decide) (by decide) h]
  have k : effectAt (portCount s m) m (Reg.ageCtrl) Reg.ageCtrl 0 0 (v).toNat = ageCtrlWrite (portCount s m) m.code v.toNat := 
    (effectAt_mid (by simp only [Reg.ageCtrl]; omega) (by simp only [Reg.ageCtrl]; omega) (by simp [effectMid, Reg.ageCtrl, Reg.ageLimit, Reg.brgFailTail, Reg.brgRrdAddr, Reg.intLogTail, Reg.intMarchCtrl, Reg.intRecordClr, Reg.intRetireEnt, Reg.intTcaRetire, Reg.lrnRingBase, Reg.lrnRingSize, Reg.rglBudget, Reg.rglCeil, Reg.rglClass, Reg.rglHostUrg, Reg.rglMissTail, Reg.wltCtrl, Reg.wltTbl]))
  rw [k]

theorem route_rglClass_c (x : Fin 8) : Route (Reg.rglClass x.val) (Reg.rglClass 0) x.val 0 true ∧ Reg.rglClass x.val < spmBase ∧ (Reg.rglClass x.val) % 8 = 0 := by
  have h : ∀ x : Fin 8, routeOk (Reg.rglClass x.val) (Reg.rglClass 0) x.val 0 true = true := by decide +kernel
  refine ⟨route_of (h x), ?_, ?_⟩ <;> simp only [Reg.rglClass, spmBase] <;> omega

theorem exec_rglClassCommit (c : Fin 8) (v : BitVec 64) (h : mayWrite s m (Reg.rglClass c.val) 8 = true) :
    exec (.rglClassCommit m c v) s = .next (finish s (classCommit (portCount s m) m.code c.val v.toNat)) := by
  have e : exec (.rglClassCommit m c v) s = onCore s (fun t => busWrite8 t m (Reg.rglClass c.val) v) := rfl
  rw [e, exec_onCore (awake_of_mayWrite h), busWrite8_route (route_rglClass_c c).1 v (route_rglClass_c c).2.1 (route_rglClass_c c).2.2 h]
  have k : effectAt (portCount s m) m (Reg.rglClass 0) (Reg.rglClass c.val) c.val 0 (v).toNat = classCommit (portCount s m) m.code c.val v.toNat := 
    (effectAt_mid (by have := c.isLt; simp only [Reg.rglClass]; omega) (by have := c.isLt; simp only [Reg.rglClass]; omega) (by simp [effectMid, Reg.ageCtrl, Reg.ageLimit, Reg.brgFailTail, Reg.brgRrdAddr, Reg.intLogTail, Reg.intMarchCtrl, Reg.intRecordClr, Reg.intRetireEnt, Reg.intTcaRetire, Reg.lrnRingBase, Reg.lrnRingSize, Reg.rglBudget, Reg.rglCeil, Reg.rglClass, Reg.rglHostUrg, Reg.rglMissTail, Reg.wltCtrl, Reg.wltTbl]))
  rw [k]

theorem route_wltCtrl_k (x : Fin 2) : Route (Reg.wltCtrl x.val) (Reg.wltCtrl 0) x.val 0 false ∧ Reg.wltCtrl x.val < spmBase ∧ (Reg.wltCtrl x.val) % 4 = 0 := by
  have h : ∀ x : Fin 2, routeOk (Reg.wltCtrl x.val) (Reg.wltCtrl 0) x.val 0 false = true := by decide +kernel
  refine ⟨route_of (h x), ?_, ?_⟩ <;> simp only [Reg.wltCtrl, spmBase] <;> omega

theorem exec_weltRestart (k : Fin 2) (v : BitVec 32) (h : mayWrite s m (Reg.wltCtrl k.val) 4 = true) :
    exec (.weltRestart m k v) s = .next (finish s (weltCtrlWrite (portCount s m) m.code k.val v.toNat)) := by
  have e : exec (.weltRestart m k v) s = onCore s (fun t => busWrite4 t m (Reg.wltCtrl k.val) v) := rfl
  rw [e, exec_onCore (awake_of_mayWrite h), busWrite4_route (route_wltCtrl_k k).1 v (route_wltCtrl_k k).2.1 (route_wltCtrl_k k).2.2 h]
  have k : effectAt (portCount s m) m (Reg.wltCtrl 0) (Reg.wltCtrl k.val) k.val 0 (v).toNat = weltCtrlWrite (portCount s m) m.code k.val v.toNat := 
    (effectAt_mid (by have := k.isLt; simp only [Reg.wltCtrl]; omega) (by have := k.isLt; simp only [Reg.wltCtrl]; omega) (by simp [effectMid, Reg.ageCtrl, Reg.ageLimit, Reg.brgFailTail, Reg.brgRrdAddr, Reg.intLogTail, Reg.intMarchCtrl, Reg.intRecordClr, Reg.intRetireEnt, Reg.intTcaRetire, Reg.lrnRingBase, Reg.lrnRingSize, Reg.rglBudget, Reg.rglCeil, Reg.rglClass, Reg.rglHostUrg, Reg.rglMissTail, Reg.wltCtrl, Reg.wltTbl]))
  rw [k]

theorem route_brgRrdAddr_ix (x : Fin 4) : Route (Reg.brgRrdAddr x.val) (Reg.brgRrdAddr 0) x.val 0 false ∧ Reg.brgRrdAddr x.val < spmBase ∧ (Reg.brgRrdAddr x.val) % 4 = 0 := by
  have h : ∀ x : Fin 4, routeOk (Reg.brgRrdAddr x.val) (Reg.brgRrdAddr 0) x.val 0 false = true := by decide +kernel
  refine ⟨route_of (h x), ?_, ?_⟩ <;> simp only [Reg.brgRrdAddr, spmBase] <;> omega

theorem exec_brgRrdAddrWrite (ix : Fin 4) (v : BitVec 32) (h : mayWrite s m (Reg.brgRrdAddr ix.val) 4 = true) :
    exec (.brgRrdAddrWrite m ix v) s = .next (finish s (rrdWrite (portCount s m) m ix.val v.toNat)) := by
  have e : exec (.brgRrdAddrWrite m ix v) s = onCore s (fun t => busWrite4 t m (Reg.brgRrdAddr ix.val) v) := rfl
  rw [e, exec_onCore (awake_of_mayWrite h), busWrite4_route (route_brgRrdAddr_ix ix).1 v (route_brgRrdAddr_ix ix).2.1 (route_brgRrdAddr_ix ix).2.2 h]
  have k : effectAt (portCount s m) m (Reg.brgRrdAddr 0) (Reg.brgRrdAddr ix.val) ix.val 0 (v).toNat = rrdWrite (portCount s m) m ix.val v.toNat := 
    (effectAt_mid (by have := ix.isLt; simp only [Reg.brgRrdAddr]; omega) (by have := ix.isLt; simp only [Reg.brgRrdAddr]; omega) (by simp [effectMid, Reg.ageCtrl, Reg.ageLimit, Reg.brgFailTail, Reg.brgRrdAddr, Reg.intLogTail, Reg.intMarchCtrl, Reg.intRecordClr, Reg.intRetireEnt, Reg.intTcaRetire, Reg.lrnRingBase, Reg.lrnRingSize, Reg.rglBudget, Reg.rglCeil, Reg.rglClass, Reg.rglHostUrg, Reg.rglMissTail, Reg.wltCtrl, Reg.wltTbl]))
  rw [k]

theorem route_intRetireEnt : Route (Reg.intRetireEnt) Reg.intRetireEnt 0 0 true :=
  route_of (by decide +kernel)

theorem exec_retireEntWrite (v : BitVec 64) (h : mayWrite s m Reg.intRetireEnt 8 = true) :
    exec (.retireEntWrite m v) s = .next (finish s (retireWrite (portCount s m) m.code v.toNat)) := by
  have e : exec (.retireEntWrite m v) s = onCore s (fun t => busWrite8 t m Reg.intRetireEnt v) := rfl
  rw [e, exec_onCore (awake_of_mayWrite h), busWrite8_route route_intRetireEnt v (by decide) (by decide) h]
  have k : effectAt (portCount s m) m (Reg.intRetireEnt) Reg.intRetireEnt 0 0 (v).toNat = retireWrite (portCount s m) m.code v.toNat := 
    (effectAt_mid (by simp only [Reg.intRetireEnt]; omega) (by simp only [Reg.intRetireEnt]; omega) (by simp [effectMid, Reg.ageCtrl, Reg.ageLimit, Reg.brgFailTail, Reg.brgRrdAddr, Reg.intLogTail, Reg.intMarchCtrl, Reg.intRecordClr, Reg.intRetireEnt, Reg.intTcaRetire, Reg.lrnRingBase, Reg.lrnRingSize, Reg.rglBudget, Reg.rglCeil, Reg.rglClass, Reg.rglHostUrg, Reg.rglMissTail, Reg.wltCtrl, Reg.wltTbl]))
  rw [k]

theorem route_intTcaRetire : Route (Reg.intTcaRetire) Reg.intTcaRetire 0 0 false :=
  route_of (by decide +kernel)

theorem exec_tcaBlockRetire (v : BitVec 32) (h : mayWrite s m Reg.intTcaRetire 4 = true) :
    exec (.tcaBlockRetire m v) s = .next (finish s (tcaRetireWrite (portCount s m) m.code v.toNat)) := by
  have e : exec (.tcaBlockRetire m v) s = onCore s (fun t => busWrite4 t m Reg.intTcaRetire v) := rfl
  rw [e, exec_onCore (awake_of_mayWrite h), busWrite4_route route_intTcaRetire v (by decide) (by decide) h]
  have k : effectAt (portCount s m) m (Reg.intTcaRetire) Reg.intTcaRetire 0 0 (v).toNat = tcaRetireWrite (portCount s m) m.code v.toNat := 
    (effectAt_mid (by simp only [Reg.intTcaRetire]; omega) (by simp only [Reg.intTcaRetire]; omega) (by simp [effectMid, Reg.ageCtrl, Reg.ageLimit, Reg.brgFailTail, Reg.brgRrdAddr, Reg.intLogTail, Reg.intMarchCtrl, Reg.intRecordClr, Reg.intRetireEnt, Reg.intTcaRetire, Reg.lrnRingBase, Reg.lrnRingSize, Reg.rglBudget, Reg.rglCeil, Reg.rglClass, Reg.rglHostUrg, Reg.rglMissTail, Reg.wltCtrl, Reg.wltTbl]))
  rw [k]

theorem route_intRecordClr : Route (Reg.intRecordClr) Reg.intRecordClr 0 0 false :=
  route_of (by decide +kernel)

theorem exec_recordClr (v : BitVec 32) (h : mayWrite s m Reg.intRecordClr 4 = true) :
    exec (.recordClr m v) s = .next (finish s (Sys2Proof.Machine.recordClr (portCount s m) m.code v.toNat)) := by
  have e : exec (.recordClr m v) s = onCore s (fun t => busWrite4 t m Reg.intRecordClr v) := rfl
  rw [e, exec_onCore (awake_of_mayWrite h), busWrite4_route route_intRecordClr v (by decide) (by decide) h]
  have k : effectAt (portCount s m) m (Reg.intRecordClr) Reg.intRecordClr 0 0 (v).toNat = Sys2Proof.Machine.recordClr (portCount s m) m.code v.toNat := 
    (effectAt_mid (by simp only [Reg.intRecordClr]; omega) (by simp only [Reg.intRecordClr]; omega) (by simp [effectMid, Reg.ageCtrl, Reg.ageLimit, Reg.brgFailTail, Reg.brgRrdAddr, Reg.intLogTail, Reg.intMarchCtrl, Reg.intRecordClr, Reg.intRetireEnt, Reg.intTcaRetire, Reg.lrnRingBase, Reg.lrnRingSize, Reg.rglBudget, Reg.rglCeil, Reg.rglClass, Reg.rglHostUrg, Reg.rglMissTail, Reg.wltCtrl, Reg.wltTbl]))
  rw [k]

theorem route_intFlipCtrl : Route (Reg.intFlipCtrl) Reg.intFlipCtrl 0 0 false :=
  route_of (by decide +kernel)

theorem exec_flipArm (v : BitVec 32) (h : mayWrite s m Reg.intFlipCtrl 4 = true) :
    exec (.flipArm m v) s = .next (finish s (commitFields (portCount s m) m.code Reg.intFlipCtrl v.toNat)) := by
  have e : exec (.flipArm m v) s = onCore s (fun t => busWrite4 t m Reg.intFlipCtrl v) := rfl
  rw [e, exec_onCore (awake_of_mayWrite h), busWrite4_route route_intFlipCtrl v (by decide) (by decide) h]
  have k : effectAt (portCount s m) m (Reg.intFlipCtrl) Reg.intFlipCtrl 0 0 (v).toNat = commitFields (portCount s m) m.code Reg.intFlipCtrl v.toNat := 
    (by rw [effectAt]; simp [effectMid, Reg.ageCtrl, Reg.ageLimit, Reg.brgFailTail, Reg.brgRrdAddr, Reg.intLogTail, Reg.intMarchCtrl, Reg.intRecordClr, Reg.intRetireEnt, Reg.intTcaRetire, Reg.lrnRingBase, Reg.lrnRingSize, Reg.rglBudget, Reg.rglCeil, Reg.rglClass, Reg.rglHostUrg, Reg.rglMissTail, Reg.wltCtrl, Reg.wltTbl, Reg.intFlipCtrl])
  rw [k]

theorem route_intMarchCtrl : Route (Reg.intMarchCtrl) Reg.intMarchCtrl 0 0 false :=
  route_of (by decide +kernel)

theorem exec_marchGo (v : BitVec 32) (h : mayWrite s m Reg.intMarchCtrl 4 = true) :
    exec (.marchGo m v) s = .next (finish s (Sys2Proof.Machine.marchGo (portCount s m) m.code v.toNat)) := by
  have e : exec (.marchGo m v) s = onCore s (fun t => busWrite4 t m Reg.intMarchCtrl v) := rfl
  rw [e, exec_onCore (awake_of_mayWrite h), busWrite4_route route_intMarchCtrl v (by decide) (by decide) h]
  have k : effectAt (portCount s m) m (Reg.intMarchCtrl) Reg.intMarchCtrl 0 0 (v).toNat = Sys2Proof.Machine.marchGo (portCount s m) m.code v.toNat := 
    (effectAt_mid (by simp only [Reg.intMarchCtrl]; omega) (by simp only [Reg.intMarchCtrl]; omega) (by simp [effectMid, Reg.ageCtrl, Reg.ageLimit, Reg.brgFailTail, Reg.brgRrdAddr, Reg.intLogTail, Reg.intMarchCtrl, Reg.intRecordClr, Reg.intRetireEnt, Reg.intTcaRetire, Reg.lrnRingBase, Reg.lrnRingSize, Reg.rglBudget, Reg.rglCeil, Reg.rglClass, Reg.rglHostUrg, Reg.rglMissTail, Reg.wltCtrl, Reg.wltTbl]))
  rw [k]

theorem route_hstIntRearm_f (x : Fin 2) : Route (Reg.hstIntRearm x.val) (Reg.hstIntRearm 0) x.val 0 false ∧ Reg.hstIntRearm x.val < spmBase ∧ (Reg.hstIntRearm x.val) % 4 = 0 := by
  have h : ∀ x : Fin 2, routeOk (Reg.hstIntRearm x.val) (Reg.hstIntRearm 0) x.val 0 false = true := by decide +kernel
  refine ⟨route_of (h x), ?_, ?_⟩ <;> simp only [Reg.hstIntRearm, spmBase] <;> omega

theorem exec_intRearm (f : Fin 2) (v : BitVec 32) (h : mayWrite s m (Reg.hstIntRearm f.val) 4 = true) :
    exec (.intRearm m f v) s = .next (finish s (Sys2Proof.Machine.intRearm (portCount s m) f.val v.toNat)) := by
  have e : exec (.intRearm m f v) s = onCore s (fun t => busWrite4 t m (Reg.hstIntRearm f.val) v) := rfl
  rw [e, exec_onCore (awake_of_mayWrite h), busWrite4_route (route_hstIntRearm_f f).1 v (route_hstIntRearm_f f).2.1 (route_hstIntRearm_f f).2.2 h]
  have k : effectAt (portCount s m) m (Reg.hstIntRearm 0) (Reg.hstIntRearm f.val) f.val 0 (v).toNat = Sys2Proof.Machine.intRearm (portCount s m) f.val v.toNat := 
    (effectAt_hst (by have := f.isLt; simp only [Reg.hstIntRearm]; omega) (by have := f.isLt; simp only [Reg.hstIntRearm]; omega) (by simp [effectHst, Reg.hstDmaCtrl, Reg.hstDmaTail, Reg.hstIntRearm, Reg.hstTcrBase, Reg.hstTcrCbase, Reg.hstTcrCtrl, Reg.hstTcrTail]))
  rw [k]

theorem route_hstDmaTail_n (x : Fin 8) : Route (Reg.hstDmaTail x.val) (Reg.hstDmaTail 0) x.val 0 false ∧ Reg.hstDmaTail x.val < spmBase ∧ (Reg.hstDmaTail x.val) % 4 = 0 := by
  have h : ∀ x : Fin 8, routeOk (Reg.hstDmaTail x.val) (Reg.hstDmaTail 0) x.val 0 false = true := by decide +kernel
  refine ⟨route_of (h x), ?_, ?_⟩ <;> simp only [Reg.hstDmaTail, spmBase] <;> omega

theorem exec_dmaDoorbell (n : Fin 8) (v : BitVec 32) (h : mayWrite s m (Reg.hstDmaTail n.val) 4 = true) :
    exec (.dmaDoorbell m n v) s = .next (finish s (Sys2Proof.Machine.dmaDoorbell (portCount s m) m n.val v.toNat)) := by
  have e : exec (.dmaDoorbell m n v) s = onCore s (fun t => busWrite4 t m (Reg.hstDmaTail n.val) v) := rfl
  rw [e, exec_onCore (awake_of_mayWrite h), busWrite4_route (route_hstDmaTail_n n).1 v (route_hstDmaTail_n n).2.1 (route_hstDmaTail_n n).2.2 h]
  have k : effectAt (portCount s m) m (Reg.hstDmaTail 0) (Reg.hstDmaTail n.val) n.val 0 (v).toNat = Sys2Proof.Machine.dmaDoorbell (portCount s m) m n.val v.toNat := 
    (effectAt_hst (by have := n.isLt; simp only [Reg.hstDmaTail]; omega) (by have := n.isLt; simp only [Reg.hstDmaTail]; omega) (by simp [effectHst, Reg.hstDmaCtrl, Reg.hstDmaTail, Reg.hstIntRearm, Reg.hstTcrBase, Reg.hstTcrCbase, Reg.hstTcrCtrl, Reg.hstTcrTail]))
  rw [k]

theorem route_hstDmaCtrl_n (x : Fin 8) : Route (Reg.hstDmaCtrl x.val) (Reg.hstDmaCtrl 0) x.val 0 false ∧ Reg.hstDmaCtrl x.val < spmBase ∧ (Reg.hstDmaCtrl x.val) % 4 = 0 := by
  have h : ∀ x : Fin 8, routeOk (Reg.hstDmaCtrl x.val) (Reg.hstDmaCtrl 0) x.val 0 false = true := by decide +kernel
  refine ⟨route_of (h x), ?_, ?_⟩ <;> simp only [Reg.hstDmaCtrl, spmBase] <;> omega

theorem exec_dmaEnable (n : Fin 8) (v : BitVec 32) (h : mayWrite s m (Reg.hstDmaCtrl n.val) 4 = true) :
    exec (.dmaEnable m n v) s = .next (finish s (dmaCtrlWrite (portCount s m) m n.val v.toNat)) := by
  have e : exec (.dmaEnable m n v) s = onCore s (fun t => busWrite4 t m (Reg.hstDmaCtrl n.val) v) := rfl
  rw [e, exec_onCore (awake_of_mayWrite h), busWrite4_route (route_hstDmaCtrl_n n).1 v (route_hstDmaCtrl_n n).2.1 (route_hstDmaCtrl_n n).2.2 h]
  have k : effectAt (portCount s m) m (Reg.hstDmaCtrl 0) (Reg.hstDmaCtrl n.val) n.val 0 (v).toNat = dmaCtrlWrite (portCount s m) m n.val v.toNat := 
    (effectAt_hst (by have := n.isLt; simp only [Reg.hstDmaCtrl]; omega) (by have := n.isLt; simp only [Reg.hstDmaCtrl]; omega) (by simp [effectHst, Reg.hstDmaCtrl, Reg.hstDmaTail, Reg.hstIntRearm, Reg.hstTcrBase, Reg.hstTcrCbase, Reg.hstTcrCtrl, Reg.hstTcrTail]))
  rw [k]

theorem exec_dmaResume (n : Fin 8) (v : BitVec 32) (h : mayWrite s m (Reg.hstDmaCtrl n.val) 4 = true) :
    exec (.dmaResume m n v) s = .next (finish s (dmaCtrlWrite (portCount s m) m n.val v.toNat)) := by
  have e : exec (.dmaResume m n v) s = onCore s (fun t => busWrite4 t m (Reg.hstDmaCtrl n.val) v) := rfl
  rw [e, exec_onCore (awake_of_mayWrite h), busWrite4_route (route_hstDmaCtrl_n n).1 v (route_hstDmaCtrl_n n).2.1 (route_hstDmaCtrl_n n).2.2 h]
  have k : effectAt (portCount s m) m (Reg.hstDmaCtrl 0) (Reg.hstDmaCtrl n.val) n.val 0 (v).toNat = dmaCtrlWrite (portCount s m) m n.val v.toNat := 
    (effectAt_hst (by have := n.isLt; simp only [Reg.hstDmaCtrl]; omega) (by have := n.isLt; simp only [Reg.hstDmaCtrl]; omega) (by simp [effectHst, Reg.hstDmaCtrl, Reg.hstDmaTail, Reg.hstIntRearm, Reg.hstTcrBase, Reg.hstTcrCbase, Reg.hstTcrCtrl, Reg.hstTcrTail]))
  rw [k]

theorem exec_dmaSkip (n : Fin 8) (v : BitVec 32) (h : mayWrite s m (Reg.hstDmaCtrl n.val) 4 = true) :
    exec (.dmaSkip m n v) s = .next (finish s (dmaCtrlWrite (portCount s m) m n.val v.toNat)) := by
  have e : exec (.dmaSkip m n v) s = onCore s (fun t => busWrite4 t m (Reg.hstDmaCtrl n.val) v) := rfl
  rw [e, exec_onCore (awake_of_mayWrite h), busWrite4_route (route_hstDmaCtrl_n n).1 v (route_hstDmaCtrl_n n).2.1 (route_hstDmaCtrl_n n).2.2 h]
  have k : effectAt (portCount s m) m (Reg.hstDmaCtrl 0) (Reg.hstDmaCtrl n.val) n.val 0 (v).toNat = dmaCtrlWrite (portCount s m) m n.val v.toNat := 
    (effectAt_hst (by have := n.isLt; simp only [Reg.hstDmaCtrl]; omega) (by have := n.isLt; simp only [Reg.hstDmaCtrl]; omega) (by simp [effectHst, Reg.hstDmaCtrl, Reg.hstDmaTail, Reg.hstIntRearm, Reg.hstTcrBase, Reg.hstTcrCbase, Reg.hstTcrCtrl, Reg.hstTcrTail]))
  rw [k]

theorem route_seqWdogKick : Route (Reg.seqWdogKick) Reg.seqWdogKick 0 0 false :=
  route_of (by decide +kernel)

theorem exec_wdogKick (v : BitVec 32) (h : mayWrite s m Reg.seqWdogKick 4 = true) :
    exec (.wdogKick m v) s = .next (finish s (Sys2Proof.Machine.wdogKick (portCount s m) (v.toNat % 65536))) := by
  have e : exec (.wdogKick m v) s = onCore s (fun t => busWrite4 t m Reg.seqWdogKick v) := rfl
  rw [e, exec_onCore (awake_of_mayWrite h), busWrite4_route route_seqWdogKick v (by decide) (by decide) h]
  have k : effectAt (portCount s m) m (Reg.seqWdogKick) Reg.seqWdogKick 0 0 (v).toNat = Sys2Proof.Machine.wdogKick (portCount s m) (v.toNat % 65536) := 
    (effectAt_high (by simp only [Reg.seqWdogKick]; omega) (by simp [effectHigh, Reg.canCtrl, Reg.canDbt, Reg.canNbt, Reg.canTdc, Reg.lcsCmd, Reg.nvcAccCmd, Reg.nvcCkptCtrl, Reg.seqMboxCmd, Reg.seqMboxIn, Reg.seqWdog, Reg.seqWdogKick]))
  rw [k]

theorem route_seqCtrl : Route (Reg.seqCtrl) Reg.seqCtrl 0 0 false :=
  route_of (by decide +kernel)

theorem exec_secureClear (h : mayWrite s m Reg.seqCtrl 4 = true) :
    exec (.secureClear m) s = .next (finish s (commitFields (portCount s m) m.code Reg.seqCtrl 1)) := by
  have e : exec (.secureClear m) s = onCore s (fun t => busWrite4 t m Reg.seqCtrl 1#32) := rfl
  rw [e, exec_onCore (awake_of_mayWrite h), busWrite4_route route_seqCtrl 1#32 (by decide) (by decide) h]
  have k : effectAt (portCount s m) m (Reg.seqCtrl) Reg.seqCtrl 0 0 (1#32).toNat = commitFields (portCount s m) m.code Reg.seqCtrl 1 := 
    (by rw [effectAt]; simp [effectHigh, Reg.canCtrl, Reg.canDbt, Reg.canNbt, Reg.canTdc, Reg.lcsCmd, Reg.nvcAccCmd, Reg.nvcCkptCtrl, Reg.seqMboxCmd, Reg.seqMboxIn, Reg.seqWdog, Reg.seqWdogKick, Reg.seqCtrl])
  rw [k]

theorem route_canCtrl : Route (Reg.canCtrl) Reg.canCtrl 0 0 false :=
  route_of (by decide +kernel)

theorem exec_recover (v : BitVec 32) (h : mayWrite s m Reg.canCtrl 4 = true) :
    exec (.recover m v) s = .next (finish s (canCtrlWrite (portCount s m) m.code v.toNat)) := by
  have e : exec (.recover m v) s = onCore s (fun t => busWrite4 t m Reg.canCtrl v) := rfl
  rw [e, exec_onCore (awake_of_mayWrite h), busWrite4_route route_canCtrl v (by decide) (by decide) h]
  have k : effectAt (portCount s m) m (Reg.canCtrl) Reg.canCtrl 0 0 (v).toNat = canCtrlWrite (portCount s m) m.code v.toNat := 
    (effectAt_high (by simp only [Reg.canCtrl]; omega) (by simp [effectHigh, Reg.canCtrl, Reg.canDbt, Reg.canNbt, Reg.canTdc, Reg.lcsCmd, Reg.nvcAccCmd, Reg.nvcCkptCtrl, Reg.seqMboxCmd, Reg.seqMboxIn, Reg.seqWdog, Reg.seqWdogKick]))
  rw [k]

theorem route_pwrCtrl : Route (Reg.pwrCtrl) Reg.pwrCtrl 0 0 false :=
  route_of (by decide +kernel)

theorem exec_parkRequest (key : BitVec 16) (h : mayWrite s m Reg.pwrCtrl 4 = true) :
    exec (.parkRequest m key) s = .next (finish s (pwrCtrlWrite (portCount s m) m (pwrWord key 1).toNat)) := by
  have e : exec (.parkRequest m key) s = onCore s (fun t => busWrite4 t m Reg.pwrCtrl (pwrWord key 1)) := rfl
  rw [e, exec_onCore (awake_of_mayWrite h), busWrite4_route route_pwrCtrl (pwrWord key 1) (by decide) (by decide) h]
  have k : effectAt (portCount s m) m (Reg.pwrCtrl) Reg.pwrCtrl 0 0 ((pwrWord key 1)).toNat = pwrCtrlWrite (portCount s m) m (pwrWord key 1).toNat := 
    (effectAt_low (by simp only [Reg.pwrCtrl]; omega) (by simp [effectLow, Reg.imgCtrl, Reg.imgFcmd, Reg.milCtrl, Reg.milOffset, Reg.milPpsOut, Reg.milRate, Reg.milSet, Reg.milTodNext, Reg.milTrigCtrl, Reg.milTrigPeriod, Reg.milTrigPhase, Reg.milTrigWidth, Reg.pwrCtrl, Reg.pwrHold, Reg.tapCtrl, Reg.tapForceCred, Reg.topLedgerStat]))
  rw [k]

theorem exec_cold (key : BitVec 16) (h : mayWrite s m Reg.pwrCtrl 4 = true) :
    exec (.cold m key) s = .next (finish s (pwrCtrlWrite (portCount s m) m (pwrWord key 2).toNat)) := by
  have e : exec (.cold m key) s = onCore s (fun t => busWrite4 t m Reg.pwrCtrl (pwrWord key 2)) := rfl
  rw [e, exec_onCore (awake_of_mayWrite h), busWrite4_route route_pwrCtrl (pwrWord key 2) (by decide) (by decide) h]
  have k : effectAt (portCount s m) m (Reg.pwrCtrl) Reg.pwrCtrl 0 0 ((pwrWord key 2)).toNat = pwrCtrlWrite (portCount s m) m (pwrWord key 2).toNat := 
    (effectAt_low (by simp only [Reg.pwrCtrl]; omega) (by simp [effectLow, Reg.imgCtrl, Reg.imgFcmd, Reg.milCtrl, Reg.milOffset, Reg.milPpsOut, Reg.milRate, Reg.milSet, Reg.milTodNext, Reg.milTrigCtrl, Reg.milTrigPeriod, Reg.milTrigPhase, Reg.milTrigWidth, Reg.pwrCtrl, Reg.pwrHold, Reg.tapCtrl, Reg.tapForceCred, Reg.topLedgerStat]))
  rw [k]

theorem route_nvcCkptCtrl : Route (Reg.nvcCkptCtrl) Reg.nvcCkptCtrl 0 0 false :=
  route_of (by decide +kernel)

theorem exec_ckptGo (v : BitVec 32) (h : mayWrite s m Reg.nvcCkptCtrl 4 = true) :
    exec (.ckptGo m v) s = .next (finish s (Sys2Proof.Machine.ckptGo (portCount s m) m.code v.toNat)) := by
  have e : exec (.ckptGo m v) s = onCore s (fun t => busWrite4 t m Reg.nvcCkptCtrl v) := rfl
  rw [e, exec_onCore (awake_of_mayWrite h), busWrite4_route route_nvcCkptCtrl v (by decide) (by decide) h]
  have k : effectAt (portCount s m) m (Reg.nvcCkptCtrl) Reg.nvcCkptCtrl 0 0 (v).toNat = Sys2Proof.Machine.ckptGo (portCount s m) m.code v.toNat := 
    (effectAt_high (by simp only [Reg.nvcCkptCtrl]; omega) (by simp [effectHigh, Reg.canCtrl, Reg.canDbt, Reg.canNbt, Reg.canTdc, Reg.lcsCmd, Reg.nvcAccCmd, Reg.nvcCkptCtrl, Reg.seqMboxCmd, Reg.seqMboxIn, Reg.seqWdog, Reg.seqWdogKick]))
  rw [k]

theorem route_lcsCmd : Route (Reg.lcsCmd) Reg.lcsCmd 0 0 false :=
  route_of (by decide +kernel)

theorem exec_keySet (slot : Fin 4) (h : mayWrite s m Reg.lcsCmd 4 = true) :
    exec (.keySet m slot) s = .next (finish s (lcsCmdWrite (portCount s m) m (lcsWord 1 slot.val 0).toNat)) := by
  have e : exec (.keySet m slot) s = onCore s (fun t => busWrite4 t m Reg.lcsCmd (lcsWord 1 slot.val 0)) := rfl
  rw [e, exec_onCore (awake_of_mayWrite h), busWrite4_route route_lcsCmd (lcsWord 1 slot.val 0) (by decide) (by decide) h]
  have k : effectAt (portCount s m) m (Reg.lcsCmd) Reg.lcsCmd 0 0 ((lcsWord 1 slot.val 0)).toNat = lcsCmdWrite (portCount s m) m (lcsWord 1 slot.val 0).toNat := 
    (effectAt_high (by simp only [Reg.lcsCmd]; omega) (by simp [effectHigh, Reg.canCtrl, Reg.canDbt, Reg.canNbt, Reg.canTdc, Reg.lcsCmd, Reg.nvcAccCmd, Reg.nvcCkptCtrl, Reg.seqMboxCmd, Reg.seqMboxIn, Reg.seqWdog, Reg.seqWdogKick]))
  rw [k]

theorem exec_keyRevoke (slot : Fin 4) (h : mayWrite s m Reg.lcsCmd 4 = true) :
    exec (.keyRevoke m slot) s = .next (finish s (lcsCmdWrite (portCount s m) m (lcsWord 2 slot.val 0).toNat)) := by
  have e : exec (.keyRevoke m slot) s = onCore s (fun t => busWrite4 t m Reg.lcsCmd (lcsWord 2 slot.val 0)) := rfl
  rw [e, exec_onCore (awake_of_mayWrite h), busWrite4_route route_lcsCmd (lcsWord 2 slot.val 0) (by decide) (by decide) h]
  have k : effectAt (portCount s m) m (Reg.lcsCmd) Reg.lcsCmd 0 0 ((lcsWord 2 slot.val 0)).toNat = lcsCmdWrite (portCount s m) m (lcsWord 2 slot.val 0).toNat := 
    (effectAt_high (by simp only [Reg.lcsCmd]; omega) (by simp [effectHigh, Reg.canCtrl, Reg.canDbt, Reg.canNbt, Reg.canTdc, Reg.lcsCmd, Reg.nvcAccCmd, Reg.nvcCkptCtrl, Reg.seqMboxCmd, Reg.seqMboxIn, Reg.seqWdog, Reg.seqWdogKick]))
  rw [k]

theorem exec_secVer (arg : Fin 128) (h : mayWrite s m Reg.lcsCmd 4 = true) :
    exec (.secVer m arg) s = .next (finish s (lcsCmdWrite (portCount s m) m (lcsWord 3 0 arg.val).toNat)) := by
  have e : exec (.secVer m arg) s = onCore s (fun t => busWrite4 t m Reg.lcsCmd (lcsWord 3 0 arg.val)) := rfl
  rw [e, exec_onCore (awake_of_mayWrite h), busWrite4_route route_lcsCmd (lcsWord 3 0 arg.val) (by decide) (by decide) h]
  have k : effectAt (portCount s m) m (Reg.lcsCmd) Reg.lcsCmd 0 0 ((lcsWord 3 0 arg.val)).toNat = lcsCmdWrite (portCount s m) m (lcsWord 3 0 arg.val).toNat := 
    (effectAt_high (by simp only [Reg.lcsCmd]; omega) (by simp [effectHigh, Reg.canCtrl, Reg.canDbt, Reg.canNbt, Reg.canTdc, Reg.lcsCmd, Reg.nvcAccCmd, Reg.nvcCkptCtrl, Reg.seqMboxCmd, Reg.seqMboxIn, Reg.seqWdog, Reg.seqWdogKick]))
  rw [k]

theorem exec_toDevelop (h : mayWrite s m Reg.lcsCmd 4 = true) :
    exec (.toDevelop m) s = .next (finish s (lcsCmdWrite (portCount s m) m (lcsWord 4 0 0).toNat)) := by
  have e : exec (.toDevelop m) s = onCore s (fun t => busWrite4 t m Reg.lcsCmd (lcsWord 4 0 0)) := rfl
  rw [e, exec_onCore (awake_of_mayWrite h), busWrite4_route route_lcsCmd (lcsWord 4 0 0) (by decide) (by decide) h]
  have k : effectAt (portCount s m) m (Reg.lcsCmd) Reg.lcsCmd 0 0 ((lcsWord 4 0 0)).toNat = lcsCmdWrite (portCount s m) m (lcsWord 4 0 0).toNat := 
    (effectAt_high (by simp only [Reg.lcsCmd]; omega) (by simp [effectHigh, Reg.canCtrl, Reg.canDbt, Reg.canNbt, Reg.canTdc, Reg.lcsCmd, Reg.nvcAccCmd, Reg.nvcCkptCtrl, Reg.seqMboxCmd, Reg.seqMboxIn, Reg.seqWdog, Reg.seqWdogKick]))
  rw [k]

theorem exec_toProduce (h : mayWrite s m Reg.lcsCmd 4 = true) :
    exec (.toProduce m) s = .next (finish s (lcsCmdWrite (portCount s m) m (lcsWord 5 0 0).toNat)) := by
  have e : exec (.toProduce m) s = onCore s (fun t => busWrite4 t m Reg.lcsCmd (lcsWord 5 0 0)) := rfl
  rw [e, exec_onCore (awake_of_mayWrite h), busWrite4_route route_lcsCmd (lcsWord 5 0 0) (by decide) (by decide) h]
  have k : effectAt (portCount s m) m (Reg.lcsCmd) Reg.lcsCmd 0 0 ((lcsWord 5 0 0)).toNat = lcsCmdWrite (portCount s m) m (lcsWord 5 0 0).toNat := 
    (effectAt_high (by simp only [Reg.lcsCmd]; omega) (by simp [effectHigh, Reg.canCtrl, Reg.canDbt, Reg.canNbt, Reg.canTdc, Reg.lcsCmd, Reg.nvcAccCmd, Reg.nvcCkptCtrl, Reg.seqMboxCmd, Reg.seqMboxIn, Reg.seqWdog, Reg.seqWdogKick]))
  rw [k]

theorem exec_toReturn (h : mayWrite s m Reg.lcsCmd 4 = true) :
    exec (.toReturn m) s = .next (finish s (lcsCmdWrite (portCount s m) m (lcsWord 6 0 0).toNat)) := by
  have e : exec (.toReturn m) s = onCore s (fun t => busWrite4 t m Reg.lcsCmd (lcsWord 6 0 0)) := rfl
  rw [e, exec_onCore (awake_of_mayWrite h), busWrite4_route route_lcsCmd (lcsWord 6 0 0) (by decide) (by decide) h]
  have k : effectAt (portCount s m) m (Reg.lcsCmd) Reg.lcsCmd 0 0 ((lcsWord 6 0 0)).toNat = lcsCmdWrite (portCount s m) m (lcsWord 6 0 0).toNat := 
    (effectAt_high (by simp only [Reg.lcsCmd]; omega) (by simp [effectHigh, Reg.canCtrl, Reg.canDbt, Reg.canNbt, Reg.canTdc, Reg.lcsCmd, Reg.nvcAccCmd, Reg.nvcCkptCtrl, Reg.seqMboxCmd, Reg.seqMboxIn, Reg.seqWdog, Reg.seqWdogKick]))
  rw [k]

theorem route_objOff_n_3 (x : Fin 128) : Route (objOff x.val 3) (Reg.canObjStat 0) x.val 0 false ∧ objOff x.val 3 < spmBase ∧ (objOff x.val 3) % 4 = 0 := by
  have h : ∀ x : Fin 128, routeOk (objOff x.val 3) (Reg.canObjStat 0) x.val 0 false = true := by decide +kernel
  refine ⟨route_of (h x), ?_, ?_⟩ <;> simp only [objOff, spmBase] <;> omega

theorem exec_txreq (n : Fin 128) (h : mayWrite s m (objOff n.val 3) 4 = true) :
    exec (.txreq m n) s = .next (finish s (objWrite (portCount s m) m n.val 3 0x80000000)) := by
  have e : exec (.txreq m n) s = onCore s (fun t => busWrite4 t m (objOff n.val 3) 0x80000000#32) := rfl
  rw [e, exec_onCore (awake_of_mayWrite h), busWrite4_route (route_objOff_n_3 n).1 0x80000000#32 (route_objOff_n_3 n).2.1 (route_objOff_n_3 n).2.2 h]
  have k : effectAt (portCount s m) m (Reg.canObjStat 0) (objOff n.val 3) n.val 0 (0x80000000#32).toNat = objWrite (portCount s m) m n.val 3 0x80000000 := 
    (effectAt_high (by have := n.isLt; simp only [objOff]; omega) (by
    have h2 : objOff n.val 3 / 4 % 32 = 3 := by simp only [objOff]; omega
    simp [effectHigh, Reg.canCtrl, Reg.canDbt, Reg.canNbt, Reg.canTdc, Reg.lcsCmd, Reg.nvcAccCmd, Reg.nvcCkptCtrl, Reg.seqMboxCmd, Reg.seqMboxIn, Reg.seqWdog, Reg.seqWdogKick, Reg.canObjStat, h2]))
  rw [k]

theorem exec_abort (n : Fin 128) (h : mayWrite s m (objOff n.val 3) 4 = true) :
    exec (.abort m n) s = .next (finish s (objWrite (portCount s m) m n.val 3 0x02000000)) := by
  have e : exec (.abort m n) s = onCore s (fun t => busWrite4 t m (objOff n.val 3) 0x02000000#32) := rfl
  rw [e, exec_onCore (awake_of_mayWrite h), busWrite4_route (route_objOff_n_3 n).1 0x02000000#32 (route_objOff_n_3 n).2.1 (route_objOff_n_3 n).2.2 h]
  have k : effectAt (portCount s m) m (Reg.canObjStat 0) (objOff n.val 3) n.val 0 (0x02000000#32).toNat = objWrite (portCount s m) m n.val 3 0x02000000 := 
    (effectAt_high (by have := n.isLt; simp only [objOff]; omega) (by
    have h2 : objOff n.val 3 / 4 % 32 = 3 := by simp only [objOff]; omega
    simp [effectHigh, Reg.canCtrl, Reg.canDbt, Reg.canNbt, Reg.canTdc, Reg.lcsCmd, Reg.nvcAccCmd, Reg.nvcCkptCtrl, Reg.seqMboxCmd, Reg.seqMboxIn, Reg.seqWdog, Reg.seqWdogKick, Reg.canObjStat, h2]))
  rw [k]

theorem route_nvcAccCmd : Route (Reg.nvcAccCmd) Reg.nvcAccCmd 0 0 false :=
  route_of (by decide +kernel)

theorem exec_nvcAccRead (h : mayWrite s m Reg.nvcAccCmd 4 = true) :
    exec (.nvcAccRead m) s = .next (finish s (nvcAccess (portCount s m) m false)) := by
  have e : exec (.nvcAccRead m) s = onCore s (fun t => busWrite4 t m Reg.nvcAccCmd 0x80000000#32) := rfl
  rw [e, exec_onCore (awake_of_mayWrite h), busWrite4_route route_nvcAccCmd 0x80000000#32 (by decide) (by decide) h]
  have k : effectAt (portCount s m) m (Reg.nvcAccCmd) Reg.nvcAccCmd 0 0 (0x80000000#32).toNat = nvcAccess (portCount s m) m false := 
    (effectAt_high (by simp only [Reg.nvcAccCmd]; omega) (by simp [effectHigh, Reg.canCtrl, Reg.canDbt, Reg.canNbt, Reg.canTdc, Reg.lcsCmd, Reg.nvcAccCmd, Reg.nvcCkptCtrl, Reg.seqMboxCmd, Reg.seqMboxIn, Reg.seqWdog, Reg.seqWdogKick, bitOf]))
  rw [k]

theorem exec_nvcAccWrite (h : mayWrite s m Reg.nvcAccCmd 4 = true) :
    exec (.nvcAccWrite m) s = .next (finish s (nvcAccess (portCount s m) m true)) := by
  have e : exec (.nvcAccWrite m) s = onCore s (fun t => busWrite4 t m Reg.nvcAccCmd 0x40000000#32) := rfl
  rw [e, exec_onCore (awake_of_mayWrite h), busWrite4_route route_nvcAccCmd 0x40000000#32 (by decide) (by decide) h]
  have k : effectAt (portCount s m) m (Reg.nvcAccCmd) Reg.nvcAccCmd 0 0 (0x40000000#32).toNat = nvcAccess (portCount s m) m true := 
    (effectAt_high (by simp only [Reg.nvcAccCmd]; omega) (by simp [effectHigh, Reg.canCtrl, Reg.canDbt, Reg.canNbt, Reg.canTdc, Reg.lcsCmd, Reg.nvcAccCmd, Reg.nvcCkptCtrl, Reg.seqMboxCmd, Reg.seqMboxIn, Reg.seqWdog, Reg.seqWdogKick, bitOf]))
  rw [k]

end Sys2Proof.Machine
end

