-- ==== Sys2Proof/Laws/Commands.lean ====
section
/-!
SUPPORT. What each command that is no write of a single register comes to: its unit's operation, on an awake device, and
for the pins and the always-on domain in every state.
-/
namespace Sys2Proof.Machine

set_option Elab.async false

variable {s : State}

theorem core_learnCheck (ha : awake s = true) :
    exec (.learnCheck) s = .next (finish s (learnCheck s)) :=
  (show exec (.learnCheck) s = onCore s (fun t => learnCheck t) from rfl).trans (exec_onCore ha)

theorem core_learnRingWrite (ha : awake s = true) :
    exec (.learnRingWrite) s = .next (finish s (learnWrite s)) :=
  (show exec (.learnRingWrite) s = onCore s (fun t => learnWrite t) from rfl).trans (exec_onCore ha)

theorem core_tickAdvance (ha : awake s = true) :
    exec (.tickAdvance) s = .next (finish s (tickAdvance s)) :=
  (show exec (.tickAdvance) s = onCore s (fun t => tickAdvance t) from rfl).trans (exec_onCore ha)

theorem core_agingLapStart (ha : awake s = true) :
    exec (.agingLapStart) s = .next (finish s (lapStart s)) :=
  (show exec (.agingLapStart) s = onCore s (fun t => lapStart t) from rfl).trans (exec_onCore ha)

theorem core_agingLapEnd (ha : awake s = true) :
    exec (.agingLapEnd) s = .next (finish s (lapEnd s)) :=
  (show exec (.agingLapEnd) s = onCore s (fun t => lapEnd t) from rfl).trans (exec_onCore ha)

theorem core_flushPort (ha : awake s = true) :
    exec (.flushPort) s = .next (finish s (doFlushPort s)) :=
  (show exec (.flushPort) s = onCore s (fun t => doFlushPort t) from rfl).trans (exec_onCore ha)

theorem core_canJoin (ha : awake s = true) :
    exec (.canJoin) s = .next (finish s (canJoin s)) :=
  (show exec (.canJoin) s = onCore s (fun t => canJoin t) from rfl).trans (exec_onCore ha)

theorem core_canFrameReceive (frame : CanFrame) (lec : Fin 8) (heavy : Bool) (ago : Nat) (ha : awake s = true) :
    exec (.canFrameReceive frame lec heavy ago) s = .next (finish s (canFrame s frame lec.val heavy ago)) :=
  (show exec (.canFrameReceive frame lec heavy ago) s = onCore s (fun t => canFrame t frame lec.val heavy ago) from rfl).trans (exec_onCore ha)

theorem core_canTransmitEnd (e : CanEnd) (ago : Nat) (ha : awake s = true) :
    exec (.canTransmitEnd e ago) s = .next (finish s (canTxEnd s e ago)) :=
  (show exec (.canTransmitEnd e ago) s = onCore s (fun t => canTxEnd t e ago) from rfl).trans (exec_onCore ha)

theorem core_recovered (n : Nat) (ha : awake s = true) :
    exec (.recovered n) s = .next (finish s (canRecovered s n)) :=
  (show exec (.recovered n) s = onCore s (fun t => canRecovered t n) from rfl).trans (exec_onCore ha)

theorem core_ping (ha : awake s = true) :
    exec (.ping) s = .next (finish s (mgmtPing s (topIdView s))) :=
  (show exec (.ping) s = onCore s (fun t => mgmtPing t (topIdView t)) from rfl).trans (exec_onCore ha)

theorem core_status (ha : awake s = true) :
    exec (.status) s = .next (finish s (mgmtStatus s)) :=
  (show exec (.status) s = onCore s (fun t => mgmtStatus t) from rfl).trans (exec_onCore ha)

theorem core_time (ha : awake s = true) :
    exec (.time) s = .next (finish s (mgmtTime s)) :=
  (show exec (.time) s = onCore s (fun t => mgmtTime t) from rfl).trans (exec_onCore ha)

theorem core_read (ha : awake s = true) :
    exec (.read) s = .next (finish s (mgmtRead s)) :=
  (show exec (.read) s = onCore s (fun t => mgmtRead t) from rfl).trans (exec_onCore ha)

theorem core_stayAwake (ha : awake s = true) :
    exec (.stayAwake) s = .next (finish s (mgmtStayAwake s)) :=
  (show exec (.stayAwake) s = onCore s (fun t => mgmtStayAwake t) from rfl).trans (exec_onCore ha)

theorem core_parkVote (ha : awake s = true) :
    exec (.parkVote) s = .next (finish s (mgmtParkVote s)) :=
  (show exec (.parkVote) s = onCore s (fun t => mgmtParkVote t) from rfl).trans (exec_onCore ha)

theorem core_hshSearch (ha : awake s = true) :
    exec (.hshSearch) s = .next (finish s (doHshSearch s)) :=
  (show exec (.hshSearch) s = onCore s (fun t => doHshSearch t) from rfl).trans (exec_onCore ha)

theorem core_hshNext (ha : awake s = true) :
    exec (.hshNext) s = .next (finish s (doHshNext s)) :=
  (show exec (.hshNext) s = onCore s (fun t => doHshNext t) from rfl).trans (exec_onCore ha)

theorem core_hshInsert (ha : awake s = true) :
    exec (.hshInsert) s = .next (finish s (doHshInsert s)) :=
  (show exec (.hshInsert) s = onCore s (fun t => doHshInsert t) from rfl).trans (exec_onCore ha)

theorem core_hshDelete (ha : awake s = true) :
    exec (.hshDelete) s = .next (finish s (doNamed s 4 false)) :=
  (show exec (.hshDelete) s = onCore s (fun t => doNamed t 4 false) from rfl).trans (exec_onCore ha)

theorem core_hshRead (ha : awake s = true) :
    exec (.hshRead) s = .next (finish s (doNamed s 0x11 true)) :=
  (show exec (.hshRead) s = onCore s (fun t => doNamed t 0x11 true) from rfl).trans (exec_onCore ha)

theorem core_hshUpdate (ha : awake s = true) :
    exec (.hshUpdate) s = .next (finish s (doNamed s 0x12 false)) :=
  (show exec (.hshUpdate) s = onCore s (fun t => doNamed t 0x12 false) from rfl).trans (exec_onCore ha)

theorem core_hshWipe (ha : awake s = true) :
    exec (.hshWipe) s = .next (finish s (doHshWipe s)) :=
  (show exec (.hshWipe) s = onCore s (fun t => doHshWipe t) from rfl).trans (exec_onCore ha)

theorem core_endpointReset (f : Fin 2) (kind : ResetKind) (ha : awake s = true) :
    exec (.endpointReset f kind) s = .next (finish s (endpointReset s f.val kind)) :=
  (show exec (.endpointReset f kind) s = onCore s (fun t => endpointReset t f.val kind) from rfl).trans (exec_onCore ha)

theorem core_unsupportedRequest (f : Fin 2) (kind : BadReq) (ha : awake s = true) :
    exec (.unsupportedRequest f kind) s = .next (finish s (unsupportedRequest s f.val kind)) :=
  (show exec (.unsupportedRequest f kind) s = onCore s (fun t => unsupportedRequest t f.val kind) from rfl).trans (exec_onCore ha)

theorem core_msixUnmask (f : Fin 2) (vec : Fin 32) (ha : awake s = true) :
    exec (.msixUnmask f vec) s = .next (finish s (busWrite4 s (if f.val = 0 then .pcie0 else .pcie1) (0xC00000 + 16 * vec.val + 12) 0#32)) :=
  (show exec (.msixUnmask f vec) s = onCore s (fun t => busWrite4 t (if f.val = 0 then .pcie0 else .pcie1) (0xC00000 + 16 * vec.val + 12) 0#32) from rfl).trans (exec_onCore ha)

theorem core_dmaDescriptorDone (n : Fin 8) (ha : awake s = true) :
    exec (.dmaDescriptorDone n) s = .next (finish s (dmaDone s n.val)) :=
  (show exec (.dmaDescriptorDone n) s = onCore s (fun t => dmaDone t n.val) from rfl).trans (exec_onCore ha)

theorem core_spiCsFall (ha : awake s = true) :
    exec (.spiCsFall) s = .next (finish s (spiFall s)) :=
  (show exec (.spiCsFall) s = onCore s (fun t => spiFall t) from rfl).trans (exec_onCore ha)

theorem core_spiTransaction (bits : Nat) (mosi : BitVec 64) (ha : awake s = true) :
    exec (.spiTransaction bits mosi) s = .next (finish s (spiTransaction s bits mosi.toNat)) :=
  (show exec (.spiTransaction bits mosi) s = onCore s (fun t => spiTransaction t bits mosi.toNat) from rfl).trans (exec_onCore ha)

theorem core_wdog (ha : awake s = true) :
    exec (.wdog) s = .next (finish s (wdogExpire s)) :=
  (show exec (.wdog) s = onCore s (fun t => wdogExpire t) from rfl).trans (exec_onCore ha)

theorem core_version (box : Fin 3) (ha : awake s = true) :
    exec (.version box) s = .next (finish s (mboxVersion s box.val)) :=
  (show exec (.version box) s = onCore s (fun t => mboxVersion t box.val) from rfl).trans (exec_onCore ha)

theorem core_checkpoint (box : Fin 3) (ha : awake s = true) :
    exec (.checkpoint box) s = .next (finish s (mboxCheckpoint s box.val)) :=
  (show exec (.checkpoint box) s = onCore s (fun t => mboxCheckpoint t box.val) from rfl).trans (exec_onCore ha)

theorem core_mgmtReload (box : Fin 3) (ha : awake s = true) :
    exec (.mgmtReload box) s = .next (finish s (mboxReload s box.val)) :=
  (show exec (.mgmtReload box) s = onCore s (fun t => mboxReload t box.val) from rfl).trans (exec_onCore ha)

theorem core_mailboxAnswer (box : Fin 3) (status : BitVec 8) (words : List (BitVec 32)) (ha : awake s = true) :
    exec (.mailboxAnswer box status words) s = .next (finish s (mailboxAnswer s box.val status.toNat words)) :=
  (show exec (.mailboxAnswer box status words) s = onCore s (fun t => mailboxAnswer t box.val status.toNat words) from rfl).trans (exec_onCore ha)

theorem core_registerWrite (m : Requester) (off : BitVec 25) (data : List Byte) (ha : awake s = true) :
    exec (.registerWrite m off data) s = .next (finish s (busWrite s m off.toNat data)) :=
  (show exec (.registerWrite m off data) s = onCore s (fun t => busWrite t m off.toNat data) from rfl).trans (exec_onCore ha)

theorem core_registerRead (m : Requester) (off : BitVec 25) (len : Nat) (ha : awake s = true) :
    exec (.registerRead m off len) s = .next (finish s (busRead s m off.toNat len)) :=
  (show exec (.registerRead m off len) s = onCore s (fun t => busRead t m off.toNat len) from rfl).trans (exec_onCore ha)

theorem core_configurationRequest (f : Fin 2) (write : Bool) (reg : CfgReg) (v : BitVec 32) (ha : awake s = true) :
    exec (.configurationRequest f write reg v) s = .next (finish s (configRequest s f.val write reg v.toNat)) :=
  (show exec (.configurationRequest f write reg v) s = onCore s (fun t => configRequest t f.val write reg v.toNat) from rfl).trans (exec_onCore ha)

theorem core_perstRelease (f : Fin 2) (ha : awake s = true) :
    exec (.perstRelease f) s = .next (finish s (perstRelease s f.val)) :=
  (show exec (.perstRelease f) s = onCore s (fun t => perstRelease t f.val) from rfl).trans (exec_onCore ha)

theorem core_hostCompletion (id : Nat) (st : CplStatus) (data : List Byte) (ha : awake s = true) :
    exec (.hostCompletion id st data) s = .next (finish s (hostCompletion s id st data)) :=
  (show exec (.hostCompletion id st data) s = onCore s (fun t => hostCompletion t id st data) from rfl).trans (exec_onCore ha)

theorem core_completionTimeout (id : Nat) (ha : awake s = true) :
    exec (.completionTimeout id) s = .next (finish s (completionTimeout s id)) :=
  (show exec (.completionTimeout id) s = onCore s (fun t => completionTimeout t id) from rfl).trans (exec_onCore ha)

theorem core_iltRead (a : List Byte) (b : List Byte) (ha : awake s = true) :
    exec (.iltRead a b) s = .next (finish s (iltRead s a b)) :=
  (show exec (.iltRead a b) s = onCore s (fun t => iltRead t a b) from rfl).trans (exec_onCore ha)

theorem core_readFail (ha : awake s = true) :
    exec (.readFail) s = .next (finish s (readFail s)) :=
  (show exec (.readFail) s = onCore s (fun t => readFail t) from rfl).trans (exec_onCore ha)

theorem core_imageFetchDone (bytes : List Byte) (ha : awake s = true) :
    exec (.imageFetchDone bytes) s = .next (finish s (imageFetched s bytes)) :=
  (show exec (.imageFetchDone bytes) s = onCore s (fun t => imageFetched t bytes) from rfl).trans (exec_onCore ha)

theorem core_imageApplyEnd (ha : awake s = true) :
    exec (.imageApplyEnd) s = .next (finish s (applyEnd s)) :=
  (show exec (.imageApplyEnd) s = onCore s (fun t => applyEnd t) from rfl).trans (exec_onCore ha)

theorem core_dramClearEnd (ha : awake s = true) :
    exec (.dramClearEnd) s = .next (finish s (clearEnd s)) :=
  (show exec (.dramClearEnd) s = onCore s (fun t => clearEnd t) from rfl).trans (exec_onCore ha)

theorem core_ready (ha : awake s = true) :
    exec (.ready) s = .next (finish s (becomeReady s)) :=
  (show exec (.ready) s = onCore s (fun t => becomeReady t) from rfl).trans (exec_onCore ha)

theorem core_checkpointWriteDone (ha : awake s = true) :
    exec (.checkpointWriteDone) s = .next (finish s (ckptEnds s)) :=
  (show exec (.checkpointWriteDone) s = onCore s (fun t => ckptEnds t) from rfl).trans (exec_onCore ha)

theorem core_flashCommand (m : Requester) (v : BitVec 32) (data : List Byte) (ha : awake s = true) :
    exec (.flashCommand m v data) s = .next (finish s (regCommand s m Reg.imgFcmd v (fun u => fcmdWrite u m.code v.toNat data))) :=
  (show exec (.flashCommand m v data) s = onCore s (fun t => regCommand t m Reg.imgFcmd v (fun u => fcmdWrite u m.code v.toNat data)) from rfl).trans (exec_onCore ha)

theorem core_flashStatusPoll (busy : Bool) (ha : awake s = true) :
    exec (.flashStatusPoll busy) s = .next (finish s (flashPoll s busy)) :=
  (show exec (.flashStatusPoll busy) s = onCore s (fun t => flashPoll t busy) from rfl).trans (exec_onCore ha)

theorem core_flashTimeout (ha : awake s = true) :
    exec (.flashTimeout) s = .next (finish s (flashTimeout s)) :=
  (show exec (.flashTimeout) s = onCore s (fun t => flashTimeout t) from rfl).trans (exec_onCore ha)

theorem core_dscReceive (p : Fin 32) (bytes : List Byte) (ctl : Nat) (ago : Nat) (ha : awake s = true) :
    exec (.dscReceive p bytes ctl ago) s = .next (finish s (dscReceive s p.val bytes ctl ago)) :=
  (show exec (.dscReceive p bytes ctl ago) s = onCore s (fun t => dscReceive t p.val bytes ctl ago) from rfl).trans (exec_onCore ha)

theorem core_descriptorAccept (p : Fin 32) (ha : awake s = true) :
    exec (.descriptorAccept p) s = .next (finish s (dscAccept s p.val)) :=
  (show exec (.descriptorAccept p) s = onCore s (fun t => dscAccept t p.val) from rfl).trans (exec_onCore ha)

theorem core_tagGrant (p : Fin 32) (tag : Fin 1024) (ha : awake s = true) :
    exec (.tagGrant p tag) s = .next (finish s (tagGrant s p.val tag.val)) :=
  (show exec (.tagGrant p tag) s = onCore s (fun t => tagGrant t p.val tag.val) from rfl).trans (exec_onCore ha)

theorem core_fcSend (p : Fin 32) (ha : awake s = true) :
    exec (.fcSend p) s = .next (finish s (fcSend s p.val)) :=
  (show exec (.fcSend p) s = onCore s (fun t => fcSend t p.val) from rfl).trans (exec_onCore ha)

theorem core_profileSelect (ha : awake s = true) :
    exec (.profileSelect) s = .next (finish s (selectNext s)) :=
  (show exec (.profileSelect) s = onCore s (fun t => selectNext t) from rfl).trans (exec_onCore ha)

theorem core_cobblerStart (ha : awake s = true) :
    exec (.cobblerStart) s = .next (finish s (cobblerStart s)) :=
  (show exec (.cobblerStart) s = onCore s (fun t => cobblerStart t) from rfl).trans (exec_onCore ha)

theorem core_slotGrant (ha : awake s = true) :
    exec (.slotGrant) s = .next (finish s (slotGrant s)) :=
  (show exec (.slotGrant) s = onCore s (fun t => slotGrant t) from rfl).trans (exec_onCore ha)

theorem core_granuleGrant (ha : awake s = true) :
    exec (.granuleGrant) s = .next (finish s (granuleGrant s)) :=
  (show exec (.granuleGrant) s = onCore s (fun t => granuleGrant t) from rfl).trans (exec_onCore ha)

theorem core_latencyMiss (ha : awake s = true) :
    exec (.latencyMiss) s = .next (finish s (latencyMiss s)) :=
  (show exec (.latencyMiss) s = onCore s (fun t => latencyMiss t) from rfl).trans (exec_onCore ha)

theorem core_measurementWindowStart (ha : awake s = true) :
    exec (.measurementWindowStart) s = .next (finish s (windowStart s)) :=
  (show exec (.measurementWindowStart) s = onCore s (fun t => windowStart t) from rfl).trans (exec_onCore ha)

theorem core_ternaryAnswer (matchIn : Bool) (ha : awake s = true) :
    exec (.ternaryAnswer matchIn) s = .next (finish s (ternaryAnswer s matchIn)) :=
  (show exec (.ternaryAnswer matchIn) s = onCore s (fun t => ternaryAnswer t matchIn) from rfl).trans (exec_onCore ha)

theorem core_granuleReadDone (ha : awake s = true) :
    exec (.granuleReadDone) s = .next (finish s (readDone s)) :=
  (show exec (.granuleReadDone) s = onCore s (fun t => readDone t) from rfl).trans (exec_onCore ha)

theorem core_writeAck (ha : awake s = true) :
    exec (.writeAck) s = .next (finish s (writeAck s)) :=
  (show exec (.writeAck) s = onCore s (fun t => writeAck t) from rfl).trans (exec_onCore ha)

theorem core_heldWriteServe (ha : awake s = true) :
    exec (.heldWriteServe) s = .next (finish s (heldServe s)) :=
  (show exec (.heldWriteServe) s = onCore s (fun t => heldServe t) from rfl).trans (exec_onCore ha)

theorem core_refresh (pair : Fin 4) (postpone : Bool) (ha : awake s = true) :
    exec (.refresh pair postpone) s = .next (finish s (refreshPair s pair.val postpone)) :=
  (show exec (.refresh pair postpone) s = onCore s (fun t => refreshPair t pair.val postpone) from rfl).trans (exec_onCore ha)

theorem core_refreshRateChange (temp : BitVec 8) (ha : awake s = true) :
    exec (.refreshRateChange temp) s = .next (finish s (refreshRate s temp.toNat)) :=
  (show exec (.refreshRateChange temp) s = onCore s (fun t => refreshRate t temp.toNat) from rfl).trans (exec_onCore ha)

theorem core_composeStart (ha : awake s = true) :
    exec (.composeStart) s = .next (finish s (composeNext s)) :=
  (show exec (.composeStart) s = onCore s (fun t => composeNext t) from rfl).trans (exec_onCore ha)

theorem core_verdictRelease (ha : awake s = true) :
    exec (.verdictRelease) s = .next (finish s (releaseNext s)) :=
  (show exec (.verdictRelease) s = onCore s (fun t => releaseNext t) from rfl).trans (exec_onCore ha)

theorem core_verdictTransmit (p : Fin 32) (ha : awake s = true) :
    exec (.verdictTransmit p) s = .next (finish s (verdictTransmit s p.val)) :=
  (show exec (.verdictTransmit p) s = onCore s (fun t => verdictTransmit t p.val) from rfl).trans (exec_onCore ha)

theorem core_scratchpadServe (ha : awake s = true) :
    exec (.scratchpadServe) s = .next (finish s (serveSpm s)) :=
  (show exec (.scratchpadServe) s = onCore s (fun t => serveSpm t) from rfl).trans (exec_onCore ha)

theorem core_setWindowWrite (m : Requester) (off : BitVec 19) (data : List Byte) (ha : awake s = true) :
    exec (.setWindowWrite m off data) s = .next (finish s (busWrite s m (0x800000 + off.toNat) data)) :=
  (show exec (.setWindowWrite m off data) s = onCore s (fun t => busWrite t m (0x800000 + off.toNat) data) from rfl).trans (exec_onCore ha)

theorem core_clearWindowWrite (m : Requester) (off : BitVec 19) (data : List Byte) (ha : awake s = true) :
    exec (.clearWindowWrite m off data) s = .next (finish s (busWrite s m (0x880000 + off.toNat) data)) :=
  (show exec (.clearWindowWrite m off data) s = onCore s (fun t => busWrite t m (0x880000 + off.toNat) data) from rfl).trans (exec_onCore ha)

theorem core_rotateAccess (m : Requester) (write : Bool) (off : BitVec 19) (data : List Byte) (len : Nat) (ha : awake s = true) :
    exec (.rotateAccess m write off data len) s = .next (finish s (if write then busWrite s m (0x900000 + off.toNat) data else busRead s m (0x900000 + off.toNat) len)) :=
  (show exec (.rotateAccess m write off data len) s = onCore s (fun t => if write then busWrite t m (0x900000 + off.toNat) data else busRead t m (0x900000 + off.toNat) len) from rfl).trans (exec_onCore ha)

theorem core_sramScrubVisit (mem : Fin 64) (cell : Nat) (ha : awake s = true) :
    exec (.sramScrubVisit mem cell) s = .next (finish s (sramVisit s mem.val cell)) :=
  (show exec (.sramScrubVisit mem cell) s = onCore s (fun t => sramVisit t mem.val cell) from rfl).trans (exec_onCore ha)

theorem core_retireDone (ha : awake s = true) :
    exec (.retireDone) s = .next (finish s (retireDone s)) :=
  (show exec (.retireDone) s = onCore s (fun t => retireDone t) from rfl).trans (exec_onCore ha)

theorem core_integrityRecordWrite (ha : awake s = true) :
    exec (.integrityRecordWrite) s = .next (finish s (writeRecord s)) :=
  (show exec (.integrityRecordWrite) s = onCore s (fun t => writeRecord t) from rfl).trans (exec_onCore ha)

theorem core_marchDone (fails : List Nat) (ha : awake s = true) :
    exec (.marchDone fails) s = .next (finish s (marchDone s fails)) :=
  (show exec (.marchDone fails) s = onCore s (fun t => marchDone t fails) from rfl).trans (exec_onCore ha)

theorem core_graceEnd (wake : Fin 16) (tamper : Fin 4) (ha : awake s = true) :
    exec (.graceEnd wake tamper) s = .next (finish s (graceOver s wake.val tamper.val)) :=
  (show exec (.graceEnd wake tamper) s = onCore s (fun t => graceOver t wake.val tamper.val) from rfl).trans (exec_onCore ha)

theorem core_parkFail (ha : awake s = true) :
    exec (.parkFail) s = .next (finish s (parkFail s)) :=
  (show exec (.parkFail) s = onCore s (fun t => parkFail t) from rfl).trans (exec_onCore ha)

theorem core_wakeEvent (n : Fin 6) :
    exec (.wakeEvent n) s = .next (finish s (wakeEvent s n.val)) := rfl

theorem core_wakeDwellEnd :
    exec (.wakeDwellEnd) s = .next (finish s (dwellEnd s)) := rfl

theorem core_timeStateRecord (ha : awake s = true) :
    exec (.timeStateRecord) s = .next (finish s (periodicRecord s)) :=
  (show exec (.timeStateRecord) s = onCore s (fun t => periodicRecord t) from rfl).trans (exec_onCore ha)

theorem core_fuseProgramDone (ok : Bool) (ha : awake s = true) :
    exec (.fuseProgramDone ok) s = .next (finish s (fuseDone s ok)) :=
  (show exec (.fuseProgramDone ok) s = onCore s (fun t => fuseDone t ok) from rfl).trans (exec_onCore ha)

theorem core_tamper (k : Fin 2) :
    exec (.tamper k) s = .next (finish s (tamperEvent s k.val)) := rfl

theorem core_tamperWipeEnd (ha : awake s = true) :
    exec (.tamperWipeEnd) s = .next (finish s (tamperWipeEnd s)) :=
  (show exec (.tamperWipeEnd) s = onCore s (fun t => tamperWipeEnd t) from rfl).trans (exec_onCore ha)

theorem core_vaonApply :
    exec (.vaonApply) s = .next (finish s (vaonApply s)) := rfl

theorem core_vaonLoss :
    exec (.vaonLoss) s = .next (finish s (vaonLoss s)) := rfl

theorem core_pgoodRise :
    exec (.pgoodRise) s = .next (finish s (pgoodRise s)) := rfl

theorem core_pgoodFall :
    exec (.pgoodFall) s = .next (finish s (pgoodFall s)) := rfl

theorem core_brownout :
    exec (.brownout) s = .next (finish s (brownout s)) := rfl

theorem core_resetPin :
    exec (.resetPin) s = .next (finish s (resetPin s)) := rfl

theorem core_woken (straps : Fin 8) :
    exec (.woken straps) s = .next (finish s (wokenStep s straps.val)) := rfl

theorem core_dramTraining (testOk : Bool) (ha : awake s = true) :
    exec (.dramTraining testOk) s = .next (finish s (trainingEnd s testOk)) :=
  (show exec (.dramTraining testOk) s = onCore s (fun t => trainingEnd t testOk) from rfl).trans (exec_onCore ha)

theorem core_blockLockGain (p : Fin 32) (ha : awake s = true) :
    exec (.blockLockGain p) s = .next (finish s (lockGain s p.val)) :=
  (show exec (.blockLockGain p) s = onCore s (fun t => lockGain t p.val) from rfl).trans (exec_onCore ha)

theorem core_blockLockLoss (p : Fin 32) (openAgo : Option Nat) (ha : awake s = true) :
    exec (.blockLockLoss p openAgo) s = .next (finish s (lockLoss s p.val openAgo)) :=
  (show exec (.blockLockLoss p openAgo) s = onCore s (fun t => lockLoss t p.val openAgo) from rfl).trans (exec_onCore ha)

theorem core_trainReceive (p : Fin 32) (ver : BitVec 8) (role : BitVec 1) (vspace : BitVec 16) (ack : Bool) (openAgo : Option Nat) (ha : awake s = true) :
    exec (.trainReceive p ver role vspace ack openAgo) s = .next (finish s (trainReceive s p.val ver.toNat role.toNat vspace.toNat ack openAgo)) :=
  (show exec (.trainReceive p ver role vspace ack openAgo) s = onCore s (fun t => trainReceive t p.val ver.toNat role.toNat vspace.toNat ack openAgo) from rfl).trans (exec_onCore ha)

theorem core_tapUp (p : Fin 32) (ha : awake s = true) :
    exec (.tapUp p) s = .next (finish s (tapUp s p.val)) :=
  (show exec (.tapUp p) s = onCore s (fun t => tapUp t p.val) from rfl).trans (exec_onCore ha)

theorem core_trainFail (p : Fin 32) (ha : awake s = true) :
    exec (.trainFail p) s = .next (finish s (trainFail s p.val)) :=
  (show exec (.trainFail p) s = onCore s (fun t => trainFail t p.val) from rfl).trans (exec_onCore ha)

theorem core_tapRestart (m : Requester) (p : Fin 32) (v : BitVec 32) (openAgo : Option Nat) (ha : awake s = true) :
    exec (.tapRestart m p v openAgo) s = .next (finish s (regCommand s m (Reg.tapCtrl p.val) v (fun u => tapCtrlWrite u m.code p.val (v).toNat openAgo))) :=
  (show exec (.tapRestart m p v openAgo) s = onCore s (fun t => regCommand t m (Reg.tapCtrl p.val) v (fun u => tapCtrlWrite u m.code p.val (v).toNat openAgo)) from rfl).trans (exec_onCore ha)

theorem core_tapEnable (m : Requester) (p : Fin 32) (v : BitVec 32) (openAgo : Option Nat) (ha : awake s = true) :
    exec (.tapEnable m p v openAgo) s = .next (finish s (regCommand s m (Reg.tapCtrl p.val) v (fun u => tapCtrlWrite u m.code p.val (v).toNat openAgo))) :=
  (show exec (.tapEnable m p v openAgo) s = onCore s (fun t => regCommand t m (Reg.tapCtrl p.val) v (fun u => tapCtrlWrite u m.code p.val (v).toNat openAgo)) from rfl).trans (exec_onCore ha)

theorem core_tapDepthWrite (m : Requester) (p : Fin 32) (v : BitVec 32) (ha : awake s = true) :
    exec (.tapDepthWrite m p v) s = .next (finish s (regCommand s m (Reg.tapCtrl p.val) v (fun u => tapCtrlWrite u m.code p.val (v).toNat none))) :=
  (show exec (.tapDepthWrite m p v) s = onCore s (fun t => regCommand t m (Reg.tapCtrl p.val) v (fun u => tapCtrlWrite u m.code p.val (v).toNat none)) from rfl).trans (exec_onCore ha)

theorem core_fcReceive (p : Fin 32) (vcons : BitVec 16) (urg : BitVec 2) (req : BitVec 2) (ha : awake s = true) :
    exec (.fcReceive p vcons urg req) s = .next (finish s (fcReceive s p.val vcons.toNat urg.toNat req.toNat)) :=
  (show exec (.fcReceive p vcons urg req) s = onCore s (fun t => fcReceive t p.val vcons.toNat urg.toNat req.toNat) from rfl).trans (exec_onCore ha)

theorem core_timeout (p : Fin 32) (openAgo : Option Nat) (ha : awake s = true) :
    exec (.timeout p openAgo) s = .next (finish s (tapTimeout s p.val openAgo)) :=
  (show exec (.timeout p openAgo) s = onCore s (fun t => tapTimeout t p.val openAgo) from rfl).trans (exec_onCore ha)

theorem core_errReceive (p : Fin 32) (code : BitVec 8) (detail : BitVec 16) (ha : awake s = true) :
    exec (.errReceive p code detail) s = .next (finish s (errReceive s p.val code.toNat detail.toNat)) :=
  (show exec (.errReceive p code detail) s = onCore s (fun t => errReceive t p.val code.toNat detail.toNat) from rfl).trans (exec_onCore ha)

theorem core_errSend (p : Fin 32) (ha : awake s = true) :
    exec (.errSend p) s = .next (finish s (errSend s p.val)) :=
  (show exec (.errSend p) s = onCore s (fun t => errSend t p.val) from rfl).trans (exec_onCore ha)

theorem core_blockError (p : Fin 32) (kind : Fin 6) (octet : BitVec 8) (openAgo : Option Nat) (ha : awake s = true) :
    exec (.blockError p kind octet openAgo) s = .next (finish s (blockError s p.val kind.val octet.toNat openAgo)) :=
  (show exec (.blockError p kind octet openAgo) s = onCore s (fun t => blockError t p.val kind.val octet.toNat openAgo) from rfl).trans (exec_onCore ha)

theorem core_thermalSample (temp : BitVec 8) (ha : awake s = true) :
    exec (.thermalSample temp) s = .next (finish s (thermalSample s temp.toNat)) :=
  (show exec (.thermalSample temp) s = onCore s (fun t => thermalSample t temp.toNat) from rfl).trans (exec_onCore ha)

theorem core_updateWindowStart (ha : awake s = true) :
    exec (.updateWindowStart) s = .next (finish s (updateWindow s)) :=
  (show exec (.updateWindowStart) s = onCore s (fun t => updateWindow t) from rfl).trans (exec_onCore ha)

theorem core_rowAccess (ha : awake s = true) :
    exec (.rowAccess) s = .next (finish s (rowAccessStep s)) :=
  (show exec (.rowAccess) s = onCore s (fun t => rowAccessStep t) from rfl).trans (exec_onCore ha)

theorem core_tableCommandFetch (ha : awake s = true) :
    exec (.tableCommandFetch) s = .next (finish s (fetchNext s)) :=
  (show exec (.tableCommandFetch) s = onCore s (fun t => fetchNext t) from rfl).trans (exec_onCore ha)

theorem core_completionPost (ha : awake s = true) :
    exec (.completionPost) s = .next (finish s (postNext s)) :=
  (show exec (.completionPost) s = onCore s (fun t => postNext t) from rfl).trans (exec_onCore ha)

theorem core_tcaSearch (ha : awake s = true) :
    exec (.tcaSearch) s = .next (finish s (doTcaSearch s)) :=
  (show exec (.tcaSearch) s = onCore s (fun t => doTcaSearch t) from rfl).trans (exec_onCore ha)

theorem core_tcaNext (ha : awake s = true) :
    exec (.tcaNext) s = .next (finish s (doTcaNext s)) :=
  (show exec (.tcaNext) s = onCore s (fun t => doTcaNext t) from rfl).trans (exec_onCore ha)

theorem core_tcaInsert (ha : awake s = true) :
    exec (.tcaInsert) s = .next (finish s (doTcaInsert s)) :=
  (show exec (.tcaInsert) s = onCore s (fun t => doTcaInsert t) from rfl).trans (exec_onCore ha)

theorem core_tcaDelete (ha : awake s = true) :
    exec (.tcaDelete) s = .next (finish s (doTcaDelete s)) :=
  (show exec (.tcaDelete) s = onCore s (fun t => doTcaDelete t) from rfl).trans (exec_onCore ha)

theorem core_tcaMove (ha : awake s = true) :
    exec (.tcaMove) s = .next (finish s (doTcaMove s)) :=
  (show exec (.tcaMove) s = onCore s (fun t => doTcaMove t) from rfl).trans (exec_onCore ha)

theorem core_tcaWrite (ha : awake s = true) :
    exec (.tcaWrite) s = .next (finish s (doTcaWrite s)) :=
  (show exec (.tcaWrite) s = onCore s (fun t => doTcaWrite t) from rfl).trans (exec_onCore ha)

theorem core_tcaRead (ha : awake s = true) :
    exec (.tcaRead) s = .next (finish s (doTcaRead s)) :=
  (show exec (.tcaRead) s = onCore s (fun t => doTcaRead t) from rfl).trans (exec_onCore ha)

theorem core_tcaUpdate (ha : awake s = true) :
    exec (.tcaUpdate) s = .next (finish s (doTcaUpdate s)) :=
  (show exec (.tcaUpdate) s = onCore s (fun t => doTcaUpdate t) from rfl).trans (exec_onCore ha)

theorem core_tcaWipe (ha : awake s = true) :
    exec (.tcaWipe) s = .next (finish s (doTcaWipe s)) :=
  (show exec (.tcaWipe) s = onCore s (fun t => doTcaWipe t) from rfl).trans (exec_onCore ha)

theorem core_signatureLapStart (ha : awake s = true) :
    exec (.signatureLapStart) s = .next (finish s (sigLapStart s)) :=
  (show exec (.signatureLapStart) s = onCore s (fun t => sigLapStart t) from rfl).trans (exec_onCore ha)

theorem core_signatureRegionDone (ha : awake s = true) :
    exec (.signatureRegionDone) s = .next (finish s (sigRegionDone s)) :=
  (show exec (.signatureRegionDone) s = onCore s (fun t => sigRegionDone t) from rfl).trans (exec_onCore ha)

theorem core_signaturePost (ha : awake s = true) :
    exec (.signaturePost) s = .next (finish s (signaturePost s)) :=
  (show exec (.signaturePost) s = onCore s (fun t => signaturePost t) from rfl).trans (exec_onCore ha)

theorem core_ppsEdge (k : Fin 2) (ago : Nat) (high : Nat) (ha : awake s = true) :
    exec (.ppsEdge k ago high) s = .next (finish s (ppsEdge s k.val ago high)) :=
  (show exec (.ppsEdge k ago high) s = onCore s (fun t => ppsEdge t k.val ago high) from rfl).trans (exec_onCore ha)

theorem core_refMeasureEnd (ppt : Int) (inRange : Bool) (ha : awake s = true) :
    exec (.refMeasureEnd ppt inRange) s = .next (finish s (refMeasured s ppt inRange)) :=
  (show exec (.refMeasureEnd ppt inRange) s = onCore s (fun t => refMeasured t ppt inRange) from rfl).trans (exec_onCore ha)

theorem core_sourceLoss (c : Fin 6) (ha : awake s = true) :
    exec (.sourceLoss c) s = .next (finish s (sourceLoss s c.val)) :=
  (show exec (.sourceLoss c) s = onCore s (fun t => sourceLoss t c.val) from rfl).trans (exec_onCore ha)

theorem core_stepBoundary (ha : awake s = true) :
    exec (.stepBoundary) s = .next (finish s (boundaryReached s)) :=
  (show exec (.stepBoundary) s = onCore s (fun t => boundaryReached t) from rfl).trans (exec_onCore ha)

theorem core_slewEnd (ha : awake s = true) :
    exec (.slewEnd) s = .next (finish s (slewEnd s)) :=
  (show exec (.slewEnd) s = onCore s (fun t => slewEnd t) from rfl).trans (exec_onCore ha)

theorem core_milTimeRead (m : Requester) (ha : awake s = true) :
    exec (.milTimeRead m) s = .next (finish s (busRead s m Reg.milTime 4)) :=
  (show exec (.milTimeRead m) s = onCore s (fun t => busRead t m Reg.milTime 4) from rfl).trans (exec_onCore ha)

theorem core_dreqSend (port : Fin 34) (ago : Nat) (ha : awake s = true) :
    exec (.dreqSend port ago) s = .next (finish s (dreqSend s port.val ago)) :=
  (show exec (.dreqSend port ago) s = onCore s (fun t => dreqSend t port.val ago) from rfl).trans (exec_onCore ha)

theorem core_drspReceive (port : Fin 34) (seq : BitVec 16) (turn : BitVec 32) (ago : Nat) (ha : awake s = true) :
    exec (.drspReceive port seq (some turn) ago) s = .next (finish s (drspReceive s port.val seq.toNat turn.toNat ago)) :=
  (show exec (.drspReceive port seq (some turn) ago) s =
    onCore s (fun t => drspReceive t port.val seq.toNat turn.toNat ago) from rfl).trans (exec_onCore ha)

theorem core_dreqAnswer (port : Fin 34) (seq : BitVec 16) (ago : Nat) (ha : awake s = true) :
    exec (.drspReceive port seq none ago) s = .next (finish s (dreqAnswer s port.val seq.toNat ago)) :=
  (show exec (.drspReceive port seq none ago) s =
    onCore s (fun t => dreqAnswer t port.val seq.toNat ago) from rfl).trans (exec_onCore ha)

theorem core_drspLost (port : Fin 34) (ha : awake s = true) :
    exec (.drspLost port) s = .next (finish s (drspLost s port.val)) :=
  (show exec (.drspLost port) s = onCore s (fun t => drspLost t port.val) from rfl).trans (exec_onCore ha)

theorem core_dlyFail (port : Fin 34) (ha : awake s = true) :
    exec (.dlyFail port) s = .next (finish s (dlyFail s port.val)) :=
  (show exec (.dlyFail port) s = onCore s (fun t => dlyFail t port.val) from rfl).trans (exec_onCore ha)

theorem core_timeMarkSend (port : Fin 34) (ago : Nat) (ha : awake s = true) :
    exec (.timeMarkSend port ago) s = .next (finish s (timeMarkSend s port.val ago)) :=
  (show exec (.timeMarkSend port ago) s = onCore s (fun t => timeMarkSend t port.val ago) from rfl).trans (exec_onCore ha)

theorem core_timeMarkReceive (egress : BitVec 72) (dly : BitVec 23) (valid : Bool) (base : BitVec 8) (ago : Nat) (ann : Option (Int × Nat × Bool)) (ha : awake s = true) :
    exec (.timeMarkReceive egress dly valid base ago ann) s = .next (finish s (timeMarkReceive s egress.toNat dly.toNat valid base.toNat ago ann)) :=
  (show exec (.timeMarkReceive egress dly valid base ago ann) s = onCore s (fun t => timeMarkReceive t egress.toNat dly.toNat valid base.toNat ago ann) from rfl).trans (exec_onCore ha)

theorem core_triggerRise (n : Fin 8) (ha : awake s = true) :
    exec (.triggerRise n) s = .next (finish s (pulseRise s n.val)) :=
  (show exec (.triggerRise n) s = onCore s (fun t => pulseRise t n.val) from rfl).trans (exec_onCore ha)

theorem core_triggerFall (n : Fin 8) (ha : awake s = true) :
    exec (.triggerFall n) s = .next (finish s (pulseFall s n.val)) :=
  (show exec (.triggerFall n) s = onCore s (fun t => pulseFall t n.val) from rfl).trans (exec_onCore ha)

theorem core_ppsOutRise (k : Fin 2) (ha : awake s = true) :
    exec (.ppsOutRise k) s = .next (finish s (pulseRise s (8 + k.val))) :=
  (show exec (.ppsOutRise k) s = onCore s (fun t => pulseRise t (8 + k.val)) from rfl).trans (exec_onCore ha)

theorem core_ppsOutFall (k : Fin 2) (ha : awake s = true) :
    exec (.ppsOutFall k) s = .next (finish s (pulseFall s (8 + k.val))) :=
  (show exec (.ppsOutFall k) s = onCore s (fun t => pulseFall t (8 + k.val)) from rfl).trans (exec_onCore ha)

theorem core_aonCalibrationEnd (period : BitVec 32) (ha : awake s = true) :
    exec (.aonCalibrationEnd period) s = .next (finish s (aonCalibrated s period.toNat)) :=
  (show exec (.aonCalibrationEnd period) s = onCore s (fun t => aonCalibrated t period.toNat) from rfl).trans (exec_onCore ha)

theorem core_settleRelease (ha : awake s = true) :
    exec (.settleRelease) s = .next (finish s (settleRelease s)) :=
  (show exec (.settleRelease) s = onCore s (fun t => settleRelease t) from rfl).trans (exec_onCore ha)

theorem core_groupWrite (ha : awake s = true) :
    exec (.groupWrite) s = .next (finish s (groupWrite s)) :=
  (show exec (.groupWrite) s = onCore s (fun t => groupWrite t) from rfl).trans (exec_onCore ha)

theorem core_combineTimeout (ha : awake s = true) :
    exec (.combineTimeout) s = .next (finish s (combineTimeout s)) :=
  (show exec (.combineTimeout) s = onCore s (fun t => combineTimeout t) from rfl).trans (exec_onCore ha)

theorem core_pressureFree (ha : awake s = true) :
    exec (.pressureFree) s = .next (finish s (pressureStep s)) :=
  (show exec (.pressureFree) s = onCore s (fun t => pressureStep t) from rfl).trans (exec_onCore ha)

theorem core_ageVisit (ha : awake s = true) :
    exec (.ageVisit) s = .next (finish s (ageVisit s)) :=
  (show exec (.ageVisit) s = onCore s (fun t => ageVisit t) from rfl).trans (exec_onCore ha)

theorem core_query (ha : awake s = true) :
    exec (.query) s = .next (finish s (doQuery s)) :=
  (show exec (.query) s = onCore s (fun t => doQuery t) from rfl).trans (exec_onCore ha)

theorem core_wnext (ha : awake s = true) :
    exec (.wnext) s = .next (finish s (doWnext s)) :=
  (show exec (.wnext) s = onCore s (fun t => doWnext t) from rfl).trans (exec_onCore ha)

theorem core_flushStreamEnd (ha : awake s = true) :
    exec (.flushStreamEnd) s = .next (finish s (flushStreamEnd s)) :=
  (show exec (.flushStreamEnd) s = onCore s (fun t => flushStreamEnd t) from rfl).trans (exec_onCore ha)

theorem core_weltLockGain (k : Fin 2) (lanes : BitVec 4) (ha : awake s = true) :
    exec (.weltLockGain k lanes) s = .next (finish s (weltLockGain s k.val lanes.toNat)) :=
  (show exec (.weltLockGain k lanes) s = onCore s (fun t => weltLockGain t k.val lanes.toNat) from rfl).trans (exec_onCore ha)

theorem core_deskewDone (k : Fin 2) (ha : awake s = true) :
    exec (.deskewDone k) s = .next (finish s (deskewDone s k.val)) :=
  (show exec (.deskewDone k) s = onCore s (fun t => deskewDone t k.val) from rfl).trans (exec_onCore ha)

theorem core_weltTrainReceive (k : Fin 2) (ver : BitVec 8) (ack : Bool) (part : Fin 3) (v : BitVec 32) (ha : awake s = true) :
    exec (.weltTrainReceive k ver ack part v) s = .next (finish s (weltTrain s k.val ver.toNat ack part.val v.toNat)) :=
  (show exec (.weltTrainReceive k ver ack part v) s = onCore s (fun t => weltTrain t k.val ver.toNat ack part.val v.toNat) from rfl).trans (exec_onCore ha)

theorem core_weltUp (k : Fin 2) (mlDelay : BitVec 4) (ago : Nat) (ha : awake s = true) :
    exec (.weltUp k mlDelay ago) s = .next (finish s (weltUp s k.val mlDelay.toNat ago)) :=
  (show exec (.weltUp k mlDelay ago) s = onCore s (fun t => weltUp t k.val mlDelay.toNat ago) from rfl).trans (exec_onCore ha)

theorem core_weltTrainFail (k : Fin 2) (ha : awake s = true) :
    exec (.weltTrainFail k) s = .next (finish s (weltTrainFail s k.val)) :=
  (show exec (.weltTrainFail k) s = onCore s (fun t => weltTrainFail t k.val) from rfl).trans (exec_onCore ha)

theorem core_weltLockLoss (k : Fin 2) (lanes : BitVec 4) (ha : awake s = true) :
    exec (.weltLockLoss k lanes) s = .next (finish s (weltLockLoss s k.val lanes.toNat)) :=
  (show exec (.weltLockLoss k lanes) s = onCore s (fun t => weltLockLoss t k.val lanes.toNat) from rfl).trans (exec_onCore ha)

theorem core_recoverTimeout (k : Fin 2) (ha : awake s = true) :
    exec (.recoverTimeout k) s = .next (finish s (recoverTimeout s k.val)) :=
  (show exec (.recoverTimeout k) s = onCore s (fun t => recoverTimeout t k.val) from rfl).trans (exec_onCore ha)

theorem core_credit (k : Fin 2) (key : BitVec 7) (ans : BitVec 7) (posted : BitVec 5) (np : BitVec 4) (cpl : BitVec 4) (ack : BitVec 12) (nak : Bool) (ha : awake s = true) :
    exec (.credit k key ans posted np cpl ack nak) s = .next (finish s (creditReceive s k.val key.toNat ans.toNat posted.toNat np.toNat cpl.toNat ack.toNat nak)) :=
  (show exec (.credit k key ans posted np cpl ack nak) s = onCore s (fun t => creditReceive t k.val key.toNat ans.toNat posted.toNat np.toNat cpl.toNat ack.toNat nak) from rfl).trans (exec_onCore ha)

theorem core_resume (k : Fin 2) (keySent : BitVec 7) (ansSent : BitVec 7) (ha : awake s = true) :
    exec (.resume k keySent ansSent) s = .next (finish s (resumeReceive s k.val keySent.toNat ansSent.toNat)) :=
  (show exec (.resume k keySent ansSent) s = onCore s (fun t => resumeReceive t k.val keySent.toNat ansSent.toNat) from rfl).trans (exec_onCore ha)

theorem core_keyReceive (k : Fin 2) (h : BitVec 64) (payload : List Byte) (ha : awake s = true) :
    exec (.keyReceive k h payload) s = .next (finish s (keyReceive s k.val h.toNat payload)) :=
  (show exec (.keyReceive k h payload) s = onCore s (fun t => keyReceive t k.val h.toNat payload) from rfl).trans (exec_onCore ha)

theorem core_ansReceive (k : Fin 2) (h : BitVec 64) (payload : List Byte) (ha : awake s = true) :
    exec (.ansReceive k h payload) s = .next (finish s (ansReceive s k.val h.toNat payload)) :=
  (show exec (.ansReceive k h payload) s = onCore s (fun t => ansReceive t k.val h.toNat payload) from rfl).trans (exec_onCore ha)

theorem core_bpw (k : Fin 2) (h : BitVec 64) (payload : List Byte) (ha : awake s = true) :
    exec (.bpw k h payload) s = .next (finish s (bridgeReceive s k.val 3 h.toNat payload)) :=
  (show exec (.bpw k h payload) s = onCore s (fun t => bridgeReceive t k.val 3 h.toNat payload) from rfl).trans (exec_onCore ha)

theorem core_brd (k : Fin 2) (h : BitVec 64) (payload : List Byte) (ha : awake s = true) :
    exec (.brd k h payload) s = .next (finish s (bridgeReceive s k.val 4 h.toNat payload)) :=
  (show exec (.brd k h payload) s = onCore s (fun t => bridgeReceive t k.val 4 h.toNat payload) from rfl).trans (exec_onCore ha)

theorem core_bcpl (k : Fin 2) (h : BitVec 64) (payload : List Byte) (ha : awake s = true) :
    exec (.bcpl k h payload) s = .next (finish s (bridgeReceive s k.val 5 h.toNat payload)) :=
  (show exec (.bcpl k h payload) s = onCore s (fun t => bridgeReceive t k.val 5 h.toNat payload) from rfl).trans (exec_onCore ha)

theorem core_bnote (k : Fin 2) (h : BitVec 64) (payload : List Byte) (ha : awake s = true) :
    exec (.bnote k h payload) s = .next (finish s (bridgeReceive s k.val 6 h.toNat payload)) :=
  (show exec (.bnote k h payload) s = onCore s (fun t => bridgeReceive t k.val 6 h.toNat payload) from rfl).trans (exec_onCore ha)

theorem core_bridgeResend (k : Fin 2) (ha : awake s = true) :
    exec (.bridgeResend k) s = .next (finish s (bridgeResend s k.val)) :=
  (show exec (.bridgeResend k) s = onCore s (fun t => bridgeResend t k.val) from rfl).trans (exec_onCore ha)

theorem core_slaveWindowWrite (m : Requester) (pos : Fin 8) (off : BitVec 21) (data : List Byte) (ha : awake s = true) :
    exec (.slaveWindowWrite m pos off data) s = .next (finish s (busWrite s m (0x1000000 + pos.val * 2 ^ 21 + off.toNat) data)) :=
  (show exec (.slaveWindowWrite m pos off data) s = onCore s (fun t => busWrite t m (0x1000000 + pos.val * 2 ^ 21 + off.toNat) data) from rfl).trans (exec_onCore ha)

theorem core_slaveWindowRead (m : Requester) (pos : Fin 8) (off : BitVec 21) (len : Nat) (ha : awake s = true) :
    exec (.slaveWindowRead m pos off len) s = .next (finish s (busRead s m (0x1000000 + pos.val * 2 ^ 21 + off.toNat) len)) :=
  (show exec (.slaveWindowRead m pos off len) s = onCore s (fun t => busRead t m (0x1000000 + pos.val * 2 ^ 21 + off.toNat) len) from rfl).trans (exec_onCore ha)

theorem core_bridgeReadTimeout (ha : awake s = true) :
    exec (.bridgeReadTimeout) s = .next (finish s (bridgeTimeout s)) :=
  (show exec (.bridgeReadTimeout) s = onCore s (fun t => bridgeTimeout t) from rfl).trans (exec_onCore ha)

theorem core_bridgePoll (ha : awake s = true) :
    exec (.bridgePoll) s = .next (finish s (bridgePoll s)) :=
  (show exec (.bridgePoll) s = onCore s (fun t => bridgePoll t) from rfl).trans (exec_onCore ha)

theorem core_weltFramingError (k : Fin 2) (ha : awake s = true) :
    exec (.weltFramingError k) s = .next (finish s (framingError s k.val)) :=
  (show exec (.weltFramingError k) s = onCore s (fun t => framingError t k.val) from rfl).trans (exec_onCore ha)

theorem core_creditSend (k : Fin 2) (ha : awake s = true) :
    exec (.creditSend k) s = .next (finish s (creditSend s k.val)) :=
  (show exec (.creditSend k) s = onCore s (fun t => creditSend t k.val) from rfl).trans (exec_onCore ha)

end Sys2Proof.Machine
end

