-- ==== Sys2Proof/WellFormed.lean ====
section
/-!
DEFINITION. Which commands are well formed: operands whose Lean type is wider than what the hardware can present are bounded
here, command by command. Times before the present cycle stay below 131 µs, payloads within their link's frames, and a
command that is the write of a trigger bit carries that bit.
-/
namespace Sys2Proof

open Machine

/-- A register access has the shape a register accepts: 4 or 8 aligned bytes (R457). -/
def accessShape (off len : Nat) : Bool := (len = 4 && off % 4 = 0) || (len = 8 && off % 8 = 0)

/-- An operand that is a time ago. -/
def agoOk (ago : Nat) : Bool := decide (ago < 2 ^ 20)

/-- The age of an open descriptor, when there is one. -/
def openOk (o : Option Nat) : Bool :=
  match o with
  | some a => agoOk a
  | none => true

/-- Is a command well formed? -/
def Instr.wf (i : Instr) : Bool :=
  match i with
  | .dscReceive _ bytes _ ago => ((decide (bytes.length = 64) && decide (bytes.head? = some 0xD8#8)) ||
    (decide (bytes.length = 128) && decide (bytes.head? = some 0xD9#8))) && agoOk ago
  | .descriptorAccept _ => true
  | .tagGrant _ _ => true
  | .fcSend _ => true
  | .profileSelect => true
  | .cobblerStart => true
  | .slotGrant => true
  | .granuleGrant => true
  | .latencyMiss => true
  | .measurementWindowStart => true
  | .ternaryAnswer _ => true
  | .granuleReadDone => true
  | .writeAck => true
  | .heldWriteServe => true
  | .refresh _ _ => true
  | .refreshRateChange _ => true
  | .composeStart => true
  | .verdictRelease => true
  | .verdictTransmit _ => true
  | .vrdTagReclaim _ _ => true
  | .ledgerFaultClear _ _ => true
  | .vaonApply => true
  | .vaonLoss => true
  | .pgoodRise => true
  | .pgoodFall => true
  | .brownout => true
  | .resetPin => true
  | .woken _ => true
  | .dramTraining _ => true
  | .iltRead a b => decide (a.length = 64) && decide (b.length = 64)
  | .readFail => true
  | .imageFetchDone bytes => decide (bytes.length ≤ 2 ^ 21)
  | .imageApplyEnd => true
  | .dramClearEnd => true
  | .ready => true
  | .checkpointWriteDone => true
  | .reloadNext _ => true
  | .hostLoad _ => true
  | .lock _ => true
  | .flashCommand _ v data => bitOf v.toNat 31 && decide (data.length ≤ 256)
  | .flashStatusPoll _ => true
  | .flashTimeout => true
  | .ppsEdge _ ago _ => agoOk ago
  | .refMeasureEnd _ _ => true
  | .sourceLoss _ => true
  | .milCtrlWrite _ _ => true
  | .milRateWrite _ _ => true
  | .milOffsetWrite _ _ => true
  | .milSetWrite _ _ => true
  | .stepBoundary => true
  | .slewEnd => true
  | .milTimeRead _ => true
  | .dreqSend _ ago => agoOk ago
  | .drspReceive port _ turn ago => agoOk ago && (turn.isSome || decide (32 ≤ port.val))
  | .drspLost _ => true
  | .dlyFail _ => true
  | .timeMarkSend _ ago => agoOk ago
  | .timeMarkReceive _ _ _ _ ago _ => agoOk ago
  | .triggerRise _ => true
  | .triggerFall _ => true
  | .trigEnable _ _ _ => true
  | .trigPhaseWrite _ _ _ => true
  | .ppsOutRise _ => true
  | .ppsOutFall _ => true
  | .aonCalibrationEnd _ => true
  | .blockLockGain _ => true
  | .blockLockLoss _ openAgo => openOk openAgo
  | .trainReceive _ _ _ _ _ openAgo => openOk openAgo
  | .tapUp _ => true
  | .trainFail _ => true
  | .tapRestart _ _ v openAgo => bitOf v.toNat 31 && openOk openAgo
  | .tapEnable _ _ _ openAgo => openOk openAgo
  | .tapDepthWrite _ _ _ => true
  | .fcReceive _ _ _ _ => true
  | .timeout _ openAgo => openOk openAgo
  | .errReceive _ _ _ => true
  | .errSend _ => true
  | .blockError _ kind octet openAgo => decide (kind.val ≠ 0) && openOk openAgo &&
    !(decide (kind.val = 2) && [0x1E, 0x2D, 0x33, 0x66, 0x78, 0xD8, 0xD9].contains octet.toNat)
  | .tapForceCred _ _ => true
  | .profileCommit _ _ _ => true
  | .profileEnable _ _ => true
  | .selectorCommit _ _ _ => true
  | .tollRead _ v => bitOf v.toNat 0
  | .tollWrite _ v => bitOf v.toNat 1
  | .freshRead _ v => bitOf v.toNat 0
  | .freshWrite _ v => bitOf v.toNat 1
  | .thermalSample _ => true
  | .updateWindowStart => true
  | .rowAccess => true
  | .tableCommandFetch => true
  | .completionPost => true
  | .tcrDoorbell _ _ _ => true
  | .tcrEnable _ _ _ => true
  | .tcaSearch => true
  | .tcaNext => true
  | .tcaInsert => true
  | .tcaDelete => true
  | .tcaMove => true
  | .tcaWrite => true
  | .tcaRead => true
  | .tcaUpdate => true
  | .tcaWipe => true
  | .rebuildStart _ _ => true
  | .rebuildStop _ _ => true
  | .signatureLapStart => true
  | .signatureRegionDone => true
  | .signaturePost => true
  | .sigReq _ v => bitOf v.toNat 31
  | .hshSearch => true
  | .hshNext => true
  | .hshInsert => true
  | .hshDelete => true
  | .hshRead => true
  | .hshUpdate => true
  | .hshWipe => true
  | .hshPfxShareWrite _ _ => true
  | .settleRelease => true
  | .groupWrite => true
  | .combineTimeout => true
  | .pressureFree => true
  | .ageVisit => true
  | .query => true
  | .wnext => true
  | .flushStream _ v => bitOf v.toNat 31
  | .flushStreamEnd => true
  | .wayStreamCfgWrite _ _ => true
  | .learnCheck => true
  | .learnRingWrite => true
  | .learnRingDisable _ => true
  | .tickAdvance => true
  | .ageLimitWrite _ _ _ => true
  | .agingLapStart => true
  | .agingLapEnd => true
  | .agingEnable _ _ => true
  | .flushPort => true
  | .rglClassCommit _ _ _ => true
  | .weltLockGain _ _ => true
  | .deskewDone _ => true
  | .weltTrainReceive _ _ _ _ _ => true
  | .weltUp _ _ ago => agoOk ago
  | .weltTrainFail _ => true
  | .weltLockLoss _ _ => true
  | .weltRestart _ _ v => bitOf v.toNat 31
  | .recoverTimeout _ => true
  | .credit _ _ _ _ _ _ _ _ => true
  | .resume _ _ _ => true
  | .keyReceive _ _ payload => decide (payload.length ≤ 128)
  | .ansReceive _ _ payload => decide (payload.length ≤ 128)
  | .bpw _ _ payload => decide (payload.length ≤ 128)
  | .brd _ _ payload => decide (payload.length ≤ 128)
  | .bcpl _ _ payload => decide (payload.length ≤ 128)
  | .bnote _ _ payload => decide (payload.length ≤ 128)
  | .bridgeResend _ => true
  | .slaveWindowWrite _ _ off data => accessShape off.toNat data.length
  | .slaveWindowRead _ _ off len => accessShape off.toNat len
  | .brgRrdAddrWrite _ _ _ => true
  | .bridgeReadTimeout => true
  | .bridgePoll => true
  | .scratchpadServe => true
  | .setWindowWrite _ _ data => decide (0 < data.length) && decide (data.length ≤ 64)
  | .clearWindowWrite _ _ data => decide (0 < data.length) && decide (data.length ≤ 64)
  | .rotateAccess _ _ _ data len => decide (data.length ≤ 64) && decide (len ≤ 64)
  | .sramScrubVisit _ cell => decide (cell < 256)
  | .retireEntWrite _ _ => true
  | .retireDone => true
  | .tcaBlockRetire _ _ => true
  | .integrityRecordWrite => true
  | .recordClr _ _ => true
  | .flipArm _ _ => true
  | .marchGo _ v => bitOf v.toNat 31
  | .marchDone _ => true
  | .endpointReset _ _ => true
  | .unsupportedRequest _ _ => true
  | .msixUnmask _ _ => true
  | .intRearm _ _ _ => true
  | .dmaDoorbell _ _ _ => true
  | .dmaEnable _ _ _ => true
  | .dmaDescriptorDone _ => true
  | .dmaResume _ _ v => bitOf v.toNat 31
  | .dmaSkip _ _ v => bitOf v.toNat 30
  | .spiCsFall => true
  | .spiTransaction _ _ => true
  | .wdogKick _ _ => true
  | .wdog => true
  | .secureClear _ => true
  | .version _ => true
  | .checkpoint _ => true
  | .mgmtReload _ => true
  | .mailboxAnswer _ _ words => decide (words.length ≤ 4)
  | .canJoin => true
  | .canFrameReceive frame _ _ ago =>
    decide (frame.data.length ≤ 64) && decide (frame.dlc < 16) && decide (frame.id < 2 ^ 29) && agoOk ago
  | .txreq _ _ => true
  | .canTransmitEnd _ ago => agoOk ago
  | .abort _ _ => true
  | .recover _ v => bitOf v.toNat 31
  | .recovered _ => true
  | .ping => true
  | .status => true
  | .time => true
  | .read => true
  | .stayAwake => true
  | .parkVote => true
  | .parkRequest _ _ => true
  | .graceEnd _ _ => true
  | .parkFail => true
  | .wakeEvent _ => true
  | .wakeDwellEnd => true
  | .cold _ _ => true
  | .timeStateRecord => true
  | .ckptGo _ v => bitOf v.toNat 31
  | .nvcAccRead _ => true
  | .nvcAccWrite _ => true
  | .keySet _ _ => true
  | .keyRevoke _ _ => true
  | .secVer _ _ => true
  | .toDevelop _ => true
  | .toProduce _ => true
  | .toReturn _ => true
  | .fuseProgramDone _ => true
  | .tamper _ => true
  | .tamperWipeEnd => true
  | .registerWrite _ _ data => decide (0 < data.length) && decide (data.length ≤ 64)
  | .registerRead _ _ len => decide (0 < len) && decide (len ≤ 64)
  | .configurationRequest _ _ _ _ => true
  | .perstRelease _ => true
  | .hostCompletion _ _ _ => true
  | .completionTimeout _ => true
  | .weltFramingError _ => true
  | .creditSend _ => true

end Sys2Proof
end

