-- ==== Sys2Proof/Laws/PerInstr.lean ====
section
/-!
SUPPORT. Statements made per command. `Shape`: a well-formed command brings at most 2 MiB of data (the largest image, R51),
and every time it names lies less than 131 µs back.
-/
set_option Elab.async false
set_option linter.unusedSimpArgs false

namespace Sys2Proof.Laws.Shape

open Sys2Proof

/-- The bytes that a command brings. -/
def bytesOf (i : Instr) : List Byte :=
  match i with
  | .dscReceive _ bytes _ _ => bytes
  | .iltRead a b => a ++ b
  | .imageFetchDone bytes => bytes
  | .flashCommand _ _ data => data
  | .keyReceive _ _ payload => payload
  | .ansReceive _ _ payload => payload
  | .bpw _ _ payload => payload
  | .brd _ _ payload => payload
  | .bcpl _ _ payload => payload
  | .bnote _ _ payload => payload
  | .slaveWindowWrite _ _ _ data => data
  | .setWindowWrite _ _ data => data
  | .clearWindowWrite _ _ data => data
  | .rotateAccess _ _ _ data _ => data
  | .canFrameReceive frame _ _ _ => frame.data
  | .registerWrite _ _ data => data
  | _ => []

/-- The times that a command names, in 125 ps before the present cycle. -/
def times (i : Instr) : List Nat :=
  match i with
  | .dscReceive _ _ _ ago => [ago]
  | .ppsEdge _ ago _ => [ago]
  | .dreqSend _ ago => [ago]
  | .drspReceive _ _ _ ago => [ago]
  | .timeMarkSend _ ago => [ago]
  | .timeMarkReceive _ _ _ _ ago _ => [ago]
  | .blockLockLoss _ openAgo => openAgo.toList
  | .trainReceive _ _ _ _ _ openAgo => openAgo.toList
  | .tapRestart _ _ _ openAgo => openAgo.toList
  | .tapEnable _ _ _ openAgo => openAgo.toList
  | .timeout _ openAgo => openAgo.toList
  | .blockError _ _ _ openAgo => openAgo.toList
  | .weltUp _ _ ago => [ago]
  | .canFrameReceive _ _ _ ago => [ago]
  | .canTransmitEnd _ ago => [ago]
  | _ => []

/-- A well-formed command is of bounded shape. -/
def Statement (i : Instr) : Prop := i.wf = true → (bytesOf i).length ≤ 2 ^ 21 ∧ ∀ t ∈ times i, t < 2 ^ 20

/-- The time of an open descriptor, when it is well formed. -/
theorem openOk_lt {o : Option Nat} (h : openOk o = true) : ∀ t ∈ o.toList, t < 2 ^ 20 := by
  cases o with
  | none => simp
  | some a => simpa [openOk, agoOk] using h

theorem dscReceive (p : Fin 32) (bytes : List Byte) (ctl : Nat) (ago : Nat) : Statement (.dscReceive p bytes ctl ago) := by
  intro hw
  simp only [Instr.wf, agoOk, accessShape, Bool.and_eq_true, Bool.or_eq_true, decide_eq_true_eq] at hw
  simp only [bytesOf, times, List.length_append, List.length_nil, List.mem_singleton, List.not_mem_nil, forall_eq]
  refine ⟨by omega, ?_⟩
  simp_all

theorem descriptorAccept (p : Fin 32) : Statement (.descriptorAccept p) := by simp [Statement, bytesOf, times]

theorem tagGrant (p : Fin 32) (tag : Fin 1024) : Statement (.tagGrant p tag) := by simp [Statement, bytesOf, times]

theorem fcSend (p : Fin 32) : Statement (.fcSend p) := by simp [Statement, bytesOf, times]

theorem profileSelect : Statement .profileSelect := by simp [Statement, bytesOf, times]

theorem cobblerStart : Statement .cobblerStart := by simp [Statement, bytesOf, times]

theorem slotGrant : Statement .slotGrant := by simp [Statement, bytesOf, times]

theorem granuleGrant : Statement .granuleGrant := by simp [Statement, bytesOf, times]

theorem latencyMiss : Statement .latencyMiss := by simp [Statement, bytesOf, times]

theorem measurementWindowStart : Statement .measurementWindowStart := by simp [Statement, bytesOf, times]

theorem ternaryAnswer (matchIn : Bool) : Statement (.ternaryAnswer matchIn) := by simp [Statement, bytesOf, times]

theorem granuleReadDone : Statement .granuleReadDone := by simp [Statement, bytesOf, times]

theorem writeAck : Statement .writeAck := by simp [Statement, bytesOf, times]

theorem heldWriteServe : Statement .heldWriteServe := by simp [Statement, bytesOf, times]

theorem refresh (pair : Fin 4) (postpone : Bool) : Statement (.refresh pair postpone) := by simp [Statement, bytesOf, times]

theorem refreshRateChange (temp : BitVec 8) : Statement (.refreshRateChange temp) := by simp [Statement, bytesOf, times]

theorem composeStart : Statement .composeStart := by simp [Statement, bytesOf, times]

theorem verdictRelease : Statement .verdictRelease := by simp [Statement, bytesOf, times]

theorem verdictTransmit (p : Fin 32) : Statement (.verdictTransmit p) := by simp [Statement, bytesOf, times]

theorem vrdTagReclaim (m : Requester) (v : BitVec 32) : Statement (.vrdTagReclaim m v) := by simp [Statement, bytesOf, times]

theorem ledgerFaultClear (m : Requester) (v : BitVec 32) : Statement (.ledgerFaultClear m v) := by simp [Statement, bytesOf, times]

theorem vaonApply : Statement .vaonApply := by simp [Statement, bytesOf, times]

theorem vaonLoss : Statement .vaonLoss := by simp [Statement, bytesOf, times]

theorem pgoodRise : Statement .pgoodRise := by simp [Statement, bytesOf, times]

theorem pgoodFall : Statement .pgoodFall := by simp [Statement, bytesOf, times]

theorem brownout : Statement .brownout := by simp [Statement, bytesOf, times]

theorem resetPin : Statement .resetPin := by simp [Statement, bytesOf, times]

theorem woken (straps : Fin 8) : Statement (.woken straps) := by simp [Statement, bytesOf, times]

theorem dramTraining (testOk : Bool) : Statement (.dramTraining testOk) := by simp [Statement, bytesOf, times]

theorem iltRead (a : List Byte) (b : List Byte) : Statement (.iltRead a b) := by
  intro hw
  simp only [Instr.wf, agoOk, accessShape, Bool.and_eq_true, Bool.or_eq_true, decide_eq_true_eq] at hw
  simp only [bytesOf, times, List.length_append, List.length_nil, List.mem_singleton, List.not_mem_nil, forall_eq]
  refine ⟨by omega, ?_⟩
  simp_all

theorem readFail : Statement .readFail := by simp [Statement, bytesOf, times]

theorem imageFetchDone (bytes : List Byte) : Statement (.imageFetchDone bytes) := by
  intro hw
  simp only [Instr.wf, agoOk, accessShape, Bool.and_eq_true, Bool.or_eq_true, decide_eq_true_eq] at hw
  simp only [bytesOf, times, List.length_append, List.length_nil, List.mem_singleton, List.not_mem_nil, forall_eq]
  refine ⟨by omega, ?_⟩
  simp_all

theorem imageApplyEnd : Statement .imageApplyEnd := by simp [Statement, bytesOf, times]

theorem dramClearEnd : Statement .dramClearEnd := by simp [Statement, bytesOf, times]

theorem ready : Statement .ready := by simp [Statement, bytesOf, times]

theorem checkpointWriteDone : Statement .checkpointWriteDone := by simp [Statement, bytesOf, times]

theorem reloadNext (m : Requester) : Statement (.reloadNext m) := by simp [Statement, bytesOf, times]

theorem hostLoad (m : Requester) : Statement (.hostLoad m) := by simp [Statement, bytesOf, times]

theorem lock (m : Requester) : Statement (.lock m) := by simp [Statement, bytesOf, times]

theorem flashCommand (m : Requester) (v : BitVec 32) (data : List Byte) : Statement (.flashCommand m v data) := by
  intro hw
  simp only [Instr.wf, agoOk, accessShape, Bool.and_eq_true, Bool.or_eq_true, decide_eq_true_eq] at hw
  simp only [bytesOf, times, List.length_append, List.length_nil, List.mem_singleton, List.not_mem_nil, forall_eq]
  refine ⟨by omega, ?_⟩
  simp_all

theorem flashStatusPoll (busy : Bool) : Statement (.flashStatusPoll busy) := by simp [Statement, bytesOf, times]

theorem flashTimeout : Statement .flashTimeout := by simp [Statement, bytesOf, times]

theorem ppsEdge (k : Fin 2) (ago : Nat) (high : Nat) : Statement (.ppsEdge k ago high) := by
  intro hw
  simp only [Instr.wf, agoOk, accessShape, Bool.and_eq_true, Bool.or_eq_true, decide_eq_true_eq] at hw
  simp only [bytesOf, times, List.length_append, List.length_nil, List.mem_singleton, List.not_mem_nil, forall_eq]
  refine ⟨by omega, ?_⟩
  simp_all

theorem refMeasureEnd (ppt : Int) (inRange : Bool) : Statement (.refMeasureEnd ppt inRange) := by simp [Statement, bytesOf, times]

theorem sourceLoss (c : Fin 6) : Statement (.sourceLoss c) := by simp [Statement, bytesOf, times]

theorem milCtrlWrite (m : Requester) (v : BitVec 32) : Statement (.milCtrlWrite m v) := by simp [Statement, bytesOf, times]

theorem milRateWrite (m : Requester) (v : BitVec 32) : Statement (.milRateWrite m v) := by simp [Statement, bytesOf, times]

theorem milOffsetWrite (m : Requester) (v : BitVec 64) : Statement (.milOffsetWrite m v) := by simp [Statement, bytesOf, times]

theorem milSetWrite (m : Requester) (v : BitVec 64) : Statement (.milSetWrite m v) := by simp [Statement, bytesOf, times]

theorem stepBoundary : Statement .stepBoundary := by simp [Statement, bytesOf, times]

theorem slewEnd : Statement .slewEnd := by simp [Statement, bytesOf, times]

theorem milTimeRead (m : Requester) : Statement (.milTimeRead m) := by simp [Statement, bytesOf, times]

theorem dreqSend (port : Fin 34) (ago : Nat) : Statement (.dreqSend port ago) := by
  intro hw
  simp only [Instr.wf, agoOk, accessShape, Bool.and_eq_true, Bool.or_eq_true, decide_eq_true_eq] at hw
  simp only [bytesOf, times, List.length_append, List.length_nil, List.mem_singleton, List.not_mem_nil, forall_eq]
  refine ⟨by omega, ?_⟩
  simp_all

theorem drspReceive (port : Fin 34) (seq : BitVec 16) (turn : Option (BitVec 32)) (ago : Nat) :
    Statement (.drspReceive port seq turn ago) := by
  intro hw
  simp only [Instr.wf, agoOk, accessShape, Bool.and_eq_true, Bool.or_eq_true, decide_eq_true_eq] at hw
  simp only [bytesOf, times, List.length_append, List.length_nil, List.mem_singleton, List.not_mem_nil, forall_eq]
  refine ⟨by omega, ?_⟩
  simp_all

theorem drspLost (port : Fin 34) : Statement (.drspLost port) := by simp [Statement, bytesOf, times]

theorem dlyFail (port : Fin 34) : Statement (.dlyFail port) := by simp [Statement, bytesOf, times]

theorem timeMarkSend (port : Fin 34) (ago : Nat) : Statement (.timeMarkSend port ago) := by
  intro hw
  simp only [Instr.wf, agoOk, accessShape, Bool.and_eq_true, Bool.or_eq_true, decide_eq_true_eq] at hw
  simp only [bytesOf, times, List.length_append, List.length_nil, List.mem_singleton, List.not_mem_nil, forall_eq]
  refine ⟨by omega, ?_⟩
  simp_all

theorem timeMarkReceive (egress : BitVec 72) (dly : BitVec 23) (valid : Bool) (base : BitVec 8) (ago : Nat) (ann : Option (Int × Nat × Bool)) : Statement (.timeMarkReceive egress dly valid base ago ann) := by
  intro hw
  simp only [Instr.wf, agoOk, accessShape, Bool.and_eq_true, Bool.or_eq_true, decide_eq_true_eq] at hw
  simp only [bytesOf, times, List.length_append, List.length_nil, List.mem_singleton, List.not_mem_nil, forall_eq]
  refine ⟨by omega, ?_⟩
  simp_all

theorem triggerRise (n : Fin 8) : Statement (.triggerRise n) := by simp [Statement, bytesOf, times]

theorem triggerFall (n : Fin 8) : Statement (.triggerFall n) := by simp [Statement, bytesOf, times]

theorem trigEnable (m : Requester) (n : Fin 8) (v : BitVec 32) : Statement (.trigEnable m n v) := by simp [Statement, bytesOf, times]

theorem trigPhaseWrite (m : Requester) (n : Fin 8) (v : BitVec 32) : Statement (.trigPhaseWrite m n v) := by simp [Statement, bytesOf, times]

theorem ppsOutRise (k : Fin 2) : Statement (.ppsOutRise k) := by simp [Statement, bytesOf, times]

theorem ppsOutFall (k : Fin 2) : Statement (.ppsOutFall k) := by simp [Statement, bytesOf, times]

theorem aonCalibrationEnd (period : BitVec 32) : Statement (.aonCalibrationEnd period) := by simp [Statement, bytesOf, times]

theorem blockLockGain (p : Fin 32) : Statement (.blockLockGain p) := by simp [Statement, bytesOf, times]

theorem blockLockLoss (p : Fin 32) (openAgo : Option Nat) : Statement (.blockLockLoss p openAgo) := by
  intro hw
  simp only [Instr.wf, Bool.and_eq_true] at hw
  exact ⟨by simp [bytesOf], openOk_lt (by simp_all)⟩

theorem trainReceive (p : Fin 32) (ver : BitVec 8) (role : BitVec 1) (vspace : BitVec 16) (ack : Bool) (openAgo : Option Nat) : Statement (.trainReceive p ver role vspace ack openAgo) := by
  intro hw
  simp only [Instr.wf, Bool.and_eq_true] at hw
  exact ⟨by simp [bytesOf], openOk_lt (by simp_all)⟩

theorem tapUp (p : Fin 32) : Statement (.tapUp p) := by simp [Statement, bytesOf, times]

theorem trainFail (p : Fin 32) : Statement (.trainFail p) := by simp [Statement, bytesOf, times]

theorem tapRestart (m : Requester) (p : Fin 32) (v : BitVec 32) (openAgo : Option Nat) : Statement (.tapRestart m p v openAgo) := by
  intro hw
  simp only [Instr.wf, Bool.and_eq_true] at hw
  exact ⟨by simp [bytesOf], openOk_lt (by simp_all)⟩

theorem tapEnable (m : Requester) (p : Fin 32) (v : BitVec 32) (openAgo : Option Nat) : Statement (.tapEnable m p v openAgo) := by
  intro hw
  simp only [Instr.wf, Bool.and_eq_true] at hw
  exact ⟨by simp [bytesOf], openOk_lt (by simp_all)⟩

theorem tapDepthWrite (m : Requester) (p : Fin 32) (v : BitVec 32) : Statement (.tapDepthWrite m p v) := by simp [Statement, bytesOf, times]

theorem fcReceive (p : Fin 32) (vcons : BitVec 16) (urg : BitVec 2) (req : BitVec 2) : Statement (.fcReceive p vcons urg req) := by simp [Statement, bytesOf, times]

theorem timeout (p : Fin 32) (openAgo : Option Nat) : Statement (.timeout p openAgo) := by
  intro hw
  simp only [Instr.wf, Bool.and_eq_true] at hw
  exact ⟨by simp [bytesOf], openOk_lt (by simp_all)⟩

theorem errReceive (p : Fin 32) (code : BitVec 8) (detail : BitVec 16) : Statement (.errReceive p code detail) := by simp [Statement, bytesOf, times]

theorem errSend (p : Fin 32) : Statement (.errSend p) := by simp [Statement, bytesOf, times]

theorem blockError (p : Fin 32) (kind : Fin 6) (octet : BitVec 8) (openAgo : Option Nat) : Statement (.blockError p kind octet openAgo) := by
  intro hw
  simp only [Instr.wf, Bool.and_eq_true] at hw
  exact ⟨by simp [bytesOf], openOk_lt (by simp_all)⟩

theorem tapForceCred (m : Requester) (v : BitVec 32) : Statement (.tapForceCred m v) := by simp [Statement, bytesOf, times]

theorem profileCommit (m : Requester) (n : Fin 64) (v : BitVec 32) : Statement (.profileCommit m n v) := by simp [Statement, bytesOf, times]

theorem profileEnable (m : Requester) (v : BitVec 64) : Statement (.profileEnable m v) := by simp [Statement, bytesOf, times]

theorem selectorCommit (m : Requester) (n : Fin 512) (v : BitVec 32) : Statement (.selectorCommit m n v) := by simp [Statement, bytesOf, times]

theorem tollRead (m : Requester) (v : BitVec 32) : Statement (.tollRead m v) := by simp [Statement, bytesOf, times]

theorem tollWrite (m : Requester) (v : BitVec 32) : Statement (.tollWrite m v) := by simp [Statement, bytesOf, times]

theorem freshRead (m : Requester) (v : BitVec 32) : Statement (.freshRead m v) := by simp [Statement, bytesOf, times]

theorem freshWrite (m : Requester) (v : BitVec 32) : Statement (.freshWrite m v) := by simp [Statement, bytesOf, times]

theorem thermalSample (temp : BitVec 8) : Statement (.thermalSample temp) := by simp [Statement, bytesOf, times]

theorem updateWindowStart : Statement .updateWindowStart := by simp [Statement, bytesOf, times]

theorem rowAccess : Statement .rowAccess := by simp [Statement, bytesOf, times]

theorem tableCommandFetch : Statement .tableCommandFetch := by simp [Statement, bytesOf, times]

theorem completionPost : Statement .completionPost := by simp [Statement, bytesOf, times]

theorem tcrDoorbell (m : Requester) (r : Fin 4) (v : BitVec 32) : Statement (.tcrDoorbell m r v) := by simp [Statement, bytesOf, times]

theorem tcrEnable (m : Requester) (r : Fin 4) (v : BitVec 32) : Statement (.tcrEnable m r v) := by simp [Statement, bytesOf, times]

theorem tcaSearch : Statement .tcaSearch := by simp [Statement, bytesOf, times]

theorem tcaNext : Statement .tcaNext := by simp [Statement, bytesOf, times]

theorem tcaInsert : Statement .tcaInsert := by simp [Statement, bytesOf, times]

theorem tcaDelete : Statement .tcaDelete := by simp [Statement, bytesOf, times]

theorem tcaMove : Statement .tcaMove := by simp [Statement, bytesOf, times]

theorem tcaWrite : Statement .tcaWrite := by simp [Statement, bytesOf, times]

theorem tcaRead : Statement .tcaRead := by simp [Statement, bytesOf, times]

theorem tcaUpdate : Statement .tcaUpdate := by simp [Statement, bytesOf, times]

theorem tcaWipe : Statement .tcaWipe := by simp [Statement, bytesOf, times]

theorem rebuildStart (m : Requester) (table : Fin 64) : Statement (.rebuildStart m table) := by simp [Statement, bytesOf, times]

theorem rebuildStop (m : Requester) (table : Fin 64) : Statement (.rebuildStop m table) := by simp [Statement, bytesOf, times]

theorem signatureLapStart : Statement .signatureLapStart := by simp [Statement, bytesOf, times]

theorem signatureRegionDone : Statement .signatureRegionDone := by simp [Statement, bytesOf, times]

theorem signaturePost : Statement .signaturePost := by simp [Statement, bytesOf, times]

theorem sigReq (m : Requester) (v : BitVec 32) : Statement (.sigReq m v) := by simp [Statement, bytesOf, times]

theorem hshSearch : Statement .hshSearch := by simp [Statement, bytesOf, times]

theorem hshNext : Statement .hshNext := by simp [Statement, bytesOf, times]

theorem hshInsert : Statement .hshInsert := by simp [Statement, bytesOf, times]

theorem hshDelete : Statement .hshDelete := by simp [Statement, bytesOf, times]

theorem hshRead : Statement .hshRead := by simp [Statement, bytesOf, times]

theorem hshUpdate : Statement .hshUpdate := by simp [Statement, bytesOf, times]

theorem hshWipe : Statement .hshWipe := by simp [Statement, bytesOf, times]

theorem hshPfxShareWrite (m : Requester) (v : BitVec 32) : Statement (.hshPfxShareWrite m v) := by simp [Statement, bytesOf, times]

theorem settleRelease : Statement .settleRelease := by simp [Statement, bytesOf, times]

theorem groupWrite : Statement .groupWrite := by simp [Statement, bytesOf, times]

theorem combineTimeout : Statement .combineTimeout := by simp [Statement, bytesOf, times]

theorem pressureFree : Statement .pressureFree := by simp [Statement, bytesOf, times]

theorem ageVisit : Statement .ageVisit := by simp [Statement, bytesOf, times]

theorem query : Statement .query := by simp [Statement, bytesOf, times]

theorem wnext : Statement .wnext := by simp [Statement, bytesOf, times]

theorem flushStream (m : Requester) (v : BitVec 32) : Statement (.flushStream m v) := by simp [Statement, bytesOf, times]

theorem flushStreamEnd : Statement .flushStreamEnd := by simp [Statement, bytesOf, times]

theorem wayStreamCfgWrite (m : Requester) (v : BitVec 64) : Statement (.wayStreamCfgWrite m v) := by simp [Statement, bytesOf, times]

theorem learnCheck : Statement .learnCheck := by simp [Statement, bytesOf, times]

theorem learnRingWrite : Statement .learnRingWrite := by simp [Statement, bytesOf, times]

theorem learnRingDisable (m : Requester) : Statement (.learnRingDisable m) := by simp [Statement, bytesOf, times]

theorem tickAdvance : Statement .tickAdvance := by simp [Statement, bytesOf, times]

theorem ageLimitWrite (m : Requester) (table : Fin 64) (v : BitVec 32) : Statement (.ageLimitWrite m table v) := by simp [Statement, bytesOf, times]

theorem agingLapStart : Statement .agingLapStart := by simp [Statement, bytesOf, times]

theorem agingLapEnd : Statement .agingLapEnd := by simp [Statement, bytesOf, times]

theorem agingEnable (m : Requester) (v : BitVec 32) : Statement (.agingEnable m v) := by simp [Statement, bytesOf, times]

theorem flushPort : Statement .flushPort := by simp [Statement, bytesOf, times]

theorem rglClassCommit (m : Requester) (c : Fin 8) (v : BitVec 64) : Statement (.rglClassCommit m c v) := by simp [Statement, bytesOf, times]

theorem weltLockGain (k : Fin 2) (lanes : BitVec 4) : Statement (.weltLockGain k lanes) := by simp [Statement, bytesOf, times]

theorem deskewDone (k : Fin 2) : Statement (.deskewDone k) := by simp [Statement, bytesOf, times]

theorem weltTrainReceive (k : Fin 2) (ver : BitVec 8) (ack : Bool) (part : Fin 3) (v : BitVec 32) : Statement (.weltTrainReceive k ver ack part v) := by simp [Statement, bytesOf, times]

theorem weltUp (k : Fin 2) (mlDelay : BitVec 4) (ago : Nat) : Statement (.weltUp k mlDelay ago) := by
  intro hw
  simp only [Instr.wf, agoOk, accessShape, Bool.and_eq_true, Bool.or_eq_true, decide_eq_true_eq] at hw
  simp only [bytesOf, times, List.length_append, List.length_nil, List.mem_singleton, List.not_mem_nil, forall_eq]
  refine ⟨by omega, ?_⟩
  simp_all

theorem weltTrainFail (k : Fin 2) : Statement (.weltTrainFail k) := by simp [Statement, bytesOf, times]

theorem weltLockLoss (k : Fin 2) (lanes : BitVec 4) : Statement (.weltLockLoss k lanes) := by simp [Statement, bytesOf, times]

theorem weltRestart (m : Requester) (k : Fin 2) (v : BitVec 32) : Statement (.weltRestart m k v) := by simp [Statement, bytesOf, times]

theorem recoverTimeout (k : Fin 2) : Statement (.recoverTimeout k) := by simp [Statement, bytesOf, times]

theorem credit (k : Fin 2) (key : BitVec 7) (ans : BitVec 7) (posted : BitVec 5) (np : BitVec 4) (cpl : BitVec 4) (ack : BitVec 12) (nak : Bool) : Statement (.credit k key ans posted np cpl ack nak) := by simp [Statement, bytesOf, times]

theorem resume (k : Fin 2) (keySent : BitVec 7) (ansSent : BitVec 7) : Statement (.resume k keySent ansSent) := by simp [Statement, bytesOf, times]

theorem keyReceive (k : Fin 2) (h : BitVec 64) (payload : List Byte) : Statement (.keyReceive k h payload) := by
  intro hw
  simp only [Instr.wf, agoOk, accessShape, Bool.and_eq_true, Bool.or_eq_true, decide_eq_true_eq] at hw
  simp only [bytesOf, times, List.length_append, List.length_nil, List.mem_singleton, List.not_mem_nil, forall_eq]
  refine ⟨by omega, ?_⟩
  simp_all

theorem ansReceive (k : Fin 2) (h : BitVec 64) (payload : List Byte) : Statement (.ansReceive k h payload) := by
  intro hw
  simp only [Instr.wf, agoOk, accessShape, Bool.and_eq_true, Bool.or_eq_true, decide_eq_true_eq] at hw
  simp only [bytesOf, times, List.length_append, List.length_nil, List.mem_singleton, List.not_mem_nil, forall_eq]
  refine ⟨by omega, ?_⟩
  simp_all

theorem bpw (k : Fin 2) (h : BitVec 64) (payload : List Byte) : Statement (.bpw k h payload) := by
  intro hw
  simp only [Instr.wf, agoOk, accessShape, Bool.and_eq_true, Bool.or_eq_true, decide_eq_true_eq] at hw
  simp only [bytesOf, times, List.length_append, List.length_nil, List.mem_singleton, List.not_mem_nil, forall_eq]
  refine ⟨by omega, ?_⟩
  simp_all

theorem brd (k : Fin 2) (h : BitVec 64) (payload : List Byte) : Statement (.brd k h payload) := by
  intro hw
  simp only [Instr.wf, agoOk, accessShape, Bool.and_eq_true, Bool.or_eq_true, decide_eq_true_eq] at hw
  simp only [bytesOf, times, List.length_append, List.length_nil, List.mem_singleton, List.not_mem_nil, forall_eq]
  refine ⟨by omega, ?_⟩
  simp_all

theorem bcpl (k : Fin 2) (h : BitVec 64) (payload : List Byte) : Statement (.bcpl k h payload) := by
  intro hw
  simp only [Instr.wf, agoOk, accessShape, Bool.and_eq_true, Bool.or_eq_true, decide_eq_true_eq] at hw
  simp only [bytesOf, times, List.length_append, List.length_nil, List.mem_singleton, List.not_mem_nil, forall_eq]
  refine ⟨by omega, ?_⟩
  simp_all

theorem bnote (k : Fin 2) (h : BitVec 64) (payload : List Byte) : Statement (.bnote k h payload) := by
  intro hw
  simp only [Instr.wf, agoOk, accessShape, Bool.and_eq_true, Bool.or_eq_true, decide_eq_true_eq] at hw
  simp only [bytesOf, times, List.length_append, List.length_nil, List.mem_singleton, List.not_mem_nil, forall_eq]
  refine ⟨by omega, ?_⟩
  simp_all

theorem bridgeResend (k : Fin 2) : Statement (.bridgeResend k) := by simp [Statement, bytesOf, times]

theorem slaveWindowWrite (m : Requester) (pos : Fin 8) (off : BitVec 21) (data : List Byte) : Statement (.slaveWindowWrite m pos off data) := by
  intro hw
  simp only [Instr.wf, agoOk, accessShape, Bool.and_eq_true, Bool.or_eq_true, decide_eq_true_eq] at hw
  simp only [bytesOf, times, List.length_append, List.length_nil, List.mem_singleton, List.not_mem_nil, forall_eq]
  refine ⟨by omega, ?_⟩
  simp_all

theorem slaveWindowRead (m : Requester) (pos : Fin 8) (off : BitVec 21) (len : Nat) : Statement (.slaveWindowRead m pos off len) := by simp [Statement, bytesOf, times]

theorem brgRrdAddrWrite (m : Requester) (ix : Fin 4) (v : BitVec 32) : Statement (.brgRrdAddrWrite m ix v) := by simp [Statement, bytesOf, times]

theorem bridgeReadTimeout : Statement .bridgeReadTimeout := by simp [Statement, bytesOf, times]

theorem bridgePoll : Statement .bridgePoll := by simp [Statement, bytesOf, times]

theorem scratchpadServe : Statement .scratchpadServe := by simp [Statement, bytesOf, times]

theorem setWindowWrite (m : Requester) (off : BitVec 19) (data : List Byte) : Statement (.setWindowWrite m off data) := by
  intro hw
  simp only [Instr.wf, agoOk, accessShape, Bool.and_eq_true, Bool.or_eq_true, decide_eq_true_eq] at hw
  simp only [bytesOf, times, List.length_append, List.length_nil, List.mem_singleton, List.not_mem_nil, forall_eq]
  refine ⟨by omega, ?_⟩
  simp_all

theorem clearWindowWrite (m : Requester) (off : BitVec 19) (data : List Byte) : Statement (.clearWindowWrite m off data) := by
  intro hw
  simp only [Instr.wf, agoOk, accessShape, Bool.and_eq_true, Bool.or_eq_true, decide_eq_true_eq] at hw
  simp only [bytesOf, times, List.length_append, List.length_nil, List.mem_singleton, List.not_mem_nil, forall_eq]
  refine ⟨by omega, ?_⟩
  simp_all

theorem rotateAccess (m : Requester) (write : Bool) (off : BitVec 19) (data : List Byte) (len : Nat) : Statement (.rotateAccess m write off data len) := by
  intro hw
  simp only [Instr.wf, agoOk, accessShape, Bool.and_eq_true, Bool.or_eq_true, decide_eq_true_eq] at hw
  simp only [bytesOf, times, List.length_append, List.length_nil, List.mem_singleton, List.not_mem_nil, forall_eq]
  refine ⟨by omega, ?_⟩
  simp_all

theorem sramScrubVisit (mem : Fin 64) (cell : Nat) : Statement (.sramScrubVisit mem cell) := by simp [Statement, bytesOf, times]

theorem retireEntWrite (m : Requester) (v : BitVec 64) : Statement (.retireEntWrite m v) := by simp [Statement, bytesOf, times]

theorem retireDone : Statement .retireDone := by simp [Statement, bytesOf, times]

theorem tcaBlockRetire (m : Requester) (v : BitVec 32) : Statement (.tcaBlockRetire m v) := by simp [Statement, bytesOf, times]

theorem integrityRecordWrite : Statement .integrityRecordWrite := by simp [Statement, bytesOf, times]

theorem recordClr (m : Requester) (v : BitVec 32) : Statement (.recordClr m v) := by simp [Statement, bytesOf, times]

theorem flipArm (m : Requester) (v : BitVec 32) : Statement (.flipArm m v) := by simp [Statement, bytesOf, times]

theorem marchGo (m : Requester) (v : BitVec 32) : Statement (.marchGo m v) := by simp [Statement, bytesOf, times]

theorem marchDone (fails : List Nat) : Statement (.marchDone fails) := by simp [Statement, bytesOf, times]

theorem endpointReset (f : Fin 2) (kind : ResetKind) : Statement (.endpointReset f kind) := by simp [Statement, bytesOf, times]

theorem unsupportedRequest (f : Fin 2) (kind : BadReq) : Statement (.unsupportedRequest f kind) := by simp [Statement, bytesOf, times]

theorem msixUnmask (f : Fin 2) (vec : Fin 32) : Statement (.msixUnmask f vec) := by simp [Statement, bytesOf, times]

theorem intRearm (m : Requester) (f : Fin 2) (v : BitVec 32) : Statement (.intRearm m f v) := by simp [Statement, bytesOf, times]

theorem dmaDoorbell (m : Requester) (n : Fin 8) (v : BitVec 32) : Statement (.dmaDoorbell m n v) := by simp [Statement, bytesOf, times]

theorem dmaEnable (m : Requester) (n : Fin 8) (v : BitVec 32) : Statement (.dmaEnable m n v) := by simp [Statement, bytesOf, times]

theorem dmaDescriptorDone (n : Fin 8) : Statement (.dmaDescriptorDone n) := by simp [Statement, bytesOf, times]

theorem dmaResume (m : Requester) (n : Fin 8) (v : BitVec 32) : Statement (.dmaResume m n v) := by simp [Statement, bytesOf, times]

theorem dmaSkip (m : Requester) (n : Fin 8) (v : BitVec 32) : Statement (.dmaSkip m n v) := by simp [Statement, bytesOf, times]

theorem spiCsFall : Statement .spiCsFall := by simp [Statement, bytesOf, times]

theorem spiTransaction (bits : Nat) (mosi : BitVec 64) : Statement (.spiTransaction bits mosi) := by simp [Statement, bytesOf, times]

theorem wdogKick (m : Requester) (v : BitVec 32) : Statement (.wdogKick m v) := by simp [Statement, bytesOf, times]

theorem wdog : Statement .wdog := by simp [Statement, bytesOf, times]

theorem secureClear (m : Requester) : Statement (.secureClear m) := by simp [Statement, bytesOf, times]

theorem version (box : Fin 3) : Statement (.version box) := by simp [Statement, bytesOf, times]

theorem checkpoint (box : Fin 3) : Statement (.checkpoint box) := by simp [Statement, bytesOf, times]

theorem mgmtReload (box : Fin 3) : Statement (.mgmtReload box) := by simp [Statement, bytesOf, times]

theorem mailboxAnswer (box : Fin 3) (status : BitVec 8) (words : List (BitVec 32)) : Statement (.mailboxAnswer box status words) := by simp [Statement, bytesOf, times]

theorem canJoin : Statement .canJoin := by simp [Statement, bytesOf, times]

theorem canFrameReceive (frame : CanFrame) (lec : Fin 8) (heavy : Bool) (ago : Nat) : Statement (.canFrameReceive frame lec heavy ago) := by
  intro hw
  simp only [Instr.wf, agoOk, accessShape, Bool.and_eq_true, Bool.or_eq_true, decide_eq_true_eq] at hw
  simp only [bytesOf, times, List.length_append, List.length_nil, List.mem_singleton, List.not_mem_nil, forall_eq]
  refine ⟨by omega, ?_⟩
  simp_all

theorem txreq (m : Requester) (n : Fin 128) : Statement (.txreq m n) := by simp [Statement, bytesOf, times]

theorem canTransmitEnd (e : CanEnd) (ago : Nat) : Statement (.canTransmitEnd e ago) := by
  intro hw
  simp only [Instr.wf, agoOk, accessShape, Bool.and_eq_true, Bool.or_eq_true, decide_eq_true_eq] at hw
  simp only [bytesOf, times, List.length_append, List.length_nil, List.mem_singleton, List.not_mem_nil, forall_eq]
  refine ⟨by omega, ?_⟩
  simp_all

theorem abort (m : Requester) (n : Fin 128) : Statement (.abort m n) := by simp [Statement, bytesOf, times]

theorem recover (m : Requester) (v : BitVec 32) : Statement (.recover m v) := by simp [Statement, bytesOf, times]

theorem recovered (n : Nat) : Statement (.recovered n) := by simp [Statement, bytesOf, times]

theorem ping : Statement .ping := by simp [Statement, bytesOf, times]

theorem status : Statement .status := by simp [Statement, bytesOf, times]

theorem time : Statement .time := by simp [Statement, bytesOf, times]

theorem read : Statement .read := by simp [Statement, bytesOf, times]

theorem stayAwake : Statement .stayAwake := by simp [Statement, bytesOf, times]

theorem parkVote : Statement .parkVote := by simp [Statement, bytesOf, times]

theorem parkRequest (m : Requester) (key : BitVec 16) : Statement (.parkRequest m key) := by simp [Statement, bytesOf, times]

theorem graceEnd (wake : Fin 16) (tamper : Fin 4) : Statement (.graceEnd wake tamper) := by simp [Statement, bytesOf, times]

theorem parkFail : Statement .parkFail := by simp [Statement, bytesOf, times]

theorem wakeEvent (n : Fin 6) : Statement (.wakeEvent n) := by simp [Statement, bytesOf, times]

theorem wakeDwellEnd : Statement .wakeDwellEnd := by simp [Statement, bytesOf, times]

theorem cold (m : Requester) (key : BitVec 16) : Statement (.cold m key) := by simp [Statement, bytesOf, times]

theorem timeStateRecord : Statement .timeStateRecord := by simp [Statement, bytesOf, times]

theorem ckptGo (m : Requester) (v : BitVec 32) : Statement (.ckptGo m v) := by simp [Statement, bytesOf, times]

theorem nvcAccRead (m : Requester) : Statement (.nvcAccRead m) := by simp [Statement, bytesOf, times]

theorem nvcAccWrite (m : Requester) : Statement (.nvcAccWrite m) := by simp [Statement, bytesOf, times]

theorem keySet (m : Requester) (slot : Fin 4) : Statement (.keySet m slot) := by simp [Statement, bytesOf, times]

theorem keyRevoke (m : Requester) (slot : Fin 4) : Statement (.keyRevoke m slot) := by simp [Statement, bytesOf, times]

theorem secVer (m : Requester) (arg : Fin 128) : Statement (.secVer m arg) := by simp [Statement, bytesOf, times]

theorem toDevelop (m : Requester) : Statement (.toDevelop m) := by simp [Statement, bytesOf, times]

theorem toProduce (m : Requester) : Statement (.toProduce m) := by simp [Statement, bytesOf, times]

theorem toReturn (m : Requester) : Statement (.toReturn m) := by simp [Statement, bytesOf, times]

theorem fuseProgramDone (ok : Bool) : Statement (.fuseProgramDone ok) := by simp [Statement, bytesOf, times]

theorem tamper (k : Fin 2) : Statement (.tamper k) := by simp [Statement, bytesOf, times]

theorem tamperWipeEnd : Statement .tamperWipeEnd := by simp [Statement, bytesOf, times]

theorem registerWrite (m : Requester) (off : BitVec 25) (data : List Byte) : Statement (.registerWrite m off data) := by
  intro hw
  simp only [Instr.wf, agoOk, accessShape, Bool.and_eq_true, Bool.or_eq_true, decide_eq_true_eq] at hw
  simp only [bytesOf, times, List.length_append, List.length_nil, List.mem_singleton, List.not_mem_nil, forall_eq]
  refine ⟨by omega, ?_⟩
  simp_all

theorem registerRead (m : Requester) (off : BitVec 25) (len : Nat) : Statement (.registerRead m off len) := by simp [Statement, bytesOf, times]

theorem configurationRequest (f : Fin 2) (write : Bool) (reg : CfgReg) (v : BitVec 32) : Statement (.configurationRequest f write reg v) := by simp [Statement, bytesOf, times]

theorem perstRelease (f : Fin 2) : Statement (.perstRelease f) := by simp [Statement, bytesOf, times]

theorem hostCompletion (id : Nat) (st : CplStatus) (data : List Byte) : Statement (.hostCompletion id st data) := by simp [Statement, bytesOf, times]

theorem completionTimeout (id : Nat) : Statement (.completionTimeout id) := by simp [Statement, bytesOf, times]

theorem weltFramingError (k : Fin 2) : Statement (.weltFramingError k) := by simp [Statement, bytesOf, times]

theorem creditSend (k : Fin 2) : Statement (.creditSend k) := by simp [Statement, bytesOf, times]

end Sys2Proof.Laws.Shape
end

