-- ==== Sys2Proof/Laws/Reads.lean ====
section
/-!
SUPPORT. What a master's read of an on-die memory can touch: the integrity unit's trackers, log and counters (R423–R425).
-/
namespace Sys2Proof.Machine

variable {s t : State} {mem : Nat}

/-- Such a read's frame. -/
abbrev ReadOnly (mem : Nat) (s t : State) : Prop := Only [.intg] (readRegs mem) s t

theorem readOnly_intg (i : IntSt) : ReadOnly mem s { s with intg := i } :=
  ⟨fun u hu => by cases u <;> simp [UnitName.same] at *, fun o _ _ => rd_congr rfl o, fun f => by simp [pcie]⟩

theorem readOnly_setFlip (a : Nat) (f : Option Flip) : ReadOnly mem s (setFlip s mem a f) := readOnly_intg _

theorem readOnly_rcEvent (k b e : Nat) (f : Nat → Nat → Nat) : ReadOnly mem s (rcEvent s k b e f) :=
  ⟨fun u hu => by cases u <;> simp [UnitName.same] at *, fun o _ _ => rd_congr (by simp) o, fun f => by simp [pcie]⟩

theorem ReadOnly.next {u : State} (h : ReadOnly mem s t) (k : ReadOnly mem t u) : ReadOnly mem s u :=
  h.more k (by simp) (by simp)

theorem ReadOnly.evt (h : ReadOnly mem s t) (b : Nat) : ReadOnly mem s (Machine.setEvt t Reg.intEvt b) :=
  Only.setEvt h b (by simp [readRegs])

theorem mem_readRegs_log (a b : Nat) (ha : a < 64) (hb : b < 2) : Reg.intLog a b ∈ readRegs mem := by
  refine List.mem_append_right _ (List.mem_map.2 ⟨2 * a + b, List.mem_range.2 (by omega), ?_⟩)
  rw [show (2 * a + b) / 2 = a by omega, show (2 * a + b) % 2 = b by omega]

theorem readOnly_intLog (synd kind m ms : Nat) (inj : Bool) (a : Nat) : ReadOnly mem s (intLog s synd kind m ms inj a) := by
  unfold intLog logPut
  simp only
  split
  · exact Only.satBump (readOnly_rcEvent _ _ _ _) _ _ _ (by simp [readRegs])
  · have h0 : ∀ w0 w1, ReadOnly mem s (wr (wr s (Reg.intLog (fget s Reg.intLogHead 15 0 % 64) 0) w0)
        (Reg.intLog (fget s Reg.intLogHead 15 0 % 64) 1) w1) := fun w0 w1 =>
      Only.wr (Only.wr (Only.refl _ _ s) w0 (mem_readRegs_log _ 0 (Nat.mod_lt _ (by decide)) (by decide))) w1
        (mem_readRegs_log _ 1 (Nat.mod_lt _ (by decide)) (by decide))
    have h1 := fun w0 w1 => Only.wr (h0 w0 w1) (o := Reg.intLogHead) ((fget s Reg.intLogHead 15 0 + 1) % 65536)
      (by simp [readRegs])
    split
    · exact ReadOnly.evt (h1 _ _) 2
    · exact h1 _ _

/-- An error logged, and its event. -/
theorem readOnly_intLog_evt (h : ReadOnly mem s t) (synd kind m b : Nat) (inj : Bool) (a : Nat) :
    ReadOnly mem s (Machine.setEvt (intLog t synd kind mem m inj a) Reg.intEvt b) :=
  (h.next (readOnly_intLog synd kind mem m inj a)).evt b

theorem readOnly_trackAdd (m a : Nat) (st : TrackSt) : ReadOnly mem s (trackAdd s m a st) := by
  unfold trackAdd
  simp only
  split
  · exact readOnly_intg _
  · split
    · exact Only.refl _ _ s
    · exact Only.satBump ((readOnly_intg _).next (readOnly_rcEvent _ _ _ _)) _ _ _ (by simp [readRegs])

theorem readOnly_trackSet (m a : Nat) (st : TrackSt) (c : Nat) : ReadOnly mem s (trackSet s m a st c) := readOnly_intg _

theorem readOnly_trackFree (m a : Nat) : ReadOnly mem s (trackFree s m a) := readOnly_intg _

theorem readOnly_sticky (a m : Nat) (inj : Bool) (synd : Nat) : ReadOnly mem s (sticky s mem a m inj synd) := by
  unfold sticky
  simp only
  have h1 : ReadOnly mem s (intLog (Machine.bump s (Reg.intCnt mem 2) 1) synd 3 mem m inj a) :=
    ReadOnly.next (Only.bump (Only.refl _ _ s) 1 (by simp [readRegs])) (readOnly_intLog _ _ _ _ _ _)
  split
  · refine ReadOnly.evt (ReadOnly.next (ReadOnly.next (ReadOnly.next (h1.next (readOnly_intg _)) (readOnly_trackFree _ _))
      (readOnly_setFlip _ _)) (readOnly_intLog _ _ _ _ _ _)) 7
  · refine ReadOnly.evt (ReadOnly.next ?_ (readOnly_intLog _ _ _ _ _ _)) 8
    split
    · exact h1.next (readOnly_trackSet _ _ _ _)
    · exact h1.next (readOnly_trackAdd _ _ _)

theorem readOnly_bump (k : Nat) (hk : Reg.intCnt mem k ∈ readRegs mem) :
    ReadOnly mem s (Machine.bump s (Reg.intCnt mem k) 1) := Only.bump (Only.refl _ _ s) 1 hk

theorem readOnly_trackCorrected (a m : Nat) (f : Flip) (synd : Nat) :
    ReadOnly mem s (trackCorrected s mem a m f synd) := by
  have h0 : ReadOnly mem s (Machine.bump s (Reg.intCnt mem 0) 1) := readOnly_bump 0 (by simp [readRegs])
  unfold trackCorrected
  simp only
  split
  · exact ((h0.next (readOnly_intLog _ _ _ _ _ _)).evt 0).next (readOnly_trackAdd _ _ _)
  · split
    · split
      · exact h0.next (readOnly_sticky _ _ _ _)
      · exact h0.next (readOnly_trackSet _ _ _ _)
    · exact h0
    · exact h0
    · exact h0

theorem readOnly_trackUncorrectable (a m : Nat) (f : Flip) (synd : Nat) :
    ReadOnly mem s (trackUncorrectable s mem a m f synd) := by
  have h1 : ReadOnly mem s (Machine.bump s (Reg.intCnt mem 1) 1) := readOnly_bump 1 (by simp [readRegs])
  unfold trackUncorrectable
  simp only
  split
  · split
    · exact h1
    · exact (readOnly_intLog_evt h1 _ _ _ _ _ _).next (readOnly_trackSet _ _ _ _)
  · exact (readOnly_intLog_evt h1 _ _ _ _ _ _).next (readOnly_trackAdd _ _ _)

theorem readOnly_trackRead (a m : Nat) (f : Flip) : ReadOnly mem s (trackRead s mem a m f) := by
  unfold trackRead
  split
  · exact Only.refl _ _ s
  · exact readOnly_trackCorrected _ _ _ _
  · exact readOnly_trackUncorrectable _ _ _ _

/-- A master's reads of words of an on-die memory (R423). -/
theorem readOnly_readWords (m : Nat) (ws : List Nat) : ReadOnly mem s (readWords s mem m ws) := by
  refine only_foldl _ (fun t w => ?_) ws s
  show ReadOnly mem t (wordRead t mem w m).1
  cases e : flipAt t mem w with
  | none => simp only [wordRead, e]; exact Only.refl _ _ t
  | some f => simp only [wordRead, e]; exact readOnly_trackRead w m f

/-- A unit's reads of its control state (R425). -/
theorem readOnly_ctrlRead (m : Nat) (ws : List Nat) : ReadOnly mem s (ctrlRead s mem m ws) := by
  unfold ctrlRead
  simp only
  split
  · exact (readOnly_readWords m ws).evt 10
  · exact readOnly_readWords m ws

/-- With no corrupted word the scratchpad's bytes are read as they stand, and the read changes nothing (R412). -/
theorem spmRead_clean {s : State} (h : s.intg.flips = []) (master a n : Nat) :
    spmRead s master a n = (s, memBytes s.spm.mem a n, false) := by
  induction n generalizing a with
  | zero => rfl
  | succ n ih =>
    have h0 : ∀ w, flipAt s 0 w = none := fun w => by simp only [flipAt, h]; rfl
    simp [spmRead, spmReadByte, h0, ih, memBytes_succ]

end Sys2Proof.Machine
end

