-- ==== Sys2Proof/Machine/Pins.lean ====
section
/-!
DEFINITION. The balls as the board sees them (R109, R110, R117, R462, R521, R522): what each group is in each state of the
device.
-/
namespace Sys2Proof.Machine

/-- The ball groups of R522. -/
inductive Ball where
  | transmitter | receiver | mo | xspiClk | xspiCsN | xspiResetN | xspiDq | canTx | spiMiso | irqN
  | trig (n : Fin 8) | ppsOut (n : Fin 2)
  | parkReqN | tdo
  deriving DecidableEq, Repr

/-- What a ball is: high-impedance, electrically idle, terminated with signal detect only, driven low or high, released, or as
its port or link drives it. -/
inductive BallState where
  | highZ | idle | detect | low | high | released | link
  deriving DecidableEq, Repr

/-- The columns of R522. -/
inductive BallPhase where
  | unpowered | reset | park | woken | applied
  deriving DecidableEq, Repr

/-- The column in force; from commit step 7 on the outputs are as in PARK (R492). -/
def ballPhase (s : State) : BallPhase :=
  match s.pwr.st with
  | .off => .unpowered
  | .starting => .reset
  | .park => .park
  | _ => if !s.pwr.reqHigh then .park else if s.img.applied then .applied else .woken

/-- A generator's pin: high-impedance while OE is 0, else the pulse with its polarity (R109, R117). -/
def pulsePin (s : State) (n : Nat) (oe pol : Bool) : BallState :=
  if !oe then .highZ else if (pulseOf s n).high.isSome != pol then .high else .low

/-- A ball after image apply (R522). The flash's transfers take no time, so its lines rest; boundary scan has no command. -/
def ballApplied (s : State) (b : Ball) : BallState :=
  match b with
  | .transmitter => .link
  | .receiver => .link
  | .mo => .link
  | .xspiClk => .low
  | .xspiCsN => .high
  | .xspiResetN => .high
  | .xspiDq => .highZ
  | .canTx => if canInit s then .highZ else if s.can.tx.isSome then .link else .high
  | .spiMiso => .highZ
  | .irqN => if irqLow s then .low else .released
  | .trig n => pulsePin s n (flag s (Reg.milTrigCtrl n) 0) (flag s (Reg.milTrigCtrl n) 2)
  | .ppsOut n => pulsePin s (8 + n) (flag s (Reg.milPpsOut n) 20) (flag s (Reg.milPpsOut n) 22)
  | .parkReqN => .high
  | .tdo => .highZ

/-- A ball between WOKEN and the end of image apply. -/
def ballWoken (s : State) (b : Ball) : BallState :=
  match b with
  | .transmitter => .idle
  | .receiver => .detect
  | .mo => .low
  | .xspiClk => .low
  | .xspiCsN => .high
  | .xspiResetN => if s.img.xspiLow.isSome then .low else .high
  | .irqN => if irqLow s then .low else .released
  | .parkReqN => .high
  | _ => .highZ

/-- A ball while the device is unpowered, in reset or in PARK; `req`: PARK_REQ_N. -/
def ballDown (req : BallState) (b : Ball) : BallState :=
  match b with
  | .transmitter => .idle
  | .irqN => .released
  | .parkReqN => req
  | _ => .highZ

/-- The state of a ball now (R522). -/
def ballState (s : State) (b : Ball) : BallState :=
  match ballPhase s with
  | .unpowered => ballDown .highZ b
  | .reset => ballDown .high b
  | .park => ballDown .low b
  | .woken => ballWoken s b
  | .applied => ballApplied s b

end Sys2Proof.Machine
end

