-- ==== Sys2Proof/Tests/Slice0.lean ====
section
/-!
SUPPORT. The model's own tests. First the small states, built by helpers; then for every obligation with hypotheses one
theorem `witness_<its name>` that shows states and operands meeting all of them together, clause by clause; then ill-formed
commands that the check refuses; last the results the spec's worked examples give.
-/
set_option Elab.async false
set_option maxRecDepth 100000

open Sys2Proof Sys2Proof.Machine

namespace Sys2Proof.Tests


/-- A device in READY, long after its start, with an applied image that declares nothing, the bench core running and both
endpoints up. -/
def calm : State :=
  { State.reset with
    cycle := 10000000000
    pwr := { PwrSt.zero with st := .ready }
    img := { ImgSt.zero with applied := true }
    seq := { SeqSt.zero with running := true }
    pcie := [(0, { Pcie.zero with up := true }), (1, { Pcie.zero with up := true })] }

/-- A tap port in a link state, with two tags in its reserve. -/
def port (state : Nat) : TapPort :=
  { TapPort.off with
    state := state
    reserve := [5, 6]
    granted := 2 }

/-- The next time mark of link `p` is one multiple of 1,000 ns away. -/
def marked (s : State) (p : Nat) : State := markFrom s p
def atPort (x : TapPort) : State := marked (setTap calm 0 x) 0

def wp1 : State := atPort (port 1)
def wp2 : State := atPort (port 2)
def wp3 : State := atPort (port 3)
def wp4 : State := atPort (port 4)
def wp2trained : State := atPort { port 2 with trains := 2 }
def wp2idle : State := atPort { port 2 with trainTurn := false }
def wp3acked : State := atPort { port 3 with
  acked := true
  trainTx := 16
  vspaceRx := 1 }
def wp3again : State := atPort { port 3 with
  acked := true
  trainTx := 17
  vspaceRx := 1
  wasUp := true }
def wp4busy : State := atPort { port 4 with txFreeAt := 10000000001 }
def wp2old : State := atPort { port 2 with lockAt := 10000000000 - 800000 }
def wp4silent : State := atPort { port 4 with
  upAt := 10000000000 - 51200
  lastFc := 5 }
def fullDepths : State := (List.range 8).foldl (fun s k => wr s (Reg.tapCtrl (k + 1)) 0x400001) calm
def grantable : State := wr (atPort { port 4 with vspace := 100 }) (Reg.tapCtrl 0) 0x400001
def fcWaiting : State := atPort { port 4 with toGrant := [5, 6] }
def reserved2 : State := { wp2 with vrd := { VrdSt.zero with taken := [5, 6, 9] } }
def orphaned : State := { calm with vrd := { VrdSt.zero with
  taken := [5, 6]
  orphans := [6] } }
def dscHead : List Byte := 0xD8 :: List.replicate 59 0
def goodDsc : List Byte := dscHead ++ leBytes 4 (crc32c dscHead)
def cap (bs : List Byte) : Captured := ⟨9999999988, bs, ⟨0, 0, 0⟩, false⟩
def wp4good : State := atPort { port 4 with captured := [cap goodDsc] }
def badDsc : List Byte := 0xD8 :: List.replicate 63 1
def wp4bad : State := atPort { port 4 with captured := [cap badDsc] }
def wp4tx : State := atPort { port 4 with txq := [⟨9999999990, 9999999900, 77⟩] }
def wp4data : State := atPort { port 4 with txData := [5, 6] }
def wp4last : State := atPort { port 4 with
  sent := 65535
  txData := [6] }
def errPort (state : Nat) : TapPort := { port state with
  errs := [(3, 0x99)]
  fcSentAt := 9999999999 }
def wp3errs : State := atPort (errPort 3)
def wp4errs : State := { wp3errs with
  taps := (atPort (errPort 4)).taps
  mil := { wp3errs.mil with dly := [(0, { Dly.zero with
    seq := 1
    sentAt := 9999999999 })] } }
def wp4header : State := atPort { port 4 with
  lockAt := 10000000000
  hdrBad := 15 }
def wp4full : State := atPort { port 4 with captured := [cap goodDsc, cap badDsc] }

/-- A descriptor in flight on tag `tag`, accepted 100 cycles ago. -/
def flight (tag : Nat) : Flight :=
  ⟨tag, 3, 2, 2, 9999999900, 4096, 0, false, 9999999950, false, none, ⟨1, 2, 3⟩, List.replicate 64 0, 0, [], [], 0xFFFFFFFFFFFFFFFF, [], 0, none, 0⟩
def withFlights (l : List Flight) : State := { calm with vrd := { VrdSt.zero with
  taken := [7, 9]
  flights := l } }
def toSelect : State := wr (withFlights [{ flight 9 with acc := 9999999901 }, flight 7]) Reg.cblSelDef 0x85
def noDefault : State := withFlights [flight 7]
def selFull : State := { withFlights [flight 7] with cbl := { CblSt.zero with
  selCycle := 10000000000
  selCount := 4 } }
def selected7 : Flight := { flight 7 with selected := true }
def toCobble : State := { withFlights [selected7] with cbl := { CblSt.zero with freeAt := [(0, 10000000005)] } }
def req (slot : Bool) (p : Purpose) (grans : List Gran) : Req := ⟨4, 2, slot, p, 9999999990, true, false, false, grans⟩
def withReqs (l : List Req) : State := { calm with
  rgl := { RglSt.zero with reqs := l }
  drc := { DrcSt.zero with
    clearDone := true
    trained := true } }
def slotReq : Req := req true (.slotSearch (.desc 7 3 1) 2 5 none) []
def slotAsked : State := withReqs [slotReq]
def readReq : Req := req false (.scrub 77) [Gran.rd 77]
def readAsked : State := withReqs [readReq]
def writeReq : Req := req false (.scrubBack 77) [Gran.wr 77 [(3, 9)]]
def writeAsked : State := withReqs [writeReq]
def readFl : ReadFl := ⟨10000000000, 6, 4, 77, List.replicate 64 1, false, []⟩
def readBack : State := { calm with drc := { DrcSt.zero with
  reads := [{ readFl with
    due := 10000000001
    rid := 5 }, readFl]
  rounds := [⟨4, 20, .scrub 77, 1, [], [6]⟩] } }
def writeFl (a : Option Nat) (waits : List Nat) : WriteFl := ⟨8, 4, 20, .scrubBack 77, Gran.wr 77 [(3, 9)], a, waits, [], true⟩
def ackBack : State := { calm with drc := { DrcSt.zero with writes := [writeFl (some 10000000000) []] } }
def heldBack : State := { calm with drc := { DrcSt.zero with
  writes := [writeFl none [1, 2]]
  openReads := [(3, 77)] } }
def windowOver : State := { calm with rgl := { RglSt.zero with
  budgetOn := true
  coverS := [(1, 50)]
  coverG := [(2, 60)] } }
def missing : State := withReqs [slotReq, { slotReq with
  id := 5
  under := false }]
def trained : State := { calm with drc := { DrcSt.zero with trained := true } }
def hot : State := { calm with drc := { DrcSt.zero with double := true } }
def ternAns (e : Nat) : PendAns := ⟨9999999999, .desc 7 e 1, true, Ans.miss⟩
def srch : Srch := ⟨2, none, false, 5⟩
def asked7 : Flight := { flight 7 with
  selected := true
  started := some 9999999950
  searches := [srch, srch] }
def answered (e : Nat) : State := { withFlights [asked7] with vrd := { (withFlights [asked7]).vrd with answers := [ternAns e] } }
def answeredNow : State := answered 3
def answeredLate : State := answered 2
def done7 : Flight := { flight 7 with
  selected := true
  started := some 9999999950
  keysDone := 9999999990 }
def toCompose : State := withFlights [done7]
def due7 : Flight := { flight 7 with
  selected := true
  deadline := 100 }
def toRelease : State := withFlights [due7]
def ledgerBad (v : Nat) : State := wr calm Reg.topLedgerStat v
def ledgerBad85 : State := ledgerBad 0x85

def inPower (st : PwrState) : State := { calm with pwr := { calm.pwr with st := st } }
def off : State := inPower .off
def parkedPwr : PwrSt := { calm.pwr with
  st := .park
  reqHigh := false
  dwellOver := false
  lowAt := 5 }
def parked : State := { calm with pwr := parkedPwr }
def parkedLong : State := wr parked Reg.milAonCnt 38
def parkedDwelt : State := { calm with pwr := { parkedPwr with dwellOver := true } }
def parkedWoken : State := wr { calm with pwr := { parkedPwr with wake := true } } Reg.milAonCnt 39
def parkingLow : State := { calm with pwr := { parkedPwr with st := .parking } }
def starting (causes : List Nat) : State := { calm with
  pwr := { calm.pwr with
    st := .starting
    causes := causes }
  lcs := { LcsSt.zero with pend := some 2 } }
def starting1 : State := starting [1]
def starting2 : State := starting [2, 4]
def starting0 : State := { calm with pwr := { calm.pwr with
  st := .woken
  warmStart := true } }
def clearing : State := { calm with drc := { DrcSt.zero with
  clearFrom := some 9
  mem := [(4, 5)] } }
def almostReady : State := { calm with
  pwr := { calm.pwr with st := .staged }
  drc := { DrcSt.zero with clearDone := true } }
def writing : State := { calm with nvc := { NvcSt.zero with ops := [⟨2, 0x220000, [1, 2], 32, 10000000000 - 6400⟩] } }
def staged : State := inPower .staged
def parking : State := { calm with pwr := { calm.pwr with
  st := .parking
  prev := .staged } }
def parkingHeld : State := wr parking Reg.pwrHold 1
def waking : State := wr (wr parked (Reg.pwrWakeCfg 0) 1) Reg.pwrWakeCan 1
def alarmed : State := wr parkedDwelt Reg.pwrAlarm (2 ^ 48)
def recording : State := wr calm Reg.nvcCkptCtrl 1
def recorded : State := { recording with mil := { MilSt.zero with road := 1000000000 * roadUnit } }
def dirtyRecord : State := { calm with intg := { IntSt.zero with recordDirty := true } }
def sealed : State := wr (wr calm Reg.nvcAccAddr 0x23FFF8) Reg.seqCtrl 1
def userArea : State := wr calm Reg.nvcAccAddr 0x240000
def otherArea : State := wr calm Reg.nvcAccAddr 0x220000
def accessing (write : Bool) : State := { calm with nvc := { NvcSt.zero with
  mem := [(0x240003, 9), (0x240010, 1)]
  acc := [⟨true, write, 0x240000, 77⟩, ⟨true, true, 0x240008, 5⟩]
  accAt := 10000000000 - (if write then 200 else 16) } }
def accessRead : State := accessing false
def accessWrite : State := accessing true
def fuses (st : Nat) : State := { calm with lcs := { LcsSt.zero with
  lcState := st
  secVer := 3
  keys := [⟨true, false, [], false⟩, KeySlot.zero, ⟨true, false, [], false⟩, KeySlot.zero] } }
def blank : State := fuses 0
def develop : State := fuses 1
def fusing (op left arg : Nat) : State := { develop with lcs := { develop.lcs with op := some ⟨op, 1, arg, [], false, left, 10000000000 - 800000⟩ } }
def fusing8 : State := fusing 1 8 0
def fusingVer : State := fusing 3 1 64
def fusingProduce : State := fusing 5 1 0
def guarded : State := wr (wr calm (Reg.lcsTamperCfg 0) 1) (Reg.lcsTamperCfg 1) 1
def wiping : State := { calm with
  nvc := { NvcSt.zero with
    wipeAt := some (10000000000 - 1640000)
    mem := [(0x22FFFF, 1), (0x230000, 2), (0x23FFFF, 3), (0x240000, 4)] }
  spm := { SpmSt.zero with mem := [(5, 5), (0x78000, 6), (0x7FFFF, 7)] } }
def wipeStep : State := { wiping with nvc := { wiping.nvc with wipeAt := some (10000000000 - 4096) } }
def iltHead : List Byte := leBytes 4 0x544C4953 ++ leBytes 4 7 ++ leBytes 4 0x2000 ++ leBytes 4 4096 ++ List.replicate 44 0
def ilt : List Byte := iltHead ++ leBytes 4 (crc32c iltHead)
def woken : State := inPower .woken
def wokenFailed : State := wr woken Reg.imgStat (2 ^ 30)
def dimPwr : PwrSt := { parkedPwr with
  st := .starting
  pgood := false }
def startingDim : State := wr (wr { calm with pwr := dimPwr } (Reg.pwrWakeCfg 0) 1) Reg.pwrWakeCan 1
def bringUp (x : ImgSt) : State := { woken with img := x }
def fresh : State := bringUp ImgSt.zero
def fetching0 : State := bringUp { ImgSt.zero with phase := .fetching }
def fetching1 : State := bringUp { ImgSt.zero with
  phase := .fetching
  copy := 1
  last := true }
def stagedImage : State := bringUp { ImgSt.zero with
  phase := .admitted
  staged := List.replicate 64 0 }
def polling : State := { calm with img := { calm.img with poll := some 6800000000 } }
def pollingAgain : State := { polling with img := { polling.img with pollAt := 10000000000 - 8000 } }

/-- A token for RETURN over nonce 5, with a signature that verifies. -/
def tokenSig : Nat := 0x7bc9eb12ab3a4a6b069f6a4078c1737790f162161ebbcc50eacedfde0e241403
def token : List Byte :=
  leBytes 32 0x9f8cf4c9b87d71aea76ed9fb8abea29aeab98be2d40b439b5cec8046a74547e6 ++
  leBytes 32 0xb39eaac64477d61af79b29d17b76897748f43cd908fe33e9211a352d176cbdb8 ++ leBytes 32 tokenSig ++ leBytes 32 tokenSig
def returning : State := { calm with
  spm := { SpmSt.zero with mem := (List.range 128).zip token }
  lcs := { LcsSt.zero with
    lcState := 2
    nonce := 5
    keys := [KeySlot.zero, ⟨true, false, beBytes 32 0x583f61ab18a321bde1b6eed192b1c2f6854ce9414d598c40aa4a49378ed4a8c7, false⟩] } }
/-- An image of four sections, 4096 bytes with its trailer, with a signature that verifies. -/
def classWord : List Byte := [0xE8, 3] ++ List.replicate 14 0
def imageHead : List Byte :=
  [83, 76, 86, 73, 1, 0, 50, 128, 160, 0, 0, 15, 0, 16, 0, 0, 4, 0, 0, 0, 0, 0, 0, 0, 6] ++ List.replicate 35 0 ++
  [135, 119, 110, 18, 1, 0, 0, 0, 128, 0, 0, 0, 16, 0, 0, 0, 20, 151, 124, 176, 2, 0, 0, 0, 144, 0, 0, 0, 0, 2, 0, 0,
   221, 94, 154, 161, 3, 0, 0, 0, 144, 2, 0, 0, 192, 0, 0, 0, 185, 221, 49, 227, 11, 0, 0, 0, 80, 3, 0, 0, 16, 1, 0, 0,
   238, 195, 151, 18, 1] ++ List.replicate 15 0
def imageBody : List Byte :=
  [1, 0, 16] ++ List.replicate 509 0 ++ [64, 6, 0, 0, 160, 5] ++ List.replicate 18 0 ++ classWord ++ classWord ++ classWord ++
  classWord ++ classWord ++ classWord ++ classWord ++ [0xE8, 3] ++ List.replicate 54 0 ++ [16] ++ List.replicate 255 0 ++
  [19, 0, 0, 0, 19, 0, 0, 0, 19, 0, 0, 0, 19] ++ List.replicate 2851 0
def imageSig : Nat := 0x4491c60dcc058de0c3ed46b1d66b39b1f5897ff887c9831e3fe5ebaca63f8f5d
def image : List Byte :=
  imageHead ++ imageBody ++ leBytes 32 0xb96320f2a26cc7e7614aa8bb59db3719792a09ce5a611916ddcf05a2643f3d1 ++
  leBytes 32 0x8a2fb8a2cfa1d74cf656518bc7bed438a314576b4d85fa7396feb69760ae9d2b ++ leBytes 32 imageSig ++ leBytes 32 imageSig
def fetchingGood : State := bringUp { ImgSt.zero with
  phase := .fetching
  ilt := ilt }

/-- The same image in the scratchpad, at IMG_HOST_ADDR. -/
def hosting : State := { fresh with spm := { SpmSt.zero with mem := memPuts [] 0 image } }

def timed (x : MilSt) : State := { calm with mil := { MilSt.zero with
  road := 5000000000 * roadUnit + 12345
  valid := x.valid
  state := x.state
  src := x.src
  rem := x.rem
  step := x.step
  freq := x.freq
  rate := x.rate
  marks := x.marks
  watch := x.watch
  pulse := x.pulse
  dly := x.dly } }
def clock : State := timed { MilSt.zero with valid := true }
def clockOn : State := wr clock Reg.cblProfEn 1
def inWelt (s : State) : State := { s with img := { s.img with weltPos := 2 } }
def clockSlave : State := inWelt clock
def stepping (a : Int) (b : Nat) : State := timed { MilSt.zero with
  valid := true
  step := some (a, b) }
def stepLater : State := stepping 7 5000000001
def stepNow : State := stepping 7 5000000000
def stepBack : State := stepping (-7) 5000000000
def stepBackOn : State := wr stepBack Reg.cblProfEn 1
def slewing : State := timed { MilSt.zero with rem := 5 }
def locked4 : State := wr (timed { MilSt.zero with
  state := 2
  src := 4
  freq := 8 }) Reg.milCtrl 4
def locked2 (rest : SrcWatch) : State := timed { MilSt.zero with
  state := 2
  src := 2
  freq := -8
  valid := true
  watch := [(2, rest)] }
def quiet : SrcWatch := SrcWatch.zero
def lostNoBackup : State := wr (locked2 quiet) Reg.milCtrl 2
def lostBackup : State := wr (locked2 quiet) Reg.milCtrl 0x42
def lostBackup3 : State := wr (locked2 quiet) Reg.milCtrl 0x31
def acquiring4 : State := wr (timed { MilSt.zero with
  state := 1
  src := 4 }) Reg.milCtrl 4
def edgeAt (ns : Nat) : SrcWatch := { SrcWatch.zero with
  prev := some (ns * 256)
  lastOk := some 9000000000 }
def ppsBad : State := locked2 (edgeAt 4999000000)
def ppsGood : State := wr (wr (locked2 { edgeAt 4000000000 with
  todSeen := 5 }) Reg.milTodNext 4999999990) Reg.milServo 0x00240101
def refd (w : SrcWatch) : State := timed { MilSt.zero with
  state := 1
  src := 1
  watch := [(1, w)] }
def refFirst : State := refd quiet
def refNext : State := refd { quiet with prev := some 9999200000 }
def pulsing (n : Nat) (x : Pulse) : State := timed { MilSt.zero with
  valid := true
  pulse := [(n, x)] }
def armed : Pulse := { Pulse.off with
  on := true
  period := 1000
  width := 100
  next := some 5000000000 }
def raised : Pulse := { armed with
  high := some (4999999900, 9999999800, false)
  fallNs := 5000000000 }
def armed7 : State := pulsing 7 armed
def armed7s : State := wr armed7 (Reg.milTrigPeriod 7) 1000
def armed9 : State := pulsing 9 armed
def raised7 : State := pulsing 7 raised
def raised9 : State := pulsing 9 raised
def trigSet : State := wr (wr clock (Reg.milTrigPeriod 3) 1000) (Reg.milTrigWidth 3) 992
def trigUnset : State := wr clock (Reg.milTrigPeriod 3) 999
def onPort (d : Dly) (p : Nat) : State := { timed { MilSt.zero with
  valid := true
  dly := [(p, d)] } with
  taps := [(p, { port 4 with fcSentAt := 9999999999 })]
  wlt := { WltSt.zero with ports := [(0, { WPort.off with state := 4 })] } }
def onMarked (d : Dly) (p : Nat) : State := marked (onPort d p) p
def fastPeriod (s : State) : State := wr s Reg.milDlyCtrl 0
def dreqFirst : State := onMarked Dly.zero 31
def markNow : State := onPort Dly.zero 31
def dreqAgain : State := fastPeriod (onMarked { Dly.zero with
  seq := 9
  sentAt := 9999900000 } 5)
def asked : Dly := { Dly.zero with
  seq := 1
  t1 := some (1280000000000 - 51200, 9999920000)
  all := [100, 90]
  good := [100, 90] }
def drspGood : State := onPort asked 5
def drspLate : State := onPort { asked with t1 := some (7, 9999919999) } 5
def drspCounted : State := onPort { asked with
  counted := true
  t1 := some (7, 9999919999) } 5
def dlyLost : State := fastPeriod (onPort { asked with
  valid := true
  lastGood := 9998400000 } 33)
def slaveMark (n : Nat) : State := { inWelt (timed { MilSt.zero with
  state := 1
  src := 5
  marks := n }) with wlt := { WltSt.zero with ports := [(0, { WPort.off with state := 4 })] } }
def slave3 : State := slaveMark 3
def slave7 : State := slaveMark 7
def calibrating : State := timed { MilSt.zero with state := 2 }

def withProgram (s : State) : State := wr (wr s (Reg.cblProgLen 0) 1) (Reg.cblProg 0 0) 0x1000403F
def staging : State := { withProgram calm with
  cbl := { CblSt.zero with staged := [(Reg.cblProf 63 0, some (63 * 2 ^ 24 + 48)), (Reg.cblProf 63 1, some 0xFFFFFFFF)] }
  vrd := { VrdSt.zero with
    taken := [7, 9]
    flights := [flight 7, { flight 9 with selected := true }] } }
def lockedDown (s : State) : State := wr s Reg.imgLock 1
def stagingLocked : State := lockedDown staging
def calmLocked : State := lockedDown calm
def records : State := { clock with cbl := { CblSt.zero with hasRec := [(1, true), (63, true)] } }
def recordsBack : State := { stepBack with
  cbl := { CblSt.zero with hasRec := [(1, true), (63, true)] }
  mil := { stepBack.mil with step := some (-7, 5000003000) } }
def recordsSoon : State := { recordsBack with mil := { stepBack.mil with step := some (-7, 5000001000) } }
def tolled : State := wr { calm with tol := [(9, ⟨1, 2, true, 3, 4, 5, 6, 7 + 2 ^ 40, 8, 9⟩)] } Reg.tolIdx 9
def tollBad : State := wr (wr tolled (Reg.tolData 2) (2 ^ 31)) (Reg.tolData 0) 1
def tollTwo : State := wr (wr tolled (Reg.tolData 2) (2 ^ 31 + 4)) (Reg.tolData 3) 4
def tollBusy : State := wr tolled Reg.tolCmd (2 ^ 31)
def tollDone : State := { tolled with vrd := { VrdSt.zero with ports := [(Reg.tolCmd, (10000000000, [1, 2, 3]))] } }
def freshDone : State := { calm with vrd := { VrdSt.zero with ports := [(Reg.vrdFreshCmd, (9999999999, [4, 5]))] } }
def first (s : State) : State := accessesFirst (portCount s .pcie0)
def freshed : State := wr { calm with vrd := { VrdSt.zero with fresh := [(65535, (5, 6))] } } Reg.vrdFreshIdx 65535

/-- 64 requests of a master wait: the regulator holds it (R354). -/
def holding (m : Nat) : State := withReqs (List.replicate 64 { req false (.wipe 0) [Gran.rd 0] with master := m })

/-- An ordinary ternary table of one block, entries of two rows; a window table beside it. -/
def tern (kind : Nat) (width : Nat) (first : Nat) : TblDecl := ⟨kind, true, false, false, false, width, 0, 1, first, 0, 0, 0, 0, 0, []⟩
def ternT : TblDecl := tern 0 1 3
def winT : TblDecl := tern 1 1 4
def row (d m : BitVec 80) (v : Bool) : TRow := ⟨d, m, v⟩
def arrays : State := { calm with
  img := { calm.img with tables := [(2, some ternT), (3, some winT)] }
  tca := { TcaSt.zero with
    rows := [(24578, row 5 0xFF true), (24579, row 1 1 false), (32768, row (0x30000000000000000 + 10) (0x30000000000000000) true), (32769, row 20 0 false)]
    result := [(24578, 99)]
    gen := [(2, 7)] } }
def tcmd (op table flags arg0 arg1 addr : Nat) (input : Option (List Byte)) : TCmd :=
  ⟨1, 0, 0, op, table, flags, 77, arg0, arg1, addr, input.map some, false, false⟩
def withCmd (s : State) (c : TCmd) : State := { s with
  rgl := { s.rgl with nextId := 11 }
  tcr := { TcrSt.zero with
    nextId := 2
    cmds := [c] } }
def genH (g h : Nat) : Nat := g * 2 ^ 48 + h
def spmAt (o : Nat) : Nat := 2 ^ 63 + o
def key20 : List Byte := [5, 0, 0, 0, 0, 0, 0, 0, 0, 0, 1] ++ List.replicate 9 0
def searchC : TCmd := tcmd 1 2 0 0 0 (spmAt 64) (some key20)
def searchT : State := withCmd arrays searchC
def searchBadC : TCmd := { searchC with ue := true }
def searchBad : State := withCmd arrays searchBadC
def readC : TCmd := tcmd 0x11 2 0 (genH 7 24578) 0 4096 none
def readT : State := withCmd arrays readC
def movedC : TCmd := tcmd 0x11 2 0 (genH 6 24576) 0 4096 none
def movedT : State := { withCmd arrays movedC with tca := { arrays.tca with log := [⟨2, 7, 24576, 24578⟩] } }
def nextC : TCmd := tcmd 2 2 1 0 0 4096 none
def nextT : State := withCmd arrays nextC
def nextC2 : TCmd := tcmd 2 2 0 (genH 7 24576) 0 4096 none
def nextT2 : State := withCmd arrays nextC2
def endC : TCmd := tcmd 2 2 0 (genH 7 24578) 0 4096 none
def endT : State := withCmd arrays endC
def inLane (s : State) (c : TCmd) (ready : Nat) : State := { s with tca := { s.tca with rop := some ⟨1, 2, 2, ready, [], 0, c.handle, false, []⟩ } }
def finding : State := inLane nextT nextC 10000000001
def found : State := inLane nextT nextC 10000000000
def found2 : State := inLane nextT2 nextC2 9999999999
def ended : State := inLane endT endC 10000000000
def rowImg (a b : Byte) : List Byte := List.replicate 16 a ++ (List.replicate 10 b ++ List.replicate 14 0) ++ (List.replicate 10 b ++ List.replicate 14 0)
def img2 : List Byte := List.replicate 8 9 ++ [3, 0] ++ List.replicate 6 0 ++ (List.replicate 10 7 ++ List.replicate 10 255 ++ List.replicate 4 0) ++ (List.replicate 10 8 ++ List.replicate 10 255 ++ List.replicate 4 0)
def insertC : TCmd := tcmd 3 2 0 0 0 4096 (some img2)
def insertT : State := withCmd arrays insertC
def fullT : State := wr insertT Reg.intTcaRetire 8
def writeC : TCmd := tcmd 0x10 2 0 (genH 7 24580) 0 4096 (some img2)
def writeT : State := withCmd arrays writeC
def writeC2 : TCmd := tcmd 0x10 2 0 (genH 7 24578) 0 4096 (some img2)
def writeT2 : State := withCmd arrays writeC2
def deleteC : TCmd := tcmd 4 2 0 (genH 7 24578) 0 0 none
def deleteT : State := withCmd arrays deleteC
def deleteC2 : TCmd := tcmd 4 2 0 (genH 7 24580) 0 0 none
def deleteT2 : State := withCmd arrays deleteC2
def moveC : TCmd := tcmd 5 2 2 (genH 7 24578) 24590 0 none
def moveT : State := withCmd arrays moveC
def updateC : TCmd := tcmd 0x12 2 0 (genH 7 24578) 0 8 (some (List.replicate 8 3))
def updateT : State := withCmd arrays updateC
def updating (ready : Nat) : State := { updateT with tca := { updateT.tca with wop := some ⟨1, 0x12, 2, ready, [], 0, 24578, false, []⟩ } }
def wipeC : TCmd := tcmd 0x13 3 0 0 0 0 none
def wipeT : State := withCmd arrays wipeC
def rowReq : Req := ⟨4, 34, true, .row false, 9999999990, false, false, false, []⟩
def rowOpW : TcaOp := ⟨1, 3, 2, 9999999990, [.write 24589 (row 8 255 false) none, .write 24588 (row 7 255 true) (some (9, 3))], 0, 24588, false, []⟩
def rowT : State := { insertT with
  tca := { arrays.tca with
    wop := some rowOpW
    windowAt := 12500000
    windowUsed := 5 }
  rgl := { insertT.rgl with reqs := [rowReq] } }
def rowT1 : State := { rowT with tca := { rowT.tca with level := 1 } }
def level1 : State := { calm with tca := { TcaSt.zero with level := 1 } }
def level3 : State := { calm with tca := { TcaSt.zero with level := 3 } }
def ringOn : State := wr (wr calm (Reg.hstTcrCtrl 3) 0x14) (Reg.hstTcrHead 3) 5
def ringSet : State := wr (wr calm (Reg.hstTcrBase 1) 0x4000) (Reg.hstTcrCtrl 1) 0x4
def ringHead : State := wr (wr (wr ringSet (Reg.hstTcrCtrl 1) 0x14) (Reg.hstTcrTail 1) 5) (Reg.hstTcrHead 1) 2
def ringHeadSpm : State := wr ringHead (Reg.hstTcrBase 1) (2 ^ 63 + 4096)
def compl : Compl := ⟨0, 3, 77, 1, true, 0, false, false, false, false, 5, 7, 0, 9, true⟩
def complT : State := { ringSet with tcr := { TcrSt.zero with compl := [compl] } }
def complSpm : State := { wr ringSet (Reg.hstTcrCbase 0) (2 ^ 63 + 64) with tcr := { TcrSt.zero with compl := [compl] } }
def sigOn : State := wr (wr arrays Reg.tcaCtrl 0x01000001) Reg.tcaSigSize 4
def sigAgain : State := { sigOn with tca := { sigOn.tca with lapStart := some (10000000000 - 800000) } }
def sigEarly : State := { sigOn with tca := { sigOn.tca with lapStart := some (10000000000 - 799999) } }
def sigReading (dirty : Bool) : State := { sigOn with tca := { sigOn.tca with
  sigRegion := some 6
  sigRows := 4096
  sigRead := some (4999999000, 0xABCD)
  sigDirty := dirty } }
def sigClean : State := sigReading false
def sigDirty : State := sigReading true
def sigRowsAt (n : Nat) (level : Nat) : State := { sigOn with tca := { sigOn.tca with
  sigRegion := some 6
  sigRows := n
  level := level } }
def sigGoes : State := sigRowsAt 5 0
def sigLast : State := sigRowsAt 4095 0
def sigRests : State := sigRowsAt 5 3
def sigWaiting : State := wr { sigOn with tca := { sigOn.tca with sigWait := [(6, 5, false, false, 3)] } } Reg.tcaSigBase 4096
def sigStop : State := { sigOn with tca := { sigOn.tca with level := 3 } }
def sigIdle : State := sigOn
def rebuildSet : State := wr calm Reg.tcaRebuildTotal 5
def rebuilding : State := wr rebuildSet Reg.tcaRebuildProg (2 ^ 46)

/-- An exact-match table of 1024 granules, and a prefix table with lengths 8 and 24. -/
def hashT : TblDecl := ⟨2, false, false, true, true, 0, 0, 0, 0, 0x100000, 1024, 64, 0, 1000, []⟩
def prefT : TblDecl := ⟨5, false, false, true, false, 0, 0, 0, 0, 0x200000, 4096, 32, 16, 1000, [24, 8]⟩
def drams : State := { calm with
  img := { calm.img with tables := [(5, some hashT), (6, some prefT)] }
  hsh := { HshSt.zero with gen := [(5, 7)] } }
def hashOf (op arg0 : Nat) (input : Option (List Byte)) : TCmd := tcmd op 5 0 arg0 0 4096 input
def prefOf (op arg0 : Nat) (input : Option (List Byte)) : TCmd := tcmd op 6 0 arg0 0 4096 input
def hSearch : TCmd := hashOf 1 0 (some (List.replicate 8 9))
def hSearchS : State := withCmd drams hSearch
def hSearchFull : State := { hSearchS with hsh := { hSearchS.hsh with
  keyCycle := 10000000000
  keyCount := 4 } }
def pSearch : TCmd := prefOf 1 0 (some (List.replicate 4 9))
def pSearchS : State := withCmd drams pSearch
def zeroImg (d : TblDecl) : List Byte := List.replicate (imageLen d) 0
def hInsert : TCmd := hashOf 3 0 (some (zeroImg hashT))
def hInsertS : State := withCmd drams hInsert
def pImg : List Byte := 1 :: (zeroImg prefT).drop 1
def pInsert2 : TCmd := prefOf 3 0 (some pImg)
def pInsertS : State := withCmd drams pInsert2
def hBusyOp : HashOp := newHop drams hInsert 0 .read0 [] 0 [(candidates drams 5 hashT 0 0).1 + 0x100000]
def hInsertB : State := { hInsertS with hsh := { drams.hsh with ops := [hBusyOp] } }
def hRead : TCmd := hashOf 0x11 (genH 7 17) none
def hReadS : State := withCmd drams hRead
def pRead : TCmd := prefOf 0x11 (2 ^ 29 + 17) none
def pReadS : State := withCmd drams pRead
def hDelete : TCmd := hashOf 4 (genH 7 17) none
def hDeleteS : State := withCmd drams hDelete
def hUpdate : TCmd := hashOf 0x12 (genH 7 17) (some (zeroImg hashT))
def hUpdateS : State := withCmd drams hUpdate
def hMoved : TCmd := hashOf 4 (genH 6 17) none
def hMovedS : State := { withCmd drams hMoved with hsh := { drams.hsh with log := [⟨5, 7, 17, 21⟩] } }
def hInsertW : State := { hInsertS with hsh := { drams.hsh with wiping := [(5, true)] } }
def hNext : TCmd := tcmd 2 5 1 0 0 4096 none
def hNextS : State := withCmd drams hNext
def pNext : TCmd := tcmd 2 6 0 (2 ^ 29 + 17) 0 4096 none
def pNextS : State := withCmd drams pNext
def hWipe : TCmd := hashOf 0x13 0 none
def hWipeS : State := { withCmd drams hWipe with hsh := { drams.hsh with
  filter := [(6 * 2 ^ 24 + 5, true)]
  stash := [(5 * 64 + 3, some ⟨0, [1]⟩), (6 * 64 + 1, some ⟨0, [1]⟩)]
  entries := [(80, 4)] } }
def pWipe : TCmd := prefOf 0x13 0 none
def pWipeS : State := withCmd drams pWipe
def hFlush : TCmd := hashOf 6 31 none
def hFlushS : State := withCmd drams hFlush
def hFlushB : State := { hFlushS with age := { AgeSt.zero with flush := some ⟨9, 5, 3, 34, 0, 0, 0, false⟩ } }
def share : State := wr { drams with hsh := { drams.hsh with entries := [(80, 4)] } } Reg.hshPfxSel 0x61
def shareBusy : State := wr share Reg.hshPfxSel 0x50

/-- Stream 3 owns pages 4 and 9; page 9 is open with 10 records placed. -/
def str3 : Stream := { Stream.zero with
  head := 4
  openPage := 9
  owned := 2
  ageMs := 1
  placed := 10 }
def ways (x : Stream) : State := wr { calm with
  mil := { MilSt.zero with road := 9000000000 * roadUnit }
  way := { WaySt.zero with
    streams := [(3, x)]
    pages := [(4, ⟨1000, 500, 512, true, 3, 9, 6, 1⟩), (9, ⟨5000, 700, 10, true, 3, 0, 8, 2⟩)]
    settleS := 100 } } Reg.wayMap (20 * 2 ^ 32 + 0x300000)
def way3 : State := ways str3
def insertOf (ns : Nat) : Insert := ⟨3, 7, 9999999900, ⟨ns, 32, 5⟩, 1, 64, 0, 0, 9, 40⟩
def settling : State := { way3 with way := { way3.way with settle := [insertOf 6100, insertOf 6000] } }
def settling0 : State := { ways { str3 with placed := 0 } with way := { (ways { str3 with placed := 0 }).way with settle := [insertOf 6000] } }
def rec_ (i since : Nat) : OpenRec := ⟨3, 9, i, since, 100, List.replicate 28 (BitVec.ofNat 8 i), false, i, false⟩
def grouped : State := { way3 with way := { way3.way with recs := (List.range 9).map (fun i => rec_ i 9999999999) } }
def groupedBad : State := { grouped with intg := { IntSt.zero with flips := [(wordKey 8 (placeWord 5), some ⟨3, true⟩)] } }
def headerDue : State := { ways { str3 with placed := 128 } with way := { (ways { str3 with placed := 128 }).way with
  heldOrder := [36, 37]
  held := [(576, some 5)] } }
def timed9 : State := { way3 with way := { way3.way with recs := [rec_ 8 9999000000] } }
def pressed : State := wr way3 Reg.wayPress 0x00200018
def easy : State := wr way3 Reg.wayPress 0x00020001
def visiting : State := { way3 with way := { way3.way with visit := 3 } }
def visitSoon : State := { visiting with way := { visiting.way with visitAt := 10000000001 } }
def visitLast : State := { way3 with way := { way3.way with visit := 65535 } }
def queryC : TCmd := tcmd 0x20 0 0 3 1600 4096 none
def queryS : State := withCmd way3 queryC
def queryL : TCmd := tcmd 0x20 0 0 3 5701 4096 none
def queryLS : State := withCmd way3 queryL
def lateQ : WayQ := ⟨9, .cmd 1, 3, 5701, 0, 0, 0, 0, 1, 0, 0, 0, 0, 32, false⟩
def lateRes : WayRes := ⟨3, 0, [], false, false⟩
def queryOver : State := { queryLS with way := { queryLS.way with ended := [(10000000000, lateQ, lateRes, false)] } }
def wnextOf (use page index : Nat) : TCmd := tcmd 0x21 0 0 (use * 2 ^ 32 + page * 65536 + index) 0 4096 none
def wnextStale : State := withCmd way3 (wnextOf 7 9 0)
def wnextIn : State := withCmd way3 (wnextOf 8 9 7)
def wnextBad : State := { withCmd way3 (wnextOf 8 9 7) with intg := { IntSt.zero with flips := [(wordKey 6 (3 * 9), some ⟨3, true⟩)] } }
def wnextEnd : State := withCmd way3 (wnextOf 8 9 9)
def flushing : State := { wr (ways { str3 with
  flushing := true
  owned := 0 }) Reg.wayFlushProg (2 ^ 46) with way := { (ways { str3 with
    flushing := true
    owned := 0 }).way with
    flush := some (3, 9999999000, 2)
    pages := [(4, ⟨1000, 500, 512, true, 3, 9, 6, 1⟩)] } }
def flushOpen : State := settling
def quota : State := wr way3 Reg.wayStreamIdx 65535

/-- Tables 5 and 6 age; road time is at 3 s. -/
def aging : State := wr (wr { drams with
  mil := { MilSt.zero with road := 3000000000 * roadUnit + 7 }
  age := { AgeSt.zero with
    tick := [(5, 40)]
    base := [(5, 2990000000)] } } (Reg.ageLimit 5) 64) (Reg.ageLimit 6) 1
def ageOn : State := wr aging Reg.ageCtrl 0x01000001
def ageAgain : State := { ageOn with age := { aging.age with lastStart := some (10000000000 - 800000) } }
def ageEarly : State := { ageOn with age := { aging.age with lastStart := some (10000000000 - 799999) } }
def theLap (start : Nat) : Lap := ⟨start, [5, 6], 6, 0, 0, 1, true⟩
def lapDone : State := { ageOn with age := { aging.age with lap := some (theLap 9999999000) } }
def lapStopped : State := wr { lapDone with age := { lapDone.age with lap := some { theLap 9999999000 with walked := false } } } Reg.ageCtrl 0
def lapLong : State := { ageOn with age := { aging.age with lap := some (theLap 9590399999) } }
def notif (at_ : Nat) : Notif := ⟨at_, 9999999000, 3, 1, 5, 2, 7, 3000000000, 99, 0⟩
def learning : State := wr (wr { drams with lrn := { LrnSt.zero with
  raised := [notif 9999999990, notif 9999999980]
  raisedN := 2
  lost := 6 } } Reg.lrnRate 0) Reg.lrnRingSize 4
def learnFull : State := wr learning Reg.lrnHead 16
def learnDup : State := wr { learning with lrn := { learning.lrn with
  dedup := [(fingerprint 5 hashT 99 % 4096, some (fingerprint 5 hashT 99 / 4096, 2999999001))] } } Reg.lrnDedup 1
def learnBusy : State := { learning with lrn := { learning.lrn with
  checkAt := 10000000000
  checkN := 4 } }
def learnOut : State := { learning with lrn := { learning.lrn with queue := [notif 5, notif 6] } }
def classes : State := wr (wr (wr calm Reg.rglBudget (1440 * 65536 + 1600)) (Reg.rglClass 1) 0x10000500000600) (Reg.rglCeil 7) 0x0000000000200040

/-- A device at a welt position among five, with its two welt ports. -/
def weltAt (pos : Nat) (a b : WPort) : State := { calm with
  img := { calm.img with
    weltPos := pos
    weltCount := 4
    tables := [(2, some ternT), (3, some winT)] }
  tca := arrays.tca
  rgl := { RglSt.zero with nextId := 11 }
  wlt := { WltSt.zero with ports := [(0, a), (1, b)] } }
def wst (n : Nat) : WPort := { WPort.off with
  state := n
  lanes := 15
  nPos := 1
  nCount := 4
  since := 9990000000 }
def up4 : WPort := wst 4
def seeking : State := weltAt 2 { wst 1 with lanes := 7 } up4
def deskewing : State := weltAt 2 up4 (wst 2)
def training3 : WPort := { wst 3 with
  parts := 7
  acked := true
  trainTx := 16
  cntHi := 5 }
def train1 : State := weltAt 2 up4 { wst 3 with parts := 5 }
def train1id : State := wr train1 Reg.imgId (5 * 2 ^ 32)
def ready1 : State := weltAt 2 up4 training3
def ready0 : State := weltAt 2 training3 up4
def upBoth : State := weltAt 2 { up4 with keyq := [⟨2, 1, 0, 0, 2, false, false, 0, 0, 0, 5, none⟩] } up4
def restartOn (s : State) : State := wr s (Reg.wltCtrl 0) 1
def upRestart : State := restartOn upBoth
def downRestart : State := restartOn { weltAt 2 (wst 0) up4 with img := { calm.img with applied := false } }
def recovering : State := weltAt 2 { wst 5 with
  since := 9999992000
  sent := [(0, 130), (1, 3)]
  rcvd := [(0, 5), (1, 3)]
  freed := [(0, 5), (1, 3)] } up4
def bf (typ dst src wsn : Nat) (addr data : Nat) : BFrame := ⟨typ, dst, src, wsn, false, 0, 0, addr, data⟩
def sentOut : WPort := { up4 with
  out := [⟨bf 3 1 2 5 16 7, 0, some 3, 9999900000⟩, ⟨bf 3 1 2 6 16 7, 1, some 4, 9999900000⟩]
  nextSeq := 5
  ackAt := 9999987200 }
def outBusy : State := weltAt 2 sentOut up4
def cascaded : State := wr (weltAt 2 up4 up4) (Reg.wltTbl 2) 0x401
def keyHead (table : Nat) (leg : Nat) : BitVec 64 := BitVec.ofNat 64 (table * 2 ^ 54 + 9 * 2 ^ 44 + leg * 2 ^ 32)
def ansHead (origin : Nat) : BitVec 64 := BitVec.ofNat 64 (9 * 2 ^ 47 + origin * 2 ^ 36 + 2 ^ 32 + 2 ^ 28)
def ansDown : State := weltAt 2 (wst 3) up4
def alone : State := { weltAt 0 (wst 0) up4 with brg := { BrgSt.zero with pollAt := 0 } }
def slaveAt0 (n : Nat) : State := weltAt 0 (wst 0) (wst n)
def master4 : State := slaveAt0 4
def masterDown : State := slaveAt0 3
def rrdBusy : State := wr master4 (Reg.brgRrdStat 0) (2 ^ 30)
def late : BRead := ⟨2, 3, false, 17, 5⟩
def lateReads : State := { master4 with brg := { BrgSt.zero with reads := [{ late with
  since := 9999999999
  wsn := 16 }, late] } }
def polled : State := { master4 with brg := { BrgSt.zero with
  wsn := 9
  reads := [⟨4, 2, true, 8, 9999999000⟩] } }
def reading : State := { weltAt 2 { up4 with expSeq := 0xABC } { up4 with expSeq := 0xABC } with brg := { BrgSt.zero with
  reads := [⟨1, 3, true, 17, 9999999000⟩] } }
def brgHead (typ : Nat) (size : Nat) : BitVec 64 :=
  BitVec.ofNat 64 (typ * 2 ^ 60 + 0xABC * 2 ^ 48 + 2 * 2 ^ 45 + 3 * 2 ^ 42 + 17 * 2 ^ 26 + size * 2 ^ 25)
def eight : List Byte := [1, 2, 3, 4, 5, 6, 7, 8]

def retire3 : Retire := ⟨100, 200, some 9, true⟩
def repairing : State := wr { calm with
  intg := { IntSt.zero with retire := [(3, some ⟨100, 200, some 9, true⟩)] }
  drc := { DrcSt.zero with
    clearDone := true
    mem := [(5 * 4096 + 7, 9), (300 * 4096, 1), (301 * 4096, 2)] } } Reg.intRetireIdx 1023
def repairing3 : State := wr repairing Reg.intRetireIdx 3
def blocks : State := wr arrays Reg.intTcaRetire 1
def producing : State := { calm with lcs := { LcsSt.zero with lcState := 2 } }
def scrubOn (s : State) : State := wr s Reg.intScrubCtrl 0x80000010
def scrubOff : State := wr calm Reg.intScrubCtrl 0
def scrub0 : State := scrubOn calm
def scrubLast : State := scrubOn { calm with intg := { IntSt.zero with
  sramPos := [(0, 65535)]
  sramLast := [(0, 9999999985)] } }
def scrubFlip : State := scrubOn { calm with intg := { IntSt.zero with
  sramPos := [(2 * 256 + 1, 5)]
  sramLast := [(2 * 256 + 1, 9999999985)]
  flips := [(wordKey 2 4101, some ⟨4, true⟩)] } }
def scrubSoon : State := scrubOn { calm with intg := { IntSt.zero with sramLast := [(0, 9999999986)] } }
def marchSet : State := wr (wr calm Reg.intMarchStart 64) Reg.intMarchLen 32
def marchOn : State := wr marchSet Reg.intMarchProg (2 ^ 46)
def marchBlocked : State := { marchSet with img := { calm.img with tables := [(5, some { hashT with base := 90 })] } }
def marching (w : March) : State := { calm with
  intg := { IntSt.zero with
    march := some w
    marchStep := marchTotal w }
  spm := { SpmSt.zero with mem := [(511, 1), (512, 2), (767, 3), (768, 4)] }
  drc := { DrcSt.zero with mem := [(4095, 1), (4096, 2), (6143, 3), (6144, 4)] } }
def march0 : March := ⟨0, 64, 32, false⟩
def march1 : March := ⟨1, 64, 32, false⟩
def march1p : March := ⟨1, 64, 32, true⟩
def march5 : March := ⟨5, 64, 32, true⟩
def marching0 : State := marching march0
def marchHalf : State := { marching0 with intg := { marching0.intg with marchStep := marchTotal march0 - 1 } }
def marching1 : State := marching march1
def marching1p : State := marching march1p
def marching5 : State := marching march5
def acc (kind : SpmKind) (off : Nat) (data : List Byte) : SpmAcc := ⟨4, .benchM, 9999999999, kind, false, off, data.length, data, .outside⟩
def spmWaiting (a : SpmAcc) : State := { calm with spm := { SpmSt.zero with
  mem := [(100, 0xF0), (103, 0x0F)]
  waiting := [{ a with
    q := 18
    off := 8 }, a] } }
def accW : SpmAcc := acc .write 100 [1, 0, 3]
def accS : SpmAcc := acc .set 100 [1, 2, 0, 0xF0]
def accC : SpmAcc := acc .clear 100 [0x10, 2, 0, 1]
def accR : SpmAcc := acc .read 100 [0, 0, 0, 0]
def accV : SpmAcc := acc .write 0x7FFFC [1, 2, 3, 4]
def waitW : State := spmWaiting accW
def waitBuffer : State := { waitW with
  intg := { IntSt.zero with
    march := some ⟨0, 8, 8, true⟩
    marchStep := 40 }
  spm := { waitW.spm with portCycle := 10000000002 } }
def waitS : State := spmWaiting accS
def waitC : State := spmWaiting accC
def waitR : State := spmWaiting accR
def waitV : State := spmWaiting accV

def evts : State := wr calm Reg.lrnEvt 7
def staged5 : State := { calm with stage := [(latchKey .pcie0 Reg.intFlipAddr, some 0x15)] }
def flipAddr : State := wr calm Reg.intFlipAddr 0x712345678
def latched : State := { flipAddr with latch := [(latchKey .benchM Reg.intFlipAddr, some 9)] }
def overflowed : State := wr calm Reg.intLogOvf 12
def overflowedNow : State := rcEvent overflowed Reg.intLogOvf 12 3 (fun _ b => b)
def unready : State := { calm with img := ImgSt.zero }
def endpoint (x : Pcie) : State := wr (wr { calm with pcie := [(0, x), (1, { Pcie.zero with up := true })] } (Reg.hstMsixMap 0 0) 0x85) Reg.topErr 1
def epBase : Pcie := { Pcie.zero with
  up := true
  command := 4
  msixCtl := 0x8000
  pba := 32
  table := [(20, 0x1000), (21, 1), (22, 0x55)] }
def epHeld : Pcie := { Pcie.zero with
  up := true
  bar0 := 0x1234567890000000
  held := [.hostRead 0 3 64 32] }
def epOn : State := endpoint epBase
def epMasked : State := endpoint { epBase with table := [(20, 0x1000), (21, 1), (22, 0x55), (23, 1)] }
def epWait : State := endpoint epHeld
def hostReq : HostReq := ⟨6, 1, 4096, 32, .cmdInput 1, 0⟩
def hostAsked : State := { withCmd arrays (tcmd 3 2 0 0 0 4096 none) with host := [hostReq] }
def hostRecent : State := { hostAsked with host := [{ hostReq with since := 9999990000 }] }

def dmaSet : State := wr calm (Reg.hstDmaCfg 7) 1
def dmaOn (x : DmaCh) (state head tail : Nat) : State := wr (wr (wr (wr (wr { calm with dma := [(5, x)] } (Reg.hstDmaCtrl 5) 0x14)
  (Reg.hstDmaBase 5) 0x10000) (Reg.hstDmaHead 5) head) (Reg.hstDmaTail 5) tail) (Reg.hstDmaStat 5) (state * 2 ^ 30 + 3 * 2 ^ 16)
def dmaIdle : State := dmaOn DmaCh.zero 0 65530 65530
def dmaOpDone : DmaOp := ⟨0, 64, 8, true, true, 8, 8, [], none, 0⟩
def dmaLast : State := dmaOn ⟨false, some dmaOpDone, 3⟩ 1 65535 0
def dmaMore : State := dmaOn ⟨false, some dmaOpDone, 3⟩ 1 65535 1
def dmaSpm : State := wr dmaMore (Reg.hstDmaBase 5) (2 ^ 63 + 4096)
def dmaHalted : State := dmaOn DmaCh.zero 2 7 9
def dmaHaltedLast : State := dmaOn DmaCh.zero 2 7 8
def dmaHaltedSpm : State := wr dmaHalted (Reg.hstDmaBase 5) (2 ^ 63 + 4096)
def dmaBack : SpmAcc := ⟨dmaQ 5, .internal, 9999999990, .write, false, 4096 + 32 * 7 + 28, 4, leBytes 4 (2 ^ 31), .dmaBack 5 3 true⟩
def mkSpi (op w pos v : Nat) : BitVec 64 :=
  let x := op * 2 ^ 62 + w * 2 ^ 43 + pos * 2 ^ 40 + v * 2 ^ 8
  BitVec.ofNat 64 (x + spiCrc x)
def spiHas (p : SpiResp) (refusing : Bool) : State := { calm with spi := ⟨some p, 6, refusing⟩ }
def spiDoneP : SpiResp := ⟨true, false, true, true, 0x1234, 0x55⟩
def spiBusyP : SpiResp := ⟨false, false, false, false, 0x1234, 0⟩
def spiReady : State := spiHas spiDoneP false
def spiBusy : State := spiHas spiBusyP false
def spiRefusing : State := spiHas spiBusyP true
def spiWr : State := wr calm Reg.hstSpiWmask 0x1FFFFFF
def dog : State := wr calm Reg.seqWdog (2 ^ 31 + 100)
def dogLate : State := { dog with seq := { dog.seq with wdogAt := 9999920000 } }
def dogSoon : State := { dog with seq := { dog.seq with wdogAt := 9999920001 } }
def boxed (s : State) (op : Nat) : State := wr s (Reg.seqMboxCmd 2) (2 ^ 31 + op)
def box1 : State := boxed calm 1
def box2 : State := boxed calm 2
def box3 : State := boxed (wr (wr calm (Reg.seqCanm 0) (2 ^ 31 + 2 ^ 29 + 77)) (Reg.seqCanm 1) 78) 3
def box0 : State := boxed calm 0
def boxC : State := boxed (wr calm Reg.imgStat (2 ^ 25)) 9

def canOn (x : CanSt) : State := wr { calm with can := x } Reg.canCtrl 0
def canUp : State := canOn { CanSt.zero with
  joined := true
  tec := 9 }
def canIdle : State := canOn CanSt.zero
def canRx : State := wr (wr (wr (wr canUp (Reg.canObjId 125) (2 ^ 31 + 0x123)) (Reg.canObjMask 125) 0x1FFFFFF0) (Reg.canObjId 126) (2 ^ 31)) (Reg.canObjStat 125) (2 ^ 30)
def canTxObj : State := wr canUp (Reg.canObjId 0) (3 * 2 ^ 30)
def frameIn : CanFrame := ⟨true, 0x12F, false, true, false, false, 9, [1, 2, 3, 4, 5, 6, 7, 8, 9, 10, 11, 12]⟩
def owned : State := wr canUp (Reg.seqCanm 0) (2 ^ 31)
def asking7 : State := wr canUp (Reg.canObjStat 7) (2 ^ 31)
def sending (ab : Bool) (tec : Nat) (ctrl : Nat) : State := wr { asking7 with can := { asking7.can with
  tx := some (7, frameIn, ab)
  tec := tec } } Reg.canCtrl ctrl
def sending0 : State := sending false 0 0
def sending9 : State := sending true 247 0
def sendingOnce : State := sending false 255 (2 ^ 22)
def sendAbort : State := sending false 5 0
def busOff : State := canOn { CanSt.zero with
  joined := true
  busOff := true
  tec := 256 }
def rejoining : State := canOn { CanSt.zero with
  joined := true
  busOff := true
  recovering := true
  recov := 100 }
def mgmt (dlc w0 w1 : Nat) : State := wr (wr (wr (wr (wr calm (Reg.seqCanm 0) (2 ^ 31)) (Reg.canObjStat 126) (2 ^ 30)) (Reg.canObjFmt 126) (2 ^ 28 + dlc)) (Reg.canObjData 126 0) w0) (Reg.canObjData 126 1) w1
def mPing : State := mgmt 4 0x4401 0
def mStatus : State := mgmt 4 0x5502 0
def mTime : State := mgmt 8 3 0
def mReadFar : State := mgmt 8 4 0x20000
def mReadOdd : State := mgmt 8 4 0x10002
def mReadErr : State := wr (mgmt 8 4 Reg.topErr) Reg.topErr 3
def mStay : State := wr (mgmt 6 5 0xFFFF1234) Reg.pwrHoldMs 0x1000
def mPark : State := wr (mgmt 4 0x0106 0) Reg.pwrHoldMs 77
def mParkOn : State := wr mPark Reg.pwrCfg 1
def mShort : State := mgmt 3 1 0
def mOdd : State := mgmt 4 0x10001 0

def gapHead : BitVec 64 := BitVec.ofNat 64 (3 * 2 ^ 60 + 0xABC * 2 ^ 48 + 2 * 2 ^ 45 + 1 * 2 ^ 42 + 17 * 2 ^ 26)
def gapData : List Byte := leBytes 4 0xFFFC ++ [1, 0, 0, 0]
def parkedStep : State := { parked with pwr := { parkedPwr with counting := true } }

/-- States and operands that meet the hypotheses of `Obligations.TapLinkClimbsFromSeekToUp`, one group a case. -/
theorem witness_TapLinkClimbsFromSeekToUp :
    -- clause 1
    (awake wp1 = true ∧ (tap wp1 0).state = 1) ∧
    -- clause 2
    (awake wp2trained = true ∧ ((tap wp2trained 0).state = 2 ∨ (tap wp2trained 0).state = 3)) ∧
    -- clause 2
    (awake wp3 = true ∧ ((tap wp3 0).state = 2 ∨ (tap wp3 0).state = 3)) ∧
    -- clause 3
    (awake wp4 = true ∧ (tap wp4 0).state = 4) ∧
    -- clause 4
    (awake wp2 = true ∧ ((tap wp2 0).state = 2 ∨ (tap wp2 0).state = 3) ∧ (tap wp2 0).txData = [] ∧ (tap wp2 0).txAt
      < 50 * wp2.cycle ∧ (tap wp2 0).trainTurn = true) ∧
    -- clause 4
    (awake wp3acked = true ∧ ((tap wp3acked 0).state = 2 ∨ (tap wp3acked 0).state = 3) ∧ (tap wp3acked 0).txData =
      [] ∧ (tap wp3acked 0).txAt < 50 * wp3acked.cycle ∧ (tap wp3acked 0).trainTurn = true) ∧
    -- clause 4
    (awake wp2idle = true ∧ ((tap wp2idle 0).state = 2 ∨ (tap wp2idle 0).state = 3) ∧ (tap wp2idle 0).txData = [] ∧
      (tap wp2idle 0).txAt < 50 * wp2idle.cycle ∧ (tap wp2idle 0).trainTurn = false ∧ (tap wp2idle 0).idle = false) ∧
    -- clause 5
    (awake wp3acked = true ∧ (tap wp3acked 0).state = 3 ∧ (tap wp3acked 0).acked = true ∧ 16 ≤ (tap wp3acked
      0).trainTx ∧ (tap wp3acked 0).vspaceRx ≠ 0) ∧
    -- clause 5
    (awake wp3again = true ∧ (tap wp3again 0).state = 3 ∧ (tap wp3again 0).acked = true ∧ 16 ≤ (tap wp3again
      0).trainTx ∧ (tap wp3again 0).vspaceRx ≠ 0) := by
  refine ⟨?_, ?_, ?_, ?_, ?_, ?_, ?_, ?_, ?_⟩ <;> decide +kernel

/-- States and operands that meet the hypotheses of `Obligations.TapLinkFallsBackToSeek`, one group a case. -/
theorem witness_TapLinkFallsBackToSeek :
    -- clause 1
    (awake wp2 = true ∧ ((tap wp2 0).state = 2 ∨ (tap wp2 0).state = 3)) ∧
    -- clause 1
    (awake wp3 = true ∧ ((tap wp3 0).state = 2 ∨ (tap wp3 0).state = 3)) ∧
    -- clause 2
    (awake wp4busy = true ∧ (tap wp4busy 0).state = 4) ∧
    -- clause 2
    (awake wp4 = true ∧ (tap wp4 0).state = 4) ∧
    -- clause 3
    (awake wp2old = true ∧ (((tap wp2old 0).state = 2 ∨ (tap wp2old 0).state = 3) ∧ (tap wp2old 0).lockAt + 800000 ≤
      wp2old.cycle)) ∧
    -- clause 4
    (awake wp4silent = true ∧ ((tap wp4silent 0).state = 4 ∧ max (tap wp4silent 0).upAt (tap wp4silent 0).lastFc +
      51200 ≤ wp4silent.cycle)) := by
  refine ⟨?_, ?_, ?_, ?_, ?_, ?_⟩ <;> decide +kernel

/-- States and operands that meet the hypotheses of `Obligations.TapControlWritesTakeEffect`, one group a case. -/
theorem witness_TapControlWritesTakeEffect :
    -- clause 1
    (mayWrite calm Requester.pcie0 (Reg.tapCtrl 0) 4 = true ∧ locked calm = false ∧ bitsOf 4194305 23 16 ≤ 64 ∧
      bitOf 4194305 0 = true ∧ bitOf 4194305 31 = false ∧ (tap calm 0).state = 0 ∧ calm.img.applied = true ∧
      calm.pwr.reqHigh = true ∧ depthSum calm 0 (bitsOf 4194305 23 16) true ≤ 512) ∧
    -- clause 2
    (mayWrite wp4 Requester.benchM (Reg.tapCtrl 0) 4 = true ∧ locked wp4 = false ∧ bitsOf 4194304 23 16 ≤ 64 ∧
      (bitOf 4194304 0 = false ∧ depthSum wp4 0 (bitsOf 4194304 23 16) false ≤ 512)) ∧
    -- clause 3
    (mayWrite wp2 Requester.pcie0 (Reg.tapCtrl 0) 4 = true ∧ locked wp2 = false ∧ bitsOf 2151677953 23 16 ≤ 64 ∧
      (bitOf 2151677953 31 = true ∧ bitOf 2151677953 0 = true ∧ 2 ≤ (tap wp2 0).state ∧ (tap wp2 0).state ≤ 4 ∧
      depthSum wp2 0 (bitsOf 2151677953 23 16) true ≤ 512)) ∧
    -- clause 3
    (mayWrite wp4 Requester.pcie0 (Reg.tapCtrl 0) 4 = true ∧ locked wp4 = false ∧ bitsOf 2151677953 23 16 ≤ 64 ∧
      (bitOf 2151677953 31 = true ∧ bitOf 2151677953 0 = true ∧ 2 ≤ (tap wp4 0).state ∧ (tap wp4 0).state ≤ 4 ∧
      depthSum wp4 0 (bitsOf 2151677953 23 16) true ≤ 512)) ∧
    -- clause 4
    (mayWrite wp4 Requester.pcie0 (Reg.tapCtrl 0) 4 = true ∧ locked wp4 = false ∧ bitsOf 3145729 23 16 ≤ 64 ∧
      depthSum wp4 0 (bitsOf 3145729 23 16) (bitOf 3145729 0) ≤ 512) ∧
    -- clause 5
    (mayWrite fullDepths Requester.pcie0 (Reg.tapCtrl 0) 4 = true ∧ locked fullDepths = false ∧ bitsOf 4194305 23 16
      ≤ 64 ∧ (512 < depthSum fullDepths 0 (bitsOf 4194305 23 16) (bitOf 4194305 0) ∧ bitsOf 4194305 23 16 ≠ fget
      fullDepths (Reg.tapCtrl 0) 23 16)) := by
  refine ⟨?_, ?_, ?_, ?_, ?_, ?_⟩ <;> decide +kernel

/-- States and operands that meet the hypotheses of `Obligations.CreditsMoveOneTagAtATime`, one group a case. -/
theorem witness_CreditsMoveOneTagAtATime :
    -- clause 1
    (awake grantable = true ∧ (grantOk grantable 0 = true ∧ grantable.vrd.taken.contains 1023 = false)) ∧
    -- clause 2
    (awake fcWaiting = true ∧ fcDue fcWaiting 0 = true ∧ turnFor fcWaiting 0 = true ∧ (tap fcWaiting 0).replay =
      none ∧ (tap fcWaiting 0).resync = none) ∧
    -- clause 3
    (awake wp4 = true ∧ (tap wp4 0).state = 4 ∧ (1 : BitVec 2) = 1 ∧ (tap wp4 0).captured = []) ∧
    -- clause 3
    (awake wp4good = true ∧ (tap wp4good 0).state = 4 ∧ (1 : BitVec 2) = 1 ∧ (∃ d ∈ (tap wp4good 0).captured, d.at_
      ≤ wp4good.cycle)) ∧
    -- clause 3
    (awake wp4 = true ∧ (tap wp4 0).state = 4 ∧ (0 : BitVec 2) ≠ 1 ∧ (tap wp4 0).resync = none) := by
  refine ⟨?_, ?_, ?_, ?_, ?_⟩ <;> decide +kernel

/-- States and operands that meet the hypotheses of `Obligations.RecoveryWritesReturnTagsAndRebase`, one group a case. -/
theorem witness_RecoveryWritesReturnTagsAndRebase :
    -- clause 1
    (mayWrite reserved2 Requester.pcie0 Reg.tapForceCred 4 = true ∧ (bitsOf 1668415488 31 16 = 25458 ∧ (tap
      reserved2 (bitsOf 1668415488 4 0)).state ≤ 2)) ∧
    -- clause 1
    (mayWrite wp3 Requester.pcie0 Reg.tapForceCred 4 = true ∧ (bitsOf 1668415488 31 16 ≠ 25458 ∨ 2 < (tap wp3
      (bitsOf 1668415488 4 0)).state)) ∧
    -- clause 1
    (mayWrite wp2 Requester.pcie0 Reg.tapForceCred 4 = true ∧ (bitsOf 1668349952 31 16 ≠ 25458 ∨ 2 < (tap wp2
      (bitsOf 1668349952 4 0)).state)) ∧
    -- clause 2
    ((mayWrite orphaned Requester.pcie0 Reg.vrdTagReclaim 4 = true ∧ 31329 % 65536 = 31329)) := by
  refine ⟨?_, ?_, ?_, ?_⟩ <;> decide +kernel

/-- States and operands that meet the hypotheses of `Obligations.TapErrorsAreRecordedAndReported`, one group a case. -/
theorem witness_TapErrorsAreRecordedAndReported :
    -- clause 1
    (awake wp4 = true ∧ 2 ≤ (tap wp4 0).state) ∧
    -- clause 1
    (awake wp2 = true ∧ 2 ≤ (tap wp2 0).state) ∧
    -- clause 2
    (awake wp4errs = true ∧ (tap wp4errs 0).errs = [(3, 153)] ∧ turnFor wp4errs 0 = true ∧ fcDue wp4errs 0 = false ∧
      ((tap wp4errs 0).state = 4 → dreqTime wp4errs 0 = false)) ∧
    -- clause 2
    (awake wp3errs = true ∧ (tap wp3errs 0).errs = [(3, 153)] ∧ turnFor wp3errs 0 = true ∧ fcDue wp3errs 0 = false ∧
      ((tap wp3errs 0).state = 4 → dreqTime wp3errs 0 = false)) ∧
    -- clause 3
    (awake wp2 = true ∧ 2 ≤ (tap wp2 0).state) ∧
    -- clause 4
    (awake wp4 = true ∧ 2 ≤ (tap wp4 0).state ∧ 5 ≠ 0 ∧ 5 ≠ 3 ∧ (5 = 2 → inboundType 7 = false) ∧ (5 ≠ 1 ∨ (if 25 *
      (wp4.cycle - (tap wp4 0).lockAt) / 8192 = (tap wp4 0).hdrWin then (tap wp4 0).hdrBad else 0) < 15) ∧ (true =
      true ∨ 5 = 4 ∨ (tap wp4 0).captured.length < (tap wp4 0).reserve.length)) ∧
    -- clause 4
    (awake wp2 = true ∧ 2 ≤ (tap wp2 0).state ∧ 2 ≠ 0 ∧ 2 ≠ 3 ∧ (2 = 2 → inboundType 0x99 = false) ∧ (2 ≠ 1 ∨ (if 25
      * (wp2.cycle - (tap wp2 0).lockAt) / 8192 = (tap wp2 0).hdrWin then (tap wp2 0).hdrBad else 0) < 15) ∧ ((some
      7 : Option Nat) = none ∨ 2 = 4 ∨ (tap wp2 0).captured.length < (tap wp2 0).reserve.length)) ∧
    -- clause 4
    (awake wp4full = true ∧ 2 ≤ (tap wp4full 0).state ∧ 4 ≠ 0 ∧ 4 ≠ 3 ∧ (4 ≠ 1 ∨ (if 25 * (wp4full.cycle - (tap
      wp4full 0).lockAt) / 8192 = (tap wp4full 0).hdrWin then (tap wp4full 0).hdrBad else 0) < 15) ∧ ((some 7 :
      Option Nat) = none ∨ 4 = 4 ∨ (tap wp4full 0).captured.length < (tap wp4full 0).reserve.length)) ∧
    -- clause 4
    (awake wp4full = true ∧ 2 ≤ (tap wp4full 0).state ∧ 5 ≠ 0 ∧ 5 ≠ 3 ∧ (5 ≠ 1 ∨ (if 25 * (wp4full.cycle - (tap
      wp4full 0).lockAt) / 8192 = (tap wp4full 0).hdrWin then (tap wp4full 0).hdrBad else 0) < 15) ∧ (some 7 :
      Option Nat) ≠ none ∧ 5 ≠ 4 ∧ (tap wp4full 0).reserve.length ≤ (tap wp4full 0).captured.length) ∧
    -- clause 4
    (awake wp4header = true ∧ 2 ≤ (tap wp4header 0).state ∧ 1 ≠ 0 ∧ 1 ≠ 3 ∧ 15 ≤ (if 25 * (wp4header.cycle - (tap
      wp4header 0).lockAt) / 8192 = (tap wp4header 0).hdrWin then (tap wp4header 0).hdrBad else 0)) := by
  refine ⟨?_, ?_, ?_, ?_, ?_, ?_, ?_, ?_, ?_, ?_⟩ <;> decide +kernel

/-- States and operands that meet the hypotheses of `Obligations.DescriptorIsCapturedThenAcceptedTwelveCyclesLater`, one group a case. -/
theorem witness_DescriptorIsCapturedThenAcceptedTwelveCyclesLater :
    -- clause 1
    (awake wp4 = true ∧ (tap wp4 0).state = 4 ∧ (tap wp4 0).captured.length < (tap wp4 0).reserve.length ∧ kindOk
      goodDsc = true ∧ 4 ≤ 4) ∧
    -- clause 2
    (awake wp4good = true ∧ ((tap wp4good 0).captured = [cap goodDsc] ∧ (cap goodDsc).at_ + 12 ≤ wp4good.cycle ∧
      (cap goodDsc).bad = false ∧ dscCrcOk (cap goodDsc).bytes = true ∧ (tap wp4good 0).reserve = [5, 6])) ∧
    -- clause 3
    (awake wp4bad = true ∧ (tap wp4bad 0).captured = [cap badDsc] ∧ (cap badDsc).at_ + 12 ≤ wp4bad.cycle ∧ (cap
      badDsc).bad = false ∧ dscCrcOk (cap badDsc).bytes = false ∧ (tap wp4bad 0).reserve = [5, 6] ∧ (tap wp4bad
      0).state = 4) ∧
    -- clause 4
    (awake wp4tx = true ∧ (tap wp4tx 0).state = 4 ∧ atBoundary wp4tx 0 = true ∧ markDue wp4tx 0 = false ∧ (tap wp4tx
      0).txData = [] ∧ minByKey (fun (x : TxVerdict) => x.release * 2 ^ 64 + x.acc) (tap wp4tx 0).txq = some
      ⟨9999999990, 9999999900, 77⟩ ∧ max ((⟨9999999990, 9999999900, 77⟩ : TxVerdict).release + 10) (tap wp4tx
      0).txFreeAt ≤ wp4tx.cycle) ∧
    -- clause 5
    (awake wp4data = true ∧ (tap wp4data 0).state = 4 ∧ (tap wp4data 0).txData = 5 :: [6] ∧ (tap wp4data 0).txAt <
      50 * wp4data.cycle ∧ markDue wp4data 0 = false) ∧
    -- clause 5
    (awake wp4last = true ∧ (tap wp4last 0).state = 4 ∧ (tap wp4last 0).txData = 6 :: [] ∧ (tap wp4last 0).txAt < 50
      * wp4last.cycle ∧ markDue wp4last 0 = false) := by
  refine ⟨?_, ?_, ?_, ?_, ?_, ?_⟩ <;> decide +kernel

/-- States and operands that meet the hypotheses of `Obligations.SelectorServesInAcceptanceOrderAndGivesTheProfile`, one group a case. -/
theorem witness_SelectorServesInAcceptanceOrderAndGivesTheProfile :
    -- clause 1
    (awake toSelect = true ∧ nextSelect toSelect = some (flight 7) ∧ (flight 7).oldRecs = []) ∧
    -- clause 1
    (awake toSelect = true ∧ nextSelect toSelect = some (flight 7) ∧ (flight 7).oldRecs = [] ∧ selectProfile
      toSelect (selectorKey (flight 7).selPort (flight 7).bytes) = (some 5, true)) ∧
    -- clause 1
    (awake noDefault = true ∧ nextSelect noDefault = some (flight 7) ∧ (flight 7).oldRecs = [] ∧ selectProfile
      noDefault (selectorKey (flight 7).selPort (flight 7).bytes) = (none, true)) ∧
    -- clause 2
    (awake selFull = true ∧ 4 ≤ selUsed selFull) ∧
    -- clause 3
    (awake toCobble = true ∧ nextCobbler toCobble = some selected7 ∧ freeCobbler toCobble = some 1) := by
  refine ⟨?_, ?_, ?_, ?_, ?_⟩ <;> decide +kernel

/-- States and operands that meet the hypotheses of `Obligations.RegulatorGrantsTheFirstRankedRequest`, one group a case. -/
theorem witness_RegulatorGrantsTheFirstRankedRequest :
    -- clause 1
    (awake slotAsked = true ∧ bestSearch slotAsked = some slotReq ∧ slotReq.purpose = Purpose.slotSearch (Asker.desc
      7 3 1) 2 5 none ∧ slotsUsed slotAsked = (false, false) ∧ actLevel slotAsked = 0) ∧
    -- clause 2
    (awake readAsked = true ∧ nextRedirected (runFilters readAsked) = none ∧ (runFilters readAsked).drc.clearDone = true ∧ gransUsed (runFilters readAsked) < 2 ∧
      bestGran (runFilters readAsked) = some readReq ∧ nextGran (runFilters readAsked) (dmaPick (runFilters
      readAsked) readReq) = some (Gran.rd 77)) ∧
    -- clause 2
    (awake writeAsked = true ∧ nextRedirected (runFilters writeAsked) = none ∧ (runFilters writeAsked).drc.clearDone = true ∧ gransUsed (runFilters writeAsked) < 2
      ∧ bestGran (runFilters writeAsked) = some writeReq ∧ nextGran (runFilters writeAsked) (dmaPick (runFilters
      writeAsked) writeReq) = some (Gran.wr 77 [(3, 9)])) := by
  refine ⟨?_, ?_, ?_⟩ <;> decide +kernel

/-- States and operands that meet the hypotheses of `Obligations.MemoryTrafficReturnsToItsRequester`, one group a case. -/
theorem witness_MemoryTrafficReturnsToItsRequester :
    -- clause 1
    (awake readBack = true ∧ dueRead readBack = some readFl) ∧
    -- clause 2
    (awake ackBack = true ∧ dueAck ackBack = some (writeFl (some 10000000000) [])) ∧
    -- clause 3
    (awake heldBack = true ∧ servable heldBack = some (writeFl none [1, 2])) := by
  refine ⟨?_, ?_, ?_⟩ <;> decide +kernel

/-- States and operands that meet the hypotheses of `Obligations.WindowsMissesAndRefreshKeepTheirAccounts`, one group a case. -/
theorem witness_WindowsMissesAndRefreshKeepTheirAccounts :
    -- clause 1
    (awake windowOver = true ∧ windowOver.rgl.windowAt < windowOver.cycle / 800 ∧ windowOver.rgl.budgetOn = true ∧
      windowOver.rgl.dirty = false) ∧
    -- clause 2
    (awake missing = true ∧ latencyMissOf missing = some slotReq) ∧
    -- clause 3
    (awake trained = true ∧ trained.drc.trained = true ∧ trained.drc.pairs.length = 4 ∧ (pairAt trained
      3).nextRefresh ≤ trained.cycle ∧ (pairAt trained 3).postponed = 0) ∧
    -- clause 4
    (awake calm = true) ∧
    -- clause 4
    (awake calm = true) ∧
    -- clause 4
    (awake hot = true) ∧
    -- clause 4
    (awake hot = true) := by
  refine ⟨?_, ?_, ?_, ?_, ?_, ?_, ?_⟩ <;> decide +kernel

/-- States and operands that meet the hypotheses of `Obligations.AnswersCompositionAndReleaseFollowTheTag`, one group a case. -/
theorem witness_AnswersCompositionAndReleaseFollowTheTag :
    -- clause 1
    (awake answeredNow = true ∧ (List.find? (fun x => x.ternary && decide (x.due ≤ answeredNow.cycle))
      answeredNow.vrd.answers = some (ternAns 3)) ∧ (ternAns 3).who = Asker.desc 7 3 1 ∧ flightOf answeredNow 7 =
      some asked7) ∧
    -- clause 1
    (awake answeredLate = true ∧ (List.find? (fun x => x.ternary && decide (x.due ≤ answeredLate.cycle))
      answeredLate.vrd.answers = some (ternAns 2)) ∧ (ternAns 2).who = Asker.desc 7 2 1 ∧ flightOf answeredLate 7 =
      some asked7) ∧
    -- clause 2
    (awake toCompose = true ∧ nextCompose (deliverDue toCompose) = some done7) ∧
    -- clause 3
    (awake toRelease = true ∧ nextRelease toRelease = some due7) ∧
    -- clause 4
    (awake ledgerBad85 = true ∧ mayWrite ledgerBad85 Requester.pcie0 Reg.topLedgerStat 4 = true) ∧
    -- clause 4
    (awake ledgerBad85 = true ∧ mayWrite ledgerBad85 Requester.pcie0 Reg.topLedgerStat 4 = true) := by
  refine ⟨?_, ?_, ?_, ?_, ?_, ?_⟩ <;> decide +kernel

/-- States and operands that meet the hypotheses of `Obligations.SuppliesAndResetPinMoveThePowerState`, one group a case. -/
theorem witness_SuppliesAndResetPinMoveThePowerState :
    -- clause 1
    (off.pwr.st = PwrState.off) ∧
    -- clause 4
    (parkingLow.pwr.st = PwrState.parking ∧ parkingLow.pwr.reqHigh = false) ∧
    -- clause 5
    (awake calm = true ∧ calm.pwr.reqHigh = true) ∧
    -- clause 6
    (awake calm = true ∧ calm.pwr.reqHigh = true) ∧
    -- clause 7
    (calm.pwr.pgood = true ∧ calm.pwr.st ≠ PwrState.off ∧ calm.pwr.st ≠ PwrState.park) ∧
    -- clause 7
    (starting1.pwr.pgood = true ∧ starting1.pwr.st ≠ PwrState.off ∧ starting1.pwr.st ≠ PwrState.park) ∧
    -- clause 8
    (parked.pwr.st = PwrState.park) := by
  refine ⟨?_, ?_, ?_, ?_, ?_, ?_, ?_⟩ <;> decide +kernel

/-- States and operands that meet the hypotheses of `Obligations.EveryStartResetsAllButTheAlwaysOnDomain`, one group a case. -/
theorem witness_EveryStartResetsAllButTheAlwaysOnDomain :
    (starting1.pwr.st = PwrState.starting ∧ starting1.pwr.pgood = true) ∧
    (starting2.pwr.st = PwrState.starting ∧ starting2.pwr.pgood = true) := by
  refine ⟨?_, ?_⟩ <;> decide +kernel

/-- States and operands that meet the hypotheses of `Obligations.StartStepsEndInReady`, one group a case. -/
theorem witness_StartStepsEndInReady :
    -- clause 1
    (awake calm = true ∧ calm.drc.trained = false ∧ wipeFirst calm = false) ∧
    -- clause 1
    (awake starting0 = true ∧ starting0.drc.trained = false ∧ wipeFirst starting0 = false) ∧
    -- clause 2
    (awake clearing = true ∧ clearing.drc.clearFrom = some 9 ∧ clearing.drc.clearDone = false) ∧
    -- clause 3
    (awake almostReady = true ∧ readyOk almostReady = true) ∧
    -- clause 4
    (awake writing = true ∧ writing.nvc.ops = [{ kind := 2, addr := 2228224, bytes := [1, 2], total := 32, since :=
      10000000000 - 6400 : CkptOp }] ∧ { kind := 2, addr := 2228224, bytes := [1, 2], total := 32, since :=
      10000000000 - 6400 : CkptOp }.since + 200 * { kind := 2, addr := 2228224, bytes := [1, 2], total := 32, since
      := 10000000000 - 6400 : CkptOp }.total ≤ writing.cycle) := by
  refine ⟨?_, ?_, ?_, ?_, ?_⟩ <;> decide +kernel

/-- States and operands that meet the hypotheses of `Obligations.ParkIsRequestedGrantedOrRefused`, one group a case. -/
theorem witness_ParkIsRequestedGrantedOrRefused :
    -- clause 1
    (mayWrite calm Requester.pcie1 Reg.pwrCtrl 4 = true ∧ (calm.pwr.st = PwrState.staged ∨ calm.pwr.st =
      PwrState.ready ∨ (calm.pwr.st = PwrState.woken ∧ flag calm Reg.imgStat 30 = true))) ∧
    -- clause 1
    (mayWrite staged Requester.benchM Reg.pwrCtrl 4 = true ∧ (staged.pwr.st = PwrState.staged ∨ staged.pwr.st =
      PwrState.ready ∨ (staged.pwr.st = PwrState.woken ∧ flag staged Reg.imgStat 30 = true))) ∧
    -- clause 1
    (mayWrite wokenFailed Requester.pcie0 Reg.pwrCtrl 4 = true ∧ (wokenFailed.pwr.st = PwrState.staged ∨
      wokenFailed.pwr.st = PwrState.ready ∨ (wokenFailed.pwr.st = PwrState.woken ∧ flag wokenFailed Reg.imgStat 30 =
      true))) ∧
    -- clause 2
    (mayWrite calm Requester.pcie0 Reg.pwrCtrl 4 = true ∧ 17231 ≠ 20545) ∧
    -- clause 3
    (parkingHeld.pwr.st = PwrState.parking ∧ parkingHeld.pwr.stopGrants = false ∧ parkingHeld.pwr.graceEnd ≤
      parkingHeld.cycle ∧ (rd parkingHeld Reg.pwrHold ≠ 0 ∨ rd parkingHeld Reg.pwrHoldMs ≠ 0)) ∧
    -- clause 3
    (parking.pwr.st = PwrState.parking ∧ parking.pwr.stopGrants = false ∧ parking.pwr.graceEnd ≤ parking.cycle ∧
      abortWhy { parking with pwr := { parking.pwr with wakeLevel := 0, tamperLevel := 0 } } = 0) ∧
    -- clause 4
    (parkingLow.pwr.st = PwrState.parking ∧ parkingLow.pwr.reqHigh = false ∧ parkingLow.pwr.pgood = true ∧
      parkingLow.pwr.lowAt + 8000000 ≤ parkingLow.cycle) ∧
    -- clause 5
    (waking.pwr.st = PwrState.park ∧ wakeEnabled waking 0 = true) ∧
    -- clause 5
    (waking.pwr.st = PwrState.park ∧ wakeEnabled waking 4 = true) ∧
    -- clause 5
    (alarmed.pwr.st = PwrState.park ∧ wakeEnabled alarmed 5 = true) ∧
    -- clause 6
    (startingDim.pwr.st = PwrState.starting ∧ startingDim.pwr.pgood = false ∧ wakeEnabled startingDim 0 = true) ∧
    -- clause 6
    (startingDim.pwr.st = PwrState.starting ∧ startingDim.pwr.pgood = false ∧ wakeEnabled startingDim 4 = true) ∧
    -- clause 7
    (parkedLong.pwr.st = PwrState.park ∧ parkedLong.pwr.dwellOver = false ∧ parkedLong.pwr.lowAt + 33 ≤ rd
      parkedLong Reg.milAonCnt) ∧
    -- clause 7
    (parkedWoken.pwr.st = PwrState.park ∧ parkedWoken.pwr.dwellOver = false ∧ parkedWoken.pwr.lowAt + 33 ≤ rd
      parkedWoken Reg.milAonCnt) ∧
    -- clause 8
    (mayWrite calm Requester.pcie0 Reg.pwrCtrl 4 = true ∧ (Requester.pcie0 = Requester.spi ∨ Requester.pcie0 =
      Requester.pcie0)) ∧
    -- clause 8
    (mayWrite calm Requester.spi Reg.pwrCtrl 4 = true ∧ (Requester.spi = Requester.spi ∨ Requester.spi =
      Requester.pcie0)) := by
  refine ⟨?_, ?_, ?_, ?_, ?_, ?_, ?_, ?_, ?_, ?_, ?_, ?_, ?_, ?_, ?_, ?_⟩ <;> decide +kernel

/-- States and operands that meet the hypotheses of `Obligations.CheckpointStoreRecordsAndAccess`, one group a case. -/
theorem witness_CheckpointStoreRecordsAndAccess :
    -- clause 1
    (awake recorded = true ∧ recorded.pwr.st.active = true ∧ fget recorded Reg.nvcCkptCtrl 11 0 ≠ 0 ∧
      recorded.nvc.lastRec + fget recorded Reg.nvcCkptCtrl 11 0 * 1000000000 ≤ nowNs recorded) ∧
    -- clause 2
    (awake calm = true ∧ mayWrite calm Requester.pcie0 Reg.nvcCkptCtrl 4 = true ∧ bitOf 2147483648 31 = true) ∧
    -- clause 3
    (awake dirtyRecord = true ∧ dirtyRecord.intg.recordDirty = true) ∧
    -- clause 4
    (awake calm = true ∧ mayWrite calm Requester.pcie0 Reg.imgCtrl 4 = true) ∧
    -- clause 5
    (awake accessRead = true ∧ accessRead.nvc.acc = ⟨true, false, 0x240000, 77⟩ :: [⟨true, true, 0x240008, 5⟩] ∧
      accessRead.nvc.accAt + (if false then 200 else 16) ≤ accessRead.cycle ∧ accessRead.nvc.wipeAt = none) ∧
    -- clause 5
    (awake accessWrite = true ∧ accessWrite.nvc.acc = ⟨true, true, 0x240000, 77⟩ :: [⟨true, true, 0x240008, 5⟩] ∧
      accessWrite.nvc.accAt + (if true then 200 else 16) ≤ accessWrite.cycle ∧ accessWrite.nvc.wipeAt = none) ∧
    -- clause 6
    (awake sealed = true ∧ mayWrite sealed Requester.benchM Reg.nvcAccCmd 4 = true ∧ nvcOpen sealed Requester.benchM
      (fget sealed Reg.nvcAccAddr 21 3 * 8) = true ∧ sealed.nvc.wipeAt = none) ∧
    -- clause 6
    (awake sealed = true ∧ mayWrite sealed Requester.benchM Reg.nvcAccCmd 4 = true ∧ nvcOpen sealed Requester.benchM
      (fget sealed Reg.nvcAccAddr 21 3 * 8) = true ∧ sealed.nvc.wipeAt = none) ∧
    -- clause 6
    (awake userArea = true ∧ mayWrite userArea Requester.pcie0 Reg.nvcAccCmd 4 = true ∧ nvcOpen userArea
      Requester.pcie0 (fget userArea Reg.nvcAccAddr 21 3 * 8) = true ∧ userArea.nvc.wipeAt = none) ∧
    -- clause 6
    (awake userArea = true ∧ mayWrite userArea Requester.benchU Reg.nvcAccCmd 4 = true ∧ nvcOpen userArea
      Requester.benchU (fget userArea Reg.nvcAccAddr 21 3 * 8) = true ∧ userArea.nvc.wipeAt = none) ∧
    -- clause 6
    (awake otherArea = true ∧ mayWrite otherArea Requester.benchM Reg.nvcAccCmd 4 = true ∧ nvcOpen otherArea
      Requester.benchM (fget otherArea Reg.nvcAccAddr 21 3 * 8) = false) ∧
    -- clause 6
    (awake otherArea = true ∧ mayWrite otherArea Requester.pcie0 Reg.nvcAccCmd 4 = true ∧ nvcOpen otherArea
      Requester.pcie0 (fget otherArea Reg.nvcAccAddr 21 3 * 8) = false) := by
  refine ⟨?_, ?_, ?_, ?_, ?_, ?_, ?_, ?_, ?_, ?_, ?_, ?_⟩ <;> decide +kernel

/-- States and operands that meet the hypotheses of `Obligations.LifeCycleOperationsProgramFuses`, one group a case. -/
theorem witness_LifeCycleOperationsProgramFuses :
    -- clause 1
    (mayWrite blank Requester.pcie0 Reg.lcsCmd 4 = true ∧ (Requester.pcie0 = Requester.pcie0 ∨ Requester.pcie0 =
      Requester.spi ∨ benchSecure blank Requester.pcie0 = true) ∧ blank.lcs.op = none ∧ blank.pwr.st ≠
      PwrState.parking ∧ blank.lcs.lcState ≤ 1 ∧ (keySlot blank 1).prog = false ∧ fget blank Reg.lcsTokenAddr 18 0 +
      32 ≤ vaultBase) ∧
    -- clause 1
    (mayWrite develop Requester.pcie0 Reg.lcsCmd 4 = true ∧ (Requester.pcie0 = Requester.pcie0 ∨ Requester.pcie0 =
      Requester.spi ∨ benchSecure develop Requester.pcie0 = true) ∧ develop.lcs.op = none ∧ develop.pwr.st ≠
      PwrState.parking ∧ develop.lcs.lcState = 1 ∧ (∃ k : Fin 4, k ≠ 0 ∧ slotGood develop ↑k = true)) ∧
    -- clause 1
    (mayWrite develop Requester.pcie0 Reg.lcsCmd 4 = true ∧ (Requester.pcie0 = Requester.pcie0 ∨ Requester.pcie0 =
      Requester.spi ∨ benchSecure develop Requester.pcie0 = true) ∧ develop.lcs.op = none ∧ develop.pwr.st ≠
      PwrState.parking ∧ develop.lcs.lcState = 1 ∧ develop.lcs.secVer < 4 ∧ 4 ≤ 64) ∧
    -- clause 1
    (mayWrite develop Requester.pcie0 Reg.lcsCmd 4 = true ∧ (Requester.pcie0 = Requester.pcie0 ∨ Requester.pcie0 =
      Requester.spi ∨ benchSecure develop Requester.pcie0 = true) ∧ develop.lcs.op = none ∧ develop.pwr.st ≠
      PwrState.parking ∧ develop.lcs.lcState = 1 ∧ develop.lcs.secVer < 64 ∧ 64 ≤ 64) ∧
    -- clause 1
    (mayWrite blank Requester.pcie0 Reg.lcsCmd 4 = true ∧ (Requester.pcie0 = Requester.pcie0 ∨ Requester.pcie0 =
      Requester.spi ∨ benchSecure blank Requester.pcie0 = true) ∧ blank.lcs.op = none ∧ blank.pwr.st ≠
      PwrState.parking ∧ blank.lcs.lcState = 0 ∧ (∃ k ∈ blank.lcs.keys, k.prog = true)) ∧
    -- clause 1
    (mayWrite develop Requester.pcie0 Reg.lcsCmd 4 = true ∧ (Requester.pcie0 = Requester.pcie0 ∨ Requester.pcie0 =
      Requester.spi ∨ benchSecure develop Requester.pcie0 = true) ∧ develop.lcs.op = none ∧ develop.pwr.st ≠
      PwrState.parking ∧ develop.lcs.lcState = 1 ∧ (∃ k : Fin 4, slotGood develop ↑k = true)) ∧
    -- clause 2
    (awake fusing8 = true ∧ fusing8.lcs.op = some
      { op := 1, slot := 1, arg := 0, hash := [], token := false, left := 8, since := 10000000000 - 800000 : LcsOp }
      ∧
      { op := 1, slot := 1, arg := 0, hash := [], token := false, left := 8, since := 10000000000 - 800000 : LcsOp }.since
      + 800000 ≤ fusing8.cycle ∧ 1 <
      { op := 1, slot := 1, arg := 0, hash := [], token := false, left := 8, since := 10000000000 - 800000 : LcsOp }.left)
      ∧
    -- clause 2
    (awake fusingVer = true ∧ fusingVer.lcs.op = some
      { op := 3, slot := 1, arg := 64, hash := [], token := false, left := 1, since := 10000000000 - 800000 : LcsOp }
      ∧
      { op := 3, slot := 1, arg := 64, hash := [], token := false, left := 1, since := 10000000000 - 800000 : LcsOp }.since
      + 800000 ≤ fusingVer.cycle ∧
      { op := 3, slot := 1, arg := 64, hash := [], token := false, left := 1, since := 10000000000 - 800000 : LcsOp }.left
      ≤ 1 ∧
      { op := 3, slot := 1, arg := 64, hash := [], token := false, left := 1, since := 10000000000 - 800000 : LcsOp }.op
      = 3) ∧
    -- clause 2
    (awake fusingProduce = true ∧ fusingProduce.lcs.op = some
      { op := 5, slot := 1, arg := 0, hash := [], token := false, left := 1, since := 10000000000 - 800000 : LcsOp }
      ∧
      { op := 5, slot := 1, arg := 0, hash := [], token := false, left := 1, since := 10000000000 - 800000 : LcsOp }.since
      + 800000 ≤ fusingProduce.cycle ∧
      { op := 5, slot := 1, arg := 0, hash := [], token := false, left := 1, since := 10000000000 - 800000 : LcsOp }.left
      ≤ 1 ∧
      { op := 5, slot := 1, arg := 0, hash := [], token := false, left := 1, since := 10000000000 - 800000 : LcsOp }.op
      = 5) ∧
    -- clause 1
    (mayWrite returning Requester.pcie0 Reg.lcsCmd 4 = true ∧ (Requester.pcie0 = Requester.pcie0 ∨ Requester.pcie0 =
      Requester.spi ∨ benchSecure returning Requester.pcie0 = true) ∧ returning.lcs.op = none ∧ returning.pwr.st ≠
      PwrState.parking ∧ returning.lcs.lcState = 2 ∧ fget returning Reg.lcsTokenAddr 18 0 + 128 ≤ vaultBase ∧
      tokenOk returning 6 0 0 (spmRead returning 50 (fget returning Reg.lcsTokenAddr 18 0) 128).2.1 = true) := by
  refine ⟨?_, ?_, ?_, ?_, ?_, ?_, ?_, ?_, ?_, ?_⟩ <;> decide +kernel

/-- States and operands that meet the hypotheses of `Obligations.TamperWipesVaultAndSealedArea`, one group a case. -/
theorem witness_TamperWipesVaultAndSealedArea :
    -- clause 1
    (awake guarded = true ∧ flag guarded (Reg.lcsTamperCfg 0) 0 = true ∧ guarded.pwr.reqHigh = true) ∧
    -- clause 1
    (awake guarded = true ∧ flag guarded (Reg.lcsTamperCfg 1) 0 = true ∧ guarded.pwr.reqHigh = true) ∧
    -- clause 2
    (awake wipeStep = true ∧ wipeStep.nvc.wipeAt = some (10000000000 - 4096) ∧ wipeStep.cycle = 10000000000 - 4096 +
      4096) ∧
    -- clause 3
    (awake wiping = true ∧ wiping.nvc.wipeAt = some (10000000000 - 1640000) ∧ 10000000000 - 1640000 + 1640000 ≤
      wiping.cycle) := by
  refine ⟨?_, ?_, ?_, ?_⟩ <;> decide +kernel

/-- States and operands that meet the hypotheses of `Obligations.LoaderReadsAdmitsAndAppliesAnImage`, one group a case. -/
theorem witness_LoaderReadsAdmitsAndAppliesAnImage :
    -- clause 1
    (awake fresh = true ∧ fresh.pwr.st = PwrState.woken ∧ fresh.pwr.warmStart = false ∧ fresh.img.phase =
      ImgPhase.before ∧ wipeFirst fresh = false ∧ iltOk ilt = true ∧ ilt.length = 64 ∧ (iltOk [] = false ∨ fieldAt
      [] 4 4 ≤ fieldAt ilt 4 4) ∧ fieldAt ilt 12 4 ≠ 0 ∧ bitOf (fieldAt ilt 24 4) 0 = false) ∧
    -- clause 1
    (awake fresh = true ∧ fresh.pwr.st = PwrState.woken ∧ fresh.pwr.warmStart = false ∧ fresh.img.phase =
      ImgPhase.before ∧ wipeFirst fresh = false ∧ iltOk ilt = true ∧ ilt.length = 64 ∧ (iltOk ilt = false ∨ fieldAt
      ilt 4 4 ≤ fieldAt ilt 4 4) ∧ fieldAt ilt 12 4 ≠ 0 ∧ bitOf (fieldAt ilt 24 4) 0 = false) ∧
    -- clause 2
    (awake fetching0 = true ∧ fetching0.pwr.st = PwrState.woken ∧ fetching0.pwr.warmStart = false ∧
      fetching0.img.phase = ImgPhase.fetching ∧ fetching0.img.copy ≤ 1) ∧
    -- clause 2
    (awake fetching1 = true ∧ fetching1.pwr.st = PwrState.woken ∧ fetching1.pwr.warmStart = false ∧
      fetching1.img.phase = ImgPhase.fetching ∧ fetching1.img.copy ≤ 1) ∧
    -- clause 3
    (awake fetchingGood = true ∧ fetchingGood.pwr.st = PwrState.woken ∧ fetchingGood.pwr.warmStart = false ∧
      fetchingGood.img.phase = ImgPhase.fetching ∧ wipeFirst fetchingGood = false) ∧
    -- clause 4
    (awake stagedImage = true ∧ stagedImage.pwr.st = PwrState.woken ∧ stagedImage.img.phase = ImgPhase.admitted ∧
      stagedImage.nvc.wipeAt = none) ∧
    -- clause 5
    (awake hosting = true ∧ mayWrite hosting Requester.pcie0 Reg.imgCtrl 4 = true ∧ hosting.lcs.lcState ≠ 2 ∧ progOn
      hosting Reg.imgProg = false ∧ flag hosting Reg.imgStat 31 = false) ∧
    -- clause 5
    (awake fresh = true ∧ mayWrite fresh Requester.pcie0 Reg.imgCtrl 4 = true ∧ fresh.lcs.lcState ≠ 2 ∧ progOn fresh
      Reg.imgProg = false ∧ flag fresh Reg.imgStat 31 = false ∧ 0 < 3 ∧ 3 < 16 ∧ authenticate fresh (hostImage
      fresh).2 (hostSpace fresh) true = (3, (0, 0))) ∧
    -- clause 6
    (awake calm = true ∧ mayWrite calm Requester.benchM Reg.imgLock 4 = true) ∧
    -- clause 7
    (awake calm = true ∧ mayWrite calm Requester.pcie0 Reg.imgFcmd 4 = true ∧ bitOf 2147942403 31 = true ∧ bitOf
      2147942403 18 = true ∧ bitOf 2147942403 17 = true ∧ calm.lcs.lcState ≠ 2 ∧ progOn calm Reg.imgProg = false ∧
      flag calm Reg.imgFcmd 30 = false ∧ bitsOf 2147942403 16 8 ≤ 256) ∧
    -- clause 7
    (awake calm = true ∧ mayWrite calm Requester.pcie0 Reg.imgFcmd 4 = true ∧ bitOf 2147876867 31 = true ∧ bitOf
      2147876867 18 = true ∧ bitOf 2147876867 17 = true ∧ calm.lcs.lcState ≠ 2 ∧ progOn calm Reg.imgProg = false ∧
      flag calm Reg.imgFcmd 30 = false ∧ bitsOf 2147876867 16 8 ≤ 256) ∧
    -- clause 8
    (awake polling = true ∧ polling.img.poll = some 6800000000 ∧ max 6800000000 polling.img.pollAt + 8000 ≤
      polling.cycle) ∧
    -- clause 8
    (awake pollingAgain = true ∧ pollingAgain.img.poll = some 6800000000 ∧ max 6800000000 pollingAgain.img.pollAt +
      8000 ≤ pollingAgain.cycle) ∧
    -- clause 9
    (awake polling = true ∧ polling.img.poll = some 6800000000 ∧ 6800000000 + 3200000000 ≤ polling.cycle) := by
  refine ⟨?_, ?_, ?_, ?_, ?_, ?_, ?_, ?_, ?_, ?_, ?_, ?_, ?_, ?_⟩ <;> decide +kernel

/-- States and operands that meet the hypotheses of `Obligations.CorrectionsSlewOrStepRoadTime`, one group a case. -/
theorem witness_CorrectionsSlewOrStepRoadTime :
    -- clause 1
    (mayWrite clock Requester.pcie0 Reg.milOffset 8 = true ∧ clock.img.weltPos = 0) ∧
    -- clause 1
    (mayWrite clock Requester.benchU Reg.milOffset 8 = true ∧ clock.img.weltPos = 0) ∧
    -- clause 1
    (mayWrite clockOn Requester.pcie0 Reg.milOffset 8 = true ∧ clockOn.img.weltPos = 0) ∧
    -- clause 2
    (mayWrite clock Requester.pcie0 Reg.milSet 8 = true ∧ clock.img.weltPos = 0) ∧
    -- clause 2
    (mayWrite clock Requester.pcie0 Reg.milSet 8 = true ∧ clock.img.weltPos = 0) ∧
    -- clause 2
    (mayWrite clockOn Requester.pcie0 Reg.milSet 8 = true ∧ clockOn.img.weltPos = 0) ∧
    -- clause 3
    (mayWrite clockSlave Requester.pcie0 Reg.milSet 8 = true ∧ clockSlave.img.weltPos ≠ 0) ∧
    -- clause 4
    (awake stepLater = true ∧ stepLater.mil.step = some (7, 5000000001)) ∧
    -- clause 4
    (awake stepNow = true ∧ stepNow.mil.step = some (7, 5000000000)) ∧
    -- clause 4
    (awake stepBack = true ∧ stepBack.mil.step = some (-7, 5000000000)) ∧
    -- clause 4
    (awake stepBackOn = true ∧ stepBackOn.mil.step = some (-7, 5000000000)) ∧
    -- clause 5
    (awake slewing = true ∧ slewing.mil.rem ≠ 0 ∧ slewNow slewing = 0) := by
  refine ⟨?_, ?_, ?_, ?_, ?_, ?_, ?_, ?_, ?_, ?_, ?_, ?_⟩ <;> decide +kernel

/-- States and operands that meet the hypotheses of `Obligations.SourcesAreTakenLostAndReplaced`, one group a case. -/
theorem witness_SourcesAreTakenLostAndReplaced :
    -- clause 1
    (mayWrite locked4 Requester.pcie0 Reg.milCtrl 4 = true ∧ locked4.img.weltPos = 0 ∧ bitsOf 259 2 0 ≠ srcPri
      locked4 ∧ bitsOf 259 2 0 ≤ 4 ∧ bitsOf 259 6 4 = srcBak locked4 ∧ srcBak locked4 ≤ 4) ∧
    -- clause 1
    (mayWrite locked4 Requester.pcie0 Reg.milCtrl 4 = true ∧ locked4.img.weltPos = 0 ∧ bitsOf 0 2 0 ≠ srcPri locked4
      ∧ bitsOf 0 2 0 ≤ 4 ∧ bitsOf 0 6 4 = srcBak locked4 ∧ srcBak locked4 ≤ 4) ∧
    -- clause 2
    (awake lostNoBackup = true ∧ timedOut lostNoBackup 2 = true ∧ 2 = lostNoBackup.mil.src ∧ lostNoBackup.mil.state
      = 2) ∧
    -- clause 2
    (awake lostBackup = true ∧ timedOut lostBackup 2 = true ∧ 2 = lostBackup.mil.src ∧ lostBackup.mil.state = 2) ∧
    -- clause 3
    (awake lostBackup3 = true ∧ timedOut lostBackup3 3 = true ∧ 3 ≠ lostBackup3.mil.src ∧ 3 = srcBak lostBackup3) ∧
    -- clause 4
    (mayWrite acquiring4 Requester.pcie0 Reg.milRate 4 = true) ∧
    -- clause 4
    (mayWrite locked4 Requester.pcie0 Reg.milRate 4 = true) ∧
    -- clause 4
    (mayWrite lostBackup Requester.pcie0 Reg.milRate 4 = true) := by
  refine ⟨?_, ?_, ?_, ?_, ?_, ?_, ?_, ?_⟩ <;> decide +kernel

/-- States and operands that meet the hypotheses of `Obligations.PpsEdgesAndReferenceSteerTheRate`, one group a case. -/
theorem witness_PpsEdgesAndReferenceSteerTheRate :
    -- clause 1
    (awake ppsBad = true ∧ ppsBad.mil.src = 2 + 0 ∧ (∀ (p : ℕ), (watchOf ppsBad (2 + 0)).prev = some p → 99 < 100 ∨
      25600000 < absI (↑(stampAgo256 ppsBad 10) - ↑p - 256000000000))) ∧
    -- clause 1
    (awake ppsBad = true ∧ ppsBad.mil.src = 2 + 0 ∧ (∀ (p : ℕ), (watchOf ppsBad (2 + 0)).prev = some p → 100 < 100 ∨
      25600000 < absI (↑(stampAgo256 ppsBad 10) - ↑p - 256000000000))) ∧
    -- clause 1
    (awake lostBackup = true ∧ lostBackup.mil.src = 2 + 0 ∧ (∀ (p : ℕ), (watchOf lostBackup (2 + 0)).prev = some p →
      99 < 100 ∨ 25600000 < absI (↑(stampAgo256 lostBackup 10) - ↑p - 256000000000))) ∧
    -- clause 2
    (awake ppsGood = true ∧ ppsGood.mil.src = 2 + 0 ∧ ppsGood.mil.state = 2 ∧ 100 ≤ 100 ∧ (watchOf ppsGood (2 +
      0)).prev = some 1024000000000 ∧ absI (↑(stampAgo256 ppsGood 0) - ↑1024000000000 - 256000000000) ≤ 25600000 ∧
      2560 = ↑(stampAgo256 ppsGood 0) - ↑((todFor ppsGood (watchOf ppsGood (2 + 0))).1 * 256) ∧ absI 2560 ≤ fget
      ppsGood Reg.milServo 7 0 * 1000 * 256) ∧
    -- clause 3
    (awake refFirst = true ∧ refFirst.mil.src = 1 ∧ (∀ (q : ℕ), (watchOf refFirst 1).prev = some q → q + 800000 ≤
      refFirst.cycle) ∧ ((watchOf refFirst 1).prev = none → (watchOf refFirst 1).since + 800000 ≤ refFirst.cycle)) ∧
    -- clause 3
    (awake refNext = true ∧ refNext.mil.src = 1 ∧ (∀ (q : ℕ), (watchOf refNext 1).prev = some q → q + 800000 ≤
      refNext.cycle) ∧ ((watchOf refNext 1).prev = none → (watchOf refNext 1).since + 800000 ≤ refNext.cycle)) := by
  refine ⟨?_, ?_, ?_, ?_, ?_, ?_⟩ <;> decide +kernel

/-- States and operands that meet the hypotheses of `Obligations.TriggersAndPpsPulsesFollowTheGrid`, one group a case. -/
theorem witness_TriggersAndPpsPulsesFollowTheGrid :
    -- clause 1
    (awake armed7 = true ∧ armed7.mil.valid = true ∧ (pulseOf armed7 7).on = true ∧ (pulseOf armed7 7).high = none ∧
      (pulseOf armed7 7).newPhase = none ∧ (pulseOf armed7 7).next = some 5000000000 ∧ 5000000000 * roadUnit ≤
      armed7.mil.road) ∧
    -- clause 2
    (awake armed9 = true ∧ armed9.mil.valid = true ∧ (pulseOf armed9 (8 + 1)).on = true ∧ (pulseOf armed9 (8 +
      1)).high = none ∧ (pulseOf armed9 (8 + 1)).newPhase = none ∧ (pulseOf armed9 (8 + 1)).next = some 5000000000 ∧
      5000000000 * roadUnit ≤ armed9.mil.road) ∧
    -- clause 3
    (awake raised7 = true ∧ (pulseOf raised7 7).high = some (4999999900, 9999999800, false) ∧ (pulseOf raised7
      7).fallNs * roadUnit ≤ raised7.mil.road) ∧
    -- clause 4
    (awake raised9 = true ∧ (pulseOf raised9 (8 + 1)).high = some (4999999900, 9999999800, false) ∧ (pulseOf raised9
      (8 + 1)).fallNs * roadUnit ≤ raised9.mil.road) ∧
    -- clause 5
    (mayWrite trigSet Requester.pcie0 (Reg.milTrigCtrl 3) 4 = true ∧ flag trigSet (Reg.milTrigCtrl 3) 1 = false ∧
      Nat.testBit 3 1 = true) ∧
    -- clause 5
    (mayWrite trigUnset Requester.pcie0 (Reg.milTrigCtrl 3) 4 = true ∧ flag trigUnset (Reg.milTrigCtrl 3) 1 = false
      ∧ Nat.testBit 2 1 = true) ∧
    -- clause 6
    (mayWrite trigSet Requester.pcie0 (Reg.milTrigPhase 3) 4 = true ∧ 999 < rd trigSet (Reg.milTrigPeriod 3)) ∧
    -- clause 6
    (mayWrite armed7s Requester.pcie0 (Reg.milTrigPhase 7) 4 = true ∧ (pulseOf armed7s 7).on = true ∧ 999 < rd
      armed7s (Reg.milTrigPeriod 7)) ∧
    -- clause 6
    (mayWrite trigSet Requester.pcie0 (Reg.milTrigPhase 3) 4 = true ∧ rd trigSet (Reg.milTrigPeriod 3) ≤ 1000) := by
  refine ⟨?_, ?_, ?_, ?_, ?_, ?_, ?_, ?_, ?_⟩ <;> decide +kernel

/-- States and operands that meet the hypotheses of `Obligations.DelayExchangesMeasureTheRoundTrip`, one group a case. -/
theorem witness_DelayExchangesMeasureTheRoundTrip :
    -- clause 1
    (awake dreqFirst = true ∧ linkUp dreqFirst 31 = true ∧ ((dlyOf dreqFirst 31).seq = 0 ∨ (dlyOf dreqFirst
      31).sentAt + dlyPeriod dreqFirst ≤ dreqFirst.cycle) ∧ (31 < 32 → turnFor dreqFirst 31 = true ∧ fcDue dreqFirst
      31 = false)) ∧
    -- clause 1
    (awake dreqFirst = true ∧ linkUp dreqFirst 32 = true ∧ ((dlyOf dreqFirst 32).seq = 0 ∨ (dlyOf dreqFirst
      32).sentAt + dlyPeriod dreqFirst ≤ dreqFirst.cycle) ∧ (32 < 32 → turnFor dreqFirst 32 = true ∧ fcDue dreqFirst
      32 = false)) ∧
    -- clause 1
    (awake dreqAgain = true ∧ linkUp dreqAgain 5 = true ∧ ((dlyOf dreqAgain 5).seq = 0 ∨ (dlyOf dreqAgain 5).sentAt
      + dlyPeriod dreqAgain ≤ dreqAgain.cycle) ∧ (5 < 32 → turnFor dreqAgain 5 = true ∧ fcDue dreqAgain 5 = false)) ∧
    -- clause 2
    (awake drspGood = true ∧ linkUp drspGood 5 = true ∧ (dlyOf drspGood 5).t1 = some (1280000000000 - 51200,
      9999920000) ∧ (dlyOf drspGood 5).seq ≠ 0 ∧ 0 = ((dlyOf drspGood 5).seq + 65535) % 65536 ∧ drspGood.cycle ≤
      9999920000 + 80000) ∧
    -- clause 3
    (awake drspGood = true ∧ linkUp drspGood 5 = true ∧ (dlyOf drspGood 5).t1 = some (1280000000000 - 51200,
      9999920000) ∧ seqLast (dlyOf drspGood 5) 7 = false ∧ (dlyOf drspGood 5).counted = false) ∧
    -- clause 4
    (awake dreqFirst = true ∧ linkUp dreqFirst 32 = true ∧ 32 ≤ 32) ∧
    -- clause 5
    (awake drspLate = true ∧ linkUp drspLate 5 = true ∧ (dlyOf drspLate 5).t1 = some (7, 9999919999) ∧ 9999919999 +
      80000 < drspLate.cycle) ∧
    -- clause 5
    (awake drspCounted = true ∧ linkUp drspCounted 5 = true ∧ (dlyOf drspCounted 5).t1 = some (7, 9999919999) ∧
      9999919999 + 80000 < drspCounted.cycle) ∧
    -- clause 6
    (awake dlyLost = true ∧ (dlyOf dlyLost 33).valid = true ∧ (dlyOf dlyLost 33).lastGood + 16 * dlyPeriod dlyLost ≤
      dlyLost.cycle) := by
  refine ⟨?_, ?_, ?_, ?_, ?_, ?_, ?_, ?_, ?_⟩ <;> decide +kernel

/-- States and operands that meet the hypotheses of `Obligations.MarksReadsAndCalibrationCarryTime`, one group a case. -/
theorem witness_MarksReadsAndCalibrationCarryTime :
    -- clause 1
    (awake markNow = true ∧ 31 < 32 ∧ linkUp markNow 31 = true ∧ markNow.mil.lastMark.nat 31 ≠ nowNs markNow / 1000
      + 1 ∧ atBoundary markNow 31 = true) ∧
    -- clause 2
    (awake slave3 = true ∧ linkUp slave3 32 = true ∧ slave3.img.weltPos ≠ 0 ∧ slave3.mil.src = 5 ∧ slave3.mil.state
      = 1 ∧ 100 * 2 ^ 32 = (↑(1280000000000 + 100) - ↑(stampAgo256 slave3 0)) * 2 ^ 32 ∧ absI (100 * 2 ^ 32) ≤
      stepLim slave3) ∧
    -- clause 2
    (awake slave7 = true ∧ linkUp slave7 32 = true ∧ slave7.img.weltPos ≠ 0 ∧ slave7.mil.src = 5 ∧ slave7.mil.state
      = 1 ∧ 0 = (↑(1280000000000 + 0) - ↑(stampAgo256 slave7 0)) * 2 ^ 32 ∧ absI 0 ≤ stepLim slave7) ∧
    -- clause 3
    (awake slave7 = true ∧ linkUp slave7 32 = true ∧ slave7.img.weltPos ≠ 0 ∧ slave7.mil.src = 5 ∧ slave7.mil.state
      = 1) ∧
    -- clause 4
    (awake clock = true ∧ mayWrite clock Requester.pcie0 Reg.milTime 4 = true) ∧
    -- clause 4
    (awake clock = true ∧ mayWrite clock Requester.benchU Reg.milTime 4 = true) ∧
    -- clause 5
    (awake calibrating = true ∧ (calibrating.mil.state = 1 ∨ calibrating.mil.state = 2) ∧ calibrating.mil.aonFrom +
      fget calibrating Reg.milHold 7 0 * 6400000 ≤ calibrating.cycle) ∧
    -- clause 5
    (awake slave3 = true ∧ (slave3.mil.state = 1 ∨ slave3.mil.state = 2) ∧ slave3.mil.aonFrom + fget slave3
      Reg.milHold 7 0 * 6400000 ≤ slave3.cycle) := by
  refine ⟨?_, ?_, ?_, ?_, ?_, ?_, ?_, ?_⟩ <;> decide +kernel

/-- States and operands that meet the hypotheses of `Obligations.CommitsTakeEightWordsTogether`, one group a case. -/
theorem witness_CommitsTakeEightWordsTogether :
    -- clause 1
    (mayWrite staging Requester.pcie0 (Reg.cblProf 63 7) 4 = true ∧ locked staging = false ∧ recordOk staging 63
      (wordsBytes (stagedWords staging (Reg.cblProf 63) 0)) = true ∧ (∃ f ∈ staging.vrd.flights, f.selected = false
      ∧ f.acc < staging.cycle ∧ ∀ e ∈ f.oldRecs, e.1 ≠ 63) ∧ (∃ f ∈ staging.vrd.flights, f.selected = true)) ∧
    -- clause 2
    (mayWrite staging Requester.pcie0 (Reg.cblProf 63 7) 4 = true ∧ locked staging = false ∧ recordOk staging 63
      (wordsBytes (stagedWords staging (Reg.cblProf 63) 1)) = false) ∧
    -- clause 2
    (mayWrite staging Requester.benchM (Reg.cblProf 62 7) 4 = true ∧ locked staging = false ∧ recordOk staging 62
      (wordsBytes (stagedWords staging (Reg.cblProf 62) 0)) = false) ∧
    -- clause 3
    (mayWrite stagingLocked Requester.pcie0 (Reg.cblProf 63 7) 4 = true ∧ locked stagingLocked = true) ∧
    -- clause 3
    (mayWrite stagingLocked Requester.pcie0 (Reg.cblProf 63 7) 4 = true ∧ locked stagingLocked = true) ∧
    -- clause 4
    (mayWrite calm Requester.pcie0 (Reg.cblSel 511 7) 4 = true) ∧
    -- clause 4
    (mayWrite calmLocked Requester.pcie0 (Reg.cblSel 511 7) 4 = true) ∧
    -- clause 5
    (mayWrite Tests.records Requester.pcie0 Reg.cblProfEn 8 = true ∧ 2 < 64 ∧ bitOf 4 2 = true ∧
      Tests.records.cbl.hasRec.get (fun _ => false) 2 = false) ∧
    -- clause 5
    (mayWrite Tests.records Requester.pcie0 Reg.cblProfEn 8 = true ∧ (∀ n, n < 64 → bitOf 2 n = true →
      Tests.records.cbl.hasRec.get (fun _ => false) n = true) ∧ (∀ p, Tests.records.mil.step = some p → 0 ≤ p.1 ∨ 2
      = 0 ∨ anyProfile Tests.records = true)) ∧
    -- clause 5
    (mayWrite recordsBack Requester.pcie0 Reg.cblProfEn 8 = true ∧ (∀ n, n < 64 → bitOf 2 n = true →
      recordsBack.cbl.hasRec.get (fun _ => false) n = true) ∧ recordsBack.mil.step = some (-7, 5000003000) ∧ (-7 :
      Int) < 0 ∧ 2 ≠ 0 ∧ anyProfile recordsBack = false ∧ recordsBack.mil.road + 2000 * roadUnit ≤ 5000003000 *
      roadUnit) ∧
    -- clause 5
    (mayWrite recordsSoon Requester.pcie0 Reg.cblProfEn 8 = true ∧ (∀ n, n < 64 → bitOf 2 n = true →
      recordsSoon.cbl.hasRec.get (fun _ => false) n = true) ∧ recordsSoon.mil.step = some (-7, 5000001000) ∧ (-7 :
      Int) < 0 ∧ 2 ≠ 0 ∧ anyProfile recordsSoon = false ∧ 5000001000 * roadUnit < recordsSoon.mil.road + 2000 *
      roadUnit) := by
  refine ⟨?_, ?_, ?_, ?_, ?_, ?_, ?_, ?_, ?_, ?_, ?_⟩ <;> decide +kernel

/-- States and operands that meet the hypotheses of `Obligations.TollAndFreshnessCommandsMoveOneBucketOrStream`, one group a case. -/
theorem witness_TollAndFreshnessCommandsMoveOneBucketOrStream :
    -- clause 1
    (mayWrite tollBusy Requester.pcie0 Reg.tolCmd 4 = true ∧ flag tollBusy Reg.tolCmd 31 = true) ∧
    -- clause 2
    (mayWrite tolled Requester.pcie0 Reg.tolCmd 4 = true ∧ flag tolled Reg.tolCmd 31 = false ∧ 9 = fget (first
      tolled) Reg.tolIdx 15 0 ∧ bitOf 1 0 = true ∧ bitOf 1 1 = false) ∧
    -- clause 3
    (mayWrite tollBad Requester.pcie0 Reg.tolCmd 4 = true ∧ flag tollBad Reg.tolCmd 31 = false ∧ bitOf 2 1 = true ∧
      flag (first tollBad) (Reg.tolData 2) 31 = true ∧ (rd (first tollBad) (Reg.tolData 1) < rd (first tollBad)
      (Reg.tolData 0) ∨ fget (first tollBad) (Reg.tolData 3) 27 0 < fget (first tollBad) (Reg.tolData 2) 27 0) ∧
      bitOf 2 0 = false) ∧
    -- clause 4
    (mayWrite tolled Requester.pcie0 Reg.tolCmd 4 = true ∧ flag tolled Reg.tolCmd 31 = false ∧ 9 = fget (first
      tolled) Reg.tolIdx 15 0 ∧ bitOf 2 1 = true ∧ (flag (first tolled) (Reg.tolData 2) 31 = true → rd (first
      tolled) (Reg.tolData 0) ≤ rd (first tolled) (Reg.tolData 1) ∧ fget (first tolled) (Reg.tolData 2) 27 0 ≤ fget
      (first tolled) (Reg.tolData 3) 27 0)) ∧
    -- clause 4
    (mayWrite tollTwo Requester.pcie0 Reg.tolCmd 4 = true ∧ flag tollTwo Reg.tolCmd 31 = false ∧ 9 = fget (first
      tollTwo) Reg.tolIdx 15 0 ∧ bitOf 7 1 = true ∧ (flag (first tollTwo) (Reg.tolData 2) 31 = true → rd (first
      tollTwo) (Reg.tolData 0) ≤ rd (first tollTwo) (Reg.tolData 1) ∧ fget (first tollTwo) (Reg.tolData 2) 27 0 ≤
      fget (first tollTwo) (Reg.tolData 3) 27 0)) ∧
    -- clause 5
    (mayWrite freshed Requester.pcie0 Reg.vrdFreshCmd 4 = true ∧ flag freshed Reg.vrdFreshCmd 31 = false ∧ 65535 =
      fget (first freshed) Reg.vrdFreshIdx 15 0 ∧ bitOf 1 0 = true ∧ bitOf 1 1 = false) ∧
    -- clause 6
    (mayWrite freshed Requester.pcie0 Reg.vrdFreshCmd 4 = true ∧ flag freshed Reg.vrdFreshCmd 31 = false ∧ 65535 =
      fget (first freshed) Reg.vrdFreshIdx 15 0 ∧ bitOf 2 1 = true) ∧
    -- clause 6
    (mayWrite freshed Requester.pcie0 Reg.vrdFreshCmd 4 = true ∧ flag freshed Reg.vrdFreshCmd 31 = false ∧ 65535 =
      fget (first freshed) Reg.vrdFreshIdx 15 0 ∧ bitOf 3 1 = true) ∧
    -- clause 7
    (KMap.find tollDone.vrd.ports Reg.tolCmd = some (10000000000, [1, 2, 3]) ∧ KMap.find tollDone.vrd.ports
      Reg.vrdFreshCmd = none ∧ 10000000000 ≤ tollDone.cycle) ∧
    -- clause 8
    (KMap.find freshDone.vrd.ports Reg.vrdFreshCmd = some (9999999999, [4, 5]) ∧ KMap.find freshDone.vrd.ports
      Reg.tolCmd = none ∧ 9999999999 ≤ freshDone.cycle) := by
  refine ⟨?_, ?_, ?_, ?_, ?_, ?_, ?_, ?_, ?_, ?_⟩ <;> decide +kernel

/-- States and operands that meet the hypotheses of `Obligations.OrdinaryAndWindowEntriesMatchAsTheSpecSays`, one group a case. -/
theorem witness_OrdinaryAndWindowEntriesMatchAsTheSpecSays :
    (arrays.tca.movePair = none) ∧
    (arrays.tca.movePair = none) ∧
    (arrays.tca.movePair = none) ∧
    (arrays.tca.movePair = none) ∧
    (arrays.tca.movePair = none) ∧
    (arrays.tca.movePair = none) := by
  refine ⟨?_, ?_, ?_, ?_, ?_, ?_⟩ <;> decide +kernel

/-- States and operands that meet the hypotheses of `Obligations.TernaryCommandsSearchReadAndWalk`, one group a case. -/
theorem witness_TernaryCommandsSearchReadAndWalk :
    -- clause 1
    (awake searchBad = true ∧ tblOf searchBad searchBadC.table = some ternT ∧ cmdOf searchBad searchBadC.id = some
      searchBadC ∧ searchBad.tcr.gone.contains searchBadC.id = false ∧ ternHead searchBad 1 true true = some
      searchBadC ∧ (searchBadC.input = some (some key20)) ∧ searchBadC.ue = true ∧ ternT.isTern = true ∧ addrOk
      searchBad searchBadC.ring searchBadC.addr (ternLen ternT 1) false = true) ∧
    -- clause 2
    (awake searchT = true ∧ tblOf searchT searchC.table = some ternT ∧ cmdOf searchT searchC.id = some searchC ∧
      searchT.tcr.gone.contains searchC.id = false ∧ ternHead searchT 1 true true = some searchC ∧ searchC.input =
      some (some key20) ∧ searchC.ue = false ∧ addrOk searchT searchC.ring searchC.addr (ternLen ternT 1) false =
      true) ∧
    -- clause 3
    (awake readT = true ∧ tblOf readT readC.table = some ternT ∧ cmdOf readT readC.id = some readC ∧
      readT.tcr.gone.contains readC.id = false ∧ ternHead readT 17 true false = some readC ∧ ternMoved readT readC
      ternT = none ∧ addrOk readT readC.ring readC.addr (ternLen ternT 17) true = true) ∧
    -- clause 4
    (awake movedT = true ∧ tblOf movedT movedC.table = some ternT ∧ cmdOf movedT movedC.id = some movedC ∧
      movedT.tcr.gone.contains movedC.id = false ∧ ternHead movedT 17 true false = some movedC ∧ ternMoved movedT
      movedC ternT = some ({ Report.plain 2 24578 7 with restart := false })) ∧
    -- clause 5
    ((awake nextT = true ∧ tblOf nextT nextC.table = some ternT ∧ cmdOf nextT nextC.id = some nextC ∧
      nextT.tcr.gone.contains nextC.id = false) ∧ ternHead nextT 2 true false = some nextC ∧ (nextC.start = true ∨
      ternMoved nextT nextC ternT = none) ∧ addrOk nextT nextC.ring nextC.addr (ternLen ternT 2) true = true) ∧
    -- clause 5
    ((awake endT = true ∧ tblOf endT endC.table = some ternT ∧ cmdOf endT endC.id = some endC ∧
      endT.tcr.gone.contains endC.id = false) ∧ ternHead endT 2 true false = some endC ∧ (endC.start = true ∨
      ternMoved endT endC ternT = none) ∧ addrOk endT endC.ring endC.addr (ternLen ternT 2) true = true) ∧
    -- clause 6
    ((awake finding = true ∧ tblOf finding nextC.table = some ternT ∧ cmdOf finding nextC.id = some nextC ∧
      finding.tcr.gone.contains nextC.id = false) ∧ finding.tca.rop = some ⟨nextC.id, 2, nextC.table, 10000000001,
      [], 0, nextC.handle, false, []⟩ ∧ (nextC.start = true ∨ ternMoved finding nextC ternT = none) ∧ finding.cycle
      < 10000000001) ∧
    -- clause 6
    ((awake found = true ∧ tblOf found nextC.table = some ternT ∧ cmdOf found nextC.id = some nextC ∧
      found.tcr.gone.contains nextC.id = false) ∧ found.tca.rop = some ⟨nextC.id, 2, nextC.table, 10000000000, [],
      0, nextC.handle, false, []⟩ ∧ (nextC.start = true ∨ ternMoved found nextC ternT = none) ∧ 10000000000 ≤
      found.cycle ∧ found.tca.movePair = none ∧ 24578 ∈ validHeads found ternT ∧ (nextC.start = true ∨ nextC.handle
      < 24578) ∧ (∀ x ∈ validHeads found ternT, nextC.start = true ∨ nextC.handle < x → 24578 ≤ x)) ∧
    -- clause 6
    ((awake found2 = true ∧ tblOf found2 nextC2.table = some ternT ∧ cmdOf found2 nextC2.id = some nextC2 ∧
      found2.tcr.gone.contains nextC2.id = false) ∧ found2.tca.rop = some ⟨nextC2.id, 2, nextC2.table, 9999999999,
      [], 0, nextC2.handle, false, []⟩ ∧ (nextC2.start = true ∨ ternMoved found2 nextC2 ternT = none) ∧ 9999999999 ≤
      found2.cycle ∧ found2.tca.movePair = none ∧ 24578 ∈ validHeads found2 ternT ∧ (nextC2.start = true ∨
      nextC2.handle < 24578) ∧ (∀ x ∈ validHeads found2 ternT, nextC2.start = true ∨ nextC2.handle < x → 24578 ≤ x)) ∧
    -- clause 6
    ((awake ended = true ∧ tblOf ended endC.table = some ternT ∧ cmdOf ended endC.id = some endC ∧
      ended.tcr.gone.contains endC.id = false) ∧ ended.tca.rop = some ⟨endC.id, 2, endC.table, 10000000000, [], 0,
      endC.handle, false, []⟩ ∧ (endC.start = true ∨ ternMoved ended endC ternT = none) ∧ 10000000000 ≤ ended.cycle
      ∧ (∀ x ∈ validHeads ended ternT, ¬(endC.start = true ∨ endC.handle < x))) := by
  refine ⟨?_, ?_, ?_, ?_, ?_, ?_, ?_, ?_, ?_, ?_⟩ <;> decide +kernel

/-- States and operands that meet the hypotheses of `Obligations.TernaryCommandsWriteEntries`, one group a case. -/
theorem witness_TernaryCommandsWriteEntries :
    -- clause 1
    (awake insertT = true ∧ tblOf insertT insertC.table = some ternT ∧ cmdOf insertT insertC.id = some insertC ∧
      insertT.tcr.gone.contains insertC.id = false ∧ ternHead insertT 3 false true = some insertC ∧ insertC.input =
      some (some img2) ∧ insertC.ue = false ∧ isOrdered ternT = false ∧ addrOk insertT insertC.ring insertC.addr (ternLen ternT 3) false
      = true ∧ imageOk ternT img2 = true ∧ tcaEntries insertT insertC.table ternT < capacity insertT ternT ∧
      (freeSlots insertT ternT (firstRow ternT) (endRow ternT)).head? = some 24576) ∧
    -- clause 2
    (awake fullT = true ∧ tblOf fullT insertC.table = some ternT ∧ cmdOf fullT insertC.id = some insertC ∧
      fullT.tcr.gone.contains insertC.id = false ∧ ternHead fullT 3 false true = some insertC ∧ insertC.input = some
      (some img2) ∧ insertC.ue = false ∧ addrOk fullT insertC.ring insertC.addr (ternLen ternT 3) false = true ∧ imageOk ternT img2 =
      true ∧ capacity fullT ternT ≤ tcaEntries fullT insertC.table ternT) ∧
    -- clause 3
    (awake writeT = true ∧ tblOf writeT writeC.table = some ternT ∧ cmdOf writeT writeC.id = some writeC ∧
      writeT.tcr.gone.contains writeC.id = false ∧ ternHead writeT 16 false true = some writeC ∧ writeC.input = some
      (some img2) ∧ writeC.ue = false ∧ addrOk writeT writeC.ring writeC.addr (ternLen ternT 16) false = true ∧ imageOk ternT img2 =
      true) ∧
    -- clause 3
    (awake writeT2 = true ∧ tblOf writeT2 writeC2.table = some ternT ∧ cmdOf writeT2 writeC2.id = some writeC2 ∧
      writeT2.tcr.gone.contains writeC2.id = false ∧ ternHead writeT2 16 false true = some writeC2 ∧ writeC2.input =
      some (some img2) ∧ writeC2.ue = false ∧ addrOk writeT2 writeC2.ring writeC2.addr (ternLen ternT 16) false = true ∧ imageOk ternT
      img2 = true) ∧
    -- clause 4
    (awake deleteT = true ∧ tblOf deleteT deleteC.table = some ternT ∧ cmdOf deleteT deleteC.id = some deleteC ∧
      deleteT.tcr.gone.contains deleteC.id = false ∧ ternHead deleteT 4 false false = some deleteC ∧ ternMoved
      deleteT deleteC ternT = none) ∧
    -- clause 4
    (awake deleteT2 = true ∧ tblOf deleteT2 deleteC2.table = some ternT ∧ cmdOf deleteT2 deleteC2.id = some deleteC2
      ∧ deleteT2.tcr.gone.contains deleteC2.id = false ∧ ternHead deleteT2 4 false false = some deleteC2 ∧ ternMoved
      deleteT2 deleteC2 ternT = none) ∧
    -- clause 5
    (awake moveT = true ∧ tblOf moveT moveC.table = some ternT ∧ cmdOf moveT moveC.id = some moveC ∧
      moveT.tcr.gone.contains moveC.id = false ∧ ternHead moveT 5 false false = some moveC ∧ ternMoved moveT moveC
      ternT = none ∧ (trow moveT moveC.handle).valid = true ∧ (trow moveT moveC.dst).valid = false ∧ isOrdered ternT
      = false) ∧
    -- clause 6
    (awake updateT = true ∧ tblOf updateT updateC.table = some ternT ∧ cmdOf updateT updateC.id = some updateC ∧
      updateT.tcr.gone.contains updateC.id = false ∧ ternHead updateT 18 false true = some updateC ∧ updateC.input =
      some (some (List.replicate 8 3)) ∧ updateC.ue = false ∧ ternMoved updateT updateC ternT = none ∧ addrOk updateT updateC.ring
      updateC.addr 8 false = true ∧ (trow updateT updateC.handle).valid = true) ∧
    -- clause 7
    ((updating 10000000001).tca.wop = some ⟨updateC.id, 0x12, 2, 10000000001, [], 0, 24578, false, []⟩ ∧
      cmdOf (updating 10000000001) updateC.id = some updateC ∧ updateC.input = some (some (List.replicate 8 3)) ∧ updateC.ue = false ∧
      (updating 10000000001).cycle < 10000000001) ∧
    -- clause 7
    (awake (updating 10000000000) = true ∧ tblOf (updating 10000000000) updateC.table = some ternT ∧
      (updating 10000000000).tca.wop = some ⟨updateC.id, 0x12, 2, 10000000000, [], 0, 24578, false, []⟩ ∧
      cmdOf (updating 10000000000) updateC.id = some updateC ∧
      (updating 10000000000).tcr.gone.contains updateC.id = false ∧ 10000000000 ≤ (updating 10000000000).cycle) ∧
    -- clause 8
    (awake wipeT = true ∧ tblOf wipeT wipeC.table = some winT ∧ cmdOf wipeT wipeC.id = some wipeC ∧
      wipeT.tcr.gone.contains wipeC.id = false ∧ ternHead wipeT 19 false false = some wipeC) := by
  refine ⟨?_, ?_, ?_, ?_, ?_, ?_, ?_, ?_, ?_, ?_, ?_⟩ <;> decide +kernel

/-- States and operands that meet the hypotheses of `Obligations.RowAccessesAndThrottleFollowTheirRules`, one group a case. -/
theorem witness_RowAccessesAndThrottleFollowTheirRules :
    -- clause 1
    (awake calm = true ∧ calm.tca.windowAt ≠ calm.cycle / 800) ∧
    -- clause 2
    (awake rowT = true ∧ bestRow rowT = some rowReq ∧ rowReq.purpose = Purpose.row false ∧ rowT.tca.wop = some
      rowOpW ∧ tblOf rowT rowOpW.table = some ternT ∧ rowOpW.script = [RowOp.write 24589 (row 8 255 false) none,
      RowOp.write 24588 (row 7 255 true) (some (9, 3))]) ∧
    -- clause 2
    (awake rowT1 = true ∧ bestRow rowT1 = some rowReq ∧ rowReq.purpose = Purpose.row false ∧ rowT1.tca.wop = some
      rowOpW ∧ tblOf rowT1 rowOpW.table = some ternT ∧ rowOpW.script = [RowOp.write 24589 (row 8 255 false) none,
      RowOp.write 24588 (row 7 255 true) (some (9, 3))]) ∧
    -- clause 3
    (awake calm = true) ∧
    -- clause 3
    (awake calm = true) ∧
    -- clause 3
    (awake level1 = true) ∧
    -- clause 3
    (awake level1 = true) ∧
    -- clause 3
    (awake level3 = true) ∧
    -- clause 3
    (awake calm = true) := by
  refine ⟨?_, ?_, ?_, ?_, ?_, ?_, ?_, ?_, ?_⟩ <;> decide +kernel

/-- States and operands that meet the hypotheses of `Obligations.RingsFetchAcceptAndPostInOrder`, one group a case. -/
theorem witness_RingsFetchAcceptAndPostInOrder :
    -- clause 1
    (mayWrite ringOn Requester.pcie0 (Reg.hstTcrTail 3) 4 = true) ∧
    -- clause 1
    (mayWrite ringOn Requester.pcie0 (Reg.hstTcrTail 3) 4 = true) ∧
    -- clause 1
    (mayWrite calm Requester.pcie0 (Reg.hstTcrTail 0) 4 = true) ∧
    -- clause 2
    (mayWrite ringSet Requester.pcie0 (Reg.hstTcrCtrl 1) 4 = true ∧ flag ringSet (Reg.hstTcrCtrl 1) 4 = false ∧
      bitOf 20 4 = true ∧ bitsOf 20 3 0 = fget ringSet (Reg.hstTcrCtrl 1) 3 0 ∧ 4 ≤ bitsOf 20 3 0 ∧ bitsOf 20 3 0 ≤
      12 ∧ ringBasesOk ringSet 1 = true) ∧
    -- clause 3
    (awake ringHead = true ∧ nextRing ringHead = some 1 ∧ ringHead.tcr.fetchCycle ≤ ringHead.cycle ∧ bitOf (rd
      ringHead (Reg.hstTcrBase 1)) 63 = false ∧ asks ringHead (.slot 1) = false) ∧
    -- clause 4
    (bitOf (rd ringHeadSpm (Reg.hstTcrBase 1)) 63 = true) ∧
    -- clause 5
    (awake complT = true ∧ complT.tcr.compl = Tests.compl :: [] ∧ complT.tcr.postCycle ≤ complT.cycle ∧
      Tests.compl.ring < 4 ∧ (bitOf (rd complT (Reg.hstTcrCbase Tests.compl.ring)) 63 = true → complT.spm.waiting =
      [] ∧ complT.spm.portCycle ≤ complT.cycle ∧ complT.nvc.wipeAt = none) ∧ asks complT (.put (some
      Tests.compl.ring)) = false ∧ asks complT (.compl Tests.compl.ring) = false) ∧
    -- clause 5
    (awake complSpm = true ∧ complSpm.tcr.compl = Tests.compl :: [] ∧ complSpm.tcr.postCycle ≤ complSpm.cycle ∧
      Tests.compl.ring < 4 ∧ (bitOf (rd complSpm (Reg.hstTcrCbase Tests.compl.ring)) 63 = true →
      complSpm.spm.waiting = [] ∧ complSpm.spm.portCycle ≤ complSpm.cycle ∧ complSpm.nvc.wipeAt = none) ∧ asks
      complSpm (.put (some Tests.compl.ring)) = false ∧ asks complSpm (.compl Tests.compl.ring) = false) ∧
    -- clause 6
    (awake calm = true ∧ calm.tcr.compl = []) ∧
    -- clause 7
    (awake calm = true ∧ nextRing calm = none) := by
  refine ⟨?_, ?_, ?_, ?_, ?_, ?_, ?_, ?_, ?_, ?_⟩ <;> decide +kernel

/-- States and operands that meet the hypotheses of `Obligations.SignaturesAndRebuildsKeepTheirPlace`, one group a case. -/
theorem witness_SignaturesAndRebuildsKeepTheirPlace :
    -- clause 1
    (awake sigOn = true ∧ flag sigOn Reg.tcaCtrl 0 = true ∧ sigRuns sigOn = true ∧ sigOn.tca.lapOpen = false ∧ (∀ x,
      sigOn.tca.lapStart = some x → x + fget sigOn Reg.tcaCtrl 31 24 * 800000 ≤ sigOn.cycle)) ∧
    -- clause 1
    (awake sigAgain = true ∧ flag sigAgain Reg.tcaCtrl 0 = true ∧ sigRuns sigAgain = true ∧ sigAgain.tca.lapOpen =
      false ∧ (∀ x, sigAgain.tca.lapStart = some x → x + fget sigAgain Reg.tcaCtrl 31 24 * 800000 ≤ sigAgain.cycle)) ∧
    -- clause 1
    (awake sigEarly = true ∧ sigEarly.tca.lapStart = some (10000000000 - 799999) ∧ sigEarly.cycle < 10000000000 -
      799999 + fget sigEarly Reg.tcaCtrl 31 24 * 800000) ∧
    -- clause 2
    (sigGoes.tca.sigRegion = some 6 ∧ sigGoes.tca.sigRows < 4096 ∧ (flag sigGoes Reg.tcaCtrl 0 = true ∨
      sigGoes.tca.sigOnDemand = true ∨ sigGoes.tca.sigReq.isSome = true) ∧ sigRuns sigGoes = true ∧ lastSlotFree
      sigGoes = true) ∧
    -- clause 2
    (sigLast.tca.sigRegion = some 6 ∧ sigLast.tca.sigRows < 4096 ∧ (flag sigLast Reg.tcaCtrl 0 = true ∨
      sigLast.tca.sigOnDemand = true ∨ sigLast.tca.sigReq.isSome = true) ∧ sigRuns sigLast = true ∧ lastSlotFree
      sigLast = true ∧ sigLast.tca.sigRows = 4095 ∧ sigLast.tca.sigDirty = false) ∧
    -- clause 2
    (sigRests.tca.sigRegion = some 6 ∧ sigRests.tca.sigRows < 4096 ∧ (flag sigRests Reg.tcaCtrl 0 = true ∨
      sigRests.tca.sigOnDemand = true ∨ sigRests.tca.sigReq.isSome = true) ∧ (sigRuns sigRests = false ∨
      lastSlotFree sigRests = false)) ∧
    -- clause 3
    (awake sigClean = true ∧ sigClean.tca.sigRegion = some 6 ∧ sigClean.tca.sigRead = some (4999999000, 0xABCD) ∧
      sigClean.tca.sigDirty = false) ∧
    -- clause 3
    (awake sigDirty = true ∧ sigDirty.tca.sigRegion = some 6 ∧ sigDirty.tca.sigRead = some (4999999000, 0xABCD) ∧
      sigDirty.tca.sigDirty = true) ∧
    -- clause 4
    (awake sigWaiting = true ∧ sigWaiting.tca.sigWait = [(6, 5, false, false, 3)] ∧ fget sigWaiting Reg.tcaSigSize 3
      0 ≠ 0 ∧ sigFull sigWaiting = false ∧ sigWaiting.spm.waiting = [] ∧ sigWaiting.spm.portCycle ≤ sigWaiting.cycle
      ∧ sigWaiting.nvc.wipeAt = none) ∧
    -- clause 5
    (mayWrite sigStop Requester.pcie0 Reg.tcaSigReq 4 = true ∧ bitOf (2 ^ 31 + 6) 31 = true ∧ sigRuns sigStop =
      false) ∧
    -- clause 5
    (mayWrite sigIdle Requester.pcie0 Reg.tcaSigReq 4 = true ∧ bitOf (2 ^ 31 + 6) 31 = true ∧ sigRuns sigIdle = true
      ∧ sigIdle.tca.sigRegion = none ∧ sigIdle.tca.sigWait = []) ∧
    -- clause 5
    (mayWrite sigOn Requester.pcie0 Reg.tcaSigReq 4 = true ∧ bitOf 6 31 = false) ∧
    -- clause 6
    (mayWrite rebuildSet Requester.pcie0 Reg.tcaRebuildCtrl 4 = true) ∧
    -- clause 6
    (mayWrite rebuilding Requester.pcie0 Reg.tcaRebuildCtrl 4 = true) ∧
    -- clause 7
    (mayWrite rebuilding Requester.pcie0 Reg.tcaRebuildCtrl 4 = true) := by
  refine ⟨?_, ?_, ?_, ?_, ?_, ?_, ?_, ?_, ?_, ?_, ?_, ?_, ?_, ?_, ?_⟩ <;> decide +kernel

/-- States and operands that meet the hypotheses of `Obligations.DramTableCommandsBeginWithTheirReads`, one group a case. -/
theorem witness_DramTableCommandsBeginWithTheirReads :
    -- clause 1
    (awake hSearchS = true ∧ tblOf hSearchS hSearch.table = some hashT ∧ cmdOf hSearchS hSearch.id = some hSearch ∧
      hSearchS.tcr.gone.contains hSearch.id = false ∧ ((dramHead hSearchS 1 fun _ => true) = some hSearch) ∧
      hshWiping hSearchS hSearch.table = false ∧ hSearch.input = some (some (List.replicate 8 9)) ∧ hSearch.ue =
      false ∧ hSearchS.hsh.keys = [] ∧ addrOk hSearchS hSearch.ring hSearch.addr (cdiv hashT.keyBits 8) false = true
      ∧ fieldAt (List.replicate 8 9) 0 (cdiv hashT.keyBits 8) < 2 ^ hashT.keyBits ∧ 0 < keysLeft hSearchS ∧
      hashT.kind ≠ 5) ∧
    -- clause 1
    (awake hSearchFull = true ∧ tblOf hSearchFull hSearch.table = some hashT ∧ cmdOf hSearchFull hSearch.id = some
      hSearch ∧ hSearchFull.tcr.gone.contains hSearch.id = false ∧ ((dramHead hSearchFull 1 fun _ => true) = some
      hSearch) ∧ hshWiping hSearchFull hSearch.table = false ∧ hSearch.input = some (some (List.replicate 8 9)) ∧
      hSearch.ue = false ∧ hSearchFull.hsh.keys = [] ∧ addrOk hSearchFull hSearch.ring hSearch.addr (cdiv
      hashT.keyBits 8) false = true ∧ fieldAt (List.replicate 8 9) 0 (cdiv hashT.keyBits 8) < 2 ^ hashT.keyBits ∧
      keysLeft hSearchFull = 0) ∧
    -- clause 1
    (awake pSearchS = true ∧ tblOf pSearchS pSearch.table = some prefT ∧ cmdOf pSearchS pSearch.id = some pSearch ∧
      pSearchS.tcr.gone.contains pSearch.id = false ∧ ((dramHead pSearchS 1 fun _ => true) = some pSearch) ∧
      hshWiping pSearchS pSearch.table = false ∧ pSearch.input = some (some (List.replicate 4 9)) ∧ pSearch.ue =
      false ∧ pSearchS.hsh.keys = [] ∧ addrOk pSearchS pSearch.ring pSearch.addr (cdiv prefT.keyBits 8) false = true
      ∧ fieldAt (List.replicate 4 9) 0 (cdiv prefT.keyBits 8) < 2 ^ prefT.keyBits ∧ 0 < keysLeft pSearchS ∧
      prefT.kind = 5) ∧
    -- clause 2
    (awake hInsertS = true ∧ tblOf hInsertS hInsert.table = some hashT ∧ cmdOf hInsertS hInsert.id = some hInsert ∧
      hInsertS.tcr.gone.contains hInsert.id = false ∧ ((dramHead hInsertS 3 fun _ => true) = some hInsert) ∧
      hshWiping hInsertS hInsert.table = false ∧ hInsert.input = some (some (zeroImg hashT)) ∧ hInsert.ue = false ∧ addrOk hInsertS
      hInsert.ring hInsert.addr (imageLen hashT) false = true ∧ imageFormatOk hashT (zeroImg hashT) true = true) ∧
    -- clause 2
    (awake pInsertS = true ∧ tblOf pInsertS pInsert2.table = some prefT ∧ cmdOf pInsertS pInsert2.id = some pInsert2
      ∧ pInsertS.tcr.gone.contains pInsert2.id = false ∧ ((dramHead pInsertS 3 fun _ => true) = some pInsert2) ∧
      hshWiping pInsertS pInsert2.table = false ∧ pInsert2.input = some (some pImg) ∧ pInsert2.ue = false ∧ addrOk pInsertS pInsert2.ring
      pInsert2.addr (imageLen prefT) false = true ∧ imageFormatOk prefT pImg true = true) ∧
    -- clause 2
    (awake hInsertB = true ∧ tblOf hInsertB hInsert.table = some hashT ∧ cmdOf hInsertB hInsert.id = some hInsert ∧
      hInsertB.tcr.gone.contains hInsert.id = false ∧ ((dramHead hInsertB 3 fun _ => true) = some hInsert) ∧
      hshWiping hInsertB hInsert.table = false ∧ hInsert.input = some (some (zeroImg hashT)) ∧ hInsert.ue = false ∧ addrOk hInsertB
      hInsert.ring hInsert.addr (imageLen hashT) false = true ∧ imageFormatOk hashT (zeroImg hashT) true = true) ∧
    -- clause 3
    (awake hReadS = true ∧ tblOf hReadS hRead.table = some hashT ∧ cmdOf hReadS hRead.id = some hRead ∧
      hReadS.tcr.gone.contains hRead.id = false ∧ hRead.byKey = false ∧ hStash hRead.handle = false ∧ hshWiping
      hReadS hRead.table = false ∧ dramMoved hReadS hRead = none ∧ 1048580 = subBase hReadS hRead.table hashT
      (hLenix hRead.handle) + hBucket hRead.handle ∧ ((dramHead hReadS 17 fun x => x.byKey) = some hRead) ∧
      hRead.input = none ∧ addrOk hReadS hRead.ring hRead.addr (imageLen hashT) true = true) ∧
    -- clause 3
    (awake pReadS = true ∧ tblOf pReadS pRead.table = some prefT ∧ cmdOf pReadS pRead.id = some pRead ∧
      pReadS.tcr.gone.contains pRead.id = false ∧ pRead.byKey = false ∧ hStash pRead.handle = false ∧ hshWiping
      pReadS pRead.table = false ∧ dramMoved pReadS pRead = none ∧ subBase pReadS 6 prefT 1 + 4 = subBase pReadS
      pRead.table prefT (hLenix pRead.handle) + hBucket pRead.handle ∧ ((dramHead pReadS 17 fun x => x.byKey) = some
      pRead) ∧ pRead.input = none ∧ addrOk pReadS pRead.ring pRead.addr (imageLen prefT) true = true) ∧
    -- clause 3
    (awake hDeleteS = true ∧ tblOf hDeleteS hDelete.table = some hashT ∧ cmdOf hDeleteS hDelete.id = some hDelete ∧
      hDeleteS.tcr.gone.contains hDelete.id = false ∧ hDelete.byKey = false ∧ hStash hDelete.handle = false ∧
      hshWiping hDeleteS hDelete.table = false ∧ dramMoved hDeleteS hDelete = none ∧ 1048580 = subBase hDeleteS
      hDelete.table hashT (hLenix hDelete.handle) + hBucket hDelete.handle ∧ ((dramHead hDeleteS 4 fun x => x.byKey)
      = some hDelete) ∧ hDelete.input = none ∧ laneOpen hDeleteS hDelete.table [1048580] = true) ∧
    -- clause 3
    (awake hUpdateS = true ∧ tblOf hUpdateS hUpdate.table = some hashT ∧ cmdOf hUpdateS hUpdate.id = some hUpdate ∧
      hUpdateS.tcr.gone.contains hUpdate.id = false ∧ hUpdate.byKey = false ∧ hStash hUpdate.handle = false ∧
      hshWiping hUpdateS hUpdate.table = false ∧ dramMoved hUpdateS hUpdate = none ∧ 1048580 = subBase hUpdateS
      hUpdate.table hashT (hLenix hUpdate.handle) + hBucket hUpdate.handle ∧ ((dramHead hUpdateS 18 fun _ => true) =
      some hUpdate) ∧ hUpdate.input = some (some (zeroImg hashT)) ∧ hUpdate.ue = false ∧ addrOk hUpdateS hUpdate.ring hUpdate.addr
      (imageLen hashT) false = true ∧ imageHeaderOk hashT (zeroImg hashT) = true ∧ laneOpen hUpdateS hUpdate.table
      [1048580] = true) ∧
    -- clause 4
    (awake hMovedS = true ∧ tblOf hMovedS hMoved.table = some hashT ∧ cmdOf hMovedS hMoved.id = some hMoved ∧
      hMovedS.tcr.gone.contains hMoved.id = false ∧ ((dramHead hMovedS 4 fun x => x.byKey) = some hMoved) ∧
      hMoved.byKey = false ∧ hshWiping hMovedS hMoved.table = false ∧ dramMoved hMovedS hMoved = some (Report.plain
      2 21 7)) ∧
    -- clause 5
    (awake hInsertW = true ∧ tblOf hInsertW hInsert.table = some hashT ∧ cmdOf hInsertW hInsert.id = some hInsert ∧
      hInsertW.tcr.gone.contains hInsert.id = false ∧ ((dramHead hInsertW 3 fun _ => true) = some hInsert) ∧
      hshWiping hInsertW hInsert.table = true) := by
  refine ⟨?_, ?_, ?_, ?_, ?_, ?_, ?_, ?_, ?_, ?_, ?_, ?_⟩ <;> decide +kernel

/-- States and operands that meet the hypotheses of `Obligations.DramTablesAreWalkedWipedFlushedAndWeighted`, one group a case. -/
theorem witness_DramTablesAreWalkedWipedFlushedAndWeighted :
    -- clause 1
    (awake hNextS = true ∧ tblOf hNextS hNext.table = some hashT ∧ ((dramHead hNextS 2 fun _ => false) = some hNext)
      ∧ hshWiping hNextS hNext.table = false ∧ hNext.input = none ∧ (hNext.start = true ∧ 0 = 0 ∨ hNext.start =
      false ∧ nextMoved hNextS hNext = none ∧ 0 = scanPos hNextS hNext.table hashT hNext.handle) ∧ addrOk hNextS
      hNext.ring hNext.addr (imageLen hashT) true = true ∧ scanGrans hNextS hNext.table hashT 0 ≠ []) ∧
    -- clause 1
    (awake pNextS = true ∧ tblOf pNextS pNext.table = some prefT ∧ ((dramHead pNextS 2 fun _ => false) = some pNext)
      ∧ hshWiping pNextS pNext.table = false ∧ pNext.input = none ∧ (pNext.start = true ∧ scanPos pNextS 6 prefT (2
      ^ 29 + 17) = 0 ∨ pNext.start = false ∧ nextMoved pNextS pNext = none ∧ scanPos pNextS 6 prefT (2 ^ 29 + 17) =
      scanPos pNextS pNext.table prefT pNext.handle) ∧ addrOk pNextS pNext.ring pNext.addr (imageLen prefT) true =
      true ∧ scanGrans pNextS pNext.table prefT (scanPos pNextS 6 prefT (2 ^ 29 + 17)) ≠ []) ∧
    -- clause 2
    (awake hWipeS = true ∧ tblOf hWipeS hWipe.table = some hashT ∧ ((dramHead hWipeS 19 fun _ => false) = some
      hWipe) ∧ (∀ o ∈ hWipeS.hsh.ops, o.table = hWipe.table → isWriteOp o.opcode = false)) ∧
    -- clause 2
    (awake pWipeS = true ∧ tblOf pWipeS pWipe.table = some prefT ∧ ((dramHead pWipeS 19 fun _ => false) = some
      pWipe) ∧ (∀ o ∈ pWipeS.hsh.ops, o.table = pWipe.table → isWriteOp o.opcode = false) ∧ flag pWipeS
      Reg.intFlipCtrl 31 = false ∧ bloomBase pWipeS pWipe.table + 16 * prefT.bloom ≤ 2 ^ 36 ∧ 0 < 1024 * prefT.bloom
      ∧ prefT.kind = 5 ∧ stashAt pWipeS pWipe.table 63 = none) ∧
    -- clause 3
    (awake hFlushB = true ∧ ((dramHead hFlushB 6 fun _ => false) = some hFlush) ∧ cmdOf hFlushB hFlush.id = some
      hFlush ∧ hFlushB.tcr.gone.contains hFlush.id = false ∧ hshWiping hFlushB hFlush.table = false ∧
      hFlushB.age.flush.isSome = true) ∧
    -- clause 4
    (awake hFlushS = true ∧ ((dramHead hFlushS 6 fun _ => false) = some hFlush) ∧ tblOf hFlushS hFlush.table = some
      hashT ∧ hshWiping hFlushS hFlush.table = false ∧ hFlushS.age.flush = none ∧ 0 < bucketGrans hFlushS
      hFlush.table) ∧
    -- clause 5
    (mayWrite share Requester.pcie0 Reg.hshPfxShare 4 = true ∧ 77 % 256 ≠ 0 ∧ locked share = false ∧ hshEntries
      share (pfxTable share) = 0) ∧
    -- clause 5
    (mayWrite share Requester.pcie0 Reg.hshPfxShare 4 = true ∧ 0 % 256 = 0) ∧
    -- clause 5
    (mayWrite shareBusy Requester.pcie0 Reg.hshPfxShare 4 = true ∧ 77 % 256 ≠ 0 ∧ locked shareBusy = false ∧
      hshEntries shareBusy (pfxTable shareBusy) ≠ 0) := by
  refine ⟨?_, ?_, ?_, ?_, ?_, ?_, ?_, ?_, ?_⟩ <;> decide +kernel

/-- States and operands that meet the hypotheses of `Obligations.WaymarksSettleGroupAndGiveWayToNewOnes`, one group a case. -/
theorem witness_WaymarksSettleGroupAndGiveWayToNewOnes :
    -- clause 1
    (awake settling = true ∧ dueRelease settling = some (insertOf 6000) ∧ str3 = streamOf settling (insertOf
      6000).stream ∧ str3.owned ≠ 0 ∧ mustClose settling (insertOf 6000) = false ∧ str3.bad = false ∧ streamBad
      settling (insertOf 6000).stream = false ∧ pageBad settling str3.openPage = false) ∧
    -- clause 1
    (awake settling0 = true ∧ dueRelease settling0 = some (insertOf 6000) ∧ ({ str3 with placed := 0 }) = streamOf
      settling0 (insertOf 6000).stream ∧ ({ str3 with placed := 0 }).owned ≠ 0 ∧ mustClose settling0 (insertOf 6000)
      = false ∧ ({ str3 with placed := 0 }).bad = false ∧ streamBad settling0 (insertOf 6000).stream = false ∧
      pageBad settling0 ({ str3 with placed := 0 }).openPage = false) ∧
    -- clause 2
    (awake grouped = true ∧ heldM grouped 46 true = false ∧ dueGroup grouped = some (9, 0) ∧ (groupRecs grouped 9
      0).any (fun r => badWords grouped 8 (placeWord r.place) 4) = false) ∧
    -- clause 2
    (awake groupedBad = true ∧ heldM groupedBad 46 true = false ∧ dueGroup groupedBad = some (9, 0) ∧ (groupRecs
      groupedBad 9 0).any (fun r => badWords groupedBad 8 (placeWord r.place) 4) = true) ∧
    -- clause 3
    (awake headerDue = true ∧ heldM headerDue 46 true = false ∧ dueGroup headerDue = none ∧ dueHeader headerDue =
      some 36) ∧
    -- clause 4
    (awake (holding 46) = true ∧ heldM (holding 46) 46 true = true) ∧
    -- clause 5
    (awake timed9 = true ∧ heldM timed9 46 true = false ∧ timedGroup timed9 = some (9, 1)) ∧
    -- clause 6
    (awake pressed = true ∧ pressureOn pressed = true ∧ pressed.way.nextFree ≤ pressed.cycle ∧ victim pressed = some
      3) ∧
    -- clause 7
    (awake easy = true ∧ pressureOn easy = false) ∧
    -- clause 8
    (awake visitSoon = true ∧ visitSoon.cycle < visitSoon.way.visitAt) ∧
    -- clause 9
    (awake visiting = true ∧ writerIdle visiting = true ∧ visiting.way.visitAt ≤ visiting.cycle ∧ agedOut visiting
      visiting.way.visit = true) ∧
    -- clause 9
    (awake visitLast = true ∧ writerIdle visitLast = true ∧ visitLast.way.visitAt ≤ visitLast.cycle ∧ agedOut
      visitLast visitLast.way.visit = false) := by
  refine ⟨?_, ?_, ?_, ?_, ?_, ?_, ?_, ?_, ?_, ?_, ?_, ?_⟩ <;> decide +kernel

/-- States and operands that meet the hypotheses of `Obligations.LookBackFlushAndQuotasOfStreams`, one group a case. -/
theorem witness_LookBackFlushAndQuotasOfStreams :
    -- clause 1
    (awake queryS = true ∧ ((headWith queryS 32 fun _ => true) = some queryC) ∧ addrOk queryS queryC.ring
      queryC.addr 32 true = true ∧ streamBad queryS (bitsOf queryC.arg0 15 0) = false ∧ (∀ q ∈ segPages queryS
      (bitsOf queryC.arg0 15 0), pageBad queryS q = false) ∧ (List.find? (fun q => decide ((pageOf queryS q).fill >
      0) && decide ((pageOf queryS q).milestone + (pageOf queryS q).lastOfs ≥ queryC.arg1)) (segPages queryS (bitsOf
      queryC.arg0 15 0)) = some 9)) ∧
    -- clause 2
    (awake queryLS = true ∧ ((headWith queryLS 32 fun _ => true) = some queryL) ∧ addrOk queryLS queryL.ring
      queryL.addr 32 true = true ∧ streamBad queryLS (bitsOf queryL.arg0 15 0) = false ∧ (∀ q ∈ segPages queryLS
      (bitsOf queryL.arg0 15 0), pageBad queryLS q = false) ∧ (∀ q ∈ segPages queryLS (bitsOf queryL.arg0 15 0),
      (pageOf queryLS q).fill = 0 ∨ (pageOf queryLS q).milestone + (pageOf queryLS q).lastOfs < queryL.arg1)) ∧
    -- clause 3
    (queryOver.way.ended = [(10000000000, lateQ, lateRes, false)] ∧ 10000000000 ≤ queryOver.cycle ∧ lateQ.who = .cmd
      queryL.id ∧ lateRes.status = 3 ∧ cmdOf queryOver queryL.id = some queryL ∧ queryOver.tcr.gone.contains
      queryL.id = false) ∧
    -- clause 4
    (awake wnextBad = true ∧ ((headWith wnextBad 33 fun _ => true) = some (wnextOf 8 9 7)) ∧ cmdOf wnextBad 1 = some
      (wnextOf 8 9 7) ∧ wnextBad.tcr.gone.contains 1 = false ∧ pageBad wnextBad 9 = true) ∧
    -- clause 4
    (awake wnextStale = true ∧ ((headWith wnextStale 33 fun _ => true) = some (wnextOf 7 9 0)) ∧ cmdOf wnextStale 1
      = some (wnextOf 7 9 0) ∧ wnextStale.tcr.gone.contains 1 = false ∧ pageBad wnextStale 9 = false ∧ streamBad
      wnextStale (pageOf wnextStale 9).stream = false ∧ ((pageOf wnextStale 9).owned = false ∨ (pageOf wnextStale
      9).use ≠ bitsOf (wnextOf 7 9 0).handle 47 32)) ∧
    -- clause 4
    (awake wnextIn = true ∧ ((headWith wnextIn 33 fun _ => true) = some (wnextOf 8 9 7)) ∧ cmdOf wnextIn 1 = some
      (wnextOf 8 9 7) ∧ wnextIn.tcr.gone.contains 1 = false ∧ pageBad wnextIn 9 = false ∧ streamBad wnextIn (pageOf
      wnextIn 9).stream = false ∧ (pageOf wnextIn 9).owned = true ∧ (pageOf wnextIn 9).use = bitsOf (wnextOf 8 9
      7).handle 47 32 ∧ addrOk wnextIn 0 4096 32 true = true ∧ 7 + 1 < (pageOf wnextIn 9).fill) ∧
    -- clause 4
    (awake wnextEnd = true ∧ ((headWith wnextEnd 33 fun _ => true) = some (wnextOf 8 9 9)) ∧ cmdOf wnextEnd 1 = some
      (wnextOf 8 9 9) ∧ wnextEnd.tcr.gone.contains 1 = false ∧ pageBad wnextEnd 9 = false ∧ streamBad wnextEnd
      (pageOf wnextEnd 9).stream = false ∧ (pageOf wnextEnd 9).owned = true ∧ (pageOf wnextEnd 9).use = bitsOf
      (wnextOf 8 9 7).handle 47 32 ∧ addrOk wnextEnd 0 4096 32 true = true ∧ (pageOf wnextEnd 9).fill ≤ 9 + 1 ∧
      (streamOf wnextEnd (pageOf wnextEnd 9).stream).openPage = 9) ∧
    -- clause 5
    (mayWrite flushing Requester.pcie0 Reg.wayFlush 4 = true ∧ bitOf 2147483651 31 = true ∧ progOn flushing
      Reg.wayFlushProg = true) ∧
    -- clause 5
    (mayWrite flushOpen Requester.pcie0 Reg.wayFlush 4 = true ∧ bitOf 2147483651 31 = true ∧ progOn flushOpen
      Reg.wayFlushProg = false ∧ wayPages flushOpen ≠ 0) ∧
    -- clause 6
    (awake flushing = true ∧ flushing.way.flush = some (3, 9999999000, 2) ∧ 9999999000 + wayPages flushing ≤
      flushing.cycle) ∧
    -- clause 7
    (mayWrite quota Requester.pcie0 Reg.wayStreamCfg 8 = true ∧ (20 = List.foldl (fun x1 x2 => x1 + x2) 0 (List.map
      (fun e => e.2.min) quota.way.streams) - (streamOf quota (selStream quota)).min + bitsOf 316659350110228 30
      16)) ∧
    -- clause 7
    (mayWrite quota Requester.pcie0 Reg.wayStreamCfg 8 = true ∧ (320 = List.foldl (fun x1 x2 => x1 + x2) 0 (List.map
      (fun e => e.2.min) quota.way.streams) - (streamOf quota (selStream quota)).min + bitsOf 20971520 30 16)) ∧
    -- clause 7
    (mayWrite quota Requester.pcie0 Reg.wayStreamCfg 8 = true ∧ (20 = List.foldl (fun x1 x2 => x1 + x2) 0 (List.map
      (fun e => e.2.min) quota.way.streams) - (streamOf quota (selStream quota)).min + bitsOf 1310739 30 16)) := by
  refine ⟨?_, ?_, ?_, ?_, ?_, ?_, ?_, ?_, ?_, ?_, ?_, ?_, ?_⟩ <;> decide +kernel

/-- States and operands that meet the hypotheses of `Obligations.AgeLimitWriteRescalesWithoutTouchingTicks`, one group a case. -/
theorem witness_AgeLimitWriteRescalesWithoutTouchingTicks :
    -- clause 1
    (mayWrite aging Requester.pcie0 (Reg.ageLimit 5) 4 = true ∧ tblOf aging 5 = some hashT ∧ hashT.age = true ∧ 77 ≠
      0) ∧
    -- clause 2
    (mayWrite aging Requester.pcie0 (Reg.ageLimit 5) 4 = true ∧ (0 = 0 ∨ ∀ (d : TblDecl), tblOf aging 5 = some d →
      d.age = false)) ∧
    -- clause 2
    (mayWrite aging Requester.pcie0 (Reg.ageLimit 63) 4 = true ∧ (5 = 0 ∨ ∀ (d : TblDecl), tblOf aging 63 = some d →
      d.age = false)) ∧
    -- clause 2
    (mayWrite arrays Requester.pcie0 (Reg.ageLimit 2) 4 = true ∧ (5 = 0 ∨ ∀ (d : TblDecl), tblOf arrays 2 = some d →
      d.age = false)) := by
  refine ⟨?_, ?_, ?_, ?_⟩ <;> decide +kernel

/-- States and operands that meet the hypotheses of `Obligations.TicksAndLapsKeepTheirCounts`, one group a case. -/
theorem witness_TicksAndLapsKeepTheirCounts :
    -- clause 1
    (awake aging = true) ∧
    -- clause 2
    (awake ageOn = true ∧ lapMayStart ageOn = true) ∧
    -- clause 2
    (awake ageAgain = true ∧ lapMayStart ageAgain = true) ∧
    -- clause 2
    (awake ageEarly = true ∧ lapMayStart ageEarly = false) ∧
    -- clause 2
    (awake aging = true ∧ lapMayStart aging = false) ∧
    -- clause 3
    (awake lapDone = true ∧ lapDone.age.lap = some (theLap 9999999000) ∧ lapOver lapDone = true) ∧
    -- clause 3
    (awake lapLong = true ∧ lapLong.age.lap = some (theLap 9590399999) ∧ lapOver lapLong = true ∧ (theLap
      9590399999).shortest ≠ 0 ∧ 512 * (theLap 9590399999).shortest * 800000 < lapLong.cycle - (theLap
      9590399999).start) ∧
    -- clause 4
    (mayWrite lapDone Requester.pcie0 Reg.ageCtrl 4 = true) ∧
    -- clause 4
    (mayWrite aging Requester.pcie0 Reg.ageCtrl 4 = true) ∧
    -- clause 5
    (lapStopped.age.lap = some { theLap 9999999000 with walked := false } ∧ lapStopped.pwr.stopGrants = false ∧
      lapStopped.rgl.reqs = [] ∧ lapStopped.rgl.parked = [] ∧ flag lapStopped Reg.ageCtrl 0 = false) := by
  refine ⟨?_, ?_, ?_, ?_, ?_, ?_, ?_, ?_, ?_, ?_⟩ <;> decide +kernel

/-- States and operands that meet the hypotheses of `Obligations.LearnNotificationsAreCheckedQueuedAndWritten`, one group a case. -/
theorem witness_LearnNotificationsAreCheckedQueuedAndWritten :
    -- clause 1
    (awake learning = true ∧ minByKey notifKey learning.lrn.raised = some (notif 9999999980) ∧ (notif
      9999999980).raisedAt < learning.cycle ∧ (learning.lrn.checkAt ≠ learning.cycle ∨ learning.lrn.checkN < 4) ∧
      learning.pwr.stopGrants = false ∧ tblOf learning (notif 9999999980).table = some hashT ∧ isDuplicate learning
      (fingerprint (notif 9999999980).table hashT (notif 9999999980).key) (notif 9999999980).ns = false ∧ fget
      learning Reg.lrnRate 15 0 = 0 ∧ lrnRoom learning = true) ∧
    -- clause 1
    (awake learnFull = true ∧ minByKey notifKey learnFull.lrn.raised = some (notif 9999999980) ∧ (notif
      9999999980).raisedAt < learnFull.cycle ∧ (learnFull.lrn.checkAt ≠ learnFull.cycle ∨ learnFull.lrn.checkN < 4)
      ∧ learnFull.pwr.stopGrants = false ∧ tblOf learnFull (notif 9999999980).table = some hashT ∧ isDuplicate
      learnFull (fingerprint (notif 9999999980).table hashT (notif 9999999980).key) (notif 9999999980).ns = false ∧
      fget learnFull Reg.lrnRate 15 0 = 0 ∧ lrnRoom learnFull = false) ∧
    -- clause 1
    (awake learnDup = true ∧ minByKey notifKey learnDup.lrn.raised = some (notif 9999999980) ∧ (notif
      9999999980).raisedAt < learnDup.cycle ∧ (learnDup.lrn.checkAt ≠ learnDup.cycle ∨ learnDup.lrn.checkN < 4) ∧
      learnDup.pwr.stopGrants = false ∧ tblOf learnDup (notif 9999999980).table = some hashT ∧ isDuplicate learnDup
      (fingerprint (notif 9999999980).table hashT (notif 9999999980).key) (notif 9999999980).ns = true) ∧
    -- clause 2
    (awake learnBusy = true ∧ learnBusy.lrn.checkAt = learnBusy.cycle ∧ 4 ≤ learnBusy.lrn.checkN) ∧
    -- clause 3
    (awake (holding 42) = true ∧ heldM (holding 42) 42 false = true) ∧
    -- clause 4
    (awake learnOut = true ∧ learnOut.lrn.queue = notif 5 :: [notif 6] ∧ learnOut.pwr.stopGrants = false ∧ heldM
      learnOut 42 false = false ∧ tblOf learnOut (notif 5).table = some hashT ∧ learnOut.spm.waiting = [] ∧
      learnOut.spm.portCycle ≤ learnOut.cycle ∧ learnOut.nvc.wipeAt = none) ∧
    -- clause 5
    (mayWrite learnOut Requester.pcie0 Reg.lrnRingSize 4 = true) := by
  refine ⟨?_, ?_, ?_, ?_, ?_, ?_, ?_⟩ <;> decide +kernel

/-- States and operands that meet the hypotheses of `Obligations.ClassCommitsAreAdmittedOrRefused`, one group a case. -/
theorem witness_ClassCommitsAreAdmittedOrRefused :
    (mayWrite classes Requester.pcie0 (Reg.rglClass 0) 8 = true ∧ 0 = bitsOf 4222124650659840 10 0 ∧ 0 = bitsOf
      4222124650659840 42 32 ∧ (1536 = List.foldl (fun a i => a + if i = 0 then 0 else bitsOf (rd0 classes
      (Reg.rglClass i)) 10 0) 0 (List.range 8)) ∧ (5 = List.foldl (fun a i => a + if i = 0 then 0 else bitsOf (rd0
      classes (Reg.rglClass i)) 42 32) 0 (List.range 8))) ∧
    (mayWrite classes Requester.pcie0 (Reg.rglClass 7) 8 = true ∧ 65 = bitsOf 4503599627370561 10 0 ∧ 0 = bitsOf
      4503599627370561 42 32 ∧ (1601 = List.foldl (fun a i => a + if i = 7 then 65 else bitsOf (rd0 classes
      (Reg.rglClass i)) 10 0) 0 (List.range 8)) ∧ (5 = List.foldl (fun a i => a + if i = 7 then 0 else bitsOf (rd0
      classes (Reg.rglClass i)) 42 32) 0 (List.range 8))) ∧
    (mayWrite classes Requester.pcie0 (Reg.rglClass 7) 8 = true ∧ 64 = bitsOf 4503599627370560 10 0 ∧ 0 = bitsOf
      4503599627370560 42 32 ∧ (1600 = List.foldl (fun a i => a + if i = 7 then 64 else bitsOf (rd0 classes
      (Reg.rglClass i)) 10 0) 0 (List.range 8)) ∧ (5 = List.foldl (fun a i => a + if i = 7 then 0 else bitsOf (rd0
      classes (Reg.rglClass i)) 42 32) 0 (List.range 8))) ∧
    (mayWrite classes Requester.pcie0 (Reg.rglClass 0) 8 = true ∧ 65 = bitsOf 4503599627370561 10 0 ∧ 0 = bitsOf
      4503599627370561 42 32 ∧ (1601 = List.foldl (fun a i => a + if i = 0 then 65 else bitsOf (rd0 classes
      (Reg.rglClass i)) 10 0) 0 (List.range 8)) ∧ (5 = List.foldl (fun a i => a + if i = 0 then 0 else bitsOf (rd0
      classes (Reg.rglClass i)) 42 32) 0 (List.range 8))) ∧
    (mayWrite classes Requester.pcie0 (Reg.rglClass 2) 8 = true ∧ 64 = bitsOf 4509762905440320 10 0 ∧ 1435 = bitsOf
      4509762905440320 42 32 ∧ (1600 = List.foldl (fun a i => a + if i = 2 then 64 else bitsOf (rd0 classes
      (Reg.rglClass i)) 10 0) 0 (List.range 8)) ∧ (1440 = List.foldl (fun a i => a + if i = 2 then 1435 else bitsOf
      (rd0 classes (Reg.rglClass i)) 42 32) 0 (List.range 8))) ∧
    (mayWrite classes Requester.pcie0 (Reg.rglClass 2) 8 = true ∧ 64 = bitsOf 4509767200407616 10 0 ∧ 1436 = bitsOf
      4509767200407616 42 32 ∧ (1600 = List.foldl (fun a i => a + if i = 2 then 64 else bitsOf (rd0 classes
      (Reg.rglClass i)) 10 0) 0 (List.range 8)) ∧ (1441 = List.foldl (fun a i => a + if i = 2 then 1436 else bitsOf
      (rd0 classes (Reg.rglClass i)) 42 32) 0 (List.range 8))) := by
  refine ⟨?_, ?_, ?_, ?_, ?_, ?_⟩ <;> decide +kernel

/-- States and operands that meet the hypotheses of `Obligations.WeltLinkTrainsAndFallsBack`, one group a case. -/
theorem witness_WeltLinkTrainsAndFallsBack :
    -- clause 1
    (({ wst 1 with lanes := 7 }) = wport seeking 0 ∧ awake seeking = true ∧ ({ wst 1 with lanes := 7 }).state = 1 ∧
      ({ wst 1 with lanes := 7 }).lanes ||| 8 = 15) ∧
    -- clause 2
    (wst 2 = wport deskewing 1 ∧ awake deskewing = true ∧ (wst 2).state = 2) ∧
    -- clause 3
    (({ wst 3 with parts := 5 }) = wport train1id 1 ∧ awake train1id = true ∧ ({ wst 3 with parts := 5 }).state = 3) ∧
    -- clause 3
    (({ wst 3 with parts := 5 }) = wport train1id 1 ∧ awake train1id = true ∧ ({ wst 3 with parts := 5 }).state = 3) ∧
    -- clause 4
    (training3 = wport ready1 1 ∧ awake ready1 = true ∧ training3.state = 3 ∧ training3.parts = 7 ∧ training3.acked
      = true ∧ 16 ≤ training3.trainTx) ∧
    -- clause 5
    (training3 = wport ready0 0 ∧ awake ready0 = true ∧ training3.state = 3 ∧ training3.parts = 7 ∧ training3.acked
      = true ∧ 16 ≤ training3.trainTx ∧ 8 ≤ 8) ∧
    -- clause 5
    (training3 = wport ready0 0 ∧ awake ready0 = true ∧ training3.state = 3 ∧ training3.parts = 7 ∧ training3.acked
      = true ∧ 16 ≤ training3.trainTx ∧ 8 < 9) ∧
    -- clause 6
    (training3 = wport ready0 0 ∧ awake ready0 = true ∧ (training3.state = 2 ∨ training3.state = 3) ∧
      training3.since + 1600000 ≤ ready0.cycle) ∧
    -- clause 6
    (wst 2 = wport deskewing 1 ∧ awake deskewing = true ∧ ((wst 2).state = 2 ∨ (wst 2).state = 3) ∧ (wst 2).since +
      1600000 ≤ deskewing.cycle) ∧
    -- clause 7
    (wport upBoth 0 = wport upBoth 0 ∧ awake upBoth = true ∧ (wport upBoth 0).sends = true ∧ (wport upBoth 0).lanes
      = 15 ∧ 1 ≠ 0) ∧
    -- clause 7
    (up4 = wport upBoth 1 ∧ awake upBoth = true ∧ up4.sends = true ∧ up4.lanes = 15 ∧ 15 ≠ 0) ∧
    -- clause 8
    (wport upRestart 0 = wport upRestart 0 ∧ mayWrite upRestart Requester.pcie0 (Reg.wltCtrl 0) 4 = true ∧ flag
      upRestart (Reg.wltCtrl 0) 0 = true ∧ bitOf 2147483649 0 = true ∧ bitOf 2147483649 31 = true) ∧
    -- clause 8
    (wst 0 = wport downRestart 0 ∧ mayWrite downRestart Requester.benchM (Reg.wltCtrl 0) 4 = true ∧ flag downRestart
      (Reg.wltCtrl 0) 0 = true ∧ bitOf 2147483649 0 = true ∧ bitOf 2147483649 31 = true) ∧
    -- clause 9
    (wport recovering 0 = wport recovering 0 ∧ awake recovering = true ∧ (wport recovering 0).state = 5 ∧ (wport
      recovering 0).since + 8000 ≤ recovering.cycle) := by
  refine ⟨?_, ?_, ?_, ?_, ?_, ?_, ?_, ?_, ?_, ?_, ?_, ?_, ?_, ?_⟩ <;> decide +kernel

/-- States and operands that meet the hypotheses of `Obligations.WeltCreditsFramesAndRecovery`, one group a case. -/
theorem witness_WeltCreditsFramesAndRecovery :
    -- clause 1
    (awake upBoth = true ∧ up4 = wport upBoth 1 ∧ up4.sends = true) ∧
    -- clause 1
    (awake recovering = true ∧ wport recovering 0 = wport recovering 0 ∧ (wport recovering 0).sends = true) ∧
    -- clause 1
    (awake outBusy = true ∧ sentOut = wport outBusy 0 ∧ sentOut.sends = true) ∧
    -- clause 2
    (awake upBoth = true ∧ up4 = wport upBoth 1) ∧
    -- clause 2
    (awake deskewing = true ∧ wst 2 = wport deskewing 1) ∧
    -- clause 3
    (awake upBoth = true ∧ wport upBoth 0 = wport upBoth 0 ∧ (wport upBoth 0).state = 4) ∧
    -- clause 4
    (awake recovering = true ∧ wport recovering 0 = wport recovering 0 ∧ (wport recovering 0).state = 5) ∧
    -- clause 5
    (awake outBusy = true ∧ sentOut = wport outBusy 0 ∧ sentOut.sends = true ∧ (∃ e ∈ sentOut.out, e.lseq.isSome =
      true) ∧ sentOut.ackAt + 12800 ≤ outBusy.cycle) ∧
    -- clause 6
    (awake cascaded = true ∧ up4 = wport cascaded 0 ∧ up4.state = 4 ∧ keyOf 0 36187130988331008 (List.replicate 20
      1) = keyOf 0 36187130988331008 (List.replicate 20 1)) ∧
    -- clause 6
    (awake cascaded = true ∧ up4 = wport cascaded 0 ∧ up4.state = 4 ∧ keyOf 0 54201525202845696 (List.replicate 20
      1) = keyOf 0 54201525202845696 (List.replicate 20 1)) ∧
    -- clause 7
    (awake cascaded = true ∧ up4 = wport cascaded 0 ∧ up4.state = 4 ∧ ansFrom 0 1266779397554176 eight = ansFrom 0
      1266779397554176 eight) ∧
    -- clause 7
    (awake ansDown = true ∧ up4 = wport ansDown 1 ∧ up4.state = 4 ∧ ansFrom 1 1266641958600704 eight = ansFrom 1
      1266641958600704 eight) := by
  refine ⟨?_, ?_, ?_, ?_, ?_, ?_, ?_, ?_, ?_, ?_, ?_, ?_⟩ <;> decide +kernel

/-- States and operands that meet the hypotheses of `Obligations.BridgeWritesReadsAndFailuresAreAccounted`, one group a case. -/
theorem witness_BridgeWritesReadsAndFailuresAreAccounted :
    -- clause 1
    (awake master4 = true ∧ farReach master4 Requester.pcie0 = true ∧ (eight.length = 4 ∧ 2097144 % 4 = 0 ∨
      eight.length = 8 ∧ 2097144 % 8 = 0)) ∧
    -- clause 1
    (awake master4 = true ∧ farReach master4 Requester.benchM = true ∧ ([1, 2, 3, 4].length = 4 ∧ 4 % 4 = 0 ∨ [1, 2,
      3, 4].length = 8 ∧ 4 % 8 = 0)) ∧
    -- clause 1
    (awake masterDown = true ∧ farReach masterDown Requester.spi = true ∧ (eight.length = 4 ∧ 0 % 4 = 0 ∨
      eight.length = 8 ∧ 0 % 8 = 0)) ∧
    -- clause 2
    (awake master4 = true ∧ farReach master4 Requester.benchU = true ∧ 0 < 4) ∧
    -- clause 3
    (awake rrdBusy = true ∧ mayWrite rrdBusy Requester.pcie0 (Reg.brgRrdAddr 0) 4 = true) ∧
    -- clause 3
    (awake rrdBusy = true ∧ mayWrite rrdBusy Requester.pcie1 (Reg.brgRrdAddr 0) 4 = true) ∧
    -- clause 3
    (awake master4 = true ∧ mayWrite master4 Requester.pcie0 (Reg.brgRrdAddr 0) 4 = true) ∧
    -- clause 3
    (awake master4 = true ∧ mayWrite master4 Requester.benchM (Reg.brgRrdAddr 3) 4 = true) ∧
    -- clause 4
    (awake lateReads = true ∧ (List.find? (fun r => decide (r.since + fget lateReads Reg.brgCtrl 31 16 * 800 ≤
      lateReads.cycle)) lateReads.brg.reads = some late) ∧ late.set < 4) ∧
    -- clause 5
    (awake polled = true ∧ polled.img.applied = true ∧ myPos polled = 0 ∧ polled.brg.pollAt + fget polled
      Reg.brgCtrl 9 0 * 800 ≤ polled.cycle) ∧
    -- clause 6
    (awake upBoth = true ∧ myPos upBoth ≠ 0) ∧
    -- clause 7
    (awake reading = true ∧ frameOf 6538184323059679232 eight = frameOf 6538184323059679232 eight ∧ (wport reading
      0).inq = [] ∧ (wport reading 1).inq = [] ∧ (wport reading 1).state = 4 ∧ bitsOf 6538184323059679232 59 48 =
      (wport reading 1).expSeq ∧ (frameOf 6538184323059679232 eight).dst = myPos reading ∧ (frameOf
      6538184323059679232 eight).typ = 5 ∧ (List.find? (fun r => decide (r.wsn = (frameOf 6538184323059679232
      eight).wsn)) reading.brg.reads = some
      { set := 1, pos := 3, size := true, wsn := 17, since := 9999999000 : BRead }) ∧
      { set := 1, pos := 3, size := true, wsn := 17, since := 9999999000 : BRead }.set < 4 ∧ (frameOf
      6538184323059679232 eight).status = 0) ∧
    -- clause 7
    (awake reading = true ∧ frameOf 7691105827666526208 eight = frameOf 7691105827666526208 eight ∧ (wport reading
      0).inq = [] ∧ (wport reading 1).inq = [] ∧ (wport reading 0).state = 4 ∧ bitsOf 7691105827666526208 59 48 =
      (wport reading 0).expSeq ∧ (frameOf 7691105827666526208 eight).dst = myPos reading ∧ (frameOf
      7691105827666526208 eight).typ = 6) ∧
    -- clause 7
    (awake reading = true ∧ frameOf 4232341313845985280 (leBytes 4 (Reg.rglHostUrg 0) ++ [3, 0, 0, 0]) = frameOf
      4232341313845985280 (leBytes 4 (Reg.rglHostUrg 0) ++ [3, 0, 0, 0]) ∧ (wport reading 0).inq = [] ∧ (wport
      reading 1).inq = [] ∧ (wport reading 1).state = 4 ∧ bitsOf 4232341313845985280 59 48 = (wport reading
      1).expSeq ∧ (frameOf 4232341313845985280 (leBytes 4 (Reg.rglHostUrg 0) ++ [3, 0, 0, 0])).dst = myPos reading ∧
      (frameOf 4232341313845985280 (leBytes 4 (Reg.rglHostUrg 0) ++ [3, 0, 0, 0])).typ = 3 ∧ (frameOf
      4232341313845985280 (leBytes 4 (Reg.rglHostUrg 0) ++ [3, 0, 0, 0])).size = false ∧ (frameOf
      4232341313845985280 (leBytes 4 (Reg.rglHostUrg 0) ++ [3, 0, 0, 0])).off = Reg.rglHostUrg 0) ∧
    -- clause 7
    (awake reading = true ∧ frameOf 5385262818452832256 (leBytes 4 Reg.imgId) = frameOf 5385262818452832256 (leBytes
      4 Reg.imgId) ∧ (wport reading 0).inq = [] ∧ (wport reading 1).inq = [] ∧ (wport reading 1).state = 4 ∧ bitsOf
      5385262818452832256 59 48 = (wport reading 1).expSeq ∧ (frameOf 5385262818452832256 (leBytes 4 Reg.imgId)).dst
      = myPos reading ∧ (frameOf 5385262818452832256 (leBytes 4 Reg.imgId)).typ = 4 ∧ (frameOf 5385262818452832256
      (leBytes 4 Reg.imgId)).off < spmBase ∧ shapeOk (frameOf 5385262818452832256 (leBytes 4 Reg.imgId)).off
      (frameOf 5385262818452832256 (leBytes 4 Reg.imgId)).len = true ∧ (regRead reading Requester.bridge (frameOf
      5385262818452832256 (leBytes 4 Reg.imgId)).off (frameOf 5385262818452832256 (leBytes 4 Reg.imgId)).len).2.2 =
      true ∧ outUsed (wport reading 1) 4 < 8) ∧
    -- clause 8
    (awake reading = true ∧ bitsOf 0 59 48 ≠ (wport reading 0).expSeq) := by
  refine ⟨?_, ?_, ?_, ?_, ?_, ?_, ?_, ?_, ?_, ?_, ?_, ?_, ?_, ?_, ?_, ?_⟩ <;> decide +kernel

/-- States and operands that meet the hypotheses of `Obligations.RepairMarchAndFlipCommandsActAsTold`, one group a case. -/
theorem witness_RepairMarchAndFlipCommandsActAsTold :
    -- clause 1
    (awake repairing = true ∧ mayWrite repairing Requester.pcie0 Reg.intRetireEnt 8 = true ∧ bitOf
      9223372058329612293 63 = true ∧ ((retireAt repairing (fget repairing Reg.intRetireIdx 9 0)).isSome = true ∨
      retireBad repairing (bitsOf 9223372058329612293 19 0) (bitsOf 9223372058329612293 51 32) = true)) ∧
    -- clause 1
    (awake repairing = true ∧ mayWrite repairing Requester.pcie0 Reg.intRetireEnt 8 = true ∧ bitOf
      9223373325344964613 63 = true ∧ retireAt repairing (fget repairing Reg.intRetireIdx 9 0) = none ∧ retireBad
      repairing (bitsOf 9223373325344964613 19 0) (bitsOf 9223373325344964613 51 32) = false) ∧
    -- clause 1
    (awake repairing3 = true ∧ mayWrite repairing3 Requester.pcie0 Reg.intRetireEnt 8 = true ∧ bitOf
      9223373325344964613 63 = true ∧ ((retireAt repairing3 (fget repairing3 Reg.intRetireIdx 9 0)).isSome = true ∨
      retireBad repairing3 (bitsOf 9223373325344964613 19 0) (bitsOf 9223373325344964613 51 32) = true)) ∧
    -- clause 1
    (awake repairing = true ∧ mayWrite repairing Requester.benchM Reg.intRetireEnt 8 = true ∧ bitOf
      9223372466351505413 63 = true ∧ ((retireAt repairing (fget repairing Reg.intRetireIdx 9 0)).isSome = true ∨
      retireBad repairing (bitsOf 9223372466351505413 19 0) (bitsOf 9223372466351505413 51 32) = true)) ∧
    -- clause 2
    (awake repairing = true ∧ (List.find? (fun e => match e.2 with | some r => r.busyTo.isSome | none => false)
      repairing.intg.retire = some (3, some retire3)) ∧ (3, some retire3).2 = some retire3) ∧
    -- clause 3
    (awake blocks = true ∧ mayWrite blocks Requester.pcie0 Reg.intTcaRetire 4 = true ∧ (∀ b < 32, bitOf 2147483655 b
      = true → flag blocks Reg.intTcaRetire b = true ∨ blockEmpty blocks b = true)) ∧
    -- clause 3
    (awake blocks = true ∧ mayWrite blocks Requester.pcie0 Reg.intTcaRetire 4 = true ∧ (∃ b < 32, bitOf 9 b = true ∧
      flag blocks Reg.intTcaRetire b = false ∧ blockEmpty blocks b = false)) ∧
    -- clause 4
    (awake calm = true ∧ mayWrite calm Requester.pcie0 Reg.intRecordClr 4 = true) ∧
    -- clause 4
    (awake calm = true ∧ mayWrite calm Requester.pcie0 Reg.intRecordClr 4 = true) ∧
    -- clause 4
    (awake producing = true ∧ mayWrite producing Requester.benchM Reg.intRecordClr 4 = true) ∧
    -- clause 5
    (awake calm = true ∧ mayWrite calm Requester.pcie0 Reg.intFlipCtrl 4 = true) ∧
    -- clause 5
    (awake calm = true ∧ mayWrite calm Requester.pcie0 Reg.intFlipCtrl 4 = true) ∧
    -- clause 6
    (awake scrubOff = true ∧ 16128 = 63 * 256 + 0 ∧ (0 = if 63 = 0 then scrubOff.intg.sramPos.nat 16128 else 4096 *
      0 + scrubOff.intg.sramPos.nat 16128) ∧ flag scrubOff Reg.intScrubCtrl 31 = false) ∧
    -- clause 6
    (awake scrub0 = true ∧ 0 = 0 * 256 + 0 ∧ (0 = if 0 = 0 then scrub0.intg.sramPos.nat 0 else 4096 * 0 +
      scrub0.intg.sramPos.nat 0) ∧ flag scrub0 Reg.intScrubCtrl 31 = true ∧ scrub0.pwr.stopGrants = false ∧ 0 <
      walkers 0 ∧ (if 0 = 0 then portIdle scrub0 = true else marchBusy scrub0 0 0 = false) ∧
      (scrub0.intg.sramLast.nat 0 + fget scrub0 Reg.intScrubCtrl 7 0 ≤ scrub0.cycle + 1 ∨ scrub0.intg.sramLast.nat 0
      = 0)) ∧
    -- clause 6
    (awake scrubLast = true ∧ 0 = 0 * 256 + 0 ∧ (65535 = if 0 = 0 then scrubLast.intg.sramPos.nat 0 else 4096 * 0 +
      scrubLast.intg.sramPos.nat 0) ∧ flag scrubLast Reg.intScrubCtrl 31 = true ∧ scrubLast.pwr.stopGrants = false ∧
      0 < walkers 0 ∧ (if 0 = 0 then portIdle scrubLast = true else marchBusy scrubLast 0 0 = false) ∧
      (scrubLast.intg.sramLast.nat 0 + fget scrubLast Reg.intScrubCtrl 7 0 ≤ scrubLast.cycle + 1 ∨
      scrubLast.intg.sramLast.nat 0 = 0)) ∧
    -- clause 6
    (awake scrubFlip = true ∧ 513 = 2 * 256 + 1 ∧ (4101 = if 2 = 0 then scrubFlip.intg.sramPos.nat 513 else 4096 * 1
      + scrubFlip.intg.sramPos.nat 513) ∧ flag scrubFlip Reg.intScrubCtrl 31 = true ∧ scrubFlip.pwr.stopGrants =
      false ∧ 1 < walkers 2 ∧ (if 2 = 0 then portIdle scrubFlip = true else marchBusy scrubFlip 2 1 = false) ∧
      (scrubFlip.intg.sramLast.nat 513 + fget scrubFlip Reg.intScrubCtrl 7 0 ≤ scrubFlip.cycle + 1 ∨
      scrubFlip.intg.sramLast.nat 513 = 0)) ∧
    -- clause 7
    (awake marchOn = true ∧ mayWrite marchOn Requester.pcie0 Reg.intMarchCtrl 4 = true ∧ bitOf 2147483648 31 = true
      ∧ marchOn.pwr.stopGrants = false ∧ (⟨0, 64, 32, false⟩ : March) = (⟨bitsOf 2147483648 5 0, fget marchOn Reg.intMarchStart 35 0, fget marchOn Reg.intMarchLen 31 0, bitOf 2147483648 30⟩ : March) ∧ progOn marchOn Reg.intMarchProg = true) ∧
    -- clause 7
    (awake marchSet = true ∧ mayWrite marchSet Requester.pcie0 Reg.intMarchCtrl 4 = true ∧ bitOf 2147483648 31 =
      true ∧ marchSet.pwr.stopGrants = false ∧ (⟨0, 64, 32, false⟩ : March) = (⟨bitsOf 2147483648 5 0, fget marchSet Reg.intMarchStart 35 0, fget marchSet Reg.intMarchLen 31 0, bitOf 2147483648 30⟩ : March) ∧ progOn marchSet Reg.intMarchProg = false ∧
      (⟨0, 64, 32, false⟩ : March).mem ≤ 17 ∧ marchShape (⟨0, 64, 32, false⟩ : March).mem (⟨0, 64, 32, false⟩ : March).start (⟨0, 64, 32, false⟩ : March).len (⟨0, 64, 32, false⟩ : March).preserving = true) ∧
    -- clause 7
    (awake marchSet = true ∧ mayWrite marchSet Requester.pcie0 Reg.intMarchCtrl 4 = true ∧ bitOf 3221225489 31 =
      true ∧ marchSet.pwr.stopGrants = false ∧ (⟨17, 64, 32, true⟩ : March) = (⟨bitsOf 3221225489 5 0, fget marchSet Reg.intMarchStart 35 0, fget marchSet Reg.intMarchLen 31 0, bitOf 3221225489 30⟩ : March) ∧ progOn marchSet Reg.intMarchProg = false ∧
      (⟨17, 64, 32, true⟩ : March).mem ≤ 17 ∧ marchShape (⟨17, 64, 32, true⟩ : March).mem (⟨17, 64, 32, true⟩ : March).start (⟨17, 64, 32, true⟩ : March).len (⟨17, 64, 32, true⟩ : March).preserving = true) ∧
    -- clause 7
    (awake marchBlocked = true ∧ mayWrite marchBlocked Requester.pcie0 Reg.intMarchCtrl 4 = true ∧ bitOf 2147483649
      31 = true ∧ marchBlocked.pwr.stopGrants = false ∧ (⟨1, 64, 32, false⟩ : March) = (⟨bitsOf 2147483649 5 0, fget marchBlocked Reg.intMarchStart 35 0, fget marchBlocked Reg.intMarchLen 31 0, bitOf 2147483649 30⟩ : March) ∧ progOn marchBlocked
      Reg.intMarchProg = false ∧ (⟨1, 64, 32, false⟩ : March).mem ≤ 17 ∧
      marchShape (⟨1, 64, 32, false⟩ : March).mem (⟨1, 64, 32, false⟩ : March).start (⟨1, 64, 32, false⟩ : March).len (⟨1, 64, 32, false⟩ : March).preserving = true) ∧
    -- clause 8
    (awake marchHalf = true ∧ marchHalf.intg.march = some march0 ∧ marchHalf.intg.marchStep < marchTotal march0) ∧
    -- clause 9
    (awake marching0 = true ∧ marching0.intg.march = some march0 ∧ marchTotal march0 ≤ marching0.intg.marchStep ∧
      march0.preserving = false ∧ march0.mem = 0) ∧
    -- clause 9
    (awake marching0 = true ∧ marching0.intg.march = some march0 ∧ marchTotal march0 ≤ marching0.intg.marchStep ∧
      march0.preserving = false ∧ (if march0.mem = 1 then 8 * march0.start else march0.start) ≤ 95 ∧ 95 < (if
      march0.mem = 1 then 8 * (march0.start + march0.len) else march0.start + march0.len)) ∧
    -- clause 9
    (awake marching1 = true ∧ marching1.intg.march = some march1 ∧ marchTotal march1 ≤ marching1.intg.marchStep ∧
      march1.preserving = false ∧ march1.mem = 1) ∧
    -- clause 9
    (awake marching1 = true ∧ marching1.intg.march = some march1 ∧ marchTotal march1 ≤ marching1.intg.marchStep ∧
      march1.preserving = false ∧ (if march1.mem = 1 then 8 * march1.start else march1.start) ≤ 767 ∧ 767 < (if
      march1.mem = 1 then 8 * (march1.start + march1.len) else march1.start + march1.len)) ∧
    -- clause 9
    (awake marching1p = true ∧ marching1p.intg.march = some march1p ∧ marchTotal march1p ≤ marching1p.intg.marchStep
      ∧ march1p.preserving = true ∧ marchFlips marching1p march1p = []) ∧
    -- clause 9
    (awake marching5 = true ∧ marching5.intg.march = some march5 ∧ marchTotal march5 ≤ marching5.intg.marchStep ∧
      march5.preserving = true) := by
  refine ⟨?_, ?_, ?_, ?_, ?_, ?_, ?_, ?_, ?_, ?_, ?_, ?_, ?_, ?_, ?_, ?_, ?_, ?_, ?_, ?_, ?_, ?_, ?_, ?_, ?_, ?_, ?_⟩ <;> decide +kernel

/-- States and operands that meet the hypotheses of `Obligations.ScratchpadAccessesAreQueuedServedAndDenied`, one group a case. -/
theorem witness_ScratchpadAccessesAreQueuedServedAndDenied :
    -- clause 1
    (awake calm = true ∧ Requester.pcie0 ≠ Requester.spi ∧ farReach calm Requester.pcie0 = true ∧ eight ≠ [] ∧
      524280 % 8 + eight.length ≤ 8) ∧
    -- clause 1
    (awake calm = true ∧ Requester.benchU ≠ Requester.spi ∧ farReach calm Requester.benchU = true ∧ [1] ≠ [] ∧
      524287 % 8 + [1].length ≤ 8) ∧
    -- clause 1
    (awake calm = true ∧ Requester.pcie1 ≠ Requester.spi ∧ farReach calm Requester.pcie1 = true ∧ [1, 2, 3] ≠ []) ∧
    -- clause 1
    (awake calm = true ∧ Requester.pcie0 ≠ Requester.spi ∧ farReach calm Requester.pcie0 = true ∧ [1, 2, 3] ≠ [] ∧ 0
      < 9) ∧
    -- clause 2
    (awake calm = true ∧ (calm.cycle < calm.spm.portCycle ∨ nextSpm calm = none) ∧ (∀ a ∈ calm.spm.waiting, a.since
      ≤ calm.cycle → a.redirected calm = false) ∧ (wport calm 0).inq = [] ∧ (wport calm 1).inq = []) ∧
    -- clause 3
    (awake waitW = true ∧ (∀ x ∈ waitW.spm.waiting, x.since ≤ waitW.cycle → x.redirected waitW = false) ∧
      waitW.spm.portCycle ≤ waitW.cycle ∧ nextSpm waitW = some accW ∧ accW.use = .outside ∧ (wport waitW 0).inq = []
      ∧ (wport waitW 1).inq = [] ∧ spmDenied waitW accW = 0 ∧ accW.kind = .write) ∧
    -- clause 3
    (awake waitS = true ∧ (∀ x ∈ waitS.spm.waiting, x.since ≤ waitS.cycle → x.redirected waitS = false) ∧
      waitS.spm.portCycle ≤ waitS.cycle ∧ nextSpm waitS = some accS ∧ accS.use = .outside ∧ (wport waitS 0).inq = []
      ∧ (wport waitS 1).inq = [] ∧ spmDenied waitS accS = 0 ∧ accS.kind = .set ∧ accS.data.length = accS.len ∧ (∀ x,
      x < 104 → 100 ≤ x → flipAt waitS 0 (x / 8) = none)) ∧
    -- clause 3
    (awake waitC = true ∧ (∀ x ∈ waitC.spm.waiting, x.since ≤ waitC.cycle → x.redirected waitC = false) ∧
      waitC.spm.portCycle ≤ waitC.cycle ∧ nextSpm waitC = some accC ∧ accC.use = .outside ∧ (wport waitC 0).inq = []
      ∧ (wport waitC 1).inq = [] ∧ spmDenied waitC accC = 0 ∧ accC.kind = .clear ∧ accC.data.length = accC.len ∧ (∀
      x, x < 104 → 100 ≤ x → flipAt waitC 0 (x / 8) = none)) ∧
    -- clause 3
    (awake waitR = true ∧ (∀ x ∈ waitR.spm.waiting, x.since ≤ waitR.cycle → x.redirected waitR = false) ∧
      waitR.spm.portCycle ≤ waitR.cycle ∧ nextSpm waitR = some accR ∧ accR.use = .outside ∧ (wport waitR 0).inq = []
      ∧ (wport waitR 1).inq = [] ∧ spmDenied waitR accR = 0 ∧ accR.kind = .read) ∧
    -- clause 3
    (awake waitV = true ∧ (∀ x ∈ waitV.spm.waiting, x.since ≤ waitV.cycle → x.redirected waitV = false) ∧
      waitV.spm.portCycle ≤ waitV.cycle ∧ nextSpm waitV = some accV ∧ accV.use = .outside ∧ (wport waitV 0).inq = []
      ∧ (wport waitV 1).inq = [] ∧ spmDenied waitV accV ≠ 0) ∧
    -- clause 3
    (awake waitBuffer = true ∧ (waitBuffer.spm.waiting.find? (fun x => decide (x.since ≤ waitBuffer.cycle) &&
      x.redirected waitBuffer) = some accW) ∧ accW.use = .outside ∧ (wport waitBuffer 0).inq = [] ∧ (wport
      waitBuffer 1).inq = []) := by
  refine ⟨?_, ?_, ?_, ?_, ?_, ?_, ?_, ?_, ?_, ?_, ?_⟩ <;> decide +kernel

/-- States and operands that meet the hypotheses of `Obligations.RegisterAccessCodesAndWideWordsHold`, one group a case. -/
theorem witness_RegisterAccessCodesAndWideWordsHold :
    -- clause 1
    (awake calm = true ∧ mayWrite calm Requester.pcie0 Reg.hstSpiIrqEn 4 = true ∧ 1245188 = Reg.hstSpiIrqEn) ∧
    -- clause 2
    (awake evts = true ∧ mayWrite evts Requester.benchM Reg.lrnEvt 4 = true ∧ 720928 = Reg.lrnEvt) ∧
    -- clause 3
    (awake calm = true ∧ mayWrite calm Requester.pcie0 Reg.intFlipCtrl 4 = true ∧ 1048624 = Reg.intFlipCtrl ∧ 17 <
      bitsOf 2148663296 21 16) ∧
    -- clause 4
    (awake calm = true ∧ mayWrite calm Requester.pcie0 (Reg.rglMap 47) 4 = true ∧ 852412 = Reg.rglMap 47) ∧
    -- clause 4
    (awake calmLocked = true ∧ mayWrite calmLocked Requester.pcie1 (Reg.rglMap 47) 4 = true ∧ 852412 = Reg.rglMap
      47) ∧
    -- clause 4
    (awake calmLocked = true ∧ mayWrite calmLocked Requester.benchU (Reg.rglMap 0) 4 = true ∧ 852224 = Reg.rglMap 0) ∧
    -- clause 5
    (awake calm = true ∧ mayWrite calm Requester.pcie0 (Reg.intFlipAddr + 4) 4 = true ∧ 1048708 = Reg.intFlipAddr +
      4) ∧
    -- clause 6
    (awake staged5 = true ∧ mayWrite staged5 Requester.pcie0 Reg.intFlipAddr 4 = true ∧ 1048704 = Reg.intFlipAddr ∧
      ((staged5.stage.find (latchKey Requester.pcie0 Reg.intFlipAddr)).getD (fget staged5 Reg.intFlipAddr 35 32) = 21)) ∧
    -- clause 6
    (awake flipAddr = true ∧ mayWrite flipAddr Requester.pcie1 Reg.intFlipAddr 4 = true ∧ 1048704 = Reg.intFlipAddr
      ∧ ((flipAddr.stage.find (latchKey Requester.pcie1 Reg.intFlipAddr)).getD (fget flipAddr Reg.intFlipAddr 35 32) = 7)) ∧
    -- clause 7
    (awake calm = true ∧ mayWrite calm Requester.pcie0 Reg.intFlipAddr 8 = true ∧ 1048704 = Reg.intFlipAddr) ∧
    -- clause 8
    (awake calm = true ∧ calm.seq.running = true ∧ 1245188 = Reg.hstSpiIrqEn) ∧
    -- clause 9
    (awake flipAddr = true ∧ flipAddr.seq.running = true ∧ 1048704 = Reg.intFlipAddr) ∧
    -- clause 10
    (awake latched = true ∧ latched.seq.running = true ∧ 1048708 = Reg.intFlipAddr + 4 ∧ latched.latch.find
      (latchKey Requester.benchM Reg.intFlipAddr) = some 9) ∧
    -- clause 11
    (awake overflowed = true ∧ overflowed.seq.running = true ∧ 1048592 = Reg.intLogOvf ∧ KMap.find (nowSt
      overflowed).rc Reg.intLogOvf = none) ∧
    -- clause 11
    (awake overflowedNow = true ∧ overflowedNow.seq.running = true ∧ 1048592 = Reg.intLogOvf ∧ (KMap.find (nowSt
      overflowedNow).rc Reg.intLogOvf).isSome = true) ∧
    -- clause 12
    (awake calm = true ∧ calm.seq.running = true ∧ 1507340 = Reg.seqWdogKick) ∧
    -- clause 13
    (awake calm = true ∧ 5 < spmBase ∧ fnOf Requester.pcie1 = some 1 ∧ [1, 2, 3, 4] ≠ [] ∧ mayWrite calm
      Requester.pcie1 5 [1, 2, 3, 4].length = true ∧ shapeOk 5 [1, 2, 3, 4].length = false) ∧
    -- clause 13
    (awake calm = true ∧ 1572860 < spmBase ∧ fnOf Requester.pcie0 = some 0 ∧ eight ≠ [] ∧ mayWrite calm
      Requester.pcie0 1572860 eight.length = true ∧ shapeOk 1572860 eight.length = false) := by
  refine ⟨?_, ?_, ?_, ?_, ?_, ?_, ?_, ?_, ?_, ?_, ?_, ?_, ?_, ?_, ?_, ?_, ?_, ?_⟩ <;> decide +kernel

/-- States and operands that meet the hypotheses of `Obligations.EndpointRequestsInterruptsAndResets`, one group a case. -/
theorem witness_EndpointRequestsInterruptsAndResets :
    -- clause 1
    (awake unready = true ∧ ({ Pcie.zero with up := true }) = pcie unready 0 ∧ ({ Pcie.zero with up := true }).up =
      true ∧ cfgReady unready = false) ∧
    -- clause 1
    (awake epWait = true ∧ epHeld = pcie epWait 0 ∧ epHeld.up = true ∧ cfgReady epWait = true) ∧
    -- clause 1
    (awake epWait = true ∧ epHeld = pcie epWait 0 ∧ epHeld.up = true ∧ cfgReady epWait = true) ∧
    -- clause 1
    (awake epWait = true ∧ epHeld = pcie epWait 0 ∧ epHeld.up = true ∧ cfgReady epWait = true) ∧
    -- clause 1
    (awake epWait = true ∧ epHeld = pcie epWait 0 ∧ epHeld.up = true ∧ cfgReady epWait = true) ∧
    -- clause 2
    (awake epOn = true ∧ epBase = pcie epOn 0 ∧ epBase.up = true) ∧
    -- clause 2
    (awake epOn = true ∧ epBase = pcie epOn 0 ∧ epBase.up = true) ∧
    -- clause 2
    (awake epOn = true ∧ epBase = pcie epOn 0 ∧ epBase.up = true) ∧
    -- clause 2
    (awake epOn = true ∧ epBase = pcie epOn 0 ∧ epBase.up = true) ∧
    -- clause 3
    (awake epOn = true ∧ epBase = pcie epOn 0 ∧ epBase.up = true) ∧
    -- clause 3
    (awake epOn = true ∧ epBase = pcie epOn 0 ∧ epBase.up = true) ∧
    -- clause 4
    (awake epOn = true ∧ epBase = pcie epOn 0 ∧ mayWrite epOn Requester.pcie0 (Reg.hstIntRearm 0) 4 = true ∧ bitOf
      32 5 = true ∧ bitOf (vectorsOf epOn 0 (intSum epOn)) 5 = true ∧ msixOn epBase = true ∧ epOn.img.weltPos = 0) ∧
    -- clause 4
    (awake epMasked = true ∧ pcie epMasked 0 = pcie epMasked 0 ∧ mayWrite epMasked Requester.benchM (Reg.hstIntRearm
      0) 4 = true ∧ bitOf 32 5 = true ∧ bitOf (vectorsOf epMasked 0 (intSum epMasked)) 5 = true ∧ msixOn (pcie
      epMasked 0) = true ∧ epMasked.img.weltPos = 0) ∧
    -- clause 5
    (awake epOn = true ∧ epBase = pcie epOn 0) ∧
    -- clause 5
    (awake epOn = true ∧ epBase = pcie epOn 0) ∧
    -- clause 5
    (awake epOn = true ∧ ({ Pcie.zero with up := true }) = pcie epOn 1) ∧
    -- clause 6
    (awake calm = true ∧ ({ Pcie.zero with up := true }) = pcie calm 1) ∧
    -- clause 7
    (awake hostAsked = true ∧ ({ Pcie.zero with up := true }) = pcie hostAsked 0 ∧ (List.find? (fun r => decide
      (r.id = 5)) hostAsked.host = none)) ∧
    -- clause 7
    (awake hostAsked = true ∧ ({ Pcie.zero with up := true }) = pcie hostAsked 0 ∧ (List.find? (fun r => decide
      (r.id = 5)) hostAsked.host = none)) ∧
    -- clause 8
    (awake hostAsked = true ∧ ({ Pcie.zero with up := true }) = pcie hostAsked 1 ∧ (List.find? (fun r => decide
      (r.id = 6)) hostAsked.host = some hostReq) ∧ hostReq.f = 1 ∧ hostReq.use = HostUse.cmdInput 1 ∧ hostHeld
      hostAsked hostReq = false) ∧
    -- clause 8
    (awake hostAsked = true ∧ ({ Pcie.zero with up := true }) = pcie hostAsked 1 ∧ (List.find? (fun r => decide
      (r.id = 6)) hostAsked.host = some hostReq) ∧ hostReq.f = 1 ∧ hostReq.use = HostUse.cmdInput 1 ∧ hostHeld
      hostAsked hostReq = false) ∧
    -- clause 8
    (awake hostAsked = true ∧ ({ Pcie.zero with up := true }) = pcie hostAsked 1 ∧ (List.find? (fun r => decide
      (r.id = 6)) hostAsked.host = some hostReq) ∧ hostReq.f = 1 ∧ hostReq.use = HostUse.cmdInput 1 ∧ hostHeld
      hostAsked hostReq = false) ∧
    -- clause 8
    (awake hostRecent = true ∧ ({ Pcie.zero with up := true }) = pcie hostRecent 1 ∧ (List.find? (fun r => decide
      (r.id = 6)) hostRecent.host = some ({ hostReq with since := 9999990000 })) ∧
      ({ hostReq with since := 9999990000 }).f = 1 ∧ ({ hostReq with since := 9999990000 }).use = HostUse.cmdInput 1
      ∧ hostHeld hostRecent ({ hostReq with since := 9999990000 }) = false) := by
  refine ⟨?_, ?_, ?_, ?_, ?_, ?_, ?_, ?_, ?_, ?_, ?_, ?_, ?_, ?_, ?_, ?_, ?_, ?_, ?_, ?_, ?_, ?_, ?_⟩ <;> decide +kernel

/-- States and operands that meet the hypotheses of `Obligations.DmaChannelsRunHaltAndGoOn`, one group a case. -/
theorem witness_DmaChannelsRunHaltAndGoOn :
    -- clause 1
    (awake dmaSet = true ∧ 0 = fget dmaSet (Reg.hstDmaHead 7) 15 0 ∧ 1 = dmaSize dmaSet 7 ∧ mayWrite dmaSet
      Requester.pcie1 (Reg.hstDmaCtrl 7) 4 = true ∧ dmaMay dmaSet Requester.pcie1 7 = true ∧ dmaEn dmaSet 7 = false
      ∧ bitOf 20 4 = true) ∧
    -- clause 2
    (awake dmaSet = true ∧ 0 = fget dmaSet (Reg.hstDmaHead 7) 15 0 ∧ 1 = dmaSize dmaSet 7 ∧ mayWrite dmaSet
      Requester.pcie0 (Reg.hstDmaCtrl 7) 4 = true ∧ dmaMay dmaSet Requester.pcie0 7 = false) ∧
    -- clause 3
    (awake dmaSet = true ∧ 0 = fget dmaSet (Reg.hstDmaHead 7) 15 0 ∧ 1 = dmaSize dmaSet 7 ∧ mayWrite dmaSet
      Requester.pcie0 (Reg.hstDmaTail 7) 4 = true ∧ (dmaMay dmaSet Requester.pcie0 7 = false ∨ dmaEn dmaSet 7 = true
      ∧ 1 < (20 % 65536 + 65536 - 0) % 65536)) ∧
    -- clause 3
    (awake dmaIdle = true ∧ 65530 = fget dmaIdle (Reg.hstDmaHead 5) 15 0 ∧ 16 = dmaSize dmaIdle 5 ∧ mayWrite dmaIdle
      Requester.pcie0 (Reg.hstDmaTail 5) 4 = true ∧ (dmaMay dmaIdle Requester.pcie0 5 = false ∨ dmaEn dmaIdle 5 =
      true ∧ 16 < (65547 % 65536 + 65536 - 65530) % 65536)) ∧
    -- clause 4
    (awake dmaIdle = true ∧ 65530 = fget dmaIdle (Reg.hstDmaHead 5) 15 0 ∧ 16 = dmaSize dmaIdle 5 ∧ mayWrite dmaIdle
      Requester.pcie0 (Reg.hstDmaTail 5) 4 = true ∧ dmaMay dmaIdle Requester.pcie0 5 = true ∧ dmaEn dmaIdle 5 = true
      ∧ dmaState dmaIdle 5 ≠ 2 ∧ (dmaCh dmaIdle 5).op = none ∧ (dmaCh dmaIdle 5).fetching = false ∧ asks dmaIdle
      (.dma 5) = false ∧ dmaIdle.pwr.stopGrants = false ∧ dmaOwner dmaIdle 5 ≤ 1 ∧ rd dmaIdle (Reg.hstDmaBase 5) +
      32 * 16 ≤ 2 ^ 63 ∧ 0 < (10 % 65536 + 65536 - 65530) % 65536 ∧ (10 % 65536 + 65536 - 65530) % 65536 ≤ 16) ∧
    -- clause 4
    (awake dmaIdle = true ∧ 65530 = fget dmaIdle (Reg.hstDmaHead 5) 15 0 ∧ 16 = dmaSize dmaIdle 5 ∧ mayWrite dmaIdle
      Requester.benchM (Reg.hstDmaTail 5) 4 = true ∧ dmaMay dmaIdle Requester.benchM 5 = true ∧ dmaEn dmaIdle 5 =
      true ∧ dmaState dmaIdle 5 ≠ 2 ∧ (dmaCh dmaIdle 5).op = none ∧ (dmaCh dmaIdle 5).fetching = false ∧ asks
      dmaIdle (.dma 5) = false ∧ dmaIdle.pwr.stopGrants = false ∧ dmaOwner dmaIdle 5 ≤ 1 ∧ rd dmaIdle
      (Reg.hstDmaBase 5) + 32 * 16 ≤ 2 ^ 63 ∧ 0 < (65531 % 65536 + 65536 - 65530) % 65536 ∧ (65531 % 65536 + 65536 -
      65530) % 65536 ≤ 16) ∧
    -- clause 5
    (awake dmaLast = true ∧ 65535 = fget dmaLast (Reg.hstDmaHead 5) 15 0 ∧ 16 = dmaSize dmaLast 5 ∧ (dmaCh dmaLast
      5).op = some dmaOpDone ∧ dmaLast.spm.waiting = [] ∧ dmaLast.spm.portCycle ≤ dmaLast.cycle ∧ dmaLast.nvc.wipeAt
      = none ∧ dmaState dmaLast 5 = 1 ∧ dmaOpDone.put = dmaOpDone.len ∧ dmaOpDone.writes = 0) ∧
    -- clause 5
    (awake dmaMore = true ∧ 65535 = fget dmaMore (Reg.hstDmaHead 5) 15 0 ∧ 16 = dmaSize dmaMore 5 ∧ (dmaCh dmaMore
      5).op = some dmaOpDone ∧ dmaMore.spm.waiting = [] ∧ dmaMore.spm.portCycle ≤ dmaMore.cycle ∧ dmaMore.nvc.wipeAt
      = none ∧ dmaState dmaMore 5 = 1 ∧ dmaOpDone.put = dmaOpDone.len ∧ dmaOpDone.writes = 0) ∧
    -- clause 5
    (awake dmaSpm = true ∧ 65535 = fget dmaSpm (Reg.hstDmaHead 5) 15 0 ∧ 16 = dmaSize dmaSpm 5 ∧ (dmaCh dmaSpm 5).op
      = some dmaOpDone ∧ dmaSpm.spm.waiting = [] ∧ dmaSpm.spm.portCycle ≤ dmaSpm.cycle ∧ dmaSpm.nvc.wipeAt = none ∧
      dmaState dmaSpm 5 = 1 ∧ dmaOpDone.put = dmaOpDone.len ∧ dmaOpDone.writes = 0) ∧
    -- clause 6
    (awake calm = true ∧ 0 = fget calm (Reg.hstDmaHead 7) 15 0 ∧ 1 = dmaSize calm 7 ∧ (dmaCh calm 7).op = none) ∧
    -- clause 7
    (awake dmaHalted = true ∧ 7 = fget dmaHalted (Reg.hstDmaHead 5) 15 0 ∧ 16 = dmaSize dmaHalted 5 ∧ mayWrite
      dmaHalted Requester.pcie0 (Reg.hstDmaCtrl 5) 4 = true ∧ dmaMay dmaHalted Requester.pcie0 5 = true ∧ dmaEn
      dmaHalted 5 = true ∧ dmaState dmaHalted 5 = 2 ∧ bitOf 2147483668 4 = true ∧ bitsOf 2147483668 3 0 = fget
      dmaHalted (Reg.hstDmaCtrl 5) 3 0 ∧ (dmaCh dmaHalted 5).op = none ∧ (dmaCh dmaHalted 5).fetching = false ∧ asks
      dmaHalted (.dma 5) = false ∧ bitOf 2147483668 31 = true ∧ dmaPosted dmaHalted 5 ≠ 0 ∧ dmaHalted.pwr.stopGrants
      = false ∧ dmaOwner dmaHalted 5 ≤ 1 ∧ rd dmaHalted (Reg.hstDmaBase 5) + 32 * 16 ≤ 2 ^ 63) ∧
    -- clause 7
    (awake dmaHalted = true ∧ 7 = fget dmaHalted (Reg.hstDmaHead 5) 15 0 ∧ 16 = dmaSize dmaHalted 5 ∧ mayWrite
      dmaHalted Requester.pcie0 (Reg.hstDmaCtrl 5) 4 = true ∧ dmaMay dmaHalted Requester.pcie0 5 = true ∧ dmaEn
      dmaHalted 5 = true ∧ dmaState dmaHalted 5 = 2 ∧ bitOf 1073741844 4 = true ∧ bitsOf 1073741844 3 0 = fget
      dmaHalted (Reg.hstDmaCtrl 5) 3 0 ∧ (dmaCh dmaHalted 5).op = none ∧ (dmaCh dmaHalted 5).fetching = false ∧ asks
      dmaHalted (.dma 5) = false ∧ bitOf 1073741844 31 = false ∧ bitOf 1073741844 30 = true ∧
      dmaHalted.pwr.stopGrants = false ∧ dmaOwner dmaHalted 5 ≤ 1 ∧ rd dmaHalted (Reg.hstDmaBase 5) + 32 * 16 ≤ 2 ^
      63 ∧ (fget dmaHalted (Reg.hstDmaTail 5) 15 0 + 65536 - (7 + 1) % 65536) % 65536 ≠ 0) ∧
    -- clause 7
    (awake dmaHaltedLast = true ∧ 7 = fget dmaHaltedLast (Reg.hstDmaHead 5) 15 0 ∧ 16 = dmaSize dmaHaltedLast 5 ∧
      mayWrite dmaHaltedLast Requester.pcie0 (Reg.hstDmaCtrl 5) 4 = true ∧ dmaMay dmaHaltedLast Requester.pcie0 5 =
      true ∧ dmaEn dmaHaltedLast 5 = true ∧ dmaState dmaHaltedLast 5 = 2 ∧ bitOf 1073741844 4 = true ∧ bitsOf
      1073741844 3 0 = fget dmaHaltedLast (Reg.hstDmaCtrl 5) 3 0 ∧ (dmaCh dmaHaltedLast 5).op = none ∧ (dmaCh
      dmaHaltedLast 5).fetching = false ∧ asks dmaHaltedLast (.dma 5) = false ∧ bitOf 1073741844 31 = false ∧ bitOf
      1073741844 30 = true ∧ dmaHaltedLast.pwr.stopGrants = false ∧ dmaOwner dmaHaltedLast 5 ≤ 1 ∧ rd dmaHaltedLast
      (Reg.hstDmaBase 5) + 32 * 16 ≤ 2 ^ 63 ∧ (fget dmaHaltedLast (Reg.hstDmaTail 5) 15 0 + 65536 - (7 + 1) % 65536)
      % 65536 = 0) ∧
    -- clause 7
    (awake dmaHaltedSpm = true ∧ 7 = fget dmaHaltedSpm (Reg.hstDmaHead 5) 15 0 ∧ 16 = dmaSize dmaHaltedSpm 5 ∧
      mayWrite dmaHaltedSpm Requester.pcie0 (Reg.hstDmaCtrl 5) 4 = true ∧ dmaMay dmaHaltedSpm Requester.pcie0 5 =
      true ∧ dmaEn dmaHaltedSpm 5 = true ∧ dmaState dmaHaltedSpm 5 = 2 ∧ bitOf 1073741844 4 = true ∧ bitsOf
      1073741844 3 0 = fget dmaHaltedSpm (Reg.hstDmaCtrl 5) 3 0 ∧ (dmaCh dmaHaltedSpm 5).op = none ∧ (dmaCh
      dmaHaltedSpm 5).fetching = false ∧ asks dmaHaltedSpm (.dma 5) = false ∧ 3 = fget dmaHaltedSpm (Reg.hstDmaStat
      5) 19 16 ∧ bitOf 1073741844 31 = false ∧ bitOf 1073741844 30 = true ∧ rd dmaHaltedSpm (Reg.hstDmaBase 5) = 2 ^
      63 + 4096 ∧ 4096 + 32 * 16 ≤ vaultBase ∧ fwEnd dmaHaltedSpm ≤ 4096 ∧ dmaHaltedSpm.spm.waiting = []) ∧
    -- clause 8
    (awake dmaHaltedSpm = true ∧ dmaBack.use = .dmaBack 5 3 true ∧ spmDenied dmaHaltedSpm dmaBack ≠ 4) := by
  refine ⟨?_, ?_, ?_, ?_, ?_, ?_, ?_, ?_, ?_, ?_, ?_, ?_, ?_, ?_, ?_⟩ <;> decide +kernel

/-- States and operands that meet the hypotheses of `Obligations.SpiTransactionsWatchdogAndMailboxesAnswer`, one group a case. -/
theorem witness_SpiTransactionsWatchdogAndMailboxesAnswer :
    -- clause 1
    (awake calm = true ∧ calm.spi.pend = none) ∧
    -- clause 2
    (awake spiReady = true ∧ spiReady.spi.pend = some spiDoneP ∧ spiDoneP.done = true) ∧
    -- clause 2
    (awake spiBusy = true ∧ spiBusy.spi.pend = some spiBusyP ∧ spiBusyP.done = false) ∧
    -- clause 3
    (awake spiRefusing = true ∧ spiRefusing.spi.refusing = true) ∧
    -- clause 4
    (awake spiReady = true ∧ spiReady.spi.refusing = false ∧ (63 ≠ 64 ∨ bitsOf 43980465111052 7 0 ≠ spiCrc
      43980465111052 ∨ bitsOf 43980465111052 63 62 = 3)) ∧
    -- clause 4
    (awake spiReady = true ∧ spiReady.spi.refusing = false ∧ (64 ≠ 64 ∨ bitsOf 13835102035747274791 7 0 ≠ spiCrc
      13835102035747274791 ∨ bitsOf 13835102035747274791 63 62 = 3)) ∧
    -- clause 4
    (awake spiReady = true ∧ spiReady.spi.refusing = false ∧ (64 ≠ 64 ∨ bitsOf 5 7 0 ≠ spiCrc 5 ∨ bitsOf 5 63 62 =
      3)) ∧
    -- clause 5
    (awake spiReady = true ∧ spiReady.spi.refusing = false ∧ bitsOf 4611684918915762558 7 0 = spiCrc
      4611684918915762558 ∧ 524287 = bitsOf 4611684918915762558 61 43 ∧ bitsOf 4611684918915762558 63 62 = 0) ∧
    -- clause 5
    (awake spiWr = true ∧ spiWr.spi.refusing = false ∧ bitsOf 11961570505900687136 7 0 = spiCrc 11961570505900687136
      ∧ Reg.hstSpiIrqEn / 4 = bitsOf 11961570505900687136 61 43 ∧ bitsOf 11961570505900687136 63 62 = 2 ∧ bitsOf
      11961570505900687136 42 40 = myPos spiWr ∧ 4 * (Reg.hstSpiIrqEn / 4) = Reg.hstSpiIrqEn ∧ spiMayWrite spiWr
      Reg.hstSpiIrqEn = true) ∧
    -- clause 5
    (awake calm = true ∧ calm.spi.refusing = false ∧ bitsOf 10808691882247325549 7 0 = spiCrc 10808691882247325549 ∧
      Reg.lrnRate / 4 = bitsOf 10808691882247325549 61 43 ∧ bitsOf 10808691882247325549 63 62 = 2 ∧ bitsOf
      10808691882247325549 42 40 = myPos calm ∧ spiMayWrite calm (4 * (Reg.lrnRate / 4)) = false) ∧
    -- clause 5
    (awake calm = true ∧ calm.spi.refusing = false ∧ bitsOf 4755792410410221671 7 0 = spiCrc 4755792410410221671 ∧
      16383 = bitsOf 4755792410410221671 61 43 ∧ bitsOf 4755792410410221671 63 62 = 1 ∧ bitsOf 4755792410410221671
      42 40 = myPos calm ∧ hostReach calm (4 * 16383) 4 = true ∧ 4 * 16383 < spmBase ∧ wordAt (4 * 16383) = none) ∧
    -- clause 5
    (awake calm = true ∧ calm.spi.refusing = false ∧ bitsOf 8070459328340951241 7 0 = spiCrc 8070459328340951241 ∧
      393217 = bitsOf 8070459328340951241 61 43 ∧ bitsOf 8070459328340951241 63 62 = 1 ∧ bitsOf 8070459328340951241
      42 40 = myPos calm ∧ hostReach calm (4 * 393217) 4 = true ∧ spmBase ≤ 4 * 393217 ∧ 4 * 393217 < ownEnd) ∧
    -- clause 6
    (awake calm = true ∧ mayWrite calm Requester.benchU Reg.seqWdogKick 4 = true) ∧
    -- clause 6
    (awake calm = true ∧ mayWrite calm Requester.pcie0 Reg.seqWdogKick 4 = true) ∧
    -- clause 7
    (awake dogLate = true) ∧
    -- clause 7
    (awake dogSoon = true) ∧
    -- clause 7
    (awake calm = true) ∧
    -- clause 8
    (awake calm = true ∧ mayWrite calm Requester.benchM Reg.seqCtrl 4 = true) ∧
    -- clause 9
    (awake box1 = true ∧ mboxPosted box1 2 = true ∧ mboxOp box1 2 = 1) ∧
    -- clause 9
    (awake box2 = true ∧ mboxPosted box2 2 = true ∧ mboxOp box2 2 = 2 ∧ mboxWaits box2 2 = false) ∧
    -- clause 9
    (awake box3 = true ∧ mboxPosted box3 2 = true ∧ mboxOp box3 2 = 3) ∧
    -- clause 9
    (awake box0 = true ∧ mboxPosted box0 2 = true ∧ mboxWaits box0 2 = false) ∧
    -- clause 9
    (awake box0 = true ∧ mboxPosted box0 2 = true ∧ mboxWaits box0 2 = false) ∧
    -- clause 9
    (awake boxC = true ∧ mboxPosted boxC 2 = true ∧ mboxWaits boxC 2 = false) := by
  refine ⟨?_, ?_, ?_, ?_, ?_, ?_, ?_, ?_, ?_, ?_, ?_, ?_, ?_, ?_, ?_, ?_, ?_, ?_, ?_, ?_, ?_, ?_, ?_, ?_⟩ <;> decide +kernel

/-- States and operands that meet the hypotheses of `Obligations.CanControllerSendsReceivesAndRecovers`, one group a case. -/
theorem witness_CanControllerSendsReceivesAndRecovers :
    -- clause 1
    (awake calm = true) ∧
    -- clause 1
    (awake canIdle = true) ∧
    -- clause 2
    (awake canTxObj = true ∧ flag canTxObj Reg.canCtrl 0 = false ∧ canTxObj.can.joined = true ∧ canTxObj.can.busOff
      = false ∧ canTxObj.can.rec_ = 0 ∧ mgmtReady canTxObj = false ∧ (∀ k < 128, flag canTxObj (Reg.canObjId k) 31 =
      true → flag canTxObj (Reg.canObjId k) 30 = true)) ∧
    -- clause 2
    (awake canRx = true ∧ flag canRx Reg.canCtrl 0 = false ∧ canRx.can.joined = true ∧ canRx.can.busOff = false ∧
      canRx.can.rec_ = 0 ∧ mgmtReady canRx = false ∧ 125 < 126 ∧ flag canRx (Reg.canObjId 125) 31 = true ∧ flag
      canRx (Reg.canObjId 125) 30 = false ∧ (frameIn.id ^^^ fget canRx (Reg.canObjId 125) 28 0) &&& rd canRx
      (Reg.canObjMask 125) = 0 ∧ flag canRx (Reg.canObjFmt 125) 30 = false ∧ (∀ j < 125, flag canRx (Reg.canObjId j)
      31 = false) ∧ (∀ w < 16, flipAt canRx 17 (16 * 125 + w) = none)) ∧
    -- clause 3
    (awake canUp = true ∧ flag canUp Reg.canCtrl 0 = false ∧ canUp.can.joined = true ∧ canUp.can.busOff = false ∧
      mgmtReady canUp = false ∧ 7 ≠ 0) ∧
    -- clause 3
    (awake canUp = true ∧ flag canUp Reg.canCtrl 0 = false ∧ canUp.can.joined = true ∧ canUp.can.busOff = false ∧
      mgmtReady canUp = false ∧ 1 ≠ 0) ∧
    -- clause 4
    (awake owned = true ∧ mayWrite owned Requester.pcie0 (Reg.canObjStat 127) 4 = true ∧ objHeld owned
      Requester.pcie0 127 = true) ∧
    -- clause 4
    (awake owned = true ∧ mayWrite owned Requester.pcie1 (Reg.canObjStat 126) 4 = true ∧ objHeld owned
      Requester.pcie1 126 = true) ∧
    -- clause 4
    (awake owned = true ∧ mayWrite owned Requester.benchM (Reg.canObjStat 127) 4 = true ∧ objHeld owned
      Requester.benchM 127 = false ∧ txReq owned 127 = false) ∧
    -- clause 4
    (awake asking7 = true ∧ mayWrite asking7 Requester.pcie0 (Reg.canObjStat 7) 4 = true ∧ objHeld asking7
      Requester.pcie0 7 = false ∧ txReq asking7 7 = true ∧ asking7.can.tx = none) ∧
    -- clause 4
    (awake sendAbort = true ∧ mayWrite sendAbort Requester.pcie0 (Reg.canObjStat 7) 4 = true ∧ objHeld sendAbort
      Requester.pcie0 7 = false ∧ txReq sendAbort 7 = true ∧ sendAbort.can.tx = some (7, frameIn, false)) ∧
    -- clause 5
    (awake sending0 = true ∧ sending0.can.tx = some (7, frameIn, false) ∧ 7 < 128 ∧ txReq sending0 7 = true ∧
      canMode sending0 = 0 ∧ sending0.can.tec ≤ 255) ∧
    -- clause 5
    (awake sending9 = true ∧ sending9.can.tx = some (7, frameIn, true) ∧ 7 < 128 ∧ txReq sending9 7 = true ∧ canMode
      sending9 = 0 ∧ sending9.can.tec ≤ 255) ∧
    -- clause 5
    (awake sending0 = true ∧ sending0.can.tx = some (7, frameIn, false) ∧ 7 < 128 ∧ txReq sending0 7 = true) ∧
    -- clause 5
    (awake sending9 = true ∧ sending9.can.tx = some (7, frameIn, true) ∧ 7 < 128 ∧ txReq sending9 7 = true) ∧
    -- clause 5
    (awake sendingOnce = true ∧ sendingOnce.can.tx = some (7, frameIn, false) ∧ 7 < 128 ∧ txReq sendingOnce 7 =
      true) ∧
    -- clause 5
    (awake sending9 = true ∧ sending9.can.tx = some (7, frameIn, true) ∧ 7 < 128 ∧ txReq sending9 7 = true ∧ 1 ≠ 3 ∧
      sending9.can.tec ≤ 247) ∧
    -- clause 5
    (awake sending0 = true ∧ sending0.can.tx = some (7, frameIn, false) ∧ 7 < 128 ∧ txReq sending0 7 = true ∧ 7 ≠ 3
      ∧ sending0.can.tec ≤ 247) ∧
    -- clause 6
    (awake busOff = true ∧ mayWrite busOff Requester.pcie0 Reg.canCtrl 4 = true ∧ bitOf 2147483648 31 = true) ∧
    -- clause 6
    (awake canUp = true ∧ mayWrite canUp Requester.benchM Reg.canCtrl 4 = true ∧ bitOf 2147483648 31 = true) ∧
    -- clause 7
    (awake calm = true ∧ flag calm Reg.canCtrl 0 = true) ∧
    -- clause 8
    (awake rejoining = true ∧ flag rejoining Reg.canCtrl 0 = false ∧ rejoining.can.busOff = true ∧
      rejoining.can.recovering = true ∧ rejoining.can.recov + 27 < 128) ∧
    -- clause 8
    (awake rejoining = true ∧ flag rejoining Reg.canCtrl 0 = false ∧ rejoining.can.busOff = true ∧
      rejoining.can.recovering = true ∧ 128 ≤ rejoining.can.recov + 28) := by
  refine ⟨?_, ?_, ?_, ?_, ?_, ?_, ?_, ?_, ?_, ?_, ?_, ?_, ?_, ?_, ?_, ?_, ?_, ?_, ?_, ?_, ?_, ?_, ?_⟩ <;> decide +kernel

/-- States and operands that meet the hypotheses of `Obligations.ManagementRequestsAreAnsweredOverCan`, one group a case. -/
theorem witness_ManagementRequestsAreAnsweredOverCan :
    -- clause 1
    (awake calm = true ∧ 0 = fget calm (Reg.canObjData 126 0) 31 0 ∧ mgmtReady calm = false) ∧
    -- clause 1
    (awake calm = true ∧ 0 = fget calm (Reg.canObjData 126 0) 31 0 ∧ mgmtReady calm = false) ∧
    -- clause 1
    (awake calm = true ∧ 0 = fget calm (Reg.canObjData 126 0) 31 0 ∧ mgmtReady calm = false) ∧
    -- clause 1
    (awake calm = true ∧ 0 = fget calm (Reg.canObjData 126 0) 31 0 ∧ mgmtReady calm = false) ∧
    -- clause 1
    (awake calm = true ∧ 0 = fget calm (Reg.canObjData 126 0) 31 0 ∧ mgmtReady calm = false) ∧
    -- clause 1
    (awake calm = true ∧ 0 = fget calm (Reg.canObjData 126 0) 31 0 ∧ mgmtReady calm = false) ∧
    -- clause 2
    (awake mPing = true ∧ 17409 = fget mPing (Reg.canObjData 126 0) 31 0 ∧ mgmtReady mPing = true ∧ bitsOf 17409 31
      16 = 0 ∧ bitsOf 17409 7 0 = 1 ∧ 4 ≤ mgmtLen mPing) ∧
    -- clause 2
    (awake mStatus = true ∧ 21762 = fget mStatus (Reg.canObjData 126 0) 31 0 ∧ mgmtReady mStatus = true ∧ bitsOf
      21762 31 16 = 0 ∧ bitsOf 21762 7 0 = 2 ∧ 4 ≤ mgmtLen mStatus) ∧
    -- clause 2
    (awake mTime = true ∧ 3 = fget mTime (Reg.canObjData 126 0) 31 0 ∧ mgmtReady mTime = true ∧ bitsOf 3 31 16 = 0 ∧
      bitsOf 3 7 0 = 3 ∧ 4 ≤ mgmtLen mTime) ∧
    -- clause 2
    (awake mReadFar = true ∧ 4 = fget mReadFar (Reg.canObjData 126 0) 31 0 ∧ mgmtReady mReadFar = true ∧ bitsOf 4 31
      16 = 0 ∧ bitsOf 4 7 0 = 4 ∧ 8 ≤ mgmtLen mReadFar ∧ [0, 1, 3, 22].contains (mgmtArg mReadFar 4 / 65536) =
      false) ∧
    -- clause 2
    (awake mReadOdd = true ∧ 4 = fget mReadOdd (Reg.canObjData 126 0) 31 0 ∧ mgmtReady mReadOdd = true ∧ bitsOf 4 31
      16 = 0 ∧ bitsOf 4 7 0 = 4 ∧ 8 ≤ mgmtLen mReadOdd ∧ [0, 1, 3, 22].contains (mgmtArg mReadOdd 4 / 65536) = true
      ∧ mgmtArg mReadOdd 4 % 4 ≠ 0) ∧
    -- clause 2
    (awake mReadErr = true ∧ 4 = fget mReadErr (Reg.canObjData 126 0) 31 0 ∧ mgmtReady mReadErr = true ∧ bitsOf 4 31
      16 = 0 ∧ bitsOf 4 7 0 = 4 ∧ 8 ≤ mgmtLen mReadErr ∧ mgmtArg mReadErr 4 = Reg.topErr) ∧
    -- clause 2
    (awake mStay = true ∧ 5 = fget mStay (Reg.canObjData 126 0) 31 0 ∧ mgmtReady mStay = true ∧ bitsOf 5 31 16 = 0 ∧
      bitsOf 5 7 0 = 5 ∧ 6 ≤ mgmtLen mStay) ∧
    -- clause 2
    (awake mPark = true ∧ 262 = fget mPark (Reg.canObjData 126 0) 31 0 ∧ mgmtReady mPark = true ∧ bitsOf 262 31 16 =
      0 ∧ bitsOf 262 7 0 = 6 ∧ 4 ≤ mgmtLen mPark) ∧
    -- clause 2
    (awake mParkOn = true ∧ 262 = fget mParkOn (Reg.canObjData 126 0) 31 0 ∧ mgmtReady mParkOn = true ∧ bitsOf 262
      31 16 = 0 ∧ bitsOf 262 7 0 = 6 ∧ 4 ≤ mgmtLen mParkOn) ∧
    -- clause 3
    (awake mShort = true ∧ 1 = fget mShort (Reg.canObjData 126 0) 31 0 ∧ mgmtReady mShort = true ∧ (bitsOf 1 7 0 = 1
      ∧ mgmtLen mShort < 4 ∨ bitsOf 1 7 0 = 1 ∧ bitsOf 1 31 16 ≠ 0)) ∧
    -- clause 3
    (awake mOdd = true ∧ 65537 = fget mOdd (Reg.canObjData 126 0) 31 0 ∧ mgmtReady mOdd = true ∧ (bitsOf 65537 7 0 =
      1 ∧ mgmtLen mOdd < 4 ∨ bitsOf 65537 7 0 = 1 ∧ bitsOf 65537 31 16 ≠ 0)) := by
  refine ⟨?_, ?_, ?_, ?_, ?_, ?_, ?_, ?_, ?_, ?_, ?_, ?_, ?_, ?_, ?_, ?_, ?_⟩ <;> decide +kernel

/-- States and operands that meet the hypotheses of `Obligations.ReservedOffsetsReadZeroAndKeepEverything`, one group a case. -/
theorem witness_ReservedOffsetsReadZeroAndKeepEverything :
    -- clause 1
    (awake calm = true ∧ wordAt 65532 = none ∧ 65532 % 4 = 0 ∧ 65532 < spmBase ∧ fnOf Requester.pcie0 = some 0 ∧
      mayWrite calm Requester.pcie0 65532 4 = true) ∧
    -- clause 1
    (awake calm = true ∧ wordAt 65532 = none ∧ 65532 % 4 = 0 ∧ 65532 < spmBase ∧ fnOf Requester.pcie1 = some 1 ∧
      mayWrite calm Requester.pcie1 65532 4 = true) ∧
    -- clause 2
    (awake calm = true ∧ wordAt 65532 = none ∧ 65532 % 4 = 0 ∧ 65532 < spmBase ∧ calm.spi.refusing = false ∧ bitsOf
      4755792410410221671 7 0 = spiCrc 4755792410410221671 ∧ 4 * bitsOf 4755792410410221671 61 43 = 65532 ∧ bitsOf
      4755792410410221671 42 40 = myPos calm ∧ bitsOf 4755792410410221671 63 62 = 1 ∧ hostReach calm 65532 4 = true)
      ∧
    -- clause 2
    (awake spiWr = true ∧ wordAt 65532 = none ∧ 65532 % 4 = 0 ∧ 65532 < spmBase ∧ spiWr.spi.refusing = false ∧
      bitsOf 9367478428837611828 7 0 = spiCrc 9367478428837611828 ∧ 4 * bitsOf 9367478428837611828 61 43 = 65532 ∧
      bitsOf 9367478428837611828 42 40 = myPos spiWr ∧ bitsOf 9367478428837611828 63 62 = 2 ∧ spiMayWrite spiWr
      65532 = true) ∧
    -- clause 3
    (awake calm = true ∧ wordAt 65532 = none ∧ 65532 % 4 = 0 ∧ 65532 < spmBase ∧ (Requester.benchM =
      Requester.benchM ∨ Requester.benchM = Requester.benchU) ∧ calm.seq.running = true) ∧
    -- clause 3
    (awake calm = true ∧ wordAt 65532 = none ∧ 65532 % 4 = 0 ∧ 65532 < spmBase ∧ (Requester.benchU =
      Requester.benchM ∨ Requester.benchU = Requester.benchU) ∧ calm.seq.running = true) ∧
    -- clause 4
    (awake reading = true ∧ wordAt 65532 = none ∧ 65532 % 4 = 0 ∧ 65532 < spmBase ∧ frameOf 4232332517752963072
      gapData = frameOf 4232332517752963072 gapData ∧ (frameOf 4232332517752963072 gapData).typ = 3 ∧ (frameOf
      4232332517752963072 gapData).size = false ∧ (frameOf 4232332517752963072 gapData).off = 65532 ∧ (frameOf
      4232332517752963072 gapData).dst = myPos reading ∧ (frameOf 4232332517752963072 gapData).src ≠ myPos reading ∧
      (wport reading 0).inq = [] ∧ (wport reading 1).inq = [] ∧ (wport reading 1).state = 4 ∧ bitsOf
      4232332517752963072 59 48 = (wport reading 1).expSeq ∧ (wport reading (portTo reading (frameOf
      4232332517752963072 gapData).src)).sends = true ∧ (wport reading (portTo reading (frameOf 4232332517752963072
      gapData).src)).waitq = [] ∧ (wport reading (portTo reading (frameOf 4232332517752963072 gapData).src)).out =
      []) := by
  refine ⟨?_, ?_, ?_, ?_, ?_, ?_, ?_⟩ <;> decide +kernel

/-- States and operands that meet the hypotheses of `Obligations.MemoryCommandsKeepTheCanonicalForm`, one group a case. -/
theorem witness_MemoryCommandsKeepTheCanonicalForm :
    -- clause 1
    (awake waitW = true ∧ waitW.memWf ∧ (wport waitW 0).inq = [] ∧ (wport waitW 1).inq = []) ∧
    -- clause 2
    (awake userArea = true ∧ userArea.memWf ∧ mayWrite userArea Requester.pcie0 Reg.nvcAccCmd 4 = true) ∧
    -- clause 3
    (awake writing = true ∧ writing.memWf) ∧
    -- clause 4
    (awake wiping = true ∧ wiping.memWf) ∧
    -- clause 5
    (awake clearing = true ∧ clearing.memWf) ∧
    -- clause 6
    (awake marching0 = true ∧ marching0.memWf) ∧
    -- clause 6
    (awake marching1 = true ∧ marching1.memWf) ∧
    -- clause 7
    (awake repairing = true ∧ repairing.memWf ∧ mayWrite repairing Requester.pcie0 Reg.intRetireEnt 8 = true) := by
  unfold State.memWf
  refine ⟨?_, ?_, ?_, ?_, ?_, ?_, ?_, ?_⟩ <;> decide +kernel

/-- A queue with a command at its front, and an empty one. -/
theorem witness_StepRunsTheFrontCommandOrTicks :
    ({ calm with pending := [Instr.vaonLoss] } : State).pending = Instr.vaonLoss :: [] ∧ calm.pending = [] := by
  decide +kernel

/-- A device in PARK, its clocks off, and one without supply, each with an empty queue. -/
theorem witness_WithoutFastClocksOnlyTheAlwaysOnDomainMoves :
    (awake parked = false ∧ parked.msixInv ∧ alwaysOn (.sourceLoss 0) = false) ∧ (off.pending = [] ∧ off.pwr.st = .off) ∧
      (parkedStep.pending = [] ∧ parkedStep.pwr.st = .park ∧ parkedStep.pwr.resume = none ∧ parkedStep.pwr.counting = true) := by
  unfold State.msixInv
  decide +kernel

/-- A state in READY whose vectors agree, and its step. -/
theorem witness_EveryStepKeepsVectorsAgreed : (∃ t, step calm = .next t) ∧ calm.msixInv := by
  refine ⟨⟨_, rfl⟩, ?_⟩
  unfold State.msixInv
  decide +kernel

/-- The image of the loader's clause carries a good header, length, key, digest and sections. -/
theorem image_header : hdrOk fetchingGood image = true ∧ lengthOk image 4096 false = true := by decide +kernel

theorem image_key : keyOk fetchingGood image = true := by decide +kernel

theorem image_signature : sigOk image = true := by decide +kernel

theorem image_sections : sectsOk image = true ∧ admitImage image = none := by decide +kernel

theorem image_place :
    bitOf (fieldAt image 11 1) fetchingGood.lcs.lcState = true ∧ fetchingGood.lcs.secVer ≤ fieldAt image 9 1 ∧
      fwOk fetchingGood image = true ∧ weltPosOf image = 0 ∧ fetchingGood.img.straps = 0 ∧
      iltLen fetchingGood fetchingGood.img.copy = 4096 := by decide +kernel

/-- The one hypothesis of `Obligations.LoaderReadsAdmitsAndAppliesAnImage` whose evaluation is long: the image is admitted. -/
theorem witness_imageAdmitted :
    authenticate fetchingGood image (iltLen fetchingGood fetchingGood.img.copy) false = (0, 0, 0) := by
  obtain ⟨h1, h2, h3, h4, h5, h6⟩ := image_place
  simp [authenticate, h6, image_header, h1, h2, image_key, image_signature, image_sections, h3, h4, h5]

/-- The same of a host load: the image as it stands in the scratchpad, and each check of it. -/
theorem host_image : (hostImage hosting).2 = image := by
  have ho : fget hosting Reg.imgHostAddr 20 0 = 0 := by decide +kernel
  have hs : hostSpace hosting = vaultBase := by decide +kernel
  have hl : image.length = 4096 := by decide +kernel
  have hn : fieldAt (image.take 64) 12 4 = 4096 := by decide +kernel
  have hr : ∀ n, n ≤ 4096 → (spmRead hosting 49 0 n).2.1 = image.take n := fun n h => by
    rw [spmRead_clean rfl]
    exact memBytes_memPuts [] 0 image (by omega)
  have hm : min 64 vaultBase = 64 := by decide
  have hv : max (min 4096 vaultBase) 64 = 4096 := by decide
  simp only [hostImage, ho, hs, hm, hr 64 (by decide), hn, hv, hr 4096 (by decide)]
  exact List.take_of_length_le (by omega)

theorem host_place :
    hdrOk hosting image = true ∧ lengthOk image (hostSpace hosting) true = true ∧
      bitOf (fieldAt image 11 1) hosting.lcs.lcState = true ∧ hosting.lcs.secVer ≤ fieldAt image 9 1 ∧
      keyOk hosting image = true ∧ fwOk hosting image = true ∧ weltPosOf image = 0 ∧ hosting.img.straps = 0 := by
  decide +kernel

theorem witness_hostImageAdmitted : authenticate hosting (hostImage hosting).2 (hostSpace hosting) true = (0, 0, 0) := by
  obtain ⟨h1, h2, h3, h4, h5, h6, h7, h8⟩ := host_place
  simp [host_image, authenticate, h1, h2, h3, h4, h5, image_signature, image_sections, h6, h7, h8]

/-- Link commands whose operand no link can carry. -/
theorem ill_formed_link_commands :
    (Instr.dscReceive 0 [] 0 0).wf = false ∧ (Instr.dscReceive 0 goodDsc 0 (2 ^ 20)).wf = false ∧
      (Instr.blockLockLoss 0 (some (2 ^ 20))).wf = false ∧ (Instr.blockError 0 0 0 none).wf = false ∧
      (Instr.dreqSend 0 (2 ^ 20)).wf = false ∧ (Instr.weltUp 0 0 (2 ^ 20)).wf = false ∧
      (Instr.keyReceive 0 0 (List.replicate 129 0)).wf = false ∧ (Instr.ansReceive 0 0 (List.replicate 129 0)).wf = false ∧
      (Instr.bpw 0 0 (List.replicate 129 0)).wf = false ∧ (Instr.brd 0 0 (List.replicate 129 0)).wf = false ∧
      (Instr.bcpl 0 0 (List.replicate 129 0)).wf = false ∧ (Instr.bnote 0 0 (List.replicate 129 0)).wf = false ∧
      (Instr.canFrameReceive { frameIn with data := List.replicate 65 0 } 0 false 0).wf = false ∧
      (Instr.canFrameReceive { frameIn with dlc := 16 } 0 false 0).wf = false ∧
      (Instr.canFrameReceive { frameIn with id := 2 ^ 29 } 0 false 0).wf = false := by decide +kernel

/-- Trigger writes that do not carry their trigger bit. -/
theorem ill_formed_triggers :
    (Instr.flashCommand .pcie0 0 []).wf = false ∧ (Instr.tapRestart .pcie0 0 1 none).wf = false ∧
      (Instr.tollRead .pcie0 2).wf = false ∧ (Instr.tollWrite .pcie0 1).wf = false ∧ (Instr.freshRead .pcie0 2).wf = false ∧
      (Instr.freshWrite .pcie0 1).wf = false ∧ (Instr.sigReq .pcie0 0).wf = false ∧ (Instr.flushStream .pcie0 0).wf = false ∧
      (Instr.weltRestart .pcie0 0 1).wf = false ∧ (Instr.marchGo .pcie0 0).wf = false ∧
      (Instr.dmaResume .pcie0 0 (2 ^ 30)).wf = false ∧ (Instr.dmaSkip .pcie0 0 (2 ^ 31)).wf = false ∧
      (Instr.recover .pcie0 0).wf = false ∧ (Instr.ckptGo .pcie0 0).wf = false := by decide +kernel

/-- Accesses and tables of a shape that nothing accepts. -/
theorem ill_formed_accesses :
    (Instr.iltRead [] []).wf = false ∧ (Instr.flashCommand .pcie0 (2 ^ 31) (List.replicate 257 0)).wf = false ∧
      (Instr.slaveWindowWrite .pcie0 1 2 [0, 0, 0, 0]).wf = false ∧ (Instr.slaveWindowRead .pcie0 1 4 8).wf = false ∧
      (Instr.setWindowWrite .pcie0 0 []).wf = false ∧ (Instr.clearWindowWrite .pcie0 0 (List.replicate 65 0)).wf = false ∧
      (Instr.rotateAccess .pcie0 false 0 [] 65).wf = false ∧ (Instr.sramScrubVisit 0 256).wf = false ∧
      (Instr.mailboxAnswer 0 0 [1, 2, 3, 4, 5]).wf = false ∧ (Instr.registerWrite .pcie0 0 []).wf = false ∧
      (Instr.registerRead .pcie0 0 0).wf = false := by decide +kernel

/-- No row of the table has bits: no word spells a command, and placing one leaves the state alone. -/
theorem no_word_spells_a_command :
    decodeTableWord 16 0xFFFF = none ∧ (calm.withFetchWord 16 0xFFFF).pending = [] := by decide +kernel

/-- R14's worked example: 16,777,216 of 67,108,864 granules read as PERCENT 2500. -/
theorem test_percent : bitsOf (progValue 67108864 16777216 true) 45 32 = 2500 := by decide +kernel

/-- Entries A and B of the worked example after R196, at head rows 16,384 and 16,386. -/
def windows : State := { calm with tca := { TcaSt.zero with
  rows := [(16384, ⟨0x0120000000003B9ACA00, 0xFFF00000000000000000, true⟩), (16385, ⟨0x0000000000003BA26B20, 0x1FFF0000000000000000, false⟩),
    (16386, ⟨0, 1, true⟩), (16387, ⟨0, 0, false⟩)] } }

/-- That example: identifier 0x125 stamped in the window matches both entries, and A's upper bound straddles. -/
theorem test_window_entries :
    matches_ windows (tern 1 1 2) (BitVec.ofNat 640 (0x125 * 2 ^ 64 + 1000499999)) = [16384, 16386] ∧
      straddles windows (tern 1 1 2) (BitVec.ofNat 640 (0x125 * 2 ^ 64 + 1000499999)) ⟨1000499999, 224, 2⟩ = true ∧
      matches_ windows (tern 1 1 2) (BitVec.ofNat 640 (0x125 * 2 ^ 64 + 1000500000)) = [16386] := by decide +kernel

/-- R113's worked example: the bound 2,000,000 ns against a stamp of 1,999,999.750 ns at 3 ns, and against itself at 0. -/
theorem test_straddle_bound :
    crosses (1999999 * 256 + 192) (32 * 24) 2000000 = true ∧ crosses (2000000 * 256) 0 2000000 = false := by decide +kernel

/-- R200: a level rises above 112 °C and falls at or below 109 °C; from 3 at 122 °C it falls to 2. -/
theorem test_throttle_levels :
    levelFor 0 112 = 0 ∧ levelFor 0 113 = 1 ∧ levelFor 1 110 = 1 ∧ levelFor 1 109 = 0 ∧ levelFor 3 122 = 2 ∧ levelFor 0 125 = 3 := by
  decide +kernel

/-- R103's worked example: an rtt of 76.750 ns with ASYM +160 gives dly_out 9,984/256 ns. -/
theorem test_delay_out :
    dlyOut (wr { calm with mil := { MilSt.zero with dly := [(3, { Dly.zero with good := [19648] })] } } (Reg.milPortAsym 3) 160) 3 = 9984 := by
  decide +kernel

/-- R109's worked example: the first edges of TRIG1 and TRIG0 at or after 1,234,567,891,000 ns. -/
theorem test_trigger_grid :
    nextGrid 10000000 40000000 1234567891000 = 1234570000000 ∧ nextGrid 0 40000000 1234567891000 = 1234600000000 := by
  decide +kernel

/-- R176's worked example: the refills of its steps 1 to 3. -/
theorem test_toll_refill :
    refill 0 0 3000 12500000 200000 = (2500, 0) ∧ refill 1000 0 3000 12500000 40 = (1000, 500000000) ∧
      refill 1000 500000000 3000 12500000 80 = (1001, 500000000) ∧ refill 3500 0 6000 25000000 40 = (3501, 0) := by decide +kernel

/-- The same example's colours: green at step 1, yellow at step 2, red at step 4. -/
theorem test_toll_colours :
    (colour ⟨12500000, 25000000, true, 3000, 6000, 2500, 5000, 0, 0, 0⟩ 0 1500).1 = 0 ∧
      (colour ⟨12500000, 25000000, true, 3000, 6000, 1000, 3501, 0, 0, 0⟩ 0 1500).1 = 1 ∧
      (colour ⟨12500000, 25000000, true, 3000, 6000, 1002, 505, 0, 0, 0⟩ 0 1500).1 = 2 := by decide +kernel

/-- R168's worked example: its six steps emit key 0 at step 2 and key 1 at step 5, the identifier at bits 64 and 8. -/
theorem test_cobbler_program :
    runProgram calm { flight 7 with
      selPort := 9
      bytes := List.replicate 32 0 ++ [0x25, 1] ++ List.replicate 30 0
      stamp := ⟨77, 0, 0⟩ } [0x30000300, 0x1040401C, 0x40000000, 0x34000000, 0x1408401C, 0x44000000] 0
      [⟨0, false⟩, ⟨0, false⟩, ⟨0, false⟩, ⟨0, false⟩] =
      [(0, 2, ⟨0x125 * 2 ^ 64 + 77, true⟩), (1, 5, ⟨0x125 * 2 ^ 8 + 9, false⟩)] := by decide +kernel

/-- R171's worked example: lanes 0 and 1 from search 1, lanes 2 and 3 from search 2. -/
theorem test_action_lanes :
    actionOf { flight 7 with recw := [0, 0, 0xF3C, 0xFF] } [(1, 0x00001A2B00003344), (2, 0x7700001000000005)] = 0x77001A2B := by
  decide +kernel

/-- R207's worked example, its rows 7,984 lower: with free slots at 6 and 26 the device moves 4 entries to higher rows. -/
def laybyRows : List (Nat × TRow) := (List.range 9).map (fun i => (8 + 2 * i, ⟨0, 0, true⟩))
def laybys : State := { calm with tca := { TcaSt.zero with
  rows := laybyRows
  order := [(18, 301), (20, 301), (22, 301), (24, 301)] } }
theorem test_insert_plan :
    insertPlan laybys (tern 0 1 0) 300 = ([(24, 26), (22, 24), (20, 22), (18, 20)], some 18) := by decide +kernel

/-- The check values of CRC-32C over "123456789" and of SHA-256 over "abc" (R66, R130 name the algorithms). -/
theorem test_check_values :
    crc32c [49, 50, 51, 52, 53, 54, 55, 56, 57] = 0xE3069283 ∧
      ofBe (sha256 [97, 98, 99]) = 0xBA7816BF8F01CFEA414140DE5DAE2223B00361A396177A9CB410FF61F20015AD := by decide +kernel

/-- R522's table: at WOKEN the flash is held in reset and PARK_REQ_N high; R109: an idle active-low trigger output drives high, and
with OE at 0 it floats (R117). -/
theorem test_balls :
    ballState State.reset .xspiResetN = .low ∧ ballState State.reset .parkReqN = .high ∧ ballState State.reset .mo = .low ∧
      ballState (wr calm (Reg.milTrigCtrl 3) 5) (.trig 3) = .high ∧ ballState (wr calm (Reg.milTrigCtrl 3) 4) (.trig 3) = .highZ ∧
      ballState { calm with pwr := { calm.pwr with st := .park } } .parkReqN = .low := by decide +kernel

end Sys2Proof.Tests
end

section
namespace Sys2Proof.Machine

section PortCount
variable (s : State) (m : Requester)

/-- A field that a register write leaves alone, the count of an access leaves alone. -/
theorem portCount_same {β : Type} (f : State → β) (h : ∀ o v, f (wr s o v) = f s) : f (portCount s m) = f s := by
  unfold portCount
  split
  · exact h _ _
  · rfl

@[simp] theorem portCount_cycle : (portCount s m).cycle = s.cycle := portCount_same s m _ (wr_cycle s)
@[simp] theorem portCount_way : (portCount s m).way = s.way := portCount_same s m _ (wr_way s)
@[simp] theorem portCount_vrd : (portCount s m).vrd = s.vrd := portCount_same s m _ (wr_vrd s)
@[simp] theorem portCount_cbl : (portCount s m).cbl = s.cbl := portCount_same s m _ (wr_cbl s)
@[simp] theorem portCount_mil : (portCount s m).mil = s.mil := portCount_same s m _ (wr_mil s)
@[simp] theorem portCount_img : (portCount s m).img = s.img := portCount_same s m _ (wr_img s)
@[simp] theorem portCount_stage : (portCount s m).stage = s.stage := portCount_same s m _ (wr_stage s)
@[simp] theorem portCount_now : (portCount s m).now = s.now := portCount_same s m _ (wr_now s)

/-- The registers below the endpoints' counters of requests: neither the count of an access nor a message reaches them. -/
def belowCounts (o : Nat) : Prop := o < Reg.hstPcieCnt 0 0

variable {m} in
theorem not_mem_portRegs {o : Nat} (h : belowCounts o) : o ∉ portRegs m := by
  cases m <;> simp [portRegs, fnOf, belowCounts, Reg.hstPcieCnt] at * <;> omega

theorem not_mem_msgRegs {o : Nat} (h : belowCounts o) : o ∉ msgRegs := by
  simp [msgRegs, belowCounts, Reg.hstPcieCnt] at *
  omega

/-- The count of an access is read back by no register below the counters. -/
theorem rd_portCount {o : Nat} (h : belowCounts o) : rd (portCount s m) o = rd s o :=
  (only_portCount s m).2.1 o (not_mem_msgRegs h) (not_mem_portRegs h)

theorem locked_portCount : locked (portCount s m) = locked s := by
  rw [locked, locked, flag, flag, rd_portCount s m (by simp [belowCounts, Reg.imgLock, Reg.hstPcieCnt])]

/-- A register below the counters reads after the end of a command as its effect left it. -/
theorem rd_finish_below {t : State} {o : Nat} (h : belowCounts o) : rd (finish s t) o = rd t o :=
  rd_finish s t (not_mem_msgRegs h)

end PortCount

/-- A refused write latches RSVD_CODE. -/
theorem flag_rsvd (s : State) (m o : Nat) : flag (rsvd s m o) Reg.topErr 0 = true := by
  rw [rsvd, flag, rd_wr_ne _ _ (by decide), ← flag, flag_setEvt_same _ _ _ (by decide)]

/-- A refused write of a locked field latches LOCKED_WR. -/
theorem flag_lockedWr (s : State) (m o : Nat) : flag (lockedWr s m o) Reg.topErr 1 = true := by
  rw [lockedWr, flag, rd_wr_ne _ _ (by decide), ← flag, flag_setEvt_same _ _ _ (by decide)]

/-- A refused write records its master and the place (R547). -/
theorem rd_rsvd_addr (s : State) (m o : Nat) :
    rd (rsvd s m o) Reg.topErrAddr = (m * 2 ^ 26 + o % 2 ^ 21) % 2 ^ 64 := by rw [rsvd, rd_wr_same]

theorem rd_lockedWr_addr (s : State) (m o : Nat) :
    rd (lockedWr s m o) Reg.topErrAddr = (m * 2 ^ 26 + o % 2 ^ 21) % 2 ^ 64 := by rw [lockedWr, rd_wr_same]

theorem rd_rsvd_ne (s : State) (m : Nat) {o p : Nat} (h : p ∉ errRegs) : rd (rsvd s m o) p = rd s p := by
  simp [errRegs] at h
  rw [rsvd, rd_wr_ne _ _ h.2, rd_setEvt_ne _ _ h.1]

theorem flag_congr {s t : State} {o : Nat} (h : rd t o = rd s o) (b : Nat) : flag t o b = flag s o b := by
  rw [flag, flag, h]

theorem fget_congr {s t : State} {o : Nat} (h : rd t o = rd s o) (hi lo : Nat) : fget t o hi lo = fget s o hi lo := by
  rw [fget, fget, h]

/-- A command that ends with effect `t` ends in any state of which that effect's end says so. -/
theorem ends_of {c : Instr} {s t : State} {P : State → Prop} (e : exec c s = .next (finish s t)) (h : P (finish s t)) :
    Ends c s P := ⟨_, e, h⟩

/-- An update of parts that are named touches no register and no port. -/
theorem only_units {us : List UnitName} {s t : State} (h : keepsUnits us s t) (hr : t.regs = s.regs)
    (hp : t.pcie = s.pcie) : Only us [] s t :=
  ⟨h, fun o _ _ => rd_congr hr o, fun f => by simp [pcie, hp]⟩

end Sys2Proof.Machine
end

section
namespace Sys2Proof.Machine

/-- A command that writes a register has its effect's frame, and its port counts the access. -/
theorem Only.counted {us : List UnitName} {rs : List Nat} {s t : State} {m : Requester} (h : Only us rs (portCount s m) t) :
    Only us (rs ++ portRegs m) s (finish s t) := by
  refine (((only_portCount s m).trans h).mono ?_ ?_).finished
  · simp
  · intro o ho
    simpa [or_comm] using ho

/-- A frame of several steps, each within the same parts and registers for the elements of the list. -/
theorem only_foldl_mem {α : Type} {us : List UnitName} {rs : List Nat} (g : State → α → State) (l : List α)
    (h : ∀ t, ∀ a ∈ l, Only us rs t (g t a)) (s : State) : Only us rs s (l.foldl g s) := by
  induction l generalizing s with
  | nil => exact Only.refl _ _ s
  | cons a l ih =>
    exact (h s a (by simp)).more (ih (fun t b hb => h t b (by simp [hb])) _) (List.Subset.refl _) (List.Subset.refl _)

/-! ### Records of eight words -/

section Words
variable (s : State) (at_ : Nat → Nat)

theorem only_unstage : Only [.cbl] [] s (unstage s at_) :=
  only_units (fun u hu => by cases u <;> simp [UnitName.same, unstage] at *) rfl rfl

theorem only_putWords (ws : List Nat) : Only [] ((List.range 8).map at_) s (putWords s at_ ws) := by
  refine only_foldl_mem _ _ (fun t e he => ?_) s
  refine (only_wr t _ _).mono (List.Subset.refl _) ?_
  intro o ho
  rw [List.mem_singleton.1 ho]
  exact List.mem_map_of_mem (List.of_mem_zip he).2

@[simp] theorem putWords_vrd (ws : List Nat) : (putWords s at_ ws).vrd = s.vrd := (only_putWords s at_ ws).1 .vrd (by simp)
@[simp] theorem putWords_cbl (ws : List Nat) : (putWords s at_ ws).cbl = s.cbl := (only_putWords s at_ ws).1 .cbl (by simp)

/-- Words written one after another to distinct places leave the places after them alone. -/
theorem rd_foldl_wr_before {at_ : Nat → Nat} (hi : at_.Injective) (ws : List Nat) (k j : Nat) (hj : j < k) (s : State) :
    rd ((ws.zip (List.range' k ws.length)).foldl (fun st e => wr st (at_ e.2) e.1) s) (at_ j) = rd s (at_ j) := by
  induction ws generalizing k s with
  | nil => rfl
  | cons a ws ih =>
    rw [List.length_cons, List.range'_succ, List.zip_cons_cons, List.foldl_cons, ih (k + 1) (by omega),
      rd_wr_ne _ _ (fun e => by have := hi e; omega)]

/-- Words written one after another to distinct places read back. -/
theorem rd_foldl_wr {at_ : Nat → Nat} (hi : at_.Injective) (ws : List Nat) (k i : Nat) (h : i < ws.length) (s : State) :
    rd ((ws.zip (List.range' k ws.length)).foldl (fun st e => wr st (at_ e.2) e.1) s) (at_ (k + i)) =
      ws.getD i 0 % 2 ^ 64 := by
  induction ws generalizing k i s with
  | nil => simp at h
  | cons a ws ih =>
    rw [List.length_cons, List.range'_succ, List.zip_cons_cons, List.foldl_cons]
    cases i with
    | zero => simp [rd_foldl_wr_before hi]
    | succ i => simpa [Nat.add_assoc, Nat.add_comm 1 i] using ih (k + 1) i (by simpa using h) _

/-- Eight words put in force read back. -/
theorem rd_putWords {at_ : Nat → Nat} (hi : at_.Injective) {ws : List Nat} (hl : ws.length = 8) {w : Nat} (hw : w < 8) :
    rd (putWords s at_ ws) (at_ w) = ws.getD w 0 % 2 ^ 64 := by
  have h := rd_foldl_wr hi ws 0 w (by omega) s
  rwa [hl, Nat.zero_add, ← List.range_eq_range'] at h

@[simp] theorem length_stagedWords (v : Nat) : (stagedWords s at_ v).length = 8 := by simp [stagedWords]

/-- The words a commit would take depend on the staging and the words in force alone. -/
theorem stagedWords_congr {t : State} (hc : t.cbl = s.cbl) (hr : ∀ w, w < 7 → rd t (at_ w) = rd s (at_ w)) (v : Nat) :
    stagedWords t at_ v = stagedWords s at_ v := by
  simp only [stagedWords, hc]
  congr 1
  refine List.map_congr_left (fun w hw => ?_)
  rw [hr w (List.mem_range.1 hw)]

/-- The last word taken is the one written. -/
theorem stagedWords_last (v : Nat) : (stagedWords s at_ v).getD 7 0 = v := by simp [stagedWords]

end Words

/-! ### PROFILE_COMMIT -/

theorem cblProf_injective (n : Nat) : (Reg.cblProf n).Injective := fun a b h => by
  simp only [Reg.cblProf] at h
  omega

theorem cblSel_injective (n : Nat) : (Reg.cblSel n).Injective := fun a b h => by
  simp only [Reg.cblSel] at h
  omega

theorem belowCounts_cblProf {n w : Nat} (hn : n < 64) (hw : w < 8) : belowCounts (Reg.cblProf n w) := by
  simp only [belowCounts, Reg.cblProf, Reg.hstPcieCnt]
  omega

theorem belowCounts_cblSel {n w : Nat} (hn : n < 512) (hw : w < 8) : belowCounts (Reg.cblSel n w) := by
  simp only [belowCounts, Reg.cblSel, Reg.hstPcieCnt]
  omega

/-- The tables in force and the programs decide about a record, and nothing else does (R169). -/
theorem recordOk_congr {s t : State} (hi : t.img = s.img) (hr : ∀ o, belowCounts o → rd t o = rd s o) (n : Nat)
    (r : List Byte) : recordOk t n r = recordOk s n r := by
  have hg : bitsOf (word r 0) 23 16 < 256 := Nat.mod_lt _ (by decide)
  have hlen : fget t (Reg.cblProgLen (bitsOf (word r 0) 23 16)) 5 0 = fget s (Reg.cblProgLen (bitsOf (word r 0) 23 16)) 5 0 :=
    fget_congr (hr _ (by simp only [belowCounts, Reg.cblProgLen, Reg.hstPcieCnt]; omega)) 5 0
  have hprog : (List.range (fget s (Reg.cblProgLen (bitsOf (word r 0) 23 16)) 5 0)).map
      (fun k => rd t (Reg.cblProg (bitsOf (word r 0) 23 16) k)) =
      (List.range (fget s (Reg.cblProgLen (bitsOf (word r 0) 23 16)) 5 0)).map
      (fun k => rd s (Reg.cblProg (bitsOf (word r 0) 23 16) k)) := by
    refine List.map_congr_left (fun k hk => hr _ ?_)
    have h64 : fget s (Reg.cblProgLen (bitsOf (word r 0) 23 16)) 5 0 < 64 := Nat.mod_lt _ (by decide)
    have := List.mem_range.1 hk
    simp only [belowCounts, Reg.cblProg, Reg.hstPcieCnt]
    omega
  have ht : tblOf t = tblOf s := by
    funext u
    rw [tblOf, tblOf, hi]
  have hw : widthOf t = widthOf s := by
    funext u
    rw [widthOf, widthOf, hi, ht]
  have hd : recDram t r = recDram s r := by rw [recDram, recDram, hi, ht]
  simp only [recordOk, hd, ht, hi, hlen, hprog, hw]

theorem only_verdictParts (s : State) (x : VrdSt) (c : CblSt) (y : WaySt) :
    Only [.vrd, .cbl, .way] [] s { s with
      vrd := x
      cbl := c
      way := y } :=
  only_units (fun u hu => by cases u <;> simp [UnitName.same] at *) rfl rfl

/-- A profile's record lies apart from the fault's registers. -/
theorem cblProf_not_mem_flipRegs {n w : Nat} (hn : n < 64) (hw : w < 8) : Reg.cblProf n w ∉ flipRegs := by
  simp [flipRegs, Reg.cblProf, Reg.intFlipCtrl, Reg.intFlipAddr, Reg.intEvt]
  omega

section Commit
variable {s : State} {m n v : Nat}

/-- A good record taken: its words are put in force, the flights that go on with the old one keep it (R169), and the settle
time grows (R285). -/
theorem profileCommit_ok (hn : n < 64) (hl : locked s = false)
    (hr : recordOk s n (wordsBytes (stagedWords s (Reg.cblProf n) v)) = true) :
    (∀ w, w < 8 → rd (profileCommit s m n v) (Reg.cblProf n w) = (stagedWords s (Reg.cblProf n) v).getD w 0 % 2 ^ 64) ∧
    (profileCommit s m n v).cbl.hasRec = s.cbl.hasRec.set (fun _ => false) n true ∧
    (profileCommit s m n v).vrd.flights = s.vrd.flights.map (fun f =>
      if f.selected || decide (s.cycle ≤ f.acc) || f.oldRecs.any (fun e => e.1 = n) then f
      else { f with oldRecs := f.oldRecs ++ [(n, (List.range 8).map (fun w => rd s (Reg.cblProf n w)))] }) ∧
    Only [.cbl, .vrd, .way, .intg] ((List.range 8).map (Reg.cblProf n) ++ flipRegs) s (profileCommit s m n v) := by
  simp only [profileCommit, hl, hr, Bool.not_true, Bool.false_eq_true, if_false]
  refine ⟨fun w hw => ?_, ?_, ?_, ?_⟩
  · have hb := not_mem_msgRegs (belowCounts_cblProf hn hw)
    refine ((only_verdictParts (rangeWritten (putWords (unstage s (Reg.cblProf n)) (Reg.cblProf n)
      (stagedWords s (Reg.cblProf n) v)) 0xC (4 * n) 4) _ _ _).2.1 _ hb (by simp)).trans ?_
    rw [(only_rangeWritten _ 0xC (4 * n) 4).2.1 _ hb (cblProf_not_mem_flipRegs hn hw)]
    exact rd_putWords (unstage s (Reg.cblProf n)) (cblProf_injective n) (length_stagedWords s _ v) hw
  · simp [unstage]
  · simp [unstage]
  · have hw : Only [.cbl, .intg] ((List.range 8).map (Reg.cblProf n) ++ flipRegs) s (rangeWritten
        (putWords (unstage s (Reg.cblProf n)) (Reg.cblProf n) (stagedWords s (Reg.cblProf n) v)) 0xC (4 * n) 4) :=
      ((only_unstage s _).trans (only_putWords _ _ _)).trans (only_rangeWritten _ _ _ _)
    exact (hw.trans (only_verdictParts _ _ _ _)).mono (by simp) (by simp)

/-- A record that fails its checks leaves the words in force and is refused (R169). -/
theorem profileCommit_bad (hl : locked s = false)
    (hr : recordOk s n (wordsBytes (stagedWords s (Reg.cblProf n) v)) = false) :
    profileCommit s m n v = rsvd (unstage s (Reg.cblProf n)) m (Reg.cblProf n 7) := by
  simp [profileCommit, hl, hr]

/-- After IMG_LOCK a commit changes nothing and is refused when it would change a word (R10). -/
theorem profileCommit_locked (hl : locked s = true) :
    profileCommit s m n v = if stagedWords s (Reg.cblProf n) v = (List.range 8).map (fun w => rd s (Reg.cblProf n w))
      then unstage s (Reg.cblProf n) else lockedWr (unstage s (Reg.cblProf n)) m (Reg.cblProf n 7) := by
  simp only [profileCommit, hl, if_true]

end Commit
end Sys2Proof.Machine
end

section
namespace Sys2Proof.Machine

/-! ### SELECTOR_COMMIT and PROFILE_ENABLE -/

/-- Word 7 of a selector entry reads zero and commits the entry (R184). -/
theorem selWrite_commit {s : State} (hl : locked s = false) (m i v : Nat) :
    selWrite s m i 7 v = putWords (unstage s (Reg.cblSel i)) (Reg.cblSel i) (stagedWords s (Reg.cblSel i) 0) := by
  simp [selWrite, selKeep, hl]

theorem selWrite_locked {s : State} (hl : locked s = true) (m i v : Nat) :
    selWrite s m i 7 v = if stagedWords s (Reg.cblSel i) 0 = (List.range 8).map (fun k => rd s (Reg.cblSel i k))
      then unstage s (Reg.cblSel i) else lockedWr (unstage s (Reg.cblSel i)) m (Reg.cblSel i 7) := by
  simp [selWrite, selKeep, hl]

/-- A commit after IMG_LOCK, refused or silent, is within the frame of a refused write. -/
theorem only_lockedCommit (s : State) (at_ : Nat → Nat) (m o : Nat) (c : Prop) [Decidable c] :
    Only [.cbl] errRegs s (if c then unstage s at_ else lockedWr (unstage s at_) m o) := by
  split
  · exact (only_unstage s at_).mono (by simp) (by simp)
  · exact (only_unstage s at_).trans (only_lockedWr _ m o)

section Enables
variable (s : State)

theorem only_actLater (k o : Nat) : Only [] [] s (actLater s k o) :=
  only_units (fun u hu => by cases u <;> simp [UnitName.same] at *) (by simp) (by simp)

theorem only_mil (s : State) (x : MilSt) : Only [.mil] [] s { s with mil := x } :=
  only_units (fun u hu => by cases u <;> simp [UnitName.same] at *) rfl rfl

/-- The enables written are in force, and none waits any longer. -/
theorem setEnables_mil (en : Nat) : (setEnables s en).mil = { s.mil with deferEn := none } := by simp [setEnables]

theorem rd_setEnables (en : Nat) : rd (setEnables s en) Reg.cblProfEn = en % 2 ^ 64 := by simp [setEnables]

theorem only_setEnables (en : Nat) : Only [.mil] [Reg.cblProfEn] s (setEnables s en) :=
  ((only_actLater s _ _).trans (only_mil _ _)).trans (only_wr _ _ _)

/-- Arming a generator touches its pulse alone. -/
theorem armPulse_mil (n : Nat) : ∃ p, (armPulse s n).mil = { s.mil with pulse := p } := by
  unfold armPulse
  simp only
  split
  · exact ⟨_, rfl⟩
  · exact ⟨s.mil.pulse, rfl⟩

theorem armPulse_regs (n : Nat) : (armPulse s n).regs = s.regs := by
  unfold armPulse
  simp only
  split <;> simp

/-- So does arming them all. -/
theorem armAll_mil (l : List Nat) (s : State) : ∃ p, (l.foldl armPulse s).mil = { s.mil with pulse := p } := by
  induction l generalizing s with
  | nil => exact ⟨s.mil.pulse, rfl⟩
  | cons n l ih =>
    obtain ⟨p, hp⟩ := armPulse_mil s n
    obtain ⟨q, hq⟩ := ih (armPulse s n)
    exact ⟨q, by rw [List.foldl_cons, hq, hp]⟩

/-- VALID set touches itself and the pulses (R96, R108). -/
theorem setValid_mil : ∃ b p, (setValid s).mil = { s.mil with
    valid := b
    pulse := p } := by
  unfold setValid
  split
  · exact ⟨s.mil.valid, s.mil.pulse, rfl⟩
  · obtain ⟨p, hp⟩ := armAll_mil (List.range 10) { s with mil := { s.mil with valid := true } }
    exact ⟨true, p, hp⟩

theorem setValid_regs : (setValid s).regs = s.regs := by
  unfold setValid
  split
  · rfl
  · exact foldl_same _ _ State.regs armPulse_regs _

/-- What a slew leaves alone: the registers, road time and the pending step. -/
theorem addSlew_keeps (c : Int) (setting : Bool) :
    (addSlew s c setting).regs = s.regs ∧ (addSlew s c setting).mil.road = s.mil.road ∧
      (addSlew s c setting).mil.step = s.mil.step ∧ (addSlew s c setting).mil.rem = s.mil.rem + c := by
  unfold addSlew
  simp only
  split
  · obtain ⟨b, p, h⟩ := setValid_mil { s with mil := { s.mil with rem := s.mil.rem + c } }
    rw [h, setValid_regs]
    exact ⟨rfl, rfl, rfl, rfl⟩
  · exact ⟨rfl, rfl, rfl, rfl⟩

/-- A pending step withdrawn joins the slew remainder and is reported (R96). -/
theorem withdrawStep_some {p : Int × Nat} (h : s.mil.step = some p) :
    (withdrawStep s).mil.step = none ∧ (withdrawStep s).mil.rem = s.mil.rem + p.1 ∧
      (withdrawStep s).mil.road = s.mil.road ∧ flag (withdrawStep s) Reg.milEvt 4 = true := by
  simp only [withdrawStep, h]
  obtain ⟨hregs, hroad, hstep, hrem⟩ := addSlew_keeps (setEvt { s with mil := { s.mil with
      step := none
      setStep := false } } Reg.milEvt 4) p.1 s.mil.setStep
  refine ⟨by rw [hstep, setEvt_mil], by rw [hrem, setEvt_mil], by rw [hroad, setEvt_mil], ?_⟩
  rw [flag_congr (rd_congr hregs _), flag_setEvt_same _ _ _ (by decide)]

/-- Unless it is the first enable before a pending backward step, a write of the enables takes effect at once (R96). -/
theorem enableProfiles_now (en : Nat) (h : ∀ p, s.mil.step = some p → 0 ≤ p.1 ∨ en = 0 ∨ anyProfile s = true) :
    enableProfiles s en = setEnables s en := by
  unfold enableProfiles
  split
  · rename_i p hp
    rw [if_neg]
    rintro ⟨hneg, hen, hany⟩
    rcases h p hp with h | h | h
    · omega
    · exact hen h
    · simp [hany] at h
  · rfl

/-- The first enable before a pending backward step: it waits near the boundary, else the step is withdrawn (R96). -/
theorem enableProfiles_first {en : Nat} {p : Int × Nat} (hp : s.mil.step = some p) (hneg : p.1 < 0) (hen : en ≠ 0)
    (hany : anyProfile s = false) :
    enableProfiles s en = if p.2 * roadUnit < s.mil.road + 2000 * roadUnit
      then { s with mil := { s.mil with deferEn := some en } } else setEnables (withdrawStep s) en := by
  simp only [enableProfiles, hp, hneg, hany]
  simp [hen]

/-- Enabling a profile with no record is refused whole (R169). -/
theorem profEnWrite_refused (m v : Nat)
    (h : ∃ n, n < 64 ∧ bitOf v n = true ∧ s.cbl.hasRec.get (fun _ => false) n = false) :
    profEnWrite s m v = rsvd s m Reg.cblProfEn := by
  obtain ⟨n, hn, hb, hr⟩ := h
  rw [profEnWrite, if_pos]
  exact List.any_eq_true.2 ⟨n, List.mem_range.2 hn, by simp [hb, hr]⟩

theorem profEnWrite_good (m v : Nat)
    (h : ∀ n, n < 64 → bitOf v n = true → s.cbl.hasRec.get (fun _ => false) n = true) :
    profEnWrite s m v = enableProfiles s v := by
  rw [profEnWrite, if_neg]
  intro ha
  obtain ⟨n, hn, hb⟩ := List.any_eq_true.1 ha
  rw [Bool.and_eq_true] at hb
  simp [h n (List.mem_range.1 hn) hb.1] at hb

end Enables

section Obligation
variable (s : State) (m : Requester)

theorem stagedWords_portCount_prof {n : Nat} (hn : n < 64) (v : Nat) :
    stagedWords (portCount s m) (Reg.cblProf n) v = stagedWords s (Reg.cblProf n) v :=
  stagedWords_congr s _ (portCount_cbl s m) (fun _ hw => rd_portCount s m (belowCounts_cblProf hn (by omega))) v

theorem stagedWords_portCount_sel {n : Nat} (hn : n < 512) (v : Nat) :
    stagedWords (portCount s m) (Reg.cblSel n) v = stagedWords s (Reg.cblSel n) v :=
  stagedWords_congr s _ (portCount_cbl s m) (fun _ hw => rd_portCount s m (belowCounts_cblSel hn (by omega))) v

theorem recordOk_portCount (n : Nat) (r : List Byte) : recordOk (portCount s m) n r = recordOk s n r :=
  recordOk_congr (portCount_img s m) (fun _ h => rd_portCount s m h) n r

/-- The words in force, read before a commit and after the count of its access. -/
theorem wordsInForce_portCount_prof {n : Nat} (hn : n < 64) :
    (List.range 8).map (fun w => rd (portCount s m) (Reg.cblProf n w)) = (List.range 8).map (fun w => rd s (Reg.cblProf n w)) :=
  List.map_congr_left (fun _ hw => rd_portCount s m (belowCounts_cblProf hn (List.mem_range.1 hw)))

theorem wordsInForce_portCount_sel {n : Nat} (hn : n < 512) :
    (List.range 8).map (fun w => rd (portCount s m) (Reg.cblSel n w)) = (List.range 8).map (fun w => rd s (Reg.cblSel n w)) :=
  List.map_congr_left (fun _ hw => rd_portCount s m (belowCounts_cblSel hn (List.mem_range.1 hw)))

theorem flag_finish_err (t : State) (b : Nat) : flag (finish s t) Reg.topErr b = flag t Reg.topErr b :=
  flag_congr (rd_finish_below s (by simp [belowCounts, Reg.topErr, Reg.hstPcieCnt])) b

theorem profileCommit_takes (n : Fin 64) (v : BitVec 32) (hw : mayWrite s m (Reg.cblProf n.val 7) 4 = true)
    (hl : locked s = false) (hr : recordOk s n.val (wordsBytes (stagedWords s (Reg.cblProf n.val) v.toNat)) = true) :
    Ends (.profileCommit m n v) s fun t =>
      (∀ w, w < 8 → rd t (Reg.cblProf n.val w) = (stagedWords s (Reg.cblProf n.val) v.toNat).getD w 0 % 2 ^ 64) ∧
      t.cbl.hasRec.get (fun _ => false) n.val = true ∧
      (∀ f ∈ s.vrd.flights, f.selected = false → f.acc < s.cycle → (∀ e ∈ f.oldRecs, e.1 ≠ n.val) →
        { f with oldRecs := f.oldRecs ++ [(n.val, (List.range 8).map (fun w => rd s (Reg.cblProf n.val w)))] } ∈ t.vrd.flights) ∧
      (∀ f ∈ s.vrd.flights, f.selected = true → f ∈ t.vrd.flights) ∧
      Only [.cbl, .vrd, .way, .intg] ((List.range 8).map (Reg.cblProf n.val) ++ flipRegs ++ portRegs m) s t := by
  refine ends_of (exec_profileCommit n v hw) ?_
  have hp : profWrite (portCount s m) m.code n.val 7 v.toNat = profileCommit (portCount s m) m.code n.val v.toNat := rfl
  obtain ⟨hwords, hrec, hflights, hframe⟩ := profileCommit_ok (s := portCount s m) (m := m.code) (v := v.toNat) n.isLt
    ((locked_portCount s m).trans hl) (by rw [stagedWords_portCount_prof s m n.isLt, recordOk_portCount, hr])
  rw [stagedWords_portCount_prof s m n.isLt] at hwords
  rw [portCount_vrd, portCount_cycle, wordsInForce_portCount_prof s m n.isLt] at hflights
  rw [hp]
  refine ⟨fun w hw => ?_, ?_, fun f hf hsel hacc hold => ?_, fun f hf hsel => ?_, hframe.counted⟩
  · rw [rd_finish_below s (belowCounts_cblProf n.isLt hw), hwords w hw]
  · rw [finish_cbl, hrec, KMap.get_set_same]
  · rw [finish_vrd, hflights]
    refine List.mem_map.2 ⟨f, hf, ?_⟩
    rw [if_neg]
    simpa [hsel, Nat.not_le.2 hacc] using fun x hx => hold (n.val, x) hx rfl
  · rw [finish_vrd, hflights]
    exact List.mem_map.2 ⟨f, hf, by simp [hsel]⟩

theorem profileCommit_refuses (n : Fin 64) (v : BitVec 32) (hw : mayWrite s m (Reg.cblProf n.val 7) 4 = true)
    (hl : locked s = false) (hr : recordOk s n.val (wordsBytes (stagedWords s (Reg.cblProf n.val) v.toNat)) = false) :
    Ends (.profileCommit m n v) s fun t =>
      flag t Reg.topErr 0 = true ∧ t.cbl.hasRec = s.cbl.hasRec ∧ Only [.cbl] (errRegs ++ portRegs m) s t := by
  have hp : profWrite (portCount s m) m.code n.val 7 v.toNat = profileCommit (portCount s m) m.code n.val v.toNat := rfl
  refine ends_of (exec_profileCommit n v hw) ?_
  rw [hp, profileCommit_bad ((locked_portCount s m).trans hl)
    (by rw [stagedWords_portCount_prof s m n.isLt, recordOk_portCount, hr])]
  refine ⟨by rw [flag_finish_err, flag_rsvd], by simp [unstage], ?_⟩
  exact ((only_unstage _ _).trans (only_rsvd _ _ _)).counted

theorem profileCommit_afterLock (n : Fin 64) (v : BitVec 32) (hw : mayWrite s m (Reg.cblProf n.val 7) 4 = true)
    (hl : locked s = true) :
    Ends (.profileCommit m n v) s fun t =>
      (v.toNat ≠ rd s (Reg.cblProf n.val 7) → flag t Reg.topErr 1 = true) ∧ t.cbl.hasRec = s.cbl.hasRec ∧
      Only [.cbl] (errRegs ++ portRegs m) s t := by
  have hp : profWrite (portCount s m) m.code n.val 7 v.toNat = profileCommit (portCount s m) m.code n.val v.toNat := rfl
  refine ends_of (exec_profileCommit n v hw) ?_
  rw [hp, profileCommit_locked ((locked_portCount s m).trans hl), stagedWords_portCount_prof s m n.isLt,
    wordsInForce_portCount_prof s m n.isLt]
  refine ⟨fun hne => ?_, ?_, (only_lockedCommit _ _ _ _ _).counted⟩
  · rw [if_neg, flag_finish_err, flag_lockedWr]
    intro e
    have h7 := congrArg (fun l => l.getD 7 0) e
    simp only [stagedWords_last] at h7
    exact hne h7
  · split <;> simp [unstage]

theorem selectorCommit_takes (n : Fin 512) (v : BitVec 32) (hw : mayWrite s m (Reg.cblSel n.val 7) 4 = true) :
    Ends (.selectorCommit m n v) s fun t =>
      (locked s = false → (∀ w, w < 8 →
          rd t (Reg.cblSel n.val w) = (stagedWords s (Reg.cblSel n.val) 0).getD w 0 % 2 ^ 64) ∧
        Only [.cbl] ((List.range 8).map (Reg.cblSel n.val) ++ portRegs m) s t) ∧
      (locked s = true →
        (stagedWords s (Reg.cblSel n.val) 0 ≠ (List.range 8).map (fun k => rd s (Reg.cblSel n.val k)) →
          flag t Reg.topErr 1 = true) ∧
        Only [.cbl] (errRegs ++ portRegs m) s t) := by
  refine ends_of (exec_selectorCommit n v hw) ⟨fun hl => ?_, fun hl => ?_⟩
  · rw [selWrite_commit ((locked_portCount s m).trans hl), stagedWords_portCount_sel s m n.isLt]
    refine ⟨fun w hw => ?_, ((only_unstage _ _).trans (only_putWords _ _ _)).counted⟩
    rw [rd_finish_below s (belowCounts_cblSel n.isLt hw), rd_putWords _ (cblSel_injective n.val) (length_stagedWords _ _ _) hw]
  · rw [selWrite_locked ((locked_portCount s m).trans hl), stagedWords_portCount_sel s m n.isLt,
      wordsInForce_portCount_sel s m n.isLt]
    refine ⟨fun hne => ?_, (only_lockedCommit _ _ _ _ _).counted⟩
    rw [if_neg hne, flag_finish_err, flag_lockedWr]

theorem anyProfile_portCount : anyProfile (portCount s m) = anyProfile s := by
  rw [anyProfile, anyProfile, rd_portCount s m (by simp [belowCounts, Reg.cblProfEn, Reg.hstPcieCnt])]

theorem rd_finish_profEn (t : State) : rd (finish s t) Reg.cblProfEn = rd t Reg.cblProfEn :=
  rd_finish_below s (by simp [belowCounts, Reg.cblProfEn, Reg.hstPcieCnt])

theorem profileEnable_waits (v : BitVec 64) (hw : mayWrite s m Reg.cblProfEn 8 = true) :
    Ends (.profileEnable m v) s fun t =>
      ((∃ n, n < 64 ∧ bitOf v.toNat n = true ∧ s.cbl.hasRec.get (fun _ => false) n = false) →
        flag t Reg.topErr 0 = true ∧ Only [] (errRegs ++ portRegs m) s t) ∧
      ((∀ n, n < 64 → bitOf v.toNat n = true → s.cbl.hasRec.get (fun _ => false) n = true) →
        ((∀ p, s.mil.step = some p → 0 ≤ p.1 ∨ v.toNat = 0 ∨ anyProfile s = true) →
          rd t Reg.cblProfEn = v.toNat ∧ t.mil = { s.mil with deferEn := none } ∧
          Only [.mil] (Reg.cblProfEn :: portRegs m) s t) ∧
        (∀ p, s.mil.step = some p → p.1 < 0 → v.toNat ≠ 0 → anyProfile s = false →
          (s.mil.road + 2000 * roadUnit ≤ p.2 * roadUnit → rd t Reg.cblProfEn = v.toNat ∧ t.mil.step = none ∧
            t.mil.rem = s.mil.rem + p.1 ∧ t.mil.road = s.mil.road ∧ flag t Reg.milEvt 4 = true) ∧
          (p.2 * roadUnit < s.mil.road + 2000 * roadUnit → rd t Reg.cblProfEn = rd s Reg.cblProfEn ∧
            t.mil = { s.mil with deferEn := some v.toNat }))) := by
  have hv : v.toNat % 2 ^ 64 = v.toNat := Nat.mod_eq_of_lt v.isLt
  refine ends_of (exec_profileEnable v hw) ⟨fun hno => ?_, fun hall => ⟨fun hnow => ?_, fun p hp hneg hen hany => ?_⟩⟩
  · rw [profEnWrite_refused _ _ _ (by rwa [portCount_cbl])]
    exact ⟨by rw [flag_finish_err, flag_rsvd], (only_rsvd _ _ _).counted⟩
  · rw [profEnWrite_good _ _ _ (by rwa [portCount_cbl]),
      enableProfiles_now _ _ (by rwa [portCount_mil, anyProfile_portCount])]
    exact ⟨by rw [rd_finish_profEn, rd_setEnables, hv], by rw [finish_mil, setEnables_mil, portCount_mil],
      (only_setEnables _ _).counted⟩
  · rw [profEnWrite_good _ _ _ (by rwa [portCount_cbl]),
      enableProfiles_first _ (by rwa [portCount_mil]) hneg hen (by rwa [anyProfile_portCount]), portCount_mil]
    refine ⟨fun hfar => ?_, fun hnear => ?_⟩
    · obtain ⟨hstep, hrem, hroad, hflag⟩ := withdrawStep_some (portCount s m) (p := p) (by rwa [portCount_mil])
      rw [portCount_mil] at hrem hroad
      rw [if_neg (by omega)]
      refine ⟨by rw [rd_finish_profEn, rd_setEnables, hv], ?_, ?_, ?_, ?_⟩
      · rw [finish_mil, setEnables_mil, hstep]
      · rw [finish_mil, setEnables_mil, hrem]
      · rw [finish_mil, setEnables_mil, hroad]
      · rw [flag_congr (rd_finish_below s (by simp [belowCounts, Reg.milEvt, Reg.hstPcieCnt])),
          flag_congr ((only_setEnables _ _).2.1 Reg.milEvt (by decide) (by decide)), hflag]
    · rw [if_pos hnear]
      refine ⟨?_, by rw [finish_mil]⟩
      rw [rd_finish_profEn]
      exact ((only_mil (portCount s m) _).2.1 _ (by decide) (by simp)).trans
        (rd_portCount s m (by simp [belowCounts, Reg.cblProfEn, Reg.hstPcieCnt]))

end Obligation

/-- Settles O27: a commit is one of the three outcomes of `profileCommit`, and an enable one of the three of
`enableProfiles`, on the state in which the access has been counted. -/
theorem commitsTakeEightWordsTogether : Obligations.CommitsTakeEightWordsTogether := by
  unfold Obligations.CommitsTakeEightWordsTogether
  exact fun s m => ⟨profileCommit_takes s m, profileCommit_refuses s m, profileCommit_afterLock s m,
    selectorCommit_takes s m, profileEnable_waits s m⟩

end Sys2Proof.Machine
end

section
namespace Sys2Proof.Machine

/-! ### What a command sends stays sent -/

/-- Sending keeps what was sent before. -/
theorem mem_out_hostSend {o : Out} {s : State} (h : o ∈ s.out) (f : Nat) (x : Out) : o ∈ (hostSend s f x).out := by
  unfold hostSend
  simp only
  split <;> simp [h]

theorem mem_out_wantMsix {o : Out} {s : State} (h : o ∈ s.out) (f v : Nat) : o ∈ (wantMsix s f v).out := by
  unfold wantMsix
  simp only
  split
  · exact h
  · split
    · rwa [setPcie_out]
    · exact mem_out_hostSend h f _

theorem mem_out_msixLook {o : Out} {s : State} (h : o ∈ s.out) (f sum : Nat) : o ∈ (msixLook s f sum).out := by
  have fold : ∀ (l : List Nat) (u : State), o ∈ u.out → o ∈ (l.foldl (fun st v => wantMsix st f v) u).out := by
    intro l
    induction l with
    | nil => exact fun _ hu => hu
    | cons v l ih => exact fun u hu => ih _ (mem_out_wantMsix hu f v)
  unfold msixLook
  simp only
  split
  · exact h
  · exact fold _ _ (by rwa [setPcie_out])

/-- What a command has sent stands among the outputs at its end. -/
theorem mem_out_finish {o : Out} (s : State) {t : State} (h : o ∈ t.out) : o ∈ (finish s t).out := by
  have hs : ∀ u : State, o ∈ u.out → o ∈ (settle u).out := fun u hu =>
    mem_out_msixLook (mem_out_msixLook hu 0 _) 1 _
  unfold finish notePast
  split <;> exact hs _ h

/-! ### Fields of a committed register -/

section Commit
variable {s : State} {m off v : Nat}

/-- A register's commit, by its row: the fields' value, then what is flagged (R8, R10). -/
theorem commitFields_row {r : RegRow} (h : regRow off = some r) :
    commitFields s m off v =
      (let w := fieldsWrite (locked s) (evtMask s off) v r.fields (rd s off, false, false)
       let s2 := if w.2.1 then rsvd (wr s off w.1) m off else wr s off w.1
       if w.2.2 then lockedWr s2 m off else s2) := by
  rw [commitFields, h]

/-- A field of code RW takes an allowed value (R9). -/
theorem write_rw {f : Field} (ha : f.acc = .rw) (lock : Bool) (keep old : Nat) (hx : f.allows (bitsOf v f.hi f.lo) = true) :
    f.write lock keep old v = (putBits old f.hi f.lo (bitsOf v f.hi f.lo), false, false) := by
  simp [Field.write, ha, hx]

/-- A reserved value leaves an RW field and is flagged (R8). -/
theorem write_rw_reserved {f : Field} (ha : f.acc = .rw) (lock : Bool) (keep old : Nat)
    (hx : f.allows (bitsOf v f.hi f.lo) = false) : f.write lock keep old v = (old, true, false) := by
  simp [Field.write, ha, hx]

/-- A field of code W1C keeps the bits not written 1 and those latched in this cycle (R9, R11). -/
theorem write_w1c {f : Field} (ha : f.acc = .w1c) (lock : Bool) (keep old : Nat) :
    f.write lock keep old v = (putBits old f.hi f.lo ((bitsOf old f.hi f.lo - (bitsOf old f.hi f.lo &&& bitsOf v f.hi f.lo)) |||
      (bitsOf old f.hi f.lo &&& bitsOf keep f.hi f.lo)), false, false) := by
  simp [Field.write, ha]

@[simp] theorem allows_fld (hi lo : Nat) (a : Access) (d x : Nat) : (fld hi lo a d).allows x = true := by
  simp [Field.allows, fld, Nat.mod_one]

end Commit

/-- A register written with what it holds is unchanged. -/
theorem only_wr_same (s : State) (o : Nat) : Only [] [] s (wr s o (rd s o)) := by
  refine ⟨(only_wr s o _).1, fun p hp _ => ?_, (only_wr s o _).2.2⟩
  by_cases h : p = o
  · rw [h, rd_wr_same, Nat.mod_eq_of_lt (rd_lt s o)]
  · exact rd_wr_ne s _ h

/-! ### The registers of the statement -/

theorem regRow_hstSpiIrqEn : regRow Reg.hstSpiIrqEn =
    some ⟨"HST_SPI_IRQ_EN", 0x130004, 1, 8, 1, 8, false, [fld 31 0 .rw 0]⟩ := by decide +kernel

theorem regRow_lrnEvt : regRow Reg.lrnEvt =
    some ⟨"LRN_EVT", 0xB0020, 1, 8, 1, 8, false, [fld 2 2 .w1c 0, fld 1 1 .w1c 0, fld 0 0 .w1c 0]⟩ := by decide +kernel

theorem regRow_intFlipCtrl : regRow Reg.intFlipCtrl =
    some ⟨"INT_FLIP_CTRL", 0x100030, 1, 8, 1, 8, false, [fld 31 31 .rw 0, fld 30 30 .rw 0, fldR 21 16 .rw 0 [(0, 0x11)] 1]⟩ := by
  decide +kernel

theorem regRow_rglMap : ∀ k : Fin 48, regRow (Reg.rglMap k) =
    some ⟨"RGL_MAP", 0xD0100, 48, 4, 1, 4, false, [fld 2 0 .rwl 0]⟩ := by decide +kernel

/-- The row of INT_FLIP_ADDR. -/
def flipAddrRow : RegRow := ⟨"INT_FLIP_ADDR", 0x100080, 1, 8, 1, 8, true, [fld 35 0 .rw 0]⟩

theorem regRow_intFlipAddr : regRow Reg.intFlipAddr = some flipAddrRow := by decide +kernel

theorem wordAt_intFlipAddr : wordAt Reg.intFlipAddr = some (flipAddrRow, 0, 0, false) := by decide +kernel

theorem wordAt_intFlipAddr_high : wordAt (Reg.intFlipAddr + 4) = some (flipAddrRow, 0, 0, true) := by decide +kernel

theorem wordAt_hstSpiIrqEn : wordAt Reg.hstSpiIrqEn =
    some (⟨"HST_SPI_IRQ_EN", 0x130004, 1, 8, 1, 8, false, [fld 31 0 .rw 0]⟩, 0, 0, false) := by decide +kernel

theorem wordAt_intLogOvf : wordAt Reg.intLogOvf =
    some (⟨"INT_LOG_OVF", 0x100010, 1, 8, 1, 8, false, [fld 31 0 .rc 0]⟩, 0, 0, false) := by decide +kernel

theorem wordAt_seqWdogKick : wordAt Reg.seqWdogKick =
    some (⟨"SEQ_WDOG_KICK", 0x17000C, 1, 8, 1, 8, false, [fld 15 0 .wo 0]⟩, 0, 0, false) := by decide +kernel

section Plain
variable (s : State) (m : Requester) (v : Nat)

/-- A register of blocks LRN to INT that no unit acts on is its fields. -/
theorem effectAt_mid_plain {off base i j : Nat} (h : 0xB0000 ≤ off) (h2 : off < 0x130000)
    (e : effectMid s m base i v = none) : effectAt s m base off i j v = commitFields s m.code off v := by
  rw [effectAt, if_neg (by omega), if_neg (by omega), if_pos h2, e]

theorem effectAt_hstSpiIrqEn :
    effectAt s m Reg.hstSpiIrqEn Reg.hstSpiIrqEn 0 0 v = commitFields s m.code Reg.hstSpiIrqEn v := rfl

theorem effectAt_lrnEvt : effectAt s m Reg.lrnEvt Reg.lrnEvt 0 0 v = commitFields s m.code Reg.lrnEvt v :=
  effectAt_mid_plain s m v (by decide) (by decide) rfl

theorem effectAt_intFlipCtrl :
    effectAt s m Reg.intFlipCtrl Reg.intFlipCtrl 0 0 v = commitFields s m.code Reg.intFlipCtrl v :=
  effectAt_mid_plain s m v (by decide) (by decide) rfl

theorem effectAt_intFlipAddr :
    effectAt s m Reg.intFlipAddr Reg.intFlipAddr 0 0 v = commitFields s m.code Reg.intFlipAddr v :=
  effectAt_mid_plain s m v (by decide) (by decide) rfl

theorem effectAt_rglMap (k : Fin 48) :
    effectAt s m (Reg.rglMap 0) (Reg.rglMap k) k 0 v = commitFields s m.code (Reg.rglMap k) v := by
  have := k.isLt
  exact effectAt_mid_plain s m v (by simp only [Reg.rglMap]; omega) (by simp only [Reg.rglMap]; omega) rfl

end Plain

end Sys2Proof.Machine
end

section
namespace Sys2Proof.Machine

/-! ### Bits and fields of numbers -/

/-- A field from bit 0 that holds the whole number. -/
theorem bitsOf_low {v hi : Nat} (h : v < 2 ^ (hi + 1)) : bitsOf v hi 0 = v := by
  rw [bitsOf_eq, pow_zero, Nat.div_one]
  exact Nat.mod_eq_of_lt h

/-- A field of one bit is that bit. -/
theorem bitsOf_single (v i : Nat) : bitsOf v i i = b2n (bitOf v i) := by
  have h : (v >>> i) % 2 = 0 ∨ (v >>> i) % 2 = 1 := by omega
  rcases h with h | h <;> simp [bitsOf, bitOf, b2n, h]

@[simp] theorem bitOf_b2n (b : Bool) : bitOf (b2n b) 0 = b := by cases b <;> rfl

theorem bitsOf_lt (v hi lo : Nat) : bitsOf v hi lo < 2 ^ (hi + 1 - lo) := Nat.mod_lt _ (by positivity)

/-- A single W1C bit after a write: cleared by a 1, but for an event of this cycle (R9, R11). -/
theorem bitOf_write_w1c (b i : Nat) (lock : Bool) (keep old v d : Nat) :
    bitOf ((fld b b .w1c d).write lock keep old v).1 i =
      if i = b then bitOf old i && (!bitOf v i || bitOf keep i) else bitOf old i := by
  rw [write_w1c rfl]
  simp only [fld, bitOf_putBits _ _ _ _ _ (le_refl b)]
  by_cases h : i = b
  · subst h
    rw [if_pos ⟨le_refl i, le_refl i⟩, if_pos rfl, Nat.sub_self, bitsOf_single, bitsOf_single, bitsOf_single]
    cases bitOf old i <;> cases bitOf v i <;> cases bitOf keep i <;> rfl
  · rw [if_neg (by omega), if_neg h]

theorem write_w1c_flags (f : Field) (ha : f.acc = .w1c) (lock : Bool) (keep old v : Nat) :
    (f.write lock keep old v).2 = (false, false) := by rw [write_w1c ha]

/-! ### Commits of single fields -/

section Commit
variable {s : State} {m off v hi lo d : Nat} {r : RegRow}

/-- A register of one RW field takes the value (R9). -/
theorem commitFields_rw (h : regRow off = some r) (hf : r.fields = [fld hi lo .rw d]) :
    commitFields s m off v = fput s off hi lo (bitsOf v hi lo) := by
  rw [commitFields_row h, hf]
  simp [fieldsWrite, Field.write, fput, fld, Field.allows, Nat.mod_one]

/-- A register of one RWL field takes the value before IMG_LOCK (R10). -/
theorem commitFields_rwl_open (h : regRow off = some r) (hf : r.fields = [fld hi lo .rwl d]) (hl : locked s = false) :
    commitFields s m off v = fput s off hi lo (bitsOf v hi lo) := by
  rw [commitFields_row h, hf]
  simp [fieldsWrite, Field.write, hl, fput, fld, Field.allows, Nat.mod_one]

/-- After IMG_LOCK it stays, and a changing write is refused (R10). -/
theorem commitFields_rwl_locked (h : regRow off = some r) (hf : r.fields = [fld hi lo .rwl d]) (hl : locked s = true) :
    commitFields s m off v = if bitsOf v hi lo = fget s off hi lo then wr s off (rd s off)
      else lockedWr (wr s off (rd s off)) m off := by
  rw [commitFields_row h, hf]
  by_cases e : bitsOf v hi lo = bitsOf (rd s off) hi lo <;> simp [fieldsWrite, Field.write, hl, fld, fget, e]

end Commit

section Writes
variable {s : State} {m : Requester}

/-- A register write of four bytes at a register's place, by a requester that reaches it. -/
theorem exec_registerWrite4 {off : BitVec 25} {o base i j : Nat} (ho : off.toNat = o) (r : Route o base i j false)
    (hb : o < spmBase) (ha : o % 4 = 0) (hw : mayWrite s m o 4 = true) (v : BitVec 32) :
    exec (.registerWrite m off (leBytes 4 v.toNat)) s = .next (finish s (effectAt (portCount s m) m base o i j v.toNat)) := by
  rw [core_registerWrite _ _ _ (awake_of_mayWrite hw), ho]
  exact congrArg (fun t => Host.Outcome.next (finish s t)) (busWrite4_route r v hb ha hw)

theorem route_rglMap (k : Fin 48) : Route (Reg.rglMap k) (Reg.rglMap 0) k 0 false := by
  have h : ∀ k : Fin 48, routeOk (Reg.rglMap k) (Reg.rglMap 0) k 0 false = true := by decide +kernel
  exact route_of (h k)

/-- What a write leaves of LRN_EVT: its three W1C bits, one after the other. -/
def lrnEvtWritten (lock : Bool) (keep old v : Nat) : Nat :=
  ((fld 0 0 .w1c 0).write lock keep ((fld 1 1 .w1c 0).write lock keep ((fld 2 2 .w1c 0).write lock keep old v).1 v).1 v).1

theorem commitFields_lrnEvt (s : State) (c v : Nat) : commitFields s c Reg.lrnEvt v =
    wr s Reg.lrnEvt (lrnEvtWritten (locked s) (evtMask s Reg.lrnEvt) (rd s Reg.lrnEvt) v) := by
  have flags (i : Nat) (lock : Bool) (keep old : Nat) : ((fld i i .w1c 0).write lock keep old v).2 = (false, false) :=
    write_w1c_flags _ rfl lock keep old v
  rw [commitFields_row regRow_lrnEvt]
  simp [fieldsWrite, flags, lrnEvtWritten]

theorem bitOf_lrnEvtWritten {i : Nat} (hi : i < 3) (lock : Bool) (keep old v : Nat) :
    bitOf (lrnEvtWritten lock keep old v) i = (bitOf old i && (!bitOf v i || bitOf keep i)) := by
  have h : i = 0 ∨ i = 1 ∨ i = 2 := by omega
  rcases h with rfl | rfl | rfl <;> simp [lrnEvtWritten, bitOf_write_w1c]

theorem bitOf_mod (v : Nat) {i n : Nat} (h : i < n) : bitOf (v % 2 ^ n) i = bitOf v i := by
  rw [bitOf_eq_testBit, bitOf_eq_testBit, Nat.testBit_mod_two_pow]
  simp [h]

/-- What a write of a reserved memory code leaves of INT_FLIP_CTRL: ARM and ANY are taken (R8). -/
def flipCtrlWritten (old v : Nat) : Nat := putBits (putBits old 31 31 (bitsOf v 31 31)) 30 30 (bitsOf v 30 30)

theorem bitOf_flipCtrlWritten (old v : Nat) :
    bitOf (flipCtrlWritten old v) 31 = bitOf v 31 ∧ bitOf (flipCtrlWritten old v) 30 = bitOf v 30 := by
  constructor <;> simp [flipCtrlWritten, bitOf_putBits, bitsOf_single]

theorem bitsOf_flipCtrlWritten (old v : Nat) : bitsOf (flipCtrlWritten old v) 21 16 = bitsOf old 21 16 := by
  rw [flipCtrlWritten, bitsOf_putBits_apart _ _ _ _ _ _ (by decide) (by decide),
    bitsOf_putBits_apart _ _ _ _ _ _ (by decide) (by decide)]

theorem bitsOf_mod (v lo : Nat) {hi n : Nat} (h : hi < n) : bitsOf (v % 2 ^ n) hi lo = bitsOf v hi lo := by
  refine Nat.eq_of_testBit_eq fun i => ?_
  have e : i < hi + 1 - lo → lo + i < n := by omega
  simp only [bitsOf, Nat.testBit_mod_two_pow, Nat.testBit_shiftRight]
  by_cases hi' : i < hi + 1 - lo <;> simp [hi', e]

/-- INT_FLIP_CTRL written with a reserved memory code is flagged, and its other fields take effect (R8). -/
theorem commitFields_intFlipCtrl_reserved {s : State} {c v : Nat} (hx : 17 < bitsOf v 21 16) :
    commitFields s c Reg.intFlipCtrl v =
      rsvd (wr s Reg.intFlipCtrl (flipCtrlWritten (rd s Reg.intFlipCtrl) v)) c Reg.intFlipCtrl := by
  have hr : (fldR 21 16 .rw 0 [(0, 0x11)] 1).allows (bitsOf v 21 16) = false := by
    simp [Field.allows, fldR]
    omega
  have taken (i : Nat) (lock : Bool) (keep old : Nat) :
      (fld i i .rw 0).write lock keep old v = (putBits old i i (bitsOf v i i), false, false) :=
    write_rw rfl _ _ _ (allows_fld _ _ _ _ _)
  have left (lock : Bool) (keep old : Nat) :
      (fldR 21 16 .rw 0 [(0, 0x11)] 1).write lock keep old v = (old, true, false) := write_rw_reserved rfl _ _ _ hr
  rw [commitFields_row regRow_intFlipCtrl]
  simp [fieldsWrite, taken, left, flipCtrlWritten]

/-- A place before the endpoints' counters, as a number. -/
theorem belowCounts_of_lt {o : Nat} (h : o < 0x1300C0) : belowCounts o := h

variable {off : BitVec 25} {v : BitVec 32}

/-- Code RW: the field takes the value (R9). -/
theorem write_rw_register (hw : mayWrite s m Reg.hstSpiIrqEn 4 = true) (ho : off.toNat = Reg.hstSpiIrqEn) :
    Ends (.registerWrite m off (leBytes 4 v.toNat)) s fun t =>
      fget t Reg.hstSpiIrqEn 31 0 = v.toNat ∧ Only [] (Reg.hstSpiIrqEn :: portRegs m) s t := by
  refine ends_of (exec_registerWrite4 ho (base := Reg.hstSpiIrqEn) (i := 0) (j := 0) (route_of (by decide +kernel))
    (by decide) (by decide) hw v) ?_
  rw [effectAt_hstSpiIrqEn, commitFields_rw regRow_hstSpiIrqEn rfl, bitsOf_low v.isLt]
  refine ⟨?_, (only_fput _ _ _ _ _).counted⟩
  rw [fget_congr (rd_finish_below s (belowCounts_of_lt (by decide))), fget_fput_same _ _ _ _ _ (by decide) (by decide)]
  exact Nat.mod_eq_of_lt v.isLt

/-- Code W1C: bits written 1 are cleared but for those latched in this cycle (R9, R11). -/
theorem write_w1c_register (hw : mayWrite s m Reg.lrnEvt 4 = true) (ho : off.toNat = Reg.lrnEvt) :
    Ends (.registerWrite m off (leBytes 4 v.toNat)) s fun t =>
      (∀ i, i < 3 → flag t Reg.lrnEvt i = (flag s Reg.lrnEvt i && (!bitOf v.toNat i || bitOf (evtMask s Reg.lrnEvt) i))) ∧
      Only [] (Reg.lrnEvt :: portRegs m) s t := by
  refine ends_of (exec_registerWrite4 ho (base := Reg.lrnEvt) (i := 0) (j := 0) (route_of (by decide +kernel))
    (by decide) (by decide) hw v) ?_
  rw [effectAt_lrnEvt, commitFields_lrnEvt]
  refine ⟨fun i hi => ?_, (only_wr _ _ _).counted⟩
  have hm : evtMask (portCount s m) Reg.lrnEvt = evtMask s Reg.lrnEvt := by
    simp only [evtMask, nowSt, portCount_now, portCount_cycle]
  rw [flag_congr (rd_finish_below s (belowCounts_of_lt (by decide))), flag, rd_wr_same, bitOf_mod _ (by omega),
    bitOf_lrnEvtWritten hi, rd_portCount s m (belowCounts_of_lt (by decide)), hm, flag]

/-- A reserved code leaves its field and is flagged with master and place; the other fields take effect (R8, R547). -/
theorem write_reserved_register (hw : mayWrite s m Reg.intFlipCtrl 4 = true) (ho : off.toNat = Reg.intFlipCtrl)
    (hx : 17 < bitsOf v.toNat 21 16) :
    Ends (.registerWrite m off (leBytes 4 v.toNat)) s fun t =>
      fget t Reg.intFlipCtrl 21 16 = fget s Reg.intFlipCtrl 21 16 ∧ flag t Reg.intFlipCtrl 31 = bitOf v.toNat 31 ∧
      flag t Reg.intFlipCtrl 30 = bitOf v.toNat 30 ∧ flag t Reg.topErr 0 = true ∧
      rd t Reg.topErrAddr = m.code * 2 ^ 26 + Reg.intFlipCtrl ∧
      Only [] (Reg.intFlipCtrl :: errRegs ++ portRegs m) s t := by
  refine ends_of (exec_registerWrite4 ho (base := Reg.intFlipCtrl) (i := 0) (j := 0) (route_of (by decide +kernel))
    (by decide) (by decide) hw v) ?_
  rw [effectAt_intFlipCtrl, commitFields_intFlipCtrl_reserved hx]
  have hf : rd (finish s (rsvd (wr (portCount s m) Reg.intFlipCtrl (flipCtrlWritten (rd (portCount s m) Reg.intFlipCtrl)
      v.toNat)) m.code Reg.intFlipCtrl)) Reg.intFlipCtrl = flipCtrlWritten (rd s Reg.intFlipCtrl) v.toNat % 2 ^ 64 := by
    rw [rd_finish_below s (belowCounts_of_lt (by decide)), rd_rsvd_ne _ _ (by decide), rd_wr_same,
      rd_portCount s m (belowCounts_of_lt (by decide))]
  obtain ⟨hArm, hAny⟩ := bitOf_flipCtrlWritten (rd s Reg.intFlipCtrl) v.toNat
  refine ⟨?_, ?_, ?_, by rw [flag_finish_err, flag_rsvd], ?_, ?_⟩
  · rw [fget, hf, bitsOf_mod _ _ (by decide), bitsOf_flipCtrlWritten, fget]
  · rw [flag, hf, bitOf_mod _ (by decide), hArm]
  · rw [flag, hf, bitOf_mod _ (by decide), hAny]
  · rw [rd_finish_below s (belowCounts_of_lt (by decide)), rd_rsvd_addr]
    cases m <;> rfl
  · exact ((only_wr _ _ _).trans (only_rsvd _ _ _)).counted

/-- Code RWL: taken before IMG_LOCK; after it a repeated value is silent and a changing write is refused (R10). -/
theorem write_rwl_register (k : Fin 48) (hw : mayWrite s m (Reg.rglMap k) 4 = true) (ho : off.toNat = Reg.rglMap k) :
    Ends (.registerWrite m off (leBytes 4 v.toNat)) s fun t =>
      (locked s = false → fget t (Reg.rglMap k) 2 0 = v.toNat % 8 ∧ Only [] (Reg.rglMap k :: portRegs m) s t) ∧
      (locked s = true → v.toNat % 8 = fget s (Reg.rglMap k) 2 0 → Only [] (portRegs m) s t) ∧
      (locked s = true → v.toNat % 8 ≠ fget s (Reg.rglMap k) 2 0 →
        flag t Reg.topErr 1 = true ∧ rd t Reg.topErrAddr = m.code * 2 ^ 26 + Reg.rglMap k ∧
        Only [] (errRegs ++ portRegs m) s t) := by
  have hk := k.isLt
  have hb : belowCounts (Reg.rglMap k) := belowCounts_of_lt (by simp only [Reg.rglMap]; omega)
  have hv : bitsOf v.toNat 2 0 = v.toNat % 8 := by rw [bitsOf_eq, pow_zero, Nat.div_one]; rfl
  have hg : fget (portCount s m) (Reg.rglMap k) 2 0 = fget s (Reg.rglMap k) 2 0 := fget_congr (rd_portCount s m hb) 2 0
  refine ends_of (exec_registerWrite4 ho (route_rglMap k) (by simp only [Reg.rglMap, spmBase]; omega)
    (by simp only [Reg.rglMap]; omega) hw v) ?_
  rw [effectAt_rglMap]
  refine ⟨fun hl => ?_, fun hl he => ?_, fun hl hne => ?_⟩
  · rw [commitFields_rwl_open (regRow_rglMap k) rfl ((locked_portCount s m).trans hl), hv]
    refine ⟨?_, (only_fput _ _ _ _ _).counted⟩
    rw [fget_congr (rd_finish_below s hb), fget_fput_same _ _ _ _ _ (by decide) (by decide)]
    exact Nat.mod_mod _ 8
  · rw [commitFields_rwl_locked (regRow_rglMap k) rfl ((locked_portCount s m).trans hl), hv, hg, if_pos he]
    exact (only_wr_same _ _).counted
  · rw [commitFields_rwl_locked (regRow_rglMap k) rfl ((locked_portCount s m).trans hl), hv, hg, if_neg hne]
    refine ⟨by rw [flag_finish_err, flag_lockedWr], ?_, ((only_wr_same _ _).trans (only_lockedWr _ _ _)).counted⟩
    rw [rd_finish_below s (belowCounts_of_lt (by decide)), rd_lockedWr_addr]
    have hc : m.code < 64 := by cases m <;> decide
    simp only [Reg.rglMap]
    omega

end Writes
end Sys2Proof.Machine
end

section
namespace Sys2Proof.Machine

/-! ### The two words of a wide register -/

section Wide
variable {s : State} {m : Requester} {off : BitVec 25} {v : BitVec 32}

/-- A write of four bytes at a register's place is a write of the word that lies there. -/
theorem exec_registerWrite_word {o i j : Nat} {r : RegRow} {high : Bool} (ho : off.toNat = o)
    (hr : wordAt o = some (r, i, j, high)) (hb : o < spmBase) (ha : o % 4 = 0) (hw : mayWrite s m o 4 = true) :
    exec (.registerWrite m off (leBytes 4 v.toNat)) s =
      .next (finish s (writeWord (portCount s m) m r i j high v.toNat)) := by
  have hs : shapeOk o 4 = true := by simp [shapeOk, ha]
  have hv : v.toNat % 256 ^ 4 = v.toNat := Nat.mod_eq_of_lt v.isLt
  rw [core_registerWrite _ _ _ (awake_of_mayWrite hw), ho, busWrite_own _ (length_leBytes 4 _) hw hb, ownWrite,
    if_neg (by omega)]
  simp only [length_leBytes, hs, regWrite, write4, hr, ofLe_leBytes, hv]
  simp

theorem only_setStage (s : State) (x : KMap (Option Nat)) : Only [.stage] [] s { s with stage := x } :=
  only_units (fun u hu => by cases u <;> simp [UnitName.same] at *) rfl rfl

theorem only_setLatch (s : State) (x : KMap (Option Nat)) : Only [.latch] [] s { s with latch := x } :=
  only_units (fun u hu => by cases u <;> simp [UnitName.same] at *) rfl rfl

theorem find_put_same (x : KMap (Option Nat)) (k : Nat) (y : Option Nat) : KMap.find (KMap.put x k y) k = y :=
  KMap.get_set_same _ x k y

theorem writeWord_high (s : State) (m : Requester) (x : Nat) : writeWord s m flipAddrRow 0 0 true x =
    { s with stage := KMap.put s.stage (latchKey m Reg.intFlipAddr) (some x) } := rfl

/-- The high word of a wide register is staged for its master (R12). -/
theorem write_high_word (hw : mayWrite s m (Reg.intFlipAddr + 4) 4 = true) (ho : off.toNat = Reg.intFlipAddr + 4) :
    Ends (.registerWrite m off (leBytes 4 v.toNat)) s fun t =>
      KMap.find t.stage (latchKey m Reg.intFlipAddr) = some v.toNat ∧ Only [.stage] (portRegs m) s t := by
  refine ends_of (exec_registerWrite_word ho wordAt_intFlipAddr_high (by decide) (by decide) hw) ?_
  rw [writeWord_high]
  refine ⟨?_, (only_setStage (portCount s m) _).counted⟩
  rw [finish_stage, find_put_same]

/-- The high word that a write of the low word commits: the staged one, else the one in force (R12). -/
def highWord (s : State) (m : Requester) : Nat :=
  match KMap.find s.stage (latchKey m Reg.intFlipAddr) with
  | some x => x
  | none => rd s Reg.intFlipAddr / 2 ^ 32

theorem regFull_intFlipAddr (s : State) : regFull s flipAddrRow 0 0 = rd s Reg.intFlipAddr := rfl

theorem writeWord_intFlipAddr (s : State) (m : Requester) (x : Nat) : writeWord s m flipAddrRow 0 0 false x =
    fput { s with stage := KMap.put s.stage (latchKey m Reg.intFlipAddr) none } Reg.intFlipAddr 35 0
      (bitsOf (highWord s m * 2 ^ 32 + x) 35 0) := by
  have hk : flipAddrRow.at 0 0 = Reg.intFlipAddr := rfl
  have hw : flipAddrRow.wide = true := rfl
  rw [writeWord, if_neg (by decide), if_pos hw, hk, highNow, regFull_intFlipAddr,
    regEffect_at (base := Reg.intFlipAddr) (off := Reg.intFlipAddr) rfl rfl, effectAt_intFlipAddr,
    commitFields_rw regRow_intFlipAddr rfl]
  rfl

/-- What a commit of 36 bits takes of the high word: its low four bits. -/
theorem bitsOf_highWord {h x : Nat} (hx : x < 2 ^ 32) : bitsOf (h * 2 ^ 32 + x) 35 0 = h % 16 * 2 ^ 32 + x := by
  rw [bitsOf_eq]
  omega

/-- The low word commits both words (R12). -/
theorem write_low_word {h : Nat} (hw : mayWrite s m Reg.intFlipAddr 4 = true) (ho : off.toNat = Reg.intFlipAddr)
    (hh : h = (match KMap.find s.stage (latchKey m Reg.intFlipAddr) with
      | some x => x
      | none => fget s Reg.intFlipAddr 35 32)) :
    Ends (.registerWrite m off (leBytes 4 v.toNat)) s fun t =>
      fget t Reg.intFlipAddr 35 0 = h % 16 * 2 ^ 32 + v.toNat ∧
      KMap.find t.stage (latchKey m Reg.intFlipAddr) = none ∧ Only [.stage] (Reg.intFlipAddr :: portRegs m) s t := by
  have hc : highWord (portCount s m) m % 16 = h % 16 := by
    rw [hh, highWord, portCount_stage, rd_portCount s m (belowCounts_of_lt (by decide))]
    split
    · rfl
    · rw [fget, bitsOf_eq]
      exact (Nat.mod_mod _ 16).symm
  refine ends_of (exec_registerWrite_word ho wordAt_intFlipAddr (by decide) (by decide) hw) ?_
  rw [writeWord_intFlipAddr, bitsOf_highWord v.isLt, hc]
  refine ⟨?_, ?_, ((only_setStage (portCount s m) _).trans (only_fput _ _ _ _ _)).counted⟩
  · have hv := v.isLt
    rw [fget_congr (rd_finish_below s (belowCounts_of_lt (by decide))), fget_fput_same _ _ _ _ _ (by decide) (by decide)]
    omega
  · rw [finish_stage, fput_stage, find_put_same]

/-- Eight bytes commit at once, and leave what is staged (R12, R544). -/
theorem write_both_words {w : BitVec 64} (hw : mayWrite s m Reg.intFlipAddr 8 = true) (ho : off.toNat = Reg.intFlipAddr) :
    Ends (.registerWrite m off (leBytes 8 w.toNat)) s fun t =>
      fget t Reg.intFlipAddr 35 0 = w.toNat % 2 ^ 36 ∧ Only [] (Reg.intFlipAddr :: portRegs m) s t := by
  have e : busWrite s m Reg.intFlipAddr (leBytes 8 w.toNat) =
      fput (portCount s m) Reg.intFlipAddr 35 0 (bitsOf w.toNat 35 0) := by
    rw [← busWrite8, busWrite8_route (base := Reg.intFlipAddr) (i := 0) (j := 0) (route_of (by decide +kernel)) w
      (by decide) (by decide) hw, effectAt_intFlipAddr, commitFields_rw regRow_intFlipAddr rfl]
  refine ends_of (core_registerWrite _ _ _ (awake_of_mayWrite hw)) ?_
  rw [ho, e]
  refine ⟨?_, (only_fput _ _ _ _ _).counted⟩
  rw [fget_congr (rd_finish_below s (belowCounts_of_lt (by decide))), fget_fput_same _ _ _ _ _ (by decide) (by decide),
    bitsOf_eq, pow_zero, Nat.div_one]
  exact Nat.mod_mod _ _

end Wide

/-! ### The bench core's reads -/

section Reads
variable {s : State} {off : BitVec 25}

/-- The running bench core reads the word at a register's place. -/
theorem exec_benchRead {o i j : Nat} {r : RegRow} {high : Bool} (hs : awake s = true) (hr : s.seq.running = true)
    (ho : off.toNat = o) (hw : wordAt o = some (r, i, j, high)) (hb : o < spmBase) (ha : o % 4 = 0)
    (hn : inObjs o = false) :
    exec (.registerRead .benchM off 4) s =
      .next (finish s (giveData (readWord s .benchM r i j high).1 .benchM o 4 (readWord s .benchM r i j high).2)) := by
  have hlt : o < 0x180000 := hb
  have h1 : isMsix o = false := by simp [isMsix]; omega
  have h2 : isPba o = false := by simp [isPba]; omega
  have h3 : o < ownEnd := Nat.lt_of_lt_of_le hb (by decide)
  have h4 : shapeOk o 4 = true := by simp [shapeOk, ha]
  rw [core_registerRead _ _ _ hs, ho]
  simp [busRead, benchRead, hr, h1, h2, barRead, h3, ownRead, Nat.not_le.2 hb, h4, regRead, read4, hw, objSeen, hn, giveRead,
    objBad]

theorem mem_out_giveData (s : State) (m : Requester) (o n v : Nat) : Out.regData m.code o n v ∈ (giveData s m o n v).out := by
  simp [giveData]

theorem only_giveData (s : State) (m : Requester) (o n v : Nat) : Only [] [] s (giveData s m o n v) :=
  only_units (fun u hu => by cases u <;> simp [UnitName.same, giveData] at *) rfl rfl

theorem latch_giveData (s : State) (m : Requester) (o n v : Nat) : (giveData s m o n v).latch = s.latch := rfl

/-- A read returns the register's value. -/
theorem read_rw_register (hs : awake s = true) (hr : s.seq.running = true) (ho : off.toNat = Reg.hstSpiIrqEn) :
    Ends (.registerRead .benchM off 4) s fun t =>
      Out.regData (Requester.benchM).code Reg.hstSpiIrqEn 4 (fget s Reg.hstSpiIrqEn 31 0) ∈ t.out ∧ Only [] [] s t := by
  refine ends_of (exec_benchRead hs hr ho wordAt_hstSpiIrqEn (by decide) (by decide) (by decide)) ?_
  exact ⟨mem_out_finish s (mem_out_giveData s .benchM _ 4 _), (only_giveData _ _ _ _ _).finished⟩

/-- A read of the low word latches the high word (R12). -/
theorem read_low_word (hs : awake s = true) (hr : s.seq.running = true) (ho : off.toNat = Reg.intFlipAddr) :
    Ends (.registerRead .benchM off 4) s fun t =>
      Out.regData (Requester.benchM).code Reg.intFlipAddr 4 (fget s Reg.intFlipAddr 31 0) ∈ t.out ∧
      KMap.find t.latch (latchKey .benchM Reg.intFlipAddr) = some (rd s Reg.intFlipAddr / 2 ^ 32) ∧ Only [.latch] [] s t := by
  have e : readWord s .benchM flipAddrRow 0 0 false =
      ({ s with latch := KMap.put s.latch (latchKey Requester.benchM Reg.intFlipAddr) (some (rd s Reg.intFlipAddr / 2 ^ 32)) },
        fget s Reg.intFlipAddr 31 0) := rfl
  refine ends_of (exec_benchRead hs hr ho wordAt_intFlipAddr (by decide) (by decide) (by decide)) ?_
  rw [e]
  refine ⟨mem_out_finish s (mem_out_giveData _ _ _ _ _), ?_, ((only_setLatch _ _).trans (only_giveData _ _ _ _ _)).finished⟩
  rw [finish_latch, latch_giveData, find_put_same]

/-- The next read of the high word returns and consumes the latched one (R12). -/
theorem read_high_word {x : Nat} (hs : awake s = true) (hr : s.seq.running = true) (ho : off.toNat = Reg.intFlipAddr + 4)
    (hx : KMap.find s.latch (latchKey .benchM Reg.intFlipAddr) = some x) :
    Ends (.registerRead .benchM off 4) s fun t =>
      Out.regData (Requester.benchM).code (Reg.intFlipAddr + 4) 4 x ∈ t.out ∧
      KMap.find t.latch (latchKey .benchM Reg.intFlipAddr) = none ∧ Only [.latch] [] s t := by
  have e : readWord s .benchM flipAddrRow 0 0 true =
      ({ s with latch := KMap.put s.latch (latchKey Requester.benchM Reg.intFlipAddr) none }, x) := by
    have hx' : KMap.find s.latch (latchKey .benchM (flipAddrRow.at 0 0)) = some x := hx
    rw [readWord, if_pos rfl, hx']
    rfl
  refine ends_of (exec_benchRead hs hr ho wordAt_intFlipAddr_high (by decide) (by decide) (by decide)) ?_
  rw [e]
  refine ⟨mem_out_finish s (mem_out_giveData _ _ _ _ _), ?_, ((only_setLatch _ _).trans (only_giveData _ _ _ _ _)).finished⟩
  rw [finish_latch, latch_giveData, find_put_same]

theorem only_rcTaken (s : State) (k : Nat) : Only [] [] s (rcTaken s k) :=
  only_units (fun u hu => by cases u <;> simp [UnitName.same] at *) (rcTaken_regs s k) (rcTaken_pcie s k)

/-- What a read leaves of INT_LOG_OVF: the events of the cycle (R11). -/
def logOvfRead (s : State) : State :=
  rcTaken (fput s Reg.intLogOvf 31 0 (rcLeft s Reg.intLogOvf 0)) Reg.intLogOvf

theorem only_logOvfRead (s : State) : Only [] [Reg.intLogOvf] s (logOvfRead s) :=
  (only_fput _ _ _ _ _).trans (only_rcTaken _ _)

theorem fget_logOvfRead (s : State) : fget (logOvfRead s) Reg.intLogOvf 31 0 = rcLeft s Reg.intLogOvf 0 % 2 ^ 32 := by
  rw [logOvfRead, fget_congr (rd_congr (rcTaken_regs _ _) _), fget_fput_same _ _ _ _ _ (by decide) (by decide)]

/-- What a read of INT_LOG_OVF gives: what it held before the events of the cycle (R11). -/
def logOvfSeen (s : State) : Nat := satW 32 (rcSeen s Reg.intLogOvf (fget s Reg.intLogOvf 31 0)) % 2 ^ 32

theorem putBits_low_mod (old x : Nat) : putBits old 31 0 x % 2 ^ 32 = x % 2 ^ 32 := by
  have h := bitsOf_putBits_same old 31 0 x (by decide)
  rwa [bitsOf_eq, pow_zero, Nat.div_one] at h

theorem readWord_intLogOvf (s : State) {r : RegRow} (h : wordAt Reg.intLogOvf = some (r, 0, 0, false)) :
    readWord s .benchM r 0 0 false = (logOvfRead s, logOvfSeen s) := by
  obtain rfl : r = _ := congrArg Prod.fst (Option.some.inj (h.symm.trans wordAt_intLogOvf))
  rw [logOvfSeen, ← putBits_low_mod (rd s Reg.intLogOvf)]
  rfl

/-- A read-clear field gives what it held before the events of the cycle, and keeps those (R9, R11). -/
theorem read_rc_register (hs : awake s = true) (hr : s.seq.running = true) (ho : off.toNat = Reg.intLogOvf) :
    Ends (.registerRead .benchM off 4) s fun t =>
      (KMap.find (nowSt s).rc Reg.intLogOvf = none →
        Out.regData (Requester.benchM).code Reg.intLogOvf 4 (fget s Reg.intLogOvf 31 0) ∈ t.out ∧
        fget t Reg.intLogOvf 31 0 = 0) ∧
      (∀ before ev, KMap.find (nowSt s).rc Reg.intLogOvf = some (before, ev) → before < 2 ^ 32 →
        Out.regData (Requester.benchM).code Reg.intLogOvf 4 before ∈ t.out ∧ fget t Reg.intLogOvf 31 0 = ev % 2 ^ 32) ∧
      Only [] [Reg.intLogOvf] s t := by
  refine ends_of (exec_benchRead hs hr ho wordAt_intLogOvf (by decide) (by decide) (by decide)) ?_
  rw [readWord_intLogOvf s wordAt_intLogOvf]
  have given := mem_out_finish s (mem_out_giveData (logOvfRead s) .benchM Reg.intLogOvf 4 (logOvfSeen s))
  have left : fget (finish s (giveData (logOvfRead s) .benchM Reg.intLogOvf 4 (logOvfSeen s))) Reg.intLogOvf 31 0 =
      rcLeft s Reg.intLogOvf 0 % 2 ^ 32 := by
    rw [fget_congr (rd_finish_below s (belowCounts_of_lt (by decide))),
      fget_congr ((only_giveData _ _ _ _ _).2.1 _ (by decide) (by simp)), fget_logOvfRead]
  refine ⟨fun h => ⟨?_, ?_⟩, fun before ev h hb => ⟨?_, ?_⟩,
    ((only_logOvfRead s).trans (only_giveData _ _ _ _ _)).finished⟩
  · have hv : fget s Reg.intLogOvf 31 0 < 2 ^ 32 := bitsOf_lt _ 31 0
    have e : logOvfSeen s = fget s Reg.intLogOvf 31 0 := by
      simp only [logOvfSeen, rcSeen, h, satW, hv, if_true, Nat.mod_eq_of_lt hv]
    rwa [e] at given ⊢
  · simp only [left, rcLeft, h, Nat.zero_mod]
  · have e : logOvfSeen s = before := by simp only [logOvfSeen, rcSeen, h, satW, hb, if_true, Nat.mod_eq_of_lt hb]
    rwa [e] at given ⊢
  · rw [left, rcLeft, h]

/-- The kick key is write-only and reads zero (R9). -/
theorem readWord_seqWdogKick (s : State) {r : RegRow} (h : wordAt Reg.seqWdogKick = some (r, 0, 0, false)) :
    readWord s .benchM r 0 0 false = (s, putBits (rd s Reg.seqWdogKick) 15 0 0 % 2 ^ 32) := by
  obtain rfl : r = _ := congrArg Prod.fst (Option.some.inj (h.symm.trans wordAt_seqWdogKick))
  rfl

/-- A write-only field reads zero (R9). -/
theorem read_wo_register (hs : awake s = true) (hr : s.seq.running = true) (ho : off.toNat = Reg.seqWdogKick) :
    Ends (.registerRead .benchM off 4) s fun t =>
      (rd s Reg.seqWdogKick < 2 ^ 16 → Out.regData (Requester.benchM).code Reg.seqWdogKick 4 0 ∈ t.out) ∧ Only [] [] s t := by
  refine ends_of (exec_benchRead hs hr ho wordAt_seqWdogKick (by decide) (by decide) (by decide)) ?_
  rw [readWord_seqWdogKick s wordAt_seqWdogKick]
  refine ⟨fun h => ?_, (only_giveData s _ _ _ _).finished⟩
  have hz : putBits (rd s Reg.seqWdogKick) 15 0 0 % 2 ^ 32 = 0 := by
    rw [putBits_eq _ _ _ _ (by decide)]
    omega
  rw [hz]
  exact mem_out_finish s (mem_out_giveData s .benchM Reg.seqWdogKick 4 0)

end Reads

/-! ### A write that PCI Express cannot carry out -/

section Misshapen
variable {s : State} {m : Requester} {off : BitVec 25} {f : Fin 2} {data : List Byte}

/-- A misshapen write is counted and reported as an error of its endpoint (R457). -/
theorem busWrite_misshapen {k o : Nat} (hb : o < spmBase) (hm : fnOf m = some f.val) (hd : data.length = k + 1)
    (hw : mayWrite s m o data.length = true) (hx : shapeOk o data.length = false) :
    busWrite s m o data = pcieErr (bump s (Reg.hstPcieCnt f 0) 1) f 2 (some 0) := by
  rw [hd] at hw
  rw [busWrite_own data hd hw hb, ownWrite, if_neg (Nat.not_le.2 hb), hx, Bool.not_false, if_pos rfl, badShape, hm, portCount, hm]

theorem only_pcieErr_some (s : State) (f k b : Nat) :
    Only [] [Reg.hstPcieCnt f 2, Reg.hstPcieEvt f] s (pcieErr s f k (some b)) := by
  have h : Only [] [] s { s with out := s.out ++ [.pcieError f k] } :=
    only_units (fun u hu => by cases u <;> simp [UnitName.same] at *) rfl rfl
  exact (h.trans (only_bump _ _ _)).trans (only_setEvt _ _ _)

/-- A misshapen PCIe write only counts, and latches BADSIZE (R457). -/
theorem write_misshapen (hs : awake s = true) (hb : off.toNat < spmBase) (hm : fnOf m = some f.val) (hne : data ≠ [])
    (hw : mayWrite s m off.toNat data.length = true) (hx : shapeOk off.toNat data.length = false) :
    Ends (.registerWrite m off data) s fun t =>
      flag t (Reg.hstPcieEvt f) 0 = true ∧
      rd t (Reg.hstPcieCnt f 0) = (rd s (Reg.hstPcieCnt f 0) + 1) % 2 ^ 48 ∧
      Only [] [Reg.hstPcieEvt f, Reg.hstPcieCnt f 0, Reg.hstPcieCnt f 2] s t := by
  obtain ⟨k, hk⟩ := Nat.exists_eq_succ_of_ne_zero (fun h => hne (List.length_eq_zero_iff.1 h))
  have places : ∀ f : Fin 2, Reg.hstPcieEvt f ∉ msgRegs ∧ Reg.hstPcieCnt f 0 ∉ msgRegs ∧
      Reg.hstPcieCnt f 0 ∉ [Reg.hstPcieCnt f 2, Reg.hstPcieEvt f] := by decide
  obtain ⟨he, hc, hn⟩ := places f
  refine ends_of (core_registerWrite _ _ _ hs) ?_
  rw [busWrite_misshapen hb hm hk hw hx]
  refine ⟨?_, ?_, ((only_bump s (Reg.hstPcieCnt f 0) 1).trans (only_pcieErr_some _ _ _ _)).finished.mono (by simp) (by simp)⟩
  · rw [flag_congr (rd_finish s _ he), pcieErr]
    exact flag_setEvt_same _ _ _ (by decide)
  · rw [rd_finish s _ hc, (only_pcieErr_some _ _ _ _).2.1 _ hc hn, rd_bump_same]

end Misshapen

/-- Settles O48: each clause is the access's effect on its register, a row of the map (R8-R12, R457, R547). -/
theorem registerAccessCodesAndWideWordsHold : Obligations.RegisterAccessCodesAndWideWordsHold := by
  unfold Obligations.RegisterAccessCodesAndWideWordsHold
  intro s m off v hs
  exact ⟨write_rw_register, write_w1c_register, write_reserved_register, write_rwl_register, write_high_word,
    fun _ => write_low_word, fun _ => write_both_words, read_rw_register hs, read_low_word hs, fun _ => read_high_word hs,
    read_rc_register hs, read_wo_register hs, fun _ _ hb hm hne => write_misshapen hs hb hm hne⟩

end Sys2Proof.Machine
end

section
namespace Sys2Proof.Machine

/-! ### A read of an on-die memory takes no time -/

section ReadCycle
variable (s : State) (mem : Nat)

@[simp] theorem intLog_cycle (synd kind m ms a : Nat) (inj : Bool) : (intLog s synd kind m ms inj a).cycle = s.cycle := by
  unfold intLog logPut
  simp only
  split
  · simp
  · split <;> simp

@[simp] theorem trackAdd_cycle (a : Nat) (st : TrackSt) : (trackAdd s mem a st).cycle = s.cycle := by
  unfold trackAdd
  simp only
  split
  · rfl
  · split
    · rfl
    · simp

@[simp] theorem trackSet_cycle (a n : Nat) (st : TrackSt) : (trackSet s mem a st n).cycle = s.cycle := rfl
@[simp] theorem trackFree_cycle (a : Nat) : (trackFree s mem a).cycle = s.cycle := rfl

@[simp] theorem sticky_cycle (a m synd : Nat) (inj : Bool) : (sticky s mem a m inj synd).cycle = s.cycle := by
  unfold sticky
  simp only
  split
  · simp
  · split <;> simp

@[simp] theorem trackCorrected_cycle (a m synd : Nat) (f : Flip) : (trackCorrected s mem a m f synd).cycle = s.cycle := by
  unfold trackCorrected
  simp only
  split
  · simp
  · split
    · split <;> simp
    all_goals simp

@[simp] theorem trackUncorrectable_cycle (a m synd : Nat) (f : Flip) :
    (trackUncorrectable s mem a m f synd).cycle = s.cycle := by
  unfold trackUncorrectable
  simp only
  split
  · split <;> simp
  · simp

@[simp] theorem wordRead_cycle (a m : Nat) : (wordRead s mem a m).1.cycle = s.cycle := by
  unfold wordRead
  split
  · rfl
  · unfold trackRead
    split <;> simp

@[simp] theorem readWords_cycle (m : Nat) (ws : List Nat) : (readWords s mem m ws).cycle = s.cycle := by
  induction ws generalizing s with
  | nil => rfl
  | cons w ws ih => exact (ih _).trans (wordRead_cycle s mem w m)

end ReadCycle

/-! ### Frames of single parts -/

theorem only_setWay (s : State) (w : WaySt) : Only [.way] [] s { s with way := w } :=
  only_units (fun u hu => by cases u <;> simp [UnitName.same] at *) rfl rfl

theorem only_setTcr (s : State) (x : TcrSt) : Only [.tcr] [] s { s with tcr := x } :=
  only_units (fun u hu => by cases u <;> simp [UnitName.same] at *) rfl rfl

/-! ### Reading a stream's record and page entries -/

section Entries
variable (s : State) (n m : Nat) (ps : List Nat)

/-- The reads of a stream's record and of some pages' entries, tracked (R423). -/
def entriesRead : State :=
  readWords (readWords s 7 m [2 * n, 2 * n + 1]) 6 m ((ps.map (fun p => [3 * p, 3 * p + 1, 3 * p + 2])).flatten)

theorem only_entriesRead : Only [.intg] (readRegs 6 ++ readRegs 7) s (entriesRead s n m ps) :=
  ((readOnly_readWords m _).trans (readOnly_readWords m _)).mono (by simp) (by simp)

@[simp] theorem entriesRead_cycle : (entriesRead s n m ps).cycle = s.cycle := by simp [entriesRead]
@[simp] theorem entriesRead_way : (entriesRead s n m ps).way = s.way := (only_entriesRead s n m ps).1 .way (by simp)
@[simp] theorem entriesRead_tcr : (entriesRead s n m ps).tcr = s.tcr := (only_entriesRead s n m ps).1 .tcr (by simp)
@[simp] theorem entriesRead_rgl : (entriesRead s n m ps).rgl = s.rgl := (only_entriesRead s n m ps).1 .rgl (by simp)

/-- The index's own counters are not among the registers that a read of its memories writes. -/
theorem rd_entriesRead_wayCnt (i : Nat) (hi : i < 16) :
    rd (entriesRead s n m ps) (Reg.wayCnt i) = rd s (Reg.wayCnt i) := by
  have apart : ∀ i : Fin 16, Reg.wayCnt i ∉ msgRegs ∧ Reg.wayCnt i ∉ readRegs 6 ++ readRegs 7 := by decide
  exact (only_entriesRead s n m ps).2.1 _ (apart ⟨i, hi⟩).1 (apart ⟨i, hi⟩).2

variable {s n ps}

/-- Entries that all read well (R304). -/
theorem readEntries_ok (hs : streamBad s n = false) (hp : ∀ p ∈ ps, pageBad s p = false) :
    readEntries s n ps m = (entriesRead s n m ps, none) := by
  have hf : ps.find? (pageBad s) = none := List.find?_eq_none.2 (fun p h => by simp [hp p h])
  simp [readEntries, entriesRead, hf, hs]

/-- A page's entry that reads uncorrectable: its stream takes no inserts (R304). -/
theorem readEntries_bad {p : Nat} (hp : pageBad s p = true) :
    readEntries s n [p] m = (wayLost (entriesRead s n m [p]) n, some p) := by
  simp [readEntries, entriesRead, hp]

end Entries

/-! ### A round asked for -/

/-- A query is under way, and asks its master's regulator for granules (R295, R299). -/
def askFor (s : State) (q : WayQ) (since : Nat) (gs : List Gran) : State :=
  present { s with
    rgl := { s.rgl with nextId := s.rgl.nextId + 1 }
    way := { s.way with queries := s.way.queries ++ [q] } } q.master false (.wayQuery s.rgl.nextId) since gs

section Ask
variable (s : State) (q : WayQ) (since : Nat) (gs : List Gran)

theorem only_askFor : Only [.way, .rgl] [] s (askFor s q since gs) :=
  only_units (fun u hu => by cases u <;> simp [UnitName.same, askFor, present] at *) rfl rfl

theorem askFor_way : (askFor s q since gs).way = { s.way with queries := s.way.queries ++ [q] } := rfl

@[simp] theorem askFor_tcr : (askFor s q since gs).tcr = s.tcr := rfl

/-- The request stands with the regulator, from its time on. -/
theorem askFor_request : ∃ r ∈ (askFor s q since gs).rgl.reqs,
    r.purpose = .wayQuery s.rgl.nextId ∧ r.since = since ∧ r.grans = gs :=
  ⟨_, List.mem_append_right _ (List.mem_singleton.2 rfl), rfl, rfl, rfl⟩

end Ask

/-! ### Commands started and ended -/

section Commands
variable {s : State} {c : TCmd}

theorem only_startCmd (s : State) (id : Nat) : Only [.tcr] [] s (startCmd s id) := only_setTcr s _

/-- The first command that a lane's head picks is in flight. -/
theorem mem_of_headWith {op : Nat} {p : TCmd → Bool} (h : headWith s op p = some c) : c ∈ s.tcr.cmds :=
  List.mem_of_find?_eq_some h

theorem mem_startCmd (h : c ∈ s.tcr.cmds) : { c with started := true } ∈ (startCmd s c.id).tcr.cmds :=
  List.mem_map.2 ⟨c, h, if_pos rfl⟩

/-- A command ended with report `r`: its completion waits to be posted (R332). -/
def ended (s : State) (c : TCmd) (r : Report) : State :=
  { s with tcr := { s.tcr with
    cmds := s.tcr.cmds.filter (fun x => x.id ≠ c.id)
    compl := s.tcr.compl ++ [⟨c.ring, c.slot, c.cmdId, c.opcode, bitOf c.flags 3, r.status, r.edge, r.straddle, r.restart,
      r.multi, r.handle, r.gen, r.count, r.result, true⟩] } }

/-- A command in flight that no reset has dropped ends with its report (R332). -/
theorem complete_eq (r : Report) (hc : cmdOf s c.id = some c) (hg : s.tcr.gone.contains c.id = false) :
    complete s c.id r = ended s c r := by
  rw [complete, hc]
  simp only [hg]
  rfl

theorem only_ended (s : State) (c : TCmd) (r : Report) : Only [.tcr] [] s (ended s c r) := only_setTcr s _

/-- An ended command is no longer in flight. -/
theorem cmdOf_ended (s : State) (c : TCmd) (r : Report) : cmdOf (ended s c r) c.id = none :=
  List.find?_eq_none.2 (fun x hx => by simpa [ended] using (List.mem_filter.1 hx).2)

/-- Its completion carries its id, its status and its handle. -/
theorem completion_ended (s : State) (c : TCmd) (r : Report) :
    ∃ k ∈ (ended s c r).tcr.compl, k.cmdId = c.cmdId ∧ k.status = r.status ∧ k.handle = r.handle :=
  ⟨_, List.mem_append_right _ (List.mem_singleton.2 rfl), rfl, rfl, rfl⟩

theorem cmdOf_congr {t : State} (h : t.tcr = s.tcr) (id : Nat) : cmdOf t id = cmdOf s id := by rw [cmdOf, cmdOf, h]

end Commands
end Sys2Proof.Machine
end

section
namespace Sys2Proof.Machine

/-! ### QUERY (R295, R302) -/

section Query
variable {s : State} {n t : Nat}

/-- A stream's segment is read from the index alone. -/
theorem segPages_congr {u : State} (h : u.way = s.way) (n : Nat) : segPages u n = segPages s n := by
  have go (k p : Nat) : ringPages.go u k p = ringPages.go s k p := by
    induction k generalizing p with
    | zero => rfl
    | succ k ih => rw [ringPages.go, ringPages.go, ih, pageOf, pageOf, h]
  simp only [segPages, ringPages, streamOf, h, go]

theorem segPages_startCmd (s : State) (id n : Nat) : segPages (startCmd s id) n = segPages s n :=
  segPages_congr (s := s) (u := startCmd s id) rfl n

/-- A page is picked for time `t`: it holds a record, and its last one is not before `t` (R295). -/
def reaches (s : State) (t q : Nat) : Bool :=
  decide ((pageOf s q).fill > 0) && decide ((pageOf s q).milestone + (pageOf s q).lastOfs ≥ t)

/-- The query of stream n that begins at page p. -/
def queryAt (s : State) (m : Nat) (who : Asker) (n t p : Nat) : WayQ :=
  ⟨s.rgl.nextId, who, n, t, p, (pageOf s p).use, 0, 0, 1, p, (pageOf s p).use, (pageOf s p).fill, (pageOf s p).milestone, m,
    decide ((segPages s n).head? = some p)⟩

/-- A query that finds no page. -/
def queryNone (s : State) (m : Nat) (who : Asker) (n t : Nat) : WayQ :=
  ⟨s.rgl.nextId, who, n, t, 0, 0, 0, 0, 0, 0, 0, 0, 0, m, false⟩

/-- A query ended with MISS before its time (R295). -/
def missLater (s : State) (q : WayQ) (r : WayRes) (due : Nat) : State :=
  { s with way := { s.way with
    queries := s.way.queries.filter (fun x => x.id ≠ q.id)
    ended := s.way.ended ++ [(due, q, r, false)] } }

/-- A command's result is there before its answer is due (R296). -/
theorem endQuery_later {q : WayQ} {r : WayRes} {due id : Nat} (hw : q.who = .cmd id) (hd : s.cycle < due) :
    endQuery s q r due false = missLater s q r due := by
  unfold endQuery
  rw [hw]
  exact if_neg (Nat.not_le.2 hd)

theorem beginQuery_found {m k p : Nat} {who : Asker} (hs : streamBad s n = false)
    (hp : ∀ q ∈ segPages s n, pageBad s q = false) (hf : (segPages s n).find? (reaches s t) = some p) :
    beginQuery s m who n t k =
      askFor (entriesRead (wcnt s 7 1) n m ((segPages s n).takeWhile (fun q => q ≠ p) ++ [p]))
        (queryAt s m who n t p) (k + 40) (headerGrans s p) := by
  have hr : readEntries (wcnt s 7 1) n ((segPages s n).takeWhile (fun q => q ≠ p) ++ [p]) m =
      (entriesRead (wcnt s 7 1) n m ((segPages s n).takeWhile (fun q => q ≠ p) ++ [p]), none) := by
    refine readEntries_ok m hs fun q hq => ?_
    rcases List.mem_append.1 hq with h | h
    · exact hp q ((List.takeWhile_sublist _).subset h)
    · rw [List.mem_singleton.1 h]
      exact hp p (List.mem_of_find?_eq_some hf)
  have hf' : (segPages s n).find? (fun p => decide ((pageOf s p).fill > 0) &&
      decide ((pageOf s p).milestone + (pageOf s p).lastOfs ≥ t)) = some p := hf
  have hid : s.rgl.nextId = (entriesRead (wcnt s 7 1) n m
      ((segPages s n).takeWhile (fun q => q ≠ p) ++ [p])).rgl.nextId := by simp [wcnt]
  unfold beginQuery
  simp only [hf', hr]
  rw [askFor, ← hid]
  rfl

theorem beginQuery_none {m id : Nat} (hs : streamBad s n = false)
    (hp : ∀ q ∈ segPages s n, pageBad s q = false) (hf : (segPages s n).find? (reaches s t) = none) :
    beginQuery s m (.cmd id) n t s.cycle =
      missLater (entriesRead (wcnt s 7 1) n m (segPages s n)) (queryNone s m (.cmd id) n t)
        ⟨3, resumeHandle s n, [], false, false⟩ (s.cycle + 40) := by
  have hr : readEntries (wcnt s 7 1) n (segPages s n) m = (entriesRead (wcnt s 7 1) n m (segPages s n), none) :=
    readEntries_ok m hs hp
  have hf' : (segPages s n).find? (fun p => decide ((pageOf s p).fill > 0) &&
      decide ((pageOf s p).milestone + (pageOf s p).lastOfs ≥ t)) = none := hf
  have hc : (entriesRead (wcnt s 7 1) n m (segPages s n)).cycle = s.cycle := by simp [wcnt]
  have hlt : (entriesRead (wcnt s 7 1) n m (segPages s n)).cycle < s.cycle + 40 := by rw [hc]; omega
  unfold beginQuery
  simp only [hf', hr]
  exact endQuery_later rfl hlt

variable {c : TCmd}

theorem exec_query (ha : awake s = true) (hc : headWith s 0x20 (fun _ => true) = some c)
    (hd : addrOk s c.ring c.addr 32 true = true) :
    exec .query s = .next (finish s (beginQuery (startCmd s c.id) (ringMaster c.ring) (.cmd c.id) (bitsOf c.arg0 15 0) c.arg1
      s.cycle)) := by
  rw [core_query ha, doQuery, hc]
  simp [hd]

/-- A command started in its lane and a query counted: what precedes the reads. -/
theorem only_counted_start (s : State) (id i : Nat) : Only [.tcr] [Reg.wayCnt i] s (wcnt (startCmd s id) i 1) :=
  (only_startCmd s id).trans (only_bump _ _ _)

/-- QUERY picks the first page that reaches its time, and asks for that page's header 40 cycles later (R295, R296). -/
theorem query_begins {p : Nat} (ha : awake s = true) (hc : headWith s 0x20 (fun _ => true) = some c)
    (hd : addrOk s c.ring c.addr 32 true = true) (hs : streamBad s (bitsOf c.arg0 15 0) = false)
    (hp : ∀ q ∈ segPages s (bitsOf c.arg0 15 0), pageBad s q = false)
    (hf : (segPages s (bitsOf c.arg0 15 0)).find? (fun q =>
      decide ((pageOf s q).fill > 0) && decide ((pageOf s q).milestone + (pageOf s q).lastOfs ≥ c.arg1)) = some p) :
    Ends .query s fun t =>
      (∃ q ∈ t.way.queries, q.id = s.rgl.nextId ∧ q.who = .cmd c.id ∧ q.stream = bitsOf c.arg0 15 0 ∧
        q.time = c.arg1 ∧ q.page = p ∧ q.round = 1) ∧
      (∃ r ∈ t.rgl.reqs, r.purpose = .wayQuery s.rgl.nextId ∧ r.since = s.cycle + 40 ∧ r.grans = headerGrans s p) ∧
      { c with started := true } ∈ t.tcr.cmds ∧ t.way.pages = s.way.pages ∧
      rd t (Reg.wayCnt 7) = (rd s (Reg.wayCnt 7) + 1) % 2 ^ 48 ∧
      Only [.way, .rgl, .tcr, .intg] (Reg.wayCnt 7 :: readRegs 6 ++ readRegs 7) s t := by
  have hseg : segPages (startCmd s c.id) (bitsOf c.arg0 15 0) = segPages s (bitsOf c.arg0 15 0) :=
    segPages_startCmd s _ _
  refine ends_of (exec_query ha hc hd) ?_
  rw [beginQuery_found (s := startCmd s c.id) hs (hseg ▸ hp) (hseg ▸ hf)]
  generalize hl : (segPages (startCmd s c.id) (bitsOf c.arg0 15 0)).takeWhile (fun q => q ≠ p) ++ [p] = looked
  generalize hu : entriesRead (wcnt (startCmd s c.id) 7 1) (bitsOf c.arg0 15 0) (ringMaster c.ring) looked = u
  have hway : u.way = s.way := by simp [← hu, wcnt, startCmd]
  have hrgl : u.rgl = s.rgl := by simp [← hu, wcnt, startCmd]
  have htcr : u.tcr = (startCmd s c.id).tcr := by simp [← hu, wcnt]
  have hcnt : rd u (Reg.wayCnt 7) = (rd s (Reg.wayCnt 7) + 1) % 2 ^ 48 := by
    rw [← hu, rd_entriesRead_wayCnt _ _ _ _ 7 (by decide), wcnt, rd_bump_same]
    rfl
  have hon : Only [.tcr, .intg] (Reg.wayCnt 7 :: readRegs 6 ++ readRegs 7) s u :=
    hu ▸ ((only_counted_start s c.id 7).trans (only_entriesRead _ _ _ _)).mono (by simp) (by simp)
  have hask := only_askFor u (queryAt (startCmd s c.id) (ringMaster c.ring) (.cmd c.id) (bitsOf c.arg0 15 0) c.arg1 p)
    (s.cycle + 40) (headerGrans (startCmd s c.id) p)
  refine ⟨⟨queryAt (startCmd s c.id) (ringMaster c.ring) (.cmd c.id) (bitsOf c.arg0 15 0) c.arg1 p, ?_, rfl, rfl, rfl, rfl, rfl,
    rfl⟩, ?_, ?_, ?_, ?_, (hon.trans hask).finished.mono (by simp) (by simp)⟩
  · simp [askFor_way]
  · rw [finish_rgl, ← hrgl]
    exact askFor_request u _ _ _
  · rw [finish_tcr, askFor_tcr, htcr]
    exact mem_startCmd (mem_of_headWith hc)
  · rw [finish_way, askFor_way, hway]
  · rw [rd_finish s _ (by decide), hask.2.1 _ (by decide) (by simp), hcnt]

/-- With no such page QUERY has its answer, MISS with the handle to resume at, 40 cycles later (R295, R296). -/
theorem query_misses (ha : awake s = true) (hc : headWith s 0x20 (fun _ => true) = some c)
    (hd : addrOk s c.ring c.addr 32 true = true) (hs : streamBad s (bitsOf c.arg0 15 0) = false)
    (hp : ∀ q ∈ segPages s (bitsOf c.arg0 15 0), pageBad s q = false)
    (hf : ∀ q ∈ segPages s (bitsOf c.arg0 15 0), (pageOf s q).fill = 0 ∨ (pageOf s q).milestone + (pageOf s q).lastOfs < c.arg1) :
    Ends .query s fun t =>
      (∃ q r, t.way.ended = s.way.ended ++ [(s.cycle + 40, q, r, false)] ∧ q.who = .cmd c.id ∧ r.status = 3 ∧
        r.handle = resumeHandle s (bitsOf c.arg0 15 0)) ∧
      t.way.pages = s.way.pages ∧ Only [.way, .tcr, .intg] (Reg.wayCnt 7 :: readRegs 6 ++ readRegs 7) s t := by
  have hseg : segPages (startCmd s c.id) (bitsOf c.arg0 15 0) = segPages s (bitsOf c.arg0 15 0) :=
    segPages_startCmd s _ _
  have hnone : (segPages (startCmd s c.id) (bitsOf c.arg0 15 0)).find? (reaches (startCmd s c.id) c.arg1) = none := by
    refine List.find?_eq_none.2 fun q hq h => ?_
    obtain ⟨h1, h2⟩ := Bool.and_eq_true_iff.1 h
    rcases hf q (hseg ▸ hq) with h0 | h0
    · exact absurd (of_decide_eq_true h1) (by rw [Nat.not_lt]; exact h0.le)
    · exact absurd (of_decide_eq_true h2) (Nat.not_le.2 h0)
  refine ends_of (exec_query ha hc hd) ?_
  rw [show s.cycle = (startCmd s c.id).cycle from rfl, beginQuery_none (s := startCmd s c.id) hs (hseg ▸ hp) hnone]
  have hway : (entriesRead (wcnt (startCmd s c.id) 7 1) (bitsOf c.arg0 15 0) (ringMaster c.ring)
      (segPages (startCmd s c.id) (bitsOf c.arg0 15 0))).way = s.way := by simp [wcnt, startCmd]
  refine ⟨⟨queryNone (startCmd s c.id) (ringMaster c.ring) (.cmd c.id) (bitsOf c.arg0 15 0) c.arg1,
    ⟨3, resumeHandle s (bitsOf c.arg0 15 0), [], false, false⟩, ?_, rfl, rfl, rfl⟩, ?_,
    (((only_counted_start s c.id 7).trans (only_entriesRead _ _ _ _)).trans (only_setWay _ _)).finished.mono (by simp) (by simp)⟩
  · rw [finish_way, missLater, hway]
    rfl
  · rw [finish_way, missLater, hway]

/-- An answer that is due completes its command (R296). -/
theorem wayDue_completes {due : Nat} {q : WayQ} {r : WayRes} (he : s.way.ended = [(due, q, r, false)]) (hd : due ≤ s.cycle)
    (hq : q.who = .cmd c.id) (hr : r.status = 3) (hc : cmdOf s c.id = some c) (hg : s.tcr.gone.contains c.id = false) :
    (∃ k ∈ (wayDue s).tcr.compl, k.cmdId = c.cmdId ∧ k.status = 3 ∧ k.handle = r.handle) ∧ cmdOf (wayDue s) c.id = none ∧
      (wayDue s).way = { s.way with ended := [] } ∧ Only [.way, .tcr] [] s (wayDue s) := by
  have e : wayDue s = ended { s with way := { s.way with ended := [] } } c
      { Report.plain 3 r.handle 0 with straddle := r.straddle, edge := r.edge } := by
    have hu : cmdOf { s with way := { s.way with ended := [] } } c.id = some c := hc
    have hx : { s with way := { s.way with ended := [] } }.tcr.gone.contains c.id = false := hg
    rw [← complete_eq _ hu hx]
    simp [wayDue, he, hd, finishQuery, hr, hq, hu]
  rw [e]
  exact ⟨completion_ended _ _ _, cmdOf_ended _ _ _, rfl, (only_setWay _ _).trans (only_ended _ _ _)⟩

end Query
end Sys2Proof.Machine
end

section
namespace Sys2Proof.Machine

/-! ### WNEXT (R298, R299, R302) -/

/-- The page and the place in it that a waymark handle names (R299). -/
def handlePage (c : TCmd) : Nat := bitsOf c.handle 31 16
def handleIndex (c : TCmd) : Nat := bitsOf c.handle 8 0

section Wnext
variable {s : State} {c : TCmd}

theorem streamOf_congr {t : State} (h : t.way = s.way) (n : Nat) : streamOf t n = streamOf s n := by
  rw [streamOf, streamOf, h]

theorem only_wayLost (s : State) (n : Nat) : Only [.way] [] s (wayLost s n) := only_setWay s _

theorem streamOf_wayLost (s : State) (n : Nat) : streamOf (wayLost s n) n = { streamOf s n with bad := true } :=
  KMap.get_set_same _ _ _ _

/-- An error of the index is counted, latched and recorded (R304). -/
theorem only_wayUncorr (s : State) (n p : Nat) :
    Only [] [Reg.wayCnt 13, Reg.wayEvt, Reg.wayErr] s (wayUncorr s n p) :=
  ((only_bump s _ _).trans (only_setEvt _ _ _)).trans (only_wr _ _ _)

theorem flag_wayUncorr (s : State) (n p : Nat) : flag (wayUncorr s n p) Reg.wayEvt 2 = true := by
  rw [wayUncorr, flag, rd_wr_ne _ _ (by decide), ← flag, flag_setEvt_same _ _ _ (by decide)]

/-- WNEXT's reads: the page of its handle, as its ring's master. -/
def wnextRead (s : State) (c : TCmd) : State :=
  entriesRead s (pageOf s (handlePage c)).stream (ringMaster c.ring) [handlePage c]

theorem wnextRead_way : (wnextRead s c).way = s.way := entriesRead_way _ _ _ _
theorem wnextRead_tcr : (wnextRead s c).tcr = s.tcr := entriesRead_tcr _ _ _ _
theorem wnextRead_rgl : (wnextRead s c).rgl = s.rgl := entriesRead_rgl _ _ _ _

theorem only_wnextRead (s : State) (c : TCmd) :
    Only [.intg] (Reg.wayCnt 9 :: readRegs 6 ++ readRegs 7) s (wcnt (wnextRead s c) 9 1) :=
  ((only_entriesRead s _ _ _).trans (only_bump _ (Reg.wayCnt 9) 1)).mono (by simp) (by
    intro o ho
    simp only [List.mem_append, List.mem_cons, List.not_mem_nil, or_false] at ho ⊢
    tauto)

theorem rd_wnextRead (s : State) (c : TCmd) :
    rd (wcnt (wnextRead s c) 9 1) (Reg.wayCnt 9) = (rd s (Reg.wayCnt 9) + 1) % 2 ^ 48 := by
  rw [wcnt, rd_bump_same, wnextRead, rd_entriesRead_wayCnt _ _ _ _ 9 (by decide)]

/-- WNEXT of a page whose entry reads uncorrectable (R304). -/
def wnextLost (s : State) (c : TCmd) : State :=
  wcnt (wayUncorr (wayLost (wnextRead s c) (pageOf s (handlePage c)).stream) (pageOf s (handlePage c)).stream (handlePage c)) 9 1

theorem wayLost_way_congr {t : State} (h : t.way = s.way) (n : Nat) : (wayLost t n).way = (wayLost s n).way := by
  simp [wayLost, streamOf, h]

theorem wnextLost_way : (wnextLost s c).way = (wayLost s (pageOf s (handlePage c)).stream).way := by
  simp [wnextLost, wayUncorr, wcnt, wayLost_way_congr wnextRead_way]

theorem flag_wnextLost (s : State) (c : TCmd) : flag (wnextLost s c) Reg.wayEvt 2 = true := by
  rw [wnextLost, wcnt, flag_congr ((only_bump _ (Reg.wayCnt 9) 1).2.1 _ (by decide) (by decide)), flag_wayUncorr]

/-- The query of the group of the next record of the same page. -/
def nextQuery (s : State) (c : TCmd) : WayQ :=
  let p := handlePage c
  let i := handleIndex c + 1
  ⟨s.rgl.nextId, .cmd c.id, (pageOf s p).stream, 0, p, (pageOf s p).use, i / 8, i, 3, p, (pageOf s p).use, (pageOf s p).fill,
    (pageOf s p).milestone, ringMaster c.ring, false⟩

section Branches
variable (hc : headWith s 0x21 (fun _ => true) = some c)
include hc

theorem doWnext_bad (hb : pageBad s (handlePage c) = true) :
    ∃ h, doWnext s = complete (wnextLost s c) c.id (Report.plain 0x0A h 0) := by
  have hr : readEntries s (pageOf s (bitsOf c.handle 31 16)).stream [bitsOf c.handle 31 16] (ringMaster c.ring) =
      (wayLost (wnextRead s c) (pageOf s (handlePage c)).stream, some (handlePage c)) := readEntries_bad _ hb
  refine ⟨wayHandle (pageOf s (handlePage c)).use (handlePage c) (handleIndex c / 8 * 8), ?_⟩
  unfold doWnext
  simp only [hc, hr, Option.isSome_some, if_true]
  rfl

variable (hb : pageBad s (handlePage c) = false) (hs : streamBad s (pageOf s (handlePage c)).stream = false)
include hb hs

omit hc in
/-- The entries that WNEXT reads are good. -/
theorem doWnext_read : readEntries s (pageOf s (bitsOf c.handle 31 16)).stream [bitsOf c.handle 31 16] (ringMaster c.ring) =
    (wnextRead s c, none) :=
  readEntries_ok _ hs (fun p hp => by rw [List.mem_singleton.1 hp]; exact hb)

theorem doWnext_stale (hx : (pageOf s (handlePage c)).owned = false ∨ (pageOf s (handlePage c)).use ≠ bitsOf c.handle 47 32) :
    ∃ h, doWnext s = complete (wcnt (wnextRead s c) 9 1) c.id (Report.plain 0x10 h 0) := by
  refine ⟨resumeHandle s (pageOf s (handlePage c)).stream, ?_⟩
  have hx' : (!(pageOf s (bitsOf c.handle 31 16)).owned ||
      decide ((pageOf s (bitsOf c.handle 31 16)).use ≠ bitsOf c.handle 47 32)) = true := by
    rcases hx with h | h
    · rw [handlePage] at h
      rw [h]
      rfl
    · rw [handlePage] at h
      rw [decide_eq_true h, Bool.or_true]
  unfold doWnext
  simp only [hc, doWnext_read hb hs, hx', Option.isSome_none, Bool.false_eq_true, if_false, if_true]
  rfl

variable (ho : (pageOf s (handlePage c)).owned = true) (hu : (pageOf s (handlePage c)).use = bitsOf c.handle 47 32)
  (hd : addrOk s c.ring c.addr 32 true = true)
include ho hu hd

omit hc hb hs hd in
/-- The handle is of the page as it is now allocated. -/
theorem handle_fresh : (!(pageOf s (bitsOf c.handle 31 16)).owned ||
    decide ((pageOf s (bitsOf c.handle 31 16)).use ≠ bitsOf c.handle 47 32)) = false := by
  rw [handlePage] at ho hu
  rw [ho, hu]
  simp

theorem doWnext_next (hi : handleIndex c + 1 < (pageOf s (handlePage c)).fill) :
    doWnext s = askFor (startCmd (wcnt (wnextRead s c) 9 1) c.id) (nextQuery s c) s.cycle
      (groupGrans s (handlePage c) ((handleIndex c + 1) / 8)) := by
  have hid : s.rgl.nextId = (startCmd (wcnt (wnextRead s c) 9 1) c.id).rgl.nextId := by
    rw [(only_startCmd _ _).1 .rgl (by simp), wcnt, bump_rgl, wnextRead_rgl]
  rw [handlePage, handleIndex] at hi
  unfold doWnext
  simp only [hc, doWnext_read hb hs, handle_fresh ho hu, hd, if_pos hi, Option.isSome_none, Bool.not_true, Bool.false_eq_true, if_false]
  generalize wcnt (wnextRead s c) 9 1 = u at hid ⊢
  rw [askFor, ← hid]
  rfl

theorem doWnext_last (hi : (pageOf s (handlePage c)).fill ≤ handleIndex c + 1)
    (hl : (streamOf s (pageOf s (handlePage c)).stream).openPage = handlePage c) :
    doWnext s = complete (wcnt (wnextRead s c) 9 1) c.id (Report.plain 0x0C c.handle 0) := by
  rw [handlePage] at hl
  rw [handlePage, handleIndex] at hi
  unfold doWnext
  simp only [hc, doWnext_read hb hs, handle_fresh ho hu, hd, decide_eq_true hl, if_neg (Nat.not_lt.2 hi),
    Option.isSome_none, Bool.not_true, Bool.false_eq_true, if_false, if_true]

end Branches

variable (ha : awake s = true) (hc : headWith s 0x21 (fun _ => true) = some c) (hk : cmdOf s c.id = some c)
  (hg : s.tcr.gone.contains c.id = false)
include ha hc hk hg

omit hc in
/-- A command ended from a state that has the commands of `s` ends with its completion. -/
theorem complete_wnext {u : State} {r : Report} (e : doWnext s = complete u c.id r) (hu : u.tcr = s.tcr) :
    exec .wnext s = .next (finish s (ended u c r)) := by
  rw [core_wnext ha, e, complete_eq r ((cmdOf_congr hu _).trans hk) (by rw [hu]; exact hg)]

omit ha hc hk hg in
/-- What the end of a command says of the ended one. -/
theorem finish_ended (s u : State) (c : TCmd) (r : Report) :
    (∃ k ∈ (finish s (ended u c r)).tcr.compl, k.cmdId = c.cmdId ∧ k.status = r.status ∧ k.handle = r.handle) ∧
      cmdOf (finish s (ended u c r)) c.id = none := by
  refine ⟨?_, (cmdOf_congr (finish_tcr s _) _).trans (cmdOf_ended u c r)⟩
  rw [finish_tcr]
  exact completion_ended u c r

omit ha hc hk hg in
theorem ended_way (u : State) (c : TCmd) (r : Report) : (ended u c r).way = u.way := rfl

omit ha hc hk hg in
theorem rd_finish_ended (s u : State) (c : TCmd) (r : Report) {o : Nat} (h : o ∉ msgRegs) :
    rd (finish s (ended u c r)) o = rd u o :=
  (rd_finish s _ h).trans ((only_ended u c r).2.1 o h (by simp))

/-- WNEXT of a page whose entry reads uncorrectable ends with 0x0A, and bars the stream's inserts (R304). -/
theorem wnext_bad (hb : pageBad s (handlePage c) = true) : Ends .wnext s fun t =>
    (∃ k ∈ t.tcr.compl, k.cmdId = c.cmdId ∧ k.status = 0x0A) ∧ cmdOf t c.id = none ∧
      (streamOf t (pageOf s (handlePage c)).stream).bad = true ∧ flag t Reg.wayEvt 2 = true ∧ t.way.pages = s.way.pages ∧
      Only [.way, .tcr, .intg] ([Reg.wayCnt 9, Reg.wayCnt 13, Reg.wayEvt, Reg.wayErr] ++ readRegs 6 ++ readRegs 7) s t := by
  obtain ⟨h, e⟩ := doWnext_bad hc hb
  have htcr : (wnextLost s c).tcr = s.tcr := by simp [wnextLost, wayUncorr, wcnt, wayLost, wnextRead]
  have hway : (finish s (ended (wnextLost s c) c (Report.plain 0x0A h 0))).way =
      (wayLost s (pageOf s (handlePage c)).stream).way := by
    rw [finish_way, ended_way, wnextLost_way]
  refine ends_of (complete_wnext ha hk hg e htcr) ?_
  obtain ⟨⟨k, hm, hid, hst, _⟩, hnone⟩ := finish_ended s (wnextLost s c) c (Report.plain 0x0A h 0)
  refine ⟨⟨k, hm, hid, hst⟩, hnone, ?_, ?_, ?_, ?_⟩
  · rw [streamOf_congr hway, streamOf_wayLost]
  · rw [flag_congr (rd_finish_ended s _ _ _ (by decide)), flag_wnextLost]
  · rw [hway]
    rfl
  · have h0 : Only [.way, .intg] ([Reg.wayCnt 9, Reg.wayCnt 13, Reg.wayEvt, Reg.wayErr] ++ readRegs 6 ++ readRegs 7) s
        (wnextRead s c) := (only_entriesRead s _ _ _).mono (by simp)
        (by rw [List.append_assoc]; exact List.subset_append_right _ _)
    have hon := ((h0.more (only_wayLost _ (pageOf s (handlePage c)).stream) (by simp) (by simp)).more
      (only_wayUncorr _ (pageOf s (handlePage c)).stream (handlePage c)) (by simp) (by simp)).bump (o := Reg.wayCnt 9) 1
      (by simp)
    exact (hon.trans (only_ended _ c _)).finished.mono (by simp) (by simp)

omit hc in
/-- An end of WNEXT that changes no page: its count, its completion (R298, R299). -/
theorem wnext_ends {r : Report} (e : doWnext s = complete (wcnt (wnextRead s c) 9 1) c.id r) : Ends .wnext s fun t =>
    (∃ k ∈ t.tcr.compl, k.cmdId = c.cmdId ∧ k.status = r.status ∧ k.handle = r.handle) ∧ cmdOf t c.id = none ∧
      rd t (Reg.wayCnt 9) = (rd s (Reg.wayCnt 9) + 1) % 2 ^ 48 ∧
      Only [.tcr, .intg] (Reg.wayCnt 9 :: readRegs 6 ++ readRegs 7) s t := by
  have htcr : (wcnt (wnextRead s c) 9 1).tcr = s.tcr := by rw [wcnt, bump_tcr, wnextRead_tcr]
  refine ends_of (complete_wnext ha hk hg e htcr) ?_
  obtain ⟨hcompl, hnone⟩ := finish_ended s (wcnt (wnextRead s c) 9 1) c r
  refine ⟨hcompl, hnone, ?_, ((only_wnextRead s c).trans (only_ended _ c r)).finished.mono (by simp) (by simp)⟩
  rw [rd_finish_ended s _ _ _ (by decide), rd_wnextRead]

omit hk hg in
/-- WNEXT of a record that has a next one in its page asks for that one's group (R298). -/
theorem wnext_asks (hb : pageBad s (handlePage c) = false) (hs : streamBad s (pageOf s (handlePage c)).stream = false)
    (ho : (pageOf s (handlePage c)).owned = true) (hu : (pageOf s (handlePage c)).use = bitsOf c.handle 47 32)
    (hd : addrOk s c.ring c.addr 32 true = true) (hi : handleIndex c + 1 < (pageOf s (handlePage c)).fill) :
    Ends .wnext s fun t =>
      (∃ r ∈ t.rgl.reqs, r.purpose = .wayQuery s.rgl.nextId ∧
        r.grans = groupGrans s (handlePage c) ((handleIndex c + 1) / 8)) ∧
      { c with started := true } ∈ t.tcr.cmds ∧
      Only [.way, .rgl, .tcr, .intg] (Reg.wayCnt 9 :: readRegs 6 ++ readRegs 7) s t := by
  have hid : (startCmd (wcnt (wnextRead s c) 9 1) c.id).rgl.nextId = s.rgl.nextId := by
    rw [(only_startCmd _ _).1 .rgl (by simp), wcnt, bump_rgl, wnextRead_rgl]
  have htcr : (wcnt (wnextRead s c) 9 1).tcr = s.tcr := by rw [wcnt, bump_tcr, wnextRead_tcr]
  refine ends_of (core_wnext ha) ?_
  rw [doWnext_next hc hb hs ho hu hd hi]
  refine ⟨?_, ?_, (((only_wnextRead s c).trans (only_startCmd _ _)).trans (only_askFor _ _ _ _)).finished.mono (by simp)
    (by simp)⟩
  · rw [finish_rgl, ← hid]
    obtain ⟨r, hm, hp, _, hgr⟩ := askFor_request (startCmd (wcnt (wnextRead s c) 9 1) c.id) (nextQuery s c) s.cycle
      (groupGrans s (handlePage c) ((handleIndex c + 1) / 8))
    exact ⟨r, hm, hp, hgr⟩
  · rw [finish_tcr, askFor_tcr]
    exact mem_startCmd (htcr ▸ mem_of_headWith hc)

end Wnext
end Sys2Proof.Machine
end

section
namespace Sys2Proof.Machine

/-! ### Parts of the index -/

section Parts
variable (s : State)

theorem setStream_way (n : Nat) (x : Stream) :
    (setStream s n x).way = { s.way with streams := s.way.streams.set (fun _ => Stream.zero) n x } := by
  rw [setStream, mergeWords_way]

@[simp] theorem streamOf_setStream (n : Nat) (x : Stream) : streamOf (setStream s n x) n = x := by
  rw [streamOf, setStream_way]
  exact KMap.get_set_same _ _ _ _

theorem streamOf_setStream_ne {n u : Nat} (x : Stream) (h : u ≠ n) : streamOf (setStream s n x) u = streamOf s u := by
  rw [streamOf, setStream_way]
  exact KMap.get_set_ne _ _ _ h

theorem only_rcEvent (k b e : Nat) (f : Nat → Nat → Nat) : Only [] [] s (rcEvent s k b e f) :=
  only_units (fun u hu => by cases u <;> simp [UnitName.same] at *) (rcEvent_regs s k b e f) (rcEvent_pcie s k b e f)

/-- Taking or freeing combine places moves their counts, and may latch COMBINE_LOW (R289). -/
theorem only_usePlaces (k : Nat) : Only [.way] [Reg.wayEvt] s (usePlaces s k) := by
  have h : ∀ w : WaySt, Only [.way] [Reg.wayEvt] s { rcEvent s Reg.wayCombine s.way.peak 0 max with way := w } := fun w =>
    ((only_rcEvent s _ _ _ _).trans (only_setWay _ w)).mono (by simp) (by simp)
  unfold usePlaces
  simp only
  split
  · exact (h _).setEvt 4 (by simp)
  · exact h _

theorem usePlaces_way (k : Nat) : (usePlaces s k).way = { s.way with
    used := k
    peak := max s.way.peak k
    low := decide (16384 - k ≤ 1024)
    drain := decide (16384 - k ≤ 2048) || (s.way.drain && decide (16384 - k ≤ 4096)) } := by
  unfold usePlaces
  simp only
  split
  · rw [setEvt_way]
  · rfl

theorem only_auditPage : Only [] ledgerRegs s (auditPage s) := by
  unfold auditPage
  simp only
  split
  · exact Only.refl _ _ s
  · exact only_ledgerFault s _ _ _ _ _ _

@[simp] theorem auditPage_way : (auditPage s).way = s.way := (only_auditPage s).1 .way (by simp)

/-- The progress word of a long operation says whether it is active (R14). -/
theorem bitOf_progValue (total pos : Nat) (active : Bool) : bitOf (progValue total pos active) 46 = active := by
  have h : ∀ x y : Nat, bitOf (x % 2 ^ 32 + y % 2 ^ 14 * 2 ^ 32 + b2n active * 2 ^ 46) 46 = active := by
    intro x y
    rw [bitOf, Nat.shiftRight_eq_div_pow]
    cases active <;> simp only [b2n] <;> [apply decide_eq_false; apply decide_eq_true] <;> simp <;> omega
  exact h _ _

/-- A progress register just written says so too. -/
theorem progOn_wr (prog total pos : Nat) (active : Bool) : progOn (wr s prog (progValue total pos active)) prog = active := by
  rw [progOn, flag, rd_wr_same, bitOf_mod _ (by decide), bitOf_progValue]

theorem progOn_congr {s t : State} {o : Nat} (h : rd t o = rd s o) : progOn t o = progOn s o := flag_congr h 46

end Parts

/-! ### FLUSH_STREAM (R303, R310) -/

section Flush
variable (s : State) (n : Nat)

/-- The inserts that a flush of stream n drops: those settling and those not yet written (R303). -/
def flushDrops : Nat :=
  (s.way.settle.filter (fun i => i.stream = n)).length +
    (s.way.recs.filter (fun r => decide (r.stream = n) && !r.written)).length

/-- A flush has begun its count of entries, and the dropped inserts have left the combine space. -/
def flushCounted : State :=
  let s1 := progSet s Reg.wayFlushProg Reg.wayFlushTotal (wayPages s) 0 true
  usePlaces (wcnt s1 14 (flushDrops s n)) (s1.way.used - flushDrops s n)

/-- The stream as its flush begins: its ring begins anew (R303). -/
def emptied (x : Stream) : Stream :=
  { x with head := 0, openPage := 0, owned := 0, seg := none, closed := false, placed := 0, flushing := true }

theorem startFlush_eq : startFlush s n = pruneHeld
    { setStream (flushCounted s n) n (emptied (streamOf s n)) with
      way := { (setStream (flushCounted s n) n (emptied (streamOf s n))).way with
        settle := (setStream (flushCounted s n) n (emptied (streamOf s n))).way.settle.filter (fun i => i.stream ≠ n)
        recs := (setStream (flushCounted s n) n (emptied (streamOf s n))).way.recs.filter (fun r => r.stream ≠ n || r.written)
        held := (setStream (flushCounted s n) n (emptied (streamOf s n))).way.held.filter
          (fun (e : Nat × Option Nat) => (pageOf s (e.1 / 64)).stream ≠ n)
        heldOrder := (setStream (flushCounted s n) n (emptied (streamOf s n))).way.heldOrder.filter
          (fun k => (pageOf s (k / 4)).stream ≠ n)
        flush := some (n, s.cycle, s.way.allocs) } } := rfl

theorem startFlush_flush : (startFlush s n).way.flush = some (n, s.cycle, s.way.allocs) := by rw [startFlush_eq]; rfl

theorem flushCounted_settle : (flushCounted s n).way.settle = s.way.settle := by
  simp [flushCounted, usePlaces_way, wcnt, progSet]

theorem flushCounted_streams : (flushCounted s n).way.streams = s.way.streams := by
  simp [flushCounted, usePlaces_way, wcnt, progSet]

theorem startFlush_settle : (startFlush s n).way.settle = s.way.settle.filter (fun i => i.stream ≠ n) := by
  rw [startFlush_eq]
  simp only [pruneHeld, setStream_way, flushCounted_settle]

theorem streamOf_startFlush (u : Nat) :
    streamOf (startFlush s n) u = streamOf (setStream (flushCounted s n) n (emptied (streamOf s n))) u := by
  rw [startFlush_eq]
  rfl

theorem streamOf_startFlush_same : streamOf (startFlush s n) n = emptied (streamOf s n) := by
  rw [streamOf_startFlush, streamOf_setStream]

theorem streamOf_startFlush_ne {u : Nat} (h : u ≠ n) : streamOf (startFlush s n) u = streamOf s u := by
  rw [streamOf_startFlush, streamOf_setStream_ne _ _ h, streamOf, flushCounted_streams, streamOf]

/-- The flush's start beside its progress word. -/
theorem only_startFlush_after : Only [.way, .intg] ([Reg.wayCnt 14, Reg.wayEvt] ++ flipRegs)
    (progSet s Reg.wayFlushProg Reg.wayFlushTotal (wayPages s) 0 true) (startFlush s n) := by
  rw [startFlush_eq]
  exact ((((only_bump _ (Reg.wayCnt 14) _).trans (only_usePlaces _ _)).trans (only_setStream _ _ _)).trans
    (only_setWay _ _)).mono (by simp) (by simp)

theorem only_startFlush : Only [.way, .intg]
    ([Reg.wayFlushProg, Reg.wayFlushTotal, Reg.wayCnt 14, Reg.wayEvt] ++ flipRegs) s (startFlush s n) :=
  (((only_wr s Reg.wayFlushTotal _).trans (only_wr _ Reg.wayFlushProg _)).trans (only_startFlush_after s n)).mono (by simp)
    (by simp)

theorem progOn_startFlush : progOn (startFlush s n) Reg.wayFlushProg = true := by
  rw [progOn_congr ((only_startFlush_after s n).2.1 _ (by decide) (by decide)), progSet, progOn_wr]

/-- The pages after a flush's scan. -/
def scanned (since : Nat) (e : Nat × Page) : Nat × Page :=
  if e.2.owned ∧ e.2.stream = n ∧ olderThan s e.2.alloc since then (e.1, { e.2 with owned := false, fill := 0 }) else e

/-- The scan's end, before its audit. -/
def flushScanned (since : Nat) : State :=
  { s with way := { s.way with
    flush := none
    pages := s.way.pages.map (scanned s n since) } }

theorem endFlush_eq (since : Nat) : endFlush s n since =
    (let s2 := setStream (rangeWritten (flushScanned s n since) 7 (2 * n) 2) n
      { streamOf s n with
        flushing := false
        bad := false }
    setEvt (wr (auditPage s2) Reg.wayFlushProg (progValue (rd s2 Reg.wayFlushTotal) (rd s2 Reg.wayFlushTotal) false))
      Reg.wayEvt 3) := rfl

theorem endFlush_way (since : Nat) : (endFlush s n since).way = { s.way with
    flush := none
    pages := s.way.pages.map (scanned s n since)
    streams := s.way.streams.set (fun _ => Stream.zero) n { streamOf s n with
      flushing := false
      bad := false } } := by
  rw [endFlush_eq]
  simp only [setEvt_way, wr_way, auditPage_way, setStream_way, rangeWritten_way, flushScanned]

theorem only_endFlush (since : Nat) :
    Only [.way, .intg] ([Reg.wayFlushProg, Reg.wayEvt] ++ flipRegs ++ ledgerRegs) s (endFlush s n since) := by
  rw [endFlush_eq]
  exact ((((((only_setWay s _).trans (only_rangeWritten _ 7 _ 2)).trans (only_setStream _ n _)).trans (only_auditPage _)).trans
    (only_wr _ Reg.wayFlushProg _)).trans (only_setEvt _ Reg.wayEvt 3)).mono (by simp) (by
      intro o ho
      simp only [List.mem_append, List.mem_cons, List.not_mem_nil, or_false] at ho ⊢
      tauto)

theorem flag_endFlush (since : Nat) : flag (endFlush s n since) Reg.wayEvt 3 = true := by
  rw [endFlush_eq]
  exact flag_setEvt_same _ _ _ (by decide)

theorem progOn_endFlush (since : Nat) : progOn (endFlush s n since) Reg.wayFlushProg = false := by
  rw [endFlush_eq]
  simp only
  rw [progOn_congr (rd_setEvt_ne _ _ (by decide)), progOn_wr]

/-- A page that the scan leaves with the stream is one allocated since the flush began (R303). -/
theorem alloc_of_scanned {since : Nat} {e : Nat × Page} (h : e ∈ s.way.pages.map (scanned s n since))
    (ho : e.2.owned = true) (hn : e.2.stream = n) :
    ∃ j, j < s.way.allocs - since ∧ e.2.alloc % 2 ^ 32 = (since + j) % 2 ^ 32 := by
  obtain ⟨e0, _, rfl⟩ := List.mem_map.1 h
  by_cases hx : e0.2.owned ∧ e0.2.stream = n ∧ olderThan s e0.2.alloc since
  · rw [scanned, if_pos hx] at ho
    cases ho
  · rw [scanned, if_neg hx] at ho hn ⊢
    have hold : ¬ (e0.2.alloc + 2 ^ 32 - since % 2 ^ 32) % 2 ^ 32 ≥ s.way.allocs - since := fun h =>
      hx ⟨ho, hn, decide_eq_true h⟩
    exact ⟨(e0.2.alloc + 2 ^ 32 - since % 2 ^ 32) % 2 ^ 32, by omega, by omega⟩

variable {s n}

/-- FLUSH_STREAM is refused while one runs; else it takes the stream's inserts and pages, and starts its scan (R14, R303). -/
theorem flushStream_starts (m : Requester) (v : BitVec 32) (hw : mayWrite s m Reg.wayFlush 4 = true)
    (hv : bitOf v.toNat 31 = true) : Ends (.flushStream m v) s fun t =>
      (progOn s Reg.wayFlushProg = true → flag t Reg.topErr 0 = true ∧ Only [] (errRegs ++ portRegs m) s t) ∧
      (progOn s Reg.wayFlushProg = false → wayPages s ≠ 0 →
        t.way.flush = some (v.toNat % 65536, s.cycle, s.way.allocs) ∧ progOn t Reg.wayFlushProg = true ∧
        (streamOf t (v.toNat % 65536)).owned = 0 ∧ (streamOf t (v.toNat % 65536)).flushing = true ∧
        t.way.settle = s.way.settle.filter (fun i => i.stream ≠ v.toNat % 65536) ∧
        (∀ n, n ≠ v.toNat % 65536 → streamOf t n = streamOf s n) ∧
        Only [.way, .intg] ([Reg.wayFlush, Reg.wayFlushProg, Reg.wayFlushTotal, Reg.wayCnt 14, Reg.wayEvt] ++ flipRegs ++
          portRegs m) s t) := by
  have hp : progOn (portCount s m) Reg.wayFlushProg = progOn s Reg.wayFlushProg :=
    progOn_congr (rd_portCount s m (belowCounts_of_lt (by decide)))
  have hn : wayPages (portCount s m) = wayPages s := fget_congr (rd_portCount s m (belowCounts_of_lt (by decide))) 48 32
  refine ends_of (exec_flushStream v hw) ?_
  rw [wayFlushWrite, if_pos hv, hp, hn]
  refine ⟨fun hr => ?_, fun hr h0 => ?_⟩
  · rw [if_pos hr]
    exact ⟨by rw [flag_finish_err, flag_rsvd], (only_rsvd _ _ _).counted⟩
  · simp only [hr, if_neg h0, Bool.false_eq_true, if_false]
    generalize hb : wr (portCount s m) Reg.wayFlush (v.toNat % 65536) = b
    have hway : b.way = s.way := by rw [← hb, wr_way, portCount_way]
    have hcycle : b.cycle = s.cycle := by rw [← hb, wr_cycle, portCount_cycle]
    have hon : Only [] [Reg.wayFlush] (portCount s m) b := hb ▸ only_wr _ _ _
    refine ⟨?_, ?_, ?_, ?_, ?_, fun u hu => ?_, ?_⟩
    · rw [finish_way, startFlush_flush, hway, hcycle]
    · rw [progOn_congr (rd_finish s _ (by decide)), progOn_startFlush]
    · rw [streamOf_congr (finish_way s _), streamOf_startFlush_same, emptied]
    · rw [streamOf_congr (finish_way s _), streamOf_startFlush_same, emptied]
    · rw [finish_way, startFlush_settle, hway]
    · rw [streamOf_congr (finish_way s _), streamOf_startFlush_ne _ _ hu, streamOf_congr hway]
    · exact (hon.trans (only_startFlush b _)).counted

/-- The scan's end frees every page that the stream held when the flush began (R303). -/
theorem flushStreamEnd_frees {since a : Nat} (ha : awake s = true) (hf : s.way.flush = some (n, since, a))
    (hd : since + wayPages s ≤ s.cycle) : Ends .flushStreamEnd s fun t =>
      t.way.flush = none ∧ (streamOf t n).flushing = false ∧ progOn t Reg.wayFlushProg = false ∧
      (∀ e ∈ t.way.pages, e.2.owned = true → e.2.stream = n →
        ∃ j, j < s.way.allocs - a ∧ e.2.alloc % 2 ^ 32 = (a + j) % 2 ^ 32) ∧
      (∀ u, u ≠ n → streamOf t u = streamOf s u) ∧ flag t Reg.wayEvt 3 = true ∧
      Only [.way, .intg] ([Reg.wayFlushProg, Reg.wayEvt] ++ flipRegs ++ ledgerRegs) s t := by
  have hway := (finish_way s (endFlush s n a)).trans (endFlush_way s n a)
  refine ends_of (core_flushStreamEnd ha) ?_
  rw [flushStreamEnd, hf]
  simp only [if_pos hd]
  refine ⟨by rw [hway], ?_, ?_, fun e he => ?_, fun u hu => ?_, ?_, (only_endFlush s n a).finished⟩
  · rw [streamOf, hway, KMap.get_set_same]
  · rw [progOn_congr (rd_finish s _ (by decide)), progOn_endFlush]
  · rw [hway] at he
    exact alloc_of_scanned s n he
  · rw [streamOf, hway, KMap.get_set_ne _ _ _ hu, streamOf]
  · rw [flag_congr (rd_finish s _ (by decide)), flag_endFlush]

end Flush

/-! ### Quotas (R290) -/

/-- A stream's configuration whose minima exceed the pages, or with MAX below MIN, is refused; any other is taken (R290). -/
theorem streamCfg_taken {s : State} (m : Requester) (v : BitVec 64) (sum : Nat) (hw : mayWrite s m Reg.wayStreamCfg 8 = true)
    (hsum : sum = (s.way.streams.map (fun e => e.2.min)).foldl (· + ·) 0 - (streamOf s (selStream s)).min +
      bitsOf v.toNat 30 16) :
    Ends (.wayStreamCfgWrite m v) s fun t =>
      (wayPages s < sum ∨ bitsOf v.toNat 15 0 ≠ 0 ∧ bitsOf v.toNat 15 0 < bitsOf v.toNat 30 16 →
        flag t Reg.topErr 0 = true ∧ Only [] (errRegs ++ portRegs m) s t) ∧
      (sum ≤ wayPages s → bitsOf v.toNat 15 0 = 0 ∨ bitsOf v.toNat 30 16 ≤ bitsOf v.toNat 15 0 →
        streamOf t (selStream s) = { streamOf s (selStream s) with
          min := bitsOf v.toNat 30 16
          max := bitsOf v.toNat 15 0
          ageMs := bitsOf v.toNat 63 32
          dis := bitOf v.toNat 31 } ∧
        (∀ n, n ≠ selStream s → streamOf t n = streamOf s n) ∧ Only [.way, .intg] (flipRegs ++ portRegs m) s t) := by
  have hn : wayPages (portCount s m) = wayPages s := fget_congr (rd_portCount s m (belowCounts_of_lt (by decide))) 48 32
  have hsel : selStream (portCount s m) = selStream s := fget_congr (rd_portCount s m (belowCounts_of_lt (by decide))) 15 0
  have hst : ∀ u, streamOf (portCount s m) u = streamOf s u := streamOf_congr (portCount_way s m)
  refine ends_of (exec_wayStreamCfgWrite v hw) ?_
  rw [streamCfgWrite]
  simp only [hn, hsel, hst, portCount_way, ← hsum]
  refine ⟨fun h => ?_, fun h1 h2 => ?_⟩
  · rw [if_pos h]
    exact ⟨by rw [flag_finish_err, flag_rsvd], (only_rsvd _ _ _).counted⟩
  · rw [if_neg (by omega)]
    refine ⟨?_, fun u hu => ?_, (only_setStream _ _ _).counted⟩
    · rw [streamOf_congr (finish_way s _), streamOf_setStream]
    · rw [streamOf_congr (finish_way s _), streamOf_setStream_ne _ _ hu, hst]

/-! ### The statement -/

/-- What a command's end satisfies, its one next state satisfies. -/
theorem Ends.holds {c : Instr} {s t : State} {P : State → Prop} (h : Ends c s P) (e : exec c s = .next t) : P t := by
  obtain ⟨u, hu, hp⟩ := h
  obtain rfl : u = t := Host.Outcome.next.inj (hu.symm.trans e)
  exact hp

/-- WNEXT by the state of its handle's page (R298, R299, R302, R304). -/
theorem wnext_cases {s : State} {c : TCmd} (ha : awake s = true) (hc : headWith s 0x21 (fun _ => true) = some c)
    (hk : cmdOf s c.id = some c) (hg : s.tcr.gone.contains c.id = false) : Ends .wnext s fun t =>
      (pageBad s (handlePage c) = true → (∃ k ∈ t.tcr.compl, k.cmdId = c.cmdId ∧ k.status = 0x0A) ∧ cmdOf t c.id = none ∧
        (streamOf t (pageOf s (handlePage c)).stream).bad = true ∧ flag t Reg.wayEvt 2 = true ∧ t.way.pages = s.way.pages ∧
        Only [.way, .tcr, .intg] ([Reg.wayCnt 9, Reg.wayCnt 13, Reg.wayEvt, Reg.wayErr] ++ readRegs 6 ++ readRegs 7) s t) ∧
      (pageBad s (handlePage c) = false → streamBad s (pageOf s (handlePage c)).stream = false →
        (pageOf s (handlePage c)).owned = false ∨ (pageOf s (handlePage c)).use ≠ bitsOf c.handle 47 32 →
        (∃ k ∈ t.tcr.compl, k.cmdId = c.cmdId ∧ k.status = 0x10) ∧ cmdOf t c.id = none ∧
        rd t (Reg.wayCnt 9) = (rd s (Reg.wayCnt 9) + 1) % 2 ^ 48 ∧ Only [.tcr, .intg] (Reg.wayCnt 9 :: readRegs 6 ++ readRegs 7) s t) ∧
      (pageBad s (handlePage c) = false → streamBad s (pageOf s (handlePage c)).stream = false →
        (pageOf s (handlePage c)).owned = true → (pageOf s (handlePage c)).use = bitsOf c.handle 47 32 →
        addrOk s c.ring c.addr 32 true = true →
        (handleIndex c + 1 < (pageOf s (handlePage c)).fill →
          (∃ r ∈ t.rgl.reqs, r.purpose = .wayQuery s.rgl.nextId ∧
            r.grans = groupGrans s (handlePage c) ((handleIndex c + 1) / 8)) ∧
          { c with started := true } ∈ t.tcr.cmds ∧
          Only [.way, .rgl, .tcr, .intg] (Reg.wayCnt 9 :: readRegs 6 ++ readRegs 7) s t) ∧
        ((pageOf s (handlePage c)).fill ≤ handleIndex c + 1 →
          (streamOf s (pageOf s (handlePage c)).stream).openPage = handlePage c →
          (∃ k ∈ t.tcr.compl, k.cmdId = c.cmdId ∧ k.status = 0x0C ∧ k.handle = c.handle) ∧ cmdOf t c.id = none ∧
          Only [.tcr, .intg] (Reg.wayCnt 9 :: readRegs 6 ++ readRegs 7) s t)) := by
  refine ends_of (core_wnext ha) ⟨fun hb => (wnext_bad ha hc hk hg hb).holds (core_wnext ha), fun hb hs hx => ?_,
    fun hb hs ho hu hd => ⟨fun hi => (wnext_asks ha hc hb hs ho hu hd hi).holds (core_wnext ha), fun hi hl => ?_⟩⟩
  · obtain ⟨h, e⟩ := doWnext_stale hc hb hs hx
    obtain ⟨⟨k, hm, hid, hst, _⟩, hnone, hcnt, hon⟩ := (wnext_ends ha hk hg e).holds (core_wnext ha)
    exact ⟨⟨k, hm, hid, hst⟩, hnone, hcnt, hon⟩
  · obtain ⟨hcompl, hnone, _, hon⟩ :=
      (wnext_ends ha hk hg (doWnext_last hc hb hs ho hu hd hi hl)).holds (core_wnext ha)
    exact ⟨hcompl, hnone, hon⟩

/-- Settles O38: each command's own theorem, QUERY and WNEXT by the branch they take (R290, R295-R303, R310). -/
theorem lookBackFlushAndQuotasOfStreams : Obligations.LookBackFlushAndQuotasOfStreams := by
  unfold Obligations.LookBackFlushAndQuotasOfStreams
  intro s
  exact ⟨fun _ _ => query_begins, fun _ => query_misses, fun _ _ _ _ => wayDue_completes, fun _ => wnext_cases,
    flushStream_starts, fun _ _ _ => flushStreamEnd_frees, streamCfg_taken⟩

end Sys2Proof.Machine
end

section
namespace Sys2Proof.Machine

/-! ### The tap ports and the ledgers: what the shared operations leave -/

section TapLayer
variable {s t : State} {us : List UnitName} {rs : List Nat}

/-- A frame says of a register below the counters of requests that it reads as before. -/
theorem Only.rd_eq (h : Only us rs s t) {o : Nat} (hb : belowCounts o) (hn : o ∉ rs) : rd t o = rd s o :=
  h.2.1 o (not_mem_msgRegs hb) hn

@[simp] theorem portCount_taps (s : State) (m : Requester) : (portCount s m).taps = s.taps := portCount_same s m _ (wr_taps s)

@[simp] theorem tap_portCount (s : State) (m : Requester) (p : Nat) : tap (portCount s m) p = tap s p :=
  tap_congr (portCount_taps s m) p

theorem only_setVrd (s : State) (x : VrdSt) : Only [.vrd] [] s { s with vrd := x } :=
  only_units (fun u hu => by cases u <;> simp [UnitName.same] at *) rfl rfl

theorem tapsBut_finish {p : Nat} (s : State) (h : tapsBut p s t) : tapsBut p s (finish s t) :=
  fun q hq => (tap_finish s t q).trans (h q hq)

end TapLayer

/-! ### A recorded ledger break (R46, R47) -/

section Break
variable (s : State) {k : Nat} (o : Nat)

theorem rd_ledgerBreak (hk : k < 256) : ∃ c, c < 256 ∧
    rd (ledgerBreak s k o) Reg.topLedgerBreak = c * 2 ^ 24 + k * 2 ^ 16 + o % 65536 := by
  refine ⟨(fget s Reg.topLedgerBreak 31 24 + 1) % 256, Nat.mod_lt _ (by decide), ?_⟩
  rw [ledgerBreak, rd_wr_same, Nat.mod_eq_of_lt]
  omega

theorem fget_ledgerBreak_kind (hk : k < 256) : fget (ledgerBreak s k o) Reg.topLedgerBreak 23 16 = k := by
  obtain ⟨c, hc, e⟩ := rd_ledgerBreak s o hk
  rw [fget, e, bitsOf_eq]
  omega

theorem fget_ledgerBreak_object (hk : k < 256) : fget (ledgerBreak s k o) Reg.topLedgerBreak 15 0 = o % 65536 := by
  obtain ⟨c, hc, e⟩ := rd_ledgerBreak s o hk
  rw [fget, e, bitsOf_eq]
  omega

@[simp] theorem ledgerBreak_taps : (ledgerBreak s k o).taps = s.taps := wr_taps _ _ _
@[simp] theorem ledgerBreak_vrd : (ledgerBreak s k o).vrd = s.vrd := wr_vrd _ _ _

end Break

/-! ### TAP_FORCE_CRED and VRD_TAG_RECLAIM -/

section Recovery
variable {s : State} {m v : Nat}

/-- The port of a forced credit reset: its reserve and its grants gone, its CREDIT ledger rebased (R46). -/
def creditReset (x : TapPort) : TapPort :=
  { x with
    reserve := []
    toGrant := []
    granted := x.received
    depthOver := none }

theorem forceCred_resets (hk : bitsOf v 31 16 = 0x6372) (hs : (tap s (bitsOf v 4 0)).state ≤ 2) :
    forceCred s m v = ledgerBreak { setTap s (bitsOf v 4 0) (creditReset (tap s (bitsOf v 4 0))) with vrd := { s.vrd with
      taken := s.vrd.taken.filter (fun t => !(tap s (bitsOf v 4 0)).reserve.contains t) } } 1 (bitsOf v 4 0) := by
  rw [forceCred, if_pos ⟨hk, hs⟩]
  rfl

theorem forceCred_refused (h : bitsOf v 31 16 ≠ 0x6372 ∨ 2 < (tap s (bitsOf v 4 0)).state) :
    forceCred s m v = rsvd s m Reg.tapForceCred := by
  rw [forceCred, if_neg (by rintro ⟨hk, hs⟩; omega)]

theorem tagReclaim_returns (hk : v % 65536 = 0x7A61) :
    tagReclaim s m v = ledgerBreak { s with vrd := { s.vrd with
      taken := s.vrd.taken.filter (fun t => !s.vrd.orphans.contains t)
      orphans := [] } } 2 s.vrd.orphans.length := by
  rw [tagReclaim, if_pos hk]

end Recovery

section Recovered
variable {s : State} {m : Requester} {v : BitVec 32}

/-- A forced credit reset with its key, on a port that is not in TRAIN or UP (R46, R142). -/
theorem tapForceCred_resets (hw : mayWrite s m Reg.tapForceCred 4 = true) (hk : bitsOf v.toNat 31 16 = 0x6372)
    (hs : (tap s (bitsOf v.toNat 4 0)).state ≤ 2) : Ends (.tapForceCred m v) s fun t =>
      (tap t (bitsOf v.toNat 4 0)).reserve = [] ∧
      (tap t (bitsOf v.toNat 4 0)).granted = (tap s (bitsOf v.toNat 4 0)).received ∧
      (∀ x, x ∈ t.vrd.taken ↔ x ∈ s.vrd.taken ∧ x ∉ (tap s (bitsOf v.toNat 4 0)).reserve) ∧
      fget t Reg.topLedgerBreak 23 16 = 1 ∧ fget t Reg.topLedgerBreak 15 0 = bitsOf v.toNat 4 0 ∧
      tapsBut (bitsOf v.toNat 4 0) s t ∧ Only [.taps, .vrd] (Reg.topLedgerBreak :: portRegs m) s t := by
  have hp : bitsOf v.toNat 4 0 < 32 := bitsOf_lt _ _ _
  have hb : belowCounts Reg.topLedgerBreak := belowCounts_of_lt (by decide)
  have hs' : (tap (portCount s m) (bitsOf v.toNat 4 0)).state ≤ 2 := by rwa [tap_portCount]
  refine ends_of (exec_tapForceCred v hw) ?_
  rw [forceCred_resets hk hs']
  generalize bitsOf v.toNat 4 0 = p at hp ⊢
  refine ⟨?_, ?_, fun x => ?_, ?_, ?_, ?_, Only.counted (rs := [Reg.topLedgerBreak]) ?_⟩
  · simp [tap, setTap, creditReset]
  · simp [tap, setTap, creditReset]
  · simp
  · rw [fget_congr (rd_finish_below s hb), fget_ledgerBreak_kind _ _ (by decide)]
  · rw [fget_congr (rd_finish_below s hb), fget_ledgerBreak_object _ _ (by decide), Nat.mod_eq_of_lt (by omega)]
  · refine tapsBut_finish s fun q hq => ?_
    rw [tap_congr (ledgerBreak_taps _ _) q]
    exact (tap_setTap_ne _ _ hq).trans (tap_portCount s m q)
  · exact ((only_setTap _ _ _).trans (only_setVrd _ _)).trans (only_ledgerBreak _ _ _)

/-- Without its key, or on a port in TRAIN or UP, it is refused (R142). -/
theorem tapForceCred_refused (hw : mayWrite s m Reg.tapForceCred 4 = true)
    (h : bitsOf v.toNat 31 16 ≠ 0x6372 ∨ 2 < (tap s (bitsOf v.toNat 4 0)).state) : Ends (.tapForceCred m v) s fun t =>
      flag t Reg.topErr 0 = true ∧ Only [] (errRegs ++ portRegs m) s t := by
  refine ends_of (exec_tapForceCred v hw) ?_
  rw [forceCred_refused (by rwa [tap_portCount])]
  exact ⟨(flag_finish_err _ _ _).trans (flag_rsvd _ _ _), (only_rsvd _ _ _).counted⟩

/-- A forced tag reclaim with its key (R47, R48). -/
theorem vrdTagReclaim_returns (hw : mayWrite s m Reg.vrdTagReclaim 4 = true) (hk : v.toNat % 65536 = 0x7A61) :
    Ends (.vrdTagReclaim m v) s fun t =>
      t.vrd.orphans = [] ∧ (∀ x, x ∈ t.vrd.taken ↔ x ∈ s.vrd.taken ∧ x ∉ s.vrd.orphans) ∧
      t.vrd.flights = s.vrd.flights ∧ fget t Reg.topLedgerBreak 23 16 = 2 ∧
      Only [.vrd] (Reg.topLedgerBreak :: portRegs m) s t := by
  refine ends_of (exec_vrdTagReclaim v hw) ?_
  rw [tagReclaim_returns hk]
  refine ⟨by simp, fun x => by simp, by simp, ?_, Only.counted (rs := [Reg.topLedgerBreak]) ?_⟩
  · rw [fget_congr (rd_finish_below s (belowCounts_of_lt (by decide))), fget_ledgerBreak_kind _ _ (by decide)]
  · exact (only_setVrd _ _).trans (only_ledgerBreak _ _ _)

end Recovered

/-- Settles O5: a forced credit reset and a forced tag reclaim take the tags out of the pool's list of tags taken and write
the break record, and a refused reset is a refused write. -/
theorem recoveryWritesReturnTagsAndRebase : Obligations.RecoveryWritesReturnTagsAndRebase := by
  intro s m v
  refine ⟨fun hw => ⟨fun h => tapForceCred_resets hw h.1 h.2, tapForceCred_refused hw⟩, fun h => vrdTagReclaim_returns h.1 h.2⟩

end Sys2Proof.Machine
end

section
namespace Sys2Proof.Machine

/-! ### Tap ports: credits (R134–R139) -/

section TapParts
variable (s : State) (p : Nat)

theorem only_setRgl (x : RglSt) : Only [.rgl] [] s { s with rgl := x } :=
  only_units (fun u hu => by cases u <;> simp [UnitName.same] at *) rfl rfl

/-- What is sent is no part and no register. -/
theorem only_setOut (l : List Out) : Only [] [] s { s with out := l } :=
  only_units (fun u _ => by cases u <;> rfl) rfl rfl

theorem only_tcnt (i n : Nat) : Only [] [Reg.tapCnt p i] s (tcnt s p i n) := only_bump s _ n

theorem only_sendCtl (typ payload : Nat) : Only [] [] s (sendCtl s p typ payload) := only_setOut s _

theorem only_auditTag : Only [] ledgerRegs s (auditTag s) := by
  unfold auditTag
  split
  · exact Only.refl _ _ s
  · exact only_ledgerFault s _ _ _ _ _ _

theorem only_auditCredit : Only [] ledgerRegs s (auditCredit s p) := by
  unfold auditCredit
  simp only
  split
  · exact Only.refl _ _ s
  · exact only_ledgerFault s _ _ _ _ _ _

theorem only_passUrg : Only [.rgl] [] s (passUrg s p) := only_foldl _ (fun t _ => only_setRgl t _) _ s

theorem only_tookBlock (n : Nat) : Only [.taps] [] s (tookBlock s p n) := only_setTap s p _

@[simp] theorem auditTag_taps : (auditTag s).taps = s.taps := (only_auditTag s).1 .taps (by simp)
@[simp] theorem auditTag_vrd : (auditTag s).vrd = s.vrd := (only_auditTag s).1 .vrd (by simp)
@[simp] theorem auditCredit_taps : (auditCredit s p).taps = s.taps := (only_auditCredit s p).1 .taps (by simp)
@[simp] theorem auditCredit_vrd : (auditCredit s p).vrd = s.vrd := (only_auditCredit s p).1 .vrd (by simp)
@[simp] theorem passUrg_taps : (passUrg s p).taps = s.taps := (only_passUrg s p).1 .taps (by simp)
@[simp] theorem tcnt_taps (i n : Nat) : (tcnt s p i n).taps = s.taps := (only_tcnt s p i n).1 .taps (by simp)
@[simp] theorem tcnt_vrd (i n : Nat) : (tcnt s p i n).vrd = s.vrd := (only_tcnt s p i n).1 .vrd (by simp)
@[simp] theorem tcnt_out (i n : Nat) : (tcnt s p i n).out = s.out := wr_out _ _ _

@[simp] theorem tap_tcnt (i n q : Nat) : tap (tcnt s p i n) q = tap s q := tap_congr (tcnt_taps s p i n) q
@[simp] theorem tap_auditTag (q : Nat) : tap (auditTag s) q = tap s q := tap_congr (auditTag_taps s) q
@[simp] theorem tap_auditCredit (q : Nat) : tap (auditCredit s p) q = tap s q := tap_congr (auditCredit_taps s p) q
@[simp] theorem tap_passUrg (q : Nat) : tap (passUrg s p) q = tap s q := tap_congr (passUrg_taps s p) q
@[simp] theorem tap_sendCtl (typ payload q : Nat) : tap (sendCtl s p typ payload) q = tap s q := rfl

@[simp] theorem tap_tookBlock (n : Nat) : tap (tookBlock s p n) p =
    { tap s p with
      txAt := max (tap s p).txAt (50 * s.cycle) + 256 * n
      idle := false } := by simp [tookBlock]

theorem tap_tookBlock_ne {q : Nat} (h : q ≠ p) (n : Nat) : tap (tookBlock s p n) q = tap s q := tap_setTap_ne s _ h

variable {p} in
theorem belowCounts_tapCnt {i : Nat} (hp : p < 32) (hi : i < 16) : belowCounts (Reg.tapCnt p i) := by
  simp only [belowCounts, Reg.tapCnt, Reg.hstPcieCnt]
  omega

/-- A port's counter after its count, at the end of the command. -/
theorem rd_finish_tcnt (u : State) {i : Nat} (hp : p < 32) (hi : i < 16) (n : Nat) :
    rd (finish u (tcnt s p i n)) (Reg.tapCnt p i) = (rd s (Reg.tapCnt p i) + n) % 2 ^ 48 :=
  (rd_finish_below u (belowCounts_tapCnt hp hi)).trans (rd_bump_same s _ n)

end TapParts

section TagGrant
variable (s : State) (p t : Nat)

/-- The port takes tag t at the tail of its reserve and of its tags to grant (R136, R137). -/
def takesTag (x : TapPort) (t cycle : Nat) : TapPort :=
  { x with
    reserve := x.reserve ++ [t]
    toGrant := x.toGrant ++ [t]
    granted := x.granted + 1
    grantAt := cycle + 1 }

/-- The state as a grant makes it, before the audits. -/
def granting : State :=
  { setTap s p (takesTag (tap s p) t s.cycle) with vrd := { s.vrd with taken := t :: s.vrd.taken } }

variable {s p t} in
theorem tagGrant_granting (hg : grantOk s p = true) (ht : t < 1024) (hf : s.vrd.taken.contains t = false) :
    tagGrant s p t = auditCredit (auditTag (granting s p t)) p := by
  rw [tagGrant, if_pos ⟨hg, ht, hf⟩]
  rfl

theorem only_granting : Only [.taps, .vrd] [] s (granting s p t) := (only_setTap s p _).trans (only_setVrd _ _)

@[simp] theorem tap_granting : tap (granting s p t) p = takesTag (tap s p) t s.cycle := tap_setTap s p _

theorem tap_granting_ne {q : Nat} (h : q ≠ p) : tap (granting s p t) q = tap s q := tap_setTap_ne s _ h

end TagGrant

/-- A grant whose conditions hold, of a free tag (R137). -/
theorem tagGrant_moves {s : State} (ha : awake s = true) (p : Fin 32) (tag : Fin 1024) (hg : grantOk s p = true)
    (hf : s.vrd.taken.contains tag.val = false) : Ends (.tagGrant p tag) s fun t =>
      t.vrd.taken = tag.val :: s.vrd.taken ∧
      (tap t p).reserve = (tap s p).reserve ++ [tag.val] ∧ (tap t p).toGrant = (tap s p).toGrant ++ [tag.val] ∧
      (tap t p).granted = (tap s p).granted + 1 ∧ tapsBut p s t ∧ Only [.taps, .vrd] ledgerRegs s t := by
  refine ends_of (core_tagGrant p tag ha) ?_
  rw [tagGrant_granting hg tag.isLt hf]
  refine ⟨by simp [granting], by simp [takesTag], by simp [takesTag], by simp [takesTag], tapsBut_finish s fun q hq => ?_,
    Only.finished ?_⟩
  · simp [tap_granting_ne s p tag hq]
  · exact (((only_granting s p tag).trans (only_auditTag _)).trans (only_auditCredit _ p)).mono (by simp) (by simp)

section FcSend
variable (s : State) (p : Nat)

/-- The port after an FC block that grants the first four tags (R134, R138). -/
def fcSent (x : TapPort) (urg cycle : Nat) : TapPort :=
  { x with
    toGrant := x.toGrant.drop 4
    urgOut := urg
    fcSentAt := cycle }

/-- The state after the block is on its way, before it is counted. -/
def fcSending : State :=
  sendCtl (setTap (tookBlock s p 1) p (fcSent (tap (tookBlock s p 1) p) (urgOutOf s p) s.cycle)) p 0x33
    (fcPayload 0 ((tap s p).toGrant.take 4) (urgOutOf s p))

variable {s p} in
theorem fcSend_grants (hd : fcDue s p = true) (ht : turnFor s p = true) (hr : (tap s p).replay = none)
    (hs : (tap s p).resync = none) :
    fcSend s p = tcnt (fcSending s p) p 8 ((tap s p).toGrant.take 4).length := by
  simp [fcSend, hd, ht, hr, hs, fcSending, fcSent, tookBlock]

theorem only_fcSending : Only [.taps] [] s (fcSending s p) :=
  ((only_tookBlock s p 1).more (only_setTap _ p _) (by simp) (by simp)).more (only_sendCtl _ p _ _) (by simp) (by simp)

@[simp] theorem tap_fcSending : tap (fcSending s p) p = fcSent (tap (tookBlock s p 1) p) (urgOutOf s p) s.cycle := by
  simp [fcSending]

theorem tap_fcSending_ne {q : Nat} (h : q ≠ p) : tap (fcSending s p) q = tap s q :=
  (tap_setTap_ne _ _ h).trans (tap_tookBlock_ne s p h 1)

end FcSend

/-- An FC block that is due goes out with up to four tags (R134, R138). -/
theorem fcSend_sends {s : State} (ha : awake s = true) (p : Fin 32) (hd : fcDue s p = true) (ht : turnFor s p = true)
    (hr : (tap s p).replay = none) (hs : (tap s p).resync = none) : Ends (.fcSend p) s fun t =>
      (tap t p).toGrant = (tap s p).toGrant.drop 4 ∧ (tap t p).urgOut = urgOutOf s p ∧
      (tap t p).fcSentAt = s.cycle ∧ (tap t p).reserve = (tap s p).reserve ∧
      .tapCtl p 0x33 (withChk 0x33 (fcPayload 0 ((tap s p).toGrant.take 4) (urgOutOf s p))) ∈ t.out ∧
      rd t (Reg.tapCnt p 8) = (rd s (Reg.tapCnt p 8) + ((tap s p).toGrant.take 4).length) % 2 ^ 48 ∧
      tapsBut p s t ∧ Only [.taps] [Reg.tapCnt p 8] s t := by
  refine ends_of (core_fcSend p ha) ?_
  rw [fcSend_grants hd ht hr hs]
  refine ⟨by simp [fcSent], by simp [fcSent], by simp [fcSent], by simp [fcSent], ?_, ?_, tapsBut_finish s fun q hq => ?_,
    Only.finished ?_⟩
  · exact mem_out_finish s (by simp [fcSending, sendCtl])
  · rw [rd_finish_tcnt _ _ _ p.isLt (by decide), (only_fcSending s p).rd_eq (belowCounts_tapCnt p.isLt (by decide)) (by simp)]
  · simp [tap_fcSending_ne s p hq]
  · exact (only_fcSending s p).trans (only_tcnt _ _ _ _)

section Snapshot
variable (s : State) (p : Nat)

/-- The snapshot of a RESYNC touches the replay, what waits for it, and the grants it replaces (R139). -/
theorem snapshot_tap : ∃ r l g, snapshot s p = setTap s p { tap s p with
    resync := r
    replay := l
    toGrant := g } ∨ snapshot s p = s := by
  unfold snapshot
  simp only
  split
  · exact ⟨none, none, [], .inr rfl⟩
  · split
    · exact ⟨none, none, [], .inr rfl⟩
    · exact ⟨_, _, _, .inl rfl⟩

theorem only_snapshot : Only [.taps] [] s (snapshot s p) := by
  obtain ⟨r, l, g, e | e⟩ := snapshot_tap s p
  · rw [e]; exact only_setTap s p _
  · rw [e]; exact Only.refl _ _ s

theorem tap_snapshot : ∃ r l g, tap (snapshot s p) p = { tap s p with
    resync := r
    replay := l
    toGrant := g } := by
  obtain ⟨r, l, g, e | e⟩ := snapshot_tap s p
  · exact ⟨r, l, g, by rw [e, tap_setTap]⟩
  · exact ⟨_, _, _, by rw [e]⟩

theorem tap_snapshot_ne {q : Nat} (h : q ≠ p) : tap (snapshot s p) q = tap s q := by
  obtain ⟨r, l, g, e | e⟩ := snapshot_tap s p
  · rw [e, tap_setTap_ne _ _ h]
  · rw [e]

variable {s p}

theorem snapshot_idle (h : (tap s p).resync = none) : snapshot s p = s := by simp [snapshot, h]

theorem snapshot_waits {c : Nat} (h : (tap s p).resync = some c) (hd : ∃ d ∈ (tap s p).captured, d.at_ ≤ c) :
    snapshot s p = s := by
  simp only [snapshot, h, List.any_eq_true, decide_eq_true_eq, if_pos hd]

theorem snapshot_taken {c : Nat} (h : (tap s p).resync = some c) (hd : (tap s p).captured = []) :
    tap (snapshot s p) p = { tap s p with
      resync := none
      replay := some (tap s p).reserve
      toGrant := [] } := by
  simp [snapshot, h, hd]

end Snapshot

section FcReceive
variable (s : State) (p vcons urg req : Nat)

/-- The port after a partner's FC block, before a snapshot (R135, R139, R143). -/
def fcTaken (x : TapPort) (cycle : Nat) : TapPort :=
  { x with
    lastFc := cycle
    vcons := vcons
    urgIn := urg
    replay := if req = 1 then none else x.replay
    resync := if req = 1 then some cycle else x.resync }

/-- The state after the block is taken and counted. -/
def fcTaking : State := tcnt (setTap s p (fcTaken vcons urg req (tap s p) s.cycle)) p 7 1

variable {s p} in
theorem fcReceive_up (h : (tap s p).state = 4) :
    fcReceive s p vcons urg req = passUrg (snapshot (fcTaking s p vcons urg req) p) p := by
  simp [fcReceive, h, fcTaking, fcTaken]

@[simp] theorem tap_fcTaking : tap (fcTaking s p vcons urg req) p = fcTaken vcons urg req (tap s p) s.cycle := by
  simp [fcTaking]

theorem tap_fcTaking_ne {q : Nat} (h : q ≠ p) : tap (fcTaking s p vcons urg req) q = tap s q := by
  simp [fcTaking, tap_setTap_ne _ _ h]

theorem only_fcTaking : Only [.taps] [Reg.tapCnt p 7] s (fcTaking s p vcons urg req) :=
  (only_setTap s p _).trans (only_tcnt _ _ _ _)

theorem rd_fcTaking : rd (fcTaking s p vcons urg req) (Reg.tapCnt p 7) = (rd s (Reg.tapCnt p 7) + 1) % 2 ^ 48 :=
  (rd_bump_same _ _ _).trans (by rw [rd_congr (setTap_regs s p _)])

end FcReceive

/-- A partner's FC block in UP (R135, R139, R143). -/
theorem fcReceive_takes {s : State} (ha : awake s = true) (p : Fin 32) (vcons : BitVec 16) (urg req : BitVec 2)
    (hs : (tap s p).state = 4) : Ends (.fcReceive p vcons urg req) s fun t =>
      (tap t p).vcons = vcons.toNat ∧ (tap t p).urgIn = urg.toNat ∧ (tap t p).lastFc = s.cycle ∧
      (tap t p).reserve = (tap s p).reserve ∧
      (req = 1 → (tap s p).captured = [] → (tap t p).replay = some (tap s p).reserve ∧ (tap t p).toGrant = []) ∧
      (req = 1 → (∃ d ∈ (tap s p).captured, d.at_ ≤ s.cycle) →
        (tap t p).replay = none ∧ (tap t p).resync = some s.cycle) ∧
      (req ≠ 1 → (tap s p).resync = none → (tap t p).replay = (tap s p).replay) ∧
      rd t (Reg.tapCnt p 7) = (rd s (Reg.tapCnt p 7) + 1) % 2 ^ 48 ∧
      tapsBut p s t ∧ Only [.taps, .rgl] [Reg.tapCnt p 7] s t := by
  have hb : belowCounts (Reg.tapCnt p 7) := belowCounts_tapCnt p.isLt (by decide)
  have hq : req = 1 ↔ req.toNat = 1 := by rw [← BitVec.toNat_inj]; rfl
  refine ends_of (core_fcReceive p vcons urg req ha) ?_
  rw [fcReceive_up _ _ _ hs]
  set u := fcTaking s p vcons.toNat urg.toNat req.toNat with hu
  have hx : tap u p = fcTaken vcons.toNat urg.toNat req.toNat (tap s p) s.cycle := tap_fcTaking ..
  have ho : Only [.taps] [Reg.tapCnt p 7] s u := only_fcTaking ..
  obtain ⟨r, l, g, e⟩ := tap_snapshot u p
  simp only [tap_finish, tap_passUrg]
  refine ⟨by simp [e, hx, fcTaken], by simp [e, hx, fcTaken], by simp [e, hx, fcTaken], by simp [e, hx, fcTaken],
    fun h1 hc => ?_, fun h1 hd => ?_, fun h1 hr => ?_, ?_, tapsBut_finish s fun q hqp => ?_, Only.finished ?_⟩
  · rw [snapshot_taken (c := s.cycle) (by simp [hx, fcTaken, hq.1 h1]) (by simpa [hx, fcTaken] using hc)]
    simp [hx, fcTaken]
  · rw [snapshot_waits (c := s.cycle) (by simp [hx, fcTaken, hq.1 h1]) (by simpa [hx, fcTaken] using hd)]
    simp [hx, fcTaken, hq.1 h1]
  · rw [snapshot_idle (by simp [hx, fcTaken, hq.not.1 h1, hr])]
    simp [hx, fcTaken, hq.not.1 h1]
  · rw [rd_finish_below s hb, (only_passUrg _ p).rd_eq hb (by simp), (only_snapshot u p).rd_eq hb (by simp), hu, rd_fcTaking]
  · rw [tap_passUrg, tap_snapshot_ne _ _ hqp, hu, tap_fcTaking_ne _ _ _ _ _ hqp]
  · exact ((ho.trans (only_snapshot u p)).trans (only_passUrg _ p)).mono (by simp) (by simp)

/-- Settles O4: a grant, an FC block sent and a partner's FC block, each by what it makes of its port. -/
theorem creditsMoveOneTagAtATime : Obligations.CreditsMoveOneTagAtATime := by
  intro s p ha
  exact ⟨fun tag h => tagGrant_moves ha p tag h.1 h.2, fun ⟨hd, ht, hr, hs⟩ => fcSend_sends ha p hd ht hr hs,
    fun vcons urg req hs => fcReceive_takes ha p vcons urg req hs⟩

end Sys2Proof.Machine
end

section
namespace Sys2Proof.Machine

/-! ### Tap ports: descriptors from capture to acceptance (R15–R22, R148) -/

section TapRegs

/-- The registers of the tap ports, of the verdicts and above lie past those of the ledgers. -/
theorem not_mem_ledgerRegs {o : Nat} (h : 0x40000 ≤ o) : o ∉ ledgerRegs := by
  simp only [ledgerRegs, Reg.topLedgerStat, Reg.topLedgerTime, Reg.topLedgerSnap, List.mem_cons, List.not_mem_nil, or_false]
  omega

theorem not_mem_flipRegs {o : Nat} (h : o < 0x100000) : o ∉ flipRegs := by
  simp only [flipRegs, Reg.intFlipCtrl, Reg.intFlipAddr, Reg.intEvt, List.mem_cons, List.not_mem_nil, or_false]
  omega

theorem belowCounts_vrdEvtCnt {i : Nat} (hi : i < 8) : belowCounts (Reg.vrdEvtCnt i) := by
  simp only [belowCounts, Reg.vrdEvtCnt, Reg.hstPcieCnt]
  omega

theorem belowCounts_tapLastErr {p : Nat} (hp : p < 32) : belowCounts (Reg.tapLastErr p) := by
  simp only [belowCounts, Reg.tapLastErr, Reg.hstPcieCnt]
  omega

end TapRegs

section TapParts
variable (s : State) (p : Nat)

theorem only_vcnt (i : Nat) : Only [] [Reg.vrdEvtCnt i] s (vcnt s i) := only_bump s _ 1
theorem only_tevt (b : Nat) : Only [] [Reg.tapEvt p] s (tevt s p b) := only_setEvt s _ b
theorem only_lastErr (code : Nat) : Only [] [Reg.tapLastErr p] s (lastErr s p code) := only_fput s _ 31 24 code

@[simp] theorem tap_vcnt (i q : Nat) : tap (vcnt s i) q = tap s q := tap_congr (wr_taps _ _ _) q
@[simp] theorem tap_tevt (b q : Nat) : tap (tevt s p b) q = tap s q := tap_congr (setEvt_taps s _ b) q
@[simp] theorem tap_lastErr (code q : Nat) : tap (lastErr s p code) q = tap s q := tap_congr (fput_taps s _ _ _ _) q

@[simp] theorem vcnt_vrd (i : Nat) : (vcnt s i).vrd = s.vrd := wr_vrd _ _ _
@[simp] theorem vcnt_out (i : Nat) : (vcnt s i).out = s.out := wr_out _ _ _
@[simp] theorem tevt_vrd (b : Nat) : (tevt s p b).vrd = s.vrd := setEvt_vrd s _ b
@[simp] theorem lastErr_vrd (code : Nat) : (lastErr s p code).vrd = s.vrd := fput_vrd s _ _ _ _

theorem fget_lastErr (code : Nat) : fget (lastErr s p code) (Reg.tapLastErr p) 31 24 = code % 256 :=
  fget_fput_same _ _ _ _ _ (by decide) (by decide)

/-- A port follows a lowered depth in no field but that depth (R141). -/
theorem followDepth_tap : ∃ d, followDepth s p = setTap s p { tap s p with depthOver := d } ∨ followDepth s p = s := by
  unfold followDepth
  simp only
  split
  · exact ⟨none, .inr rfl⟩
  · split
    · exact ⟨_, .inl rfl⟩
    · exact ⟨_, .inl rfl⟩

theorem only_followDepth : Only [.taps] [] s (followDepth s p) := by
  obtain ⟨d, e | e⟩ := followDepth_tap s p
  · rw [e]; exact only_setTap s p _
  · rw [e]; exact Only.refl _ _ s

theorem tap_followDepth : ∃ d, tap (followDepth s p) p = { tap s p with depthOver := d } := by
  obtain ⟨d, e | e⟩ := followDepth_tap s p
  · exact ⟨d, by rw [e, tap_setTap]⟩
  · exact ⟨_, by rw [e]⟩

theorem tap_followDepth_ne {q : Nat} (h : q ≠ p) : tap (followDepth s p) q = tap s q := by
  obtain ⟨d, e | e⟩ := followDepth_tap s p
  · rw [e, tap_setTap_ne _ _ h]
  · rw [e]

@[simp] theorem followDepth_vrd : (followDepth s p).vrd = s.vrd := (only_followDepth s p).1 .vrd (by simp)
@[simp] theorem snapshot_vrd : (snapshot s p).vrd = s.vrd := (only_snapshot s p).1 .vrd (by simp)

end TapParts

/-- A whole descriptor with a tag free for it joins the captured ones (R15, R16). -/
theorem dscReceive_captures {s : State} (ha : awake s = true) (p : Fin 32) {bytes : List Byte} {ctl : Nat} (ago : Nat)
    (hs : (tap s p).state = 4) (hl : (tap s p).captured.length < (tap s p).reserve.length) (hk : kindOk bytes = true)
    (hc : ctl ≤ 4) : Ends (.dscReceive p bytes ctl ago) s fun t =>
      (tap t p).captured = (tap s p).captured ++ [⟨s.cycle, bytes, stampAgo s ago, false⟩] ∧
      (tap t p).reserve = (tap s p).reserve ∧ tapsBut p s t ∧ Only [.taps] [] s t := by
  have e : dscReceive s p bytes ctl ago = setTap s p { tap s p with
      captured := (tap s p).captured ++ [⟨s.cycle, bytes, stampAgo s ago, false⟩] } := by
    simp [dscReceive, hs, hk, Nat.not_lt.2 hc, Nat.not_le.2 hl]
  refine ends_of (core_dscReceive p bytes ctl ago ha) ?_
  rw [e]
  exact ⟨by simp, by simp, tapsBut_finish s fun q hq => tap_setTap_ne s _ hq, (only_setTap s p _).finished⟩

section Bind
variable (s : State) (p t : Nat) (l : List Nat) (c : Captured) (rest : List Captured)

/-- The flight of a descriptor accepted on tag t (R22, R169). -/
def boundFlight : Flight :=
  ⟨t, (s.vrd.epoch.nat t + 1) % 64, p, selectorPort s p, c.at_ + 12, 0, 0, false, 0, false, none, c.stamp, c.bytes, actLevel s,
    [], [], enabledNow s, [], 0, none, 0⟩

/-- The verdict unit with that flight in it. -/
def boundVrd : VrdSt :=
  { s.vrd with
    epoch := s.vrd.epoch.setNat t ((s.vrd.epoch.nat t + 1) % 64)
    flights := s.vrd.flights ++ [boundFlight s p t c]
    peak := max s.vrd.peak (s.vrd.flights.length + s.vrd.orphans.length + 1) }

/-- The port without its head tag and its head descriptor. -/
def boundTap (x : TapPort) : TapPort :=
  { x with
    captured := rest
    reserve := l
    received := x.received + 1 }

/-- The state in which the descriptor has its tag, before its count and the audits. -/
def binding : State :=
  rangeWritten { rcEvent (setTap s p (boundTap l rest (tap s p))) Reg.vrdTagStat s.vrd.peak 0 max with
    vrd := boundVrd s p t c } 0xB (2048 + t) 1

theorem bindDsc_eq : bindDsc s p t l c rest =
    auditCredit (auditTag (followDepth (tcnt (binding s p t l c rest) p 0 1) p)) p := rfl

theorem only_binding : Only [.taps, .vrd, .intg] flipRegs s (binding s p t l c rest) :=
  (((only_setTap s p _).trans (only_rcEvent _ _ _ _ _)).trans (only_setVrd _ (boundVrd s p t c))).trans
    (only_rangeWritten _ 0xB (2048 + t) 1)

@[simp] theorem binding_vrd : (binding s p t l c rest).vrd = boundVrd s p t c := by simp [binding]

theorem binding_taps : (binding s p t l c rest).taps = (setTap s p (boundTap l rest (tap s p))).taps := by simp [binding]

@[simp] theorem tap_binding : tap (binding s p t l c rest) p = boundTap l rest (tap s p) :=
  (tap_congr (binding_taps s p t l c rest) p).trans (tap_setTap s p _)

theorem tap_binding_ne {q : Nat} (h : q ≠ p) : tap (binding s p t l c rest) q = tap s q :=
  (tap_congr (binding_taps s p t l c rest) q).trans (tap_setTap_ne s _ h)

/-- What follows the count of an acceptance: the depth, the audits and a waiting snapshot. -/
def settled (u : State) : State := snapshot (auditCredit (auditTag (followDepth u p)) p) p

theorem only_settled (u : State) : Only [.taps] ledgerRegs u (settled p u) :=
  ((((only_followDepth u p).trans (only_auditTag _)).trans (only_auditCredit _ p)).trans (only_snapshot _ p)).mono (by simp)
    (by simp)

theorem tap_settled (u : State) : ∃ d r k g, tap (settled p u) p = { tap u p with
    depthOver := d
    resync := r
    replay := k
    toGrant := g } := by
  obtain ⟨d, hd⟩ := tap_followDepth u p
  obtain ⟨r, k, g, hs⟩ := tap_snapshot (auditCredit (auditTag (followDepth u p)) p) p
  exact ⟨d, r, k, g, by rw [settled, hs]; simp [hd]⟩

theorem tap_settled_ne (u : State) {q : Nat} (h : q ≠ p) : tap (settled p u) q = tap u q := by
  rw [settled, tap_snapshot_ne _ _ h]
  simp [tap_followDepth_ne u p h]

@[simp] theorem settled_vrd (u : State) : (settled p u).vrd = u.vrd := by simp [settled]

end Bind

/-- Twelve cycles after its capture a good descriptor is accepted on the head tag (R15, R18, R22). -/
theorem descriptorAccept_accepts {s : State} (ha : awake s = true) (p : Fin 32) {c : Captured} {rest : List Captured} {tag : Nat}
    {l : List Nat} (hc : (tap s p).captured = c :: rest) (hd : c.at_ + 12 ≤ s.cycle) (hb : c.bad = false)
    (hk : dscCrcOk c.bytes = true) (hr : (tap s p).reserve = tag :: l) : Ends (.descriptorAccept p) s fun t =>
      (tap t p).captured = rest ∧ (tap t p).reserve = l ∧ (tap t p).received = (tap s p).received + 1 ∧
      t.vrd.epoch.nat tag = (s.vrd.epoch.nat tag + 1) % 64 ∧
      (∃ f ∈ t.vrd.flights, f.tag = tag ∧ f.port = p ∧ f.acc = c.at_ + 12 ∧ f.stamp = c.stamp ∧ f.bytes = c.bytes ∧
        f.selected = false) ∧
      rd t (Reg.tapCnt p 0) = (rd s (Reg.tapCnt p 0) + 1) % 2 ^ 48 ∧
      tapsBut p s t ∧ Only [.taps, .vrd, .intg] (Reg.tapCnt p 0 :: flipRegs ++ ledgerRegs) s t := by
  have e : dscAccept s p = settled p (tcnt (binding s p tag l c rest) p 0 1) := by
    simp [dscAccept, hc, Nat.not_lt.2 hd, hr, hb, hk, bindDsc_eq, settled]
  have hlo : Reg.tapCnt p 0 < 0x100000 := by
    have := p.isLt
    simp only [Reg.tapCnt]
    omega
  have hbc : belowCounts (Reg.tapCnt p 0) := belowCounts_tapCnt p.isLt (by decide)
  have hu := only_binding s p tag l c rest
  refine ends_of (core_descriptorAccept p ha) ?_
  rw [e]
  obtain ⟨d, r, k, g, ht⟩ := tap_settled p (tcnt (binding s p tag l c rest) p 0 1)
  refine ⟨by simp [ht, boundTap], by simp [ht, boundTap], by simp [ht, boundTap], by simp [boundVrd, KMap.nat, KMap.setNat],
    ⟨boundFlight s p tag c, by simp [boundVrd], rfl, rfl, rfl, rfl, rfl, rfl⟩, ?_, tapsBut_finish s fun q hq => ?_,
    Only.finished ?_⟩
  · rw [rd_finish_below s hbc, (only_settled p _).rd_eq hbc (not_mem_ledgerRegs (by simp only [Reg.tapCnt]; omega)), tcnt,
      rd_bump_same, hu.rd_eq hbc (not_mem_flipRegs hlo)]
  · rw [tap_settled_ne p _ hq, tap_tcnt, tap_binding_ne _ _ _ _ _ _ hq]
  · refine ((hu.trans (only_tcnt _ _ _ _)).trans (only_settled p _)).mono (by simp) fun o ho => ?_
    rw [List.mem_append, List.mem_append, List.mem_singleton] at ho
    rw [List.cons_append, List.mem_cons, List.mem_append]
    exact or_assoc.1 (ho.imp_left Or.symm)

section Discard
variable (s : State) (p t : Nat) (l : List Nat) (rest : List Captured)

/-- The port after its head descriptor is discarded in UP: the head tag goes to the tail and is granted again (R19, R136). -/
def discardedTap (x : TapPort) : TapPort :=
  { x with
    captured := rest
    reserve := l ++ [t]
    toGrant := x.toGrant ++ [t]
    granted := x.granted + 1
    received := x.received + 1 }

/-- The state in which the discard is recorded and counted (R37, R148). -/
def discarding : State :=
  tevt (vcnt (tcnt (setTap (lastErr s p 6) p (discardedTap t l rest (tap s p))) p 1 1) 5) p 3

@[simp] theorem tap_discarding : tap (discarding s p t l rest) p = discardedTap t l rest (tap s p) := by simp [discarding]

theorem tap_discarding_ne {q : Nat} (h : q ≠ p) : tap (discarding s p t l rest) q = tap s q := by
  simp [discarding, tap_setTap_ne _ _ h]

@[simp] theorem discarding_vrd : (discarding s p t l rest).vrd = s.vrd := by simp [discarding]

theorem only_discarding : Only [.taps] [Reg.tapLastErr p, Reg.tapCnt p 1, Reg.vrdEvtCnt 5, Reg.tapEvt p] s
    (discarding s p t l rest) :=
  ((((only_lastErr s p 6).trans (only_setTap _ p _)).trans (only_tcnt _ p 1 1)).trans (only_vcnt _ 5)).trans (only_tevt _ p 3)

variable {p} in
theorem rd_discarding (hp : p < 32) :
    fget (discarding s p t l rest) (Reg.tapLastErr p) 31 24 = 6 ∧
      rd (discarding s p t l rest) (Reg.tapCnt p 1) = (rd s (Reg.tapCnt p 1) + 1) % 2 ^ 48 ∧
      rd (discarding s p t l rest) (Reg.vrdEvtCnt 5) = (rd s (Reg.vrdEvtCnt 5) + 1) % 2 ^ 48 := by
  have apart : Reg.tapLastErr p < Reg.tapCnt p 1 ∧ Reg.tapEvt p < Reg.tapLastErr p ∧ Reg.tapCnt p 1 < Reg.vrdEvtCnt 5 := by
    simp only [Reg.tapLastErr, Reg.tapEvt, Reg.tapCnt, Reg.vrdEvtCnt]
    omega
  obtain ⟨h1, h2, h3⟩ := apart
  have hx : ∀ x o, rd (setTap (lastErr s p 6) p x) o = rd (lastErr s p 6) o := fun x o => rd_congr (setTap_regs _ p x) o
  simp only [discarding, tevt, vcnt, tcnt]
  refine ⟨?_, ?_, ?_⟩
  · rw [fget, rd_setEvt_ne _ _ (by omega), rd_bump_ne _ _ (by omega), rd_bump_ne _ _ (by omega), hx, ← fget, fget_lastErr]
  · rw [rd_setEvt_ne _ _ (by omega), rd_bump_ne _ _ (by omega), rd_bump_same, hx, lastErr, rd_fput_ne _ _ _ _ (by omega)]
  · rw [rd_setEvt_ne _ _ (by omega), rd_bump_same, rd_bump_ne _ _ (by omega), hx, lastErr, rd_fput_ne _ _ _ _ (by omega)]

/-- What follows a discard: the verdict is queued, the audit and a waiting snapshot. -/
def discardEnds (u : State) (v : TxVerdict) : State :=
  snapshot (auditCredit (setTap u p { tap u p with txq := (tap u p).txq ++ [v] }) p) p

theorem discardDsc_up {c : Captured} (hb : c.bad = false) (hs : (tap s p).state = 4) (hr : (tap s p).reserve = t :: l) :
    ∃ v, snapshot (discardDsc s p c rest) p = discardEnds p (discarding s p t l rest) v := by
  have hu : (tap (discarding s p t l rest) p).state = 4 := by simpa [discardedTap] using hs
  have e : ∃ v, discardDsc s p c rest = auditCredit (toPort (discarding s p t l rest) p v) p :=
    ⟨_, by simp only [discardDsc, hb, hs, hr, discarding, discardedTap, Bool.false_eq_true, if_false, if_true]; rfl⟩
  obtain ⟨v, e⟩ := e
  exact ⟨v, by rw [e, discardEnds, toPort, if_pos hu]⟩

theorem only_discardEnds (u : State) (v : TxVerdict) : Only [.taps] ledgerRegs u (discardEnds p u v) :=
  (((only_setTap u p _).trans (only_auditCredit _ p)).trans (only_snapshot _ p)).mono (by simp) (by simp)

theorem tap_discardEnds (u : State) (v : TxVerdict) : ∃ r k g, tap (discardEnds p u v) p = { tap u p with
    txq := (tap u p).txq ++ [v]
    resync := r
    replay := k
    toGrant := g } := by
  obtain ⟨r, k, g, e⟩ := tap_snapshot (auditCredit (setTap u p { tap u p with txq := (tap u p).txq ++ [v] }) p) p
  exact ⟨r, k, g, by rw [discardEnds, e]; simp⟩

theorem tap_discardEnds_ne (u : State) (v : TxVerdict) {q : Nat} (h : q ≠ p) : tap (discardEnds p u v) q = tap u q := by
  rw [discardEnds, tap_snapshot_ne _ _ h, tap_auditCredit, tap_setTap_ne _ _ h]

@[simp] theorem discardEnds_vrd (u : State) (v : TxVerdict) : (discardEnds p u v).vrd = u.vrd := by simp [discardEnds]

end Discard

/-- Twelve cycles after its capture a descriptor with a bad CRC is discarded (R19, R136, R148). -/
theorem descriptorAccept_discards {s : State} (ha : awake s = true) (p : Fin 32) {c : Captured} {rest : List Captured} {tag : Nat}
    {l : List Nat} (hc : (tap s p).captured = c :: rest) (hd : c.at_ + 12 ≤ s.cycle) (hb : c.bad = false)
    (hk : dscCrcOk c.bytes = false) (hr : (tap s p).reserve = tag :: l) (hs : (tap s p).state = 4) :
    Ends (.descriptorAccept p) s fun t =>
      (tap t p).captured = rest ∧ (tap t p).reserve = l ++ [tag] ∧ t.vrd = s.vrd ∧
      fget t (Reg.tapLastErr p) 31 24 = 6 ∧
      rd t (Reg.tapCnt p 1) = (rd s (Reg.tapCnt p 1) + 1) % 2 ^ 48 ∧
      rd t (Reg.vrdEvtCnt 5) = (rd s (Reg.vrdEvtCnt 5) + 1) % 2 ^ 48 ∧
      tapsBut p s t ∧
      Only [.taps] ([Reg.tapLastErr p, Reg.tapCnt p 1, Reg.vrdEvtCnt 5, Reg.tapEvt p] ++ ledgerRegs) s t := by
  have h12 : ¬ s.cycle < c.at_ + 12 := Nat.not_lt.2 hd
  obtain ⟨v, hv⟩ := discardDsc_up s p tag l rest hb hs hr
  have e : dscAccept s p = discardEnds p (discarding s p tag l rest) v := by
    rw [← hv]
    simp [dscAccept, hc, h12, hr, hb, hk]
  obtain ⟨r, k, g, ht⟩ := tap_discardEnds p (discarding s p tag l rest) v
  obtain ⟨h1, h2, h3⟩ := rd_discarding s tag l rest p.isLt
  have after {o : Nat} (hb : belowCounts o) (h : 0x40000 ≤ o) :
      rd (finish s (discardEnds p (discarding s p tag l rest) v)) o = rd (discarding s p tag l rest) o :=
    (rd_finish_below s hb).trans ((only_discardEnds p _ v).rd_eq hb (not_mem_ledgerRegs h))
  refine ends_of (core_descriptorAccept p ha) ?_
  rw [e]
  refine ⟨by simp [ht, discardedTap], by simp [ht, discardedTap], by simp, ?_, ?_, ?_, tapsBut_finish s fun q hq => ?_,
    Only.finished ?_⟩
  · rw [fget_congr (after (belowCounts_tapLastErr p.isLt) (by simp only [Reg.tapLastErr]; omega)), h1]
  · rw [after (belowCounts_tapCnt p.isLt (by decide)) (by simp only [Reg.tapCnt]; omega), h2]
  · rw [after (belowCounts_vrdEvtCnt (by decide)) (by decide), h3]
  · rw [tap_discardEnds_ne p _ v hq, tap_discarding_ne _ _ _ _ _ hq]
  · exact ((only_discarding s p tag l rest).trans (only_discardEnds p _ v)).mono (by simp) (List.Subset.refl _)

/-! ### Tap ports: the blocks of a verdict (R32, R132, R147) -/

section Transmit
variable (s : State) (p : Nat) (v : TxVerdict)

/-- The state in which the start block of verdict v is on its way. -/
def startSent : State :=
  let s0 := tookBlock s p 1
  let s1 := setTap s0 p { tap s0 p with
    txq := (tap s p).txq.erase v
    txData := verdictData v.verdict }
  { s1 with out := s1.out ++ [.tapCtl p 0x87 (verdictStart v.verdict)] }

@[simp] theorem tap_startSent : tap (startSent s p v) p = { tap (tookBlock s p 1) p with
    txq := (tap s p).txq.erase v
    txData := verdictData v.verdict } := tap_setTap _ p _

theorem tap_startSent_ne {q : Nat} (h : q ≠ p) : tap (startSent s p v) q = tap s q :=
  (tap_setTap_ne _ _ h).trans (tap_tookBlock_ne s p h 1)

theorem only_startSent : Only [.taps] [] s (startSent s p v) :=
  ((only_tookBlock s p 1).more (only_setTap _ p _) (by simp) (by simp)).more (only_setOut _ _) (by simp) (by simp)

theorem mem_out_startSent : Out.tapCtl p 0x87 (verdictStart v.verdict) ∈ (startSent s p v).out := by simp [startSent]

variable {s p v} in
/-- A verdict that is due goes to the serialiser; one that had to wait for another is counted (R37). -/
theorem verdictTransmit_starts (hs : (tap s p).state = 4) (hb : atBoundary s p = true) (hm : markDue s p = false)
    (hd : (tap s p).txData = [])
    (hv : minByKey (fun (x : TxVerdict) => x.release * 2 ^ 64 + x.acc) (tap s p).txq = some v)
    (ht : max (v.release + 10) (tap s p).txFreeAt ≤ s.cycle) :
    verdictTransmit s p = vcnt (startSent s p v) 7 ∨ verdictTransmit s p = startSent s p v := by
  have e : verdictTransmit s p = if max (v.release + 10) (tap s p).txFreeAt > v.release + 10 then vcnt (startSent s p v) 7
      else startSent s p v := by
    simp only [verdictTransmit, hs, hb, hm, hd, hv, Nat.not_lt.2 ht]
    simp [startSent]
  rw [e]
  split
  · exact .inl rfl
  · exact .inr rfl

end Transmit

/-- The start block of the first released verdict (R32, R147). -/
theorem verdictTransmit_sends {s : State} (ha : awake s = true) (p : Fin 32) {v : TxVerdict} (hs : (tap s p).state = 4)
    (hb : atBoundary s p = true) (hm : markDue s p = false) (hd : (tap s p).txData = [])
    (hv : minByKey (fun (x : TxVerdict) => x.release * 2 ^ 64 + x.acc) (tap s p).txq = some v)
    (ht : max (v.release + 10) (tap s p).txFreeAt ≤ s.cycle) : Ends (.verdictTransmit p) s fun t =>
      (tap t p).txq = (tap s p).txq.erase v ∧ (tap t p).txData = verdictData v.verdict ∧
      .tapCtl p 0x87 (verdictStart v.verdict) ∈ t.out ∧ (tap t p).sent = (tap s p).sent ∧
      tapsBut p s t ∧ Only [.taps] [Reg.vrdEvtCnt 7] s t := by
  have sent := only_startSent s p v
  have key : ∀ u, (∀ q, tap u q = tap (startSent s p v) q) → Out.tapCtl p 0x87 (verdictStart v.verdict) ∈ u.out →
      Only [.taps] [Reg.vrdEvtCnt 7] s u →
      (tap (finish s u) p).txq = (tap s p).txq.erase v ∧ (tap (finish s u) p).txData = verdictData v.verdict ∧
      Out.tapCtl p 0x87 (verdictStart v.verdict) ∈ (finish s u).out ∧ (tap (finish s u) p).sent = (tap s p).sent ∧
      tapsBut p s (finish s u) ∧ Only [.taps] [Reg.vrdEvtCnt 7] s (finish s u) := by
    intro u hq ho hu
    refine ⟨by simp [hq], by simp [hq], mem_out_finish s ho, by simp [hq], tapsBut_finish s fun q hp => ?_, hu.finished⟩
    rw [hq, tap_startSent_ne s p v hp]
  refine ends_of (core_verdictTransmit p ha) ?_
  rcases verdictTransmit_starts hs hb hm hd hv ht with e | e
  · rw [e]
    exact key _ (tap_vcnt _ _) (by rw [vcnt_out]; exact mem_out_startSent s p v) (sent.trans (only_vcnt _ _))
  · rw [e]
    exact key _ (fun _ => rfl) (mem_out_startSent s p v) (sent.mono (by simp) (by simp))

section Fill
variable (s : State) (p d : Nat) (rest : List Nat)

theorem only_tookBack : Only [.taps] [] s (tookBack s p) := only_setTap s p _

/-- The state after a data block has gone, with the port as the block leaves it. -/
def dataSent (x : TapPort) : State := setTap { tookBack s p with out := s.out ++ [.tapData p d] } p x

theorem only_dataSent (x : TapPort) : Only [.taps] [] s (dataSent s p d x) :=
  ((only_tookBack s p).more (only_setOut _ _) (by simp) (by simp)).more (only_setTap _ p x) (by simp) (by simp)

theorem tap_dataSent_ne (x : TapPort) {q : Nat} (h : q ≠ p) : tap (dataSent s p d x) q = tap s q :=
  (tap_setTap_ne _ _ h).trans (tap_setTap_ne s _ h)

variable {s p d rest}

/-- A data block that is not the last of its verdict. -/
theorem fillBlock_data (hs : (tap s p).state = 4) (hd : (tap s p).txData = d :: rest) (ht : (tap s p).txAt < 50 * s.cycle)
    (hm : markDue s p = false) (hr : rest ≠ []) :
    fillBlock s p = dataSent s p d { tap (tookBack s p) p with txData := rest } := by
  rw [fillBlock, if_neg (by omega), hd]
  simp only [hm, hr, Bool.false_eq_true, if_false]
  rfl

/-- The last data block ends its verdict (R132, R147). -/
theorem fillBlock_last (hs : (tap s p).state = 4) (hd : (tap s p).txData = [d]) (ht : (tap s p).txAt < 50 * s.cycle)
    (hm : markDue s p = false) :
    fillBlock s p = tcnt (dataSent s p d { tap (tookBack s p) p with
      txData := []
      txFreeAt := cdiv ((tap s p).txAt + 256) 50
      sent := ((tap s p).sent + 1) % 65536 }) p 3 1 := by
  rw [fillBlock, if_neg (by omega), hd]
  simp only [hm, Bool.false_eq_true, if_false, if_true]
  rfl

end Fill

/-- The data blocks of a verdict follow at the next boundaries, and the last counts it (R132, R147). -/
theorem fillBlock_sends {s : State} (p : Fin 32) {d : Nat} {rest : List Nat} (hs : (tap s p).state = 4)
    (hd : (tap s p).txData = d :: rest) (ht : (tap s p).txAt < 50 * s.cycle) (hm : markDue s p = false) :
      (tap (fillBlock s p) p).txData = rest ∧ (fillBlock s p).out = s.out ++ [.tapData p d] ∧
      (rest = [] → (tap (fillBlock s p) p).sent = ((tap s p).sent + 1) % 65536 ∧
        rd (fillBlock s p) (Reg.tapCnt p 3) = (rd s (Reg.tapCnt p 3) + 1) % 2 ^ 48) ∧
      tapsBut p s (fillBlock s p) ∧ Only [.taps] [Reg.tapCnt p 3] s (fillBlock s p) := by
  by_cases hr : rest = []
  · subst hr
    rw [fillBlock_last hs hd ht hm]
    refine ⟨by simp [dataSent], by simp [dataSent], fun _ => ⟨by simp [dataSent], ?_⟩, fun q hq => ?_,
      (only_dataSent s p d _).trans (only_tcnt _ p 3 1)⟩
    · rw [tcnt, rd_bump_same, (only_dataSent s p d _).rd_eq (belowCounts_tapCnt p.isLt (by decide)) (by simp)]
    · rw [tap_tcnt, tap_dataSent_ne s p d _ hq]
  · rw [fillBlock_data hs hd ht hm hr]
    exact ⟨by simp [dataSent], by simp [dataSent], fun h => absurd h hr, fun q hq => tap_dataSent_ne s p d _ hq,
      (only_dataSent s p d _).mono (by simp) (by simp)⟩

/-- Settles O7: the capture, the acceptance or discard twelve cycles later, and the three blocks of a verdict. -/
theorem descriptorIsCapturedThenAcceptedTwelveCyclesLater :
    Obligations.DescriptorIsCapturedThenAcceptedTwelveCyclesLater := by
  intro s p ha
  exact ⟨fun bytes ctl ago ⟨hs, hl, hk, hc⟩ => dscReceive_captures ha p ago hs hl hk hc,
    fun c rest tag l ⟨hc, hd, hb, hk, hr⟩ => descriptorAccept_accepts ha p hc hd hb hk hr,
    fun c rest tag l ⟨hc, hd, hb, hk, hr, hs⟩ => descriptorAccept_discards ha p hc hd hb hk hr hs,
    fun v ⟨hs, hb, hm, hd, hv, ht⟩ => verdictTransmit_sends ha p hs hb hm hd hv ht,
    fun d rest ⟨hs, hd, ht, hm⟩ => fillBlock_sends p hs hd ht hm⟩

end Sys2Proof.Machine
end

section
namespace Sys2Proof.Machine

/-! ### TAP_CTRL: links that stop and start (R125, R140) -/

section LinkDown
variable (s : State) (p : Nat)

/-- The registers that a link's end writes: its last error, its counters, its events. -/
def linkRegs (p : Nat) : List Nat := [Reg.tapLastErr p, Reg.tapCnt p 2, Reg.tapEvt p, Reg.tapCnt p 4, Reg.tapCnt p 9]

theorem not_mem_linkRegs {r : Nat} (h : r % 256 = 0 ∨ r < 0x40000) : r ∉ linkRegs p := by
  simp only [linkRegs, Reg.tapLastErr, Reg.tapCnt, Reg.tapEvt, List.mem_cons, List.not_mem_nil, or_false]
  omega

theorem only_queueErr (code detail : Nat) : Only [.taps] [] s (queueErr s p code detail) := only_setTap s p _

theorem only_overrun : Only [.taps] (linkRegs p) s (overrun s p) :=
  ((((only_lastErr s p 7).trans (only_tcnt _ p 2 1)).trans (only_tevt _ p 4)).trans (only_queueErr _ p 7 _)).mono (by simp)
    (by simp [linkRegs])

theorem tap_overrun : ∃ e, tap (overrun s p) p = { tap s p with errs := e } := ⟨_, by simp [overrun, queueErr]; rfl⟩

theorem tap_overrun_ne {q : Nat} (h : q ≠ p) : tap (overrun s p) q = tap s q := by
  simp [overrun, queueErr, tap_setTap_ne _ _ h]

theorem only_endOpenDsc (o : Option Nat) : Only [.taps] (linkRegs p) s (endOpenDsc s p o) := by
  unfold endOpenDsc
  simp only
  split
  · exact Only.refl _ _ s
  · split
    · exact only_overrun s p
    · exact (only_setTap s p _).mono (by simp) (by simp)

/-- A descriptor that an error ends leaves the port's queues alone but for what is captured and reported (R19, R148). -/
theorem tap_endOpenDsc (o : Option Nat) : ∃ c e, tap (endOpenDsc s p o) p = { tap s p with
    captured := c
    errs := e } := by
  unfold endOpenDsc
  simp only
  split
  · exact ⟨_, _, rfl⟩
  · split
    · obtain ⟨e, h⟩ := tap_overrun s p
      exact ⟨_, e, h⟩
    · exact ⟨_, _, tap_setTap s p _⟩

theorem tap_endOpenDsc_ne (o : Option Nat) {q : Nat} (h : q ≠ p) : tap (endOpenDsc s p o) q = tap s q := by
  unfold endOpenDsc
  simp only
  split
  · rfl
  · split
    · exact tap_overrun_ne s p h
    · exact tap_setTap_ne s _ h

theorem only_dlyReset : Only [.mil] [] s (dlyReset s p) := only_mil s _

/-- The port as it leaves UP for `next` (R140). -/
def leftUp (next : Nat) (x : TapPort) : TapPort :=
  { x with
    state := next
    urgIn := 0
    toGrant := []
    replay := none
    txq := []
    txData := []
    txFreeAt := 0
    errs := []
    resync := none
    wasUp := true }

theorem leaveUp_eq (next : Nat) : ∃ n, leaveUp s p next = passUrg (dlyReset (tevt (tcnt (tcnt
    (setTap s p (leftUp next (tap s p))) p 4 n) p 9 1) p 1) p) p := ⟨_, rfl⟩

theorem only_leaveUp (next : Nat) : Only [.taps, .mil, .rgl] (linkRegs p) s (leaveUp s p next) := by
  obtain ⟨n, e⟩ := leaveUp_eq s p next
  rw [e]
  exact ((((((only_setTap s p _).trans (only_tcnt _ p 4 n)).trans (only_tcnt _ p 9 1)).trans (only_tevt _ p 1)).trans
    (only_dlyReset _ p)).trans (only_passUrg _ p)).mono (by simp) (by simp [linkRegs])

@[simp] theorem tap_dlyReset (q : Nat) : tap (dlyReset s p) q = tap s q := rfl

theorem tap_leaveUp (next : Nat) : tap (leaveUp s p next) p = leftUp next (tap s p) := by
  obtain ⟨n, e⟩ := leaveUp_eq s p next
  rw [e]
  simp

theorem tap_leaveUp_ne (next : Nat) {q : Nat} (h : q ≠ p) : tap (leaveUp s p next) q = tap s q := by
  obtain ⟨n, e⟩ := leaveUp_eq s p next
  rw [e]
  simp [tap_setTap_ne _ _ h]

theorem only_linkDown (next : Nat) (o : Option Nat) : Only [.taps, .mil, .rgl] (linkRegs p) s (linkDown s p next o) := by
  unfold linkDown
  split
  · exact ((only_endOpenDsc s p o).trans (only_leaveUp _ p next)).mono (by simp) (by simp)
  · exact (only_setTap s p _).mono (by simp) (by simp)

/-- A link goes down with its reserve kept (R140). -/
theorem tap_linkDown (next : Nat) (o : Option Nat) :
    (tap (linkDown s p next o) p).state = next ∧ (tap (linkDown s p next o) p).reserve = (tap s p).reserve := by
  unfold linkDown
  split
  · obtain ⟨c, e, h⟩ := tap_endOpenDsc s p o
    simp [tap_leaveUp, leftUp, h]
  · simp

theorem tap_linkDown_ne (next : Nat) (o : Option Nat) {q : Nat} (h : q ≠ p) : tap (linkDown s p next o) q = tap s q := by
  unfold linkDown
  split
  · rw [tap_leaveUp_ne _ _ _ h, tap_endOpenDsc_ne _ _ _ h]
  · exact tap_setTap_ne s _ h

end LinkDown

section EnRestart
variable (s : State) (p : Nat) (o : Option Nat)

theorem tapEnApply_cases : tapEnApply s p o = laneOn s p ∨ tapEnApply s p o = s ∨ tapEnApply s p o = linkDown s p 0 o := by
  unfold tapEnApply
  split <;> split <;> simp

theorem only_tapEnApply : Only [.taps, .mil, .rgl] (linkRegs p) s (tapEnApply s p o) := by
  rcases tapEnApply_cases s p o with e | e | e <;> rw [e]
  · exact (only_setTap s p _).mono (by simp) (by simp)
  · exact Only.refl _ _ s
  · exact only_linkDown s p 0 o

theorem tap_tapEnApply_ne {q : Nat} (h : q ≠ p) : tap (tapEnApply s p o) q = tap s q := by
  rcases tapEnApply_cases s p o with e | e | e <;> rw [e]
  · exact tap_setTap_ne s _ h
  · exact tap_linkDown_ne s p 0 o h

theorem reserve_tapEnApply : (tap (tapEnApply s p o) p).reserve = (tap s p).reserve := by
  rcases tapEnApply_cases s p o with e | e | e <;> rw [e]
  · simp [laneOn]
  · exact (tap_linkDown s p 0 o).2

variable {s p}

theorem state_tapEnApply_on (he : flag s (Reg.tapCtrl p) 0 = true) (hs : (tap s p).state = 0) (hi : s.img.applied = true)
    (hp : s.pwr.reqHigh = true) : (tap (tapEnApply s p o) p).state = 1 := by
  simp [tapEnApply, he, hs, hi, hp, laneOn]

theorem tapEnApply_stays (he : flag s (Reg.tapCtrl p) 0 = true) (hs : (tap s p).state ≠ 0) : tapEnApply s p o = s := by
  simp [tapEnApply, he, hs]

theorem state_tapEnApply_off (he : flag s (Reg.tapCtrl p) 0 = false) : (tap (tapEnApply s p o) p).state = 0 := by
  by_cases hs : (tap s p).state = 0
  · simp [tapEnApply, he, hs]
  · simp [tapEnApply, he, hs, (tap_linkDown s p 0 o).1]

variable (s p)

theorem tapRestart_cases : tapRestart s p o = linkDown s p 1 o ∨ tapRestart s p o = s := by
  unfold tapRestart
  split <;> simp

theorem only_tapRestart : Only [.taps, .mil, .rgl] (linkRegs p) s (tapRestart s p o) := by
  rcases tapRestart_cases s p o with e | e <;> rw [e]
  · exact only_linkDown s p 1 o
  · exact Only.refl _ _ s

theorem tap_tapRestart_ne {q : Nat} (h : q ≠ p) : tap (tapRestart s p o) q = tap s q := by
  rcases tapRestart_cases s p o with e | e <;> rw [e]
  exact tap_linkDown_ne s p 1 o h

theorem reserve_tapRestart : (tap (tapRestart s p o) p).reserve = (tap s p).reserve := by
  rcases tapRestart_cases s p o with e | e <;> rw [e]
  exact (tap_linkDown s p 1 o).2

variable {s p}

theorem state_tapRestart (h2 : 2 ≤ (tap s p).state) (h4 : (tap s p).state ≤ 4) : (tap (tapRestart s p o) p).state = 1 := by
  rw [tapRestart, if_pos ⟨h2, h4⟩]
  exact (tap_linkDown s p 1 o).1

theorem tapRestart_down (h : (tap s p).state < 2) : tapRestart s p o = s := by
  rw [tapRestart, if_neg (by omega)]

end EnRestart

/-! ### TAP_CTRL: its fields (R8, R10, R20) -/

section Commit

/-- What a write leaves of TAP_CTRL before IMG_LOCK, with a DEPTH that is allowed. -/
def tapCtrlWritten (old v : Nat) : Nat :=
  putBits (putBits (putBits (putBits old 31 31 (bitsOf v 31 31)) 23 16 (bitsOf v 23 16)) 8 8 (bitsOf v 8 8)) 0 0 (bitsOf v 0 0)

theorem regRow_tapCtrl : ∀ p : Fin 32, regRow (Reg.tapCtrl p) =
    some ⟨"TAP_CTRL", 0x40000, 32, 256, 1, 256, false,
      [fld 31 31 .wo 0, fldR 23 16 .rw 0 [(0, 0x40)] 1, fld 8 8 .rwl 0, fld 0 0 .rwl 0]⟩ := by decide +kernel

theorem commitFields_tapCtrl {s : State} (p : Fin 32) (m : Nat) {v : Nat} (hl : locked s = false) (hd : bitsOf v 23 16 ≤ 64) :
    commitFields s m (Reg.tapCtrl p) v = wr s (Reg.tapCtrl p) (tapCtrlWritten (rd s (Reg.tapCtrl p)) v) := by
  have depth (keep old : Nat) : (fldR 23 16 .rw 0 [(0, 0x40)] 1).write false keep old v =
      (putBits old 23 16 (bitsOf v 23 16), false, false) := write_rw rfl _ _ _ (by simp [Field.allows, fldR, hd, Nat.mod_one])
  have plain (i keep old : Nat) (a : Access) (h : a = .wo ∨ a = .rwl) :
      (fld i i a 0).write false keep old v = (putBits old i i (bitsOf v i i), false, false) := by
    rcases h with rfl | rfl <;> simp [Field.write, fld, Field.allows, Nat.mod_one]
  rw [commitFields_row (regRow_tapCtrl p), hl]
  simp [fieldsWrite, depth, plain, tapCtrlWritten]

theorem fget_tapCtrlWritten (s : State) (o v : Nat) :
    fget (wr s o (tapCtrlWritten (rd s o) v)) o 23 16 = bitsOf v 23 16 := by
  have hx : bitsOf v 23 16 < 2 ^ 8 := bitsOf_lt _ _ _
  rw [fget, rd_wr_same, bitsOf_mod _ _ (by decide), tapCtrlWritten, bitsOf_putBits_apart _ _ _ _ _ _ (by decide) (by decide),
    bitsOf_putBits_apart _ _ _ _ _ _ (by decide) (by decide), bitsOf_putBits_same _ _ _ _ (by decide)]
  exact Nat.mod_eq_of_lt hx

theorem flag_tapCtrlWritten (s : State) (o v : Nat) : flag (wr s o (tapCtrlWritten (rd s o) v)) o 0 = bitOf v 0 := by
  rw [flag, rd_wr_same, bitOf_mod _ (by decide), tapCtrlWritten, bitOf_putBits _ _ _ _ _ (by decide)]
  simp [bitsOf_single]

end Commit

section Depths
variable {s t : State} {p : Nat}

theorem foldl_add_congr {f g : Nat → Nat} (l : List Nat) (h : ∀ q ∈ l, f q = g q) :
    (l.map f).foldl (· + ·) 0 = (l.map g).foldl (· + ·) 0 := by rw [List.map_congr_left h]

/-- The sum of the depths depends on the reserves and on the other ports' TAP_CTRL (R20). -/
theorem depthSum_congr (ht : t.taps = s.taps) (hr : ∀ q, q < 32 → q ≠ p → rd t (Reg.tapCtrl q) = rd s (Reg.tapCtrl q)) (d : Nat)
    (en : Bool) : depthSum t p d en = depthSum s p d en := by
  unfold depthSum
  refine foldl_add_congr _ fun q hq => ?_
  have hq : q < 32 := List.mem_range.1 hq
  by_cases h : q = p
  · simp [h, tap_congr ht p]
  · simp [h, tap_congr ht q, flag_congr (hr q hq h), fget_congr (hr q hq h)]

theorem tapCtrl_ne {q : Nat} (h : q ≠ p) : Reg.tapCtrl q ≠ Reg.tapCtrl p := by
  simp only [Reg.tapCtrl]
  omega

theorem belowCounts_tapCtrl {q : Nat} (h : q < 32) : belowCounts (Reg.tapCtrl q) := by
  simp only [belowCounts, Reg.tapCtrl, Reg.hstPcieCnt]
  omega

theorem depthSum_wr (v d : Nat) (en : Bool) : depthSum (wr s (Reg.tapCtrl p) v) p d en = depthSum s p d en :=
  depthSum_congr (wr_taps _ _ _) (fun _ _ h => rd_wr_ne s v (tapCtrl_ne h)) d en

theorem depthSum_portCount (m : Requester) (d : Nat) (en : Bool) : depthSum (portCount s m) p d en = depthSum s p d en :=
  depthSum_congr (portCount_taps s m) (fun _ hq _ => rd_portCount s m (belowCounts_tapCtrl hq)) d en

end Depths

section Ends
variable (s u : State) (p v : Nat) (o : Option Nat)

theorem only_passQuad : Only [.rgl] [] s (passQuad s p) := only_foldl _ (fun t q => only_passUrg t q) _ s

@[simp] theorem tap_passQuad (q : Nat) : tap (passQuad s p) q = tap s q :=
  tap_congr ((only_passQuad s p).1 .taps (by simp)) q

/-- The depth that the port follows once DEPTH has changed from `d0` (R141). -/
def depthTaken (d0 : Nat) : State :=
  if fget u (Reg.tapCtrl p) 23 16 ≠ d0 then setTap u p { tap u p with
    depthOver := if fget u (Reg.tapCtrl p) 23 16 < (tap u p).reserve.length then some (tap u p).reserve.length else none } else u

/-- EN as it acts once the fields stand in `u`; RESTART reads back 0. -/
def enTaken (d0 : Nat) : State := tapEnApply (fput (depthTaken u p d0) (Reg.tapCtrl p) 31 31 0) p o

/-- A write of TAP_CTRL of a device `s` once its fields stand in `u`. -/
def ctrlEnds : State :=
  let s5 := if bitOf v 31 then tapRestart (enTaken u p o (fget s (Reg.tapCtrl p) 23 16)) p o
    else enTaken u p o (fget s (Reg.tapCtrl p) 23 16)
  auditCredit (if flag s5 (Reg.tapCtrl p) 8 = flag s (Reg.tapCtrl p) 8 then s5 else passQuad s5 p) p

/-- The fields' values as a write within the sum leaves them, and otherwise (R20, R141). -/
def depthRefused (m : Nat) : State :=
  let off := Reg.tapCtrl p
  let r := rsvd (fput u off 23 16 (fget s off 23 16)) m off
  if 512 < depthSum u p (fget s off 23 16) (flag u off 0) ∧ flag u off 0 ≠ flag s off 0 then fput r off 0 0 (b2n (flag s off 0))
  else r

theorem tapCtrlWrite_eq (m : Nat) : tapCtrlWrite s m p v o =
    (let u := commitFields s m (Reg.tapCtrl p) v
     let off := Reg.tapCtrl p
     ctrlEnds s (if 512 < depthSum u p (fget u off 23 16) (flag u off 0) ∧
        (fget u off 23 16 ≠ fget s off 23 16 ∨ flag u off 0 ≠ flag s off 0) then depthRefused s u p m else u) p v o) := rfl

theorem only_depthTaken (d0 : Nat) : Only [.taps] [] u (depthTaken u p d0) := by
  unfold depthTaken
  split
  · exact only_setTap u p _
  · exact Only.refl _ _ u

theorem tap_depthTaken (d0 : Nat) : ∃ d, tap (depthTaken u p d0) p = { tap u p with depthOver := d } := by
  unfold depthTaken
  split
  · exact ⟨_, tap_setTap u p _⟩
  · exact ⟨_, rfl⟩

theorem tap_depthTaken_ne (d0 : Nat) {q : Nat} (h : q ≠ p) : tap (depthTaken u p d0) q = tap u q := by
  unfold depthTaken
  split
  · exact tap_setTap_ne u _ h
  · rfl

/-- The state on which EN acts: it differs from `u` in the port's depth and in the RESTART bit. -/
def enSees (d0 : Nat) : State := fput (depthTaken u p d0) (Reg.tapCtrl p) 31 31 0

@[simp] theorem tap_enSees (d0 q : Nat) : tap (enSees u p d0) q = tap (depthTaken u p d0) q := tap_congr (fput_taps _ _ _ _ _) q

theorem only_enSees (d0 : Nat) : Only [.taps] [Reg.tapCtrl p] u (enSees u p d0) :=
  (only_depthTaken u p d0).trans (only_fput _ _ 31 31 0)

/-- RESTART and EN leave the fields of TAP_CTRL below bit 31. -/
theorem rd_enSees (d0 : Nat) : rd (enSees u p d0) (Reg.tapCtrl p) = putBits (rd u (Reg.tapCtrl p)) 31 31 0 := by
  have e : rd (depthTaken u p d0) (Reg.tapCtrl p) = rd u (Reg.tapCtrl p) := by
    unfold depthTaken
    split
    · exact rd_congr (setTap_regs u p _) _
    · rfl
  rw [enSees, rd_fput _ _ _ _ _ (by decide) (by decide), e]

theorem fget_enSees (d0 : Nat) : fget (enSees u p d0) (Reg.tapCtrl p) 23 16 = fget u (Reg.tapCtrl p) 23 16 := by
  rw [fget, rd_enSees, bitsOf_putBits_apart _ _ _ _ _ _ (by decide) (by decide), fget]

theorem flag_enSees (d0 : Nat) : flag (enSees u p d0) (Reg.tapCtrl p) 0 = flag u (Reg.tapCtrl p) 0 := by
  rw [flag, rd_enSees, bitOf_putBits _ _ _ _ _ (by decide), if_neg (by omega), flag]

/-- What follows the state that EN sees: links that start or end, urgencies and an audit. -/
theorem only_ctrlEnds : Only [.taps, .mil, .rgl] (linkRegs p ++ ledgerRegs) (enSees u p (fget s (Reg.tapCtrl p) 23 16))
    (ctrlEnds s u p v o) := by
  have h1 := only_tapEnApply (enSees u p (fget s (Reg.tapCtrl p) 23 16)) p o
  have h2 := h1.more (only_tapRestart _ p o) (List.Subset.refl _) (List.Subset.refl _)
  have h3 : ∀ x, Only [.taps, .mil, .rgl] (linkRegs p) (enSees u p (fget s (Reg.tapCtrl p) 23 16)) x → ∀ b : Bool,
      Only [.taps, .mil, .rgl] (linkRegs p ++ ledgerRegs) (enSees u p (fget s (Reg.tapCtrl p) 23 16))
        (auditCredit (if flag x (Reg.tapCtrl p) 8 = b then x else passQuad x p) p) := by
    intro x hx b
    split
    · exact (hx.trans (only_auditCredit _ p)).mono (by simp) (by simp)
    · exact ((hx.more (only_passQuad x p) (by simp) (by simp)).trans (only_auditCredit _ p)).mono (by simp) (by simp)
  unfold ctrlEnds
  simp only
  split
  · exact h3 _ h2 _
  · exact h3 _ h1 _

theorem tap_ctrlEnds (q : Nat) : tap (ctrlEnds s u p v o) q =
    tap (if bitOf v 31 then tapRestart (enTaken u p o (fget s (Reg.tapCtrl p) 23 16)) p o
      else enTaken u p o (fget s (Reg.tapCtrl p) 23 16)) q := by
  have h : ∀ (x : State) (b : Bool),
      tap (if flag x (Reg.tapCtrl p) 8 = b then x else passQuad x p) q = tap x q := by
    intro x b
    split
    · rfl
    · exact tap_passQuad x p q
  exact (tap_auditCredit _ p q).trans (h _ _)

/-- Neither the other ports nor the port's reserve are touched. -/
theorem tap_ctrlEnds_ne {q : Nat} (h : q ≠ p) : tap (ctrlEnds s u p v o) q = tap u q := by
  have he : tap (enTaken u p o (fget s (Reg.tapCtrl p) 23 16)) q = tap u q := by
    rw [enTaken, ← enSees, tap_tapEnApply_ne _ _ _ h, tap_enSees, tap_depthTaken_ne _ _ _ h]
  rw [tap_ctrlEnds]
  split
  · rw [tap_tapRestart_ne _ _ _ h, he]
  · exact he

theorem reserve_ctrlEnds : (tap (ctrlEnds s u p v o) p).reserve = (tap u p).reserve := by
  have he : (tap (enTaken u p o (fget s (Reg.tapCtrl p) 23 16)) p).reserve = (tap u p).reserve := by
    obtain ⟨d, h⟩ := tap_depthTaken u p (fget s (Reg.tapCtrl p) 23 16)
    rw [enTaken, ← enSees, reserve_tapEnApply, tap_enSees, h]
  rw [tap_ctrlEnds]
  split
  · rw [reserve_tapRestart, he]
  · exact he

theorem state_enSees (d0 : Nat) : (tap (enSees u p d0) p).state = (tap u p).state := by
  obtain ⟨d, h⟩ := tap_depthTaken u p d0
  rw [tap_enSees, h]

variable {s u p v}

/-- EN 1 takes a port from OFF to SEEK (R125). -/
theorem state_ctrlEnds_on (hv : bitOf v 31 = false) (he : flag u (Reg.tapCtrl p) 0 = true) (hs : (tap u p).state = 0)
    (hi : u.img.applied = true) (hp : u.pwr.reqHigh = true) : (tap (ctrlEnds s u p v o) p).state = 1 := by
  have h := only_enSees u p (fget s (Reg.tapCtrl p) 23 16)
  rw [tap_ctrlEnds, hv, if_neg (by decide), enTaken, ← enSees]
  refine state_tapEnApply_on _ ((flag_enSees _ _ _).trans he) ((state_enSees _ _ _).trans hs) ?_ ?_
  · rw [h.1 .img (by simp), hi]
  · rw [h.1 .pwr (by simp), hp]

/-- EN 0 takes a port to OFF (R125). -/
theorem state_ctrlEnds_off (he : flag u (Reg.tapCtrl p) 0 = false) : (tap (ctrlEnds s u p v o) p).state = 0 := by
  have h : (tap (enTaken u p o (fget s (Reg.tapCtrl p) 23 16)) p).state = 0 := by
    rw [enTaken, ← enSees]
    exact state_tapEnApply_off _ ((flag_enSees _ _ _).trans he)
  rw [tap_ctrlEnds]
  split
  · rwa [tapRestart_down _ (by omega)]
  · exact h

/-- RESTART takes a port that keeps EN from LOCK, TRAIN or UP to SEEK (R125, R152). -/
theorem state_ctrlEnds_restart (hv : bitOf v 31 = true) (he : flag u (Reg.tapCtrl p) 0 = true) (h2 : 2 ≤ (tap u p).state)
    (h4 : (tap u p).state ≤ 4) : (tap (ctrlEnds s u p v o) p).state = 1 := by
  have hs := state_enSees u p (fget s (Reg.tapCtrl p) 23 16)
  rw [tap_ctrlEnds, if_pos hv, enTaken, ← enSees, tapEnApply_stays _ ((flag_enSees _ _ _).trans he) (by omega)]
  exact state_tapRestart _ (by omega) (by omega)

variable (s u p v)

variable {p} in
/-- TAP_CTRL and TOP_ERR read at the command's end as the fields' write left them, RESTART apart. -/
theorem rd_finish_ctrlEnds (w : State) {r : Nat} (hb : belowCounts r) (hn : r ∉ linkRegs p ++ ledgerRegs) :
    rd (finish w (ctrlEnds s u p v o)) r = rd (enSees u p (fget s (Reg.tapCtrl p) 23 16)) r :=
  (rd_finish_below w hb).trans ((only_ctrlEnds s u p v o).rd_eq hb hn)

theorem tapCtrl_not_mem : Reg.tapCtrl p ∉ linkRegs p ++ ledgerRegs := by
  rw [List.mem_append, not_or]
  exact ⟨not_mem_linkRegs p (.inl (by simp only [Reg.tapCtrl]; omega)),
    not_mem_ledgerRegs (by simp only [Reg.tapCtrl]; omega)⟩

theorem topErr_not_mem : Reg.topErr ∉ linkRegs p ++ ledgerRegs := by
  rw [List.mem_append, not_or]
  exact ⟨not_mem_linkRegs p (.inr (by decide)), by decide⟩

end Ends

section Refused
variable (s u : State) (p m : Nat)

@[simp] theorem depthRefused_taps : (depthRefused s u p m).taps = u.taps := by
  unfold depthRefused
  simp only
  split <;> simp

/-- A write that would raise the sum above 512 leaves the depth and latches RSVD_CODE (R20, R141). -/
theorem depthRefused_reads :
    fget (depthRefused s u p m) (Reg.tapCtrl p) 23 16 = fget s (Reg.tapCtrl p) 23 16 ∧
      flag (depthRefused s u p m) Reg.topErr 0 = true := by
  have hne : Reg.tapCtrl p ∉ errRegs := by
    simp only [errRegs, Reg.tapCtrl, Reg.topErr, Reg.topErrAddr, List.mem_cons, List.not_mem_nil, or_false]
    omega
  have hd : fget s (Reg.tapCtrl p) 23 16 < 2 ^ 8 := bitsOf_lt _ _ _
  have hr : fget (rsvd (fput u (Reg.tapCtrl p) 23 16 (fget s (Reg.tapCtrl p) 23 16)) m (Reg.tapCtrl p)) (Reg.tapCtrl p) 23 16 =
      fget s (Reg.tapCtrl p) 23 16 := by
    rw [fget_congr (rd_rsvd_ne _ _ hne), fget_fput_same _ _ _ _ _ (by decide) (by decide)]
    exact Nat.mod_eq_of_lt hd
  unfold depthRefused
  simp only
  split
  · rw [fget_fput_apart _ _ _ _ _ _ _ (by decide) (by decide) (by decide), flag_congr (rd_fput_ne _ _ _ _ ?_)]
    · exact ⟨hr, flag_rsvd _ _ _⟩
    · simp only [Reg.topErr, Reg.tapCtrl]
      omega
  · exact ⟨hr, flag_rsvd _ _ _⟩

end Refused

/-! ### TAP_CTRL: the commands -/

section Commands
variable {s : State} {m : Requester} {p : Fin 32} {v : BitVec 32}

/-- The device with TAP_CTRL's fields as written. -/
def ctrlCommitted (s : State) (m : Requester) (p v : Nat) : State :=
  wr (portCount s m) (Reg.tapCtrl p) (tapCtrlWritten (rd (portCount s m) (Reg.tapCtrl p)) v)

@[simp] theorem tap_ctrlCommitted (s : State) (m : Requester) (p v q : Nat) : tap (ctrlCommitted s m p v) q = tap s q :=
  tap_congr ((wr_taps _ _ _).trans (portCount_taps s m)) q

theorem fget_ctrlCommitted (s : State) (m : Requester) (p v : Nat) :
    fget (ctrlCommitted s m p v) (Reg.tapCtrl p) 23 16 = bitsOf v 23 16 := fget_tapCtrlWritten _ _ v

theorem flag_ctrlCommitted (s : State) (m : Requester) (p v : Nat) :
    flag (ctrlCommitted s m p v) (Reg.tapCtrl p) 0 = bitOf v 0 := flag_tapCtrlWritten _ _ v

/-- A write of TAP_CTRL whose depths stay within 512 in sum (R20). -/
theorem tapCtrlWrite_within (o : Option Nat) (hl : locked s = false) (hd : bitsOf v.toNat 23 16 ≤ 64)
    (h : depthSum s p (bitsOf v.toNat 23 16) (bitOf v.toNat 0) ≤ 512) :
    tapCtrlWrite (portCount s m) m.code p v.toNat o = ctrlEnds (portCount s m) (ctrlCommitted s m p v.toNat) p v.toNat o := by
  have hsum : depthSum (ctrlCommitted s m p v.toNat) p (bitsOf v.toNat 23 16) (bitOf v.toNat 0) ≤ 512 := by
    rwa [ctrlCommitted, depthSum_wr, depthSum_portCount]
  rw [tapCtrlWrite_eq, commitFields_tapCtrl p _ ((locked_portCount s m).trans hl) hd, ← ctrlCommitted]
  simp only [fget_ctrlCommitted, flag_ctrlCommitted]
  rw [if_neg (by omega)]

/-- A write of TAP_CTRL that changes a depth and would raise the sum above 512 (R20). -/
theorem tapCtrlWrite_beyond (o : Option Nat) (hl : locked s = false) (hd : bitsOf v.toNat 23 16 ≤ 64)
    (h : 512 < depthSum s p (bitsOf v.toNat 23 16) (bitOf v.toNat 0))
    (hc : bitsOf v.toNat 23 16 ≠ fget s (Reg.tapCtrl p) 23 16) :
    tapCtrlWrite (portCount s m) m.code p v.toNat o =
      ctrlEnds (portCount s m) (depthRefused (portCount s m) (ctrlCommitted s m p v.toNat) p m.code) p v.toNat o := by
  have hsum : 512 < depthSum (ctrlCommitted s m p v.toNat) p (bitsOf v.toNat 23 16) (bitOf v.toNat 0) := by
    rwa [ctrlCommitted, depthSum_wr, depthSum_portCount]
  have hc' : bitsOf v.toNat 23 16 ≠ fget (portCount s m) (Reg.tapCtrl p) 23 16 := by
    rwa [fget_congr (rd_portCount s m (belowCounts_tapCtrl p.isLt))]
  rw [tapCtrlWrite_eq, commitFields_tapCtrl p _ ((locked_portCount s m).trans hl) hd, ← ctrlCommitted]
  simp only [fget_ctrlCommitted, flag_ctrlCommitted]
  rw [if_pos ⟨hsum, .inl hc'⟩]

theorem regCommand_reaches {off : Nat} {act : State → State} (hw : mayWrite s m off 4 = true) :
    regCommand s m off v act = act (portCount s m) := if_pos hw

/-- The ports and the port's reserve after a write of TAP_CTRL, whatever its fields became. -/
theorem taps_finish_ctrlEnds (u : State) (o : Option Nat) (hu : ∀ q, tap u q = tap s q) :
    (tap (finish s (ctrlEnds (portCount s m) u p v.toNat o)) p).reserve = (tap s p).reserve ∧
      tapsBut p s (finish s (ctrlEnds (portCount s m) u p v.toNat o)) := by
  refine ⟨?_, tapsBut_finish s fun q hq => ?_⟩
  · rw [tap_finish, reserve_ctrlEnds, hu]
  · rw [tap_ctrlEnds_ne _ _ _ _ _ hq, hu]

theorem flag_finish_ctrlEnds (o : Option Nat) :
    flag (finish s (ctrlEnds (portCount s m) (ctrlCommitted s m p v.toNat) p v.toNat o)) (Reg.tapCtrl p) 0 = bitOf v.toNat 0 := by
  rw [flag_congr (rd_finish_ctrlEnds _ _ _ _ s (belowCounts_tapCtrl p.isLt) (tapCtrl_not_mem p)), flag_enSees,
    flag_ctrlCommitted]

theorem img_ctrlCommitted (s : State) (m : Requester) (p v : Nat) : (ctrlCommitted s m p v).img = s.img := by
  simp [ctrlCommitted]

theorem pwr_ctrlCommitted (s : State) (m : Requester) (p v : Nat) : (ctrlCommitted s m p v).pwr = s.pwr :=
  (wr_pwr _ _ _).trans (portCount_same s m _ (wr_pwr s))

/-- EN 1 on a port in OFF (R125). -/
theorem tapEnable_on (o : Option Nat) (hw : mayWrite s m (Reg.tapCtrl p) 4 = true) (hl : locked s = false)
    (hd : bitsOf v.toNat 23 16 ≤ 64) (he : bitOf v.toNat 0 = true) (hr : bitOf v.toNat 31 = false) (hs : (tap s p).state = 0)
    (hi : s.img.applied = true) (hp : s.pwr.reqHigh = true) (hsum : depthSum s p (bitsOf v.toNat 23 16) true ≤ 512) :
    Ends (.tapEnable m p v o) s fun t =>
      (tap t p).state = 1 ∧ flag t (Reg.tapCtrl p) 0 = true ∧ (tap t p).reserve = (tap s p).reserve ∧ tapsBut p s t := by
  refine ends_of (core_tapEnable m p v o (awake_of_mayWrite hw)) ?_
  rw [regCommand_reaches hw, tapCtrlWrite_within o hl hd (by rwa [he])]
  refine ⟨?_, (flag_finish_ctrlEnds o).trans he, taps_finish_ctrlEnds _ o (tap_ctrlCommitted s m p v.toNat)⟩
  rw [tap_finish]
  exact state_ctrlEnds_on o hr ((flag_ctrlCommitted ..).trans he) (by rwa [tap_ctrlCommitted]) (by rwa [img_ctrlCommitted])
    (by rwa [pwr_ctrlCommitted])

/-- EN 0 on a port in any state (R125). -/
theorem tapEnable_off (o : Option Nat) (hw : mayWrite s m (Reg.tapCtrl p) 4 = true) (hl : locked s = false)
    (hd : bitsOf v.toNat 23 16 ≤ 64) (he : bitOf v.toNat 0 = false) (hsum : depthSum s p (bitsOf v.toNat 23 16) false ≤ 512) :
    Ends (.tapEnable m p v o) s fun t =>
      (tap t p).state = 0 ∧ flag t (Reg.tapCtrl p) 0 = false ∧ (tap t p).reserve = (tap s p).reserve ∧ tapsBut p s t := by
  refine ends_of (core_tapEnable m p v o (awake_of_mayWrite hw)) ?_
  rw [regCommand_reaches hw, tapCtrlWrite_within o hl hd (by rwa [he])]
  refine ⟨?_, (flag_finish_ctrlEnds o).trans he, taps_finish_ctrlEnds _ o (tap_ctrlCommitted s m p v.toNat)⟩
  rw [tap_finish]
  exact state_ctrlEnds_off o ((flag_ctrlCommitted ..).trans he)

/-- RESTART on a port that keeps EN (R125, R152). -/
theorem tapRestart_seeks (o : Option Nat) (hw : mayWrite s m (Reg.tapCtrl p) 4 = true) (hl : locked s = false)
    (hd : bitsOf v.toNat 23 16 ≤ 64) (hr : bitOf v.toNat 31 = true) (he : bitOf v.toNat 0 = true) (h2 : 2 ≤ (tap s p).state)
    (h4 : (tap s p).state ≤ 4) (hsum : depthSum s p (bitsOf v.toNat 23 16) true ≤ 512) :
    Ends (.tapRestart m p v o) s fun t =>
      (tap t p).state = 1 ∧ (tap t p).reserve = (tap s p).reserve ∧ tapsBut p s t := by
  refine ends_of (core_tapRestart m p v o (awake_of_mayWrite hw)) ?_
  rw [regCommand_reaches hw, tapCtrlWrite_within o hl hd (by rwa [he])]
  refine ⟨?_, taps_finish_ctrlEnds _ o (tap_ctrlCommitted s m p v.toNat)⟩
  rw [tap_finish]
  exact state_ctrlEnds_restart o hr ((flag_ctrlCommitted ..).trans he) (by rwa [tap_ctrlCommitted]) (by rwa [tap_ctrlCommitted])

/-- DEPTH within the sum (R20, R141). -/
theorem tapDepthWrite_takes (hw : mayWrite s m (Reg.tapCtrl p) 4 = true) (hl : locked s = false)
    (hd : bitsOf v.toNat 23 16 ≤ 64) (hsum : depthSum s p (bitsOf v.toNat 23 16) (bitOf v.toNat 0) ≤ 512) :
    Ends (.tapDepthWrite m p v) s fun t =>
      fget t (Reg.tapCtrl p) 23 16 = bitsOf v.toNat 23 16 ∧ t.spm = s.spm ∧ t.drc = s.drc ∧ tapsBut p s t := by
  have frame : Only [.taps, .mil, .rgl] (portRegs m ++ ([Reg.tapCtrl p] ++ ([Reg.tapCtrl p] ++ (linkRegs p ++ ledgerRegs)))) s
      (ctrlEnds (portCount s m) (ctrlCommitted s m p v.toNat) p v.toNat none) :=
    ((only_portCount s m).trans ((only_wr _ _ _).trans ((only_enSees _ p _).trans (only_ctrlEnds _ _ p v.toNat none)))).mono
      (by simp) (List.Subset.refl _)
  refine ends_of (core_tapDepthWrite m p v (awake_of_mayWrite hw)) ?_
  rw [regCommand_reaches hw, tapCtrlWrite_within none hl hd hsum]
  refine ⟨?_, ?_, ?_, (taps_finish_ctrlEnds _ none (tap_ctrlCommitted s m p v.toNat)).2⟩
  · rw [fget_congr (rd_finish_ctrlEnds _ _ _ _ s (belowCounts_tapCtrl p.isLt) (tapCtrl_not_mem p)), fget_enSees,
      fget_ctrlCommitted]
  · rw [finish_spm]
    exact frame.1 .spm (by simp)
  · rw [finish_drc]
    exact frame.1 .drc (by simp)

/-- DEPTH beyond the sum (R20). -/
theorem tapDepthWrite_refused (hw : mayWrite s m (Reg.tapCtrl p) 4 = true) (hl : locked s = false)
    (hd : bitsOf v.toNat 23 16 ≤ 64) (hsum : 512 < depthSum s p (bitsOf v.toNat 23 16) (bitOf v.toNat 0))
    (hc : bitsOf v.toNat 23 16 ≠ fget s (Reg.tapCtrl p) 23 16) : Ends (.tapDepthWrite m p v) s fun t =>
      fget t (Reg.tapCtrl p) 23 16 = fget s (Reg.tapCtrl p) 23 16 ∧ flag t Reg.topErr 0 = true ∧ tapsBut p s t := by
  have hb := belowCounts_tapCtrl p.isLt
  have hu : ∀ q, tap (depthRefused (portCount s m) (ctrlCommitted s m p v.toNat) p m.code) q = tap s q := fun q =>
    (tap_congr (depthRefused_taps _ _ _ _) q).trans (tap_ctrlCommitted s m p v.toNat q)
  obtain ⟨h1, h2⟩ := depthRefused_reads (portCount s m) (ctrlCommitted s m p v.toNat) p m.code
  have herr : belowCounts Reg.topErr := belowCounts_of_lt (by decide)
  have hne : Reg.topErr ≠ Reg.tapCtrl p := by
    simp only [Reg.topErr, Reg.tapCtrl]
    omega
  refine ends_of (core_tapDepthWrite m p v (awake_of_mayWrite hw)) ?_
  rw [regCommand_reaches hw, tapCtrlWrite_beyond none hl hd hsum hc]
  refine ⟨?_, ?_, (taps_finish_ctrlEnds _ none hu).2⟩
  · rw [fget_congr (rd_finish_ctrlEnds _ _ _ _ s hb (tapCtrl_not_mem p)), fget_enSees, h1, fget_congr (rd_portCount s m hb)]
  · rw [flag_congr (rd_finish_ctrlEnds _ _ _ _ s herr (topErr_not_mem p)),
      flag_congr ((only_enSees _ p _).rd_eq herr (by simpa using hne)), h2]

end Commands

/-- Settles O3: EN, RESTART and DEPTH of TAP_CTRL, within the sum of credit depths and beyond it. -/
theorem tapControlWritesTakeEffect : Obligations.TapControlWritesTakeEffect := by
  intro s m p v o hw hl hd
  exact ⟨fun ⟨he, hr, hs, hi, hp, hsum⟩ => tapEnable_on o hw hl hd he hr hs hi hp hsum,
    fun ⟨he, hsum⟩ => tapEnable_off o hw hl hd he hsum,
    fun ⟨hr, he, h2, h4, hsum⟩ => tapRestart_seeks o hw hl hd hr he h2 h4 hsum,
    fun hsum => tapDepthWrite_takes hw hl hd hsum, fun ⟨hsum, hc⟩ => tapDepthWrite_refused hw hl hd hsum hc⟩

end Sys2Proof.Machine
end

section
namespace Sys2Proof.Machine

/-! ### LEDGER_FAULT_CLEAR (R42) -/

section LedgerClear
variable {s : State} {m : Requester}

theorem regRow_topLedgerStat : regRow Reg.topLedgerStat = some ⟨"TOP_LEDGER_STAT", 0x10, 1, 8, 1, 8, false,
    [fld 23 16 .ro 0, fld 11 8 .ro 0, fld 7 7 .ro 0, fld 6 0 .w1c 0]⟩ := by decide +kernel

/-- What a write of `v` leaves of the FAULT bits `o`, of which hardware has set `keep` in this cycle (R9, R11). -/
def faultsLeft (o v keep : Nat) : Nat := (o - (o &&& v)) ||| (o &&& keep)

theorem commitFields_topLedgerStat (s : State) (c v : Nat) : commitFields s c Reg.topLedgerStat v =
    fput s Reg.topLedgerStat 6 0 (faultsLeft (fget s Reg.topLedgerStat 6 0) (bitsOf v 6 0)
      (bitsOf (evtMask s Reg.topLedgerStat) 6 0)) := by
  rw [commitFields_row regRow_topLedgerStat]
  simp [fieldsWrite, Field.write, fld, fput, fget, faultsLeft]

theorem faultsLeft_lt {o : Nat} (v keep : Nat) {n : Nat} (h : o < 2 ^ n) : faultsLeft o v keep < 2 ^ n :=
  Nat.or_lt_two_pow (lt_of_le_of_lt (Nat.sub_le _ _) h) (lt_of_le_of_lt Nat.and_le_left h)

theorem evtMask_portCount (o : Nat) : evtMask (portCount s m) o = evtMask s o := by simp [evtMask, nowSt]

/-- The FAULT bits after the commit. -/
def faultsAfter (s : State) (v : Nat) : Nat :=
  faultsLeft (fget s Reg.topLedgerStat 6 0) (bitsOf v 6 0) (bitsOf (evtMask s Reg.topLedgerStat) 6 0)

theorem belowCounts_topLedgerStat : belowCounts Reg.topLedgerStat := belowCounts_of_lt (by decide)

/-- The commit of TOP_LEDGER_STAT, after the count of the access. -/
theorem commitFields_topLedgerStat_counted (s : State) (m : Requester) (c v : Nat) :
    commitFields (portCount s m) c Reg.topLedgerStat v = fput (portCount s m) Reg.topLedgerStat 6 0 (faultsAfter s v) := by
  rw [commitFields_topLedgerStat, fget_congr (rd_portCount s m belowCounts_topLedgerStat), evtMask_portCount, faultsAfter]

theorem fget_faultsAfter (u : State) (v : Nat) :
    fget (fput u Reg.topLedgerStat 6 0 (faultsAfter s v)) Reg.topLedgerStat 6 0 = faultsAfter s v := by
  rw [fget_fput_same _ _ _ _ _ (by decide) (by decide)]
  exact Nat.mod_eq_of_lt (faultsLeft_lt _ _ (bitsOf_lt _ _ _))

/-- A clear that leaves a FAULT bit, and the clear of the last one, with which the snapshot thaws. -/
theorem ledgerClear_cases (s : State) (m : Requester) (c v : Nat) :
    faultsAfter s v ≠ 0 ∧ ledgerClear (portCount s m) c v = fput (portCount s m) Reg.topLedgerStat 6 0 (faultsAfter s v) ∨
    faultsAfter s v = 0 ∧ ledgerClear (portCount s m) c v =
      wr (fput (portCount s m) Reg.topLedgerStat 6 0 (faultsAfter s v)) Reg.topLedgerStat 0 := by
  by_cases h : faultsAfter s v = 0
  · exact .inr ⟨h, by simp only [ledgerClear, commitFields_topLedgerStat_counted, fget_faultsAfter, if_pos h]⟩
  · exact .inl ⟨h, by simp only [ledgerClear, commitFields_topLedgerStat_counted, fget_faultsAfter, if_neg h]⟩

/-- A write of TOP_LEDGER_STAT clears the FAULT bits written (R42). -/
theorem ledgerFaultClear_clears {v : BitVec 32} (hw : mayWrite s m Reg.topLedgerStat 4 = true) :
    Ends (.ledgerFaultClear m v) s fun t =>
      fget t Reg.topLedgerStat 6 0 =
        (fget s Reg.topLedgerStat 6 0 - (fget s Reg.topLedgerStat 6 0 &&& bitsOf v.toNat 6 0)) |||
          (fget s Reg.topLedgerStat 6 0 &&& bitsOf (evtMask s Reg.topLedgerStat) 6 0) ∧
      (fget t Reg.topLedgerStat 6 0 = 0 → rd t Reg.topLedgerStat = 0) ∧
      (fget t Reg.topLedgerStat 6 0 ≠ 0 → flag t Reg.topLedgerStat 7 = flag s Reg.topLedgerStat 7) ∧
      Only [] (Reg.topLedgerStat :: portRegs m) s t := by
  have hb := belowCounts_topLedgerStat
  refine ends_of (exec_ledgerFaultClear v hw) ?_
  rcases ledgerClear_cases s m m.code v.toNat with ⟨h, e⟩ | ⟨h, e⟩
  · have hf : fget (finish s (fput (portCount s m) Reg.topLedgerStat 6 0 (faultsAfter s v.toNat))) Reg.topLedgerStat 6 0 =
        faultsAfter s v.toNat := (fget_congr (rd_finish_below s hb) 6 0).trans (fget_faultsAfter _ _)
    rw [e, hf]
    refine ⟨rfl, fun h0 => absurd h0 h, fun _ => ?_, Only.counted (rs := [Reg.topLedgerStat]) (only_fput _ _ 6 0 _)⟩
    rw [flag_congr (rd_finish_below s hb), flag, rd_fput _ _ _ _ _ (by decide) (by decide), bitOf_putBits _ _ _ _ _ (by decide),
      if_neg (by omega), ← flag, flag_congr (rd_portCount s m hb)]
  · have h0 : rd (finish s (wr (fput (portCount s m) Reg.topLedgerStat 6 0 (faultsAfter s v.toNat)) Reg.topLedgerStat 0))
        Reg.topLedgerStat = 0 := (rd_finish_below s hb).trans (rd_wr_same _ _ 0)
    have hf := congrArg (bitsOf · 6 0) h0
    rw [e]
    refine ⟨hf.trans h.symm, fun _ => h0, fun hn => absurd hf hn, Only.counted (rs := [Reg.topLedgerStat]) ?_⟩
    exact (only_fput _ _ 6 0 _).wr 0 (by simp)

end LedgerClear

/-! ### Flights and the answers of their searches (R22) -/

section Flights
variable {s : State}

theorem updAt_getElem? {α : Type} (g : α → α) (l : List α) (i : Nat) : (updAt l i g)[i]? = l[i]?.map g := by
  induction l generalizing i with
  | nil => rfl
  | cons a l ih =>
    cases i with
    | zero => rfl
    | succ i => simpa [updAt] using ih i

theorem flightOf_some {tag : Nat} {f : Flight} (h : flightOf s tag = some f) : f ∈ s.vrd.flights ∧ f.tag = tag :=
  ⟨List.mem_of_find?_eq_some h, by simpa using List.find?_some h⟩

/-- A flight set in place of one with its tag is in flight. -/
theorem mem_flights_setFlight {f g : Flight} (hf : f ∈ s.vrd.flights) (ht : f.tag = g.tag) :
    g ∈ (setFlight s g).vrd.flights := by
  simp only [setFlight, List.mem_map]
  exact ⟨f, hf, if_pos ht⟩

/-- The verdict unit without an answer that has reached the composer. -/
def answerTaken (s : State) (a : PendAns) : State := { s with vrd := { s.vrd with answers := s.vrd.answers.erase a } }

/-- Search n of a flight with its answer. -/
def answered (f : Flight) (n : Nat) (a : PendAns) : Flight :=
  { f with searches := updAt f.searches n (fun x => { x with ans := some (a.due, a.ans) }) }

theorem giveAnswer_here {a : PendAns} {tag epoch n : Nat} {f : Flight} (hw : a.who = .desc tag epoch n)
    (hf : flightOf s tag = some f) (he : f.epoch = epoch) : giveAnswer s a = setFlight s (answered f n a) := by
  simp [giveAnswer, hw, hf, he, answered]

theorem giveAnswer_late {a : PendAns} {tag epoch n : Nat} {f : Flight} (hw : a.who = .desc tag epoch n)
    (hf : flightOf s tag = some f) (he : f.epoch ≠ epoch) : giveAnswer s a = vcnt s 6 := by
  simp [giveAnswer, hw, hf, he]

/-- A ternary answer that is due goes to its search, or is discarded and counted (R22, R191). -/
theorem ternaryAnswer_goes (ha : awake s = true) (b : Bool) {a : PendAns} {tag epoch n : Nat} {f : Flight}
    (hd : s.vrd.answers.find? (fun x => x.ternary && decide (x.due ≤ s.cycle)) = some a) (hw : a.who = .desc tag epoch n)
    (hf : flightOf s tag = some f) : Ends (.ternaryAnswer b) s fun t =>
        t.vrd.answers = s.vrd.answers.erase a ∧
        (f.epoch = epoch → ∃ g ∈ t.vrd.flights, g.tag = tag ∧ ∀ x, f.searches[n]? = some x →
          g.searches[n]? = some { x with ans := some (a.due, a.ans) }) ∧
        (f.epoch ≠ epoch → t.vrd.flights = s.vrd.flights ∧
          rd t (Reg.vrdEvtCnt 6) = (rd s (Reg.vrdEvtCnt 6) + 1) % 2 ^ 48) ∧
        Only [.vrd] [Reg.vrdEvtCnt 6] s t := by
  have taken : Only [.vrd] [] s (answerTaken s a) := only_setVrd s _
  have hf' : flightOf (answerTaken s a) tag = some f := hf
  obtain ⟨hm, ht⟩ := flightOf_some hf
  have e : ternaryAnswer s b = giveAnswer (answerTaken s a) a := by simp [ternaryAnswer, hd, hw, answerTaken]
  refine ends_of (core_ternaryAnswer b ha) ?_
  by_cases he : f.epoch = epoch
  · rw [e, giveAnswer_here hw hf' he]
    refine ⟨by simp [setFlight, answerTaken], fun _ => ⟨answered f n a, ?_, ht, fun x hx => ?_⟩, fun h => absurd he h,
      ((taken.trans (only_setFlight _ _)).mono (by simp) (by simp)).finished⟩
    · rw [finish_vrd]
      exact mem_flights_setFlight (s := answerTaken s a) hm rfl
    · rw [answered, updAt_getElem?, hx]
      rfl
  · rw [e, giveAnswer_late hw hf' he]
    refine ⟨by simp [answerTaken], fun h => absurd h he, fun _ => ⟨by simp [answerTaken], ?_⟩,
      (taken.trans (only_vcnt _ 6)).finished⟩
    rw [rd_finish_below s (belowCounts_vrdEvtCnt (by decide)), vcnt, rd_bump_same,
      taken.rd_eq (belowCounts_vrdEvtCnt (by decide)) (by simp)]

end Flights

end Sys2Proof.Machine
end

section
namespace Sys2Proof.Machine

/-! ### The first of a list by a key -/

section MinByKey
variable {α : Type} {key : α → Nat}

theorem minByKey_cons (a : α) (l : List α) : minByKey key (a :: l) = some a ∧ (∀ b, minByKey key l = some b → key a ≤ key b) ∨
    ∃ b, minByKey key l = some b ∧ minByKey key (a :: l) = some b ∧ key b < key a := by
  rw [minByKey]
  cases h : minByKey key l with
  | none => exact .inl ⟨rfl, fun b hb => by cases hb⟩
  | some b =>
    by_cases hk : key b < key a
    · exact .inr ⟨b, rfl, if_pos hk, hk⟩
    · refine .inl ⟨if_neg hk, fun c hc => ?_⟩
      cases hc
      omega

theorem minByKey_eq_none {l : List α} (h : minByKey key l = none) : l = [] := by
  cases l with
  | nil => rfl
  | cons a l =>
    rcases minByKey_cons (key := key) a l with ⟨e, _⟩ | ⟨b, _, e, _⟩ <;> rw [e] at h <;> cases h

/-- The first by a key is in the list, and none there ranks lower. -/
theorem minByKey_spec {l : List α} {f : α} (h : minByKey key l = some f) : f ∈ l ∧ ∀ g ∈ l, key f ≤ key g := by
  induction l generalizing f with
  | nil => cases h
  | cons a l ih =>
    rcases minByKey_cons (key := key) a l with ⟨e, hk⟩ | ⟨b, hb, e, hk⟩
    · rw [e] at h
      cases h
      refine ⟨List.mem_cons_self, fun g hg => ?_⟩
      rcases List.mem_cons.1 hg with rfl | hg
      · exact le_refl _
      · cases hm : minByKey key l with
        | none => simp [minByKey_eq_none hm] at hg
        | some b => exact le_trans (hk b hm) ((ih hm).2 g hg)
    · rw [e] at h
      cases h
      refine ⟨List.mem_cons_of_mem _ (ih hb).1, fun g hg => ?_⟩
      rcases List.mem_cons.1 hg with rfl | hg
      · exact le_of_lt hk
      · exact (ih hb).2 g hg

end MinByKey

/-! ### The profile selector (R159, R160, R169) -/

section Selector
variable {s : State} {f : Flight}

/-- The selector takes the first of the descriptors accepted at least three cycles ago (R160). -/
theorem nextSelect_some (h : nextSelect s = some f) :
    f ∈ s.vrd.flights ∧ f.selected = false ∧ f.acc + 3 ≤ s.cycle ∧
      (∀ g ∈ s.vrd.flights, g.selected = false → g.acc + 3 ≤ s.cycle → f.acc * 32 + f.port ≤ g.acc * 32 + g.port) ∧
      selUsed s < 4 := by
  unfold nextSelect at h
  split at h
  · cases h
  · rename_i hu
    obtain ⟨hm, hl⟩ := minByKey_spec h
    simp only [List.mem_filter, Bool.and_eq_true, Bool.not_eq_true', decide_eq_true_eq] at hm hl
    obtain ⟨hf, hs, ha⟩ := hm
    exact ⟨hf, hs, ha, fun g hg h1 h2 => hl g ⟨hg, h1, h2⟩, by omega⟩

theorem nextSelect_full (h : 4 ≤ selUsed s) : nextSelect s = none := if_pos h

theorem selectProfile_lt {k n : Nat} {d : Bool} (h : selectProfile s k = (some n, d)) : n < 64 := by
  unfold selectProfile at h
  split at h
  · cases h
    exact bitsOf_lt _ _ _
  · split at h
    · cases h
      exact bitsOf_lt _ _ _
    · cases h

theorem readRegs_ge {mem o : Nat} (h : o ∈ readRegs mem) : 0x100000 ≤ o := by
  simp only [readRegs, Reg.intEvt, Reg.intLogHead, Reg.intLogOvf, Reg.intTrackStat, Reg.intCnt, Reg.intLog, List.mem_append,
    List.mem_cons, List.not_mem_nil, or_false, List.mem_map] at h
  rcases h with h | ⟨k, _, h⟩ <;> omega

theorem not_mem_readRegs {mem o : Nat} (h : o < 0x100000) : o ∉ readRegs mem := fun hm => by
  have := readRegs_ge hm
  omega

variable (s f)

/-- The counts of a result: every one, and those without a matching entry (R182). -/
def resultCounted (d : Bool) : State :=
  let s1 := bump { s with cbl := { s.cbl with
    selCycle := s.cycle
    selCount := selUsed s + 1 } } (Reg.cblCnt 0) 1
  if d then bump s1 (Reg.cblCnt 1) 1 else s1

/-- The result with profile n, and the read of the four words of its record (R159, R169). -/
def profileGiven (d : Bool) (n : Nat) : State :=
  ctrlRead (bump (resultCounted s d) (Reg.cblCnt (2 + n)) 1) 0xC 50 ((List.range 4).map (fun k => 4 * n + k))

/-- The flight with profile n that was enabled at its acceptance. -/
def withProfile (n : Nat) : Flight :=
  { f with
    selected := true
    selAt := s.cycle
    profile := n
    recw := profRecord s n
    deadline := bitsOf ((profRecord s n).getD 0 0) 14 0
    searches := (((List.range 4).map (recSearch (profRecord s n))).filter (fun t => t ≠ 255)).map (fun t => ⟨t, none, false, 0⟩) }

/-- A flight that will have a NOTREADY verdict (R34). -/
def unready (n : Nat) : Flight :=
  { f with
    selected := true
    selAt := s.cycle
    notReady := true
    profile := n
    deadline := 48 }

variable {s f}

theorem selectFlight_some {n : Nat} {d : Bool} (ho : f.oldRecs = [])
    (h : selectProfile s (selectorKey f.selPort f.bytes) = (some n, d)) :
    selectFlight s f = setFlight (profileGiven s d n) (if bitOf f.enabled n then withProfile s f n else unready s f n) := by
  unfold selectFlight profileGiven resultCounted
  rw [h, ho]
  dsimp only [List.find?_nil]
  by_cases hb : bitOf f.enabled n = true
  · rw [if_pos hb, if_pos hb, withProfile, ho]
  · rw [if_neg hb, if_neg hb, unready, ho]

theorem selectFlight_none {d : Bool} (h : selectProfile s (selectorKey f.selPort f.bytes) = (none, d)) :
    selectFlight s f = setFlight (resultCounted s d) (unready s f 0) := by
  unfold selectFlight resultCounted unready
  rw [h]

variable (s)

theorem only_setCbl (x : CblSt) : Only [.cbl] [] s { s with cbl := x } :=
  only_units (fun u hu => by cases u <;> simp [UnitName.same] at *) rfl rfl

theorem only_resultCounted (d : Bool) : Only [.cbl] [Reg.cblCnt 0, Reg.cblCnt 1] s (resultCounted s d) := by
  have h := ((only_setCbl s { s.cbl with
    selCycle := s.cycle
    selCount := selUsed s + 1 }).trans (only_bump _ (Reg.cblCnt 0) 1))
  unfold resultCounted
  simp only
  split
  · exact h.trans (only_bump _ (Reg.cblCnt 1) 1)
  · exact h.mono (by simp) (by simp)

theorem resultCounted_cbl (d : Bool) : (resultCounted s d).cbl = { s.cbl with
    selCycle := s.cycle
    selCount := selUsed s + 1 } := by
  unfold resultCounted
  simp only
  split <;> simp

theorem only_profileGiven (d : Bool) (n : Nat) :
    Only [.cbl, .intg] ([Reg.cblCnt 0, Reg.cblCnt 1, Reg.cblCnt (2 + n)] ++ readRegs 0xC) s (profileGiven s d n) :=
  ((only_resultCounted s d).trans (only_bump _ (Reg.cblCnt (2 + n)) 1)).trans (readOnly_ctrlRead _ _)

theorem profileGiven_cbl (d : Bool) (n : Nat) : (profileGiven s d n).cbl = { s.cbl with
    selCycle := s.cycle
    selCount := selUsed s + 1 } := by
  rw [profileGiven, (readOnly_ctrlRead _ _).1 .cbl (by simp), bump_cbl, resultCounted_cbl]

theorem rd_resultCounted (d : Bool) : rd (resultCounted s d) (Reg.cblCnt 0) = (rd s (Reg.cblCnt 0) + 1) % 2 ^ 48 := by
  have h : rd { s with cbl := { s.cbl with
    selCycle := s.cycle
    selCount := selUsed s + 1 } } (Reg.cblCnt 0) = rd s (Reg.cblCnt 0) := rfl
  unfold resultCounted
  simp only
  split
  · rw [rd_bump_ne _ _ (by decide), rd_bump_same, h]
  · rw [rd_bump_same, h]

theorem belowCounts_cblCnt {i : Nat} (h : i < 66) : belowCounts (Reg.cblCnt i) := by
  simp only [belowCounts, Reg.cblCnt, Reg.hstPcieCnt]
  omega

/-- The counts of a result with profile n (R182). -/
theorem rd_profileGiven (d : Bool) {n : Nat} (hn : n < 64) :
    rd (profileGiven s d n) (Reg.cblCnt 0) = (rd s (Reg.cblCnt 0) + 1) % 2 ^ 48 ∧
      rd (profileGiven s d n) (Reg.cblCnt (2 + n)) = (rd s (Reg.cblCnt (2 + n)) + 1) % 2 ^ 48 := by
  have after {i : Nat} (hi : i < 66) : rd (profileGiven s d n) (Reg.cblCnt i) =
      rd (bump (resultCounted s d) (Reg.cblCnt (2 + n)) 1) (Reg.cblCnt i) :=
    (readOnly_ctrlRead _ _).rd_eq (belowCounts_cblCnt hi) (not_mem_readRegs (by simp only [Reg.cblCnt]; omega))
  have hne : ∀ i, i < 2 → Reg.cblCnt i ≠ Reg.cblCnt (2 + n) := by
    simp only [Reg.cblCnt]
    omega
  constructor
  · rw [after (by decide), rd_bump_ne _ _ (hne 0 (by decide)), rd_resultCounted]
  · rw [after (by omega), rd_bump_same, (only_resultCounted s d).rd_eq (belowCounts_cblCnt (by omega)) ?_]
    simp only [List.mem_cons, List.not_mem_nil, or_false, not_or]
    exact ⟨(hne 0 (by decide)).symm, (hne 1 (by decide)).symm⟩

variable {s}

/-- The selector's place in the cycle and the cobblers, after a result. -/
theorem selUsed_finish {u : State} (h : u.cbl = { s.cbl with
    selCycle := s.cycle
    selCount := selUsed s + 1 }) : selUsed (finish s u) = selUsed s + 1 ∧ (finish s u).cbl.freeAt = s.cbl.freeAt := by
  constructor
  · rw [selUsed, finish_cycle, finish_cbl, h]
    simp
  · rw [finish_cbl, h]

/-- PROFILE_SELECT gives a profile (R159, R169). -/
theorem profileSelect_gives {n : Nat} {d : Bool} (ha : awake s = true) (hf : nextSelect s = some f) (ho : f.oldRecs = [])
    (h : selectProfile s (selectorKey f.selPort f.bytes) = (some n, d)) : Ends .profileSelect s fun t =>
        (∃ g ∈ t.vrd.flights, g.tag = f.tag ∧ g.selected = true ∧ g.selAt = s.cycle ∧ g.profile = n ∧ g.acc = f.acc ∧
          g.notReady = (f.notReady || !bitOf f.enabled n) ∧
          (bitOf f.enabled n = true → g.recw = profRecord s n ∧ g.deadline = bitsOf ((profRecord s n).getD 0 0) 14 0)) ∧
        rd t (Reg.cblCnt 0) = (rd s (Reg.cblCnt 0) + 1) % 2 ^ 48 ∧
        rd t (Reg.cblCnt (2 + n)) = (rd s (Reg.cblCnt (2 + n)) + 1) % 2 ^ 48 ∧
        selUsed t = selUsed s + 1 ∧ t.cbl.freeAt = s.cbl.freeAt ∧
        Only [.vrd, .cbl, .intg] ([Reg.cblCnt 0, Reg.cblCnt 1, Reg.cblCnt (2 + n)] ++ readRegs 0xC) s t := by
  have hn := selectProfile_lt h
  have hm : f ∈ (profileGiven s d n).vrd.flights := by
    rw [(only_profileGiven s d n).1 .vrd (by simp)]
    exact (nextSelect_some hf).1
  have e : selectNext s = setFlight (profileGiven s d n) (if bitOf f.enabled n then withProfile s f n else unready s f n) := by
    rw [selectNext, hf]
    exact selectFlight_some ho h
  obtain ⟨h0, h2⟩ := rd_profileGiven s d hn
  refine ends_of (core_profileSelect ha) ?_
  rw [e]
  obtain ⟨u1, u2⟩ := selUsed_finish (s := s) ((setFlight_cbl _ _).trans (profileGiven_cbl s d n))
  refine ⟨⟨if bitOf f.enabled n then withProfile s f n else unready s f n, ?_, ?_⟩, ?_, ?_, u1, u2, Only.finished ?_⟩
  · rw [finish_vrd]
    refine mem_flights_setFlight hm ?_
    split <;> rfl
  · by_cases hb : bitOf f.enabled n = true
    · simp [hb, withProfile]
    · simp [hb, unready]
  · rw [rd_finish_below s (belowCounts_cblCnt (by decide)), rd_congr (setFlight_regs _ _), h0]
  · rw [rd_finish_below s (belowCounts_cblCnt (by omega)), rd_congr (setFlight_regs _ _), h2]
  · exact ((only_profileGiven s d n).trans (only_setFlight _ _)).mono (by simp) (by simp)

/-- PROFILE_SELECT finds no profile (R34, R159). -/
theorem profileSelect_gives_none {d : Bool} (ha : awake s = true) (hf : nextSelect s = some f)
    (h : selectProfile s (selectorKey f.selPort f.bytes) = (none, d)) : Ends .profileSelect s fun t =>
        (∃ g ∈ t.vrd.flights, g.tag = f.tag ∧ g.selected = true ∧ g.notReady = true ∧ g.deadline = 48) ∧
        selUsed t = selUsed s + 1 ∧ t.cbl.freeAt = s.cbl.freeAt ∧ Only [.vrd, .cbl] [Reg.cblCnt 0, Reg.cblCnt 1] s t := by
  have hm : f ∈ (resultCounted s d).vrd.flights := by
    rw [(only_resultCounted s d).1 .vrd (by simp)]
    exact (nextSelect_some hf).1
  have e : selectNext s = setFlight (resultCounted s d) (unready s f 0) := by
    rw [selectNext, hf]
    exact selectFlight_none h
  refine ends_of (core_profileSelect ha) ?_
  rw [e]
  obtain ⟨u1, u2⟩ := selUsed_finish (s := s) ((setFlight_cbl _ _).trans (resultCounted_cbl s d))
  refine ⟨⟨unready s f 0, ?_, rfl, rfl, rfl, rfl⟩, u1, u2, Only.finished ?_⟩
  · rw [finish_vrd]
    exact mem_flights_setFlight hm rfl
  · exact ((only_resultCounted s d).trans (only_setFlight _ _)).mono (by simp) (by simp)

/-- No fifth result in a cycle (R160). -/
theorem profileSelect_full (ha : awake s = true) (h : 4 ≤ selUsed s) : Ends .profileSelect s fun t => Only [] [] s t := by
  have e : selectNext s = s := by rw [selectNext, nextSelect_full h]
  refine ends_of (core_profileSelect ha) ?_
  rw [e]
  exact (Only.refl _ _ s).finished

end Selector

end Sys2Proof.Machine
end

section
namespace Sys2Proof.Machine

/-! ### What searches, answers and the steps of a composition spare -/

/-- The parts not named, the count of releases, the tags held, and the tags in flight are as before. -/
structure Spares (us : List UnitName) (s t : State) : Prop where
  units : keepsUnits us s t
  released : rd t (Reg.vrdEvtCnt 0) = rd s (Reg.vrdEvtCnt 0)
  taken : t.vrd.taken = s.vrd.taken
  tags : t.vrd.flights.map Flight.tag = s.vrd.flights.map Flight.tag

section Spares
variable {us vs : List UnitName} {rs : List Nat} {s t u : State}

theorem Spares.refl (us : List UnitName) (s : State) : Spares us s s :=
  ⟨(Only.refl us [] s).1, rfl, rfl, rfl⟩

theorem Spares.mono (h : Spares vs s t) (hv : vs ⊆ us) : Spares us s t :=
  ⟨fun x hx => h.units x (fun e => hx (hv e)), h.released, h.taken, h.tags⟩

/-- A further step within the same parts. -/
theorem Spares.next (h : Spares us s t) (k : Spares vs t u) (hv : vs ⊆ us) : Spares us s u :=
  ⟨fun x hx => x.same_trans (h.units x hx) (k.units x (fun e => hx (hv e))), k.released.trans h.released, k.taken.trans h.taken,
    k.tags.trans h.tags⟩

/-- A frame that names neither the verdict unit nor the count of releases. -/
theorem Only.spares (h : Only us rs s t) (hu : UnitName.vrd ∉ us) (hr : Reg.vrdEvtCnt 0 ∉ rs) : Spares us s t := by
  have hv : t.vrd = s.vrd := h.1 .vrd hu
  exact ⟨h.1, h.rd_eq (belowCounts_vrdEvtCnt (by decide)) hr, by rw [hv], by rw [hv]⟩

theorem spares_foldl {α : Type} (g : State → α → State) (h : ∀ t a, Spares us t (g t a)) (l : List α) (s : State) :
    Spares us s (l.foldl g s) := by
  induction l generalizing s with
  | nil => exact Spares.refl us s
  | cons a l ih => exact (h s a).next (ih _) (List.Subset.refl _)

theorem Spares.ite {c : Prop} [Decidable c] (h : Spares us s t) (k : Spares us s u) : Spares us s (if c then t else u) := by
  split
  · exact h
  · exact k

/-- A tag in flight still is. -/
theorem Spares.flight (h : Spares us s t) {f : Flight} (hf : f ∈ s.vrd.flights) : ∃ g, flightOf t f.tag = some g := by
  have hm : f.tag ∈ t.vrd.flights.map Flight.tag := by
    rw [h.tags]
    exact List.mem_map_of_mem hf
  obtain ⟨g, hg, e⟩ := List.mem_map.1 hm
  exact Option.isSome_iff_exists.1 (List.find?_isSome.2 ⟨g, hg, by simpa using e⟩)

variable (s)

/-- An update of the verdict unit that leaves its tags. -/
theorem spares_setVrd (x : VrdSt) (hn : x.taken = s.vrd.taken) (hf : x.flights.map Flight.tag = s.vrd.flights.map Flight.tag) :
    Spares [.vrd] s { s with vrd := x } :=
  ⟨(only_setVrd s x).1, rfl, hn, hf⟩

theorem spares_setFlight (g : Flight) : Spares [.vrd] s (setFlight s g) := by
  refine spares_setVrd s _ rfl ?_
  rw [List.map_map]
  refine List.map_congr_left fun x _ => ?_
  by_cases h : x.tag = g.tag <;> simp [h]

theorem spares_answerAt (due : Nat) (who : Asker) (tern : Bool) (a : Ans) : Spares [.vrd] s (answerAt s due who tern a) :=
  spares_setVrd s _ rfl rfl

theorem spares_wr {o : Nat} (v : Nat) (h : o ≠ Reg.vrdEvtCnt 0) : Spares [] s (wr s o v) :=
  (only_wr s o v).spares (by simp) (by simpa using Ne.symm h)

theorem spares_bump {o : Nat} (n : Nat) (h : o ≠ Reg.vrdEvtCnt 0) : Spares [] s (bump s o n) := spares_wr s _ h

theorem spares_setEvt {o : Nat} (b : Nat) (h : o ≠ Reg.vrdEvtCnt 0) : Spares [] s (setEvt s o b) :=
  (only_setEvt s o b).spares (by simp) (by simpa using Ne.symm h)

theorem spares_ledgerFault (i j a b c d : Nat) : Spares [] s (ledgerFault s i j a b c d) :=
  (only_ledgerFault s i j a b c d).spares (by simp) (not_mem_ledgerRegs (by decide))

theorem spares_rangeWritten (mem lo n : Nat) : Spares [.intg] s (rangeWritten s mem lo n) :=
  (only_rangeWritten s mem lo n).spares (by simp) (not_mem_flipRegs (by decide))

theorem spares_readWords (mem m : Nat) (ws : List Nat) : Spares [.intg] s (readWords s mem m ws) :=
  (readOnly_readWords m ws).spares (by simp) (not_mem_readRegs (by decide))

theorem spares_ctrlRead (mem m : Nat) (ws : List Nat) : Spares [.intg] s (ctrlRead s mem m ws) :=
  (readOnly_ctrlRead m ws).spares (by simp) (not_mem_readRegs (by decide))

theorem spares_setRgl (x : RglSt) : Spares [.rgl] s { s with rgl := x } := (only_setRgl s x).spares (by simp) (by simp)

theorem spares_present (m : Nat) (slot : Bool) (p : Purpose) (since : Nat) (gs : List Gran) :
    Spares [.rgl] s (present s m slot p since gs) := spares_setRgl s _

theorem spares_setWay (x : WaySt) : Spares [.way] s { s with way := x } := (only_setWay s x).spares (by simp) (by simp)

theorem spares_setTcr (x : TcrSt) : Spares [.tcr] s { s with tcr := x } := (only_setTcr s x).spares (by simp) (by simp)

theorem spares_setOut (x : List Out) : Spares [] s { s with out := x } := (only_setOut s x).spares (by simp) (by simp)

theorem spares_wcnt (i n : Nat) : Spares [] s (wcnt s i n) := spares_bump s n (by simp [Reg.wayCnt, Reg.vrdEvtCnt]; omega)

theorem spares_hcnt (i n : Nat) : Spares [] s (hcnt s i n) := spares_bump s n (by simp [Reg.hshCnt, Reg.vrdEvtCnt]; omega)

theorem spares_wlcnt (k i n : Nat) : Spares [] s (wlcnt s k i n) := spares_bump s n (by simp [Reg.wltCnt, Reg.vrdEvtCnt]; omega)

theorem spares_mcnt (i : Nat) : Spares [] s (mcnt s i) := spares_bump s 1 (by simp [Reg.vrdCmpCnt, Reg.vrdEvtCnt]; omega)

theorem spares_vcnt {i : Nat} (h : i ≠ 0) : Spares [] s (vcnt s i) := spares_bump s 1 (by simp [Reg.vrdEvtCnt]; omega)

end Spares

/-! ### The units a search goes through -/

/-- An update of the welt. -/
theorem only_setWlt (s : State) (x : WltSt) : Only [.wlt] [] s { s with wlt := x } :=
  only_units (fun u hu => by cases u <;> simp [UnitName.same] at *) rfl rfl

theorem only_setHsh (s : State) (x : HshSt) : Only [.hsh] [] s { s with hsh := x } :=
  only_units (fun u hu => by cases u <;> simp [UnitName.same] at *) rfl rfl

section Welt
variable (s : State)

theorem spares_setWlt (x : WltSt) : Spares [.wlt] s { s with wlt := x } := (only_setWlt s x).spares (by simp) (by simp)

theorem spares_setWport (k : Nat) (x : WPort) : Spares [.wlt] s (setWport s k x) := spares_setWlt s _

theorem spares_keyGone (k : WKey) : Spares [.wlt] s (keyGone s k) := by
  unfold keyGone
  split
  · exact spares_setWport s _ _
  · exact Spares.refl _ s

/-- A port's record, a frame sent and its count (R379, R382). -/
theorem spares_sent (k hdr i : Nat) (payload : List Byte) (x : WPort) :
    Spares [.wlt] s (wlcnt (sendFrame (setWport s k x) k hdr payload) k i 1) :=
  ((spares_setWport s k x).next (spares_setOut _ _) (by decide)).next (spares_wlcnt _ k i 1) (by decide)

theorem spares_sendBridge (k : Nat) (e : OutEnt) : Spares [.wlt] s (sendBridge s k e) := spares_sent s _ _ _ _ _

theorem spares_sendBridge_of_map {k : Nat} {b : Option OutEnt} {t : State} (h : b.map (sendBridge s k) = some t) :
    Spares [.wlt] s t := by
  obtain ⟨e, _, rfl⟩ := Option.map_eq_some_iff.1 h
  exact spares_sendBridge s k e

end Welt

end Sys2Proof.Machine
end

section
namespace Sys2Proof.Machine

/-! ### The welt's part of a search (R382–R393) -/

section Welt
variable (s : State)

/-- A key sent, its entry freed when it has gone. -/
theorem spares_sendKey (k : Nat) (y : WKey) (x : WPort) :
    Spares [.wlt] s (keyGone (wlcnt (sendFrame (setWport s k x) k (keyHeader y) (keyPayload s y)) k 0 1) y) :=
  (spares_sent s _ _ _ _ _).next (spares_keyGone _ y) (by decide)

/-- The first key waiting, or a bridge entry, is sent. -/
theorem spares_keyOrBridge {k : Nat} {x : WPort} {y : WKey} {b : Option OutEnt} {c : Prop} [Decidable c] {t : State}
    (h : (if c then some (keyGone (wlcnt (sendFrame (setWport s k x) k (keyHeader y) (keyPayload s y)) k 0 1) y)
      else b.map (sendBridge s k)) = some t) : Spares [.wlt] s t := by
  split at h
  · cases h
    exact spares_sendKey s k y x
  · exact spares_sendBridge_of_map s h

theorem spares_sendOne {k : Nat} {t : State} (h : sendOne s k = some t) : Spares [.wlt] s t := by
  unfold sendOne at h
  simp only at h
  split at h
  · cases h
  · split at h
    · cases h
      exact spares_sendBridge s k _
    · split at h
      · cases h
        split
        · exact (spares_sent s _ _ _ _ _).next (spares_setWport _ _ _) (by decide)
        · exact spares_sent s _ _ _ _ _
      · split at h
        · exact spares_keyOrBridge s h
        · exact spares_sendBridge_of_map s h
    · exact spares_keyOrBridge s h
    · exact spares_sendBridge_of_map s h

theorem spares_sendAll (k fuel : Nat) : Spares [.wlt] s (sendAll s k fuel) := by
  induction fuel generalizing s with
  | zero => exact Spares.refl _ s
  | succ n ih =>
    rw [sendAll]
    split
    · exact (spares_sendOne s (by assumption)).next (ih _) (by decide)
    · exact Spares.refl _ s

theorem spares_portPump (k : Nat) : Spares [.wlt] s (portPump s k) := by
  unfold portPump
  simp only
  split
  · exact spares_sendAll _ _ _
  · exact (spares_setWport s k _).next (spares_sendAll _ _ _) (by decide)

theorem spares_queueKey (p : Nat) (k : WKey) : Spares [.wlt] s (queueKey s p k) :=
  (spares_setWport s p _).next (spares_portPump _ p) (by decide)

theorem spares_weltGranted (id slot : Nat) : Spares [.wlt] s (weltGranted s id slot) := by
  unfold weltGranted
  split
  · exact Spares.refl _ s
  · rename_i r _
    have noted : Spares [.wlt] s (setMem s { r with sigma := some slot }) := spares_setWlt s _
    split
    · exact Spares.refl _ s
    · dsimp only
      split
      · exact noted.next (spares_keyGone _ _) (by decide)
      · exact noted.next (spares_queueKey _ _ _) (by decide)

/-- A key of this device still unsent is dropped (R390). -/
theorem spares_weltDropKeys (tag epoch : Nat) : Spares [.wlt] s (weltDropKeys s tag epoch) := by
  unfold weltDropKeys
  refine (spares_setWlt s _).next (spares_foldl (us := [.wlt]) _ (fun t p => ?_) _ _) (by decide)
  exact (spares_setWport t p _).ite (Spares.refl _ t)

theorem weltDropKeys_vrd (tag epoch : Nat) : (weltDropKeys s tag epoch).vrd = s.vrd :=
  (spares_weltDropKeys s tag epoch).units .vrd (by decide)

end Welt

/-! ### The hash engine's part (R244, R247, R270) -/

section Hash
variable (s : State)

theorem spares_setHsh (x : HshSt) : Spares [.hsh] s { s with hsh := x } := (only_setHsh s x).spares (by simp) (by simp)

theorem spares_takeKey (w : Nat × Nat × Asker × Nat × Key × Bool) : Spares [.hsh, .rgl, .vrd] s (takeKey s w) := by
  obtain ⟨k, m, who, t, key, stamp⟩ := w
  unfold takeKey
  dsimp only
  split
  · exact Spares.refl _ s
  · split
    · refine Spares.next (us := [.hsh, .rgl, .vrd]) ?_ (spares_answerAt _ _ _ _ _) (by decide)
      exact ((spares_hcnt s 0 1).mono (by decide)).ite (Spares.refl _ s)
    · split
      · exact (spares_setHsh s _).mono (by decide)
      · exact (spares_present s _ _ _ _ _).mono (by decide)

theorem spares_takeKeys : Spares [.hsh, .rgl, .vrd] s (takeKeys s) := by
  unfold takeKeys
  simp only
  split
  · exact Spares.refl _ s
  · exact ((spares_setHsh s _).mono (by decide)).next (spares_foldl _ spares_takeKey _ _) (by decide)

theorem spares_issueHash (m t : Nat) (who : Asker) (key : Key) (stamp : Bool) (k : Nat) :
    Spares [.hsh, .rgl, .vrd] s (issueHash s m t who key stamp k) :=
  ((spares_setHsh s _).mono (by decide)).next (spares_takeKeys _) (by decide)

end Hash

/-! ### The waymark index's part (R295–R304) -/

section Way
variable (s : State)

theorem spares_setRglWay (x : RglSt) (y : WaySt) : Spares [.rgl, .way] s { s with
    rgl := x
    way := y } :=
  ((spares_setRgl s x).mono (by decide)).next (spares_setWay { s with rgl := x } y) (by decide)

theorem spares_wayLost (n : Nat) : Spares [.way] s (wayLost s n) := spares_setWay s _

theorem spares_wayUncorr (n p : Nat) : Spares [] s (wayUncorr s n p) :=
  (only_wayUncorr s n p).spares (by simp) (by decide)

theorem spares_readEntries (n : Nat) (ps : List Nat) (m : Nat) : Spares [.way, .intg] s (readEntries s n ps m).1 := by
  have h : Spares [.way, .intg] s (entriesRead s n m ps) :=
    ((spares_readWords s 7 m _).mono (by decide)).next (spares_readWords _ 6 m _) (by decide)
  unfold readEntries
  dsimp only
  split
  · exact h.next (spares_wayLost _ n) (by decide)
  · split
    · exact h.next (spares_wayLost _ n) (by decide)
    · exact h

/-- The end of a descriptor's look-back. -/
theorem spares_finishQuery {q : WayQ} {tag epoch n : Nat} (hw : q.who = .desc tag epoch n) (r : WayRes) (due : Nat)
    (isNext : Bool) : Spares [.vrd] s (finishQuery s q r due isNext) := by
  unfold finishQuery
  rw [hw]
  dsimp only
  have h2 : Spares [.vrd] s (if (r.status = 0 && !isNext) = true then wcnt s 8 1 else s) :=
    ((spares_wcnt s 8 1).mono (by decide)).ite (Spares.refl _ s)
  have h3 : ∀ t, Spares [.vrd] s t → Spares [.vrd] s (if r.status = 0x10 then wcnt t 10 1 else t) := fun t h =>
    (h.next (spares_wcnt t 10 1) (by decide)).ite h
  have h4 : ∀ t, Spares [.vrd] s t → Spares [.vrd] s (if r.status = 0x0A then wayUncorr t q.stream q.page else t) := fun t h =>
    (h.next (spares_wayUncorr t _ _) (by decide)).ite h
  exact (h4 _ (h3 _ h2)).next (spares_answerAt _ _ _ _ _) (by decide)

theorem spares_endQuery {q : WayQ} {tag epoch n : Nat} (hw : q.who = .desc tag epoch n) (r : WayRes) (due : Nat)
    (isNext : Bool) : Spares [.vrd, .way] s (endQuery s q r due isNext) := by
  unfold endQuery
  rw [hw]
  dsimp only
  exact ((spares_setWay s _).mono (by decide)).next (spares_finishQuery _ hw r due isNext) (by decide)

/-- A descriptor's look-back begins (R295, R296). -/
theorem spares_beginQuery (m tag epoch i n t k : Nat) :
    Spares [.intg, .rgl, .vrd, .way] s (beginQuery s m (.desc tag epoch i) n t k) := by
  have read : ∀ ps, Spares [.intg, .rgl, .vrd, .way] s (readEntries (wcnt s 7 1) n ps m).1 := fun ps =>
    ((spares_wcnt s 7 1).mono (by decide)).next (spares_readEntries _ n ps m) (by decide)
  unfold beginQuery
  dsimp only
  split
  · exact (read _).next (spares_endQuery _ rfl _ _ _) (by decide)
  · exact (read _).next (spares_endQuery _ rfl _ _ _) (by decide)
  · exact ((read _).next (spares_setRglWay _ _ _) (by decide)).next (spares_present _ _ _ _ _ _) (by decide)

end Way

/-! ### A search issued (R28, R29, R390) -/

section Issue
variable (s : State)

/-- The parts that a search of a descriptor can touch as it is issued. -/
abbrev searchUnits : List UnitName := [.hsh, .intg, .rgl, .spm, .tcr, .vrd, .way, .wlt]

theorem spares_weltMember (m : Nat) (k : WKey) (port : Nat) (sigmaAt : Option Nat) (at_ : Nat) :
    Spares [.hsh, .rgl, .vrd, .wlt] s (weltMember s m k port sigmaAt at_) := by
  unfold weltMember
  split
  · exact Spares.refl _ s
  · dsimp only
    split
    · exact (((spares_setWlt s _).mono (by decide)).next (spares_weltGranted _ _ _) (by decide)).next
        (spares_answerAt _ _ _ _ _) (by decide)
    · split
      · exact ((spares_setWlt s _).mono (by decide)).next (spares_present _ _ _ _ _ _) (by decide)
      · exact ((spares_setWlt s _).mono (by decide)).next (spares_issueHash _ _ _ _ _ _ _) (by decide)

theorem spares_weltIssue (m tag epoch n t key : Nat) (seg : Bool) (st : Stamp) (at_ : Nat) :
    Spares [.hsh, .rgl, .vrd, .wlt] s (weltIssue s m tag epoch n t key seg st at_) := by
  unfold weltIssue
  split
  · exact Spares.refl _ s
  · dsimp only
    split
    · exact ((spares_setWlt s _).mono (by decide)).next (spares_weltMember _ _ _ _ _ _) (by decide)
    · split
      · exact ((spares_setWlt s _).mono (by decide)).next (spares_queueKey _ _ _) (by decide)
      · exact (spares_setWlt s _).mono (by decide)

theorem spares_issueSearch (f : Flight) (n at_ : Nat) (key : KeyBuf) : Spares searchUnits s (issueSearch s f n at_ key) := by
  unfold issueSearch
  split
  · exact Spares.refl _ s
  · have keyed : ∀ g, Spares searchUnits s (setFlight s g) := fun g => (spares_setFlight s g).mono (by decide)
    dsimp only
    split
    · exact (keyed _).next (spares_beginQuery _ _ _ _ _ _ _ _) (by decide)
    · split
      · exact (keyed _).next (spares_weltIssue _ _ _ _ _ _ _ _ _ _) (by decide)
      · split
        · exact keyed _
        · split
          · split
            · exact (keyed _).next (spares_setFlight _ _) (by decide)
            · exact (keyed _).next (spares_present _ _ _ _ _ _) (by decide)
          · exact (keyed _).next (spares_issueHash _ _ _ _ _ _ _) (by decide)

end Issue

end Sys2Proof.Machine
end

section
namespace Sys2Proof.Machine

/-! ### COBBLER_START (R166) -/

section Cobbler
variable {s : State} {f : Flight} {c : Nat}

theorem nextCobbler_before (h : nextCobbler s = some f) : f.selAt < s.cycle := by
  have hm := (minByKey_spec h).1
  simp only [List.mem_filter, Bool.and_eq_true, decide_eq_true_eq] at hm
  obtain ⟨_, _, hs⟩ := hm
  exact hs

/-- The free cobbler with the lowest number (R166). -/
theorem freeCobbler_some (h : freeCobbler s = some c) :
    s.cbl.freeAt.nat c ≤ s.cycle ∧ ∀ b, b < c → s.cycle < s.cbl.freeAt.nat b := by
  obtain ⟨hc, _, hb⟩ := List.find?_range_eq_some.1 h
  exact ⟨by simpa using hc, fun b h => by simpa using hb b h⟩

variable (s f c)

/-- The steps of a flight's program (R166). -/
def stepsOf : List Nat := programOf s (bitsOf (recWord f 0) 23 16)

/-- How long a flight starting in this cycle has waited for a cobbler (R182). -/
def cobblerWait : Nat := s.cycle - (f.acc + 4)

/-- The flight whose program has started. -/
def programStarted : Flight :=
  { f with
    started := some s.cycle
    keysDone := s.cycle + ((stepsOf s f).length - 1) / 2 + 1 }

/-- Cobbler c is busy with a flight's program, and the longest wait is kept. -/
def cobblerTaken : State :=
  { rcEvent s Reg.cblStat s.cbl.waitMax (cobblerWait s f) max with cbl := { s.cbl with
    freeAt := s.cbl.freeAt.setNat c (s.cycle + cdiv (stepsOf s f).length 2)
    waitMax := max s.cbl.waitMax (cobblerWait s f) } }

/-- A search of the flight, if it is still there, is issued with its key. -/
def issueKey (u : State) (e : Nat × Nat × KeyBuf) : State :=
  match flightOf u f.tag with
  | some g => issueSearch u g e.1 (s.cycle + (e.2.1 - 1) / 2 + 1) e.2.2
  | none => u

variable {s f c}

theorem cobblerStart_eq (hf : nextCobbler s = some f) (hc : freeCobbler s = some c) : cobblerStart s =
    (runProgram s (programStarted s f) (stepsOf s f) 1 (List.replicate 4 ⟨0, false⟩)).foldl (issueKey s f)
      (setFlight (cobblerTaken s f c) (programStarted s f)) := by
  unfold cobblerStart
  rw [hf, hc]
  rfl

theorem spares_issueKey (u : State) (e : Nat × Nat × KeyBuf) : Spares searchUnits u (issueKey s f u e) := by
  unfold issueKey
  split
  · exact spares_issueSearch u _ _ _ _
  · exact Spares.refl _ u

theorem spares_cobblerStart (hf : nextCobbler s = some f) (hc : freeCobbler s = some c) :
    Spares searchUnits (cobblerTaken s f c) (cobblerStart s) := by
  rw [cobblerStart_eq hf hc]
  exact ((spares_setFlight _ _).mono (by decide)).next (spares_foldl _ spares_issueKey _ _) (by decide)

theorem only_cobblerTaken : Only [.cbl] [] s (cobblerTaken s f c) :=
  (only_rcEvent s _ _ _ _).trans (only_setCbl _ _)

/-- The lowest free cobbler takes the first descriptor that waits (R166). -/
theorem cobblerStart_takes (ha : awake s = true) (hf : nextCobbler s = some f) (hc : freeCobbler s = some c) :
    Ends .cobblerStart s fun t =>
      f.selAt < s.cycle ∧ (∀ b, b < c → s.cycle < s.cbl.freeAt.nat b) ∧ s.cbl.freeAt.nat c ≤ s.cycle ∧
      t.cbl.waitMax = max s.cbl.waitMax (s.cycle - (f.acc + 4)) ∧
      t.cbl.freeAt.nat c = s.cycle + cdiv (programOf s (bitsOf (recWord f 0) 23 16)).length 2 ∧
      (∀ b, b ≠ c → t.cbl.freeAt.nat b = s.cbl.freeAt.nat b) ∧
      keepsUnits [.cbl, .hsh, .intg, .rgl, .spm, .tcr, .vrd, .way, .wlt] s t := by
  have rest := spares_cobblerStart hf hc
  have hcbl : (finish s (cobblerStart s)).cbl = (cobblerTaken s f c).cbl := (finish_cbl _ _).trans (rest.units .cbl (by decide))
  obtain ⟨h1, h2⟩ := freeCobbler_some hc
  refine ends_of (core_cobblerStart ha) ⟨nextCobbler_before hf, h2, h1, by rw [hcbl]; rfl, ?_, fun b hb => ?_, fun u hu => ?_⟩
  · rw [hcbl]
    exact KMap.get_set_same _ _ _ _
  · rw [hcbl]
    exact KMap.get_set_ne _ _ _ hb
  · rw [List.mem_cons, not_or] at hu
    exact u.same_trans (only_cobblerTaken.1 u (by simpa using hu.1))
      (u.same_trans (rest.units u hu.2) ((only_finish s _).1 u (by simp)))

end Cobbler

/-! ### The profile selector and the cobblers (R159, R160, R166) -/

/-- Settles O8: the selector's choice is the first of its list by its key, its result is the flight set in place of the one
chosen, and what a cobbler's searches can touch is the frame of each step of issuing one. -/
theorem selectorServesInAcceptanceOrderAndGivesTheProfile : Obligations.SelectorServesInAcceptanceOrderAndGivesTheProfile := by
  unfold Obligations.SelectorServesInAcceptanceOrderAndGivesTheProfile
  intro s f ha
  exact ⟨fun hf ho => ⟨nextSelect_some hf, fun _ _ h => profileSelect_gives ha hf ho h,
      fun _ h => profileSelect_gives_none ha hf h⟩,
    profileSelect_full ha, fun _ hf hc => cobblerStart_takes ha hf hc⟩

end Sys2Proof.Machine
end

section
namespace Sys2Proof.Machine

/-! ### Answers delivered (R22, R216) -/

section Deliver
variable (s : State)

theorem spares_draw : Spares [.draws] s (draw s) :=
  ⟨fun u hu => by cases u <;> simp [UnitName.same, draw] at *, rfl, rfl, rfl⟩

theorem spares_skipChead (r : Nat) : Spares [] s (skipChead s r) := by
  unfold skipChead
  dsimp only
  split
  · exact Spares.refl _ s
  · exact spares_wr s _ (by simp [Reg.hstTcrChead, Reg.vrdEvtCnt]; omega)

theorem spares_complete (id : Nat) (r : Report) : Spares [.tcr] s (complete s id r) := by
  unfold complete
  split
  · exact Spares.refl _ s
  · split
    · exact (spares_setTcr s _).next (spares_skipChead _ _) (by decide)
    · exact spares_setTcr s _

theorem spares_completeOpen (id status gen : Nat) : Spares [.draws, .tcr] s (completeOpen s id status gen) :=
  ((spares_draw s).mono (by decide)).next (spares_complete _ _ _) (by decide)

theorem spares_cmdAnswer (id : Nat) (a : Ans) : Spares [.draws, .tcr] s (cmdAnswer s id a) := by
  unfold cmdAnswer
  split
  · exact Spares.refl _ s
  · dsimp only
    split
    · split
      · exact (spares_complete s _ _).mono (by decide)
      · exact spares_completeOpen s _ _ _
    · split
      · exact (spares_complete s _ _).mono (by decide)
      · exact spares_completeOpen s _ _ _

theorem spares_setAnswers (x : List PendAns) : Spares [.vrd] s { s with vrd := { s.vrd with answers := x } } :=
  spares_setVrd s _ rfl rfl

theorem spares_setUnaudited (x : List Nat) : Spares [.vrd] s { s with vrd := { s.vrd with unaudited := x } } :=
  spares_setVrd s _ rfl rfl

theorem spares_giveAnswer (a : PendAns) : Spares [.draws, .tcr, .vrd] s (giveAnswer s a) := by
  unfold giveAnswer
  split
  · split
    · split
      · exact (spares_setFlight s _).mono (by decide)
      · exact (spares_vcnt s (by decide)).mono (by decide)
    · exact (spares_vcnt s (by decide)).mono (by decide)
  · exact (spares_cmdAnswer s _ _).mono (by decide)
  · exact (spares_setAnswers s _).mono (by decide)

theorem spares_deliverDue : Spares [.draws, .tcr, .vrd] s (deliverDue s) :=
  ((spares_setAnswers s _).mono (by decide)).next (spares_foldl _ spares_giveAnswer _ _) (by decide)

end Deliver

/-! ### The steps of a composition (R170–R181) -/

section Steps
variable (s : State)

theorem spares_setLrn (x : LrnSt) : Spares [.lrn] s { s with lrn := x } :=
  ⟨fun u hu => by cases u <;> simp [UnitName.same] at *, rfl, rfl, rfl⟩

theorem spares_raiseLearn (n : Notif) : Spares [.lrn] s (raiseLearn s n) := by
  have counted : Spares [.lrn] s (lcnt s 0 1) := (spares_bump s 1 (by decide)).mono (by decide)
  unfold raiseLearn auditLearn
  dsimp only
  refine Spares.ite ?_ (Spares.next ?_ (spares_ledgerFault _ _ _ _ _ _ _) (by decide))
  · exact counted.next (spares_setLrn _ _) (by decide)
  · exact counted.next (spares_setLrn _ _) (by decide)

theorem spares_learnStep (f : Flight) (c : Nat) : Spares [.lrn] s (learnStep s f c) := by
  unfold learnStep
  split
  · exact Spares.refl _ s
  · refine spares_foldl _ (fun t n => ?_) _ s
    split
    · split
      · exact (spares_raiseLearn t _).ite (Spares.refl _ t)
      · exact Spares.refl _ t
    · exact Spares.refl _ t

theorem spares_wordRead (mem a m : Nat) : Spares [.intg] s (wordRead s mem a m).1 := spares_readWords s mem m [a]

theorem spares_setIntg (x : IntSt) : Spares [.intg] s { s with intg := x } :=
  (readOnly_intg (mem := 0) x).spares (by simp) (not_mem_readRegs (by decide))

theorem spares_setFlip (mem a : Nat) (x : Option Flip) : Spares [.intg] s (setFlip s mem a x) := spares_setIntg s _

theorem spares_wordCleaned (mem a : Nat) : Spares [.intg] s (wordCleaned s mem a) := by
  have h : Spares [.intg] s (if (flipAt s mem a).isSome = true then setFlip s mem a none else s) :=
    (spares_setFlip s mem a none).ite (Spares.refl _ s)
  unfold wordCleaned
  dsimp only
  split
  · split
    · exact h.next (spares_setIntg _ _) (by decide)
    · exact h
  · exact h

theorem spares_wordWritten (mem a : Nat) : Spares [.intg] s (wordWritten s mem a) := by
  have h := spares_wordCleaned s mem a
  unfold wordWritten
  dsimp only
  split
  · exact h.next ((only_flipApply _ mem a _).spares (by simp) (not_mem_flipRegs (by decide))) (by decide)
  · exact h

/-- Steps on a state and what they gather. -/
theorem spares_foldl_fst {α β : Type} {us : List UnitName} (g : State × β → α → State × β)
    (h : ∀ x a, Spares us x.1 (g x a).1) (l : List α) (x : State × β) : Spares us x.1 (l.foldl g x).1 := by
  induction l generalizing x with
  | nil => exact Spares.refl us x.1
  | cons a l ih => exact (h x a).next (ih _) (List.Subset.refl _)

theorem spares_auditToken (i now : Nat) (b0 b1 : Bucket) : Spares [] s (auditToken s i b0 b1 now) := by
  unfold auditToken
  dsimp only
  split
  · exact spares_ledgerFault s _ _ _ _ _ _
  · split
    · exact spares_ledgerFault s _ _ _ _ _ _
    · exact Spares.refl _ s

theorem spares_setBucket (i : Nat) (b : Bucket) : Spares [.tol] s (setBucket s i b) :=
  (only_setBucket s i b).spares (by simp) (by simp)

/-- One of a bucket's words is read; true when a word so far is uncorrectable. -/
def bucketWord (i m : Nat) (st : State × Bool) (w : Nat) : State × Bool :=
  ((wordRead st.1 9 (5 * i + w) m).1, st.2 || decide ((wordRead st.1 9 (5 * i + w) m).2.1 = .uncorrectable))

/-- The read of a bucket's five words (R425). -/
def bucketRead (f : Flight) (i : Nat) : State × Bool := (List.range 5).foldl (bucketWord i f.port) (s, false)

/-- The colour an access gives, and what it leaves in the bucket (R174, R175). -/
def coloured (f : Flight) (i pre : Nat) (frameLen unit : Bool) : Nat × Bucket :=
  colour (refillBucket (bucket s i) (nowNs s)) pre (if frameLen && unit then fieldAt f.bytes 4 3 else 1)

/-- A bucket taken from, and audited unless it waits for its configuration. -/
def tokensTaken (u : State) (i : Nat) (b : Bucket) : State :=
  if i ∈ s.vrd.unaudited then setBucket u i b
  else auditToken (setBucket u i b) i (bucket s i) (refillBucket (bucket s i) (nowNs s)) (nowNs s)

/-- Its five words written. -/
def bucketWritten (i : Nat) : State := (List.range 5).foldl (fun st w => wordWritten st 9 (5 * i + w)) s

/-- An access that cannot read its bucket. -/
def bucketLost (f : Flight) (i : Nat) : State :=
  mcnt { (bucketRead s f i).1 with vrd := { (bucketRead s f i).1.vrd with
    unaudited := if i ∈ s.vrd.unaudited then s.vrd.unaudited else s.vrd.unaudited ++ [i] } } 2

theorem gateAccess_eq (f : Flight) (i pre : Nat) (frameLen unit : Bool) : gateAccess s f i pre frameLen unit =
    if (bucketRead s f i).2 then (bucketLost s f i, 2)
    else (mcnt (bucketWritten (tokensTaken s (bucketRead s f i).1 i (coloured s f i pre frameLen unit).2) i)
      (coloured s f i pre frameLen unit).1, (coloured s f i pre frameLen unit).1) := by
  unfold gateAccess bucketLost bucketWritten tokensTaken coloured bucketRead bucketWord
  dsimp only

theorem spares_bucketRead (f : Flight) (i : Nat) : Spares [.intg] s (bucketRead s f i).1 :=
  spares_foldl_fst (bucketWord i f.port) (fun x _ => spares_wordRead x.1 9 _ _) _ (s, false)

theorem spares_tokensTaken (u : State) (i : Nat) (b : Bucket) : Spares [.tol] u (tokensTaken s u i b) := by
  unfold tokensTaken
  split
  · exact spares_setBucket u i b
  · exact (spares_setBucket u i b).next (spares_auditToken _ _ _ _ _) (by decide)

theorem spares_bucketWritten (i : Nat) : Spares [.intg] s (bucketWritten s i) :=
  spares_foldl _ (fun t _ => spares_wordWritten t 9 _) _ s

theorem spares_gateAccess (f : Flight) (i pre : Nat) (frameLen unit : Bool) :
    Spares [.intg, .tol, .vrd] s (gateAccess s f i pre frameLen unit).1 := by
  have read : Spares [.intg, .tol, .vrd] s (bucketRead s f i).1 := (spares_bucketRead s f i).mono (by decide)
  rw [gateAccess_eq]
  split
  · exact (read.next (spares_setUnaudited _ _) (by decide)).next (spares_mcnt _ 2) (by decide)
  · exact ((read.next (spares_tokensTaken s _ i _) (by decide)).next (spares_bucketWritten _ i) (by decide)).next
      (spares_mcnt _ _) (by decide)

theorem spares_gate (f : Flight) (cs : List (Nat × Nat)) (w : Nat) (pre : Option Nat) :
    Spares [.intg, .tol, .vrd] s (gate s f cs w pre).1 := by
  unfold gate
  split
  · split
    · exact (spares_mcnt s 3).mono (by decide)
    · exact spares_gateAccess s f _ _ _ _
  · exact Spares.refl _ s

theorem spares_setFresh (n : Nat) (v : Nat × Nat) : Spares [.vrd] s (setFresh s n v) := spares_setVrd s _ rfl rfl

theorem spares_freshStep (f : Flight) (cs : List (Nat × Nat)) (col : Option Nat) :
    Spares [.intg, .vrd] s (freshStep s f cs col).1 := by
  have read : ∀ n, Spares [.intg, .vrd] s (wordRead (wordRead s 0xA (2 * n) f.port).1 0xA (2 * n + 1) f.port).1 := fun n =>
    ((spares_wordRead s _ _ _).mono (by decide)).next (spares_wordRead _ _ _ _) (by decide)
  unfold freshStep
  split
  · split
    · exact (spares_mcnt s 4).mono (by decide)
    · dsimp only
      split
      · exact (read _).next (spares_mcnt _ 4) (by decide)
      · split
        · exact (read _).next (spares_mcnt _ 4) (by decide)
        · split
          · exact read _
          · exact (((read _).next (spares_setFresh _ _ _) (by decide)).next (spares_wordWritten _ _ _) (by decide)).next
              (spares_wordWritten _ _ _) (by decide)
  · exact Spares.refl _ s

end Steps

/-! ### A waymark insert handed over (R181, R289, R291) -/

section HandOff
variable (s : State)

theorem spares_setStream (n : Nat) (x : Stream) : Spares [.way, .intg] s (setStream s n x) :=
  (only_setStream s n x).spares (by simp) (not_mem_flipRegs (by decide))

theorem spares_setPage (n : Nat) (x : Page) : Spares [.way, .intg] s (setPage s n x) :=
  (only_setPage s n x).spares (by simp) (not_mem_flipRegs (by decide))

theorem spares_setPageWhole (n : Nat) (x : Page) : Spares [.way, .intg] s (setPageWhole s n x) :=
  ((spares_setWay s _).mono (by decide)).next (spares_rangeWritten _ _ _ _) (by decide)

theorem spares_usePlaces (k : Nat) : Spares [.way] s (usePlaces s k) :=
  (only_usePlaces s k).spares (by simp) (by decide)

theorem spares_auditPage : Spares [] s (auditPage s) :=
  (only_auditPage s).spares (by simp) (not_mem_ledgerRegs (by decide))

theorem spares_dropRecs (p : Nat) : Spares [.way] s (dropRecs s p) := by
  have dropped : ∀ x : WaySt, Spares [.way] s (pruneHeld { s with way := x }) := fun x =>
    (spares_setWay s x).next (spares_setWay _ _) (by decide)
  unfold dropRecs
  dsimp only
  split
  · exact dropped _
  · exact (dropped _).next (spares_usePlaces _ _) (by decide)

theorem spares_openPageFor (n p : Nat) : Spares [.way, .intg] s (openPageFor s n p) := by
  have dropped : Spares [.way, .intg] s (dropRecs s p) := (spares_dropRecs s p).mono (by decide)
  have linked : ∀ k x, Spares [.way, .intg] s
      (if (streamOf (dropRecs s p) n).owned = 0 then dropRecs s p else setPage (dropRecs s p) k x) := fun k x =>
    dropped.ite (dropped.next (spares_setPage _ _ _) (by decide))
  have allocated := fun k x y => (linked k x).next (spares_setPageWhole _ p y) (by decide)
  exact (((allocated _ _ _).next (spares_setWay _ _) (by decide)).next (spares_setStream _ _ _) (by decide)).next
    (spares_auditPage _) (by decide)

theorem spares_obtainPage (n : Nat) : Spares [.way, .intg] s (obtainPage s n).1 := by
  have opened : ∀ t p i, Spares [.way, .intg] t (wcnt (openPageFor t n p) i 1) := fun t p i =>
    (spares_openPageFor t n p).next (spares_wcnt _ _ _) (by decide)
  have dropped : ∀ t v, Spares [.way, .intg] t (dropHead t v) := fun t v => spares_setStream t _ _
  unfold obtainPage
  dsimp only
  split
  · exact Spares.refl _ s
  · split
    · split
      · exact opened s _ 3
      · exact Spares.refl _ s
    · split
      · have read := spares_readEntries s n [(streamOf s n).head] 46
        split
        · exact read.next (spares_wayUncorr _ _ _) (by decide)
        · exact (read.next (dropped _ _) (by decide)).next (opened _ _ 4) (by decide)
      · split
        · exact (dropped s _).next (opened _ _ 5) (by decide)
        · exact Spares.refl _ s

/-- The stream's record and its open page's entry, read for an insert (R304). -/
def handEntries (i : Insert) : State × Option Nat :=
  if (streamOf s i.stream).dis || (streamOf s i.stream).bad then (s, none)
  else readEntries s i.stream (if (streamOf s i.stream).owned = 0 then [] else [(streamOf s i.stream).openPage]) 46

/-- The page an insert goes to; false: there is none (R289, R291). -/
def handPage (i : Insert) : State × Bool :=
  match (handEntries s i).2 with
  | some p => (wayUncorr (handEntries s i).1 i.stream p, false)
  | none =>
    if (streamOf s i.stream).dis || (streamOf s i.stream).bad then ((handEntries s i).1, false)
    else if (streamOf s i.stream).owned = 0 then obtainPage (handEntries s i).1 i.stream
    else ((handEntries s i).1, true)

/-- An insert counted, and a place of the combine space taken. -/
def placeTaken : State := usePlaces (wcnt s 0 1) ((wcnt s 0 1).way.used + 1)

/-- An insert takes its place in the combine space (R181, R289). -/
def settleInsert (i : Insert) : State :=
  rangeWritten { placeTaken s with way := { (placeTaken s).way with
    settle := (placeTaken s).way.settle ++ [{ i with place := freePlace (placeTaken s) }] } } 8
    (placeWord (freePlace (placeTaken s))) 4

theorem handOff_eq (i : Insert) : handOff s i = if (handPage s i).2 then (settleInsert (handPage s i).1 i, false)
    else (setEvt (wcnt (handPage s i).1 2 1) Reg.wayEvt 1, true) := rfl

theorem spares_handEntries (i : Insert) : Spares [.way, .intg] s (handEntries s i).1 := by
  unfold handEntries
  split
  · exact Spares.refl _ s
  · exact spares_readEntries s _ _ _

theorem spares_handPage (i : Insert) : Spares [.way, .intg] s (handPage s i).1 := by
  have read := spares_handEntries s i
  unfold handPage
  split
  · exact read.next (spares_wayUncorr _ _ _) (by decide)
  · split
    · exact read
    · split
      · exact read.next (spares_obtainPage _ _) (by decide)
      · exact read

theorem spares_placeTaken : Spares [.way] s (placeTaken s) :=
  ((spares_wcnt s 0 1).mono (by decide)).next (spares_usePlaces _ _) (by decide)

theorem spares_settleInsert (i : Insert) : Spares [.way, .intg] s (settleInsert s i) :=
  (((spares_placeTaken s).mono (by decide)).next (spares_setWay _ _) (by decide)).next (spares_rangeWritten _ 8 _ 4) (by decide)

theorem spares_handOff (i : Insert) : Spares [.way, .intg] s (handOff s i).1 := by
  have page := spares_handPage s i
  have settled : Spares [.way, .intg] s (settleInsert (handPage s i).1 i) := page.next (spares_settleInsert _ i) (by decide)
  have skipped : Spares [.way, .intg] s (setEvt (wcnt (handPage s i).1 2 1) Reg.wayEvt 1) :=
    (page.next (spares_wcnt _ 2 1) (by decide)).next (spares_setEvt _ 1 (by decide)) (by decide)
  rw [handOff_eq]
  split
  · simpa only using settled
  · simpa only using skipped

/-- A record's condition for an insert (R180). -/
def insertDue (f : Flight) (cs : List (Nat × Nat)) (col : Option Nat) (ff : Bool) : Bool :=
  match bitsOf (recWord f 6) 27 26 with
  | 0 => true
  | 1 => decide (cs ≠ [])
  | 2 => decide (cs = [])
  | _ => decide (col ≠ some 2) && !ff

/-- The insert of a flight whose stream is known is handed over and counted (R181, R182). -/
def wayHanded (f : Flight) (cs : List (Nat × Nat)) : State × Bool :=
  match streamNo f cs with
  | none => (s, true)
  | some n =>
    if (handOff s (insertOf f n)).2 then ((handOff s (insertOf f n)).1, true) else (mcnt (handOff s (insertOf f n)).1 5, false)

theorem wayStep_eq (f : Flight) (cs : List (Nat × Nat)) (col : Option Nat) (ff : Bool) : wayStep s f cs col ff =
    if !bitOf (recWord f 6) 28 then (s, false) else if !insertDue f cs col ff then (s, false) else wayHanded s f cs := by
  unfold wayStep insertDue wayHanded
  rfl

theorem spares_wayHanded (f : Flight) (cs : List (Nat × Nat)) : Spares [.way, .intg] s (wayHanded s f cs).1 := by
  unfold wayHanded
  split
  · exact Spares.refl _ s
  · split
    · exact spares_handOff s _
    · exact (spares_handOff s _).next (spares_mcnt _ 5) (by decide)

theorem spares_wayStep (f : Flight) (cs : List (Nat × Nat)) (col : Option Nat) (ff : Bool) :
    Spares [.way, .intg] s (wayStep s f cs col ff).1 := by
  rw [wayStep_eq]
  split
  · exact Spares.refl _ s
  · split
    · exact Spares.refl _ s
    · exact spares_wayHanded s f cs

end HandOff

end Sys2Proof.Machine
end

section
namespace Sys2Proof.Machine

/-! ### COMPOSE_START (R25, R176) -/

/-- The parts that a composition can touch, with the answers delivered before it. -/
abbrev composeUnits : List UnitName := [.draws, .intg, .lrn, .tcr, .tol, .vrd, .way, .wlt]

section Compose
variable (s : State) (f : Flight) (c : Nat)

/-- Both gates, one after the other (R172–R175). -/
def gateFirst : State × Option Nat := gate (learnStep s f c) f (contributing f c) (recWord f 4) none
def gateSecond : State × Option Nat :=
  gate (gateFirst s f c).1 f (contributing f c) (recWord f 5) (gateFirst s f c).2

/-- The colour they give (R35). -/
def gatesColour : Option Nat :=
  match worse (gateFirst s f c).2 (gateSecond s f c).2 with
  | 3 => none
  | x => some x

/-- The freshness step and the waymark step after them (R178, R180). -/
def freshDone : State × Bool := freshStep (gateSecond s f c).1 f (contributing f c) (gatesColour s f c)
def wayDone : State × Bool := wayStep (freshDone s f c).1 f (contributing f c) (gatesColour s f c) (freshDone s f c).2

/-- Every step of a composition done, a skipped insert counted. -/
def stepsDone : State := if (wayDone s f c).2 then mcnt (wayDone s f c).1 6 else (wayDone s f c).1

/-- A composition ends with the flight's verdict in the deadline buffer. -/
theorem compose_eq : ∃ v, compose s f c = rangeWritten (setFlight (stepsDone s f c) { f with
    composed := some c
    verdict := v }) 0xB (2 * f.tag) 2 := by
  unfold compose
  exact ⟨_, rfl⟩

theorem spares_wayDone : Spares [.intg, .lrn, .tol, .vrd, .way] s (wayDone s f c).1 := by
  have first : Spares [.intg, .lrn, .tol, .vrd, .way] s (gateFirst s f c).1 :=
    ((spares_learnStep s f c).mono (by decide)).next (spares_gate _ _ _ _ _) (by decide)
  have second := first.next (spares_gate _ f (contributing f c) (recWord f 5) (gateFirst s f c).2) (by decide)
  have fresh := second.next (spares_freshStep _ f (contributing f c) (gatesColour s f c)) (by decide)
  exact fresh.next (spares_wayStep _ f (contributing f c) (gatesColour s f c) (freshDone s f c).2) (by decide)

theorem spares_stepsDone : Spares [.intg, .lrn, .tol, .vrd, .way] s (stepsDone s f c) := by
  have h := spares_wayDone s f c
  unfold stepsDone
  split
  · exact h.next (spares_mcnt _ 6) (by decide)
  · exact h

theorem spares_compose : Spares [.intg, .lrn, .tol, .vrd, .way] s (compose s f c) := by
  obtain ⟨v, e⟩ := compose_eq s f c
  rw [e]
  exact ((spares_stepsDone s f c).next (spares_setFlight _ _) (by decide)).next (spares_rangeWritten _ _ _ _) (by decide)

variable {s f}

/-- A composed flight says when its composition started. -/
theorem compose_composed (hf : f ∈ s.vrd.flights) :
    ∃ g ∈ (compose s f c).vrd.flights, g.tag = f.tag ∧ g.composed = some c := by
  obtain ⟨v, e⟩ := compose_eq s f c
  obtain ⟨x, hx⟩ := (spares_stepsDone s f c).flight hf
  obtain ⟨hm, ht⟩ := flightOf_some hx
  rw [e, rangeWritten_vrd]
  exact ⟨_, mem_flights_setFlight hm ht, rfl, rfl⟩

/-- COMPOSE_START composes the descriptor whose composition is due first (R176). -/
theorem composeStart_composes (ha : awake s = true) (h : nextCompose (deliverDue s) = some f) :
    Ends .composeStart s fun t =>
      (∃ g ∈ t.vrd.flights, g.tag = f.tag ∧ g.composed = some (composeAt f)) ∧ keepsUnits composeUnits s t := by
  have hm : f ∈ (deliverDue s).vrd.flights := List.mem_of_mem_filter (minByKey_spec h).1
  have e : composeNext s = weltDropKeys (compose (deliverDue s) f (composeAt f)) f.tag f.epoch := by
    unfold composeNext
    dsimp only
    rw [h]
    rfl
  have frame : Spares composeUnits s (composeNext s) := by
    rw [e]
    exact (((spares_deliverDue s).mono (by decide)).next (spares_compose _ f _) (by decide)).next (spares_weltDropKeys _ _ _) (by decide)
  refine ends_of (core_composeStart ha) ⟨?_, fun u hu => u.same_trans (frame.units u hu) ((only_finish s _).1 u (by simp))⟩
  rw [finish_vrd, e, weltDropKeys_vrd]
  exact compose_composed (composeAt f) hm

end Compose

/-! ### VERDICT_RELEASE (R30–R33) -/

section Release
variable (s : State)

/-- A log of a unit whose registers are not the count of releases (R361). -/
theorem spares_logPut {head tail ovf size : Nat} {entry : Nat → Nat → Nat} {evt : Nat} (bit w0 w1 : Nat)
    (he : ∀ i j, entry i j ≠ Reg.vrdEvtCnt 0) (hh : head ≠ Reg.vrdEvtCnt 0) (ho : ovf ≠ Reg.vrdEvtCnt 0)
    (hv : evt ≠ Reg.vrdEvtCnt 0) : Spares [] s (logPut s head tail ovf size entry evt bit w0 w1) := by
  have put : ∀ i, Spares [] s (wr (wr (wr s (entry i 0) w0) (entry i 1) w1) head ((fget s head 15 0 + 1) % 65536)) := fun i =>
    ((spares_wr s w0 (he i 0)).next (spares_wr _ w1 (he i 1)) (by decide)).next (spares_wr _ _ hh) (by decide)
  unfold logPut
  dsimp only
  split
  · exact ((only_rcEvent s _ _ _ _).spares (by simp) (by simp)).next (spares_wr _ _ ho) (by decide)
  · split
    · exact (put _).next (spares_setEvt _ bit hv) (by decide)
    · exact put _

theorem spares_recordMiss (c kind res m wait detail : Nat) : Spares [.rgl] s (recordMiss s c kind res m wait detail) := by
  have counted : Spares [.rgl] s (setEvt (bump s (Reg.rglCnt c 5) 1) Reg.rglEvt 0) :=
    ((spares_bump s 1 (by simp [Reg.rglCnt, Reg.vrdEvtCnt]; omega)).mono (by decide)).next (spares_setEvt _ 0 (by decide)) (by decide)
  unfold recordMiss
  dsimp only
  split
  · exact counted
  · refine (counted.next (spares_setRgl _ _) (by decide)).next
      (spares_logPut _ 1 _ _ (fun i j => ?_) (by decide) (by decide) (by decide)) (by decide)
    simp only [Reg.rglMiss, Reg.vrdEvtCnt]
    omega

theorem spares_setTap (p : Nat) (x : TapPort) : Spares [.taps] s (setTap s p x) := (only_setTap s p x).spares (by simp) (by simp)

theorem spares_toPort (p : Nat) (v : TxVerdict) : Spares [.taps] s (toPort s p v) := by
  unfold toPort
  dsimp only
  split
  · exact spares_setTap s p _
  · exact (spares_bump s 1 (by simp [Reg.tapCnt, Reg.vrdEvtCnt]; omega)).mono (by decide)

theorem spares_auditTag : Spares [] s (auditTag s) := (only_auditTag s).spares (by simp) (not_mem_ledgerRegs (by decide))

variable (f : Flight)

/-- A flight due for release has been composed (R25). -/
def releaseReady : State :=
  match flightOf (deliverDue s) f.tag with
  | some g =>
    if g.composed.isNone ∧ g.notReady = false then compose (deliverDue s) g (g.acc + g.deadline - 8) else deliverDue s
  | none => deliverDue s

/-- Its verdict is read from the deadline buffer (R425). -/
def verdictRead : State :=
  ctrlRead (if f.notReady then s else readWords s 0xB 50 [2 * f.tag, 2 * f.tag + 1]) 0xB 50 [2048 + f.tag]

/-- A release with verdict v counted by what the verdict says (R37). -/
def verdictCounted (v : Nat) : State :=
  let s3 := if bitsOf v 7 4 ≠ 0 then vcnt s 1 else s
  let s4 := if bitsOf v 39 36 ≠ 0 then vcnt s3 2 else s3
  let s5 := if bitsOf v 15 12 = 4 then vcnt s4 3 else s4
  if bitsOf v 15 12 = 5 then vcnt s5 4 else s5

/-- A late verdict is a miss of its class (R360). -/
def latenessNoted (cls v : Nat) : State := if bitsOf v 7 4 ≠ 0 then recordMiss s cls 2 2 f.port f.deadline f.tag else s

/-- The tag is back in the pool, its flight out of the deadline buffer (R33). -/
def tagReturned (tag : Nat) : State :=
  { s with vrd := { s.vrd with
    flights := s.vrd.flights.filter (fun x => x.tag ≠ tag)
    taken := s.vrd.taken.filter (fun t => t ≠ tag) } }

theorem spares_releaseReady : Spares [.draws, .intg, .lrn, .tcr, .tol, .vrd, .way] s (releaseReady s f) := by
  have given : Spares [.draws, .intg, .lrn, .tcr, .tol, .vrd, .way] s (deliverDue s) := (spares_deliverDue s).mono (by decide)
  unfold releaseReady
  split
  · split
    · exact given.next (spares_compose _ _ _) (by decide)
    · exact given
  · exact given

theorem spares_verdictRead : Spares [.intg] s (verdictRead s f) := by
  unfold verdictRead
  split
  · exact spares_ctrlRead s _ _ _
  · exact (spares_readWords s _ _ _).next (spares_ctrlRead _ _ _ _) (by decide)

theorem spares_vcnt_ite {t : State} {p : Prop} [Decidable p] {i : Nat} (hi : i ≠ 0) (h : Spares [] s t) :
    Spares [] s (if p then vcnt t i else t) :=
  (h.next (spares_vcnt t hi) (by decide)).ite h

theorem spares_verdictCounted (v : Nat) : Spares [] s (verdictCounted s v) :=
  spares_vcnt_ite s (by decide) (spares_vcnt_ite s (by decide) (spares_vcnt_ite s (by decide)
    (spares_vcnt_ite s (by decide) (Spares.refl _ s))))

theorem spares_latenessNoted (cls v : Nat) : Spares [.rgl] s (latenessNoted s f cls v) :=
  (spares_recordMiss s _ _ _ _ _ _).ite (Spares.refl _ s)

/-- The verdict as it leaves: PARTIAL when its entry reads uncorrectable (R34, R425). -/
def verdictOut : Nat :=
  let v := if f.notReady then notReadyVerdict f else (fromBuffer s f.tag f.verdict).1
  if !f.notReady && (fromBuffer s f.tag f.verdict).2 then putBits (putBits v 15 12 2) 39 36 15 else v

/-- A release of class `cls` up to where its tag returns. -/
def releaseNoted (cls : Nat) : State :=
  latenessNoted (verdictCounted (vcnt (verdictRead s f) 0) (verdictOut s f)) f cls (verdictOut s f)

/-- A release from where its flight has been composed. -/
def released (cls : Nat) : State :=
  auditTag (toPort (tagReturned (releaseNoted s f cls) f.tag) f.port ⟨f.acc + f.deadline, f.acc, verdictOut s f⟩)

/-- The flight with a tag released, in a state where it has been composed. -/
def releaseTag (u : State) (tag : Nat) : State :=
  match flightOf u tag with
  | none => u
  | some g => released u g (clsOf s g.port)

theorem release_eq : release s f = releaseTag s (releaseReady s f) f.tag := by
  unfold release
  rfl

/-- The registers and parts up to where the tag returns. -/
theorem spares_releaseNoted (cls : Nat) :
    Spares [.intg, .rgl] (vcnt (verdictRead s f) 0) (releaseNoted s f cls) :=
  ((spares_verdictCounted _ _).mono (by decide)).next (spares_latenessNoted _ f cls _) (by decide)

theorem rd_releaseNoted (cls : Nat) :
    rd (releaseNoted s f cls) (Reg.vrdEvtCnt 0) = (rd s (Reg.vrdEvtCnt 0) + 1) % 2 ^ 48 := by
  rw [(spares_releaseNoted s f cls).released, vcnt, rd_bump_same, (spares_verdictRead s f).released]

theorem keeps_releaseNoted (cls : Nat) : keepsUnits [.intg, .rgl] s (releaseNoted s f cls) := fun u hu =>
  u.same_trans (((spares_verdictRead s f).mono (by decide)).units u hu) (u.same_trans ((only_vcnt _ 0).1 u (by simp))
    ((spares_releaseNoted s f cls).units u hu))

/-- The verdict leaves for its port, and the TAG ledger is audited. -/
theorem spares_released (cls : Nat) : Spares [.taps] (tagReturned (releaseNoted s f cls) f.tag) (released s f cls) :=
  (spares_toPort _ _ _).next (spares_auditTag _) (by decide)

theorem released_vrd (cls : Nat) : (released s f cls).vrd = (tagReturned (releaseNoted s f cls) f.tag).vrd :=
  (spares_released s f cls).units .vrd (by decide)

theorem rd_released (cls : Nat) :
    rd (released s f cls) (Reg.vrdEvtCnt 0) = (rd s (Reg.vrdEvtCnt 0) + 1) % 2 ^ 48 :=
  (spares_released s f cls).released.trans (rd_releaseNoted s f cls)

theorem keeps_released (cls : Nat) : keepsUnits [.intg, .rgl, .taps, .vrd] s (released s f cls) := fun u hu => by
  simp only [List.mem_cons, List.not_mem_nil, or_false, not_or] at hu
  obtain ⟨h1, h2, h3, h4⟩ := hu
  exact u.same_trans (keeps_releaseNoted s f cls u (by simp [h1, h2]))
    (u.same_trans ((only_setVrd _ _).1 u (by simpa using h4)) ((spares_released s f cls).units u (by simpa using h3)))

/-- A released tag is neither held nor in flight (R33). -/
theorem released_tag (cls : Nat) :
    f.tag ∉ (released s f cls).vrd.taken ∧ ∀ g ∈ (released s f cls).vrd.flights, g.tag ≠ f.tag := by
  rw [released_vrd]
  exact ⟨by simp [tagReturned], fun g hg => by simpa using (List.mem_filter.1 hg).2⟩

/-- The parts that a release can touch. -/
abbrev releaseUnits : List UnitName := [.draws, .intg, .lrn, .rgl, .taps, .tcr, .tol, .vrd, .way, .wlt]

variable {s f}

theorem nextRelease_due (h : nextRelease s = some f) : f ∈ s.vrd.flights ∧ f.acc + f.deadline ≤ s.cycle := by
  have hm := (minByKey_spec h).1
  simp only [List.mem_filter, Bool.and_eq_true, decide_eq_true_eq] at hm
  obtain ⟨hf, _, hd⟩ := hm
  exact ⟨hf, hd⟩

/-- The release of a flight is that of the one with its tag, composed by then. -/
theorem release_released (hf : f ∈ s.vrd.flights) : ∃ g, g.tag = f.tag ∧
    release s f = released (releaseReady s f) g (clsOf s g.port) := by
  obtain ⟨g, hg⟩ := (spares_releaseReady s f).flight hf
  refine ⟨g, (flightOf_some hg).2, ?_⟩
  rw [release_eq, releaseTag, hg]

/-- VERDICT_RELEASE returns the tag of the descriptor due, takes it out of the deadline buffer and counts it (R30, R33). -/
theorem verdictRelease_releases (ha : awake s = true) (h : nextRelease s = some f) : Ends .verdictRelease s fun t =>
    f.acc + f.deadline ≤ s.cycle ∧ f.tag ∉ t.vrd.taken ∧ (∀ g ∈ t.vrd.flights, g.tag ≠ f.tag) ∧
    rd t (Reg.vrdEvtCnt 0) = (rd s (Reg.vrdEvtCnt 0) + 1) % 2 ^ 48 ∧ keepsUnits releaseUnits s t := by
  obtain ⟨hf, hd⟩ := nextRelease_due h
  obtain ⟨g, ht, eg⟩ := release_released hf
  have ready := spares_releaseReady s f
  have e : releaseNext s = weltDropKeys (released (releaseReady s f) g (clsOf s g.port)) f.tag f.epoch := by
    unfold releaseNext
    rw [h, ← eg]
  have dropped := spares_weltDropKeys (released (releaseReady s f) g (clsOf s g.port)) f.tag f.epoch
  obtain ⟨h1, h2⟩ := released_tag (releaseReady s f) g (clsOf s g.port)
  refine ends_of (core_verdictRelease ha) ⟨hd, ?_, ?_, ?_, fun u hu => ?_⟩
  · rw [finish_vrd, e, weltDropKeys_vrd, ← ht]
    exact h1
  · rw [finish_vrd, e, weltDropKeys_vrd, ← ht]
    exact h2
  · rw [rd_finish_below s (belowCounts_vrdEvtCnt (by decide)), e, dropped.released, rd_released, ready.released]
  · rw [e]
    refine u.same_trans ((ready.mono (by decide)).units u hu) (u.same_trans (keeps_released _ g _ u ?_)
      (u.same_trans ((dropped.mono (by decide)).units u hu) ((only_finish s _).1 u (by simp))))
    exact fun hm => hu ((by decide : [UnitName.intg, .rgl, .taps, .vrd] ⊆ releaseUnits) hm)

end Release

/-! ### Answers, composition and release (R22, R25, R33, R42) -/

/-- Settles O12: an answer is given to the flight of its tag or counted late; the steps of a composition and of a release spare
the tags in flight and the count of releases, so the flight due is still there at their end and is counted once; the FAULT bits
written are cleared at the commit. -/
theorem answersCompositionAndReleaseFollowTheTag : Obligations.AnswersCompositionAndReleaseFollowTheTag := by
  unfold Obligations.AnswersCompositionAndReleaseFollowTheTag
  intro s ha
  exact ⟨fun b _ _ _ _ _ hd hw hf => ternaryAnswer_goes ha b hd hw hf, fun _ h => composeStart_composes ha h,
    fun _ h => verdictRelease_releases ha h, fun _ _ hw => ledgerFaultClear_clears hw⟩

end Sys2Proof.Machine
end

section
namespace Sys2Proof.Machine

/-! ### The checkpoint store: its writes, records and word accesses (R80, R503–R505, R507) -/

section Units
variable (s : State)

theorem only_setNvc (x : NvcSt) : Only [.nvc] [] s { s with nvc := x } :=
  only_units (fun u hu => by cases u <;> simp [UnitName.same] at *) rfl rfl

theorem only_setIntg (x : IntSt) : Only [.intg] [] s { s with intg := x } :=
  only_units (fun u hu => by cases u <;> simp [UnitName.same] at *) rfl rfl

@[simp] theorem portCount_nvc (m : Requester) : (portCount s m).nvc = s.nvc := portCount_same s m _ (wr_nvc s)
@[simp] theorem portCount_lcs (m : Requester) : (portCount s m).lcs = s.lcs := portCount_same s m _ (wr_lcs s)

theorem only_progSet (prog total n pos : Nat) (active : Bool) :
    Only [] [prog, total] s (progSet s prog total n pos active) :=
  ((only_wr s total n).trans (only_wr _ prog _)).mono (by simp) (by simp)

@[simp] theorem progSet_nvc (prog total n pos : Nat) (active : Bool) : (progSet s prog total n pos active).nvc = s.nvc :=
  (only_progSet s prog total n pos active).1 .nvc (by simp)

/-- A bit just written into a register. -/
theorem flag_fput_same (o : Nat) {b : Nat} (hb : b < 64) (v : Nat) : flag (fput s o b b v) o b = bitOf v 0 := by
  rw [flag, rd_fput _ _ _ _ _ (le_refl b) hb, bitOf_putBits _ _ _ _ _ (le_refl b), if_pos ⟨le_refl b, le_refl b⟩, Nat.sub_self]

/-- Writing one field of a register leaves the bits outside it alone. -/
theorem flag_fput_apart (o : Nat) {hi lo b : Nat} (h : lo ≤ hi) (hh : hi < 64) (hb : b < lo ∨ hi < b) (v : Nat) :
    flag (fput s o hi lo v) o b = flag s o b := by
  rw [flag, flag, rd_fput _ _ _ _ _ h hh, bitOf_putBits _ _ _ _ _ h, if_neg (by omega)]

end Units

/-! ### The registers above the endpoints' counters of requests -/

/-- Neither the count of an access nor a message reaches a register above the endpoints' counters of requests. -/
def aboveCounts (o : Nat) : Prop := Reg.hstPcieCnt 1 3 < o

section AboveCounts
variable (s : State) (m : Requester) {o : Nat} (h : aboveCounts o)
include h

theorem aboveCounts_not_mem_msgRegs : o ∉ msgRegs := by
  simp [msgRegs, aboveCounts, Reg.hstPcieCnt] at *
  omega

theorem aboveCounts_not_mem_portRegs : o ∉ portRegs m := by
  cases m <;> simp [portRegs, fnOf, aboveCounts, Reg.hstPcieCnt] at * <;> omega

theorem rd_portCount_above : rd (portCount s m) o = rd s o :=
  (only_portCount s m).2.1 o (aboveCounts_not_mem_msgRegs h) (aboveCounts_not_mem_portRegs m h)

theorem rd_finish_above (t : State) : rd (finish s t) o = rd t o := rd_finish s t (aboveCounts_not_mem_msgRegs h)

end AboveCounts

/-- The progress registers of checkpoint writes (R14). -/
abbrev ckptRegs : List Nat := [Reg.nvcCkptProg, Reg.nvcCkptTotal]

/-! ### Checkpoint writes and records (R434, R503–R505) -/

section Records
variable (s : State)

/-- A checkpoint write joins the queue; its bytes reach the store later (R504). -/
theorem ckptStart_nvc (kind addr words : Nat) (bs : List Byte) : (ckptStart s kind addr words bs).nvc =
    { s.nvc with ops := s.nvc.ops ++ [⟨kind, addr, bs, words, s.cycle⟩] } := by
  unfold ckptStart
  dsimp only
  split <;> simp

theorem only_ckptStart (kind addr words : Nat) (bs : List Byte) :
    Only [.nvc] ckptRegs s (ckptStart s kind addr words bs) := by
  have progress : Only [.nvc] ckptRegs s
      (if s.nvc.ops = [] then progSet s Reg.nvcCkptProg Reg.nvcCkptTotal words 0 true else s) := by
    split
    · exact (only_progSet s _ _ _ _ _).mono (by simp) (List.Subset.refl _)
    · exact Only.refl _ _ s
  exact progress.more (only_setNvc _ _) (List.Subset.refl _) (by simp)

/-- A time-state record is queued at its slot of the ring, and SEQ goes on (R505). -/
theorem recordTime_nvc (origin : Bool) : (recordTime s origin).nvc =
    { s.nvc with
      ops := s.nvc.ops ++ [⟨2, ringSlot s.nvc.seq, timeRecord s false origin, 32, s.cycle⟩]
      seq := (s.nvc.seq + 1) % 2 ^ 32
      lastRec := nowNs s } := by
  unfold recordTime
  dsimp only
  rw [ckptStart_nvc]

theorem only_recordTime (origin : Bool) : Only [.nvc] ckptRegs s (recordTime s origin) :=
  (only_ckptStart s 2 (ringSlot s.nvc.seq) 32 _).more (only_setNvc _ _) (List.Subset.refl _) (by simp)

/-- TIME_STATE_RECORD writes a record when its period is over (R505). -/
theorem timeStateRecord_queues (ha : awake s = true) (hs : s.pwr.st.active = true) (hp : fget s Reg.nvcCkptCtrl 11 0 ≠ 0)
    (hd : s.nvc.lastRec + fget s Reg.nvcCkptCtrl 11 0 * 1000000000 ≤ nowNs s) : Ends .timeStateRecord s fun t =>
      t.nvc.seq = (s.nvc.seq + 1) % 2 ^ 32 ∧ t.nvc.lastRec = nowNs s ∧ t.nvc.mem = s.nvc.mem ∧
      (∃ o, t.nvc.ops = s.nvc.ops ++ [o] ∧ o.kind = 2 ∧ o.addr = ringSlot s.nvc.seq ∧ o.total = 32) ∧
      Only [.nvc] ckptRegs s t := by
  have e : periodicRecord s = recordTime s false := if_pos ⟨hs, hp, hd⟩
  refine ends_of (core_timeStateRecord ha) ?_
  rw [e, finish_nvc, recordTime_nvc]
  exact ⟨rfl, rfl, rfl, ⟨_, rfl, rfl, rfl, rfl⟩, (only_recordTime s false).finished⟩

/-- CKPT_GO takes the register's fields and writes a record now (R505, R514). -/
theorem ckptGo_queues (m : Requester) (v : BitVec 32) (hw : mayWrite s m Reg.nvcCkptCtrl 4 = true)
    (hv : bitOf v.toNat 31 = true) : Ends (.ckptGo m v) s fun t =>
      t.nvc.seq = (s.nvc.seq + 1) % 2 ^ 32 ∧ t.nvc.mem = s.nvc.mem ∧
      (∃ o, t.nvc.ops = s.nvc.ops ++ [o] ∧ o.kind = 2 ∧ o.addr = ringSlot s.nvc.seq) ∧
      Only [.nvc] ([Reg.nvcCkptCtrl, Reg.nvcCkptProg, Reg.nvcCkptTotal] ++ errRegs ++ portRegs m) s t := by
  have committed : Only [] (Reg.nvcCkptCtrl :: errRegs) (portCount s m)
      (fput (commitFields (portCount s m) m.code Reg.nvcCkptCtrl v.toNat) Reg.nvcCkptCtrl 31 31 0) :=
    (only_commitFields _ _ _ _).fput _ _ _ (by simp)
  have e : ckptGo (portCount s m) m.code v.toNat =
      recordTime (fput (commitFields (portCount s m) m.code Reg.nvcCkptCtrl v.toNat) Reg.nvcCkptCtrl 31 31 0) false :=
    if_pos hv
  have hn := (committed.1 .nvc (by simp)).trans (portCount_nvc s m)
  refine ends_of (exec_ckptGo v hw) ?_
  rw [e, finish_nvc, recordTime_nvc, hn]
  refine ⟨rfl, rfl, ⟨_, rfl, rfl, rfl⟩, Only.counted ((committed.trans (only_recordTime _ false)).mono (by simp) ?_)⟩
  simp [errRegs]

/-- INTEGRITY_RECORD_WRITE queues the record after a change (R434). -/
theorem integrityRecordWrite_queues (ha : awake s = true) (hd : s.intg.recordDirty = true) :
    Ends .integrityRecordWrite s fun t =>
      t.intg.recordDirty = false ∧ (∃ o, t.nvc.ops = s.nvc.ops ++ [o] ∧ o.kind = 1) ∧ t.nvc.mem = s.nvc.mem ∧
      Only [.nvc, .intg] ckptRegs s t := by
  have e : writeRecord s = ckptStart { s with intg := { s.intg with recordDirty := false } } 1 0x210000 4096 [] :=
    if_pos ⟨hd, ha⟩
  have frame := only_ckptStart { s with intg := { s.intg with recordDirty := false } } 1 0x210000 4096 []
  refine ends_of (core_integrityRecordWrite ha) ?_
  rw [e, finish_nvc, finish_intg, ckptStart_nvc, frame.1 .intg (by simp)]
  exact ⟨rfl, ⟨_, rfl, rfl⟩, rfl, (((only_setIntg s _).trans frame).mono (by simp) (by simp)).finished⟩

end Records

/-! ### Word accesses (R504, R507, R511) -/

section Accesses
variable (s : State)

/-- A word access joins the queue; the store is not touched yet (R504). -/
theorem nvcStart_nvc (a : NvcAcc) : ∃ c, (nvcStart s a).nvc =
    { s.nvc with
      acc := s.nvc.acc ++ [a]
      accAt := c } := by
  unfold nvcStart
  dsimp only
  split <;> split <;> exact ⟨_, by simp; rfl⟩

theorem only_nvcStart (a : NvcAcc) :
    Only [.nvc] ((if a.host then [Reg.nvcAccCmd] else []) ++ ckptRegs) s (nvcStart s a) := by
  have progress : Only [.nvc] ckptRegs s (if a.write && s.nvc.ops.isEmpty && s.nvc.acc.isEmpty && s.nvc.wipeAt.isNone then
      progSet s Reg.nvcCkptProg Reg.nvcCkptTotal 1 0 true else s) := by
    split
    · exact (only_progSet s _ _ _ _ _).mono (by simp) (List.Subset.refl _)
    · exact Only.refl _ _ s
  unfold nvcStart
  dsimp only
  split
  · exact (progress.trans ((only_fput _ _ _ _ _).trans (only_setNvc _ _))).mono (by simp) (by simp)
  · exact progress.more (only_setNvc _ _) (List.Subset.refl _) (by simp)

theorem flag_nvcStart_busy {a : NvcAcc} (h : a.host = true) : flag (nvcStart s a) Reg.nvcAccCmd 29 = true := by
  unfold nvcStart
  dsimp only
  rw [if_pos h, flag_congr ((only_setNvc _ _).2.1 _ (by decide) (by decide))]
  exact flag_fput_same _ _ (by decide) 1

theorem only_nvcPut (a : Nat) (bs : List Byte) : Only [.nvc] [] s (nvcPut s a bs) := only_setNvc s _

/-- The header's INVALID_WHY is written, and stays for copies made until the next start (R80, R503). -/
def cfgMarked (why : Nat) : State :=
  let s1 := fput (nvcPut s 0x20000C (leBytes 4 why)) Reg.imgStat 24 24 0
  { s1 with nvc := { s1.nvc with why := why } }

/-- The write of the header's word in the store, which no requester waits for (R504). -/
def cfgWord (why : Nat) : NvcAcc :=
  ⟨false, true, 0x200008, nvcWord (fput (nvcPut s 0x20000C (leBytes 4 why)) Reg.imgStat 24 24 0) 0x200008 + why * 2 ^ 32⟩

theorem cfgInvalidate_eq (why : Nat) : cfgInvalidate s why = nvcStart (cfgMarked s why) (cfgWord s why) := rfl

theorem only_cfgMarked (why : Nat) : Only [.nvc] [Reg.imgStat] s (cfgMarked s why) :=
  ((only_nvcPut s 0x20000C (leBytes 4 why)).trans (only_fput _ Reg.imgStat 24 24 0)).more (only_setNvc _ _) (by simp) (by simp)

theorem cfgMarked_mem (why : Nat) : (cfgMarked s why).nvc.mem = memPuts s.nvc.mem 0x20000C (leBytes 4 why) := by
  simp [cfgMarked, nvcPut]

theorem flag_cfgMarked (why : Nat) : flag (cfgMarked s why) Reg.imgStat 24 = false :=
  flag_fput_same (nvcPut s 0x20000C (leBytes 4 why)) Reg.imgStat (by decide) 0

/-- The configuration copy is invalidated by its header's INVALID_WHY, and by no other byte of the store (R80, R503). -/
theorem cfgInvalidate_mem (why : Nat) :
    (cfgInvalidate s why).nvc.mem = memPuts s.nvc.mem 0x20000C (leBytes 4 why) := by
  obtain ⟨c, h⟩ := nvcStart_nvc (cfgMarked s why) (cfgWord s why)
  rw [cfgInvalidate_eq, h, ← cfgMarked_mem]

theorem only_cfgStart (why : Nat) : Only [.nvc] ckptRegs (cfgMarked s why) (cfgInvalidate s why) :=
  only_nvcStart (cfgMarked s why) (cfgWord s why)

theorem only_cfgInvalidate (why : Nat) : Only [.nvc] (Reg.imgStat :: ckptRegs) s (cfgInvalidate s why) :=
  ((only_cfgMarked s why).trans (only_cfgStart s why)).mono (by simp) (by simp)

theorem flag_cfgInvalidate (why : Nat) : flag (cfgInvalidate s why) Reg.imgStat 24 = false :=
  (flag_congr ((only_cfgStart s why).rd_eq (belowCounts_of_lt (by decide)) (by decide)) 24).trans (flag_cfgMarked s why)

theorem cfgWhy_congr {s t : State} (h : t.nvc = s.nvc) : cfgWhy t = cfgWhy s := by rw [cfgWhy, cfgWhy, nvcWord, nvcWord, h]

/-- The header holds why the copy is invalid (R503). -/
theorem cfgWhy_cfgInvalidate (why : Nat) : cfgWhy (cfgInvalidate s why) = why % 256 ^ 4 := by
  rw [cfgWhy, nvcWord, cfgInvalidate_mem, memBytes_memPuts _ _ _ (by simp), List.take_of_length_le (by simp), ofLe_leBytes]

/-- RELOAD_NEXT marks the configuration copy invalid (R80). -/
theorem reloadNext_invalidates (m : Requester) (hw : mayWrite s m Reg.imgCtrl 4 = true) : Ends (.reloadNext m) s fun t =>
    cfgWhy t = 1 ∧ flag t Reg.imgStat 24 = false ∧
    (∀ a, a < 0x20000C ∨ 0x200010 ≤ a → memByte t.nvc.mem a = memByte s.nvc.mem a) ∧
    Only [.nvc] ([Reg.imgStat, Reg.nvcCkptProg, Reg.nvcCkptTotal] ++ portRegs m) s t := by
  have e : imgCtrlWrite (portCount s m) 2 = cfgInvalidate (portCount s m) 1 := rfl
  refine ends_of (exec_reloadNext hw) ?_
  rw [e, cfgWhy_congr (finish_nvc _ _), flag_congr (rd_finish_below s (belowCounts_of_lt (by decide))), finish_nvc]
  refine ⟨cfgWhy_cfgInvalidate _ 1, flag_cfgInvalidate _ 1, fun a ha => ?_, (only_cfgInvalidate _ 1).counted⟩
  rw [cfgInvalidate_mem, portCount_nvc]
  exact memByte_memPuts_out _ _ _ (by simpa using ha)

/-- The first word access leaves the queue; BUSY falls with the last access that a requester waits for (R507). -/
def accTaken (rest : List NvcAcc) : State :=
  let s1 := { s with nvc := { s.nvc with
    acc := rest
    accAt := s.cycle } }
  if rest.any (fun x => x.host) then s1 else fput s1 Reg.nvcAccCmd 29 29 0

/-- The word of a write access reaches the store (R504). -/
def accWritten (a : NvcAcc) (rest : List NvcAcc) : State :=
  setEvt (nvcPut (accTaken s rest) a.addr (leBytes 8 a.data)) Reg.nvcEvt 0

theorem accTaken_nvc (rest : List NvcAcc) : (accTaken s rest).nvc =
    { s.nvc with
      acc := rest
      accAt := s.cycle } := by
  unfold accTaken
  dsimp only
  split <;> simp

theorem only_accTaken (rest : List NvcAcc) : Only [.nvc] [Reg.nvcAccCmd] s (accTaken s rest) := by
  unfold accTaken
  dsimp only
  split
  · exact (only_setNvc s _).mono (by simp) (by simp)
  · exact (only_setNvc s _).trans (only_fput _ _ _ _ _)

theorem only_accWritten (a : NvcAcc) (rest : List NvcAcc) :
    Only [.nvc] [Reg.nvcAccCmd, Reg.nvcEvt] s (accWritten s a rest) :=
  (((only_accTaken s rest).trans (only_nvcPut _ _ _)).trans (only_setEvt _ _ _)).mono (by simp) (by simp)

theorem accWritten_nvc (a : NvcAcc) (rest : List NvcAcc) : (accWritten s a rest).nvc =
    { s.nvc with
      acc := rest
      accAt := s.cycle
      mem := memPuts s.nvc.mem a.addr (leBytes 8 a.data) } := by
  rw [accWritten, setEvt_nvc, nvcPut, accTaken_nvc]

variable {s} {a : NvcAcc} {rest : List NvcAcc}

/-- The first access ends when its time is over and no wipe is under way (R504, R511). -/
theorem nvcAccDone_due (h : s.nvc.acc = a :: rest) (hd : s.nvc.accAt + (if a.write then 200 else 16) ≤ s.cycle)
    (hw : s.nvc.wipeAt = none) : nvcAccDone s =
      if a.write then
        (if s.nvc.ops.isEmpty then progSet (accWritten s a rest) Reg.nvcCkptProg Reg.nvcCkptTotal 1 1 false
          else accWritten s a rest)
      else wr (accTaken s rest) Reg.nvcAccData (ofLe (memBytes s.nvc.mem a.addr 8)) := by
  have open_ : ¬(s.cycle < s.nvc.accAt + (if a.write then 200 else 16) ∨
      (s.nvc.wipeAt.isSome ∧ 0x230000 ≤ a.addr ∧ a.addr < 0x240000)) := by
    rw [hw]
    simpa using hd
  rw [nvcAccDone, h]
  dsimp only
  have idle : (s.nvc.ops.isEmpty && s.nvc.wipeAt.isNone) = s.nvc.ops.isEmpty := by simp [hw]
  rw [if_neg open_, idle]
  rfl

theorem ofLe_lt (bs : List Byte) : ofLe bs < 256 ^ bs.length := by
  induction bs with
  | nil => simp [ofLe]
  | cons b t ih =>
    have hb := b.isLt
    simp only [ofLe, List.length_cons, Nat.pow_succ]
    omega

/-- A read puts the word of the store into NVC_ACC_DATA (R507). -/
theorem nvcAccDone_read (h : s.nvc.acc = a :: rest) (hd : s.nvc.accAt + (if a.write then 200 else 16) ≤ s.cycle)
    (hw : s.nvc.wipeAt = none) (ha : a.write = false) :
    (nvcAccDone s).nvc.acc = rest ∧ rd (nvcAccDone s) Reg.nvcAccData = ofLe (memBytes s.nvc.mem a.addr 8) ∧
      (nvcAccDone s).nvc.mem = s.nvc.mem ∧ Only [.nvc] [Reg.nvcAccCmd, Reg.nvcAccData] s (nvcAccDone s) := by
  rw [nvcAccDone_due h hd hw, if_neg (by simp [ha])]
  refine ⟨by rw [wr_nvc, accTaken_nvc], ?_, by rw [wr_nvc, accTaken_nvc], (only_accTaken s rest).trans (only_wr _ _ _)⟩
  rw [rd_wr_same]
  exact Nat.mod_eq_of_lt ((ofLe_lt _).trans_eq (by simp [memBytes]))

/-- A write puts its word into the store, and latches the end of a checkpoint write (R504, R507). -/
theorem nvcAccDone_write (h : s.nvc.acc = a :: rest) (hd : s.nvc.accAt + (if a.write then 200 else 16) ≤ s.cycle)
    (hw : s.nvc.wipeAt = none) (ha : a.write = true) :
    (nvcAccDone s).nvc = (accWritten s a rest).nvc ∧ flag (nvcAccDone s) Reg.nvcEvt 0 = true ∧
      Only [.nvc] ([Reg.nvcAccCmd, Reg.nvcEvt] ++ ckptRegs) s (nvcAccDone s) := by
  have latched : flag (accWritten s a rest) Reg.nvcEvt 0 = true := flag_setEvt_same _ _ _ (by decide)
  rw [nvcAccDone_due h hd hw, if_pos ha]
  split
  · have frame := only_progSet (accWritten s a rest) Reg.nvcCkptProg Reg.nvcCkptTotal 1 1 false
    exact ⟨progSet_nvc _ _ _ _ _ _, (flag_congr (frame.2.1 _ (by decide) (by decide)) 0).trans latched,
      ((only_accWritten s a rest).trans frame).mono (by simp) (by simp)⟩
  · exact ⟨rfl, latched, (only_accWritten s a rest).mono (by simp) (by simp)⟩

theorem nvcAccDone_ends (h : s.nvc.acc = a :: rest) (hd : s.nvc.accAt + (if a.write then 200 else 16) ≤ s.cycle)
    (hw : s.nvc.wipeAt = none) :
      (nvcAccDone s).nvc.acc = rest ∧
      (a.write = false → rd (nvcAccDone s) Reg.nvcAccData = ofLe (memBytes s.nvc.mem a.addr 8) ∧
        (nvcAccDone s).nvc.mem = s.nvc.mem) ∧
      (a.write = true → memBytes (nvcAccDone s).nvc.mem a.addr 8 = leBytes 8 a.data ∧
        (∀ b, b < a.addr ∨ a.addr + 8 ≤ b → memByte (nvcAccDone s).nvc.mem b = memByte s.nvc.mem b) ∧
        flag (nvcAccDone s) Reg.nvcEvt 0 = true) ∧
      Only [.nvc] [Reg.nvcAccCmd, Reg.nvcAccData, Reg.nvcEvt, Reg.nvcCkptProg, Reg.nvcCkptTotal] s (nvcAccDone s) := by
  cases ha : a.write with
  | false =>
    obtain ⟨hacc, hdata, hmem, frame⟩ := nvcAccDone_read h hd hw ha
    exact ⟨hacc, fun _ => ⟨hdata, hmem⟩, nofun, frame.mono (by simp) (by simp)⟩
  | true =>
    obtain ⟨hn, hflag, frame⟩ := nvcAccDone_write h hd hw ha
    rw [hn, accWritten_nvc]
    refine ⟨rfl, nofun, fun _ => ⟨?_, fun b hb => ?_, hflag⟩, frame.mono (by simp) (by simp)⟩
    · rw [memBytes_memPuts _ _ _ (by simp), List.take_of_length_le (by simp)]
    · exact memByte_memPuts_out _ _ _ (by simpa using hb)

variable {m : Requester}

theorem nvcOpen_portCount (a : Nat) : nvcOpen (portCount s m) m a = nvcOpen s m a := by
  unfold nvcOpen benchSecure
  rw [flag_congr (rd_portCount_above s m (by simp [aboveCounts, Reg.hstPcieCnt, Reg.seqCtrl])), portCount_lcs]

theorem fget_nvcAccAddr_portCount : fget (portCount s m) Reg.nvcAccAddr 21 3 = fget s Reg.nvcAccAddr 21 3 :=
  fget_congr (rd_portCount_above s m (by simp [aboveCounts, Reg.hstPcieCnt, Reg.nvcAccAddr])) 21 3

/-- NVC_ACC_CMD runs the access of the operation written (R507). -/
theorem exec_nvcAccess (write : Bool) (hw : mayWrite s m Reg.nvcAccCmd 4 = true) :
    exec (if write then .nvcAccWrite m else .nvcAccRead m) s = .next (finish s (nvcAccess (portCount s m) m write)) := by
  cases write with
  | false => exact exec_nvcAccRead hw
  | true => exact exec_nvcAccWrite hw

/-- An access to an open area is queued, and BUSY rises (R507). -/
theorem nvcAccess_open (write : Bool) (hw : mayWrite s m Reg.nvcAccCmd 4 = true)
    (ho : nvcOpen s m (fget s Reg.nvcAccAddr 21 3 * 8) = true) :
    Ends (if write then .nvcAccWrite m else .nvcAccRead m) s fun t =>
      t.nvc.acc = s.nvc.acc ++ [⟨true, write, fget s Reg.nvcAccAddr 21 3 * 8, rd s Reg.nvcAccData⟩] ∧
      flag t Reg.nvcAccCmd 29 = true ∧ t.nvc.mem = s.nvc.mem ∧
      Only [.nvc] ([Reg.nvcAccCmd, Reg.nvcCkptProg, Reg.nvcCkptTotal] ++ portRegs m) s t := by
  have e : nvcAccess (portCount s m) m write =
      nvcStart (portCount s m) ⟨true, write, fget s Reg.nvcAccAddr 21 3 * 8, rd s Reg.nvcAccData⟩ := by
    rw [nvcAccess, fget_nvcAccAddr_portCount, nvcOpen_portCount, ho,
      rd_portCount_above s m (by simp [aboveCounts, Reg.hstPcieCnt, Reg.nvcAccData])]
    rfl
  obtain ⟨c, hn⟩ := nvcStart_nvc (portCount s m) ⟨true, write, fget s Reg.nvcAccAddr 21 3 * 8, rd s Reg.nvcAccData⟩
  refine ends_of (exec_nvcAccess write hw) ?_
  rw [e, finish_nvc, hn, portCount_nvc,
    flag_congr (rd_finish_above s (by simp [aboveCounts, Reg.hstPcieCnt, Reg.nvcAccCmd]) _)]
  exact ⟨rfl, flag_nvcStart_busy _ rfl, rfl, (only_nvcStart (portCount s m) _).counted⟩

/-- An access to a closed area is denied: a read gives zero, and neither changes the store (R507). -/
theorem nvcAccess_closed (hw : mayWrite s m Reg.nvcAccCmd 4 = true)
    (ho : nvcOpen s m (fget s Reg.nvcAccAddr 21 3 * 8) = false) :
    (Ends (.nvcAccRead m) s fun t =>
      flag t Reg.nvcEvt 3 = true ∧ Only [] ([Reg.nvcAccData, Reg.nvcEvt] ++ portRegs m) s t) ∧
    (Ends (.nvcAccWrite m) s fun t => flag t Reg.nvcEvt 3 = true ∧ Only [] (Reg.nvcEvt :: portRegs m) s t) := by
  have e (write : Bool) : nvcAccess (portCount s m) m write =
      setEvt (if write then portCount s m else wr (portCount s m) Reg.nvcAccData 0) Reg.nvcEvt 3 := by
    rw [nvcAccess, fget_nvcAccAddr_portCount, nvcOpen_portCount, ho]
    rfl
  have denied (t : State) : flag (finish s (setEvt t Reg.nvcEvt 3)) Reg.nvcEvt 3 = true :=
    (flag_congr (rd_finish_above s (by simp [aboveCounts, Reg.hstPcieCnt, Reg.nvcEvt]) _) 3).trans
      (flag_setEvt_same _ _ _ (by decide))
  constructor
  · refine ends_of (exec_nvcAccess false hw) ?_
    rw [e false]
    exact ⟨denied _, ((only_wr _ Reg.nvcAccData 0).trans (only_setEvt _ Reg.nvcEvt 3)).counted⟩
  · refine ends_of (exec_nvcAccess true hw) ?_
    rw [e true]
    exact ⟨denied _, (only_setEvt _ Reg.nvcEvt 3).counted⟩

end Accesses

/-- Settles O17: each record and word access by what it makes of the store's queues, and a word access at its end by what it makes
of the store. -/
theorem checkpointStoreRecordsAndAccess : Obligations.CheckpointStoreRecordsAndAccess := by
  unfold Obligations.CheckpointStoreRecordsAndAccess
  intro s ha
  exact ⟨timeStateRecord_queues s ha, fun m v => ckptGo_queues s m v, integrityRecordWrite_queues s ha,
    fun m => reloadNext_invalidates s m, fun _ _ => nvcAccDone_ends,
    fun m hw => ⟨fun ho write => nvcAccess_open write hw ho, nvcAccess_closed hw⟩⟩

end Sys2Proof.Machine
end

section
namespace Sys2Proof.Machine

/-! ### The loader: from the ILT to an admitted image (R51–R53, R66, R73) -/

/-- The progress registers of the loader (R71). -/
abbrev loadRegs : List Nat := [Reg.imgProg, Reg.imgTotal]

section LoaderParts
variable (s : State)

theorem only_setImg (x : ImgSt) : Only [.img] [] s { s with img := x } :=
  only_units (fun u hu => by cases u <;> simp [UnitName.same] at *) rfl rfl

theorem only_emit (o : Out) : Only [] [] s (emit s o) := only_setOut s _

@[simp] theorem progSet_img (prog total n pos : Nat) (active : Bool) : (progSet s prog total n pos active).img = s.img :=
  (only_progSet s prog total n pos active).1 .img (by simp)

theorem progOn_progSet (prog total n pos : Nat) (active : Bool) :
    progOn (progSet s prog total n pos active) prog = active := by
  rw [progSet, progOn_wr]

theorem only_imgPhase (p : ImgPhase) : Only [.img] [] s (imgPhase s p) := only_setImg s _

theorem only_imgResult (c r : Nat) : Only [] [Reg.imgStat] s (imgResult s c r) := by
  unfold imgResult
  split <;> exact only_fput s _ _ _ _

/-- A copy's result stands in its own field of IMG_STAT (R83). -/
theorem fget_imgResult (c : Nat) {r : Nat} (hr : r < 16) :
    fget (imgResult s c r) Reg.imgStat (if c = 1 then 23 else 19) (if c = 1 then 20 else 16) = r := by
  unfold imgResult
  split <;> exact (fget_fput_same s _ _ _ r (by decide) (by decide)).trans (Nat.mod_eq_of_lt hr)

theorem only_imgFail : Only [.img] [Reg.imgStat, Reg.imgProg] s (imgFail s) :=
  (((only_wr s Reg.imgProg _).trans (only_fput _ Reg.imgStat 30 30 1)).trans (only_imgPhase _ .failed)).mono (by simp) (by simp)

/-- No image passes: the loader stays in FAIL (R82). -/
theorem imgFail_img : (imgFail s).img = { s.img with phase := .failed } := by simp [imgFail, imgPhase]

/-- IMG_STAT with FAIL set (R82, R83). -/
theorem rd_imgFail : rd (imgFail s) Reg.imgStat = putBits (rd s Reg.imgStat) 30 30 1 := by
  rw [imgFail, (only_imgPhase _ .failed).rd_eq (belowCounts_of_lt (by decide)) (by simp), rd_fput _ _ _ _ _ (by decide) (by decide),
    rd_wr_ne _ _ (by decide)]

theorem flag_imgFail : flag (imgFail s) Reg.imgStat 30 = true := by
  rw [flag, rd_imgFail, bitOf_putBits _ _ _ _ _ (by decide)]
  rfl

theorem fget_imgFail {hi : Nat} (lo : Nat) (h : hi < 30) : fget (imgFail s) Reg.imgStat hi lo = fget s Reg.imgStat hi lo := by
  rw [fget, rd_imgFail, bitsOf_putBits_apart _ _ _ _ _ _ (by decide) (Or.inl h), fget]

theorem flag_imgFail_apart {b : Nat} (h : b ≠ 30) : flag (imgFail s) Reg.imgStat b = flag s Reg.imgStat b := by
  rw [flag, rd_imgFail, bitOf_putBits _ _ _ _ _ (by decide), if_neg (by omega), flag]

theorem only_flashEntry : Only [] [] s (flashEntry s) := by
  unfold flashEntry
  dsimp only
  split
  · exact (only_emit s _).trans (only_emit _ _)
  · exact Only.refl _ _ s

theorem only_flashFetch (c len : Nat) : Only [] [] s (flashFetch s c len) := by
  unfold flashFetch
  dsimp only
  split <;> exact only_emit s _

theorem only_xspiRelease : Only [.img] [] s (xspiRelease s) := by
  unfold xspiRelease
  split
  · exact Only.refl _ _ s
  · exact (only_setImg s _).trans (only_emit _ _)

theorem only_flashIlt : Only [.img] [] s (flashIlt s) :=
  ((only_xspiRelease s).trans (only_emit _ _)).trans (only_emit _ _)

theorem only_tryCopy (c len : Nat) (last : Bool) : Only [.img] loadRegs s (tryCopy s c len last) :=
  ((((only_flashFetch s c len).trans (only_setImg _ _)).trans (only_imgPhase _ _)).trans
    (only_progSet _ Reg.imgProg Reg.imgTotal (2 * len) 0 true)).mono (by simp) (by simp)

/-- The loader turns to a copy and fetches it (R53, R71). -/
theorem tryCopy_img (c len : Nat) (last : Bool) : (tryCopy s c len last).img =
    { s.img with
      copy := c
      last := last
      fetchAt := s.cycle
      phase := .fetching } := by
  simp [tryCopy, imgPhase]

theorem progOn_tryCopy (c len : Nat) (last : Bool) : progOn (tryCopy s c len last) Reg.imgProg = true := progOn_progSet _ _ _ _ _ _

/-! ### ILT_READ (R51–R53) -/

/-- The ILT copy in use, its flash set up for the reads (R51, R52). -/
def iltTaken (a : List Byte) : State :=
  flashEntry { flashIlt s with img := { (flashIlt s).img with
    ilt := padTo a 64
    iltAt := 0 } }

theorem only_iltTaken (a : List Byte) : Only [.img] [] s (iltTaken s a) :=
  (((only_flashIlt s).trans (only_setImg _ _)).trans (only_flashEntry _)).mono (by simp) (by simp)

theorem padTo_length {bs : List Byte} {n : Nat} (h : bs.length = n) : padTo bs n = bs := by
  simp [padTo, slice, ← h]

theorem iltTaken_ilt {a : List Byte} (h : a.length = 64) : (iltTaken s a).img.ilt = a := by
  rw [iltTaken, (only_flashEntry _).1 .img (by simp)]
  exact padTo_length h

/-- The valid copy 0 with the higher SEQ, or with the only SEQ, is used, and its first image is tried first (R51, R53). -/
theorem iltRead_first {a b : List Byte} (hs : s.pwr.st = .woken) (hc : s.pwr.warmStart = false) (hp : s.img.phase = .before)
    (hw : wipeFirst s = false) (ha : iltOk a = true) (hl : a.length = 64) (hb : iltOk b = false ∨ fieldAt b 4 4 ≤ fieldAt a 4 4)
    (hn : fieldAt a 12 4 ≠ 0) (hf : bitOf (fieldAt a 24 4) 0 = false) : ∃ last,
      iltRead s a b = tryCopy (iltTaken s a) 0 (iltLen (iltTaken s a) 0) last := by
  have len : iltLen (iltTaken s a) 0 ≠ 0 := by
    rw [iltLen, iltTaken_ilt s hl]
    exact hn
  refine ⟨decide (iltLen (iltTaken s a) 1 = 0), ?_⟩
  rw [iltRead, if_neg (by simp [hs, hc, hp, hw]), if_pos ⟨ha, hb⟩]
  dsimp only
  rw [hf]
  exact if_pos len

theorem iltRead_fetches (ha : awake s = true) (a b : List Byte) (hs : s.pwr.st = .woken) (hc : s.pwr.warmStart = false)
    (hp : s.img.phase = .before) (hw : wipeFirst s = false) (hi : iltOk a = true) (hl : a.length = 64)
    (hb : iltOk b = false ∨ fieldAt b 4 4 ≤ fieldAt a 4 4) (hn : fieldAt a 12 4 ≠ 0) (hf : bitOf (fieldAt a 24 4) 0 = false) :
    Ends (.iltRead a b) s fun t =>
      t.img.ilt = a ∧ t.img.phase = .fetching ∧ t.img.copy = 0 ∧ progOn t Reg.imgProg = true ∧
      Only [.img] [Reg.imgProg, Reg.imgTotal] s t := by
  obtain ⟨last, e⟩ := iltRead_first s hs hc hp hw hi hl hb hn hf
  refine ends_of (core_iltRead a b ha) ?_
  rw [e, finish_img, tryCopy_img, progOn_congr (rd_finish_below s (belowCounts_of_lt (by decide)))]
  exact ⟨iltTaken_ilt s hl, rfl, rfl, progOn_tryCopy _ _ _ _,
    (((only_iltTaken s a).trans (only_tryCopy _ _ _ _)).mono (by simp) (by simp)).finished⟩

/-! ### Failing copies (R53, R73, R82) -/

/-- The result of the present copy, and of a failed admission its check and section (R69, R83). -/
def copyNoted (r code sect : Nat) : State :=
  if r = 11 then fput (fput (imgResult s s.img.copy r) Reg.imgStat 15 8 code) Reg.imgStat 7 0 sect else imgResult s s.img.copy r

theorem copyFails_eq (r code sect : Nat) : copyFails s r code sect =
    if s.img.last then imgFail (copyNoted s r code sect)
    else tryCopy (copyNoted s r code sect) (1 - s.img.copy) (iltLen (copyNoted s r code sect) (1 - s.img.copy)) true := rfl

theorem only_copyNoted (r code sect : Nat) : Only [] [Reg.imgStat] s (copyNoted s r code sect) := by
  unfold copyNoted
  split
  · exact ((only_imgResult s _ r).fput _ _ _ (by simp)).fput _ _ _ (by simp)
  · exact only_imgResult s _ r

theorem copyNoted_img (r code sect : Nat) : (copyNoted s r code sect).img = s.img :=
  (only_copyNoted s r code sect).1 .img (by simp)

theorem fget_copyNoted (code sect : Nat) {r : Nat} (hr : r < 16) : fget (copyNoted s r code sect) Reg.imgStat
    (if s.img.copy = 1 then 23 else 19) (if s.img.copy = 1 then 20 else 16) = r := by
  unfold copyNoted
  split
  · rw [fget_fput_apart _ _ _ _ _ _ _ (by decide) (by decide) (by split <;> decide),
      fget_fput_apart _ _ _ _ _ _ _ (by decide) (by decide) (by split <;> decide), fget_imgResult s _ hr]
  · exact fget_imgResult s _ hr

theorem only_copyFails (r code sect : Nat) : Only [.img] (Reg.imgStat :: loadRegs) s (copyFails s r code sect) := by
  rw [copyFails_eq]
  split
  · exact ((only_copyNoted s r code sect).trans (only_imgFail _)).mono (by simp) (by simp)
  · exact ((only_copyNoted s r code sect).trans (only_tryCopy _ _ _ _)).mono (by simp) (by simp)

/-- A copy's result is kept whatever the loader does next. -/
theorem fget_copyFails (code sect : Nat) {r : Nat} (hr : r < 16) : fget (copyFails s r code sect) Reg.imgStat
    (if s.img.copy = 1 then 23 else 19) (if s.img.copy = 1 then 20 else 16) = r := by
  rw [copyFails_eq]
  split
  · rw [fget_imgFail _ _ (by split <;> decide), fget_copyNoted s code sect hr]
  · rw [fget_congr ((only_tryCopy _ _ _ _).rd_eq (belowCounts_of_lt (by decide)) (by decide)), fget_copyNoted s code sect hr]

/-- With no other copy left the loader fails; else it turns to the other copy (R53, R82). -/
theorem copyFails_next (r code sect : Nat) :
    if s.img.last then (copyFails s r code sect).img.phase = .failed ∧ flag (copyFails s r code sect) Reg.imgStat 30 = true
    else (copyFails s r code sect).img.phase = .fetching ∧ (copyFails s r code sect).img.copy = 1 - s.img.copy ∧
      (copyFails s r code sect).img.last = true := by
  rw [copyFails_eq]
  split
  · rw [imgFail_img]
    exact ⟨rfl, flag_imgFail _⟩
  · rw [tryCopy_img]
    exact ⟨rfl, rfl, rfl⟩

theorem only_fetchStop (pos : Nat) : Only [] [Reg.imgProg] s (fetchStop s pos) := only_wr s _ _

theorem readFail_turns (ha : awake s = true) (hs : s.pwr.st = .woken) (hc : s.pwr.warmStart = false)
    (hp : s.img.phase = .fetching) : Ends .readFail s fun t =>
        fget t Reg.imgStat (if s.img.copy = 1 then 23 else 19) (if s.img.copy = 1 then 20 else 16) = 2 ∧
        (if s.img.last then t.img.phase = .failed ∧ flag t Reg.imgStat 30 = true
          else t.img.phase = .fetching ∧ t.img.copy = 1 - s.img.copy ∧ t.img.last = true) ∧
        Only [.img] [Reg.imgStat, Reg.imgProg, Reg.imgTotal] s t := by
  have e : readFail s = copyFails (fetchStop s (fetchPos s)) 2 0 0 := by
    rw [readFail, if_neg (by simp [hs, hc]), if_neg (by simp [hp]), if_pos hp]
  have hi : (fetchStop s (fetchPos s)).img = s.img := wr_img _ _ _
  have result := fget_copyFails (fetchStop s (fetchPos s)) 0 0 (r := 2) (by decide)
  have next := copyFails_next (fetchStop s (fetchPos s)) 2 0 0
  rw [hi] at result next
  refine ends_of (core_readFail ha) ?_
  rw [e, fget_congr (rd_finish_below s (belowCounts_of_lt (by decide))),
    flag_congr (rd_finish_below s (belowCounts_of_lt (by decide))), finish_img]
  exact ⟨result, next, (((only_fetchStop s _).trans (only_copyFails _ 2 0 0)).mono (by simp) (by simp)).finished⟩

/-! ### IMAGE_FETCH_DONE (R66) -/

/-- Authentication looks at the fuses and at the strapped position alone (R66). -/
theorem authenticate_congr {t : State} (hl : t.lcs = s.lcs) (hi : t.img.straps = s.img.straps) (b : List Byte) (want : Nat)
    (host : Bool) : authenticate t b want host = authenticate s b want host := by
  unfold authenticate hdrOk keyOk unfused slotMatches fwOk
  rw [hl, hi]

/-- Where the image came from, in IMG_STAT (R83). -/
def sourceNoted : State :=
  if s.img.copy ≤ 1 then fput (imgResult s s.img.copy 0) Reg.imgStat 28 28 s.img.copy
  else if s.img.copy = 2 then fput (imgResult s 0 0) Reg.imgStat 29 29 1
  else fput s Reg.imgStat 27 27 1

/-- What the image's signatures make of the device, in IMG_STAT (R63, R68, R83). -/
def signersNoted (b : List Byte) : State :=
  fput (fput (sourceNoted s) Reg.imgStat 26 26 (b2n (decide (s.lcs.lcState = 0) && unfused s))) Reg.imgStat 25 25
    (b2n (!fwSigned b))

theorem copyPasses_eq (b : List Byte) : copyPasses s b =
    imgPhase { progSet (signersNoted s b) Reg.imgProg Reg.imgTotal (2 * imgLength b) (imgLength b) true with
      img := { (progSet (signersNoted s b) Reg.imgProg Reg.imgTotal (2 * imgLength b) (imgLength b) true).img with
        staged := slice b 0 (imgLength b) } } .admitted := rfl

theorem only_sourceNoted : Only [] [Reg.imgStat] s (sourceNoted s) := by
  unfold sourceNoted
  split
  · exact (only_imgResult s _ 0).fput _ _ _ (by simp)
  · split
    · exact (only_imgResult s _ 0).fput _ _ _ (by simp)
    · exact only_fput s _ _ _ _

theorem only_signersNoted (b : List Byte) : Only [] [Reg.imgStat] s (signersNoted s b) :=
  ((only_sourceNoted s).fput _ _ _ (by simp)).fput _ _ _ (by simp)

/-- An admitted image waits in the staging memory for apply (R66, R71). -/
theorem copyPasses_img (b : List Byte) : (copyPasses s b).img =
    { s.img with
      staged := slice b 0 (imgLength b)
      phase := .admitted } := by
  have hi : (signersNoted s b).img = s.img := (only_signersNoted s b).1 .img (by simp)
  simp [copyPasses_eq, imgPhase, hi]

/-- The registers of an admitted image are those of its progress, over those of its source and signers. -/
theorem only_progress_copyPasses (b : List Byte) : Only [.img] loadRegs (signersNoted s b) (copyPasses s b) := by
  rw [copyPasses_eq]
  exact (((only_progSet _ _ _ _ _ _).trans (only_setImg _ _)).trans (only_imgPhase _ _)).mono (by simp) (by simp)

theorem only_copyPasses (b : List Byte) : Only [.img] (Reg.imgStat :: loadRegs) s (copyPasses s b) :=
  ((only_signersNoted s b).trans (only_progress_copyPasses s b)).mono (by simp) (by simp)

theorem progOn_copyPasses (b : List Byte) : progOn (copyPasses s b) Reg.imgProg = true := by
  rw [copyPasses_eq, progOn_congr ((only_imgPhase _ _).rd_eq (belowCounts_of_lt (by decide)) (by simp)),
    progOn_congr ((only_setImg _ _).rd_eq (belowCounts_of_lt (by decide)) (by simp)), progOn_progSet]

theorem imageFetchDone_admits (ha : awake s = true) (bytes : List Byte) (hs : s.pwr.st = .woken) (hc : s.pwr.warmStart = false)
    (hp : s.img.phase = .fetching) (hw : wipeFirst s = false) (hok : authenticate s bytes (iltLen s s.img.copy) false = (0, 0, 0)) :
    Ends (.imageFetchDone bytes) s fun t =>
      t.img.phase = .admitted ∧ t.img.staged = slice bytes 0 (imgLength bytes) ∧
      Only [.img] [Reg.imgStat, Reg.imgProg, Reg.imgTotal] s t := by
  have frame := only_fetchStop s (rd s Reg.imgTotal / 2)
  have hi := frame.1 .img (by simp)
  have passes : authenticate (fetchStop s (rd s Reg.imgTotal / 2)) bytes
      (iltLen (fetchStop s (rd s Reg.imgTotal / 2)) (fetchStop s (rd s Reg.imgTotal / 2)).img.copy) false = (0, 0, 0) := by
    rw [iltLen, hi, authenticate_congr s (frame.1 .lcs (by simp)) (by rw [hi])]
    exact hok
  have e : imageFetched s bytes = copyPasses (fetchStop s (rd s Reg.imgTotal / 2)) bytes := by
    rw [imageFetched, if_neg (by simp [hs, hw]), if_neg (by simp [hc]), if_neg (by simp [hp])]
    dsimp only
    rw [passes]
    rfl
  refine ends_of (core_imageFetchDone bytes ha) ?_
  rw [e, finish_img, copyPasses_img]
  exact ⟨rfl, rfl, ((frame.trans (only_copyPasses _ bytes)).mono (by simp) (by simp)).finished⟩

end LoaderParts

end Sys2Proof.Machine
end

section
namespace Sys2Proof.Machine

/-! ### The end of apply: what the steps after the lock leave alone (R74–R76) -/

/-- The image unit, the power state, the bench core's release and the lock are as before. -/
structure KeepsApplied (s t : State) : Prop where
  img : t.img = s.img
  power : t.pwr.st = s.pwr.st
  running : t.seq.running = s.seq.running
  lock : rd t Reg.imgLock = rd s Reg.imgLock

section KeepsApplied
variable {us : List UnitName} {rs : List Nat} {s t u : State}

theorem KeepsApplied.refl (s : State) : KeepsApplied s s := ⟨rfl, rfl, rfl, rfl⟩

theorem KeepsApplied.trans (h : KeepsApplied s t) (k : KeepsApplied t u) : KeepsApplied s u :=
  ⟨k.img.trans h.img, k.power.trans h.power, k.running.trans h.running, k.lock.trans h.lock⟩

/-- A frame that names neither those parts nor the lock. -/
theorem Only.keepsApplied (h : Only us rs s t) (hu : ∀ u ∈ [UnitName.img, .pwr, .seq], u ∉ us) (hr : Reg.imgLock ∉ rs) :
    KeepsApplied s t :=
  ⟨h.1 .img (hu _ (by simp)), congrArg PwrSt.st (h.1 .pwr (hu _ (by simp))), congrArg SeqSt.running (h.1 .seq (hu _ (by simp))),
    h.rd_eq (belowCounts_of_lt (by decide)) hr⟩

theorem KeepsApplied.foldl {α : Type} (g : State → α → State) (h : ∀ t a, KeepsApplied t (g t a)) (l : List α) (s : State) :
    KeepsApplied s (l.foldl g s) := by
  induction l generalizing s with
  | nil => exact KeepsApplied.refl s
  | cons a l ih => exact (h s a).trans (ih _)

theorem KeepsApplied.ite {c : Prop} [Decidable c] (h : KeepsApplied s t) (k : KeepsApplied s u) :
    KeepsApplied s (if c then t else u) := by
  split
  · exact h
  · exact k

variable (s)

theorem keepsApplied_wr {o : Nat} (v : Nat) (h : o ≠ Reg.imgLock) : KeepsApplied s (wr s o v) :=
  (only_wr s o v).keepsApplied (by simp) (by simpa using Ne.symm h)

theorem keepsApplied_setEvt {o : Nat} (b : Nat) (h : o ≠ Reg.imgLock) : KeepsApplied s (setEvt s o b) :=
  (only_setEvt s o b).keepsApplied (by simp) (by simpa using Ne.symm h)

theorem keepsApplied_setMil (x : MilSt) : KeepsApplied s { s with mil := x } := (only_mil s x).keepsApplied (by simp) (by simp)

theorem keepsApplied_setIntg (x : IntSt) : KeepsApplied s { s with intg := x } :=
  (only_setIntg s x).keepsApplied (by simp) (by simp)

theorem keepsApplied_setRgl (x : RglSt) : KeepsApplied s { s with rgl := x } := (only_setRgl s x).keepsApplied (by simp) (by simp)

theorem keepsApplied_setWport (k : Nat) (x : WPort) : KeepsApplied s (setWport s k x) :=
  (only_setWport s k x).keepsApplied (by simp) (by simp)

/-! ### Retirements, budget and classes (R362, R431, R432) -/

theorem keepsApplied_rehome (i : Nat) : KeepsApplied s (rehome s i) := by
  unfold rehome
  split
  · exact KeepsApplied.refl s
  · split
    · split
      · exact (keepsApplied_setIntg s _).trans (keepsApplied_setEvt _ 12 (by decide))
      · exact (keepsApplied_setIntg s _).trans (keepsApplied_wr _ 1 (by decide))
    · exact (KeepsApplied.refl s).ite (keepsApplied_setIntg s _)

theorem keepsApplied_holdBlocks : KeepsApplied s (holdBlocks s) := by
  unfold holdBlocks
  exact (keepsApplied_setIntg s _).ite ((keepsApplied_setIntg s _).trans (keepsApplied_wr _ 1 (by decide)))

theorem keepsApplied_loadClasses : KeepsApplied s (loadClasses s) := keepsApplied_setRgl s _

/-- A log of a unit whose registers are not the lock (R361). -/
theorem keepsApplied_logPut {head tail ovf size : Nat} {entry : Nat → Nat → Nat} {evt : Nat} (bit w0 w1 : Nat)
    (he : ∀ i j, entry i j ≠ Reg.imgLock) (hh : head ≠ Reg.imgLock) (ho : ovf ≠ Reg.imgLock) (hv : evt ≠ Reg.imgLock) :
    KeepsApplied s (logPut s head tail ovf size entry evt bit w0 w1) := by
  have put (i : Nat) : KeepsApplied s (wr (wr (wr s (entry i 0) w0) (entry i 1) w1) head ((fget s head 15 0 + 1) % 65536)) :=
    ((keepsApplied_wr s w0 (he i 0)).trans (keepsApplied_wr _ w1 (he i 1))).trans (keepsApplied_wr _ _ hh)
  unfold logPut
  dsimp only
  split
  · exact ((only_rcEvent s _ _ _ _).keepsApplied (by simp) (by simp)).trans (keepsApplied_wr _ _ ho)
  · exact ((put _).trans (keepsApplied_setEvt _ bit hv)).ite (put _)

theorem keepsApplied_recordMiss (c kind res m wait detail : Nat) : KeepsApplied s (recordMiss s c kind res m wait detail) := by
  have counted : KeepsApplied s (setEvt (bump s (Reg.rglCnt c 5) 1) Reg.rglEvt 0) :=
    (keepsApplied_wr s _ (by simp only [Reg.rglCnt, Reg.imgLock]; omega)).trans (keepsApplied_setEvt _ 0 (by decide))
  have entry (i j : Nat) : Reg.rglMiss i j ≠ Reg.imgLock := by
    simp only [Reg.rglMiss, Reg.imgLock]
    omega
  unfold recordMiss
  dsimp only
  split
  · exact counted
  · exact (counted.trans (keepsApplied_setRgl _ _)).trans
      (keepsApplied_logPut _ 1 _ _ entry (by decide) (by decide) (by decide))

/-- A fold that carries a number along. -/
theorem keepsApplied_foldl_fst {α : Type} (g : State × Nat → α → State × Nat) (h : ∀ p a, KeepsApplied p.1 (g p a).1)
    (l : List α) (p : State × Nat) : KeepsApplied p.1 (l.foldl g p).1 := by
  induction l generalizing p with
  | nil => exact KeepsApplied.refl _
  | cons a l ih => exact (h p a).trans (ih _)

/-- A guarantee that the budget does not cover is a miss of its class (R362). -/
def coverMark (st : State × Nat) (res : Nat) (w : Nat × Nat × Nat) : State × Nat :=
  if w.2.2 < w.2.1 then (setEvt (recordMiss st.1 w.1 3 res 63 0 w.2.2) Reg.rglEvt 4, st.2 ||| 2 ^ w.1) else st

theorem keepsApplied_coverMark (st : State × Nat) (res : Nat) (w : Nat × Nat × Nat) :
    KeepsApplied st.1 (coverMark st res w).1 := by
  unfold coverMark
  split
  · exact (keepsApplied_recordMiss st.1 _ _ _ _ _ _).trans (keepsApplied_setEvt _ 4 (by decide))
  · exact KeepsApplied.refl _

theorem keepsApplied_recover : KeepsApplied s (recover s) := by
  have slots := keepsApplied_foldl_fst (fun st w => coverMark st 0 w) (fun p w => keepsApplied_coverMark p 0 w)
    (coverWalk (fget s Reg.rglNow 10 0) (guarList s true)) (s, 0)
  have granules := keepsApplied_foldl_fst (fun st w => coverMark st 1 w) (fun p w => keepsApplied_coverMark p 1 w)
    (coverWalk (fget s Reg.rglNow 42 32) (guarList s false))
    ((coverWalk (fget s Reg.rglNow 10 0) (guarList s true)).foldl (fun st w => coverMark st 0 w) (s, 0))
  exact ((slots.trans granules).trans (keepsApplied_wr _ _ (by decide))).trans (keepsApplied_setRgl _ _)

theorem keepsApplied_rebudget : KeepsApplied s (rebudget s true) := by
  have now (a b c d : Nat) : KeepsApplied s (fput (fput (fput (fput s Reg.rglNow 55 54 a) Reg.rglNow 53 53 b) Reg.rglNow 42 32 c)
      Reg.rglNow 10 0 d) :=
    ((((only_fput s _ _ _ _).fput _ _ _ (by simp)).fput _ _ _ (by simp)).fput _ _ _ (by simp)).keepsApplied (by simp) (by decide)
  unfold rebudget
  dsimp only
  rw [if_pos rfl]
  refine KeepsApplied.trans ?_ (keepsApplied_recover _)
  exact (((now _ _ _ _).trans (keepsApplied_setRgl _ _)).trans (keepsApplied_setEvt _ 2 (by decide))).ite
    ((now _ _ _ _).trans (keepsApplied_setRgl _ _))

/-! ### CAN management, tap ports and welt ports (R157, R375, R484) -/

theorem keepsApplied_canmApply : KeepsApplied s (canmApply s) := by
  have words (t : State) : KeepsApplied t (objWritten (objWritten (rangeWritten t 0x11 (16 * 126) 1) 126 2) 127 0) :=
    (((only_rangeWritten t _ _ _).trans (only_wordMerged _ _ _)).trans (only_wordMerged _ _ _)).keepsApplied (by simp) (by decide)
  unfold canmApply
  dsimp only
  split
  · exact ((((keepsApplied_wr s _ (by decide)).trans (keepsApplied_wr _ _ (by decide))).trans
      (keepsApplied_wr _ _ (by decide))).trans (keepsApplied_wr _ _ (by decide))).trans (words _)
  · exact KeepsApplied.refl s

theorem keepsApplied_tapEnApply (p : Nat) (o : Option Nat) : KeepsApplied s (tapEnApply s p o) :=
  (only_tapEnApply s p o).keepsApplied (by simp) (not_mem_linkRegs p (Or.inr (by decide)))

theorem keepsApplied_logWrFail (f : BFrame) (code reporter : Nat) : KeepsApplied s (logWrFail s f code reporter) := by
  have entry (i j : Nat) : Reg.brgFail i j ≠ Reg.imgLock := by
    simp only [Reg.brgFail, Reg.imgLock]
    omega
  exact ((keepsApplied_wr s _ (by decide)).trans (keepsApplied_logPut _ 2 _ _ entry (by decide) (by decide) (by decide))).trans
    (keepsApplied_setEvt _ 0 (by decide))

theorem keepsApplied_setBrg (x : BrgSt) : KeepsApplied s { s with brg := x } := ⟨rfl, rfl, rfl, rfl⟩

theorem keepsApplied_failRead (r : BRead) (code : Nat) : KeepsApplied s (failRead s r code) := by
  have ended (x : BrgSt) : KeepsApplied s (setEvt (bump { s with brg := x } (Reg.brgCnt 6) 1) Reg.brgEvt 1) :=
    ((keepsApplied_setBrg s x).trans (keepsApplied_wr _ _ (by decide))).trans (keepsApplied_setEvt _ 1 (by decide))
  have status : Reg.brgRrdStat r.set ≠ Reg.imgLock := by
    simp only [Reg.brgRrdStat, Reg.imgLock]
    omega
  unfold failRead
  exact ((ended _).trans (keepsApplied_wr _ _ status)).ite (ended _)

theorem keepsApplied_queueTo (f : BFrame) : KeepsApplied s (queueTo s f) := keepsApplied_setWport s _ _

theorem keepsApplied_bridgeFail (f : BFrame) (code : Nat) : KeepsApplied s (bridgeFail s f code) := by
  unfold bridgeFail
  split
  · exact (keepsApplied_logWrFail s _ _ _).ite ((keepsApplied_queueTo s _).ite (KeepsApplied.refl s))
  · split
    · split
      · split
        · exact keepsApplied_failRead s _ _
        · exact KeepsApplied.refl s
      · exact (keepsApplied_queueTo s _).ite (KeepsApplied.refl s)
    · exact KeepsApplied.refl s

theorem keepsApplied_servoState (st : Nat) : KeepsApplied s (servoState s st) := by
  unfold servoState
  dsimp only
  exact (KeepsApplied.refl s).ite (((keepsApplied_setMil s _).trans (keepsApplied_setEvt _ 0 (by decide))).ite
    (((keepsApplied_setMil s _).trans (keepsApplied_setEvt _ 2 (by decide))).ite (keepsApplied_setMil s _)))

theorem keepsApplied_useSource (c : Nat) (bak : Bool) : KeepsApplied s (useSource s c bak) := by
  have changed : KeepsApplied s (if c ≠ s.mil.src then setEvt s Reg.milEvt 9 else s) :=
    (keepsApplied_setEvt s 9 (by decide)).ite (KeepsApplied.refl s)
  unfold useSource
  dsimp only
  split
  · exact ((changed.trans (keepsApplied_setMil _ _)).trans (keepsApplied_setMil _ _)).trans (keepsApplied_servoState _ 0)
  · exact ((changed.trans (keepsApplied_setMil _ _)).trans (keepsApplied_setMil _ _)).trans (keepsApplied_servoState _ 1)

theorem keepsApplied_sourceLost : KeepsApplied s (sourceLost s) := by
  have marked (w : SrcWatch) : KeepsApplied s (setEvt (setWatch s s.mil.src w) Reg.milEvt 1) :=
    (keepsApplied_setMil s _).trans (keepsApplied_setEvt _ 1 (by decide))
  unfold sourceLost
  exact ((marked _).trans (keepsApplied_useSource _ _ _)).ite
    (((marked _).trans (keepsApplied_setMil _ _)).trans (keepsApplied_servoState _ 3))

theorem keepsApplied_weltLeave (k next : Nat) : KeepsApplied s (weltLeave s k next) := by
  have events : Reg.wltEvt k ≠ Reg.imgLock := by
    simp only [Reg.wltEvt, Reg.imgLock]
    omega
  have count : Reg.wltCnt k 9 ≠ Reg.imgLock := by
    simp only [Reg.wltCnt, Reg.imgLock]
    omega
  have left (x : WPort) : KeepsApplied s (dlyReset (wlcnt (wevt (setWport s k x) k 1) k 9 1) (32 + k)) :=
    (((keepsApplied_setWport s k x).trans (keepsApplied_setEvt _ 1 events)).trans (keepsApplied_wr _ _ count)).trans
      (keepsApplied_setMil _ _)
  have failed (x : WPort) (l : List BFrame) := (left x).trans
    (KeepsApplied.foldl (fun st f => bridgeFail st f 5) (fun t f => keepsApplied_bridgeFail t f 5) l _)
  unfold weltLeave
  exact ((failed _ _).trans (keepsApplied_sourceLost _)).ite (failed _ _)

theorem keepsApplied_weltDown (k next : Nat) : KeepsApplied s (weltDown s k next) := by
  unfold weltDown
  exact ((keepsApplied_weltLeave s k next).ite (KeepsApplied.refl s)).trans (keepsApplied_setWport _ k _)

theorem keepsApplied_weltEnApply (k : Nat) : KeepsApplied s (weltEnApply s k) := by
  unfold weltEnApply
  exact ((keepsApplied_setWport s k _).ite (KeepsApplied.refl s)).ite ((KeepsApplied.refl s).ite (keepsApplied_weltDown s k 0))

/-! ### Road time, profiles and the DRAM clear (R75, R115, R444, R501) -/

theorem keepsApplied_armPulse (n : Nat) : KeepsApplied s (armPulse s n) := by
  unfold armPulse
  exact (keepsApplied_setMil s _).ite (KeepsApplied.refl s)

theorem keepsApplied_loadPulse (n : Nat) : KeepsApplied s (loadPulse s n) :=
  (keepsApplied_setMil s _).trans (keepsApplied_armPulse _ n)

theorem keepsApplied_startSource : KeepsApplied s (startSource s) := by
  unfold startSource
  exact (((keepsApplied_setMil s _).trans (keepsApplied_setMil _ _)).trans (keepsApplied_useSource _ _ _)).trans
    (KeepsApplied.foldl _ (fun t n => (keepsApplied_loadPulse t n).ite (KeepsApplied.refl t)) _ _)

/-- The plan of road time's resumption is no more than two fields of the power unit (R501). -/
theorem keepsApplied_planResume : KeepsApplied s (planResume s) := ⟨rfl, rfl, rfl, rfl⟩

theorem keepsApplied_setEnables (en : Nat) : KeepsApplied s (setEnables s en) :=
  (only_setEnables s en).keepsApplied (by simp) (by decide)

theorem keepsApplied_setValid : KeepsApplied s (setValid s) := by
  unfold setValid
  exact (KeepsApplied.refl s).ite ((keepsApplied_setMil s _).trans (KeepsApplied.foldl _ keepsApplied_armPulse _ _))

theorem keepsApplied_withdrawStep : KeepsApplied s (withdrawStep s) := by
  unfold withdrawStep addSlew
  split
  · exact KeepsApplied.refl s
  · have slewed (x y : MilSt) : KeepsApplied s { setEvt { s with mil := x } Reg.milEvt 4 with mil := y } :=
      ((keepsApplied_setMil s x).trans (keepsApplied_setEvt _ 4 (by decide))).trans (keepsApplied_setMil _ y)
    exact ((slewed _ _).trans (keepsApplied_setValid _)).ite (slewed _ _)

theorem keepsApplied_enableProfiles (en : Nat) : KeepsApplied s (enableProfiles s en) := by
  unfold enableProfiles
  split
  · exact ((keepsApplied_setMil s _).ite ((keepsApplied_withdrawStep s).trans (keepsApplied_setEnables _ en))).ite
      (keepsApplied_setEnables s en)
  · exact keepsApplied_setEnables s en

theorem keepsApplied_autoEnable (dram tern : Bool) : KeepsApplied s (autoEnable s dram tern) := by
  unfold autoEnable
  exact (KeepsApplied.refl s).ite (keepsApplied_enableProfiles s _)

theorem only_setDrc (x : DrcSt) : Only [.drc] [] s { s with drc := x } :=
  only_units (fun u hu => by cases u <;> simp [UnitName.same] at *) rfl rfl

theorem keepsApplied_startClear : KeepsApplied s (startClear s) := by
  unfold startClear
  refine KeepsApplied.ite ?_ (KeepsApplied.refl s)
  exact ((only_setDrc s _).trans (only_progSet _ _ _ _ _ _)).keepsApplied (by simp) (by decide)

end KeepsApplied

/-! ### IMAGE_APPLY_END (R76) -/

section ApplyEnd
variable (s : State)

/-- The admitted image in force: every section written, the staging memory cleared (R74, R498). -/
def imageInForce : State :=
  let s1 := fillLearn (applySections s s.img.staged)
  { s1 with img := { s1.img with
    applied := true
    image := s.img.staged
    staged := []
    phase := .applied } }

/-- Its identity in the registers, and the lock that R76 asks for. -/
def imageLocked : State :=
  let b := s.img.staged
  let s3 := wr (wr (imageInForce s) Reg.imgId (imgIdOf b)) Reg.imgReportId (fieldAt (sectBytes b 0xC) 0 8)
  let s4 := wr (fput (fput s3 Reg.imgStat 31 31 1) Reg.imgStat 24 24 (b2n (copyMatches s3))) Reg.imgLock
    (b2n (locked s3 || lockAfter s b))
  wr s4 Reg.imgProg (progValue (rd s4 Reg.imgTotal) (rd s4 Reg.imgTotal) false)

/-- Retirements checked against it, and the budget of the first window (R362, R431, R432). -/
def budgetSettled : State :=
  rebudget (loadClasses (holdBlocks (((imageLocked s).intg.retire.map (fun e => e.1)).foldl rehome (imageLocked s)))) true

/-- The bench core released, and STAGED entered (R472, R487). -/
def stagedEntered : State :=
  let s7 := budgetSettled s
  { s7 with
    rgl := { s7.rgl with windowAt := s.cycle / 800 }
    age := { s7.age with base := (agingTables s7).foldl (fun m t => m.setNat t (nowNs s7)) s7.age.base }
    wlt := { s7.wlt with slotOn := decide (s7.img.weltPos = 0) }
    seq := { s7.seq with
      running := true
      wdogAt := s.cycle }
    pwr := { s7.pwr with
      st := if s.pwr.st = .parking then .parking else .staged
      prev := if s.pwr.st = .parking then .staged else s7.pwr.prev
      step9At := s.cycle } }

/-- The ports leave OFF and road time has its source (R115, R157, R375). -/
def portsStarted : State :=
  let s9 := canmApply (fput (stagedEntered s) Reg.seqCtrl 0 0 (b2n (!flag (stagedEntered s) Reg.imgStat 25)))
  let s11 := weltEnApply (weltEnApply ((List.range 32).foldl (fun st p => tapEnApply st p none) s9) 0) 1
  setEvt (planResume (startSource s11)) Reg.pwrEvt 3

theorem applyEnd_eq (hs : s.pwr.st = .woken) (hp : s.img.phase = .admitted) (hw : s.nvc.wipeAt = none) : applyEnd s =
    startClear (if s.pwr.warmStart then autoEnable (portsStarted s) false true else portsStarted s) := by
  rw [applyEnd, if_neg (by simp [hs, hp, hw])]
  rfl

theorem imageLocked_img : (imageLocked s).img = (imageInForce s).img := by simp [imageLocked]

theorem locked_imageLocked (h : lockAfter s s.img.staged = true) : locked (imageLocked s) = true := by
  rw [imageLocked, locked, flag, rd_wr_ne _ _ (by decide), rd_wr_same, h, Bool.or_true]
  rfl

theorem keepsApplied_budgetSettled : KeepsApplied (imageLocked s) (budgetSettled s) :=
  (((KeepsApplied.foldl rehome keepsApplied_rehome _ (imageLocked s)).trans (keepsApplied_holdBlocks _)).trans
    (keepsApplied_loadClasses _)).trans (keepsApplied_rebudget _)

theorem keepsApplied_portsStarted : KeepsApplied (stagedEntered s) (portsStarted s) :=
  (((((((keepsApplied_wr (stagedEntered s) _ (by decide)).trans (keepsApplied_canmApply _)).trans
    (KeepsApplied.foldl _ (fun t p => keepsApplied_tapEnApply t p none) _ _)).trans (keepsApplied_weltEnApply _ 0)).trans
    (keepsApplied_weltEnApply _ 1)).trans (keepsApplied_startSource _)).trans (keepsApplied_planResume _)).trans
    (keepsApplied_setEvt _ 3 (by decide))

/-- What the end of apply makes of the image unit, the power state, the bench core and the lock is what they are as STAGED is
entered. -/
theorem keepsApplied_applyEnd (hs : s.pwr.st = .woken) (hp : s.img.phase = .admitted) (hw : s.nvc.wipeAt = none) :
    KeepsApplied (stagedEntered s) (applyEnd s) := by
  rw [applyEnd_eq s hs hp hw]
  exact (((keepsApplied_portsStarted s).trans (keepsApplied_autoEnable _ _ _)).ite (keepsApplied_portsStarted s)).trans
    (keepsApplied_startClear _)

theorem stagedEntered_img : (stagedEntered s).img = (imageInForce s).img :=
  (keepsApplied_budgetSettled s).img.trans (imageLocked_img s)

theorem stagedEntered_st (hs : s.pwr.st = .woken) : (stagedEntered s).pwr.st = .staged := by
  simp [stagedEntered, hs]

theorem locked_stagedEntered (h : lockAfter s s.img.staged = true) : locked (stagedEntered s) = true :=
  (flag_congr (keepsApplied_budgetSettled s).lock 0).trans (locked_imageLocked s h)

theorem imageApplyEnd_enters (ha : awake s = true) (hs : s.pwr.st = .woken) (hp : s.img.phase = .admitted)
    (hw : s.nvc.wipeAt = none) : Ends .imageApplyEnd s fun t =>
      t.pwr.st = .staged ∧ t.img.applied = true ∧ t.img.image = s.img.staged ∧ t.img.staged = [] ∧
      t.img.phase = .applied ∧ t.seq.running = true ∧ (lockAfter s s.img.staged = true → locked t = true) := by
  have kept := keepsApplied_applyEnd s hs hp hw
  refine ends_of (core_imageApplyEnd ha) ?_
  rw [finish_pwr, finish_img, finish_seq, kept.power, kept.img, kept.running, stagedEntered_st s hs, stagedEntered_img]
  refine ⟨rfl, rfl, rfl, rfl, rfl, rfl, fun h => ?_⟩
  have end_ : rd (finish s (applyEnd s)) Reg.imgLock = rd (stagedEntered s) Reg.imgLock :=
    (rd_finish_below s (belowCounts_of_lt (by decide))).trans kept.lock
  exact (flag_congr end_ 0).trans (locked_stagedEntered s h)

end ApplyEnd

end Sys2Proof.Machine
end

section
namespace Sys2Proof.Machine

/-! ### A host's image (R82, R84, R86) -/

section SpmRead
variable (s : State)

/-- A read of the scratchpad's bytes touches what a read of an on-die memory may (R412, R423). -/
theorem readOnly_spmReadByte (master a : Nat) : ReadOnly 0 s (spmReadByte s master a).1 := by
  unfold spmReadByte
  dsimp only
  split
  · exact Only.refl _ _ s
  · split
    · exact Only.refl _ _ s
    · exact readOnly_trackCorrected _ _ _ _
    · exact readOnly_trackUncorrectable _ _ _ _

theorem readOnly_spmRead (master a n : Nat) : ReadOnly 0 s (spmRead s master a n).1 := by
  induction n generalizing s a with
  | zero => exact Only.refl _ _ s
  | succ n ih => exact (readOnly_spmReadByte s master a).next (ih _ (a + 1))

variable {s} {t : State} (h : t.intg = s.intg)

theorem intLog_intg (u : State) (synd kind m ms a : Nat) (inj : Bool) : (intLog u synd kind m ms inj a).intg = u.intg := by
  have entry (i j : Nat) : Reg.intLog i j ≠ Reg.vrdEvtCnt 0 := by
    simp only [Reg.intLog, Reg.vrdEvtCnt]
    omega
  exact (spares_logPut u 2 _ _ entry (by decide) (by decide) (by decide)).units .intg (by simp)

include h

theorem trackOf_congr (mem a : Nat) : trackOf t mem a = trackOf s mem a := by rw [trackOf, trackOf, h]

/-- What an entry's addition makes of the tracker is the integrity unit's own affair (R423). -/
theorem trackAdd_intg_congr (mem a : Nat) (st : TrackSt) : (trackAdd t mem a st).intg = (trackAdd s mem a st).intg := by
  unfold trackAdd
  dsimp only
  rw [h]
  split
  · rfl
  · split
    · exact h
    · simp

theorem trackSet_intg_congr (mem a : Nat) (st : TrackSt) (n : Nat) :
    (trackSet t mem a st n).intg = (trackSet s mem a st n).intg := by
  rw [trackSet, trackSet, h]

theorem sticky_intg_congr (mem a m synd : Nat) (inj : Bool) : (sticky t mem a m inj synd).intg = (sticky s mem a m inj synd).intg := by
  have logged (u : State) : (intLog (bump u (Reg.intCnt mem 2) 1) synd 3 mem m inj a).intg = u.intg := by rw [intLog_intg, bump_intg]
  have same := (logged t).trans (h.trans (logged s).symm)
  unfold sticky
  dsimp only
  rw [h]
  split
  · simp only [setEvt_intg, intLog_intg, setFlip, trackFree, bump_intg, h]
  · rw [setEvt_intg, setEvt_intg, intLog_intg, intLog_intg, trackOf_congr same]
    split
    · exact trackSet_intg_congr same mem a .retire 0
    · exact trackAdd_intg_congr same mem a .retire

theorem trackCorrected_intg_congr (mem a m synd : Nat) (f : Flip) :
    (trackCorrected t mem a m f synd).intg = (trackCorrected s mem a m f synd).intg := by
  have counted : (bump t (Reg.intCnt mem 0) 1).intg = (bump s (Reg.intCnt mem 0) 1).intg := by rw [bump_intg, bump_intg, h]
  unfold trackCorrected
  dsimp only
  rw [trackOf_congr h]
  split
  · refine trackAdd_intg_congr ?_ mem a .pending
    rw [setEvt_intg, setEvt_intg, intLog_intg, intLog_intg, counted]
  · split
    · split
      · exact sticky_intg_congr counted mem a m synd _
      · exact trackSet_intg_congr counted mem a .watch _
    all_goals exact counted

theorem trackUncorrectable_intg_congr (mem a m synd : Nat) (f : Flip) :
    (trackUncorrectable t mem a m f synd).intg = (trackUncorrectable s mem a m f synd).intg := by
  have counted : (bump t (Reg.intCnt mem 1) 1).intg = (bump s (Reg.intCnt mem 1) 1).intg := by rw [bump_intg, bump_intg, h]
  have logged : (setEvt (intLog (bump t (Reg.intCnt mem 1) 1) synd 2 mem m f.injected a) Reg.intEvt 1).intg =
      (setEvt (intLog (bump s (Reg.intCnt mem 1) 1) synd 2 mem m f.injected a) Reg.intEvt 1).intg := by
    rw [setEvt_intg, setEvt_intg, intLog_intg, intLog_intg, counted]
  unfold trackUncorrectable
  dsimp only
  rw [trackOf_congr h]
  split
  · split
    · exact counted
    · exact trackSet_intg_congr logged mem a .poison 0
  · exact trackAdd_intg_congr logged mem a .poison

theorem spmReadByte_congr (hm : t.spm = s.spm) (master a : Nat) :
    (spmReadByte t master a).1.intg = (spmReadByte s master a).1.intg ∧ (spmReadByte t master a).2 = (spmReadByte s master a).2 := by
  unfold spmReadByte flipAt
  dsimp only
  rw [h, hm]
  split
  · exact ⟨h, rfl⟩
  · split
    · exact ⟨h, rfl⟩
    · exact ⟨trackCorrected_intg_congr h _ _ _ _ _, rfl⟩
    · exact ⟨trackUncorrectable_intg_congr h _ _ _ _ _, rfl⟩

/-- The bytes read are those of the scratchpad and its corrupted words, whatever the registers hold (R412). -/
theorem spmRead_congr (hm : t.spm = s.spm) (master a n : Nat) : (spmRead t master a n).2 = (spmRead s master a n).2 := by
  induction n generalizing s t a with
  | zero => rfl
  | succ n ih =>
    obtain ⟨hi, hb⟩ := spmReadByte_congr h hm master a
    have spm (u : State) : (spmReadByte u master a).1.spm = u.spm := (readOnly_spmReadByte u master a).1 .spm (by simp)
    have rest := ih hi ((spm t).trans (hm.trans (spm s).symm)) (a + 1)
    simp only [spmRead, hb, rest]

end SpmRead

section HostLoad
variable (s : State) (m : Requester)

theorem only_hostImage : ReadOnly 0 s (hostImage s).1 := readOnly_spmRead s _ _ _

theorem rd_imgHostAddr_portCount : rd (portCount s m) Reg.imgHostAddr = rd s Reg.imgHostAddr :=
  rd_portCount s m (belowCounts_of_lt (by decide))

theorem hostSpace_portCount : hostSpace (portCount s m) = hostSpace s := by
  rw [hostSpace, hostSpace, fget_congr (rd_imgHostAddr_portCount s m)]

/-- The count of the access that asks for the load does not change the image (R86). -/
theorem hostImage_portCount : (hostImage (portCount s m)).2 = (hostImage s).2 := by
  have hi : (portCount s m).intg = s.intg := portCount_same s m _ (wr_intg s)
  have hm : (portCount s m).spm = s.spm := portCount_same s m _ (wr_spm s)
  unfold hostImage
  rw [hostSpace_portCount, fget_congr (rd_imgHostAddr_portCount s m)]
  dsimp only
  rw [spmRead_congr hi hm, spmRead_congr hi hm]

/-- IMG_STAT at the start of a host load: no source, no result, no FAIL (R83, R84). -/
def statCleared : State := fput (fput (fput (hostImage s).1 Reg.imgStat 30 29 0) Reg.imgStat 28 28 0) Reg.imgStat 15 0 0

/-- The load under way: the host's image is the present copy, and there is no other (R82, R84). -/
def hostLoading : State :=
  let n := min (imgLength (hostImage s).2) (hostSpace s)
  progSet { statCleared s with img := { (statCleared s).img with
    copy := 2
    last := true
    phase := .fetching } } Reg.imgProg Reg.imgTotal (2 * n) n true

theorem only_statCleared : Only [.intg] (Reg.imgStat :: readRegs 0) s (statCleared s) :=
  ((((only_hostImage s).trans (only_fput _ Reg.imgStat 30 29 0)).fput _ _ _ (by simp)).fput _ _ _ (by simp)).mono (by simp)
    (by simp)

theorem keeps_hostLoading : keepsUnits [.img, .intg] s (hostLoading s) :=
  (((only_statCleared s).trans (only_setImg _ _)).trans (only_progSet _ _ _ _ _ _)).mono (by decide) (List.Subset.refl _) |>.1

theorem hostLoading_img : (hostLoading s).img =
    { s.img with
      copy := 2
      last := true
      phase := .fetching } := by
  have hi : (statCleared s).img = s.img := (only_statCleared s).1 .img (by simp)
  simp [hostLoading, hi]

/-- SRC_HOST and FAIL stand at 0 while the image is checked. -/
theorem flag_hostLoading {b : Nat} (hb : b = 29 ∨ b = 30) : flag (hostLoading s) Reg.imgStat b = false := by
  have hr : rd (hostLoading s) Reg.imgStat = rd (statCleared s) Reg.imgStat :=
    ((only_setImg (statCleared s) _).trans (only_progSet _ _ _ _ _ _)).rd_eq (belowCounts_of_lt (by decide)) (by decide)
  rw [flag_congr hr, statCleared, flag_fput_apart _ _ (by decide) (by decide) (by omega),
    flag_fput_apart _ _ (by decide) (by decide) (by omega), flag, rd_fput _ _ _ _ _ (by decide) (by decide),
    bitOf_putBits _ _ _ _ _ (by decide), if_pos (by omega)]
  simp [bitOf]

theorem hostLoad_eq (hl : s.lcs.lcState ≠ 2) (hp : progOn s Reg.imgProg = false) (ha : flag s Reg.imgStat 31 = false) :
    hostLoad s =
      let a := authenticate s (hostImage s).2 (hostSpace s) true
      if a.1 = 0 then copyPasses (hostLoading s) (hostImage s).2 else copyFails (hostLoading s) a.1 a.2.1 a.2.2 := by
  rw [hostLoad, if_neg (by simp [hl, hp, ha])]
  rfl

theorem imgCtrlWrite_host : imgCtrlWrite s 1 = hostLoad s := by
  unfold imgCtrlWrite
  dsimp only
  rw [if_pos (by decide), if_neg (by decide)]

theorem rd_copyPasses_stat (u : State) (b : List Byte) : rd (copyPasses u b) Reg.imgStat = rd (signersNoted u b) Reg.imgStat :=
  (only_progress_copyPasses u b).rd_eq (belowCounts_of_lt (by decide)) (by decide)

/-- A host's image that passes: SRC_HOST, result OK, no FAIL (R82, R83). -/
theorem copyPasses_host {u : State} (hc : u.img.copy = 2) (b : List Byte) (hf : flag u Reg.imgStat 30 = false) :
    flag (copyPasses u b) Reg.imgStat 29 = true ∧ flag (copyPasses u b) Reg.imgStat 30 = false ∧
      fget (copyPasses u b) Reg.imgStat 19 16 = 0 := by
  have source : sourceNoted u = fput (fput u Reg.imgStat 19 16 0) Reg.imgStat 29 29 1 := by simp [sourceNoted, hc, imgResult]
  rw [flag_congr (rd_copyPasses_stat u b), flag_congr (rd_copyPasses_stat u b), fget_congr (rd_copyPasses_stat u b),
    signersNoted, source]
  refine ⟨?_, ?_, ?_⟩
  · rw [flag_fput_apart _ _ (by decide) (by decide) (by decide), flag_fput_apart _ _ (by decide) (by decide) (by decide),
      flag_fput_same _ _ (by decide)]
    rfl
  · rw [flag_fput_apart _ _ (by decide) (by decide) (by decide), flag_fput_apart _ _ (by decide) (by decide) (by decide),
      flag_fput_apart _ _ (by decide) (by decide) (by decide), flag_fput_apart _ _ (by decide) (by decide) (by decide), hf]
  · rw [fget_fput_apart _ _ _ _ _ _ _ (by decide) (by decide) (by decide),
      fget_fput_apart _ _ _ _ _ _ _ (by decide) (by decide) (by decide),
      fget_fput_apart _ _ _ _ _ _ _ (by decide) (by decide) (by decide), fget_fput_same _ _ _ _ _ (by decide) (by decide),
      Nat.zero_mod]

/-- A host's image that fails: FAIL and its result, and no SRC_HOST (R82, R83). -/
theorem copyFails_host {u : State} (hc : u.img.copy = 2) (hl : u.img.last = true) (code sect : Nat) {r : Nat} (hr : r < 16)
    (hf : flag u Reg.imgStat 29 = false) :
    (copyFails u r code sect).img.phase = .failed ∧ flag (copyFails u r code sect) Reg.imgStat 30 = true ∧
      flag (copyFails u r code sect) Reg.imgStat 29 = false ∧ fget (copyFails u r code sect) Reg.imgStat 19 16 = r := by
  have next := copyFails_next u r code sect
  have result := fget_copyFails u code sect hr
  rw [hl] at next
  rw [hc] at result
  have noted : flag (copyNoted u r code sect) Reg.imgStat 29 = flag u Reg.imgStat 29 := by
    have first : imgResult u u.img.copy r = fput u Reg.imgStat 19 16 r := by simp [imgResult, hc]
    unfold copyNoted
    rw [first]
    split
    · rw [flag_fput_apart _ _ (by decide) (by decide) (by decide), flag_fput_apart _ _ (by decide) (by decide) (by decide),
        flag_fput_apart _ _ (by decide) (by decide) (by decide)]
    · exact flag_fput_apart _ _ (by decide) (by decide) (by decide) _
  obtain ⟨phase, fail⟩ := next
  refine ⟨phase, fail, ?_, result⟩
  rw [copyFails_eq, hl, if_pos rfl, flag_imgFail_apart _ (by decide), noted, hf]

theorem copyFails_copy {u : State} (hl : u.img.last = true) (r code sect : Nat) :
    (copyFails u r code sect).img.copy = u.img.copy := by
  rw [copyFails_eq, hl, if_pos rfl, imgFail_img, copyNoted_img]

/-- HOST_LOAD checks the host's image at once: it is admitted with SRC_HOST, or FAIL is set (R82, R84). -/
theorem hostLoad_checks (hw : mayWrite s m Reg.imgCtrl 4 = true) (hl : s.lcs.lcState ≠ 2) (hp : progOn s Reg.imgProg = false)
    (ha : flag s Reg.imgStat 31 = false) :
      ∃ t, exec (.hostLoad m) s = .next t ∧ t.img.copy = 2 ∧ keepsUnits [.img, .intg] s t ∧
      (authenticate s (hostImage s).2 (hostSpace s) true = (0, 0, 0) →
        t.img.phase = .admitted ∧ t.img.staged = slice (hostImage s).2 0 (imgLength (hostImage s).2) ∧
        flag t Reg.imgStat 29 = true ∧ flag t Reg.imgStat 30 = false ∧ fget t Reg.imgStat 19 16 = 0 ∧
        progOn t Reg.imgProg = true) ∧
      (∀ (r : Nat) (e : Nat × Nat), 0 < r → r < 16 → authenticate s (hostImage s).2 (hostSpace s) true = (r, e) →
          t.img.phase = .failed ∧ flag t Reg.imgStat 30 = true ∧ flag t Reg.imgStat 29 = false ∧
          fget t Reg.imgStat 19 16 = r) := by
  have stat : rd (portCount s m) Reg.imgStat = rd s Reg.imgStat := rd_portCount s m (belowCounts_of_lt (by decide))
  have prog : rd (portCount s m) Reg.imgProg = rd s Reg.imgProg := rd_portCount s m (belowCounts_of_lt (by decide))
  have e : imgCtrlWrite (portCount s m) 1 =
      let a := authenticate s (hostImage s).2 (hostSpace s) true
      if a.1 = 0 then copyPasses (hostLoading (portCount s m)) (hostImage s).2
      else copyFails (hostLoading (portCount s m)) a.1 a.2.1 a.2.2 := by
    rw [imgCtrlWrite_host, hostLoad_eq (portCount s m) (by rwa [portCount_lcs]) (by rwa [progOn_congr prog])
      (by rwa [flag_congr stat]), hostImage_portCount, hostSpace_portCount,
      authenticate_congr s (portCount_lcs s m) (congrArg ImgSt.straps (portCount_img s m))]
  have loading := hostLoading_img (portCount s m)
  have copy : (hostLoading (portCount s m)).img.copy = 2 := by rw [loading]
  have last : (hostLoading (portCount s m)).img.last = true := by rw [loading]
  have kept {rs : List Nat} {t : State} (h : Only [.img] rs (hostLoading (portCount s m)) t) :
      keepsUnits [.img, .intg] s (finish s t) := fun u hu =>
    u.same_trans (u.same_trans ((only_portCount s m).1 u (by simp)) (keeps_hostLoading _ u hu))
      (u.same_trans (h.1 u (fun hi => hu (by simp_all))) ((only_finish s t).1 u (by simp)))
  refine ⟨_, exec_hostLoad hw, ?_⟩
  rw [e, finish_img, flag_congr (rd_finish_below s (belowCounts_of_lt (by decide))),
    flag_congr (rd_finish_below s (belowCounts_of_lt (by decide))), fget_congr (rd_finish_below s (belowCounts_of_lt (by decide))),
    progOn_congr (rd_finish_below s (belowCounts_of_lt (by decide)))]
  generalize authenticate s (hostImage s).2 (hostSpace s) true = a
  obtain ⟨r, c⟩ := a
  dsimp only
  split
  case isTrue h0 =>
    have frame := only_copyPasses (hostLoading (portCount s m)) (hostImage s).2
    obtain ⟨source, fail, result⟩ := copyPasses_host copy (hostImage s).2 (flag_hostLoading _ (Or.inr rfl))
    rw [copyPasses_img]
    refine ⟨copy, kept frame, fun _ => ⟨rfl, rfl, source, fail, result, progOn_copyPasses _ _⟩, fun q d h1 _ hq => ?_⟩
    have := congrArg Prod.fst hq
    dsimp only at this
    omega
  case isFalse h0 =>
    have frame := only_copyFails (hostLoading (portCount s m)) r c.1 c.2
    refine ⟨(copyFails_copy last _ _ _).trans copy, kept frame, fun hq => absurd (congrArg Prod.fst hq) h0,
      fun q d _ h16 hq => ?_⟩
    obtain ⟨rfl, rfl⟩ := Prod.mk.inj hq
    exact copyFails_host copy last _ _ h16 (flag_hostLoading _ (Or.inl rfl))

end HostLoad

/-! ### The lock and the flash commands (R81, R85) -/

theorem regRow_imgLock : regRow Reg.imgLock = some ⟨"IMG_LOCK", 0x20004, 1, 8, 1, 8, false, [fld 0 0 .w1s 0]⟩ := by decide +kernel

section Lock
variable {s : State} {m : Requester}

/-- LOCK sets its bit, which no write clears (R85). -/
theorem commitFields_lock (u : State) (c : Nat) :
    commitFields u c Reg.imgLock 1 = fput u Reg.imgLock 0 0 (fget u Reg.imgLock 0 0 ||| 1) := by
  rw [commitFields_row regRow_imgLock]
  rfl

theorem lock_locks (hw : mayWrite s m Reg.imgLock 4 = true) : Ends (.lock m) s fun t =>
    locked t = true ∧ Only [] (Reg.imgLock :: portRegs m) s t := by
  refine ends_of (exec_lock hw) ?_
  rw [commitFields_lock, locked, flag_congr (rd_finish_below s (belowCounts_of_lt (by decide)))]
  refine ⟨?_, (only_fput _ _ _ _ _).counted⟩
  rw [flag_fput_same _ _ (by decide), bitOf_eq_testBit, Nat.testBit_or]
  simp

end Lock

section Flash
variable (s : State)

/-- The read of the flash's status, and when it was made (R81). -/
def statusAsked : State := emit { s with img := { s.img with pollAt := s.cycle } } (.flash 0x05 none [] 1)

/-- The flash is ready: the command ends (R81). -/
def flashEnded : State :=
  { fput (statusAsked s) Reg.imgFcmd 30 30 0 with img := { (statusAsked s).img with poll := none } }

/-- The flash stays busy for 4 s: the command ends with FAILED (R81). -/
def flashGivenUp : State :=
  { fput (fput s Reg.imgFcmd 30 30 0) Reg.imgFcmd 28 28 1 with img := { s.img with poll := none } }

variable {s} {c : Nat} (hp : s.img.poll = some c)

theorem only_statusAsked : Only [.img] [] s (statusAsked s) := (only_setImg s _).trans (only_emit _ _)

theorem mem_out_statusAsked : .flash 0x05 none [] 1 ∈ (statusAsked s).out := by simp [statusAsked, emit]

theorem only_flashEnded : Only [.img] [Reg.imgFcmd] s (flashEnded s) :=
  (only_statusAsked.trans (only_fput _ Reg.imgFcmd 30 30 0)).more (only_setImg _ _) (by simp) (by simp)

theorem belowCounts_imgFcmd : belowCounts Reg.imgFcmd := belowCounts_of_lt (by decide)

theorem flag_flashEnded : flag (flashEnded s) Reg.imgFcmd 30 = false :=
  (flag_congr ((only_setImg _ _).rd_eq belowCounts_imgFcmd (by simp)) 30).trans (flag_fput_same (statusAsked s) _ (by decide) 0)

theorem only_flashGivenUp : Only [.img] [Reg.imgFcmd] s (flashGivenUp s) :=
  (((only_fput s Reg.imgFcmd 30 30 0).trans (only_fput _ Reg.imgFcmd 28 28 1)).trans (only_setImg _ _)).mono (by simp) (by simp)

theorem flag_flashGivenUp :
    flag (flashGivenUp s) Reg.imgFcmd 30 = false ∧ flag (flashGivenUp s) Reg.imgFcmd 28 = true := by
  have same (b : Nat) : flag (flashGivenUp s) Reg.imgFcmd b =
      flag (fput (fput s Reg.imgFcmd 30 30 0) Reg.imgFcmd 28 28 1) Reg.imgFcmd b :=
    flag_congr ((only_setImg _ _).rd_eq belowCounts_imgFcmd (by simp)) b
  rw [same, same, flag_fput_apart _ _ (by decide) (by decide) (by decide), flag_fput_same _ _ (by decide),
    flag_fput_same _ _ (by decide)]
  exact ⟨rfl, rfl⟩

include hp

theorem flashPoll_due (busy : Bool) (hd : max c s.img.pollAt + 8000 ≤ s.cycle) :
    flashPoll s busy = if busy then statusAsked s else flashEnded s := by
  rw [flashPoll, hp]
  exact if_neg (by omega)

theorem flashTimeout_due (hd : c + 3200000000 ≤ s.cycle) : flashTimeout s = flashGivenUp s := by
  rw [flashTimeout, hp]
  exact if_neg (by omega)

theorem flashStatusPoll_asks (ha : awake s = true) (busy : Bool) (hd : max c s.img.pollAt + 8000 ≤ s.cycle) :
    Ends (.flashStatusPoll busy) s fun t =>
        (if busy then t.img.poll = some c ∧ rd t Reg.imgFcmd = rd s Reg.imgFcmd
          else t.img.poll = none ∧ flag t Reg.imgFcmd 30 = false) ∧ .flash 0x05 none [] 1 ∈ t.out ∧
        t.img.pollAt = s.cycle ∧ Only [.img] [Reg.imgFcmd] s t := by
  refine ends_of (core_flashStatusPoll busy ha) ?_
  rw [flashPoll_due hp busy hd, rd_finish_below s belowCounts_imgFcmd, flag_congr (rd_finish_below s belowCounts_imgFcmd), finish_img]
  cases busy with
  | true =>
    exact ⟨⟨hp, rfl⟩, mem_out_finish s mem_out_statusAsked, rfl, (only_statusAsked.mono (by simp) (by simp)).finished⟩
  | false =>
    have sent : .flash 0x05 none [] 1 ∈ (flashEnded s).out := by
      rw [flashEnded, fput_out]
      exact mem_out_statusAsked
    exact ⟨⟨rfl, flag_flashEnded⟩, mem_out_finish s sent, rfl, only_flashEnded.finished⟩

theorem flashTimeout_fails (ha : awake s = true) (hd : c + 3200000000 ≤ s.cycle) : Ends .flashTimeout s fun t =>
    t.img.poll = none ∧ flag t Reg.imgFcmd 30 = false ∧ flag t Reg.imgFcmd 28 = true ∧ Only [.img] [Reg.imgFcmd] s t := by
  refine ends_of (core_flashTimeout ha) ?_
  rw [flashTimeout_due hp hd, flag_congr (rd_finish_below s belowCounts_imgFcmd),
    flag_congr (rd_finish_below s belowCounts_imgFcmd), finish_img]
  exact ⟨rfl, flag_flashGivenUp.1, flag_flashGivenUp.2, only_flashGivenUp.finished⟩

end Flash

end Sys2Proof.Machine
end

section
namespace Sys2Proof.Machine

/-! ### FLASH_COMMAND (R81) -/

theorem regRow_imgFcmd : regRow Reg.imgFcmd = some ⟨"IMG_FCMD", 0x20010, 1, 8, 1, 8, false,
    [fld 31 31 .wo 0, fld 30 30 .ro 0, fld 29 29 .w1c 0, fld 28 28 .w1c 0, fld 19 19 .rw 0, fld 18 18 .rw 0, fld 17 17 .rw 0,
      fldR 16 8 .rw 0 [(0, 0x100)] 1, fld 7 0 .rw 0]⟩ := by decide +kernel

/-- The command's own fields of IMG_FCMD, written over a word. -/
def fcmdTaken (x v : Nat) : Nat :=
  putBits (putBits (putBits (putBits (putBits x 19 19 (bitsOf v 19 19)) 18 18 (bitsOf v 18 18)) 17 17 (bitsOf v 17 17)) 16 8
    (bitsOf v 16 8)) 7 0 (bitsOf v 7 0)

/-- A write of IMG_FCMD with a length that is not reserved takes the command's fields (R8, R9). -/
theorem commitFields_imgFcmd (u : State) (c : Nat) {v : Nat} (hv : bitsOf v 16 8 ≤ 256) :
    ∃ x, commitFields u c Reg.imgFcmd v = wr u Reg.imgFcmd (fcmdTaken x v) := by
  have length : (fldR 16 8 .rw 0 [(0, 0x100)] 1).allows (bitsOf v 16 8) = true := by
    simp [Field.allows, fldR, hv, Nat.mod_one]
  have go (lock : Bool) (keep old : Nat) :
      (fld 31 31 .wo 0).write lock keep old v = (putBits old 31 31 (bitsOf v 31 31), false, false) := by
    simp [Field.write, fld, Field.allows, Nat.mod_one]
  have kept (lock : Bool) (keep old : Nat) : (fld 30 30 .ro 0).write lock keep old v = (old, false, false) := rfl
  have cleared (i : Nat) (lock : Bool) (keep old : Nat) : ((fld i i .w1c 0).write lock keep old v).2 = (false, false) :=
    write_w1c_flags _ rfl lock keep old v
  have taken (hi lo : Nat) (lock : Bool) (keep old : Nat) :
      (fld hi lo .rw 0).write lock keep old v = (putBits old hi lo (bitsOf v hi lo), false, false) :=
    write_rw rfl _ _ _ (allows_fld _ _ _ _ _)
  have takenLength (lock : Bool) (keep old : Nat) :
      (fldR 16 8 .rw 0 [(0, 0x100)] 1).write lock keep old v = (putBits old 16 8 (bitsOf v 16 8), false, false) :=
    write_rw rfl _ _ _ length
  refine ⟨((fld 28 28 .w1c 0).write (locked u) (evtMask u Reg.imgFcmd) ((fld 29 29 .w1c 0).write (locked u)
    (evtMask u Reg.imgFcmd) (putBits (rd u Reg.imgFcmd) 31 31 (bitsOf v 31 31)) v).1 v).1, ?_⟩
  rw [commitFields_row regRow_imgFcmd]
  simp [fieldsWrite, go, kept, cleared, taken, takenLength, fcmdTaken]

/-- A field that was put and that no field put after it meets. -/
theorem bitsOf_fcmdTaken (x v : Nat) : bitOf (fcmdTaken x v) 18 = bitOf v 18 ∧ bitOf (fcmdTaken x v) 17 = bitOf v 17 ∧
    bitsOf (fcmdTaken x v) 16 8 = bitsOf v 16 8 ∧ bitsOf (fcmdTaken x v) 7 0 = bitsOf v 7 0 := by
  refine ⟨?_, ?_, ?_, ?_⟩
  · simp [fcmdTaken, bitOf_putBits, bitsOf_single]
  · simp [fcmdTaken, bitOf_putBits, bitsOf_single]
  · rw [fcmdTaken, bitsOf_putBits_apart _ _ _ _ _ _ (by decide) (by decide), bitsOf_putBits_same _ _ _ _ (by decide)]
    exact Nat.mod_eq_of_lt (bitsOf_lt v 16 8)
  · rw [fcmdTaken, bitsOf_putBits_same _ _ _ _ (by decide)]
    exact Nat.mod_eq_of_lt (bitsOf_lt v 7 0)

/-- The word of the command that runs: the fields written, GO gone. -/
theorem rd_goTaken (u : State) (x v : Nat) :
    rd (fput (wr u Reg.imgFcmd (fcmdTaken x v)) Reg.imgFcmd 31 31 0) Reg.imgFcmd =
      putBits (fcmdTaken x v % 2 ^ 64) 31 31 0 := by
  rw [rd_fput _ _ _ _ _ (by decide) (by decide), rd_wr_same]

theorem fields_goTaken (x v : Nat) :
    bitOf (putBits (fcmdTaken x v % 2 ^ 64) 31 31 0) 18 = bitOf v 18 ∧
    bitOf (putBits (fcmdTaken x v % 2 ^ 64) 31 31 0) 17 = bitOf v 17 ∧
    bitsOf (putBits (fcmdTaken x v % 2 ^ 64) 31 31 0) 16 8 = bitsOf v 16 8 ∧
    bitsOf (putBits (fcmdTaken x v % 2 ^ 64) 31 31 0) 7 0 = bitsOf v 7 0 := by
  obtain ⟨read, wait, length, opcode⟩ := bitsOf_fcmdTaken x v
  refine ⟨?_, ?_, ?_, ?_⟩
  · rw [bitOf_putBits _ _ _ _ _ (by decide), if_neg (by decide), bitOf_mod _ (by decide), read]
  · rw [bitOf_putBits _ _ _ _ _ (by decide), if_neg (by decide), bitOf_mod _ (by decide), wait]
  · rw [bitsOf_putBits_apart _ _ _ _ _ _ (by decide) (by decide), bitsOf_mod _ _ (by decide), length]
  · rw [bitsOf_putBits_apart _ _ _ _ _ _ (by decide) (by decide), bitsOf_mod _ _ (by decide), opcode]

section LoaderWrite
variable (s : State)

/-- The error pattern of a word once the lanes written are good again (R413). -/
def lanesRenewed (w : Nat) (lanes : List Nat) : State :=
  match flipAt s 0 w with
  | none => s
  | some f => setFlip s 0 w (if wordAfter f.mask lanes = 0 then none else some ⟨wordAfter f.mask lanes, f.injected⟩)

/-- A word written whole is tracked as poisoned no more (R413, R423). -/
def poisonFreed (w : Nat) (lanes : List Nat) : State :=
  if lanes.length = 8 then
    match trackOf s 0 w with
    | some t => if t.st = .poison then trackFree s 0 w else s
    | none => s
  else s

/-- A word's write renews its lanes, frees its poison, and meets an armed fault (R413, R435). -/
theorem spmWordWritten_eq (w : Nat) (lanes : List Nat) : ∃ k, spmWordWritten s w lanes =
    let s2 := poisonFreed (lanesRenewed s w lanes) w lanes
    if lanes ≠ [] && flipHits s2 0 w then flipApply s2 0 w k else s2 := ⟨_, rfl⟩

theorem lanesRenewed_out (w : Nat) (lanes : List Nat) : (lanesRenewed s w lanes).out = s.out := by
  unfold lanesRenewed
  split
  · rfl
  · exact setFlip_out s _ _ _

theorem poisonFreed_out (w : Nat) (lanes : List Nat) : (poisonFreed s w lanes).out = s.out := by
  unfold poisonFreed
  split
  · split
    · split <;> rfl
    · rfl
  · rfl

/-- A word of the scratchpad written sends nothing. -/
theorem spmWordWritten_out (w : Nat) (lanes : List Nat) : (spmWordWritten s w lanes).out = s.out := by
  obtain ⟨k, e⟩ := spmWordWritten_eq s w lanes
  have written := (poisonFreed_out (lanesRenewed s w lanes) w lanes).trans (lanesRenewed_out s w lanes)
  rw [e]
  dsimp only
  split
  · exact (flipApply_out _ _ _ _).trans written
  · exact written

theorem spmWrite_out (a : Nat) (bs : List Byte) : (spmWrite s a bs).out = s.out := by
  unfold spmWrite
  dsimp only
  refine foldl_same _ _ State.out (fun t w => ?_) _
  split
  · rfl
  · exact spmWordWritten_out t w _

/-- The loader's write of a flash command's data sends nothing (R414). -/
theorem loaderWrite_out (off : Nat) (data : List Byte) : (loaderWrite s off data).out = s.out := by
  unfold loaderWrite
  dsimp only
  split
  · rfl
  · split
    · simp [spmFault]
    · exact spmWrite_out s off data

end LoaderWrite

section FlashCommand
variable {s : State} {m : Requester} {v : BitVec 32} {data : List Byte}

/-- A command that reads and waits, its opcode sent after the write enable and its bytes stored (R81). -/
def flashSent (u : State) (w : Nat) (ext : List Byte) : State :=
  loaderWrite { u with out := u.out ++ [.flash 0x06 none [] 0] ++
    [.flash (bitsOf w 7 0) (if bitOf w 19 then some (rd u Reg.imgFaddr) else none) [] (bitsOf w 16 8)] }
    (fget u Reg.imgFbuf 18 0) (slice ext 0 (bitsOf w 16 8))

/-- BUSY set and the status polled from a cycle on. -/
def flashPolled (t : State) (c : Nat) : State := { fput t Reg.imgFcmd 30 30 1 with img := { t.img with poll := some c } }

theorem flashRun_eq (u : State) {w : Nat} (hr : bitOf w 18 = true) (hw : bitOf w 17 = true) (ext : List Byte) :
    flashRun u w ext = flashPolled (flashSent u w ext) u.cycle := by
  simp only [flashRun, hr, hw, if_true, flashPolled, flashSent]

theorem flashPolled_busy (t : State) (c : Nat) : flag (flashPolled t c) Reg.imgFcmd 30 = true := by
  rw [flashPolled, flag_congr ((only_setImg _ _).rd_eq belowCounts_imgFcmd (by simp)), flag_fput_same _ _ (by decide)]
  rfl

theorem flashPolled_out (t : State) (c : Nat) : (flashPolled t c).out = t.out := by
  simp [flashPolled, fput_out]

/-- A command that reads and waits: its opcode is sent, its status is polled from now on (R81). -/
theorem flashRun_waits (u : State) {w : Nat} (hr : bitOf w 18 = true) (hw : bitOf w 17 = true) (ext : List Byte) :
    flag (flashRun u w ext) Reg.imgFcmd 30 = true ∧ (flashRun u w ext).img.poll = some u.cycle ∧
      ∃ addr, .flash (bitsOf w 7 0) addr [] (bitsOf w 16 8) ∈ (flashRun u w ext).out := by
  rw [flashRun_eq u hr hw]
  refine ⟨flashPolled_busy _ _, rfl, if bitOf w 19 then some (rd u Reg.imgFaddr) else none, ?_⟩
  rw [flashPolled_out, flashSent, loaderWrite_out]
  exact List.mem_append_right _ (List.mem_singleton_self _)

/-- With GO, no command running and no load, a command outside PRODUCE runs (R81). -/
theorem fcmdWrite_runs {u : State} (c : Nat) {w : Nat} (hg : bitOf w 31 = true) (hl : u.lcs.lcState ≠ 2)
    (hp : progOn u Reg.imgProg = false) (hb : flag u Reg.imgFcmd 30 = false) (ext : List Byte) :
    fcmdWrite u c w ext = flashRun (fput (commitFields u c Reg.imgFcmd w) Reg.imgFcmd 31 31 0)
      (rd (fput (commitFields u c Reg.imgFcmd w) Reg.imgFcmd 31 31 0) Reg.imgFcmd) ext := by
  have allowed (x a : Nat) : flashAllowed u x a = true := by simp [flashAllowed, hl]
  rw [fcmdWrite, if_neg (by simp [hg]), if_neg (by simp [hp, hb])]
  dsimp only
  exact if_pos (allowed _ _)

theorem flashCommand_sends (hw : mayWrite s m Reg.imgFcmd 4 = true) (hg : bitOf v.toNat 31 = true)
    (hr : bitOf v.toNat 18 = true) (hwait : bitOf v.toNat 17 = true) (hl : s.lcs.lcState ≠ 2)
    (hp : progOn s Reg.imgProg = false) (hb : flag s Reg.imgFcmd 30 = false) (hn : bitsOf v.toNat 16 8 ≤ 256) :
    Ends (.flashCommand m v data) s fun t =>
      flag t Reg.imgFcmd 30 = true ∧ t.img.poll = some s.cycle ∧
      (∃ addr, .flash (bitsOf v.toNat 7 0) addr [] (bitsOf v.toNat 16 8) ∈ t.out) := by
  obtain ⟨x, committed⟩ := commitFields_imgFcmd (portCount s m) m.code hn
  obtain ⟨read, wait, length, opcode⟩ := fields_goTaken x v.toNat
  have e : regCommand s m Reg.imgFcmd v (fun u => fcmdWrite u m.code v.toNat data) =
      flashRun (fput (wr (portCount s m) Reg.imgFcmd (fcmdTaken x v.toNat)) Reg.imgFcmd 31 31 0)
        (putBits (fcmdTaken x v.toNat % 2 ^ 64) 31 31 0) data := by
    rw [regCommand, if_pos hw, fcmdWrite_runs m.code hg (by rwa [portCount_lcs])
      (by rwa [progOn_congr (rd_portCount s m (belowCounts_of_lt (by decide)))])
      (by rwa [flag_congr (rd_portCount s m belowCounts_imgFcmd)]), committed, rd_goTaken]
  obtain ⟨busy, poll, addr, sent⟩ := flashRun_waits
    (fput (wr (portCount s m) Reg.imgFcmd (fcmdTaken x v.toNat)) Reg.imgFcmd 31 31 0) (read.trans hr) (wait.trans hwait) data
  rw [fput_cycle, wr_cycle, portCount_cycle] at poll
  rw [length, opcode] at sent
  refine ends_of (core_flashCommand m v data (awake_of_mayWrite hw)) ?_
  rw [e, flag_congr (rd_finish_below s belowCounts_imgFcmd), finish_img]
  exact ⟨busy, poll, addr, mem_out_finish s sent⟩

end FlashCommand

/-- Settles O20: the loader's steps by the operation each one comes to, which leaves a copy fetched, failed or admitted; the end
of apply by what its steps after the lock leave alone; a host's image, the lock and the flash commands by what they write. -/
theorem loaderReadsAdmitsAndAppliesAnImage : Obligations.LoaderReadsAdmitsAndAppliesAnImage := by
  unfold Obligations.LoaderReadsAdmitsAndAppliesAnImage
  intro s ha
  exact ⟨iltRead_fetches s ha, fun hs hc hp _ => readFail_turns s ha hs hc hp, imageFetchDone_admits s ha, imageApplyEnd_enters s ha,
    hostLoad_checks s, fun _ => lock_locks, fun _ _ _ => flashCommand_sends,
    fun _ busy hp => flashStatusPoll_asks hp ha busy, fun _ hp => flashTimeout_fails hp ha⟩

end Sys2Proof.Machine
end

section
namespace Sys2Proof.Machine

/-! ### Without the fast clocks -/

/-- The reset state of a device without supply whose road time lies one past the 64 ns bits and 40 fraction bits that R87
gives it: road time that no edge of the clock can leave. -/
def offBeyondRoad : State :=
  { State.reset with
    pwr := { PwrSt.zero with st := .off }
    mil := { MilSt.zero with road := 2 ^ 104 } }

/-- A command that leaves a road time beyond its bits finds it changed against the wrap, and keeps the time base as one that
changed out of turn (R101). -/
theorem finish_past_of_road_beyond {s : State} (h : s.mil.road ≠ roadWrap s.mil.road) :
    (finish s s).past = timeBase s :: s.past.filter (fun (p : PastTime) => decide (s.cycle < p.cycle + 256)) := by
  have hm : (settle { s with
      pending := s.pending
      cycle := s.cycle }).mil = s.mil := (quiet_settle _).1.1 .mil (by simp)
  rw [finish, notePast, if_neg]
  rintro ⟨hroad, -⟩
  rw [hm, add_zero] at hroad
  exact h hroad

theorem offBeyondRoad_msixInv : offBeyondRoad.msixInv := by
  unfold State.msixInv
  decide +kernel

/-- Refutes O57: of a device in OFF whose road time lies beyond its 104 bits (a state the model has and no run reaches), SLEW_END,
which does nothing to it, still keeps the time base as changed, because the end of a command compares road time with its wrap. -/
theorem not_withoutFastClocksOnlyTheAlwaysOnDomainMoves : ¬ Obligations.WithoutFastClocksOnlyTheAlwaysOnDomainMoves := by
  unfold Obligations.WithoutFastClocksOnlyTheAlwaysOnDomainMoves
  rintro ⟨asleep, -, -⟩
  have unchanged : exec .slewEnd offBeyondRoad = .next offBeyondRoad :=
    asleep .slewEnd offBeyondRoad (by decide) offBeyondRoad_msixInv rfl
  have ends : exec .slewEnd offBeyondRoad = .next (finish offBeyondRoad offBeyondRoad) := rfl
  rw [ends] at unchanged
  injection unchanged with e
  have kept := finish_past_of_road_beyond (s := offBeyondRoad) (by decide)
  rw [e] at kept
  cases kept

end Sys2Proof.Machine
end

section
namespace Sys2Proof.Machine

/-! ### Road time: what the unit's small operations change and leave -/

section Layer
variable (s : State)

theorem belowCounts_milEvt : belowCounts Reg.milEvt := belowCounts_of_lt (by decide)

theorem flag_finish_milEvt (t : State) (b : Nat) : flag (finish s t) Reg.milEvt b = flag t Reg.milEvt b :=
  flag_congr (rd_finish_below s belowCounts_milEvt) b

/-- An event latched stays latched when another one is. -/
theorem flag_setEvt_of {o b c : Nat} (hb : b < 64) (h : flag s o c = true) : flag (setEvt s o b) o c = true := by
  by_cases e : c = b
  · rw [e, flag_setEvt_same _ _ _ hb]
  · rw [flag_setEvt_ne _ _ hb e, h]

theorem stepLim_congr {t : State} (h : rd t Reg.milServo = rd s Reg.milServo) : stepLim t = stepLim s := by
  rw [stepLim, stepLim, fget_congr h]

theorem anyProfile_congr {t : State} (h : rd t Reg.cblProfEn = rd s Reg.cblProfEn) : anyProfile t = anyProfile s := by
  rw [anyProfile, anyProfile, h]

theorem boundaryFrom_congr {t : State} (h : t.mil = s.mil) : boundaryFrom t = boundaryFrom s := by
  rw [boundaryFrom, boundaryFrom, h]

/-- A signed field looks at its own bits alone. -/
theorem sextI_mod (w v : Nat) (hw : 0 < w) : sextI w (v % 2 ^ w) = sextI w v := by
  rw [sextI, sextI, bitOf_mod _ (by omega), Nat.mod_mod]

/-! VALID and the generators it arms (R96, R108). -/

theorem only_armPulse (n : Nat) : Only [.mil] [] s (armPulse s n) := by
  unfold armPulse
  dsimp only
  split
  · exact only_setPulse s n _
  · exact Only.refl _ _ s

theorem only_setValid : Only [.mil] [] s (setValid s) := by
  unfold setValid
  split
  · exact Only.refl _ _ s
  · exact (only_mil s _).more (only_foldl _ (fun t n => only_armPulse t n) _ _) (by simp) (by simp)

/-- VALID set is VALID, and nothing else of the unit but the generators moves. -/
theorem setValid_sets : ∃ p, (setValid s).mil = { s.mil with
    valid := true
    pulse := p } := by
  unfold setValid
  split
  · rename_i h
    exact ⟨s.mil.pulse, by rw [← h]⟩
  · exact armAll_mil (List.range 10) { s with mil := { s.mil with valid := true } }

/-! The servo's state (R92, R114). -/

theorem servoState_mil (st : Nat) : ∃ w a, (servoState s st).mil = { s.mil with
    state := st
    warm := w
    aonFrom := a } := by
  unfold servoState
  dsimp only
  split
  · rename_i h
    exact ⟨s.mil.warm, s.mil.aonFrom, by rw [← h]⟩
  · split
    · exact ⟨_, _, setEvt_mil _ _ _⟩
    · split
      · exact ⟨_, _, setEvt_mil _ _ _⟩
      · exact ⟨_, _, rfl⟩

theorem only_servoState (st : Nat) : Only [.mil] [Reg.milEvt] s (servoState s st) := by
  have moved (x : MilSt) : Only [.mil] [Reg.milEvt] s { s with mil := x } := (only_mil s x).mono (by simp) (by simp)
  unfold servoState
  dsimp only
  split
  · exact Only.refl _ _ s
  · split
    · exact (moved _).setEvt 0 (by simp)
    · split
      · exact (moved _).setEvt 2 (by simp)
      · exact moved _

/-- Entering LOCKED latches its event. -/
theorem flag_servoState_locked (h : s.mil.state ≠ 2) : flag (servoState s 2) Reg.milEvt 0 = true := by
  simp only [servoState, if_neg h, if_true]
  exact flag_setEvt_same _ _ _ (by decide)

/-- Entering HOLDOVER latches its event. -/
theorem flag_servoState_holdover (h : s.mil.state ≠ 3) : flag (servoState s 3) Reg.milEvt 2 = true := by
  simp only [servoState, if_neg h, if_true]
  exact flag_setEvt_same _ _ _ (by decide)

/-- A change of state takes no event away. -/
theorem flag_servoState_of {b : Nat} (st : Nat) (h : flag s Reg.milEvt b = true) :
    flag (servoState s st) Reg.milEvt b = true := by
  unfold servoState
  dsimp only
  split
  · exact h
  · split
    · exact flag_setEvt_of _ (by decide) h
    · split
      · exact flag_setEvt_of _ (by decide) h
      · exact h

end Layer

/-! ### Corrections -/

section Corrections
variable (s : State)

/-- The amount of the pending step, 0 when there is none. -/
def pendingStep (s : State) : Int :=
  match s.mil.step with
  | some p => p.1
  | none => 0

/-- A correction is slewed: it is small, or negative with a profile enabled (R95, R96). -/
def slews (s : State) (c : Int) : Prop := absI c ≤ stepLim s ∨ (c < 0 ∧ anyProfile s = true)

theorem only_addSlew (c : Int) (setting : Bool) : Only [.mil] [] s (addSlew s c setting) := by
  have added := only_mil s { s.mil with rem := s.mil.rem + c }
  unfold addSlew
  dsimp only
  split
  · exact added.more (only_setValid _) (by simp) (by simp)
  · exact added

variable {s}

theorem correct_slewed {c : Int} (h : slews s c) (setting : Bool) :
    correct s c setting = addSlew (if absI c > stepLim s then setEvt s Reg.milEvt 4 else s) c setting := if_pos h

theorem correct_pending {c : Int} (h : ¬ slews s c) (setting : Bool) :
    correct s c setting = { s with mil := { s.mil with
      step := some (pendingStep s + c, boundaryFrom s)
      setStep := s.mil.setStep || setting } } := if_neg h

variable (s)

theorem slewReported_mil (c : Int) : (if absI c > stepLim s then setEvt s Reg.milEvt 4 else s).mil = s.mil := by
  split
  · exact setEvt_mil s _ _
  · rfl

theorem only_correct (c : Int) (setting : Bool) : Only [.mil] [Reg.milEvt] s (correct s c setting) := by
  by_cases h : slews s c
  · rw [correct_slewed h]
    refine Only.more (t := if absI c > stepLim s then setEvt s Reg.milEvt 4 else s) ?_ (only_addSlew _ _ _) (by simp) (by simp)
    split
    · exact (only_setEvt s _ _).mono (by simp) (by simp)
    · exact Only.refl _ _ s
  · rw [correct_pending h]
    exact (only_mil s _).mono (by simp) (by simp)

/-- An offset is slewed or joins the pending step, and nothing else of the unit moves. -/
theorem correct_offset_mil (c : Int) : (correct s c false).mil = (if absI c ≤ stepLim s ∨ (c < 0 ∧ anyProfile s = true)
    then { s.mil with rem := s.mil.rem + c } else { s.mil with step := some (pendingStep s + c, boundaryFrom s) }) := by
  by_cases h : slews s c
  · refine Eq.trans ?_ (if_pos h).symm
    rw [correct_slewed h, ← slewReported_mil s c]
    rfl
  · refine Eq.trans ?_ (if_neg h).symm
    rw [correct_pending h, Bool.or_false]

/-- NEG_SLEWED is latched by a correction beyond STEP_LIM that is slewed all the same. -/
theorem flag_correct (c : Int) : flag (correct s c false) Reg.milEvt 4 =
    (flag s Reg.milEvt 4 || (decide (c < 0) && anyProfile s && decide (stepLim s < absI c))) := by
  by_cases h : slews s c
  · rw [correct_slewed h, flag_congr (rd_congr (addSlew_keeps _ c false).1 _)]
    by_cases hl : stepLim s < absI c
    · obtain ⟨hneg, hany⟩ := h.resolve_left (by omega)
      rw [if_pos hl, flag_setEvt_same _ _ _ (by decide)]
      simp [hneg, hany, hl]
    · rw [if_neg hl]
      simp [hl]
  · rw [correct_pending h]
    have hn : (decide (c < 0) && anyProfile s) = false := by
      rw [← Bool.not_eq_true, Bool.and_eq_true, decide_eq_true_eq]
      exact fun e => h (Or.inr e)
    rw [hn, Bool.false_and]
    exact (flag_congr (rd_congr rfl _) 4).trans (Bool.or_false _).symm

/-- A set time that is slewed makes road time VALID at once (R96). -/
theorem correct_set_slewed {c : Int} (h : slews s c) : ∃ p, (correct s c true).mil = { s.mil with
    rem := s.mil.rem + c
    valid := true
    pulse := p } := by
  obtain ⟨p, hp⟩ := setValid_sets { (if absI c > stepLim s then setEvt s Reg.milEvt 4 else s) with
    mil := { (if absI c > stepLim s then setEvt s Reg.milEvt 4 else s).mil with
      rem := (if absI c > stepLim s then setEvt s Reg.milEvt 4 else s).mil.rem + c } }
  rw [correct_slewed h, addSlew, if_pos rfl]
  exact ⟨p, by rw [hp, slewReported_mil]⟩

end Corrections

end Sys2Proof.Machine
end

section
namespace Sys2Proof.Machine

/-! ### A step of road time -/

/-- Road time's unit and its events are as before. -/
structure KeepsTime (s t : State) : Prop where
  mil : t.mil = s.mil
  evt : rd t Reg.milEvt = rd s Reg.milEvt

section KeepsTime
variable {s t u : State} {us : List UnitName} {rs : List Nat}

theorem KeepsTime.refl (s : State) : KeepsTime s s := ⟨rfl, rfl⟩

theorem KeepsTime.trans (h : KeepsTime s t) (k : KeepsTime t u) : KeepsTime s u :=
  ⟨k.mil.trans h.mil, k.evt.trans h.evt⟩

theorem KeepsTime.ite {c : Prop} [Decidable c] (h : KeepsTime s t) (k : KeepsTime s u) : KeepsTime s (if c then t else u) := by
  split
  · exact h
  · exact k

/-- A frame that names neither the unit nor its events. -/
theorem Only.keepsTime (h : Only us rs s t) (hu : UnitName.mil ∉ us) (hr : Reg.milEvt ∉ rs) : KeepsTime s t :=
  ⟨h.1 .mil hu, h.rd_eq belowCounts_milEvt hr⟩

theorem keepsTime_foldl {α : Type} (g : State → α → State) (h : ∀ t a, KeepsTime t (g t a)) (l : List α) (s : State) :
    KeepsTime s (l.foldl g s) := by
  induction l generalizing s with
  | nil => exact KeepsTime.refl s
  | cons a l ih => exact (h s a).trans (ih _)

end KeepsTime

section Waymarks
variable (s : State)

theorem milEvt_not_mem_flipRegs : Reg.milEvt ∉ flipRegs := by decide

theorem keepsTime_setWay (x : WaySt) : KeepsTime s { s with way := x } := (only_setWay s x).keepsTime (by simp) (by simp)

theorem keepsTime_wcnt (i n : Nat) : KeepsTime s (wcnt s i n) :=
  (only_bump s (Reg.wayCnt i) n).keepsTime (by simp) (by simp [Reg.wayCnt, Reg.milEvt]; omega)

theorem keepsTime_wayEvt (b : Nat) : KeepsTime s (setEvt s Reg.wayEvt b) :=
  (only_setEvt s _ b).keepsTime (by simp) (by decide)

theorem keepsTime_setStream (n : Nat) (x : Stream) : KeepsTime s (setStream s n x) :=
  (only_setStream s n x).keepsTime (by simp) milEvt_not_mem_flipRegs

theorem keepsTime_setPage (n : Nat) (x : Page) : KeepsTime s (setPage s n x) :=
  (only_setPage s n x).keepsTime (by simp) milEvt_not_mem_flipRegs

theorem keepsTime_rangeWritten (mem lo n : Nat) : KeepsTime s (rangeWritten s mem lo n) :=
  (only_rangeWritten s mem lo n).keepsTime (by simp) milEvt_not_mem_flipRegs

theorem keepsTime_setPageWhole (n : Nat) (x : Page) : KeepsTime s (setPageWhole s n x) :=
  (keepsTime_setWay s _).trans (keepsTime_rangeWritten _ _ _ _)

theorem keepsTime_readWords (mem m : Nat) (ws : List Nat) : KeepsTime s (readWords s mem m ws) :=
  Only.keepsTime (readOnly_readWords m ws) (by simp) (not_mem_readRegs (by decide))

theorem keepsTime_usePlaces (k : Nat) : KeepsTime s (usePlaces s k) := (only_usePlaces s k).keepsTime (by simp) (by decide)

theorem keepsTime_auditPage : KeepsTime s (auditPage s) := (only_auditPage s).keepsTime (by simp) (by decide)

theorem keepsTime_wayUncorr (n p : Nat) : KeepsTime s (wayUncorr s n p) :=
  ((keepsTime_wcnt s 13 1).trans (keepsTime_wayEvt _ 2)).trans ((only_wr _ Reg.wayErr _).keepsTime (by simp) (by decide))

theorem keepsTime_present (m : Nat) (slot : Bool) (p : Purpose) (since : Nat) (gs : List Gran) :
    KeepsTime s (present s m slot p since gs) := (only_setRgl s _).keepsTime (by simp) (by simp)

theorem keepsTime_readEntries (n : Nat) (ps : List Nat) (m : Nat) : KeepsTime s (readEntries s n ps m).1 := by
  have read (k l : List Nat) : KeepsTime s (readWords (readWords s 7 m k) 6 m l) :=
    (keepsTime_readWords s 7 m k).trans (keepsTime_readWords _ 6 m l)
  unfold readEntries
  dsimp only
  split
  · exact (read _ _).trans (keepsTime_setWay _ _)
  · split
    · exact (read _ _).trans (keepsTime_setWay _ _)
    · exact read _ _

theorem keepsTime_dropRecs (p : Nat) : KeepsTime s (dropRecs s p) := by
  have dropped (x : WaySt) : KeepsTime s (pruneHeld { s with way := x }) := (keepsTime_setWay s x).trans (keepsTime_setWay _ _)
  unfold dropRecs
  exact (dropped _).ite ((dropped _).trans (keepsTime_usePlaces _ _))

theorem keepsTime_openPageFor (n p : Nat) : KeepsTime s (openPageFor s n p) := by
  have linked (k : Nat) (x : Page) : KeepsTime s
      (if (streamOf (dropRecs s p) n).owned = 0 then dropRecs s p else setPage (dropRecs s p) k x) :=
    (keepsTime_dropRecs s p).ite ((keepsTime_dropRecs s p).trans (keepsTime_setPage _ _ _))
  exact ((((linked _ _).trans (keepsTime_setPageWhole _ p _)).trans (keepsTime_setWay _ _)).trans
    (keepsTime_setStream _ _ _)).trans (keepsTime_auditPage _)

theorem keepsTime_obtainPage (n : Nat) : KeepsTime s (obtainPage s n).1 := by
  have opened (t : State) (p i : Nat) : KeepsTime t (wcnt (openPageFor t n p) i 1) :=
    (keepsTime_openPageFor t n p).trans (keepsTime_wcnt _ _ _)
  have dropped (t : State) (v : Nat) : KeepsTime t (dropHead t v) := keepsTime_setStream t _ _
  unfold obtainPage
  dsimp only
  split
  · exact KeepsTime.refl s
  · split
    · split
      · exact opened s _ 3
      · exact KeepsTime.refl s
    · split
      · have read := keepsTime_readEntries s n [(streamOf s n).head] 46
        split
        · exact read.trans (keepsTime_wayUncorr _ _ _)
        · exact (read.trans (dropped _ _)).trans (opened _ _ 4)
      · split
        · exact (dropped s _).trans (opened _ _ 5)
        · exact KeepsTime.refl s

theorem keepsTime_writeHeader (k : Nat) : KeepsTime s (writeHeader s k) := by
  have read (ws : List Nat) (x : WaySt) : KeepsTime s { readWords s 8 46 ws with way := x } :=
    (keepsTime_readWords s 8 46 ws).trans (keepsTime_setWay _ _)
  unfold writeHeader
  exact (((read _ _).ite ((read _ _).trans (keepsTime_wayUncorr _ _ _))).trans (keepsTime_wcnt _ _ _)).trans
    (keepsTime_present _ _ _ _ _ _)

theorem keepsTime_headerRoom (k : Nat) : KeepsTime s (headerRoom s k) := by
  unfold headerRoom
  dsimp only
  split
  · exact KeepsTime.refl s
  · refine KeepsTime.trans ?_ (KeepsTime.trans (keepsTime_setWay _ _) (keepsTime_rangeWritten _ 8 _ 8))
    split
    · split
      · exact keepsTime_writeHeader s _
      · exact KeepsTime.refl s
    · exact KeepsTime.refl s

theorem keepsTime_placeInsert (i : Insert) : KeepsTime s (placeInsert s i) :=
  ((((keepsTime_headerRoom s _).trans (keepsTime_setPage _ _ _)).trans (keepsTime_setStream _ _ _)).trans
    (keepsTime_setWay _ _)).trans ((only_wordMerged _ 8 _).keepsTime (by simp) milEvt_not_mem_flipRegs)

/-- An insert leaves the settle queue. -/
def settleLeft (i : Insert) : State := { s with way := { s.way with settle := s.way.settle.erase i } }

/-- The entries read at a release: the stream's record and its open page, unless the stream is lost or owns none (R304). -/
def releaseEntries (i : Insert) : State × Option Nat :=
  if (streamOf s i.stream).bad || (streamOf s i.stream).owned = 0 then (s, none)
  else readEntries s i.stream [(streamOf s i.stream).openPage] 46

/-- The same, with an uncorrectable entry reported. -/
def releaseRead (i : Insert) : State :=
  match (releaseEntries s i).2 with
  | some p => wayUncorr (releaseEntries s i).1 i.stream p
  | none => (releaseEntries s i).1

/-- A released insert is skipped and gives its place back. -/
def releaseSkipped : State := usePlaces (setEvt (wcnt s 2 1) Reg.wayEvt 1) (s.way.used - 1)

/-- A span that closes a page is counted. -/
def spanCounted (i : Insert) : State := if (streamOf s i.stream).owned ≠ 0 && spanClose s i then wcnt s 15 1 else s

theorem releaseInsert_eq (i : Insert) : releaseInsert s i =
    if (streamOf (settleLeft s i) i.stream).bad || (releaseEntries (settleLeft s i) i).2.isSome then
      releaseSkipped (releaseRead (settleLeft s i) i)
    else if (streamOf (settleLeft s i) i.stream).owned = 0 || mustClose (settleLeft s i) i then
      if (obtainPage (spanCounted (settleLeft s i) i) i.stream).2 then
        placeInsert (obtainPage (spanCounted (settleLeft s i) i) i.stream).1 i
      else releaseSkipped (obtainPage (spanCounted (settleLeft s i) i) i.stream).1
    else placeInsert (settleLeft s i) i := rfl

theorem keepsTime_releaseRead (i : Insert) : KeepsTime s (releaseRead s i) := by
  have read : KeepsTime s (releaseEntries s i).1 := by
    unfold releaseEntries
    split
    · exact KeepsTime.refl s
    · exact keepsTime_readEntries s _ _ _
  unfold releaseRead
  split
  · exact read.trans (keepsTime_wayUncorr _ _ _)
  · exact read

theorem keepsTime_releaseSkipped : KeepsTime s (releaseSkipped s) :=
  ((keepsTime_wcnt s 2 1).trans (keepsTime_wayEvt _ 1)).trans (keepsTime_usePlaces _ _)

theorem keepsTime_releaseInsert (i : Insert) : KeepsTime s (releaseInsert s i) := by
  have left : KeepsTime s (settleLeft s i) := keepsTime_setWay s _
  have counted : KeepsTime s (spanCounted (settleLeft s i) i) := left.trans ((keepsTime_wcnt _ 15 1).ite (KeepsTime.refl _))
  have obtained := counted.trans (keepsTime_obtainPage _ i.stream)
  rw [releaseInsert_eq]
  exact (left.trans ((keepsTime_releaseRead _ i).trans (keepsTime_releaseSkipped _))).ite
    (((obtained.trans (keepsTime_placeInsert _ i)).ite (obtained.trans (keepsTime_releaseSkipped _))).ite
      (left.trans (keepsTime_placeInsert _ i)))

/-- A backward step closes pages and releases inserts, and touches neither road time nor its events. -/
theorem keepsTime_backwardStep : KeepsTime s (backwardStep s) :=
  (keepsTime_foldl _ (fun t i => keepsTime_releaseInsert t i) _ s).trans (keepsTime_setWay _ _)

end Waymarks

/-! The step itself (R96, R97). -/

section Step
variable (s : State)

/-- Steps that move the pulses of the unit alone, one after the other. -/
theorem foldl_pulse (g : State → Nat → State) (h : ∀ t n, ∃ p, (g t n).mil = { t.mil with pulse := p }) (l : List Nat) (s : State) :
    ∃ p, (l.foldl g s).mil = { s.mil with pulse := p } := by
  induction l generalizing s with
  | nil => exact ⟨s.mil.pulse, rfl⟩
  | cons n l ih =>
    obtain ⟨p, hp⟩ := h s n
    obtain ⟨q, hq⟩ := ih (g s n)
    exact ⟨q, by rw [List.foldl_cons, hq, hp]⟩

theorem stepPulse_mil (old : Nat) (n : Nat) : ∃ p, (stepPulse old s n).mil = { s.mil with pulse := p } := by
  unfold stepPulse
  dsimp only
  split
  · exact ⟨_, rfl⟩
  · split
    · exact ⟨_, rfl⟩
    · split
      · exact ⟨_, rfl⟩
      · split
        · exact ⟨_, (fput_mil _ _ _ _ _).trans (setEvt_mil _ _ _)⟩
        · exact ⟨_, setEvt_mil _ _ _⟩

/-- The registers a step can write: its event, and the triggers' counts of skipped pulses. -/
abbrev stepRegs : List Nat := Reg.milEvt :: (List.range 8).map Reg.milTrigCnt

theorem only_stepPulse (old : Nat) (n : Nat) : Only [.mil] stepRegs s (stepPulse old s n) := by
  have moved (x : Pulse) : Only [.mil] stepRegs s (setPulse s n x) := (only_setPulse s n x).mono (by simp) (by simp)
  unfold stepPulse
  dsimp only
  split
  · exact moved _
  · split
    · exact moved _
    · split
      · exact moved _
      · split
        · rename_i hn
          exact ((moved _).setEvt 8 (by simp)).satBump _ _ _
            (List.mem_cons_of_mem _ (List.mem_map_of_mem (List.mem_range.2 hn)))
        · exact (moved _).setEvt 8 (by simp)

/-- Road time jumps, the generators see it, and STEPPED is latched. -/
def stepTaken (c : Int) : State :=
  setEvt ((List.range 10).foldl (stepPulse (ceilNs s)) { s with mil := { s.mil with
    road := roadWrap (s.mil.road + c)
    step := none
    setStep := false
    announce := none } }) Reg.milEvt 3

/-- The same, with VALID set when a set time is part of the step. -/
def stepSet (c : Int) (setting : Bool) : State := if setting then setValid (stepTaken s c) else stepTaken s c

theorem takeStep_eq (c : Int) (setting : Bool) : takeStep s c setting =
    if c < 0 then backwardStep (stepSet s c setting) else stepSet s c setting := rfl

theorem stepTaken_mil (c : Int) : ∃ p, (stepTaken s c).mil = { s.mil with
    road := roadWrap (s.mil.road + c)
    step := none
    setStep := false
    announce := none
    pulse := p } := by
  obtain ⟨p, hp⟩ := foldl_pulse (stepPulse (ceilNs s)) (fun t n => stepPulse_mil t _ n) (List.range 10)
    { s with mil := { s.mil with
      road := roadWrap (s.mil.road + c)
      step := none
      setStep := false
      announce := none } }
  exact ⟨p, by rw [stepTaken, setEvt_mil, hp]⟩

theorem only_stepTaken (c : Int) : Only [.mil] stepRegs s (stepTaken s c) := by
  have jumped (x : MilSt) : Only [.mil] stepRegs s { s with mil := x } := (only_mil s x).mono (by simp) (by simp)
  exact ((jumped _).more (only_foldl _ (fun t n => only_stepPulse t _ n) _ _) (by simp) (List.Subset.refl _)).setEvt 3 (by simp)

theorem stepSet_mil (c : Int) (setting : Bool) : ∃ v p, (stepSet s c setting).mil = { s.mil with
    road := roadWrap (s.mil.road + c)
    step := none
    setStep := false
    announce := none
    valid := v
    pulse := p } := by
  obtain ⟨p, hp⟩ := stepTaken_mil s c
  unfold stepSet
  split
  · obtain ⟨q, hq⟩ := setValid_sets (stepTaken s c)
    exact ⟨true, q, by rw [hq, hp]⟩
  · exact ⟨s.mil.valid, p, hp⟩

theorem only_stepSet (c : Int) (setting : Bool) : Only [.mil] stepRegs s (stepSet s c setting) := by
  unfold stepSet
  split
  · exact (only_stepTaken s c).more (only_setValid _) (by simp) (by simp)
  · exact only_stepTaken s c

theorem flag_stepSet (c : Int) (setting : Bool) : flag (stepSet s c setting) Reg.milEvt 3 = true := by
  have taken : flag (stepTaken s c) Reg.milEvt 3 = true := flag_setEvt_same _ _ _ (by decide)
  unfold stepSet
  split
  · rw [flag_congr (rd_congr (setValid_regs _) _), taken]
  · exact taken

theorem keepsTime_takeStep (c : Int) (setting : Bool) : KeepsTime (stepSet s c setting) (takeStep s c setting) := by
  rw [takeStep_eq]
  exact (keepsTime_backwardStep _).ite (KeepsTime.refl _)

/-- A forward step reaches nothing beside the unit and its counts. -/
theorem only_takeStep_forward {c : Int} (h : 0 ≤ c) (setting : Bool) : Only [.mil] stepRegs s (takeStep s c setting) := by
  rw [takeStep_eq, if_neg (by omega)]
  exact only_stepSet s c setting

theorem only_withdrawStep : Only [.mil] [Reg.milEvt] s (withdrawStep s) := by
  unfold withdrawStep
  split
  · exact Only.refl _ _ s
  · have told (x : MilSt) : Only [.mil] [Reg.milEvt] s (setEvt { s with mil := x } Reg.milEvt 4) :=
      ((only_mil s x).mono (vs := [.mil]) (qs := [Reg.milEvt]) (by simp) (by simp)).setEvt 4 (by simp)
    exact (told _).more (only_addSlew _ _ _) (by simp) (by simp)

end Step

/-! ### The commands of the statement -/

section Commands
variable (s : State)

/-- A correction's register taken, the unit as before: what the correction is judged by is unchanged. -/
theorem counted_wr (m : Requester) {o : Nat} (v : Nat) (h : Reg.milServo ≠ o ∧ Reg.cblProfEn ≠ o) :
    (wr (portCount s m) o v).mil = s.mil ∧ stepLim (wr (portCount s m) o v) = stepLim s ∧
      anyProfile (wr (portCount s m) o v) = anyProfile s :=
  ⟨(wr_mil _ _ _).trans (portCount_mil s m),
    stepLim_congr s ((rd_wr_ne _ _ h.1).trans (rd_portCount s m (belowCounts_of_lt (by decide)))),
    anyProfile_congr s ((rd_wr_ne _ _ h.2).trans (rd_portCount s m (belowCounts_of_lt (by decide))))⟩

/-- A correction's frame, from before its register was written. -/
theorem only_counted_correct (m : Requester) (o v : Nat) (c : Int) (setting : Bool) :
    Only [.mil] ([o, Reg.milEvt] ++ portRegs m) s (finish s (correct (wr (portCount s m) o v) c setting)) :=
  (((only_wr (portCount s m) o v).trans (only_correct _ c setting)).mono (by simp) (by simp)).counted

theorem milOffsetWrite_issues (m : Requester) (v : BitVec 64) (hw : mayWrite s m Reg.milOffset 8 = true)
    (hp : s.img.weltPos = 0) : Ends (.milOffsetWrite m v) s fun t =>
      let c : Int := sextI 48 v.toNat * 2 ^ 32
      t.mil = (if absI c ≤ stepLim s ∨ (c < 0 ∧ anyProfile s = true) then { s.mil with rem := s.mil.rem + c }
        else { s.mil with step := some (pendingStep s + c, boundaryFrom s) }) ∧
      flag t Reg.milEvt 4 = (flag s Reg.milEvt 4 || (decide (c < 0) && anyProfile s && decide (stepLim s < absI c))) ∧
      rd t Reg.milOffset = v.toNat % 2 ^ 48 ∧ Only [.mil] ([Reg.milOffset, Reg.milEvt] ++ portRegs m) s t := by
  obtain ⟨hmil, hlim, hany⟩ := counted_wr s m (v.toNat % 2 ^ 48) (o := Reg.milOffset) (by decide)
  have hevt : flag (wr (portCount s m) Reg.milOffset (v.toNat % 2 ^ 48)) Reg.milEvt 4 = flag s Reg.milEvt 4 :=
    flag_congr ((rd_wr_ne _ _ (by decide)).trans (rd_portCount s m belowCounts_milEvt)) 4
  have hold : pendingStep (wr (portCount s m) Reg.milOffset (v.toNat % 2 ^ 48)) = pendingStep s := by
    rw [pendingStep, pendingStep, hmil]
  have e : milOffsetWrite (wr (portCount s m) Reg.milOffset (v.toNat % 2 ^ 48)) (v.toNat % 2 ^ 48) =
      correct (wr (portCount s m) Reg.milOffset (v.toNat % 2 ^ 48)) (sextI 48 v.toNat * 2 ^ 32) false := by
    rw [milOffsetWrite, if_neg (by simpa using hp), sextI_mod 48 _ (by decide)]
  refine ends_of (exec_milOffsetWrite v hw) ?_
  rw [e]
  refine ⟨?_, ?_, ?_, only_counted_correct s m _ _ _ _⟩
  · rw [finish_mil, correct_offset_mil, hmil, hlim, hany, hold, boundaryFrom_congr s hmil]
  · rw [flag_finish_milEvt, flag_correct, hevt, hlim, hany]
  · rw [rd_finish_below s (belowCounts_of_lt (by decide)), (only_correct _ _ _).rd_eq (belowCounts_of_lt (by decide)) (by decide),
      rd_wr_same]
    omega

theorem milSetWrite_issues (m : Requester) (v : BitVec 64) (hw : mayWrite s m Reg.milSet 8 = true)
    (hp : s.img.weltPos = 0) : Ends (.milSetWrite m v) s fun t =>
      let c : Int := (v.toNat * roadUnit : Nat) - (s.mil.road : Int)
      t.mil.road = s.mil.road ∧
      (slews s c → t.mil.rem = s.mil.rem + c ∧ t.mil.valid = true ∧ t.mil.step = s.mil.step) ∧
      (¬ slews s c → t.mil.rem = s.mil.rem ∧ t.mil.setStep = true ∧
        t.mil.step.map (fun p => p.2) = some (boundaryFrom s)) ∧
      Only [.mil] ([Reg.milSet, Reg.milEvt] ++ portRegs m) s t := by
  obtain ⟨hmil, hlim, hany⟩ := counted_wr s m v.toNat (o := Reg.milSet) (by decide)
  have hslews (c : Int) : slews (wr (portCount s m) Reg.milSet v.toNat) c ↔ slews s c := by rw [slews, slews, hlim, hany]
  have e : milSetWrite (wr (portCount s m) Reg.milSet v.toNat) v.toNat =
      correct (wr (portCount s m) Reg.milSet v.toNat) ((v.toNat * roadUnit : Nat) - (s.mil.road : Int)) true := by
    rw [milSetWrite, if_neg (by simpa using hp), Nat.mod_eq_of_lt v.isLt, hmil]
  refine ends_of (exec_milSetWrite v hw) ?_
  rw [e]
  dsimp only
  rw [finish_mil]
  by_cases h : slews s ((v.toNat * roadUnit : Nat) - (s.mil.road : Int))
  · obtain ⟨p, hc⟩ := correct_set_slewed _ ((hslews _).2 h)
    rw [hc, hmil]
    exact ⟨rfl, fun _ => ⟨rfl, rfl, rfl⟩, fun hn => absurd h hn, only_counted_correct s m _ _ _ _⟩
  · have hc := congrArg State.mil (correct_pending (fun k => h ((hslews _).1 k)) true)
    rw [hc, hmil]
    refine ⟨rfl, fun hs => absurd hs h, fun _ => ⟨rfl, Bool.or_true _, ?_⟩, only_counted_correct s m _ _ _ _⟩
    rw [Option.map_some, boundaryFrom_congr s hmil]

theorem milSetWrite_ignored (m : Requester) (v : BitVec 64) (hw : mayWrite s m Reg.milSet 8 = true)
    (hp : s.img.weltPos ≠ 0) : Ends (.milSetWrite m v) s fun t =>
      flag t Reg.milEvt 10 = true ∧ Only [] ([Reg.milSet, Reg.milEvt] ++ portRegs m) s t := by
  have e : milSetWrite (wr (portCount s m) Reg.milSet v.toNat) v.toNat =
      setEvt (wr (portCount s m) Reg.milSet v.toNat) Reg.milEvt 10 := by
    rw [milSetWrite, if_pos (by simpa using hp)]
  refine ends_of (exec_milSetWrite v hw) ?_
  rw [e]
  refine ⟨?_, ((only_wr _ _ _).trans (only_setEvt _ _ _)).counted⟩
  rw [flag_finish_milEvt, flag_setEvt_same _ _ _ (by decide)]

variable {s}

/-- With a step of its own pending the device looks at no announced one. -/
theorem boundaryReached_pending {p : Int × Nat} (h : s.mil.step = some p) : boundaryReached s =
    if s.mil.road < p.2 * roadUnit then s
    else if p.1 < 0 ∧ anyProfile s then withdrawStep s else takeStep s p.1 s.mil.setStep := by
  have own : boundaryReached s = stepBoundary s := by
    unfold boundaryReached
    split
    · exact if_neg (by simp [h])
    · rfl
  rw [own, stepBoundary, h]

theorem stepBoundary_steps {p : Int × Nat} (ha : awake s = true) (h : s.mil.step = some p) : Ends .stepBoundary s fun t =>
    (s.mil.road < p.2 * roadUnit → Only [] [] s t) ∧
    (p.2 * roadUnit ≤ s.mil.road → ¬(p.1 < 0 ∧ anyProfile s = true) →
      t.mil.road = roadWrap (s.mil.road + p.1) ∧ t.mil.rem = s.mil.rem ∧ t.mil.step = none ∧ flag t Reg.milEvt 3 = true ∧
      (0 ≤ p.1 → Only [.mil] (Reg.milEvt :: (List.range 8).map Reg.milTrigCnt) s t)) ∧
    (p.2 * roadUnit ≤ s.mil.road → p.1 < 0 → anyProfile s = true →
      t.mil.road = s.mil.road ∧ t.mil.rem = s.mil.rem + p.1 ∧ t.mil.step = none ∧ flag t Reg.milEvt 4 = true ∧
      Only [.mil] [Reg.milEvt] s t) := by
  refine ends_of (core_stepBoundary ha) ?_
  rw [boundaryReached_pending h]
  refine ⟨fun hearly => ?_, fun hdue hstep => ?_, fun hdue hneg hany => ?_⟩
  · rw [if_pos hearly]
    exact (Only.refl _ _ s).finished
  · rw [if_neg (by omega), if_neg hstep]
    have kept := keepsTime_takeStep s p.1 s.mil.setStep
    obtain ⟨v, q, hmil⟩ := stepSet_mil s p.1 s.mil.setStep
    rw [finish_mil, kept.mil, hmil]
    refine ⟨rfl, rfl, rfl, ?_, fun h0 => (only_takeStep_forward s h0 _).finished⟩
    rw [flag_finish_milEvt, flag_congr kept.evt, flag_stepSet]
  · rw [if_neg (by omega), if_pos ⟨hneg, hany⟩]
    obtain ⟨hnone, hrem, hroad, hflag⟩ := withdrawStep_some s h
    rw [finish_mil]
    exact ⟨hroad, hrem, hnone, (flag_finish_milEvt s _ 4).trans hflag, (only_withdrawStep s).finished⟩

theorem slewEnd_hands (ha : awake s = true) (hr : s.mil.rem ≠ 0) (hn : slewNow s = 0) : Ends .slewEnd s fun t =>
    t.mil = { s.mil with
      slewTail := s.mil.slewTail + s.mil.rem
      rem := 0 } ∧
    (roadEdge t).mil.road = roadWrap (s.mil.road + (rateShare s.mil.rate + s.mil.slewTail + s.mil.rem)) ∧
    Only [.mil] [] s t := by
  have e : slewEnd s = { s with mil := { s.mil with
      slewTail := s.mil.slewTail + s.mil.rem
      rem := 0 } } := if_pos ⟨hr, hn⟩
  refine ends_of (core_slewEnd ha) ?_
  rw [e]
  refine ⟨finish_mil _ _, ?_, (only_mil s _).finished⟩
  simp only [roadEdge, edgeInc, finish_mil, if_true, add_zero, add_assoc]

end Commands

/-- Settles O21: an offset and a set time are the two outcomes of `correct` on the state in which the access has been counted;
a boundary is early, withdrawn or taken; a slew's last part is what the next edge adds. -/
theorem correctionsSlewOrStepRoadTime : Obligations.CorrectionsSlewOrStepRoadTime := by
  unfold Obligations.CorrectionsSlewOrStepRoadTime
  exact fun s => ⟨milOffsetWrite_issues s, milSetWrite_issues s, milSetWrite_ignored s, fun _ => stepBoundary_steps, slewEnd_hands⟩

end Sys2Proof.Machine
end

section
namespace Sys2Proof.Machine

/-! ### Sources: watches, and a source taken into use -/

section Watches
variable (s : State)

@[simp] theorem watchOf_setWatch (c : Nat) (w : SrcWatch) : watchOf (setWatch s c w) c = w := by simp [watchOf, setWatch]

theorem watchOf_congr {t : State} (h : t.mil.watch = s.mil.watch) (c : Nat) : watchOf t c = watchOf s c := by
  rw [watchOf, watchOf, h]

theorem srcPri_congr {t : State} (h : rd t Reg.milCtrl = rd s Reg.milCtrl) : srcPri t = srcPri s := fget_congr h 2 0

theorem srcBak_congr {t : State} (h : rd t Reg.milCtrl = rd s Reg.milCtrl) : srcBak t = srcBak s := fget_congr h 6 4

/-- A source's clockwork is its watch against the clock. -/
theorem timedOut_congr {t : State} {c : Nat} (hw : watchOf t c = watchOf s c) (hc : t.cycle = s.cycle) :
    timedOut t c = timedOut s c := by
  delta timedOut
  rw [hw, hc]

end Watches

section Use
variable (s : State) (c : Nat) (bak : Bool)

/-- The source is noted, and SWITCHED latched when it is another one. -/
def sourceNamed : State :=
  { (if c ≠ s.mil.src then setEvt s Reg.milEvt 9 else s) with mil := { s.mil with
    src := c
    onBackup := bak
    marks := 0 } }

/-- The watch that a source taken into use starts with. -/
def watchTaken : SrcWatch :=
  if bak then { watchOf s c with streak := 0 } else
    { SrcWatch.zero with
      since := s.cycle
      todSeen := (watchOf s c).todSeen
      todUsed := (watchOf s c).todUsed }

theorem useSource_eq : useSource s c bak =
    if c = 0 then servoState { sourceNamed s c bak with mil := { (sourceNamed s c bak).mil with
      freq := 0
      rate := 0 } } 0
    else servoState (setWatch (sourceNamed s c bak) c (watchTaken s c bak)) 1 := by
  have e : (if c ≠ s.mil.src then setEvt s Reg.milEvt 9 else s).mil = s.mil := by
    split
    · exact setEvt_mil s _ _
    · rfl
  unfold useSource
  simp only [e]
  rfl

theorem only_sourceNamed : Only [.mil] [Reg.milEvt] s (sourceNamed s c bak) := by
  have noted : Only [.mil] [Reg.milEvt] s (if c ≠ s.mil.src then setEvt s Reg.milEvt 9 else s) := by
    split
    · exact (only_setEvt s _ _).mono (by simp) (by simp)
    · exact Only.refl _ _ s
  exact noted.more (only_mil _ _) (by simp) (by simp)

theorem only_useSource : Only [.mil] [Reg.milEvt] s (useSource s c bak) := by
  have named := only_sourceNamed s c bak
  rw [useSource_eq]
  split
  · exact (named.more (only_mil _ _) (by simp) (by simp)).more (only_servoState _ 0) (by simp) (by simp)
  · exact (named.more (only_setWatch _ _ _) (by simp) (by simp)).more (only_servoState _ 1) (by simp) (by simp)

/-- FREE stops steering (R90). -/
theorem useSource_free : ∃ w a, (useSource s 0 bak).mil = { s.mil with
    src := 0
    onBackup := bak
    marks := 0
    freq := 0
    rate := 0
    state := 0
    warm := w
    aonFrom := a } := by
  obtain ⟨w, a, h⟩ := servoState_mil { sourceNamed s 0 bak with mil := { (sourceNamed s 0 bak).mil with
    freq := 0
    rate := 0 } } 0
  rw [useSource_eq, if_pos rfl]
  exact ⟨w, a, h⟩

/-- Any other source is acquired, and steers with what is in force (R91). -/
theorem useSource_acquires {c : Nat} (hc : c ≠ 0) : ∃ w a, (useSource s c bak).mil = { s.mil with
    src := c
    onBackup := bak
    marks := 0
    watch := s.mil.watch.set (fun _ => SrcWatch.zero) c (watchTaken s c bak)
    state := 1
    warm := w
    aonFrom := a } := by
  obtain ⟨w, a, h⟩ := servoState_mil (setWatch (sourceNamed s c bak) c (watchTaken s c bak)) 1
  rw [useSource_eq, if_neg hc]
  exact ⟨w, a, h⟩

variable {s c}

theorem flag_sourceNamed_of {b : Nat} (h : flag s Reg.milEvt b = true) : flag (sourceNamed s c bak) Reg.milEvt b = true := by
  have noted : flag (if c ≠ s.mil.src then setEvt s Reg.milEvt 9 else s) Reg.milEvt b = true := by
    split
    · exact flag_setEvt_of s (by decide) h
    · exact h
  exact noted

/-- A source taken into use takes no event away. -/
theorem flag_useSource_of {b : Nat} (h : flag s Reg.milEvt b = true) : flag (useSource s c bak) Reg.milEvt b = true := by
  have named := flag_sourceNamed_of (c := c) bak h
  rw [useSource_eq]
  split
  · exact flag_servoState_of _ 0 named
  · exact flag_servoState_of _ 1 named

/-- Another source is reported as SWITCHED. -/
theorem flag_useSource_switched (h : c ≠ s.mil.src) : flag (useSource s c bak) Reg.milEvt 9 = true := by
  have named : flag (sourceNamed s c bak) Reg.milEvt 9 = true := by
    rw [sourceNamed, if_pos h]
    exact flag_setEvt_same s _ _ (by decide)
  rw [useSource_eq]
  split
  · exact flag_servoState_of _ 0 named
  · exact flag_servoState_of _ 1 named

end Use

/-! ### MIL_CTRL -/

section Control
variable (s : State)

theorem regRow_milCtrl : regRow Reg.milCtrl = some ⟨"MIL_CTRL", 0x30000, 1, 8, 1, 8, false,
    [fldR 10 9 .rw 0 [(0, 2)] 1, fld 8 8 .rw 1, fldR 6 4 .rw 0 [(0, 4)] 1, fldR 2 0 .rw 0 [(0, 4)] 1]⟩ := by decide +kernel

/-- What a write with allowed source codes makes of MIL_CTRL: the field [10:9] may hold a reserved code and then stays (R8). -/
def milCtrlWritten (old v : Nat) : Nat :=
  putBits (putBits (putBits (if bitsOf v 10 9 ≤ 2 then putBits old 10 9 (bitsOf v 10 9) else old) 8 8 (bitsOf v 8 8))
    6 4 (bitsOf v 6 4)) 2 0 (bitsOf v 2 0)

theorem rd_commit_milCtrl (c : Nat) {v : Nat} (hp : bitsOf v 2 0 ≤ 4) (hb : bitsOf v 6 4 ≤ 4) :
    rd (commitFields s c Reg.milCtrl v) Reg.milCtrl = milCtrlWritten (rd s Reg.milCtrl) v % 2 ^ 64 := by
  rw [commitFields_row regRow_milCtrl]
  by_cases h : bitsOf v 10 9 ≤ 2
  · simp [fieldsWrite, Field.write, Field.allows, fld, fldR, milCtrlWritten, hp, hb, h, Nat.mod_one]
  · simp [fieldsWrite, Field.write, Field.allows, fld, fldR, milCtrlWritten, hp, hb, h, Nat.mod_one,
      rd_rsvd_ne _ _ (show Reg.milCtrl ∉ errRegs by decide)]

/-- The fields that a write with allowed source codes leaves. -/
theorem commit_milCtrl (c : Nat) {v : Nat} (hp : bitsOf v 2 0 ≤ 4) (hb : bitsOf v 6 4 ≤ 4) :
    srcPri (commitFields s c Reg.milCtrl v) = bitsOf v 2 0 ∧ srcBak (commitFields s c Reg.milCtrl v) = bitsOf v 6 4 ∧
      flag (commitFields s c Reg.milCtrl v) Reg.milCtrl 8 = bitOf v 8 := by
  have h := rd_commit_milCtrl s c hp hb
  refine ⟨?_, ?_, ?_⟩
  · rw [srcPri, fget, h, bitsOf_mod _ _ (by decide), milCtrlWritten, bitsOf_putBits_same _ _ _ _ (by decide),
      Nat.mod_eq_of_lt (bitsOf_lt v 2 0)]
  · rw [srcBak, fget, h, bitsOf_mod _ _ (by decide), milCtrlWritten, bitsOf_putBits_apart _ _ _ _ _ _ (by decide) (by decide),
      bitsOf_putBits_same _ _ _ _ (by decide), Nat.mod_eq_of_lt (bitsOf_lt v 6 4)]
  · rw [flag, h, bitOf_mod _ (by decide)]
    simp [milCtrlWritten, bitOf_putBits, bitsOf_single]

/-- A new primary, with the backup as it was, is taken into use. -/
theorem milSelect_primary {u : State} {pri bak : Nat} (hw : u.img.weltPos = 0) (hb : srcBak u = bak) (hp : srcPri u ≠ pri) :
    milSelect u pri bak = useSource u (srcPri u) false := by
  rw [milSelect, if_neg (by simpa using hw)]
  simp only [hb, ne_eq, not_true, if_false, hp, not_false_eq_true, if_true]

theorem milCtrlWrite_takes (m : Requester) (v : BitVec 32) (hm : mayWrite s m Reg.milCtrl 4 = true) (hw : s.img.weltPos = 0)
    (hne : bitsOf v.toNat 2 0 ≠ srcPri s) (hp : bitsOf v.toNat 2 0 ≤ 4) (hbak : bitsOf v.toNat 6 4 = srcBak s)
    (hb : srcBak s ≤ 4) : Ends (.milCtrlWrite m v) s fun t =>
      srcPri t = bitsOf v.toNat 2 0 ∧ srcBak t = srcBak s ∧ flag t Reg.milCtrl 8 = v.toNat.testBit 8 ∧
      t.mil.src = bitsOf v.toNat 2 0 ∧ t.mil.onBackup = false ∧ t.mil.road = s.mil.road ∧ t.mil.rem = s.mil.rem ∧
      t.mil.valid = s.mil.valid ∧
      (bitsOf v.toNat 2 0 = 0 → t.mil.state = 0 ∧ t.mil.rate = 0 ∧ t.mil.freq = 0) ∧
      (bitsOf v.toNat 2 0 ≠ 0 → t.mil.state = 1 ∧ t.mil.rate = s.mil.rate ∧ t.mil.freq = s.mil.freq) ∧
      Only [.mil] ([Reg.milCtrl, Reg.milEvt] ++ errRegs ++ portRegs m) s t := by
  obtain ⟨hpri, hkeep, hrev⟩ := commit_milCtrl (portCount s m) m.code hp (hbak ▸ hb)
  have frame := only_commitFields (portCount s m) m.code Reg.milCtrl v.toNat
  have hmil := (frame.1 .mil (by simp)).trans (portCount_mil s m)
  have himg := (frame.1 .img (by simp)).trans (portCount_img s m)
  have hctrl : rd (portCount s m) Reg.milCtrl = rd s Reg.milCtrl := rd_portCount s m (belowCounts_of_lt (by decide))
  have e : milCtrlWrite (portCount s m) m.code v.toNat =
      useSource (commitFields (portCount s m) m.code Reg.milCtrl v.toNat) (bitsOf v.toNat 2 0) false := by
    rw [milCtrlWrite, srcPri_congr s hctrl, srcBak_congr s hctrl,
      milSelect_primary (himg ▸ hw) (hkeep.trans hbak) (hpri ▸ hne), hpri]
  generalize commitFields (portCount s m) m.code Reg.milCtrl v.toNat = u at *
  refine ends_of (exec_milCtrlWrite v hm) ?_
  rw [e]
  have used := only_useSource u (bitsOf v.toNat 2 0) false
  have read : rd (finish s (useSource u (bitsOf v.toNat 2 0) false)) Reg.milCtrl = rd u Reg.milCtrl :=
    (rd_finish_below s (belowCounts_of_lt (by decide))).trans (used.rd_eq (belowCounts_of_lt (by decide)) (by decide))
  refine ⟨(srcPri_congr u read).trans hpri, ((srcBak_congr u read).trans hkeep).trans hbak, ?_, ?_⟩
  · rw [flag_congr read, hrev, bitOf_eq_testBit]
  · rw [finish_mil]
    have whole : Only [.mil] ([Reg.milCtrl, Reg.milEvt] ++ errRegs ++ portRegs m) s
        (finish s (useSource u (bitsOf v.toNat 2 0) false)) :=
      ((frame.trans used).mono (by simp) (by simp [errRegs])).counted
    by_cases h0 : bitsOf v.toNat 2 0 = 0
    · obtain ⟨w, a, hu⟩ := useSource_free u false
      refine ⟨?_, ?_, ?_, ?_, ?_, fun _ => ?_, fun h => absurd h0 h, whole⟩ <;> rw [h0, hu, hmil]
      exact ⟨rfl, rfl, rfl⟩
    · obtain ⟨w, a, hu⟩ := useSource_acquires u false h0
      rw [hu, hmil]
      exact ⟨rfl, rfl, rfl, rfl, rfl, fun h => absurd h h0, fun _ => ⟨rfl, rfl, rfl⟩, whole⟩

end Control

/-! ### A source lost -/

section Loss
variable (s : State)

/-- The source in use is marked lost, and LOST latched (R92). -/
def lossMarked : State :=
  setEvt (setWatch s s.mil.src { watchOf s s.mil.src with
    lost := true
    streak := 0 }) Reg.milEvt 1

/-- HOLDOVER keeps the uncertainty and the time of its start, and RATE at freq (R92, R99). -/
def holdoverKept : State :=
  { lossMarked s with mil := { (lossMarked s).mil with
    holdBase := baseUnc s
    holdNs := nowNs s
    rate := clampI 2000000000 s.mil.freq
    marks := 0 } }

theorem sourceLost_eq : sourceLost s = if backupUsable (lossMarked s) then useSource (lossMarked s) (srcBak (lossMarked s)) true
    else servoState (holdoverKept s) 3 := by
  have hmil : (setEvt (setWatch s s.mil.src { watchOf s s.mil.src with
    lost := true
    streak := 0 }) Reg.milEvt 1).mil.freq = s.mil.freq := by
    rw [setEvt_mil]
    rfl
  unfold sourceLost
  simp only [hmil]
  rfl

theorem lossMarked_mil : (lossMarked s).mil = { s.mil with
    watch := s.mil.watch.set (fun _ => SrcWatch.zero) s.mil.src { watchOf s s.mil.src with
      lost := true
      streak := 0 } } := setEvt_mil _ _ _

theorem only_lossMarked : Only [.mil] [Reg.milEvt] s (lossMarked s) :=
  ((only_setWatch s _ _).mono (by simp) (by simp)).setEvt 1 (by simp)

theorem flag_lossMarked : flag (lossMarked s) Reg.milEvt 1 = true := flag_setEvt_same _ _ _ (by decide)

theorem watchOf_lossMarked : watchOf (lossMarked s) s.mil.src = { watchOf s s.mil.src with
    lost := true
    streak := 0 } := by simp [watchOf, lossMarked_mil]

theorem watchOf_lossMarked_ne {c : Nat} (h : c ≠ s.mil.src) : watchOf (lossMarked s) c = watchOf s c := by
  simp [watchOf, lossMarked_mil, KMap.get_set_ne _ _ _ h]

theorem srcBak_lossMarked : srcBak (lossMarked s) = srcBak s :=
  srcBak_congr s ((only_lossMarked s).rd_eq (belowCounts_of_lt (by decide)) (by decide))

theorem only_sourceLost : Only [.mil] [Reg.milEvt] s (sourceLost s) := by
  have marked := only_lossMarked s
  rw [sourceLost_eq]
  split
  · exact marked.more (only_useSource _ _ _) (by simp) (by simp)
  · exact (marked.more (only_mil _ _) (by simp) (by simp)).more (only_servoState _ 3) (by simp) (by simp)

theorem flag_sourceLost : flag (sourceLost s) Reg.milEvt 1 = true := by
  have marked := flag_lossMarked s
  rw [sourceLost_eq]
  split
  · exact flag_useSource_of true marked
  · exact flag_servoState_of (holdoverKept s) 3 marked

variable {s}

/-- No backup is named, or the unit runs on it already. -/
theorem backupUsable_none (h : srcBak s = 0 ∨ s.mil.onBackup = true) : backupUsable (lossMarked s) = false := by
  rw [backupUsable, srcBak_lossMarked, lossMarked_mil]
  rcases h with h | h <;> simp [h]

theorem backupUsable_some (h0 : srcBak s ≠ 0) (hs : srcBak s ≠ s.mil.src) (hb : s.mil.onBackup = false)
    (hl : (watchOf s (srcBak s)).lost = false) (ht : timedOut s (srcBak s) = false) (hw : s.img.weltPos = 0) :
    backupUsable (lossMarked s) = true := by
  have watch := watchOf_lossMarked_ne s hs
  have out : timedOut (lossMarked s) (srcBak s) = false := (timedOut_congr s watch (setEvt_cycle _ _ _)).trans ht
  have img : (lossMarked s).img = s.img := (only_lossMarked s).1 .img (by simp)
  rw [backupUsable, srcBak_lossMarked, lossMarked_mil, watch, out, img]
  simp [h0, hb, hl, hw]

/-- A source that is lost is not its own backup. -/
theorem backup_ne_lost (h : backupUsable (lossMarked s) = true) : srcBak s ≠ s.mil.src := by
  intro e
  rw [backupUsable, srcBak_lossMarked, e, watchOf_lossMarked] at h
  simp at h

/-- A usable backup is one that is named. -/
theorem backup_named (h : backupUsable (lossMarked s) = true) : srcBak s ≠ 0 := by
  intro e
  rw [backupUsable_none (Or.inl e)] at h
  cases h

/-- Without a backup the unit holds over. -/
theorem sourceLost_holds (h : backupUsable (lossMarked s) = false) : ∃ w a, (sourceLost s).mil = { (lossMarked s).mil with
    holdBase := baseUnc s
    holdNs := nowNs s
    rate := clampI 2000000000 s.mil.freq
    marks := 0
    state := 3
    warm := w
    aonFrom := a } := by
  obtain ⟨w, a, e⟩ := servoState_mil (holdoverKept s) 3
  rw [sourceLost_eq, if_neg (by simp [h])]
  exact ⟨w, a, e⟩

/-- With a usable one it is acquired. -/
theorem sourceLost_switches (h : backupUsable (lossMarked s) = true) : ∃ w a, (sourceLost s).mil =
    { (lossMarked s).mil with
      src := srcBak s
      onBackup := true
      marks := 0
      watch := (lossMarked s).mil.watch.set (fun _ => SrcWatch.zero) (srcBak s) (watchTaken (lossMarked s) (srcBak s) true)
      state := 1
      warm := w
      aonFrom := a } := by
  obtain ⟨w, a, e⟩ := useSource_acquires (lossMarked s) true (backup_named h)
  rw [sourceLost_eq, if_pos h, srcBak_lossMarked]
  exact ⟨w, a, e⟩

/-- The lost source is marked whatever follows. -/
theorem watchOf_sourceLost : (watchOf (sourceLost s) s.mil.src).lost = true := by
  by_cases h : backupUsable (lossMarked s) = true
  · obtain ⟨w, a, e⟩ := sourceLost_switches h
    have kept : watchOf (sourceLost s) s.mil.src = watchOf (lossMarked s) s.mil.src := by
      rw [watchOf, e]
      exact KMap.get_set_ne _ _ _ (backup_ne_lost h).symm
    rw [kept, watchOf_lossMarked]
  · obtain ⟨w, a, e⟩ := sourceLost_holds (by simpa using h)
    rw [watchOf_congr (lossMarked s) (by rw [e]), watchOf_lossMarked]

theorem flag_sourceLost_holds (h : backupUsable (lossMarked s) = false) (hs : s.mil.state ≠ 3) :
    flag (sourceLost s) Reg.milEvt 2 = true := by
  rw [sourceLost_eq, if_neg (by simp [h])]
  refine flag_servoState_holdover (holdoverKept s) ?_
  show (lossMarked s).mil.state ≠ 3
  rw [lossMarked_mil]
  exact hs

theorem flag_sourceLost_switches (h : backupUsable (lossMarked s) = true) : flag (sourceLost s) Reg.milEvt 9 = true := by
  rw [sourceLost_eq, if_pos h]
  refine flag_useSource_switched true ?_
  rw [srcBak_lossMarked, lossMarked_mil]
  exact backup_ne_lost h

/-- The lost source leaves road time and its validity alone. -/
theorem sourceLost_keeps : (sourceLost s).mil.road = s.mil.road ∧ (sourceLost s).mil.valid = s.mil.valid := by
  by_cases h : backupUsable (lossMarked s) = true
  · obtain ⟨w, a, e⟩ := sourceLost_switches h
    rw [e, lossMarked_mil]
    exact ⟨rfl, rfl⟩
  · obtain ⟨w, a, e⟩ := sourceLost_holds (by simpa using h)
    rw [e, lossMarked_mil]
    exact ⟨rfl, rfl⟩

variable {c : Fin 6}

theorem sourceLoss_inUse (ha : awake s = true) (ht : timedOut s c.val = true) (hc : c.val = s.mil.src) (hs : s.mil.state = 2) :
    Ends (.sourceLoss c) s fun t =>
      flag t Reg.milEvt 1 = true ∧ t.mil.road = s.mil.road ∧ t.mil.valid = s.mil.valid ∧
      (srcBak s = 0 ∨ s.mil.onBackup = true → t.mil.state = 3 ∧ t.mil.rate = clampI 2000000000 s.mil.freq ∧
        t.mil.holdBase = baseUnc s ∧ t.mil.holdNs = nowNs s ∧ t.mil.src = s.mil.src ∧ flag t Reg.milEvt 2 = true) ∧
      (srcBak s ≠ 0 → srcBak s ≠ s.mil.src → s.mil.onBackup = false → (watchOf s (srcBak s)).lost = false →
        timedOut s (srcBak s) = false → s.img.weltPos = 0 →
        t.mil.state = 1 ∧ t.mil.src = srcBak s ∧ t.mil.onBackup = true ∧ t.mil.rate = s.mil.rate ∧
        (watchOf t (srcBak s)).streak = 0 ∧ flag t Reg.milEvt 9 = true) ∧
      (watchOf t s.mil.src).lost = true ∧ Only [.mil] [Reg.milEvt] s t := by
  have e : sourceLoss s c.val = sourceLost s := by
    rw [sourceLoss, if_neg (by simp [ht]), if_pos ⟨hc, Or.inr hs⟩]
  refine ends_of (core_sourceLoss c ha) ?_
  rw [e]
  refine ⟨(flag_finish_milEvt s _ 1).trans (flag_sourceLost s), ?_, ?_, fun hno => ?_, fun h0 hne hb hl hq hw => ?_, ?_,
    (only_sourceLost s).finished⟩
  · rw [finish_mil, sourceLost_keeps.1]
  · rw [finish_mil, sourceLost_keeps.2]
  · have unusable := backupUsable_none hno
    obtain ⟨w, a, hm⟩ := sourceLost_holds unusable
    rw [flag_finish_milEvt, flag_sourceLost_holds unusable (by omega), finish_mil, hm, lossMarked_mil]
    exact ⟨rfl, rfl, rfl, rfl, rfl, rfl⟩
  · have usable := backupUsable_some h0 hne hb hl hq hw
    obtain ⟨w, a, hm⟩ := sourceLost_switches usable
    have fresh : watchOf (finish s (sourceLost s)) (srcBak s) = watchTaken (lossMarked s) (srcBak s) true := by
      rw [watchOf, finish_mil, hm]
      exact KMap.get_set_same _ _ _ _
    rw [flag_finish_milEvt, flag_sourceLost_switches usable, fresh, finish_mil, hm, lossMarked_mil]
    exact ⟨rfl, rfl, rfl, rfl, rfl, rfl⟩
  · rw [watchOf_congr (sourceLost s) (by rw [finish_mil]), watchOf_sourceLost]

theorem sourceLoss_watched (ha : awake s = true) (ht : timedOut s c.val = true) (hc : c.val ≠ s.mil.src) (hb : c.val = srcBak s) :
    Ends (.sourceLoss c) s fun t =>
      (watchOf t c.val).lost = true ∧ t.mil.state = s.mil.state ∧ t.mil.src = s.mil.src ∧ t.mil.rate = s.mil.rate ∧
      Only [.mil] [] s t := by
  have e : sourceLoss s c.val = setWatch s c.val { watchOf s c.val with
      lost := true
      streak := 0 } := by
    rw [sourceLoss, if_neg (by simp [ht]), if_neg (fun h => hc h.1), if_pos ⟨hc, Or.inr hb⟩]
  refine ends_of (core_sourceLoss c ha) ?_
  rw [e, watchOf_congr (setWatch s c.val _) (by rw [finish_mil]), watchOf_setWatch, finish_mil]
  exact ⟨rfl, rfl, rfl, rfl, (only_setWatch s _ _).finished⟩

end Loss

/-! ### The HOST rate -/

section Rate
variable (s : State)

/-- MIL_RATE with HOST in use: RATE, and a unit that acquires locks (R92, R98). -/
theorem milRateWrite_host {u : State} (h : u.mil.src = 4) (v : Nat) : milRateWrite u v =
    if u.mil.state = 1 then servoState { u with mil := { u.mil with rate := clampI 2000000000 (sextI 32 v) } } 2
    else { u with mil := { u.mil with rate := clampI 2000000000 (sextI 32 v) } } := if_neg (by simp [h])

theorem milRateWrite_ignored {u : State} (h : u.mil.src ≠ 4) (v : Nat) : milRateWrite u v = setEvt u Reg.milEvt 10 := if_pos h

theorem only_milRateWrite (u : State) (v : Nat) : Only [.mil] [Reg.milEvt] u (milRateWrite u v) := by
  have rated (x : MilSt) : Only [.mil] [Reg.milEvt] u { u with mil := x } := (only_mil u x).mono (by simp) (by simp)
  by_cases h : u.mil.src = 4
  · rw [milRateWrite_host h]
    split
    · exact (rated _).more (only_servoState _ 2) (by simp) (by simp)
    · exact rated _
  · rw [milRateWrite_ignored h]
    exact (only_setEvt u _ _).mono (by simp) (by simp)

theorem milRateWrite_sets (m : Requester) (v : BitVec 32) (hw : mayWrite s m Reg.milRate 4 = true) :
    Ends (.milRateWrite m v) s fun t =>
      (s.mil.src = 4 → t.mil.rate = clampI 2000000000 (sextI 32 v.toNat) ∧
        t.mil.state = (if s.mil.state = 1 then 2 else s.mil.state) ∧ t.mil.road = s.mil.road ∧
        (s.mil.state = 1 → flag t Reg.milEvt 0 = true)) ∧
      (s.mil.src ≠ 4 → t.mil = s.mil ∧ flag t Reg.milEvt 10 = true) ∧
      Only [.mil] (Reg.milEvt :: portRegs m) s t := by
  have hmil := portCount_mil s m
  refine ends_of (exec_milRateWrite v hw) ⟨fun hsrc => ?_, fun hsrc => ?_, (only_milRateWrite _ _).counted⟩
  · rw [milRateWrite_host (by rwa [hmil]), flag_finish_milEvt, finish_mil, hmil]
    by_cases hs : s.mil.state = 1
    · obtain ⟨w, a, e⟩ := servoState_mil { portCount s m with mil := { s.mil with rate := clampI 2000000000 (sextI 32 v.toNat) } } 2
      rw [if_pos hs, e, if_pos hs]
      exact ⟨rfl, rfl, rfl, fun _ => flag_servoState_locked _ (by simp [hs])⟩
    · rw [if_neg hs, if_neg hs]
      exact ⟨rfl, rfl, rfl, fun h => absurd h hs⟩
  · rw [milRateWrite_ignored (by rwa [hmil]), flag_finish_milEvt, finish_mil, setEvt_mil, hmil]
    exact ⟨rfl, flag_setEvt_same _ _ _ (by decide)⟩

end Rate

/-- Settles O22: a new primary by what a write with allowed codes leaves of MIL_CTRL and by `useSource`; a loss by whether the
backup is usable once the source in use is marked lost. -/
theorem sourcesAreTakenLostAndReplaced : Obligations.SourcesAreTakenLostAndReplaced := by
  unfold Obligations.SourcesAreTakenLostAndReplaced
  exact fun s => ⟨milCtrlWrite_takes s, fun _ => sourceLoss_inUse, fun _ => sourceLoss_watched, milRateWrite_sets s⟩

end Sys2Proof.Machine
end

section
namespace Sys2Proof.Machine

/-! ### PPS edges -/

section Pps
variable {s : State} {k ago high : Nat}

/-- An edge that stayed high too shortly, or has no predecessor near one second ago, is the new previous capture and no more
(R93). -/
theorem ppsEdge_rejected (hsrc : s.mil.src = 2 + k) (h : ∀ p, (watchOf s (2 + k)).prev = some p →
      high < 100 ∨ 25600000 < absI ((stampAgo256 s ago : Int) - p - 256000000000)) :
    ppsEdge s k ago high =
      setEvt (setWatch s (2 + k) { watchOf s (2 + k) with prev := some (stampAgo256 s ago) }) Reg.milEvt 5 := by
  unfold ppsEdge
  dsimp only
  rw [if_neg (fun c => c.1 hsrc), if_neg]
  rintro ⟨hin, hhigh⟩
  cases hp : (watchOf s (2 + k)).prev with
  | none => simp [hp] at hin
  | some p =>
    simp only [hp, decide_eq_true_eq] at hin
    rcases h p hp with h | h
    · omega
    · exact absurd hin (Nat.not_le.2 h)

theorem ppsEdge_accepted {p : Nat} (hsrc : s.mil.src = 2 + k) (hp : (watchOf s (2 + k)).prev = some p) (hhigh : 100 ≤ high)
    (hin : absI ((stampAgo256 s ago : Int) - p - 256000000000) ≤ 25600000) :
    ppsEdge s k ago high = ppsAccepted s k (stampAgo256 s ago) (watchOf s (2 + k)) := by
  unfold ppsEdge
  dsimp only
  rw [if_neg (fun c => c.1 hsrc), if_pos]
  refine ⟨?_, hhigh⟩
  simp only [hp, decide_eq_true_eq]
  exact hin

variable (s) (k)

/-- The phase error of an accepted edge, in 1/256 ns (R93). -/
def phaseError (cap : Nat) (w : SrcWatch) : Int := (cap : Int) - ((todFor s w).1 * 256 : Nat)

/-- The watch after an accepted edge. -/
def edgeWatch (cap : Nat) (w : SrcWatch) : SrcWatch :=
  { w with
    prev := some cap
    lastOk := some s.cycle
    lost := false
    streak := if decide (absI (phaseError s cap w) ≤ fget s Reg.milServo 19 16 * 8 * 256) then w.streak + 1 else 0
    todSeen := s.mil.todWrites
    todUsed := (todFor s w).1 }

/-- MIL_PPS_ERR as it shows a phase error: held to 32 bits, in two's complement. -/
def ppsErrShown (e : Int) : Nat := toField 32 (max (-(2 ^ 31)) (min (2 ^ 31 - 1) e))

/-- An accepted edge noted: a time of day that was missed, the watch, and MIL_PPS_ERR (R93). -/
def edgeNoted (cap : Nat) (w : SrcWatch) : State :=
  wr (setWatch (if (todFor s w).2 then setEvt s Reg.milEvt 6 else s) (2 + k) (edgeWatch s cap w)) (Reg.milPpsErr k)
    (ppsErrShown (phaseError s cap w))

/-- RATE and freq after an edge with a small phase error (R94). -/
def freqSteered (e : Int) : Int := s.mil.freq - e * 1000 / 256 / (2 ^ fget s Reg.milServo 27 24 : Nat)

def rateSteered (e : Int) : Int := clampI 2000000000 (clampI (fget s Reg.milServo 15 8 * 10000000)
  (freqSteered s e - e * 1000 / 256 / (2 ^ fget s Reg.milServo 23 20 : Nat)))

theorem edgeNoted_mil (cap : Nat) (w : SrcWatch) : (edgeNoted s k cap w).mil = { s.mil with
    watch := s.mil.watch.set (fun _ => SrcWatch.zero) (2 + k) (edgeWatch s cap w) } := by
  have missed : (if (todFor s w).2 then setEvt s Reg.milEvt 6 else s).mil = s.mil := by
    split
    · exact setEvt_mil s _ _
    · rfl
  rw [edgeNoted, wr_mil, setWatch, missed]

theorem only_edgeNoted (cap : Nat) (w : SrcWatch) : Only [.mil] [Reg.milEvt, Reg.milPpsErr k] s (edgeNoted s k cap w) := by
  have missed : Only [.mil] [Reg.milEvt, Reg.milPpsErr k] s (if (todFor s w).2 then setEvt s Reg.milEvt 6 else s) := by
    split
    · exact (only_setEvt s _ _).mono (by simp) (by simp)
    · exact Only.refl _ _ s
  exact (missed.more (only_setWatch _ _ _) (by simp) (by simp)).wr _ (by simp)

/-- An edge of the source in use in LOCKED, with a small phase error, steers freq and RATE. -/
theorem ppsAccepted_steers {s : State} {k cap : Nat} {w : SrcWatch} (hk : k < 2) (hsrc : s.mil.src = 2 + k) (hst : s.mil.state = 2)
    (he : absI (phaseError s cap w) ≤ fget s Reg.milServo 7 0 * 1000 * 256) :
    ppsAccepted s k cap w = { edgeNoted s k cap w with mil := { (edgeNoted s k cap w).mil with
      err := phaseError s cap w
      freq := freqSteered s (phaseError s cap w)
      rate := rateSteered s (phaseError s cap w) } } := by
  have hservo : rd (edgeNoted s k cap w) Reg.milServo = rd s Reg.milServo :=
    (only_edgeNoted s k cap w).rd_eq (belowCounts_of_lt (by decide)) (by simp [Reg.milServo, Reg.milEvt, Reg.milPpsErr]; omega)
  have steers : servoEdge (edgeNoted s k cap w) (phaseError s cap w) =
      { edgeNoted s k cap w with mil := { (edgeNoted s k cap w).mil with
        err := phaseError s cap w
        freq := freqSteered s (phaseError s cap w)
        rate := rateSteered s (phaseError s cap w) } } := by
    have hfreq : (edgeNoted s k cap w).mil.freq = s.mil.freq := by rw [edgeNoted_mil]
    unfold servoEdge
    rw [if_neg (by rw [fget_congr hservo]; exact Nat.not_lt.2 he)]
    simp only [fget_congr hservo, hfreq]
    rfl
  have whole : ppsAccepted s k cap w = if s.mil.src = 2 + k then
      (if s.mil.state = 3 then servoState (edgeNoted s k cap w) 1
        else if (servoEdge (edgeNoted s k cap w) (phaseError s cap w)).mil.state = 1 ∧ (edgeWatch s cap w).streak ≥ 4
          then setValid (servoState (servoEdge (edgeNoted s k cap w) (phaseError s cap w)) 2)
          else servoEdge (edgeNoted s k cap w) (phaseError s cap w))
      else if srcPri s = 2 + k ∧ mayRevert s ∧ (edgeWatch s cap w).streak ≥ 4
        then setValid (lockPrimary (edgeNoted s k cap w) (phaseError s cap w)) else edgeNoted s k cap w := rfl
  rw [whole, if_pos hsrc, if_neg (by omega), steers, if_neg]
  rintro ⟨h1, -⟩
  rw [edgeNoted_mil] at h1
  exact absurd (hst.symm.trans h1) (by decide)

theorem belowCounts_milPpsErr {k : Nat} (hk : k < 2) : belowCounts (Reg.milPpsErr k) :=
  belowCounts_of_lt (by simp only [Reg.milPpsErr]; omega)

theorem ppsErrShown_lt (e : Int) : ppsErrShown e < 2 ^ 32 := by
  have h := Int.emod_lt_of_pos (max (-(2 ^ 31)) (min (2 ^ 31 - 1) e)) (show (0 : Int) < (2 ^ 32 : Nat) by decide)
  rw [ppsErrShown, toField]
  omega

end Pps

section PpsCommands
variable {s : State}

theorem ppsEdge_rejects (ha : awake s = true) (k : Fin 2) (ago high : Nat) (hsrc : s.mil.src = 2 + k.val)
    (h : ∀ p, (watchOf s (2 + k.val)).prev = some p →
      high < 100 ∨ 25600000 < absI ((stampAgo256 s ago : Int) - p - 256000000000)) : Ends (.ppsEdge k ago high) s fun t =>
      watchOf t (2 + k.val) = { watchOf s (2 + k.val) with prev := some (stampAgo256 s ago) } ∧
      flag t Reg.milEvt 5 = true ∧ t.mil.rate = s.mil.rate ∧ t.mil.freq = s.mil.freq ∧ t.mil.state = s.mil.state ∧
      Only [.mil] [Reg.milEvt] s t := by
  refine ends_of (core_ppsEdge k ago high ha) ?_
  rw [ppsEdge_rejected hsrc h, flag_finish_milEvt, flag_setEvt_same _ _ _ (by decide),
    watchOf_congr (setWatch s _ _) (by rw [finish_mil, setEvt_mil]), watchOf_setWatch, finish_mil, setEvt_mil]
  exact ⟨rfl, rfl, rfl, rfl, rfl, ((only_setWatch s _ _).trans (only_setEvt _ _ _)).finished⟩

theorem ppsEdge_steers (ha : awake s = true) (k : Fin 2) (ago high p : Nat) (e : Int) (hsrc : s.mil.src = 2 + k.val)
    (hst : s.mil.state = 2) (hhigh : 100 ≤ high) (hp : (watchOf s (2 + k.val)).prev = some p)
    (hin : absI ((stampAgo256 s ago : Int) - p - 256000000000) ≤ 25600000)
    (he : e = phaseError s (stampAgo256 s ago) (watchOf s (2 + k.val)))
    (hlim : absI e ≤ fget s Reg.milServo 7 0 * 1000 * 256) : Ends (.ppsEdge k ago high) s fun t =>
      t.mil.err = e ∧ t.mil.freq = s.mil.freq - e * 1000 / 256 / (2 ^ fget s Reg.milServo 27 24 : Nat) ∧
      t.mil.rate = clampI 2000000000 (clampI (fget s Reg.milServo 15 8 * 10000000)
        (t.mil.freq - e * 1000 / 256 / (2 ^ fget s Reg.milServo 23 20 : Nat))) ∧
      t.mil.state = 2 ∧ t.mil.road = s.mil.road ∧ (watchOf t (2 + k.val)).lastOk = some s.cycle ∧
      rd t (Reg.milPpsErr k.val) = toField 32 (max (-(2 ^ 31)) (min (2 ^ 31 - 1) e)) ∧
      Only [.mil] [Reg.milEvt, Reg.milPpsErr k.val] s t := by
  subst he
  have shown : rd (edgeNoted s k (stampAgo256 s ago) (watchOf s (2 + k.val))) (Reg.milPpsErr k.val) =
      ppsErrShown (phaseError s (stampAgo256 s ago) (watchOf s (2 + k.val))) := by
    rw [edgeNoted, rd_wr_same, Nat.mod_eq_of_lt ((ppsErrShown_lt _).trans (by decide))]
  refine ends_of (core_ppsEdge k ago high ha) ?_
  rw [ppsEdge_accepted hsrc hp hhigh hin, ppsAccepted_steers k.isLt hsrc hst hlim]
  refine ⟨?_, ?_, ?_, ?_, ?_, ?_, ?_, ((only_edgeNoted s k _ _).more (only_mil _ _) (by simp) (by simp)).finished⟩
  · rw [finish_mil]
  · rw [finish_mil]
    rfl
  · rw [finish_mil]
    rfl
  · rw [finish_mil, edgeNoted_mil, hst]
  · rw [finish_mil, edgeNoted_mil]
  · rw [watchOf, finish_mil, edgeNoted_mil]
    exact congrArg SrcWatch.lastOk (KMap.get_set_same _ _ _ _)
  · rw [rd_finish_below s (belowCounts_milPpsErr k.isLt)]
    exact shown

end PpsCommands

/-! ### REF_IN measurements -/

section Reference
variable {s : State}

/-- The watch after a measurement in range. -/
def refWatch (s : State) : SrcWatch :=
  { watchOf s 1 with
    prev := some s.cycle
    lastOk := some s.cycle
    lost := false }

/-- A measurement in range noted; a unit in HOLDOVER acquires first. -/
def refNoted (s : State) : State :=
  if s.mil.state = 3 then servoState (setWatch s 1 (refWatch s)) 1 else setWatch s 1 (refWatch s)

/-- With REF in use the deviation is freq and RATE, and the unit locks (R92, R94). -/
def refSteered (s : State) (ppt : Int) : State :=
  { refNoted s with mil := { (refNoted s).mil with
    freq := clampI 2000000000 ppt
    rate := clampI 2000000000 ppt } }

theorem refNoted_mil (s : State) : ∃ st w a, (refNoted s).mil = { s.mil with
    watch := s.mil.watch.set (fun _ => SrcWatch.zero) 1 (refWatch s)
    state := st
    warm := w
    aonFrom := a } := by
  unfold refNoted
  split
  · obtain ⟨w, a, e⟩ := servoState_mil (setWatch s 1 (refWatch s)) 1
    exact ⟨1, w, a, e⟩
  · exact ⟨s.mil.state, s.mil.warm, s.mil.aonFrom, rfl⟩

theorem only_refNoted (s : State) : Only [.mil] [Reg.milEvt] s (refNoted s) := by
  have watched : Only [.mil] [Reg.milEvt] s (setWatch s 1 (refWatch s)) := (only_setWatch s _ _).mono (by simp) (by simp)
  unfold refNoted
  split
  · exact watched.more (only_servoState _ 1) (by simp) (by simp)
  · exact watched

theorem refMeasured_steers (ppt : Int) (hsrc : s.mil.src = 1)
    (hq : ∀ q, (watchOf s 1).prev = some q → q + 800000 ≤ s.cycle)
    (hn : (watchOf s 1).prev = none → (watchOf s 1).since + 800000 ≤ s.cycle) :
    refMeasured s ppt true = servoState (refSteered s ppt) 2 := by
  unfold refMeasured
  dsimp only
  rw [if_neg, if_neg (by simp), if_pos hsrc]
  · rfl
  · rintro (⟨h, -⟩ | h)
    · exact h hsrc
    · cases hp : (watchOf s 1).prev with
      | none =>
        have := hn hp
        simp only [hp] at h
        omega
      | some q =>
        have := hq q hp
        simp only [hp] at h
        omega

theorem refMeasureEnd_locks (ha : awake s = true) (ppt : Int) (hsrc : s.mil.src = 1)
    (hq : ∀ q, (watchOf s 1).prev = some q → q + 800000 ≤ s.cycle)
    (hn : (watchOf s 1).prev = none → (watchOf s 1).since + 800000 ≤ s.cycle) : Ends (.refMeasureEnd ppt true) s fun t =>
      t.mil.freq = clampI 2000000000 ppt ∧ t.mil.rate = clampI 2000000000 ppt ∧ t.mil.state = 2 ∧
      t.mil.road = s.mil.road ∧ (watchOf t 1).lastOk = some s.cycle ∧ (watchOf t 1).lost = false ∧
      Only [.mil] [Reg.milEvt] s t := by
  obtain ⟨st, w, a, noted⟩ := refNoted_mil s
  obtain ⟨w', a', locked⟩ := servoState_mil (refSteered s ppt) 2
  have watch : watchOf (finish s (servoState (refSteered s ppt) 2)) 1 = refWatch s := by
    rw [watchOf, finish_mil, locked, refSteered, noted]
    exact KMap.get_set_same _ _ _ _
  refine ends_of (core_refMeasureEnd ppt true ha) ?_
  rw [refMeasured_steers ppt hsrc hq hn, watch, finish_mil, locked, refSteered, noted]
  exact ⟨rfl, rfl, rfl, rfl, rfl, rfl,
    (((only_refNoted s).more (only_mil _ _) (by simp) (by simp)).more (only_servoState _ 2) (by simp) (by simp)).finished⟩

end Reference

/-- Settles O23: an edge is rejected or accepted by its width and its predecessor; an accepted one of the source in use is
`servoEdge` on the state in which it has been noted; a measurement in range ends in the lock. -/
theorem ppsEdgesAndReferenceSteerTheRate : Obligations.PpsEdgesAndReferenceSteerTheRate := by
  unfold Obligations.PpsEdgesAndReferenceSteerTheRate
  exact fun s ha => ⟨ppsEdge_rejects ha, ppsEdge_steers ha, refMeasureEnd_locks ha⟩

end Sys2Proof.Machine
end

section
namespace Sys2Proof.Machine

/-! ### Pulse generators -/

section Pulses
variable (s : State) (n : Nat)

@[simp] theorem pulseOf_setPulse (x : Pulse) : pulseOf (setPulse s n x) n = x := by simp [pulseOf, setPulse]

theorem pulseOf_setPulse_ne {n k : Nat} (x : Pulse) (h : k ≠ n) : pulseOf (setPulse s n x) k = pulseOf s k := by
  simp [pulseOf, setPulse, KMap.get_set_ne _ _ _ h]

theorem pulseOf_congr {t : State} (h : t.mil = s.mil) (n : Nat) : pulseOf t n = pulseOf s n := by
  rw [pulseOf, pulseOf, h]

theorem ceilNs_congr {t : State} (h : t.mil = s.mil) : ceilNs t = ceilNs s := by rw [ceilNs, ceilNs, h]

/-- A generator after its rise at the grid time `d` (R108). -/
def risen (d : Nat) : Pulse :=
  { pulseOf s n with
    next := some (d + (pulseOf s n).period)
    high := some (d, s.cycle, false)
    fallNs := d + (pulseOf s n).width }

/-- A trigger records the time of its rise and counts the pulse (R109). -/
def riseCounted (d : Nat) : State :=
  fput (wr s (Reg.milTrigLast n) d) (Reg.milTrigCnt n) 47 0 (fget s (Reg.milTrigCnt n) 47 0 + 1)

variable {s n}

/-- A generator whose grid time has come rises; a trigger records it. -/
theorem pulseRise_due {d : Nat} (hv : s.mil.valid = true) (hon : (pulseOf s n).on = true) (hh : (pulseOf s n).high = none)
    (hp : (pulseOf s n).newPhase = none) (hd : (pulseOf s n).next = some d) (hr : d * roadUnit ≤ s.mil.road) :
    pulseRise s n = if n < 8 then riseCounted (setPulse s n (risen s n d)) n d else setPulse s n (risen s n d) := by
  have due : pulseDue (pulseOf s n) = some (d, none) := by
    unfold pulseDue
    rw [hd, hp]
  unfold pulseRise
  dsimp only
  rw [due]
  exact if_pos ⟨hv, hon, hh, hr⟩

/-- A pulse whose end road time has reached falls. -/
theorem pulseFall_due {h c : Nat} (hh : (pulseOf s n).high = some (h, c, false)) (hr : (pulseOf s n).fallNs * roadUnit ≤ s.mil.road) :
    pulseFall s n = setPulse s n { pulseOf s n with high := none } := by
  unfold pulseFall
  simp only [hh, Bool.false_eq_true, if_false, decide_eq_true hr, if_true]

/-- The generator named is as given and the others are as before. -/
theorem pulses_finish {t : State} {x : Pulse} (h : t.mil = (setPulse s n x).mil) :
    pulseOf (finish s t) n = x ∧ ∀ k, k ≠ n → pulseOf (finish s t) k = pulseOf s k := by
  have whole := fun k => pulseOf_congr (setPulse s n x) ((finish_mil s t).trans h) k
  exact ⟨(whole n).trans (pulseOf_setPulse s n x), fun k hk => (whole k).trans (pulseOf_setPulse_ne s x hk)⟩

theorem riseCounted_mil (d : Nat) : (riseCounted s n d).mil = s.mil := (fput_mil _ _ _ _ _).trans (wr_mil _ _ _)

theorem only_riseCounted (d : Nat) : Only [] [Reg.milTrigLast n, Reg.milTrigCnt n] s (riseCounted s n d) :=
  (only_wr s _ _).trans (only_fput _ _ _ _ _)

theorem rd_riseCounted_last (d : Nat) : rd (riseCounted s n d) (Reg.milTrigLast n) = d % 2 ^ 64 := by
  rw [riseCounted, rd_fput_ne _ _ _ _ (by simp only [Reg.milTrigLast, Reg.milTrigCnt]; omega), rd_wr_same]

theorem fget_riseCounted_cnt (d : Nat) : fget (riseCounted s n d) (Reg.milTrigCnt n) 47 0 =
    (fget s (Reg.milTrigCnt n) 47 0 + 1) % 2 ^ 48 := fget_fput_same _ _ _ _ _ (by decide) (by decide)

theorem pulseFall_falls {c : Instr} {h k : Nat} (e : exec c s = .next (finish s (pulseFall s n)))
    (hh : (pulseOf s n).high = some (h, k, false)) (hr : (pulseOf s n).fallNs * roadUnit ≤ s.mil.road) :
    Ends c s fun t => pulseOf t n = { pulseOf s n with high := none } ∧ (∀ k, k ≠ n → pulseOf t k = pulseOf s k) ∧
      Only [.mil] [] s t := by
  refine ends_of e ?_
  rw [pulseFall_due hh hr]
  obtain ⟨fallen, others⟩ := pulses_finish (s := s) (n := n) (x := { pulseOf s n with high := none }) rfl
  exact ⟨fallen, others, (only_setPulse s n _).finished⟩

/-- The registers of the triggers lie below the counters. -/
theorem belowCounts_trig {o : Nat} (h : o < 0x30600) : belowCounts o := belowCounts_of_lt (h.trans (by decide))

end Pulses

section Rise
variable {s : State}

theorem triggerRise_rises (n : Fin 8) (d : Nat) (ha : awake s = true) (hv : s.mil.valid = true) (hon : (pulseOf s n.val).on = true)
    (hh : (pulseOf s n.val).high = none) (hp : (pulseOf s n.val).newPhase = none) (hd : (pulseOf s n.val).next = some d)
    (hr : d * roadUnit ≤ s.mil.road) : Ends (.triggerRise n) s fun t =>
      pulseOf t n.val = { pulseOf s n.val with
        next := some (d + (pulseOf s n.val).period)
        high := some (d, s.cycle, false)
        fallNs := d + (pulseOf s n.val).width } ∧
      rd t (Reg.milTrigLast n.val) = d % 2 ^ 64 ∧
      fget t (Reg.milTrigCnt n.val) 47 0 = (fget s (Reg.milTrigCnt n.val) 47 0 + 1) % 2 ^ 48 ∧
      (∀ k, k ≠ n.val → pulseOf t k = pulseOf s k) ∧
      Only [.mil] [Reg.milTrigLast n.val, Reg.milTrigCnt n.val] s t := by
  refine ends_of (core_triggerRise n ha) ?_
  rw [pulseRise_due hv hon hh hp hd hr, if_pos n.isLt]
  obtain ⟨rose, others⟩ := pulses_finish (riseCounted_mil (s := setPulse s n (risen s n d)) (n := n) d)
  refine ⟨rose, ?_, ?_, others, ((only_setPulse s n _).trans (only_riseCounted d)).finished⟩
  · rw [rd_finish_below s (belowCounts_trig (by simp only [Reg.milTrigLast]; omega)), rd_riseCounted_last]
  · rw [fget_congr (rd_finish_below s (belowCounts_trig (by simp only [Reg.milTrigCnt]; omega))), fget_riseCounted_cnt]
    exact congrArg (fun x => (x + 1) % 2 ^ 48) (fget_congr (rd_congr rfl _) 47 0)

theorem ppsOutRise_rises (k : Fin 2) (d : Nat) (ha : awake s = true) (hv : s.mil.valid = true)
    (hon : (pulseOf s (8 + k.val)).on = true) (hh : (pulseOf s (8 + k.val)).high = none)
    (hp : (pulseOf s (8 + k.val)).newPhase = none) (hd : (pulseOf s (8 + k.val)).next = some d)
    (hr : d * roadUnit ≤ s.mil.road) : Ends (.ppsOutRise k) s fun t =>
      (pulseOf t (8 + k.val)).high = some (d, s.cycle, false) ∧
      (pulseOf t (8 + k.val)).fallNs = d + (pulseOf s (8 + k.val)).width ∧
      (pulseOf t (8 + k.val)).next = some (d + (pulseOf s (8 + k.val)).period) ∧
      (∀ j, j ≠ 8 + k.val → pulseOf t j = pulseOf s j) ∧ Only [.mil] [] s t := by
  refine ends_of (core_ppsOutRise k ha) ?_
  rw [pulseRise_due hv hon hh hp hd hr, if_neg (by omega)]
  obtain ⟨rose, others⟩ := pulses_finish (s := s) (n := 8 + k.val) (x := risen s (8 + k) d) rfl
  rw [rose]
  exact ⟨rfl, rfl, rfl, others, (only_setPulse s _ _).finished⟩

end Rise

/-! ### A trigger's settings -/

section Settings
variable (s : State)

theorem le_nextGrid (anchor : Int) {period : Nat} (bound : Nat) (hp : 0 < period) : bound ≤ nextGrid anchor period bound := by
  unfold nextGrid
  split
  · omega
  · have := Nat.div_add_mod (((bound : Int) - anchor).toNat + period - 1) period
    have := Nat.mod_lt (((bound : Int) - anchor).toNat + period - 1) hp
    have comm := Nat.mul_comm period ((((bound : Int) - anchor).toNat + period - 1) / period)
    rw [cdiv]
    omega

/-- Arming gives an enabled generator on valid time a grid time ahead, and no other setting changes. -/
theorem pulseOf_armPulse {n : Nat} (hp : 0 < (pulseOf s n).period) : ∃ x, pulseOf (armPulse s n) n = { pulseOf s n with next := x } ∧
    ((pulseOf s n).on = true → s.mil.valid = true → (pulseOf s n).next = none → ∃ d, x = some d ∧ ceilNs s + 1000 ≤ d) := by
  by_cases h : (pulseOf s n).on = true ∧ s.mil.valid = true ∧ (pulseOf s n).next = none
  · refine ⟨_, ?_, fun _ _ _ => ⟨_, rfl, le_nextGrid ((pulseOf s n).start + (pulseOf s n).phase) (ceilNs s + 1000) hp⟩⟩
    rw [armPulse, if_pos h, pulseOf_setPulse]
  · refine ⟨(pulseOf s n).next, ?_, fun h1 h2 h3 => absurd ⟨h1, h2, h3⟩ h⟩
    rw [armPulse, if_neg h]

theorem pulseOf_armPulse_ne {n k : Nat} (h : k ≠ n) : pulseOf (armPulse s n) k = pulseOf s k := by
  unfold armPulse
  dsimp only
  split
  · exact pulseOf_setPulse_ne s _ h
  · rfl

theorem regRow_milTrigCtrl : ∀ n : Fin 8, regRow (Reg.milTrigCtrl n) =
    some ⟨"MIL_TRIG_CTRL", 0x30400, 8, 64, 1, 64, false, [fld 2 2 .rw 0, fld 1 1 .rw 0, fld 0 0 .rw 0]⟩ := by decide +kernel

/-- The committed control word has the bits written. -/
theorem flag_commit_milTrigCtrl (c : Nat) (n : Fin 8) (v : Nat) {b : Nat} (hb : b < 3) :
    flag (commitFields s c (Reg.milTrigCtrl n) v) (Reg.milTrigCtrl n) b = v.testBit b := by
  have written : rd (commitFields s c (Reg.milTrigCtrl n) v) (Reg.milTrigCtrl n) =
      putBits (putBits (putBits (rd s (Reg.milTrigCtrl n)) 2 2 (bitsOf v 2 2)) 1 1 (bitsOf v 1 1)) 0 0 (bitsOf v 0 0) % 2 ^ 64 := by
    rw [commitFields_row (regRow_milTrigCtrl n)]
    simp [fieldsWrite, Field.write, fld, Field.allows, Nat.mod_one]
  rw [flag, written, bitOf_mod _ (by omega), bitOf_putBits _ _ _ _ _ (by decide), bitOf_putBits _ _ _ _ _ (by decide),
    bitOf_putBits _ _ _ _ _ (by decide), ← bitOf_eq_testBit]
  rcases (by omega : b = 0 ∨ b = 1 ∨ b = 2) with rfl | rfl | rfl <;> simp [bitsOf_single]

/-- The checks of an enable look at PERIOD, PHASE and WIDTH alone. -/
theorem trigOk_congr {t : State} {n : Nat} (hp : rd t (Reg.milTrigPeriod n) = rd s (Reg.milTrigPeriod n))
    (hf : rd t (Reg.milTrigPhase n) = rd s (Reg.milTrigPhase n)) (hw : rd t (Reg.milTrigWidth n) = rd s (Reg.milTrigWidth n)) :
    trigOk t n = trigOk s n := by
  rw [trigOk, trigOk, hp, hf, hw]

theorem period_of_trigOk {n : Nat} (h : trigOk s n = true) : 1000 ≤ rd s (Reg.milTrigPeriod n) := by
  simp only [trigOk, Bool.and_eq_true, decide_eq_true_eq] at h
  omega

/-- A trigger's generator with the settings that an enable takes into force, before it is armed (R109). -/
def loaded (n : Nat) : Pulse :=
  { pulseOf s n with
    start := (rd s (Reg.milTrigStart n) : Int)
    phase := rd s (Reg.milTrigPhase n)
    period := max 1 (rd s (Reg.milTrigPeriod n))
    width := rd s (Reg.milTrigWidth n)
    on := true
    next := none
    newPhase := none }

theorem loadPulse_trigger {n : Nat} (hn : n < 8) : loadPulse s n = armPulse (setPulse s n (loaded s n)) n := by
  unfold loadPulse
  simp only [hn, if_true]
  rfl

theorem only_loadPulse_trigger {n : Nat} (hn : n < 8) : Only [.mil] [] s (loadPulse s n) := by
  rw [loadPulse_trigger s hn]
  exact (only_setPulse s n _).more (only_armPulse _ n) (by simp) (by simp)

theorem pulseOf_loadPulse_ne {n k : Nat} (hn : n < 8) (h : k ≠ n) : pulseOf (loadPulse s n) k = pulseOf s k := by
  rw [loadPulse_trigger s hn, pulseOf_armPulse_ne _ h, pulseOf_setPulse_ne _ _ h]

/-- A trigger enabled with allowed settings has them in force and is armed (R109, R110). -/
theorem pulseOf_loadPulse {n : Nat} (hn : n < 8) (hok : trigOk s n = true) :
    (pulseOf (loadPulse s n) n).on = true ∧ (pulseOf (loadPulse s n) n).phase = rd s (Reg.milTrigPhase n) ∧
      (pulseOf (loadPulse s n) n).period = rd s (Reg.milTrigPeriod n) ∧
      (pulseOf (loadPulse s n) n).width = rd s (Reg.milTrigWidth n) ∧
      (s.mil.valid = true → ∃ d, (pulseOf (loadPulse s n) n).next = some d ∧ ceilNs s + 1000 ≤ d) := by
  have hper := period_of_trigOk s hok
  have hloaded := pulseOf_setPulse s n (loaded s n)
  have period : (loaded s n).period = rd s (Reg.milTrigPeriod n) := Nat.max_eq_right (by omega)
  obtain ⟨x, armed, ahead⟩ := pulseOf_armPulse (setPulse s n (loaded s n)) (n := n) (by rw [hloaded]; omega)
  rw [loadPulse_trigger s hn, armed, hloaded]
  rw [hloaded] at ahead
  exact ⟨rfl, rfl, period, rfl, fun hv => ahead rfl hv rfl⟩

end Settings

section Enable
variable (s : State) (m : Requester) (n : Fin 8)

theorem trigEnable_enables (v : BitVec 32) (hm : mayWrite s m (Reg.milTrigCtrl n.val) 4 = true)
    (hoff : flag s (Reg.milTrigCtrl n.val) 1 = false) (hv : v.toNat.testBit 1 = true) : Ends (.trigEnable m n v) s fun t =>
      flag t (Reg.milTrigCtrl n.val) 1 = trigOk s n.val ∧ flag t (Reg.milTrigCtrl n.val) 0 = v.toNat.testBit 0 ∧
      (trigOk s n.val = true → (pulseOf t n.val).on = true ∧ (pulseOf t n.val).phase = rd s (Reg.milTrigPhase n.val) ∧
        (pulseOf t n.val).period = rd s (Reg.milTrigPeriod n.val) ∧
        (pulseOf t n.val).width = rd s (Reg.milTrigWidth n.val) ∧
        (s.mil.valid = true → ∃ d, (pulseOf t n.val).next = some d ∧ ceilNs s + 1000 ≤ d)) ∧
      (trigOk s n.val = false → t.mil = s.mil ∧ flag t Reg.topErr 0 = true) ∧
      (∀ k, k ≠ n.val → pulseOf t k = pulseOf s k) ∧
      Only [.mil] ([Reg.milTrigCtrl n.val] ++ errRegs ++ portRegs m) s t := by
  have frame := only_commitFields (portCount s m) m.code (Reg.milTrigCtrl n) v.toNat
  have hmil := (frame.1 .mil (by simp)).trans (portCount_mil s m)
  have hcur : flag (portCount s m) (Reg.milTrigCtrl n) 1 = false := by
    rw [flag_congr (rd_portCount s m (belowCounts_trig (by simp only [Reg.milTrigCtrl]; omega))), hoff]
  have hbit (b : Nat) (hb : b < 3) := flag_commit_milTrigCtrl (portCount s m) m.code n v.toNat hb
  have setting {o : Nat} (ho : o < 0x30600) (hne : o ∉ Reg.milTrigCtrl n :: errRegs) :
      rd (commitFields (portCount s m) m.code (Reg.milTrigCtrl n) v.toNat) o = rd s o :=
    (frame.rd_eq (belowCounts_trig ho) hne).trans (rd_portCount s m (belowCounts_trig ho))
  have hper := setting (o := Reg.milTrigPeriod n) (by simp only [Reg.milTrigPeriod]; omega)
    (by simp [errRegs, Reg.milTrigPeriod, Reg.milTrigCtrl, Reg.topErr, Reg.topErrAddr]; omega)
  have hpha := setting (o := Reg.milTrigPhase n) (by simp only [Reg.milTrigPhase]; omega)
    (by simp [errRegs, Reg.milTrigPhase, Reg.milTrigCtrl, Reg.topErr, Reg.topErrAddr]; omega)
  have hwid := setting (o := Reg.milTrigWidth n) (by simp only [Reg.milTrigWidth]; omega)
    (by simp [errRegs, Reg.milTrigWidth, Reg.milTrigCtrl, Reg.topErr, Reg.topErrAddr]; omega)
  have hok := trigOk_congr s hper hpha hwid
  have hceil := ceilNs_congr s hmil
  have e : trigCtrlWrite (portCount s m) m.code n v.toNat =
      (if trigOk s n then loadPulse (commitFields (portCount s m) m.code (Reg.milTrigCtrl n) v.toNat) n
        else rsvd (fput (commitFields (portCount s m) m.code (Reg.milTrigCtrl n) v.toNat) (Reg.milTrigCtrl n) 1 1 0) m.code
          (Reg.milTrigCtrl n)) := by
    unfold trigCtrlWrite
    simp only [hcur, hbit 1 (by decide), hv, hok, and_self, if_true]
  generalize commitFields (portCount s m) m.code (Reg.milTrigCtrl n) v.toNat = u at *
  have hctrl := belowCounts_trig (o := Reg.milTrigCtrl n) (by simp only [Reg.milTrigCtrl]; omega)
  refine ends_of (exec_trigEnable n v hm) ?_
  rw [e]
  by_cases hset : trigOk s n = true
  · have load := only_loadPulse_trigger u n.isLt
    have read := (rd_finish_below s hctrl).trans (load.rd_eq hctrl (by simp))
    have pulses := pulseOf_congr (t := finish s (loadPulse u n)) (loadPulse u n) (finish_mil _ _)
    rw [if_pos hset, flag_congr read, flag_congr read, hbit 1 (by decide), hbit 0 (by decide), hv, hset, pulses, ← hmil,
      ← hceil, ← hper, ← hpha, ← hwid]
    refine ⟨rfl, rfl, fun _ => pulseOf_loadPulse u n.isLt (hok.trans hset), fun h => absurd h (by simp), fun k hk => ?_,
      ((frame.trans load).mono (by simp) (by simp)).counted⟩
    rw [pulses, pulseOf_loadPulse_ne u n.isLt hk, pulseOf_congr s hmil]
  · have refused : (rsvd (fput u (Reg.milTrigCtrl n) 1 1 0) m.code (Reg.milTrigCtrl n)).mil = s.mil := by
      rw [rsvd_mil, fput_mil, hmil]
    have kept (b : Nat) : flag (finish s (rsvd (fput u (Reg.milTrigCtrl n) 1 1 0) m.code (Reg.milTrigCtrl n))) (Reg.milTrigCtrl n) b =
        flag (fput u (Reg.milTrigCtrl n) 1 1 0) (Reg.milTrigCtrl n) b := by
      refine flag_congr ((rd_finish_below s hctrl).trans (rd_rsvd_ne _ _ ?_)) b
      simp [errRegs, Reg.milTrigCtrl, Reg.topErr, Reg.topErrAddr]; omega
    rw [if_neg hset, kept, kept, flag_fput_same _ _ (by decide), flag_fput_apart _ _ (by decide) (by decide) (by decide),
      hbit 0 (by decide), finish_mil, refused, flag_finish_err, flag_rsvd]
    simp only [Bool.not_eq_true] at hset
    rw [hset]
    exact ⟨rfl, rfl, fun h => absurd h (by decide), fun _ => ⟨rfl, rfl⟩,
      fun k _ => pulseOf_congr s ((finish_mil _ _).trans refused) k,
      (((frame.fput 1 1 0 (by simp)).trans (only_rsvd _ _ _)).mono (by simp) (by simp [errRegs])).counted⟩

theorem trigPhaseWrite_holds (v : BitVec 32) (hm : mayWrite s m (Reg.milTrigPhase n.val) 4 = true) :
    Ends (.trigPhaseWrite m n v) s fun t =>
      (v.toNat < rd s (Reg.milTrigPeriod n.val) → fget t (Reg.milTrigPhase n.val) 31 0 = v.toNat ∧
        pulseOf t n.val = (if (pulseOf s n.val).on then { pulseOf s n.val with newPhase := some (v.toNat, ceilNs s) }
          else pulseOf s n.val) ∧
        (∀ k, k ≠ n.val → pulseOf t k = pulseOf s k) ∧ Only [.mil] (Reg.milTrigPhase n.val :: portRegs m) s t) ∧
      (rd s (Reg.milTrigPeriod n.val) ≤ v.toNat → flag t Reg.topErr 0 = true ∧ Only [] (errRegs ++ portRegs m) s t) := by
  have hper : rd (portCount s m) (Reg.milTrigPeriod n) = rd s (Reg.milTrigPeriod n) :=
    rd_portCount s m (belowCounts_trig (by simp only [Reg.milTrigPeriod]; omega))
  refine ends_of (exec_trigPhaseWrite n v hm) ⟨fun hlt => ?_, fun hle => ?_⟩
  · have hctrl := belowCounts_trig (o := Reg.milTrigPhase n) (by simp only [Reg.milTrigPhase]; omega)
    have hmil := (wr_mil (portCount s m) (Reg.milTrigPhase n) v.toNat).trans (portCount_mil s m)
    have read : rd (wr (portCount s m) (Reg.milTrigPhase n) v.toNat) (Reg.milTrigPhase n) = v.toNat := by
      rw [rd_wr_same, Nat.mod_eq_of_lt (by omega)]
    have frame := only_wr (portCount s m) (Reg.milTrigPhase n) v.toNat
    have value : bitsOf v.toNat 31 0 = v.toNat := by
      rw [bitsOf_eq, pow_zero, Nat.div_one, Nat.mod_eq_of_lt v.isLt]
    have e : trigPhaseWrite (portCount s m) m.code n v.toNat = if (pulseOf s n).on then
        setPulse (wr (portCount s m) (Reg.milTrigPhase n) v.toNat) n { pulseOf s n with newPhase := some (v.toNat, ceilNs s) }
        else wr (portCount s m) (Reg.milTrigPhase n) v.toNat := by
      unfold trigPhaseWrite
      rw [if_neg (by omega)]
      simp only [read, pulseOf_congr s hmil, ceilNs_congr s (portCount_mil s m)]
    generalize wr (portCount s m) (Reg.milTrigPhase n) v.toNat = u at *
    rw [e]
    split
    · obtain ⟨held, others⟩ := pulses_finish (s := s) (n := n) (x := { pulseOf s n with newPhase := some (v.toNat, ceilNs s) })
        (t := setPulse u n { pulseOf s n with newPhase := some (v.toNat, ceilNs s) }) (by rw [setPulse, setPulse, hmil])
      refine ⟨?_, held, others, ((frame.trans (only_setPulse u n _)).mono (vs := [.mil]) (qs := [Reg.milTrigPhase n]) (by simp) (by simp)).counted⟩
      rw [fget, rd_finish_below s hctrl, (only_setPulse u n _).rd_eq hctrl (by simp), read, value]
    · refine ⟨?_, pulseOf_congr s ((finish_mil _ _).trans hmil) n, fun k _ => pulseOf_congr s ((finish_mil _ _).trans hmil) k,
        (frame.mono (vs := [.mil]) (qs := [Reg.milTrigPhase n]) (by simp) (by simp)).counted⟩
      rw [fget, rd_finish_below s hctrl, read, value]
  · rw [Sys2Proof.Machine.trigPhaseWrite, if_pos (by omega), flag_finish_err, flag_rsvd]
    exact ⟨rfl, (only_rsvd _ _ _).counted⟩

end Enable

/-- Settles O24: a rise is `pulseRise` at the grid time that is due, a fall clears the generator's level, and the two writes are
judged by the settings that the committed word leaves. -/
theorem triggersAndPpsPulsesFollowTheGrid : Obligations.TriggersAndPpsPulsesFollowTheGrid := by
  unfold Obligations.TriggersAndPpsPulsesFollowTheGrid
  exact fun s => ⟨triggerRise_rises, ppsOutRise_rises, fun n _ _ ha => pulseFall_falls (core_triggerFall n ha),
    fun k _ _ ha => pulseFall_falls (core_ppsOutFall k ha), trigEnable_enables s, trigPhaseWrite_holds s⟩

end Sys2Proof.Machine
end

section
namespace Sys2Proof.Machine

/-! ### Delay exchanges -/

section Exchange
variable (s : State) (p : Nat)

@[simp] theorem dlyOf_setDly (d : Dly) : dlyOf (setDly s p d) p = d := by simp [dlyOf, setDly]

theorem dlyOf_setDly_ne {p q : Nat} (d : Dly) (h : q ≠ p) : dlyOf (setDly s p d) q = dlyOf s q := by
  simp [dlyOf, setDly, KMap.get_set_ne _ _ _ h]

theorem dlyOf_congr {t : State} (h : t.mil = s.mil) (p : Nat) : dlyOf t p = dlyOf s p := by
  rw [dlyOf, dlyOf, h]

/-- A second entry for a port replaces the first. -/
theorem dlyOf_setDly_setDly (d e : Dly) (q : Nat) : dlyOf (setDly (setDly s p d) p e) q = dlyOf (setDly s p e) q := by
  by_cases h : q = p
  · rw [h, dlyOf_setDly, dlyOf_setDly]
  · rw [dlyOf_setDly_ne _ _ h, dlyOf_setDly_ne _ _ h, dlyOf_setDly_ne _ _ h]

/-- What goes out on a time port. -/
def timeOut (p typ payload : Nat) : Out := if p < 32 then .tapCtl p typ payload else .weltCtl (p - 32) typ payload

theorem mem_out_timeCtl (typ payload : Nat) : timeOut p typ payload ∈ (timeCtl s p typ payload).out := by
  simp [timeCtl, timeOut]

theorem only_timeCtl (typ payload : Nat) : Only [] [] s (timeCtl s p typ payload) := only_setOut s _

theorem only_dlyUnused : Only [] (if p < 32 then [Reg.tapCnt p 11] else []) s (dlyUnused s p) := by
  unfold dlyUnused
  split
  · exact only_tcnt s p 11 1
  · exact Only.refl _ _ s

theorem rd_dlyUnused {p : Nat} (hp : p < 32) :
    rd (dlyUnused s p) (Reg.tapCnt p 11) = (rd s (Reg.tapCnt p 11) + 1) % 2 ^ 48 := by
  rw [dlyUnused, if_pos hp]
  exact rd_bump_same s _ 1

theorem dlyUnused_mil : (dlyUnused s p).mil = s.mil := (only_dlyUnused s p).1 .mil (by simp)

variable {s p}

/-- The port named is as given and the others are as before. -/
theorem dlys_finish {t : State} {d : Dly} (h : ∀ q, dlyOf t q = dlyOf (setDly s p d) q) :
    dlyOf (finish s t) p = d ∧ ∀ q, q ≠ p → dlyOf (finish s t) q = dlyOf s q := by
  have whole := fun q => (dlyOf_congr t (finish_mil s t) q).trans (h q)
  exact ⟨(whole p).trans (dlyOf_setDly s p d), fun q hq => (whole q).trans (dlyOf_setDly_ne s d hq)⟩

theorem le_minInt (a : Int) : ∀ (l : List Int) (x : Int), a ≤ minInt x l ↔ a ≤ x ∧ ∀ y ∈ l, a ≤ y := by
  intro l
  induction l with
  | nil => simp [minInt]
  | cons y l ih =>
    intro x
    have := ih (min x y)
    simp only [minInt, List.foldl_cons, List.mem_cons, forall_eq_or_imp] at this ⊢
    rw [this, le_min_iff, and_assoc]

end Exchange

/-! The request (R102, R145, R146). -/

section Request
variable {s : State} {p : Fin 34} {ago : Nat}

/-- The exchange that a request opens. -/
def dreqOpened (s : State) (p ago : Nat) : Dly :=
  { dlyOf s p with
    seq := (dlyOf s p).seq + 1
    sentAt := s.cycle
    counted := false
    t1 := some (stampAgo256 s ago, s.cycle) }

/-- A request on a tap port takes its block. -/
def blockTaken (s : State) (p : Nat) : State := if p < 32 then tookBlock s p 1 else s

theorem only_blockTaken (s : State) (p : Nat) : Only [.taps] [] s (blockTaken s p) := by
  unfold blockTaken
  split
  · exact only_tookBlock s p 1
  · exact Only.refl _ _ s

theorem tap_blockTaken_ne (s : State) {p q : Nat} (h : q ≠ p) : tap (blockTaken s p) q = tap s q := by
  unfold blockTaken
  split
  · exact tap_tookBlock_ne s p h 1
  · rfl

/-- The request sent. -/
def dreqSent (s : State) (p ago : Nat) : State :=
  timeCtl (setDly (blockTaken s p) p (dreqOpened s p ago)) p 0x55 (withChk 0x55 ((dlyOf s p).seq % 65536 * 2 ^ 40))

theorem dlyOf_dreqSent (s : State) (p ago q : Nat) : dlyOf (dreqSent s p ago) q = dlyOf (setDly s p (dreqOpened s p ago)) q := by
  have block : (blockTaken s p).mil = s.mil := (only_blockTaken s p).1 .mil (by simp)
  have whole : (dreqSent s p ago).mil = { (blockTaken s p).mil with
    dly := (blockTaken s p).mil.dly.set (fun _ => Dly.zero) p (dreqOpened s p ago) } := rfl
  rw [dlyOf, whole, block]
  rfl

theorem only_dreqSent (s : State) (p ago : Nat) : Only [.mil, .taps] [] s (dreqSent s p ago) := by
  have block : Only [.mil, .taps] [] s (blockTaken s p) := (only_blockTaken s p).mono (by simp) (by simp)
  exact (block.more (only_setDly _ _ _) (by simp) (by simp)).more (only_timeCtl _ _ _ _) (by simp) (by simp)

theorem dreqSend_due {s : State} {p ago : Nat} (hu : linkUp s p = true) (ht : (dlyOf s p).seq = 0 ∨ (dlyOf s p).sentAt + dlyPeriod s ≤ s.cycle)
    (hb : p < 32 → turnFor s p = true ∧ fcDue s p = false) : dreqSend s p ago = dreqSent s p ago := by
  have due : (dreqDue s p && (decide (32 ≤ p) || (turnFor s p && !fcDue s p))) = true := by
    rw [dreqDue, hu, dreqTime]
    by_cases hp : p < 32
    · obtain ⟨h1, h2⟩ := hb hp
      rw [h1, h2]
      simpa using ht
    · simpa [hp, Nat.not_lt.1 hp] using ht
  unfold dreqSend
  exact if_pos due

theorem dreqSend_opens (ha : awake s = true) (hu : linkUp s p.val = true)
    (ht : (dlyOf s p.val).seq = 0 ∨ (dlyOf s p.val).sentAt + dlyPeriod s ≤ s.cycle)
    (hb : p.val < 32 → turnFor s p.val = true ∧ fcDue s p.val = false) : Ends (.dreqSend p ago) s fun t =>
      dlyOf t p.val = { dlyOf s p.val with
        seq := (dlyOf s p.val).seq + 1
        sentAt := s.cycle
        counted := false
        t1 := some (stampAgo256 s ago, s.cycle) } ∧
      (∀ q, q ≠ p.val → dlyOf t q = dlyOf s q) ∧
      (if p.val < 32 then Out.tapCtl p.val 0x55 (withChk 0x55 ((dlyOf s p.val).seq % 65536 * 2 ^ 40))
        else Out.weltCtl (p.val - 32) 0x55 (withChk 0x55 ((dlyOf s p.val).seq % 65536 * 2 ^ 40))) ∈ t.out ∧
      (p.val < 32 → tap t p.val = { tap s p.val with
        txAt := max (tap s p.val).txAt (50 * s.cycle) + 256
        idle := false }) ∧ (32 ≤ p.val → t.taps = s.taps) ∧ tapsBut p.val s t ∧ Only [.mil, .taps] [] s t := by
  have taps : (finish s (dreqSent s p ago)).taps = (blockTaken s p).taps := finish_taps _ _
  refine ends_of (core_dreqSend p ago ha) ?_
  rw [dreqSend_due hu ht hb]
  obtain ⟨opened, rest⟩ := dlys_finish (dlyOf_dreqSent s p ago)
  refine ⟨opened, rest, mem_out_finish s (mem_out_timeCtl _ p _ _), fun hp => ?_, fun hp => ?_, fun q hq => ?_,
    (only_dreqSent s p ago).finished⟩
  · rw [tap_congr taps, blockTaken, if_pos hp, tap_tookBlock]
  · rw [taps, blockTaken, if_neg (by omega)]
  · rw [tap_congr taps, tap_blockTaken_ne s hq]

end Request

/-! The response (R102, R145). -/

section Response
variable {s : State} {p : Nat} {seq turn ago : Nat} {t1 : Nat × Nat}

/-- An exchange completed in time by the response of its request. -/
def exchanged (d : Dly) (rtt : Int) : Dly :=
  { d with
    t1 := none
    all := (rtt :: d.all).take 8 }

/-- The same, with its round trip accepted. -/
def exchangeAccepted (d : Dly) (rtt : Int) (cycle : Nat) : Dly :=
  { exchanged d rtt with
    good := (rtt :: d.good).take 8
    goodN := d.goodN + 1
    valid := d.valid || decide (8 ≤ d.goodN + 1)
    lastGood := cycle }

theorem drspReceive_completes (hu : linkUp s p = true) (h1 : (dlyOf s p).t1 = some t1) (hs : (dlyOf s p).seq ≠ 0)
    (hq : seq = ((dlyOf s p).seq + 65535) % 65536) (hc : s.cycle ≤ t1.2 + 80000) {rtt : Int}
    (hr : rtt = (stampAgo256 s ago : Int) - t1.1 - turn) : drspReceive s p seq turn ago =
      setDly s p (if ∀ x ∈ (rtt :: (dlyOf s p).all).take 8, rtt ≤ x + 512 then exchangeAccepted (dlyOf s p) rtt s.cycle
        else exchanged (dlyOf s p) rtt) := by
  have last : seqLast (dlyOf s p) seq = true := by simp [seqLast, hs, hq]
  have least : rtt ≤ minInt rtt ((rtt :: (dlyOf s p).all).take 8) + 512 ↔ ∀ x ∈ (rtt :: (dlyOf s p).all).take 8, rtt ≤ x + 512 := by
    rw [← sub_le_iff_le_add, le_minInt]
    exact ⟨fun h x hx => by have := h.2 x hx; omega, fun h => ⟨by omega, fun x hx => by have := h x hx; omega⟩⟩
  unfold drspReceive
  simp only [hu, h1, last, ← hr, least, Bool.true_eq_false, false_or, if_false, Nat.not_lt.2 hc]
  split
  · rfl
  · rfl

/-- A response that is not of the last request. -/
theorem drspReceive_stray (hu : linkUp s p = true) (h1 : (dlyOf s p).t1 = some t1) (hq : seqLast (dlyOf s p) seq = false) :
    drspReceive s p seq turn ago = dlyLost s p := by
  unfold drspReceive
  simp only [hu, h1, hq, Bool.true_eq_false, if_false, true_or, if_true]

/-- The exchange is counted, once. -/
theorem dlyLost_counts (h : (dlyOf s p).counted = false) :
    dlyLost s p = dlyUnused (setDly s p { dlyOf s p with counted := true }) p := if_neg (by simp [h])

theorem dlyLost_counted (h : (dlyOf s p).counted = true) : dlyLost s p = s := if_pos h

theorem drspLost_due (hu : linkUp s p = true) (h1 : (dlyOf s p).t1 = some t1) (hc : t1.2 + 80000 < s.cycle) :
    drspLost s p = dlyLost (setDly s p { dlyOf s p with t1 := none }) p := by
  unfold drspLost
  simp only [h1, hu, hc, and_self, if_true]

end Response

section Commands
variable {s : State} {p : Fin 34}

theorem drspReceive_measures (ha : awake s = true) (seq : BitVec 16) (turn : BitVec 32) (ago : Nat) (t1 : Nat × Nat)
    (hu : linkUp s p.val = true) (h1 : (dlyOf s p.val).t1 = some t1) (hs : (dlyOf s p.val).seq ≠ 0)
    (hq : seq.toNat = ((dlyOf s p.val).seq + 65535) % 65536) (hc : s.cycle ≤ t1.2 + 80000) :
    Ends (.drspReceive p seq (some turn) ago) s fun t =>
      let rtt : Int := (stampAgo256 s ago : Int) - t1.1 - turn.toNat
      (dlyOf t p.val).t1 = none ∧ (dlyOf t p.val).all = (rtt :: (dlyOf s p.val).all).take 8 ∧
      ((∀ x ∈ (dlyOf t p.val).all, rtt ≤ x + 512) →
        (dlyOf t p.val).good = (rtt :: (dlyOf s p.val).good).take 8 ∧ (dlyOf t p.val).lastGood = s.cycle ∧
        (dlyOf t p.val).valid = ((dlyOf s p.val).valid || decide (8 ≤ (dlyOf s p.val).goodN + 1))) ∧
      ((∃ x ∈ (dlyOf t p.val).all, x + 512 < rtt) →
        (dlyOf t p.val).good = (dlyOf s p.val).good ∧ (dlyOf t p.val).valid = (dlyOf s p.val).valid) ∧
      (∀ q, q ≠ p.val → dlyOf t q = dlyOf s q) ∧ Only [.mil] [] s t := by
  refine ends_of (core_drspReceive p seq turn ago ha) ?_
  dsimp only
  generalize hr : (stampAgo256 s ago : Int) - t1.1 - turn.toNat = rtt
  rw [drspReceive_completes hu h1 hs hq hc hr.symm]
  by_cases hgood : ∀ x ∈ (rtt :: (dlyOf s p.val).all).take 8, rtt ≤ x + 512
  · rw [if_pos hgood]
    obtain ⟨done, rest⟩ := dlys_finish (s := s) (p := p) (d := exchangeAccepted (dlyOf s p) rtt s.cycle) (fun _ => rfl)
    rw [done]
    refine ⟨rfl, rfl, fun _ => ⟨rfl, rfl, rfl⟩, fun ⟨x, hx, hlt⟩ => ?_, rest, (only_setDly s _ _).finished⟩
    have := hgood x hx
    omega
  · rw [if_neg hgood]
    obtain ⟨done, rest⟩ := dlys_finish (s := s) (p := p) (d := exchanged (dlyOf s p) rtt) (fun _ => rfl)
    rw [done]
    exact ⟨rfl, rfl, fun h => absurd h hgood, fun _ => ⟨rfl, rfl⟩, rest, (only_setDly s _ _).finished⟩

theorem drspReceive_strays (ha : awake s = true) (seq : BitVec 16) (turn : BitVec 32) (ago : Nat) (t1 : Nat × Nat)
    (hu : linkUp s p.val = true) (h1 : (dlyOf s p.val).t1 = some t1) (hq : seqLast (dlyOf s p.val) seq.toNat = false)
    (hc : (dlyOf s p.val).counted = false) : Ends (.drspReceive p seq (some turn) ago) s fun t =>
      dlyOf t p.val = { dlyOf s p.val with counted := true } ∧ (∀ q, q ≠ p.val → dlyOf t q = dlyOf s q) ∧
      (p.val < 32 → rd t (Reg.tapCnt p.val 11) = (rd s (Reg.tapCnt p.val 11) + 1) % 2 ^ 48) ∧
      Only [.mil] (if p.val < 32 then [Reg.tapCnt p.val 11] else []) s t := by
  refine ends_of (core_drspReceive p seq turn ago ha) ?_
  rw [drspReceive_stray hu h1 hq, dlyLost_counts hc]
  obtain ⟨counted, rest⟩ := dlys_finish (dlyOf_congr _ (dlyUnused_mil (setDly s p { dlyOf s p.val with counted := true }) p))
  refine ⟨counted, rest, fun hp => ?_, ((only_setDly s _ _).trans (only_dlyUnused _ _)).finished⟩
  rw [rd_finish_below s (belowCounts_tapCnt hp (by decide)), rd_dlyUnused _ hp]
  rfl

theorem drspReceive_answers (ha : awake s = true) (seq : BitVec 16) (ago : Nat) (hu : linkUp s p.val = true) (hp : 32 ≤ p.val) :
    Ends (.drspReceive p seq none ago) s fun t =>
      Out.weltCtl (p.val - 32) 0x66 (withChk 0x66 (seq.toNat % 65536 * 2 ^ 40 +
        (stampAgo256 s 0 - stampAgo256 s ago) % 2 ^ 32 * 2 ^ 8)) ∈ t.out ∧ Only [] [] s t := by
  have e : dreqAnswer s p seq.toNat ago = timeCtl s p 0x66 (withChk 0x66 (seq.toNat % 65536 * 2 ^ 40 +
      (stampAgo256 s 0 - stampAgo256 s ago) % 2 ^ 32 * 2 ^ 8)) := if_pos (by simp [hu, hp])
  have sent := mem_out_timeCtl s p 0x66 (withChk 0x66 (seq.toNat % 65536 * 2 ^ 40 +
    (stampAgo256 s 0 - stampAgo256 s ago) % 2 ^ 32 * 2 ^ 8))
  rw [timeOut, if_neg (by omega)] at sent
  refine ends_of (core_dreqAnswer p seq ago ha) ?_
  rw [e]
  exact ⟨mem_out_finish s sent, (only_timeCtl _ _ _ _).finished⟩

theorem drspLost_counts (ha : awake s = true) (t1 : Nat × Nat) (hu : linkUp s p.val = true) (h1 : (dlyOf s p.val).t1 = some t1)
    (hc : t1.2 + 80000 < s.cycle) : Ends (.drspLost p) s fun t =>
      dlyOf t p.val = { dlyOf s p.val with
        t1 := none
        counted := true } ∧ (∀ q, q ≠ p.val → dlyOf t q = dlyOf s q) ∧
      (p.val < 32 → rd t (Reg.tapCnt p.val 11) = if (dlyOf s p.val).counted then rd s (Reg.tapCnt p.val 11)
        else (rd s (Reg.tapCnt p.val 11) + 1) % 2 ^ 48) ∧
      Only [.mil] (if p.val < 32 then [Reg.tapCnt p.val 11] else []) s t := by
  have closed := only_setDly s p { dlyOf s p.val with t1 := none }
  have hd := dlyOf_setDly s p { dlyOf s p.val with t1 := none }
  refine ends_of (core_drspLost p ha) ?_
  rw [drspLost_due hu h1 hc]
  by_cases h : (dlyOf s p.val).counted = true
  · rw [dlyLost_counted (by rw [hd]; exact h)]
    obtain ⟨lost, rest⟩ := dlys_finish (s := s) (p := p) (d := { dlyOf s p.val with t1 := none }) (fun _ => rfl)
    refine ⟨?_, rest, fun hp => ?_, (closed.mono (by simp) (by simp)).finished⟩
    · rw [lost, ← h]
    · rw [if_pos h, rd_finish_below s (belowCounts_tapCnt hp (by decide))]
      rfl
  · simp only [Bool.not_eq_true] at h
    rw [dlyLost_counts (by rw [hd]; exact h), hd]
    obtain ⟨lost, rest⟩ := dlys_finish (fun q => (dlyOf_congr _ (dlyUnused_mil _ p) q).trans
      (dlyOf_setDly_setDly s p { dlyOf s p.val with t1 := none } { dlyOf s p.val with
        t1 := none
        counted := true } q))
    refine ⟨lost, rest, fun hp => ?_,
      (((closed.mono (by simp) (by simp)).more (only_setDly _ _ _) (by simp) (by simp)).more (only_dlyUnused _ _) (by simp)
        (List.Subset.refl _)).finished⟩
    rw [h, rd_finish_below s (belowCounts_tapCnt hp (by decide)), rd_dlyUnused _ hp]
    rfl

theorem dlyFail_fails (ha : awake s = true) (hv : (dlyOf s p.val).valid = true)
    (hc : (dlyOf s p.val).lastGood + 16 * dlyPeriod s ≤ s.cycle) : Ends (.dlyFail p) s fun t =>
      dlyOf t p.val = { dlyOf s p.val with
        valid := false
        goodN := 0 } ∧ flag t Reg.milEvt 7 = true ∧ (∀ q, q ≠ p.val → dlyOf t q = dlyOf s q) ∧
      Only [.mil] [Reg.milEvt] s t := by
  have e : dlyFail s p = setEvt (setDly s p { dlyOf s p.val with
      valid := false
      goodN := 0 }) Reg.milEvt 7 := if_pos ⟨hv, hc⟩
  refine ends_of (core_dlyFail p ha) ?_
  rw [e]
  obtain ⟨failed, rest⟩ := dlys_finish (dlyOf_congr _ (setEvt_mil (setDly s p { dlyOf s p.val with
      valid := false
      goodN := 0 }) Reg.milEvt 7))
  refine ⟨failed, ?_, rest, ((only_setDly s _ _).trans (only_setEvt _ _ _)).finished⟩
  rw [flag_finish_milEvt, flag_setEvt_same _ _ _ (by decide)]

end Commands

/-- Settles O25: a request that is due opens its exchange, a response completes or strays from it by its SEQ and its time, an
exchange is lost or a delay fails by their clocks alone. -/
theorem delayExchangesMeasureTheRoundTrip : Obligations.DelayExchangesMeasureTheRoundTrip := by
  unfold Obligations.DelayExchangesMeasureTheRoundTrip
  exact fun s p ha => ⟨fun _ => dreqSend_opens ha, drspReceive_measures ha, drspReceive_strays ha, drspReceive_answers ha,
    drspLost_counts ha, dlyFail_fails ha⟩

end Sys2Proof.Machine
end

section
namespace Sys2Proof.Machine

/-! ### Time marks sent -/

section MarkSent
variable (s : State) (p : Nat)

@[simp] theorem tap_tookMark (ago : Nat) : tap (tookMark s p ago) p = { tap s p with
    txAt := 50 * s.cycle + 512 - 5 * ago
    idle := false } := by simp [tookMark]

theorem tap_tookMark_ne {q : Nat} (h : q ≠ p) (ago : Nat) : tap (tookMark s p ago) q = tap s q := tap_setTap_ne s _ h

theorem only_tookMark (ago : Nat) : Only [.taps] [] s (tookMark s p ago) := only_setTap s p _

/-- The mark taken by a tap port's boundary and remembered (R104, R147). -/
def markNoted (ago : Nat) : State :=
  { tookMark s p ago with mil := { s.mil with lastMark := s.mil.lastMark.setNat p (nowNs s / 1000 + 1) } }

theorem markNoted_lastMark (ago : Nat) : (markNoted s p ago).mil.lastMark = s.mil.lastMark.setNat p (nowNs s / 1000 + 1) := rfl

theorem only_markNoted (ago : Nat) : Only [.mil, .taps] [] s (markNoted s p ago) :=
  ((only_tookMark s p ago).mono (vs := [.mil, .taps]) (qs := []) (by simp) (by simp)).more (only_mil _ _) (by simp) (by simp)

variable {s p}

/-- A tap port's mark is TM0 with the stamp, then TM1 (R104). -/
theorem timeMarkSend_tap {ago : Nat} (hp : p < 32) (hu : linkUp s p = true) (hm : s.mil.lastMark.nat p ≠ nowNs s / 1000 + 1)
    (hb : atBoundary s p = true) : ∃ w, timeMarkSend s p ago =
      timeCtl (timeCtl (markNoted s p ago) p 0x4B (stampAgo256 s ago / 256 % 2 ^ 56)) p 0x4C w := by
  have due : (linkUp s p && decide (p ≠ 32) && markDue s p && (decide (32 ≤ p) || atBoundary s p)) = true := by
    have h32 : p ≠ 32 := by omega
    simp [hu, h32, markDue, hm, hb]
  have h33 : p ≠ 33 := by omega
  unfold timeMarkSend
  rw [if_pos due]
  simp only [hp, h33, if_true, if_false]
  exact ⟨_, rfl⟩

theorem timeMarkSend_sends {p : Fin 34} {ago : Nat} (ha : awake s = true) (hp : p.val < 32) (hu : linkUp s p.val = true)
    (hm : s.mil.lastMark.nat p.val ≠ nowNs s / 1000 + 1) (hb : atBoundary s p.val = true) :
    Ends (.timeMarkSend p ago) s fun t =>
      t.mil.lastMark.nat p.val = nowNs s / 1000 + 1 ∧
      (∀ q, q ≠ p.val → t.mil.lastMark.nat q = s.mil.lastMark.nat q) ∧
      Out.tapCtl p.val 0x4B (stampAgo256 s ago / 256 % 2 ^ 56) ∈ t.out ∧ (∃ w, Out.tapCtl p.val 0x4C w ∈ t.out) ∧
      t.mil.road = s.mil.road ∧ tapsBut p.val s t ∧ tap t p.val = { tap s p.val with
        txAt := 50 * s.cycle + 512 - 5 * ago
        idle := false } ∧ Only [.mil, .taps] [] s t := by
  obtain ⟨w, e⟩ := timeMarkSend_tap (ago := ago) hp hu hm hb
  refine ends_of (core_timeMarkSend p ago ha) ?_
  rw [e]
  generalize hsent : timeCtl (markNoted s p ago) p 0x4B (stampAgo256 s ago / 256 % 2 ^ 56) = u
  have tm0 : Out.tapCtl p.val 0x4B (stampAgo256 s ago / 256 % 2 ^ 56) ∈ u.out := by
    have sent := mem_out_timeCtl (markNoted s p ago) p 0x4B (stampAgo256 s ago / 256 % 2 ^ 56)
    rwa [hsent, timeOut, if_pos hp] at sent
  have tm1 : Out.tapCtl p.val 0x4C w ∈ (timeCtl u p 0x4C w).out := by
    have sent := mem_out_timeCtl u p 0x4C w
    rwa [timeOut, if_pos hp] at sent
  have frame : Only [.mil, .taps] [] s (timeCtl u p 0x4C w) := by
    rw [← hsent]
    exact ((only_markNoted s p ago).more (only_timeCtl _ _ _ _) (by simp) (by simp)).more (only_timeCtl _ _ _ _) (by simp) (by simp)
  have hmil : (finish s (timeCtl u p 0x4C w)).mil = (markNoted s p ago).mil := by rw [finish_mil, ← hsent]; rfl
  have htap (q : Nat) : tap (finish s (timeCtl u p 0x4C w)) q = tap (tookMark s p ago) q := by
    rw [tap_finish, ← hsent]
    rfl
  have both : Out.tapCtl p.val 0x4B (stampAgo256 s ago / 256 % 2 ^ 56) ∈ (timeCtl u p 0x4C w).out := List.mem_append_left _ tm0
  refine ⟨?_, fun q hq => ?_, mem_out_finish s both, ⟨w, mem_out_finish s tm1⟩, ?_, fun q hq => ?_, ?_,
    frame.finished⟩
  · rw [hmil, markNoted_lastMark]
    exact KMap.get_set_same (fun _ => 0) s.mil.lastMark _ _
  · rw [hmil, markNoted_lastMark]
    exact KMap.get_set_ne (fun _ => 0) s.mil.lastMark _ hq
  · rw [hmil]
    rfl
  · rw [htap, tap_tookMark_ne s p hq]
  · rw [htap, tap_tookMark]

end MarkSent

/-! ### Time marks heard by a slave -/

section MarkHeard
variable (s : State) (valid : Bool) (base : Nat)

/-- A mark on the source in use of a slave that acquires, without an announcement: watched and counted (R92, R106). -/
def markHeard : State :=
  { s with mil := { s.mil with
    watch := s.mil.watch.set (fun _ => SrcWatch.zero) 5 { watchOf s 5 with
      lastOk := some s.cycle
      lost := false }
    announce := none
    marks := if valid then s.mil.marks + 1 else 0
    markBase := base } }

theorem only_markHeard : Only [.mil] [] s (markHeard s valid base) := only_mil s _

/-- The difference to its own time becomes the slew remainder (R107). -/
def markFollowed (c : Int) : State :=
  { markHeard s true base with mil := { (markHeard s true base).mil with rem := c } }

theorem only_markFollowed (c : Int) : Only [.mil] [] s (markFollowed s base c) :=
  (only_markHeard s true base).more (only_mil _ _) (by simp) (by simp)

variable {s base}

theorem timeMarkReceive_heard {egress dly ago : Nat} {c : Int} (hu : linkUp s 32 = true) (hw : s.img.weltPos ≠ 0)
    (hs : s.mil.src = 5) (hst : s.mil.state = 1) (hc : c = (((egress + dly : Nat) : Int) - stampAgo256 s ago) * 2 ^ 32) :
    timeMarkReceive s egress dly valid base ago none =
      if valid = false then markHeard s valid base
      else if (followMark (markHeard s valid base) c).mil.state = 1 ∧ (followMark (markHeard s valid base) c).mil.marks ≥ 8 then
        setValid (servoState (followMark (markHeard s valid base) c) 2)
      else followMark (markHeard s valid base) c := by
  have acquiring : (setWatch s 5 { watchOf s 5 with
      lastOk := some s.cycle
      lost := false }).mil.state ≠ 3 := by
    show s.mil.state ≠ 3
    omega
  unfold timeMarkReceive
  rw [if_neg (by simp [hu, hw, hs])]
  simp only [acquiring, if_false, ← hc]
  rfl

/-- A mark near a slave's own time while it acquires is followed by slew (R107). -/
theorem followMark_small {c : Int} (hst : s.mil.state = 1) (hc : absI c ≤ stepLim s) :
    followMark (markHeard s true base) c = markFollowed s base c := by
  have near : absI c ≤ stepLim (markHeard s true base) := hc
  unfold followMark
  rw [if_neg (by rw [markHeard, hst]; decide), if_pos (Or.inl near)]
  rfl

theorem timeMarkReceive_follows {egress : BitVec 72} {dly : BitVec 23} {base : BitVec 8} {ago : Nat} {c : Int} (ha : awake s = true)
    (hu : linkUp s 32 = true) (hw : s.img.weltPos ≠ 0) (hs : s.mil.src = 5) (hst : s.mil.state = 1)
    (he : c = (((egress.toNat + dly.toNat : Nat) : Int) - stampAgo256 s ago) * 2 ^ 32) (hc : absI c ≤ stepLim s) :
    Ends (.timeMarkReceive egress dly true base ago none) s fun t =>
      t.mil.rem = c ∧ t.mil.road = s.mil.road ∧ t.mil.marks = s.mil.marks + 1 ∧ t.mil.markBase = base.toNat ∧
      t.mil.announce = none ∧ (watchOf t 5).lastOk = some s.cycle ∧
      t.mil.state = (if 7 ≤ s.mil.marks then 2 else 1) ∧ (7 ≤ s.mil.marks → t.mil.valid = true) ∧
      Only [.mil] [Reg.milEvt] s t := by
  have followed := only_markFollowed s base.toNat c
  have watch {t : State} (h : t.mil.watch = (markHeard s true base.toNat).mil.watch) : (watchOf t 5).lastOk = some s.cycle := by
    rw [watchOf, h]
    exact congrArg SrcWatch.lastOk (KMap.get_set_same _ _ _ _)
  refine ends_of (core_timeMarkReceive egress dly true base ago none ha) ?_
  rw [timeMarkReceive_heard true hu hw hs hst he, if_neg (by decide), followMark_small hst hc]
  by_cases h7 : 7 ≤ s.mil.marks
  · obtain ⟨a, b, locked⟩ := servoState_mil (markFollowed s base.toNat c) 2
    obtain ⟨q, armed⟩ := setValid_sets (servoState (markFollowed s base.toNat c) 2)
    have whole : Only [.mil] [Reg.milEvt] s (setValid (servoState (markFollowed s base.toNat c) 2)) :=
      ((followed.mono (by simp) (by simp)).more (only_servoState _ 2) (by simp) (by simp)).more (only_setValid _) (by simp) (by simp)
    rw [if_pos ⟨hst, show 8 ≤ s.mil.marks + 1 by omega⟩, if_pos h7,
      watch (by rw [finish_mil, armed, locked]; rfl), finish_mil, armed, locked]
    exact ⟨rfl, rfl, rfl, rfl, rfl, rfl, rfl, fun _ => rfl, whole.finished⟩
  · have few : ¬ ((markFollowed s base.toNat c).mil.state = 1 ∧ (markFollowed s base.toNat c).mil.marks ≥ 8) :=
      fun h => h7 (by have := show s.mil.marks + 1 ≥ 8 from h.2; omega)
    rw [if_neg few, if_neg h7, watch (by rw [finish_mil]; rfl), finish_mil]
    exact ⟨rfl, rfl, rfl, rfl, rfl, rfl, hst, fun h => absurd h h7, (followed.mono (by simp) (by simp)).finished⟩

theorem timeMarkReceive_invalid {egress : BitVec 72} {dly : BitVec 23} {base : BitVec 8} {ago : Nat} (ha : awake s = true)
    (hu : linkUp s 32 = true) (hw : s.img.weltPos ≠ 0) (hs : s.mil.src = 5) (hst : s.mil.state = 1) :
    Ends (.timeMarkReceive egress dly false base ago none) s fun t =>
      t.mil.marks = 0 ∧ t.mil.rem = s.mil.rem ∧ t.mil.road = s.mil.road ∧ t.mil.state = 1 ∧ Only [.mil] [] s t := by
  refine ends_of (core_timeMarkReceive egress dly false base ago none ha) ?_
  rw [timeMarkReceive_heard false hu hw hs hst rfl, if_pos rfl, finish_mil]
  exact ⟨rfl, rfl, rfl, hst, (only_markHeard s false _).finished⟩

end MarkHeard

/-! ### The latched read of road time -/

section TimeRead
variable {s : State} {m : Requester}

/-- A read of a word by a requester that reaches it is a read of the register space. -/
theorem busRead_own {off : Nat} (h : mayWrite s m off 4 = true) (ho : off < spmBase) :
    busRead s m off 4 = ownRead (portCount s m) m off 4 := by
  have hlt : off < 0x180000 := ho
  have h1 : isMsix off = false := by simp [isMsix]; omega
  have h2 : isPba off = false := by simp [isPba]; omega
  have h3 : isSlave off = false := by simp [isSlave]; omega
  have h4 : off < ownEnd := Nat.lt_of_lt_of_le ho (by decide)
  unfold mayWrite at h
  rw [Bool.and_eq_true] at h
  obtain ⟨ha, hb⟩ := h
  cases m <;> simp only [spiMayWrite, Bool.and_eq_true] at hb <;>
    simp [busRead, pcieRead, benchRead, barRead, portCount, fnOf, ha, hb, h1, h2, h3, h4]

/-- Outside the message memory the word read is given as it is. -/
theorem ownRead_word {o i j : Nat} {r : RegRow} {high : Bool} (hr : wordAt o = some (r, i, j, high)) (hb : o < spmBase)
    (ha : o % 4 = 0) (hn : inObjs o = false) :
    ownRead s m o 4 = giveData (readWord s m r i j high).1 m o 4 (readWord s m r i j high).2 := by
  have hs : shapeOk o 4 = true := by simp [shapeOk, ha]
  simp [ownRead, Nat.not_le.2 hb, hs, regRead, read4, hr, objSeen, hn, giveRead, objBad]

/-- The row of MIL_TIME. -/
def timeRow : RegRow := ⟨"MIL_TIME", 0x30040, 1, 8, 1, 8, true, [fld 63 0 .ro 0]⟩

theorem wordAt_milTime : wordAt Reg.milTime = some (timeRow, 0, 0, false) := by decide +kernel

/-- MIL_TIME and MIL_TIME_AUX are latched together for the master (R12, R88). -/
def timeLatched (s : State) (m : Requester) : State :=
  { latchAux s m with latch := KMap.put s.latch (latchKey m Reg.milTime) (some (nowNs s % 2 ^ 64 / 2 ^ 32)) }

theorem readWord_milTime (s : State) (m : Requester) :
    readWord s m timeRow 0 0 false = (timeLatched s m, nowNs s % 2 ^ 64 % 2 ^ 32) := rfl

theorem timeLatched_auxLatch (s : State) (m : Requester) : (timeLatched s m).mil.auxLatch =
    KMap.put s.mil.auxLatch m.code (some (milAuxView s)) := rfl

theorem timeLatched_road (s : State) (m : Requester) : (timeLatched s m).mil.road = s.mil.road := rfl

theorem timeLatched_latch (s : State) (m : Requester) : (timeLatched s m).latch =
    KMap.put s.latch (latchKey m Reg.milTime) (some (nowNs s % 2 ^ 64 / 2 ^ 32)) := rfl

theorem giveData_mil (s : State) (m : Requester) (o n v : Nat) : (giveData s m o n v).mil = s.mil := rfl

theorem only_timeLatched (s : State) (m : Requester) : Only [.mil, .latch] [] s (timeLatched s m) :=
  ((only_mil s _).mono (vs := [.mil, .latch]) (qs := []) (by simp) (by simp)).more (only_setLatch (latchAux s m) _) (by simp) (by simp)

theorem milAuxView_congr {t : State} (h : t.mil = s.mil) (hr : rd t Reg.milUncCfg = rd s Reg.milUncCfg) : milAuxView t = milAuxView s := by
  have now : nowNs t = nowNs s := by rw [nowNs, nowNs, h]
  rw [milAuxView, milAuxView, stampUnc, stampUnc, baseUnc, baseUnc, h, now, fget_congr hr, fget_congr hr, fget_congr hr]

theorem milTimeRead_latches (ha : awake s = true) (m : Requester) (hm : mayWrite s m Reg.milTime 4 = true) :
    Ends (.milTimeRead m) s fun t =>
      t.mil.road = s.mil.road ∧ t.mil.auxLatch.find m.code = some (milAuxView s) ∧
      t.latch.find (latchKey m Reg.milTime) = some (nowNs s % 2 ^ 64 / 2 ^ 32) ∧
      Out.regData m.code Reg.milTime 4 (nowNs s % 2 ^ 32) ∈ t.out ∧ Only [.mil, .latch] (portRegs m) s t := by
  have hmil := portCount_mil s m
  have now : nowNs (portCount s m) = nowNs s := by rw [nowNs, nowNs, hmil]
  have aux : milAuxView (portCount s m) = milAuxView s := milAuxView_congr hmil (rd_portCount s m (belowCounts_of_lt (by decide)))
  have low : nowNs s % 2 ^ 64 % 2 ^ 32 = nowNs s % 2 ^ 32 := Nat.mod_mod_of_dvd _ (by decide)
  refine ends_of (core_milTimeRead m ha) ?_
  rw [busRead_own hm (by decide), ownRead_word wordAt_milTime (by decide) (by decide) (by decide), readWord_milTime, now, low]
  refine ⟨?_, ?_, ?_, mem_out_finish s (mem_out_giveData _ _ _ _ _),
    ((only_timeLatched _ m).trans (only_giveData _ _ _ _ _)).counted⟩
  · rw [finish_mil, giveData_mil, timeLatched_road, hmil]
  · rw [finish_mil, giveData_mil, timeLatched_auxLatch, aux]
    exact find_put_same _ _ _
  · rw [finish_latch, latch_giveData, timeLatched_latch, now]
    exact find_put_same _ _ _

end TimeRead

/-! ### The calibration of the always-on clock -/

section Calibration
variable {s : State}

theorem aonCalibrationEnd_keeps (ha : awake s = true) (period : BitVec 32) (hs : s.mil.state = 1 ∨ s.mil.state = 2)
    (hc : s.mil.aonFrom + fget s Reg.milHold 7 0 * 6400000 ≤ s.cycle) : Ends (.aonCalibrationEnd period) s fun t =>
      rd t Reg.milAonPeriod = period.toNat ∧ t.mil = { s.mil with aonFrom := s.cycle } ∧
      Only [.mil] [Reg.milAonPeriod] s t := by
  have e : aonCalibrated s period.toNat = wr { s with mil := { s.mil with aonFrom := s.cycle } } Reg.milAonPeriod
      (period.toNat % 2 ^ 32) := if_pos ⟨hs, hc⟩
  have value : period.toNat % 2 ^ 32 % 2 ^ 64 = period.toNat := by have := period.isLt; omega
  refine ends_of (core_aonCalibrationEnd period ha) ?_
  rw [e]
  refine ⟨?_, ?_, ((only_mil s _).trans (only_wr _ _ _)).finished⟩
  · rw [rd_finish_below s (belowCounts_of_lt (by decide)), rd_wr_same, value]
  · rw [finish_mil, wr_mil]

end Calibration

/-- Settles O26: a mark is sent at a boundary and remembered, a mark heard is followed by slew and counted to the lock, the read
latches what it returns, and the calibration's end keeps the period. -/
theorem marksReadsAndCalibrationCarryTime : Obligations.MarksReadsAndCalibrationCarryTime := by
  unfold Obligations.MarksReadsAndCalibrationCarryTime
  exact fun s ha => ⟨fun _ _ => timeMarkSend_sends ha, fun _ _ _ _ _ => timeMarkReceive_follows ha,
    fun _ _ _ _ => timeMarkReceive_invalid ha, milTimeRead_latches ha, aonCalibrationEnd_keeps ha⟩

end Sys2Proof.Machine
end

section
namespace Sys2Proof.Machine

/-! ### Tap ports: what their registers read -/

section TapReads
variable (s : State) (p : Nat)

@[simp] theorem tapEvt_ne_tapCnt (i : Nat) : Reg.tapEvt p ≠ Reg.tapCnt p i := by
  simp only [Reg.tapEvt, Reg.tapCnt]
  omega

@[simp] theorem tapLastErr_ne_tapCnt (i : Nat) : Reg.tapLastErr p ≠ Reg.tapCnt p i := by
  simp only [Reg.tapLastErr, Reg.tapCnt]
  omega

@[simp] theorem tapLastErr_ne_tapEvt : Reg.tapLastErr p ≠ Reg.tapEvt p := by
  simp only [Reg.tapLastErr, Reg.tapEvt]
  omega

@[simp] theorem tapCnt_ne_tapEvt (i : Nat) : Reg.tapCnt p i ≠ Reg.tapEvt p := (tapEvt_ne_tapCnt p i).symm
@[simp] theorem tapCnt_ne_tapLastErr (i : Nat) : Reg.tapCnt p i ≠ Reg.tapLastErr p := (tapLastErr_ne_tapCnt p i).symm
@[simp] theorem tapEvt_ne_tapLastErr : Reg.tapEvt p ≠ Reg.tapLastErr p := (tapLastErr_ne_tapEvt p).symm

/-- A port's counters lie apart. -/
@[simp] theorem tapCnt_inj {i j : Nat} : Reg.tapCnt p i = Reg.tapCnt p j ↔ i = j := by
  simp only [Reg.tapCnt]
  omega

@[simp] theorem rd_setTap (x : TapPort) (r : Nat) : rd (setTap s p x) r = rd s r := rd_congr (setTap_regs s p x) r
@[simp] theorem rd_dlyReset (r : Nat) : rd (dlyReset s p) r = rd s r := rfl
@[simp] theorem rd_markFrom (r : Nat) : rd (markFrom s p) r = rd s r := rfl
@[simp] theorem rd_passUrg (r : Nat) : rd (passUrg s p) r = rd s r :=
  rd_congr (foldl_same s _ State.regs (by intros; rfl) _) r

@[simp] theorem rd_tcnt_same (i n : Nat) : rd (tcnt s p i n) (Reg.tapCnt p i) = (rd s (Reg.tapCnt p i) + n) % 2 ^ 48 :=
  rd_bump_same s _ n

@[simp] theorem rd_lastErr_same (code : Nat) :
    rd (lastErr s p code) (Reg.tapLastErr p) = putBits (rd s (Reg.tapLastErr p)) 31 24 code :=
  rd_fput s _ 31 24 code (by decide) (by decide)

@[simp] theorem rd_tevt_same {b : Nat} (h : b < 64) :
    rd (tevt s p b) (Reg.tapEvt p) = putBits (rd s (Reg.tapEvt p)) b b 1 := rd_fput s _ b b 1 (le_refl b) h

/-- A bit just set reads 1. -/
@[simp] theorem bitOf_putBits_one (v b : Nat) : bitOf (putBits v b b 1) b = true := by
  rw [bitOf_putBits _ _ _ _ _ (le_refl b), if_pos ⟨le_refl b, le_refl b⟩, Nat.sub_self]
  rfl

variable {p}

@[simp] theorem rd_tcnt_ne {r i : Nat} (n : Nat) (h : r ≠ Reg.tapCnt p i) : rd (tcnt s p i n) r = rd s r := rd_bump_ne s n h
@[simp] theorem rd_tevt_ne {r : Nat} (b : Nat) (h : r ≠ Reg.tapEvt p) : rd (tevt s p b) r = rd s r := rd_setEvt_ne s b h
@[simp] theorem rd_lastErr_ne {r : Nat} (code : Nat) (h : r ≠ Reg.tapLastErr p) : rd (lastErr s p code) r = rd s r :=
  rd_fput_ne s 31 24 code h

end TapReads

/-! ### Tap ports: the end of a command -/

section TapEnd
variable {s t : State} {us : List UnitName} {rs : List Nat} (p : Fin 32)

@[simp] theorem rd_finish_tapCnt {i : Nat} (hi : i < 16) : rd (finish s t) (Reg.tapCnt p i) = rd t (Reg.tapCnt p i) :=
  rd_finish_below s (belowCounts_tapCnt p.isLt hi)

@[simp] theorem rd_finish_tapLastErr : rd (finish s t) (Reg.tapLastErr p) = rd t (Reg.tapLastErr p) :=
  rd_finish_below s (belowCounts_tapLastErr p.isLt)

@[simp] theorem rd_finish_tapEvt : rd (finish s t) (Reg.tapEvt p) = rd t (Reg.tapEvt p) :=
  rd_finish_below s (by simp only [belowCounts, Reg.tapEvt, Reg.hstPcieCnt]; omega)

end TapEnd

/-! ### Tap ports: a link that goes down, by the state it leaves (R125, R140) -/

section Departures
variable (s : State) (p : Nat)

/-- A port that was not in UP, back in `next`. -/
def linkStopped (next : Nat) (x : TapPort) : TapPort :=
  { x with
    state := next
    errs := [] }

/-- Verdicts queued or partly sent (R140). -/
def unsent (x : TapPort) : Nat := x.txq.length + if x.txData = [] then 0 else 1

/-- Leaving UP counts the verdicts it drops and the departure itself (R140, R155, R156). -/
theorem leaveUp_counts (next : Nat) : leaveUp s p next = passUrg (dlyReset (tevt (tcnt (tcnt
    (setTap s p (leftUp next (tap s p))) p 4 (unsent (tap s p))) p 9 1) p 1) p) p := rfl

theorem only_leaveUp_counts (next : Nat) :
    Only [.taps, .mil, .rgl] [Reg.tapCnt p 4, Reg.tapCnt p 9, Reg.tapEvt p] s (leaveUp s p next) :=
  ((((((only_setTap s p _).trans (only_tcnt _ p 4 _)).trans (only_tcnt _ p 9 1)).trans (only_tevt _ p 1)).trans
    (only_dlyReset _ p)).trans (only_passUrg _ p)).mono (by simp) (by simp)

variable {s p}

/-- A link that was not in UP stops with nothing to count (R125). -/
theorem linkDown_stopped (next : Nat) (o : Option Nat) (h : (tap s p).state ≠ 4) :
    linkDown s p next o = setTap s p (linkStopped next (tap s p)) := if_neg h

/-- A link in UP first ends a descriptor that is open on it (R140). -/
theorem linkDown_up (next : Nat) (o : Option Nat) (h : (tap s p).state = 4) :
    linkDown s p next o = leaveUp (endOpenDsc s p o) p next := if_pos h

theorem linkDown_up_none (next : Nat) (h : (tap s p).state = 4) : linkDown s p next none = leaveUp s p next :=
  linkDown_up next none h

theorem lockLoss_down (o : Option Nat) (h2 : 2 ≤ (tap s p).state) (h4 : (tap s p).state ≤ 4) :
    lockLoss s p o = lastErr (linkDown s p 1 o) p 9 := if_pos ⟨h2, h4⟩

variable (s p)

/-- With no descriptor open, what a link's end writes. -/
theorem only_linkDown_none (next : Nat) :
    Only [.taps, .mil, .rgl] [Reg.tapCnt p 4, Reg.tapCnt p 9, Reg.tapEvt p] s (linkDown s p next none) := by
  by_cases h : (tap s p).state = 4
  · rw [linkDown_up_none _ h]
    exact only_leaveUp_counts s p next
  · rw [linkDown_stopped _ _ h]
    exact (only_setTap s p _).mono (by simp) (by simp)

/-- A descriptor that an error ends leaves the count of departures alone. -/
theorem rd_endOpenDsc_departures (o : Option Nat) : rd (endOpenDsc s p o) (Reg.tapCnt p 9) = rd s (Reg.tapCnt p 9) := by
  unfold endOpenDsc
  simp only
  split
  · rfl
  · split
    · simp [overrun, queueErr]
    · simp

end Departures

/-! ### Tap ports: falling back to SEEK -/

section FallBack
variable {s : State} (p : Fin 32)

/-- Block lock lost before UP (R125, R148). -/
theorem blockLockLoss_training (ha : awake s = true) (o : Option Nat) (h : (tap s p).state = 2 ∨ (tap s p).state = 3) :
    Ends (.blockLockLoss p o) s fun t =>
      (tap t p).state = 1 ∧ (tap t p).reserve = (tap s p).reserve ∧ fget t (Reg.tapLastErr p) 31 24 = 9 ∧
      tapsBut p s t ∧ Only [.taps] [Reg.tapLastErr p] s t := by
  refine ends_of (core_blockLockLoss p o ha) ?_
  rw [lockLoss_down o (by omega) (by omega), linkDown_stopped 1 o (by omega)]
  exact ⟨by simp [linkStopped], by simp [linkStopped], by simp [fget],
    tapsBut_finish s fun q hq => by simp [tap_setTap_ne _ _ hq],
    ((only_setTap s p _).trans (only_lastErr _ p 9)).finished⟩

/-- Block lock lost in UP (R125, R140, R148, R155, R156). -/
theorem blockLockLoss_up (ha : awake s = true) (h : (tap s p).state = 4) : Ends (.blockLockLoss p none) s fun t =>
      (tap t p).state = 1 ∧ (tap t p).reserve = (tap s p).reserve ∧ (tap t p).urgIn = 0 ∧ (tap t p).txq = [] ∧
      fget t (Reg.tapLastErr p) 31 24 = 9 ∧
      rd t (Reg.tapCnt p 4) = (rd s (Reg.tapCnt p 4) + ((tap s p).txq.length + if (tap s p).txData = [] then 0 else 1)) % 2 ^ 48 ∧
      rd t (Reg.tapCnt p 9) = (rd s (Reg.tapCnt p 9) + 1) % 2 ^ 48 ∧ flag t (Reg.tapEvt p) 1 = true ∧
      tapsBut p s t ∧
      Only [.taps, .mil, .rgl] [Reg.tapLastErr p, Reg.tapCnt p 4, Reg.tapCnt p 9, Reg.tapEvt p] s t := by
  have hx : tap (leaveUp s p 1) p = leftUp 1 (tap s p) := tap_leaveUp s p 1
  refine ends_of (core_blockLockLoss p none ha) ?_
  rw [lockLoss_down none (by omega) (by omega), linkDown_up_none 1 h]
  refine ⟨by simp [hx, leftUp], by simp [hx, leftUp], by simp [hx, leftUp],
    by simp [hx, leftUp], by simp [fget], by simp [leaveUp_counts, unsent],
    by simp [leaveUp_counts], by simp [flag, leaveUp_counts],
    tapsBut_finish s fun q hq => by simp [tap_leaveUp_ne _ _ _ hq], ?_⟩
  exact (((only_leaveUp_counts s p 1).trans (only_lastErr _ p 9)).mono (by simp) (by simp)).finished

/-- 1 ms in LOCK or TRAIN (R125, R155, R156). -/
theorem trainFail_seeks (ha : awake s = true) (h : (tap s p).state = 2 ∨ (tap s p).state = 3)
    (hl : (tap s p).lockAt + 800000 ≤ s.cycle) : Ends (.trainFail p) s fun t =>
      (tap t p).state = 1 ∧ (tap t p).reserve = (tap s p).reserve ∧
      rd t (Reg.tapCnt p 10) = (rd s (Reg.tapCnt p 10) + 1) % 2 ^ 48 ∧ flag t (Reg.tapEvt p) 5 = true ∧
      tapsBut p s t ∧ Only [.taps] [Reg.tapCnt p 10, Reg.tapEvt p] s t := by
  have e : trainFail s p = tevt (tcnt (linkDown s p 1 none) p 10 1) p 5 := if_pos ⟨h, hl⟩
  refine ends_of (core_trainFail p ha) ?_
  rw [e, linkDown_stopped 1 none (by omega)]
  exact ⟨by simp [linkStopped], by simp [linkStopped], by simp, by simp [flag],
    tapsBut_finish s fun q hq => by simp [tap_setTap_ne _ _ hq],
    (((only_setTap s p _).trans (only_tcnt _ p 10 1)).trans (only_tevt _ p 5)).finished⟩

/-- 64 µs in UP without a valid FC block (R128, R148). -/
theorem timeout_seeks (ha : awake s = true) (o : Option Nat) (h : (tap s p).state = 4)
    (hl : max (tap s p).upAt (tap s p).lastFc + 51200 ≤ s.cycle) : Ends (.timeout p o) s fun t =>
      (tap t p).state = 1 ∧ (tap t p).reserve = (tap s p).reserve ∧ fget t (Reg.tapLastErr p) 31 24 = 8 ∧
      rd t (Reg.tapCnt p 9) = (rd s (Reg.tapCnt p 9) + 1) % 2 ^ 48 ∧ tapsBut p s t := by
  have e : tapTimeout s p o = lastErr (linkDown s p 1 o) p 8 := if_pos ⟨h, hl⟩
  have hx := tap_linkDown s p 1 o
  refine ends_of (core_timeout p o ha) ?_
  rw [e]
  refine ⟨by simp [hx], by simp [hx], by simp [fget], ?_, tapsBut_finish s fun q hq => by simp [tap_linkDown_ne _ _ _ _ hq]⟩
  simp [linkDown_up 1 o h, leaveUp_counts, rd_endOpenDsc_departures]

end FallBack

/-- Settles O2: a link that loses lock, fails to train or falls silent goes down as `linkDown` does from its state, and what
recorded it is written after. -/
theorem tapLinkFallsBackToSeek : Obligations.TapLinkFallsBackToSeek := by
  unfold Obligations.TapLinkFallsBackToSeek
  intro s p ha
  exact ⟨fun o h => blockLockLoss_training p ha o h, fun h => blockLockLoss_up p ha h, fun ⟨h, hl⟩ => trainFail_seeks p ha h hl,
    fun o ⟨h, hl⟩ => timeout_seeks p ha o h hl⟩

end Sys2Proof.Machine
end

section
namespace Sys2Proof.Machine

/-! ### Tap ports: the climb from SEEK to UP -/

section Received
variable {s : State} (p : Fin 32)

/-- Block lock takes a port from SEEK to LOCK (R119, R125). -/
theorem blockLockGain_locks (ha : awake s = true) (h : (tap s p).state = 1) : Ends (.blockLockGain p) s fun t =>
      tap t p = { tap s p with
        state := 2
        lockAt := s.cycle
        trains := 0
        acks := 0
        acked := false
        trainTx := 0
        trainTurn := true
        hdrWin := 0
        hdrBad := 0 } ∧ tapsBut p s t ∧ Only [.taps] [] s t := by
  refine ends_of (core_blockLockGain p ha) ?_
  rw [lockGain, if_pos h]
  exact ⟨by simp, tapsBut_finish s fun q hq => tap_setTap_ne s _ hq, (only_setTap s p _).finished⟩

/-- The port after a valid TRAIN block in LOCK or TRAIN (R125–R127). -/
def trained (vspace : Nat) (ack : Bool) (x : TapPort) : TapPort :=
  { x with
    trains := x.trains + 1
    acks := if ack then x.acks + 1 else 0
    acked := x.acked || decide (8 ≤ if ack then x.acks + 1 else 0)
    vspaceRx := vspace
    state := if x.trains + 1 ≥ 3 then 3 else x.state }

variable {p} in
theorem trainReceive_training {vspace : Nat} {ack : Bool} (o : Option Nat) (h : (tap s p).state = 2 ∨ (tap s p).state = 3) :
    trainReceive s p 1 1 vspace ack o = setTap s p (trained vspace ack (tap s p)) := if_pos h

variable {p} in
theorem trainReceive_up {vspace : Nat} {ack : Bool} (o : Option Nat) (h : (tap s p).state = 4) :
    trainReceive s p 1 1 vspace ack o = linkDown s p 1 o := (if_neg (by omega)).trans (if_pos h)

/-- A valid TRAIN block in LOCK or TRAIN (R125–R127). -/
theorem trainReceive_counts (ha : awake s = true) (vspace : BitVec 16) (ack : Bool) (o : Option Nat)
    (h : (tap s p).state = 2 ∨ (tap s p).state = 3) : Ends (.trainReceive p 1 1 vspace ack o) s fun t =>
      (tap t p).trains = (tap s p).trains + 1 ∧
      (tap t p).acks = (if ack then (tap s p).acks + 1 else 0) ∧
      (tap t p).acked = ((tap s p).acked || decide (8 ≤ if ack then (tap s p).acks + 1 else 0)) ∧
      (tap t p).vspaceRx = vspace.toNat ∧
      (tap t p).state = (if (tap s p).trains + 1 ≥ 3 then 3 else (tap s p).state) ∧
      (tap t p).reserve = (tap s p).reserve ∧ tapsBut p s t ∧ Only [.taps] [] s t := by
  have e : trainReceive s p (1 : BitVec 8).toNat (1 : BitVec 1).toNat vspace.toNat ack o = _ := trainReceive_training o h
  refine ends_of (core_trainReceive p 1 1 vspace ack o ha) ?_
  rw [e, tap_finish, tap_setTap]
  exact ⟨rfl, rfl, rfl, rfl, rfl, rfl, tapsBut_finish s fun q hq => tap_setTap_ne s _ hq, (only_setTap s p _).finished⟩

/-- A TRAIN block received in UP: the partner trains anew (R125, R140). -/
theorem trainReceive_restarts (ha : awake s = true) (vspace : BitVec 16) (ack : Bool) (o : Option Nat)
    (h : (tap s p).state = 4) : Ends (.trainReceive p 1 1 vspace ack o) s fun t =>
      (tap t p).state = 1 ∧ (tap t p).reserve = (tap s p).reserve ∧ tapsBut p s t := by
  obtain ⟨seeks, reserve⟩ := tap_linkDown s p 1 o
  have e : trainReceive s p (1 : BitVec 8).toNat (1 : BitVec 1).toNat vspace.toNat ack o = _ := trainReceive_up o h
  refine ends_of (core_trainReceive p 1 1 vspace ack o ha) ?_
  rw [e, tap_finish]
  exact ⟨seeks, reserve, tapsBut_finish s fun q hq => tap_linkDown_ne s p 1 o hq⟩

end Received

/-! ### Tap ports: the blocks of LOCK and TRAIN (R125, R126) -/

section TrainBlocks
variable (s : State) (p : Nat)

/-- The fields of a TRAIN block: VER 1, ROLE 0, ACK in TRAIN alone, the port's number; the group and the depth lie below. -/
theorem trainPayload_fields (hp : p < 32) :
    bitsOf (trainPayload s p) 55 48 = 1 ∧ bitOf (trainPayload s p) 47 = false ∧
      bitOf (trainPayload s p) 46 = decide ((tap s p).state = 3) ∧ bitsOf (trainPayload s p) 45 40 = p := by
  have depth : fget s (Reg.tapCtrl p) 23 16 < 2 ^ 8 := bitsOf_lt _ _ _
  have group : (if flag s (Reg.tapCtrl p) 8 then 1 + p / 4 else 0) ≤ 8 := by split <;> omega
  have bit {v i : Nat} : bitOf v i = decide (v / 2 ^ i % 2 = 1) := by rw [bitOf, Nat.shiftRight_eq_div_pow]
  simp only [bitsOf_eq, bit, trainPayload]
  generalize fget s (Reg.tapCtrl p) 23 16 = d at depth
  generalize (if flag s (Reg.tapCtrl p) 8 then 1 + p / 4 else 0) = g at group
  generalize decide ((tap s p).state = 3) = ack
  have single : b2n ack ≤ 1 := by cases ack <;> decide
  have ackBit : (2 ^ 48 + b2n ack * 2 ^ 46 + p * 2 ^ 40 + g * 2 ^ 32 + d * 2 ^ 8) / 2 ^ 46 % 2 = b2n ack := by omega
  refine ⟨by omega, decide_eq_false (by omega), ?_, by omega⟩
  rw [ackBit]
  cases ack <;> rfl

variable {s p}

theorem fillBlock_train (h : (tap s p).state = 2 ∨ (tap s p).state = 3) (hd : (tap s p).txData = [])
    (ht : (tap s p).txAt < 50 * s.cycle) (hn : (tap s p).trainTurn = true) :
    fillBlock s p = sendCtl (setTap (tookBack s p) p { tap (tookBack s p) p with
      trainTurn := false
      trainTx := if (tap s p).acked then (tap s p).trainTx + 1 else 0 }) p 0x2D (trainPayload s p) := by
  rw [fillBlock, if_neg (by omega), hd]
  exact if_pos ⟨h, hn⟩

theorem fillBlock_idle (h : (tap s p).state = 2 ∨ (tap s p).state = 3) (hd : (tap s p).txData = [])
    (ht : (tap s p).txAt < 50 * s.cycle) (hn : (tap s p).trainTurn = false) (hi : (tap s p).idle = false) :
    fillBlock s p = setTap { tookBack s p with out := s.out ++ [.tapCtl p 0x1E 0] } p { tap (tookBack s p) p with
      idle := true
      trainTurn := true } := by
  rw [fillBlock, if_neg (by omega), hd]
  simp only [hn, hi, Bool.false_eq_true, and_false, if_false]
  rfl

/-- A TRAIN block goes out in its turn and, after the eighth ACK, is counted (R125–R127). -/
theorem fillBlock_sendsTrain (hp : p < 32) (h : (tap s p).state = 2 ∨ (tap s p).state = 3) (hd : (tap s p).txData = [])
    (ht : (tap s p).txAt < 50 * s.cycle) (hn : (tap s p).trainTurn = true) :
        (tap (fillBlock s p) p).trainTurn = false ∧ (tap (fillBlock s p) p).txAt = (tap s p).txAt + 256 ∧
        (tap (fillBlock s p) p).trainTx = (if (tap s p).acked then (tap s p).trainTx + 1 else 0) ∧
        ∃ w, (fillBlock s p).out = s.out ++ [.tapCtl p 0x2D (withChk 0x2D w)] ∧ bitsOf w 55 48 = 1 ∧ bitOf w 47 = false ∧
          bitOf w 46 = decide ((tap s p).state = 3) ∧ bitsOf w 45 40 = p := by
  rw [fillBlock_train h hd ht hn]
  exact ⟨by simp, by simp [tookBack], by simp, trainPayload s p, by simp [sendCtl, tookBack], trainPayload_fields s p hp⟩

/-- Between TRAIN blocks an IDLE block goes out (R125). -/
theorem fillBlock_sendsIdle (h : (tap s p).state = 2 ∨ (tap s p).state = 3) (hd : (tap s p).txData = [])
    (ht : (tap s p).txAt < 50 * s.cycle) (hn : (tap s p).trainTurn = false) (hi : (tap s p).idle = false) :
    (tap (fillBlock s p) p).trainTurn = true ∧ (fillBlock s p).out = s.out ++ [.tapCtl p 0x1E 0] := by
  rw [fillBlock_idle h hd ht hn hi]
  exact ⟨by simp, by simp⟩

end TrainBlocks

/-! ### Tap ports: the ACK handshake completes (R127) -/

section GoesUp
variable {s : State} (p : Fin 32)

/-- The port as it enters UP (R127, R139, R140). -/
def enteredUp (cycle : Nat) (x : TapPort) : TapPort :=
  { x with
    state := 4
    upAt := cycle
    lastFc := cycle
    fcSentAt := cycle
    peerVer := 1
    vspace := x.vspaceRx
    sent := 0
    vcons := 0
    urgIn := 0
    toGrant := []
    txq := []
    txData := []
    resync := none
    replay := if x.wasUp then some x.reserve else none }

@[simp] theorem tap_markFrom (s : State) (p q : Nat) : tap (markFrom s p) q = tap s q := rfl

theorem only_markFrom (s : State) (p : Nat) : Only [.mil] [] s (markFrom s p) := only_mil s _

variable {p} in
theorem tapUp_enters (h : (tap s p).state = 3) (hk : (tap s p).acked = true) (hn : 16 ≤ (tap s p).trainTx)
    (hv : (tap s p).vspaceRx ≠ 0) :
    tapUp s p = tevt (markFrom (dlyReset (setTap s p (enteredUp s.cycle (tap s p))) p) p) p 0 := if_pos ⟨h, hk, hn, hv⟩

/-- TRAIN to UP, with the replay of a port that has been UP before (R127, R139, R140). -/
theorem tapUp_climbs (ha : awake s = true) (h : (tap s p).state = 3) (hk : (tap s p).acked = true)
    (hn : 16 ≤ (tap s p).trainTx) (hv : (tap s p).vspaceRx ≠ 0) : Ends (.tapUp p) s fun t =>
        (tap t p).state = 4 ∧ (tap t p).vspace = (tap s p).vspaceRx ∧ (tap t p).peerVer = 1 ∧ voutOf (tap t p) = 0 ∧
        (tap t p).reserve = (tap s p).reserve ∧
        (tap t p).replay = (if (tap s p).wasUp then some (tap s p).reserve else none) ∧
        flag t (Reg.tapEvt p) 0 = true ∧ tapsBut p s t ∧ Only [.taps, .mil] [Reg.tapEvt p] s t := by
  refine ends_of (core_tapUp p ha) ?_
  rw [tapUp_enters h hk hn hv]
  simp only [tap_finish, tap_tevt, tap_markFrom, tap_dlyReset, tap_setTap]
  refine ⟨rfl, rfl, rfl, by simp [voutOf, enteredUp], rfl, rfl, by simp [flag],
    tapsBut_finish s fun q hq => by simp [tap_setTap_ne _ _ hq], Only.finished ?_⟩
  exact ((((only_setTap s p _).trans (only_dlyReset _ p)).trans (only_markFrom _ p)).trans (only_tevt _ p 0)).mono (by simp)
    (by simp)

end GoesUp

/-- Settles O1: block lock, TRAIN blocks in and out, and the completed handshake, each by what it makes of its port. -/
theorem tapLinkClimbsFromSeekToUp : Obligations.TapLinkClimbsFromSeekToUp := by
  unfold Obligations.TapLinkClimbsFromSeekToUp
  intro s p ha
  exact ⟨fun h => blockLockGain_locks p ha h, fun vspace ack o h => trainReceive_counts p ha vspace ack o h,
    fun vspace ack o h => trainReceive_restarts p ha vspace ack o h,
    fun h hd ht => ⟨fun hn => fillBlock_sendsTrain p.isLt h hd ht hn, fun hn hi => fillBlock_sendsIdle h hd ht hn hi⟩,
    fun ⟨h, hk, hn, hv⟩ => tapUp_climbs p ha h hk hn hv⟩

end Sys2Proof.Machine
end

section
namespace Sys2Proof.Machine

/-! ### Tap ports: ERR blocks in and out (R149) -/

/-- A field that lies within the bits just put reads that part of what was put. -/
theorem bitsOf_putBits_inside (v x : Nat) {hi lo hi' lo' : Nat} (hl : lo ≤ lo') (hm : lo' ≤ hi') (hh : hi' ≤ hi) :
    bitsOf (putBits v hi lo x) hi' lo' = bitsOf x (hi' - lo) (lo' - lo) := by
  apply Nat.eq_of_testBit_eq
  intro i
  rw [bitsOf_eq, bitsOf_eq, Nat.testBit_mod_two_pow, Nat.testBit_mod_two_pow, Nat.testBit_div_two_pow,
    Nat.testBit_div_two_pow, testBit_putBits _ _ _ _ _ (by omega), show hi' - lo + 1 - (lo' - lo) = hi' + 1 - lo' by omega]
  by_cases h : i < hi' + 1 - lo'
  · rw [if_pos (by omega), show i + lo' - lo = i + (lo' - lo) by omega]
  · simp [h]

section ErrBlocks
variable {s : State} (p : Fin 32)

/-- An ERR block from the partner is recorded, counted and latched (R149, R155, R156). -/
theorem errReceive_records (ha : awake s = true) (code : BitVec 8) (detail : BitVec 16) (h : 2 ≤ (tap s p).state) :
    Ends (.errReceive p code detail) s fun t =>
      fget t (Reg.tapLastErr p) 23 16 = code.toNat ∧ fget t (Reg.tapLastErr p) 15 0 = detail.toNat ∧
      rd t (Reg.tapCnt p 12) = (rd s (Reg.tapCnt p 12) + 1) % 2 ^ 48 ∧ flag t (Reg.tapEvt p) 7 = true ∧
      Only [] [Reg.tapLastErr p, Reg.tapCnt p 12, Reg.tapEvt p] s t := by
  have hc := code.isLt
  have hd := detail.isLt
  have e : errReceive s p code.toNat detail.toNat = tevt (tcnt (fput s (Reg.tapLastErr p) 23 0
      (code.toNat * 65536 + detail.toNat)) p 12 1) p 7 := if_pos h
  have put {hi lo : Nat} (hm : lo ≤ hi) (hh : hi ≤ 23) :
      fget (fput s (Reg.tapLastErr p) 23 0 (code.toNat * 65536 + detail.toNat)) (Reg.tapLastErr p) hi lo =
        bitsOf (code.toNat * 65536 + detail.toNat) hi lo := by
    rw [fget, rd_fput _ _ _ _ _ (by decide) (by decide), bitsOf_putBits_inside _ _ (Nat.zero_le lo) hm hh]
    rfl
  refine ends_of (core_errReceive p code detail ha) ?_
  rw [e]
  have reads {u : State} : rd (finish s (tevt (tcnt u p 12 1) p 7)) (Reg.tapLastErr p) = rd u (Reg.tapLastErr p) := by simp
  refine ⟨?_, ?_, by simp [rd_fput_ne], by simp [flag],
    (((only_fput s _ 23 0 _).trans (only_tcnt _ p 12 1)).trans (only_tevt _ p 7)).finished⟩
  · rw [fget_congr reads, put (by decide) (by decide), bitsOf_eq]
    omega
  · rw [fget_congr reads, put (by decide) (by decide), bitsOf_eq]
    omega

variable {p : Nat}

/-- The ERR block with the oldest report goes out (R146, R149). -/
theorem errSend_oldest {code detail : Nat} {rest : List (Nat × Nat)} (he : (tap s p).errs = (code, detail) :: rest)
    (ht : turnFor s p = true) (hf : fcDue s p = false) (hd : (tap s p).state = 4 → dreqTime s p = false) :
    errSend s p = sendCtl (setTap (tookBlock s p 1) p { tap (tookBlock s p 1) p with errs := rest }) p 0x78
      (code * 2 ^ 48 + detail * 2 ^ 32) := by
  have free : (decide ((tap s p).state = 4) && dreqTime s p) = false := by
    by_cases h : (tap s p).state = 4
    · rw [hd h, Bool.and_false]
    · rw [decide_eq_false h, Bool.false_and]
  simp only [errSend, ht, hf, free, he]
  rfl

end ErrBlocks

/-- ERR_SEND reports the oldest error and drops it from the queue (R146, R149). -/
theorem errSend_sends {s : State} (p : Fin 32) (ha : awake s = true) {code detail : Nat} {rest : List (Nat × Nat)}
    (he : (tap s p).errs = (code, detail) :: rest) (ht : turnFor s p = true) (hf : fcDue s p = false)
    (hd : (tap s p).state = 4 → dreqTime s p = false) : Ends (.errSend p) s fun t =>
      (tap t p).errs = rest ∧ .tapCtl p 0x78 (withChk 0x78 (code * 2 ^ 48 + detail * 2 ^ 32)) ∈ t.out ∧
      tapsBut p s t ∧ Only [.taps] [] s t := by
  refine ends_of (core_errSend p ha) ?_
  rw [errSend_oldest he ht hf hd]
  refine ⟨by simp, mem_out_finish s (by simp [sendCtl]), tapsBut_finish s fun q hq => ?_, Only.finished ?_⟩
  · rw [tap_sendCtl, tap_setTap_ne _ _ hq, tap_tookBlock_ne s p hq]
  · exact (((only_tookBlock s p 1).trans (only_setTap _ p _)).trans (only_sendCtl _ p _ _)).mono (by simp) (by simp)

/-! ### Tap ports: receive errors by kind (R148, R155) -/

section Recorded
variable (s : State) (p k : Nat)

/-- An error other than CHK recorded and counted; TRUNC is reported, the others latch their event. -/
def errorCounted : State :=
  if k = 5 then queueErr (tcnt (lastErr s p k) p 5 1) p 5 (rd (tcnt (lastErr s p k) p 5 1) (Reg.tapCnt p 5))
  else tevt (tcnt (lastErr s p k) p 5 1) p 2

/-- The state in which such an error is recorded: the descriptor it ends is ended. -/
def errorEnds (o : Option Nat) : State := if k = 4 then s else endOpenDsc s p o

/-- The state in which such an error has been recorded and counted. -/
def errorNoted (o : Option Nat) : State := errorCounted (errorEnds s p k o) p k

/-- Bad headers counted so far in the present window of 64 blocks (R119). -/
def headersBad (x : TapPort) (cycle : Nat) : Nat := if 25 * (cycle - x.lockAt) / 8192 = x.hdrWin then x.hdrBad else 0

variable {s p k}

theorem blockError_chk {octet : Nat} (o : Option Nat) (h : 2 ≤ (tap s p).state) :
    blockError s p 3 octet o = queueErr (tevt (tcnt (lastErr s p 3) p 6 1) p 2) p 3 octet := if_neg (by omega)

/-- An error other than CHK by its effects: the descriptor's end, the record, and a bad header's count (R119, R148). -/
theorem blockError_counted {octet : Nat} (o : Option Nat) (h : 2 ≤ (tap s p).state) (h3 : k ≠ 3)
    (ht : k = 2 → inboundType octet = false) : blockError s p k octet o =
      if k = 1 then badHeader (errorNoted s p k o) p none else errorNoted s p k o := by
  have due : ¬ ((tap s p).state < 2 ∨ (k = 2 ∧ inboundType octet = true)) := by
    rintro (hs | ⟨hk, hi⟩)
    · omega
    · rw [ht hk] at hi
      cases hi
  unfold blockError
  simp only [if_neg due, h3, false_or, if_false]
  rfl

/-- The port after an invalid sync header (R119). -/
def headerTaken (x : TapPort) (cycle : Nat) : TapPort :=
  { x with
    hdrWin := 25 * (cycle - x.lockAt) / 8192
    hdrBad := headersBad x cycle + 1 }

/-- Up to the fifteenth of its window a bad header is only counted. -/
theorem badHeader_counts (o : Option Nat) (h : headersBad (tap s p) s.cycle < 15) :
    badHeader s p o = setTap s p (headerTaken (tap s p) s.cycle) := if_pos (Nat.succ_lt_succ h)

theorem badHeader_loses (o : Option Nat) (h : 15 ≤ headersBad (tap s p) s.cycle) :
    badHeader s p o = linkDown (lastErr (setTap s p (headerTaken (tap s p) s.cycle)) p 9) p 1 o :=
  if_neg (Nat.not_lt.2 (Nat.succ_le_succ h))

variable (s p k)

@[simp] theorem tcnt_cycle (i n : Nat) : (tcnt s p i n).cycle = s.cycle := wr_cycle _ _ _
@[simp] theorem tevt_cycle (b : Nat) : (tevt s p b).cycle = s.cycle := setEvt_cycle _ _ _
@[simp] theorem lastErr_cycle (code : Nat) : (lastErr s p code).cycle = s.cycle := fput_cycle _ _ _ _ _
@[simp] theorem queueErr_cycle (code detail : Nat) : (queueErr s p code detail).cycle = s.cycle := setTap_cycle s p _

@[simp] theorem rd_queueErr (code detail r : Nat) : rd (queueErr s p code detail) r = rd s r := rd_setTap s p _ r

theorem tap_queueErr (code detail : Nat) : tap (queueErr s p code detail) p =
    { tap s p with errs := (tap s p).errs ++ [(code, detail % 65536)] } := tap_setTap s p _

theorem tap_queueErr_ne {q : Nat} (h : q ≠ p) (code detail : Nat) : tap (queueErr s p code detail) q = tap s q :=
  tap_setTap_ne s _ h

/-- Recorded, counted, and then reported or latched. -/
theorem errorCounted_cases : (∃ d, errorCounted s p k = queueErr (tcnt (lastErr s p k) p 5 1) p 5 d) ∨
    errorCounted s p k = tevt (tcnt (lastErr s p k) p 5 1) p 2 := by
  unfold errorCounted
  split
  · exact .inl ⟨_, rfl⟩
  · exact .inr rfl

theorem only_errorCounted : Only [.taps] [Reg.tapLastErr p, Reg.tapCnt p 5, Reg.tapEvt p] s (errorCounted s p k) := by
  have h := (only_lastErr s p k).trans (only_tcnt _ p 5 1)
  obtain ⟨d, e⟩ | e := errorCounted_cases s p k <;> rw [e]
  · exact (h.trans (only_queueErr _ p 5 d)).mono (by simp) (by simp)
  · exact (h.trans (only_tevt _ p 2)).mono (by simp) (by simp)

theorem errorCounted_cycle : (errorCounted s p k).cycle = s.cycle := by
  obtain ⟨d, e⟩ | e := errorCounted_cases s p k <;> rw [e] <;> simp

theorem tap_errorCounted : ∃ e, tap (errorCounted s p k) p = { tap s p with errs := e } := by
  obtain ⟨d, e⟩ | e := errorCounted_cases s p k <;> rw [e]
  · exact ⟨_, by rw [tap_queueErr]; simp; rfl⟩
  · exact ⟨_, by simp; rfl⟩

theorem tap_errorCounted_ne {q : Nat} (h : q ≠ p) : tap (errorCounted s p k) q = tap s q := by
  obtain ⟨d, e⟩ | e := errorCounted_cases s p k <;> rw [e]
  · simp [tap_queueErr_ne _ _ h]
  · simp

theorem errorCounted_reads :
    fget (errorCounted s p k) (Reg.tapLastErr p) 31 24 = k % 256 ∧
      rd (errorCounted s p k) (Reg.tapCnt p 5) = (rd s (Reg.tapCnt p 5) + 1) % 2 ^ 48 ∧
      rd (errorCounted s p k) (Reg.tapCnt p 2) = rd s (Reg.tapCnt p 2) ∧
      flag (errorCounted s p k) (Reg.tapEvt p) 4 = flag s (Reg.tapEvt p) 4 := by
  obtain ⟨d, e⟩ | e := errorCounted_cases s p k <;> rw [e]
  · simp [fget, flag]
  · simp [fget, flag, bitOf_putBits]

end Recorded

/-- What an overrun writes: its code, its count, its event, and the report (R148, R149). -/
theorem only_overrun_regs (s : State) (p : Nat) :
    Only [.taps] [Reg.tapLastErr p, Reg.tapCnt p 2, Reg.tapEvt p] s (overrun s p) :=
  (((only_lastErr s p 7).trans (only_tcnt _ p 2 1)).trans (only_tevt _ p 4)).trans (only_queueErr _ p 7 _)

section Opened
variable (s : State) (p k : Nat) (o : Option Nat)

@[simp] theorem endOpenDsc_cycle : (endOpenDsc s p o).cycle = s.cycle := by
  unfold endOpenDsc
  simp only
  split
  · rfl
  · split
    · simp [overrun]
    · simp

theorem errorEnds_cycle : (errorEnds s p k o).cycle = s.cycle := by
  unfold errorEnds
  split
  · rfl
  · exact endOpenDsc_cycle s p o

/-- Only what is captured and what is reported can differ on the port. -/
theorem tap_errorEnds : ∃ c e, tap (errorEnds s p k o) p = { tap s p with
    captured := c
    errs := e } := by
  unfold errorEnds
  split
  · exact ⟨_, _, rfl⟩
  · exact tap_endOpenDsc s p o

theorem tap_errorEnds_ne {q : Nat} (h : q ≠ p) : tap (errorEnds s p k o) q = tap s q := by
  unfold errorEnds
  split
  · rfl
  · exact tap_endOpenDsc_ne s p o h

theorem only_errorEnds : Only [.taps] (linkRegs p) s (errorEnds s p k o) := by
  unfold errorEnds
  split
  · exact Only.refl _ _ s
  · exact only_endOpenDsc s p o

theorem errorNoted_cycle : (errorNoted s p k o).cycle = s.cycle := (errorCounted_cycle _ p k).trans (errorEnds_cycle s p k o)

theorem tap_errorNoted : ∃ c e, tap (errorNoted s p k o) p = { tap s p with
    captured := c
    errs := e } := by
  obtain ⟨c, e, h⟩ := tap_errorEnds s p k o
  obtain ⟨e', h'⟩ := tap_errorCounted (errorEnds s p k o) p k
  exact ⟨c, e', by rw [errorNoted, h', h]⟩

theorem tap_errorNoted_ne {q : Nat} (h : q ≠ p) : tap (errorNoted s p k o) q = tap s q :=
  (tap_errorCounted_ne _ p k h).trans (tap_errorEnds_ne s p k o h)

theorem only_errorNoted :
    Only [.taps] [Reg.tapLastErr p, Reg.tapCnt p 5, Reg.tapEvt p] (errorEnds s p k o) (errorNoted s p k o) :=
  only_errorCounted _ p k

/-- It reads its code and its count; what it ended has left the rest (R148, R155). -/
theorem errorNoted_reads : fget (errorNoted s p k o) (Reg.tapLastErr p) 31 24 = k % 256 ∧
      rd (errorNoted s p k o) (Reg.tapCnt p 5) = (rd (errorEnds s p k o) (Reg.tapCnt p 5) + 1) % 2 ^ 48 ∧
      rd (errorNoted s p k o) (Reg.tapCnt p 2) = rd (errorEnds s p k o) (Reg.tapCnt p 2) ∧
      flag (errorNoted s p k o) (Reg.tapEvt p) 4 = flag (errorEnds s p k o) (Reg.tapEvt p) 4 :=
  errorCounted_reads _ p k

/-- An error's record does not count as a bad header. -/
theorem headersBad_errorNoted :
    headersBad (tap (errorNoted s p k o) p) (errorNoted s p k o).cycle = headersBad (tap s p) s.cycle := by
  obtain ⟨c, e, h⟩ := tap_errorNoted s p k o
  rw [h, errorNoted_cycle]
  rfl

variable {s p k o}

/-- With no descriptor open, for a stray block, and with a tag for the open descriptor, nothing is recorded of it yet. -/
theorem errorEnds_quiet (h : o = none ∨ k = 4 ∨ (tap s p).captured.length < (tap s p).reserve.length) :
    errorEnds s p k o = s ∨ ∃ x, errorEnds s p k o = setTap s p x := by
  unfold errorEnds
  split
  · exact .inl rfl
  · next hk =>
    cases o with
    | none => exact .inl rfl
    | some ago =>
      have free := (h.resolve_left (Option.some_ne_none ago)).resolve_left hk
      have tagged : (tap s p).reserve.drop (tap s p).captured.length ≠ [] := by simpa using free
      exact .inr ⟨_, if_neg tagged⟩

/-- A descriptor that has no tag to take is an OVERRUN (R150). -/
theorem errorEnds_overruns (ho : o ≠ none) (hk : k ≠ 4) (h : (tap s p).reserve.length ≤ (tap s p).captured.length) :
    errorEnds s p k o = overrun s p := by
  obtain ⟨ago, rfl⟩ := Option.ne_none_iff_exists'.1 ho
  exact (if_neg hk).trans (if_pos (List.drop_eq_nil_of_le h))

end Opened

/-- What a command's end leaves is within the frame of its last part too. -/
theorem Only.ended {us : List UnitName} {rs : List Nat} {s t u : State} (h : Only us rs u t) : Only us rs u (finish s t) :=
  h.more (only_finish s t) (by simp) (by simp)

section LostLock
variable (s : State) (p : Nat)

/-- The state in which the loss of block lock is recorded, before the link goes down. -/
def lockLost : State := lastErr (setTap s p (headerTaken (tap s p) s.cycle)) p 9

theorem only_lockLost : Only [.taps] [Reg.tapLastErr p] s (lockLost s p) := (only_setTap s p _).trans (only_lastErr _ p 9)

theorem tap_lockLost : tap (lockLost s p) p = headerTaken (tap s p) s.cycle := by simp [lockLost]

theorem tap_lockLost_ne {q : Nat} (h : q ≠ p) : tap (lockLost s p) q = tap s q := by simp [lockLost, tap_setTap_ne _ _ h]

variable {s p}

/-- The sixteenth bad header of a window takes the link down and leaves code LOCK (R119, R125, R148). -/
theorem badHeader_seeks (hp : p < 32) (h : 15 ≤ headersBad (tap s p) s.cycle) :
    (tap (badHeader s p none) p).state = 1 ∧ (tap (badHeader s p none) p).reserve = (tap s p).reserve ∧
      fget (badHeader s p none) (Reg.tapLastErr p) 31 24 = 9 ∧ tapsBut p s (badHeader s p none) ∧
      keepsUnits [.taps, .mil, .rgl] s (badHeader s p none) := by
  obtain ⟨seeks, reserve⟩ := tap_linkDown (lockLost s p) p 1 none
  have down := only_linkDown_none (lockLost s p) p 1
  rw [badHeader_loses none h, ← lockLost]
  refine ⟨seeks, by rw [reserve, tap_lockLost]; rfl, ?_,
    fun q hq => (tap_linkDown_ne _ p 1 none hq).trans (tap_lockLost_ne s p hq),
    (((only_lockLost s p).trans down).mono (by simp) (List.Subset.refl _)).1⟩
  rw [fget_congr (down.rd_eq (belowCounts_tapLastErr hp) (by simp)), lockLost, fget_lastErr]

end LostLock

section BlockError
variable {s : State} (p : Fin 32)

/-- A CHK error counts by itself and is reported with its block's type octet (R148, R149, R155). -/
theorem blockError_reportsChk (ha : awake s = true) (octet : BitVec 8) (o : Option Nat) (h : 2 ≤ (tap s p).state) :
    Ends (.blockError p 3 octet o) s fun t =>
      fget t (Reg.tapLastErr p) 31 24 = 3 ∧ rd t (Reg.tapCnt p 6) = (rd s (Reg.tapCnt p 6) + 1) % 2 ^ 48 ∧
      (tap t p).errs = (tap s p).errs ++ [(3, octet.toNat)] ∧ (tap t p).state = (tap s p).state ∧
      tapsBut p s t ∧ Only [.taps] [Reg.tapLastErr p, Reg.tapCnt p 6, Reg.tapEvt p] s t := by
  have small : octet.toNat % 65536 = octet.toNat := Nat.mod_eq_of_lt (by have := octet.isLt; omega)
  have e : blockError s p (3 : Fin 6).val octet.toNat o = _ := blockError_chk o h
  refine ends_of (core_blockError p 3 octet o ha) ?_
  rw [e]
  exact ⟨by simp [fget], by simp, by simp [tap_queueErr, small], by simp [tap_queueErr],
    tapsBut_finish s fun q hq => by simp [tap_queueErr_ne _ _ hq],
    ((((only_lastErr s p 3).trans (only_tcnt _ p 6 1)).trans (only_tevt _ p 2)).trans (only_queueErr _ p 3 _)).finished⟩

variable {kind : Fin 6} {octet : BitVec 8} {o : Option Nat}

/-- An error other than CHK that leaves block lock as it is: recorded after the descriptor it ended, `errorEnds`. -/
theorem blockError_records (ha : awake s = true) (h : 2 ≤ (tap s p).state) (h3 : kind.val ≠ 3)
    (ht : kind.val = 2 → inboundType octet.toNat = false) (hb : kind.val ≠ 1 ∨ headersBad (tap s p) s.cycle < 15) :
    Ends (.blockError p kind octet o) s fun t =>
      fget t (Reg.tapLastErr p) 31 24 = kind.val ∧
      rd t (Reg.tapCnt p 5) = (rd (errorEnds s p kind o) (Reg.tapCnt p 5) + 1) % 2 ^ 48 ∧
      rd t (Reg.tapCnt p 2) = rd (errorEnds s p kind o) (Reg.tapCnt p 2) ∧
      flag t (Reg.tapEvt p) 4 = flag (errorEnds s p kind o) (Reg.tapEvt p) 4 ∧
      (tap t p).state = (tap s p).state ∧ (tap t p).reserve = (tap s p).reserve ∧
      tapsBut p s t ∧ Only [.taps] [Reg.tapLastErr p, Reg.tapCnt p 5, Reg.tapEvt p] (errorEnds s p kind o) t := by
  obtain ⟨hlast, hcount, hover, hevt⟩ := errorNoted_reads s p kind o
  obtain ⟨c, e, noted⟩ := tap_errorNoted s p kind o
  have frame := only_errorNoted s p kind o
  rw [Nat.mod_eq_of_lt (show kind.val < 256 by omega)] at hlast
  refine ends_of (core_blockError p kind octet o ha) ?_
  rw [blockError_counted o h h3 ht]
  split
  · next h1 =>
    rw [badHeader_counts none (by rw [headersBad_errorNoted]; omega)]
    exact ⟨by simpa [fget] using hlast, by simp [hcount], by simp [hover], by simpa [flag] using hevt,
      by simp [headerTaken, noted], by simp [headerTaken, noted],
      tapsBut_finish s fun q hq => (tap_setTap_ne _ _ hq).trans (tap_errorNoted_ne s p kind o hq),
      (frame.more (only_setTap _ p _) (by simp) (by simp)).ended⟩
  · exact ⟨by simpa [fget] using hlast, by simp [hcount], by simp [hover], by simpa [flag] using hevt,
      by simp [noted], by simp [noted], tapsBut_finish s fun q hq => tap_errorNoted_ne s p kind o hq, frame.ended⟩

variable {p}

/-- An error that ends no descriptor, or one that has its tag (R148, R155). -/
theorem blockError_counts (ha : awake s = true) (h : 2 ≤ (tap s p).state) (h3 : kind.val ≠ 3)
    (ht : kind.val = 2 → inboundType octet.toNat = false) (hb : kind.val ≠ 1 ∨ headersBad (tap s p) s.cycle < 15)
    (ho : o = none ∨ kind.val = 4 ∨ (tap s p).captured.length < (tap s p).reserve.length) :
    Ends (.blockError p kind octet o) s fun t =>
      fget t (Reg.tapLastErr p) 31 24 = kind.val ∧ rd t (Reg.tapCnt p 5) = (rd s (Reg.tapCnt p 5) + 1) % 2 ^ 48 ∧
      (tap t p).state = (tap s p).state ∧ (tap t p).reserve = (tap s p).reserve ∧
      tapsBut p s t ∧ Only [.taps] [Reg.tapLastErr p, Reg.tapCnt p 5, Reg.tapEvt p] s t := by
  obtain ⟨t, ran, hlast, hcount, -, -, hstate, hreserve, hothers, frame⟩ := blockError_records p ha h h3 ht hb
  obtain e | ⟨x, e⟩ := errorEnds_quiet ho <;> rw [e] at hcount frame
  · exact ⟨t, ran, hlast, hcount, hstate, hreserve, hothers, frame⟩
  · exact ⟨t, ran, hlast, by rwa [rd_setTap] at hcount, hstate, hreserve, hothers,
      ((only_setTap s p x).trans frame).mono (by simp) (by simp)⟩

/-- An error that ends a descriptor with no tag left for it: an OVERRUN too (R148, R150). -/
theorem blockError_overruns (ha : awake s = true) (h : 2 ≤ (tap s p).state) (h3 : kind.val ≠ 3)
    (ht : kind.val = 2 → inboundType octet.toNat = false) (hb : kind.val ≠ 1 ∨ headersBad (tap s p) s.cycle < 15)
    (ho : o ≠ none) (h4 : kind.val ≠ 4) (hl : (tap s p).reserve.length ≤ (tap s p).captured.length) :
    Ends (.blockError p kind octet o) s fun t =>
      fget t (Reg.tapLastErr p) 31 24 = kind.val ∧ rd t (Reg.tapCnt p 5) = (rd s (Reg.tapCnt p 5) + 1) % 2 ^ 48 ∧
      rd t (Reg.tapCnt p 2) = (rd s (Reg.tapCnt p 2) + 1) % 2 ^ 48 ∧ flag t (Reg.tapEvt p) 4 = true ∧
      (tap t p).state = (tap s p).state ∧ (tap t p).reserve = (tap s p).reserve ∧
      tapsBut p s t ∧ Only [.taps] [Reg.tapLastErr p, Reg.tapCnt p 5, Reg.tapCnt p 2, Reg.tapEvt p] s t := by
  obtain ⟨t, ran, hlast, hcount, hover, hevt, hstate, hreserve, hothers, frame⟩ := blockError_records p ha h h3 ht hb
  rw [errorEnds_overruns ho h4 hl] at hcount hover hevt frame
  refine ⟨t, ran, hlast, ?_, ?_, ?_, hstate, hreserve, hothers, ((only_overrun_regs s p).trans frame).mono (by simp) (by simp)⟩
  · simpa [overrun] using hcount
  · simpa [overrun] using hover
  · simpa [overrun, flag] using hevt

/-- The sixteenth bad header of a window loses block lock (R119, R125, R148). -/
theorem blockError_losesLock (ha : awake s = true) (h : 2 ≤ (tap s p).state) (h1 : kind.val = 1)
    (hb : 15 ≤ headersBad (tap s p) s.cycle) : Ends (.blockError p kind octet o) s fun t =>
      (tap t p).state = 1 ∧ fget t (Reg.tapLastErr p) 31 24 = 9 ∧ (tap t p).reserve = (tap s p).reserve ∧
      tapsBut p s t ∧ keepsUnits [.taps, .mil, .rgl] s t := by
  obtain ⟨c, e, noted⟩ := tap_errorNoted s p 1 o
  obtain ⟨seeks, reserve, code, others, units⟩ :=
    badHeader_seeks (s := errorNoted s p 1 o) p.isLt (by rwa [headersBad_errorNoted])
  have before : keepsUnits [.taps, .mil, .rgl] s (errorNoted s p 1 o) :=
    (((only_errorEnds s p 1 o).trans (only_errorNoted s p 1 o)).mono (by simp) (List.Subset.refl _)).1
  refine ends_of (core_blockError p kind octet o ha) ?_
  rw [h1, blockError_counted o h (by decide) (fun h2 => by cases h2), if_pos rfl]
  refine ⟨by rw [tap_finish, seeks], by rw [fget_congr (rd_finish_tapLastErr p), code], by rw [tap_finish, reserve, noted],
    tapsBut_finish s fun q hq => (others q hq).trans (tap_errorNoted_ne s p 1 o hq), fun x hx => ?_⟩
  exact x.same_trans (x.same_trans (before x hx) (units x hx)) ((only_finish s _).1 x (by simp))

end BlockError

/-- Settles O6: ERR blocks as `errReceive` and `errSend` take them, CHK by itself, and the other kinds by the descriptor they end
and, for a bad header, by the count in its window. -/
theorem tapErrorsAreRecordedAndReported : Obligations.TapErrorsAreRecordedAndReported := by
  unfold Obligations.TapErrorsAreRecordedAndReported
  intro s p ha
  exact ⟨fun code detail h => errReceive_records p ha code detail h, fun _ _ _ he ht hf hd => errSend_sends p ha he ht hf hd,
    fun octet o h => blockError_reportsChk p ha octet o h,
    fun _ _ _ ⟨h, _, h3⟩ ht => ⟨fun hb => ⟨fun ho => blockError_counts ha h h3 ht hb ho,
      fun ho h4 hl => blockError_overruns ha h h3 ht hb ho h4 hl⟩, fun h1 hb => blockError_losesLock ha h h1 hb⟩⟩

end Sys2Proof.Machine
end

section
namespace Sys2Proof.Machine

/-! ### A host command on buckets or counters: its answer on its way (R177, R179) -/

section PortStart
variable (s : State) (off : Nat) (data : List Nat)

theorem only_portStart : Only [.draws, .vrd] [off] s (portStart s off data) :=
  (only_fput s off 31 31 1).trans
    (only_units (us := [.draws, .vrd]) (fun u hu => by cases u <;> simp [portStart, UnitName.same, draw] at *) rfl rfl)

theorem portStart_vrd : (portStart s off data).vrd =
    { s.vrd with ports := KMap.put s.vrd.ports off (some (within16 s, data)) } := rfl

theorem portStart_regs : (portStart s off data).regs = (fput s off 31 31 1).regs := rfl

/-- The words stand ready for a cycle within 16 of the command. -/
theorem find_portStart : ∃ c, s.cycle < c ∧ c ≤ s.cycle + 16 ∧
    KMap.find (portStart s off data).vrd.ports off = some (c, data) := by
  have early := (Config.early s.draws).isLt
  have due : within16 s = s.cycle + 16 - (Config.early s.draws).val := rfl
  refine ⟨within16 s, by omega, by omega, ?_⟩
  rw [portStart_vrd, KMap.find, KMap.put, KMap.get_set_same]

theorem flag_portStart : flag (portStart s off data) off 31 = true := by
  rw [flag_congr (rd_congr (portStart_regs s off data) off), flag_fput_same s off (by decide)]
  rfl

theorem freshOf_portStart (j : Nat) : freshOf (portStart s off data) j = freshOf s j := by
  rw [freshOf, portStart_vrd, freshOf]

end PortStart

/-- A frame that starts after the accesses of the cycle goes on to the end of the command. -/
theorem Only.atEnd {us : List UnitName} {rs : List Nat} {s0 t : State} (h : Only us rs s0 t) (s : State) :
    Only us rs s0 (finish s t) := h.more (only_finish s t) (by simp) (by simp)

theorem flag_portCount (s : State) (m : Requester) {o : Nat} (h : belowCounts o) (b : Nat) :
    flag (portCount s m) o b = flag s o b := flag_congr (rd_portCount s m h) b

theorem bucket_congr {s t : State} (h : t.tol = s.tol) (j : Nat) : bucket t j = bucket s j := by rw [bucket, bucket, h]

theorem freshOf_congr {s t : State} (h : t.vrd = s.vrd) (j : Nat) : freshOf t j = freshOf s j := by rw [freshOf, freshOf, h]

/-- The READ part of a command, when it is asked for: the state it leaves, and its words. -/
def readPart (read : State → State × List Nat) (asked : Bool) (s : State) : State × List Nat :=
  if asked then read s else (s, [])

/-- The end of a command's cycle: the READ part done, and its words on their way. -/
def answering (read : State → State × List Nat) (off : Nat) (asked : Bool) (s : State) : State :=
  portStart (readPart read asked s).1 off (readPart read asked s).2

/-- What a READ of memory `mem` makes of the state: its words are read, in no time (R423). -/
def ReadsIn (mem : Nat) (read : State → State × List Nat) : Prop :=
  ∀ s, ReadOnly mem s (read s).1 ∧ (read s).1.cycle = s.cycle

theorem readsIn_tollRead : ReadsIn 9 tollRead := fun s => ⟨readOnly_readWords _ _, readWords_cycle s 9 _ _⟩

theorem readsIn_freshRead : ReadsIn 0xA freshRead := fun s => ⟨readOnly_readWords _ _, readWords_cycle s 0xA _ _⟩

section Answering
variable {mem off : Nat} {read : State → State × List Nat} (hread : ReadsIn mem read) (asked : Bool) (s : State)
include hread

theorem ReadsIn.part :
    ReadOnly mem s (readPart read asked s).1 ∧ (readPart read asked s).1.cycle = s.cycle := by
  cases asked
  · exact ⟨Only.refl _ _ s, rfl⟩
  · exact hread s

theorem only_answering : Only [.draws, .vrd, .intg] (off :: readRegs mem) s (answering read off asked s) :=
  ((hread.part asked s).1.trans (only_portStart _ off _)).mono (by simp) (by simp)

theorem freshOf_answering (j : Nat) : freshOf (answering read off asked s) j = freshOf s j :=
  (freshOf_portStart _ off _ j).trans (freshOf_congr ((hread.part asked s).1.1 .vrd (by simp)) j)

theorem find_answering : ∃ c, s.cycle < c ∧ c ≤ s.cycle + 16 ∧
    KMap.find (answering read off asked s).vrd.ports off = some (c, if asked then (read s).2 else []) := by
  obtain ⟨c, later, within, found⟩ := find_portStart (readPart read asked s).1 off (readPart read asked s).2
  rw [(hread.part asked s).2] at later within
  exact ⟨c, later, within, found.trans (by cases asked <;> rfl)⟩

end Answering

/-! ### A write of TOL_CMD or VRD_FRESH_CMD (R176, R177, R179) -/

section CommandWrites
variable {s : State} {m v : Nat}

theorem tolCmdWrite_busy (hb : flag s Reg.tolCmd 31 = true) : tolCmdWrite s m v = s := if_pos (.inl hb)

/-- A written value with READ or WRITE set is a command. -/
theorem mod_ne_zero_of_command (h : bitOf v 0 = true ∨ bitOf v 1 = true) : v % 4 ≠ 0 := by
  simp only [bitOf, Nat.shiftRight_eq_div_pow, decide_eq_true_eq] at h
  omega

theorem tolCmdWrite_acts (hb : flag s Reg.tolCmd 31 = false) (h : bitOf v 0 = true ∨ bitOf v 1 = true) :
    tolCmdWrite s m v = answering tollRead Reg.tolCmd (bitOf v 0)
      (if bitOf v 1 then tollWrite (accessesFirst s) m (bitOf v 2) else accessesFirst s) :=
  if_neg (by simp [hb, mod_ne_zero_of_command h])

theorem freshCmdWrite_acts (hb : flag s Reg.vrdFreshCmd 31 = false) (h : bitOf v 0 = true ∨ bitOf v 1 = true) :
    freshCmdWrite s v = answering freshRead Reg.vrdFreshCmd (bitOf v 0)
      (if bitOf v 1 then freshWrite (accessesFirst s) else accessesFirst s) :=
  if_neg (by simp [hb, mod_ne_zero_of_command h])

end CommandWrites

/-! ### The WRITE of a bucket (R177) -/

section TollWrite
variable {s : State} (m : Nat) (fill : Bool)

/-- TOL_DATA asks for a bucket of two rates whose peak lies below its committed rate or size. -/
def peakBelow (s : State) : Prop :=
  flag s (Reg.tolData 2) 31 = true ∧ (rd s (Reg.tolData 1) < rd s (Reg.tolData 0) ∨
    fget s (Reg.tolData 3) 27 0 < fget s (Reg.tolData 2) 27 0)

/-- The bucket that TOL_DATA describes, in the place of bucket `b`. -/
def configured (s : State) (b : Bucket) (fill : Bool) : Bucket :=
  ⟨rd s (Reg.tolData 0), rd s (Reg.tolData 1), flag s (Reg.tolData 2) 31,
    fget s (Reg.tolData 2) 27 0, fget s (Reg.tolData 3) 27 0,
    if fill then fget s (Reg.tolData 2) 27 0 else min b.tc (fget s (Reg.tolData 2) 27 0),
    if fill then fget s (Reg.tolData 3) 27 0 else min b.tp (fget s (Reg.tolData 3) 27 0), nowNs s, 0, 0⟩

/-- The selected bucket. -/
abbrev tolSel (s : State) : Nat := fget s Reg.tolIdx 15 0

/-- The words of a bucket just configured. -/
def bucketStored (s : State) (fill : Bool) : State :=
  rangeWritten (setBucket s (tolSel s) (configured s (bucket s (tolSel s)) fill)) 9 (5 * tolSel s) 5

theorem tollWrite_refused (h : peakBelow s) : tollWrite s m fill = rsvd s m Reg.tolCmd := if_pos h

theorem tollWrite_stores (h : ¬ peakBelow s) : tollWrite s m fill = { bucketStored s fill with
    vrd := { (bucketStored s fill).vrd with
      unaudited := (bucketStored s fill).vrd.unaudited.filter (fun j => j ≠ tolSel s) } } := if_neg h

variable {m fill}

theorem only_tollWrite (h : ¬ peakBelow s) : Only [.vrd, .intg, .tol] flipRegs s (tollWrite s m fill) := by
  rw [tollWrite_stores m fill h]
  exact (((only_setBucket s _ _).trans (only_rangeWritten _ 9 _ 5)).trans (only_setVrd _ _)).mono (by simp) (by simp)

theorem tollWrite_cycle (h : ¬ peakBelow s) : (tollWrite s m fill).cycle = s.cycle := by
  rw [tollWrite_stores m fill h]
  exact rangeWritten_cycle _ 9 _ 5

theorem tollWrite_tol (h : ¬ peakBelow s) : (tollWrite s m fill).tol =
    s.tol.set (fun _ => Bucket.zero) (tolSel s) (configured s (bucket s (tolSel s)) fill) := by
  rw [tollWrite_stores m fill h]
  exact rangeWritten_tol _ 9 _ 5

theorem bucket_tollWrite_same (h : ¬ peakBelow s) :
    bucket (tollWrite s m fill) (tolSel s) = configured s (bucket s (tolSel s)) fill := by
  rw [bucket, tollWrite_tol h, KMap.get_set_same]

theorem bucket_tollWrite_ne (h : ¬ peakBelow s) {j : Nat} (hj : j ≠ tolSel s) :
    bucket (tollWrite s m fill) j = bucket s j := by
  rw [bucket, tollWrite_tol h, KMap.get_set_ne _ _ _ hj, bucket]

/-- The bucket selected stays selected. -/
theorem tolSel_tollWrite (h : ¬ peakBelow s) : tolSel (tollWrite s m fill) = tolSel s :=
  fget_congr ((only_tollWrite h).rd_eq (belowCounts_of_lt (by decide)) (by decide)) 15 0

end TollWrite

/-! ### The WRITE of a stream's counter and map (R179) -/

section FreshWrite
variable (s : State)

/-- The selected stream. -/
abbrev freshSel (s : State) : Nat := fget s Reg.vrdFreshIdx 15 0

theorem only_freshWrite : Only [.vrd, .intg] flipRegs s (freshWrite s) :=
  (only_setFresh s _ _).trans (only_rangeWritten _ 0xA _ 2)

theorem freshWrite_cycle : (freshWrite s).cycle = s.cycle := rangeWritten_cycle _ 0xA _ 2

theorem freshWrite_vrd : (freshWrite s).vrd =
    (setFresh s (freshSel s) (rd s Reg.vrdFreshCtr, rd s Reg.vrdFreshMap)).vrd := rangeWritten_vrd _ 0xA _ 2

theorem freshOf_freshWrite_same : freshOf (freshWrite s) (freshSel s) = (rd s Reg.vrdFreshCtr, rd s Reg.vrdFreshMap) := by
  rw [freshOf_congr (freshWrite_vrd s)]
  exact KMap.get_set_same _ _ _ _

theorem freshOf_freshWrite_ne {j : Nat} (hj : j ≠ freshSel s) : freshOf (freshWrite s) j = freshOf s j := by
  rw [freshOf_congr (freshWrite_vrd s)]
  exact KMap.get_set_ne _ _ _ hj

end FreshWrite

/-! ### The commands -/

section Commands
variable {s : State} {m : Requester} {v : BitVec 32}

/-- A WRITE or READ of TOL_CMD while BUSY (R177). -/
theorem tolCmd_busy {c : Instr} (e : exec c s = .next (finish s (tolCmdWrite (portCount s m) m.code v.toNat)))
    (hb : flag s Reg.tolCmd 31 = true) : Ends c s fun t => Only [] (portRegs m) s t := by
  refine ends_of e ?_
  rw [tolCmdWrite_busy ((flag_portCount s m (belowCounts_of_lt (by decide)) 31).trans hb)]
  exact (Only.refl [] [] _).counted

section Toll
variable (hb : flag s Reg.tolCmd 31 = false)
include hb

/-- What a command of TOL_CMD comes to when BUSY is 0. -/
theorem tolCmd_acts (h : bitOf v.toNat 0 = true ∨ bitOf v.toNat 1 = true) :
    tolCmdWrite (portCount s m) m.code v.toNat = answering tollRead Reg.tolCmd (bitOf v.toNat 0)
      (if bitOf v.toNat 1 then tollWrite (accessesFirst (portCount s m)) m.code (bitOf v.toNat 2)
        else accessesFirst (portCount s m)) :=
  tolCmdWrite_acts ((flag_portCount s m (belowCounts_of_lt (by decide)) 31).trans hb) h

theorem tollRead_answers {s0 : State} (hs : s0 = accessesFirst (portCount s m)) (hw : mayWrite s m Reg.tolCmd 4 = true)
    (h0 : bitOf v.toNat 0 = true) (h1 : bitOf v.toNat 1 = false) : Ends (.tollRead m v) s fun t =>
        (∃ c, s0.cycle < c ∧ c ≤ s0.cycle + 16 ∧ KMap.find t.vrd.ports Reg.tolCmd =
          some (c, halvesRead s0 9 (5 * tolSel s0) (bucketWords (bucket s0 (tolSel s0))))) ∧
        flag t Reg.tolCmd 31 = true ∧ Only [.draws, .vrd, .intg] (Reg.tolCmd :: readRegs 9) s0 t := by
  have e : tolCmdWrite (portCount s m) m.code v.toNat = answering tollRead Reg.tolCmd true s0 := by
    rw [tolCmd_acts hb (.inl h0), h0, h1, hs]
    rfl
  refine ends_of (exec_tollRead v hw) ?_
  rw [e, finish_vrd, flag_congr (rd_finish_below s (belowCounts_of_lt (by decide)))]
  exact ⟨find_answering readsIn_tollRead true s0, flag_portStart _ _ _, (only_answering readsIn_tollRead true s0).atEnd s⟩

theorem tollWrite_refuses {s0 : State} (hs : s0 = accessesFirst (portCount s m)) (hw : mayWrite s m Reg.tolCmd 4 = true)
    (h1 : bitOf v.toNat 1 = true) (hp : peakBelow s0) (h0 : bitOf v.toNat 0 = false) : Ends (.tollWrite m v) s fun t =>
        flag t Reg.topErr 0 = true ∧ Only [.draws, .vrd] (Reg.tolCmd :: errRegs) s0 t := by
  have e : tolCmdWrite (portCount s m) m.code v.toNat = portStart (rsvd s0 m.code Reg.tolCmd) Reg.tolCmd [] := by
    rw [tolCmd_acts hb (.inr h1), h0, h1, ← hs, if_pos rfl, tollWrite_refused _ _ hp]
    rfl
  have started := only_portStart (rsvd s0 m.code Reg.tolCmd) Reg.tolCmd []
  refine ends_of (exec_tollWrite v hw) ?_
  rw [e]
  refine ⟨?_, (((only_rsvd s0 _ _).trans started).mono (by simp) (by simp)).atEnd s⟩
  rw [flag_congr (rd_finish_below s (belowCounts_of_lt (by decide))),
    flag_congr (started.rd_eq (belowCounts_of_lt (by decide)) (by decide)), flag_rsvd]

theorem tollWrite_configures {s0 : State} (hs : s0 = accessesFirst (portCount s m))
    (hw : mayWrite s m Reg.tolCmd 4 = true) (h1 : bitOf v.toNat 1 = true) (hp : ¬ peakBelow s0) :
    Ends (.tollWrite m v) s fun t =>
        bucket t (tolSel s0) = configured s0 (bucket s0 (tolSel s0)) (bitOf v.toNat 2) ∧
        (∀ j, j ≠ tolSel s0 → bucket t j = bucket s0 j) ∧
        (∃ c, s0.cycle < c ∧ c ≤ s0.cycle + 16 ∧ KMap.find t.vrd.ports Reg.tolCmd = some (c, if bitOf v.toNat 0 then
          halvesRead (tollWrite s0 m.code (bitOf v.toNat 2)) 9 (5 * tolSel s0) (bucketWords (bucket t (tolSel s0)))
          else [])) ∧
        Only [.draws, .vrd, .intg, .tol] (Reg.tolCmd :: flipRegs ++ readRegs 9) s0 t := by
  have e : tolCmdWrite (portCount s m) m.code v.toNat =
      answering tollRead Reg.tolCmd (bitOf v.toNat 0) (tollWrite s0 m.code (bitOf v.toNat 2)) := by
    rw [tolCmd_acts hb (.inr h1), ← hs, if_pos h1]
  have wrote := only_tollWrite (m := m.code) (fill := bitOf v.toNat 2) hp
  have answered := only_answering (off := Reg.tolCmd) readsIn_tollRead (bitOf v.toNat 0)
    (tollWrite s0 m.code (bitOf v.toNat 2))
  obtain ⟨c, later, within, found⟩ := find_answering (off := Reg.tolCmd) readsIn_tollRead (bitOf v.toNat 0)
    (tollWrite s0 m.code (bitOf v.toNat 2))
  rw [tollWrite_cycle hp] at later within
  refine ends_of (exec_tollWrite v hw) ?_
  rw [e, finish_vrd]
  have stands (j : Nat) := bucket_congr ((finish_tol s _).trans (answered.1 .tol (by simp))) j
  simp only [stands]
  refine ⟨bucket_tollWrite_same hp, fun j hj => bucket_tollWrite_ne hp hj, ⟨c, later, within, found.trans ?_⟩,
    ((wrote.trans answered).mono (by simp) (by simp)).atEnd s⟩
  rw [tollRead, ← tolSel, tolSel_tollWrite hp]

end Toll

section Fresh
variable (hb : flag s Reg.vrdFreshCmd 31 = false)
include hb

/-- What a command of VRD_FRESH_CMD comes to when BUSY is 0. -/
theorem freshCmd_acts (h : bitOf v.toNat 0 = true ∨ bitOf v.toNat 1 = true) :
    freshCmdWrite (portCount s m) v.toNat = answering freshRead Reg.vrdFreshCmd (bitOf v.toNat 0)
      (if bitOf v.toNat 1 then freshWrite (accessesFirst (portCount s m)) else accessesFirst (portCount s m)) :=
  freshCmdWrite_acts ((flag_portCount s m (belowCounts_of_lt (by decide)) 31).trans hb) h

theorem freshRead_answers {s0 : State} (hs : s0 = accessesFirst (portCount s m))
    (hw : mayWrite s m Reg.vrdFreshCmd 4 = true) (h0 : bitOf v.toNat 0 = true) (h1 : bitOf v.toNat 1 = false) :
    Ends (.freshRead m v) s fun t =>
        (∃ c, s0.cycle < c ∧ c ≤ s0.cycle + 16 ∧ KMap.find t.vrd.ports Reg.vrdFreshCmd =
          some (c, [(freshOf s0 (freshSel s0)).1 ^^^ residual s0 0xA (2 * freshSel s0),
            (freshOf s0 (freshSel s0)).2 ^^^ residual s0 0xA (2 * freshSel s0 + 1)])) ∧
        (∀ j, freshOf t j = freshOf s0 j) ∧ Only [.draws, .vrd, .intg] (Reg.vrdFreshCmd :: readRegs 0xA) s0 t := by
  have e : freshCmdWrite (portCount s m) v.toNat = answering freshRead Reg.vrdFreshCmd true s0 := by
    rw [freshCmd_acts hb (.inl h0), h0, h1, hs]
    rfl
  refine ends_of (exec_freshRead v hw) ?_
  rw [e, finish_vrd]
  exact ⟨find_answering readsIn_freshRead true s0,
    fun j => (freshOf_congr (finish_vrd s _) j).trans (freshOf_answering readsIn_freshRead true s0 j),
    (only_answering readsIn_freshRead true s0).atEnd s⟩

theorem freshWrite_sets {s0 : State} (hs : s0 = accessesFirst (portCount s m))
    (hw : mayWrite s m Reg.vrdFreshCmd 4 = true) (h1 : bitOf v.toNat 1 = true) : Ends (.freshWrite m v) s fun t =>
        freshOf t (freshSel s0) = (rd s0 Reg.vrdFreshCtr, rd s0 Reg.vrdFreshMap) ∧
        (∀ j, j ≠ freshSel s0 → freshOf t j = freshOf s0 j) ∧
        Only [.draws, .vrd, .intg] (Reg.vrdFreshCmd :: flipRegs ++ readRegs 0xA) s0 t := by
  have e : freshCmdWrite (portCount s m) v.toNat =
      answering freshRead Reg.vrdFreshCmd (bitOf v.toNat 0) (freshWrite s0) := by
    rw [freshCmd_acts hb (.inr h1), ← hs, if_pos h1]
  refine ends_of (exec_freshWrite v hw) ?_
  rw [e]
  have stands (j : Nat) := (freshOf_congr (finish_vrd s _) j).trans
    (freshOf_answering (off := Reg.vrdFreshCmd) readsIn_freshRead (bitOf v.toNat 0) (freshWrite s0) j)
  simp only [stands]
  exact ⟨freshOf_freshWrite_same s0, fun j hj => freshOf_freshWrite_ne s0 hj,
    (((only_freshWrite s0).trans (only_answering readsIn_freshRead _ _)).mono (by simp) (by simp)).atEnd s⟩

end Fresh

end Commands

/-! ### The end of a command: its words stand in the registers (R177, R179) -/

section PortEnd
variable {s : State}

/-- BUSY falls, and nothing is under way at the port any more. -/
def busyFalls (s : State) (off : Nat) : State :=
  fput { s with vrd := { s.vrd with ports := KMap.put s.vrd.ports off none } } off 31 31 0

theorem only_busyFalls (s : State) (off : Nat) : Only [.vrd] [off] s (busyFalls s off) :=
  (only_setVrd s _).trans (only_fput _ off 31 31 0)

theorem flag_busyFalls (s : State) (off : Nat) : flag (busyFalls s off) off 31 = false := by
  rw [busyFalls, flag_fput_same _ off (by decide)]
  rfl

theorem busyFalls_ports (s : State) (off : Nat) : (busyFalls s off).vrd.ports = s.vrd.ports.put off none := rfl

/-- The words of a bucket read, as far as there are any, put into TOL_DATA. -/
def tolDataFilled (s : State) (data : List Nat) : State :=
  (data.zip (List.range 10)).foldl (fun st e => wr st (Reg.tolData e.2) e.1) s

theorem only_tolDataFilled (s : State) (data : List Nat) :
    Only [] ((List.range 10).map Reg.tolData) s (tolDataFilled s data) := by
  refine only_foldl_mem _ _ (fun t e he => (only_wr t _ _).mono (List.Subset.refl _) ?_) s
  exact List.cons_subset.2 ⟨List.mem_map_of_mem (List.of_mem_zip he).2, List.nil_subset _⟩

theorem tolData_injective : Reg.tolData.Injective := fun a b h => by
  simp only [Reg.tolData] at h
  omega

/-- A list zipped with the first numbers ends where the shorter ends. -/
theorem zip_range_eq (data : List Nat) (n : Nat) :
    data.zip (List.range n) = (data.take n).zip (List.range' 0 (data.take n).length) := by
  have shorter : data.take (min data.length n) = data.take n := List.take_eq_take_iff.2 (by omega)
  rw [List.zip_eq_zip_take_min, List.length_range, shorter, List.take_range, List.length_take, ← List.range_eq_range',
    Nat.min_assoc, Nat.min_self, Nat.min_comm]

theorem rd_tolDataFilled (s : State) {data : List Nat} {k : Nat} (hk : k < 10) (hd : k < data.length) :
    rd (tolDataFilled s data) (Reg.tolData k) = data.getD k 0 % 2 ^ 64 := by
  have h := rd_foldl_wr tolData_injective (data.take 10) 0 k (by simp [hk, hd]) s
  rw [← zip_range_eq, Nat.zero_add] at h
  rw [tolDataFilled, h]
  simp [List.getD_eq_getElem?_getD, hk]

theorem portsDone_toll {c : Nat} {data : List Nat} (ht : KMap.find s.vrd.ports Reg.tolCmd = some (c, data))
    (hf : KMap.find s.vrd.ports Reg.vrdFreshCmd = none) (hc : c ≤ s.cycle) :
    portsDone s = tolDataFilled (busyFalls s Reg.tolCmd) data := by
  have e : portEnd s Reg.tolCmd data = tolDataFilled (busyFalls s Reg.tolCmd) data := by
    unfold portEnd
    exact if_pos rfl
  have vrd : (tolDataFilled (busyFalls s Reg.tolCmd) data).vrd = (busyFalls s Reg.tolCmd).vrd :=
    (only_tolDataFilled _ data).1 .vrd (by simp)
  have other : KMap.find (busyFalls s Reg.tolCmd).vrd.ports Reg.vrdFreshCmd = none := by
    rw [busyFalls_ports, KMap.find, KMap.put, KMap.get_set_ne _ _ _ (by decide)]
    exact hf
  simp only [portsDone, List.foldl_cons, List.foldl_nil, ht, if_pos hc, e, vrd, other]

theorem portsDone_fresh {c x y : Nat} (hf : KMap.find s.vrd.ports Reg.vrdFreshCmd = some (c, [x, y]))
    (ht : KMap.find s.vrd.ports Reg.tolCmd = none) (hc : c ≤ s.cycle) :
    portsDone s = wr (wr (busyFalls s Reg.vrdFreshCmd) Reg.vrdFreshCtr x) Reg.vrdFreshMap y := by
  simp only [portsDone, List.foldl_cons, List.foldl_nil, ht, hf, if_pos hc]
  rfl

/-- The words of a bucket stand in TOL_DATA. -/
theorem portsDone_fillsTolData {c : Nat} {data : List Nat} (ht : KMap.find s.vrd.ports Reg.tolCmd = some (c, data))
    (hf : KMap.find s.vrd.ports Reg.vrdFreshCmd = none) (hc : c ≤ s.cycle) :
    flag (portsDone s) Reg.tolCmd 31 = false ∧
      (∀ k, k < 10 → k < data.length → rd (portsDone s) (Reg.tolData k) = data.getD k 0 % 2 ^ 64) ∧
      Only [.vrd] (Reg.tolCmd :: (List.range 10).map Reg.tolData) s (portsDone s) := by
  have filled := only_tolDataFilled (busyFalls s Reg.tolCmd) data
  rw [portsDone_toll ht hf hc]
  exact ⟨(flag_congr (filled.rd_eq (belowCounts_of_lt (by decide)) (by decide)) 31).trans (flag_busyFalls s _),
    fun k hk hd => rd_tolDataFilled _ hk hd, (only_busyFalls s Reg.tolCmd).trans filled⟩

/-- A stream's counter and map stand in their registers. -/
theorem portsDone_fillsFresh {c x y : Nat} (hf : KMap.find s.vrd.ports Reg.vrdFreshCmd = some (c, [x, y]))
    (ht : KMap.find s.vrd.ports Reg.tolCmd = none) (hc : c ≤ s.cycle) :
    flag (portsDone s) Reg.vrdFreshCmd 31 = false ∧ rd (portsDone s) Reg.vrdFreshCtr = x % 2 ^ 64 ∧
      rd (portsDone s) Reg.vrdFreshMap = y % 2 ^ 64 ∧
      Only [.vrd] [Reg.vrdFreshCmd, Reg.vrdFreshCtr, Reg.vrdFreshMap] s (portsDone s) := by
  rw [portsDone_fresh hf ht hc]
  have counter : Only [] [Reg.vrdFreshCtr] (busyFalls s Reg.vrdFreshCmd) _ := only_wr _ _ x
  have map := only_wr (wr (busyFalls s Reg.vrdFreshCmd) Reg.vrdFreshCtr x) Reg.vrdFreshMap y
  refine ⟨?_, by rw [rd_wr_ne _ _ (by decide), rd_wr_same], rd_wr_same _ _ y,
    ((only_busyFalls s _).trans (counter.trans map)).mono (by simp) (by simp)⟩
  rw [flag_congr ((rd_wr_ne _ _ (by decide)).trans (rd_wr_ne _ _ (by decide))), flag_busyFalls]

end PortEnd

/-- Settles O28: a command of either register is its WRITE, then its READ, on the state that the accesses of its cycle leave,
and what it read waits at its port; the tick that finds it due puts it into the registers. -/
theorem tollAndFreshnessCommandsMoveOneBucketOrStream : Obligations.TollAndFreshnessCommandsMoveOneBucketOrStream := by
  unfold Obligations.TollAndFreshnessCommandsMoveOneBucketOrStream
  intro s m v s0 i hs
  refine ⟨fun hw hb => ⟨tolCmd_busy (exec_tollRead v hw) hb, tolCmd_busy (exec_tollWrite v hw) hb⟩,
    fun hw hb hi h0 h1 => ?_, fun hw hb h1 h2 hlow h0 => tollWrite_refuses hb hs hw h1 ⟨h2, hlow⟩ h0,
    fun hw hb hi h1 hok => ?_, fun hw hb hi h0 h1 => ?_, fun hw hb hi h1 => ?_,
    fun _ _ ht hf hc => portsDone_fillsTolData ht hf hc, fun _ _ _ hf ht hc => portsDone_fillsFresh hf ht hc⟩
  · exact hi ▸ tollRead_answers hb hs hw h0 h1
  · have rates : ¬ peakBelow s0 := fun ⟨h2, hlow⟩ => by
      have := hok h2
      omega
    exact hi ▸ tollWrite_configures hb hs hw h1 rates
  · exact hi ▸ freshRead_answers hb hs hw h0 h1
  · exact hi ▸ freshWrite_sets hb hs hw h1

end Sys2Proof.Machine
end

section
namespace Sys2Proof.Machine

/-! ### Which entries a ternary search finds (R189, R195) -/

section Matching
variable {s : State} {d : TblDecl} {k : Key} {h : Nat}

/-- With no move pair open, the matches are the valid entries that match by the rule of the table's kind. -/
theorem mem_matches_iff (hm : s.tca.movePair = none) : h ∈ matches_ s d k ↔ h ∈ validHeads s d ∧
    (if d.kind = 1 then matchWindow (winAt s h) k else matchOrdinary s d h k) = true := by
  simp only [matches_, hm, List.mem_filter]

theorem matchOrdinary_iff : matchOrdinary s d h k = true ↔
    ∀ i, i < entryRows d → (keyRow k i ^^^ (trow s (h + i)).data) &&& (trow s (h + i)).mask = 0 := by
  simp [matchOrdinary]

theorem matchWindow_iff {w : Win} : matchWindow w k = true ↔ (bitsOf k.toNat 95 64 ^^^ w.rValue) &&& w.rCare = 0 ∧
    w.lower ≤ bitsOf k.toNat 63 0 ∧ (w.unbounded = true ∨ bitsOf k.toNat 63 0 < w.upper) := by
  simp [matchWindow, winRemainder, and_assoc]

end Matching

/-- Settles O29: the matches are the valid entries that the rule of the table's kind passes, and each rule says what R189 or
R195 says of one entry. -/
theorem ordinaryAndWindowEntriesMatchAsTheSpecSays : Obligations.OrdinaryAndWindowEntriesMatchAsTheSpecSays := by
  unfold Obligations.OrdinaryAndWindowEntriesMatchAsTheSpecSays
  intro s d k h hm
  refine ⟨fun hk => ?_, fun hk => ?_⟩
  · rw [mem_matches_iff hm, if_neg hk, matchOrdinary_iff]
    rfl
  · rw [mem_matches_iff hm, if_pos hk, matchWindow_iff]

end Sys2Proof.Machine
end

section
namespace Sys2Proof.Machine

/-! ### The ternary array's parts: row accesses asked for, lanes taken, ledgers checked -/

section TernParts
variable (s : State)

theorem only_setTca (x : TcaSt) : Only [.tca] [] s { s with tca := x } :=
  only_units (fun u hu => by cases u <;> simp [UnitName.same] at *) rfl rfl

/-- A lane asks for its next row access, or has none to make (R198). -/
theorem presentRow_cases (read : Bool) (since : Nat) : presentRow s read since = s ∨
    ∃ m, presentRow s read since = present s m true (.row read) since [] := by
  unfold presentRow
  dsimp only
  split
  · exact .inl rfl
  · split
    · exact .inl rfl
    · exact .inr ⟨_, rfl⟩

theorem only_presentRow (read : Bool) (since : Nat) : Only [.rgl] [] s (presentRow s read since) := by
  obtain e | ⟨m, e⟩ := presentRow_cases s read since <;> rw [e]
  · exact Only.refl _ _ s
  · exact only_setRgl s _

/-- What it asks for carries the next free number, and no other request changes. -/
theorem presentRow_rgl (read : Bool) (since : Nat) : ∃ l n, (∀ q ∈ l, q.id = s.rgl.nextId) ∧
    (presentRow s read since).rgl = { s.rgl with
      nextId := n
      reqs := s.rgl.reqs ++ l } := by
  obtain e | ⟨m, e⟩ := presentRow_cases s read since <;> rw [e]
  · exact ⟨[], s.rgl.nextId, by simp, by rw [List.append_nil]⟩
  · exact ⟨_, _, fun q hq => by rw [List.mem_singleton.1 hq], rfl⟩

@[simp] theorem presentRow_tca (read : Bool) (since : Nat) : (presentRow s read since).tca = s.tca :=
  (only_presentRow s read since).1 .tca (by simp)

@[simp] theorem presentRow_tcr (read : Bool) (since : Nat) : (presentRow s read since).tcr = s.tcr :=
  (only_presentRow s read since).1 .tcr (by simp)

theorem only_auditTern (t : Nat) : Only [] ledgerRegs s (auditTern s t) := by
  unfold auditTern
  split
  · exact Only.refl _ _ s
  · dsimp only
    split
    · exact Only.refl _ _ s
    · exact only_ledgerFault s _ _ _ _ _ _

/-- A row access can mark the region under signature, and changes nothing else beside its row (R224). -/
theorem touchRegion_tca (r : Nat) : ∃ b, (touchRegion s r).tca = { s.tca with sigDirty := b } := by
  unfold touchRegion
  split
  · exact ⟨true, rfl⟩
  · exact ⟨s.tca.sigDirty, rfl⟩

theorem only_touchRegion (r : Nat) : Only [.tca] [] s (touchRegion s r) := by
  unfold touchRegion
  split
  · exact only_setTca s _
  · exact Only.refl _ _ s

theorem only_keepArray : Only [] [] s (keepArray s) := by
  unfold keepArray
  split
  · exact only_units (fun u hu => by cases u <;> rfl) rfl rfl
  · exact Only.refl _ _ s

end TernParts

/-! ### The window of the cap on row accesses (R199) -/

theorem updateWindow_restarts {s : State} (h : s.tca.windowAt ≠ s.cycle / 800) : updateWindow s = { s with tca := { s.tca with
    windowAt := s.cycle / 800
    windowUsed := 0 } } := by
  rw [updateWindow, if_neg h]

/-- The row accesses of a command's end are counted in the window of the command's own cycle. -/
theorem rowsInWindow_finish {s t : State} (h : t.tca.windowAt = s.cycle / 800) :
    rowsInWindow (finish s t) = t.tca.windowUsed := by
  rw [rowsInWindow, finish_tca, finish_cycle, if_pos h]

/-- UPDATE_WINDOW_START in a new window restarts the count (R199). -/
theorem updateWindowStart_restarts {s : State} (ha : awake s = true) (h : s.tca.windowAt ≠ s.cycle / 800) :
    Ends .updateWindowStart s fun t => rowsInWindow t = 0 ∧ t.tca = { s.tca with
      windowAt := s.cycle / 800
      windowUsed := 0 } ∧ Only [.tca] [] s t := by
  refine ends_of (core_updateWindowStart ha) ?_
  rw [updateWindow_restarts h]
  exact ⟨rowsInWindow_finish rfl, finish_tca _ _, (only_setTca s _).finished⟩

/-! ### A row access of the write lane (R198, R199, R206) -/

section RowAccess
variable (s : State) (r : Req)

/-- A row access has its slot: it leaves the queue, its class is charged, its wait and its slot are noted (R198, R201). -/
def rowGranted : State :=
  takeSlot (bump (noteWait (charge (dropReq s r.id) true r.master 1) r.master (waitOf s r)) (Reg.tcaCnt 4) 1)
    (actLevel s = 0)

/-- It counts in its window, and the array as it was is kept for the searches of its cycle (R198, R199). -/
def rowCounted : State :=
  keepArray { rowGranted s r with tca := { (rowGranted s r).tca with
    windowAt := s.cycle / 800
    windowUsed := rowsInWindow s + 1 } }

/-- One row has been written, and `o` is what its lane still has to do. -/
def rowWritten (o : TcaOp) (row : Nat) (x : TRow) : State :=
  { touchRegion (setRow (rowCounted s r) row x) row with
    tca := { (touchRegion (setRow (rowCounted s r) row x) row).tca with wop := some o } }

/-- The register that counts the slots of a request's class, and that of the row accesses (R230, R373). -/
abbrev rowRegs : List Nat := [Reg.rglCnt (clsOf s r.master) 0, Reg.tcaCnt 4]

theorem only_rowGranted : Only [.rgl] (rowRegs s r) s (rowGranted s r) := by
  have dropped : Only [.rgl] [] s (dropReq s r.id) :=
    only_units (fun u hu => by cases u <;> simp [UnitName.same] at *) (by simp) (by simp)
  have charged : Only [.rgl] [Reg.rglCnt (clsOf s r.master) 0] (dropReq s r.id) (charge (dropReq s r.id) true r.master 1) :=
    (only_bump _ _ _).trans (only_setRgl _ _)
  exact (((((dropped.trans charged).trans (only_rcEvent _ _ _ _ _)).trans (only_setRgl _ _)).trans (only_bump _ _ _)).trans
    (only_setRgl _ _)).mono (by simp) (by simp)

/-- The request has left the queue, and the slot it used is marked in its cycle. -/
theorem rowGranted_rgl : (rowGranted s r).rgl.reqs = s.rgl.reqs.filter (fun q => q.id ≠ r.id) ∧
    (rowGranted s r).rgl.nextId = s.rgl.nextId ∧ (rowGranted s r).rgl.slotCycle = s.cycle ∧
    (actLevel s = 0 → (rowGranted s r).rgl.slot1 = true) ∧ (actLevel s ≠ 0 → (rowGranted s r).rgl.slot0 = true) := by
  refine ⟨rfl, rfl, rfl, fun h => ?_, fun h => ?_⟩
  · show ((slotsUsed _).2 || decide (actLevel s = 0)) = true
    rw [decide_eq_true h, Bool.or_true]
  · show ((slotsUsed _).1 || !decide (actLevel s = 0)) = true
    rw [decide_eq_false h, Bool.not_false, Bool.or_true]

theorem only_rowCounted : Only [.rgl, .tca] (rowRegs s r) s (rowCounted s r) :=
  ((only_rowGranted s r).trans (only_setTca _ _)).trans (only_keepArray _)

theorem rowCounted_rgl : (rowCounted s r).rgl = (rowGranted s r).rgl := (only_keepArray _).1 .rgl (by simp)

theorem rowCounted_tca : (rowCounted s r).tca = { s.tca with
    windowAt := s.cycle / 800
    windowUsed := rowsInWindow s + 1 } := by
  rw [← (only_rowGranted s r).1 .tca (by simp)]
  exact (only_keepArray _).1 .tca (by simp)

variable (o : TcaOp) (row : Nat) (x : TRow)

theorem only_rowWritten : Only [.rgl, .tca] (rowRegs s r) s (rowWritten s r o row x) :=
  ((((only_rowCounted s r).trans (only_setTca _ _)).trans (only_touchRegion _ row)).trans (only_setTca _ _)).mono
    (by simp) (by simp)

theorem rowWritten_rgl : (rowWritten s r o row x).rgl = (rowGranted s r).rgl := by
  rw [← rowCounted_rgl]
  exact (only_touchRegion _ row).1 .rgl (by simp)

/-- The array after the row is written: that row, the window's count, and the lane's rest. -/
theorem rowWritten_tca : ∃ b, (rowWritten s r o row x).tca = { s.tca with
    rows := s.tca.rows.set (fun _ => TRow.zero) row x
    windowAt := s.cycle / 800
    windowUsed := rowsInWindow s + 1
    sigDirty := b
    wop := some o } := by
  obtain ⟨b, hb⟩ := touchRegion_tca (setRow (rowCounted s r) row x) row
  refine ⟨b, ?_⟩
  rw [rowWritten, hb, setRow, rowCounted_tca]

variable {s r o row x}

/-- A write of a row that is not a command's last: the row is written, and the lane asks for its next (R198, R206). -/
theorem rowAccess_write {d : TblDecl} {y : RowOp} {rest : List RowOp} (ho : s.tca.wop = some o) (hd : tblOf s o.table = some d)
    (hs : o.script = .write row x none :: y :: rest) : rowAccess s r false =
      auditTern (presentRow (rowWritten s r { o with
        script := y :: rest
        rows := o.rows + 1 } row x) false (s.cycle + 1)) o.table := by
  rw [rowAccess]
  simp only [Bool.false_eq_true, if_false]
  rw [ho]
  dsimp only
  rw [hs, hd]
  rfl

theorem rowAccessStep_row (hb : bestRow s = some r) (hp : r.purpose = .row false) : rowAccessStep s = rowAccess s r false := by
  simp only [rowAccessStep, hb, hp]

/-- ROW_ACCESS of the write lane, of a row that is not the command's last (R198, R199, R201, R206). -/
theorem rowAccess_writes {d : TblDecl} {y : RowOp} {rest : List RowOp} (ha : awake s = true) (hb : bestRow s = some r)
    (hp : r.purpose = .row false) (ho : s.tca.wop = some o) (hd : tblOf s o.table = some d)
    (hs : o.script = .write row x none :: y :: rest) : Ends .rowAccess s fun t =>
      trow t row = x ∧ (∀ i, i ≠ row → trow t i = trow s i) ∧ rowsInWindow t = rowsInWindow s + 1 ∧
      (actLevel s = 0 → (slotsUsed t).2 = true) ∧ (actLevel s ≠ 0 → (slotsUsed t).1 = true) ∧
      t.tca.wop = some { o with
        script := y :: rest
        rows := o.rows + 1 } ∧
      (∀ q ∈ t.rgl.reqs, q.id = r.id → q.id = s.rgl.nextId) ∧ t.tca.result = s.tca.result ∧
      keepsUnits [.rgl, .tca] s t := by
  refine ends_of (core_rowAccess ha) ?_
  rw [rowAccessStep_row hb hp, rowAccess_write ho hd hs]
  generalize ho' : ({ o with
    script := y :: rest
    rows := o.rows + 1 } : TcaOp) = o'
  have written := only_rowWritten s r o' row x
  have asked := only_presentRow (rowWritten s r o' row x) false (s.cycle + 1)
  have audited := only_auditTern (presentRow (rowWritten s r o' row x) false (s.cycle + 1)) o.table
  obtain ⟨b, htca⟩ := rowWritten_tca s r o' row x
  obtain ⟨l, n, hl, hrgl⟩ := presentRow_rgl (rowWritten s r o' row x) false (s.cycle + 1)
  obtain ⟨hreqs, hid, hcycle, hone, hzero⟩ := rowGranted_rgl s r
  have frame : keepsUnits [.rgl, .tca] s (finish s _) :=
    (((written.trans asked).trans audited).mono (by simp) (List.Subset.refl _)).finished.1
  rw [← presentRow_tca _ false (s.cycle + 1), ← audited.1 .tca (by simp)] at htca
  rw [rowWritten_rgl, ← audited.1 .rgl (by simp)] at hrgl
  rw [rowWritten_rgl, hid] at hl
  generalize auditTern (presentRow (rowWritten s r o' row x) false (s.cycle + 1)) o.table = u at htca hrgl frame
  have hslots : slotsUsed (finish s u) = ((rowGranted s r).rgl.slot0, (rowGranted s r).rgl.slot1) := by
    rw [slotsUsed, finish_rgl, finish_cycle, hrgl, if_pos hcycle]
  rw [hslots, rowsInWindow_finish (by rw [htca]), finish_tca, finish_rgl, hrgl, hreqs, htca]
  refine ⟨?_, fun i hi => ?_, rfl, hone, hzero, rfl, fun q hq he => ?_, rfl, frame⟩
  · rw [trow, finish_tca, htca, KMap.get_set_same]
  · rw [trow, finish_tca, htca, KMap.get_set_ne _ _ _ hi, trow]
  · rcases List.mem_append.1 hq with hq | hq
    · simp [he] at hq
    · exact hl q hq

end RowAccess
end Sys2Proof.Machine
end

section
namespace Sys2Proof.Machine

/-! ### The regulator's budget follows the throttle level (R356–R361) -/

/-- What the regulator's own accounts leave alone: the other units, and every register below the regulator's. -/
structure Regulates (s t : State) : Prop where
  units : keepsUnits [.rgl] s t
  below : ∀ o, o < Reg.rglEvt → rd t o = rd s o

section Regulates
variable {us : List UnitName} {rs : List Nat} {s t u : State}

theorem Regulates.trans (h : Regulates s t) (k : Regulates t u) : Regulates s u :=
  ⟨fun x hx => x.same_trans (h.units x hx) (k.units x hx), fun o ho => (k.below o ho).trans (h.below o ho)⟩

/-- A frame within the regulator and its registers. -/
theorem Only.regulates (h : Only us rs s t) (hu : us ⊆ [.rgl]) (hr : ∀ o ∈ rs, Reg.rglEvt ≤ o) : Regulates s t :=
  ⟨fun x hx => h.1 x (fun e => hx (hu e)),
    fun o ho => h.rd_eq (belowCounts_of_lt (lt_trans ho (by decide))) (fun e => Nat.not_lt.2 (hr o e) ho)⟩

theorem Regulates.refl (s : State) : Regulates s s := (Only.refl [] [] s).regulates (by simp) (by simp)

theorem Regulates.ite {c : Prop} [Decidable c] (h : Regulates s t) (k : Regulates s u) : Regulates s (if c then t else u) := by
  split
  · exact h
  · exact k

variable (s)

theorem regulates_wr {o : Nat} (v : Nat) (h : Reg.rglEvt ≤ o) : Regulates s (wr s o v) :=
  (only_wr s o v).regulates (by simp) (by simpa using h)

theorem regulates_setEvt {o : Nat} (b : Nat) (h : Reg.rglEvt ≤ o) : Regulates s (setEvt s o b) :=
  (only_setEvt s o b).regulates (by simp) (by simpa using h)

theorem regulates_setRgl (x : RglSt) : Regulates s { s with rgl := x } := (only_setRgl s x).regulates (by simp) (by simp)

/-- A log among the regulator's registers (R361). -/
theorem regulates_logPut {head tail ovf size : Nat} {entry : Nat → Nat → Nat} {evt : Nat} (bit w0 w1 : Nat)
    (he : ∀ i j, Reg.rglEvt ≤ entry i j) (hh : Reg.rglEvt ≤ head) (ho : Reg.rglEvt ≤ ovf) (hv : Reg.rglEvt ≤ evt) :
    Regulates s (logPut s head tail ovf size entry evt bit w0 w1) := by
  have put (i : Nat) : Regulates s (wr (wr (wr s (entry i 0) w0) (entry i 1) w1) head ((fget s head 15 0 + 1) % 65536)) :=
    ((regulates_wr s w0 (he i 0)).trans (regulates_wr _ w1 (he i 1))).trans (regulates_wr _ _ hh)
  unfold logPut
  dsimp only
  split
  · exact ((only_rcEvent s _ _ _ _).regulates (by simp) (by simp)).trans (regulates_wr _ _ ho)
  · exact ((put _).trans (regulates_setEvt _ bit hv)).ite (put _)

theorem regulates_recordMiss (c kind res m wait detail : Nat) : Regulates s (recordMiss s c kind res m wait detail) := by
  have counted : Regulates s (setEvt (bump s (Reg.rglCnt c 5) 1) Reg.rglEvt 0) :=
    (regulates_wr s _ (by simp only [Reg.rglCnt, Reg.rglEvt]; omega)).trans (regulates_setEvt _ 0 (le_refl _))
  have entry (i j : Nat) : Reg.rglEvt ≤ Reg.rglMiss i j := by
    simp only [Reg.rglMiss, Reg.rglEvt]
    omega
  unfold recordMiss
  dsimp only
  split
  · exact counted
  · exact (counted.trans (regulates_setRgl _ _)).trans
      (regulates_logPut _ 1 _ _ entry (by decide) (by decide) (le_refl _))

theorem regulates_coverMark (st : State × Nat) (res : Nat) (w : Nat × Nat × Nat) : Regulates st.1 (coverMark st res w).1 := by
  unfold coverMark
  split
  · exact (regulates_recordMiss st.1 _ _ _ _ _ _).trans (regulates_setEvt _ 4 (le_refl _))
  · exact Regulates.refl _

/-- The classes of one resource that the budget does not cover are marked one after another (R358, R360). -/
theorem regulates_coverMarks (res : Nat) (ws : List (Nat × Nat × Nat)) (p : State × Nat) :
    Regulates p.1 (ws.foldl (fun st w => coverMark st res w) p).1 := by
  induction ws generalizing p with
  | nil => exact Regulates.refl _
  | cons w ws ih => exact (regulates_coverMark p res w).trans (ih _)

theorem regulates_recover : Regulates s (recover s) := by
  have slots := regulates_coverMarks 0 (coverWalk (fget s Reg.rglNow 10 0) (guarList s true)) (s, 0)
  have granules := regulates_coverMarks 1 (coverWalk (fget s Reg.rglNow 42 32) (guarList s false))
    ((coverWalk (fget s Reg.rglNow 10 0) (guarList s true)).foldl (fun st w => coverMark st 0 w) (s, 0))
  exact ((slots.trans granules).trans (regulates_wr _ _ (by decide))).trans (regulates_setRgl _ _)

/-- A new budget touches the regulator and its registers alone (R356, R357). -/
theorem regulates_rebudget (initial : Bool) : Regulates s (rebudget s initial) := by
  have now (a b c d : Nat) : Regulates s (fput (fput (fput (fput s Reg.rglNow 55 54 a) Reg.rglNow 53 53 b) Reg.rglNow 42 32 c)
      Reg.rglNow 10 0 d) :=
    ((((only_fput s _ _ _ _).fput _ _ _ (by simp)).fput _ _ _ (by simp)).fput _ _ _ (by simp)).regulates (by simp)
      (by simp only [List.mem_singleton, forall_eq]; decide)
  unfold rebudget
  dsimp only
  refine Regulates.ite (Regulates.trans ?_ (regulates_recover _)) (Regulates.ite ?_ ((now _ _ _ _).ite (Regulates.refl s)))
  · exact (((now _ _ _ _).trans (regulates_setRgl _ _)).trans (regulates_setEvt _ 2 (le_refl _))).ite
      ((now _ _ _ _).trans (regulates_setRgl _ _))
  · exact ((now _ _ _ _).trans (regulates_setEvt _ 2 (le_refl _))).trans (regulates_recover _)

end Regulates

/-! ### THERMAL_SAMPLE (R200) -/

section Thermal
variable (s : State) (temp : Nat)

/-- The sample is kept, and the level it calls for, which governs from the next cycle (R200, R230). -/
def sampled : State :=
  { actLater (rcEvent s Reg.tcaTherm s.tca.peak 0 max) Reg.tcaTherm s.tca.level with tca := { s.tca with
    temp := temp
    level := levelFor s.tca.level (temp - 64)
    peak := max s.tca.peak (levelFor s.tca.level (temp - 64)) } }

theorem only_sampled : Only [.tca] [] s (sampled s temp) :=
  ((only_rcEvent s _ _ _ _).trans (only_actLater _ _ _)).trans (only_setTca _ _)

variable {s temp}

theorem thermalSample_stays (h : levelFor s.tca.level (temp - 64) = s.tca.level) : thermalSample s temp = sampled s temp := by
  simp [thermalSample, sampled, h]

theorem thermalSample_rises (h : s.tca.level < levelFor s.tca.level (temp - 64)) :
    thermalSample s temp = rebudget (setEvt (sampled s temp) Reg.tcaEvt 0) false := by
  rw [thermalSample, if_neg (Nat.ne_of_gt h), if_pos h]
  rfl

theorem thermalSample_falls (h : levelFor s.tca.level (temp - 64) < s.tca.level) :
    thermalSample s temp = rebudget (setEvt (sampled s temp) Reg.tcaEvt 1) false := by
  rw [thermalSample, if_neg (Nat.ne_of_lt h), if_neg (Nat.lt_asymm h), if_pos h]
  rfl

/-- The array's part of a sample that changes the level: nothing beside what was kept, and its event is latched. -/
theorem sampled_noted (b : Nat) (hb : b < 64) :
    (rebudget (setEvt (sampled s temp) Reg.tcaEvt b) false).tca = (sampled s temp).tca ∧
      flag (rebudget (setEvt (sampled s temp) Reg.tcaEvt b) false) Reg.tcaEvt b = true := by
  have budget := regulates_rebudget (setEvt (sampled s temp) Reg.tcaEvt b) false
  exact ⟨(budget.units .tca (by simp)).trans (setEvt_tca _ _ _),
    (flag_congr (budget.below _ (by decide)) b).trans (flag_setEvt_same _ _ _ hb)⟩

theorem thermalSample_tca : (thermalSample s temp).tca = (sampled s temp).tca := by
  rcases Nat.lt_trichotomy s.tca.level (levelFor s.tca.level (temp - 64)) with h | h | h
  · rw [thermalSample_rises h, (sampled_noted 0 (by decide)).1]
  · rw [thermalSample_stays h.symm]
  · rw [thermalSample_falls h, (sampled_noted 1 (by decide)).1]

end Thermal

/-- THERMAL_SAMPLE by how the level it calls for stands to the one in force (R200). -/
theorem thermalSample_enters {s : State} (ha : awake s = true) (temp : BitVec 8) : Ends (.thermalSample temp) s fun t =>
    t.tca.temp = temp.toNat ∧ t.tca.level = levelFor s.tca.level (temp.toNat - 64) ∧ t.tca.rows = s.tca.rows ∧
    (t.tca.level = s.tca.level → Only [.tca] [] s t) ∧
    (s.tca.level < t.tca.level → flag t Reg.tcaEvt 0 = true) ∧
    (t.tca.level < s.tca.level → flag t Reg.tcaEvt 1 = true) := by
  refine ends_of (core_thermalSample temp ha) ?_
  have hflag (b : Nat) (u : State) : flag (finish s u) Reg.tcaEvt b = flag u Reg.tcaEvt b :=
    flag_congr (rd_finish_below s (belowCounts_of_lt (by decide))) b
  rw [finish_tca, thermalSample_tca]
  refine ⟨rfl, rfl, rfl, fun h => ?_, fun h => ?_, fun h => ?_⟩
  · rw [thermalSample_stays h]
    exact (only_sampled s _).finished
  · rw [hflag, thermalSample_rises h]
    exact (sampled_noted 0 (by decide)).2
  · rw [hflag, thermalSample_falls h]
    exact (sampled_noted 1 (by decide)).2

/-- Settles O32: a new window restarts the count, a row access of the write lane is its grant and its row's write, and a sample
enters the level it calls for, whose event no account of the regulator can take away. -/
theorem rowAccessesAndThrottleFollowTheirRules : Obligations.RowAccessesAndThrottleFollowTheirRules := by
  unfold Obligations.RowAccessesAndThrottleFollowTheirRules
  intro s ha
  exact ⟨updateWindowStart_restarts ha, fun _ _ _ _ _ _ _ => rowAccess_writes ha, thermalSample_enters ha⟩

end Sys2Proof.Machine
end

section
namespace Sys2Proof.Machine

/-! ### A ternary command that takes its lane, or leaves it (R212, R216) -/

/-- In `t` the command has ended with report `r`: one completion waits to be posted, and its place is free (R332, R334). -/
def EndedWith (c : TCmd) (r : Report) (t : State) : Prop :=
  (∃ k ∈ t.tcr.compl, k.cmdId = c.cmdId ∧ k.status = r.status ∧ k.handle = r.handle ∧ k.restart = r.restart ∧ k.gen = r.gen) ∧
    cmdOf t c.id = none

/-- Taking a free value touches nothing but their count. -/
theorem only_draw (s : State) : Only [.draws] [] s (draw s) :=
  only_units (fun u hu => by cases u <;> simp [UnitName.same, draw] at *) (draw_regs s) (draw_pcie s)

section Lane
variable {s u : State} {c : TCmd}

theorem endedWith_ended (u : State) (c : TCmd) (r : Report) : EndedWith c r (ended u c r) :=
  ⟨⟨_, List.mem_append_right _ (List.mem_singleton.2 rfl), rfl, rfl, rfl, rfl, rfl⟩, cmdOf_ended u c r⟩

theorem EndedWith.congr {r : Report} {t : State} (h : EndedWith c r u) (e : t.tcr = u.tcr) : EndedWith c r t := by
  rw [EndedWith, e, cmdOf_congr e]
  exact h

/-- A command that waits in its lane and that no reset has dropped. -/
structure InFlight (s : State) (c : TCmd) : Prop where
  known : cmdOf s c.id = some c
  kept : s.tcr.gone.contains c.id = false

theorem InFlight.congr (h : InFlight s c) (e : u.tcr = s.tcr) : InFlight u c :=
  ⟨(cmdOf_congr e _).trans h.known, e ▸ h.kept⟩

theorem InFlight.mem (h : InFlight s c) : c ∈ s.tcr.cmds := List.mem_of_find?_eq_some h.known

theorem endedWith_complete (r : Report) (h : InFlight u c) : EndedWith c r (complete u c.id r) := by
  rw [complete_eq r h.known h.kept]
  exact endedWith_ended u c r

theorem only_complete (r : Report) (h : InFlight u c) : Only [.tcr] [] u (complete u c.id r) := by
  rw [complete_eq r h.known h.kept]
  exact only_ended u c r

/-- The end of a command that ends at its start: its completion, and nothing else. -/
theorem finish_complete (r : Report) (h : InFlight s c) :
    EndedWith c r (finish s (complete s c.id r)) ∧ Only [.tcr] [] s (finish s (complete s c.id r)) :=
  ⟨(endedWith_complete r h).congr (finish_tcr _ _), (only_complete r h).finished⟩

/-- What a lane holds of a command at work: its row accesses still to make, from `delay` cycles on. -/
def laneOp (s : State) (c : TCmd) (script : List RowOp) (delay handle : Nat) : TcaOp :=
  ⟨c.id, c.opcode, c.table, s.cycle + delay, script, 0, handle, c.series, []⟩

theorem laneOp_congr (h : u.cycle = s.cycle) (script : List RowOp) (delay handle : Nat) :
    laneOp u c script delay handle = laneOp s c script delay handle := by rw [laneOp, laneOp, h]

variable (u c) (script : List RowOp) (delay handle : Nat) (read : Bool)

theorem startTern_tcr : (startTern u c script delay handle read).tcr = (startCmd u c.id).tcr := by
  rw [startTern, presentRow_tcr]
  cases read <;> rfl

theorem startTern_read : (startTern u c script delay handle true).tca =
    { u.tca with rop := some (laneOp u c script delay handle) } := by
  rw [startTern, presentRow_tca]
  rfl

theorem startTern_write : (startTern u c script delay handle false).tca =
    { u.tca with wop := some (laneOp u c script delay handle) } := by
  rw [startTern, presentRow_tca]
  rfl

theorem startTern_rows : (startTern u c script delay handle read).tca.rows = u.tca.rows := by
  cases read
  · rw [startTern_write]
  · rw [startTern_read]

theorem only_startTern : Only [.tca, .rgl, .tcr] [] u (startTern u c script delay handle read) := by
  have started := only_startCmd u c.id
  cases read
  · exact ((started.trans (only_setTca _ _)).trans (only_presentRow _ false _)).mono (by simp) (by simp)
  · exact ((started.trans (only_setTca _ _)).trans (only_presentRow _ true _)).mono (by simp) (by simp)

/-- A command with no row access to make asks for no slot. -/
theorem only_startTern_nil : Only [.tca, .tcr] [] u (startTern u c [] delay handle read) := by
  have started := only_startCmd u c.id
  cases read
  · exact (started.trans (only_setTca _ _)).mono (by simp) (by simp)
  · exact (started.trans (only_setTca _ _)).mono (by simp) (by simp)

variable {u c}

/-- A started command stands in its lane as started. -/
theorem mem_startTern (h : c ∈ u.tcr.cmds) : { c with started := true } ∈ (startTern u c script delay handle read).tcr.cmds := by
  rw [startTern_tcr]
  exact mem_startCmd h

/-- The start of a command of the write lane: its row accesses, and no row written yet (R206, R212). -/
theorem finish_startTern_write (h : InFlight s c) :
    (finish s (startTern s c script delay handle false)).tca.wop = some (laneOp s c script delay handle) ∧
      { c with started := true } ∈ (finish s (startTern s c script delay handle false)).tcr.cmds ∧
      (finish s (startTern s c script delay handle false)).tca.rows = s.tca.rows ∧
      Only [.tca, .rgl, .tcr] [] s (finish s (startTern s c script delay handle false)) := by
  rw [finish_tca, finish_tcr]
  exact ⟨congrArg TcaSt.wop (startTern_write _ _ _ _ _), mem_startTern _ _ _ _ h.mem, startTern_rows _ _ _ _ _ _,
    (only_startTern _ _ _ _ _ _).finished⟩

end Lane
end Sys2Proof.Machine
end

section
namespace Sys2Proof.Machine

/-! ### SEARCH, READ and NEXT of a ternary table (R211, R213, R216) -/

section Search
variable {s : State} {c : TCmd} {d : TblDecl} {bs : List Byte} (ha : awake s = true) (ht : tblOf s c.table = some d)
  (hf : InFlight s c) (hh : ternHead s 1 true true = some c) (hi : c.input = some (some bs))
  (hok : addrOk s c.ring c.addr (ternLen d 1) false = true)
include ha ht hf hh hi hok

/-- A SEARCH whose key is uncorrectable ends with 0x0A, and the array's event is latched (R234, R425). -/
theorem tcaSearch_lost (hu : c.ue = true) (hd : d.isTern = true) : Ends .tcaSearch s fun t =>
    (∃ k ∈ t.tcr.compl, k.cmdId = c.cmdId ∧ k.status = 0x0A) ∧ flag t Reg.tcaEvt 5 = true ∧ cmdOf t c.id = none ∧
      Only [.tcr] [Reg.tcaEvt] s t := by
  have below : belowCounts Reg.tcaEvt := belowCounts_of_lt (by decide)
  have e : doTcaSearch s = complete (setEvt s Reg.tcaEvt 5) c.id
      (Report.plain 0x0A (if takesHandle c.opcode then c.handle else 0) (genOf s c.table)) := by
    simp [doTcaSearch, hh, ht, hi, hok, hu, inputLost, uncorrEvt, hd]
  have hv : InFlight (setEvt s Reg.tcaEvt 5) c := hf.congr (setEvt_tcr _ _ _)
  refine ends_of (core_tcaSearch ha) ?_
  rw [e]
  obtain ⟨⟨k, hk, hid, hst, _⟩, hnone⟩ := (endedWith_complete (Report.plain 0x0A _ (genOf s c.table)) hv).congr (finish_tcr s _)
  refine ⟨⟨k, hk, hid, hst⟩, ?_, hnone, ((only_setEvt s _ _).trans (only_complete _ hv)).finished⟩
  rw [flag_congr ((rd_finish_below s below).trans ((only_complete _ hv).rd_eq below (by simp)))]
  exact flag_setEvt_same _ _ _ (by decide)

/-- A SEARCH takes the read lane and presents its key for a slot as its ring's owner (R213). -/
theorem tcaSearch_asks (hu : c.ue = false) : Ends .tcaSearch s fun t =>
    (∃ r ∈ t.rgl.reqs, r.id = s.rgl.nextId ∧ r.slot = true ∧ r.master = ringMaster c.ring ∧
      r.purpose = .slotSearch (.cmd c.id) c.table (BitVec.ofNat 640 (fieldAt bs 0 (ternLen d 1))) none) ∧
    t.tca.rop = some (laneOp s c [] 0 c.handle) ∧ { c with started := true } ∈ t.tcr.cmds ∧ t.tca.rows = s.tca.rows ∧
    Only [.rgl, .tca, .tcr] [] s t := by
  have e : doTcaSearch s = present (startTern s c [] 0 c.handle true) (ringMaster c.ring) true
      (.slotSearch (.cmd c.id) c.table (BitVec.ofNat 640 (fieldAt bs 0 (ternLen d 1))) none) s.cycle [] := by
    simp [doTcaSearch, hh, ht, hi, hok, hu]
  have started := only_startTern_nil s c 0 c.handle true
  have hid : (startTern s c [] 0 c.handle true).rgl.nextId = s.rgl.nextId := by rw [started.1 .rgl (by simp)]
  refine ends_of (core_tcaSearch ha) ?_
  rw [e, finish_rgl, finish_tca, finish_tcr]
  refine ⟨⟨_, List.mem_append_right _ (List.mem_singleton.2 rfl), hid, rfl, rfl, rfl⟩, ?_, mem_startTern _ _ _ _ hf.mem,
    startTern_rows s c _ _ _ _, ((started.trans (only_setRgl _ _)).mono (by simp) (by simp)).finished⟩
  exact congrArg TcaSt.rop (startTern_read s c _ _ _)

end Search

/-- A handle that no longer stands is answered with MOVED (R211). -/
theorem ternMoved_status {s : State} {c : TCmd} {d : TblDecl} {r : Report} (h : ternMoved s c d = some r) : r.status = 2 := by
  unfold ternMoved at h
  dsimp only at h
  split at h
  · cases h
    rfl
  · cases h

section Read
variable {s : State} {c : TCmd} {d : TblDecl} (ha : awake s = true) (ht : tblOf s c.table = some d) (hf : InFlight s c)
  (hh : ternHead s 0x11 true false = some c)
include ha ht hf hh

/-- READ takes the lane for one row read per row of its entry, two cycles later (R213, R217). -/
theorem tcaRead_starts (hm : ternMoved s c d = none) (hok : addrOk s c.ring c.addr (ternLen d 0x11) true = true) :
    Ends .tcaRead s fun t =>
      t.tca.rop = some (laneOp s c ((List.range (entryRows d)).map (fun i => RowOp.read (c.handle + i))) 2 c.handle) ∧
      { c with started := true } ∈ t.tcr.cmds ∧ t.tca.rows = s.tca.rows ∧ Only [.tca, .rgl, .tcr] [] s t := by
  have e : doTcaRead s =
      startTern s c ((List.range (entryRows d)).map (fun i => RowOp.read (c.handle + i))) 2 c.handle true := by
    simp [doTcaRead, hh, ht, hm, hok]
  refine ends_of (core_tcaRead ha) ?_
  rw [e, finish_tca, finish_tcr]
  exact ⟨congrArg TcaSt.rop (startTern_read _ _ _ _ _), mem_startTern _ _ _ _ hf.mem, startTern_rows _ _ _ _ _ _,
    (only_startTern _ _ _ _ _ _).finished⟩

/-- READ of an entry that has moved ends with its place now (R211). -/
theorem tcaRead_moved {r : Report} (hm : ternMoved s c d = some r) : Ends .tcaRead s fun t =>
    (∃ k ∈ t.tcr.compl, k.cmdId = c.cmdId ∧ k.status = 2 ∧ k.handle = r.handle ∧ k.restart = r.restart) ∧
      cmdOf t c.id = none ∧ Only [.tcr] [] s t := by
  have e : doTcaRead s = complete s c.id r := by simp only [doTcaRead, hh, ht, hm]
  refine ends_of (core_tcaRead ha) ?_
  rw [e]
  obtain ⟨⟨⟨k, hk, hid, hst, hha, hre, _⟩, hnone⟩, hon⟩ := finish_complete r hf
  exact ⟨⟨k, hk, hid, hst.trans (ternMoved_status hm), hha, hre⟩, hnone, hon⟩

end Read

section Next
variable {s : State} {c : TCmd} {d : TblDecl} (ht : tblOf s c.table = some d) (hf : InFlight s c)
  (hm : c.start = true ∨ ternMoved s c d = none)
include ht hf hm

omit ht hf in
/-- NEXT with START names no entry, and so none that can have moved (R211, R213). -/
theorem next_not_moved : (if c.start = true then none else ternMoved s c d) = none := by
  obtain h | h := hm <;> simp [h]

/-- NEXT takes the read lane for at most 16 cycles (R211, R217). -/
theorem tcaNext_starts (ha : awake s = true) (hh : ternHead s 2 true false = some c)
    (hok : addrOk s c.ring c.addr (ternLen d 2) true = true) : Ends .tcaNext s fun t =>
      (∃ n, 1 ≤ n ∧ n ≤ 16 ∧ t.tca.rop = some (laneOp s c [] n c.handle)) ∧
      { c with started := true } ∈ t.tcr.cmds ∧ t.tca.rows = s.tca.rows ∧ Only [.tca, .tcr, .draws] [] s t := by
  have e : doTcaNext s = startTern (draw s) c [] (16 - (Config.early s.draws).val) c.handle true := by
    simp [doTcaNext, hh, ht, next_not_moved hm, hok]
  refine ends_of (core_tcaNext ha) ?_
  rw [e, finish_tca, finish_tcr]
  refine ⟨⟨16 - (Config.early s.draws).val, ?_, Nat.sub_le _ _, congrArg TcaSt.rop (startTern_read _ _ _ _ _)⟩,
    mem_startTern _ _ _ _ hf.mem, startTern_rows (draw s) c _ _ _ _,
    (((only_draw s).trans (only_startTern_nil _ _ _ _ _)).mono (by simp) (by simp)).finished⟩
  have := (Config.early s.draws).isLt
  omega

end Next

/-! ### What NEXT finds once its cycles are over (R207, R211) -/

/-- The lowest of a list is the one below which none lies. -/
theorem lowest_eq_some {l : List Nat} {h : Nat} (hl : h ∈ l) (hmin : ∀ x ∈ l, h ≤ x) : lowest l = some h := by
  cases e : lowest l with
  | none =>
    rw [minByKey_eq_none e] at hl
    cases hl
  | some x =>
    obtain ⟨hx, hle⟩ := minByKey_spec e
    exact congrArg some (Nat.le_antisymm (hle h hl) (hmin x hx))

section NextEntry
variable {s : State} {c : TCmd} {d : TblDecl}

/-- With no move pair open, NEXT finds the lowest valid entry above its handle, or of all with START. -/
theorem nextEntry_lowest {h : Nat} (hp : s.tca.movePair = none) (hv : h ∈ validHeads s d) (hc : c.start = true ∨ c.handle < h)
    (hmin : ∀ x ∈ validHeads s d, c.start = true ∨ c.handle < x → h ≤ x) : nextEntry s c d = some h := by
  rw [nextEntry, hp]
  refine lowest_eq_some (List.mem_filter.2 ⟨hv, by simpa using hc⟩) fun x hx => ?_
  obtain ⟨hxv, hxc⟩ := List.mem_filter.1 hx
  exact hmin x hxv (by simpa using hxc)

theorem nextEntry_none (hn : ∀ x ∈ validHeads s d, ¬(c.start = true ∨ c.handle < x)) : nextEntry s c d = none := by
  rw [nextEntry, List.filter_eq_nil_iff.2]
  · rfl
  · intro x hx
    have := hn x hx
    simp only [Bool.and_eq_true, Bool.or_eq_true, decide_eq_true_eq]
    exact fun h => this h.1

end NextEntry

/-- A read command that ends with a status other than 0x0A frees its lane (R212, R216). -/
theorem endTern_read (s : State) (o : TcaOp) {status : Nat} (h : status ≠ 0x0A) : endTern s true o status =
    complete { s with tca := { s.tca with rop := none } } o.id (ternReport s o status) := by
  rw [endTern, if_neg h]
  rfl

/-- The same for the write lane. -/
theorem endTern_write (s : State) (o : TcaOp) {status : Nat} (h : status ≠ 0x0A) : endTern s false o status =
    complete { s with tca := { s.tca with wop := none } } o.id (ternReport s o status) := by
  rw [endTern, if_neg h]
  rfl

/-- Before its cycles are over nothing is found (R217). -/
theorem nextFound_early {s : State} {o : TcaOp} (hr : s.tca.rop = some o) (h : s.cycle < o.ready) : nextFound s = s := by
  have late : decide (o.ready ≤ s.cycle) = false := decide_eq_false (by omega)
  simp [nextFound, hr, late]

section Found
variable {s : State} {c : TCmd} {d : TblDecl} {o : TcaOp} (ht : tblOf s c.table = some d) (hf : InFlight s c)
  (hm : c.start = true ∨ ternMoved s c d = none) (hr : s.tca.rop = some o) (hid : o.id = c.id) (hop : o.opcode = 2)
  (htab : o.table = c.table) (hsc : o.script = []) (hrdy : o.ready ≤ s.cycle)
include ht hf hm hr hid hop htab hsc hrdy

/-- The entry found is read row by row (R213). -/
theorem nextFound_reads {h : Nat} (hn : nextEntry s c d = some h) :
    (nextFound s).tca.rop = some { o with
      script := (List.range (entryRows d)).map (fun i => RowOp.read (h + i))
      handle := h } ∧ (nextFound s).tca.rows = s.tca.rows ∧ Only [.tca, .rgl] [] s (nextFound s) := by
  have e : nextFound s = presentRow { s with tca := { s.tca with rop := some { o with
      script := (List.range (entryRows d)).map (fun i => RowOp.read (h + i))
      handle := h } } } true s.cycle := by
    simp [nextFound, hr, hop, hsc, hrdy, hid, hf.known, htab, ht, next_not_moved hm, hn]
  rw [e, presentRow_tca]
  exact ⟨rfl, rfl, (only_setTca s _).trans (only_presentRow _ _ _)⟩

/-- With no entry left NEXT ends with 0x0C and its handle as given (R211, R213). -/
theorem nextFound_ends (hha : o.handle = c.handle) (hn : nextEntry s c d = none) :
    (∃ k ∈ (nextFound s).tcr.compl, k.cmdId = c.cmdId ∧ k.status = 0x0C ∧ k.handle = c.handle ∧
      k.gen = s.tca.gen.nat c.table) ∧
    cmdOf (nextFound s) c.id = none ∧ (nextFound s).tca.rop = none ∧ Only [.tca, .tcr] [] s (nextFound s) := by
  have e : nextFound s = complete { s with tca := { s.tca with rop := none } } c.id (ternReport s o 0x0C) := by
    rw [← hid, ← endTern_read s o (by decide)]
    simp [nextFound, hr, hop, hsc, hrdy, hid, hf.known, htab, ht, next_not_moved hm, hn]
  have freed : InFlight { s with tca := { s.tca with rop := none } } c := hf.congr rfl
  have left := only_complete (ternReport s o 0x0C) freed
  obtain ⟨⟨k, hk, hcid, hst, hkh, _, hg⟩, hnone⟩ := endedWith_complete (ternReport s o 0x0C) freed
  rw [e]
  refine ⟨⟨k, hk, hcid, hst, hkh.trans hha, hg.trans ?_⟩, hnone, ?_, (only_setTca s _).trans left⟩
  · rw [← htab]
    rfl
  · exact congrArg TcaSt.rop (left.1 .tca (by simp))

end Found

/-- Settles O30: SEARCH, READ and NEXT by what each makes of its lane or of its completion, and NEXT's end by the entry it
finds. -/
theorem ternaryCommandsSearchReadAndWalk : Obligations.TernaryCommandsSearchReadAndWalk := by
  unfold Obligations.TernaryCommandsSearchReadAndWalk
  intro s c d ha ht hk hg
  have hf : InFlight s c := ⟨hk, hg⟩
  refine ⟨fun hh ⟨_, hi⟩ hu hd hok => tcaSearch_lost ha ht hf hh hi hok hu hd,
    fun _ hh hi hu hok => tcaSearch_asks ha ht hf hh hi hok hu, fun hh hm hok => tcaRead_starts ha ht hf hh hm hok,
    fun _ hh hm => tcaRead_moved ha ht hf hh hm, fun hh hm hok => tcaNext_starts ht hf hm ha hh hok, ?_⟩
  intro o hr hid hop htab hha hsc hm
  exact ⟨nextFound_early hr,
    fun h hrdy hp hv hc hmin => nextFound_reads ht hf hm hr hid hop htab hsc hrdy (nextEntry_lowest hp hv hc hmin),
    fun hrdy hn => nextFound_ends ht hf hm hr hid hop htab hsc hrdy hha (nextEntry_none hn)⟩

end Sys2Proof.Machine
end

section
namespace Sys2Proof.Machine

/-! ### INSERT, WRITE, DELETE, MOVE and WIPE of a ternary table (R206-R209, R213, R219) -/

section Insert
variable {s : State} {c : TCmd} {d : TblDecl} {img : List Byte} (ha : awake s = true) (ht : tblOf s c.table = some d)
  (hf : InFlight s c) (hi : c.input = some (some img)) (hu : c.ue = false) (himg : imageOk d img = true)
include ha ht hf hi hu himg

/-- INSERT into a table that is not ordered writes its image into the lowest free slot (R208, R213). -/
theorem tcaInsert_starts {h : Nat} (hh : ternHead s 3 false true = some c) (hord : isOrdered d = false)
    (hok : addrOk s c.ring c.addr (ternLen d 3) false = true) (hcap : tcaEntries s c.table d < capacity s d)
    (hfree : (freeSlots s d (firstRow d) (endRow d)).head? = some h) : Ends .tcaInsert s fun t =>
      t.tca.wop = some (laneOp s c (writeScript d h img) 8 h) ∧ { c with started := true } ∈ t.tcr.cmds ∧
      t.tca.rows = s.tca.rows ∧ Only [.tca, .rgl, .tcr] [] s t := by
  have e : doTcaInsert s = startTern s c (writeScript d h img) 8 h false := by
    simp [doTcaInsert, hh, ht, hi, hok, himg, hu, hord, hfree, Nat.not_le.2 hcap]
  refine ends_of (core_tcaInsert ha) ?_
  rw [e]
  exact finish_startTern_write _ _ _ hf

/-- INSERT into a full table ends with 4 (R208). -/
theorem tcaInsert_full (hh : ternHead s 3 false true = some c) (hok : addrOk s c.ring c.addr (ternLen d 3) false = true)
    (hcap : capacity s d ≤ tcaEntries s c.table d) : Ends .tcaInsert s fun t =>
      (∃ k ∈ t.tcr.compl, k.cmdId = c.cmdId ∧ k.status = 4) ∧ cmdOf t c.id = none ∧ Only [.tcr, .draws] [] s t := by
  have e : doTcaInsert s = completeOpen s c.id 4 (s.tca.gen.nat c.table) := by
    simp [doTcaInsert, hh, ht, hi, hok, himg, hu, hcap]
  have hv : InFlight (draw s) c := hf.congr (draw_tcr s)
  refine ends_of (core_tcaInsert ha) ?_
  rw [e, completeOpen]
  obtain ⟨⟨k, hk, hid, hst, _⟩, hnone⟩ :=
    (endedWith_complete (Report.plain 4 _ (s.tca.gen.nat c.table)) hv).congr (finish_tcr s _)
  exact ⟨⟨k, hk, hid, hst⟩, hnone, (((only_draw s).trans (only_complete _ hv)).mono (by simp) (by simp)).finished⟩

/-- WRITE puts its image into the named slot, or ends with 5 when an entry stands there (R213). -/
theorem tcaWrite_cases (hh : ternHead s 0x10 false true = some c)
    (hok : addrOk s c.ring c.addr (ternLen d 0x10) false = true) : Ends .tcaWrite s fun t =>
      ((trow s c.handle).valid = false →
        t.tca.wop = some (laneOp s c (writeScript d c.handle img) 2 c.handle) ∧
        t.tca.rows = s.tca.rows ∧ Only [.tca, .rgl, .tcr] [] s t) ∧
      ((trow s c.handle).valid = true →
        (∃ k ∈ t.tcr.compl, k.cmdId = c.cmdId ∧ k.status = 5 ∧ k.handle = c.handle) ∧ Only [.tcr] [] s t) := by
  have e : doTcaWrite s = if (trow s c.handle).valid then complete s c.id (Report.plain 5 c.handle (s.tca.gen.nat c.table))
      else startTern s c (writeScript d c.handle img) 2 c.handle false := by
    simp [doTcaWrite, hh, ht, hi, hok, himg, hu]
  refine ends_of (core_tcaWrite ha) ⟨fun hv => ?_, fun hv => ?_⟩
  · rw [e, if_neg (by simp [hv])]
    obtain ⟨hwop, _, hrows, hon⟩ := finish_startTern_write (writeScript d c.handle img) 2 c.handle hf
    exact ⟨hwop, hrows, hon⟩
  · rw [e, if_pos hv]
    obtain ⟨⟨⟨k, hk, hid, hst, hkh, _⟩, _⟩, hon⟩ := finish_complete (Report.plain 5 c.handle (s.tca.gen.nat c.table)) hf
    exact ⟨⟨k, hk, hid, hst, hkh⟩, hon⟩

end Insert

section Delete
variable {s : State} {c : TCmd} {d : TblDecl} (ha : awake s = true) (ht : tblOf s c.table = some d) (hf : InFlight s c)
include ha ht hf

/-- DELETE clears VALID by one row access, or ends with 6 when no entry stands there (R213). -/
theorem tcaDelete_cases (hh : ternHead s 4 false false = some c) (hm : ternMoved s c d = none) : Ends .tcaDelete s fun t =>
    ((trow s c.handle).valid = true →
      t.tca.wop = some (laneOp s c [.clearValid c.handle] 2 c.handle) ∧
      t.tca.rows = s.tca.rows ∧ Only [.tca, .rgl, .tcr] [] s t) ∧
    ((trow s c.handle).valid = false →
      (∃ k ∈ t.tcr.compl, k.cmdId = c.cmdId ∧ k.status = 6 ∧ k.handle = c.handle) ∧ Only [.tcr] [] s t) := by
  have e : doTcaDelete s = if (trow s c.handle).valid then startTern s c [.clearValid c.handle] 2 c.handle false
      else complete s c.id (Report.plain 6 c.handle (s.tca.gen.nat c.table)) := by
    cases hv : (trow s c.handle).valid <;> simp [doTcaDelete, hh, ht, hm, hv]
  refine ends_of (core_tcaDelete ha) ⟨fun hv => ?_, fun hv => ?_⟩
  · rw [e, if_pos hv]
    obtain ⟨hwop, _, hrows, hon⟩ := finish_startTern_write [.clearValid c.handle] 2 c.handle hf
    exact ⟨hwop, hrows, hon⟩
  · rw [e, if_neg (by simp [hv])]
    obtain ⟨⟨⟨k, hk, hid, hst, hkh, _⟩, _⟩, hon⟩ := finish_complete (Report.plain 6 c.handle (s.tca.gen.nat c.table)) hf
    exact ⟨⟨k, hk, hid, hst, hkh⟩, hon⟩

/-- MOVE to a free slot relocates its entry (R207, R209). -/
theorem tcaMove_starts (hh : ternHead s 5 false false = some c) (hm : ternMoved s c d = none)
    (hv : (trow s c.handle).valid = true) (hdst : (trow s c.dst).valid = false) (hord : isOrdered d = false) :
    Ends .tcaMove s fun t =>
      t.tca.wop = some (laneOp s c (relocScript d c.handle c.dst) 2 c.dst) ∧
      t.tca.rows = s.tca.rows ∧ Only [.tca, .rgl, .tcr] [] s t := by
  have e : doTcaMove s = startTern s c (relocScript d c.handle c.dst) 2 c.dst false := by
    simp [doTcaMove, hh, ht, hm, hv, hdst, hord]
  refine ends_of (core_tcaMove ha) ?_
  rw [e]
  obtain ⟨hwop, _, hrows, hon⟩ := finish_startTern_write (relocScript d c.handle c.dst) 2 c.dst hf
  exact ⟨hwop, hrows, hon⟩

end Delete

/-- What WIPE does before its row accesses: the break of the table's ledger, a generation, and the table under wipe (R219). -/
def wipeBegun (s : State) (t : Nat) : State :=
  { ledgerBreak s 3 t with tca := { (ledgerBreak s 3 t).tca with
    gen := (ledgerBreak s 3 t).tca.gen.setNat t (((ledgerBreak s 3 t).tca.gen.nat t + 1) % 65536)
    wiping := (ledgerBreak s 3 t).tca.wiping.set (fun _ => false) t true } }

section Wipe
variable (s : State) (t : Nat)

theorem only_wipeBegun : Only [.tca] [Reg.topLedgerBreak] s (wipeBegun s t) :=
  (only_ledgerBreak s 3 t).trans (only_setTca _ _)

theorem wipeBegun_tca : (wipeBegun s t).tca = { s.tca with
    gen := s.tca.gen.setNat t ((s.tca.gen.nat t + 1) % 65536)
    wiping := s.tca.wiping.set (fun _ => false) t true } := by
  rw [wipeBegun, ledgerBreak, wr_tca]

theorem wipeBegun_cycle : (wipeBegun s t).cycle = s.cycle := by rw [wipeBegun, ledgerBreak, wr_cycle]

end Wipe

/-- WIPE counts a generation, records the break of its table's ledger, and clears block by block (R219). -/
theorem tcaWipe_starts {s : State} {c : TCmd} {d : TblDecl} (ha : awake s = true) (ht : tblOf s c.table = some d)
    (hh : ternHead s 0x13 false false = some c) : Ends .tcaWipe s fun t =>
      t.tca.gen.nat c.table = (s.tca.gen.nat c.table + 1) % 65536 ∧ t.tca.wiping.get (fun _ => false) c.table = true ∧
      t.tca.wop = some (laneOp s c ((List.range d.blocks).map (fun b => RowOp.wipeBlock (d.first + b))) 0 0) ∧
      t.tca.rows = s.tca.rows ∧ Only [.tca, .rgl, .tcr] [Reg.topLedgerBreak] s t := by
  have e : doTcaWipe s = startTern (wipeBegun s c.table) c
      ((List.range d.blocks).map (fun b => RowOp.wipeBlock (d.first + b))) 0 0 false := by
    simp only [doTcaWipe, hh, ht, wipeBegun]
  refine ends_of (core_tcaWipe ha) ?_
  rw [e, finish_tca, startTern_write, wipeBegun_tca, laneOp_congr (wipeBegun_cycle s c.table)]
  exact ⟨KMap.get_set_same _ _ _ _, by simp, rfl, rfl,
    (((only_wipeBegun s _).trans (only_startTern _ _ _ _ _ _)).mono (by simp) (by simp)).finished⟩

/-! ### UPDATE of a ternary table (R213, R217) -/

/-- Before its two cycles are over nothing is written. -/
theorem updateDone_early {s : State} {o : TcaOp} (hw : s.tca.wop = some o) (h : s.cycle < o.ready) : updateDone s = s := by
  have late : decide (o.ready ≤ s.cycle) = false := decide_eq_false (by omega)
  simp [updateDone, hw, late]

/-- The array after an UPDATE: one result word replaced, and a free lane (R187, R213). -/
def resultWritten (s : State) (h v : Nat) : State :=
  { wordWritten s 2 h with tca := { (wordWritten s 2 h).tca with
    result := (wordWritten s 2 h).tca.result.setNat h v
    wop := none } }

theorem resultWritten_tca (s : State) (h v : Nat) : (resultWritten s h v).tca = { s.tca with
    result := s.tca.result.setNat h v
    wop := none } := by
  have kept : (wordWritten s 2 h).tca = s.tca := (spares_wordWritten s 2 h).units .tca (by simp)
  rw [resultWritten, kept]

theorem keeps_resultWritten (s : State) (h v : Nat) : keepsUnits [.tca, .intg] s (resultWritten s h v) := fun u hu => by
  rw [List.mem_cons, not_or] at hu
  exact u.same_trans ((spares_wordWritten s 2 h).units u hu.2) ((only_setTca _ _).1 u (by simpa using hu.1))

section Update
variable {s : State} {c : TCmd} {bs : List Byte} (hf : InFlight s c) (hi : c.input = some (some bs))
include hf hi

/-- UPDATE takes the write lane for two cycles and asks for no slot. -/
theorem tcaUpdate_starts {d : TblDecl} (ha : awake s = true) (ht : tblOf s c.table = some d)
    (hh : ternHead s 0x12 false true = some c) (hu : c.ue = false) (hm : ternMoved s c d = none)
    (hok : addrOk s c.ring c.addr 8 false = true) (hv : (trow s c.handle).valid = true) : Ends .tcaUpdate s fun t =>
      t.tca.wop = some (laneOp s c [] 2 c.handle) ∧ { c with started := true } ∈ t.tcr.cmds ∧
      t.tca.result = s.tca.result ∧ t.tca.rows = s.tca.rows ∧ Only [.tca, .tcr] [] s t := by
  have e : doTcaUpdate s = startTern s c [] 2 c.handle false := by
    simp [doTcaUpdate, hh, ht, hi, hm, hok, hu, hv]
  refine ends_of (core_tcaUpdate ha) ?_
  rw [e, finish_tca, finish_tcr]
  refine ⟨congrArg TcaSt.wop (startTern_write _ _ _ _ _), mem_startTern _ _ _ _ hf.mem,
    by rw [startTern_write], startTern_rows _ _ _ _ _ _, (only_startTern_nil _ _ _ _ _).finished⟩

/-- UPDATE's end is its store write, then its completion. -/
theorem updateDone_ends {o : TcaOp} (hw : s.tca.wop = some o) (hid : o.id = c.id) (hop : o.opcode = 0x12)
    (hrdy : o.ready ≤ s.cycle) : updateDone s = complete (resultWritten s o.handle (fieldAt bs 0 8)) c.id
      (ternReport (resultWritten s o.handle (fieldAt bs 0 8)) o 0) := by
  have known : cmdOf s o.id = some c := hid ▸ hf.known
  rw [updateDone, hw]
  simp only [hop, hrdy, known, hi, decide_true, Bool.and_true, if_true]
  rw [endTern_write _ _ (by decide), hid]
  rfl

/-- UPDATE's end: the new result word, a free lane and status 0. -/
theorem updateDone_writes {o : TcaOp} (hw : s.tca.wop = some o) (hid : o.id = c.id) (hop : o.opcode = 0x12)
    (hrdy : o.ready ≤ s.cycle) :
    (updateDone s).tca.result.nat o.handle = fieldAt bs 0 8 ∧
      (∀ h, h ≠ o.handle → (updateDone s).tca.result.nat h = s.tca.result.nat h) ∧
      (updateDone s).tca.rows = s.tca.rows ∧ (updateDone s).tca.wop = none ∧
      (∃ k ∈ (updateDone s).tcr.compl, k.cmdId = c.cmdId ∧ k.status = 0 ∧ k.handle = o.handle) ∧
      cmdOf (updateDone s) c.id = none ∧ keepsUnits [.tca, .tcr, .intg] s (updateDone s) := by
  have written := keeps_resultWritten s o.handle (fieldAt bs 0 8)
  have hv : InFlight (resultWritten s o.handle (fieldAt bs 0 8)) c := hf.congr (written .tcr (by simp))
  have left := only_complete (ternReport (resultWritten s o.handle (fieldAt bs 0 8)) o 0) hv
  obtain ⟨⟨k, hk, hcid, hst, hkh, _⟩, hnone⟩ :=
    endedWith_complete (ternReport (resultWritten s o.handle (fieldAt bs 0 8)) o 0) hv
  rw [updateDone_ends hf hi hw hid hop hrdy, left.1 .tca (by simp), resultWritten_tca]
  refine ⟨KMap.get_set_same _ _ _ _, fun h hh => KMap.get_set_ne _ _ _ hh, rfl, rfl, ⟨k, hk, hcid, hst, hkh⟩, hnone, ?_⟩
  have kept : [UnitName.tca, .intg] ⊆ [.tca, .tcr, .intg] := by decide
  exact fun u hu => u.same_trans (written u (fun e => hu (kept e))) (left.1 u (fun e => hu (by simp [List.mem_singleton.1 e])))

end Update

/-- Settles O31: each command by the branch it takes, the start of its lane or its completion, and UPDATE's end by its one store
write. -/
theorem ternaryCommandsWriteEntries : Obligations.TernaryCommandsWriteEntries := by
  unfold Obligations.TernaryCommandsWriteEntries
  intro s c d ha ht hk hg
  have hf : InFlight s c := ⟨hk, hg⟩
  refine ⟨fun _ _ hh hi hu hord hok himg hcap hfree => tcaInsert_starts ha ht hf hi hu himg hh hord hok hcap hfree,
    fun _ hh hi hu hok himg hcap => tcaInsert_full ha ht hf hi hu himg hh hok hcap,
    fun _ hh hi hu hok himg => tcaWrite_cases ha ht hf hi hu himg hh hok,
    tcaDelete_cases ha ht hf, tcaMove_starts ha ht hf,
    fun _ hh hi hu hm hok hv => tcaUpdate_starts hf hi ha ht hh hu hm hok hv,
    fun o bs hw hid hop hi => ⟨updateDone_early hw, updateDone_writes hf hi hw hid hop⟩, tcaWipe_starts ha ht⟩

end Sys2Proof.Machine
end

section
namespace Sys2Proof.Machine

/-! ### A DRAM table's command: its checks, its first round, its key (R244, R247, R256, R268, R554) -/

/-- The split of a table depends on the weights alone (R245). -/
theorem subSize_congr {s u : State} (hw : u.hsh.share = s.hsh.share) (t : Nat) (d : TblDecl) (j : Nat) :
    subSize u t d j = subSize s t d j := by
  have weights : weight u t = weight s t := funext fun i => by rw [weight, weight, hw]
  simp only [subSize, weights]

/-- Where the hash of a key points depends on the weights and the seed alone (R241, R242, R245). -/
theorem candidates_congr {s u : State} (hw : u.hsh.share = s.hsh.share) (hr : u.regs = s.regs) (t : Nat) (d : TblDecl)
    (v j : Nat) : candidates u t d v j = candidates s t d v j := by
  have hashed : hashes u t d v j = hashes s t d v j := by simp only [hashes, rd, hr]
  rw [candidates, candidates, subSize_congr hw, hashed]

/-- The two candidates of a key lie in different channel pairs (R242). -/
theorem candidates_pairs_ne (s : State) (t : Nat) (d : TblDecl) (v j : Nat) :
    (candidates s t d v j).1 % 4 ≠ (candidates s t d v j).2 % 4 := by
  unfold candidates
  dsimp only
  generalize (hashes s t d v j).1 * subSize s t d j / 2 ^ 32 = a
  generalize (hashes s t d v j).2 * subSize s t d j / 2 ^ 32 = b
  split
  · rename_i same
    have flipped : (b ^^^ 1) % 4 = (b % 4) ^^^ 1 := Nat.xor_mod_two_pow (n := 2)
    have small : b % 4 < 4 := Nat.mod_lt _ (by decide)
    rw [flipped, ← same]
    generalize b % 4 = x at small
    interval_cases x <;> decide
  · rename_i apart
    exact fun e => apart e.symm

section Checks
variable {s : State} {c : TCmd} {moved : Option Report} {len : Nat} {out : Bool} {bad : List Byte → Bool}

/-- A command passes: its table is not being wiped, its handle has not moved, its ADDR is good, its input is here without error
and in order, when it has one (R554). -/
theorem dramChecks_pass {bs : Option (List Byte)} (hw : hshWiping s c.table = false) (hm : moved = none)
    (hok : len ≠ 0 → addrOk s c.ring c.addr len out = true) (hi : c.input = bs.map some)
    (hb : ∀ x, bs = some x → bad x = false ∧ c.ue = false) : dramChecks s c moved len out bad = none := by
  cases bs with
  | none => simpa [dramChecks, hw, hm, hi] using hok
  | some x =>
    obtain ⟨good, clean⟩ := hb x rfl
    simpa [dramChecks, hw, hm, hi, good, clean] using hok

/-- A table being wiped refuses with 0x0E, before anything else is looked at (R270, R554). -/
theorem dramChecks_wiping (hw : hshWiping s c.table = true) :
    dramChecks s c moved len out bad = some (refuse s c 0x0E (s.hsh.gen.nat c.table)) := by
  simp [dramChecks, hw]

/-- A handle that has moved ends the command next (R269, R554). -/
theorem dramChecks_moved {r : Report} (hw : hshWiping s c.table = false) :
    dramChecks s c (some r) len out bad = some (complete s c.id r) := by
  simp [dramChecks, hw]

/-- A handle that no longer stands is answered with MOVED (R211, R269). -/
theorem dramMoved_status {r : Report} (h : dramMoved s c = some r) : r.status = 2 := by
  unfold dramMoved at h
  dsimp only at h
  split at h
  · cases h
    rfl
  · cases h

end Checks

section Begin
variable (s : State) (c : TCmd) (o : HashOp) (gs : List Gran)

/-- A command begins as an operation of the engine, of which nothing else changes: no entry, filter or counter (R268). -/
theorem beginHop_hsh : (beginHop s c o gs).hsh = { s.hsh with ops := s.hsh.ops ++ [o] } := by
  unfold beginHop
  dsimp only
  split <;> rfl

theorem beginHop_tcr : (beginHop s c o gs).tcr = (startCmd s c.id).tcr := by
  unfold beginHop
  dsimp only
  split <;> rfl

theorem only_beginHop : Only [.hsh, .rgl, .tcr] [] s (beginHop s c o gs) := by
  have begun := (only_startCmd s c.id).trans (only_setHsh (startCmd s c.id) { (startCmd s c.id).hsh with
    ops := (startCmd s c.id).hsh.ops ++ [o] })
  unfold beginHop
  dsimp only
  split
  · exact begun.mono (by simp) (by simp)
  · exact (begun.trans (only_setRgl _ _)).mono (by simp) (by simp)

/-- Its first round of reads is asked for two cycles later (R268). -/
theorem beginHop_asks (h : gs ≠ []) : ∃ r ∈ (beginHop s c o gs).rgl.reqs, r.id = s.rgl.nextId ∧ r.purpose = .hashCmd c.id ∧
    r.since = s.cycle + 2 ∧ r.grans = gs := by
  rw [beginHop, if_neg h]
  exact ⟨_, List.mem_append_right _ (List.mem_singleton.2 rfl), rfl, rfl, rfl, rfl⟩

end Begin

/-- A command that takes its place in the engine leaves it otherwise as it was, and has asked for its first round (R268). -/
theorem finish_beginHop (s : State) (c : TCmd) (o : HashOp) {gs : List Gran} (h : gs ≠ []) :
    (finish s (beginHop s c o gs)).hsh = { s.hsh with ops := s.hsh.ops ++ [o] } ∧
      (∃ r ∈ (finish s (beginHop s c o gs)).rgl.reqs, r.id = s.rgl.nextId ∧ r.purpose = .hashCmd c.id ∧
        r.since = s.cycle + 2 ∧ r.grans = gs) ∧ Only [.hsh, .rgl, .tcr] [] s (finish s (beginHop s c o gs)) := by
  rw [finish_hsh, finish_rgl]
  exact ⟨beginHop_hsh s c o gs, beginHop_asks s c o gs h, (only_beginHop s c o gs).finished⟩

/-! ### SEARCH gives its key to the engine (R244, R247, R263) -/

section Key
variable {s : State} (m t : Nat) (who : Asker) (key : Key) (stamp : Bool)

/-- With no key waiting and no key left to take in this cycle, the key waits (R244). -/
theorem issueHash_waits (hk : s.hsh.keys = []) (h : keysLeft s = 0) :
    issueHash s m t who key stamp s.cycle =
      { s with hsh := { s.hsh with keys := [(s.cycle, m, who, t, key, stamp)] } } := by
  have full : keysLeft { s with hsh := { s.hsh with keys := [(s.cycle, m, who, t, key, stamp)] } } = 0 := h
  rw [issueHash, hk]
  simp [takeKeys, insertKey, full]

/-- The engine without waiting keys, one more counted in this cycle (R244). -/
def keyCounted (s : State) : State :=
  { s with hsh := { s.hsh with
    keys := []
    keyCycle := s.cycle
    keyCount := 4 - keysLeft s + 1 } }

/-- With no key waiting and one left to take in this cycle, the key is taken at once (R244). -/
theorem issueHash_takes (hk : s.hsh.keys = []) (h : 0 < keysLeft s) :
    issueHash s m t who key stamp s.cycle = takeKey (keyCounted s) (s.cycle, m, who, t, key, stamp) := by
  obtain ⟨n, left⟩ := Nat.exists_eq_succ_of_ne_zero h.ne'
  have fresh : keysLeft { s with hsh := { s.hsh with keys := [(s.cycle, m, who, t, key, stamp)] } } = n + 1 := left
  rw [issueHash, hk, keyCounted, left]
  simp [takeKeys, insertKey, fresh]

/-- A key taken is one fewer that the engine can take in this cycle. -/
theorem keysLeft_keyCounted (s : State) : keysLeft (keyCounted s) = keysLeft s - 1 := by
  have four : keysLeft s ≤ 4 := by
    unfold keysLeft
    split <;> omega
  rw [keysLeft, keyCounted]
  simp only [if_true]
  omega

theorem keysLeft_congr {u v : State} (hh : u.hsh.keyCycle = v.hsh.keyCycle) (hn : u.hsh.keyCount = v.hsh.keyCount)
    (hc : u.cycle = v.cycle) : keysLeft u = keysLeft v := by rw [keysLeft, keysLeft, hh, hn, hc]

variable {t} {d : TblDecl} (k : Nat) (ht : tblOf s t = some d) (hw : hshWiping s t = false)
include ht hw

/-- A key of an exact-match table asks for its two candidates two cycles later (R244). -/
theorem takeKey_exact (h : d.kind ≠ 5) : takeKey s (k, m, who, t, key, stamp) =
    present s m false (.hashSearch who t key stamp) (s.cycle + 2)
      [Gran.rd (d.base + (candidates s t d key.toNat 0).1), Gran.rd (d.base + (candidates s t d key.toNat 0).2)] := by
  simp [takeKey, ht, hw, h]

/-- A key of a table of prefixes waits six cycles for hash and filter (R247). -/
theorem takeKey_prefix (h : d.kind = 5) : takeKey s (k, m, who, t, key, stamp) =
    { s with hsh := { s.hsh with waiting := s.hsh.waiting ++ [(s.cycle + 6, m, who, t, key, stamp)] } } := by
  simp [takeKey, ht, hw, h]

/-- Taking a key leaves the keys that wait and the count of those taken, and touches the engine or the regulator alone. -/
theorem takeKey_keeps : (takeKey s (k, m, who, t, key, stamp)).hsh.keys = s.hsh.keys ∧
    keysLeft (takeKey s (k, m, who, t, key, stamp)) = keysLeft s ∧
    (takeKey s (k, m, who, t, key, stamp)).cycle = s.cycle ∧
    Only [.hsh, .rgl] [] s (takeKey s (k, m, who, t, key, stamp)) := by
  by_cases h : d.kind = 5
  · rw [takeKey_prefix m who key stamp k ht hw h]
    exact ⟨rfl, rfl, rfl, (only_setHsh s _).mono (by simp) (by simp)⟩
  · rw [takeKey_exact m who key stamp k ht hw h]
    exact ⟨rfl, rfl, rfl, (only_setRgl s _).mono (by simp) (by simp)⟩

/-- What a key issued while none waits makes of the engine and of the regulator (R244, R247). -/
theorem issueHash_gives (hk : s.hsh.keys = []) {u : State} (hu : u = issueHash s m t who key stamp s.cycle) :
    (keysLeft s = 0 → u.hsh = { s.hsh with keys := [(s.cycle, m, who, t, key, stamp)] } ∧ u.rgl = s.rgl) ∧
    (0 < keysLeft s → u.hsh.keys = [] ∧ keysLeft u = keysLeft s - 1) ∧
    (0 < keysLeft s → d.kind ≠ 5 → ∃ r ∈ u.rgl.reqs, r.id = s.rgl.nextId ∧ r.master = m ∧ r.since = s.cycle + 2 ∧
      r.purpose = .hashSearch who t key stamp ∧
      r.grans = [Gran.rd (d.base + (candidates s t d key.toNat 0).1), Gran.rd (d.base + (candidates s t d key.toNat 0).2)]) ∧
    (0 < keysLeft s → d.kind = 5 → u.hsh.waiting = s.hsh.waiting ++ [(s.cycle + 6, m, who, t, key, stamp)] ∧
      u.rgl = s.rgl) ∧
    u.cycle = s.cycle ∧ Only [.hsh, .rgl] [] s u := by
  obtain full | left := Nat.eq_zero_or_pos (keysLeft s)
  · rw [hu, issueHash_waits m t who key stamp hk full]
    exact ⟨fun _ => ⟨rfl, rfl⟩, by omega, by omega, by omega, rfl, (only_setHsh s _).mono (by simp) (by simp)⟩
  · obtain ⟨keys, remain, cycle, only⟩ := takeKey_keeps (s := keyCounted s) m who key stamp s.cycle ht hw
    rw [hu, issueHash_takes m t who key stamp hk left]
    refine ⟨by omega, fun _ => ⟨keys, remain.trans (keysLeft_keyCounted s)⟩, fun _ hx => ?_, fun _ hp => ?_,
      cycle, ((only_setHsh s _).trans only).mono (by simp) (by simp)⟩
    · rw [takeKey_exact (s := keyCounted s) m who key stamp s.cycle ht hw hx,
        candidates_congr (s := s) (u := keyCounted s) rfl rfl]
      exact ⟨_, List.mem_append_right _ (List.mem_singleton.2 rfl), rfl, rfl, rfl, rfl, rfl⟩
    · rw [takeKey_prefix (s := keyCounted s) m who key stamp s.cycle ht hw hp]
      exact ⟨rfl, rfl⟩

end Key

section Dram
variable {s : State} {c : TCmd} {d : TblDecl} (ha : awake s = true) (ht : tblOf s c.table = some d) (hf : InFlight s c)

section Search
variable {bs : List Byte} (hh : dramHead s 1 (fun _ => true) = some c) (hw : hshWiping s c.table = false)
  (hi : c.input = some (some bs)) (hu : c.ue = false) (hok : addrOk s c.ring c.addr (cdiv d.keyBits 8) false = true)
  (hv : fieldAt bs 0 (cdiv d.keyBits 8) < 2 ^ d.keyBits)
include ht hh hw hi hu hok hv

/-- SEARCH past its checks is started, and its key issued as its ring's owner (R263). -/
theorem doHshSearch_issues : doHshSearch s = issueHash (startCmd s c.id) (ringMaster c.ring) c.table (.cmd c.id)
    (BitVec.ofNat 640 (fieldAt bs 0 (cdiv d.keyBits 8))) false (startCmd s c.id).cycle := by
  have pass : dramChecks s c none (cdiv d.keyBits 8) false
      (fun x => decide (fieldAt x 0 (cdiv d.keyBits 8) ≥ 2 ^ d.keyBits)) = none :=
    dramChecks_pass (bs := some bs) hw rfl (fun _ => hok) hi fun x hx => by
      cases hx
      exact ⟨decide_eq_false (Nat.not_le.2 hv), hu⟩
  simp only [doHshSearch, hh, ht, pass, hi]
  rfl

include ha hf

/-- SEARCH gives its key to the engine: it waits, or it is taken at once and asks for its candidates, or in a table of prefixes
waits for the filter (R244, R247, R263). -/
theorem hshSearch_gives (hk : s.hsh.keys = []) : Ends .hshSearch s fun t =>
    let key : Key := BitVec.ofNat 640 (fieldAt bs 0 (cdiv d.keyBits 8))
    let k := candidates s c.table d key.toNat 0
    (keysLeft s = 0 → t.hsh = { s.hsh with keys := [(s.cycle, ringMaster c.ring, .cmd c.id, c.table, key, false)] } ∧
      t.rgl = s.rgl) ∧
    (0 < keysLeft s → t.hsh.keys = [] ∧ keysLeft t = keysLeft s - 1) ∧
    (0 < keysLeft s → d.kind ≠ 5 → k.1 % 4 ≠ k.2 % 4 ∧ ∃ r ∈ t.rgl.reqs, r.id = s.rgl.nextId ∧ r.master = ringMaster c.ring ∧
      r.since = s.cycle + 2 ∧ r.purpose = .hashSearch (.cmd c.id) c.table key false ∧
      r.grans = [Gran.rd (d.base + k.1), Gran.rd (d.base + k.2)]) ∧
    (0 < keysLeft s → d.kind = 5 → t.hsh.waiting =
      s.hsh.waiting ++ [(s.cycle + 6, ringMaster c.ring, .cmd c.id, c.table, key, false)] ∧ t.rgl = s.rgl) ∧
    { c with started := true } ∈ t.tcr.cmds ∧ Only [.hsh, .rgl, .tcr] [] s t := by
  refine ends_of (core_hshSearch ha) ?_
  generalize hx : doHshSearch s = x
  rw [doHshSearch_issues ht hh hw hi hu hok hv] at hx
  obtain ⟨waits, takes, asks, filters, cycle, only⟩ :=
    issueHash_gives (s := startCmd s c.id) (ringMaster c.ring) (.cmd c.id) _ false ht hw hk hx.symm
  have left : keysLeft (finish s x) = keysLeft x := keysLeft_congr (by simp) (by simp) ((finish_cycle s x).trans cycle.symm)
  simp only [finish_hsh, finish_rgl, finish_tcr, left]
  refine ⟨waits, takes, fun h hx => ⟨candidates_pairs_ne s _ _ _ _, ?_⟩, filters, ?_,
    (((only_startCmd s c.id).trans only).mono (by simp) (by simp)).finished⟩
  · have asked := asks h hx
    rwa [candidates_congr (s := s) (u := startCmd s c.id) rfl rfl] at asked
  · rw [only.1 .tcr (by simp)]
    exact mem_startCmd hf.mem

end Search

section Insert
variable {img : List Byte} (hh : dramHead s 3 (fun _ => true) = some c)
include ha ht hh

/-- INSERT reads its two candidates, or waits while the write lane is not open to it (R256, R257). -/
theorem hshInsert_reads (hw : hshWiping s c.table = false) (hi : c.input = some (some img)) (hu : c.ue = false)
    (hok : addrOk s c.ring c.addr (imageLen d) false = true) (himg : imageFormatOk d img true = true) :
    Ends .hshInsert s fun t =>
      let j := imageLenix img
      let k := candidates s c.table d (imageKey d img) j
      let gs := [subBase s c.table d j + k.1, subBase s c.table d j + k.2]
      (laneOpen s c.table gs = true →
        t.hsh = { s.hsh with ops := s.hsh.ops ++ [newHop s c j .read0 (img.drop 16) (imageKey d img) gs] } ∧
        (∃ r ∈ t.rgl.reqs, r.id = s.rgl.nextId ∧ r.purpose = .hashCmd c.id ∧ r.since = s.cycle + 2 ∧
          r.grans = gs.map Gran.rd) ∧ Only [.hsh, .rgl, .tcr] [] s t) ∧
      (laneOpen s c.table gs = false → Only [] [] s t) := by
  have pass : dramChecks s c none (imageLen d) false (fun x => !imageFormatOk d x true) = none :=
    dramChecks_pass (bs := some img) hw rfl (fun _ => hok) hi fun x hx => by
      cases hx
      exact ⟨by rw [himg]; rfl, hu⟩
  refine ends_of (core_hshInsert ha) ⟨fun free => ?_, fun busy => ?_⟩
  · simp only [doHshInsert, hh, ht, pass, hi, free, if_true]
    exact finish_beginHop s c _ (by simp)
  · simp only [doHshInsert, hh, ht, pass, hi, busy, Bool.false_eq_true, if_false]
    exact only_finish s s

include hf

/-- INSERT into a table being wiped is refused with 0x0E (R270). -/
theorem hshInsert_refused (hw : hshWiping s c.table = true) : Ends .hshInsert s fun t =>
    (∃ k ∈ t.tcr.compl, k.cmdId = c.cmdId ∧ k.status = 0x0E) ∧ cmdOf t c.id = none ∧ Only [.tcr] [] s t := by
  refine ends_of (core_hshInsert ha) ?_
  simp only [doHshInsert, hh, ht, dramChecks_wiping hw, refuse]
  obtain ⟨⟨⟨k, hk, hid, hst, -⟩, hnone⟩, only⟩ := finish_complete (Report.plain 0x0E
    (if takesHandle c.opcode then c.handle else 0) (s.hsh.gen.nat c.table)) hf
  exact ⟨⟨k, hk, hid, hst⟩, hnone, only⟩

end Insert

/-! ### READ, DELETE and UPDATE by handle (R261, R262, R263) -/

section Named
variable {op : Nat} {out : Bool} {g : Nat} {bs : Option (List Byte)}
  (hh : dramHead s op (fun x => x.byKey || decide (op = 0x12)) = some c) (hk : c.byKey = false)
  (hw : hshWiping s c.table = false) (hst : hStash c.handle = false) (hm : dramMoved s c = none)
  (hg : g = subBase s c.table d (hLenix c.handle) + hBucket c.handle) (hi : c.input = bs.map some)
  (hok : op ≠ 4 → addrOk s c.ring c.addr (imageLen d) out = true)
  (hb : ∀ img, bs = some img → imageHeaderOk d img = true ∧ c.ue = false)
  (hfree : out = true ∨ laneOpen s c.table [g] = true)
include ht hh hk hw hst hm hg hi hok hb hfree

/-- A command by handle past its checks reads the bucket its handle names, once its lane is open to it. -/
theorem doNamed_begins : doNamed s op out =
    beginHop s c (newHop s c (hLenix c.handle) .readNamed ((bs.getD []).drop 16) 0 [g]) [Gran.rd g] := by
  have pass : dramChecks s c (dramMoved s c) (if op = 4 then 0 else imageLen d) out (fun img => !imageHeaderOk d img) = none :=
    dramChecks_pass hw hm (fun hlen => by
      have reads : op ≠ 4 := fun h => hlen (if_pos h)
      rw [if_neg reads]
      exact hok reads) hi fun img himg => by
        obtain ⟨good, clean⟩ := hb img himg
        exact ⟨by rw [good]; rfl, clean⟩
  have free : (out || laneOpen s c.table [g]) = true := by simpa using hfree
  have named : namedGrans s c d = (hLenix c.handle, 0, [g]) := by simp [namedGrans, hk, hst, hg]
  cases bs <;> simp [doNamed, hh, ht, hk, pass, named, free, hi]

/-- What such a command leaves: its operation, and the one granule it has asked for. -/
theorem named_reads {i : Instr} (core : exec i s = .next (finish s (doNamed s op out))) : Ends i s fun t =>
    t.hsh = { s.hsh with ops := s.hsh.ops ++ [newHop s c (hLenix c.handle) .readNamed ((bs.getD []).drop 16) 0 [g]] } ∧
    (∃ r ∈ t.rgl.reqs, r.id = s.rgl.nextId ∧ r.purpose = .hashCmd c.id ∧ r.grans = [Gran.rd g]) ∧
    Only [.hsh, .rgl, .tcr] [] s t := by
  refine ends_of core ?_
  rw [doNamed_begins ht hh hk hw hst hm hg hi hok hb hfree]
  obtain ⟨hhsh, ⟨r, hr, hid, hp, -, hgr⟩, only⟩ := finish_beginHop s c
    (newHop s c (hLenix c.handle) .readNamed ((bs.getD []).drop 16) 0 [g]) (gs := [Gran.rd g]) (by simp)
  exact ⟨hhsh, ⟨r, hr, hid, hp, hgr⟩, only⟩

end Named

include ha ht hf in
/-- DELETE by a handle that has moved ends with its place now (R211, R269). -/
theorem hshDelete_moved {r : Report} (hh : dramHead s 4 (fun x => x.byKey) = some c) (hk : c.byKey = false)
    (hw : hshWiping s c.table = false) (hm : dramMoved s c = some r) : Ends .hshDelete s fun t =>
      (∃ k ∈ t.tcr.compl, k.cmdId = c.cmdId ∧ k.status = 2 ∧ k.handle = r.handle ∧ k.restart = r.restart) ∧
      cmdOf t c.id = none ∧ Only [.tcr] [] s t := by
  have ended : doNamed s 4 false = complete s c.id r := by simp [doNamed, hh, ht, hk, hm, dramChecks_moved hw]
  refine ends_of (core_hshDelete ha) ?_
  rw [ended]
  obtain ⟨⟨⟨k, hkm, hid, hst, hkh, hre, -⟩, hnone⟩, only⟩ := finish_complete r hf
  exact ⟨⟨k, hkm, hid, hst.trans (dramMoved_status hm), hkh, hre⟩, hnone, only⟩

end Dram

/-- Settles O35: each command by the branch its checks and its lane leave it, SEARCH by what its key makes of the engine. -/
theorem dramTableCommandsBeginWithTheirReads : Obligations.DramTableCommandsBeginWithTheirReads := by
  unfold Obligations.DramTableCommandsBeginWithTheirReads
  intro s c d ha ht hc hg
  have hf : InFlight s c := ⟨hc, hg⟩
  refine ⟨fun bs hh hw hi hu hk hok hv => hshSearch_gives ha ht hf hh hw hi hu hok hv hk,
    fun img hh hw hi hu hok himg => hshInsert_reads ha ht hh hw hi hu hok himg,
    fun g hk hst hw hm hg => ⟨fun hh hi hok => ?_, fun hh hi hfree => ?_, fun img hh hi hu hok himg hfree => ?_⟩,
    fun r hh hk hw hm => hshDelete_moved ha ht hf hh hk hw hm, fun hh hw => hshInsert_refused ha ht hf hh hw⟩
  · exact named_reads (bs := none) ht (by simpa using hh) hk hw hst hm hg hi (fun _ => hok) (by simp) (.inl rfl)
      (core_hshRead ha)
  · exact named_reads (bs := none) ht (by simpa using hh) hk hw hst hm hg hi (by simp) (by simp) (.inr hfree)
      (core_hshDelete ha)
  · have good (x : List Byte) (hx : some img = some x) : imageHeaderOk d x = true ∧ c.ue = false := by
      cases hx
      exact ⟨himg, hu⟩
    exact named_reads (bs := some img) ht (by simpa using hh) hk hw hst hm hg hi (fun _ => hok) good (.inr hfree)
      (core_hshUpdate ha)

end Sys2Proof.Machine
end

section
namespace Sys2Proof.Machine

/-! ### What an unarmed write of words leaves, and what a filtered store reads (R413, R435) -/

/-- A store from which entries were taken by their keys reads its default there and is as it was elsewhere. -/
theorem KMap.get_filter_key {α : Type} {d : Nat → α} (q : Nat → Bool) (m : KMap α) (k : Nat) :
    KMap.get d (m.filter (fun e => q e.1)) k = if q k then KMap.get d m k else d k := by
  induction m with
  | nil => simp [KMap.get]
  | cons e m ih =>
    rw [List.filter_cons]
    by_cases hk : e.1 = k
    · subst hk
      by_cases hq : q e.1 = true <;> simp [KMap.get, hq, ih]
    · by_cases hq : q e.1 = true <;> simp [KMap.get, hq, hk, ih]

/-- The errors and the poison of `n` words from `lo` are gone (R413, R423). -/
def wordsClean (s : State) (mem lo n : Nat) : State :=
  { s with intg := { s.intg with
    flips := s.intg.flips.filter (fun (e : Nat × Option Flip) =>
      !(decide (e.1 / 2 ^ 36 = mem) && (decide (lo ≤ e.1 % 2 ^ 36) && decide (e.1 % 2 ^ 36 < lo + n))))
    track := s.intg.track.filter (fun t =>
      !(decide (t.mem = mem) && (decide (lo ≤ t.addr) && decide (t.addr < lo + n)) && decide (t.st = .poison))) } }

section Words
variable {s : State} (mem lo n : Nat)

/-- With no fault armed, words written whole are clean, and nothing else changes (R413, R435). -/
theorem rangeWritten_unarmed (hoff : flag s Reg.intFlipCtrl 31 = false) :
    rangeWritten s mem lo n = wordsClean s mem lo n := by
  have unhit (a : Nat) : flipHits (wordsClean s mem lo n) mem a = false := by
    rw [flipHits, show flag (wordsClean s mem lo n) Reg.intFlipCtrl 31 = false from hoff, Bool.false_and, Bool.false_and]
  exact if_neg fun h => Bool.false_ne_true ((unhit _).symm.trans (Bool.and_eq_true_iff.1 h).2)

theorem flipAt_wordsClean {a : Nat} (hlo : lo ≤ a) (hhi : a < lo + n) (ha : a < 2 ^ 36) :
    flipAt (wordsClean s mem lo n) mem a = none := by
  have hmem : wordKey mem a / 2 ^ 36 = mem := by rw [wordKey]; omega
  have haddr : wordKey mem a % 2 ^ 36 = a := by rw [wordKey]; omega
  have taken := KMap.get_filter_key (d := fun _ => (none : Option Flip)) (fun w =>
    !(decide (w / 2 ^ 36 = mem) && (decide (lo ≤ w % 2 ^ 36) && decide (w % 2 ^ 36 < lo + n)))) s.intg.flips (wordKey mem a)
  rw [hmem, haddr] at taken
  exact taken.trans (by simp [hlo, hhi])

end Words

/-! ### WIPE of a DRAM table (R270) -/

/-- The engine with another count of its entries. -/
def withEntries (s : State) (e : KMap Nat) : State := { s with hsh := { s.hsh with entries := e } }

theorem foldl_withEntries {α : Type} (g : State → α → State) (hg : ∀ u a, ∃ e, g u a = withEntries u e) (l : List α)
    (s : State) : ∃ e, l.foldl g s = withEntries s e := by
  induction l generalizing s with
  | nil => exact ⟨s.hsh.entries, rfl⟩
  | cons a l ih =>
    obtain ⟨e, he⟩ := hg s a
    obtain ⟨e', he'⟩ := ih (g s a)
    exact ⟨e', by rw [List.foldl_cons, he', he]; rfl⟩

/-- The stash entries of a table that leave are counted, and nothing else changes (R270, R274). -/
theorem stashLeaves_entries (s : State) (t : Nat) : ∃ e, stashLeaves s t = withEntries s e :=
  foldl_withEntries _ (fun u i => by
    split
    · exact ⟨_, rfl⟩
    · exact ⟨_, rfl⟩) _ s

/-- With nothing in the stash, none leaves. -/
theorem stashLeaves_empty {s : State} {t : Nat} (h : ∀ i, i < 64 → stashAt s t i = none) : stashLeaves s t = s :=
  (List.foldl_ext _ (fun u _ => u) s fun u i hi => by rw [h i (List.mem_range.1 hi)]).trans
    (List.foldl_fixed' (fun _ => rfl) _)

/-- The words of a table's stash and of its filter, written whole by WIPE (R270, R410). -/
def wipedWords (s : State) (t : Nat) (d : TblDecl) : State :=
  rangeWritten (rangeWritten s 5 (stashWord t 0) 576) 4 (bloomBase s t) (if d.kind = 5 then 16 * d.bloom else 0)

/-- The engine once table `t` is being wiped: a generation more, its stash and its filter gone (R270). -/
def wipedHsh (h : HshSt) (t : Nat) : HshSt :=
  { h with
    wiping := h.wiping.set (fun _ => false) t true
    stash := h.stash.filter (fun (e : Nat × Option StashEnt) => e.1 / 64 ≠ t)
    filter := h.filter.filter (fun (e : Nat × Bool) => e.1 / 2 ^ 24 ≠ t)
    gen := h.gen.setNat t ((h.gen.nat t + 1) % 65536) }

/-- The device once table `t` is being wiped, before its first write of zero. -/
def wipeOpened (s : State) (t : Nat) (d : TblDecl) : State :=
  { ledgerBreak (stashLeaves (wipedWords s t d) t) 3 t with
    hsh := wipedHsh (ledgerBreak (stashLeaves (wipedWords s t d) t) 3 t).hsh t }

/-- WIPE's place in the engine: at the table's first granule, all of them to go. -/
def wipeOp (s : State) (c : TCmd) (d : TblDecl) : HashOp :=
  { newHop s c 0 .wiping [] 0 [] with
    cursor := d.base
    left := d.size }

/-- The device once WIPE has asked for its first write of zero (R270). -/
def hshWipeBegun (s : State) (c : TCmd) (d : TblDecl) : State :=
  wipeGran (beginHop (wipeOpened s c.table d) c (wipeOp s c d) []) (wipeOp s c d) d d.base

section Wipe
variable (s : State) (t : Nat) (c : TCmd) (d : TblDecl)

theorem only_wipedWords : Only [.intg] flipRegs s (wipedWords s t d) :=
  ((only_rangeWritten s _ _ _).trans (only_rangeWritten _ _ _ _)).mono (by simp) (by simp)

theorem wipedWords_hsh : (wipedWords s t d).hsh = s.hsh := (only_wipedWords s t d).1 .hsh (by simp)

theorem stashAt_eq_none {i : Nat} : stashAt s t i = none ↔ KMap.find s.hsh.stash (t * 64 + i) = none :=
  Option.map_eq_none_iff

/-- What WIPE makes of the engine at once; ENTRIES loses what was in the stash (R270, R274). -/
theorem wipeOpened_hsh : ∃ e, (wipeOpened s t d).hsh = wipedHsh { s.hsh with entries := e } t ∧
    ((∀ i, i < 64 → stashAt s t i = none) → e = s.hsh.entries) := by
  obtain ⟨e, he⟩ := stashLeaves_entries (wipedWords s t d) t
  refine ⟨e, by rw [wipeOpened, ledgerBreak, wr_hsh, he, withEntries, wipedWords_hsh], fun empty => ?_⟩
  have still : stashLeaves (wipedWords s t d) t = wipedWords s t d := stashLeaves_empty fun i hi => by
    rw [stashAt_eq_none, wipedWords_hsh, ← stashAt_eq_none]
    exact empty i hi
  have counted := congrArg (fun u => u.hsh.entries) (he.symm.trans still)
  exact counted.trans (congrArg HshSt.entries (wipedWords_hsh s t d))

/-- Past its words written, WIPE's start touches the engine and the ledger's break. -/
theorem only_wipeOpened : Only [.hsh] [Reg.topLedgerBreak] (wipedWords s t d) (wipeOpened s t d) := by
  obtain ⟨e, he⟩ := stashLeaves_entries (wipedWords s t d) t
  have left : Only [.hsh] [] (wipedWords s t d) (stashLeaves (wipedWords s t d) t) := he ▸ only_setHsh _ _
  exact ((left.trans (only_ledgerBreak _ 3 t)).trans (only_setHsh _ _)).mono (by simp) (by simp)

theorem only_hshWipeBegun : Only [.hsh, .rgl, .tcr] [Reg.topLedgerBreak] (wipedWords s c.table d) (hshWipeBegun s c d) :=
  (((only_wipeOpened s c.table d).trans (only_beginHop _ c (wipeOp s c d) [])).trans
    ((only_setHsh _ _).trans (only_setRgl _ _))).mono (by simp) (by simp)

/-- A write of zero asked for is noted in its operation alone. -/
theorem wipeGran_hsh (u : State) (o : HashOp) (g : Nat) : ∃ ops, (wipeGran u o d g).hsh = { u.hsh with ops := ops } :=
  ⟨_, rfl⟩

/-- The parts of the engine that WIPE changes at once: what wipes, the stash, the filter, the generations (R270). -/
theorem hshWipeBegun_hsh : (hshWipeBegun s c d).hsh.wiping = s.hsh.wiping.set (fun _ => false) c.table true ∧
    (hshWipeBegun s c d).hsh.stash = s.hsh.stash.filter (fun e => decide (e.1 / 64 ≠ c.table)) ∧
    (hshWipeBegun s c d).hsh.filter = s.hsh.filter.filter (fun e => decide (e.1 / 2 ^ 24 ≠ c.table)) ∧
    (hshWipeBegun s c d).hsh.gen = s.hsh.gen.setNat c.table ((s.hsh.gen.nat c.table + 1) % 65536) ∧
    ((∀ i, i < 64 → stashAt s c.table i = none) → (hshWipeBegun s c d).hsh.entries = s.hsh.entries) := by
  obtain ⟨e, he, hempty⟩ := wipeOpened_hsh s c.table d
  obtain ⟨ops, hops⟩ := wipeGran_hsh d (beginHop (wipeOpened s c.table d) c (wipeOp s c d) []) (wipeOp s c d) d.base
  rw [hshWipeBegun, hops, beginHop_hsh, he]
  exact ⟨rfl, rfl, rfl, rfl, hempty⟩

/-- Of the filter's places, those of the table are gone and no others (R270). -/
theorem hshWipeBegun_filter (p : Nat) : (hshWipeBegun s c d).hsh.filter.get (fun _ => false) (c.table * 2 ^ 24 + p) =
    if p < 2 ^ 24 then false else s.hsh.filter.get (fun _ => false) (c.table * 2 ^ 24 + p) := by
  obtain ⟨-, -, hfilter, -⟩ := hshWipeBegun_hsh s c d
  have own : (c.table * 2 ^ 24 + p) / 2 ^ 24 = c.table ↔ p < 2 ^ 24 := by omega
  rw [hfilter]
  refine (KMap.get_filter_key (fun k => decide (k / 2 ^ 24 ≠ c.table)) _ _).trans ?_
  by_cases h : p < 2 ^ 24
  · rw [if_pos h, if_neg (by simpa using own.2 h)]
  · rw [if_neg h, if_pos (by simpa using mt own.1 h)]

/-- The first write of zero, held when the table ages (R270, R323). -/
theorem hshWipeBegun_asks : ∃ r ∈ (hshWipeBegun s c d).rgl.reqs, r.purpose = .wipe c.table ∧
    r.grans = [holdIf d (Gran.wr d.base ((List.range 64).map (fun i => (i, 0))))] :=
  ⟨_, List.mem_append_right _ (List.mem_singleton.2 rfl), rfl, rfl⟩

end Wipe

section WipeStarts
variable {s : State} {c : TCmd} {d : TblDecl} (ht : tblOf s c.table = some d)
  (hh : dramHead s 0x13 (fun _ => false) = some c) (hfree : ∀ o ∈ s.hsh.ops, o.table = c.table → isWriteOp o.opcode = false)
include ht hh hfree

/-- WIPE starts when no write command of its table is under way (R270). -/
theorem doHshWipe_begins : doHshWipe s = hshWipeBegun s c d := by
  have idle : s.hsh.ops.any (fun o => decide (o.table = c.table) && isWriteOp o.opcode) = false := by
    simpa [List.any_eq_false] using hfree
  simp only [doHshWipe, hh, ht, idle]
  rfl

/-- A filter bit of a table under WIPE reads 0 where its place is one of the table's 2 ^ 24; past them it reads as it was (R270,
R410, R412). -/
theorem filterBit_hshWipe (hoff : flag s Reg.intFlipCtrl 31 = false) (hk : d.kind = 5)
    (hroom : bloomBase s c.table + 16 * d.bloom ≤ 2 ^ 36) {p : Nat} (hp : p < 1024 * d.bloom) :
    filterBit (finish s (doHshWipe s)) c.table p =
      if p < 2 ^ 24 then false else s.hsh.filter.get (fun _ => false) (c.table * 2 ^ 24 + p) := by
  have begun := (only_hshWipeBegun s c d).trans (only_finish s _)
  have img : (finish s (hshWipeBegun s c d)).img = s.img :=
    UnitName.same_trans .img ((only_wipedWords s c.table d).1 .img (by simp)) (begun.1 .img (by simp))
  have intg : (finish s (hshWipeBegun s c d)).intg = (wipedWords s c.table d).intg := begun.1 .intg (by simp)
  have words : wipedWords s c.table d =
      wordsClean (wordsClean s 5 (stashWord c.table 0) 576) 4 (bloomBase s c.table) (16 * d.bloom) := by
    rw [wipedWords, if_pos hk, rangeWritten_unarmed 5 _ _ hoff]
    exact rangeWritten_unarmed 4 _ _ hoff
  have place : filterWord (finish s (hshWipeBegun s c d)) c.table p = bloomBase s c.table + p / 64 := by
    rw [filterWord, bloomBase, img, bloomBase]
  have clean : flipAt (finish s (hshWipeBegun s c d)) 4 (bloomBase s c.table + p / 64) = none := by
    rw [flipAt, intg, words]
    exact flipAt_wordsClean 4 _ _ (by omega) (by omega) (by omega)
  rw [doHshWipe_begins ht hh hfree, filterBit, place, clean, finish_hsh]
  exact hshWipeBegun_filter s c d p

end WipeStarts
end Sys2Proof.Machine
end

section
namespace Sys2Proof.Machine

/-! ### NEXT, WIPE, FLUSH_PORT and the weights: what they do in full (R245, R263, R270, R338) -/

/-- NEXT's place in the engine: a walk from a position in handle order (R265). -/
def nextOp (s : State) (c : TCmd) (pos : Nat) : HashOp :=
  { newHop s c 0 .scan [] 0 [] with
    cursor := pos
    byKey := c.start }

section Walk
variable {s : State} {c : TCmd} {d : TblDecl} (ha : awake s = true) (ht : tblOf s c.table = some d)
include ha ht

/-- NEXT asks for the next 16 buckets after its handle, or for the first with START (R263, R268). -/
theorem hshNext_asks {pos : Nat} (hh : dramHead s 2 (fun _ => false) = some c) (hw : hshWiping s c.table = false)
    (hi : c.input = none)
    (hpos : c.start = true ∧ pos = 0 ∨ c.start = false ∧ nextMoved s c = none ∧ pos = scanPos s c.table d c.handle)
    (hok : addrOk s c.ring c.addr (imageLen d) true = true) (hgs : scanGrans s c.table d pos ≠ []) : Ends .hshNext s fun t =>
      (∃ r ∈ t.rgl.reqs, r.id = s.rgl.nextId ∧ r.purpose = .hashCmd c.id ∧ r.since = s.cycle + 2 ∧
        r.grans = (scanGrans s c.table d pos).map Gran.rd) ∧
      (∃ o ∈ t.hsh.ops, o.id = c.id ∧ o.phase = .scan ∧ o.cursor = pos) ∧ Only [.hsh, .rgl, .tcr] [] s t := by
  have still : (if c.start then none else nextMoved s c) = none := by
    obtain ⟨h, -⟩ | ⟨h, hm, -⟩ := hpos <;> simp [*]
  have place : (if c.start then 0 else scanPos s c.table d c.handle) = pos := by
    obtain ⟨h, hp⟩ | ⟨h, -, hp⟩ := hpos <;> simp [h, hp]
  have pass : dramChecks s c (if c.start then none else nextMoved s c) (imageLen d) true (fun _ => false) = none :=
    dramChecks_pass (bs := none) hw still (fun _ => hok) hi (by simp)
  have begins : doHshNext s = beginHop s c (nextOp s c pos) ((scanGrans s c.table d pos).map Gran.rd) := by
    simp only [doHshNext, hh, ht, pass, place, hgs, if_false, nextOp]
  refine ends_of (core_hshNext ha) ?_
  rw [begins]
  obtain ⟨hhsh, asked, only⟩ :=
    finish_beginHop s c (nextOp s c pos) (gs := (scanGrans s c.table d pos).map Gran.rd) (by simpa using hgs)
  rw [hhsh]
  exact ⟨asked, ⟨_, List.mem_append_right _ (List.mem_singleton.2 rfl), rfl, rfl, rfl⟩, only⟩

/-- WIPE empties the stash and the filter at once, and asks for its first write of zero; of a filter no wider than its table's
places every bit reads 0 (R263, R270, R323). -/
theorem hshWipe_empties (hbloom : d.bloom ≤ 2 ^ 14) (hh : dramHead s 0x13 (fun _ => false) = some c)
    (hfree : ∀ o ∈ s.hsh.ops, o.table = c.table → isWriteOp o.opcode = false) : Ends .hshWipe s fun t =>
      hshWiping t c.table = true ∧ t.hsh.gen.nat c.table = (s.hsh.gen.nat c.table + 1) % 65536 ∧
      (∀ i, i < 64 → stashAt t c.table i = none) ∧
      ((∀ i, i < 64 → stashAt s c.table i = none) → t.hsh.entries = s.hsh.entries) ∧
      (∀ p, p < 2 ^ 24 → t.hsh.filter.get (fun _ => false) (c.table * 2 ^ 24 + p) = false) ∧
      (flag s Reg.intFlipCtrl 31 = false → bloomBase s c.table + 16 * d.bloom ≤ 2 ^ 36 →
        ∀ p, p < 1024 * d.bloom → d.kind = 5 → filterBit t c.table p = false) ∧
      (∀ u, u ≠ c.table → t.hsh.gen.nat u = s.hsh.gen.nat u ∧ hshWiping t u = hshWiping s u) ∧
      (∃ r ∈ t.rgl.reqs, r.purpose = .wipe c.table ∧
        r.grans = [holdIf d (Gran.wr d.base ((List.range 64).map (fun i => (i, 0))))]) ∧
      Only [.hsh, .rgl, .tcr, .intg] (Reg.topLedgerBreak :: flipRegs) s t := by
  refine ends_of (core_hshWipe ha) ?_
  have bits := fun hoff hroom p hp hk => filterBit_hshWipe ht hh hfree hoff hk hroom (p := p) hp
  rw [doHshWipe_begins ht hh hfree] at bits ⊢
  obtain ⟨hwiping, hstash, -, hgen, hentries⟩ := hshWipeBegun_hsh s c d
  have only := ((only_wipedWords s c.table d).trans (only_hshWipeBegun s c d)).finished (s := s)
  simp only [hshWiping, stashAt_eq_none, finish_hsh, finish_rgl, hwiping, hstash, hgen]
  refine ⟨KMap.get_set_same _ _ _ _, KMap.get_set_same _ _ _ _, fun i hi => ?_,
    fun empty => hentries fun i hi => (stashAt_eq_none s c.table).2 (empty i hi),
    fun p hp => (hshWipeBegun_filter s c d p).trans (if_pos hp), fun hoff hroom p hp hk => ?_,
    fun u hu => ⟨KMap.get_set_ne _ _ _ hu, KMap.get_set_ne _ _ _ hu⟩, hshWipeBegun_asks s c d, only.mono (by simp) (by simp)⟩
  · have own : (c.table * 64 + i) / 64 = c.table := by omega
    exact (KMap.get_filter_key (fun k => decide (k / 64 ≠ c.table)) _ _).trans (by simp [own])
  · rw [bits hoff hroom p hp hk, if_pos (by omega)]

end Walk

section Flush
variable {s : State}

theorem only_setAge (s : State) (x : AgeSt) : Only [.age] [] s { s with age := x } :=
  only_units (fun u hu => by cases u <;> simp [UnitName.same] at *) rfl rfl

/-- The walk's next bucket is asked for, or not; whose walk it is and what it has removed stay (R338). -/
theorem flushPump_keeps {f : FlushP} (hf : s.age.flush = some f) :
    (∃ g, (flushPump s).age.flush = some g ∧ g.id = f.id ∧ g.table = f.table ∧ g.port = f.port ∧ g.removed = f.removed) ∧
      Only [.age, .rgl] [] s (flushPump s) := by
  have rests : (∃ g, s.age.flush = some g ∧ g.id = f.id ∧ g.table = f.table ∧ g.port = f.port ∧ g.removed = f.removed) ∧
      Only [.age, .rgl] [] s s := ⟨⟨f, hf, rfl, rfl, rfl, rfl⟩, Only.refl _ _ s⟩
  unfold flushPump
  rw [hf]
  dsimp only
  split
  · exact rests
  · split
    · exact rests
    · split
      · exact rests
      · exact ⟨⟨_, rfl, rfl, rfl, rfl, rfl⟩, ((only_setAge s _).trans (only_setRgl _ _)).mono (by simp) (by simp)⟩

/-- A walk with buckets to go, of a table that is not being wiped, goes on (R338, R339). -/
theorem flushCheck_pumps {f : FlushP} (hf : s.age.flush = some f) (hw : hshWiping s f.table = false)
    (ha : f.aborted = false) (hb : f.bucket < bucketGrans s f.table) : flushCheck s = flushPump s := by
  have same : { s with age := { s.age with flush := some f } } = s := by rw [← hf]
  rw [flushCheck, hf]
  simp [hw, ha, Nat.not_le.2 hb, same]

/-- A walk that FLUSH_PORT begins (R338). -/
def flushOf (c : TCmd) : FlushP := ⟨c.id, c.table, bitsOf c.arg0 4 0, ringMaster c.ring, 0, 0, 0, false⟩

/-- The device once FLUSH_PORT has its walk and its progress, and no bucket read yet (R338). -/
def flushOpened (s : State) (c : TCmd) : State :=
  let s1 := progSet (startCmd s c.id) Reg.ageFlushProg Reg.ageFlushTotal (bucketGrans s c.table) 0 true
  { s1 with age := { s1.age with flush := some (flushOf c) } }

theorem only_flushOpened (s : State) (c : TCmd) :
    Only [.age, .tcr] [Reg.ageFlushProg, Reg.ageFlushTotal] s (flushOpened s c) :=
  (((only_startCmd s c.id).trans (only_progSet _ _ _ _ _ _)).trans (only_setAge _ _)).mono (by simp) (by simp)

/-- The buckets of a table depend on its declaration and the weights (R327). -/
theorem bucketGrans_congr {s u : State} (hi : u.img = s.img) (hw : u.hsh.share = s.hsh.share) (t : Nat) :
    bucketGrans u t = bucketGrans s t := by
  have sizes : subSize u t = subSize s t := funext fun d => funext fun j => subSize_congr hw t d j
  simp only [bucketGrans, tblOf, hi, sizes]

variable {c : TCmd} (ha : awake s = true) (hh : dramHead s 6 (fun _ => false) = some c) (hw : hshWiping s c.table = false)
include ha hh hw

/-- FLUSH_PORT with one running ends with 0x12 (R336, R338). -/
theorem flushPort_busy (hf : InFlight s c) (hr : s.age.flush.isSome = true) : Ends .flushPort s fun t =>
    (∃ k ∈ t.tcr.compl, k.cmdId = c.cmdId ∧ k.status = 0x12) ∧ cmdOf t c.id = none ∧ Only [.tcr] [] s t := by
  refine ends_of (core_flushPort ha) ?_
  simp only [doFlushPort, hh, hw, hr, Bool.false_eq_true, if_false, if_true, refuse]
  obtain ⟨⟨⟨k, hk, hid, hst, -⟩, hnone⟩, only⟩ := finish_complete (Report.plain 0x12
    (if takesHandle c.opcode then c.handle else 0) (s.hsh.gen.nat c.table)) hf
  exact ⟨⟨k, hk, hid, hst⟩, hnone, only⟩

/-- FLUSH_PORT with none running starts its walk over all of its table's buckets (R338). -/
theorem flushPort_walks (hnone : s.age.flush = none) (hb : 0 < bucketGrans s c.table) : Ends .flushPort s fun t =>
    (∃ f, t.age.flush = some f ∧ f.id = c.id ∧ f.table = c.table ∧ f.port = bitsOf c.arg0 4 0 ∧ f.removed = 0) ∧
    fget t Reg.ageFlushTotal 31 0 = bucketGrans s c.table % 2 ^ 32 ∧ progOn t Reg.ageFlushProg = true ∧
    { c with started := true } ∈ t.tcr.cmds ∧
    Only [.age, .rgl, .tcr] [Reg.ageFlushProg, Reg.ageFlushTotal] s t := by
  have opened := only_flushOpened s c
  have hsh : (flushOpened s c).hsh = s.hsh := opened.1 .hsh (by simp)
  have wiping : hshWiping (flushOpened s c) c.table = false := by
    rw [hshWiping, hsh]
    exact hw
  have buckets : bucketGrans (flushOpened s c) c.table = bucketGrans s c.table :=
    bucketGrans_congr (opened.1 .img (by simp)) (congrArg HshSt.share hsh) _
  have begins : doFlushPort s = flushPump (flushOpened s c) := by
    rw [← flushCheck_pumps (s := flushOpened s c) (f := flushOf c) rfl wiping rfl (Nat.lt_of_lt_of_eq hb buckets.symm)]
    simp only [doFlushPort, hh, hw, hnone, Option.isSome_none, Bool.false_eq_true, if_false]
    rfl
  obtain ⟨walks, pumped⟩ := flushPump_keeps (s := flushOpened s c) (f := flushOf c) rfl
  have kept (o : Nat) (ho : o ∉ msgRegs) : rd (finish s (flushPump (flushOpened s c))) o =
      rd (progSet (startCmd s c.id) Reg.ageFlushProg Reg.ageFlushTotal (bucketGrans s c.table) 0 true) o :=
    ((rd_finish s _ ho).trans (pumped.2.1 o ho (by simp))).trans (rd_congr (by rw [flushOpened]) o)
  refine ends_of (core_flushPort ha) ?_
  rw [begins, finish_age, finish_tcr, pumped.1 .tcr (by simp), fget_congr (kept Reg.ageFlushTotal (by decide)),
    progOn_congr (kept Reg.ageFlushProg (by decide)), progOn_progSet]
  refine ⟨walks, ?_, rfl, mem_startCmd (mem_of_headWith hh), (opened.trans pumped).finished.mono (by simp) (by simp)⟩
  rw [progSet, fget, rd_wr_ne _ _ (by decide), rd_wr_same, bitsOf_eq]
  omega

end Flush

section Share
variable {s : State} {m : Requester}

/-- The count of an access leaves the selected length and the weights alone. -/
theorem pfx_portCount (s : State) (m : Requester) : pfxTable (portCount s m) = pfxTable s ∧
    pfxLenix (portCount s m) = pfxLenix s ∧ (portCount s m).hsh = s.hsh :=
  have same := rd_portCount s m (o := Reg.hshPfxSel) (belowCounts_of_lt (by decide))
  ⟨fget_congr same _ _, fget_congr same _ _, portCount_same s m _ (wr_hsh s)⟩

variable (v : BitVec 32) (hm : mayWrite s m Reg.hshPfxShare 4 = true)
include hm

/-- A weight of an empty table is taken, for the selected length alone (R245, R276). -/
theorem hshPfxShareWrite_weighs (hv : v.toNat % 256 ≠ 0) (hl : locked s = false) (he : hshEntries s (pfxTable s) = 0) :
    Ends (.hshPfxShareWrite m v) s fun t =>
      weight t (pfxTable s) (pfxLenix s) = v.toNat % 256 ∧
      (∀ u j, u * 16 + j ≠ pfxTable s * 16 + pfxLenix s → weight t u j = weight s u j) ∧
      Only [.hsh] (portRegs m) s t := by
  obtain ⟨htable, hlenix, hhsh⟩ := pfx_portCount s m
  have taken : shareWrite (portCount s m) m.code v.toNat = { portCount s m with hsh := { s.hsh with
      share := s.hsh.share.set (fun _ => 1) (pfxTable s * 16 + pfxLenix s) (v.toNat % 256) } } := by
    have empty : hshEntries (portCount s m) (pfxTable s) = 0 := by
      rw [hshEntries, hhsh]
      exact he
    simp [shareWrite, hv, locked_portCount, hl, htable, hlenix, empty, hhsh]
  refine ends_of (exec_hshPfxShareWrite v hm) ?_
  rw [taken]
  simp only [weight, finish_hsh]
  exact ⟨KMap.get_set_same _ _ _ _, fun u j h => KMap.get_set_ne _ _ _ h,
    (((only_portCount s m).trans (only_setHsh _ _)).mono (by simp) (by simp)).finished⟩

/-- A zero weight, or one for a table that holds entries, is refused and changes nothing (R245, R546). -/
theorem hshPfxShareWrite_refused (hv : v.toNat % 256 = 0 ∨ locked s = false ∧ hshEntries s (pfxTable s) ≠ 0) :
    Ends (.hshPfxShareWrite m v) s fun t => flag t Reg.topErr 0 = true ∧ Only [] (errRegs ++ portRegs m) s t := by
  obtain ⟨htable, -, hhsh⟩ := pfx_portCount s m
  have refused : shareWrite (portCount s m) m.code v.toNat = rsvd (portCount s m) m.code Reg.hshPfxShare := by
    by_cases zero : v.toNat % 256 = 0
    · simp [shareWrite, zero]
    · obtain ⟨hl, he⟩ := hv.resolve_left zero
      have held : hshEntries (portCount s m) (pfxTable s) ≠ 0 := by
        rw [hshEntries, hhsh]
        exact he
      simp [shareWrite, zero, locked_portCount, hl, htable, held]
  refine ends_of (exec_hshPfxShareWrite v hm) ?_
  rw [refused]
  refine ⟨?_, (((only_portCount s m).trans (only_rsvd _ _ _)).mono (by simp) (by simp)).finished⟩
  rw [flag_congr (rd_finish_below s (belowCounts_of_lt (by decide))), flag_rsvd]

end Share
end Sys2Proof.Machine
end

section
namespace Sys2Proof.Machine

/-! ### A filter wider than its table's places, which WIPE does not empty -/

/-- A table of prefixes whose filter has 32,768 Kbit: four times the most that a TABLES record may name (R60), so that its bits
from 2 ^ 24 on stand in the store where those of the next table do. -/
def wideTable : TblDecl := ⟨5, false, false, false, false, 0, 0, 0, 0, 0, 2 ^ 19, 32, 32768, 0, [24, 8]⟩

/-- WIPE of that table, declared as table 6. -/
def wideWipe : TCmd := ⟨1, 0, 0, 0x13, 6, 0, 77, 0, 0, 0, none, false, false⟩

/-- A device in READY with that table and that command, and bit 2 ^ 24 of the filter set. -/
def wideFilter : State :=
  { State.reset with
    pwr := { PwrSt.zero with st := .ready }
    img := { ImgSt.zero with tables := [(6, some wideTable)] }
    tcr := { TcrSt.zero with cmds := [wideWipe] }
    hsh := { HshSt.zero with filter := [(6 * 2 ^ 24 + 2 ^ 24, true)] } }

/-- Refutes O36: the statement has WIPE clear every bit of a filter of any size, and WIPE clears the 2 ^ 24 places that the
model gives a table, so that bit 2 ^ 24 of the filter of `wideTable` still reads 1. No admitted image declares such a table (R60):
up to 2 ^ 14 Kbit WIPE does all that is said of it (`hshWipe_empties`), and the other clauses hold (`hshNext_asks`,
`flushPort_busy`, `flushPort_walks`, `hshPfxShareWrite_weighs`, `hshPfxShareWrite_refused`). -/
theorem not_dramTablesAreWalkedWipedFlushedAndWeighted : ¬ Obligations.DramTablesAreWalkedWipedFlushedAndWeighted := by
  unfold Obligations.DramTablesAreWalkedWipedFlushedAndWeighted
  intro holds
  obtain ⟨-, wipes, -⟩ := holds wideFilter
  have head : dramHead wideFilter 0x13 (fun _ => false) = some wideWipe := by decide +kernel
  have unarmed : flag wideFilter Reg.intFlipCtrl 31 = false := by decide +kernel
  have room : bloomBase wideFilter wideWipe.table + 16 * wideTable.bloom ≤ 2 ^ 36 := by decide +kernel
  have idle : ∀ o ∈ wideFilter.hsh.ops, o.table = wideWipe.table → isWriteOp o.opcode = false := by
    intro o ho
    cases ho
  obtain ⟨t, ht, -, -, -, -, -, empty, -⟩ := wipes wideWipe wideTable rfl rfl head idle
  rw [core_hshWipe rfl] at ht
  injection ht with e
  have cleared := empty unarmed room (2 ^ 24) (by decide) rfl
  have kept := filterBit_hshWipe (s := wideFilter) (c := wideWipe) (d := wideTable) rfl head idle unarmed rfl room
    (p := 2 ^ 24) (by decide)
  rw [← e, kept] at cleared
  exact absurd cleared (by decide)

end Sys2Proof.Machine
end

section
namespace Sys2Proof.Machine

/-! ### The waymark writer: what its reads and its writes leave (R286, R304) -/

section Writer
variable (s : State)

@[simp] theorem readWords_way (mem m : Nat) (ws : List Nat) : (readWords s mem m ws).way = s.way :=
  (readOnly_readWords m ws).1 .way (by simp)

@[simp] theorem readWords_rgl (mem m : Nat) (ws : List Nat) : (readWords s mem m ws).rgl = s.rgl :=
  (readOnly_readWords m ws).1 .rgl (by simp)

@[simp] theorem wcnt_way (i n : Nat) : (wcnt s i n).way = s.way := wr_way s _ _

@[simp] theorem wayUncorr_cycle (n p : Nat) : (wayUncorr s n p).cycle = s.cycle := by simp [wayUncorr, wcnt]

theorem belowCounts_wayCnt {i : Nat} (h : i < 16) : belowCounts (Reg.wayCnt i) :=
  belowCounts_of_lt (by simp only [Reg.wayCnt]; omega)

theorem only_present (m : Nat) (slot : Bool) (p : Purpose) (since : Nat) (gs : List Gran) :
    Only [.rgl] [] s (present s m slot p since gs) := only_setRgl s _

/-- An uncorrectable word among those read is reported (R304). -/
def reportIf (bad : Bool) (n p : Nat) : State := if bad then wayUncorr s n p else s

/-- A write of the writer, master 46: a bad word is reported, the write is counted, its granules are asked for (R286, R304). -/
def sendWrite (bad : Bool) (n p i : Nat) (x : Purpose) (gs : List Gran) : State :=
  present (wcnt (reportIf s bad n p) i 1) 46 false x s.cycle gs

variable (bad : Bool) (n p i : Nat) (x : Purpose) (gs : List Gran)

theorem only_reportIf : Only [] [Reg.wayCnt 13, Reg.wayEvt, Reg.wayErr] s (reportIf s bad n p) := by
  cases bad
  · exact Only.refl _ _ s
  · exact only_wayUncorr s n p

theorem only_sendWrite : Only [.rgl] [Reg.wayCnt i, Reg.wayCnt 13, Reg.wayEvt, Reg.wayErr] s (sendWrite s bad n p i x gs) :=
  (((only_reportIf s bad n p).trans (only_bump _ (Reg.wayCnt i) 1)).trans (only_present _ 46 false x _ gs)).mono (by simp)
    (by simp)

theorem only_sendWrite_clean : Only [.rgl] [Reg.wayCnt i] s (sendWrite s false n p i x gs) :=
  (only_bump s (Reg.wayCnt i) 1).trans (only_present _ 46 false x _ gs)

@[simp] theorem sendWrite_way : (sendWrite s bad n p i x gs).way = s.way := (only_sendWrite s bad n p i x gs).1 .way (by simp)

@[simp] theorem sendWrite_cycle : (sendWrite s bad n p i x gs).cycle = s.cycle := by
  cases bad <;> simp [sendWrite, reportIf, present, wcnt]

/-- The request stands with the regulator under its next number. -/
theorem sendWrite_request : ∃ r ∈ (sendWrite s bad n p i x gs).rgl.reqs,
    r.id = s.rgl.nextId ∧ r.master = 46 ∧ r.purpose = x ∧ r.grans = gs := by
  have hid : (wcnt (reportIf s bad n p) i 1).rgl = s.rgl :=
    ((only_reportIf s bad n p).trans (only_bump _ (Reg.wayCnt i) 1)).1 .rgl (by simp)
  exact ⟨_, List.mem_append_right _ (List.mem_singleton.2 rfl), congrArg RglSt.nextId hid, rfl, rfl, rfl⟩

/-- The write is counted once. -/
theorem rd_sendWrite (hi : i < 13) :
    rd (sendWrite s bad n p i x gs) (Reg.wayCnt i) = (rd s (Reg.wayCnt i) + 1) % 2 ^ 48 := by
  have apart : ∀ i : Fin 13, Reg.wayCnt i ∉ [Reg.wayCnt 13, Reg.wayEvt, Reg.wayErr] := by decide
  have hb : belowCounts (Reg.wayCnt i) := belowCounts_wayCnt (by omega)
  rw [sendWrite, (only_present _ 46 false x _ gs).rd_eq hb (by simp), wcnt, rd_bump_same,
    (only_reportIf s bad n p).rd_eq hb (apart ⟨i, hi⟩)]

/-- A bad word latches the index's error event (R304, R311). -/
theorem flag_sendWrite (hi : i < 16) : flag (sendWrite s true n p i x gs) Reg.wayEvt 2 = true := by
  have apart : Reg.wayEvt ∉ [Reg.wayCnt i] := by simp [Reg.wayEvt, Reg.wayCnt]; omega
  have hb : belowCounts Reg.wayEvt := belowCounts_of_lt (by decide)
  have kept : rd (sendWrite s true n p i x gs) Reg.wayEvt = rd (wayUncorr s n p) Reg.wayEvt :=
    ((only_bump (wayUncorr s n p) (Reg.wayCnt i) 1).trans (only_present _ 46 false x _ gs)).rd_eq hb (by simpa using apart)
  rw [flag_congr kept, flag_wayUncorr]

end Writer

/-! ### GROUP_WRITE and COMBINE_TIMEOUT (R286) -/

section Groups
variable (s : State) (p g : Nat)

/-- The records of a group marked as written. -/
def markWritten : State :=
  { s with way := { s.way with recs := s.way.recs.map (fun r =>
    if r.page = p ∧ r.index / 8 = g then { r with written := true } else r) } }

/-- A word of memory 0x08 with a record of the group is uncorrectable (R304). -/
def groupBad : Bool := (groupRecs s p g).any (fun r => badWords s 8 (placeWord r.place) 4)

/-- A group marked as written, with the places of its new records read (R286, R423). -/
def groupRead : State :=
  readWords (markWritten s p g) 8 46
    (((groupRecs s p g).map (fun r => (List.range 4).map (fun k => placeWord r.place + k))).flatten)

/-- The first index behind the group's new records. -/
def groupEnd : Nat := (groupRecs s p g).foldl (fun a r => max a (r.index + 1)) 0

theorem writeGroup_eq : writeGroup s p g = sendWrite (groupRead s p g) (groupBad s p g) (pageOf s p).stream p 11
    (.wayWrite p g (groupEnd s p g)) (recGrans s (groupRecs s p g)) := by
  have hc : (groupRead s p g).cycle = s.cycle := readWords_cycle _ _ _ _
  rw [sendWrite, hc]
  rfl

theorem only_groupRead : Only [.way, .intg] (readRegs 8) s (groupRead s p g) :=
  (only_setWay s _).trans (readOnly_readWords 46 _)

theorem rd_groupRead {i : Nat} (hi : i < 16) : rd (groupRead s p g) (Reg.wayCnt i) = rd s (Reg.wayCnt i) :=
  (only_groupRead s p g).rd_eq (belowCounts_wayCnt hi) (not_mem_readRegs (by simp only [Reg.wayCnt]; omega))

theorem writeGroup_way : (writeGroup s p g).way = (markWritten s p g).way := by
  rw [writeGroup_eq, sendWrite_way, groupRead, readWords_way]

/-- What writing a group does (R286): its records are written, its granules are asked for, an error is reported (R304). -/
theorem writeGroup_writes :
    (∀ r ∈ (writeGroup s p g).way.recs, r.page = p → r.index / 8 = g → r.written = true) ∧
    (∃ r ∈ (writeGroup s p g).rgl.reqs, r.id = s.rgl.nextId ∧ r.master = 46 ∧ r.grans = recGrans s (groupRecs s p g)) ∧
    (writeGroup s p g).way.pages = s.way.pages := by
  refine ⟨fun r hr hp hg => ?_, ?_, by rw [writeGroup_way]; rfl⟩
  · rw [writeGroup_way] at hr
    obtain ⟨r0, -, rfl⟩ := List.mem_map.1 hr
    by_cases h : r0.page = p ∧ r0.index / 8 = g
    · simp [h]
    · rw [if_neg h] at hp hg
      exact absurd ⟨hp, hg⟩ h
  · rw [writeGroup_eq]
    obtain ⟨r, hr, hid, hm, -, hg⟩ := sendWrite_request (groupRead s p g) (groupBad s p g) (pageOf s p).stream p 11
      (.wayWrite p g (groupEnd s p g)) (recGrans s (groupRecs s p g))
    exact ⟨r, hr, hid.trans (by simp [groupRead, markWritten]), hm, hg⟩

theorem only_writeGroup : Only [.way, .rgl, .intg]
    ([Reg.wayCnt 11, Reg.wayCnt 13, Reg.wayEvt, Reg.wayErr] ++ readRegs 8) s (writeGroup s p g) := by
  rw [writeGroup_eq]
  exact ((only_groupRead s p g).trans (only_sendWrite _ _ _ _ _ _ _)).mono (by simp) List.perm_append_comm.subset

theorem only_writeGroup_clean (h : groupBad s p g = false) :
    Only [.way, .rgl, .intg] (Reg.wayCnt 11 :: readRegs 8) s (writeGroup s p g) := by
  rw [writeGroup_eq, h]
  exact ((only_groupRead s p g).trans (only_sendWrite_clean _ _ _ _ _ _)).mono (by simp) (by simp)

variable {s}

/-- GROUP_WRITE writes the group that is due (R286, R304). -/
theorem groupWrite_writes {k : Nat × Nat} (ha : awake s = true) (hh : heldM s 46 true = false) (hd : dueGroup s = some k) :
    Ends .groupWrite s fun t =>
      (∀ r ∈ t.way.recs, r.page = k.1 → r.index / 8 = k.2 → r.written = true) ∧
      (∃ r ∈ t.rgl.reqs, r.id = s.rgl.nextId ∧ r.master = 46 ∧ r.grans = recGrans s (groupRecs s k.1 k.2)) ∧
      t.way.pages = s.way.pages ∧ rd t (Reg.wayCnt 11) = (rd s (Reg.wayCnt 11) + 1) % 2 ^ 48 ∧
      ((groupRecs s k.1 k.2).any (fun r => badWords s 8 (placeWord r.place) 4) = true → flag t Reg.wayEvt 2 = true ∧
        Only [.way, .rgl, .intg] ([Reg.wayCnt 11, Reg.wayCnt 13, Reg.wayEvt, Reg.wayErr] ++ readRegs 8) s t) ∧
      ((groupRecs s k.1 k.2).any (fun r => badWords s 8 (placeWord r.place) 4) = false →
        Only [.way, .rgl, .intg] (Reg.wayCnt 11 :: readRegs 8) s t) := by
  obtain ⟨hrecs, hreq, hpages⟩ := writeGroup_writes s k.1 k.2
  have effect : groupWrite s = writeGroup s k.1 k.2 := by simp only [groupWrite, hh, hd, Bool.false_eq_true, if_false]
  refine ends_of (core_groupWrite ha) ?_
  rw [effect]
  refine ⟨by simpa using hrecs, by simpa using hreq, by simpa using hpages, ?_, fun hb => ⟨?_, ?_⟩, fun hb => ?_⟩
  · rw [rd_finish_below s (belowCounts_wayCnt (by decide)), writeGroup_eq, rd_sendWrite _ _ _ _ _ _ _ (by decide),
      rd_groupRead _ _ _ (by decide)]
  · have hb' : groupBad s k.1 k.2 = true := hb
    rw [flag_congr (rd_finish_below s (belowCounts_of_lt (by decide))), writeGroup_eq, hb',
      flag_sendWrite _ _ _ _ _ _ (by decide)]
  · exact (only_writeGroup s k.1 k.2).finished
  · exact (only_writeGroup_clean s k.1 k.2 hb).finished

/-- The group whose time has come holds a record that has waited COMBINE_US (R286). -/
theorem waited_of_timedGroup {k : Nat × Nat} (h : timedGroup s = some k) :
    ∃ r ∈ s.way.recs, r.page = k.1 ∧ r.index / 8 = k.2 ∧ r.since + fget s Reg.wayCtrl 25 16 * 800 ≤ s.cycle := by
  unfold timedGroup at h
  have waits := List.find?_some h
  obtain ⟨r, hr, hw⟩ := List.any_eq_true.1 waits
  obtain ⟨hm, hk⟩ := List.mem_filter.1 hr
  simp only [Bool.and_eq_true, decide_eq_true_eq] at hk
  exact ⟨r, hm, hk.1.1, hk.1.2, of_decide_eq_true hw⟩

/-- COMBINE_TIMEOUT writes the group that has waited COMBINE_US (R286). -/
theorem combineTimeout_writes {k : Nat × Nat} (ha : awake s = true) (hh : heldM s 46 true = false)
    (hd : timedGroup s = some k) : Ends .combineTimeout s fun t =>
      (∃ r ∈ s.way.recs, r.page = k.1 ∧ r.index / 8 = k.2 ∧ r.since + fget s Reg.wayCtrl 25 16 * 800 ≤ s.cycle) ∧
      (∀ r ∈ t.way.recs, r.page = k.1 → r.index / 8 = k.2 → r.written = true) ∧
      (∃ r ∈ t.rgl.reqs, r.id = s.rgl.nextId ∧ r.master = 46 ∧ r.grans = recGrans s (groupRecs s k.1 k.2)) ∧
      t.way.pages = s.way.pages ∧
      Only [.way, .rgl, .intg] ([Reg.wayCnt 11, Reg.wayCnt 13, Reg.wayEvt, Reg.wayErr] ++ readRegs 8) s t := by
  obtain ⟨hrecs, hreq, hpages⟩ := writeGroup_writes s k.1 k.2
  have effect : combineTimeout s = writeGroup s k.1 k.2 := by
    simp only [combineTimeout, hh, hd, Bool.false_eq_true, if_false]
  refine ends_of (core_combineTimeout ha) ?_
  rw [effect]
  exact ⟨waited_of_timedGroup hd, by simpa using hrecs, by simpa using hreq, by simpa using hpages,
    (only_writeGroup s k.1 k.2).finished⟩

/-- While the regulator holds the writer neither command does anything (R354, R355). -/
theorem writer_held (ha : awake s = true) (hh : heldM s 46 true = true) :
    (Ends .groupWrite s fun t => Only [] [] s t) ∧ (Ends .combineTimeout s fun t => Only [] [] s t) := by
  refine ⟨ends_of (core_groupWrite ha) ?_, ends_of (core_combineTimeout ha) ?_⟩
  · rw [groupWrite, if_pos hh]
    exact (Only.refl _ _ s).finished
  · rw [combineTimeout, if_pos hh]
    exact (Only.refl _ _ s).finished

end Groups
end Sys2Proof.Machine
end

section
namespace Sys2Proof.Machine

/-! ### Held headers (R286) -/

section Headers
variable (s : State) (k : Nat)

/-- The REACH values of a held header, with their groups within the quarter. -/
def heldReaches : List (Nat × Nat) :=
  (List.range 16).filterMap (fun i => (heldReach s (k / 4) (k % 4 * 16 + i)).map (fun v => (i, v)))

/-- The words of a held header that are uncorrectable (R304). -/
def headerBad : List Nat :=
  (badOf s (heldWord s k 0) 8).filter (fun w => (heldReaches s k).any (fun e => decide (e.1 / 2 = w)))

/-- The granule of a header's write (R280, R304). -/
def headerGran : Gran :=
  { Gran.wr (wayBase s + 256 * (k / 4) + k % 4)
      ((heldReaches s k).map (fun e => (List.range 4).map (fun i => (e.1 * 4 + i, (leBytes 4 e.2).getD i 0)))).flatten with
    bad := headerBad s k }

/-- A held header let go, its words read (R286, R423). -/
def headerRead : State :=
  let t := readWords s 8 46 ((List.range 8).map (fun w => heldWord s k 0 + w))
  { t with way := { t.way with heldOrder := t.way.heldOrder.filter (fun x => x ≠ k) } }

theorem headerRead_way :
    (headerRead s k).way = { s.way with heldOrder := s.way.heldOrder.filter (fun x => x ≠ k) } := by simp [headerRead]

@[simp] theorem headerRead_cycle : (headerRead s k).cycle = s.cycle := by simp only [headerRead, readWords_cycle]

theorem writeHeader_eq : writeHeader s k = sendWrite (headerRead s k) (decide (headerBad s k ≠ []))
    (pageOf s (k / 4)).stream (k / 4) 12 (.wayHeader k) [headerGran s k] := by
  have hr : reportIf (headerRead s k) (decide (headerBad s k ≠ [])) (pageOf s (k / 4)).stream (k / 4) =
      if headerBad s k = [] then headerRead s k else wayUncorr (headerRead s k) (pageOf s (k / 4)).stream (k / 4) := by
    by_cases h : headerBad s k = [] <;> simp [reportIf, h]
  rw [sendWrite, hr, headerRead_cycle]
  rfl

theorem only_headerRead : Only [.way, .intg] (readRegs 8) s (headerRead s k) :=
  ((readOnly_readWords 46 _).trans (only_setWay _ _)).mono (by simp) (by simp)

theorem rd_headerRead {i : Nat} (hi : i < 16) : rd (headerRead s k) (Reg.wayCnt i) = rd s (Reg.wayCnt i) :=
  (only_headerRead s k).rd_eq (belowCounts_wayCnt hi) (not_mem_readRegs (by simp only [Reg.wayCnt]; omega))

theorem writeHeader_way :
    (writeHeader s k).way = { s.way with heldOrder := s.way.heldOrder.filter (fun x => x ≠ k) } := by
  rw [writeHeader_eq, sendWrite_way, headerRead_way]

@[simp] theorem writeHeader_cycle : (writeHeader s k).cycle = s.cycle := by
  rw [writeHeader_eq, sendWrite_cycle, headerRead_cycle]

theorem only_writeHeader : Only [.way, .rgl, .intg]
    ([Reg.wayCnt 12, Reg.wayCnt 13, Reg.wayEvt, Reg.wayErr] ++ readRegs 8) s (writeHeader s k) := by
  rw [writeHeader_eq]
  exact ((only_headerRead s k).trans (only_sendWrite _ _ _ _ _ _ _)).mono (by simp) List.perm_append_comm.subset

variable {s k}

/-- With no group due GROUP_WRITE writes the held header that is due, and lets it go (R286). -/
theorem groupWrite_header (ha : awake s = true) (hh : heldM s 46 true = false) (hg : dueGroup s = none)
    (hd : dueHeader s = some k) : Ends .groupWrite s fun t =>
      t.way = { s.way with heldOrder := s.way.heldOrder.filter (fun x => x ≠ k) } ∧
      (∃ r ∈ t.rgl.reqs, r.id = s.rgl.nextId ∧ r.master = 46 ∧ r.purpose = .wayHeader k) ∧
      rd t (Reg.wayCnt 12) = (rd s (Reg.wayCnt 12) + 1) % 2 ^ 48 ∧
      Only [.way, .rgl, .intg] ([Reg.wayCnt 12, Reg.wayCnt 13, Reg.wayEvt, Reg.wayErr] ++ readRegs 8) s t := by
  have effect : groupWrite s = writeHeader s k := by simp only [groupWrite, hh, hg, hd, Bool.false_eq_true, if_false]
  refine ends_of (core_groupWrite ha) ?_
  rw [effect]
  refine ⟨by rw [finish_way, writeHeader_way], ?_, ?_, (only_writeHeader s k).finished⟩
  · rw [finish_rgl, writeHeader_eq]
    obtain ⟨r, hr, hid, hm, hx, -⟩ := sendWrite_request (headerRead s k) (decide (headerBad s k ≠ []))
      (pageOf s (k / 4)).stream (k / 4) 12 (.wayHeader k) [headerGran s k]
    exact ⟨r, hr, hid.trans (by simp [headerRead]), hm, hx⟩
  · rw [rd_finish_below s (belowCounts_wayCnt (by decide)), writeHeader_eq, rd_sendWrite _ _ _ _ _ _ _ (by decide),
      rd_headerRead _ _ (by decide)]

end Headers
end Sys2Proof.Machine
end

section
namespace Sys2Proof.Machine

/-! ### An insert joins its stream's open group (R286, R288) -/

section Place
variable (s : State) (k : Nat) (i : Insert)

/-- The registers that the write of a held header can reach (R286, R304). -/
abbrev headerRegs : List Nat := [Reg.wayCnt 12, Reg.wayCnt 13, Reg.wayEvt, Reg.wayErr]

/-- A full store of held headers writes its oldest (R286). -/
def roomMade : State :=
  if s.way.heldOrder.length ≥ 2048 then
    match s.way.heldOrder.head? with
    | some o => writeHeader s o
    | none => s
  else s

theorem roomMade_spare (h : s.way.heldOrder.length < 2048) : roomMade s = s := if_neg (Nat.not_le.2 h)

/-- Room is there, or the oldest header has been written. -/
theorem roomMade_cases : roomMade s = s ∨ ∃ o, roomMade s = writeHeader s o := by
  unfold roomMade
  split
  · split
    · exact .inr ⟨_, rfl⟩
    · exact .inl rfl
  · exact .inl rfl

theorem roomMade_way : ∃ o, (roomMade s).way = { s.way with heldOrder := o } := by
  rcases roomMade_cases s with h | ⟨o, h⟩
  · exact ⟨_, by rw [h]⟩
  · exact ⟨_, by rw [h, writeHeader_way]⟩

@[simp] theorem roomMade_cycle : (roomMade s).cycle = s.cycle := by
  rcases roomMade_cases s with h | ⟨o, h⟩
  · rw [h]
  · rw [h, writeHeader_cycle]

theorem only_roomMade : Only [.way, .rgl, .intg] (readRegs 8 ++ headerRegs) s (roomMade s) := by
  rcases roomMade_cases s with h | ⟨o, h⟩
  · rw [h]
    exact Only.refl _ _ s
  · rw [h]
    exact (only_writeHeader s o).mono (by simp) List.perm_append_comm.subset

/-- A new held header at place a of the store, its words written (R286, R410). -/
def headerAt (a : Nat) : State :=
  rangeWritten { s with way := { s.way with heldAt := s.way.heldAt ++ [(k, a)] } } 8 (65536 + 8 * a) 8

theorem headerAt_way (a : Nat) : (headerAt s k a).way = { s.way with heldAt := s.way.heldAt ++ [(k, a)] } := rangeWritten_way _ _ _ _

@[simp] theorem headerAt_cycle (a : Nat) : (headerAt s k a).cycle = s.cycle := rangeWritten_cycle _ _ _ _

theorem only_headerAt (a : Nat) : Only [.way, .intg] flipRegs s (headerAt s k a) :=
  (only_setWay s _).trans (only_rangeWritten _ 8 _ 8)

/-- The header is held already, or gets a place once there is room. -/
theorem headerRoom_cases : headerRoom s k = s ∨ ∃ a, headerRoom s k = headerAt (roomMade s) k a := by
  unfold headerRoom
  split
  · exact .inl rfl
  · exact .inr ⟨_, rfl⟩

theorem headerRoom_way : ∃ o a, (headerRoom s k).way = { s.way with
    heldOrder := o
    heldAt := a } := by
  rcases headerRoom_cases s k with h | ⟨a, h⟩
  · exact ⟨_, _, by rw [h]⟩
  · obtain ⟨o, ho⟩ := roomMade_way s
    exact ⟨o, _, by rw [h, headerAt_way, ho]⟩

@[simp] theorem headerRoom_cycle : (headerRoom s k).cycle = s.cycle := by
  rcases headerRoom_cases s k with h | ⟨a, h⟩
  · rw [h]
  · rw [h, headerAt_cycle, roomMade_cycle]

theorem only_headerRoom : Only [.way, .intg, .rgl] (flipRegs ++ readRegs 8 ++ headerRegs) s (headerRoom s k) := by
  rcases headerRoom_cases s k with h | ⟨a, h⟩
  · rw [h]
    exact Only.refl _ _ s
  · rw [h]
    refine ((only_roomMade s).trans (only_headerAt _ k a)).mono (by simp) ?_
    rw [List.append_assoc flipRegs]
    exact List.perm_append_comm.subset

theorem only_headerRoom_spare (h : s.way.heldOrder.length < 2048) : Only [.way, .intg] flipRegs s (headerRoom s k) := by
  rcases headerRoom_cases s k with e | ⟨a, e⟩
  · rw [e]
    exact Only.refl _ _ s
  · rw [e, roomMade_spare s h]
    exact only_headerAt s k a

/-- The entry of the stream's open page, whose milestone its first insert sets (R288). -/
def openEntry : Page :=
  let x := streamOf s i.stream
  let p := pageOf s x.openPage
  if x.placed = 0 then { p with milestone := i.stamp.ns, fill := 0, lastOfs := 0 } else p

theorem openEntry_milestone : (openEntry s i).milestone = if (streamOf s i.stream).placed = 0 then i.stamp.ns
    else (pageOf s (streamOf s i.stream).openPage).milestone := by
  unfold openEntry
  dsimp only
  split <;> rfl

/-- The record that an insert becomes: the next of its stream's open page, at its offset from the milestone (R281, R286). -/
def nextRecord : OpenRec :=
  let ofs := i.stamp.ns - (openEntry s i).milestone
  ⟨i.stream, (streamOf s i.stream).openPage, (streamOf s i.stream).placed, s.cycle, ofs, recordBytes ofs i, false, i.place, false⟩

/-- The page's entry and the stream's record after the insert. -/
def entriesPlaced : State :=
  setStream (setPage s (streamOf s i.stream).openPage (openEntry s i)) i.stream
    { streamOf s i.stream with placed := (streamOf s i.stream).placed + 1 }

/-- The group of the open page that the insert goes to, counted over all pages. -/
def groupKey : Nat := (streamOf s i.stream).openPage * 64 + (streamOf s i.stream).placed / 8

/-- The record joins its group, whose header is held (R286). -/
def recordJoined : State :=
  let t := entriesPlaced s i
  let k := groupKey s i
  wordMerged { t with way := { t.way with
      recs := t.way.recs ++ [nextRecord s i]
      held := KMap.put t.way.held k (some (i.stamp.ns - (openEntry s i).milestone))
      heldOrder := if t.way.heldOrder.contains (k / 16) then t.way.heldOrder else t.way.heldOrder ++ [k / 16] } }
    8 (heldWord t (k / 16) ((streamOf s i.stream).placed / 8))

theorem placeInsert_eq : placeInsert s i = recordJoined (headerRoom s (groupKey s i / 16)) i := rfl

theorem setPage_way (n : Nat) (x : Page) :
    (setPage s n x).way = { s.way with pages := s.way.pages.set (fun _ => Page.free) n x } := by
  rw [setPage, mergeWords_way]

theorem recordJoined_way : ∃ ps h o, (recordJoined s i).way = { s.way with
    pages := ps
    streams := s.way.streams.set (fun _ => Stream.zero) i.stream
      { streamOf s i.stream with placed := (streamOf s i.stream).placed + 1 }
    recs := s.way.recs ++ [nextRecord s i]
    held := h
    heldOrder := o } := by
  have placed : (entriesPlaced s i).way = { s.way with
      pages := s.way.pages.set (fun _ => Page.free) (streamOf s i.stream).openPage (openEntry s i)
      streams := s.way.streams.set (fun _ => Stream.zero) i.stream
        { streamOf s i.stream with placed := (streamOf s i.stream).placed + 1 } } := by
    rw [entriesPlaced, setStream_way, setPage_way]
  exact ⟨_, _, _, by rw [recordJoined, wordMerged_way, placed]⟩

theorem only_recordJoined : Only [.way, .intg] flipRegs s (recordJoined s i) :=
  ((((only_setPage s _ _).trans (only_setStream _ _ _)).trans (only_setWay _ _)).trans (only_wordMerged _ 8 _)).mono (by simp)
    (by simp)

/-- Only the index's pages, streams and time say what record an insert becomes. -/
theorem nextRecord_congr {t : State} (hc : t.cycle = s.cycle) (hp : t.way.pages = s.way.pages)
    (hs : t.way.streams = s.way.streams) : nextRecord t i = nextRecord s i := by
  have stream : streamOf t i.stream = streamOf s i.stream := by rw [streamOf, streamOf, hs]
  have entry : openEntry t i = openEntry s i := by rw [openEntry, openEntry, stream, pageOf, pageOf, hp]
  rw [nextRecord, nextRecord, stream, entry, hc]

theorem placeInsert_way : ∃ ps h o a, (placeInsert s i).way = { s.way with
    pages := ps
    streams := s.way.streams.set (fun _ => Stream.zero) i.stream
      { streamOf s i.stream with placed := (streamOf s i.stream).placed + 1 }
    recs := s.way.recs ++ [nextRecord s i]
    held := h
    heldOrder := o
    heldAt := a } := by
  obtain ⟨o, a, hr⟩ := headerRoom_way s (groupKey s i / 16)
  obtain ⟨ps, h, o', hj⟩ := recordJoined_way (headerRoom s (groupKey s i / 16)) i
  have record : nextRecord (headerRoom s (groupKey s i / 16)) i = nextRecord s i :=
    nextRecord_congr s i (headerRoom_cycle s _) (by rw [hr]) (by rw [hr])
  exact ⟨ps, h, o', a, by rw [placeInsert_eq, hj, record, streamOf, hr]; rfl⟩

theorem only_placeInsert : Only [.way, .intg, .rgl] (flipRegs ++ readRegs 8 ++ headerRegs) s (placeInsert s i) := by
  rw [placeInsert_eq]
  refine (only_headerRoom s _).more (only_recordJoined _ i) (by simp) ?_
  rw [List.append_assoc]
  exact List.subset_append_left _ _

theorem only_placeInsert_spare (h : s.way.heldOrder.length < 2048) : Only [.way, .intg] flipRegs s (placeInsert s i) := by
  rw [placeInsert_eq]
  exact (only_headerRoom_spare s _ h).more (only_recordJoined _ i) (by simp) (by simp)

end Place

/-! ### SETTLE_RELEASE (R285) -/

section Release
variable {s : State} {i : Insert}

/-- What the first insert that is due satisfies: its S cycles are over, and none of its stream comes before it (R284, R285). -/
theorem first_of_dueRelease (h : dueRelease s = some i) : i ∈ s.way.settle ∧ i.acc + s.way.settleS ≤ s.cycle ∧
    ∀ j ∈ s.way.settle, j.stream = i.stream → streamKey i ≤ streamKey j := by
  unfold dueRelease at h
  have first := List.find?_some h
  rw [Bool.and_eq_true, List.all_eq_true] at first
  refine ⟨List.mem_of_find?_eq_some h, of_decide_eq_true first.1, fun j hj hs => ?_⟩
  simpa [hs] using first.2 j hj

/-- An insert whose stream's open page takes it, and whose entries read well, is placed there (R285, R288, R304). -/
theorem releaseInsert_placed (ho : (streamOf s i.stream).owned ≠ 0) (hm : mustClose s i = false)
    (hb : (streamOf s i.stream).bad = false) (hs : streamBad s i.stream = false)
    (hp : pageBad s (streamOf s i.stream).openPage = false) : releaseInsert s i = placeInsert (settleLeft s i) i := by
  have same : streamOf (settleLeft s i) i.stream = streamOf s i.stream := rfl
  have stays : mustClose (settleLeft s i) i = false := hm
  have read : (releaseEntries (settleLeft s i) i).2 = none := by
    rw [releaseEntries, same, if_neg (by simp [hb, ho]),
      readEntries_ok (s := settleLeft s i) 46 hs (List.forall_mem_singleton.2 hp)]
  rw [releaseInsert_eq, same, read, stays]
  simp [hb, ho]

/-- SETTLE_RELEASE places the insert that is due as the next record of its stream's open page (R284–R288). -/
theorem settleRelease_places {x : Stream} (ha : awake s = true) (hd : dueRelease s = some i) (hx : x = streamOf s i.stream)
    (ho : x.owned ≠ 0) (hm : mustClose s i = false) (hb : x.bad = false) (hs : streamBad s i.stream = false)
    (hp : pageBad s x.openPage = false) : Ends .settleRelease s fun t =>
      i ∈ s.way.settle ∧ i.acc + s.way.settleS ≤ s.cycle ∧
      (∀ j ∈ s.way.settle, j.stream = i.stream → streamKey i ≤ streamKey j) ∧
      t.way.settle = s.way.settle.erase i ∧ (streamOf t i.stream).placed = x.placed + 1 ∧
      t.way.recs = s.way.recs ++ [⟨i.stream, x.openPage, x.placed, s.cycle,
        i.stamp.ns - (if x.placed = 0 then i.stamp.ns else (pageOf s x.openPage).milestone),
        recordBytes (i.stamp.ns - (if x.placed = 0 then i.stamp.ns else (pageOf s x.openPage).milestone)) i, false,
        i.place, false⟩] ∧
      t.way.used = s.way.used ∧ (∀ n, n ≠ i.stream → streamOf t n = streamOf s n) ∧
      (s.way.heldOrder.length < 2048 → Only [.way, .intg] flipRegs s t) ∧
      Only [.way, .intg, .rgl] (flipRegs ++ readRegs 8 ++ [Reg.wayCnt 12, Reg.wayCnt 13, Reg.wayEvt, Reg.wayErr]) s t := by
  subst hx
  have effect : settleRelease s = placeInsert (settleLeft s i) i := by
    rw [settleRelease, hd, ← releaseInsert_placed ho hm hb hs hp]
  have left : Only [.way] [] s (settleLeft s i) := only_setWay s _
  obtain ⟨hin, hdue, hfirst⟩ := first_of_dueRelease hd
  obtain ⟨ps, h, o, a, hway⟩ := placeInsert_way (settleLeft s i) i
  have hway' := (finish_way s _).trans hway
  refine ends_of (core_settleRelease ha) ?_
  rw [effect]
  refine ⟨hin, hdue, hfirst, by rw [hway']; rfl, ?_, ?_, by rw [hway']; rfl, fun n hn => ?_, fun hl => ?_, ?_⟩
  · rw [streamOf, hway', KMap.get_set_same]
    rfl
  · rw [hway', ← openEntry_milestone]
    rfl
  · rw [streamOf, hway', KMap.get_set_ne _ _ _ hn]
    rfl
  · exact ((left.trans (only_placeInsert_spare _ i hl)).mono (by simp) (by simp)).finished
  · exact ((left.trans (only_placeInsert _ i)).mono (by simp) (by simp)).finished

end Release
end Sys2Proof.Machine
end

section
namespace Sys2Proof.Machine

/-! ### A stream's head page is freed (R292–R294) -/

section Free
variable (s : State) (n p : Nat)

theorem pageOf_congr {t : State} (h : t.way.pages = s.way.pages) (q : Nat) : pageOf t q = pageOf s q := by
  rw [pageOf, pageOf, h]

@[simp] theorem pageOf_setPage (x : Page) : pageOf (setPage s p x) p = x := by
  rw [pageOf, setPage_way]
  exact KMap.get_set_same _ _ _ _

theorem pageOf_setPage_ne {q : Nat} (x : Page) (h : q ≠ p) : pageOf (setPage s p x) q = pageOf s q := by
  rw [pageOf, setPage_way]
  exact KMap.get_set_ne _ _ _ h

/-- What leaves the combine space with a page is neither a page, a stream nor a visit. -/
theorem dropRecs_way : ∃ r h o a u k l d, (dropRecs s p).way = { s.way with
    recs := r
    held := h
    heldOrder := o
    heldAt := a
    used := u
    peak := k
    low := l
    drain := d } := by
  unfold dropRecs
  dsimp only
  split
  · exact ⟨_, _, _, _, _, _, _, _, rfl⟩
  · exact ⟨_, _, _, _, _, _, _, _, usePlaces_way _ _⟩

theorem only_dropRecs : Only [.way] [Reg.wayEvt] s (dropRecs s p) := by
  have dropped (w : WaySt) : Only [.way] [Reg.wayEvt] s (pruneHeld { s with way := w }) :=
    ((only_setWay s w).trans (only_setWay _ _)).mono (by simp) (by simp)
  unfold dropRecs
  dsimp only
  split
  · exact dropped _
  · exact (dropped _).more (only_usePlaces _ _) (by simp) (by simp)

/-- The head page of a stream, taken out of the stream's ring and free again, before what it held leaves the combine space. -/
def headTaken : State :=
  setPage (dropHead s n) (streamOf s n).head { pageOf (dropHead s n) (streamOf s n).head with
    owned := false
    fill := 0 }

theorem freeHead_eq : freeHead s n = auditPage (dropRecs (headTaken s n) (streamOf s n).head) := rfl

theorem only_headTaken : Only [.way, .intg] flipRegs s (headTaken s n) :=
  ((only_setStream s n _).trans (only_setPage _ _ _)).mono (by simp) (by simp)

/-- The registers that freeing a page can reach: an event of the combine space, an armed fault, a failing ledger. -/
abbrev freeRegs : List Nat := Reg.wayEvt :: flipRegs ++ ledgerRegs

theorem only_freeHead : Only [.way, .intg] freeRegs s (freeHead s n) := by
  rw [freeHead_eq]
  exact (((only_headTaken s n).trans (only_dropRecs _ _)).trans (only_auditPage _)).mono (by simp) (by
    intro o ho
    simp only [List.mem_append, List.mem_cons, List.not_mem_nil, or_false] at ho ⊢
    tauto)

theorem freeHead_kept : (freeHead s n).way.pages = (headTaken s n).way.pages ∧
    (freeHead s n).way.streams = (headTaken s n).way.streams ∧ (freeHead s n).way.visit = (headTaken s n).way.visit := by
  obtain ⟨r, h, o, a, u, k, l, d, e⟩ := dropRecs_way (headTaken s n) (streamOf s n).head
  rw [freeHead_eq, auditPage_way, e]
  exact ⟨rfl, rfl, rfl⟩

theorem dropHead_pages : (dropHead s n).way.pages = s.way.pages := by rw [dropHead, setStream_way]

theorem freeHead_visit : (freeHead s n).way.visit = s.way.visit := by
  rw [(freeHead_kept s n).2.2, headTaken, setPage_way, dropHead, setStream_way]

theorem streamOf_freeHead (u : Nat) : streamOf (freeHead s n) u = streamOf (dropHead s n) u := by
  rw [streamOf, (freeHead_kept s n).2.1, headTaken, setPage_way]
  rfl

theorem owned_freeHead : (streamOf (freeHead s n) n).owned = (streamOf s n).owned - 1 := by
  rw [streamOf_freeHead, dropHead, streamOf_setStream]

theorem streamOf_freeHead_ne {u : Nat} (h : u ≠ n) : streamOf (freeHead s n) u = streamOf s u := by
  rw [streamOf_freeHead, dropHead, streamOf_setStream_ne _ _ h]

theorem pageOf_freeHead (q : Nat) : pageOf (freeHead s n) q = pageOf (headTaken s n) q :=
  pageOf_congr _ (freeHead_kept s n).1 q

theorem pageOf_freeHead_head : (pageOf (freeHead s n) (streamOf s n).head).owned = false := by
  rw [pageOf_freeHead, headTaken, pageOf_setPage]

theorem pageOf_freeHead_ne {q : Nat} (h : q ≠ (streamOf s n).head) : pageOf (freeHead s n) q = pageOf s q := by
  rw [pageOf_freeHead, headTaken, pageOf_setPage_ne _ _ _ h, pageOf_congr s (dropHead_pages s n)]

theorem wayCnt_not_mem_freeRegs {i : Nat} (hi : i < 16) : Reg.wayCnt i ∉ freeRegs := by
  have apart : ∀ i : Fin 16, Reg.wayCnt i ∉ freeRegs := by decide
  exact apart ⟨i, hi⟩

/-- A head page freed and counted. -/
theorem rd_freed {i : Nat} (hi : i < 16) : rd (wcnt (freeHead s n) i 1) (Reg.wayCnt i) = (rd s (Reg.wayCnt i) + 1) % 2 ^ 48 := by
  rw [wcnt, rd_bump_same, (only_freeHead s n).rd_eq (belowCounts_wayCnt hi) (wayCnt_not_mem_freeRegs hi)]

theorem only_freed (i : Nat) : Only [.way, .intg] ([Reg.wayCnt i, Reg.wayEvt] ++ flipRegs ++ ledgerRegs) s
    (wcnt (freeHead s n) i 1) :=
  ((only_freeHead s n).mono (by simp) (List.subset_cons_self _ _)).bump 1 (by simp)

end Free

/-! ### PRESSURE_FREE (R292) -/

section Pressure
variable (s : State)

/-- Pressure freeing begins: its event is latched once (R292, R311). -/
def pressed : State := if s.way.pressing then s else setEvt s Reg.wayEvt 0

theorem pressed_way : (pressed s).way = s.way := by
  unfold pressed
  split
  · rfl
  · exact setEvt_way s _ _

theorem only_pressed : Only [] [Reg.wayEvt] s (pressed s) := by
  unfold pressed
  split
  · exact Only.refl _ _ s
  · exact only_setEvt s _ _

/-- The victim's head page freed and counted. -/
def victimFreed (v : Nat) : State := wcnt (freeHead (pressed s) v) 5 1

theorem only_victimFreed (v : Nat) :
    Only [.way, .intg] ([Reg.wayCnt 5, Reg.wayEvt] ++ flipRegs ++ ledgerRegs) s (victimFreed s v) :=
  ((only_pressed s).mono (by simp) (by simp)).more (only_freed (pressed s) v 5) (by simp) (by simp)

variable {s} {v : Nat}

/-- Freeing goes on, or not, and waits four cycles (R292). -/
def pressSet (t : State) (next : Nat) : State :=
  { t with way := { t.way with
    pressing := decide (freePages t < fget t Reg.wayPress 31 16)
    nextFree := next } }

theorem streamOf_pressSet (t : State) (next n : Nat) : streamOf (pressSet t next) n = streamOf t n := rfl

theorem pageOf_pressSet (t : State) (next p : Nat) : pageOf (pressSet t next) p = pageOf t p := rfl

theorem only_pressSet (t : State) (next : Nat) : Only [.way] [] t (pressSet t next) := only_setWay t _

theorem streamOf_victimFreed (n : Nat) : streamOf (victimFreed s v) n = streamOf (freeHead (pressed s) v) n :=
  streamOf_congr (wcnt_way _ _ _) n

theorem pageOf_victimFreed (p : Nat) : pageOf (victimFreed s v) p = pageOf (freeHead (pressed s) v) p :=
  pageOf_congr _ (by rw [victimFreed, wcnt_way]) p

theorem rd_victimFreed : rd (victimFreed s v) (Reg.wayCnt 5) = (rd s (Reg.wayCnt 5) + 1) % 2 ^ 48 := by
  rw [victimFreed, rd_freed _ _ (by decide), (only_pressed s).rd_eq (belowCounts_wayCnt (by decide)) (by decide)]

theorem pressureFree_eq (hv : victim s = some v) : pressureFree s = pressSet (victimFreed s v) (s.cycle + 4) := by
  unfold pressureFree pressSet victimFreed pressed
  rw [hv]

/-- PRESSURE_FREE frees the victim's head page, counts it, and waits four cycles (R291, R292). -/
theorem pressureFree_frees (ha : awake s = true) (hp : pressureOn s = true) (hn : s.way.nextFree ≤ s.cycle)
    (hv : victim s = some v) : Ends .pressureFree s fun t =>
      (pageOf t (streamOf s v).head).owned = false ∧ (streamOf t v).owned = (streamOf s v).owned - 1 ∧
      (∀ n, n ≠ v → streamOf t n = streamOf s n) ∧ (∀ p, p ≠ (streamOf s v).head → pageOf t p = pageOf s p) ∧
      t.way.nextFree = s.cycle + 4 ∧ rd t (Reg.wayCnt 5) = (rd s (Reg.wayCnt 5) + 1) % 2 ^ 48 ∧
      Only [.way, .intg] ([Reg.wayCnt 5, Reg.wayEvt] ++ flipRegs ++ ledgerRegs) s t := by
  have hs : ∀ n, streamOf (pressed s) n = streamOf s n := streamOf_congr (pressed_way s)
  have hq : ∀ p, pageOf (pressed s) p = pageOf s p := pageOf_congr s (by rw [pressed_way])
  have streams : ∀ n, streamOf (finish s (pressSet (victimFreed s v) (s.cycle + 4))) n = streamOf (freeHead (pressed s) v) n :=
    fun n => by rw [streamOf_congr (finish_way s _), streamOf_pressSet, streamOf_victimFreed]
  have pages : ∀ p, pageOf (finish s (pressSet (victimFreed s v) (s.cycle + 4))) p = pageOf (freeHead (pressed s) v) p :=
    fun p => by rw [pageOf_congr _ (congrArg WaySt.pages (finish_way s _)), pageOf_pressSet, pageOf_victimFreed]
  refine ends_of (core_pressureFree ha) ?_
  rw [pressureStep, if_pos ⟨hp, hn⟩, pressureFree_eq hv]
  refine ⟨?_, ?_, fun n h => ?_, fun p h => ?_, by rw [finish_way, pressSet], ?_, ?_⟩
  · rw [pages, ← hs v, pageOf_freeHead_head]
  · rw [streams, owned_freeHead, hs]
  · rw [streams, streamOf_freeHead_ne _ _ h, hs]
  · rw [pages, pageOf_freeHead_ne _ _ (by rwa [hs]), hq]
  · rw [rd_finish_below s (belowCounts_wayCnt (by decide)),
      (only_pressSet _ _).rd_eq (belowCounts_wayCnt (by decide)) (by simp), rd_victimFreed]
  · exact ((only_victimFreed s v).more (only_pressSet _ _) (by simp) (by simp)).finished

/-- Without pressure PRESSURE_FREE does nothing (R292). -/
theorem pressureFree_rests (ha : awake s = true) (hp : pressureOn s = false) :
    Ends .pressureFree s fun t => Only [] [] s t := by
  refine ends_of (core_pressureFree ha) ?_
  rw [pressureStep, if_neg (by simp [hp])]
  exact (Only.refl _ _ s).finished

end Pressure

/-! ### AGE_VISIT (R293) -/

section Visit
variable {s : State}

/-- The next stream is visited from the next cycle on (R293). -/
def visited (s : State) : State :=
  { s with way := { s.way with
    visit := (s.way.visit + 1) % 65536
    visitAt := s.cycle + 1 } }

theorem only_visited (s : State) : Only [.way] [] s (visited s) := only_setWay s _

/-- The visited stream's head page freed and counted, its event latched (R293, R311). -/
def agedFreed (s : State) : State := setEvt (wcnt (freeHead (visited s) s.way.visit) 6 1) Reg.wayEvt 5

/-- An idle writer makes its visit, once in a cycle. -/
theorem ageVisit_idle (hi : writerIdle s = true) (hv : s.way.visitAt ≤ s.cycle) :
    ageVisit s = if agedOut s s.way.visit then agedFreed s else visited s := by
  have due : (writerIdle s && decide (s.way.visitAt ≤ s.cycle)) = true := by rw [hi, decide_eq_true hv]; rfl
  rw [ageVisit, if_pos due]
  rfl

theorem only_agedFreed : Only [.way, .intg] ([Reg.wayCnt 6, Reg.wayEvt] ++ flipRegs ++ ledgerRegs) s (agedFreed s) :=
  (((only_visited s).mono (by simp) (by simp)).more (only_freed (visited s) s.way.visit 6) (by simp) (by simp)).setEvt 5 (by simp)

/-- A second visit of a cycle does nothing (R293). -/
theorem ageVisit_waits (ha : awake s = true) (hv : s.cycle < s.way.visitAt) :
    Ends .ageVisit s fun t => Only [] [] s t := by
  refine ends_of (core_ageVisit ha) ?_
  rw [ageVisit, if_neg (by simp [Nat.not_le.2 hv])]
  exact (Only.refl _ _ s).finished

/-- AGE_VISIT moves to the next stream, and frees the visited one's head page if that has aged out (R293). -/
theorem ageVisit_visits (ha : awake s = true) (hi : writerIdle s = true) (hv : s.way.visitAt ≤ s.cycle) :
    Ends .ageVisit s fun t =>
      t.way.visit = (s.way.visit + 1) % 65536 ∧
      (agedOut s s.way.visit = true → (pageOf t (streamOf s s.way.visit).head).owned = false ∧
        (streamOf t s.way.visit).owned = (streamOf s s.way.visit).owned - 1 ∧ flag t Reg.wayEvt 5 = true ∧
        rd t (Reg.wayCnt 6) = (rd s (Reg.wayCnt 6) + 1) % 2 ^ 48 ∧
        Only [.way, .intg] ([Reg.wayCnt 6, Reg.wayEvt] ++ flipRegs ++ ledgerRegs) s t) ∧
      (agedOut s s.way.visit = false → t.way = { s.way with
          visit := (s.way.visit + 1) % 65536
          visitAt := s.cycle + 1 } ∧ Only [.way] [] s t) := by
  have freed : (agedFreed s).way = (freeHead (visited s) s.way.visit).way := by rw [agedFreed, setEvt_way, wcnt_way]
  have hway := (finish_way s (agedFreed s)).trans freed
  refine ends_of (core_ageVisit ha) ?_
  rw [ageVisit_idle hi hv]
  refine ⟨?_, fun hage => ?_, fun hage => ?_⟩
  · split
    · rw [hway, freeHead_visit]
      rfl
    · rw [finish_way]
      rfl
  · rw [if_pos hage]
    refine ⟨?_, ?_, ?_, ?_, only_agedFreed.finished⟩
    · rw [pageOf_congr _ (congrArg WaySt.pages hway)]
      exact pageOf_freeHead_head (visited s) _
    · rw [streamOf_congr hway]
      exact owned_freeHead (visited s) _
    · rw [flag_congr (rd_finish_below s (belowCounts_of_lt (by decide))), agedFreed, flag_setEvt_same _ _ _ (by decide)]
    · rw [rd_finish_below s (belowCounts_wayCnt (by decide)), agedFreed, rd_setEvt_ne _ _ (by decide),
        rd_freed _ _ (by decide), (only_visited s).rd_eq (belowCounts_wayCnt (by decide)) (by simp)]
  · rw [if_neg (by simp [hage])]
    exact ⟨finish_way s _, (only_visited s).finished⟩

end Visit

/-- Settles O37: each command's own theorem, GROUP_WRITE and COMBINE_TIMEOUT by what is due and whether the writer is held
(R284-R286, R288, R292, R293). -/
theorem waymarksSettleGroupAndGiveWayToNewOnes : Obligations.WaymarksSettleGroupAndGiveWayToNewOnes := by
  unfold Obligations.WaymarksSettleGroupAndGiveWayToNewOnes
  intro s ha
  exact ⟨fun _ _ => settleRelease_places ha, fun _ => groupWrite_writes ha, fun _ => groupWrite_header ha, writer_held ha,
    fun _ => combineTimeout_writes ha, fun _ => pressureFree_frees ha, pressureFree_rests ha, ageVisit_waits ha,
    ageVisit_visits ha⟩

end Sys2Proof.Machine
end

section
namespace Sys2Proof.Machine

/-! ### AGE_LIMIT (R320, R322) -/

section AgeLimit
variable {s : State} {m : Requester} {n : Fin 64} {v : BitVec 32}

theorem belowCounts_ageLimit (n : Fin 64) : belowCounts (Reg.ageLimit n.val) :=
  belowCounts_of_lt (by have := n.isLt; simp only [Reg.ageLimit]; omega)

/-- A non-zero limit of a table that ages is taken (R322). -/
theorem ageLimitWrite_takes {c t x : Nat} {d : TblDecl} (ht : tblOf s t = some d) (ha : d.age = true) (hx : x ≠ 0)
    (hlt : x < 2 ^ 32) : ageLimitWrite s c t x = wr s (Reg.ageLimit t) x := by
  unfold ageLimitWrite
  rw [Nat.mod_eq_of_lt hlt, ht]
  simp [ha, hx]

/-- A limit of 0, or of a table that does not age or is not declared, is refused (R322). -/
theorem ageLimitWrite_refuses {c t x : Nat} (h : x = 0 ∨ ∀ d, tblOf s t = some d → d.age = false) :
    ageLimitWrite s c t x = rsvd s c (Reg.ageLimit t) := by
  unfold ageLimitWrite
  refine if_pos ?_
  obtain rfl | h := h
  · rfl
  · cases ht : tblOf s t with
    | none => simp
    | some d => simp [h d ht]

theorem tblOf_portCount (t : Nat) : tblOf (portCount s m) t = tblOf s t := by rw [tblOf, tblOf, portCount_img]

theorem ageLimitWrite_rescales (hw : mayWrite s m (Reg.ageLimit n.val) 4 = true) (d : TblDecl) (ht : tblOf s n.val = some d)
    (ha : d.age = true) (hv : v.toNat ≠ 0) : Ends (.ageLimitWrite m n v) s fun t =>
      rd t (Reg.ageLimit n.val) = v.toNat ∧ tickNs t n.val = v.toNat * 15625 ∧ t.age.tick = s.age.tick ∧
      t.age.base = s.age.base ∧ t.drc.mem = s.drc.mem ∧ t.hsh.stash = s.hsh.stash ∧
      Only [] (Reg.ageLimit n.val :: portRegs m) s t := by
  refine ends_of (exec_ageLimitWrite n v hw) ?_
  rw [ageLimitWrite_takes ((tblOf_portCount _).trans ht) ha hv v.isLt]
  have only : Only [] (Reg.ageLimit n.val :: portRegs m) s
      (finish s (wr (portCount s m) (Reg.ageLimit n.val) v.toNat)) := (only_wr _ _ _).counted
  have hr : rd (finish s (wr (portCount s m) (Reg.ageLimit n.val) v.toNat)) (Reg.ageLimit n.val) = v.toNat := by
    rw [rd_finish_below s (belowCounts_ageLimit n), rd_wr_same, Nat.mod_eq_of_lt (v.isLt.trans (by decide))]
  have hage := only.1 .age (by simp)
  exact ⟨hr, by rw [tickNs, hr], congrArg AgeSt.tick hage, congrArg AgeSt.base hage,
    congrArg DrcSt.mem (only.1 .drc (by simp)), congrArg HshSt.stash (only.1 .hsh (by simp)), only⟩

theorem ageLimitWrite_reserved (hw : mayWrite s m (Reg.ageLimit n.val) 4 = true)
    (h : v.toNat = 0 ∨ ∀ d, tblOf s n.val = some d → d.age = false) : Ends (.ageLimitWrite m n v) s fun t =>
      flag t Reg.topErr 0 = true ∧ Only [] (errRegs ++ portRegs m) s t := by
  refine ends_of (exec_ageLimitWrite n v hw) ?_
  rw [ageLimitWrite_refuses (by simpa only [tblOf_portCount] using h)]
  exact ⟨(flag_finish_err s _ 0).trans (flag_rsvd _ _ _), (only_rsvd _ _ _).counted⟩

end AgeLimit

/-- Settles O39: a limit is taken or refused by its value and by the table's AGE (R320, R322). -/
theorem ageLimitWriteRescalesWithoutTouchingTicks : Obligations.AgeLimitWriteRescalesWithoutTouchingTicks := by
  unfold Obligations.AgeLimitWriteRescalesWithoutTouchingTicks
  exact fun s m n v hw => ⟨ageLimitWrite_rescales hw, ageLimitWrite_reserved hw⟩

end Sys2Proof.Machine
end

section
namespace Sys2Proof.Machine

/-! ### TICK_ADVANCE (R320) -/

section Ticks
variable (s : State)

/-- The whole ticks of a table that road time has passed since its base: none without a tick (R320). -/
def ticksPassed (t : Nat) : Nat := (nowNs s - s.age.base.nat t) / tickNs s t

/-- A table's counter and base move by the ticks passed; nothing else of the aging state does. -/
theorem advanceTick_age (t n : Nat) :
    (advanceTick s t).age.tick.nat n = s.age.tick.nat n + (if n = t then ticksPassed s t else 0) ∧
    (advanceTick s t).age.base.nat n = s.age.base.nat n + (if n = t then ticksPassed s t * tickNs s t else 0) ∧
    (advanceTick s t).age.lap = s.age.lap := by
  unfold advanceTick
  dsimp only
  split
  case isTrue h =>
    have none : ticksPassed s t = 0 := by
      rw [ticksPassed, Nat.div_eq_zero_iff]
      simp at h
      omega
    simp [none]
  case isFalse h =>
    refine ⟨?_, ?_, rfl⟩ <;> rw [KMap.nat, KMap.get_set] <;> by_cases hn : n = t <;> simp [hn, ticksPassed]

theorem only_advanceTick (t : Nat) : Only [.age] [] s (advanceTick s t) := by
  unfold advanceTick
  dsimp only
  split
  · exact Only.refl _ _ s
  · exact only_setAge s _

theorem nowNs_advanceTick (t : Nat) : nowNs (advanceTick s t) = nowNs s := by
  rw [nowNs, nowNs, (only_advanceTick s t).1 .mil (by simp)]

theorem tickNs_advanceTick (t n : Nat) : tickNs (advanceTick s t) n = tickNs s n := by
  have regs : (advanceTick s t).regs = s.regs := by
    unfold advanceTick
    dsimp only
    split <;> rfl
  rw [tickNs, tickNs, rd_congr regs]

/-- After a table's advance no further whole tick has passed; the other tables' ticks are as before. -/
theorem ticksPassed_advanceTick (t n : Nat) :
    ticksPassed (advanceTick s t) n = if n = t then 0 else ticksPassed s n := by
  obtain ⟨-, hb, -⟩ := advanceTick_age s t n
  rw [ticksPassed, nowNs_advanceTick, tickNs_advanceTick, hb]
  split
  case isFalse => rw [Nat.add_zero, ticksPassed]
  case isTrue h =>
    subst h
    rw [← Nat.sub_sub, ticksPassed, Nat.mul_comm, ← Nat.mod_eq_sub_mul_div, Nat.mod_div_self]

/-- Advancing a list of tables, however often one stands in it, moves each of them by its ticks passed and no other. -/
theorem advanceTicks_age (ts : List Nat) (n : Nat) :
    (ts.foldl advanceTick s).age.tick.nat n = s.age.tick.nat n + (if n ∈ ts then ticksPassed s n else 0) ∧
    (ts.foldl advanceTick s).age.base.nat n = s.age.base.nat n + (if n ∈ ts then ticksPassed s n * tickNs s n else 0) ∧
    (ts.foldl advanceTick s).age.lap = s.age.lap := by
  induction ts generalizing s with
  | nil => simp
  | cons t ts ih =>
    obtain ⟨ht, hb, hl⟩ := ih (advanceTick s t)
    obtain ⟨ht', hb', hl'⟩ := advanceTick_age s t n
    rw [ht', ticksPassed_advanceTick] at ht
    rw [hb', ticksPassed_advanceTick, tickNs_advanceTick] at hb
    rw [List.foldl_cons, ht, hb, hl, hl']
    by_cases h : n = t
    · subst h
      simp
    · simp [h]

variable {s} in
theorem tickAdvance_advances (ha : awake s = true) : Ends .tickAdvance s fun t =>
      (∀ n ∈ agingTables s, tickNs s n ≠ 0 →
        t.age.tick.nat n = s.age.tick.nat n + (nowNs s - s.age.base.nat n) / tickNs s n ∧
        t.age.base.nat n = s.age.base.nat n + (nowNs s - s.age.base.nat n) / tickNs s n * tickNs s n) ∧
      (∀ n, n ∉ agingTables s → t.age.tick.nat n = s.age.tick.nat n ∧ t.age.base.nat n = s.age.base.nat n) ∧
      t.age.lap = s.age.lap ∧ Only [.age] [] s t := by
  have moved := advanceTicks_age s (agingTables s)
  refine ends_of (core_tickAdvance ha) ?_
  rw [finish_age, tickAdvance]
  refine ⟨fun n hn _ => ?_, fun n hn => ?_, (moved 0).2.2, (only_foldl _ only_advanceTick _ s).finished⟩
  · obtain ⟨ht, hb, -⟩ := moved n
    rw [ht, hb, if_pos hn, if_pos hn]
    exact ⟨rfl, rfl⟩
  · obtain ⟨ht, hb, -⟩ := moved n
    rw [ht, hb, if_neg hn, if_neg hn]
    exact ⟨rfl, rfl⟩

end Ticks

/-! ### AGE_CTRL (R8, R327) -/

theorem regRow_ageCtrl : regRow Reg.ageCtrl = some ⟨"AGE_CTRL", 0xC0000, 1, 8, 1, 8, false,
    [fld 31 24 .rw 0, fldR 23 13 .rw 0x3C [(1, 0x5A0)] 1, fldR 12 2 .rw 0x3C [(1, 0x5A0)] 1, fld 0 0 .rw 0]⟩ := by
  decide +kernel

theorem rd_lockedWr_ne (s : State) (m : Nat) {o p : Nat} (h : p ∉ errRegs) : rd (lockedWr s m o) p = rd s p := by
  simp [errRegs] at h
  rw [lockedWr, rd_wr_ne _ _ h.2, rd_setEvt_ne _ _ h.1]

/-- A register committed reads what its fields made of the write, whatever beside it was refused (R8, R10). -/
theorem rd_commitFields {r : RegRow} {off : Nat} (h : regRow off = some r) (hn : off ∉ errRegs) (s : State) (c v : Nat) :
    rd (commitFields s c off v) off = (fieldsWrite (locked s) (evtMask s off) v r.fields (rd s off, false, false)).1 % 2 ^ 64 := by
  rw [commitFields_row h]
  dsimp only
  split <;> split <;> simp only [rd_lockedWr_ne _ _ hn, rd_rsvd_ne _ _ hn, rd_wr_same]

/-- EN follows the write, whether or not a pace beside it is refused (R8). -/
theorem flag_commitFields_ageCtrl (s : State) (c v : Nat) : flag (commitFields s c Reg.ageCtrl v) Reg.ageCtrl 0 = bitOf v 0 := by
  have en (lock : Bool) (keep old : Nat) : (fld 0 0 .rw 0).write lock keep old v = (putBits old 0 0 (bitsOf v 0 0), false, false) :=
    write_rw rfl _ _ _ (allows_fld _ _ _ _ _)
  rw [flag, rd_commitFields regRow_ageCtrl (by decide), bitOf_mod _ (by decide)]
  simp only [fieldsWrite, en]
  rw [bitOf_putBits _ _ _ _ _ (le_refl 0)]
  simp [bitsOf_single]

variable {s : State} in
theorem agingEnable_commits (m : Requester) (v : BitVec 32) (hw : mayWrite s m Reg.ageCtrl 4 = true) :
    Ends (.agingEnable m v) s fun t =>
      flag t Reg.ageCtrl 0 = bitOf v.toNat 0 ∧ t.age = s.age ∧ Only [] (Reg.ageCtrl :: errRegs ++ portRegs m) s t := by
  have only : Only [] (Reg.ageCtrl :: errRegs ++ portRegs m) s (finish s (ageCtrlWrite (portCount s m) m.code v.toNat)) :=
    (only_commitFields _ _ _ _).counted
  refine ends_of (exec_agingEnable v hw) ⟨?_, only.1 .age (by simp), only⟩
  exact (flag_congr (rd_finish_below s (belowCounts_of_lt (by decide))) 0).trans (flag_commitFields_ageCtrl _ _ _)

end Sys2Proof.Machine
end

section
namespace Sys2Proof.Machine

/-! ### The ledgers checked at the end of a lap (R40, R327) -/

section Audits
variable {s : State}

theorem Only.ite {us : List UnitName} {rs : List Nat} {t u : State} {c : Prop} [Decidable c] (h : Only us rs s t)
    (k : Only us rs s u) : Only us rs s (if c then t else u) := by
  split
  · exact h
  · exact k

/-- A further step within the same parts and registers. -/
theorem Only.next {us : List UnitName} {rs : List Nat} {t u : State} (h : Only us rs s t) (k : Only us rs t u) : Only us rs s u :=
  h.more k (List.Subset.refl _) (List.Subset.refl _)

variable (s)

theorem only_auditDram (t : Nat) : Only [] ledgerRegs s (auditDram s t) :=
  (Only.refl _ _ s).ite (only_ledgerFault s _ _ _ _ _ _)

theorem only_auditLearn : Only [] ledgerRegs s (auditLearn s) := (Only.refl _ _ s).ite (only_ledgerFault s _ _ _ _ _ _)

theorem only_auditToken (i now : Nat) (b0 b1 : Bucket) : Only [] ledgerRegs s (auditToken s i b0 b1 now) :=
  (only_ledgerFault s _ _ _ _ _ _).ite ((only_ledgerFault s _ _ _ _ _ _).ite (Only.refl _ _ s))

theorem only_auditBridgeOne (k c : Nat) (inbound : Bool) : Only [] ledgerRegs s (auditBridgeOne s k c inbound) :=
  (Only.refl _ _ s).ite (only_ledgerFault s _ _ _ _ _ _)

theorem only_auditBridge (k : Nat) : Only [] ledgerRegs s (auditBridge s k) :=
  only_foldl _ (fun t c => (only_auditBridgeOne t k c false).next (only_auditBridgeOne _ k c true)) _ s

theorem only_auditTables : Only [] ledgerRegs s (auditTables s) :=
  Only.next (only_foldl _ (fun t (e : Nat × TblDecl) => (only_auditTern t e.1).ite (only_auditDram t e.1)) _ s) (only_auditLearn _)

/-- The checks at the end of a lap write the registers of a failing ledger and nothing else. -/
theorem only_auditAll : Only [] ledgerRegs s (auditAll s) := by
  have shared : Only [] ledgerRegs s (auditPage (auditTag (auditTables s))) :=
    ((only_auditTables s).next (only_auditTag _)).next (only_auditPage _)
  have credits := shared.next (only_foldl _ only_auditCredit (List.range 32) _)
  have tokens (l : List Nat) (t : State) (e : Nat × Bucket) :
      Only [] ledgerRegs t (if e.1 ∈ l then t else auditToken t e.1 e.2 e.2 e.2.last) :=
    (Only.refl _ _ t).ite (only_auditToken t _ _ _ _)
  exact credits.next (only_foldl _ (tokens _) _ _)

end Audits

/-! ### AGING_LAP_END (R326, R327) -/

section LapEnd
variable (s : State) (l : Lap)

/-- The progress and the count of a lap that ends, with its duration in µs. -/
def lapCounted : State :=
  let total := rd s Reg.ageLapTotal
  let s1 := wr s Reg.ageLapProg (progValue total total false)
  wr s1 Reg.ageLap (satW 32 ((s.cycle - l.start) / 800) * 2 ^ 32 + (fget s1 Reg.ageLap 31 0 + 1) % 2 ^ 32)

/-- Its events: LAP_DONE, and LAP_LONG for a lap that took too long. -/
def lapNoted : State :=
  let s3 := setEvt (lapCounted s l) Reg.ageEvt 0
  if lapTooLong (s.cycle - l.start) l.shortest then setEvt s3 Reg.ageEvt 1 else s3

/-- The sweeper without the lap. -/
def lapClosed : State := { lapNoted s l with age := { (lapNoted s l).age with lap := none } }

/-- A lap that is over is noted and closed, and the ledgers are checked (R327). -/
theorem lapEnd_over {l : Lap} (hl : s.age.lap = some l) (ho : lapOver s = true) :
    lapEnd s = [0, 1].foldl auditBridge (auditAll (lapClosed s l)) := by
  unfold lapEnd
  rw [hl]
  exact if_pos ho

theorem only_lapCounted : Only [] [Reg.ageLapProg, Reg.ageLap] s (lapCounted s l) := (only_wr s _ _).trans (only_wr _ _ _)

theorem only_lapEvents : Only [] [Reg.ageEvt] (lapCounted s l) (lapNoted s l) := by
  have done := only_setEvt (lapCounted s l) Reg.ageEvt 0
  unfold lapNoted
  dsimp only
  split
  · exact done.setEvt 1 (by simp)
  · exact done

theorem only_lapNoted : Only [] [Reg.ageLapProg, Reg.ageLap, Reg.ageEvt] s (lapNoted s l) :=
  (only_lapCounted s l).trans (only_lapEvents s l)

theorem satW_lt (w v : Nat) : satW w v < 2 ^ w := by
  have := Nat.two_pow_pos w
  unfold satW
  split <;> omega

/-- AGE_LAP holds the count of laps below the duration of the last (R343). -/
theorem rd_lapCounted : rd (lapCounted s l) Reg.ageLap =
    satW 32 ((s.cycle - l.start) / 800) * 2 ^ 32 + (fget s Reg.ageLap 31 0 + 1) % 2 ^ 32 := by
  have hd := satW_lt 32 ((s.cycle - l.start) / 800)
  have hc : (fget s Reg.ageLap 31 0 + 1) % 2 ^ 32 < 2 ^ 32 := Nat.mod_lt _ (by decide)
  rw [lapCounted, rd_wr_same, fget_congr (rd_wr_ne s _ (by decide)), Nat.mod_eq_of_lt (by omega)]

theorem laps_lapCounted : fget (lapCounted s l) Reg.ageLap 31 0 = (fget s Reg.ageLap 31 0 + 1) % 2 ^ 32 := by
  rw [fget, rd_lapCounted, bitsOf_eq]
  omega

theorem us_lapCounted : fget (lapCounted s l) Reg.ageLap 63 32 = satW 32 ((s.cycle - l.start) / 800) := by
  have hd := satW_lt 32 ((s.cycle - l.start) / 800)
  rw [fget, rd_lapCounted, bitsOf_eq]
  omega

theorem progOn_lapCounted : progOn (lapCounted s l) Reg.ageLapProg = false :=
  (progOn_congr (rd_wr_ne _ _ (by decide))).trans (progOn_wr s _ _ _ _)

theorem lapNoted_done : flag (lapNoted s l) Reg.ageEvt 0 = true := by
  have done : flag (setEvt (lapCounted s l) Reg.ageEvt 0) Reg.ageEvt 0 = true := flag_setEvt_same _ _ _ (by decide)
  unfold lapNoted
  dsimp only
  split
  · exact (flag_setEvt_ne _ _ (by decide) (by decide)).trans done
  · exact done

/-- LAP_LONG stands after a lap of more than 512 times the shortest limit (R326). -/
theorem lapNoted_long (h0 : l.shortest ≠ 0) (hd : 512 * l.shortest * 800000 < s.cycle - l.start) :
    flag (lapNoted s l) Reg.ageEvt 1 = true := by
  have long : lapTooLong (s.cycle - l.start) l.shortest = true := by simp [lapTooLong, h0, hd]
  rw [lapNoted, if_pos long, flag_setEvt_same _ _ _ (by decide)]

variable {s l} in
theorem lapEnd_records (ha : awake s = true) (hl : s.age.lap = some l) (ho : lapOver s = true) : Ends .agingLapEnd s fun t =>
      t.age = { s.age with lap := none } ∧
      fget t Reg.ageLap 31 0 = (fget s Reg.ageLap 31 0 + 1) % 2 ^ 32 ∧
      fget t Reg.ageLap 63 32 = satW 32 ((s.cycle - l.start) / 800) ∧ flag t Reg.ageEvt 0 = true ∧
      (l.shortest ≠ 0 → 512 * l.shortest * 800000 < s.cycle - l.start → flag t Reg.ageEvt 1 = true) ∧ progOn t Reg.ageLapProg = false ∧
      Only [.age] ([Reg.ageLapProg, Reg.ageLap, Reg.ageEvt] ++ ledgerRegs) s t := by
  have closed : Only [.age] [] (lapNoted s l) (lapClosed s l) := only_setAge _ _
  have audited : Only [] ledgerRegs (lapClosed s l) (finish s (lapEnd s)) := by
    rw [lapEnd_over s hl ho]
    exact ((only_auditAll _).next (only_foldl _ only_auditBridge _ _)).more (only_finish s _) (by simp) (by simp)
  have read {o : Nat} (hb : belowCounts o) (hn : o ∉ ledgerRegs) : rd (finish s (lapEnd s)) o = rd (lapNoted s l) o :=
    (audited.rd_eq hb hn).trans (closed.rd_eq hb (by simp))
  have counted : rd (finish s (lapEnd s)) Reg.ageLap = rd (lapCounted s l) Reg.ageLap :=
    (read (belowCounts_of_lt (by decide)) (by decide)).trans
      ((only_lapEvents s l).rd_eq (belowCounts_of_lt (by decide)) (by decide))
  have events : rd (finish s (lapEnd s)) Reg.ageEvt = rd (lapNoted s l) Reg.ageEvt :=
    read (belowCounts_of_lt (by decide)) (by decide)
  have progress : rd (finish s (lapEnd s)) Reg.ageLapProg = rd (lapCounted s l) Reg.ageLapProg :=
    (read (belowCounts_of_lt (by decide)) (by decide)).trans
      ((only_lapEvents s l).rd_eq (belowCounts_of_lt (by decide)) (by decide))
  have age : (finish s (lapEnd s)).age = { s.age with lap := none } := by
    rw [audited.1 .age (by simp), lapClosed, (only_lapNoted s l).1 .age (by simp)]
  refine ends_of (core_agingLapEnd ha) ⟨age, (fget_congr counted _ _).trans (laps_lapCounted s l),
    (fget_congr counted _ _).trans (us_lapCounted s l), (flag_congr events 0).trans (lapNoted_done s l),
    fun h0 hd => (flag_congr events 1).trans (lapNoted_long s l h0 hd),
    (progOn_congr progress).trans (progOn_lapCounted s l), ?_⟩
  exact (((only_lapNoted s l).trans closed).trans audited).mono (by simp) (by simp)

end LapEnd

end Sys2Proof.Machine
end

section
namespace Sys2Proof.Machine

/-! ### What the sweeper asks for (R354, R355) -/

section Offers
variable (s : State) (m : Nat) (p : Purpose) (since : Nat) (gs : List Gran)

theorem only_offerGo (n : Nat) : Only [.rgl] [] s (offerGo m n s) := by
  induction n generalizing s with
  | zero => exact Only.refl _ _ s
  | succ n ih =>
    unfold offerGo
    split
    · exact Only.refl _ _ s
    · exact Only.ite (((only_setRgl s _).next (only_present _ m false _ _ _)).next (ih _)) (Only.refl _ _ s)

theorem only_offer : Only [.rgl] [] s (offer s m p since gs) :=
  (only_setRgl s _).next (only_foldl _ (fun t a => only_offerGo t a _) _ _)

theorem only_ask : Only [.rgl] [] s (ask s m p since gs) := (only_offer s m p since gs).ite (only_present s m false p since gs)

end Offers

/-! ### The stash's part of a lap (R260, R324) -/

section Stash
variable (s : State)

theorem only_readStash (t master : Nat) (is : List Nat) : ReadOnly 5 s (readStash s t master is).1 := by
  unfold readStash
  split
  · exact Only.refl _ _ s
  · exact readOnly_readWords master _

/-- A stash entry cleared: only the word that says that it is valid is written. -/
theorem only_setStash_none (t i : Nat) : Only [.hsh, .intg] flipRegs s (setStash s t i none) :=
  (only_setHsh s _).trans (only_rangeWritten _ 5 _ 1)

/-- The upkeep that no command waits for ends in the hash unit. -/
theorem only_endUpkeep {u : Upkeep} (hu : u.cmd = none) : Only [.hsh] [] s (endUpkeep s u) := by
  unfold endUpkeep
  rw [hu]
  exact only_setHsh s _

theorem only_tryDrain {u : Upkeep} (hu : u.cmd = none) : Only [.hsh, .rgl] [] s (tryDrain s u) := by
  have ends : Only [.hsh, .rgl] [] s (endUpkeep s u) := (only_endUpkeep s hu).mono (by simp) (by simp)
  unfold tryDrain
  split
  · exact ends
  · refine ends.ite ?_
    split
    · exact ends
    · exact (only_setHsh s _).trans (only_ask _ _ _ _ _)

/-- An entry that the sweeper took away starts its upkeep among the hash unit's and the regulator's work (R251, R260). -/
theorem only_startUpkeep (m t j bucket slot : Nat) (e : List Byte) :
    Only [.hsh, .rgl] [] s (startUpkeep s m t j bucket slot e none) := by
  unfold startUpkeep
  split
  · exact Only.refl _ _ s
  · have begun (x : HshSt) (y : RglSt) : Only [.hsh, .rgl] [] s { s with rgl := y, hsh := x } :=
      (only_setHsh s x).trans (only_setRgl _ y)
    exact Only.ite ((begun _ _).more (only_ask _ _ _ _ _) (by simp) (by simp)) ((begun _ _).next (only_tryDrain _ rfl))

/-- The registers that the visit of a table's stash can write. -/
def stashVisitRegs : List Nat := [Reg.hshCnt 11, Reg.ageCnt 1] ++ readRegs 5 ++ flipRegs ++ ledgerRegs

theorem readRegs_subset_stashVisitRegs : readRegs 5 ⊆ stashVisitRegs := fun o h => by simp [stashVisitRegs, h]

theorem flipRegs_subset_stashVisitRegs : flipRegs ⊆ stashVisitRegs := fun o h => by simp [stashVisitRegs, h]

theorem ledgerRegs_subset_stashVisitRegs : ledgerRegs ⊆ stashVisitRegs := fun o h => by simp [stashVisitRegs, h]

/-- An expired stash entry is cleared and counted, and its upkeep starts (R260, R325). -/
def stashEntryAged (t i j : Nat) (e : List Byte) : State :=
  let s1 := acnt (entSub (setStash s t i none) t j) 1 1
  let s2 := { s1 with vrd := { s1.vrd with tblAged := s1.vrd.tblAged.setNat t (s1.vrd.tblAged.nat t + 1) } }
  auditDram (startUpkeep s2 43 t j 0 64 e none) t

theorem only_stashEntryAged (t i j : Nat) (e : List Byte) :
    Only [.hsh, .rgl, .vrd, .intg] stashVisitRegs s (stashEntryAged s t i j e) := by
  have cleared : Only [.hsh, .rgl, .vrd, .intg] stashVisitRegs s (entSub (setStash s t i none) t j) :=
    ((only_setStash_none s t i).trans (only_setHsh _ _)).mono (by simp) (by simpa using flipRegs_subset_stashVisitRegs)
  have counted : Only [.hsh, .rgl, .vrd, .intg] stashVisitRegs s (acnt (entSub (setStash s t i none) t j) 1 1) :=
    cleared.bump 1 (by simp [stashVisitRegs])
  have started (x : VrdSt) := (counted.more (only_setVrd _ x) (by simp) (by simp)).more
    (only_startUpkeep _ 43 t j 0 64 e) (by simp) (by simp)
  exact (started _).more (only_auditDram _ t) (by simp) ledgerRegs_subset_stashVisitRegs

theorem only_expireStash (t : Nat) : Only [.hsh, .rgl, .vrd, .intg] stashVisitRegs s (expireStash s t) := by
  unfold expireStash
  split
  · exact Only.refl _ _ s
  · refine only_foldl _ (fun u i => ?_) _ s
    split
    · exact Only.refl _ _ u
    · have read : Only [.hsh, .rgl, .vrd, .intg] stashVisitRegs u (readStash u t 43 [i]).1 :=
        (only_readStash u t 43 [i]).mono (by simp) readRegs_subset_stashVisitRegs
      exact read.ite ((read.bump 1 (by simp [stashVisitRegs])).ite (read.next (only_stashEntryAged _ _ _ _ _)))

end Stash

/-! ### The walk of a lap (R324, R327) -/

section Walk
variable {s : State}

/-- A lap begun at `start` is still in progress: what the sweeper's next step leaves alone. -/
structure LapGoesOn (start : Nat) (s t : State) : Prop where
  lap : ∃ l, t.age.lap = some l ∧ l.start = start
  tick : t.age.tick = s.age.tick
  lastStart : t.age.lastStart = s.age.lastStart
  frame : Only [.age, .hsh, .rgl, .vrd, .intg] (Reg.ageLapProg :: stashVisitRegs) s t

/-- A step elsewhere, then one of the sweeper's own state that keeps the lap, the ticks and the last start. -/
theorem lapGoesOn_of {start : Nat} {u t : State} {l : Lap} {us : List UnitName} {rs : List Nat} (h : Only us rs s u)
    (k : Only [.age] [] u t) (hu : us ⊆ [.hsh, .rgl, .vrd, .intg]) (hr : rs ⊆ Reg.ageLapProg :: stashVisitRegs)
    (hlap : t.age.lap = some l) (hl : l.start = start) (htick : t.age.tick = u.age.tick)
    (hlast : t.age.lastStart = u.age.lastStart) : LapGoesOn start s t := by
  have age : u.age = s.age := h.1 .age (fun e => by simpa using hu e)
  have frame : Only [.age, .hsh, .rgl, .vrd, .intg] (Reg.ageLapProg :: stashVisitRegs) s u :=
    h.mono (fun x hx => List.mem_cons_of_mem _ (hu hx)) hr
  exact ⟨⟨l, hlap, hl⟩, by rw [htick, age], by rw [hlast, age], frame.more k (by simp) (by simp)⟩

theorem LapGoesOn.offered {start : Nat} {t : State} (h : LapGoesOn start s t) (m : Nat) (p : Purpose) (since : Nat)
    (gs : List Gran) : LapGoesOn start s (offer t m p since gs) := by
  have k := only_offer t m p since gs
  have age : (offer t m p since gs).age = t.age := k.1 .age (by simp)
  exact ⟨by rw [age]; exact h.lap, by rw [age]; exact h.tick, by rw [age]; exact h.lastStart,
    h.frame.more k (by simp) (by simp)⟩

/-- While EN is set the sweeper's next step leaves the lap in progress, and the ticks and the total alone. -/
theorem sweepPump_goes_on {l : Lap} (hl : s.age.lap = some l) (hen : flag s Reg.ageCtrl 0 = true) :
    LapGoesOn l.start s (sweepPump s) := by
  have rests : LapGoesOn l.start s s := ⟨⟨l, hl, rfl⟩, rfl, rfl, Only.refl _ _ s⟩
  have next (u : State) {us : List UnitName} {rs : List Nat} (h : Only us rs s u) (hu : us ⊆ [.hsh, .rgl, .vrd, .intg])
      (hr : rs ⊆ Reg.ageLapProg :: stashVisitRegs) (k : Lap) (hk : k.start = l.start) :
      LapGoesOn l.start s { u with age := { u.age with lap := some k } } :=
    lapGoesOn_of h (only_setAge u _) hu hr rfl hk rfl rfl
  have moves (k : Lap) (hk : k.start = l.start) : LapGoesOn l.start s { s with age := { s.age with lap := some k } } :=
    next s (Only.refl [] [] s) (by simp) (by simp) k hk
  unfold sweepPump
  rw [hl]
  dsimp only
  split
  · exact rests
  · rw [if_neg (by simp [hen])]
    split
    · exact moves _ rfl
    · split
      · exact moves _ rfl
      · split
        · exact next (progAdd s _ _ _) (only_wr s _ _) (by simp) (by simp) _ rfl
        · split
          · split
            · refine LapGoesOn.offered ?_ _ _ _ _
              exact lapGoesOn_of (Only.refl [] [] s) (only_setAge s _) (by simp) (by simp) rfl rfl rfl rfl
            · exact moves _ rfl
          · exact next (expireStash s _) (only_expireStash s _) (by simp) (by simp) _ rfl

end Walk
end Sys2Proof.Machine
end

section
namespace Sys2Proof.Machine

/-! ### AGING_LAP_START (R324, R327) -/

section LapStart
variable (s : State)

/-- A lap begun: its total and progress are set, and no bucket is asked for yet. -/
def lapBegun : State :=
  let s1 := progSet s Reg.ageLapProg Reg.ageLapTotal (((lapTables s).map (bucketGrans s)).foldl (· + ·) 0) 0 true
  { s1 with age := { s1.age with
    lap := some ⟨s.cycle, lapTables s, 0, 0, 0, 0, false⟩
    lastStart := some s.cycle } }

theorem startLap_eq : startLap s = sweepPump (lapBegun s) := rfl

theorem only_lapBegun : Only [.age] [Reg.ageLapProg, Reg.ageLapTotal] s (lapBegun s) :=
  (only_progSet s _ _ _ _ _).trans (only_setAge _ _)

theorem rd_lapBegun : rd (lapBegun s) Reg.ageLapTotal =
    ((lapTables s).map (bucketGrans s)).foldl (· + ·) 0 % 2 ^ 64 := by
  rw [lapBegun, (only_setAge _ _).rd_eq (belowCounts_of_lt (by decide)) (by simp), progSet, rd_wr_ne _ _ (by decide), rd_wr_same]

theorem ageLapTotal_not_mem : Reg.ageLapTotal ∉ Reg.ageLapProg :: stashVisitRegs := by
  have read : Reg.ageLapTotal ∉ readRegs 5 := not_mem_readRegs (by decide)
  have flip : Reg.ageLapTotal ∉ flipRegs := not_mem_flipRegs (by decide)
  have ledger : Reg.ageLapTotal ∉ ledgerRegs := not_mem_ledgerRegs (by decide)
  have counts : Reg.ageLapTotal ∉ [Reg.ageLapProg, Reg.hshCnt 11, Reg.ageCnt 1] := by decide
  simp_all [stashVisitRegs]

variable {s} in
/-- A lap starts only while EN is set (R324). -/
theorem enabled_of_lapMayStart (h : lapMayStart s = true) : flag s Reg.ageCtrl 0 = true := by
  simp only [lapMayStart, Bool.and_eq_true] at h
  exact h.1.1.1.1

variable {s} in
theorem lapStart_starts (ha : awake s = true) : Ends .agingLapStart s fun t =>
      (lapMayStart s = true → (∃ l, t.age.lap = some l ∧ l.start = s.cycle) ∧ t.age.lastStart = some s.cycle ∧
        rd t Reg.ageLapTotal = ((lapTables s).map (bucketGrans s)).foldl (· + ·) 0 % 2 ^ 64 ∧
        t.age.tick = s.age.tick ∧ t.drc.mem = s.drc.mem) ∧
      (lapMayStart s = false → Only [] [] s t) := by
  refine ends_of (core_agingLapStart ha) ⟨fun h => ?_, fun h => ?_⟩
  · have enabled : flag (lapBegun s) Reg.ageCtrl 0 = true :=
      (flag_congr ((only_lapBegun s).rd_eq (belowCounts_of_lt (by decide)) (by decide)) 0).trans (enabled_of_lapMayStart h)
    obtain ⟨lap, tick, last, frame⟩ := sweepPump_goes_on (s := lapBegun s) rfl enabled
    have total := (frame.rd_eq (belowCounts_of_lt (by decide)) ageLapTotal_not_mem).trans (rd_lapBegun s)
    have mem : (sweepPump (lapBegun s)).drc.mem = s.drc.mem :=
      congrArg DrcSt.mem ((frame.1 .drc (by simp)).trans ((only_lapBegun s).1 .drc (by simp)))
    rw [lapStart, if_pos h, startLap_eq, finish_age, finish_drc, rd_finish_below s (belowCounts_of_lt (by decide))]
    exact ⟨lap, last, total, tick.trans (by simp [lapBegun, progSet]), mem⟩
  · rw [lapStart, if_neg (by simp [h])]
    exact only_finish s s

/-! ### A lap without EN (R327) -/

/-- With EN cleared the lap ends, uncounted, where its next granule would be asked for. -/
theorem sweepPump_stops {l : Lap} (hl : s.age.lap = some l) (hw : l.walked = false) (hg : s.pwr.stopGrants = false)
    (hr : s.rgl.reqs = []) (hp : s.rgl.parked = []) (hen : flag s Reg.ageCtrl 0 = false) :
    sweepPump s = { fput s Reg.ageLapProg 46 46 0 with age := { s.age with
      lap := none
      outstanding := 0 } } := by
  unfold sweepPump
  rw [hl]
  dsimp only
  rw [if_neg (by simp [hw, hg, hr, hp]), if_pos (by simp [hen])]

theorem lapStopped_frame {l : Lap} (hl : s.age.lap = some l) (hw : l.walked = false) (hg : s.pwr.stopGrants = false)
    (hr : s.rgl.reqs = []) (hp : s.rgl.parked = []) (hen : flag s Reg.ageCtrl 0 = false) :
    (sweepPump s).age = { s.age with
          lap := none
          outstanding := 0 } ∧ progOn (sweepPump s) Reg.ageLapProg = false ∧ Only [.age] [Reg.ageLapProg] s (sweepPump s) := by
  rw [sweepPump_stops s hl hw hg hr hp hen]
  exact ⟨rfl, flag_fput_same s _ (by decide) 0, (only_fput s _ _ _ _).trans (only_setAge _ _)⟩

end LapStart

/-- Settles O40: the ticks by induction over the aging tables, a lap's start by what the sweeper's next step can do, its end by
the frame of the ledgers' checks (R320, R324, R326, R327, R40). -/
theorem ticksAndLapsKeepTheirCounts : Obligations.TicksAndLapsKeepTheirCounts := by
  unfold Obligations.TicksAndLapsKeepTheirCounts
  exact fun s => ⟨tickAdvance_advances, lapStart_starts, fun _ => lapEnd_records, agingEnable_commits,
    fun _ => lapStopped_frame s⟩

end Sys2Proof.Machine
end

section
namespace Sys2Proof.Machine

/-! ### The state after reset (R446, R460, R461) -/

/-- After reset the register file lists nothing, so a register reads its row's reset value. -/
theorem rd_reset (o : Nat) : rd State.reset o = (regDefault o).toNat := rfl

/-- Rows whose reset value is not zero (R341, R447, R452, R475, R482). -/
theorem regDefault_nonzero : (regDefault Reg.intScrubCtrl).toNat = 2 ^ 31 + 16 * 2 ^ 16 + 64 ∧
    (regDefault Reg.canCtrl).toNat = 1 ∧ (regDefault (Reg.spmEn 18)).toNat = 0x7FFF ∧ (regDefault Reg.lrnRate).toNat = 64 * 2 ^ 16 + 1000 ∧
    bitsOf (regDefault Reg.seqWdog).toNat 23 0 = 100000 := by decide +kernel

/-- Read without its table, it reads zero. -/
theorem rd0_reset (o : Nat) : rd0 State.reset o = 0 := rfl

/-- IMG_LOCK is clear after reset (R10). -/
theorem locked_reset : locked State.reset = false := by
  have row : bitOf (regDefault Reg.imgLock).toNat 0 = false := by decide +kernel
  exact row

/-- While no cause is mapped to a vector, no vector is active, whatever causes are (R461). -/
theorem vectorsOf_unmapped {s : State} {f : Nat} (sum : Nat) (h : ∀ c, bitOf (rd0 s (Reg.hstMsixMap f c)) 7 = false) :
    vectorsOf s f sum = 0 := by
  unfold vectorsOf
  simp only [h, Bool.and_false, Bool.false_eq_true, if_false]
  exact List.foldl_fixed _

/-- After reset every vector map reads zero, so the vectors agree with whatever the causes are. -/
theorem reset_msixInv : State.reset.msixInv :=
  fun f => (vectorsOf_unmapped (s := State.reset) (f := f.val) (intSum State.reset) (fun _ => by rw [rd0_reset]; rfl)).symm

/-- Settles O58: memories, queues and units are empty as `State.reset` writes them, a register reads its row's reset value, and no
vector is mapped. -/
theorem resetStateHoldsTheTablesResetValues : Obligations.ResetStateHoldsTheTablesResetValues := by
  unfold Obligations.ResetStateHoldsTheTablesResetValues
  obtain ⟨scrub, can, enables, rate, watchdog⟩ := regDefault_nonzero
  exact ⟨rfl, rfl, fun _ => rfl, fun _ => rfl, rd_reset, scrub, can, enables, rate, watchdog, locked_reset, rfl, rfl, rfl, rfl,
    rfl, reset_msixInv, reset_memories_wf, rfl⟩

end Sys2Proof.Machine
end

section
namespace Sys2Proof.Machine

/-! ### MEASUREMENT_WINDOW_START (R349) -/

section Window
variable {s : State}

/-- The window that begins: its grants and its log start over, and every account stands at its coverage (R349, R354, R361). -/
def windowBegun (s : State) : State := { s with rgl := { s.rgl with
  windowAt := s.cycle / 800
  logged := []
  slotGot := []
  granGot := []
  slotLeft := s.rgl.coverS
  granLeft := s.rgl.coverG } }

/-- A window with no class value committed before it takes the coverage as it stands. -/
theorem windowStart_begins (hw : s.rgl.windowAt < s.cycle / 800) (hb : s.rgl.budgetOn = true) (hd : s.rgl.dirty = false) :
    windowStart s = judgeUnder (windowBegun s) := by
  have starts : ¬(s.cycle / 800 ≤ s.rgl.windowAt ∨ (!s.rgl.budgetOn) = true) := by simp [hw, hb]
  rw [windowStart, if_neg starts]
  simp [hd, windowBegun]

theorem only_judgedWindow : Only [.rgl] [] s (judgeUnder (windowBegun s)) := (only_setRgl s _).next (only_setRgl _ _)

theorem windowStart_accounts (ha : awake s = true) (hw : s.rgl.windowAt < s.cycle / 800) (hb : s.rgl.budgetOn = true)
    (hd : s.rgl.dirty = false) : Ends .measurementWindowStart s fun t =>
      t.rgl.windowAt = s.cycle / 800 ∧ t.rgl.slotLeft = s.rgl.coverS ∧ t.rgl.granLeft = s.rgl.coverG ∧
      t.rgl.slotGot = [] ∧ t.rgl.granGot = [] ∧
      t.rgl.reqs = s.rgl.reqs.map (fun r => if r.since = s.cycle then
        { r with under := decide (account t r.slot (clsOf s r.master) > 0) } else r) ∧ Only [.rgl] [] s t := by
  refine ends_of (core_measurementWindowStart ha) ?_
  rw [windowStart_begins hw hb hd]
  simp only [account, finish_rgl]
  exact ⟨rfl, rfl, rfl, rfl, rfl, rfl, only_judgedWindow.finished⟩

end Window

/-! ### LATENCY_MISS (R360, R361) -/

section Miss

/-- A log entry is written, or an overflow counted, in the log's own registers, and the log's last free entry latches its event
(R361). -/
theorem logPut_cases (s : State) {head tail ovf size : Nat} {entry : Nat → Nat → Nat} {rs : List Nat} (evt bit w0 w1 : Nat)
    (hs : 0 < size) (hh : head ∈ rs) (ho : ovf ∈ rs) (he : ∀ i < size, ∀ j < 2, entry i j ∈ rs) :
    ∃ u, Only [] rs s u ∧ (logPut s head tail ovf size entry evt bit w0 w1 = u ∨
      logPut s head tail ovf size entry evt bit w0 w1 = setEvt u evt bit) := by
  have slot (n : Nat) (j : Nat) (hj : j < 2) : entry (n % size) j ∈ rs := he _ (Nat.mod_lt _ hs) j hj
  have dropped : Only [] rs s (satBump (rcEvent s ovf (fget s ovf 31 0) 1 (fun a b => a + b)) ovf 31 0 1) :=
    ((only_rcEvent s _ _ _ _).mono (List.Subset.refl _) (by simp)).satBump _ _ _ ho
  have put (n : Nat) : Only [] rs s (wr (wr (wr s (entry (n % size) 0) w0) (entry (n % size) 1) w1) head ((n + 1) % 65536)) :=
    (((Only.refl _ _ s).wr _ (slot n 0 (by decide))).wr _ (slot n 1 (by decide))).wr _ hh
  unfold logPut
  dsimp only
  split
  · exact ⟨_, dropped, .inl rfl⟩
  · split
    · exact ⟨_, put _, .inr rfl⟩
    · exact ⟨_, put _, .inl rfl⟩

/-- The registers of the log of misses, its event beside (R372). -/
def missLogRegs : List Nat :=
  [Reg.rglMissHead, Reg.rglMissOvf] ++ (List.range 64).map (fun k => Reg.rglMiss (k / 2) (k % 2))

theorem rglMiss_mem_missLogRegs : ∀ i < 32, ∀ j < 2, Reg.rglMiss i j ∈ missLogRegs := by decide

/-- The regulator's counters lie behind its log. -/
theorem rglCnt_not_mem_missLogRegs (c i : Nat) : Reg.rglCnt c i ∉ missLogRegs := by
  have behind : ∀ o ∈ missLogRegs, o < Reg.rglCnt 0 0 := by decide
  intro h
  have := behind _ h
  simp only [Reg.rglCnt] at this
  omega

variable (s : State)

/-- A miss is counted for its class, and latched (R360). -/
def missCounted (c : Nat) : State := setEvt (bump s (Reg.rglCnt c 5) 1) Reg.rglEvt 0

theorem rglCnt_ne_rglEvt (c i : Nat) : Reg.rglCnt c i ≠ Reg.rglEvt := by
  simp only [Reg.rglCnt, Reg.rglEvt]
  omega

theorem rd_missCounted (c : Nat) : rd (missCounted s c) (Reg.rglCnt c 5) = (rd s (Reg.rglCnt c 5) + 1) % 2 ^ 48 := by
  rw [missCounted, rd_setEvt_ne _ _ (rglCnt_ne_rglEvt c 5), rd_bump_same]

/-- Beyond its count a miss is at most an entry of the log and the event of the log's last free entry (R360, R361). -/
theorem recordMiss_cases (c kind res m wait detail : Nat) : ∃ u l, Only [.rgl] missLogRegs (missCounted s c) u ∧
    u.rgl = { s.rgl with logged := l } ∧
    (recordMiss s c kind res m wait detail = u ∨ recordMiss s c kind res m wait detail = setEvt u Reg.rglEvt 1) := by
  unfold recordMiss
  dsimp only
  split
  · exact ⟨_, s.rgl.logged, Only.refl _ _ _, rfl, .inl rfl⟩
  · refine (logPut_cases _ _ _ _ _ (by decide) (by simp [missLogRegs]) (by simp [missLogRegs])
      rglMiss_mem_missLogRegs).elim fun u hu => ⟨u, s.rgl.logged ++ [c * 64 + kind * 4 + res], ?_, ?_, hu.2⟩
    · exact ((only_setRgl (missCounted s c) _).trans hu.1).mono (by simp) (by simp)
    · exact hu.1.1 .rgl (by simp)

theorem recordMiss_reqs (c kind res m wait detail : Nat) :
    (recordMiss s c kind res m wait detail).rgl.reqs = s.rgl.reqs := by
  obtain ⟨u, l, -, parts, h | h⟩ := recordMiss_cases s c kind res m wait detail
  · rw [h, parts]
  · rw [h, setEvt_rgl, parts]

theorem flag_recordMiss (c kind res m wait detail : Nat) :
    flag (recordMiss s c kind res m wait detail) Reg.rglEvt 0 = true := by
  obtain ⟨u, l, only, -, h⟩ := recordMiss_cases s c kind res m wait detail
  have latched : flag u Reg.rglEvt 0 = true :=
    (flag_congr (only.rd_eq (belowCounts_of_lt (by decide)) (by decide)) 0).trans (flag_setEvt_same _ _ _ (by decide))
  rcases h with h | h
  · rw [h, latched]
  · rw [h, flag_setEvt_of _ (by decide) latched]

theorem belowCounts_rglCnt {c i : Nat} (hc : c < 8) (hi : i < 8) : belowCounts (Reg.rglCnt c i) :=
  belowCounts_of_lt (by simp only [Reg.rglCnt]; omega)

theorem rd_recordMiss {c : Nat} (hc : c < 8) (kind res m wait detail : Nat) :
    rd (recordMiss s c kind res m wait detail) (Reg.rglCnt c 5) = (rd s (Reg.rglCnt c 5) + 1) % 2 ^ 48 := by
  obtain ⟨u, l, only, -, h⟩ := recordMiss_cases s c kind res m wait detail
  have counted : rd u (Reg.rglCnt c 5) = (rd s (Reg.rglCnt c 5) + 1) % 2 ^ 48 :=
    (only.rd_eq (belowCounts_rglCnt hc (by decide)) (rglCnt_not_mem_missLogRegs c 5)).trans (rd_missCounted s c)
  rcases h with h | h
  · rw [h, counted]
  · rw [h, rd_setEvt_ne _ _ (rglCnt_ne_rglEvt c 5), counted]

/-- A master's class is one of eight (R348). -/
theorem clsOf_lt (m : Nat) : clsOf s m < 8 := bitsOf_lt _ 2 0

/-- The requests of an id are marked as missed (R360). -/
def missMarked (id : Nat) : State := { s with rgl := { s.rgl with
  reqs := s.rgl.reqs.map (fun x => if x.id = id then { x with missed := true } else x) } }

theorem missMarked_missed {id : Nat} {x : Req} (hx : x ∈ (missMarked s id).rgl.reqs) (hid : x.id = id) : x.missed = true := by
  obtain ⟨y, -, rfl⟩ := List.mem_map.1 hx
  by_cases h : y.id = id
  · rw [if_pos h]
  · rw [if_neg h] at hid
    exact absurd hid h

variable {s}

theorem latencyMiss_records {r : Req} (h : latencyMissOf s = some r) :
    latencyMiss s = recordMiss (missMarked s r.id) (clsOf s r.master) 1 (if r.slot then 0 else 1) r.master
      (latOf s (clsOf s r.master)) 0 := by
  rw [latencyMiss, h]
  rfl

theorem latencyMiss_counts (ha : awake s = true) (r : Req) (h : latencyMissOf s = some r) : Ends .latencyMiss s fun t =>
      (∀ x ∈ t.rgl.reqs, x.id = r.id → x.missed = true) ∧ flag t Reg.rglEvt 0 = true ∧
      rd t (Reg.rglCnt (clsOf s r.master) 5) = (rd s (Reg.rglCnt (clsOf s r.master) 5) + 1) % 2 ^ 48 ∧
      keepsUnits [.rgl] s t := by
  have frame := (regulates_setRgl s (missMarked s r.id).rgl).trans (regulates_recordMiss (missMarked s r.id) (clsOf s r.master)
    1 (if r.slot then 0 else 1) r.master (latOf s (clsOf s r.master)) 0)
  refine ends_of (core_latencyMiss ha) ?_
  rw [latencyMiss_records h]
  refine ⟨?_, ?_, ?_, (frame.trans ((only_finish s _).regulates (by simp) (by simp))).units⟩
  · rw [finish_rgl, recordMiss_reqs]
    exact fun x hx => missMarked_missed s hx
  · exact (flag_congr (rd_finish_below s (belowCounts_of_lt (by decide))) 0).trans (flag_recordMiss _ _ _ _ _ _ _)
  · rw [rd_finish_below s (belowCounts_rglCnt (clsOf_lt s _) (by decide)), rd_recordMiss _ (clsOf_lt s _)]
    rfl

end Miss

/-! ### REFRESH (R442) -/

section Refresh
variable {s t : State}

theorem updAt_getElem?_ne {α : Type} (g : α → α) (l : List α) {i j : Nat} (h : j ≠ i) : (updAt l i g)[j]? = l[j]? := by
  induction l generalizing i j with
  | nil => rfl
  | cons a l ih =>
    cases i with
    | zero =>
      obtain ⟨k, rfl⟩ := Nat.exists_eq_succ_of_ne_zero h
      rfl
    | succ i =>
      cases j with
      | zero => rfl
      | succ j => simpa [updAt] using ih (i := i) (j := j) (by omega)

theorem pairAt_congr (h : t.drc = s.drc) (p : Nat) : pairAt t p = pairAt s p := by rw [pairAt, pairAt, h]

theorem pairAt_setPair_same {p : Nat} (hp : p < s.drc.pairs.length) (f : PairSt → PairSt) :
    pairAt (setPair s p f) p = f (pairAt s p) := by
  simp [pairAt, setPair, updAt_getElem?, List.getElem?_eq_getElem hp]

theorem pairAt_setPair_ne {p q : Nat} (h : q ≠ p) (f : PairSt → PairSt) : pairAt (setPair s p f) q = pairAt s q := by
  simp [pairAt, setPair, updAt_getElem?_ne _ _ h]

/-- A pair that refreshes once, when it is free, for 94 cycles; its next refresh an interval later (R442). -/
def refreshedPair (s : State) (y : PairSt) : PairSt := { y with
  freeAt := max s.cycle y.freeAt + 94
  cls := none
  lastRefresh := max s.cycle y.freeAt
  nextRefresh := y.nextRefresh + refreshEvery s }

theorem refreshPair_due {p : Nat} (ha : awake s = true) (ht : s.drc.trained = true) (hd : (pairAt s p).nextRefresh ≤ s.cycle)
    (hp : (pairAt s p).postponed = 0) :
    refreshPair s p false = bump (setPair s p (refreshedPair s)) (Reg.drcCnt 0) 1 := by
  have clocked : s.pwr.st.awake = true := ha
  have runs : ¬(s.pwr.st.awake = false ∨ (!s.drc.trained) = true) := by simp [clocked, ht]
  unfold refreshPair
  dsimp only
  rw [if_neg runs, if_neg (by simp), if_pos (by simp [hd]), if_pos hp]
  rfl

theorem refresh_busies (ha : awake s = true) (pair : Fin 4) (ht : s.drc.trained = true) (hl : s.drc.pairs.length = 4)
    (hd : (pairAt s pair).nextRefresh ≤ s.cycle) (hp : (pairAt s pair).postponed = 0) : Ends (.refresh pair false) s fun t =>
      (pairAt t pair).freeAt = max s.cycle (pairAt s pair).freeAt + 94 ∧
      (pairAt t pair).nextRefresh = (pairAt s pair).nextRefresh + refreshEvery s ∧
      (∀ q, q ≠ pair.val → pairAt t q = pairAt s q) ∧ t.drc.mem = s.drc.mem ∧
      rd t (Reg.drcCnt 0) = (rd s (Reg.drcCnt 0) + 1) % 2 ^ 48 ∧ Only [.drc] [Reg.drcCnt 0] s t := by
  refine ends_of (core_refresh pair false ha) ?_
  rw [refreshPair_due ha ht hd hp]
  have frame : Only [.drc] [Reg.drcCnt 0] s (bump (setPair s pair (refreshedPair s)) (Reg.drcCnt 0) 1) :=
    (only_setPair s _ _).trans (only_bump _ _ _)
  have drc : (finish s (bump (setPair s pair (refreshedPair s)) (Reg.drcCnt 0) 1)).drc =
      (setPair s pair (refreshedPair s)).drc := by rw [finish_drc, bump, wr_drc]
  have count : rd (finish s (bump (setPair s pair (refreshedPair s)) (Reg.drcCnt 0) 1)) (Reg.drcCnt 0) =
      (rd s (Reg.drcCnt 0) + 1) % 2 ^ 48 := by
    rw [rd_finish_below s (belowCounts_of_lt (by decide)), rd_bump_same, rd_congr (setPair_regs s _ _)]
  rw [pairAt_congr drc pair, pairAt_setPair_same (by rw [hl]; exact pair.isLt)]
  exact ⟨rfl, rfl, fun q hq => (pairAt_congr drc q).trans (pairAt_setPair_ne hq _), by rw [drc]; rfl, count, frame.finished⟩

end Refresh

/-! ### REFRESH_RATE_CHANGE (R356, R442) -/

section RefreshRate
variable (s : State) (temp : Nat)

/-- Whether the interval is halved at a temperature: from above 85 °C on, until it is at or below 82 °C (R442). -/
def halvedAt : Bool := if s.drc.double then decide (146 < temp) else decide (149 < temp)

/-- The temperature is kept, and the rate it calls for. -/
def rateTaken : State := { s with drc := { s.drc with
  temp := temp
  double := halvedAt s temp } }

/-- The rate taken, each pair refreshes next an interval after its last refresh, and not before now (R442). -/
def rateSpread : State := (List.range 4).foldl (fun st p => setPair st p (fun y => { y with
  nextRefresh := max s.cycle (y.lastRefresh + refreshEvery (rateTaken s temp)) })) (rateTaken s temp)

/-- A temperature that leaves the rate is kept alone; with a new rate the budget follows. -/
theorem refreshRate_eq : refreshRate s temp = if halvedAt s temp = s.drc.double then
    { s with drc := { s.drc with temp := temp } } else rebudget (rateSpread s temp) false := rfl

theorem refreshRate_stays (h : halvedAt s temp = s.drc.double) : refreshRate s temp = rateTaken s temp := by
  rw [refreshRate_eq, if_pos h, rateTaken, h]

theorem refreshRate_changes (h : halvedAt s temp ≠ s.drc.double) :
    refreshRate s temp = rebudget (rateSpread s temp) false := by
  rw [refreshRate_eq, if_neg h]

/-- Changing one pair after another changes nothing of the controller but its pairs. -/
theorem foldl_setPair_drc (g : Nat → PairSt → PairSt) (l : List Nat) :
    ∃ ps, (l.foldl (fun st p => setPair st p (g p)) s).drc = { s.drc with pairs := ps } := by
  induction l generalizing s with
  | nil => exact ⟨s.drc.pairs, rfl⟩
  | cons p l ih =>
    obtain ⟨ps, h⟩ := ih (setPair s p (g p))
    exact ⟨ps, h⟩

theorem refreshRate_drc : ∃ ps, (refreshRate s temp).drc = { (rateTaken s temp).drc with pairs := ps } := by
  by_cases h : halvedAt s temp = s.drc.double
  · exact ⟨s.drc.pairs, by rw [refreshRate_stays s temp h]; rfl⟩
  · rw [refreshRate_changes s temp h, (regulates_rebudget _ false).units .drc (by simp)]
    exact foldl_setPair_drc (rateTaken s temp) _ _

theorem only_rateTaken : Only [.drc] [] s (rateTaken s temp) := only_setDrc s _

theorem only_rateSpread : Only [.drc] [] s (rateSpread s temp) :=
  (only_rateTaken s temp).next (only_foldl _ (fun st p => only_setPair st p _) _ _)

theorem keepsUnits_refreshRate : keepsUnits [.drc, .rgl] s (refreshRate s temp) := by
  intro u hu
  rw [List.mem_cons, not_or, ← List.mem_singleton] at hu
  obtain ⟨notDrc, notRgl⟩ := hu
  by_cases h : halvedAt s temp = s.drc.double
  · rw [refreshRate_stays s temp h]
    exact (only_rateTaken s temp).1 u notDrc
  · rw [refreshRate_changes s temp h]
    exact u.same_trans ((only_rateSpread s temp).1 u notDrc) ((regulates_rebudget _ false).units u notRgl)

variable {s} in
theorem refreshRateChange_keeps (ha : awake s = true) (temp : BitVec 8) : Ends (.refreshRateChange temp) s fun t =>
      t.drc.temp = temp.toNat ∧ t.drc.double = (if s.drc.double then decide (146 < temp.toNat) else decide (149 < temp.toNat)) ∧
      t.drc.mem = s.drc.mem ∧ keepsUnits [.drc, .rgl] s t := by
  refine ends_of (core_refreshRateChange temp ha) ?_
  obtain ⟨ps, drc⟩ := refreshRate_drc s temp.toNat
  rw [finish_drc, drc]
  exact ⟨rfl, rfl, rfl, fun u hu => u.same_trans (keepsUnits_refreshRate s _ u hu) ((only_finish s _).1 u (by simp))⟩

end RefreshRate

/-- Settles O11: a window by the state it begins in, a miss by what its record can write, a refresh by the pair it changes, and a
temperature by whether the rate it calls for is the one in force (R349, R356, R358, R360, R442). -/
theorem windowsMissesAndRefreshKeepTheirAccounts : Obligations.WindowsMissesAndRefreshKeepTheirAccounts := by
  unfold Obligations.WindowsMissesAndRefreshKeepTheirAccounts
  exact fun s ha => ⟨windowStart_accounts ha, latencyMiss_counts ha, refresh_busies ha, refreshRateChange_keeps ha⟩

end Sys2Proof.Machine
end

section
namespace Sys2Proof.Machine

/-! ### RGL_CLASS: its fields (R365) -/

section ClassFields
variable {s : State} {v : Nat}

theorem regRow_rglClass : ∀ c : Fin 8, regRow (Reg.rglClass c) =
    some ⟨"RGL_CLASS", 0xD0040, 8, 8, 1, 8, true,
      [fldR 63 48 .rw 0 [(0x10, 0xFFFF)] 1, fldR 42 32 .rw 0 [(0, 0x5A0)] 1, fldR 10 0 .rw 0 [(0, 0x640)] 1]⟩ := by decide +kernel

/-- What a commit leaves of RGL_CLASS, when each field's value is allowed: target, granules and slots. -/
def classWritten (old v : Nat) : Nat :=
  putBits (putBits (putBits old 63 48 (bitsOf v 63 48)) 42 32 (bitsOf v 42 32)) 10 0 (bitsOf v 10 0)

theorem commitFields_rglClass (c : Fin 8) (m : Nat) (ht : 16 ≤ bitsOf v 63 48) (hg : bitsOf v 42 32 ≤ 1440)
    (hs : bitsOf v 10 0 ≤ 1600) :
    commitFields s m (Reg.rglClass c) v = wr s (Reg.rglClass c) (classWritten (rd s (Reg.rglClass c)) v) := by
  have hmax : bitsOf v 63 48 < 2 ^ 16 := bitsOf_lt _ _ _
  have target (lock : Bool) (keep old : Nat) : (fldR 63 48 .rw 0 [(0x10, 0xFFFF)] 1).write lock keep old v =
      (putBits old 63 48 (bitsOf v 63 48), false, false) :=
    write_rw rfl _ _ _ (by simp [Field.allows, fldR, Nat.mod_one, ht, Nat.le_of_lt_succ hmax])
  have granules (lock : Bool) (keep old : Nat) : (fldR 42 32 .rw 0 [(0, 0x5A0)] 1).write lock keep old v =
      (putBits old 42 32 (bitsOf v 42 32), false, false) :=
    write_rw rfl _ _ _ (by simp [Field.allows, fldR, Nat.mod_one, hg])
  have slots (lock : Bool) (keep old : Nat) : (fldR 10 0 .rw 0 [(0, 0x640)] 1).write lock keep old v =
      (putBits old 10 0 (bitsOf v 10 0), false, false) :=
    write_rw rfl _ _ _ (by simp [Field.allows, fldR, Nat.mod_one, hs])
  rw [commitFields_row (regRow_rglClass c)]
  simp [fieldsWrite, target, granules, slots, classWritten]

theorem fget_classWritten (s : State) (o v : Nat) :
    fget (wr s o (classWritten (rd s o) v)) o 10 0 = bitsOf v 10 0 ∧
    fget (wr s o (classWritten (rd s o) v)) o 42 32 = bitsOf v 42 32 ∧
    fget (wr s o (classWritten (rd s o) v)) o 63 48 = bitsOf v 63 48 := by
  have slots : bitsOf v 10 0 < 2 ^ 11 := bitsOf_lt _ _ _
  have granules : bitsOf v 42 32 < 2 ^ 11 := bitsOf_lt _ _ _
  have target : bitsOf v 63 48 < 2 ^ 16 := bitsOf_lt _ _ _
  refine ⟨?_, ?_, ?_⟩ <;> rw [fget, rd_wr_same, bitsOf_mod _ _ (by decide), classWritten]
  · rw [bitsOf_putBits_same _ _ _ _ (by decide), Nat.mod_eq_of_lt slots]
  · rw [bitsOf_putBits_apart _ _ _ _ _ _ (by decide) (by decide), bitsOf_putBits_same _ _ _ _ (by decide),
      Nat.mod_eq_of_lt granules]
  · rw [bitsOf_putBits_apart _ _ _ _ _ _ (by decide) (by decide), bitsOf_putBits_apart _ _ _ _ _ _ (by decide) (by decide),
      bitsOf_putBits_same _ _ _ _ (by decide), Nat.mod_eq_of_lt target]

end ClassFields

/-! ### RGL_CLASS_COMMIT: its three outcomes (R359) -/

section ClassCommit
variable (s : State) (c v : Nat)

/-- The values R8 and R366 allow: a target of 16 cycles or more, and guarantees within the fields' and the ceilings' limits. -/
structure ClassAllowed : Prop where
  target : 16 ≤ bitsOf v 63 48
  slots : bitsOf v 10 0 ≤ 1600
  granules : bitsOf v 42 32 ≤ 1440
  slotCeil : ceilingOk (bitsOf (rd0 s (Reg.rglCeil c)) 10 0) (bitsOf v 10 0) = true
  granCeil : ceilingOk (bitsOf (rd0 s (Reg.rglCeil c)) 26 16) (bitsOf v 42 32) = true

/-- The classes' guarantees in bits [hi:lo] added up, that of class `c` as `v` has it (R359). -/
def guarSum (hi lo : Nat) : Nat :=
  (List.range 8).foldl (fun a i => a + if i = c then bitsOf v hi lo else bitsOf (rd0 s (Reg.rglClass i)) hi lo) 0

/-- Both sums are within the declared budget (R359). -/
def WithinBudget : Prop := guarSum s c v 10 0 ≤ fget s Reg.rglBudget 10 0 ∧ guarSum s c v 42 32 ≤ fget s Reg.rglBudget 26 16

/-- The register RGL_ADMIT of a refused commit: the class and both sums (R370). -/
def admitWord : Nat := c * 2 ^ 48 + guarSum s c v 42 32 % 2 ^ 14 * 2 ^ 32 + guarSum s c v 10 0 % 2 ^ 14

/-- A ceiling that is set lies below the guarantee: R366 refuses it. -/
theorem ceilingOk_false {k g : Nat} (hk : k ≠ 0) (h : k < g) : ¬ceilingOk k g = true := by simp [ceilingOk, hk, h]

variable {s c v}

theorem not_classAllowed (h : bitsOf v 63 48 < 16 ∨ 1600 < bitsOf v 10 0 ∨ 1440 < bitsOf v 42 32 ∨
    (bitsOf (rd0 s (Reg.rglCeil c)) 10 0 ≠ 0 ∧ bitsOf (rd0 s (Reg.rglCeil c)) 10 0 < bitsOf v 10 0) ∨
    (bitsOf (rd0 s (Reg.rglCeil c)) 26 16 ≠ 0 ∧ bitsOf (rd0 s (Reg.rglCeil c)) 26 16 < bitsOf v 42 32)) :
    ¬ClassAllowed s c v := by
  rintro ⟨target, slots, granules, slotCeil, granCeil⟩
  rcases h with h | h | h | ⟨hk, h⟩ | ⟨hk, h⟩
  · exact absurd target (not_le.2 h)
  · exact absurd slots (not_le.2 h)
  · exact absurd granules (not_le.2 h)
  · exact ceilingOk_false hk h slotCeil
  · exact ceilingOk_false hk h granCeil

theorem not_withinBudget (h : fget s Reg.rglBudget 10 0 < guarSum s c v 10 0 ∨ fget s Reg.rglBudget 26 16 < guarSum s c v 42 32) :
    ¬WithinBudget s c v := by
  rwa [WithinBudget, not_and_or, not_le, not_le]

variable (m : Nat)

theorem classCommit_reserved (h : ¬ClassAllowed s c v) : classCommit s m c v = rsvd s m (Reg.rglClass c) := by
  refine if_pos ?_
  by_contra hn
  simp only [Bool.or_eq_true, decide_eq_true_eq, Bool.not_eq_true', not_or, Bool.not_eq_false, not_lt] at hn
  obtain ⟨⟨⟨⟨target, slots⟩, granules⟩, slotCeil⟩, granCeil⟩ := hn
  exact h ⟨target, slots, granules, slotCeil, granCeil⟩

/-- An allowed value is admitted by the sums alone. -/
theorem classCommit_allowed (h : ClassAllowed s c v) : classCommit s m c v =
    if decide (fget s Reg.rglBudget 10 0 < guarSum s c v 10 0) || decide (fget s Reg.rglBudget 26 16 < guarSum s c v 42 32) then
      setEvt (wr s Reg.rglAdmit (admitWord s c v)) Reg.rglEvt 3
    else { commitFields s m (Reg.rglClass c) v with rgl := { s.rgl with dirty := true } } := by
  obtain ⟨target, slots, granules, slotCeil, granCeil⟩ := h
  have kept : (commitFields s m (Reg.rglClass c) v).rgl = s.rgl := (only_commitFields s _ _ _).1 .rgl (by simp)
  rw [← kept]
  refine if_neg ?_
  simp [slotCeil, granCeil, target, slots, granules]

theorem classCommit_over (h : ClassAllowed s c v) (hb : ¬WithinBudget s c v) :
    classCommit s m c v = setEvt (wr s Reg.rglAdmit (admitWord s c v)) Reg.rglEvt 3 := by
  rw [classCommit_allowed m h, if_pos]
  rw [WithinBudget, not_and_or, not_le, not_le] at hb
  simpa using hb

theorem classCommit_takes {c : Fin 8} (h : ClassAllowed s c v) (hb : WithinBudget s c v) :
    classCommit s m c v = { wr s (Reg.rglClass c) (classWritten (rd s (Reg.rglClass c)) v) with
      rgl := { s.rgl with dirty := true } } := by
  rw [classCommit_allowed m h, if_neg, commitFields_rglClass c m h.target h.granules h.slots]
  simpa [WithinBudget] using hb

/-- RGL_ADMIT gives class and sums back field by field (R370). -/
theorem bitsOf_admitWord (c : Fin 8) : bitsOf (admitWord s c v % 2 ^ 64) 55 48 = c.val ∧
    bitsOf (admitWord s c v % 2 ^ 64) 45 32 = guarSum s c v 42 32 % 2 ^ 14 ∧
    bitsOf (admitWord s c v % 2 ^ 64) 13 0 = guarSum s c v 10 0 % 2 ^ 14 := by
  have hc := c.isLt
  simp only [bitsOf_eq, admitWord]
  omega

end ClassCommit

/-! ### The access counted beforehand leaves what the commit looks at -/

section Counted
variable (s : State) (m : Requester) {c v : Nat}

theorem rd0_portCount {o : Nat} (h : belowCounts o) : rd0 (portCount s m) o = rd0 s o := by
  have apart : ∀ f, fnOf m = some f → o ≠ Reg.hstPcieCnt f 0 := fun f hf e =>
    not_mem_portRegs (m := m) h (by simp [portRegs, hf, e])
  unfold portCount
  split
  · exact rd0_bump_ne s 1 (apart _ ‹_›)
  · rfl

theorem classAllowed_portCount (hc : c < 8) : ClassAllowed (portCount s m) c v ↔ ClassAllowed s c v := by
  have ceil : rd0 (portCount s m) (Reg.rglCeil c) = rd0 s (Reg.rglCeil c) :=
    rd0_portCount s m (belowCounts_of_lt (by simp only [Reg.rglCeil]; omega))
  constructor <;> rintro ⟨target, slots, granules, slotCeil, granCeil⟩
  · exact ⟨target, slots, granules, ceil ▸ slotCeil, ceil ▸ granCeil⟩
  · exact ⟨target, slots, granules, ceil.symm ▸ slotCeil, ceil.symm ▸ granCeil⟩

theorem guarSum_portCount (hi lo : Nat) : guarSum (portCount s m) c v hi lo = guarSum s c v hi lo := by
  refine List.foldl_ext _ _ _ fun a i hi8 => ?_
  have below : belowCounts (Reg.rglClass i) := belowCounts_of_lt (by have := List.mem_range.1 hi8; simp only [Reg.rglClass]; omega)
  rw [rd0_portCount s m below]

theorem withinBudget_portCount : WithinBudget (portCount s m) c v ↔ WithinBudget s c v := by
  have budget : rd (portCount s m) Reg.rglBudget = rd s Reg.rglBudget := rd_portCount s m (belowCounts_of_lt (by decide))
  rw [WithinBudget, WithinBudget, guarSum_portCount, guarSum_portCount, fget_congr budget, fget_congr budget]

end Counted

section Commits
variable {s : State} {m : Requester} {c : Fin 8} {v : BitVec 64}
variable (hw : mayWrite s m (Reg.rglClass c.val) 8 = true)
include hw

theorem rglClassCommit_reserved (h : ¬ClassAllowed s c v.toNat) : Ends (.rglClassCommit m c v) s fun t =>
    flag t Reg.topErr 0 = true ∧ Only [] (errRegs ++ portRegs m) s t := by
  refine ends_of (exec_rglClassCommit c v hw) ?_
  rw [classCommit_reserved _ (mt (classAllowed_portCount s m c.isLt).1 h)]
  exact ⟨(flag_finish_err s _ 0).trans (flag_rsvd _ _ _), (only_rsvd _ _ _).counted⟩

theorem rglClassCommit_over (h : ClassAllowed s c v.toNat) (hb : ¬WithinBudget s c v.toNat) :
    Ends (.rglClassCommit m c v) s fun t =>
      flag t Reg.rglEvt 3 = true ∧ fget t Reg.rglAdmit 55 48 = c.val ∧
      fget t Reg.rglAdmit 45 32 = guarSum s c v.toNat 42 32 % 2 ^ 14 ∧
      fget t Reg.rglAdmit 13 0 = guarSum s c v.toNat 10 0 % 2 ^ 14 ∧ Only [] ([Reg.rglAdmit, Reg.rglEvt] ++ portRegs m) s t := by
  refine ends_of (exec_rglClassCommit c v hw) ?_
  rw [classCommit_over _ ((classAllowed_portCount s m c.isLt).2 h) (mt (withinBudget_portCount s m).1 hb), admitWord,
    guarSum_portCount, guarSum_portCount, ← admitWord]
  have word : rd (finish s (setEvt (wr (portCount s m) Reg.rglAdmit (admitWord s c v.toNat)) Reg.rglEvt 3)) Reg.rglAdmit =
      admitWord s c v.toNat % 2 ^ 64 := by
    rw [rd_finish_below s (belowCounts_of_lt (by decide)), rd_setEvt_ne _ _ (by decide), rd_wr_same]
  have event : flag (finish s (setEvt (wr (portCount s m) Reg.rglAdmit (admitWord s c v.toNat)) Reg.rglEvt 3))
      Reg.rglEvt 3 = true :=
    (flag_congr (rd_finish_below s (belowCounts_of_lt (by decide))) 3).trans (flag_setEvt_same _ _ _ (by decide))
  rw [fget, fget, fget, word]
  obtain ⟨cls, granules, slots⟩ := bitsOf_admitWord (s := s) (v := v.toNat) c
  exact ⟨event, cls, granules, slots, ((only_wr _ _ _).trans (only_setEvt _ _ _)).counted⟩

theorem rglClassCommit_takes (h : ClassAllowed s c v.toNat) (hb : WithinBudget s c v.toNat) :
    Ends (.rglClassCommit m c v) s fun t =>
      fget t (Reg.rglClass c.val) 10 0 = bitsOf v.toNat 10 0 ∧ fget t (Reg.rglClass c.val) 42 32 = bitsOf v.toNat 42 32 ∧
      fget t (Reg.rglClass c.val) 63 48 = bitsOf v.toNat 63 48 ∧ t.rgl = { s.rgl with dirty := true } ∧
      Only [.rgl] (Reg.rglClass c.val :: portRegs m) s t := by
  refine ends_of (exec_rglClassCommit c v hw) ?_
  rw [classCommit_takes _ ((classAllowed_portCount s m c.isLt).2 h) ((withinBudget_portCount s m).2 hb)]
  have below : belowCounts (Reg.rglClass c.val) := belowCounts_of_lt (by have := c.isLt; simp only [Reg.rglClass]; omega)
  have rgl : (portCount s m).rgl = s.rgl := (only_portCount s m).1 .rgl (by simp)
  rw [fget_congr (rd_finish_below s below), fget_congr (rd_finish_below s below), fget_congr (rd_finish_below s below),
    finish_rgl, rgl]
  obtain ⟨slots, granules, target⟩ := fget_classWritten (portCount s m) (Reg.rglClass c.val) v.toNat
  exact ⟨slots, granules, target, rfl, ((only_wr _ _ _).trans (only_setRgl _ _)).counted⟩

end Commits

/-- Settles O42: the commit is one of the three outcomes of `classCommit`, on the state in which the access has been counted
(R359, R366, R370). -/
theorem classCommitsAreAdmittedOrRefused : Obligations.ClassCommitsAreAdmittedOrRefused := by
  unfold Obligations.ClassCommitsAreAdmittedOrRefused
  rintro s m c v gs gg ss sg hw rfl rfl rfl rfl
  have ends := exec_rglClassCommit c v hw
  refine ends_of ends ⟨fun bad => (rglClassCommit_reserved hw (not_classAllowed bad)).holds ends,
    fun target slots granules slotCeil granCeil => ?_⟩
  have allowed : ClassAllowed s c v.toNat := ⟨target, slots, granules, slotCeil, granCeil⟩
  exact ⟨fun exceeds => (rglClassCommit_over hw allowed (not_withinBudget exceeds)).holds ends,
    fun slotSum granSum => (rglClassCommit_takes hw allowed ⟨slotSum, granSum⟩).holds ends⟩

end Sys2Proof.Machine
end

section
namespace Sys2Proof.Machine

/-! ### Every command ends with a look at the causes -/

/-- Every command is an effect and its end: the queue, the clock, and a look at the interrupt causes (R461). -/
theorem exec_finish (c : Instr) (s : State) : ∃ t, exec c s = .next (finish s t) := by cases c <;> exact ⟨_, rfl⟩

/-- Settles O55: the two branches of `step` (00_scope, 01_journey). -/
theorem stepRunsTheFrontCommandOrTicks : Obligations.StepRunsTheFrontCommandOrTicks := by
  unfold Obligations.StepRunsTheFrontCommandOrTicks
  exact ⟨fun c rest s => rfl, fun s h => by rw [step, h]⟩

/-- Settles O56: what a command makes is put behind the queue and the clock it began with (01_journey, 95_steps). -/
theorem everyCommandCompletesInNoTime : Obligations.EveryCommandCompletesInNoTime := by
  unfold Obligations.EveryCommandCompletesInNoTime
  intro c s
  obtain ⟨t, e⟩ := exec_finish c s
  exact ⟨_, e, finish_pending s t, finish_cycle s t⟩

end Sys2Proof.Machine
end

section
namespace Sys2Proof.Machine

/-! ### The active vectors after a look at the causes -/

/-- The counters of the requests that an endpoint receives and that the device sends through it (R551). -/
def trafficRegs : List Nat := [Reg.hstPcieCnt 0 0, Reg.hstPcieCnt 1 0, Reg.hstPcieCnt 0 3, Reg.hstPcieCnt 1 3]

/-- Two states agree in every register that neither a request nor a message counts in. -/
def CausesAgree (s t : State) : Prop := ∀ o, o ∉ trafficRegs → rd0 t o = rd0 s o

section Agree
variable {s t u : State}

theorem CausesAgree.refl (s : State) : CausesAgree s s := fun _ _ => rfl

theorem CausesAgree.trans (h : CausesAgree s t) (k : CausesAgree t u) : CausesAgree s u :=
  fun o ho => (k o ho).trans (h o ho)

theorem causesAgree_of_regs (h : t.regs = s.regs) : CausesAgree s t := fun o _ => rd0_congr h o

theorem evtOn_congr (h : CausesAgree s t) {evt en : Nat} (h1 : evt ∉ trafficRegs) (h2 : en ∉ trafficRegs) :
    evtOn t evt en = evtOn s evt en := by rw [evtOn, evtOn, h evt h1, h en h2]

theorem any_congr_mem {α : Type} {l : List α} {p q : α → Bool} (h : ∀ a ∈ l, p a = q a) : l.any p = l.any q := by
  rw [Bool.eq_iff_iff, List.any_eq_true, List.any_eq_true]
  exact exists_congr fun a => and_congr_right fun ha => by rw [h a ha]

/-- No event register and no enable counts requests. -/
theorem causeOn_congr (h : CausesAgree s t) (c : Nat) : causeOn t c = causeOn s c := by
  unfold causeOn
  split
  case h_7 =>
    have port : ∀ p ∈ List.range 32, evtOn t (Reg.tapEvt p) (Reg.tapEvtEn p) = evtOn s (Reg.tapEvt p) (Reg.tapEvtEn p) := by
      intro p hp
      have := List.mem_range.1 hp
      refine evtOn_congr h ?_ ?_ <;> simp only [trafficRegs, Reg.tapEvt, Reg.tapEvtEn, Reg.hstPcieCnt, List.mem_cons,
        List.not_mem_nil, or_false] <;> omega
    exact any_congr_mem port
  case h_22 =>
    have channel : ∀ n ∈ List.range 8,
        evtOn t (Reg.hstDmaEvt n) (Reg.hstDmaEvtEn n) = evtOn s (Reg.hstDmaEvt n) (Reg.hstDmaEvtEn n) := by
      intro n hn
      have := List.mem_range.1 hn
      refine evtOn_congr h ?_ ?_ <;> simp only [trafficRegs, Reg.hstDmaEvt, Reg.hstDmaEvtEn, Reg.hstPcieCnt, List.mem_cons,
        List.not_mem_nil, or_false] <;> omega
    exact any_congr_mem channel
  all_goals simp (disch := decide) only [h _, evtOn_congr h]

theorem intSum_congr (h : CausesAgree s t) : intSum t = intSum s := by simp only [intSum, causeOn_congr h]

theorem vectorsOf_congr (h : CausesAgree s t) {f : Nat} (hf : f < 2) (sum : Nat) : vectorsOf t f sum = vectorsOf s f sum := by
  refine List.foldl_ext _ _ _ (fun a c hc => ?_)
  have := List.mem_range.1 hc
  have map : rd0 t (Reg.hstMsixMap f c) = rd0 s (Reg.hstMsixMap f c) := h _ (by
    simp only [trafficRegs, Reg.hstMsixMap, Reg.hstPcieCnt, List.mem_cons, List.not_mem_nil, or_false]
    omega)
  rw [map]

/-- The vectors agreed carries over to a state with the same causes and the same recorded vectors. -/
theorem msixInv_congr (h : CausesAgree s t) (hp : ∀ f, (pcie t f).active = (pcie s f).active) (hs : s.msixInv) : t.msixInv := by
  intro f
  rw [hp, intSum_congr h, vectorsOf_congr h f.isLt]
  exact hs f

end Agree

section Look
variable (s : State) (f v : Nat)

theorem active_setPcie (x : Pcie) (g : Nat) (h : x.active = (pcie s f).active) :
    (pcie (setPcie s f x) g).active = (pcie s g).active := by
  by_cases hg : g = f
  · subst hg
    simpa [pcie, setPcie] using h
  · simp [pcie, setPcie, KMap.get_set_ne _ _ _ hg]

theorem active_hostSend (o : Out) (g : Nat) : (pcie (hostSend s f o) g).active = (pcie s g).active := by
  unfold hostSend
  simp only
  split
  · simp [pcie]
  · exact active_setPcie s f _ g rfl

theorem active_wantMsix (g : Nat) : (pcie (wantMsix s f v) g).active = (pcie s g).active := by
  unfold wantMsix
  simp only
  split
  · rfl
  · split
    · exact active_setPcie s f _ g rfl
    · exact active_hostSend s f _ g

theorem causesAgree_hostSend (hf : f < 2) (o : Out) : CausesAgree s (hostSend s f o) := by
  unfold hostSend
  simp only
  split
  · intro p hp
    rw [rd0_bump_ne]
    · exact rd0_congr rfl p
    · rintro rfl
      have : f = 0 ∨ f = 1 := by omega
      rcases this with rfl | rfl <;> simp [trafficRegs] at hp
  · exact causesAgree_of_regs (by simp)

theorem causesAgree_wantMsix (hf : f < 2) : CausesAgree s (wantMsix s f v) := by
  unfold wantMsix
  simp only
  split
  · exact CausesAgree.refl s
  · split
    · exact causesAgree_of_regs (by simp)
    · exact causesAgree_hostSend s f hf _

theorem causesAgree_wantAll (hf : f < 2) (l : List Nat) : CausesAgree s (l.foldl (fun st v => wantMsix st f v) s) := by
  induction l generalizing s with
  | nil => exact CausesAgree.refl s
  | cons v l ih => exact (causesAgree_wantMsix s f v hf).trans (ih _)

theorem causesAgree_msixLook (hf : f < 2) (sum : Nat) : CausesAgree s (msixLook s f sum) := by
  unfold msixLook
  simp only
  split
  · exact CausesAgree.refl s
  · exact (causesAgree_of_regs (by simp)).trans (causesAgree_wantAll _ f hf _)

theorem active_wantAll (g : Nat) (l : List Nat) :
    (pcie (l.foldl (fun st v => wantMsix st f v) s) g).active = (pcie s g).active :=
  foldl_same s (fun st v => wantMsix st f v) (fun t => (pcie t g).active) (fun t v => active_wantMsix t f v g) l

/-- A function just looked at records the vectors that are active (R461). -/
theorem active_msixLook_same (sum : Nat) : (pcie (msixLook s f sum) f).active = vectorsOf s f sum := by
  unfold msixLook
  simp only
  split
  case isTrue h => exact h.symm
  case isFalse => rw [active_wantAll]; simp [pcie, setPcie]

/-- A look at one function leaves the other's record alone. -/
theorem active_msixLook_ne {g : Nat} (h : g ≠ f) (sum : Nat) : (pcie (msixLook s f sum) g).active = (pcie s g).active := by
  unfold msixLook
  simp only
  split
  · rfl
  · rw [active_wantAll]; simp [pcie, setPcie, KMap.get_set_ne _ _ _ h]

end Look

/-- After a look at the causes the recorded vectors are the active ones, whatever they were (R461). -/
theorem msixInv_settle (s : State) : (settle s).msixInv := by
  have first := causesAgree_msixLook s 0 (by decide) (intSum s)
  have both := first.trans (causesAgree_msixLook _ 1 (by decide) (intSum s))
  intro f
  rw [settle, vectorsOf_congr both f.isLt, intSum_congr both]
  have : f = 0 ∨ f = 1 := by omega
  rcases this with rfl | rfl
  · exact (active_msixLook_ne _ 1 (by decide) _).trans (active_msixLook_same s 0 _)
  · exact (active_msixLook_same _ 1 _).trans (vectorsOf_congr first (by decide) _)

theorem msixInv_notePast (s t : State) (i : Int) (h : t.msixInv) : (notePast s t i).msixInv := by
  unfold notePast
  split
  · exact h
  · exact msixInv_congr (causesAgree_of_regs rfl) (fun _ => rfl) h

theorem msixInv_finish (s t : State) : (finish s t).msixInv := msixInv_notePast s _ 0 (msixInv_settle _)

theorem msixInv_fastTick (s : State) : (fastTick s).msixInv := msixInv_notePast _ _ _ (msixInv_settle _)

/-- A tick ends with a look at the causes, but for a device without power, which does not change. -/
theorem msixInv_tick {s : State} (h : s.msixInv) : (tick s).msixInv := by
  unfold tick
  split
  · exact h
  · exact msixInv_settle _
  · exact msixInv_settle _
  all_goals exact msixInv_fastTick s

/-- Settles O60: every command and every tick of a powered device ends with a look at the causes, after which the recorded
vectors are the active ones; a tick in OFF changes nothing (R460, R461, log 143). -/
theorem everyStepKeepsVectorsAgreed : Obligations.EveryStepKeepsVectorsAgreed := by
  unfold Obligations.EveryStepKeepsVectorsAgreed
  intro s t e h
  unfold step at e
  split at e
  · cases e
    exact msixInv_tick h
  · next c rest _ =>
    obtain ⟨u, hu⟩ := exec_finish c { s with pending := rest }
    rw [hu] at e
    cases e
    exact msixInv_finish _ u

end Sys2Proof.Machine
end

section
namespace Sys2Proof.Machine

/-! ### Supplies, the reset pin, and the start that follows (R487, R488, R493, R495, R496, R526, R533) -/

section Starts
variable (s : State)

theorem only_setPwr (x : PwrSt) : Only [.pwr] [] s { s with pwr := x } :=
  only_units (fun u hu => by cases u <;> simp [UnitName.same] at *) rfl rfl

/-- The rails are requested and the ports are OFF: a start begins. -/
theorem only_beginStart (c : Nat) : Only [.pwr, .taps, .wlt] [] s (beginStart s c) :=
  only_units (fun u hu => by cases u <;> simp [UnitName.same, beginStart] at *) rfl rfl

@[simp] theorem beginStart_pwr (c : Nat) : (beginStart s c).pwr = { s.pwr with
    st := .starting
    reqHigh := true
    wake := false
    causes := c :: s.pwr.causes } := rfl
@[simp] theorem beginStart_taps (c : Nat) : (beginStart s c).taps = [] := rfl
@[simp] theorem beginStart_nvc (c : Nat) : (beginStart s c).nvc = s.nvc := rfl

/-- What a write cut short leaves in the store: its target holds no valid content (R504). -/
def writeCut (st : State) (o : CkptOp) : State :=
  if o.kind = 0 then nvcPut st 0x200008 (leBytes 4 0)
  else if o.kind = 2 then nvcPut st (o.addr + 252) (leBytes 4 (crc32c (o.bytes.take 252) ^^^ 1)) else st

theorem only_writeCut (o : CkptOp) : Only [.nvc] [] s (writeCut s o) := by
  unfold writeCut
  split
  · exact only_nvcPut s _ _
  · split
    · exact only_nvcPut s _ _
    · exact Only.refl _ _ s

theorem ckptAbandon_eq : ckptAbandon s = if s.nvc.ops = [] then s else
    setEvt (wr { s.nvc.ops.foldl writeCut s with nvc := { (s.nvc.ops.foldl writeCut s).nvc with ops := [] } } Reg.nvcCkptProg
      (progValue (rd s Reg.nvcCkptTotal) (fget s Reg.nvcCkptProg 31 0) false)) Reg.nvcEvt 1 := rfl

theorem ckptAbandon_ops : (ckptAbandon s).nvc.ops = [] := by
  rw [ckptAbandon_eq]
  split
  case isTrue h => exact h
  case isFalse => simp

theorem only_ckptAbandon : Only [.nvc] [Reg.nvcCkptProg, Reg.nvcEvt] s (ckptAbandon s) := by
  rw [ckptAbandon_eq]
  split
  · exact Only.refl _ _ s
  · have cut : Only [.nvc] [Reg.nvcCkptProg, Reg.nvcEvt] s (s.nvc.ops.foldl writeCut s) :=
      (only_foldl writeCut only_writeCut _ s).mono (List.Subset.refl _) (by simp)
    exact ((cut.more (only_setNvc _ _) (by simp) (by simp)).wr _ (by simp)).setEvt _ (by simp)

/-- Registers that hold nothing read their reset values. -/
theorem rd_of_regs_nil {s : State} (h : s.regs = []) (o : Nat) : rd s o = (regDefault o).toNat := by rw [rd, h]; rfl

end Starts

section Supplies
variable {s : State}

theorem vaonApply_starts (h : s.pwr.st = .off) : vaonApply s =
    beginStart { freshStart s with
      regs := []
      pwr := { PwrSt.zero with
        pgood := false
        wakeLevel := s.pwr.wakeLevel
        tamperLevel := s.pwr.tamperLevel } } 1 := by
  rw [vaonApply, if_neg (by simp [h])]

/-- A brownout, or a fall of PGOOD that no PARK asked for, begins a start with its cause alone (R526). -/
theorem brownout_starts (ha : awake s = true) (hr : s.pwr.reqHigh = true) :
    brownout s = beginStart { ckptAbandon s with pwr := { (ckptAbandon s).pwr with causes := [] } } 3 := if_pos ⟨ha, hr⟩

/-- A start that cuts the writes short (R504): its cause, the queues and the ports. -/
theorem cutStart_ends (x : PwrSt) (c : Nat) {u : State} (h : u = beginStart { ckptAbandon s with pwr := x } c) :
    u.pwr = { x with
      st := .starting
      reqHigh := true
      wake := false
      causes := c :: x.causes } ∧ u.nvc.ops = [] ∧ u.taps = [] ∧ keepsUnits [.pwr, .nvc, .taps, .wlt] s u := by
  subst h
  have frame := ((only_ckptAbandon s).trans (only_setPwr _ x)).trans (only_beginStart _ c)
  exact ⟨rfl, ckptAbandon_ops s, rfl, (frame.mono (by simp) (List.Subset.refl _)).1⟩

/-- A command whose effect is such a start. -/
theorem ends_cutStart {i : Instr} (x : PwrSt) (c : Nat) {u : State} (e : exec i s = .next (finish s u))
    (h : u = beginStart { ckptAbandon s with pwr := x } c) : Ends i s fun t =>
      t.pwr = { x with
        st := .starting
        reqHigh := true
        wake := false
        causes := c :: x.causes } ∧ t.nvc.ops = [] ∧ t.taps = [] ∧ keepsUnits [.pwr, .nvc, .taps, .wlt] s t := by
  obtain ⟨pwr, ops, taps, frame⟩ := cutStart_ends x c h
  refine ends_of e ⟨by rw [finish_pwr, pwr], by rw [finish_nvc, ops], by rw [finish_taps, taps], fun u hu => ?_⟩
  exact u.same_trans (frame u hu) ((only_finish s _).1 u (by simp))

theorem pgoodFall_browns (hr : s.pwr.reqHigh = true) :
    pgoodFall s = brownout { s with pwr := { s.pwr with pgood := false } } := by
  rw [pgoodFall, if_neg (by simp [hr])]

theorem pgoodFall_parks (hp : s.pwr.st = .parking) (hr : s.pwr.reqHigh = false) : pgoodFall s = { s with pwr := { s.pwr with
    pgood := false
    st := .park
    dwellOver := false
    lowAt := rd s Reg.milAonCnt } } := if_pos ⟨hp, hr⟩

theorem resetPin_starts (hg : s.pwr.pgood = true) (ho : s.pwr.st ≠ .off) (hp : s.pwr.st ≠ .park) : resetPin s =
    beginStart { ckptAbandon s with pwr := { (ckptAbandon s).pwr with
      causes := if s.pwr.st = .starting then s.pwr.causes else [] } } 2 := by
  rw [resetPin, if_neg ho, if_neg (by simp [hp, hg]), if_pos hg]

theorem resetPin_parked (hp : s.pwr.st = .park) : resetPin s = { s with pwr := { s.pwr with causes := 2 :: s.pwr.causes } } := by
  rw [resetPin, if_neg (by simp [hp]), if_pos (Or.inl hp)]

theorem ckptAbandon_pwr (s : State) : (ckptAbandon s).pwr = s.pwr := (only_ckptAbandon s).1 .pwr (by simp)

theorem vaonApply_ends (h : s.pwr.st = .off) : Ends .vaonApply s fun t =>
    t.pwr.st = .starting ∧ t.pwr.reqHigh = true ∧ t.pwr.causes = [1] ∧ t.spm = State.reset.spm ∧ t.drc = State.reset.drc ∧
    t.nvc.mem = s.nvc.mem ∧ ∀ o, o ∉ msgRegs → rd t o = (regDefault o).toNat := by
  refine ends_of core_vaonApply ?_
  rw [vaonApply_starts h, finish_pwr, finish_spm, finish_drc, finish_nvc]
  exact ⟨rfl, rfl, rfl, rfl, rfl, rfl, fun o ho => (rd_finish s _ ho).trans (rd_of_regs_nil rfl o)⟩

theorem vaonLoss_ends : Ends .vaonLoss s fun t =>
    t.pwr.st = .off ∧ t.pwr.reqHigh = false ∧ ∀ o, o ∉ msgRegs → rd t o = (regDefault o).toNat := by
  refine ends_of core_vaonLoss ?_
  rw [finish_pwr]
  exact ⟨rfl, rfl, fun o ho => (rd_finish s _ ho).trans (rd_of_regs_nil rfl o)⟩

theorem pgoodRise_ends : Ends .pgoodRise s fun t => t.pwr = { s.pwr with pgood := true } ∧ Only [.pwr] [] s t :=
  ends_of core_pgoodRise ⟨finish_pwr s _, (only_setPwr s _).finished⟩

theorem pgoodFall_completesPark (hp : s.pwr.st = .parking) (hr : s.pwr.reqHigh = false) : Ends .pgoodFall s fun t =>
    t.pwr.st = .park ∧ t.pwr.pgood = false ∧ t.pwr.dwellOver = false ∧ t.pwr.lowAt = rd s Reg.milAonCnt ∧
    Only [.pwr] [] s t := by
  refine ends_of core_pgoodFall ?_
  rw [pgoodFall_parks hp hr, finish_pwr]
  exact ⟨rfl, rfl, rfl, rfl, (only_setPwr s _).finished⟩

theorem brownout_ends (ha : awake s = true) (hr : s.pwr.reqHigh = true) : Ends .brownout s fun t =>
    t.pwr.st = .starting ∧ t.pwr.causes = [3] ∧ t.pwr.pgood = s.pwr.pgood ∧ t.nvc.ops = [] ∧ t.taps = [] ∧
    keepsUnits [.pwr, .nvc, .taps, .wlt] s t := by
  obtain ⟨t, e, pwr, ops, taps, frame⟩ := ends_cutStart _ 3 core_brownout (brownout_starts ha hr)
  exact ⟨t, e, by rw [pwr], by rw [pwr], by rw [pwr, ckptAbandon_pwr], ops, taps, frame⟩

/-- A fall of PGOOD is a brownout on the state that has seen it. -/
theorem pgoodFall_starts (ha : awake s = true) (hr : s.pwr.reqHigh = true) : Ends .pgoodFall s fun t =>
    t.pwr.st = .starting ∧ t.pwr.causes = [3] ∧ t.pwr.pgood = false ∧ t.nvc.ops = [] ∧ t.taps = [] ∧
    keepsUnits [.pwr, .nvc, .taps, .wlt] s t := by
  have fall := only_setPwr s { s.pwr with pgood := false }
  have start := (pgoodFall_browns hr).trans (brownout_starts (s := { s with pwr := { s.pwr with pgood := false } }) ha hr)
  obtain ⟨pwr, ops, taps, frame⟩ := cutStart_ends _ 3 start
  refine ends_of core_pgoodFall ?_
  rw [finish_pwr, finish_nvc, finish_taps, pwr, ckptAbandon_pwr]
  refine ⟨rfl, rfl, rfl, ops, taps, fun u hu => ?_⟩
  have seen : u.same s { s with pwr := { s.pwr with pgood := false } } := fall.1 u (by rintro h; simp at h; simp [h] at hu)
  exact u.same_trans (u.same_trans seen (frame u hu)) ((only_finish s _).1 u (by simp))

theorem resetPin_ends (hg : s.pwr.pgood = true) (ho : s.pwr.st ≠ .off) (hp : s.pwr.st ≠ .park) : Ends .resetPin s fun t =>
    t.pwr.st = .starting ∧ 2 ∈ t.pwr.causes ∧ t.nvc.ops = [] ∧ t.taps = [] ∧ keepsUnits [.pwr, .nvc, .taps, .wlt] s t := by
  obtain ⟨t, e, pwr, ops, taps, frame⟩ := ends_cutStart _ 2 core_resetPin (resetPin_starts hg ho hp)
  exact ⟨t, e, by rw [pwr], by simp [pwr], ops, taps, frame⟩

theorem resetPin_keptInPark (hp : s.pwr.st = .park) : Ends .resetPin s fun t =>
    t.pwr = { s.pwr with causes := 2 :: s.pwr.causes } ∧ Only [.pwr] [] s t := by
  refine ends_of core_resetPin ?_
  rw [resetPin_parked hp]
  exact ⟨finish_pwr s _, (only_setPwr s _).finished⟩

end Supplies

/-- Settles O13: each pin's own theorem; a start that cuts checkpoint writes short is one lemma for brownout, PGOOD and RESET_N
(R487, R495, R504, R526, R533). -/
theorem suppliesAndResetPinMoveThePowerState : Obligations.SuppliesAndResetPinMoveThePowerState := by
  unfold Obligations.SuppliesAndResetPinMoveThePowerState
  exact fun s => ⟨vaonApply_ends, vaonLoss_ends, pgoodRise_ends, pgoodFall_completesPark, pgoodFall_starts, brownout_ends,
    resetPin_ends, resetPin_keptInPark⟩

end Sys2Proof.Machine
end

section
namespace Sys2Proof.Machine

/-! ### PARK: requests, the end of grace, wakes and forced cold starts (R490, R491, R493, R494, R496, R512) -/

section PortCount
variable (s : State) (m : Requester)

@[simp] theorem portCount_pwr : (portCount s m).pwr = s.pwr := portCount_same s m _ (wr_pwr s)
@[simp] theorem portCount_spm : (portCount s m).spm = s.spm := portCount_same s m _ (wr_spm s)
@[simp] theorem portCount_drc : (portCount s m).drc = s.drc := portCount_same s m _ (wr_drc s)
@[simp] theorem portCount_rgl : (portCount s m).rgl = s.rgl := portCount_same s m _ (wr_rgl s)
@[simp] theorem portCount_intg : (portCount s m).intg = s.intg := portCount_same s m _ (wr_intg s)
@[simp] theorem portCount_wlt : (portCount s m).wlt = s.wlt := portCount_same s m _ (wr_wlt s)
@[simp] theorem portCount_brg : (portCount s m).brg = s.brg := portCount_same s m _ (wr_brg s)
@[simp] theorem portCount_dma : (portCount s m).dma = s.dma := portCount_same s m _ (wr_dma s)
@[simp] theorem portCount_host : (portCount s m).host = s.host := portCount_same s m _ (wr_host s)
@[simp] theorem portCount_seq : (portCount s m).seq = s.seq := portCount_same s m _ (wr_seq s)
@[simp] theorem portCount_can : (portCount s m).can = s.can := portCount_same s m _ (wr_can s)
@[simp] theorem portCount_pcie : (portCount s m).pcie = s.pcie := portCount_same s m _ (wr_pcie s)
@[simp] theorem portCount_out : (portCount s m).out = s.out := portCount_same s m _ (wr_out s)

theorem awake_portCount : awake (portCount s m) = awake s := by rw [awake, awake, portCount_pwr]

end PortCount

section PwrCtrl

/-- A command word of PWR_CTRL carries its key and its bits (R512). -/
theorem pwrWord_fields (key : BitVec 16) {what : Nat} (h : what < 4) :
    bitsOf (pwrWord key what).toNat 31 16 = key.toNat ∧ bitsOf (pwrWord key what).toNat 1 0 = what := by
  have := key.isLt
  rw [bitsOf_eq, bitsOf_eq, pwrWord, BitVec.toNat_ofNat]
  omega

variable (s : State) (m : Requester) (key : BitVec 16)

theorem pwrCtrlWrite_park : pwrCtrlWrite s m (pwrWord key 1).toNat = parkRequest s m key.toNat := by
  obtain ⟨hk, hw⟩ := pwrWord_fields key (what := 1) (by decide)
  simp [pwrCtrlWrite, hk, hw]

theorem pwrCtrlWrite_cold : pwrCtrlWrite s m (pwrWord key 2).toNat = coldRequest s m key.toNat := by
  obtain ⟨hk, hw⟩ := pwrWord_fields key (what := 2) (by decide)
  simp [pwrCtrlWrite, hk, hw]

/-- The grace of a PARK begins (R490, R491). -/
def noticeGiven : State :=
  setEvt { s with pwr := { s.pwr with
    st := .parking
    prev := s.pwr.st
    stopGrants := false
    graceEnd := s.cycle + fget s Reg.pwrCfg 15 8 * 800000 } } Reg.pwrEvt 0

theorem only_noticeGiven : Only [.pwr] [Reg.pwrEvt] s (noticeGiven s) :=
  ((only_setPwr s _).mono (List.Subset.refl _) (by simp)).setEvt 0 (by simp)

variable {s m}

theorem parkRequest_wrongKey {k : Nat} (ha : awake s = true) (h : k ≠ 0x5041) :
    parkRequest s m k = rsvd s m.code Reg.pwrCtrl := by simp [parkRequest, ha, h]

theorem parkRequest_granted (ha : awake s = true)
    (h : s.pwr.st = .staged ∨ s.pwr.st = .ready ∨ (s.pwr.st = .woken ∧ flag s Reg.imgStat 30 = true)) :
    parkRequest s m 0x5041 = noticeGiven s := by
  have np : s.pwr.st ≠ .parking := by
    rcases h with h | h | ⟨h, -⟩ <;> simp [h]
  rw [parkRequest, if_neg (by simp [ha]), if_neg (by simp), if_neg np, if_pos h, noticeGiven]

theorem parkRequest_ends (hw : mayWrite s m Reg.pwrCtrl 4 = true)
    (h : s.pwr.st = .staged ∨ s.pwr.st = .ready ∨ (s.pwr.st = .woken ∧ flag s Reg.imgStat 30 = true)) :
    Ends (.parkRequest m 0x5041) s fun t =>
      t.pwr.st = .parking ∧ t.pwr.prev = s.pwr.st ∧ t.pwr.stopGrants = false ∧ flag t Reg.pwrEvt 0 = true ∧
      Only [.pwr] (Reg.pwrEvt :: portRegs m) s t := by
  have stat : flag (portCount s m) Reg.imgStat 30 = flag s Reg.imgStat 30 :=
    flag_congr (rd_portCount s m (belowCounts_of_lt (by decide))) 30
  have granted : parkRequest (portCount s m) m 0x5041 = noticeGiven (portCount s m) :=
    parkRequest_granted ((awake_portCount s m).trans (awake_of_mayWrite hw)) (by rwa [portCount_pwr, stat])
  refine ends_of (exec_parkRequest 0x5041 hw) ?_
  rw [pwrCtrlWrite_park, show (0x5041 : BitVec 16).toNat = 0x5041 from rfl, granted, finish_pwr,
    flag_congr (rd_finish_below s (belowCounts_of_lt (by decide)))]
  refine ⟨by simp [noticeGiven], by simp [noticeGiven], by simp [noticeGiven], ?_, (only_noticeGiven _).counted⟩
  exact flag_setEvt_same _ _ _ (by decide)

theorem parkRequest_refused (hw : mayWrite s m Reg.pwrCtrl 4 = true) (h : key ≠ 0x5041) :
    Ends (.parkRequest m key) s fun t => flag t Reg.topErr 0 = true ∧ Only [] (errRegs ++ portRegs m) s t := by
  have hk : key.toNat ≠ 0x5041 := fun e => h (BitVec.eq_of_toNat_eq e)
  refine ends_of (exec_parkRequest key hw) ?_
  rw [pwrCtrlWrite_park, parkRequest_wrongKey ((awake_portCount s m).trans (awake_of_mayWrite hw)) hk, flag_finish_err]
  exact ⟨flag_rsvd _ _ _, (only_rsvd _ _ _).counted⟩

theorem cold_ends (hw : mayWrite s m Reg.pwrCtrl 4 = true) (hm : m = .spi ∨ m = .pcie0) :
    Ends (.cold m 0x434F) s fun t => t.pwr.st = .starting ∧ t.pwr.causes = [4] ∧ t.nvc.ops = [] ∧ t.taps = [] ∧
      keepsUnits [.pwr, .nvc, .taps, .wlt] s t := by
  have ha := (awake_portCount s m).trans (awake_of_mayWrite hw)
  have cold : coldRequest (portCount s m) m 0x434F = beginStart { ckptAbandon (portCount s m) with
      pwr := { (ckptAbandon (portCount s m)).pwr with causes := [] } } 4 := by
    rw [coldRequest, if_neg (by simp [ha]), if_neg (by simp), if_pos (by rcases hm with h | h <;> simp [h])]
  obtain ⟨pwr, ops, taps, frame⟩ := cutStart_ends _ 4 cold
  refine ends_of (exec_cold 0x434F hw) ?_
  rw [pwrCtrlWrite_cold, show (0x434F : BitVec 16).toNat = 0x434F from rfl, finish_pwr, finish_nvc, finish_taps, pwr]
  refine ⟨rfl, rfl, ops, taps, fun u hu => ?_⟩
  exact u.same_trans (u.same_trans ((only_portCount s m).1 u (by simp)) (frame u hu)) ((only_finish s _).1 u (by simp))

end PwrCtrl

section Grace
variable {s : State} (wake : Fin 16) (tamper : Fin 4)

/-- The levels of the wake and tamper inputs as the decision sees them (R491). -/
def levelsSeen (s : State) (wake tamper : Nat) : State := { s with pwr := { s.pwr with
  wakeLevel := wake
  tamperLevel := tamper } }

theorem graceEnd_due (hp : s.pwr.st = .parking) (hg : s.pwr.stopGrants = false) (hc : s.pwr.graceEnd ≤ s.cycle) :
    graceEnd s = if abortWhy s ≠ 0 then
      setEvt (fput { s with pwr := { s.pwr with st := s.pwr.prev } } Reg.pwrStat 27 24 (abortWhy s)) Reg.pwrEvt 1
    else { s with pwr := { s.pwr with
      stopGrants := true
      recorded := false
      commitAt := s.cycle } } := by
  rw [graceEnd, if_neg (by simp [hp]), if_neg (by simp [hg]), if_neg (by omega)]

theorem abortWhy_held (h : rd s Reg.pwrHold ≠ 0 ∨ rd s Reg.pwrHoldMs ≠ 0) : abortWhy s = 1 := if_pos h

theorem graceEnd_aborts (hp : s.pwr.st = .parking) (hg : s.pwr.stopGrants = false) (hc : s.pwr.graceEnd ≤ s.cycle)
    (h : rd s Reg.pwrHold ≠ 0 ∨ rd s Reg.pwrHoldMs ≠ 0) : Ends (.graceEnd wake tamper) s fun t =>
      t.pwr.st = s.pwr.prev ∧ fget t Reg.pwrStat 27 24 = 1 ∧ flag t Reg.pwrEvt 1 = true ∧
      Only [.pwr] [Reg.pwrStat, Reg.pwrEvt] s t := by
  have aborts := graceEnd_due (s := levelsSeen s wake tamper) hp hg hc
  rw [abortWhy_held (s := levelsSeen s wake tamper) h, if_pos (by decide)] at aborts
  refine ends_of (core_graceEnd wake tamper (by rw [awake, hp]; rfl)) ?_
  rw [show graceOver s wake.val tamper.val = _ from aborts, finish_pwr, fget_congr (rd_finish_below s (belowCounts_of_lt (by decide))),
    flag_congr (rd_finish_below s (belowCounts_of_lt (by decide)))]
  refine ⟨by simp [levelsSeen], ?_, flag_setEvt_same _ _ _ (by decide), Only.finished ?_⟩
  · rw [fget_congr (rd_setEvt_ne _ _ (by decide)), fget_fput_same _ _ _ _ _ (by decide) (by decide)]
    decide
  · exact ((((only_setPwr s _).more (only_setPwr _ _) (List.Subset.refl _) (by simp)).mono (List.Subset.refl _)
      (by simp)).fput _ _ _ (by simp)).setEvt _ (by simp)

theorem graceEnd_commits (hp : s.pwr.st = .parking) (hg : s.pwr.stopGrants = false) (hc : s.pwr.graceEnd ≤ s.cycle)
    (h : abortWhy { s with pwr := { s.pwr with
      wakeLevel := wake.val
      tamperLevel := tamper.val } } = 0) : Ends (.graceEnd wake tamper) s fun t =>
        t.pwr.st = .parking ∧ t.pwr.stopGrants = true ∧ t.pwr.commitAt = s.cycle ∧ Only [.pwr] [] s t := by
  have commits := graceEnd_due (s := levelsSeen s wake tamper) hp hg hc
  rw [if_neg (fun e => e h)] at commits
  refine ends_of (core_graceEnd wake tamper (by rw [awake, hp]; rfl)) ?_
  rw [show graceOver s wake.val tamper.val = _ from commits, finish_pwr]
  exact ⟨hp, rfl, rfl, Only.finished ((only_setPwr s _).more (only_setPwr _ _) (List.Subset.refl _) (by simp))⟩

theorem parkFail_ends (hp : s.pwr.st = .parking) (hr : s.pwr.reqHigh = false) (hg : s.pwr.pgood = true)
    (hc : s.pwr.lowAt + 8000000 ≤ s.cycle) : Ends .parkFail s fun t =>
      t.pwr.st = .starting ∧ t.pwr.causes = [0x11] ∧ t.pwr.reqHigh = true ∧ t.taps = [] ∧
      Only [.pwr, .taps, .wlt] [] s t := by
  have fails : parkFail s = beginStart { s with pwr := { s.pwr with causes := [] } } 0x11 := if_pos ⟨hp, hr, hg, hc⟩
  refine ends_of (core_parkFail (by rw [awake, hp]; rfl)) ?_
  rw [fails, finish_pwr, finish_taps]
  exact ⟨rfl, rfl, rfl, rfl, Only.finished (((only_setPwr s _).trans (only_beginStart _ _)).mono (by simp) (by simp))⟩

end Grace

section Wakes
variable {s : State}

/-- A wake after the dwell begins a start; before it, it is kept (R493, R494). -/
theorem wakeEvent_parked (n : Fin 6) (hp : s.pwr.st = .park) (he : wakeEnabled s n = true) :
    Ends (.wakeEvent n) s fun t => flag t Reg.pwrWakeSrc n = true ∧
      t.pwr.st = (if s.pwr.dwellOver then .starting else .park) ∧ t.pwr.wake = !s.pwr.dwellOver ∧
      Only [.pwr, .taps, .wlt] [Reg.pwrWakeSrc] s t := by
  have bit : flag (setEvt s Reg.pwrWakeSrc n) Reg.pwrWakeSrc n = true := flag_setEvt_same _ _ _ (by omega)
  have noted : Only [.pwr, .taps, .wlt] [Reg.pwrWakeSrc] s (setEvt s Reg.pwrWakeSrc n) :=
    (only_setEvt s _ _).mono (by simp) (List.Subset.refl _)
  refine ends_of (core_wakeEvent n) ?_
  rw [wakeEvent, if_pos (by simp [wakeWatched, hp, he]), finish_pwr, flag_congr (rd_finish_below s (belowCounts_of_lt (by decide)))]
  cases hd : s.pwr.dwellOver with
  | true =>
    rw [wakeBy, if_pos ⟨hp, hd⟩]
    exact ⟨bit, rfl, rfl, Only.finished (noted.more (only_beginStart _ _) (List.Subset.refl _) (by simp))⟩
  | false =>
    rw [wakeBy, if_neg (by simp [hd]), if_neg (by simp [hp])]
    exact ⟨bit, by simp [hp], rfl, Only.finished (noted.more (only_setPwr _ _) (by simp) (by simp))⟩

theorem wakeEvent_starting (n : Fin 6) (hp : s.pwr.st = .starting) (hg : s.pwr.pgood = false) (he : wakeEnabled s n = true) :
    Ends (.wakeEvent n) s fun t => flag t Reg.pwrWakeSrc n = true ∧ Only [] [Reg.pwrWakeSrc] s t := by
  refine ends_of (core_wakeEvent n) ?_
  rw [wakeEvent, if_pos (by simp [wakeWatched, hp, hg, he]), wakeBy, if_neg (by simp [hp]), if_pos hp,
    flag_congr (rd_finish_below s (belowCounts_of_lt (by decide)))]
  exact ⟨flag_setEvt_same _ _ _ (by omega), (only_setEvt s _ _).finished⟩

theorem wakeDwellEnd_ends (hp : s.pwr.st = .park) (hd : s.pwr.dwellOver = false)
    (hc : s.pwr.lowAt + 33 ≤ rd s Reg.milAonCnt) : Ends .wakeDwellEnd s fun t =>
      t.pwr.dwellOver = true ∧ t.pwr.st = (if s.pwr.wake then .starting else .park) ∧ Only [.pwr, .taps, .wlt] [] s t := by
  refine ends_of core_wakeDwellEnd ?_
  rw [dwellEnd, if_pos ⟨hp, hd, hc⟩, finish_pwr]
  cases hw : s.pwr.wake with
  | true =>
    exact ⟨rfl, rfl, Only.finished (((only_setPwr s _).trans (only_beginStart _ _)).mono (by simp) (by simp))⟩
  | false => exact ⟨rfl, hp, Only.finished ((only_setPwr s _).mono (by simp) (by simp))⟩

end Wakes

/-- Settles O16: a request by its key and state, the end of grace by what aborts it, and each wake by whether the dwell is over
(R490, R491, R493, R494, R496). -/
theorem parkIsRequestedGrantedOrRefused : Obligations.ParkIsRequestedGrantedOrRefused := by
  unfold Obligations.ParkIsRequestedGrantedOrRefused
  exact fun s => ⟨fun m hw h => parkRequest_ends hw h, fun m key hw h => parkRequest_refused key hw h,
    fun wake tamper hp hg hc => ⟨graceEnd_aborts wake tamper hp hg hc, graceEnd_commits wake tamper hp hg hc⟩,
    parkFail_ends, wakeEvent_parked, wakeEvent_starting, wakeDwellEnd_ends, fun m hw hm => cold_ends hw hm⟩

end Sys2Proof.Machine
end

section
namespace Sys2Proof.Machine

/-! ### WOKEN: what a start resets and what it keeps (R445, R446, R488, R495, R496, R510) -/

/-- A store whose entries were sifted by key reads as before at the keys kept, and its default at the others. -/
theorem get_filter_key {α : Type} (d : Nat → α) (p : Nat → Bool) (m : KMap α) (k : Nat) :
    KMap.get d (m.filter (fun e => p e.1)) k = if p k then KMap.get d m k else d k := by
  induction m with
  | nil => simp [KMap.get]
  | cons e m ih =>
    by_cases hk : e.1 = k
    · subst hk
      by_cases hp : p e.1 = true
      · simp [KMap.get, hp]
      · simp [hp, ih]
    · by_cases hp : p e.1 = true <;> simp [KMap.get, hp, hk, ih]

section Woken
variable (s : State) (wpos : Nat)

/-- The registers of the always-on domain are kept, every other one is at its reset value (R488). -/
theorem rd_freshStart (o : Nat) : rd (freshStart s) o = if o ∈ aonRegs then rd s o else (regDefault o).toNat := by
  have h := get_filter_key regDefault (fun k => aonRegs.contains k) s.regs o
  rw [rd, show (freshStart s).regs = s.regs.filter (fun e => aonRegs.contains e.1) from rfl, h]
  by_cases ho : o ∈ aonRegs <;> simp [ho, rd]

/-- The device as cleared, with the straps read (R374). -/
def startCleared : State := { freshStart s with img := { (freshStart s).img with straps := wpos } }

/-- The cause code of the start, and whether it is warm (R496). -/
def startCause : Nat := startCode (startCleared s wpos) s.lcs.pend.isSome
def startWarm : Bool := decide (0x10 ≤ startCause s wpos)

/-- WOKEN is entered, cold or warm (R495, R496). -/
def startChosen : State :=
  { startCleared s wpos with pwr := { (startCleared s wpos).pwr with
    st := .woken
    causes := []
    wake := false
    counting := startWarm s wpos && (startCleared s wpos).pwr.counting
    warmStart := startWarm s wpos } }

/-- The start's own work begins: the copy is fetched, or the flash is reset (R52, R499). -/
def startBegun : State :=
  if startWarm s wpos then progSet { startChosen s wpos with img := { (startChosen s wpos).img with
      xspiLow := none
      fetchAt := s.cycle } } Reg.imgProg Reg.imgTotal (2 * cfgLength (startChosen s wpos)) 0 true
    else emit { startChosen s wpos with img := { (startChosen s wpos).img with xspiLow := some s.cycle } } (.xspiReset true)

/-- The word that reports the start (R496, R512). -/
def causeWord : Nat :=
  (if startWarm s wpos then 2 else 1) * 2 ^ 30 + startCause s wpos * 2 ^ 24 + fget (startBegun s wpos) Reg.pwrWakeSrc 6 0 * 2 ^ 16

/-- The start reports its cause, and a PARK that failed its event. -/
def startReported : State :=
  if s.pwr.causes.contains 0x11 then setEvt (wr (startBegun s wpos) Reg.pwrStartCause (causeWord s wpos)) Reg.pwrEvt 2
  else wr (startBegun s wpos) Reg.pwrStartCause (causeWord s wpos)

/-- The registers in which a start reports itself. -/
abbrev startRegs : List Nat := [Reg.pwrStartCause, Reg.pwrEvt, Reg.intEvt, Reg.intTcaRetire, Reg.nvcLastTime, Reg.nvcLastStat,
  Reg.imgProg, Reg.imgTotal, Reg.nvcCkptProg, Reg.nvcCkptTotal]

/-- The tamper latch is served at a start (R511). -/
def tamperServed (u : State) : State :=
  if fget u Reg.lcsTamper 1 0 ≠ 0 then fput (wipeStart u) Reg.pwrStartCause 15 15 1 else u

variable {s} in
theorem wokenStep_eq (hs : s.pwr.st = .starting) (hg : s.pwr.pgood = true) :
    wokenStep s wpos = tamperServed (readRing (loadRecord (startReported s wpos))) := by
  rw [wokenStep, if_neg (by simp [hs, hg])]
  rfl

/-- A part of the state that a start's last steps leave alone. -/
abbrev LateFrame (u t : State) : Prop := Only [.img, .intg, .nvc] startRegs u t

theorem lateFrame_begun : LateFrame (startChosen s wpos) (startBegun s wpos) := by
  unfold startBegun
  split
  · exact ((only_setImg _ _).trans (only_progSet _ _ _ _ _ _)).mono (by simp) (by simp [startRegs])
  · exact ((only_setImg _ _).trans (only_emit _ _)).mono (by simp) (by simp)

theorem lateFrame_reported : LateFrame (startChosen s wpos) (startReported s wpos) := by
  have word : LateFrame (startChosen s wpos) (wr (startBegun s wpos) Reg.pwrStartCause (causeWord s wpos)) :=
    (lateFrame_begun s wpos).wr _ (by simp [startRegs])
  unfold startReported
  split
  · exact word.setEvt _ (by simp [startRegs])
  · exact word

theorem lateFrame_setNvc (u : State) (x : NvcSt) : LateFrame u { u with nvc := x } :=
  (only_setNvc u x).mono (by simp) (by simp)

/-- A pending RECORD_CLR empties the integrity record first (R434). -/
def recordEmptied (u : State) : State :=
  if u.nvc.recClr then { u with nvc := { u.nvc with
    record := some ([], [], 0, false)
    recClr := false } } else u

theorem loadRecord_eq (u : State) : loadRecord u =
    match (recordEmptied u).nvc.record with
    | none => setEvt (fput (recordEmptied u) Reg.pwrStartCause 12 12 1) Reg.intEvt 11
    | some r => wr { recordEmptied u with intg := { (recordEmptied u).intg with
        spares := r.1
        retire := r.2.1 } } Reg.intTcaRetire r.2.2.1 := rfl

theorem only_recordEmptied (u : State) : Only [.nvc] [] u (recordEmptied u) := by
  unfold recordEmptied
  split
  · exact only_setNvc u _
  · exact Only.refl _ _ u

theorem recordEmptied_mem (u : State) : (recordEmptied u).nvc.mem = u.nvc.mem := by
  unfold recordEmptied
  split <;> rfl

theorem lateFrame_loadRecord (u : State) : LateFrame u (loadRecord u) := by
  have emptied : LateFrame u (recordEmptied u) := (only_recordEmptied u).mono (by simp) (by simp)
  rw [loadRecord_eq]
  split
  · exact (emptied.fput _ _ _ (by simp [startRegs])).setEvt _ (by simp [startRegs])
  · exact (emptied.more (only_setIntg _ _) (by simp) (by simp)).wr _ (by simp [startRegs])

theorem only_readRing (u : State) : Only [.nvc] [Reg.nvcLastTime, Reg.nvcLastStat] u (readRing u) := by
  unfold readRing
  split
  · exact (only_setNvc u _).mono (List.Subset.refl _) (by simp)
  · exact (((Only.refl [.nvc] _ u).wr _ (by simp)).wr _ (by simp)).more (only_setNvc _ _) (by simp) (by simp)

theorem lateFrame_readRing (u : State) : LateFrame u (readRing u) := (only_readRing u).mono (by simp) (by simp [startRegs])

theorem only_wipeStart (u : State) : Only [.nvc] ckptRegs u (wipeStart u) :=
  ((only_setNvc u _).trans (only_progSet _ _ _ _ _ _)).mono (by simp) (by simp)

theorem wipeStart_nvc (u : State) : (wipeStart u).nvc = { u.nvc with wipeAt := some u.cycle } := by
  rw [wipeStart, progSet_nvc]

theorem lateFrame_tamperServed (u : State) : LateFrame u (tamperServed u) := by
  unfold tamperServed
  split
  · exact Only.fput ((only_wipeStart u).mono (by simp) (by simp [startRegs])) _ _ _ (by simp [startRegs])
  · exact Only.refl _ _ u

theorem only_frame_wokenStep {s : State} (hs : s.pwr.st = .starting) (hg : s.pwr.pgood = true) :
    LateFrame (startChosen s wpos) (wokenStep s wpos) := by
  rw [wokenStep_eq wpos hs hg]
  have next : ∀ {u v w : State}, LateFrame u v → LateFrame v w → LateFrame u w := fun h k =>
    h.more k (List.Subset.refl _) (List.Subset.refl _)
  exact next (next (next (lateFrame_reported s wpos) (lateFrame_loadRecord _)) (lateFrame_readRing _)) (lateFrame_tamperServed _)

/-- What record, ring and latch leave alone beside their registers: the store's bytes and the straps. -/
def KeepsStore (u t : State) : Prop := t.nvc.mem = u.nvc.mem ∧ t.img.straps = u.img.straps

theorem KeepsStore.trans {u v w : State} (h : KeepsStore u v) (k : KeepsStore v w) : KeepsStore u w :=
  ⟨k.1.trans h.1, k.2.trans h.2⟩

theorem keepsStore_reported : KeepsStore (startChosen s wpos) (startReported s wpos) := by
  have begun : KeepsStore (startChosen s wpos) (startBegun s wpos) := by
    unfold startBegun
    split
    · exact ⟨by rw [progSet_nvc], by rw [progSet_img]⟩
    · exact ⟨rfl, rfl⟩
  unfold startReported
  split <;> exact ⟨by simpa using begun.1, by simpa using begun.2⟩

theorem keepsStore_loadRecord (u : State) : KeepsStore u (loadRecord u) := by
  have img : (recordEmptied u).img = u.img := (only_recordEmptied u).1 .img (by simp)
  rw [loadRecord_eq]
  split <;> exact ⟨by simp [recordEmptied_mem], by simp [img]⟩

theorem keepsStore_readRing (u : State) : KeepsStore u (readRing u) := by
  unfold readRing
  split <;> exact ⟨by simp, by simp⟩

theorem keepsStore_tamperServed (u : State) : KeepsStore u (tamperServed u) := by
  unfold tamperServed
  split
  · exact ⟨by rw [fput_nvc, wipeStart_nvc], by rw [fput_img, (only_wipeStart u).1 .img (by simp)]⟩
  · exact ⟨rfl, rfl⟩

theorem keepsStore_wokenStep {s : State} (hs : s.pwr.st = .starting) (hg : s.pwr.pgood = true) :
    KeepsStore (startChosen s wpos) (wokenStep s wpos) := by
  rw [wokenStep_eq wpos hs hg]
  exact (((keepsStore_reported s wpos).trans (keepsStore_loadRecord _)).trans (keepsStore_readRing _)).trans
    (keepsStore_tamperServed _)

section CauseFields
variable {hi lo : Nat} (hl : 15 < lo)

theorem fget_startReported : fget (startReported s wpos) Reg.pwrStartCause hi lo = bitsOf (causeWord s wpos % 2 ^ 64) hi lo := by
  unfold startReported
  split
  · rw [fget, rd_setEvt_ne _ _ (by decide), rd_wr_same]
  · rw [fget, rd_wr_same]

include hl

/-- Loading the record flags at most bit 12 of PWR_START_CAUSE (R434). -/
theorem fget_loadRecord_cause (u : State) : fget (loadRecord u) Reg.pwrStartCause hi lo = fget u Reg.pwrStartCause hi lo := by
  have emptied : rd (recordEmptied u) Reg.pwrStartCause = rd u Reg.pwrStartCause :=
    (only_recordEmptied u).2.1 _ (by decide) (by simp)
  rw [loadRecord_eq]
  split
  · rw [fget_congr (rd_setEvt_ne _ _ (by decide)), fget_fput_apart _ _ _ _ _ _ _ (by decide) (by decide) (by omega),
      fget_congr emptied]
  · rw [fget_congr (rd_wr_ne _ _ (by decide))]
    exact fget_congr emptied hi lo

omit hl in
theorem fget_readRing_cause (u : State) : fget (readRing u) Reg.pwrStartCause hi lo = fget u Reg.pwrStartCause hi lo :=
  fget_congr ((only_readRing u).2.1 _ (by decide) (by decide)) hi lo

theorem fget_tamperServed_cause (u : State) :
    fget (tamperServed u) Reg.pwrStartCause hi lo = fget u Reg.pwrStartCause hi lo := by
  unfold tamperServed
  split
  · rw [fget_fput_apart _ _ _ _ _ _ _ (by decide) (by decide) (by omega)]
    exact fget_congr ((only_wipeStart u).2.1 _ (by decide) (by decide)) _ _
  · rfl

/-- The fields of PWR_START_CAUSE above bit 15 stand as the start reported them. -/
theorem fget_startCause_wokenStep {s : State} (hs : s.pwr.st = .starting) (hg : s.pwr.pgood = true) :
    fget (wokenStep s wpos) Reg.pwrStartCause hi lo = bitsOf (causeWord s wpos % 2 ^ 64) hi lo := by
  rw [wokenStep_eq wpos hs hg, fget_tamperServed_cause hl, fget_readRing_cause, fget_loadRecord_cause hl, fget_startReported]

end CauseFields

/-- A start whose only cause is POWER_ON is cold and says so (R496). -/
theorem startCause_powerOn {s : State} (h : s.pwr.causes = [1]) : startCause s wpos = 1 := by
  simp [startCause, startCode, show (startCleared s wpos).pwr.causes = s.pwr.causes from rfl, h]

theorem causeWord_powerOn {s : State} (h : s.pwr.causes = [1]) :
    bitsOf (causeWord s wpos % 2 ^ 64) 31 30 = 1 ∧ bitsOf (causeWord s wpos % 2 ^ 64) 29 24 = 1 := by
  have cold : startWarm s wpos = false := by simp [startWarm, startCause_powerOn wpos h]
  have wake : fget (startBegun s wpos) Reg.pwrWakeSrc 6 0 < 128 := bitsOf_lt _ 6 0
  rw [bitsOf_eq, bitsOf_eq, causeWord, startCause_powerOn wpos h, cold]
  simp only [Bool.false_eq_true, if_false]
  omega

end Woken

/-- The cut that a start makes of a fuse operation (R508): nothing without one, and a key slot is partly blown. -/
theorem fuseCut_none {l : LcsSt} (h : l.op = none) : fuseCut l = l := by rw [fuseCut, h]

theorem fuseCut_keySet {l : LcsSt} {o : LcsOp} (h : l.op = some o) (ho : o.op = 1) :
    fuseCut l = { l with keys := updAt l.keys o.slot fun k => { k with
      prog := true
      partly := true } } := by
  simp only [fuseCut, h, if_pos ho]

theorem startRegs_not_aon {o : Nat} (h : o ∈ aonRegs) : o ∉ startRegs :=
  (show ∀ o ∈ aonRegs, o ∉ startRegs by decide) o h

theorem aonRegs_not_msg {o : Nat} (h : o ∈ aonRegs) : o ∉ msgRegs := (show ∀ o ∈ aonRegs, o ∉ msgRegs by decide) o h

/-- Settles O14: a start is `freshStart`, the choice of cold or warm, and last steps that touch no unit but loader, integrity and
store and no register but those that report the start (R445, R446, R488, R495, R496, R508, R510, log 137, log 146). -/
theorem everyStartResetsAllButTheAlwaysOnDomain : Obligations.EveryStartResetsAllButTheAlwaysOnDomain := by
  unfold Obligations.EveryStartResetsAllButTheAlwaysOnDomain
  intro s straps hs hg
  have frame : LateFrame (startChosen s straps.val) (finish s (wokenStep s straps.val)) :=
    (only_frame_wokenStep straps.val hs hg).more (only_finish s _) (by simp) (by simp)
  obtain ⟨mem, img⟩ := keepsStore_wokenStep straps.val hs hg
  have kept : ∀ o, o ∉ msgRegs → o ∉ startRegs → rd (finish s (wokenStep s straps.val)) o =
      if o ∈ aonRegs then rd s o else (regDefault o).toNat :=
    fun o hm ho => (frame.2.1 o hm ho).trans (rd_freshStart s o)
  have power := frame.1 .pwr (by simp)
  have lcs := frame.1 .lcs (by simp)
  refine ends_of (core_woken straps) ⟨by rw [power]; rfl, by rw [finish_img, img]; rfl, frame.1 .spm (by simp),
    frame.1 .drc (by simp), frame.1 .tca (by simp), frame.1 .hsh (by simp), frame.1 .way (by simp), frame.1 .vrd (by simp),
    frame.1 .taps (by simp), by rw [finish_nvc, mem]; rfl, fun h => ?_, fun o h ho => ?_, by rw [lcs]; rfl, by rw [lcs]; rfl,
    by rw [lcs]; rfl, fun o ho => ?_, fun o ho hm hn => ?_, fun h => ?_⟩
  · rw [lcs]
    show (fuseCut s.lcs).keys = _ ∧ (fuseCut s.lcs).secVer = _
    rw [fuseCut_none h]
    exact ⟨rfl, rfl⟩
  · rw [lcs]
    show (fuseCut s.lcs).secVer = _ ∧ (fuseCut s.lcs).keys = _
    rw [fuseCut_keySet h ho]
    exact ⟨rfl, rfl⟩
  · rw [kept o (aonRegs_not_msg ho) (startRegs_not_aon ho), if_pos ho]
  · rw [kept o hm hn, if_neg ho]
  · obtain ⟨kind, code⟩ := causeWord_powerOn straps.val h
    rw [fget_congr (rd_finish_below s (belowCounts_of_lt (by decide))), fget_congr (rd_finish_below s (belowCounts_of_lt (by decide))),
      fget_startCause_wokenStep straps.val (by decide) hs hg, fget_startCause_wokenStep straps.val (by decide) hs hg, power]
    exact ⟨kind, code, by simp [startChosen, startWarm, startCause_powerOn straps.val h]⟩

end Sys2Proof.Machine
end

section
namespace Sys2Proof.Machine

/-! ### Tamper: the wipe of vault and sealed area (R419, R507, R511) -/

/-- A range cut out of a byte memory reads zero, and the rest reads as before. -/
theorem memByte_memCut (m : List Host.Cell) (lo hi a : Nat) :
    memByte (memCut m lo hi) a = if lo ≤ a ∧ a < hi then 0 else memByte m a := by
  have h := get_filter_key (fun _ => (0 : Byte)) (fun k => decide (k < lo) || decide (hi ≤ k)) m a
  rw [memByte, memCut, h]
  by_cases ha : lo ≤ a ∧ a < hi
  · rw [if_pos ha, if_neg]
    simp
    omega
  · rw [if_neg ha, if_pos, memByte]
    simp
    omega

section Tamper
variable (s : State) (k : Fin 2)

/-- A tamper event as latched and counted, and reported by an awake device (R511). -/
def tamperLatched : State := setEvt (satBump (setEvt s Reg.lcsTamper k) Reg.lcsTamper 15 8 1) Reg.lcsEvt 0

theorem only_tamperLatched : Only [] [Reg.lcsTamper, Reg.lcsEvt] s (tamperLatched s k) :=
  (((Only.refl _ _ s).setEvt _ (by simp)).satBump _ _ _ (by simp)).setEvt _ (by simp)

theorem flag_tamperLatched :
    flag (tamperLatched s k) Reg.lcsTamper k = true ∧ flag (tamperLatched s k) Reg.lcsEvt 0 = true := by
  refine ⟨?_, flag_setEvt_same _ _ _ (by decide)⟩
  have := k.isLt
  rw [tamperLatched, flag_congr (rd_setEvt_ne _ _ (by decide)), satBump,
    flag_fput_apart _ _ (by decide) (by decide) (by omega), flag_setEvt_same _ _ _ (by omega)]

variable {s}

theorem tamperEvent_awake (ha : awake s = true) (hc : flag s (Reg.lcsTamperCfg k) 0 = true) (hr : s.pwr.reqHigh = true) :
    tamperEvent s k = if s.lcs.op.isSome then tamperLatched s k else wipeStart (tamperLatched s k) := by
  have on : s.pwr.st ≠ .off := fun e => by rw [awake, e] at ha; cases ha
  rw [tamperEvent, if_neg (by simp [on, hc])]
  simp [ha, hr, tamperLatched]

theorem tamper_ends (ha : awake s = true) (hc : flag s (Reg.lcsTamperCfg k) 0 = true) (hr : s.pwr.reqHigh = true) :
    Ends (.tamper k) s fun t => flag t Reg.lcsTamper k = true ∧
      t.nvc.wipeAt = (if s.lcs.op.isSome then s.nvc.wipeAt else some s.cycle) ∧ flag t Reg.lcsEvt 0 = true ∧
      t.nvc.mem = s.nvc.mem ∧ Only [.nvc] [Reg.lcsTamper, Reg.lcsEvt, Reg.nvcCkptProg, Reg.nvcCkptTotal] s t := by
  obtain ⟨latch, event⟩ := flag_tamperLatched s k
  have frame : Only [.nvc] [Reg.lcsTamper, Reg.lcsEvt, Reg.nvcCkptProg, Reg.nvcCkptTotal] s (tamperLatched s k) :=
    (only_tamperLatched s k).mono (by simp) (by simp)
  have nvc : (tamperLatched s k).nvc = s.nvc := (only_tamperLatched s k).1 .nvc (by simp)
  have cycle : (tamperLatched s k).cycle = s.cycle := by simp [tamperLatched, satBump]
  refine ends_of (core_tamper k) ?_
  rw [tamperEvent_awake k ha hc hr, finish_nvc, flag_congr (rd_finish s _ (by decide)),
    flag_congr (rd_finish s _ (by decide))]
  split
  · exact ⟨latch, by rw [nvc], event, by rw [nvc], frame.finished⟩
  · have wipe := only_wipeStart (tamperLatched s k)
    rw [flag_congr (wipe.2.1 _ (by decide) (by decide)), flag_congr (wipe.2.1 _ (by decide) (by decide)), wipeStart_nvc, nvc,
      cycle]
    exact ⟨latch, rfl, event, rfl, (frame.more wipe (by simp) (by simp)).finished⟩

/-- The vault is written to zero 4,096 cycles into a wipe (R419). -/
theorem vaultTick_due {c : Nat} (hw : s.nvc.wipeAt = some c) (hc : s.cycle = c + 4096) : vaultTick s =
    setEvt (rangeWritten { s with spm := { s.spm with mem := memCut s.spm.mem vaultBase spmSize } } 0 (vaultBase / 8) 4096)
      Reg.spmEvt 3 := by
  simp only [vaultTick, hw, if_pos hc]

theorem vaultTick_wipes {c : Nat} (hw : s.nvc.wipeAt = some c) (hc : s.cycle = c + 4096) :
    (∀ a, memByte (vaultTick s).spm.mem a = if vaultBase ≤ a ∧ a < spmSize then 0 else memByte s.spm.mem a) ∧
    flag (vaultTick s) Reg.spmEvt 3 = true ∧ keepsUnits [.spm, .intg] s (vaultTick s) ∧
    keepsRegs (Reg.spmEvt :: flipRegs) s (vaultTick s) := by
  have cut : Only [.spm] [] s { s with spm := { s.spm with mem := memCut s.spm.mem vaultBase spmSize } } :=
    only_units (fun u hu => by cases u <;> simp [UnitName.same] at *) rfl rfl
  have written := only_rangeWritten { s with spm := { s.spm with mem := memCut s.spm.mem vaultBase spmSize } } 0
    (vaultBase / 8) 4096
  have frame : Only [.spm, .intg] (Reg.spmEvt :: flipRegs) s (vaultTick s) := by
    rw [vaultTick_due hw hc]
    exact ((cut.trans written).mono (by simp) (by simp)).setEvt _ (by simp)
  refine ⟨fun a => ?_, ?_, frame.1, frame.2.1⟩
  · rw [vaultTick_due hw hc, setEvt_spm, show (rangeWritten _ 0 (vaultBase / 8) 4096).spm = _ from written.1 .spm (by simp)]
    exact memByte_memCut _ _ _ _
  · rw [vaultTick_due hw hc, flag_setEvt_same _ _ _ (by decide)]

variable (s) in
/-- The sealed area is wiped and the wipe's time is over (R511). -/
def sealedWiped : State := { s with nvc := { s.nvc with
  wipeAt := none
  mem := memCut s.nvc.mem 0x230000 0x240000 } }

variable (s) in
/-- The progress that the store reports once a wipe is over: the wipe's own end, or the write that goes on. -/
def wipeReported : State :=
  match s.nvc.ops with
  | [] => progSet (sealedWiped s) Reg.nvcCkptProg Reg.nvcCkptTotal 8192 8192 false
  | o :: _ => progSet (sealedWiped s) Reg.nvcCkptProg Reg.nvcCkptTotal o.total 0 true

theorem only_wipeReported : Only [.nvc] ckptRegs s (wipeReported s) := by
  have wiped : Only [.nvc] ckptRegs s (sealedWiped s) := (only_setNvc s _).mono (List.Subset.refl _) (by simp)
  unfold wipeReported
  split <;> exact wiped.more (only_progSet _ _ _ _ _ _) (by simp) (by simp)

theorem wipeReported_nvc : (wipeReported s).nvc = (sealedWiped s).nvc := by
  unfold wipeReported
  split <;> rw [progSet_nvc]

variable (s) in
/-- The latches of a tamper event clear at the end of its wipe (R511). -/
def latchesCleared : State :=
  if fget s Reg.lcsTamper 1 0 = 0 then wipeReported s
  else setEvt (fput (wipeReported s) Reg.lcsTamper 1 0 0) Reg.lcsEvt 2

theorem only_latchesCleared : Only [.nvc] (Reg.lcsTamper :: Reg.lcsEvt :: ckptRegs) s (latchesCleared s) := by
  have reported : Only [.nvc] (Reg.lcsTamper :: Reg.lcsEvt :: ckptRegs) s (wipeReported s) :=
    only_wipeReported.mono (List.Subset.refl _) (by simp)
  unfold latchesCleared
  split
  · exact reported
  · exact (reported.fput _ _ _ (by simp)).setEvt _ (by simp)

theorem latchesCleared_nvc : (latchesCleared s).nvc = (sealedWiped s).nvc := by
  unfold latchesCleared
  split <;> simp [wipeReported_nvc]

theorem fget_latchesCleared : fget (latchesCleared s) Reg.lcsTamper 1 0 = 0 := by
  unfold latchesCleared
  split
  case isTrue h => exact (fget_congr (only_wipeReported.2.1 _ (by decide) (by decide)) 1 0).trans h
  case isFalse =>
    rw [fget_congr (rd_setEvt_ne _ _ (by decide)), fget_fput_same _ _ _ _ _ (by decide) (by decide)]
    rfl

theorem flag_latchesCleared (h : fget s Reg.lcsTamper 1 0 ≠ 0) : flag (latchesCleared s) Reg.lcsEvt 2 = true := by
  rw [latchesCleared, if_neg h, flag_setEvt_same _ _ _ (by decide)]

theorem tamperWipeEnd_due {c : Nat} (hw : s.nvc.wipeAt = some c) (hc : c + 1640000 ≤ s.cycle) :
    tamperWipeEnd s = setEvt (latchesCleared s) Reg.nvcEvt 0 := by
  simp only [tamperWipeEnd, hw, if_neg (Nat.not_lt.2 hc)]
  rfl

theorem tamperWipeEnd_ends (ha : awake s = true) {c : Nat} (hw : s.nvc.wipeAt = some c) (hc : c + 1640000 ≤ s.cycle) :
    Ends .tamperWipeEnd s fun t =>
      (∀ a, memByte t.nvc.mem a = if 0x230000 ≤ a ∧ a < 0x240000 then 0 else memByte s.nvc.mem a) ∧
      fget t Reg.lcsTamper 1 0 = 0 ∧ (fget s Reg.lcsTamper 1 0 ≠ 0 → flag t Reg.lcsEvt 2 = true) ∧
      flag t Reg.nvcEvt 0 = true ∧ t.nvc.wipeAt = none ∧
      Only [.nvc] [Reg.lcsTamper, Reg.lcsEvt, Reg.nvcEvt, Reg.nvcCkptProg, Reg.nvcCkptTotal] s t := by
  have seen : ∀ {o : Nat}, o ∉ msgRegs → o ≠ Reg.nvcEvt →
      rd (finish s (setEvt (latchesCleared s) Reg.nvcEvt 0)) o = rd (latchesCleared s) o :=
    fun ho hn => (rd_finish s _ ho).trans (rd_setEvt_ne _ _ hn)
  have frame : Only [.nvc] [Reg.lcsTamper, Reg.lcsEvt, Reg.nvcEvt, Reg.nvcCkptProg, Reg.nvcCkptTotal] s (latchesCleared s) :=
    only_latchesCleared.mono (List.Subset.refl _) (by simp)
  refine ends_of (core_tamperWipeEnd ha) ?_
  rw [tamperWipeEnd_due hw hc, finish_nvc, setEvt_nvc, latchesCleared_nvc, flag_congr (rd_finish s _ (by decide)) 0,
    flag_setEvt_same _ _ _ (by decide), fget_congr (seen (by decide) (by decide)),
    flag_congr (seen (by decide) (by decide))]
  exact ⟨memByte_memCut _ _ _, fget_latchesCleared, flag_latchesCleared, rfl, rfl, (frame.setEvt _ (by simp)).finished⟩

end Tamper

/-- Settles O19: the latch and the wipe's start, the vault's tick, and the wipe's end, each by what it makes of the memories
(R419, R507, R511). -/
theorem tamperWipesVaultAndSealedArea : Obligations.TamperWipesVaultAndSealedArea := by
  unfold Obligations.TamperWipesVaultAndSealedArea
  exact fun s ha => ⟨fun k hc hr => tamper_ends k ha hc hr, fun c hw hc => vaultTick_wipes hw hc,
    fun c hw hc => tamperWipeEnd_ends ha hw hc⟩

end Sys2Proof.Machine
end

section
namespace Sys2Proof.Machine

/-! ### The steps of a start and the end of a checkpoint write (R443, R444, R489, R504, R505) -/

section StartSteps
variable (s : State)

/-- The clear marks its beginning and its progress; the bytes of DRAM wait for its end (R444). -/
theorem startClear_drc : ∃ c, (startClear s).drc = { s.drc with clearFrom := c } := by
  unfold startClear
  split
  · exact ⟨some s.cycle, (only_progSet _ _ _ _ _ _).1 .drc (by simp)⟩
  · exact ⟨s.drc.clearFrom, rfl⟩

theorem only_startClear : Only [.drc] [Reg.drcClrTotal, Reg.drcClrProg] s (startClear s) := by
  unfold startClear
  split
  · exact ((only_setDrc s _).trans (only_progSet _ _ _ _ _ _)).mono (by simp) (by simp)
  · exact Only.refl _ _ s

/-- The controller as training leaves it: every pair ready, its first refresh 3,120 cycles away (R443). -/
def trainedDrc : DrcSt :=
  { s.drc with
    trained := true
    pairs := List.replicate 4 { PairSt.zero with
      freeAt := s.cycle
      lastRefresh := s.cycle
      nextRefresh := s.cycle + 3120 } }

/-- The channels are trained, which the controller's status says. -/
def channelsTrained : State := fput { s with drc := trainedDrc s } Reg.drcStat 31 31 1

/-- The training found no stored parameters to keep: the integrity record changes (R434, R443). -/
def parametersFound (u : State) : State := { u with intg := { u.intg with recordDirty := true } }

/-- A warm start keeps the stored parameters when their test reads pass (R443). -/
def parametersKept (b : Bool) : Bool :=
  s.pwr.warmStart && (match s.nvc.record with
    | some r => r.2.2.2
    | none => false) && b

/-- The status and the start's cause say that the parameters were not kept. -/
def retrainingReported (u : State) : State := fput (fput u Reg.drcStat 30 30 1) Reg.pwrStartCause 13 13 1

variable {s} in
theorem dramTraining_eq (ha : awake s = true) (ht : s.drc.trained = false) (hw : wipeFirst s = false) (b : Bool) :
    dramTraining s b =
      if parametersKept s b then channelsTrained s
      else if s.pwr.warmStart then retrainingReported (parametersFound (channelsTrained s))
      else parametersFound (channelsTrained s) := by
  have hn : ¬ (s.pwr.st.awake = false ∨ s.drc.trained = true ∨ wipeFirst s = true) := by
    have : s.pwr.st.awake = true := ha
    simp [this, ht, hw]
  rw [dramTraining, if_neg hn]
  rfl

variable {s} in
/-- What training leaves, whichever parameters it took. -/
theorem dramTraining_keeps (ha : awake s = true) (ht : s.drc.trained = false) (hw : wipeFirst s = false) (b : Bool) :
    (dramTraining s b).drc = trainedDrc s ∧ (s.pwr.warmStart = false → (dramTraining s b).intg.recordDirty = true) ∧
      keepsUnits [.drc, .intg] s (dramTraining s b) := by
  have frame : Only [.drc, .intg] [Reg.drcStat, Reg.pwrStartCause] s (channelsTrained s) :=
    ((only_setDrc s _).trans (only_fput _ _ _ _ _)).mono (by simp) (by simp)
  have found : Only [.drc, .intg] [Reg.drcStat, Reg.pwrStartCause] s (parametersFound (channelsTrained s)) :=
    frame.more (only_setIntg _ _) (by simp) (by simp)
  have drc : (channelsTrained s).drc = trainedDrc s := fput_drc _ _ _ _ _
  rw [dramTraining_eq ha ht hw]
  split
  · rename_i kept
    exact ⟨drc, fun cold => by simp [parametersKept, cold] at kept, frame.1⟩
  · split
    · rename_i warm
      refine ⟨by rw [retrainingReported, fput_drc, fput_drc]; exact drc, by simp [warm], ?_⟩
      exact ((found.fput _ _ _ (by simp)).fput _ _ _ (by simp)).1
    · exact ⟨drc, fun _ => rfl, found.1⟩

variable {s} in
/-- DRAM_TRAINING (R443). -/
theorem dramTraining_trains (ha : awake s = true) (ht : s.drc.trained = false) (hw : wipeFirst s = false) (b : Bool) :
    Ends (.dramTraining b) s fun t => t.drc.trained = true ∧ (∀ p : Fin 4, (pairAt t p).nextRefresh = s.cycle + 3120) ∧
      t.drc.mem = s.drc.mem ∧ (s.pwr.warmStart = false → t.intg.recordDirty = true) ∧ keepsUnits [.drc, .intg] s t := by
  obtain ⟨drc, dirty, units⟩ := dramTraining_keeps ha ht hw b
  obtain ⟨c, clear⟩ := startClear_drc (dramTraining s b)
  have frame := (only_startClear (dramTraining s b)).finished
  have end_ : (finish s (startClear (dramTraining s b))).drc = { trainedDrc s with clearFrom := c } := by
    rw [finish_drc, clear, drc]
  refine ends_of (core_dramTraining b ha) ?_
  rw [show trainingEnd s b = startClear (dramTraining s b) from rfl]
  refine ⟨by rw [end_]; rfl, fun p => ?_, by rw [end_]; rfl, fun cold => ?_, fun u hu => ?_⟩
  · unfold pairAt
    rw [end_]
    fin_cases p <;> rfl
  · rw [finish_intg, (only_startClear _).1 .intg (by simp)]
    exact dirty cold
  · simp only [List.mem_cons, List.not_mem_nil, or_false, not_or] at hu
    exact u.same_trans (units u (by simp [hu])) (u.same_trans ((only_startClear _).1 u (by simp [hu]))
      ((only_finish _ _).1 u (by simp)))

variable {s} in
/-- DRAM_CLEAR_END (R444). -/
theorem dramClearEnd_zeroes {c : Nat} (ha : awake s = true) (hc : s.drc.clearFrom = some c) (hd : s.drc.clearDone = false) :
    Ends .dramClearEnd s fun t => t.drc.clearDone = true ∧ (∀ a, memByte t.drc.mem a = 0) ∧
      progOn t Reg.drcClrProg = false ∧ Only [.drc] [Reg.drcClrProg] s t := by
  have e : clearEnd s = wr { s with drc := { s.drc with
      clearDone := true
      mem := [] } } Reg.drcClrProg (progValue 67108864 67108864 false) := by
    simp only [clearEnd, hc, hd, Bool.false_eq_true, if_false]
  refine ends_of (core_dramClearEnd ha) ?_
  rw [e, finish_drc, wr_drc]
  refine ⟨rfl, fun a => rfl, ?_, (((only_setDrc s _).trans (only_wr _ _ _)).mono (by simp) (by simp)).finished⟩
  rw [progOn_congr (rd_finish s _ (by decide)), progOn_wr]

/-! READY (R44, R75, R78, R489). -/

theorem only_enableProfiles (en : Nat) : Only [.mil] [Reg.milEvt, Reg.cblProfEn] s (enableProfiles s en) := by
  have taken (u : State) : Only [.mil] [Reg.milEvt, Reg.cblProfEn] u (setEnables u en) :=
    (only_setEnables u en).mono (by simp) (by simp)
  unfold enableProfiles
  split
  · split
    · split
      · exact (only_mil s _).mono (by simp) (by simp)
      · exact ((only_withdrawStep s).trans (taken _)).mono (by simp) (by simp)
    · exact taken s
  · exact taken s

theorem only_autoEnable (dram tern : Bool) : Only [.mil] [Reg.milEvt, Reg.cblProfEn] s (autoEnable s dram tern) := by
  unfold autoEnable
  dsimp only
  split
  · exact Only.refl _ _ s
  · exact only_enableProfiles s _

theorem only_startCopy : Only [.nvc] (Reg.imgStat :: ckptRegs) s (startCopy s) := by
  unfold startCopy
  dsimp only
  split
  · exact Only.refl _ _ s
  · split
    · exact (only_fput s _ _ _ _).mono (by simp) (by simp)
    · exact (only_ckptStart s _ _ _ _).mono (by simp) (by simp)

/-- The copy's write joins the queue behind the writes there; the ring's number stays. -/
theorem startCopy_nvc : ∃ l, (startCopy s).nvc = { s.nvc with ops := s.nvc.ops ++ l } := by
  unfold startCopy
  dsimp only
  split
  · exact ⟨[], by rw [List.append_nil]⟩
  · split
    · exact ⟨[], by rw [fput_nvc, List.append_nil]⟩
    · exact ⟨_, ckptStart_nvc s _ _ _ _⟩

/-- READY is entered and its event latched; the automatic profiles come on. -/
def readyEntered : State := setEvt { s with pwr := { s.pwr with st := .ready } } Reg.pwrEvt 4
def readyEnabled : State := autoEnable (readyEntered s) true (!s.pwr.warmStart)

theorem only_readyEnabled : Only [.pwr, .mil] [Reg.pwrEvt, Reg.milEvt, Reg.cblProfEn] s (readyEnabled s) :=
  (((only_setPwr s _).trans (only_setEvt _ _ _)).trans (only_autoEnable _ _ _)).mono (by simp) (by simp)

/-- What follows READY's event leaves the power state and the event. -/
theorem only_readyCopied : Only [.mil, .nvc] [Reg.milEvt, Reg.cblProfEn, Reg.nvcCkptProg, Reg.nvcCkptTotal, Reg.imgStat]
    (readyEntered s) (startCopy (recordTime (readyEnabled s) true)) :=
  (((only_autoEnable (readyEntered s) true _).trans (only_recordTime _ true)).trans (only_startCopy _)).mono
    (by simp) (by simp)

variable {s} in
/-- READY (R489, R505). -/
theorem ready_enters (ha : awake s = true) (h : readyOk s = true) : Ends .ready s fun t =>
      t.pwr.st = .ready ∧ flag t Reg.pwrEvt 4 = true ∧ t.nvc.seq = (s.nvc.seq + 1) % 2 ^ 32 ∧
      (∃ o ∈ t.nvc.ops, o.kind = 2 ∧ o.addr = ringSlot s.nvc.seq) ∧ keepsUnits [.pwr, .nvc, .mil] s t := by
  have e : becomeReady s = startCopy (recordTime (readyEnabled s) true) := if_pos h
  have late := only_readyCopied s
  have nvc : (readyEnabled s).nvc = s.nvc := (only_readyEnabled s).1 .nvc (by simp)
  have frame : Only [.pwr, .nvc, .mil] ([Reg.pwrEvt, Reg.milEvt, Reg.cblProfEn] ++ ckptRegs ++ (Reg.imgStat :: ckptRegs)) s
      (startCopy (recordTime (readyEnabled s) true)) :=
    (((only_readyEnabled s).trans (only_recordTime _ true)).trans (only_startCopy _)).mono (by simp) (List.Subset.refl _)
  obtain ⟨l, copy⟩ := startCopy_nvc (recordTime (readyEnabled s) true)
  rw [recordTime_nvc, nvc] at copy
  refine ends_of (core_ready ha) ?_
  rw [e, finish_pwr, finish_nvc, copy, late.1 .pwr (by simp)]
  refine ⟨by simp [readyEntered], ?_, rfl, ⟨⟨2, ringSlot s.nvc.seq, timeRecord (readyEnabled s) false true, 32,
    (readyEnabled s).cycle⟩, by simp, rfl, rfl⟩, frame.finished.1⟩
  rw [flag_congr (rd_finish s _ (by decide)), flag_congr (late.2.1 _ (by decide) (by decide))]
  exact flag_setEvt_same _ _ _ (by decide)

/-! The end of a checkpoint write (R504). -/

theorem only_ckptCommit (o : CkptOp) : Only [.nvc] [Reg.imgStat] s (ckptCommit s o) := by
  unfold ckptCommit
  split
  · exact (((only_nvcPut s _ _).trans (only_nvcPut _ _ _)).trans (only_fput _ _ _ _ _)).mono (by simp) (by simp)
  · split
    · exact (only_setNvc s _).mono (by simp) (by simp)
    · exact (only_nvcPut s _ _).mono (by simp) (by simp)

/-- The write's content is in place and the event is latched; the writes behind it begin. -/
def writeTaken (o : CkptOp) (rest : List CkptOp) : State :=
  setEvt { ckptCommit s o with nvc := { (ckptCommit s o).nvc with
    ops := rest.map (fun (x : CkptOp) => { x with since := s.cycle }) } } Reg.nvcEvt 0

theorem only_writeTaken (o : CkptOp) (rest : List CkptOp) :
    Only [.nvc] [Reg.imgStat, Reg.nvcEvt] s (writeTaken s o rest) :=
  (((only_ckptCommit s o).trans (only_setNvc _ _)).trans (only_setEvt _ _ _)).mono (by simp) (by simp)

variable {s} in
theorem ckptDone_takes {o : CkptOp} {rest : List CkptOp} (h : s.nvc.ops = o :: rest) (hd : o.since + 200 * o.total ≤ s.cycle) :
    Only [] ckptRegs (writeTaken s o rest) (ckptDone s) := by
  have e : ckptDone s = if s.nvc.wipeAt.isSome then writeTaken s o rest else match (generalizing := false) rest with
      | [] => wr (writeTaken s o rest) Reg.nvcCkptProg (progValue o.total o.total false)
      | x :: _ => progSet (writeTaken s o rest) Reg.nvcCkptProg Reg.nvcCkptTotal x.total 0 true := by
    simp only [ckptDone, h, if_neg (Nat.not_lt.mpr hd)]
    split <;> [rfl; cases rest <;> rfl]
  rw [e]
  split
  · exact Only.refl _ _ _
  · split
    · exact (only_wr _ _ _).mono (by simp) (by simp)
    · exact (only_progSet _ _ _ _ _ _).mono (by simp) (by simp)

/-- The registers in which a mailbox is answered. -/
abbrev answerRegs : List Nat := Reg.seqEvt :: (List.range 4).map Reg.seqMboxCmd

theorem only_mboxAnswer {m : Nat} (hm : m < 4) (status : Nat) : Only [] answerRegs s (mboxAnswer s m status) := by
  have listed : Reg.seqMboxCmd m ∈ answerRegs := by simp [answerRegs]; exact .inr ⟨m, hm, rfl⟩
  exact (((Only.refl _ _ s).fput _ _ _ listed).fput _ _ _ listed).setEvt _ (by simp [answerRegs])

theorem only_ckptAnswers (l : List Nat) :
    Only [] answerRegs s (l.foldl (fun st b => if mboxPosted st (b % 4) then mboxAnswer st (b % 4) 0 else st) s) :=
  only_foldl _ (fun t b => (only_mboxAnswer t (Nat.mod_lt b (by decide)) 0).ite (Only.refl _ _ t)) _ _

theorem only_setSeq (x : SeqSt) : Only [.seq] [] s { s with seq := x } :=
  only_units (fun u hu => by cases u <;> simp [UnitName.same] at *) rfl rfl

/-- The answers that wait for a write leave all but their own list and the mailboxes. -/
theorem only_ckptEnds : Only [.seq] answerRegs (ckptDone s) (ckptEnds s) :=
  (only_setSeq (ckptDone s) _).trans (only_ckptAnswers _ _)

variable {s} in
/-- CHECKPOINT_WRITE_DONE (R504). -/
theorem checkpointWriteDone_ends {o : CkptOp} {rest : List CkptOp} (ha : awake s = true) (h : s.nvc.ops = o :: rest)
    (hd : o.since + 200 * o.total ≤ s.cycle) : Ends .checkpointWriteDone s fun t =>
      t.nvc.ops.length = rest.length ∧ flag t Reg.nvcEvt 0 = true ∧ keepsUnits [.nvc, .seq] s t := by
  have late : Only [.seq] (ckptRegs ++ answerRegs) (writeTaken s o rest) (ckptEnds s) :=
    (ckptDone_takes h hd).trans (only_ckptEnds s)
  have nvc : (ckptEnds s).nvc.ops = rest.map (fun (x : CkptOp) => { x with since := s.cycle }) := by
    rw [late.1 .nvc (by simp), writeTaken, setEvt_nvc]
  refine ends_of (core_checkpointWriteDone ha) ?_
  rw [finish_nvc, nvc, List.length_map]
  refine ⟨rfl, ?_, (((only_writeTaken s o rest).trans late).mono (vs := [.nvc, .seq]) (by simp)
    (List.Subset.refl _)).finished.1⟩
  rw [flag_congr (rd_finish s _ (by decide)), flag_congr (late.2.1 _ (by decide) (by decide))]
  exact flag_setEvt_same _ _ _ (by decide)

end StartSteps

/-- Settles O15: training by what it leaves whichever parameters it took, the clear by its one step, READY by what follows its
event, and a checkpoint write by what follows the commit of its content (R443, R444, R489, R504, R505). -/
theorem startStepsEndInReady : Obligations.StartStepsEndInReady := by
  unfold Obligations.StartStepsEndInReady
  intro s ha
  exact ⟨fun b ht hw => dramTraining_trains ha ht hw b, fun c hc hd => dramClearEnd_zeroes ha hc hd,
    fun h => ready_enters ha h, fun o rest h hd => checkpointWriteDone_ends ha h hd⟩

end Sys2Proof.Machine
end

section
namespace Sys2Proof.Machine

/-! ### Bytes of numbers, and the words that bytes fill (R6) -/

theorem ofLe_append (a b : List Byte) : ofLe (a ++ b) = ofLe a + 256 ^ a.length * ofLe b := by
  induction a with
  | nil => simp [ofLe]
  | cons x a ih => simp only [List.cons_append, ofLe, ih, List.length_cons, Nat.pow_succ]; ring

theorem leBytes_split (m n v : Nat) : leBytes (m + n) v = leBytes m v ++ leBytes n (v / 256 ^ m) := by
  induction m generalizing v with
  | zero => simp [leBytes]
  | succ m ih =>
    rw [Nat.succ_add, leBytes, ih, leBytes, List.cons_append, Nat.pow_succ, Nat.div_div_eq_div_mul, Nat.mul_comm 256]

/-- The field between two parts of a list is what stands there. -/
theorem fieldAt_between {a b : List Byte} {o n : Nat} (ha : a.length = o) (hb : b.length = n) (c : List Byte) :
    fieldAt (a ++ (b ++ c)) o n = ofLe b := by
  subst ha hb
  simp [fieldAt, slice]

theorem length_slice (a : List Byte) (o n : Nat) : (slice a o n).length = n := by
  simp only [slice, List.length_append, List.length_replicate, List.length_take]
  omega

theorem fieldAt_lt (a : List Byte) (o n : Nat) : fieldAt a o n < 256 ^ n := by
  have h := ofLe_lt (slice a o n)
  rwa [length_slice] at h

/-- A field inside a number's own bytes. -/
theorem fieldAt_leBytes {k o n : Nat} (h : o + n ≤ k) (v : Nat) (a c : List Byte) :
    fieldAt (a ++ (leBytes k v ++ c)) (a.length + o) n = v / 256 ^ o % 256 ^ n := by
  obtain ⟨j, rfl⟩ := Nat.exists_eq_add_of_le h
  rw [leBytes_split (o + n) j, leBytes_split o n, List.append_assoc, List.append_assoc, ← List.append_assoc a,
    fieldAt_between (by simp [length_leBytes]) (length_leBytes _ _), ofLe_leBytes]

/-! ### The message memory (R478) -/

section Objects
variable (s : State)

theorem only_setCan (x : CanSt) : Only [.can] [] s { s with can := x } :=
  only_units (fun u hu => by cases u <;> simp [UnitName.same] at *) rfl rfl

theorem only_objWritten (k w : Nat) : Only [.intg] flipRegs s (objWritten s k w) := only_wordMerged s _ _

/-- The data registers of an object. -/
abbrev objDataRegs (k : Nat) : List Nat := (List.range 16).map (Reg.canObjData k)

theorem canObjData_mem {k i : Nat} (h : i < 16) : Reg.canObjData k i ∈ objDataRegs k :=
  List.mem_map.2 ⟨i, List.mem_range.2 h, rfl⟩

/-- Registers at places of their own, each set to a value of its own, hold what was written. -/
theorem rd_foldl_wr_each {f : Nat → Nat} (hf : f.Injective) (g : Nat → Nat) (l : List Nat) (j : Nat) :
    rd (l.foldl (fun st i => wr st (f i) (g i)) s) (f j) = if j ∈ l then g j % 2 ^ 64 else rd s (f j) := by
  induction l generalizing s with
  | nil => simp
  | cons a l ih =>
    rw [List.foldl_cons, ih]
    by_cases hj : j = a
    · subst hj
      simp
    · rw [rd_wr_ne _ _ (hf.ne hj)]
      simp [hj]

/-- The bytes of an object: those stored, and unstated ones past them. -/
def objBytes (bs : List Byte) : List Byte := bs ++ (List.range (64 - bs.length)).map (fun i => Config.canPad s.draws i)

theorem objBytes_congr {t : State} (h : t.draws = s.draws) (bs : List Byte) : objBytes t bs = objBytes s bs := by
  rw [objBytes, objBytes, h]

theorem rd_putObjData (k : Nat) (bs : List Byte) {i : Nat} (h : i < 16) :
    rd (putObjData s k bs) (Reg.canObjData k i) = fieldAt (objBytes s bs) (4 * i) 4 := by
  have inj : (Reg.canObjData k).Injective := fun a b e => by
    simp only [Reg.canObjData] at e
    omega
  have e := rd_foldl_wr_each (draw s) inj (fun i => fieldAt (objBytes s bs) (4 * i) 4) (List.range 16) i
  rw [if_pos (List.mem_range.2 h)] at e
  refine Eq.trans e (Nat.mod_eq_of_lt ?_)
  exact (fieldAt_lt _ _ 4).trans (by decide)

theorem only_putObjData (k : Nat) (bs : List Byte) : Only [.draws] (objDataRegs k) s (putObjData s k bs) := by
  have words : Only [] (objDataRegs k) (draw s) (putObjData s k bs) := by
    refine only_foldl_mem _ _ (fun t i hi => ?_) (draw s)
    exact (Only.refl _ _ t).wr _ (canObjData_mem (List.mem_range.1 hi))
  exact (only_draw s).trans words

/-- The stored data of an object begins with its first two words. -/
theorem objData_words (k : Nat) : ∃ rest, objData s k 64 =
    leBytes 4 (rd s (Reg.canObjData k 0)) ++ (leBytes 4 (rd s (Reg.canObjData k 1)) ++ rest) := by
  have len : (((List.range 16).map (fun i => leBytes 4 (rd s (Reg.canObjData k i)))).flatten).length ≤ 64 := by
    simp [List.length_flatten, List.map_map, Function.comp_def, length_leBytes]
  exact ⟨_, (List.take_of_length_le len).trans rfl⟩

theorem only_setTxReq (k : Nat) : Only [.can] [Reg.canObjStat k] s (setTxReq s k) := by
  unfold setTxReq
  dsimp only
  split
  · exact Only.refl _ _ s
  · exact (((only_fput s _ _ _ _).fput _ _ _ (by simp)).trans (only_setCan _ _)).mono (by simp) (by simp)

theorem txReq_setTxReq (k : Nat) : txReq (setTxReq s k) k = true := by
  unfold setTxReq
  dsimp only
  split
  · assumption
  · have kept (u : State) (x : CanSt) : txReq { u with can := x } k = txReq u k := rfl
    rw [kept, txReq, flag_fput_apart _ _ (by decide) (by decide) (by decide), flag_fput_same _ _ (by decide)]
    decide

end Objects

/-! ### The response to a management request (R483) -/

section Respond
variable (s : State)

/-- The registers that a response writes. -/
abbrev mgmtRegs : List Nat :=
  [Reg.canObjFmt 127, Reg.canObjStat 126, Reg.canObjStat 127] ++ objDataRegs 127 ++ flipRegs

/-- The bytes of a response: OP + 0x80, SEQ, STATUS, zero, data. -/
def respBytes (status : Nat) (data : List Byte) : List Byte :=
  [BitVec.ofNat 8 (fieldAt (objData s 126 64) 0 1 + 0x80)] ++ leBytes 1 (fieldAt (objData s 126 64) 1 1) ++ leBytes 1 status ++
    leBytes 1 0 ++ data

/-- The request is taken and the response's format stands. -/
def requestTaken (status : Nat) (data : List Byte) : State :=
  fput (wr s (Reg.canObjFmt 127) (b2n (bitOf (rd s (Reg.canObjFmt 126)) 28) * 2 ^ 28 +
    bitsOf (rd s (Reg.canObjFmt 126)) 27 27 * 2 ^ 27 + dlcFor (respBytes s status data).length)) (Reg.canObjStat 126) 30 30 0

theorem mgmtRespond_eq (status : Nat) (data : List Byte) : mgmtRespond s status data =
    setTxReq (rangeWritten (objWritten (putObjData (requestTaken s status data) 127 (respBytes s status data)) 127 1) 0x11
      (16 * 127 + 4) 8) 127 := rfl

theorem only_respCoded (u : State) : Only [.can, .intg] (Reg.canObjStat 127 :: flipRegs) u
    (setTxReq (rangeWritten (objWritten u 127 1) 0x11 (16 * 127 + 4) 8) 127) :=
  (((only_objWritten u 127 1).trans (only_rangeWritten _ _ _ _)).trans (only_setTxReq _ 127)).mono (by simp) (by simp)

theorem only_requestTaken (status : Nat) (data : List Byte) :
    Only [] [Reg.canObjFmt 127, Reg.canObjStat 126] s (requestTaken s status data) :=
  ((only_wr s _ _).trans (only_fput _ _ _ _ _)).mono (by simp) (by simp)

theorem only_mgmtRespond (status : Nat) (data : List Byte) :
    Only [.can, .draws, .intg] mgmtRegs s (mgmtRespond s status data) := by
  rw [mgmtRespond_eq]
  exact (((only_requestTaken s status data).trans (only_putObjData _ 127 _)).trans (only_respCoded _)).mono (by simp)
    (fun o h => by simp only [mgmtRegs, List.mem_append, List.mem_cons] at *; tauto)

/-- A word of the response. -/
theorem rd_mgmtRespond (status : Nat) (data : List Byte) {i : Nat} (h : i < 16) :
    rd (mgmtRespond s status data) (Reg.canObjData 127 i) = fieldAt (objBytes s (respBytes s status data)) (4 * i) 4 := by
  have apart : Reg.canObjData 127 i ∉ msgRegs ∧ Reg.canObjData 127 i ∉ Reg.canObjStat 127 :: flipRegs := by
    constructor <;>
      simp [msgRegs, flipRegs, Reg.canObjData, Reg.canObjStat, Reg.hstPcieCnt, Reg.intFlipCtrl, Reg.intFlipAddr, Reg.intEvt] <;>
      omega
  rw [mgmtRespond_eq, (only_respCoded _).2.1 _ apart.1 apart.2, rd_putObjData _ _ _ h,
    objBytes_congr s ((only_requestTaken s status data).1 .draws (by simp))]

theorem fieldAt_request {o n : Nat} (h : o + n ≤ 4) :
    fieldAt (objData s 126 64) o n = rd s (Reg.canObjData 126 0) / 256 ^ o % 256 ^ n := by
  obtain ⟨rest, e⟩ := objData_words s 126
  rw [e]
  simpa using fieldAt_leBytes h (rd s (Reg.canObjData 126 0)) [] (leBytes 4 (rd s (Reg.canObjData 126 1)) ++ rest)

/-- The argument bytes are those of the second word. -/
theorem mgmtArg_eq {n : Nat} (h : n ≤ 4) : mgmtArg s n = rd s (Reg.canObjData 126 1) % 256 ^ n := by
  obtain ⟨rest, e⟩ := objData_words s 126
  rw [mgmtArg, e]
  have f := fieldAt_leBytes (o := 0) (by omega : 0 + n ≤ 4) (rd s (Reg.canObjData 126 1)) (leBytes 4 (rd s (Reg.canObjData 126 0))) rest
  rw [length_leBytes] at f
  simpa using f

theorem length_respHead (status : Nat) : (respBytes s status []).length = 4 := rfl

theorem respBytes_append (status : Nat) (data : List Byte) : respBytes s status data = respBytes s status [] ++ data := by
  simp [respBytes]

theorem ofLe_respHead {op status : Nat} (hop : mgmtOp s = op) (ho : op < 128) (hs : status < 256) :
    ofLe (respBytes s status []) = op + 0x80 + bitsOf (fget s (Reg.canObjData 126 0) 31 0) 15 8 * 2 ^ 8 + status * 2 ^ 16 := by
  have seq : bitsOf (fget s (Reg.canObjData 126 0) 31 0) 15 8 = rd s (Reg.canObjData 126 0) / 256 % 256 := by
    simp only [fget, bitsOf_eq]
    omega
  have code : rd s (Reg.canObjData 126 0) % 256 = op := by
    rw [← hop, mgmtOp, bitsOf_eq]
    simp
  rw [seq]
  simp [respBytes, ofLe, leBytes, fieldAt_request s (o := 0) (n := 1) (by decide), fieldAt_request s (o := 1) (n := 1) (by decide),
    code]
  omega

/-- The response asks for transmission, the request is gone, and the first word holds OP + 0x80, SEQ and STATUS. -/
theorem mgmtAnswered_respond {op status : Nat} (hop : mgmtOp s = op) (ho : op < 128) (hs : status < 256) (data : List Byte) :
    mgmtAnswered s op status (mgmtRespond s status data) := by
  refine ⟨?_, ?_, ?_⟩
  · rw [mgmtRespond_eq, txReq_setTxReq]
  · rw [mgmtRespond_eq, flag_congr ((only_respCoded _).2.1 _ (by decide) (by decide)),
      flag_congr ((only_putObjData _ 127 _).2.1 _ (by decide) (by decide)), requestTaken, flag_fput_same _ _ (by decide)]
    decide
  · rw [rd_mgmtRespond s status data (by decide), objBytes, respBytes_append, List.append_assoc, ← ofLe_respHead s hop ho hs]
    exact fieldAt_between (a := []) rfl (length_respHead s status) _

/-- The second word of a response holds the first four bytes of its data. -/
theorem rd_respond_word1 (status : Nat) {d : List Byte} (hd : d.length = 4) (rest : List Byte) :
    rd (mgmtRespond s status (d ++ rest)) (Reg.canObjData 127 1) = ofLe d := by
  rw [rd_mgmtRespond s status _ (by decide), objBytes, respBytes_append, List.append_assoc, List.append_assoc]
  exact fieldAt_between (length_respHead s status) hd _

theorem rd_respond_word2 (status : Nat) {d e : List Byte} (hd : d.length = 4) (he : e.length = 4) (rest : List Byte) :
    rd (mgmtRespond s status (d ++ (e ++ rest))) (Reg.canObjData 127 2) = ofLe e := by
  rw [rd_mgmtRespond s status _ (by decide), objBytes, respBytes_append, List.append_assoc, List.append_assoc, ← List.append_assoc _ d,
    List.append_assoc e]
  exact fieldAt_between (by rw [List.length_append, length_respHead, hd]) he _

end Respond

end Sys2Proof.Machine
end

section
namespace Sys2Proof.Machine

/-! ### Management over CAN (R483, R490) -/

section Management
variable {s : State} {op args : Nat} {f : State → State}

theorem mgmtAnswer_idle (h : mgmtReady s = false) : mgmtAnswer s op args f = s := if_pos (.inl h)

/-- A request of the operation's own OP, long enough and with its reserved bytes zero, gets its answer. -/
theorem mgmtAnswer_good (h : mgmtReady s = true) (ho : mgmtOp s = op) (hl : 4 + args ≤ mgmtLen s)
    (hr : bitsOf (rd s (Reg.canObjData 126 0)) 31 16 = 0) : mgmtAnswer s op args f = f s := by
  rw [mgmtAnswer, if_neg (by simp [h, ho]), if_neg (by rw [not_or]; exact ⟨by omega, by simp [hr]⟩)]

/-- A malformed one gets FORMAT. -/
theorem mgmtAnswer_malformed (h : mgmtReady s = true) (ho : mgmtOp s = op)
    (hm : mgmtLen s < 4 + args ∨ bitsOf (rd s (Reg.canObjData 126 0)) 31 16 ≠ 0) :
    mgmtAnswer s op args f = mgmtRespond s 3 [] := by
  rw [mgmtAnswer, if_neg (by simp [h, ho]), if_pos hm]

/-- Without a request nothing happens. -/
theorem mgmt_idle {c : Instr} (e : exec c s = .next (finish s (mgmtAnswer s op args f))) (h : mgmtReady s = false) :
    Ends c s fun t => Only [] [] s t :=
  ends_of e (by rw [mgmtAnswer_idle h]; exact only_finish s s)

theorem mgmtAnswered_finish {t : State} {status : Nat} (h : mgmtAnswered s op status t) :
    mgmtAnswered s op status (finish s t) := by
  obtain ⟨asked, gone, word⟩ := h
  refine ⟨?_, ?_, ?_⟩
  · rwa [txReq, flag_congr (rd_finish s _ (by decide))]
  · rwa [flag_congr (rd_finish s _ (by decide))]
  · rwa [rd_finish s _ (by decide)]

/-- What a request's first word says, whether it is read as 32 or as 64 bits. -/
theorem mgmtOp_eq : bitsOf (fget s (Reg.canObjData 126 0) 31 0) 7 0 = mgmtOp s := by
  rw [mgmtOp, fget, bitsOf_eq, bitsOf_eq, bitsOf_eq]
  omega

theorem reserved_eq :
    bitsOf (fget s (Reg.canObjData 126 0) 31 0) 31 16 = bitsOf (rd s (Reg.canObjData 126 0)) 31 16 := by
  rw [fget, bitsOf_eq, bitsOf_eq, bitsOf_eq]
  omega

/-- A response with data of which the first four bytes fill the second word. -/
theorem respond_ends {c : Instr} {status : Nat} {d rest : List Byte} (e : exec c s = .next (finish s (mgmtRespond s status (d ++ rest))))
    (hop : mgmtOp s = op) (ho : op < 128) (hs : status < 256) (hd : d.length = 4) : Ends c s fun t =>
      mgmtAnswered s op status t ∧ rd t (Reg.canObjData 127 1) = ofLe d ∧ keepsUnits [.can, .draws, .intg] s t := by
  refine ends_of e ⟨mgmtAnswered_finish (mgmtAnswered_respond s hop ho hs _), ?_, (only_mgmtRespond s status _).finished.1⟩
  rw [rd_finish s _ (by decide), rd_respond_word1 s status hd]

/-- A response of a status alone. -/
theorem respond_status {c : Instr} {status : Nat} (e : exec c s = .next (finish s (mgmtRespond s status []))) (hop : mgmtOp s = op)
    (ho : op < 128) (hs : status < 256) : Ends c s fun t =>
      mgmtAnswered s op status t ∧ keepsUnits [.can, .draws, .intg] s t :=
  ends_of e ⟨mgmtAnswered_finish (mgmtAnswered_respond s hop ho hs _), (only_mgmtRespond s status _).finished.1⟩

/-- A waiting request of an operation, well formed. -/
structure Asked (s : State) (op args : Nat) : Prop where
  ready : mgmtReady s = true
  op : mgmtOp s = op
  long : 4 + args ≤ mgmtLen s
  zero : bitsOf (rd s (Reg.canObjData 126 0)) 31 16 = 0

theorem Asked.answer (h : Asked s op args) : mgmtAnswer s op args f = f s := mgmtAnswer_good h.ready h.op h.long h.zero

theorem ping_answers (ha : awake s = true) (h : Asked s 1 0) : Ends .ping s fun t =>
    mgmtAnswered s 1 0 t ∧ rd t (Reg.canObjData 127 1) = topIdView s % 2 ^ 32 ∧ keepsUnits [.can, .draws, .intg] s t := by
  have e := core_ping ha
  rw [mgmtPing, h.answer, ← List.append_nil (leBytes 4 (topIdView s))] at e
  have r := respond_ends e h.op (by decide) (by decide) (length_leBytes 4 _)
  rwa [ofLe_leBytes] at r

theorem status_answers (ha : awake s = true) (h : Asked s 2 0) : Ends .status s fun t =>
    mgmtAnswered s 2 0 t ∧ rd t (Reg.canObjData 127 1) = s.pwr.st.code + s.tca.level % 2 ^ 8 * 2 ^ 8 +
      s.tca.temp % 2 ^ 8 * 2 ^ 16 + (b2n s.mil.valid + 2 * b2n (flag s Reg.topLedgerStat 7) +
        4 * b2n (flag s Reg.imgStat 30) + 8 * b2n s.pwr.warmStart) * 2 ^ 24 ∧ keepsUnits [.can, .draws, .intg] s t := by
  have e := core_status ha
  rw [mgmtStatus, h.answer, ← List.append_nil (_ ++ leBytes 1 (b2n s.mil.valid + _ + _ + _))] at e
  have r := respond_ends e h.op (by decide) (by decide) (by simp)
  have code : s.pwr.st.code < 256 := by cases s.pwr.st <;> decide
  have flags : ∀ a b c d : Bool, b2n a + 2 * b2n b + 4 * b2n c + 8 * b2n d < 256 := by decide
  have word : ∀ a b c d : Nat, a < 256 → d < 256 → ofLe (leBytes 1 a ++ leBytes 1 b ++ leBytes 1 c ++ leBytes 1 d) =
      a + b % 2 ^ 8 * 2 ^ 8 + c % 2 ^ 8 * 2 ^ 16 + d * 2 ^ 24 := fun a b c d hx hy => by
    simp only [ofLe_append, ofLe_leBytes, List.length_append, length_leBytes]
    omega
  rwa [word _ _ _ _ code (flags _ _ _ _)] at r

/-- TIME answers road time's low word, and its high word in an FD frame. -/
theorem time_answers (ha : awake s = true) (h : Asked s 3 0) : Ends .time s fun t =>
    mgmtAnswered s 3 0 t ∧ rd t (Reg.canObjData 127 1) = nowNs s % 2 ^ 32 ∧
    (flag s (Reg.canObjFmt 126) 28 = true → rd t (Reg.canObjData 127 2) = nowNs s / 2 ^ 32 % 2 ^ 32) ∧
    keepsUnits [.can, .draws, .intg] s t := by
  have e := core_time ha
  rw [mgmtTime, h.answer] at e
  by_cases fd : flag s (Reg.canObjFmt 126) 28 = true
  · rw [if_pos fd, show leBytes 8 (nowNs s) = _ from leBytes_split 4 4 _, List.append_assoc] at e
    obtain ⟨t, et, answered, word, units⟩ := respond_ends e h.op (by decide) (by decide) (length_leBytes 4 _)
    rw [ofLe_leBytes] at word
    refine ⟨t, et, answered, word, fun _ => ?_, units⟩
    obtain rfl := Host.Outcome.next.inj (et.symm.trans e)
    rw [rd_finish s _ (by decide), rd_respond_word2 s 0 (length_leBytes 4 _) (length_leBytes 4 _), ofLe_leBytes]
    norm_num
  · rw [if_neg fd, ← List.append_nil (leBytes 4 (nowNs s))] at e
    obtain ⟨t, et, answered, word, units⟩ := respond_ends e h.op (by decide) (by decide) (length_leBytes 4 _)
    rw [ofLe_leBytes] at word
    exact ⟨t, et, answered, word, fun h => absurd h fd, units⟩

/-! READ. -/

theorem read_denied (ha : awake s = true) (h : Asked s 4 4) (hb : [0, 1, 3, 22].contains (mgmtArg s 4 / 0x10000) = false) :
    Ends .read s fun t => mgmtAnswered s 4 2 t ∧ keepsUnits [.can, .draws, .intg] s t := by
  have e := core_read ha
  rw [mgmtRead, h.answer, if_pos (by simp only [hb]; rfl)] at e
  exact respond_status e h.op (by decide) (by decide)

theorem read_misaligned (ha : awake s = true) (h : Asked s 4 4) (hb : [0, 1, 3, 22].contains (mgmtArg s 4 / 0x10000) = true)
    (hm : mgmtArg s 4 % 4 ≠ 0) : Ends .read s fun t => mgmtAnswered s 4 3 t := by
  have e := core_read ha
  rw [mgmtRead, h.answer, if_neg (by simp only [hb]; decide), if_pos hm] at e
  obtain ⟨t, et, answered, -⟩ := respond_status e h.op (by decide) (by decide)
  exact ⟨t, et, answered⟩

theorem wordAt_topErr : wordAt Reg.topErr = some (⟨"TOP_ERR", 0x4, 1, 8, 1, 8, false, [fld 1 1 .w1c 0, fld 0 0 .w1c 0]⟩, 0, 0, false) := by
  decide +kernel

theorem read4_topErr (m : Requester) : read4 s m Reg.topErr = (s, fget s Reg.topErr 31 0, true) := by
  have seen (u : State) (v : Nat) : objSeen u Reg.topErr 4 v = (u, v) := if_neg (by decide)
  rw [read4, wordAt_topErr]
  simp only [seen]
  rfl

theorem read_topErr (ha : awake s = true) (h : Asked s 4 4) (ht : mgmtArg s 4 = Reg.topErr) : Ends .read s fun t =>
    mgmtAnswered s 4 0 t ∧ rd t (Reg.canObjData 127 1) = fget s Reg.topErr 31 0 := by
  have e := core_read ha
  rw [mgmtRead, h.answer] at e
  simp only [ht, read4_topErr] at e
  rw [if_neg (by decide), if_neg (by decide), ← List.append_nil (leBytes 4 _)] at e
  obtain ⟨t, et, answered, word, -⟩ := respond_ends e h.op (by decide) (by decide) (length_leBytes 4 _)
  rw [ofLe_leBytes, Nat.mod_eq_of_lt (show fget s Reg.topErr 31 0 < 256 ^ 4 from bitsOf_lt _ 31 0)] at word
  exact ⟨t, et, answered, word⟩

/-! The two operations that move the hold time (R490). -/

/-- An answer given after a register of its own was written. -/
theorem mgmtAnswered_after {u : State} {status : Nat} (h : Only [] [Reg.pwrHoldMs] s u) (hop : mgmtOp s = op) (ho : op < 128)
    (hs : status < 256) : mgmtAnswered s op status (mgmtRespond u status []) := by
  have same : rd u (Reg.canObjData 126 0) = rd s (Reg.canObjData 126 0) := h.2.1 _ (by decide) (by decide)
  have hu : mgmtOp u = op := by rw [mgmtOp, same, ← mgmtOp, hop]
  obtain ⟨asked, gone, word⟩ := mgmtAnswered_respond u hu ho hs []
  exact ⟨asked, gone, by rw [word, fget_congr same]⟩

theorem rd_mgmtRespond_hold (u : State) (status : Nat) (data : List Byte) :
    rd (mgmtRespond u status data) Reg.pwrHoldMs = rd u Reg.pwrHoldMs :=
  (only_mgmtRespond u status data).2.1 _ (by decide) (by decide)

theorem stayAwake_answers (ha : awake s = true) (h : Asked s 5 2) : Ends .stayAwake s fun t =>
    mgmtAnswered s 5 0 t ∧ rd t Reg.pwrHoldMs = max (rd s Reg.pwrHoldMs) (fget s (Reg.canObjData 126 1) 15 0) ∧
    keepsUnits [.can, .draws, .intg] s t := by
  have e := core_stayAwake ha
  have arg : mgmtArg s 2 = fget s (Reg.canObjData 126 1) 15 0 := by rw [mgmtArg_eq s (by decide), fget, bitsOf_eq]; simp
  have low : max (rd s Reg.pwrHoldMs) (fget s (Reg.canObjData 126 1) 15 0) < 2 ^ 64 :=
    max_lt (rd_lt s _) ((bitsOf_lt _ 15 0).trans (by decide))
  have raised := only_wr s Reg.pwrHoldMs (max (rd s Reg.pwrHoldMs) (mgmtArg s 2))
  rw [mgmtStayAwake, h.answer] at e
  refine ends_of e ⟨mgmtAnswered_finish (mgmtAnswered_after raised h.op (by decide) (by decide)), ?_,
    ((raised.trans (only_mgmtRespond _ _ _)).mono (vs := [.can, .draws, .intg]) (by simp) (List.Subset.refl _)).finished.1⟩
  rw [rd_finish s _ (by decide), rd_mgmtRespond_hold, rd_wr_same, arg, Nat.mod_eq_of_lt low]

/-- The hold time is cleared and the answer stands; with CAN_VOTE a PARK request follows. -/
def voteAnswered (s : State) : State := mgmtRespond (wr s Reg.pwrHoldMs 0) 0 []

theorem only_voteAnswered : Only [.can, .draws, .intg] (Reg.pwrHoldMs :: mgmtRegs) s (voteAnswered s) :=
  ((only_wr s _ _).trans (only_mgmtRespond _ _ _)).mono (by simp) (List.Subset.refl _)

theorem mgmtAnswered_vote {t : State} (h : Only [.pwr] [Reg.pwrEvt] (voteAnswered s) t) (hop : mgmtOp s = 6) :
    mgmtAnswered s 6 0 t := by
  obtain ⟨asked, gone, word⟩ := mgmtAnswered_after (only_wr s Reg.pwrHoldMs 0) hop (by decide) (by decide : (0 : Nat) < 256)
  refine ⟨?_, ?_, ?_⟩
  · rwa [txReq, flag_congr (h.2.1 _ (by decide) (by decide))]
  · rwa [flag_congr (h.2.1 _ (by decide) (by decide))]
  · rwa [h.2.1 _ (by decide) (by decide)]

theorem only_parkRequest (u : State) (m : Requester) : Only [.pwr] [Reg.pwrEvt] u (parkRequest u m 0x5041) := by
  rw [parkRequest, if_neg (c := 0x5041 ≠ 0x5041) (by decide)]
  have given : Only [.pwr] [Reg.pwrEvt] u (noticeGiven u) := only_noticeGiven u
  have refused : Only [.pwr] [Reg.pwrEvt] u (setEvt u Reg.pwrEvt 5) := (Only.refl _ _ u).setEvt 5 (by simp)
  exact (Only.refl _ _ u).ite ((Only.refl _ _ u).ite (given.ite refused))

/-- PARK_VOTE without and with the firmware's PARK request. -/
theorem parkVote_eq (h : Asked s 6 0) : mgmtParkVote s =
    if flag s Reg.pwrCfg 0 then parkRequest (voteAnswered s) .benchM 0x5041 else voteAnswered s := h.answer

theorem only_voted : Only [.pwr] [Reg.pwrEvt] (voteAnswered s)
    (if flag s Reg.pwrCfg 0 then parkRequest (voteAnswered s) .benchM 0x5041 else voteAnswered s) :=
  (only_parkRequest _ _).ite (Only.refl _ _ _)

theorem rd_voteAnswered_hold : rd (voteAnswered s) Reg.pwrHoldMs = 0 := by
  rw [voteAnswered, rd_mgmtRespond_hold, rd_wr_same, Nat.zero_mod]

theorem parkVote_answers (ha : awake s = true) (h : Asked s 6 0) : Ends .parkVote s fun t =>
    mgmtAnswered s 6 0 t ∧ rd t Reg.pwrHoldMs = 0 ∧
    (flag s Reg.pwrCfg 0 = true → s.pwr.st = .staged ∨ s.pwr.st = .ready → t.pwr.st = .parking ∧ flag t Reg.pwrEvt 0 = true) ∧
    (flag s Reg.pwrCfg 0 = false → t.pwr = s.pwr) ∧ keepsUnits [.can, .draws, .intg, .pwr] s t := by
  have pwr : (voteAnswered s).pwr = s.pwr := only_voteAnswered.1 .pwr (by simp)
  have awakeToo : awake (voteAnswered s) = true := by rwa [awake, pwr]
  refine ends_of (core_parkVote ha) ?_
  rw [parkVote_eq h]
  refine ⟨mgmtAnswered_finish (mgmtAnswered_vote only_voted h.op), ?_, fun vote st => ?_, fun off => ?_, ?_⟩
  · rw [rd_finish s _ (by decide), only_voted.2.1 _ (by decide) (by decide), rd_voteAnswered_hold]
  · rw [if_pos vote, parkRequest_granted awakeToo (by rw [pwr]; tauto), finish_pwr, flag_congr (rd_finish s _ (by decide))]
    exact ⟨by simp [noticeGiven], flag_setEvt_same _ _ _ (by decide)⟩
  · rw [off, finish_pwr]
    exact pwr
  · exact ((only_voteAnswered.trans only_voted).mono (vs := [.can, .draws, .intg, .pwr]) (by simp)
      (List.Subset.refl _)).finished.1

end Management

/-- Settles O53: an operation takes a request of its own OP alone, and what its response holds follows from the bytes it is built
of (R483, R490). -/
theorem managementRequestsAreAnsweredOverCan : Obligations.ManagementRequestsAreAnsweredOverCan := by
  unfold Obligations.ManagementRequestsAreAnsweredOverCan
  intro s w0 ha hw
  subst hw
  simp only [mgmtOp_eq, reserved_eq]
  refine ⟨fun idle => ⟨mgmt_idle (core_ping ha) idle, mgmt_idle (core_status ha) idle, mgmt_idle (core_time ha) idle,
    mgmt_idle (core_read ha) idle, mgmt_idle (core_stayAwake ha) idle, mgmt_idle (core_parkVote ha) idle⟩,
    fun ready zero => ⟨fun op long => ping_answers ha ⟨ready, op, long, zero⟩, fun op long => status_answers ha ⟨ready, op, long, zero⟩,
      fun op long => time_answers ha ⟨ready, op, long, zero⟩, fun op long => ?_,
      fun op long => stayAwake_answers ha ⟨ready, op, long, zero⟩, fun op long => parkVote_answers ha ⟨ready, op, long, zero⟩⟩,
    fun ready bad => ?_⟩
  · have asked : Asked s 4 4 := ⟨ready, op, long, zero⟩
    exact ⟨read_denied ha asked, read_misaligned ha asked, read_topErr ha asked⟩
  · have op : mgmtOp s = 1 := bad.elim And.left And.left
    have e := core_ping ha
    rw [mgmtPing, mgmtAnswer_malformed ready op (bad.imp And.right And.right)] at e
    obtain ⟨t, et, answered, -⟩ := respond_status e op (by decide) (by decide)
    exact ⟨t, et, answered⟩

end Sys2Proof.Machine
end

section
namespace Sys2Proof.Machine

/-! ### The CAN controller's shared operations (R478–R482) -/

section Controller
variable (s : State)

theorem only_ccnt (i : Nat) : Only [] [Reg.canCnt i] s (ccnt s i) := only_bump s _ 1

theorem rd_ccnt_same (i : Nat) : rd (ccnt s i) (Reg.canCnt i) = (rd s (Reg.canCnt i) + 1) % 2 ^ 48 := rd_bump_same s _ 1

theorem only_cevt (b : Nat) : Only [] [Reg.canEvt] s (cevt s b) := only_setEvt s _ b

/-- A word with no error is read as it is. -/
theorem wordRead_clean {mem a : Nat} (h : flipAt s mem a = none) (m : Nat) : wordRead s mem a m = (s, .clean, 0) := by
  rw [wordRead, h]

/-- An object whose sixteen words hold no error reads clean and leaves no trace (R423, R478). -/
theorem objRead_clean {k : Nat} (h : ∀ w, w < 16 → flipAt s 0x11 (16 * k + w) = none) : objRead s k = (s, false) := by
  have fold : ∀ l : List Nat, (∀ w ∈ l, w < 16) → l.foldl (fun (a : State × Bool) w =>
      let r := wordRead a.1 0x11 (16 * k + w) 50
      (r.1, a.2 || decide (r.2.1 = .uncorrectable))) (s, false) = (s, false) := by
    intro l
    induction l with
    | nil => exact fun _ => rfl
    | cons w l ih =>
      intro hl
      rw [List.foldl_cons]
      simp only [wordRead_clean s (h w (hl w (by simp))) 50]
      exact ih (fun x hx => hl x (by simp [hx]))
  exact fold _ (fun w hw => List.mem_range.1 hw)

/-- An object's transmission ends with the bit it asks for. -/
def objDone (k : Nat) (ok : Bool) : State :=
  objEvt (fput (fput s (Reg.canObjStat k) 31 31 0) (Reg.canObjStat k) 25 25 0) k (if ok then 28 else 27)

theorem only_endObj (k : Nat) (ok : Bool) : Only [] [Reg.canObjStat k, Reg.canEvt] s (endObj s k ok) := by
  have done : Only [] [Reg.canObjStat k, Reg.canEvt] s (objDone s k ok) :=
    (((Only.refl _ _ s).fput _ _ _ (by simp)).fput _ _ _ (by simp)).setEvt _ (by simp)
  exact (done.setEvt 1 (by simp)).ite done

/-- The flags of an object after its transmission ended. -/
theorem flag_endObj (k : Nat) (ok : Bool) (b : Nat) : flag (endObj s k ok) (Reg.canObjStat k) b = flag (objDone s k ok) (Reg.canObjStat k) b := by
  have noted : flag (cevt (objDone s k ok) 1) (Reg.canObjStat k) b = flag (objDone s k ok) (Reg.canObjStat k) b :=
    flag_congr (rd_setEvt_ne _ _ (by simp only [Reg.canEvt, Reg.canObjStat]; omega)) b
  have e : endObj s k ok = if flag (objDone s k ok) (Reg.canObjFmt k) 31 then cevt (objDone s k ok) 1 else objDone s k ok := rfl
  rw [e]
  split
  · exact noted
  · rfl

theorem txReq_endObj (k : Nat) (ok : Bool) : txReq (endObj s k ok) k = false := by
  have apart : (31 : Nat) ≠ if ok then 28 else 27 := by cases ok <;> decide
  rw [txReq, flag_endObj, objDone, objEvt, flag_setEvt_ne _ _ (by cases ok <;> decide) apart,
    flag_fput_apart _ _ (by decide) (by decide) (by decide), flag_fput_same _ _ (by decide)]
  decide

theorem flag_endObj_done (k : Nat) (ok : Bool) : flag (endObj s k ok) (Reg.canObjStat k) (if ok then 28 else 27) = true := by
  rw [flag_endObj]
  exact flag_setEvt_same _ _ _ (by cases ok <;> decide)

/-! The error counters (R481, R482). -/

/-- The counters at their new values. -/
def countersSet (tec rec_ : Nat) : State := { s with can := { s.can with
  tec := tec
  rec_ := rec_ } }

/-- WARN is latched when a counter reaches 96. -/
def warnMarked (tec rec_ : Nat) : State :=
  if (96 ≤ tec ∧ s.can.tec < 96) ∨ (96 ≤ rec_ ∧ s.can.rec_ < 96) then cevt (countersSet s tec rec_) 4 else countersSet s tec rec_

/-- PASSIVE is latched when a counter passes 127. -/
def errMarked (tec rec_ : Nat) : State :=
  if max s.can.tec s.can.rec_ ≤ 127 ∧ 127 < max tec rec_ then cevt (warnMarked s tec rec_) 5 else warnMarked s tec rec_

/-- Bus-off takes every pending object's count of attempts. -/
def attemptsCleared (u : State) : State :=
  (List.range 128).foldl (fun st k => if txReq st k then fput st (Reg.canObjStat k) 23 16 0 else st) u

/-- The controller enters bus-off. -/
def busLeft (u : State) : State :=
  { attemptsCleared (ccnt (cevt u 6) 5) with can := { (attemptsCleared (ccnt (cevt u 6) 5)).can with
    busOff := true
    recovering := flag s Reg.canCtrl 21
    recov := 0
    tx := none
    fails := [] } }

theorem canErrors_eq (tec rec_ : Nat) : canErrors s tec rec_ =
    if 255 < tec ∧ s.can.busOff = false then busLeft s (errMarked s tec rec_) else errMarked s tec rec_ := rfl

theorem errMarked_can (tec rec_ : Nat) : (errMarked s tec rec_).can = { s.can with
    tec := tec
    rec_ := rec_ } := by
  unfold errMarked warnMarked cevt
  split <;> split <;> simp [countersSet]

theorem only_errMarked (tec rec_ : Nat) : Only [.can] [Reg.canEvt] s (errMarked s tec rec_) := by
  have taken : Only [.can] [Reg.canEvt] s (countersSet s tec rec_) := (only_setCan s _).mono (by simp) (by simp)
  have warned : Only [.can] [Reg.canEvt] s (warnMarked s tec rec_) := (taken.setEvt 4 (by simp)).ite taken
  exact (warned.setEvt 5 (by simp)).ite warned

/-- The status words of the objects. -/
abbrev objStats : List Nat := (List.range 128).map Reg.canObjStat

theorem not_mem_objStats {o : Nat} (h : o < Reg.canObjStat 0) : o ∉ objStats := by
  simp only [List.mem_map, List.mem_range, not_exists, not_and, Reg.canObjStat] at *
  omega

theorem only_attemptsCleared (u : State) : Only [] objStats u (attemptsCleared u) := by
  refine only_foldl_mem _ _ (fun t k hk => ?_) u
  exact ((Only.refl _ _ t).fput _ _ _ (List.mem_map_of_mem hk)).ite (Only.refl _ _ t)

/-- What stands above the count of attempts stays. -/
theorem flag_attemptsCleared (u : State) (k : Nat) {b : Nat} (hb : 23 < b) :
    flag (attemptsCleared u) (Reg.canObjStat k) b = flag u (Reg.canObjStat k) b := by
  have one (t : State) (j : Nat) : flag (if txReq t j then fput t (Reg.canObjStat j) 23 16 0 else t) (Reg.canObjStat k) b =
      flag t (Reg.canObjStat k) b := by
    split
    · by_cases e : Reg.canObjStat k = Reg.canObjStat j
      · rw [e, flag_fput_apart _ _ (by decide) (by decide) (.inr hb)]
      · exact flag_congr (rd_fput_ne _ _ _ _ e) b
    · rfl
  have fold : ∀ (l : List Nat) (t : State), flag (l.foldl (fun st k => if txReq st k then fput st (Reg.canObjStat k) 23 16 0 else st) t)
      (Reg.canObjStat k) b = flag t (Reg.canObjStat k) b := by
    intro l
    induction l with
    | nil => exact fun _ => rfl
    | cons j l ih => exact fun t => (ih _).trans (one t j)
  exact fold _ u

theorem only_canErrors (tec rec_ : Nat) :
    Only [.can] (Reg.canEvt :: Reg.canCnt 5 :: objStats) s (canErrors s tec rec_) := by
  have marked : Only [.can] (Reg.canEvt :: Reg.canCnt 5 :: objStats) s (errMarked s tec rec_) :=
    (only_errMarked s tec rec_).mono (by simp) (by simp)
  have left : Only [.can] (Reg.canEvt :: Reg.canCnt 5 :: objStats) (errMarked s tec rec_) (busLeft s (errMarked s tec rec_)) :=
    ((((only_cevt _ 6).trans (only_ccnt _ 5)).trans (only_attemptsCleared _)).trans (only_setCan _ _)).mono (by simp) (by simp)
  rw [canErrors_eq]
  exact (marked.next left).ite marked

theorem canErrors_tec (tec rec_ : Nat) : (canErrors s tec rec_).can.tec = tec ∧ (canErrors s tec rec_).can.rec_ = rec_ := by
  have left : (attemptsCleared (ccnt (cevt (errMarked s tec rec_) 6) 5)).can = (errMarked s tec rec_).can := by
    rw [(only_attemptsCleared _).1 .can (by simp), ccnt, cevt, bump_can, setEvt_can]
  rw [canErrors_eq]
  split
  · rw [busLeft, left, errMarked_can]
    exact ⟨rfl, rfl⟩
  · rw [errMarked_can]
    exact ⟨rfl, rfl⟩

/-- Short of bus-off the counters are all that moves. -/
theorem canErrors_calm {tec : Nat} (h : tec ≤ 255) (rec_ : Nat) : canErrors s tec rec_ = errMarked s tec rec_ := by
  rw [canErrors_eq, if_neg (by omega)]

theorem flag_canErrors_stat (tec rec_ k : Nat) {b : Nat} (hb : 23 < b) :
    flag (canErrors s tec rec_) (Reg.canObjStat k) b = flag s (Reg.canObjStat k) b := by
  have far : Reg.canObjStat k ≠ Reg.canEvt ∧ Reg.canObjStat k ≠ Reg.canCnt 5 ∧ Reg.canObjStat k ∉ msgRegs := by
    simp [msgRegs, Reg.hstPcieCnt, Reg.canObjStat, Reg.canEvt, Reg.canCnt]
    omega
  have marked := flag_congr ((only_errMarked s tec rec_).2.1 _ far.2.2 (by simp [far])) b
  have counted := flag_congr (((only_cevt (errMarked s tec rec_) 6).trans (only_ccnt _ 5)).2.1 _ far.2.2 (by simp [far])) b
  rw [canErrors_eq]
  split
  · exact ((flag_attemptsCleared _ k hb).trans counted).trans marked
  · exact marked

/-- A latched event of the controller stays latched when the counters move. -/
theorem flag_canErrors_evt {b : Nat} (h : flag s Reg.canEvt b = true) (tec rec_ : Nat) :
    flag (canErrors s tec rec_) Reg.canEvt b = true := by
  have warned : flag (warnMarked s tec rec_) Reg.canEvt b = true := by
    unfold warnMarked
    split
    · exact flag_setEvt_of _ (by decide) h
    · exact h
  have marked : flag (errMarked s tec rec_) Reg.canEvt b = true := by
    unfold errMarked
    split
    · exact flag_setEvt_of _ (by decide) warned
    · exact warned
  have left : flag (busLeft s (errMarked s tec rec_)) Reg.canEvt b = true := by
    have counted : flag (ccnt (cevt (errMarked s tec rec_) 6) 5) Reg.canEvt b = true := by
      rw [flag_congr ((only_ccnt _ 5).2.1 _ (by decide) (by decide))]
      exact flag_setEvt_of _ (by decide) marked
    have cleared := (only_attemptsCleared (ccnt (cevt (errMarked s tec rec_) 6) 5)).2.1 Reg.canEvt (by decide)
      (not_mem_objStats (by decide))
    exact (flag_congr cleared b).trans counted
  rw [canErrors_eq]
  split
  · exact left
  · exact marked

/-! A protocol error (R482). -/

theorem only_protoErr (lec : Nat) : Only [] [Reg.canStat, Reg.canEvt, Reg.canCnt 3] s (protoErr s lec) :=
  ((((only_rcEvent s _ _ _ _).trans (only_fput _ _ _ _ _)).trans (only_cevt _ 8)).trans (only_ccnt _ 3)).mono (by simp) (by simp)

/-- The code is latched, the event set, and the error counted. -/
theorem protoErr_records {lec : Nat} (h : lec < 8) : fget (protoErr s lec) Reg.canStat 31 29 = lec ∧
    flag (protoErr s lec) Reg.canEvt 8 = true ∧ rd (protoErr s lec) (Reg.canCnt 3) = (rd s (Reg.canCnt 3) + 1) % 2 ^ 48 := by
  have late (u : State) : Only [] [Reg.canEvt, Reg.canCnt 3] u (ccnt (cevt u 8) 3) := (only_cevt u 8).trans (only_ccnt _ 3)
  have early : Only [] [Reg.canStat, Reg.canEvt] s (cevt (fput (rcEvent s Reg.canStat (fget s Reg.canStat 31 29) lec (fun _ b => b))
      Reg.canStat 31 29 lec) 8) :=
    (((only_rcEvent s _ _ _ _).trans (only_fput _ _ _ _ _)).trans (only_cevt _ 8)).mono (by simp) (by simp)
  refine ⟨?_, ?_, ?_⟩
  · rw [protoErr, fget_congr ((late _).2.1 _ (by decide) (by decide)), fget_fput_same _ _ _ _ _ (by decide) (by decide)]
    exact Nat.mod_eq_of_lt h
  · rw [protoErr, flag_congr ((only_ccnt _ 3).2.1 _ (by decide) (by decide))]
    exact flag_setEvt_same _ _ _ (by decide)
  · rw [protoErr, rd_ccnt_same, early.2.1 _ (by decide) (by decide)]

/-! An attempt that failed (R480). -/

theorem only_txFailed (k : Nat) (abort : Bool) : Only [.can] [Reg.canObjStat k, Reg.canEvt] s (txFailed s k abort) := by
  have counted : Only [.can] [Reg.canObjStat k, Reg.canEvt] s { s with can := { s.can with
      fails := s.can.fails.setNat k (s.can.fails.nat k + 1) } } := (only_setCan s _).mono (by simp) (by simp)
  exact (counted.more (only_endObj _ k false) (by simp) (by simp)).ite counted

theorem txFailed_can (k : Nat) (abort : Bool) : ∃ x, (txFailed s k abort).can = { s.can with fails := x } := by
  refine ⟨s.can.fails.setNat k (s.can.fails.nat k + 1), ?_⟩
  unfold txFailed
  dsimp only
  split
  · exact (only_endObj _ k false).1 .can (by simp)
  · rfl

/-- With ABORT or one-shot the object ends. -/
theorem txFailed_ends {k : Nat} {abort : Bool} (h : abort = true ∨ flag s Reg.canCtrl 22 = true) :
    txReq (txFailed s k abort) k = false ∧ flag (txFailed s k abort) (Reg.canObjStat k) 27 = true := by
  have e : txFailed s k abort = endObj { s with can := { s.can with
      fails := s.can.fails.setNat k (s.can.fails.nat k + 1) } } k false := if_pos (by tauto)
  rw [e]
  exact ⟨txReq_endObj _ k false, flag_endObj_done _ k false⟩

/-- Without either, and with no limit of attempts, it stays as it is. -/
theorem txFailed_stays {k : Nat} {abort : Bool} (ha : abort = false) (ho : flag s Reg.canCtrl 22 = false)
    (hr : fget s Reg.canCtrl 30 23 = 0) : txReq (txFailed s k abort) k = txReq s k := by
  have e : txFailed s k abort = { s with can := { s.can with
      fails := s.can.fails.setNat k (s.can.fails.nat k + 1) } } := if_neg (by simp [ha, ho, hr])
  rw [e]
  rfl

end Controller

end Sys2Proof.Machine
end

section
namespace Sys2Proof.Machine

/-! ### Joining and receiving (R476, R479, R481, R482) -/

section Receive
variable (s : State)

variable {s} in
theorem canJoin_joins (ha : awake s = true) : Ends .canJoin s fun t =>
    t.can = (if flag s Reg.canCtrl 0 || !s.pwr.reqHigh then s.can else { s.can with joined := true }) ∧ Only [.can] [] s t := by
  have e : canJoin s = if flag s Reg.canCtrl 0 || !s.pwr.reqHigh then s else { s with can := { s.can with joined := true } } := rfl
  refine ends_of (core_canJoin ha) ?_
  rw [finish_can, e]
  split
  · exact ⟨rfl, (Only.refl _ _ s).finished⟩
  · exact ⟨rfl, (only_setCan s _).finished⟩

/-- The management objects and their switch decide whether a request waits. -/
theorem mgmtReady_congr {t : State} (hs : t.seq = s.seq) (hc : rd t (Reg.seqCanm 0) = rd s (Reg.seqCanm 0))
    (hi : flag t (Reg.canObjStat 126) 30 = flag s (Reg.canObjStat 126) 30) (ho : txReq t 127 = txReq s 127) :
    mgmtReady t = mgmtReady s := by
  rw [mgmtReady, mgmtReady, hs, flag_congr hc, hi, ho]

theorem mgmtReady_of_only {us : List UnitName} {rs : List Nat} {t : State} (h : Only us rs s t) (hu : UnitName.seq ∉ us)
    (hc : Reg.seqCanm 0 ∉ rs) (hi : Reg.canObjStat 126 ∉ rs) (ho : Reg.canObjStat 127 ∉ rs) : mgmtReady t = mgmtReady s :=
  mgmtReady_congr s (h.1 .seq hu) (h.2.1 _ (by decide) hc) (flag_congr (h.2.1 _ (by decide) hi) 30)
    (flag_congr (h.2.1 _ (by decide) ho) 31)

theorem canFrame_idle {f : CanFrame} {lec : Nat} {heavy : Bool} {ago : Nat} (h : mgmtReady (canReceive s f lec heavy ago) = false) :
    canFrame s f lec heavy ago = canReceive s f lec heavy ago := by
  rw [canFrame, mgmtUnknown, if_neg (by simp [h])]

variable {s} in
theorem canReceive_good (hi : flag s Reg.canCtrl 0 = false) (hj : s.can.joined = true) (hb : s.can.busOff = false)
    (hr : s.can.rec_ = 0) (f : CanFrame) (heavy : Bool) (ago : Nat) :
    canReceive s f 0 heavy ago = storeFrame (ccnt s 0) f (roadAgo s ago / roadUnit) := by
  have quiet : recDown (ccnt s 0) = ccnt s 0 := by
    have zero : (ccnt s 0).can.rec_ = 0 := by rw [ccnt, bump_can, hr]
    rw [recDown, zero]
    rfl
  rw [canReceive, if_neg (by simp [canInit, hi, hj, hb]), if_pos rfl, quiet]

/-- The frame fits object k (R479). -/
def frameHit (f : CanFrame) (k : Nat) : Bool :=
  bitOf (rd s (Reg.canObjId k)) 31 && !bitOf (rd s (Reg.canObjId k)) 30 &&
    decide ((f.id ^^^ bitsOf (rd s (Reg.canObjId k)) 28 0) &&& rd s (Reg.canObjMask k) = 0) &&
    (!flag s (Reg.canObjFmt k) 30 || bitOf (rd s (Reg.canObjId k)) 29 == f.ide)

/-- The frame's identifier in the object. -/
def idTaken (f : CanFrame) (k : Nat) : State :=
  fput (fput s (Reg.canObjId k) 29 29 (b2n f.ide)) (Reg.canObjId k) 28 0 f.id

/-- The frame's form, bytes and time in the object. -/
def frameTaken (f : CanFrame) (k ns : Nat) : State :=
  wr (putObjData (wr (idTaken s f k) (Reg.canObjFmt k) (putBits (putBits (rd (idTaken s f k) (Reg.canObjFmt k)) 29 26
    (b2n f.rtr * 8 + b2n f.fdf * 4 + b2n f.brs * 2 + b2n f.esi)) 3 0 f.dlc)) k f.data) (Reg.canObjTime k) ns

/-- The object is full; a frame it held before is reported lost. -/
def frameNoted (k : Nat) (lost : Bool) : State :=
  if lost then cevt (objEvt (objEvt s k 30) k 29) 2 else objEvt s k 30

/-- The frame is announced where the object asks for it. -/
def frameAnnounced (k : Nat) : State := if flag s (Reg.canObjFmt k) 31 then cevt s 0 else s

/-- An object that reads well takes the frame; one that does not is reported (R478). -/
def frameFound (f : CanFrame) (ns k : Nat) : State :=
  if (objRead s k).2 then cevt (objEvt (objRead s k).1 k 26) 3
  else frameAnnounced (frameNoted (rangeWritten (frameTaken (objRead s k).1 f k ns) 0x11 (16 * k) 16) k
    (flag s (Reg.canObjStat k) 30)) k

theorem storeFrame_eq (f : CanFrame) (ns : Nat) : storeFrame s f ns = match (List.range 128).find? (frameHit s f) with
    | none => ccnt s 2
    | some k => frameFound s f ns k := rfl

variable {s} in
theorem storeFrame_none {f : CanFrame} (h : (List.range 128).find? (frameHit s f) = none) (ns : Nat) :
    storeFrame s f ns = ccnt s 2 := by rw [storeFrame_eq, h]

variable {s} in
theorem storeFrame_some {f : CanFrame} {k : Nat} (h : (List.range 128).find? (frameHit s f) = some k)
    (hc : ∀ w, w < 16 → flipAt s 0x11 (16 * k + w) = none) (ns : Nat) : storeFrame s f ns =
      frameAnnounced (frameNoted (rangeWritten (frameTaken s f k ns) 0x11 (16 * k) 16) k (flag s (Reg.canObjStat k) 30)) k := by
  rw [storeFrame_eq, h]
  simp only [frameFound, objRead_clean s hc, Bool.false_eq_true, if_false]

theorem only_idTaken (f : CanFrame) (k : Nat) : Only [] [Reg.canObjId k] s (idTaken s f k) :=
  (only_fput s _ _ _ _).fput _ _ _ (by simp)

theorem only_frameTaken (f : CanFrame) (k ns : Nat) :
    Only [.draws] (Reg.canObjFmt k :: Reg.canObjTime k :: objDataRegs k) (idTaken s f k) (frameTaken s f k ns) :=
  (((only_wr _ _ _).trans (only_putObjData _ k f.data)).trans (only_wr _ _ _)).mono (by simp)
    (fun o h => by simp only [List.mem_append, List.mem_cons] at *; tauto)

theorem only_frameNoted (k : Nat) (lost : Bool) : Only [] [Reg.canObjStat k, Reg.canEvt] s (frameNoted s k lost) := by
  have full : Only [] [Reg.canObjStat k, Reg.canEvt] s (objEvt s k 30) := (Only.refl _ _ s).setEvt 30 (by simp)
  exact ((full.setEvt 29 (by simp)).setEvt 2 (by simp)).ite full

theorem only_frameAnnounced (k : Nat) : Only [] [Reg.canEvt] s (frameAnnounced s k) := (only_cevt s 0).ite (Only.refl _ _ s)

/-- What follows the bytes of a stored frame. -/
theorem only_frameReported (k : Nat) (lost : Bool) :
    Only [.intg] (Reg.canObjStat k :: Reg.canEvt :: flipRegs) s
      (frameAnnounced (frameNoted (rangeWritten s 0x11 (16 * k) 16) k lost) k) :=
  (((only_rangeWritten s 0x11 (16 * k) 16).trans (only_frameNoted _ k lost)).trans (only_frameAnnounced _ k)).mono (by simp)
    (fun o h => by simp only [List.mem_append, List.mem_cons] at *; tauto)

/-- The places of an object's words, and those of the registers beside the message memory. -/
theorem objPlace_apart {o k : Nat} (ho : o < Reg.canObjId 0) : o ≠ Reg.canObjId k ∧ o ≠ Reg.canObjFmt k ∧ o ≠ Reg.canObjStat k ∧
    o ≠ Reg.canObjTime k ∧ o ∉ objDataRegs k := by
  simp only [Reg.canObjId, Reg.canObjFmt, Reg.canObjStat, Reg.canObjTime, Reg.canObjData, List.mem_map, List.mem_range, not_exists,
    not_and] at *
  exact ⟨by omega, by omega, by omega, by omega, fun i _ => by omega⟩

/-- The words of one object are apart from each other and from another object's status. -/
theorem objWords_apart {j k : Nat} (h : j ≠ k) : Reg.canObjStat j ≠ Reg.canObjId k ∧ Reg.canObjStat j ≠ Reg.canObjFmt k ∧
    Reg.canObjStat j ≠ Reg.canObjStat k ∧ Reg.canObjStat j ≠ Reg.canObjTime k ∧ Reg.canObjStat j ∉ objDataRegs k := by
  simp only [Reg.canObjId, Reg.canObjFmt, Reg.canObjStat, Reg.canObjTime, Reg.canObjData, List.mem_map, List.mem_range, not_exists,
    not_and]
  exact ⟨by omega, by omega, by omega, by omega, fun i _ => by omega⟩

theorem mem_flipRegs_low {o : Nat} (h : o ∈ flipRegs) : o < Reg.canObjId 0 := by
  simp only [flipRegs, List.mem_cons, List.not_mem_nil, or_false] at h
  rcases h with rfl | rfl | rfl <;> decide

theorem not_mem_msgRegs_obj {o : Nat} (h : Reg.canObjId 0 ≤ o) : o ∉ msgRegs := by
  simp [msgRegs, Reg.hstPcieCnt, Reg.canObjId] at *
  omega

/-- What an object's status records of a stored frame. -/
theorem frameReported_flags (k : Nat) (lost : Bool) :
    flag (frameAnnounced (frameNoted s k lost) k) (Reg.canObjStat k) 30 = true ∧
    (lost = true → flag (frameAnnounced (frameNoted s k lost) k) (Reg.canObjStat k) 29 = true ∧
      flag (frameAnnounced (frameNoted s k lost) k) Reg.canEvt 2 = true) := by
  have apart : Reg.canObjStat k ≠ Reg.canEvt := by
    simp only [Reg.canObjStat, Reg.canEvt]
    omega
  have stat (b : Nat) (u : State) : flag (frameAnnounced u k) (Reg.canObjStat k) b = flag u (Reg.canObjStat k) b := by
    unfold frameAnnounced
    split
    · exact flag_congr (rd_setEvt_ne _ _ apart) b
    · rfl
  have evt (u : State) (h : flag u Reg.canEvt 2 = true) : flag (frameAnnounced u k) Reg.canEvt 2 = true := by
    unfold frameAnnounced
    split
    · exact flag_setEvt_of _ (by decide) h
    · exact h
  have full : flag (objEvt s k 30) (Reg.canObjStat k) 30 = true := flag_setEvt_same _ _ _ (by decide)
  rw [stat, stat]
  cases lost
  · exact ⟨full, by simp⟩
  · have past (b : Nat) : flag (frameNoted s k true) (Reg.canObjStat k) b =
        flag (objEvt (objEvt s k 30) k 29) (Reg.canObjStat k) b := flag_congr (rd_setEvt_ne _ _ apart) b
    rw [past, past]
    refine ⟨?_, fun _ => ⟨flag_setEvt_same _ _ _ (by decide), evt _ (flag_setEvt_same _ _ _ (by decide))⟩⟩
    rw [objEvt, flag_setEvt_ne _ _ (by decide) (by decide)]
    exact full

theorem fieldAt_append_left {a : List Byte} {o n : Nat} (h : o + n ≤ a.length) (b : List Byte) :
    fieldAt (a ++ b) o n = fieldAt a o n := by
  simp only [fieldAt, slice]
  rw [List.drop_append_of_le_length (by omega), List.take_append_of_le_length (by simp; omega)]

variable {s}

/-- A frame that no object fits is counted as received and lost. -/
theorem receive_lost (ha : awake s = true) (f : CanFrame) (heavy : Bool) (ago : Nat) (hi : flag s Reg.canCtrl 0 = false)
    (hj : s.can.joined = true) (hb : s.can.busOff = false) (hr : s.can.rec_ = 0) (hm : mgmtReady s = false)
    (hn : ∀ k, k < 128 → flag s (Reg.canObjId k) 31 = true → flag s (Reg.canObjId k) 30 = true) :
    Ends (.canFrameReceive f 0 heavy ago) s fun t =>
      rd t (Reg.canCnt 0) = (rd s (Reg.canCnt 0) + 1) % 2 ^ 48 ∧
      rd t (Reg.canCnt 2) = (rd s (Reg.canCnt 2) + 1) % 2 ^ 48 ∧ Only [] [Reg.canCnt 0, Reg.canCnt 2] s t := by
  have none : (List.range 128).find? (frameHit (ccnt s 0) f) = none := by
    refine List.find?_eq_none.2 fun k hk hit => ?_
    have same : rd (ccnt s 0) (Reg.canObjId k) = rd s (Reg.canObjId k) :=
      rd_wr_ne _ _ (by simp only [Reg.canObjId, Reg.canCnt]; omega)
    rw [frameHit, same] at hit
    simp only [Bool.and_eq_true, Bool.not_eq_true'] at hit
    have use := hn k (List.mem_range.1 hk) hit.1.1.1
    rw [flag, hit.1.1.2] at use
    exact Bool.false_ne_true use
  have e : canReceive s f 0 heavy ago = ccnt (ccnt s 0) 2 := by rw [canReceive_good hi hj hb hr, storeFrame_none none]
  have counted : Only [] [Reg.canCnt 0, Reg.canCnt 2] s (ccnt (ccnt s 0) 2) := (only_ccnt s 0).trans (only_ccnt _ 2)
  have idle : mgmtReady (canReceive s f 0 heavy ago) = false := by
    rw [e, mgmtReady_of_only s counted (by simp) (by decide) (by decide) (by decide), hm]
  refine ends_of (core_canFrameReceive f 0 heavy ago ha) ?_
  rw [show ((0 : Fin 8) : Nat) = 0 from rfl, canFrame_idle s idle, e]
  refine ⟨?_, ?_, counted.finished⟩
  · rw [rd_finish s _ (by decide), (only_ccnt (ccnt s 0) 2).2.1 _ (by decide) (by decide), rd_ccnt_same]
  · rw [rd_finish s _ (by decide), rd_ccnt_same, (only_ccnt s 0).2.1 _ (by decide) (by decide)]

/-- A frame that fits an object lands in the lowest of them. -/
theorem receive_stored (ha : awake s = true) (f : CanFrame) (heavy : Bool) (ago : Nat) (hi : flag s Reg.canCtrl 0 = false)
    (hj : s.can.joined = true) (hb : s.can.busOff = false) (hr : s.can.rec_ = 0) (hm : mgmtReady s = false) {k : Nat} (hk : k < 126)
    (hv : flag s (Reg.canObjId k) 31 = true) (hd : flag s (Reg.canObjId k) 30 = false)
    (hf : (f.id ^^^ fget s (Reg.canObjId k) 28 0) &&& rd s (Reg.canObjMask k) = 0) (hx : flag s (Reg.canObjFmt k) 30 = false)
    (hl : ∀ j, j < k → flag s (Reg.canObjId j) 31 = false) (hc : ∀ w, w < 16 → flipAt s 0x11 (16 * k + w) = none) :
    Ends (.canFrameReceive f 0 heavy ago) s fun t =>
      fget t (Reg.canObjId k) 28 0 = f.id % 2 ^ 29 ∧ flag t (Reg.canObjStat k) 30 = true ∧
      rd t (Reg.canObjTime k) = roadAgo s ago / roadUnit % 2 ^ 64 ∧
      (4 ≤ f.data.length → rd t (Reg.canObjData k 0) = fieldAt f.data 0 4) ∧
      (flag s (Reg.canObjStat k) 30 = true → flag t (Reg.canObjStat k) 29 = true ∧ flag t Reg.canEvt 2 = true) ∧
      keepsUnits [.draws, .intg] s t := by
  have same {o : Nat} (h : Reg.canObjId 0 ≤ o) : rd (ccnt s 0) o = rd s o :=
    rd_wr_ne _ _ (by simp only [Reg.canObjId, Reg.canCnt] at *; omega)
  have place (j : Nat) : Reg.canObjId 0 ≤ Reg.canObjId j ∧ Reg.canObjId 0 ≤ Reg.canObjMask j ∧ Reg.canObjId 0 ≤ Reg.canObjFmt j ∧
      Reg.canObjId 0 ≤ Reg.canObjStat j := by
    simp only [Reg.canObjId, Reg.canObjMask, Reg.canObjFmt, Reg.canObjStat]
    omega
  have hit : (List.range 128).find? (frameHit (ccnt s 0) f) = some k := by
    refine List.find?_range_eq_some.2 ⟨?_, List.mem_range.2 (by omega), fun j hj' => ?_⟩
    · rw [flag] at hv hd
      rw [fget] at hf
      rw [frameHit, same (place k).1, same (place k).2.1, flag_congr (same (place k).2.2.1), hv, hd, hf, hx]
      rfl
    · have off := hl j hj'
      rw [flag] at off
      rw [frameHit, same (place j).1, off]
      rfl
  have e : canReceive s f 0 heavy ago = frameAnnounced (frameNoted (rangeWritten (frameTaken (ccnt s 0) f k (roadAgo s ago / roadUnit))
      0x11 (16 * k) 16) k (flag s (Reg.canObjStat k) 30)) k := by
    rw [canReceive_good hi hj hb hr, storeFrame_some hit (fun w hw => by simpa [flipAt, ccnt] using hc w hw),
      flag_congr (same (place k).2.2.2)]
  have bytes := only_frameTaken (ccnt s 0) f k (roadAgo s ago / roadUnit)
  have late := only_frameReported (frameTaken (ccnt s 0) f k (roadAgo s ago / roadUnit)) k (flag s (Reg.canObjStat k) 30)
  have word {o : Nat} (h : Reg.canObjId 0 ≤ o) (hn : o ≠ Reg.canObjStat k) :
      rd (canReceive s f 0 heavy ago) o = rd (frameTaken (ccnt s 0) f k (roadAgo s ago / roadUnit)) o := by
    rw [e]
    refine late.2.1 o (not_mem_msgRegs_obj h) (fun hm => ?_)
    rcases List.mem_cons.1 hm with hm | hm
    · exact hn hm
    · rcases List.mem_cons.1 hm with rfl | hm
      · exact absurd h (by decide)
      · exact absurd (mem_flipRegs_low hm) (by omega)
  have all : Only [.draws, .intg] ([Reg.canCnt 0] ++ [Reg.canObjId k] ++ (Reg.canObjFmt k :: Reg.canObjTime k :: objDataRegs k) ++
      (Reg.canObjStat k :: Reg.canEvt :: flipRegs)) s (canReceive s f 0 heavy ago) := by
    rw [e]
    exact ((((only_ccnt s 0).trans (only_idTaken _ f k)).trans bytes).trans late).mono (by simp) (List.Subset.refl _)
  have stays {o : Nat} (h : o ≠ Reg.canCnt 0 ∧ o ≠ Reg.canEvt ∧ o ∉ flipRegs) (h' : o ≠ Reg.canObjId k ∧ o ≠ Reg.canObjFmt k ∧
      o ≠ Reg.canObjStat k ∧ o ≠ Reg.canObjTime k ∧ o ∉ objDataRegs k) : o ∉ [Reg.canCnt 0] ++ [Reg.canObjId k] ++
        (Reg.canObjFmt k :: Reg.canObjTime k :: objDataRegs k) ++ (Reg.canObjStat k :: Reg.canEvt :: flipRegs) := by
    simp only [List.mem_append, List.mem_cons, List.not_mem_nil, or_false]
    tauto
  have idle : mgmtReady (canReceive s f 0 heavy ago) = false := by
    rw [mgmtReady_of_only s all (by simp) (stays (by decide) ?_) (stays (by decide) (objWords_apart (by omega)))
      (stays (by decide) (objWords_apart (by omega))), hm]
    simp only [Reg.canObjId, Reg.canObjFmt, Reg.canObjStat, Reg.canObjTime, Reg.canObjData, Reg.seqCanm, List.mem_map,
      List.mem_range, not_exists, not_and]
    exact ⟨by omega, by omega, by omega, by omega, fun i _ => by omega⟩
  obtain ⟨full, over_⟩ := frameReported_flags (rangeWritten (frameTaken (ccnt s 0) f k (roadAgo s ago / roadUnit)) 0x11 (16 * k) 16) k
    (flag s (Reg.canObjStat k) 30)
  rw [← e] at full over_
  have end_ {o : Nat} (h : Reg.canObjId 0 ≤ o) : rd (finish s (canReceive s f 0 heavy ago)) o = rd (canReceive s f 0 heavy ago) o :=
    rd_finish s _ (not_mem_msgRegs_obj h)
  have apart : Reg.canObjId k ≠ Reg.canObjStat k ∧ Reg.canObjId k ∉ Reg.canObjFmt k :: Reg.canObjTime k :: objDataRegs k ∧
      Reg.canObjTime k ≠ Reg.canObjStat k ∧ Reg.canObjData k 0 ≠ Reg.canObjStat k ∧ Reg.canObjData k 0 ≠ Reg.canObjTime k ∧
      Reg.canObjId 0 ≤ Reg.canObjTime k ∧ Reg.canObjId 0 ≤ Reg.canObjData k 0 := by
    simp only [Reg.canObjId, Reg.canObjFmt, Reg.canObjStat, Reg.canObjTime, Reg.canObjData, List.mem_cons, List.mem_map,
      List.mem_range, not_or, not_exists, not_and]
    exact ⟨by omega, ⟨by omega, by omega, fun i _ => by omega⟩, by omega, by omega, by omega, by omega, by omega⟩
  obtain ⟨a1, a2, a3, a4, a5, a6, a7⟩ := apart
  refine ends_of (core_canFrameReceive f 0 heavy ago ha) ?_
  rw [show ((0 : Fin 8) : Nat) = 0 from rfl, canFrame_idle s idle]
  refine ⟨?_, ?_, ?_, fun long => ?_, fun lost => ?_, all.finished.1⟩
  · rw [fget_congr (end_ (place k).1), fget_congr (word (place k).1 a1),
      fget_congr (bytes.2.1 _ (not_mem_msgRegs_obj (place k).1) a2), idTaken, fget_fput_same _ _ _ _ _ (by decide) (by decide)]
  · rw [flag_congr (end_ (place k).2.2.2), full]
  · rw [end_ a6, word a6 a3, frameTaken, rd_wr_same]
  · rw [end_ a7, word a7 a4, frameTaken, rd_wr_ne _ _ a5, rd_putObjData _ _ _ (by decide), objBytes]
    exact fieldAt_append_left (by omega) _
  · rw [flag_congr (end_ (place k).2.2.2), flag_congr (rd_finish s _ (by decide))]
    exact over_ lost

/-- A protocol error is latched and counted, and raises the receive error counter (R481, R482). -/
theorem receive_error (ha : awake s = true) (f : CanFrame) (lec : Fin 8) (heavy : Bool) (ago : Nat)
    (hi : flag s Reg.canCtrl 0 = false) (hj : s.can.joined = true) (hb : s.can.busOff = false) (hm : mgmtReady s = false)
    (hl : lec.val ≠ 0) : Ends (.canFrameReceive f lec heavy ago) s fun t =>
      fget t Reg.canStat 31 29 = lec.val ∧ rd t (Reg.canCnt 3) = (rd s (Reg.canCnt 3) + 1) % 2 ^ 48 ∧
      flag t Reg.canEvt 8 = true ∧ t.can.rec_ = min 255 (s.can.rec_ + (if heavy then 8 else 1)) ∧
      t.can.tec = s.can.tec ∧ keepsUnits [.can] s t := by
  have e : canReceive s f lec.val heavy ago = canErrors (protoErr s lec.val) s.can.tec
      (min 255 (s.can.rec_ + (if heavy then 8 else 1))) := by
    rw [canReceive, if_neg (by simp [canInit, hi, hj, hb]), if_neg hl]
  obtain ⟨code, evt, count⟩ := protoErr_records s lec.isLt
  have erred := only_protoErr s lec.val
  have moved := only_canErrors (protoErr s lec.val) s.can.tec (min 255 (s.can.rec_ + (if heavy then 8 else 1)))
  have stat {k b : Nat} (hk : Reg.canObjStat k ∉ msgRegs ∧ Reg.canObjStat k ∉ [Reg.canStat, Reg.canEvt, Reg.canCnt 3]) (hb : 23 < b) :
      flag (canReceive s f lec.val heavy ago) (Reg.canObjStat k) b = flag s (Reg.canObjStat k) b := by
    rw [e, flag_canErrors_stat _ _ _ _ hb, flag_congr (erred.2.1 _ hk.1 hk.2)]
  have low {o : Nat} (h : o ∉ msgRegs ∧ o ≠ Reg.canEvt ∧ o ≠ Reg.canCnt 5 ∧ o < Reg.canObjStat 0) :
      rd (canReceive s f lec.val heavy ago) o = rd (protoErr s lec.val) o := by
    rw [e]
    exact moved.2.1 o h.1 (by simp only [List.mem_cons, not_or]; exact ⟨h.2.1, h.2.2.1, not_mem_objStats h.2.2.2⟩)
  have canm : rd (canReceive s f lec.val heavy ago) (Reg.seqCanm 0) = rd s (Reg.seqCanm 0) := by
    rw [e, moved.2.1 _ (by decide) ?_, erred.2.1 _ (by decide) (by decide)]
    simp only [objStats, List.mem_cons, List.mem_map, List.mem_range, not_or, not_exists, not_and, Reg.seqCanm, Reg.canObjStat,
      Reg.canEvt, Reg.canCnt]
    exact ⟨by omega, by omega, fun k _ => by omega⟩
  have all := erred.trans moved
  have idle : mgmtReady (canReceive s f lec.val heavy ago) = false := by
    rw [mgmtReady_congr s (by rw [e]; exact all.1 .seq (by simp)) canm (stat (by decide) (by decide)) (stat (by decide) (by decide)), hm]
  refine ends_of (core_canFrameReceive f lec heavy ago ha) ?_
  rw [canFrame_idle s idle, finish_can]
  refine ⟨?_, ?_, ?_, ?_, ?_, ?_⟩
  · rw [fget_congr (rd_finish s _ (by decide)), fget_congr (low (by decide)), code]
  · rw [rd_finish s _ (by decide), low (by decide), count]
  · rw [flag_congr (rd_finish s _ (by decide)), e]
    exact flag_canErrors_evt _ evt _ _
  · rw [e, (canErrors_tec _ _ _).2]
  · rw [e, (canErrors_tec _ _ _).1]
  · rw [e]
    exact all.finished.1

end Receive

end Sys2Proof.Machine
end

section
namespace Sys2Proof.Machine

/-- Two steps within the same parts. -/
theorem units_trans {us : List UnitName} {s t u : State} (h : keepsUnits us s t) (k : keepsUnits us t u) : keepsUnits us s u :=
  fun x hx => x.same_trans (h x hx) (k x hx)

/-- The end of a command leaves every part. -/
theorem units_finished {us : List UnitName} {s t : State} (h : keepsUnits us s t) (r : State) : keepsUnits us s (finish r t) :=
  fun x hx => x.same_trans (h x hx) ((only_finish r t).1 x (by simp))

theorem units_mono {us vs : List UnitName} {s t : State} (h : keepsUnits us s t) (hu : us ⊆ vs) : keepsUnits vs s t :=
  fun x hx => h x (fun e => hx (hu e))

/-! ### TXREQ and ABORT (R480, R484) -/

section Asking
variable {s : State} {m : Requester} {n : Fin 128}

theorem regRow_canObjStat : ∀ k : Fin 128, regRow (Reg.canObjStat k) = some ⟨"CAN_OBJ_STAT", 0x14400C, 128, 128, 1, 128, false,
    [fld 31 31 .w1s 0, fld 30 30 .w1c 0, fld 29 29 .w1c 0, fld 28 28 .w1c 0, fld 27 27 .w1c 0, fld 26 26 .w1c 0, fld 25 25 .w1s 0,
      fld 23 16 .ro 0]⟩ := by
  decide +kernel

/-- A field written with what it holds leaves the register. -/
theorem putBits_bitsOf (v hi lo : Nat) (h : lo ≤ hi) : putBits v hi lo (bitsOf v hi lo) = v := by
  apply Nat.eq_of_testBit_eq
  intro i
  rw [testBit_putBits _ _ _ _ _ h, bitsOf_eq, Nat.testBit_mod_two_pow, Nat.testBit_div_two_pow]
  split
  · rename_i hi'
    rw [show i - lo + lo = i by omega]
    simp
    omega
  · rfl

/-- Bits written 0 leave an event and a set-only field as they are (R9). -/
theorem write_w1c_zero {hi lo : Nat} (h : lo ≤ hi) (d : Nat) (lock : Bool) (keep old : Nat) :
    (fld hi lo .w1c d).write lock keep old 0 = (old, false, false) := by
  have e := write_w1c (f := fld hi lo .w1c d) (v := 0) rfl lock keep old
  have z : bitsOf 0 hi lo = 0 := by rw [bitsOf_eq]; simp
  have keepAll : ∀ x y : Nat, x ||| (x &&& y) = x := fun x y => by
    apply Nat.eq_of_testBit_eq
    intro i
    rw [Nat.testBit_or, Nat.testBit_and]
    cases x.testBit i <;> simp
  simp only [show (fld hi lo .w1c d).hi = hi from rfl, show (fld hi lo .w1c d).lo = lo from rfl, z, Nat.and_zero, Nat.sub_zero,
    keepAll, putBits_bitsOf _ _ _ h] at e
  exact e

theorem write_w1s_zero {hi lo : Nat} (h : lo ≤ hi) (d : Nat) (lock : Bool) (keep old : Nat) :
    (fld hi lo .w1s d).write lock keep old 0 = (old, false, false) := by
  have z : bitsOf 0 hi lo = 0 := by rw [bitsOf_eq]; simp
  simp [Field.write, fld, z, putBits_bitsOf _ _ _ h]

theorem write_ro (hi lo d : Nat) (lock : Bool) (keep old v : Nat) :
    (fld hi lo .ro d).write lock keep old v = (old, false, false) := rfl

/-- Nothing is taken from an object's status by a write of zero. -/
theorem rd_commit_objStat_zero (s : State) (n : Fin 128) (c : Nat) :
    rd (commitFields s c (Reg.canObjStat n) 0) (Reg.canObjStat n) = rd s (Reg.canObjStat n) := by
  have far : Reg.canObjStat n ∉ errRegs := by
    simp [errRegs, Reg.canObjStat, Reg.topErr, Reg.topErrAddr]
    omega
  rw [rd_commitFields (regRow_canObjStat n) far]
  simp only [fieldsWrite, write_w1s_zero (le_refl _), write_w1c_zero (le_refl _), write_ro]
  exact Nat.mod_eq_of_lt (rd_lt s _)

theorem objOff_stat (k : Nat) : objOff k 3 = Reg.canObjStat k := by
  simp only [objOff, Reg.canObjStat]
  omega

/-- The status taken with nothing written. -/
def statTouched (s : State) (m : Requester) (n : Fin 128) : State := commitFields (portCount s m) m.code (Reg.canObjStat n) 0

theorem objHeld_portCount (s : State) (m : Requester) (k : Nat) : objHeld (portCount s m) m k = objHeld s m k := by
  rw [objHeld, objHeld, flag_congr (rd_portCount_above s m (by simp [aboveCounts, Reg.seqCanm, Reg.hstPcieCnt]))]

theorem objWrite_txreq (h : objHeld s m n = false) :
    objWrite (portCount s m) m n.val 3 0x80000000 = objWritten (setTxReq (statTouched s m n) n) n 3 := by
  rw [objWrite, objHeld_portCount, h, objOff_stat]
  rfl

theorem objWrite_abort (h : objHeld s m n = false) :
    objWrite (portCount s m) m n.val 3 0x02000000 = objWritten (abortTx (statTouched s m n) n) n 3 := by
  rw [objWrite, objHeld_portCount, h, objOff_stat]
  rfl

theorem objWrite_held (h : objHeld s m n = true) (v : Nat) :
    objWrite (portCount s m) m n.val 3 v = rsvd (portCount s m) m.code (Reg.canObjStat n) := by
  rw [objWrite, objHeld_portCount, h, objOff_stat]
  rfl

/-- A held object refuses. -/
theorem held_refuses {c : Instr} {v : Nat} (h : objHeld s m n = true)
    (e : exec c s = .next (finish s (objWrite (portCount s m) m n.val 3 v))) :
    Ends c s fun t => flag t Reg.topErr 0 = true ∧ Only [] (errRegs ++ portRegs m) s t := by
  refine ends_of e ?_
  rw [objWrite_held h, flag_finish_err]
  exact ⟨flag_rsvd _ _ _, (only_rsvd _ _ _).counted⟩

theorem statPlace (n : Fin 128) : aboveCounts (Reg.canObjStat n) ∧ Reg.canObjStat n ∉ flipRegs ∧ Reg.canObjStat n ∉ errRegs := by
  simp [aboveCounts, flipRegs, errRegs, Reg.canObjStat, Reg.hstPcieCnt, Reg.intFlipCtrl, Reg.intFlipAddr, Reg.intEvt, Reg.topErr,
    Reg.topErrAddr]
  omega

theorem rd_statTouched (s : State) (m : Requester) (n : Fin 128) : rd (statTouched s m n) (Reg.canObjStat n) = rd s (Reg.canObjStat n) := by
  rw [statTouched, rd_commit_objStat_zero, rd_portCount_above s m (statPlace n).1]

theorem statTouched_can (s : State) (m : Requester) (n : Fin 128) : (statTouched s m n).can = s.can := by
  rw [statTouched, (only_commitFields _ _ _ _).1 .can (by simp), portCount_can]

theorem units_statTouched (s : State) (m : Requester) (n : Fin 128) : keepsUnits [] s (statTouched s m n) :=
  ((only_portCount s m).trans (only_commitFields _ _ _ _)).1

/-- The status of an object after its codeword was written again and the command ended. -/
theorem rd_statWritten (s u : State) (n : Fin 128) :
    rd (finish s (objWritten u n 3)) (Reg.canObjStat n) = rd u (Reg.canObjStat n) := by
  rw [rd_finish_above s (statPlace n).1, (only_objWritten u n 3).2.1 _ (aboveCounts_not_mem_msgRegs (statPlace n).1) (statPlace n).2.1]

theorem units_statWritten (s : State) {u : State} {us : List UnitName} (n : Fin 128) (h : keepsUnits us (statTouched s m n) u)
    (hi : UnitName.intg ∈ us) : keepsUnits us s (finish s (objWritten u n 3)) :=
  units_finished (units_trans (units_trans (units_mono (units_statTouched s m n) (by simp)) h)
    (units_mono (only_objWritten u n 3).1 (by simpa using hi))) s

/-- An update of the controller's own part. -/
def withCan (u : State) (x : CanSt) : State := { u with can := x }

theorem only_withCan (u : State) (x : CanSt) : Only [.can] [] u (withCan u x) := only_setCan u x

theorem rd_withCan (u : State) (x : CanSt) (o : Nat) : rd (withCan u x) o = rd u o := rfl

theorem setTxReq_idle {u : State} {k : Nat} (h : txReq u k = false) : setTxReq u k =
    withCan (fput (fput u (Reg.canObjStat k) 31 31 1) (Reg.canObjStat k) 23 16 0)
      { (fput (fput u (Reg.canObjStat k) 31 31 1) (Reg.canObjStat k) 23 16 0).can with
        fails := (fput (fput u (Reg.canObjStat k) 31 31 1) (Reg.canObjStat k) 23 16 0).can.fails.setNat k 0 } :=
  if_neg (by simp [h])

theorem abortTx_free {u : State} {k : Nat} (h : txReq u k = true) (hx : u.can.tx = none) : abortTx u k = endObj u k false := by
  rw [abortTx, if_neg (by simp [h]), hx]

theorem abortTx_sending {u : State} {k : Nat} {f : CanFrame} {b : Bool} (h : txReq u k = true) (hx : u.can.tx = some (k, f, b)) :
    abortTx u k = withCan (fput u (Reg.canObjStat k) 25 25 1) { u.can with tx := some (k, f, true) } := by
  rw [abortTx, if_neg (by simp [h]), hx]
  exact if_pos rfl

theorem txreq_asks (hw : mayWrite s m (Reg.canObjStat n) 4 = true) (hh : objHeld s m n = false) (ht : txReq s n = false) :
    Ends (.txreq m n) s fun t =>
      txReq t n = true ∧ fget t (Reg.canObjStat n) 23 16 = 0 ∧ t.can.fails.nat n = 0 ∧ keepsUnits [.can, .intg] s t := by
  have idle : txReq (statTouched s m n) n = false := by rwa [txReq, flag_congr (rd_statTouched s m n)]
  refine ends_of (exec_txreq n (by rwa [objOff_stat])) ?_
  rw [objWrite_txreq hh]
  refine ⟨?_, ?_, ?_, units_statWritten s n ((only_setTxReq _ _).mono (vs := [.can, .intg]) (by simp) (List.Subset.refl _)).1 (by simp)⟩
  · rw [txReq, flag_congr (rd_statWritten s _ n)]
    exact txReq_setTxReq _ _
  · rw [fget_congr (rd_statWritten s _ n), setTxReq_idle idle, fget_congr (rd_withCan _ _ _)]
    exact fget_fput_same _ _ _ _ _ (by decide) (by decide)
  · rw [finish_can, (only_objWritten _ _ _).1 .can (by simp), setTxReq_idle idle]
    simp only [withCan, KMap.nat, KMap.setNat, KMap.get_set_same]

theorem abort_ends (hw : mayWrite s m (Reg.canObjStat n) 4 = true) (hh : objHeld s m n = false) (ht : txReq s n = true)
    (hx : s.can.tx = none) : Ends (.abort m n) s fun t =>
      txReq t n = false ∧ flag t (Reg.canObjStat n) 27 = true ∧ keepsUnits [.intg] s t := by
  have asked : txReq (statTouched s m n) n = true := by rwa [txReq, flag_congr (rd_statTouched s m n)]
  have e := abortTx_free asked (by rwa [statTouched_can])
  refine ends_of (exec_abort n (by rwa [objOff_stat])) ?_
  rw [objWrite_abort hh, e]
  refine ⟨?_, ?_, units_statWritten s n ((only_endObj _ _ _).mono (vs := [.intg]) (by simp) (List.Subset.refl _)).1 (by simp)⟩
  · rw [txReq, flag_congr (rd_statWritten s _ n)]
    exact txReq_endObj _ _ _
  · rw [flag_congr (rd_statWritten s _ n)]
    exact flag_endObj_done _ _ false

theorem abort_marks (hw : mayWrite s m (Reg.canObjStat n) 4 = true) (hh : objHeld s m n = false) (ht : txReq s n = true)
    (f : CanFrame) (b : Bool) (hx : s.can.tx = some (n.val, f, b)) : Ends (.abort m n) s fun t =>
      txReq t n = true ∧ flag t (Reg.canObjStat n) 25 = true ∧ t.can.tx = some (n.val, f, true) ∧ keepsUnits [.can, .intg] s t := by
  have asked : txReq (statTouched s m n) n = true := by rwa [txReq, flag_congr (rd_statTouched s m n)]
  have e := abortTx_sending (u := statTouched s m n) asked (by rw [statTouched_can]; exact hx)
  have marked : Only [.can] [Reg.canObjStat n] (statTouched s m n) (abortTx (statTouched s m n) n) := by
    rw [e]
    exact (only_fput _ _ _ _ _).trans (only_withCan _ _)
  refine ends_of (exec_abort n (by rwa [objOff_stat])) ?_
  rw [objWrite_abort hh]
  refine ⟨?_, ?_, ?_, units_statWritten s n (marked.mono (vs := [.can, .intg]) (by simp) (List.Subset.refl _)).1 (by simp)⟩
  · rw [txReq, flag_congr (rd_statWritten s _ n), e, flag_congr (rd_withCan _ _ _)]
    exact (flag_fput_apart _ _ (le_refl 25) (by decide) (by decide) _).trans asked
  · rw [flag_congr (rd_statWritten s _ n), e, flag_congr (rd_withCan _ _ _)]
    exact (flag_fput_same _ _ (by decide) _).trans (by decide)
  · rw [finish_can, (only_objWritten _ _ _).1 .can (by simp), e]
    rfl

end Asking

/-! ### The end of an attempt (R480–R482) -/

section Attempts
variable {s : State} {k : Nat} {f : CanFrame} {ab : Bool}

/-- The attempt is over and counted in its object. -/
def attemptOver (s : State) (k : Nat) : State := satBump { s with can := { s.can with tx := none } } (Reg.canObjStat k) 23 16 1

theorem only_attemptOver (s : State) (k : Nat) : Only [.can] [Reg.canObjStat k] s (attemptOver s k) :=
  ((only_setCan s _).trans (only_satBump _ _ _ _ _)).mono (by simp) (by simp)

theorem attemptOver_can (s : State) (k : Nat) : (attemptOver s k).can = { s.can with tx := none } := by
  rw [attemptOver, satBump_can]

theorem txReq_attemptOver (s : State) (k : Nat) : txReq (attemptOver s k) k = txReq s k :=
  flag_fput_apart _ _ (by decide) (by decide) (by decide) _

/-- With a frame on the bus none is begun. -/
theorem canStart_busy (h : s.can.tx = some (k, f, ab)) (fuel : Nat) : canStart s fuel = s := by
  cases fuel
  · rfl
  · rw [canStart, if_pos (by simp [h])]

theorem canTxEnd_success (h : s.can.tx = some (k, f, ab)) (hm : canMode s = 0) (ago : Nat) :
    canTxEnd s .success ago =
      (let u := ccnt (wr (endObj (attemptOver s k) k true) (Reg.canObjTime k) (roadAgo s ago / roadUnit)) 1
       canErrors u (u.can.tec - 1) u.can.rec_) := by
  simp only [canTxEnd, canStart_busy h, h]
  rw [if_neg (by simp [hm])]
  rfl

theorem canTxEnd_lost (h : s.can.tx = some (k, f, ab)) (ago : Nat) :
    canTxEnd s .lost ago = txFailed (ccnt (attemptOver s k) 4) k ab := by
  simp only [canTxEnd, canStart_busy h, h]
  rfl

/-- An attempt that ended in an error that raises TEC. -/
def attemptErred (s : State) (k lec : Nat) : State :=
  canErrors (protoErr (attemptOver s k) lec) ((attemptOver s k).can.tec + 8) (attemptOver s k).can.rec_

theorem canTxEnd_error (h : s.can.tx = some (k, f, ab)) {lec : Fin 8} (hl : lec.val ≠ 3) (dom : Bool) (ago : Nat) :
    canTxEnd s (.error lec dom) ago =
      if (attemptErred s k lec).can.busOff then attemptErred s k lec else txFailed (attemptErred s k lec) k ab := by
  simp only [canTxEnd, canStart_busy h, h]
  rw [show decide (lec.val = 3) = false by simp [hl]]
  rfl

/-- The object's end, its time and the count of a frame sent. -/
def frameSent (s : State) (k ns : Nat) : State := ccnt (wr (endObj (attemptOver s k) k true) (Reg.canObjTime k) ns) 1

theorem frameSent_can (s : State) (k ns : Nat) : (frameSent s k ns).can = { s.can with tx := none } := by
  rw [frameSent, ccnt, bump_can, wr_can, (only_endObj _ _ _).1 .can (by simp), attemptOver_can]

/-- The words of an object that an attempt writes, beside the registers below the message memory. -/
theorem sentPlace (k : Nat) : Reg.canObjStat k ≠ Reg.canObjTime k ∧ Reg.canObjStat k ≠ Reg.canCnt 1 ∧ Reg.canObjStat k ≠ Reg.canCnt 4 ∧
    Reg.canObjStat k ≠ Reg.canEvt ∧ Reg.canObjTime k ≠ Reg.canCnt 1 ∧ Reg.canObjTime k ≠ Reg.canEvt ∧
    Reg.canObjId 0 ≤ Reg.canObjStat k ∧ Reg.canObjId 0 ≤ Reg.canObjTime k := by
  simp only [Reg.canObjStat, Reg.canObjTime, Reg.canObjId, Reg.canCnt, Reg.canEvt]
  omega

theorem rd_frameSent (s : State) (k ns : Nat) : rd (frameSent s k ns) (Reg.canObjTime k) = ns % 2 ^ 64 ∧
    rd (frameSent s k ns) (Reg.canCnt 1) = (rd s (Reg.canCnt 1) + 1) % 2 ^ 48 ∧
    (∀ b, flag (frameSent s k ns) (Reg.canObjStat k) b = flag (endObj (attemptOver s k) k true) (Reg.canObjStat k) b) := by
  obtain ⟨p1, p2, -, -, p5, -, -, -⟩ := sentPlace k
  have low : Reg.canCnt 1 ≠ Reg.canObjTime k ∧ Reg.canCnt 1 ∉ [Reg.canObjStat k, Reg.canEvt] ∧ Reg.canCnt 1 ∉ [Reg.canObjStat k] := by
    simp only [Reg.canObjStat, Reg.canObjTime, Reg.canCnt, Reg.canEvt, List.mem_cons, List.not_mem_nil, or_false, not_or]
    omega
  refine ⟨?_, ?_, fun b => ?_⟩
  · rw [frameSent, ccnt, rd_bump_ne _ _ p5, rd_wr_same]
  · rw [frameSent, rd_ccnt_same, rd_wr_ne _ _ low.1, (only_endObj _ _ _).2.1 _ (by decide) low.2.1,
      (only_attemptOver s k).2.1 _ (by decide) low.2.2]
  · exact (flag_congr (rd_bump_ne _ _ p2) b).trans (flag_congr (rd_wr_ne _ _ p1) b)

theorem units_frameSent (s : State) (k ns : Nat) : keepsUnits [.can] s (frameSent s k ns) :=
  ((((only_attemptOver s k).trans (only_endObj _ k true)).trans (only_wr _ _ _)).trans (only_ccnt _ 1)).1

theorem attempt_succeeds (ha : awake s = true) (h : s.can.tx = some (k, f, ab)) (hm : canMode s = 0)
    (ht : s.can.tec ≤ 255) (ago : Nat) : Ends (.canTransmitEnd .success ago) s fun t =>
      txReq t k = false ∧ flag t (Reg.canObjStat k) 28 = true ∧ t.can.tx = none ∧ t.can.tec = s.can.tec - 1 ∧
      rd t (Reg.canObjTime k) = roadAgo s ago / roadUnit % 2 ^ 64 ∧
      rd t (Reg.canCnt 1) = (rd s (Reg.canCnt 1) + 1) % 2 ^ 48 ∧ keepsUnits [.can] s t := by
  have e : canTxEnd s .success ago = errMarked (frameSent s k (roadAgo s ago / roadUnit)) (s.can.tec - 1) s.can.rec_ := by
    have can := frameSent_can s k (roadAgo s ago / roadUnit)
    have sent := canTxEnd_success h hm ago
    rw [frameSent] at can
    simp only [can] at sent
    rw [sent]
    exact canErrors_calm _ (by omega) _
  obtain ⟨time, count, stat⟩ := rd_frameSent s k (roadAgo s ago / roadUnit)
  have marked := only_errMarked (frameSent s k (roadAgo s ago / roadUnit)) (s.can.tec - 1) s.can.rec_
  obtain ⟨-, -, -, p4, -, p6, p7, p8⟩ := sentPlace k
  have late {o : Nat} (hn : o ∉ msgRegs) (he : o ≠ Reg.canEvt) :
      rd (finish s (canTxEnd s .success ago)) o = rd (frameSent s k (roadAgo s ago / roadUnit)) o := by
    rw [rd_finish s _ hn, e, marked.2.1 o hn (by simpa using he)]
  refine ends_of (core_canTransmitEnd .success ago ha) ⟨?_, ?_, ?_, ?_, ?_, ?_, ?_⟩
  · rw [txReq, flag_congr (late (not_mem_msgRegs_obj p7) p4), stat]
    exact txReq_endObj _ _ _
  · rw [flag_congr (late (not_mem_msgRegs_obj p7) p4), stat]
    exact flag_endObj_done _ k true
  · rw [finish_can, e, errMarked_can, frameSent_can]
  · rw [finish_can, e, errMarked_can]
  · rw [late (not_mem_msgRegs_obj p8) p6, time]
  · rw [late (by decide) (by decide), count]
  · rw [e]
    exact units_finished (units_trans (units_frameSent s k _) marked.1) s

/-- A lost attempt is counted. -/
theorem only_attemptLost (s : State) (k : Nat) : Only [.can] [Reg.canObjStat k, Reg.canCnt 4] s (ccnt (attemptOver s k) 4) :=
  (only_attemptOver s k).trans (only_ccnt _ 4)

theorem attempt_lost (ha : awake s = true) (h : s.can.tx = some (k, f, ab)) (hr : txReq s k = true) (ago : Nat) :
    Ends (.canTransmitEnd .lost ago) s fun t =>
      t.can.tx = none ∧ t.can.tec = s.can.tec ∧ rd t (Reg.canCnt 4) = (rd s (Reg.canCnt 4) + 1) % 2 ^ 48 ∧
      (ab = true ∨ flag s Reg.canCtrl 22 = true → txReq t k = false ∧ flag t (Reg.canObjStat k) 27 = true) ∧
      (ab = false → flag s Reg.canCtrl 22 = false → fget s Reg.canCtrl 30 23 = 0 → txReq t k = true) ∧
      keepsUnits [.can] s t := by
  have e := canTxEnd_lost h ago
  have failed := only_txFailed (ccnt (attemptOver s k) 4) k ab
  obtain ⟨x, can⟩ := txFailed_can (ccnt (attemptOver s k) 4) k ab
  rw [ccnt, bump_can, attemptOver_can, ← ccnt] at can
  obtain ⟨-, -, p3, -, -, -, p7, -⟩ := sentPlace k
  have low : Reg.canCnt 4 ∉ [Reg.canObjStat k, Reg.canEvt] ∧ Reg.canCnt 4 ∉ [Reg.canObjStat k] ∧
      Reg.canCtrl ∉ [Reg.canObjStat k, Reg.canCnt 4] := by
    simp only [Reg.canObjStat, Reg.canCnt, Reg.canEvt, Reg.canCtrl, List.mem_cons, List.not_mem_nil, or_false, not_or]
    omega
  have ctrl : rd (ccnt (attemptOver s k) 4) Reg.canCtrl = rd s Reg.canCtrl := (only_attemptLost s k).2.1 _ (by decide) low.2.2
  have stat (b : Nat) : flag (finish s (canTxEnd s .lost ago)) (Reg.canObjStat k) b =
      flag (txFailed (ccnt (attemptOver s k) 4) k ab) (Reg.canObjStat k) b := by
    rw [flag_congr (rd_finish s _ (not_mem_msgRegs_obj p7)), e]
  refine ends_of (core_canTransmitEnd .lost ago ha) ⟨?_, ?_, ?_, fun stop => ?_, fun na no nr => ?_, ?_⟩
  · rw [finish_can, e, can]
  · rw [finish_can, e, can]
  · rw [rd_finish s _ (by decide), e, failed.2.1 _ (by decide) low.1, rd_ccnt_same, (only_attemptOver s k).2.1 _ (by decide) low.2.1]
  · rw [txReq, stat, stat]
    exact txFailed_ends _ (by rwa [flag_congr ctrl])
  · rw [txReq, stat, ← txReq, txFailed_stays _ na (by rwa [flag_congr ctrl]) (by rwa [fget_congr ctrl]), txReq, ccnt,
      flag_congr (rd_bump_ne _ _ p3), ← txReq, txReq_attemptOver, hr]
  · rw [e]
    exact units_finished (units_trans (only_attemptLost s k).1 failed.1) s

/-- The end of an attempt in error, whether or not its object ends with it. -/
theorem only_errorTaken (s : State) (k : Nat) (ab : Bool) (lec : Nat) : Only [.can] [Reg.canObjStat k, Reg.canEvt] (attemptErred s k lec)
    (if (attemptErred s k lec).can.busOff then attemptErred s k lec else txFailed (attemptErred s k lec) k ab) :=
  (Only.refl _ _ _).ite (only_txFailed _ k ab)

theorem errorTaken_can (s : State) (k : Nat) (ab : Bool) (lec : Nat) : ∃ x,
    (if (attemptErred s k lec).can.busOff then attemptErred s k lec else txFailed (attemptErred s k lec) k ab).can =
      { (attemptErred s k lec).can with fails := x } := by
  split
  · exact ⟨(attemptErred s k lec).can.fails, rfl⟩
  · exact txFailed_can _ k ab

theorem attempt_errs (ha : awake s = true) (h : s.can.tx = some (k, f, ab)) {lec : Fin 8} (hl : lec.val ≠ 3)
    (ht : s.can.tec ≤ 247) (ago : Nat) : Ends (.canTransmitEnd (.error lec true) ago) s fun t =>
      t.can.tx = none ∧ t.can.tec = s.can.tec + 8 ∧ fget t Reg.canStat 31 29 = lec.val ∧
      rd t (Reg.canCnt 3) = (rd s (Reg.canCnt 3) + 1) % 2 ^ 48 ∧ keepsUnits [.can] s t := by
  have e := canTxEnd_error h hl true ago
  have over_ := only_attemptOver s k
  have erred := only_protoErr (attemptOver s k) lec
  obtain ⟨code, -, count⟩ := protoErr_records (attemptOver s k) lec.isLt
  have calm : attemptErred s k lec = errMarked (protoErr (attemptOver s k) lec) (s.can.tec + 8) s.can.rec_ := by
    rw [attemptErred, attemptOver_can]
    exact canErrors_calm _ (by simp only; omega) _
  have marked := only_errMarked (protoErr (attemptOver s k) lec) (s.can.tec + 8) s.can.rec_
  rw [← calm] at marked
  have taken := only_errorTaken s k ab lec
  obtain ⟨x, can⟩ := errorTaken_can s k ab lec
  have before : (attemptErred s k lec).can = { s.can with
      tx := none
      tec := s.can.tec + 8 } := by
    rw [calm, errMarked_can, erred.1 .can (by simp), attemptOver_can]
  have low : Reg.canStat ∉ [Reg.canObjStat k, Reg.canEvt] ∧ Reg.canCnt 3 ∉ [Reg.canObjStat k, Reg.canEvt] ∧
      Reg.canCnt 3 ∉ [Reg.canObjStat k] := by
    simp only [Reg.canObjStat, Reg.canCnt, Reg.canEvt, Reg.canStat, List.mem_cons, List.not_mem_nil, or_false, not_or]
    omega
  refine ends_of (core_canTransmitEnd (.error lec true) ago ha) ?_
  rw [e]
  refine ⟨?_, ?_, ?_, ?_, ?_⟩
  · rw [finish_can, can, before]
  · rw [finish_can, can, before]
  · rw [fget_congr (rd_finish s _ (by decide)), fget_congr (taken.2.1 _ (by decide) low.1), fget_congr (marked.2.1 _ (by decide) (by decide)),
      code]
  · rw [rd_finish s _ (by decide), taken.2.1 _ (by decide) low.2.1, marked.2.1 _ (by decide) (by decide), count,
      over_.2.1 _ (by decide) low.2.2]
  · exact units_finished (units_trans (units_trans (units_trans over_.1 (units_mono erred.1 (by simp))) marked.1) taken.1) s

end Attempts

/-! ### Bus-off and recovery (R482) -/

section Recovery
variable {s : State}

/-- The control word taken, whatever of it was refused. -/
def ctrlTaken (s : State) (m v : Nat) : State :=
  let shut := !bitOf (rd s Reg.canCtrl) 0 && decide (bitsOf v 20 16 ≠ bitsOf (rd s Reg.canCtrl) 20 16)
  let s1 := fput (commitFields s m Reg.canCtrl (if shut then putBits v 20 16 (bitsOf (rd s Reg.canCtrl) 20 16) else v)) Reg.canCtrl 31 31 0
  if shut then rsvd s1 m Reg.canCtrl else s1

theorem only_ctrlTaken (s : State) (m v : Nat) : Only [] (Reg.canCtrl :: errRegs) s (ctrlTaken s m v) := by
  have taken (x : Nat) : Only [] (Reg.canCtrl :: errRegs) s (fput (commitFields s m Reg.canCtrl x) Reg.canCtrl 31 31 0) :=
    (only_commitFields s m Reg.canCtrl x).fput _ _ _ (by simp)
  unfold ctrlTaken
  dsimp only
  exact ((taken _).more (only_rsvd _ _ _) (by simp) (by simp)).ite (taken _)

/-- A controller shut, or about to be, is off the bus. -/
def offBus (u : State) (c : Bool) : State := if c then withCan u { u.can with
  joined := false
  tx := none } else u

theorem only_offBus (u : State) (c : Bool) : Only [.can] [] u (offBus u c) := (only_withCan _ _).ite (Only.refl _ _ u)

theorem offBus_can (u : State) (c : Bool) : ∃ j x, (offBus u c).can = { u.can with
    joined := j
    tx := x } := by
  cases c
  · exact ⟨u.can.joined, u.can.tx, rfl⟩
  · exact ⟨false, none, rfl⟩

theorem canCtrlWrite_eq (m v : Nat) (hv : bitOf v 31 = true) : canCtrlWrite s m v =
    (let u := offBus (ctrlTaken s m v) (bitOf v 0 || bitOf (rd s Reg.canCtrl) 0)
     if u.can.busOff then withCan u { u.can with recovering := true } else u) := by
  rw [canCtrlWrite]
  simp only [hv, true_and]
  rfl

theorem recover_starts {m : Requester} {v : BitVec 32} (hw : mayWrite s m Reg.canCtrl 4 = true) (hv : bitOf v.toNat 31 = true) :
    Ends (.recover m v) s fun t =>
      t.can.recovering = (s.can.busOff || s.can.recovering) ∧ t.can.busOff = s.can.busOff ∧
      Only [.can] ([Reg.canCtrl] ++ errRegs ++ portRegs m) s t := by
  have taken := only_ctrlTaken (portCount s m) m.code v.toNat
  have off := only_offBus (ctrlTaken (portCount s m) m.code v.toNat) (bitOf v.toNat 0 || bitOf (rd (portCount s m) Reg.canCtrl) 0)
  obtain ⟨j, x, can⟩ := offBus_can (ctrlTaken (portCount s m) m.code v.toNat)
    (bitOf v.toNat 0 || bitOf (rd (portCount s m) Reg.canCtrl) 0)
  rw [taken.1 .can (by simp), portCount_can] at can
  have frame (u : State) (h : Only [.can] [] (offBus (ctrlTaken (portCount s m) m.code v.toNat)
      (bitOf v.toNat 0 || bitOf (rd (portCount s m) Reg.canCtrl) 0)) u) :
      Only [.can] ([Reg.canCtrl] ++ errRegs ++ portRegs m) s (finish s u) :=
    Only.counted (((taken.trans off).trans h).mono (by simp) (by simp [errRegs]))
  refine ends_of (exec_recover v hw) ?_
  rw [canCtrlWrite_eq _ _ hv]
  dsimp only
  cases hb : s.can.busOff
  · rw [if_neg (by rw [can]; simp [hb]), finish_can, can]
    exact ⟨rfl, hb, frame _ (Only.refl _ _ _)⟩
  · rw [if_pos (by rw [can]; exact hb), finish_can]
    exact ⟨rfl, (by rw [withCan, can]; exact hb), frame _ (only_withCan _ _)⟩

theorem recovered_shut (ha : awake s = true) (h : flag s Reg.canCtrl 0 = true) (n : Nat) :
    Ends (.recovered n) s fun t => Only [] [] s t := by
  refine ends_of (core_recovered n ha) ?_
  rw [canRecovered, if_pos (by simp [canInit, h])]
  exact only_finish s s

theorem recovered_counts (ha : awake s = true) (h : flag s Reg.canCtrl 0 = false) (hb : s.can.busOff = true)
    (hr : s.can.recovering = true) {n : Nat} (hn : s.can.recov + n < 128) : Ends (.recovered n) s fun t =>
      t.can = { s.can with recov := s.can.recov + n } ∧ Only [.can] [] s t := by
  have e : canRecovered s n = withCan s { s.can with recov := s.can.recov + n } := by
    rw [canRecovered, if_neg (by simp [canInit, h, hb, hr])]
    dsimp only
    rw [if_pos (by omega), Nat.min_eq_right (by omega)]
    rfl
  refine ends_of (core_recovered n ha) ?_
  rw [e, finish_can]
  exact ⟨rfl, (only_withCan _ _).finished⟩

theorem recovered_ends (ha : awake s = true) (h : flag s Reg.canCtrl 0 = false) (hb : s.can.busOff = true)
    (hr : s.can.recovering = true) {n : Nat} (hn : 128 ≤ s.can.recov + n) : Ends (.recovered n) s fun t =>
      t.can.busOff = false ∧ t.can.recovering = false ∧ t.can.tec = 0 ∧ t.can.rec_ = 0 ∧ flag t Reg.canEvt 7 = true ∧
      Only [.can] [Reg.canEvt] s t := by
  have e : canRecovered s n = cevt (withCan s { s.can with
      tec := 0
      rec_ := 0
      busOff := false
      recovering := false
      recov := 128 }) 7 := by
    rw [canRecovered, if_neg (by simp [canInit, h, hb, hr])]
    dsimp only
    rw [if_neg (by omega)]
    rfl
  refine ends_of (core_recovered n ha) ?_
  rw [e, finish_can, cevt, setEvt_can]
  refine ⟨rfl, rfl, rfl, rfl, ?_, ((only_withCan _ _).trans (only_setEvt _ _ _)).finished⟩
  rw [flag_congr (rd_finish s _ (by decide))]
  exact flag_setEvt_same _ _ _ (by decide)

end Recovery

/-- Settles O52: reception by the first object that fits, transmission by how the attempt ends, recovery by the count of sequences
(R476, R478–R482, R484). -/
theorem canControllerSendsReceivesAndRecovers : Obligations.CanControllerSendsReceivesAndRecovers := by
  unfold Obligations.CanControllerSendsReceivesAndRecovers
  intro s ha
  refine ⟨canJoin_joins ha, fun f heavy ago hi hj hb hr hm => ⟨receive_lost ha f heavy ago hi hj hb hr hm, fun k hk hv hd hf hx hl hc =>
      receive_stored ha f heavy ago hi hj hb hr hm hk hv hd hf hx hl hc⟩,
    fun f lec heavy ago hi hj hb hm hl => receive_error ha f lec heavy ago hi hj hb hm hl,
    fun m n hw => ⟨fun hh => ?_, txreq_asks hw, fun hh ht => ⟨abort_ends hw hh ht, abort_marks hw hh ht⟩⟩,
    fun k f ab ago h _ hr => ⟨fun hm ht => attempt_succeeds ha h hm ht ago, attempt_lost ha h hr ago,
      fun lec hl ht => attempt_errs ha h hl ht ago⟩,
    fun m v hw hv => recover_starts hw hv, fun n h => recovered_shut ha h n,
    fun n h hb hr => ⟨recovered_counts ha h hb hr, recovered_ends ha h hb hr⟩⟩
  have hw' : mayWrite s m (objOff n 3) 4 = true := by rwa [objOff_stat]
  exact ⟨held_refuses hh (exec_txreq n hw'), held_refuses hh (exec_abort n hw')⟩

end Sys2Proof.Machine
end

section
namespace Sys2Proof.Machine

/-! ### A bridge read that finds the outbound completion entries taken -/

/-- A 4-byte BRD frame from position 3 to position 2, of the register at own-space offset `off`. -/
def farRead (off : Nat) : BFrame := ⟨4, 2, 3, 17, false, 0, 0, off, 0⟩

/-- A completion that stands in an outbound entry of the port, not sent yet. -/
def waitingCpl : OutEnt := ⟨⟨5, 3, 2, 16, false, 0, 0, 0, 0⟩, 0, none, 0⟩

/-- A port that is UP with seven of its eight outbound completion entries taken. -/
def sevenCpls : WPort := { WPort.off with
  state := 4
  lanes := 15
  out := List.replicate 7 waitingCpl }

/-- A device in READY at position 2 of a chain of four. The scratchpad serves a read for its port 1, which keeps the last
outbound completion entry for the answer (R399). -/
def lastEntryKept : State :=
  { State.reset with
    pwr := { PwrSt.zero with st := .ready }
    img := { ImgSt.zero with
      applied := true
      weltPos := 2
      weltCount := 4 }
    wlt := { WltSt.zero with ports := [(1, sevenCpls)] }
    brg := { BrgSt.zero with cur := some (1, farRead spmBase, []) } }

/-- The header of a 4-byte BRD frame from position 3 to position 2, with LSEQ 0 and WSN 17. -/
def farReadHead : BitVec 64 := BitVec.ofNat 64 (4 * 2 ^ 60 + 2 * 2 ^ 45 + 3 * 2 ^ 42 + 17 * 2 ^ 26)

/-- Refutes O45: the statement has a register read counted in BRG_CNT[3] on arrival whenever fewer than 8 outbound completion
entries are taken. With 7 taken, and the eighth kept for the scratchpad read in progress, the frame waits in its entry (R399) and
nothing is counted yet. -/
theorem not_bridgeWritesReadsAndFailuresAreAccounted : ¬ Obligations.BridgeWritesReadsAndFailuresAreAccounted := by
  unfold Obligations.BridgeWritesReadsAndFailuresAreAccounted
  intro holds
  obtain ⟨-, -, -, -, -, -, frames, -⟩ := holds lastEntryKept (by decide +kernel)
  obtain ⟨-, -, -, reads⟩ := frames 1 farReadHead (leBytes 4 Reg.imgId) (farRead Reg.imgId) (by decide +kernel)
    (by decide +kernel) (by decide +kernel) (by decide +kernel) (by decide +kernel) (by decide +kernel)
  obtain ⟨t, ht, counted, -⟩ := reads (by decide +kernel) (by decide +kernel) (by decide +kernel) (by decide +kernel)
    (by decide +kernel)
  rw [core_brd _ _ _ (by decide +kernel)] at ht
  injection ht with e
  rw [← e, rd_finish _ _ (by decide)] at counted
  have uncounted : rd (bridgeReceive lastEntryKept 1 4 farReadHead.toNat (leBytes 4 Reg.imgId)) (Reg.brgCnt 3) = 0 := by
    decide +kernel
  exact absurd (uncounted.symm.trans counted) (by decide +kernel)

end Sys2Proof.Machine
end

section
namespace Sys2Proof.Machine

/-! ### A W1C bit that the hardware sets in the cycle of its clearing (R9, R11) -/

/-- A device in READY whose bench core is SECURE, with SEQ_CTRL's bit kept as one that the hardware has latched in this cycle. -/
def secureLatchedNow : State :=
  { wr State.reset Reg.seqCtrl 1 with
    pwr := { PwrSt.zero with st := .ready }
    seq := { SeqSt.zero with running := true }
    now := { NowSt.none with evts := [(Reg.seqCtrl, 0)] } }

/-- Refutes O51: a clear by software does not take away a bit that the hardware has set in the same cycle (R11), and the model
holds this of SEQ_CTRL.SECURE too, whose write of 1 the statement lets clear it in every state. Of a state in which SECURE stands
among the bits latched in this cycle, which the model has and no run reaches, SECURE_CLEAR leaves it at 1. -/
theorem not_spiTransactionsWatchdogAndMailboxesAnswer : ¬ Obligations.SpiTransactionsWatchdogAndMailboxesAnswer := by
  unfold Obligations.SpiTransactionsWatchdogAndMailboxesAnswer
  intro holds
  obtain ⟨-, -, -, -, -, -, -, clears, -⟩ := holds secureLatchedNow (by decide +kernel)
  have may : mayWrite secureLatchedNow .benchM Reg.seqCtrl 4 = true := by decide +kernel
  obtain ⟨t, ht, cleared, -⟩ := clears .benchM may
  rw [exec_secureClear may] at ht
  injection ht with e
  rw [← e, flag_congr (rd_finish _ _ (by decide))] at cleared
  exact absurd cleared (by decide +kernel)

end Sys2Proof.Machine
end

section
namespace Sys2Proof.Machine

/-! ### What sending leaves of the welt ports (R384, R385, R397, R400) -/

section WeltPorts
variable {s t u : State}

@[simp] theorem wport_setWport_same (s : State) (k : Nat) (x : WPort) : wport (setWport s k x) k = x := by
  simp [wport, setWport]

theorem wport_setWport_ne (s : State) {k j : Nat} (x : WPort) (h : j ≠ k) : wport (setWport s k x) j = wport s j := by
  simp [wport, setWport, KMap.get_set_ne _ _ _ h]

theorem wport_congr (h : t.wlt = s.wlt) (j : Nat) : wport t j = wport s j := by
  rw [wport, wport, h]

/-- What the receiving direction and the link's state keep of a port while it sends. -/
structure SameLink (x y : WPort) : Prop where
  state : y.state = x.state
  inq : y.inq = x.inq
  rcvd : y.rcvd = x.rcvd
  lastCredit : y.lastCredit = x.lastCredit
  peerFreed : y.peerFreed = x.peerFreed

theorem SameLink.refl (x : WPort) : SameLink x x := ⟨rfl, rfl, rfl, rfl, rfl⟩

theorem SameLink.trans {x y z : WPort} (h : SameLink x y) (k : SameLink y z) : SameLink x z :=
  ⟨k.state.trans h.state, k.inq.trans h.inq, k.rcvd.trans h.rcvd, k.lastCredit.trans h.lastCredit,
    k.peerFreed.trans h.peerFreed⟩

theorem SameLink.sends {x y : WPort} (h : SameLink x y) : y.sends = x.sends := by rw [WPort.sends, WPort.sends, h.state]

/-- Every port is as before but for one, whose record keeps a relation. -/
theorem wport_setWport_rel {R : WPort → WPort → Prop} (hr : ∀ x, R x x) (s : State) (k : Nat) {x : WPort}
    (h : R (wport s k) x) (j : Nat) : R (wport s j) (wport (setWport s k x) j) := by
  by_cases e : j = k
  · subst e
    rwa [wport_setWport_same]
  · rw [wport_setWport_ne s x e]
    exact hr _

/-- The counters of the frames that a port sends: keys, answers and bridge frames (R406). -/
def sentRegs (k : Nat) : List Nat := [Reg.wltCnt k 0, Reg.wltCnt k 2, Reg.wltCnt k 4]

/-- Port k has sent, and no more: links are as they were, frames only leave. -/
structure Pumps (k : Nat) (s t : State) : Prop where
  only : Only [.wlt] (sentRegs k) s t
  link : ∀ j, SameLink (wport s j) (wport t j)
  out : ∀ o ∈ s.out, o ∈ t.out

/-- The bridge frames in a port's outbound entries. -/
def outFrames (x : WPort) : List BFrame := x.out.map OutEnt.f

/-- Port k has sent from its queues: the frames in the outbound entries stay there until they are acknowledged. -/
structure Transmits (k : Nat) (s t : State) : Prop extends Pumps k s t where
  frames : ∀ j, outFrames (wport t j) = outFrames (wport s j)

theorem Pumps.refl (k : Nat) (s : State) : Pumps k s s := ⟨Only.refl _ _ s, fun _ => SameLink.refl _, fun _ h => h⟩

theorem Pumps.trans {k : Nat} (h : Pumps k s t) (g : Pumps k t u) : Pumps k s u :=
  ⟨h.only.next g.only, fun j => (h.link j).trans (g.link j), fun o ho => g.out o (h.out o ho)⟩

theorem Transmits.refl (k : Nat) (s : State) : Transmits k s s := ⟨Pumps.refl k s, fun _ => rfl⟩

theorem Transmits.trans {k : Nat} (h : Transmits k s t) (g : Transmits k t u) : Transmits k s u :=
  ⟨h.toPumps.trans g.toPumps, fun j => (g.frames j).trans (h.frames j)⟩

variable (s)

theorem only_wlcnt (k i n : Nat) : Only [] [Reg.wltCnt k i] s (wlcnt s k i n) := only_bump s _ n

theorem only_wevt (k b : Nat) : Only [] [Reg.wltEvt k] s (wevt s k b) := only_setEvt s _ b

theorem only_sendFrame (k hdr : Nat) (payload : List Byte) : Only [] [] s (sendFrame s k hdr payload) := only_setOut s _

/-- A record of a port that keeps its link and its entries' frames. -/
theorem transmits_setWport (k : Nat) {j : Nat} {x : WPort} (h : SameLink (wport s j) x)
    (hf : outFrames x = outFrames (wport s j)) : Transmits k s (setWport s j x) :=
  ⟨⟨(only_setWport s j x).mono (by simp) (by simp), wport_setWport_rel SameLink.refl s j h, fun _ ho => ho⟩,
    wport_setWport_rel (R := fun a b => outFrames b = outFrames a) (fun _ => rfl) s j hf⟩

theorem transmits_freeEntry (k p c n : Nat) : Transmits k s (freeEntry s p c n) :=
  transmits_setWport s k ⟨rfl, rfl, rfl, rfl, rfl⟩ rfl

theorem transmits_sendFrame (k hdr : Nat) (payload : List Byte) : Transmits k s (sendFrame s k hdr payload) :=
  ⟨⟨(only_sendFrame s k hdr payload).mono (by simp) (by simp), fun _ => SameLink.refl _, fun o ho => by simp [sendFrame, ho]⟩,
    fun _ => rfl⟩

theorem transmits_wlcnt {k i : Nat} (h : Reg.wltCnt k i ∈ sentRegs k) (n : Nat) : Transmits k s (wlcnt s k i n) :=
  ⟨⟨(only_wlcnt s k i n).mono (by simp) (by simpa using h), fun j => by
      rw [wport_congr ((only_wlcnt s k i n).1 .wlt (by simp))]
      exact SameLink.refl _, fun o ho => by simpa [wlcnt] using ho⟩,
    fun j => by rw [wport_congr ((only_wlcnt s k i n).1 .wlt (by simp))]⟩

/-- A frame leaves and is counted. -/
theorem transmits_sent {k i : Nat} (h : Reg.wltCnt k i ∈ sentRegs k) (hdr : Nat) (payload : List Byte) {x : WPort}
    (hl : SameLink (wport s k) x) (hf : outFrames x = outFrames (wport s k)) :
    Transmits k s (wlcnt (sendFrame (setWport s k x) k hdr payload) k i 1) :=
  ((transmits_setWport s k hl hf).trans (transmits_sendFrame _ k hdr payload)).trans (transmits_wlcnt _ h 1)

theorem transmits_keyGone (k : Nat) (y : WKey) : Transmits k s (keyGone s y) := by
  unfold keyGone
  split
  · exact transmits_freeEntry s k _ 0 1
  · exact Transmits.refl k s

theorem transmits_sendBridge (k : Nat) (e : OutEnt) : Transmits k s (sendBridge s k e) := by
  refine transmits_sent s (by simp [sentRegs]) _ _ ⟨rfl, rfl, rfl, rfl, rfl⟩ ?_
  simp only [outFrames, List.map_map]
  congr 1
  funext o
  by_cases ho : o.order = e.order <;> simp [ho]

theorem transmits_sendBridge_of_map {k : Nat} {b : Option OutEnt} (h : b.map (sendBridge s k) = some t) :
    Transmits k s t := by
  obtain ⟨e, _, rfl⟩ := Option.map_eq_some_iff.1 h
  exact transmits_sendBridge s k e

theorem transmits_sendKey (k : Nat) (y : WKey) {x : WPort} (hl : SameLink (wport s k) x)
    (hf : outFrames x = outFrames (wport s k)) :
    Transmits k s (keyGone (wlcnt (sendFrame (setWport s k x) k (keyHeader y) (keyPayload s y)) k 0 1) y) :=
  (transmits_sent s (by simp [sentRegs]) _ _ hl hf).trans (transmits_keyGone _ k y)

/-- An answer leaves; the entry that it frees, if any, is returned as credit. -/
theorem transmits_sendAns (k : Nat) (a : WAns) {x : WPort} (hl : SameLink (wport s k) x)
    (hf : outFrames x = outFrames (wport s k)) :
    Transmits k s (match a.frees with
      | some p => freeEntry (wlcnt (sendFrame (setWport s k x) k (ansHeader a) (ansPayload a)) k 2 1) p 1 1
      | none => wlcnt (sendFrame (setWport s k x) k (ansHeader a) (ansPayload a)) k 2 1) := by
  have sent := transmits_sent s (i := 2) (by simp [sentRegs]) (ansHeader a) (ansPayload a) hl hf
  split
  · exact sent.trans (transmits_freeEntry _ k _ 1 1)
  · exact sent

variable {s} in
theorem transmits_keyOrBridge {k : Nat} {x : WPort} {y : WKey} {b : Option OutEnt} {c : Prop} [Decidable c]
    (h : (if c then some (keyGone (wlcnt (sendFrame (setWport s k x) k (keyHeader y) (keyPayload s y)) k 0 1) y)
      else b.map (sendBridge s k)) = some t) (hl : SameLink (wport s k) x) (hf : outFrames x = outFrames (wport s k)) :
    Transmits k s t := by
  split at h
  · cases h
    exact transmits_sendKey s k y hl hf
  · exact transmits_sendBridge_of_map s h

variable {s} in
theorem transmits_sendOne {k : Nat} (h : sendOne s k = some t) : Transmits k s t := by
  unfold sendOne at h
  simp only at h
  split at h
  · cases h
  · split at h
    · cases h
      exact transmits_sendBridge s k _
    · split at h
      · cases h
        refine transmits_sendAns s k _ (x := { noteSent (wport s k) 1 with
          ansq := _
          inRow := _ }) ?_ ?_
        · exact ⟨rfl, rfl, rfl, rfl, rfl⟩
        · rfl
      · split at h
        · exact transmits_keyOrBridge h ⟨rfl, rfl, rfl, rfl, rfl⟩ rfl
        · exact transmits_sendBridge_of_map s h
    · exact transmits_keyOrBridge h ⟨rfl, rfl, rfl, rfl, rfl⟩ rfl
    · exact transmits_sendBridge_of_map s h

theorem transmits_sendAll (k fuel : Nat) : Transmits k s (sendAll s k fuel) := by
  induction fuel generalizing s with
  | zero => exact Transmits.refl k s
  | succ n ih =>
    rw [sendAll]
    split
    · exact (transmits_sendOne (by assumption)).trans (ih _)
    · exact Transmits.refl k s

theorem sameLink_admitWaiting (x : WPort) (shut : List Nat) (l : List BFrame) : SameLink x (admitWaiting x shut l).1 := by
  induction l generalizing x shut with
  | nil => exact SameLink.refl x
  | cons f l ih =>
    rw [admitWaiting]
    split
    · have taken : SameLink x (enqueue x f) := ⟨rfl, rfl, rfl, rfl, rfl⟩
      exact taken.trans (ih _ _)
    · exact ih _ _

/-- The frames that waited have taken the outbound entries they could. -/
def admitted (k : Nat) : State :=
  if (wport s k).waitq = [] then s
  else setWport s k { (admitWaiting { wport s k with waitq := [] } [] (wport s k).waitq).1 with
    waitq := (admitWaiting { wport s k with waitq := [] } [] (wport s k).waitq).2 }

theorem pumps_admitted (k : Nat) : Pumps k s (admitted s k) := by
  have kept := sameLink_admitWaiting { wport s k with waitq := [] } [] (wport s k).waitq
  unfold admitted
  split
  · exact Pumps.refl k s
  · exact ⟨(only_setWport s k _).mono (by simp) (by simp), wport_setWport_rel SameLink.refl s k
      ⟨kept.state, kept.inq, kept.rcvd, kept.lastCredit, kept.peerFreed⟩, fun _ ho => ho⟩

theorem portPump_eq (k : Nat) : portPump s k = sendAll (admitted s k) k
    ((wport (admitted s k) k).keyq.length + (wport (admitted s k) k).ansq.length + (wport (admitted s k) k).out.length) := rfl

theorem pumps_portPump (k : Nat) : Pumps k s (portPump s k) :=
  (pumps_admitted s k).trans (transmits_sendAll _ _ _).toPumps

/-- The entries' frames after the port has moved are those that were there and those admitted. -/
theorem outFrames_portPump (k j : Nat) : outFrames (wport (portPump s k) j) = outFrames (wport (admitted s k) j) :=
  (transmits_sendAll _ _ _).frames j

variable {s}

/-- A port that does not send keeps its queues as they are. -/
theorem sendAll_of_not_sends {k : Nat} (h : (wport s k).sends = false) (n : Nat) : sendAll s k n = s := by
  cases n with
  | zero => rfl
  | succ n =>
    have none_ : sendOne s k = none := by
      unfold sendOne
      simp [h]
    rw [sendAll, none_]

theorem mem_wltCnt_sentRegs {k i j : Nat} (hi : i < 12) (h : Reg.wltCnt k i ∈ sentRegs j) : i = 0 ∨ i = 2 ∨ i = 4 := by
  simp only [sentRegs, List.mem_cons, List.not_mem_nil, or_false, Reg.wltCnt] at h
  omega

end WeltPorts

end Sys2Proof.Machine
end

section
namespace Sys2Proof.Machine

/-! ### Reserved offsets of the own space (R543) -/

/-- A row that names the word's place makes it a register. -/
theorem wordAt_isSome_of_row {off : Nat} {r : RegRow} (hr : r ∈ blockRows (off / 0x10000)) (hh : (r.hit off).isSome = true) :
    (wordAt off).isSome = true := by
  have found : (regRow off).isSome = true := List.find?_isSome.2 ⟨r, hr, hh⟩
  obtain ⟨q, hq⟩ := Option.isSome_iff_exists.1 found
  have hit : (q.hit off).isSome = true := List.find?_some (p := fun r : RegRow => (r.hit off).isSome) hq
  rw [wordAt, hq]
  exact (Option.isSome_map ..).trans hit

/-- The row names word w of every object of the message memory: 128 objects, 128 bytes each. -/
def namesObjectWord (r : RegRow) (w : Nat) : Bool :=
  decide (r.n1 = 128) && decide (r.s1 = 128) && decide (0x144000 ≤ r.base) && decide (r.base ≤ 0x144000 + 4 * w) &&
    decide ((0x144000 + 4 * w - r.base) % r.s2 = 0) && decide ((0x144000 + 4 * w - r.base) / r.s2 < r.n2)

theorem hit_of_namesObjectWord {r : RegRow} {i w : Nat} (h : namesObjectWord r w = true) (hi : i < 128) (hw : w < 32) :
    (r.hit (0x144000 + 128 * i + 4 * w)).isSome = true := by
  simp only [namesObjectWord, Bool.and_eq_true, decide_eq_true_eq] at h
  obtain ⟨⟨⟨⟨⟨n1, s1⟩, lo⟩, hi'⟩, at_⟩, lt⟩ := h
  have q1 : (0x144000 + 128 * i + 4 * w - r.base) / 128 = i := by omega
  have q2 : (0x144000 + 128 * i + 4 * w - r.base) % 128 = 0x144000 + 4 * w - r.base := by omega
  simp only [RegRow.hit, s1, q1, q2]
  rw [if_neg (by omega), if_pos ⟨at_, by omega, lt⟩]
  rfl

/-- Every word of an object but the high word of its time stamp begins a register. -/
theorem objectWord_listed : ∀ w : Fin 32, w.val ≠ 5 → ∃ r ∈ blockRows 0x14, namesObjectWord r w = true := by decide +kernel

/-- The high words of the objects' time stamps. -/
theorem wordAt_objectTime_high : ∀ i : Fin 128, (wordAt (0x144000 + 128 * i.val + 4 * 5)).isSome = true := by decide +kernel

/-- Every word of the message memory is a register's: none of it is reserved (R478, R543). -/
theorem wordAt_object {i w : Nat} (hi : i < 128) (hw : w < 32) : (wordAt (0x144000 + 128 * i + 4 * w)).isSome = true := by
  by_cases h : w = 5
  · subst h
    exact wordAt_objectTime_high ⟨i, hi⟩
  · obtain ⟨r, hr, names⟩ := objectWord_listed ⟨w, hw⟩ h
    have block : (0x144000 + 128 * i + 4 * w) / 0x10000 = 0x14 := by omega
    exact wordAt_isSome_of_row (by rwa [block]) (hit_of_namesObjectWord names hi hw)

theorem inObjs_of_reserved {off : Nat} (hn : wordAt off = none) (ha : off % 4 = 0) : inObjs off = false := by
  rw [Bool.eq_false_iff]
  intro h
  simp only [inObjs, Bool.and_eq_true, decide_eq_true_eq] at h
  have word := wordAt_object (i := (off - 0x144000) / 128) (w := (off - 0x144000) % 128 / 4) (by omega) (by omega)
  have place : 0x144000 + 128 * ((off - 0x144000) / 128) + 4 * ((off - 0x144000) % 128 / 4) = off := by omega
  rw [place, hn] at word
  cases word

section Reserved
variable {s : State} {m : Requester} {off : Nat}

theorem objBad_of_reserved (s : State) (hn : wordAt off = none) (ha : off % 4 = 0) : objBad s off = false := by
  rw [objBad, inObjs_of_reserved hn ha, Bool.false_and]

section At
variable (hn : wordAt off = none) (ha : off % 4 = 0) (hb : off < spmBase)
include hn ha hb

/-- A write changes nothing; a PCIe access is told (R543). -/
theorem ownWrite_reserved (s : State) (m : Requester) (v : Nat) : ownWrite s m off (leBytes 4 v) = unmapped s m := by
  have shape : shapeOk off 4 = true := by simp [shapeOk, ha]
  simp [ownWrite, Nat.not_le.2 hb, shape, regWrite, write4, hn]

/-- A read returns zero; a PCIe access is told (R543). -/
theorem ownRead_reserved (s : State) (m : Requester) : ownRead s m off 4 = giveData (unmapped s m) m off 4 0 := by
  have shape : shapeOk off 4 = true := by simp [shapeOk, ha]
  simp [ownRead, Nat.not_le.2 hb, shape, regRead, read4, hn, giveRead, objBad_of_reserved s hn ha]

end At

/-- A place of the registers and the direct view is neither the MSI-X table nor its pending bits. -/
theorem not_msix_of_own (hb : off < spmBase) : isMsix off = false ∧ isPba off = false := by
  have : off < 0x180000 := hb
  exact ⟨by simp [isMsix]; omega, by simp [isPba]; omega⟩

/-- A read of the register space by an endpoint that reaches it. -/
theorem busRead_pcie {f : Nat} (hf : fnOf m = some f) (hw : mayWrite s m off 4 = true) (hb : off < spmBase) :
    busRead s m off 4 = ownRead (portCount s m) m off 4 := by
  obtain ⟨h1, h2⟩ := not_msix_of_own hb
  have own : off < ownEnd := Nat.lt_of_lt_of_le hb (by decide)
  have ha := awake_of_mayWrite hw
  unfold mayWrite at hw
  rw [Bool.and_eq_true] at hw
  obtain ⟨-, hr⟩ := hw
  cases m <;> simp only [fnOf, reduceCtorEq] at hf <;> simp only [Bool.and_eq_true] at hr <;>
    simp [busRead, pcieRead, ha, hr, h1, h2, own, barRead, portCount, fnOf]

/-- An access by the bench core, once it runs. -/
theorem bench_own (hm : m = .benchM ∨ m = .benchU) (hr : s.seq.running = true) (hb : off < spmBase) :
    (∀ v, busWrite s m off (leBytes 4 v) = ownWrite s m off (leBytes 4 v)) ∧ busRead s m off 4 = ownRead s m off 4 := by
  obtain ⟨h1, h2⟩ := not_msix_of_own hb
  have own : off < ownEnd := Nat.lt_of_lt_of_le hb (by decide)
  rcases hm with rfl | rfl <;> simp [busWrite, benchWrite, barWrite, busRead, benchRead, barRead, hr, h1, h2, own]

theorem unmapped_pcie (s : State) {f : Nat} (hf : fnOf m = some f) : unmapped s m = setEvt s (Reg.hstPcieEvt f) 1 := by
  rw [unmapped, hf]

theorem unmapped_other (s : State) (hf : fnOf m = none) : unmapped s m = s := by rw [unmapped, hf]

theorem fnOf_lt {f : Nat} (hf : fnOf m = some f) : f < 2 := by
  cases m <;> simp only [fnOf, reduceCtorEq, Option.some.injEq] at hf <;> omega

theorem flag_unmapped (s : State) {f : Nat} (hf : fnOf m = some f) : flag (unmapped s m) (Reg.hstPcieEvt f) 1 = true := by
  rw [unmapped_pcie s hf, flag_setEvt_same _ _ _ (by decide)]

theorem hstPcieEvt_not_msg {f : Nat} (h : f < 2) : Reg.hstPcieEvt f ∉ msgRegs := by
  simp only [msgRegs, List.mem_cons, List.not_mem_nil, or_false, Reg.hstPcieEvt, Reg.hstPcieCnt]
  omega

end Reserved

section PciePort
variable {s : State} {m : Requester} {off : BitVec 25} {f : Fin 2}

theorem only_unmapped_counted (s : State) (hf : fnOf m = some f.val) :
    Only [] [Reg.hstPcieEvt f, Reg.hstPcieCnt f 0] s (unmapped (portCount s m) m) := by
  have counted : Only [] [Reg.hstPcieCnt f 0] s (portCount s m) := by
    have h := only_portCount s m
    rwa [portRegs, hf] at h
  rw [unmapped_pcie _ hf]
  exact (counted.trans (only_setEvt _ _ _)).mono (by simp) (by simp)

variable (hn : wordAt off.toNat = none) (ha : off.toNat % 4 = 0) (hb : off.toNat < spmBase) (hf : fnOf m = some f.val)
  (hw : mayWrite s m off.toNat 4 = true)
include hn ha hb hf hw

/-- A PCIe write at a reserved offset (R457, R543). -/
theorem pcieWrite_reserved (v : BitVec 32) : Ends (.registerWrite m off (leBytes 4 v.toNat)) s fun t =>
    flag t (Reg.hstPcieEvt f) 1 = true ∧ Only [] [Reg.hstPcieEvt f, Reg.hstPcieCnt f 0] s t := by
  refine ends_of (core_registerWrite _ _ _ (awake_of_mayWrite hw)) ?_
  rw [busWrite_own _ (length_leBytes 4 _) hw hb, ownWrite_reserved hn ha hb,
    flag_congr (rd_finish s _ (hstPcieEvt_not_msg f.isLt))]
  exact ⟨flag_unmapped _ hf, (only_unmapped_counted s hf).finished⟩

/-- A PCIe read at a reserved offset (R457, R543). -/
theorem pcieRead_reserved : Ends (.registerRead m off 4) s fun t =>
    Out.regData m.code off.toNat 4 0 ∈ t.out ∧ flag t (Reg.hstPcieEvt f) 1 = true ∧
    Only [] [Reg.hstPcieEvt f, Reg.hstPcieCnt f 0] s t := by
  refine ends_of (core_registerRead _ _ _ (awake_of_mayWrite hw)) ?_
  rw [busRead_pcie hf hw hb, ownRead_reserved hn ha hb, flag_congr (rd_finish s _ (hstPcieEvt_not_msg f.isLt))]
  exact ⟨mem_out_finish s (mem_out_giveData _ _ _ _ _), (flag_congr (rd_congr rfl _) 1).trans (flag_unmapped _ hf),
    ((only_unmapped_counted s hf).more (only_giveData _ _ _ _ _) (by simp) (by simp)).finished⟩

end PciePort

section CorePort
variable {s : State} {m : Requester} {off : BitVec 25} (ha : awake s = true)
variable (hn : wordAt off.toNat = none) (ho : off.toNat % 4 = 0) (hb : off.toNat < spmBase)
include ha hn ho hb

/-- Accesses of the bench core at a reserved offset (R472, R543). -/
theorem bench_reserved (hm : m = .benchM ∨ m = .benchU) (hr : s.seq.running = true) :
    (∀ v : BitVec 32, Ends (.registerWrite m off (leBytes 4 v.toNat)) s fun t => Only [] [] s t) ∧
    (Ends (.registerRead m off 4) s fun t => Out.regData m.code off.toNat 4 0 ∈ t.out ∧ Only [] [] s t) := by
  obtain ⟨write, read⟩ := bench_own (s := s) hm hr hb
  have port : fnOf m = none := by rcases hm with rfl | rfl <;> rfl
  constructor
  · intro v
    refine ends_of (core_registerWrite _ _ _ ha) ?_
    rw [write, ownWrite_reserved hn ho hb, unmapped_other s port]
    exact (Only.refl _ _ s).finished
  · refine ends_of (core_registerRead _ _ _ ha) ?_
    rw [read, ownRead_reserved hn ho hb, unmapped_other s port]
    exact ⟨mem_out_finish s (mem_out_giveData _ _ _ _ _), (only_giveData _ _ _ _ _).finished⟩

end CorePort

/-! The SPI port (R468–R471). -/

section SpiPort
variable (s : State)

theorem only_setSpi (x : SpiSt) : Only [.spi] [] s { s with spi := x } :=
  only_units (fun u hu => by cases u <;> simp [UnitName.same] at *) rfl rfl

theorem only_spiPend (p : SpiResp) : Only [.spi] [] s (spiPend s p) := only_setSpi s _

theorem only_spiDone : Only [.spi] [Reg.hstSpiCnt 0] s (spiDone s) := (only_setSpi s _).trans (only_bump _ _ _)

variable {s}
/-- What an SPI transaction that is executed with no data and no flag leaves. -/
theorem spi_answered {x : BitVec 64} {w : Nat} (ha : awake s = true)
    (he : spiTransaction s 64 x.toNat = spiPend (spiDone s) ⟨true, false, false, false, w, 0⟩) :
    Ends (.spiTransaction 64 x) s fun t =>
      t.spi.pend = some ⟨true, false, false, false, w, 0⟩ ∧ Only [.spi] [Reg.hstSpiCnt 0] s t := by
  refine ends_of (core_spiTransaction 64 x ha) ?_
  rw [he, finish_spi]
  exact ⟨rfl, ((only_spiDone s).more (only_spiPend _ _) (by simp) (by simp)).finished⟩

variable {x : BitVec 64} (ha : awake s = true) (hr : s.spi.refusing = false) (hc : bitsOf x.toNat 7 0 = spiCrc x.toNat)
include ha hr hc

theorem spiTransaction_read (ho : bitsOf x.toNat 63 62 = 1) (hp : bitsOf x.toNat 42 40 = myPos s) :
    spiTransaction s 64 x.toNat = spiRead s (bitsOf x.toNat 61 43) := by
  simp [spiTransaction, ha, hr, hc, ho, hp]

theorem spiTransaction_write (ho : bitsOf x.toNat 63 62 = 2) (hp : bitsOf x.toNat 42 40 = myPos s) :
    spiTransaction s 64 x.toNat = spiWrite s (bitsOf x.toNat 61 43) (bitsOf x.toNat 39 8) := by
  simp [spiTransaction, ha, hr, hc, ho, hp]

variable {off : Nat} (hn : wordAt off = none) (hm : off % 4 = 0) (hb : off < spmBase) (hx : 4 * bitsOf x.toNat 61 43 = off)
include hn hm hb hx

/-- An SPI READ at a reserved offset (R470, R543). -/
theorem spiRead_reserved (ho : bitsOf x.toNat 63 62 = 1) (hp : bitsOf x.toNat 42 40 = myPos s)
    (hh : hostReach s off 4 = true) : Ends (.spiTransaction 64 x) s fun t =>
      t.spi.pend = some ⟨true, false, false, false, bitsOf x.toNat 61 43, 0⟩ ∧ Only [.spi] [Reg.hstSpiCnt 0] s t := by
  refine spi_answered ha ?_
  rw [spiTransaction_read ha hr hc ho hp]
  simp [spiRead, hx, hh, Nat.not_le.2 hb, read4, hn, objBad_of_reserved s hn hm]

/-- An SPI WRITE at a reserved offset (R470, R543). -/
theorem spiWrite_reserved (ho : bitsOf x.toNat 63 62 = 2) (hp : bitsOf x.toNat 42 40 = myPos s)
    (hw : spiMayWrite s off = true) : Ends (.spiTransaction 64 x) s fun t =>
      t.spi.pend = some ⟨true, false, false, false, bitsOf x.toNat 61 43, 0⟩ ∧ Only [.spi] [Reg.hstSpiCnt 0] s t := by
  refine spi_answered ha ?_
  rw [spiTransaction_write ha hr hc ho hp]
  simp [spiWrite, hx, hw, ownWrite_reserved hn hm hb, unmapped_other (m := .spi) _ rfl]

end SpiPort

end Sys2Proof.Machine
end

section
namespace Sys2Proof.Machine

/-! ### A bridge write at a reserved offset (R397, R400, R543) -/

section Bridge
variable {s : State} {k : Nat} {f : BFrame}

/-- A port as a frame with the next LSEQ leaves it, when the port does not count it against a completion. -/
def received (x : WPort) (f : BFrame) : WPort :=
  { x with
    expSeq := (x.expSeq + 1) % 4096
    rcvd := x.rcvd.setNat f.cls (x.rcvd.nat f.cls + 1)
    inq := x.inq ++ [f] }

theorem bridgeReceive_posted {h : Nat} {payload : List Byte} (hs : (wport s k).state = 4) (ht : bitsOf h 63 60 = 3)
    (he : bitsOf h 59 48 = (wport s k).expSeq) :
    bridgeReceive s k 3 h payload =
      auditBridge (drainBridge (setWport s k (received (wport s k) (frameOf h payload)))) k := by
  rw [bridgeReceive, if_neg (by simp [hs, ht, he])]
  rfl

/-- The only frame that waits, which may be taken, is taken; then neither port has one. -/
theorem drainBridge_one {u : State} (hk : k < 2) (hq : (wport s k).inq = [f]) (hother : (wport s (1 - k)).inq = [])
    (htake : canTake s k f = true) (hu : takeFrame s k f = u) (h1 : (wport u 1).inq = []) :
    drainBridge s = u := by
  have first : nextFrame s k [] [f] = some f := by simp [nextFrame, htake]
  have one (n : Nat) (hn : n = 1) : drainPort s k n = u := by
    subst hn
    rw [drainPort, hq, first]
    exact hu
  rcases (by omega : k = 0 ∨ k = 1) with rfl | rfl
  · rw [drainBridge, one _ (by rw [hq]; rfl), h1]
    rfl
  · rw [drainBridge, hother]
    exact one _ (by rw [show drainPort s 0 [].length = s from rfl, hq]; rfl)

/-- A frame of the port for this device leaves its entry free. -/
def entryFreed (s : State) (k : Nat) (f : BFrame) : State :=
  freeEntry (setWport s k { wport s k with inq := (wport s k).inq.erase f }) k f.cls 1

theorem takeFrame_here (hd : f.dst = myPos s) : takeFrame s k f = actFrame (entryFreed s k f) k f := by
  rw [takeFrame, if_pos hd]
  rfl

/-- The write's LOCKED flag as before, after a write that no register took. -/
def lockedKept (s : State) : State :=
  if flag s Reg.topErr 1 then setEvt (fput s Reg.topErr 1 1 0) Reg.topErr 1 else fput s Reg.topErr 1 1 0

theorem only_lockedKept (s : State) : Only [] [Reg.topErr] s (lockedKept s) :=
  ((only_fput s _ _ _ _).setEvt _ (by simp)).ite (only_fput s _ _ _ _)

/-- No register lies there: NOADDR (R397, R543). -/
theorem bridgeRegWrite_reserved (s : State) {f : BFrame} (hsize : f.size = false) (hn : wordAt f.off = none)
    (ha : f.off % 4 = 0) : bridgeRegWrite s f = (lockedKept s, 1) := by
  have len : f.len = 4 := by simp [BFrame.len, hsize]
  have shape : shapeOk f.off 4 = true := by simp [shapeOk, ha]
  have other : ¬ f.off / 4 = Reg.topErr / 4 := by
    intro e
    have at_ : f.off = Reg.topErr := by
      simp only [Reg.topErr] at e ⊢
      omega
    rw [at_] at hn
    exact absurd hn (by decide +kernel)
  have cleared : flag (fput s Reg.topErr 1 1 0) Reg.topErr 1 = false := by
    rw [flag_fput_same _ _ (by decide)]
    rfl
  simp only [bridgeRegWrite, len, shape, Bool.not_true, Bool.false_eq_true, if_false, other, regWrite, write4, hn,
    (by decide : ¬ (4 = 8)), cleared, Bool.not_false, if_true, lockedKept]

theorem admitWaiting_one {x : WPort} {n : BFrame} (h : canQueue x n = true) : admitWaiting x [] [n] = (enqueue x n, []) := by
  simp [admitWaiting, h]

theorem outFrames_admitted {p : Nat} {n : BFrame} (hw : (wport s p).waitq = [n]) (ho : (wport s p).out = [])
    (hc : n.cls = 2) : outFrames (wport (admitted s p) p) = [n] := by
  have room : canQueue { wport s p with waitq := [] } n = true := by simp [canQueue, outUsed, ho, hc, classSize]
  rw [admitted, if_neg (by simp [hw]), hw, admitWaiting_one room, wport_setWport_same]
  simp [enqueue, outFrames, ho]

theorem sameLink_queueTo (s : State) (f : BFrame) (j : Nat) : SameLink (wport s j) (wport (queueTo s f) j) := by
  refine wport_setWport_rel SameLink.refl s _ ?_ j
  exact ⟨rfl, rfl, rfl, rfl, rfl⟩

/-- The note of a failed write leaves toward its initiator: on a port with nothing queued it takes an entry at once. -/
theorem outFrames_note {p : Nat} {n : BFrame} (hp : portTo s n.dst = p) (hw : (wport s p).waitq = [])
    (ho : (wport s p).out = []) (hc : n.cls = 2) : outFrames (wport (portPump (queueTo s n) p) p) = [n] := by
  have queued : wport (queueTo s n) p = { wport s p with waitq := [n] } := by
    rw [queueTo, hp]
    simp only [wport_setWport_same, hw, List.nil_append]
  rw [outFrames_portPump]
  exact outFrames_admitted (by rw [queued]) (by rw [queued, ho]) hc

/-! The frame's way through the device. -/

/-- The frame has been received and taken. -/
def bridgeFrameTaken (s : State) (k : Nat) (f : BFrame) : State := entryFreed (setWport s k (received (wport s k) f)) k f

theorem only_bridgeFrameTaken (s : State) (k : Nat) (f : BFrame) : Only [.wlt] [] s (bridgeFrameTaken s k f) :=
  (((only_setWport s k _).trans (only_setWport _ k _)).trans (only_setWport _ k _)).mono (by simp) (by simp)

/-- A port after the frame has been taken: its link and what waits to leave are as before. -/
theorem wport_bridgeFrameTaken (s : State) (k : Nat) (f : BFrame) (j : Nat) :
    (wport (bridgeFrameTaken s k f) j).state = (wport s j).state ∧ (wport (bridgeFrameTaken s k f) j).waitq = (wport s j).waitq ∧
      (wport (bridgeFrameTaken s k f) j).out = (wport s j).out ∧
      ((wport s j).inq = [] → (wport (bridgeFrameTaken s k f) j).inq = []) := by
  by_cases h : j = k
  · subst h
    simp [bridgeFrameTaken, entryFreed, freeEntry, received]
  · simp [bridgeFrameTaken, entryFreed, freeEntry, wport_setWport_ne _ _ h]

theorem portTo_congr {t : State} (h : t.img = s.img) (p : Nat) : portTo t p = portTo s p := by
  rw [portTo, portTo, myPos, myPos, h]

/-- The refused write's note is queued, and its port moves. -/
def noteLeaves (s : State) (k : Nat) (f : BFrame) : State :=
  portPump (queueTo (lockedKept (bridgeFrameTaken s k f)) (failNote (lockedKept (bridgeFrameTaken s k f)) f 1)) (portTo s f.src)

section Posted
variable (hd : f.dst = myPos s) (ht : f.typ = 3) (hs : f.src ≠ myPos s) (hsize : f.size = false)
  (hn : wordAt f.off = none) (ha : f.off % 4 = 0) (hb : f.off < spmBase)
  (hup : (wport s (portTo s f.src)).sends = true)

/-- The state in which the write is refused: only the ports and the LOCKED flag differ from what it was. -/
theorem only_refused (s : State) (k : Nat) (f : BFrame) : Only [.wlt] [Reg.topErr] s (lockedKept (bridgeFrameTaken s k f)) :=
  ((only_bridgeFrameTaken s k f).trans (only_lockedKept _)).mono (by simp) (by simp)

theorem wport_refused (s : State) (k : Nat) (f : BFrame) (j : Nat) :
    wport (lockedKept (bridgeFrameTaken s k f)) j = wport (bridgeFrameTaken s k f) j :=
  wport_congr ((only_lockedKept _).1 .wlt (by simp)) j

include ht hs hup in
theorem bridgeFail_note : bridgeFail (lockedKept (bridgeFrameTaken s k f)) f 1 =
    queueTo (lockedKept (bridgeFrameTaken s k f)) (failNote (lockedKept (bridgeFrameTaken s k f)) f 1) := by
  have img := (only_refused s k f).1 .img (by simp)
  have src : ¬ f.src = myPos (lockedKept (bridgeFrameTaken s k f)) := by rwa [myPos, img]
  have path : pathUp (lockedKept (bridgeFrameTaken s k f)) (failNote (lockedKept (bridgeFrameTaken s k f)) f 1) = true := by
    rw [pathUp, show (failNote (lockedKept (bridgeFrameTaken s k f)) f 1).dst = f.src from rfl, portTo_congr img, wport_refused,
      WPort.sends, (wport_bridgeFrameTaken s k f _).1]
    exact hup
  rw [bridgeFail, if_pos ht, if_neg src, if_pos path]

include hd ht hs hsize hn ha hb hup in
theorem takeFrame_refused :
    takeFrame (setWport s k (received (wport s k) f)) k f = noteLeaves s k f := by
  have img : (queueTo (lockedKept (bridgeFrameTaken s k f)) (failNote (lockedKept (bridgeFrameTaken s k f)) f 1)).img = s.img :=
    ((only_setWport _ _ _).1 .img (by simp)).trans ((only_refused s k f).1 .img (by simp))
  rw [takeFrame_here (s := setWport s k (received (wport s k) f)) hd,
    show entryFreed (setWport s k (received (wport s k) f)) k f = bridgeFrameTaken s k f from rfl]
  simp only [actFrame, ht, bridgePosted, if_neg (Nat.not_le.2 hb), bridgeRegWrite_reserved _ hsize hn ha,
    Nat.succ_ne_zero, if_false, bridgeFail_note (k := k) ht hs hup, noteLeaves]
  rw [portTo_congr img]

theorem pumps_noteLeaves (s : State) (k : Nat) (f : BFrame) : Pumps (portTo s f.src)
    (queueTo (lockedKept (bridgeFrameTaken s k f)) (failNote (lockedKept (bridgeFrameTaken s k f)) f 1)) (noteLeaves s k f) :=
  pumps_portPump _ _

theorem inq_noteLeaves (s : State) (k : Nat) (f : BFrame) {j : Nat} (h : (wport s j).inq = []) :
    (wport (noteLeaves s k f) j).inq = [] := by
  rw [((pumps_noteLeaves s k f).link j).inq, (sameLink_queueTo _ _ j).inq, wport_refused]
  exact (wport_bridgeFrameTaken s k f j).2.2.2 h

include hd ht hs hsize hn ha hb hup in
/-- BPW at a reserved offset (R397, R400, R543). -/
theorem bpw_reserved {k : Fin 2} {h : BitVec 64} {payload : List Byte} (haw : awake s = true)
    (hf : f = frameOf h.toNat payload) (h0 : (wport s 0).inq = []) (h1 : (wport s 1).inq = [])
    (hst : (wport s k.val).state = 4) (hseq : bitsOf h.toNat 59 48 = (wport s k.val).expSeq)
    (hwait : (wport s (portTo s f.src)).waitq = []) (hout : (wport s (portTo s f.src)).out = []) :
    Ends (.bpw k h payload) s fun t =>
      (∃ e ∈ (wport t (portTo s f.src)).out, e.f.typ = 6 ∧ e.f.status = 1 ∧ e.f.dst = f.src ∧ e.f.wsn = f.wsn) ∧
      rd t (Reg.brgCnt 2) = rd s (Reg.brgCnt 2) ∧ keepsUnits [.wlt] s t := by
  have typ : bitsOf h.toNat 63 60 = 3 := by
    rw [hf] at ht
    exact ht
  have empty : ∀ j, j < 2 → (wport s j).inq = [] := fun j hj => by
    rcases (by omega : j = 0 ∨ j = 1) with rfl | rfl <;> assumption
  have mine : (wport (setWport s k.val (received (wport s k.val) f)) k.val).inq = [f] := by
    rw [wport_setWport_same, received, empty k.val k.isLt]
    rfl
  have other : (wport (setWport s k.val (received (wport s k.val) f)) (1 - k.val)).inq = [] := by
    rw [wport_setWport_ne _ _ (by omega)]
    exact empty _ (by omega)
  have may : canTake (setWport s k.val (received (wport s k.val) f)) k.val f = true := by
    rw [canTake, if_pos (show f.dst = myPos (setWport s k.val (received (wport s k.val) f)) from hd)]
    simp [ht, hb]
  have e : bridgeReceive s k.val 3 h.toNat payload = auditBridge (noteLeaves s k.val f) k.val := by
    rw [bridgeReceive_posted hst typ hseq, ← hf,
      drainBridge_one k.isLt mine other may (takeFrame_refused hd ht hs hsize hn ha hb hup) (inq_noteLeaves s k.val f h1)]
  have frame : Only [.wlt] (Reg.topErr :: (sentRegs (portTo s f.src) ++ ledgerRegs)) s
      (finish s (auditBridge (noteLeaves s k.val f) k.val)) :=
    (((((only_refused s k.val f).trans (only_setWport _ _ _)).trans (pumps_noteLeaves s k.val f).only).trans
      (only_auditBridge _ _)).mono (by simp) (by simp)).finished
  refine ends_of (core_bpw k h payload haw) ?_
  rw [e]
  refine ⟨?_, frame.2.1 _ (by decide) ?_, frame.1⟩
  · have out : outFrames (wport (noteLeaves s k.val f) (portTo s f.src)) =
        [failNote (lockedKept (bridgeFrameTaken s k.val f)) f 1] := by
      refine outFrames_note (portTo_congr ((only_refused s k.val f).1 .img (by simp)) _) ?_ ?_ rfl
      · rw [wport_refused, (wport_bridgeFrameTaken s k.val f _).2.1, hwait]
      · rw [wport_refused, (wport_bridgeFrameTaken s k.val f _).2.2.1, hout]
    rw [wport_congr (finish_wlt s _), wport_congr ((only_auditBridge _ k.val).1 .wlt (by simp))]
    obtain ⟨n, hn, hnote⟩ := List.mem_map.1 (by rw [← outFrames, out]; exact List.mem_singleton_self _)
    exact ⟨n, hn, by rw [hnote]; exact ⟨rfl, rfl, rfl, rfl⟩⟩
  · simp only [List.mem_cons, List.mem_append, sentRegs, ledgerRegs, List.not_mem_nil, or_false, Reg.brgCnt, Reg.wltCnt,
      Reg.topErr, Reg.topLedgerStat, Reg.topLedgerTime, Reg.topLedgerSnap]
    have : portTo s f.src ≤ 1 := by
      rw [portTo]
      split <;> omega
    omega

end Posted
end Bridge

/-- Settles O54, requester by requester: no row names the word, so every access to it takes the branch of `write4` and `read4`
that leaves the state alone; what each requester learns is its own port's. -/
theorem reservedOffsetsReadZeroAndKeepEverything : Obligations.ReservedOffsetsReadZeroAndKeepEverything := by
  unfold Obligations.ReservedOffsetsReadZeroAndKeepEverything
  intro s off v ha hn ho hb
  refine ⟨fun m f hf hw => ⟨pcieWrite_reserved hn ho hb hf hw v, pcieRead_reserved hn ho hb hf hw⟩, ?_, ?_, ?_⟩
  · intro x hr hc hx hp
    exact ⟨fun h1 hh => spiRead_reserved ha hr hc hn ho hb hx h1 hp hh,
      fun h2 hw => spiWrite_reserved ha hr hc hn ho hb hx h2 hp hw⟩
  · intro m hm hr
    exact ⟨(bench_reserved ha hn ho hb hm hr).1 v, (bench_reserved ha hn ho hb hm hr).2⟩
  · intro k h payload f hf ht hsize hoff hd hs h0 h1 hst hseq hup hwait hout
    exact bpw_reserved hd ht hs hsize (by rwa [hoff]) (by rwa [hoff]) (by rwa [hoff]) hup ha hf h0 h1 hst hseq hwait hout

end Sys2Proof.Machine
end

section
namespace Sys2Proof.Machine

/-! ### What an access does at the scratchpad's memory (R412–R418) -/

section Memory
variable (s : State)

/-- Bytes just written read back, and every other byte is as it was. -/
theorem memByte_memPuts (m : List Host.Cell) (a : Nat) (bs : List Byte) (x : Nat) :
    memByte (memPuts m a bs) x = if a ≤ x ∧ x < a + bs.length then bs.getD (x - a) 0 else memByte m x := by
  split
  · rename_i h
    have e := memByte_memPuts_in m a bs (i := x - a) (by omega)
    rw [show a + (x - a) = x by omega] at e
    rw [e, List.getD_eq_getElem _ _ (by omega)]
  · exact memByte_memPuts_out m a bs (by omega)

theorem getD_memBytes (m : List Host.Cell) (a : Nat) {n i : Nat} (h : i < n) : (memBytes m a n)[i]? = some (memByte m (a + i)) := by
  simp [memBytes, h]

/-- Bytes with no corrupted word among theirs read as they stand, and the read changes nothing (R412). -/
theorem spmRead_uncorrupted {a n : Nat} (h : ∀ x, a ≤ x → x < a + n → flipAt s 0 (x / 8) = none) (master : Nat) :
    spmRead s master a n = (s, memBytes s.spm.mem a n, false) := by
  induction n generalizing a with
  | zero => rfl
  | succ n ih =>
    have first : spmReadByte s master a = (s, memByte s.spm.mem a, false) := by
      rw [spmReadByte, h a (Nat.le_refl _) (by omega)]
    have rest := ih (a := a + 1) fun x hx hn => h x (by omega) (by omega)
    simp [spmRead, first, rest, memBytes_succ]

/-- The words of a write: their codes and the armed fault are the integrity unit's. -/
theorem only_spmWordWritten (w : Nat) (lanes : List Nat) : Only [.intg] flipRegs s (spmWordWritten s w lanes) := by
  have renewed : Only [.intg] flipRegs s (lanesRenewed s w lanes) := by
    unfold lanesRenewed
    split
    · exact Only.refl _ _ s
    · exact (only_setFlip s 0 w _).mono (by simp) (by simp)
  have freed (u : State) : Only [.intg] flipRegs u (poisonFreed u w lanes) := by
    have one : Only [.intg] flipRegs u (trackFree u 0 w) := (only_setIntg u _).mono (by simp) (by simp)
    unfold poisonFreed
    split
    · split
      · exact one.ite (Only.refl _ _ u)
      · exact Only.refl _ _ u
    · exact Only.refl _ _ u
  obtain ⟨k, e⟩ := spmWordWritten_eq s w lanes
  rw [e]
  exact ((renewed.next (freed _)).next (only_flipApply _ 0 w k)).ite (renewed.next (freed _))

/-- The codes of the words that a write covers. -/
def spmCodesWritten (a : Nat) (bs : List Byte) : State :=
  ((List.range (bs.length / 8 + 2)).map (fun i => a / 8 + i)).foldl (fun st w =>
    if (List.range 8).filter (fun b => decide (a ≤ w * 8 + b) && decide (w * 8 + b < a + bs.length)) = [] then st
    else spmWordWritten st w ((List.range 8).filter (fun b => decide (a ≤ w * 8 + b) && decide (w * 8 + b < a + bs.length)))) s

theorem only_spmCodesWritten (a : Nat) (bs : List Byte) : Only [.intg] flipRegs s (spmCodesWritten s a bs) :=
  only_foldl _ (fun t w => (Only.refl _ _ t).ite (only_spmWordWritten t w _)) _ s

theorem spmWrite_spm (a : Nat) (bs : List Byte) :
    (spmWrite s a bs).spm = { s.spm with mem := memPuts s.spm.mem a bs } := by
  have spm := (only_spmCodesWritten s a bs).1 .spm (by simp)
  rw [show (spmWrite s a bs).spm = { (spmCodesWritten s a bs).spm with
    mem := memPuts (spmCodesWritten s a bs).spm.mem a bs } from rfl, spm]

theorem only_setSpm (x : SpmSt) : Only [.spm] [] s { s with spm := x } :=
  only_units (fun u hu => by cases u <;> simp [UnitName.same] at *) rfl rfl

theorem only_spmWrite (a : Nat) (bs : List Byte) : Only [.spm, .intg] flipRegs s (spmWrite s a bs) :=
  ((only_spmCodesWritten s a bs).trans (only_setSpm _ _)).mono (by simp) (by simp)

/-- What a set or clear stores, and that it touches no more than a read and a write do. -/
theorem spmCombine_spm (a : SpmAcc) (f : List Byte → List Byte → List Byte) :
    (spmCombine s a f).spm =
      { s.spm with mem := memPuts s.spm.mem a.off (f (spmRead s (spmMaster a.q) a.off a.len).2.1 a.data) } := by
  have read := (readOnly_spmRead s (spmMaster a.q) a.off a.len).1 .spm (by simp)
  unfold spmCombine
  dsimp only
  refine (foldl_same _ _ State.spm (fun t k => ?_) _).trans ?_
  · rfl
  · rw [spmWrite_spm, read]

theorem only_spmCombine (a : SpmAcc) (f : List Byte → List Byte → List Byte) :
    Only [.spm, .intg] (readRegs 0 ++ flipRegs) s (spmCombine s a f) := by
  have written := (readOnly_spmRead s (spmMaster a.q) a.off a.len).trans
    (only_spmWrite (spmRead s (spmMaster a.q) a.off a.len).1 a.off (f (spmRead s (spmMaster a.q) a.off a.len).2.1 a.data))
  unfold spmCombine
  dsimp only
  exact (written.mono (by simp) (by simp)).next
    (only_foldl _ (fun t k => (only_setFlip t 0 _ _).mono (by simp) (by simp)) _ _)

theorem only_spmFault (a : SpmAcc) (kind : Nat) : Only [] [Reg.spmFault, Reg.spmEvt] s (spmFault s a kind) :=
  ((only_wr s _ _).trans (only_setEvt _ _ _)).mono (by simp) (by simp)

/-- The registers that the service of an access may write at the memory. -/
def accessRegs : List Nat := readRegs 0 ++ flipRegs ++ [Reg.spmFault, Reg.spmEvt]

theorem only_spmAccess (a : SpmAcc) : Only [.spm, .intg] accessRegs s (spmAccess s a).1 := by
  unfold spmAccess
  dsimp only
  split
  · exact Only.refl _ _ s
  · split
    · exact (only_spmFault s a _).mono (by simp) (by simp [accessRegs])
    · split
      · exact (readOnly_spmRead s _ a.off a.len).mono (by simp) (fun x hx => by simp [accessRegs, hx])
      · exact (only_spmWrite s a.off a.data).mono (by simp) (fun x hx => by simp [accessRegs, hx])
      · exact (only_spmCombine s a orBytes).mono (by simp) (fun x hx => by simp [accessRegs] at hx ⊢; tauto)
      · exact (only_spmCombine s a clrBytes).mono (by simp) (fun x hx => by simp [accessRegs] at hx ⊢; tauto)

section Kinds
variable {s} {a : SpmAcc} (hu : a.use ≠ .march)
include hu

theorem spmAccess_denied (hd : spmDenied s a ≠ 0) :
    spmAccess s a = (spmFault s a (spmDenied s a), List.replicate a.len 0, false, spmDenied s a) := by
  rw [spmAccess, if_neg hu, if_pos hd]

variable (hd : spmDenied s a = 0)
include hd

theorem spmAccess_read (hk : a.kind = .read) : spmAccess s a =
    ((spmRead s (spmMaster a.q) a.off a.len).1, (spmRead s (spmMaster a.q) a.off a.len).2.1,
      (spmRead s (spmMaster a.q) a.off a.len).2.2, 0) := by
  simp only [spmAccess, if_neg hu, hd, ne_eq, not_true_eq_false, if_false, hk]

theorem spmAccess_write (hk : a.kind = .write) : spmAccess s a = (spmWrite s a.off a.data, a.data, false, 0) := by
  simp only [spmAccess, if_neg hu, hd, ne_eq, not_true_eq_false, if_false, hk]

theorem spmAccess_set (hk : a.kind = .set) : spmAccess s a = (spmCombine s a orBytes, a.data, false, 0) := by
  simp only [spmAccess, if_neg hu, hd, ne_eq, not_true_eq_false, if_false, hk]

theorem spmAccess_clear (hk : a.kind = .clear) : spmAccess s a = (spmCombine s a clrBytes, a.data, false, 0) := by
  simp only [spmAccess, if_neg hu, hd, ne_eq, not_true_eq_false, if_false, hk]

end Kinds

/-- An access changes no part of the port's own record: only bytes. -/
theorem spmAccess_spm (a : SpmAcc) : ∃ m, (spmAccess s a).1.spm = { s.spm with mem := m } := by
  unfold spmAccess
  dsimp only
  split
  · exact ⟨s.spm.mem, rfl⟩
  · split
    · exact ⟨s.spm.mem, (only_spmFault s a _).1 .spm (by simp)⟩
    · split
      · exact ⟨s.spm.mem, (readOnly_spmRead s _ a.off a.len).1 .spm (by simp)⟩
      · exact ⟨_, spmWrite_spm s _ _⟩
      · exact ⟨_, spmCombine_spm s a _⟩
      · exact ⟨_, spmCombine_spm s a _⟩

/-- The byte that a set or clear leaves, when the bytes read as they stand. -/
theorem memByte_combined {m : List Host.Cell} {a n : Nat} {data : List Byte} (g : Byte → Byte → Byte) (hn : data.length = n)
    (x : Nat) : memByte (memPuts m a (List.zipWith g (memBytes m a n) data)) x =
      if a ≤ x ∧ x < a + n then g (memByte m x) (data.getD (x - a) 0) else memByte m x := by
  have len : (List.zipWith g (memBytes m a n) data).length = n := by simp [memBytes, hn]
  rw [memByte_memPuts, len]
  split
  · rename_i h
    have old := getD_memBytes m a (n := n) (i := x - a) (by omega)
    rw [show a + (x - a) = x by omega] at old
    have new : data[x - a]? = some (data.getD (x - a) 0) := by
      rw [List.getElem?_eq_getElem (by omega), List.getD_eq_getElem _ _ (by omega)]
    rw [List.getD_eq_getElem?_getD, List.getElem?_zipWith, old, new]
    rfl
  · rfl

end Memory

end Sys2Proof.Machine
end

section
namespace Sys2Proof.Machine

/-! ### The scratchpad's port: what a served access leaves (R414–R418, R420, R452) -/

section Reply
variable (s : State)

theorem only_setBrg (x : BrgSt) : Only [.brg] [] s { s with brg := x } :=
  only_units (fun u hu => by cases u <;> simp [UnitName.same] at *) rfl rfl

/-- A two-word log's entry, its head and its loss are written in its own registers. -/
theorem only_logPut {rs : List Nat} {head ovf evt size : Nat} {entry : Nat → Nat → Nat} (tail bit w0 w1 : Nat)
    (he : ∀ i j, i < size → j < 2 → entry i j ∈ rs) (hsize : 0 < size) (hh : head ∈ rs) (ho : ovf ∈ rs) (hv : evt ∈ rs) :
    Only [] rs s (logPut s head tail ovf size entry evt bit w0 w1) := by
  have lost (u : State) (k b e : Nat) (g : Nat → Nat → Nat) : Only [] rs u (rcEvent u k b e g) :=
    (only_units (us := []) (fun x _ => by cases x <;> simp [UnitName.same]) (by simp) (by simp)).mono (by simp) (by simp)
  unfold logPut
  dsimp only
  split
  · exact (lost s _ _ _ _).satBump _ _ _ ho
  · have put : Only [] rs s (wr (wr (wr s (entry (fget s head 15 0 % size) 0) w0) (entry (fget s head 15 0 % size) 1) w1) head
        ((fget s head 15 0 + 1) % 65536)) :=
      (((Only.refl _ _ s).wr _ (he _ 0 (Nat.mod_lt _ hsize) (by decide))).wr _
        (he _ 1 (Nat.mod_lt _ hsize) (by decide))).wr _ hh
    exact (put.setEvt _ hv).ite put

/-- The registers in which the bridge records what it does at this device and what fails there. -/
def bridgeRegs : List Nat :=
  [Reg.brgEvt, Reg.brgFailHead, Reg.brgFailOvf] ++ (List.range 8).map Reg.brgCnt ++
    (List.range 32).map (fun k => Reg.brgFail (k / 2) (k % 2))

theorem brgFail_mem {i j : Nat} (hi : i < 16) (hj : j < 2) : Reg.brgFail i j ∈ bridgeRegs := by
  refine List.mem_append_right _ (List.mem_map.2 ⟨2 * i + j, List.mem_range.2 (by omega), ?_⟩)
  rw [show (2 * i + j) / 2 = i by omega, show (2 * i + j) % 2 = j by omega]

theorem brgCnt_mem {i : Nat} (hi : i < 8) : Reg.brgCnt i ∈ bridgeRegs :=
  List.mem_append_left _ (List.mem_append_right _ (List.mem_map.2 ⟨i, List.mem_range.2 hi, rfl⟩))

theorem only_logWrFail (f : BFrame) (code reporter : Nat) : Only [] bridgeRegs s (logWrFail s f code reporter) :=
  ((((Only.refl _ _ s).bump 1 (brgCnt_mem (by decide))).next (only_logPut _ _ _ _ _ (fun _ _ => brgFail_mem) (by decide)
    (by simp [bridgeRegs]) (by simp [bridgeRegs]) (by simp [bridgeRegs]))).setEvt 0 (by simp [bridgeRegs]))

/-- What an outside access's end leaves of everything but the scratchpad: its requester's record, and no link of the welt. -/
structure Told (s t : State) : Prop where
  only : Only [.spi, .brg, .wlt] ([Reg.hstPcieEvt 0, Reg.hstPcieCnt 0 2, Reg.hstPcieEvt 1, Reg.hstPcieCnt 1 2] ++ bridgeRegs) s t
  link : ∀ j, SameLink (wport s j) (wport t j)

theorem Told.refl : Told s s := ⟨Only.refl _ _ s, fun _ => SameLink.refl _⟩

variable {s} in
theorem Told.trans {t u : State} (h : Told s t) (k : Told t u) : Told s u :=
  ⟨h.only.next k.only, fun j => (h.link j).trans (k.link j)⟩

variable {s} in
theorem Told.ite {t u : State} {c : Prop} [Decidable c] (h : Told s t) (k : Told s u) : Told s (if c then t else u) := by
  split
  · exact h
  · exact k

variable {s} in
theorem told_of_only {us : List UnitName} {rs : List Nat} {t : State} (h : Only us rs s t) (hu : us ⊆ [.spi, .brg])
    (hr : rs ⊆ [Reg.hstPcieEvt 0, Reg.hstPcieCnt 0 2, Reg.hstPcieEvt 1, Reg.hstPcieCnt 1 2] ++ bridgeRegs) : Told s t := by
  refine ⟨h.mono (fun x hx => ?_) hr, fun j => ?_⟩
  · have := hu hx
    simp only [List.mem_cons, List.not_mem_nil, or_false] at this ⊢
    tauto
  · rw [wport_congr (h.1 .wlt fun hx => by simpa using hu hx)]
    exact SameLink.refl _

theorem told_queueTo (f : BFrame) : Told s (queueTo s f) :=
  ⟨(only_setWport s _ _).mono (by simp) (by simp), sameLink_queueTo s f⟩

theorem told_logWrFail (f : BFrame) (code reporter : Nat) : Told s (logWrFail s f code reporter) :=
  told_of_only (only_logWrFail s f code reporter) (by simp) (List.subset_append_right _ _)

theorem told_brgCnt {i : Nat} (hi : i < 8) : Told s (bump s (Reg.brgCnt i) 1) :=
  told_of_only (only_bump s _ 1) (by simp) (by simpa using Or.inr (Or.inr (Or.inr (Or.inr (brgCnt_mem hi)))))

theorem told_setBrg (x : BrgSt) : Told s { s with brg := x } := told_of_only (only_setBrg s x) (by simp) (by simp)

theorem told_setOut (l : List Out) : Told s { s with out := l } := told_of_only (only_setOut s l) (by simp) (by simp)

theorem told_pcieUe {f : Nat} (hf : f < 2) : Told s (pcieUe s f) := by
  have e : Only [] [Reg.hstPcieEvt f, Reg.hstPcieCnt f 2] s (pcieUe s f) :=
    (((only_setEvt s _ 3).trans (only_bump _ _ 1)).trans (only_setOut _ _)).mono (by simp) (by simp)
  refine told_of_only e (by simp) ?_
  rcases (by omega : f = 0 ∨ f = 1) with rfl | rfl <;> simp

variable {s} in
theorem told_bridgeFail {f : BFrame} (ht : f.typ = 3) (code : Nat) : Told s (bridgeFail s f code) := by
  rw [bridgeFail, if_pos ht]
  exact (told_logWrFail s _ _ _).ite ((told_queueTo s _).ite (Told.refl s))

/-- A bridge access has ended: its frame goes on to what it is for (R397, R399, R415). -/
theorem told_reply_bridge {a : SpmAcc} (hw : a.who = .bridge) (bytes : List Byte) (bad : Bool) (denied : Nat) :
    Told s (spmReply s a bytes bad denied) := by
  unfold spmReply
  simp only [hw]
  split
  · exact Told.refl s
  · rename_i k f got _
    refine (told_setBrg s _).ite ?_
    split
    · rename_i ht
      exact ((told_setBrg s _).trans (told_brgCnt _ (by decide))).ite ((told_setBrg s _).trans (told_bridgeFail ht _))
    · have sent := fun (g : BFrame) => (told_setBrg s { s.brg with cur := none }).trans (told_queueTo _ g)
      exact ((sent _).trans (told_brgCnt _ (by decide))).ite (sent _)

theorem told_reply_pcie {f : Nat} (hf : f < 2) (b c : Prop) [Decidable b] [Decidable c] (o : Out) :
    Told s (if b then s else { (if c then pcieUe s f else s) with out := (if c then pcieUe s f else s).out ++ [o] }) :=
  (Told.refl s).ite (((told_pcieUe s hf).ite (Told.refl s)).trans (told_setOut _ _))

theorem told_spmReply (a : SpmAcc) (bytes : List Byte) (bad : Bool) (denied : Nat) : Told s (spmReply s a bytes bad denied) := by
  cases hw : a.who with
  | bridge => exact told_reply_bridge s hw bytes bad denied
  | pcie0 =>
    unfold spmReply
    simp only [hw]
    exact told_reply_pcie s (by decide) _ _ _
  | pcie1 =>
    unfold spmReply
    simp only [hw]
    exact told_reply_pcie s (by decide) _ _ _
  | spi =>
    unfold spmReply
    simp only [hw]
    split
    · exact (Told.refl s).ite (told_of_only (only_setSpi s _) (by simp) (by simp))
    · exact Told.refl s
  | benchM =>
    unfold spmReply
    simp only [hw]
    exact (Told.refl s).ite (told_setOut s _)
  | benchU =>
    unfold spmReply
    simp only [hw]
    exact (Told.refl s).ite (told_setOut s _)
  | loader =>
    unfold spmReply
    simp only [hw]
    exact Told.refl s
  | internal =>
    unfold spmReply
    simp only [hw]
    exact Told.refl s

/-- The data of a read with no error leaves for a host port or the bench core (R415). -/
theorem out_spmReply {a : SpmAcc} (hw : a.who = .benchM ∨ a.who = .benchU ∨ a.who = .pcie0) (hk : a.kind = .read)
    (bytes : List Byte) (denied : Nat) :
    Out.regData a.who.code (0x180000 + a.off) a.len (ofLe bytes) ∈ (spmReply s a bytes false denied).out := by
  have reads : a.writes = false := by simp [SpmAcc.writes, hk]
  unfold spmReply
  rcases hw with hw | hw | hw <;> simp [hw, reads]

end Reply

end Sys2Proof.Machine
end

section
namespace Sys2Proof.Machine

/-! ### The scratchpad's views and port, and O47 (R414–R418, R420, R452) -/

section Views
variable {s : State}

theorem slice_length (bs : List Byte) : slice bs 0 bs.length = bs := by
  simp [slice]

theorem slice_nil (o n : Nat) : slice [] o n = List.replicate n 0 := by
  simp [slice]

theorem wordPieces_single {off n : Nat} (h : off % 8 + n ≤ 8) (hn : 0 < n) (k : Nat) :
    wordPieces off n (k + 2) = [(off, n)] := by
  have one : min n (8 - off % 8) = n := by omega
  simp [wordPieces, Nat.ne_of_gt hn, one]

/-- The access that a view posts. -/
def viewAccess (s : State) (m : Requester) (kind : SpmKind) (rot : Bool) (off len : Nat) (data : List Byte) : SpmAcc :=
  ⟨spmQ m, m, s.cycle, kind, rot, off, len, data, .outside⟩

/-- An access joins the port's queue. -/
def queued (s : State) (a : SpmAcc) : State := { s with spm := { s.spm with waiting := s.spm.waiting ++ [a] } }

theorem spmPost_rotate (m : Requester) (kind : SpmKind) (off : Nat) {len : Nat} (data : List Byte) (hl : 0 < len) :
    spmPost s m kind true off len data = queued s (viewAccess s m kind true off len (slice data 0 len)) := by
  simp [spmPost, queued, viewAccess, Nat.ne_of_gt hl]

theorem spmPost_word (m : Requester) (kind : SpmKind) {off : Nat} {data : List Byte} (hd : data ≠ [])
    (hw : off % 8 + data.length ≤ 8) :
    spmPost s m kind false off data.length data = queued s (viewAccess s m kind false off data.length data) := by
  have pos : 0 < data.length := List.length_pos_iff.2 hd
  simp [spmPost, queued, viewAccess, Nat.ne_of_gt pos, wordPieces_single hw pos, slice_length]

theorem barWrite_view (m : Requester) {off : Nat} (data : List Byte) {k : SpmKind} {rot : Bool} {o : Nat}
    (h1 : 0x800000 ≤ off) (h2 : off < 0x980000) (ha : aliasOf off = some (k, rot, o)) :
    barWrite s m off data = spmPost s m k rot o (if rot then data.length else min data.length (spmSize - o)) data := by
  rw [barWrite, if_neg (by simp only [ownEnd]; omega), if_neg (by simp [isSlave]; omega), ha]

theorem barRead_view (m : Requester) {off : Nat} (len : Nat) {k : SpmKind} {rot : Bool} {o : Nat}
    (h1 : 0x800000 ≤ off) (h2 : off < 0x980000) (ha : aliasOf off = some (k, rot, o)) :
    barRead s m off len = spmPost s m .read rot o (if rot then len else min len (spmSize - o)) [] := by
  rw [barRead, if_neg (by simp only [ownEnd]; omega), if_neg (by simp [isSlave]; omega), ha]

section Far
variable {m : Requester} (hm : m ≠ .spi) (hf : farReach s m = true) (ha : awake s = true) {off : Nat}
  (h1 : 0x800000 ≤ off) (h2 : off < 0x980000)
include hm hf ha h1 h2

/-- A view's window is no part of the MSI-X table, and a requester that reaches BAR0 reaches it. -/
theorem busWrite_view {data : List Byte} (hd : data ≠ []) :
    busWrite s m off data = barWrite (portCount s m) m off data := by
  have table : isMsix off = false := by simp [isMsix]; omega
  have bits : isPba off = false := by simp [isPba]; omega
  cases m <;> simp [farReach] at hf hm
  case pcie0 =>
    simp [busWrite, pcieWrite, ha, hf.1, hd, table, bits, hf.2, portCount, fnOf]
  case pcie1 =>
    simp [busWrite, pcieWrite, ha, hf.1, hd, table, bits, hf.2, portCount, fnOf]
  case benchM => simp [busWrite, benchWrite, hf, table, bits, portCount, fnOf]
  case benchU => simp [busWrite, benchWrite, hf, table, bits, portCount, fnOf]

theorem busRead_view {len : Nat} (hl : 0 < len) : busRead s m off len = barRead (portCount s m) m off len := by
  have table : isMsix off = false := by simp [isMsix]; omega
  have bits : isPba off = false := by simp [isPba]; omega
  have len0 : len ≠ 0 := by omega
  cases m <;> simp [farReach] at hf hm
  case pcie0 =>
    simp [busRead, pcieRead, ha, hf.1, len0, table, bits, hf.2, portCount, fnOf]
  case pcie1 =>
    simp [busRead, pcieRead, ha, hf.1, len0, table, bits, hf.2, portCount, fnOf]
  case benchM => simp [busRead, benchRead, hf, table, bits, portCount, fnOf]
  case benchU => simp [busRead, benchRead, hf, table, bits, portCount, fnOf]

end Far

/-- What a view's access leaves: it waits at the port, and a host port has counted it. -/
theorem ends_queued {c : Instr} {m : Requester} {kind : SpmKind} {rot : Bool} {o len : Nat} {data : List Byte}
    (e : exec c s = .next (finish s (queued (portCount s m) (viewAccess (portCount s m) m kind rot o len data)))) :
    Ends c s fun t =>
      t.spm = { s.spm with waiting := s.spm.waiting ++ [⟨spmQ m, m, s.cycle, kind, rot, o, len, data, .outside⟩] } ∧
      Only [.spm] (portRegs m) s t := by
  have port := only_portCount s m
  have spm : (portCount s m).spm = s.spm := port.1 .spm (by simp)
  have cycle : (portCount s m).cycle = s.cycle := by
    unfold portCount
    split <;> simp
  refine ends_of e ⟨?_, (port.trans (only_setSpm _ _)).finished.mono (by simp) (by simp)⟩
  rw [finish_spm, show (queued (portCount s m) (viewAccess (portCount s m) m kind rot o len data)).spm =
    { (portCount s m).spm with
      waiting := (portCount s m).spm.waiting ++ [⟨spmQ m, m, (portCount s m).cycle, kind, rot, o, len, data, .outside⟩] } from rfl,
    spm, cycle]

end Views

end Sys2Proof.Machine
end

section
namespace Sys2Proof.Machine

/-! ### One access served (R414–R418) -/

section Serve
variable {s : State}

/-- With no bridge frame waiting on either port, none is taken. -/
theorem drainBridge_none (h0 : (wport s 0).inq = []) (h1 : (wport s 1).inq = []) : drainBridge s = s := by
  have port (k n : Nat) (hn : n = 0) : drainPort s k n = s := by
    subst hn
    rfl
  rw [drainBridge, port 0 _ (by rw [h0]; rfl), port 1 _ (by rw [h1]; rfl)]

/-- Both ports of the chain send what they can. -/
def pumped (t : State) : State := portPump (portPump t 0) 1

theorem only_pumped (t : State) : Only [.wlt] (sentRegs 0 ++ sentRegs 1) t (pumped t) :=
  ((pumps_portPump t 0).only.trans (pumps_portPump _ 1).only).mono (by simp) (by simp)

theorem out_pumped {t : State} {o : Out} (h : o ∈ t.out) : o ∈ (pumped t).out :=
  (pumps_portPump _ 1).out o ((pumps_portPump t 0).out o h)

/-- The service ends as the port leaves it, when it brought no bridge frame. -/
theorem serveSpm_eq (h0 : (wport (spmServe s) 0).inq = []) (h1 : (wport (spmServe s) 1).inq = []) :
    serveSpm s = pumped (spmServe s) := by
  rw [serveSpm, drainBridge_none h0 h1]
  rfl

/-- The port has taken access `a` and is held by it until `busy`. -/
def taken (s : State) (a : SpmAcc) (busy : Nat) : State :=
  { s with spm := { s.spm with waiting := s.spm.waiting.erase a, portCycle := busy } }

theorem only_taken (a : SpmAcc) (busy : Nat) : Only [.spm] [] s (taken s a busy) := only_setSpm s _

/-- An outside access made at the memory, its requester told. -/
def accessAnswered (s : State) (a : SpmAcc) (busy : Nat) : State :=
  spmReply (spmAccess (taken s a busy) a).1 a (spmAccess (taken s a busy) a).2.1 (spmAccess (taken s a busy) a).2.2.1
    (spmAccess (taken s a busy) a).2.2.2

theorem serveAcc_outside {a : SpmAcc} (busy : Nat) (hu : a.use = .outside) : serveAcc s a busy = accessAnswered s a busy := by
  rw [serveAcc]
  dsimp only
  rw [spmGoesOn, hu]
  rfl

/-- The access that the port serves: one for the holding buffer at any time, else the first-ranked when the port is free. -/
theorem spmServe_of {a : SpmAcc} {busy : Nat}
    (h : s.spm.waiting.find? (fun x => decide (x.since ≤ s.cycle) && x.redirected s) = some a ∧ busy = s.spm.portCycle ∨
      (∀ x ∈ s.spm.waiting, x.since ≤ s.cycle → x.redirected s = false) ∧ s.spm.portCycle ≤ s.cycle ∧
        nextSpm s = some a ∧ busy = s.cycle + spmCycles a) : spmServe s = serveAcc s a busy := by
  rcases h with ⟨found, rfl⟩ | ⟨direct, free, next, rfl⟩
  · rw [spmServe, found]
  · have none_ : s.spm.waiting.find? (fun x => decide (x.since ≤ s.cycle) && x.redirected s) = none :=
      List.find?_eq_none.2 fun x hx => by
        by_cases due : x.since ≤ s.cycle <;> simp [due, direct x hx]
    rw [spmServe, none_]
    simp only [if_neg (by omega : ¬ s.cycle < s.spm.portCycle), next]

theorem spmServe_idle (h : s.cycle < s.spm.portCycle ∨ nextSpm s = none)
    (direct : ∀ a ∈ s.spm.waiting, a.since ≤ s.cycle → a.redirected s = false) : spmServe s = s := by
  have none_ : s.spm.waiting.find? (fun x => decide (x.since ≤ s.cycle) && x.redirected s) = none :=
    List.find?_eq_none.2 fun x hx => by
      by_cases due : x.since ≤ s.cycle <;> simp [due, direct x hx]
  rw [spmServe, none_]
  rcases h with busy | next
  · simp only [if_pos busy]
  · simp [next]

variable (s) in
/-- What the answer leaves of the whole state. -/
theorem only_accessAnswered (a : SpmAcc) (busy : Nat) :
    Only [.spm, .intg, .spi, .brg, .wlt]
      (accessRegs ++ ([Reg.hstPcieEvt 0, Reg.hstPcieCnt 0 2, Reg.hstPcieEvt 1, Reg.hstPcieCnt 1 2] ++ bridgeRegs)) s
      (accessAnswered s a busy) :=
  (((only_taken a busy).trans (only_spmAccess _ a)).trans (told_spmReply _ a _ _ _).only).mono (by simp) (by simp)

theorem told_accessAnswered (a : SpmAcc) (busy : Nat) : Told (spmAccess (taken s a busy) a).1 (accessAnswered s a busy) :=
  told_spmReply _ a _ _ _

theorem inq_accessAnswered (a : SpmAcc) (busy j : Nat) : (wport (accessAnswered s a busy) j).inq = (wport s j).inq := by
  have link := ((told_accessAnswered (s := s) a busy).link j).inq
  rw [link, wport_congr ((only_taken a busy).trans (only_spmAccess _ a) |>.1 .wlt (by simp)) j]

/-- The scratchpad's own record after the answer is the one after the access. -/
theorem spm_accessAnswered (a : SpmAcc) (busy : Nat) : (accessAnswered s a busy).spm = (spmAccess (taken s a busy) a).1.spm :=
  (told_accessAnswered a busy).only.1 .spm (by simp)

theorem port_accessAnswered (a : SpmAcc) (busy : Nat) :
    (accessAnswered s a busy).spm.waiting = s.spm.waiting.erase a ∧ (accessAnswered s a busy).spm.portCycle = busy := by
  obtain ⟨m, hm⟩ := spmAccess_spm (taken s a busy) a
  rw [spm_accessAnswered, hm]
  exact ⟨rfl, rfl⟩

section Kinds
variable {a : SpmAcc} (busy : Nat) (hu : a.use = .outside)

theorem use_ne_march (hu : a.use = .outside) : a.use ≠ .march := by simp [hu]

/-- Uncorrupted bytes read as they stand. -/
theorem spmRead_taken (hok : ∀ x, a.off ≤ x → x < a.off + a.len → flipAt s 0 (x / 8) = none) (master : Nat) :
    spmRead (taken s a busy) master a.off a.len = (taken s a busy, memBytes s.spm.mem a.off a.len, false) :=
  spmRead_uncorrupted (taken s a busy) hok master

include hu

theorem mem_accessAnswered_denied (hd : spmDenied s a ≠ 0) : (accessAnswered s a busy).spm.mem = s.spm.mem := by
  rw [spm_accessAnswered, spmAccess_denied (s := taken s a busy) (use_ne_march hu) hd]
  have e : (spmFault (taken s a busy) a (spmDenied s a)).spm = (taken s a busy).spm :=
    (only_spmFault (taken s a busy) a _).1 .spm (by simp)
  exact (congrArg SpmSt.mem e :)

/-- A denial is recorded, and its requester's answer leaves the record (R417, R452). -/
theorem fault_accessAnswered (hd : spmDenied s a ≠ 0) :
    flag (accessAnswered s a busy) Reg.spmEvt (denyEvt (spmDenied s a)) = true ∧
      rd (accessAnswered s a busy) Reg.spmFault = (a.q * 2 ^ 48 + spmDenied s a * 2 ^ 45 + a.off % spmSize) % 2 ^ 64 := by
  have told := (told_accessAnswered (s := s) a busy).only
  have e : (spmAccess (taken s a busy) a).1 = spmFault (taken s a busy) a (spmDenied s a) := by
    rw [spmAccess_denied (s := taken s a busy) (use_ne_march hu) hd]
    rfl
  have bit : denyEvt (spmDenied s a) < 64 := by
    unfold denyEvt
    split_ifs <;> decide
  constructor
  · rw [flag_congr (told.rd_eq (belowCounts_of_lt (by decide)) (by decide +kernel)), e]
    exact flag_setEvt_same _ _ _ bit
  · rw [told.rd_eq (belowCounts_of_lt (by decide)) (by decide +kernel), e, spmFault, rd_setEvt_ne _ _ (by decide)]
    exact rd_wr_same _ _ _

variable (hd : spmDenied s a = 0)
include hd

theorem mem_accessAnswered_read (hk : a.kind = .read) : (accessAnswered s a busy).spm.mem = s.spm.mem := by
  rw [spm_accessAnswered, spmAccess_read (s := taken s a busy) (use_ne_march hu) hd hk]
  have e : (spmRead (taken s a busy) (spmMaster a.q) a.off a.len).1.spm = (taken s a busy).spm :=
    (readOnly_spmRead (taken s a busy) _ a.off a.len).1 .spm (by simp)
  exact (congrArg SpmSt.mem e :)

theorem mem_accessAnswered_write (hk : a.kind = .write) : (accessAnswered s a busy).spm.mem = memPuts s.spm.mem a.off a.data := by
  rw [spm_accessAnswered, spmAccess_write (s := taken s a busy) (use_ne_march hu) hd hk]
  exact congrArg SpmSt.mem (spmWrite_spm (taken s a busy) a.off a.data)

variable (hok : ∀ x, a.off ≤ x → x < a.off + a.len → flipAt s 0 (x / 8) = none)
include hok

theorem mem_accessAnswered_set (hk : a.kind = .set) : (accessAnswered s a busy).spm.mem =
    memPuts s.spm.mem a.off (orBytes (memBytes s.spm.mem a.off a.len) a.data) := by
  rw [spm_accessAnswered, spmAccess_set (s := taken s a busy) (use_ne_march hu) hd hk]
  have e := congrArg SpmSt.mem (spmCombine_spm (taken s a busy) a orBytes)
  rw [spmRead_taken busy hok] at e
  exact e

theorem mem_accessAnswered_clear (hk : a.kind = .clear) : (accessAnswered s a busy).spm.mem =
    memPuts s.spm.mem a.off (clrBytes (memBytes s.spm.mem a.off a.len) a.data) := by
  rw [spm_accessAnswered, spmAccess_clear (s := taken s a busy) (use_ne_march hu) hd hk]
  have e := congrArg SpmSt.mem (spmCombine_spm (taken s a busy) a clrBytes)
  rw [spmRead_taken busy hok] at e
  exact e

theorem out_accessAnswered (hk : a.kind = .read) (hw : a.who = .benchM ∨ a.who = .benchU ∨ a.who = .pcie0) :
    Out.regData a.who.code (0x180000 + a.off) a.len (ofLe (memBytes s.spm.mem a.off a.len)) ∈ (accessAnswered s a busy).out := by
  unfold accessAnswered
  rw [spmAccess_read (s := taken s a busy) (use_ne_march hu) hd hk, spmRead_taken busy hok]
  exact out_spmReply _ hw hk _ _

end Kinds

end Serve

end Sys2Proof.Machine
end

section
namespace Sys2Proof.Machine

/-! ### O47 -/

section Clauses
variable {s : State} (ha : awake s = true)
include ha

/-- A view's write waits at the port. -/
theorem window_posts {c : Instr} {m : Requester} {off : BitVec 19} {data : List Byte} {k : SpmKind} {base : Nat}
    (hm : m ≠ .spi) (hf : farReach s m = true) (hd : data ≠ []) (hw : off.toNat % 8 + data.length ≤ 8)
    (e : exec c s = .next (finish s (busWrite s m (base + off.toNat) data))) (hlo : 0x800000 ≤ base) (hhi : base < 0x900000)
    (halias : aliasOf (base + off.toNat) = some (k, false, off.toNat)) :
    Ends c s fun t =>
      t.spm = { s.spm with waiting := s.spm.waiting ++
        [⟨spmQ m, m, s.cycle, k, false, off.toNat, data.length, data, .outside⟩] } ∧ Only [.spm] (portRegs m) s t := by
  have small := off.isLt
  have whole : min data.length (spmSize - off.toNat) = data.length := by
    simp only [spmSize]
    omega
  refine ends_queued (e.trans ?_)
  rw [busWrite_view hm hf ha (by omega) (by omega) hd, barWrite_view m data (by omega) (by omega) halias]
  simp only [Bool.false_eq_true, if_false, whole]
  rw [spmPost_word m k hd hw]

theorem setWindowWrite_posts {m : Requester} {off : BitVec 19} {data : List Byte} (hm : m ≠ .spi)
    (hf : farReach s m = true) (hd : data ≠ []) (hw : off.toNat % 8 + data.length ≤ 8) :
    Ends (.setWindowWrite m off data) s fun t =>
      t.spm = { s.spm with waiting := s.spm.waiting ++
        [⟨spmQ m, m, s.cycle, .set, false, off.toNat, data.length, data, .outside⟩] } ∧ Only [.spm] (portRegs m) s t := by
  refine window_posts ha hm hf hd hw (core_setWindowWrite m off data ha) (by decide) (by decide) ?_
  have small := off.isLt
  rw [aliasOf, if_pos (by omega)]
  simp

theorem clearWindowWrite_posts {m : Requester} {off : BitVec 19} {data : List Byte} (hm : m ≠ .spi)
    (hf : farReach s m = true) (hd : data ≠ []) (hw : off.toNat % 8 + data.length ≤ 8) :
    Ends (.clearWindowWrite m off data) s fun t =>
      t.spm = { s.spm with waiting := s.spm.waiting ++
        [⟨spmQ m, m, s.cycle, .clear, false, off.toNat, data.length, data, .outside⟩] } ∧ Only [.spm] (portRegs m) s t := by
  refine window_posts ha hm hf hd hw (core_clearWindowWrite m off data ha) (by decide) (by decide) ?_
  have small := off.isLt
  rw [aliasOf, if_neg (by omega), if_pos (by omega)]
  simp

omit ha in
theorem aliasOf_rotate (off : BitVec 19) : aliasOf (0x900000 + off.toNat) = some (.write, true, off.toNat) := by
  have small := off.isLt
  rw [aliasOf, if_neg (by omega), if_neg (by omega), if_pos (by omega)]
  simp

theorem rotateWrite_posts {m : Requester} {off : BitVec 19} {data : List Byte} (hm : m ≠ .spi)
    (hf : farReach s m = true) (hd : data ≠ []) (len : Nat) :
    Ends (.rotateAccess m true off data len) s fun t =>
      t.spm = { s.spm with waiting := s.spm.waiting ++
        [⟨spmQ m, m, s.cycle, .write, true, off.toNat, data.length, data, .outside⟩] } ∧ Only [.spm] (portRegs m) s t := by
  have small := off.isLt
  refine ends_queued ((core_rotateAccess m true off data len ha).trans ?_)
  rw [if_pos rfl, busWrite_view hm hf ha (by omega) (by omega) hd,
    barWrite_view m data (by omega) (by omega) (aliasOf_rotate off)]
  rw [if_pos rfl, spmPost_rotate m .write off.toNat data (List.length_pos_iff.2 hd), slice_length]

theorem rotateRead_posts {m : Requester} {off : BitVec 19} (data : List Byte) (hm : m ≠ .spi)
    (hf : farReach s m = true) {len : Nat} (hl : 0 < len) :
    Ends (.rotateAccess m false off data len) s fun t =>
      t.spm = { s.spm with waiting := s.spm.waiting ++
        [⟨spmQ m, m, s.cycle, .read, true, off.toNat, len, List.replicate len 0, .outside⟩] } ∧
      Only [.spm] (portRegs m) s t := by
  have small := off.isLt
  refine ends_queued ((core_rotateAccess m false off data len ha).trans ?_)
  rw [if_neg (by decide), busRead_view hm hf ha (by omega) (by omega) hl,
    barRead_view m len (by omega) (by omega) (aliasOf_rotate off)]
  rw [if_pos rfl, spmPost_rotate m .read off.toNat [] hl, slice_nil]

variable (h0 : (wport s 0).inq = []) (h1 : (wport s 1).inq = [])
include h0 h1

theorem scratchpadServe_idle (h : s.cycle < s.spm.portCycle ∨ nextSpm s = none)
    (direct : ∀ a ∈ s.spm.waiting, a.since ≤ s.cycle → a.redirected s = false) :
    Ends .scratchpadServe s fun t => keepsUnits [.wlt] s t := by
  have idle := spmServe_idle h direct
  refine ends_of (core_scratchpadServe ha) ?_
  rw [serveSpm_eq (by rw [idle, h0]) (by rw [idle, h1]), idle]
  exact (only_pumped s).finished.1

theorem scratchpadServe_answers {a : SpmAcc} {busy : Nat}
    (h : s.spm.waiting.find? (fun x => decide (x.since ≤ s.cycle) && x.redirected s) = some a ∧ busy = s.spm.portCycle ∨
      (∀ x ∈ s.spm.waiting, x.since ≤ s.cycle → x.redirected s = false) ∧ s.spm.portCycle ≤ s.cycle ∧
        nextSpm s = some a ∧ busy = s.cycle + spmCycles a) (hu : a.use = .outside) :
    exec .scratchpadServe s = .next (finish s (pumped (accessAnswered s a busy))) := by
  have served : spmServe s = accessAnswered s a busy := (spmServe_of h).trans (serveAcc_outside busy hu)
  rw [core_scratchpadServe ha, serveSpm_eq (by rw [served, inq_accessAnswered, h0]) (by rw [served, inq_accessAnswered, h1]),
    served]

end Clauses

theorem spm_pumped (s t : State) : (finish s (pumped t)).spm = t.spm :=
  (finish_spm s _).trans ((only_pumped t).1 .spm (by simp))

theorem rd_pumped (s t : State) {o : Nat} (hb : belowCounts o) (hn : o ∉ sentRegs 0 ++ sentRegs 1) :
    rd (finish s (pumped t)) o = rd t o :=
  (rd_finish_below s hb).trans ((only_pumped t).rd_eq hb hn)

/-- Settles O47: a view posts one access; the port makes the served one at the memory, tells its requester and lets both ports
of the chain send. -/
theorem scratchpadAccessesAreQueuedServedAndDenied : Obligations.ScratchpadAccessesAreQueuedServedAndDenied := by
  unfold Obligations.ScratchpadAccessesAreQueuedServedAndDenied
  intro s ha
  refine ⟨fun m off data hm hf hd => ⟨fun hw => ⟨setWindowWrite_posts ha hm hf hd hw, clearWindowWrite_posts ha hm hf hd hw⟩,
    rotateWrite_posts ha hm hf hd, fun len => rotateRead_posts ha data hm hf⟩,
    fun h direct h0 h1 => scratchpadServe_idle ha h0 h1 h direct, fun a busy h hu h0 h1 => ?_⟩
  refine ends_of (scratchpadServe_answers ha h0 h1 h hu) ?_
  rw [spm_pumped]
  refine ⟨(port_accessAnswered a busy).1, (port_accessAnswered a busy).2, fun hd => ?_, fun hd hk x => ?_,
    fun hd hk hl hok x => ?_, fun hd hk hl hok x => ?_, fun hd hk => ⟨mem_accessAnswered_read busy hu hd hk, ?_⟩, ?_⟩
  · obtain ⟨event, fault⟩ := fault_accessAnswered busy hu hd
    exact ⟨mem_accessAnswered_denied busy hu hd,
      (flag_congr (rd_pumped s _ (belowCounts_of_lt (by decide)) (by decide +kernel)) _).trans event,
      (rd_pumped s _ (belowCounts_of_lt (by decide)) (by decide +kernel)).trans fault⟩
  · rw [mem_accessAnswered_write busy hu hd hk, memByte_memPuts]
  · rw [mem_accessAnswered_set busy hu hd hok hk]
    exact memByte_combined _ hl x
  · rw [mem_accessAnswered_clear busy hu hd hok hk]
    exact memByte_combined _ hl x
  · exact fun hw hok => mem_out_finish s (out_pumped (out_accessAnswered busy hu hd hok hk hw))
  · exact fun u hu => (((only_accessAnswered s a busy).trans (only_pumped _)).finished.1) u (by
      simp only [List.mem_cons, List.not_mem_nil, or_false, List.mem_append] at hu ⊢
      tauto)

end Sys2Proof.Machine
end

section
namespace Sys2Proof.Machine

/-! ### What the port's accesses are for leaves the three memories as they are (R414) -/

section Mems
variable {s t u : State}

/-- The three byte memories are unchanged. -/
def SameMems (s t : State) : Prop := t.spm.mem = s.spm.mem ∧ t.drc.mem = s.drc.mem ∧ t.nvc.mem = s.nvc.mem

theorem SameMems.refl (s : State) : SameMems s s := ⟨rfl, rfl, rfl⟩

theorem SameMems.trans (h : SameMems s t) (k : SameMems t u) : SameMems s u :=
  ⟨k.1.trans h.1, k.2.1.trans h.2.1, k.2.2.trans h.2.2⟩

theorem SameMems.wf (h : SameMems s t) (hs : s.memWf) : t.memWf := by
  unfold State.memWf
  rw [h.1, h.2.1, h.2.2]
  exact hs

theorem Only.sameMems {us : List UnitName} {rs : List Nat} (h : Only us rs s t)
    (hu : ∀ u ∈ [UnitName.spm, .drc, .nvc], u ∉ us) : SameMems s t :=
  ⟨congrArg SpmSt.mem (h.1 .spm (hu _ (by simp))), congrArg DrcSt.mem (h.1 .drc (hu _ (by simp))),
    congrArg NvcSt.mem (h.1 .nvc (hu _ (by simp)))⟩

/-- The memories and the frames that a port of the chain has received are unchanged. -/
def ServeKeeps (s t : State) : Prop := SameMems s t ∧ ∀ j, (wport t j).inq = (wport s j).inq

theorem ServeKeeps.refl (s : State) : ServeKeeps s s := ⟨SameMems.refl s, fun _ => rfl⟩

theorem ServeKeeps.trans (h : ServeKeeps s t) (k : ServeKeeps t u) : ServeKeeps s u :=
  ⟨h.1.trans k.1, fun j => (k.2 j).trans (h.2 j)⟩

theorem ServeKeeps.ite {c : Prop} [Decidable c] (h : ServeKeeps s t) (k : ServeKeeps s u) :
    ServeKeeps s (if c then t else u) := by
  split
  · exact h
  · exact k

theorem Only.serveKeeps {us : List UnitName} {rs : List Nat} (h : Only us rs s t)
    (hu : ∀ u ∈ [UnitName.spm, .drc, .nvc, .wlt], u ∉ us) : ServeKeeps s t :=
  ⟨h.sameMems fun u hm => hu u (by simp at hm ⊢; tauto), fun j => by rw [wport_congr (h.1 .wlt (hu _ (by simp)))]⟩

section Steps
variable (h : ServeKeeps s t)
include h

theorem ServeKeeps.wr (o v : Nat) : ServeKeeps s (wr t o v) := h.trans ((only_wr t o v).serveKeeps (by simp))

theorem ServeKeeps.bump (o n : Nat) : ServeKeeps s (bump t o n) := h.trans ((only_bump t o n).serveKeeps (by simp))

theorem ServeKeeps.setEvt (o b : Nat) : ServeKeeps s (setEvt t o b) := h.trans ((only_setEvt t o b).serveKeeps (by simp))

theorem ServeKeeps.fput (o hi lo v : Nat) : ServeKeeps s (fput t o hi lo v) := h.trans ((only_fput t o hi lo v).serveKeeps (by simp))

end Steps

variable (s)

theorem serveKeeps_askPort (q : Nat) (kind : SpmKind) (off len : Nat) (data : List Byte) (u : SpmUse) :
    ServeKeeps s (askPort s q kind off len data u) := ServeKeeps.refl s

theorem serveKeeps_hostSend (f : Nat) (o : Out) : ServeKeeps s (hostSend s f o) := by
  unfold hostSend
  dsimp only
  split
  · exact ServeKeeps.bump (t := { s with out := s.out ++ [o] }) (ServeKeeps.refl s) _ _
  · exact ServeKeeps.refl s

theorem serveKeeps_hostRead (f addr len : Nat) (use : HostUse) : ServeKeeps s (hostRead s f addr len use) :=
  serveKeeps_hostSend { s with
    rgl := { s.rgl with nextId := s.rgl.nextId + 1 }
    host := s.host ++ [⟨s.rgl.nextId, f, addr, len, use, s.cycle⟩] } _ _

theorem serveKeeps_present (m : Nat) (slot : Bool) (p : Purpose) (since : Nat) (gs : List Gran) :
    ServeKeeps s (present s m slot p since gs) := ServeKeeps.refl s

theorem serveKeeps_setDma (n : Nat) (x : DmaCh) : ServeKeeps s (setDma s n x) := ServeKeeps.refl s

section Rings

theorem serveKeeps_complete (id : Nat) (r : Report) : ServeKeeps s (complete s id r) := by
  have k := spares_complete s id r
  refine ⟨⟨congrArg SpmSt.mem (k.units .spm (by simp)), congrArg DrcSt.mem (k.units .drc (by simp)),
    congrArg NvcSt.mem (k.units .nvc (by simp))⟩, fun j => ?_⟩
  rw [wport_congr (k.units .wlt (by simp))]

theorem serveKeeps_readInput (c : TCmd) : ServeKeeps s (readInput s c) := by
  unfold readInput
  dsimp only
  split
  · exact ServeKeeps.refl s
  · split
    · exact ServeKeeps.refl s
    · split
      · exact serveKeeps_askPort s _ _ _ _ _ _
      · exact serveKeeps_hostRead s _ _ _ _

theorem serveKeeps_fetchFailed (r : Nat) : ServeKeeps s (fetchFailed s r) :=
  (ServeKeeps.fput (t := { s with tcr := { s.tcr with fetching := s.tcr.fetching.set (fun _ => false) r false } })
    (ServeKeeps.refl s) _ _ _ _).setEvt _ _

theorem serveKeeps_refuse (c : TCmd) (status gen : Nat) : ServeKeeps s (refuse s c status gen) := serveKeeps_complete s _ _

theorem serveKeeps_acceptSlot (r : Nat) (bs : List Byte) : ServeKeeps s (acceptSlot s r bs) := by
  unfold acceptSlot
  dsimp only
  split
  · simp [ServeKeeps, SameMems, wport]
  · split
    · refine ServeKeeps.trans ?_ (serveKeeps_refuse _ _ _ _)
      simp [ServeKeeps, SameMems, wport, notePeak, rcEvent]
    · split
      · refine ServeKeeps.trans ?_ (serveKeeps_refuse _ _ _ _)
        simp [ServeKeeps, SameMems, wport, notePeak, rcEvent]
      · refine ServeKeeps.trans ?_ (serveKeeps_readInput _ _)
        simp [ServeKeeps, SameMems, wport, notePeak, rcEvent]

theorem serveKeeps_slotHere (r : Nat) (bs : Option (List Byte)) : ServeKeeps s (slotHere s r bs) := by
  unfold slotHere
  cases bs with
  | none => exact serveKeeps_fetchFailed _ _
  | some b => exact (serveKeeps_acceptSlot _ r b).ite (ServeKeeps.refl s)

theorem serveKeeps_setInput (id : Nat) (i : Option (List Byte)) (ue : Bool) : ServeKeeps s (setInput s id i ue) := ServeKeeps.refl s

theorem serveKeeps_postedAt (r : Nat) : ServeKeeps s (postedAt s r) := by
  have written (c : Compl) (rest : List Compl) : ServeKeeps s (posted s c rest) := by
    have gone : ServeKeeps s { s with tcr := { s.tcr with compl := rest, postCycle := s.cycle + 1 } } := ServeKeeps.refl s
    have head := (gone.wr (Reg.hstTcrChead c.ring) ((fget s (Reg.hstTcrChead c.ring) 15 0 + 1) % 65536)).bump (Reg.hstTcrCnt c.ring 1) 1
    exact (head.setEvt _ _).ite head
  unfold postedAt
  split
  · exact (written _ _).ite (ServeKeeps.refl s)
  · exact ServeKeeps.refl s

end Rings

theorem serveKeeps_auditLearn : ServeKeeps s (auditLearn s) := (only_auditLearn s).serveKeeps (by simp)

theorem serveKeeps_learnPosted : ServeKeeps s (learnPosted s) := by
  unfold learnPosted
  split
  · exact ServeKeeps.refl s
  · refine ServeKeeps.trans (ServeKeeps.setEvt (ServeKeeps.bump ?_ _ _) _ _) (serveKeeps_auditLearn _)
    simp [ServeKeeps, SameMems, wport]

theorem serveKeeps_sigBoundary : ServeKeeps s (sigBoundary s) := by
  unfold sigBoundary
  split
  · exact ServeKeeps.refl s
  · split
    · exact ServeKeeps.refl s
    · split
      · exact ServeKeeps.refl s
      · split
        · exact ServeKeeps.refl s
        · split
          · exact ServeKeeps.refl s
          · simp [ServeKeeps, SameMems, wport, endSigLap]

theorem serveKeeps_sigPosted : ServeKeeps s (sigPosted s) := by
  unfold sigPosted
  split
  · exact ServeKeeps.refl s
  · refine ServeKeeps.trans ?_ (serveKeeps_sigBoundary _)
    split <;> simp [ServeKeeps, SameMems, wport]

section Dma

theorem serveKeeps_dmaDrop (n : Nat) : ServeKeeps s (dmaDrop s n) := ServeKeeps.refl s

theorem serveKeeps_dmaWriteBack (n : Nat) (done : Bool) (status : Nat) (use : SpmUse) :
    ServeKeeps s (dmaWriteBack s n done status use) := by
  unfold dmaWriteBack
  dsimp only
  split
  · exact ServeKeeps.refl s
  · exact (serveKeeps_askPort s _ _ _ _ _ _).ite (serveKeeps_hostSend s _ _)

theorem serveKeeps_dmaHalt (n code addr : Nat) : ServeKeeps s (dmaHalt s n code addr) := by
  have back : ServeKeeps s (if code = 5 then dmaDrop s n else dmaWriteBack (dmaDrop s n) n false code (.put none)) :=
    (serveKeeps_dmaDrop s n).ite ((serveKeeps_dmaDrop s n).trans (serveKeeps_dmaWriteBack _ _ _ _ _))
  exact ((back.wr _ _).wr _ _).setEvt _ _

theorem serveKeeps_dmaFollow (n : Nat) : ServeKeeps s (dmaFollow s n) := (ServeKeeps.refl s).ite ((ServeKeeps.refl s).fput _ _ _ _)

theorem serveKeeps_dmaAdvance (n : Nat) (irq : Bool) : ServeKeeps s (dmaAdvance s n irq) := by
  have status : ServeKeeps s (if dmaState s n = 2 then wr s (Reg.hstDmaStat n) 0 else s) :=
    ((ServeKeeps.refl s).wr _ _).ite (ServeKeeps.refl s)
  have moved (h : Nat) (x : DmaCh) : ServeKeeps s (dmaFollow (setDma
      (wr (if dmaState s n = 2 then wr s (Reg.hstDmaStat n) 0 else s) (Reg.hstDmaHead n) h) n x) n) :=
    (status.wr _ h).trans ((serveKeeps_setDma _ n x).trans (serveKeeps_dmaFollow _ n))
  unfold dmaAdvance
  dsimp only
  exact ((moved _ _).setEvt _ _).ite (moved _ _)

theorem serveKeeps_dmaFetch (n : Nat) : ServeKeeps s (dmaFetch s n) :=
  (serveKeeps_dmaHalt s _ _ _).ite ((serveKeeps_askPort s _ _ _ _ _ _).ite
    ((serveKeeps_setDma s n _).trans (serveKeeps_hostRead _ _ _ _ _)))

theorem serveKeeps_dmaReadMore (n : Nat) (o : DmaOp) : ServeKeeps s (dmaReadMore s n o) :=
  ((serveKeeps_setDma s n _).trans (serveKeeps_hostRead _ _ _ _ _)).ite ((serveKeeps_askPort s _ _ _ _ _ _).ite
    ((serveKeeps_dmaHalt s _ _ _).ite (((serveKeeps_setDma s n _).setEvt _ _).ite
      ((ServeKeeps.refl s).ite ((serveKeeps_setDma s n _).trans (serveKeeps_present _ _ _ _ _ _))))))

theorem serveKeeps_dmaWriteMore (n : Nat) (o : DmaOp) (k : Nat) : ServeKeeps s (dmaWriteMore s n o k) :=
  ((serveKeeps_setDma s n _).trans (serveKeeps_hostSend _ _ _)).ite ((serveKeeps_askPort s _ _ _ _ _ _).ite
    ((serveKeeps_dmaHalt s _ _ _).ite (((serveKeeps_setDma s n _).setEvt _ _).ite
      ((ServeKeeps.refl s).ite ((serveKeeps_setDma s n _).trans (serveKeeps_present _ _ _ _ _ _))))))

theorem serveKeeps_dmaMove (n : Nat) : ServeKeeps s (dmaMove s n) := by
  unfold dmaMove
  dsimp only
  split
  · exact ServeKeeps.refl s
  · split
    · exact (ServeKeeps.refl s).ite (serveKeeps_dmaFetch s n)
    · exact (serveKeeps_dmaWriteMore s n _ _).ite ((ServeKeeps.refl s).ite ((serveKeeps_dmaReadMore s n _).ite (ServeKeeps.refl s)))

theorem serveKeeps_dmaBegin (n : Nat) (d : List Byte) : ServeKeeps s (dmaBegin s n d) :=
  (serveKeeps_dmaHalt s _ _ _).ite ((serveKeeps_dmaHalt s _ _ _).ite ((serveKeeps_dmaHalt s _ _ _).ite (serveKeeps_setDma s n _)))

theorem serveKeeps_dmaServed (n : Nat) (a : SpmAcc) (bytes : List Byte) (bad : Bool) : ServeKeeps s (dmaServed s n a bytes bad) := by
  unfold dmaServed
  dsimp only
  split
  · exact (serveKeeps_dmaHalt s _ _ _).ite (serveKeeps_dmaBegin s _ _)
  · exact ((serveKeeps_setDma s n _).trans (serveKeeps_dmaMove _ n)).ite ((serveKeeps_dmaHalt s _ _ _).ite
      ((serveKeeps_setDma s n _).trans (serveKeeps_dmaMove _ n)))

end Dma

theorem serveKeeps_marchAdvance : ServeKeeps s (marchAdvance s) := by
  unfold marchAdvance
  split
  · exact ServeKeeps.refl s
  · simp [ServeKeeps, SameMems, wport]

theorem serveKeeps_spmReply (a : SpmAcc) (bytes : List Byte) (bad : Bool) (denied : Nat) :
    ServeKeeps s (spmReply s a bytes bad denied) :=
  ⟨(told_spmReply s a bytes bad denied).only.sameMems (by simp), fun j => ((told_spmReply s a bytes bad denied).link j).inq⟩

theorem serveKeeps_spmGoesOn (a : SpmAcc) (bytes : List Byte) (bad : Bool) (denied : Nat) :
    ServeKeeps s (spmGoesOn s a bytes bad denied) := by
  unfold spmGoesOn
  split
  case h_1 => exact serveKeeps_spmReply s _ _ _ _
  case h_2 => exact serveKeeps_slotHere s _ _
  case h_3 => exact serveKeeps_setInput s _ _ _
  case h_4 => exact ServeKeeps.refl s
  case h_5 => exact serveKeeps_postedAt s _
  case h_6 => exact serveKeeps_learnPosted s
  case h_7 => exact serveKeeps_sigPosted s
  case h_8 => exact (serveKeeps_dmaHalt s _ _ _).ite (serveKeeps_dmaServed s _ _ _ _)
  case h_9 => exact (serveKeeps_dmaHalt s _ _ _).ite (serveKeeps_dmaAdvance s _ _)
  case h_10 => exact serveKeeps_marchAdvance s

end Mems

end Sys2Proof.Machine
end

section
namespace Sys2Proof.Machine

/-! ### O59: the canonical form of the three memories -/

section Wf
variable {s : State}

theorem memWf_foldl {α : Type} {f : State → α → State} (step : ∀ t a, t.memWf → (f t a).memWf) (l : List α) (h : s.memWf) :
    (l.foldl f s).memWf := by
  induction l generalizing s with
  | nil => exact h
  | cons a l ih => exact ih (step s a h)

theorem memWf_ite {t u : State} {c : Prop} [Decidable c] (h : t.memWf) (k : u.memWf) : (if c then t else u).memWf := by
  split
  · exact h
  · exact k

variable (h : s.memWf)
include h

theorem memWf_setSpm {x : SpmSt} (hx : Memory.wf x.mem) : State.memWf { s with spm := x } := ⟨hx, h.2.1, h.2.2⟩

theorem memWf_setDrc {x : DrcSt} (hx : Memory.wf x.mem) : State.memWf { s with drc := x } := ⟨h.1, hx, h.2.2⟩

theorem memWf_setNvc {x : NvcSt} (hx : Memory.wf x.mem) : State.memWf { s with nvc := x } := ⟨h.1, h.2.1, hx⟩

theorem memWf_only {t : State} {us : List UnitName} {rs : List Nat} (k : Only us rs s t)
    (hu : ∀ u ∈ [UnitName.spm, .drc, .nvc], u ∉ us) : t.memWf := (k.sameMems hu).wf h

/-- A command's end delivers messages, and leaves the memories. -/
theorem memWf_finish (s0 : State) : (finish s0 s).memWf := by
  have same : SameMems s (finish s0 s) :=
    ⟨congrArg SpmSt.mem (finish_spm s0 s), congrArg DrcSt.mem (finish_drc s0 s), congrArg NvcSt.mem (finish_nvc s0 s)⟩
  exact same.wf h

theorem memWf_portCount (m : Requester) : (portCount s m).memWf := memWf_only h (only_portCount s m) (by simp)

/-! The scratchpad's port. -/

theorem memWf_of_spm {t : State} {us : List UnitName} {rs : List Nat} (k : Only us rs s t) (hd : UnitName.drc ∉ us)
    (hn : UnitName.nvc ∉ us) (hm : Memory.wf t.spm.mem) : t.memWf := by
  refine ⟨hm, ?_, ?_⟩
  · rw [show t.drc = s.drc from k.1 .drc hd]
    exact h.2.1
  · rw [show t.nvc = s.nvc from k.1 .nvc hn]
    exact h.2.2

theorem memWf_spmWrite (a : Nat) (bs : List Byte) : (spmWrite s a bs).memWf :=
  memWf_of_spm h (only_spmWrite s a bs) (by simp) (by simp) (by
    rw [spmWrite_spm]
    exact memory_wf_memPuts _ _ h.1)

theorem memWf_spmCombine (a : SpmAcc) (f : List Byte → List Byte → List Byte) : (spmCombine s a f).memWf :=
  memWf_of_spm h (only_spmCombine s a f) (by simp) (by simp) (by
    rw [spmCombine_spm]
    exact memory_wf_memPuts _ _ h.1)

theorem memWf_spmAccess (a : SpmAcc) : (spmAccess s a).1.memWf := by
  unfold spmAccess
  dsimp only
  split
  · exact h
  · split
    · exact memWf_only h (only_spmFault s a _) (by simp)
    · split
      · exact memWf_only h (readOnly_spmRead s _ a.off a.len) (by simp)
      · exact memWf_spmWrite h _ _
      · exact memWf_spmCombine h _ _
      · exact memWf_spmCombine h _ _

theorem memWf_serveAcc (a : SpmAcc) (busy : Nat) : (serveAcc s a busy).memWf := by
  have begun : (taken s a busy).memWf := memWf_setSpm h h.1
  exact (serveKeeps_spmGoesOn _ a _ _ _).1.wf (memWf_spmAccess begun a)

omit h in
/-- A served access leaves the frames that a port of the chain holds. -/
theorem inq_serveAcc (a : SpmAcc) (busy j : Nat) : (wport (serveAcc s a busy) j).inq = (wport s j).inq := by
  have made := (only_taken (s := s) a busy).trans (only_spmAccess _ a)
  rw [serveAcc]
  refine ((serveKeeps_spmGoesOn _ a _ _ _).2 j).trans ?_
  exact congrArg WPort.inq (wport_congr (made.1 .wlt (by simp)) j)

omit h in
theorem inq_spmServe (j : Nat) : (wport (spmServe s) j).inq = (wport s j).inq := by
  unfold spmServe
  split
  · exact inq_serveAcc _ _ j
  · split
    · rfl
    · split
      · rfl
      · exact inq_serveAcc _ _ j

theorem memWf_spmServe : (spmServe s).memWf := by
  unfold spmServe
  split
  · exact memWf_serveAcc h _ _
  · split
    · exact h
    · split
      · exact h
      · exact memWf_serveAcc h _ _

theorem memWf_pumped : (pumped s).memWf := memWf_only h (only_pumped s) (by simp)

/-! The checkpoint store. -/

theorem memWf_nvcAccess (m : Requester) (write : Bool) : (nvcAccess s m write).memWf := by
  have started (a : NvcAcc) : (nvcStart s a).memWf := by
    obtain ⟨c, e⟩ := nvcStart_nvc (s := s) a
    refine ⟨?_, ?_, ?_⟩
    · rw [show (nvcStart s a).spm = s.spm from (only_nvcStart (s := s) a).1 .spm (by simp)]
      exact h.1
    · rw [show (nvcStart s a).drc = s.drc from (only_nvcStart (s := s) a).1 .drc (by simp)]
      exact h.2.1
    · rw [e]
      exact h.2.2
  have data : (if write then s else wr s Reg.nvcAccData 0).memWf := memWf_ite h (memWf_only h (only_wr s _ _) (by simp))
  exact memWf_ite (memWf_only data (only_setEvt _ _ _) (by simp)) (started _)

theorem memWf_nvcPut (a : Nat) (bs : List Byte) : (nvcPut s a bs).memWf := memWf_setNvc h (memory_wf_memPuts _ _ h.2.2)

theorem memWf_ckptCommit (o : CkptOp) : (ckptCommit s o).memWf := by
  unfold ckptCommit
  dsimp only
  split
  · exact memWf_only (memWf_nvcPut (memWf_nvcPut h _ _) _ _) (only_fput _ _ _ _ _) (by simp)
  · exact memWf_ite (memWf_setNvc h h.2.2) (memWf_nvcPut h _ _)

theorem memWf_writeTaken (o : CkptOp) (rest : List CkptOp) : (writeTaken s o rest).memWf := by
  have placed := memWf_ckptCommit h o
  have queued : State.memWf { ckptCommit s o with nvc := { (ckptCommit s o).nvc with
      ops := rest.map (fun (x : CkptOp) => { x with since := s.cycle }) } } := placed
  exact memWf_only queued (only_setEvt _ Reg.nvcEvt 0) (by simp)

theorem memWf_ckptDone : (ckptDone s).memWf := by
  cases ho : s.nvc.ops with
  | nil =>
    rw [ckptDone, ho]
    exact h
  | cons o rest =>
    by_cases hd : o.since + 200 * o.total ≤ s.cycle
    · exact memWf_only (memWf_writeTaken h o rest) (ckptDone_takes ho hd) (by simp)
    · simp only [ckptDone, ho, if_pos (Nat.lt_of_not_le hd)]
      exact h

theorem memWf_tamperWipeEnd : (tamperWipeEnd s).memWf := by
  cases hw : s.nvc.wipeAt with
  | none =>
    rw [tamperWipeEnd, hw]
    exact h
  | some c =>
    by_cases hc : c + 1640000 ≤ s.cycle
    · have over_ := (only_latchesCleared (s := s)).trans (only_setEvt _ Reg.nvcEvt 0)
      rw [tamperWipeEnd_due hw hc]
      refine ⟨?_, ?_, ?_⟩
      · rw [show (setEvt (latchesCleared s) Reg.nvcEvt 0).spm = s.spm from over_.1 .spm (by simp)]
        exact h.1
      · rw [show (setEvt (latchesCleared s) Reg.nvcEvt 0).drc = s.drc from over_.1 .drc (by simp)]
        exact h.2.1
      · rw [setEvt_nvc, latchesCleared_nvc]
        exact memory_wf_filter _ h.2.2
    · simp only [tamperWipeEnd, hw, if_pos (Nat.lt_of_not_le hc)]
      exact h

/-! DRAM. -/

theorem memWf_clearEnd : (clearEnd s).memWf := by
  unfold clearEnd
  split
  · exact h
  · exact memWf_ite h (memWf_only (memWf_setDrc h (x := { s.drc with clearDone := true, mem := [] }) (by
      simp [Memory.wf, KMap.wf, KMap.okFrom])) (only_wr _ _ _) (by simp))

theorem memWf_setFlip (mem a : Nat) (f : Option Flip) : (setFlip s mem a f).memWf := h

theorem memWf_copyPage (p sp : Nat) : (copyPage s p sp).memWf := by
  have puts (l m : List Host.Cell) (hm : Memory.wf m) (g : Nat → Nat) :
      Memory.wf (l.foldl (fun m e => memPut m (g e.1) e.2) m) := by
    induction l generalizing m with
    | nil => exact hm
    | cons e l ih => exact ih _ (memory_wf_memPut _ _ hm)
  unfold copyPage
  dsimp only
  refine memWf_foldl (fun t w ht => ?_) _ (memWf_setDrc h
    (puts _ _ (memory_wf_filter _ h.2.1) (fun a => a - p * 4096 + sp * 4096)))
  split
  · exact memWf_setFlip ht _ _ _
  · exact memWf_setFlip (memWf_setDrc ht (memory_wf_memPuts _ _ ht.2.1)) _ _ _

theorem memWf_charge (slot : Bool) (m n : Nat) : (charge s slot m n).memWf := by
  have counted := memWf_only h (only_bump s (Reg.rglCnt (clsOf s m) (if slot then 0 else 1)) n) (by simp)
  exact memWf_ite counted counted

theorem memWf_rsvd (m off : Nat) : (rsvd s m off).memWf := memWf_only h (only_rsvd s m off) (by simp)

theorem memWf_setRetire (i : Nat) (r : Option Retire) : (setRetire s i r).memWf := h

theorem memWf_retireWrite (m v : Nat) : (retireWrite s m v).memWf := by
  have moved (p sp i : Nat) (r : Retire) : (charge (setRetire (copyPage s p sp) i (some r)) false 44 128).memWf :=
    memWf_charge (memWf_setRetire (memWf_copyPage h p sp) i (some r)) _ _ _
  unfold retireWrite
  dsimp only
  split
  · exact memWf_ite (memWf_rsvd h _ _) h
  · exact memWf_ite (memWf_rsvd h _ _) (moved _ _ _ _)

/-! The march (R436–R439). -/

theorem memWf_marchRead (mem a : Nat) (f : Flip) : (marchRead s mem a f).memWf := by
  unfold marchRead
  dsimp only
  split
  · exact h
  · exact memWf_only h (readOnly_trackCorrected _ _ _ _) (by simp)
  · exact memWf_only h (readOnly_trackUncorrectable _ _ _ _) (by simp)

theorem memWf_restoreWord (mem a : Nat) (f : Flip) : (restoreWord s mem a f).memWf :=
  memWf_ite (memWf_setFlip (memWf_setSpm h (memory_wf_memPuts _ _ h.1)) _ _ _)
    (memWf_setFlip (memWf_ite (memWf_setDrc h (memory_wf_memPuts _ _ h.2.1)) h) _ _ _)

theorem memWf_wordCleaned (mem a : Nat) : (wordCleaned s mem a).memWf := by
  have k := spares_wordCleaned s mem a
  have same : SameMems s (wordCleaned s mem a) := ⟨congrArg SpmSt.mem (k.units .spm (by simp)),
    congrArg DrcSt.mem (k.units .drc (by simp)), congrArg NvcSt.mem (k.units .nvc (by simp))⟩
  exact same.wf h

theorem memWf_marchRestore (m : March) : (marchRestore s m).memWf := by
  have cleaned := memWf_foldl (fun t (e : Nat × Flip) ht => memWf_wordCleaned (s := t) ht m.mem e.1) (marchFlips s m) h
  exact memWf_ite (memWf_foldl (fun t e ht => memWf_restoreWord (memWf_marchRead ht _ _ _) _ _ _) _ h)
    (memWf_ite (memWf_setDrc cleaned (memory_wf_filter _ cleaned.2.1)) (memWf_setSpm cleaned (memory_wf_filter _ cleaned.1)))

theorem memWf_marchFailed (mem a : Nat) : (marchFailed s mem a).memWf :=
  memWf_only (memWf_only (memWf_only (memWf_only h (readOnly_intLog (mem := mem) _ _ _ _ _ _) (by simp))
    (only_setEvt _ _ _) (by simp)) (only_bump _ _ _) (by simp)) (readOnly_sticky _ _ _ _) (by simp)

theorem memWf_marchDone (fails : List Nat) : (marchDone s fails).memWf := by
  unfold marchDone
  split
  · exact h
  · rename_i m _
    dsimp only
    split
    · exact h
    · have restored : (marchRestore { s with intg := { s.intg with march := none } } m).memWf :=
        memWf_marchRestore (s := { s with intg := { s.intg with march := none } }) h m
      have failed (l : List Nat) := memWf_foldl (fun t a ht => memWf_marchFailed (s := t) ht m.mem a) l restored
      refine memWf_only ?_ (only_setEvt _ Reg.intEvt 5) (by simp)
      split
      · exact memWf_only (memWf_only (failed _) (only_wr _ _ _) (by simp)) (only_wr _ _ _) (by simp)
      · exact memWf_only (memWf_only (memWf_only (failed _) (only_wr _ _ _) (by simp)) (only_wr _ _ _) (by simp))
          (only_wr _ _ _) (by simp)

end Wf

/-- Settles O59: every write of the three memories is of bytes put or cut out, which keeps the form; the rest leaves them. -/
theorem memoryCommandsKeepTheCanonicalForm : Obligations.MemoryCommandsKeepTheCanonicalForm := by
  unfold Obligations.MemoryCommandsKeepTheCanonicalForm
  intro s ha h
  refine ⟨fun h0 h1 => ?_, fun m hw => ends_of (exec_nvcAccWrite hw) ?_, ends_of (core_checkpointWriteDone ha) ?_,
    ends_of (core_tamperWipeEnd ha) ?_, ends_of (core_dramClearEnd ha) ?_, fun fails => ends_of (core_marchDone fails ha) ?_,
    fun m v hw => ends_of (exec_retireEntWrite v hw) ?_⟩
  · refine ends_of (core_scratchpadServe ha) (memWf_finish ?_ s)
    rw [serveSpm_eq ((inq_spmServe 0).trans h0) ((inq_spmServe 1).trans h1)]
    exact memWf_pumped (memWf_spmServe h)
  · exact memWf_finish (memWf_nvcAccess (memWf_portCount h m) m true) s
  · exact memWf_finish (memWf_only (memWf_ckptDone h) (only_ckptEnds s) (by simp)) s
  · exact memWf_finish (memWf_tamperWipeEnd h) s
  · exact memWf_finish (memWf_clearEnd h) s
  · exact memWf_finish (memWf_marchDone h fails) s
  · exact memWf_finish (memWf_retireWrite (memWf_portCount h m) _ _) s

end Sys2Proof.Machine
end

section
namespace Sys2Proof.Machine

/-! ### A DMA channel's registers and moves (R463–R467) -/

theorem Only.rd_above {us : List UnitName} {rs : List Nat} {s t : State} (h : Only us rs s t) {o : Nat} (ho : aboveCounts o)
    (hn : o ∉ rs) : rd t o = rd s o := h.2.1 o (aboveCounts_not_mem_msgRegs ho) hn

section Frames
variable (s : State)

theorem only_hostSend {f : Nat} (hf : f < 2) (o : Out) : Only [] [] s (hostSend s f o) := by
  unfold hostSend
  dsimp only
  split
  · have counted := (only_setOut s (s.out ++ [o])).trans (only_bump { s with out := s.out ++ [o] } (Reg.hstPcieCnt f 3) 1)
    refine ⟨counted.1, fun x hx _ => counted.2.1 x hx ?_, counted.2.2⟩
    rcases (by omega : f = 0 ∨ f = 1) with rfl | rfl <;> simp [msgRegs] at hx ⊢ <;> tauto
  · exact only_setPcie f _ rfl rfl rfl rfl rfl rfl rfl

theorem only_setHost (l : List HostReq) : Only [.host] [] s { s with host := l } :=
  only_units (fun u hu => by cases u <;> simp [UnitName.same] at *) rfl rfl

/-- A read of host memory is asked for and awaited. -/
def awaited (f addr len : Nat) (use : HostUse) : State :=
  { s with
    rgl := { s.rgl with nextId := s.rgl.nextId + 1 }
    host := s.host ++ [⟨s.rgl.nextId, f, addr, len, use, s.cycle⟩] }

theorem hostRead_eq (f addr len : Nat) (use : HostUse) :
    hostRead s f addr len use = hostSend (awaited s f addr len use) f (.hostRead f s.rgl.nextId addr len) := rfl

theorem only_awaited (f addr len : Nat) (use : HostUse) : Only [.rgl, .host] [] s (awaited s f addr len use) :=
  only_units (fun u hu => by cases u <;> simp [UnitName.same, awaited] at *) rfl rfl

theorem only_hostRead {f : Nat} (hf : f < 2) (addr len : Nat) (use : HostUse) :
    Only [.rgl, .host] [] s (hostRead s f addr len use) := by
  rw [hostRead_eq]
  exact ((only_awaited s f addr len use).trans (only_hostSend _ hf _)).mono (by simp) (by simp)

theorem mem_host_hostRead {f : Nat} (hf : f < 2) (addr len : Nat) (use : HostUse) :
    ⟨s.rgl.nextId, f, addr, len, use, s.cycle⟩ ∈ (hostRead s f addr len use).host := by
  rw [hostRead_eq, show (hostSend (awaited s f addr len use) f (.hostRead f s.rgl.nextId addr len)).host =
    (awaited s f addr len use).host from (only_hostSend _ hf _).1 .host (by simp)]
  simp [awaited]

theorem only_askPort (q : Nat) (kind : SpmKind) (off len : Nat) (data : List Byte) (u : SpmUse) :
    Only [.spm] [] s (askPort s q kind off len data u) := only_setSpm s _

theorem only_dropAsks (p : SpmUse → Bool) : Only [.spm] [] s (dropAsks s p) := only_setSpm s _

theorem only_withdraw (p : Req → Bool) : Only [.rgl] [] s (withdraw s p) := only_setRgl s _

theorem only_dmaDrop (n : Nat) : Only [.spm, .dma, .rgl] [] s (dmaDrop s n) :=
  (((only_dropAsks s (dmaUse n)).trans (only_setDma _ n _)).trans (only_withdraw _ _)).mono (by simp) (by simp)

theorem only_dmaFollow (n : Nat) : Only [] [Reg.hstDmaStat n] s (dmaFollow s n) :=
  (Only.refl _ _ s).ite (only_fput s _ _ _ _)

end Frames

section Channel
variable {s t : State} {n : Nat}

/-- The channel's registers lie above the counters of requests. -/
theorem aboveCounts_dma {o : Nat} (h : 0x130800 ≤ o) : aboveCounts o := by
  simp only [aboveCounts, Reg.hstPcieCnt]
  omega

theorem above_dmaCfg : aboveCounts (Reg.hstDmaCfg n) := aboveCounts_dma (by simp [Reg.hstDmaCfg])
theorem above_dmaCtrl : aboveCounts (Reg.hstDmaCtrl n) := aboveCounts_dma (by simp only [Reg.hstDmaCtrl]; omega)
theorem above_dmaHead : aboveCounts (Reg.hstDmaHead n) := aboveCounts_dma (by simp only [Reg.hstDmaHead]; omega)
theorem above_dmaTail : aboveCounts (Reg.hstDmaTail n) := aboveCounts_dma (by simp only [Reg.hstDmaTail]; omega)
theorem above_dmaStat : aboveCounts (Reg.hstDmaStat n) := aboveCounts_dma (by simp only [Reg.hstDmaStat]; omega)
theorem above_dmaEvt : aboveCounts (Reg.hstDmaEvt n) := aboveCounts_dma (by simp only [Reg.hstDmaEvt]; omega)
theorem above_dmaBase : aboveCounts (Reg.hstDmaBase n) := aboveCounts_dma (by simp only [Reg.hstDmaBase]; omega)

/-- What a channel's moves read of its registers and its engine is the same in both states. -/
structure SameChannel (n : Nat) (s t : State) : Prop where
  cfg : rd t (Reg.hstDmaCfg n) = rd s (Reg.hstDmaCfg n)
  en : dmaEn t n = dmaEn s n
  size : dmaSize t n = dmaSize s n
  head : rd t (Reg.hstDmaHead n) = rd s (Reg.hstDmaHead n)
  tail : rd t (Reg.hstDmaTail n) = rd s (Reg.hstDmaTail n)
  stat : rd t (Reg.hstDmaStat n) = rd s (Reg.hstDmaStat n)
  base : rd t (Reg.hstDmaBase n) = rd s (Reg.hstDmaBase n)
  ch : dmaCh t n = dmaCh s n
  power : t.pwr = s.pwr

theorem SameChannel.trans {u : State} (h : SameChannel n s t) (k : SameChannel n t u) : SameChannel n s u :=
  ⟨k.cfg.trans h.cfg, k.en.trans h.en, k.size.trans h.size, k.head.trans h.head, k.tail.trans h.tail, k.stat.trans h.stat,
    k.base.trans h.base, k.ch.trans h.ch, k.power.trans h.power⟩

theorem SameChannel.state (h : SameChannel n s t) : dmaState t n = dmaState s n := fget_congr h.stat 31 30

theorem SameChannel.owner (h : SameChannel n s t) : dmaOwner t n = dmaOwner s n := fget_congr h.cfg 1 0

theorem SameChannel.descAddr (h : SameChannel n s t) : dmaDescAddr t n = dmaDescAddr s n := by
  rw [dmaDescAddr, dmaDescAddr, h.base, h.size, fget_congr h.head]

theorem SameChannel.posted (h : SameChannel n s t) : dmaPosted t n = dmaPosted s n := by
  rw [dmaPosted, dmaPosted, fget_congr h.tail, fget_congr h.head]

theorem Only.sameChannel {us : List UnitName} {rs : List Nat} (h : Only us rs s t) (hd : UnitName.dma ∉ us)
    (hp : UnitName.pwr ∉ us)
    (hr : ∀ o ∈ [Reg.hstDmaCfg n, Reg.hstDmaCtrl n, Reg.hstDmaHead n, Reg.hstDmaTail n, Reg.hstDmaStat n, Reg.hstDmaBase n],
      o ∉ rs) : SameChannel n s t where
  cfg := h.rd_above above_dmaCfg (hr _ (by simp))
  en := flag_congr (h.rd_above above_dmaCtrl (hr _ (by simp))) 4
  size := congrArg (2 ^ ·) (fget_congr (h.rd_above above_dmaCtrl (hr _ (by simp))) 3 0)
  head := h.rd_above above_dmaHead (hr _ (by simp))
  tail := h.rd_above above_dmaTail (hr _ (by simp))
  stat := h.rd_above above_dmaStat (hr _ (by simp))
  base := h.rd_above above_dmaBase (hr _ (by simp))
  ch := by rw [dmaCh, dmaCh, show t.dma = s.dma from h.1 .dma hd]
  power := h.1 .pwr hp

theorem sameChannel_portCount (m : Requester) : SameChannel n s (portCount s m) :=
  (only_portCount s m).sameChannel (by simp) (by simp) fun o ho =>
    aboveCounts_not_mem_portRegs m (aboveCounts_dma (by
      simp [Reg.hstDmaCfg, Reg.hstDmaCtrl, Reg.hstDmaHead, Reg.hstDmaTail, Reg.hstDmaStat, Reg.hstDmaBase] at ho
      omega))

theorem sameChannel_finish (s0 : State) : SameChannel n t (finish s0 t) :=
  ⟨rd_finish_above s0 above_dmaCfg t, flag_congr (rd_finish_above s0 above_dmaCtrl t) 4,
    congrArg (2 ^ ·) (fget_congr (rd_finish_above s0 above_dmaCtrl t) 3 0), rd_finish_above s0 above_dmaHead t,
    rd_finish_above s0 above_dmaTail t, rd_finish_above s0 above_dmaStat t, rd_finish_above s0 above_dmaBase t,
    by rw [dmaCh, dmaCh, finish_dma], finish_pwr s0 t⟩

theorem dmaMay_congr (h : SameChannel n s t) (m : Requester) : dmaMay t m n = dmaMay s m n := by
  cases m <;> simp [dmaMay, h.owner]

@[simp] theorem dmaCh_setDma (s : State) (n : Nat) (x : DmaCh) : dmaCh (setDma s n x) n = x := by simp [dmaCh, setDma]

theorem dmaCh_congr (h : t.dma = s.dma) (n : Nat) : dmaCh t n = dmaCh s n := by rw [dmaCh, dmaCh, h]

/-- Where the ring lies, whose it is, and whether grants go on are the same in both states. -/
structure SameBase (n : Nat) (s t : State) : Prop where
  cfg : rd t (Reg.hstDmaCfg n) = rd s (Reg.hstDmaCfg n)
  size : dmaSize t n = dmaSize s n
  base : rd t (Reg.hstDmaBase n) = rd s (Reg.hstDmaBase n)
  power : t.pwr = s.pwr

theorem SameChannel.toBase (h : SameChannel n s t) : SameBase n s t := ⟨h.cfg, h.size, h.base, h.power⟩

theorem SameBase.trans {u : State} (h : SameBase n s t) (k : SameBase n t u) : SameBase n s u :=
  ⟨k.cfg.trans h.cfg, k.size.trans h.size, k.base.trans h.base, k.power.trans h.power⟩

theorem SameBase.owner (h : SameBase n s t) : dmaOwner t n = dmaOwner s n := fget_congr h.cfg 1 0

theorem Only.sameBase {us : List UnitName} {rs : List Nat} (h : Only us rs s t) (hp : UnitName.pwr ∉ us)
    (hr : ∀ o ∈ [Reg.hstDmaCfg n, Reg.hstDmaCtrl n, Reg.hstDmaBase n], o ∉ rs) : SameBase n s t where
  cfg := h.rd_above above_dmaCfg (hr _ (by simp))
  size := congrArg (2 ^ ·) (fget_congr (h.rd_above above_dmaCtrl (hr _ (by simp))) 3 0)
  base := h.rd_above above_dmaBase (hr _ (by simp))
  power := h.1 .pwr hp

/-! STATE follows the ring (R465). -/

theorem dmaState_follow (h : dmaState s n ≠ 2) :
    dmaState (dmaFollow s n) n = if dmaEn s n && decide (dmaPosted s n ≠ 0) then 1 else 0 := by
  rw [dmaFollow, if_neg h, dmaState, fget_fput_same _ _ _ _ _ (by decide) (by decide)]
  split <;> simp_all

theorem dmaState_wr (v : Nat) : dmaState (wr s (Reg.hstDmaStat n) v) n = bitsOf v 31 30 := by
  rw [dmaState, fget, rd_wr_same, bitsOf_mod _ _ (by decide)]

/-! A status written back: HEAD advances (R465–R467). -/

/-- The ended descriptor's place is given up, before the STATE follows. -/
def dmaPassed (s : State) (n : Nat) : State :=
  setDma (wr (if dmaState s n = 2 then wr s (Reg.hstDmaStat n) 0 else s) (Reg.hstDmaHead n)
    ((fget s (Reg.hstDmaHead n) 15 0 + 1) % 65536)) n ⟨false, none, (dmaCh s n).seq + 1⟩

theorem dmaAdvance_eq (s : State) (n : Nat) (irq : Bool) : dmaAdvance s n irq =
    if irq then setEvt (dmaFollow (dmaPassed s n) n) (Reg.hstDmaEvt n) 0 else dmaFollow (dmaPassed s n) n := by
  have ne : Reg.hstDmaHead n ≠ Reg.hstDmaStat n := by simp [Reg.hstDmaHead, Reg.hstDmaStat]
  unfold dmaAdvance dmaPassed
  dsimp only
  by_cases h : dmaState s n = 2
  · simp only [h, if_true, fget_congr (rd_wr_ne s (0 : Nat) ne) 15 0, dmaCh_congr (wr_dma _ _ _) n]
  · simp only [h, if_false, dmaCh_congr (wr_dma _ _ _) n]

theorem only_dmaPassed (s : State) (n : Nat) : Only [.dma] [Reg.hstDmaStat n, Reg.hstDmaHead n] s (dmaPassed s n) := by
  have stat : Only [.dma] [Reg.hstDmaStat n, Reg.hstDmaHead n] s (if dmaState s n = 2 then wr s (Reg.hstDmaStat n) 0 else s) :=
    ((only_wr s _ _).mono (by simp) (by simp)).ite (Only.refl _ _ s)
  exact (stat.wr _ (by simp)).more (only_setDma _ _ _) (by simp) (by simp)

theorem dmaState_passed (s : State) (n : Nat) : dmaState (dmaPassed s n) n ≠ 2 := by
  have ne : Reg.hstDmaStat n ≠ Reg.hstDmaHead n := by simp [Reg.hstDmaHead, Reg.hstDmaStat]
  have e : dmaState (dmaPassed s n) n = dmaState (if dmaState s n = 2 then wr s (Reg.hstDmaStat n) 0 else s) n :=
    fget_congr (rd_wr_ne _ _ ne) 31 30
  rw [e]
  split
  · rw [dmaState_wr]
    decide
  · assumption

theorem rd_head_passed (s : State) (n : Nat) :
    rd (dmaPassed s n) (Reg.hstDmaHead n) = (fget s (Reg.hstDmaHead n) 15 0 + 1) % 65536 :=
  (rd_wr_same _ _ _).trans (Nat.mod_eq_of_lt (by omega))

theorem ch_passed (s : State) (n : Nat) : dmaCh (dmaPassed s n) n = ⟨false, none, (dmaCh s n).seq + 1⟩ := dmaCh_setDma _ _ _

/-- The ring after HEAD has advanced. -/
def postedNext (s : State) (n : Nat) : Nat :=
  (fget s (Reg.hstDmaTail n) 15 0 + 65536 - (fget s (Reg.hstDmaHead n) 15 0 + 1) % 65536) % 65536

theorem dmaPosted_passed (s : State) (n : Nat) : dmaPosted (dmaPassed s n) n = postedNext s n := by
  have tail : rd (dmaPassed s n) (Reg.hstDmaTail n) = rd s (Reg.hstDmaTail n) :=
    (only_dmaPassed s n).rd_above above_dmaTail (by simp [Reg.hstDmaTail, Reg.hstDmaStat, Reg.hstDmaHead])
  have head : fget (dmaPassed s n) (Reg.hstDmaHead n) 15 0 = (fget s (Reg.hstDmaHead n) 15 0 + 1) % 65536 := by
    rw [fget, rd_head_passed, bitsOf_low (by omega)]
  rw [dmaPosted, postedNext, fget_congr tail, head]

theorem dmaEn_passed (s : State) (n : Nat) : dmaEn (dmaPassed s n) n = dmaEn s n :=
  flag_congr ((only_dmaPassed s n).rd_above above_dmaCtrl (by simp [Reg.hstDmaCtrl, Reg.hstDmaStat, Reg.hstDmaHead])) 4

theorem only_dmaAdvance (s : State) (n : Nat) : Only [.dma] [Reg.hstDmaStat n, Reg.hstDmaHead n] s (dmaAdvance s n false) := by
  rw [dmaAdvance_eq]
  exact (only_dmaPassed s n).more (only_dmaFollow _ n) (by simp) (by simp)

theorem only_dmaAdvance_irq (s : State) (n : Nat) (irq : Bool) :
    Only [.dma] [Reg.hstDmaStat n, Reg.hstDmaHead n, Reg.hstDmaEvt n] s (dmaAdvance s n irq) := by
  have moved : Only [.dma] [Reg.hstDmaStat n, Reg.hstDmaHead n, Reg.hstDmaEvt n] s (dmaFollow (dmaPassed s n) n) :=
    ((only_dmaPassed s n).mono (by simp) (by simp)).more (only_dmaFollow _ n) (by simp) (by simp)
  rw [dmaAdvance_eq]
  exact (moved.setEvt _ (by simp)).ite moved

/-- The event apart, the channel's registers after it has advanced are those after STATE followed. -/
theorem rd_dmaAdvance (s : State) (irq : Bool) {o : Nat} (h : o ≠ Reg.hstDmaEvt n) :
    rd (dmaAdvance s n irq) o = rd (dmaFollow (dmaPassed s n) n) o := by
  rw [dmaAdvance_eq]
  split
  · exact rd_setEvt_ne _ _ h
  · rfl

theorem rd_head_dmaAdvance (s : State) (n : Nat) (irq : Bool) :
    rd (dmaAdvance s n irq) (Reg.hstDmaHead n) = (fget s (Reg.hstDmaHead n) 15 0 + 1) % 65536 := by
  rw [rd_dmaAdvance s irq (by simp [Reg.hstDmaHead, Reg.hstDmaEvt]),
    (only_dmaFollow _ n).rd_above above_dmaHead (by simp [Reg.hstDmaHead, Reg.hstDmaStat]), rd_head_passed]

theorem dmaState_advance (s : State) (n : Nat) (irq : Bool) :
    dmaState (dmaAdvance s n irq) n = if dmaEn s n && decide (postedNext s n ≠ 0) then 1 else 0 := by
  have stat := rd_dmaAdvance (n := n) s irq (o := Reg.hstDmaStat n) (by simp [Reg.hstDmaStat, Reg.hstDmaEvt])
  rw [dmaState, fget_congr stat, ← dmaState, dmaState_follow (dmaState_passed s n), dmaEn_passed, dmaPosted_passed]

theorem dmaState_advance_ne (s : State) (n : Nat) (irq : Bool) : dmaState (dmaAdvance s n irq) n ≠ 2 := by
  rw [dmaState_advance]
  split <;> decide

theorem ch_dmaAdvance (s : State) (n : Nat) (irq : Bool) :
    dmaCh (dmaAdvance s n irq) n = ⟨false, none, (dmaCh s n).seq + 1⟩ := by
  have follow : dmaCh (dmaFollow (dmaPassed s n) n) n = dmaCh (dmaPassed s n) n :=
    dmaCh_congr ((only_dmaFollow _ n).1 .dma (by simp)) n
  rw [← ch_passed s n, ← follow, dmaAdvance_eq]
  split
  · exact dmaCh_congr (setEvt_dma _ _ _) n
  · rfl

theorem flag_dmaAdvance (s : State) (n : Nat) : flag (dmaAdvance s n true) (Reg.hstDmaEvt n) 0 = true := by
  rw [dmaAdvance_eq, if_pos rfl]
  exact flag_setEvt_same _ _ _ (by decide)

/-! The descriptor at HEAD is asked of host memory (R465). -/

/-- The channel awaits the descriptor at HEAD. -/
def dmaAwaits (s : State) (n : Nat) : State :=
  hostRead (setDma s n { dmaCh s n with fetching := true }) (dmaOwner s n) (dmaDescAddr s n) 32 (.dmaDesc n)

theorem dmaDescAddr_le (h : rd s (Reg.hstDmaBase n) + 32 * dmaSize s n ≤ 2 ^ 63) : dmaDescAddr s n + 32 ≤ 2 ^ 63 := by
  have slot : fget s (Reg.hstDmaHead n) 15 0 % dmaSize s n < dmaSize s n := Nat.mod_lt _ (by simp [dmaSize])
  rw [dmaDescAddr]
  omega

theorem dmaMove_fetches (hs : dmaState s n = 1) (hf : (dmaCh s n).fetching = false) (ha : asks s (.dma n) = false)
    (ho : (dmaCh s n).op = none) (hg : s.pwr.stopGrants = false) (hown : dmaOwner s n ≤ 1)
    (hb : rd s (Reg.hstDmaBase n) + 32 * dmaSize s n ≤ 2 ^ 63) : dmaMove s n = dmaAwaits s n := by
  have top := dmaDescAddr_le hb
  have low : dmaDescAddr s n / 2 ^ 62 ≤ 1 := by omega
  have ok : dmaAddrOk s n (dmaDescAddr s n) 32 false = true := by
    rw [dmaAddrOk, if_pos low]
    exact decide_eq_true hown
  have fetch : dmaFetch s n = dmaAwaits s n := by
    rw [dmaFetch]
    dsimp only
    rw [if_neg (by simp only [ok, Bool.not_true, Bool.false_or, decide_eq_true_eq]; omega), if_neg (by omega),
      bitsOf_low (by omega)]
    rfl
  rw [dmaMove]
  simp [hs, hf, ha, ho, hg, fetch]

/-- A channel of the same ring that runs with nothing begun asks for its descriptor. -/
theorem SameBase.fetches (h : SameBase n s t) (hg : s.pwr.stopGrants = false) (hown : dmaOwner s n ≤ 1)
    (hb : rd s (Reg.hstDmaBase n) + 32 * dmaSize s n ≤ 2 ^ 63) (hs : dmaState t n = 1) (hf : (dmaCh t n).fetching = false)
    (ho : (dmaCh t n).op = none) (ha : asks t (.dma n) = false) : dmaMove t n = dmaAwaits t n :=
  dmaMove_fetches hs hf ha ho (by rwa [h.power]) (by rwa [h.owner]) (by rwa [h.base, h.size])

theorem only_dmaAwaits (h : dmaOwner s n ≤ 1) : Only [.dma, .rgl, .host] [] s (dmaAwaits s n) :=
  ((only_setDma s n _).trans (only_hostRead _ (by omega) _ _ _)).mono (by simp) (by simp)

theorem ch_dmaAwaits (h : dmaOwner s n ≤ 1) : (dmaCh (dmaAwaits s n) n).fetching = true := by
  rw [dmaAwaits, dmaCh_congr ((only_hostRead _ (by omega) _ _ _).1 .dma (by simp)), dmaCh_setDma]

theorem host_dmaAwaits (h : dmaOwner s n ≤ 1) : ∃ r ∈ (dmaAwaits s n).host, r.use = .dmaDesc n ∧ r.len = 32 ∧
    r.f = dmaOwner s n ∧ r.addr = dmaDescAddr s n :=
  ⟨_, mem_host_hostRead _ (by omega) _ _ _, rfl, rfl, rfl, rfl⟩

/-- The read that a channel of the same ring awaits. -/
theorem SameBase.host_awaits (h : SameBase n s t) (hown : dmaOwner s n ≤ 1) : ∃ r ∈ (dmaAwaits t n).host,
    r.use = .dmaDesc n ∧ r.len = 32 ∧ r.f = dmaOwner s n ∧
      r.addr = rd s (Reg.hstDmaBase n) + 32 * (fget t (Reg.hstDmaHead n) 15 0 % dmaSize s n) := by
  obtain ⟨r, hr, use, len, f, addr⟩ := host_dmaAwaits (s := t) (n := n) (by rwa [h.owner])
  exact ⟨r, hr, use, len, f.trans h.owner, addr.trans (by rw [dmaDescAddr, h.base, h.size])⟩

end Channel

end Sys2Proof.Machine
end

section
namespace Sys2Proof.Machine

/-! ### O50: what a channel's register writes do (R463–R467) -/

section Doorbell
variable {s : State} {m : Requester} {n : Fin 8} {v : BitVec 32}

/-- A write by another than the owner and the bench core is refused (R463). -/
theorem dmaGuard_refused (hmay : dmaMay s m n = false) (off : Nat) (go : State) :
    dmaGuard (portCount s m) m n off go = rsvd (portCount s m) m.code off := by
  rw [dmaGuard, dmaMay_congr (sameChannel_portCount m), hmay]
  rfl

theorem dmaGuard_goes (hmay : dmaMay s m n = true) (off : Nat) (go : State) : dmaGuard (portCount s m) m n off go = go := by
  rw [dmaGuard, dmaMay_congr (sameChannel_portCount m), if_pos hmay]

theorem refused {c : Instr} {off : Nat} (e : exec c s = .next (finish s (rsvd (portCount s m) m.code off))) :
    Ends c s fun t => flag t Reg.topErr 0 = true ∧ Only [] (errRegs ++ portRegs m) s t :=
  ends_of e ⟨(flag_congr (rd_finish_below s (belowCounts_of_lt (by decide))) 0).trans (flag_rsvd _ _ _),
    (only_rsvd _ _ _).counted⟩

theorem dmaEnable_refused (hw : mayWrite s m (Reg.hstDmaCtrl n) 4 = true) (hmay : dmaMay s m n = false) :
    Ends (.dmaEnable m n v) s fun t => flag t Reg.topErr 0 = true ∧ Only [] (errRegs ++ portRegs m) s t := by
  refine refused (off := Reg.hstDmaCtrl n) ?_
  rw [exec_dmaEnable n v hw, dmaCtrlWrite, dmaGuard_refused hmay]

theorem dmaDoorbell_refused (hw : mayWrite s m (Reg.hstDmaTail n) 4 = true)
    (h : dmaMay s m n = false ∨ (dmaEn s n = true ∧
      dmaSize s n < (v.toNat % 65536 + 65536 - fget s (Reg.hstDmaHead n) 15 0) % 65536)) :
    Ends (.dmaDoorbell m n v) s fun t => flag t Reg.topErr 0 = true ∧ Only [] (errRegs ++ portRegs m) s t := by
  have same := sameChannel_portCount (s := s) (n := n) m
  refine refused (off := Reg.hstDmaTail n) ?_
  rw [exec_dmaDoorbell n v hw, Machine.dmaDoorbell]
  by_cases hmay : dmaMay s m n = true
  · obtain ⟨en, past⟩ := h.resolve_left (by simp [hmay])
    rw [dmaGuard_goes hmay, if_pos (by rw [same.en, same.size, fget_congr same.head, en]; simpa using past)]
  · rw [dmaGuard_refused (by simpa using hmay)]

/-- TAIL as posted, and STATE after it. -/
def tailPosted (u : State) (n v : Nat) : State := dmaFollow (wr u (Reg.hstDmaTail n) (v % 65536)) n

theorem only_tailPosted (u : State) (n v : Nat) : Only [] [Reg.hstDmaTail n, Reg.hstDmaStat n] u (tailPosted u n v) :=
  ((only_wr u _ _).trans (only_dmaFollow _ n)).mono (by simp) (by simp)

theorem rd_tailPosted (u : State) (n v : Nat) : rd (tailPosted u n v) (Reg.hstDmaTail n) = v % 65536 := by
  rw [tailPosted, (only_dmaFollow _ n).rd_above above_dmaTail (by simp [Reg.hstDmaTail, Reg.hstDmaStat]), rd_wr_same]
  omega

theorem dmaState_tailPosted {u : State} {n v : Nat} (hs : dmaState u n ≠ 2) (hen : dmaEn u n = true)
    (hp : 0 < (v % 65536 + 65536 - fget u (Reg.hstDmaHead n) 15 0) % 65536) : dmaState (tailPosted u n v) n = 1 := by
  have written := only_wr u (Reg.hstDmaTail n) (v % 65536)
  have head := written.rd_above (above_dmaHead (n := n)) (by simp [Reg.hstDmaTail, Reg.hstDmaHead])
  have stat := written.rd_above (above_dmaStat (n := n)) (by simp [Reg.hstDmaTail, Reg.hstDmaStat])
  have ctrl := written.rd_above (above_dmaCtrl (n := n)) (by simp [Reg.hstDmaTail, Reg.hstDmaCtrl])
  have posted : dmaPosted (wr u (Reg.hstDmaTail n) (v % 65536)) n ≠ 0 := by
    have tail : fget (wr u (Reg.hstDmaTail n) (v % 65536)) (Reg.hstDmaTail n) 15 0 = v % 65536 := by
      rw [fget, rd_wr_same, bitsOf_mod _ _ (by decide), bitsOf_low (by omega)]
    rw [dmaPosted, tail, fget_congr head]
    omega
  have en : dmaEn (wr u (Reg.hstDmaTail n) (v % 65536)) n = true := (flag_congr ctrl 4).trans hen
  rw [tailPosted, dmaState_follow (by rwa [dmaState, fget_congr stat]), en]
  simp [posted]

theorem dmaDoorbell_fetches (hw : mayWrite s m (Reg.hstDmaTail n) 4 = true) (hmay : dmaMay s m n = true)
    (hen : dmaEn s n = true) (hs : dmaState s n ≠ 2) (ho : (dmaCh s n).op = none) (hf : (dmaCh s n).fetching = false)
    (hask : asks s (.dma n) = false) (hg : s.pwr.stopGrants = false) (hown : dmaOwner s n ≤ 1)
    (hb : rd s (Reg.hstDmaBase n) + 32 * dmaSize s n ≤ 2 ^ 63)
    (hp : 0 < (v.toNat % 65536 + 65536 - fget s (Reg.hstDmaHead n) 15 0) % 65536)
    (hroom : (v.toNat % 65536 + 65536 - fget s (Reg.hstDmaHead n) 15 0) % 65536 ≤ dmaSize s n) :
    ∃ t, exec (.dmaDoorbell m n v) s = .next t ∧
      rd t (Reg.hstDmaTail n) = v.toNat % 65536 ∧ dmaState t n = 1 ∧ (dmaCh t n).fetching = true ∧
      (∃ r ∈ t.host, r.use = .dmaDesc n ∧ r.len = 32 ∧ r.f = dmaOwner s n ∧
        r.addr = rd s (Reg.hstDmaBase n) + 32 * (fget s (Reg.hstDmaHead n) 15 0 % dmaSize s n)) ∧
      Only [.dma, .host, .rgl] ([Reg.hstDmaTail n, Reg.hstDmaStat n] ++ portRegs m) s t := by
  have same := sameChannel_portCount (s := s) (n := n) m
  have only := only_tailPosted (portCount s m) n v.toNat
  have base : SameBase n s (tailPosted (portCount s m) n v.toNat) := same.toBase.trans (only.sameBase (by simp)
    (by simp [Reg.hstDmaCfg, Reg.hstDmaCtrl, Reg.hstDmaBase, Reg.hstDmaTail, Reg.hstDmaStat]))
  have head := (only.rd_above (above_dmaHead (n := n)) (by simp [Reg.hstDmaHead, Reg.hstDmaTail, Reg.hstDmaStat])).trans same.head
  have ch : dmaCh (tailPosted (portCount s m) n v.toNat) n = dmaCh s n := (dmaCh_congr (only.1 .dma (by simp)) n).trans same.ch
  have port : (tailPosted (portCount s m) n v.toNat).spm = s.spm := ((only_portCount s m).trans only).1 .spm (by simp)
  have run : dmaState (tailPosted (portCount s m) n v.toNat) n = 1 :=
    dmaState_tailPosted (by rwa [same.state]) (by rwa [same.en]) (by rwa [fget_congr same.head])
  have move := base.fetches hg hown hb run (by rwa [ch]) (by rwa [ch]) (by rwa [asks, port])
  have frame := only_dmaAwaits (s := tailPosted (portCount s m) n v.toNat) (n := n) (by rwa [base.owner])
  refine ⟨_, (exec_dmaDoorbell n v hw).trans (congrArg (fun t => Host.Outcome.next (finish s t)) (show _ =
    dmaAwaits (tailPosted (portCount s m) n v.toNat) n from ?_)), ?_, ?_, ?_, ?_, ?_⟩
  · rw [Machine.dmaDoorbell, dmaGuard_goes hmay, ← move, if_neg (by
      rw [same.en, same.size, fget_congr same.head]
      simp
      omega)]
    rfl
  · rw [rd_finish_above s above_dmaTail, frame.rd_above above_dmaTail (by simp), rd_tailPosted]
  · rw [(sameChannel_finish s).state, dmaState, fget_congr (frame.rd_above above_dmaStat (by simp)), ← dmaState, run]
  · rw [(sameChannel_finish s).ch]
    exact ch_dmaAwaits (by rwa [base.owner])
  · obtain ⟨r, hr, use, len, f, addr⟩ := base.host_awaits hown
    exact ⟨r, by rwa [finish_host], use, len, f, addr.trans (by rw [fget_congr head])⟩
  · exact ((only.trans frame).mono (by simp) (by simp)).counted

end Doorbell

end Sys2Proof.Machine
end

section
namespace Sys2Proof.Machine

/-! ### O50: EN, RESUME and SKIP (R459, R465, R467) -/

section Ctrl
variable {s : State} {m : Requester} {n : Fin 8} {v : Nat}

theorem regRow_hstDmaCtrl : ∀ n : Fin 8, regRow (Reg.hstDmaCtrl n) =
    some ⟨"HST_DMA_CTRL", 0x130804, 8, 128, 1, 128, false,
      [fld 31 31 .wo 0, fld 30 30 .wo 0, fld 4 4 .rw 0, fldR 3 0 .rw 0 [(4, 0xC)] 1]⟩ := by decide +kernel

/-- CTRL as a write leaves it: RESUME and SKIP are not kept. -/
def dmaCtrlTaken (s : State) (m : Requester) (n v : Nat) : State :=
  fput (commitFields s m.code (Reg.hstDmaCtrl n) v) (Reg.hstDmaCtrl n) 31 30 0

theorem only_dmaCtrlTaken (s : State) (m : Requester) (n v : Nat) :
    Only [] (Reg.hstDmaCtrl n :: errRegs) s (dmaCtrlTaken s m n v) :=
  (only_commitFields s _ _ _).fput _ _ _ (by simp)

/-- EN and, where it is written as it stands, the ring's size. -/
theorem bits_ctrlCommitted (lock : Bool) (keep old v : Nat) :
    let w := (fieldsWrite lock keep v [fld 31 31 .wo 0, fld 30 30 .wo 0, fld 4 4 .rw 0, fldR 3 0 .rw 0 [(4, 0xC)] 1]
      (old, false, false)).1
    bitOf w 4 = bitOf v 4 ∧ (bitsOf v 3 0 = bitsOf old 3 0 → bitsOf w 3 0 = bitsOf old 3 0) := by
  have plain (i o : Nat) (a : Access) (h : a = .wo ∨ a = .rw) :
      (fld i i a 0).write lock keep o v = (putBits o i i (bitsOf v i i), false, false) := by
    rcases h with rfl | rfl <;> simp [Field.write, fld, Field.allows, Nat.mod_one]
  have size (o : Nat) : ((fldR 3 0 .rw 0 [(4, 0xC)] 1).write lock keep o v).1 = putBits o 3 0 (bitsOf v 3 0) ∨
      ((fldR 3 0 .rw 0 [(4, 0xC)] 1).write lock keep o v).1 = o := by
    by_cases h : (fldR 3 0 .rw 0 [(4, 0xC)] 1).allows (bitsOf v 3 0) = true
    · exact .inl (congrArg Prod.fst (write_rw rfl lock keep o h))
    · exact .inr (congrArg Prod.fst (write_rw_reserved rfl lock keep o (Bool.eq_false_iff.2 h)))
  have en (o : Nat) : bitOf (putBits o 4 4 (bitsOf v 4 4)) 4 = bitOf v 4 := by
    rw [bitOf_putBits _ _ _ _ _ (le_refl 4)]
    simp [bitsOf_single]
  have kept (o : Nat) : bitsOf (putBits (putBits (putBits o 31 31 (bitsOf v 31 31)) 30 30 (bitsOf v 30 30)) 4 4 (bitsOf v 4 4)) 3 0 =
      bitsOf o 3 0 := by
    rw [bitsOf_putBits_apart _ _ _ _ _ _ (by decide) (by decide), bitsOf_putBits_apart _ _ _ _ _ _ (by decide) (by decide),
      bitsOf_putBits_apart _ _ _ _ _ _ (by decide) (by decide)]
  simp only [fieldsWrite, plain, true_or, or_true]
  rcases size (putBits (putBits (putBits old 31 31 (bitsOf v 31 31)) 30 30 (bitsOf v 30 30)) 4 4 (bitsOf v 4 4)) with e | e <;> rw [e]
  · refine ⟨?_, fun h => ?_⟩
    · rw [bitOf_putBits _ _ _ _ _ (by decide)]
      simpa using en _
    · rw [bitsOf_putBits_same _ _ _ _ (by decide), h]
      exact Nat.mod_eq_of_lt (bitsOf_lt _ _ _)
  · exact ⟨en _, fun _ => kept old⟩

theorem hstDmaCtrl_not_err (n : Nat) : Reg.hstDmaCtrl n ∉ errRegs := by
  simp [errRegs, Reg.hstDmaCtrl, Reg.topErr, Reg.topErrAddr]
  omega

theorem dma_not_taken {o n : Nat} (h : 0x130800 ≤ o) (hn : o ≠ Reg.hstDmaCtrl n) : o ∉ Reg.hstDmaCtrl n :: errRegs := by
  simp only [errRegs, Reg.topErr, Reg.topErrAddr, List.mem_cons, List.not_mem_nil, hn, or_false, false_or]
  omega

theorem dmaEn_dmaCtrlTaken (s : State) (m : Requester) (n : Fin 8) (v : Nat) : dmaEn (dmaCtrlTaken s m n v) n = bitOf v 4 := by
  rw [dmaEn, dmaCtrlTaken, flag_fput_apart _ _ (by decide) (by decide) (by decide), flag,
    rd_commitFields (regRow_hstDmaCtrl n) (hstDmaCtrl_not_err n), bitOf_mod _ (by decide)]
  exact (bits_ctrlCommitted _ _ _ v).1

theorem dmaSize_dmaCtrlTaken (s : State) (m : Requester) (n : Fin 8) {v : Nat}
    (h : bitsOf v 3 0 = fget s (Reg.hstDmaCtrl n) 3 0) : dmaSize (dmaCtrlTaken s m n v) n = dmaSize s n := by
  rw [dmaSize, dmaSize, dmaCtrlTaken, fget_fput_apart _ _ _ _ _ _ _ (by decide) (by decide) (by decide), fget,
    rd_commitFields (regRow_hstDmaCtrl n) (hstDmaCtrl_not_err n), bitsOf_mod _ _ (by decide)]
  rw [(bits_ctrlCommitted _ _ _ v).2 h]
  rfl

/-- The channel as CTRL's commit leaves it, EN staying 1 and the ring's size as it stands. -/
theorem sameChannel_dmaCtrlTaken (hen : dmaEn s n = true) (h4 : bitOf v 4 = true)
    (hsize : bitsOf v 3 0 = fget s (Reg.hstDmaCtrl n) 3 0) : SameChannel n s (dmaCtrlTaken (portCount s m) m n v) := by
  have port := sameChannel_portCount (s := s) (n := n) m
  have ctrl : rd (portCount s m) (Reg.hstDmaCtrl n) = rd s (Reg.hstDmaCtrl n) := rd_portCount_above s m above_dmaCtrl
  have only := only_dmaCtrlTaken (portCount s m) m n v
  refine port.trans ⟨only.rd_above above_dmaCfg (dma_not_taken (by simp only [Reg.hstDmaCfg]; omega)
    (by simp only [Reg.hstDmaCfg, Reg.hstDmaCtrl]; omega)),
    ?_, dmaSize_dmaCtrlTaken _ m n (by rw [hsize, fget_congr ctrl]),
    only.rd_above above_dmaHead (dma_not_taken (by simp only [Reg.hstDmaHead]; omega) (by simp only [Reg.hstDmaHead, Reg.hstDmaCtrl]; omega)),
    only.rd_above above_dmaTail (dma_not_taken (by simp only [Reg.hstDmaTail]; omega) (by simp only [Reg.hstDmaTail, Reg.hstDmaCtrl]; omega)),
    only.rd_above above_dmaStat (dma_not_taken (by simp only [Reg.hstDmaStat]; omega) (by simp only [Reg.hstDmaStat, Reg.hstDmaCtrl]; omega)),
    only.rd_above above_dmaBase (dma_not_taken (by simp only [Reg.hstDmaBase]; omega) (by simp only [Reg.hstDmaBase, Reg.hstDmaCtrl]; omega)),
    dmaCh_congr (only.1 .dma (by simp)) n, only.1 .pwr (by simp)⟩
  rw [dmaEn_dmaCtrlTaken, h4, port.en, hen]

end Ctrl

section Enable
variable {s : State} {m : Requester} {n : Fin 8} {v : BitVec 32}

/-- A channel starts with an empty ring and no run. -/
def dmaStarted (u : State) (n : Nat) : State :=
  dmaFollow (wr (wr (wr (dmaDrop u n) (Reg.hstDmaStat n) 0) (Reg.hstDmaHead n) 0) (Reg.hstDmaTail n) 0) n

theorem only_dmaZeroed (u : State) (n : Nat) : Only [.dma, .rgl, .spm] [Reg.hstDmaStat n, Reg.hstDmaHead n, Reg.hstDmaTail n] u
    (wr (wr (wr (dmaDrop u n) (Reg.hstDmaStat n) 0) (Reg.hstDmaHead n) 0) (Reg.hstDmaTail n) 0) :=
  ((((only_dmaDrop u n).mono (by simp) (by simp)).wr _ (by simp)).wr _ (by simp)).wr _ (by simp)

theorem only_dmaStarted (u : State) (n : Nat) :
    Only [.dma, .rgl, .spm] [Reg.hstDmaStat n, Reg.hstDmaHead n, Reg.hstDmaTail n] u (dmaStarted u n) :=
  (only_dmaZeroed u n).more (only_dmaFollow _ n) (by simp) (by simp)

theorem ch_dmaStarted (u : State) (n : Nat) : (dmaCh (dmaStarted u n) n).op = none ∧ (dmaCh (dmaStarted u n) n).fetching = false := by
  have e : dmaCh (dmaStarted u n) n = dmaCh (dmaDrop u n) n := by
    rw [dmaStarted, dmaCh_congr ((only_dmaFollow _ n).1 .dma (by simp))]
    rfl
  have dropped : dmaCh (dmaDrop u n) n = ⟨false, none, (dmaCh (dropAsks u (dmaUse n)) n).seq + 1⟩ :=
    dmaCh_setDma (dropAsks u (dmaUse n)) n ⟨false, none, (dmaCh (dropAsks u (dmaUse n)) n).seq + 1⟩
  rw [e, dropped]
  exact ⟨rfl, rfl⟩

theorem regs_dmaStarted (u : State) (n : Nat) :
    rd (dmaStarted u n) (Reg.hstDmaHead n) = 0 ∧ rd (dmaStarted u n) (Reg.hstDmaTail n) = 0 ∧ dmaState (dmaStarted u n) n = 0 := by
  have ht : Reg.hstDmaHead n ≠ Reg.hstDmaTail n := by simp [Reg.hstDmaHead, Reg.hstDmaTail]
  have st : Reg.hstDmaStat n ≠ Reg.hstDmaTail n := by simp [Reg.hstDmaStat, Reg.hstDmaTail]
  have sh : Reg.hstDmaStat n ≠ Reg.hstDmaHead n := by simp [Reg.hstDmaStat, Reg.hstDmaHead]
  have head : rd (wr (wr (wr (dmaDrop u n) (Reg.hstDmaStat n) 0) (Reg.hstDmaHead n) 0) (Reg.hstDmaTail n) 0) (Reg.hstDmaHead n) = 0 := by
    rw [rd_wr_ne _ _ ht, rd_wr_same, Nat.zero_mod]
  have tail : rd (wr (wr (wr (dmaDrop u n) (Reg.hstDmaStat n) 0) (Reg.hstDmaHead n) 0) (Reg.hstDmaTail n) 0) (Reg.hstDmaTail n) = 0 :=
    rd_wr_same _ _ _
  have stat : dmaState (wr (wr (wr (dmaDrop u n) (Reg.hstDmaStat n) 0) (Reg.hstDmaHead n) 0) (Reg.hstDmaTail n) 0) n = 0 := by
    rw [dmaState, fget, rd_wr_ne _ _ st, rd_wr_ne _ _ sh, rd_wr_same]
    rfl
  have empty : dmaPosted (wr (wr (wr (dmaDrop u n) (Reg.hstDmaStat n) 0) (Reg.hstDmaHead n) 0) (Reg.hstDmaTail n) 0) n = 0 := by
    rw [dmaPosted, fget, fget, head, tail]
    rfl
  refine ⟨?_, ?_, ?_⟩
  · rw [dmaStarted, (only_dmaFollow _ n).rd_above above_dmaHead (by simpa using sh.symm), head]
  · rw [dmaStarted, (only_dmaFollow _ n).rd_above above_dmaTail (by simpa using st.symm), tail]
  · rw [dmaStarted, dmaState_follow (by rw [stat]; decide), empty]
    simp

theorem dmaEnable_starts (hw : mayWrite s m (Reg.hstDmaCtrl n) 4 = true) (hmay : dmaMay s m n = true)
    (hen : dmaEn s n = false) (h4 : bitOf v.toNat 4 = true) : ∃ t, exec (.dmaEnable m n v) s = .next t ∧
      dmaEn t n = true ∧ rd t (Reg.hstDmaHead n) = 0 ∧ rd t (Reg.hstDmaTail n) = 0 ∧ dmaState t n = 0 ∧
      (dmaCh t n).op = none ∧ (dmaCh t n).fetching = false ∧
      Only [.dma, .rgl, .spm] ([Reg.hstDmaCtrl n, Reg.hstDmaStat n, Reg.hstDmaHead n, Reg.hstDmaTail n] ++ errRegs ++ portRegs m)
        s t := by
  have en := (dmaEn_dmaCtrlTaken (portCount s m) m n v.toNat).trans h4
  have was : dmaEn (portCount s m) n = false := (sameChannel_portCount m).en.trans hen
  have frame := only_dmaStarted (dmaCtrlTaken (portCount s m) m n v.toNat) n
  obtain ⟨head, tail, state⟩ := regs_dmaStarted (dmaCtrlTaken (portCount s m) m n v.toNat) n
  obtain ⟨op, fetching⟩ := ch_dmaStarted (dmaCtrlTaken (portCount s m) m n v.toNat) n
  have e : dmaCtrlWrite (portCount s m) m n v.toNat = dmaStarted (dmaCtrlTaken (portCount s m) m n v.toNat) n := by
    rw [dmaCtrlWrite, dmaGuard_goes hmay]
    dsimp only
    rw [was, ← dmaCtrlTaken, en]
    rfl
  refine ⟨_, (exec_dmaEnable n v hw).trans (by rw [e]), ?_, ?_, ?_, ?_, ?_, ?_, ?_⟩
  · rw [(sameChannel_finish s).en, dmaEn, flag_congr (frame.rd_above above_dmaCtrl (by
      simp [Reg.hstDmaCtrl, Reg.hstDmaStat, Reg.hstDmaHead, Reg.hstDmaTail]))]
    exact en
  · rw [(sameChannel_finish s).head, head]
  · rw [(sameChannel_finish s).tail, tail]
  · rw [(sameChannel_finish s).state, state]
  · rw [(sameChannel_finish s).ch, op]
  · rw [(sameChannel_finish s).ch, fetching]
  · exact (((only_dmaCtrlTaken (portCount s m) m n v.toNat).trans frame).mono (by simp) (fun o ho => by
      simp at ho ⊢
      tauto)).counted

end Enable

end Sys2Proof.Machine
end

section
namespace Sys2Proof.Machine

/-! ### O50: RESUME and SKIP of a halted descriptor (R467) -/

section Halted
variable {s w : State} {n : Nat}

theorem asks_congr (h : w.spm = s.spm) (u : SpmUse) : asks w u = asks s u := by rw [asks, asks, h]

theorem asks_dropAsks {u : SpmUse} (h : asks s u = false) (p : SpmUse → Bool) : asks (dropAsks s p) u = false := by
  simp only [asks, dropAsks, List.any_eq_false, List.mem_filter] at h ⊢
  exact fun a ha => h a ha.1

/-- A halted channel goes on from HEAD, its status write given up. -/
def dmaResumed (w : State) (n : Nat) : State := dmaFollow (wr (dropAsks w (backOf n)) (Reg.hstDmaStat n) 0) n

theorem dmaResume_eq (hs : dmaState w n = 2) : dmaResume w n = dmaMove (dmaResumed w n) n := by
  rw [dmaResume, if_neg (by simpa using hs)]
  rfl

theorem only_dmaResumed (w : State) (n : Nat) : Only [.spm] [Reg.hstDmaStat n] w (dmaResumed w n) :=
  (((only_dropAsks w _).trans (only_wr _ _ _)).trans (only_dmaFollow _ n)).mono (by simp) (by simp)

theorem asks_dmaResumed {u : SpmUse} (h : asks w u = false) : asks (dmaResumed w n) u = false := by
  have port : (dmaResumed w n).spm = (dropAsks w (backOf n)).spm :=
    ((only_wr (dropAsks w (backOf n)) _ _).trans (only_dmaFollow _ n)).1 .spm (by simp)
  rw [asks_congr port]
  exact asks_dropAsks h _

theorem dmaState_resumed (hen : dmaEn w n = true) (hp : dmaPosted w n ≠ 0) : dmaState (dmaResumed w n) n = 1 := by
  have written : Only [.spm] [Reg.hstDmaStat n] w (wr (dropAsks w (backOf n)) (Reg.hstDmaStat n) 0) :=
    (only_dropAsks w _).trans (only_wr _ _ _)
  have ctrl := written.rd_above (above_dmaCtrl (n := n)) (by simp [Reg.hstDmaCtrl, Reg.hstDmaStat])
  have head := written.rd_above (above_dmaHead (n := n)) (by simp [Reg.hstDmaHead, Reg.hstDmaStat])
  have tail := written.rd_above (above_dmaTail (n := n)) (by simp [Reg.hstDmaTail, Reg.hstDmaStat])
  have idle : dmaState (wr (dropAsks w (backOf n)) (Reg.hstDmaStat n) 0) n = 0 := by rw [dmaState_wr]; rfl
  have en : dmaEn (wr (dropAsks w (backOf n)) (Reg.hstDmaStat n) 0) n = true := (flag_congr ctrl 4).trans hen
  have posted : dmaPosted (wr (dropAsks w (backOf n)) (Reg.hstDmaStat n) 0) n ≠ 0 := by
    rwa [dmaPosted, fget_congr head, fget_congr tail]
  rw [dmaResumed, dmaState_follow (by rw [idle]; decide), en]
  simp [posted]

/-- The place of DONE and STATUS in a ring in host memory (R465). -/
theorem dmaBackAddr_host (hown : dmaOwner w n ≤ 1) (hb : rd w (Reg.hstDmaBase n) + 32 * dmaSize w n ≤ 2 ^ 63) :
    dmaBackAddr w n = some (dmaDescAddr w n + 28) := by
  have top := dmaDescAddr_le hb
  have ok : dmaAddrOk w n (dmaDescAddr w n + 28) 4 true = true := by
    rw [dmaAddrOk, if_pos (by omega)]
    exact decide_eq_true hown
  rw [dmaBackAddr, if_neg]
  simp only [ok, Bool.not_true, Bool.false_or, decide_eq_true_eq]
  omega

/-- DONE and STATUS of the descriptor at HEAD. -/
def doneBytes (status : Nat) : List Byte := leBytes 4 (2 ^ 31 + status * 2 ^ 24)

/-- The status of the descriptor at HEAD is posted to the owner's memory. -/
def dmaPostsBack (w : State) (n status : Nat) : State :=
  hostSend w (dmaOwner w n) (.hostWrite (dmaOwner w n) (dmaDescAddr w n + 28) (doneBytes status))

theorem dmaNext_host (hown : dmaOwner w n ≤ 1) (hb : rd w (Reg.hstDmaBase n) + 32 * dmaSize w n ≤ 2 ^ 63) (status : Nat) (irq : Bool) :
    dmaNext w n status irq = dmaAdvance (dmaPostsBack w n status) n irq := by
  have top := dmaDescAddr_le hb
  have at_ := dmaBackAddr_host hown hb
  have back : dmaWriteBack w n true status (.dmaBack n status irq) = dmaPostsBack w n status := by
    rw [dmaWriteBack, at_]
    dsimp only
    rw [if_neg (by omega), bitsOf_low (by omega)]
    simp [dmaPostsBack, doneBytes, b2n]
  rw [dmaNext, at_]
  dsimp only
  rw [if_neg (by omega), back]

theorem only_dmaPostsBack (hown : dmaOwner w n ≤ 1) (status : Nat) : Only [] [] w (dmaPostsBack w n status) :=
  only_hostSend w (by omega) _

theorem out_dmaPostsBack (status : Nat) (hc : bitOf (pcie w (dmaOwner w n)).command 2 = true) :
    Out.hostWrite (dmaOwner w n) (dmaDescAddr w n + 28) (doneBytes status) ∈ (dmaPostsBack w n status).out := by
  rw [dmaPostsBack, hostSend, if_pos hc]
  simp

theorem out_dmaAdvance (w : State) (n : Nat) (irq : Bool) : (dmaAdvance w n irq).out = w.out := by
  have follow (u : State) : (dmaFollow u n).out = u.out := by
    unfold dmaFollow
    split <;> simp
  have passed : (dmaPassed w n).out = w.out := by
    simp only [dmaPassed, setDma, wr_out]
    split <;> simp
  rw [dmaAdvance_eq]
  split <;> simp [follow, passed]

theorem out_dmaAwaits {o : Out} (h : o ∈ w.out) : o ∈ (dmaAwaits w n).out := by
  rw [dmaAwaits, hostRead_eq]
  exact mem_out_hostSend (s := awaited (setDma w n { dmaCh w n with fetching := true }) _ _ _ _) h _ _

theorem dmaSkip_eq (hs : dmaState w n = 2) :
    dmaSkip w n = dmaMove (dmaNext w n (fget w (Reg.hstDmaStat n) 19 16) false) n := by
  rw [dmaSkip, if_neg (by simpa using hs)]

/-- A channel that does not run does not move. -/
theorem dmaMove_idle (hs : dmaState w n ≠ 1) : dmaMove w n = w := by
  rw [dmaMove]
  simp [hs]

/-! A ring in the scratchpad (R465). -/

/-- A ring in the scratchpad, below the vault and above the firmware. -/
structure InScratchpad (w : State) (n b : Nat) : Prop where
  base : rd w (Reg.hstDmaBase n) = 2 ^ 63 + b
  below : b + 32 * dmaSize w n ≤ vaultBase
  above : fwEnd w ≤ b

/-- Where the status of the descriptor at HEAD stands in the scratchpad. -/
def backOff (w : State) (n b : Nat) : Nat := b + 32 * (fget w (Reg.hstDmaHead n) 15 0 % dmaSize w n) + 28

theorem InScratchpad.off_le {b : Nat} (h : InScratchpad w n b) : backOff w n b + 4 ≤ vaultBase := by
  have slot : fget w (Reg.hstDmaHead n) 15 0 % dmaSize w n < dmaSize w n := Nat.mod_lt _ (by simp [dmaSize])
  have := h.below
  rw [backOff]
  omega

theorem bitsOf_view {x : Nat} (hx : x < 2 ^ 19) :
    (2 ^ 63 + x) / 2 ^ 62 = 2 ∧ bitsOf (2 ^ 63 + x) 61 19 = 0 ∧ bitsOf (2 ^ 63 + x) 18 0 = x := by
  rw [bitsOf_eq, bitsOf_eq]
  omega

theorem InScratchpad.backAddr {b : Nat} (h : InScratchpad w n b) : dmaBackAddr w n = some (2 ^ 63 + backOff w n b) := by
  have le := h.off_le
  have e : dmaDescAddr w n + 28 = 2 ^ 63 + backOff w n b := by
    rw [dmaDescAddr, h.base, backOff]
    omega
  obtain ⟨top, mid, low⟩ := bitsOf_view (x := backOff w n b) (by simp only [vaultBase] at le; omega)
  have fw : fwEnd w ≤ backOff w n b := by
    have := h.above
    rw [backOff]
    omega
  have ok : dmaAddrOk w n (2 ^ 63 + backOff w n b) 4 true = true := by
    rw [dmaAddrOk, if_neg (by omega), if_pos top, mid, low]
    simp [le, fw]
  rw [dmaBackAddr, e, if_neg]
  simp only [ok, Bool.not_true, Bool.false_or, decide_eq_true_eq]
  omega

/-- The status write that a channel asks of the scratchpad's port. -/
def backAccess (w : State) (n off status : Nat) (irq : Bool) : SpmAcc :=
  ⟨dmaQ n, .internal, w.cycle, .write, false, off, 4, doneBytes status, .dmaBack n status irq⟩

/-- A status write joins the port's queue. -/
def asked (w : State) (a : SpmAcc) : State := { w with spm := { w.spm with waiting := w.spm.waiting ++ [a] } }

theorem dmaNext_asks {a : Nat} (hat : dmaBackAddr w n = some a) (ht : a / 2 ^ 62 = 2) (status : Nat) (irq : Bool)
    (hask : asks w (.dmaBack n status irq) = false) :
    dmaNext w n status irq = asked w (backAccess w n (bitsOf a 18 0) status irq) := by
  have back : dmaWriteBack w n true status (.dmaBack n status irq) = asked w (backAccess w n (bitsOf a 18 0) status irq) := by
    rw [dmaWriteBack, hat]
    dsimp only
    rw [if_pos ht]
    simp [askPort, asked, backAccess, doneBytes, b2n]
  rw [dmaNext, hat]
  dsimp only
  rw [if_pos ht, hask, back]
  rfl

end Halted

theorem cycle_commitFields (s : State) (m o v : Nat) : (commitFields s m o v).cycle = s.cycle := by
  unfold commitFields
  split
  · rfl
  · dsimp only
    split <;> split <;> simp

theorem cycle_dmaCtrlTaken (s : State) (m : Requester) (n v : Nat) : (dmaCtrlTaken s m n v).cycle = s.cycle := by
  rw [dmaCtrlTaken, fput_cycle, cycle_commitFields]

section Halts
variable {s : State} {m : Requester} {n : Fin 8} {v : BitVec 32}
  (hw : mayWrite s m (Reg.hstDmaCtrl n) 4 = true) (hmay : dmaMay s m n = true) (hen : dmaEn s n = true) (hs : dmaState s n = 2)
  (h4 : bitOf v.toNat 4 = true) (hsize : bitsOf v.toNat 3 0 = fget s (Reg.hstDmaCtrl n) 3 0)
  (hask : asks s (.dma n) = false)
include hmay hen h4

theorem dmaCtrlWrite_resumes (h31 : bitOf v.toNat 31 = true) :
    dmaCtrlWrite (portCount s m) m n v.toNat = dmaResume (dmaCtrlTaken (portCount s m) m n v.toNat) n := by
  have en := (dmaEn_dmaCtrlTaken (portCount s m) m n v.toNat).trans h4
  have was : dmaEn (portCount s m) n = true := (sameChannel_portCount m).en.trans hen
  rw [dmaCtrlWrite, dmaGuard_goes hmay]
  dsimp only
  rw [was, ← dmaCtrlTaken, en, h31]
  rfl

theorem dmaCtrlWrite_skips (h31 : bitOf v.toNat 31 = false) (h30 : bitOf v.toNat 30 = true) :
    dmaCtrlWrite (portCount s m) m n v.toNat = dmaSkip (dmaCtrlTaken (portCount s m) m n v.toNat) n := by
  have en := (dmaEn_dmaCtrlTaken (portCount s m) m n v.toNat).trans h4
  have was : dmaEn (portCount s m) n = true := (sameChannel_portCount m).en.trans hen
  rw [dmaCtrlWrite, dmaGuard_goes hmay]
  dsimp only
  rw [was, ← dmaCtrlTaken, en, h31, h30]
  rfl

include hw hs hsize hask

theorem dmaResume_fetches (ho : (dmaCh s n).op = none) (hf : (dmaCh s n).fetching = false) (h31 : bitOf v.toNat 31 = true)
    (hg : s.pwr.stopGrants = false) (hp : dmaPosted s n ≠ 0)
    (hown : dmaOwner s n ≤ 1) (hb : rd s (Reg.hstDmaBase n) + 32 * dmaSize s n ≤ 2 ^ 63) :
    ∃ t, exec (.dmaResume m n v) s = .next t ∧
      dmaState t n = 1 ∧ rd t (Reg.hstDmaHead n) = rd s (Reg.hstDmaHead n) ∧ (dmaCh t n).fetching = true ∧
      (∃ r ∈ t.host, r.use = .dmaDesc n ∧
        r.addr = rd s (Reg.hstDmaBase n) + 32 * (fget s (Reg.hstDmaHead n) 15 0 % dmaSize s n)) ∧
      Only [.dma, .host, .rgl, .spm] ([Reg.hstDmaCtrl n, Reg.hstDmaStat n] ++ errRegs ++ portRegs m) s t := by
  have taken := only_dmaCtrlTaken (portCount s m) m n v.toNat
  have same := sameChannel_dmaCtrlTaken (m := m) hen h4 hsize
  have only := only_dmaResumed (dmaCtrlTaken (portCount s m) m n v.toNat) n
  have base : SameBase n s (dmaResumed (dmaCtrlTaken (portCount s m) m n v.toNat) n) := same.toBase.trans (only.sameBase
    (by simp) (by simp [Reg.hstDmaCfg, Reg.hstDmaCtrl, Reg.hstDmaBase, Reg.hstDmaStat]))
  have head := (only.rd_above (above_dmaHead (n := n)) (by simp [Reg.hstDmaHead, Reg.hstDmaStat])).trans same.head
  have ch := (dmaCh_congr (only.1 .dma (by simp)) n).trans same.ch
  have port : (dmaCtrlTaken (portCount s m) m n v.toNat).spm = s.spm := ((only_portCount s m).trans taken).1 .spm (by simp)
  have run : dmaState (dmaResumed (dmaCtrlTaken (portCount s m) m n v.toNat) n) n = 1 :=
    dmaState_resumed (same.en.trans hen) (by rwa [same.posted])
  have move := base.fetches hg hown hb run (by rwa [ch]) (by rwa [ch]) (asks_dmaResumed (by rwa [asks_congr port]))
  have frame := only_dmaAwaits (s := dmaResumed (dmaCtrlTaken (portCount s m) m n v.toNat) n) (n := n) (by rwa [base.owner])
  refine ⟨_, (exec_dmaResume n v hw).trans (by rw [dmaCtrlWrite_resumes hmay hen h4 h31, dmaResume_eq (same.state.trans hs), move]),
    ?_, ?_, ?_, ?_, ?_⟩
  · rw [(sameChannel_finish s).state, dmaState, fget_congr (frame.rd_above above_dmaStat (by simp)), ← dmaState, run]
  · rw [rd_finish_above s above_dmaHead, frame.rd_above above_dmaHead (by simp), head]
  · rw [(sameChannel_finish s).ch]
    exact ch_dmaAwaits (by rwa [base.owner])
  · obtain ⟨r, hr, use, len, f, addr⟩ := base.host_awaits hown
    exact ⟨r, by rwa [finish_host], use, addr.trans (by rw [fget_congr head])⟩
  · exact (((taken.trans only).trans frame).mono (by simp) (fun o ho => by
      simp at ho ⊢
      tauto)).counted

theorem dmaSkip_host (h31 : bitOf v.toNat 31 = false) (h30 : bitOf v.toNat 30 = true) (hg : s.pwr.stopGrants = false)
    (hown : dmaOwner s n ≤ 1) (hb : rd s (Reg.hstDmaBase n) + 32 * dmaSize s n ≤ 2 ^ 63) :
    ∃ t, exec (.dmaSkip m n v) s = .next t ∧
      rd t (Reg.hstDmaHead n) = (fget s (Reg.hstDmaHead n) 15 0 + 1) % 65536 ∧
      (bitOf (pcie s (dmaOwner s n)).command 2 = true →
        Out.hostWrite (dmaOwner s n) (rd s (Reg.hstDmaBase n) + 32 * (fget s (Reg.hstDmaHead n) 15 0 % dmaSize s n) + 28)
          (leBytes 4 (2 ^ 31 + fget s (Reg.hstDmaStat n) 19 16 * 2 ^ 24)) ∈ t.out) ∧
      (postedNext s n = 0 → dmaState t n = 0) ∧
      (postedNext s n ≠ 0 → dmaState t n = 1 ∧ (dmaCh t n).fetching = true ∧ ∃ r ∈ t.host, r.use = .dmaDesc n ∧
        r.addr = rd s (Reg.hstDmaBase n) + 32 * ((fget s (Reg.hstDmaHead n) 15 0 + 1) % 65536 % dmaSize s n)) ∧
      rd t (Reg.hstDmaEvt n) = rd s (Reg.hstDmaEvt n) ∧ keepsUnits [.dma, .host, .rgl, .spm] s t := by
  obtain ⟨w, hwd⟩ : ∃ w, w = dmaCtrlTaken (portCount s m) m n v.toNat := ⟨_, rfl⟩
  obtain ⟨p, hpd⟩ : ∃ p, p = dmaPostsBack w n (fget w (Reg.hstDmaStat n) 19 16) := ⟨_, rfl⟩
  have taken : Only [] (Reg.hstDmaCtrl n :: errRegs) (portCount s m) w := hwd ▸ only_dmaCtrlTaken (portCount s m) m n v.toNat
  have same : SameChannel n s w := hwd ▸ sameChannel_dmaCtrlTaken (m := m) hen h4 hsize
  have sent : Only [] [] w p := hpd ▸ only_dmaPostsBack (by rwa [same.owner]) _
  have samep : SameChannel n s p := same.trans (sent.sameChannel (by simp) (by simp) (by simp))
  have moved := only_dmaAdvance p n
  have all : Only [.dma] ([Reg.hstDmaCtrl n, Reg.hstDmaStat n, Reg.hstDmaHead n] ++ errRegs ++ portRegs m) s (dmaAdvance p n false) :=
    ((((only_portCount s m).trans taken).trans sent).trans moved).mono (by simp) (fun o ho => by
      simp at ho ⊢
      tauto)
  have base : SameBase n s (dmaAdvance p n false) := samep.toBase.trans (moved.sameBase (by simp)
    (by simp [Reg.hstDmaCfg, Reg.hstDmaCtrl, Reg.hstDmaBase, Reg.hstDmaStat, Reg.hstDmaHead]))
  have head : rd (dmaAdvance p n false) (Reg.hstDmaHead n) = (fget s (Reg.hstDmaHead n) 15 0 + 1) % 65536 := by
    rw [rd_head_dmaAdvance, fget_congr samep.head]
  have next : postedNext p n = postedNext s n := by rw [postedNext, postedNext, fget_congr samep.tail, fget_congr samep.head]
  have state : dmaState (dmaAdvance p n false) n = if postedNext s n ≠ 0 then 1 else 0 := by
    rw [dmaState_advance, samep.en, hen, next]
    simp
  have e : exec (.dmaSkip m n v) s = .next (finish s (dmaMove (dmaAdvance p n false) n)) := by
    rw [exec_dmaSkip n v hw, dmaCtrlWrite_skips hmay hen h4 h31 h30, ← hwd, dmaSkip_eq (same.state.trans hs),
      dmaNext_host (by rwa [same.owner]) (by rwa [same.base, same.size]), ← hpd]
  have sentOut (hc : bitOf (pcie s (dmaOwner s n)).command 2 = true) :
      Out.hostWrite (dmaOwner s n) (rd s (Reg.hstDmaBase n) + 32 * (fget s (Reg.hstDmaHead n) 15 0 % dmaSize s n) + 28)
        (leBytes 4 (2 ^ 31 + fget s (Reg.hstDmaStat n) 19 16 * 2 ^ 24)) ∈ (dmaAdvance p n false).out := by
    have command : (pcie w (dmaOwner w n)).command = (pcie s (dmaOwner s n)).command := by
      rw [same.owner]
      exact (((only_portCount s m).trans taken).2.2 _).2.1
    have o := out_dmaPostsBack (w := w) (n := n) (fget w (Reg.hstDmaStat n) 19 16) (by rwa [command])
    rw [same.owner, same.descAddr, fget_congr same.stat] at o
    rw [out_dmaAdvance, hpd, fget_congr same.stat]
    exact o
  have evt : rd (dmaAdvance p n false) (Reg.hstDmaEvt n) = rd s (Reg.hstDmaEvt n) := by
    refine all.2.1 _ (aboveCounts_not_mem_msgRegs above_dmaEvt) fun h => ?_
    rcases List.mem_append.1 h with h | h
    · simp [errRegs, Reg.hstDmaEvt, Reg.hstDmaCtrl, Reg.hstDmaStat, Reg.hstDmaHead, Reg.topErr, Reg.topErrAddr] at h
      omega
    · exact aboveCounts_not_mem_portRegs m above_dmaEvt h
  refine ⟨_, e, ?_⟩
  by_cases hn : postedNext s n = 0
  · have idle := dmaMove_idle (w := dmaAdvance p n false) (n := n) (by rw [state, hn]; decide)
    rw [idle, rd_finish_above s above_dmaHead, rd_finish_above s above_dmaEvt, (sameChannel_finish s).state, state]
    refine ⟨head, fun hc => mem_out_finish s (sentOut hc), fun _ => by simp [hn], fun h => absurd hn h, evt, ?_⟩
    exact fun u hu => all.finished.1 u (by simp at hu ⊢; tauto)
  · have port : (dmaAdvance p n false).spm = s.spm := all.1 .spm (by simp)
    have ch := ch_dmaAdvance p n false
    have run : dmaState (dmaAdvance p n false) n = 1 := by rw [state, if_pos hn]
    have move := base.fetches hg hown hb run (by rw [ch]) (by rw [ch]) (by rwa [asks_congr port])
    have frame := only_dmaAwaits (s := dmaAdvance p n false) (n := n) (by rwa [base.owner])
    rw [move, rd_finish_above s above_dmaHead, rd_finish_above s above_dmaEvt, (sameChannel_finish s).state,
      (sameChannel_finish s).ch, frame.rd_above above_dmaHead (by simp), frame.rd_above above_dmaEvt (by simp), dmaState,
      fget_congr (frame.rd_above above_dmaStat (by simp)), ← dmaState, run]
    refine ⟨head, fun hc => mem_out_finish s (out_dmaAwaits (sentOut hc)), fun h => absurd h hn,
      fun _ => ⟨rfl, ch_dmaAwaits (by rwa [base.owner]), ?_⟩, evt, ?_⟩
    · obtain ⟨r, hr, use, len, f, addr⟩ := base.host_awaits hown
      refine ⟨r, by rwa [finish_host], use, addr.trans ?_⟩
      rw [fget, head, bitsOf_low (by omega)]
    · exact fun u hu => (all.trans frame).finished.1 u (by simp at hu ⊢; tauto)

omit hask in
theorem dmaSkip_scratchpad {b code : Nat} (hcode : code = fget s (Reg.hstDmaStat n) 19 16) (h31 : bitOf v.toNat 31 = false)
    (h30 : bitOf v.toNat 30 = true) (hb : rd s (Reg.hstDmaBase n) = 2 ^ 63 + b) (hv : b + 32 * dmaSize s n ≤ vaultBase)
    (hfw : fwEnd s ≤ b) (hq : s.spm.waiting = []) :
    ∃ t, exec (.dmaSkip m n v) s = .next t ∧ dmaState t n = 2 ∧ rd t (Reg.hstDmaHead n) = rd s (Reg.hstDmaHead n) ∧
      t.spm.waiting = [⟨dmaQ n, .internal, s.cycle, .write, false, b + 32 * (fget s (Reg.hstDmaHead n) 15 0 % dmaSize s n) + 28, 4,
        leBytes 4 (2 ^ 31 + code * 2 ^ 24), .dmaBack n code false⟩] ∧ keepsUnits [.spm] s t := by
  obtain ⟨w, hwd⟩ : ∃ w, w = dmaCtrlTaken (portCount s m) m n v.toNat := ⟨_, rfl⟩
  have taken : Only [] (Reg.hstDmaCtrl n :: errRegs) (portCount s m) w := hwd ▸ only_dmaCtrlTaken (portCount s m) m n v.toNat
  have same : SameChannel n s w := hwd ▸ sameChannel_dmaCtrlTaken (m := m) hen h4 hsize
  have all := (only_portCount s m).trans taken
  have port : w.spm = s.spm := all.1 .spm (by simp)
  have lock : fwEnd w = fwEnd s := by
    have bit : rd w Reg.imgLock = rd s Reg.imgLock := all.2.1 _ (by decide) (fun h => by
      rcases List.mem_append.1 h with h | h
      · exact not_mem_portRegs (belowCounts_of_lt (by decide)) h
      · simp [errRegs, Reg.imgLock, Reg.hstDmaCtrl, Reg.topErr, Reg.topErrAddr] at h
        omega)
    rw [fwEnd, fwEnd, locked, locked, flag_congr bit, fwRange, fwRange, show w.img = s.img from all.1 .img (by simp)]
  have ring : InScratchpad w n b := ⟨same.base.trans hb, by rwa [same.size], by rwa [lock]⟩
  obtain ⟨top, -, low⟩ := bitsOf_view (x := backOff w n b) (by
    have := ring.off_le
    simp only [vaultBase] at this
    omega)
  have state := same.state.trans hs
  have next := dmaNext_asks ring.backAddr top code false (by rw [asks_congr port, asks, hq]; rfl)
  have cycle : w.cycle = s.cycle := by rw [hwd, cycle_dmaCtrlTaken, portCount_cycle]
  have off : backOff w n b = b + 32 * (fget s (Reg.hstDmaHead n) 15 0 % dmaSize s n) + 28 := by
    rw [backOff, same.size, fget_congr same.head]
  have e : exec (.dmaSkip m n v) s = .next (finish s (asked w (backAccess w n (backOff w n b) code false))) := by
    rw [exec_dmaSkip n v hw, dmaCtrlWrite_skips hmay hen h4 h31 h30, ← hwd, dmaSkip_eq state, fget_congr same.stat, ← hcode, next,
      low, dmaMove_idle]
    rw [show dmaState (asked w (backAccess w n (backOff w n b) code false)) n = dmaState w n from rfl, state]
    decide
  refine ⟨_, e, ?_, ?_, ?_, ?_⟩
  · rw [(sameChannel_finish s).state]
    exact state
  · rw [(sameChannel_finish s).head]
    exact same.head
  · rw [finish_spm]
    simp [asked, backAccess, port, hq, cycle, off, doneBytes]
  · exact fun u hu => ((all.trans (only_setSpm w _)).finished).1 u (by simpa using hu)

end Halts

end Sys2Proof.Machine
end

section
namespace Sys2Proof.Machine

/-! ### O50: the end of a descriptor (R465, R466) -/

section End
variable {s x : State} {n : Nat}

/-- What the write back of an ended descriptor's status leaves of its channel: HEAD past it, no run, STATE as the ring says. -/
structure PassedOn (n : Nat) (irq : Bool) (s t : State) : Prop where
  head : rd t (Reg.hstDmaHead n) = (fget s (Reg.hstDmaHead n) 15 0 + 1) % 65536
  ch : (dmaCh t n).op = none
  evt : irq = true → flag t (Reg.hstDmaEvt n) 0 = true
  state : dmaState t n = if dmaEn s n && decide (postedNext s n ≠ 0) then 1 else 0

theorem passedOn_advance (h : SameChannel n s x) (irq : Bool) : PassedOn n irq s (dmaAdvance x n irq) where
  head := by rw [rd_head_dmaAdvance, fget_congr h.head]
  ch := by rw [ch_dmaAdvance]
  evt e := by rw [e, flag_dmaAdvance]
  state := by
    rw [dmaState_advance, h.en, show postedNext x n = postedNext s n by
      rw [postedNext, postedNext, fget_congr h.tail, fget_congr h.head]]

theorem PassedOn.finished {irq : Bool} {t : State} (h : PassedOn n irq s t) (s0 : State) : PassedOn n irq s (finish s0 t) where
  head := by rw [(sameChannel_finish s0).head, h.head]
  ch := by rw [(sameChannel_finish s0).ch, h.ch]
  evt e := (flag_congr (rd_finish_above s0 above_dmaEvt t) 0).trans (h.evt e)
  state := by rw [(sameChannel_finish s0).state, h.state]

/-! The status write in the scratchpad is made in the same cycle. -/

/-- The only access that waits, at a free port with no wipe going, is served. -/
theorem serveNow_only {a : SpmAcc} (hq : s.spm.waiting = [a]) (hsince : a.since = s.cycle) (hp : s.spm.portCycle ≤ s.cycle)
    (hw : s.nvc.wipeAt = none) : ∃ busy, serveNow s a.use = serveAcc s a busy := by
  have next : nextSpm s = some a := by simp [nextSpm, hq, hsince, vaultBusy, hw, minByKey]
  have now : serveNow s a.use = spmServe s := by
    rw [serveNow, next]
    exact if_pos rfl
  rw [now]
  by_cases hr : a.redirected s = true
  · exact ⟨_, spmServe_of (.inl ⟨by simp [hq, hsince, hr], rfl⟩)⟩
  · refine ⟨_, spmServe_of (.inr ⟨fun y hy _ => ?_, hp, next, rfl⟩)⟩
    rw [hq, List.mem_singleton] at hy
    rw [hy]
    simpa using hr

theorem serveNow_idle (hq : s.spm.waiting = []) (u : SpmUse) : serveNow s u = s := by
  have none_ : nextSpm s = none := by simp [nextSpm, hq, minByKey]
  rw [serveNow, none_]

theorem accessRegs_below {o : Nat} (h : o ∈ accessRegs) : o < 0x130000 := by
  have all : ∀ o ∈ accessRegs, o < 0x130000 := by decide +kernel
  exact all o h

theorem sameChannel_access (a : SpmAcc) (n : Nat) : SameChannel n s (spmAccess s a).1 := by
  refine (only_spmAccess s a).sameChannel (by simp) (by simp) fun o ho hr => ?_
  have := accessRegs_below hr
  simp [Reg.hstDmaCfg, Reg.hstDmaCtrl, Reg.hstDmaHead, Reg.hstDmaTail, Reg.hstDmaStat, Reg.hstDmaBase] at ho
  omega

theorem sameChannel_setSpm (y : SpmSt) : SameChannel n s { s with spm := y } :=
  (only_setSpm s y).sameChannel (by simp) (by simp) (by simp)

/-- A status write that the firmware's range does not refuse: the channel goes on, whether or not a march ate it. -/
theorem goesOn_back {a : SpmAcc} {code : Nat} {irq : Bool} (hu : a.use = .dmaBack n code irq) (bytes : List Byte) (bad : Bool)
    {denied : Nat} (hd : denied ≠ 4) : spmGoesOn s a bytes bad denied = dmaAdvance s n irq := by
  rw [spmGoesOn, hu]
  exact if_neg hd

/-- Off the vault and the firmware, only a march can deny a status write. -/
theorem spmDenied_back (w : State) {off status : Nat} {irq : Bool} (hv : off + 4 ≤ vaultBase) (hf : fwEnd s ≤ off) :
    spmDenied s (backAccess w n off status irq) = if marchHit s (backAccess w n off status irq) then 3 else 0 := by
  have h1 : ¬ vaultBase < off + 4 := by omega
  have h2 : ¬ off < fwEnd s := by omega
  simp [spmDenied, backAccess, h1, h2]

theorem serveAcc_eq (s : State) (a : SpmAcc) (busy : Nat) : serveAcc s a busy =
    spmGoesOn (spmAccess (taken s a busy) a).1 a (spmAccess (taken s a busy) a).2.1 (spmAccess (taken s a busy) a).2.2.1
      (spmAccess (taken s a busy) a).2.2.2 := rfl

theorem denied_spmAccess {a : SpmAcc} (hu : a.use ≠ .march) (hk : a.kind = .write) :
    (spmAccess s a).2.2.2 = spmDenied s a := by
  by_cases hd : spmDenied s a = 0
  · rw [spmAccess_write hu hd hk, hd]
  · rw [spmAccess_denied hu hd]

/-- The status write served: the channel goes on from the memory as the write left it. -/
theorem serveAcc_back {w : State} {off status : Nat} {irq : Bool} (busy : Nat) (hv : off + 4 ≤ vaultBase) (hf : fwEnd s ≤ off) :
    ∃ x, serveAcc s (backAccess w n off status irq) busy = dmaAdvance x n irq ∧ SameChannel n s x ∧
      keepsUnits [.spm, .intg] s x ∧ (s.intg.march = none → x.spm.mem = memPuts s.spm.mem off (doneBytes status)) := by
  obtain ⟨a, ha⟩ : ∃ a, a = backAccess w n off status irq := ⟨_, rfl⟩
  have use : a.use = .dmaBack n status irq := by rw [ha]; rfl
  have apart_ : a.use ≠ .march := by simp [use]
  have kind : a.kind = .write := by rw [ha]; rfl
  have denied : spmDenied (taken s a busy) a = if marchHit s a then 3 else 0 := by
    rw [ha]
    exact spmDenied_back (s := s) w hv hf
  have ne4 : (spmAccess (taken s a busy) a).2.2.2 ≠ 4 := by
    rw [denied_spmAccess apart_ kind, denied]
    split <;> simp
  have frame := (only_taken (s := s) a busy).trans (only_spmAccess (taken s a busy) a)
  rw [← ha]
  refine ⟨(spmAccess (taken s a busy) a).1, ?_, (sameChannel_setSpm (s := s) _).trans (sameChannel_access a n),
    fun u hu => frame.1 u (by simpa using hu), fun hm => ?_⟩
  · rw [serveAcc_eq, goesOn_back use _ _ ne4]
  · have hit : marchHit s a = false := by rw [marchHit, hm]
    rw [spmAccess_write apart_ (by rw [denied, hit]; rfl) kind, spmWrite_spm, ha]
    rfl

/-- A request to any function's memory touches its counter at most. -/
theorem only_hostSend_any (s : State) (f : Nat) (o : Out) : Only [] [Reg.hstPcieCnt f 3] s (hostSend s f o) := by
  unfold hostSend
  dsimp only
  split
  · exact ((only_setOut s (s.out ++ [o])).trans (only_bump _ _ _)).mono (by simp) (by simp)
  · have kept : Only [] [] s (setPcie s f { pcie s f with held := (pcie s f).held ++ [o] }) :=
      only_setPcie f _ rfl rfl rfl rfl rfl rfl rfl
    exact kept.mono (by simp) (by simp)

/-- Where the status goes is off the vault and the firmware (R464). -/
theorem backAddr_off {a : Nat} (h : dmaBackAddr s n = some a) (ht : a / 2 ^ 62 = 2) :
    bitsOf a 18 0 + 4 ≤ vaultBase ∧ fwEnd s ≤ bitsOf a 18 0 := by
  rw [dmaBackAddr] at h
  split at h
  · exact absurd h (by simp)
  · rename_i ok
    obtain rfl : dmaDescAddr s n + 28 = a := by simpa using h
    have ok : dmaAddrOk s n (dmaDescAddr s n + 28) 4 true = true := by
      by_contra hn
      exact ok (by simp [Bool.eq_false_iff.2 hn])
    rw [dmaAddrOk, if_neg (by omega), if_pos ht] at ok
    simp only [Bool.and_eq_true, decide_eq_true_eq, Bool.not_true, Bool.false_or] at ok
    exact ⟨ok.1.2, ok.2⟩

/-- The descriptor at HEAD has ended: its status is written, in one way or another, and the channel goes on. -/
theorem dmaEnded (irq : Bool) (hq : s.spm.waiting = []) (hp : s.spm.portCycle ≤ s.cycle) (hw : s.nvc.wipeAt = none) :
    ∃ x, serveNow (dmaNext s n 0 irq) (.dmaBack n 0 irq) = dmaAdvance x n irq ∧ SameChannel n s x ∧
      keepsUnits [.spm, .intg] s x ∧
      ∀ a, dmaBackAddr s n = some a → a / 2 ^ 62 = 2 → s.intg.march = none →
        x.spm.mem = memPuts s.spm.mem (bitsOf a 18 0) (doneBytes 0) := by
  have idle (y : State) (hy : y.spm = s.spm) : serveNow (dmaAdvance y n irq) (.dmaBack n 0 irq) = dmaAdvance y n irq :=
    serveNow_idle (by rw [show (dmaAdvance y n irq).spm = y.spm from (only_dmaAdvance_irq y n irq).1 .spm (by simp), hy, hq]) _
  have none_ : asks s (.dmaBack n 0 irq) = false := by rw [asks, hq]; rfl
  cases hat : dmaBackAddr s n with
  | none =>
    have e : dmaNext s n 0 irq = dmaAdvance s n irq := by
      rw [dmaNext, hat]
      dsimp only
      rw [dmaWriteBack, hat]
    exact ⟨s, by rw [e, idle s rfl], (Only.refl [] [] s).sameChannel (by simp) (by simp) (by simp), (Only.refl _ [] s).1,
      fun a ha => absurd ha (by simp)⟩
  | some a =>
    by_cases ht : a / 2 ^ 62 = 2
    · obtain ⟨hv, hf⟩ := backAddr_off hat ht
      obtain ⟨u, hu⟩ : ∃ u, u = asked s (backAccess s n (bitsOf a 18 0) 0 irq) := ⟨_, rfl⟩
      have only : Only [.spm] [] s u := hu ▸ only_setSpm s _
      have lock : fwEnd u = fwEnd s := by rw [hu]; rfl
      obtain ⟨busy, served⟩ := serveNow_only (s := u) (a := backAccess s n (bitsOf a 18 0) 0 irq) (by rw [hu]; simp [asked, hq])
        (by rw [hu]; rfl) (by rw [hu]; exact hp) (by rw [hu]; exact hw)
      obtain ⟨x, hx, same, keeps, mem⟩ := serveAcc_back (s := u) (w := s) (n := n) (status := 0) (irq := irq) busy hv (by rwa [lock])
      refine ⟨x, ?_, (only.sameChannel (by simp) (by simp) (by simp)).trans same,
        fun y hy => y.same_trans (only.1 y (by simp at hy ⊢; tauto)) (keeps y hy), fun b hb _ hm => ?_⟩
      · rw [dmaNext_asks hat ht 0 irq none_, ← hu]
        exact served.trans hx
      · obtain rfl : a = b := by simpa using hb
        rw [mem (by rw [hu]; exact hm), hu]
        rfl
    · have sent : dmaNext s n 0 irq = dmaAdvance (dmaWriteBack s n true 0 (.dmaBack n 0 irq)) n irq := by
        rw [dmaNext, hat]
        exact if_neg ht
      have only : Only [] [Reg.hstPcieCnt (dmaOwner s n) 3] s (dmaWriteBack s n true 0 (.dmaBack n 0 irq)) := by
        rw [dmaWriteBack, hat]
        dsimp only
        rw [if_neg ht]
        exact only_hostSend_any s _ _
      have owner : dmaOwner s n < 2 ^ (1 + 1 - 0) := bitsOf_lt _ _ _
      exact ⟨_, by rw [sent, idle _ (only.1 .spm (by simp))], only.sameChannel (by simp) (by simp) (fun o ho hr => by
          simp [Reg.hstDmaCfg, Reg.hstDmaCtrl, Reg.hstDmaHead, Reg.hstDmaTail, Reg.hstDmaStat, Reg.hstDmaBase] at ho
          simp [Reg.hstPcieCnt] at hr
          omega),
        fun y hy => only.1 y (by simp), fun b hb h2 => by
          obtain rfl : a = b := by simpa using hb
          exact absurd h2 ht⟩

variable {m : Fin 8}

theorem dmaDescriptorDone_ends (ha : awake s = true) {o : DmaOp} (ho : (dmaCh s m).op = some o) (hs : dmaState s m = 1)
    (hput : o.put = o.len) (hwr : o.writes = 0) (hq : s.spm.waiting = []) (hp : s.spm.portCycle ≤ s.cycle)
    (hw : s.nvc.wipeAt = none) : ∃ t, exec (.dmaDescriptorDone m) s = .next t ∧ PassedOn m o.irq s t ∧
      (∀ b, rd s (Reg.hstDmaBase m) = 2 ^ 63 + b → b + 32 * dmaSize s m ≤ vaultBase → fwEnd s ≤ b → s.intg.march = none →
        t.spm.mem = memPuts s.spm.mem (backOff s m b) (doneBytes 0)) ∧
      keepsUnits [.dma, .spm, .intg] s t := by
  obtain ⟨x, hx, same, keeps, mem⟩ := dmaEnded (n := m) o.irq hq hp hw
  have advanced := only_dmaAdvance_irq x m o.irq
  have e : exec (.dmaDescriptorDone m) s = .next (finish s (dmaAdvance x m o.irq)) := by
    rw [core_dmaDescriptorDone m ha, dmaDone, ho]
    dsimp only
    rw [dmaEnd, ho]
    dsimp only
    rw [if_pos ⟨hs, hput, hwr⟩, hx]
  refine ⟨_, e, (passedOn_advance same o.irq).finished s, fun b hb hv hf hm => ?_, fun u hu => ?_⟩
  · have ring : InScratchpad s m b := ⟨hb, hv, hf⟩
    obtain ⟨top, -, low⟩ := bitsOf_view (x := backOff s m b) (by
      have := ring.off_le
      simp only [vaultBase] at this
      omega)
    rw [finish_spm, show (dmaAdvance x m o.irq).spm = x.spm from advanced.1 .spm (by simp), mem _ ring.backAddr top hm, low]
  · exact u.same_trans (keeps u (by simp at hu ⊢; tauto)) ((advanced.atEnd s).1 u (by simp at hu ⊢; tauto))

theorem dmaDescriptorDone_none (ha : awake s = true) (ho : (dmaCh s m).op = none) :
    Ends (.dmaDescriptorDone m) s fun t => Only [] [] s t := by
  refine ends_of (core_dmaDescriptorDone m ha) ?_
  rw [dmaDone, ho]
  exact only_finish s s

end End

/-- Settles O50: each write goes by the owner's guard; a channel that runs with nothing begun asks for the descriptor at HEAD, and
one whose status is written back passes HEAD on. -/
theorem dmaChannelsRunHaltAndGoOn : Obligations.DmaChannelsRunHaltAndGoOn := by
  unfold Obligations.DmaChannelsRunHaltAndGoOn
  intro s m n v head size ha hhead hsize
  subst hhead hsize
  refine ⟨dmaEnable_starts, dmaEnable_refused, dmaDoorbell_refused, fun hw hmay hen hs ho hf hask hg hown hb hp hroom =>
    dmaDoorbell_fetches hw hmay hen hs ho hf hask hg hown hb hp hroom, fun o ho hs hput hwr hq hp hw => ?_,
    dmaDescriptorDone_none ha, fun hw hmay hen hs h4 hsize ho hf hask => ⟨fun h31 hg hp hown hb =>
      dmaResume_fetches hw hmay hen hs h4 hsize hask ho hf h31 hg hp hown hb, fun h31 h30 hg hown hb =>
      dmaSkip_host hw hmay hen hs h4 hsize hask h31 h30 hg hown hb, fun b code hcode h31 h30 hb hv hf hq =>
      dmaSkip_scratchpad hw hmay hen hs h4 hsize hcode h31 h30 hb hv hf hq⟩, fun a code irq hu hd => ?_⟩
  · obtain ⟨t, e, passed, mem, keeps⟩ := dmaDescriptorDone_ends ha ho hs hput hwr hq hp hw
    refine ⟨t, e, passed.head, passed.ch, passed.evt, passed.state, fun b hb hv hf hm => ?_, keeps⟩
    rw [mem b hb hv hf hm]
    refine ⟨(memBytes_memPuts _ _ _ (by simp [doneBytes, length_leBytes])).trans ?_, fun a ha => ?_⟩
    · simp [doneBytes, length_leBytes]
    · refine memByte_memPuts_out _ _ _ ?_
      have len : (doneBytes 0).length = 4 := length_leBytes 4 _
      rw [len, backOff]
      omega
  · have same : SameChannel n s s := (Only.refl [] [] s).sameChannel (by simp) (by simp) (by simp)
    have passed := passedOn_advance same irq
    rw [goesOn_back hu _ _ hd]
    exact ⟨passed.head, dmaState_advance_ne s n irq, passed.ch, passed.evt, (only_dmaAdvance_irq s n irq).1⟩

end Sys2Proof.Machine
end

section
namespace Sys2Proof.Machine

/-! ### Messages and pending bits (R461) -/

section Ports
variable (s : State) {f g : Nat} (x : Pcie)

@[simp] theorem pcie_setPcie_same (f : Nat) : pcie (setPcie s f x) f = x := by simp [pcie, setPcie]

theorem pcie_setPcie_ne (h : g ≠ f) : pcie (setPcie s f x) g = pcie s g := by
  simp [pcie, setPcie, KMap.get_set_ne _ _ _ h]

theorem pcie_congr {s t : State} (h : t.pcie = s.pcie) (f : Nat) : pcie t f = pcie s f := by rw [pcie, pcie, h]

/-- A port set to what keeps a relation to it leaves every port in that relation. -/
theorem pcie_setPcie_rel {R : Pcie → Pcie → Prop} (hr : ∀ y, R y y) (hx : R (pcie s f) x) (g : Nat) :
    R (pcie s g) (pcie (setPcie s f x) g) := by
  by_cases h : g = f
  · subst h
    rwa [pcie_setPcie_same]
  · rw [pcie_setPcie_ne s x h]
    exact hr _

end Ports

/-! Bits of a mask. -/

theorem bitOf_or (a b i : Nat) : bitOf (a ||| b) i = (bitOf a i || bitOf b i) := by
  simp only [bitOf_eq_testBit, Nat.testBit_or]

theorem bitOf_two_pow (v i : Nat) : bitOf (2 ^ v) i = decide (v = i) := by
  simp only [bitOf_eq_testBit, Nat.testBit_two_pow]

/-- A set bit taken away is clear, and no other bit changes. -/
theorem bitOf_sub_two_pow {n v : Nat} (h : bitOf n v = true) (i : Nat) :
    bitOf (n - 2 ^ v) i = if i = v then false else bitOf n i := by
  simp only [bitOf_eq_testBit] at h ⊢
  have odd : n / 2 ^ v % 2 = 1 := by simpa [Nat.testBit_eq_decide_div_mod_eq] using h
  have low : n % 2 ^ v < 2 ^ v := Nat.mod_lt _ (by positivity)
  obtain ⟨q, hq⟩ : ∃ q, n / 2 ^ v = 2 * q + 1 := ⟨n / 2 ^ v / 2, by omega⟩
  have whole : n = 2 ^ v * (2 * q + 1) + n % 2 ^ v := by rw [← hq, Nat.div_add_mod]
  have less : n - 2 ^ v = 2 ^ v * (2 * q) + n % 2 ^ v := by
    have : 2 ^ v * (2 * q + 1) = 2 ^ v * (2 * q) + 2 ^ v := by ring
    omega
  rw [less, Nat.testBit_two_pow_mul_add _ low]
  conv_rhs => rw [whole, Nat.testBit_two_pow_mul_add _ low]
  by_cases lt : i < v
  · simp [lt, Nat.ne_of_lt lt]
  · simp only [if_neg lt]
    split
    case isTrue e => simp [e, Nat.testBit_zero]
    case isFalse ne =>
      obtain ⟨k, hk⟩ : ∃ k, i - v = k + 1 := ⟨i - v - 1, by omega⟩
      rw [hk, Nat.testBit_succ, Nat.testBit_succ, show 2 * q / 2 = (2 * q + 1) / 2 by omega]

theorem mem_bitsList {m v : Nat} : v ∈ bitsList m ↔ v < 32 ∧ bitOf m v = true := by simp [bitsList]

theorem nodup_bitsList (m : Nat) : (bitsList m).Nodup := List.Nodup.filter _ List.nodup_range

/-! What a message wanted leaves of the ports. -/

/-- Messages have been wanted: they are sent, held or pending, and nothing else has changed. -/
structure Msgs (s t : State) : Prop where
  only : Only [] [] s t
  out : ∀ o ∈ s.out, o ∈ t.out
  pends : ∀ f v, bitOf (pcie s f).pba v = true → bitOf (pcie t f).pba v = true
  clear : ∀ f v, vecMasked (pcie s f) v = false → bitOf (pcie s f).pba v = false → bitOf (pcie t f).pba v = false
  held : ∀ f, bitOf (pcie s f).command 2 = true ∨ msixOn (pcie s f) = false → (pcie t f).held = (pcie s f).held

section Msgs
variable {s t u : State}

/-- The MSI-X table's part of a port: nothing of it moves when messages do. -/
theorem Only.vecMasked_eq {us : List UnitName} {rs : List Nat} (h : Only us rs s t) (f v : Nat) :
    vecMasked (pcie t f) v = vecMasked (pcie s f) v := by
  obtain ⟨-, -, -, -, -, ctl, table⟩ := h.2.2 f
  rw [vecMasked, vecMasked, msixWord, msixWord, ctl, table]

theorem Only.msixOn_eq {us : List UnitName} {rs : List Nat} (h : Only us rs s t) (f : Nat) :
    msixOn (pcie t f) = msixOn (pcie s f) := by
  obtain ⟨-, -, -, -, -, ctl, -⟩ := h.2.2 f
  rw [msixOn, msixOn, ctl]

theorem Only.command_eq {us : List UnitName} {rs : List Nat} (h : Only us rs s t) (f : Nat) :
    (pcie t f).command = (pcie s f).command := (h.2.2 f).2.1

theorem Msgs.refl (s : State) : Msgs s s :=
  ⟨Only.refl _ _ s, fun _ h => h, fun _ _ h => h, fun _ _ _ h => h, fun _ _ => rfl⟩

theorem Msgs.trans (h : Msgs s t) (k : Msgs t u) : Msgs s u where
  only := h.only.trans k.only
  out o ho := k.out o (h.out o ho)
  pends f v hv := k.pends f v (h.pends f v hv)
  clear f v hm hv := k.clear f v (by rwa [h.only.vecMasked_eq]) (h.clear f v hm hv)
  held f hc := (k.held f (by rwa [h.only.command_eq, h.only.msixOn_eq])).trans (h.held f hc)

theorem msgs_foldl {α : Type} {g : State → α → State} (step : ∀ t a, Msgs t (g t a)) (l : List α) (s : State) :
    Msgs s (l.foldl g s) := by
  induction l generalizing s with
  | nil => exact Msgs.refl s
  | cons a l ih => exact (step s a).trans (ih _)

/-- Only the ports' records of active vectors differ, or what is kept for other ends. -/
theorem msgs_of_same (h : Only [] [] s t) (ho : t.out = s.out)
    (hp : ∀ f, (pcie t f).pba = (pcie s f).pba ∧ (pcie t f).held = (pcie s f).held) : Msgs s t :=
  ⟨h, fun o hm => by rwa [ho], fun f v hv => by rwa [(hp f).1], fun f v _ hv => by rwa [(hp f).1], fun f _ => (hp f).2⟩

variable (s)

/-- The vector's message is sent if Bus Master Enable is 1, else held. -/
theorem sendMsix_msgs {f : Nat} (hf : f < 2) (v : Nat) (hon : msixOn (pcie s f) = true) : Msgs s (sendMsix s f v) := by
  have only : Only [] [] s (sendMsix s f v) := only_hostSend s hf _
  have out (o : Out) (ho : o ∈ s.out) : o ∈ (sendMsix s f v).out := mem_out_hostSend ho f _
  by_cases hc : bitOf (pcie s f).command 2 = true
  · have same (g : Nat) : pcie (sendMsix s f v) g = pcie s g := by
      refine pcie_congr ?_ g
      simp [sendMsix, hostSend, hc]
    exact ⟨only, out, fun g v h => by rwa [same], fun g v _ h => by rwa [same], fun g _ => by rw [same]⟩
  · have e : sendMsix s f v = setPcie s f { pcie s f with held := (pcie s f).held ++ [.hostWrite f
        (msixWord (pcie s f) (4 * v) + msixWord (pcie s f) (4 * v + 1) * 2 ^ 32) (leBytes 4 (msixWord (pcie s f) (4 * v + 2)))] } := by
      rw [sendMsix, hostSend]
      exact if_neg hc
    have pba (g : Nat) : (pcie (sendMsix s f v) g).pba = (pcie s g).pba := by
      rw [e]
      by_cases h : g = f
      · subst h
        rw [pcie_setPcie_same]
      · rw [pcie_setPcie_ne s _ h]
    refine ⟨only, out, fun g v h => by rwa [pba], fun g v _ h => by rwa [pba], fun g hg => ?_⟩
    by_cases h : g = f
    · subst h
      simp [hc, hon] at hg
    · rw [e, pcie_setPcie_ne s _ h]

theorem msgs_wantMsix {f : Nat} (hf : f < 2) (v : Nat) : Msgs s (wantMsix s f v) := by
  unfold wantMsix
  dsimp only
  split
  · exact Msgs.refl s
  · rename_i on
    split
    · rename_i masked
      have e := only_setPcie (s := s) f { pcie s f with pba := (pcie s f).pba ||| 2 ^ v } rfl rfl rfl rfl rfl rfl rfl
      refine ⟨e, fun o ho => by simpa using ho, ?_, ?_, fun g _ => ?_⟩
      · exact fun g i => pcie_setPcie_rel (R := fun x y => bitOf x.pba i = true → bitOf y.pba i = true) s _ (fun _ h => h)
          (fun h => by simp [bitOf_or, h]) g
      · intro g i
        by_cases h : g = f
        · subst h
          intro hm hi
          have ne : v ≠ i := fun e => by
            rw [e, hm] at masked
            exact absurd masked (by decide)
          rw [pcie_setPcie_same]
          simp [bitOf_or, bitOf_two_pow, hi, ne]
        · rw [pcie_setPcie_ne s _ h]
          exact fun _ h => h
      · by_cases h : g = f
        · subst h
          rw [pcie_setPcie_same]
        · rw [pcie_setPcie_ne s _ h]
    · exact sendMsix_msgs s hf v (by simpa using fun h => on (.inl h))

theorem msgs_msixLook {f : Nat} (hf : f < 2) (sum : Nat) : Msgs s (msixLook s f sum) := by
  unfold msixLook
  dsimp only
  split
  · exact Msgs.refl s
  · refine Msgs.trans ?_ (msgs_foldl (fun t v => msgs_wantMsix t hf v) _ _)
    refine msgs_of_same (only_setPcie f _ rfl rfl rfl rfl rfl rfl rfl) (by simp) fun g => ?_
    by_cases h : g = f
    · subst h
      rw [pcie_setPcie_same]
      exact ⟨rfl, rfl⟩
    · rw [pcie_setPcie_ne s _ h]
      exact ⟨rfl, rfl⟩

/-- The end of a command only wants messages (R461). -/
theorem msgs_finish (s0 : State) : Msgs s (finish s0 s) := by
  have begun : Msgs s { s with pending := s0.pending, cycle := s0.cycle } :=
    msgs_of_same (only_units (us := []) (fun u _ => by cases u <;> rfl) rfl rfl) rfl fun _ => ⟨rfl, rfl⟩
  have ends (u : State) : Msgs u (settle u) := (msgs_msixLook u (by decide) _).trans (msgs_msixLook _ (by decide) _)
  have noted (u : State) : Msgs u (notePast s0 u 0) := by
    refine msgs_of_same (quiet_notePast s0 u 0).1 ?_ fun f => ?_ <;> unfold notePast <;> split
    · rfl
    · rfl
    · exact ⟨rfl, rfl⟩
    · exact ⟨rfl, rfl⟩
  exact (begun.trans (ends _)).trans (noted _)

end Msgs

end Sys2Proof.Machine
end

section
namespace Sys2Proof.Machine

/-! ### Configuration requests and the errors of an endpoint (R454–R459, R550, R551) -/

/-- What a command may change beside one port: named parts and registers. -/
def KeepsBeside (us : List UnitName) (rs : List Nat) (s t : State) : Prop := keepsUnits us s t ∧ keepsRegs rs s t

section Beside
variable {us : List UnitName} {rs : List Nat} {s t u : State}

theorem KeepsBeside.trans (h : KeepsBeside us rs s t) (k : KeepsBeside us rs t u) : KeepsBeside us rs s u :=
  ⟨fun x hx => x.same_trans (h.1 x hx) (k.1 x hx), fun o ho hn => (k.2 o ho hn).trans (h.2 o ho hn)⟩

theorem Only.beside (h : Only us rs s t) : KeepsBeside us rs s t := ⟨h.1, h.2.1⟩

/-- A port's own record is no part and no register. -/
theorem beside_setPcie (s : State) (f : Nat) (x : Pcie) : KeepsBeside us rs s (setPcie s f x) :=
  ⟨fun u _ => by cases u <;> rfl, fun o _ _ => rd_congr (by simp) o⟩

theorem KeepsBeside.finished (h : KeepsBeside us rs s t) : KeepsBeside us rs s (finish s t) :=
  h.trans ((only_finish s t).mono (by simp) (by simp)).beside

end Beside

section Config
variable (s : State) {f : Nat}

/-- The counter of sent requests is one that any command may move (R551). -/
theorem only_msgCount (hf : f < 2) (n : Nat) : Only [] [] s (bump s (Reg.hstPcieCnt f 3) n) := by
  have counted := only_bump s (Reg.hstPcieCnt f 3) n
  refine ⟨counted.1, fun x hx _ => counted.2.1 x hx ?_, counted.2.2⟩
  rcases (by omega : f = 0 ∨ f = 1) with rfl | rfl <;> simp [msgRegs] at hx ⊢ <;> tauto

/-- The device's requests once those held for Bus Master Enable have left: their time is counted from now. -/
def hostLeft (x : Pcie) : List HostReq :=
  let ids := x.held.filterMap (fun o => match o with
    | .hostRead _ id _ _ => some id
    | _ => none)
  s.host.map (fun r => if ids.contains r.id then { r with since := s.cycle } else r)

/-- The port with nothing held, and the requests on their way. -/
def heldLeft (f : Nat) : State :=
  { setPcie s f { pcie s f with held := [] } with
    out := s.out ++ (pcie s f).held
    host := hostLeft s (pcie s f) }

theorem releaseHeld_on (h : bitOf (pcie s f).command 2 = true) :
    releaseHeld s f = bump (heldLeft s f) (Reg.hstPcieCnt f 3) (pcie s f).held.length := by
  unfold releaseHeld
  exact if_pos h

theorem pcie_heldLeft : pcie (heldLeft s f) f = { pcie s f with held := [] } := pcie_setPcie_same s _ f

theorem only_heldLeft : Only [.host] [] s (heldLeft s f) := by
  have left : Only [] [] s (setPcie s f { pcie s f with held := [] }) := only_setPcie f _ rfl rfl rfl rfl rfl rfl rfl
  have sent : Only [.host] [] (setPcie s f { pcie s f with held := [] }) (heldLeft s f) :=
    only_units (fun u hu => by cases u <;> simp [UnitName.same, heldLeft] at *) rfl rfl
  exact (left.trans sent).mono (by simp) (by simp)

theorem only_releaseHeld (hf : f < 2) : Only [.host] [] s (releaseHeld s f) := by
  by_cases h : bitOf (pcie s f).command 2 = true
  · rw [releaseHeld_on s h]
    exact ((only_heldLeft s).trans (only_msgCount _ hf _)).mono (by simp) (by simp)
  · rw [show releaseHeld s f = s from if_neg h]
    exact Only.refl _ _ s

theorem configRequest_up (ha : awake s = true) (hu : (pcie s f).up = true) (hr : cfgReady s = true) (write : Bool)
    (r : CfgReg) (v : Nat) : configRequest s f write r v =
      if write then cfgWrite s f r v else { s with out := s.out ++ [.cfgData f (cfgRead s f r)] } := by
  simp [configRequest, ha, hu, hr]

end Config

/-! The clauses. -/

section Clauses
variable {s : State} {f : Fin 2}

/-- Before apply has ended, configuration requests are answered with Retry Status (R455). -/
theorem config_retried (ha : awake s = true) (hu : (pcie s f).up = true) (hr : cfgReady s = false) (write : Bool)
    (reg : CfgReg) (v : BitVec 32) :
    Ends (.configurationRequest f write reg v) s fun t => Out.cfgRetry f.val ∈ t.out ∧ Only [] [] s t := by
  have e : configRequest s f.val write reg v.toNat = { s with out := s.out ++ [.cfgRetry f] } := by
    simp [configRequest, ha, hu, hr]
  refine ends_of (core_configurationRequest f write reg v ha) ?_
  rw [e]
  exact ⟨mem_out_finish s (by simp), (only_setOut s _).finished⟩

theorem config_read (ha : awake s = true) (hu : (pcie s f).up = true) (hr : cfgReady s = true) (reg : CfgReg) (v : BitVec 32) :
    Ends (.configurationRequest f false reg v) s fun t =>
      Out.cfgData f.val (cfgRead s f.val reg) ∈ t.out ∧ Only [] [] s t := by
  refine ends_of (core_configurationRequest f false reg v ha) ?_
  rw [configRequest_up s ha hu hr, if_neg (by simp)]
  exact ⟨mem_out_finish s (by simp), (only_setOut s _).finished⟩

/-- A write of Command: Bus Master Enable lets what it held back leave (R454, R459). -/
theorem config_command (ha : awake s = true) (hu : (pcie s f).up = true) (hr : cfgReady s = true) (v : BitVec 32) :
    Ends (.configurationRequest f true .command v) s fun t =>
      (pcie t f.val).command = v.toNat &&& 0x0546 ∧
      (bitOf v.toNat 2 = true → (pcie t f.val).held = [] ∧ ∀ o ∈ (pcie s f).held, o ∈ t.out) ∧
      KeepsBeside [.host] [] s t := by
  refine ends_of (core_configurationRequest f true .command v ha) ?_
  rw [configRequest_up s ha hu hr, if_pos rfl]
  obtain ⟨u, hset⟩ : ∃ u, u = setPcie s f { pcie s f with command := v.toNat &&& 0x0546 } := ⟨_, rfl⟩
  have hp : pcie u f = { pcie s f with command := v.toNat &&& 0x0546 } := by rw [hset, pcie_setPcie_same]
  rw [show cfgWrite s f .command v.toNat = releaseHeld u f by rw [hset]; rfl]
  have end_ := (only_releaseHeld u f.isLt).trans (only_finish s (releaseHeld u f))
  refine ⟨?_, fun hb => ?_, ?_⟩
  · rw [end_.command_eq, hp]
  · have on : bitOf (pcie u f).command 2 = true := by
      rw [hp]
      simp only [bitOf_eq_testBit] at hb ⊢
      rw [Nat.testBit_and, hb]
      decide
    have port : pcie (releaseHeld u f) f = { pcie u f with held := [] } := by
      rw [releaseHeld_on u on, ← pcie_heldLeft u]
      exact pcie_congr (by simp) f
    refine ⟨?_, fun o ho => mem_out_finish s ?_⟩
    · rw [(msgs_finish _ s).held f (.inl (by rw [port]; exact on)), port]
    · rw [releaseHeld_on u on, bump_out]
      exact List.mem_append_right _ (by rwa [hp])
  · have set_ : KeepsBeside [.host] [] s u := by rw [hset]; exact beside_setPcie s f _
    exact set_.trans (end_.mono (by simp) (by simp)).beside

theorem config_bar0Lo (ha : awake s = true) (hu : (pcie s f).up = true) (hr : cfgReady s = true) (v : BitVec 32) :
    Ends (.configurationRequest f true .bar0Lo v) s fun t =>
      bitsOf (pcie t f.val).bar0 31 0 = v.toNat &&& 0xFE000000 ∧
      bitsOf (pcie t f.val).bar0 63 32 = bitsOf (pcie s f).bar0 63 32 ∧ KeepsBeside [] [] s t := by
  refine ends_of (core_configurationRequest f true .bar0Lo v ha) ?_
  rw [configRequest_up s ha hu hr, if_pos rfl]
  have bar (t : State) (ht : t = cfgWrite s f .bar0Lo v.toNat) : (pcie (finish s t) f).bar0 =
      putBits (pcie s f).bar0 31 0 (v.toNat &&& 0xFE000000) := by
    obtain ⟨-, -, -, -, hbar, -, -⟩ := (only_finish s t).2.2 f
    rw [hbar, ht, show cfgWrite s f .bar0Lo v.toNat = setPcie s f { pcie s f with
      bar0 := putBits (pcie s f).bar0 31 0 (v.toNat &&& 0xFE000000) } from rfl, pcie_setPcie_same]
  rw [bar _ rfl]
  refine ⟨?_, bitsOf_putBits_apart _ _ _ _ _ _ (by decide) (by decide), (beside_setPcie s f _).finished⟩
  rw [bitsOf_putBits_same _ _ _ _ (by decide)]
  have : v.toNat &&& 0xFE000000 ≤ 0xFE000000 := Nat.and_le_right
  omega

/-- Initiate Function Level Reset is the endpoint's reset (R459). -/
theorem config_flr (ha : awake s = true) (hu : (pcie s f).up = true) (hr : cfgReady s = true) (v : BitVec 32)
    (hb : bitOf v.toNat 15 = true) :
    exec (.configurationRequest f true .devCtl v) s = exec (.endpointReset f .flr) s := by
  rw [core_configurationRequest f true .devCtl v ha, core_endpointReset f .flr ha, configRequest_up s ha hu hr,
    if_pos rfl, cfgWrite, if_pos hb]

/-- An unsupported request is counted and reported, and latches nothing (R550). -/
theorem request_unsupported (ha : awake s = true) (hu : (pcie s f).up = true) :
    Ends (.unsupportedRequest f .unsupported) s fun t =>
      rd t (Reg.hstPcieCnt f 2) = (rd s (Reg.hstPcieCnt f 2) + 1) % 2 ^ 48 ∧ Out.pcieError f.val 1 ∈ t.out ∧
      Only [] [Reg.hstPcieCnt f 2] s t := by
  have e : unsupportedRequest s f.val .unsupported = pcieErr s f 1 none := by simp [unsupportedRequest, ha, hu]
  refine ends_of (core_unsupportedRequest f .unsupported ha) ?_
  rw [e, pcieErr]
  refine ⟨?_, mem_out_finish s (by simp), ((only_setOut s _).trans (only_bump _ _ _)).finished.mono (by simp) (by simp)⟩
  rw [rd_finish s _ (by fin_cases f <;> decide), rd_bump_same]
  rfl

/-- A request that is misshapen or poisoned is counted and latches its bit (R457, R458). -/
theorem request_latches (ha : awake s = true) {k : BadReq} {kind b : Nat} (hb : b < 64)
    (e : unsupportedRequest s f.val k = pcieErr s f kind (some b)) :
    Ends (.unsupportedRequest f k) s fun t =>
      rd t (Reg.hstPcieCnt f 2) = (rd s (Reg.hstPcieCnt f 2) + 1) % 2 ^ 48 ∧ flag t (Reg.hstPcieEvt f) b = true ∧
      Only [] [Reg.hstPcieCnt f 2, Reg.hstPcieEvt f] s t := by
  refine ends_of (core_unsupportedRequest f k ha) ?_
  rw [e]
  refine ⟨?_, ?_, (only_pcieErr_some s f kind b).finished⟩
  · rw [rd_finish s _ (by fin_cases f <;> decide), pcieErr, rd_setEvt_ne _ _ (by fin_cases f <;> decide), rd_bump_same]
    rfl
  · rw [flag_congr (rd_finish s _ (by fin_cases f <;> decide)), pcieErr, flag_setEvt_same _ _ _ hb]

theorem link_error (ha : awake s = true) (hu : (pcie s f).up = true) :
    Ends (.unsupportedRequest f .linkError) s fun t =>
      rd t (Reg.hstPcieCnt f 1) = (rd s (Reg.hstPcieCnt f 1) + 1) % 2 ^ 48 ∧ Only [] [Reg.hstPcieCnt f 1] s t := by
  have e : unsupportedRequest s f.val .linkError = bump s (Reg.hstPcieCnt f 1) 1 := by simp [unsupportedRequest, ha, hu]
  refine ends_of (core_unsupportedRequest f .linkError ha) ?_
  rw [e]
  refine ⟨?_, (only_bump s _ 1).finished⟩
  rw [rd_finish s _ (by fin_cases f <;> decide), rd_bump_same]

/-- PERST released, the link comes up with the registers it has (R485). -/
theorem perst_released (ha : awake s = true) : Ends (.perstRelease f) s fun t =>
    (pcie t f.val).up = true ∧ (pcie t f.val).command = (pcie s f).command ∧
    (∀ j, j < 2 → j ≠ f.val → (pcie t j).up = (pcie s j).up) ∧ KeepsBeside [] [] s t := by
  have e : perstRelease s f.val = setPcie s f { pcie s f with up := true } := by simp [perstRelease, ha]
  refine ends_of (core_perstRelease f ha) ?_
  rw [e]
  refine ⟨?_, ?_, fun j _ hj => ?_, (beside_setPcie s f _).finished⟩
  · rw [((only_finish s _).2.2 f).1, pcie_setPcie_same]
  · rw [(only_finish s _).command_eq, pcie_setPcie_same]
  · rw [((only_finish s _).2.2 j).1, pcie_setPcie_ne s _ hj]

end Clauses

end Sys2Proof.Machine
end

section
namespace Sys2Proof.Machine

/-! ### MSI-X: a vector unmasked, and vectors armed again (R461) -/

/-- A vector's message, as the port's table gives it. -/
def vecMessage (x : Pcie) (f v : Nat) : Out :=
  .hostWrite f (msixWord x (4 * v) + msixWord x (4 * v + 1) * 2 ^ 32) (leBytes 4 (msixWord x (4 * v + 2)))

theorem sendMsix_eq (s : State) (f v : Nat) : sendMsix s f v = hostSend s f (vecMessage (pcie s f) f v) := rfl

theorem vecMessage_congr {x y : Pcie} (h : y.table = x.table) (f v : Nat) : vecMessage y f v = vecMessage x f v := by
  simp only [vecMessage, msixWord, h]

theorem Only.vecMessage_eq {us : List UnitName} {rs : List Nat} {s t : State} (h : Only us rs s t) (f v : Nat) :
    vecMessage (pcie t f) f v = vecMessage (pcie s f) f v := by
  obtain ⟨-, -, -, -, -, -, table⟩ := h.2.2 f
  exact vecMessage_congr table f v

theorem mem_out_sendMsix {s : State} {f : Nat} (v : Nat) (hc : bitOf (pcie s f).command 2 = true) :
    vecMessage (pcie s f) f v ∈ (sendMsix s f v).out := by
  rw [sendMsix_eq, hostSend]
  simp [hc]

/-! One vector wanted among others. -/

section Want
variable {s : State} {f k : Nat}

theorem pends_wantMsix (hon : msixOn (pcie s f) = true) (hpos : s.img.weltPos = 0) (hm : vecMasked (pcie s f) k = true) :
    bitOf (pcie (wantMsix s f k) f).pba k = true := by
  rw [wantMsix, if_neg (by simp [hon, hpos]), if_pos hm, pcie_setPcie_same]
  simp [bitOf_or, bitOf_two_pow]

theorem mem_out_wantMsix_unmasked (hon : msixOn (pcie s f) = true) (hpos : s.img.weltPos = 0)
    (hm : vecMasked (pcie s f) k = false) (hc : bitOf (pcie s f).command 2 = true) :
    vecMessage (pcie s f) f k ∈ (wantMsix s f k).out := by
  rw [wantMsix, if_neg (by simp [hon, hpos]), if_neg (by simp [hm])]
  exact mem_out_sendMsix k hc

/-- A vector among those wanted is pending if masked, else its message is sent. -/
theorem wantAll_wants (hf : f < 2) (l : List Nat) (hk : k ∈ l) (hon : msixOn (pcie s f) = true) (hpos : s.img.weltPos = 0) :
    (vecMasked (pcie s f) k = true → bitOf (pcie (l.foldl (fun st v => wantMsix st f v) s) f).pba k = true) ∧
    (vecMasked (pcie s f) k = false → bitOf (pcie s f).command 2 = true →
      vecMessage (pcie s f) f k ∈ (l.foldl (fun st v => wantMsix st f v) s).out) := by
  obtain ⟨before, after_, rfl⟩ := List.append_of_mem hk
  rw [List.foldl_append, List.foldl_cons]
  obtain ⟨u, hu⟩ : ∃ u, u = before.foldl (fun st v => wantMsix st f v) s := ⟨_, rfl⟩
  have reach : Only [] [] s u := by
    rw [hu]
    exact (msgs_foldl (fun t v => msgs_wantMsix t hf v) before s).only
  have later := msgs_foldl (fun t v => msgs_wantMsix t hf v) after_ (wantMsix u f k)
  have pos : u.img.weltPos = 0 := by rw [show u.img = s.img from reach.1 .img (by simp), hpos]
  rw [← hu, ← reach.vecMasked_eq, ← reach.msixOn_eq, ← reach.command_eq, ← reach.vecMessage_eq] at *
  exact ⟨fun hm => later.pends f k (pends_wantMsix hon pos hm),
    fun hm hc => later.out _ (mem_out_wantMsix_unmasked hon pos hm hc)⟩

end Want

/-! Pending vectors released. -/

/-- What `msixRelease` does at one pending vector. -/
def releaseOne (f : Nat) (s : State) (v : Nat) : State :=
  let y := pcie s f
  if msixOn y && !vecMasked y v then
    let s1 := setPcie s f { y with pba := y.pba - 2 ^ v }
    if bitOf (vectorsOf s f (intSum s)) v then sendMsix s1 f v else s1
  else s

theorem msixRelease_eq (s : State) (f : Nat) : msixRelease s f = (bitsList (pcie s f).pba).foldl (releaseOne f) s := rfl

/-- A vector is unmasked, and MSI-X is enabled. -/
def sends (x : Pcie) (v : Nat) : Bool := msixOn x && !vecMasked x v

theorem Only.sends_eq {us : List UnitName} {rs : List Nat} {s t : State} (h : Only us rs s t) (f v : Nat) :
    sends (pcie t f) v = sends (pcie s f) v := by rw [sends, sends, h.msixOn_eq, h.vecMasked_eq]

section Release
variable {s : State} {f : Nat} (hf : f < 2)

theorem pba_hostSend (s : State) (f : Nat) (o : Out) (g : Nat) : (pcie (hostSend s f o) g).pba = (pcie s g).pba := by
  unfold hostSend
  dsimp only
  split
  · exact congrArg Pcie.pba (pcie_congr (by simp) g)
  · by_cases h : g = f
    · subst h
      rw [pcie_setPcie_same]
    · rw [pcie_setPcie_ne s _ h]

/-- The port with the vector's pending bit taken away. -/
def unpended (s : State) (f v : Nat) : State := setPcie s f { pcie s f with pba := (pcie s f).pba - 2 ^ v }

theorem releaseOne_of (s : State) (f v : Nat) : releaseOne f s v =
    if sends (pcie s f) v then
      if bitOf (vectorsOf s f (intSum s)) v then sendMsix (unpended s f v) f v else unpended s f v
    else s := rfl

theorem only_unpended (s : State) (f v : Nat) : Only [] [] s (unpended s f v) := only_setPcie f _ rfl rfl rfl rfl rfl rfl rfl

include hf

theorem only_releaseOne (s : State) (v : Nat) : Only [] [] s (releaseOne f s v) := by
  rw [releaseOne_of]
  split
  · split
    · exact (only_unpended s f v).trans (only_hostSend _ hf _)
    · exact only_unpended s f v
  · exact Only.refl _ _ s

theorem causesAgree_releaseOne (s : State) (v : Nat) : CausesAgree s (releaseOne f s v) := by
  have off : CausesAgree s (unpended s f v) := causesAgree_of_regs (by simp [unpended])
  rw [releaseOne_of]
  split
  · split
    · exact off.trans (causesAgree_hostSend _ f hf _)
    · exact off
  · exact CausesAgree.refl s

omit hf in
theorem out_releaseOne {o : Out} (ho : o ∈ s.out) (v : Nat) : o ∈ (releaseOne f s v).out := by
  have off : o ∈ (unpended s f v).out := by simpa [unpended] using ho
  rw [releaseOne_of]
  split
  · split
    · exact mem_out_hostSend off f _
    · exact off
  · exact ho

omit hf in
/-- A pending vector that sends loses its pending bit; no other bit changes. -/
theorem pba_releaseOne {v : Nat} (hv : bitOf (pcie s f).pba v = true) (i : Nat) :
    bitOf (pcie (releaseOne f s v) f).pba i = if i = v ∧ sends (pcie s f) v = true then false else bitOf (pcie s f).pba i := by
  have off : bitOf (pcie (unpended s f v) f).pba i = if i = v then false else bitOf (pcie s f).pba i := by
    rw [unpended, pcie_setPcie_same]
    exact bitOf_sub_two_pow hv i
  rw [releaseOne_of]
  by_cases hs : sends (pcie s f) v = true
  · rw [if_pos hs]
    split
    · rw [sendMsix_eq, pba_hostSend, off]
      simp [hs]
    · rw [off]
      simp [hs]
  · rw [if_neg hs, if_neg (fun h => hs h.2)]

omit hf in
theorem sent_releaseOne {v : Nat} (hs : sends (pcie s f) v = true) (ha : bitOf (vectorsOf s f (intSum s)) v = true)
    (hc : bitOf (pcie s f).command 2 = true) : vecMessage (pcie s f) f v ∈ (releaseOne f s v).out := by
  rw [releaseOne_of, if_pos hs, if_pos ha]
  have kept := only_unpended s f v
  rw [← kept.vecMessage_eq]
  exact mem_out_sendMsix v (by rw [kept.command_eq, hc])

/-- What the release of a list of pending vectors leaves. -/
structure Released (f : Nat) (l : List Nat) (s t : State) : Prop where
  only : Only [] [] s t
  out : ∀ o ∈ s.out, o ∈ t.out
  other : ∀ i, i ∉ l → bitOf (pcie t f).pba i = bitOf (pcie s f).pba i
  clear : ∀ i ∈ l, sends (pcie s f) i = true → bitOf (pcie t f).pba i = false
  sent : ∀ i ∈ l, sends (pcie s f) i = true → bitOf (vectorsOf s f (intSum s)) i = true →
    bitOf (pcie s f).command 2 = true → vecMessage (pcie s f) f i ∈ t.out

theorem released_all (l : List Nat) (hl : l.Nodup) (s : State) (hp : ∀ v ∈ l, bitOf (pcie s f).pba v = true) :
    Released f l s (l.foldl (releaseOne f) s) := by
  induction l generalizing s with
  | nil => exact ⟨Only.refl _ _ s, fun _ h => h, fun _ _ => rfl, by simp, by simp⟩
  | cons v l ih =>
    obtain ⟨hvl, hl⟩ := List.nodup_cons.1 hl
    have hv : bitOf (pcie s f).pba v = true := hp v (by simp)
    obtain ⟨u, hu⟩ : ∃ u, u = releaseOne f s v := ⟨_, rfl⟩
    have one : Only [] [] s u := by rw [hu]; exact only_releaseOne hf s v
    have bit (i : Nat) : bitOf (pcie u f).pba i = if i = v ∧ sends (pcie s f) v = true then false else bitOf (pcie s f).pba i := by
      rw [hu]
      exact pba_releaseOne hv i
    have vectors : vectorsOf u f (intSum u) = vectorsOf s f (intSum s) := by
      have agree : CausesAgree s u := by rw [hu]; exact causesAgree_releaseOne hf s v
      rw [intSum_congr agree, vectorsOf_congr agree hf]
    have rest := ih hl u (fun w hw => by
      have ne : w ≠ v := fun e => hvl (e ▸ hw)
      rw [bit, if_neg (fun h => ne h.1)]
      exact hp w (by simp [hw]))
    rw [List.foldl_cons, ← hu]
    refine ⟨one.trans rest.only, fun o ho => rest.out o (by rw [hu]; exact out_releaseOne ho v), fun i hi => ?_,
      fun i hi hs => ?_, fun i hi hs ha hc => ?_⟩
    · obtain ⟨ne, hil⟩ := not_or.1 (fun h => hi (List.mem_cons.2 h))
      rw [rest.other i hil, bit, if_neg (fun h => ne h.1)]
    · rcases List.mem_cons.1 hi with rfl | hil
      · rw [rest.other i hvl, bit, if_pos ⟨rfl, hs⟩]
      · exact rest.clear i hil (by rwa [one.sends_eq])
    · rcases List.mem_cons.1 hi with rfl | hil
      · exact rest.out _ (by rw [hu]; exact sent_releaseOne hs ha hc)
      · have := rest.sent i hil (by rwa [one.sends_eq]) (by rwa [vectors]) (by rwa [one.command_eq])
        rwa [one.vecMessage_eq] at this

theorem released_msixRelease (s : State) : Released f (bitsList (pcie s f).pba) s (msixRelease s f) :=
  released_all hf _ (nodup_bitsList _) s (fun _ hv => (mem_bitsList.1 hv).2)

end Release

/-! The clauses. -/

section Clauses
variable {s : State} {f : Fin 2}

/-- The function's own write of a vector's control word. -/
def unmasking (s : State) (f vec : Nat) : State :=
  setPcie (bump s (Reg.hstPcieCnt f 0) 1) f (msixSet (pcie s f) (4 * vec + 3) 0)

theorem unmask_writes (ha : awake s = true) (vec : Fin 32) (hu : (pcie s f).up = true) :
    busWrite4 s (if f.val = 0 then .pcie0 else .pcie1) (0xC00000 + 16 * vec.val + 12) 0#32 =
      msixRelease (unmasking s f vec) f := by
  have hv := vec.isLt
  have port : busWrite4 s (if f.val = 0 then .pcie0 else .pcie1) (0xC00000 + 16 * vec.val + 12) 0#32 =
      pcieWrite s (if f.val = 0 then .pcie0 else .pcie1) f (0xC00000 + 16 * vec.val + 12) (leBytes 4 0) := by
    fin_cases f <;> rfl
  have table : isMsix (0xC00000 + 16 * vec.val + 12) = true := by simp [isMsix]; omega
  have shape : shapeOk (0xC00000 + 16 * vec.val + 12) (leBytes 4 0).length = true := by simp [shapeOk]; omega
  have index : (0xC00000 + 16 * vec.val + 12 - 0xC00000) / 4 = 4 * vec.val + 3 := by omega
  have same : pcie (bump s (Reg.hstPcieCnt f 0) 1) f = pcie s f := pcie_congr (by simp) _
  rw [port, pcieWrite, if_neg (by simp [ha, hu, leBytes])]
  dsimp only
  rw [if_pos table, if_pos shape, msixBytes, index, if_neg (by simp), msixTableWrite, if_pos (by omega), same]
  rfl

section Unmasking
variable (s : State) (f vec : Nat)

theorem pcie_unmasking : pcie (unmasking s f vec) f = msixSet (pcie s f) (4 * vec + 3) 0 := pcie_setPcie_same _ _ f

theorem control_msixSet (x : Pcie) (i : Nat) : msixWord (msixSet x i 0) i = 0 := by
  rw [msixWord, msixSet, KMap.get_set_same, Nat.zero_mod]

theorem word_msixSet (x : Pcie) {i j : Nat} (v : Nat) (h : j ≠ i) : msixWord (msixSet x i v) j = msixWord x j := by
  rw [msixWord, msixSet, KMap.get_set_ne _ _ _ h]
  rfl

/-- The message's words are no control word. -/
theorem vecMessage_unmasking : vecMessage (pcie (unmasking s f vec) f) f vec = vecMessage (pcie s f) f vec := by
  rw [pcie_unmasking, vecMessage, word_msixSet _ _ (by omega), word_msixSet _ _ (by omega), word_msixSet _ _ (by omega)]
  rfl

theorem unmasked_unmasking (hm : bitOf (pcie s f).msixCtl 14 = false) : vecMasked (pcie (unmasking s f vec) f) vec = false := by
  rw [pcie_unmasking, vecMasked, control_msixSet, show (msixSet (pcie s f) (4 * vec + 3) 0).msixCtl = (pcie s f).msixCtl from rfl,
    hm]
  rfl

theorem beside_unmasking : KeepsBeside [] [Reg.hstPcieCnt f 0] s (unmasking s f vec) :=
  (only_bump s _ 1).beside.trans (beside_setPcie _ f _)

theorem causesAgree_unmasking (hf : f < 2) : CausesAgree s (unmasking s f vec) := by
  have counted : CausesAgree s (bump s (Reg.hstPcieCnt f 0) 1) := fun o ho => rd0_bump_ne s 1 (by
    rintro rfl
    rcases (by omega : f = 0 ∨ f = 1) with rfl | rfl <;> simp [trafficRegs] at ho)
  exact counted.trans (causesAgree_of_regs (by simp [unmasking]))

end Unmasking

/-- Unmasking a pending vector that is active sends its message and clears its bit (R461). -/
theorem vector_unmasked (ha : awake s = true) (vec : Fin 32) (hu : (pcie s f).up = true) :
    Ends (.msixUnmask f vec) s fun t =>
      msixWord (pcie t f.val) (4 * vec.val + 3) = 0 ∧
      (bitOf (pcie s f).pba vec.val = true → msixOn (pcie s f) = true → bitOf (pcie s f).msixCtl 14 = false →
        bitOf (pcie t f.val).pba vec.val = false ∧
        (bitOf (vectorsOf s f.val (intSum s)) vec.val = true → bitOf (pcie s f).command 2 = true →
          vecMessage (pcie s f) f vec ∈ t.out)) ∧
      KeepsBeside [] [Reg.hstPcieCnt f 0] s t := by
  refine ends_of (core_msixUnmask f vec ha) ?_
  rw [unmask_writes ha vec hu]
  obtain ⟨u, he⟩ : ∃ u, u = unmasking s f vec := ⟨_, rfl⟩
  have port : pcie u f = msixSet (pcie s f) (4 * vec.val + 3) 0 := by rw [he, pcie_unmasking]
  rw [← he]
  have freed := released_msixRelease f.isLt u
  have ended := msgs_finish (msixRelease u f) s
  have whole := freed.only.trans ended.only
  have pends (hp : bitOf (pcie s f).pba vec.val = true) (hon : msixOn (pcie s f) = true)
      (hm : bitOf (pcie s f).msixCtl 14 = false) : vec.val ∈ bitsList (pcie u f).pba ∧
      vecMasked (pcie u f) vec = false ∧ sends (pcie u f) vec = true := by
    have unmasked : vecMasked (pcie u f) vec = false := by rw [he]; exact unmasked_unmasking s f vec hm
    have on : msixOn (pcie u f) = true := by rw [port]; exact hon
    exact ⟨mem_bitsList.2 ⟨vec.isLt, by rw [port]; exact hp⟩, unmasked, by simp [sends, on, unmasked]⟩
  refine ⟨?_, fun hp hon hm => ⟨?_, fun hact hc => ?_⟩, ?_⟩
  · obtain ⟨-, -, -, -, -, -, table⟩ := whole.2.2 f
    rw [msixWord, table, port]
    exact control_msixSet _ _
  · obtain ⟨pending, unmasked, ready⟩ := pends hp hon hm
    exact ended.clear f vec (by rwa [freed.only.vecMasked_eq]) (freed.clear vec pending ready)
  · obtain ⟨pending, -, ready⟩ := pends hp hon hm
    have agree : CausesAgree s u := by rw [he]; exact causesAgree_unmasking s f vec f.isLt
    have active : bitOf (vectorsOf u f (intSum u)) vec = true := by
      rw [intSum_congr agree, vectorsOf_congr agree f.isLt]
      exact hact
    have message : vecMessage (pcie u f) f vec = vecMessage (pcie s f) f vec := by rw [he]; exact vecMessage_unmasking s f vec
    rw [← message]
    exact ended.out _ (freed.sent vec pending ready active (by rw [port]; exact hc))
  · have first : KeepsBeside [] [Reg.hstPcieCnt f 0] s u := by rw [he]; exact beside_unmasking s f vec
    exact first.trans (whole.mono (by simp) (by simp)).beside

/-- Arming an active vector again sends its message, or leaves it pending (R461). -/
theorem vector_rearmed (m : Requester) (v : BitVec 32) (k : Fin 32) (hw : mayWrite s m (Reg.hstIntRearm f) 4 = true)
    (hv : bitOf v.toNat k = true) (hact : bitOf (vectorsOf s f.val (intSum s)) k = true) (hon : msixOn (pcie s f) = true)
    (hpos : s.img.weltPos = 0) :
    Ends (.intRearm m f v) s fun t =>
      (vecMasked (pcie s f) k = true → bitOf (pcie t f.val).pba k = true) ∧
      (vecMasked (pcie s f) k = false → bitOf (pcie s f).command 2 = true → vecMessage (pcie s f) f k ∈ t.out) ∧
      Only [] (portRegs m) s t := by
  refine ends_of (exec_intRearm f v hw) ?_
  obtain ⟨u, he⟩ : ∃ u, u = portCount s m := ⟨_, rfl⟩
  rw [← he]
  have counted : Only [] (portRegs m) s u := by rw [he]; exact only_portCount s m
  have agree : CausesAgree s u := by
    intro o ho
    rw [he]
    cases m <;> first
      | rfl
      | exact rd0_bump_ne s 1 (by rintro rfl; simp [trafficRegs] at ho)
  have pos : u.img.weltPos = 0 := by rw [show u.img = s.img from counted.1 .img (by simp), hpos]
  have listed : k.val ∈ bitsList (v.toNat &&& vectorsOf u f (intSum u)) := by
    rw [intSum_congr agree, vectorsOf_congr agree f.isLt]
    refine mem_bitsList.2 ⟨k.isLt, ?_⟩
    simp only [bitOf_eq_testBit] at hv hact ⊢
    rw [Nat.testBit_and, hv, hact]
    rfl
  rw [← counted.msixOn_eq] at hon
  obtain ⟨pends, sent⟩ := wantAll_wants (s := u) (f := f.val) f.isLt _ listed hon pos
  have ended := msgs_finish (intRearm u f v.toNat) s
  refine ⟨fun hm => ?_, fun hm hc => ?_, ?_⟩
  · exact ended.pends f k (pends (by rwa [counted.vecMasked_eq]))
  · rw [← counted.vecMessage_eq]
    exact ended.out _ (sent (by rwa [counted.vecMasked_eq]) (by rwa [counted.command_eq]))
  · have wanted : Only [] [] u (intRearm u f v.toNat) := (msgs_foldl (fun t v => msgs_wantMsix t f.isLt v) _ u).only
    exact (counted.trans (wanted.trans ended.only)).mono (by simp) (by simp)

end Clauses

end Sys2Proof.Machine
end

section
namespace Sys2Proof.Machine

/-! ### An endpoint's reset (R459) -/

section Parts
variable (s : State) (f : Nat)

theorem only_skipChead (r : Nat) : Only [] [Reg.hstTcrChead r] s (skipChead s r) := by
  unfold skipChead
  dsimp only
  split
  · exact Only.refl _ _ s
  · exact only_wr s _ _

theorem only_setInput (id : Nat) (i : Option (List Byte)) (ue : Bool) : Only [.tcr] [] s (setInput s id i ue) :=
  only_setTcr s _

/-- The function's ring without its commands in flight: their slots, inputs and completions are given up. -/
def ringEmptied : State :=
  let s0 := dropAsks s (fun u => decide (u = .slot f) || decide (u = .compl f))
  { s0 with tcr := { s0.tcr with
    compl := s.tcr.compl.filter (fun c => c.ring ≠ f)
    gone := s.tcr.gone ++ (s.tcr.cmds.filter (fun c => decide (c.ring = f) && !s.tcr.gone.contains c.id)).map (fun (c : TCmd) => c.id)
    fetching := s.tcr.fetching.set (fun _ => false) f false } }

theorem discardRing_eq : discardRing s f = (s.tcr.compl.filter (fun c => c.ring = f)).foldl (fun st _ => skipChead st f)
    (fput (ringEmptied s f) (Reg.hstTcrCtrl f) 4 4 0) := rfl

theorem only_ringEmptied : Only [.spm, .tcr] [] s (ringEmptied s f) :=
  ((only_dropAsks s _).trans (only_setTcr _ _)).mono (by simp) (by simp)

theorem only_heads (u : State) : Only [] [Reg.hstTcrChead f] u ((s.tcr.compl.filter (fun c => c.ring = f)).foldl
    (fun st _ => skipChead st f) u) := only_foldl _ (fun t _ => only_skipChead t f) _ u

theorem only_discardRing : Only [.spm, .tcr] [Reg.hstTcrCtrl f, Reg.hstTcrChead f] s (discardRing s f) := by
  rw [discardRing_eq]
  exact ((only_ringEmptied s f).trans ((only_fput _ (Reg.hstTcrCtrl f) 4 4 0).trans (only_heads s f _))).mono (by simp) (by simp)

/-- The discarded ring is disabled. -/
theorem flag_discardRing (hf : f < 2) : flag (discardRing s f) (Reg.hstTcrCtrl f) 4 = false := by
  rw [discardRing_eq, flag_congr ((only_heads s f _).rd_above (by simp [aboveCounts, Reg.hstTcrCtrl, Reg.hstPcieCnt]; omega)
    (by simp [Reg.hstTcrCtrl, Reg.hstTcrChead])) 4, flag_fput_same _ _ (by decide)]
  rfl

/-- The requests to host memory that the port loses. -/
def requestsLost : State := { s with host := s.host.filter (fun r => r.f ≠ f) }

/-- The inputs that commands awaited from lost requests. -/
def inputsLost (l : List HostReq) : State :=
  l.foldl (fun st r => match r.use with
    | .cmdInput id => setInput st id none false
    | _ => st) s

theorem only_inputsLost (l : List HostReq) : Only [.tcr] [] s (inputsLost s l) := by
  refine only_foldl _ (fun t r => ?_) l s
  split
  · exact only_setInput t _ _ _
  · exact Only.refl _ _ t

/-! The DMA channels of the endpoint. -/

/-- A channel stops, disabled, if the endpoint owns it. -/
def channelReset (n : Nat) : State := if dmaOwner s n = f then fput (dmaStop s n) (Reg.hstDmaCtrl n) 4 4 0 else s

/-- The registers of the channels that a reset can write. -/
def channelRegs : List Nat := (List.range 8).map Reg.hstDmaStat ++ (List.range 8).map Reg.hstDmaCtrl

theorem only_channelReset (n : Nat) :
    Only [.spm, .dma, .rgl] [Reg.hstDmaStat n, Reg.hstDmaCtrl n] s (channelReset s f n) := by
  have stopped : Only [.spm, .dma, .rgl] [Reg.hstDmaStat n, Reg.hstDmaCtrl n] s (fput (dmaStop s n) (Reg.hstDmaCtrl n) 4 4 0) :=
    (((only_dmaDrop s n).trans (only_wr _ (Reg.hstDmaStat n) 0)).trans (only_fput _ (Reg.hstDmaCtrl n) 4 4 0)).mono
      (by simp) (by simp)
  exact stopped.ite (Only.refl _ _ s)

theorem dmaOwner_channelReset (n k : Nat) : dmaOwner (channelReset s f n) k = dmaOwner s k :=
  fget_congr ((only_channelReset s f n).rd_above (by simp [aboveCounts, Reg.hstDmaCfg, Reg.hstPcieCnt]; omega)
    (by simp [Reg.hstDmaCfg, Reg.hstDmaStat, Reg.hstDmaCtrl]; omega)) 1 0

/-- A channel that is disabled stays so. -/
theorem flag_channelReset_of (n : Nat) {k : Nat} (h : flag s (Reg.hstDmaCtrl k) 4 = false) :
    flag (channelReset s f n) (Reg.hstDmaCtrl k) 4 = false := by
  by_cases e : k = n
  · subst e
    rw [channelReset]
    split
    · rw [flag_fput_same _ _ (by decide)]
      rfl
    · exact h
  · rw [flag_congr ((only_channelReset s f n).rd_above (by simp [aboveCounts, Reg.hstDmaCtrl, Reg.hstPcieCnt]; omega)
      (by simp [Reg.hstDmaStat, Reg.hstDmaCtrl]; omega)) 4, h]

theorem flag_channelReset {n : Nat} (h : dmaOwner s n = f) : flag (channelReset s f n) (Reg.hstDmaCtrl n) 4 = false := by
  rw [channelReset, if_pos h, flag_fput_same _ _ (by decide)]
  rfl

/-- Every channel of the list that the endpoint owns ends disabled. -/
theorem flag_channelsReset (l : List Nat) (s : State) {n : Nat}
    (h : n ∈ l ∧ dmaOwner s n = f ∨ flag s (Reg.hstDmaCtrl n) 4 = false) :
    flag (l.foldl (fun st k => channelReset st f k) s) (Reg.hstDmaCtrl n) 4 = false := by
  induction l generalizing s with
  | nil => simpa using h
  | cons k l ih =>
    refine ih (channelReset s f k) ?_
    rcases h with ⟨hn, own⟩ | off
    · rcases List.mem_cons.1 hn with rfl | hn
      · exact .inr (flag_channelReset s f own)
      · exact .inl ⟨hn, by rwa [dmaOwner_channelReset]⟩
    · exact .inr (flag_channelReset_of s f k off)

def channelsReset : State := (List.range 8).foldl (fun st n => channelReset st f n) s

theorem only_channelsReset : Only [.spm, .dma, .rgl] channelRegs s (channelsReset s f) :=
  only_foldl_mem _ _ (fun t n hn => (only_channelReset t f n).mono (by simp) (by
    simp only [channelRegs, List.cons_subset, List.mem_append, List.mem_map, List.nil_subset, and_true]
    exact ⟨.inl ⟨n, hn, rfl⟩, .inr ⟨n, hn, rfl⟩⟩)) s

/-! The bridge reads, the urgent reservation, and the counters. -/

def readsLost : State :=
  wr (wr { s with brg := { s.brg with reads := s.brg.reads.filter (fun r => r.set ≠ f) } } (Reg.brgRrdStat f) 0)
    (Reg.rglHostUrg f) 0

theorem only_readsLost : Only [.brg] [Reg.brgRrdStat f, Reg.rglHostUrg f] s (readsLost s f) :=
  ((only_setBrg (s := s) _).trans ((only_wr _ (Reg.brgRrdStat f) 0).trans (only_wr _ (Reg.rglHostUrg f) 0))).mono (by simp) (by simp)

theorem rd_readsLost :
    rd (readsLost s f) (Reg.brgRrdStat f) = 0 ∧ rd (readsLost s f) (Reg.rglHostUrg f) = 0 := by
  refine ⟨?_, by rw [readsLost, rd_wr_same]; rfl⟩
  rw [readsLost, rd_wr_ne _ _ (by simp only [Reg.brgRrdStat, Reg.rglHostUrg]; omega), rd_wr_same]
  rfl

def countsZeroed : State := (List.range 4).foldl (fun st i => wr st (Reg.hstPcieCnt f i) 0) s

def countRegs : List Nat := [Reg.hstPcieCnt f 0, Reg.hstPcieCnt f 1, Reg.hstPcieCnt f 2, Reg.hstPcieCnt f 3]

theorem only_countsZeroed : Only [] (countRegs f) s (countsZeroed s f) :=
  only_foldl_mem _ _ (fun t i hi => (only_wr t _ 0).mono (by simp) (by
    have := List.mem_range.1 hi
    simp only [countRegs, List.cons_subset, List.nil_subset, and_true, List.mem_cons, List.not_mem_nil, or_false, Reg.hstPcieCnt]
    omega)) s

theorem rd_countsZeroed {i : Nat} (hi : i < 3) : rd (countsZeroed s f) (Reg.hstPcieCnt f i) = 0 := by
  have ne {a b : Nat} (h : a ≠ b) : Reg.hstPcieCnt f a ≠ Reg.hstPcieCnt f b := by
    simp only [Reg.hstPcieCnt]
    omega
  simp only [countsZeroed, List.range, List.range.loop, List.foldl_cons, List.foldl_nil]
  rw [rd_wr_ne _ _ (ne (by omega))]
  rcases (by omega : i = 0 ∨ i = 1 ∨ i = 2) with rfl | rfl | rfl
  · rw [rd_wr_ne _ _ (ne (by omega)), rd_wr_ne _ _ (ne (by omega)), rd_wr_same]
    rfl
  · rw [rd_wr_ne _ _ (ne (by omega)), rd_wr_same]
    rfl
  · rw [rd_wr_same]
    rfl

end Parts

/-! The reset whole. -/

section Whole
variable (s : State) (f : Nat) (k : ResetKind)

/-- All that the reset does before it touches the port itself. -/
def unitsReset : State :=
  readsLost (channelsReset (inputsLost (discardRing (requestsLost s f) f) (s.host.filter (fun r => r.f = f))) f) f

/-- The port after the reset. -/
def portReset : Pcie := { Pcie.zero with up := decide (k ≠ .perst) && (pcie s f).up }

theorem endpointReset_eq : endpointReset s f k =
    setEvt (countsZeroed (setPcie (unitsReset s f) f (portReset s f k)) f) (Reg.hstPcieEvt f) 5 := by
  unfold endpointReset
  extract_lets x lost s1 s2 s3 s4 bridge s5 s6 s7 fresh s8 s9
  have inputs : s3 = inputsLost s2 lost := by
    refine List.foldl_ext _ _ s2 (fun st r _ => ?_)
    cases r.use <;> rfl
  have channels : s4 = channelsReset s3 f := rfl
  have reads : s7 = readsLost s4 f := rfl
  have counts : s9 = countsZeroed s8 f := rfl
  rw [counts, show s8 = setPcie s7 f (portReset s f k) from rfl, reads, channels, inputs]
  rfl

/-- The registers of the units the reset reaches. -/
def resetRegs : List Nat :=
  [Reg.hstTcrCtrl f, Reg.hstTcrChead f] ++ channelRegs ++ [Reg.brgRrdStat f, Reg.rglHostUrg f]

theorem only_channels_of (u : State) : Only [.spm, .dma, .rgl, .brg] (channelRegs ++ [Reg.brgRrdStat f, Reg.rglHostUrg f]) u
    (readsLost (channelsReset u f) f) :=
  ((only_channelsReset u f).trans (only_readsLost _ f)).mono (by simp) (by simp)

theorem only_ring_of (u : State) (l : List HostReq) : Only [.spm, .tcr] [Reg.hstTcrCtrl f, Reg.hstTcrChead f] u
    (inputsLost (discardRing u f) l) := ((only_discardRing u f).trans (only_inputsLost _ l)).mono (by simp) (by simp)

theorem only_afterRequests : Only [.tcr, .dma, .rgl, .brg, .spm] (resetRegs f) (requestsLost s f) (unitsReset s f) :=
  ((only_ring_of f (requestsLost s f) (s.host.filter (fun r => r.f = f))).trans (only_channels_of f _)).mono (by simp)
    (by simp [resetRegs])

theorem only_unitsReset : Only [.host, .tcr, .dma, .rgl, .brg, .spm] (resetRegs f) s (unitsReset s f) :=
  ((only_setHost s _).trans (only_afterRequests s f)).mono (by simp) (by simp)

theorem host_unitsReset : (unitsReset s f).host = s.host.filter (fun r => r.f ≠ f) :=
  (only_afterRequests s f).1 .host (by simp)

theorem not_mem_channelRegs {o : Nat} (h : ∀ n, n < 8 → o ≠ Reg.hstDmaStat n ∧ o ≠ Reg.hstDmaCtrl n) : o ∉ channelRegs := by
  simp only [channelRegs, List.mem_append, List.mem_map, List.mem_range, not_or, not_exists, not_and]
  exact ⟨fun n hn e => (h n hn).1 e.symm, fun n hn e => (h n hn).2 e.symm⟩

theorem flag_ring_unitsReset (hf : f < 2) : flag (unitsReset s f) (Reg.hstTcrCtrl f) 4 = false := by
  obtain ⟨u, hu⟩ : ∃ u, u = discardRing (requestsLost s f) f := ⟨_, rfl⟩
  have off : flag u (Reg.hstTcrCtrl f) 4 = false := by rw [hu]; exact flag_discardRing _ f hf
  have rest := (only_inputsLost u (s.host.filter (fun r => r.f = f))).trans (only_channels_of f _)
  rw [unitsReset, ← hu, flag_congr (rest.rd_above (by simp [aboveCounts, Reg.hstTcrCtrl, Reg.hstPcieCnt]; omega) ?_) 4, off]
  simp only [List.mem_append, not_or, List.not_mem_nil, not_false_eq_true, true_and]
  refine ⟨not_mem_channelRegs fun n _ => ?_, ?_⟩ <;>
    simp only [Reg.hstTcrCtrl, Reg.hstDmaStat, Reg.hstDmaCtrl, Reg.brgRrdStat, Reg.rglHostUrg, List.mem_cons, List.not_mem_nil,
      or_false, not_or] <;> omega

/-- The channels' owners are those at the command's beginning. -/
theorem flag_channel_unitsReset (hf : f < 2) {n : Nat} (hn : n < 8) (h : dmaOwner s n = f) :
    flag (unitsReset s f) (Reg.hstDmaCtrl n) 4 = false := by
  obtain ⟨u, hu⟩ : ∃ u, u = inputsLost (discardRing (requestsLost s f) f) (s.host.filter (fun r => r.f = f)) := ⟨_, rfl⟩
  have reach : Only [.host, .spm, .tcr] [Reg.hstTcrCtrl f, Reg.hstTcrChead f] s u := by
    rw [hu]
    exact ((only_setHost s _).trans (only_ring_of f _ _)).mono (by simp) (by simp)
  have own : dmaOwner u n = f := by
    rw [← h]
    exact fget_congr (reach.rd_above (by simp [aboveCounts, Reg.hstDmaCfg, Reg.hstPcieCnt]; omega)
      (by simp [Reg.hstDmaCfg, Reg.hstTcrCtrl, Reg.hstTcrChead]; omega)) 1 0
  rw [unitsReset, ← hu, flag_congr ((only_readsLost (channelsReset u f) f).rd_above
    (by simp [aboveCounts, Reg.hstDmaCtrl, Reg.hstPcieCnt]; omega)
    (by simp [Reg.hstDmaCtrl, Reg.brgRrdStat, Reg.rglHostUrg]; omega)) 4]
  exact flag_channelsReset f _ u (.inl ⟨List.mem_range.2 hn, own⟩)

theorem only_afterPort (u : State) : Only [] (Reg.hstPcieEvt f :: countRegs f) u (setEvt (countsZeroed u f) (Reg.hstPcieEvt f) 5) :=
  ((only_countsZeroed u f).trans (only_setEvt _ (Reg.hstPcieEvt f) 5)).mono (by simp) (by simp [countRegs])

/-- Beside the port, the reset reaches no more than its units and its counters. -/
theorem not_mem_afterPort {o : Nat} (h : o < Reg.hstPcieEvt 0 ∨ Reg.hstPcieCnt 1 3 < o) (hf : f < 2) :
    o ∉ Reg.hstPcieEvt f :: countRegs f := by
  simp only [countRegs, Reg.hstPcieEvt, Reg.hstPcieCnt, List.mem_cons, List.not_mem_nil, or_false, not_or] at *
  omega

end Whole

section Clauses
variable {s : State} {f : Fin 2}

theorem endpoint_reset (ha : awake s = true) (kind : ResetKind) : Ends (.endpointReset f kind) s fun t =>
    (pcie t f.val).up = (decide (kind ≠ .perst) && (pcie s f).up) ∧ (pcie t f.val).command = 0 ∧ (pcie t f.val).bar0 = 0 ∧
    (pcie t f.val).msixCtl = 0 ∧ (pcie t f.val).held = [] ∧ t.host = s.host.filter (fun r => r.f ≠ f.val) ∧
    flag t (Reg.hstTcrCtrl f) 4 = false ∧ (∀ n, n < 8 → dmaOwner s n = f.val → flag t (Reg.hstDmaCtrl n) 4 = false) ∧
    rd t (Reg.brgRrdStat f) = 0 ∧ rd t (Reg.rglHostUrg f) = 0 ∧
    (∀ i, i < 3 → rd t (Reg.hstPcieCnt f i) = 0) ∧ flag t (Reg.hstPcieEvt f) 5 = true ∧
    (∀ j, j < 2 → j ≠ f.val → (pcie t j).up = (pcie s j).up ∧ (pcie t j).command = (pcie s j).command ∧
      (pcie t j).bar0 = (pcie s j).bar0 ∧ (pcie t j).table = (pcie s j).table) ∧
    keepsUnits [.host, .tcr, .dma, .rgl, .brg, .spm] s t := by
  refine ends_of (core_endpointReset f kind ha) ?_
  rw [endpointReset_eq]
  obtain ⟨u, hu⟩ : ∃ u, u = setPcie (unitsReset s f) f (portReset s f kind) := ⟨_, rfl⟩
  obtain ⟨w, hw⟩ : ∃ w, w = setEvt (countsZeroed u f) (Reg.hstPcieEvt f) 5 := ⟨_, rfl⟩
  rw [← hu, ← hw]
  have hf := f.isLt
  have units := only_unitsReset s f
  have after_ : Only [] (Reg.hstPcieEvt f.val :: countRegs f) u (finish s w) := by
    rw [hw]
    exact ((only_afterPort f u).trans (only_finish s _)).mono (by simp) (by simp)
  have port : pcie u f = portReset s f kind := by rw [hu, pcie_setPcie_same]
  have kept {o : Nat} (hm : o ∉ msgRegs) (h : o < Reg.hstPcieEvt 0 ∨ Reg.hstPcieCnt 1 3 < o) :
      rd (finish s w) o = rd (unitsReset s f) o := by
    rw [after_.2.1 o hm (not_mem_afterPort f h hf), hu]
    exact rd_congr (by simp) o
  obtain ⟨up, command, -, -, bar, ctl, -⟩ := after_.2.2 f
  rw [port] at up command bar ctl
  refine ⟨up, command, bar, ctl, ?_, ?_, ?_, fun n hn h => ?_, ?_, ?_, fun i hi => ?_, ?_, fun j _ hj => ?_, ?_⟩
  · have same : pcie w f = pcie u f := by
      rw [hw]
      exact pcie_congr ((congrArg State.pcie rfl).trans (by simp [countsZeroed, List.range, List.range.loop])) f
    rw [(msgs_finish w s).held f (.inr (by rw [same, port]; exact (by decide : bitOf 0 15 = false))), same, port]
    rfl
  · rw [show (finish s w).host = u.host from after_.1 .host (by simp), hu, setPcie_host, host_unitsReset]
  · rw [flag_congr (kept (by simp [msgRegs, Reg.hstTcrCtrl, Reg.hstPcieCnt]; omega) (by simp [Reg.hstTcrCtrl, Reg.hstPcieCnt]; omega))]
    exact flag_ring_unitsReset s f hf
  · rw [flag_congr (kept (by simp [msgRegs, Reg.hstDmaCtrl, Reg.hstPcieCnt]; omega) (by simp [Reg.hstDmaCtrl, Reg.hstPcieCnt]; omega))]
    exact flag_channel_unitsReset s f hf hn h
  · rw [kept (by simp [msgRegs, Reg.brgRrdStat, Reg.hstPcieCnt]; omega) (by simp [Reg.brgRrdStat, Reg.hstPcieEvt]; omega)]
    exact (rd_readsLost _ f).1
  · rw [kept (by simp [msgRegs, Reg.rglHostUrg, Reg.hstPcieCnt]; omega) (by simp [Reg.rglHostUrg, Reg.hstPcieEvt]; omega)]
    exact (rd_readsLost _ f).2
  · rw [rd_finish s w (by simp [msgRegs, Reg.hstPcieCnt]; omega), hw,
      rd_setEvt_ne _ _ (by simp [Reg.hstPcieEvt, Reg.hstPcieCnt]; omega), rd_countsZeroed u f hi]
  · rw [flag_congr (rd_finish s w (by simp [msgRegs, Reg.hstPcieCnt, Reg.hstPcieEvt]; omega)), hw, flag_setEvt_same _ _ _ (by decide)]
  · obtain ⟨a, b, -, -, c, -, d⟩ := after_.2.2 j
    have other : pcie u j = pcie (unitsReset s f) j := by rw [hu, pcie_setPcie_ne _ _ hj]
    obtain ⟨a', b', -, -, c', -, d'⟩ := units.2.2 j
    rw [a, b, c, d, other]
    exact ⟨a', b', c', d'⟩
  · have reset : KeepsBeside [.host, .tcr, .dma, .rgl, .brg, .spm] (resetRegs f) s u := by
      rw [hu]
      exact units.beside.trans (beside_setPcie _ f _)
    exact fun x hx => x.same_trans (reset.1 x hx) (after_.1 x (by simp))

end Clauses

end Sys2Proof.Machine
end

section
namespace Sys2Proof.Machine

/-! ### The ends of the device's own requests (R458) -/

section Ends
variable {s : State} {f : Fin 2} {id cid : Nat} {r : HostReq}

/-- The request has ended. -/
def requestEnded (s : State) (id : Nat) : State := { s with host := s.host.filter (fun x => x.id ≠ id) }

/-- The commands with the input of one of them given. -/
def inputGiven (s : State) (cid : Nat) (i : Option (List Byte)) : TcrSt :=
  { s.tcr with cmds := s.tcr.cmds.map (fun c => if c.id = cid then { c with
    input := some i
    ue := false } else c) }

/-- A command's input arrives, or is lost, once its request has ended and been counted. -/
theorem input_ends {u : State} {rs : List Nat} (h : Only [] rs (requestEnded s id) u) (i : Option (List Byte)) :
    (finish s (setInput u cid i false)).host = s.host.filter (fun y => y.id ≠ id) ∧
    (finish s (setInput u cid i false)).tcr = inputGiven s cid i ∧
    Only [.host, .tcr] rs s (finish s (setInput u cid i false)) := by
  have host : u.host = s.host.filter (fun y => y.id ≠ id) := h.1 .host (by simp)
  have tcr : u.tcr = s.tcr := h.1 .tcr (by simp)
  refine ⟨by rw [finish_host]; exact host, ?_, ?_⟩
  · rw [finish_tcr, setInput, tcr]
    rfl
  · exact (((only_setHost s _).trans h).trans (only_setInput u cid i false)).finished.mono (by simp) (by simp)

/-- What a failed request latches, and counts when the endpoint itself failed it. -/
def failNoted (s : State) (f : Nat) (counts : Bool) : State :=
  setEvt (if counts then bump s (Reg.hstPcieCnt f 2) 1 else s) (Reg.hstPcieEvt f) 4

theorem only_failNoted (s : State) (f : Nat) :
    Only [] [Reg.hstPcieEvt f] s (failNoted s f false) ∧ Only [] [Reg.hstPcieEvt f, Reg.hstPcieCnt f 2] s (failNoted s f true) :=
  ⟨only_setEvt s _ 4, ((only_bump s (Reg.hstPcieCnt f 2) 1).trans (only_setEvt _ (Reg.hstPcieEvt f) 4)).mono (by simp) (by simp)⟩

/-- The latch shows at the end of the command whose input is lost. -/
theorem flag_failed (u : State) (counts : Bool) (i : Option (List Byte)) :
    flag (finish s (setInput (failNoted u f counts) cid i false)) (Reg.hstPcieEvt f) 4 = true := by
  have ends_ (w : State) : flag (finish s (setInput w cid i false)) (Reg.hstPcieEvt f) 4 = flag w (Reg.hstPcieEvt f) 4 :=
    (flag_congr (rd_finish s _ (by fin_cases f <;> decide)) 4).trans
      (flag_congr ((only_setInput w cid i false).2.1 _ (by fin_cases f <;> decide) (by simp)) 4)
  rw [ends_, failNoted, flag_setEvt_same _ _ _ (by decide)]

variable (hr : s.host.find? (fun r => r.id = id) = some r) (hf : r.f = f.val) (hu : r.use = .cmdInput cid)
  (hh : hostHeld s r = false)

theorem hostFails_input (u : State) (hu : r.use = .cmdInput cid) : hostFails u r = setInput u cid none false := by
  rw [hostFails, hu]

include hr hu hh

theorem completion_ok (data : List Byte) : hostCompletion s id .ok data =
    setInput (requestEnded s id) cid (some (slice data 0 r.len)) false := by
  rw [hostCompletion, hr]
  dsimp only
  rw [hh, if_neg (by simp), hostGives, hu]
  rfl

include hf in
theorem completion_ca (data : List Byte) : hostCompletion s id .ca data =
    setInput (failNoted (requestEnded s id) f false) cid none false := by
  rw [hostCompletion, hr]
  dsimp only
  rw [hh, if_neg (by simp), hostFails_input _ hu, hf]
  rfl

include hf in
theorem timeout_due (he : bitOf (pcie s f).devCtl2 4 = false)
    (ht : r.since + timeoutCycles (bitsOf (pcie s f).devCtl2 3 0) ≤ s.cycle) :
    completionTimeout s id = setInput (failNoted (requestEnded s id) f true) cid none false := by
  rw [completionTimeout, hr]
  dsimp only
  rw [hf, hh, he, if_neg (by simp; omega), hostFails_input _ hu]
  rfl

omit hu hh in
include hf in
theorem timeout_early (ht : s.cycle < r.since + timeoutCycles (bitsOf (pcie s f).devCtl2 3 0)) : completionTimeout s id = s := by
  rw [completionTimeout, hr]
  dsimp only
  rw [hf, if_pos (by simp [ht])]

end Ends

section Clauses
variable {s : State} {f : Fin 2} {id : Nat}

/-- A completion or a timeout of no outstanding request does nothing (R458). -/
theorem request_unknown (ha : awake s = true) (hn : s.host.find? (fun r => r.id = id) = none) (st : CplStatus) (data : List Byte) :
    (Ends (.hostCompletion id st data) s fun t => Only [] [] s t) ∧
    (Ends (.completionTimeout id) s fun t => Only [] [] s t) := by
  refine ⟨ends_of (core_hostCompletion id st data ha) ?_, ends_of (core_completionTimeout id ha) ?_⟩
  · rw [hostCompletion, hn]
    exact only_finish s s
  · rw [completionTimeout, hn]
    exact only_finish s s

/-- The ends of a command's read of its input (R331, R458). -/
theorem request_ends (ha : awake s = true) {cid : Nat} {r : HostReq} (data : List Byte)
    (hr : s.host.find? (fun r => r.id = id) = some r) (hf : r.f = f.val) (hu : r.use = .cmdInput cid)
    (hh : hostHeld s r = false) :
    (Ends (.hostCompletion id .ok data) s fun t =>
      t.host = s.host.filter (fun y => y.id ≠ id) ∧ t.tcr = inputGiven s cid (some (slice data 0 r.len)) ∧
      Only [.host, .tcr] [] s t) ∧
    (Ends (.hostCompletion id .ca data) s fun t =>
      t.host = s.host.filter (fun y => y.id ≠ id) ∧ flag t (Reg.hstPcieEvt f) 4 = true ∧ t.tcr = inputGiven s cid none ∧
      Only [.host, .tcr] [Reg.hstPcieEvt f] s t) ∧
    (Ends (.completionTimeout id) s fun t =>
      (bitOf (pcie s f).devCtl2 4 = false → r.since + timeoutCycles (bitsOf (pcie s f).devCtl2 3 0) ≤ s.cycle →
        t.host = s.host.filter (fun y => y.id ≠ id) ∧ flag t (Reg.hstPcieEvt f) 4 = true ∧
        rd t (Reg.hstPcieCnt f 2) = (rd s (Reg.hstPcieCnt f 2) + 1) % 2 ^ 48 ∧ t.tcr = inputGiven s cid none ∧
        Only [.host, .tcr] [Reg.hstPcieEvt f, Reg.hstPcieCnt f 2] s t) ∧
      (s.cycle < r.since + timeoutCycles (bitsOf (pcie s f).devCtl2 3 0) → Only [] [] s t)) := by
  obtain ⟨latched, counted⟩ := only_failNoted (requestEnded s id) f
  refine ⟨ends_of (core_hostCompletion id .ok data ha) ?_, ends_of (core_hostCompletion id .ca data ha) ?_,
    ends_of (core_completionTimeout id ha) ⟨fun he ht => ?_, fun ht => ?_⟩⟩
  · rw [completion_ok hr hu hh]
    exact input_ends (Only.refl _ _ _) _
  · rw [completion_ca hr hf hu hh]
    obtain ⟨host, tcr, only⟩ := input_ends (cid := cid) latched none
    exact ⟨host, flag_failed _ false none, tcr, only⟩
  · rw [timeout_due hr hf hu hh he ht]
    obtain ⟨host, tcr, only⟩ := input_ends (cid := cid) counted none
    refine ⟨host, flag_failed _ true none, ?_, tcr, only⟩
    rw [rd_finish s _ (by fin_cases f <;> decide), show rd (setInput (failNoted (requestEnded s id) f true) cid none false)
      (Reg.hstPcieCnt f 2) = rd (failNoted (requestEnded s id) f true) (Reg.hstPcieCnt f 2) from rfl, failNoted,
      rd_setEvt_ne _ _ (by fin_cases f <;> decide), if_pos rfl, rd_bump_same]
    rfl
  · rw [timeout_early hr hf ht]
    exact only_finish s s

end Clauses

/-- The identity register reads the device's identity behind the vendor's (R454, R549). -/
theorem cfgRead_vendorDevice (s : State) (f : Nat) :
    cfgRead s f .vendorDevice = 0x8032 * 2 ^ 16 + s.lcs.pcieId % 2 ^ 16 := by
  rw [cfgRead, bitsOf_eq, pow_zero, Nat.div_one]

/-- Settles O49. Configuration requests, errors and MSI-X go by the port's own record; a reset is a chain of frames around
that record (`endpointReset_eq`), and what follows at a command's end is messages only (`Msgs`). -/
theorem endpointRequestsInterruptsAndResets : Obligations.EndpointRequestsInterruptsAndResets := by
  unfold Obligations.EndpointRequestsInterruptsAndResets
  rintro s f x ha rfl
  refine ⟨fun write reg v hu => ⟨fun hr => config_retried ha hu hr write reg v, fun hr => ⟨config_read ha hu hr reg v, ?_,
    config_command ha hu hr v, config_bar0Lo ha hu hr v, config_flr ha hu hr v⟩⟩, fun hu => ?_,
    fun vec hu => vector_unmasked ha vec hu, fun m v k hw hv hact hon hpos => vector_rearmed m v k hw hv hact hon hpos,
    fun kind => endpoint_reset ha kind, perst_released ha, fun id st data hn => request_unknown ha hn st data,
    fun id cid r data hr hf hu hh => request_ends ha data hr hf hu hh⟩
  · obtain ⟨t, e, out, -⟩ := config_read (reg := .vendorDevice) ha hu hr v
    exact ⟨t, e, by rwa [cfgRead_vendorDevice] at out⟩
  · refine ⟨request_unsupported ha hu, request_latches (kind := 2) ha (by decide) ?_,
      request_latches (kind := 3) ha (by decide) ?_, link_error ha hu⟩
    · simp [unsupportedRequest, ha, hu]
    · simp [unsupportedRequest, ha, hu]

end Sys2Proof.Machine
end

section
namespace Sys2Proof.Machine

/-! ### A page moved to its spare (R430) -/

section Moved
variable {src rest : List Host.Cell} {lo to_ : Nat}

/-- Bytes moved elsewhere leave a byte that none of them lands on. -/
theorem memByte_moved_out (g : Nat → Nat) {c : Nat} (h : ∀ e ∈ src, g e.1 ≠ c) :
    memByte (src.foldl (fun m e => memPut m (g e.1) e.2) rest) c = memByte rest c := by
  induction src generalizing rest with
  | nil => rfl
  | cons e src ih =>
    rw [List.foldl_cons, ih (fun x hx => h x (by simp [hx])), memByte_memPut_ne _ _ (fun x => h e (by simp) x.symm)]

/-- A run of cells moved by a distance onto bytes that were zero reads there as it read before. -/
theorem memByte_moved_in (hp : src.Pairwise (fun e f => e.1 < f.1)) (hlo : ∀ e ∈ src, lo ≤ e.1) (o : Nat)
    (hz : memByte rest (to_ + o) = 0) :
    memByte (src.foldl (fun m e => memPut m (e.1 - lo + to_) e.2) rest) (to_ + o) = memByte src (lo + o) := by
  induction src generalizing rest with
  | nil => exact hz
  | cons e src ih =>
    obtain ⟨first, later⟩ := List.pairwise_cons.1 hp
    have le := hlo e (by simp)
    rw [List.foldl_cons]
    by_cases at_ : e.1 = lo + o
    · rw [memByte_moved_out (fun k => k - lo + to_) (fun x hx => by have := first x hx; have := hlo x (by simp [hx]); omega),
        show e.1 - lo + to_ = to_ + o by omega, memByte_memPut_same, memByte, KMap.get, if_pos at_]
    · rw [ih later (fun x hx => hlo x (by simp [hx])) (by rw [memByte_memPut_ne _ _ (by omega), hz]), memByte, memByte, KMap.get,
        if_neg at_]

end Moved

section Copy
variable (s : State) (p sp : Nat)

/-- The page's bytes stand in the spare, whose own bytes are gone. -/
def pageMoved : State :=
  let src := s.drc.mem.filter (fun e => decide (p * 4096 ≤ e.1) && decide (e.1 < p * 4096 + 4096))
  let rest := s.drc.mem.filter (fun e => decide (e.1 < sp * 4096) || decide (sp * 4096 + 4096 ≤ e.1))
  { s with drc := { s.drc with mem := src.foldl (fun m e => memPut m (e.1 - p * 4096 + sp * 4096) e.2) rest } }

/-- One word's error pattern follows it: corrected, or poisoned (R413). -/
def wordFollows (w : Nat) : State :=
  match flipAt s 1 (p * 512 + w) with
  | none => setFlip s 1 (sp * 512 + w) none
  | some f =>
    let e := ecc72 f.mask
    let old := memBytes s.drc.mem ((sp * 512 + w) * 8) 8
    let st1 := { s with drc := { s.drc with mem := memPuts s.drc.mem ((sp * 512 + w) * 8) (leBytes 8 (ofLe old ^^^ e.2)) } }
    setFlip st1 1 (sp * 512 + w) (if e.1 = .uncorrectable then some ⟨poison72, f.injected⟩ else none)

theorem copyPage_eq : copyPage s p sp = (List.range 512).foldl (fun st w => wordFollows st p sp w) (pageMoved s p sp) := rfl

theorem only_pageMoved : Only [.intg, .drc] [] s (pageMoved s p sp) := (only_setDrc s _).mono (by simp) (by simp)

theorem only_wordFollows (w : Nat) : Only [.intg, .drc] [] s (wordFollows s p sp w) := by
  unfold wordFollows
  split
  · exact (only_setFlip s _ _ _).mono (by simp) (by simp)
  · exact ((only_setDrc s _).trans (only_setFlip _ _ _ _)).mono (by simp) (by simp)

theorem only_copyPage : Only [.intg, .drc] [] s (copyPage s p sp) := by
  rw [copyPage_eq]
  exact (only_pageMoved s p sp).more (only_foldl _ (fun t w => only_wordFollows t p sp w) _ _) (by simp) (by simp)

/-- What a copy leaves of a state: the bytes outside the spare, and the map of retired pages. -/
structure OutsideKept (sp : Nat) (s t : State) : Prop where
  byte : ∀ a, a / 4096 ≠ sp → memByte t.drc.mem a = memByte s.drc.mem a
  retire : t.intg.retire = s.intg.retire

variable {s p sp} in
theorem OutsideKept.trans {t u : State} (h : OutsideKept sp s t) (k : OutsideKept sp t u) : OutsideKept sp s u :=
  ⟨fun a ha => (k.byte a ha).trans (h.byte a ha), k.retire.trans h.retire⟩

theorem outsideKept_pageMoved : OutsideKept sp s (pageMoved s p sp) := by
  refine ⟨fun a ha => ?_, rfl⟩
  rw [pageMoved, memByte_moved_out (fun k => k - p * 4096 + sp * 4096)]
  · have kept := get_filter_key (fun _ => (0 : Byte)) (fun k => decide (k < sp * 4096) || decide (sp * 4096 + 4096 ≤ k)) s.drc.mem a
    rw [memByte, kept, if_pos]
    · rfl
    · simp
      omega
  · intro e he
    simp only [List.mem_filter, Bool.and_eq_true, decide_eq_true_eq] at he
    omega

theorem outsideKept_wordFollows {w : Nat} (hw : w < 512) : OutsideKept sp s (wordFollows s p sp w) := by
  unfold wordFollows
  split
  · exact ⟨fun a _ => rfl, rfl⟩
  · refine ⟨fun a ha => ?_, by dsimp only [setFlip]⟩
    refine memByte_memPuts_out s.drc.mem ((sp * 512 + w) * 8) (leBytes 8 _) ?_
    rw [length_leBytes]
    omega

theorem outsideKept_copyPage : OutsideKept sp s (copyPage s p sp) := by
  have words (l : List Nat) (hl : ∀ w ∈ l, w < 512) (t : State) :
      OutsideKept sp t (l.foldl (fun st w => wordFollows st p sp w) t) := by
    induction l generalizing t with
    | nil => exact ⟨fun _ _ => rfl, rfl⟩
    | cons w l ih =>
      exact (outsideKept_wordFollows t p sp (hl w (by simp))).trans (ih (fun x hx => hl x (by simp [hx])) _)
  rw [copyPage_eq]
  exact (outsideKept_pageMoved s p sp).trans (words _ (fun w hw => List.mem_range.1 hw) _)

/-- Words that are good stay good, and no byte moves for them. -/
theorem words_good (l : List Nat) (hl : ∀ w ∈ l, w < 512) (t : State) (hg : ∀ w, w < 512 → flipAt t 1 (p * 512 + w) = none) :
    (l.foldl (fun st w => wordFollows st p sp w) t).drc = t.drc := by
  induction l generalizing t with
  | nil => rfl
  | cons w l ih =>
    have step : wordFollows t p sp w = setFlip t 1 (sp * 512 + w) none := by rw [wordFollows, hg w (hl w (by simp))]
    rw [List.foldl_cons, step, ih (fun x hx => hl x (by simp [hx])) _ (fun x hx => ?_)]
    · rfl
    · rw [flipAt, setFlip, KMap.find, KMap.get_set]
      split
      · rfl
      · exact hg x hx

/-- A page without errors reads in its spare as it read before. -/
theorem memByte_copyPage (hwf : Memory.wf s.drc.mem) (hg : ∀ w, w < 512 → flipAt s 1 (p * 512 + w) = none) {o : Nat}
    (ho : o < 4096) : memByte (copyPage s p sp).drc.mem (sp * 4096 + o) = memByte s.drc.mem (p * 4096 + o) := by
  have same : (copyPage s p sp).drc = (pageMoved s p sp).drc := by
    rw [copyPage_eq]
    exact words_good p sp _ (fun w hw => List.mem_range.1 hw) _ hg
  rw [same, pageMoved]
  dsimp only
  have page := get_filter_key (fun _ => (0 : Byte)) (fun k => decide (p * 4096 ≤ k) && decide (k < p * 4096 + 4096)) s.drc.mem
    (p * 4096 + o)
  have spare := get_filter_key (fun _ => (0 : Byte)) (fun k => decide (k < sp * 4096) || decide (sp * 4096 + 4096 ≤ k)) s.drc.mem
    (sp * 4096 + o)
  rw [memByte_moved_in]
  · rw [memByte, page, if_pos (by simp; omega)]
    rfl
  · exact (((KMap.wf_iff _ _).1 hwf).1).sublist List.filter_sublist
  · intro e he
    simp only [List.mem_filter, Bool.and_eq_true, decide_eq_true_eq] at he
    exact he.2.1
  · rw [memByte, spare, if_neg (by simp; omega)]

end Copy

/-! The write of INT_RETIRE_ENT. -/

section Retire
variable {s : State} {m : Requester} {v : BitVec 64}

theorem only_charge (s : State) (slot : Bool) (m n : Nat) :
    Only [.rgl] [Reg.rglCnt (clsOf s m) (if slot then 0 else 1)] s (charge s slot m n) := by
  cases slot
  · exact (only_bump s (Reg.rglCnt (clsOf s m) 1) n).trans (only_setRgl _ _)
  · exact (only_bump s (Reg.rglCnt (clsOf s m) 0) n).trans (only_setRgl _ _)

theorem retireAt_congr {s t : State} (h : t.intg = s.intg) (i : Nat) : retireAt t i = retireAt s i := by rw [retireAt, retireAt, h]

theorem outsideTables_congr {s t : State} (hi : t.img = s.img) (hr : rd t Reg.wayMap = rd s Reg.wayMap) (g n : Nat) :
    outsideTables t g n = outsideTables s g n := by
  rw [outsideTables, outsideTables, hi, wayBase, wayBase, wayPages, wayPages, fget_congr hr, fget_congr hr]

theorem retireBad_portCount (p sp : Nat) : retireBad (portCount s m) p sp = retireBad s p sp := by
  rw [retireBad, retireBad, retirements, retirements, pageInTables, pageInTables, portCount_intg,
    outsideTables_congr (portCount_img s m) (rd_portCount s m (belowCounts_of_lt (by decide)))]

theorem retireIdx_portCount : fget (portCount s m) Reg.intRetireIdx 9 0 = fget s Reg.intRetireIdx 9 0 :=
  fget_congr (rd_portCount s m (belowCounts_of_lt (by decide))) 9 0

/-- A write that retires a page: it moves, and its copy is charged. -/
theorem retireWrite_taken {u : State} {c v : Nat} (hv : bitOf v 63 = true)
    (hfree : retireAt u (fget u Reg.intRetireIdx 9 0) = none) (hok : retireBad u (bitsOf v 19 0) (bitsOf v 51 32) = false) :
    retireWrite u c v = charge (setRetire (copyPage u (bitsOf v 19 0) (bitsOf v 51 32)) (fget u Reg.intRetireIdx 9 0)
      (some ⟨bitsOf v 19 0, bitsOf v 51 32, some (u.cycle + 16000), true⟩)) false 44 128 := by
  simp [retireWrite, hv, hfree, hok]

theorem only_setRetire (s : State) (i : Nat) (r : Option Retire) : Only [.intg] [] s (setRetire s i r) := only_setIntg (s := s) _

theorem retireAt_setRetire (s : State) (i : Nat) (r : Option Retire) : retireAt (setRetire s i r) i = r :=
  KMap.get_set_same _ _ _ _

/-- A page is retired: its content stands in the spare, and accesses wait for the copy (R430). -/
theorem page_retired (hw : mayWrite s m Reg.intRetireEnt 8 = true) (hv : bitOf v.toNat 63 = true)
    (hfree : retireAt s (fget s Reg.intRetireIdx 9 0) = none)
    (hok : retireBad s (bitsOf v.toNat 19 0) (bitsOf v.toNat 51 32) = false) :
    Ends (.retireEntWrite m v) s fun t =>
      retireAt t (fget s Reg.intRetireIdx 9 0) =
        some ⟨bitsOf v.toNat 19 0, bitsOf v.toNat 51 32, some (s.cycle + 16000), true⟩ ∧ t.intg.recordDirty = true ∧
      (Memory.wf s.drc.mem → (∀ w, w < 512 → flipAt s 1 (bitsOf v.toNat 19 0 * 512 + w) = none) → ∀ o, o < 4096 →
        memByte t.drc.mem (bitsOf v.toNat 51 32 * 4096 + o) = memByte s.drc.mem (bitsOf v.toNat 19 0 * 4096 + o)) ∧
      (∀ a, a / 4096 ≠ bitsOf v.toNat 51 32 → memByte t.drc.mem a = memByte s.drc.mem a) ∧
      keepsUnits [.intg, .drc, .rgl] s t := by
  refine ends_of (exec_retireEntWrite v hw) ?_
  obtain ⟨u, hu⟩ : ∃ u, u = portCount s m := ⟨_, rfl⟩
  have counted : Only [] (portRegs m) s u := by rw [hu]; exact only_portCount s m
  have intg : u.intg = s.intg := counted.1 .intg (by simp)
  have drc : u.drc = s.drc := counted.1 .drc (by simp)
  have idx : fget u Reg.intRetireIdx 9 0 = fget s Reg.intRetireIdx 9 0 := by rw [hu]; exact retireIdx_portCount
  have bad : retireBad u (bitsOf v.toNat 19 0) (bitsOf v.toNat 51 32) = false := by rw [hu, retireBad_portCount, hok]
  have cycle : u.cycle = s.cycle := by rw [hu]; exact portCount_cycle s m
  rw [← hu]
  rw [retireWrite_taken hv (by rw [idx, retireAt_congr intg, hfree]) bad, idx, cycle]
  generalize bitsOf v.toNat 19 0 = p
  generalize bitsOf v.toNat 51 32 = sp
  obtain ⟨w, hset⟩ : ∃ w, w = setRetire (copyPage u p sp) (fget s Reg.intRetireIdx 9 0) (some ⟨p, sp, some (s.cycle + 16000), true⟩) :=
    ⟨_, rfl⟩
  rw [← hset]
  have copied := only_copyPage u p sp
  have kept := outsideKept_copyPage u p sp
  have set_ : Only [.intg] [] (copyPage u p sp) w := by rw [hset]; exact only_setRetire _ _ _
  have charged := (only_charge w false 44 128).trans (only_finish s _)
  have mem : (finish s (charge w false 44 128)).drc = (copyPage u p sp).drc :=
    (charged.1 .drc (by simp)).trans (set_.1 .drc (by simp))
  have end_ : (finish s (charge w false 44 128)).intg = w.intg := charged.1 .intg (by simp)
  refine ⟨?_, ?_, fun hwf hg o ho => ?_, fun a ha => ?_, ?_⟩
  · exact (retireAt_congr end_ _).trans ((congrArg (fun x => retireAt x _) hset).trans (retireAt_setRetire _ _ _))
  · rw [end_, hset]
    dsimp only [setRetire]
  · rw [mem, memByte_copyPage u p sp (by rwa [drc]) (fun w hw => by rw [flipAt, intg]; exact hg w hw) ho, drc]
  · rw [mem, kept.byte a ha, drc]
  · have whole := ((counted.trans copied).trans set_).trans charged
    exact fun x hx => whole.1 x (fun h => hx (by simp at h ⊢; tauto))

/-- A refused write ends with its record only. -/
theorem rsvd_ends (s : State) (m : Requester) (c o : Nat) : flag (finish s (rsvd (portCount s m) c o)) Reg.topErr 0 = true ∧
    Only [] (errRegs ++ portRegs m) s (finish s (rsvd (portCount s m) c o)) :=
  ⟨by rw [flag_congr (rd_finish_below s (belowCounts_of_lt (by decide))), flag_rsvd], (only_rsvd _ c o).counted⟩

/-- A page already retired, or a spare that cannot be one, is refused (R430). -/
theorem page_refused (hw : mayWrite s m Reg.intRetireEnt 8 = true) (hv : bitOf v.toNat 63 = true)
    (hbad : (retireAt s (fget s Reg.intRetireIdx 9 0)).isSome = true ∨
      retireBad s (bitsOf v.toNat 19 0) (bitsOf v.toNat 51 32) = true) :
    Ends (.retireEntWrite m v) s fun t => flag t Reg.topErr 0 = true ∧ Only [] (errRegs ++ portRegs m) s t := by
  refine ends_of (exec_retireEntWrite v hw) ?_
  have refused : ((retireAt (portCount s m) (fget (portCount s m) Reg.intRetireIdx 9 0)).isSome ||
      retireBad (portCount s m) (bitsOf v.toNat 19 0) (bitsOf v.toNat 51 32)) = true := by
    rw [retireIdx_portCount, retireAt_congr (portCount_intg s m), retireBad_portCount, Bool.or_eq_true]
    exact hbad
  rw [show retireWrite (portCount s m) m.code v.toNat = rsvd (portCount s m) m.code Reg.intRetireEnt by
    simp only [retireWrite, hv, refused, Bool.not_true, if_pos]; rfl]
  exact rsvd_ends s m m.code Reg.intRetireEnt

end Retire

end Sys2Proof.Machine
end

section
namespace Sys2Proof.Machine

/-! ### The end of a copy, block retirement, the record, and the armed flip (R430–R435) -/

section Copies
variable {s : State}

/-- An entry of the map whose copy is still going on. -/
def copying (e : Nat × Option Retire) : Bool :=
  match e.2 with
  | some r => r.busyTo.isSome
  | none => false

/-- The entry's copy has ended. -/
def copyEnded (s : State) (i : Nat) (r : Retire) : State :=
  { s with intg := { s.intg with retire := KMap.put s.intg.retire i (some { r with busyTo := none }) } }

theorem retireAt_copyEnded (i : Nat) (r : Retire) : retireAt (copyEnded s i r) i = some { r with busyTo := none } := by
  show KMap.find (KMap.put s.intg.retire i (some { r with busyTo := none })) i = _
  rw [KMap.find, KMap.get_set_same]

theorem retireAt_copyEnded_ne {i j : Nat} (r : Retire) (h : j ≠ i) : retireAt (copyEnded s i r) j = retireAt s j := by
  show KMap.find (KMap.put s.intg.retire i (some { r with busyTo := none })) j = _
  rw [KMap.find, KMap.get_set_ne _ _ _ h]
  rfl

theorem retireDone_of {e : Nat × Option Retire} {r : Retire} (h : s.intg.retire.find? copying = some e) (hr : e.2 = some r) :
    retireDone s = setEvt (copyEnded s e.1 r) Reg.intEvt 9 := by
  unfold retireDone
  split
  case h_1 found => exact absurd (found.symm.trans h) (by simp)
  case h_2 d found =>
    obtain rfl : d = e := Option.some.inj (found.symm.trans h)
    rw [hr]
    rfl

theorem copy_ends (ha : awake s = true) {e : Nat × Option Retire} {r : Retire} (h : s.intg.retire.find? copying = some e)
    (hr : e.2 = some r) : Ends .retireDone s fun t =>
      retireAt t e.1 = some { r with busyTo := none } ∧ (∀ i, i ≠ e.1 → retireAt t i = retireAt s i) ∧
      flag t Reg.intEvt 9 = true ∧ Only [.intg] [Reg.intEvt] s t := by
  refine ends_of (core_retireDone ha) ?_
  rw [retireDone_of h hr]
  have map (i : Nat) : retireAt (finish s (setEvt (copyEnded s e.1 r) Reg.intEvt 9)) i = retireAt (copyEnded s e.1 r) i :=
    retireAt_congr (by rw [finish_intg, setEvt_intg]) i
  refine ⟨(map e.1).trans (retireAt_copyEnded e.1 r), fun i hi => (map i).trans (retireAt_copyEnded_ne r hi), ?_, ?_⟩
  · rw [flag_congr (rd_finish_below s (belowCounts_of_lt (by decide))), flag_setEvt_same _ _ _ (by decide)]
  · exact ((only_setIntg (s := s) _).trans (only_setEvt _ _ _)).finished

end Copies

section Blocks
variable {s : State} {m : Requester} {v : BitVec 32}

theorem blockEmpty_congr {s t : State} (hi : t.img = s.img) (ht : t.tca = s.tca) (hg : t.intg = s.intg)
    (hr : rd t Reg.intTcaRetire = rd s Reg.intTcaRetire) (b : Nat) : blockEmpty t b = blockEmpty s b := by
  have retired (x : Nat) : blockRetired t x = blockRetired s x := by rw [blockRetired, blockRetired, flag_congr hr, hg]
  have owner : blockOwner t b = blockOwner s b := by rw [blockOwner, blockOwner, hi]
  have tbl (k : Nat) : tblOf t k = tblOf s k := by rw [tblOf, tblOf, hi]
  have heads (d : TblDecl) : validHeads t d = validHeads s d := by simp only [validHeads, retired, ht]
  simp only [blockEmpty, owner, tbl, heads]

/-- The blocks that a write retires anew. -/
def newBlocks (s : State) (v : Nat) : List Nat := (bitsList (v % 2 ^ 32)).filter (fun b => !flag s Reg.intTcaRetire b)

theorem mem_newBlocks {b : Nat} : b ∈ newBlocks s v.toNat ↔ b < 32 ∧ bitOf v.toNat b = true ∧ flag s Reg.intTcaRetire b = false := by
  rw [newBlocks, Nat.mod_eq_of_lt v.isLt, List.mem_filter, mem_bitsList]
  simp [and_assoc]

/-- The blocks are marked, and the record is to be written. -/
def blocksMarked (s : State) (v : Nat) : State :=
  let s1 := wr s Reg.intTcaRetire (rd s Reg.intTcaRetire ||| v % 2 ^ 32)
  { s1 with intg := { s1.intg with recordDirty := true } }

theorem tcaRetireWrite_eq (c v : Nat) : tcaRetireWrite s c v =
    if (newBlocks s v).any (fun b => !blockEmpty s b) then rsvd s c Reg.intTcaRetire
    else if newBlocks s v = [] then s else blocksMarked s v := rfl

theorem rd_blocksMarked : rd (blocksMarked s v.toNat) Reg.intTcaRetire = rd s Reg.intTcaRetire ||| v.toNat := by
  have e : rd (blocksMarked s v.toNat) Reg.intTcaRetire =
      rd (wr s Reg.intTcaRetire (rd s Reg.intTcaRetire ||| v.toNat % 2 ^ 32)) Reg.intTcaRetire := rfl
  rw [e, rd_wr_same, Nat.mod_eq_of_lt v.isLt]
  exact Nat.mod_eq_of_lt (Nat.or_lt_two_pow (BitVec.isLt _) (by have := v.isLt; omega))

/-- A mask that marks nothing new adds no bit. -/
theorem or_of_no_newBlocks (h : newBlocks s v.toNat = []) : rd s Reg.intTcaRetire ||| v.toNat = rd s Reg.intTcaRetire := by
  refine Nat.eq_of_testBit_eq fun i => ?_
  rw [Nat.testBit_or]
  by_cases hv : v.toNat.testBit i = true
  · have hi : i < 32 := Nat.lt_of_not_le fun le => by
      rw [Nat.testBit_lt_two_pow (lt_of_lt_of_le v.isLt (Nat.pow_le_pow_right (by decide) le))] at hv
      exact absurd hv (by decide)
    have marked : (rd s Reg.intTcaRetire).testBit i = true := by
      by_contra hn
      have new : i ∈ newBlocks s v.toNat := mem_newBlocks.2 ⟨hi, by rw [bitOf_eq_testBit, hv],
        by rw [flag, bitOf_eq_testBit]; simpa using hn⟩
      rw [h] at new
      exact absurd new (by simp)
    rw [marked, Bool.true_or]
  · rw [Bool.eq_false_iff.2 hv, Bool.or_false]

theorem newBlocks_portCount (v : Nat) : newBlocks (portCount s m) v = newBlocks s v := by
  simp only [newBlocks, flag_portCount s m (o := Reg.intTcaRetire) (belowCounts_of_lt (by decide))]

theorem blockEmpty_portCount (b : Nat) : blockEmpty (portCount s m) b = blockEmpty s b :=
  blockEmpty_congr (portCount_img s m) ((only_portCount s m).1 .tca (by simp)) (portCount_intg s m)
    (rd_portCount s m (belowCounts_of_lt (by decide))) b

/-- Empty blocks are retired (R432). -/
theorem blocks_retired (hw : mayWrite s m Reg.intTcaRetire 4 = true)
    (hok : ∀ b, b < 32 → bitOf v.toNat b = true → flag s Reg.intTcaRetire b = true ∨ blockEmpty s b = true) :
    Ends (.tcaBlockRetire m v) s fun t =>
      rd t Reg.intTcaRetire = rd s Reg.intTcaRetire ||| v.toNat ∧ Only [.intg] (Reg.intTcaRetire :: portRegs m) s t := by
  refine ends_of (exec_tcaBlockRetire v hw) ?_
  have fit : ((newBlocks (portCount s m) v.toNat).any fun b => !blockEmpty (portCount s m) b) = false := by
    rw [List.any_eq_false]
    intro b hb
    rw [newBlocks_portCount, mem_newBlocks] at hb
    obtain ⟨hb, hv, hf⟩ := hb
    rw [blockEmpty_portCount]
    simpa using (hok b hb hv).resolve_left (by simp [hf])
  have place : belowCounts Reg.intTcaRetire := belowCounts_of_lt (by decide)
  rw [tcaRetireWrite_eq, fit, if_neg (by simp), rd_finish_below s place]
  by_cases none_ : newBlocks (portCount s m) v.toNat = []
  · rw [if_pos none_, rd_portCount s m place]
    rw [newBlocks_portCount] at none_
    exact ⟨(or_of_no_newBlocks none_).symm, (only_portCount s m).finished.mono (by simp) (by simp)⟩
  · rw [if_neg none_, rd_blocksMarked, rd_portCount s m place]
    exact ⟨rfl, ((only_wr (portCount s m) Reg.intTcaRetire _).trans (only_setIntg (s := wr _ _ _) _)).counted⟩

/-- A block that is not empty is refused, and with it the write (R432). -/
theorem blocks_refused (hw : mayWrite s m Reg.intTcaRetire 4 = true)
    (hbad : ∃ b, b < 32 ∧ bitOf v.toNat b = true ∧ flag s Reg.intTcaRetire b = false ∧ blockEmpty s b = false) :
    Ends (.tcaBlockRetire m v) s fun t => flag t Reg.topErr 0 = true ∧ Only [] (errRegs ++ portRegs m) s t := by
  refine ends_of (exec_tcaBlockRetire v hw) ?_
  obtain ⟨b, hb, hv, hf, he⟩ := hbad
  have unfit : ((newBlocks (portCount s m) v.toNat).any fun b => !blockEmpty (portCount s m) b) = true := by
    refine List.any_eq_true.2 ⟨b, ?_, by rw [blockEmpty_portCount, he]; rfl⟩
    rw [newBlocks_portCount]
    exact mem_newBlocks.2 ⟨hb, hv, hf⟩
  rw [tcaRetireWrite_eq, unfit, if_pos rfl]
  exact rsvd_ends s m m.code Reg.intTcaRetire

/-- The clear of the integrity record, by its key (R434). -/
theorem record_cleared (hw : mayWrite s m Reg.intRecordClr 4 = true) : Ends (.recordClr m v) s fun t =>
    (v.toNat % 65536 = 0x5C1E → s.lcs.lcState ≤ 1 →
      t.nvc = { s.nvc with recClr := true } ∧ Only [.nvc] (portRegs m) s t) ∧
    (v.toNat % 65536 = 0x5C1E → 1 < s.lcs.lcState → flag t Reg.topErr 0 = true ∧ Only [] (errRegs ++ portRegs m) s t) ∧
    (v.toNat % 65536 ≠ 0x5C1E → Only [] (portRegs m) s t) := by
  refine ends_of (exec_recordClr v hw) ⟨fun hk hl => ?_, fun hk hl => ?_, fun hk => ?_⟩
  · rw [recordClr, if_neg (by simp [hk]), if_pos (by rw [portCount_lcs]; exact hl)]
    refine ⟨by rw [finish_nvc, portCount_nvc], (only_setNvc (portCount s m) _).counted⟩
  · rw [recordClr, if_neg (by simp [hk]), if_neg (by rw [portCount_lcs]; omega)]
    exact rsvd_ends s m m.code Reg.intRecordClr
  · rw [recordClr, if_pos hk]
    exact (only_portCount s m).finished

/-- What a write of a memory code that is not reserved leaves of INT_FLIP_CTRL. -/
theorem commitFields_intFlipCtrl {s : State} {c v : Nat} (hx : bitsOf v 21 16 ≤ 17) :
    commitFields s c Reg.intFlipCtrl v =
      wr s Reg.intFlipCtrl (putBits (flipCtrlWritten (rd s Reg.intFlipCtrl) v) 21 16 (bitsOf v 21 16)) := by
  have hr : (fldR 21 16 .rw 0 [(0, 0x11)] 1).allows (bitsOf v 21 16) = true := by
    simp [Field.allows, fldR, hx, Nat.mod_one]
  have taken (i : Nat) (lock : Bool) (keep old : Nat) :
      (fld i i .rw 0).write lock keep old v = (putBits old i i (bitsOf v i i), false, false) :=
    write_rw rfl _ _ _ (allows_fld _ _ _ _ _)
  have aimed (lock : Bool) (keep old : Nat) : (fldR 21 16 .rw 0 [(0, 0x11)] 1).write lock keep old v =
      (putBits old 21 16 (bitsOf v 21 16), false, false) := write_rw rfl _ _ _ hr
  rw [commitFields_row regRow_intFlipCtrl]
  simp [fieldsWrite, taken, aimed, flipCtrlWritten]

/-- A write of INT_FLIP_CTRL arms the flip (R435). -/
theorem flip_armed (hw : mayWrite s m Reg.intFlipCtrl 4 = true) : Ends (.flipArm m v) s fun t =>
    flag t Reg.intFlipCtrl 31 = bitOf v.toNat 31 ∧ flag t Reg.intFlipCtrl 30 = bitOf v.toNat 30 ∧
    (bitsOf v.toNat 21 16 ≤ 17 → fget t Reg.intFlipCtrl 21 16 = bitsOf v.toNat 21 16) ∧
    Only [] (Reg.intFlipCtrl :: errRegs ++ portRegs m) s t := by
  refine ends_of (exec_flipArm v hw) ?_
  have place : belowCounts Reg.intFlipCtrl := belowCounts_of_lt (by decide)
  obtain ⟨arm, any_⟩ := bitOf_flipCtrlWritten (rd (portCount s m) Reg.intFlipCtrl) v.toNat
  by_cases hx : bitsOf v.toNat 21 16 ≤ 17
  · rw [commitFields_intFlipCtrl hx]
    have apart (w : Nat) {i : Nat} (hi : 21 < i) : bitOf (putBits w 21 16 (bitsOf v.toNat 21 16)) i = bitOf w i := by
      rw [bitOf_putBits _ _ _ _ _ (by decide), if_neg (by omega)]
    refine ⟨?_, ?_, fun _ => ?_, (only_wr _ _ _).counted.mono (by simp) (by simp)⟩
    · rw [flag, rd_finish_below s place, rd_wr_same, bitOf_mod _ (by decide), apart _ (by decide), arm]
    · rw [flag, rd_finish_below s place, rd_wr_same, bitOf_mod _ (by decide), apart _ (by decide), any_]
    · rw [fget, rd_finish_below s place, rd_wr_same, bitsOf_mod _ _ (by decide), bitsOf_putBits_same _ _ _ _ (by decide)]
      exact Nat.mod_eq_of_lt (bitsOf_lt _ _ _)
  · rw [commitFields_intFlipCtrl_reserved (by omega)]
    have kept (w : State) : rd (finish s (rsvd w m.code Reg.intFlipCtrl)) Reg.intFlipCtrl = rd w Reg.intFlipCtrl := by
      rw [rd_finish_below s place, (only_rsvd w m.code Reg.intFlipCtrl).rd_eq place (by decide)]
    refine ⟨?_, ?_, fun h => absurd h hx, ((only_wr _ _ _).trans (only_rsvd _ _ _)).counted⟩
    · rw [flag, kept, rd_wr_same, bitOf_mod _ (by decide), arm]
    · rw [flag, kept, rd_wr_same, bitOf_mod _ (by decide), any_]

end Blocks

end Sys2Proof.Machine
end

section
namespace Sys2Proof.Machine

/-! ### A scrub visit of an on-die word (R423, R426, R427) -/

section Track
variable {s : State} {mem a : Nat}

theorem readOnly_trackVisit (m : Nat) (hit : Option Flip) : ReadOnly mem s (trackVisit s mem a m hit).1 := by
  have counted : ReadOnly mem s (bump s (Reg.intCnt mem 0) 1) := readOnly_bump 0 (by simp [readRegs])
  unfold trackVisit
  split
  · split
    · split
      · exact readOnly_trackFree _ _
      · exact readOnly_trackFree _ _
      · exact Only.refl _ _ s
      · exact Only.refl _ _ s
    · exact Only.refl _ _ s
  · dsimp only
    split
    · exact Only.refl _ _ s
    · exact readOnly_trackUncorrectable _ _ _ _
    · split
      · exact (readOnly_intLog_evt counted _ _ _ _ _ _).next (readOnly_trackAdd _ _ _)
      · split
        · exact counted.next (readOnly_trackSet _ _ _ _)
        · split
          · exact counted.next (readOnly_sticky _ _ _ _)
          · exact counted.next (readOnly_trackSet _ _ _ _)
        · exact counted
        · exact counted

theorem readOnly_trackScrub (m : Nat) : ReadOnly mem s (trackScrub s mem a m) := by
  unfold trackScrub
  dsimp only
  split
  · exact (readOnly_trackVisit m _).next (readOnly_setFlip _ _)
  · exact readOnly_trackVisit m _

/-- A visit of a good word touches the tracker only. -/
theorem trackScrub_good (h : flipAt s mem a = none) (m : Nat) :
    Only [.intg] [] s (trackScrub s mem a m) ∧ (trackScrub s mem a m).intg.flips = s.intg.flips := by
  have freed : Only [.intg] [] s (trackFree s mem a) ∧ (trackFree s mem a).intg.flips = s.intg.flips :=
    ⟨only_setIntg (s := s) _, rfl⟩
  have same : Only [.intg] [] s s ∧ s.intg.flips = s.intg.flips := ⟨Only.refl _ _ s, rfl⟩
  rw [trackScrub, h, trackVisit]
  split
  · split
    · exact freed
    · exact freed
    · exact same
    · exact same
  · exact same

/-- A word corrected and not tracked: its entry is new, and the word is good again. -/
theorem trackScrub_corrected {f : Flip} (h : flipAt s mem a = some f) (hc : (scrubClass mem f.mask).1 = .corrected)
    (ht : trackOf s mem a = none) (m : Nat) : trackScrub s mem a m =
      setFlip (trackAdd (setEvt (intLog (bump s (Reg.intCnt mem 0) 1) (scrubClass mem f.mask).2 1 mem m f.injected a) Reg.intEvt 0)
        mem a .watch) mem a none := by
  rw [trackScrub, h, trackVisit]
  dsimp only
  rw [hc]
  dsimp only
  rw [ht]
  rfl

theorem flipAt_setFlip (f : Option Flip) : flipAt (setFlip s mem a f) mem a = f := by
  show KMap.find (KMap.put s.intg.flips (wordKey mem a) f) (wordKey mem a) = f
  rw [KMap.find, KMap.get_set_same]

theorem trackAdd_intg {st : TrackSt} (hl : s.intg.track.length < 64) :
    trackAdd s mem a st = { s with intg := { s.intg with track := s.intg.track ++ [⟨mem, a, st, 0⟩] } } := by
  rw [trackAdd, if_pos hl]

theorem trackOf_added {t : State} {st : TrackSt} (ht : trackOf s mem a = none)
    (h : t.intg.track = s.intg.track ++ [⟨mem, a, st, 0⟩]) : trackOf t mem a = some ⟨mem, a, st, 0⟩ := by
  rw [trackOf] at ht
  rw [trackOf, h, List.find?_append, ht]
  simp

/-- The log has no place among the counters. -/
theorem rd_intCnt_intLog (hm : mem < 64) (u : State) (synd kind m ms : Nat) (inj : Bool) (x : Nat) :
    rd (intLog u synd kind m ms inj x) (Reg.intCnt mem 0) = rd u (Reg.intCnt mem 0) := by
  refine (readOnly_intLog (mem := mem + 1) synd kind m ms inj x).rd_eq ?_ (fun h => ?_)
  · simp only [belowCounts, Reg.hstPcieCnt, Reg.intCnt]
    omega
  · rcases List.mem_append.1 h with single | log
    · simp only [List.mem_cons, List.not_mem_nil, or_false, Reg.intCnt, Reg.intEvt, Reg.intLogHead, Reg.intLogOvf,
        Reg.intTrackStat] at single
      omega
    · obtain ⟨k, hk, e⟩ := List.mem_map.1 log
      simp only [Reg.intLog, Reg.intCnt, List.mem_range] at e hk
      omega

end Track

/-! The walker's visit. -/

section Visit
variable {s : State} {mem : Fin 64} {cell k a : Nat}

/-- The walker moves past the word, and a lap of its memory may begin. -/
def walkerMoved (s : State) (k w now_ : Nat) (last : Bool) : State :=
  { s with intg := { s.intg with
      sramLast := s.intg.sramLast.setNat k (now_ + 1)
      sramPos := s.intg.sramPos.setNat k (if last then 0 else w + 1)
      sramLap := if w = 0 then s.intg.sramLap.setNat k now_ else s.intg.sramLap } }

/-- The walker's visit of its word, when it takes place. -/
def wordVisit (s : State) (mem cell a : Nat) : State :=
  let k := mem * 256 + cell
  let w := s.intg.sramPos.nat k
  let last := decide (w + 1 = walkerWords mem cell)
  let u := walkerMoved (trackScrub s mem a 44) k w s.cycle last
  if last then sramLapEnd u k else u

theorem sramVisit_off (h : flag s Reg.intScrubCtrl 31 = false) : sramVisit s mem cell = s := by simp [sramVisit, h]

theorem sramVisit_on (ha : awake s = true) (hk : k = mem.val * 256 + cell)
    (haddr : a = (if mem.val = 0 then s.intg.sramPos.nat k else 4096 * cell + s.intg.sramPos.nat k))
    (hon : flag s Reg.intScrubCtrl 31 = true) (hg : s.pwr.stopGrants = false) (hc : cell < walkers mem.val)
    (hidle : if mem.val = 0 then portIdle s = true else marchBusy s mem.val cell = false)
    (hgap : s.intg.sramLast.nat k + fget s Reg.intScrubCtrl 7 0 ≤ s.cycle + 1 ∨ s.intg.sramLast.nat k = 0) :
    sramVisit s mem cell = wordVisit s mem cell a := by
  subst hk
  have free : (if mem.val = 0 then !portIdle s else marchBusy s mem.val cell) = false := by
    split at hidle
    case isTrue h => rw [if_pos h, hidle]; rfl
    case isFalse h => rw [if_neg h, hidle]
  have ready : (decide (s.intg.sramLast.nat (mem.val * 256 + cell) ≠ 0) &&
      decide (s.cycle < s.intg.sramLast.nat (mem.val * 256 + cell) - 1 + fget s Reg.intScrubCtrl 7 0)) = false := by
    simp only [Bool.and_eq_false_iff, decide_eq_false_iff_not, Nat.not_lt]
    omega
  have range_ : decide (walkers mem.val ≤ cell) = false := by simpa using hc
  have go : (!awake s || s.pwr.stopGrants || !flag s Reg.intScrubCtrl 31 || decide (walkers mem.val ≤ cell) ||
      (if mem.val = 0 then !portIdle s else marchBusy s mem.val cell) ||
      (decide (s.intg.sramLast.nat (mem.val * 256 + cell) ≠ 0) &&
        decide (s.cycle < s.intg.sramLast.nat (mem.val * 256 + cell) - 1 + fget s Reg.intScrubCtrl 7 0))) = false := by
    rw [ha, hg, hon, range_, free, ready]
    rfl
  rw [sramVisit]
  dsimp only
  rw [go, if_neg (by decide), wordVisit, haddr]
  rfl

theorem only_walkerMoved (u : State) (k w n : Nat) (last : Bool) : Only [.intg] [] u (walkerMoved u k w n last) :=
  only_setIntg (s := u) _

theorem only_sramLapEnd (u : State) (k : Nat) : Only [.intg] [Reg.intSramLap] u (sramLapEnd u k) :=
  ((only_setIntg (s := u) _).trans (only_wr _ Reg.intSramLap _)).mono (by simp) (by simp)

theorem sramLapEnd_kept (u : State) (k : Nat) : (sramLapEnd u k).intg.sramPos = u.intg.sramPos ∧
    (sramLapEnd u k).intg.flips = u.intg.flips ∧ (sramLapEnd u k).intg.track = u.intg.track := by
  rw [sramLapEnd, wr_intg]
  exact ⟨rfl, rfl, rfl⟩

/-- What the walker's own part of a visit leaves of the unit. -/
structure WalkKept (s t : State) : Prop where
  flips : t.intg.flips = s.intg.flips
  track : t.intg.track = s.intg.track

/-- After a visit: the walker's place, and what the visit itself left. -/
theorem wordVisit_spec (s : State) (mem cell a : Nat) :
    (wordVisit s mem cell a).intg.sramPos.nat (mem * 256 + cell) =
      (if s.intg.sramPos.nat (mem * 256 + cell) + 1 = walkerWords mem cell then 0 else s.intg.sramPos.nat (mem * 256 + cell) + 1) ∧
    WalkKept (trackScrub s mem a 44) (wordVisit s mem cell a) ∧
    Only [.intg] [Reg.intSramLap] (trackScrub s mem a 44) (wordVisit s mem cell a) := by
  have place (u : State) (w n : Nat) (last : Bool) : (walkerMoved u (mem * 256 + cell) w n last).intg.sramPos.nat (mem * 256 + cell) =
      if last then 0 else w + 1 := KMap.get_set_same _ _ _ _
  by_cases last : s.intg.sramPos.nat (mem * 256 + cell) + 1 = walkerWords mem cell
  · simp only [wordVisit, last, decide_true, if_true]
    obtain ⟨pos, flips, track⟩ := sramLapEnd_kept (walkerMoved (trackScrub s mem a 44) (mem * 256 + cell)
      (s.intg.sramPos.nat (mem * 256 + cell)) s.cycle true) (mem * 256 + cell)
    refine ⟨?_, ⟨flips, track⟩, ?_⟩
    · rw [pos, place, if_pos rfl]
    · exact ((only_walkerMoved _ _ _ _ _).trans (only_sramLapEnd _ _)).mono (by simp) (by simp)
  · simp only [wordVisit, last, decide_false, if_false, Bool.false_eq_true]
    refine ⟨?_, ⟨rfl, rfl⟩, (only_walkerMoved _ _ _ _ _).mono (by simp) (by simp)⟩
    rw [place]
    rfl

/-- A visit advances the walker; a correctable word becomes good, counted and WATCHed (R423, R426). -/
theorem word_visited (ha : awake s = true) (hk : k = mem.val * 256 + cell)
    (haddr : a = (if mem.val = 0 then s.intg.sramPos.nat k else 4096 * cell + s.intg.sramPos.nat k))
    (hon : flag s Reg.intScrubCtrl 31 = true) (hg : s.pwr.stopGrants = false) (hc : cell < walkers mem.val)
    (hidle : if mem.val = 0 then portIdle s = true else marchBusy s mem.val cell = false)
    (hgap : s.intg.sramLast.nat k + fget s Reg.intScrubCtrl 7 0 ≤ s.cycle + 1 ∨ s.intg.sramLast.nat k = 0) :
    Ends (.sramScrubVisit mem cell) s fun t =>
      t.intg.sramPos.nat k = (if s.intg.sramPos.nat k + 1 = walkerWords mem.val cell then 0 else s.intg.sramPos.nat k + 1) ∧
      (flipAt s mem.val a = none → t.intg.flips = s.intg.flips ∧ Only [.intg] [Reg.intSramLap] s t) ∧
      (∀ f, flipAt s mem.val a = some f → (scrubClass mem.val f.mask).1 = .corrected → trackOf s mem.val a = none →
        s.intg.track.length < 64 → flipAt t mem.val a = none ∧
          trackOf t mem.val a = some ⟨mem.val, a, .watch, 0⟩ ∧
          rd t (Reg.intCnt mem.val 0) = (rd s (Reg.intCnt mem.val 0) + 1) % 2 ^ 48) ∧
      keepsUnits [.intg] s t := by
  refine ends_of (core_sramScrubVisit mem cell ha) ?_
  rw [sramVisit_on ha hk haddr hon hg hc hidle hgap]
  obtain ⟨place, kept, moved⟩ := wordVisit_spec s mem.val cell a
  rw [← hk] at place
  have tracked : ReadOnly mem.val s (trackScrub s mem.val a 44) := readOnly_trackScrub 44
  have counter : belowCounts (Reg.intCnt mem.val 0) := by
    have := mem.isLt
    simp only [belowCounts, Reg.hstPcieCnt, Reg.intCnt]
    omega
  refine ⟨by rw [finish_intg, place], fun good => ?_, fun f hf hcor htrack hroom => ?_, ?_⟩
  · obtain ⟨only, flips⟩ := trackScrub_good good 44
    exact ⟨by rw [finish_intg, kept.flips, flips], (only.trans moved).finished.mono (by simp) (by simp)⟩
  · obtain ⟨u, hu⟩ : ∃ u, u = setEvt (intLog (bump s (Reg.intCnt mem.val 0) 1) (scrubClass mem.val f.mask).2 1 mem.val 44
        f.injected a) Reg.intEvt 0 := ⟨_, rfl⟩
    have intg : u.intg = s.intg := by rw [hu, setEvt_intg, intLog_intg, bump_intg]
    have found : trackScrub s mem.val a 44 = setFlip (trackAdd u mem.val a .watch) mem.val a none := by
      rw [trackScrub_corrected hf hcor htrack, hu]
    have added := trackAdd_intg (s := u) (mem := mem.val) (a := a) (st := .watch) (by rwa [intg])
    refine ⟨?_, ?_, ?_⟩
    · rw [flipAt, finish_intg, kept.flips, found]
      exact flipAt_setFlip none
    · refine trackOf_added htrack ?_
      rw [finish_intg, kept.track, found, added]
      exact congrArg (· ++ _) (congrArg IntSt.track intg)
    · rw [rd_finish_below s counter, moved.rd_eq counter (by simp [Reg.intSramLap, Reg.intCnt]; omega), found, added]
      have same : rd u (Reg.intCnt mem.val 0) = (rd s (Reg.intCnt mem.val 0) + 1) % 2 ^ 48 := by
        rw [hu, rd_setEvt_ne _ _ (by simp [Reg.intEvt, Reg.intCnt]; omega), rd_intCnt_intLog mem.isLt, rd_bump_same]
      exact same
  · exact (((tracked.trans moved).trans (only_finish s _)).mono (vs := [.intg]) (by simp) (fun _ h => h)).1

/-- A walker that is not enabled does nothing. -/
theorem word_left (ha : awake s = true) (hoff : flag s Reg.intScrubCtrl 31 = false) :
    Ends (.sramScrubVisit mem cell) s fun t => Only [] [] s t := by
  refine ends_of (core_sramScrubVisit mem cell ha) ?_
  rw [sramVisit_off hoff]
  exact only_finish s s

end Visit

end Sys2Proof.Machine
end

section
namespace Sys2Proof.Machine

/-! ### A march started or kept away (R436–R438, R450) -/

section Blocker
variable {s t : State} (hi : t.img = s.img) (hg : t.intg = s.intg) (hd : t.dma = s.dma) (hs : t.seq = s.seq)
  (hr : ∀ o, o ≠ Reg.intMarchCtrl → (o < Reg.hstPcieCnt 0 0 ∨ Reg.hstPcieCnt 1 3 < o) → rd t o = rd s o)
include hi hs hr

theorem spmStructs_congr (q : Nat) : spmStructs t q = spmStructs s q := by
  have bit (o b : Nat) (h1 : o ≠ Reg.intMarchCtrl) (h2 : o < Reg.hstPcieCnt 0 0 ∨ Reg.hstPcieCnt 1 3 < o) :
      flag t o b = flag s o b := flag_congr (hr o h1 h2) b
  have field (o hi lo : Nat) (h1 : o ≠ Reg.intMarchCtrl) (h2 : o < Reg.hstPcieCnt 0 0 ∨ Reg.hstPcieCnt 1 3 < o) :
      fget t o hi lo = fget s o hi lo := fget_congr (hr o h1 h2) hi lo
  unfold spmStructs
  dsimp only
  split <;> simp (disch := decide) only [bit, field, ringSize, lrnSize, hi, hs]

/-- Who reaches the scratchpad is told by the rings, the structures and the regions' enables. -/
theorem spmBlocker_congr (start len : Nat) : spmBlocker t start len = spmBlocker s start len := by
  refine List.find?_congr fun q hq => ?_
  have enables : rd t (Reg.spmEn q) = rd s (Reg.spmEn q) := by
    have := List.mem_range.1 hq
    refine hr _ ?_ (.inl ?_)
    · simp only [Reg.spmEn, Reg.intMarchCtrl]
      omega
    · simp only [Reg.spmEn, Reg.hstPcieCnt]
      omega
  simp only [regionOn, flag_congr enables, spmStructs_congr hi hs hr]

include hg hd

theorem marchBlocker_congr (mem start len : Nat) : marchBlocker t mem start len = marchBlocker s mem start len := by
  have tables := outsideTables_congr hi (hr Reg.wayMap (by decide) (.inl (by decide))) start len
  have channels (n : Nat) : dmaCh t n = dmaCh s n := by rw [dmaCh, dmaCh, hd]
  have inside : dmaIn t start len = dmaIn s start len := by simp only [dmaIn, channels]
  have pages : retirements t = retirements s := by rw [retirements, retirements, hg]
  simp only [marchBlocker, spmBlocker_congr hi hs hr, tables, pages, inside]

end Blocker

section Go
variable {s : State} {m : Requester} {v : BitVec 32}

theorem regRow_intMarchCtrl : regRow Reg.intMarchCtrl = some ⟨"INT_MARCH_CTRL", 0x100034, 1, 8, 1, 8, false,
    [fld 31 31 .wo 0, fld 30 30 .rw 0, fldR 5 0 .rw 0 [(0, 0x11)] 1]⟩ := by decide +kernel

/-- What a write of a memory code that is not reserved leaves of INT_MARCH_CTRL: GO does not stay (R9). -/
def marchCtrlWritten (old v : Nat) : Nat :=
  putBits (putBits (putBits (putBits old 31 31 (bitsOf v 31 31)) 30 30 (bitsOf v 30 30)) 5 0 (bitsOf v 5 0)) 31 31 0

theorem commitFields_intMarchCtrl {c v : Nat} (hx : bitsOf v 5 0 ≤ 17) :
    commitFields s c Reg.intMarchCtrl v = wr s Reg.intMarchCtrl
      (putBits (putBits (putBits (rd s Reg.intMarchCtrl) 31 31 (bitsOf v 31 31)) 30 30 (bitsOf v 30 30)) 5 0 (bitsOf v 5 0)) := by
  have hr : (fldR 5 0 .rw 0 [(0, 0x11)] 1).allows (bitsOf v 5 0) = true := by simp [Field.allows, fldR, hx, Nat.mod_one]
  have go (lock : Bool) (keep old : Nat) : (fld 31 31 .wo 0).write lock keep old v = (putBits old 31 31 (bitsOf v 31 31), false, false) := by
    simp [Field.write, fld, Field.allows, Nat.mod_one]
  have kept (lock : Bool) (keep old : Nat) : (fld 30 30 .rw 0).write lock keep old v = (putBits old 30 30 (bitsOf v 30 30), false, false) :=
    write_rw rfl _ _ _ (allows_fld _ _ _ _ _)
  have aimed (lock : Bool) (keep old : Nat) : (fldR 5 0 .rw 0 [(0, 0x11)] 1).write lock keep old v =
      (putBits old 5 0 (bitsOf v 5 0), false, false) := write_rw rfl _ _ _ hr
  rw [commitFields_row regRow_intMarchCtrl]
  simp [fieldsWrite, go, kept, aimed]

/-- The control register after a GO. -/
def goTaken (s : State) (c v : Nat) : State := fput (commitFields s c Reg.intMarchCtrl v) Reg.intMarchCtrl 31 31 0

theorem only_goTaken {c v : Nat} (hx : bitsOf v 5 0 ≤ 17) : Only [] [Reg.intMarchCtrl] s (goTaken s c v) := by
  rw [goTaken, commitFields_intMarchCtrl hx]
  exact ((only_wr _ _ _).trans (only_fput _ _ _ _ _)).mono (by simp) (by simp)

/-- The fields that a GO names (R450). -/
theorem marchFields_taken {c v : Nat} (hx : bitsOf v 5 0 ≤ 17) :
    fget (goTaken s c v) Reg.intMarchCtrl 5 0 = bitsOf v 5 0 ∧ flag (goTaken s c v) Reg.intMarchCtrl 30 = bitOf v 30 := by
  rw [goTaken, commitFields_intMarchCtrl hx, fget_fput_apart _ _ _ _ _ _ _ (by decide) (by decide) (by decide),
    flag_fput_apart _ _ (by decide) (by decide) (by decide), fget, flag, rd_wr_same]
  constructor
  · rw [bitsOf_mod _ _ (by decide), bitsOf_putBits_same _ _ _ _ (by decide)]
    exact Nat.mod_eq_of_lt (bitsOf_lt _ _ _)
  · rw [bitOf_mod _ (by decide), bitOf_putBits _ _ _ _ _ (by decide), if_neg (by decide), bitOf_putBits _ _ _ _ _ (by decide),
      if_pos (by decide), bitsOf_single]
    exact bitOf_b2n _

/-- The march begins: the region is taken and nothing of it is done yet. -/
def marchBegun (s : State) (w : March) : State :=
  progSet (wr { s with intg := { s.intg with
    march := some w
    marchStep := 0 } } Reg.intMarchStat 0) Reg.intMarchProg Reg.intMarchTotal w.len 0 true

theorem only_marchBegun (u : State) (w : March) :
    Only [.intg] [Reg.intMarchStat, Reg.intMarchProg, Reg.intMarchTotal] u (marchBegun u w) :=
  (((only_setIntg (s := u) _).trans (only_wr _ Reg.intMarchStat 0)).trans
    (only_progSet _ Reg.intMarchProg Reg.intMarchTotal w.len 0 true)).mono (by simp) (by simp)

theorem marchBegun_intg (u : State) (w : March) :
    (marchBegun u w).intg = { u.intg with march := some w, marchStep := 0 } := by
  rw [marchBegun, progSet, wr_intg, wr_intg, wr_intg]

theorem rd_marchBegun (u : State) (w : March) : rd (marchBegun u w) Reg.intMarchTotal = w.len % 2 ^ 64 ∧
    rd (marchBegun u w) Reg.intMarchStat = 0 := by
  rw [marchBegun, progSet]
  constructor
  · rw [rd_wr_ne _ _ (by decide), rd_wr_same]
  · rw [rd_wr_ne _ _ (by decide), rd_wr_ne _ _ (by decide), rd_wr_same]
    rfl

section Outcome
variable {u u' : State} {w : March} {c n : Nat} (hv : bitOf n 31 = true) (hg : u.pwr.stopGrants = false)
  (hp : progOn u Reg.intMarchProg = false) (hu : u' = goTaken u c n)
  (hw : (⟨fget u' Reg.intMarchCtrl 5 0, fget u' Reg.intMarchStart 35 0, fget u' Reg.intMarchLen 31 0,
    flag u' Reg.intMarchCtrl 30⟩ : March) = w) (hshape : marchShape w.mem w.start w.len w.preserving = true)
include hv hg hp hu hw hshape

theorem marchGo_begins (hb : w.preserving = true ∨ marchBlocker u' w.mem w.start w.len = none) :
    marchGo u c n = marchBegun u' w := by
  subst hw
  have open_ : (if flag u' Reg.intMarchCtrl 30 then none else marchBlocker u' (fget u' Reg.intMarchCtrl 5 0)
      (fget u' Reg.intMarchStart 35 0) (fget u' Reg.intMarchLen 31 0)) = none := by
    split
    · rfl
    · rename_i h
      exact hb.resolve_left h
  rw [marchGo, hv, hg, hp]
  simp only [Bool.not_true, Bool.or_false, Bool.false_eq_true, if_false]
  rw [← goTaken, ← hu, hshape, open_]
  rfl

theorem marchGo_kept {q : Nat} (hpres : w.preserving = false) (hb : marchBlocker u' w.mem w.start w.len = some q) :
    marchGo u c n = wr u' Reg.intMarchStat (3 * 2 ^ 30 + q * 2 ^ 25) := by
  subst hw
  have closed : (if flag u' Reg.intMarchCtrl 30 then none else marchBlocker u' (fget u' Reg.intMarchCtrl 5 0)
      (fget u' Reg.intMarchStart 35 0) (fget u' Reg.intMarchLen 31 0)) = some q := by
    rw [if_neg (by simpa using hpres)]
    exact hb
  rw [marchGo, hv, hg, hp]
  simp only [Bool.not_true, Bool.or_false, Bool.false_eq_true, if_false]
  rw [← goTaken, ← hu, hshape, closed]
  rfl

end Outcome

/-- A GO while a march is at work is refused (R438). -/
theorem march_busy (hw : mayWrite s m Reg.intMarchCtrl 4 = true) (hv : bitOf v.toNat 31 = true)
    (hg : s.pwr.stopGrants = false) (hp : progOn s Reg.intMarchProg = true) : Ends (.marchGo m v) s fun t =>
      flag t Reg.topErr 0 = true ∧ Only [] (errRegs ++ portRegs m) s t := by
  refine ends_of (exec_marchGo v hw) ?_
  have busy : progOn (portCount s m) Reg.intMarchProg = true :=
    (progOn_congr (rd_portCount s m (belowCounts_of_lt (by decide)))).trans hp
  rw [marchGo, hv, portCount_pwr, hg, busy]
  exact rsvd_ends s m m.code Reg.intMarchCtrl

/-- A GO on a fit region starts the march, or reports its blocker (R437, R438). -/
theorem march_goes {w : March} (hw : mayWrite s m Reg.intMarchCtrl 4 = true) (hv : bitOf v.toNat 31 = true)
    (hg : s.pwr.stopGrants = false)
    (hm : w = ⟨bitsOf v.toNat 5 0, fget s Reg.intMarchStart 35 0, fget s Reg.intMarchLen 31 0, bitOf v.toNat 30⟩)
    (hp : progOn s Reg.intMarchProg = false) (hx : w.mem ≤ 17) (hshape : marchShape w.mem w.start w.len w.preserving = true) :
    Ends (.marchGo m v) s fun t =>
      (w.preserving = true ∨ marchBlocker s w.mem w.start w.len = none →
        t.intg.march = some w ∧ t.intg.marchStep = 0 ∧ progOn t Reg.intMarchProg = true ∧ rd t Reg.intMarchTotal = w.len ∧
        rd t Reg.intMarchStat = 0) ∧
      (∀ q, w.preserving = false → marchBlocker s w.mem w.start w.len = some q →
        t.intg = s.intg ∧ rd t Reg.intMarchStat = (3 * 2 ^ 30 + q * 2 ^ 25) % 2 ^ 64) ∧
      t.spm = s.spm ∧ t.drc = s.drc ∧
      Only [.intg] ([Reg.intMarchCtrl, Reg.intMarchStat, Reg.intMarchProg, Reg.intMarchTotal] ++ portRegs m) s t := by
  refine ends_of (exec_marchGo v hw) ?_
  have fit : bitsOf v.toNat 5 0 ≤ 17 := by rw [hm] at hx; exact hx
  have idle : progOn (portCount s m) Reg.intMarchProg = false :=
    (progOn_congr (rd_portCount s m (belowCounts_of_lt (by decide)))).trans hp
  obtain ⟨u, hu⟩ : ∃ u, u = goTaken (portCount s m) m.code v.toNat := ⟨_, rfl⟩
  have reach : Only [] (Reg.intMarchCtrl :: portRegs m) s u := by
    rw [hu]
    exact ((only_portCount s m).trans (only_goTaken fit)).mono (by simp) (by simp)
  have intg : u.intg = s.intg := reach.1 .intg (by simp)
  have regs {o : Nat} (h1 : o ≠ Reg.intMarchCtrl) (h2 : o < Reg.hstPcieCnt 0 0 ∨ Reg.hstPcieCnt 1 3 < o) : rd u o = rd s o := by
    refine reach.2.1 o ?_ ?_
    · rcases h2 with h | h
      · exact not_mem_msgRegs h
      · exact aboveCounts_not_mem_msgRegs h
    · refine List.not_mem_cons_of_ne_of_not_mem h1 ?_
      rcases h2 with h | h
      · exact not_mem_portRegs h
      · exact aboveCounts_not_mem_portRegs m h
  have named : (⟨fget u Reg.intMarchCtrl 5 0, fget u Reg.intMarchStart 35 0, fget u Reg.intMarchLen 31 0,
      flag u Reg.intMarchCtrl 30⟩ : March) = w := by
    obtain ⟨mem, pres⟩ := marchFields_taken (s := portCount s m) (c := m.code) fit
    rw [hm, ← hu] at *
    rw [mem, pres, fget_congr (regs (o := Reg.intMarchStart) (by decide) (.inl (by decide))),
      fget_congr (regs (o := Reg.intMarchLen) (by decide) (.inl (by decide)))]
  have blocker : marchBlocker u w.mem w.start w.len = marchBlocker s w.mem w.start w.len :=
    marchBlocker_congr (reach.1 .img (by simp)) intg (reach.1 .dma (by simp)) (reach.1 .seq (by simp)) (fun o => regs) _ _ _
  have place (o : Nat) (h : o < Reg.hstPcieCnt 0 0) (t : State) : rd (finish s t) o = rd t o := rd_finish_below s h
  have free : (portCount s m).pwr.stopGrants = false := by rw [portCount_pwr, hg]
  have whole {t : State} (h : Only [.intg] [Reg.intMarchStat, Reg.intMarchProg, Reg.intMarchTotal] u t) :
      (finish s t).spm = s.spm ∧ (finish s t).drc = s.drc ∧
      Only [.intg] ([Reg.intMarchCtrl, Reg.intMarchStat, Reg.intMarchProg, Reg.intMarchTotal] ++ portRegs m) s (finish s t) := by
    have all := (reach.trans h).finished
    exact ⟨all.1 .spm (by simp), all.1 .drc (by simp), all.mono (by simp) (by
      intro o ho
      simp only [List.mem_append, List.mem_cons, List.not_mem_nil, or_false] at ho ⊢
      tauto)⟩
  have len : w.len % 2 ^ 64 = w.len := by
    rw [hm]
    exact Nat.mod_eq_of_lt (lt_of_lt_of_le (bitsOf_lt _ _ _) (by decide))
  have begins : (finish s (marchBegun u w)).intg.march = some w ∧ (finish s (marchBegun u w)).intg.marchStep = 0 ∧
      progOn (finish s (marchBegun u w)) Reg.intMarchProg = true ∧ rd (finish s (marchBegun u w)) Reg.intMarchTotal = w.len ∧
      rd (finish s (marchBegun u w)) Reg.intMarchStat = 0 := by
    obtain ⟨total, stat⟩ := rd_marchBegun u w
    rw [finish_intg, marchBegun_intg, place _ (by decide), place _ (by decide), total, stat, len,
      progOn_congr (place _ (by decide) _)]
    exact ⟨rfl, rfl, progOn_progSet _ _ _ _ _ _, rfl, rfl⟩
  by_cases hb : w.preserving = true ∨ marchBlocker s w.mem w.start w.len = none
  · rw [marchGo_begins hv free idle hu named hshape (by rwa [blocker])]
    refine ⟨fun _ => begins, fun q hpres h => ?_, whole (only_marchBegun u w)⟩
    rw [hpres, h] at hb
    exact absurd hb (by simp)
  · obtain ⟨hpres, some_⟩ := not_or.1 hb
    obtain ⟨q, hq⟩ := Option.ne_none_iff_exists'.1 some_
    rw [marchGo_kept hv free idle hu named hshape (by simpa using hpres) (by rw [blocker, hq])]
    refine ⟨fun h => absurd h hb, fun q' _ h => ?_, whole ((only_wr _ _ _).mono (by simp) (by simp))⟩
    obtain rfl : q = q' := Option.some.inj (hq.symm.trans h)
    exact ⟨by rw [finish_intg, wr_intg, intg], by rw [place _ (by decide), rd_wr_same]⟩

end Go

end Sys2Proof.Machine
end

section
namespace Sys2Proof.Machine

/-! ### A march reaches the end of its region (R436–R439) -/

/-! The tracker leaves the engine alone. -/

/-- The march engine's place is the same. -/
def SameMarch (s t : State) : Prop := t.intg.march = s.intg.march

section Same
variable {s t u : State}

theorem SameMarch.trans (h : SameMarch s t) (k : SameMarch t u) : SameMarch s u := Eq.trans k h

theorem sameMarch_of (h : t.intg = s.intg) : SameMarch s t := congrArg IntSt.march h

variable (s) (mem a m synd : Nat)

theorem sameMarch_intLog (kind : Nat) (inj : Bool) : SameMarch s (intLog s synd kind mem m inj a) :=
  sameMarch_of (intLog_intg s synd kind mem m a inj)

theorem sameMarch_setEvt (o b : Nat) : SameMarch s (setEvt s o b) := sameMarch_of (setEvt_intg s o b)

theorem sameMarch_bump (o n : Nat) : SameMarch s (bump s o n) := sameMarch_of (bump_intg s o n)

theorem sameMarch_trackAdd (st : TrackSt) : SameMarch s (trackAdd s mem a st) := by
  unfold trackAdd
  dsimp only
  split
  · rfl
  · split
    · rfl
    · exact (congrArg IntSt.march ((satBump_intg _ _ _ _ _).trans (rcEvent_intg _ _ _ _ _))).trans rfl

theorem sameMarch_sticky (inj : Bool) : SameMarch s (sticky s mem a m inj synd) := by
  have begun : SameMarch s (intLog (bump s (Reg.intCnt mem 2) 1) synd 3 mem m inj a) :=
    (sameMarch_bump s _ 1).trans (sameMarch_intLog _ _ _ _ _ _ _)
  have logged (t : State) (kind b : Nat) (h : SameMarch s t) : SameMarch s (setEvt (intLog t synd kind mem m inj a) Reg.intEvt b) :=
    (h.trans (sameMarch_intLog _ _ _ _ _ _ _)).trans (sameMarch_setEvt _ _ _)
  unfold sticky
  dsimp only
  generalize intLog (bump s (Reg.intCnt mem 2) 1) synd 3 mem m inj a = t at begun ⊢
  split
  · exact logged _ _ _ begun
  · refine logged _ _ _ ?_
    split
    · exact begun
    · exact begun.trans (sameMarch_trackAdd _ _ _ _)

theorem sameMarch_trackCorrected (f : Flip) : SameMarch s (trackCorrected s mem a m f synd) := by
  have counted := sameMarch_bump s (Reg.intCnt mem 0) 1
  unfold trackCorrected
  dsimp only
  split
  · exact ((counted.trans (sameMarch_intLog _ _ _ _ _ _ _)).trans (sameMarch_setEvt _ _ _)).trans (sameMarch_trackAdd _ _ _ _)
  · split
    · split
      · exact counted.trans (sameMarch_sticky _ _ _ _ _ _)
      · exact counted
    · exact counted
    · exact counted
    · exact counted

theorem sameMarch_trackUncorrectable (f : Flip) : SameMarch s (trackUncorrectable s mem a m f synd) := by
  have counted := sameMarch_bump s (Reg.intCnt mem 1) 1
  have logged := (counted.trans (sameMarch_intLog _ mem a m synd 2 f.injected)).trans (sameMarch_setEvt _ Reg.intEvt 1)
  unfold trackUncorrectable
  dsimp only
  split
  · split
    · exact counted
    · exact logged
  · exact logged.trans (sameMarch_trackAdd _ _ _ _)

theorem sameMarch_wordCleaned : SameMarch s (wordCleaned s mem a) := by
  unfold wordCleaned
  dsimp only
  split <;> split <;> (try split) <;> rfl

end Same

/-! What one word's end leaves. -/

/-- The bytes of the two memories that stand outside a run of words of memory `mem` are the same, and so are all other
units but the integrity unit; the engine's place is the same. -/
structure OutsideWords (mem lo hi : Nat) (s t : State) : Prop where
  spm : ∀ a, mem ≠ 0 ∨ a < 8 * lo ∨ 8 * hi ≤ a → memByte t.spm.mem a = memByte s.spm.mem a
  drc : ∀ a, mem ≠ 1 ∨ a < 8 * lo ∨ 8 * hi ≤ a → memByte t.drc.mem a = memByte s.drc.mem a
  march : SameMarch s t
  units : keepsUnits [.intg, .drc, .spm] s t

section Words
variable {mem lo hi : Nat} {s t u : State}

theorem OutsideWords.refl (mem lo hi : Nat) (s : State) : OutsideWords mem lo hi s s :=
  ⟨fun _ _ => rfl, fun _ _ => rfl, rfl, (Only.refl _ [] s).1⟩

theorem OutsideWords.trans (h : OutsideWords mem lo hi s t) (k : OutsideWords mem lo hi t u) : OutsideWords mem lo hi s u :=
  ⟨fun a ha => (k.spm a ha).trans (h.spm a ha), fun a ha => (k.drc a ha).trans (h.drc a ha), h.march.trans k.march,
    fun x hx => x.same_trans (h.units x hx) (k.units x hx)⟩

/-- What touches the integrity unit only, and not the engine. -/
theorem Only.outsideWords {rs : List Nat} (h : Only [.intg] rs s t) (hm : SameMarch s t) : OutsideWords mem lo hi s t :=
  ⟨fun a _ => by rw [show t.spm = s.spm from h.1 .spm (by simp)], fun a _ => by rw [show t.drc = s.drc from h.1 .drc (by simp)], hm,
    (h.mono (vs := [.intg, .drc, .spm]) (by simp) (fun _ h => h)).1⟩

theorem outsideWords_foldl {α : Type} {g : State → α → State} {l : List α} (step : ∀ t, ∀ e ∈ l, OutsideWords mem lo hi t (g t e))
    (s : State) : OutsideWords mem lo hi s (l.foldl g s) := by
  induction l generalizing s with
  | nil => exact OutsideWords.refl _ _ _ s
  | cons e l ih => exact (step s e (by simp)).trans (ih (fun t x hx => step t x (by simp [hx])) _)

theorem outsideWords_marchRead (s : State) (a : Nat) (f : Flip) : OutsideWords mem lo hi s (marchRead s mem a f) := by
  unfold marchRead
  dsimp only
  split
  · exact OutsideWords.refl _ _ _ s
  · exact (readOnly_trackCorrected _ _ _ _).outsideWords (sameMarch_trackCorrected _ _ _ _ _ _)
  · exact (readOnly_trackUncorrectable _ _ _ _).outsideWords (sameMarch_trackUncorrectable _ _ _ _ _ _)

theorem outsideWords_setFlip (s : State) (x a : Nat) (f : Option Flip) : OutsideWords mem lo hi s (setFlip s x a f) :=
  (only_setFlip s x a f).outsideWords rfl

theorem outsideWords_spmPut (s : State) {a : Nat} {bs : List Byte} (hl : bs.length = 8) (ha : lo ≤ a) (hb : a < hi) :
    OutsideWords 0 lo hi s { s with spm := { s.spm with mem := memPuts s.spm.mem (8 * a) bs } } :=
  ⟨fun x hx => memByte_memPuts_out _ _ _ (by omega), fun x _ => rfl, rfl,
    ((only_setSpm (s := s) _).mono (vs := [.intg, .drc, .spm]) (by simp) (fun _ h => h)).1⟩

theorem outsideWords_drcPut (s : State) {a : Nat} {bs : List Byte} (hl : bs.length = 8) (ha : lo ≤ a) (hb : a < hi) :
    OutsideWords 1 lo hi s { s with drc := { s.drc with mem := memPuts s.drc.mem (8 * a) bs } } :=
  ⟨fun x _ => rfl, fun x hx => memByte_memPuts_out _ _ _ (by omega), rfl,
    ((only_setDrc s _).mono (vs := [.intg, .drc, .spm]) (by simp) (fun _ h => h)).1⟩

/-- A word copied back touches its own eight bytes (R413, R425). -/
theorem outsideWords_restoreWord (s : State) {a : Nat} (f : Flip) (ha : lo ≤ a) (hb : a < hi) :
    OutsideWords mem lo hi s (restoreWord s mem a f) := by
  unfold restoreWord
  split
  case isTrue h =>
    subst h
    refine (outsideWords_spmPut s ?_ ha hb).trans (outsideWords_setFlip _ _ _ _)
    simp [memBytes]
  case isFalse =>
    refine OutsideWords.trans ?_ (outsideWords_setFlip _ _ _ _)
    split
    case isTrue h =>
      subst h
      exact outsideWords_drcPut s (length_leBytes _ _) ha hb
    case isFalse => exact OutsideWords.refl _ _ _ s

theorem outsideWords_wordCleaned (s : State) (a : Nat) : OutsideWords mem lo hi s (wordCleaned s mem a) := by
  have k := spares_wordCleaned s mem a
  refine ⟨fun x _ => ?_, fun x _ => ?_, sameMarch_wordCleaned s mem a, ?_⟩
  · rw [show (wordCleaned s mem a).spm = s.spm from k.units .spm (by simp)]
  · rw [show (wordCleaned s mem a).drc = s.drc from k.units .drc (by simp)]
  · exact fun x hx => k.units x (fun h => hx (by simp at h; simp [h]))

end Words

end Sys2Proof.Machine
end

section
namespace Sys2Proof.Machine

/-! ### The march's result, and O46 -/

/-- Only the integrity unit has changed, and not its engine. -/
def TrackerOnly (s t : State) : Prop := keepsUnits [.intg] s t ∧ SameMarch s t

section Tracker
variable {s t u : State}

theorem TrackerOnly.trans (h : TrackerOnly s t) (k : TrackerOnly t u) : TrackerOnly s u :=
  ⟨fun x hx => x.same_trans (h.1 x hx) (k.1 x hx), h.2.trans k.2⟩

theorem Only.trackerOnly {rs : List Nat} (h : Only [.intg] rs s t) (hm : SameMarch s t) : TrackerOnly s t := ⟨h.1, hm⟩

theorem trackerOnly_wr (s : State) (o v : Nat) : TrackerOnly s (wr s o v) :=
  (((only_wr s o v).mono (by simp) (fun _ h => h)) : Only [.intg] [o] s _).trackerOnly (sameMarch_of (wr_intg s o v))

theorem trackerOnly_setEvt (s : State) (o b : Nat) : TrackerOnly s (setEvt s o b) :=
  (((only_setEvt s o b).mono (by simp) (fun _ h => h)) : Only [.intg] [o] s _).trackerOnly (sameMarch_setEvt s o b)

theorem trackerOnly_bump (s : State) (o n : Nat) : TrackerOnly s (bump s o n) :=
  (((only_bump s o n).mono (by simp) (fun _ h => h)) : Only [.intg] [o] s _).trackerOnly (sameMarch_bump s o n)

theorem trackerOnly_finish (s t : State) : TrackerOnly t (finish s t) :=
  (((only_finish s t).mono (by simp) (fun _ h => h)) : Only [.intg] [] t _).trackerOnly (sameMarch_of (finish_intg s t))

/-- A failing word is logged and treated as sticky (R439). -/
theorem trackerOnly_marchFailed (s : State) (mem a : Nat) : TrackerOnly s (marchFailed s mem a) := by
  have logged : TrackerOnly s (intLog s 0 6 mem 45 false a) :=
    (readOnly_intLog (mem := mem) 0 6 mem 45 false a).trackerOnly (sameMarch_intLog _ _ _ _ _ _ _)
  exact ((logged.trans (trackerOnly_setEvt _ _ _)).trans (trackerOnly_bump _ _ _)).trans
    ((readOnly_sticky _ _ _ _).trackerOnly (sameMarch_sticky _ _ _ _ _ _))

theorem trackerOnly_foldl {α : Type} {g : State → α → State} (step : ∀ t a, TrackerOnly t (g t a)) (l : List α) (s : State) :
    TrackerOnly s (l.foldl g s) := by
  induction l generalizing s with
  | nil => exact ⟨(Only.refl _ [] s).1, rfl⟩
  | cons a l ih => exact (step s a).trans (ih _)

end Tracker

/-! What a march leaves in its region. -/

section Restore
variable {s : State} {m : March}

/-- A corrupted word of the march is one of its region. -/
theorem mem_marchFlips {e : Nat × Flip} (h : e ∈ marchFlips s m) :
    (if m.mem = 1 then 8 * m.start else m.start) ≤ e.1 ∧
      e.1 < (if m.mem = 1 then 8 * (m.start + m.len) else m.start + m.len) := by
  simp only [marchFlips, List.mem_filterMap] at h
  obtain ⟨⟨k, x⟩, -, hx⟩ := h
  cases x with
  | none => simp at hx
  | some f =>
    by_cases hm : m.mem = 1
    · simp only [wordKey, hm, if_true, Option.ite_none_right_eq_some, Option.some.injEq] at hx ⊢
      obtain ⟨inside, rfl⟩ := hx
      dsimp only
      omega
    · simp only [wordKey, hm, if_false, Option.ite_none_right_eq_some, Option.some.injEq] at hx ⊢
      obtain ⟨inside, rfl⟩ := hx
      dsimp only
      omega

/-- The region of a march, in words. -/
def regionLo (m : March) : Nat := if m.mem = 1 then 8 * m.start else m.start
def regionHi (m : March) : Nat := if m.mem = 1 then 8 * (m.start + m.len) else m.start + m.len

/-- A preserving march changes words of its region only (R438). -/
theorem outsideWords_preserved (hp : m.preserving = true) (s : State) :
    OutsideWords m.mem (regionLo m) (regionHi m) s (marchRestore s m) := by
  rw [marchRestore, if_pos hp]
  refine outsideWords_foldl (fun t e he => ?_) s
  obtain ⟨lo, hi⟩ := mem_marchFlips he
  exact (outsideWords_marchRead t e.1 e.2).trans (outsideWords_restoreWord _ e.2 lo hi)

theorem marchRestore_clean (hp : m.preserving = true) (hf : marchFlips s m = []) : marchRestore s m = s := by
  rw [marchRestore, if_pos hp, hf]
  rfl

/-- The words of a destructive march's region, good again. -/
def regionCleaned (s : State) (m : March) : State := (marchFlips s m).foldl (fun st e => wordCleaned st m.mem e.1) s

theorem trackerOnly_regionCleaned (s : State) (m : March) : TrackerOnly s (regionCleaned s m) := by
  refine trackerOnly_foldl (fun t (e : Nat × Flip) => ⟨?_, sameMarch_wordCleaned t m.mem e.1⟩) _ s
  exact (spares_wordCleaned t m.mem e.1).units

/-- A memory with a region's bytes gone. -/
def bytesCut (l : List Host.Cell) (unit_ start len : Nat) : List Host.Cell :=
  l.filter (fun (e : Nat × Byte) => decide (e.1 < unit_ * start) || decide (unit_ * (start + len) ≤ e.1))

theorem memByte_bytesCut (l : List Host.Cell) (unit_ start len a : Nat) : memByte (bytesCut l unit_ start len) a =
    if unit_ * start ≤ a ∧ a < unit_ * (start + len) then 0 else memByte l a := by
  have kept := get_filter_key (fun _ => (0 : Byte)) (fun k => decide (k < unit_ * start) || decide (unit_ * (start + len) ≤ k)) l a
  rw [memByte, bytesCut, kept]
  by_cases h : unit_ * start ≤ a ∧ a < unit_ * (start + len)
  · rw [if_neg (by simp; omega), if_pos h]
  · rw [if_pos (by simp; omega), if_neg h]
    rfl

theorem marchRestore_destructive (hp : m.preserving = false) (s : State) : marchRestore s m =
    if m.mem = 1 then { regionCleaned s m with drc := { (regionCleaned s m).drc with
      mem := bytesCut (regionCleaned s m).drc.mem 64 m.start m.len } }
    else { regionCleaned s m with spm := { (regionCleaned s m).spm with
      mem := bytesCut (regionCleaned s m).spm.mem (if m.mem = 1 then 64 else 8) m.start m.len } } := by
  rw [marchRestore, if_neg (by simp [hp])]
  by_cases h : m.mem = 1
  · simp only [h, if_true]
    rw [← h]
    rfl
  · simp only [h, if_false]
    rfl

end Restore

/-! The end of a march. -/

section Done
variable {s : State} {w : March} {fails : List Nat}

/-- The engine is free again. -/
def marchOver (s : State) : State := { s with intg := { s.intg with march := none } }

/-- The failing words named that lie in the region. -/
def failing (w : March) (fails : List Nat) : List Nat :=
  let lo := if w.mem = 1 then 8 * w.start else w.start
  let n := if w.mem = 1 then 8 * w.len else w.len
  fails.filter (fun a => decide (lo ≤ a) && decide (a < lo + n))

/-- The march reports that it is done: PASS, or its first failing word. -/
def marchReported (s : State) (w : March) (bad : List Nat) : State :=
  let s3 := wr s Reg.intMarchProg (progValue w.len w.len false)
  match bad with
  | [] => wr s3 Reg.intMarchStat (1 * 2 ^ 30)
  | a :: _ => wr (wr s3 Reg.intMarchStat (2 * 2 ^ 30)) Reg.intMarchFail a

theorem marchDone_early (hm : s.intg.march = some w) (h : s.intg.marchStep < marchTotal w) : marchDone s fails = s := by
  rw [marchDone, hm]
  exact if_pos h

theorem marchDone_late (hm : s.intg.march = some w) (h : marchTotal w ≤ s.intg.marchStep) : marchDone s fails =
    setEvt (marchReported ((failing w fails).foldl (fun st a => marchFailed st w.mem a) (marchRestore (marchOver s) w)) w
      (failing w fails)) Reg.intEvt 5 := by
  rw [marchDone, hm]
  exact if_neg (Nat.not_lt.2 h)

theorem trackerOnly_marchReported (s : State) (w : March) (bad : List Nat) : TrackerOnly s (marchReported s w bad) := by
  have counted := trackerOnly_wr s Reg.intMarchProg (progValue w.len w.len false)
  unfold marchReported
  dsimp only
  split
  · exact counted.trans (trackerOnly_wr _ _ _)
  · exact (counted.trans (trackerOnly_wr _ _ _)).trans (trackerOnly_wr _ _ _)

theorem progOn_marchReported (s : State) (w : March) (bad : List Nat) :
    progOn (marchReported s w bad) Reg.intMarchProg = false := by
  unfold marchReported
  dsimp only
  split
  · rw [progOn_congr (rd_wr_ne _ _ (by decide)), progOn_wr]
  · rw [progOn_congr (rd_wr_ne _ _ (by decide)), progOn_congr (rd_wr_ne _ _ (by decide)), progOn_wr]

theorem rd_marchReported_pass (s : State) (w : March) : rd (marchReported s w []) Reg.intMarchStat = 1 * 2 ^ 30 := by
  rw [marchReported, rd_wr_same]
  rfl

theorem rd_marchReported_fail (s : State) (w : March) (a : Nat) (rest : List Nat) :
    rd (marchReported s w (a :: rest)) Reg.intMarchStat = 2 * 2 ^ 30 ∧
    rd (marchReported s w (a :: rest)) Reg.intMarchFail = a % 2 ^ 64 := by
  rw [marchReported]
  exact ⟨by rw [rd_wr_ne _ _ (by decide), rd_wr_same]; rfl, by rw [rd_wr_same]⟩

/-- All that follows the restoration of the region is the tracker's and the log's. -/
theorem marchDone_restored (hm : s.intg.march = some w) (h : marchTotal w ≤ s.intg.marchStep) :
    TrackerOnly (marchRestore (marchOver s) w) (finish s (marchDone s fails)) := by
  rw [marchDone_late hm h]
  exact (((trackerOnly_foldl (fun t a => trackerOnly_marchFailed t w.mem a) _ _).trans (trackerOnly_marchReported _ _ _)).trans
    (trackerOnly_setEvt _ _ _)).trans (trackerOnly_finish _ _)

/-- What is left where the region was, whatever the kind of march. -/
theorem march_units (s : State) (w : March) : SameMarch s (marchRestore s w) ∧ keepsUnits [.intg, .drc, .spm] s (marchRestore s w) := by
  cases hp : w.preserving with
  | true =>
    have kept := outsideWords_preserved hp s
    exact ⟨kept.march, kept.units⟩
  | false =>
    have cleaned := trackerOnly_regionCleaned s w
    have whole : keepsUnits [.intg, .drc, .spm] s (regionCleaned s w) := fun x hx => cleaned.1 x (fun h => hx (by simp at h; simp [h]))
    rw [marchRestore_destructive hp]
    split
    · exact ⟨cleaned.2, fun x hx => x.same_trans (whole x hx) ((only_setDrc _ _).1 x (fun h => hx (by simp at h; simp [h])))⟩
    · exact ⟨cleaned.2, fun x hx => x.same_trans (whole x hx)
        ((only_setSpm (s := regionCleaned s w) _).1 x (fun h => hx (by simp at h; simp [h])))⟩

/-- A destructive march leaves its region zero, and the rest of both memories (R437). -/
theorem march_zeroes (hp : w.preserving = false) (s : State) :
    (w.mem = 1 → (marchRestore s w).spm.mem = s.spm.mem ∧ ∀ a, memByte (marchRestore s w).drc.mem a =
      if 64 * w.start ≤ a ∧ a < 64 * (w.start + w.len) then 0 else memByte s.drc.mem a) ∧
    (w.mem = 0 → (marchRestore s w).drc.mem = s.drc.mem ∧ ∀ a, memByte (marchRestore s w).spm.mem a =
      if 8 * w.start ≤ a ∧ a < 8 * (w.start + w.len) then 0 else memByte s.spm.mem a) := by
  have cleaned := trackerOnly_regionCleaned s w
  have spm : (regionCleaned s w).spm = s.spm := cleaned.1 .spm (by simp)
  have drc : (regionCleaned s w).drc = s.drc := cleaned.1 .drc (by simp)
  rw [marchRestore_destructive hp]
  refine ⟨fun h => ?_, fun h => ?_⟩
  · rw [if_pos h]
    exact ⟨by rw [spm], fun a => by rw [memByte_bytesCut, drc]⟩
  · rw [if_neg (by omega), if_neg (by omega)]
    exact ⟨by rw [drc], fun a => by rw [memByte_bytesCut, spm]⟩

theorem march_goes_on (ha : awake s = true) (hm : s.intg.march = some w) (h : s.intg.marchStep < marchTotal w) :
    Ends (.marchDone fails) s fun t => Only [] [] s t := by
  refine ends_of (core_marchDone fails ha) ?_
  rw [marchDone_early hm h]
  exact only_finish s s

theorem march_ends (ha : awake s = true) (hm : s.intg.march = some w) (h : marchTotal w ≤ s.intg.marchStep) :
    Ends (.marchDone fails) s fun t =>
      t.intg.march = none ∧ flag t Reg.intEvt 5 = true ∧ progOn t Reg.intMarchProg = false ∧
      (fails = [] → rd t Reg.intMarchStat = 1 * 2 ^ 30) ∧
      (∀ a rest, fails = a :: rest → (if w.mem = 1 then 8 * w.start else w.start) ≤ a →
        a < (if w.mem = 1 then 8 * (w.start + w.len) else w.start + w.len) →
        rd t Reg.intMarchStat = 2 * 2 ^ 30 ∧ rd t Reg.intMarchFail = a % 2 ^ 64) ∧
      (w.preserving = true → marchFlips s w = [] → t.drc.mem = s.drc.mem ∧ t.spm.mem = s.spm.mem) ∧
      (w.preserving = true → (∀ a, w.mem ≠ 1 ∨ a < 64 * w.start ∨ 64 * (w.start + w.len) ≤ a →
          memByte t.drc.mem a = memByte s.drc.mem a) ∧
        (∀ a, w.mem ≠ 0 ∨ a < 8 * w.start ∨ 8 * (w.start + w.len) ≤ a → memByte t.spm.mem a = memByte s.spm.mem a)) ∧
      (w.preserving = false → w.mem = 1 → t.spm.mem = s.spm.mem ∧ ∀ a, memByte t.drc.mem a =
        if 64 * w.start ≤ a ∧ a < 64 * (w.start + w.len) then 0 else memByte s.drc.mem a) ∧
      (w.preserving = false → w.mem = 0 → t.drc.mem = s.drc.mem ∧ ∀ a, memByte t.spm.mem a =
        if 8 * w.start ≤ a ∧ a < 8 * (w.start + w.len) then 0 else memByte s.spm.mem a) ∧
      keepsUnits [.intg, .drc, .spm] s t := by
  refine ends_of (core_marchDone fails ha) ?_
  have later := marchDone_restored (fails := fails) hm h
  have result : ∃ u, marchDone s fails = setEvt (marchReported u w (failing w fails)) Reg.intEvt 5 := ⟨_, marchDone_late hm h⟩
  obtain ⟨u, hu⟩ := result
  have reg {o : Nat} (hb : o < Reg.hstPcieCnt 0 0) (hne : o ≠ Reg.intEvt) :
      rd (finish s (marchDone s fails)) o = rd (marchReported u w (failing w fails)) o := by
    rw [rd_finish_below s hb, hu, rd_setEvt_ne _ _ hne]
  have event : flag (finish s (marchDone s fails)) Reg.intEvt 5 = true := by
    rw [flag_congr (rd_finish_below s (belowCounts_of_lt (by decide))), hu, flag_setEvt_same _ _ _ (by decide)]
  generalize finish s (marchDone s fails) = t at later reg event ⊢
  have spm : t.spm = (marchRestore (marchOver s) w).spm := later.1 .spm (by simp)
  have drc : t.drc = (marchRestore (marchOver s) w).drc := later.1 .drc (by simp)
  obtain ⟨engine, units⟩ := march_units (marchOver s) w
  refine ⟨engine.trans later.2, event, ?_, fun hf => ?_, fun a rest hf hlo hhi => ?_, fun hp hc => ?_,
    fun hp => ⟨fun a ha => ?_, fun a ha => ?_⟩, fun hp hmem => ?_, fun hp hmem => ?_, fun x hx => ?_⟩
  · rw [progOn_congr (reg (by decide) (by decide)), progOn_marchReported]
  · rw [reg (by decide) (by decide), hf]
    exact rd_marchReported_pass u w
  · have first : failing w fails = a :: failing w rest := by
      rw [hf, failing, List.filter_cons, if_pos]
      · rfl
      · simp only [Bool.and_eq_true, decide_eq_true_eq]
        refine ⟨hlo, ?_⟩
        by_cases h1 : w.mem = 1
        · rw [if_pos h1] at hhi ⊢
          rw [if_pos h1]
          omega
        · rw [if_neg h1] at hhi ⊢
          rwa [if_neg h1]
    rw [reg (by decide) (by decide), reg (by decide) (by decide), first]
    exact rd_marchReported_fail u w a _
  · rw [spm, drc, marchRestore_clean hp (by exact hc)]
    exact ⟨rfl, rfl⟩
  · rw [drc, (outsideWords_preserved hp (marchOver s)).drc a (by
      by_cases h1 : w.mem = 1
      · rw [regionLo, regionHi, if_pos h1, if_pos h1]
        omega
      · exact .inl h1)]
    rfl
  · rw [spm, (outsideWords_preserved hp (marchOver s)).spm a (by
      by_cases h0 : w.mem = 0
      · rw [regionLo, regionHi, if_neg (by omega), if_neg (by omega)]
        omega
      · exact .inl h0)]
    rfl
  · rw [spm, drc]
    exact (march_zeroes hp (marchOver s)).1 hmem
  · rw [spm, drc]
    exact (march_zeroes hp (marchOver s)).2 hmem
  · have freed : x.same s (marchOver s) := (only_setIntg (s := s) _).1 x (fun h => hx (by simp at h; simp [h]))
    exact x.same_trans (x.same_trans freed (units x hx)) (later.1 x (fun h => hx (by simp at h; simp [h])))

end Done

/-- Settles O46. Each unit's commands by themselves: a copied page (`memByte_copyPage`), the walker's visit (`wordVisit_spec`),
the march's blocker and its region (`OutsideWords`, `march_zeroes`). -/
theorem repairMarchAndFlipCommandsActAsTold : Obligations.RepairMarchAndFlipCommandsActAsTold := by
  unfold Obligations.RepairMarchAndFlipCommandsActAsTold
  intro s ha
  refine ⟨fun m v hw hv => ⟨fun hfree hok => page_retired hw hv hfree hok, fun hbad => page_refused hw hv hbad⟩,
    fun e r h hr => copy_ends ha h hr, fun m v hw => ⟨fun hok => blocks_retired hw hok, fun hbad => blocks_refused hw hbad⟩,
    fun m v hw => record_cleared hw, fun m v hw => flip_armed hw, fun mem cell k a hk haddr => ⟨fun hoff => word_left ha hoff,
      fun hon hg hc hidle hgap => word_visited ha hk haddr hon hg hc hidle hgap⟩,
    fun m v w hw hv hg hm => ⟨fun hp => march_busy hw hv hg hp, fun hp hx hshape => march_goes hw hv hg hm hp hx hshape⟩,
    fun fails w hm h => march_goes_on ha hm h, fun fails w hm h => march_ends ha hm h⟩

end Sys2Proof.Machine
end

section
namespace Sys2Proof.Machine

/-! ### A welt port climbs to UP (R376, R378, R385–R387) -/

section Climb
variable {s t : State} {k : Nat} {x : WPort}

/-- Every welt port but `k` is unchanged. -/
def wportsBut (k : Nat) (s t : State) : Prop := ∀ j, j ≠ k → wport t j = wport s j

theorem wportsBut_setWport (s : State) (k : Nat) (x : WPort) : wportsBut k s (setWport s k x) :=
  fun _ hj => wport_setWport_ne s x hj

/-- An event and a count leave the ports' records as they are. -/
@[simp] theorem wport_wevt (s : State) (k b j : Nat) : wport (wevt s k b) j = wport s j :=
  wport_congr ((only_wevt s k b).1 .wlt (by simp)) j

@[simp] theorem wport_wlcnt (s : State) (k i n j : Nat) : wport (wlcnt s k i n) j = wport s j :=
  wport_congr ((only_wlcnt s k i n).1 .wlt (by simp)) j

@[simp] theorem wport_finish (s t : State) (j : Nat) : wport (finish s t) j = wport t j :=
  wport_congr (finish_wlt s t) j

theorem belowCounts_wltEvt (hk : k < 2) : belowCounts (Reg.wltEvt k) := belowCounts_of_lt (by
  simp only [Reg.wltEvt]
  omega)

theorem belowCounts_wltCnt {i : Nat} (hk : k < 2) (hi : i < 12) : belowCounts (Reg.wltCnt k i) := belowCounts_of_lt (by
  simp only [Reg.wltCnt]
  omega)

/-- The event that a step has latched on a port stands after the command. -/
theorem flag_finish_wevt (s t : State) {b : Nat} (hk : k < 2) (hb : b < 64) :
    flag (finish s (wevt t k b)) (Reg.wltEvt k) b = true := by
  rw [flag_congr (rd_finish_below _ (belowCounts_wltEvt hk))]
  exact flag_setEvt_same t _ _ hb

/-- A port's record is written and an event latched: no more than that port and its event register move. -/
theorem only_setWport_wevt (s : State) (k : Nat) (x : WPort) (b : Nat) :
    Only [.wlt] [Reg.wltEvt k] s (wevt (setWport s k x) k b) :=
  ((only_setWport s k x).trans (only_wevt _ k b)).mono (by simp) (by simp)

theorem weltLockGain_seek {lanes : Nat} (hs : (wport s k).state = 1) (hl : (wport s k).lanes ||| lanes = 15) :
    weltLockGain s k lanes = setWport s k { wport s k with
      lanes := 15
      state := 2
      since := s.cycle
      parts := 0
      acks := 0
      trains := 0
      acked := false
      trainTx := 0
      cause := 0 } := by
  simp [weltLockGain, hs, hl]

theorem deskewDone_deskew (hs : (wport s k).state = 2) :
    deskewDone s k = setWport s k { wport s k with state := 3 } := by
  simp [deskewDone, hs]

/-- What a valid TRAIN block of part 1 leaves of its port while the identity check agrees. -/
def trainedOne (ack : Bool) (x : WPort) : WPort :=
  { x with
    acks := if ack then x.acks + 1 else 0
    trains := x.trains + 1
    acked := x.acked || decide (8 ≤ if ack then x.acks + 1 else 0)
    parts := x.parts ||| 2 }

theorem weltTrain_agrees {ack : Bool} {v : Nat} (hs : (wport s k).state = 3) (hv : v = rd s Reg.imgId / 2 ^ 32) :
    weltTrain s k 1 ack 1 v = setWport s k (trainedOne ack (wport s k)) := by
  simp [weltTrain, hs, hv, b2n, trainedOne]

theorem weltTrain_differs {ack : Bool} {v : Nat} (hs : (wport s k).state = 3) (hv : v ≠ rd s Reg.imgId / 2 ^ 32) :
    weltTrain s k 1 ack 1 v = wevt (setWport s k { trainedOne ack (wport s k) with
      state := 6
      since := s.cycle
      cause := 8 }) k 2 := by
  have cause : 8 * b2n (decide (v ≠ rd s Reg.imgId / 2 ^ 32)) = 8 := by rw [decide_eq_true hv]; rfl
  simp only [weltTrain, hs, cause, trainedOne, ne_eq, not_true_eq_false, if_false, one_ne_zero, if_true, and_false,
    OfNat.ofNat_ne_zero, OfNat.one_ne_ofNat, pow_one]

theorem weltTrainFail_due (hs : (wport s k).state = 2 ∨ (wport s k).state = 3) (hd : (wport s k).since + 1600000 ≤ s.cycle) :
    weltTrainFail s k = wevt (setWport s k { wport s k with
      state := 1
      since := s.cycle }) k 4 :=
  if_pos ⟨hs, hd⟩

/-! The handshake completes: a port with fresh credits, queues and sequence numbers. -/

/-- The port as it enters UP (R382, R385). -/
def upPort (now mlDelay : Nat) (x : WPort) : WPort :=
  { WPort.off with
    state := 4
    since := now
    lanes := x.lanes
    nPos := x.nPos
    nCount := x.nCount
    nRole := x.nRole
    cntHi := x.cntHi
    mlDelay := mlDelay
    lastCredit := now
    creditAt := now }

/-- The slot counter is loaded from the upstream neighbour's training (R387). -/
def slotLoaded (s : State) (cntHi ago : Nat) : State :=
  { s with wlt := { s.wlt with
    slot := (cntHi * 2048 + 16 + 2 * ago) % 2 ^ 32
    slotOn := true } }

/-- What is left to do of a port that enters UP: the delay exchange and the marker begin, the event, the ledger (R402). -/
def upEntered (s : State) (k : Nat) (y : WPort) : State :=
  auditBridge (wevt (markFrom (dlyReset (setWport s k y) (32 + k)) (32 + k)) k 0) k

variable {ml ago : Nat}

theorem weltUp_downstream (hs : (wport s 1).state = 3) (hp : (wport s 1).parts = 7) (ha : (wport s 1).acked = true)
    (ht : 16 ≤ (wport s 1).trainTx) : weltUp s 1 ml ago = upEntered s 1 (upPort s.cycle 0 (wport s 1)) := by
  simp [weltUp, hs, hp, ha, ht, upEntered, upPort]

theorem weltUp_upstream (hs : (wport s 0).state = 3) (hp : (wport s 0).parts = 7) (ha : (wport s 0).acked = true)
    (ht : 16 ≤ (wport s 0).trainTx) (hm : ml ≤ 8) :
    weltUp s 0 ml ago = upEntered (slotLoaded s (wport s 0).cntHi ago) 0 (upPort s.cycle ml (wport s 0)) := by
  simp [weltUp, hs, hp, ha, ht, Nat.not_lt.2 hm, upEntered, upPort, slotLoaded]

theorem weltUp_untrained (hs : (wport s 0).state = 3) (hp : (wport s 0).parts = 7) (ha : (wport s 0).acked = true)
    (ht : 16 ≤ (wport s 0).trainTx) (hm : 8 < ml) :
    weltUp s 0 ml ago = wevt (setWport s 0 { wport s 0 with
      state := 1
      since := s.cycle
      mlDelay := ml }) 0 4 := by
  simp [weltUp, hs, hp, ha, ht, hm]

/-- What follows the port's own record on its way to UP: the record, the slot counter and the event stand. -/
theorem only_upEntered (s : State) (k : Nat) (y : WPort) :
    Only [.mil] (Reg.wltEvt k :: ledgerRegs) (setWport s k y) (upEntered s k y) :=
  ((((only_dlyReset _ _).trans (only_markFrom _ _)).trans (only_wevt _ k 0)).trans (only_auditBridge _ k)).mono (by simp) (by simp)

theorem wport_upEntered (s : State) (k : Nat) (y : WPort) : wport (upEntered s k y) k = y := by
  rw [wport_congr ((only_upEntered s k y).1 .wlt (by simp)), wport_setWport_same]

theorem slot_upEntered (s : State) (k : Nat) (y : WPort) :
    (upEntered s k y).wlt.slot = s.wlt.slot ∧ (upEntered s k y).wlt.slotOn = s.wlt.slotOn := by
  rw [(only_upEntered s k y).1 .wlt (by simp)]
  exact ⟨rfl, rfl⟩

theorem wltEvt_not_ledger (hk : k < 2) : Reg.wltEvt k ∉ ledgerRegs := by
  obtain rfl | rfl : k = 0 ∨ k = 1 := by omega
  all_goals decide

theorem flag_upEntered (s : State) (y : WPort) (hk : k < 2) : flag (upEntered s k y) (Reg.wltEvt k) 0 = true := by
  rw [upEntered, flag_congr ((only_auditBridge _ k).rd_eq (belowCounts_wltEvt hk) (wltEvt_not_ledger hk))]
  exact flag_setEvt_same _ _ _ (by decide)

theorem only_entersUp (s : State) (k : Nat) (y : WPort) :
    Only [.wlt, .mil] (Reg.wltEvt k :: ledgerRegs) s (upEntered s k y) :=
  ((only_setWport s k y).trans (only_upEntered s k y)).mono (by simp) (by simp)

theorem only_slotLoaded (s : State) (cntHi ago : Nat) : Only [.wlt] [] s (slotLoaded s cntHi ago) :=
  only_setWlt s _

end Climb

end Sys2Proof.Machine
end

section
namespace Sys2Proof.Machine

/-! ### A welt port leaves UP or RECOVER (R385, R388, R400, R403, R404) -/

section Leave
variable {s t u : State} {k : Nat}

/-- The other links keep their state and a port that does not send keeps its record, as a frame fails at this device. -/
structure FailsFrame (s t : State) : Prop where
  only : Only [.wlt, .brg] (bridgeRegs ++ (List.range 4).map Reg.brgRrdStat) s t
  link : ∀ j, SameLink (wport s j) (wport t j)
  idle : ∀ j, (wport s j).sends = false → wport t j = wport s j

theorem FailsFrame.refl (s : State) : FailsFrame s s := ⟨Only.refl _ _ s, fun _ => SameLink.refl _, fun _ _ => rfl⟩

theorem FailsFrame.trans (h : FailsFrame s t) (g : FailsFrame t u) : FailsFrame s u :=
  ⟨h.only.next g.only, fun j => (h.link j).trans (g.link j), fun j hj =>
    (g.idle j (by rw [(h.link j).sends, hj])).trans (h.idle j hj)⟩

/-- A step that does not touch the welt. -/
theorem Only.failsFrame {rs : List Nat} (h : Only [.brg] rs s t)
    (hr : rs ⊆ bridgeRegs ++ (List.range 4).map Reg.brgRrdStat) : FailsFrame s t := by
  have ports (j : Nat) : wport t j = wport s j := wport_congr (h.1 .wlt (by simp)) j
  exact ⟨h.mono (by simp) hr, fun j => by rw [ports]; exact SameLink.refl _, fun j _ => ports j⟩

/-- A frame is handed to a port that is up, and to no other. -/
theorem failsFrame_queueTo {f : BFrame} (h : pathUp s f = true) : FailsFrame s (queueTo s f) := by
  refine ⟨(only_setWport s _ _).mono (by simp) (by simp), sameLink_queueTo s f, fun j hj => ?_⟩
  refine wport_setWport_ne s _ fun e => ?_
  rw [pathUp, ← e, hj] at h
  cases h

theorem failsFrame_failRead (s : State) (r : BRead) (code : Nat) : FailsFrame s (failRead s r code) := by
  have ended : Only [.brg] (bridgeRegs ++ (List.range 4).map Reg.brgRrdStat) s
      (setEvt (bump { s with brg := { s.brg with reads := s.brg.reads.filter (fun x => x.wsn ≠ r.wsn) } } (Reg.brgCnt 6) 1)
        Reg.brgEvt 1) :=
    (((only_setBrg s _).mono (List.Subset.refl _) (by simp)).bump 1 (List.mem_append_left _ (brgCnt_mem (by decide)))).setEvt 1
      (by simp [bridgeRegs])
  refine Only.failsFrame (rs := bridgeRegs ++ (List.range 4).map Reg.brgRrdStat) ?_ (List.Subset.refl _)
  unfold failRead
  dsimp only
  split
  · next h => exact ended.wr _ (List.mem_append_right _ (List.mem_map.2 ⟨r.set, List.mem_range.2 h, rfl⟩))
  · exact ended

theorem failsFrame_bridgeFail (s : State) (f : BFrame) (code : Nat) : FailsFrame s (bridgeFail s f code) := by
  have logged : FailsFrame s (logWrFail s f code (myPos s)) :=
    ((only_logWrFail s f code (myPos s)).mono (by simp) (List.Subset.refl _)).failsFrame (List.subset_append_left _ _)
  unfold bridgeFail
  split
  · split
    · exact logged
    · split
      · next up => exact failsFrame_queueTo up
      · exact FailsFrame.refl s
  · split
    · split
      · split
        · exact failsFrame_failRead s _ code
        · exact FailsFrame.refl s
      · split
        · next up => exact failsFrame_queueTo up
        · exact FailsFrame.refl s
    · exact FailsFrame.refl s

theorem failsFrame_foldl (l : List BFrame) (s : State) : FailsFrame s (l.foldl (fun st f => bridgeFail st f 5) s) := by
  induction l generalizing s with
  | nil => exact FailsFrame.refl s
  | cons f l ih => exact (failsFrame_bridgeFail s f 5).trans (ih _)

/-! The departure itself. -/

/-- The port with nothing queued, in its next state. -/
def leftPort (now next : Nat) (x : WPort) : WPort :=
  { x with
    state := next
    since := now
    keyq := []
    ansq := []
    waitq := []
    out := []
    rsv := 0 }

/-- The departure is latched and counted, the delay exchange begins again. -/
def departed (s : State) (k next : Nat) : State :=
  dlyReset (wlcnt (wevt (setWport s k (leftPort s.cycle next (wport s k))) k 1) k 9 1) (32 + k)

/-- The frames that the port held fail with LINK. -/
def departedFailed (s : State) (k next : Nat) : State :=
  ((wport s k).out.map (fun e => e.f) ++ (wport s k).waitq).foldl (fun st f => bridgeFail st f 5) (departed s k next)

theorem weltLeave_eq (s : State) (k next : Nat) : weltLeave s k next =
    if k = 0 ∧ (departedFailed s k next).mil.src = 5 ∧ ((departedFailed s k next).mil.state = 1 ∨
      (departedFailed s k next).mil.state = 2) then sourceLost (departedFailed s k next) else departedFailed s k next := rfl

theorem only_weltLeave_end (s : State) (k next : Nat) :
    Only [.mil] [Reg.milEvt] (departedFailed s k next) (weltLeave s k next) := by
  rw [weltLeave_eq]
  exact (only_sourceLost _).ite (Only.refl _ _ _)

theorem only_departed (s : State) (k next : Nat) :
    Only [.wlt, .mil] [Reg.wltEvt k, Reg.wltCnt k 9] s (departed s k next) :=
  ((((only_setWport s k _).trans (only_wevt _ k 1)).trans (only_wlcnt _ k 9 1)).trans (only_dlyReset _ _)).mono (by simp) (by simp)

theorem wport_departed (s : State) (k next j : Nat) :
    wport (departed s k next) j = wport (setWport s k (leftPort s.cycle next (wport s k))) j := by
  rw [departed, wport_congr ((only_dlyReset _ _).1 .wlt (by simp)), wport_wlcnt, wport_wevt]

theorem only_weltLeave (s : State) (k next : Nat) : Only [.wlt, .mil, .brg]
    ([Reg.wltEvt k, Reg.wltCnt k 9] ++ (bridgeRegs ++ (List.range 4).map Reg.brgRrdStat) ++ [Reg.milEvt]) s (weltLeave s k next) :=
  (((only_departed s k next).trans (failsFrame_foldl _ _).only).trans (only_weltLeave_end s k next)).mono (by simp)
    (List.Subset.refl _)

/-- The registers in which the lost frames and the lost source are recorded. -/
def lossRegs : List Nat := bridgeRegs ++ (List.range 4).map Reg.brgRrdStat ++ [Reg.milEvt]

theorem only_weltLeave_after (s : State) (k next : Nat) : Only [.wlt, .brg, .mil] lossRegs (departed s k next) (weltLeave s k next) :=
  ((failsFrame_foldl _ _).only.trans (only_weltLeave_end s k next)).mono (by simp) (List.Subset.refl _)

theorem wport_weltLeave (s : State) (k next j : Nat) : wport (weltLeave s k next) j = wport (departedFailed s k next) j :=
  wport_congr ((only_weltLeave_end s k next).1 .wlt (by simp)) j

/-- The port itself has nothing queued; frames that fail are handed to ports that are up only. -/
theorem wport_weltLeave_same (s : State) (k : Nat) {next : Nat} (h : next < 4) :
    wport (weltLeave s k next) k = leftPort s.cycle next (wport s k) := by
  have left : wport (departed s k next) k = leftPort s.cycle next (wport s k) := by rw [wport_departed, wport_setWport_same]
  have down : (leftPort s.cycle next (wport s k)).sends = false := by
    show (decide (next = 4) || decide (next = 5)) = false
    simp only [Bool.or_eq_false_iff, decide_eq_false_iff_not]
    omega
  rw [wport_weltLeave, departedFailed, (failsFrame_foldl _ _).idle k (by rw [left, down]), left]

theorem sameLink_weltLeave (s : State) (next : Nat) {j : Nat} (h : j ≠ k) :
    SameLink (wport s j) (wport (weltLeave s k next) j) := by
  have kept := (failsFrame_foldl ((wport s k).out.map (fun e => e.f) ++ (wport s k).waitq) (departed s k next)).link j
  rw [wport_departed, wport_setWport_ne _ _ h] at kept
  rw [wport_weltLeave]
  exact kept

theorem welt_not_loss (hk : k < 2) : Reg.wltEvt k ∉ lossRegs ∧ Reg.wltCnt k 9 ∉ lossRegs := by
  obtain rfl | rfl : k = 0 ∨ k = 1 := by omega
  all_goals decide

theorem flag_weltLeave (s : State) (next : Nat) (hk : k < 2) : flag (weltLeave s k next) (Reg.wltEvt k) 1 = true := by
  have counted : rd (departed s k next) (Reg.wltEvt k) =
      rd (wevt (setWport s k (leftPort s.cycle next (wport s k))) k 1) (Reg.wltEvt k) :=
    ((only_wlcnt _ k 9 1).trans (only_dlyReset _ _)).rd_eq (belowCounts_wltEvt hk)
      (by simp only [List.append_nil, List.mem_singleton, Reg.wltEvt, Reg.wltCnt]; omega)
  rw [flag_congr ((only_weltLeave_after s k next).rd_eq (belowCounts_wltEvt hk) (welt_not_loss hk).1), flag_congr counted]
  exact flag_setEvt_same _ _ _ (by decide)

theorem count_weltLeave (s : State) (next : Nat) (hk : k < 2) :
    rd (weltLeave s k next) (Reg.wltCnt k 9) = (rd s (Reg.wltCnt k 9) + 1) % 2 ^ 48 := by
  have here : belowCounts (Reg.wltCnt k 9) := belowCounts_wltCnt hk (by decide)
  have before : rd (wevt (setWport s k (leftPort s.cycle next (wport s k))) k 1) (Reg.wltCnt k 9) = rd s (Reg.wltCnt k 9) :=
    ((only_setWport_wevt s k _ 1)).rd_eq here
      (by simp only [List.mem_singleton, Reg.wltEvt, Reg.wltCnt]; omega)
  rw [(only_weltLeave_after s k next).rd_eq here (welt_not_loss hk).2, departed,
    (only_dlyReset _ _).rd_eq here (by simp), wlcnt, rd_bump_same, before]

/-! A port goes to SEEK or OFF from any state. -/

/-- The port has left UP or RECOVER, if it was there. -/
def leftIfUp (s : State) (k next : Nat) : State := if (wport s k).sends then weltLeave s k next else s

theorem weltDown_eq (s : State) (k next : Nat) : weltDown s k next = setWport (leftIfUp s k next) k
    { wport (leftIfUp s k next) k with
      state := next
      since := s.cycle
      lanes := if next = 0 then 0 else (wport (leftIfUp s k next) k).lanes } := rfl

theorem only_leftIfUp (s : State) (k next : Nat) : Only [.wlt, .mil, .brg]
    ([Reg.wltEvt k, Reg.wltCnt k 9] ++ (bridgeRegs ++ (List.range 4).map Reg.brgRrdStat) ++ [Reg.milEvt]) s (leftIfUp s k next) :=
  (only_weltLeave s k next).ite (Only.refl _ _ s)

theorem keepsUnits_weltDown (s : State) (k next : Nat) : keepsUnits [.wlt, .mil, .brg] s (weltDown s k next) :=
  (Only.more (only_leftIfUp s k next) (only_setWport _ k _) (by simp) (by simp)).1

theorem weltDown_other (s : State) (next : Nat) {j : Nat} (h : j ≠ k) :
    (wport (weltDown s k next) j).state = (wport s j).state := by
  rw [weltDown_eq, wport_setWport_ne _ _ h, leftIfUp]
  split
  · exact (sameLink_weltLeave s next h).state
  · rfl

theorem weltDown_seek (s : State) (k : Nat) : (wport (weltDown s k 1) k).state = 1 ∧
    (wport (weltDown s k 1) k).since = s.cycle ∧ (wport (weltDown s k 1) k).lanes = (wport s k).lanes := by
  rw [weltDown_eq, wport_setWport_same]
  refine ⟨rfl, rfl, ?_⟩
  simp only [one_ne_zero, if_false, leftIfUp]
  split
  · rw [wport_weltLeave_same s k (by decide)]
    rfl
  · rfl

/-- From UP and RECOVER the queues are emptied. -/
theorem weltDown_empties (h : (wport s k).sends = true) : (wport (weltDown s k 1) k).out = [] ∧
    (wport (weltDown s k 1) k).keyq = [] ∧ (wport (weltDown s k 1) k).ansq = [] := by
  rw [weltDown_eq, wport_setWport_same, leftIfUp, if_pos h, wport_weltLeave_same s k (by decide)]
  exact ⟨rfl, rfl, rfl⟩

theorem rd_weltDown (h : (wport s k).sends = true) (o : Nat) : rd (weltDown s k 1) o = rd (weltLeave s k 1) o := by
  rw [weltDown_eq, leftIfUp, if_pos h]
  exact rd_congr (by simp) o

/-! What brings a port down. -/

theorem fifteen_sub_and (lost : BitVec 4) (h : lost.toNat ≠ 0) : 15 - (15 &&& lost.toNat) ≠ 15 := by
  revert lost
  decide

theorem weltLockLoss_down {lost : BitVec 4} (hs : (wport s k).sends = true) (hl : (wport s k).lanes = 15)
    (h : lost.toNat ≠ 0) : weltLockLoss s k lost.toNat =
      weltDown (setWport s k { wport s k with lanes := 15 - (15 &&& lost.toNat) }) k 1 := by
  simp only [weltLockLoss, hs, hl]
  exact if_pos ⟨trivial, Or.inl (fifteen_sub_and lost h)⟩

theorem recoverTimeout_down (hs : (wport s k).state = 5) (h : (wport s k).since + 8000 ≤ s.cycle) :
    recoverTimeout s k = weltDown s k 1 := if_pos ⟨hs, h⟩

end Leave

end Sys2Proof.Machine
end

section
namespace Sys2Proof.Machine

/-! ### RESTART of a welt port (R385, R404) -/

section Restart
variable {s : State} {k : Nat}

theorem regRow_wltCtrl : ∀ k : Fin 2, regRow (Reg.wltCtrl k.val) =
    some ⟨"WLT_CTRL", 0xE0000, 2, 256, 1, 256, false, [fld 31 31 .wo 0, fld 0 0 .rwl 0]⟩ := by decide +kernel

/-- WLT_CTRL as a write leaves it: RESTART does not stay. -/
def weltCtrlWritten (s : State) (c k v : Nat) : State := fput (commitFields s c (Reg.wltCtrl k) v) (Reg.wltCtrl k) 31 31 0

theorem only_weltCtrlWritten (s : State) (c k v : Nat) :
    Only [] (Reg.wltCtrl k :: errRegs) s (weltCtrlWritten s c k v) := (only_commitFields s c _ v).fput _ _ _ (by simp)

theorem wport_weltCtrlWritten (s : State) (c k v j : Nat) : wport (weltCtrlWritten s c k v) j = wport s j :=
  wport_congr ((only_weltCtrlWritten s c k v).1 .wlt (by simp)) j

theorem cycle_weltCtrlWritten (s : State) (c k v : Nat) : (weltCtrlWritten s c k v).cycle = s.cycle := by
  rw [weltCtrlWritten, fput_cycle, cycle_commitFields]

/-- EN written 1 over EN 1 stays, whether or not the register is locked (R10). -/
theorem enabled_weltCtrlWritten (k : Fin 2) (c : Nat) {v : Nat} (h : flag s (Reg.wltCtrl k.val) 0 = true)
    (hv : bitOf v 0 = true) : flag (weltCtrlWritten s c k.val v) (Reg.wltCtrl k.val) 0 = true := by
  have clear : Reg.wltCtrl k.val ∉ errRegs := (by decide : ∀ k : Fin 2, Reg.wltCtrl k.val ∉ errRegs) k
  have one : bitsOf v 0 0 = 1 := by rw [bitsOf_single, hv]; rfl
  rw [weltCtrlWritten, flag_fput_apart _ _ (by decide) (by decide) (Or.inl (by decide)), flag,
    rd_commitFields (regRow_wltCtrl k) clear, bitOf_mod _ (by decide)]
  cases locked s with
  | false =>
    simp [fieldsWrite, Field.write, Field.allows, fld, one, bitOf_putBits]
    rfl
  | true =>
    simpa [fieldsWrite, Field.write, Field.allows, fld, bitOf_putBits, Nat.mod_one, flag] using h

theorem weltEnApply_enabled (h : flag s (Reg.wltCtrl k) 0 = true) : weltEnApply s k =
    if (wport s k).state = 0 ∧ s.img.applied then setWport s k { wport s k with
      state := 1
      since := s.cycle } else s := by
  rw [weltEnApply, if_pos h]

/-- A RESTART with EN 1: of the written register's state, no more than the ports, the time base and the bridge change. -/
structure Restarts (k : Nat) (s t : State) : Prop where
  off : (wport s k).state = 0 → s.img.applied = false → wport t k = wport s k
  seek : (wport s k).state ≠ 0 → (wport t k).state = 1 ∧ (wport t k).since = s.cycle ∧ (wport t k).lanes = (wport s k).lanes
  other : ∀ j, j ≠ k → (wport t j).state = (wport s j).state
  units : keepsUnits [.wlt, .mil, .brg] s t

theorem restarts_on (h : (wport s k).state ≠ 0) : Restarts k s (weltDown s k 1) :=
  ⟨fun e => absurd e h, fun _ => weltDown_seek s k, fun _ => weltDown_other s 1, keepsUnits_weltDown s k 1⟩

theorem restarts_applied (ap : s.img.applied = true) (h : (wport s k).state = 0) :
    Restarts k s (weltRestart (setWport s k { wport s k with
      state := 1
      since := s.cycle }) k) := by
  rw [weltRestart, wport_setWport_same, if_neg Nat.one_ne_zero]
  refine ⟨fun _ e => ?_, fun e => absurd h e, fun j hj => ?_, fun u hu => ?_⟩
  · rw [ap] at e
    cases e
  · rw [weltDown_other _ 1 hj, wport_setWport_ne _ _ hj]
  · exact u.same_trans ((only_setWport s k _).1 u (fun e => hu (by simp_all))) (keepsUnits_weltDown _ k 1 u hu)

/-- A port that is off stays so before apply, else it goes to SEEK; from any other state it goes there. -/
theorem restarts (en : flag s (Reg.wltCtrl k) 0 = true) : Restarts k s (weltRestart (weltEnApply s k) k) := by
  rw [weltEnApply_enabled en]
  by_cases off : (wport s k).state = 0
  · by_cases ap : s.img.applied = true
    · rw [if_pos ⟨off, ap⟩]
      exact restarts_applied ap off
    · rw [if_neg (fun e => ap e.2), weltRestart, if_pos off]
      exact ⟨fun _ _ => rfl, fun e => absurd off e, fun _ _ => rfl, (Only.refl _ [] s).1⟩
  · rw [if_neg (fun e => off e.1), weltRestart, if_neg off]
    exact restarts_on off

theorem weltCtrlWrite_restart {c v : Nat} (hv : bitOf v 31 = true) :
    weltCtrlWrite s c k v = weltRestart (weltEnApply (weltCtrlWritten s c k v) k) k := if_pos hv

end Restart

end Sys2Proof.Machine
end

section
namespace Sys2Proof.Machine

/-! ### The welt port's training and its falls, command by command -/

section LinkCommands
variable {s : State} {k : Fin 2}

theorem lockGain_ends (lanes : BitVec 4) (ha : awake s = true) (hs : (wport s k.val).state = 1)
    (hl : (wport s k.val).lanes ||| lanes.toNat = 15) : Ends (.weltLockGain k lanes) s fun t =>
      wport t k.val = { wport s k.val with
        lanes := 15
        state := 2
        since := s.cycle
        parts := 0
        acks := 0
        trains := 0
        acked := false
        trainTx := 0
        cause := 0 } ∧ (∀ j, j ≠ k.val → wport t j = wport s j) ∧ Only [.wlt] [] s t := by
  refine ends_of (core_weltLockGain k lanes ha) ?_
  rw [weltLockGain_seek hs hl]
  refine ⟨by rw [wport_finish, wport_setWport_same], fun j hj => ?_, (only_setWport s _ _).finished⟩
  rw [wport_finish, wport_setWport_ne _ _ hj]

theorem deskew_ends (ha : awake s = true) (hs : (wport s k.val).state = 2) : Ends (.deskewDone k) s fun t =>
    wport t k.val = { wport s k.val with state := 3 } ∧ (∀ j, j ≠ k.val → wport t j = wport s j) ∧ Only [.wlt] [] s t := by
  refine ends_of (core_deskewDone k ha) ?_
  rw [deskewDone_deskew hs]
  refine ⟨by rw [wport_finish, wport_setWport_same], fun j hj => ?_, (only_setWport s _ _).finished⟩
  rw [wport_finish, wport_setWport_ne _ _ hj]

/-- A TRAIN block of part 1: what the block counts stands in both outcomes of the identity check. -/
theorem train_ends (ack : Bool) (v : BitVec 32) (ha : awake s = true) (hs : (wport s k.val).state = 3) :
    Ends (.weltTrainReceive k 1 ack 1 v) s fun t =>
      (wport t k.val).acks = (if ack then (wport s k.val).acks + 1 else 0) ∧
      (wport t k.val).parts = (wport s k.val).parts ||| 2 ∧ (wport t k.val).trains = (wport s k.val).trains + 1 ∧
      (wport t k.val).acked = ((wport s k.val).acked || decide (8 ≤ (wport t k.val).acks)) ∧
      (v.toNat = rd s Reg.imgId / 2 ^ 32 → (wport t k.val).state = 3 ∧ Only [.wlt] [] s t) ∧
      (v.toNat ≠ rd s Reg.imgId / 2 ^ 32 → (wport t k.val).state = 6 ∧ (wport t k.val).cause = 8 ∧
        flag t (Reg.wltEvt k.val) 2 = true ∧ Only [.wlt] [Reg.wltEvt k.val] s t) ∧
      (∀ j, j ≠ k.val → wport t j = wport s j) := by
  refine ends_of (core_weltTrainReceive k 1 ack 1 v ha) ?_
  by_cases hv : v.toNat = rd s Reg.imgId / 2 ^ 32
  · rw [show weltTrain s k.val (1 : BitVec 8).toNat ack (1 : Fin 3).val v.toNat = _ from weltTrain_agrees hs hv]
    simp only [wport_finish, wport_setWport_same]
    refine ⟨rfl, rfl, rfl, rfl, fun _ => ⟨hs, (only_setWport s _ _).finished⟩, fun e => absurd hv e, fun j hj => ?_⟩
    exact wport_setWport_ne _ _ hj
  · rw [show weltTrain s k.val (1 : BitVec 8).toNat ack (1 : Fin 3).val v.toNat = _ from weltTrain_differs hs hv]
    simp only [wport_finish, wport_wevt, wport_setWport_same]
    refine ⟨rfl, rfl, rfl, rfl, fun e => absurd e hv, fun _ => ⟨trivial, trivial, ?_, ?_⟩, fun j hj => ?_⟩
    · exact flag_finish_wevt s _ k.isLt (by decide)
    · exact (only_setWport_wevt s _ _ 2).finished
    · exact wport_setWport_ne _ _ hj

theorem trainFail_ends (ha : awake s = true) (hs : (wport s k.val).state = 2 ∨ (wport s k.val).state = 3)
    (hd : (wport s k.val).since + 1600000 ≤ s.cycle) : Ends (.weltTrainFail k) s fun t =>
      wport t k.val = { wport s k.val with
        state := 1
        since := s.cycle } ∧ flag t (Reg.wltEvt k.val) 4 = true ∧ Only [.wlt] [Reg.wltEvt k.val] s t := by
  refine ends_of (core_weltTrainFail k ha) ?_
  rw [weltTrainFail_due hs hd]
  exact ⟨by rw [wport_finish, wport_wevt, wport_setWport_same], flag_finish_wevt s _ k.isLt (by decide),
    (only_setWport_wevt s _ _ 4).finished⟩

theorem upDownstream_ends (ml : BitVec 4) (ago : Nat) (ha : awake s = true) (hs : (wport s 1).state = 3)
    (hp : (wport s 1).parts = 7) (hk : (wport s 1).acked = true) (ht : 16 ≤ (wport s 1).trainTx) :
    Ends (.weltUp 1 ml ago) s fun t => wport t 1 = upPort s.cycle 0 (wport s 1) ∧ flag t (Reg.wltEvt 1) 0 = true ∧
      t.wlt.slot = s.wlt.slot ∧ Only [.wlt, .mil] (Reg.wltEvt 1 :: ledgerRegs) s t := by
  refine ends_of (core_weltUp 1 ml ago ha) ?_
  rw [show weltUp s (1 : Fin 2).val ml.toNat ago = _ from weltUp_downstream hs hp hk ht]
  refine ⟨by rw [wport_finish, wport_upEntered], ?_, ?_, (only_entersUp s 1 _).finished⟩
  · rw [flag_congr (rd_finish_below _ (belowCounts_wltEvt (by decide)))]
    exact flag_upEntered s _ (by decide)
  · rw [finish_wlt]
    exact (slot_upEntered s 1 _).1

/-- The upstream port: with the match lines trained it enters UP with the slot counter loaded, else it falls back. -/
theorem upUpstream_ends (ml : BitVec 4) (ago : Nat) (ha : awake s = true) (hs : (wport s 0).state = 3)
    (hp : (wport s 0).parts = 7) (hk : (wport s 0).acked = true) (ht : 16 ≤ (wport s 0).trainTx) :
    Ends (.weltUp 0 ml ago) s fun t =>
      (ml.toNat ≤ 8 → (wport t 0).state = 4 ∧ (wport t 0).mlDelay = ml.toNat ∧ t.wlt.slotOn = true ∧
        t.wlt.slot = ((wport s 0).cntHi * 2048 + 16 + 2 * ago) % 2 ^ 32 ∧ flag t (Reg.wltEvt 0) 0 = true) ∧
      (8 < ml.toNat → (wport t 0).state = 1 ∧ flag t (Reg.wltEvt 0) 4 = true) ∧
      Only [.wlt, .mil] (Reg.wltEvt 0 :: ledgerRegs) s t := by
  refine ends_of (core_weltUp 0 ml ago ha) ?_
  by_cases hm : ml.toNat ≤ 8
  · rw [show weltUp s (0 : Fin 2).val ml.toNat ago = _ from weltUp_upstream hs hp hk ht hm]
    have only := (only_slotLoaded s (wport s 0).cntHi ago).trans
      (only_entersUp (slotLoaded s (wport s 0).cntHi ago) 0 (upPort s.cycle ml.toNat (wport s 0)))
    refine ⟨fun _ => ?_, fun e => absurd hm (Nat.not_le.2 e), (only.mono (by simp) (by simp)).finished⟩
    rw [wport_finish, wport_upEntered, finish_wlt, (slot_upEntered _ 0 _).1, (slot_upEntered _ 0 _).2,
      flag_congr (rd_finish_below _ (belowCounts_wltEvt (by decide)))]
    exact ⟨rfl, rfl, rfl, rfl, flag_upEntered _ _ (by decide)⟩
  · rw [show weltUp s (0 : Fin 2).val ml.toNat ago = _ from weltUp_untrained hs hp hk ht (Nat.not_le.1 hm)]
    refine ⟨fun e => absurd e hm, fun _ => ⟨?_, flag_finish_wevt s _ (by decide) (by decide)⟩,
      ((only_setWport_wevt s 0 _ 4).mono (by simp) (by simp)).finished⟩
    rw [wport_finish, wport_wevt, wport_setWport_same]

/-! The falls. -/

theorem other_port (k : Fin 2) : 1 - k.val ≠ k.val := by
  have := k.isLt
  omega

theorem keepsUnits_finish {t : State} {us : List UnitName} (h : keepsUnits us s t) : keepsUnits us s (finish s t) :=
  fun u hu => u.same_trans (h u hu) ((only_finish s t).1 u (by simp))

theorem lockLoss_ends (lanes : BitVec 4) (ha : awake s = true) (hs : (wport s k.val).sends = true)
    (hl : (wport s k.val).lanes = 15) (h : lanes.toNat ≠ 0) : Ends (.weltLockLoss k lanes) s fun t =>
      (wport t k.val).state = 1 ∧ (wport t k.val).out = [] ∧ (wport t k.val).keyq = [] ∧ (wport t k.val).ansq = [] ∧
      flag t (Reg.wltEvt k.val) 1 = true ∧
      rd t (Reg.wltCnt k.val 9) = (rd s (Reg.wltCnt k.val 9) + 1) % 2 ^ 48 ∧
      (wport t (1 - k.val)).state = (wport s (1 - k.val)).state ∧ keepsUnits [.wlt, .mil, .brg] s t := by
  refine ends_of (core_weltLockLoss k lanes ha) ?_
  rw [weltLockLoss_down hs hl h]
  obtain ⟨u, hu⟩ : ∃ u, u = setWport s k.val { wport s k.val with lanes := 15 - (15 &&& lanes.toNat) } := ⟨_, rfl⟩
  rw [← hu]
  have lost : Only [.wlt] [] s u := by
    rw [hu]
    exact only_setWport s _ _
  have up : (wport u k.val).sends = true := by
    rw [hu, wport_setWport_same]
    exact hs
  obtain ⟨noOut, noKeys, noAns⟩ := weltDown_empties up
  have count := belowCounts_wltCnt (i := 9) k.isLt (by decide)
  simp only [wport_finish]
  refine ⟨(weltDown_seek u k.val).1, noOut, noKeys, noAns, ?_, ?_, ?_, keepsUnits_finish fun w hw => ?_⟩
  · rw [flag_congr (rd_finish_below _ (belowCounts_wltEvt k.isLt)), flag_congr (rd_weltDown up _)]
    exact flag_weltLeave u 1 k.isLt
  · rw [rd_finish_below _ count, rd_weltDown up, count_weltLeave u 1 k.isLt, lost.rd_eq count (by simp)]
  · rw [weltDown_other u 1 (other_port k), hu, wport_setWport_ne _ _ (other_port k)]
  · exact w.same_trans (lost.1 w (fun e => hw (by simp_all))) (keepsUnits_weltDown u _ 1 w hw)

theorem recoverTimeout_ends (ha : awake s = true) (hs : (wport s k.val).state = 5)
    (h : (wport s k.val).since + 8000 ≤ s.cycle) : Ends (.recoverTimeout k) s fun t =>
      (wport t k.val).state = 1 ∧ (wport t k.val).out = [] ∧
      (wport t (1 - k.val)).state = (wport s (1 - k.val)).state ∧ keepsUnits [.wlt, .mil, .brg] s t := by
  refine ends_of (core_recoverTimeout k ha) ?_
  have up : (wport s k.val).sends = true := by simp [WPort.sends, hs]
  rw [recoverTimeout_down hs h]
  simp only [wport_finish]
  exact ⟨(weltDown_seek s k.val).1, (weltDown_empties up).1, weltDown_other s 1 (other_port k),
    keepsUnits_finish (keepsUnits_weltDown s _ 1)⟩

theorem restart_ends {m : Requester} (v : BitVec 32) (hw : mayWrite s m (Reg.wltCtrl k.val) 4 = true)
    (en : flag s (Reg.wltCtrl k.val) 0 = true) (h0 : bitOf v.toNat 0 = true) (h31 : bitOf v.toNat 31 = true) :
    Ends (.weltRestart m k v) s fun t =>
      ((wport s k.val).state = 0 ∧ s.img.applied = false → wport t k.val = wport s k.val) ∧
      ((wport s k.val).state ≠ 0 → (wport t k.val).state = 1 ∧ (wport t k.val).since = s.cycle ∧
        (wport t k.val).lanes = (wport s k.val).lanes) ∧
      (wport t (1 - k.val)).state = (wport s (1 - k.val)).state ∧ keepsUnits [.wlt, .mil, .brg] s t := by
  refine ends_of (exec_weltRestart k v hw) ?_
  rw [weltCtrlWrite_restart h31]
  have ctrl : belowCounts (Reg.wltCtrl k.val) := belowCounts_of_lt (by
    simp only [Reg.wltCtrl]
    omega)
  have counted : flag (portCount s m) (Reg.wltCtrl k.val) 0 = true :=
    (flag_congr ((only_portCount s m).rd_eq ctrl (not_mem_portRegs ctrl)) 0).trans en
  have went := restarts (enabled_weltCtrlWritten (s := portCount s m) k m.code counted h0)
  have cyc : (weltCtrlWritten (portCount s m) m.code k.val v.toNat).cycle = s.cycle := by
    rw [cycle_weltCtrlWritten, portCount_cycle]
  have only : Only [] (portRegs m ++ (Reg.wltCtrl k.val :: errRegs)) s (weltCtrlWritten (portCount s m) m.code k.val v.toNat) :=
    (only_portCount s m).trans (only_weltCtrlWritten _ _ _ _)
  have ports (j : Nat) : wport (weltCtrlWritten (portCount s m) m.code k.val v.toNat) j = wport s j :=
    wport_congr (only.1 .wlt (by simp)) j
  have img : (weltCtrlWritten (portCount s m) m.code k.val v.toNat).img = s.img := only.1 .img (by simp)
  have off := went.off
  have seek := went.seek
  have other := went.other _ (other_port k)
  simp only [ports, img, cyc] at off seek other
  simp only [wport_finish]
  exact ⟨fun h => off h.1 h.2, seek, other, keepsUnits_finish fun u hu => u.same_trans (only.1 u (by simp)) (went.units u hu)⟩

end LinkCommands

/-- Settles O43: each command's effect on its port is an equation, and a frame that fails with the link is handed only to a
port that is up, so the port that has left keeps nothing. -/
theorem weltLinkTrainsAndFallsBack : Obligations.WeltLinkTrainsAndFallsBack := by
  intro s k x hx
  subst hx
  refine ⟨fun lanes ha hs hl => lockGain_ends lanes ha hs hl, fun ha hs => deskew_ends ha hs,
    fun ack v ha hs => train_ends ack v ha hs, fun ml ago ha hk hs hp hack ht => ?_, fun ml ago ha hk hs hp hack ht => ?_,
    fun ha hs hd => trainFail_ends ha hs hd, fun lanes ha hs hl h => lockLoss_ends lanes ha hs hl h,
    fun m v hw en h0 h31 => restart_ends v hw en h0 h31, fun ha hs h => recoverTimeout_ends ha hs h⟩
  · obtain rfl : k = 1 := Fin.ext hk
    exact upDownstream_ends ml ago ha hs hp hack ht
  · obtain rfl : k = 0 := Fin.ext hk
    exact upUpstream_ends ml ago ha hs hp hack ht

end Sys2Proof.Machine
end

section
namespace Sys2Proof.Machine

/-! ### CREDIT blocks, recovery and resends (R382, R383, R388, R400) -/

section Counts

theorem nat_setNat_same (m : KMap Nat) (c v : Nat) : (m.setNat c v).nat c = v := KMap.get_set_same _ _ _ _

theorem nat_setNat_ne (m : KMap Nat) {c d : Nat} (v : Nat) (h : d ≠ c) : (m.setNat c v).nat d = m.nat d :=
  KMap.get_set_ne _ _ _ h

/-- Counts set one after the other, each from its own place. -/
theorem nat_foldl_setNat (g : Nat → Nat) (l : List Nat) (m : KMap Nat) (c : Nat) :
    (l.foldl (fun m c => m.setNat c (g c)) m).nat c = if c ∈ l then g c else m.nat c := by
  induction l generalizing m with
  | nil => simp
  | cons d l ih =>
    rw [List.foldl_cons, ih]
    by_cases h : c ∈ l
    · simp [h]
    · by_cases e : c = d
      · subst e
        simp [h]
      · simp [h, e, nat_setNat_ne]

theorem nat_counts (g : Nat → Nat) (m : KMap Nat) {c : Nat} (h : c < 5) :
    ((List.range 5).foldl (fun m c => m.setNat c (g c)) m).nat c = g c := by
  rw [nat_foldl_setNat, if_pos (List.mem_range.2 h)]

end Counts

section Credit
variable {s t : State} {k : Nat}

/-! A CREDIT block leaves. -/

/-- The count that a port tells of a class: the last one told while the regulator holds the class (R355). -/
def tellCount (s : State) (k c : Nat) : Nat :=
  if heldM s (if c ≤ 1 then 32 + k else 47) false then (wport s k).told.nat c else (wport s k).freed.nat c

theorem toTell_freed {c : Nat} (h : c < 5) : (toTell s k).freed.nat c = tellCount s k c :=
  nat_counts (tellCount s k) _ h

/-- The port after its CREDIT block. -/
def toldPort (s : State) (k : Nat) : WPort :=
  { wport s k with
    told := (List.range 5).foldl (fun m c => m.setNat c ((toTell s k).freed.nat c)) ((wport s k).told.setNat 5 (wport s k).expSeq)
    creditAt := s.cycle }

/-- The CREDIT block that leaves. -/
def creditBlock (s : State) (k : Nat) (nak : Bool) : Out := .weltCtl k 0x33 (withChk 0x33 (creditPayload (toTell s k) nak))

theorem creditOut_eq (s : State) (k : Nat) (nak : Bool) : creditOut s k nak =
    { setWport s k (toldPort s k) with out := s.out ++ [creditBlock s k nak] } := rfl

theorem only_creditOut (s : State) (k : Nat) (nak : Bool) : Only [.wlt] [] s (creditOut s k nak) := by
  rw [creditOut_eq]
  exact (only_setWport s k _).trans (only_setOut _ _)

theorem wport_creditOut (s : State) (k : Nat) (nak : Bool) : wport (creditOut s k nak) k = toldPort s k := by
  rw [creditOut_eq]
  exact wport_setWport_same s k _

theorem mem_out_creditOut (s : State) (k : Nat) (nak : Bool) : creditBlock s k nak ∈ (creditOut s k nak).out := by
  rw [creditOut_eq]
  exact List.mem_append_right _ (List.mem_singleton.2 rfl)

theorem told_toldPort {c : Nat} (h : c < 5) : (toldPort s k).told.nat c = tellCount s k c :=
  (nat_counts (fun c => (toTell s k).freed.nat c) _ h).trans (toTell_freed h)

/-! A framing error. -/

/-- The port in RECOVER. -/
def inRecovery (s : State) (k : Nat) : State := setWport s k { wport s k with
  state := 5
  since := s.cycle }

/-- Whether the port receives or recovers is nothing to the counts it tells. -/
theorem creditBlock_recovering (s : State) (k : Nat) (nak : Bool) : creditBlock (inRecovery s k) k nak = creditBlock s k nak := by
  have tells (c : Nat) : tellCount (inRecovery s k) k c = tellCount s k c := by
    rw [tellCount, tellCount, show wport (inRecovery s k) k = _ from wport_setWport_same s k _]
    rfl
  have freed (c : Nat) (h : c < 5) : (toTell (inRecovery s k) k).freed.nat c = (toTell s k).freed.nat c := by
    rw [toTell_freed h, toTell_freed h, tells]
  have seq : (toTell (inRecovery s k) k).expSeq = (toTell s k).expSeq := by
    show (wport (inRecovery s k) k).expSeq = (wport s k).expSeq
    rw [inRecovery, wport_setWport_same]
  simp only [creditBlock, creditPayload, freed, seq, Nat.reduceLT]

theorem framingError_eq (h : (wport s k).state = 4) :
    framingError s k = wlcnt (wevt (creditOut (inRecovery s k) k true) k 3) k 6 1 := if_neg (not_not.2 h)

theorem only_framingError (s : State) (k : Nat) : Only [.wlt] [Reg.wltEvt k, Reg.wltCnt k 6] s (framingError s k) := by
  unfold framingError
  dsimp only
  split
  · exact Only.refl _ _ s
  · exact ((((only_setWport s k _).trans (only_creditOut _ k true)).trans (only_wevt _ k 3)).trans (only_wlcnt _ k 6 1)).mono
      (by simp) (by simp)

theorem wport_framingError (h : (wport s k).state = 4) : wport (framingError s k) k = toldPort (inRecovery s k) k := by
  rw [framingError_eq h, wport_wlcnt, wport_wevt, wport_creditOut]

/-- In RECOVER: what the port sends is as before. -/
theorem toldPort_recovering (s : State) (k : Nat) : (toldPort (inRecovery s k) k).state = 5 ∧
    (toldPort (inRecovery s k) k).since = s.cycle ∧ (toldPort (inRecovery s k) k).out = (wport s k).out := by
  have here : wport (inRecovery s k) k = _ := wport_setWport_same s k _
  simp only [toldPort, here]
  exact ⟨trivial, trivial, trivial⟩

/-! Resends. -/

/-- One frame is sent again. -/
def resendOne (k : Nat) (s : State) (e : OutEnt) : State :=
  wlcnt (wlcnt (sendFrame s k (brgHeader e.f (e.lseq.getD 0)) (brgPayload e.f)) k 4 1) k 5 1

/-- The resend timer begins again. -/
def resendBegun (s : State) (k : Nat) : State := setWport s k { wport s k with ackAt := s.cycle }

theorem resendAll_eq (s : State) (k : Nat) : resendAll s k =
    ((wport s k).out.filter (fun e => e.lseq.isSome)).foldl (resendOne k) (resendBegun s k) := rfl

theorem only_resendOne (k : Nat) (s : State) (e : OutEnt) : Only [] [Reg.wltCnt k 4, Reg.wltCnt k 5] s (resendOne k s e) :=
  (((only_sendFrame s k _ _).trans (only_wlcnt _ k 4 1)).trans (only_wlcnt _ k 5 1)).mono (by simp) (by simp)

theorem only_resent (k : Nat) (l : List OutEnt) (s : State) :
    Only [] [Reg.wltCnt k 4, Reg.wltCnt k 5] s (l.foldl (resendOne k) s) := only_foldl _ (only_resendOne k) l s

theorem only_resendAll (s : State) (k : Nat) : Only [.wlt] [Reg.wltCnt k 4, Reg.wltCnt k 5] s (resendAll s k) := by
  rw [resendAll_eq]
  exact ((only_setWport s k _).trans (only_resent k _ _)).mono (by simp) (by simp)

theorem wport_resendAll (s : State) (k j : Nat) : wport (resendAll s k) j = wport (resendBegun s k) j := by
  rw [resendAll_eq]
  exact wport_congr ((only_resent k _ _).1 .wlt (by simp)) j

theorem out_resendOne (k : Nat) (s : State) (e : OutEnt) : ∃ h,
    (resendOne k s e).out = s.out ++ [.weltFrame k h (brgPayload e.f)] := by
  refine ⟨_, Eq.trans (b := (sendFrame s k (brgHeader e.f (e.lseq.getD 0)) (brgPayload e.f)).out) ?_ rfl⟩
  rw [resendOne, wlcnt, wlcnt, bump_out, bump_out]

theorem mem_out_resent {o : Out} (k : Nat) (l : List OutEnt) (h : o ∈ s.out) : o ∈ (l.foldl (resendOne k) s).out := by
  induction l generalizing s with
  | nil => exact h
  | cons e l ih =>
    obtain ⟨hdr, he⟩ := out_resendOne k s e
    exact ih (by rw [he]; exact List.mem_append_left _ h)

theorem mem_out_resendAll {o : Out} (k : Nat) (h : o ∈ s.out) : o ∈ (resendAll s k).out := mem_out_resent k _ h

/-- Every frame among those to be resent leaves again. -/
theorem resent_leaves (k : Nat) {l : List OutEnt} {e : OutEnt} (he : e ∈ l) (s : State) :
    ∃ h, Out.weltFrame k h (brgPayload e.f) ∈ (l.foldl (resendOne k) s).out := by
  obtain ⟨before, after_, rfl⟩ := List.append_of_mem he
  rw [List.foldl_append, List.foldl_cons]
  obtain ⟨hdr, sent⟩ := out_resendOne k (before.foldl (resendOne k) s) e
  exact ⟨hdr, mem_out_resent k after_ (by rw [sent]; exact List.mem_append_right _ (List.mem_singleton.2 rfl))⟩

end Credit

end Sys2Proof.Machine
end

section
namespace Sys2Proof.Machine

/-! ### The commands of credit and recovery -/

section CreditCommands
variable {s t : State} {k : Fin 2}

theorem creditSend_due (hs : (wport s k.val).sends = true) (hd : (wport s k.val).creditAt + 1600 ≤ s.cycle) :
    creditSend s k.val = creditOut s k.val false := if_pos ⟨hs, Or.inr hd⟩

theorem only_creditSend (s : State) (k : Nat) : Only [.wlt] [] s (creditSend s k) :=
  (only_creditOut s k false).ite (Only.refl _ _ s)

theorem creditSend_idle (hs : (wport s k.val).sends = false) : creditSend s k.val = s :=
  if_neg (by simp [hs])

theorem creditSend_ends (ha : awake s = true) : Ends (.creditSend k) s fun t =>
    ((wport s k.val).sends = true → (wport s k.val).creditAt + 1600 ≤ s.cycle →
      (wport t k.val).creditAt = s.cycle ∧ creditBlock s k.val false ∈ t.out ∧
      (∀ c, c < 5 → (wport t k.val).told.nat c = tellCount s k.val c) ∧ (wport t k.val).freed = (wport s k.val).freed) ∧
    ((wport s k.val).sends = false → wport t k.val = wport s k.val) ∧ Only [.wlt] [] s t := by
  refine ends_of (core_creditSend k ha) ⟨fun hs hd => ?_, fun hs => ?_, (only_creditSend s k.val).finished⟩
  · rw [creditSend_due hs hd, wport_finish, wport_creditOut]
    exact ⟨rfl, mem_out_finish s (mem_out_creditOut s k.val false), fun c hc => told_toldPort hc, rfl⟩
  · rw [creditSend_idle hs, wport_finish]

theorem framingError_ends (ha : awake s = true) (hs : (wport s k.val).state = 4) : Ends (.weltFramingError k) s fun t =>
    (wport t k.val).state = 5 ∧ (wport t k.val).since = s.cycle ∧ flag t (Reg.wltEvt k.val) 3 = true ∧
    rd t (Reg.wltCnt k.val 6) = (rd s (Reg.wltCnt k.val 6) + 1) % 2 ^ 48 ∧ (wport t k.val).out = (wport s k.val).out ∧
    creditBlock s k.val true ∈ t.out ∧ Only [.wlt] [Reg.wltEvt k.val, Reg.wltCnt k.val 6] s t := by
  refine ends_of (core_weltFramingError k ha) ?_
  obtain ⟨state, since, out⟩ := toldPort_recovering s k.val
  have evt := belowCounts_wltEvt k.isLt
  have cnt := belowCounts_wltCnt (i := 6) k.isLt (by decide)
  have apart : Reg.wltCnt k.val 6 ≠ Reg.wltEvt k.val := by
    simp only [Reg.wltCnt, Reg.wltEvt]
    omega
  refine ⟨?_, ?_, ?_, ?_, ?_, ?_, (only_framingError s k.val).finished⟩
  · rw [wport_finish, wport_framingError hs, state]
  · rw [wport_finish, wport_framingError hs, since]
  · rw [framingError_eq hs, flag_congr (rd_finish_below _ evt),
      flag_congr ((only_wlcnt _ k.val 6 1).rd_eq evt (by simpa using apart.symm))]
    exact flag_setEvt_same _ _ _ (by decide)
  · have before : rd (wevt (creditOut (inRecovery s k.val) k.val true) k.val 3) (Reg.wltCnt k.val 6) = rd s (Reg.wltCnt k.val 6) :=
      (((only_setWport s k.val _).trans (only_creditOut _ k.val true)).trans (only_wevt _ k.val 3)).rd_eq cnt (by simpa using apart)
    rw [framingError_eq hs, rd_finish_below _ cnt, wlcnt, rd_bump_same, before]
  · rw [wport_finish, wport_framingError hs, out]
  · rw [framingError_eq hs, ← creditBlock_recovering]
    refine mem_out_finish s ?_
    rw [wlcnt, bump_out, wevt, setEvt_out]
    exact mem_out_creditOut _ _ _

/-! RESUME. -/

/-- What was lost of a class between the counts sent and received (R388). -/
def lostCount (sent rcvd : Nat) : Nat := (sent + 128 - rcvd % 128) % 128

/-- The port back in UP, the entries of what was lost free. -/
def resumedPort (ks an : Nat) (x : WPort) : WPort :=
  { x with
    state := 4
    rcvd := (x.rcvd.setNat 0 (x.rcvd.nat 0 + lostCount ks (x.rcvd.nat 0))).setNat 1
      (x.rcvd.nat 1 + lostCount an (x.rcvd.nat 1))
    freed := (x.freed.setNat 0 (x.freed.nat 0 + lostCount ks (x.rcvd.nat 0))).setNat 1
      (x.freed.nat 1 + lostCount an (x.rcvd.nat 1)) }

theorem resumeReceive_eq {k : Nat} {ks an : Nat} (h : (wport s k).state = 5) : resumeReceive s k ks an =
    wlcnt (wlcnt (setWport s k (resumedPort ks an (wport s k))) k 7 (lostCount ks ((wport s k).rcvd.nat 0))) k 8
      (lostCount an ((wport s k).rcvd.nat 1)) := if_neg (not_not.2 h)

theorem resume_ends (ks an : BitVec 7) (ha : awake s = true) (hs : (wport s k.val).state = 5) : Ends (.resume k ks an) s fun t =>
    (wport t k.val).state = 4 ∧
    (wport t k.val).freed.nat 0 = (wport s k.val).freed.nat 0 + (ks.toNat + 128 - (wport s k.val).rcvd.nat 0 % 128) % 128 ∧
    (wport t k.val).freed.nat 1 = (wport s k.val).freed.nat 1 + (an.toNat + 128 - (wport s k.val).rcvd.nat 1 % 128) % 128 ∧
    (wport t k.val).out = (wport s k.val).out ∧ Only [.wlt] [Reg.wltCnt k.val 7, Reg.wltCnt k.val 8] s t := by
  refine ends_of (core_resume k ks an ha) ?_
  rw [resumeReceive_eq hs]
  have only := (((only_setWport s k.val (resumedPort ks.toNat an.toNat (wport s k.val))).trans
    (only_wlcnt _ k.val 7 (lostCount ks.toNat ((wport s k.val).rcvd.nat 0)))).trans
    (only_wlcnt _ k.val 8 (lostCount an.toNat ((wport s k.val).rcvd.nat 1)))).finished
  simp only [wport_finish, wport_wlcnt, wport_setWport_same, resumedPort]
  refine ⟨trivial, ?_, nat_setNat_same _ _ _, trivial, only⟩
  rw [nat_setNat_ne _ _ (by decide)]
  exact nat_setNat_same _ _ _

/-! Resends. -/

theorem bridgeResend_due {k : Nat} (hs : (wport s k).sends = true) (ho : ∃ e ∈ (wport s k).out, e.lseq.isSome = true)
    (hd : (wport s k).ackAt + 12800 ≤ s.cycle) : bridgeResend s k = resendAll s k :=
  if_pos ⟨hs, List.any_eq_true.2 ho, hd⟩

theorem resend_ends (ha : awake s = true) (hs : (wport s k.val).sends = true)
    (ho : ∃ e ∈ (wport s k.val).out, e.lseq.isSome = true) (hd : (wport s k.val).ackAt + 12800 ≤ s.cycle) :
    Ends (.bridgeResend k) s fun t =>
      (∀ e ∈ (wport s k.val).out, e.lseq.isSome = true → ∃ h, Out.weltFrame k.val h (brgPayload e.f) ∈ t.out) ∧
      wport t k.val = { wport s k.val with ackAt := s.cycle } ∧ Only [.wlt] [Reg.wltCnt k.val 4, Reg.wltCnt k.val 5] s t := by
  refine ends_of (core_bridgeResend k ha) ?_
  rw [bridgeResend_due hs ho hd]
  refine ⟨fun e he hl => ?_, ?_, (only_resendAll s k.val).finished⟩
  · have awaited : e ∈ (wport s k.val).out.filter (fun e => e.lseq.isSome) := List.mem_filter.2 ⟨he, hl⟩
    obtain ⟨hdr, sent⟩ := resent_leaves k.val awaited (resendBegun s k.val)
    exact ⟨hdr, mem_out_finish s (by rw [resendAll_eq]; exact sent)⟩
  · rw [wport_finish, wport_resendAll, resendBegun, wport_setWport_same]

end CreditCommands

/-! ### A CREDIT block is received (R383, R388, R400) -/

section CreditReceived
variable {s : State} {k : Nat}

theorem out_auditBridgeOne (s : State) (k c : Nat) (inbound : Bool) : (auditBridgeOne s k c inbound).out = s.out := by
  have fault (i j a b c d : Nat) : (ledgerFault s i j a b c d).out = s.out := by
    unfold ledgerFault
    split <;> simp
  unfold auditBridgeOne
  dsimp only
  rw [apply_ite State.out, fault, ite_self]

theorem out_auditBridge (s : State) (k : Nat) : (auditBridge s k).out = s.out := by
  simp [auditBridge, out_auditBridgeOne]

/-- A port with nothing to send but what awaits its acknowledgement stays as it is. -/
theorem portPump_idle (hk : (wport s k).keyq = []) (ha : (wport s k).ansq = []) (hw : (wport s k).waitq = [])
    (ho : ∀ e ∈ (wport s k).out, e.lseq.isSome = true) : portPump s k = s := by
  have still : admitted s k = s := if_pos hw
  have unsent : (wport s k).out.filter (fun e => e.lseq.isNone) = [] :=
    List.filter_eq_nil_iff.2 fun e he => by simpa [Option.isSome_iff_ne_none] using ho e he
  have next : nextBridge (wport s k) = none := by simp [nextBridge, unsent]
  have stop : sendOne s k = none := by
    unfold sendOne
    simp [hk, ha, next]
  rw [portPump_eq, still]
  cases (wport s k).keyq.length + (wport s k).ansq.length + (wport s k).out.length with
  | zero => rfl
  | succ n => rw [sendAll, stop]

/-- The entries that an acknowledgement leaves. -/
def unacked (x : WPort) (ack : Nat) : List OutEnt :=
  x.out.filter (fun e => match e.lseq with
    | some n => !ackCovers x.nextSeq ack n
    | none => true)

/-- The counts that a CREDIT block told. -/
def countsHeard (m : KMap Nat) (key ans p np cpl : Nat) : KMap Nat :=
  ((((m.setNat 0 key).setNat 1 ans).setNat 2 p).setNat 3 np).setNat 4 cpl

/-- The port after a CREDIT block has been noted. -/
def creditedPort (now key ans p np cpl ack : Nat) (x : WPort) : WPort :=
  { x with
    lastCredit := now
    peerFreed := countsHeard x.peerFreed key ans p np cpl
    out := unacked x ack
    ackAt := if (unacked x ack).length < x.out.length then now else x.ackAt }

/-- The RESUME block that answers a NAK (R388). -/
def resumeBlock (k : Nat) (x : WPort) : Out :=
  .weltCtl k 0x99 (withChk 0x99 (x.sent.nat 0 % 128 * 2 ^ 49 + x.sent.nat 1 % 128 * 2 ^ 42))

/-- A NAK is answered with RESUME and every frame outstanding. -/
def nakAnswered (s : State) (k : Nat) : State :=
  resendAll { s with out := s.out ++ [resumeBlock k (wport s k)] } k

/-- The block is noted, and its NAK, if any, answered. -/
def creditNoted (s : State) (k : Nat) (nak : Bool) (x : WPort) : State :=
  if nak then nakAnswered (setWport s k x) k else setWport s k x

theorem creditReceive_eq {key ans p np cpl ack : Nat} {nak : Bool} (hs : (wport s k).sends = true) :
    creditReceive s k key ans p np cpl ack nak =
      portPump (auditBridge (creditNoted s k nak (creditedPort s.cycle key ans p np cpl ack (wport s k))) k) k := by
  have run : ¬ (wport s k).sends = false := by simp [hs]
  exact if_neg run

/-- What follows the port's record: frames are resent, the ledger checked, and the port moves. -/
theorem only_nakAnswered (s : State) (k : Nat) : Only [.wlt] [Reg.wltCnt k 4, Reg.wltCnt k 5] s (nakAnswered s k) :=
  ((only_setOut _ _).trans (only_resendAll _ k)).mono (by simp) (by simp)

theorem sameLink_nakAnswered (s : State) (k : Nat) : SameLink (wport s k) (wport (nakAnswered s k) k) := by
  rw [nakAnswered, wport_resendAll, resendBegun, wport_setWport_same]
  exact ⟨rfl, rfl, rfl, rfl, rfl⟩

theorem sameLink_creditNoted (s : State) (k : Nat) (nak : Bool) (x : WPort) : SameLink x (wport (creditNoted s k nak x) k) := by
  cases nak with
  | false =>
    rw [show creditNoted s k false x = setWport s k x from rfl, wport_setWport_same]
    exact SameLink.refl x
  | true =>
    have kept := sameLink_nakAnswered (setWport s k x) k
    rw [wport_setWport_same] at kept
    exact kept

theorem only_creditNoted (s : State) (k : Nat) (nak : Bool) (x : WPort) :
    Only [.wlt] [Reg.wltCnt k 4, Reg.wltCnt k 5] s (creditNoted s k nak x) := by
  have noted : Only [.wlt] [Reg.wltCnt k 4, Reg.wltCnt k 5] s (setWport s k x) :=
    (only_setWport s k x).mono (by simp) (by simp)
  exact (noted.next (only_nakAnswered _ k)).ite noted

theorem mem_out_creditNoted (s : State) (k : Nat) (x : WPort) : resumeBlock k x ∈ (creditNoted s k true x).out := by
  have here : wport (setWport s k x) k = x := wport_setWport_same s k x
  refine mem_out_resendAll k (List.mem_append_right _ (List.mem_singleton.2 ?_))
  rw [here]

theorem heard_nat (m : KMap Nat) (key ans p np cpl : Nat) :
    (countsHeard m key ans p np cpl).nat 0 = key ∧ (countsHeard m key ans p np cpl).nat 1 = ans ∧
    (countsHeard m key ans p np cpl).nat 2 = p ∧ (countsHeard m key ans p np cpl).nat 3 = np ∧
    (countsHeard m key ans p np cpl).nat 4 = cpl := by
  refine ⟨?_, ?_, ?_, ?_, nat_setNat_same _ _ _⟩
  · rw [countsHeard, nat_setNat_ne _ _ (by decide), nat_setNat_ne _ _ (by decide), nat_setNat_ne _ _ (by decide),
      nat_setNat_ne _ _ (by decide), nat_setNat_same]
  · rw [countsHeard, nat_setNat_ne _ _ (by decide), nat_setNat_ne _ _ (by decide), nat_setNat_ne _ _ (by decide),
      nat_setNat_same]
  · rw [countsHeard, nat_setNat_ne _ _ (by decide), nat_setNat_ne _ _ (by decide), nat_setNat_same]
  · rw [countsHeard, nat_setNat_ne _ _ (by decide), nat_setNat_same]

theorem credit_ends {k : Fin 2} (key ans : BitVec 7) (p : BitVec 5) (np cpl : BitVec 4) (ack : BitVec 12) (nak : Bool)
    (ha : awake s = true) (hs : (wport s k.val).sends = true) : Ends (.credit k key ans p np cpl ack nak) s fun t =>
      (wport t k.val).lastCredit = s.cycle ∧ (wport t k.val).peerFreed.nat 0 = key.toNat ∧
      (wport t k.val).peerFreed.nat 1 = ans.toNat ∧ (wport t k.val).peerFreed.nat 2 = p.toNat ∧
      (wport t k.val).peerFreed.nat 3 = np.toNat ∧ (wport t k.val).peerFreed.nat 4 = cpl.toNat ∧
      (nak = true → resumeBlock k.val (wport s k.val) ∈ t.out) ∧
      ((wport s k.val).keyq = [] → (wport s k.val).ansq = [] → (wport s k.val).waitq = [] →
        (∀ e ∈ (wport s k.val).out, e.lseq.isSome = true) → nak = false →
        (wport t k.val).out = unacked (wport s k.val) ack.toNat ∧ Only [.wlt] ledgerRegs s t) ∧
      keepsUnits [.wlt] s t := by
  refine ends_of (core_credit k key ans p np cpl ack nak ha) ?_
  rw [creditReceive_eq hs]
  obtain ⟨x, hx⟩ : ∃ x, x = creditedPort s.cycle key.toNat ans.toNat p.toNat np.toNat cpl.toNat ack.toNat (wport s k.val) := ⟨_, rfl⟩
  rw [← hx]
  have audited := only_auditBridge (creditNoted s k.val nak x) k.val
  have ports : wport (auditBridge (creditNoted s k.val nak x) k.val) k.val = wport (creditNoted s k.val nak x) k.val :=
    wport_congr (audited.1 .wlt (by simp)) k.val
  have pumped := pumps_portPump (auditBridge (creditNoted s k.val nak x) k.val) k.val
  have link : SameLink x (wport (portPump (auditBridge (creditNoted s k.val nak x) k.val) k.val) k.val) := by
    refine (sameLink_creditNoted s k.val nak x).trans ?_
    rw [← ports]
    exact pumped.link k.val
  have heard := heard_nat (wport s k.val).peerFreed key.toNat ans.toNat p.toNat np.toNat cpl.toNat
  rw [show countsHeard (wport s k.val).peerFreed key.toNat ans.toNat p.toNat np.toNat cpl.toNat = x.peerFreed by rw [hx]; rfl] at heard
  obtain ⟨h0, h1, h2, h3, h4⟩ := heard
  simp only [wport_finish, link.lastCredit, link.peerFreed]
  refine ⟨by rw [hx]; rfl, h0, h1, h2, h3, h4, fun hn => ?_, fun hk hans hw hout hn => ?_, ?_⟩
  · subst hn
    refine mem_out_finish s (pumped.out _ ?_)
    rw [out_auditBridge, show resumeBlock k.val (wport s k.val) = resumeBlock k.val x by rw [hx]; rfl]
    exact mem_out_creditNoted s k.val x
  · subst hn
    have here : wport (auditBridge (creditNoted s k.val false x) k.val) k.val = x :=
      ports.trans (wport_setWport_same s k.val x)
    have still : portPump (auditBridge (creditNoted s k.val false x) k.val) k.val = auditBridge (creditNoted s k.val false x) k.val := by
      refine portPump_idle ?_ ?_ ?_ ?_ <;> rw [here, hx]
      · exact hk
      · exact hans
      · exact hw
      · exact fun e he => hout e (List.mem_filter.1 he).1
    rw [still, here]
    refine ⟨by rw [hx]; rfl, Only.finished ?_⟩
    exact ((only_setWport s k.val x).trans audited).mono (by simp) (by simp)
  · exact keepsUnits_finish
      ((((only_creditNoted s k.val nak x).trans audited).trans pumped.only).mono (vs := [.wlt]) (by simp) (List.Subset.refl _)).1

end CreditReceived

end Sys2Proof.Machine
end

section
namespace Sys2Proof.Machine

/-! ### KEY and ANS frames at a device (R379, R382, R388, R390, R392, R394) -/

section Frames
variable {s t u : State} {o : Nat}

/-- What a search's steps leave of the frames received: each port's link, and the count `o` of frames. -/
structure KeepsReceipt (o : Nat) (s t : State) : Prop where
  link : ∀ j, SameLink (wport s j) (wport t j)
  count : rd t o = rd s o

theorem KeepsReceipt.refl (o : Nat) (s : State) : KeepsReceipt o s s := ⟨fun _ => SameLink.refl _, rfl⟩

theorem KeepsReceipt.trans (h : KeepsReceipt o s t) (g : KeepsReceipt o t u) : KeepsReceipt o s u :=
  ⟨fun j => (h.link j).trans (g.link j), g.count.trans h.count⟩

/-- The counts of KEY and ANS frames received (R406). -/
def receiptRegs : List Nat := [Reg.wltCnt 0 1, Reg.wltCnt 1 1, Reg.wltCnt 0 3, Reg.wltCnt 1 3]

variable (ho : o ∈ receiptRegs)

theorem receipt_mem {k : Nat} (hk : k < 2) : Reg.wltCnt k 1 ∈ receiptRegs ∧ Reg.wltCnt k 3 ∈ receiptRegs := by
  obtain rfl | rfl : k = 0 ∨ k = 1 := by omega
  all_goals decide

include ho in
theorem belowCounts_receipt : belowCounts o :=
  belowCounts_of_lt ((by decide : ∀ o ∈ receiptRegs, o < Reg.hstPcieCnt 0 0) o ho)

include ho in
/-- A step that touches neither the welt nor a count of frames. -/
theorem Only.keepsReceipt {us : List UnitName} {rs : List Nat} (h : Only us rs s t) (hu : UnitName.wlt ∉ us) (hr : o ∉ rs) :
    KeepsReceipt o s t := by
  refine ⟨fun j => ?_, h.rd_eq (belowCounts_receipt ho) hr⟩
  rw [wport_congr (h.1 .wlt hu)]
  exact SameLink.refl _

theorem sentRegs_not_receipt (k : Nat) {o : Nat} (ho : o ∈ receiptRegs) : o ∉ sentRegs k := by
  intro h
  simp only [receiptRegs, sentRegs, Reg.wltCnt, List.mem_cons, List.not_mem_nil, or_false] at ho h
  omega

include ho in
theorem Pumps.keepsReceipt {k : Nat} (h : Pumps k s t) : KeepsReceipt o s t :=
  ⟨h.link, h.only.rd_eq (belowCounts_receipt ho) (sentRegs_not_receipt k ho)⟩

include ho in
/-- A port's record that keeps its link. -/
theorem keepsReceipt_setWport (s : State) (k : Nat) {x : WPort} (h : SameLink (wport s k) x) : KeepsReceipt o s (setWport s k x) :=
  ⟨wport_setWport_rel SameLink.refl s k h, (only_setWport s k x).rd_eq (belowCounts_receipt ho) (by simp)⟩

theorem pumps_queueKey (s : State) (p : Nat) (y : WKey) : Pumps p s (queueKey s p y) := by
  have queued : SameLink (wport s p) { wport s p with keyq := (wport s p).keyq ++ [y] } := ⟨rfl, rfl, rfl, rfl, rfl⟩
  exact (transmits_setWport s p queued rfl).toPumps.trans (pumps_portPump _ p)

theorem pumps_queueAns (s : State) (p : Nat) (a : WAns) : Pumps p s (queueAns s p a) := by
  have queued : SameLink (wport s p) { wport s p with ansq := (wport s p).ansq ++ [a] } := ⟨rfl, rfl, rfl, rfl, rfl⟩
  exact (transmits_setWport s p queued rfl).toPumps.trans (pumps_portPump _ p)

/-! A member's search, from key to slot. -/

theorem keepsReceipt_setMem (s : State) (r : WMem) : KeepsReceipt o s (setMem s r) := ⟨fun _ => SameLink.refl _, rfl⟩

include ho in
theorem keepsReceipt_weltGranted (s : State) (id slot : Nat) : KeepsReceipt o s (weltGranted s id slot) := by
  unfold weltGranted
  split
  · exact KeepsReceipt.refl o s
  · next r _ =>
    have noted := keepsReceipt_setMem (o := o) s { r with sigma := some slot }
    split
    · exact KeepsReceipt.refl o s
    · dsimp only
      split
      · exact noted.trans ((transmits_keyGone _ 0 r.k).toPumps.keepsReceipt ho)
      · exact noted.trans ((pumps_queueKey _ 1 _).keepsReceipt ho)

/-- The counts that a hash search of its own may raise. -/
theorem only_takeKey (s : State) (w : Nat × Nat × Asker × Nat × Key × Bool) :
    Only [.hsh, .rgl, .vrd] [Reg.hshCnt 0] s (takeKey s w) := by
  have counted : Only [.hsh, .rgl, .vrd] [Reg.hshCnt 0] s (hcnt s 0 1) := (only_bump s _ 1).mono (by simp) (by simp)
  obtain ⟨k, m, who, t, key, stamp⟩ := w
  unfold takeKey
  dsimp only
  split
  · exact Only.refl _ _ s
  · split
    · exact (counted.ite (Only.refl _ _ s)).more (only_setVrd _ _) (by simp) (by simp)
    · split
      · exact (only_setHsh s _).mono (by simp) (by simp)
      · exact (only_present s _ _ _ _ _).mono (by simp) (by simp)

theorem only_issueHash (s : State) (m t : Nat) (who : Asker) (key : Key) (stamp : Bool) (k : Nat) :
    Only [.hsh, .rgl, .vrd] [Reg.hshCnt 0] s (issueHash s m t who key stamp k) := by
  unfold issueHash takeKeys
  dsimp only
  split
  · exact (only_setHsh s _).mono (by simp) (by simp)
  · exact (((only_setHsh s _).more (only_setHsh _ _) (by simp) (by simp)).trans (only_foldl _ only_takeKey _ _)).mono
      (by simp) (by simp)

theorem hshCnt_not_receipt (ho : o ∈ receiptRegs) : o ∉ [Reg.hshCnt 0] := by
  revert o
  decide

/-- The members with one more, which waits for its slot or granule. -/
def memberAdded (s : State) (r : WMem) : State :=
  { s with wlt := { s.wlt with
    nextId := s.wlt.nextId + 1
    mem := s.wlt.mem ++ [r] } }

theorem keepsReceipt_memberAdded (s : State) (r : WMem) : KeepsReceipt o s (memberAdded s r) := ⟨fun _ => SameLink.refl _, rfl⟩

/-- Does throttle level 3 refuse the search (R202)? -/
def memberRefused (s : State) (d : TblDecl) (at_ : Nat) : Bool := d.isTern && decide (actLevel s = 3) && decide (at_ ≤ s.cycle)

/-- The member's record as its search starts. -/
def memberNew (s : State) (d : TblDecl) (k : WKey) (port : Nat) (sigmaAt : Option Nat) (at_ : Nat) : WMem :=
  ⟨s.wlt.nextId, k, port, sigmaAt, none, memberRefused s d at_⟩

theorem weltMember_eq {k : WKey} {d : TblDecl} (hd : tblOf s k.table = some d) (m port : Nat) (sigmaAt : Option Nat) (at_ : Nat) :
    weltMember s m k port sigmaAt at_ =
      (let s1 := memberAdded s (memberNew s d k port sigmaAt at_)
       if memberRefused s d at_ then
         answerAt (weltGranted s1 s.wlt.nextId (slotNow s)) (s.cycle + 20) (.welt s.wlt.nextId) true Ans.miss
       else if d.isTern then
         present s1 m true (.slotSearch (.welt s.wlt.nextId) k.table (weltKey s k) (weltStamp s k)) at_ []
       else issueHash s1 m k.table (.welt s.wlt.nextId) (weltKey s k) true at_) := by
  rw [weltMember, hd]
  rfl

include ho in
theorem keepsReceipt_weltMember (s : State) (m : Nat) (k : WKey) (port : Nat) (sigmaAt : Option Nat) (at_ : Nat) :
    KeepsReceipt o s (weltMember s m k port sigmaAt at_) := by
  cases hd : tblOf s k.table with
  | none =>
    rw [weltMember, hd]
    exact KeepsReceipt.refl o s
  | some d =>
    rw [weltMember_eq hd]
    dsimp only
    have added := keepsReceipt_memberAdded (o := o) s (memberNew s d k port sigmaAt at_)
    split
    · exact (added.trans (keepsReceipt_weltGranted ho _ _ _)).trans ((only_setVrd _ _).keepsReceipt ho (by simp) (by simp))
    · split
      · exact added.trans ((only_present _ _ _ _ _ _).keepsReceipt ho (by simp) (by simp))
      · exact added.trans ((only_issueHash _ _ _ _ _ _ _).keepsReceipt ho (by simp) (hshCnt_not_receipt ho))

/-! An answer collected at its origin. -/

include ho in
theorem keepsReceipt_vcnt (s : State) : KeepsReceipt o s (vcnt s 6) :=
  (only_vcnt s 6).keepsReceipt ho (by simp) ((by decide : ∀ o ∈ receiptRegs, o ∉ [Reg.vrdEvtCnt 6]) o ho)

theorem keepsReceipt_setAgg (s : State) (l : List WAgg) :
    KeepsReceipt o s { s with wlt := { s.wlt with agg := l } } := ⟨fun _ => SameLink.refl _, rfl⟩

include ho in
/-- An answer for a descriptor reaches its search, or is counted late. -/
theorem keepsReceipt_giveAnswer (s : State) (due tag epoch n : Nat) (tern : Bool) (a : Ans) :
    KeepsReceipt o s (giveAnswer s ⟨due, .desc tag epoch n, tern, a⟩) := by
  unfold giveAnswer
  dsimp only
  split
  · split
    · exact (only_setFlight s _).keepsReceipt ho (by simp) (by simp)
    · exact keepsReceipt_vcnt ho s
  · exact keepsReceipt_vcnt ho s

include ho in
theorem keepsReceipt_weltDone (s : State) (a : WAgg) (hit : Bool) : KeepsReceipt o s (weltDone s a hit) := by
  have done_ (l : List WAgg) := keepsReceipt_setAgg (o := o) s l
  unfold weltDone
  dsimp only
  split
  · split
    · exact (done_ _).trans ((only_setFlight _ _).keepsReceipt ho (by simp) (by simp))
    · exact done_ _
  · split
    · exact done_ _
    · exact (done_ _).trans (keepsReceipt_giveAnswer ho _ _ _ _ _ _ _)

include ho in
theorem keepsReceipt_weltCollect (s : State) (w : WAns) : KeepsReceipt o s (weltCollect s w) := by
  have noted (l : List WAgg) := keepsReceipt_setAgg (o := o) s l
  unfold weltCollect
  split
  · split
    · exact keepsReceipt_vcnt ho s
    · dsimp only
      split
      · exact (noted _).trans (keepsReceipt_weltDone ho _ _ _)
      · split
        · exact (noted _).trans (keepsReceipt_weltDone ho _ _ _)
        · exact noted _
  · exact keepsReceipt_vcnt ho s

end Frames

end Sys2Proof.Machine
end

section
namespace Sys2Proof.Machine

section Received
variable {s : State} {k : Fin 2}

/-- A KEY (class 0) or ANS (class 1) frame has been received and counted (R382, R406). -/
def searchNoted (s : State) (k c i : Nat) : State :=
  wlcnt (setWport s k { wport s k with rcvd := (wport s k).rcvd.setNat c ((wport s k).rcvd.nat c + 1) }) k i 1

theorem only_searchNoted (s : State) (k c i : Nat) : Only [.wlt] [Reg.wltCnt k i] s (searchNoted s k c i) :=
  ((only_setWport s k _).trans (only_wlcnt _ k i 1)).mono (by simp) (by simp)

theorem wport_searchNoted (s : State) (k c i : Nat) : wport (searchNoted s k c i) k =
    { wport s k with rcvd := (wport s k).rcvd.setNat c ((wport s k).rcvd.nat c + 1) } := by
  rw [searchNoted, wport_wlcnt, wport_setWport_same]

theorem wport_searchNoted_ne (s : State) {k j : Nat} (c i : Nat) (h : j ≠ k) : wport (searchNoted s k c i) j = wport s j := by
  rw [searchNoted, wport_wlcnt, wport_setWport_ne _ _ h]

theorem rd_searchNoted (s : State) {k i : Nat} (c : Nat) (hk : k < 2) (hi : i < 12) :
    rd (searchNoted s k c i) (Reg.wltCnt k i) = (rd s (Reg.wltCnt k i) + 1) % 2 ^ 48 := by
  rw [searchNoted, wlcnt, rd_bump_same, (only_setWport s k _).rd_eq (belowCounts_wltCnt hk hi) (by simp)]

/-- After whatever a search does, the frame stands received and counted. -/
theorem received_of_keeps {t : State} {c i : Nat} (ho : Reg.wltCnt k.val i ∈ receiptRegs) (hi : i < 12)
    (h : KeepsReceipt (Reg.wltCnt k.val i) (searchNoted s k.val c i) t) :
    (wport (finish s t) k.val).rcvd.nat c = (wport s k.val).rcvd.nat c + 1 ∧
      rd (finish s t) (Reg.wltCnt k.val i) = (rd s (Reg.wltCnt k.val i) + 1) % 2 ^ 48 := by
  constructor
  · rw [wport_finish, (h.link k.val).rcvd, wport_searchNoted]
    dsimp only
    exact nat_setNat_same _ _ _
  · rw [rd_finish_below _ (belowCounts_receipt ho), h.count, rd_searchNoted s c k.isLt hi]

/-! KEY. -/

/-- The full number of a received SIGMA's slot, of a LEG 1 key only (R393). -/
def sigmaFull (s : State) (y : WKey) : Option Nat :=
  if y.leg then some (slotNow s - (slotNow s + 2048 - y.sigma) % 2048) else none

theorem keyReceive_framing {h : Nat} {payload : List Byte} (hs : (wport s k.val).state = 4)
    (hm : wtMode s (keyOf k.val h payload).table = 0) : keyReceive s k.val h payload = framingError s k.val := by
  simp [keyReceive, hs, hm]

theorem keyReceive_taken {h : Nat} {payload : List Byte} {y : WKey} (hs : (wport s k.val).state = 4)
    (hy : y = keyOf k.val h payload) (hm : wtMode s y.table ≠ 0) : keyReceive s k.val h payload =
      if y.leg = false ∧ myPos s ≠ wtFirst s y.table then queueKey (searchNoted s k.val 0 1) 0 y
      else weltMember (searchNoted s k.val 0 1) (keyMaster s y k.val) { y with leg := true } k.val (sigmaFull s y) s.cycle := by
  subst hy
  unfold keyReceive
  dsimp only
  rw [if_neg (not_not.2 hs), if_neg hm]
  rfl

theorem keepsReceipt_keyReceive {h : Nat} {payload : List Byte} {y : WKey} (hs : (wport s k.val).state = 4)
    (hy : y = keyOf k.val h payload) (hm : wtMode s y.table ≠ 0) :
    KeepsReceipt (Reg.wltCnt k.val 1) (searchNoted s k.val 0 1) (keyReceive s k.val h payload) := by
  have mem := (receipt_mem k.isLt).1
  rw [keyReceive_taken hs hy hm]
  split
  · exact (pumps_queueKey _ 0 y).keepsReceipt mem
  · exact keepsReceipt_weltMember mem _ _ _ _ _ _

/-- A table's cascading is what it was before the frame was counted (R405). -/
theorem wtFields_searchNoted (s : State) {k i : Nat} (hk : k < 2) (hi : i < 12) (c t : Nat) :
    wtMode (searchNoted s k c i) t = wtMode s t ∧ wtSlice (searchNoted s k c i) t = wtSlice s t := by
  have same : rd (searchNoted s k c i) (Reg.wltTbl t) = rd s (Reg.wltTbl t) :=
    rd_bump_ne _ 1 (by simp only [Reg.wltTbl, Reg.wltCnt]; omega)
  exact ⟨fget_congr same 1 0, fget_congr same 22 16⟩

theorem weltKey_searchNoted (s : State) {k i : Nat} (hk : k < 2) (hi : i < 12) (c : Nat) (y : WKey) :
    weltKey (searchNoted s k c i) y = weltKey s y ∧ weltStamp (searchNoted s k c i) y = weltStamp s y := by
  obtain ⟨mode, slice⟩ := wtFields_searchNoted s hk hi c y.table
  constructor
  · rw [weltKey, weltKey, mode, slice]
  · rw [weltStamp, weltStamp, mode, slice]

/-- Below throttle level 3 a ternary member asks for its slot (R390). -/
theorem weltMember_asks {d : TblDecl} {y : WKey} (hd : tblOf s y.table = some d) (ht : d.isTern = true) (hl : actLevel s ≠ 3)
    (m port : Nat) (sigmaAt : Option Nat) (at_ : Nat) : weltMember s m y port sigmaAt at_ =
      present (memberAdded s (memberNew s d y port sigmaAt at_)) m true
        (.slotSearch (.welt s.wlt.nextId) y.table (weltKey s y) (weltStamp s y)) at_ [] := by
  have allowed : memberRefused s d at_ = false := by simp [memberRefused, hl]
  rw [weltMember_eq hd, allowed, ht]
  rfl

/-- The request that a member's ternary search presents. -/
theorem key_asks {h : Nat} {payload : List Byte} {y : WKey} {d : TblDecl} (hs : (wport s k.val).state = 4)
    (hy : y = keyOf k.val h payload) (hm : wtMode s y.table ≠ 0) (hleg : y.leg = true) (hd : tblOf s y.table = some d)
    (ht : d.isTern = true) (hl : actLevel s ≠ 3) : keyReceive s k.val h payload =
      present (memberAdded (searchNoted s k.val 0 1) (memberNew (searchNoted s k.val 0 1) d y k.val (sigmaFull s y) s.cycle))
        (keyMaster s y k.val) true (.slotSearch (.welt s.wlt.nextId) y.table (weltKey s y) (weltStamp s y)) s.cycle [] := by
  have leg : { y with leg := true } = y := by
    rw [← hleg]
  have level : actLevel (searchNoted s k.val 0 1) ≠ 3 := hl
  obtain ⟨key, stamp⟩ := weltKey_searchNoted s k.isLt (i := 1) (by decide) 0 y
  rw [keyReceive_taken hs hy hm, if_neg (by simp [hleg]), leg,
    weltMember_asks (s := searchNoted s k.val 0 1) (d := d) hd ht level, key, stamp]
  rfl

theorem key_ends (h : BitVec 64) (payload : List Byte) (y : WKey) (d : TblDecl) (ha : awake s = true)
    (hs : (wport s k.val).state = 4) (hy : y = keyOf k.val h.toNat payload) : Ends (.keyReceive k h payload) s fun t =>
      (wtMode s y.table = 0 → (wport t k.val).state = 5 ∧ t.rgl = s.rgl) ∧
      (wtMode s y.table ≠ 0 → (wport t k.val).rcvd.nat 0 = (wport s k.val).rcvd.nat 0 + 1 ∧
        rd t (Reg.wltCnt k.val 1) = (rd s (Reg.wltCnt k.val 1) + 1) % 2 ^ 48) ∧
      (wtMode s y.table ≠ 0 → y.leg = true → tblOf s y.table = some d → d.isTern = true → actLevel s ≠ 3 →
        (∃ r ∈ t.rgl.reqs, r.id = s.rgl.nextId ∧ r.master = keyMaster s y k.val ∧ r.slot = true ∧
          r.purpose = .slotSearch (.welt s.wlt.nextId) y.table (weltKey s y) (weltStamp s y)) ∧
        Only [.wlt, .rgl] [Reg.wltCnt k.val 1] s t) := by
  refine ends_of (core_keyReceive k h payload ha) ⟨fun hm => ?_, fun hm => ?_, fun hm hleg hd ht hl => ?_⟩
  · rw [keyReceive_framing hs (by rw [← hy]; exact hm)]
    refine ⟨?_, (only_framingError s k.val).finished.1 .rgl (by simp)⟩
    rw [wport_finish, wport_framingError hs, (toldPort_recovering s k.val).1]
  · exact received_of_keeps (receipt_mem k.isLt).1 (by decide) (keepsReceipt_keyReceive hs hy hm)
  · have asked := key_asks hs hy hm hleg hd ht hl
    refine ⟨?_, ?_⟩
    · rw [finish_rgl, asked]
      exact ⟨_, List.mem_append_right _ (List.mem_singleton.2 rfl), rfl, rfl, rfl, rfl⟩
    · rw [asked]
      exact ((((only_searchNoted s k.val 0 1).trans (only_setWlt _ _)).trans (only_present _ _ _ _ _ _)).mono (by simp)
        (by simp)).finished

/-! ANS. -/

theorem ansReceive_eq {h : Nat} {payload : List Byte} {a : WAns} (hs : (wport s k.val).state = 4)
    (ha : a = ansFrom k.val h payload) : ansReceive s k.val h payload =
      if a.origin = myPos s then freeEntry (weltCollect (searchNoted s k.val 1 3) a) k.val 1 1
      else queueAns (searchNoted s k.val 1 3) (portTo s a.origin) a := by
  subst ha
  exact if_neg (not_not.2 hs)

theorem keepsReceipt_ansReceive {h : Nat} {payload : List Byte} {a : WAns} (hs : (wport s k.val).state = 4)
    (ha : a = ansFrom k.val h payload) :
    KeepsReceipt (Reg.wltCnt k.val 3) (searchNoted s k.val 1 3) (ansReceive s k.val h payload) := by
  have mem := (receipt_mem k.isLt).2
  rw [ansReceive_eq hs ha]
  split
  · exact (keepsReceipt_weltCollect mem _ a).trans (keepsReceipt_setWport mem _ _ ⟨rfl, rfl, rfl, rfl, rfl⟩)
  · exact (pumps_queueAns _ _ a).keepsReceipt mem

/-- An answer for a tag that is not in flight is counted late. -/
theorem weltCollect_late {a : WAns} (h : flightOf s a.tag = none) : weltCollect s a = vcnt s 6 := by
  rw [weltCollect, h]

theorem ansq_admitWaiting (x : WPort) (shut : List Nat) (l : List BFrame) : (admitWaiting x shut l).1.ansq = x.ansq := by
  induction l generalizing x shut with
  | nil => rfl
  | cons f l ih =>
    rw [admitWaiting]
    split
    · exact ih (enqueue x f) shut
    · exact ih x _

theorem ansq_admitted (s : State) (p : Nat) : (wport (admitted s p) p).ansq = (wport s p).ansq := by
  unfold admitted
  split
  · rfl
  · rw [wport_setWport_same]
    exact ansq_admitWaiting _ _ _

/-- A port that does not send keeps the answer that has joined its queue. -/
theorem ansq_queueAns {p : Nat} (a : WAns) (h : (wport s p).sends = false) :
    (wport (queueAns s p a) p).ansq = (wport s p).ansq ++ [a] := by
  obtain ⟨u, hu⟩ : ∃ u, u = setWport s p { wport s p with ansq := (wport s p).ansq ++ [a] } := ⟨_, rfl⟩
  have here : wport u p = { wport s p with ansq := (wport s p).ansq ++ [a] } := by rw [hu, wport_setWport_same]
  have still : (wport (admitted u p) p).sends = false := by
    rw [((pumps_admitted u p).link p).sends, here]
    exact h
  rw [queueAns, ← hu, portPump_eq, sendAll_of_not_sends still, ansq_admitted, here]

theorem ans_ends (h : BitVec 64) (payload : List Byte) (a : WAns) (haw : awake s = true) (hs : (wport s k.val).state = 4)
    (ha : a = ansFrom k.val h.toNat payload) : Ends (.ansReceive k h payload) s fun t =>
      (wport t k.val).rcvd.nat 1 = (wport s k.val).rcvd.nat 1 + 1 ∧
      rd t (Reg.wltCnt k.val 3) = (rd s (Reg.wltCnt k.val 3) + 1) % 2 ^ 48 ∧
      (a.origin = myPos s → flightOf s a.tag = none →
        (wport t k.val).freed.nat 1 = (wport s k.val).freed.nat 1 + 1 ∧
        rd t (Reg.vrdEvtCnt 6) = (rd s (Reg.vrdEvtCnt 6) + 1) % 2 ^ 48 ∧
        Only [.wlt] [Reg.wltCnt k.val 3, Reg.vrdEvtCnt 6] s t) ∧
      (a.origin ≠ myPos s → portTo s a.origin ≠ k.val → (wport s (portTo s a.origin)).sends = false →
        (wport t (portTo s a.origin)).ansq = (wport s (portTo s a.origin)).ansq ++ [a] ∧ keepsUnits [.wlt] s t) := by
  have noted := only_searchNoted s k.val 1 3
  refine ends_of (core_ansReceive k h payload haw) ?_
  obtain ⟨rcvd, count⟩ := received_of_keeps (receipt_mem k.isLt).2 (by decide) (keepsReceipt_ansReceive hs ha)
  refine ⟨rcvd, count, fun ho hf => ?_, fun ho hp hsend => ?_⟩
  · have late : weltCollect (searchNoted s k.val 1 3) a = vcnt (searchNoted s k.val 1 3) 6 :=
      weltCollect_late (s := searchNoted s k.val 1 3) hf
    have evt : belowCounts (Reg.vrdEvtCnt 6) := belowCounts_vrdEvtCnt (by decide)
    have apart : Reg.vrdEvtCnt 6 ∉ [Reg.wltCnt k.val 3] := by
      simp only [List.mem_singleton, Reg.vrdEvtCnt, Reg.wltCnt]
      omega
    have port : wport (vcnt (searchNoted s k.val 1 3) 6) k.val = wport (searchNoted s k.val 1 3) k.val :=
      wport_congr ((only_vcnt _ 6).1 .wlt (by simp)) k.val
    rw [ansReceive_eq hs ha, if_pos ho, late]
    refine ⟨?_, ?_, ?_⟩
    · rw [wport_finish, freeEntry, wport_setWport_same, port, wport_searchNoted]
      dsimp only
      exact nat_setNat_same _ _ _
    · rw [rd_finish_below _ evt, freeEntry, (only_setWport _ _ _).rd_eq evt (by simp), vcnt, rd_bump_same,
        noted.rd_eq evt apart]
    · exact (((noted.trans (only_vcnt _ 6)).trans (only_setWport _ _ _)).mono (by simp) (by simp)).finished
  · rw [ansReceive_eq hs ha, if_neg ho, wport_finish]
    have other : wport (searchNoted s k.val 1 3) (portTo s a.origin) = wport s (portTo s a.origin) :=
      wport_searchNoted_ne s 1 3 hp
    refine ⟨?_, ?_⟩
    · rw [ansq_queueAns a (by rw [other]; exact hsend), other]
    · exact keepsUnits_finish ((noted.trans (pumps_queueAns _ _ a).only).mono (vs := [.wlt]) (by simp) (List.Subset.refl _)).1

end Received

/-- Settles O44: credit and recovery by the equations of their commands; a frame's steps through the device keep each port's
link and the counts of frames received, whatever else a search or a collected answer does. -/
theorem weltCreditsFramesAndRecovery : Obligations.WeltCreditsFramesAndRecovery := by
  intro s k x ha hx
  subst hx
  refine ⟨fun key ans p np cpl ack nak hs => credit_ends key ans p np cpl ack nak ha hs, creditSend_ends ha,
    fun hs => framingError_ends ha hs, fun ks an hs => resume_ends ks an ha hs, fun hs ho hd => resend_ends ha hs ho hd,
    fun h payload y d hs hy => key_ends h payload y d ha hs hy, fun h payload a hs hy => ans_ends h payload a ha hs hy⟩

end Sys2Proof.Machine
end
